-- ==== Sys2Proof/Word.lean ====
section
/-! DEFINITION. The plain word types of the SX4096 and the arithmetic they share (00 R8: bit 0 is the
least significant bit, every multi-byte structure is little-endian). -/

namespace Sys2Proof

/-- One byte, the smallest addressable unit of every memory of the part. -/
abbrev Byte := BitVec 8

/-- A 32-bit register or FP32 value as bits. -/
abbrev Word := BitVec 32

/-- The 112 operand bits of an instruction (05 R172). -/
abbrev Operands := BitVec 112

/-- A sparse table: pairs of a key and a value, keys strictly rising, unlisted keys at their default. -/
abbrev Tbl (α : Type) := List (Nat × α)

end Sys2Proof
end

