-- ==== Sys2Proof/Syntax.lean ====
section
/-! DEFINITION. The commands of the SX4096: one constructor per row of spec/opcode_table.json, and the records
their operands are made of. A command is what reaches the part from outside one of its units: a dictionary request,
a packet, an instruction that a stone issues, the end of a piece of work, an event on a pin or the expiry of a timer. -/

namespace Sys2Proof

/-- A request to the object dictionary as it reaches the server (14 R460, R461, R463, R466).
The operation and, where the row names an entry, the index and sub-index come from the command itself. -/
structure Req where
  /-- Path code of 14: 0 management port, 1 mailbox, 2 mapped window, 3 keystone relay, 4 command ring. -/
  path : Nat
  /-- The original source of R461: paths 0 and 3, the address on the management port of the package that first took the request. -/
  src : Nat
  seq : Nat
  version : Nat
  relay : Bool
  position : Nat
  /-- The reserved bits of the header, zero in a good request. -/
  resv : Nat
  typ : Nat
  length : Nat
  /-- Bytes that really follow the header in the frame (R471 step 7). -/
  frameLen : Nat
  /-- The data, read as one little-endian value (R453). -/
  value : Nat
  /-- Path 3: the path on which the request reached the keystone (R466). -/
  viaPath : Nat
  /-- Path 3: the grid position of the package that sent the relay (R30). -/
  fromPos : Nat
  /-- Path 1: mailbox slot. Path 2: context page. Path 4: ring. -/
  slot : Nat
  deriving DecidableEq, Repr

/-- The header bits of an instruction above its operands (05 R172). CLASS and OP are the command's own. -/
structure IHdr where
  varying : Bool
  soc : Bool
  signalEn : Bool
  signalObj : Nat
  resv : Nat
  deriving DecidableEq, Repr

/-- A choice record: a claim or a verdict (03 R75). RANK is held as the rank, 1 to k. -/
structure Choice where
  tokenId : Nat
  gen : Nat
  layer : Nat
  ctx : Nat
  originPkg : Nat
  originStone : Nat
  spec : Bool
  rank : Nat
  replica : Nat
  expert : Nat
  status : Nat
  deriving DecidableEq, Repr

/-- The replica record of a placement block (03 R69). -/
structure Replica where
  pkg : Nat
  firstStone : Nat
  span : Nat
  valid : Bool
  resv : Nat
  deriving DecidableEq, Repr

/-- A claim as it travels: the choice record and the replica record under which its lead router sent it (03 R79, R589). -/
structure Claim where
  choice : Choice
  rep : Replica
  deriving DecidableEq, Repr

/-- The token descriptor of a copy (03 R96), all segments of the copy taken together. -/
structure TokenDesc where
  tokenId : Nat
  gen : Nat
  layer : Nat
  ctx : Nat
  fanout : Nat
  spillMask : Nat
  position : Nat
  spec : Bool
  resend : Bool
  /-- The resend of 04 R145 to an alternate (the queue entry's PATH 2); carried beside the descriptor. -/
  alternate : Bool
  /-- TARGET_STONE of the copy's routed header (10 R306): for a resend, the first stone of its new replica. -/
  targetStone : Nat
  /-- The token's origin stone, carried beside the descriptor, which has no place for it (log entry 126). -/
  originStone : Nat
  deriving DecidableEq, Repr

/-- The return header (03 R109). -/
structure RetHdr where
  tokenId : Nat
  gen : Nat
  layer : Nat
  ctx : Nat
  originStone : Nat
  rank : Nat
  spec : Bool
  path : Nat
  segment : Nat
  format : Nat
  deriving DecidableEq, Repr

/-- The address of a token at a confluence: which context, layer, generation and token. -/
structure TokKey where
  ctx : Nat
  layer : Nat
  gen : Nat
  tokenId : Nat
  deriving DecidableEq, Repr

/-- A placement descriptor of an object (04 R126). -/
structure ObjDesc where
  home : Nat
  sizeKib : Nat
  firstStone : Nat
  span : Nat
  sramKib : Nat
  expert : Nat
  layer : Nat
  shadow : Nat
  kind : Nat
  mode : Nat
  tier : Nat
  dirtyTrack : Bool
  valid : Bool
  software : Nat
  resv : Nat
  deriving DecidableEq, Repr

/-- One expert layer as a program image declares it: the settings of 0x6100 + n by sub-index (02 R67, 03 R119,
04 R146), whether its run instructions carry VARYING (05 R176), and its placement blocks (03 R69). -/
structure ImgLayer where
  layer : Nat
  settings : List (Nat × Nat)
  runVarying : Bool
  blocks : List (Nat × List Replica)
  deriving DecidableEq, Repr

/-- A collective descriptor (12 R381). -/
structure CollDesc where
  src : Nat
  dst : Nat
  count : Nat
  cop : Nat
  dtype : Nat
  rop : Nat
  group : Nat
  root : Nat
  tileCode : Nat
  srcSpace : Nat
  dstSpace : Nat
  tps : Nat
  signalStone : Nat
  signalObj : Nat
  chunkSignal : Bool
  doneSignal : Bool
  record : Nat
  resv : Nat
  deriving DecidableEq, Repr

/-- An S24 tile of an image (07 R237, R242): TPOSE_USE, rows, K and, by row, the pairs of indices of each group. -/
structure ImgTile where
  tposeUse : Bool
  rows : Nat
  k : Nat
  idx : List (List (Nat × Nat))
  deriving DecidableEq, Repr

/-- A non-preemptible region of an image (13 R424): its bound in core cycles (none = no bound declared), whether it is
nested or lacks its end, and whether it holds an instruction that R424 forbids. -/
structure ImgRegion where
  bound : Option Nat
  nested : Bool
  ends : Bool
  forbidden : Bool
  deriving DecidableEq, Repr

/-- One stone's part of a program image: the logical stone, expert or general (05 R195), its instruction words (placed from
SRAM offset 0 on, 05 R178), the further KiB granules that the program itself uses there, beside its windows and queue
rings, and their initial bytes. -/
structure ImgStone where
  stone : Nat
  expert : Bool
  words : List (BitVec 128)
  granules : List Nat
  bytes : List (Nat × BitVec 8)
  deriving DecidableEq, Repr

/-- A program image as the loader reads it. The manual gives no byte format for the container; the fields are what its
rules check and load (13 R423 and the rules it names). -/
structure Image where
  partOk : Bool
  lengthKib : Nat
  /-- SHA-512 input of 13 R445 item 1, the image bytes as loaded, as one little-endian value. -/
  bytes : Nat
  byteCount : Nat
  stones : List ImgStone
  leadStone : Nat
  stepDescOffset : Nat
  layers : List ImgLayer
  objects : List ObjDesc
  regions : List ImgRegion
  syncMax : Nat
  tiles : List ImgTile
  colls : List CollDesc
  /-- KiB of other tier-0 use beside the footprint that the queue rings take: (stone, first KiB, KiB). -/
  rings : List (Nat × Nat × Nat)
  /-- Declared aqueducts: (key in-port * 256 + id, entry of 10 R319). -/
  aqueducts : List (Nat × BitVec 128)
  deriving DecidableEq, Repr

/-- A fault as a unit reports it to the plumb (16 R503, R507). -/
structure Fault16 where
  cls : Nat
  cause : Nat
  kind : Nat
  unit : Nat
  ctx : Option Nat
  detail : Nat
  deriving DecidableEq, Repr

/-- The unit that fails in a UNIT_FAILURE (01 R20, R21). -/
inductive FailedUnit where
  | meshStop (course : Nat)
  | courseDma (course : Nat)
  | cisternManager (bay : Nat)
  | ledger (bay : Nat)
  | millrace (wythe : Nat)
  | mortar (wythe : Nat)
  | stack (n : Nat)
  | bridge
  | mgmtProcessor (n : Nat)
  | alwaysOn
  | plumb
  | keyStore
  | switch (wythe : Nat)
  deriving DecidableEq, Repr

/-- What the read of the gate store met in a scoring pass (02 R35). -/
inductive GateRead where
  | clean
  | corrected
  | uncorrected
  deriving DecidableEq, Repr

/-- How the reads of a stream of images in the own tier 1 ended (02 R587). -/
inductive StreamEnd where
  | ok
  | failed
  deriving DecidableEq, Repr

/-- A routed packet (10 R306). The class field and payload keep the bits that the chapter of the traffic gives. -/
structure Packet where
  dest : Nat
  src : Nat
  jobTag : Nat
  cls : Nat
  phase : Nat
  epoch : Nat
  target : Nat
  targetStone : Nat
  length : Nat
  hops : Nat
  classField : BitVec 128
  payload : List (BitVec 8)
  deriving DecidableEq, Repr

/-- An aqueduct packet (10 R310). -/
structure AqPacket where
  aqueduct : Nat
  cls : Nat
  phase : Nat
  last : Bool
  seq : Nat
  payload : List (BitVec 8)
  deriving DecidableEq, Repr

/-- What a link frame carries (10 R302). -/
inductive FrameBody where
  | routed (p : Packet)
  | aqueduct (p : AqPacket)
  | management
  /-- TYPE 3, which 10 R302 reserves. -/
  | reserved
  deriving DecidableEq, Repr

/-- A link frame with the outcome of its receive checks (10 R302, R304, R339): FEC codewords corrected and not correctable,
tag, sequence number. -/
structure LinkFrame where
  keyPhase : Bool
  vc : Nat
  seq : Nat
  fecCorrected : Nat
  fecUncorrected : Nat
  tagOk : Bool
  bufferOk : Bool
  body : FrameBody
  deriving DecidableEq, Repr

/-- A control block (10 R303): running credit totals per VC, OFF_MASK, ACK_SEQ, NAK, KEY_PHASE; and the outcome of its FEC
and tag checks. -/
structure CtrlBlock where
  keyPhase : Bool
  fecCorrected : Nat
  fecUncorrected : Nat
  credits : List Nat
  offMask : Nat
  ackSeq : Nat
  nak : Bool
  tagOk : Bool
  deriving DecidableEq, Repr

/-- Where a packet meets a switch (10 R325). -/
inductive Arrival where
  | injection (wythe : Nat)
  | port (p : Nat)
  | bridge (wythe : Nat)
  deriving DecidableEq, Repr

/-- A peer's HELLO with the verdicts of the checks that need keys (10 R299, 18 R553). -/
structure Hello where
  peerPkg : Nat
  peerPort : Nat
  flowMode : Nat
  certOk : Bool
  sigOk : Bool
  endorsed : Bool
  deriving DecidableEq, Repr

/-- A memory request at its home (11 R350). -/
structure MemReq where
  srcPkg : Nat
  jobTag : Nat
  op : Nat
  unitKind : Nat
  unit : Nat
  slot : Nat
  size : Nat
  seq : Nat
  issueT : Nat
  attempt : Nat
  lake : Bool
  offset : Nat
  /-- SIGNAL: the target stone (TARGET_STONE of the packet). -/
  targetStone : Nat
  payload : List (BitVec 8)
  deriving DecidableEq, Repr

/-- A memory response (11 R351). -/
structure MemResp where
  srcPkg : Nat
  op : Nat
  unitKind : Nat
  unit : Nat
  slot : Nat
  seq : Nat
  attempt : Nat
  status : Nat
  replayed : Bool
  payload : List (BitVec 8)
  deriving DecidableEq, Repr

/-- The name of a collective on a package (12 R385). -/
structure CollKey where
  ctx : Nat
  group : Nat
  seq : Nat
  deriving DecidableEq, Repr

/-- A mortar message (12 R395, R396) for the collective its header names by slot, group and SEQ modulo 2^24. -/
structure CollMsg where
  key : CollKey
  chunk : Nat
  fromRank : Nat
  cover : Nat
  attempt : Nat
  digest : Option Nat
  crcOk : Bool
  code : Nat
  codeRank : Nat
  payload : List (BitVec 8)
  deriving DecidableEq, Repr

/-- A multicast leg chunk at its destination (12 R410): the poster, its multicast number, the leg and the target. -/
structure LegMsg where
  poster : Nat
  ctx : Nat
  number : Nat
  leg : Nat
  chunk : Nat
  stone : Nat
  offset : Nat
  crcOk : Bool
  payload : List (BitVec 8)
  deriving DecidableEq, Repr

/-- A submission ring entry (15 R488). -/
structure RingEntry where
  ride : Bool
  mix : Bool
  post : Bool
  notify : Bool
  mailbox : Nat
  seq : Nat
  firstToken : Nat
  count : Nat
  firstPos : Nat
  cmdAddr : Nat
  rspAddr : Nat
  resv : Nat
  deriving DecidableEq, Repr

/-- An Umora Link flit's header and CRC verdict (15 R479, R480). -/
structure Flit where
  seq : Nat
  ackSeq : Nat
  nak : Bool
  idle : Bool
  creditP : Nat
  creditN : Nat
  crcOk : Bool
  deriving DecidableEq, Repr

/-- An IEEE 1149.1 instruction (18 R563). -/
inductive TapInstr where
  | bypass
  | idcode
  | samplePreload
  | extest
  | other (code : Nat)
  deriving DecidableEq, Repr

/-- The firmware image as the boot ROM read it (18 R558, R559): the header, the digest of the copy and the verdict of
the signature check. -/
structure FwImage where
  readOk : Bool
  magic : Nat
  format : Nat
  partCode : Nat
  version : Nat
  securityVersion : Nat
  keyIndex : Nat
  resv : Nat
  length : Nat
  digest : Nat
  sigOk : Bool
  deriving DecidableEq, Repr

/-- A wake event of 17 R535. -/
inductive WakeCause where
  | mapped
  | packet
  | signal
  | timer
  | setting
  | transition
  deriving DecidableEq, Repr

/-- What an SRAM read of an instruction met (05 R169): nothing, a correctable word, or an uncorrectable word at an offset. -/
inductive SramRead where
  | clean
  | corrected (offset : Nat)
  | uncorrectable (offset : Nat)
  deriving DecidableEq, Repr

/-- A bit of an engine's array that a fault flips while a tile is in it (06 R221, R224): in the block sum of a data cell, a value of
the checksum row or the checksum column, or the second result of a converter pair. `blk` is the block along K, `pass` the pass of the
product, `row` the weight row, `token` the logical token, `seg` the segment of a folded shape, `part` 1 for the imaginary output. -/
inductive Upset where
  | cell (blk pass row token bit : Nat)
  | checkRow (blk pass seg token bit : Nat)
  | checkCol (blk pass row seg bit : Nat)
  | converter (blk part row token bit : Nat)
  deriving DecidableEq, Repr

/-- The commands. Each constructor is one row of spec/opcode_table.json, in the table's order. -/
inductive Instr where
  -- reset, supplies, clocks, start-up, security
  | resetAssert
  | resetRelease (trayId : Nat)
  | supplyRange (rail : Nat)
  | refclkLost
  | pllLockTimeout (pll : Nat)
  | pllLockLoss (pll : Nat)
  | firmwareLoad (q : Req)
  | firmwareImageChecked (f : FwImage)
  | securityVersionCommit (q : Req)
  | initSramZeroed
  | stacksTrained (failed : Option Nat)
  | tier1Zeroed
  | rngHealth
  | ownerKey (q : Req)
  | endorsement (sigOk : Bool) (q : Req)
  | attestNonce (q : Req)
  | quoteComplete
  | testUnlock (sigOk : Bool) (q : Req)
  | unlockWipeComplete
  | testPortInstruction (t : TapInstr)
  -- device state, identity, keystone
  | stateRequestConfigured (q : Req)
  | stateRequestRunning (q : Req)
  | packageIdWrite (q : Req)
  | keystonePositionWrite (q : Req)
  | keystoneBeacon
  | pondBeacon (fromPos : Nat)
  | keystoneSilent
  | unitFailure (u : FailedUnit)
  -- scoring
  | submit (st : Nat) (h : IHdr) (o : Operands)
  | scoringPass (bay ctx layer gen : Nat) (read : GateRead)
  | gateStreamComplete (bay ctx layer : Nat) (e : StreamEnd)
  | partialScores (k : TokKey)
  | placementBlockRead (bay ctx layer expert status : Nat) (block : List Replica)
  | claimBundle (srcPkg : Nat) (cs : List Claim)
  | claimBundleAck (ctx layer gen home : Nat)
  | admissionBarrierJoin (ctx layer gen : Nat)
  | admission (ctx layer gen : Nat)
  | admissionAbort (ctx layer gen code : Nat)
  | verdictBundle (srcPkg : Nat) (cs : List Choice)
  | tokenCopy (srcPkg : Nat) (d : TokenDesc) (payload : List (BitVec 8))
  | cisternGrant (pool : Nat) (corrected : Bool)
  | listRebuildComplete (pool : Nat)
  | expertRun (st : Nat) (h : IHdr) (o : Operands)
  | runPartDue (ctx layer first : Nat)
  | missGraceExpiry (ctx layer first : Nat)
  | missNotice (k : TokKey) (rank : Nat) (notResident : Bool)
  | expertRunComplete (st cycles : Nat)
  | carryWaitExpiry (ctx layer first : Nat)
  | ret (st : Nat) (h : IHdr) (o : Operands)
  | returnPacket (h : RetHdr) (payload : List (BitVec 8))
  | returnTimeoutExpiry (k : TokKey) (rank : Nat)
  | fetch (st : Nat) (h : IHdr) (o : Operands)
  | flush (st : Nat) (h : IHdr) (o : Operands)
  | kvCommit (st : Nat) (h : IHdr) (o : Operands)
  | retire (st : Nat) (h : IHdr) (o : Operands)
  | accept (st : Nat) (h : IHdr) (o : Operands)
  | retireGeneration (q : Req)
  | abandonStranded (q : Req)
  | placementUpdate (q : Req)
  | placementStoreComplete (ctx layer expert status : Nat)
  | deadlinePolicyWrite (layer : Nat) (q : Req)
  -- memory tiers
  | fillStart (wythe ctx obj : Nat)
  | fillComplete (wythe ctx obj : Nat) (bad : List (Nat × Bool)) (bytes : List (BitVec 8))
  | writebackComplete (ctx obj : Nat)
  | placeObject (q : Req)
  | flushObject (q : Req)
  | kvWrite (st stream pos : Nat) (off : Nat) (bytes : List (BitVec 8))
  | setWatermark (q : Req)
  | releaseProvisional (q : Req)
  | kvPoolTail (q : Req)
  -- the stone
  | halt (st : Nat) (h : IHdr) (o : Operands)
  | branch (st : Nat) (h : IHdr) (o : Operands)
  | loopSet (st : Nat) (h : IHdr) (o : Operands)
  | loopBack (st : Nat) (h : IHdr) (o : Operands)
  | yield (st : Nat) (h : IHdr) (o : Operands)
  | stepMark (st : Nat) (h : IHdr) (o : Operands)
  | npBegin (st : Nat) (h : IHdr) (o : Operands)
  | npEnd (st : Nat) (h : IHdr) (o : Operands)
  | setVl (st : Nat) (h : IHdr) (o : Operands)
  | setReg (st : Nat) (h : IHdr) (o : Operands)
  | regionOverrun (st : Nat)
  | dmaPost (st : Nat) (h : IHdr) (o : Operands)
  | dmaDescriptorComplete (course st : Nat) (stop : Option Nat) (outside : List (BitVec 8))
  | syncSet (st : Nat) (h : IHdr) (o : Operands)
  | syncAdd (st : Nat) (h : IHdr) (o : Operands)
  | syncSignal (st : Nat) (h : IHdr) (o : Operands)
  | syncWait (st : Nat) (h : IHdr) (o : Operands)
  | syncRead (st : Nat) (h : IHdr) (o : Operands)
  | syncClear (st : Nat) (h : IHdr) (o : Operands)
  | signalDelivery (st obj : Nat) (addend : Nat)
  | syncWatchdogExpiry (st : Nat)
  | scrubPass (st : Nat) (r : SramRead)
  | fenceStone (q : Req)
  | remapStone (q : Req)
  -- engines, compressor, vector chain
  | denseProduct (st : Nat) (h : IHdr) (o : Operands) (r : SramRead)
  | sparseProduct (st : Nat) (h : IHdr) (o : Operands) (r : SramRead)
  | tileComplete (st : Nat) (sparse : Bool) (upsets : List Upset) (busy : Nat)
  | compressActivations (st : Nat) (h : IHdr) (o : Operands)
  | compressWeightsMask (st : Nat) (h : IHdr) (o : Operands)
  | compressWeightsMagnitude (st : Nat) (h : IHdr) (o : Operands)
  | expand (st : Nat) (h : IHdr) (o : Operands)
  | transpose (st : Nat) (h : IHdr) (o : Operands)
  | engineInject (q : Req)
  | configure (st : Nat) (h : IHdr) (o : Operands)
  | vectorRun (st : Nat) (h : IHdr) (o : Operands) (r : SramRead) (parityOk : Bool)
  | vectorRunComplete (st : Nat) (busy : Nat)
  | scalarSet (st : Nat) (h : IHdr) (o : Operands)
  | scalarFunc (st : Nat) (h : IHdr) (o : Operands)
  | scalarStore (st : Nat) (h : IHdr) (o : Operands)
  | scalarLoad (st : Nat) (h : IHdr) (o : Operands)
  -- buffer pools
  | bufferRelease (st : Nat) (h : IHdr) (o : Operands)
  | poolCommit (q : Req)
  -- pond memory
  | memoryLoad (st : Nat) (h : IHdr) (o : Operands)
  | memoryStore (st : Nat) (h : IHdr) (o : Operands)
  | atomicRead (st : Nat) (h : IHdr) (o : Operands)
  | atomicSwap (st : Nat) (h : IHdr) (o : Operands)
  | atomicCas (st : Nat) (h : IHdr) (o : Operands)
  | atomicAdd (st : Nat) (h : IHdr) (o : Operands)
  | atomicAnd (st : Nat) (h : IHdr) (o : Operands)
  | atomicOr (st : Nat) (h : IHdr) (o : Operands)
  | atomicXor (st : Nat) (h : IHdr) (o : Operands)
  | atomicMaxS (st : Nat) (h : IHdr) (o : Operands)
  | atomicMinS (st : Nat) (h : IHdr) (o : Operands)
  | atomicMaxU (st : Nat) (h : IHdr) (o : Operands)
  | atomicMinU (st : Nat) (h : IHdr) (o : Operands)
  | memoryFence (st : Nat) (h : IHdr) (o : Operands)
  | memoryRequestAtHome (r : MemReq) (ledgerOk : Bool)
  | lineRequestPerformed (line : Nat) (readOk : Bool)
  | memoryResponse (r : MemResp)
  | attemptTimeoutExpiry (unitKind unit slot : Nat)
  | ledgerEntryExpiry (srcPkg unitKind unit seq : Nat)
  | windowSet (q : Req)
  | windowClear (q : Req)
  -- collectives
  | groupCommit (group : Nat) (q : Req) (readOk : Bool)
  | collBarrier (st : Nat) (h : IHdr) (o : Operands)
  | collBroadcast (st : Nat) (h : IHdr) (o : Operands)
  | collReduce (st : Nat) (h : IHdr) (o : Operands)
  | collAllReduce (st : Nat) (h : IHdr) (o : Operands)
  | collReduceScatter (st : Nat) (h : IHdr) (o : Operands)
  | collAllGather (st : Nat) (h : IHdr) (o : Operands)
  | collMulticast (st : Nat) (h : IHdr) (o : Operands)
  | collRetentionGrant (k : CollKey) (cycles : Nat)
  | tileNotice (st handle tile : Nat)
  | partialMsg (m : CollMsg)
  | resultMsg (m : CollMsg)
  | pnak (m : CollMsg) (readOk : Bool)
  | collNak (m : CollMsg) (readOk : Bool)
  | doneMsg (m : CollMsg)
  | sealMsg (m : CollMsg)
  | abortReq (m : CollMsg)
  | abort (m : CollMsg)
  | backoff (m : CollMsg)
  | backoffRetry (k : CollKey) (chunk : Nat)
  | leg (m : LegMsg)
  | legAck (ctx number leg chunk answer : Nat) (readOk : Bool)
  | collTimeoutExpiry (k : CollKey)
  | sealWaitTimeout (k : CollKey)
  | collAbort (q : Req)
  -- fabric
  | portTrainingRetry (p : Nat)
  | trainingComplete (p : Nat) (ok : Bool)
  | hello (p : Nat) (m : Hello)
  | echoFrame (p : Nat) (roundTrip : Nat)
  | refusalNotice (p : Nat)
  | linkLockLoss (p : Nat)
  | portRetrain (p : Nat) (q : Req)
  | portFence (p : Nat) (q : Req)
  | rekey (p : Nat)
  | rekeyExchange (p : Nat) (checksOk : Bool)
  | linkFrameReceived (p : Nat) (f : LinkFrame)
  | controlBlock (p : Nat) (b : CtrlBlock)
  | frameTransmit (p : Nat) (bufferOk : Bool)
  | packetRoute (a : Arrival) (bufferOk : Bool)
  | aqueductPacket (inPort : Nat) (a : AqPacket)
  | aqSet (q : Req)
  | aqClear (q : Req)
  | tableInstall (q : Req)
  | injectEpoch (q : Req)
  | tableRetire (q : Req)
  | epochStepInstall (q : Req)
  | epochStepFlip (q : Req)
  | epochStepPoll (q : Req)
  | epochStepRetire (q : Req)
  | epochStepMember (fromPos op epoch : Nat)
  | epochStepAnswer (pos : Nat) (accepted : Bool) (injecting : Nat) (epochIn epochHeld : Nat)
  | epochStepTimeout
  -- jobs and contexts
  | load (q : Req)
  | loadComplete (img : Image)
  | unload (ctx : Nat) (q : Req)
  | unloadComplete (ctx : Nat)
  | resumeContinue (ctx : Nat) (q : Req)
  | resumeStepMark (ctx : Nat) (q : Req)
  | pondJobPrepare (q : Req) (list : List Nat)
  | pondJobCommit (q : Req)
  | pondJobRun (q : Req)
  | pondJobAbort (q : Req)
  | pondJobTeardown (q : Req)
  | jobPrepare (fromPos : Option Nat) (staging : Nat) (list : List Nat)
  | jobCommit (fromPos : Option Nat) (startId : Nat)
  | jobRun (fromPos : Option Nat) (startId : Nat)
  | jobAbort (fromPos : Option Nat) (startId : Nat)
  | jobTeardown (fromPos : Option Nat)
  | teardownComplete
  | jobStepAnswer (answers : List (Nat × Nat))
  | jobChildWaitExpiry
  | jobStepTimeout
  | sliceGrant (ctx : Nat)
  | sliceExpiry (ctx : Nat)
  | sliceStopComplete (ctx : Nat) (overrunUs : Nat)
  | swapInStart
  | swapOutComplete (ctx : Nat)
  | swapInComplete (ctx : Nat)
  -- rings and dictionary
  | submitDoorbell (q : Req)
  | ringNop (ring : Nat) (e : RingEntry)
  | ringStep (ring : Nat) (e : RingEntry)
  | ringPrefill (ring : Nat) (e : RingEntry)
  | ringFlush (ring : Nat) (e : RingEntry)
  | ringCommand (ring : Nat) (e : RingEntry) (opcode idx sub : Nat) (readOk : Bool) (q : Req)
  | ringReadError (ring : Nat)
  | ringEnable (ctx : Nat) (q : Req)
  | ringResume (ctx : Nat) (q : Req)
  | resultRelease (mailbox : Nat) (q : Req)
  | resultMailboxRead (mailbox : Nat) (q : Req)
  | dictWrite (idx sub : Nat) (q : Req)
  | dictDescribe (idx sub : Nat) (q : Req)
  | dictNext (idx sub : Nat) (q : Req)
  | dictDoorbell (q : Req)
  | mappedWrite (offset width value : Nat)
  | relayRequest (opcode idx sub : Nat) (q : Req)
  | relayResponse (pos seq code value : Nat)
  | relayTimeoutExpiry (pos seq : Nat)
  | deferredWriteComplete (idx sub : Nat)
  | lastRefusalRead (q : Req)
  | depthMaxRead (p vc : Nat) (q : Req)
  | plcaFallback
  -- Umora Link, time
  | flitReceived (f : Flit)
  | umoraLockLoss
  | linkRetrain (q : Req)
  | umoraDown
  | hostCompletion (tag status : Nat) (last : Bool) (bytes : List (BitVec 8))
  | timeBeacon (beaconTime arrivalTime : Nat)
  | badMessage (code : Nat)
  | holdoverExpiry
  -- faults, interrupts
  | faultReport (fs : List Fault16)
  | reportWireStuck (kind unit level : Nat)
  | faultAck (q : Req)
  | cAckHoldExpiry
  | faultSummarySend
  | faultSummary (fromPos byte : Nat)
  | summaryStale (pos : Nat)
  | interruptSelect (target : Nat)
  | interruptDelivery (source : Nat)
  | mgmtEoi (target source : Nat)
  | hostEoi (q : Req)
  | serve (source : Nat) (q : Req)
  | pendingWrite (word : Nat) (q : Req)
  -- power
  | wakeTolerance (q : Req)
  | powerStateEntry
  | powerEntryComplete
  | wakeEvent (c : WakeCause)
  | wakeComplete
  | powerMeasurement (milliwatts : Nat)
  | temperatureReading (a b : Int)
  | umoraTrainingComplete (lanes : Nat) (roundTrip : Nat)
  | tier1Scrub (stack : Nat) (corrected uncorrected : List Nat)
  | plcaStatusRestored
  deriving DecidableEq, Repr

end Sys2Proof
end

