-- ==== Sys2Proof/WellFormed.lean ====
section
/-! DEFINITION. Which commands are well formed: every operand stands in the range that its field, its unit number or its
register gives it. `exec` has a meaning on every command; the host sends well-formed ones. -/

namespace Sys2Proof

/-- A value of a field of `w` bits. -/
def fits (w n : Nat) : Bool := decide (n < 2 ^ w)

/-- A stone number (01 R11). -/
def stoneOk (n : Nat) : Bool := fits 12 n

/-- A bay number (01 R12). -/
def bayOk (n : Nat) : Bool := fits 4 n

/-- A context slot, an expert layer, a pool, a sync slot or a group: 256 of each (04 R120, 09 R273, 12 R372, 13 R420). -/
def byteOk (n : Nat) : Bool := fits 8 n

/-- A fabric port (10 R296). -/
def portOk (n : Nat) : Bool := fits 5 n

/-- A package id (01 R14). -/
def pkgOk (n : Nat) : Bool := fits 14 n

/-- A grid position (01 R17). -/
def posOk (n : Nat) : Bool := fits 6 n

/-- The dictionary header of 14 R460 and the paths of 14 R458. -/
def Req.wf (q : Req) : Bool :=
  decide (q.path ≤ 4) && fits 16 q.seq && fits 4 q.version && posOk q.position && fits 40 q.resv && fits 5 q.typ &&
    fits 11 q.length && decide (q.length ≤ 1024) && fits (8 * 1024) q.value && decide (q.viaPath ≤ 4) && posOk q.fromPos

/-- The instruction header of 05 R172. -/
def IHdr.wf (h : IHdr) : Bool := fits 2 h.signalObj && fits 3 h.resv

/-- The address of a token: context, layer, generation and token id (03 R75). -/
def TokKey.wf (k : TokKey) : Bool := byteOk k.ctx && byteOk k.layer && fits 16 k.gen && fits 32 k.tokenId

/-- A choice record (03 R75). -/
def Choice.wf (c : Choice) : Bool :=
  fits 32 c.tokenId && fits 16 c.gen && byteOk c.layer && byteOk c.ctx && pkgOk c.originPkg && stoneOk c.originStone &&
    decide (1 ≤ c.rank) && decide (c.rank ≤ 16) && fits 4 c.replica && fits 16 c.expert && fits 3 c.status

/-- A replica record (03 R69). -/
def Replica.wf (r : Replica) : Bool := pkgOk r.pkg && stoneOk r.firstStone && fits 3 r.span && fits 2 r.resv

/-- A claim: its choice and its replica record (03 R79). -/
def Claim.wf (c : Claim) : Bool := c.choice.wf && c.rep.wf

/-- A token descriptor (03 R96). -/
def TokenDesc.wf (d : TokenDesc) : Bool :=
  fits 32 d.tokenId && fits 16 d.gen && byteOk d.layer && byteOk d.ctx && fits 16 d.fanout && fits 16 d.spillMask &&
    fits 24 d.position && stoneOk d.targetStone

/-- A return header (03 R109). -/
def RetHdr.wf (h : RetHdr) : Bool :=
  fits 32 h.tokenId && fits 16 h.gen && byteOk h.layer && byteOk h.ctx && stoneOk h.originStone &&
    decide (1 ≤ h.rank) && decide (h.rank ≤ 16) && fits 2 h.path && fits 3 h.segment && fits 1 h.format

/-- A routed packet (10 R306). -/
def Packet.wf (p : Packet) : Bool :=
  pkgOk p.dest && pkgOk p.src && fits 16 p.jobTag && fits 3 p.cls && fits 1 p.phase && fits 2 p.epoch && fits 4 p.target &&
    stoneOk p.targetStone && decide (p.length ≤ 8192) && fits 3 p.hops && decide (p.payload.length = p.length)

/-- An aqueduct packet (10 R310): class 5 or 6, 1 to 8,192 bytes. -/
def AqPacket.wf (p : AqPacket) : Bool :=
  byteOk p.aqueduct && (decide (p.cls = 5) || decide (p.cls = 6)) && fits 1 p.phase && fits 16 p.seq &&
    decide (1 ≤ p.payload.length) && decide (p.payload.length ≤ 8192)

/-- The body of a frame (10 R302). -/
def FrameBody.wf : FrameBody → Bool
  | .routed p => p.wf
  | .aqueduct p => p.wf
  | .management | .reserved => true

/-- A link frame (10 R302). -/
def LinkFrame.wf (f : LinkFrame) : Bool := fits 4 f.vc && fits 12 f.seq && f.body.wf

/-- A control block (10 R303): sixteen totals modulo 4,096. -/
def CtrlBlock.wf (b : CtrlBlock) : Bool :=
  decide (b.credits.length = 16) && b.credits.all (fits 12) && fits 16 b.offMask && fits 12 b.ackSeq

/-- Where a packet meets a switch: two wythes, 32 ports (10 R325). -/
def Arrival.wf : Arrival → Bool
  | .injection w => fits 1 w
  | .port p => portOk p
  | .bridge w => fits 1 w

/-- A HELLO (10 R299). -/
def Hello.wf (m : Hello) : Bool := pkgOk m.peerPkg && portOk m.peerPort && fits 1 m.flowMode

/-- A memory request (11 R350). -/
def MemReq.wf (r : MemReq) : Bool :=
  pkgOk r.srcPkg && fits 16 r.jobTag && fits 4 r.op && fits 2 r.unitKind && fits 12 r.unit && byteOk r.slot &&
    decide (1 ≤ r.size) && decide (r.size ≤ 4096) && fits 32 r.seq && fits 16 r.issueT && fits 2 r.attempt &&
    fits 39 r.offset && stoneOk r.targetStone

/-- A memory response (11 R351). -/
def MemResp.wf (r : MemResp) : Bool :=
  pkgOk r.srcPkg && fits 4 r.op && fits 2 r.unitKind && fits 12 r.unit && byteOk r.slot && fits 32 r.seq &&
    fits 2 r.attempt && fits 4 r.status

/-- The name of a collective (12 R385). -/
def CollKey.wf (k : CollKey) : Bool := byteOk k.ctx && byteOk k.group

/-- A mortar message (12 R395). -/
def CollMsg.wf (m : CollMsg) : Bool :=
  m.key.wf && fits 24 m.key.seq && fits 17 m.chunk && fits 14 m.fromRank && decide (1 ≤ m.cover) &&
    decide (m.cover ≤ 16384) && decide (m.attempt ≤ 2)

/-- A multicast leg (12 R395, R410). -/
def LegMsg.wf (m : LegMsg) : Bool :=
  pkgOk m.poster && byteOk m.ctx && fits 24 m.number && fits 14 m.leg && fits 17 m.chunk && stoneOk m.stone && fits 18 m.offset

/-- A submission ring entry (15 R488). -/
def RingEntry.wf (e : RingEntry) : Bool :=
  fits 7 e.mailbox && fits 32 e.seq && fits 32 e.firstToken && fits 25 e.count && fits 24 e.firstPos && fits 64 e.cmdAddr && fits 64 e.rspAddr

/-- A flit header (15 R480). -/
def Flit.wf (f : Flit) : Bool := fits 10 f.seq && fits 10 f.ackSeq && fits 12 f.creditP && fits 12 f.creditN

/-- A firmware header (18 R558). -/
def FwImage.wf (f : FwImage) : Bool :=
  fits 32 f.magic && fits 16 f.format && fits 16 f.partCode && fits 32 f.version && fits 8 f.securityVersion &&
    fits 8 f.keyIndex && fits 32 f.length && fits 512 f.digest

/-- A fault as it is reported: classes C, U and F and the unit kinds of 16 R507. -/
def Fault16.wf (f : Fault16) : Bool :=
  decide (f.cls ≤ 2) && byteOk f.cause && decide (f.kind ≤ 6) && fits 12 f.unit && f.ctx.all byteOk && fits 64 f.detail

/-- A unit that the part has (01 R11 to R13, 04 R123). -/
def FailedUnit.wf : FailedUnit → Bool
  | .meshStop c => fits 6 c
  | .courseDma c => fits 6 c
  | .cisternManager b => bayOk b
  | .ledger b => bayOk b
  | .millrace w => fits 1 w
  | .mortar w => fits 1 w
  | .stack n => fits 3 n
  | .bridge => true
  | .mgmtProcessor n => fits 1 n
  | .alwaysOn => true
  | .plumb => true
  | .keyStore => true
  | .switch w => fits 1 w

/-- What an SRAM read met, at an offset of the stone's 256 KiB (05 R165). -/
def SramRead.wf : SramRead → Bool
  | .clean => true
  | .corrected o => fits 18 o
  | .uncorrectable o => fits 18 o

/-- A stone's part of an image (05 R195, R178). -/
def ImgStone.wf (t : ImgStone) : Bool :=
  stoneOk t.stone && t.granules.all byteOk && t.bytes.all (fun p => fits 18 p.1) && decide (t.words.length ≤ 16384)

/-- A program image: its stones, layers and objects are within the part's numbers. -/
def Image.wf (i : Image) : Bool :=
  i.stones.all ImgStone.wf && stoneOk i.leadStone && fits 18 i.stepDescOffset &&
    i.layers.all (fun l => byteOk l.layer && l.blocks.all (fun b => fits 16 b.1 && b.2.all Replica.wf)) &&
    decide (i.objects.length ≤ 65536)

/-- The well-formed commands. -/
def Instr.wf : Instr → Bool
  | .resetAssert => true
  | .resetRelease trayId => fits 3 trayId
  | .supplyRange rail => decide (1 ≤ rail) && decide (rail ≤ 12)
  | .refclkLost => true
  | .pllLockTimeout pll => decide (pll < 14)
  | .pllLockLoss pll => decide (pll < 14)
  | .firmwareLoad q => q.wf
  | .firmwareImageChecked f => f.wf
  | .securityVersionCommit q => q.wf
  | .initSramZeroed => true
  | .stacksTrained failed => failed.all (fits 3)
  | .tier1Zeroed => true
  | .rngHealth => true
  | .ownerKey q => q.wf
  | .endorsement _ q => q.wf
  | .attestNonce q => q.wf
  | .quoteComplete => true
  | .testUnlock _ q => q.wf
  | .unlockWipeComplete => true
  | .testPortInstruction _ => true
  | .stateRequestConfigured q => q.wf
  | .stateRequestRunning q => q.wf
  | .packageIdWrite q => q.wf
  | .keystonePositionWrite q => q.wf
  | .keystoneBeacon => true
  | .pondBeacon fromPos => posOk fromPos
  | .keystoneSilent => true
  | .unitFailure u => u.wf
  | .submit st h _ => stoneOk st && h.wf
  | .scoringPass bay ctx layer gen _ => bayOk bay && byteOk ctx && byteOk layer && fits 16 gen
  | .gateStreamComplete bay ctx layer _ => bayOk bay && byteOk ctx && byteOk layer
  | .partialScores k => k.wf
  | .placementBlockRead bay ctx layer expert status block =>
    bayOk bay && byteOk ctx && byteOk layer && fits 16 expert && fits 4 status && block.all Replica.wf
  | .claimBundle srcPkg cs => pkgOk srcPkg && cs.all Claim.wf
  | .claimBundleAck ctx layer gen home => byteOk ctx && byteOk layer && fits 16 gen && pkgOk home
  | .admissionBarrierJoin ctx layer gen => byteOk ctx && byteOk layer && fits 16 gen
  | .admission ctx layer gen => byteOk ctx && byteOk layer && fits 16 gen
  | .admissionAbort ctx layer gen code => byteOk ctx && byteOk layer && fits 16 gen && fits 16 code
  | .verdictBundle srcPkg cs => pkgOk srcPkg && cs.all Choice.wf
  | .tokenCopy srcPkg d _ => pkgOk srcPkg && d.wf
  | .cisternGrant pool _ => byteOk pool
  | .listRebuildComplete pool => byteOk pool
  | .expertRun st h _ => stoneOk st && h.wf
  | .runPartDue ctx layer first => byteOk ctx && byteOk layer && stoneOk first
  | .missGraceExpiry ctx layer first => byteOk ctx && byteOk layer && stoneOk first
  | .missNotice k rank _ => k.wf && decide (1 ≤ rank) && decide (rank ≤ 16)
  | .expertRunComplete st _ => stoneOk st
  | .carryWaitExpiry ctx layer first => byteOk ctx && byteOk layer && stoneOk first
  | .ret st h _ => stoneOk st && h.wf
  | .returnPacket h _ => h.wf
  | .returnTimeoutExpiry k rank => k.wf && decide (1 ≤ rank) && decide (rank ≤ 16)
  | .fetch st h _ => stoneOk st && h.wf
  | .flush st h _ => stoneOk st && h.wf
  | .kvCommit st h _ => stoneOk st && h.wf
  | .retire st h _ => stoneOk st && h.wf
  | .accept st h _ => stoneOk st && h.wf
  | .retireGeneration q => q.wf
  | .abandonStranded q => q.wf
  | .placementUpdate q => q.wf
  | .placementStoreComplete ctx layer expert status => byteOk ctx && byteOk layer && fits 16 expert && fits 4 status
  | .deadlinePolicyWrite layer q => byteOk layer && q.wf
  | .fillStart wythe ctx obj => fits 1 wythe && byteOk ctx && fits 16 obj
  | .fillComplete wythe ctx obj _ _ => fits 1 wythe && byteOk ctx && fits 16 obj
  | .writebackComplete ctx obj => byteOk ctx && fits 16 obj
  | .placeObject q => q.wf
  | .flushObject q => q.wf
  | .kvWrite st stream pos off _ => stoneOk st && fits 16 stream && fits 24 pos && fits 18 off
  | .setWatermark q => q.wf
  | .releaseProvisional q => q.wf
  | .kvPoolTail q => q.wf
  | .halt st h _ => stoneOk st && h.wf
  | .branch st h _ => stoneOk st && h.wf
  | .loopSet st h _ => stoneOk st && h.wf
  | .loopBack st h _ => stoneOk st && h.wf
  | .yield st h _ => stoneOk st && h.wf
  | .stepMark st h _ => stoneOk st && h.wf
  | .npBegin st h _ => stoneOk st && h.wf
  | .npEnd st h _ => stoneOk st && h.wf
  | .setVl st h _ => stoneOk st && h.wf
  | .setReg st h _ => stoneOk st && h.wf
  | .regionOverrun st => stoneOk st
  | .dmaPost st h _ => stoneOk st && h.wf
  | .dmaDescriptorComplete course st _ _ => fits 6 course && stoneOk st
  | .syncSet st h _ => stoneOk st && h.wf
  | .syncAdd st h _ => stoneOk st && h.wf
  | .syncSignal st h _ => stoneOk st && h.wf
  | .syncWait st h _ => stoneOk st && h.wf
  | .syncRead st h _ => stoneOk st && h.wf
  | .syncClear st h _ => stoneOk st && h.wf
  | .signalDelivery st obj addend => stoneOk st && fits 2 obj && fits 32 addend
  | .syncWatchdogExpiry st => stoneOk st
  | .scrubPass st r => stoneOk st && r.wf
  | .fenceStone q => q.wf
  | .remapStone q => q.wf
  | .denseProduct st h _ r => stoneOk st && h.wf && r.wf
  | .sparseProduct st h _ r => stoneOk st && h.wf && r.wf
  | .tileComplete st _ _ _ => stoneOk st
  | .compressActivations st h _ => stoneOk st && h.wf
  | .compressWeightsMask st h _ => stoneOk st && h.wf
  | .compressWeightsMagnitude st h _ => stoneOk st && h.wf
  | .expand st h _ => stoneOk st && h.wf
  | .transpose st h _ => stoneOk st && h.wf
  | .engineInject q => q.wf
  | .configure st h _ => stoneOk st && h.wf
  | .vectorRun st h _ r _ => stoneOk st && h.wf && r.wf
  | .vectorRunComplete st _ => stoneOk st
  | .scalarSet st h _ => stoneOk st && h.wf
  | .scalarFunc st h _ => stoneOk st && h.wf
  | .scalarStore st h _ => stoneOk st && h.wf
  | .scalarLoad st h _ => stoneOk st && h.wf
  | .bufferRelease st h _ => stoneOk st && h.wf
  | .poolCommit q => q.wf
  | .memoryLoad st h _ => stoneOk st && h.wf
  | .memoryStore st h _ => stoneOk st && h.wf
  | .atomicRead st h _ => stoneOk st && h.wf
  | .atomicSwap st h _ => stoneOk st && h.wf
  | .atomicCas st h _ => stoneOk st && h.wf
  | .atomicAdd st h _ => stoneOk st && h.wf
  | .atomicAnd st h _ => stoneOk st && h.wf
  | .atomicOr st h _ => stoneOk st && h.wf
  | .atomicXor st h _ => stoneOk st && h.wf
  | .atomicMaxS st h _ => stoneOk st && h.wf
  | .atomicMinS st h _ => stoneOk st && h.wf
  | .atomicMaxU st h _ => stoneOk st && h.wf
  | .atomicMinU st h _ => stoneOk st && h.wf
  | .memoryFence st h _ => stoneOk st && h.wf
  | .memoryRequestAtHome r _ => r.wf
  | .lineRequestPerformed line _ => fits 33 line
  | .memoryResponse r => r.wf
  | .attemptTimeoutExpiry unitKind unit slot => fits 2 unitKind && fits 12 unit && byteOk slot
  | .ledgerEntryExpiry srcPkg unitKind unit seq => pkgOk srcPkg && fits 2 unitKind && fits 12 unit && fits 32 seq
  | .windowSet q => q.wf
  | .windowClear q => q.wf
  | .groupCommit group q _ => byteOk group && q.wf
  | .collBarrier st h _ => stoneOk st && h.wf
  | .collBroadcast st h _ => stoneOk st && h.wf
  | .collReduce st h _ => stoneOk st && h.wf
  | .collAllReduce st h _ => stoneOk st && h.wf
  | .collReduceScatter st h _ => stoneOk st && h.wf
  | .collAllGather st h _ => stoneOk st && h.wf
  | .collMulticast st h _ => stoneOk st && h.wf
  | .collRetentionGrant k _ => k.wf
  | .tileNotice st _ _ => stoneOk st
  | .partialMsg m => m.wf
  | .resultMsg m => m.wf
  | .pnak m _ => m.wf
  | .collNak m _ => m.wf
  | .doneMsg m => m.wf
  | .sealMsg m => m.wf
  | .abortReq m => m.wf
  | .abort m => m.wf
  | .backoff m => m.wf
  | .backoffRetry k chunk => k.wf && fits 17 chunk
  | .leg m => m.wf
  | .legAck ctx number n chunk answer _ =>
    byteOk ctx && fits 24 number && fits 14 n && fits 17 chunk && decide (answer ≤ 2)
  | .collTimeoutExpiry k => k.wf
  | .sealWaitTimeout k => k.wf
  | .collAbort q => q.wf
  | .portTrainingRetry p => portOk p
  | .trainingComplete p _ => portOk p
  | .hello p m => portOk p && m.wf
  | .echoFrame p _ => portOk p
  | .refusalNotice p => portOk p
  | .linkLockLoss p => portOk p
  | .portRetrain p q => portOk p && q.wf
  | .portFence p q => portOk p && q.wf
  | .rekey p => portOk p
  | .rekeyExchange p _ => portOk p
  | .linkFrameReceived p f => portOk p && f.wf
  | .controlBlock p b => portOk p && b.wf
  | .frameTransmit p _ => portOk p
  | .packetRoute a _ => a.wf
  | .aqueductPacket inPort a => decide (inPort < 36) && a.wf
  | .aqSet q => q.wf
  | .aqClear q => q.wf
  | .tableInstall q => q.wf
  | .injectEpoch q => q.wf
  | .tableRetire q => q.wf
  | .epochStepInstall q => q.wf
  | .epochStepFlip q => q.wf
  | .epochStepPoll q => q.wf
  | .epochStepRetire q => q.wf
  | .epochStepMember fromPos op epoch => posOk fromPos && byteOk op && byteOk epoch
  | .epochStepAnswer pos _ injecting _ _ => posOk pos && byteOk injecting
  | .epochStepTimeout => true
  | .load q => q.wf
  | .loadComplete img => img.wf
  | .unload ctx q => byteOk ctx && q.wf
  | .unloadComplete ctx => byteOk ctx
  | .resumeContinue ctx q => byteOk ctx && q.wf
  | .resumeStepMark ctx q => byteOk ctx && q.wf
  | .pondJobPrepare q list => q.wf && list.all pkgOk
  | .pondJobCommit q => q.wf
  | .pondJobRun q => q.wf
  | .pondJobAbort q => q.wf
  | .pondJobTeardown q => q.wf
  | .jobPrepare fromPos _ list => fromPos.all posOk && list.all pkgOk
  | .jobCommit fromPos startId => fromPos.all posOk && fits 32 startId
  | .jobRun fromPos startId => fromPos.all posOk && fits 32 startId
  | .jobAbort fromPos startId => fromPos.all posOk && fits 32 startId
  | .jobTeardown fromPos => fromPos.all posOk
  | .teardownComplete => true
  | .jobStepAnswer answers => answers.all (fun a => posOk a.1)
  | .jobChildWaitExpiry => true
  | .jobStepTimeout => true
  | .sliceGrant ctx => byteOk ctx
  | .sliceExpiry ctx => byteOk ctx
  | .sliceStopComplete ctx _ => byteOk ctx
  | .swapInStart => true
  | .swapOutComplete ctx => byteOk ctx
  | .swapInComplete ctx => byteOk ctx
  | .submitDoorbell q => q.wf
  | .ringNop ring e => byteOk ring && e.wf
  | .ringStep ring e => byteOk ring && e.wf
  | .ringPrefill ring e => byteOk ring && e.wf
  | .ringFlush ring e => byteOk ring && e.wf
  | .ringCommand ring e opcode idx sub _ q => byteOk ring && e.wf && fits 4 opcode && fits 16 idx && byteOk sub && q.wf
  | .ringReadError ring => byteOk ring
  | .ringEnable ctx q => byteOk ctx && q.wf
  | .ringResume ctx q => byteOk ctx && q.wf
  | .resultRelease mailbox q => fits 7 mailbox && q.wf
  | .resultMailboxRead mailbox q => fits 7 mailbox && q.wf
  | .dictWrite idx sub q => fits 16 idx && byteOk sub && q.wf
  | .dictDescribe idx sub q => fits 16 idx && byteOk sub && q.wf
  | .dictNext idx sub q => fits 16 idx && byteOk sub && q.wf
  | .dictDoorbell q => q.wf
  | .mappedWrite offset width value => fits 24 offset && decide (width ≤ 8) && fits (8 * width) value
  | .relayRequest opcode idx sub q => fits 4 opcode && fits 16 idx && byteOk sub && q.wf
  | .relayResponse pos seq code _ => posOk pos && fits 16 seq && fits 16 code
  | .relayTimeoutExpiry pos seq => posOk pos && fits 16 seq
  | .deferredWriteComplete idx sub => fits 16 idx && byteOk sub
  | .lastRefusalRead q => q.wf
  | .depthMaxRead p vc q => portOk p && fits 4 vc && q.wf
  | .plcaFallback => true
  | .flitReceived f => f.wf
  | .umoraLockLoss => true
  | .linkRetrain q => q.wf
  | .umoraDown => true
  | .hostCompletion tag status _ _ => fits 10 tag && fits 3 status
  | .timeBeacon beaconTime arrivalTime => fits 64 beaconTime && fits 64 arrivalTime
  | .badMessage code => byteOk code
  | .holdoverExpiry => true
  | .faultReport fs => fs.all Fault16.wf
  | .reportWireStuck kind unit level => decide (kind ≤ 6) && fits 12 unit && fits 1 level
  | .faultAck q => q.wf
  | .cAckHoldExpiry => true
  | .faultSummarySend => true
  | .faultSummary fromPos byte => posOk fromPos && byteOk byte
  | .summaryStale pos => posOk pos
  | .interruptSelect target => decide (target ≤ 2)
  | .interruptDelivery source => fits 9 source
  | .mgmtEoi target source => fits 1 target && fits 9 source
  | .hostEoi q => q.wf
  | .serve source q => fits 9 source && q.wf
  | .pendingWrite word q => fits 4 word && q.wf
  | .wakeTolerance q => q.wf
  | .powerStateEntry => true
  | .powerEntryComplete => true
  | .wakeEvent _ => true
  | .wakeComplete => true
  | .powerMeasurement _ => true
  | .temperatureReading _ _ => true
  | .umoraTrainingComplete lanes _ => decide (lanes ≤ 8)
  | .tier1Scrub stack _ _ => fits 3 stack
  | .plcaStatusRestored => true

end Sys2Proof
end

