-- ==== Sys2Proof/Config.lean ====
section
/-! DEFINITION. What an implementation fixes and the manual leaves open: free values, each an opaque
constant that no proof can evaluate, and no number chosen in its place. -/

namespace Sys2Proof.Config

/-- A byte of tier 1 that nothing has written since the present tier-1 key was drawn (17 R547, 18 R557:
unspecified data, read without a fault). Arguments: the key generation and the physical offset. -/
opaque tier1Byte : Nat → Nat → BitVec 8

/-- A byte that lies outside the part (another package's memory, or the host's) and whose value the
command does not carry. Arguments: the free-value counter of State and the byte's address. -/
opaque outsideByte : Nat → Nat → BitVec 8

/-- A draw of the random generator (18 R550, R564), 256 bits, by the free-value counter. -/
opaque randomDraw : Nat → BitVec 256

/-- A value the manual calls undefined or leaves unstated (12 R404, 07 R249, 05 R188), by the free-value counter. -/
opaque undefinedValue : Nat → Nat

/-- The frequency error, in units of 2^-32 ns per always-on tick, that the servo of 15 R495 estimates over the last 16 beacons: the
manual gives no formula. Argument: the offsets, newest first. -/
opaque frequencyError : List Int → Int

/-- By how much a counter of waiting cycles, or of lost arbitrations, moves on in one tick, which no command carries: the counter's
key and the free-value counter of State (log entry 12). -/
opaque waitCount : Nat → Nat → Nat

/-- A sensor or signature value produced by a unit whose algorithm lies outside the manual (the Ed25519 signature
of a quote, 18 R561), by the message it covers. -/
opaque quoteSignature : Nat → BitVec 512

/-- The result of an arithmetic operation one of whose operands is a NaN or an infinity, where the manual states none
(06 R210, 08 R259). Arguments: the operation and its operands. -/
opaque specialResult : Nat → BitVec 32 → BitVec 32 → BitVec 32 → BitVec 32

/-- A halved Gauss sum that does not fit int8 (06 R219 states no result), by twice its value. -/
opaque gaussHalf : Int → BitVec 8

/-- The value of a Gauss-form block whose real and imaginary parts carry different block exponents (06 R219 states the
passes on integers alone). Arguments: the four exponents and the three block sums. -/
opaque gaussMixed : Nat → Nat → Nat → Nat → Int → Int → Int → BitVec 32

/-- The key and salt of one direction of a fabric link, the 36 bytes that HKDF gives from a shared secret (10 R301, 18 R555): no
command carries the secret. Arguments: the free-value counter of State and the direction, 0 from A to B. -/
opaque linkKey : Nat → Nat → BitVec 288

end Sys2Proof.Config
end

