-- ==== Sys2Proof/Machine/Tbl.lean ====
section
/-! DEFINITION. Sparse tables in one canonical form: keys strictly rising and, for tables with a default, no entry equal
to what an unlisted key reads as. Memory, SRAM and the dictionary entries are such tables. -/

namespace Sys2Proof.Machine

/-- The value at key `k`, or none where the table lists none. -/
def tlook {α : Type} : Tbl α → Nat → Option α
  | [], _ => none
  | (a, v) :: t, k => if a = k then some v else tlook t k

/-- The value at key `k`, or `d` where the table lists none. -/
def tget {α : Type} (d : α) (t : Tbl α) (k : Nat) : α :=
  match tlook t k with
  | some v => v
  | none => d

/-- The table without key `k`. -/
def tdel {α : Type} (t : Tbl α) (k : Nat) : Tbl α := t.filter (fun p => p.1 != k)

/-- The table with `v` at key `k`. -/
def tins {α : Type} : Tbl α → Nat → α → Tbl α
  | [], k, v => [(k, v)]
  | (a, w) :: t, k, v =>
    if a = k then (k, v) :: t else if k < a then (k, v) :: (a, w) :: t else (a, w) :: tins t k v

/-- The table that reads as `v` at `k`, where unlisted keys read as `d`: the default is never listed. -/
def tput {α : Type} [DecidableEq α] (d : α) (t : Tbl α) (k : Nat) (v : α) : Tbl α :=
  if v = d then tdel t k else tins t k v

/-- Keys strictly rise. -/
def tsorted {α : Type} (t : Tbl α) : Prop := t.Pairwise (fun a b => a.1 < b.1)

/-- No entry equals what its key reads as when it is unlisted. -/
def tclean {α : Type} (d : Nat → α) (t : Tbl α) : Prop := ∀ p ∈ t, p.2 ≠ d p.1

/-- The element at place `i` of a list of plain values, or `d`. -/
def nth {α : Type} (d : α) (l : List α) (i : Nat) : α := (l[i]?).getD d

/-- The list with its element at place `i` changed by `f`. -/
def modAt {α : Type} : List α → Nat → (α → α) → List α
  | [], _, _ => []
  | a :: t, 0, f => f a :: t
  | a :: t, i + 1, f => a :: modAt t i f

/-- Bits `lo` to `hi` of a number. -/
def bits (hi lo n : Nat) : Nat := (n >>> lo) % 2 ^ (hi + 1 - lo)

/-- One bit of a number. -/
def bit (i n : Nat) : Bool := n.testBit i

/-- 1 for true. -/
def b2n (b : Bool) : Nat := if b then 1 else 0

/-- The number with bit `i` set. -/
def setBit (n i : Nat) : Nat := n ||| 2 ^ i

/-- The number with bit `i` clear. -/
def clrBit (n i : Nat) : Nat := if n.testBit i then n - 2 ^ i else n

/-- Bytes to a number, the first byte least significant (00 R8). -/
def fromLE : List (BitVec 8) → Nat
  | [] => 0
  | b :: t => b.toNat + 256 * fromLE t

/-- A number as `n` bytes, the first byte least significant (00 R8). -/
def toLE : Nat → Nat → List (BitVec 8)
  | 0, _ => []
  | n + 1, v => BitVec.ofNat 8 v :: toLE n (v / 256)

/-- Ceiling of a / b. -/
def cdiv (a b : Nat) : Nat := (a + b - 1) / b

/-- The two's complement of a signed number in `w` bits. -/
def twos (w : Nat) (i : Int) : Nat := (i % (2 ^ w : Int)).toNat

/-- The signed number that `w` bits hold in two's complement. -/
def signed (w n : Nat) : Int := if n % 2 ^ w < 2 ^ (w - 1) then (n % 2 ^ w : Int) else (n % 2 ^ w : Int) - 2 ^ w

/-- The list cut into pieces of `n` elements, at most `k` pieces. -/
def chunksOf {α : Type} (n : Nat) : Nat → List α → List (List α)
  | 0, _ => []
  | k + 1, l => if l.isEmpty then [] else l.take n :: chunksOf n k (l.drop n)

/-- The least k with n ≤ 2^k. -/
def log2Up (n : Nat) : Nat := if n ≤ 1 then 0 else Nat.log2 (n - 1) + 1

end Sys2Proof.Machine
end

