-- ==== Sys2Proof/Machine/Fp32.lean ====
section
/-! DEFINITION. FP32 arithmetic: round to nearest, ties to even, subnormals kept, overflow clamped to the largest finite
value with its sign (02 R50, 06 R210, 08 R259, 12 R390); the formats that align to integers (06 R205); the exponential of
02 R57; square root and logarithm, correctly rounded (08 R259). -/

namespace Sys2Proof.Machine

/-- An FP32 result and the number of clamps on the way to it. -/
abbrev FR := BitVec 32 × Nat

/-- A dyadic number m × 2^e. -/
abbrev Dy := Int × Int

def FLT_MAX : BitVec 32 := 0x7F7FFFFF
def negFltMax : BitVec 32 := 0xFF7FFFFF
def fpOne : BitVec 32 := 0x3F800000

/-- A NaN or an infinity. -/
def isSpecial (x : BitVec 32) : Bool := decide (bits 30 23 x.toNat = 255)

def isZeroF (x : BitVec 32) : Bool := decide (x.toNat % 2 ^ 31 = 0)

def negF (x : BitVec 32) : BitVec 32 := x ^^^ 0x80000000

/-- The sign bit moved from `s` to `x`. -/
def withSign (s x : BitVec 32) : BitVec 32 := (x &&& 0x7FFFFFFF) ||| (s &&& 0x80000000)

/-- The value of a finite FP32 number. -/
def fpVal (x : BitVec 32) : Dy :=
  let n := x.toNat
  let ex := bits 30 23 n
  let m : Nat := if ex = 0 then n % 2 ^ 23 else 2 ^ 23 + n % 2 ^ 23
  let e : Int := if ex = 0 then -149 else (ex : Int) - 150
  (if bit 31 n then -(m : Int) else m, e)

/-- The natural number m / 2^k rounded to nearest, ties to even. -/
def rneShift (m k : Nat) : Nat :=
  let q := m / 2 ^ k
  let r := m % 2 ^ k
  if k = 0 then m else if 2 * r > 2 ^ k ∨ (2 * r = 2 ^ k ∧ q % 2 = 1) then q + 1 else q

/-- A dyadic number rounded to an integer, to nearest, ties to even. -/
def rneInt (d : Dy) : Int :=
  let a := d.1.natAbs
  let r : Nat := if 0 ≤ d.2 then a * 2 ^ d.2.toNat else rneShift a (-d.2).toNat
  if d.1 < 0 then -(r : Int) else r

/-- The magnitude of a dyadic number as the exponent and fraction of a format with `f` fraction bits and bias 127, whose
least exponent of a unit is `lo`: rounded, and clamped to the largest finite value. -/
def roundMag (f : Nat) (lo : Int) (a : Nat) (e : Int) : Nat × Nat :=
  if a = 0 then (0, 0)
  else
    let u := max (e + (Nat.log2 a : Int) - f) lo
    let q : Nat := if u ≤ e then a * 2 ^ (e - u).toNat else rneShift a (u - e).toNat
    let n := (u - lo).toNat * 2 ^ f + q
    if n ≥ 255 * 2 ^ f then (255 * 2 ^ f - 1, 1) else (n, 0)

/-- A dyadic number rounded to FP32; an exact zero is +0. -/
def roundF (d : Dy) : FR :=
  let r := roundMag 23 (-149) d.1.natAbs d.2
  (BitVec.ofNat 32 (r.1 + if d.1 < 0 then 2 ^ 31 else 0), r.2)

/-- An FP32 value rounded to BF16 (its 16 bits). -/
def roundBf16 (x : BitVec 32) : BitVec 16 × Nat :=
  let d := fpVal x
  let r := roundMag 7 (-133) d.1.natAbs d.2
  (BitVec.ofNat 16 (r.1 + if bit 31 x.toNat then 2 ^ 15 else 0), r.2)

/-- A BF16 value held in FP32: exact. -/
def bf16ToF (x : BitVec 16) : BitVec 32 := BitVec.ofNat 32 (x.toNat * 2 ^ 16)

/-- The sum of two dyadic numbers. -/
def dyAdd (a b : Dy) : Dy :=
  if a.2 ≤ b.2 then (a.1 + b.1 * 2 ^ (b.2 - a.2).toNat, a.2) else (a.1 * 2 ^ (a.2 - b.2).toNat + b.1, b.2)

def dyMul (a b : Dy) : Dy := (a.1 * b.1, a.2 + b.2)

def dyNeg (a : Dy) : Dy := (-a.1, a.2)

/-- a < b for dyadic numbers. -/
def dyLt (a b : Dy) : Bool := decide ((dyAdd a (dyNeg b)).1 < 0)

/-- Some operand is a NaN or an infinity: the manual states no result (log entry 40), so the result is a free value, and the
chain and the engines still produce a finite one (06 R210, 08 R259). -/
def openF (func : Nat) (x y z : BitVec 32) : FR :=
  let v := Config.specialResult func x y z
  (if isSpecial v then v &&& 0x807FFFFF else v, 0)

/-- X + Y. -/
def fadd (x y : BitVec 32) : FR :=
  if isSpecial x || isSpecial y then openF 1 x y 0
  else if isZeroF x && isZeroF y then (if x = 0x80000000 ∧ y = 0x80000000 then (0x80000000, 0) else (0, 0))
  else roundF (dyAdd (fpVal x) (fpVal y))

def fsub (x y : BitVec 32) : FR := if isSpecial x || isSpecial y then openF 2 x y 0 else fadd x (negF y)

/-- X × Y, with the sign of a zero result. -/
def fmul (x y : BitVec 32) : FR :=
  if isSpecial x || isSpecial y then openF 3 x y 0
  else
    let r := roundF (dyMul (fpVal x) (fpVal y))
    (withSign (x ^^^ y) r.1, r.2)

/-- X × Y + Z, rounded once. -/
def ffma (x y z : BitVec 32) : FR :=
  if isSpecial x || isSpecial y || isSpecial z then openF 4 x y z
  else
    let p := dyMul (fpVal x) (fpVal y)
    if p.1 = 0 then fadd (withSign (x ^^^ y) 0) z
    else
      let t := dyAdd p (fpVal z)
      roundF t

/-- x < y as numbers; −0 and +0 are equal. -/
def flt (x y : BitVec 32) : Bool := dyLt (fpVal x) (fpVal y)

/-- Larger of X, Y; MAX(−0, +0) is +0 (08 R259). -/
def fmax (x y : BitVec 32) : FR :=
  if isSpecial x || isSpecial y then openF 5 x y 0
  else if isZeroF x && isZeroF y then (x &&& y, 0) else if flt x y then (y, 0) else (x, 0)

/-- Smaller of X, Y; MIN(−0, +0) is −0 (08 R259). -/
def fmin (x y : BitVec 32) : FR :=
  if isSpecial x || isSpecial y then openF 6 x y 0
  else if isZeroF x && isZeroF y then (x ||| y, 0) else if flt y x then (y, 0) else (x, 0)

/-- The quotient a / b of magnitudes with 64 extra bits and a sticky bit below them. -/
def quotMag (a b : Nat) : Nat :=
  let q := a * 2 ^ 64 / b
  2 * q + (if a * 2 ^ 64 % b = 0 then 0 else 1)

/-- X / Y for Y not 0, correctly rounded. -/
def fdiv (x y : BitVec 32) : FR :=
  if isSpecial x || isSpecial y then openF 0x19 x y 0
  else
    let a := fpVal x
    let b := fpVal y
    let r := roundF ((quotMag a.1.natAbs b.1.natAbs : Int), a.2 - b.2 - 65)
    (withSign (x ^^^ y) r.1, r.2)

/-- Integer square root, by bits from 2^(k-1) down. -/
def isqrtBits (n : Nat) : Nat → Nat → Nat
  | 0, acc => acc
  | k + 1, acc => if (acc + 2 ^ k) * (acc + 2 ^ k) ≤ n then isqrtBits n k (acc + 2 ^ k) else isqrtBits n k acc

def isqrt (n : Nat) : Nat := isqrtBits n (Nat.log2 n / 2 + 1) 0

/-- √X for X > 0, correctly rounded: the exponent is made even, with 64 extra bits and a sticky bit. -/
def sqrtPos (x : BitVec 32) : FR :=
  let d := fpVal x
  let m := d.1.natAbs * 2 ^ (128 + (d.2 % 2).toNat)
  let e := (d.2 - d.2 % 2 - 128) / 2
  let r := isqrt m
  roundF ((2 * r + (if r * r = m then 0 else 1) : Nat), e - 1)

/-- 1 / √X for X > 0, correctly rounded. -/
def rsqrtPos (x : BitVec 32) : FR :=
  let d := fpVal x
  let m := d.1.natAbs * 2 ^ (d.2 % 2).toNat
  let e := (d.2 - d.2 % 2) / 2
  let y := 2 ^ 256 / m
  let r := isqrt y
  roundF ((2 * r + (if r * r * m = 2 ^ 256 then 0 else 1) : Nat), -e - 128 - 1)

/-- 2 × artanh(a / b) in units of 2^-192, for 0 ≤ a < b, by its series: `p` is the present odd power. -/
def artanhSum (z2 : Nat) : Nat → Nat → Nat → Nat → Nat
  | 0, _, _, acc => acc
  | k + 1, p, n, acc => artanhSum z2 k (p * z2 / 2 ^ 192) (n + 2) (acc + 2 * p / n)

def artanh2 (a b : Nat) : Nat :=
  let z := a * 2 ^ 192 / b
  artanhSum (z * z / 2 ^ 192) 64 z 1 0

/-- The natural logarithm of X > 0, X ≠ 1, in units of 2^-192: X = m × 2^k with 3/4 ≤ m < 3/2. -/
def logFix (x : BitVec 32) : Int :=
  let d := fpVal x
  let a := d.1.natAbs
  let l := Nat.log2 a
  let up := decide (2 * a ≥ 3 * 2 ^ l)
  let b := if up then 2 ^ (l + 1) else 2 ^ l
  let k : Int := d.2 + (l : Int) + (if up then 1 else 0)
  let s : Int := if b ≤ a then artanh2 (a - b) (a + b) else -(artanh2 (b - a) (a + b) : Int)
  s + k * artanh2 1 3

/-- LOG of X > 0, correctly rounded. -/
def logPos (x : BitVec 32) : FR := if x = fpOne then (0, 0) else roundF (logFix x, -192)

/-! ### The exponential of 02 R57 -/

def L2E : BitVec 32 := 0x3FB8AA3B

/-- c6 to c1, the FP32 values nearest to the decimals of 02 R57. -/
def expCoeffs : List (BitVec 32) := [0x39218489, 0x3AAEC3FF, 0x3C1D955B, 0x3D635847, 0x3E75FDF0, 0x3F317218]

/-- One step u × f + c, multiply, then add, with its clamps. -/
def mulAdd (u : FR) (f c : BitVec 32) : FR :=
  let p := fmul u.1 f
  let r := fadd p.1 c
  (r.1, u.2 + p.2 + r.2)

/-- floor of a dyadic number. -/
def dyFloor (d : Dy) : Int := if 0 ≤ d.2 then d.1 * 2 ^ d.2.toNat else d.1 / 2 ^ (-d.2).toNat

/-- The function X of 02 R57; t ≥ 128 clamps. -/
def expX (y : BitVec 32) : FR :=
  if isSpecial y then openF 0x10 y 0 0
  else
    let t := fmul y L2E
    if flt t.1 0xC2FC0000 then (0, t.2)
    else
      let v := fpVal t.1
      let n := dyFloor v
      let f := (roundF (dyAdd v (-n, 0))).1
      let u := match expCoeffs with
        | c :: cs => cs.foldl (fun a c => mulAdd a f c) (c, 0)
        | [] => (0, 0)
      let u := mulAdd u f fpOne
      if 128 ≤ n then (FLT_MAX, t.2 + u.2 + 1)
      else
        let w := fpVal u.1
        let r := roundF (w.1, w.2 + n)
        (r.1, t.2 + u.2 + r.2)

/-- SIGMOID (02 R59, 08 R260). Where −x·L2E overflows, R59's test and step 1 of X form the same product: the model counts that clamp
once (DESIGN CHOICE, log entry 124). -/
def sigmoidF (x : BitVec 32) : FR :=
  if isSpecial x then openF 0x11 x 0 0
  else
    let t := fmul (negF x) L2E
    if !flt t.1 0x43000000 then (0, t.2)
    else
      let e := expX (negF x)
      let a := fadd fpOne e.1
      let r := fdiv fpOne a.1
      (r.1, e.2 + a.2 + r.2)

def siluF (x : BitVec 32) : FR :=
  if isSpecial x then openF 0x12 x 0 0
  else
    let s := sigmoidF x
    let r := fmul x s.1
    (r.1, s.2 + r.2)

def tanhF (x : BitVec 32) : FR :=
  if isSpecial x then openF 0x13 x 0 0
  else
    let m := fmul 0xC0000000 (x &&& 0x7FFFFFFF)
    let t := expX m.1
    let a := fsub fpOne t.1
    let b := fadd fpOne t.1
    let r := fdiv a.1 b.1
    (withSign x r.1, m.2 + t.2 + a.2 + b.2 + r.2)

def geluF (x : BitVec 32) : FR :=
  if isSpecial x then openF 0x14 x 0 0
  else
    let a1 := fmul x x
    let a2 := fmul a1.1 0x3D372713
    let a3 := fmul a2.1 x
    let a4 := fadd a3.1 x
    let a5 := fmul a4.1 0x3F4C422A
    let h := fmul 0x3F000000 x
    let t := tanhF a5.1
    let o := fadd fpOne t.1
    let r := fmul h.1 o.1
    (r.1, a1.2 + a2.2 + a3.2 + a4.2 + a5.2 + h.2 + t.2 + o.2 + r.2)

/-! ### Sums in a tree, and exact comparisons -/

/-- tree(v, 0, n) of 02 R50 over 2^k values, with any operation in place of +. -/
def treeF (op : BitVec 32 → BitVec 32 → FR) : Nat → List (BitVec 32) → FR
  | 0, l => (l.headD 0, 0)
  | k + 1, l =>
    let a := treeF op k (l.take (2 ^ k))
    let b := treeF op k (l.drop (2 ^ k))
    let r := op a.1 b.1
    (r.1, a.2 + b.2 + r.2)

/-- Results of a list of operations: the values and their clamps in all. -/
def collectF (l : List FR) : List (BitVec 32) × Nat := (l.map (·.1), (l.map (·.2)).sum)

/-! ### Block exponents and aligned formats (06 R201, R205) -/

/-- The largest |v| of a list of dyadic numbers. -/
def maxMag (l : List Dy) : Dy := l.foldl (fun m d => let a : Dy := (d.1.natAbs, d.2); if dyLt m a then a else m) (0, 0)

/-- The unbiased exponent of a nonzero dyadic number: floor(log2 |v|). -/
def dyExp (d : Dy) : Int := d.2 + (Nat.log2 d.1.natAbs : Int)

/-- The value of an FP8 E4M3 byte; none for a NaN. -/
def e4m3 (b : Nat) : Option Dy :=
  let ex := bits 6 3 b
  let m := b % 8
  if b % 128 = 127 then none
  else
    let v : Int := if ex = 0 then m else 8 + m
    some (if bit 7 b then -v else v, (if ex = 0 then 1 else (ex : Int)) - 10)

/-- The value of an FP8 E5M2 byte; none for a NaN or an infinity. -/
def e5m2 (b : Nat) : Option Dy :=
  let ex := bits 6 2 b
  let m := b % 4
  if ex = 31 then none
  else
    let v : Int := if ex = 0 then m else 4 + m
    some (if bit 7 b then -v else v, (if ex = 0 then 1 else (ex : Int)) - 17)

/-- The value of a finite FP32 or BF16 number held in FP32; none for a NaN or an infinity. -/
def finVal (x : BitVec 32) : Option Dy := if isSpecial x then none else some (fpVal x)

/-- NaN and infinite values are taken as +0; the second part counts them. -/
def clean (l : List (Option Dy)) : List Dy × Nat := (l.map (·.getD (0, 0)), (l.filter (·.isNone)).length)

/-- Alignment of a block under 06 R205: P = 6 for FP8 targets, 14 for BF16 targets; `low` is the least normal exponent of
the source format. The integers, the block exponent and the number of NaN and infinite values. -/
def alignBlock (p : Nat) (low : Int) (l : List (Option Dy)) : List Int × Nat × Nat :=
  let (vs, n) := clean l
  let nz := vs.filter (fun d => d.1 != 0)
  match nz with
  | [] => (vs.map (fun _ => 0), 0, n)
  | d :: t =>
    let emax := t.foldl (fun m x => max m (max (dyExp x) low)) (max (dyExp d) low)
    let e := (max 0 (emax - p + 127)).toNat
    (vs.map (fun v => rneInt (v.1, v.2 + 127 - e)), e, n)

/-- Quantisation of a block under 07 R245: the integers, the exponent, the NaN and infinite values, and 1 where no exponent
in 0 to 254 holds the largest value. `kept` tells which values the maximum is taken over. -/
def quantBlock (lo hi : Int) (l : List (Option Dy)) (kept : List Bool) : List Int × Nat × Nat × Nat :=
  let (vs, n) := clean l
  let vs := (vs.zip kept).map (fun p => if p.2 then p.1 else (0, 0))
  let m := maxMag vs
  if m.1 = 0 then (vs.map (fun _ => 0), 0xFF, n, 0)
  else
    let r : Nat × Nat := match (List.range 255).find? (fun (e : Nat) => decide (rneInt (m.1, m.2 + 127 - (e : Int)) ≤ hi)) with
      | some e => (e, 0)
      | none => (254, 1)
    (vs.map (fun v => max lo (min hi (rneInt (v.1, v.2 + 127 - (r.1 : Int))))), r.1, n, r.2)

end Sys2Proof.Machine
end

