-- ==== Sys2Proof/Machine/Digest.lean ====
section
/-! DEFINITION. The digests that the manual names and does not define: SHA-512 (FIPS 180-4) and CRC-32C (the Castagnoli
polynomial). PRESUMED from the published standards, log entry 5. -/

namespace Sys2Proof.Machine

/-! ### SHA-512 over bytes, with words as numbers below 2^64

The standard gives its constants as roots of primes, and they are formed here as it gives them. -/

/-- The bits of the `k`-th root of `n` from bit `b - 1` down, on top of the part `r` found so far. -/
def rootFrom (k n : Nat) : Nat → Nat → Nat
  | 0, r => r
  | b + 1, r => rootFrom k n b (if (r + 2 ^ b) ^ k ≤ n then r + 2 ^ b else r)

/-- The first 64 bits of the fraction of the `k`-th root of a number below 512. -/
def rootFraction (k p : Nat) : Nat := rootFrom k (p * 2 ^ (64 * k)) 69 0 % 2 ^ 64

/-- The primes below `n`, for `n` up to 529: numbers that no prime below 23 divides but itself. -/
def primesBelow (n : Nat) : List Nat :=
  ((List.range n).drop 2).filter (fun p => [2, 3, 5, 7, 11, 13, 17, 19].all (fun q => p % q != 0 || p == q))

/-- The 80 round constants: cube roots of the primes up to 409. -/
def shaConstants : List Nat := (primesBelow 410).map (rootFraction 3)

/-- The chaining value before the first block: square roots of the primes up to 19. -/
def shaStart : List Nat := (primesBelow 20).map (rootFraction 2)

def plus64 (l : List Nat) : Nat := l.sum % 2 ^ 64

/-- The exclusive or of a word turned right by each of `turns`. -/
def xorTurns (turns : List Nat) (x : Nat) : Nat :=
  turns.foldl (fun acc n => acc ^^^ (x / 2 ^ n + x % 2 ^ n * 2 ^ (64 - n))) 0

/-- Bytes to a number, the first byte most significant. -/
def fromBE (l : List (BitVec 8)) : Nat := l.foldl (fun a b => a * 256 + b.toNat) 0

/-- A number as `n` bytes, the most significant first. -/
def toBE (n v : Nat) : List (BitVec 8) := (toLE n v).reverse

/-- The words of the message schedule, newest first: `k` more on top of those that stand. -/
def moreWords : Nat → List Nat → List Nat
  | 0, w => w
  | k + 1, w =>
    let word (i : Nat) : Nat := nth 0 w (i - 1)
    let late := xorTurns [19, 61] (word 2) ^^^ word 2 / 64
    let early := xorTurns [1, 8] (word 15) ^^^ word 15 / 128
    moreWords k (plus64 [word 16, early, word 7, late] :: w)

/-- One round: the eight working words move up one place, the fifth takes the round's sum, and a new first word is formed. -/
def workRound (v : List Nat) (constantAndWord : Nat) : List Nat :=
  let word (i : Nat) : Nat := nth 0 v i
  let choose := (word 4 &&& word 5) + ((word 4 &&& word 6) ^^^ word 6)
  let most := (word 0 &&& (word 1 ||| word 2)) ||| (word 1 &&& word 2)
  let sum := plus64 [word 7, xorTurns [14, 18, 41] (word 4), choose, constantAndWord]
  plus64 [sum, xorTurns [28, 34, 39] (word 0), most] :: v.take 3 ++ plus64 [word 3, sum] :: (v.drop 4).take 3

/-- The chaining value after a block of 128 bytes. -/
def takeBlock (v : List Nat) (block : List (BitVec 8)) : List Nat :=
  let words := (moreWords 64 ((chunksOf 8 16 block).map fromBE).reverse).reverse
  let out := (shaConstants.zip words).foldl (fun u p => workRound u (p.1 + p.2)) v
  (v.zip out).map (fun p => plus64 [p.1, p.2])

/-- The 64 bytes of the SHA-512 digest of a message: a 1 bit, zeros and the length in bits fill its last block. -/
def sha512 (m : List (BitVec 8)) : List (BitVec 8) :=
  let zeros := (239 - m.length % 128) % 128
  let padded := m ++ 0x80#8 :: List.replicate zeros 0#8 ++ toBE 16 (8 * m.length)
  ((chunksOf 128 (padded.length / 128) padded).foldl takeBlock shaStart).flatMap (toBE 8)

/-- The first 8 bytes of the digest, read little-endian (12 R377, R386, 13 R427). -/
def digest8 (m : List (BitVec 8)) : Nat := fromLE ((sha512 m).take 8)

/-! ### CRC-32C -/

/-- One bit of the reflected division by the Castagnoli polynomial. -/
def crcBit (c : Nat) : Nat := if c % 2 = 1 then (c / 2) ^^^ 0x82F63B78 else c / 2

def crcByte (c : Nat) (b : BitVec 8) : Nat :=
  crcBit (crcBit (crcBit (crcBit (crcBit (crcBit (crcBit (crcBit (c ^^^ b.toNat))))))))

/-- CRC-32C over the chunk bytes (12 R395). -/
def crc32c (l : List (BitVec 8)) : Nat := (l.foldl crcByte 0xFFFFFFFF) ^^^ 0xFFFFFFFF

end Sys2Proof.Machine
end

