-- ==== Sys2Proof/Machine/Entries.lean ====
section
/-! DEFINITION. The entries of the object dictionary (14 R452 to R455, R474, and the entry tables of every chapter): type,
access, default, write-permitted states, write paths, mapped offset, range. One row covers a rectangle of indexes and
sub-indexes with the same attributes. -/

namespace Sys2Proof.Machine

/-- Access codes of 14 R454. -/
inductive Acc where
  | ro | rw | wo
  deriving DecidableEq, Repr

/-- A row of the entry table. `states` has bit s set where device state code s permits a write, `paths` bit p where path
code p does (for a read-only entry too, so that 14 R471 refuses its writes at step 5 and not at step 4). `ok` lists the permitted intervals (none: every value of the type). -/
structure Entry where
  idx : Nat
  idxN : Nat
  sub : Nat
  subN : Nat
  typ : Nat
  size : Nat
  acc : Acc
  dflt : Nat
  states : Nat
  paths : Nat
  mapOff : Option Nat
  view : Bool
  deferred : Bool
  resv : Nat
  roBits : Nat
  ok : List (Nat × Nat)
  align : Nat
  deriving DecidableEq, Repr

/-- A row with the attributes that 14 R455 and R474 give where the owning chapter says nothing else: writable in every
state except Dormant, on paths 0, 1, 3 and 4, not mapped, without a reserved field. -/
def er (idx idxN sub subN typ size : Nat) (acc : Acc) (dflt : Nat) : Entry :=
  { idx := idx, idxN := idxN, sub := sub, subN := subN, typ := typ, size := size, acc := acc, dflt := dflt,
    states := if acc = .ro then 0 else 0xFE, paths := 0x1B, mapOff := none, view := false,
    deferred := false, resv := 0, roBits := 0, ok := [], align := 1 }

/-- Rows 1 of the entry table, in ascending order of index. -/
def entryRows0 : List Entry := [
  -- VENDOR
  er 0x1000 1 0x1 1 2 2 .ro 0xa57,
  -- PART_CODE
  er 0x1000 1 0x2 1 2 2 .ro 0x4096,
  -- SERIAL
  er 0x1000 1 0x3 1 4 8 .ro 0,
  -- STEPPING
  er 0x1000 1 0x4 1 1 1 .ro 16,
  -- MGMT_MAC
  er 0x1010 1 0x1 1 4 8 .ro 0,
  -- package id
  { er 0x1020 1 0x1 1 2 2 .rw 0 with states := 0x42, resv := 0x4000, roBits := 0x8000 },
  -- FACTORY_FENCES
  er 0x1030 1 0x1 64 4 8 .ro 0,
  -- MGMT_WRITE_RANGES
  { er 0x1040 1 0x1 1 2 2 .rw 264 with paths := 0x2 },
  -- RELAY_TIMEOUT
  { er 0x1040 1 0x2 1 2 2 .rw 10 with ok := [(1, 1000)] },
  -- MGMT_PORT_STATE
  er 0x1040 1 0x3 1 1 1 .ro 0,
  -- PLCA_NODE
  er 0x1040 1 0x4 1 1 1 .ro 1,
  -- DICT_DOORBELL
  { er 0x1042 1 0x0 1 3 4 .wo 0 with paths := 0x4, mapOff := some 0x4000, ok := [(0, 3)] },
  -- keystone position
  { er 0x2010 1 0x1 1 1 1 .rw 255 with ok := [(0, 63), (255, 255)] },
  -- beacon period
  { er 0x2010 1 0x2 1 2 2 .rw 10 with ok := [(1, 100)] },
  -- FLOW_MODE
  { er 0x2020 1 0x1 1 1 1 .rw 0 with states := 0x42, ok := [(0, 1)] },
  -- REKEY_PERIOD
  { er 0x2020 1 0x2 1 2 2 .rw 600 with ok := [(10, 65535)] },
  -- CLASS_WEIGHT 0
  { er 0x2024 1 0x1 1 1 1 .rw 4 with ok := [(1, 255)] },
  -- CLASS_WEIGHT 1
  { er 0x2024 1 0x2 1 1 1 .rw 16 with ok := [(1, 255)] },
  -- CLASS_WEIGHT 2
  { er 0x2024 1 0x3 1 1 1 .rw 24 with ok := [(1, 255)] },
  -- CLASS_WEIGHT 3
  { er 0x2024 1 0x4 1 1 1 .rw 48 with ok := [(1, 255)] },
  -- CLASS_WEIGHT 4
  { er 0x2024 1 0x5 1 1 1 .rw 48 with ok := [(1, 255)] },
  -- CLASS_WEIGHT 5
  { er 0x2024 1 0x6 1 1 1 .rw 32 with ok := [(1, 255)] },
  -- CLASS_WEIGHT 6
  { er 0x2024 1 0x7 1 1 1 .rw 64 with ok := [(1, 255)] },
  -- CLASS_WEIGHT 7
  { er 0x2024 1 0x8 1 1 1 .rw 8 with ok := [(1, 255)] }
]

/-- Rows 2 of the entry table, in ascending order of index. -/
def entryRows1 : List Entry := [
  -- AQ_SHARE_LIMIT
  { er 0x2030 1 0x1 1 1 1 .rw 75 with ok := [(0, 90)] },
  -- AQ_STAGING
  { er 0x2032 1 0x1 1 16 16 .rw 0 with resv := 2 ^ 43 - 1 },
  -- AQ_SET
  er 0x2032 1 0x2 1 2 2 .wo 0,
  -- AQ_CLEAR
  er 0x2032 1 0x3 1 2 2 .wo 0,
  -- TABLE_STAGING
  { er 0x2050 1 0x1 1 16 640 .rw 0 with resv := (2 ^ 5120 - 1) / 255 * 0xC0 },
  -- TABLE_INSTALL
  { er 0x2050 1 0x2 1 1 1 .wo 0 with ok := [(0, 3)] },
  -- INJECT_EPOCH
  { er 0x2050 1 0x3 1 1 1 .rw 255 with ok := [(0, 3), (255, 255)] },
  -- TABLE_RETIRE
  { er 0x2050 1 0x4 1 1 1 .wo 0 with ok := [(0, 3)] },
  -- LIVE_EPOCHS
  er 0x2050 1 0x5 1 1 1 .ro 0,
  -- EPOCH_IN
  er 0x2052 1 0x1 4 4 8 .ro 0,
  -- EPOCH_HELD
  er 0x2052 1 0x5 4 3 4 .ro 0,
  -- POND_EPOCH_STEP
  { er 0x2056 1 0x1 1 2 2 .wo 0 with resv := 0xfc, ok := [(0x100, 0x4ff)] },
  -- STEP_STATE
  er 0x2056 1 0x2 1 1 1 .ro 0,
  -- SILENT_MASK, POND_IN, POND_HELD
  er 0x2056 1 0x3 3 4 8 .ro 0,
  -- EPOCH_STEP_TIMEOUT
  { er 0x2056 1 0x6 1 2 2 .rw 10 with ok := [(1, 10000)] },
  -- POND_MEMBERS
  er 0x2056 1 0x7 1 4 8 .rw 0,
  -- port STATE
  er 0x2100 32 0x1 1 1 1 .ro 0,
  -- port PEER
  er 0x2100 32 0x2 1 3 4 .ro 0xffffffff,
  -- port ROUND_TRIP
  er 0x2100 32 0x3 1 3 4 .ro 0,
  -- port FENCE
  er 0x2100 32 0x4 1 1 1 .wo 0,
  -- port RETRAIN
  er 0x2100 32 0x5 1 1 1 .wo 0,
  -- port CREDITS
  { er 0x2100 32 0x10 16 2 2 .rw 0xffff with ok := [(0, 2048), (65535, 65535)] },
  -- POWER_STATE
  er 0x3000 1 0x1 1 1 1 .ro 0,
  -- WAKE_TOLERANCE
  { er 0x3000 1 0x2 1 3 4 .rw 0 with ok := [(0, 100000000)] }
]

/-- Rows 3 of the entry table, in ascending order of index. -/
def entryRows2 : List Entry := [
  -- EFFECTIVE_TOLERANCE
  er 0x3000 1 0x3 1 3 4 .ro 0,
  -- PLL_STATUS
  er 0x3010 1 0x1 1 2 2 .ro 1,
  -- INIT_STATUS
  er 0x3010 1 0x2 1 1 1 .ro 0,
  -- PACKAGE_POWER
  er 0x3020 1 0x1 1 3 4 .ro 0,
  -- POWER_LIMIT
  { er 0x3020 1 0x2 1 2 2 .rw 0x44c with ok := [(300, 1100)] },
  -- TEMP_A, TEMP_B
  er 0x3020 1 0x3 2 2 2 .ro 0,
  -- THERMAL_THROTTLE
  { er 0x3020 1 0x5 1 1 1 .rw 95 with ok := [(60, 100)] },
  -- THROTTLE_LEVEL
  er 0x3020 1 0x6 1 1 1 .ro 0,
  -- MEMORY_VIEW
  er 0x4000 1 0x1 1 1 1 .rw 0,
  -- PLACEMENT_MODE
  { er 0x4001 1 0x1 1 1 1 .rw 0 with states := 0x46, ok := [(0, 1)] },
  -- OBJECT_TABLE
  { er 0x4010 1 0x1 1 4 8 .ro 0 with view := true },
  -- OBJECT_COUNT
  { er 0x4010 1 0x2 1 2 2 .ro 0 with view := true },
  -- PLACE_OBJECT
  { er 0x4012 1 0x1 1 2 2 .wo 0 with states := 0x3c, view := true },
  -- PLACE_STAGING
  { er 0x4012 1 0x2 1 16 32 .rw 0 with resv := (2 ^ 9 - 1) * 2 ^ 128 + (2 ^ 14 - 1) * 2 ^ 64 },
  -- FLUSH_OBJECT
  { er 0x4014 1 0x1 1 2 2 .wo 0 with view := true },
  -- KV_STREAM_TABLE
  { er 0x4020 1 0x1 1 4 8 .rw 0 with states := 0xc, view := true, align := 64 },
  -- KV_STREAM_COUNT
  { er 0x4020 1 0x2 1 2 2 .rw 0 with states := 0xc, view := true, ok := [(0, 16384)] },
  -- KV_POOL_TABLE
  { er 0x4022 1 0x1 1 4 8 .rw 0 with states := 0xc, view := true, align := 64 },
  -- KV_POOL_TAIL
  { er 0x4023 1 0x0 1 3 4 .wo 0 with paths := 0x1f, mapOff := some 0x10, view := true },
  -- SET_WATERMARK
  { er 0x4026 1 0x1 1 4 8 .wo 0 with view := true, resv := 0xFE000000FFFF0000 },
  -- RELEASE_PROVISIONAL
  { er 0x4026 1 0x2 1 2 2 .wo 0 with view := true },
  -- SAVE_POOL
  { er 0x4030 1 0x1 1 4 8 .rw 0 with states := 0x42, align := 1048576 },
  -- SAVE_POOL_MIB
  { er 0x4030 1 0x2 1 3 4 .rw 0 with states := 0x42 },
  -- SAVE_RESERVED_KIB
  er 0x4030 1 0x3 1 3 4 .ro 0
]

/-- Rows 4 of the entry table, in ascending order of index. -/
def entryRows3 : List Entry := [
  -- SPILL_BASE
  er 0x4030 1 0x4 1 4 8 .ro 0,
  -- RETAIN_BASE
  er 0x4030 1 0x5 1 4 8 .ro 0,
  -- POOL_COMMIT
  { er 0x4040 1 0x1 1 1 1 .wo 0 with states := 0x42 },
  -- POOLS_STATUS
  er 0x4040 1 0x2 1 1 1 .ro 0,
  -- WINDOW_STAGING
  { er 0x4050 1 0x1 1 16 16 .rw 0 with states := 0x1c, resv := 2 ^ 51 - 1 },
  -- WINDOW_SET
  { er 0x4050 1 0x2 1 1 1 .wo 0 with states := 0x1c, ok := [(0, 63)] },
  -- WINDOW_CLEAR
  { er 0x4050 1 0x3 1 1 1 .wo 0 with states := 0x1c, ok := [(0, 63)] },
  -- WINDOWS
  er 0x4052 1 0x1 64 16 16 .ro 0,
  -- RETENTION
  { er 0x4060 1 0x1 1 2 2 .rw 0x3e8 with states := 0xc, ok := [(100, 10000)] },
  -- ATTEMPT_TIMEOUT
  { er 0x4060 1 0x2 1 2 2 .rw 200 with states := 0xc, ok := [(10, 2500)] },
  -- REQUEST_CAP
  { er 0x4060 1 0x3 1 1 1 .rw 64 with states := 0xc, ok := [(1, 64)] },
  -- HOT_LINE_THRESHOLD
  { er 0x4060 1 0x4 1 2 2 .rw 64 with states := 0xc, ok := [(8, 4096)] },
  -- LAKE_WINDOW_PHYS
  { er 0x4062 1 0x1 1 3 4 .rw 0 with states := 0xc },
  -- LAKE_WINDOW_MIB
  { er 0x4062 1 0x2 1 1 1 .rw 0 with states := 0xc, ok := [(0, 64)] },
  -- pool SIZE_CODE
  { er 0x4100 256 0x1 1 1 1 .rw 255 with states := 0x42, ok := [(0, 8), (255, 255)] },
  -- pool OWNERS
  { er 0x4100 256 0x2 1 2 2 .rw 0 with states := 0x42, resv := 0xf800 },
  -- pool FIRST_STONE
  { er 0x4100 256 0x3 1 2 2 .rw 0 with states := 0x42 },
  -- pool STONES
  { er 0x4100 256 0x4 1 2 2 .rw 1 with states := 0x42, ok := [(1, 256)] },
  -- pool SRAM_KIB
  { er 0x4100 256 0x5 1 1 1 .rw 0 with states := 0x42 },
  -- pool KIB_PER_STONE
  { er 0x4100 256 0x6 1 2 2 .rw 0 with states := 0x42, ok := [(1, 256)] },
  -- pool BUFFERS, FREE
  er 0x4100 256 0x7 2 2 2 .ro 0,
  -- pool LEVEL
  er 0x4100 256 0x9 1 1 1 .ro 0,
  -- pool RESERVE
  { er 0x4100 256 0x10 11 2 2 .rw 0 with states := 0x42 },
  -- pool IN_USE
  er 0x4100 256 0x20 11 2 2 .ro 0
]

/-- Rows 5 of the entry table, in ascending order of index. -/
def entryRows4 : List Entry := [
  -- DEVICE_STATE
  er 0x5000 1 0x1 1 1 1 .ro 0,
  -- STATE_REQUEST
  { er 0x5000 1 0x2 1 1 1 .wo 0 with ok := [(0, 7)] },
  -- JOB_TAG
  { er 0x5000 1 0x3 1 2 2 .rw 0 with states := 0x42 },
  -- JOB_PACKAGES
  er 0x5000 1 0x4 1 2 2 .ro 0,
  -- START_ID
  er 0x5000 1 0x5 1 3 4 .ro 0,
  -- POND_JOB_STEP
  { er 0x5010 1 0x1 1 1 1 .wo 0 with ok := [(1, 5)] },
  -- JOB_STAGING
  { er 0x5010 1 0x2 1 16 32 .rw 0 with resv := 0x1 },
  -- JOB_STEP_STATE
  er 0x5010 1 0x3 1 1 1 .ro 0,
  -- JOB_SILENT, JOB_REFUSED
  er 0x5010 1 0x4 2 4 8 .ro 0,
  -- JOB_FIRST_REFUSAL
  er 0x5010 1 0x6 1 3 4 .ro 0,
  -- PREPARE_TIMEOUT
  { er 0x5012 1 0x1 1 2 2 .rw 50 with ok := [(1, 10000)] },
  -- COMMIT_TIMEOUT
  { er 0x5012 1 0x2 1 2 2 .rw 20 with ok := [(1, 10000)] },
  -- TEARDOWN_TIMEOUT
  { er 0x5012 1 0x3 1 2 2 .rw 100 with ok := [(1, 10000)] },
  -- JOB_DIRECT
  { er 0x5014 1 0x1 1 1 1 .wo 0 with ok := [(1, 5)] },
  -- REMAP_STONE
  er 0x5020 1 0x1 1 3 4 .wo 0,
  -- SYNC_WATCHDOG
  { er 0x5022 1 0x1 1 3 4 .rw 0 with ok := [(0, 10000000)] },
  -- LOAD
  { er 0x5030 1 0x1 1 16 16 .wo 0 with deferred := true },
  -- LOAD_STATUS, LOAD_DETAIL
  er 0x5030 1 0x2 2 3 4 .ro 0,
  -- SLICE_LC
  { er 0x5050 1 0x1 1 3 4 .rw 0x3e8 with ok := [(50, 1000000)] },
  -- SLICE_BE
  { er 0x5050 1 0x2 1 3 4 .rw 0x7d0 with ok := [(50, 1000000)] },
  -- CONTEXT_STATE
  er 0x5100 256 0x1 1 1 1 .ro 0,
  -- CLASS
  { er 0x5100 256 0x2 1 1 1 .rw 0 with ok := [(0, 1)] },
  -- PREFILL_CHUNK
  { er 0x5100 256 0x3 1 2 2 .rw 512 with states := 0xc, ok := [(8, 16384)] },
  -- IMAGE_HASH
  er 0x5100 256 0x4 1 16 64 .ro 0
]

/-- Rows 6 of the entry table, in ascending order of index. -/
def entryRows5 : List Entry := [
  -- DETERMINISM_KEY
  er 0x5100 256 0x5 1 16 16 .ro 0,
  -- UNLOAD
  er 0x5100 256 0x6 1 1 1 .wo 0,
  -- RESUME
  { er 0x5100 256 0x7 1 1 1 .wo 0 with ok := [(0, 1)] },
  -- BLOCKED_SINCE
  er 0x5100 256 0x8 1 4 8 .ro 0,
  -- OVERRUN_DEBT
  er 0x5100 256 0x9 1 3 4 .ro 0,
  -- LIVE_ROUTERS
  er 0x6000 1 0x1 1 2 2 .ro 0,
  -- LIVE_COUNT
  er 0x6000 1 0x2 1 1 1 .ro 0,
  -- LAYER_VIEW
  er 0x6002 1 0x0 1 1 1 .rw 0,
  -- RETURN_TIMEOUT
  { er 0x6010 1 0x1 1 3 4 .rw 0x3e8 with states := 0xc, ok := [(10, 100000)] },
  -- SPILL_RESERVED
  er 0x6010 1 0x2 1 2 2 .ro 0,
  -- RETIRE_GENERATION
  { er 0x6012 1 0x1 1 3 4 .wo 0 with states := 0x1c, resv := 0xFF000000 },
  -- ABANDON_STRANDED
  { er 0x6012 1 0x2 1 2 2 .wo 0 with states := 0x1c },
  -- PLACEMENT_STAGING
  { er 0x6014 1 0x1 1 16 64 .rw 0 with states := 0x1c, resv := (2 ^ 512 - 1) / (2 ^ 32 - 1) * 3 },
  -- PLACEMENT_UPDATE
  { er 0x6014 1 0x2 1 4 8 .wo 0 with states := 0x1c, deferred := true, resv := 0xffff },
  -- layer MODE
  { er 0x6100 256 0x1 1 1 1 .rw 0 with states := 0xc, view := true, ok := [(0, 3)] },
  -- layer EXPERTS
  { er 0x6100 256 0x2 1 3 4 .rw 0 with states := 0xc, view := true },
  -- layer WIDTH
  { er 0x6100 256 0x3 1 2 2 .rw 0 with states := 0xc, view := true },
  -- layer TOP_K
  { er 0x6100 256 0x4 1 1 1 .rw 1 with states := 0xc, view := true, ok := [(1, 16)] },
  -- layer NORMALISATION
  { er 0x6100 256 0x5 1 1 1 .rw 0 with states := 0xc, view := true, ok := [(0, 1)] },
  -- layer GATE_FORMAT
  { er 0x6100 256 0x6 1 1 1 .rw 0 with states := 0xc, view := true, ok := [(0, 2)] },
  -- layer GROUPS
  { er 0x6100 256 0x7 1 2 2 .rw 0 with states := 0xc, view := true },
  -- layer GROUP_SIZE
  { er 0x6100 256 0x8 1 2 2 .rw 0 with states := 0xc, view := true },
  -- layer GROUPS_CHOSEN
  { er 0x6100 256 0x9 1 1 1 .rw 1 with states := 0xc, view := true },
  -- layer PROJ_WIDTH
  { er 0x6100 256 0xa 1 2 2 .rw 64 with states := 0xc, view := true }
]

/-- Rows 7 of the entry table, in ascending order of index. -/
def entryRows6 : List Entry := [
  -- layer SUBKEYS
  { er 0x6100 256 0xb 1 2 2 .rw 256 with states := 0xc, view := true },
  -- layer SCORING_SET
  { er 0x6100 256 0xc 1 2 2 .rw 0xffff with states := 0xc, view := true },
  -- layer GATE_IMAGE
  { er 0x6100 256 0xd 1 4 8 .rw 0 with states := 0xc, view := true, align := 64 },
  -- layer BIAS_IMAGE
  { er 0x6100 256 0xe 1 4 8 .rw 0 with states := 0xc, view := true },
  -- layer LAYER_STATUS
  { er 0x6100 256 0xf 1 1 1 .ro 0 with view := true },
  -- layer CAPACITY
  { er 0x6100 256 0x10 1 2 2 .rw 16 with states := 0xc, view := true, ok := [(1, 4096)] },
  -- layer SLACK
  { er 0x6100 256 0x11 1 2 2 .rw 0 with states := 0xc, view := true, ok := [(0, 4096)] },
  -- layer SPILL_SLOTS
  { er 0x6100 256 0x12 1 2 2 .rw 0 with states := 0xc, view := true, ok := [(0, 32768)] },
  -- layer RENORMALISE
  { er 0x6100 256 0x13 1 1 1 .rw 1 with states := 0xc, view := true, ok := [(0, 1)] },
  -- layer PLACEMENT_TABLE
  { er 0x6100 256 0x14 1 4 8 .rw 0 with states := 0xc, view := true, align := 64 },
  -- layer CARRY_WAIT
  { er 0x6100 256 0x15 1 2 2 .rw 0 with states := 0xc, view := true, ok := [(0, 10000)] },
  -- layer HOT_THRESHOLD
  { er 0x6100 256 0x16 1 1 1 .rw 150 with states := 0xc, view := true },
  -- layer RETURN_FORMAT
  { er 0x6100 256 0x17 1 1 1 .rw 0 with states := 0xc, view := true, ok := [(0, 1)] },
  -- layer DEADLINE_POLICY
  { er 0x6100 256 0x18 1 1 1 .rw 0 with states := 0xc, view := true, ok := [(0, 2)] },
  -- layer MISS_GRACE
  { er 0x6100 256 0x19 1 2 2 .rw 0 with states := 0xc, view := true },
  -- layer NEXT_ALTERNATES
  { er 0x6100 256 0x1a 1 1 1 .rw 0 with states := 0xc, view := true, ok := [(0, 15)] },
  -- layer EARLY_FETCH
  { er 0x6100 256 0x1b 1 1 1 .rw 1 with states := 0xc, view := true, ok := [(0, 1)] },
  -- layer sub-indices 0x1C to 0x1F, reserved (04 R146); their type is a DESIGN CHOICE, log entry 134
  { er 0x6100 256 0x1c 4 1 1 .ro 0 with view := true },
  -- RETAIN_MIB
  { er 0x7000 1 0x1 1 2 2 .rw 128 with states := 0x42, ok := [(32, 4096)] },
  -- COLL_VIEW
  er 0x7002 1 0x0 1 1 1 .rw 0,
  -- COLL_TIMEOUT
  { er 0x7010 1 0x1 1 3 4 .rw 0x2710 with states := 0xc, ok := [(100, 1000000)] },
  -- BARRIER_TIMEOUT
  { er 0x7010 1 0x2 1 3 4 .rw 0x7d0 with states := 0xc, ok := [(100, 1000000)] },
  -- COLL_ABORT
  er 0x7012 1 0x1 1 4 8 .wo 0,
  -- group MEMBERS
  { er 0x7100 256 0x1 1 4 8 .rw 0 with states := 0xc, view := true, align := 8 },
  -- group COUNT
  { er 0x7100 256 0x2 1 2 2 .rw 0 with states := 0xc, view := true, ok := [(1, 16384)] }
]

/-- Rows 8 of the entry table, in ascending order of index. -/
def entryRows7 : List Entry := [
  -- group RADIX
  { er 0x7100 256 0x3 1 1 1 .rw 8 with states := 0xc, view := true, ok := [(2, 2), (4, 4), (8, 8), (16, 16)] },
  -- group UP_AQUEDUCT
  { er 0x7100 256 0x4 1 2 2 .rw 0xffff with states := 0xc, view := true, ok := [(8192, 8703), (65535, 65535)] },
  -- group GROUP_COMMIT
  { er 0x7100 256 0x5 1 1 1 .wo 0 with states := 0xc, view := true },
  -- group STATUS
  { er 0x7100 256 0x6 1 1 1 .ro 0 with view := true },
  -- group OWN_RANK
  { er 0x7100 256 0x7 1 2 2 .ro 0 with view := true },
  -- group LIST_DIGEST
  { er 0x7100 256 0x8 1 4 8 .ro 0 with view := true },
  -- group NEXT_SEQ
  { er 0x7100 256 0x9 1 3 4 .ro 0 with view := true },
  -- FAULT_N_SELECT
  { er 0x8000 1 0x1 1 1 1 .rw 6 with resv := 0xf8 },
  -- C_ACK_POLICY
  { er 0x8000 1 0x2 1 1 1 .rw 0 with ok := [(0, 1)] },
  -- C_ACK_HOLD
  { er 0x8000 1 0x3 1 2 2 .rw 100 with ok := [(0, 10000)] },
  -- FAULT_RECORD
  er 0x8010 1 0x1 3 16 32 .ro 0,
  -- FAULT_ACK
  { er 0x8020 1 0x1 1 1 1 .wo 0 with resv := 0xf8 },
  -- FENCES
  er 0x8030 1 0x1 64 4 8 .ro 0,
  -- WORKING_STONES
  er 0x8030 1 0x41 1 2 2 .ro 0,
  -- FENCE_STONE
  { er 0x8032 1 0x1 1 2 2 .wo 0 with ok := [(0, 4095)] },
  -- SCRUB_PERIOD
  { er 0x8034 1 0x1 1 2 2 .rw 64 with ok := [(8, 1000)] },
  -- authority refusals
  er 0x8040 1 0x1 1 4 8 .ro 0,
  -- POND_FAULTS
  er 0x8050 1 0x1 1 16 64 .ro 0,
  -- FAULT_LOG
  { er 0x8060 1 0x1 1 4 8 .rw 0 with align := 32768 },
  -- FAULT_LOG_HEAD
  er 0x8060 1 0x2 1 2 2 .ro 0,
  -- IDENTITY_PUBLIC_KEY
  er 0x9000 1 0x1 1 16 32 .ro 0,
  -- IDENTITY_CERT
  er 0x9000 1 0x2 1 16 128 .ro 0,
  -- FIRMWARE_VERSION
  er 0x9010 1 0x1 1 3 4 .ro 0,
  -- FIRMWARE_DIGEST
  er 0x9010 1 0x2 1 16 64 .ro 0
]

/-- Rows 9 of the entry table, in ascending order of index. -/
def entryRows8 : List Entry := [
  -- RUNNING_SECURITY_VERSION
  er 0x9010 1 0x3 1 1 1 .ro 0,
  -- FIRMWARE_STATUS
  er 0x9010 1 0x4 1 1 1 .ro 0,
  -- FIRMWARE_LOAD
  { er 0x9010 1 0x5 1 16 16 .wo 0 with states := 0x1, paths := 0x3, deferred := true, resv := 0xFFFFFFFF },
  -- SECURITY_VERSION_COMMIT
  { er 0x9010 1 0x6 1 1 1 .wo 0 with states := 0x2, paths := 0x2 },
  -- FUSED_SECURITY_VERSION
  er 0x9010 1 0x7 1 1 1 .ro 0,
  -- ATTEST_CONTEXT
  er 0x9020 1 0x1 1 1 1 .rw 0,
  -- ATTEST_NONCE
  { er 0x9020 1 0x2 1 16 32 .wo 0 with deferred := true },
  -- ATTEST_QUOTE
  er 0x9020 1 0x3 1 16 720 .ro 0,
  -- TEST_CHALLENGE
  er 0x9030 1 0x1 1 16 32 .ro 0,
  -- TEST_UNLOCK
  { er 0x9030 1 0x2 1 16 160 .wo 0 with states := 0xff, paths := 0x3, deferred := true },
  -- TEST_UNLOCKED
  er 0x9030 1 0x3 1 1 1 .ro 0,
  -- OWNER_KEY
  { er 0x9040 1 0x1 1 16 32 .rw 0 with states := 0x42 },
  -- ENDORSEMENT
  { er 0x9040 1 0x2 1 16 64 .rw 0 with states := 0x42 },
  -- bridge counters
  er 0xa010 1 0x1 3 4 8 .ro 0,
  -- router counters
  er 0xa020 1 0x1 4 4 8 .ro 0,
  -- dispatch counters
  er 0xa021 1 0x1 12 4 8 .ro 0,
  -- HOT_RING
  { er 0xa028 1 0x1 1 4 8 .rw 0 with align := 4096 },
  -- HOT_HEAD
  er 0xa028 1 0x2 1 2 2 .ro 0,
  -- memory counters
  er 0xa030 1 0x1 14 4 8 .ro 0,
  -- stone counters
  er 0xa040 1 0x1 5 4 8 .ro 0,
  -- engine counters
  er 0xa050 1 0x1 9 4 8 .ro 0,
  -- compressor counters
  er 0xa054 1 0x1 8 4 8 .ro 0,
  -- chain counters
  er 0xa058 1 0x1 6 4 8 .ro 0,
  -- cistern counters
  er 0xa060 1 0x1 6 4 8 .ro 0
]

/-- Rows 10 of the entry table, in ascending order of index. -/
def entryRows9 : List Entry := [
  -- pond-memory counters
  er 0xa070 1 0x1 12 4 8 .ro 0,
  -- collective counters
  er 0xa080 1 0x1 14 4 8 .ro 0,
  -- job counters
  er 0xa090 1 0x1 9 4 8 .ro 0,
  -- power counters
  er 0xa0a0 1 0x1 8 4 8 .ro 0,
  -- link counters
  er 0xa0b0 1 0x1 9 4 8 .ro 0,
  -- fault counters
  er 0xa0c0 1 0x1 7 4 8 .ro 0,
  -- security counters
  er 0xa0e0 1 0x1 4 4 8 .ro 0,
  -- dictionary counters
  er 0xa0f0 1 0x1 7 4 8 .ro 0,
  -- REFUSALS_BY_CODE
  er 0xa0f1 1 0x11 2 4 8 .ro 0,
  -- REFUSALS_BY_CODE
  er 0xa0f1 1 0x21 4 4 8 .ro 0,
  -- REFUSALS_BY_CODE
  er 0xa0f1 1 0x31 3 4 8 .ro 0,
  -- REFUSALS_BY_CODE
  er 0xa0f1 1 0x41 6 4 8 .ro 0,
  -- REFUSALS_BY_CODE
  er 0xa0f1 1 0x51 2 4 8 .ro 0,
  -- REFUSALS_BY_CODE
  er 0xa0f1 1 0x61 2 4 8 .ro 0,
  -- port PACKETS, BYTES, STALL_CYCLES
  er 0xa100 32 0x1 48 4 8 .ro 0,
  -- port DEPTH, DEPTH_MAX
  er 0xa100 32 0x31 32 2 2 .ro 0,
  -- port events
  er 0xa100 32 0x51 8 4 8 .ro 0,
  -- TIMEBASE
  er 0xb000 1 0x1 1 4 8 .ro 0,
  -- TIME_STATUS
  er 0xb000 1 0x2 1 1 1 .ro 0,
  -- TIME_OFFSET
  er 0xb000 1 0x3 1 3 4 .ro 0,
  -- HOLDOVER_LIMIT
  { er 0xb000 1 0x4 1 2 2 .rw 100 with ok := [(1, 10000)] },
  -- LINK_VIEW
  er 0xb002 1 0x0 1 1 1 .rw 0,
  -- LINK_STATE
  er 0xb010 1 0x1 1 1 1 .ro 0,
  -- LINK_ROUND_TRIP
  er 0xb010 1 0x2 1 3 4 .ro 0
]

/-- Rows 11 of the entry table, in ascending order of index. -/
def entryRows10 : List Entry := [
  -- LINK_RETRAIN
  er 0xb010 1 0x3 1 1 1 .wo 0,
  -- UMORA_DOWN_LIMIT
  { er 0xb010 1 0x4 1 2 2 .rw 0x3e8 with ok := [(10, 60000)] },
  -- RESULT_SLOTS
  er 0xb020 1 0x0 1 16 32 .ro 0,
  -- SUBMIT_DOORBELL
  { er 0xb040 1 0x0 1 3 4 .wo 0 with paths := 0x1f, mapOff := some 0x0, view := true },
  -- SUBMIT_HEAD
  { er 0xb041 1 0x0 1 3 4 .ro 0 with paths := 0x1f, mapOff := some 0x8, view := true },
  -- RESULT_MAILBOX
  { er 0xb044 1 0x1 128 4 8 .ro 0 with paths := 0x1f, mapOff := some 0x800, view := true },
  -- RESULT_RELEASE
  { er 0xb045 1 0x1 128 3 4 .wo 0 with paths := 0x1f, mapOff := some 0x808, view := true },
  -- RING_BASE
  { er 0xb100 256 0x1 1 4 8 .rw 0 with align := 4096 },
  -- RING_ENTRIES
  { er 0xb100 256 0x2 1 3 4 .rw 0 with ok := [(16, 16), (32, 32), (64, 64), (128, 128), (256, 256), (512, 512), (1024, 1024), (2048, 2048), (4096, 4096), (8192, 8192), (16384, 16384), (32768, 32768), (65536, 65536)] },
  -- RING_ENABLE, STOP_ON_REFUSAL
  { er 0xb100 256 0x3 2 1 1 .rw 0 with ok := [(0, 1)] },
  -- RING_STATUS
  er 0xb100 256 0x5 1 1 1 .ro 0,
  -- RING_RESUME
  er 0xb100 256 0x6 1 1 1 .wo 0,
  -- RING_TAIL
  er 0xb100 256 0x7 1 3 4 .ro 0,
  -- MASK
  er 0xc000 1 0x1 16 3 4 .rw 0xffffffff,
  -- PENDING
  er 0xc000 1 0x11 16 3 4 .rw 0,
  -- LEVEL, IN_SERVICE
  er 0xc000 1 0x21 32 3 4 .ro 0,
  -- TOP
  er 0xc010 3 0x1 1 2 2 .ro 0xffff,
  -- RUNNING_PRIORITY
  er 0xc010 3 0x2 1 1 1 .ro 255,
  -- DEPTH
  er 0xc010 3 0x3 1 1 1 .ro 0,
  -- HOST_EOI
  { er 0xc012 1 0x4 1 2 2 .wo 0 with paths := 0x12 },
  -- SOURCE_CONFIG
  { er 0xc100 512 0x1 1 2 2 .rw 0 with resv := 0xff80, roBits := 0x40 },
  -- SERVE
  er 0xc100 512 0x2 1 1 1 .wo 0,
  -- ENGINE_INJECT
  { er 0xf050 1 0x1 1 3 4 .wo 0 with states := 0x18, resv := 0xFFFFC000 }
]

/-- The entry table of the part. -/
def entryRows : List Entry :=
  entryRows0 ++ entryRows1 ++ entryRows2 ++ entryRows3 ++ entryRows4 ++ entryRows5 ++ entryRows6 ++ entryRows7 ++ entryRows8 ++ entryRows9 ++ entryRows10

/-- Whether a row assigns the address. -/
def Entry.covers (e : Entry) (idx sub : Nat) : Bool :=
  decide (e.idx ≤ idx) && decide (idx < e.idx + e.idxN) && decide (e.sub ≤ sub) && decide (sub < e.sub + e.subN)

/-- The row that assigns the address, if any (14 R471 step 3). -/
def findEntry (idx sub : Nat) : Option Entry := entryRows.find? (fun e => e.covers idx sub)

/-- The index is assigned, whatever the sub-index (14 R471 step 3). -/
def indexAssigned (idx : Nat) : Bool := entryRows.any (fun e => decide (e.idx ≤ idx) && decide (idx < e.idx + e.idxN))

/-- The first assigned address of a row that comes after (idx, sub), as index * 256 + sub-index. -/
def Entry.nextIn (e : Entry) (idx sub : Nat) : Option Nat :=
  let inIdx (i from_ : Nat) : Option Nat :=
    let s := max e.sub from_
    if e.idx ≤ i ∧ i < e.idx + e.idxN ∧ s < e.sub + e.subN then some (i * 256 + s) else none
  match inIdx idx (sub + 1) with
  | some a => some a
  | none => inIdx (max (idx + 1) e.idx) 0

/-- The smaller of two optional addresses. -/
def optMin (a b : Option Nat) : Option Nat :=
  match a, b with
  | none, b => b
  | a, none => a
  | some x, some y => some (min x y)

/-- NEXT (14 R475): the first assigned address after (idx, sub) in ascending order. -/
def nextEntry (idx sub : Nat) : Option Nat := entryRows.foldl (fun a e => optMin a (e.nextIn idx sub)) none

/-- The offset at which the address is mapped: in the package area or the context page (14 R462, R463, R474). -/
def mapOffset (e : Entry) (sub : Nat) : Nat :=
  match e.mapOff with
  | none => 0
  | some o => o + 16 * (sub - e.sub)

/-- The DESCRIBE data of an entry (14 R474), as one little-endian number of 16 bytes. -/
def describe (e : Entry) (sub : Nat) : Nat :=
  let acc := match e.acc with | .ro => 0 | .rw => 1 | .wo => 2
  let d := if e.typ = 16 ∨ e.acc = .wo then 0 else e.dflt
  e.typ * 2 ^ 123 + (e.size % 2048) * 2 ^ 112 + acc * 2 ^ 110 + b2n e.deferred * 2 ^ 109 + b2n e.view * 2 ^ 108 +
    e.states * 2 ^ 100 + e.paths * 2 ^ 95 + mapOffset e sub * 2 ^ 79 + b2n e.mapOff.isSome * 2 ^ 78 + d

/-- A value within the entry's own range, with its reserved bits zero (14 R471 step 9, 00 R9, R586). -/
def valueOk (e : Entry) (v : Nat) : Bool :=
  decide (v < 2 ^ (8 * e.size)) && decide (v &&& e.resv = 0) && decide (v % e.align = 0) &&
    (e.ok.isEmpty || e.ok.any (fun p => decide (p.1 ≤ v) && decide (v ≤ p.2)))

end Sys2Proof.Machine
end

