-- ==== Sys2Proof/Machine/State.lean ====
section
/-! DEFINITION. The state of the SX4096 as plain data, and State.reset. Registers that the object dictionary shows and
that hold a plain value (settings, counters, status words) stand in `ent`, one home for each, read and written through
Machine/Ops.lean; everything else the manual gives the machine has a field of its own below. Tables are sparse
(Sys2Proof.Tbl): an unlisted key holds the default of its type. -/

namespace Sys2Proof.Machine

/-- Device states of 13 R416, in the order of their codes. -/
inductive Mode where
  | dormant | verified | configured | ready | running | draining | clean | faulted
  deriving DecidableEq, Repr

/-- Fault of the MODEL: a command that names a unit the part does not have. -/
inductive Fault where
  /-- Raised by UNIT_FAILURE for a unit number outside 01 R11 to R13 and 04 R123: no such unit exists. Safe: the
  machine stops where the manual describes nothing. -/
  | noSuchUnit
  deriving DecidableEq, Repr

/-- Why a command has no meaning in the model. -/
inductive Refusal where
  /-- A row of the opcode table whose meaning has not been written. Safe. -/
  | notModelled (mnemonic : String)
  deriving DecidableEq, Repr

/-- Fused and factory-fixed data (00 R3, 14 R477, R585, 18 R550, R552, R558, R560, 19 R583): kept through reset. -/
structure Fuses where
  serial : Nat
  grade : Nat
  stepping : Nat
  mgmtMac : Nat
  factoryFenced : List Nat
  fusedSecurityVersion : Nat
  identityKey : Nat
  identityCert : Nat
  revokedFwKeys : List Nat
  deriving DecidableEq, Repr

/-- A fault record of the plumb (16 R507). CLASS is the record's own place. -/
structure FaultRec where
  valid : Bool
  overflow : Bool
  escalated : Bool
  time : Nat
  detail : Nat
  cause : Nat
  kind : Nat
  unit : Nat
  ctx : Option Nat
  repeats : Nat
  fromCause : Nat
  fromKind : Nat
  fromUnit : Nat
  deriving DecidableEq, Repr

/-- What leaves the part, or is handed to a unit whose work another command models: the messages, oldest first. -/
inductive Out where
  /-- A dictionary response (14 R460): path, source, SEQ, code, length, value, REPLAYED. -/
  | response (path src seq code length value : Nat) (replayed : Bool)
  /-- A write to host memory over Umora Link (15 R484): address and bytes. -/
  | hostWrite (addr : Nat) (bytes : List (BitVec 8))
  /-- A read of host memory (15 R484): address, length, tag. -/
  | hostRead (addr len tag : Nat)
  /-- A host-directed interrupt, the MESSAGE of code 1 (15 R493): source and priority. -/
  | hostMessage (source priority : Nat)
  /-- A class 0 management message to a grid position: the pond beacon (01 R31). -/
  | beacon (period : Nat)
  /-- A class 0 epoch operation to a member (10 R332). -/
  | epochOp (pos op epoch : Nat)
  /-- A member's answer to an epoch operation: its code, 0 where it accepted (10 R332, 01 R30). -/
  | epochAnswer (code injecting epochIn epochHeld : Nat)
  /-- A class 0 job operation relayed over tree A or B to a position (13 R425). -/
  | jobOp (treeB : Bool) (pos op startId record : Nat)
  /-- An answer to a job operation: positions and codes (13 R425). -/
  | jobAnswer (answers : List (Nat × Nat))
  /-- A relayed dictionary request, class 0 (14 R466): position, opcode, index, sub-index, request. -/
  | relay (pos opcode idx sub : Nat) (q : Req)
  /-- A fault summary on class 7 to the keystone (16 R513). -/
  | summary (byte : Nat)
  /-- A link-management frame of a port that is not UP (10 R299, R300), with the SEQ that its header shows: the HELLO, with
  package id, port, flow mode, certificate and ephemeral key; the echo; the refusal notice. -/
  | portHello (p seq pkg flowMode cert ephemeral : Nat)
  | portEcho (p seq : Nat)
  | portRefusal (p seq : Nat)
  /-- What the rekey frame carries that the next link-management frame of the port takes (18 R555): the ephemeral key. -/
  | portRekey (p ephemeral : Nat)
  /-- A frame put on a link (10 R302): port, KEY_PHASE, VC, SEQ, body. -/
  | frame (p : Nat) (keyPhase : Bool) (vc seq : Nat) (body : FrameBody)
  /-- A control block put on a link (10 R303): port, CREDITS by VC, OFF_MASK, ACK_SEQ, NAK, KEY_PHASE. -/
  | control (p : Nat) (credits : List Nat) (offMask ackSeq : Nat) (nak keyPhase : Bool)
  /-- An idle Umora Link flit (15 R480, R481): SEQ, the last one used, ACK_SEQ, NAK, CREDIT_P, CREDIT_N. -/
  | flit (seq ackSeq : Nat) (nak : Bool) (creditP creditN : Nat)
  /-- A resent Umora Link flit (15 R481). -/
  | flitResend (seq : Nat)
  /-- A management processor takes an interrupt (16 R522). -/
  | mgmtInterrupt (target source : Nat)
  /-- A tile notice on the mesh to the mortar that owns the handle (05 R192): stone, handle, tile. -/
  | notice (st handle tile : Nat)
  /-- A response on the boundary-scan port: the TAP data register that the instruction selects (18 R563). -/
  | tap (t : TapInstr)
  deriving DecidableEq, Repr

/-- Port states of 10 R299, in the order of their values. -/
inductive PortState where
  | down | training | authenticating | up | miswired | refused | fenced
  deriving DecidableEq, Repr

/-- A frame body waiting at a switch: its VC, where it came in (0 to 31 a port, 32 + w injection at wythe w, 34 + w the
bridge at wythe w), and its lost arbitrations in a row (10 R314). -/
structure QItem where
  vc : Nat
  inPort : Nat
  losses : Nat
  body : FrameBody
  deriving DecidableEq, Repr

/-- A sent, unacknowledged frame in a replay buffer (10 R304): SEQ, resends so far, VC, body. -/
structure Sent where
  seq : Nat
  resends : Nat
  vc : Nat
  body : FrameBody
  deriving DecidableEq, Repr

/-- A fabric port (10 R296 to R317). -/
structure Port where
  state : PortState
  peer : Option (Nat × Nat)
  roundTrip : Nat
  /-- The present attempt is a retrain of R305, so its failure counts. -/
  retraining : Bool
  /-- This side's checks of the HELLO have passed in the present attempt (R299, R300). -/
  helloOk : Bool
  /-- The credit split in use, by VC, taken at the last bring-up (R316). -/
  split : List Nat
  /-- TIMEBASE of the failed retrains of the last second (R305). -/
  fails : List Nat
  /-- The key of the sending direction with its KEY_PHASE and frame counter, and that of the receiving direction (10 R301). -/
  keyPhase : Bool
  txKey : BitVec 288
  frameCtr : Nat
  rxPhase : Bool
  rxKey : BitVec 288
  /-- The receiving key of a finished rekey, in use from the first frame of the other KEY_PHASE. -/
  rxNext : Option (BitVec 288)
  rekeying : Bool
  /-- A link-management frame is to be sent (10 R301, 18 R555). -/
  mgmtDue : Bool
  /-- Blocks of frames sent since the last control block that they called for (10 R303). -/
  blocks : Nat
  txSeq : Nat
  rxSeq : Nat
  replay : List Sent
  /-- Credits of the peer's receive buffer that this port has used, by VC, running total. -/
  used : Tbl Nat
  /-- Credits returned by the peer, by VC, modulo 4,096 (R303). -/
  returned : Tbl Nat
  /-- Credits returned to the peer, by VC, modulo 4,096 (R303). -/
  freed : Tbl Nat
  /-- OFF_MASK last received. -/
  offIn : Nat
  /-- OFF_MASK this port sends (R317). -/
  offOut : Nat
  /-- Receive buffer, oldest first. -/
  rx : List QItem
  /-- Output queue, oldest first. -/
  outQ : List QItem
  deficit : Tbl Nat
  rrNext : Nat
  deriving DecidableEq, Repr

/-- An epoch step at the keystone (10 R332). -/
structure EpochStep where
  op : Nat
  epoch : Nat
  waiting : List Nat
  silent : List Nat
  deriving DecidableEq, Repr

/-- A job step at the keystone or an interior member (13 R425, R428). -/
structure JobStep where
  op : Nat
  startId : Nat
  waiting : List Nat
  answers : List (Nat × Nat)
  deriving DecidableEq, Repr

/-- A start record's state (13 R426). -/
inductive StartState where
  | none | prepared | committed | running | aborted
  deriving DecidableEq, Repr

/-- Context states of 13 R420, in the order of their codes. -/
inductive CtxState where
  | empty | loading | swapped | swappingIn | ready | running | blocked | swappingOut | stopped | unloading
  deriving DecidableEq, Repr

/-- A sync object (05 R184). -/
structure SyncObj where
  err : Bool
  val : BitVec 32
  deriving DecidableEq, Repr

/-- What a stone's sequencer is doing (05 R178, R185, R187, R193; 13 R421, R422). -/
inductive StoneRun where
  | off
  | running
  | halted
  | yielding
  /-- A WAIT on one of the own objects for a target value, and since when. -/
  | waiting (obj : Nat) (target : BitVec 32) (since : Nat)
  /-- Stopped at the instruction at pc, which failed (13 R422). A stone stopped at an instruction boundary keeps the run
  state it had: its context's state keeps it from issuing. -/
  | stopped
  deriving DecidableEq, Repr

/-- Why the instruction at pc waits at issue. -/
inductive Stall where
  | inFlightFull | rangeOverlap | tokenBuffer | generation | dmaFull | request | memFence | config | scalar
  | kvPool | fetchQueue | retireBusy | collectives | release
  deriving DecidableEq, Repr

/-- An instruction in flight: its address, what kind of work it is, its SRAM ranges (start, length) and its signal. -/
structure InFl where
  pc : Nat
  kind : Nat
  srcs : List (Nat × Nat)
  dsts : List (Nat × Nat)
  signal : Option Nat
  deriving DecidableEq, Repr

/-- A product in an engine (06 R207, R213, R223). -/
structure Tile where
  pc : Nat
  o : Operands
  regs : List (BitVec 32)
  recomputed : Bool
  /-- Discarded at the end of a slice or at a swap-out; it is issued again at the next slice (06 R225). -/
  again : Bool
  signal : Option Nat
  soc : Bool
  deriving DecidableEq, Repr

/-- What an engine's array holds of the last block that it has summed (06 R198, R221): the block accumulators of its cells, for each
pass by weight row and token; the checksum row, by segment and token; the checksum column, by weight row and segment; the converter
pairs, as their two results for each output value; and the two sets of tile accumulators, the later one first. -/
structure ArrayRegs where
  sums : List (List (List Int))
  checkRow : List (List Int)
  checkCol : List (List Int)
  convs : List (BitVec 32 × BitVec 32)
  accs : List (List (BitVec 32))
  deriving DecidableEq, Repr

/-- A run of the vector chain in flight (08 R255, R266): VL, scalars and register values as they stood at issue. -/
structure VRun where
  pc : Nat
  o : Operands
  vl : Nat
  scalars : List (BitVec 32)
  regs : List (BitVec 32)
  cfg : List (BitVec 64)
  signal : Option Nat
  deriving DecidableEq, Repr

/-- An EXPERT RUN in flight at a stone (03 R102). -/
structure ERun where
  pc : Nat
  layer : Nat
  stage : Nat
  block0 : Nat
  blocks : Nat
  maxBatch : Nat
  table : Nat
  signal : Option Nat
  deriving DecidableEq, Repr

/-- The sequencer state that a step mark records (05 R177, R195). -/
structure SeqState where
  pc : Nat
  lc : Tbl (BitVec 24)
  areg : Tbl (BitVec 32)
  vl : Nat
  deriving DecidableEq, Repr

/-- A stone (05 R165, 08 R253). -/
structure Stone where
  owner : Option Nat
  run : StoneRun
  pc : Nat
  lc : Tbl (BitVec 24)
  areg : Tbl (BitVec 32)
  vl : Nat
  sync : Tbl SyncObj
  scalars : Tbl (BitVec 32)
  cfg : Tbl (List (BitVec 64))
  mark : Option SeqState
  np : Option Nat
  /-- YIELDs completed: a stone's YIELD ends once the lead stone's count has passed its own (05 R178). -/
  yields : Nat
  /-- SIGNAL_EN of a WAIT or YIELD that has not ended: the sync object to add 1 to. -/
  waitSig : Option Nat
  stall : Option Stall
  memFence : Bool
  inflight : List InFl
  dense : List Tile
  sparse : List Tile
  vruns : List VRun
  /-- EXPERT RUNs in flight, oldest first. -/
  eruns : List ERun
  /-- ENGINE_INJECT pending for the dense and the sparse engine: 0 none, 1 next tile, 2 every tile (06 R228). -/
  injDense : Nat
  injSparse : Nat
  dirty : List Nat
  deriving DecidableEq, Repr

/-- A course DMA descriptor posted (05 R179, R181). -/
structure Dma where
  stone : Nat
  desc : BitVec 256
  /-- Its reads from other packages and from the host are asked for. -/
  started : Bool
  /-- Requests to other packages that are still to be answered, and the bytes that answers have brought, by place. -/
  want : Nat
  got : List (Nat × List (BitVec 8))
  /-- Its rows are moved; it ends when its stores are acknowledged. -/
  moved : Bool
  /-- An access was refused. -/
  failed : Bool
  /-- It waits for a staging buffer; the buffer that it holds (09 R280, R284). -/
  waits : Bool
  stage : Option (BitVec 32)
  deriving DecidableEq, Repr

/-- A candidate of the sorter: ranking score, raw score (FP32 bits), key number (02 R52, R53). In product-key mode the
two ranking halves stand in rank and rank2 and are compared by their exact sum (R55). -/
structure Cand where
  rank : BitVec 32
  rank2 : BitVec 32
  raw : BitVec 32
  id : Nat
  deriving DecidableEq, Repr

/-- A choice entry (02 R64). -/
structure ChoiceEntry where
  weight : BitVec 32
  expert : Nat
  rank : Nat
  replica : Nat
  deriving DecidableEq, Repr

/-- A scoring request in a lead router's token buffer (02 R34, R37, R61). -/
structure Tok where
  key : TokKey
  lead : Nat
  origin : Nat
  stone : Nat
  recOff : Nat
  pc : Nat
  spec : Bool
  stepSlot : Nat
  payload : List (BitVec 8)
  /-- BLOCKS of the request's header (R61), and the token's sequence position (15 R488), if a step names it. -/
  blocks : Nat
  position : Option Nat
  /-- The router to which a product-key token is dealt (02 R39, R48). -/
  dealt : Option Nat
  /-- Routers that have scored it, stage 1 and stage 2. -/
  scored : List Nat
  scored2 : List Nat
  gparts : List Cand
  chosen : Option (List Nat)
  parts : List Cand
  signal : Option Nat
  /-- The request waits in the buffer for its generation, and its stone is held (R115, 13 R421). -/
  waits : Bool
  deriving DecidableEq, Repr

/-- A layer's share in a router's gate store, with the bias image (02 R34, R41, R42). -/
structure Share where
  ctx : Nat
  layer : Nat
  img : List (BitVec 8)
  bias : List (BitVec 8)
  deriving DecidableEq, Repr

/-- A millrace's stream of a router's share (02 R41, R42, R48, R587): its reads as (place, address, bytes), where places below 2^32 are
those of the gate image and those above are those of the bias image. Of reads in other packages: the tag of their LOADs, the answers
awaited, the bytes they have brought, the places that are read once more, and whether one has failed. -/
structure Gather where
  ctx : Nat
  layer : Nat
  reads : List (Nat × Nat × Nat)
  tag : Nat
  want : Nat
  got : List (Nat × List (BitVec 8))
  again : List Nat
  failed : Bool
  deriving DecidableEq, Repr

/-- An expert router (02 R34). -/
structure Router where
  fenced : Bool
  /-- Shares present: two halves, or one whole layer (R46). -/
  shares : List Share
  /-- A stream asked for and not ended: (context, layer). -/
  streaming : List (Nat × Nat)
  /-- What those streams read (R587), and how many streams have been asked for. -/
  gathers : List Gather
  streams : Nat
  /-- (context, layer, generation) of a first uncorrectable read (R35). -/
  badOnce : List (Nat × Nat × Nat)
  /-- Placement cache: context, layer, expert, block; newest first, at most 2,048 (03 R72). -/
  cache : List (Nat × Nat × Nat × List Replica)
  deriving DecidableEq, Repr

/-- One rank of a token at its confluence (03 R91, R110 to R116; 04 R145). -/
structure Rank where
  verdict : Option Nat
  segs : List (Nat × List (BitVec 8))
  complete : Bool
  dropped : Bool
  closed : Bool
  stranded : Bool
  path : Nat
  /-- The replica record under which the claim was sent. -/
  rep : Option Replica
  /-- The confluence-owned buffer that holds the rank's return (09 R280). -/
  buf : Option (BitVec 32)
  /-- It was sent again to another replica (R94, 04 R145). -/
  resent : Bool
  /-- Its return has come and was dropped, for its token was cancelled or its generation retired (R108, R113). -/
  lost : Bool
  deriving DecidableEq, Repr

/-- A token at its confluence (03 R91, R106, R110, R111). -/
structure Conf where
  key : TokKey
  bay : Nat
  origin : Nat
  stone : Nat
  recOff : Nat
  pc : Nat
  spec : Bool
  signal : Option Nat
  /-- STEP_SLOT and BLOCKS of the request's header, which the choice list keeps (02 R64), and the token's position. -/
  stepSlot : Nat
  blocks : Nat
  position : Option Nat
  payload : List (BitVec 8)
  choices : List ChoiceEntry
  alternates : List Nat
  /-- Choices whose claim waits for a placement block read. -/
  pendingClaims : List Nat
  ranks : Tbl Rank
  weights : Option (List (BitVec 32))
  added : Nat
  acc : List (BitVec 32)
  varying : Bool
  timedOut : Bool
  done : Bool
  deriving DecidableEq, Repr

/-- A generation at a confluence that is open or retired (03 R113 to R115). -/
structure Gen where
  bay : Nat
  ctx : Nat
  gen : Nat
  retired : Bool
  /-- R78 has applied, or a general stone was fenced while it was open: a retire is accepted (R114). -/
  forced : Bool
  deriving DecidableEq, Repr

/-- A claim bundle sent and not acknowledged (03 R74, R77). -/
structure Bundle where
  ctx : Nat
  layer : Nat
  gen : Nat
  home : Nat
  deriving DecidableEq, Repr

/-- The admission barrier of (context, layer, generation) at this package (03 R77). -/
structure Barrier where
  ctx : Nat
  layer : Nat
  gen : Nat
  joined : Bool
  /-- The status with which the barrier collective completed at this package, and the stones that were fenced then (R79). -/
  result : Option Nat
  fencedAt : List Nat
  ended : Bool
  deriving DecidableEq, Repr

/-- A choice that the ledgers hold after its admission (03 R81, R82, R93): its part of the run (0 main run, 1 slack pass,
2 carried) under the admission of generation `adm`, whether its data has come, whether it was taken by a RUN and whether it
has finished. -/
structure Admitted where
  claim : Claim
  adm : Nat
  part : Nat
  slot : Option Nat
  buffer : Option (BitVec 32)
  arrived : Bool
  taken : Bool
  ran : Bool
  resend : Bool
  path : Nat
  deriving DecidableEq, Repr

/-- The run of a replica's choices under one admission of a layer, by its generation (03 R88, R102; 04 R140 to R145). A replica
has one for each admission whose choices are not all taken, oldest first. -/
structure RunSt where
  ctx : Nat
  layer : Nat
  first : Nat
  span : Nat
  gen : Nat
  part : Nat
  due : Bool
  missed : Bool
  graceOver : Bool
  shadow : Bool
  carryDue : Bool
  /-- A RUN has completed with END for this admission (03 R102). -/
  ended : Bool
  /-- The batch being staged, with the PART, SHADOW and END of its header, and the stones that have staged it. -/
  batch : List Admitted
  bPart : Nat
  bShadow : Bool
  bFin : Bool
  staged : List Nat
  deriving DecidableEq, Repr

/-- A placement update under way or in force from a generation on (03 R73), with the block that earlier generations keep. -/
structure PUpdate where
  ctx : Nat
  layer : Nat
  expert : Nat
  gen : Nat
  block : List Replica
  old : List Replica
  /-- The status with which the home of the table answered the store. -/
  answer : Option Nat
  stored : Bool
  effective : Bool
  deriving DecidableEq, Repr

/-- A fill of an object's window (04 R138): requests to its home that are still to be answered, the bytes that answers have brought
by place, and whether one was refused (11 R352). -/
structure Fill where
  ctx : Nat
  obj : Nat
  want : Nat
  got : List (Nat × List (BitVec 8))
  failed : Bool
  deriving DecidableEq, Repr

/-- A fetch request at a millrace (04 R134, R135); `age` orders the requests by the commands that raised them. -/
structure Fetch where
  ctx : Nat
  obj : Nat
  cls : Nat
  age : Nat
  deriving DecidableEq, Repr

/-- The tier-0 window of an object (04 R136, R138): whether it holds a complete fill, and whether a run part holds it. -/
structure Win where
  present : Bool
  held : Bool
  bad : Bool
  deriving DecidableEq, Repr

/-- A KV write that waits for an empty pool (04 R155). -/
structure KvWait where
  ctx : Nat
  stone : Nat
  stream : Nat
  pos : Nat
  off : Nat
  bytes : List (BitVec 8)
  deriving DecidableEq, Repr

/-- What waits for a buffer (09 R284): a token copy or a return held in the fabric, a token's combined output, or a descriptor of the
course DMA. -/
inductive WaitOp where
  | copy (srcPkg : Nat) (d : TokenDesc) (payload : List (BitVec 8))
  | ret (h : RetHdr) (payload : List (BitVec 8))
  | output (bay : Nat) (k : TokKey)
  | dma (stone : Nat)
  deriving DecidableEq, Repr

/-- A waiting request for a buffer (09 R280, R282): owner, size in bytes, references. -/
structure BufReq where
  owner : Nat
  size : Nat
  refs : Nat
  op : WaitOp
  deriving DecidableEq, Repr

/-- A buffer pool after its commit (09 R277 to R291); SIZE_CODE 0xFF is an unused pool. `counts` holds the reference count
and `holders` the owner of each taken buffer, by handle; `head` is the handle of the first free buffer. -/
structure Pool where
  sizeCode : Nat
  owners : Nat
  firstStone : Nat
  stones : Nat
  sramKib : Nat
  kibPerStone : Nat
  reserves : Tbl Nat
  used : Tbl Nat
  counts : Tbl Nat
  holders : Tbl Nat
  head : Nat
  /-- Output buffers handed to programs (03 R111): context + 1, by handle. -/
  outCtx : Tbl Nat
  retired : List Nat
  level : Nat
  rebuilding : Bool
  relQueue : List (BitVec 32)
  waiting : List BufReq
  deriving DecidableEq, Repr

/-- An outstanding request of a sender (11 R349, R361, R362). -/
structure OutReq where
  slot : Nat
  seq : Nat
  op : Nat
  dest : Nat
  lake : Bool
  offset : Nat
  size : Nat
  issueT : Nat
  attempt : Nat
  targetStone : Nat
  payload : List (BitVec 8)
  /-- Where the answer goes: SRAM offset of the issuing stone, if any, and the instruction. For another unit: the place of the bytes
  in what it reads, and what it reads or writes for (a stone of the course, an object's winKey, a table's expert). -/
  sramDst : Option Nat
  width : Nat
  pc : Nat
  signal : Option Nat
  deriving DecidableEq, Repr

/-- A sender of memory requests (11 R349). -/
structure Sender where
  nextSeq : Nat
  reqs : List OutReq
  /-- Requests of a unit other than a stone that wait for a slot or for REQUEST_CAP (R361), oldest first. -/
  waitQ : List OutReq
  /-- Periods of ATTEMPT_TIMEOUT that have expired for a STORE (R362), by slot. -/
  expired : Tbl Nat
  deriving DecidableEq, Repr

/-- An entry of the atomic ledger (11 R364). -/
structure LedgerEnt where
  srcPkg : Nat
  unitKind : Nat
  unit : Nat
  seq : Nat
  old : Nat
  expiry : Nat
  deriving DecidableEq, Repr

/-- A part of a request queued on a 64-byte line at its home (11 R371). -/
structure LineReq where
  line : Nat
  phys : Nat
  len : Nat
  /-- Byte offset of this part within the request. -/
  at_ : Nat
  req : MemReq
  deriving DecidableEq, Repr

/-- A request being performed in parts at its home (11 R371): the data gathered and the parts left. -/
structure HomeReq where
  req : MemReq
  left : Nat
  data : List (Nat × BitVec 8)
  bad : Bool
  deriving DecidableEq, Repr

/-- An open collective at this member (12 R385 to R402). Partials are kept by virtual rank of the child's node and chunk. -/
structure Coll where
  key : CollKey
  desc : CollDesc
  stone : Nat
  pc : Nat
  signal : Option Nat
  handle : Nat
  eager : Bool
  socFeed : Bool
  n : Nat
  rank : Nat
  /-- Rank at the root of the tree of DONE, SEAL and ABORT (R388). -/
  root : Nat
  radix : Nat
  digest : Nat
  retention : Nat
  granted : Bool
  /-- Contribution tiles in hand: (tile, bytes). -/
  tiles : List (Nat × List (BitVec 8))
  /-- Child partials: (child virtual rank, chunk, bytes) in order of arrival. -/
  parts : List (Nat × Nat × List (BitVec 8))
  badParts : List (Nat × Nat × Nat)
  /-- Ranks whose digest has come and agreed (R387), and the first packet sent to each rank: (rank, MSG, chunk). -/
  agreed : List Nat
  greeted : List (Nat × Nat × Nat)
  /-- Up-going chunks whose value this member has formed, and sent unless it roots their tree. -/
  sentChunks : List Nat
  /-- Partials sent and result chunks of the root, kept for re-sends: (chunk, bytes). -/
  retained : List (Nat × List (BitVec 8))
  results : List Nat
  badResults : List (Nat × Nat)
  /-- Children that have sent DONE, with the members that each covers. -/
  childDone : List (Nat × Nat)
  sentDone : Bool
  abortSent : Bool
  deriving DecidableEq, Repr

/-- A collective that has ended, among the last 16 of its context and group (12 R399, R406). -/
structure CollEnd where
  key : CollKey
  status : Nat
  /-- The rank that the abort carried, whether this member posted the collective, and whether it roots it. -/
  codeRank : Nat
  posted : Bool
  isRoot : Bool
  deriving DecidableEq, Repr

/-- A multicast under way at its poster (12 R410, R411). -/
structure Mcast where
  ctx : Nat
  number : Nat
  desc : CollDesc
  stone : Nat
  pc : Nat
  signal : Option Nat
  retention : Nat
  granted : Bool
  legs : List (BitVec 64)
  handle : Nat
  socFeed : Bool
  /-- Contribution tiles in hand: (tile, bytes). -/
  tiles : List (Nat × List (BitVec 8))
  /-- (leg, chunk, answer) that have come back; answer 0 written, 1 fenced. -/
  acks : List (Nat × Nat × Nat)
  resends : List (Nat × Nat × Nat)
  deriving DecidableEq, Repr

/-- A mortar packet held before this member's own post, in the free part of the retention region (12 R399). -/
structure HeldMsg where
  msg : Nat
  m : CollMsg
  deriving DecidableEq, Repr

/-- An open prompt of a context (13 R442). -/
structure Prompt where
  first : Nat
  pos : Nat
  left : Nat
  chunk : Nat
  entry : Nat
  ride : Bool
  post : Option (Nat × Nat × Bool)
  deriving DecidableEq, Repr

/-- A formed step (13 R442, R443): its descriptor and the results to post at the yield after it. -/
structure StepRec where
  desc : BitVec 256
  /-- FIRST_POSITION of the STEP entry (15 R488), which the descriptor does not hold. -/
  firstPos : Nat
  posts : List (Nat × Nat × Bool)
  deriving DecidableEq, Repr

/-- A context slot (13 R420 to R443; 04 R160, R161). -/
structure Ctx where
  state : CtxState
  image : Option Image
  /-- Logical stone to physical stone (05 R194, R196). -/
  phys : List (Nat × Nat)
  resident : Bool
  slice : Bool
  stopping : Bool
  sliceStart : Nat
  lastSliceEnd : Nat
  swapInEnd : Nat
  runnableSince : Option Nat
  resumed : Bool
  /-- The state to report when the save ends: STOPPED contexts stay STOPPED. -/
  wasStopped : Bool
  /-- The save area (R160, R161): the bytes saved, by physical stone and offset. -/
  savedBytes : List Host.Cell
  /-- Sequencer states and sync objects of the stones that the context does not hold now: saved with the context, or set
  aside while another resident context holds the stone (13 R434, R436). -/
  savedStones : Tbl Stone
  /-- Dirty granules of pinned windows without DIRTY_TRACK that the last swap-out saved, by stone and KiB (04 R161). -/
  savedPinned : List (Nat × Nat)
  /-- Granules that no other context has written since the swap-out (13 R439). -/
  intact : List (Nat × Nat)
  saveKib : Nat
  /-- Tier-1 offset of the save area (04 R160). -/
  saveBase : Nat
  spillSlots : Nat
  /-- The placement blocks as the loader and later updates of this package wrote them, by layer and expert (03 R72). -/
  placed : List (Nat × Nat × List Replica)
  gen : Nat
  prompts : List Prompt
  steps : List StepRec
  current : Option StepRec
  /-- Results whose post waits with the yield (15 R492). -/
  yieldWaits : Bool
  deriving DecidableEq, Repr

/-- The loader at work (13 R423): the LOAD command under way. -/
structure Loading where
  slot : Nat
  cls : Nat
  lengthKib : Nat
  deriving DecidableEq, Repr

/-- A submission ring beyond its entries (15 R487 to R490). -/
structure Ring where
  head : Nat
  /-- The COMMAND entry in progress. -/
  cmd : Option RingEntry
  deriving DecidableEq, Repr

/-- A result mailbox (15 R492). -/
structure Mailbox where
  posted : Bool
  readBefore : Bool
  notify : Bool
  code : Nat
  seq : Nat
  deriving DecidableEq, Repr

/-- A post that waits for a release (15 R492), or for the context's writes to host memory before its yield (15 R491): the packets
whose serial number is below `behind`. -/
structure Post where
  ctx : Nat
  mailbox : Nat
  seq : Nat
  code : Nat
  notify : Bool
  ofYield : Bool
  behind : Nat
  deriving DecidableEq, Repr

/-- The replay memory of one source (14 R461): (SEQ, code, length, value), newest first, at most 8. -/
structure ReplaySrc where
  path : Nat
  src : Nat
  resps : List (Nat × Nat × Nat × Nat)
  deriving DecidableEq, Repr

/-- A deferred write under way (14 R470): its entry, whom to answer, and its code once its command has ended. -/
structure Deferred where
  idx : Nat
  sub : Nat
  q : Req
  result : Option Nat
  deriving DecidableEq, Repr

/-- A relayed request at the keystone (14 R466). -/
structure Relay where
  pos : Nat
  opcode : Nat
  idx : Nat
  sub : Nat
  q : Req
  deriving DecidableEq, Repr

/-- A mailbox slot of the mapped window (14 R462): whether its request is being served, and its status word. -/
structure MSlot where
  busy : Bool
  done : Bool
  seq : Nat
  deriving DecidableEq, Repr

/-- A read of host memory under way (15 R484). -/
structure HostRead where
  tag : Nat
  addr : Nat
  len : Nat
  deriving DecidableEq, Repr

/-- A completion handed to the unit whose read it answers (15 R484): tag, status, bytes. -/
structure HostComp where
  tag : Nat
  status : Nat
  bytes : List (BitVec 8)
  deriving DecidableEq, Repr

/-- A packet that waits to be sent to the host (15 R484): its place in the order of sending, the context whose stones wrote it, and
what it carries. -/
structure HostPkt where
  serial : Nat
  ctx : Option Nat
  out : Out
  deriving DecidableEq, Repr

/-- Umora Link at the flit level (15 R480 to R485). -/
structure Umora where
  /-- SEQ of the last flit accepted. -/
  rxSeq : Nat
  /-- SEQ of the next numbered flit sent. -/
  txSeq : Nat
  /-- Unacknowledged flits: (SEQ, resends). -/
  replay : List (Nat × Nat)
  /-- Posted and non-posted credits that the adapter has returned, modulo 4,096, in units of 64 bytes. -/
  creditP : Nat
  creditN : Nat
  /-- Credits used by the packets sent, likewise. -/
  usedP : Nat
  usedN : Nat
  /-- Credits returned to the adapter, likewise. -/
  gotP : Nat
  gotN : Nat
  /-- Packets that wait for the link, for credits, for a tag or for room in the replay buffer, in order; the next serial number. -/
  queue : List HostPkt
  serial : Nat
  nakOut : Bool
  held : Bool
  downFault : Bool
  reads : List HostRead
  comps : List HostComp
  deriving DecidableEq, Repr

/-- The timebase and its servo (15 R494 to R496). -/
structure Clock where
  ns : Nat
  /-- Fraction of a nanosecond, in units of 2^-32. -/
  frac : Nat
  /-- The estimated frequency error, and what removes half of the last offset for so many ticks more, each in units of 2^-32 ns per tick. -/
  freq : Int
  slew : Int
  slewLeft : Nat
  offsets : List Int
  lastBeacon : Option Nat
  deriving DecidableEq, Repr

/-- The power controller (17 R531 to R544). -/
structure Power where
  state : Nat
  entering : Option Nat
  waking : Bool
  wakePending : Bool
  sramOff : Bool
  powerDemand : Nat
  thermalDemand : Nat
  /-- Running mean of R543: the last ten measurements, newest first. -/
  samples : List Nat
  /-- Energy not yet counted in ENERGY, in units of 10^-5 mJ. -/
  energy : Nat
  /-- 10 µs readings below 95 % of the limit, at or above the thermal throttle, and below it by 3 °C, in a row. -/
  below : Nat
  hot : Nat
  cool : Nat
  trip : Nat
  pllTries : Tbl Nat
  refclkLost : Bool
  deriving DecidableEq, Repr

/-- The key store and the test port (18 R550 to R565). -/
structure Security where
  rngBad : Bool
  identityPresent : Bool
  /-- Number of tier-1 keys drawn so far: the generation of the key in use. -/
  keyGen : Nat
  keyPresent : Bool
  challenge : Nat
  fwLoading : Option Nat
  quoting : Option Nat
  unlocking : Bool
  tap : TapInstr
  deriving DecidableEq, Repr

/-- A source on the stack of an interrupt target: (priority, source) (16 R517, R521). -/
abbrev IrqStack := List (Nat × Nat)

/-- The state of the part. -/
structure State where
  /-- Commands waiting, first in first out (the block's queue). -/
  pending : List Instr
  /-- Free-value counter: the model's own field, advanced at each use of an open value. -/
  nonce : Nat
  /-- RESET_N is low (17 R546). -/
  resetLow : Bool
  /-- TRAY_ID2 to TRAY_ID0 as sampled when RESET_N rose (19 R573). -/
  trayId : Nat
  fuses : Fuses
  mode : Mode
  /-- Values of dictionary entries, by key (Machine/Ops.lean); unlisted entries hold their default (14 R457). -/
  ent : Tbl Nat
  /-- Messages that have left the part, oldest first. -/
  out : List Out
  -- memories
  /-- Tier 1, by physical offset; unlisted bytes are unspecified (Config.tier1Byte). -/
  mem : List Host.Cell
  /-- Stone SRAM: key stone * 2^18 + offset; unlisted bytes are 0 (17 R547). -/
  sram : List Host.Cell
  /-- Mailbox slot area of the mapped window, offsets 0 to 0x3FFF (14 R462). -/
  slotMem : List Host.Cell
  -- fences (01 R19, 05 R193, R197)
  fenced : List Nat
  /-- SRAM words that hold an uncorrectable error, as stone * 2^15 + word, with whether the scrubber alone has met it (05 R169,
  R171). -/
  badWords : List (Nat × Bool)
  /-- SRAM words with an uncorrectable error since the last reset (05 R170), numbered as in badWords. -/
  wordErrs : List Nat
  -- plumb and interrupts
  recC : FaultRec
  recU : FaultRec
  recF : FaultRec
  deadPairs : List (Nat × Nat)
  cAckDue : Bool
  mpFailed : List Nat
  switchDead : List Nat
  pondFaults : Tbl Nat
  lastSummary : Nat
  holds : List Nat
  irqStacks : Tbl IrqStack
  /-- Target remembered for each source in service, and the deliveries under way: (source, target). -/
  served : List (Nat × Nat)
  delivering : List (Nat × Nat)
  dictRefusal : Bool
  -- dictionary
  replay : List ReplaySrc
  mslots : Tbl MSlot
  dictQ : List Nat
  deferred : List Deferred
  relays : List Relay
  -- fabric
  ports : Tbl Port
  injQ : List (Nat × Packet)
  stalledInj : List (Nat × Packet)
  bridgeQ : List (Nat × QItem)
  delivered : List Packet
  tables : Tbl Nat
  aqs : Tbl (BitVec 128)
  /-- Packets that a unit of the package offers for injection on an aqueduct, by entry. -/
  aqQ : Tbl (List AqPacket)
  /-- Packets handed to the millrace or mortar at the end of an aqueduct, by entry. -/
  aqGot : Tbl (List AqPacket)
  /-- Token bucket of each aqueduct at this hop (R321): tenths of a byte taken and not yet refilled, and TIMEBASE then. -/
  aqBurst : Tbl (Nat × Nat)
  /-- The same of the unit that injects on the aqueduct. -/
  aqSent : Tbl (Nat × Nat)
  dropsSeen : List (Nat × Nat)
  tagDropSeen : Bool
  epochStep : Option EpochStep
  -- pond memory
  windows : Tbl (BitVec 128)
  windowFaultSeen : Bool
  /-- Address, OP and SEQ of the last request that ended with an error at each stone (11 R352). -/
  memErrors : Tbl (Nat × Nat × Nat)
  senders : Tbl Sender
  ledger : List LedgerEnt
  /-- Atomics and SIGNALs that wait for room in the ledger (11 R367), translated already: the request and its physical offset. -/
  ledgerWait : List (MemReq × Nat)
  lineQ : List LineReq
  homeReqs : List HomeReq
  hotLines : List Nat
  -- collectives
  groupLists : Tbl (List Nat)
  colls : List Coll
  collEnds : List CollEnd
  mcasts : List Mcast
  mcastNext : Nat
  heldMsgs : List HeldMsg
  /-- Legs dropped here at a fenced stone (12 R411): poster, context, number, leg. -/
  fencedLegs : List (Nat × Nat × Nat × Nat)
  backoffs : List (CollKey × Nat)
  -- jobs and contexts
  jobTag : Nat
  starts : Tbl StartState
  jobList : List Nat
  jobStep : Option JobStep
  jobMember : Option JobStep
  /-- The operation and START_ID that came over one tree, and whether its second arrival waits for the answer (13 R425). -/
  jobSeen : Option (Nat × Nat × Bool)
  /-- MEMBERS of the last prepare that was relayed to this package (13 R425). -/
  jobMembers : Nat
  keystoneSilent : Bool
  /-- The recorded keystone is new: its first accepted beacon calls for a fault summary (16 R514). -/
  newKeystone : Bool
  ctxs : Tbl Ctx
  loading : Option Loading
  rings : Tbl Ring
  mailboxes : Tbl Mailbox
  posts : List Post
  teardown : Bool
  -- router and dispatch
  routers : Tbl Router
  toks : List Tok
  confs : List Conf
  gens : List Gen
  cancels : List (Nat × Nat × Nat)
  /-- (context, generation, token) of speculative tokens that lost a choice in an earlier layer (03 R106). -/
  notIntact : List (Nat × Nat × Nat)
  bundles : List Bundle
  barriers : List Barrier
  claims : List Claim
  admitted : List Admitted
  slots : List Nat
  runs : List RunSt
  /-- Queue entries written to a replica's ring, by ringKey (03 R99). -/
  qTails : Tbl Nat
  pupdates : List PUpdate
  blocksReading : List (Nat × Nat × Nat × Nat)
  -- memory tiers
  fetchQ : List Fetch
  /-- Requests that their raising units hold for want of room in a millrace (04 R135), oldest first. -/
  fetchHeld : List Fetch
  fills : List Fill
  wins : Tbl Win
  writebacks : List (Nat × Nat)
  kvWaits : List KvWait
  -- stones
  stones : Tbl Stone
  /-- The arrays of the engines, by twice the stone, plus 1 for the sparse engine (06 R198). -/
  arrays : Tbl ArrayRegs
  dmas : List Dma
  /-- The stone that each course DMA served last (05 R181). -/
  dmaLast : Tbl Nat
  -- cisterns
  pools : Tbl Pool
  -- link, time, power, security
  umora : Umora
  clock : Clock
  power : Power
  sec : Security
  deriving DecidableEq, Repr

def FaultRec.empty : FaultRec :=
  { valid := false, overflow := false, escalated := false, time := 0, detail := 0, cause := 0, kind := 0, unit := 0,
    ctx := none, repeats := 0, fromCause := 0, fromKind := 0, fromUnit := 0 }

/-- The fused data of the part that State.reset describes: an LF part with no fences, first stepping, serial 0 and no
revocation (DESIGN CHOICE, log entry 3; statements hold for every part). -/
def Fuses.initial : Fuses :=
  { serial := 0, grade := 0, stepping := 0x10, mgmtMac := 0, factoryFenced := [], fusedSecurityVersion := 0,
    identityKey := 0, identityCert := 0, revokedFwKeys := [] }

def Umora.initial : Umora :=
  { rxSeq := 1023, txSeq := 0, replay := [], creditP := 0, creditN := 0, usedP := 0, usedN := 0, gotP := 0, gotN := 0, queue := [], serial := 0, nakOut := false, held := false,
    downFault := false, reads := [], comps := [] }

def Clock.initial : Clock := { ns := 0, frac := 0, freq := 0, slew := 0, slewLeft := 0, offsets := [], lastBeacon := none }

def Power.initial : Power :=
  { state := 0, entering := none, waking := false, wakePending := false, sramOff := false, powerDemand := 0,
    thermalDemand := 0, samples := [], energy := 0, below := 0, hot := 0, cool := 0, trip := 0, pllTries := [], refclkLost := false }

def Security.initial : Security :=
  { rngBad := false, identityPresent := true, keyGen := 0, keyPresent := false, challenge := (Config.randomDraw 0).toNat, fwLoading := none,
    quoting := none, unlocking := false, tap := .bypass }

/-- The machine right after reset with RESET_N high: Dormant and Run, every entry at its default, everything volatile
lost (13 R417, 14 R457, 17 R546). -/
def State.reset : State :=
  { pending := [], nonce := 1, resetLow := false, trayId := 0, fuses := Fuses.initial, mode := .dormant, ent := [],
    out := [], mem := [], sram := [], slotMem := [], fenced := [], badWords := [], wordErrs := [],
    recC := FaultRec.empty, recU := FaultRec.empty, recF := FaultRec.empty, deadPairs := [], cAckDue := false,
    mpFailed := [], switchDead := [], pondFaults := [], lastSummary := 0, holds := [], irqStacks := [], served := [],
    delivering := [], dictRefusal := false, replay := [], mslots := [], dictQ := [], deferred := [], relays := [],
    ports := [], injQ := [], stalledInj := [], bridgeQ := [], delivered := [], tables := [], aqs := [], aqQ := [], aqGot := [], aqBurst := [], aqSent := [],
    dropsSeen := [], tagDropSeen := false, epochStep := none, windows := [], windowFaultSeen := false, memErrors := [], senders := [],
    ledger := [], ledgerWait := [], lineQ := [], homeReqs := [], hotLines := [], groupLists := [], colls := [],
    collEnds := [], mcasts := [], mcastNext := 0, heldMsgs := [], fencedLegs := [], backoffs := [], jobTag := 0, starts := [],
    jobList := [], jobStep := none, jobMember := none, jobSeen := none, jobMembers := 0, keystoneSilent := false, newKeystone := false, ctxs := [], loading := none, rings := [],
    mailboxes := [], posts := [], teardown := false, routers := [], toks := [], confs := [], gens := [], cancels := [],
    notIntact := [], bundles := [], barriers := [], claims := [], admitted := [], slots := [], runs := [], qTails := [],
    pupdates := [], blocksReading := [], fetchQ := [], fetchHeld := [], fills := [], wins := [], writebacks := [], kvWaits := [],
    stones := [], arrays := [], dmas := [], dmaLast := [], pools := [], umora := Umora.initial, clock := Clock.initial, power := Power.initial,
    sec := Security.initial }

end Sys2Proof.Machine
end

