-- ==== Sys2Proof/Machine/Ops.lean ====
section
/-! DEFINITION. The shared operations over the state: dictionary values and counters, outputs, memories, stones, contexts,
fences, windows and buffers. -/

namespace Sys2Proof.Machine

/-- The outcome type of every command. -/
abbrev Res := Host.Outcome State Fault Refusal

/-- Every unit is held in reset while RESET_N is low (17 R546): no command has an effect then. -/
def run (s : State) (f : State → State) : Res := .next (if s.resetLow then s else f s)

/-! ### Lists used as sets and queues -/

/-- The list with the elements that satisfy `p` changed by `f`. -/
def mapWhere {α : Type} (l : List α) (p : α → Bool) (f : α → α) : List α := l.map (fun a => if p a then f a else a)

/-- A state changed once for each element of a list. -/
def forEach {α : Type} (s : State) (l : List α) (f : State → α → State) : State := l.foldl f s

/-- The least element of a non-empty list by a key, the first among equals. -/
def minBy {α : Type} (key : α → Nat) : List α → Option α
  | [] => none
  | a :: t =>
    match minBy key t with
    | none => some a
    | some b => if key b < key a then some b else some a

/-- A list sorted by a key; equal keys keep their order. -/
def sortBy {α : Type} (key : α → Nat) (l : List α) : List α :=
  l.foldr (fun a acc => (acc.takeWhile (fun b => decide (key b < key a))) ++ a :: acc.dropWhile (fun b => decide (key b < key a))) []

/-! ### Dictionary values and counters -/

/-- The key of an entry value: the context that a VIEW entry acts on (0 for the others), the index and the sub-index. -/
def ekey (ctx idx sub : Nat) : Nat := ctx * 2 ^ 24 + idx * 256 + sub

/-- What an unlisted key reads as: the default of its entry (14 R457). -/
def entDefault (k : Nat) : Nat :=
  match findEntry (k / 256 % 65536) (k % 256) with
  | some e => e.dflt
  | none => 0

def getC (s : State) (ctx idx sub : Nat) : Nat := tget (entDefault (ekey ctx idx sub)) s.ent (ekey ctx idx sub)

def setC (s : State) (ctx idx sub v : Nat) : State :=
  { s with ent := tput (entDefault (ekey ctx idx sub)) s.ent (ekey ctx idx sub) v }

def getE (s : State) (idx sub : Nat) : Nat := getC s 0 idx sub

def setE (s : State) (idx sub v : Nat) : State := setC s 0 idx sub v

/-- A counter of 64 bits moves on by `n` and wraps (14 R457). -/
def countBy (s : State) (idx sub n : Nat) : State := setE s idx sub ((getE s idx sub + n) % 2 ^ 64)

def count (s : State) (idx sub : Nat) : State := countBy s idx sub 1

/-! ### Outputs and free values -/

/-- Umora Link is up (15 R499). -/
def linkUp (s : State) : Bool := decide (2 ≤ getE s 0xB010 0x01)

/-- The packets of at most 4,096 bytes as which a message of the part goes over Umora Link (15 R484); none where it goes another
way. -/
def hostPackets : Out → List Out
  | .hostWrite a bs => (List.range (max 1 (cdiv bs.length 4096))).map (fun i => .hostWrite (a + 4096 * i) ((bs.drop (4096 * i)).take 4096))
  | .hostRead a n t => (List.range (max 1 (cdiv n 4096))).map (fun i => .hostRead (a + 4096 * i) (min 4096 (n - 4096 * i)) t)
  | .hostMessage n p => [.hostMessage n p]
  | .response path src seq code n v r => if path = 2 then [.response path src seq code n v r] else []
  | _ => []

/-- Classes of packets (15 R484): posted, non-posted, completions. -/
def pktClass : Out → Nat
  | .hostRead _ _ _ => 1
  | .response _ _ _ _ _ _ _ => 2
  | _ => 0

/-- Bytes of a packet, its header and its payload. -/
def pktBytes : Out → Nat
  | .hostWrite _ bs => 16 + bs.length
  | .response _ _ _ _ n _ _ => 16 + n
  | _ => 16

/-- Flits of 240 bytes that a packet takes, each packet in flits of its own (15 R479; DESIGN CHOICE, log entry 64). -/
def flitsOf (o : Out) : Nat := cdiv (pktBytes o) 240

/-- Credits of a packet, in units of 64 bytes (15 R484). -/
def unitsOf (o : Out) : Nat := cdiv (pktBytes o) 64

/-- Numbered flits enter the replay buffer of the link (15 R481). -/
def addFlits : Nat → Umora → Umora
  | 0, u => u
  | n + 1, u => addFlits n { u with txSeq := (u.txSeq + 1) % 1024, replay := u.replay ++ [(u.txSeq, 0)] }

/-- The least tag that no read uses (15 R484). -/
def freeTag (u : Umora) : Option Nat := (List.range 1024).find? (fun t => !(u.reads.any (fun r => r.tag == t)))

/-- Credits of a sender: those that the other side gave at first, less those used and not returned (15 R480, R484). -/
def creditsLeft (first used back : Nat) : Nat := first - (used + 4096 - back) % 4096

/-- A packet may be sent (15 R481, R484): at most 511 flits unacknowledged, credits of its class, a tag for a read. The adapter holds 64
KiB of posted and 16 KiB of non-posted buffer (DESIGN CHOICE, log entry 141). -/
def canSend (u : Umora) (o : Out) : Bool :=
  decide (u.replay.length + flitsOf o ≤ 511) &&
    (if pktClass o = 0 then decide (unitsOf o ≤ creditsLeft 1024 u.usedP u.creditP)
     else if pktClass o = 1 then decide (unitsOf o ≤ creditsLeft 256 u.usedN u.creditN) && (freeTag u).isSome
     else true)

/-- A packet is sent: its credits are used, a read gets its tag, its flits are numbered. -/
def sendPacket (u : Umora) (o : Out) : Umora × Out :=
  let u := addFlits (flitsOf o) u
  match o with
  | .hostRead a n _ =>
    let t := (freeTag u).getD 0
    ({ u with usedN := (u.usedN + unitsOf o) % 4096, reads := u.reads ++ [{ tag := t, addr := a, len := n }] }, .hostRead a n t)
  | o => (if pktClass o = 0 then { u with usedP := (u.usedP + unitsOf o) % 4096 } else u, o)

/-- Packets leave in order as far as they may (15 R485): a posted one that waits holds up every later packet, any other only those of
its own class. `held` are the classes of the packets that stay behind; they form the queue. -/
def drain : List HostPkt → List Nat → Umora → Umora × List Out
  | [], _, u => (u, [])
  | p :: t, held, u =>
    if held.contains 0 || held.contains (pktClass p.out) || !canSend u p.out then
      let r := drain t (pktClass p.out :: held) u
      ({ r.1 with queue := p :: r.1.queue }, r.2)
    else
      let a := sendPacket u p.out
      let r := drain t held a.1
      (r.1, a.2 :: r.2)

/-- What the queue of the link can send now is sent. -/
def sendQueue (u : Umora) : Umora × List Out := drain u.queue [] { u with queue := [] }

/-- Packets join the queue in order. -/
def enqueue (ctx : Option Nat) : List Out → Umora → Umora
  | [], u => u
  | o :: t, u => enqueue ctx t { u with queue := u.queue ++ [{ serial := u.serial, ctx := ctx, out := o }], serial := u.serial + 1 }

/-- A message goes over Umora Link as its packets, at once where the link and its credits allow it, or another way. -/
def sendHost (up : Bool) (ctx : Option Nat) (o : Out) (u : Umora) : Umora × List Out :=
  match hostPackets o with
  | [] => (u, [o])
  | ps => if up then sendQueue (enqueue ctx ps u) else (enqueue ctx ps u, [])

/-- A message leaves the part; `ctx` is the context whose stones send it. -/
def emitFor (s : State) (ctx : Option Nat) (o : Out) : State :=
  let r := sendHost (linkUp s) ctx o s.umora
  { s with out := s.out ++ r.2, umora := r.1 }

def emit (s : State) (o : Out) : State := emitFor s none o

/-- A packet of the adapter has been taken in, which frees its place: its credits go back (15 R480, R484). -/
def hostTaken (s : State) (posted : Bool) : State :=
  let u := s.umora
  { s with umora := if posted then { u with gotP := (u.gotP + 1) % 4096 } else { u with gotN := (u.gotN + 1) % 4096 } }

/-- A read of host memory is issued, in packets of at most 4,096 bytes that get their tags as they are sent (15 R484). -/
def readHost (s : State) (addr len : Nat) : State := emit s (.hostRead addr len 0)

/-- The free-value counter moves on, so that the next open value is a fresh one. -/
def fresh (s : State) : State := { s with nonce := s.nonce + 1 }

/-- The next value that the manual leaves undefined. -/
def openValue (s : State) : Nat := Config.undefinedValue s.nonce

/-- `n` bytes that lie outside the part, at address `a`. -/
def outsideBytes (s : State) (a n : Nat) : List Byte := (List.range n).map (fun i => Config.outsideByte s.nonce (a + i))

/-! ### Identity, state and time -/

/-- Device state code of 13 R416. -/
def Mode.code : Mode → Nat
  | .dormant => 0 | .verified => 1 | .configured => 2 | .ready => 3
  | .running => 4 | .draining => 5 | .clean => 6 | .faulted => 7

/-- The package id (01 R14), without ASSIGNED. -/
def pkgId (s : State) : Nat := getE s 0x1020 0x01 % 2 ^ 14

/-- The package's own grid position (01 R17). -/
def gridPos (s : State) : Nat := pkgId s % 64

def pondOf (s : State) : Nat := pkgId s / 64

/-- The package is its pond's keystone (01 R28). -/
def isKeystone (s : State) : Bool := decide (getE s 0x2010 0x01 = gridPos s)

/-- TIMEBASE in ns (15 R494). -/
def now (s : State) : Nat := s.clock.ns

/-- The job tag that the package holds (13 R418). -/
def jobTagHeld (s : State) : Nat := s.jobTag

/-! ### Tier 1 (04 R121, 17 R547, 18 R557) -/

/-- A byte of tier 1 at a physical offset: what was last written under the present key, or unspecified data. -/
def memByte (s : State) (a : Nat) : Byte :=
  match tlook s.mem a with
  | some b => b
  | none => Config.tier1Byte s.sec.keyGen a

def memRead (s : State) (a n : Nat) : List Byte := (List.range n).map (fun i => memByte s (a + i))

def memPut (m : List Host.Cell) (a : Nat) : List Byte → List Host.Cell
  | [] => m
  | b :: t => memPut (tins m a b) (a + 1) t

/-- Bytes written to tier 1 from a physical offset on; nothing lies past its 2^39 bytes. -/
def memWrite (s : State) (a : Nat) (bs : List Byte) : State :=
  if a + bs.length ≤ 2 ^ 39 then { s with mem := memPut s.mem a bs } else s

/-! ### Stone SRAM (05 R165 to R171) -/

/-- Key of an SRAM byte: stone and offset. -/
def sramKey (st off : Nat) : Nat := st * 2 ^ 18 + off

def sramByte (s : State) (st off : Nat) : Byte := tget 0 s.sram (sramKey st off)

def sramRead (s : State) (st off n : Nat) : List Byte := (List.range n).map (fun i => sramByte s st (off + i))

def sramPut (m : List Host.Cell) (a : Nat) : List Byte → List Host.Cell
  | [] => m
  | b :: t => sramPut (tput 0 m a b) (a + 1) t

/-- The value of `n` little-endian bytes of SRAM. -/
def sramNat (s : State) (st off n : Nat) : Nat := fromLE (sramRead s st off n)

/-! ### Stones, contexts and the other units, at their reset values -/

/-- A stone at reset: no owner, registers and sync objects zero (17 R547; the register values are DESIGN CHOICE, log entry 2). -/
def Stone.initial : Stone :=
  { owner := none, run := .off, pc := 0, lc := [], areg := [], vl := 0, sync := [], scalars := [], cfg := [], mark := none,
    np := none, yields := 0, waitSig := none, stall := none, memFence := false, inflight := [], dense := [], sparse := [], vruns := [], eruns := [],
    injDense := 0, injSparse := 0, dirty := [] }

def Ctx.initial : Ctx :=
  { state := .empty, image := none, phys := [], resident := false, slice := false, stopping := false, sliceStart := 0,
    lastSliceEnd := 0, swapInEnd := 0, runnableSince := none, resumed := false, wasStopped := false, savedBytes := [],
    savedStones := [], savedPinned := [], intact := [], saveKib := 0, saveBase := 0, spillSlots := 0, placed := [], gen := 0, prompts := [], steps := [], current := none,
    yieldWaits := false }

def Port.initial : Port :=
  { state := .down, peer := none, roundTrip := 0, retraining := false, helloOk := false, split := [],
    fails := [], keyPhase := false, txKey := 0, frameCtr := 0, rxPhase := false, rxKey := 0, rxNext := none, rekeying := false,
    mgmtDue := false, blocks := 0, txSeq := 0, rxSeq := 0, replay := [], used := [], returned := [], freed := [], offIn := 0, offOut := 0, rx := [],
    outQ := [], deficit := [], rrNext := 0 }

def Pool.initial : Pool :=
  { sizeCode := 0xFF, owners := 0, firstStone := 0, stones := 1, sramKib := 0, kibPerStone := 0, reserves := [], used := [],
    counts := [], holders := [], outCtx := [], head := 0xFFFFFFFF, retired := [], level := 0, rebuilding := false, relQueue := [],
    waiting := [] }

def Router.initial : Router := { fenced := false, shares := [], streaming := [], gathers := [], streams := 0, badOnce := [], cache := [] }

def Ring.initial : Ring := { head := 0, cmd := none }

def Mailbox.initial : Mailbox := { posted := false, readBefore := false, notify := false, code := 0, seq := 0 }

def Sender.initial : Sender := { nextSeq := 0, reqs := [], waitQ := [], expired := [] }

def Win.initial : Win := { present := false, held := false, bad := false }

def MSlot.initial : MSlot := { busy := false, done := false, seq := 0 }

def ArrayRegs.initial : ArrayRegs := { sums := [], checkRow := [], checkCol := [], convs := [], accs := [] }

def stoneOf (s : State) (st : Nat) : Stone := tget Stone.initial s.stones st

def setStone (s : State) (st : Nat) (x : Stone) : State := { s with stones := tput Stone.initial s.stones st x }

def modStone (s : State) (st : Nat) (f : Stone → Stone) : State := setStone s st (f (stoneOf s st))

def ctxOf (s : State) (c : Nat) : Ctx := tget Ctx.initial s.ctxs c

def setCtx (s : State) (c : Nat) (x : Ctx) : State := { s with ctxs := tput Ctx.initial s.ctxs c x }

def modCtx (s : State) (c : Nat) (f : Ctx → Ctx) : State := setCtx s c (f (ctxOf s c))

def portOf (s : State) (p : Nat) : Port := tget Port.initial s.ports p

def setPort (s : State) (p : Nat) (x : Port) : State := { s with ports := tput Port.initial s.ports p x }

def modPort (s : State) (p : Nat) (f : Port → Port) : State := setPort s p (f (portOf s p))

def poolOf (s : State) (p : Nat) : Pool := tget Pool.initial s.pools p

def setPool (s : State) (p : Nat) (x : Pool) : State := { s with pools := tput Pool.initial s.pools p x }

def routerOf (s : State) (b : Nat) : Router := tget Router.initial s.routers b

def setRouter (s : State) (b : Nat) (x : Router) : State := { s with routers := tput Router.initial s.routers b x }

def ringOf (s : State) (c : Nat) : Ring := tget Ring.initial s.rings c

def setRing (s : State) (c : Nat) (x : Ring) : State := { s with rings := tput Ring.initial s.rings c x }

/-- Key of a result mailbox: its context slot and number (15 R491). -/
def mbKey (c m : Nat) : Nat := c * 128 + m

def mailboxOf (s : State) (k : Nat) : Mailbox := tget Mailbox.initial s.mailboxes k

def setMailbox (s : State) (k : Nat) (x : Mailbox) : State :=
  { s with mailboxes := tput Mailbox.initial s.mailboxes k x }

def senderOf (s : State) (k : Nat) : Sender := tget Sender.initial s.senders k

def setSender (s : State) (k : Nat) (x : Sender) : State := { s with senders := tput Sender.initial s.senders k x }

/-- Key of a tier-0 window: its context slot and object number (04 R125, R136). -/
def winKey (c obj : Nat) : Nat := c * 65536 + obj

def winOf (s : State) (k : Nat) : Win := tget Win.initial s.wins k

def setWin (s : State) (k : Nat) (x : Win) : State := { s with wins := tput Win.initial s.wins k x }

def slotOf (s : State) (n : Nat) : MSlot := tget MSlot.initial s.mslots n

def setSlot (s : State) (n : Nat) (x : MSlot) : State := { s with mslots := tput MSlot.initial s.mslots n x }

/-! ### Fences (01 R19, 05 R193, R197) -/

/-- A stone is fenced, at the factory or in service. -/
def isFenced (s : State) (st : Nat) : Bool := s.fenced.contains st || s.fuses.factoryFenced.contains st

/-- Wythe of a stone (01 R11): bit 11. Bay: bits 11 to 8. Course: bits 11 to 6. -/
def wytheOf (st : Nat) : Nat := st / 2048
def bayOf (st : Nat) : Nat := st / 256
def courseOf (st : Nat) : Nat := st / 64

/-- FENCES of a course as a 64-bit map (05 R197). -/
def fenceWord (fs : List Nat) (course : Nat) : Nat :=
  fs.foldl (fun a st => if courseOf st = course then setBit a (st % 64) else a) 0

/-- Stones not fenced (05 R197). -/
def workingStones (s : State) : Nat := 4096 - (s.fenced ++ s.fuses.factoryFenced).dedup.length

/-! ### SRAM writes, with the dirty bits of 04 R148 -/

/-- Granules of 1 KiB that a range touches. -/
def granulesOf (off n : Nat) : List Nat :=
  if n = 0 then [] else (List.range ((off + n - 1) / 1024 + 1 - off / 1024)).map (fun i => off / 1024 + i)

/-- Word number of an SRAM offset, over all stones. -/
def wordOf (st off : Nat) : Nat := st * 2 ^ 15 + off / 8

/-- A word holds an uncorrectable error. -/
def isBad (s : State) (w : Nat) : Bool := s.badWords.any (fun b => b.1 == w)

/-- Bytes at the two ends of a write that share a word with bytes it leaves: how many of them do not land, for their word's read
is uncorrectable and a read-modify-write then does not perform its write (05 R168, R169). -/
def lostHead (s : State) (st off : Nat) : Nat := if off % 8 ≠ 0 ∧ isBad s (wordOf st off) then 8 - off % 8 else 0

def lostTail (s : State) (st off n : Nat) : Nat := if (off + n) % 8 ≠ 0 ∧ isBad s (wordOf st (off + n)) then (off + n) % 8 else 0

/-- Bytes reach a stone's SRAM; a word written whole loses its error. -/
def sramStore (s : State) (st off : Nat) (bs : List Byte) : State :=
  let a := lostHead s st off
  { s with
    sram := sramPut s.sram (sramKey st (off + a)) ((bs.take (bs.length - lostTail s st off bs.length)).drop a),
    badWords := s.badWords.filter (fun b => !(decide (st * 2 ^ 15 + cdiv off 8 ≤ b.1) &&
      decide (b.1 < st * 2 ^ 15 + (off + bs.length) / 8))) }

/-- A write to a stone's SRAM by one of the stone's units, a DMA or a delivery: its granules become dirty. -/
def sramWrite (s : State) (st off : Nat) (bs : List Byte) : State :=
  let x := stoneOf s st
  setStone (sramStore s st off bs) st { x with dirty := (x.dirty ++ granulesOf off bs.length).dedup }

/-- A fill of a window writes SRAM and leaves its granules clean (04 R148). -/
def sramFill (s : State) (st off : Nat) (bs : List Byte) : State :=
  let x := stoneOf s st
  setStone (sramStore s st off bs) st { x with dirty := x.dirty.filter (fun g => !(granulesOf off bs.length).contains g) }

/-! ### Sequencer registers (05 R165) -/

def aregOf (x : Stone) (r : Nat) : BitVec 32 := tget 0 x.areg r

def setAreg (x : Stone) (r : Nat) (v : BitVec 32) : Stone := { x with areg := tput 0 x.areg r v }

def lcOf (x : Stone) (l : Nat) : BitVec 24 := tget 0 x.lc l

def setLc (x : Stone) (l : Nat) (v : BitVec 24) : Stone := { x with lc := tput 0 x.lc l v }

def syncOf (x : Stone) (j : Nat) : SyncObj := tget { err := false, val := 0 } x.sync j

def setSync (x : Stone) (j : Nat) (o : SyncObj) : Stone := { x with sync := tput { err := false, val := 0 } x.sync j o }

/-- A WAIT ends when the signed value VALUE − target is at least 0 (05 R185). -/
def waitMet (v target : BitVec 32) : Bool := decide (0 ≤ (v - target).toInt)

/-- A stone whose WAIT is met goes on behind it, and the WAIT's own SIGNAL_EN is applied. -/
def releaseWait (x : Stone) (j : Nat) : Stone :=
  match x.run with
  | .waiting obj target _ =>
    if obj = j ∧ (syncOf x j).err = false ∧ waitMet (syncOf x j).val target then
      let y := { x with run := .running, pc := x.pc + 1, waitSig := none }
      match x.waitSig with
      | some i => setSync y i { syncOf y i with val := (syncOf y i).val + 1 }
      | none => y
    else x
  | _ => x

/-- An update of a sync object (05 R185, R188). -/
def updateSync (x : Stone) (j : Nat) (f : BitVec 32 → BitVec 32) : Stone :=
  releaseWait (setSync x j { syncOf x j with val := f (syncOf x j).val }) j

/-- Adds to a sync object of a stone of this package. -/
def addSync (s : State) (st j n : Nat) : State := modStone s st (fun x => updateSync x j (· + BitVec.ofNat 32 n))

/-- Completion of an instruction with SIGNAL_EN (05 R172). -/
def signalDone (s : State) (st : Nat) (sig : Option Nat) : State :=
  match sig with
  | some j => addSync s st j 1
  | none => s

/-! ### Contexts and stones -/

/-- The context's physical stones. -/
def ctxStones (s : State) (c : Nat) : List Nat := (ctxOf s c).phys.map (·.2)

/-- The physical stone of a logical stone (05 R194). -/
def physOf (s : State) (c lst : Nat) : Nat :=
  match (ctxOf s c).phys.find? (fun p => p.1 == lst) with
  | some p => p.2
  | none => lst

/-- The logical stone of a physical stone of the context. -/
def logicalOf (s : State) (c st : Nat) : Nat :=
  match (ctxOf s c).phys.find? (fun p => p.2 == st) with
  | some p => p.1
  | none => st

/-- The context's lead stone (13 R443). -/
def leadStone (s : State) (c : Nat) : Option Nat := (ctxOf s c).image.map (fun i => physOf s c i.leadStone)

/-- The stones of all the context's logical stones whose image marks them expert or general (05 R195). -/
def isExpertStone (s : State) (c st : Nat) : Bool :=
  match (ctxOf s c).image with
  | some i => i.stones.any (fun t => decide (physOf s c t.stone = st) && t.expert)
  | none => false

/-- A context is loaded in slots whose state is neither EMPTY, LOADING nor UNLOADING (13 R420). -/
def isLoaded (x : Ctx) : Bool :=
  match x.state with
  | .empty | .loading | .unloading => false
  | _ => true

def loadedCtxs (s : State) : List Nat := (s.ctxs.filter (fun p => isLoaded p.2)).map (·.1)

def residentCtxs (s : State) : List Nat := (s.ctxs.filter (fun p => p.2.resident)).map (·.1)

/-- A stone that cannot issue for a cause of 13 R421. -/
def stoneBlocked (x : Stone) : Bool :=
  match x.run with
  | .halted | .yielding | .waiting _ _ _ => true
  | _ => decide (x.stall = some .kvPool) || decide (x.stall = some .generation)

/-- The state of a stone for a context: the stone's own where the context holds it, else the one set aside or saved. -/
def stoneFor (s : State) (c st : Nat) : Stone :=
  if (stoneOf s st).owner = some c then stoneOf s st else tget Stone.initial (ctxOf s c).savedStones st

def setStoneFor (s : State) (c st : Nat) (x : Stone) : State :=
  if (stoneOf s st).owner = some c then setStone s st x
  else modCtx s c (fun y => { y with savedStones := tput Stone.initial y.savedStones st x })

def modStoneFor (s : State) (c st : Nat) (f : Stone → Stone) : State := setStoneFor s c st (f (stoneFor s c st))

/-- None of the context's stones can issue (13 R421). -/
def allBlocked (s : State) (c : Nat) : Bool := (ctxStones s c).all (fun st => isFenced s st || stoneBlocked (stoneFor s c st))

/-- A slice ends (13 R436): the context holds its stones no longer, and they are stopping until the last has stopped. -/
def endSlice (s : State) (c : Nat) : State :=
  modCtx s c (fun x => { x with
    slice := false, stopping := x.stopping || x.slice, lastSliceEnd := if x.slice then now s else x.lastSliceEnd })

/-- The products in flight on a stone outside a region are discarded, to be issued again (06 R225, 13 R436). -/
def markAgain (x : Stone) : Stone :=
  if x.np.isSome then x
  else { x with dense := x.dense.map (fun t => { t with again := true }), sparse := x.sparse.map (fun t => { t with again := true }) }

def discardProducts (s : State) (c : Nat) : State := forEach s (ctxStones s c) (fun t st => modStoneFor t c st markAgain)

/-- CLASS of a slot: best-effort (13 R450). -/
def bestEffort (s : State) (c : Nat) : Bool := decide (getE s (0x5100 + c) 0x02 = 1)

/-- Two contexts share a stone. -/
def shareStone (s : State) (a b : Nat) : Bool := (ctxStones s a).any (fun st => (ctxStones s b).contains st)

/-- A slice ends before its context has blocked: the context is READY again (13 R436, 06 R225). -/
def cutSlice (s : State) (c : Nat) : State := modCtx (discardProducts (endSlice s c) c) c (fun x => { x with state := .ready })

/-- A latency-critical context that has become READY pre-empts the best-effort slices that hold its stones (13 R436). -/
def preemptFor (s : State) (c : Nat) : State :=
  if bestEffort s c then s
  else forEach s ((s.ctxs.filter (fun p => p.2.slice && p.1 != c && bestEffort s p.1 && shareStone s p.1 c)).map (·.1))
    (fun t k => count (cutSlice t k) 0xA090 0x05)

/-- The context enters READY. -/
def makeReady (s : State) (c : Nat) : State := preemptFor (modCtx s c (fun x => { x with state := .ready })) c

/-- A saved WAIT is satisfied by its saved sync object (05 R189, 13 R438). -/
def savedWaitMet (x : Stone) : Bool :=
  match x.run with
  | .waiting obj target _ => !(syncOf x obj).err && waitMet (syncOf x obj).val target
  | _ => false

/-- A SWAPPED context is runnable (13 R438). -/
def runnable (s : State) (c : Nat) : Bool :=
  let x := ctxOf s c
  decide (x.state = .swapped) &&
    ((decide (getE s (0xB100 + c) 0x03 = 1) && decide ((ringOf s c).head ≠ getE s (0xB100 + c) 0x07)) ||
      x.savedStones.any (fun p => savedWaitMet p.2) || x.resumed)

/-- The moment since which the context is runnable is kept (13 R439). -/
def noteRunnable (s : State) (c : Nat) : State :=
  if runnable s c ∧ (ctxOf s c).runnableSince.isNone then modCtx s c (fun x => { x with runnableSince := some (now s) }) else s

/-- RUNNING with every stone blocked becomes BLOCKED; BLOCKED with a stone that can issue becomes READY (13 R420). The
products of a context that blocks go on (DEDUCED, log entry 60). -/
def settle (s : State) (c : Nat) : State :=
  let x := ctxOf s c
  match x.state with
  | .running =>
    if allBlocked s c then
      setC (modCtx (endSlice s c) c (fun y => { y with state := .blocked, stopping := false })) 0 (0x5100 + c) 0x08 (now s)
    else s
  | .blocked => if allBlocked s c then s else makeReady s c
  | _ => s

/-- Settles the context that owns a stone. -/
def settleStone (s : State) (st : Nat) : State :=
  match (stoneOf s st).owner with
  | some c => settle s c
  | none => s

/-- Every stone of the context stops at its next instruction boundary and the context enters STOPPED (13 R422). -/
def stopCtx (s : State) (c : Nat) : State :=
  match (ctxOf s c).state with
  | .ready | .running | .blocked | .swappingIn | .swappingOut =>
    setC (modCtx (endSlice s c) c (fun x => { x with
      state := (match x.state with | .swappingOut => .swappingOut | .swappingIn => .swappingIn | _ => .stopped),
      wasStopped := true })) 0 (0x5100 + c) 0x08 (now s)
  | _ => s

/-- The stone at which the context stops does so at once, at its instruction (13 R422). -/
def stopAt (s : State) (c st : Nat) : State :=
  stopCtx (modStone s st (fun x => { x with run := .stopped, np := none })) c

/-! ### Pond addresses and the job window table (11 R340 to R345) -/

def pondPos (a : Nat) : Nat := bits 44 39 a
def pondOffset (a : Nat) : Nat := a % 2 ^ 39
/-- Reserved bits of a pond address are zero. -/
def pondAddrOk (a : Nat) : Bool := decide (a / 2 ^ 45 = 0)

/-- An address of another package's tier 1. -/
def isFar (s : State) (a : Nat) : Bool := pondAddrOk a && pondPos a != gridPos s

def windowOf (s : State) (i : Nat) : BitVec 128 := tget 0 s.windows i

/-- Fields of a window entry (11 R343). -/
def winBase (w : BitVec 128) : Nat := bits 127 109 w.toNat
def winSize (w : BitVec 128) : Nat := bits 108 90 w.toNat + 1
def winPhys (w : BitVec 128) : Nat := bits 89 71 w.toNat
def winTag (w : BitVec 128) : Nat := bits 70 55 w.toNat
def winRead (w : BitVec 128) : Bool := bit 54 w.toNat
def winWrite (w : BitVec 128) : Bool := bit 53 w.toNat
def winAtomic (w : BitVec 128) : Bool := bit 52 w.toNat
def winValid (w : BitVec 128) : Bool := bit 51 w.toNat

/-- The entry that matches a request of `n` bytes at an offset under a job tag (11 R344). -/
def windowMatch (s : State) (tag off n : Nat) : Option (BitVec 128) :=
  (s.windows.map (·.2)).find? (fun w => winValid w && decide (winTag w = tag) && decide (winBase w * 2 ^ 20 ≤ off) &&
    decide (off + n ≤ (winBase w + winSize w) * 2 ^ 20))

/-- The physical offset of a request, if its window grants `right` (11 R344, R345). -/
def translate (s : State) (tag off n : Nat) (right : BitVec 128 → Bool) : Option Nat :=
  match windowMatch s tag off n with
  | some w => if right w then some (off - winBase w * 2 ^ 20 + winPhys w * 2 ^ 20) else none
  | none => none

/-- A read by a unit of the part of `n` bytes at a pond address: from its own tier 1 through its window table, or from
another package, whose bytes no command carries (free values). None where the home answers with an error status. -/
def pondRead (s : State) (a n : Nat) : Option (List Byte) :=
  if !pondAddrOk a then none
  else if pondPos a = gridPos s then (translate s s.jobTag (pondOffset a) n winRead).map (fun p => memRead s p n)
  else some (outsideBytes s a n)

/-- A write by a unit of the part at a pond address; a write to another package leaves this part's memory as it is. -/
def pondWrite (s : State) (a : Nat) (bs : List Byte) : Option State :=
  if !pondAddrOk a then none
  else if pondPos a = gridPos s then
    (translate s s.jobTag (pondOffset a) bs.length winWrite).map (fun p => memWrite s p bs)
  else some s

/-- Channel of a physical tier-1 offset (04 R124), and the wythe of its stack (04 R123). -/
def channelOf (off : Nat) : Nat :=
  let g := off / 256
  (g ^^^ (g >>> 7) ^^^ (g >>> 14) ^^^ (g >>> 21) ^^^ (g >>> 28)) % 128

def channelAddr (off : Nat) : Nat := off / 256 / 128 * 256 + off % 256

def channelWythe (off : Nat) : Nat := channelOf off / 64

/-! ### Tier-1 regions (04 R122) -/

/-- (start, length) of the spill, the retention region and the save pool. -/
def spillBase : Nat := 0x7FDE000000
def retainBase (s : State) : Nat := spillBase - getE s 0x7000 0x01 * 2 ^ 20
def spillRegion : Nat × Nat := (spillBase, 544 * 2 ^ 20)
def retainRegion (s : State) : Nat × Nat := (retainBase s, getE s 0x7000 0x01 * 2 ^ 20)
def saveRegion (s : State) : Nat × Nat := (getE s 0x4030 0x01, getE s 0x4030 0x02 * 2 ^ 20)
def lakeRegion (s : State) : Nat × Nat := (getE s 0x4062 0x01 * 2 ^ 20, getE s 0x4062 0x02 * 2 ^ 20)
def hotRegion (s : State) : Nat × Nat := (getE s 0xA028 0x01, if getE s 0xA028 0x01 = 0 then 0 else 4096)
def logRegion (s : State) : Nat × Nat := (getE s 0x8060 0x01, if getE s 0x8060 0x01 = 0 then 0 else 32768)
def windowRegions (s : State) : List (Nat × Nat) :=
  ((s.windows.map (·.2)).filter winValid).map (fun w => (winPhys w * 2 ^ 20, winSize w * 2 ^ 20))

/-- Two ranges of bytes share a byte. -/
def overlap (a b : Nat × Nat) : Bool :=
  decide (0 < a.2) && decide (0 < b.2) && decide (a.1 < b.1 + b.2) && decide (b.1 < a.1 + a.2)

def overlapsAny (a : Nat × Nat) (l : List (Nat × Nat)) : Bool := l.any (overlap a)

/-- The three regions that the part places itself. -/
def fixedRegions (s : State) : List (Nat × Nat) := [spillRegion, retainRegion s, saveRegion s]

/-- The four structures that the driver places. -/
def ownRegions (s : State) : List (Nat × Nat) := lakeRegion s :: hotRegion s :: logRegion s :: windowRegions s

/-- The spill, the save pool and the retention region can all be placed without overlap (13 R418). -/
def regionsPlaceable (s : State) : Bool :=
  let sv := saveRegion s
  decide (sv.1 + sv.2 ≤ 2 ^ 39) && !overlap sv spillRegion && !overlap sv (retainRegion s)

/-! ### Packets to the fabric (10 R306, R330; 13 R419, R430) -/

/-- A packet of this package with the fields that the injector sets itself. -/
def mkPacket (s : State) (dest cls target stone : Nat) (field : Nat) (payload : List Byte) : Packet :=
  { dest := dest, src := pkgId s, jobTag := if cls = 0 ∨ cls = 7 then 0 else s.jobTag, cls := cls, phase := 0, epoch := getE s 0x2050 0x03 % 4,
    target := target, targetStone := stone, length := payload.length, hops := 0, classField := BitVec.ofNat 128 field,
    payload := payload }

/-- A packet is injected at a wythe. Classes 1 to 6 are not injected while the part is Faulted or Draining (13 R419, R430);
while no epoch is selected, injectors of classes 1 to 7 wait (10 R323); EPOCH_IN counts what injection accepts (10 R330,
R331). -/
def inject (s : State) (w : Nat) (p : Packet) : State :=
  if 1 ≤ p.cls ∧ p.cls ≤ 6 ∧ (s.mode = .faulted ∨ s.mode = .draining) then s
  else if p.cls ≠ 0 ∧ getE s 0x2050 0x03 = 0xFF then { s with stalledInj := s.stalledInj ++ [(w, p)] }
  else { count s 0x2052 (p.epoch + 1) with injQ := s.injQ ++ [(w, p)] }

/-- A class 0 message to a grid position of the pond: what it says leaves as `o`, and the packet that carries it is injected, at
wythe A unless the message's own rule says otherwise, for the management processors there (10 R307, R323). The manual gives no byte form of these messages, so the packet's payload
stands empty (DESIGN CHOICE, log entry 118). -/
def carryMgmt (s : State) (w pos : Nat) : State := inject s w (mkPacket s (64 * pondOf s + pos) 0 5 0 0 [])

def sendMgmt (s : State) (pos : Nat) (o : Out) : State := carryMgmt (emit s o) 0 pos

/-! ### The bridge between the wythes (01 R22, R24) -/

/-- Bytes that cross the bridge from a wythe (01 R24). -/
def countBridge (s : State) (fromW n : Nat) : State := countBy s 0xA010 (fromW % 2 + 1) n

/-- Bytes that pass from a unit of wythe `v` to a unit of wythe `w`: they cross the bridge where the two differ. -/
def passBytes (s : State) (v w n : Nat) : State := if v % 2 = w % 2 ∨ n = 0 then s else countBridge s v n

/-- Bytes of the range of tier 1 that lie in channels of the other wythe than `w` (04 R124). -/
def farBytes (w off n : Nat) : Nat :=
  ((List.range ((off + n + 255) / 256 - off / 256)).map (fun i =>
    let a := max off ((off / 256 + i) * 256)
    if channelWythe a = w % 2 then 0 else min (off + n) ((off / 256 + i + 1) * 256) - a)).sum

/-- A unit of wythe `w` reads or writes a range of tier 1: what lies in channels of the other wythe crosses the bridge. -/
def loadPass (s : State) (w off n : Nat) : State := passBytes s (w + 1) w (farBytes w off n)

def storePass (s : State) (w off n : Nat) : State := passBytes s w (w + 1) (farBytes w off n)

/-! ### What an entry's own rule does with an accepted write (14 R470, R471 step 10) -/

/-- Done at once, completing later under 14 R470, or refused with a code, where the state has only what the entry's rule
writes on a refusal (14 R473). -/
inductive Act where
  | done (s : State)
  | later (s : State)
  | refuse (code : Nat) (s : State)
  deriving DecidableEq, Repr

end Sys2Proof.Machine
end

