-- ==== Sys2Proof/Machine/Tree.lean ====
section
/-! DEFINITION. The fixed tree of the collectives (12 R388, R389), the mortar header and messages (12 R395, R396), groups
(12 R376, R378) and the retention region (12 R398). -/

namespace Sys2Proof.Machine

/-! ### The tree over virtual ranks -/

/-- Node sizes from `s` downward, divided by min(RADIX, s) at each level (12 R389). -/
def sizesFrom (radix : Nat) : Nat → Nat → List Nat
  | 0, _ => []
  | f + 1, s => s :: (if s ≤ 1 then [] else sizesFrom radix f (s / min radix s))

/-- The node sizes of a group of `n` members. -/
def treeSizes (radix n : Nat) : List Nat := sizesFrom radix 16 (2 ^ log2Up n)

/-- The size of the highest node that the member of virtual rank `v` computes. -/
def topSize (radix n v : Nat) : Nat := ((treeSizes radix n).find? (fun s => v % s == 0)).getD 1

/-- Children of the nodes that virtual rank `v` computes: virtual rank and node size. -/
def treeKids (radix n v : Nat) : List (Nat × Nat) :=
  (((treeSizes radix n).filter (fun s => decide (1 < s) && v % s == 0)).flatMap (fun s =>
    let q := min radix s
    ((List.range q).drop 1).map (fun j => (v + j * (s / q), s / q)))).filter (fun p => decide (p.1 < n))

/-- The virtual rank that receives the partials of virtual rank `v`. -/
def treeParent (radix n v : Nat) : Nat :=
  match ((treeSizes radix n).filter (fun s => v % s != 0)).getLast? with
  | some s => v - v % s
  | none => 0

/-- v = (rank − ROOT) mod n, and back (12 R388). -/
def virtRank (n root r : Nat) : Nat := (r + n - root % n) % n
def realRank (n root v : Nat) : Nat := (v + root) % n

/-! ### Groups -/

/-- Group 255 is one group of the package, whatever the context (12 R378). -/
def groupCtx (ctx g : Nat) : Nat := if g = 255 then 0 else ctx

def groupKey (ctx g : Nat) : Nat := groupCtx ctx g * 256 + g

/-- A value of entry 0x7100 + g. -/
def groupE (s : State) (ctx g sub : Nat) : Nat := getC s (groupCtx ctx g) (0x7100 + g) sub

/-- The member list in use. -/
def groupList (s : State) (ctx g : Nat) : List Nat := tget [] s.groupLists (groupKey ctx g)

/-! ### Sizes -/

def elemSize (dtype : Nat) : Nat := match dtype with | 0 => 2 | 1 => 4 | 2 => 4 | _ => 1

/-- C of 12 R382: bytes of a contribution. -/
def collBytes (d : CollDesc) : Nat := d.count * elemSize d.dtype

def tileBytes (d : CollDesc) : Nat := 256 * 2 ^ d.tileCode

/-- Tiles of a contribution. -/
def collTiles (d : CollDesc) : Nat := cdiv (collBytes d) (tileBytes d)

/-- The key of an admission barrier: group 255, the generation in bits 15:0 and the layer in bits 23:16 of its SEQ. Bit 32,
which no packet carries, tells it from the job group's own collectives (DEDUCED, log entry 115). -/
def barrierKey (ctx layer gen : Nat) : CollKey :=
  { ctx := ctx, group := 255, seq := 2 ^ 32 + layer % 256 * 65536 + gen % 65536 }

/-- Slot, group and bits 23:0 of SEQ agree (12 R385). -/
def sameColl (a b : CollKey) : Bool := a.ctx == b.ctx && a.group == b.group && decide (a.seq % 2 ^ 24 = b.seq % 2 ^ 24)

def endFor (s : State) (k : CollKey) : Option CollEnd := s.collEnds.find? (fun e => sameColl e.key k)

/-- The admission barrier of (context, layer, generation) has ended at this package with a status that `p` admits, and its end is
remembered (12 R399, R406): a generation that is free and used again (03 R113) has a barrier of its own. -/
def barrierEnded (s : State) (c n g : Nat) (p : Nat → Bool) : Bool :=
  s.barriers.any (fun b => b.ctx == c && b.layer == n && b.gen == g && b.ended && b.result.any p) &&
    (endFor s (barrierKey c n g)).isSome

/-! ### Messages -/

/-- The mortar header (12 R395). -/
def mortarHeader (msg group ctx seq chunk sender cover attempt : Nat) (dig : Bool) (crc : Nat) : Nat :=
  msg % 16 * 2 ^ 124 + group % 256 * 2 ^ 116 + ctx % 256 * 2 ^ 108 + seq % 2 ^ 24 * 2 ^ 84 + chunk % 2 ^ 17 * 2 ^ 67 +
    sender % 2 ^ 14 * 2 ^ 53 + cover % 2 ^ 15 * 2 ^ 38 + attempt % 4 * 2 ^ 36 + b2n dig * 2 ^ 35 + crc % 2 ^ 32

/-- The wythe of a collective's mortar: that of the posting stone (12 R380); the admission barrier uses wythe A. -/
def collWythe (co : Coll) : Nat := wytheOf co.stone

def putColl (s : State) (co : Coll) : State := { s with colls := mapWhere s.colls (fun c => c.key == co.key) (fun _ => co) }

def modColl (s : State) (k : CollKey) (f : Coll → Coll) : State := { s with colls := mapWhere s.colls (fun c => c.key == k) f }

/-- A message of a collective to the member of a rank: class 5, or 7 for ABORT_REQ and ABORT; PARTIALs go on the group's
UP_AQUEDUCT where it names one. The first class 5 packet to a member carries the digest, and so does a re-send of that packet
(12 R387, R395, R396, R413). -/
def collSend (s : State) (co : Coll) (rk msg chunk cover attempt : Nat) (data : List Byte) : State :=
  let greeted := ((s.colls.find? (fun c => c.key == co.key)).map (·.greeted)).getD co.greeted
  let cls := if msg = 6 ∨ msg = 7 then 7 else 5
  let dig := decide (cls = 5) && (!(greeted.any (fun g => g.1 == rk)) || greeted.contains (rk, msg, chunk))
  let hd := mortarHeader msg co.key.group co.key.ctx co.key.seq chunk co.rank cover attempt dig (if cls = 5 then crc32c data else 0)
  let pay := (if dig then toLE 8 co.digest else []) ++ data
  let up := groupE s co.key.ctx co.key.group 4
  let s := if dig then modColl s co.key (fun c => { c with greeted := (c.greeted.erase (rk, msg, chunk)) ++ [(rk, msg, chunk)] }) else s
  if msg = 0 ∧ up ≠ 0xFFFF then
    let p : AqPacket := { aqueduct := up % 256, cls := 5, phase := 0, last := false, seq := chunk % 65536,
                          payload := toLE 16 hd ++ pay }
    { s with aqQ := tins s.aqQ up (tget [] s.aqQ up ++ [p]) }
  else
    inject s (collWythe co) (mkPacket s (nth 0 (groupList s co.key.ctx co.key.group) rk) cls 4 0 hd pay)

/-- A message to every child of this member in the tree of DONE, SEAL and ABORT (12 R400, R404). -/
def collDown (s : State) (co : Coll) (msg chunk : Nat) (data : List Byte) : State :=
  forEach s (treeKids co.radix co.n (virtRank co.n co.root co.rank)) (fun t k =>
    collSend t co (realRank co.n co.root k.1) msg chunk 0 0 data)

/-- Payload of ABORT_REQ and ABORT: the code and the rank (12 R396). -/
def abortData (code rank : Nat) : List Byte := toLE 2 code ++ toLE 2 rank

/-! ### Retention (12 R398) -/

/-- Members whose contributions the PARTIAL of a virtual rank carries. -/
def coverOf (radix n v : Nat) : Nat := min (topSize radix n v) (n - v)

def roundTiles (d : CollDesc) (n : Nat) : Nat := cdiv n (tileBytes d) * tileBytes d

/-- The reservation of one POST. -/
def reservationOf (d : CollDesc) (radix n root rank : Nat) : Nat :=
  let v := virtRank n root rank
  match d.cop with
  | 1 => if v = 0 then roundTiles d (collBytes d) else 0
  | 2 => if v = 0 then 0 else roundTiles d (4 * d.count)
  | 3 => if v = 0 then roundTiles d (collBytes d) else roundTiles d (4 * d.count)
  | 4 => roundTiles d (4 * d.count * (n - 1) / n)
  | 5 => if v = 0 then roundTiles d (n * collBytes d) else roundTiles d (coverOf radix n v * collBytes d)
  | 6 => roundTiles d (collBytes d)
  | _ => 0

/-- Bytes that a held packet takes. -/
def heldBytes (h : HeldMsg) : Nat := 16 + h.m.payload.length

/-- Free bytes of the retention region: less the 32 KiB of a job list (13 R427), the reservations and the held packets. -/
def retentionFree (s : State) : Nat :=
  (retainRegion s).2 - (if s.jobList.isEmpty then 0 else 32768) -
    ((s.colls.filter (·.granted)).map (·.retention)).sum - ((s.mcasts.filter (·.granted)).map (·.retention)).sum -
    (s.heldMsgs.map heldBytes).sum

end Sys2Proof.Machine
end

