-- ==== Sys2Proof/Machine/Plumb.lean ====
section
/-! DEFINITION. The plumb (16 R502 to R512): latching, repeats, escalation, the fault log, and entry to Faulted (13 R419),
with the end of open collectives and multicasts that entry brings (12 R403, R404, R407, R408). -/

namespace Sys2Proof.Machine

/-- A fault with its class: 0 = C, 1 = U, 2 = F (16 R503). -/
def mkFault (cls cause kind unit : Nat) (ctx : Option Nat) (detail : Nat) : Fault16 :=
  { cls := cls, cause := cause, kind := kind, unit := unit, ctx := ctx, detail := detail }

def recOf (s : State) (cls : Nat) : FaultRec := if cls = 0 then s.recC else if cls = 1 then s.recU else s.recF

def setRec (s : State) (cls : Nat) (r : FaultRec) : State :=
  if cls = 0 then { s with recC := r } else if cls = 1 then { s with recU := r } else { s with recF := r }

/-- The 32 bytes of a fault record as one number (16 R507). -/
def packRec (cls : Nat) (r : FaultRec) : Nat :=
  if !r.valid then 0 else
  r.time % 2 ^ 64 * 2 ^ 192 + r.detail % 2 ^ 64 * 2 ^ 128 + r.cause % 256 * 2 ^ 120 + r.kind % 16 * 2 ^ 116 +
    r.unit % 4096 * 2 ^ 104 + r.ctx.getD 0 % 256 * 2 ^ 96 + b2n r.ctx.isSome * 2 ^ 95 + r.repeats % 256 * 2 ^ 87 +
    r.fromCause % 256 * 2 ^ 79 + r.fromKind % 16 * 2 ^ 75 + r.fromUnit % 4096 * 2 ^ 63 + cls % 4 * 2 ^ 61 + 2 ^ 60 +
    b2n r.overflow * 2 ^ 59 + b2n r.escalated * 2 ^ 58

/-- Firmware runs: not in Dormant, and a management processor is left (16 R591, 14 R468). -/
def firmwareUp (s : State) : Bool := s.mode != .dormant && !(s.mpFailed.contains 0 && s.mpFailed.contains 1)

/-- The firmware copies a record that has latched into the fault log (16 R512). -/
def logCopy (s : State) (cls : Nat) : State :=
  let base := getE s 0x8060 0x01
  if base = 0 ∨ firmwareUp s = false then s
  else
    let h := getE s 0x8060 0x02
    setE (memWrite s (base + 32 * h) (toLE 32 (packRec cls (recOf s cls)))) 0x8060 0x02 ((h + 1) % 1024)

/-- The record of an arriving fault; `src` is the VALID record it escalated from (16 R504, R505). -/
def newRec (s : State) (f : Fault16) (src : Option FaultRec) : FaultRec :=
  { valid := true, overflow := false, escalated := src.isSome, time := now s, detail := f.detail, cause := f.cause,
    kind := f.kind, unit := f.unit, ctx := f.ctx, repeats := 0,
    fromCause := (src.map (·.cause)).getD 0, fromKind := (src.map (·.kind)).getD 0, fromUnit := (src.map (·.unit)).getD 0 }

/-- One fault arrives at a class (16 R504, R505, R530): it latches, repeats, or sets OVERFLOW and escalates. The second
part is the escalated fault with the record that it escalated from. -/
def arrive (s : State) (f : Fault16) (src : Option FaultRec) : State × Option (Fault16 × FaultRec) :=
  let s := count s 0xA0C0 (f.cls + 1)
  let r := recOf s f.cls
  if r.valid = false then
    let s := setRec s f.cls (newRec s f src)
    let s := if f.cls = 0 then { s with cAckDue := true } else s
    (logCopy s f.cls, none)
  else if r.cause = f.cause ∧ r.kind = f.kind ∧ r.unit = f.unit then
    (setRec s f.cls { r with repeats := min 255 (r.repeats + 1) }, none)
  else
    let s := setRec s f.cls { r with overflow := true }
    if f.cls ≥ 2 then (s, none) else (count s 0xA0C0 0x04, some ({ f with cls := f.cls + 1 }, r))

/-- Arrivals in the order given; escalations formed are taken in the next cycle, after them (16 R506). -/
def arriveAll : State → List (Fault16 × Option FaultRec) → State × List (Fault16 × Option FaultRec)
  | s, [] => (s, [])
  | s, (f, src) :: t =>
    let (s1, e) := arrive s f src
    let (s2, es) := arriveAll s1 t
    (s2, (match e with | some (g, r) => [(g, some r)] | none => []) ++ es)

/-- The order of arrivals within a management cycle (16 R506). -/
def arrivalKey (f : Fault16) : Nat := ((f.cls * 16 + f.kind) * 4096 + f.unit) * 256 + f.cause

/-- The reports that the plumb takes in one management cycle, at most one of each pair, and those that their units hold until a later
one (16 R502, R506). -/
def takeReports : List (Nat × Nat) → List Fault16 → List Fault16 × List Fault16
  | _, [] => ([], [])
  | seen, f :: t =>
    if seen.contains (f.kind, f.unit) then ((takeReports seen t).1, f :: (takeReports seen t).2)
    else (f :: (takeReports ((f.kind, f.unit) :: seen) t).1, (takeReports ((f.kind, f.unit) :: seen) t).2)

/-- Management cycles of the plumb (16 R506): in each one, class by class, the escalations formed in the cycle before, then the reports
taken. `n` bounds the cycles. -/
def latchCycles : Nat → State → List (Fault16 × Option FaultRec) → List Fault16 → State
  | 0, s, _, _ => s
  | n + 1, s, es, fs =>
    let r := takeReports [] fs
    let a := arriveAll s (sortBy (fun x => if x.2.isSome then x.1.cls * 2 ^ 25 else x.1.cls * 2 ^ 24 + 2 ^ 24 + arrivalKey x.1)
      (es ++ r.1.map (fun f => (f, none))))
    latchCycles n a.1 a.2 r.2

/-- Faults reach the plumb, those of a pair that it ignores left out: as many cycles as they can take, and two for the escalations of the
last. -/
def latchAll (s : State) (fs : List Fault16) : State :=
  latchCycles (fs.length + 2) s [] (fs.filter (fun f => !s.deadPairs.contains (f.kind, f.unit)))

/-! ### The end of collectives and multicasts at a member -/

/-- The completion record of 12 R408. -/
def collRecord (seq group status rank chunks : Nat) (fencedLeg undecided : Bool) (fencedCount : Nat) : Nat :=
  seq % 2 ^ 32 * 2 ^ 96 + group % 256 * 2 ^ 88 + status % 65536 * 2 ^ 72 + b2n fencedLeg * 2 ^ 71 +
    b2n undecided * 2 ^ 70 + b2n (decide (0 < chunks)) * 2 ^ 69 + fencedCount % 2 ^ 14 * 2 ^ 55 +
    chunks % 2 ^ 17 * 2 ^ 38 + (if status = 0x0704 then rank % 2 ^ 14 else 0) * 2 ^ 24

/-- The counter of a completion status (12 R414). -/
def collCounter (status : Nat) : Nat := if status = 0 then 1 else status % 16 + 1

/-- What a completion does at the poster: record, signals and the instruction's end. -/
def collFinish (s : State) (stone pc sigStone sigObj record : Nat) (doneSignal : Bool) (sig : Option Nat) (rec : Nat) : State :=
  let s := if isFenced s stone then s else sramWrite s stone record (toLE 16 rec)
  let s := modStone s stone (fun x => { x with inflight := x.inflight.filter (fun i => !(i.pc == pc && i.kind == 7)) })
  let s := if doneSignal ∧ isFenced s sigStone = false then settleStone (addSync s sigStone sigObj 1) sigStone else s
  settleStone (signalDone s stone sig) stone

/-- The ended collectives of a (context, group) that are remembered: the last 16 (12 R399, R406). -/
def rememberEnd (l : List CollEnd) (e : CollEnd) : List CollEnd :=
  let same := l.filter (fun x => x.key.ctx == e.key.ctx && x.key.group == e.key.group)
  let rest := l.filter (fun x => !(x.key.ctx == e.key.ctx && x.key.group == e.key.group))
  rest ++ (e :: same).take 16

/-- A member completes a collective with a status; a nonzero one raises COLL_ENDED of class C (12 R404 to R408). The faults
are returned, not yet raised. The admission barrier writes no record (R408). -/
def completeColl (s : State) (co : Coll) (status rank : Nat) (undecided : Bool) : State × List Fault16 :=
  let e : CollEnd := { key := co.key, status := status, codeRank := rank, posted := true, isRoot := co.rank == co.root }
  let s := { s with colls := s.colls.filter (fun c => c.key != co.key), collEnds := rememberEnd s.collEnds e }
  let s := count s 0xA080 (collCounter status)
  let bs := mapWhere s.barriers
    (fun b => co.key == barrierKey b.ctx b.layer b.gen)
    (fun b => { b with result := some status, fencedAt := s.fenced ++ s.fuses.factoryFenced })
  let s := if co.desc.cop = 7 then { s with barriers := bs } else
    collFinish s co.stone co.pc co.desc.signalStone co.desc.signalObj co.desc.record co.desc.doneSignal co.signal
      (collRecord co.key.seq co.key.group status rank co.results.length false undecided 0)
  (s, if status = 0 then [] else
    [mkFault 0 0x38 3 (wytheOf co.stone) (some co.key.ctx) (co.key.group * 2 ^ 32 + co.key.seq % 2 ^ 32)])

/-- Legs whose last answer was a fenced stone, and legs of which every chunk is written (12 R410, R411). -/
def mcastFenced (m : Mcast) : Nat := (((m.acks.filter (fun a => a.2.2 == 1)).map (·.1)).dedup).length

def mcastWritten (m : Mcast) : Nat :=
  ((List.range m.legs.length).filter (fun l =>
    (List.range (collTiles m.desc)).all (fun i => m.acks.contains (l, i, 0)))).length

/-- A multicast completes at its poster (12 R411). -/
def completeMcast (s : State) (m : Mcast) (status rank : Nat) : State × List Fault16 :=
  let s := { s with mcasts := s.mcasts.filter (fun x => !(x.ctx == m.ctx && x.number == m.number)) }
  let s := count s 0xA080 (collCounter status)
  let s := collFinish s m.stone m.pc m.desc.signalStone m.desc.signalObj m.desc.record m.desc.doneSignal m.signal
    (collRecord m.number 0 status rank (mcastWritten m) (decide (0 < mcastFenced m)) false (mcastFenced m))
  (s, if status = 0 then [] else
    [mkFault 0 0x38 3 (wytheOf m.stone) (some m.ctx) (m.number % 2 ^ 32)])

/-- The root decides for abort: ABORT goes down the tree with the code and rank, and the root completes (12 R404). -/
def abortColl (s : State) (co : Coll) (code rank : Nat) : State × List Fault16 :=
  completeColl (collDown s co 7 0 (abortData code rank)) co code rank false

/-- A member asks for an abort: ABORT_REQ to the root, or the root's own decision; COLL_CORRUPT also raises a class U fault
at this member (12 R402, R403, R407). -/
def requestAbort (s : State) (co : Coll) (code : Nat) : State × List Fault16 :=
  let (t, fs) := if co.rank = co.root then abortColl s co code co.rank
    else (modColl (collSend s co co.root 6 0 0 0 (abortData code co.rank)) co.key (fun c => { c with abortSent := true }), [])
  (t, fs ++ (if code = 0x0703 then
    [mkFault 1 0x39 3 (collWythe co) (some co.key.ctx) (co.key.group * 2 ^ 32 + co.key.seq % 2 ^ 32)] else []))

/-- The package leaves Running: it asks for an abort of every open collective with COLL_MEMBER_LOST and its own rank, and
its multicasts end (12 R403, 13 R419, R430). -/
def endCollectives (s : State) : State × List Fault16 :=
  let (s1, f1) := s.colls.foldl (fun a co => let (t, g) := requestAbort a.1 co 0x0704; (t, a.2 ++ g)) (s, [])
  s1.mcasts.foldl (fun a m => let (t, g) := completeMcast a.1 m 0x0704 0; (t, a.2 ++ g)) (s1, f1)

/-! ### Faulted -/

/-- The switch of a wythe stops and its ports go DOWN, those that were UP counted (16 R509, 10 R339). Ports 0 to 15 lie on wythe A and 16 to 31 on wythe B. -/
def stopSwitch (s : State) (w : Nat) : State :=
  let s := { s with switchDead := s.switchDead ++ [w] }
  forEach s ((List.range 16).map (· + 16 * w)) (fun t p =>
    match (portOf t p).state with
    | .fenced => t
    | x => setPort (if x = .up then count t (0xA100 + p) 0x55 else t) p { portOf t p with state := .down })

/-- Entry to Faulted (13 R419, 16 R509, 04 R130), from every state but Dormant. -/
def enterFaulted (s : State) : State :=
  if s.mode = .dormant ∨ s.mode = .faulted then s
  else
    let s := { s with mode := .faulted, teardown := false }
    let s := setE s 0x4001 0x01 0
    let s := forEach s (s.ctxs.map (·.1)) stopCtx
    let s := if s.recF.valid ∧ s.recF.cause = 0x35 ∧ s.recF.escalated = false then stopSwitch s (s.recF.unit % 2) else s
    let (s, fs) := endCollectives s
    latchAll s fs

/-- Faults reach the plumb in one management cycle; a fault that arrives at class F makes the part enter Faulted. -/
def raise (s : State) (fs : List Fault16) : State :=
  let t := latchAll s fs
  if getE t 0xA0C0 0x03 ≠ getE s 0xA0C0 0x03 then enterFaulted t else t

/-- One fault. -/
def raise1 (s : State) (cls cause kind unit : Nat) (ctx : Option Nat) (detail : Nat) : State :=
  raise s [mkFault cls cause kind unit ctx detail]

/-! ### Faults of a stone -/

/-- The byte address of a stone's present instruction, which a stone cause carries in DETAIL (16 R510). -/
def instrAddr (s : State) (st : Nat) : Nat := 16 * (stoneOf s st).pc

/-- A fault at a stone, in the name of its context. -/
def stoneFault (s : State) (cls cause st detail : Nat) : State := raise1 s cls cause 0 st (stoneOf s st).owner detail

/-- The same fault `n` times, for as many values. -/
def stoneFaults (s : State) (cls cause st detail n : Nat) : State :=
  forEach s (List.range n) (fun t _ => stoneFault t cls cause st detail)

/-- A class U fault stops the context on the stone, at its present instruction (13 R422). -/
def failStone (s : State) (st cause : Nat) : State :=
  let d := instrAddr s st
  let o := (stoneOf s st).owner
  let s := match o with | some c => stopAt s c st | none => s
  raise1 s 1 cause 0 st o d

/-- ERROR set on a sync object: a pending WAIT on it ends, SYNC_ERROR is raised and the context stops (05 R187). -/
def errSync (s : State) (st j : Nat) : State :=
  let x := stoneOf s st
  let s := setStone s st (setSync x j { syncOf x j with err := true })
  match x.run with
  | .waiting obj _ _ => if obj = j then failStone s st 0x08 else s
  | _ => s

/-- Raises an event source: its hold bit is set at its origin (16 R518). -/
def holdSource (s : State) (n : Nat) : State := { s with holds := if s.holds.contains n then s.holds else s.holds ++ [n] }

end Sys2Proof.Machine
end

