-- ==== Sys2Proof/Machine/Operands.lean ====
section
/-! DEFINITION. The instruction word as a stone issues it (05 R172 to R175): operand fields, the checks at issue, in-flight
instructions and completion. -/

namespace Sys2Proof.Machine

/-- Operand bits `hi` to `lo` (05 R172). -/
def fld (hi lo : Nat) (o : Operands) : Nat := bits hi lo o.toNat

/-- One operand bit. -/
def flag (i : Nat) (o : Operands) : Bool := bit i o.toNat

/-- The mask of operand bits `hi` to `lo`. -/
def mask (hi lo : Nat) : Nat := 2 ^ (hi + 1) - 2 ^ lo

/-- Operand bits outside the given fields are reserved and must be zero (05 R174). -/
def onlyFields (fs : List (Nat × Nat)) (o : Operands) : Bool :=
  decide (o.toNat &&& fs.foldl (fun a f => a ||| mask f.1 f.2) 0 = o.toNat)

/-- The header: reserved bits zero, SOC only where the class has it (05 R172). -/
def headerOk (h : IHdr) (socClass : Bool) : Bool := decide (h.resv = 0) && (socClass || !h.soc)

/-- The sync object that the instruction's completion adds 1 to. -/
def sigOf (h : IHdr) : Option Nat := if h.signalEn then some (h.signalObj % 4) else none

/-- The stone's sequencer can issue an instruction now: it runs for a context that holds a slice, or finishes an open
region, no empty pool and no generation wait holds it, it is not fenced, and the part is in Run (05 R177, R193, 13 R421, R434,
R436, 17 R531). -/
def canIssue (s : State) (st : Nat) : Bool :=
  let x := stoneOf s st
  decide (x.run = .running) && !stoneBlocked x && !isFenced s st && decide (s.power.state = 0) && decide (s.power.entering = none) &&
    (match x.owner with
     | some c => (decide ((ctxOf s c).state = .running) && (ctxOf s c).slice && decide (s.mode = .running)) || x.np.isSome
     | none => false)

/-- Two SRAM ranges (start, length) share a byte. -/
def rangesMeet (a b : Nat × Nat) : Bool := overlap a b

def meetAny (as bs : List (Nat × Nat)) : Bool := as.any (fun a => bs.any (rangesMeet a))

/-- The waits at issue of 05 R175. -/
def issueWait (x : Stone) (srcs dsts : List (Nat × Nat)) : Option Stall :=
  if x.inflight.length ≥ 16 then some .inFlightFull
  else if x.inflight.any (fun i => meetAny srcs i.dsts || meetAny dsts (i.srcs ++ i.dsts)) then some .rangeOverlap
  else none

/-- The stone waits at issue: nothing changes but what it waits for. -/
def stallOn (s : State) (st : Nat) (w : Stall) : State := settleStone (modStone s st (fun x => { x with stall := some w })) st

/-- Issue of an instruction: nothing where the stone cannot issue; BAD_INSTRUCTION where a check of 05 R174 fails; a wait of
05 R175; otherwise the instruction's effect `k`. -/
def issue (s : State) (st : Nat) (ok : Bool) (srcs dsts : List (Nat × Nat)) (k : State → State) : State :=
  if canIssue s st = false then s
  else if ok = false then failStone s st 0x04
  else match issueWait (stoneOf s st) srcs dsts with
    | some w => stallOn s st w
    | none => k (modStone s st (fun x => { x with stall := none }))

/-- The next instruction follows. -/
def nextPc (s : State) (st : Nat) : State := modStone s st (fun x => { x with pc := x.pc + 1 })

/-- An instruction that completes at issue: the next one follows and SIGNAL_EN is applied (05 R172). -/
def completeNow (s : State) (st : Nat) (h : IHdr) : State := settleStone (signalDone (nextPc s st) st (sigOf h)) st

/-- An instruction whose work goes on: it takes an in-flight slot until its completion. -/
def takeSlot (s : State) (st kind : Nat) (srcs dsts : List (Nat × Nat)) (h : IHdr) : State :=
  modStone s st (fun x => { x with
    inflight := x.inflight ++ [{ pc := x.pc, kind := kind, srcs := srcs, dsts := dsts, signal := sigOf h }], pc := x.pc + 1 })

/-- The first in-flight slot of an instruction and kind is freed. -/
def freeSlot (s : State) (st pc kind : Nat) : State :=
  modStone s st (fun x => { x with inflight := x.inflight.eraseP (fun i => i.pc == pc && i.kind == kind) })

/-- The in-flight slot of a SUBMIT, which its completion record's place tells from another of the same instruction. -/
def freeSubmit (s : State) (st pc recOff : Nat) : State :=
  modStone s st (fun x => { x with inflight := x.inflight.eraseP (fun i => i.pc == pc && i.kind == 6 && i.dsts == [(recOff, 16)]) })

/-- Completion of a SUBMIT (03 R101). -/
def completeSubmit (s : State) (st pc recOff : Nat) (sig : Option Nat) : State :=
  settleStone (signalDone (freeSubmit s st pc recOff) st sig) st

/-- Completion of work in flight: its slot is freed and its signal applied. -/
def completeSlot (s : State) (st pc kind : Nat) (sig : Option Nat) : State :=
  settleStone (signalDone (freeSlot s st pc kind) st sig) st

/-- A range of `n` bytes lies within the stone's 256 KiB. -/
def inSram (off n : Nat) : Bool := decide (off + n ≤ 2 ^ 18)

/-- The value of an address register. -/
def reg (s : State) (st r : Nat) : BitVec 32 := aregOf (stoneOf s st) r

end Sys2Proof.Machine
end

