-- ==== Sys2Proof/Machine/Pools.lean ====
section
/-! DEFINITION. Buffer pools: regions and handles, the share rule, levels, the threaded free list, release and commit (09). -/

namespace Sys2Proof.Machine

/-- Size of a pool's buffers in bytes (09 R277). -/
def bufSize (x : Pool) : Nat := 256 * 2 ^ x.sizeCode

def poolUsed (x : Pool) : Bool := decide (x.sizeCode ≤ 8)

/-- Buffer places on one stone of the region, and in all. -/
def perStone (x : Pool) : Nat := x.kibPerStone * 1024 / bufSize x
def placesOf (x : Pool) : Nat := if poolUsed x then x.stones * perStone x else 0

/-- The handle of a place (09 R279). -/
def handleAt (p : Nat) (x : Pool) (i : Nat) : Nat :=
  let off := x.sramKib * 1024 + i % perStone x * bufSize x
  p * 2 ^ 24 + (x.firstStone + i / perStone x) * 2 ^ 12 + off / 256 * 4

def handlePool (h : Nat) : Nat := bits 31 24 h
def handleStone (h : Nat) : Nat := bits 23 12 h
def handleOff (h : Nat) : Nat := bits 11 2 h * 256

/-- All handles of the region in ascending order. -/
def allHandles (p : Nat) (x : Pool) : List Nat := (List.range (placesOf x)).map (handleAt p x)

/-- The live buffers: on working stones and not retired (09 R277). -/
def liveHandles (s : State) (p : Nat) (x : Pool) : List Nat :=
  (allHandles p x).filter (fun h => !isFenced s (handleStone h) && !x.retired.contains h)

/-- N and F (09 R282, R283). -/
def liveCount (s : State) (p : Nat) (x : Pool) : Nat := (liveHandles s p x).length
def freeHandles (s : State) (p : Nat) (x : Pool) : List Nat := (liveHandles s p x).filter (fun h => tget 0 x.counts h == 0)
def freeCount (s : State) (p : Nat) (x : Pool) : Nat := (freeHandles s p x).length

def reserveOf (x : Pool) (o : Nat) : Nat := tget 0 x.reserves o
def usedBy (x : Pool) (o : Nat) : Nat := tget 0 x.used o

/-- The share rule (09 R282), with level 3 granting within reserve alone (09 R283). -/
def shareRule (f : Nat) (x : Pool) (o : Nat) : Bool :=
  decide (usedBy x o < reserveOf x o) ||
    (decide (x.level < 3) &&
      decide (f > (((List.range 11).filter (· != o)).map (fun p => reserveOf x p - usedBy x p)).sum))

/-- The level of a pool with hysteresis (09 R283). -/
def levelOf (old n f : Nat) : Nat :=
  let t (k : Nat) : Nat := n / 2 ^ (k + 1)
  let up := if f < t 3 then 3 else if f < t 2 then 2 else if f < t 1 then 1 else 0
  let held (k : Nat) : Bool := decide (k ≤ old) && decide (f < t k + cdiv n 32)
  max up (if held 3 then 3 else if held 2 then 2 else if held 1 then 1 else 0)

/-- Writes a pool back with its level formed again. -/
def setPoolLevel (s : State) (p : Nat) (x : Pool) : State :=
  setPool s p { x with level := levelOf x.level (liveCount s p x) (freeCount s p x) }

/-- The link word of a free buffer (09 R285): SELF and NEXT. -/
def linkWord (self next : Nat) : Nat := self * 2 ^ 32 + next

/-- The pool's own write of a link word: no stone's dirty bit is concerned. -/
def putLink (s : State) (h next : Nat) : State :=
  { s with sram := sramPut s.sram (sramKey (handleStone h) (handleOff h)) (toLE 8 (linkWord h next)) }

/-- Threads a list of handles, in order, through the free buffers. -/
def threadList : State → List Nat → State
  | s, [] => s
  | s, [h] => putLink s h 0xFFFFFFFF
  | s, h :: g :: t => threadList (putLink s h g) (g :: t)

/-- The list is rebuilt from the state table, in ascending handle order (09 R287). -/
def rebuildList (s : State) (p : Nat) : State :=
  let x := poolOf s p
  let fs := freeHandles s p x
  setPoolLevel (threadList s fs) p { x with head := fs.head?.getD 0xFFFFFFFF }

/-- The check of a pop against the link word (09 R288). -/
def popOk (s : State) (p : Nat) (x : Pool) : Bool :=
  let h := x.head
  let w := sramNat s (handleStone h) (handleOff h) 8
  let next := w % 2 ^ 32
  !isBad s (wordOf (handleStone h) (handleOff h)) && decide (w / 2 ^ 32 = h) &&
    (decide (next = 0xFFFFFFFF) || ((liveHandles s p x).contains next && decide (tget 0 x.counts next = 0)))

/-- A failed pop: FREE_LIST of class U, the buffer retired, the rebuild started (09 R288). -/
def popFailed (s : State) (p : Nat) : State :=
  let x := poolOf s p
  let s := setPoolLevel s p { x with retired := x.retired ++ [x.head], rebuilding := true }
  raise1 (count (count s 0xA060 0x05) 0xA060 0x06) 1 0x18 2 (p / 16) none x.head

/-- The pool may grant a buffer to the owner now (09 R282, R288). -/
def mayGrant (s : State) (p owner : Nat) : Bool :=
  let x := poolOf s p
  !x.rebuilding && decide (x.head ≠ 0xFFFFFFFF) && shareRule (freeCount s p x) x owner

/-- A grant from one pool: the head is popped, its count set to `refs` (09 R282, R285, R289). -/
def grantFrom (s : State) (p owner refs : Nat) : State × Option Nat :=
  let x := poolOf s p
  if mayGrant s p owner = false then (s, none)
  else if popOk s p x = false then (popFailed s p, none)
  else
    let h := x.head
    let next := sramNat s (handleStone h) (handleOff h) 4
    let y := { x with head := next, counts := tput 0 x.counts h refs, holders := tput 0 x.holders h owner,
                      used := tput 0 x.used owner (usedBy x owner + 1) }
    (count (setPoolLevel s p y) 0xA060 0x01, some h)

/-- The pools of a bay that a request may use: the smallest size that holds it, ascending (09 R282). -/
def poolsFor (s : State) (bay owner size : Nat) : List Nat :=
  let ps := ((List.range 16).map (· + 16 * bay)).filter (fun p =>
    let x := poolOf s p; poolUsed x && bit owner x.owners && decide (size ≤ bufSize x))
  match minBy (fun p => (poolOf s p).sizeCode) ps with
  | none => []
  | some b => ps.filter (fun p => (poolOf s p).sizeCode == (poolOf s b).sizeCode)

def grantTry (owner refs : Nat) : State → List Nat → State × Option Nat
  | s, [] => (s, none)
  | s, p :: t =>
    match grantFrom s p owner refs with
    | (s, some h) => (s, some h)
    | (s, none) => grantTry owner refs s t

/-- A request for a buffer: granted, or it waits at the first pool that may serve it (09 R282). -/
def takeBuffer (s : State) (bay owner size refs : Nat) (op : WaitOp) : State × Option Nat :=
  let ps := poolsFor s bay owner size
  match grantTry owner refs s ps with
  | (s, some h) => (s, some h)
  | (s, none) =>
    let p := ps.headD (16 * bay)
    let x := poolOf s p
    (setPool s p { x with waiting := x.waiting ++ [{ owner := owner, size := size, refs := refs, op := op }] }, none)

def reserveSum (x : Pool) : Nat := ((List.range 11).map (reserveOf x)).sum

/-! ### The instruction list of an image -/

/-- CLASS and OP of an instruction word (05 R172). -/
def wordClass (w : BitVec 128) : Nat := bits 127 124 w.toNat
def wordOp (w : BitVec 128) : Nat := bits 123 120 w.toNat

/-- A stone of the image whose instruction list holds an EXPERT SUBMIT (09 R281). -/
def isOrigin (t : ImgStone) : Bool := t.words.any (fun w => wordClass w == 6 && wordOp w == 0)

/-- Setting `sub` of an image's layer (02 R67). -/
def imgSet (n : ImgLayer) (sub d : Nat) : Nat := ((n.settings.find? (fun p => p.1 == sub)).map (·.2)).getD d

/-! ### The minima of a bay (09 R280, R281, R291) -/

/-- The used pools of a bay with their numbers, and those that back their reserves (09 R291). -/
def bayPools (s : State) (bay : Nat) : List (Nat × Pool) :=
  (((List.range 16).map (· + 16 * bay)).map (fun p => (p, poolOf s p))).filter (fun q => poolUsed q.2)

/-- The reserves of an owner in a bay, over pools of the named sizes that back their reserves (09 R281, R291). -/
def bayReserve (s : State) (bay owner : Nat) (sizeOk : Nat → Bool) : Nat :=
  (((bayPools s bay).filter (fun q => sizeOk (bufSize q.2) && decide (reserveSum q.2 ≤ liveCount s q.1 q.2))).map
    (fun q => reserveOf q.2 owner)).sum

/-- The bay holds a working stone. -/
def bayWorks (s : State) (bay : Nat) : Bool := (List.range 256).any (fun i => !isFenced s (bay * 256 + i))

/-- The DMA and FABRIC_RX minima of a bay (09 R280, R281). -/
def fabricMinima (s : State) (bay : Nat) : Bool :=
  !bayWorks s bay ||
    (decide (4 ≤ bayReserve s bay 2 (fun z => decide (4096 ≤ z))) &&
      [0, 1, 2, 5, 6, 7].all (fun c => decide (2 ≤ bayReserve s bay (c + 3) (fun z => decide (z = 8192)))))

/-- Programs with their context slots and stone maps: those loaded. -/
def loadedPrograms (s : State) : List (Image × List (Nat × Nat)) :=
  (loadedCtxs s).filterMap (fun c => (ctxOf s c).image.map (fun i => (i, (ctxOf s c).phys)))

def mapStone (m : List (Nat × Nat)) (l : Nat) : Nat := ((m.find? (fun p => p.1 == l)).map (·.2)).getD l

/-- Largest d of any layer of the programs. -/
def largestD (ps : List (Image × List (Nat × Nat))) : Nat :=
  (ps.flatMap (fun p => p.1.layers.map (fun n => imgSet n 3 0))).foldl max 0

/-- The smallest pool size that holds `n` bytes (09 R277). -/
def fitSize (n : Nat) : Nat := (((List.range 9).map (fun k => 256 * 2 ^ k)).find? (fun z => decide (n ≤ z))).getD 65536

/-- A bay holds the first stone of a replica of the programs, or an origin stone (09 R281). -/
def holdsReplica (s : State) (ps : List (Image × List (Nat × Nat))) (bay : Nat) : Bool :=
  ps.any (fun p => p.1.layers.any (fun n => n.blocks.any (fun b => b.2.any (fun r =>
    r.valid && r.pkg == pkgId s && bayOf (mapStone p.2 r.firstStone) == bay))))

def holdsOrigin (ps : List (Image × List (Nat × Nat))) (bay : Nat) : Bool :=
  ps.any (fun p => p.1.stones.any (fun t => isOrigin t && bayOf (mapStone p.2 t.stone) == bay))

/-- The SLUICE_RX and CONFLUENCE minima of a bay for programs. A token copy takes d values and d/32 exponents. -/
def programMinima (s : State) (ps : List (Image × List (Nat × Nat))) (bay : Nat) : Bool :=
  let d := largestD ps
  (!holdsReplica s ps bay || decide (4 ≤ bayReserve s bay 0 (fun z => z == fitSize (33 * (d / 32))))) &&
    (!holdsOrigin ps bay || decide (2 ≤ bayReserve s bay 1 (fun z => decide (4 * d ≤ z))))

/-- Every minimum of 09 R280 that applies to a bay. -/
def bayMinima (s : State) (bay : Nat) : Bool := fabricMinima s bay && programMinima s (loadedPrograms s) bay

/-! ### Release -/

/-- A buffer for a request is at hand: no request of it would wait but for a failed pop (09 R282, R284). -/
def bufferReady (s : State) (bay owner size : Nat) : Bool := (poolsFor s bay owner size).any (fun p => mayGrant s p owner)

/-- The bay is tested again after a retirement: where it falls short of a minimum, RESERVE_LOST of class U and POOLS_STATUS 2
(09 R291). -/
def testBay (s : State) (bay : Nat) : State :=
  if bayMinima s bay then s else setE (raise1 s 1 0x1A 2 bay none 0) 0x4040 0x02 2

/-- The checks of a release (09 R290). -/
def releaseOk (s : State) (h : BitVec 32) : Bool :=
  let x := poolOf s (handlePool h.toNat)
  poolUsed x && (allHandles (handlePool h.toNat) x).contains h.toNat && decide (tget 0 x.counts h.toNat ≠ 0)

/-- One reference is given back; at count 0 the buffer joins the head of the free list, or is retired with its fenced
stone (09 R285, R289, R291). -/
def dropRef (s : State) (h : Nat) : State :=
  let p := handlePool h
  let x := poolOf s p
  let c := tget 0 x.counts h - 1
  if c ≠ 0 then setPool s p { x with counts := tput 0 x.counts h c }
  else
    let o := tget 0 x.holders h
    let y := { x with counts := tput 0 x.counts h 0, holders := tput 0 x.holders h 0,
                      outCtx := tput 0 x.outCtx h 0, used := tput 0 x.used o (usedBy x o - 1) }
    if isFenced s (handleStone h) then testBay (count (setPoolLevel s p y) 0xA060 0x06) (p / 16)
    else if y.retired.contains h then setPoolLevel s p y
    else count (setPoolLevel (putLink s h y.head) p { y with head := h }) 0xA060 0x02

/-- A release (09 R288 to R290); the second part tells whether it passed its checks. -/
def releaseBuffer (s : State) (h : BitVec 32) : State × Bool :=
  if releaseOk s h = false then
    (raise1 (count s 0xA060 0x04) 1 0x19 2 (handlePool h.toNat / 16) none h.toNat, false)
  else
    let x := poolOf s (handlePool h.toNat)
    if x.rebuilding then (setPool s (handlePool h.toNat) { x with relQueue := x.relQueue ++ [h] }, true)
    else (dropRef s h.toNat, true)

/-- A release by a unit of the part. -/
def release (s : State) (h : BitVec 32) : State := (releaseBuffer s h).1

/-- A pool's list is rebuilt, and its queued releases are applied (09 R287, R288). -/
def endRebuild (s : State) (pool : Nat) : State :=
  let x := poolOf s pool
  forEach (rebuildList (setPool s pool { x with rebuilding := false, relQueue := [] }) pool) x.relQueue release

/-- The rebuild of a pool's list ends (09 R288). -/
def execListRebuildComplete (pool : Nat) (s : State) : Res := run s fun s => if (poolOf s pool).rebuilding then endRebuild s pool else s

/-- (pool, handle) of the free buffers on a stone, as they stand before its fence. -/
def freeOnStone (s : State) (st : Nat) : List (Nat × Nat) :=
  (bayPools s (bayOf st)).flatMap (fun q =>
    ((freeHandles s q.1 q.2).filter (fun h => handleStone h == st)).map (fun h => (q.1, h)))

/-- The pools whose region holds a part of a stone. -/
def poolsOn (s : State) (st : Nat) : List Nat :=
  ((bayPools s (bayOf st)).filter (fun q => decide (q.2.firstStone ≤ st) && decide (st < q.2.firstStone + q.2.stones))).map (·.1)

/-- A stone has been fenced: its free buffers are retired, the lists of their pools rebuilt, the levels formed over the live buffers,
and the bay tested again (09 R283, R291). -/
def retireBuffers (s : State) (st : Nat) (freeBefore : List (Nat × Nat)) : State :=
  let s := countBy s 0xA060 0x06 freeBefore.length
  let s := forEach s ((freeBefore.map (·.1)).dedup) (fun t p => count (setPool t p { poolOf t p with rebuilding := true }) 0xA060 0x05)
  let s := forEach s (poolsOn s st) (fun t p => setPoolLevel t p (poolOf t p))
  if (poolsOn s st).isEmpty then s else testBay s (bayOf st)

/-! ### Commit (09 R277, R278, R281, R294) -/

/-- The staged settings of pool p. -/
def stagedPool (s : State) (p : Nat) : Pool :=
  { Pool.initial with
    sizeCode := getE s (0x4100 + p) 0x01, owners := getE s (0x4100 + p) 0x02, firstStone := getE s (0x4100 + p) 0x03,
    stones := getE s (0x4100 + p) 0x04, sramKib := getE s (0x4100 + p) 0x05, kibPerStone := getE s (0x4100 + p) 0x06,
    reserves := (List.range 11).foldl (fun t o => tput 0 t o (getE s (0x4100 + p) (0x10 + o))) [] }

/-- A used pool's region keeps to 09 R277: within its bay, whole buffers, at most 4,096 places. -/
def regionOk (p : Nat) (x : Pool) : Bool :=
  decide (bayOf x.firstStone = p / 16) && decide (1 ≤ x.stones) && decide (x.firstStone + x.stones ≤ (p / 16 + 1) * 256) &&
    decide (1 ≤ x.kibPerStone) && decide (x.sramKib + x.kibPerStone ≤ 256) &&
    decide (x.sizeCode ≤ 2 ∨ x.kibPerStone % (bufSize x / 1024) = 0) && decide (placesOf x ≤ 4096)

/-- Two regions share a byte of a stone. -/
def regionsMeet (x y : Pool) : Bool :=
  overlap (x.firstStone, x.stones) (y.firstStone, y.stones) && overlap (x.sramKib, x.kibPerStone) (y.sramKib, y.kibPerStone)

/-- A reserve is legal: within OWNERS, and none for FABRIC_RX 3 and 4, owners 6 and 7 (09 R281, R294). -/
def reservesOk (x : Pool) : Bool :=
  (List.range 11).all (fun o => decide (reserveOf x o = 0) || (bit o x.owners && decide (o ≠ 6) && decide (o ≠ 7)))

/-- POOL_COMMIT: the refusal code, or the state with all 256 pools committed and their lists rebuilt (09 R294). -/
def poolCommit (s : State) : Except Nat State :=
  let ps := (List.range 256).map (fun p => (p, stagedPool s p))
  let us := ps.filter (fun q => poolUsed q.2)
  let legal := us.all (fun q => regionOk q.1 q.2) &&
    ps.all (fun q => reservesOk q.2 && decide (reserveSum q.2 ≤ liveCount s q.1 q.2))
  let apart := us.all (fun q => us.all (fun r => r.1 == q.1 || !regionsMeet q.2 r.2))
  if !legal || !apart then .error 0x0302
  else
    let t := { s with pools := us }
    if (List.range 16).all (fabricMinima t) then
      .ok (setE (forEach t (us.map (·.1)) rebuildList) 0x4040 0x02 1)
    else .error 0x0406

end Sys2Proof.Machine
end

