-- ==== Sys2Proof/Machine/Post.lean ====
section
/-! DEFINITION. Result mailboxes and the lead stone's yield (13 R442, R443, 15 R491, R492, 05 R178). -/

namespace Sys2Proof.Machine

/-- Writes to host memory that a context's stones had completed before a yield have not been sent yet (15 R491). -/
def writesWait (s : State) (c behind : Nat) : Bool := s.umora.queue.any (fun p => decide (p.ctx = some c) && decide (p.serial < behind))

/-- A result is posted to a mailbox of a slot; where the mailbox is POSTED, the post waits for its release (15 R492), that of a yield
also for the context's writes to the host (15 R491). -/
def postResult (s : State) (c m seq code : Nat) (notify ofYield : Bool) : State :=
  let k := mbKey c m
  if (mailboxOf s k).posted ∨ (ofYield ∧ writesWait s c s.umora.serial) then
    let s := { s with posts := s.posts ++ [{ ctx := c, mailbox := m, seq := seq, code := code, notify := notify, ofYield := ofYield, behind := s.umora.serial }] }
    if ofYield then modCtx s c (fun x => { x with yieldWaits := true }) else s
  else
    count (setMailbox s k { posted := true, readBefore := false, notify := notify, code := code, seq := seq }) 0xA0B0 0x05

/-- A stone's YIELD ends: the next instruction follows and SIGNAL_EN is applied. -/
def endYield (s : State) (c st : Nat) : State :=
  modStoneFor s c st (fun y =>
    let z := { y with run := .running, pc := y.pc + 1, yields := y.yields + 1, waitSig := none }
    match y.waitSig with
    | some i => updateSync z i (· + 1)
    | none => z)

/-- The lead stone's yield completes once a step is formed and no post of the yield waits: the descriptor is written at the
offset that the image declares, and the yields of the context's other stones complete with it (13 R443, 05 R178). -/
def finishYield (s : State) (c : Nat) : State :=
  let x := ctxOf s c
  match x.image, x.steps with
  | some img, st0 :: rest =>
    let lead := physOf s c img.leadStone
    if x.resident ∧ (stoneFor s c lead).run = .yielding ∧ x.yieldWaits = false then
      let s := sramWrite s lead img.stepDescOffset (toLE 32 st0.desc.toNat)
      let s := setCtx s c { x with steps := rest, current := some st0 }
      let n := (stoneFor s c lead).yields + 1
      let s := endYield s c lead
      let s := forEach s (ctxStones s c) (fun t st =>
        let y := stoneFor t c st
        if y.run = .yielding ∧ y.yields < n then endYield t c st else t)
      settle s c
    else s
  | _, _ => s

/-- The oldest post that waits for a mailbox is made once it is FREE and the writes before it have been sent; a yield whose posts are all made goes on. -/
def makePosts (s : State) (c m : Nat) : State :=
  match s.posts.find? (fun p => p.ctx == c && p.mailbox == m) with
  | none => s
  | some p =>
    if (mailboxOf s (mbKey c m)).posted ∨ (p.ofYield ∧ writesWait s c p.behind) then s
    else
      let s := { s with posts := s.posts.erase p }
      let s := count (setMailbox s (mbKey c m)
        { posted := true, readBefore := false, notify := p.notify, code := p.code, seq := p.seq }) 0xA0B0 0x05
      let s := if p.ofYield ∧ !(s.posts.any (fun q => q.ctx == c && q.ofYield)) then
        modCtx s c (fun x => { x with yieldWaits := false }) else s
      finishYield s c

/-- Every post of the slot that can be made is made, in order. -/
def makeAllPosts (s : State) (c : Nat) : State :=
  forEach s ((s.posts.filter (fun p => p.ctx == c)).map (·.mailbox)).dedup (fun t m => makePosts t c m)

/-- Packets leave as far as the link allows (15 R484, R485), and the posts that waited for them are made (15 R491). -/
def pumpUmora (s : State) : State :=
  if linkUp s = false then s
  else
    let r := sendQueue s.umora
    let s := { s with out := s.out ++ r.2, umora := r.1 }
    forEach s ((s.posts.filter (·.ofYield)).map (·.ctx)).dedup makeAllPosts

/-- The lead stone's yield posts the results of the step that ends (15 R491). -/
def postStep (s : State) (c : Nat) : State :=
  match (ctxOf s c).current with
  | none => s
  | some st => forEach (modCtx s c (fun x => { x with current := none })) st.posts
      (fun t p => postResult t c p.1 p.2.1 0 p.2.2 true)

/-- Every mailbox of the slot becomes FREE with SEQ 0 and CODE 0 (15 R490, R492). -/
def clearMailboxes (s : State) (c : Nat) : State :=
  { s with mailboxes := s.mailboxes.filter (fun p => p.1 / 128 != c) }

end Sys2Proof.Machine
end

