-- ==== Sys2Proof/Machine/Dict.lean ====
section
/-! DEFINITION. The dictionary server: the checks of 14 R471, replay, refusal accounting, responses on every path, and
deferred writes. -/

namespace Sys2Proof.Machine

/-- The context that a VIEW entry acts on (14 R463, R474): the page's slot on path 2, else the slot of its view entry.
Group 255 is shared by every slot but for NEXT_SEQ (12 R378). -/
def viewCtx (s : State) (idx sub : Nat) (q : Req) : Nat :=
  match findEntry idx sub with
  | none => 0
  | some e =>
    if !e.view then 0
    else if q.path = 2 then q.slot
    else if idx / 4096 = 4 then getE s 0x4000 0x01
    else if idx / 4096 = 6 then getE s 0x6002 0x00
    else if idx / 4096 = 7 then (if idx = 0x71FF ∧ sub ≠ 9 then 0 else getE s 0x7002 0x00)
    else getE s 0xB002 0x00

/-- The sub-index of REFUSALS_BY_CODE (14 R473). -/
def codeSub (code : Nat) : Nat := code / 256 % 16 * 16 + code % 16

/-- LAST_REFUSAL (14 R478). -/
def lastRefusal (code idx sub path : Nat) : Nat :=
  code % 65536 * 2 ^ 48 + idx % 65536 * 2 ^ 32 + sub % 256 * 2 ^ 24 + path % 16 * 2 ^ 20

/-- The accounting of a refusal (14 R473, R464): counters, LAST_REFUSAL, and DICT_REFUSAL for a mapped write. -/
def noteRefusal (s : State) (code idx sub path : Nat) : State :=
  let s := count (count s 0xA0F1 (codeSub code)) 0xA0F0 0x02
  let s := setE s 0xA0F0 0x04 (lastRefusal code idx sub path)
  if path = 2 then { s with dictRefusal := true } else s

/-- The response header of 14 R460 as 16 bytes. -/
def respHeader (q : Req) (idx sub code len : Nat) (replayed : Bool) : Nat :=
  q.version % 16 * 2 ^ 124 + 8 * 2 ^ 120 + b2n q.relay * 2 ^ 119 + b2n replayed * 2 ^ 118 + q.position % 64 * 2 ^ 112 +
    q.seq % 65536 * 2 ^ 96 + idx % 65536 * 2 ^ 80 + sub % 256 * 2 ^ 72 + code % 65536 * 2 ^ 56 + len % 2048 * 2 ^ 45 +
    q.typ % 32 * 2 ^ 40

/-- Bytes written into the mailbox slot area by the part (14 R462). -/
def slotWrite (s : State) (off : Nat) (bs : List Byte) : State := { s with slotMem := sramPut s.slotMem off bs }

/-- A COMMAND of a ring ends: its result is posted, and in stop-on-refusal mode a refusal halts the ring (14 R465, 15 R491). -/
def endRingCommand (s : State) (c code : Nat) : State :=
  let r := ringOf s c
  match r.cmd with
  | none => s
  | some e =>
    let s := setRing s c { r with cmd := none }
    let s := if e.post then postResult s c e.mailbox e.seq code e.notify false else s
    if code ≠ 0 ∧ getE s (0xB100 + c) 0x04 = 1 ∧ getE s (0xB100 + c) 0x03 = 1 then
      setE { s with dictRefusal := true } (0xB100 + c) 0x05 2
    else s

/-- The replay memory of a source with one more response: the last 8 of each of at most 16 sources, the least recently
served source forgotten (14 R461). -/
def remember (l : List ReplaySrc) (path src : Nat) (r : Nat × Nat × Nat × Nat) : List ReplaySrc :=
  let old := (l.find? (fun x => x.path == path && x.src == src)).map (·.resps)
  let rest := l.filter (fun x => !(x.path == path && x.src == src))
  ({ path := path, src := src, resps := (r :: old.getD []).take 8 } :: rest).take 16

/-- The source under which a response is remembered: the source address, or on the relay path the triple of keystone position, original
source and the path of the original (14 R461). -/
def replaySource (q : Req) : Nat := if q.path = 3 then (q.src * 8 + q.viaPath % 8) * 64 + q.fromPos % 64 else q.src

/-- The remembered response to (source, SEQ), on paths 0 and 3. -/
def remembered (s : State) (q : Req) : Option (Nat × Nat × Nat × Nat) :=
  if q.path = 0 ∨ q.path = 3 then
    ((s.replay.find? (fun x => x.path == q.path && x.src == replaySource q)).map (·.resps)).bind
      (fun l => l.find? (fun r => r.1 == q.seq))
  else none

/-- A response leaves on its request's path: a frame on paths 0 and 3, the mailbox slot with DONE and DICT_DONE on path 1,
nothing on path 2, host memory and the entry's mailbox on path 4 (14 R460 to R465). -/
def respond (s : State) (q : Req) (idx sub code len value : Nat) : State :=
  let bytes := toLE 16 (respHeader q idx sub code len false) ++ toLE len value
  if q.path = 1 then
    let s := slotWrite s (4096 * q.slot + 0x800) bytes
    let s := slotWrite s (4096 * q.slot + 0xFF8) (toLE 8 (1 + q.seq % 65536 * 2 ^ 16))
    holdSource (setSlot s q.slot { busy := false, done := true, seq := q.seq }) 4
  else if q.path = 2 then hostTaken s true
  else if q.path = 4 then
    match (ringOf s q.slot).cmd with
    | some e => endRingCommand (emit s (.hostWrite e.rspAddr bytes)) q.slot code
    | none => s
  else
    let s := { s with replay := remember s.replay q.path (replaySource q) (q.seq, code, len, value) }
    let o := Out.response q.path q.src q.seq code len value false
    if q.path = 3 then sendMgmt s q.fromPos o else emit s o

/-- A refusal: its accounting, and a response with LENGTH 0 (14 R460, R473). -/
def refuse (s : State) (q : Req) (idx sub code : Nat) : State :=
  respond (noteRefusal s code idx sub q.path) q idx sub code 0 0

/-- In Dormant the boot ROM serves the identity range, DEVICE_STATE and the firmware entries on paths 0 and 1 (14 R468, 18
R567). -/
def dormantServes (idx sub path : Nat) : Bool :=
  (decide (path = 0) || decide (path = 1)) &&
    (decide (idx / 4096 = 1) || (decide (idx = 0x5000) && decide (sub = 1)) || decide (idx = 0x9000) || decide (idx = 0x9010) ||
      decide (idx = 0x9030))

/-- A state is permitted by a mask; while Draining, both Draining and Clean are asked (14 R456, R471 step 8), but an entry whose own
rule names Draining is written there (04 R132; DEDUCED, log entry 123). -/
def stateCheck (s : State) (states : Nat) : Option Nat :=
  if s.mode = .draining then
    let a := bit 5 states
    let b := bit 6 states
    if a then none else if b then some 0x0102 else some 0x0101
  else if bit s.mode.code states then none else some 0x0101

/-- The path on which the request reached the first server (14 R466). -/
def entryPath (q : Req) : Nat := if q.path = 3 then q.viaPath else q.path

/-- Requests of a management-port source that are outstanding, and requests waiting in the queue (14 R461, R469). -/
def serverBusy (s : State) (q : Req) : Bool :=
  let mine (x : Req) : Bool := x.path == 0 && x.src == q.src
  (decide (q.path = 0) && decide (4 ≤ (s.deferred.filter (fun d => mine d.q)).length + (s.relays.filter (fun r => mine r.q)).length)) ||
    ((decide (q.path = 0) || decide (q.path = 3)) && decide (s.dictQ.length ≥ 64))

/-- Steps 1 and 2 of 14 R471. -/
def headCheck (s : State) (q : Req) : Option Nat :=
  if q.version ≠ 1 ∨ q.resv ≠ 0 ∨ (q.position ≠ 0 ∧ q.relay = false) then some 0x0302
  else if q.relay ∧ q.path ≠ 3 ∧ isKeystone s = false then some 0x0502
  else none

/-- Step 3 of 14 R471. -/
def entryCheck (idx sub : Nat) : Option Nat :=
  match findEntry idx sub with
  | some _ => none
  | none => some (if indexAssigned idx then 0x0204 else 0x0203)

/-- A relayed request does not come from the recorded keystone (01 R30). -/
def wrongKeystone (s : State) (q : Req) : Bool :=
  decide (q.path = 3) && (decide (getE s 0x2010 0x01 = 0xFF) || decide (q.fromPos ≠ getE s 0x2010 0x01))

/-- Step 4 of 14 R471 for a WRITE: the sender of a relay, PATHS, and the write mask of R467. -/
def writePathCheck (s : State) (e : Entry) (idx sub : Nat) (q : Req) : Option Nat :=
  let p := entryPath q
  if wrongKeystone s q ∨ (q.path = 2 ∧ e.mapOff.isNone) ∨ bit p e.paths = false then some 0x0502
  else if p = 0 ∧ bit (idx / 4096) (getE s 0x1040 0x01) = false ∧ ¬ (idx = 0x9010 ∧ sub = 5) ∧ ¬ (idx = 0x9030 ∧ sub = 2) then
    some 0x0502
  else none

/-- Step 4 of 14 R471 for an operation that reads. -/
def readPathCheck (s : State) (e : Entry) (q : Req) : Option Nat :=
  if wrongKeystone s q ∨ (q.path = 2 ∧ e.mapOff.isNone) then some 0x0502 else none

/-- Steps 5 to 9 of 14 R471 for a WRITE. -/
def writeCheck (s : State) (e : Entry) (q : Req) : Option Nat :=
  if e.acc = .ro then some 0x0201
  else if q.typ ≠ e.typ then some 0x0301
  else if q.length ≠ e.size ∨ q.frameLen < q.length then some 0x0303
  else match stateCheck s e.states with
    | some c => some c
    | none => if valueOk e q.value then none else some 0x0302

/-- A relayed request from a package that is not the recorded keystone is counted (01 R30). -/
def noteAuthority (s : State) (q : Req) : State := if wrongKeystone s q then count s 0x8040 0x01 else s

/-- The keystone sends the request on to another package of its pond (14 R466). -/
def forwards (s : State) (q : Req) : Bool := q.relay && decide (q.path ≠ 3) && isKeystone s && decide (q.position ≠ gridPos s)

/-- The request goes out on class 0 and waits for its response; a Faulted package relays nothing, and the wait ends in
NO_ANSWER (14 R466, 13 R431, 16 R591). -/
def sendRelay (s : State) (opcode idx sub : Nat) (q : Req) : State :=
  let t := { s with relays := s.relays ++ [{ pos := q.position, opcode := opcode, idx := idx, sub := sub, q := q }] }
  if s.mode = .faulted then t else sendMgmt t q.position (.relay q.position opcode idx sub q)

/-- The server takes a request: it is counted, and a mailbox slot is being served (14 R462, R478). -/
def takeRequest (s : State) (q : Req) : State :=
  if q.path = 2 then s
  else
    let s := count s 0xA0F0 0x01
    if q.path = 1 then { setSlot s q.slot { slotOf s q.slot with busy := true, done := false } with dictQ := s.dictQ.erase q.slot }
    else s

/-- Nothing serves the request: both management processors have failed (16 R591); in Dormant, mapped accesses are discarded
and relays and rings are not served (14 R468). Mapped accesses are the hardware's own (R464). -/
def noServer (s : State) (q : Req) : Bool :=
  if s.mode = .dormant then decide (2 ≤ q.path) else decide (q.path ≠ 2) && !firmwareUp s

/-- What every operation of the dictionary shares: replay, queueing, Dormant, steps 1 to 3 of 14 R471 (`step3` is the verdict
of step 3), and the relay of the keystone; then `body` serves the request (14 R461, R466, R468, R469, R471). -/
def serveFront (opcode idx sub : Nat) (q : Req) (step3 : Option Nat) (body : State → State) (s : State) : State :=
  if noServer s q then s
  else match (if forwards s q then none else remembered s q) with
  | some (seq, code, len, v) =>
    let s := count s 0xA0F0 0x06
    let o := Out.response q.path q.src seq code len v true
    if q.path = 3 then sendMgmt s q.fromPos o else emit s o
  | none =>
    let s := takeRequest s q
    if serverBusy s q then refuse s q idx sub 0x0601
    else if s.mode = .dormant ∧ dormantServes idx sub q.path = false then refuse s q idx sub 0x0101
    else match headCheck s q with
    | some c => refuse s q idx sub c
    | none =>
      match step3 with
      | some c => refuse s q idx sub c
      | none => if forwards s q then sendRelay s opcode idx sub q else body s

/-- Steps 4 to 10 of 14 R471 for a WRITE of an entry, `act` being the entry's own rule. -/
def writeBody (e : Entry) (idx sub : Nat) (q : Req) (act : State → Act) (s : State) : State :=
  match writePathCheck s e idx sub q with
  | some c => refuse (noteAuthority s q) q idx sub c
  | none =>
    match writeCheck s e q with
    | some c => refuse s q idx sub c
    | none =>
      if e.deferred ∧ idx ≠ 0x5030 ∧ s.deferred.any (fun d => d.idx == idx && d.sub == sub && d.result.isNone) then
        refuse s q idx sub 0x0601
      else match act s with
        | .done t => respond t q idx sub 0 0 0
        | .later t => { t with deferred := t.deferred ++ [{ idx := idx, sub := sub, q := q, result := none }] }
        | .refuse c t => refuse t q idx sub c

/-- A dictionary WRITE (14 R471). -/
def serveWrite (idx sub : Nat) (q : Req) (act : State → Act) (s : State) : State :=
  serveFront 1 idx sub q (entryCheck idx sub)
    (fun s => match findEntry idx sub with | some e => writeBody e idx sub q act s | none => s) s

/-- Data of a read: a response, or on path 2 the bytes that the mapped read returns (14 R464, 15 R484). -/
def giveData (s : State) (q : Req) (idx sub len value : Nat) : State :=
  if q.path = 2 then emit (hostTaken s false) (.response 2 q.src q.seq 0 len value false) else respond s q idx sub 0 len value

/-- Steps 4 to 7 of 14 R471 for a READ; `value` is the entry's value and `after` the side effect that its own rule names. -/
def readBody (e : Entry) (idx sub : Nat) (q : Req) (value : State → Nat) (after : State → State) (s : State) : State :=
  match readPathCheck s e q with
  | some c => refuse (noteAuthority s q) q idx sub c
  | none =>
    if e.acc = .wo then refuse s q idx sub 0x0202
    else if q.typ ≠ 0 ∧ q.typ ≠ e.typ then refuse s q idx sub 0x0301
    else if q.length ≠ 0 then refuse s q idx sub 0x0303
    else giveData (after s) q idx sub e.size (value s)

/-- A dictionary READ (14 R454, R458, R471). -/
def serveRead (idx sub : Nat) (q : Req) (value : State → Nat) (after : State → State) (s : State) : State :=
  serveFront 0 idx sub q (entryCheck idx sub)
    (fun s => match findEntry idx sub with | some e => readBody e idx sub q value after s | none => s) s

/-- The default that DESCRIBE shows for the fixed entries (14 R477, R585, 05 R197, 18 R567, 19 R583). -/
def fixedDefault (s : State) (idx sub : Nat) : Option Nat :=
  if idx = 0x1000 ∧ sub = 3 then some s.fuses.serial
  else if idx = 0x1000 ∧ sub = 4 then some s.fuses.stepping
  else if idx = 0x1010 then some s.fuses.mgmtMac
  else if idx = 0x1030 then some (fenceWord s.fuses.factoryFenced (sub - 1))
  else if idx = 0x1040 ∧ sub = 4 then some (s.trayId % 8 + 1)
  else if idx = 0x9010 ∧ sub = 7 then some s.fuses.fusedSecurityVersion
  else none

/-- The attributes of an entry (14 R474). -/
def describeOf (s : State) (e : Entry) (idx sub : Nat) : Nat :=
  match fixedDefault s idx sub with
  | some d => describe { e with dflt := d } sub
  | none => describe e sub

/-- A DESCRIBE (14 R474): answered for every assigned entry, a WO entry too. -/
def serveDescribe (idx sub : Nat) (q : Req) (s : State) : State :=
  serveFront 2 idx sub q (entryCheck idx sub) (fun s =>
    match findEntry idx sub with
    | none => s
    | some e =>
      match readPathCheck s e q with
      | some c => refuse (noteAuthority s q) q idx sub c
      | none =>
        if q.typ ≠ 0 ∧ q.typ ≠ e.typ then refuse s q idx sub 0x0301
        else if q.length ≠ 0 then refuse s q idx sub 0x0303
        else giveData s q idx sub 16 (describeOf s e idx sub)) s

/-- A NEXT (14 R475): the address in the header need not be assigned, and the path is one of 0, 1, 3 and 4. -/
def serveNext (idx sub : Nat) (q : Req) (s : State) : State :=
  serveFront 3 idx sub q none (fun s =>
    if q.path = 2 ∨ wrongKeystone s q then refuse (noteAuthority s q) q idx sub 0x0502
    else if q.typ ≠ 0 ∧ q.typ ≠ 3 then refuse s q idx sub 0x0301
    else if q.length ≠ 0 then refuse s q idx sub 0x0303
    else giveData s q idx sub 4 ((nextEntry idx sub).getD 0xFFFFFFFF)) s

/-- The stored value of an entry with read-only bits: the write leaves them as they are. -/
def mergeRo (ro old new : Nat) : Nat := new - (new &&& ro) + (old &&& ro)

/-- A write replaces the whole entry (14 R454, R471 step 10). -/
def actStore (idx sub : Nat) (q : Req) (s : State) : Act :=
  let c := viewCtx s idx sub q
  let ro := ((findEntry idx sub).map (·.roBits)).getD 0
  .done (setC s c idx sub (mergeRo ro (getC s c idx sub) q.value))

/-- The result of a deferred write is known; its response goes out at DEFERRED_WRITE_COMPLETE (14 R470). -/
def endDeferred (s : State) (idx sub code : Nat) : State :=
  let hit (d : Deferred) : Bool := d.idx == idx && d.sub == sub && d.result.isNone
  let give (d : Deferred) : Deferred := { d with result := some code }
  { s with deferred := mapWhere s.deferred hit give }

end Sys2Proof.Machine
end

