-- ==== Sys2Proof/Machine/Dma.lean ====
section
/-! DEFINITION. The descriptors of the course DMA (05 R179 to R183): their fields, their order, their staging buffers (09 R280), and
their end. -/

namespace Sys2Proof.Machine

/-- Fields of a DMA descriptor (05 R179). -/
def dmaSrc (d : BitVec 256) : Nat := bits 255 192 d.toNat
def dmaDst (d : BitVec 256) : Nat := bits 191 128 d.toNat
def dmaLen (d : BitVec 256) : Nat := bits 127 104 d.toNat
def dmaRows (d : BitVec 256) : Nat := bits 103 92 d.toNat
def dmaSrcStride (d : BitVec 256) : Nat := bits 91 68 d.toNat
def dmaDstStride (d : BitVec 256) : Nat := bits 67 44 d.toNat
def dmaSigStone (d : BitVec 256) : Nat := bits 43 32 d.toNat
def dmaSigObj (d : BitVec 256) : Nat := bits 31 30 d.toNat
def dmaSigEn (d : BitVec 256) : Bool := bit 29 d.toNat
def dmaSrcSpace (d : BitVec 256) : Nat := bits 28 27 d.toNat
def dmaDstSpace (d : BitVec 256) : Nat := bits 26 25 d.toNat

/-- The fixed fields of a descriptor: LENGTH and ROWS nonzero, spaces and reserved bits legal. -/
def dmaFormOk (d : BitVec 256) : Bool :=
  decide (dmaLen d ≠ 0) && decide (dmaRows d ≠ 0) && decide (dmaSrcSpace d ≠ 3) && decide (dmaDstSpace d ≠ 3) &&
    decide (bits 24 0 d.toNat = 0)

/-- The descriptor names host memory, whose requests fail while UMORA_DOWN stands (15 R483). -/
def usesHost (d : BitVec 256) : Bool := decide (dmaSrcSpace d = 1) || decide (dmaDstSpace d = 1)

/-- Row `i` of a descriptor reads or writes the memory of another package. -/
def farRow (s : State) (d : BitVec 256) (i : Nat) : Bool :=
  let far (space a : Nat) : Bool := decide (space = 0) && isFar s a
  far (dmaSrcSpace d) (dmaSrc d + i * dmaSrcStride d) || far (dmaDstSpace d) (dmaDst d + i * dmaDstStride d)

/-- The transfer crosses the fabric, and takes a staging buffer (09 R280). -/
def crosses (s : State) (d : BitVec 256) : Bool := dmaFormOk d && (List.range (dmaRows d)).any (farRow s d)

/-- A descriptor leaves its course DMA: it waits for a buffer no longer, or its staging buffer is released (09 R289). -/
def dropDma (s : State) (m : Dma) : State :=
  let keep (x : Pool) : Pool := if m.waits then { x with waiting := x.waiting.filter (fun r => r.op != .dma m.stone) } else x
  let s := { s with dmas := s.dmas.erase m, pools := s.pools.map (fun p => (p.1, keep p.2)) }
  match m.stage with
  | some h => release s h
  | none => s

/-- A row on its way to or from another package passes through the staging buffer in accesses of at most 4,096 bytes, the last of
which stays there (DESIGN CHOICE, log entry 139). -/
def stagePiece (s : State) (m : Dma) (i : Nat) (row : List Byte) : State :=
  match m.stage with
  | some h =>
    if farRow s m.desc i then sramWrite s (handleStone h.toNat) (handleOff h.toNat) (row.drop ((row.length - 1) / 4096 * 4096)) else s
  | none => s

/-- A descriptor completes with an error: ERROR in place of the increment, DMA_ERROR of class U (05 R183). -/
def dmaError (s : State) (m : Dma) : State :=
  let s := count s 0xA040 0x05
  let s := if dmaSigEn m.desc then errSync s (dmaSigStone m.desc) (dmaSigObj m.desc) else s
  raise1 s 1 0x09 1 (courseOf m.stone) (stoneOf s m.stone).owner 0

/-- The oldest descriptor of a stone, the one that its course DMA is at (05 R181). -/
def oldestDma (s : State) (st : Nat) : Option Dma := s.dmas.find? (fun d => d.stone == st)

def modDma (s : State) (m : Dma) (f : Dma → Dma) : State :=
  { s with dmas := (s.dmas.take (s.dmas.findIdx (· == m))) ++ f m :: (s.dmas.drop (s.dmas.findIdx (· == m) + 1)) }

/-- The stones of a course in the order of its rotation, from the one behind the stone served last. -/
def dmaRound (s : State) (course : Nat) : List Nat :=
  (List.range 64).map (fun i => course * 64 + (tget 63 s.dmaLast course + 1 + i) % 64)

/-- The stone whose oldest descriptor the course DMA serves next (05 R181); one whose descriptor only waits for acknowledgements,
or for a staging buffer (09 R284), is passed over. The rotation goes by whole descriptors (DESIGN CHOICE, log entry 131). -/
def dmaTurn (s : State) (course : Nat) : Option Nat := (dmaRound s course).find? (fun st => (oldestDma s st).any (fun m => !m.moved && !m.waits))

/-- Requests made for something that is gone have nobody who waits for them: those out are answered to no effect, those waiting are
not made. -/
def forgetReqs (gone : Nat → Bool) (x : Sender) : Sender :=
  { x with reqs := mapWhere x.reqs (fun q => gone q.pc) (fun q => { q with pc := 2 ^ 64 }), waitQ := x.waitQ.filter (fun q => !gone q.pc) }

/-- A descriptor ends: with an error, or with its signal (05 R183). -/
def endDma (s : State) (m : Dma) : State :=
  let s := dropDma s m
  if m.failed then dmaError s m
  else if dmaSigEn m.desc ∧ isFenced s (dmaSigStone m.desc) = false then
    settleStone (addSync s (dmaSigStone m.desc) (dmaSigObj m.desc) 1) (dmaSigStone m.desc)
  else s

end Sys2Proof.Machine
end

