-- ==== Sys2Proof/Machine/Kv.lean ====
section
/-! DEFINITION. The records of the paged KV cache (04 R152 to R154, R159), and reads of absent pages (R158). -/

namespace Sys2Proof.Machine

/-- The 16 bytes of stream `i` (04 R152) or of a pool record (04 R159), from the pond table. -/
def kvStreamAddr (s : State) (c i : Nat) : Nat := getC s c 0x4020 0x01 + 16 * i
def kvPoolAddr (s : State) (c p : Nat) : Nat := getC s c 0x4022 0x01 + 16 * p

def pondNat (s : State) (a n : Nat) : Option Nat := (pondRead s a n).map fromLE

def kvPageTable (n : Nat) : Nat := bits 127 83 n
def kvWatermark (n : Nat) : Nat := bits 82 58 n
def kvPageKib (n : Nat) : Nat := bits 57 47 n
def kvPool (n : Nat) : Nat := bits 46 39 n
def kvValid (n : Nat) : Bool := bit 0 n

def kvRing (n : Nat) : Nat := bits 127 83 n
def kvEntries (n : Nat) : Nat := bits 82 59 n
def kvHead (n : Nat) : Nat := bits 58 35 n
def kvTail (n : Nat) : Nat := bits 34 11 n

/-- A pool record with another HEAD and TAIL. -/
def kvPoolWith (n head tail : Nat) : Nat := kvRing n * 2 ^ 83 + kvEntries n * 2 ^ 59 + head % 2 ^ 24 * 2 ^ 35 + tail % 2 ^ 24 * 2 ^ 11

/-- The page-table entry of page `i` of a stream, and its address (04 R153, R154). -/
def kvEntryAddr (stream i : Nat) : Nat := kvPageTable stream + 8 * i
def kvState (e : Nat) : Nat := bits 63 62 e
def kvPageAddr (e : Nat) : Nat := bits 44 10 e * 1024

/-- A page-table entry: STATE and page address. -/
def kvEntry (state addr : Nat) : Nat := state * 2 ^ 62 + bits 44 10 addr * 1024

/-- The pages of a stream's page table that are absent, as ranges of pond addresses (04 R153, R154). -/
def absentPages (s : State) (stream : Nat) : List (Nat × Nat) :=
  (List.range 262144).filterMap (fun i =>
    match pondNat s (kvEntryAddr stream i) 8 with
    | some e => if kvState e = 0 then some (kvPageAddr e, kvPageKib stream * 1024) else none
    | none => none)

/-- A LOAD of a context reads an absent KV page: its address is one that 04 R154 forms from an absent entry of a stream in use
(DEDUCED, log entry 132: the reads of R158 are the MEMORY LOADs of the attention program). -/
def readsAbsent (s : State) (c a n : Nat) : Bool :=
  (List.range (getC s c 0x4020 0x02)).any (fun i =>
    match pondNat s (kvStreamAddr s c i) 16 with
    | some d => kvValid d && (absentPages s d).any (fun r => overlap r (a, n))
    | none => false)

end Sys2Proof.Machine
end

