-- ==== Sys2Proof/Machine/Pond.lean ====
section
/-! DEFINITION. Pond memory (11): senders and their requests, the MEMORY instructions, the home's service of requests, the
atomic ledger, and responses. -/

namespace Sys2Proof.Machine

/-! ### Senders (11 R349, R361) -/

/-- Key of a sender: UNIT_KIND and UNIT. -/
def senderKey (kind unit : Nat) : Nat := kind * 4096 + unit

/-- The slots of a sender (11 R361). -/
def slotsOf (kind : Nat) : Nat := if kind = 3 then 64 else 256

/-- The lowest free slot of a sender. -/
def freeSlotOf (kind : Nat) (x : Sender) : Option Nat :=
  (List.range (slotsOf kind)).find? (fun i => x.reqs.all (fun r => r.slot != i))

/-- The home package of a request: the package of the sender's pond at POSITION, or the package that a lake-window address
names (11 R340, R341). -/
def homeOf (s : State) (a : Nat) : Nat := if bit 63 a then bits 55 42 a else pondOf s * 64 + pondPos a

/-- Reserved address bits are zero (11 R340, R341). -/
def addressOk (a : Nat) : Bool :=
  if bit 63 a then decide (bits 62 56 a = 0) && decide (bits 41 26 a = 0) else pondAddrOk a

def addressOffset (a : Nat) : Nat := if bit 63 a then a % 2 ^ 26 else a % 2 ^ 39

/-- The request overlaps one of the sender's outstanding requests in the same address space (11 R358). -/
def overlapsOwn (x : Sender) (dest : Nat) (lake : Bool) (off n : Nat) : Bool :=
  x.reqs.any (fun r => r.op != 2 && r.dest == dest && r.lake == lake && overlap (r.offset, r.size) (off, n))

/-- The request waits at its sender: no slot, the cap of its home, or an overlap (11 R358, R361). -/
def requestWaits (s : State) (kind unit op dest : Nat) (lake : Bool) (off n : Nat) : Bool :=
  let x := senderOf s (senderKey kind unit)
  (freeSlotOf kind x).isNone || decide ((x.reqs.filter (fun r => r.dest == dest)).length ≥ getE s 0x4060 0x03) ||
    (op != 2 && overlapsOwn x dest lake off n)

/-- CLASS_FIELD of a request (11 R350). -/
def reqField (r : MemReq) : Nat :=
  r.op % 16 * 2 ^ 124 + r.unitKind % 4 * 2 ^ 122 + r.unit % 4096 * 2 ^ 110 + r.slot % 256 * 2 ^ 102 +
    (r.size - 1) % 4096 * 2 ^ 90 + r.seq % 2 ^ 32 * 2 ^ 58 + r.issueT % 65536 * 2 ^ 42 + r.attempt % 4 * 2 ^ 40 +
    b2n r.lake * 2 ^ 39 + r.offset % 2 ^ 39

/-- CLASS_FIELD of a response (11 R351). -/
def respField (r : MemResp) : Nat :=
  r.op % 16 * 2 ^ 124 + r.unitKind % 4 * 2 ^ 122 + r.unit % 4096 * 2 ^ 110 + r.slot % 256 * 2 ^ 102 +
    r.seq % 2 ^ 32 * 2 ^ 70 + r.attempt % 4 * 2 ^ 68 + r.status % 16 * 2 ^ 64 + b2n r.replayed * 2 ^ 63

/-! ### Requests of the course DMA, the millraces and the management processors (11 R349, R350, R361) -/

/-- The reads and writes of at most 4,096 bytes, none across a multiple of 4,096, that cover `n` bytes from an address (11 R350,
R370). -/
def pondPieces (a n : Nat) : List (Nat × Nat) :=
  (List.range ((a + n + 4095) / 4096 - a / 4096)).map (fun i =>
    let b := max a ((a / 4096 + i) * 4096)
    (b, min (a + n) ((a / 4096 + i + 1) * 4096) - b))

/-- The request of an outstanding one, at its present attempt. -/
def reqOf (s : State) (kind unit : Nat) (q : OutReq) : MemReq :=
  { srcPkg := pkgId s, jobTag := s.jobTag, op := q.op, unitKind := kind, unit := unit, slot := q.slot, size := q.size,
    seq := q.seq, issueT := q.issueT, attempt := q.attempt, lake := q.lake, offset := q.offset, targetStone := q.targetStone,
    payload := q.payload }

/-- The wythe at which a unit's request is injected: by its address for a course DMA or a millrace (11 R370), else A. -/
def unitWythe (kind offset : Nat) : Nat := if kind = 1 ∨ kind = 2 then offset / 4096 % 2 else 0

/-- Waiting requests of a unit leave, oldest first, as far as its slots and REQUEST_CAP let them: each takes the next SEQ and the
lowest slot. -/
def pumpUnit (kind unit : Nat) : Nat → State → State
  | 0, s => s
  | f + 1, s =>
    let k := senderKey kind unit
    let x := senderOf s k
    match x.waitQ, freeSlotOf kind x with
    | q :: t, some slot =>
      if (x.reqs.filter (fun r => r.dest == q.dest)).length ≥ getE s 0x4060 0x03 then s
      else
        let q := { q with slot := slot, seq := x.nextSeq, issueT := bits 27 12 (now s) }
        let s := setSender s k { x with nextSeq := (x.nextSeq + 1) % 2 ^ 32, reqs := x.reqs ++ [q], waitQ := t }
        pumpUnit kind unit f (inject s (unitWythe kind q.offset) (mkPacket s q.dest 1 3 0 (reqField (reqOf s kind unit q)) q.payload))
    | _, _ => s

/-- A request that a unit makes for another package: `tag` says what for, `place` where its bytes stand there. -/
def unitReq (s : State) (op tag place a n : Nat) (payload : List Byte) : OutReq :=
  { slot := 0, seq := 0, op := op, dest := homeOf s a, lake := false, offset := addressOffset a, size := n, issueT := 0, attempt := 0,
    targetStone := 0, payload := payload, sramDst := some place, width := n, pc := tag, signal := none }

/-- A unit makes requests, which wait their turn. -/
def unitRequests (s : State) (kind unit : Nat) (qs : List OutReq) : State :=
  let x := senderOf s (senderKey kind unit)
  pumpUnit kind unit (x.waitQ.length + qs.length) (setSender s (senderKey kind unit) { x with waitQ := x.waitQ ++ qs })

/-- The LOADs that read `n` bytes at a pond address of another package; places count from `place`. -/
def loadReqs (s : State) (tag place a n : Nat) : List OutReq :=
  (pondPieces a n).map (fun p => unitReq s 0 tag (place + (p.1 - a)) p.1 p.2 [])

/-- The STOREs that write bytes at a pond address of another package. -/
def storeReqs (s : State) (tag a : Nat) (bs : List Byte) : List OutReq :=
  (pondPieces a bs.length).map (fun p => unitReq s 1 tag (p.1 - a) p.1 p.2 ((bs.drop (p.1 - a)).take p.2))

/-- The bytes at places `i` to `i + n` of what answers have brought. -/
def gotBytes (got : List (Nat × List Byte)) (i n : Nat) : List Byte :=
  (sortBy (·.1) (got.filter (fun g => decide (i ≤ g.1) && decide (g.1 < i + n)))).flatMap (·.2)

/-- A request that no window grants is not performed: it is counted, and the first of each job raises a class C fault (11 R344). -/
def windowMiss (s : State) (off : Nat) : State :=
  let s := count s 0xA070 0x06
  if s.windowFaultSeen then s else raise1 { s with windowFaultSeen := true } 0 0x24 6 0 none off

/-- A unit's own request of `n` bytes at a pond address of this package that its window table refuses. -/
def localMiss (s : State) (a n : Nat) (right : BitVec 128 → Bool) : State :=
  if pondAddrOk a ∧ pondPos a = gridPos s ∧ (translate s s.jobTag (pondOffset a) n right).isNone then windowMiss s (pondOffset a) else s

/-! ### Responses at their sender (11 R351, R352) -/

/-- A descriptor begins: its reads from other packages go out as requests of at most 4,096 bytes, and those from host memory over
Umora Link (05 R181, 11 R361, 15 R484). -/
def beginDma (s : State) (m : Dma) (stage : Option (BitVec 32)) : State :=
  let d := m.desc
  let rows := (List.range (dmaRows d)).map (fun i => (i * dmaLen d, dmaSrc d + i * dmaSrcStride d))
  let far := if dmaFormOk d ∧ dmaSrcSpace d = 0 then rows.filter (fun r => isFar s r.2) else []
  let qs := far.flatMap (fun r => loadReqs s m.stone r.1 r.2 (dmaLen d))
  let s := modDma s m (fun m => { m with started := true, want := qs.length, waits := false, stage := stage })
  let s := unitRequests s 1 (courseOf m.stone) qs
  if dmaFormOk d ∧ dmaSrcSpace d = 1 ∧ s.umora.downFault = false then forEach s rows (fun t r => readHost t r.2 (dmaLen d)) else s

/-- The oldest descriptor of a stone begins, one that crosses the fabric once it has its staging buffer (09 R280, R284). -/
def startDma (s : State) (st : Nat) : State :=
  match oldestDma s st with
  | none => s
  | some m =>
    if m.started || m.waits then s
    else if crosses s m.desc then
      match takeBuffer s (bayOf st) 2 4096 1 (.dma st) with
      | (t, some h) => beginDma t m (some (BitVec.ofNat 32 h))
      | (t, none) => modDma t m (fun m => { m with waits := true })
    else beginDma s m none

/-- A staging buffer has been granted to a stone's descriptor that waits for it. -/
def stageDma (s : State) (st h : Nat) : State :=
  match (oldestDma s st).filter (·.waits) with
  | some m => beginDma s m (some (BitVec.ofNat 32 h))
  | none => release s (BitVec.ofNat 32 h)

/-- A request of a course DMA is answered: its bytes are in hand, a store is acknowledged, or the access was refused, and then the
descriptor's other accesses are not made (05 R183, 11 R352). -/
def dmaAnswered (s : State) (course : Nat) (q : OutReq) (status : Nat) (data : List Byte) : State :=
  match oldestDma s q.pc with
  | none => s
  | some m =>
    let k := senderKey 1 course
    let x := senderOf s k
    let dropped := if status = 0 then [] else x.waitQ.filter (fun r => r.pc == q.pc)
    let s := setSender s k { x with waitQ := x.waitQ.filter (fun r => !dropped.contains r) }
    let n : Dma := { m with want := m.want - 1 - dropped.length, failed := m.failed || decide (status ≠ 0),
                            got := if q.op = 0 then m.got ++ [(q.sramDst.getD 0, data)] else m.got }
    let s := modDma s m (fun _ => n)
    if n.want = 0 ∧ (n.moved ∨ n.failed) then startDma (endDma s n) q.pc else s

/-- A granule's write-back to a place of HOME is refused, which counts as a second uncorrectable read (11 R352, 04 R139): the object is
bad; the choices that wait for it are stranded when the write-back ends. UNIT and DETAIL as for a fill (log entry 130). -/
def storeRefused (s : State) (key a : Nat) : State :=
  raise1 (setWin s key { winOf s key with bad := true, present := false, held := false }) 1 0x21 5 (channelOf (pondOffset a))
    (some (key / 65536)) a

/-- Tags of the requests of gate streams lie above those of objects; a tag names its router. -/
def gatherTag (b no : Nat) : Nat := 2 ^ 40 + no * 16 + b

/-- A read of a gate stream is answered (02 R587): after an UNCORRECTABLE response it is made once more, by the same lane; after a
second one, or another error, the stream fails. -/
def gatherAnswered (s : State) (lane : Nat) (q : OutReq) (status : Nat) (data : List Byte) : State :=
  let b := q.pc % 16
  let r := routerOf s b
  let place := q.sramDst.getD 0
  let mine (g : Gather) : Bool := g.tag == q.pc
  let once : Bool := decide (status = 3) && r.gathers.any (fun g => mine g && !g.again.contains place)
  let k := senderKey 2 lane
  if once then
    let x := senderOf s k
    setRouter (setSender s k { x with waitQ := x.waitQ ++ [{ q with attempt := 0 }] }) b
      { r with gathers := mapWhere r.gathers mine (fun g => { g with again := g.again ++ [place] }) }
  else setRouter s b { r with gathers := mapWhere r.gathers mine (fun g =>
    { g with want := g.want - 1, failed := g.failed || decide (status ≠ 0), got := g.got ++ [(place, data)] }) }

/-- A request of a millrace's lane is answered: bytes of a gate image or of a fill, a granule written back, or an error. -/
def millraceAnswered (s : State) (lane : Nat) (q : OutReq) (status : Nat) (data : List Byte) : State :=
  if 2 ^ 40 ≤ q.pc then gatherAnswered s lane q status data
  else if q.op = 0 then
    { s with fills := mapWhere s.fills (fun f => winKey f.ctx f.obj == q.pc) (fun f =>
      { f with want := f.want - 1, failed := f.failed || decide (status ≠ 0), got := f.got ++ [(q.sramDst.getD 0, data)] }) }
  else if status = 0 then s
  else storeRefused s q.pc (q.dest % 64 * 2 ^ 39 + q.offset)

/-- The tag of requests for an expert's placement block. -/
def tableTag (c layer expert : Nat) : Nat := c * 2 ^ 24 + layer * 65536 + expert + 1

/-- A request of the management processors is answered: the store of a placement update keeps its status (03 R73). -/
def managementAnswered (s : State) (q : OutReq) (status : Nat) : State :=
  let hit (u : PUpdate) : Bool := !u.stored && q.op == 1 && q.pc == tableTag u.ctx u.layer u.expert
  { s with pupdates := mapWhere s.pupdates hit (fun u => { u with answer := some status }) }

/-- The oldest in-flight FENCE of a stone completes once its MEMORY unit has no request left (11 R359). -/
def fenceDone (s : State) (st : Nat) : State :=
  let x := stoneOf s st
  if x.memFence ∧ (senderOf s (senderKey 0 st)).reqs.isEmpty then
    match x.inflight.find? (fun i => i.kind == 30) with
    | some i => completeSlot (modStone s st (fun y => { y with memFence := false })) st i.pc 30 i.signal
    | none => modStone s st (fun y => { y with memFence := false })
  else s

/-- The context stops on a stone whose work in flight has failed: the stone stops behind what it has issued (13 R422). -/
def stopLate (s : State) (st : Nat) : State :=
  match (stoneOf s st).owner with
  | some c => stopCtx (modStone s st (fun x => { x with np := none })) c
  | none => s

/-- The in-flight slot of a request that has ended, which the place of its answer tells from another of the same instruction. -/
def freeRequest (s : State) (st : Nat) (q : OutReq) : State :=
  modStone s st (fun x => { x with
    inflight := x.inflight.eraseP (fun i => i.pc == q.pc && i.kind == 3 && q.sramDst.all (fun off => i.dsts.any (fun d => d.1 == off))) })

/-- A request completes at its sender with a status (11 R352). -/
def completeReq (s : State) (kind unit : Nat) (q : OutReq) (status : Nat) (data : List Byte) : State :=
  let k := senderKey kind unit
  let x := senderOf s k
  let s := setSender s k { x with reqs := x.reqs.filter (fun r => r.slot != q.slot),
                                  expired := tput 0 x.expired q.slot 0 }
  let s := if status = 4 then count s 0xA070 0x05 else s
  if kind = 1 then pumpUnit 1 unit 1 (dmaAnswered s unit q status data)
  else if kind = 2 then pumpUnit 2 unit 1 (millraceAnswered s unit q status data)
  else if kind ≠ 0 then pumpUnit kind unit 1 (managementAnswered s q status)
  else if isFenced s unit then s
  else if status ≠ 0 then
    let s := freeRequest s unit q
    let o := (stoneOf s unit).owner
    let s := { s with memErrors := tput (0, 0, 0) s.memErrors unit (q.offset, q.op, q.seq) }
    fenceDone (raise1 (stopLate s unit) 1 0x0B 0 unit o (16 * q.pc + status)) unit
  else
    let s := match q.sramDst with
      | some off => sramWrite s unit off data
      | none => s
    fenceDone (settleStone (signalDone (freeRequest s unit q) unit q.signal) unit) unit

/-- A response arrives (11 R351): matched by SLOT and SEQ, or discarded and counted. -/
def takeResponse (s : State) (r : MemResp) : State :=
  match (senderOf s (senderKey r.unitKind r.unit)).reqs.find? (fun q => q.slot == r.slot && q.seq == r.seq) with
  | none => count s 0xA070 0x08
  | some q => completeReq s r.unitKind r.unit q r.status (r.payload.take q.width)

/-! ### The home (11 R344 to R348, R363 to R372) -/

/-- The home answers: locally, or with a class 2 packet on the wythe that holds the channel (11 R351, R370). -/
def answer (s : State) (r : MemReq) (status : Nat) (replayed : Bool) (data : List Byte) (wythe : Nat) : State :=
  let m : MemResp := { srcPkg := pkgId s, op := r.op, unitKind := r.unitKind, unit := r.unit, slot := r.slot, seq := r.seq,
                       attempt := r.attempt, status := status, replayed := replayed, payload := data }
  let s := if replayed then count s 0xA070 0x04 else s
  let s := if status = 4 then count s 0xA070 0x05 else s
  if r.srcPkg = pkgId s then takeResponse s m
  else inject s wythe (mkPacket s r.srcPkg 2 (if r.unitKind = 3 then 5 else 0) r.unit (respField m) data)

/-- Age of a request, in units of 4.096 µs (11 R365). -/
def ageOf (s : State) (r : MemReq) : Nat := (bits 27 12 (now s) + 65536 - r.issueT % 65536) % 65536

/-- (age + 2) × 4.096 µs ≥ 4 × ATTEMPT_TIMEOUT: too old to be performed (11 R363, R365). -/
def tooOld (s : State) (r : MemReq) : Bool := decide ((ageOf s r + 2) * 4096 ≥ 4 * getE s 0x4060 0x02 * 1000)

/-- An entry before its expiry; after it, the entry is gone even where its removal is still to come (11 R364). -/
def isLive (s : State) (e : LedgerEnt) : Bool := decide (now s < e.expiry)

/-- The ledger's entry for a request's sender and SEQ (11 R364). -/
def ledgerEntry (s : State) (r : MemReq) : Option LedgerEnt :=
  s.ledger.find? (fun e => isLive s e && e.srcPkg == r.srcPkg && e.unitKind == r.unitKind && e.unit == r.unit && e.seq == r.seq)

/-- Records a performed atomic or SIGNAL with its expiry (11 R364). -/
def ledgerAdd (s : State) (r : MemReq) (old : Nat) : State :=
  { s with ledger := s.ledger ++ [{ srcPkg := r.srcPkg, unitKind := r.unitKind, unit := r.unit, seq := r.seq, old := old,
                                    expiry := now s + getE s 0x4060 0x01 * 1000 }] }

/-- The width in bytes of an atomic (11 R353). -/
def atomicWidth (r : MemReq) : Nat := if r.size = 8 then 8 else 4

/-- The new value of a word (11 R353), by the request's OP 0x4 to 0xE; `a` and `b` are the operands at offsets 0 and 8. -/
def atomicNew (op w old a b : Nat) : Nat :=
  let m := 2 ^ (8 * w)
  match op with
  | 5 => a
  | 6 => if old = a then b else old
  | 7 => (old + a) % m
  | 8 => old &&& a
  | 9 => old ||| a
  | 10 => old ^^^ a
  | 11 => if signed (8 * w) a > signed (8 * w) old then a else old
  | 12 => if signed (8 * w) a < signed (8 * w) old then a else old
  | 13 => max old a
  | 14 => min old a
  | _ => old

/-- The operand of an atomic within its payload: `w` bytes at an offset. -/
def operandAt (r : MemReq) (off w : Nat) : Nat := fromLE ((r.payload.drop off).take w)

/-- A SIGNAL reaches its target on this package (05 R189): the context that holds the stone, else a resident one whose record of the
stone is set aside, else one that is swapped out. -/
def deliverSignal (s : State) (st obj n : Nat) : State :=
  let dropped (t : State) : State := raise1 (count t 0xA040 0x03) 0 0x0A 0 st (stoneOf t st).owner 0
  if isFenced s st then dropped s
  else match (stoneOf s st).owner with
    | some _ => settleStone (addSync s st obj n) st
    | none =>
      let mine := s.ctxs.filter (fun p => isLoaded p.2 && p.2.phys.any (fun q => q.2 == st))
      match (mine.filter (·.2.resident) ++ mine).head? with
      | some (c, x) =>
        if x.resident then settle (modStoneFor s c st (fun y => updateSync y obj (· + BitVec.ofNat 32 n))) c
        else
        let y := tget Stone.initial x.savedStones st
        let y := setSync y obj { syncOf y obj with val := (syncOf y obj).val + BitVec.ofNat 32 n }
        noteRunnable (setCtx s c { x with savedStones := tput Stone.initial x.savedStones st y }) c
      | none => dropped s

/-- The physical offset of a request that passes the checks, or its error status (11 R344, R348, R356). -/
def homeCheck (s : State) (r : MemReq) : Except Nat Nat :=
  let atomic := decide (4 ≤ r.op ∧ r.op ≤ 14)
  let w := atomicWidth r
  if r.op ≠ 0 ∧ r.op ≠ 1 ∧ !atomic then .error 2
  else if r.size = 0 ∨ r.size > 4096 then .error 2
  else if atomic ∧ ((r.size ≠ 4 ∧ r.size ≠ 8) ∨ r.offset % w ≠ 0) then .error 2
  else if r.lake then
    if r.offset / 2 ^ 26 ≠ 0 ∨ r.op = 0 ∨ (r.op = 1 ∧ (r.size > 64 ∨ r.offset % 64 + r.size > 64)) then .error 2
    else if r.jobTag ≠ s.jobTag ∨ r.offset + r.size > getE s 0x4062 0x02 * 2 ^ 20 then .error 1
    else .ok (getE s 0x4062 0x01 * 2 ^ 20 + r.offset)
  else
    match translate s r.jobTag r.offset r.size (if r.op = 0 then winRead else if r.op = 1 then winWrite else winAtomic) with
    | some p => .ok p
    | none => .error 1

/-- WINDOW_FAULT at the home: counted, and the first of each job raises a class C fault (11 R344). -/
def windowFault (s : State) (r : MemReq) : State := answer (windowMiss s r.offset) r 1 false [] 0

/-- The parts of a request, one for each 64-byte line that it touches (11 R371). -/
def lineParts (r : MemReq) (phys : Nat) : Nat → Nat → List LineReq
  | 0, _ => []
  | f + 1, done =>
    if done ≥ r.size then []
    else
      let a := phys + done
      let n := min (r.size - done) (64 - a % 64)
      { line := a / 64, phys := a, len := n, at_ := done, req := r } :: lineParts r phys f (done + n)

/-- Requests queued for a line. -/
def lineDepth (s : State) (line : Nat) : Nat := (s.lineQ.filter (fun q => q.line == line)).length

/-- The hot-line detector (11 R372). -/
def hotLine (s : State) (line : Nat) : State :=
  if lineDepth s line > getE s 0x4060 0x04 ∧ !s.hotLines.contains line then
    let s := { s with hotLines := s.hotLines ++ [line] }
    holdSource (setE (count s 0xA070 0x0B) 0xA070 0x0C (line * 64)) 10
  else s

/-- A checked request joins the queues of its lines. -/
def queueRequest (s : State) (r : MemReq) (phys : Nat) : State :=
  let ps := if 4 ≤ r.op then [{ line := phys / 64, phys := phys, len := r.size, at_ := 0, req := r }]
    else lineParts r phys 66 0
  let s := { s with lineQ := s.lineQ ++ ps,
                    homeReqs := s.homeReqs ++ [{ req := r, left := ps.length, data := [], bad := false }] }
  forEach s ((ps.map (·.line)).dedup) hotLine

/-- The wythe by which the answer to an atomic or a SIGNAL returns: that of the word's channel, or of the target stone (11 R370). -/
def exactWythe (r : MemReq) (phys : Nat) : Nat := if r.op = 2 then wytheOf r.targetStone else channelWythe phys

/-- An atomic or SIGNAL by the procedure of 11 R365: a replay, too old, to wait for a ledger entry (11 R367), or `k`. -/
def exactlyOnce (s : State) (r : MemReq) (phys : Nat) (ledgerOk : Bool) (k : State → State) : State :=
  if ledgerOk = false then answer (raise1 s 1 0x23 6 0 none r.offset) r 4 false [] (exactWythe r phys)
  else match ledgerEntry s r with
    | some e => answer s r 0 true (toLE 8 e.old) (exactWythe r phys)
    | none =>
      if tooOld s r then answer s r 4 false [] (exactWythe r phys)
      else if (s.ledger.filter (isLive s)).length ≥ 65536 then { s with ledgerWait := s.ledgerWait ++ [(r, phys)] }
      else k s

/-- A SIGNAL is performed at its home. -/
def performSignal (s : State) (r : MemReq) : State :=
  let s := count (ledgerAdd s r 0) 0xA070 0x03
  answer (deliverSignal s r.targetStone (r.offset % 4) (operandAt r 0 4)) r 0 false (toLE 8 0) (wytheOf r.targetStone)

/-- A request reaches its home, which checks it and queues it on its lines (11 R363 to R368, R371). -/
def atHome (s : State) (r : MemReq) (ledgerOk : Bool) : State :=
  if r.op = 2 then exactlyOnce s r 0 ledgerOk (fun s => performSignal s r)
  else match homeCheck s r with
    | .error 1 => windowFault s r
    | .error e => answer s r e false [] 0
    | .ok phys =>
      if 4 ≤ r.op then exactlyOnce s r phys ledgerOk (fun s => queueRequest s r phys)
      else if r.op = 1 ∧ tooOld s r then answer s r 4 false [] (channelWythe phys)
      else queueRequest s r phys

/-- The last part of a LOAD or STORE has been performed: the response (11 R371). -/
def finishHome (s : State) (h : HomeReq) (wythe : Nat) : State :=
  let s := { s with homeReqs := s.homeReqs.erase h }
  if h.bad then answer s h.req 3 false [] wythe
  else if h.req.op = 0 then
    answer s h.req 0 false ((List.range h.req.size).map (fun i => tget 0 h.data i)) wythe
  else answer s h.req 0 false [] wythe

/-- A STORE that has grown too old in its line queues is not performed there any more (11 R363; DEDUCED, log entry 145). -/
def tooLate (s : State) (h : HomeReq) (wythe : Nat) : State :=
  let q := s.lineQ.filter (fun q => q.req != h.req)
  answer { s with homeReqs := s.homeReqs.erase h, lineQ := q, hotLines := s.hotLines.filter (fun l => q.any (fun x => x.line == l)) }
    h.req 4 false [] wythe

/-- An atomic is performed on its word (11 R353, R365). -/
def performAtomic (s : State) (r : MemReq) (phys : Nat) : State :=
  let w := atomicWidth r
  let old := fromLE (memRead s phys w)
  let s := memWrite s phys (toLE w (atomicNew r.op w old (operandAt r 0 w) (operandAt r 8 w)))
  let s := count (ledgerAdd s r old) 0xA070 0x03
  answer s r 0 false (toLE 8 old) (channelWythe phys)

/-- Sends a request: to this package's own tier 1 directly, or as a class 1 packet (11 R340, R350, R370). -/
def sendRequest (s : State) (wythe : Nat) (r : MemReq) (dest : Nat) : State :=
  if dest = pkgId s then atHome s r true
  else inject s wythe (mkPacket s dest 1 (if r.op = 2 then 0 else 3) r.targetStone (reqField r) r.payload)

/-- A stone's MEMORY unit, or its SYNC SIGNAL, issues a request (11 R349, R350): it takes the next SEQ and the lowest slot. -/
def issueRequest (s : State) (st op dest : Nat) (lake : Bool) (off n : Nat) (payload : List Byte) (dst : Option Nat)
    (width pc : Nat) (sig : Option Nat) (target : Nat) : State :=
  let k := senderKey 0 st
  let x := senderOf s k
  match freeSlotOf 0 x with
  | none => s
  | some slot =>
    let q : OutReq := { slot := slot, seq := x.nextSeq, op := op, dest := dest, lake := lake, offset := off, size := n,
                        issueT := bits 27 12 (now s), attempt := 0, targetStone := target, payload := payload, sramDst := dst,
                        width := width, pc := pc, signal := sig }
    let s := setSender s k { x with nextSeq := (x.nextSeq + 1) % 2 ^ 32, reqs := x.reqs ++ [q] }
    sendRequest s (wytheOf st) (reqOf s 0 st q) dest

/-! ### The MEMORY instructions (11 R353 to R359) -/

/-- The 64-bit address in the even register n and the one above it. -/
def pairAddr (s : State) (st n : Nat) : Nat := (reg s st n).toNat + 2 ^ 32 * (reg s st (n + 1)).toNat

/-- MEMORY and SYNC instructions wait while a FENCE is open (11 R359). -/
def memIssue (s : State) (st : Nat) (ok : Bool) (srcs dsts : List (Nat × Nat)) (k : State → State) : State :=
  issue s st ok srcs dsts fun s =>
    if (stoneOf s st).memFence then stallOn s st .memFence else k s

/-- LOAD (11 R353): reads up to 4,096 bytes at a pond address into SRAM. -/
def execMemoryLoad (st : Nat) (h : IHdr) (o : Operands) (s : State) : Res := run s fun s =>
  let r := fld 111 108 o
  let n := fld 103 92 o + 1
  let dst := (reg s st (fld 107 104 o)).toNat
  let a := pairAddr s st r
  memIssue s st (headerOk h false && onlyFields [(111, 92)] o && decide (r % 2 = 0)) [] [(dst, n)] fun s =>
    if bit 63 a || !addressOk a || !inSram dst n then failStone s st 0x05
    else if readsAbsent s ((stoneOf s st).owner.getD 0) a n then
      completeNow (count (sramWrite s st dst (List.replicate n 0)) 0xA030 0x0D) st h
    else if requestWaits s 0 st 0 (homeOf s a) false (addressOffset a) n then stallOn s st .request
    else
      let pc := (stoneOf s st).pc
      issueRequest (takeSlot s st 3 [] [(dst, n)] h) st 0 (homeOf s a) false (addressOffset a) n [] (some dst) n pc (sigOf h) 0

/-- FENCE (11 R359): completes when every earlier request of the stone has completed; later MEMORY and SYNC instructions
of the stone wait until then. -/
def execMemoryFence (st : Nat) (h : IHdr) (o : Operands) (s : State) : Res := run s fun s =>
  memIssue s st (headerOk h false && onlyFields [] o) [] [] fun s =>
    let s := takeSlot s st 30 [] [] h
    fenceDone (modStone s st (fun x => { x with memFence := true })) st

/-! ### Events -/

/-- A memory request reaches its home (11 R365). -/
def execMemoryRequestAtHome (r : MemReq) (ledgerOk : Bool) (s : State) : Res := run s fun s => atHome s r ledgerOk

/-- The bytes of a line request that a stone of this package made cross the bridge where the line's channel lies on the other wythe
(01 R22, R24); the wythe on which a request from another package comes in is not kept (log entry 59). -/
def linePass (s : State) (q : LineReq) (n : Nat) (pass : State → Nat → Nat → Nat → State) : State :=
  if q.req.srcPkg = pkgId s ∧ q.req.unitKind = 0 then pass s (wytheOf q.req.unit) q.phys n else s

/-- A line request of a LOAD or a STORE is performed: a store writes its bytes but for a partial store whose read failed,
and a load takes them (11 R352, R371). The request is answered with its last line. -/
def performLine (s : State) (q : LineReq) (h : HomeReq) (readOk : Bool) : State :=
  let s := linePass s q q.len (if q.req.op = 0 then loadPass else storePass)
  let bad := !readOk && (decide (q.req.op = 0) || (decide (q.req.op = 1) && (decide (q.phys % 8 ≠ 0) || decide (q.len % 8 ≠ 0))))
  let s := if q.req.op = 1 ∧ bad = false then memWrite s q.phys ((q.req.payload.drop q.at_).take q.len) else s
  let data := if q.req.op = 0 ∧ readOk then (List.range q.len).map (fun i => (q.at_ + i, memByte s (q.phys + i))) else []
  let h' : HomeReq := { h with left := h.left - 1, data := data.foldl (fun t p => tins t p.1 p.2) h.data,
                               bad := h.bad || bad }
  let s := { s with homeReqs := mapWhere s.homeReqs (· == h) (fun _ => h') }
  if h'.left = 0 then finishHome (count s 0xA070 (if q.req.op = 0 then 1 else 2)) h' (channelWythe q.phys) else s

/-- A line request of an atomic is performed once (11 R353, R365). -/
def performAtomicLine (s : State) (q : LineReq) (h : HomeReq) (readOk : Bool) : State :=
  exactlyOnce { s with homeReqs := s.homeReqs.erase h } q.req q.phys true fun s =>
    let s := linePass (linePass s q q.req.payload.length storePass) q 8 loadPass
    if readOk then performAtomic s q.req q.phys else answer s q.req 3 false [] (channelWythe q.phys)

/-- The oldest request queued for a line is performed (11 R371); `readOk` is false where its read meets an uncorrectable
error, which raises a class U fault at the home (11 R352). A STORE that has grown too old is answered unperformed (11 R363). -/
def execLineRequestPerformed (line : Nat) (readOk : Bool) (s : State) : Res := run s fun s =>
  match s.lineQ.find? (fun q => q.line == line) with
  | none => s
  | some q =>
    let s := { s with lineQ := s.lineQ.erase q }
    let s := if lineDepth s line = 0 then { s with hotLines := s.hotLines.filter (· != line) } else s
    match s.homeReqs.find? (fun h => h.req == q.req) with
    | none => s
    | some h =>
      let s := if readOk then s else raise1 s 1 0x21 5 (channelOf q.phys) none q.phys
      if 4 ≤ q.req.op then performAtomicLine s q h readOk
      else if q.req.op = 1 ∧ tooOld s q.req then tooLate s h (channelWythe q.phys)
      else performLine s q h readOk

/-- A response arrives at its sender (11 R351). -/
def execMemoryResponse (r : MemResp) (s : State) : Res := run s fun s => takeResponse s r

/-- ATTEMPT_TIMEOUT expires for an outstanding request (11 R362, R370). -/
def execAttemptTimeoutExpiry (unitKind unit slot : Nat) (s : State) : Res := run s fun s =>
  let k := senderKey unitKind unit
  let x := senderOf s k
  match x.reqs.find? (fun q => q.slot == slot) with
  | none => s
  | some q =>
    if q.op = 1 then
      let n := tget 0 x.expired slot + 1
      if n ≥ 4 then completeReq s unitKind unit q 4 []
      else setSender s k { x with expired := tput 0 x.expired slot n }
    else if q.attempt < 3 then
      let q' := { q with attempt := q.attempt + 1 }
      let s := setSender s k { x with reqs := mapWhere x.reqs (fun r => r.slot == slot) (fun _ => q') }
      let wythe := if unitKind = 0 then wytheOf unit else unitWythe unitKind q.offset
      sendRequest (count s 0xA070 0x07) wythe (reqOf s unitKind unit q') q.dest
    else completeReq s unitKind unit q (if q.op = 0 then 5 else 4) []

/-- A ledger entry reaches its expiry and is removed; a request that waited for one is taken (11 R364, R367). -/
def execLedgerEntryExpiry (srcPkg unitKind unit seq : Nat) (s : State) : Res := run s fun s =>
  match s.ledger.find? (fun e => e.srcPkg == srcPkg && e.unitKind == unitKind && e.unit == unit && e.seq == seq) with
  | none => s
  | some e =>
    if now s < e.expiry then s
    else
      let s := { s with ledger := s.ledger.erase e }
      match s.ledgerWait with
      | [] => s
      | (r, phys) :: t => exactlyOnce { s with ledgerWait := t } r phys true (fun s => if r.op = 2 then performSignal s r else queueRequest s r phys)

end Sys2Proof.Machine
end

