-- ==== Sys2Proof/Machine/Tiers.lean ====
section
/-! DEFINITION. Memory tiers (04): the object table, fetch requests, dirty granules and write-back, the paged KV cache, and
the writes of their entries. -/

namespace Sys2Proof.Machine

/-! ### The object table (04 R125 to R129) -/

/-- A placement descriptor from its 32 bytes (04 R126). -/
def unpackObj (n : Nat) : ObjDesc :=
  { home := bits 255 192 n, sizeKib := bits 191 160 n, firstStone := bits 159 148 n, span := bits 147 145 n,
    sramKib := bits 144 137 n, expert := bits 127 112 n, layer := bits 111 104 n, shadow := bits 103 88 n,
    kind := bits 87 84 n, mode := bits 83 82 n, tier := bits 81 80 n, dirtyTrack := bit 79 n, valid := bit 78 n,
    software := bits 63 0 n, resv := bits 136 128 n * 2 ^ 14 + bits 77 64 n }

/-- The granules of a stone that the program itself uses: its instruction list from offset 0 on, and those it declares. -/
def stoneGranules (t : ImgStone) : List Nat := (t.granules ++ granulesOf 0 (16 * t.words.length)).dedup

/-- The 32 bytes of a placement descriptor (04 R126). -/
def packObj (d : ObjDesc) : Nat :=
  d.home % 2 ^ 64 * 2 ^ 192 + d.sizeKib % 2 ^ 32 * 2 ^ 160 + d.firstStone % 4096 * 2 ^ 148 + d.span % 8 * 2 ^ 145 +
    d.sramKib % 256 * 2 ^ 137 + d.expert % 65536 * 2 ^ 112 + d.layer % 256 * 2 ^ 104 + d.shadow % 65536 * 2 ^ 88 +
    d.kind % 16 * 2 ^ 84 + d.mode % 4 * 2 ^ 82 + d.tier % 4 * 2 ^ 80 + b2n d.dirtyTrack * 2 ^ 79 + b2n d.valid * 2 ^ 78 +
    d.software % 2 ^ 64

/-- The part reads an object's descriptor from the table at OBJECT_TABLE. -/
def objOf (s : State) (c n : Nat) : ObjDesc := unpackObj (fromLE (memRead s (getC s c 0x4010 0x01 + 32 * n) 32))

def objCount (s : State) (c : Nat) : Nat := getC s c 0x4010 0x02

/-- All objects of a context with their numbers. -/
def objectsOf (s : State) (c : Nat) : List (Nat × ObjDesc) := (List.range (objCount s c)).map (fun n => (n, objOf s c n))

/-- Stones of an object's window, KiB on each stone. -/
def winStones (d : ObjDesc) : Nat := 2 ^ d.span
def winKib (d : ObjDesc) : Nat := d.sizeKib / 2 ^ d.span

/-- Two windows share a byte of SRAM; spilled objects have none. -/
def windowsMeet (a b : ObjDesc) : Bool :=
  decide (a.mode ≠ 2) && decide (b.mode ≠ 2) && overlap (a.firstStone, winStones a) (b.firstStone, winStones b) &&
    overlap (a.sramKib, winKib a) (b.sramKib, winKib b)

/-- The per-descriptor conditions of 04 R128, with the ranges of 04 R126. -/
def objFormOk (d : ObjDesc) : Bool :=
  decide (d.resv = 0) && decide (d.kind ≤ 7) && decide (d.mode ≤ 2) && decide (1 ≤ d.tier) && decide (1 ≤ d.sizeKib) &&
    decide (d.home % 1024 = 0) && decide (d.span ≤ 6) && (decide (d.mode = 2) || decide (d.sramKib + winKib d ≤ 256)) &&
    (if d.mode = 2 then decide (d.firstStone = 0) && decide (d.span = 0) && decide (d.sramKib = 0)
     else decide (d.sizeKib % 2 ^ d.span = 0) && decide (d.firstStone % 2 ^ d.span = 0)) &&
    (decide (d.kind ≠ 1) || decide (d.mode = 0))

/-- The conditions of 04 R128 among the valid descriptors of a table. -/
def tableFormOk (l : List (Nat × ObjDesc)) : Bool :=
  let v := l.filter (fun p => p.2.valid)
  v.all (fun p => objFormOk p.2 &&
    (decide (p.2.shadow = 0xFFFF) || v.any (fun q => q.1 == p.2.shadow && q.2.kind == 1 && q.2.firstStone == p.2.firstStone &&
      q.2.span == p.2.span))) &&
    v.all (fun p => v.all (fun q => p.1 == q.1 || !(p.2.mode == 1 && q.2.mode == 1 && p.2.kind == 0 && q.2.kind == 0 &&
      p.2.layer == q.2.layer && p.2.firstStone == q.2.firstStone)))

/-- Windows that overlap where 04 R128 forbids it: these are refused with NO_SRAM. `rings` are
(stone, first KiB, KiB) of queue rings and other program use. -/
def tableFits (l : List (Nat × ObjDesc)) (rings : List (Nat × Nat × Nat)) : Bool :=
  let v := l.filter (fun p => p.2.valid && p.2.mode != 2)
  v.all (fun p => decide (p.2.firstStone + winStones p.2 ≤ 4096)) &&
    v.all (fun p => v.all (fun q => p.1 == q.1 || !(p.2.mode == 0 && windowsMeet p.2 q.2))) &&
    v.all (fun p => rings.all (fun r => !(decide (p.2.firstStone ≤ r.1) && decide (r.1 < p.2.firstStone + winStones p.2) &&
      overlap (p.2.sramKib, winKib p.2) (r.2.1, r.2.2))))

/-- The weight object of (layer, first stone) of a context: streamed or pinned KIND 0 (04 R128). -/
def weightObj (s : State) (c layer first expert : Nat) : Option (Nat × ObjDesc) :=
  (objectsOf s c).find? (fun p => p.2.valid && p.2.kind == 0 && p.2.mode != 2 && p.2.layer == layer &&
    p.2.firstStone == first && p.2.expert == expert)

/-! ### Fetch requests (04 R134, R135) -/

/-- The place in age of the requests that one command raises: behind every queued one. -/
def nextOrd (s : State) : Nat := (s.fetchQ ++ s.fetchHeld).foldl (fun m f => max m (f.age + 1)) 0

/-- The queue of a wythe's millrace: requests whose object's FIRST_STONE lies on it. -/
def millraceQ (s : State) (w : Nat) : List Fetch := s.fetchQ.filter (fun f => wytheOf (objOf s f.ctx f.obj).firstStone == w)

def isFetchOf (c obj : Nat) (f : Fetch) : Bool := f.ctx == c && f.obj == obj

/-- A fetch request is raised: merged into a queued one, which moves to the better class, or queued, or held by the unit that raises
it while its millrace holds 1,024 requests (04 R135). -/
def raiseFetch (s : State) (c obj cls ord : Nat) : State :=
  let f : Fetch := { ctx := c, obj := obj, cls := cls, age := ord }
  if s.fetchQ.any (isFetchOf c obj) then
    { s with fetchQ := mapWhere s.fetchQ (isFetchOf c obj) (fun f => { f with cls := min f.cls cls }) }
  else if (millraceQ s (wytheOf (objOf s c obj).firstStone)).length < 1024 then { s with fetchQ := s.fetchQ ++ [f] }
  else { s with fetchHeld := s.fetchHeld ++ [f] }

/-- A held request for a wythe's millrace enters its queue, once that has room (04 R135). -/
def feedFetch (s : State) (w : Nat) : State :=
  match s.fetchHeld.find? (fun f => wytheOf (objOf s f.ctx f.obj).firstStone == w) with
  | some f => raiseFetch { s with fetchHeld := s.fetchHeld.erase f } f.ctx f.obj f.cls f.age
  | none => s

/-- Other streamed objects whose window shares bytes with the object's (04 R138). -/
def occupants (s : State) (c obj : Nat) : List (Nat × Nat) :=
  (loadedCtxs s).flatMap (fun k => ((objectsOf s k).filter (fun p =>
    !(k == c && p.1 == obj) && p.2.valid && p.2.mode == 1 && windowsMeet p.2 (objOf s c obj))).map (fun p => (k, p.1)))

/-- KiB of a context's stones that its program and its queue rings use: (stone, first KiB, KiB). -/
def programUse (s : State) (c : Nat) : List (Nat × Nat × Nat) :=
  match (ctxOf s c).image with
  | none => []
  | some i => i.stones.flatMap (fun t => (stoneGranules t).map (fun g => (physOf s c t.stone, g, 1))) ++
      i.rings.map (fun r => (physOf s c r.1, r.2.1, r.2.2))

/-- The windows of a list of objects: (stone, first KiB, KiB). -/
def windowUse (l : List (Nat × ObjDesc)) : List (Nat × Nat × Nat) :=
  (l.filter (fun p => p.2.valid && p.2.mode != 2)).flatMap (fun p => (List.range (winStones p.2)).map (fun k =>
    (p.2.firstStone + k, p.2.sramKib, winKib p.2)))

def useMeets (a b : Nat × Nat × Nat) : Bool := a.1 == b.1 && overlap a.2 b.2

/-- A context that leaves tier 0 still holds bytes of the object's window (04 R138, R162). -/
def windowHeld (s : State) (c obj : Nat) : Bool :=
  let w := windowUse [(obj, objOf s c obj)]
  s.ctxs.any (fun p => p.1 != c && p.2.resident && (decide (p.2.state = .swappingOut) || decide (p.2.state = .unloading)) &&
    (programUse s p.1 ++ windowUse (objectsOf s p.1)).any (fun u => w.any (useMeets u)))

/-- A context's windows can be filled: it has tier 0 or is coming in. A request of a swapped context waits (DESIGN CHOICE, log entry
129). -/
def inTier0 (x : Ctx) : Bool := x.resident || decide (x.state = .swappingIn)

/-- A request can be served: its context has tier 0, no earlier occupant holds the window or is being filled there, and no write-back
of the object is under way (04 R138, R151). -/
def canServe (s : State) (f : Fetch) : Bool :=
  !(s.writebacks.contains (f.ctx, f.obj)) && inTier0 (ctxOf s f.ctx) && !windowHeld s f.ctx f.obj &&
    (occupants s f.ctx f.obj).all (fun o =>
      !(winOf s (winKey o.1 o.2)).held && !(s.fills.any (fun g => g.ctx == o.1 && g.obj == o.2)))

/-- The request that a millrace serves next: by class, then the oldest, then the lowest object number (04 R135). One whose window is
still held or written back is passed over, and does not block those behind it (DESIGN CHOICE, log entry 129). -/
def nextFetch (s : State) (w : Nat) : Option Fetch :=
  minBy (fun f => (f.cls * 2 ^ 64 + f.age) * 65536 + f.obj) ((millraceQ s w).filter (canServe s))

/-! ### Dirty granules and write-back (04 R148 to R150) -/

/-- The granules of an object's window: (stone, granule, KiB offset within the object). -/
def windowGranules (d : ObjDesc) : List (Nat × Nat × Nat) :=
  (List.range (winStones d)).flatMap (fun i => (List.range (winKib d)).map (fun g =>
    (d.firstStone + i, d.sramKib + g, i * winKib d + g)))

def isDirty (s : State) (st g : Nat) : Bool := (stoneOf s st).dirty.contains g

def clearDirty (s : State) (st g : Nat) : State := modStone s st (fun x => { x with dirty := x.dirty.filter (· != g) })

/-- Bytes of the own tier 1 that are read in pieces, each through a window of its own; none where one is refused (11 R344, R350). -/
def pondReadAll (s : State) (a n : Nat) : Option (List Byte) :=
  (pondPieces a n).foldl (fun acc p => match acc, pondRead s p.1 p.2 with
    | some l, some b => some (l ++ b)
    | _, _ => none) (some [])

/-- The lanes of a wythe's millrace make requests, each those of its addresses (11 R349; DESIGN CHOICE, log entry 131). -/
def laneRequests (s : State) (w : Nat) (qs : List OutReq) : State :=
  forEach s (List.range 4) (fun t l => unitRequests t 2 (4 * w + l) (qs.filter (fun q => q.offset / 4096 % 4 == l)))

/-- Requests of a wythe's millrace for an object that are out or waiting. -/
def laneOut (s : State) (w tag op : Nat) : Nat :=
  ((List.range 4).map (fun l =>
    let x := senderOf s (senderKey 2 (4 * w + l))
    ((x.reqs ++ x.waitQ).filter (fun q => q.pc == tag && q.op == op)).length)).sum

/-- The tier-1 bytes of the pieces of a range cross the bridge where their channels lie on the other wythe than the unit's. -/
def passPieces (s : State) (w a n : Nat) (right : BitVec 128 → Bool) (k : State → Nat → Nat → Nat → State) : State :=
  forEach s (pondPieces a n) (fun t p => match translate t t.jobTag (pondOffset p.1) p.2 right with
    | some q => k t w q p.2
    | none => t)

/-- A write by a unit of the part: into its own tier 1, where its window table grants it, or as STOREs of the management processors to
another package (04 R155; the sender is a DESIGN CHOICE, log entry 131). -/
def pondStore (s : State) (a : Nat) (bs : List Byte) : State :=
  if isFar s a then unitRequests s 3 0 (storeReqs s 0 a bs)
  else match pondWrite s a bs with
    | some t => t
    | none => localMiss s a bs.length winWrite

/-- A granule goes to HOME (04 R149): tier 3 over Umora Link, tier 1 of this package, or as STOREs of the millrace. -/
def toHome (s : State) (c obj : Nat) (d : ObjDesc) (off : Nat) (bs : List Byte) : State :=
  let w := wytheOf d.firstStone
  if d.tier = 3 then emit s (.hostWrite (d.home + off) bs)
  else if isFar s (d.home + off) then laneRequests s w (storeReqs s (winKey c obj) (d.home + off) bs)
  else match pondWrite s (d.home + off) bs with
    | some t => passPieces t w (d.home + off) bs.length winWrite storePass
    | none => storeRefused (localMiss s (d.home + off) bs.length winWrite) (winKey c obj) (d.home + off)

/-- The object has its window now: it is pinned or streamed, its context holds tier 0, and a streamed one is filled. -/
def windowLive (s : State) (c obj : Nat) (d : ObjDesc) : Bool :=
  d.valid && d.mode != 2 && (ctxOf s c).resident && (d.mode == 0 || (winOf s (winKey c obj)).present)

/-- The dirty granules of an object in its window are taken for write-back and their bits cleared (04 R149, R150); the SRAM of a
fenced stone is not read (05 R193). -/
def writeBack (s : State) (c obj : Nat) : State :=
  let d := objOf s c obj
  let gs := if windowLive s c obj d = false then [] else (windowGranules d).filter (fun g => isDirty s g.1 g.2.1 && !isFenced s g.1)
  if gs.isEmpty then s
  else
    let s := forEach s gs (fun t g =>
      countBy (clearDirty (toHome t c obj d (g.2.2 * 1024) (sramRead t g.1 (g.2.1 * 1024) 1024)) g.1 g.2.1) 0xA030 0x09 1024)
    { s with writebacks := if s.writebacks.contains (c, obj) then s.writebacks else s.writebacks ++ [(c, obj)] }

/-- The dirty granules of a window are discarded (04 R149). -/
def discardDirty (s : State) (c obj : Nat) : State :=
  forEach s (windowGranules (objOf s c obj)) (fun t g => clearDirty t g.1 g.2.1)

/-- A window is released to a later fill; before it, its occupant's dirty granules are written back or discarded (04 R138). -/
def evictOccupant (s : State) (o : Nat × Nat) : State :=
  let s := if (objOf s o.1 o.2).dirtyTrack then writeBack s o.1 o.2 else discardDirty s o.1 o.2
  setWin s (winKey o.1 o.2) { winOf s (winKey o.1 o.2) with present := false }

/-- Work of the object's replica has not ended, so its filled window is held for it (04 R138): choices that have not run, or
claims that wait for their admission (log entry 110). -/
def runHolds (s : State) (c obj : Nat) : Bool :=
  let d := objOf s c obj
  let here (x : Claim) : Bool := x.choice.ctx == c && x.choice.layer == d.layer && x.rep.firstStone == d.firstStone
  decide (d.kind = 0) && (s.claims.any here || s.admitted.any (fun a => here a.claim && !a.ran && a.claim.choice.status != 7))

/-- The delivery entry of an aqueduct that ends at a wythe's millrace, if the driver has set one up (04 R137, 10 R319): its key. -/
def fillAqueduct (s : State) (w : Nat) : Option Nat :=
  (s.aqs.find? (fun p => bit 82 p.2.toNat && bits 127 122 p.2.toNat == 0x21 && bits 84 83 p.2.toNat == 0 &&
    (if p.1 / 256 < 32 then p.1 / 256 / 16 else p.1 / 256 % 2) == w)).map (·.1)

/-- A fill begins (04 R137): a tier-3 home is read over Umora Link, unless the link is down (15 R483); that of another package through an
aqueduct to the millrace where there is one, else by LOADs of the millrace's lanes. Which object an aqueduct serves the manual
leaves open (DESIGN CHOICE, log entry 133). -/
def beginFill (s : State) (w c obj : Nat) : State :=
  let d := objOf s c obj
  let n := d.sizeKib * 1024
  let far := decide (d.tier ≠ 3) && isFar s d.home && (fillAqueduct s w).isNone
  let qs := if far then loadReqs s (winKey c obj) 0 d.home n else []
  let s := { s with fills := s.fills ++ [{ ctx := c, obj := obj, want := qs.length, got := [], failed := decide (d.tier = 3) && s.umora.downFault }] }
  if d.tier = 3 then (if s.umora.downFault then s else readHost s d.home n) else laneRequests s w qs

/-- FILL_START: the millrace serves the request at the head of its order (04 R135, R136, R138): a hit completes at once;
otherwise the earlier occupants' granules are dealt with and the fill begins. -/
def execFillStart (wythe ctx obj : Nat) (s : State) : Res := run s fun s =>
  match nextFetch s wythe with
  | none => s
  | some f =>
    if f.ctx ≠ ctx ∨ f.obj ≠ obj then s
    else
      let k := winKey ctx obj
      let s := feedFetch { s with fetchQ := s.fetchQ.erase f } wythe
      let s := count s 0xA030 0x01
      if (winOf s k).present then count (setWin s k { winOf s k with held := runHolds s ctx obj }) 0xA030 0x02
      else
        let s := forEach s ((occupants s ctx obj).filter (fun o => (winOf s (winKey o.1 o.2)).present)) evictOccupant
        beginFill s wythe ctx obj

/-- FLUSH instructions of a context's stones that wait for an object: (stone, slot). -/
def flushWaits (s : State) (c obj : Nat) : List (Nat × InFl) :=
  (ctxStones s c).flatMap (fun st => ((stoneOf s st).inflight.filter (fun i => i.kind == 8 && i.srcs == [(obj, 0)])).map (fun i => (st, i)))

/-! ### Placement commands (04 R131, R132, R149) -/

/-- PLACE_OBJECT of object `n` of context `c`. `rings` are the queue rings that windows must not meet. -/
def placeObject (c n : Nat) (rings : State → Nat → List (Nat × Nat × Nat)) (replicasOk : State → Nat → List (Nat × ObjDesc) → Bool)
    (s : State) : Act :=
  let old := objOf s c n
  let d := unpackObj (getE s 0x4012 0x02)
  if getE s 0x4001 0x01 = 0 then .refuse 0x0201 s
  else if n ≥ objCount s c then .refuse 0x0302 s
  else if (old.valid ∧ old.mode = 0 ∧ (ctxOf s c).resident) ∨
      (old.valid ∧ old.mode = 1 ∧ ((s.fetchQ ++ s.fetchHeld).any (isFetchOf c n) ||
        s.fills.any (fun f => f.ctx == c && f.obj == n))) ∨
      (winOf s (winKey c n)).held ∨ s.writebacks.contains (c, n) then .refuse 0x0601 s
  else
    let l := mapWhere (objectsOf s c) (fun p => p.1 == n) (fun p => (p.1, d))
    if d.valid ∧ !(decide (d.resv = 0) && tableFormOk l && replicasOk s c l) then .refuse 0x0302 s
    else if d.resv ≠ 0 then .refuse 0x0302 s
    else if d.valid ∧ !tableFits l (rings s c) then .refuse 0x0401 s
    else
      let s := if old.valid ∧ old.mode = 1 ∧ (winOf s (winKey c n)).present then evictOccupant s (c, n) else s
      let away (g : Nat × Nat) : Bool := old.valid && (windowUse [(n, old)]).any (useMeets (g.1, g.2, 1))
      let s := modCtx s c (fun x => { x with
        intact := x.intact.filter (fun g => !away g), savedPinned := x.savedPinned.filter (fun g => !away g) })
      let s := memWrite s (getC s c 0x4010 0x01 + 32 * n) (toLE 32 (packObj d))
      .done (setWin s (winKey c n) { winOf s (winKey c n) with bad := false, present := false })

/-- FLUSH_OBJECT (04 R149): refused with READ_ONLY under static placement (04 R131). -/
def flushObject (c n : Nat) (s : State) : Act :=
  if getE s 0x4001 0x01 = 0 then .refuse 0x0201 s
  else if n ≥ objCount s c ∨ (objOf s c n).valid = false then .refuse 0x0302 s
  else .done (writeBack s c n)

def actFlushObject (q : Req) (s : State) : Act := flushObject (viewCtx s 0x4014 0x01 q) q.value s

def execFlushObject (q : Req) (s : State) : Res := run s (serveWrite 0x4014 0x01 q (actFlushObject q))

/-! ### The paged KV cache (04 R152 to R159) -/

/-- A write by the part of a value in its own tables. -/
def pondPut (s : State) (a n v : Nat) : State := pondStore s a (toLE n v)

/-- A stone's KV bytes reach their page; what lies on the other wythe crosses the bridge (01 R22, R24). -/
def kvStore (s : State) (st a : Nat) (bs : List Byte) : State :=
  let t := pondStore s a bs
  if isFar s a then t else passPieces t (wytheOf st) a bs.length winWrite storePass

/-- Takes a page from a stream's pool (04 R155): none where the pool is empty. -/
def kvTake (s : State) (c stream : Nat) : Option (State × Nat) :=
  let pa := kvPoolAddr s c (kvPool stream)
  match pondNat s pa 16 with
  | none => none
  | some r =>
    if kvHead r = kvTail r ∨ kvEntries r = 0 then none
    else match pondNat s (kvRing r + 8 * kvHead r) 8 with
      | none => none
      | some page => some (pondPut s pa 16 (kvPoolWith r ((kvHead r + 1) % kvEntries r) (kvTail r)), page)

/-- A KV write of bytes at an offset within position `pos` (04 R154, R155); false where it must wait for an empty pool. -/
def kvPut (s : State) (c st i pos off : Nat) (bs : List Byte) : State × Bool :=
  match pondNat s (kvStreamAddr s c i) 16 with
  | none => (s, true)
  | some d =>
    if pos < kvWatermark d then
      (raise1 (count s 0xA030 0x0C) 1 0x16 0 st (some c) (i * 2 ^ 32 + pos), true)
    else
      let ea := kvEntryAddr d (pos / 64)
      match pondNat s ea 8 with
      | none => (s, true)
      | some e =>
        let at_ (addr : Nat) : Nat := addr + pos % 64 * 16 * kvPageKib d + off
        if kvState e ≠ 0 then (kvStore s st (at_ (kvPageAddr e)) bs, true)
        else match kvTake s c d with
          | none => (s, false)
          | some (t, page) =>
            let t := pondPut t ea 8 (kvEntry 1 page)
            (kvStore t st (at_ (kvPageAddr (kvEntry 1 page))) bs, true)

/-- KV_WRITE (04 R155): on an empty pool the write waits, the stone is blocked and KV_POOL_EMPTY is held. -/
def execKvWrite (st stream pos off : Nat) (bytes : List Byte) (s : State) : Res := run s fun s =>
  match (stoneOf s st).owner with
  | none => s
  | some c =>
    match kvPut s c st stream pos off bytes with
    | (t, true) => t
    | (t, false) =>
      let t := { t with kvWaits := t.kvWaits ++ [{ ctx := c, stone := st, stream := stream, pos := pos, off := off, bytes := bytes }] }
      stallOn t st .kvPool

/-- Waiting KV writes of a context are tried again in order; a stone with none left goes on (04 R155, R159). -/
def kvRetry (s : State) (c : Nat) : State :=
  forEach s (s.kvWaits.filter (fun w => w.ctx == c)) (fun t w =>
    match kvPut t c w.stone w.stream w.pos w.off w.bytes with
    | (u, true) =>
      let u := { u with kvWaits := u.kvWaits.erase w }
      if u.kvWaits.any (fun v => v.stone == w.stone) then u
      else settle (modStoneFor u c w.stone (fun x => { x with stall := if x.stall = some .kvPool then none else x.stall })) c
    | (_, false) => t)

/-- KV_POOL_TAIL (04 R159, R163): bits 31:24 the pool, bits 23:0 the new TAIL, which lies below the pool's ENTRIES. -/
def actKvPoolTail (q : Req) (s : State) : Act :=
  let c := viewCtx s 0x4023 0x00 q
  let pa := kvPoolAddr s c (bits 31 24 q.value)
  match pondNat s pa 16 with
  | none => .done s
  | some r =>
    if bits 23 0 q.value ≥ kvEntries r then .refuse 0x0302 s
    else .done (kvRetry (pondPut s pa 16 (kvPoolWith r (kvHead r) (bits 23 0 q.value))) c)

def execKvPoolTail (q : Req) (s : State) : Res := run s (serveWrite 0x4023 0x00 q (actKvPoolTail q))

/-- A stream descriptor with another WATERMARK. -/
def kvWithMark (n w : Nat) : Nat := n - kvWatermark n * 2 ^ 58 + w * 2 ^ 58

/-- The watermark of a stream advances to `w` and pages below it become committed (04 R156); none where `w` lies below the
present one or above 16,777,216. -/
def kvAdvance (s : State) (c i w : Nat) : Option State :=
  match pondNat s (kvStreamAddr s c i) 16 with
  | none => some s
  | some d =>
    if w < kvWatermark d ∨ w > 16777216 then none
    else
      let pages := (List.range (w / 64 - kvWatermark d / 64)).map (· + kvWatermark d / 64)
      let s := forEach s pages (fun t p =>
        match pondNat t (kvEntryAddr d p) 8 with
        | some e => if kvState e = 1 then pondPut t (kvEntryAddr d p) 8 (kvEntry 2 (kvPageAddr e)) else t
        | none => t)
      some (pondPut s (kvStreamAddr s c i) 16 (kvWithMark d w))

/-- A stream that a write names: below KV_STREAM_COUNT, and in use where its descriptor can be read (04 R163). -/
def kvStreamOk (s : State) (c i : Nat) : Bool :=
  decide (i < getC s c 0x4020 0x02) && ((pondNat s (kvStreamAddr s c i) 16).map kvValid).getD true

/-- SET_WATERMARK (04 R156, R163): bits 56:32 the watermark, bits 15:0 the stream. -/
def actSetWatermark (q : Req) (s : State) : Act :=
  let c := viewCtx s 0x4026 0x01 q
  if kvStreamOk s c (bits 15 0 q.value) = false then .refuse 0x0302 s
  else match kvAdvance s c (bits 15 0 q.value) (bits 56 32 q.value) with
    | some t => .done t
    | none => .refuse 0x0302 s

def execSetWatermark (q : Req) (s : State) : Res := run s (serveWrite 0x4026 0x01 q (actSetWatermark q))

/-- A page goes back to its pool: HEAD moves back by one and the page's address stands there (04 R157, R159). -/
def kvGive (s : State) (c stream page : Nat) : State :=
  let pa := kvPoolAddr s c (kvPool stream)
  match pondNat s pa 16 with
  | none => s
  | some r =>
    if kvEntries r = 0 then s
    else
      let h := (kvHead r + kvEntries r - 1) % kvEntries r
      pondPut (pondPut s (kvRing r + 8 * h) 8 page) pa 16 (kvPoolWith r h (kvTail r))

/-- RELEASE_PROVISIONAL (04 R157): every provisional page i with 64 × i ≥ WATERMARK returns to the pool. -/
def actReleaseProvisional (q : Req) (s : State) : Act :=
  let c := viewCtx s 0x4026 0x02 q
  if kvStreamOk s c q.value = false then .refuse 0x0302 s
  else match pondNat s (kvStreamAddr s c q.value) 16 with
    | none => .done s
    | some d =>
      let lo := cdiv (kvWatermark d) 64
      let pages := (List.range (262144 - lo)).map (· + lo)
      .done (kvRetry (forEach s pages (fun t p =>
        match pondNat t (kvEntryAddr d p) 8 with
        | some e => if kvState e = 1 then pondPut (kvGive t c d (kvPageAddr e)) (kvEntryAddr d p) 8 0 else t
        | none => t)) c)

def execReleaseProvisional (q : Req) (s : State) : Res := run s (serveWrite 0x4026 0x02 q (actReleaseProvisional q))

end Sys2Proof.Machine
end

