-- ==== Sys2Proof/Machine/Router.lean ====
section
/-! DEFINITION. Expert scoring and selection (02): lead routers, shares, the fit of a layer, score arithmetic, ranking and
normalisation. -/

namespace Sys2Proof.Machine

/-! ### Live routers (02 R37 to R39) -/

def liveBays (s : State) : List Nat := (List.range 16).filter (fun b => !(routerOf s b).fenced)

/-- The lead router of a token from its origin stone; none where no router is live (02 R37). -/
def leadRouter (s : State) (stone : Nat) : Option Nat :=
  let b := bayOf stone
  let near := (List.range 8).map (fun i => b / 8 * 8 + (b % 8 + i) % 8)
  let c := if b < 8 then b + 8 else b - 8
  let far := (List.range 8).map (fun i => c / 8 * 8 + (c % 8 + i) % 8)
  (near ++ far).find? (fun x => !(routerOf s x).fenced)

/-! ### Settings of an expert layer (02 R67, 03 R119, 04 R146) -/

def layerSet (s : State) (c n sub : Nat) : Nat := getC s c (0x6100 + n) sub

def scoringSet (s : State) (c n : Nat) : List Nat := (liveBays s).filter (fun b => bit b (layerSet s c n 0x0C))

/-- Bytes of a gate image's values of one router (02 R43), and of its product-key gate. -/
def shareBytes (s : State) (c n : Nat) : Nat :=
  let l := (liveBays s).length
  let d := layerSet s c n 0x03
  match layerSet s c n 0x01 with
  | 1 => cdiv (layerSet s c n 0x02) l * d
  | 2 => cdiv (layerSet s c n 0x07) l * (d + layerSet s c n 0x08 * layerSet s c n 0x0A)
  | _ => layerSet s c n 0x0B * d

/-- The limits of 02 R45 and of 04 R146. -/
def layerLimitsOk (s : State) (c n : Nat) : Bool :=
  let e := layerSet s c n 0x02
  let d := layerSet s c n 0x03
  let k := layerSet s c n 0x04
  let a := layerSet s c n 0x1A
  let g := layerSet s c n 0x07
  let ng := layerSet s c n 0x08
  let m := layerSet s c n 0x09
  let p := layerSet s c n 0x0A
  let q := layerSet s c n 0x0B
  decide (d % 64 = 0 ∧ 64 ≤ d ∧ d ≤ 16384 ∧ 1 ≤ k ∧ k + a ≤ 16) && !(layerSet s c n 0x18 == 2 && layerSet s c n 0x1A == 0) &&
    (match layerSet s c n 0x01 with
     | 1 => decide (1 ≤ e ∧ e ≤ 8192 ∧ k ≤ e)
     | 2 => decide (e = g * ng ∧ 1 ≤ g ∧ g ≤ 256 ∧ 1 ≤ ng ∧ ng ≤ 256 ∧ 1 ≤ m ∧ m ≤ min 16 g ∧ p % 64 = 0 ∧ 64 ≤ p ∧ p ≤ 1024 ∧
         k + a ≤ m * ng)
     | _ => decide (e = q * q ∧ (q = 16 ∨ q = 32 ∨ q = 64 ∨ q = 128 ∨ q = 256) ∧ k + a ≤ q))

/-- A layer fits at the present L, and its P is not 0 (02 R43, R45). -/
def layerFits (s : State) (c n : Nat) : Bool :=
  decide (shareBytes s c n ≤ 2 ^ 22) && !(liveBays s).isEmpty && !(layerSet s c n 0x01 == 3 && (scoringSet s c n).isEmpty)

/-- Run instructions of a layer whose policy is SHADOW or NEXT carry VARYING (05 R176). -/
def varyingOk (s : State) (c n : Nat) : Bool :=
  decide (layerSet s c n 0x18 = 0) ||
    (match (ctxOf s c).image with
     | some i => i.layers.all (fun l => l.layer != n || l.runVarying)
     | none => true)

/-- LAYER_STATUS (02 R67, R49, 04 R146, 05 R176). -/
def layerStatus (s : State) (c n : Nat) : Nat :=
  if layerSet s c n 0x01 = 0 then 0
  else if !layerLimitsOk s c n || !varyingOk s c n then 3
  else if !layerFits s c n then 2
  else 1

/-! ### Score arithmetic (02 R50 to R56) -/

/-- A signed byte. -/
def sbyte (b : Byte) : Int := signed 8 b.toNat

/-- The value of one 32-value block of a key and a token. -/
def blockScore (x g : List Byte) (sx sg : Nat) : FR :=
  if sx = 255 ∨ sg = 255 then (0, 0)
  else
    let q := ((x.zip g).map (fun p => sbyte p.1 * sbyte p.2)).sum
    roundF (q, (sx : Int) + sg - 254)

/-- A raw score over `nb` blocks of values and scales. -/
def rawScore (nb : Nat) (x sx g sg : List Byte) : FR :=
  let vs := (List.range nb).map (fun b =>
    blockScore ((x.drop (32 * b)).take 32) ((g.drop (32 * b)).take 32) ((nth 0 sx b).toNat) ((nth 0 sg b).toNat))
  let (l, n) := collectF vs
  let k := log2Up nb
  let r := treeF fadd k (l ++ List.replicate (2 ^ k - nb) 0)
  (r.1, n + r.2)

/-- Candidate `a` stands before candidate `b` (02 R52, R55). -/
def candBefore (a b : Cand) : Bool :=
  let sa := dyAdd (fpVal a.rank) (fpVal a.rank2)
  let sb := dyAdd (fpVal b.rank) (fpVal b.rank2)
  dyLt sb sa || (!dyLt sa sb && decide (a.id < b.id))

def candInsert (c : Cand) : List Cand → List Cand
  | [] => [c]
  | a :: t => if candBefore c a then c :: a :: t else a :: candInsert c t

/-- The first k candidates in the order of 02 R52. -/
def topK (k : Nat) (l : List Cand) : List Cand := (l.foldl (fun acc c => (candInsert c acc).take k) [])

/-- The bias of key number `i` of a bias image, held in FP32. -/
def biasOf (bias : List Byte) (i : Nat) : BitVec 32 :=
  if bias.isEmpty then 0 else bf16ToF (BitVec.ofNat 16 (fromLE ((bias.drop (2 * i)).take 2)))

/-- A share's key `i` of width w: its values and its scales, where the keys before it are `pre` keys of width `w0`, and the
value section has `total` bytes. -/
def keyAt (img : List Byte) (total pre w0 i w : Nat) : List Byte × List Byte :=
  ((img.drop (pre * w0 + i * w)).take w, (img.drop (total + pre * w0 / 32 + i * w / 32)).take (w / 32))

/-- Scores of keys `ids` of a layer against a token's values: (id, raw score), and clamps. -/
def scoreKeys (img : List Byte) (total pre w0 w : Nat) (x sx : List Byte) (ids : List Nat) : List (Nat × BitVec 32) × Nat :=
  let rs := ids.map (fun i => (i, rawScore (w / 32) x sx (keyAt img total pre w0 i w).1 (keyAt img total pre w0 i w).2))
  (rs.map (fun p => (p.1, p.2.1)), (rs.map (fun p => p.2.2)).sum)

/-- Candidates with their ranking scores (02 R51). -/
def rankCands (bias : List Byte) (base : Nat) (l : List (Nat × BitVec 32)) : List Cand × Nat :=
  let rs := l.map (fun p => (p, fadd p.2 (biasOf bias (base + p.1))))
  (rs.map (fun p => { rank := p.2.1, rank2 := 0, raw := p.1.2, id := p.1.1 }), (rs.map (fun p => p.2.2)).sum)

/-- The choices of product-key mode from one token (02 R55, R56). -/
def productCands (s : State) (c n : Nat) (sh : Share) (pay : List Byte) (k : Nat) : List Cand × Nat :=
  let d := layerSet s c n 0x03
  let q := layerSet s c n 0x0B
  let h := d / 2
  let half (i : Nat) : List Cand × Nat :=
    let r := scoreKeys sh.img (2 * q * h) (i * q) h h ((pay.drop (i * h)).take h) ((pay.drop (d + i * h / 32)).take (h / 32)) (List.range q)
    let b := rankCands sh.bias (i * q) r.1
    (topK k b.1, r.2 + b.2)
  let h1 := half 0
  let h2 := half 1
  let pairs := (List.range k).flatMap (fun a => ((List.range k).filter (fun b => decide ((a + 1) * (b + 1) ≤ k))).filterMap (fun b =>
    match h1.1[a]?, h2.1[b]? with
    | some u, some v => some (u, v)
    | _, _ => none))
  let best := topK k (pairs.map (fun p => { rank := p.1.rank, rank2 := p.2.rank, raw := 0, id := p.1.id * q + p.2.id }))
  let raws := best.map (fun b => match pairs.find? (fun p => p.1.id * q + p.2.id == b.id) with
    | some p => (b, fadd p.1.raw p.2.raw)
    | none => (b, ((0 : BitVec 32), 0)))
  (raws.map (fun r => { r.1 with raw := r.2.1 }), h1.2 + h2.2 + (raws.map (fun r => r.2.2)).sum)

/-- The weights of a choice list (02 R57 to R60). -/
def normalise (mode : Nat) (raws : List (BitVec 32)) : List (BitVec 32) × Nat :=
  if mode = 1 then collectF (raws.map sigmoidF)
  else
    let mx := raws.foldl (fun m x => if flt m x then x else m) (raws.headD 0)
    let es := collectF (raws.map (fun r => let t := fsub r mx; let e := expX t.1; (e.1, t.2 + e.2)))
    let tot := es.1.foldl (fun (a : FR) e => let r := fadd a.1 e; (r.1, a.2 + r.2)) (0, 0)
    let ws := collectF (es.1.map (fun e => fdiv e tot.1))
    (ws.1, es.2 + tot.2 + ws.2)

/-- REPLICA of a choice (02 R65). -/
def replicaOf (token expert r : Nat) : Nat :=
  let x := (token * 0x9E3779B1 + expert * 0x85EBCA77) % 2 ^ 32
  let y := x ^^^ (x / 2 ^ 15)
  y * r / 2 ^ 32

/-! ### Shares and streams (02 R46, R47, R587) -/

/-- The router holds the share of a layer. -/
def hasShare (s : State) (b c n : Nat) : Option Share := (routerOf s b).shares.find? (fun h => h.ctx == c && h.layer == n)

/-- The routers that score a layer of a context. -/
def scoringBays (s : State) (c n : Nat) : List Nat := if layerSet s c n 0x01 = 3 then scoringSet s c n else liveBays s

/-- Key values of a layer's gate image (02 R41): bytes of the value section. -/
def gateValues (s : State) (c n : Nat) : Nat :=
  let d := layerSet s c n 0x03
  match layerSet s c n 0x01 with
  | 1 => layerSet s c n 0x02 * d
  | 2 => layerSet s c n 0x07 * d + layerSet s c n 0x02 * layerSet s c n 0x0A
  | _ => layerSet s c n 0x0B * d

/-- Entries of the bias image (02 R42). -/
def biasEntries (s : State) (c n : Nat) : Nat :=
  if layerSet s c n 0x01 = 3 then 2 * layerSet s c n 0x0B else layerSet s c n 0x02

/-- The number of a live router among the live ones (02 R38). -/
def liveIndex (s : State) (b : Nat) : Nat := (liveBays s).findIdx (· == b)

/-- A router's share of the value section as (place, bytes): whole in product-key mode, else its experts' keys, or its groups' keys
and those of their experts (02 R38, R39, R41). -/
def shareValues (s : State) (b c n : Nat) : List (Nat × Nat) :=
  let d := layerSet s c n 0x03
  let l := (liveBays s).length
  let own (m : Nat) : List Nat := (List.range m).filter (fun i => i % l == liveIndex s b)
  match layerSet s c n 0x01 with
  | 1 => (own (layerSet s c n 0x02)).map (fun i => (i * d, d))
  | 2 =>
    let g := layerSet s c n 0x07
    let w := layerSet s c n 0x08 * layerSet s c n 0x0A
    (own g).map (fun i => (i * d, d)) ++ (own g).map (fun i => (g * d + i * w, w))
  | _ => [(0, gateValues s c n)]

/-- The reads of a stream: a router's share of the gate image, with its scales where the image has them, and the bias image whole, of
which R42 names no share (DESIGN CHOICE, log entry 147). -/
def streamReads (s : State) (b c n : Nat) : List (Nat × Nat × Nat) :=
  let vs := shareValues s b c n
  let ss := if layerSet s c n 0x06 = 0 then vs.map (fun v => (gateValues s c n + v.1 / 32, v.2 / 32)) else []
  (vs ++ ss).map (fun v => (v.1, layerSet s c n 0x0D + v.1, v.2)) ++
    (if layerSet s c n 0x0E = 0 then [] else [(2 ^ 32, layerSet s c n 0x0E, 2 * biasEntries s c n)])

/-- A router's stream begins (02 R46, R587): what lies in other packages is read with LOADs of its wythe's millrace. -/
def beginStream (s : State) (b c n : Nat) : State :=
  let r := routerOf s b
  let tag := gatherTag b r.streams
  let rs := streamReads s b c n
  let qs := (rs.filter (fun x => isFar s x.2.1)).flatMap (fun x => loadReqs s tag x.1 x.2.1 x.2.2)
  let g : Gather := { ctx := c, layer := n, reads := rs, tag := tag, want := qs.length, got := [], again := [], failed := false }
  laneRequests (setRouter s b { r with
    streaming := r.streaming ++ [(c, n)], gathers := r.gathers ++ [g], streams := r.streams + 1 }) (b / 8) qs

/-- A router's stream of a layer, asked for and not ended. -/
def gatherOf (s : State) (b c n : Nat) : Option Gather := (routerOf s b).gathers.find? (fun g => g.ctx == c && g.layer == n)

/-- A router without its stream of a layer. -/
def endStream (r : Router) (c n : Nat) : Router :=
  { r with streaming := r.streaming.filter (· != (c, n)), gathers := r.gathers.filter (fun g => !(g.ctx == c && g.layer == n)) }

/-- A stream of the layer's share is asked for where a router that scores it holds none. -/
def askStreams (s : State) (c n : Nat) : State :=
  forEach s (scoringBays s c n) (fun t b =>
    if (hasShare t b c n).isSome || (routerOf t b).streaming.contains (c, n) then t else beginStream t b c n)

/-- The router to which 02 R39 deals a product-key token of a lead router and STEP_SLOT under the present scoring set. -/
def dealRouter (s : State) (k : TokKey) (lead stepSlot : Nat) : Option Nat :=
  let ps := scoringSet s k.ctx k.layer
  if ps.isEmpty then none
  else
    let i := ps.findIdx (· == lead)
    ps[((if i < ps.length then i else 0) + stepSlot) % ps.length]?

/-- A token waits to be scored by a router (02 R588): in stage 1, or in stage 2 of grouped mode; none that waits for its
generation does (03 R115). -/
def waitsFor (s : State) (b : Nat) (t : Tok) : Bool :=
  !t.waits && match layerSet s t.key.ctx t.key.layer 0x01 with
  | 3 => t.dealt == some b && !t.scored.contains b
  | 2 => match t.chosen with
    | none => !t.scored.contains b
    | some gs => !t.scored2.contains b && gs.any (fun g => g % (liveBays s).length == liveIndex s b)
  | _ => !t.scored.contains b

/-- Every router that must score the token in its present stage has done so. -/
def stageDone (s : State) (t : Tok) : Bool := !t.waits && (liveBays s).all (fun b => !waitsFor s b t)

/-- A token of grouped mode whose groups are not chosen yet: its second scoring is to come. -/
def stageAhead (s : State) (t : Tok) : Bool :=
  !t.waits && t.chosen.isNone && layerSet s t.key.ctx t.key.layer 0x01 == 2

/-- A layer that a router has finished with: no token of it waits for the router, or will in its second stage (02 R46). -/
def released (s : State) (b : Nat) (h : Share) : Bool :=
  s.toks.all (fun t => !(t.key.ctx == h.ctx && t.key.layer == h.layer && (waitsFor s b t || stageAhead s t)))

/-- Shares that stay when a new share of `size` bytes is written: two half layers, or one whole layer (02 R46); none where
the router still holds what must be released. -/
def makeRoom (s : State) (b size : Nat) : Option (List Share) :=
  let hs := (routerOf s b).shares
  let busy := hs.filter (fun h => !released s b h)
  if size > 2 ^ 21 then (if busy.isEmpty then some [] else none)
  else if hs.any (fun h => decide (shareBytes s h.ctx h.layer > 2 ^ 21)) then (if busy.isEmpty then some [] else none)
  else if hs.length < 2 then some hs
  else match hs.find? (released s b) with
    | some h => some (hs.erase h)
    | none => none

/-! ### Passes -/

/-- The number of candidates the sorter keeps: k, with the alternates of NEXT (04 R144). -/
def keepCount (s : State) (c n : Nat) : Nat := layerSet s c n 0x04 + (if layerSet s c n 0x18 = 2 then layerSet s c n 0x1A else 0)

/-- Scoring of one token by one router in the token's present stage, and the clamps it counts. -/
def scoreToken (s : State) (b : Nat) (sh : Share) (t : Tok) : Tok × Nat :=
  let c := t.key.ctx
  let n := t.key.layer
  let d := layerSet s c n 0x03
  let l := (liveBays s).length
  let j := liveIndex s b
  let x := t.payload.take d
  let sx := (t.payload.drop d).take (d / 32)
  let k := keepCount s c n
  match layerSet s c n 0x01 with
  | 3 =>
    let r := productCands s c n sh t.payload k
    ({ t with parts := topK k (t.parts ++ r.1), scored := t.scored ++ [b] }, r.2)
  | 2 =>
    let g := layerSet s c n 0x07
    let ng := layerSet s c n 0x08
    let p := layerSet s c n 0x0A
    let total := g * d + g * ng * p
    match t.chosen with
    | none =>
      let r := scoreKeys sh.img total 0 d d x sx ((List.range g).filter (fun i => i % l == j))
      let cs := r.1.map (fun q => ({ rank := q.2, rank2 := 0, raw := q.2, id := q.1 } : Cand))
      ({ t with gparts := topK (layerSet s c n 0x09) (t.gparts ++ cs), scored := t.scored ++ [b] }, r.2)
    | some gs =>
      let y := (t.payload.drop (d + d / 32)).take p
      let sy := (t.payload.drop (d + d / 32 + p)).take (p / 32)
      let ids := (gs.filter (fun i => i % l == j)).flatMap (fun i => (List.range ng).map (· + i * ng))
      let r := scoreKeys sh.img total g d p y sy ids
      let q := rankCands sh.bias 0 r.1
      ({ t with parts := topK k (t.parts ++ q.1), scored2 := t.scored2 ++ [b] }, r.2 + q.2)
  | _ =>
    let e := layerSet s c n 0x02
    let r := scoreKeys sh.img (e * d) 0 d d x sx ((List.range e).filter (fun i => i % l == j))
    let q := rankCands sh.bias 0 r.1
    ({ t with parts := topK k (t.parts ++ q.1), scored := t.scored ++ [b] }, r.2 + q.2)

/-- A pass scores every waiting token of one (context, layer, generation), up to 16 (02 R588). -/
def passTokens (s : State) (b c n g : Nat) (sh : Share) : State :=
  let ws := (s.toks.filter (fun t => t.key.ctx == c && t.key.layer == n && t.key.gen == g && waitsFor s b t)).take 16
  let done := ws.map (fun t => (t, scoreToken s b sh t))
  let toks := s.toks.map (fun t => match done.find? (fun p => decide (p.1 = t)) with
    | some p => p.2.1
    | none => t)
  countBy { s with toks := toks } 0xA020 0x02 ((done.map (fun p => p.2.2)).sum)

/-- A token loses all partial results and is scored again (02 R35, R48). -/
def rescore (t : Tok) : Tok := { t with scored := [], scored2 := [], gparts := [], chosen := none, parts := [] }

/-- A token is scored again by one router, in both stages of grouped mode (02 R35). -/
def rescoreAt (s : State) (b : Nat) (t : Tok) : Tok :=
  let c := t.key.ctx
  let n := t.key.layer
  let own (i : Nat) : Bool := i % (liveBays s).length == liveIndex s b
  match layerSet s c n 0x01 with
  | 3 => if t.scored.contains b then { t with scored := [], parts := [] } else t
  | 2 => { t with scored := t.scored.filter (· != b), gparts := t.gparts.filter (fun x => !own x.id), chosen := none,
                  scored2 := t.scored2.filter (· != b), parts := t.parts.filter (fun x => !own (x.id / layerSet s c n 0x08)) }
  | _ => { t with scored := t.scored.filter (· != b), parts := t.parts.filter (fun x => !own x.id) }

/-- Placement blocks that a fenced router was looking up: the next lead routers of their tokens read them (02 R37, 03 R72). -/
def moveLookups (s t : State) (b : Nat) : State :=
  let es := (s.confs.filter (fun f => leadRouter s f.origin == some b)).flatMap (fun f => f.pendingClaims.filterMap (fun r =>
    match f.choices[r - 1]?, leadRouter t f.origin with
    | some x, some l => some (f.key.ctx, f.key.layer, x.expert, l)
    | _, _ => none))
  let kept := t.blocksReading.filter (fun x => x.2.2.2 != b)
  { t with blocksReading := kept ++ es.dedup.filter (fun x => !kept.contains x) }

/-- A token in progress when router `b` is fenced (02 R48): in flat and grouped mode it is scored again under the new sharding; in
product-key mode one dealt to the fenced router is dealt again, and one led by it loses its partial results. -/
def fenceTok (s : State) (b : Nat) (t : Tok) : Tok :=
  let lead := (leadRouter s t.origin).getD t.lead
  if layerSet s t.key.ctx t.key.layer 0x01 ≠ 3 then { rescore t with lead := lead }
  else if t.dealt = some b then { rescore t with lead := lead, dealt := dealRouter s t.key lead t.stepSlot }
  else if t.lead = b then { rescore t with lead := lead }
  else t

/-- Fences a router (02 R35, R48, 01 R20): it drops what it holds, the others drop their shares and streams under the old sharding, and the
tokens in progress are scored again as fenceTok says. The lead routers of the tokens it led change with it. -/
def fenceRouter (s : State) (b : Nat) : State :=
  if (routerOf s b).fenced then s
  else
    let s := moveLookups s (setRouter s b { Router.initial with fenced := true, streams := (routerOf s b).streams }) b
    let dealt (r : Router) : Router := { r with
      shares := r.shares.filter (fun h => layerSet s h.ctx h.layer 0x01 == 3),
      streaming := r.streaming.filter (fun p => layerSet s p.1 p.2 0x01 == 3),
      gathers := r.gathers.filter (fun g => layerSet s g.ctx g.layer 0x01 == 3) }
    let s : State := { s with routers := s.routers.map (fun p => (p.1, dealt p.2)) }
    let s := { s with toks := s.toks.map (fenceTok s b) }
    forEach s ((s.toks.map (fun t => (t.key.ctx, t.key.layer))).dedup) (fun u p => askStreams u p.1 p.2)

end Sys2Proof.Machine
end

