-- ==== Sys2Proof/Machine/Confluence.lean ====
section
/-! DEFINITION. From verdict to completed token (03): the arrival of token copies at their home, the sluice, the confluence,
stranded ranks, generations and cancelled tokens. -/

namespace Sys2Proof.Machine

/-! ### Records -/

/-- A choice record (03 R75). -/
def packChoice (c : Choice) : Nat :=
  c.tokenId % 2 ^ 32 * 2 ^ 96 + c.gen % 65536 * 2 ^ 80 + c.layer % 256 * 2 ^ 72 + c.ctx % 256 * 2 ^ 64 +
    c.originPkg % 2 ^ 14 * 2 ^ 50 + c.originStone % 4096 * 2 ^ 38 + b2n c.spec * 2 ^ 37 + (c.rank - 1) % 16 * 2 ^ 33 +
    c.replica % 16 * 2 ^ 29 + c.expert % 65536 * 2 ^ 13 + c.status % 8 * 2 ^ 10

/-- A queue entry (03 R100). -/
def packEntry (a : Admitted) : Nat :=
  let c := a.claim.choice
  let b := match a.slot, a.buffer with
    | some n, _ => n
    | none, some h => h.toNat
    | none, none => 0
  c.tokenId % 2 ^ 32 * 2 ^ 96 + b % 2 ^ 32 * 2 ^ 64 + c.gen % 65536 * 2 ^ 48 + c.originPkg % 2 ^ 14 * 2 ^ 34 +
    c.originStone % 4096 * 2 ^ 22 + c.layer % 256 * 2 ^ 14 + (c.rank - 1) % 16 * 2 ^ 10 + b2n c.spec * 2 ^ 9 +
    b2n a.slot.isSome * 2 ^ 8 + b2n (decide (a.part = 2) || decide (c.status = 3)) * 2 ^ 7 + b2n a.resend * 2 ^ 6 + a.path % 4 * 2 ^ 4

/-- A token descriptor of one segment (03 R96). -/
def packDesc (d : TokenDesc) (seg : Nat) : Nat :=
  d.tokenId % 2 ^ 32 * 2 ^ 96 + d.gen % 65536 * 2 ^ 80 + d.layer % 256 * 2 ^ 72 + d.ctx % 256 * 2 ^ 64 +
    d.fanout % 65536 * 2 ^ 48 + d.spillMask % 65536 * 2 ^ 32 + d.position % 2 ^ 24 * 2 ^ 8 + b2n d.spec * 2 ^ 7 +
    b2n d.resend * 2 ^ 6 + seg % 4 * 2 ^ 4

/-- The descriptor that a token-scatter packet carries for a first stone. -/
def unpackDesc (n target : Nat) : TokenDesc :=
  { tokenId := bits 127 96 n, gen := bits 95 80 n, layer := bits 79 72 n, ctx := bits 71 64 n, fanout := bits 63 48 n,
    spillMask := bits 47 32 n, position := bits 31 8 n, spec := bit 7 n, resend := bit 6 n, alternate := false, targetStone := target,
    originStone := 0 }

/-- A return header (03 R109). -/
def packRet (h : RetHdr) : Nat :=
  h.tokenId % 2 ^ 32 * 2 ^ 96 + h.gen % 65536 * 2 ^ 80 + h.layer % 256 * 2 ^ 72 + h.ctx % 256 * 2 ^ 64 +
    h.originStone % 4096 * 2 ^ 52 + (h.rank - 1) % 16 * 2 ^ 48 + b2n h.spec * 2 ^ 47 + h.path % 4 * 2 ^ 45 +
    h.segment % 8 * 2 ^ 42 + h.format % 2 * 2 ^ 41

/-- The header that a token-return packet carries. -/
def unpackRet (n : Nat) : RetHdr :=
  { tokenId := bits 127 96 n, gen := bits 95 80 n, layer := bits 79 72 n, ctx := bits 71 64 n, originStone := bits 63 52 n,
    rank := bits 51 48 n + 1, spec := bit 47 n, path := bits 46 45 n, segment := bits 44 42 n, format := bits 41 41 n }

/-- A replica record of a placement block (03 R69). -/
def unpackReplica (n : Nat) : Replica :=
  { pkg := bits 31 18 n, firstStone := bits 17 6 n, span := bits 5 3 n, valid := bit 2 n, resv := n % 4 }

/-- The four bytes of a replica record. -/
def packReplica (r : Replica) : Nat :=
  r.pkg % 2 ^ 14 * 2 ^ 18 + r.firstStone % 4096 * 2 ^ 6 + r.span % 8 * 8 + b2n r.valid * 4 + r.resv % 4

/-- The 16 records of a placement block. -/
def unpackBlock (bs : List Byte) : List Replica := (List.range 16).map (fun i => unpackReplica (fromLE ((bs.drop (4 * i)).take 4)))

def repStones (r : Replica) : List Nat := (List.range (2 ^ r.span)).map (· + r.firstStone)

/-- A replica is available if none of its stones is among the fenced ones (03 R79). -/
def repAvailable (fenced : List Nat) (r : Replica) : Bool := (repStones r).all (fun st => !fenced.contains st)

/-- The tier-1 offset of a spill slot (03 R85); the copy stands at its start, the header in its last 128 bytes (log entry 41). -/
def spillAddr (slot : Nat) : Nat := spillBase + slot * 17408

/-- Claims, verdicts and notices to another package: one packet for each run of 512 choice records (03 R74). -/
def sendChoices (s : State) (dest cls target stone : Nat) (cs : List Choice) : State :=
  forEach s (chunksOf 512 (cs.length + 1) cs) (fun t l =>
    inject t (wytheOf stone) (mkPacket t dest cls target stone 0 (l.flatMap (fun c => toLE 16 (packChoice c)))))

/-! ### Weights of a replica (04 R136, R140) -/

/-- The weight object of a replica on this package, by layer and first stone. -/
def replicaObj (s : State) (c layer first : Nat) : Option (Nat × ObjDesc) :=
  (objectsOf s c).find? (fun p => p.2.valid && p.2.kind == 0 && p.2.mode != 2 && p.2.layer == layer && p.2.firstStone == first)

/-- The weights of a replica are present: its object's window in tier 0 holds a complete fill, of a fetch request or of the last
swap-in. -/
def weightsPresent (s : State) (c layer first : Nat) : Bool :=
  match replicaObj s c layer first with
  | some (n, _) => (ctxOf s c).resident && (winOf s (winKey c n)).present
  | none => false

/-- The window of a replica's weight object is held no longer than its choices and claims need it (04 R138). -/
def windowAfter (s : State) (c layer first : Nat) : State :=
  match replicaObj s c layer first with
  | some (n, _) => setWin s (winKey c n) { winOf s (winKey c n) with held := (winOf s (winKey c n)).held && runHolds s c n }
  | none => s

/-! ### Token copies at their home (03 R98) -/

def isKeyOf (k : TokKey) (a : Admitted) : Bool :=
  let c := a.claim.choice
  c.ctx == k.ctx && c.layer == k.layer && c.gen == k.gen && c.tokenId == k.tokenId

def descKey (d : TokenDesc) : TokKey := { ctx := d.ctx, layer := d.layer, gen := d.gen, tokenId := d.tokenId }

def isRunOf (c layer first : Nat) (r : RunSt) : Bool := r.ctx == c && r.layer == layer && r.first == first

/-- The run that a replica is at: its oldest that has not ended, else its last. -/
def runOf (s : State) (c layer first : Nat) : Option RunSt :=
  let rs := s.runs.filter (isRunOf c layer first)
  (rs.find? (fun r => !r.ended)).or rs.getLast?

/-- The part of the run that a resent choice joins: the one that is current, or the next run's first (03 R94, R102). -/
def currentPart (s : State) (c layer first : Nat) : Nat :=
  match runOf s c layer first with
  | some r => if r.ended then 0 else r.part
  | none => 0

/-- The queue entries that a resent copy forms at the replica on its target stone. -/
def resentEntries (s : State) (srcPkg : Nat) (d : TokenDesc) : List Admitted :=
  let obj := replicaObj s d.ctx d.layer d.targetStone
  ((List.range 16).filter (fun r => bit r d.fanout)).map (fun r =>
    { claim := { choice := { tokenId := d.tokenId, gen := d.gen, layer := d.layer, ctx := d.ctx, originPkg := srcPkg,
                             originStone := d.originStone, spec := d.spec, rank := r + 1, replica := 0,
                             expert := (obj.map (·.2.expert)).getD 0, status := 1 },
                 rep := { pkg := pkgId s, firstStone := d.targetStone, span := (obj.map (·.2.span)).getD 0, valid := true, resv := 0 } },
      adm := ((runOf s d.ctx d.layer d.targetStone).map (·.gen)).getD d.gen, part := currentPart s d.ctx d.layer d.targetStone, slot := none, buffer := none, arrived := false, taken := false,
      ran := false, resend := true, path := if d.alternate then 2 else 0 })

/-- The run of a replica under a new admission. -/
def newRun (c layer gen first span : Nat) : RunSt :=
  { ctx := c, layer := layer, first := first, span := span, gen := gen, part := 0, due := false, missed := false, graceOver := false,
    shadow := false, carryDue := false, ended := false, batch := [], bPart := 0, bShadow := false, bFin := false, staged := [] }

/-- A run for a replica that is at none, so that a resent choice can run: its last one goes on, or a new one begins. -/
def ensureRun (s : State) (c layer gen first span : Nat) : State :=
  match runOf s c layer first with
  | none => { s with runs := s.runs ++ [newRun c layer gen first span] }
  | some r =>
    if r.ended then { s with runs := mapWhere s.runs (· == r) (fun r => { newRun c layer r.gen first r.span with carryDue := r.carryDue }) }
    else s

/-- Choices of the ledger that a copy matches: queued ones by FANOUT, spilled ones by SPILL_MASK. -/
def matchQueued (d : TokenDesc) (a : Admitted) : Bool :=
  isKeyOf (descKey d) a && !a.arrived && a.claim.choice.status == 1 && bit (a.claim.choice.rank - 1) d.fanout
def matchSpilled (d : TokenDesc) (a : Admitted) : Bool :=
  isKeyOf (descKey d) a && !a.arrived && (a.claim.choice.status == 2 || a.claim.choice.status == 3) &&
    bit (a.claim.choice.rank - 1) d.spillMask

/-! ### Queue rings (03 R99) -/

/-- Key of a replica's ring. -/
def ringKey (c layer first : Nat) : Nat := (c * 256 + layer) * 4096 + first

/-- Bytes of a layer's ring: 2 × (CAPACITY + SLACK) entries of 16 B. -/
def ringBytes (s : State) (c layer : Nat) : Nat := 32 * (layerSet s c layer 0x10 + layerSet s c layer 0x11)

/-- The SRAM offset of a replica's ring on its first stone: the rings of a stone's layers stand one after another, by layer, in the
space that the image declares for them there (DESIGN CHOICE, log entry 127); none where it declares none. -/
def ringBase (s : State) (c layer first : Nat) : Option Nat :=
  ((ctxOf s c).image.bind (fun i => i.rings.find? (fun r => physOf s c r.1 == first))).map (fun r =>
    r.2.1 * 1024 + (((List.range layer).filter (fun n => (replicaObj s c n first).isSome && layerSet s c n 0x01 != 0)).map (ringBytes s c)).sum)

/-- A queue entry is written at the tail of a replica's ring. -/
def pushEntry (s : State) (a : Admitted) : State :=
  let c := a.claim.choice
  let first := a.claim.rep.firstStone
  let k := ringKey c.ctx c.layer first
  let n := tget 0 s.qTails k
  let s := { s with qTails := tput 0 s.qTails k (n + 1) }
  match ringBase s c.ctx c.layer first with
  | some b =>
    if isFenced s first ∨ ringBytes s c.ctx c.layer = 0 then s
    else sramWrite s first (b + 16 * n % ringBytes s c.ctx c.layer) (toLE 16 (packEntry a))
  | none => s

/-- Bits set in FANOUT. -/
def fanCount (d : TokenDesc) : Nat := ((List.range 16).filter (fun r => bit r d.fanout)).length

/-- A copy is placed (03 R98): into its buffer for its queued ranks, with an entry in the queue of each, and into their slots for its
spilled ranks. The references of FANOUT ranks that the ledgers hold no longer, which R93 gives up, are released. -/
def placeCopy (s : State) (handle : Option Nat) (srcPkg : Nat) (d : TokenDesc) (payload : List Byte) : State :=
  let s := match handle with
    | some h => sramWrite s (handleStone h) (handleOff h) payload
    | none => s
  let buf := handle.map (BitVec.ofNat 32)
  if d.resend then
    let es := (resentEntries s srcPkg d).map (fun a => { a with arrived := true, buffer := buf })
    let s := forEach { s with admitted := s.admitted ++ es } es pushEntry
    match es with
    | a :: _ => ensureRun s d.ctx d.layer d.gen d.targetStone a.claim.rep.span
    | [] => s
  else
    let qs := s.admitted.filter (matchQueued d)
    let s := forEach s (s.admitted.filter (matchSpilled d)) (fun t a => match a.slot with
      | some n => memWrite (memWrite (storePass t (wytheOf a.claim.rep.firstStone) (spillAddr n) payload.length) (spillAddr n) payload)
          (spillAddr n + 17280) (toLE 128 (packEntry a))
      | none => t)
    let s := forEach s qs (fun t a => pushEntry t { a with buffer := buf })
    let s := { s with admitted := s.admitted.map (fun a =>
      if matchQueued d a then { a with arrived := true, buffer := buf }
      else if matchSpilled d a then { a with arrived := true } else a) }
    match buf with
    | some h => forEach s (List.range (fanCount d - qs.length)) (fun t _ => release t h)
    | none => s

/-- The bay whose cistern gives a copy its buffer (03 R98); none for one that takes no buffer. -/
def copyBay (s : State) (d : TokenDesc) : Option Nat :=
  if d.resend then some (bayOf d.targetStone)
  else (minBy (fun a => a.claim.choice.rank) (s.admitted.filter (matchQueued d))).map (fun a => bayOf a.claim.rep.firstStone)

/-- A copy reaches its home (03 R98): matched against the verdicts, buffered, or discarded and counted. The buffer has a reference for
each bit set in FANOUT. -/
def acceptCopy (s : State) (srcPkg : Nat) (d : TokenDesc) (payload : List Byte) : State :=
  match copyBay s d with
  | some bay =>
    match takeBuffer s bay 0 payload.length (fanCount d) (.copy srcPkg d payload) with
    | (s, some h) => placeCopy s (some h) srcPkg d payload
    | (s, none) => s
  | none => if s.admitted.any (matchSpilled d) then placeCopy s none srcPkg d payload else count s 0xA021 0x08

/-! ### Tokens at their confluence -/

def confOf (s : State) (k : TokKey) : Option Conf := s.confs.find? (fun c => c.key == k)

def modConf (s : State) (k : TokKey) (f : Conf → Conf) : State := { s with confs := mapWhere s.confs (fun c => c.key == k) f }

def Rank.initial : Rank :=
  { verdict := none, segs := [], complete := false, dropped := false, closed := false, stranded := false, path := 0,
    rep := none, buf := none, resent := false, lost := false }

/-- Rank r (from 1) of a token. -/
def rankOf (c : Conf) (r : Nat) : Rank := tget Rank.initial c.ranks r

def setRank (c : Conf) (r : Nat) (x : Rank) : Conf := { c with ranks := tput Rank.initial c.ranks r x }

/-- The ranks of a token, 1 to k. -/
def rankNums (c : Conf) : List Nat := (List.range c.choices.length).map (· + 1)

/-- Admitted with status QUEUED, SPILL_SLACK or CARRIED, and not since dropped, closed or abandoned (03 R76, R112). -/
def isAdmitted (x : Rank) : Bool :=
  (x.verdict == some 1 || x.verdict == some 2 || x.verdict == some 3) && !x.dropped && !x.closed

/-- Delivered: admitted, and not a stranded rank that is not resent yet (03 R76). -/
def isDelivered (x : Rank) : Bool := isAdmitted x && !x.stranded

/-- The sluice sends a copy of a token to a package (03 R95, R97); a copy to the own package goes to its ledgers directly. POSITION
is the token's (R96), a free value for a token that its context's step does not name. -/
def sendCopy (s : State) (c : Conf) (dest fanout spill target : Nat) (resend alternate : Bool) : State :=
  let d := layerSet s c.key.ctx c.key.layer 0x03
  let pay := c.payload.take (d + d / 32)
  let pos := c.position.getD (openValue s % 2 ^ 24)
  let t : TokenDesc :=
    { tokenId := c.key.tokenId, gen := c.key.gen, layer := c.key.layer, ctx := c.key.ctx, fanout := fanout,
      spillMask := spill, position := pos, spec := c.spec, resend := resend, alternate := alternate, targetStone := target,
      originStone := c.origin }
  let s := count (fresh s) 0xA021 0x0B
  if dest = pkgId s then acceptCopy (passBytes s (wytheOf c.origin) (wytheOf target) pay.length) (pkgId s) t pay
  else forEach s ((chunksOf 8192 3 pay).zipIdx) (fun u p =>
    inject u (wytheOf c.origin) (mkPacket u dest 3 0 target (packDesc t p.2) p.1))

/-- The final weights, formed once every verdict is in and no rank is stranded (03 R91). -/
def formWeights (renorm : Nat) (c : Conf) : Conf :=
  let rs := rankNums c
  if c.weights.isSome ∨ rs.any (fun r => (rankOf c r).verdict.isNone || (rankOf c r).stranded) then c
  else
    let ws := c.choices.map (·.weight)
    let del := rs.map (fun r => isDelivered (rankOf c r))
    let tot := (ws.zip del).foldl (fun a p => if p.2 then (fadd a p.1).1 else a) 0
    if renorm = 1 ∧ flt 0 tot then
      { c with weights := some ((ws.zip del).map (fun p => if p.2 then (fdiv p.1 tot).1 else p.1)) }
    else { c with weights := some ws }

/-- The values of a return row in its format (03 R109). -/
def returnRow (fmt d : Nat) (segs : List (Nat × List Byte)) : List (BitVec 32) :=
  let bs := (sortBy (·.1) segs).flatMap (·.2)
  (List.range d).map (fun i =>
    if fmt = 1 then BitVec.ofNat 32 (fromLE ((bs.drop (4 * i)).take 4))
    else bf16ToF (BitVec.ofNat 16 (fromLE ((bs.drop (2 * i)).take 2))))

/-- One rank of the combination (03 R110): added, left out, or waited for (none). A product or sum that overflows is clamped to
the largest finite number and counted nowhere (DESIGN CHOICE, log entry 125: R110 states the rounding alone). -/
def combineRank (fmt d : Nat) (c : Conf) : Option Conf :=
  if c.added ≥ c.choices.length then none
  else
    let r := c.added + 1
    let x := rankOf c r
    if x.stranded then none
    else if !isDelivered x then some { c with added := r }
    else if !x.complete then none
    else
      let w := nth 0 (c.weights.getD []) c.added
      let ys := returnRow fmt d x.segs
      some { c with added := r, acc := (c.acc.zip ys).map (fun p => (fadd p.1 (fmul w p.2).1).1) }

/-- Ranks combined as far as they have come. -/
def combineAll (fmt d : Nat) : Nat → Conf → Conf
  | 0, c => c
  | f + 1, c => match combineRank fmt d c with
    | some c' => combineAll fmt d f c'
    | none => c

/-- The token had no delivered choice in the layer (03 R92, R111). -/
def noChoice (c : Conf) : Bool :=
  (rankNums c).all (fun r => let v := (rankOf c r).verdict; !(v == some 1 || v == some 2 || v == some 3))

/-- STATUS of a completion record (03 R111). -/
def tokenStatus (c : Conf) : Nat :=
  if c.timedOut then 3 else if noChoice c then 2 else if (rankNums c).all (fun r => isDelivered (rankOf c r)) then 0 else 1

def isIntact (s : State) (c : Conf) : Bool :=
  c.spec && (rankNums c).all (fun r => isDelivered (rankOf c r)) &&
    !s.notIntact.contains (c.key.ctx, c.key.gen, c.key.tokenId)

/-- The completion record (03 R111). -/
def completionRecord (s : State) (c : Conf) (h : Nat) : Nat :=
  c.key.tokenId % 2 ^ 32 * 2 ^ 96 + h % 2 ^ 32 * 2 ^ 64 + c.key.gen % 65536 * 2 ^ 48 + c.key.layer % 256 * 2 ^ 40 +
    tokenStatus c * 2 ^ 38 + b2n (isIntact s c) * 2 ^ 37 + b2n c.varying * 2 ^ 36

/-- A token's output buffer has been granted: the output, the record, and the end of its SUBMIT (03 R101, R111). -/
def finishToken (s : State) (k : TokKey) (h : Nat) : State :=
  match confOf s k with
  | none => release s (BitVec.ofNat 32 h)
  | some c =>
    let s := sramWrite s (handleStone h) (handleOff h) (c.acc.flatMap (fun v => toLE 4 v.toNat))
    let x := poolOf s (handlePool h)
    let s := setPool s (handlePool h) { x with outCtx := tput 0 x.outCtx h (k.ctx + 1) }
    let s := if isFenced s c.origin then s else sramWrite s c.origin c.recOff (toLE 16 (completionRecord s c h))
    let s := if tokenStatus c = 2 then count s 0xA021 0x07 else s
    let s := if c.spec ∧ isIntact s c = false ∧ ¬ s.notIntact.contains (k.ctx, k.gen, k.tokenId) then
      { s with notIntact := s.notIntact ++ [(k.ctx, k.gen, k.tokenId)] } else s
    completeSubmit (modConf s k (fun c => { c with done := true, payload := [] })) c.stone c.pc c.recOff c.signal

/-- A token whose last rank has been added or closed asks for its output buffer (03 R111). -/
def endToken (s : State) (k : TokKey) : State :=
  match confOf s k with
  | none => s
  | some c =>
    if c.done ∨ c.added > c.choices.length then s
    else
      let d := layerSet s k.ctx k.layer 0x03
      let s := modConf s k (fun c => { c with added := c.choices.length + 1 })
      match takeBuffer s c.bay 1 (4 * d) 1 (.output c.bay k) with
      | (s, some h) => finishToken s k h
      | (s, none) => s

/-- Buffers of returns that have been combined or discarded are released. -/
def dropBufs (s : State) (k : TokKey) (which : Conf → Nat → Bool) : State :=
  match confOf s k with
  | none => s
  | some c =>
    let rs := (rankNums c).filter (fun r => (rankOf c r).buf.isSome && which c r)
    let hs := rs.filterMap (fun r => (rankOf c r).buf)
    let s := modConf s k (fun c => rs.foldl (fun c r => setRank c r { rankOf c r with buf := none }) c)
    forEach s hs release

/-- A confluence goes on with a token: weights, combination, completion. -/
def advance (s : State) (k : TokKey) : State :=
  match confOf s k with
  | none => s
  | some c =>
    if c.done ∨ c.added > c.choices.length then s
    else
      let c := formWeights (layerSet s k.ctx k.layer 0x13) c
      let c := if c.weights.isSome then
        combineAll (layerSet s k.ctx k.layer 0x17) (layerSet s k.ctx k.layer 0x03) 17 c else c
      let s := dropBufs (modConf s k (fun _ => c)) k (fun c r => decide (r ≤ c.added))
      if c.weights.isSome ∧ c.added = c.choices.length then endToken s k else s

/-! ### Generations and their confluences (03 R113, R115) -/

def genOf (s : State) (bay c g : Nat) : Option Gen := s.gens.find? (fun x => x.bay == bay && x.ctx == c && x.gen == g)

/-- A scoring request's generation can be taken: it is open, or free with room for it (03 R115). -/
def genReady (s : State) (bay c g : Nat) : Bool :=
  match genOf s bay c g with
  | some x => !x.retired
  | none => decide ((s.gens.filter (fun x => x.bay == bay)).length < 16)

def openGen (s : State) (bay c g : Nat) : State :=
  match genOf s bay c g with
  | some _ => s
  | none => { s with gens := s.gens ++ [{ bay := bay, ctx := c, gen := g, retired := false, forced := false }] }

/-- A rank whose return is still outstanding (03 R113). -/
def rankOutstanding (x : Rank) : Bool := isDelivered x && !x.complete && !x.lost

/-- The stone that a waiting request holds can issue again. -/
def unhold (s : State) (t : Tok) : State :=
  if t.waits then
    settle (modStoneFor s t.key.ctx t.stone (fun x => { x with stall := if x.stall = some .generation then none else x.stall })) t.key.ctx
  else s

/-- A request that waited for its generation goes on once that can be taken: the generation opens, the layer's share is asked
for, and the stone is held no longer (03 R115). -/
def wakeTok (s : State) (t : Tok) : State :=
  let b := bayOf t.origin
  if t.waits ∧ genReady s b t.key.ctx t.key.gen then
    let s := { s with toks := mapWhere s.toks (· == t) (fun x => { x with waits := false }) }
    unhold (askStreams (openGen s b t.key.ctx t.key.gen) t.key.ctx t.key.layer) t
  else s

/-- The waiting requests are tried in the order in which they came. -/
def wakeGens (s : State) : State := forEach s s.toks wakeTok

/-- The token belongs to the generation at its confluence. -/
def inGen (g : Gen) (c : Conf) : Bool := c.bay == g.bay && c.key.ctx == g.ctx && c.key.gen == g.gen

/-- A retired generation with no return outstanding, and no token that waits for its output buffer (03 R113). -/
def genFree (s : State) (g : Gen) : Bool :=
  g.retired && s.confs.all (fun c =>
    !inGen g c || ((c.done || decide (c.added ≤ c.choices.length)) && (rankNums c).all (fun r => !rankOutstanding (rankOf c r))))

/-- Buffers of returns that the tokens of the generations that become free still hold. -/
def goneBufs (s : State) : List (BitVec 32) :=
  (s.confs.filter (fun c => (s.gens.filter (genFree s)).any (fun g => inGen g c))).flatMap (fun c =>
    (rankNums c).filterMap (fun r => (rankOf c r).buf))

/-- A generation becomes free: its tokens and its marks leave the confluence (03 R113), and the step is over for the routers
(02 R35). -/
def clearGens (s : State) : State :=
  let gone := s.gens.filter (genFree s)
  let left := s.gens.filter (fun g => !genFree s g)
  let hit (c g : Nat) : Bool := gone.any (fun x => x.ctx == c && x.gen == g)
  let dead (c g : Nat) : Bool := hit c g && !(left.any (fun x => x.ctx == c && x.gen == g))
  { s with
    gens := left,
    confs := s.confs.filter (fun c => !(gone.any (fun g => inGen g c))),
    routers := s.routers.map (fun p => (p.1, { p.2 with badOnce := p.2.badOnce.filter (fun x => !dead x.1 x.2.2) })),
    cancels := s.cancels.filter (fun x => !dead x.1 x.2.1), notIntact := s.notIntact.filter (fun x => !dead x.1 x.2.1) }

/-- Retired generations become free, and the requests that waited for them go on (03 R113, R115). -/
def freeGens (s : State) : State := wakeGens (forEach (clearGens s) (goneBufs s) release)

/-- A rank becomes stranded: partial returns of it are discarded (03 R93). -/
def strandRank (s : State) (k : TokKey) (r : Nat) : State :=
  match confOf s k with
  | none => s
  | some c =>
    let x := rankOf c r
    if x.complete || !isDelivered x then s
    else
      let s := modConf s k (fun c => setRank c r { x with stranded := true, segs := [], buf := none })
      match x.buf with
      | some h => release s h
      | none => s

/-- Ranks of a token whose claims went to a package. -/
def ranksAt (c : Conf) (pkg : Nat) : List Nat :=
  (rankNums c).filter (fun r => ((rankOf c r).rep.map (·.pkg)) == some pkg && !(rankOf c r).resent)

def rankMask (rs : List Nat) : Nat := rs.foldl (fun a r => setBit a (r - 1)) 0

/-- The copy of a token for a package whose verdicts for it are all in (03 R95): FANOUT of its queued ranks, SPILL_MASK of its
spilled ones; none where no rank is delivered there. -/
def copyFor (s : State) (c : Conf) (pkg : Nat) : State :=
  let rs := (ranksAt c pkg).filter (fun r => isDelivered (rankOf c r))
  match rs with
  | [] => s
  | r :: _ =>
    let fan := rankMask (rs.filter (fun r => (rankOf c r).verdict == some 1))
    let spill := rankMask (rs.filter (fun r => (rankOf c r).verdict != some 1))
    let target := ((rankOf c r).rep.map (·.firstStone)).getD 0
    countBy (sendCopy s c pkg fan spill target false false) 0xA021 0x0C (rs.length - 1)

/-- Verdicts of a package for tokens led here (03 R84, R95): recorded; one copy per token to that package, once all its verdicts
for the token are in; then the confluence goes on. -/
def takeVerdicts (s : State) (srcPkg : Nat) (cs : List Choice) : State :=
  let keyOf (c : Choice) : TokKey := { ctx := c.ctx, layer := c.layer, gen := c.gen, tokenId := c.tokenId }
  let allIn (c : Conf) : Bool := (ranksAt c srcPkg).all (fun r => (rankOf c r).verdict.isSome)
  let due := ((cs.map keyOf).dedup).filter (fun k => (confOf s k).any (fun c => !allIn c))
  let s := forEach s cs (fun t c =>
    if c.status = 7 then strandRank t (keyOf c) c.rank
    else modConf t (keyOf c) (fun f => if (rankOf f c.rank).verdict.isNone then setRank f c.rank { rankOf f c.rank with verdict := some c.status } else f))
  let s := forEach s due (fun t k =>
    match confOf t k with
    | some c => if allIn c then copyFor t c srcPkg else t
    | none => t)
  freeGens (forEach s ((cs.map keyOf).dedup) advance)

/-- Verdicts leave a home: to this package's own confluences, or as class 4 packets to each origin package (03 R84). -/
def giveVerdicts (s : State) (cs : List Choice) : State :=
  forEach s ((cs.map (·.originPkg)).dedup) (fun t p =>
    let l := cs.filter (fun c => c.originPkg == p)
    if p = pkgId t then takeVerdicts t p l
    else sendChoices t p 4 2 ((l.map (·.originStone)).headD 0) l)

/-- Counts verdicts (03 R120). -/
def countVerdict (s : State) (st : Nat) : State :=
  match st with
  | 1 => count s 0xA021 0x01
  | 2 => count s 0xA021 0x02
  | 3 => count (count s 0xA021 0x02) 0xA021 0x03
  | 4 => count s 0xA021 0x04
  | 5 => count s 0xA021 0x05
  | 6 | 7 => count s 0xA021 0x06
  | _ => s

/-- Choices of this home's ledgers become stranded (03 R93): buffer references released, slots freed, verdicts sent. A
carried choice stays in the ledger for its accounting (R82). -/
def strandChoices (s : State) (p : Admitted → Bool) : State :=
  let hit (a : Admitted) : Bool := p a && !a.ran && a.claim.choice.status != 7
  let ls := s.admitted.filter hit
  let s := forEach s (ls.filterMap (·.buffer)) release
  let s := { s with
    slots := s.slots.filter (fun n => !(ls.any (fun a => a.slot == some n))),
    admitted := (s.admitted.filter (fun a => !(hit a && (a.part != 2 || a.resend)))).map (fun a =>
      if hit a then { a with buffer := none, slot := none, claim := { a.claim with choice := { a.claim.choice with status := 7 } } }
      else a),
    runs := s.runs.map (fun r => { r with batch := r.batch.filter (fun a => !(hit a)) }) }
  let s := forEach s ls (fun t a => windowAfter t a.claim.choice.ctx a.claim.choice.layer a.claim.rep.firstStone)
  let cs := ls.map (fun a => { a.claim.choice with status := 7 })
  giveVerdicts (forEach s cs (fun t c => countVerdict t c.status)) cs

/-! ### Resends (03 R94, 04 R145) -/

/-- A rank is sent again to a replica. -/
def resendRank (s : State) (k : TokKey) (r : Nat) (rep : Replica) (alternate : Bool) : State :=
  match confOf s k with
  | none => s
  | some c =>
    let s := modConf s k (fun c => setRank c r { rankOf c r with stranded := false, segs := [], complete := false, rep := some rep, resent := true })
    sendCopy s c rep.pkg (2 ^ (r - 1)) 0 rep.firstStone true alternate

/-- Every stranded rank of an expert whose origin is this package is resent to the replica that a new block names (03 R73). Where the
block holds no valid record at the choice's REPLICA index the rank stays stranded (DESIGN CHOICE, log entry 125). -/
def resendStranded (s : State) (c layer expert : Nat) (block : List Replica) : State :=
  forEach s (s.confs.filter (fun f => f.key.ctx == c && f.key.layer == layer)) (fun t f =>
    forEach t (f.choices.zipIdx.filter (fun p => p.1.expert == expert && (rankOf f (p.2 + 1)).stranded)) (fun u p =>
      match block[p.1.replica]? with
      | some rep => if rep.valid then resendRank u f.key (p.2 + 1) rep false else u
      | none => u))

/-- A stranded rank is abandoned: it counts as dropped (03 R76, R91, R94). -/
def dropRank (s : State) (k : TokKey) (r : Nat) : State :=
  advance (modConf s k (fun c => setRank c r { rankOf c r with stranded := false, dropped := true, verdict := some 7 })) k

/-- A rank has no alternate left: it is treated as dropped, and the token completes DEGRADED with VARYING set (04 R145). -/
def exhaustRank (s : State) (k : TokKey) (r : Nat) : State :=
  let s := modConf s k (fun c =>
    { setRank c r { rankOf c r with stranded := false, dropped := true } with varying := true })
  advance (count s 0xA030 0x08) k

/-- Every stranded rank of a context's layer is treated as dropped (03 R94). -/
def abandonStranded (s : State) (c layer : Nat) : State :=
  freeGens (forEach s (s.confs.filter (fun f => f.key.ctx == c && f.key.layer == layer)) (fun t f =>
    forEach t ((rankNums f).filter (fun r => (rankOf f r).stranded)) (fun u r => dropRank u f.key r)))

/-! ### Returns (03 R108 to R116) -/

def retKey (h : RetHdr) : TokKey := { ctx := h.ctx, layer := h.layer, gen := h.gen, tokenId := h.tokenId }

/-- A speculative token above the last accepted id of its generation is cancelled (03 R108). -/
def isCancelled (s : State) (k : TokKey) (spec : Bool) : Bool :=
  spec && s.cancels.any (fun x => x.1 == k.ctx && x.2.1 == k.gen && decide (k.tokenId > x.2.2))

/-- Bytes of a whole return of a layer. -/
def returnBytes (s : State) (h : RetHdr) : Nat := layerSet s h.ctx h.layer 0x03 * (if h.format = 1 then 4 else 2)

/-- A segment of a return that the confluence drops: the return's buffer is released, and a return that has come whole is
counted and is outstanding no longer (03 R108, R113, R116). -/
def dropReturn (s : State) (h : RetHdr) : State :=
  let k := retKey h
  let need := cdiv (returnBytes s h) 8192
  let x := ((confOf s k).map (fun c => if c.bay = bayOf h.originStone then rankOf c h.rank else Rank.initial)).getD Rank.initial
  if rankOutstanding x then
    let segs := if x.segs.any (fun p => p.1 == h.segment) then x.segs else x.segs ++ [(h.segment, [])]
    let all := decide (need ≤ segs.length)
    let s := modConf s k (fun c => setRank c h.rank { x with segs := segs, buf := none, lost := all })
    let s := match x.buf with
      | some b => release s b
      | none => s
    if all then freeGens (count s 0xA021 0x08) else s
  else if need ≤ h.segment + 1 then count s 0xA021 0x08
  else s

/-- A return is not wanted (03 R108, R113, R116); ORIGIN_STONE selects the confluence of its bay (R109). -/
def returnUnwanted (s : State) (h : RetHdr) : Bool :=
  match confOf s (retKey h) with
  | none => true
  | some c =>
    let x := rankOf c h.rank
    decide (c.bay ≠ bayOf h.originStone) || (match genOf s c.bay h.ctx h.gen with | some g => g.retired | none => true) || isCancelled s (retKey h) h.spec ||
      !rankOutstanding x

/-- A segment is stored in its rank's buffer; a complete return is combined in its turn (03 R110). -/
def placeReturn (s : State) (handle : Nat) (h : RetHdr) (payload : List Byte) : State :=
  let s := sramWrite s (handleStone handle) (handleOff handle + 8192 * h.segment) payload
  let need := cdiv (returnBytes s h) 8192
  let s := modConf s (retKey h) (fun c =>
    let x := rankOf c h.rank
    let segs := if x.segs.any (fun p => p.1 == h.segment) then x.segs else x.segs ++ [(h.segment, payload)]
    let c := setRank c h.rank { x with segs := segs, complete := decide (segs.length ≥ need), path := h.path, buf := some (BitVec.ofNat 32 handle) }
    { c with varying := c.varying || decide (h.path = 1 ∨ h.path = 2) })
  advance s (retKey h)

/-- A return segment reaches its confluence. -/
def takeReturn (s : State) (h : RetHdr) (payload : List Byte) : State :=
  if returnUnwanted s h then dropReturn s h
  else match confOf s (retKey h) with
    | none => s
    | some c =>
      match (rankOf c h.rank).buf with
      | some b => placeReturn s b.toNat h payload
      | none =>
        match takeBuffer s c.bay 1 (returnBytes s h) 1 (.ret h payload) with
        | (s, some b) => placeReturn s b h payload
        | (s, none) => s

/-- A waiting return has been granted a buffer (09 R282). -/
def grantReturn (s : State) (handle : Nat) (h : RetHdr) (payload : List Byte) : State :=
  if returnUnwanted s h then dropReturn (release s (BitVec.ofNat 32 handle)) h
  else match (confOf s (retKey h)).bind (fun c => (rankOf c h.rank).buf) with
    | some b => placeReturn (release s (BitVec.ofNat 32 handle)) b.toNat h payload
    | none => placeReturn s handle h payload

/-! ### Generations (03 R113 to R115) -/

/-- A scoring request that never reached its confluence, as a token of it. -/
def tokConf (s : State) (t : Tok) : Conf :=
  { key := t.key, bay := bayOf t.origin, origin := t.origin, stone := t.stone, recOff := t.recOff, pc := t.pc, spec := t.spec,
    signal := t.signal, payload := t.payload, choices := [], alternates := [], pendingClaims := [], ranks := [], weights := some [],
    added := 0, acc := List.replicate (layerSet s t.key.ctx t.key.layer 0x03) 0, varying := false, timedOut := false,
    done := false, stepSlot := t.stepSlot, blocks := t.blocks, position := t.position }

/-- A generation is retired (03 R113, R114): refused (none) while a committed token of it is incomplete, unless R78 or a fence
has applied to it; then its waiting tokens complete with TIMED_OUT. A generation that is not open is left alone. -/
def retireGen (s : State) (c g : Nat) : Option State :=
  let gs := s.gens.filter (fun x => x.ctx == c && x.gen == g && !x.retired)
  let mine (k : TokKey) : Bool := k.ctx == c && k.gen == g
  if gs.isEmpty then some s
  else
    let open_ := s.confs.any (fun f => mine f.key && !f.spec && !f.done) || s.toks.any (fun t => mine t.key && !t.spec)
    let forced := gs.any (·.forced)
    if open_ ∧ forced = false then none
    else
      let s := if forced then
        let ts := s.toks.filter (fun t => mine t.key)
        let s := forEach { s with toks := s.toks.filter (fun t => !mine t.key), confs := s.confs ++ ts.map (tokConf s) } ts unhold
        let ks := (s.confs.filter (fun f => mine f.key && !f.done)).map (·.key)
        forEach s ks (fun t k => endToken (dropBufs (modConf t k (fun f => { f with timedOut := true })) k (fun _ _ => true)) k)
      else s
      some (freeGens { s with gens := mapWhere s.gens (fun x => x.ctx == c && x.gen == g) (fun x => { x with retired := true }) })

/-! ### Discarded requests (02 R49, R63, R587, 03 R589) -/

/-- A scoring request that has left its stone is discarded: counted, reported, and its context stops at that request. -/
def discardRequest (s : State) (bay stone pc recOff : Nat) : State :=
  let c := (stoneOf s stone).owner
  let s := freeSubmit s stone pc recOff
  let s := stopLate s stone
  raise1 (count s 0xA020 0x04) 1 0x12 2 bay c 0

/-- A token's request is discarded before any of its claims has left. -/
def discardConf (s : State) (k : TokKey) (bay : Nat) : State :=
  match confOf s k with
  | none => s
  | some c => discardRequest { s with confs := s.confs.filter (fun f => f.key != k) } bay c.stone c.pc c.recOff

end Sys2Proof.Machine
end

