-- ==== Sys2Proof/Machine/Ledger.lean ====
section
/-! DEFINITION. The admission ledgers and the run of a replica's queue (03 R71 to R90, R102, R117; 04 R134, R138 to R145):
claims, the placement blocks of lead routers, admission in the fixed order, run parts and deadlines. -/

namespace Sys2Proof.Machine

/-! ### Placement blocks (03 R70, R72, R73, R589) -/

/-- Generation `b` is not earlier than `a`, modulo 2^16. -/
def genLe (a b : Nat) : Bool := decide ((b + 65536 - a) % 65536 < 32768)

/-- Updates that reach their generation take effect: the routers' cached blocks of their experts are invalidated (03 R73). -/
def takeEffect (s : State) (c layer gen : Nat) : State :=
  let hit (u : PUpdate) : Bool := u.stored && !u.effective && u.ctx == c && u.layer == layer && genLe u.gen gen
  let es := (s.pupdates.filter hit).map (·.expert)
  if es.isEmpty then s
  else
    let keep (x : Nat × Nat × Nat × List Replica) : Bool := !(x.1 == c && x.2.1 == layer && es.contains x.2.2.1)
    { s with pupdates := mapWhere s.pupdates hit (fun u => { u with effective := true }),
             routers := s.routers.map (fun p => (p.1, { p.2 with cache := p.2.cache.filter keep })) }

/-- Replica count R of a block: its leading valid records. -/
def replicaCount (b : List Replica) : Nat := (b.takeWhile (·.valid)).length

/-- The block's form (03 R70): valid records first, and aligned runs of stones. -/
def blockOk (b : List Replica) : Bool :=
  let v := b.takeWhile (·.valid)
  !v.isEmpty && (b.drop v.length).all (fun r => !r.valid) && b.all (fun r => decide (r.resv = 0)) &&
    v.all (fun r => decide (r.span ≤ 6) && decide (r.firstStone % 2 ^ r.span = 0))

/-- The packages of the job whose start record the part holds as PREPARED, COMMITTED or RUNNING, if it holds one (03 R70). -/
def heldJobList (s : State) : Option (List Nat) :=
  if s.starts.any (fun p => p.2 == .prepared || p.2 == .committed || p.2 == .running) then some s.jobList else none

def blockInJob (s : State) (b : List Replica) : Bool :=
  match heldJobList s with
  | some l => (b.filter (·.valid)).all (fun r => l.contains r.pkg)
  | none => true

/-- Static placement: every record on this package names stones of a KIND 0 object of the expert and layer (03 R73). -/
def staticOk (s : State) (c layer expert : Nat) (b : List Replica) : Bool :=
  getE s 0x4001 0x01 != 0 || (b.filter (fun r => r.valid && r.pkg == pkgId s)).all (fun r =>
    (objectsOf s c).any (fun p => p.2.valid && p.2.kind == 0 && p.2.layer == layer && p.2.expert == expert &&
      p.2.firstStone == r.firstStone && p.2.span == r.span))

/-- The pond address of an expert's block. -/
def blockAddr (s : State) (c layer expert : Nat) : Nat := layerSet s c layer 0x14 + 64 * expert

/-- The block that the loader or an update of this package wrote last for an expert. -/
def placedBlock (s : State) (c layer expert : Nat) : List Replica :=
  (((ctxOf s c).placed.find? (fun x => x.1 == layer && x.2.1 == expert)).map (·.2.2)).getD []

/-- The block of an expert as its table holds it: in this package's own tier 1, or as last written where the table lies elsewhere or
cannot be read (DESIGN CHOICE, log entry 128). -/
def heldBlock (s : State) (c layer expert : Nat) : List Replica :=
  let a := blockAddr s c layer expert
  if pondPos a = gridPos s ∧ pondAddrOk a then
    match pondRead s a 64 with
    | some bs => unpackBlock bs
    | none => placedBlock s c layer expert
  else placedBlock s c layer expert

/-- The block under which a claim of a generation is made, where a read or a cache gives `b`: an update counts from its generation
on, and earlier ones keep the block before it (03 R73). -/
def blockFor (s : State) (c layer expert gen : Nat) (b : List Replica) : List Replica :=
  match s.pupdates.find? (fun u => u.stored && u.ctx == c && u.layer == layer && u.expert == expert) with
  | some u => if genLe u.gen gen then u.block else u.old
  | none => b

/-- The block in force: the table's, or the one before an update that has not taken effect (03 R72, R73). -/
def blockInForce (s : State) (c layer expert : Nat) : List Replica :=
  match s.pupdates.find? (fun u => u.stored && !u.effective && u.ctx == c && u.layer == layer && u.expert == expert) with
  | some u => u.old
  | none => heldBlock s c layer expert

/-- The block in a router's placement cache. -/
def cachedBlock (s : State) (bay c layer expert : Nat) : Option (List Replica) :=
  ((routerOf s bay).cache.find? (fun x => x.1 == c && x.2.1 == layer && x.2.2.1 == expert)).map (·.2.2.2)

/-- A block read from its table enters a router's cache; with 2,048 blocks there the one that entered first goes (DESIGN CHOICE, log
entry 125). -/
def cacheBlock (s : State) (bay c layer expert : Nat) (b : List Replica) : State :=
  let r := routerOf s bay
  setRouter s bay { r with cache := ((c, layer, expert, b) :: r.cache).take 2048 }

/-! ### Claims (03 R74, R77; 04 R134) -/

def isClaimOf (c layer gen : Nat) (x : Claim) : Bool := x.choice.ctx == c && x.choice.layer == layer && x.choice.gen == gen

/-- Claims reach their home (03 R74): held until the admission; with EARLY_FETCH the first claim for a replica raises its
fetch. Claims of an admission that has aborted here are discarded (03 R78). -/
def takeClaims (s : State) (cs : List Claim) : State :=
  let ord := nextOrd s
  let lost (x : Claim) : Bool := barrierEnded s x.choice.ctx x.choice.layer x.choice.gen (· != 0)
  forEach s (cs.filter (fun x => !lost x)) (fun t x =>
    let c := x.choice
    let first := !(t.claims.any (fun y => isClaimOf c.ctx c.layer c.gen y && y.rep == x.rep))
    let t := { t with claims := t.claims ++ [x] }
    if first ∧ layerSet t c.ctx c.layer 0x1B = 1 then
      match replicaObj t c.ctx c.layer x.rep.firstStone with
      | some (n, _) => raiseFetch t c.ctx n (if c.spec then 2 else 1) ord
      | none => t
    else t)

/-- The claims of a token whose blocks are all in hand leave its lead router, one bundle for each home package. -/
def sendClaims (s : State) (k : TokKey) : State :=
  match confOf s k with
  | none => s
  | some c =>
    let cs : List Claim := (c.choices.zipIdx.filterMap (fun p =>
      (rankOf c (p.2 + 1)).rep.map (fun rep =>
        { choice := { tokenId := k.tokenId, gen := k.gen, layer := k.layer, ctx := k.ctx, originPkg := pkgId s,
                      originStone := c.origin, spec := c.spec, rank := p.2 + 1, replica := p.1.replica, expert := p.1.expert,
                      status := 0 }, rep := rep })))
    forEach s ((cs.map (·.rep.pkg)).dedup) (fun t p =>
      let l := cs.filter (fun x => x.rep.pkg == p)
      if p = pkgId t then takeClaims t l
      else sendChoices { t with bundles := t.bundles ++ [{ ctx := k.ctx, layer := k.layer, gen := k.gen, home := p }] } p 3 1
        ((l.map (·.rep.firstStone)).headD 0) (l.map (·.choice)))

/-- A rank's replica is fixed by its expert's block (02 R65, 03 R589). -/
def fixReplica (c : Conf) (r : Nat) (b : List Replica) : Conf :=
  let n := replicaCount b
  let e := (c.choices[r - 1]?).map (·.expert)
  let i := replicaOf c.key.tokenId (e.getD 0) n
  let c := { c with choices := modAt c.choices (r - 1) (fun x => { x with replica := i }),
                    pendingClaims := c.pendingClaims.filter (· != r) }
  setRank c r { rankOf c r with rep := b[i]? }

/-- An expert's block is in hand for every token led by a router that waits for it (03 R589): where it names no replica the
tokens are discarded, otherwise their claims leave once they wait for no other block. -/
def giveBlock (s : State) (bay c layer expert : Nat) (ok : Bool) (b : List Replica) : State :=
  let waits (f : Conf) : List Nat :=
    if f.key.ctx = c ∧ f.key.layer = layer ∧ leadRouter s f.origin = some bay then
      f.pendingClaims.filter (fun r => (f.choices[r - 1]?).map (·.expert) == some expert) else []
  forEach s ((s.confs.filter (fun f => !(waits f).isEmpty)).map (fun f => (f.key, waits f))) (fun t p =>
    let b := blockFor s c layer expert p.1.gen b
    if ok = false ∨ replicaCount b = 0 then discardConf t p.1 bay
    else
      let t := modConf t p.1 (fun f => p.2.foldl (fun f r => fixReplica f r b) f)
      match confOf t p.1 with
      | some f => if f.pendingClaims.isEmpty then sendClaims t p.1 else t
      | none => t)

/-- The lead router looks up the blocks of a token's choices: from its cache, or by reads (03 R72). -/
def lookBlocks (s : State) (bay : Nat) (k : TokKey) : State :=
  let s := takeEffect s k.ctx k.layer k.gen
  match confOf s k with
  | none => s
  | some c =>
    let es := (c.choices.map (·.expert)).dedup
    let s := { s with blocksReading := s.blocksReading ++ ((es.filter (fun e => (cachedBlock s bay k.ctx k.layer e).isNone &&
      !s.blocksReading.contains (k.ctx, k.layer, e, bay))).map (fun e => (k.ctx, k.layer, e, bay))) }
    let far := es.filter (fun e => (cachedBlock s bay k.ctx k.layer e).isNone && isFar s (blockAddr s k.ctx k.layer e) &&
      (s.blocksReading.filter (fun x => x.1 == k.ctx && x.2.1 == k.layer && x.2.2.1 == e)).length == 1)
    let s := unitRequests s 3 0 (far.flatMap (fun e => loadReqs s (tableTag k.ctx k.layer e) 0 (blockAddr s k.ctx k.layer e) 64))
    forEach s es (fun t e => match cachedBlock t bay k.ctx k.layer e with
      | some b => giveBlock t bay k.ctx k.layer e true b
      | none => t)

/-! ### Admission (03 R80 to R84, R117) -/

/-- A replica's capacity counters (03 R71): by its expert and replica index. -/
def repKey (c : Choice) : Nat := c.expert * 16 + c.replica

/-- The order of 03 R80 within committed or within speculative choices. -/
def claimOrder (x : Claim) : Nat := x.choice.tokenId * 16 + x.choice.rank - 1

/-- A choice under admission: its ledger entry, whether it is carried, and what the first pass of 03 R81 made of it (0 main
run, 1 spill, else a status). -/
structure Adm where
  a : Admitted
  carried : Bool
  out : Nat
  deriving DecidableEq, Repr

def newAdmitted (x : Claim) : Admitted :=
  { claim := x, adm := x.choice.gen, part := 0, slot := none, buffer := none, arrived := false, taken := false, ran := false, resend := false, path := 0 }

/-- The first pass of 03 R81, under the availability of R79, over the choices in their order: `used` by replica, `free` slots. -/
def admitPass (fenced : List Nat) (cap : Nat) : List Adm → Tbl Nat → Nat → List Adm
  | [], _, _ => []
  | x :: t, used, free =>
    let c := x.a.claim.choice
    let k := repKey c
    let u := tget 0 used k
    let avail := repAvailable fenced x.a.claim.rep
    if x.carried then
      if (!avail || c.status == 7) && !x.a.ran then { x with out := 7 } :: admitPass fenced cap t used free
      else if u < cap then { x with out := 0 } :: admitPass fenced cap t (tput 0 used k (u + 1)) free
      else { x with out := 1 } :: admitPass fenced cap t used free
    else if !avail then { x with out := 6 } :: admitPass fenced cap t used free
    else if u < cap then { x with out := 0 } :: admitPass fenced cap t (tput 0 used k (u + 1)) free
    else if c.spec then { x with out := 5 } :: admitPass fenced cap t used free
    else if 0 < free then { x with out := 1 } :: admitPass fenced cap t used (free - 1)
    else { x with out := 4 } :: admitPass fenced cap t used free

/-- The second pass of 03 R81: each replica's spilled choices take the slack in order; the rest are carried. The part of the
run is set: 0 main run, 1 slack pass, 2 carried. -/
def slackPass (slack : Nat) : List Adm → Tbl Nat → List Adm
  | [], _ => []
  | x :: t, left =>
    if x.out = 1 then
      let k := repKey x.a.claim.choice
      let n := (tlook left k).getD slack
      if 0 < n then { x with a := { x.a with part := 1 } } :: slackPass slack t (tins left k (n - 1))
      else { x with a := { x.a with part := 2 } } :: slackPass slack t (tins left k 0)
    else { x with a := { x.a with part := 0 } } :: slackPass slack t left

/-- The verdict of a newly admitted choice. -/
def verdictOf (x : Adm) : Nat := if x.out = 0 then 1 else if x.out = 1 then (if x.a.part = 1 then 2 else 3) else x.out

/-- The lowest spill slots that are free on the package, `n` of them. -/
def freeSlots (s : State) (n : Nat) : List Nat := ((List.range (n + s.slots.length)).filter (fun i => !s.slots.contains i)).take n

/-- The hot reports of an admission (03 R117), in the order in which its replicas first appear in the admission list (DESIGN CHOICE, log
entry 125). A choice that R81 neither charges nor claims, a carried one found stranded, is no demand. -/
def hotReport (s : State) (c layer gen : Nat) (xs : List Adm) (cap : Nat) : State :=
  let base := getE s 0xA028 0x01
  let thr := layerSet s c layer 0x16
  if base = 0 ∨ thr = 0 then s
  else forEach s ((xs.map (fun x => repKey x.a.claim.choice)).dedup) (fun t k =>
    let ys := xs.filter (fun x => repKey x.a.claim.choice == k && !(x.carried && x.out == 7))
    if ys.isEmpty || decide (ys.length * 100 < thr * cap) then t
    else
      let spilt := (ys.filter (fun x => x.out != 0)).length
      let rec_ := (k / 16) % 65536 * 2 ^ 112 + k % 16 * 2 ^ 108 + layer % 256 * 2 ^ 100 + c % 256 * 2 ^ 92 + gen % 65536 * 2 ^ 76 +
        min 65535 ys.length * 2 ^ 60 + cap % 65536 * 2 ^ 44 + min 65535 spilt * 2 ^ 28
      let h := getE t 0xA028 0x02
      holdSource (setE (memWrite t (base + 16 * h) (toLE 16 rec_)) 0xA028 0x02 ((h + 1) % 256)) 9)

/-- The RUNs of a layer that are in flight on a context's stone, oldest first. -/
def runsOn (s : State) (c layer st : Nat) : List ERun :=
  if (stoneOf s st).owner = some c then (stoneOf s st).eruns.filter (fun e => e.layer == layer) else []

/-- The oldest RUN of a layer on each stone of a replica. -/
def waitingRuns (s : State) (c layer first span : Nat) : List (Nat × ERun) :=
  ((List.range (2 ^ span)).map (· + first)).filterMap (fun st => (runsOn s c layer st).head?.map (fun e => (st, e)))

/-- Staging row stride of a slice of n blocks (03 R102). -/
def rowStride (n : Nat) : Nat := 8 * cdiv (33 * n) 8

/-- The batch-table header (03 R102). -/
def batchHeader (layer gen stride cnt part : Nat) (shadow fin : Bool) : Nat :=
  layer % 256 * 2 ^ 48 + gen % 65536 * 2 ^ 32 + stride % 65536 * 2 ^ 16 + cnt % 256 * 2 ^ 8 + part % 4 * 2 ^ 6 +
    b2n shadow * 2 ^ 5 + b2n fin * 2 ^ 4

/-- A RUN of one stone ends: its batch table is written and its in-flight slot freed. -/
def endRun (s : State) (st : Nat) (e : ERun) (hdr : Nat) (es : List Admitted) : State :=
  let s := sramWrite s st e.table (toLE 16 hdr ++ es.flatMap (fun a => toLE 16 (packEntry a)))
  completeSlot (modStone s st (fun x => { x with eruns := x.eruns.erase e })) st e.pc 6 e.signal

/-- Blocks of a RUN's slice, for the layer of the run that it serves. -/
def sliceBlocks (s : State) (c layer : Nat) (e : ERun) : Nat := if e.blocks = 0 then layerSet s c layer 0x03 / 32 else e.blocks

/-- Choices of a replica's run that no RUN has taken, in ledger order. -/
def untaken (s : State) (r : RunSt) (p : Nat) : List Admitted :=
  s.admitted.filter (fun a => a.claim.choice.ctx == r.ctx && a.claim.choice.layer == r.layer &&
    a.claim.rep.firstStone == r.first && a.adm == r.gen && a.part == p && !a.taken && !a.ran && a.claim.choice.status != 7)

/-- The run goes on to the next part that has choices left; each part decides about its deadline afresh (04 R143). -/
def advPart (s : State) (r : RunSt) : RunSt :=
  let next (q : RunSt) : RunSt :=
    if q.part < 2 ∧ (untaken s q q.part).isEmpty then
      { q with part := q.part + 1, due := false, missed := false, graceOver := false, shadow := false }
    else q
  next (next r)

/-- The run is past its slack pass, and no batch of it is being staged. -/
def runAtCarry (s : State) (r : RunSt) : Bool := r.staged.isEmpty && (advPart s r).part == 2

/-- The layer's next admission ends the runs that are past their slack pass: RUNs that wait for the carry run complete with
COUNT 0 and END (03 R102), and with PART 2, the carry run that they waited for (DESIGN CHOICE, log entry 125). Runs whose main run or slack pass is not taken yet go on before the new ones. -/
def endOldRuns (s : State) (c layer : Nat) : State :=
  let past (r : RunSt) : Bool := r.ctx == c && r.layer == layer && (r.ended || runAtCarry s r)
  let s' := forEach s (s.runs.filter (fun r => past r && !r.ended)) (fun t r =>
    forEach t (waitingRuns t c layer r.first r.span) (fun u p =>
      endRun u p.1 p.2 (batchHeader layer r.gen (rowStride (sliceBlocks u c layer p.2)) 0 2 false true) []))
  { s' with runs := s'.runs.filter (fun r => !past r) }

/-- A resent choice whose run has ended joins the main run of the next admission that its replica takes part in; it stays
outside the accounting (03 R94). -/
def joinRun (s : State) (gen : Nat) (a : Admitted) : Admitted :=
  let c := a.claim.choice
  if a.resend ∧ !a.taken ∧ !(s.runs.any (fun r => isRunOf c.ctx c.layer a.claim.rep.firstStone r && r.gen == a.adm)) then
    { a with part := 0, adm := gen } else a

/-- The replicas of a layer on this package, as (first stone, SPAN): each has its weight object (04 R128). -/
def layerReplicas (s : State) (c layer : Nat) : List (Nat × Nat) :=
  ((objectsOf s c).filter (fun p => p.2.valid && p.2.kind == 0 && p.2.mode != 2 && p.2.layer == layer)).map
    (fun p => (p.2.firstStone, p.2.span))

/-- The stones that were fenced when the barrier of an admission completed (03 R79). -/
def fencedThen (s : State) (c layer gen : Nat) : List Nat :=
  ((s.barriers.find? (fun b => b.ctx == c && b.layer == layer && b.gen == gen)).map (·.fencedAt)).getD []

/-- The admission of one (context, layer, generation) by this package's ledgers (03 R79 to R84). Every replica of the layer has a
run under it, with choices or with none (R102). The spill reservation is the present SPILL_SLOTS (DESIGN CHOICE, log entry 125: R67
lets it change after the load that reserved the slots). -/
def admitChoices (s : State) (c layer gen : Nat) : State :=
  let ord := nextOrd s
  let fs := fencedThen s c layer gen
  let s := takeEffect s c layer gen
  let s := endOldRuns s c layer
  let mine (a : Admitted) : Bool := a.claim.choice.ctx == c && a.claim.choice.layer == layer
  let isOld (a : Admitted) : Bool := mine a && a.part == 2 && !a.resend
  let olds := s.admitted.filter isOld
  let cs := s.claims.filter (isClaimOf c layer gen)
  let com := sortBy claimOrder (cs.filter (fun x => !x.choice.spec))
  let spc := sortBy claimOrder (cs.filter (fun x => x.choice.spec))
  let cap := layerSet s c layer 0x10
  let l0 : List Adm := olds.map (fun a => { a := a, carried := true, out := 0 }) ++
    (com ++ spc).map (fun x => { a := newAdmitted x, carried := false, out := 0 })
  let l := slackPass (layerSet s c layer 0x11) (admitPass fs cap l0 [] (layerSet s c layer 0x12 - olds.length)) []
  let news := l.filter (fun x => !x.carried)
  let spilled := news.filter (fun x => x.out == 1)
  let sl := freeSlots s spilled.length
  let news' := news.map (fun x => { x with a := { x.a with
    claim := { x.a.claim with choice := { x.a.claim.choice with status := verdictOf x } },
    slot := if x.out = 1 then sl[spilled.findIdx (· == x)]? else none } })
  let strands := l.filter (fun x => x.carried && x.out == 7 && x.a.claim.choice.status != 7)
  let keepOld := (l.filter (fun x => x.carried && x.out != 7 && !(x.a.ran && x.a.part != 2))).map (fun x => { x.a with adm := gen })
  let keepNew := (news'.filter (fun x => x.out == 0 || x.out == 1)).map (·.a)
  let reps := (layerReplicas s c layer ++ (keepOld ++ keepNew).map (fun a => (a.claim.rep.firstStone, a.claim.rep.span))).dedup
  let s := { s with
    claims := s.claims.filter (fun x => !isClaimOf c layer gen x),
    slots := (s.slots.filter (fun n => !(strands.any (fun x => x.a.slot == some n)))) ++ sl,
    admitted := (s.admitted.filter (fun a => !isOld a)).map (fun a => if mine a then joinRun s gen a else a) ++ keepOld ++ keepNew,
    runs := s.runs ++ reps.map (fun p => newRun c layer gen p.1 p.2),
    barriers := mapWhere s.barriers (fun b => b.ctx == c && b.layer == layer && b.gen == gen) (fun b => { b with ended := true }) }
  let s := forEach s reps (fun t p =>
    let t := windowAfter t c layer p.1
    let ys := (keepOld ++ keepNew).filter (fun a => a.claim.rep.firstStone == p.1 && a.part != 2)
    match replicaObj t c layer p.1 with
    | some (n, _) =>
      if !ys.isEmpty then
        let t := if olds.any (fun a => a.claim.rep.firstStone == p.1) then setWin t (winKey c n) { winOf t (winKey c n) with held := false } else t
        raiseFetch t c n (if ys.any (fun a => !a.claim.choice.spec || a.part != 0) then 1 else 2) ord
      else t
    | none => t)
  let s := hotReport s c layer gen l cap
  let vs := news'.map (fun x => x.a.claim.choice) ++ strands.map (fun x => { x.a.claim.choice with status := 7 })
  let s := giveVerdicts (forEach s vs (fun t v => countVerdict t v.status)) vs
  strandChoices s (fun a => mine a && a.adm == gen && !repAvailable (s.fenced ++ s.fuses.factoryFenced) a.claim.rep)

/-! ### Run parts (03 R88, R102; 04 R138 to R145) -/

/-- The run that a replica is at changes. -/
def modRun (s : State) (c layer first : Nat) (f : RunSt → RunSt) : State :=
  { s with runs := mapWhere s.runs (fun r => runOf s c layer first == some r) f }

/-- Choices of some parts of a run that have not finished. -/
def unfinished (s : State) (r : RunSt) (p : Nat → Bool) : Bool :=
  s.admitted.any (fun a => a.claim.choice.ctx == r.ctx && a.claim.choice.layer == r.layer &&
    a.claim.rep.firstStone == r.first && a.adm == r.gen && p a.part && !a.ran && a.claim.choice.status != 7)

/-- The bytes of a choice's token copy: in its cistern buffer, or in its spill slot. -/
def copyBytes (s : State) (a : Admitted) (n : Nat) : List Byte :=
  match a.slot, a.buffer with
  | some k, _ => memRead s (spillAddr k) n
  | none, some h => sramRead s (handleStone h.toNat) (handleOff h.toNat) n
  | none, none => List.replicate n 0

/-- A staged row (03 R102): the slice's values, its exponents, and zero bytes up to the stride. -/
def stageRow (d b0 n : Nat) (copy : List Byte) : List Byte :=
  let row := (copy.drop (32 * b0)).take (32 * n) ++ (copy.drop (d + b0)).take n
  (row ++ List.replicate (rowStride n) 0).take (rowStride n)

/-- No choice of the run is left for a further batch. -/
def lastBatch (s : State) (r : RunSt) : Bool :=
  [0, 1, 2].all (fun p => (untaken s r p).all (fun a => r.batch.contains a))

/-- The batch of a replica is formed for the RUN of its first stone: up to MAX entries of the current part whose data has
come, once the part is due and its weights, or its shadow, are at hand; with nothing left, or after the run's END, an empty batch with
END (03 R102; PART then stays the run's: DESIGN CHOICE, log entry 125). -/
def formBatch (s : State) (r : RunSt) (lead : ERun) : Option RunSt :=
  let r := advPart s r
  let left := untaken s r r.part
  let fill (l : List Admitted) : RunSt :=
    let q := { r with batch := l }
    { q with bPart := r.part, bShadow := r.shadow, bFin := lastBatch s q }
  if r.ended then some { r with batch := [], bPart := r.part, bShadow := false, bFin := true }
  else if r.part = 2 ∧ left.isEmpty then some (fill [])
  else if r.due ∧ (weightsPresent s r.ctx r.layer r.first || r.shadow) ∧ left.any (·.arrived) then
    some (fill ((left.filter (·.arrived)).take lead.maxBatch))
  else none

/-- A batch has been staged in every stone: its buffer references and slots are released (03 R98, R102). A run whose last batch
it was has ended, unless a resent choice has joined it since. -/
def consumeBatch (s : State) (r : RunSt) : State :=
  let es := s.admitted.filter (fun a => a.taken && a.claim.choice.ctx == r.ctx && a.claim.choice.layer == r.layer &&
    a.claim.rep.firstStone == r.first && (a.buffer.isSome || a.slot.isSome))
  let s := forEach s (es.filterMap (·.buffer)) release
  let s := { s with
    slots := s.slots.filter (fun n => !(es.any (fun a => a.slot == some n))),
    admitted := s.admitted.map (fun a => if es.contains a then { a with buffer := none, slot := none } else a) }
  modRun s r.ctx r.layer r.first (fun q =>
    let q := advPart s { q with batch := [], staged := [] }
    { q with ended := q.bFin && lastBatch s q })

/-- The RUN `own` of stone `st` belongs to a replica's run: one of its layer, or of another where the first stone's RUN, whose
LAYER decides, takes the stone's only RUN along (03 R102). -/
def takesRun (s : State) (c st : Nat) (own : ERun) (r : RunSt) : Bool :=
  r.ctx == c && decide (r.first ≤ st) && decide (st < r.first + 2 ^ r.span) &&
    (!(runsOn s c r.layer r.first).isEmpty || !r.staged.isEmpty) &&
    (own.layer == r.layer || (st != r.first && (runsOn s c r.layer st).isEmpty))

/-- The batch that a RUN of stone `st` stages: the one being staged, or a new one for the first stone's RUN; none while the RUN
must wait. -/
def batchFor (s : State) (c st : Nat) (r : RunSt) : Option RunSt :=
  if !r.staged.isEmpty then (if r.staged.contains st then none else some r)
  else (runsOn s c r.layer r.first).head?.bind (formBatch s r)

/-- One RUN of a stone stages its rows and completes (03 R102); none while it must wait. -/
def stageOne (s : State) (c st : Nat) (own : ERun) : Option State :=
  let rs := s.runs.filter (takesRun s c st own)
  match ((rs.find? (fun r => !r.ended)).or rs.getLast?).bind (batchFor s c st) with
  | none => none
  | some q =>
    let d := layerSet s c q.layer 0x03
    let n := sliceBlocks s c q.layer own
    let rows := q.batch.flatMap (fun a => stageRow d own.block0 n (copyBytes s a (d + d / 32)))
    let s := forEach s q.batch (fun t a => match a.slot, a.buffer with
      | some k, _ => loadPass t (wytheOf st) (spillAddr k) (33 * n)
      | none, some h => passBytes t (wytheOf (handleStone h.toNat)) (wytheOf st) (33 * n)
      | none, none => t)
    let s := modRun s c q.layer q.first (fun _ =>
      { q with batch := q.batch.map (fun a => { a with taken := true }), staged := q.staged ++ [st] })
    let s := { s with admitted := s.admitted.map (fun a => if q.batch.contains a then { a with taken := true } else a) }
    let s := sramWrite s st own.stage rows
    let s := endRun s st own (batchHeader q.layer q.gen (rowStride n) q.batch.length q.bPart q.bShadow q.bFin) q.batch
    some (if ((List.range (2 ^ q.span)).map (· + q.first)).all (fun i => (q.staged ++ [st]).contains i) then consumeBatch s q else s)

/-- The oldest RUN of a stone that can complete does so. -/
def stageRun (s : State) (st : Nat) : State :=
  match (stoneOf s st).owner with
  | none => s
  | some c => ((stoneOf s st).eruns.findSome? (stageOne s c st)).getD s

/-- The choices of a missed run part leave the queue, and a miss notice goes to each token's confluence (04 R145). A carried choice of
a missed carry run is never run here, and stays for the accounting of the layer's next admission (03 R82, R87). The notices of this
package's own tokens are returned. -/
def missPart (s : State) (r : RunSt) : State × List Choice :=
  let es := untaken s r r.part
  let s := forEach s (es.filterMap (·.buffer)) release
  let s := { s with slots := s.slots.filter (fun n => !(es.any (fun a => a.slot == some n))),
                    admitted := (s.admitted.filter (fun a => !(es.contains a && (a.part != 2 || a.resend)))).map (fun a =>
                      if es.contains a then { a with buffer := none, slot := none, ran := true } else a) }
  let cs := es.map (·.claim.choice)
  let far := cs.filter (fun c => c.originPkg != pkgId s)
  (forEach s ((far.map (·.originPkg)).dedup) (fun t p =>
    let l := far.filter (fun c => c.originPkg == p)
    sendChoices t p 4 2 ((l.map (·.originStone)).headD 0) l), cs.filter (fun c => c.originPkg == pkgId s))

/-- Tries the unused alternates of a token for one of its ranks in turn (04 R145): the first whose weights this package
holds, or whose replica lies elsewhere, is sent the token; with none left the rank is dropped. -/
def tryAlternates (k : TokKey) (r : Nat) : Nat → State → State
  | 0, s => exhaustRank s k r
  | f + 1, s =>
    match confOf s k with
    | none => s
    | some c =>
      match c.alternates with
      | [] => exhaustRank s k r
      | e :: rest =>
        let s := modConf s k (fun c => { c with alternates := rest })
        let bay := (leadRouter s c.origin).getD c.bay
        let b := blockFor s k.ctx k.layer e k.gen ((cachedBlock s bay k.ctx k.layer e).getD (heldBlock s k.ctx k.layer e))
        match b[replicaOf k.tokenId e (replicaCount b)]? with
        | none => tryAlternates k r f s
        | some rep =>
          if rep.valid = false then tryAlternates k r f s
          else if rep.pkg = pkgId s ∧ weightsPresent s k.ctx k.layer rep.firstStone = false then tryAlternates k r f s
          else resendRank s k r rep true

/-- A miss notice or a not-resident answer reaches a token's confluence (04 R145). -/
def takeMiss (s : State) (k : TokKey) (r : Nat) : State :=
  match confOf s k with
  | none => s
  | some c => if isDelivered (rankOf c r) && !(rankOf c r).complete then freeGens (tryAlternates k r 16 s) else s

end Sys2Proof.Machine
end

