-- ==== Sys2Proof/Machine/Expert.lean ====
section
/-! DEFINITION. The commands of scoring, dispatch and the memory tiers (02, 03, 04, 09): the EXPERT class, the events of the
routers, ledgers, sluices and confluences, and the dictionary writes of these chapters. -/

namespace Sys2Proof.Machine

/-- Operand fields of an EXPERT instruction and its header. -/
def expertOk (h : IHdr) (fs : List (Nat × Nat)) (o : Operands) : Bool := headerOk h false && onlyFields fs o

/-- The address register that an operand field names. -/
def regFld (s : State) (st hi lo : Nat) (o : Operands) : Nat := (reg s st (fld hi lo o)).toNat

/-! ### SUBMIT and scoring (02, 03 R101) -/

/-- Blocks that a layer's scoring request carries (02 R61). -/
def layerBlocks (s : State) (c n : Nat) : Nat :=
  layerSet s c n 0x03 / 32 + (if layerSet s c n 0x01 = 2 then layerSet s c n 0x0A / 32 else 0)

/-- The sequence position of a token id in a step's range of token ids from `first`, `n` long (15 R488, 13 R443). -/
def rangePosition (first n pos id : Nat) : Option Nat :=
  let i := (id + 2 ^ 32 - first) % 2 ^ 32
  if i < n then some ((pos + i) % 2 ^ 24) else none

/-- The sequence position of a token of the step that the context runs: from FIRST_POSITION of its STEP entry, or from
PREFILL_POSITION of its chunk; none for a token that the step does not name. -/
def stepPosition (s : State) (c id : Nat) : Option Nat :=
  match (ctxOf s c).current with
  | none => none
  | some r =>
    let d := r.desc.toNat
    (rangePosition (bits 255 224 d) (bits 223 208 d) r.firstPos id).or
      (rangePosition (bits 191 160 d) (bits 159 144 d) (bits 143 120 d) id)

/-- The waiting requests of a layer that no longer fits, or whose P is 0, are discarded (02 R49). -/
def discardWaiting (s : State) (bay ctx layer gen : Nat) : State :=
  let dead := s.toks.filter (fun t => t.key.ctx == ctx && t.key.layer == layer && t.key.gen == gen && !t.waits)
  forEach { s with toks := s.toks.filter (fun t => !dead.contains t) } dead (fun u t => discardRequest u bay t.stone t.pc t.recOff)

/-- SCORING_PASS (02 R588, R35, R49): a free router whose share is present scores the waiting tokens. A read that is
uncorrectable streams the share again, and the tokens of the step that still wait for their choice list are scored again; one
whose list is formed is not (DESIGN CHOICE, log entry 124). A second one in the same layer and step fences the router. -/
def execScoringPass (bay ctx layer gen : Nat) (read : GateRead) (s : State) : Res := run s fun s =>
  if layerStatus s ctx layer ≠ 1 then discardWaiting s bay ctx layer gen
  else match hasShare s bay ctx layer with
  | none => s
  | some sh =>
    let r := routerOf s bay
    let waiting := s.toks.any (fun t => t.key.ctx == ctx && t.key.layer == layer && t.key.gen == gen && waitsFor s bay t)
    if r.fenced || !waiting then s
    else match read with
      | .clean => passTokens s bay ctx layer gen sh
      | .corrected => passTokens (raise1 s 0 0x10 2 bay none 0) bay ctx layer gen sh
      | .uncorrected =>
        let s := raise1 s 1 0x11 2 bay none 0
        if r.badOnce.contains (ctx, layer, gen) then raise1 (fenceRouter s bay) 1 0x13 2 bay none 0
        else
          let s := beginStream (setRouter s bay { r with
            shares := r.shares.filter (fun h => h != sh), badOnce := r.badOnce ++ [(ctx, layer, gen)] }) bay ctx layer
          let again (t : Tok) : Tok :=
            if t.key.ctx = ctx ∧ t.key.layer = layer ∧ t.key.gen = gen then rescoreAt s bay t else t
          { s with toks := s.toks.map again }

/-- The reads of a stream in the own tier 1 find their bytes; none where a window refuses one (02 R587). -/
def localParts (s : State) (g : Gather) : Option (List (Nat × List Byte)) :=
  (g.reads.filter (fun x => !isFar s x.2.1)).foldl (fun acc x => match acc, pondReadAll s x.2.1 x.2.2 with
    | some l, some bs => some (l ++ [(x.1, bs)])
    | _, _ => none) (some [])

/-- The bytes that a stream has read, each with its place. None while an answer is awaited; some none where a read has failed: in
another package as its answers say, in the own tier 1 as its windows or `e` say (02 R587). -/
def streamParts (s : State) (g : Gather) (e : StreamEnd) : Option (Option (List (Nat × List Byte))) :=
  let here := g.reads.filter (fun x => !isFar s x.2.1)
  if g.failed || (e == .failed && !here.isEmpty) then some none
  else if g.want ≠ 0 then none
  else some ((localParts s g).map (fun l =>
    l ++ (g.reads.filter (fun x => isFar s x.2.1)).map (fun x => (x.1, gotBytes g.got x.1 x.2.2))))

/-- `n` bytes from a place on, with the parts that lie there written over zeros. -/
def spreadParts (base n : Nat) (ps : List (Nat × List Byte)) : List Byte :=
  (ps.filter (fun p => decide (base ≤ p.1) && decide (p.1 < base + n))).foldl (fun l p =>
    (l.take (p.1 - base) ++ p.2 ++ l.drop (p.1 - base + p.2.length)).take n) (List.replicate n 0)

/-- FP8 gate values as int8 mantissas and block scales (02 R41, 06 R205), with the NaN and infinite values met. -/
def alignGate (fmt : Nat) (vals : List Byte) : List Byte × Nat :=
  let low : Int := if fmt = 1 then -6 else -14
  let bs := (chunksOf 32 (vals.length / 32 + 1) vals).map (fun l =>
    alignBlock 6 low (l.map (fun b => if fmt = 1 then e4m3 b.toNat else e5m2 b.toNat)))
  (bs.flatMap (fun b => b.1.map (fun i => BitVec.ofInt 8 i)) ++ bs.map (fun b => BitVec.ofNat 8 b.2.1), (bs.map (fun b => b.2.2)).sum)

/-- The reads of a stream in the own tier 1 pass the bridge where they must, or the first that a window refuses is counted (01 R24,
11 R344). -/
def passStream (s : State) (b : Nat) (g : Gather) : State :=
  let here := g.reads.filter (fun x => !isFar s x.2.1)
  if (localParts s g).isSome then forEach s here (fun t x => passPieces t (b / 8) x.2.1 x.2.2 winRead loadPass)
  else match here.find? (fun x => (pondReadAll s x.2.1 x.2.2).isNone) with
    | some x => localMiss s x.2.1 x.2.2 winRead
    | none => s

/-- GATE_STREAM_COMPLETE (02 R46, R587): the share is present, or after failed reads the router holds none and the requests of
the layer that wait at the router are discarded. `e` says how the reads in the own tier 1 ended. -/
def execGateStreamComplete (bay ctx layer : Nat) (e : StreamEnd) (s : State) : Res := run s fun s =>
  if (routerOf s bay).fenced then s
  else match gatherOf s bay ctx layer with
  | none => s
  | some g => match streamParts s g e with
    | none => s
    | some (some ps) =>
      match makeRoom s bay (shareBytes s ctx layer) with
      | none => s
      | some keep =>
        let fmt := layerSet s ctx layer 0x06
        let nv := gateValues s ctx layer
        let v := spreadParts 0 (if fmt = 0 then nv + nv / 32 else nv) ps
        let b := if layerSet s ctx layer 0x0E = 0 then [] else spreadParts (2 ^ 32) (2 * biasEntries s ctx layer) ps
        let a := if fmt = 0 then (v, 0) else alignGate fmt v
        let s := passStream s bay g
        let s := setRouter s bay { endStream (routerOf s bay) ctx layer with
          shares := keep ++ [{ ctx := ctx, layer := layer, img := a.1, bias := b }] }
        if a.2 = 0 then s else forEach (countBy s 0xA050 0x08 a.2) (List.range a.2) (fun t _ => raise1 t 0 0x07 2 bay (some ctx) 0)
    | some none =>
      let s := if e = .failed then s else passStream s bay g
      let s := setRouter s bay (endStream (routerOf s bay) ctx layer)
      let s := raise1 s 1 0x11 2 bay (some ctx) 0
      let dead := s.toks.filter (fun t => t.key.ctx == ctx && t.key.layer == layer && waitsFor s bay t)
      forEach { s with toks := s.toks.filter (fun t => !dead.contains t) } dead (fun u t => discardRequest u bay t.stone t.pc t.recOff)

/-- The choice list in its bit layout (02 R64): the request's header unchanged, then the choice entries in rank order. -/
def choiceListBytes (c : Conf) : List Byte :=
  toLE 16 (c.key.tokenId % 2 ^ 32 * 2 ^ 96 + c.key.gen % 65536 * 2 ^ 80 + c.key.layer % 256 * 2 ^ 72 + c.key.ctx % 256 * 2 ^ 64 +
      c.origin % 4096 * 2 ^ 52 + b2n c.spec * 2 ^ 51 + c.blocks % 1024 * 2 ^ 32 + c.stepSlot % 2 ^ 17 * 2 ^ 15) ++
    c.choices.flatMap (fun x =>
      toLE 8 (x.weight.toNat * 2 ^ 32 + x.expert % 65536 * 2 ^ 16 + x.rank % 16 * 2 ^ 12 + x.replica % 16 * 2 ^ 8))

/-- The choice list of a token is formed (02 R37, R53, R64; 04 R144): the token leaves its buffer for its confluence, and the
blocks of its experts are looked up. -/
def formChoices (s : State) (t : Tok) : State :=
  let c := t.key.ctx
  let n := t.key.layer
  let k := layerSet s c n 0x04
  let best := t.parts.take k
  let w := normalise (layerSet s c n 0x05) (best.map (·.raw))
  let chs : List ChoiceEntry := (best.zip w.1).zipIdx.map (fun p =>
    { weight := p.1.2, expert := p.1.1.id, rank := p.2, replica := 0 })
  let f : Conf := { tokConf s t with
    choices := chs, alternates := (t.parts.drop k).map (·.id), pendingClaims := (List.range chs.length).map (· + 1), weights := none }
  let s := countBy (count s 0xA020 0x01) 0xA020 0x02 w.2
  lookBlocks { s with toks := s.toks.filter (· != t), confs := s.confs ++ [f] } t.lead t.key

/-- PARTIAL_SCORES (02 R37): the lead router merges the partial results once every router of the stage has scored the token:
the groups are chosen, or the choice list is formed. -/
def execPartialScores (k : TokKey) (s : State) : Res := run s fun s =>
  match s.toks.find? (fun t => t.key == k) with
  | none => s
  | some t =>
    if stageDone s t = false then s
    else if layerSet s k.ctx k.layer 0x01 = 2 ∧ t.chosen = none then
      askStreams { s with toks := mapWhere s.toks (· == t) (fun t => { t with chosen := some (t.gparts.map (·.id)) }) } k.ctx k.layer
    else formChoices s t

/-- LOADs of the management processors for a placement block that are out or waiting. -/
def managementOut (s : State) (tag : Nat) : Nat :=
  let x := senderOf s (senderKey 3 0)
  ((x.reqs ++ x.waitQ).filter (fun q => q.pc == tag && q.op == 0)).length

/-- PLACEMENT_BLOCK_READ (03 R589): the block comes from this package's tier 1 where the table lies there; a read that ends with
another status than OK gives none. A block in another package is read by LOADs (11 R350), and this command follows their answers. -/
def execPlacementBlockRead (bay ctx layer expert status : Nat) (block : List Replica) (s : State) : Res := run s fun s =>
  if !s.blocksReading.contains (ctx, layer, expert, bay) || decide (managementOut s (tableTag ctx layer expert) ≠ 0) then s
  else
    let s := { s with blocksReading := s.blocksReading.filter (· != (ctx, layer, expert, bay)) }
    let a := blockAddr s ctx layer expert
    let own := decide (pondPos a = gridPos s) && pondAddrOk a
    let b := if status ≠ 0 then none else if own then (pondRead s a 64).map unpackBlock else some block
    match b with
    | some b => giveBlock (if replicaCount b = 0 then s else cacheBlock s bay ctx layer expert b) bay ctx layer expert true b
    | none => giveBlock (if own then localMiss s a 64 winRead else s) bay ctx layer expert false []

/-! ### Claims, admission and verdicts -/

/-- CLAIM_BUNDLE (03 R74): the claims are held for the admission, and the bundle is acknowledged on class 4. -/
def execClaimBundle (srcPkg : Nat) (cs : List Claim) (s : State) : Res := run s fun s =>
  let s := takeClaims s cs
  match cs with
  | [] => s
  | x :: _ => inject s (wytheOf x.rep.firstStone) (mkPacket s srcPkg 4 1 x.choice.originStone 0 [])

/-- CLAIM_BUNDLE_ACK (03 R77). -/
def execClaimBundleAck (ctx layer gen home : Nat) (s : State) : Res := run s fun s =>
  { s with bundles := s.bundles.erase { ctx := ctx, layer := layer, gen := gen, home := home } }

/-- The barrier collective of an admission has completed at this package with a status, or has been aborted before the package could
join it (R77, R78), and its effect on the ledgers is still to come. -/
def barrierOver (s : State) (c n g status : Nat) : Bool :=
  s.barriers.any (fun b => b.ctx == c && b.layer == n && b.gen == g && (b.joined || status != 0) && !b.ended && b.result == some status)

/-- ADMISSION (03 R81): the ledgers decide once the barrier that this package joined completes. -/
def execAdmission (ctx layer gen : Nat) (s : State) : Res := run s fun s =>
  if barrierOver s ctx layer gen 0 then admitChoices s ctx layer gen else s

/-- ADMISSION_ABORT (03 R78): the claims are discarded, a class U fault is raised, and the contexts stop at the scoring
requests of the step; a retire of the generation is accepted from then on (R114). -/
def execAdmissionAbort (ctx layer gen code : Nat) (s : State) : Res := run s fun s =>
  if barrierOver s ctx layer gen code = false ∨ (code ≠ 0x0701 ∧ code ≠ 0x0704) then s
  else
    let stones := ((s.confs.filter (fun f => f.key.ctx == ctx && f.key.layer == layer && f.key.gen == gen && !f.done)).map (·.stone) ++
      (s.toks.filter (fun t => t.key.ctx == ctx && t.key.layer == layer && t.key.gen == gen)).map (·.stone)).dedup
    let lost := s.claims.filter (isClaimOf ctx layer gen)
    let s := { s with
      claims := s.claims.filter (fun x => !isClaimOf ctx layer gen x),
      bundles := s.bundles.filter (fun b => !(b.ctx == ctx && b.layer == layer && b.gen == gen)),
      barriers := mapWhere s.barriers (fun b => b.ctx == ctx && b.layer == layer && b.gen == gen) (fun b => { b with ended := true }),
      gens := mapWhere s.gens (fun g => g.ctx == ctx && g.gen == gen) (fun g => { g with forced := true }) }
    let s := forEach s lost (fun t x => windowAfter t ctx layer x.rep.firstStone)
    raise1 (forEach s stones stopLate) 1 0x14 2 0 (some ctx) code

/-- VERDICT_BUNDLE (03 R95). -/
def execVerdictBundle (srcPkg : Nat) (cs : List Choice) (s : State) : Res := run s fun s => takeVerdicts s srcPkg cs

/-- TOKEN_COPY (03 R98, 04 R145): a copy resent to an alternate whose weights are absent is answered "not resident". -/
def execTokenCopy (srcPkg : Nat) (d : TokenDesc) (payload : List Byte) (s : State) : Res := run s fun s =>
  if d.resend && d.alternate && !weightsPresent s d.ctx d.layer d.targetStone then
    sendChoices s srcPkg 4 2 0 ((resentEntries s srcPkg d).map (·.claim.choice))
  else acceptCopy s srcPkg d payload

/-- What a granted buffer was waited for goes on (09 R282, R284). -/
def goOn (s : State) (h : Nat) (op : WaitOp) : State :=
  match op with
  | .copy p d bs => placeCopy s (some h) p d bs
  | .ret r bs => grantReturn s h r bs
  | .output _ k => freeGens (finishToken s k h)
  | .dma st => stageDma s st h

/-- The oldest of the waiting requests that may be granted is; the checks of a pop on the way have their effect (09 R288). -/
def grantOldest (pool : Nat) : State → List BufReq → State
  | s, [] => s
  | s, q :: t =>
    match grantTry q.owner q.refs s (poolsFor s (pool / 16) q.owner q.size) with
    | (u, some h) => goOn (setPool u pool { poolOf u pool with waiting := (poolOf u pool).waiting.erase q }) h q.op
    | (u, none) => grantOldest pool u t

/-- CISTERN_GRANT (09 R282, R288): the oldest waiting request of the pool that the share rule allows is granted. `corrected` tells that
the link word of the pop had an error that was corrected in passing; DETAIL holds the handle (DESIGN CHOICE, log entry 139). -/
def execCisternGrant (pool : Nat) (corrected : Bool) (s : State) : Res := run s fun s =>
  let x := poolOf s pool
  let pops := x.waiting.any (fun q => (poolsFor s (pool / 16) q.owner q.size).any (fun p => mayGrant s p q.owner))
  let s := if corrected && pops then raise1 s 0 0x17 2 (pool / 16) none x.head else s
  grantOldest pool s x.waiting

/-! ### RUN and RETURN (03 R102, R103) -/

/-- EXPERT RUN (03 R102). -/
def execExpertRun (st : Nat) (h : IHdr) (o : Operands) (s : State) : Res := run s fun s =>
  let stage := regFld s st 103 100 o
  let slice := regFld s st 99 96 o
  let table := regFld s st 91 88 o
  let mx := fld 95 92 o + 1
  let c := ((stoneOf s st).owner).getD 0
  let e : ERun := { pc := (stoneOf s st).pc, layer := fld 111 104 o, stage := stage, block0 := bits 31 16 slice, blocks := bits 15 0 slice,
                    maxBatch := mx, table := table, signal := sigOf h }
  let len := mx * rowStride (sliceBlocks s c e.layer e)
  let dsts := [(stage, len), (table, 16 + 16 * mx)]
  issue s st (expertOk h [(111, 88)] o) [] dsts fun s =>
    if stage % 64 ≠ 0 ∨ table % 16 ≠ 0 ∨ inSram stage len = false ∨ inSram table (16 + 16 * mx) = false then failStone s st 0x05
    else modStone (takeSlot s st 6 [] dsts h) st (fun x => { x with eruns := x.eruns ++ [e] })

/-- RUN_PART_DUE (04 R140, R141): the sequencer of the first stone is at its RUN and the part has a choice whose data has
come; a deadline miss is counted where the weights are absent. -/
def execRunPartDue (ctx layer first : Nat) (s : State) : Res := run s fun s =>
  match runOf s ctx layer first with
  | none => s
  | some r0 =>
    let r := advPart s r0
    let atRun := !(runsOn s ctx layer first).isEmpty
    if r.due || r.ended || !atRun || (r.part == 2 && !r.carryDue) || !(untaken s r r.part).any (·.arrived) then s
    else
      let miss := !weightsPresent s ctx layer first
      let s := modRun s ctx layer first (fun _ => { r with due := true, missed := miss })
      if miss then count s 0xA030 0x04 else s

/-- MISS_GRACE_EXPIRY (04 R142 to R145). -/
def execMissGraceExpiry (ctx layer first : Nat) (s : State) : Res := run s fun s =>
  match runOf s ctx layer first with
  | none => s
  | some r =>
    if r.due = false ∨ r.missed = false ∨ r.graceOver = true ∨ weightsPresent s ctx layer first = true then s
    else
      let s := modRun s ctx layer first (fun r => { r with graceOver := true })
      match layerSet s ctx layer 0x18 with
      | 1 =>
        if (replicaObj s ctx layer first).any (fun p => p.2.shadow != 0xFFFF) then
          count (modRun s ctx layer first (fun r => { r with shadow := true })) 0xA030 0x06
        else s
      | 2 =>
        let (s, cs) := missPart s r
        let s := modRun s ctx layer first (fun q => advPart s q)
        let s := forEach s cs (fun t c => takeMiss t { ctx := c.ctx, layer := c.layer, gen := c.gen, tokenId := c.tokenId } c.rank)
        windowAfter s ctx layer first
      | _ => s

/-- MISS_NOTICE (04 R145): a notice, or a "not resident" answer, reaches the confluence. -/
def execMissNotice (k : TokKey) (rank : Nat) (_notResident : Bool) (s : State) : Res := run s fun s => takeMiss s k rank

/-- EXPERT_RUN_COMPLETE (03 R102); `cycles` were stalled for absent weights (04 R142). -/
def execExpertRunComplete (st cycles : Nat) (s : State) : Res := run s fun s =>
  let t := stageRun s st
  if t = s then s else countBy t 0xA030 0x05 cycles

/-- CARRY_WAIT_EXPIRY (03 R88): the carry run becomes due once the slack pass has ended. -/
def execCarryWaitExpiry (ctx layer first : Nat) (s : State) : Res := run s fun s =>
  match runOf s ctx layer first with
  | none => s
  | some r =>
    if unfinished s r (· < 2) || (untaken s r 2).isEmpty then s
    else modRun s ctx layer first (fun r => { advPart s r with carryDue := true })

/-- The return header of a batch entry (03 R103). -/
def retHdr (e : Nat) (ctx fmt : Nat) (shadow : Bool) (seg : Nat) : RetHdr :=
  { tokenId := bits 127 96 e, gen := bits 63 48 e, layer := bits 21 14 e, ctx := ctx, originStone := bits 33 22 e, rank := bits 13 10 e + 1,
    spec := bit 9 e, path := if shadow then 1 else if bits 5 4 e = 2 then 2 else 0, segment := seg, format := fmt }

/-- One entry's return leaves: its segments go to this package's own confluence, or as class 4 packets to the origin. -/
def sendReturn (s : State) (st ctx fmt : Nat) (shadow : Bool) (e : Nat) (row : List Byte) : State :=
  let dest := bits 47 34 e
  let s := if !shadow && bits 5 4 e == 2 then count s 0xA030 0x07 else s
  let s := forEach s ((chunksOf 8192 (row.length / 8192 + 1) row).zipIdx) (fun t p =>
    let hd := retHdr e ctx fmt shadow p.2
    if dest = pkgId t then takeReturn (passBytes t (wytheOf st) (wytheOf hd.originStone) p.1.length) hd p.1
    else inject t (wytheOf st) (mkPacket t dest 4 2 hd.originStone (packRet hd) p.1))
  let isIt (a : Admitted) : Bool :=
    let c := a.claim.choice
    c.ctx == ctx && c.layer == bits 21 14 e && c.gen == bits 63 48 e && c.tokenId == bits 127 96 e && c.rank == bits 13 10 e + 1 &&
      a.taken && !a.ran
  let firsts := (s.admitted.filter isIt).map (·.claim.rep.firstStone)
  let s := { s with admitted := (s.admitted.map (fun a => if isIt a then { a with ran := true } else a)).filter (fun a => !(a.ran && (a.part != 2 || a.resend))) }
  forEach s firsts (fun t f => windowAfter t ctx (bits 21 14 e) f)

/-- RETURN_PACKET (03 R110). -/
def execReturnPacket (h : RetHdr) (payload : List Byte) (s : State) : Res := run s fun s => takeReturn s h payload

/-- RETURN_TIMEOUT_EXPIRY (03 R112, R113). DETAIL holds the token id (DESIGN CHOICE, log entry 125: 16 R510 names none). -/
def execReturnTimeoutExpiry (k : TokKey) (rank : Nat) (s : State) : Res := run s fun s =>
  match confOf s k with
  | none => s
  | some c =>
    if rankOutstanding (rankOf c rank) = false then s
    else
      let s := modConf s k (fun c => setRank c rank { rankOf c rank with closed := true })
      if c.done ∨ c.added > c.choices.length then freeGens s
      else
        let s := raise1 (count s 0xA021 0x09) 1 0x15 2 c.bay (some k.ctx) k.tokenId
        freeGens (advance (modConf s k (fun c => { c with timedOut := true })) k)

/-! ### The remaining EXPERT operations (03 R104, R108, R113) -/

/-- FETCH: a program fetch request, for an object that has a window (04 R127; one without needs none); it stalls while the millrace holds 1,024 requests (04 R135). -/
def execFetch (st : Nat) (h : IHdr) (o : Operands) (s : State) : Res := run s fun s =>
  issue s st (expertOk h [(15, 0)] o) [] [] fun s =>
    let c := ((stoneOf s st).owner).getD 0
    let n := fld 15 0 o
    let d := objOf s c n
    if n ≥ objCount s c then failStone s st 0x05
    else if d.valid = false ∨ d.mode = 2 then completeNow s st h
    else if (millraceQ s (wytheOf d.firstStone)).length ≥ 1024 ∧ ¬ s.fetchQ.any (isFetchOf c n) then
      stallOn s st .fetchQueue
    else completeNow (raiseFetch s c n 3 (nextOrd s)) st h

/-- FLUSH: completes when every dirty granule of the object has reached HOME. -/
def execFlush (st : Nat) (h : IHdr) (o : Operands) (s : State) : Res := run s fun s =>
  issue s st (expertOk h [(15, 0)] o) [] [] fun s =>
    let c := ((stoneOf s st).owner).getD 0
    let n := fld 15 0 o
    if n ≥ objCount s c then failStone s st 0x05
    else
      let t := writeBack s c n
      if t.writebacks.contains (c, n) then takeSlot t st 8 [(n, 0)] [] h else completeNow t st h

/-- KV_COMMIT: advances a stream's watermark; a value that R156 refuses raises KV_WATERMARK. -/
def execKvCommit (st : Nat) (h : IHdr) (o : Operands) (s : State) : Res := run s fun s =>
  issue s st (expertOk h [(111, 104)] o) [] [] fun s =>
    let c := ((stoneOf s st).owner).getD 0
    let w := bits 24 0 (regFld s st 111 108 o)
    let i := bits 15 0 (regFld s st 107 104 o)
    if i ≥ getC s c 0x4020 0x02 ∨ (pondNat s (kvStreamAddr s c i) 16).any (fun d => !kvValid d) then failStone s st 0x05
    else match kvAdvance s c i w with
      | some t => completeNow t st h
      | none => completeNow (raise1 s 1 0x16 0 st (some c) (instrAddr s st)) st h

/-- RETIRE: waits while R114 would refuse it. -/
def execRetire (st : Nat) (h : IHdr) (o : Operands) (s : State) : Res := run s fun s =>
  issue s st (expertOk h [(111, 108)] o) [] [] fun s =>
    let c := ((stoneOf s st).owner).getD 0
    match retireGen s c (bits 15 0 (regFld s st 111 108 o)) with
    | some t => completeNow t st h
    | none => stallOn s st .retireBusy

/-- ACCEPT: the speculative tokens of the generation above the token id are cancelled. -/
def execAccept (st : Nat) (h : IHdr) (o : Operands) (s : State) : Res := run s fun s =>
  issue s st (expertOk h [(111, 104)] o) [] [] fun s =>
    let c := ((stoneOf s st).owner).getD 0
    let g := bits 15 0 (regFld s st 111 108 o)
    let a := regFld s st 107 104 o
    let s := { s with cancels := if s.cancels.contains (c, g, a) then s.cancels else s.cancels ++ [(c, g, a)] }
    completeNow s st h

/-! ### Dictionary writes -/

/-- RETIRE_GENERATION (03 R114). -/
def actRetireGeneration (q : Req) (s : State) : Act :=
  match retireGen s (bits 23 16 q.value) (bits 15 0 q.value) with
  | some t => .done t
  | none => .refuse 0x0601 s

def execRetireGeneration (q : Req) (s : State) : Res := run s (serveWrite 0x6012 0x01 q (actRetireGeneration q))

/-- ABANDON_STRANDED (03 R94). -/
def actAbandonStranded (q : Req) (s : State) : Act := .done (abandonStranded s (bits 15 8 q.value) (bits 7 0 q.value))

def execAbandonStranded (q : Req) (s : State) : Res := run s (serveWrite 0x6012 0x02 q (actAbandonStranded q))

/-- PLACEMENT_UPDATE (03 R73): the checks, and the start of the table's store. -/
def actPlacementUpdate (q : Req) (s : State) : Act :=
  let c := bits 63 56 q.value
  let n := bits 55 48 q.value
  let e := bits 47 32 q.value
  let b := unpackBlock (toLE 64 (getE s 0x6014 0x01))
  if layerSet s c n 0x01 = 0 ∨ e ≥ layerSet s c n 0x02 ∨ blockOk b = false ∨ blockInJob s b = false ∨ staticOk s c n e b = false then
    .refuse 0x0302 s
  else if s.pupdates.any (fun u => u.ctx == c && u.layer == n && u.expert == e && !u.effective) then .refuse 0x0601 s
  else
    let a := blockAddr s c n e
    let u : PUpdate := { ctx := c, layer := n, expert := e, gen := bits 31 16 q.value, block := b, old := heldBlock s c n e,
                         answer := none, stored := false, effective := false }
    let s := { s with pupdates := s.pupdates.filter (fun v => !(v.ctx == c && v.layer == n && v.expert == e)) ++ [u] }
    .later (if isFar s a then unitRequests s 3 0 (storeReqs s (tableTag c n e) a (toLE 64 (getE s 0x6014 0x01))) else s)

def execPlacementUpdate (q : Req) (s : State) : Res := run s (serveWrite 0x6014 0x02 q (actPlacementUpdate q))

/-- The block that this package wrote last for an expert changes. -/
def setPlaced (s : State) (c layer expert : Nat) (b : List Replica) : State :=
  modCtx s c (fun x => { x with placed := x.placed.filter (fun p => !(p.1 == layer && p.2.1 == expert)) ++ [(layer, expert, b)] })

/-- The claims of a generation have begun at a lead router: one of its replicas is fixed, or no block is waited for (03 R73). -/
def claimsBegun (s : State) (c layer gen : Nat) : Bool :=
  s.confs.any (fun f => f.key.ctx == c && f.key.layer == layer && f.key.gen == gen &&
    (f.pendingClaims.isEmpty || (rankNums f).any (fun r => (rankOf f r).rep.isSome)))

/-- How the store of a placement update ended: WINDOW_FAULT of the own window table, `status` for a table in the own tier 1, and what
the home answered for one in another package; none while it has not answered. -/
def storeStatus (s : State) (u : PUpdate) (a status : Nat) (bs : List Byte) : Option (Nat × State) :=
  if isFar s a then u.answer.map (fun st => (st, s))
  else match pondWrite s a bs with
    | some t => some (if status = 0 then (0, t) else (status, s))
    | none => some (1, localMiss s a 64 winWrite)

/-- PLACEMENT_STORE_COMPLETE (03 R73): the update takes its generation, stranded ranks of the expert are resent, or the update
is refused and the old block stays in use. -/
def execPlacementStoreComplete (ctx layer expert status : Nat) (s : State) : Res := run s fun s =>
  match s.pupdates.find? (fun u => u.ctx == ctx && u.layer == layer && u.expert == expert && !u.stored) with
  | none => s
  | some u =>
    let bs := u.block.flatMap (fun r => toLE 4 (packReplica r))
    match storeStatus s u (blockAddr s ctx layer expert) status bs with
    | none => s
    | some (0, t) =>
      let g := if claimsBegun t ctx layer u.gen then (u.gen + 1) % 65536 else u.gen
      let t := { t with pupdates := mapWhere t.pupdates (· == u) (fun u => { u with stored := true, gen := g }) }
      endDeferred (resendStranded (setPlaced t ctx layer expert u.block) ctx layer expert u.block) 0x6014 0x02 0
    | some (4, t) => endDeferred { t with pupdates := t.pupdates.erase u } 0x6014 0x02 0x0602
    | some (_, t) => endDeferred { t with pupdates := t.pupdates.erase u } 0x6014 0x02 0x0302

/-- DEADLINE_POLICY_WRITE (05 R176): LAYER_STATUS, formed from the settings, follows. -/
def execDeadlinePolicyWrite (layer : Nat) (q : Req) (s : State) : Res :=
  run s (serveWrite (0x6100 + layer) 0x18 q (actStore (0x6100 + layer) 0x18 q))

/-! ### Fills and placement (04 R132, R138 to R140) -/

/-- Packets of an aqueduct in the order of their SEQ, as bytes. -/
def aqBytes (s : State) (k : Nat) : List Byte := (sortBy (·.seq) (tget [] s.aqGot k)).flatMap (·.payload)

/-- The bytes that a fill brings: from this package's tier 1 through its windows, from the answers to the millrace's LOADs, over an
aqueduct, or from host memory, whose bytes the command carries. None while they are not all here; some none where an access was
refused, which counts as a second uncorrectable read (11 R352). -/
def fillBytes (s : State) (w : Nat) (f : Fill) (d : ObjDesc) (bytes : List Byte) : Option (Option (List Byte) × State) :=
  let n := d.sizeKib * 1024
  if d.tier = 3 then some (if f.failed then none else some (bytes.take n), s)
  else if isFar s d.home then
    match fillAqueduct s w with
    | some k => if (aqBytes s k).length < n then none else some (some ((aqBytes s k).take n), { s with aqGot := tdel s.aqGot k })
    | none => if f.want ≠ 0 then none else some (if f.failed then none else some (gotBytes f.got 0 n), s)
  else match pondReadAll s d.home n with
    | some bs => some (some bs, passPieces s w d.home n winRead loadPass)
    | none => some (none, localMiss s d.home n winRead)

/-- The channel that holds a place of an object's home copy: that of its physical offset in this package's tier 1; elsewhere that of
the untranslated offset (DESIGN CHOICE, log entry 130: 16 R510 names no other). -/
def homeChannel (s : State) (d : ObjDesc) (off : Nat) : Nat :=
  let a := d.home + off
  if d.tier ≠ 3 ∧ isFar s a = false then
    match translate s s.jobTag (pondOffset a) 1 winRead with
    | some p => channelOf p
    | none => channelOf (pondOffset a)
  else channelOf (a % 2 ^ 39)

/-- A window is filled: each of its stones takes its part of the object, and its granules are clean (04 R127, R148). -/
def fillWindow (s : State) (d : ObjDesc) (bs : List Byte) : State :=
  forEach s (List.range (winStones d)) (fun t i =>
    if isFenced t (d.firstStone + i) then t
    else sramFill t (d.firstStone + i) (d.sramKib * 1024) ((bs.drop (i * winKib d * 1024)).take (winKib d * 1024)))

/-- A window is filled but for granules that are still as the context left them (13 R439). -/
def fillWindowBut (s : State) (d : ObjDesc) (skip : List (Nat × Nat)) (bs : List Byte) : State :=
  forEach s (windowGranules d) (fun t g =>
    if isFenced t g.1 || skip.contains (g.1, g.2.1) then t
    else sramFill t g.1 (g.2.1 * 1024) ((bs.drop (g.2.2 * 1024)).take 1024))

/-- The bytes of a home copy that a repair of tier 0 takes at once: of this package's tier 1 through its windows; of host memory and
of other packages no command carries them, so they are open (log entry 45). -/
def homeData (s : State) (d : ObjDesc) : List Byte :=
  let n := d.sizeKib * 1024
  if d.tier ≠ 3 ∧ isFar s d.home = false then (pondReadAll s d.home n).getD (outsideBytes s d.home n) else outsideBytes s d.home n

/-- TIER1_UNCORRECTED for a place of an object's home copy (04 R139). -/
def homeFault (s : State) (c : Nat) (d : ObjDesc) (off : Nat) : State :=
  raise1 s 1 0x21 5 (homeChannel s d off) (some c) (d.home + off)

/-- The choices that wait for an object's replica are stranded (04 R139, 03 R93). -/
def strandObject (s : State) (c : Nat) (d : ObjDesc) : State :=
  strandChoices s (fun a => a.claim.choice.ctx == c && a.claim.choice.layer == d.layer && a.claim.rep.firstStone == d.firstStone && d.kind == 0)

/-- An object is bad: its window holds no fill, and the choices that wait for its replica are stranded (04 R139). -/
def markBad (s : State) (c obj : Nat) (d : ObjDesc) : State :=
  strandObject (setWin s (winKey c obj) { winOf s (winKey c obj) with bad := true, present := false, held := false }) c d

/-- The write-back of an object's granules has reached HOME (04 R151), every STORE of it being answered: the FLUSH instructions of the
object complete, and where a granule was refused the choices that wait for the object are stranded (11 R352). -/
def execWritebackComplete (ctx obj : Nat) (s : State) : Res := run s fun s =>
  if laneOut s (wytheOf (objOf s ctx obj).firstStone) (winKey ctx obj) 1 ≠ 0 then s
  else
    let s := { s with writebacks := s.writebacks.filter (· != (ctx, obj)) }
    let s := forEach s (flushWaits s ctx obj) (fun t p => completeSlot t p.1 p.2.pc 8 p.2.signal)
    if (winOf s (winKey ctx obj)).bad then strandObject s ctx (objOf s ctx obj) else s

/-- FILL_COMPLETE (04 R136, R138 to R140, R162). `bad` names the granules of the home copy whose read was uncorrectable, each with
whether its second read was so too: each raises a fault, and a second failure leaves the object bad. A fetch of a bad object fails in
the same way. A fill that ends during swap-out is a release. -/
def execFillComplete (wythe ctx obj : Nat) (bad : List (Nat × Bool)) (bytes : List Byte) (s : State) : Res := run s fun s =>
  match s.fills.find? (fun f => f.ctx == ctx && f.obj == obj) with
  | none => s
  | some f =>
    let d := objOf s ctx obj
    let k := winKey ctx obj
    if wytheOf d.firstStone ≠ wythe then s
    else match fillBytes s wythe f d bytes with
      | none => s
      | some (bs, t) =>
        let t := { t with fills := t.fills.erase f }
        let places := (bad.map (fun g => g.1 * 1024)) ++ (if (bs.isNone || (winOf t k).bad) && bad.isEmpty then [0] else [])
        let t := forEach t places (fun u off => homeFault u ctx d off)
        match bs with
        | none => markBad t ctx obj d
        | some bs =>
          if bad.any (·.2) ∨ (winOf t k).bad then markBad t ctx obj d
          else
            let t := if (ctxOf t ctx).state = .swappingIn then fillWindowBut t d (ctxOf t ctx).intact bs else fillWindow t d bs
            let t := forEach t (occupants t ctx obj) (fun u o => setWin u (winKey o.1 o.2) { winOf u (winKey o.1 o.2) with present := false })
            let t := setWin t k { winOf t k with
              present := true, held := decide ((ctxOf t ctx).state ≠ .swappingOut) && runHolds t ctx obj }
            countBy t 0xA030 0x03 (d.sizeKib * 1024)

/-- Every replica record of this package in the placement blocks in force has its weight object (04 R128). -/
def replicasOk (s : State) (c : Nat) (l : List (Nat × ObjDesc)) : Bool :=
  ((List.range 256).filter (fun n => layerSet s c n 0x01 != 0)).all (fun n =>
    (List.range (layerSet s c n 0x02)).all (fun e =>
      (blockInForce s c n e).all (fun r => !(r.valid && r.pkg == pkgId s) || l.any (fun p =>
        p.2.valid && p.2.kind == 0 && p.2.mode != 2 && p.2.layer == n && p.2.expert == e && p.2.firstStone == r.firstStone &&
          p.2.span == r.span))))

/-- PLACE_OBJECT (04 R132). -/
def actPlaceObject (q : Req) (s : State) : Act := placeObject (viewCtx s 0x4012 0x01 q) q.value programUse replicasOk s

def execPlaceObject (q : Req) (s : State) : Res := run s (serveWrite 0x4012 0x01 q (actPlaceObject q))

/-- POOL_COMMIT (09 R294). -/
def actPoolCommit (s : State) : Act :=
  match poolCommit s with
  | .ok t => .done t
  | .error c => .refuse c s

def execPoolCommit (q : Req) (s : State) : Res := run s (serveWrite 0x4040 0x01 q actPoolCommit)

end Sys2Proof.Machine
end

