-- ==== Sys2Proof/Machine/Coll.lean ====
section
/-! DEFINITION. Collectives and multicast (12): groups, posts, the fixed tree, messages, the seal, aborts, eager mode, legs. -/

namespace Sys2Proof.Machine

/-! ### Descriptors and ranges -/

/-- The fields of a descriptor (12 R381). -/
def parseColl (n : Nat) : CollDesc :=
  { src := bits 255 192 n, dst := bits 191 128 n, count := bits 127 104 n, cop := bits 103 100 n, dtype := bits 99 98 n,
    rop := bits 97 96 n, group := bits 95 88 n, root := bits 87 74 n, tileCode := bits 73 70 n, srcSpace := bits 69 68 n,
    dstSpace := bits 67 66 n, tps := bits 65 54 n, signalStone := bits 53 42 n, signalObj := bits 41 40 n,
    chunkSignal := bit 39 n, doneSignal := bit 38 n, record := bits 31 14 n,
    resv := bits 37 32 n * 2 ^ 14 + bits 13 0 n }

/-- This member contributes (12 R382). -/
def contributes (d : CollDesc) (rank : Nat) : Bool :=
  match d.cop with
  | 1 => rank == d.root
  | 2 | 3 | 4 | 5 | 6 => true
  | _ => false

/-- Bytes of the result that this member receives (12 R382). -/
def resultBytes (d : CollDesc) (n rank : Nat) : Nat :=
  match d.cop with
  | 1 => if rank = d.root then 0 else collBytes d
  | 2 => if rank = d.root then collBytes d else 0
  | 3 => collBytes d
  | 4 => collBytes d / n
  | 5 => n * collBytes d
  | _ => 0

/-- Stone and offset of tile `i` of a range in space 2 (12 R381). -/
def tilePlace (a tps tile i : Nat) : Nat × Nat :=
  if tps = 0 then (bits 29 18 a, a % 2 ^ 18 + i * tile) else (bits 29 18 a + i / tps, a % 2 ^ 18 + i % tps * tile)

/-- The part of a range of space 2 that lies in stone `st`. -/
def rangeIn (st space a tps tile n : Nat) : List (Nat × Nat) :=
  if space ≠ 2 ∨ n = 0 ∨ st < bits 29 18 a then []
  else
    let k := st - bits 29 18 a
    if tps = 0 then (if k = 0 then [(a % 2 ^ 18, n)] else [])
    else if n ≤ k * tps * tile then [] else [(a % 2 ^ 18, min (tps * tile) (n - k * tps * tile))]

/-- A range keeps within its stones, none of which is fenced, or begins at an address of this package (12 R381, R383). -/
def collRangeOk (s : State) (space a tps tile n : Nat) : Bool :=
  if n = 0 then true
  else if space = 2 then
    decide (a / 2 ^ 30 = 0) && (List.range (cdiv n tile)).all (fun i =>
      let p := tilePlace a tps tile i
      decide (p.1 < 4096) && inSram p.2 (min tile (n - i * tile)) && !isFenced s p.1)
  else pondAddrOk (a + n - 1) && decide (pondPos a = gridPos s) && decide (pondPos (a + n - 1) = gridPos s)

/-- The stones that a range names. -/
def rangeStones (space a tps tile n : Nat) : List Nat :=
  if space ≠ 2 then [] else ((List.range (cdiv n tile)).map (fun i => (tilePlace a tps tile i).1)).dedup

/-- The collective's ranges at this member name stone `st` (12 R403). -/
def collNames (co : Coll) (st : Nat) : Bool :=
  let d := co.desc
  (contributes d co.rank && (rangeStones d.srcSpace d.src d.tps (tileBytes d) (collBytes d)).contains st) ||
    (rangeStones d.dstSpace d.dst d.tps (tileBytes d) (resultBytes d co.n co.rank)).contains st

/-- The collective has a range in stone SRAM at this member (12 R384). -/
def collInSram (co : Coll) : Bool :=
  (contributes co.desc co.rank && decide (co.desc.srcSpace = 2)) ||
    (decide (0 < resultBytes co.desc co.n co.rank) && decide (co.desc.dstSpace = 2))

/-- The combinations of COP, DTYPE and ROP that 12 R382 allows, and the fields in range (12 R381). The loader makes the
same check, which needs no state. -/
def collFieldsOk (d : CollDesc) : Bool :=
  decide (d.cop ≤ 6) && decide (d.resv = 0) && decide (d.tileCode ≤ 5) && decide (d.record % 16 = 0) &&
    (decide (d.srcSpace = 0) || decide (d.srcSpace = 2)) && (decide (d.dstSpace = 0) || decide (d.dstSpace = 2)) &&
    (if 2 ≤ d.cop ∧ d.cop ≤ 4 then decide (d.dtype ≤ 2) && decide (d.rop ≤ 2) else decide (d.rop = 0)) &&
    (d.cop == 0 || (decide (0 < d.count) && decide (collBytes d ≤ 2 ^ 25) && decide (collTiles d ≤ 4096))) &&
    (d.cop != 6 || (decide (d.dstSpace = 2) && decide (0 < d.root)))

/-- Fields of a multicast leg (12 R410). -/
def legPkg (l : BitVec 64) : Nat := bits 63 50 l.toNat
def legStone (l : BitVec 64) : Nat := bits 49 38 l.toNat
def legOffset (l : BitVec 64) : Nat := bits 37 20 l.toNat

/-- The leg list of a MULTICAST, in the posting stone's SRAM. -/
def readLegs (s : State) (st : Nat) (d : CollDesc) : List (BitVec 64) :=
  (List.range d.root).map (fun i => BitVec.ofNat 64 (sramNat s st (d.dst % 2 ^ 18 + 8 * i) 8))

/-- The check at post (12 R383, R410). -/
def postOk (s : State) (st ctx handle : Nat) (d : CollDesc) : Bool :=
  let n := (groupList s ctx d.group).length
  let rank := groupE s ctx d.group 7
  let src := d.cop == 0 || !contributes d rank ||
    collRangeOk s d.srcSpace d.src d.tps (tileBytes d) (collBytes d)
  collFieldsOk d && src && inSram d.record 16 &&
    (handle == 0 || (s.colls.all (fun c => c.handle != handle) && s.mcasts.all (fun m => m.handle != handle))) &&
    (if d.cop = 6 then
      decide (d.dst / 2 ^ 30 = 0) && decide (bits 29 18 d.dst = st) && inSram (d.dst % 2 ^ 18) (8 * d.root) &&
        (readLegs s st d).all (fun l => decide (l.toNat % 2 ^ 20 = 0) && decide (legOffset l % 8 = 0) &&
          inSram (legOffset l) (collBytes d))
    else
      decide (groupE s ctx d.group 6 = 1) && decide (resultBytes d n rank ≤ 2 ^ 25) &&
        (decide (d.cop = 0) || decide (3 < d.cop) || decide (d.root < n)) &&
        (d.cop != 4 || decide (collBytes d % (n * tileBytes d) = 0)) &&
        collRangeOk s d.dstSpace d.dst d.tps (tileBytes d) (resultBytes d n rank))

/-! ### Tiles -/

/-- A contribution tile as the mortar reads it. Bytes whose read a window refuses are open (DESIGN CHOICE, log entry 140). -/
def readTile (s : State) (d : CollDesc) (i : Nat) : List Byte :=
  let n := min (tileBytes d) (collBytes d - i * tileBytes d)
  if d.srcSpace = 2 then
    let p := tilePlace d.src d.tps (tileBytes d) i
    sramRead s p.1 p.2 n
  else (pondPieces (d.src + i * tileBytes d) n).flatMap (fun p => (pondRead s p.1 p.2).getD (outsideBytes s p.1 p.2))

/-- Refusals of the package's own window table on a range, counted piece by piece (11 R344). -/
def missPieces (s : State) (a n : Nat) (right : BitVec 128 → Bool) : State :=
  forEach s (pondPieces a n) (fun t p => localMiss t p.1 p.2 right)

/-- The mortar of wythe `w` reads a contribution tile: what lies on the other wythe crosses the bridge (01 R22, R24). -/
def readPass (s : State) (w : Nat) (d : CollDesc) (i : Nat) : State :=
  let n := min (tileBytes d) (collBytes d - i * tileBytes d)
  if d.srcSpace = 2 then passBytes s (wytheOf (tilePlace d.src d.tps (tileBytes d) i).1) w n
  else missPieces (passPieces s w (d.src + i * tileBytes d) n winRead loadPass) (d.src + i * tileBytes d) n winRead

/-- A result tile written at DST by the mortar of wythe `w`; what a window refuses is not written (DESIGN CHOICE, log entry 140). -/
def writeTile (s : State) (w : Nat) (d : CollDesc) (i : Nat) (bs : List Byte) : State :=
  if d.dstSpace = 2 then
    let p := tilePlace d.dst d.tps (tileBytes d) i
    if isFenced s p.1 then s else passBytes (sramWrite s p.1 p.2 bs) w (wytheOf p.1) bs.length
  else
    let a := d.dst + i * tileBytes d
    let t := forEach s (pondPieces a bs.length) (fun t p => (pondWrite t p.1 ((bs.drop (p.1 - a)).take p.2)).getD t)
    missPieces (passPieces t w a bs.length winWrite storePass) a bs.length winWrite

def words32 (bs : List Byte) : List (BitVec 32) := (chunksOf 4 (bs.length / 4 + 1) bs).map (fun w => BitVec.ofNat 32 (fromLE w))

def bytes32 (l : List (BitVec 32)) : List Byte := l.flatMap (fun w => toLE 4 w.toNat)

/-- The values of a contribution tile of a reduction, and how many NaN and infinite inputs were taken as +0 (12 R390). -/
def tileVals (dtype : Nat) (bs : List Byte) : List (BitVec 32) × Nat :=
  if dtype = 2 then (words32 bs, 0)
  else
    let l := if dtype = 0 then (chunksOf 2 (bs.length / 2 + 1) bs).map (fun w => bf16ToF (BitVec.ofNat 16 (fromLE w))) else words32 bs
    (l.map (fun x => if isSpecial x then 0 else x), (l.filter isSpecial).length)

/-- A tile as it stands in the mortar: the FP32 or INT32 values of a reduction, the bytes otherwise. -/
def mortarTile (d : CollDesc) (bs : List Byte) : List Byte × Nat :=
  if 2 ≤ d.cop ∧ d.cop ≤ 4 then
    let v := tileVals d.dtype bs
    (bytes32 v.1, v.2)
  else (bs, 0)

/-- Special inputs are counted and raise a class C fault at the mortar (12 R390). -/
def noteSpecials (s : State) (w ctx group seq n : Nat) : State :=
  if n = 0 then s
  else forEach (countBy s 0xA080 0x0E n) (List.range n) (fun t _ => raise1 t 0 0x07 3 w (some ctx) (group * 2 ^ 32 + seq % 2 ^ 32))

/-! ### Combining (12 R388 to R391, R409) -/

/-- op of 12 R390 on two values. -/
def combine1 (d : CollDesc) (a b : BitVec 32) : FR :=
  if d.dtype = 2 then
    (if d.rop = 0 then a + b else if d.rop = 1 then (if a.toInt < b.toInt then b else a) else (if b.toInt < a.toInt then b else a), 0)
  else if d.rop = 0 then fadd a b else if d.rop = 1 then fmax a b else fmin a b

/-- op on two chunks: the values and the clamps. -/
def combineL (d : CollDesc) (a b : List (BitVec 32)) : List (BitVec 32) × Nat := collectF (List.zipWith (combine1 d) a b)

/-- node(lo, s) of 12 R388 over the values of a combine point: its own contribution at virtual rank v and its children's
partials at their nodes. -/
def nodeVal (d : CollDesc) (n v : Nat) (own : List (BitVec 32)) (parts : List ((Nat × Nat) × List (BitVec 32))) :
    Nat → Nat → Nat → Option (List (BitVec 32) × Nat)
  | 0, _, _ => none
  | f + 1, lo, sz =>
    if n ≤ lo then none
    else match parts.find? (fun p => p.1 == (lo, sz)) with
      | some p => some (p.2, 0)
      | none =>
        if sz ≤ 1 then (if lo = v then some (own, 0) else none)
        else match nodeVal d n v own parts f lo (sz / 2), nodeVal d n v own parts f (lo + sz / 2) (sz / 2) with
          | some a, some b =>
            let r := combineL d a.1 b.1
            some (r.1, a.2 + b.2 + r.2)
          | some a, none => some a
          | none, x => x

/-- The rank at the root of a chunk's tree: the slice's own rank in REDUCE_SCATTER (12 R388). -/
def chunkRoot (co : Coll) (chunk : Nat) : Nat :=
  if co.desc.cop = 4 then chunk / max 1 (collTiles co.desc / co.n) else co.root

/-- The chunks that this member forms on the way up. A collective without a reduction sends one PARTIAL with no chunk
bytes, which carries the digest and the cover (DEDUCED, log entry 42). In ALL_GATHER chunk rank × tiles + i is tile i of
that rank's contribution (DEDUCED, log entry 42). -/
def upChunks (co : Coll) : List Nat :=
  let nt := collTiles co.desc
  match co.desc.cop with
  | 2 | 3 | 4 => List.range nt
  | 5 =>
    let v := virtRank co.n co.root co.rank
    (List.range (coverOf co.radix co.n v * nt)).map (fun i => realRank co.n co.root (v + i / max 1 nt) * nt + i % max 1 nt)
  | _ => [0]

def partOf (co : Coll) (rank chunk : Nat) : Option (List Byte) :=
  (co.parts.find? (fun p => p.1 == rank && p.2.1 == chunk)).map (·.2.2)

def tileOf (co : Coll) (i : Nat) : Option (List Byte) := (co.tiles.find? (fun t => t.1 == i)).map (·.2)

/-- Children of this member in a chunk's tree: rank and (virtual rank, node size). -/
def chunkKids (co : Coll) (chunk : Nat) : List (Nat × Nat × Nat) :=
  let r := chunkRoot co chunk
  (treeKids co.radix co.n (virtRank co.n r co.rank)).map (fun k => (realRank co.n r k.1, k))

/-- The value of an up-going chunk, once all that it needs is in hand and the digests of the children agree; with the
clamps of its additions (12 R387, R394, R409). -/
def chunkValue (co : Coll) (chunk : Nat) : Option (List Byte × Nat) :=
  let d := co.desc
  let ks := chunkKids co chunk
  if ks.any (fun k => !co.agreed.contains k.1) then none
  else match d.cop with
  | 2 | 3 | 4 =>
    match tileOf co chunk with
    | none => none
    | some own =>
      if ks.any (fun k => (partOf co k.1 chunk).isNone) then none
      else if co.eager then
        let ps := (co.parts.filter (fun p => p.2.1 == chunk && ks.any (fun k => k.1 == p.1))).map (fun p => words32 p.2.2)
        let r := ps.foldl (fun a p => let q := combineL d a.1 p; (q.1, a.2 + q.2)) (words32 own, 0)
        some (bytes32 r.1, r.2)
      else
        let v := virtRank co.n (chunkRoot co chunk) co.rank
        let ps := ks.map (fun k => (k.2, words32 ((partOf co k.1 chunk).getD [])))
        (nodeVal d co.n v (words32 own) ps 16 v (topSize co.radix co.n v)).map (fun r => (bytes32 r.1, r.2))
  | 5 =>
    let nt := max 1 (collTiles d)
    if chunk / nt = co.rank then (tileOf co (chunk % nt)).map (fun b => (b, 0))
    else (co.parts.find? (fun p => p.2.1 == chunk)).map (fun p => (p.2.2, 0))
  | _ => if ks.any (fun k => (partOf co k.1 chunk).isNone) then none else some ([], 0)

/-- A result chunk of a reduction as bytes of its DTYPE, a BF16 value rounded once (12 R390); with the clamps. -/
def resultOut (d : CollDesc) (bs : List Byte) : List Byte × Nat :=
  if d.dtype = 0 ∧ 2 ≤ d.cop ∧ d.cop ≤ 4 then
    let l := (words32 bs).map roundBf16
    (l.flatMap (fun w => toLE 2 w.1.toNat), (l.map (·.2)).sum)
  else (bs, 0)

/-! ### A collective at work -/

def collAt (s : State) (k : CollKey) : Option Coll := s.colls.find? (fun c => c.key == k)

/-- Faults of a completion are raised. -/
def finish (r : State × List Fault16) : State := if r.2.isEmpty then r.1 else raise r.1 r.2

/-- A good result chunk is written and, with CHUNK_SIGNAL, signalled at once (12 R397). -/
def deliverChunk (s : State) (co : Coll) (i : Nat) (bs : List Byte) : State :=
  let s := modColl (writeTile s (collWythe co) co.desc i bs) co.key (fun c => { c with results := c.results ++ [i] })
  if co.desc.chunkSignal ∧ isFenced s co.desc.signalStone = false then
    settleStone (addSync s co.desc.signalStone co.desc.signalObj 1) co.desc.signalStone
  else s

/-- The root keeps a result chunk and sends it down the tree (12 R397, R398). -/
def rootSend (s : State) (co : Coll) (i : Nat) (bs : List Byte) : State :=
  collDown (modColl s co.key (fun c => { c with retained := c.retained ++ [(i, bs)] })) co 1 i bs

/-- An up-going chunk has its value: its PARTIAL goes to the parent and is kept, or the root of its tree has its result
(12 R390, R394, R398). -/
def formChunk (s : State) (co : Coll) (chunk : Nat) (bs : List Byte) (clamps : Nat) : State :=
  let r := chunkRoot co chunk
  let v := virtRank co.n r co.rank
  let s := modColl (countBy s 0xA080 0x0D clamps) co.key (fun c => { c with sentChunks := c.sentChunks ++ [chunk] })
  if v ≠ 0 then
    let s := modColl s co.key (fun c => { c with retained := c.retained ++ [(chunk, bs)] })
    collSend s co (realRank co.n r (treeParent co.radix co.n v)) 0 chunk (coverOf co.radix co.n v) 0 bs
  else
    let o := resultOut co.desc bs
    let s := countBy s 0xA080 0x0D o.2
    match co.desc.cop with
    | 2 => deliverChunk s co chunk o.1
    | 3 => rootSend (deliverChunk s co chunk o.1) co chunk o.1
    | 4 => deliverChunk s co (chunk - co.rank * (collTiles co.desc / co.n)) o.1
    | _ => s

/-- Every up-going chunk that has its value and has not gone. -/
def advanceUp (s : State) (k : CollKey) : State :=
  match collAt s k with
  | none => s
  | some co =>
    forEach s (upChunks co) (fun t chunk =>
      match collAt t k with
      | none => t
      | some c =>
        if c.sentChunks.contains chunk then t
        else match chunkValue c chunk with
          | some (bs, n) => formChunk t c chunk bs n
          | none => t)

/-- The concatenation of an ALL_GATHER at its root, once every contribution is in hand (12 R392). -/
def gathered (co : Coll) : List Byte :=
  (List.range (co.n * collTiles co.desc)).flatMap (fun c => ((chunkValue co c).map (·.1)).getD [])

/-- What the root of a BROADCAST or ALL_GATHER sends down once the digests cover the group (12 R387, R392). -/
def rootOut (s : State) (k : CollKey) : State :=
  match collAt s k with
  | none => s
  | some co =>
    if co.rank ≠ co.root ∨ !(upChunks co).all (fun c => co.sentChunks.contains c) then s
    else if co.desc.cop = 1 then
      forEach s (co.tiles.filter (fun t => !(co.retained.any (fun r => r.1 == t.1)))) (fun t x => rootSend t co x.1 x.2)
    else if co.desc.cop = 5 ∧ co.results.isEmpty then
      let all := gathered co
      let ts := chunksOf (tileBytes co.desc) (cdiv all.length (tileBytes co.desc)) all
      forEach s (List.zip (List.range ts.length) ts) (fun t x => rootSend (deliverChunk t co x.1 x.2) co x.1 x.2)
    else s

/-- This member's own condition for DONE (12 R400). -/
def ownDone (co : Coll) : Bool :=
  (upChunks co).all (fun c => co.sentChunks.contains c) &&
    (List.range (cdiv (resultBytes co.desc co.n co.rank) (tileBytes co.desc))).all (fun i => co.results.contains i) &&
    (co.desc.cop != 1 || co.rank != co.root || (List.range (collTiles co.desc)).all (fun i => co.retained.any (fun r => r.1 == i)))

def kidsDone (co : Coll) : Bool :=
  (treeKids co.radix co.n (virtRank co.n co.root co.rank)).all (fun k =>
    co.childDone.any (fun d => d.1 == realRank co.n co.root k.1))

/-- Members that this member's DONE covers. -/
def doneCover (co : Coll) : Nat := 1 + (co.childDone.map (·.2)).sum

/-- DONE to the parent (12 R400). -/
def sendDone (s : State) (co : Coll) : State :=
  collSend s co (realRank co.n co.root (treeParent co.radix co.n (virtRank co.n co.root co.rank))) 4 0 (doneCover co) 0 []

/-- DONE to the parent, or the root's seal (12 R400). -/
def collProgress (s : State) (k : CollKey) : State :=
  match collAt s k with
  | none => s
  | some co =>
    if co.sentDone ∨ ownDone co = false ∨ kidsDone co = false then s
    else
      if virtRank co.n co.root co.rank = 0 then
        if doneCover co = co.n then finish (completeColl (collDown s co 5 0 []) co 0 0 false) else s
      else sendDone (modColl s k (fun c => { c with sentDone := true })) co

/-- A collective goes on as far as it can. -/
def pump (s : State) (k : CollKey) : State := collProgress (rootOut (advanceUp s k) k) k

/-- A contribution tile comes into the mortar's hands (12 R393). -/
def takeTile (s : State) (co : Coll) (i : Nat) : State :=
  let t := mortarTile co.desc (readTile s co.desc i)
  noteSpecials (modColl (readPass s (collWythe co) co.desc i) co.key (fun c => { c with tiles := c.tiles ++ [(i, t.1)] })) (collWythe co) co.key.ctx co.key.group
    co.key.seq t.2

/-! ### Messages (12 R396 to R404) -/

def collFor (s : State) (k : CollKey) : Option Coll := s.colls.find? (fun c => sameColl c.key k)

/-- A PARTIAL at its combine point (12 R387, R394, R397). -/
def takePartial (s : State) (co : Coll) (m : CollMsg) : State :=
  if m.crcOk = false then
    let n := ((co.badParts.filter (fun b => b.1 == m.fromRank && b.2.1 == m.chunk)).map (·.2.2)).sum + 1
    let s := modColl (count s 0xA080 6) co.key (fun c => { c with badParts := c.badParts ++ [(m.fromRank, m.chunk, 1)] })
    if n ≥ 3 then finish (requestAbort s co 0x0703) else collSend s co m.fromRank 2 m.chunk 0 m.attempt []
  else if m.digest.isSome ∧ m.digest ≠ some co.digest then finish (requestAbort s co 0x0702)
  else
    let s := modColl s co.key (fun c => { c with
      agreed := if m.digest.isSome ∧ !c.agreed.contains m.fromRank then c.agreed ++ [m.fromRank] else c.agreed,
      parts := if (partOf c m.fromRank m.chunk).isSome then c.parts else c.parts ++ [(m.fromRank, m.chunk, m.payload)] })
    pump s co.key

/-- A RESULT chunk at a member (12 R397). -/
def takeResult (s : State) (co : Coll) (m : CollMsg) : State :=
  if m.crcOk = false then
    let s := modColl (count s 0xA080 6) co.key (fun c => { c with badResults := c.badResults ++ [(m.chunk, m.attempt)] })
    if m.attempt = 0 then collSend s co co.root 3 m.chunk 0 0 [] else finish (requestAbort s co 0x0703)
  else if co.results.contains m.chunk ∨ cdiv (resultBytes co.desc co.n co.rank) (tileBytes co.desc) ≤ m.chunk then s
  else pump (collDown (deliverChunk s co m.chunk m.payload) co 1 m.chunk m.payload) co.key

/-- A chunk is sent again from its retained copy, as attempt `n` (12 R397). -/
def sendAgain (s : State) (co : Coll) (rk msg chunk n : Nat) : State :=
  match co.retained.find? (fun r => r.1 == chunk) with
  | none => s
  | some r => collSend (count s 0xA080 7) co rk msg chunk
      (if msg = 0 then coverOf co.radix co.n (virtRank co.n (chunkRoot co chunk) co.rank) else 0) n r.2

/-- A PARTIAL goes again to the parent in its chunk's tree. -/
def partialAgain (s : State) (co : Coll) (chunk n : Nat) : State :=
  let r := chunkRoot co chunk
  let v := virtRank co.n r co.rank
  if v = 0 then s else sendAgain s co (realRank co.n r (treeParent co.radix co.n v)) 0 chunk n

/-- A message of a collective that is open and under way at this member, by its MSG. -/
def takeOpen (s : State) (co : Coll) (msg : Nat) (m : CollMsg) : State :=
  match msg with
  | 0 => takePartial s co m
  | 1 => takeResult s co m
  | 2 => partialAgain s co m.chunk (min 2 (m.attempt + 1))
  | 3 => if co.rank = co.root then sendAgain s co m.fromRank 1 m.chunk (min 2 (m.attempt + 1)) else s
  | 4 => pump (modColl s co.key (fun c => { c with
      childDone := if c.childDone.any (fun d => d.1 == m.fromRank) then c.childDone else c.childDone ++ [(m.fromRank, m.cover)] })) co.key
  | 5 => finish (completeColl (collDown s co 5 0 []) co 0 0 false)
  | 6 => if co.rank = co.root then finish (abortColl s co m.code m.codeRank) else s
  | 7 => finish (abortColl s co m.code m.codeRank)
  | 8 => { s with backoffs := s.backoffs ++ [(co.key, m.chunk)] }
  | _ => s

/-- A message outside an open collective, from this member to the member of a rank of a group. -/
def sendLoose (s : State) (k : CollKey) (rk msg chunk : Nat) (data : List Byte) : State :=
  match (groupList s k.ctx k.group)[rk]? with
  | none => s
  | some pkg =>
    inject s 0 (mkPacket s pkg (if msg = 7 then 7 else 5) 4 0
      (mortarHeader msg k.group k.ctx k.seq chunk (groupE s k.ctx k.group 7) 0 0 false 0) data)

/-- A message of a collective that has ended here (12 R399, R401): the root answers an ABORT_REQ after its seal with SEAL
and a DONE after its abort with ABORT; any other class 5 packet is stale. -/
def takeEnded (s : State) (e : CollEnd) (msg : Nat) (m : CollMsg) : State :=
  if e.isRoot ∧ msg = 6 ∧ e.status = 0 then sendLoose s m.key m.fromRank 5 0 []
  else if e.isRoot ∧ msg = 4 ∧ e.status ≠ 0 then sendLoose s m.key m.fromRank 7 0 (abortData e.status e.codeRank)
  else if msg = 6 ∨ msg = 7 then s
  else count s 0xA080 8

/-- A class 5 packet before this member's own post: held where room is free, else BACKOFF (12 R399). -/
def holdMsg (s : State) (msg : Nat) (m : CollMsg) : State :=
  let h : HeldMsg := { msg := msg, m := m }
  if heldBytes h ≤ retentionFree s then { s with heldMsgs := s.heldMsgs ++ [h] }
  else sendLoose (count s 0xA080 9) m.key m.fromRank 8 m.chunk []

/-- Work of a (context, layer, generation) that its admission would decide about stands at this package. -/
def admissionPending (s : State) (c n g : Nat) : Bool :=
  let mine (k : TokKey) : Bool := k.ctx == c && k.layer == n && k.gen == g
  s.claims.any (isClaimOf c n g) || s.bundles.any (fun b => b.ctx == c && b.layer == n && b.gen == g) ||
    s.confs.any (fun f => mine f.key && !f.done) || s.toks.any (fun t => mine t.key)

/-- An abort that reaches this package before it could join the admission barrier which the message names is kept for the ledgers (03
R78). -/
def abortBarrier (s : State) (m : CollMsg) : State :=
  let c := m.key.ctx
  let n := m.key.seq / 65536 % 256
  let g := m.key.seq % 65536
  let mine (b : Barrier) : Bool := b.ctx == c && b.layer == n && b.gen == g
  if m.key.group = 255 ∧ admissionPending s c n g ∧ ¬ s.barriers.any (fun b => mine b && !b.ended) then
    let b : Barrier := { ctx := c, layer := n, gen := g, joined := false, result := some m.code, fencedAt := [], ended := false }
    { s with barriers := s.barriers.filter (fun x => !mine x) ++ [b] }
  else s

/-- An ABORT_REQ or ABORT before this member's own post: the abort is remembered, so that a late post completes at once;
an ABORT_REQ reaches only the root, which sends ABORT down its tree (12 R404, R406). -/
def abortUnposted (s : State) (msg : Nat) (m : CollMsg) : State :=
  let own := groupE s m.key.ctx m.key.group 7
  let n := (groupList s m.key.ctx m.key.group).length
  let e : CollEnd := { key := m.key, status := m.code, codeRank := m.codeRank, posted := false, isRoot := msg == 6 }
  let s := { s with
    collEnds := rememberEnd s.collEnds e
    heldMsgs := s.heldMsgs.filter (fun h => !sameColl h.m.key m.key) }
  if msg = 6 then
    forEach s (treeKids (groupE s m.key.ctx m.key.group 3) n 0) (fun t k =>
      sendLoose t m.key (realRank n own k.1) 7 0 (abortData m.code m.codeRank))
  else s

/-- TIER1_UNCORRECTED in the retention region. -/
def retainFault (s : State) : State :=
  let a := (retainRegion s).1
  raise1 s 1 0x21 5 (channelOf a) none a

/-- A mortar message arrives (12 R385, R399). -/
def takeMsg (s : State) (msg : Nat) (m : CollMsg) : State :=
  match collFor s m.key with
  | some co => if co.granted ∨ msg = 6 ∨ msg = 7 then takeOpen s co msg m else holdMsg s msg m
  | none =>
    match endFor s m.key with
    | some e => takeEnded s e msg m
    | none => if msg = 6 ∨ msg = 7 then abortBarrier (abortUnposted s msg m) m else holdMsg s msg m

def execPartialMsg (m : CollMsg) (s : State) : Res := run s fun s => takeMsg s 0 m
def execResultMsg (m : CollMsg) (s : State) : Res := run s fun s => takeMsg s 1 m

/-- A retained chunk that is to be sent again cannot be read: TIER1_UNCORRECTED, and the re-send has failed, which ends the collective as
COLL_CORRUPT (12 R397, R398; 16 R515). The place that the fault names is the region's first byte (DESIGN CHOICE, log entry 140). -/
def resendLost (s : State) (msg : Nat) (m : CollMsg) : State :=
  match collFor s m.key with
  | none => takeMsg s msg m
  | some co =>
    if co.retained.any (fun r => r.1 == m.chunk) && (msg == 2 || co.rank == co.root) then
      finish (requestAbort (retainFault s) co 0x0703)
    else takeMsg s msg m

def execPnak (m : CollMsg) (readOk : Bool) (s : State) : Res := run s fun s => if readOk then takeMsg s 2 m else resendLost s 2 m
def execCollNak (m : CollMsg) (readOk : Bool) (s : State) : Res := run s fun s => if readOk then takeMsg s 3 m else resendLost s 3 m
def execDoneMsg (m : CollMsg) (s : State) : Res := run s fun s => takeMsg s 4 m
def execSealMsg (m : CollMsg) (s : State) : Res := run s fun s => takeMsg s 5 m
def execAbortReq (m : CollMsg) (s : State) : Res := run s fun s => takeMsg s 6 m
def execAbort (m : CollMsg) (s : State) : Res := run s fun s => takeMsg s 7 m
def execBackoff (m : CollMsg) (s : State) : Res := run s fun s => takeMsg s 8 m

/-- 10 µs after a BACKOFF the packet goes again: the PARTIAL of the chunk, and for chunk 0 the DONE that has been sent, since a
BACKOFF names its chunk alone (12 R396; DEDUCED, log entry 116). -/
def execBackoffRetry (k : CollKey) (chunk : Nat) (s : State) : Res := run s fun s =>
  if s.backoffs.contains (k, chunk) = false then s
  else
    let s := { s with backoffs := s.backoffs.erase (k, chunk) }
    match collAt s k with
    | some co =>
      let s := partialAgain s co chunk 0
      if chunk = 0 ∧ co.sentDone then sendDone s co else s
    | none => s

/-! ### Groups (12 R376 to R378) -/

/-- The member list in tier 1 through the package's own window table (12 R377). -/
def readMembers (s : State) (a count : Nat) : Option (List Nat) :=
  if pondPos a ≠ gridPos s then none
  else (pondReadAll s a (2 * count)).map (fun bs => (chunksOf 2 count bs).map fromLE)

/-- GROUP_COMMIT (12 R377); `readOk` is false where the read of the list meets an uncorrectable error. -/
def actGroupCommit (g : Nat) (readOk : Bool) (q : Req) (s : State) : Act :=
  let c := viewCtx s (0x7100 + g) 5 q
  let n := groupE s c g 2
  let radix := groupE s c g 3
  if g = 255 then .refuse 0x0201 s
  else if s.colls.any (fun x => x.key.ctx == c && x.key.group == g) then .refuse 0x0601 s
  else if n = 0 ∨ n > 16384 ∨ !([2, 4, 8, 16].contains radix) then .refuse 0x0302 s
  else match (if readOk then readMembers s (groupE s c g 1) n else none) with
    | none => .refuse 0x0302 (if readOk then missPieces s (groupE s c g 1) (2 * n) winRead else s)
    | some l =>
      if l.any (fun x => decide (2 ^ 14 ≤ x)) ∨ l.dedup.length ≠ l.length ∨ !l.contains (pkgId s) then .refuse 0x0302 s
      else
        let s := setC s c (0x7100 + g) 7 (l.findIdx (· == pkgId s))
        let s := setC s c (0x7100 + g) 8 (digest8 (l.flatMap (toLE 2)))
        let s := setC (setC s c (0x7100 + g) 9 0) c (0x7100 + g) 6 1
        .done { s with groupLists := tins s.groupLists (groupKey c g) l }

def execGroupCommit (group : Nat) (q : Req) (readOk : Bool) (s : State) : Res := run s fun s =>
  serveWrite (0x7100 + group) 5 q (actGroupCommit group readOk q) s

/-! ### Posts (12 R380 to R386) -/

/-- The descriptor digest (12 R386). -/
def collDigest (seq : Nat) (d : CollDesc) (eager : Bool) (n listDigest : Nat) : Nat :=
  digest8 (toLE 4 seq ++ toLE 1 d.group ++ toLE 1 (d.cop + 16 * b2n eager) ++ toLE 1 (d.dtype + 4 * d.rop + 16 * d.tileCode) ++
    toLE 1 0 ++ toLE 4 d.count ++ toLE 2 d.root ++ toLE 2 n ++ toLE 8 listDigest)

/-- A collective under way: its tiles are read, the packets held for it are taken, and it goes on (12 R393, R399). -/
def startColl (s : State) (k : CollKey) : State :=
  match collAt s k with
  | none => s
  | some co =>
    let s := if contributes co.desc co.rank ∧ co.socFeed = false then forEach s (List.range (collTiles co.desc)) (fun t i => takeTile t co i) else s
    let hs := s.heldMsgs.filter (fun h => sameColl h.m.key k)
    let s := { s with heldMsgs := s.heldMsgs.filter (fun h => !sameColl h.m.key k) }
    pump (forEach s hs (fun t h => takeMsg t h.msg h.m)) k

/-- The abort of a collective that this member has not posted yet. -/
def lateEnd (s : State) (k : CollKey) : Option CollEnd :=
  s.collEnds.find? (fun e => e.status != 0 && (if e.posted then e.key == k else sameColl e.key k))

/-- A collective opens: a late post of an aborted one completes at once, and passes the ABORT on where it is not the root,
which has sent it (12 R404, R406); else it reserves its retention, or waits for it (12 R398), and starts. -/
def openColl (s : State) (co : Coll) : State :=
  match lateEnd s co.key with
  | some e =>
    let s := { s with colls := s.colls ++ [co] }
    let s := if e.isRoot then s else collDown s co 7 0 (abortData e.status e.codeRank)
    finish (completeColl s co e.status e.codeRank false)
  | none =>
    if co.retention ≤ retentionFree s then startColl { s with colls := s.colls ++ [{ co with granted := true }] } co.key
    else { s with colls := s.colls ++ [co] }

/-- The collective that a descriptor opens at this member. -/
def mkColl (s : State) (ctx st : Nat) (d : CollDesc) (seq dseq pc handle : Nat) (sig : Option Nat) (eager soc : Bool) : Coll :=
  let n := (groupList s ctx d.group).length
  let rank := groupE s ctx d.group 7
  let radix := groupE s ctx d.group 3
  let root := if 1 ≤ d.cop ∧ d.cop ≤ 3 then d.root else 0
  { key := { ctx := ctx, group := d.group, seq := seq }, desc := d, stone := st, pc := pc, signal := sig, handle := handle,
    eager := eager, socFeed := soc, n := n, rank := rank, root := root, radix := radix,
    digest := collDigest dseq d eager n (groupE s ctx d.group 8), retention := reservationOf d radix n root rank,
    granted := false, tiles := [], parts := [], badParts := [], agreed := [], greeted := [], sentChunks := [],
    retained := [], results := [], badResults := [], childDone := [], sentDone := false, abortSent := false }

/-! ### Multicast (12 R410, R411) -/

def mcastAt (s : State) (ctx number : Nat) : Option Mcast := s.mcasts.find? (fun m => m.ctx == ctx && m.number == number)

def modMcast (s : State) (ctx number : Nat) (f : Mcast → Mcast) : State :=
  { s with mcasts := mapWhere s.mcasts (fun m => m.ctx == ctx && m.number == number) f }

/-- A multicast whose legs are all acknowledged completes with status 0. -/
def mcastDone (s : State) (ctx number : Nat) : State :=
  match mcastAt s ctx number with
  | none => s
  | some m => if m.acks.length ≥ m.legs.length * collTiles m.desc then finish (completeMcast s m 0 0) else s

/-- A leg chunk at its stone: 0 written, 1 the stone is fenced, 2 a bad chunk (12 R410, R411). -/
def writeLeg (s : State) (poster ctx number leg st off : Nat) (crcOk : Bool) (bs : List Byte) : State × Nat :=
  if isFenced s st then
    if s.fencedLegs.contains (poster, ctx, number, leg) then (s, 1)
    else (count { s with fencedLegs := s.fencedLegs ++ [(poster, ctx, number, leg)] } 0xA080 0x0A, 1)
  else if crcOk = false then (count s 0xA080 6, 2)
  else if off % 8 ≠ 0 ∨ inSram off bs.length = false then (s, 2)
  else (sramWrite s st off bs, 0)

/-- A chunk of one leg leaves: over the mesh on the posting package, else as a LEG packet, whose payload begins with the
leg entry of the chunk (DESIGN CHOICE, log entry 43: the manual gives the header no offset). -/
def sendLeg (s : State) (m : Mcast) (i chunk attempt : Nat) (bs : List Byte) : State :=
  match m.legs[i]? with
  | none => s
  | some l =>
    let off := legOffset l + chunk * tileBytes m.desc
    if legPkg l = pkgId s then
      let (s, a) := writeLeg s (pkgId s) m.ctx m.number i (legStone l) off true bs
      modMcast s m.ctx m.number (fun x => { x with acks := x.acks ++ [(i, chunk, a)] })
    else
      inject s (wytheOf m.stone) (mkPacket s (legPkg l) 5 4 (legStone l)
        (mortarHeader 9 0 m.ctx m.number chunk i 0 attempt false (crc32c bs))
        (toLE 8 (legPkg l * 2 ^ 50 + legStone l * 2 ^ 38 + off % 2 ^ 18 * 2 ^ 20) ++ bs))

/-- A contribution tile of a multicast is read (12 R393). -/
def readMcast (s : State) (ctx number i : Nat) : State :=
  match mcastAt s ctx number with
  | none => s
  | some m =>
    let bs := readTile s m.desc i
    modMcast (readPass s (wytheOf m.stone) m.desc i) ctx number (fun x => { x with tiles := x.tiles ++ [(i, bs)] })

/-- A tile in hand goes out on every leg (12 R410). -/
def mcastLegs (s : State) (ctx number i : Nat) : State :=
  match mcastAt s ctx number with
  | none => s
  | some m =>
    match m.tiles.find? (fun t => t.1 == i) with
    | none => s
    | some x => mcastDone (forEach s (List.range m.legs.length) (fun t j => sendLeg t m j i 0 x.2)) ctx number

/-- A contribution tile of a multicast is read and goes out. -/
def mcastTile (s : State) (ctx number i : Nat) : State := mcastLegs (readMcast s ctx number i) ctx number i

/-- A multicast starts once it holds its retention: every tile goes out, or with SOC_FEED those that notices have released
already. -/
def startMcast (s : State) (ctx number : Nat) (soc : Bool) : State :=
  match mcastAt s ctx number with
  | none => s
  | some m =>
    if soc then forEach s (m.tiles.map (·.1)) (fun t i => mcastLegs t ctx number i)
    else forEach s (List.range (collTiles m.desc)) (fun t i => mcastTile t ctx number i)

/-- Open collectives and multicasts of one mortar (12 R385). -/
def mortarOpen (s : State) (w : Nat) : Nat :=
  (s.colls.filter (fun c => c.desc.cop != 7 && collWythe c == w)).length + (s.mcasts.filter (fun m => wytheOf m.stone == w)).length

/-- A POST that waits for retention takes all of its reservation once it fits; the cycles it waited are counted (12 R398). -/
def execCollRetentionGrant (k : CollKey) (cycles : Nat) (s : State) : Res := run s fun s =>
  match s.colls.find? (fun c => c.key == k && !c.granted) with
  | some co =>
    if co.retention ≤ retentionFree s then
      startColl (modColl (countBy s 0xA080 0x0B cycles) k (fun c => { c with granted := true })) k
    else s
  | none =>
    match s.mcasts.find? (fun m => m.ctx == k.ctx && m.number == k.seq && !m.granted) with
    | some m =>
      if k.group = 0 ∧ m.retention ≤ retentionFree s then
        startMcast (modMcast (countBy s 0xA080 0x0B cycles) m.ctx m.number (fun x => { x with granted := true })) m.ctx m.number m.socFeed
      else s
    | none => s

/-- A tile notice at the mortar that owns the handle (12 R393). -/
def takeNotice (s : State) (st handle tile : Nat) : State :=
  let bad (t : State) : State :=
    let d := instrAddr t st
    raise1 (stopLate (count t 0xA080 0x0C) st) 1 0x05 0 st (stoneOf t st).owner d
  if handle = 0 then bad s
  else match s.colls.find? (fun c => c.handle == handle) with
    | some co =>
      if collTiles co.desc ≤ tile then bad s
      else if co.tiles.any (fun t => t.1 == tile) ∨ contributes co.desc co.rank = false ∨ co.socFeed = false then count s 0xA080 0x0C
      else if co.granted then pump (takeTile s co tile) co.key else takeTile s co tile
    | none =>
      match s.mcasts.find? (fun m => m.handle == handle) with
      | some m =>
        if collTiles m.desc ≤ tile then bad s
        else if m.tiles.any (fun t => t.1 == tile) ∨ m.socFeed = false then count s 0xA080 0x0C
        else if m.granted then mcastTile s m.ctx m.number tile
        else readMcast s m.ctx m.number tile
      | none => bad s

def execTileNotice (st handle tile : Nat) (s : State) : Res := run s fun s => takeNotice s st handle tile

/-- A leg chunk arrives: written, dropped at a fenced stone or bad, and answered (12 R410, R411). -/
def execLeg (m : LegMsg) (s : State) : Res := run s fun s =>
  let (s, a) := writeLeg s m.poster m.ctx m.number m.leg m.stone m.offset m.crcOk m.payload
  inject s (wytheOf m.stone) (mkPacket s m.poster 5 4 0 (mortarHeader 10 0 m.ctx m.number m.chunk m.leg 0 0 false 0) (toLE 1 a))

/-- A LEG_ACK at the poster: a bad chunk goes again at most twice, then the multicast ends with COLL_CORRUPT; the last
acknowledgement completes it (12 R410, R411). `readOk` is false where the retained chunk cannot be read, which fails the re-send too
(12 R398). -/
def execLegAck (ctx number leg chunk answer : Nat) (readOk : Bool) (s : State) : Res := run s fun s =>
  match s.mcasts.find? (fun m => m.ctx == ctx && m.number % 2 ^ 24 == number % 2 ^ 24) with
  | none => count s 0xA080 8
  | some m =>
    if answer = 2 then
      let n := (m.resends.filter (fun r => r.1 == leg && r.2.1 == chunk)).length
      if n ≥ 2 ∨ readOk = false then finish (completeMcast (if readOk then s else retainFault s) m 0x0703 0)
      else match m.tiles.find? (fun t => t.1 == chunk) with
        | none => s
        | some t =>
          sendLeg (modMcast (count s 0xA080 7) m.ctx m.number (fun x => { x with resends := x.resends ++ [(leg, chunk, n + 1)] }))
            m leg chunk (n + 1) t.2
    else if m.acks.any (fun a => a.1 == leg && a.2.1 == chunk) then s
    else mcastDone (modMcast s m.ctx m.number (fun x => { x with acks := x.acks ++ [(leg, chunk, answer)] })) m.ctx m.number

/-! ### Timeouts, COLL_ABORT, and the admission barrier -/

/-- COLL_TIMEOUT or BARRIER_TIMEOUT expires for a member that has not sent DONE: ABORT_REQ, and where one has already gone
unanswered the member completes; a multicast completes with COLL_TIMEOUT (12 R402, R404, R411). -/
def execCollTimeoutExpiry (k : CollKey) (s : State) : Res := run s fun s =>
  match collAt s k with
  | some co =>
    if co.sentDone then s
    else if co.abortSent then finish (completeColl s co 0x0701 0 false)
    else finish (requestAbort s co 0x0701)
  | none =>
    match mcastAt s k.ctx k.seq with
    | some m => if k.group = 0 then finish (completeMcast s m 0x0701 0) else s
    | none => s

/-- The wait for SEAL or ABORT after DONE times out: the member completes UNDECIDED (12 R401). -/
def execSealWaitTimeout (k : CollKey) (s : State) : Res := run s fun s =>
  match collAt s k with
  | some co => if co.sentDone then finish (completeColl s co 0x0701 0 true) else s
  | none => s

/-- COLL_ABORT (12 R403, R414). -/
def actCollAbort (q : Req) (s : State) : Act :=
  let code := q.value % 2 ^ 16
  if code ≠ 0x0701 ∧ code ≠ 0x0703 ∧ code ≠ 0x0704 then .refuse 0x0302 s
  else match collAt s { ctx := bits 63 56 q.value, group := bits 55 48 q.value, seq := bits 47 16 q.value } with
    | some co => .done (finish (requestAbort s co code))
    | none => .done s

def execCollAbort (q : Req) (s : State) : Res := run s fun s => serveWrite 0x7012 1 q (actCollAbort q) s

/-- Every claim of a layer and generation has been sent and acknowledged (03 R77). -/
def claimsSent (s : State) (ctx layer gen : Nat) : Bool :=
  s.toks.all (fun t => !(t.key.ctx == ctx && t.key.layer == layer && t.key.gen == gen)) &&
    s.confs.all (fun f => !(f.key.ctx == ctx && f.key.layer == layer && f.key.gen == gen) || f.pendingClaims.isEmpty) &&
    s.bundles.all (fun b => !(b.ctx == ctx && b.layer == layer && b.gen == gen))

/-- The package joins the admission barrier, a collective of group 255, once for a use of the generation (03 R77, 12 R386). -/
def execAdmissionBarrierJoin (ctx layer gen : Nat) (s : State) : Res := run s fun s =>
  if claimsSent s ctx layer gen = false ∨ groupE s ctx 255 6 ≠ 1 ∨
      s.barriers.any (fun b => b.ctx == ctx && b.layer == layer && b.gen == gen && !b.ended && (b.joined || b.result.isSome)) ∨
      barrierEnded s ctx layer gen (fun _ => true) then s
  else
    let d : CollDesc := { parseColl 0 with cop := 7, group := 255 }
    let k := barrierKey ctx layer gen
    let co := mkColl s ctx 0 d k.seq (k.seq % 2 ^ 24 + ctx % 256 * 2 ^ 24) 0 0 none false false
    let b : Barrier := { ctx := ctx, layer := layer, gen := gen, joined := true, result := none, fencedAt := [], ended := false }
    openColl { s with barriers := s.barriers.filter (fun x => !(x.ctx == ctx && x.layer == layer && x.gen == gen)) ++ [b] } co

end Sys2Proof.Machine
end

