-- ==== Sys2Proof/Machine/Sync.lean ====
section
/-! DEFINITION. The SYNC class (05 R184 to R190). -/

namespace Sys2Proof.Machine

/-- Operand fields of a SYNC instruction (05 R186). -/
def syncOk (h : IHdr) (o : Operands) : Bool := headerOk h false && onlyFields [(111, 79), (31, 0)] o

/-- The value of SET, ADD, SIGNAL and WAIT: IMM, or REG with FORM = 1. -/
def syncValue (s : State) (st : Nat) (o : Operands) : BitVec 32 :=
  if flag 109 o then reg s st (fld 108 105 o) else BitVec.ofNat 32 (fld 31 0 o)

/-- SET: VALUE := operand. -/
def execSyncSet (st : Nat) (h : IHdr) (o : Operands) (s : State) : Res := run s fun s =>
  memIssue s st (syncOk h o) [] [] fun s =>
    let v := syncValue s st o
    completeNow (modStone s st (fun x => updateSync x (fld 111 110 o) (fun _ => v))) st h

/-- ADD: VALUE := VALUE + operand modulo 2^32. -/
def execSyncAdd (st : Nat) (h : IHdr) (o : Operands) (s : State) : Res := run s fun s =>
  memIssue s st (syncOk h o) [] [] fun s =>
    let v := syncValue s st o
    completeNow (modStone s st (fun x => updateSync x (fld 111 110 o) (· + v))) st h

/-- SIGNAL: adds the operand to object j of a stone of this package over the mesh, or of another package as a memory
request of class 1 that counts against the sender's cap (05 R186, R189). -/
def execSyncSignal (st : Nat) (h : IHdr) (o : Operands) (s : State) : Res := run s fun s =>
  memIssue s st (syncOk h o) [] [] fun s =>
    let v := syncValue s st o
    let dest := fld 104 91 o
    let target := fld 90 79 o
    if dest = pkgId s then deliverSignal (completeNow s st h) target (fld 111 110 o) v.toNat
    else if requestWaits s 0 st 2 dest false 0 4 then stallOn s st .request
    else
      let pc := (stoneOf s st).pc
      issueRequest (takeSlot s st 3 [] [] h) st 2 dest false (fld 111 110 o) 4 (toLE 4 v.toNat) none 0 pc (sigOf h) target

/-- WAIT: issue stops until the signed value VALUE − target is at least 0; with ERROR set the context stops (05 R187). -/
def execSyncWait (st : Nat) (h : IHdr) (o : Operands) (s : State) : Res := run s fun s =>
  memIssue s st (syncOk h o) [] [] fun s =>
    let j := fld 111 110 o
    let v := syncValue s st o
    let y := syncOf (stoneOf s st) j
    if y.err then failStone s st 0x08
    else if waitMet y.val v then completeNow s st h
    else settleStone (modStone s st (fun x => { x with run := .waiting j v (now s), waitSig := sigOf h })) st

/-- READ: copies VALUE into an address register. -/
def execSyncRead (st : Nat) (h : IHdr) (o : Operands) (s : State) : Res := run s fun s =>
  memIssue s st (syncOk h o) [] [] fun s =>
    completeNow (modStone s st (fun x => setAreg x (fld 108 105 o) (syncOf x (fld 111 110 o)).val)) st h

/-- CLEAR: clears ERROR. -/
def execSyncClear (st : Nat) (h : IHdr) (o : Operands) (s : State) : Res := run s fun s =>
  memIssue s st (syncOk h o) [] [] fun s =>
    completeNow (modStone s st (fun x => setSync x (fld 111 110 o) { syncOf x (fld 111 110 o) with err := false })) st h

/-- A SIGNAL from another package reaches its target (05 R189). -/
def execSignalDelivery (st obj addend : Nat) (s : State) : Res := run s fun s => deliverSignal s st (obj % 4) addend

/-- A WAIT at the stone, of whichever context, has been pending longer than SYNC_WATCHDOG: the source is raised and the event counted;
the WAIT goes on (05 R190). -/
def execSyncWatchdogExpiry (st : Nat) (s : State) : Res := run s fun s =>
  let waits (x : Stone) : Bool := match x.run with | .waiting _ _ _ => true | _ => false
  if getE s 0x5022 0x01 ≠ 0 ∧ (waits (stoneOf s st) || s.ctxs.any (fun p => waits (tget Stone.initial p.2.savedStones st))) then
    holdSource (count s 0xA040 0x04) 12
  else s

end Sys2Proof.Machine
end

