-- ==== Sys2Proof/Machine/Fence.lean ====
section
/-! DEFINITION. Fencing a stone (05 R193 to R196, 01 R20, R21, 03 R93, 09 R291), errors of an SRAM read (05 R169 to R171) and failed units. -/

namespace Sys2Proof.Machine

/-! ### The fence -/

/-- The work of a fenced stone is discarded: what is in flight in its units, its requests, and its descriptors, which
complete with an error (05 R193). -/
def dropWork (x : Stone) : Stone :=
  { x with run := .stopped, stall := none, memFence := false, np := none, waitSig := none, inflight := [], dense := [],
           sparse := [], vruns := [], eruns := [] }

/-- Contexts that have a stone. -/
def stoneCtxs (s : State) (st : Nat) : List Nat := (s.ctxs.filter (fun p => isLoaded p.2 && p.2.phys.any (fun q => q.2 == st))).map (·.1)

def discardWork (s : State) (st : Nat) : State :=
  let ds := s.dmas.filter (fun d => d.stone == st)
  let s := forEach (modStone s st dropWork) (stoneCtxs s st) (fun t c => modStoneFor t c st dropWork)
  let k := senderKey 0 st
  let s := setSender s k { senderOf s k with reqs := [], expired := [] }
  let c := senderKey 1 (courseOf st)
  let s := setSender s c (forgetReqs (· == st) (senderOf s c))
  let s := { s with kvWaits := s.kvWaits.filter (fun w => w.stone != st) }
  forEach (forEach s ds dropDma) ds dmaError

/-- A fenced general stone stops its context, and a retire of the generations that are open is accepted (05 R195, 03 R114). -/
def fenceContext (s : State) (st : Nat) : State :=
  forEach s (stoneCtxs s st) (fun s c =>
    if isExpertStone s c st then settle s c
    else
      let s := stopCtx s c
      { s with gens := mapWhere s.gens (fun g => g.ctx == c && !g.retired) (fun g => { g with forced := true }) })

/-- A stone is fenced, and the plumb records it (05 R193, R195, 03 R93, 09 R291, 12 R403; log entry 44). -/
def fenceStone (s : State) (st : Nat) : State :=
  if isFenced s st then s
  else
    let free := freeOnStone s st
    let d := instrAddr s st
    let o := (stoneOf s st).owner
    let s := { s with fenced := s.fenced ++ [st] }
    let s := raise1 s 1 0x03 0 st o d
    let s := fenceContext (discardWork s st) st
    let s := strandChoices s (fun a => (repStones a.claim.rep).contains st)
    let s := forEach s (s.colls.filter (fun co => collNames co st)) (fun t co => finish (requestAbort t co 0x0704))
    retireBuffers s st free

def fenceMany (s : State) (l : List Nat) : State := forEach s l fenceStone

/-- FENCE_STONE (05 R193, R197). -/
def actFenceStone (q : Req) (s : State) : Act := .done (fenceStone s (q.value % 4096))

def execFenceStone (q : Req) (s : State) : Res := run s (serveWrite 0x8032 1 q (actFenceStone q))

/-! ### Remapping (05 R196) -/

/-- Stones that resident contexts and this context use. -/
def stonesInUse (s : State) (c : Nat) : List Nat :=
  (((s.ctxs.filter (fun p => p.2.resident || p.1 == c)).map (·.2)).flatMap (fun x => x.phys.map (·.2)))

/-- Instruction words and initial bytes of a stone, by SRAM offset. -/
def stoneImage (t : ImgStone) : List (Nat × Byte) :=
  let ws := t.words.flatMap (fun w => toLE 16 w.toNat)
  t.bytes ++ (List.range ws.length).zip ws

/-- The instruction list and the bytes that the image gives a stone, written into a physical stone. -/
def loadStone (s : State) (t : ImgStone) (st : Nat) : State :=
  sramFill (forEach s t.bytes (fun u b => sramFill u st b.1 [b.2])) st 0 (t.words.flatMap (fun w => toLE 16 w.toNat))

/-- Objects whose window is the one stone: their descriptors name the new stone, and their windows are loaded from HOME, those of a
swapped context at its swap-in. -/
def moveWindows (s : State) (c a b : Nat) : State :=
  forEach s ((objectsOf s c).filter (fun o => o.2.valid && o.2.mode != 2 && o.2.span == 0 && o.2.firstStone == a)) (fun t o =>
    let d := { o.2 with firstStone := b }
    let t := memWrite t (getC t c 0x4010 0x01 + 32 * o.1) (toLE 32 (packObj d))
    if d.mode = 0 ∧ (ctxOf t c).resident then fillWindow (fresh t) d (homeData t d) else t)

/-- Cells in order of their addresses. -/
def memSort (l : List Host.Cell) : List Host.Cell := l.foldl (fun m e => tins m e.1 e.2) []

/-- A stone restarts from its last step mark, or from its first instruction where it has none (DEDUCED, log entry 62). -/
def markStone (has : Bool) (x : Stone) : Stone :=
  let r : StoneRun := if has then .running else .halted
  match x.mark with
  | some m => { x with run := r, pc := m.pc, lc := m.lc, areg := m.areg, vl := m.vl, np := none, stall := none, waitSig := none }
  | none => { x with run := r, pc := 0, np := none, stall := none, waitSig := none }

/-- The image's part for a logical stone. -/
def imgStone (s : State) (c l : Nat) : Option ImgStone := (ctxOf s c).image.bind (fun i => i.stones.find? (fun t => t.stone == l))

/-- The logical stone runs on the spare: its sequencer state is that of its last step mark, its memory that of the image and of HOME
(05 R195). For a swapped context both stand in the save area. What belongs to the spare itself stays: the dirty bits of its SRAM and an
injection that waits at its engines (06 R228). -/
def remap (s : State) (c l b : Nat) : State :=
  let a := physOf s c l
  let old := stoneFor s c a
  let t := imgStone s c l
  let x := ctxOf s c
  let s := setCtx s c { x with
    phys := (x.phys.filter (fun p => p.1 != l)) ++ [(l, b)],
    savedStones := tdel (tdel x.savedStones a) b,
    savedBytes := x.savedBytes.filter (fun e => e.1 / 2 ^ 18 != a && e.1 / 2 ^ 18 != b),
    savedPinned := x.savedPinned.filter (fun g => g.1 != a),
    intact := x.intact.filter (fun g => g.1 != a && g.1 != b) }
  let spare := markStone (t.any (fun i => !i.words.isEmpty)) { Stone.initial with owner := some c, mark := old.mark }
  let s :=
    if x.resident then
      let s := if (stoneOf s a).owner = some c then modStone s a (fun y => { y with owner := none, run := .off }) else s
      let s := modStone s b (fun y => { spare with dirty := y.dirty, injDense := y.injDense, injSparse := y.injSparse })
      match t with
      | some i => loadStone s i b
      | none => s
    else modCtx s c (fun y => { y with
      savedStones := tput Stone.initial y.savedStones b spare,
      savedBytes := ((t.map stoneImage).getD []).foldl (fun m p =>
        if p.2 = 0 then tdel m (sramKey b p.1) else tins m (sramKey b p.1) p.2) y.savedBytes })
  moveWindows s c a b

/-- REMAP_STONE: bits 31:24 the context, 23:12 the logical stone, 11:0 the physical stone; the checks in their order. -/
def actRemapStone (q : Req) (s : State) : Act :=
  let c := bits 31 24 q.value
  let l := bits 23 12 q.value
  let b := bits 11 0 q.value
  let x := ctxOf s c
  match x.state with
  | .empty | .loading | .unloading => .refuse 0x0101 s
  | .ready | .running | .blocked | .swappingIn | .swappingOut => .refuse 0x0601 s
  | .swapped | .stopped =>
    if !(x.phys.any (fun p => p.1 == l)) ∨ isFenced s b ∨ (stonesInUse s c).contains b then .refuse 0x0302 s
    else .done (remap s c l b)

def execRemapStone (q : Req) (s : State) : Res := run s (serveWrite 0x5020 1 q (actRemapStone q))

/-! ### SRAM reads (05 R169 to R171) -/

/-- The object whose window holds a granule of a stone and can be refilled: streamed, or pinned and clean. -/
def refillable (s : State) (st g : Nat) : Option (ObjDesc × Nat) :=
  match (stoneOf s st).owner with
  | none => none
  | some c =>
    ((objectsOf s c).filter (fun o => o.2.valid && (o.2.mode == 1 || (o.2.mode == 0 && !isDirty s st g)))).findSome? (fun o =>
      ((windowGranules o.2).find? (fun w => w.1 == st && w.2.1 == g)).map (fun w => (o.2, w.2.2)))

/-- The granule is read again from HOME. -/
def refillGranule (s : State) (st g : Nat) (d : ObjDesc) (kib : Nat) : State :=
  let one := { d with home := d.home + kib * 1024, sizeKib := 1 }
  sramFill (fresh s) st (g * 1024) (homeData s one)

/-- A word whose read is uncorrectable: a second error at one word fences the stone (05 R170); a granule that can be refilled is; and
the fault is raised. It answers whether the read can be tried again. The error that the scrubber has met is not a second one when an
instruction meets it (DEDUCED, log entry 45). -/
def wordError (s : State) (scrub : Bool) (st off : Nat) : State × Bool :=
  let w := wordOf st off
  let again := s.wordErrs.contains w && (scrub || !s.badWords.contains (w, true))
  let s := { s with wordErrs := (w :: s.wordErrs).dedup, badWords := (w, scrub) :: s.badWords.filter (fun b => b.1 != w) }
  if again then (fenceStone (stoneFault s 1 0x02 st off) st, false)
  else match refillable s st (off / 1024) with
    | some (d, kib) => (stoneFault (refillGranule s st (off / 1024) d kib) 1 0x02 st off, true)
    | none => (stoneFault s 1 0x02 st off, false)

/-- An instruction whose read is uncorrectable: it is tried once more after a refill, with `k`; otherwise the context stops on the
stone at the instruction (05 R169). -/
def readError (s : State) (st off : Nat) (k : State → State) : State :=
  let r := wordError s false st off
  if r.2 then k r.1
  else if isFenced r.1 st then r.1
  else match (stoneOf s st).owner with
    | some c => stopAt r.1 c st
    | none => r.1

/-- A word in error that ranges of a stone's SRAM touch. -/
def badIn (s : State) (st : Nat) (ranges : List (Nat × Nat)) : Option Nat :=
  (s.badWords.find? (fun b => ranges.any (fun r => decide (0 < r.2) && decide (wordOf st r.1 ≤ b.1) &&
    decide (b.1 ≤ wordOf st (r.1 + r.2 - 1)) && decide (r.1 + r.2 ≤ 2 ^ 18)))).map (fun b => 8 * (b.1 % 2 ^ 15))

/-- The words at the ends of a range that a write of it reads first (05 R168). -/
def edgeWords (r : Nat × Nat) : List (Nat × Nat) :=
  if r.2 = 0 then []
  else (if r.1 % 8 = 0 then [] else [(r.1, 1)]) ++ (if (r.1 + r.2) % 8 = 0 then [] else [(r.1 + r.2 - 1, 1)])

/-- The reads of an instruction, word after word; `k` is its effect. -/
def readWords : Nat → State → Nat → List (Nat × Nat) → (State → State) → State
  | 0, s, _, _, k => k s
  | n + 1, s, st, l, k =>
    match badIn s st l with
    | none => k s
    | some off => readError s st off (fun t => readWords n t st l k)

/-- An instruction reads its sources, and the words that it will write in part (05 R169). -/
def readRanges (s : State) (st : Nat) (srcs dsts : List (Nat × Nat)) (k : State → State) : State :=
  readWords s.badWords.length s st (srcs ++ dsts.flatMap edgeWords) k

/-- The same where the command carries what the banks met: a word corrected in passing, or one found uncorrectable. -/
def readSram (s : State) (st : Nat) (r : SramRead) (srcs dsts : List (Nat × Nat)) (k : State → State) : State :=
  match r with
  | .clean => readRanges s st srcs dsts k
  | .corrected off => readRanges (stoneFault s 0 0x01 st off) st srcs dsts k
  | .uncorrectable off => readError s st off (fun t => readRanges t st srcs dsts k)

/-- A read by a unit for which no instruction waits: what can be refilled is; it answers whether all words are good. -/
def unitRead : Nat → State → Nat → Nat × Nat → State × Bool
  | 0, s, st, r => (s, (badIn s st [r]).isNone)
  | n + 1, s, st, r =>
    match badIn s st [r] with
    | none => (s, true)
    | some off => let t := wordError s false st off; if t.2 then unitRead n t.1 st r else (t.1, false)

/-- SCRUB_PASS: the scrubber reads every word once; it corrects, refills or records what it finds, and stops no context (05 R171). -/
def execScrubPass (st : Nat) (r : SramRead) (s : State) : Res := run s fun s =>
  if isFenced s st then s
  else match r with
  | .clean => s
  | .corrected off => stoneFault s 0 0x01 st off
  | .uncorrectable off => (wordError s true st off).1

/-! ### Failed units (01 R20, R21) -/

/-- The unit exists. -/
def unitExists (u : FailedUnit) : Bool :=
  match u with
  | .meshStop c | .courseDma c => decide (c < 64)
  | .cisternManager b | .ledger b => decide (b < 16)
  | .millrace w | .mortar w | .switch w => decide (w < 2)
  | .stack n => decide (n < 8)
  | .mgmtProcessor n => decide (n < 2)
  | _ => true

/-- The fault of a failed unit (01 R20, R21, 16 R510). Of a memory stack 16 R510 has UNIT name a channel of the stack: the model
names the first, 16 times its number (DESIGN CHOICE, log entry 119). -/
def unitFault (u : FailedUnit) : Fault16 :=
  match u with
  | .meshStop c | .courseDma c => mkFault 1 0x1C 1 c none 0
  | .cisternManager b => mkFault 1 0x1B 2 b none 0
  | .ledger b => mkFault 2 0x1D 2 b none 0
  | .millrace w => mkFault 2 0x29 3 w none 0
  | .mortar w => mkFault 2 0x2A 3 w none 0
  | .stack n => mkFault 2 0x28 5 (16 * n) none 0
  | .bridge => mkFault 2 0x48 6 5 none 0
  | .mgmtProcessor n => mkFault 2 0x49 6 n none 0
  | .alwaysOn => mkFault 2 0x4A 6 2 none 0
  | .plumb => mkFault 2 0x4B 6 3 none 0
  | .keyStore => mkFault 2 0x4C 6 4 none 0
  | .switch w => mkFault 2 0x35 3 w none 0

/-- UNIT_FAILURE: a failed mesh stop or course DMA fences its course, a failed cistern manager its bay and router; any other
unit is reported in its class. -/
def execUnitFailure (u : FailedUnit) (s : State) : Res :=
  if unitExists u = false then .fault .noSuchUnit
  else run s fun s =>
    let s := match u with
      | .mgmtProcessor n => { s with mpFailed := if s.mpFailed.contains n then s.mpFailed else s.mpFailed ++ [n] }
      | _ => s
    let s := raise s [unitFault u]
    match u with
    | .meshStop c | .courseDma c => fenceMany s ((List.range 64).map (· + 64 * c))
    | .cisternManager b => fenceMany (fenceRouter s b) ((List.range 256).map (· + 256 * b))
    | _ => s

end Sys2Proof.Machine
end

