-- ==== Sys2Proof/Machine/CollPost.lean ====
section
/-! DEFINITION. The POST instructions of the COLLECTIVE class (12 R380 to R386), which read SRAM under 05 R169. -/

namespace Sys2Proof.Machine

/-- COLLECTIVE POST (12 R380 to R386). The row names the COP of the descriptor: with another allowed COP there the command
describes no instruction of the stone. -/
def post (want st : Nat) (h : IHdr) (o : Operands) (s : State) : State :=
  let off := (reg s st (fld 111 108 o)).toNat
  let d := parseColl (sramNat s st off 32)
  let handle := fld 107 100 o
  let eager := flag 99 o
  let soc := flag 98 o
  let ctx := (stoneOf s st).owner.getD 0
  let n := (groupList s ctx d.group).length
  let rank := groupE s ctx d.group 7
  let srcs := (off, 32) :: (if soc ∨ contributes d rank = false then [] else rangeIn st d.srcSpace d.src d.tps (tileBytes d) (collBytes d)) ++
    (if d.cop = 6 then [(d.dst % 2 ^ 18, 8 * d.root)] else [])
  let dsts := (d.record, 16) :: (if d.cop = 6 then [] else rangeIn st d.dstSpace d.dst d.tps (tileBytes d) (resultBytes d n rank))
  if d.cop ≤ 6 ∧ d.cop ≠ want then s
  else issue s st (headerOk h false && onlyFields [(111, 98)] o && !(soc && decide (handle = 0))) srcs dsts fun s =>
    if off % 32 ≠ 0 ∨ inSram off 32 = false ∨ postOk s st ctx handle d = false then failStone s st 0x05
    else if mortarOpen s (wytheOf st) ≥ 64 then stallOn s st .collectives
    else readRanges s st srcs [] fun s =>
      let pc := (stoneOf s st).pc
      if d.cop = 6 then
        let number := s.mcastNext
        let need := roundTiles d (collBytes d)
        let fits := decide (need ≤ retentionFree s)
        let m : Mcast := { ctx := ctx, number := number, desc := d, stone := st, pc := pc, signal := sigOf h, retention := need,
                           granted := fits, legs := readLegs s st d, handle := handle, socFeed := soc, tiles := [], acks := [], resends := [] }
        let s := takeSlot s st 7 srcs dsts h
        let s := { s with mcasts := s.mcasts ++ [m], mcastNext := (number + 1) % 2 ^ 32 }
        if fits then startMcast s ctx number soc else s
      else if (s.colls.filter (fun c => c.key.ctx == ctx && c.key.group == d.group && c.desc.cop != 7)).length ≥ 8 then
        stallOn s st .collectives
      else
        let seq := getC s ctx (0x7100 + d.group) 9
        let s := setC (takeSlot s st 7 srcs dsts h) ctx (0x7100 + d.group) 9 ((seq + 1) % 2 ^ 32)
        openColl s (mkColl s ctx st d seq seq pc handle (sigOf h) eager soc)

def execCollBarrier (st : Nat) (h : IHdr) (o : Operands) (s : State) : Res := run s (post 0 st h o)
def execCollBroadcast (st : Nat) (h : IHdr) (o : Operands) (s : State) : Res := run s (post 1 st h o)
def execCollReduce (st : Nat) (h : IHdr) (o : Operands) (s : State) : Res := run s (post 2 st h o)
def execCollAllReduce (st : Nat) (h : IHdr) (o : Operands) (s : State) : Res := run s (post 3 st h o)
def execCollReduceScatter (st : Nat) (h : IHdr) (o : Operands) (s : State) : Res := run s (post 4 st h o)
def execCollAllGather (st : Nat) (h : IHdr) (o : Operands) (s : State) : Res := run s (post 5 st h o)
def execCollMulticast (st : Nat) (h : IHdr) (o : Operands) (s : State) : Res := run s (post 6 st h o)

end Sys2Proof.Machine
end

