-- ==== Sys2Proof/Machine/Engine.lean ====
section
/-! DEFINITION. The bit-serial matrix engines (06) and the sparse engine (07 R229 to R235): operands, the arithmetic of a
product, tile completion with its checks, and injection. -/

namespace Sys2Proof.Machine

/-! ### Formats and operand fields -/

/-- Bits per weight by WFMT (06 R202). -/
def wBits (wfmt : Nat) : Nat := nth 0 [1, 2, 2, 3, 4, 6, 8, 8, 8, 16] wfmt

/-- The value of a weight code (06 R199, R202). -/
def wVal (wfmt code : Nat) : Int :=
  if wfmt = 0 then (if code % 2 = 1 then 1 else -1)
  else if wfmt = 2 then (if code % 2 = 0 then 0 else if code / 2 % 2 = 1 then -1 else 1)
  else signed (wBits wfmt) code

/-- M and N of a shape (06 R217). -/
def shapeMN (shape : Nat) : Nat × Nat :=
  nth (0, 0) [(64, 8), (32, 16), (16, 32), (8, 64), (64, 4), (64, 2), (64, 1), (128, 4), (256, 2), (512, 1), (48, 8), (32, 8),
    (16, 8), (16, 16)] shape

def pKb (o : Operands) : Nat := fld 95 87 o + 1
def pShape (o : Operands) : Nat := fld 86 83 o
def pWfmt (o : Operands) : Nat := fld 82 79 o
def pAfmt (o : Operands) : Nat := fld 78 76 o
def pBf16 (o : Operands) : Bool := flag 75 o
def pAcc (o : Operands) : Bool := flag 74 o
def pCplx (o : Operands) : Nat := fld 73 72 o
def pHandle (o : Operands) : Nat := fld 71 64 o
def pTile (o : Operands) : Nat := fld 63 52 o

/-- Rows and tokens of the logical tile; split activations double the tokens (06 R218). -/
def pM (o : Operands) : Nat := (shapeMN (pShape o)).1
def pN (o : Operands) : Nat := (shapeMN (pShape o)).2 * (if pAfmt o = 1 then 2 else 1)

/-- 2 for a complex product, else 1. -/
def pParts (o : Operands) : Nat := if pCplx o = 0 then 1 else 2

/-- The combinations of 06 R206, and of 07 R229 on the sparse engine. -/
def comboOk (sparse : Bool) (o : Operands) : Bool :=
  let w := pWfmt o
  let a := pAfmt o
  let c := pCplx o
  decide (pShape o ≤ 13) && (!pAcc o || !pBf16 o) &&
    (if w = 9 then decide (a = 4) && decide (c ≤ 1)
     else if w = 0 ∨ w = 2 then decide (a ≤ 3) && decide (c = 0)
     else decide (w ≤ 8) && decide (a ≤ 3) && decide (c ≤ 2) && (decide (a ≠ 1) || decide (c = 0))) &&
    (!sparse || (decide (w ≠ 0) && decide (c = 0)))

/-- Bytes of one weight block (06 R203, 07 R230). -/
def wBlockBytes (sparse : Bool) (wfmt : Nat) : Nat := if sparse then 128 * wBits wfmt + 320 else 256 * wBits wfmt + 64

/-- Bytes of one part of the weight operand. -/
def wPartBytes (sparse : Bool) (o : Operands) : Nat := max 1 (pM o / 64) * pKb o * wBlockBytes sparse (pWfmt o)

/-- Bytes of one activation row, from its start (06 R204). -/
def rowBytes (afmt kb scale : Nat) : Nat :=
  match afmt with
  | 0 => max (32 * kb) (scale + kb)
  | 1 => max (16 * kb) (scale + kb)
  | 4 => 64 * kb
  | _ => 32 * kb

/-- The address registers of a product: W, A, O and S. -/
def pRegs (s : State) (st : Nat) (o : Operands) : List (BitVec 32) :=
  [reg s st (fld 111 108 o), reg s st (fld 107 104 o), reg s st (fld 103 100 o), reg s st (fld 99 96 o)]

def rW (r : List (BitVec 32)) : Nat := (nth 0 r 0).toNat
def rA (r : List (BitVec 32)) : Nat := (nth 0 r 1).toNat
def rO (r : List (BitVec 32)) : Nat := (nth 0 r 2).toNat
def rStride (r : List (BitVec 32)) : Nat := bits 31 16 (nth 0 r 3).toNat
def rScale (r : List (BitVec 32)) : Nat := bits 15 0 (nth 0 r 3).toNat

def wRange (sparse : Bool) (o : Operands) (r : List (BitVec 32)) : Nat × Nat := (rW r, pParts o * wPartBytes sparse o)

def aRange (o : Operands) (r : List (BitVec 32)) : Nat × Nat :=
  (rA r, (pParts o * pN o - 1) * rStride r + rowBytes (pAfmt o) (pKb o) (rScale r))

def oRange (o : Operands) (r : List (BitVec 32)) : Nat × Nat :=
  (rO r, pParts o * pM o * pN o * (if pBf16 o then 2 else 4))

/-- The check of a product's operands before issue (06 R208). -/
def prodOk (sparse : Bool) (o : Operands) (r : List (BitVec 32)) : Bool :=
  let fit (x : Nat × Nat) := inSram x.1 x.2
  fit (wRange sparse o r) && fit (aRange o r) && fit (oRange o r) && decide (rW r % 8 = 0) && decide (rA r % 8 = 0) &&
    decide (rO r % 64 = 0) && decide (rStride r % 8 = 0) && decide (rScale r % 8 = 0)

/-! ### Operand values -/

/-- A block of 32 values along K: its integers and its exponent. -/
abbrev BlockV := List Int × Nat

/-- Bit `i` of the plane word at word `w` of a block. -/
def planeBit (blk : List Byte) (w i : Nat) : Nat := b2n (bit (i % 8) (nth 0 blk (8 * w + i / 8)).toNat)

/-- A code of `b` bits of row `i`, its planes from word `w` on, least significant bit first. -/
def planeCode (blk : List Byte) (w b i : Nat) : Nat := ((List.range b).map (fun j => planeBit blk (w + j) i * 2 ^ j)).sum

/-- Row `i` of a dense block (06 R203). -/
def denseRow (wfmt : Nat) (blk : List Byte) (i : Nat) : BlockV :=
  let b := wBits wfmt
  ((List.range 32).map (fun k => wVal wfmt (planeCode blk (k * b) b i)), (nth 0 blk (256 * b + i)).toNat)

/-- The index of slot `t` of row `i` of a sparse block (07 R230). -/
def slotIdx (wfmt : Nat) (blk : List Byte) (t i : Nat) : Nat :=
  let w := 16 * wBits wfmt + 2 * t
  planeBit blk w i + 2 * planeBit blk (w + 1) i

/-- The value of slot `t` of row `i`. -/
def slotVal (wfmt : Nat) (blk : List Byte) (t i : Nat) : Int :=
  wVal wfmt (planeCode blk (t * wBits wfmt) (wBits wfmt) i)

/-- Row `i` of a sparse block, expanded (07 R234). -/
def sparseRow (wfmt : Nat) (blk : List Byte) (i : Nat) : BlockV :=
  ((List.range 32).map (fun k =>
    let t := 2 * (k / 4)
    if slotIdx wfmt blk t i = k % 4 then slotVal wfmt blk t i
    else if slotIdx wfmt blk (t + 1) i = k % 4 then slotVal wfmt blk (t + 1) i
    else 0), (nth 0 blk (128 * wBits wfmt + 256 + i)).toNat)

/-- The order check of 07 R231 over row `i` of a block. -/
def orderOk (wfmt : Nat) (blk : List Byte) (i : Nat) : Bool :=
  (List.range 8).all (fun j => decide (slotIdx wfmt blk (2 * j) i < slotIdx wfmt blk (2 * j + 1) i))

/-- The bytes of weight block (group, block) of a part of the operand. -/
def wBlock (s : State) (st base kb bytes g k : Nat) : List Byte := sramRead s st (base + (g * kb + k) * bytes) bytes

/-- The weight rows of one part: for each row its blocks in ascending K. -/
def wRows (s : State) (st : Nat) (sparse : Bool) (o : Operands) (base : Nat) : List (List BlockV) :=
  let n := wBlockBytes sparse (pWfmt o)
  let blocks := (List.range (max 1 (pM o / 64))).map (fun g => (List.range (pKb o)).map (fun k => wBlock s st base (pKb o) n g k))
  (List.range (pM o)).map (fun i => (nth [] blocks (i / 64)).map (fun b =>
    if sparse then sparseRow (pWfmt o) b (i % 64) else denseRow (pWfmt o) b (i % 64)))

/-- Every row of a sparse tile keeps the order of its slots. -/
def sparseOk (s : State) (st : Nat) (o : Operands) (r : List (BitVec 32)) : Bool :=
  let n := wBlockBytes true (pWfmt o)
  (List.range (max 1 (pM o / 64))).all (fun g => (List.range (pKb o)).all (fun k =>
    let b := wBlock s st (rW r) (pKb o) n g k
    (List.range (min 64 (pM o))).all (fun i => orderOk (pWfmt o) b i)))

/-- The value of an FP8 or BF16 activation row's block (06 R205), with its NaN and infinite values. -/
def actBlock (s : State) (st afmt row scale k : Nat) : BlockV × Nat :=
  match afmt with
  | 0 => (((sramRead s st (row + 32 * k) 32).map (fun b => signed 8 b.toNat), (sramByte s st (row + scale + k)).toNat), 0)
  | 1 => (((sramRead s st (row + 16 * k) 16).flatMap (fun b => [signed 4 (b.toNat % 16), signed 4 (b.toNat / 16)]),
          (sramByte s st (row + scale + k)).toNat), 0)
  | 2 =>
    let a := alignBlock 6 (-6) ((sramRead s st (row + 32 * k) 32).map (fun b => e4m3 b.toNat))
    ((a.1, a.2.1), a.2.2)
  | 3 =>
    let a := alignBlock 6 (-14) ((sramRead s st (row + 32 * k) 32).map (fun b => e5m2 b.toNat))
    ((a.1, a.2.1), a.2.2)
  | _ =>
    let a := alignBlock 14 (-126) ((chunksOf 2 32 (sramRead s st (row + 64 * k) 64)).map
      (fun w => finVal (bf16ToF (BitVec.ofNat 16 (fromLE w)))))
    ((a.1, a.2.1), a.2.2)

/-- The activation rows of one part, and the NaN and infinite values taken as +0. -/
def aRows (s : State) (st : Nat) (o : Operands) (r : List (BitVec 32)) (part : Nat) : List (List BlockV) × Nat :=
  let rows := (List.range (pN o)).map (fun t => (List.range (pKb o)).map (fun k =>
    actBlock s st (pAfmt o) (rA r + (part * pN o + t) * rStride r) (rScale r) k))
  (rows.map (fun l => l.map (·.1)), (rows.map (fun l => (l.map (·.2)).sum)).sum)

/-! ### Arithmetic (06 R210, R219, R220) -/

def dot (a b : List Int) : Int := (List.zipWith (· * ·) a b).sum

/-- The value of a block's exact sum q; a zero block gives 0. -/
def termOf (w x : BlockV) (q : Int) : Dy := if w.2 = 0xFF ∨ x.2 = 0xFF then (0, 0) else (q, (w.2 : Int) + x.2 - 254)

/-- The exact value of a block's product. -/
def blockTerm (w x : BlockV) : Dy := termOf w x (dot w.1 x.1)

/-- A zero block counts as integers 0 under the exponent of its partner (06 R201). -/
def zeroAs (p q : BlockV) : BlockV := if p.2 = 0xFF then (p.1.map (fun _ => 0), q.2) else p

/-- Half of an integer, rounded to nearest, ties to even, stored as int8 (06 R219); a half that does not fit is open. -/
def halfInt8 (n : Int) : Int :=
  let h := rneInt (n, -1)
  if -128 ≤ h ∧ h ≤ 127 then h else (Config.gaussHalf n).toInt

/-- One pass of a product over a block: its weights by row and its activations by token (06 R199, R219, R220). -/
abbrev Pass := List (List Int) × List (List Int)

/-- The operands of one block: the weight rows a and b, and the activations c and d; b and d repeat a and c in a real product. -/
structure BlockOps where
  a : List BlockV
  b : List BlockV
  c : List BlockV
  d : List BlockV

/-- The two byte passes of a BF16 activation q = 256 × hi + lo (06 R220). -/
def bytePasses (p : Pass) : List Pass :=
  [(p.1, p.2.map (fun x => x.map (fun q => q / 256))), (p.1, p.2.map (fun x => x.map (fun q => q % 256)))]

/-- The operands of a Gauss-form block, where a zero block takes its partner's exponent. -/
def gaussOps (o : BlockOps) : BlockOps :=
  let a := List.zipWith zeroAs o.a o.b
  let c := List.zipWith zeroAs o.c o.d
  { a := a, b := List.zipWith zeroAs o.b a, c := c, d := List.zipWith zeroAs o.d c }

/-- The passes of a block (06 R210, R219): a·c; a·c, b·d, a·d, b·c; or (a + b)·c, a·(d − c)′, b·(c + d)′. -/
def passesOf (cplx : Nat) (bf16 : Bool) (o : BlockOps) : List Pass :=
  let vals (l : List BlockV) : List (List Int) := l.map (·.1)
  let base : List Pass := match cplx with
    | 0 => [(vals o.a, vals o.c)]
    | 1 => [(vals o.a, vals o.c), (vals o.b, vals o.d), (vals o.a, vals o.d), (vals o.b, vals o.c)]
    | _ =>
      let g := gaussOps o
      [(List.zipWith (fun a b => List.zipWith (· + ·) a.1 b.1) g.a g.b, vals g.c),
       (vals g.a, List.zipWith (fun c d => List.zipWith (fun x y => halfInt8 (y - x)) c.1 d.1) g.c g.d),
       (vals g.b, List.zipWith (fun c d => List.zipWith (fun x y => halfInt8 (x + y)) c.1 d.1) g.c g.d)]
  if bf16 then base.flatMap bytePasses else base

/-- The value of the sum of a pass, or of the high and the low one of a BF16 product. -/
def joinPasses (bf16 : Bool) (l : List Int) : List Int :=
  if bf16 then (List.range (l.length / 2)).map (fun i => 256 * nth 0 l (2 * i) + nth 0 l (2 * i + 1)) else l

/-- The Gauss form of one block from its three sums: its real and imaginary parts as FP32 with their clamps. Blocks whose exponents
differ between the real and the imaginary part have an open value (06 R219 states the passes on integers alone; log entry 46). -/
def gaussValue (a b c d : BlockV) (k1 k2 k3 : Int) : FR × FR :=
  if a.2 = 0xFF ∨ c.2 = 0xFF then ((0, 0), (0, 0))
  else if a.2 = b.2 ∧ c.2 = d.2 then
    let e := (a.2 : Int) + c.2 - 254
    (roundF (k1 - 2 * k3, e), roundF (k1 + 2 * k2, e))
  else
    let fin (v : BitVec 32) : BitVec 32 := if isSpecial v then v &&& 0x807FFFFF else v
    ((fin (Config.gaussMixed a.2 b.2 c.2 d.2 k1 0 k3), 0), (fin (Config.gaussMixed a.2 b.2 c.2 d.2 k1 k2 0), 0))

/-- v of 06 R210 for one block of an output value, from the sums of its passes: the real and the imaginary part. -/
def blockValue (cplx : Nat) (a b c d : BlockV) (q : List Int) : FR × FR :=
  match cplx with
  | 0 => (roundF (termOf a c (nth 0 q 0)), (0, 0))
  | 1 => (roundF (dyAdd (termOf a c (nth 0 q 0)) (dyNeg (termOf b d (nth 0 q 1)))),
      roundF (dyAdd (termOf a d (nth 0 q 2)) (termOf b c (nth 0 q 3))))
  | _ => gaussValue a b c d (nth 0 q 0) (nth 0 q 1) (nth 0 q 2)

/-! ### The array and its checks (06 R198, R221, R222) -/

/-- Bits flipped in a 32-bit register. -/
def flips (bs : List Nat) (q : Int) : Int :=
  if bs.isEmpty then q else (bs.foldl (fun (v : BitVec 32) b => v ^^^ BitVec.ofNat 32 (2 ^ b)) (BitVec.ofInt 32 q)).toInt

def cellBits (us : List Upset) (k p i t : Nat) : List Nat :=
  us.filterMap (fun u => match u with
    | .cell k' p' i' t' b => if k' = k ∧ p' = p ∧ i' = i ∧ t' = t then some b else none
    | _ => none)

def rowBits (us : List Upset) (k p h t : Nat) : List Nat :=
  us.filterMap (fun u => match u with
    | .checkRow k' p' h' t' b => if k' = k ∧ p' = p ∧ h' = h ∧ t' = t then some b else none
    | _ => none)

def colBits (us : List Upset) (k p i g : Nat) : List Nat :=
  us.filterMap (fun u => match u with
    | .checkCol k' p' i' g' b => if k' = k ∧ p' = p ∧ i' = i ∧ g' = g then some b else none
    | _ => none)

/-- What a flip leaves of the second result of a converter pair. -/
def convBits (us : List Upset) (k part i t : Nat) (v : BitVec 32) : BitVec 32 :=
  us.foldl (fun v u => match u with
    | .converter k' p' i' t' b => if k' = k ∧ p' = part ∧ i' = i ∧ t' = t then v ^^^ BitVec.ofNat 32 (2 ^ b) else v
    | _ => v) v

/-- The block sums of the data cells, by weight row and token (06 R199); two tokens share a cell in split-activation mode, each with
an accumulator of its own (06 R218). -/
def dataSums (us : List Upset) (k p : Nat) (x : Pass) : List (List Int) :=
  (List.range x.1.length).map (fun i => (List.range x.2.length).map (fun t =>
    flips (cellBits us k p i t) (dot (nth [] x.1 i) (nth [] x.2 t))))

/-- The sum of 32-value vectors, element by element. -/
def vecSum (l : List (List Int)) : List Int := l.foldl (List.zipWith (· + ·)) (List.replicate 32 0)

/-- Tokens that one fold group or weight half holds beside one another (06 R217, R218). -/
def groupTokens (shape n : Nat) (split : Bool) : Nat :=
  if shape = 1 ∨ shape = 2 ∨ shape = 3 ∨ shape = 13 then (if split then 16 else 8) else max 1 n

/-- Segments of the checksum row: the weight halves of 64 rows; and of the checksum column: the groups of `w` tokens. -/
def rowSegs (m : Nat) : List (List Nat) := (List.range (max 1 (m / 64))).map (fun h => (List.range (min 64 m)).map (· + 64 * h))
def colSegs (n w : Nat) : List (List Nat) := (List.range (max 1 (n / w))).map (fun g => (List.range w).map (· + w * g))

/-- The checksum row (06 R221), formed by adders of its own from the same weights and activations: by segment and token. -/
def checkRowOf (us : List Upset) (k p : Nat) (x : Pass) : List (List Int) :=
  let segs := rowSegs x.1.length
  (List.range segs.length).map (fun h =>
    let w := vecSum ((nth [] segs h).map (fun i => nth [] x.1 i))
    (List.range x.2.length).map (fun t => flips (rowBits us k p h t) (dot w (nth [] x.2 t))))

/-- The checksum column (06 R221): by weight row and segment of `w` tokens. -/
def checkColOf (us : List Upset) (k p w : Nat) (x : Pass) : List (List Int) :=
  let segs := (colSegs x.2.length w).map (fun g => vecSum (g.map (fun t => nth [] x.2 t)))
  (List.range x.1.length).map (fun i => (List.range segs.length).map (fun g =>
    flips (colBits us k p i g) (dot (nth [] x.1 i) (nth [] segs g))))

/-- The comparisons at the end of a block (06 R222): each column's sum of the data cells with the checksum row, each row's with the
checksum column. -/
def sumsAgree (w : Nat) (sums row col : List (List Int)) : Bool :=
  let n := (nth [] sums 0).length
  let cell (i t : Nat) : Int := nth 0 (nth [] sums i) t
  decide (row = (rowSegs sums.length).map (fun seg => (List.range n).map (fun t => (seg.map (fun i => cell i t)).sum))) &&
    decide (col = (List.range sums.length).map (fun i => (colSegs n w).map (fun seg => (seg.map (cell i)).sum)))

/-- One output value: acc over the blocks in ascending K, with the clamps. -/
def sumBlocks (acc : BitVec 32) (vs : List FR) : FR :=
  vs.foldl (fun (x : FR) v => let r := fadd x.1 v.1; (r.1, x.2 + v.2 + r.2)) (acc, 0)

/-- The output in its format, with the clamps of its last rounding. -/
def outBytes (bf16 : Bool) (x : FR) : List Byte × Nat :=
  if bf16 then
    let r := roundBf16 x.1
    (toLE 2 r.1.toNat, x.2 + r.2)
  else (toLE 4 x.1.toNat, x.2)

/-- The operands of a product, block after block along K, and the NaN and infinite activations taken as +0. -/
def blocksOf (s : State) (st : Nat) (sparse : Bool) (o : Operands) (r : List (BitVec 32)) : List BlockOps × Nat :=
  let wa := wRows s st sparse o (rW r)
  let wb := if pCplx o = 0 then wa else wRows s st sparse o (rW r + wPartBytes sparse o)
  let xc := aRows s st o r 0
  let xd := if pCplx o = 0 then (xc.1, 0) else aRows s st o r 1
  let col (l : List (List BlockV)) (k : Nat) : List BlockV := l.map (fun b => nth ([], 0xFF) b k)
  ((List.range (pKb o)).map (fun k => { a := col wa k, b := col wb k, c := col xc.1 k, d := col xd.1 k }), xc.2 + xd.2)

/-- What the array forms of one block under upsets: the sums of its passes and their checksums. -/
structure BlockRun where
  ops : BlockOps
  sums : List (List (List Int))
  checkRow : List (List (List Int))
  checkCol : List (List (List Int))

def runBlock (us : List Upset) (o : Operands) (k : Nat) (b : BlockOps) : BlockRun :=
  let ps := passesOf (pCplx o) (decide (pAfmt o = 4)) b
  let w := groupTokens (pShape o) (pN o) (decide (pAfmt o = 1))
  { ops := if pCplx o = 2 then gaussOps b else b
    sums := (List.range ps.length).map (fun p => dataSums us k p (nth ([], []) ps p))
    checkRow := (List.range ps.length).map (fun p => checkRowOf us k p (nth ([], []) ps p))
    checkCol := (List.range ps.length).map (fun p => checkColOf us k p w (nth ([], []) ps p)) }

/-- v of one block of an output value. -/
def runValue (o : Operands) (b : BlockRun) (im : Bool) (t i : Nat) : FR :=
  let q := joinPasses (decide (pAfmt o = 4)) (b.sums.map (fun m => nth 0 (nth [] m i) t))
  let v := blockValue (pCplx o) (nth ([], 0xFF) b.ops.a i) (nth ([], 0xFF) b.ops.b i) (nth ([], 0xFF) b.ops.c t)
    (nth ([], 0xFF) b.ops.d t) q
  if im then v.2 else v.1

/-- The output values of a product in their order: real ones, then imaginary ones, by token and row (06 R209). -/
def outputs (o : Operands) : List (Bool × Nat × Nat) :=
  (if pCplx o = 0 then [false] else [false, true]).flatMap (fun im =>
    (List.range (pN o)).flatMap (fun t => (List.range (pM o)).map (fun i => (im, t, i))))

/-- Every comparison of a tile agrees (06 R222): the sums of every pass of every block, and the converter pairs. -/
def tileAgrees (us : List Upset) (o : Operands) (bs : List BlockRun) : Bool :=
  let w := groupTokens (pShape o) (pN o) (decide (pAfmt o = 1))
  bs.all (fun b => (List.range b.sums.length).all (fun p => sumsAgree w (nth [] b.sums p) (nth [] b.checkRow p) (nth [] b.checkCol p))) &&
    (List.range bs.length).all (fun k => (outputs o).all (fun c => convBits us k (b2n c.1) c.2.2 c.2.1 0 == 0))

/-- The result of a product (06 R209, R210): the tile accumulators with the clamps, in the order of the outputs. -/
def tileValues (s : State) (st : Nat) (o : Operands) (r : List (BitVec 32)) (bs : List BlockRun) : List FR :=
  (outputs o).map (fun c =>
    let at_ := rO r + 4 * ((if c.1 then pM o * pN o else 0) + c.2.1 * pM o + c.2.2)
    sumBlocks (if pAcc o then BitVec.ofNat 32 (sramNat s st at_ 4) else 0) (bs.map (fun b => runValue o b c.1 c.2.1 c.2.2)))

/-- A tile in the array: its blocks, and its NaN and infinite activations. -/
def runTile (s : State) (st : Nat) (sparse : Bool) (us : List Upset) (o : Operands) (r : List (BitVec 32)) : List BlockRun × Nat :=
  let x := blocksOf s st sparse o r
  ((List.range x.1.length).map (fun k => runBlock us o k (nth { a := [], b := [], c := [], d := [] } x.1 k)), x.2)

/-- The result of a product: its output bytes, its clamps, and its NaN and infinite operands (06 R209, R210). -/
def product (s : State) (st : Nat) (sparse : Bool) (us : List Upset) (o : Operands) (r : List (BitVec 32)) : List Byte × Nat × Nat :=
  let x := runTile s st sparse us o r
  let outs := (tileValues s st o r x.1).map (outBytes (pBf16 o))
  (outs.flatMap (·.1), (outs.map (·.2)).sum, x.2)

/-- What the array holds behind the last block of a tile. -/
def arrayAfter (s : State) (st : Nat) (us : List Upset) (o : Operands) (r : List (BitVec 32)) (bs : List BlockRun) (old : ArrayRegs) : ArrayRegs :=
  match bs.getLast? with
  | none => old
  | some b =>
    { sums := b.sums, checkRow := b.checkRow.flatten, checkCol := b.checkCol.flatten,
      convs := (outputs o).map (fun c =>
        let v := (runValue o b c.1 c.2.1 c.2.2).1
        (v, convBits us (bs.length - 1) (b2n c.1) c.2.2 c.2.1 v)),
      accs := (tileValues s st o r bs).map (·.1) :: old.accs.take 1 }

/-! ### The instructions -/

/-- A product is issued to its engine (06 R206 to R208, R226, 07 R229, R231). -/
def issueProduct (sparse : Bool) (st : Nat) (h : IHdr) (o : Operands) (rd : SramRead) (s : State) : State :=
  let r := pRegs s st o
  let dst := oRange o r
  let srcs := [wRange sparse o r, aRange o r] ++ (if pAcc o then [dst] else [])
  issue s st (headerOk h true && onlyFields [(111, 52)] o && comboOk sparse o && (h.soc || decide (pHandle o = 0))) srcs [dst]
    fun s =>
      if prodOk sparse o r = false then failStone s st 0x05
      else readSram s st rd srcs [dst] fun s =>
        if sparse ∧ sparseOk s st o r = false then failStone (count s 0xA054 1) st 0x0C
        else
          let t : Tile := { pc := (stoneOf s st).pc, o := o, regs := r, recomputed := false, again := false, signal := sigOf h, soc := h.soc }
          let s := takeSlot s st 1 srcs [dst] h
          modStone s st (fun x => if sparse then { x with sparse := x.sparse ++ [t] } else { x with dense := x.dense ++ [t] })

def execDenseProduct (st : Nat) (h : IHdr) (o : Operands) (r : SramRead) (s : State) : Res := run s (issueProduct false st h o r)

def execSparseProduct (st : Nat) (h : IHdr) (o : Operands) (r : SramRead) (s : State) : Res := run s (issueProduct true st h o r)

def tilesOf (x : Stone) (sparse : Bool) : List Tile := if sparse then x.sparse else x.dense

def setTiles (s : State) (st : Nat) (sparse : Bool) (l : List Tile) : State :=
  modStone s st (fun x => if sparse then { x with sparse := l } else { x with dense := l })

/-- Two tiles can stand in the array together (06 R214). -/
def sameArray (a b : Tile) : Bool :=
  pShape a.o == pShape b.o && pWfmt a.o == pWfmt b.o && pAfmt a.o == pAfmt b.o && pCplx a.o == pCplx b.o

/-- A tile that disagrees first is computed again: after a tile already in the array, ahead of every other (06 R223). -/
def requeue (t : Tile) (l : List Tile) : List Tile :=
  let t' := { t with recomputed := true }
  match l with
  | [] => [t']
  | u :: rest => if sameArray t u then u :: t' :: rest else t' :: u :: rest

/-- The injection of 06 R228 at an engine, and what is left of it behind a tile that it has struck. -/
def injOf (x : Stone) (sparse : Bool) : Nat := if sparse then x.injSparse else x.injDense

def injUsed (s : State) (st : Nat) (sparse : Bool) : State :=
  modStone s st (fun x =>
    if injOf x sparse = 1 then (if sparse then { x with injSparse := 0 } else { x with injDense := 0 }) else x)

/-- The upsets of a tile: those that the command brings, and the injected flip of bit 0 of a data cell's block sum; the cell is that of
row 0 and token 0 in the first block (DESIGN CHOICE, log entry 137). -/
def tileUpsets (x : Stone) (sparse : Bool) (us : List Upset) : List Upset :=
  if injOf x sparse = 0 then us else .cell 0 0 0 0 0 :: us

/-- NaN and infinite values are counted, and each raises a class C fault (06 R205). -/
def noteFpSpecials (s : State) (st pc n : Nat) : State :=
  if n = 0 then s else stoneFaults (countBy s 0xA050 8 n) 0 0x07 st (16 * pc) n

def arrayOf (s : State) (st : Nat) (sparse : Bool) : ArrayRegs := tget ArrayRegs.initial s.arrays (2 * st + b2n sparse)

def setArray (s : State) (st : Nat) (sparse : Bool) (x : ArrayRegs) : State :=
  { s with arrays := tput ArrayRegs.initial s.arrays (2 * st + b2n sparse) x }

/-- A tile passes its checks: its output is written, its signal applied and its notice posted (06 R209, R213, 05 R192). -/
def finishTile (s : State) (st : Nat) (sparse : Bool) (us : List Upset) (t : Tile) : State :=
  let p := product s st sparse us t.o t.regs
  let s := sramWrite s st (rO t.regs) p.1
  let s := noteFpSpecials (countBy s 0xA050 7 p.2.1) st t.pc p.2.2
  let s := count s 0xA050 (if sparse then 2 else 1)
  let s := completeSlot s st t.pc 1 t.signal
  if t.soc then emit s (.notice st (pHandle t.o) (pTile t.o)) else s

/-- The operand ranges of a tile in flight. -/
def tileSrcs (sparse : Bool) (t : Tile) : List (Nat × Nat) :=
  [wRange sparse t.o t.regs, aRange t.o t.regs] ++ (if pAcc t.o then [oRange t.o t.regs] else [])

/-- CHECK_DISAGREE for a tile (06 R223): DETAIL holds the instruction's address, and above it, in bit 18, the engine (DESIGN CHOICE, log
entry 136). -/
def disagreeFault (s : State) (st : Nat) (sparse : Bool) (t : Tile) : State :=
  stoneFault (count s 0xA050 5) 0 0x06 st (2 ^ 18 * b2n sparse + 16 * t.pc)

/-- The end of an engine's oldest tile under upsets (06 R222, R223): it completes where its comparisons agree; the first disagreement
has it computed again, the second fences the stone. -/
def endTile (st : Nat) (sparse : Bool) (us : List Upset) (busy : Nat) (t : Tile) (rest : List Tile) (s : State) : State :=
  let x := runTile s st sparse us t.o t.regs
  let s := setArray (injUsed (countBy s 0xA050 (if sparse then 4 else 3) busy) st sparse) st sparse
    (arrayAfter s st us t.o t.regs x.1 (arrayOf s st sparse))
  if tileAgrees us t.o x.1 then finishTile (setTiles s st sparse rest) st sparse us t
  else if t.recomputed then fenceStone s st
  else setTiles (count (disagreeFault s st sparse t) 0xA050 6) st sparse (requeue t rest)

/-- TILE_COMPLETE (06 R213, R222, R223, R226): the oldest tile of an engine ends, with the bits that faults have flipped in the array;
`busy` is its time there in core cycles. -/
def execTileComplete (st : Nat) (sparse : Bool) (upsets : List Upset) (busy : Nat) (s : State) : Res := run s fun s =>
  match tilesOf (stoneOf s st) sparse with
  | [] => s
  | t :: rest =>
    if t.again then s
    else readRanges s st (tileSrcs sparse t) [] (endTile st sparse (tileUpsets (stoneOf s st) sparse upsets) busy t rest)

/-- ENGINE_INJECT (06 R228). -/
def actEngineInject (q : Req) (s : State) : Act :=
  let st := q.value % 4096
  let n := if bit 13 q.value then 2 else 1
  if isFenced s st then .refuse 0x0302 s
  else .done (modStone s st (fun x =>
    if bit 12 q.value then { x with injSparse := max x.injSparse n } else { x with injDense := max x.injDense n }))

def execEngineInject (q : Req) (s : State) : Res := run s (serveWrite 0xF050 1 q (actEngineInject q))

end Sys2Proof.Machine
end

