-- ==== Sys2Proof/Machine/Compressor.lean ====
section
/-! DEFINITION. The layer compressor (07 R237 to R250): tile headers, quantisation, the five modes. -/

namespace Sys2Proof.Machine

/-! ### Tile headers (07 R237) -/

def hFormat (h : Nat) : Nat := bits 63 62 h
def hKind (h : Nat) : Nat := bits 61 61 h
def hWfmt (h : Nat) : Nat := bits 60 57 h
def hTpose (h : Nat) : Bool := bit 56 h
def hRows (h : Nat) : Nat := bits 55 46 h + 1
def hKb (h : Nat) : Nat := bits 45 37 h + 1
def hBudget (h : Nat) : Nat := bits 36 31 h
def hPayload (h : Nat) : Nat := bits 30 11 h * 8

def packTile (format kind wfmt : Nat) (tpose : Bool) (rows kb budget payload : Nat) : List Byte :=
  toLE 8 (format * 2 ^ 62 + kind * 2 ^ 61 + wfmt * 2 ^ 57 + b2n tpose * 2 ^ 56 + (rows - 1) % 1024 * 2 ^ 46 + (kb - 1) % 512 * 2 ^ 37 +
    budget % 64 * 2 ^ 31 + payload / 8 % 2 ^ 20 * 2 ^ 11)

/-- Bytes of an A8 row of the DENSE form, and of weight payloads (07 R238). -/
def a8Row (kb : Nat) : Nat := 8 * cdiv (33 * kb) 8
def s24Bytes (wfmt rows kb : Nat) : Nat := rows / 64 * kb * (128 * wBits wfmt + 320)
def denseW (wfmt rows kb : Nat) : Nat := rows / 64 * kb * (256 * wBits wfmt + 64)

/-! ### Operand fields (07 R243) -/

def cMode (o : Operands) : Nat := fld 99 97 o
def cRows (o : Operands) : Nat := fld 96 87 o + 1
def cKb (o : Operands) : Nat := fld 86 78 o + 1
def cWfmt (o : Operands) : Nat := fld 77 74 o
def cBf16 (o : Operands) : Bool := flag 73 o
def cBudget (o : Operands) : Nat := fld 72 67 o

/-- Operand values in range (07 R243, R244). -/
def compOk (o : Operands) : Bool :=
  let m := cMode o
  let w := cWfmt o
  decide (m ≤ 4) && (if m = 1 ∨ m = 2 then (decide (1 ≤ w) && decide (w ≤ 6)) || decide (w = 9) else decide (w = 0)) &&
    (decide (m ≤ 2) || !cBf16 o) && (if m = 0 then decide (cBudget o ≤ 32) else decide (cBudget o = 0)) &&
    (decide (m = 0) || decide (m = 3) || (decide (cRows o % 64 = 0) && decide (cRows o ≤ 512)))

/-- Largest number of bytes of the output (07 R244). -/
def compDst (o : Operands) (hd : Nat) : Nat :=
  match cMode o with
  | 0 => cRows o * a8Row (cKb o) + 8
  | 1 | 2 => denseW (cWfmt o) (cRows o) (cKb o) + 8
  | 3 => cRows o * a8Row (cKb o)
  | _ => cdiv (32 * cKb o) 64 * (cRows o / 32) * (256 * wBits (hWfmt hd) + 64) + 8

/-- Bytes of the source: rows of values, or a tile at its largest (07 R240, R243). -/
def compSrc (o : Operands) (hd : Nat) : Nat :=
  match cMode o with
  | 0 | 1 | 2 => cRows o * 32 * cKb o * (if cBf16 o then 2 else 4)
  | 3 => 8 + cRows o * a8Row (cKb o)
  | _ => 8 + s24Bytes (hWfmt hd) (cRows o) (cKb o)

/-! ### Source values and quantisation (07 R245) -/

/-- Block `k` of source row `r` as FP32. -/
def srcBits (s : State) (st src : Nat) (bf16 : Bool) (kb r k : Nat) : List (BitVec 32) :=
  if bf16 then (chunksOf 2 32 (sramRead s st (src + (r * kb + k) * 64) 64)).map (fun w => bf16ToF (BitVec.ofNat 16 (fromLE w)))
  else (chunksOf 4 32 (sramRead s st (src + (r * kb + k) * 128) 128)).map (fun w => BitVec.ofNat 32 (fromLE w))

/-- Its values, none for a NaN or an infinity. -/
def srcBlock (s : State) (st src : Nat) (bf16 : Bool) (kb r k : Nat) : List (Option Dy) := (srcBits s st src bf16 kb r k).map finVal

/-- lo and hi of a weight target (06 R202). -/
def wLo (wfmt : Nat) : Int := if wfmt = 2 then -1 else if wfmt = 7 ∨ wfmt = 8 then -120 else -(2 ^ (wBits wfmt - 1))
def wHi (wfmt : Nat) : Int := if wfmt = 2 then 1 else if wfmt = 7 ∨ wfmt = 8 then 120 else 2 ^ (wBits wfmt - 1) - 1

/-- A quantised block: its integers, exponent, NaN and infinite values, and saturations. A BF16 target is aligned under
06 R205. -/
structure QBlock where
  q : List Int
  e : Nat
  specials : Nat
  sat : Nat
  deriving DecidableEq, Repr

/-- A block is quantised; what is not kept is 0 before (07 R246). -/
def quantise (wfmt : Nat) (lo hi : Int) (vs : List (Option Dy)) (kept : List Bool) : QBlock :=
  let vs := List.zipWith (fun v k => if k then v else some (0, 0)) vs kept
  if wfmt = 9 then
    let a := alignBlock 14 (-126) vs
    { q := a.1, e := a.2.1, specials := a.2.2, sat := 0 }
  else
    let r := quantBlock lo hi vs kept
    { q := r.1, e := r.2.1, specials := r.2.2.1, sat := r.2.2.2 }

def specialsOf (l : List (List QBlock)) : Nat := (l.map (fun b => (b.map (·.specials)).sum)).sum
def satOf (l : List (List QBlock)) : Nat := (l.map (fun b => (b.map (·.sat)).sum)).sum

/-- The counts of a compression and the class C fault of its NaN and infinite values. -/
def noteQuant (s : State) (st : Nat) (l : List (List QBlock)) : State :=
  noteFpSpecials (countBy s 0xA054 8 (satOf l)) st (stoneOf s st).pc (specialsOf l)

/-! ### S24 tiles -/

/-- The code of a quantised weight (06 R202). -/
def wCode (wfmt : Nat) (q : Int) : Nat :=
  if wfmt = 2 then (if q = 0 then 0 else if q < 0 then 3 else 1) else twos (wBits wfmt) q

/-- The two positions that slots 2j and 2j + 1 of group `j` name, lower first. -/
def keptPair (kept : List Bool) (j : Nat) : Nat × Nat :=
  match (List.range 4).filter (fun p => nth false kept (4 * j + p)) with
  | a :: b :: _ => (a, b)
  | [a] => (a, a)
  | [] => (0, 0)

/-- A 64-bit plane word over the rows of a group. -/
def planeWord (f : Nat → Nat) : List Byte := toLE 8 ((List.range 64).map (fun i => f i % 2 * 2 ^ i)).sum

/-- One sparse block of 64 rows from their quantised blocks and kept positions (07 R230). -/
def s24Block (wfmt : Nat) (rows : List (QBlock × List Bool)) : List Byte :=
  let row (i : Nat) : QBlock × List Bool := nth ({ q := [], e := 0xFF, specials := 0, sat := 0 }, []) rows i
  let pos (i t : Nat) : Nat := let p := keptPair (row i).2 (t / 2); if t % 2 = 0 then p.1 else p.2
  let code (i t : Nat) : Nat := wCode wfmt (nth 0 (row i).1.q (4 * (t / 2) + pos i t))
  ((List.range 16).flatMap (fun t => (List.range (wBits wfmt)).flatMap (fun b => planeWord (fun i => code i t / 2 ^ b)))) ++
    ((List.range 16).flatMap (fun t => planeWord (fun i => pos i t) ++ planeWord (fun i => pos i t / 2))) ++
    ((List.range 64).flatMap (fun i => toLE 1 (row i).1.e))

/-- An S24 payload from the quantised rows and their kept positions, row by row and block by block. -/
def s24Payload (wfmt rows kb : Nat) (qs : List (List (QBlock × List Bool))) : List Byte :=
  (List.range (rows / 64)).flatMap (fun g => (List.range kb).flatMap (fun k =>
    s24Block wfmt ((List.range 64).map (fun i =>
      nth ({ q := [], e := 0xFF, specials := 0, sat := 0 }, []) (nth [] qs (64 * g + i)) k))))

/-- Sparse block (group, block) of a tile whose payload starts at `base`. -/
def tileBlock (s : State) (st base wfmt kb g k : Nat) : List Byte := wBlock s st base kb (wBlockBytes true wfmt) g k

/-- The positions of a block that a row's slots name (07 R241). -/
def named (wfmt : Nat) (blk : List Byte) (i : Nat) : List Bool :=
  (List.range 32).map (fun k =>
    slotIdx wfmt blk (2 * (k / 4)) i == k % 4 || slotIdx wfmt blk (2 * (k / 4) + 1) i == k % 4)

/-- The two positions of largest magnitude of every group, the lower first among equals (07 R246). FP32 magnitudes order as their bits
without the sign do; a NaN, which has no magnitude, so ranks above an infinity (DESIGN CHOICE, log entry 138). -/
def largestTwo (vs : List (BitVec 32)) : List Bool :=
  let mag (p : Nat) : Nat := (nth 0 vs p).toNat % 2 ^ 31
  (List.range 32).map (fun k =>
    let g := k / 4 * 4
    decide (((List.range 4).filter (fun j =>
      let p := g + j
      p != k && (decide (mag k < mag p) || (decide (mag p = mag k) && decide (p < k))))).length < 2))

/-! ### The modes -/

/-- The context stops at the instruction with a compressor fault (07 R246, R249, R250). -/
def compFault (s : State) (st sub : Nat) : State := failStone (count s 0xA054 sub) st 0x0D

/-- MODE 0: a bitmap record of one block (07 R239). -/
def bitmapRecord (b : QBlock) : List Byte :=
  let nz := b.q.filter (· != 0)
  let m := ((List.range 32).map (fun i => if nth 0 b.q i = 0 then 0 else 2 ^ i)).sum
  let pad := (8 - nz.length % 8) % 8
  toLE 8 (m * 2 ^ 32 + (if m = 0 then 0xFF else b.e) * 2 ^ 24 + nz.length * 2 ^ 18) ++ nz.map (fun q => BitVec.ofInt 8 q) ++
    List.replicate pad 0

/-- Value bytes of a row's records. -/
def rowValueBytes (r : List QBlock) : Nat := (r.map (fun b => 8 * cdiv (b.q.filter (· != 0)).length 8)).sum

/-- A row of the A8 layout: values, exponents, and zero bytes up to the stride (06 R204, 07 R238). -/
def a8Bytes (kb : Nat) (vals : List Byte) (exps : List Byte) : List Byte :=
  vals ++ exps ++ List.replicate (a8Row kb - 33 * kb) 0

/-- MODE 0 (07 R247): the tile as BITMAP where that is no longer than DENSE and every row keeps its budget, else DENSE. -/
def compressActs (s : State) (st src dst : Nat) (o : Operands) : State :=
  let rows := cRows o
  let kb := cKb o
  let qs := (List.range rows).map (fun r => (List.range kb).map (fun k =>
    quantise 0 (-128) 127 (srcBlock s st src (cBf16 o) kb r k) (List.replicate 32 true)))
  let s := noteQuant s st qs
  let recs := qs.map (fun r => r.flatMap bitmapRecord)
  let index := 8 * cdiv rows 2
  let offs := recs.foldl (fun (a : List Nat × Nat) r => (a.1 ++ [a.2], a.2 + r.length)) ([], index)
  let dense := rows * a8Row kb
  let fits := qs.all (fun r => decide (rowValueBytes r ≤ cBudget o * kb))
  if offs.2 ≤ dense ∧ fits then
    let pay := offs.1.flatMap (toLE 4) ++ List.replicate (index - 4 * rows) 0 ++ recs.flatten
    count (sramWrite s st dst (packTile 2 1 0 false rows kb (cBudget o) pay.length ++ pay)) 0xA054 2
  else
    let pay := qs.flatMap (fun r => a8Bytes kb (r.flatMap (fun b => b.q.map (fun q => BitVec.ofInt 8 q)))
      (r.map (fun b => BitVec.ofNat 8 b.e)))
    let s := count (sramWrite s st dst (packTile 0 1 0 false rows kb 0 dense ++ pay)) 0xA054 3
    if offs.2 < dense ∧ !fits then count s 0xA054 4 else s

/-- MODES 1 and 2 (07 R245, R246): weights kept at the positions `kept` gives, as an S24 tile. -/
def compressWeights (s : State) (st src dst : Nat) (o : Operands) (tpose : Bool) (kept : Nat → Nat → List (BitVec 32) → List Bool) :
    State :=
  let w := cWfmt o
  let rows := cRows o
  let kb := cKb o
  let qs := (List.range rows).map (fun r => (List.range kb).map (fun k =>
    let vs := srcBlock s st src (cBf16 o) kb r k
    let m := kept r k (srcBits s st src (cBf16 o) kb r k)
    (quantise w (wLo w) (wHi w) vs m, m)))
  let s := noteQuant s st (qs.map (fun r => r.map (·.1)))
  let pay := s24Payload w rows kb qs
  sramWrite s st dst (packTile 1 0 w tpose rows kb 0 pay.length ++ pay)

/-- MODE 1: the mask tile's positions (07 R246). -/
def compressMask (s : State) (st src dst aux : Nat) (o : Operands) : State :=
  let hd := sramNat s st aux 8
  let w := hWfmt hd
  if hFormat hd ≠ 1 ∨ hKind hd ≠ 0 ∨ hRows hd ≠ cRows o ∨ hKb hd ≠ cKb o ∨ 9 < w then compFault s st 6
  else
    let blocks := (List.range (cRows o / 64)).map (fun g => (List.range (cKb o)).map (fun k => tileBlock s st (aux + 8) w (cKb o) g k))
    compressWeights s st src dst o (hTpose hd) (fun r k _ => named w (nth [] (nth [] blocks (r / 64)) k) (r % 64))

/-- Records of one row from position `p` of a payload: the values and exponents, the value bytes and the end; none where a
record fails its checks (07 R249). -/
def readRecords (pay : List Byte) : Nat → Nat → Option (List Byte × List Byte × Nat × Nat)
  | 0, p => some ([], [], 0, p)
  | k + 1, p =>
    let hd := fromLE ((pay.drop p).take 8)
    let m := bits 63 32 hd
    let n := bits 23 18 hd
    let e := bits 31 24 hd
    let ones := ((List.range 32).filter (fun i => bit i m)).length
    let stop := p + 8 + 8 * cdiv n 8
    if n ≠ ones ∨ (e = 0xFF ∧ m ≠ 0) ∨ pay.length < stop then none
    else
      let vals := (List.range 32).map (fun i =>
        if bit i m then nth 0 pay (p + 8 + ((List.range i).filter (fun j => bit j m)).length) else 0)
      match readRecords pay k stop with
      | none => none
      | some (vs, es, n', q) => some (vals ++ vs, BitVec.ofNat 8 e :: es, 8 * cdiv n 8 + n', q)

/-- Rows of a bitmap payload: the A8 rows and the largest value bytes of a row; none where a check fails. -/
def readBitmap (pay : List Byte) (kb : Nat) : Nat → Nat → Nat → Option (List Byte × Nat)
  | 0, _, _ => some ([], 0)
  | n + 1, r, p =>
    if fromLE ((pay.drop (4 * r)).take 4) ≠ p then none
    else match readRecords pay kb p with
      | none => none
      | some (vs, es, v, q) =>
        match readBitmap pay kb n (r + 1) q with
        | none => none
        | some (bs, m) => some (a8Bytes kb vs es ++ bs, max v m)

/-- MODE 3 (07 R248, R249). -/
def expandTile (s : State) (st src dst : Nat) (o : Operands) : State :=
  let hd := sramNat s st src 8
  let rows := cRows o
  let kb := cKb o
  let n := rows * a8Row kb
  if (hFormat hd ≠ 0 ∧ hFormat hd ≠ 2) ∨ hKind hd ≠ 1 ∨ hRows hd ≠ rows ∨ hKb hd ≠ kb ∨ n < hPayload hd ∨ hd % 2 ^ 11 ≠ 0 then
    compFault s st 6
  else if hFormat hd = 0 then sramWrite s st dst (sramRead s st (src + 8) n)
  else
    match readBitmap (sramRead s st (src + 8) (hPayload hd)) kb rows 0 (8 * cdiv rows 2) with
    | none => compFault (sramWrite (fresh s) st dst (outsideBytes s dst n)) st 6
    | some (bs, v) =>
      let s := sramWrite s st dst bs
      if hBudget hd * kb < v then count s 0xA054 5 else s

/-- The mask of an S24 tile is transposable (07 R241): every column of an aligned 4 × 4 block holds two named positions. -/
def maskTransposable (blocks : List (List (List Byte))) (wfmt : Nat) : Bool :=
  blocks.all (fun g => g.all (fun blk =>
    let nm := (List.range 64).map (fun i => named wfmt blk i)
    (List.range 16).all (fun a => (List.range 32).all (fun k =>
      decide (((List.range 4).filter (fun r => nth false (nth [] nm (4 * a + r)) k)).length = 2)))))

/-- MODE 4 (07 R250): the S24 tile of the transpose. -/
def transposeTile (s : State) (st src dst : Nat) (o : Operands) : State :=
  let hd := sramNat s st src 8
  let w := hWfmt hd
  let rows := cRows o
  let kb := cKb o
  let blocks := (List.range (rows / 64)).map (fun g => (List.range kb).map (fun k => tileBlock s st (src + 8) w kb g k))
  if hFormat hd ≠ 1 ∨ hKind hd ≠ 0 ∨ w = 0 ∨ 9 < w ∨ hRows hd ≠ rows ∨ hKb hd ≠ kb ∨ hTpose hd = false ∨ kb % 2 ≠ 0 ∨ 16 < kb ∨
      maskTransposable blocks w = false then compFault s st 7
  else
    let src (r : Nat) : List (BlockV × List Bool) := (nth [] blocks (r / 64)).map (fun b => (sparseRow w b (r % 64), named w b (r % 64)))
    let all := (List.range rows).map src
    let at_ (r k : Nat) : Option Dy × Bool :=
      let b := nth (([], 0xFF), []) (nth [] all r) (k / 32)
      (some (if b.1.2 = 0xFF then (0, 0) else (nth 0 b.1.1 (k % 32), (b.1.2 : Int) - 127)), nth false b.2 (k % 32))
    let qs := (List.range (32 * kb)).map (fun k => (List.range (rows / 32)).map (fun j =>
      let col := (List.range 32).map (fun i => at_ (32 * j + i) k)
      (quantise w (wLo w) (wHi w) (col.map (·.1)) (col.map (·.2)), col.map (·.2))))
    let s := noteQuant s st (qs.map (fun r => r.map (·.1)))
    let pay := s24Payload w (32 * kb) (rows / 32) qs
    sramWrite s st dst (packTile 1 0 w true (32 * kb) (rows / 32) 0 pay.length ++ pay)

/-- The check of the ranges before issue (07 R244, 06 R208). -/
def compRangesOk (s : State) (st src dst aux : Nat) (o : Operands) : Bool :=
  let hd := sramNat s st src 8
  let a := (src, compSrc o hd)
  let b := (dst, compDst o hd)
  let mh := sramNat s st aux 8
  let m := (aux, 8 + s24Bytes (hWfmt mh) (hRows mh) (hKb mh))
  inSram a.1 a.2 && inSram b.1 b.2 && !overlap a b && decide (src % 8 = 0) && decide (dst % 8 = 0) &&
    (decide (cMode o ≠ 1) || (inSram aux 8 && !overlap m b))

/-- ENGINE OP 0x2 (07 R243 to R250). The row names MODE; with another legal MODE the command describes no instruction of the
stone. -/
def compressor (mode st : Nat) (h : IHdr) (o : Operands) (s : State) : State :=
  let src := (reg s st (fld 111 108 o)).toNat
  let dst := (reg s st (fld 107 104 o)).toNat
  let aux := (reg s st (fld 103 100 o)).toNat
  let hd := sramNat s st src 8
  let mh := sramNat s st aux 8
  let srcs := (src, compSrc o hd) :: (if mode = 1 then [(aux, 8 + s24Bytes (hWfmt mh) (hRows mh) (hKb mh))] else [])
  if cMode o ≤ 4 ∧ cMode o ≠ mode then s
  else issue s st (headerOk h false && onlyFields [(111, 67)] o && compOk o) srcs [(dst, compDst o hd)] fun s =>
    if compRangesOk s st src dst aux o = false then failStone s st 0x05
    else readRanges s st srcs [(dst, compDst o hd)] fun s =>
      let t := match mode with
        | 0 => compressActs s st src dst o
        | 1 => compressMask s st src dst aux o
        | 2 => compressWeights s st src dst o false (fun _ _ vs => largestTwo vs)
        | 3 => expandTile s st src dst o
        | _ => transposeTile s st src dst o
      if (stoneOf t st).run = .running then completeNow t st h else t

def execCompressActivations (st : Nat) (h : IHdr) (o : Operands) (s : State) : Res := run s (compressor 0 st h o)
def execCompressWeightsMask (st : Nat) (h : IHdr) (o : Operands) (s : State) : Res := run s (compressor 1 st h o)
def execCompressWeightsMagnitude (st : Nat) (h : IHdr) (o : Operands) (s : State) : Res := run s (compressor 2 st h o)
def execExpand (st : Nat) (h : IHdr) (o : Operands) (s : State) : Res := run s (compressor 3 st h o)
def execTranspose (st : Nat) (h : IHdr) (o : Operands) (s : State) : Res := run s (compressor 4 st h o)

end Sys2Proof.Machine
end

