-- ==== Sys2Proof/Machine/Fabric.lean ====
section
/-! DEFINITION. Fabric ports and links (10 R296 to R305, R315 to R318), routing of packets (R306 to R309, R322 to R328) and
aqueducts (R319 to R321). -/

namespace Sys2Proof.Machine

/-! ### Ports and their expected peers (10 R297) -/

inductive PortKind where
  | row | column | global
  deriving DecidableEq, Repr

def portKind (p : Nat) : PortKind := if p % 16 < 7 then .row else if p % 16 < 14 then .column else .global

def isGlobal (p : Nat) : Bool := decide (portKind p = .global)

def portWythe (p : Nat) : Nat := p / 16

/-- The other member of a row or column of eight that slot `j` of member `own` names. -/
def slotNames (own j : Nat) : Nat := if j < own then j else j + 1

/-- The slot of member `own` that names `other`. -/
def slotFor (own other : Nat) : Nat := if other < own then other else other - 1

/-- Grid position that a row or column port of position `pos` expects. -/
def expectedPos (pos p : Nat) : Nat :=
  if p % 16 < 7 then 8 * (pos / 8) + slotNames (pos % 8) (p % 16) else 8 * slotNames (pos / 8) (p % 16 - 7) + pos % 8

/-- Port number of the peer on its own package. -/
def expectedPort (pos p : Nat) : Nat :=
  if p % 16 < 7 then 16 * (p / 16) + slotFor (expectedPos pos p % 8) (pos % 8)
  else 16 * (p / 16) + 7 + slotFor (expectedPos pos p / 8) (pos / 8)

/-- The peer is the one that R297 expects. -/
def wiredOk (s : State) (p peerPkg peerPort : Nat) : Bool :=
  if isGlobal p then decide (14 ≤ peerPort % 16) && decide (peerPort < 32) && decide (peerPkg / 64 ≠ pondOf s)
  else decide (peerPkg = 64 * pondOf s + expectedPos (gridPos s) p) && decide (peerPort = expectedPort (gridPos s) p)

def isUp (s : State) (p : Nat) : Bool := decide ((portOf s p).state = .up)

/-- The package may bring its ports up: a package id is assigned (10 R299, 01 R15) and the wythe's switch works (16 R509). -/
def portsAllowed (s : State) (p : Nat) : Bool := bit 15 (getE s 0x1020 0x01) && !s.switchDead.contains (portWythe p)

/-! ### Credits and the split of the receive buffer (10 R315 to R318) -/

/-- On/off mode is selected (10 R318). -/
def onOff (s : State) : Bool := decide (getE s 0x2020 0x01 = 1)

/-- The default split (10 R316). -/
def defaultCredits (s : State) (p v : Nat) : Nat :=
  let c := v / 2
  if isGlobal p then (if v % 2 = 1 then 2 * nth 0 [40, 96, 96, 192, 128, 160, 264, 48] c else 0)
  else if onOff s then (if v % 2 = 0 then nth 0 [176, 224, 224, 320, 288, 272, 368, 176] c else 0)
  else nth 0 [40, 96, 96, 192, 128, 160, 264, 48] c

/-- The split that the port's entry selects, by VC. -/
def chosenSplit (s : State) (p : Nat) : List Nat :=
  (List.range 16).map (fun v => let c := getE s (0x2100 + p) (0x10 + v); if c = 0xFFFF then defaultCredits s p v else c)

/-- OFF_MARK (10 R317). -/
def offMark (roundTrip : Nat) : Nat := cdiv (390625 * roundTrip) 1000000 + 33

/-- The rules of a split (10 R316, R317). -/
def splitOk (s : State) (p roundTrip : Nat) (l : List Nat) : Bool :=
  decide (l.sum ≤ 2048) && (List.range 16).all (fun v =>
    let c := nth 0 l v
    if isGlobal p then (if v % 2 = 0 then decide (c = 0) else decide (33 ≤ c))
    else if onOff s then (if v % 2 = 1 then decide (c = 0) else decide (offMark roundTrip + 33 ≤ c))
    else decide (33 ≤ c))

/-- Bytes of a packet, and of the frame that carries it (10 R302, R306, R310). -/
def bodyBytes : FrameBody → Nat
  | .routed p => 32 + p.payload.length
  | .aqueduct a => 8 + a.payload.length
  | .management | .reserved => 8

def frameBytes (b : FrameBody) : Nat := 64 * cdiv (24 + bodyBytes b) 64

/-- Credits that a frame takes (10 R315). -/
def frameCredits (b : FrameBody) : Nat := cdiv (frameBytes b) 256

/-- Occupancy of a VC of the receive buffer, in credits: DEPTH of 10 R339. -/
def depthOf (x : Port) (v : Nat) : Nat := ((x.rx.filter (fun q => q.vc == v)).map (fun q => frameCredits q.body)).sum

/-- OFF_MASK follows the free credits of each VC (10 R317). -/
def offMaskNext (s : State) (x : Port) : Nat :=
  if onOff s = false then 0
  else (List.range 16).foldl (fun m v =>
    let free := nth 0 x.split v - depthOf x v
    let mark := offMark x.roundTrip
    let off := if bit v x.offOut then decide (free < mark + 33) else decide (free < mark)
    if off && decide (v % 2 = 0) then m + 2 ^ v else m) 0

/-- The port puts a control block on the link (10 R303): what it has returned on each VC, OFF_MASK, ACK_SEQ, NAK, KEY_PHASE. -/
def sendControl (s : State) (p : Nat) (nak : Bool) : State :=
  let x := portOf s p
  emit s (.control p ((List.range 16).map (fun v => tget 0 x.freed v)) x.offOut ((x.rxSeq + 4095) % 4096) nak x.keyPhase)

/-- A frame goes on the link, and a control block after every 20 blocks of frames (10 R302, R303). -/
def putFrame (s : State) (p : Nat) (f : Sent) : State :=
  let x := portOf s p
  let n := x.blocks + frameBytes f.body / 64
  let s := emit (setPort s p { x with blocks := n % 20 }) (.frame p x.keyPhase f.vc f.seq f.body)
  forEach s (List.range (n / 20)) (fun t _ => sendControl t p false)

/-- A frame leaves the receive buffer, so its credits are returned (10 R315). -/
def freeCredits (s : State) (p : Nat) (q : QItem) : State :=
  let x := portOf s p
  let y := { x with freed := tput 0 x.freed q.vc ((tget 0 x.freed q.vc + frameCredits q.body) % 4096) }
  let s := setPort s p { y with offOut := offMaskNext s y }
  if isUp s p then sendControl s p false else s

/-! ### Leaving UP, retraining, fencing and refusing (10 R299, R300, R305) -/

/-- A port enters a state; a departure from UP is counted. -/
def portEnter (s : State) (p : Nat) (st : PortState) : State :=
  let s := if isUp s p ∧ st ≠ .up then count s (0xA100 + p) 0x55 else s
  setPort s p { portOf s p with state := st }

/-- The port is fenced: its frames are lost, and PORT_FENCED of class U is raised (10 R305). -/
def fencePort (s : State) (p : Nat) : State :=
  if (portOf s p).state = .fenced then s
  else
    let s := portEnter s p .fenced
    let s := setPort s p { portOf s p with replay := [], outQ := [], retraining := false, helloOk := false }
    raise1 s 1 0x31 4 p none 0

/-- A retrain that ends in another state than UP counts; the third within 1 s fences the port (10 R305). -/
def failRetrain (s : State) (p : Nat) : State :=
  let x := portOf s p
  if x.retraining = false then s
  else
    let fs := (now s :: x.fails).filter (fun t => decide (now s < t + 1000000000))
    let s := setPort s p { x with retraining := false, fails := fs }
    if 3 ≤ fs.length then fencePort s p else s

/-- The port goes to DOWN, MISWIRED or REFUSED at the end of an attempt. -/
def endAttempt (s : State) (p : Nat) (st : PortState) : State :=
  let s := portEnter s p st
  failRetrain (setPort s p { portOf s p with helloOk := false }) p

/-- A retrain begins; a fenced port stays fenced, and no port trains while no package id is assigned. -/
def beginRetrain (s : State) (p : Nat) : State :=
  if (portOf s p).state = .fenced ∨ portsAllowed s p = false then s
  else
    let s := portEnter s p .training
    setPort s p { portOf s p with retraining := true, helloOk := false, rekeying := false }

/-- A check of the port fails: MISWIRED or REFUSED, the peer recorded, a refusal notice, and PORT_CHECK of class C
(10 R300). -/
def failPort (s : State) (p : Nat) (st : PortState) : State :=
  let s := emit s (.portRefusal p (portOf s p).txSeq)
  let s := endAttempt s p st
  raise1 s 0 0x30 4 p none 0

/-- PORT_TRAINING_RETRY (10 R299): a DOWN port trains again. -/
def execPortTrainingRetry (p : Nat) (s : State) : Res := run s fun s =>
  if (portOf s p).state = .down ∧ portsAllowed s p ∧ p < 32 then
    setPort s p { portOf s p with state := .training, retraining := false, helloOk := false }
  else s

/-- This side's HELLO (10 R299): package id and port, flow mode, identity certificate and an ephemeral key freshly drawn. The
signature over the exchange lies outside the manual's algorithms and is not written out (DESIGN CHOICE, log entry 120). -/
def sendHello (s : State) (p : Nat) : State :=
  emit (fresh s) (.portHello p (portOf s p).txSeq (pkgId s) (getE s 0x2020 0x01) s.fuses.identityCert
    (Config.randomDraw s.nonce).toNat)

/-- TRAINING_COMPLETE (10 R299, R305). -/
def execTrainingComplete (p : Nat) (ok : Bool) (s : State) : Res := run s fun s =>
  if (portOf s p).state ≠ .training then s
  else if ok then sendHello (setPort s p { portOf s p with state := .authenticating, helloOk := false }) p
  else endAttempt s p .down

/-- The checks that need keys: certificate, signature, and the endorsement where this part has an owner key (18 R553). -/
def helloKeysOk (s : State) (m : Hello) : Bool := m.certOk && m.sigOk && (decide (getE s 0x9040 0x01 = 0) || m.endorsed)

/-- HELLO (10 R299, R300, R318, 18 R553); a part without identity key or random generator cannot authenticate (18 R551, R565). -/
def execHello (p : Nat) (m : Hello) (s : State) : Res := run s fun s =>
  if (portOf s p).state ≠ .authenticating ∨ s.sec.rngBad ∨ s.sec.identityPresent = false then s
  else
    let s := setPort s p { portOf s p with peer := some (m.peerPkg, m.peerPort) }
    if helloKeysOk s m = false then failPort s p .refused
    else if wiredOk s p m.peerPkg m.peerPort = false then failPort s p .miswired
    else if m.flowMode ≠ getE s 0x2020 0x01 ∨ (isGlobal p ∧ onOff s) then failPort s p .refused
    else emit (setPort s p { portOf s p with helloOk := true }) (.portEcho p (portOf s p).txSeq)

/-- The key and salt of a direction of the port's link under a fresh exchange (10 R301, 18 R555): one HKDF output each, A being
the side with the lower package id. -/
def linkKey (s : State) (x : Port) (sending : Bool) : BitVec 288 :=
  let lower := match x.peer with | some q => decide (pkgId s < q.1) | none => true
  Config.linkKey s.nonce (if lower = sending then 0 else 1)

/-- ECHO_FRAME (10 R590, R316, R317, R301): ROUND_TRIP is measured, the split is checked, and the port enters UP under a new
key, where replay begins again at once (R305). -/
def execEchoFrame (p roundTrip : Nat) (s : State) : Res := run s fun s =>
  let x := portOf s p
  if x.state ≠ .authenticating ∨ x.helloOk = false then s
  else
    let s := setPort s p { x with roundTrip := roundTrip }
    let l := chosenSplit s p
    if splitOk s p roundTrip l = false then failPort s p .refused
    else
      let y := { x with
        state := .up, roundTrip := roundTrip, split := l, retraining := false, helloOk := false, keyPhase := false,
        txKey := linkKey s x true, rxPhase := false, rxKey := linkKey s x false, rxNext := none, rekeying := false,
        mgmtDue := false, frameCtr := x.replay.length }
      let s := fresh (setPort s p { y with offOut := offMaskNext s y })
      forEach s x.replay (fun t f => putFrame t p f)

/-- REFUSAL_NOTICE (10 R300): a port that has passed its own checks goes DOWN without a fault. -/
def execRefusalNotice (p : Nat) (s : State) : Res := run s fun s =>
  let x := portOf s p
  if x.state = .authenticating ∧ x.helloOk then endAttempt s p .down else s

/-- LINK_LOCK_LOSS (10 R300, R305). -/
def execLinkLockLoss (p : Nat) (s : State) : Res := run s fun s =>
  match (portOf s p).state with
  | .up => beginRetrain s p
  | .training | .authenticating => endAttempt s p .down
  | _ => s

/-- RETRAIN and FENCE of a port (10 R305, R337). -/
def actPortRetrain (p : Nat) (s : State) : Act := .done (beginRetrain s p)

def execPortRetrain (p : Nat) (q : Req) (s : State) : Res := run s (serveWrite (0x2100 + p) 0x05 q (actPortRetrain p))

def actPortFence (p : Nat) (s : State) : Act := .done (fencePort s p)

def execPortFence (p : Nat) (q : Req) (s : State) : Res := run s (serveWrite (0x2100 + p) 0x04 q (actPortFence p))

/-! ### Frames (10 R302 to R304) -/

/-- The frame has room in the port's replay buffer of 512 KiB, which holds at most 4,095 frames (10 R296, R304). -/
def replayFits (x : Port) (b : FrameBody) : Bool :=
  decide (x.replay.length < 4095) && decide ((x.replay.map (fun f => frameBytes f.body)).sum + frameBytes b ≤ 524288)

/-- A new frame takes the next SEQ and the next value of the frame counter, is kept until it is acknowledged, and goes out
(10 R301, R302, R304). -/
def sendNew (s : State) (p vc : Nat) (b : FrameBody) : State :=
  let x := portOf s p
  let f : Sent := { seq := x.txSeq, resends := 0, vc := vc, body := b }
  putFrame (setPort s p { x with replay := x.replay ++ [f], txSeq := (x.txSeq + 1) % 4096, frameCtr := x.frameCtr + 1 }) p f

/-- A link-management frame that is due goes as soon as the replay buffer has room (10 R302, R304). -/
def sendDue (s : State) (p : Nat) : State :=
  let x := portOf s p
  if x.mgmtDue && replayFits x .management then sendNew (setPort s p { x with mgmtDue := false }) p 0 .management else s

/-- A rekey starts: a fresh ephemeral key, on a link-management frame; traffic goes on (10 R301, 18 R555). -/
def startRekey (s : State) (p : Nat) : State :=
  if (portOf s p).rekeying then s
  else
    let s := emit (fresh (setPort s p { portOf s p with rekeying := true, mgmtDue := true }))
      (.portRekey p (Config.randomDraw s.nonce).toNat)
    sendDue s p

/-- The frame counter has reached 2^48: the port rekeys (10 R301). -/
def rekeyAtLimit (s : State) (p : Nat) : State := if 2 ^ 48 ≤ (portOf s p).frameCtr then startRekey s p else s

/-- REKEY (10 R301): REKEY_PERIOD has expired. -/
def execRekey (p : Nat) (s : State) : Res := run s fun s => if isUp s p then startRekey s p else s

/-- REKEY_EXCHANGE (18 R555): the peer's rekey frame is checked, this side answers with its own where it had not begun, and the
new sending key is used from the next frame; the new receiving key from the frame whose KEY_PHASE first differs (10 R301). -/
def execRekeyExchange (p : Nat) (checksOk : Bool) (s : State) : Res := run s fun s =>
  if (portOf s p).state ≠ .up then s
  else if checksOk = false then failPort s p .refused
  else
    let s := startRekey s p
    let x := portOf s p
    fresh (setPort s p { x with
      rekeying := false, keyPhase := !x.keyPhase, txKey := linkKey s x true, frameCtr := 0, rxNext := some (linkKey s x false) })

/-- A frame or control block of the other KEY_PHASE is the first under the new key (10 R301). -/
def takeKey (s : State) (p : Nat) (phase : Bool) : State :=
  let x := portOf s p
  match x.rxNext with
  | some k => if phase = x.rxPhase then s else setPort s p { x with rxPhase := phase, rxKey := k, rxNext := none }
  | none => s

/-- Virtual channel of a body where it is received: phase 1 from a global link on (10 R311). -/
def bodyVc : FrameBody → Nat
  | .routed p => 2 * p.cls + p.phase
  | .aqueduct a => 2 * a.cls + a.phase
  | .management | .reserved => 0

/-- The body as the receiving switch holds it: over a global link PHASE becomes 1, and HOPS counts the link (10 R306, R311). -/
def received (glob : Bool) : FrameBody → FrameBody
  | .routed p => .routed { p with phase := if glob then 1 else p.phase, hops := p.hops + 1 }
  | .aqueduct a => .aqueduct { a with phase := if glob then 1 else a.phase }
  | .management => .management
  | .reserved => .reserved

/-- Bits 255 to 192 of a packet's header, the DETAIL of a fabric cause (10 R306, 16 R510). -/
def headerTop (p : Packet) : Nat :=
  p.dest % 2 ^ 14 * 2 ^ 50 + p.src % 2 ^ 14 * 2 ^ 36 + p.jobTag % 2 ^ 16 * 2 ^ 20 + p.cls % 8 * 2 ^ 17 + p.phase % 2 * 2 ^ 16 +
    p.epoch % 4 * 2 ^ 14 + p.target % 16 * 2 ^ 10 + p.targetStone % 4096 / 4

def detailOf : FrameBody → Nat
  | .routed p => headerTop p
  | _ => 0

/-- EPOCH_IN counts a packet that a switch accepts from a link (10 R331). -/
def countIn (s : State) : FrameBody → State
  | .routed p => count s 0x2052 (p.epoch % 4 + 1)
  | _ => s

/-- DEPTH_MAX follows DEPTH (10 R339). -/
def noteDepth (s : State) (p v : Nat) : State :=
  let d := depthOf (portOf s p) v
  if getE s (0xA100 + p) (0x41 + v) < d then setE s (0xA100 + p) (0x41 + v) d else s

/-- LINK_FRAME_RECEIVED (10 R301, R304, R327). A frame of the reserved TYPE 3 is acknowledged and has no other effect (DESIGN
CHOICE, log entry 121). -/
def execLinkFrameReceived (p : Nat) (f : LinkFrame) (s : State) : Res := run s fun s =>
  if isUp s p = false then s
  else
    let s := countBy s (0xA100 + p) 0x51 f.fecCorrected
    if f.fecUncorrected ≠ 0 then sendControl (countBy s (0xA100 + p) 0x52 f.fecUncorrected) p true
    else if f.tagOk = false then sendControl (count s (0xA100 + p) 0x53) p true
    else if f.seq ≠ (portOf s p).rxSeq then sendControl (takeKey s p f.keyPhase) p true
    else
      let s := takeKey s p f.keyPhase
      let s := setPort s p { portOf s p with rxSeq := (f.seq + 1) % 4096 }
      match f.body with
      | .management | .reserved => sendControl s p false
      | _ =>
        let b := received (isGlobal p) f.body
        let q : QItem := { vc := bodyVc b, inPort := p, losses := 0, body := b }
        let s := countIn s b
        if f.bufferOk = false then
          raise1 (freeCredits (count s (0xA100 + p) 0x56) p q) 1 0x33 4 p none (detailOf b)
        else
          let x := portOf s p
          let y := { x with rx := x.rx ++ [q] }
          sendControl (noteDepth (setPort s p { y with offOut := offMaskNext s y }) p q.vc) p false

/-- The frames after `ack` in a replay buffer; all of them where `ack` names none of them. -/
def afterAck (ack : Nat) (l : List Sent) : List Sent :=
  if l.any (fun f => f.seq == ack) then (l.dropWhile (fun f => f.seq != ack)).drop 1 else l

/-- CONTROL_BLOCK (10 R303 to R305); the codewords that carried it are counted (10 R339). -/
def execControlBlock (p : Nat) (b : CtrlBlock) (s : State) : Res := run s fun s =>
  if isUp s p = false then s
  else
    let s := countBy (countBy s (0xA100 + p) 0x51 b.fecCorrected) (0xA100 + p) 0x52 b.fecUncorrected
    if b.fecUncorrected ≠ 0 ∨ b.tagOk = false then s
    else
    let s := takeKey s p b.keyPhase
    let x := portOf s p
    let rest := afterAck b.ackSeq x.replay
    let ret := (List.range 16).foldl (fun t v => tput 0 t v (nth 0 b.credits v % 4096)) x.returned
    let s := setPort s p { x with returned := ret, offIn := b.offMask, replay := rest }
    if b.nak = false then s
    else
      let again := rest.map (fun f => { f with resends := f.resends + 1 })
      if again.any (fun f => decide (8 < f.resends)) then beginRetrain s p
      else
        let s := setPort s p { portOf s p with replay := again, frameCtr := x.frameCtr + again.length }
        rekeyAtLimit (forEach (countBy s (0xA100 + p) 0x54 again.length) again (fun t f => putFrame t p f)) p

/-! ### Arbitration of an output port (10 R313, R314) -/

/-- The VC on which a body crosses a link from this port: a global link's receiver holds phase-1 buffers only (10 R311). -/
def outVc (p : Nat) (b : FrameBody) : Nat := if isGlobal p then bodyVc b / 2 * 2 + 1 else bodyVc b

/-- Credits that the port holds on a VC. -/
def creditsOf (x : Port) (v : Nat) : Nat := (nth 0 x.split v + tget 0 x.returned v + 4096 - tget 0 x.used v % 4096) % 4096

/-- A frame may go: its credits, or its VC on (10 R313, R315, R317). -/
def eligible (s : State) (p : Nat) (b : FrameBody) : Bool :=
  let x := portOf s p
  let v := outVc p b
  if onOff s then !bit v x.offIn else decide (frameCredits b ≤ creditsOf x v)

/-- Heads of the input VCs that want the port: the oldest of each (input port, VC). -/
def headsOf (x : Port) : List QItem :=
  x.outQ.foldl (fun l q => if l.any (fun h => h.inPort == q.inPort && h.vc == q.vc) then l else l ++ [q]) []

/-- Fields of an aqueduct entry (10 R319). -/
def aqOut (e : BitVec 128) : Nat := bits 127 122 e.toNat
def aqOutId (e : BitVec 128) : Nat := bits 121 114 e.toNat
def aqTag (e : BitVec 128) : Nat := bits 113 98 e.toNat
def aqRate (e : BitVec 128) : Nat := bits 97 88 e.toNat
def aqClass (e : BitVec 128) : Nat := bits 87 85 e.toNat
def aqEnd (e : BitVec 128) : Nat := bits 84 83 e.toNat
def aqValid (e : BitVec 128) : Bool := bit 82 e.toNat
def aqAddr (e : BitVec 128) : Nat := bits 81 43 e.toNat

def aqKey (inPort id : Nat) : Nat := inPort * 256 + id
def aqOf (s : State) (k : Nat) : BitVec 128 := tget 0 s.aqs k

/-- The entry of a frame that waits at an output port: it has the frame's in-port, this out-port and the outgoing id. -/
def aqEntryOf (s : State) (p : Nat) (q : QItem) : Option (Nat × BitVec 128) :=
  match q.body with
  | .aqueduct a => s.aqs.find? (fun e => aqValid e.2 && decide (e.1 / 256 = q.inPort) && decide (aqOut e.2 = p) &&
      decide (aqOutId e.2 = a.aqueduct))
  | _ => none

/-- Tenths of a byte that an aqueduct has taken of a burst, after refilling at RATE tenths of a byte per ns (10 R321). -/
def aqTaken (s : State) (l : Tbl (Nat × Nat)) (k rate : Nat) : Nat :=
  let b := tget (0, 0) l k
  b.1 - (now s - b.2) * rate

/-- An aqueduct frame is within its rate and 16 KiB burst. -/
def aqWithin (s : State) (p : Nat) (q : QItem) : Bool :=
  match aqEntryOf s p q with
  | some (k, e) => decide (aqTaken s s.aqBurst k (aqRate e) + 10 * bodyBytes q.body ≤ 163840)
  | none => false

/-- The head that has won under R314: at 16 losses, the most losses first, then the lower input port, then the lower VC. -/
def agedHead (l : List QItem) : Option QItem :=
  minBy (fun q => ((10 ^ 9 - q.losses) * 64 + q.inPort) * 16 + q.vc) (l.filter (fun q => decide (16 ≤ q.losses)))

/-- VC at place `i` of a round: by class, phase 1 before phase 0 (10 R313). -/
def roundVc (i : Nat) : Nat := i % 16 / 2 * 2 + (1 - i % 2)

/-- Deficit round robin from place `i` of the round; `given` tells whether the place has had its quantum. Answers the VC
served, the deficits and the place. -/
def drr (weights : List Nat) (want : Nat → Option Nat) : Nat → Nat → Bool → Tbl Nat → Option (Nat × Tbl Nat × Nat)
  | 0, _, _, _ => none
  | n + 1, i, given, d =>
    let v := roundVc i
    match want v with
    | none => drr weights want n ((i + 1) % 16) false (tput 0 d v 0)
    | some bytes =>
      let have_ := tget 0 d v + (if given then 0 else 256 * nth 1 weights (v / 2))
      if bytes ≤ have_ then some (v, tput 0 d v (have_ - bytes), i)
      else drr weights want n ((i + 1) % 16) false (tput 0 d v have_)

/-- The frame that the port sends next, with the deficits and place of the round robin after it; the last part is true for a
win by age. -/
def arbitrate (s : State) (p : Nat) : Option (QItem × Tbl Nat × Nat × Bool) :=
  let x := portOf s p
  let hs := (headsOf x).filter (fun q => eligible s p q.body)
  match hs.find? (aqWithin s p) with
  | some q => some (q, x.deficit, x.rrNext, false)
  | none =>
    match agedHead hs with
    | some q => some (q, x.deficit, x.rrNext, true)
    | none =>
      let want (v : Nat) : Option Nat := (hs.find? (fun q => q.vc == v)).map (fun q => frameBytes q.body)
      if hs.isEmpty then none
      else
        let ws := (List.range 8).map (fun c => getE s 0x2024 (c + 1))
        match drr ws want 1024 (x.rrNext / 2) (x.rrNext % 2 = 1) x.deficit with
        | some (v, d, i) => (hs.find? (fun q => q.vc == v)).map (fun q => (q, d, 2 * i + 1, false))
        | none => none

/-- FRAME_TRANSMIT (10 R302 to R304, R313 to R315, R327): the frame that has won goes; one that its output buffer has spoilt is
discarded; a slot with no frame to send takes a control block. -/
def execFrameTransmit (p : Nat) (bufferOk : Bool) (s : State) : Res := run s fun s =>
  if isUp s p = false then s
  else
    let s := sendDue s p
    let x := portOf s p
    match (arbitrate s p).filter (fun r => replayFits x r.1.body) with
    | none => sendControl s p false
    | some (q, d, rr, aged) =>
      if bufferOk = false then
        raise1 (count (setPort s p { x with outQ := x.outQ.erase q }) (0xA100 + p) 0x56) 1 0x33 4 p none (detailOf q.body)
      else
        let v := outVc p q.body
        let hs := (headsOf x).filter (fun h => eligible s p h.body)
        let lose (h : QItem) : QItem := if hs.contains h then { h with losses := h.losses + 1 } else h
        let s := match aqEntryOf s p q with
          | some (k, e) => { s with aqBurst := tput (0, 0) s.aqBurst k (aqTaken s s.aqBurst k (aqRate e) + 10 * bodyBytes q.body, now s) }
          | none => s
        let s := setPort s p { x with
          outQ := (x.outQ.erase q).map lose, used := tput 0 x.used v ((tget 0 x.used v + frameCredits q.body) % 4096), deficit := d,
          rrNext := rr }
        let s := count s (0xA100 + p) (v + 1)
        let s := countBy s (0xA100 + p) (0x11 + v) (bodyBytes q.body)
        let s := if aged then count s (0xA100 + p) 0x58 else s
        rekeyAtLimit (sendNew s p v q.body) p

/-! ### Routing (10 R322 to R328) -/

/-- Byte `i` of the tables of an epoch. -/
def tableByte (s : State) (e i : Nat) : Nat := (tget 0 s.tables e >>> (8 * i)) % 256

def epochLive (s : State) (e : Nat) : Bool := (tlook s.tables e).isSome

def pondEntry (s : State) (e w pos : Nat) : Nat := tableByte s e (320 * w + pos)
def lakeEntry (s : State) (e w pond : Nat) : Nat := tableByte s e (320 * w + 64 + pond)

/-- Where a route leads. -/
inductive Depart where
  | port (p : Nat)
  | bridge
  | deliver
  | drop (cause : Nat)
  deriving DecidableEq, Repr

/-- How the packet came: injected here, injected on the other wythe, over a port, or over the bridge in transit. -/
inductive Came where
  | injected | crossed | port (p : Nat) | transit
  deriving DecidableEq, Repr

/-- Route code to departure. -/
def departOf (code : Nat) : Depart :=
  if code < 32 then .port code else if code = 0x20 then .bridge else if code = 0x21 then .deliver else .drop 1

/-- The way of a class 0 packet inside the pond (10 R323); on injection the port of wythe A, or of wythe B where A's is not UP,
and the other way about for a message that its rule sends on wythe B (13 R425). -/
def mgmtRoute (s : State) (w : Nat) (came : Came) (p : Packet) : Depart :=
  let own := gridPos s
  let onColumn := match came with | .port q => decide (portKind q = .column) | _ => false
  let j := if p.dest % 8 ≠ own % 8 ∧ onColumn = false then slotFor (own % 8) (p.dest % 8) else 7 + slotFor (own / 8) (p.dest % 64 / 8)
  if p.dest = pkgId s then .deliver
  else match came with
    | .injected => if isUp s (16 * w + j) then .port (16 * w + j) else .port (16 * (1 - w) + j)
    | _ => .port (16 * w + j)

/-- The departure that 10 R323 gives, before the check of R325. -/
def routeOf (s : State) (w : Nat) (came : Came) (p : Packet) : Depart :=
  if p.cls = 0 ∧ p.dest / 64 = pondOf s then mgmtRoute s w came p
  else if epochLive s p.epoch = false then .drop 0
  else if p.dest / 64 = pondOf s then departOf (pondEntry s p.epoch w (p.dest % 64))
  else if p.phase = 0 then departOf (lakeEntry s p.epoch w (p.dest / 64))
  else .drop 5

/-- The table of 10 R325: row, column, global, bridge, delivery. -/
def departAllowed (came : Came) (phase : Nat) (otherPond : Bool) (d : Depart) : Bool :=
  let kind (r c g b e : Bool) : Bool := match d with
    | .port p => (match portKind p with | .row => r | .column => c | .global => g)
    | .bridge => b
    | .deliver => e
    | .drop _ => true
  match came with
  | .injected => decide (phase = 0) && kind true true true true true
  | .crossed => decide (phase = 0) && kind true true true false true
  | .transit => if phase = 0 then kind false false true false false else kind true true false false false
  | .port p =>
    match portKind p with
    | .row => if phase = 0 then kind false true true otherPond true else kind false true false false true
    | .column => if phase = 0 then kind false false true otherPond true else kind false false false false true
    | .global => decide (phase = 1) && kind true true false true true

/-- The port takes frames: it is UP, or it is retraining and holds them back (10 R328). -/
def portInService (s : State) (p : Nat) : Bool :=
  match (portOf s p).state with
  | .up => true
  | .training | .authenticating => (portOf s p).retraining
  | _ => false

/-- The departure of a packet, every cause of a route drop considered: 2 not allowed, 3 too many links, 4 a reserved TARGET,
6 a port that is not in service (10 R326, R328). -/
def decideRoute (s : State) (w : Nat) (came : Came) (p : Packet) : Depart :=
  let d := routeOf s w came p
  match d with
  | .drop c => .drop c
  | _ =>
    if departAllowed came p.phase (decide (p.dest / 64 ≠ pondOf s)) d = false then .drop 2
    else match d with
      | .deliver => if 7 ≤ p.target then .drop 4 else .deliver
      | .port q =>
        if 6 ≤ p.hops then .drop 3
        else if portInService s q then .port q else .drop 6
      | .bridge => if 6 ≤ p.hops then .drop 3 else .bridge
      | .drop c => .drop c

/-- The port where a route drop happens: the one that the packet came in by; for a packet that came in by none, the one that its
route names, if any (DESIGN CHOICE, log entry 122). -/
def dropPort (s : State) (came w : Nat) (p : Packet) : Option Nat :=
  if came < 32 then some came
  else match routeOf s w (if came < 34 then .injected else .crossed) p with
    | .port q => some q
    | _ => none

/-- A route drop: counted at the port where it happens, and the first of each cause in each epoch raises ROUTE_DROP of
class U (10 R326). -/
def routeDrop (s : State) (came : Nat) (w cause : Nat) (p : Packet) : State :=
  let s := match dropPort s came w p with
    | some q => count s (0xA100 + q) 0x56
    | none => s
  if s.dropsSeen.contains (p.epoch, cause) then s
  else
    let s := { s with dropsSeen := s.dropsSeen ++ [(p.epoch, cause)] }
    if came < 32 then raise1 s 1 0x32 4 came none (headerTop p) else raise1 s 1 0x32 3 w none (headerTop p)

/-- The wythe of the unit that TARGET names; units of the package stand with wythe A (10 R307). -/
def targetWythe (p : Packet) (w : Nat) : Nat :=
  if p.target = 0 ∨ p.target = 1 ∨ p.target = 2 ∨ p.target = 4 then wytheOf p.targetStone else w

/-- A packet of another job, or of one that ends, is discarded at delivery (10 R308). -/
def tagDrops (s : State) (p : Packet) : Bool :=
  decide (1 ≤ p.cls) && decide (p.cls ≤ 6) && (decide (p.jobTag ≠ s.jobTag) || decide (s.mode = .draining))

/-- Delivery at this switch: the job tag is checked (10 R308), and the unit of TARGET takes the packet. -/
def deliverPacket (s : State) (came w : Nat) (p : Packet) : State :=
  if tagDrops s p then
    let s := if came < 32 then count s (0xA100 + came) 0x57 else s
    if s.tagDropSeen then s
    else
      let s := { s with tagDropSeen := true }
      if came < 32 then raise1 s 0 0x34 4 came none (headerTop p) else raise1 s 0 0x34 3 w none (headerTop p)
  else
    let s := if targetWythe p w = w then s else countBridge s w (32 + p.payload.length)
    { s with delivered := s.delivered ++ [p] }

/-- A packet for a unit other than the switch and the management processors waits in the fabric while the part is not in Run
(17 R535). -/
def unitAsleep (s : State) (p : Packet) : Bool :=
  decide (1 ≤ p.cls) && decide (p.target ≠ 5) && decide (p.target ≠ 6) &&
    (decide (s.power.state ≠ 0) || decide (s.power.entering.isSome) || s.power.waking)

/-- The owner for whose packets a unit of a bay takes buffers: FABRIC_RX of the class; the payloads of classes 3 and 4 go straight into
buffers of the sluice and the confluence (09 R280). -/
def rxOwner (p : Packet) : Option Nat := if p.target ≤ 2 ∧ p.cls ≠ 3 ∧ p.cls ≠ 4 then some (p.cls + 3) else none

/-- A packet that would be delivered waits in the fabric for its buffer (09 R284): one of FABRIC_RX, a token copy, or the first segment
of a return. -/
def waitsBuffer (s : State) (p : Packet) : Bool :=
  if tagDrops s p then false
  else if p.cls = 3 ∧ p.target = 0 then
    let d := unpackDesc p.classField.toNat p.targetStone
    (copyBay s d).any (fun b => !bufferReady s b 0 (33 * (layerSet s d.ctx d.layer 0x03 / 32)))
  else if p.cls = 4 ∧ p.target = 2 then
    let h := unpackRet p.classField.toNat
    !returnUnwanted s h && (confOf s (retKey h)).any (fun c => (rankOf c h.rank).buf.isNone && !bufferReady s c.bay 1 (returnBytes s h))
  else (rxOwner p).any (fun o => !bufferReady s (bayOf p.targetStone) o 8192)

/-- The buffer of a packet that is delivered to a unit of a bay, with its payload. None where no buffer came, because a pop failed. -/
def rxBuffer (s : State) (p : Packet) (d : Depart) : State × Option (List Nat) :=
  match (if d = .deliver ∧ tagDrops s p = false then rxOwner p else none) with
  | none => (s, some [])
  | some o =>
    match grantTry o 1 s (poolsFor s (bayOf p.targetStone) o 8192) with
    | (t, some h) => (sramWrite t (handleStone h) (handleOff h) p.payload, some [h])
    | (t, none) => (t, none)

/-- The packet takes its departure; `item` is as it stood, `came` its place of origin (0 to 31 a port, 32 + w injection). -/
def depart (s : State) (w : Nat) (item : QItem) (came : Nat) (p : Packet) (d : Depart) : State :=
  match d with
  | .drop c => routeDrop s came w c p
  | .deliver => deliverPacket s came w p
  | .bridge => { countBridge s w (32 + p.payload.length) with bridgeQ := s.bridgeQ ++ [(1 - w, item)] }
  | .port q => setPort s q { portOf s q with outQ := (portOf s q).outQ ++ [{ item with losses := 0 }] }

/-- A packet waiting at an arrival point: the switch's wythe, the item, the packet, how it came, and what is left behind when it
goes. -/
abbrev Head := Nat × QItem × Packet × Came × (State → State)

/-- A packet that waits where it stands: its unit takes none yet (17 R535), or has no buffer for it (09 R284). Its credits are withheld
meanwhile. -/
def headWaits (s : State) (h : Head) : Bool :=
  decide (decideRoute s h.1 h.2.2.2.1 h.2.2.1 = .deliver) && (unitAsleep s h.2.2.1 || waitsBuffer s h.2.2.1)

/-- The oldest packet of each buffer, one buffer per VC, and on the bridge one per VC for transit and one for injection
(10 R324). -/
def bufferHeads : List Head → List Head
  | [] => []
  | h :: t => h :: (bufferHeads t).filter (fun g => g.2.1.vc != h.2.1.vc || decide (g.2.1.inPort < 32) != decide (h.2.1.inPort < 32))

/-- The packets of an arrival point, oldest first. -/
def arrivals (s : State) (a : Arrival) : List Head :=
  match a with
  | .injection w => (s.injQ.filter (fun x => x.1 == w)).map (fun x =>
      let b := FrameBody.routed x.2
      (w, { vc := bodyVc b, inPort := 32 + w, losses := 0, body := b }, x.2, Came.injected,
        fun t => { t with injQ := t.injQ.erase x }))
  | .port p => (portOf s p).rx.filterMap (fun q => match q.body with
      | .routed k => some (portWythe p, q, k, Came.port p, fun t =>
          freeCredits (setPort t p { portOf t p with rx := (portOf t p).rx.erase q }) p q)
      | _ => none)
  | .bridge w => (s.bridgeQ.filter (fun x => x.1 == w)).filterMap (fun x => match x.2.body with
      | .routed k => some (w, x.2, k, if x.2.inPort < 32 then Came.transit else .crossed,
          fun t => { t with bridgeQ := t.bridgeQ.erase x })
      | _ => none)

/-- The packet that an arrival point gives next: the oldest head that does not wait. A waiting head holds up its own buffer
alone (10 R324, R335). -/
def arrivalHead (s : State) (a : Arrival) : Option Head := (bufferHeads (arrivals s a)).find? (fun h => !headWaits s h)

/-- A packet that its switch buffer has spoilt is discarded and counted at the port that it came in by (10 R327). -/
def spoilPacket (s : State) (came w : Nat) (p : Packet) : State :=
  let s := if came < 32 then count s (0xA100 + came) 0x56 else s
  if came < 32 then raise1 s 1 0x33 4 came none (headerTop p) else raise1 s 1 0x33 3 w none (headerTop p)

/-- PACKET_ROUTE (10 R307, R308, R323 to R328, 09 R284, R289). -/
def execPacketRoute (a : Arrival) (bufferOk : Bool) (s : State) : Res := run s fun s =>
  match arrivalHead s a with
  | none => s
  | some (w, item, p, came, take) =>
    if s.switchDead.contains w then s
    else
      let d := decideRoute s w came p
      if bufferOk = false then spoilPacket (take s) item.inPort w p
      else match rxBuffer s p d with
        | (t, none) => t
        | (t, some hs) =>
          let item' : QItem := match came, d with
            | .crossed, .port _ | .transit, .port _ => { item with inPort := 34 + w }
            | _, _ => item
          forEach (depart (take t) w item' item.inPort p d) hs (fun t h => release t (BitVec.ofNat 32 h))

/-! ### Aqueducts (10 R319 to R321) -/

/-- Wythe of an in-port. -/
def inWythe (i : Nat) : Nat := if i < 32 then i / 16 else i % 2

/-- Pairs of in-port and out-port that 10 R325 allows in some phase. -/
def aqPairOk (i out : Nat) : Bool :=
  let d := departOf out
  if i < 32 then departAllowed (.port i) 0 true d || departAllowed (.port i) 1 true d
  else if i < 34 then departAllowed .injected 0 true d
  else departAllowed .crossed 0 true d || departAllowed .transit 0 true d || departAllowed .transit 1 true d

/-- The fields of an entry are in range (10 R319, R320). -/
def aqFieldsOk (i : Nat) (e : BitVec 128) : Bool :=
  decide (i < 36) && decide (aqOut e ≤ 0x21) && (decide (32 ≤ aqOut e) || decide (aqOut e / 16 = inWythe i)) && aqPairOk i (aqOut e) &&
    decide (1 ≤ aqRate e) && decide (aqRate e ≤ 900) && (decide (aqClass e = 5) || decide (aqClass e = 6)) && decide (aqEnd e ≤ 2) &&
    (if aqOut e = 0x21 ∧ aqEnd e = 2 then decide (aqAddr e % 8192 = 0) else decide (aqAddr e = 0)) && decide (e.toNat % 2 ^ 43 = 0)

/-- Tenths of GB/s reserved on an out-port by valid entries other than `k`. -/
def aqReserved (s : State) (k out : Nat) : Nat :=
  ((s.aqs.filter (fun x => decide (x.1 ≠ k) && aqValid x.2 && decide (aqOut x.2 = out))).map (fun x => aqRate x.2)).sum

/-- AQ_SHARE_LIMIT per cent of 100 GB/s, in tenths of GB/s. -/
def aqLimit (s : State) : Nat := 10 * getE s 0x2030 0x01

/-- The condition of 10 R320 that an entry breaks, if any. -/
def aqRefusal (s : State) (k : Nat) (e : BitVec 128) : Option Nat :=
  if aqFieldsOk (k / 256) e = false then some 0x0302
  else if aqValid e ∧ aqOut e < 32 ∧ aqLimit s < aqReserved s k (aqOut e) + aqRate e then some 0x0403
  else if (k / 256 = 32 ∨ k / 256 = 33 ∨ aqOut e = 0x21) ∧ aqTag e ≠ s.jobTag then some 0x0502
  else none

/-- AQ_SET (10 R320). -/
def actAqSet (q : Req) (s : State) : Act :=
  let e := BitVec.ofNat 128 (getE s 0x2032 0x01)
  match aqRefusal s q.value e with
  | some c => .refuse c s
  | none => .done { s with aqs := tput 0 s.aqs q.value e }

def execAqSet (q : Req) (s : State) : Res := run s (serveWrite 0x2032 0x02 q (actAqSet q))

/-- Packets of an entry are queued at this package. -/
def aqQueued (s : State) (k : Nat) : Bool :=
  let e := aqOf s k
  let here (q : QItem) (id : Nat) : Bool := match q.body with | .aqueduct a => decide (a.aqueduct = id) | _ => false
  !(tget [] s.aqQ k).isEmpty || (decide (k / 256 < 32) && (portOf s (k / 256)).rx.any (fun q => here q (k % 256))) ||
    s.bridgeQ.any (fun x => decide (34 + x.1 = k / 256) && here x.2 (k % 256)) ||
    (decide (aqOut e < 32) && (portOf s (aqOut e)).outQ.any (fun q => decide (q.inPort = k / 256) && here q (aqOutId e)))

/-- AQ_CLEAR (10 R320). -/
def actAqClear (q : Req) (s : State) : Act :=
  if 36 ≤ q.value / 256 then .refuse 0x0302 s
  else if aqQueued s q.value then .refuse 0x0601 s
  else
    let e := aqOf s q.value
    .done { s with aqs := tput 0 s.aqs q.value (if aqValid e then e - BitVec.ofNat 128 (2 ^ 82) else e) }

def execAqClear (q : Req) (s : State) : Res := run s (serveWrite 0x2032 0x03 q (actAqClear q))

/-- AQ_SHARE_LIMIT (10 R338): a value below what is already reserved on a port is refused with BUSY. -/
def actAqShare (q : Req) (s : State) : Act :=
  if (List.range 32).any (fun p => decide (10 * q.value < aqReserved s (2 ^ 64) p)) then .refuse 0x0601 s
  else .done (setE s 0x2030 0x01 q.value)

/-- An aqueduct packet ends here: memory by SEQ, or the millrace or mortar that posted the transfer; a packet of another job
is discarded (10 R321). -/
def aqDeliver (s : State) (k inPort : Nat) (e : BitVec 128) (a : AqPacket) : State :=
  if aqTag e ≠ s.jobTag then (if inPort < 32 then count s (0xA100 + inPort) 0x57 else s)
  else if aqEnd e = 2 then memWrite s (aqAddr e + 8192 * a.seq) a.payload
  else { s with aqGot := tins s.aqGot k (tget [] s.aqGot k ++ [a]) }

/-- AQUEDUCT_PACKET (10 R321): a packet at an in-port is forwarded by its entry, or placed at its endpoint; the injecting unit
keeps to RATE with bursts of 16 KiB, and a packet beyond that waits. -/
def execAqueductPacket (inPort : Nat) (a : AqPacket) (s : State) : Res := run s fun s =>
  let w := inWythe inPort
  let k := aqKey inPort a.aqueduct
  let e := aqOf s k
  let item : QItem := { vc := bodyVc (.aqueduct a), inPort := inPort, losses := 0, body := .aqueduct a }
  let held := if inPort < 32 then (portOf s inPort).rx.any (fun q => q.body == .aqueduct a)
    else if inPort < 34 then true else s.bridgeQ.any (fun x => x.1 == w && x.2.body == .aqueduct a)
  let injects := decide (32 ≤ inPort) && decide (inPort < 34)
  let taken := aqTaken s s.aqSent k (aqRate e) + 10 * bodyBytes (.aqueduct a)
  if held = false ∨ 36 ≤ inPort ∨ s.switchDead.contains w ∨ (injects ∧ aqValid e ∧ 163840 < taken) then s
  else
    let s := if injects ∧ aqValid e then { s with aqSent := tput (0, 0) s.aqSent k (taken, now s) } else s
    let s :=
      if inPort < 32 then
        freeCredits (setPort s inPort { portOf s inPort with rx := (portOf s inPort).rx.eraseP (fun q => q.body == .aqueduct a) })
          inPort item
      else if inPort < 34 then { s with aqQ := tput [] s.aqQ k ((tget [] s.aqQ k).erase a) }
      else { s with bridgeQ := s.bridgeQ.eraseP (fun x => x.1 == w && x.2.body == .aqueduct a) }
    let lost (t : State) : State := if inPort < 32 then count t (0xA100 + inPort) 0x56 else t
    let b := FrameBody.aqueduct { a with aqueduct := aqOutId e }
    if aqValid e = false then lost s
    else if aqOut e = 0x21 then aqDeliver s k inPort e a
    else if aqOut e = 0x20 then
      { countBridge s w (bodyBytes b) with bridgeQ := s.bridgeQ ++ [(1 - w, { item with body := b, inPort := 35 - w })] }
    else if portInService s (aqOut e) then
      setPort s (aqOut e) { portOf s (aqOut e) with outQ := (portOf s (aqOut e)).outQ ++ [{ item with body := b }] }
    else lost s

/-! ### Routing tables and epochs (10 R322, R329 to R331) -/

/-- EPOCH_HELD (10 R331): packets of an epoch in switch buffers, output queues and replay buffers. -/
def epochHeld (s : State) (e : Nat) : Nat :=
  let here (b : FrameBody) : Nat := match b with | .routed p => b2n (decide (p.epoch = e)) | _ => 0
  (s.ports.map (fun x => (x.2.rx.map (fun q => here q.body)).sum + (x.2.outQ.map (fun q => here q.body)).sum +
    (x.2.replay.map (fun f => here f.body)).sum)).sum + (s.bridgeQ.map (fun x => here x.2.body)).sum +
    (s.injQ.map (fun x => b2n (decide (x.2.epoch = e)))).sum

/-- The rules of TABLE_STAGING (10 R322), `t` being its 640 bytes as a number. -/
def stagingOk (s : State) (t : Nat) : Bool :=
  let byte (i : Nat) : Nat := (t >>> (8 * i)) % 256
  let portOk (w c : Nat) (glob : Bool) : Bool := decide (c < 32) && decide (c / 16 = w) && (glob || !isGlobal c)
  (List.range 2).all (fun w =>
    (List.range 64).all (fun i =>
      let c := byte (320 * w + i)
      if i = gridPos s then decide (c = 0x21) else portOk w c false || decide (c = 0x20) || decide (c = 0x3F)) &&
    (List.range 256).all (fun i =>
      let c := byte (320 * w + 64 + i)
      if i = pondOf s then decide (c = 0x3F) else portOk w c true || decide (c = 0x20) || decide (c = 0x3F)))

/-- TABLE_INSTALL (10 R330). -/
def actTableInstall (e : Nat) (s : State) : Act :=
  let t := getE s 0x2050 0x01
  if 4 ≤ e ∨ stagingOk s t = false then .refuse 0x0302 s
  else if tlook s.tables e = some t then .done s
  else if 2 ≤ (s.tables.filter (fun x => x.1 != e)).length ∨ (epochLive s e ∧ getE s 0x2052 (e + 1) ≠ 0) then .refuse 0x0601 s
  else .done { setE s 0x2052 (e + 1) 0 with
    tables := tins s.tables e t, dropsSeen := s.dropsSeen.filter (fun d => d.1 != e) }

def execTableInstall (q : Req) (s : State) : Res := run s (serveWrite 0x2050 0x02 q (actTableInstall q.value))

/-- INJECT_EPOCH (10 R323, R330): stalled injectors go on under the new epoch. -/
def actInjectEpoch (e : Nat) (s : State) : Act :=
  if epochLive s e = false then .refuse 0x0302 s
  else
    let s := setE s 0x2050 0x03 e
    let waiting := s.stalledInj
    .done (forEach { s with stalledInj := [] } waiting (fun t x => inject t x.1 { x.2 with epoch := e }))

def execInjectEpoch (q : Req) (s : State) : Res := run s (serveWrite 0x2050 0x03 q (actInjectEpoch q.value))

/-- TABLE_RETIRE (10 R330). -/
def actTableRetire (e : Nat) (s : State) : Act :=
  if epochLive s e = false then .done s
  else if getE s 0x2050 0x03 = e then .refuse 0x0302 s
  else if epochHeld s e ≠ 0 then .refuse 0x0601 s
  else .done { s with tables := tdel s.tables e }

def execTableRetire (q : Req) (s : State) : Res := run s (serveWrite 0x2050 0x04 q (actTableRetire q.value))

/-! ### Epoch steps of the pond (10 R332, R334) -/

/-- An epoch operation as though the package's own entry had been written: 1 install, 2 flip, 3 poll, 4 retire. -/
def epochOp (op e : Nat) (s : State) : State × Nat :=
  let a := if op = 1 then actTableInstall e s else if op = 2 then actInjectEpoch e s
    else if op = 4 then actTableRetire e s else .done s
  match a with
  | .done t => (t, 0)
  | .later t => (t, 0)
  | .refuse c t => (t, c)

/-- The step ends: STEP_STATE and SILENT_MASK (10 R332). -/
def finishEpochStep (s : State) (x : EpochStep) : State :=
  let s := setE { s with epochStep := none } 0x2056 0x02 (if x.silent.isEmpty then 2 else 3)
  setE s 0x2056 0x03 (x.silent.foldl setBit 0)

/-- An answer counts as accepted; for a poll, only if the member injects another epoch. -/
def epochAccepted (op e : Nat) (accepted : Bool) (injecting : Nat) : Bool := accepted && (decide (op ≠ 3) || decide (injecting ≠ e))

/-- POND_EPOCH_STEP (10 R332). -/
def actEpochStep (q : Req) (s : State) : Act :=
  let op := q.value / 256
  let e := q.value % 4
  if isKeystone s = false then .refuse 0x0502 s
  else if getE s 0x2056 0x02 = 1 then .refuse 0x0601 s
  else if op = 0 ∨ 4 < op then .refuse 0x0302 s
  else
    let own := gridPos s
    let (s, code) := epochOp op e s
    let members := (List.range 64).filter (fun p => bit p (getE s 0x2056 0x07) && decide (p ≠ own))
    let s := setE (setE s 0x2056 0x02 1) 0x2056 0x03 0
    let s := if op = 3 then setE (setE s 0x2056 0x04 (getE s 0x2052 (e + 1))) 0x2056 0x05 (epochHeld s e) else s
    let s := forEach s members (fun t p => sendMgmt t p (.epochOp p op e))
    let x : EpochStep :=
      { op := op, epoch := e, waiting := members, silent := if epochAccepted op e (code == 0) (getE s 0x2050 0x03) then [] else [own] }
    .done (if members.isEmpty then finishEpochStep s x else { s with epochStep := some x })

/-- The row names the operation; a write of another defined operation is another row's command. -/
def epochStepRow (op : Nat) (q : Req) (s : State) : State :=
  if 1 ≤ q.value / 256 ∧ q.value / 256 ≤ 4 ∧ q.value / 256 ≠ op then s else serveWrite 0x2056 0x01 q (actEpochStep q) s

def execEpochStepInstall (q : Req) (s : State) : Res := run s (epochStepRow 1 q)
def execEpochStepFlip (q : Req) (s : State) : Res := run s (epochStepRow 2 q)
def execEpochStepPoll (q : Req) (s : State) : Res := run s (epochStepRow 3 q)
def execEpochStepRetire (q : Req) (s : State) : Res := run s (epochStepRow 4 q)

/-- The command comes from the package at the recorded keystone position; any other is refused and counted (01 R30). -/
def fromKeystone (s : State) (pos : Nat) : Bool := decide (getE s 0x2010 0x01 ≠ 0xFF) && decide (pos = getE s 0x2010 0x01)

/-- EPOCH_STEP_MEMBER (10 R332, R334, 01 R30): the member acts and answers with its injection epoch, EPOCH_IN and
EPOCH_HELD; to a package that is not its keystone it answers NOT_AUTHORISED. -/
def execEpochStepMember (fromPos op epoch : Nat) (s : State) : Res := run s fun s =>
  if firmwareUp s = false then s
  else if fromKeystone s fromPos = false then
    sendMgmt (count s 0x8040 0x01) fromPos (.epochAnswer 0x0502 (getE s 0x2050 0x03) 0 0)
  else
    let e := epoch % 4
    let (t, code) := if op = 0 ∨ 4 < op then (s, 0x0302) else epochOp op e s
    sendMgmt t fromPos (.epochAnswer code (getE t 0x2050 0x03) (getE t 0x2052 (e + 1)) (epochHeld t e))

/-- EPOCH_STEP_ANSWER (10 R332). -/
def execEpochStepAnswer (pos : Nat) (accepted : Bool) (injecting epochIn epochHeld : Nat) (s : State) : Res := run s fun s =>
  match s.epochStep with
  | none => s
  | some x =>
    if x.waiting.contains pos = false then s
    else
      let s := if x.op = 3 then
        setE (setE s 0x2056 0x04 ((getE s 0x2056 0x04 + epochIn) % 2 ^ 64)) 0x2056 0x05 ((getE s 0x2056 0x05 + epochHeld) % 2 ^ 64)
        else s
      let y := { x with
        waiting := x.waiting.erase pos,
        silent := if epochAccepted x.op x.epoch accepted injecting then x.silent else x.silent ++ [pos] }
      if y.waiting.isEmpty then finishEpochStep s y else { s with epochStep := some y }

/-- EPOCH_STEP_TIMEOUT (10 R332). -/
def execEpochStepTimeout (s : State) : Res := run s fun s =>
  match s.epochStep with
  | none => s
  | some x => finishEpochStep s { x with silent := x.silent ++ x.waiting }

end Sys2Proof.Machine
end

