-- ==== Sys2Proof/Machine/Vector.lean ====
section
/-! DEFINITION. The vector chain of a stone (08): the function menu, stage descriptors, streams, runs and reductions, and
the scalar registers. -/

namespace Sys2Proof.Machine

/-! ### The function menu (08 R258 to R261) -/

/-- Operands that a function takes: 0 where the code is reserved. -/
def funcArity (f : Nat) : Nat :=
  match f with
  | 0x00 | 0x07 | 0x08 | 0x0A => 1
  | 0x01 | 0x02 | 0x03 | 0x05 | 0x06 => 2
  | 0x04 | 0x09 => 3
  | 0x10 | 0x11 | 0x12 | 0x13 | 0x14 => 1
  | 0x18 | 0x1A | 0x1B | 0x1C => 1
  | 0x19 => 2
  | 0x20 | 0x21 | 0x22 => 1
  | _ => 0

/-- The function is a reduction. -/
def isReduction (f : Nat) : Bool := decide (0x20 ≤ f) && decide (f ≤ 0x22)

/-- The function may stand at the stage (08 R258). -/
def funcAt (f stage : Nat) : Bool :=
  decide (funcArity f ≠ 0) &&
    (if isReduction f then decide (stage = 4) || decide (stage = 7)
     else if 0x10 ≤ f then decide (stage = 1) || decide (stage = 3) || decide (stage = 5)
     else true)

/-- A negative number; −0 is none. -/
def isNegF (x : BitVec 32) : Bool := x.msb && !isZeroF x

/-- The value of a function, its clamps, and 1 where an operand lies outside its domain. -/
def evalFunc (f : Nat) (x y z : BitVec 32) : FR × Nat :=
  let a := funcArity f
  if isSpecial x || (decide (2 ≤ a) && isSpecial y) || (decide (3 ≤ a) && isSpecial z) then (openF f x y z, 0)
  else match f with
  | 0x01 => (fadd x y, 0)
  | 0x02 => (fsub x y, 0)
  | 0x03 => (fmul x y, 0)
  | 0x04 => (ffma x y z, 0)
  | 0x05 => (fmax x y, 0)
  | 0x06 => (fmin x y, 0)
  | 0x07 => ((x &&& 0x7FFFFFFF, 0), 0)
  | 0x08 => ((negF x, 0), 0)
  | 0x09 => (fmin (fmax x y).1 z, 0)
  | 0x0A => ((bf16ToF (roundBf16 x).1, (roundBf16 x).2), 0)
  | 0x10 => (expX x, 0)
  | 0x11 => (sigmoidF x, 0)
  | 0x12 => (siluF x, 0)
  | 0x13 => (tanhF x, 0)
  | 0x14 => (geluF x, 0)
  | 0x18 => if isZeroF x then ((withSign x FLT_MAX, 0), 1) else (fdiv fpOne x, 0)
  | 0x19 =>
    if isZeroF y = false then (fdiv x y, 0)
    else if isZeroF x then ((0, 0), 1)
    else ((withSign (x ^^^ y) FLT_MAX, 0), 1)
  | 0x1A => if isZeroF x then ((x, 0), 0) else if isNegF x then ((0, 0), 1) else (sqrtPos x, 0)
  | 0x1B => if isZeroF x then ((FLT_MAX, 0), 1) else if isNegF x then ((0, 0), 1) else (rsqrtPos x, 0)
  | 0x1C => if isZeroF x || isNegF x then ((negFltMax, 0), 1) else (logPos x, 0)
  | _ => ((x, 0), 0)

/-! ### Stage descriptors (08 R256, R257) -/

def dFunc (d : BitVec 64) : Nat := bits 63 58 d.toNat
/-- Source codes of X, Y and Z. -/
def dSrc (d : BitVec 64) (i : Nat) : Nat := bits (57 - 3 * i) (55 - 3 * i) d.toNat
def dTap (d : BitVec 64) : Nat := bits 48 46 d.toNat
def dSreg (d : BitVec 64) : Nat := bits 45 43 d.toNat
def dImm (d : BitVec 64) : BitVec 32 := d.setWidth 32

/-- Source codes of the operands that the function takes. -/
def dSrcs (d : BitVec 64) : List Nat := (List.range (funcArity (dFunc d))).map (dSrc d)

/-- The stage's own checks (08 R264): the function allowed there, source codes valid and 0 where unused, TAP below the stage
where a source reads it, reserved bits zero; a reduction reads no scalar register (R257). -/
def stageOk (i : Nat) (d : BitVec 64) : Bool :=
  funcAt (dFunc d) i && decide (bits 42 32 d.toNat = 0) && (dSrcs d).all (fun c => decide (c ≤ 5)) &&
    (List.range 3).all (fun j => decide (j < funcArity (dFunc d)) || decide (dSrc d j = 0)) &&
    (!(dSrcs d).contains 3 || decide (dTap d < i)) && !(isReduction (dFunc d) && (dSrcs d).contains 4)

/-- Scalar registers that a configuration's reductions write, and those that its stages read. -/
def cfgWrites (cfg : List (BitVec 64)) : List Nat := (cfg.filter (fun d => isReduction (dFunc d))).map dSreg

def cfgReads (cfg : List (BitVec 64)) : List Nat := (cfg.filter (fun d => (dSrcs d).contains 4)).map dSreg

/-- The checks of CONFIGURE (08 R264). -/
def cfgOk (cfg : List (BitVec 64)) : Bool :=
  (List.range cfg.length).all (fun i => stageOk i (nth 0 cfg i)) && decide ((cfgWrites cfg).Nodup)

/-- Stage 0 reads stream A through source code 0; a stage reads stream A or B through source codes 1 and 2 (08 R257). -/
def cfgReadsA (cfg : List (BitVec 64)) : Bool :=
  cfg.any (fun d => (dSrcs d).contains 1) || (match cfg with | d :: _ => (dSrcs d).contains 0 | [] => false)

def cfgReadsB (cfg : List (BitVec 64)) : Bool := cfg.any (fun d => (dSrcs d).contains 2)

/-! ### Operand fields of RUN (08 R266) -/

def vA (o : Operands) : Nat := fld 95 94 o
def vB (o : Operands) : Nat := fld 93 92 o
def vO (o : Operands) : Nat := fld 91 90 o
def vSlot (o : Operands) : Nat := fld 89 89 o

/-- Bytes of one element of a format: FP32, BF16, A8, no stream. -/
def elemBytes (fmt : Nat) : Nat := nth 0 [4, 2, 1, 0] fmt

/-- The registers of a run: A, B, O and SC. -/
def vRegs (s : State) (st : Nat) (o : Operands) : List (BitVec 32) :=
  [reg s st (fld 111 108 o), reg s st (fld 107 104 o), reg s st (fld 103 100 o), reg s st (fld 99 96 o)]

def vScale (r : List (BitVec 32)) : Nat := (nth 0 r 3).toNat % 2 ^ 18

/-- The SRAM ranges of a stream: its elements, and the exponents of an A8 stream (08 R262). -/
def streamRanges (fmt off scale vl : Nat) : List (Nat × Nat) :=
  if fmt = 3 then [] else (off, vl * elemBytes fmt) :: (if fmt = 2 then [(off + scale, vl / 32)] else [])

/-- Streams of a run: A, B and the output as (format, offset). -/
def vStreams (o : Operands) (r : List (BitVec 32)) : List (Nat × Nat) :=
  [(vA o, (nth 0 r 0).toNat), (vB o, (nth 0 r 1).toNat), (vO o, (nth 0 r 2).toNat)]

def vSrcRanges (o : Operands) (r : List (BitVec 32)) (vl : Nat) : List (Nat × Nat) :=
  streamRanges (vA o) (nth 0 r 0).toNat (vScale r) vl ++ streamRanges (vB o) (nth 0 r 1).toNat (vScale r) vl

def vDstRanges (o : Operands) (r : List (BitVec 32)) (vl : Nat) : List (Nat × Nat) :=
  streamRanges (vO o) (nth 0 r 2).toNat (vScale r) vl

/-- The run is in place: its output starts at stream A's offset with the same element size (08 R267). -/
def vInPlace (o : Operands) (r : List (BitVec 32)) : Bool :=
  decide (vO o ≠ 3) && decide (vA o ≠ 3) && decide (elemBytes (vA o) = elemBytes (vO o)) && (nth 0 r 0 == nth 0 r 2)

/-- The checks before a run issues (08 R267). -/
def runOk (cfg : List (BitVec 64)) (o : Operands) (r : List (BitVec 32)) (vl : Nat) : Bool :=
  let ss := vStreams o r
  ss.all (fun p =>
    (streamRanges p.1 p.2 (vScale r) vl).all (fun x => inSram x.1 x.2) &&
      decide (p.2 % (nth 1 [4, 2, 8, 1] p.1) = 0 ∧ (p.1 = 3 ∨ p.2 < 2 ^ 18))) &&
    (!cfgReadsA cfg || decide (vA o ≠ 3)) && (!cfgReadsB cfg || decide (vB o ≠ 3)) &&
    (!(ss.any (fun p => p.1 == 2)) || (decide (vl % 32 = 0) && !flag 88 o)) &&
    (vInPlace o r || !meetAny (vDstRanges o r vl) (streamRanges (vA o) (nth 0 r 0).toNat (vScale r) vl)) &&
    !meetAny (vDstRanges o r vl) (streamRanges (vB o) (nth 0 r 1).toNat (vScale r) vl)

/-! ### Scalar registers -/

def scalarsOf (x : Stone) : List (BitVec 32) := (List.range 8).map (fun i => tget 0 x.scalars i)

def setScalar (x : Stone) (i : Nat) (v : BitVec 32) : Stone := { x with scalars := tput 0 x.scalars i v }

def cfgOf (x : Stone) (slot : Nat) : List (BitVec 64) := tget [] x.cfg slot

/-- A run in flight has yet to write a scalar register of the list (08 R268). -/
def scalarBusy (x : Stone) (rs : List Nat) : Bool := x.vruns.any (fun v => (cfgWrites v.cfg).any (fun w => rs.contains w))

/-- A value of the reading side of 08 R268: the instruction waits, or has its effect. -/
def afterScalars (s : State) (st : Nat) (rs : List Nat) (k : State → State) : State :=
  if scalarBusy (stoneOf s st) rs then stallOn s st .scalar else k s

/-! ### Streams and stages -/

/-- Element `i` of an input stream, with its clamps and 1 for a NaN or an infinity (08 R262). -/
def inElem (s : State) (st fmt off scale i : Nat) : FR × Nat :=
  match fmt with
  | 0 =>
    let x := BitVec.ofNat 32 (sramNat s st (off + 4 * i) 4)
    if isSpecial x then ((0, 0), 1) else ((x, 0), 0)
  | 1 =>
    let x := bf16ToF (BitVec.ofNat 16 (sramNat s st (off + 2 * i) 2))
    if isSpecial x then ((0, 0), 1) else ((x, 0), 0)
  | 2 =>
    let e := sramNat s st (off + scale + i / 32) 1
    if e = 0xFF then ((0, 0), 0) else (roundF (signed 8 (sramNat s st (off + i) 1), (e : Int) - 127), 0)
  | _ => ((0, 0), 0)

/-- The value that source code `c` gives at a stage, `outs` being the outputs of the earlier stages (08 R257). -/
def srcValue (d : BitVec 64) (scalars outs : List (BitVec 32)) (a b : BitVec 32) (c : Nat) : BitVec 32 :=
  match c with
  | 0 => match outs.getLast? with | some v => v | none => a
  | 1 => a
  | 2 => b
  | 3 => nth 0 outs (dTap d)
  | 4 => nth 0 scalars (dSreg d)
  | _ => dImm d

/-- One element through the stages: the outputs of every stage, the clamps and the domain count (08 R255). -/
def throughStages (scalars : List (BitVec 32)) (a b : BitVec 32) (cfg : List (BitVec 64)) : List (BitVec 32) × Nat × Nat :=
  cfg.foldl (fun acc d =>
    let v (j : Nat) : BitVec 32 := srcValue d scalars acc.1 a b (dSrc d j)
    let r := evalFunc (dFunc d) (v 0) (v 1) (v 2)
    (acc.1 ++ [r.1.1], acc.2.1 + r.1.2, acc.2.2 + r.2)) ([], 0, 0)

/-- The operation of a reduction and its identity (08 R263). -/
def redOp (f : Nat) : BitVec 32 → BitVec 32 → FR := if f = 0x20 then fadd else if f = 0x21 then fmax else fmin

def redId (f : Nat) : BitVec 32 := if f = 0x20 then 0 else if f = 0x21 then negFltMax else FLT_MAX

/-- A reduction over the elements of a stage, in the fixed order of 08 R263, with its clamps. -/
def reduceF (f : Nat) (xs : List (BitVec 32)) : FR :=
  let lane (l : Nat) : FR :=
    (List.range (cdiv (xs.length - l) 32)).foldl (fun (p : FR) j =>
      let r := redOp f p.1 (nth 0 xs (32 * j + l))
      (r.1, p.2 + r.2)) (redId f, 0)
  let ls := (List.range 32).map lane
  let t := treeF (redOp f) 5 (ls.map (·.1))
  (t.1, t.2 + (ls.map (·.2)).sum)

/-- The output of a run as (offset, bytes) pieces, with its clamps and saturations (08 R262). -/
def outPieces (fmt off scale : Nat) (ys : List (BitVec 32)) : List (Nat × List Byte) × Nat × Nat :=
  match fmt with
  | 0 => ([(off, ys.flatMap (fun y => toLE 4 y.toNat))], 0, 0)
  | 1 =>
    let rs := ys.map roundBf16
    ([(off, rs.flatMap (fun r => toLE 2 r.1.toNat))], (rs.map (·.2)).sum, 0)
  | 2 =>
    let qs := (chunksOf 32 ys.length ys).map (fun b => quantBlock (-128) 127 (b.map finVal) (b.map (fun _ => true)))
    ([(off, qs.flatMap (fun q => q.1.map (fun v => BitVec.ofInt 8 v))), (off + scale, qs.map (fun q => BitVec.ofNat 8 q.2.1))],
      0, (qs.map (fun q => q.2.2.2)).sum)
  | _ => ([], 0, 0)

/-- The range of a run's output and the registers of its reductions hold no valid result: free values (08 R274). -/
def spoilRun (s : State) (st : Nat) (dsts : List (Nat × Nat)) (rs : List Nat) : State :=
  let s := fresh s
  let n := s.nonce
  let s := forEach s dsts (fun t d => sramWrite t st d.1 (outsideBytes t d.1 d.2))
  modStone s st (fun x => rs.foldl (fun y i => setScalar y i (BitVec.ofNat 32 (Config.undefinedValue (n + i)))) x)

/-- The outcome of a run whose configuration holds stages (08 R255, R262, R263). -/
def finishRun (s : State) (st : Nat) (v : VRun) : State :=
  let off (i : Nat) : Nat := (nth 0 v.regs i).toNat
  let ins := (List.range v.vl).map (fun i =>
    (inElem s st (vA v.o) (off 0) (vScale v.regs) i, inElem s st (vB v.o) (off 1) (vScale v.regs) i))
  let els := ins.map (fun p => throughStages v.scalars p.1.1.1 p.2.1.1 v.cfg)
  let reds := ((List.range v.cfg.length).filter (fun i => isReduction (dFunc (nth 0 v.cfg i)))).map (fun i =>
    (dSreg (nth 0 v.cfg i), reduceF (dFunc (nth 0 v.cfg i)) (els.map (fun e => nth 0 e.1 i))))
  let outp := outPieces (vO v.o) (off 2) (vScale v.regs) (els.map (fun e => (e.1.getLast?).getD 0))
  let specials := (ins.map (fun p => p.1.2 + p.2.2)).sum
  let clamps := (ins.map (fun p => p.1.1.2 + p.2.1.2)).sum + (els.map (fun e => e.2.1)).sum + (reds.map (fun r => r.2.2)).sum +
    outp.2.1
  let s := forEach s outp.1 (fun t p => sramWrite t st p.1 p.2)
  let s := modStone s st (fun x => reds.foldl (fun y r => setScalar y r.1 r.2.1) x)
  let s := countBy (countBy (countBy (countBy s 0xA058 4 clamps) 0xA058 5 specials) 0xA058 6 (els.map (fun e => e.2.2)).sum)
    0xA054 8 outp.2.2
  stoneFaults s 0 0x07 st (16 * v.pc) specials

/-! ### The instructions -/

/-- CONFIGURE (08 R264, R265). -/
def execConfigure (st : Nat) (h : IHdr) (o : Operands) (s : State) : Res := run s fun s =>
  let off := (reg s st (fld 111 108 o)).toNat
  let n := fld 107 105 o + 1
  let slot := fld 104 104 o
  issue s st (headerOk h false && onlyFields [(111, 104)] o) [(off, 8 * n)] [] fun s =>
    if (stoneOf s st).vruns.any (fun v => vSlot v.o == slot) then stallOn s st .config
    else if inSram off (8 * n) = false ∨ off % 8 ≠ 0 then failStone s st 0x05
    else readRanges s st [(off, 8 * n)] [] fun s =>
      let cfg := (List.range n).map (fun i => BitVec.ofNat 64 (sramNat s st (off + 8 * i) 8))
      if cfgOk cfg = false then failStone s st 0x04
      else completeNow (modStone s st (fun x => { x with cfg := tput [] x.cfg slot cfg })) st h

/-- POST_INC (08 R266): after the run, VL × element size is added to the register of each stream present. -/
def postInc (s : State) (st : Nat) (o : Operands) (vl : Nat) : State :=
  if flag 88 o = false then s
  else modStone s st (fun x =>
    [(fld 111 108 o, vA o), (fld 107 104 o, vB o), (fld 103 100 o, vO o)].foldl (fun y p =>
      setAreg y p.1 (aregOf y p.1 + BitVec.ofNat 32 (vl * elemBytes p.2))) x)

/-- A run of the chain issues (08 R266 to R268, R273, R274). -/
def execVectorRun (st : Nat) (h : IHdr) (o : Operands) (rd : SramRead) (parityOk : Bool) (s : State) : Res := run s fun s =>
  let x := stoneOf s st
  let r := vRegs s st o
  let cfg := cfgOf x (vSlot o)
  let srcs := vSrcRanges o r x.vl
  let dsts := vDstRanges o r x.vl
  issue s st (headerOk h false && onlyFields [(111, 88)] o) srcs dsts fun s =>
    afterScalars s st (cfgReads cfg) fun s =>
      if parityOk = false then failStone s st 0x0E
      else if runOk cfg o r x.vl = false then failStone s st 0x05
      else
        let t := readSram s st rd srcs dsts fun s =>
          let v : VRun := { pc := x.pc, o := o, vl := x.vl, scalars := scalarsOf x, regs := r, cfg := cfg, signal := sigOf h }
          modStone (takeSlot s st 2 srcs dsts h) st (fun y => { y with vruns := y.vruns ++ [v] })
        if (stoneOf t st).run = .stopped then spoilRun t st dsts (cfgWrites cfg) else t

/-- The oldest run of the chain ends (08 R263, R266, R276); `busy` is its time in core cycles. -/
def execVectorRunComplete (st : Nat) (busy : Nat) (s : State) : Res := run s fun s =>
  match (stoneOf s st).vruns with
  | [] => s
  | v :: rest =>
    let s := modStone s st (fun x => { x with vruns := rest })
    let s := if v.cfg = [] then spoilRun s st (vDstRanges v.o v.regs v.vl) [] else finishRun s st v
    let s := countBy (countBy (count (postInc s st v.o v.vl) 0xA058 1) 0xA058 2 (cdiv v.vl 32)) 0xA058 3 busy
    completeSlot s st v.pc 2 v.signal

/-- SCALAR_SET (08 R269). -/
def execScalarSet (st : Nat) (h : IHdr) (o : Operands) (s : State) : Res := run s fun s =>
  issue s st (headerOk h false && onlyFields [(111, 109), (31, 0)] o) [] [] fun s =>
    completeNow (modStone s st (fun x => setScalar x (fld 111 109 o) (BitVec.ofNat 32 (fld 31 0 o)))) st h

/-- The registers that SCALAR_FUNC reads, and its operand checks (08 R269). -/
def scalarArgs (o : Operands) : List Nat := [fld 102 100 o, fld 99 97 o, fld 96 94 o].take (funcArity (fld 108 103 o))

def scalarFuncOk (o : Operands) : Bool :=
  let a := funcArity (fld 108 103 o)
  decide (a ≠ 0) && !isReduction (fld 108 103 o) && (decide (2 ≤ a) || decide (fld 99 97 o = 0)) &&
    (decide (3 ≤ a) || decide (fld 96 94 o = 0))

/-- SCALAR_FUNC (08 R269): S[DST] := FUNC(S[X], S[Y], S[Z]). -/
def execScalarFunc (st : Nat) (h : IHdr) (o : Operands) (s : State) : Res := run s fun s =>
  issue s st (headerOk h false && onlyFields [(111, 94)] o && scalarFuncOk o) [] [] fun s =>
    afterScalars s st (scalarArgs o) fun s =>
      let v (i : Nat) : BitVec 32 := tget 0 (stoneOf s st).scalars i
      let r := evalFunc (fld 108 103 o) (v (fld 102 100 o)) (v (fld 99 97 o)) (v (fld 96 94 o))
      let s := countBy (countBy s 0xA058 4 r.1.2) 0xA058 6 r.2
      completeNow (modStone s st (fun x => setScalar x (fld 111 109 o) r.1.1)) st h

/-- SCALAR_STORE (08 R269): S0 to S7 as 32 bytes. -/
def execScalarStore (st : Nat) (h : IHdr) (o : Operands) (s : State) : Res := run s fun s =>
  let off := (reg s st (fld 111 108 o)).toNat
  issue s st (headerOk h false && onlyFields [(111, 108)] o) [] [(off, 32)] fun s =>
    afterScalars s st (List.range 8) fun s =>
      if inSram off 32 = false ∨ off % 8 ≠ 0 then failStone s st 0x05
      else completeNow (sramWrite s st off ((scalarsOf (stoneOf s st)).flatMap (fun v => toLE 4 v.toNat))) st h

/-- SCALAR_LOAD (08 R269): S0 to S7 from 32 bytes. -/
def execScalarLoad (st : Nat) (h : IHdr) (o : Operands) (s : State) : Res := run s fun s =>
  let off := (reg s st (fld 111 108 o)).toNat
  issue s st (headerOk h false && onlyFields [(111, 108)] o) [(off, 32)] [] fun s =>
    if inSram off 32 = false ∨ off % 8 ≠ 0 then failStone s st 0x05
    else readRanges s st [(off, 32)] [] fun s =>
      let vs := (List.range 8).map (fun i => BitVec.ofNat 32 (sramNat s st (off + 4 * i) 4))
      completeNow (modStone s st (fun x => (List.range 8).foldl (fun y i => setScalar y i (nth 0 vs i)) x)) st h

end Sys2Proof.Machine
end

