-- ==== Sys2Proof/Machine/Loader.lean ====
section
/-! DEFINITION. The loader (13 R423, R424; 05 R174, R176, R190, R194; 02 R44; 03 R70, R86, R99; 04 R129, R160; 07 R242; 09 R278,
R281; 10 R320; 12 R383, R398). -/

namespace Sys2Proof.Machine

/-- LOAD_STATUS and LOAD_DETAIL of a load that ended at check `n` (13 R423). -/
def loadRecord (s : State) (slot n code detail : Nat) : State :=
  setE (setE s 0x5030 0x02 (code * 2 ^ 16 + n * 2 ^ 8 + slot)) 0x5030 0x03 detail

/-- A refused load: its record and counter. -/
def loadRefused (s : State) (slot n code detail : Nat) : State := count (loadRecord s slot n code detail) 0xA090 0x02

/-- Programs may be loaded (13 R423 check 1). -/
def loadMode (s : State) : Bool := decide (s.mode = .configured) || decide (s.mode = .ready) || decide (s.mode = .running)

/-- LOAD: the checks that need no image; the loader then reads it (13 R423). -/
def actLoad (q : Req) (s : State) : Act :=
  let v := q.value
  let slot := bits 31 24 v
  if loadMode s = false then .refuse 0x0101 (loadRefused s slot 1 0x0101 0)
  else if (ctxOf s slot).state ≠ .empty ∨ s.loading.isSome then .refuse 0x0601 (loadRefused s slot 2 0x0601 0)
  else if bits 21 0 v ≠ 0 ∨ bits 127 64 v % 4096 ≠ 0 then .refuse 0x0302 (loadRefused s slot 3 0x0302 0)
  else
    let s := modCtx { s with loading := some { slot := slot, cls := bits 22 22 v, lengthKib := bits 63 32 v } } slot
      (fun x => { x with state := .loading })
    .later (if bit 23 v then readHost s (bits 127 64 v) (bits 63 32 v * 1024) else s)

def execLoad (q : Req) (s : State) : Res := run s (serveWrite 0x5030 0x01 q (actLoad q))

/-! ### The stone map (05 R194) -/

/-- A run of consecutive stones: first stone and span. -/
def runStones (r : Nat × Nat) : List Nat := (List.range (2 ^ r.2)).map (· + r.1)

/-- The runs that placement records of this package and object windows name, the largest of each nest. -/
def imgRuns (s : State) (i : Image) : List (Nat × Nat) :=
  let rs := ((i.layers.flatMap (fun n => n.blocks.flatMap (fun b => (b.2.filter (fun r => r.valid && r.pkg == pkgId s)).map
      (fun r => (r.firstStone, r.span))))) ++
    ((i.objects.filter (fun o => o.valid && o.mode != 2)).map (fun o => (o.firstStone, o.span)))).dedup
  rs.filter (fun r => rs.all (fun t => r == t || decide (t.2 < r.2) || !(decide (t.1 ≤ r.1) && decide (r.1 + 2 ^ r.2 ≤ t.1 + 2 ^ t.2))))

/-- Logical stones that the image uses. -/
def imgStones (s : State) (i : Image) : List Nat := (i.stones.map (·.stone) ++ (imgRuns s i).flatMap runStones).dedup

/-- The lowest-numbered target run of 2^span stones from `lo` to `lo + n`, all working and unused. -/
def spareRun (s : State) (used : List Nat) (lo n span : Nat) : Option Nat :=
  ((List.range (n / 2 ^ span)).map (fun k => lo + k * 2 ^ span)).find? (fun a =>
    (runStones (a, span)).all (fun st => !isFenced s st && !used.contains st))

/-- The physical place of a run: its own stones where they all work, else a run of the same course, else of the same bay. -/
def placeRun (s : State) (used : List Nat) (r : Nat × Nat) : Option Nat :=
  if (runStones r).all (fun st => !isFenced s st && decide (st < 4096)) then some r.1
  else if r.1 + 2 ^ r.2 > 4096 then none
  else (spareRun s used (r.1 / 64 * 64) 64 r.2).or (spareRun s used (r.1 / 256 * 256) 256 r.2)

/-- Runs are placed in order, each on stones that neither the image nor an earlier run uses. -/
def placeRuns (s : State) : List Nat → List (Nat × Nat) → Option (List (Nat × Nat))
  | _, [] => some []
  | used, r :: t =>
    match placeRun s used r with
    | none => none
    | some a =>
      (placeRuns s (used ++ runStones (a, r.2)) t).map (fun m =>
        (List.range (2 ^ r.2)).map (fun k => (r.1 + k, a + k)) ++ m)

/-- Logical to physical stones, or none where a stone has no place (05 R194). Runs before single stones, each by ascending
number (DESIGN CHOICE, log entry 61). -/
def mapImage (s : State) (i : Image) : Option (List (Nat × Nat)) :=
  let rs := sortBy (·.1) (imgRuns s i)
  let singles := (sortBy id (i.stones.map (·.stone)).dedup).filter (fun st => rs.all (fun r => !(runStones r).contains st))
  placeRuns s (imgStones s i) (rs ++ singles.map (fun st => (st, 0)))

/-! ### Instructions (05 R174, R176) -/

def wordHdr (w : BitVec 128) : IHdr :=
  { varying := bit 119 w.toNat, soc := bit 118 w.toNat, signalEn := bit 117 w.toNat, signalObj := bits 116 115 w.toNat,
    resv := bits 114 112 w.toNat }

def wordOps (w : BitVec 128) : Operands := w.setWidth 112

/-- Operand fields and static ranges of an instruction, by CLASS and OP; false for a reserved CLASS or OP. `len` is the
length of the stone's list and `regions` that of the bound table. -/
def wordFieldsOk (len regions c p : Nat) (o : Operands) : Bool :=
  match c, p with
  | 0, 0 | 0, 4 | 0, 5 | 0, 8 => onlyFields [] o
  | 0, 1 => onlyFields [(111, 109), (105, 102), (13, 0)] o && decide (fld 111 109 o ≤ 4) && decide (fld 13 0 o < len)
  | 0, 2 => onlyFields [(111, 108), (105, 102), (23, 0)] o
  | 0, 3 => onlyFields [(111, 109), (13, 0)] o && decide (fld 13 0 o < len)
  | 0, 6 => onlyFields [(47, 32)] o && decide (fld 47 32 o < regions)
  | 0, 7 => onlyFields [(111, 108), (107, 107), (16, 0)] o && (flag 107 o || decide (fld 16 0 o ≤ 65536))
  | 0, 9 => onlyFields [(111, 108), (107, 106), (105, 102), (31, 0)] o
  | 1, 0 => onlyFields [(111, 52)] o && comboOk false o
  | 1, 1 => onlyFields [(111, 52)] o && comboOk true o
  | 1, 2 => onlyFields [(111, 67)] o && compOk o
  | 2, 0 => onlyFields [(111, 104)] o
  | 2, 1 => onlyFields [(111, 88)] o
  | 2, 2 => onlyFields [(111, 109), (31, 0)] o
  | 2, 3 => onlyFields [(111, 94)] o && scalarFuncOk o
  | 2, 4 | 2, 5 => onlyFields [(111, 108)] o
  | 3, 0 | 3, 1 => onlyFields [(111, 92)] o && decide (fld 111 108 o % 2 = 0)
  | 3, 2 => onlyFields [(111, 92)] o && decide (fld 111 108 o % 2 = 0) && decide (fld 99 96 o ≤ 10) && (flag 94 o || !flag 93 o)
  | 3, 3 => onlyFields [] o
  | 3, 15 => onlyFields [(111, 108)] o
  | 4, 0 => onlyFields [(111, 108)] o
  | 5, 0 | 5, 1 | 5, 2 | 5, 3 | 5, 4 | 5, 5 => onlyFields [(111, 79), (31, 0)] o
  | 6, 0 | 6, 2 | 6, 5 | 6, 7 => onlyFields [(111, 104)] o
  | 6, 1 => onlyFields [(111, 88)] o
  | 6, 3 | 6, 4 => onlyFields [(15, 0)] o
  | 6, 6 => onlyFields [(111, 108)] o
  | 7, 0 => onlyFields [(111, 98)] o && !(flag 98 o && decide (fld 107 100 o = 0))
  | _, _ => false

/-- DEADLINE_POLICY that an image gives a layer. -/
def imgPolicy (i : Image) (n : Nat) : Nat := ((i.layers.find? (fun l => l.layer == n)).map (fun l => imgSet l 0x18 0)).getD 0

/-- VARYING agrees with 05 R176; a MEMORY store is not checked. -/
def wordVaryingOk (i : Image) (c p : Nat) (o : Operands) (v : Bool) : Bool :=
  match c, p with
  | 1, 0 => v == decide (pCplx o = 2)
  | 7, 0 => v == flag 99 o
  | 3, 2 => v == (flag 94 o && !flag 93 o)
  | 6, 1 => v == decide (imgPolicy i (fld 111 104 o) ≠ 0)
  | 3, 1 => true
  | _, _ => !v

/-- One instruction of a stone's list passes the loader's check. -/
def wordOk (i : Image) (t : ImgStone) (w : BitVec 128) : Bool :=
  let c := wordClass w
  let p := wordOp w
  let o := wordOps w
  let h := wordHdr w
  headerOk h (decide (c = 1) && decide (p ≤ 1)) && wordFieldsOk t.words.length i.regions.length c p o &&
    wordVaryingOk i c p o h.varying && (!(decide (c = 1) && decide (p ≤ 1)) || h.soc || decide (pHandle o = 0))

/-- An instruction that no non-preemptible region may hold (13 R424). -/
def regionForbids (w : BitVec 128) : Bool :=
  (decide (wordClass w = 5) && decide (wordOp w = 3)) || (decide (wordClass w = 3) && decide (wordOp w = 3)) ||
    decide (wordClass w = 7) || (decide (wordClass w = 0) && decide (wordOp w = 4)) || decide (wordClass w = 6)

/-- The regions of an instruction list, in its order: none nested, each with its end, none with a forbidden instruction. -/
def regionsOk : Bool → List (BitVec 128) → Bool
  | opened, [] => !opened
  | opened, w :: t =>
    if wordClass w = 0 ∧ wordOp w = 6 then !opened && regionsOk true t
    else if wordClass w = 0 ∧ wordOp w = 8 then regionsOk false t
    else !(opened && regionForbids w) && regionsOk opened t

/-- A region's declaration passes 13 R424. -/
def regionDeclOk (r : ImgRegion) : Bool :=
  (match r.bound with | some b => decide (b ≤ 1125000) | none => false) && !r.nested && r.ends && !r.forbidden

/-! ### Settings, tables, tiles and descriptors -/

/-- Every setting of the context's expert layers goes back to its default. -/
def clearLayers (s : State) (c : Nat) : State :=
  { s with ent := s.ent.filter (fun p => !(decide (p.1 / 2 ^ 24 = c) && decide (p.1 / 2 ^ 16 % 256 = 0x61))) }

/-- The loader writes the settings of the image's expert layers (02 R67). -/
def applyLayers (s : State) (c : Nat) (i : Image) : State :=
  forEach (clearLayers s c) i.layers (fun t l => forEach t l.settings (fun u p => setC u c (0x6100 + l.layer) p.1 p.2))

/-- A layer's settings lie within the ranges of their entries, and policy 2 has alternates (02 R44). -/
def layerRangesOk (l : ImgLayer) : Bool :=
  l.settings.all (fun p => match findEntry 0x6100 p.1 with
    | some e => decide (e.acc = .rw) && valueOk e p.2
    | none => false) && !(imgSet l 0x18 0 == 2 && imgSet l 0x1A 0 == 0)

/-- A layer loads: within the limits of its mode, and fitting the live routers (02 R44). -/
def layerLoads (s : State) (c : Nat) (l : ImgLayer) : Bool :=
  decide (l.layer < 256) && (imgSet l 0x01 0 == 0 || (layerLimitsOk s c l.layer && layerFits s c l.layer))

/-- A layer's placement blocks: one for each expert, each within 03 R70. -/
def layerBlocksOk (s : State) (l : ImgLayer) : Bool :=
  imgSet l 0x01 0 == 0 || (decide (l.blocks.map (·.1) = List.range (imgSet l 0x02 0)) &&
    l.blocks.all (fun b => decide (b.2.length = 16) && blockOk b.2 && blockInJob s b.2))

/-- Every replica on this package has its weight object (04 R128). -/
def imgReplicasOk (s : State) (i : Image) : Bool :=
  i.layers.all (fun l => l.blocks.all (fun b => b.2.all (fun r => !(r.valid && r.pkg == pkgId s) || i.objects.any (fun o =>
    o.valid && o.kind == 0 && o.mode != 2 && o.layer == l.layer && o.expert == b.1 && o.firstStone == r.firstStone &&
      o.span == r.span))))

/-- The image's objects with their numbers, windows at physical stones. -/
def physObjects (m : List (Nat × Nat)) (i : Image) : List (Nat × ObjDesc) :=
  (List.range i.objects.length).zip (i.objects.map (fun o => if o.mode = 2 then o else { o with firstStone := mapStone m o.firstStone }))

/-- The program's own granules, its queue rings and its windows: (stone, first KiB, KiB). -/
def ownUse (m : List (Nat × Nat)) (i : Image) : List (Nat × Nat × Nat) :=
  i.stones.flatMap (fun t => (stoneGranules t).map (fun g => (mapStone m t.stone, g, 1)))

def ringUse (m : List (Nat × Nat)) (i : Image) : List (Nat × Nat × Nat) := i.rings.map (fun r => (mapStone m r.1, r.2.1, r.2.2))

/-- Bytes of the queue rings that a logical stone must hold: 2 × (CAPACITY + SLACK) entries of 16 B for each replica whose
first stone it is (03 R99). -/
def ringNeed (s : State) (i : Image) (st : Nat) : Nat :=
  (i.layers.map (fun l => ((l.blocks.map (fun b => (b.2.filter (fun r => r.valid && r.pkg == pkgId s && r.firstStone == st)).length)).sum) *
    (32 * (imgSet l 0x10 16 + imgSet l 0x11 0)))).sum

/-- Queue rings fit beside the program's use, and nothing meets a committed pool region (03 R99, 09 R278). -/
def tier0Ok (s : State) (m : List (Nat × Nat)) (i : Image) : Bool :=
  let own := ownUse m i
  let rings := ringUse m i
  let wins := windowUse (physObjects m i)
  let pools := (s.pools.map (·.2)).filter poolUsed
  (own ++ rings).all (fun u => decide (u.2.1 + u.2.2 ≤ 256)) &&
    rings.all (fun r => !((own ++ wins).any (useMeets r))) &&
    (List.range rings.length).all (fun a => (List.range a).all (fun b => !useMeets (nth (0, 0, 0) rings a) (nth (0, 0, 0) rings b))) &&
    (imgStones s i).all (fun st => decide (ringNeed s i st ≤ ((i.rings.filter (fun r => r.1 == st)).map (fun r => r.2.2 * 1024)).sum)) &&
    (own ++ rings ++ wins).all (fun u => pools.all (fun x => !(decide (x.firstStone ≤ u.1) && decide (u.1 < x.firstStone + x.stones) &&
      overlap u.2 (x.sramKib, x.kibPerStone))))

/-- An S24 tile: its order check and, with TPOSE_USE, its limits and the test for transposability (07 R231, R241, R242). -/
def tileOk (t : ImgTile) : Bool :=
  let at_ (r j : Nat) : Nat × Nat := nth (0, 0) (nth [] t.idx r) j
  decide (t.idx.length = t.rows) && t.idx.all (fun l => decide (l.length = t.k / 4) && l.all (fun p => decide (p.1 < p.2) && decide (p.2 < 4))) &&
    (!t.tposeUse || (decide (t.k % 64 = 0) && decide (t.k ≤ 512) &&
      (List.range (t.rows / 4)).all (fun a => (List.range (t.k / 4)).all (fun j => (List.range 4).all (fun col =>
        decide (((List.range 4).filter (fun r => (at_ (4 * a + r) j).1 == col || (at_ (4 * a + r) j).2 == col)).length = 2))))))

/-- A range of a descriptor keeps to its stones or is a pond address, whatever the run-time state (12 R383). -/
def staticRangeOk (space a tps tile n : Nat) : Bool :=
  if space = 2 then decide (a / 2 ^ 30 = 0) && (List.range (cdiv n tile)).all (fun k =>
    decide ((tilePlace a tps tile k).1 < 4096) && inSram (tilePlace a tps tile k).2 (min tile (n - k * tile)))
  else pondAddrOk a

/-- A collective descriptor passes the checks of 12 R383 that need no run-time state. -/
def collStaticOk (d : CollDesc) : Bool :=
  collFieldsOk d && (decide (d.cop < 2) || staticRangeOk d.srcSpace d.src d.tps (tileBytes d) (collBytes d)) &&
    (decide (d.cop ≠ 3) || staticRangeOk d.dstSpace d.dst d.tps (tileBytes d) (collBytes d)) &&
    (decide (d.cop ≠ 6) || (decide (d.dst / 2 ^ 30 = 0) && inSram (d.dst % 2 ^ 18) (8 * d.root)))

/-- The retention that a collective of the image needs at most, over the group as it stands (12 R398). -/
def collNeed (s : State) (c : Nat) (d : CollDesc) : Nat :=
  let n := max 1 (groupList s c d.group).length
  max (reservationOf d 2 n d.root d.root) (if n ≤ 1 then 0 else reservationOf d 2 n d.root ((d.root + 1) % n))

/-! ### Reservations (03 R86, 04 R160) -/

/-- Granules of the declared footprint: (stone, KiB). -/
def footprint (m : List (Nat × Nat)) (i : Image) : List (Nat × Nat) :=
  ((ownUse m i ++ ringUse m i ++ windowUse (physObjects m i)).flatMap (fun u => (List.range u.2.2).map (fun k => (u.1, u.2.1 + k)))).dedup

def footprintKib (m : List (Nat × Nat)) (i : Image) : Nat := (footprint m i).length

/-- KiB of the save area: the footprint and the object table (04 R160). -/
def saveNeed (m : List (Nat × Nat)) (i : Image) : Nat := footprintKib m i + cdiv (32 * i.objects.length) 1024

/-- The lowest place in the save pool for an area of `kib` KiB beside those reserved (04 R160). -/
def savePlace (s : State) (kib : Nat) : Option Nat :=
  let pool := saveRegion s
  let areas := (s.ctxs.filter (fun p => 0 < p.2.saveKib)).map (fun p => (p.2.saveBase, p.2.saveKib * 1024))
  let starts := sortBy id (pool.1 :: areas.map (fun a => a.1 + a.2))
  starts.find? (fun a => decide (pool.1 ≤ a) && decide (a + kib * 1024 ≤ pool.1 + pool.2) && !overlapsAny (a, kib * 1024) areas)

def imgSpill (i : Image) : Nat := (i.layers.map (fun l => imgSet l 0x12 0)).sum

/-- The declared aqueducts could all be set, one after another (10 R320). -/
def aqueductsOk : State → List (Nat × BitVec 128) → Option Nat → Bool
  | _, [], _ => true
  | s, (k, e) :: t, _ => (aqRefusal s k e).isNone && aqueductsOk { s with aqs := tput 0 s.aqs k e } t none

/-! ### The checks in their order -/

/-- The place of the first element that fails. -/
def firstBad {α : Type} (l : List α) (ok : α → Bool) : Option Nat :=
  let n := l.findIdx (fun a => !ok a)
  if n < l.length then some n else none

/-- The first of the checks 3 to 19 that an image fails: the check, its code and LOAD_DETAIL (13 R423). -/
def loadRefusal (s : State) (l : Loading) (i : Image) : Option (Nat × Nat × Nat) :=
  let c := l.slot
  let t := applyLayers s c i
  if loadMode s = false then some (1, 0x0101, 0)
  else if i.partOk = false then some (3, 0x0302, 0)
  else if i.lengthKib ≠ l.lengthKib then some (4, 0x0303, 0)
  else match mapImage s i with
  | none => some (5, 0x0401, 0)
  | some m =>
    match i.stones.findSome? (fun g => firstBad g.words (wordOk i g)) with
    | some n => some (6, 0x0302, n)
    | none =>
      if 3 < i.syncMax then some (7, 0x0402, 0)
      else if i.regions.all regionDeclOk = false ∨ i.stones.all (fun g => regionsOk false g.words) = false then some (8, 0x0405, 0)
      else match firstBad i.layers layerRangesOk with
      | some n => some (9, 0x0302, n)
      | none =>
        if 256 < i.layers.length then some (9, 0x0404, 256)
        else match firstBad i.layers (layerLoads t c) with
        | some n => some (9, 0x0404, n)
        | none =>
          match firstBad i.layers (layerBlocksOk s) with
          | some n => some (10, 0x0302, n)
          | none =>
            let objs := physObjects m i
            if tableFormOk ((List.range i.objects.length).zip i.objects) = false ∨ imgReplicasOk s i = false ∨ 65535 < i.objects.length then some (11, 0x0302, 0)
            else if tableFits objs (ownUse m i) = false then some (11, 0x0401, 0)
            else if tier0Ok s m i = false then some (12, 0x0401, 0)
            else match firstBad i.tiles tileOk with
            | some n => some (13, 0x0302, n)
            | none =>
              match firstBad i.colls collStaticOk with
              | some n => some (14, 0x0302, n)
              | none =>
                if 32768 < imgSpill i + (s.ctxs.map (fun p => p.2.spillSlots)).sum then some (15, 0x0406, 0)
                else if (savePlace s (saveNeed m i)).isNone then some (16, 0x0406, 0)
                else if (List.range 16).all (programMinima s (loadedPrograms s ++ [(i, m)])) = false then some (17, 0x0406, 0)
                else match firstBad i.colls (fun d => decide (collNeed s c d ≤ (retainRegion s).2)) with
                | some n => some (18, 0x0406, n)
                | none => if aqueductsOk s i.aqueducts none then none else some (19, 0x0403, 0)

/-! ### The load -/

/-- The initial tier-0 content of a context, by physical stone and offset (13 R423). -/
def initialBytes (m : List (Nat × Nat)) (i : Image) : List Host.Cell :=
  i.stones.foldl (fun a t => (stoneImage t).foldl (fun b p =>
    if p.2 = 0 then tdel b (sramKey (mapStone m t.stone) p.1) else tins b (sramKey (mapStone m t.stone) p.1) p.2) a) []

/-- The stones' initial sequencer states: a stone with an instruction list starts at its first instruction, a stone that only
holds windows issues nothing. -/
def initialStones (c : Nat) (m : List (Nat × Nat)) (i : Image) : Tbl Stone :=
  m.foldl (fun a p =>
    let has := i.stones.any (fun t => t.stone == p.1 && !t.words.isEmpty)
    tput Stone.initial a p.2 { Stone.initial with owner := some c, run := if has then .running else .halted }) []

/-- The layer's RUN instructions all carry VARYING (05 R176). -/
def imgRunVarying (i : Image) (n : Nat) : Bool :=
  i.stones.all (fun t => t.words.all (fun w => !(wordClass w == 6 && wordOp w == 1 && fld 111 104 (wordOps w) == n) ||
    (wordHdr w).varying))

/-- A placement block with the physical numbers of this package's stones (05 R194). -/
def physBlock (s : State) (m : List (Nat × Nat)) (b : List Replica) : List Replica :=
  b.map (fun r => if r.valid && r.pkg == pkgId s then { r with firstStone := mapStone m r.firstStone } else r)

/-- The loader writes placement tables and the object table (05 R194, 04 R160). -/
def writeTables (s : State) (c : Nat) (m : List (Nat × Nat)) (i : Image) : State :=
  let s := forEach s i.layers (fun t l => forEach t l.blocks (fun u b =>
    pondPut u (blockAddr u c l.layer b.1) 64 (fromLE ((physBlock u m b.2).flatMap (fun r => toLE 4 (packReplica r))))))
  let a := getC s c 0x4010 0x01
  forEach s (physObjects m i) (fun t o => memWrite t (a + 32 * o.1) (toLE 32 (packObj o.2)))

/-- A load that passed every check leaves the context SWAPPED (13 R423). -/
def loadDone (s : State) (l : Loading) (i : Image) (m : List (Nat × Nat)) (base : Nat) : State :=
  let c := l.slot
  let i := { i with layers := i.layers.map (fun n => { n with runVarying := imgRunVarying i n.layer }) }
  let x : Ctx := { Ctx.initial with
    state := .swapped, image := some i, phys := m, savedBytes := initialBytes m i, savedStones := initialStones c m i,
    saveKib := saveNeed m i, saveBase := base, spillSlots := imgSpill i,
    placed := i.layers.flatMap (fun n => n.blocks.map (fun b => (n.layer, b.1, physBlock s m b.2))) }
  let s := setCtx (applyLayers s c i) c x
  let s := setC (setC s c 0x4010 0x01 (base + 1024 * footprintKib m i)) c 0x4010 0x02 i.objects.length
  let s := setE s (0x5100 + c) 0x02 l.cls
  noteRunnable (count (writeTables s c m i) 0xA090 0x01) c

/-- LOAD_COMPLETE: the load ends at the first check that fails, or loads the context (13 R423). -/
def execLoadComplete (img : Image) (s : State) : Res := run s fun s =>
  match s.loading with
  | none => s
  | some l =>
    let s := setCtx { s with loading := none } l.slot Ctx.initial
    match loadRefusal s l img with
    | some (n, code, d) => endDeferred (loadRefused s l.slot n code d) 0x5030 0x01 code
    | none =>
      match mapImage s img with
      | none => s
      | some m =>
        let s := loadDone s l img m ((savePlace s (saveNeed m img)).getD 0)
        endDeferred (loadRecord s l.slot 0 0 0) 0x5030 0x01 0

end Sys2Proof.Machine
end

