-- ==== Sys2Proof/Machine/Context.lean ====
section
/-! DEFINITION. Contexts (13 R420 to R441; 04 R149, R160 to R162; 06 R225): unloading, resuming, slices and swapping. -/

namespace Sys2Proof.Machine

/-! ### Unloading (13 R420, R430) -/

/-- The slot's ring is disabled and its mailboxes are freed; posts that wait are dropped (15 R490, R492). -/
def closeRing (s : State) (c : Nat) : State :=
  let s := clearMailboxes (setE (setE s (0xB100 + c) 0x03 0) (0xB100 + c) 0x05 0) c
  { s with posts := s.posts.filter (fun p => p.ctx != c) }

/-- A context begins to unload: it stops at its stones' next boundaries. -/
def beginUnload (s : State) (c : Nat) : State :=
  modCtx (closeRing (endSlice s c) c) c (fun x => { x with state := .unloading, yieldWaits := false })

def actUnload (c : Nat) (s : State) : Act :=
  match (ctxOf s c).state with
  | .empty | .loading | .unloading => .refuse 0x0101 s
  | _ => .done (beginUnload s c)

def execUnload (ctx : Nat) (q : Req) (s : State) : Res := run s (serveWrite (0x5100 + ctx) 0x06 q (actUnload ctx))

/-- The physical stones that a context holds now. -/
def heldStones (s : State) (c : Nat) : List Nat := (ctxStones s c).filter (fun st => (stoneOf s st).owner == some c)

/-- A waiting request for a buffer belongs to a context that holds these stones. -/
def bufWaitOf (c : Nat) (mine : List Nat) (r : BufReq) : Bool :=
  match r.op with
  | .copy _ d _ => d.ctx == c
  | .ret h _ => h.ctx == c
  | .output _ k => k.ctx == c
  | .dma st => mine.contains st

/-- The buffers that a context holds: token copies, returns, outputs and the staging of its descriptors (09 R280). -/
def ctxBuffers (s : State) (c : Nat) : List (BitVec 32) :=
  (s.dmas.filter (fun d => (heldStones s c).contains d.stone)).filterMap (·.stage) ++
  (s.admitted.filter (fun a => a.claim.choice.ctx == c)).filterMap (·.buffer) ++
    (s.confs.filter (fun f => f.key.ctx == c)).flatMap (fun f => f.ranks.filterMap (fun r => r.2.buf)) ++
    s.pools.flatMap (fun p => ((p.2.outCtx.filter (fun o => o.2 == c + 1)).map (fun o => BitVec.ofNat 32 o.1)).filter
      (fun h => !p.2.relQueue.contains h))

/-- A stone that its context gives up: registers, sync objects and work are gone; what belongs to its SRAM stays. -/
def freedStone (x : Stone) : Stone := { Stone.initial with injDense := x.injDense, injSparse := x.injSparse, dirty := x.dirty }

/-- The dirty granules of a resident context's DIRTY_TRACK objects are written back (04 R149), its other windows discarded. -/
def leaveWindows (s : State) (c : Nat) : State :=
  forEach s ((objectsOf s c).filter (fun o => o.2.valid && o.2.mode != 2)) (fun t o =>
    if o.2.mode = 0 ∨ (winOf t (winKey c o.1)).present then
      (if o.2.dirtyTrack then writeBack t c o.1 else discardDirty t c o.1)
    else t)

/-- The work of the dispatch, of routers and of the memory units that belongs to a context is gone. -/
def dropCtxWork (s : State) (c : Nat) : State :=
  let mine := heldStones s c
  let tags := (s.routers.flatMap (fun p => p.2.gathers.filter (fun g => g.ctx == c))).map (·.tag)
  let freed := (s.admitted.filter (fun a => a.claim.choice.ctx == c)).filterMap (·.slot)
  let keepShare (r : Router) : Router :=
    { r with shares := r.shares.filter (fun h => h.ctx != c), streaming := r.streaming.filter (fun x => x.1 != c),
             gathers := r.gathers.filter (fun x => x.ctx != c), badOnce := r.badOnce.filter (fun x => x.1 != c), cache := r.cache.filter (fun x => x.1 != c) }
  let dropWaits (x : Pool) : Pool := { x with waiting := x.waiting.filter (fun r => !bufWaitOf c mine r) }
  let s := { s with
    admitted := s.admitted.filter (fun a => a.claim.choice.ctx != c)
    slots := s.slots.filter (fun n => !freed.contains n)
    confs := s.confs.filter (fun f => f.key.ctx != c)
    toks := s.toks.filter (fun t => t.key.ctx != c)
    gens := s.gens.filter (fun g => g.ctx != c)
    cancels := s.cancels.filter (fun x => x.1 != c)
    notIntact := s.notIntact.filter (fun x => x.1 != c)
    bundles := s.bundles.filter (fun b => b.ctx != c)
    barriers := s.barriers.filter (fun b => b.ctx != c)
    claims := s.claims.filter (fun x => x.choice.ctx != c)
    runs := s.runs.filter (fun r => r.ctx != c)
    qTails := s.qTails.filter (fun p => p.1 / 1048576 != c)
    pupdates := s.pupdates.filter (fun u => u.ctx != c)
    blocksReading := s.blocksReading.filter (fun b => b.1 != c)
    routers := s.routers.map (fun r => (r.1, keepShare r.2))
    pools := s.pools.map (fun p => (p.1, dropWaits p.2))
    fetchQ := s.fetchQ.filter (fun f => f.ctx != c)
    fetchHeld := s.fetchHeld.filter (fun f => f.ctx != c)
    fills := s.fills.filter (fun f => f.ctx != c)
    wins := s.wins.filter (fun w => w.1 / 65536 != c)
    kvWaits := s.kvWaits.filter (fun w => w.ctx != c)
    colls := s.colls.filter (fun x => x.key.ctx != c)
    collEnds := s.collEnds.filter (fun x => x.key.ctx != c)
    mcasts := s.mcasts.filter (fun m => m.ctx != c)
    heldMsgs := s.heldMsgs.filter (fun h => h.m.key.ctx != c)
    backoffs := s.backoffs.filter (fun b => b.1.ctx != c)
    dmas := s.dmas.filter (fun d => !mine.contains d.stone)
    senders := s.senders.map (fun p =>
      if p.1 < 4096 then (if mine.contains p.1 then (p.1, { p.2 with reqs := [], expired := [] }) else p)
      else if p.1 < 2 * 4096 then (p.1, forgetReqs (fun t => mine.contains t) p.2)
      else if p.1 < 3 * 4096 then (p.1, forgetReqs (fun t => t / 65536 == c || tags.contains t) p.2)
      else p) }
  forEach s mine (fun t st => modStone t st freedStone)

/-- Everything that a context holds is released, and its slot is EMPTY (13 R420, R430). -/
def releaseCtx (s : State) (c : Nat) : State :=
  let s := if (ctxOf s c).resident then leaveWindows s c else s
  let s := forEach s (ctxBuffers s c) release
  wakeGens (setCtx (dropCtxWork s c) c Ctx.initial)

/-- No stone of the context is inside a non-preemptible region. -/
def regionsEnded (s : State) (c : Nat) : Bool := (ctxStones s c).all (fun st => (stoneFor s c st).np.isNone || isFenced s st)

/-- UNLOAD_COMPLETE (13 R420). -/
def execUnloadComplete (ctx : Nat) (s : State) : Res := run s fun s =>
  if (ctxOf s ctx).state = .unloading ∧ regionsEnded s ctx then releaseCtx s ctx else s

/-! ### RESUME (13 R422) -/

/-- A stone continues after the instruction where it stopped. -/
def goOnStone (x : Stone) : Stone := if x.run = .stopped then { x with run := .running, pc := x.pc + 1, stall := none } else x

/-- The image gives the logical stone of a physical stone an instruction list. -/
def hasList (s : State) (c st : Nat) : Bool :=
  match (ctxOf s c).image with
  | some i => i.stones.any (fun t => decide (physOf s c t.stone = st) && !t.words.isEmpty)
  | none => false

/-- The context enters READY, or SWAPPED where it was evicted. -/
def resumed (s : State) (c : Nat) : State :=
  let s := modCtx s c (fun x => { x with wasStopped := false })
  if (ctxOf s c).resident then makeReady s c
  else noteRunnable (modCtx s c (fun x => { x with state := .swapped, resumed := true })) c

def actResume (c : Nat) (q : Req) (s : State) : Act :=
  if (ctxOf s c).state ≠ .stopped then .refuse 0x0101 s
  else if q.value = 0 then .done (resumed (forEach s (ctxStones s c) (fun t st => modStoneFor t c st goOnStone)) c)
  else .done (resumed (forEach s (ctxStones s c) (fun t st => modStoneFor t c st (markStone (hasList s c st)))) c)

/-- RESUME 0: every stone continues after the instruction where it stopped. -/
def execResumeContinue (ctx : Nat) (q : Req) (s : State) : Res := run s (serveWrite (0x5100 + ctx) 0x07 q (actResume ctx q))

/-- RESUME 1: every stone restarts from its last step mark. -/
def execResumeStepMark (ctx : Nat) (q : Req) (s : State) : Res := run s (serveWrite (0x5100 + ctx) 0x07 q (actResume ctx q))

/-! ### Slices (13 R434 to R437) -/

def sliceLength (s : State) (c : Nat) : Nat := getE s 0x5050 (if bestEffort s c then 0x02 else 0x01)

/-- Only products, which are discarded, are in flight on a stone, so that another resident context can have it (DEDUCED, log
entry 63). -/
def stoneQuiet (s : State) (c st : Nat) : Bool :=
  let x := stoneFor s c st
  x.inflight.all (fun i => i.kind == 1) && x.vruns.isEmpty && x.eruns.isEmpty && !x.memFence && x.np.isNone &&
    (!(decide ((stoneOf s st).owner = some c)) || ((senderOf s (senderKey 0 st)).reqs.isEmpty && s.dmas.all (fun d => d.stone != st)))

/-- The stones of the context can be had: no other context holds a slice on one of them or is still stopping there, and none
has other work in flight on them. -/
def stonesFree (s : State) (c : Nat) : Bool :=
  !(s.ctxs.any (fun p => p.1 != c && (p.2.slice || p.2.stopping) && shareStone s p.1 c)) &&
    (ctxStones s c).all (fun st => match (stoneOf s st).owner with
      | some k => k == c || stoneQuiet s k st
      | none => true)

/-- The package is in Run, so stones can issue (17 R531, R535). -/
def awake (s : State) : Bool := decide (s.power.state = 0) && s.power.entering.isNone && !s.power.waking

/-- A READY context to which nothing stands in the way (13 R434, R435). -/
def grantable (s : State) (c : Nat) : Bool :=
  let x := ctxOf s c
  decide (x.state = .ready) && !x.stopping && stonesFree s c && awake s &&
    (!bestEffort s c || !(s.ctxs.any (fun p => decide (p.2.state = .ready) && !bestEffort s p.1 && shareStone s p.1 c)))

/-- The scheduler's order among READY contexts (13 R435). -/
def sliceBefore (s : State) (a b : Nat) : Bool :=
  let k (c : Nat) : Nat := (b2n (bestEffort s c) * 2 ^ 64 + (ctxOf s c).lastSliceEnd % 2 ^ 64) * 256 + c
  decide (k a < k b)

/-- A stone's record as it is set aside or saved: products that have not begun to write are discarded, to be issued again (06 R225); dirty
bits and injections stay with the stone. -/
def setAside (x : Stone) : Stone :=
  let again (l : List Tile) : List Tile := l.map (fun t => { t with again := true })
  { x with dense := again x.dense, sparse := again x.sparse, dirty := [], injDense := 0, injSparse := 0 }

/-- The stone comes to a context: the record of the context that held it is set aside. Dirty bits stay with the SRAM. -/
def takeStone (s : State) (c st : Nat) : State :=
  let old := stoneOf s st
  if old.owner = some c then s
  else
    let new := { stoneFor s c st with owner := some c, dirty := old.dirty, injDense := old.injDense, injSparse := old.injSparse }
    let s := match old.owner with
      | some k => modCtx s k (fun x => { x with
          savedStones := tput Stone.initial x.savedStones st (setAside old) })
      | none => s
    modCtx (setStone s st new) c (fun x => { x with savedStones := tdel x.savedStones st })

/-- Discarded products are issued again, each counted (06 R225). -/
def reissue (s : State) (c : Nat) : State :=
  forEach s (ctxStones s c) (fun t st =>
    let x := stoneOf t st
    let n := ((x.dense ++ x.sparse).filter (·.again)).length
    let again (l : List Tile) : List Tile := l.map (fun y => { y with again := false })
    countBy (setStone t st { x with dense := again x.dense, sparse := again x.sparse }) 0xA050 0x09 n)

/-- SLICE_GRANT (13 R435, R437): a debt that exceeds the slice takes it whole; otherwise the slice, less the debt, begins. -/
def execSliceGrant (ctx : Nat) (s : State) : Res := run s fun s =>
  if s.mode = .running ∧ s.power.state = 0 ∧ s.power.entering = none ∧ grantable s ctx ∧
      ¬ (s.ctxs.any (fun p => p.1 != ctx && grantable s p.1 && shareStone s p.1 ctx && sliceBefore s p.1 ctx)) then
    let debt := getE s (0x5100 + ctx) 0x09
    if sliceLength s ctx < debt then
      setE (modCtx s ctx (fun x => { x with lastSliceEnd := now s })) (0x5100 + ctx) 0x09 (debt - sliceLength s ctx)
    else
      let s := setE s (0x5100 + ctx) 0x09 0
      let s := forEach s (ctxStones s ctx) (fun t st => takeStone t ctx st)
      settle (reissue (modCtx s ctx (fun x => { x with state := .running, slice := true, sliceStart := now s })) ctx) ctx
  else s

/-- SLICE_EXPIRY (13 R436). -/
def execSliceExpiry (ctx : Nat) (s : State) : Res := run s fun s =>
  if (ctxOf s ctx).slice then cutSlice s ctx else s

/-- SLICE_STOP_COMPLETE: the last stone of an ended slice has stopped; the overrun is added to the debt (13 R437). -/
def execSliceStopComplete (ctx : Nat) (overrunUs : Nat) (s : State) : Res := run s fun s =>
  if (ctxOf s ctx).stopping ∧ regionsEnded s ctx then
    let s := modCtx s ctx (fun x => { x with stopping := false })
    countBy (setE s (0x5100 + ctx) 0x09 ((getE s (0x5100 + ctx) 0x09 + overrunUs) % 2 ^ 32)) 0xA090 0x06 overrunUs
  else s

/-! ### Swapping (13 R438 to R441, 04 R161, R162) -/

/-- Tier-0 use of a loaded context: (stone, first KiB, KiB). -/
def ctxUse (s : State) (c : Nat) : List (Nat × Nat × Nat) := programUse s c ++ windowUse (objectsOf s c)

/-- Two footprints share a granule. -/
def footprintsMeet (s : State) (a b : Nat) : Bool := (ctxUse s a).any (fun u => (ctxUse s b).any (useMeets u))

/-- Contexts that have, take or leave tier 0. -/
def holdsTier0 (x : Ctx) : Bool := x.resident || decide (x.state = .swappingIn)

def holders (s : State) : List Nat := (s.ctxs.filter (fun p => holdsTier0 p.2)).map (·.1)

/-- The context leaves tier 0 already. -/
def leaving (s : State) (c : Nat) : Bool :=
  decide ((ctxOf s c).state = .swappingOut) || decide ((ctxOf s c).state = .unloading)

def isIdle (s : State) (c : Nat) : Bool := decide ((ctxOf s c).state = .blocked) || decide ((ctxOf s c).state = .stopped)

/-- How soon a context may be evicted for `c`: 0, 1 or 2, or not at all (13 R440). -/
def evictTier (s : State) (c k : Nat) : Option Nat :=
  let x := ctxOf s k
  if now s < x.swapInEnd + 2000000 ∨ s.colls.any (fun co => co.key.ctx == k && collInSram co) ∨
      s.mcasts.any (fun m => m.ctx == k && decide (m.desc.srcSpace = 2 ∨ m.desc.dstSpace = 2)) then none
  else if isIdle s k then
    (if bestEffort s k then some 0 else if bestEffort s c then none else some 2)
  else if bestEffort s k ∧ ¬ bestEffort s c ∧ (x.state = .running ∨ x.state = .ready) then some 1
  else none

/-- The order of eviction: by tier, then the longest BLOCKED or STOPPED. -/
def evictKey (s : State) (c k : Nat) : Nat :=
  (evictTier s c k).getD 3 * 2 ^ 64 + (if isIdle s k then getE s (0x5100 + k) 0x08 else now s) % 2 ^ 64

/-- The contexts to evict for an incoming one, or none where they cannot all be evicted (13 R440). -/
def victims (s : State) (c : Nat) : Option (List Nat) :=
  let others := (holders s).filter (fun k => k != c && !leaving s k)
  let must := others.filter (fun k => footprintsMeet s k c)
  if must.all (fun k => (evictTier s c k).isSome) = false then none
  else
    let rest := others.filter (fun k => !must.contains k)
    if rest.length < 8 then some must
    else match (sortBy (evictKey s c) (rest.filter (fun k => (evictTier s c k).isSome))).head? with
      | some k => some (k :: must)
      | none => none

/-- A swap may take place for a runnable context (13 R438). A context that is being swapped in is not resident yet (R420). -/
def swapAllowed (s : State) (c : Nat) : Bool :=
  let res := (holders s).filter (fun k => k != c)
  res.all (fun k => isIdle s k || leaving s k || decide ((ctxOf s k).state = .swappingIn)) ||
    (!bestEffort s c && res.any (fun k => bestEffort s k && (ctxUse s k).any (fun u => (ctxStones s c).contains u.1))) ||
    !(res.any (fun k => footprintsMeet s k c))

/-- Bytes to move in: granules outside streamed windows that are not still in tier 0 (13 R439). -/
def bytesIn (s : State) (c : Nat) : Nat :=
  let use := programUse s c ++ windowUse ((objectsOf s c).filter (fun o => o.2.mode == 0))
  let gs := (use.flatMap (fun u => (List.range u.2.2).map (fun k => (u.1, u.2.1 + k)))).dedup
  1024 * (gs.filter (fun g => !(ctxOf s c).intact.contains g)).length

/-- Whole milliseconds for which a context has been runnable. -/
def runnableMs (s : State) (c : Nat) : Nat := (now s - ((ctxOf s c).runnableSince.getD (now s))) / 1000000

/-- The order among runnable SWAPPED contexts (13 R439). -/
def swapKey (s : State) (c : Nat) : Nat :=
  ((b2n (bestEffort s c) * 2 ^ 64 + (2 ^ 64 - 1 - runnableMs s c % 2 ^ 64)) * 2 ^ 64 + bytesIn s c % 2 ^ 64) * 256 + c

/-- The context that the scheduler chooses, with its victims: the first candidate whose victims can all be evicted. -/
def swapChoice (s : State) : Option (Nat × List Nat) :=
  (sortBy (swapKey s) (((s.ctxs.map (·.1)).filter (fun c => runnable s c && swapAllowed s c)))).findSome? (fun c =>
    (victims s c).map (fun v => (c, v)))

/-- An eviction begins: the context's queued fetches are cancelled and its products discarded (13 R440, 04 R162). -/
def beginSwapOut (s : State) (c : Nat) : State :=
  let s := discardProducts (endSlice s c) c
  let s := { s with fetchQ := s.fetchQ.filter (fun f => f.ctx != c), fetchHeld := s.fetchHeld.filter (fun f => f.ctx != c) }
  count (modCtx s c (fun x => { x with state := .swappingOut, wasStopped := decide (x.state = .stopped) || x.wasStopped })) 0xA090 0x04

/-- The pinned objects of a context. -/
def pinnedObjects (s : State) (c : Nat) : List (Nat × ObjDesc) := (objectsOf s c).filter (fun o => o.2.valid && o.2.mode == 0)

/-- SWAP_IN_START (13 R438 to R440); it raises a fetch request for each pinned object (04 R134). -/
def execSwapInStart (s : State) : Res := run s fun s =>
  if s.mode ≠ .running ∨ s.power.state ≠ 0 ∨ s.power.entering.isSome then s
  else match swapChoice s with
    | none => s
    | some (c, vs) =>
      let s := modCtx (forEach s vs beginSwapOut) c (fun x => { x with state := .swappingIn, runnableSince := none, resumed := false })
      let ord := nextOrd s
      forEach s (pinnedObjects s c) (fun t o => raiseFetch t c o.1 1 ord)

/-- Bytes of a granule that are not zero, with their keys. -/
def granuleCells (s : State) (st g : Nat) : List Host.Cell :=
  (List.range 1024).filterMap (fun i =>
    let b := sramByte s st (g * 1024 + i)
    if b = 0 then none else some (sramKey st (g * 1024 + i), b))

/-- The granules that swap-out saves: those in no window, and the dirty ones of pinned windows without DIRTY_TRACK (04 R161). The
SRAM of a fenced stone is not read (05 R193). -/
def plainGranules (s : State) (c : Nat) : List (Nat × Nat) :=
  (((programUse s c).flatMap (fun u => (List.range u.2.2).map (fun k => (u.1, u.2.1 + k)))).dedup).filter (fun g => !isFenced s g.1)

/-- The dirty granules of an object's window in stones that can be read. -/
def dirtyOf (s : State) (o : ObjDesc) : List (Nat × Nat) :=
  ((windowGranules o).filter (fun g => isDirty s g.1 g.2.1 && !isFenced s g.1)).map (fun g => (g.1, g.2.1))

def pinnedDirty (s : State) (c : Nat) : List (Nat × Nat) :=
  ((pinnedObjects s c).filter (fun o => !o.2.dirtyTrack)).flatMap (fun o => dirtyOf s o.2)

/-- The dirty granules of windows with DIRTY_TRACK, which go to HOME (04 R149, R161). -/
def trackedDirty (s : State) (c : Nat) : List (Nat × Nat) :=
  ((objectsOf s c).filter (fun o => o.2.valid && o.2.dirtyTrack && (o.2.mode == 0 ||
    (o.2.mode == 1 && (winOf s (winKey c o.1)).present)))).flatMap (fun o => dirtyOf s o.2)

/-- The gate stores keep nothing of a context that is swapped out: its next request streams its layer again (02 R47). -/
def forgetShares (s : State) (c : Nat) : State :=
  forEach s ((List.range 16).filter (fun b => (routerOf s b).shares.any (fun h => h.ctx == c) ||
    (routerOf s b).streaming.any (fun p => p.1 == c))) (fun t b =>
    let r := routerOf t b
    setRouter t b { r with
      shares := r.shares.filter (fun h => h.ctx != c), streaming := r.streaming.filter (fun p => p.1 != c),
      gathers := r.gathers.filter (fun x => x.ctx != c) })

/-- The windows of a context at its swap-out: tracked dirty granules go to HOME, streamed windows are released (04 R161). -/
def swapOutWindows (s : State) (c : Nat) : State :=
  forEach s ((objectsOf s c).filter (fun o => o.2.valid && o.2.mode != 2)) (fun t o =>
    if o.2.mode = 1 then
      (if (winOf t (winKey c o.1)).present then
        let t := evictOccupant t (c, o.1)
        setWin t (winKey c o.1) { winOf t (winKey c o.1) with held := false }
       else t)
    else if o.2.dirtyTrack then writeBack t c o.1 else t)

/-- The stones of the context keep their states in the save area, and the stones that it held are free. -/
def saveStones (s : State) (c : Nat) : State :=
  forEach s (ctxStones s c) (fun t st =>
    let x := stoneOf t st
    if x.owner = some c then
      modCtx (setStone t st (freedStone x)) c (fun y => { y with
        savedStones := tput Stone.initial y.savedStones st (setAside x) })
    else t)

/-- The context's save can end: nothing but products in flight, and no fill under way (04 R162, 08 R275). -/
def swapOutReady (s : State) (c : Nat) : Bool :=
  (ctxStones s c).all (fun st => isFenced s st || stoneQuiet s c st) && s.fills.all (fun f => f.ctx != c)

/-- SWAP_OUT_COMPLETE (04 R161, 13 R420): a context evicted while STOPPED is STOPPED, any other SWAPPED. A pinned granule that the
save area takes stays dirty until a fill or a reload writes it (04 R148). SWAP_OUT_BYTES counts the granules that the save area
and HOME take (DEDUCED, log entry 65). -/
def execSwapOutComplete (ctx : Nat) (s : State) : Res := run s fun s =>
  if (ctxOf s ctx).state = .swappingOut ∧ swapOutReady s ctx then
    let plain := plainGranules s ctx
    let pinned := pinnedDirty s ctx
    let cells := memSort ((plain ++ pinned).flatMap (fun g => granuleCells s g.1 g.2))
    let keep := plain ++ ((pinnedObjects s ctx).flatMap (fun o => (windowGranules o.2).map (fun g => (g.1, g.2.1))))
    let s := countBy s 0xA030 0x0A (1024 * (plain.length + pinned.length + (trackedDirty s ctx).length))
    let s := swapOutWindows s ctx
    let s := forEach s plain (fun t g => clearDirty t g.1 g.2)
    let s := forgetShares (saveStones s ctx) ctx
    noteRunnable (modCtx s ctx (fun x => { x with
      state := if x.wasStopped then .stopped else .swapped, resident := false, savedBytes := cells, savedPinned := pinned,
      intact := keep.dedup, stopping := false })) ctx
  else s

/-- A granule of a context comes back from the save area. -/
def reloadSaved (s : State) (c : Nat) (g : Nat × Nat) : State :=
  let m := (ctxOf s c).savedBytes
  sramFill s g.1 (g.2 * 1024) ((List.range 1024).map (fun i => tget 0 m (sramKey g.1 (g.2 * 1024 + i))))

/-- A stone's saved state becomes its live state where no other context has it; a WAIT that was satisfied meanwhile ends. -/
def restoreStone (s : State) (c st : Nat) : State :=
  let wake (x : Stone) : Stone := match x.run with | .waiting obj _ _ => releaseWait x obj | _ => x
  let s := modStoneFor s c st wake
  if (stoneOf s st).owner.isNone then takeStone s c st else s

/-- Granules that a context has written are intact for no other swapped context, whose pinned windows there hold no complete
fill any more (13 R439, 04 R136). -/
def spoilIntact (s : State) (c : Nat) : State :=
  let use := ctxUse s c
  let keep (g : Nat × Nat) : Bool := !(use.any (fun u => useMeets u (g.1, g.2, 1)))
  let ks := ((s.ctxs.map (·.1)).filter (fun k => k != c && !(ctxOf s k).resident))
  let s := forEach s ks (fun t k => forEach t (pinnedObjects t k) (fun u o =>
    if (windowUse [o]).any (fun w => use.any (useMeets w)) then setWin u (winKey k o.1) { winOf u (winKey k o.1) with present := false }
    else u))
  { s with ctxs := s.ctxs.map (fun p => if p.1 = c then p else (p.1, { p.2 with intact := p.2.intact.filter keep })) }

/-- SWAP_IN_COMPLETE (04 R161, 13 R420): the footprint is reloaded and the context is READY, or STOPPED where it was stopped
meanwhile. SWAP_IN_BYTES counts the bytes of 13 R439 (DEDUCED, log entry 65). -/
def execSwapInComplete (ctx : Nat) (s : State) : Res := run s fun s =>
  if (ctxOf s ctx).state = .swappingIn ∧ ((holders s).filter (fun k => k != ctx)).length < 8 ∧
      ((holders s).all (fun k => k == ctx || !footprintsMeet s k ctx)) ∧ (s.fetchQ ++ s.fetchHeld).all (fun f => f.ctx != ctx) ∧
      s.fills.all (fun f => f.ctx != ctx) then
    let x := ctxOf s ctx
    let moved := bytesIn s ctx
    let s := forEach s ((plainGranules s ctx ++ x.savedPinned).filter (fun g => !x.intact.contains g && !isFenced s g.1))
      (fun t g => reloadSaved t ctx g)
    let s := forEach s (ctxStones s ctx) (fun t st => restoreStone t ctx st)
    let s := spoilIntact s ctx
    let s := modCtx s ctx (fun y => { y with
      resident := true, swapInEnd := now s, savedBytes := [], savedPinned := [], intact := [],
      state := if y.wasStopped then .stopped else .swappingIn })
    let s := countBy (count s 0xA090 0x03) 0xA030 0x0B moved
    if (ctxOf s ctx).wasStopped then s else finishYield (makeReady s ctx) ctx
  else s

end Sys2Proof.Machine
end

