-- ==== Sys2Proof/Machine/Control.lean ====
section
/-! DEFINITION. The CONTROL class (05 R177, R178, 08 R270) and the overrun of a non-preemptible region (13 R424). -/

namespace Sys2Proof.Machine

/-- HALT: the stone stops issuing until its context is restarted. -/
def execHalt (st : Nat) (h : IHdr) (o : Operands) (s : State) : Res := run s fun s =>
  issue s st (headerOk h false && onlyFields [] o) [] [] fun s =>
    settleStone (signalDone (modStone s st (fun x => { x with run := .halted, pc := x.pc + 1 })) st (sigOf h)) st

/-- The condition of a BRANCH: COND 0 to 4 (05 R178). -/
def branchTaken (cond : Nat) (v : BitVec 32) : Bool :=
  if cond = 0 then true else if cond = 1 then v == 0 else if cond = 2 then v != 0 else if cond = 3 then v.msb else !v.msb

/-- The image's part for a stone that a context holds, with the image. -/
def ownList (s : State) (st : Nat) : Option (Image × ImgStone) :=
  match (stoneOf s st).owner with
  | none => none
  | some c => (ctxOf s c).image.bind (fun i => (i.stones.find? (fun t => decide (physOf s c t.stone = st))).map (fun t => (i, t)))

/-- TARGET lies in the stone's instruction list, and REGION in the image's bound table (05 R174, R178). -/
def targetOk (s : State) (st n : Nat) : Bool := (ownList s st).all (fun p => decide (n < p.2.words.length))

def boundOk (s : State) (st n : Nat) : Bool := (ownList s st).all (fun p => decide (n < p.1.regions.length))

/-- BRANCH: goes on at TARGET if COND holds, otherwise at the next instruction. -/
def execBranch (st : Nat) (h : IHdr) (o : Operands) (s : State) : Res := run s fun s =>
  issue s st (headerOk h false && onlyFields [(111, 109), (105, 102), (13, 0)] o && decide (fld 111 109 o ≤ 4) && targetOk s st (fld 13 0 o)) [] [] fun s =>
    let t := branchTaken (fld 111 109 o) (reg s st (fld 105 102 o))
    let s := modStone s st (fun x => { x with pc := if t then fld 13 0 o else x.pc + 1 })
    settleStone (signalDone s st (sigOf h)) st

/-- LOOP_SET: LC := COUNT, or the low 24 bits of SRC_REG if FORM = 1. -/
def execLoopSet (st : Nat) (h : IHdr) (o : Operands) (s : State) : Res := run s fun s =>
  issue s st (headerOk h false && onlyFields [(111, 108), (105, 102), (23, 0)] o) [] [] fun s =>
    let v := if flag 108 o then (reg s st (fld 105 102 o)).setWidth 24 else BitVec.ofNat 24 (fld 23 0 o)
    completeNow (modStone s st (fun x => setLc x (fld 111 109 o) v)) st h

/-- LOOP_BACK: falls through where LC is 0; otherwise LC := LC − 1 and the stone goes on at TARGET if the new LC is not 0. -/
def execLoopBack (st : Nat) (h : IHdr) (o : Operands) (s : State) : Res := run s fun s =>
  issue s st (headerOk h false && onlyFields [(111, 109), (13, 0)] o && targetOk s st (fld 13 0 o)) [] [] fun s =>
    let l := fld 111 109 o
    let v := lcOf (stoneOf s st) l
    let s := modStone s st (fun x =>
      if v = 0 then { x with pc := x.pc + 1 }
      else { setLc x l (v - 1) with pc := if v - 1 = 0 then x.pc + 1 else fld 13 0 o })
    settleStone (signalDone s st (sigOf h)) st

/-- YIELD: on the lead stone it posts the step's results and waits until the next step is formed; on any other stone it
waits until the lead stone's YIELD completes. -/
def execYield (st : Nat) (h : IHdr) (o : Operands) (s : State) : Res := run s fun s =>
  issue s st (headerOk h false && onlyFields [] o) [] [] fun s =>
    let x := stoneOf s st
    match x.owner with
    | none => s
    | some c =>
      let s := modStone s st (fun y => { y with run := .yielding, waitSig := sigOf h })
      if leadStone s c = some st then settle (finishYield (postStep s c) c) c
      else if (match leadStone s c with | some l => decide (x.yields < (stoneFor s c l).yields) | none => false) then
        endYield s c st
      else settle s c

/-- STEP_MARK records the restart point: the sequencer state behind the mark (05 R177, R195). -/
def execStepMark (st : Nat) (h : IHdr) (o : Operands) (s : State) : Res := run s fun s =>
  issue s st (headerOk h false && onlyFields [] o) [] [] fun s =>
    completeNow (modStone s st (fun x => { x with mark := some { pc := x.pc + 1, lc := x.lc, areg := x.areg, vl := x.vl } })) st h

/-- NP_BEGIN opens a non-preemptible region; REGION names its bound. -/
def execNpBegin (st : Nat) (h : IHdr) (o : Operands) (s : State) : Res := run s fun s =>
  issue s st (headerOk h false && onlyFields [(47, 32)] o && boundOk s st (fld 47 32 o)) [] [] fun s =>
    completeNow (modStone s st (fun x => { x with np := some (fld 47 32 o) })) st h

/-- NP_END closes the open region; a context that was only waiting for its regions to end has then stopped. -/
def execNpEnd (st : Nat) (h : IHdr) (o : Operands) (s : State) : Res := run s fun s =>
  issue s st (headerOk h false && onlyFields [] o) [] [] fun s =>
    completeNow (modStone s st (fun x => { x with np := none })) st h

/-- SET_VL (08 R270): VL := IMM, or with FORM = 1 VL := min(n, 65,536), and n − VL is written back to LEN_REG. -/
def execSetVl (st : Nat) (h : IHdr) (o : Operands) (s : State) : Res := run s fun s =>
  issue s st (headerOk h false && onlyFields [(111, 108), (107, 107), (16, 0)] o &&
      (flag 107 o || decide (fld 16 0 o ≤ 65536))) [] [] fun s =>
    let r := fld 111 108 o
    let n := (reg s st r).toNat
    let s := modStone s st (fun x =>
      if flag 107 o then { setAreg x r (BitVec.ofNat 32 (n - min n 65536)) with vl := min n 65536 }
      else { x with vl := fld 16 0 o })
    completeNow s st h

/-- SET_REG: IMM, DST + IMM, DST + SRC_REG or SRC_REG + IMM, modulo 2^32. -/
def setRegValue (mode : Nat) (dst src imm : BitVec 32) : BitVec 32 :=
  if mode = 0 then imm else if mode = 1 then dst + imm else if mode = 2 then dst + src else src + imm

def execSetReg (st : Nat) (h : IHdr) (o : Operands) (s : State) : Res := run s fun s =>
  issue s st (headerOk h false && onlyFields [(111, 108), (107, 106), (105, 102), (31, 0)] o) [] [] fun s =>
    let d := fld 111 108 o
    let v := setRegValue (fld 107 106 o) (reg s st d) (reg s st (fld 105 102 o)) (BitVec.ofNat 32 (fld 31 0 o))
    completeNow (modStone s st (fun x => setAreg x d v)) st h

/-- A region runs past its bound: REGION_OVERRUN of class C, counted at 0xA090.07; the region goes on (13 R424). -/
def execRegionOverrun (st : Nat) (s : State) : Res := run s fun s =>
  if (stoneOf s st).np.isSome ∧ isFenced s st = false then
    raise1 (count s 0xA090 0x07) 0 0x0F 0 st (stoneOf s st).owner (instrAddr s st)
  else s

end Sys2Proof.Machine
end

