-- ==== Sys2Proof/Machine/CourseDma.lean ====
section
/-! DEFINITION. The course DMA (05 R179 to R183). -/

namespace Sys2Proof.Machine

/-- DMA POST (05 R180, R181): the descriptor at the register's SRAM offset joins the course DMA's queue; a ninth outstanding
descriptor of the stone, or a 65th of the course, waits. -/
def execDmaPost (st : Nat) (h : IHdr) (o : Operands) (s : State) : Res := run s fun s =>
  let off := (reg s st (fld 111 108 o)).toNat
  issue s st (headerOk h false && onlyFields [(111, 108)] o) [(off, 32)] [] fun s =>
    if off % 32 ≠ 0 ∨ inSram off 32 = false then failStone s st 0x05
    else if (s.dmas.filter (fun d => d.stone == st)).length ≥ 8 ∨
        (s.dmas.filter (fun d => courseOf d.stone == courseOf st)).length ≥ 64 then stallOn s st .dmaFull
    else readRanges s st [(off, 32)] [] fun s =>
      let m : Dma := { stone := st, desc := BitVec.ofNat 256 (sramNat s st off 32), started := false, want := 0, got := [],
                       moved := false, failed := false, waits := false, stage := none }
      completeNow (startDma { s with dmas := s.dmas ++ [m] } st) st h

/-- An SRAM address of space 2: stone in bits 29:18, offset in bits 17:0, other bits zero (05 R179), the range within the
stone, the stone not fenced (05 R183). -/
def dmaSramOk (s : State) (a n : Nat) : Bool :=
  decide (a / 2 ^ 30 = 0) && inSram (a % 2 ^ 18) n && !isFenced s (bits 29 18 a)

/-- A row read from its space: SRAM, this package's tier 1, another package's, whose answers stand in the descriptor, or host
memory, whose bytes the command carries in order; none where an access is refused or a word of SRAM is in error for good (05 R169).
Bytes that lie on the other wythe than the course DMA cross the bridge (01 R24). -/
def dmaReadRow (s : State) (m : Dma) (i : Nat) (outside : List Byte) : State × Option (List Byte × List Byte) :=
  let a := dmaSrc m.desc + i * dmaSrcStride m.desc
  let n := dmaLen m.desc
  let w := wytheOf m.stone
  if dmaSrcSpace m.desc = 2 then
    let st := bits 29 18 a
    if dmaSramOk s a n = false then (s, none)
    else match unitRead s.badWords.length s st (a % 2 ^ 18, n) with
      | (t, true) => (passBytes t (wytheOf st) w n, some (sramRead t st (a % 2 ^ 18) n, outside))
      | (t, false) => (t, none)
  else if dmaSrcSpace m.desc = 1 then
    (s, some ((List.range n).map (fun j => (outside[j]?).getD (Config.outsideByte s.nonce (a + j))), outside.drop n))
  else if !pondAddrOk a then (s, none)
  else if pondPos a = gridPos s then
    match translate s s.jobTag (pondOffset a) n winRead with
    | some p => (loadPass s w p n, some (memRead s p n, outside))
    | none => (localMiss s a n winRead, none)
  else (s, some (gotBytes m.got (i * n) n, outside))

/-- A row written to its space; none where an access is refused (05 R183). A row for another package leaves as STOREs, which the
descriptor waits for. -/
def dmaWriteRow (s : State) (m : Dma) (i : Nat) (bs : List Byte) : Option State :=
  let a := dmaDst m.desc + i * dmaDstStride m.desc
  let w := wytheOf m.stone
  if dmaDstSpace m.desc = 2 then
    if dmaSramOk s a bs.length then some (passBytes (sramWrite s (bits 29 18 a) (a % 2 ^ 18) bs) w (wytheOf (bits 29 18 a)) bs.length)
    else none
  else if dmaDstSpace m.desc = 1 then some (emitFor s (stoneOf s m.stone).owner (.hostWrite a bs))
  else if !pondAddrOk a then none
  else if pondPos a = gridPos s then
    (translate s s.jobTag (pondOffset a) bs.length winWrite).map (fun p => storePass (memWrite s p bs) w p bs.length)
  else some (unitRequests s 1 (courseOf m.stone) (storeReqs s m.stone a bs))

/-- Rows in order until one is refused, at the latest row `stop`: the state, whether all went well, and the bytes moved. A refusal by
this package's own window table is counted there (11 R344). -/
def dmaRun (m : Dma) (stop : Option Nat) : Nat → Nat → State → List Byte → Nat → State × Bool × Nat
  | 0, _, s, _, n => (s, true, n)
  | k + 1, i, s, ext, n =>
    if stop = some i then (s, false, n)
    else match dmaReadRow s m i ext with
      | (t, none) => (t, false, n)
      | (t, some (row, ext)) =>
        match dmaWriteRow (stagePiece t m i row) m i row with
        | none => (if dmaDstSpace m.desc = 0 then localMiss t (dmaDst m.desc + i * dmaDstStride m.desc) (dmaLen m.desc) winWrite else t, false, n)
        | some t => dmaRun m stop k (i + 1) t ext (n + dmaLen m.desc)

/-- Requests to other packages that a course DMA has out or waiting for a stone. -/
def dmaOut (s : State) (m : Dma) : Nat :=
  let x := senderOf s (senderKey 1 (courseOf m.stone))
  ((x.reqs ++ x.waitQ).filter (fun q => q.pc == m.stone)).length

/-- The oldest descriptor of a stone, in the rotation of its course, is performed (05 R181, R183), once its reads from other packages
are answered; it ends then, or when its stores are acknowledged. `stop` is the first row whose access to host memory was refused;
`outside` holds the bytes read from host memory, in order. -/
def execDmaDescriptorComplete (course st : Nat) (stop : Option Nat) (outside : List Byte) (s : State) : Res := run s fun s =>
  if dmaTurn s course ≠ some st then s
  else match oldestDma s st with
    | none => s
    | some m =>
      if m.want ≠ 0 then s
      else
        let s := { s with dmaLast := tput 63 s.dmaLast course (st % 64) }
        if dmaFormOk m.desc = false ∨ (s.umora.downFault ∧ usesHost m.desc) then startDma (dmaError (dropDma s m) m) st
        else
          let (t, ok, n) := dmaRun m stop (dmaRows m.desc) 0 (fresh s) outside 0
          let m' : Dma := { m with moved := true, failed := !ok, want := dmaOut t m }
          let t := modDma (countBy t 0xA040 0x02 n) m (fun _ => m')
          if m'.want = 0 then startDma (endDma t m') st else t

end Sys2Proof.Machine
end

