-- ==== Sys2Proof/Machine/Window.lean ====
section
/-! DEFINITION. Writes to the job window table (11 R343, R346, R347). -/

namespace Sys2Proof.Machine

/-- A window entry's range within the pond's offsets, and within tier 1. -/
def winOffsets (w : BitVec 128) : Nat × Nat := (winBase w * 2 ^ 20, winSize w * 2 ^ 20)

def winPhysRange (w : BitVec 128) : Nat × Nat := (winPhys w * 2 ^ 20, winSize w * 2 ^ 20)

/-- The range conditions of WINDOW_SET for entry `i` (11 R346). -/
def windowRangesOk (s : State) (i : Nat) (w : BitVec 128) : Bool :=
  decide (w.toNat % 2 ^ 51 = 0) && decide (winPhys w + winSize w ≤ 524288) &&
    !overlapsAny (winPhysRange w) (fixedRegions s ++ [lakeRegion s, hotRegion s, logRegion s]) &&
    !(s.windows.any (fun x => decide (x.1 ≠ i) && winValid x.2 && decide (winTag x.2 = winTag w) &&
      overlap (winOffsets x.2) (winOffsets w)))

/-- WINDOW_SET (11 R346). -/
def actWindowSet (q : Req) (s : State) : Act :=
  let w := BitVec.ofNat 128 (getE s 0x4050 0x01)
  if windowRangesOk s q.value w = false then .refuse 0x0302 s
  else if winTag w ≠ s.jobTag then .refuse 0x0502 s
  else .done { s with windows := tput 0 s.windows q.value w }

def execWindowSet (q : Req) (s : State) : Res := run s (serveWrite 0x4050 0x02 q (actWindowSet q))

/-- A window entry made invalid. -/
def winInvalid (w : BitVec 128) : BitVec 128 := BitVec.ofNat 128 (clrBit w.toNat 51)

/-- WINDOW_CLEAR (11 R346). -/
def actWindowClear (q : Req) (s : State) : Act := .done { s with windows := tput 0 s.windows q.value (winInvalid (windowOf s q.value)) }

def execWindowClear (q : Req) (s : State) : Res := run s (serveWrite 0x4050 0x03 q (actWindowClear q))

/-- The window table with every entry invalid, as on entry to Clean (11 R347). -/
def clearWindows (s : State) : State := { s with windows := s.windows.map (fun x => (x.1, winInvalid x.2)) }

end Sys2Proof.Machine
end

