-- ==== Sys2Proof/Machine/Jobs.lean ====
section
/-! DEFINITION. Device states and jobs (13 R416 to R419, R425 to R433; 12 R378; 18 R557): state requests, the start record, the
steps of a keystone and of its members, and teardown. -/

namespace Sys2Proof.Machine

/-! ### The tier-1 key (18 R557) -/

/-- A new tier-1 key pair is drawn: every byte of tier 1 becomes unspecified data, and the fault log restarts at record 0. -/
def newKey (s : State) : State :=
  if s.sec.rngBad then s
  else count (setE { s with mem := [], sec := { s.sec with keyGen := s.sec.keyGen + 1, keyPresent := true } } 0x8060 0x02 0) 0xA0E0 0x04

/-! ### STATE_REQUEST (13 R417, R418) -/

/-- The refusal of a request to enter Configured (13 R418, 17 R547, 18 R551). -/
def configRefusal (s : State) : Option Nat :=
  if bit 15 (getE s 0x1020 0x01) = false ∨ getE s 0x5000 0x03 = 0 ∨ getE s 0x4040 0x02 = 0 ∨ s.sec.rngBad then some 0x0101
  else if getE s 0x3010 0x02 ≠ 7 then some 0x0601
  else if regionsPlaceable s = false then some 0x0406
  else none

/-- Entry to Configured from Verified or Clean (13 R418, 09 R287, 11 R349, 18 R557). -/
def enterConfigured (s : State) : State :=
  let s := newKey { s with mode := .configured, senders := [], jobTag := getE s 0x5000 0x03, tagDropSeen := false,
                           windowFaultSeen := false }
  forEach s (s.pools.map (·.1)) endRebuild

/-- The start records held as COMMITTED become RUNNING (13 R426). -/
def startRunning (s : State) : State :=
  { s with mode := .running, starts := s.starts.map (fun p => if p.2 = .committed then (p.1, .running) else p) }

/-- STATE_REQUEST (13 R417). -/
def actStateRequest (q : Req) (s : State) : Act :=
  if s.mode = .draining then .refuse 0x0102 s
  else if q.value = 2 ∧ (s.mode = .verified ∨ s.mode = .clean) then
    match configRefusal s with
    | some c => .refuse c s
    | none => .done (enterConfigured s)
  else if q.value = 4 ∧ s.mode = .ready then .done (startRunning s)
  else .refuse 0x0101 s

def execStateRequestConfigured (q : Req) (s : State) : Res := run s (serveWrite 0x5000 0x02 q (actStateRequest q))

def execStateRequestRunning (q : Req) (s : State) : Res := run s (serveWrite 0x5000 0x02 q (actStateRequest q))

/-! ### The start record (13 R425 to R427) -/

def recStart (v : Nat) : Nat := bits 255 224 v
def recTag (v : Nat) : Nat := bits 223 208 v
def recPackages (v : Nat) : Nat := bits 207 193 v
def recAddr (v : Nat) : Nat := bits 192 129 v
def recDigest (v : Nat) : Nat := bits 128 65 v
def recMembers (v : Nat) : Nat := bits 64 1 v

def startOf (s : State) (id : Nat) : StartState := tget StartState.none s.starts id

def setStart (s : State) (id : Nat) (x : StartState) : State := { s with starts := tput StartState.none s.starts id x }

/-- The package holds another start as PREPARED, COMMITTED or RUNNING. -/
def otherStart (s : State) (id : Nat) : Bool :=
  s.starts.any (fun p => p.1 != id && (p.2 == .prepared || p.2 == .committed || p.2 == .running))

/-- Strictly ascending. -/
def ascending (l : List Nat) : Bool := (l.zip l.tail).all (fun p => decide (p.1 < p.2))

/-- The job list of a record (13 R427). -/
def listOk (s : State) (v : Nat) (l : List Nat) : Bool :=
  decide (l.length = recPackages v) && ascending l && l.all (fun x => decide (x < 2 ^ 14)) && l.contains (pkgId s) &&
    decide (digest8 (l.flatMap (toLE 2)) = recDigest v)

/-- Every valid record of the placement tables of the loaded contexts names a package of the list (03 R70, 13 R427). -/
def tablesInList (s : State) (l : List Nat) : Bool :=
  (loadedCtxs s).all (fun c => ((List.range 256).filter (fun n => layerSet s c n 0x01 != 0)).all (fun n =>
    (List.range (layerSet s c n 0x02)).all (fun e =>
      ((blockInForce s c n e).filter (·.valid)).all (fun r => l.contains r.pkg))))

/-- The answer to a prepare that the package has not seen: the first check of 13 R427 that fails. -/
def prepareCode (s : State) (v : Nat) (l : List Nat) : Nat :=
  if otherStart s (recStart v) then 0x0601
  else if s.mode ≠ .configured then 0x0101
  else if getE s 0x5000 0x03 ≠ recTag v then 0x0502
  else if recStart v = 0 ∨ recPackages v = 0 ∨ 16384 < recPackages v then 0x0302
  else if listOk s v l = false then 0x0302
  else if tablesInList s l = false then 0x0302
  else 0

/-- A prepare: the answer and the state (13 R426). -/
def takePrepare (s : State) (v : Nat) (l : List Nat) : State × Nat :=
  match startOf s (recStart v) with
  | .prepared | .committed | .running => (s, 0)
  | .aborted => (s, 0x0101)
  | .none =>
    if prepareCode s v l = 0 then
      (setE { setStart s (recStart v) .prepared with jobList := l } 0x5000 0x05 (recStart v), 0)
    else (s, prepareCode s v l)

/-- Group 255 is written for every context slot and committed (12 R378, 13 R426). -/
def commitGroup (s : State) : State :=
  let l := s.jobList
  let s := { s with ent := s.ent.filter (fun p => decide (p.1 % 2 ^ 24 ≠ 0x71FF09)),
                    groupLists := tins s.groupLists (groupKey 0 255) l }
  let s := setC (setC s 0 0x71FF 0x02 l.length) 0 0x71FF 0x03 8
  let s := setC (setC s 0 0x71FF 0x01 0) 0 0x71FF 0x07 (l.findIdx (· == pkgId s))
  setC (setC s 0 0x71FF 0x08 (digest8 (l.flatMap (toLE 2)))) 0 0x71FF 0x06 1

/-- A commit (13 R426). -/
def takeCommit (s : State) (id : Nat) : State × Nat :=
  match startOf s id with
  | .prepared =>
    if s.mode = .configured then
      (setE { setStart (commitGroup s) id .committed with mode := .ready } 0x5000 0x04 s.jobList.length, 0)
    else (s, 0x0101)
  | .committed | .running => (s, 0)
  | .none | .aborted => (s, 0x0101)

/-- A run (13 R426). -/
def takeRun (s : State) (id : Nat) : State × Nat :=
  match startOf s id with
  | .committed => if s.mode = .ready then (startRunning s, 0) else (s, 0x0101)
  | .running => (s, 0)
  | .none | .prepared | .aborted => (s, 0x0101)

/-- An abort (13 R426). -/
def takeAbort (s : State) (id : Nat) : State × Nat :=
  match startOf s id with
  | .none => (setStart s id .aborted, 0)
  | .prepared => ({ setStart s id .aborted with jobList := [] }, 0)
  | .committed =>
    if s.mode = .ready then
      (setE (setE { setStart s id .aborted with jobList := [], mode := .configured } 0x71FF 0x06 0) 0x5000 0x04 0, 0)
    else (s, 0x0101)
  | .running => (s, 0x0101)
  | .aborted => (s, 0)

/-! ### Teardown (13 R430) -/

/-- Entry to Draining: injection stops, every context stops, collectives complete, outstanding requests are given up. A start
record that is PREPARED or COMMITTED is dropped (13 R433). -/
def enterDraining (s : State) : State :=
  let cs := loadedCtxs s
  let s := forEach { s with mode := .draining, teardown := true } cs (fun t c => discardProducts (stopCtx t c) c)
  let s := finish (endCollectives s)
  { s with senders := s.senders.map (fun p => (p.1, { p.2 with reqs := [], waitQ := [], expired := [] })),
           starts := s.starts.filter (fun p => p.2 == .aborted) }

/-- A teardown: none where the answer comes at Clean (13 R430). -/
def takeTeardown (s : State) : State × Option Nat :=
  match s.mode with
  | .configured | .ready | .running => (enterDraining s, none)
  | .draining => (s, none)
  | .clean | .verified => (s, some 0)
  | .faulted | .dormant => (s, some 0x0101)

/-! ### Answers (13 R425, R428) -/

/-- The mask of the positions of a list. -/
def posMask (l : List Nat) : Nat := l.foldl setBit 0

/-- The answers that are refusals. -/
def refusals (l : List (Nat × Nat)) : List (Nat × Nat) := l.filter (fun p => p.2 != 0)

/-- The keystone's step ends: done where every member answered OK, otherwise incomplete (13 R428). -/
def finishJobStep (s : State) (x : JobStep) : State :=
  let bad := refusals x.answers
  let first := match minBy (·.1) bad with | some p => p.1 % 64 * 2 ^ 16 + p.2 | none => 0
  let s := setE { s with jobStep := none } 0x5010 0x03 (if x.waiting.isEmpty ∧ bad.isEmpty then 2 else 3)
  setE (setE (setE s 0x5010 0x04 (posMask x.waiting)) 0x5010 0x05 (posMask (bad.map (·.1)))) 0x5010 0x06 first

/-- Answers are taken into a step: each position counts once. -/
def takeAnswers (x : JobStep) (l : List (Nat × Nat)) : JobStep :=
  l.foldl (fun y p => if y.waiting.contains p.1 then { y with waiting := y.waiting.erase p.1, answers := y.answers ++ [p] } else y) x

/-- The parent of a position in tree A and in tree B of a keystone (13 R425). -/
def treeAParent (k p : Nat) : Nat := if p / 8 = k / 8 then k else 8 * (k / 8) + p % 8
def treeBParent (k p : Nat) : Nat := if p % 8 = k % 8 then k else 8 * (p / 8) + k % 8

/-- This package's answer goes up: over tree A to an operation that it acts on, over tree B to the second arrival (13 R425; which
of the two came first no command says: DESIGN CHOICE, log entry 118). -/
def answerUp (s : State) (second : Bool) (answers : List (Nat × Nat)) : State :=
  let k := getE s 0x2010 0x01
  let s := emit s (.jobAnswer answers)
  if second then carryMgmt s 1 (treeBParent k (gridPos s)) else carryMgmt s 0 (treeAParent k (gridPos s))

/-- Answers reach the keystone, or an interior member, which sends one aggregated answer up once all have come. -/
def giveAnswers (s : State) (l : List (Nat × Nat)) : State :=
  match s.jobStep with
  | some x =>
    let y := takeAnswers x l
    if y.waiting.isEmpty then finishJobStep s y else { s with jobStep := some y }
  | none =>
    match s.jobMember with
    | some x =>
      let y := takeAnswers x l
      if y.waiting.isEmpty then answerUp { s with jobMember := none } false y.answers else { s with jobMember := some y }
    | none => s

/-- Grid positions of a row and of a column. -/
def rowOf (r : Nat) : List Nat := (List.range 8).map (fun c => 8 * r + c)
def colOf (c : Nat) : List Nat := (List.range 8).map (fun r => 8 * r + c)

/-- Children of a position in tree A and in tree B of a keystone (13 R425). -/
def treeAKids (k p : Nat) : List Nat :=
  if p = k then (rowOf (k / 8)).erase k ++ (colOf (k % 8)).erase k
  else if p / 8 = k / 8 then (colOf (p % 8)).erase p else []

def treeBKids (k p : Nat) : List Nat :=
  if p = k then (colOf (k % 8)).erase k ++ (rowOf (k / 8)).erase k
  else if p % 8 = k % 8 then (rowOf (p / 8)).erase p else []

/-- A child lies on the way to a member. -/
def wanted (kids : Nat → List Nat) (members p : Nat) : Bool := bit p members || (kids p).any (fun c => bit c members)

/-- The operation is forwarded over both trees. -/
def forwardJob (s : State) (k members op startId rec : Nat) : State :=
  let p := gridPos s
  let a := (treeAKids k p).filter (wanted (treeAKids k) members)
  let b := (treeBKids k p).filter (wanted (treeBKids k) members)
  let s := forEach s a (fun t c => carryMgmt (emit t (.jobOp false c op startId rec)) 0 c)
  forEach s b (fun t c => carryMgmt (emit t (.jobOp true c op startId rec)) 1 c)

/-- The members below this package in either tree. -/
def membersBelow (s : State) (k members : Nat) : List Nat :=
  let p := gridPos s
  let below (kids : Nat → List Nat) : List Nat := (kids p).flatMap (fun c => c :: (if p = k then kids c else []))
  ((below (treeAKids k) ++ below (treeBKids k)).dedup).filter (fun c => c != p && bit c members)

/-- This package's own part of an operation: the answer, or none where it comes later. -/
def ownPart (s : State) (op v : Nat) (l : List Nat) : State × Option Nat :=
  match op with
  | 1 => let (t, c) := takePrepare s v l; (t, some c)
  | 2 => let (t, c) := takeCommit s (recStart v); (t, some c)
  | 3 => let (t, c) := takeRun s (recStart v); (t, some c)
  | 4 => let (t, c) := takeAbort s (recStart v); (t, some c)
  | _ => takeTeardown s

/-! ### POND_JOB_STEP (13 R425, R428) -/

/-- A write of POND_JOB_STEP; `l` is the list that the keystone reads for its own prepare. -/
def actPondJobStep (q : Req) (l : List Nat) (s : State) : Act :=
  let op := q.value
  if isKeystone s = false then .refuse 0x0502 s
  else if getE s 0x5010 0x03 = 1 then .refuse 0x0601 s
  else if op = 0 ∨ 5 < op then .refuse 0x0302 s
  else if s.mode = .faulted then .refuse 0x0101 s
  else
    let v := getE s 0x5010 0x02
    let m := recMembers v
    let s := setE (setE (setE (setE s 0x5010 0x03 1) 0x5010 0x04 0) 0x5010 0x05 0) 0x5010 0x06 0
    let s := forwardJob s (gridPos s) m op (recStart v) (if op = 1 then v else 0)
    let s := { s with jobStep := some { op := op, startId := recStart v, waiting := (List.range 64).filter (fun p => bit p m), answers := [] } }
    if bit (gridPos s) m then
      match ownPart s op v l with
      | (t, some c) => .done (giveAnswers t [(gridPos s, c)])
      | (t, none) => .done t
    else .done (giveAnswers s [])

def execPondJobPrepare (q : Req) (list : List Nat) (s : State) : Res := run s (serveWrite 0x5010 0x01 q (actPondJobStep q list))
def execPondJobCommit (q : Req) (s : State) : Res := run s (serveWrite 0x5010 0x01 q (actPondJobStep q []))
def execPondJobRun (q : Req) (s : State) : Res := run s (serveWrite 0x5010 0x01 q (actPondJobStep q []))
def execPondJobAbort (q : Req) (s : State) : Res := run s (serveWrite 0x5010 0x01 q (actPondJobStep q []))
def execPondJobTeardown (q : Req) (s : State) : Res := run s (serveWrite 0x5010 0x01 q (actPondJobStep q []))

/-! ### The members (13 R425, R426; 01 R30) -/

/-- JOB_DIRECT: any operation on this package alone (13 R429). A teardown is accepted at once; the package reports Clean. -/
def actJobDirect (q : Req) (l : List Nat) (s : State) : Act :=
  if q.value = 0 ∨ 5 < q.value then .refuse 0x0302 s
  else match ownPart s q.value (getE s 0x5010 0x02) l with
    | (t, some 0) => .done t
    | (t, some c) => .refuse c t
    | (t, none) => .done t

/-- A job operation reaches this package: from the keystone over a tree, or through JOB_DIRECT. An interior member forwards it
before it acts and gathers its children's answers; a second arrival is answered alone, over the other tree. -/
def memberOp (s : State) (fromPos : Option Nat) (op v : Nat) (l : List Nat) : State :=
  match fromPos with
  | none =>
    match ownPart s op (if op = 1 then getE s 0x5010 0x02 else v) l with
    | (t, some c) => emit t (.jobAnswer [(gridPos s, c)])
    | (t, none) => t
  | some k =>
    if firmwareUp s = false then s
    else if fromKeystone s k = false then sendMgmt (count s 0x8040 0x01) k (.jobAnswer [(gridPos s, 0x0502)])
    else
      let s := if op = 1 then { s with jobMembers := recMembers v } else s
      let m := if s.jobMembers = 0 then 2 ^ 64 - 1 else s.jobMembers
      let seen := s.jobSeen.any (fun x => x.1 == op && x.2.1 == recStart v)
      let s := { s with jobSeen := if seen then none else some (op, recStart v, false) }
      let again : Bool := match s.jobMember with | some x => decide (x.op = op ∧ x.startId = recStart v) | none => false
      let kids := if again ∨ s.mode = .faulted then [] else membersBelow s k m
      let s := if again ∨ s.mode = .faulted then s else forwardJob s k m op (recStart v) (if op = 1 then v else 0)
      let r := if bit (gridPos s) m then ownPart s op v l else (s, some 0)
      let own : List Nat := if bit (gridPos s) m then [gridPos s] else []
      match r with
      | (t, some c) =>
        let ans := own.map (fun p => (p, c))
        if kids.isEmpty then answerUp t (again || seen) ans
        else { t with jobMember := some { op := op, startId := recStart v, waiting := kids, answers := ans } }
      | (t, none) =>
        if again then { t with jobSeen := if seen then some (op, recStart v, true) else t.jobSeen }
        else { t with jobMember := some { op := op, startId := recStart v, waiting := kids ++ own, answers := [] } }

def execJobPrepare (fromPos : Option Nat) (staging : Nat) (list : List Nat) (s : State) : Res := run s fun s =>
  memberOp s fromPos 1 staging list

/-- The record of an operation that carries only START_ID. -/
def startOnly (id : Nat) : Nat := id % 2 ^ 32 * 2 ^ 224

def execJobCommit (fromPos : Option Nat) (startId : Nat) (s : State) : Res := run s fun s => memberOp s fromPos 2 (startOnly startId) []
def execJobRun (fromPos : Option Nat) (startId : Nat) (s : State) : Res := run s fun s => memberOp s fromPos 3 (startOnly startId) []
def execJobAbort (fromPos : Option Nat) (startId : Nat) (s : State) : Res := run s fun s => memberOp s fromPos 4 (startOnly startId) []
def execJobTeardown (fromPos : Option Nat) (s : State) : Res := run s fun s => memberOp s fromPos 5 0 []

/-- JOB_STEP_ANSWER (13 R425, R428). -/
def execJobStepAnswer (answers : List (Nat × Nat)) (s : State) : Res := run s fun s => giveAnswers s answers

/-- JOB_CHILD_WAIT_EXPIRY: the interior member sends one aggregated answer up (13 R425). -/
def execJobChildWaitExpiry (s : State) : Res := run s fun s =>
  match s.jobMember with
  | some x => answerUp { s with jobMember := none } false x.answers
  | none => s

/-- JOB_STEP_TIMEOUT (13 R428). -/
def execJobStepTimeout (s : State) : Res := run s fun s =>
  match s.jobStep with
  | some x => finishJobStep s x
  | none => s

/-! ### Clean (13 R430) -/

/-- Injection and delivery entries of the job are cleared (13 R430 step 5). -/
def clearAqueducts (s : State) : State :=
  let off (k : Nat) (e : BitVec 128) : BitVec 128 :=
    if (k / 256 = 32 ∨ k / 256 = 33 ∨ aqOut e = 0x21) ∧ aqTag e = s.jobTag ∧ aqValid e then e - BitVec.ofNat 128 (2 ^ 82) else e
  forEach s s.aqs (fun t p => { t with aqs := tput 0 t.aqs p.1 (off p.1 p.2) })

/-- Every context is unloaded. -/
def unloadAll (s : State) : State := forEach s (s.ctxs.map (·.1)) (fun t c => releaseCtx (closeRing t c) c)

/-- Steps 4 to 7 of 13 R430. -/
def enterClean (s : State) : State :=
  let s := unloadAll s
  let s := clearWindows (clearAqueducts s)
  let s := { s with
    sram := [], badWords := [], stones := s.stones.map (fun p => (p.1, { p.2 with dirty := [] })),
    senders := [], lineQ := [], homeReqs := [], ledgerWait := [], hotLines := [], dmas := [], writebacks := [], colls := [], mcasts := [],
    heldMsgs := [], backoffs := [], starts := [], jobList := [], teardown := false, mode := .clean, jobTag := 0,
    groupLists := tdel s.groupLists (groupKey 0 255) }
  let s := setE (setE (setE s 0x5000 0x03 0) 0x5000 0x04 0) 0x71FF 0x06 0
  newKey (setE s 0x3000 0x02 0)

/-- TEARDOWN_COMPLETE (13 R430): the last region has ended and the loader is idle; the package enters Clean and answers. -/
def execTeardownComplete (s : State) : Res := run s fun s =>
  if s.mode = .draining ∧ s.loading = none ∧ (loadedCtxs s).all (regionsEnded s) ∧
      (s.ctxs.all (fun p => p.2.state != .unloading || regionsEnded s p.1)) then
    let t := giveAnswers (enterClean s) [(gridPos s, 0)]
    if t.jobSeen.any (fun x => x.1 == 5 && x.2.2) then answerUp { t with jobSeen := none } true [(gridPos s, 0)] else t
  else s

end Sys2Proof.Machine
end

