-- ==== Sys2Proof/Machine/Flags.lean ====
section
/-! DEFINITION. What entries, interrupt levels and the FAULT_N ball show: every reading that the part computes from its state
(16 R511, R518; the entry tables of every chapter). -/

namespace Sys2Proof.Machine

/-! ### Interrupt levels (16 R517 to R519) -/

/-- The event sources: DICT_DONE, HOT_EXPERT, HOT_LINE, SYNC_WATCHDOG (16 R518). -/
def isEvent (n : Nat) : Bool := n == 4 || n == 9 || n == 10 || n == 12

/-- A byte of POND_FAULTS (16 R513); 0x80 before the first summary. -/
def pondFaultOf (s : State) (p : Nat) : Nat := tget 0x80 s.pondFaults p

/-- A byte that POND_FAULT reports: bit 1, 2 or 7 set. -/
def pondFaultBad (v : Nat) : Bool := bit 1 v || bit 2 v || bit 7 v

/-- TIME_VALID (15 R496). -/
def timeValid (s : State) : Bool := bit 0 (getE s 0xB000 0x02)

/-- A mailbox that holds RESULT_POSTED (15 R493). -/
def notifies (x : Mailbox) : Bool := x.posted && x.notify && !x.readBefore

/-- LEVEL of a source (16 R518). -/
def levelOn (s : State) (n : Nat) : Bool :=
  if n = 0 then s.recC.valid
  else if n = 1 then s.recU.valid
  else if n = 2 then s.recF.valid || decide (s.mode = .faulted)
  else if n = 3 then isKeystone s && (List.range 64).any (fun p => bit p (getE s 0x2056 0x07) && pondFaultBad (pondFaultOf s p))
  else if n = 5 then s.dictRefusal
  else if n = 6 then s.mailboxes.any (fun p => notifies p.2)
  else if n = 7 then !linkUp s
  else if n = 8 then !timeValid s && decide (2 ≤ s.mode.code)
  else if n = 11 then !s.kvWaits.isEmpty
  else if n = 13 then s.pools.any (fun p => decide (1 ≤ p.2.level))
  else if n = 14 then s.pools.any (fun p => decide (p.2.level = 3))
  else if n = 16 then decide (0 < s.power.powerDemand)
  else if n = 17 then decide (0 < s.power.thermalDemand)
  else if 64 ≤ n ∧ n < 96 then
    (match (portOf s (n - 64)).state with | .miswired | .refused | .fenced => true | _ => false)
  else if 256 ≤ n ∧ n < 512 then decide ((ctxOf s (n - 256)).state = .stopped)
  else isEvent n && s.holds.contains n

/-- A word of 32 flags. -/
def wordOfBits (f : Nat → Bool) : Nat := (List.range 32).foldl (fun a i => if f i then setBit a i else a) 0

def levelWord (s : State) (w : Nat) : Nat := wordOfBits (fun i => levelOn s (32 * w + i))

/-- IN_SERVICE (16 R520). -/
def inService (s : State) (n : Nat) : Bool := s.served.any (fun p => p.1 == n)

def stackOf (s : State) (t : Nat) : IrqStack := tget [] s.irqStacks t

/-! ### FAULT_N (16 R511) -/

/-- FAULT_N is held low. -/
def faultNLow (s : State) : Bool :=
  let sel := getE s 0x8000 0x01
  !s.resetLow && ((bit 0 sel && s.recC.valid) || (bit 1 sel && s.recU.valid) ||
    (bit 2 sel && (s.recF.valid || decide (s.mode = .faulted))))

/-! ### Power (17 R532) -/

/-- EFFECTIVE_TOLERANCE in ns. -/
def effectiveTolerance (s : State) : Nat :=
  let a := getE s 0x3000 0x02
  let b := if s.windows.any (fun w => winValid w.2) ∨ getE s 0x4062 0x02 ≠ 0 then min a (getE s 0x4060 0x02 * 500) else a
  if s.mode = .running then min b (min (getE s 0x7010 0x02 * 500) (getE s 0x7010 0x01 * 500)) else b

/-- THROTTLE_LEVEL (17 R544). -/
def throttleLevel (s : State) : Nat := max s.power.powerDemand s.power.thermalDemand

/-! ### Digests (13 R445, R446; 18 R561) -/

/-- The bytes of the entries 0x6100 to 0x61FF, sub-indices 0x01 to 0x1F, for a context. -/
def layerEntryBytes (s : State) (c : Nat) : List Byte :=
  (List.range 256).flatMap (fun n => (List.range 31).flatMap (fun i =>
    let v := if i + 1 = 0x0F then layerStatus s c n else layerSet s c n (i + 1)
    toLE (((findEntry (0x6100 + n) (i + 1)).map (·.size)).getD 0) v))

/-- The bytes of the placement tables of a context as they stand, layer by layer (03 R70, R72). -/
def placementBytes (s : State) (c : Nat) : List Byte :=
  ((List.range 256).filter (fun n => layerSet s c n 0x01 != 0)).flatMap (fun n =>
    (List.range (layerSet s c n 0x02)).flatMap (fun e =>
      let b := blockInForce s c n e
      (List.range 16).flatMap (fun i => toLE 4 ((b[i]?.map packReplica).getD 0))))

/-- IMAGE_HASH as 64 bytes (13 R445); zero for a slot without an image. -/
def imageHashBytes (s : State) (c : Nat) : List Byte :=
  match (ctxOf s c).image with
  | none => List.replicate 64 0
  | some i => sha512 (toLE i.byteCount i.bytes ++ placementBytes s c ++ layerEntryBytes s c ++ toLE 2 (getE s (0x5100 + c) 0x03))

/-- The map of disabled units: stones, routers, ports (13 R446). -/
def fenceMapBytes (s : State) : List Byte :=
  ((List.range 64).flatMap (fun c => toLE 8 (fenceWord (s.fenced ++ s.fuses.factoryFenced) c))) ++
    toLE 2 ((List.range 16).foldl (fun a b => if (routerOf s b).fenced then setBit a b else a) 0) ++
    toLE 4 ((List.range 32).foldl (fun a p => if (portOf s p).state = .fenced then setBit a p else a) 0)

/-- DETERMINISM_KEY as 16 bytes (13 R446); zero for a slot without an image. -/
def determinismKeyBytes (s : State) (c : Nat) : List Byte :=
  if (ctxOf s c).image.isNone then List.replicate 16 0
  else (sha512 (imageHashBytes s c ++ toLE 4 (getE s 0x5000 0x04) ++ toLE 4 (getE s 0x9010 0x01) ++ fenceMapBytes s)).take 16

/-! ### Values of single entries -/

/-- RESULT_MAILBOX (15 R492). -/
def mailboxWord (x : Mailbox) : Nat :=
  b2n x.posted * 2 ^ 63 + b2n (x.posted && x.readBefore) * 2 ^ 62 + x.code % 65536 * 2 ^ 32 + x.seq % 2 ^ 32

/-- RESULT_SLOTS (15 R499). -/
def resultSlots (s : State) : Nat :=
  (List.range 256).foldl (fun a c => if s.mailboxes.any (fun p => p.1 / 128 == c && notifies p.2) then setBit a c else a) 0

/-- CONTEXT_STATE code (13 R420). -/
def CtxState.code : CtxState → Nat
  | .empty => 0 | .loading => 1 | .swapped => 2 | .swappingIn => 3 | .ready => 4
  | .running => 5 | .blocked => 6 | .swappingOut => 7 | .stopped => 8 | .unloading => 9

/-- Port STATE code (10 R299). -/
def PortState.code : PortState → Nat
  | .down => 0 | .training => 1 | .authenticating => 2 | .up => 3 | .miswired => 4 | .refused => 5 | .fenced => 6

/-- PEER (10 R337). -/
def peerWord (x : Port) : Nat :=
  match x.peer with
  | some (k, p) => k % 2 ^ 14 * 256 + p % 64
  | none => 0xFFFFFFFF

/-- TOP, RUNNING_PRIORITY and DEPTH of an interrupt target (16 R529). -/
def stackView (l : IrqStack) (sub : Nat) : Nat :=
  match l with
  | [] => if sub = 1 then 0xFFFF else if sub = 2 then 0xFF else 0
  | (p, n) :: _ => if sub = 1 then n else if sub = 2 then p else l.length

/-- Range `[lo, lo + n)` of indexes. -/
def inRange (idx lo n : Nat) : Bool := decide (lo ≤ idx) && decide (idx < lo + n)

/-- The regions of tier 1 are reserved: from the entry to Configured until the part is Clean (04 R121; DEDUCED, log entry 135). -/
def regionsReserved (s : State) : Bool :=
  match s.mode with
  | .dormant | .verified | .clean => false
  | _ => true

/-- Readings of identity, fabric, power and memory entries, where they are not stored values. -/
def viewLow (s : State) (c idx sub : Nat) : Option Nat :=
  if idx = 0x2050 ∧ sub = 5 then some ((List.range 4).foldl (fun a e => if epochLive s e then setBit a e else a) 0)
  else if idx = 0x2052 ∧ 5 ≤ sub then some (epochHeld s (sub - 5) % 2 ^ 32)
  else if inRange idx 0x2100 32 ∧ sub = 1 then some (portOf s (idx - 0x2100)).state.code
  else if inRange idx 0x2100 32 ∧ sub = 2 then some (peerWord (portOf s (idx - 0x2100)))
  else if inRange idx 0x2100 32 ∧ sub = 3 then some (portOf s (idx - 0x2100)).roundTrip
  else if idx = 0x3000 ∧ sub = 1 then some s.power.state
  else if idx = 0x3000 ∧ sub = 3 then some (effectiveTolerance s)
  else if idx = 0x3020 ∧ sub = 6 then some (throttleLevel s)
  else if idx = 0x4030 ∧ sub = 3 then some ((s.ctxs.map (·.2.saveKib)).sum)
  else if idx = 0x4030 ∧ sub = 4 then some (if regionsReserved s then spillBase else 0)
  else if idx = 0x4030 ∧ sub = 5 then some (if regionsReserved s then retainBase s else 0)
  else if idx = 0x4052 then some (windowOf s (sub - 1)).toNat
  else if inRange idx 0x4100 256 ∧ sub = 7 then some (liveCount s (idx - 0x4100) (poolOf s (idx - 0x4100)))
  else if inRange idx 0x4100 256 ∧ sub = 8 then some (freeCount s (idx - 0x4100) (poolOf s (idx - 0x4100)))
  else if inRange idx 0x4100 256 ∧ sub = 9 then some (poolOf s (idx - 0x4100)).level
  else if inRange idx 0x4100 256 ∧ 0x20 ≤ sub then some (usedBy (poolOf s (idx - 0x4100)) (sub - 0x20))
  else if idx = 0x5000 ∧ sub = 1 then some s.mode.code
  else if inRange idx 0x5100 256 ∧ sub = 1 then some (ctxOf s (idx - 0x5100)).state.code
  else if inRange idx 0x5100 256 ∧ sub = 4 then some (fromLE (imageHashBytes s (idx - 0x5100)))
  else if inRange idx 0x5100 256 ∧ sub = 5 then some (fromLE (determinismKeyBytes s (idx - 0x5100)))
  else if idx = 0x6000 ∧ sub = 1 then some ((liveBays s).foldl setBit 0)
  else if idx = 0x6000 ∧ sub = 2 then some (liveBays s).length
  else if idx = 0x6010 ∧ sub = 2 then some ((s.ctxs.map (·.2.spillSlots)).sum)
  else if inRange idx 0x6100 256 ∧ sub = 0x0F then some (layerStatus s c (idx - 0x6100))
  else none

/-- Readings of fault, security, telemetry, time, link and interrupt entries. -/
def viewHigh (s : State) (c idx sub : Nat) : Option Nat :=
  if idx = 0x8010 then some (packRec (sub - 1) (recOf s (sub - 1)))
  else if idx = 0x8030 ∧ sub ≤ 0x40 then some (fenceWord (s.fenced ++ s.fuses.factoryFenced) (sub - 1))
  else if idx = 0x8030 then some (workingStones s)
  else if idx = 0x8050 then some (fromLE ((List.range 64).flatMap (fun p => toLE 1 (pondFaultOf s p))))
  else if idx = 0x9000 ∧ sub = 1 then some s.fuses.identityKey
  else if idx = 0x9000 ∧ sub = 2 then some s.fuses.identityCert
  else if idx = 0x9030 ∧ sub = 1 then some s.sec.challenge
  else if inRange idx 0xA100 32 ∧ 0x31 ≤ sub ∧ sub ≤ 0x40 then some (depthOf (portOf s (idx - 0xA100)) (sub - 0x31))
  else if idx = 0xB000 ∧ sub = 1 then some (now s)
  else if idx = 0xB020 then some (resultSlots s)
  else if idx = 0xB041 then some (ringOf s c).head
  else if idx = 0xB044 then some (mailboxWord (mailboxOf s (mbKey c (sub - 1))))
  else if idx = 0xC000 ∧ 0x21 ≤ sub ∧ sub ≤ 0x30 then some (levelWord s (sub - 0x21))
  else if idx = 0xC000 ∧ 0x31 ≤ sub then some (wordOfBits (fun i => inService s (32 * (sub - 0x31) + i)))
  else if inRange idx 0xC010 3 ∧ sub ≤ 3 then some (stackView (stackOf s (idx - 0xC010)) sub)
  else if inRange idx 0xC100 512 ∧ sub = 1 then some (getE s idx 1 % 64 + (if isEvent (idx - 0xC100) then 64 else 0))
  else none

/-- The value that a read of an entry returns: fixed, computed, or the stored value (14 R454, R458). -/
def entryValue (idx sub : Nat) (q : Req) (s : State) : Nat :=
  let c := viewCtx s idx sub q
  match fixedDefault s idx sub with
  | some v => v
  | none => match viewLow s c idx sub with
    | some v => v
    | none => match viewHigh s c idx sub with
      | some v => v
      | none => getC s c idx sub

end Sys2Proof.Machine
end

