-- ==== Sys2Proof/Machine/Irq.lean ====
section
/-! DEFINITION. The plumb's commands (16 R502 to R514, R591) and the interrupt controller (16 R517 to R526). -/

namespace Sys2Proof.Machine

/-! ### Reports and acknowledgements (16 R502 to R512, R591) -/

/-- A MGMT_PROCESSOR fault names the processor that has failed; the other takes over its duties (16 R591). -/
def failProcessor (s : State) (f : Fault16) : State :=
  if f.cause = 0x49 ∧ f.kind = 6 ∧ f.unit < 2 ∧ !s.mpFailed.contains f.unit then { s with mpFailed := s.mpFailed ++ [f.unit] } else s

/-- Parity of a sequencer or of sync objects: the context stops on that stone (16 R515). -/
def stopParity (s : State) (f : Fault16) : State :=
  if f.cause = 0x0E ∧ f.kind = 0 then
    match (stoneOf s f.unit).owner with
    | some c => stopAt s c f.unit
    | none => s
  else s

/-- An accumulator of a confluence is lost (16 R515): the token that the report names by its bay, context and id completes TIMED_OUT, its
output open and its other returns unwanted, as a retire completes one (DESIGN CHOICE, log entry 142). -/
def loseAccumulator (s : State) (f : Fault16) : State :=
  if f.cause = 0x15 ∧ f.kind = 2 then
    match s.confs.find? (fun c => !c.done && c.bay == f.unit && f.ctx == some c.key.ctx && c.key.tokenId == f.detail) with
    | none => s
    | some c =>
      let v := openValue s
      let acc := (List.range c.acc.length).map (fun i => BitVec.ofNat 32 (v / 2 ^ (32 * i)))
      endToken (dropBufs (modConf (fresh s) c.key (fun x => { x with timedOut := true, acc := acc })) c.key (fun _ _ => true)) c.key
  else s

/-- FAULT_REPORT (16 R504 to R506, R512, R515): what the failing unit does happens whether or not its pair is ignored (16 R502, R503). -/
def execFaultReport (fs : List Fault16) (s : State) : Res := run s fun s =>
  raise (forEach (forEach (forEach s fs failProcessor) fs stopParity) fs loseAccumulator) fs

/-- REPORT_WIRE_STUCK (16 R502): the fault is recorded against the unit that owns the pair, and the pair is ignored until
reset. -/
def execReportWireStuck (kind unit level : Nat) (s : State) : Res := run s fun s =>
  if s.deadPairs.contains (kind, unit) then s
  else
    let s := raise1 s 1 0x4D kind unit none (level % 2)
    { s with deadPairs := s.deadPairs ++ [(kind, unit)] }

/-- The records of the selected classes go to their reset value (16 R508). -/
def ackRecords (s : State) (v : Nat) : State :=
  let s := if bit 0 v then { s with recC := FaultRec.empty, cAckDue := false } else s
  let s := if bit 1 v then { s with recU := FaultRec.empty } else s
  if bit 2 v then { s with recF := FaultRec.empty } else s

def actFaultAck (q : Req) (s : State) : Act := .done (ackRecords s q.value)

/-- FAULT_ACK (16 R508). -/
def execFaultAck (q : Req) (s : State) : Res := run s (serveWrite 0x8020 0x01 q (actFaultAck q))

/-- C_ACK_HOLD_EXPIRY (16 R512): under policy 1 the firmware acknowledges class C. -/
def execCAckHoldExpiry (s : State) : Res := run s fun s =>
  if s.cAckDue ∧ firmwareUp s ∧ getE s 0x8000 0x02 = 1 then ackRecords s 1 else s

/-! ### Pond fault summaries (16 R513, R514) -/

/-- The fault summary of this package (16 R513). -/
def summaryByte (s : State) : Nat :=
  b2n s.recC.valid + 2 * b2n s.recU.valid + 4 * b2n s.recF.valid + 8 * b2n (decide (s.mode = .faulted))

def setPondFault (s : State) (p v : Nat) : State := { s with pondFaults := tput 0x80 s.pondFaults p v }

/-- The firmware sends the summary to the keystone, or keeps it at the own position where this package is the keystone. -/
def sendSummary (s : State) : State :=
  let v := summaryByte s
  let s := { s with lastSummary := v }
  if isKeystone s then setPondFault s (gridPos s) v
  else if getE s 0x2010 0x01 = 0xFF ∨ s.keystoneSilent then s
  else inject (emit s (.summary v)) 0 (mkPacket s (64 * pondOf s + getE s 0x2010 0x01) 7 5 0 0 (toLE 1 v))

/-- FAULT_SUMMARY_SEND (16 R513). -/
def execFaultSummarySend (s : State) : Res := run s fun s => if firmwareUp s then sendSummary s else s

/-- FAULT_SUMMARY (16 R513): the keystone keeps the byte; any other package discards it. -/
def execFaultSummary (fromPos byte : Nat) (s : State) : Res := run s fun s =>
  if firmwareUp s ∧ isKeystone s ∧ fromPos < 64 then setPondFault s fromPos (byte % 16) else s

/-- SUMMARY_STALE (16 R513). -/
def execSummaryStale (pos : Nat) (s : State) : Res := run s fun s =>
  if firmwareUp s ∧ isKeystone s ∧ pos < 64 then setPondFault s pos (setBit (pondFaultOf s pos) 7) else s

/-! ### Pending, selection, delivery (16 R520 to R522) -/

def maskOf (s : State) (n : Nat) : Bool := bit (n % 32) (getE s 0xC000 (1 + n / 32))
def pendingOf (s : State) (n : Nat) : Bool := bit (n % 32) (getE s 0xC000 (0x11 + n / 32))
def priorityOf (s : State) (n : Nat) : Nat := getE s (0xC100 + n) 1 % 16
def targetOf (s : State) (n : Nat) : Nat := getE s (0xC100 + n) 1 / 16 % 4

def setPending (s : State) (n : Nat) (v : Bool) : State :=
  let w := getE s 0xC000 (0x11 + n / 32)
  setE s 0xC000 (0x11 + n / 32) (if v then setBit w (n % 32) else clrBit w (n % 32))

/-- The controller sets PENDING of every source whose LEVEL is 1 and that is not in service (16 R520). -/
def samplePending (s : State) : State :=
  forEach s (List.range 512) (fun t n => if levelOn s n && !inService s n && !pendingOf s n then setPending t n true else t)

/-- The target to which a source goes: the surviving processor where its own has failed (16 R591). -/
def goesTo (s : State) (n : Nat) : Nat :=
  let t := targetOf s n
  if t < 2 ∧ s.mpFailed.contains t ∧ !s.mpFailed.contains (1 - t) then 1 - t else t

/-- The source that the controller considers for a target: the highest priority, then the lowest number (16 R521). -/
def bestSource (s : State) (t : Nat) : Option Nat :=
  minBy (fun n => (15 - priorityOf s n) * 512 + n)
    ((List.range 512).filter (fun n => pendingOf s n && !maskOf s n && !inService s n && goesTo s n == t))

/-- The source is above the running priority of the target, or its stack is empty. -/
def aboveRunning (s : State) (t n : Nat) : Bool :=
  match stackOf s t with
  | [] => true
  | (p, _) :: _ => decide (p < priorityOf s n)

/-- INTERRUPT_SELECT (16 R520, R521). -/
def execInterruptSelect (target : Nat) (s : State) : Res := run s fun s =>
  let s := samplePending s
  match bestSource s target with
  | none => s
  | some n =>
    if 3 ≤ target ∨ aboveRunning s target n = false then s
    else
      let s := setPending s n false
      { s with
        served := s.served ++ [(n, target)]
        delivering := s.delivering ++ [(n, target)]
        irqStacks := tput [] s.irqStacks target ((priorityOf s n, n) :: stackOf s target) }

/-- INTERRUPT_DELIVERY (16 R522): the processor takes the interrupt; the MESSAGE to the host joins the queue of
Umora Link, where it waits while the link is not up. Its priority is the one pushed at the selection. -/
def execInterruptDelivery (source : Nat) (s : State) : Res := run s fun s =>
  match s.delivering.find? (fun d => d.1 == source) with
  | none => s
  | some (n, t) =>
    let s := count { s with delivering := s.delivering.erase (n, t) } 0xA0C0 0x05
    let s := if maskOf s n then count s 0xA0C0 0x07 else s
    if t = 2 then emit s (.hostMessage n (((stackOf s t).find? (fun x => x.2 == n)).map (·.1) |>.getD 0))
    else emit s (.mgmtInterrupt t n)

/-! ### End of interrupt (16 R523, R524) -/

/-- An accepted end-of-interrupt: the stack is popped, IN_SERVICE cleared, and LEVEL sampled. -/
def endInterrupt (s : State) (t n : Nat) : State :=
  let s := { s with
    irqStacks := tput [] s.irqStacks t (stackOf s t).tail
    served := s.served.filter (fun p => p.1 != n) }
  if levelOn s n then setPending s n true else s

/-- The source is the TOP of the target's stack. -/
def isTop (s : State) (t n : Nat) : Bool := ((stackOf s t).head?.map (·.2)) == some n

/-- MGMT_EOI (16 R523). -/
def execMgmtEoi (target source : Nat) (s : State) : Res := run s fun s =>
  if target < 2 ∧ isTop s target source then endInterrupt s target source
  else raise1 (count s 0xA0C0 0x06) 0 0x4E 6 (target % 2) none 0

def actHostEoi (q : Req) (s : State) : Act :=
  if isTop s 2 q.value then .done (endInterrupt s 2 q.value) else .refuse 0x0302 (count s 0xA0C0 0x06)

/-- HOST_EOI (16 R523, R526). -/
def execHostEoi (q : Req) (s : State) : Res := run s (serveWrite 0xC012 0x04 q (actHostEoi q))

/-- SERVE clears the hold bit of an event source (16 R519). -/
def actServe (n : Nat) (s : State) : Act :=
  if isEvent n then .done { s with holds := s.holds.filter (fun h => h != n) } else .refuse 0x0302 s

def execServe (source : Nat) (q : Req) (s : State) : Res := run s (serveWrite (0xC100 + source) 0x02 q (actServe source))

/-- PENDING is replaced; bits whose LEVEL is 1 are set again (16 R525). -/
def actPending (w : Nat) (q : Req) (s : State) : Act := .done (samplePending (setE s 0xC000 (0x11 + w) q.value))

/-- PENDING_WRITE (16 R525). -/
def execPendingWrite (word : Nat) (q : Req) (s : State) : Res := run s (serveWrite 0xC000 (0x11 + word) q (actPending word q))

/-- SOURCE_CONFIG: TARGET 3 is reserved, and KIND is fixed (16 R519). -/
def actSourceConfig (n : Nat) (q : Req) (s : State) : Act :=
  if q.value / 16 % 4 = 3 then .refuse 0x0302 s else .done (setE s (0xC100 + n) 1 (q.value % 64))

end Sys2Proof.Machine
end

