-- ==== Sys2Proof/Machine/Levels.lean ====
section
/-! DEFINITION. Package id, keystone and beacons (01 R14 to R17, R27 to R33; 16 R514). -/

namespace Sys2Proof.Machine

/-- A package that has become keystone marks every byte of POND_FAULTS stale (16 R514). -/
def markStale (s : State) : State := forEach s (List.range 64) (fun t p => setPondFault t p (setBit (pondFaultOf t p) 7))

/-- The effects of a change from worker to keystone. -/
def afterRole (was : Bool) (s : State) : State := if was = false ∧ isKeystone s then markStale s else s

/-- A write of the package id (01 R14 to R16): ASSIGNED is set, and where the id changes, every port that is neither DOWN nor
FENCED retrains. -/
def actPackageId (q : Req) (s : State) : Act :=
  let old := pkgId s
  let new := q.value % 2 ^ 14
  let was := isKeystone s
  let s := setE s 0x1020 0x01 (2 ^ 15 + new)
  let s := afterRole was s
  .done (if old = new then s
    else forEach s (List.range 32) (fun t p => match (portOf t p).state with
      | .down | .fenced => t
      | _ => beginRetrain t p))

/-- PACKAGE_ID_WRITE (01 R15, R16). -/
def execPackageIdWrite (q : Req) (s : State) : Res := run s (serveWrite 0x1020 0x01 q (actPackageId q))

/-- A write of the keystone position (01 R27, R28, R32, R33; 16 R514). -/
def actKeystone (q : Req) (s : State) : Act :=
  let was := isKeystone s
  let changed := decide (getE s 0x2010 0x01 ≠ q.value)
  let s := setE { s with keystoneSilent := false, newKeystone := s.newKeystone || changed } 0x2010 0x01 q.value
  .done (afterRole was s)

/-- KEYSTONE_POSITION_WRITE (01 R27, R33). -/
def execKeystonePositionWrite (q : Req) (s : State) : Res := run s (serveWrite 0x2010 0x01 q (actKeystone q))

/-- The other members of the pond (10 R338, POND_MEMBERS). -/
def pondMembers (s : State) : List Nat := (List.range 64).filter (fun p => bit p (getE s 0x2056 0x07) && decide (p ≠ gridPos s))

/-- KEYSTONE_BEACON (01 R31): to every other member of the pond (DESIGN CHOICE, log entry 118: 01 R31 names no list). -/
def execKeystoneBeacon (s : State) : Res := run s fun s =>
  if isKeystone s ∧ firmwareUp s then
    forEach (emit s (.beacon (getE s 0x2010 0x02))) (pondMembers s) (fun t p => carryMgmt t 0 p)
  else s

/-- POND_BEACON (01 R30, 16 R514): a beacon of another package than the recorded keystone is refused and counted; the first one
of a new keystone is answered with the fault summary. -/
def execPondBeacon (fromPos : Nat) (s : State) : Res := run s fun s =>
  if firmwareUp s = false then s
  else if fromKeystone s fromPos = false then count s 0x8040 0x01
  else if s.newKeystone then sendSummary { s with newKeystone := false }
  else s

/-- KEYSTONE_SILENT (01 R32): KEYSTONE_SILENT of class U at a worker. -/
def execKeystoneSilent (s : State) : Res := run s fun s =>
  if firmwareUp s = false ∨ getE s 0x2010 0x01 = 0xFF ∨ isKeystone s ∨ s.keystoneSilent then s
  else raise1 { s with keystoneSilent := true } 1 0x40 6 0 none 0

end Sys2Proof.Machine
end

