-- ==== Sys2Proof/Machine/Link.lean ====
section
/-! DEFINITION. Umora Link and time (15 R479 to R485, R494 to R498). -/

namespace Sys2Proof.Machine

/-- The Umora Link port as a unit of the plumb (16 R507). -/
def umoraFault (cls cause detail : Nat) : Fault16 := mkFault cls cause 6 6 none detail

/-! ### Flits (15 R480, R481) -/

/-- Flits after `ack` in the order sent: those that ACK_SEQ does not cover. -/
def afterFlit (ack : Nat) (l : List (Nat × Nat)) : List (Nat × Nat) :=
  if l.any (fun x => x.1 == ack) then (l.dropWhile (fun x => x.1 != ack)).drop 1 else l

/-- Every flit in the replay buffer is sent again, in order; each counts (15 R481). -/
def resendFlits (s : State) : State :=
  let l := s.umora.replay
  let s := forEach s l (fun t x => emit (count t 0xA0B0 0x02) (.flitResend x.1))
  { s with umora := { s.umora with replay := l.map (fun x => (x.1, x.2 + 1)) } }

/-- Umora Link retrains: numbered flits are held (15 R482). -/
def retrainUmora (s : State) : State :=
  count (setE { s with umora := { s.umora with held := true } } 0xB010 0x01 1) 0xA0B0 0x03

/-- The part answers a flit: an idle flit with the last SEQ used, what it accepted, and the credits it returned (15 R480, R481). -/
def answerFlit (s : State) (nak : Bool) : State :=
  let u := s.umora
  emit s (.flit ((u.txSeq + 1023) % 1024) u.rxSeq nak u.gotP u.gotN)

/-- A flit is discarded, and the receiver answers with NAK. -/
def discardFlit (s : State) : State :=
  answerFlit { count s 0xA0B0 0x01 with umora := { s.umora with nakOut := true } } true

/-- A flit's header is taken: its acknowledgement, its credits and a NAK (15 R480, R481); a flit resent more than 16 times
makes the link retrain (15 R482). -/
def takeHeader (s : State) (f : Flit) : State :=
  let s := { s with umora := { s.umora with
    replay := afterFlit f.ackSeq s.umora.replay, creditP := f.creditP % 4096, creditN := f.creditN % 4096 } }
  if f.nak then
    let s := resendFlits s
    if s.umora.replay.any (fun x => decide (16 < x.2)) then retrainUmora s else s
  else s

/-- FLIT_RECEIVED (15 R481). -/
def execFlitReceived (f : Flit) (s : State) : Res := run s fun s =>
  if linkUp s = false then s
  else if f.crcOk = false ∨ (f.idle = false ∧ f.seq ≠ (s.umora.rxSeq + 1) % 1024) then discardFlit s
  else
    let s := if f.idle then s
      else answerFlit { s with umora := { s.umora with rxSeq := f.seq % 1024, nakOut := false } } false
    pumpUmora (takeHeader s f)

/-- UMORA_LOCK_LOSS (15 R482). -/
def execUmoraLockLoss (s : State) : Res := run s fun s => if linkUp s then retrainUmora s else s

def actLinkRetrain (s : State) : Act := .done (retrainUmora s)

/-- LINK_RETRAIN (15 R482). -/
def execLinkRetrain (q : Req) (s : State) : Res := run s (serveWrite 0xB010 0x03 q actLinkRetrain)

/-- UMORA_TRAINING_COMPLETE (15 R482): 8 lanes, or 4 with UMORA_DEGRADED of class C; the held flits are replayed. With no lanes
the link stays down. -/
def execUmoraTrainingComplete (lanes : Nat) (roundTrip : Nat) (s : State) : Res := run s fun s =>
  if linkUp s then s
  else if lanes ≠ 8 ∧ lanes ≠ 4 then setE s 0xB010 0x01 0
  else
    let s := setE (setE s 0xB010 0x01 (if lanes = 8 then 2 else 3)) 0xB010 0x02 (roundTrip % 2 ^ 32)
    let s := setE s 0x3010 0x01 (setBit (getE s 0x3010 0x01) 13)
    let s := if s.umora.held then resendFlits s else s
    let s := pumpUmora { s with umora := { s.umora with held := false, downFault := false } }
    if lanes = 4 then raise s [umoraFault 0 0x42 0] else s

/-- The reads of fills from host memory have failed, which the millrace takes as a second uncorrectable read (15 R483, 11 R352). -/
def failHostFills (s : State) : State :=
  { s with fills := s.fills.map (fun f => if (objOf s f.ctx f.obj).tier = 3 then { f with failed := true } else f) }

/-- UMORA_DOWN (15 R483): the fault of class U; outstanding requests to host addresses complete with an error. -/
def execUmoraDown (s : State) : Res := run s fun s =>
  if linkUp s ∨ s.umora.downFault then s
  else
    let s := raise { failHostFills s with umora := { s.umora with
      downFault := true, reads := [], queue := s.umora.queue.filter (fun p => pktClass p.out != 1) } } [umoraFault 1 0x43 0]
    let gone := s.dmas.filter (fun d => usesHost d.desc)
    forEach (forEach s gone dropDma) gone (fun t m => startDma (dmaError t m) m.stone)

/-- HOST_COMPLETION (15 R484, R485): the bytes go to the unit whose read has the tag; the last completion, or one with an error
status, ends the read. -/
def execHostCompletion (tag status : Nat) (last : Bool) (bytes : List (BitVec 8)) (s : State) : Res := run s fun s =>
  if s.umora.reads.any (fun r => r.tag == tag) then
    pumpUmora { s with umora := { s.umora with
      reads := if last ∨ status ≠ 0 then s.umora.reads.filter (fun r => r.tag != tag) else s.umora.reads
      comps := s.umora.comps ++ [{ tag := tag, status := status, bytes := bytes }] } }
  else s

/-! ### Time (15 R494 to R498) -/

/-- TIME_VALID takes a value; its fall raises TIME_INVALID of class C (15 R496). -/
def setTimeValid (s : State) (v : Bool) : State :=
  let old := getE s 0xB000 0x02
  let t := setE s 0xB000 0x02 (old / 2 * 2 + b2n v)
  if timeValid s ∧ v = false then raise1 t 0 0x41 6 2 none 0 else t

/-- An offset beyond ±1 µs steps TIMEBASE in Dormant, Verified and Clean (15 R496). -/
def stepsTime (s : State) (offset : Int) : Bool :=
  (decide (s.mode = .dormant) || decide (s.mode = .verified) || decide (s.mode = .clean)) && decide (1000 < offset.natAbs)

/-- The correction stays within ±500 ppm of the 40 ns tick, in units of 2^-32 ns (15 R494). -/
def boundCorr (c : Int) : Int := max (-85899345) (min 85899345 c)

/-- The correction of a tick (15 R494, R495): the estimated frequency error, and while the millisecond after a beacon lasts what
removes half of its offset. -/
def tickCorr (k : Clock) : Int := boundCorr (k.freq + if k.slewLeft = 0 then 0 else k.slew)

/-- What removes half of an offset over the 25,000 ticks of a millisecond, rounded toward zero (15 R495; DESIGN CHOICE, log entry 100). -/
def slewOf (offset : Int) : Int := (offset * 2 ^ 32).tdiv 50000

/-- TIME_BEACON (15 R495, R496): an offset that steps TIMEBASE leaves nothing to remove. -/
def execTimeBeacon (beaconTime arrivalTime : Nat) (s : State) : Res := run s fun s =>
  let s := hostTaken s true
  let offset : Int := (beaconTime : Int) + ((getE s 0xB010 0x02 / 2 : Nat) : Int) - (arrivalTime : Int)
  let s := setE (count s 0xA0B0 0x07) 0xB000 0x03 (twos 32 offset)
  let s := setE s 0xB000 0x02 (setBit (getE s 0xB000 0x02) 1)
  let offs := (offset :: s.clock.offsets).take 16
  let s :=
    if stepsTime s offset then
      count { s with clock := { s.clock with ns := ((s.clock.ns : Int) + offset).toNat % 2 ^ 64, slew := 0, slewLeft := 0 } } 0xA0B0 0x09
    else { s with clock := { s.clock with slew := slewOf offset, slewLeft := 25000 } }
  let s := { s with clock := { s.clock with freq := Config.frequencyError offs, offsets := offs, lastBeacon := some s.clock.ns } }
  setTimeValid s (decide (offset.natAbs ≤ 500))

/-- BAD_MESSAGE (15 R498). -/
def execBadMessage (code : Nat) (s : State) : Res := run s fun s =>
  if code = 1 ∨ code = 2 then s else count (hostTaken s true) 0xA0B0 0x08

/-- HOLDOVER_EXPIRY (15 R496). -/
def execHoldoverExpiry (s : State) : Res := run s fun s => setTimeValid s false

/-- One tick of the always-on clock: TIMEBASE advances by 40 ns plus the correction (15 R494), and RESIDENCY counts the
microseconds that pass (17 R549). -/
def tickClock (s : State) : State :=
  let total : Int := (s.clock.frac : Int) + 40 * 2 ^ 32 + tickCorr s.clock
  let ns := (s.clock.ns + (total / 2 ^ 32).toNat) % 2 ^ 64
  let t := { s with clock := { s.clock with ns := ns, frac := (total % 2 ^ 32).toNat, slewLeft := s.clock.slewLeft - 1 } }
  countBy t 0xA0A0 (s.power.state + 1) (ns / 1000 - s.clock.ns / 1000)

end Sys2Proof.Machine
end

