-- ==== Sys2Proof/Machine/Memory.lean ====
section
/-! DEFINITION. STORE and the ATOMICs of the MEMORY class (11 R353 to R358), which read SRAM under 05 R169. -/

namespace Sys2Proof.Machine

/-- STORE (11 R353): writes up to 4,096 bytes of SRAM at a pond address, or up to 64 within one line of a lake window. -/
def execMemoryStore (st : Nat) (h : IHdr) (o : Operands) (s : State) : Res := run s fun s =>
  let r := fld 111 108 o
  let n := fld 103 92 o + 1
  let src := (reg s st (fld 107 104 o)).toNat
  let a := pairAddr s st r
  let lake := bit 63 a
  memIssue s st (headerOk h false && onlyFields [(111, 92)] o && decide (r % 2 = 0)) [(src, n)] [] fun s =>
    if !addressOk a || !inSram src n || (lake && (decide (n > 64) || decide (addressOffset a % 64 + n > 64))) then
      failStone s st 0x05
    else if requestWaits s 0 st 1 (homeOf s a) lake (addressOffset a) n then stallOn s st .request
    else readRanges s st [(src, n)] [] fun s =>
      let pc := (stoneOf s st).pc
      issueRequest (takeSlot s st 3 [(src, n)] [] h) st 1 (homeOf s a) lake (addressOffset a) n (sramRead s st src n) none 0 pc
        (sigOf h) 0

/-- An ATOMIC with operation `aop` (11 R353): reads its operands from SRAM and returns the old value unless NORET. -/
def atomic (aop st : Nat) (h : IHdr) (o : Operands) (s : State) : State :=
  let r := fld 111 108 o
  let w := if flag 95 o then 8 else 4
  let lake := flag 94 o
  let opOff := (reg s st (fld 107 104 o)).toNat
  let resOff := (reg s st (fld 103 100 o)).toNat
  let opLen := if aop = 0 then 0 else if aop = 2 then 16 else 8
  let noret := flag 92 o
  let a := pairAddr s st r
  let dsts := if noret then [] else [(resOff, 8)]
  memIssue s st (headerOk h false && onlyFields [(111, 92)] o && decide (r % 2 = 0) && decide (fld 99 96 o = aop) &&
      (lake || !flag 93 o)) [(opOff, opLen)] dsts fun s =>
    if !(bit 63 a == lake) || !addressOk a || decide (addressOffset a % w ≠ 0) ||
        (decide (aop ≠ 0) && (decide (opOff % 8 ≠ 0) || !inSram opOff opLen)) ||
        (!noret && (decide (resOff % 8 ≠ 0) || !inSram resOff 8)) then failStone s st 0x05
    else if requestWaits s 0 st (4 + aop) (homeOf s a) lake (addressOffset a) w then stallOn s st .request
    else readRanges s st [(opOff, opLen)] [] fun s =>
      let pc := (stoneOf s st).pc
      issueRequest (takeSlot s st 3 [(opOff, opLen)] dsts h) st (4 + aop) (homeOf s a) lake (addressOffset a) w
        (sramRead s st opOff opLen) (if noret then none else some resOff) 8 pc (sigOf h) 0

def execAtomicRead (st : Nat) (h : IHdr) (o : Operands) (s : State) : Res := run s (atomic 0 st h o)
def execAtomicSwap (st : Nat) (h : IHdr) (o : Operands) (s : State) : Res := run s (atomic 1 st h o)
def execAtomicCas (st : Nat) (h : IHdr) (o : Operands) (s : State) : Res := run s (atomic 2 st h o)
def execAtomicAdd (st : Nat) (h : IHdr) (o : Operands) (s : State) : Res := run s (atomic 3 st h o)
def execAtomicAnd (st : Nat) (h : IHdr) (o : Operands) (s : State) : Res := run s (atomic 4 st h o)
def execAtomicOr (st : Nat) (h : IHdr) (o : Operands) (s : State) : Res := run s (atomic 5 st h o)
def execAtomicXor (st : Nat) (h : IHdr) (o : Operands) (s : State) : Res := run s (atomic 6 st h o)
def execAtomicMaxS (st : Nat) (h : IHdr) (o : Operands) (s : State) : Res := run s (atomic 7 st h o)
def execAtomicMinS (st : Nat) (h : IHdr) (o : Operands) (s : State) : Res := run s (atomic 8 st h o)
def execAtomicMaxU (st : Nat) (h : IHdr) (o : Operands) (s : State) : Res := run s (atomic 9 st h o)
def execAtomicMinU (st : Nat) (h : IHdr) (o : Operands) (s : State) : Res := run s (atomic 10 st h o)

/-- BUFFER_RELEASE, MEMORY OP 0xF (09 R288 to R290); it waits while the release queue of a pool in its rebuild is full. -/
def execBufferRelease (st : Nat) (h : IHdr) (o : Operands) (s : State) : Res := run s fun s =>
  memIssue s st (headerOk h false && onlyFields [(111, 108)] o) [] [] fun s =>
    let v := reg s st (fld 111 108 o)
    let x := poolOf s (handlePool v.toNat)
    if x.rebuilding ∧ 64 ≤ x.relQueue.length ∧ releaseOk s v then stallOn s st .release
    else
    let (t, ok) := releaseBuffer s v
    if ok then completeNow t st h
    else match (stoneOf t st).owner with
      | some c => stopAt t c st
      | none => t

end Sys2Proof.Machine
end

