-- ==== Sys2Proof/Machine/Power.lean ====
section
/-! DEFINITION. Power states, clocks, limits and start-up (17 R531 to R549), and the supplies (19 R576). -/

namespace Sys2Proof.Machine

/-- The always-on domain as a unit of the plumb; it holds the power controller and the clock monitors (17 R540, 16 R507). -/
def aonFault (cls cause detail : Nat) : Fault16 := mkFault cls cause 6 2 none detail

/-! ### Power states (17 R531 to R538) -/

/-- Entry time and wake latency of a state, in ns (17 R531). -/
def entryNs (k : Nat) : Nat := if k = 2 then 1000 else if k = 3 then 10000 else if k = 4 then 50000 else 0
def wakeNs (k : Nat) : Nat := if k = 1 then 50 else if k = 2 then 5000 else if k = 3 then 60000 else if k = 4 then 2000000 else 0

/-- The state's entry and wake fit the effective tolerance (17 R532). -/
def qualifies (s : State) (k : Nat) : Bool := decide (entryNs k + wakeNs k ≤ effectiveTolerance s)

/-- A context's state lets the package be quiescent (17 R533). -/
def ctxQuiet (x : Ctx) : Bool :=
  match x.state with
  | .running | .ready | .swappingIn | .swappingOut | .loading | .unloading => false
  | _ => true

/-- No enabled ring has an untaken entry. -/
def ringsEmpty (s : State) : Bool :=
  (List.range 256).all (fun c => decide (getE s (0xB100 + c) 0x03 = 0) || decide ((ringOf s c).head = getE s (0xB100 + c) 0x07))

/-- A packet that waits in this package's switches for one of its units other than the switch and the management processors (17 R533). -/
def packetWaits (s : State) : Bool :=
  let waits (p : Packet) : Bool := decide (1 ≤ p.cls) && decide (p.dest = pkgId s) && decide (p.target ≠ 5) && decide (p.target ≠ 6)
  let holds (q : QItem) : Bool := match q.body with | .routed p => waits p | _ => false
  s.injQ.any (fun x => waits x.2) || s.bridgeQ.any (fun x => holds x.2) || s.ports.any (fun p => p.2.rx.any holds)

/-- The package is quiescent (17 R533). -/
def quiescent (s : State) : Bool :=
  s.ctxs.all (fun p => ctxQuiet p.2) && ringsEmpty s && s.rings.all (fun r => r.2.cmd.isNone) &&
    s.dictQ.isEmpty && s.deferred.isEmpty && s.relays.isEmpty && s.loading.isNone &&
    s.fetchQ.isEmpty && s.fetchHeld.isEmpty && s.fills.isEmpty && s.writebacks.isEmpty && s.dmas.isEmpty && s.senders.all (fun p => p.2.reqs.isEmpty && p.2.waitQ.isEmpty) && !packetWaits s &&
    s.pools.all (fun p => p.2.waiting.isEmpty) && s.ledgerWait.isEmpty && s.lineQ.isEmpty && s.homeReqs.isEmpty &&
    s.aqGot.all (fun p => p.2.isEmpty)

/-- The further conditions of Still (17 R534). -/
def stillAllowed (s : State) : Bool :=
  (residentCtxs s).isEmpty && s.pools.all (fun p => p.2.counts.isEmpty) && s.colls.isEmpty && s.mcasts.isEmpty

/-- The device states that may leave Run (17 R538). -/
def mayRest (s : State) : Bool :=
  match s.mode with
  | .dormant | .draining | .faulted => false
  | _ => true

/-- PLLs of the arithmetic and memory domains in PLL_STATUS (17 R548). -/
def fastPlls : Nat := 0x1FE6

/-- A wake starts; a second event during it has no effect (17 R535, R536). -/
def startWake (s : State) : State :=
  if s.power.waking then s else count { s with power := { s.power with waking := true, wakePending := false } } 0xA0A0 0x06

/-- A wake event: remembered during an entry; after a thermal trip the part stays as it is (17 R535, R536, R544). -/
def wakeNow (s : State) : State :=
  if s.power.entering.isSome then { s with power := { s.power with wakePending := true } }
  else if s.power.state = 0 ∨ 3 ≤ s.power.trip then s
  else startWake s

/-- The package is in a state: Doze and Still stop the fast PLLs, and Still takes the supply from the SRAM (17 R531). -/
def inPowerState (s : State) (k : Nat) : State :=
  let s := { s with power := { s.power with state := k, entering := none, sramOff := s.power.sramOff || decide (k = 4) } }
  if 3 ≤ k then setE s 0x3010 0x01 (getE s 0x3010 0x01 - (getE s 0x3010 0x01 &&& fastPlls)) else s

/-- POWER_STATE_ENTRY (17 R532 to R534, R538): the dwell of the next deeper state has passed. Entry to Idle takes no time. -/
def execPowerStateEntry (s : State) : Res := run s fun s =>
  let k := s.power.state + 1
  if mayRest s = false ∨ s.power.waking ∨ s.power.entering.isSome ∨ 4 < k ∨ quiescent s = false ∨ qualifies s k = false ∨
      (k = 4 ∧ stillAllowed s = false) then s
  else if k = 1 then inPowerState s 1
  else { s with power := { s.power with entering := some k } }

/-- POWER_ENTRY_COMPLETE (17 R536). -/
def execPowerEntryComplete (s : State) : Res := run s fun s =>
  match s.power.entering with
  | none => s
  | some k =>
    let s := inPowerState s k
    if s.power.wakePending then startWake s else s

/-- WAKE_EVENT (17 R535). -/
def execWakeEvent (c : WakeCause) (s : State) : Res := run s fun s =>
  match c with
  | .mapped | .packet | .signal | .timer | .setting | .transition => wakeNow s

/-- The restore that a wake from Still needs (17 R537). -/
def restoreStill (s : State) : State :=
  let s := { s with
    sram := [], badWords := []
    routers := s.routers.map (fun r => (r.1, { r.2 with shares := [], streaming := [], gathers := [] }))
    stones := s.stones.map (fun x => (x.1, { x.2 with dirty := [] }))
    power := { s.power with sramOff := false } }
  forEach s (s.pools.map (·.1)) endRebuild

/-- The fast PLLs that start-up has brought up (17 R547). -/
def startedPlls (s : State) : Nat :=
  (if bit 0 (getE s 0x3010 0x02) then 0x6 else 0) + (if bit 1 (getE s 0x3010 0x02) then 0x1FE0 else 0)

/-- PLLs lock, and the attempts to start them are over (17 R541). -/
def lockPlls (s : State) (mask : Nat) : State :=
  setE { s with power := { s.power with pllTries := s.power.pllTries.filter (fun p => !bit p.1 mask) } } 0x3010 0x01
    (getE s 0x3010 0x01 ||| mask)

/-- WAKE_COMPLETE (17 R537). -/
def execWakeComplete (s : State) : Res := run s fun s =>
  if s.power.waking = false then s
  else
    let s := if s.power.sramOff then restoreStill s else s
    let s := lockPlls s (startedPlls s)
    { s with power := { s.power with state := 0, waking := false, wakePending := false } }

/-- WAKE_TOLERANCE: a change of the setting is a wake event (17 R532, R535). -/
def actWakeTolerance (q : Req) (s : State) : Act :=
  .done (if getE s 0x3000 0x02 = q.value then s else wakeNow (setE s 0x3000 0x02 q.value))

def execWakeTolerance (q : Req) (s : State) : Res := run s (serveWrite 0x3000 0x02 q (actWakeTolerance q))

/-- POWER_LIMIT and THERMAL_THROTTLE: a change of them is a wake event (17 R535). -/
def actPowerSetting (sub : Nat) (q : Req) (s : State) : Act :=
  .done (if getE s 0x3020 sub = q.value then s else wakeNow (setE s 0x3020 sub q.value))

/-! ### Power and thermal limits (17 R543, R544) -/

/-- The power demand after a measurement: up at once above the limit, down after 1 ms below 95 % of it. -/
def nextDemand (x : Power) (mean limit : Nat) : Power :=
  if limit < mean then { x with powerDemand := min 15 (x.powerDemand + 1), below := 0 }
  else if mean * 100 < limit * 95 then
    if 99 ≤ x.below then { x with powerDemand := x.powerDemand - 1, below := 0 } else { x with below := x.below + 1 }
  else { x with below := 0 }

/-- POWER_MEASUREMENT (17 R543): one reading of 10 µs, in mW. -/
def execPowerMeasurement (milliwatts : Nat) (s : State) : Res := run s fun s =>
  let l := (milliwatts :: s.power.samples).take 10
  let mean := l.sum / max 1 l.length
  let e := s.power.energy + milliwatts
  let old := throttleLevel s
  let s := setE (countBy s 0xA0A0 0x08 (e / 100000)) 0x3020 0x01 (mean % 2 ^ 32)
  let x := nextDemand { s.power with samples := l, energy := e % 100000 } mean (getE s 0x3020 0x02 * 1000)
  let s := { s with power := x }
  if old = 0 ∧ 0 < throttleLevel s then raise s [aonFault 0 0x62 mean] else s

/-- TEMP_A and TEMP_B as DETAIL (17 R545). -/
def tempDetail (a b : Int) : Nat := twos 16 a * 65536 + twos 16 b

/-- The thermal demand after a reading, in 0.125 °C: up every 100 µs at or above the threshold, down every 1 ms once both
wythes are 3 °C below it; and the readings in a row at 110 °C. -/
def nextThermal (x : Power) (a b : Int) (limit : Int) : Power :=
  let x := { x with trip := if 3 ≤ x.trip then x.trip else if 880 ≤ a ∨ 880 ≤ b then x.trip + 1 else 0 }
  if limit ≤ a ∨ limit ≤ b then
    if 9 ≤ x.hot then { x with thermalDemand := min 15 (x.thermalDemand + 1), hot := 0, cool := 0 }
    else { x with hot := x.hot + 1, cool := 0 }
  else if a ≤ limit - 24 ∧ b ≤ limit - 24 then
    if 99 ≤ x.cool then { x with thermalDemand := x.thermalDemand - 1, hot := 0, cool := 0 }
    else { x with hot := 0, cool := x.cool + 1 }
  else { x with hot := 0, cool := 0 }

/-- The thermal trip (17 R544): THERMAL_TRIP of class F; both arithmetic PLLs stop, and POWER_STATE reads Doze. -/
def thermalTrip (s : State) (a b : Int) : State :=
  let s := raise s [aonFault 2 0x64 (tempDetail a b)]
  let s := setE s 0x3010 0x01 (getE s 0x3010 0x01 - (getE s 0x3010 0x01 &&& 6))
  { s with power := { s.power with state := 3, entering := none, waking := false, wakePending := false } }

/-- TEMPERATURE_READING (17 R544): the hottest sensor of each wythe, in 0.125 °C. -/
def execTemperatureReading (a b : Int) (s : State) : Res := run s fun s =>
  let old := s.power
  let s := setE (setE s 0x3020 0x03 (twos 16 a)) 0x3020 0x04 (twos 16 b)
  let s := { s with power := nextThermal s.power a b (8 * ((getE s 0x3020 0x05 : Nat) : Int)) }
  let s := if old.thermalDemand = 0 ∧ 0 < s.power.thermalDemand then raise s [aonFault 0 0x63 (tempDetail a b)] else s
  if old.trip < 3 ∧ s.power.trip = 3 then thermalTrip s a b else s

/-! ### Supplies, REFCLK and PLLs (17 R541, R542, 19 R576) -/

/-- SUPPLY_RANGE (17 R545, 19 R576). -/
def execSupplyRange (rail : Nat) (s : State) : Res := run s fun s => raise s [aonFault 2 0x65 (rail % 256)]

/-- REFCLK_LOST (17 R542). -/
def execRefclkLost (s : State) : Res := run s fun s =>
  if s.power.refclkLost then s
  else setTimeValid (raise { s with power := { s.power with refclkLost := true } } [aonFault 2 0x61 0]) false

/-- PLL_UNLOCK of class F, with PLL_STATUS in DETAIL (17 R541, R545). -/
def pllUnlock (s : State) : State := raise s [aonFault 2 0x60 (getE s 0x3010 0x01)]

/-- PLL_LOCK_TIMEOUT (17 R541): started once more at the first timeout, PLL_UNLOCK at the second. -/
def execPllLockTimeout (pll : Nat) (s : State) : Res := run s fun s =>
  if bit pll (getE s 0x3010 0x01) ∨ 14 ≤ pll then s
  else
    let n := tget 0 s.power.pllTries pll
    let s := { s with power := { s.power with pllTries := tput 0 s.power.pllTries pll (n + 1) } }
    if n = 0 then s else pllUnlock s

/-- PLL_LOCK_LOSS (17 R541). -/
def execPllLockLoss (pll : Nat) (s : State) : Res := run s fun s =>
  if bit pll (getE s 0x3010 0x01) = false then s
  else pllUnlock (setE s 0x3010 0x01 (clrBit (getE s 0x3010 0x01) pll))

/-! ### Start-up (17 R547) -/

def setInit (s : State) (b : Nat) : State := setE s 0x3010 0x02 (setBit (getE s 0x3010 0x02) b)

/-- INIT_SRAM_ZEROED: the core and switch PLLs run, and all SRAM of stones and routers is zero. -/
def execInitSramZeroed (s : State) : Res := run s fun s =>
  if s.mode ≠ .verified ∨ bit 0 (getE s 0x3010 0x02) then s
  else
    lockPlls (setInit { s with
      sram := [], badWords := []
      routers := s.routers.map (fun r => (r.1, { r.2 with shares := [], streaming := [], gathers := [] })) } 0) 0x1E

/-- STACKS_TRAINED; a stack that fails raises MEMORY_TRAINING of class F with its first channel as UNIT. -/
def execStacksTrained (failed : Option Nat) (s : State) : Res := run s fun s =>
  if s.mode ≠ .verified ∨ bit 1 (getE s 0x3010 0x02) then s
  else match failed with
    | some n => raise1 s 2 0x66 5 (16 * (n % 8)) none 0
    | none => lockPlls (setInit s 1) 0x1FE0

/-- TIER1_ZEROED: every byte holds zero ciphertext with valid ECC, so a read returns unspecified data without a fault. -/
def execTier1Zeroed (s : State) : Res := run s fun s =>
  if s.mode ≠ .verified ∨ bit 1 (getE s 0x3010 0x02) = false ∨ bit 2 (getE s 0x3010 0x02) then s
  else setInit { s with mem := [] } 2

/-! ### The tier-1 scrub (16 R515) -/

/-- TIER1_SCRUB: the scrub of a stack reports the errors it finds, by tier-1 offset: TIER1_CORRECTED, TIER1_UNCORRECTED. -/
def execTier1Scrub (stack : Nat) (corrected uncorrected : List Nat) (s : State) : Res := run s fun s =>
  let mine (a : Nat) : Bool := channelOf a / 16 == stack
  let s := forEach s (corrected.filter mine) (fun t a => raise1 t 0 0x20 5 (channelOf a) none a)
  forEach s (uncorrected.filter mine) (fun t a => raise1 t 1 0x21 5 (channelOf a) none a)

end Sys2Proof.Machine
end

