-- ==== Sys2Proof/Machine/Ring.lean ====
section
/-! DEFINITION. Submission rings and result mailboxes (15 R487 to R492) and the forming of steps (13 R442, R443). -/

namespace Sys2Proof.Machine

/-! ### SUBMIT_DOORBELL (15 R487) -/

/-- The tail of the slot's ring moves. -/
def actSubmitDoorbell (q : Req) (s : State) : Act :=
  let c := viewCtx s 0xB040 0x00 q
  if getE s (0xB100 + c) 0x03 = 0 ∨ getE s (0xB100 + c) 0x02 ≤ q.value then .refuse 0x0302 s
  else .done (noteRunnable (setE s (0xB100 + c) 0x07 q.value) c)

def execSubmitDoorbell (q : Req) (s : State) : Res := run s (serveWrite 0xB040 0x00 q (actSubmitDoorbell q))

/-! ### Entries (15 R488, R489) -/

/-- The ring can take its next entry: enabled, running, not empty, and no COMMAND in progress. -/
def canTake (s : State) (c : Nat) : Bool :=
  decide (getE s (0xB100 + c) 0x03 = 1) && decide (getE s (0xB100 + c) 0x05 = 1) &&
    decide ((ringOf s c).head ≠ getE s (0xB100 + c) 0x07) && (ringOf s c).cmd.isNone

/-- The head passes an entry, which is counted as taken. -/
def takeEntry (s : State) (c : Nat) : State :=
  let r := ringOf s c
  count (setRing s c { r with head := (r.head + 1) % max 1 (getE s (0xB100 + c) 0x02) }) 0xA0B0 0x04

/-- Fields that every kind of entry checks: reserved bits, NOTIFY without POST. -/
def entryFormOk (e : RingEntry) : Bool := decide (e.resv = 0) && (e.post || !e.notify) && decide (e.mailbox < 128)

/-- An entry's result is posted, where it asks for one (15 R491). -/
def postEntry (s : State) (c : Nat) (e : RingEntry) (code : Nat) : State :=
  if e.post then postResult s c e.mailbox e.seq code e.notify false else s

/-- A refused entry (15 R489): counted and recorded under the ring's own index, its result posted; in stop-on-refusal mode the
ring halts and DICT_REFUSAL is raised (14 R465). -/
def refuseEntry (s : State) (c : Nat) (e : RingEntry) : State :=
  let s := takeEntry s c
  let s := noteRefusal s 0x0302 (0xB100 + c) 0 4
  let s := postEntry s c e 0x0302
  if getE s (0xB100 + c) 0x04 = 1 then setE { s with dictRefusal := true } (0xB100 + c) 0x05 2 else s

/-- STEP, PREFILL and FLUSH are taken only while the part is Running and the context in states 2 to 8 (15 R489). -/
def stepsTaken (s : State) (c : Nat) : Bool := decide (s.mode = .running) && isLoaded (ctxOf s c)

/-- RING_NOP (15 R489). -/
def execRingNop (ring : Nat) (e : RingEntry) (s : State) : Res := run s fun s =>
  if canTake s ring = false then s
  else if entryFormOk e = false ∨ e.ride ∨ e.mix then refuseEntry s ring e
  else postEntry (takeEntry s ring) ring e 0

/-! ### Steps (13 R442, R443) -/

/-- The post that an entry asks for: mailbox, SEQ, NOTIFY. -/
def entryPost (e : RingEntry) : Option (Nat × Nat × Bool) := if e.post then some (e.mailbox, e.seq, e.notify) else none

/-- The step descriptor (13 R443). -/
def stepDesc (decFirst decCount gen preFirst preCount prePos decEntry preEntry chunk : Nat) : BitVec 256 :=
  BitVec.ofNat 256 (decFirst % 2 ^ 32 * 2 ^ 224 + decCount % 2 ^ 16 * 2 ^ 208 + gen % 2 ^ 16 * 2 ^ 192 +
    preFirst % 2 ^ 32 * 2 ^ 160 + preCount % 2 ^ 16 * 2 ^ 144 + prePos % 2 ^ 24 * 2 ^ 120 + decEntry % 2 ^ 24 * 2 ^ 96 +
    preEntry % 2 ^ 24 * 2 ^ 72 + chunk % 2 ^ 24 * 2 ^ 48)

/-- Tokens of the next chunk of a prompt. -/
def chunkSize (s : State) (c : Nat) (p : Prompt) : Nat := min p.left (max 1 (getE s (0x5100 + c) 0x03))

/-- The prompt after a chunk of `n` tokens. -/
def promptNext (p : Prompt) (n : Nat) : Prompt :=
  { p with first := (p.first + n) % 2 ^ 32, pos := p.pos + n, left := p.left - n, chunk := p.chunk + 1 }

/-- The post of a prompt, made by the step that holds its last chunk. -/
def promptPost (p : Prompt) (n : Nat) : List (Nat × Nat × Bool) := if p.left ≤ n then p.post.toList else []

/-- A formed step joins the context's queue under the next generation and is counted (13 R451). -/
def addStep (s : State) (c first : Nat) (desc : Nat → BitVec 256) (posts : List (Nat × Nat × Bool)) : State :=
  let g := ((ctxOf s c).gen + 1) % 65536
  count (modCtx s c (fun x => { x with gen := g, steps := x.steps ++ [{ desc := desc g, firstPos := first, posts := posts }] })) 0xA090 0x08

/-- The step of one chunk alone; `extra` are the posts that its entry adds. -/
def chunkStep (s : State) (c : Nat) (p : Prompt) (extra : List (Nat × Nat × Bool)) : State :=
  let n := chunkSize s c p
  addStep (count s 0xA090 0x09) c 0 (fun g => stepDesc 0 0 g p.first n p.pos 0 p.entry p.chunk) (promptPost p n ++ extra)

/-- All remaining chunks of a prompt, each as a step of its own; `extra` goes to the last. -/
def allChunks (c : Nat) (extra : List (Nat × Nat × Bool)) : Nat → Prompt → State → State
  | 0, _, s => s
  | f + 1, p, s =>
    let n := chunkSize s c p
    if p.left ≤ n then chunkStep s c p extra
    else allChunks c extra f (promptNext p n) (chunkStep s c p [])

/-- The remaining chunks of every open prompt, oldest first. -/
def flushPrompts (c : Nat) (extra : List (Nat × Nat × Bool)) : List Prompt → State → State
  | [], s => s
  | [p], s => allChunks c extra p.left p s
  | p :: t, s => flushPrompts c extra t (allChunks c [] p.left p s)

/-- A STEP entry forms one step: its own tokens, and with MIX the next chunk of the oldest open prompt (13 R442). -/
def formStep (s : State) (c i : Nat) (e : RingEntry) : State :=
  let x := ctxOf s c
  match e.mix, x.prompts with
  | true, p :: rest =>
    let n := chunkSize s c p
    let s := modCtx s c (fun x => { x with prompts := if p.left ≤ n then rest else promptNext p n :: rest })
    addStep (count s 0xA090 0x09) c e.firstPos (fun g => stepDesc e.firstToken e.count g p.first n p.pos i p.entry p.chunk)
      ((entryPost e).toList ++ promptPost p n)
  | _, _ =>
    if e.count = 0 then postEntry s c e 0
    else addStep s c e.firstPos (fun g => stepDesc e.firstToken e.count g 0 0 0 i 0 0) (entryPost e).toList

/-- RING_STEP (13 R442, R443, 15 R489): a waiting yield takes the step. -/
def execRingStep (ring : Nat) (e : RingEntry) (s : State) : Res := run s fun s =>
  if canTake s ring = false ∨ stepsTaken s ring = false then s
  else if entryFormOk e = false ∨ e.ride ∨ 65535 < e.count ∨ (e.count = 0 ∧ e.mix = false) then refuseEntry s ring e
  else
    let i := (ringOf s ring).head
    finishYield (formStep (takeEntry s ring) ring i e) ring

/-- The prompt that a PREFILL entry opens. -/
def newPrompt (e : RingEntry) (i : Nat) : Prompt :=
  { first := e.firstToken, pos := e.firstPos, left := e.count, chunk := 0, entry := i, ride := e.ride, post := entryPost e }

/-- RING_PREFILL (13 R442, 15 R488). -/
def execRingPrefill (ring : Nat) (e : RingEntry) (s : State) : Res := run s fun s =>
  if canTake s ring = false ∨ stepsTaken s ring = false then s
  else if entryFormOk e = false ∨ e.mix ∨ e.count = 0 ∨ 2 ^ 24 < e.count + e.firstPos then refuseEntry s ring e
  else
    let p := newPrompt e (ringOf s ring).head
    let s := takeEntry s ring
    if e.ride then modCtx s ring (fun x => { x with prompts := x.prompts ++ [p] })
    else finishYield (allChunks ring [] p.left p s) ring

/-- RING_FLUSH (13 R442, 15 R491). -/
def execRingFlush (ring : Nat) (e : RingEntry) (s : State) : Res := run s fun s =>
  if canTake s ring = false ∨ stepsTaken s ring = false then s
  else if entryFormOk e = false ∨ e.ride ∨ e.mix then refuseEntry s ring e
  else
    let ps := (ctxOf s ring).prompts
    let s := modCtx (takeEntry s ring) ring (fun x => { x with prompts := [] })
    if ps.isEmpty then postEntry s ring e 0 else finishYield (flushPrompts ring (entryPost e).toList ps s) ring

/-! ### Ring state (15 R490) -/

/-- RING_READ_ERROR: the ring stops at the entry, and RING_READ of class U is raised. -/
def execRingReadError (ring : Nat) (s : State) : Res := run s fun s =>
  if canTake s ring = false then s
  else raise1 (setE s (0xB100 + ring) 0x05 3) 1 0x44 6 6 (some ring) 0

/-- RING_ENABLE. -/
def actRingEnable (c : Nat) (q : Req) (s : State) : Act :=
  if getE s (0xB100 + c) 0x03 = q.value then .done s
  else if q.value = 0 then .done (setE (setE s (0xB100 + c) 0x03 0) (0xB100 + c) 0x05 0)
  else
    let s := setRing s c { ringOf s c with head := 0 }
    let s := setE (setE (setE s (0xB100 + c) 0x07 0) (0xB100 + c) 0x05 1) (0xB100 + c) 0x03 1
    .done (makeAllPosts (clearMailboxes s c) c)

def execRingEnable (ctx : Nat) (q : Req) (s : State) : Res := run s (serveWrite (0xB100 + ctx) 0x03 q (actRingEnable ctx q))

/-- RING_RESUME: a halted ring goes on, after a refused entry or at the entry whose read failed (14 R465). -/
def actRingResume (c : Nat) (s : State) : Act :=
  .done (if getE s (0xB100 + c) 0x03 = 1 ∧ 2 ≤ getE s (0xB100 + c) 0x05 then setE s (0xB100 + c) 0x05 1 else s)

def execRingResume (ctx : Nat) (q : Req) (s : State) : Res := run s (serveWrite (0xB100 + ctx) 0x06 q (actRingResume ctx))

/-- RING_BASE and RING_ENTRIES: BUSY while the ring is enabled. -/
def actRingSet (c sub : Nat) (q : Req) (s : State) : Act :=
  if getE s (0xB100 + c) 0x03 = 1 then .refuse 0x0601 s else .done (setE s (0xB100 + c) sub q.value)

/-! ### Result mailboxes (15 R492) -/

/-- RESULT_RELEASE: the mailbox becomes FREE, and the oldest post that waits for it is made. -/
def actResultRelease (m : Nat) (q : Req) (s : State) : Act :=
  let c := viewCtx s 0xB045 (m + 1) q
  let x := mailboxOf s (mbKey c m)
  if x.posted ∧ x.seq = q.value then
    .done (makePosts (setMailbox s (mbKey c m) { x with posted := false, readBefore := false }) c m)
  else .refuse 0x0302 s

def execResultRelease (mailbox : Nat) (q : Req) (s : State) : Res :=
  run s (serveWrite 0xB045 (mailbox + 1) q (actResultRelease mailbox q))

/-- The first read of a POSTED mailbox marks it as read. -/
def markRead (c m : Nat) (s : State) : State :=
  let x := mailboxOf s (mbKey c m)
  if x.posted then setMailbox s (mbKey c m) { x with readBefore := true } else s

/-- RESULT_MAILBOX_READ. -/
def execResultMailboxRead (mailbox : Nat) (q : Req) (s : State) : Res := run s fun s =>
  serveRead 0xB044 (mailbox + 1) q (entryValue 0xB044 (mailbox + 1) q) (markRead (viewCtx s 0xB044 (mailbox + 1) q) mailbox) s

end Sys2Proof.Machine
end

