-- ==== Sys2Proof/Machine/Security.lean ====
section
/-! DEFINITION. Reset (17 R546, 14 R457), firmware (18 R557 to R560), identity and attestation (18 R550 to R554, R561, R562), and the
test port (18 R563 to R565). -/

namespace Sys2Proof.Machine

/-! ### Reset (17 R546, 19 R573, R578, R579) -/

/-- RESET_ASSERT: every unit is held in reset and everything volatile is lost; fused data stay, and the tier-1 key is gone. -/
def execResetAssert (s : State) : Res :=
  .next { State.reset with
    pending := s.pending
    nonce := s.nonce
    out := s.out
    fuses := s.fuses
    trayId := s.trayId
    resetLow := true
    sec := { State.reset.sec with keyGen := s.sec.keyGen + 1 } }

/-- A draw of the random generator (18 R550). -/
def drawRandom (s : State) : Nat := (Config.randomDraw s.nonce).toNat

/-- TEST_CHALLENGE is drawn anew (18 R564). -/
def newChallenge (s : State) : State := fresh { s with sec := { s.sec with challenge := drawRandom s } }

/-- RESET_RELEASE: the part starts in Dormant and Run, the straps are sampled, and a challenge is drawn. -/
def execResetRelease (trayId : Nat) (s : State) : Res :=
  .next (if s.resetLow then newChallenge { s with resetLow := false, trayId := trayId % 8 } else s)

/-! ### Firmware (18 R558 to R560) -/

/-- FIRMWARE_LOAD (18 R559, R565): the boot ROM starts to read the image from the host. -/
def actFirmwareLoad (q : Req) (s : State) : Act :=
  let a := bits 127 64 q.value
  let n := bits 63 32 q.value
  if a % 4096 ≠ 0 then .refuse 0x0302 s
  else if getE s 0x9030 0x03 = 1 then .refuse 0x0502 s
  else .later (readHost (setE { s with sec := { s.sec with fwLoading := some n } } 0x9010 0x04 1) a n)

def execFirmwareLoad (q : Req) (s : State) : Res := run s (serveWrite 0x9010 0x05 q (actFirmwareLoad q))

/-- The header of a good image (18 R558, R559 step 2); `n` is the length of the load. -/
def headerGood (f : FwImage) (n : Nat) : Bool :=
  decide (f.magic = 0x57465853) && decide (f.format = 1) && decide (f.partCode = 0x4096) && decide (f.length = n) &&
    decide (n % 64 = 0) && decide (4096 ≤ n) && decide (n ≤ 8388608) && decide (f.resv = 0)

/-- FIRMWARE_STATUS and the code of the first check that fails (18 R559 steps 1 to 5). -/
def firmwareVerdict (s : State) (f : FwImage) (n : Nat) : Option (Nat × Nat) :=
  if f.readOk = false then some (3, 0x0302)
  else if headerGood f n = false then some (4, 0x0303)
  else if s.fuses.revokedFwKeys.contains f.keyIndex then some (5, 0x0501)
  else if f.securityVersion < s.fuses.fusedSecurityVersion then some (6, 0x0501)
  else if f.sigOk = false ∨ 4 ≤ f.keyIndex then some (7, 0x0501)
  else none

/-- A refused image: the part stays in Dormant, and FIRMWARE_REFUSED of class U is raised (18 R559, R566). -/
def refuseFirmware (s : State) (status code : Nat) : State :=
  let s := count (setE (setE s 0x9010 0x04 status) 0x9010 0x02 0) 0xA0E0 0x01
  endDeferred (raise1 s 1 0x70 6 0 none status) 0x9010 0x05 code

/-- An accepted image is started: the part enters Verified and draws a tier-1 key (18 R557, R559 step 6). -/
def startFirmware (s : State) (f : FwImage) : State :=
  let s := setE (setE (setE s 0x9010 0x02 f.digest) 0x9010 0x01 f.version) 0x9010 0x03 f.securityVersion
  endDeferred (newKey { setE s 0x9010 0x04 2 with mode := .verified }) 0x9010 0x05 0

/-- FIRMWARE_IMAGE_CHECKED (18 R559). -/
def execFirmwareImageChecked (f : FwImage) (s : State) : Res := run s fun s =>
  match s.mode, s.sec.fwLoading with
  | .dormant, some n =>
    let t := { s with sec := { s.sec with fwLoading := none } }
    match firmwareVerdict s f n with
    | some (status, code) => refuseFirmware t status code
    | none => startFirmware t f
  | _, _ => s

/-- SECURITY_VERSION_COMMIT (18 R560). -/
def actSecurityCommit (s : State) : Act :=
  .done { s with fuses := { s.fuses with fusedSecurityVersion := max s.fuses.fusedSecurityVersion (getE s 0x9010 0x03) } }

def execSecurityVersionCommit (q : Req) (s : State) : Res := run s (serveWrite 0x9010 0x06 q actSecurityCommit)

/-! ### Random generator, owner key, endorsement (18 R551, R554) -/

/-- RNG_HEALTH (18 R551): the generator stops issuing; the fault of class F. -/
def execRngHealth (s : State) : Res := run s fun s =>
  raise1 { s with sec := { s.sec with rngBad := true } } 2 0x73 6 4 none 0

/-- OWNER_KEY (18 R554). -/
def actOwnerKey (q : Req) (s : State) : Act := .done (setE (setE s 0x9040 0x01 q.value) 0x9040 0x02 0)

def execOwnerKey (q : Req) (s : State) : Res := run s (serveWrite 0x9040 0x01 q (actOwnerKey q))

/-- ENDORSEMENT: `sigOk` is the verdict of its check under OWNER_KEY (18 R554). -/
def actEndorsement (sigOk : Bool) (q : Req) (s : State) : Act :=
  if sigOk then .done (setE s 0x9040 0x02 q.value) else .refuse 0x0501 s

def execEndorsement (sigOk : Bool) (q : Req) (s : State) : Res := run s (serveWrite 0x9040 0x02 q (actEndorsement sigOk q))

/-! ### Attestation (18 R561, R562) -/

/-- ATTEST_NONCE starts a quote for the slot in ATTEST_CONTEXT; nonce and slot are held together. -/
def actAttestNonce (q : Req) (s : State) : Act :=
  .later { s with sec := { s.sec with quoting := some (q.value + getE s 0x9020 0x01 * 2 ^ 256) } }

def execAttestNonce (q : Req) (s : State) : Res := run s (serveWrite 0x9020 0x02 q (actAttestNonce q))

/-- Bytes 0 to 655 of a quote (18 R561). -/
def quoteBody (s : State) (nonce c : Nat) : List Byte :=
  toLE 2 1 ++ toLE 2 (getE s 0x1020 0x01) ++ toLE 1 c ++ toLE 1 s.mode.code ++ toLE 1 (getE s 0x9010 0x03) ++ toLE 1 0 ++
    toLE 8 (now s) ++ toLE 4 (getE s 0x9010 0x01) ++ toLE 32 nonce ++ toLE 64 (getE s 0x9010 0x02) ++
    determinismKeyBytes s c ++ fenceMapBytes s ++ toLE 6 0

/-- QUOTE_COMPLETE (18 R561, R562). -/
def execQuoteComplete (s : State) : Res := run s fun s =>
  match s.sec.quoting with
  | none => s
  | some v =>
    let body := fromLE (quoteBody s (v % 2 ^ 256) (v / 2 ^ 256))
    let s := setE { s with sec := { s.sec with quoting := none } } 0x9020 0x03
      (body + (Config.quoteSignature body).toNat * 2 ^ (8 * 656))
    endDeferred (count s 0xA0E0 0x02) 0x9020 0x02 0

/-! ### The test port (18 R563 to R565) -/

/-- The token names this part and its present challenge (18 R564). -/
def tokenOk (s : State) (v : Nat) : Bool := decide (v % 2 ^ 64 = s.fuses.serial % 2 ^ 64) && decide (bits 319 64 v = s.sec.challenge)

/-- Ports go DOWN, stones stop, collectives end, and the key store erases its keys (18 R565 steps 1 and 2). -/
def beginUnlock (s : State) : State :=
  let s := forEach s (List.range 32) (fun t p => if (portOf t p).state = .fenced ∨ (portOf t p).state = .down then t else portEnter t p .down)
  let s := forEach s (s.ctxs.map (·.1)) stopCtx
  let (s, fs) := endCollectives s
  let s := raise s fs
  { s with sec := { s.sec with identityPresent := false, keyPresent := false, unlocking := true } }

/-- TEST_UNLOCK: `sigOk` is the verdict of the signature check; a new challenge is drawn after every write (18 R564). -/
def actTestUnlock (sigOk : Bool) (q : Req) (s : State) : Act :=
  if bits 767 320 q.value ≠ 0 then .refuse 0x0302 s
  else if tokenOk s q.value = false ∨ sigOk = false then
    .refuse 0x0501 (newChallenge (raise1 (count s 0xA0E0 0x03) 0 0x72 6 4 none 0))
  else .later (newChallenge (beginUnlock s))

def execTestUnlock (sigOk : Bool) (q : Req) (s : State) : Res := run s (serveWrite 0x9030 0x02 q (actTestUnlock sigOk q))

/-- UNLOCK_WIPE_COMPLETE (18 R565 steps 3 and 4): all memories are zeroed, the test port unlocks, and the part enters Dormant. A firmware
load or a quote that was under way is lost with them and ends as a write of it would end now. -/
def execUnlockWipeComplete (s : State) : Res := run s fun s =>
  if s.sec.unlocking = false then s
  else
    let s := { s with
      sram := [], mem := [], badWords := []
      routers := s.routers.map (fun r => (r.1, { r.2 with shares := [], streaming := [], gathers := [] }))
      sec := { s.sec with unlocking := false, fwLoading := none, quoting := none, keyGen := s.sec.keyGen + 1 }
      mode := .dormant }
    let s := endDeferred (endDeferred s 0x9010 0x05 0x0502) 0x9020 0x02 0x0101
    endDeferred (raise1 (setE s 0x9030 0x03 1) 1 0x71 6 4 none 0) 0x9030 0x02 0

/-- TEST_PORT_INSTRUCTION (18 R563): while the port is locked, an instruction beyond the four standard ones acts as BYPASS. -/
def execTestPortInstruction (t : TapInstr) (s : State) : Res := run s fun s =>
  let i : TapInstr := match t with
    | .other c => if getE s 0x9030 0x03 = 1 then .other c else .bypass
    | x => x
  emit { s with sec := { s.sec with tap := i } } (.tap i)

end Sys2Proof.Machine
end

