-- ==== Sys2Proof/Machine/Server.lean ====
section
/-! DEFINITION. The dictionary as one server: the rule of every entry, requests on each path, mapped accesses, the command ring and
the keystone relay (14 R459 to R475; 15 R489). -/

namespace Sys2Proof.Machine

/-! ### Entries with conditions of their own -/

/-- A region that the driver places must keep clear of the part's own regions and of the other structures (04 R122). -/
def regionFree (s : State) (r : Nat × Nat) (others : List (Nat × Nat)) : Bool :=
  decide (r.1 + r.2 ≤ 2 ^ 39) && !overlapsAny r (fixedRegions s ++ others)

/-- HOT_RING (03 R117, 04 R122). -/
def actHotRing (q : Req) (s : State) : Act :=
  if regionFree s (q.value, if q.value = 0 then 0 else 4096) (lakeRegion s :: logRegion s :: windowRegions s) then
    .done (setE s 0xA028 0x01 q.value)
  else .refuse 0x0302 s

/-- FAULT_LOG (16 R512, 04 R122). -/
def actFaultLog (q : Req) (s : State) : Act :=
  if regionFree s (q.value, if q.value = 0 then 0 else 32768) (lakeRegion s :: hotRegion s :: windowRegions s) then
    .done (setE s 0x8060 0x01 q.value)
  else .refuse 0x0302 s

/-- LAKE_WINDOW_PHYS and LAKE_WINDOW_MIB (11 R374, 04 R122). -/
def actLakeWindow (sub : Nat) (q : Req) (s : State) : Act :=
  let t := setE s 0x4062 sub q.value
  if regionFree s (lakeRegion t) (hotRegion s :: logRegion s :: windowRegions s) then .done t else .refuse 0x0302 s

/-- RETAIN_MIB, SAVE_POOL and SAVE_POOL_MIB: the region that results must keep clear of the driver's structures (04 R122). -/
def actOwnRegion (idx sub : Nat) (q : Req) (s : State) : Act :=
  let t := setE s idx sub q.value
  if overlapsAny (if idx = 0x7000 then retainRegion t else saveRegion t) (ownRegions s) then .refuse 0x0302 s else .done t

/-- RETENTION and ATTEMPT_TIMEOUT: 4 × ATTEMPT_TIMEOUT stays within RETENTION (11 R374). -/
def actRetention (sub : Nat) (q : Req) (s : State) : Act :=
  let t := setE s 0x4060 sub q.value
  if getE t 0x4060 0x01 < 4 * getE t 0x4060 0x02 then .refuse 0x0302 s else .done t

/-- CLASS of a slot: writable in context states 2 to 8 (13 R450). -/
def actClass (c : Nat) (q : Req) (s : State) : Act :=
  if isLoaded (ctxOf s c) then .done (setE s (0x5100 + c) 0x02 q.value) else .refuse 0x0101 s

/-- The staged sub-indices of a group; those of group 255 are locked (12 R378, R413). -/
def actGroupSet (idx sub : Nat) (q : Req) (s : State) : Act := if idx = 0x71FF then .refuse 0x0201 s else actStore idx sub q s

/-- DICT_DOORBELL (14 R462): DONE is cleared and the slot's request queued; a slot still being served discards it. -/
def actDictDoorbell (q : Req) (s : State) : Act :=
  let n := q.value % 4
  if (slotOf s n).busy then .done (count s 0xA0F0 0x03)
  else
    let a := 4096 * n + 0xFF8
    let st := fromLE ((List.range 8).map (fun i => tget 0 s.slotMem (a + i)))
    let s := slotWrite (setSlot s n { slotOf s n with busy := true, done := false }) a (toLE 8 (clrBit st 0))
    .done { s with dictQ := s.dictQ ++ [n] }

/-- The list that a prepare reads at the address of its start record (13 R425, R427). -/
def jobListRead (s : State) : List Nat :=
  let v := getE s 0x5010 0x02
  match pondRead s (recAddr v) (2 * recPackages v) with
  | some bs => (chunksOf 2 (recPackages v) bs).map fromLE
  | none => []

/-- The verdict of a signature check that the request does not carry: a free value. -/
def openVerdict (s : State) : Bool := decide (openValue s % 2 = 1)

/-! ### The rule of every entry -/

/-- Entries of the identity, fabric and power ranges. -/
def actionLow (idx sub : Nat) (q : Req) : State → Act :=
  if idx = 0x1020 then actPackageId q
  else if idx = 0x1042 then actDictDoorbell q
  else if idx = 0x2010 ∧ sub = 1 then actKeystone q
  else if idx = 0x2030 then actAqShare q
  else if idx = 0x2032 ∧ sub = 2 then actAqSet q
  else if idx = 0x2032 ∧ sub = 3 then actAqClear q
  else if idx = 0x2050 ∧ sub = 2 then actTableInstall q.value
  else if idx = 0x2050 ∧ sub = 3 then actInjectEpoch q.value
  else if idx = 0x2050 ∧ sub = 4 then actTableRetire q.value
  else if idx = 0x2056 ∧ sub = 1 then actEpochStep q
  else if inRange idx 0x2100 32 ∧ sub = 4 then actPortFence (idx - 0x2100)
  else if inRange idx 0x2100 32 ∧ sub = 5 then actPortRetrain (idx - 0x2100)
  else if idx = 0x3000 ∧ sub = 2 then actWakeTolerance q
  else if idx = 0x3020 then actPowerSetting sub q
  else actStore idx sub q

/-- Entries of the memory and job ranges. -/
def actionMid (idx sub : Nat) (q : Req) : State → Act :=
  if idx = 0x4012 ∧ sub = 1 then actPlaceObject q
  else if idx = 0x4014 then actFlushObject q
  else if idx = 0x4023 then actKvPoolTail q
  else if idx = 0x4026 ∧ sub = 1 then actSetWatermark q
  else if idx = 0x4026 ∧ sub = 2 then actReleaseProvisional q
  else if idx = 0x4030 then actOwnRegion idx sub q
  else if idx = 0x4040 then actPoolCommit
  else if idx = 0x4050 ∧ sub = 2 then actWindowSet q
  else if idx = 0x4050 ∧ sub = 3 then actWindowClear q
  else if idx = 0x4060 ∧ sub ≤ 2 then actRetention sub q
  else if idx = 0x4062 then actLakeWindow sub q
  else if idx = 0x5000 ∧ sub = 2 then actStateRequest q
  else if idx = 0x5010 ∧ sub = 1 then (fun s => actPondJobStep q (jobListRead s) s)
  else if idx = 0x5014 then (fun s => actJobDirect q (jobListRead s) s)
  else if idx = 0x5020 then actRemapStone q
  else if idx = 0x5030 then actLoad q
  else if inRange idx 0x5100 256 ∧ sub = 2 then actClass (idx - 0x5100) q
  else if inRange idx 0x5100 256 ∧ sub = 6 then actUnload (idx - 0x5100)
  else if inRange idx 0x5100 256 ∧ sub = 7 then actResume (idx - 0x5100) q
  else actStore idx sub q

/-- Entries of the router, collective, fault, security, telemetry, link, interrupt and diagnostic ranges. -/
def actionHigh (idx sub : Nat) (q : Req) : State → Act :=
  if idx = 0x6012 ∧ sub = 1 then actRetireGeneration q
  else if idx = 0x6012 ∧ sub = 2 then actAbandonStranded q
  else if idx = 0x6014 ∧ sub = 2 then actPlacementUpdate q
  else if idx = 0x7000 then actOwnRegion idx sub q
  else if idx = 0x7012 then actCollAbort q
  else if inRange idx 0x7100 256 ∧ sub = 5 then actGroupCommit (idx - 0x7100) true q
  else if inRange idx 0x7100 256 then actGroupSet idx sub q
  else if idx = 0x8020 then actFaultAck q
  else if idx = 0x8032 then actFenceStone q
  else if idx = 0x8060 then actFaultLog q
  else if idx = 0x9010 ∧ sub = 5 then actFirmwareLoad q
  else if idx = 0x9010 ∧ sub = 6 then actSecurityCommit
  else if idx = 0x9020 ∧ sub = 2 then actAttestNonce q
  else if idx = 0x9030 ∧ sub = 2 then (fun s => actTestUnlock (openVerdict s) q (fresh s))
  else if idx = 0x9040 ∧ sub = 1 then actOwnerKey q
  else if idx = 0x9040 ∧ sub = 2 then (fun s => actEndorsement (openVerdict s) q (fresh s))
  else if idx = 0xA028 then actHotRing q
  else if idx = 0xB010 ∧ sub = 3 then actLinkRetrain
  else if idx = 0xB040 then actSubmitDoorbell q
  else if idx = 0xB045 then actResultRelease (sub - 1) q
  else if inRange idx 0xB100 256 ∧ sub ≤ 2 then actRingSet (idx - 0xB100) sub q
  else if inRange idx 0xB100 256 ∧ sub = 3 then actRingEnable (idx - 0xB100) q
  else if inRange idx 0xB100 256 ∧ sub = 6 then actRingResume (idx - 0xB100)
  else if idx = 0xC000 ∧ 0x11 ≤ sub then actPending (sub - 0x11) q
  else if idx = 0xC012 then actHostEoi q
  else if inRange idx 0xC100 512 ∧ sub = 1 then actSourceConfig (idx - 0xC100) q
  else if inRange idx 0xC100 512 ∧ sub = 2 then actServe (idx - 0xC100)
  else if idx = 0xF050 then actEngineInject q
  else actStore idx sub q

/-- What the entry's own rule does with an accepted write: an entry without one takes the value (14 R454, R471 step 10). -/
def actionOf (idx sub : Nat) (q : Req) : State → Act :=
  if idx < 0x4000 then actionLow idx sub q else if idx < 0x6000 then actionMid idx sub q else actionHigh idx sub q

/-- The side effect of a read, where the entry's own rule names one (14 R454): LAST_REFUSAL, DEPTH_MAX, a result mailbox. -/
def afterRead (idx sub : Nat) (q : Req) (s : State) : State :=
  if idx = 0xA0F0 ∧ sub = 4 then { s with dictRefusal := false }
  else if inRange idx 0xA100 32 ∧ 0x41 ≤ sub ∧ sub ≤ 0x50 then setE s idx sub 0
  else if idx = 0xB044 then markRead (viewCtx s idx sub q) (sub - 1) s
  else s

/-! ### Requests -/

/-- DICT_WRITE (14 R471). -/
def execDictWrite (idx sub : Nat) (q : Req) (s : State) : Res := run s (serveWrite idx sub q (actionOf idx sub q))

/-- DICT_DESCRIBE (14 R474). -/
def execDictDescribe (idx sub : Nat) (q : Req) (s : State) : Res := run s (serveDescribe idx sub q)

/-- DICT_NEXT (14 R475). -/
def execDictNext (idx sub : Nat) (q : Req) (s : State) : Res := run s (serveNext idx sub q)

/-- A read of any entry. -/
def serveAnyRead (idx sub : Nat) (q : Req) (s : State) : State := serveRead idx sub q (entryValue idx sub q) (afterRead idx sub q) s

/-- LAST_REFUSAL_READ (14 R478, R464): it ends DICT_REFUSAL. -/
def execLastRefusalRead (q : Req) (s : State) : Res := run s (serveAnyRead 0xA0F0 0x04 q)

/-- DEPTH_MAX_READ (10 R339): it clears the entry. -/
def execDepthMaxRead (p vc : Nat) (q : Req) (s : State) : Res := run s (serveAnyRead (0xA100 + p) (0x41 + vc) q)

/-- DICT_DOORBELL (14 R462). -/
def execDictDoorbell (q : Req) (s : State) : Res := run s (serveWrite 0x1042 0x00 q (actDictDoorbell q))

/-- A request of any operation; an operation that R460 does not define is refused at step 1 of 14 R471. -/
def serveOp (opcode idx sub : Nat) (q : Req) (s : State) : State :=
  if opcode = 0 then serveAnyRead idx sub q s
  else if opcode = 1 then serveWrite idx sub q (actionOf idx sub q) s
  else if opcode = 2 then serveDescribe idx sub q s
  else if opcode = 3 then serveNext idx sub q s
  else if noServer s q then s
  else refuse (takeRequest s q) q idx sub 0x0302

/-! ### The keystone relay (14 R466) -/

/-- RELAY_REQUEST: the keystone forwards a request to POSITION, or serves it where POSITION is its own. -/
def execRelayRequest (opcode idx sub : Nat) (q : Req) (s : State) : Res := run s (serveOp opcode idx sub { q with relay := true })

/-- The answer of a relayed request goes back on the path of the request and is not remembered here: the worker's own memory
answers a repetition (14 R461, R466). -/
def answerRelay (s : State) (r : Relay) (code len value : Nat) : State :=
  if r.q.path = 0 then emit s (.response 0 r.q.src r.q.seq code len value false)
  else respond s r.q r.idx r.sub code len value

/-- LENGTH of a good answer to an operation (14 R460, R474, R475). -/
def answerLength (r : Relay) : Nat :=
  if r.opcode = 0 then ((findEntry r.idx r.sub).map (·.size)).getD 0
  else if r.opcode = 2 then 16 else if r.opcode = 3 then 4 else 0

/-- The relay that waits for a response from a position under a SEQ. -/
def findRelay (s : State) (pos seq : Nat) : Option Relay := s.relays.find? (fun r => r.pos == pos && r.q.seq == seq)

/-- RELAY_RESPONSE (14 R466): returned unchanged; a response after the timeout finds no request and is discarded. -/
def execRelayResponse (pos seq code value : Nat) (s : State) : Res := run s fun s =>
  match findRelay s pos seq with
  | none => s
  | some r => answerRelay { s with relays := s.relays.erase r } r code (if code = 0 then answerLength r else 0) (if code = 0 then value else 0)

/-- RELAY_TIMEOUT_EXPIRY (14 R466): the keystone answers NO_ANSWER. -/
def execRelayTimeoutExpiry (pos seq : Nat) (s : State) : Res := run s fun s =>
  match findRelay s pos seq with
  | none => s
  | some r =>
    let s := count { s with relays := s.relays.erase r } 0xA0F0 0x07
    answerRelay (noteRefusal s 0x0602 r.idx r.sub r.q.path) r 0x0602 0 0

/-! ### Deferred writes (14 R470) -/

/-- DEFERRED_WRITE_COMPLETE: the response of a write whose command has ended. -/
def execDeferredWriteComplete (idx sub : Nat) (s : State) : Res := run s fun s =>
  match s.deferred.find? (fun d => d.idx == idx && d.sub == sub && d.result.isSome) with
  | none => s
  | some d =>
    let s := { s with deferred := s.deferred.erase d }
    match d.result with
    | some 0 => respond s d.q idx sub 0 0 0
    | some c => refuse s d.q idx sub c
    | none => s

/-! ### Mapped accesses (14 R462 to R464) -/

/-- The request that a mapped write stands for. -/
def mappedReq (e : Entry) (page value : Nat) : Req :=
  { path := 2, src := 0, seq := 0, version := 1, relay := false, position := 0, resv := 0, typ := e.typ, length := e.size,
    frameLen := e.size, value := value, viaPath := 2, fromPos := 0, slot := page }

/-- Width and alignment that an access to the mailbox slot area or to an entry may have (14 R462, R464). -/
def slotAccessOk (offset width : Nat) : Bool :=
  (width == 1 || width == 2 || width == 4 || width == 8) && decide (offset % width = 0)

def mappedAccessOk (e : Entry) (offset width : Nat) : Bool :=
  (width == 4 || width == 8) && decide (offset % width = 0) && (decide (width = e.size) || (decide (e.size = 8) && decide (width = 4)))

/-- The entry at an offset of the package area or of a context page: index, sub-index and page (14 R462, R463). -/
def mappedEntry (offset : Nat) : Option (Nat × Nat × Nat) :=
  if offset = 0x4000 then some (0x1042, 0, 0)
  else if offset < 0x10000 ∨ 0x110000 ≤ offset then none
  else
    let o := offset % 4096
    let c := offset / 4096 - 16
    if o = 0 then some (0xB040, 0, c)
    else if o = 8 then some (0xB041, 0, c)
    else if o = 16 then some (0x4023, 0, c)
    else if 0x800 ≤ o ∧ o % 16 = 0 then some (0xB044, (o - 0x800) / 16 + 1, c)
    else if 0x800 ≤ o ∧ o % 16 = 8 then some (0xB045, (o - 0x808) / 16 + 1, c)
    else none

/-- A write into the mailbox slot area: the response part and the status are the part's own (14 R462). -/
def slotAreaWrite (s : State) (offset width value : Nat) : State :=
  let o := offset % 4096
  let s := hostTaken s true
  if slotAccessOk offset width = false ∨ (0x800 ≤ o ∧ o < 0xC10) ∨ 0xFF8 ≤ o then count s 0xA0F0 0x03
  else slotWrite s offset (toLE width value)

/-- MAPPED_WRITE (14 R462 to R464, R468). -/
def execMappedWrite (offset width value : Nat) (s : State) : Res := run s fun s =>
  if offset < 0x4000 then slotAreaWrite s offset width value
  else if s.mode = .dormant then hostTaken s true
  else match mappedEntry offset with
    | none => count (hostTaken s true) 0xA0F0 0x03
    | some (idx, sub, c) =>
      match findEntry idx sub with
      | none => s
      | some e =>
        if mappedAccessOk e offset width = false then count (hostTaken s true) 0xA0F0 0x03
        else serveWrite idx sub (mappedReq e c value) (actionOf idx sub (mappedReq e c value)) s

/-! ### The command ring (14 R465, 15 R489) -/

/-- A COMMAND entry's own fields (15 R488). -/
def commandOk (e : RingEntry) : Bool :=
  entryFormOk e && !e.ride && !e.mix && decide (e.cmdAddr % 16 = 0) && decide (e.rspAddr % 16 = 0)

/-- RING_COMMAND (15 R489, 14 R465): the request at CMD_ADDR is served on path 4; a request that cannot be read in full is a
refused entry. A full request queue makes the command wait (14 R469). -/
def execRingCommand (ring : Nat) (e : RingEntry) (opcode idx sub : Nat) (readOk : Bool) (q : Req) (s : State) : Res := run s fun s =>
  if canTake s ring = false ∨ s.mode = .dormant ∨ 64 ≤ s.dictQ.length then s
  else if commandOk e = false ∨ readOk = false then refuseEntry s ring e
  else
    let s := takeEntry s ring
    let s := setRing s ring { ringOf s ring with cmd := some e }
    serveOp opcode idx sub { q with path := 4, slot := ring } s

/-! ### The management port (14 R459) -/

/-- PLCA_FALLBACK: the port falls back to CSMA/CD, and the entry into it is counted. -/
def execPlcaFallback (s : State) : Res := run s fun s =>
  if getE s 0x1040 0x03 = 2 then s else count (setE s 0x1040 0x03 2) 0xA0F0 0x05

/-- PLCA_STATUS_RESTORED: the port leaves the fallback. -/
def execPlcaStatusRestored (s : State) : Res := run s fun s => if getE s 0x1040 0x03 = 2 then setE s 0x1040 0x03 1 else s

end Sys2Proof.Machine
end

