-- ==== Sys2Proof/Machine/Submit.lean ====
section
/-! DEFINITION. The SUBMIT and RETURN instructions of the EXPERT class (03 R101, R103), which read SRAM under 05 R169. -/

namespace Sys2Proof.Machine

/-- SUBMIT (03 R101): the request goes to the lead router's token buffer; it stalls while that buffer holds 16 requests
(02 R36), a request whose generation cannot be taken waits in the buffer and holds its stone (03 R115, 13 R421), and one that
the router refuses is discarded (02 R49, R63). -/
def execSubmit (st : Nat) (h : IHdr) (o : Operands) (s : State) : Res := run s fun s =>
  let req := regFld s st 111 108 o
  let recOff := regFld s st 107 104 o
  let hd := sramNat s st req 16
  let n := 33 * bits 41 32 hd
  issue s st (expertOk h [(111, 104)] o) [(req, 16 + n)] [(recOff, 16)] fun s =>
    if req % 16 ≠ 0 ∨ recOff % 16 ≠ 0 ∨ inSram req (16 + n) = false ∨ inSram recOff 16 = false then failStone s st 0x05
    else
      let k : TokKey := { ctx := bits 71 64 hd, layer := bits 79 72 hd, gen := bits 95 80 hd, tokenId := bits 127 96 hd }
      let origin := bits 63 52 hd
      let bay := bayOf origin
      let refuse (b : Nat) (s : State) : State :=
        let s := match (stoneOf s st).owner with | some c => stopAt s c st | none => s
        raise1 (count s 0xA020 0x04) 1 0x12 2 b (stoneOf s st).owner (instrAddr s st)
      match leadRouter s origin with
      | none => refuse bay s
      | some lead =>
        if bits 41 32 hd ≠ layerBlocks s k.ctx k.layer ∨ bits 50 42 hd ≠ 0 ∨ bits 14 0 hd ≠ 0 ∨ layerStatus s k.ctx k.layer ≠ 1 then
          refuse lead s
        else if (s.toks.filter (fun t => t.lead == lead)).length ≥ 16 then stallOn s st .tokenBuffer
        else readRanges s st [(req, 16 + n)] [] fun s =>
          let ready := genReady s bay k.ctx k.gen
          let t : Tok := { key := k, lead := lead, origin := origin, stone := st, recOff := recOff, pc := (stoneOf s st).pc,
                           spec := bit 51 hd, stepSlot := bits 31 15 hd, payload := sramRead s st (req + 16) n,
                           blocks := bits 41 32 hd, position := stepPosition s k.ctx k.tokenId,
                           dealt := dealRouter s k lead (bits 31 15 hd), scored := [],
                           scored2 := [], gparts := [], chosen := none, parts := [], signal := sigOf h, waits := !ready }
          let s := takeSlot s st 6 [(req, 16 + n)] [(recOff, 16)] h
          let s := if ready then openGen s bay k.ctx k.gen else s
          let s := { s with toks := s.toks ++ [t] }
          if ready then askStreams s k.ctx k.layer else stallOn s st .generation

/-- EXPERT RETURN (03 R103). -/
def execRet (st : Nat) (h : IHdr) (o : Operands) (s : State) : Res := run s fun s =>
  let out := regFld s st 111 108 o
  let table := regFld s st 107 104 o
  let hd := sramNat s st table 16
  let n := bits 15 8 hd
  let ctx := ((stoneOf s st).owner).getD 0
  let layer := bits 55 48 hd
  let fmt := layerSet s ctx layer 0x17
  let row := layerSet s ctx layer 0x03 * (if fmt = 1 then 4 else 2)
  issue s st (expertOk h [(111, 104)] o) [(out, n * row), (table, 16 + 16 * n)] [] fun s =>
    if inSram out (n * row) = false ∨ inSram table (16 + 16 * n) = false then failStone s st 0x05
    else readRanges s st [(out, n * row), (table, 16 + 16 * n)] [] fun s =>
      let jobs := (List.range n).map (fun i => (sramNat s st (table + 16 + 16 * i) 16, sramRead s st (out + i * row) row))
      completeNow (forEach s jobs (fun t j => sendReturn t st ctx fmt (bit 5 hd) j.1 j.2)) st h

end Sys2Proof.Machine
end

