-- ==== Sys2Proof/Machine/Dispatch.lean ====
section
/-! DEFINITION. One arm per command: each calls its meaning. -/

namespace Sys2Proof.Machine

def exec (i : Instr) (s : State) : Host.Outcome State Fault Refusal :=
  match i with
  | .resetAssert => Sys2Proof.Machine.execResetAssert s
  | .resetRelease trayId => Sys2Proof.Machine.execResetRelease trayId s
  | .supplyRange rail => Sys2Proof.Machine.execSupplyRange rail s
  | .refclkLost => Sys2Proof.Machine.execRefclkLost s
  | .pllLockTimeout pll => Sys2Proof.Machine.execPllLockTimeout pll s
  | .pllLockLoss pll => Sys2Proof.Machine.execPllLockLoss pll s
  | .firmwareLoad q => Sys2Proof.Machine.execFirmwareLoad q s
  | .firmwareImageChecked f => Sys2Proof.Machine.execFirmwareImageChecked f s
  | .securityVersionCommit q => Sys2Proof.Machine.execSecurityVersionCommit q s
  | .initSramZeroed => Sys2Proof.Machine.execInitSramZeroed s
  | .stacksTrained failed => Sys2Proof.Machine.execStacksTrained failed s
  | .tier1Zeroed => Sys2Proof.Machine.execTier1Zeroed s
  | .rngHealth => Sys2Proof.Machine.execRngHealth s
  | .ownerKey q => Sys2Proof.Machine.execOwnerKey q s
  | .endorsement sigOk q => Sys2Proof.Machine.execEndorsement sigOk q s
  | .attestNonce q => Sys2Proof.Machine.execAttestNonce q s
  | .quoteComplete => Sys2Proof.Machine.execQuoteComplete s
  | .testUnlock sigOk q => Sys2Proof.Machine.execTestUnlock sigOk q s
  | .unlockWipeComplete => Sys2Proof.Machine.execUnlockWipeComplete s
  | .testPortInstruction t => Sys2Proof.Machine.execTestPortInstruction t s
  | .stateRequestConfigured q => Sys2Proof.Machine.execStateRequestConfigured q s
  | .stateRequestRunning q => Sys2Proof.Machine.execStateRequestRunning q s
  | .packageIdWrite q => Sys2Proof.Machine.execPackageIdWrite q s
  | .keystonePositionWrite q => Sys2Proof.Machine.execKeystonePositionWrite q s
  | .keystoneBeacon => Sys2Proof.Machine.execKeystoneBeacon s
  | .pondBeacon fromPos => Sys2Proof.Machine.execPondBeacon fromPos s
  | .keystoneSilent => Sys2Proof.Machine.execKeystoneSilent s
  | .unitFailure u => Sys2Proof.Machine.execUnitFailure u s
  | .submit st h o => Sys2Proof.Machine.execSubmit st h o s
  | .scoringPass bay ctx layer gen read => Sys2Proof.Machine.execScoringPass bay ctx layer gen read s
  | .gateStreamComplete bay ctx layer e => Sys2Proof.Machine.execGateStreamComplete bay ctx layer e s
  | .partialScores k => Sys2Proof.Machine.execPartialScores k s
  | .placementBlockRead bay ctx layer expert status block => Sys2Proof.Machine.execPlacementBlockRead bay ctx layer expert status block s
  | .claimBundle srcPkg cs => Sys2Proof.Machine.execClaimBundle srcPkg cs s
  | .claimBundleAck ctx layer gen home => Sys2Proof.Machine.execClaimBundleAck ctx layer gen home s
  | .admissionBarrierJoin ctx layer gen => Sys2Proof.Machine.execAdmissionBarrierJoin ctx layer gen s
  | .admission ctx layer gen => Sys2Proof.Machine.execAdmission ctx layer gen s
  | .admissionAbort ctx layer gen code => Sys2Proof.Machine.execAdmissionAbort ctx layer gen code s
  | .verdictBundle srcPkg cs => Sys2Proof.Machine.execVerdictBundle srcPkg cs s
  | .tokenCopy srcPkg d payload => Sys2Proof.Machine.execTokenCopy srcPkg d payload s
  | .cisternGrant pool corrected => Sys2Proof.Machine.execCisternGrant pool corrected s
  | .listRebuildComplete pool => Sys2Proof.Machine.execListRebuildComplete pool s
  | .expertRun st h o => Sys2Proof.Machine.execExpertRun st h o s
  | .runPartDue ctx layer first => Sys2Proof.Machine.execRunPartDue ctx layer first s
  | .missGraceExpiry ctx layer first => Sys2Proof.Machine.execMissGraceExpiry ctx layer first s
  | .missNotice k rank notResident => Sys2Proof.Machine.execMissNotice k rank notResident s
  | .expertRunComplete st cycles => Sys2Proof.Machine.execExpertRunComplete st cycles s
  | .carryWaitExpiry ctx layer first => Sys2Proof.Machine.execCarryWaitExpiry ctx layer first s
  | .ret st h o => Sys2Proof.Machine.execRet st h o s
  | .returnPacket h payload => Sys2Proof.Machine.execReturnPacket h payload s
  | .returnTimeoutExpiry k rank => Sys2Proof.Machine.execReturnTimeoutExpiry k rank s
  | .fetch st h o => Sys2Proof.Machine.execFetch st h o s
  | .flush st h o => Sys2Proof.Machine.execFlush st h o s
  | .kvCommit st h o => Sys2Proof.Machine.execKvCommit st h o s
  | .retire st h o => Sys2Proof.Machine.execRetire st h o s
  | .accept st h o => Sys2Proof.Machine.execAccept st h o s
  | .retireGeneration q => Sys2Proof.Machine.execRetireGeneration q s
  | .abandonStranded q => Sys2Proof.Machine.execAbandonStranded q s
  | .placementUpdate q => Sys2Proof.Machine.execPlacementUpdate q s
  | .placementStoreComplete ctx layer expert status => Sys2Proof.Machine.execPlacementStoreComplete ctx layer expert status s
  | .deadlinePolicyWrite layer q => Sys2Proof.Machine.execDeadlinePolicyWrite layer q s
  | .fillStart wythe ctx obj => Sys2Proof.Machine.execFillStart wythe ctx obj s
  | .fillComplete wythe ctx obj bad bytes => Sys2Proof.Machine.execFillComplete wythe ctx obj bad bytes s
  | .writebackComplete ctx obj => Sys2Proof.Machine.execWritebackComplete ctx obj s
  | .placeObject q => Sys2Proof.Machine.execPlaceObject q s
  | .flushObject q => Sys2Proof.Machine.execFlushObject q s
  | .kvWrite st stream pos off bytes => Sys2Proof.Machine.execKvWrite st stream pos off bytes s
  | .setWatermark q => Sys2Proof.Machine.execSetWatermark q s
  | .releaseProvisional q => Sys2Proof.Machine.execReleaseProvisional q s
  | .kvPoolTail q => Sys2Proof.Machine.execKvPoolTail q s
  | .halt st h o => Sys2Proof.Machine.execHalt st h o s
  | .branch st h o => Sys2Proof.Machine.execBranch st h o s
  | .loopSet st h o => Sys2Proof.Machine.execLoopSet st h o s
  | .loopBack st h o => Sys2Proof.Machine.execLoopBack st h o s
  | .yield st h o => Sys2Proof.Machine.execYield st h o s
  | .stepMark st h o => Sys2Proof.Machine.execStepMark st h o s
  | .npBegin st h o => Sys2Proof.Machine.execNpBegin st h o s
  | .npEnd st h o => Sys2Proof.Machine.execNpEnd st h o s
  | .setVl st h o => Sys2Proof.Machine.execSetVl st h o s
  | .setReg st h o => Sys2Proof.Machine.execSetReg st h o s
  | .regionOverrun st => Sys2Proof.Machine.execRegionOverrun st s
  | .dmaPost st h o => Sys2Proof.Machine.execDmaPost st h o s
  | .dmaDescriptorComplete course st stop outside => Sys2Proof.Machine.execDmaDescriptorComplete course st stop outside s
  | .syncSet st h o => Sys2Proof.Machine.execSyncSet st h o s
  | .syncAdd st h o => Sys2Proof.Machine.execSyncAdd st h o s
  | .syncSignal st h o => Sys2Proof.Machine.execSyncSignal st h o s
  | .syncWait st h o => Sys2Proof.Machine.execSyncWait st h o s
  | .syncRead st h o => Sys2Proof.Machine.execSyncRead st h o s
  | .syncClear st h o => Sys2Proof.Machine.execSyncClear st h o s
  | .signalDelivery st obj addend => Sys2Proof.Machine.execSignalDelivery st obj addend s
  | .syncWatchdogExpiry st => Sys2Proof.Machine.execSyncWatchdogExpiry st s
  | .scrubPass st r => Sys2Proof.Machine.execScrubPass st r s
  | .fenceStone q => Sys2Proof.Machine.execFenceStone q s
  | .remapStone q => Sys2Proof.Machine.execRemapStone q s
  | .denseProduct st h o r => Sys2Proof.Machine.execDenseProduct st h o r s
  | .sparseProduct st h o r => Sys2Proof.Machine.execSparseProduct st h o r s
  | .tileComplete st sparse upsets busy => Sys2Proof.Machine.execTileComplete st sparse upsets busy s
  | .compressActivations st h o => Sys2Proof.Machine.execCompressActivations st h o s
  | .compressWeightsMask st h o => Sys2Proof.Machine.execCompressWeightsMask st h o s
  | .compressWeightsMagnitude st h o => Sys2Proof.Machine.execCompressWeightsMagnitude st h o s
  | .expand st h o => Sys2Proof.Machine.execExpand st h o s
  | .transpose st h o => Sys2Proof.Machine.execTranspose st h o s
  | .engineInject q => Sys2Proof.Machine.execEngineInject q s
  | .configure st h o => Sys2Proof.Machine.execConfigure st h o s
  | .vectorRun st h o r parityOk => Sys2Proof.Machine.execVectorRun st h o r parityOk s
  | .vectorRunComplete st busy => Sys2Proof.Machine.execVectorRunComplete st busy s
  | .scalarSet st h o => Sys2Proof.Machine.execScalarSet st h o s
  | .scalarFunc st h o => Sys2Proof.Machine.execScalarFunc st h o s
  | .scalarStore st h o => Sys2Proof.Machine.execScalarStore st h o s
  | .scalarLoad st h o => Sys2Proof.Machine.execScalarLoad st h o s
  | .bufferRelease st h o => Sys2Proof.Machine.execBufferRelease st h o s
  | .poolCommit q => Sys2Proof.Machine.execPoolCommit q s
  | .memoryLoad st h o => Sys2Proof.Machine.execMemoryLoad st h o s
  | .memoryStore st h o => Sys2Proof.Machine.execMemoryStore st h o s
  | .atomicRead st h o => Sys2Proof.Machine.execAtomicRead st h o s
  | .atomicSwap st h o => Sys2Proof.Machine.execAtomicSwap st h o s
  | .atomicCas st h o => Sys2Proof.Machine.execAtomicCas st h o s
  | .atomicAdd st h o => Sys2Proof.Machine.execAtomicAdd st h o s
  | .atomicAnd st h o => Sys2Proof.Machine.execAtomicAnd st h o s
  | .atomicOr st h o => Sys2Proof.Machine.execAtomicOr st h o s
  | .atomicXor st h o => Sys2Proof.Machine.execAtomicXor st h o s
  | .atomicMaxS st h o => Sys2Proof.Machine.execAtomicMaxS st h o s
  | .atomicMinS st h o => Sys2Proof.Machine.execAtomicMinS st h o s
  | .atomicMaxU st h o => Sys2Proof.Machine.execAtomicMaxU st h o s
  | .atomicMinU st h o => Sys2Proof.Machine.execAtomicMinU st h o s
  | .memoryFence st h o => Sys2Proof.Machine.execMemoryFence st h o s
  | .memoryRequestAtHome r ledgerOk => Sys2Proof.Machine.execMemoryRequestAtHome r ledgerOk s
  | .lineRequestPerformed line readOk => Sys2Proof.Machine.execLineRequestPerformed line readOk s
  | .memoryResponse r => Sys2Proof.Machine.execMemoryResponse r s
  | .attemptTimeoutExpiry unitKind unit slot => Sys2Proof.Machine.execAttemptTimeoutExpiry unitKind unit slot s
  | .ledgerEntryExpiry srcPkg unitKind unit seq => Sys2Proof.Machine.execLedgerEntryExpiry srcPkg unitKind unit seq s
  | .windowSet q => Sys2Proof.Machine.execWindowSet q s
  | .windowClear q => Sys2Proof.Machine.execWindowClear q s
  | .groupCommit group q readOk => Sys2Proof.Machine.execGroupCommit group q readOk s
  | .collBarrier st h o => Sys2Proof.Machine.execCollBarrier st h o s
  | .collBroadcast st h o => Sys2Proof.Machine.execCollBroadcast st h o s
  | .collReduce st h o => Sys2Proof.Machine.execCollReduce st h o s
  | .collAllReduce st h o => Sys2Proof.Machine.execCollAllReduce st h o s
  | .collReduceScatter st h o => Sys2Proof.Machine.execCollReduceScatter st h o s
  | .collAllGather st h o => Sys2Proof.Machine.execCollAllGather st h o s
  | .collMulticast st h o => Sys2Proof.Machine.execCollMulticast st h o s
  | .collRetentionGrant k cycles => Sys2Proof.Machine.execCollRetentionGrant k cycles s
  | .tileNotice st handle tile => Sys2Proof.Machine.execTileNotice st handle tile s
  | .partialMsg m => Sys2Proof.Machine.execPartialMsg m s
  | .resultMsg m => Sys2Proof.Machine.execResultMsg m s
  | .pnak m readOk => Sys2Proof.Machine.execPnak m readOk s
  | .collNak m readOk => Sys2Proof.Machine.execCollNak m readOk s
  | .doneMsg m => Sys2Proof.Machine.execDoneMsg m s
  | .sealMsg m => Sys2Proof.Machine.execSealMsg m s
  | .abortReq m => Sys2Proof.Machine.execAbortReq m s
  | .abort m => Sys2Proof.Machine.execAbort m s
  | .backoff m => Sys2Proof.Machine.execBackoff m s
  | .backoffRetry k chunk => Sys2Proof.Machine.execBackoffRetry k chunk s
  | .leg m => Sys2Proof.Machine.execLeg m s
  | .legAck ctx number leg chunk answer readOk => Sys2Proof.Machine.execLegAck ctx number leg chunk answer readOk s
  | .collTimeoutExpiry k => Sys2Proof.Machine.execCollTimeoutExpiry k s
  | .sealWaitTimeout k => Sys2Proof.Machine.execSealWaitTimeout k s
  | .collAbort q => Sys2Proof.Machine.execCollAbort q s
  | .portTrainingRetry p => Sys2Proof.Machine.execPortTrainingRetry p s
  | .trainingComplete p ok => Sys2Proof.Machine.execTrainingComplete p ok s
  | .hello p m => Sys2Proof.Machine.execHello p m s
  | .echoFrame p roundTrip => Sys2Proof.Machine.execEchoFrame p roundTrip s
  | .refusalNotice p => Sys2Proof.Machine.execRefusalNotice p s
  | .linkLockLoss p => Sys2Proof.Machine.execLinkLockLoss p s
  | .portRetrain p q => Sys2Proof.Machine.execPortRetrain p q s
  | .portFence p q => Sys2Proof.Machine.execPortFence p q s
  | .rekey p => Sys2Proof.Machine.execRekey p s
  | .rekeyExchange p checksOk => Sys2Proof.Machine.execRekeyExchange p checksOk s
  | .linkFrameReceived p f => Sys2Proof.Machine.execLinkFrameReceived p f s
  | .controlBlock p b => Sys2Proof.Machine.execControlBlock p b s
  | .frameTransmit p bufferOk => Sys2Proof.Machine.execFrameTransmit p bufferOk s
  | .packetRoute a bufferOk => Sys2Proof.Machine.execPacketRoute a bufferOk s
  | .aqueductPacket inPort a => Sys2Proof.Machine.execAqueductPacket inPort a s
  | .aqSet q => Sys2Proof.Machine.execAqSet q s
  | .aqClear q => Sys2Proof.Machine.execAqClear q s
  | .tableInstall q => Sys2Proof.Machine.execTableInstall q s
  | .injectEpoch q => Sys2Proof.Machine.execInjectEpoch q s
  | .tableRetire q => Sys2Proof.Machine.execTableRetire q s
  | .epochStepInstall q => Sys2Proof.Machine.execEpochStepInstall q s
  | .epochStepFlip q => Sys2Proof.Machine.execEpochStepFlip q s
  | .epochStepPoll q => Sys2Proof.Machine.execEpochStepPoll q s
  | .epochStepRetire q => Sys2Proof.Machine.execEpochStepRetire q s
  | .epochStepMember fromPos op epoch => Sys2Proof.Machine.execEpochStepMember fromPos op epoch s
  | .epochStepAnswer pos accepted injecting epochIn epochHeld => Sys2Proof.Machine.execEpochStepAnswer pos accepted injecting epochIn epochHeld s
  | .epochStepTimeout => Sys2Proof.Machine.execEpochStepTimeout s
  | .load q => Sys2Proof.Machine.execLoad q s
  | .loadComplete img => Sys2Proof.Machine.execLoadComplete img s
  | .unload ctx q => Sys2Proof.Machine.execUnload ctx q s
  | .unloadComplete ctx => Sys2Proof.Machine.execUnloadComplete ctx s
  | .resumeContinue ctx q => Sys2Proof.Machine.execResumeContinue ctx q s
  | .resumeStepMark ctx q => Sys2Proof.Machine.execResumeStepMark ctx q s
  | .pondJobPrepare q list => Sys2Proof.Machine.execPondJobPrepare q list s
  | .pondJobCommit q => Sys2Proof.Machine.execPondJobCommit q s
  | .pondJobRun q => Sys2Proof.Machine.execPondJobRun q s
  | .pondJobAbort q => Sys2Proof.Machine.execPondJobAbort q s
  | .pondJobTeardown q => Sys2Proof.Machine.execPondJobTeardown q s
  | .jobPrepare fromPos staging list => Sys2Proof.Machine.execJobPrepare fromPos staging list s
  | .jobCommit fromPos startId => Sys2Proof.Machine.execJobCommit fromPos startId s
  | .jobRun fromPos startId => Sys2Proof.Machine.execJobRun fromPos startId s
  | .jobAbort fromPos startId => Sys2Proof.Machine.execJobAbort fromPos startId s
  | .jobTeardown fromPos => Sys2Proof.Machine.execJobTeardown fromPos s
  | .teardownComplete => Sys2Proof.Machine.execTeardownComplete s
  | .jobStepAnswer answers => Sys2Proof.Machine.execJobStepAnswer answers s
  | .jobChildWaitExpiry => Sys2Proof.Machine.execJobChildWaitExpiry s
  | .jobStepTimeout => Sys2Proof.Machine.execJobStepTimeout s
  | .sliceGrant ctx => Sys2Proof.Machine.execSliceGrant ctx s
  | .sliceExpiry ctx => Sys2Proof.Machine.execSliceExpiry ctx s
  | .sliceStopComplete ctx overrunUs => Sys2Proof.Machine.execSliceStopComplete ctx overrunUs s
  | .swapInStart => Sys2Proof.Machine.execSwapInStart s
  | .swapOutComplete ctx => Sys2Proof.Machine.execSwapOutComplete ctx s
  | .swapInComplete ctx => Sys2Proof.Machine.execSwapInComplete ctx s
  | .submitDoorbell q => Sys2Proof.Machine.execSubmitDoorbell q s
  | .ringNop ring e => Sys2Proof.Machine.execRingNop ring e s
  | .ringStep ring e => Sys2Proof.Machine.execRingStep ring e s
  | .ringPrefill ring e => Sys2Proof.Machine.execRingPrefill ring e s
  | .ringFlush ring e => Sys2Proof.Machine.execRingFlush ring e s
  | .ringCommand ring e opcode idx sub readOk q => Sys2Proof.Machine.execRingCommand ring e opcode idx sub readOk q s
  | .ringReadError ring => Sys2Proof.Machine.execRingReadError ring s
  | .ringEnable ctx q => Sys2Proof.Machine.execRingEnable ctx q s
  | .ringResume ctx q => Sys2Proof.Machine.execRingResume ctx q s
  | .resultRelease mailbox q => Sys2Proof.Machine.execResultRelease mailbox q s
  | .resultMailboxRead mailbox q => Sys2Proof.Machine.execResultMailboxRead mailbox q s
  | .dictWrite idx sub q => Sys2Proof.Machine.execDictWrite idx sub q s
  | .dictDescribe idx sub q => Sys2Proof.Machine.execDictDescribe idx sub q s
  | .dictNext idx sub q => Sys2Proof.Machine.execDictNext idx sub q s
  | .dictDoorbell q => Sys2Proof.Machine.execDictDoorbell q s
  | .mappedWrite offset width value => Sys2Proof.Machine.execMappedWrite offset width value s
  | .relayRequest opcode idx sub q => Sys2Proof.Machine.execRelayRequest opcode idx sub q s
  | .relayResponse pos seq code value => Sys2Proof.Machine.execRelayResponse pos seq code value s
  | .relayTimeoutExpiry pos seq => Sys2Proof.Machine.execRelayTimeoutExpiry pos seq s
  | .deferredWriteComplete idx sub => Sys2Proof.Machine.execDeferredWriteComplete idx sub s
  | .lastRefusalRead q => Sys2Proof.Machine.execLastRefusalRead q s
  | .depthMaxRead p vc q => Sys2Proof.Machine.execDepthMaxRead p vc q s
  | .plcaFallback => Sys2Proof.Machine.execPlcaFallback s
  | .flitReceived f => Sys2Proof.Machine.execFlitReceived f s
  | .umoraLockLoss => Sys2Proof.Machine.execUmoraLockLoss s
  | .linkRetrain q => Sys2Proof.Machine.execLinkRetrain q s
  | .umoraDown => Sys2Proof.Machine.execUmoraDown s
  | .hostCompletion tag status last bytes => Sys2Proof.Machine.execHostCompletion tag status last bytes s
  | .timeBeacon beaconTime arrivalTime => Sys2Proof.Machine.execTimeBeacon beaconTime arrivalTime s
  | .badMessage code => Sys2Proof.Machine.execBadMessage code s
  | .holdoverExpiry => Sys2Proof.Machine.execHoldoverExpiry s
  | .faultReport fs => Sys2Proof.Machine.execFaultReport fs s
  | .reportWireStuck kind unit level => Sys2Proof.Machine.execReportWireStuck kind unit level s
  | .faultAck q => Sys2Proof.Machine.execFaultAck q s
  | .cAckHoldExpiry => Sys2Proof.Machine.execCAckHoldExpiry s
  | .faultSummarySend => Sys2Proof.Machine.execFaultSummarySend s
  | .faultSummary fromPos byte => Sys2Proof.Machine.execFaultSummary fromPos byte s
  | .summaryStale pos => Sys2Proof.Machine.execSummaryStale pos s
  | .interruptSelect target => Sys2Proof.Machine.execInterruptSelect target s
  | .interruptDelivery source => Sys2Proof.Machine.execInterruptDelivery source s
  | .mgmtEoi target source => Sys2Proof.Machine.execMgmtEoi target source s
  | .hostEoi q => Sys2Proof.Machine.execHostEoi q s
  | .serve source q => Sys2Proof.Machine.execServe source q s
  | .pendingWrite word q => Sys2Proof.Machine.execPendingWrite word q s
  | .wakeTolerance q => Sys2Proof.Machine.execWakeTolerance q s
  | .powerStateEntry => Sys2Proof.Machine.execPowerStateEntry s
  | .powerEntryComplete => Sys2Proof.Machine.execPowerEntryComplete s
  | .wakeEvent c => Sys2Proof.Machine.execWakeEvent c s
  | .wakeComplete => Sys2Proof.Machine.execWakeComplete s
  | .powerMeasurement milliwatts => Sys2Proof.Machine.execPowerMeasurement milliwatts s
  | .temperatureReading a b => Sys2Proof.Machine.execTemperatureReading a b s
  | .umoraTrainingComplete lanes roundTrip => Sys2Proof.Machine.execUmoraTrainingComplete lanes roundTrip s
  | .tier1Scrub stack corrected uncorrected => Sys2Proof.Machine.execTier1Scrub stack corrected uncorrected s
  | .plcaStatusRestored => Sys2Proof.Machine.execPlcaStatusRestored s

end Sys2Proof.Machine
end

