-- ==== Sys2Proof/Machine/Waits.lean ====
section
/-! DEFINITION. The counters of core and fabric cycles in which something waits. -/

namespace Sys2Proof.Machine

/-- The counters whose wait is under way: the bridge's back-pressure (01 R24), tokens waiting for a gate share (02 R46) and for a
generation (03 R115), KV writes (04 R155), SRAM banks in use (05 R167), cistern requests (09 R284), the ledger and the cap of
requests (11 R361, R367), the throttle (17 R543), mailbox posts (15 R492), and each VC of a port that has something to send (10 R339). -/
def waitsNow (s : State) : List (Nat × Nat) :=
  (([((0xA010, 0x03), !s.bridgeQ.isEmpty),
     ((0xA020, 0x03), s.toks.any (fun t => !t.waits && s.routers.any (fun r => r.2.streaming.contains (t.key.ctx, t.key.layer)))),
     ((0xA021, 0x0A), s.toks.any (·.waits)),
     ((0xA030, 0x0E), !s.kvWaits.isEmpty),
     ((0xA040, 0x01), s.stones.any (fun p => !p.2.inflight.isEmpty)),
     ((0xA060, 0x03), s.pools.any (fun p => !p.2.waiting.isEmpty)),
     ((0xA070, 0x09), !s.ledgerWait.isEmpty),
     ((0xA070, 0x0A), s.stones.any (fun p => decide (p.2.stall = some .request)) || s.senders.any (fun p => !p.2.waitQ.isEmpty)),
     ((0xA0A0, 0x07), decide (0 < throttleLevel s) && s.stones.any (fun p => decide (p.2.run = .running))),
     ((0xA0B0, 0x06), s.posts.any (fun p => (mailboxOf s (mbKey p.ctx p.mailbox)).posted))] : List ((Nat × Nat) × Bool)).filter (·.2)).map (·.1) ++
    s.ports.flatMap (fun p => ((List.range 16).filter (fun v => p.2.outQ.any (fun q => q.vc == v))).map (fun v => (0xA100 + p.1, 0x21 + v)))

/-- Each counter whose wait is under way moves on by an open amount (DESIGN CHOICE, log entry 12). -/
def countWaits (s : State) : State :=
  match waitsNow s with
  | [] => s
  | l => forEach (fresh s) l (fun t k => countBy t k.1 k.2 (Config.waitCount (256 * k.1 + k.2) s.nonce))

end Sys2Proof.Machine
end

