-- ==== Sys2Proof/Machine/Tick.lean ====
section
/-! DEFINITION. What happens with no command waiting: one tick of the always-on clock. -/

namespace Sys2Proof.Machine

/-- One tick of the always-on clock (15 R494, 17 R549), the cycles that units wait in it, and the interrupt controller's sample of the levels (16 R520); while
RESET_N is low nothing moves (17 R546). DESIGN CHOICE, log entry 1: the table has no row for a tick, so the step on an
empty queue is one. -/
def tick (s : State) : Res := run s fun s => samplePending (countWaits (tickClock s))

end Sys2Proof.Machine
end

