-- ==== Sys2Proof/Laws/PerInstr.lean ====
section
/-! SUPPORT. One lemma per command for the family HeldInReset: while RESET_N is low, a command other than the two of the
reset pin and an impossible UNIT_FAILURE has no effect. -/

namespace Sys2Proof.Laws.HeldInReset

open Sys2Proof.Machine

/-- A command that acts, or stops, even while RESET_N is low: the two of the pin itself, and a UNIT_FAILURE (whose unit
may not exist). -/
def Excepted : Instr → Bool
  | .resetAssert => true
  | .resetRelease _ => true
  | .unitFailure u => !unitExists u
  | _ => false

/-- While RESET_N is low, the command leaves the state as it is (17 R546). -/
def Statement (i : Instr) : Prop :=
  Excepted i = false → ∀ s : State, s.resetLow = true → Sys2Proof.Machine.exec i s = .next s

theorem run_low (s : State) (f : State → State) (h : s.resetLow = true) : run s f = .next s := by
  simp [run, h]

theorem resetAssert : Statement (.resetAssert) := fun h => nomatch h

theorem resetRelease : ∀ a0, Statement (.resetRelease a0) := fun _ h => nomatch h

theorem supplyRange : ∀ a0, Statement (.supplyRange a0) := by
  intro a0 _ s h; change execSupplyRange a0 s = _; unfold execSupplyRange; exact run_low s _ h

theorem refclkLost : Statement (.refclkLost) := by
  intro _ s h; change execRefclkLost s = _; unfold execRefclkLost; exact run_low s _ h

theorem pllLockTimeout : ∀ a0, Statement (.pllLockTimeout a0) := by
  intro a0 _ s h; change execPllLockTimeout a0 s = _; unfold execPllLockTimeout; exact run_low s _ h

theorem pllLockLoss : ∀ a0, Statement (.pllLockLoss a0) := by
  intro a0 _ s h; change execPllLockLoss a0 s = _; unfold execPllLockLoss; exact run_low s _ h

theorem firmwareLoad : ∀ a0, Statement (.firmwareLoad a0) := by
  intro a0 _ s h; change execFirmwareLoad a0 s = _; unfold execFirmwareLoad; exact run_low s _ h

theorem firmwareImageChecked : ∀ a0, Statement (.firmwareImageChecked a0) := by
  intro a0 _ s h; change execFirmwareImageChecked a0 s = _; unfold execFirmwareImageChecked; exact run_low s _ h

theorem securityVersionCommit : ∀ a0, Statement (.securityVersionCommit a0) := by
  intro a0 _ s h; change execSecurityVersionCommit a0 s = _; unfold execSecurityVersionCommit; exact run_low s _ h

theorem initSramZeroed : Statement (.initSramZeroed) := by
  intro _ s h; change execInitSramZeroed s = _; unfold execInitSramZeroed; exact run_low s _ h

theorem stacksTrained : ∀ a0, Statement (.stacksTrained a0) := by
  intro a0 _ s h; change execStacksTrained a0 s = _; unfold execStacksTrained; exact run_low s _ h

theorem tier1Zeroed : Statement (.tier1Zeroed) := by
  intro _ s h; change execTier1Zeroed s = _; unfold execTier1Zeroed; exact run_low s _ h

theorem rngHealth : Statement (.rngHealth) := by
  intro _ s h; change execRngHealth s = _; unfold execRngHealth; exact run_low s _ h

theorem ownerKey : ∀ a0, Statement (.ownerKey a0) := by
  intro a0 _ s h; change execOwnerKey a0 s = _; unfold execOwnerKey; exact run_low s _ h

theorem endorsement : ∀ a0 a1, Statement (.endorsement a0 a1) := by
  intro a0 a1 _ s h; change execEndorsement a0 a1 s = _; unfold execEndorsement; exact run_low s _ h

theorem attestNonce : ∀ a0, Statement (.attestNonce a0) := by
  intro a0 _ s h; change execAttestNonce a0 s = _; unfold execAttestNonce; exact run_low s _ h

theorem quoteComplete : Statement (.quoteComplete) := by
  intro _ s h; change execQuoteComplete s = _; unfold execQuoteComplete; exact run_low s _ h

theorem testUnlock : ∀ a0 a1, Statement (.testUnlock a0 a1) := by
  intro a0 a1 _ s h; change execTestUnlock a0 a1 s = _; unfold execTestUnlock; exact run_low s _ h

theorem unlockWipeComplete : Statement (.unlockWipeComplete) := by
  intro _ s h; change execUnlockWipeComplete s = _; unfold execUnlockWipeComplete; exact run_low s _ h

theorem testPortInstruction : ∀ a0, Statement (.testPortInstruction a0) := by
  intro a0 _ s h; change execTestPortInstruction a0 s = _; unfold execTestPortInstruction; exact run_low s _ h

theorem stateRequestConfigured : ∀ a0, Statement (.stateRequestConfigured a0) := by
  intro a0 _ s h; change execStateRequestConfigured a0 s = _; unfold execStateRequestConfigured; exact run_low s _ h

theorem stateRequestRunning : ∀ a0, Statement (.stateRequestRunning a0) := by
  intro a0 _ s h; change execStateRequestRunning a0 s = _; unfold execStateRequestRunning; exact run_low s _ h

theorem packageIdWrite : ∀ a0, Statement (.packageIdWrite a0) := by
  intro a0 _ s h; change execPackageIdWrite a0 s = _; unfold execPackageIdWrite; exact run_low s _ h

theorem keystonePositionWrite : ∀ a0, Statement (.keystonePositionWrite a0) := by
  intro a0 _ s h; change execKeystonePositionWrite a0 s = _; unfold execKeystonePositionWrite; exact run_low s _ h

theorem keystoneBeacon : Statement (.keystoneBeacon) := by
  intro _ s h; change execKeystoneBeacon s = _; unfold execKeystoneBeacon; exact run_low s _ h

theorem pondBeacon : ∀ a0, Statement (.pondBeacon a0) := by
  intro a0 _ s h; change execPondBeacon a0 s = _; unfold execPondBeacon; exact run_low s _ h

theorem keystoneSilent : Statement (.keystoneSilent) := by
  intro _ s h; change execKeystoneSilent s = _; unfold execKeystoneSilent; exact run_low s _ h

theorem unitFailure : ∀ a0, Statement (.unitFailure a0) := by
  intro a0 hx s h
  have hu : unitExists a0 = true := by simpa [Excepted] using hx
  simp [Sys2Proof.Machine.exec, execUnitFailure, hu, run_low _ _ h]

theorem submit : ∀ a0 a1 a2, Statement (.submit a0 a1 a2) := by
  intro a0 a1 a2 _ s h; change execSubmit a0 a1 a2 s = _; unfold execSubmit; exact run_low s _ h

theorem scoringPass : ∀ a0 a1 a2 a3 a4, Statement (.scoringPass a0 a1 a2 a3 a4) := by
  intro a0 a1 a2 a3 a4 _ s h; change execScoringPass a0 a1 a2 a3 a4 s = _; unfold execScoringPass; exact run_low s _ h

theorem gateStreamComplete : ∀ a0 a1 a2 a3, Statement (.gateStreamComplete a0 a1 a2 a3) := by
  intro a0 a1 a2 a3 _ s h; change execGateStreamComplete a0 a1 a2 a3 s = _; unfold execGateStreamComplete; exact run_low s _ h

theorem partialScores : ∀ a0, Statement (.partialScores a0) := by
  intro a0 _ s h; change execPartialScores a0 s = _; unfold execPartialScores; exact run_low s _ h

theorem placementBlockRead : ∀ a0 a1 a2 a3 a4 a5, Statement (.placementBlockRead a0 a1 a2 a3 a4 a5) := by
  intro a0 a1 a2 a3 a4 a5 _ s h; change execPlacementBlockRead a0 a1 a2 a3 a4 a5 s = _; unfold execPlacementBlockRead; exact run_low s _ h

theorem claimBundle : ∀ a0 a1, Statement (.claimBundle a0 a1) := by
  intro a0 a1 _ s h; change execClaimBundle a0 a1 s = _; unfold execClaimBundle; exact run_low s _ h

theorem claimBundleAck : ∀ a0 a1 a2 a3, Statement (.claimBundleAck a0 a1 a2 a3) := by
  intro a0 a1 a2 a3 _ s h; change execClaimBundleAck a0 a1 a2 a3 s = _; unfold execClaimBundleAck; exact run_low s _ h

theorem admissionBarrierJoin : ∀ a0 a1 a2, Statement (.admissionBarrierJoin a0 a1 a2) := by
  intro a0 a1 a2 _ s h; change execAdmissionBarrierJoin a0 a1 a2 s = _; unfold execAdmissionBarrierJoin; exact run_low s _ h

theorem admission : ∀ a0 a1 a2, Statement (.admission a0 a1 a2) := by
  intro a0 a1 a2 _ s h; change execAdmission a0 a1 a2 s = _; unfold execAdmission; exact run_low s _ h

theorem admissionAbort : ∀ a0 a1 a2 a3, Statement (.admissionAbort a0 a1 a2 a3) := by
  intro a0 a1 a2 a3 _ s h; change execAdmissionAbort a0 a1 a2 a3 s = _; unfold execAdmissionAbort; exact run_low s _ h

theorem verdictBundle : ∀ a0 a1, Statement (.verdictBundle a0 a1) := by
  intro a0 a1 _ s h; change execVerdictBundle a0 a1 s = _; unfold execVerdictBundle; exact run_low s _ h

theorem tokenCopy : ∀ a0 a1 a2, Statement (.tokenCopy a0 a1 a2) := by
  intro a0 a1 a2 _ s h; change execTokenCopy a0 a1 a2 s = _; unfold execTokenCopy; exact run_low s _ h

theorem cisternGrant : ∀ a0 a1, Statement (.cisternGrant a0 a1) := by
  intro a0 a1 _ s h; change execCisternGrant a0 a1 s = _; unfold execCisternGrant; exact run_low s _ h

theorem listRebuildComplete : ∀ a0, Statement (.listRebuildComplete a0) := by
  intro a0 _ s h; change execListRebuildComplete a0 s = _; unfold execListRebuildComplete; exact run_low s _ h

theorem expertRun : ∀ a0 a1 a2, Statement (.expertRun a0 a1 a2) := by
  intro a0 a1 a2 _ s h; change execExpertRun a0 a1 a2 s = _; unfold execExpertRun; exact run_low s _ h

theorem runPartDue : ∀ a0 a1 a2, Statement (.runPartDue a0 a1 a2) := by
  intro a0 a1 a2 _ s h; change execRunPartDue a0 a1 a2 s = _; unfold execRunPartDue; exact run_low s _ h

theorem missGraceExpiry : ∀ a0 a1 a2, Statement (.missGraceExpiry a0 a1 a2) := by
  intro a0 a1 a2 _ s h; change execMissGraceExpiry a0 a1 a2 s = _; unfold execMissGraceExpiry; exact run_low s _ h

theorem missNotice : ∀ a0 a1 a2, Statement (.missNotice a0 a1 a2) := by
  intro a0 a1 a2 _ s h; change execMissNotice a0 a1 a2 s = _; unfold execMissNotice; exact run_low s _ h

theorem expertRunComplete : ∀ a0 a1, Statement (.expertRunComplete a0 a1) := by
  intro a0 a1 _ s h; change execExpertRunComplete a0 a1 s = _; unfold execExpertRunComplete; exact run_low s _ h

theorem carryWaitExpiry : ∀ a0 a1 a2, Statement (.carryWaitExpiry a0 a1 a2) := by
  intro a0 a1 a2 _ s h; change execCarryWaitExpiry a0 a1 a2 s = _; unfold execCarryWaitExpiry; exact run_low s _ h

theorem ret : ∀ a0 a1 a2, Statement (.ret a0 a1 a2) := by
  intro a0 a1 a2 _ s h; change execRet a0 a1 a2 s = _; unfold execRet; exact run_low s _ h

theorem returnPacket : ∀ a0 a1, Statement (.returnPacket a0 a1) := by
  intro a0 a1 _ s h; change execReturnPacket a0 a1 s = _; unfold execReturnPacket; exact run_low s _ h

theorem returnTimeoutExpiry : ∀ a0 a1, Statement (.returnTimeoutExpiry a0 a1) := by
  intro a0 a1 _ s h; change execReturnTimeoutExpiry a0 a1 s = _; unfold execReturnTimeoutExpiry; exact run_low s _ h

theorem fetch : ∀ a0 a1 a2, Statement (.fetch a0 a1 a2) := by
  intro a0 a1 a2 _ s h; change execFetch a0 a1 a2 s = _; unfold execFetch; exact run_low s _ h

theorem flush : ∀ a0 a1 a2, Statement (.flush a0 a1 a2) := by
  intro a0 a1 a2 _ s h; change execFlush a0 a1 a2 s = _; unfold execFlush; exact run_low s _ h

theorem kvCommit : ∀ a0 a1 a2, Statement (.kvCommit a0 a1 a2) := by
  intro a0 a1 a2 _ s h; change execKvCommit a0 a1 a2 s = _; unfold execKvCommit; exact run_low s _ h

theorem retire : ∀ a0 a1 a2, Statement (.retire a0 a1 a2) := by
  intro a0 a1 a2 _ s h; change execRetire a0 a1 a2 s = _; unfold execRetire; exact run_low s _ h

theorem accept : ∀ a0 a1 a2, Statement (.accept a0 a1 a2) := by
  intro a0 a1 a2 _ s h; change execAccept a0 a1 a2 s = _; unfold execAccept; exact run_low s _ h

theorem retireGeneration : ∀ a0, Statement (.retireGeneration a0) := by
  intro a0 _ s h; change execRetireGeneration a0 s = _; unfold execRetireGeneration; exact run_low s _ h

theorem abandonStranded : ∀ a0, Statement (.abandonStranded a0) := by
  intro a0 _ s h; change execAbandonStranded a0 s = _; unfold execAbandonStranded; exact run_low s _ h

theorem placementUpdate : ∀ a0, Statement (.placementUpdate a0) := by
  intro a0 _ s h; change execPlacementUpdate a0 s = _; unfold execPlacementUpdate; exact run_low s _ h

theorem placementStoreComplete : ∀ a0 a1 a2 a3, Statement (.placementStoreComplete a0 a1 a2 a3) := by
  intro a0 a1 a2 a3 _ s h; change execPlacementStoreComplete a0 a1 a2 a3 s = _; unfold execPlacementStoreComplete; exact run_low s _ h

theorem deadlinePolicyWrite : ∀ a0 a1, Statement (.deadlinePolicyWrite a0 a1) := by
  intro a0 a1 _ s h; change execDeadlinePolicyWrite a0 a1 s = _; unfold execDeadlinePolicyWrite; exact run_low s _ h

theorem fillStart : ∀ a0 a1 a2, Statement (.fillStart a0 a1 a2) := by
  intro a0 a1 a2 _ s h; change execFillStart a0 a1 a2 s = _; unfold execFillStart; exact run_low s _ h

theorem fillComplete : ∀ a0 a1 a2 a3 a4, Statement (.fillComplete a0 a1 a2 a3 a4) := by
  intro a0 a1 a2 a3 a4 _ s h; change execFillComplete a0 a1 a2 a3 a4 s = _; unfold execFillComplete; exact run_low s _ h

theorem writebackComplete : ∀ a0 a1, Statement (.writebackComplete a0 a1) := by
  intro a0 a1 _ s h; change execWritebackComplete a0 a1 s = _; unfold execWritebackComplete; exact run_low s _ h

theorem placeObject : ∀ a0, Statement (.placeObject a0) := by
  intro a0 _ s h; change execPlaceObject a0 s = _; unfold execPlaceObject; exact run_low s _ h

theorem flushObject : ∀ a0, Statement (.flushObject a0) := by
  intro a0 _ s h; change execFlushObject a0 s = _; unfold execFlushObject; exact run_low s _ h

theorem kvWrite : ∀ a0 a1 a2 a3 a4, Statement (.kvWrite a0 a1 a2 a3 a4) := by
  intro a0 a1 a2 a3 a4 _ s h; change execKvWrite a0 a1 a2 a3 a4 s = _; unfold execKvWrite; exact run_low s _ h

theorem setWatermark : ∀ a0, Statement (.setWatermark a0) := by
  intro a0 _ s h; change execSetWatermark a0 s = _; unfold execSetWatermark; exact run_low s _ h

theorem releaseProvisional : ∀ a0, Statement (.releaseProvisional a0) := by
  intro a0 _ s h; change execReleaseProvisional a0 s = _; unfold execReleaseProvisional; exact run_low s _ h

theorem kvPoolTail : ∀ a0, Statement (.kvPoolTail a0) := by
  intro a0 _ s h; change execKvPoolTail a0 s = _; unfold execKvPoolTail; exact run_low s _ h

theorem halt : ∀ a0 a1 a2, Statement (.halt a0 a1 a2) := by
  intro a0 a1 a2 _ s h; change execHalt a0 a1 a2 s = _; unfold execHalt; exact run_low s _ h

theorem branch : ∀ a0 a1 a2, Statement (.branch a0 a1 a2) := by
  intro a0 a1 a2 _ s h; change execBranch a0 a1 a2 s = _; unfold execBranch; exact run_low s _ h

theorem loopSet : ∀ a0 a1 a2, Statement (.loopSet a0 a1 a2) := by
  intro a0 a1 a2 _ s h; change execLoopSet a0 a1 a2 s = _; unfold execLoopSet; exact run_low s _ h

theorem loopBack : ∀ a0 a1 a2, Statement (.loopBack a0 a1 a2) := by
  intro a0 a1 a2 _ s h; change execLoopBack a0 a1 a2 s = _; unfold execLoopBack; exact run_low s _ h

theorem yield : ∀ a0 a1 a2, Statement (.yield a0 a1 a2) := by
  intro a0 a1 a2 _ s h; change execYield a0 a1 a2 s = _; unfold execYield; exact run_low s _ h

theorem stepMark : ∀ a0 a1 a2, Statement (.stepMark a0 a1 a2) := by
  intro a0 a1 a2 _ s h; change execStepMark a0 a1 a2 s = _; unfold execStepMark; exact run_low s _ h

theorem npBegin : ∀ a0 a1 a2, Statement (.npBegin a0 a1 a2) := by
  intro a0 a1 a2 _ s h; change execNpBegin a0 a1 a2 s = _; unfold execNpBegin; exact run_low s _ h

theorem npEnd : ∀ a0 a1 a2, Statement (.npEnd a0 a1 a2) := by
  intro a0 a1 a2 _ s h; change execNpEnd a0 a1 a2 s = _; unfold execNpEnd; exact run_low s _ h

theorem setVl : ∀ a0 a1 a2, Statement (.setVl a0 a1 a2) := by
  intro a0 a1 a2 _ s h; change execSetVl a0 a1 a2 s = _; unfold execSetVl; exact run_low s _ h

theorem setReg : ∀ a0 a1 a2, Statement (.setReg a0 a1 a2) := by
  intro a0 a1 a2 _ s h; change execSetReg a0 a1 a2 s = _; unfold execSetReg; exact run_low s _ h

theorem regionOverrun : ∀ a0, Statement (.regionOverrun a0) := by
  intro a0 _ s h; change execRegionOverrun a0 s = _; unfold execRegionOverrun; exact run_low s _ h

theorem dmaPost : ∀ a0 a1 a2, Statement (.dmaPost a0 a1 a2) := by
  intro a0 a1 a2 _ s h; change execDmaPost a0 a1 a2 s = _; unfold execDmaPost; exact run_low s _ h

theorem dmaDescriptorComplete : ∀ a0 a1 a2 a3, Statement (.dmaDescriptorComplete a0 a1 a2 a3) := by
  intro a0 a1 a2 a3 _ s h; change execDmaDescriptorComplete a0 a1 a2 a3 s = _; unfold execDmaDescriptorComplete; exact run_low s _ h

theorem syncSet : ∀ a0 a1 a2, Statement (.syncSet a0 a1 a2) := by
  intro a0 a1 a2 _ s h; change execSyncSet a0 a1 a2 s = _; unfold execSyncSet; exact run_low s _ h

theorem syncAdd : ∀ a0 a1 a2, Statement (.syncAdd a0 a1 a2) := by
  intro a0 a1 a2 _ s h; change execSyncAdd a0 a1 a2 s = _; unfold execSyncAdd; exact run_low s _ h

theorem syncSignal : ∀ a0 a1 a2, Statement (.syncSignal a0 a1 a2) := by
  intro a0 a1 a2 _ s h; change execSyncSignal a0 a1 a2 s = _; unfold execSyncSignal; exact run_low s _ h

theorem syncWait : ∀ a0 a1 a2, Statement (.syncWait a0 a1 a2) := by
  intro a0 a1 a2 _ s h; change execSyncWait a0 a1 a2 s = _; unfold execSyncWait; exact run_low s _ h

theorem syncRead : ∀ a0 a1 a2, Statement (.syncRead a0 a1 a2) := by
  intro a0 a1 a2 _ s h; change execSyncRead a0 a1 a2 s = _; unfold execSyncRead; exact run_low s _ h

theorem syncClear : ∀ a0 a1 a2, Statement (.syncClear a0 a1 a2) := by
  intro a0 a1 a2 _ s h; change execSyncClear a0 a1 a2 s = _; unfold execSyncClear; exact run_low s _ h

theorem signalDelivery : ∀ a0 a1 a2, Statement (.signalDelivery a0 a1 a2) := by
  intro a0 a1 a2 _ s h; change execSignalDelivery a0 a1 a2 s = _; unfold execSignalDelivery; exact run_low s _ h

theorem syncWatchdogExpiry : ∀ a0, Statement (.syncWatchdogExpiry a0) := by
  intro a0 _ s h; change execSyncWatchdogExpiry a0 s = _; unfold execSyncWatchdogExpiry; exact run_low s _ h

theorem scrubPass : ∀ a0 a1, Statement (.scrubPass a0 a1) := by
  intro a0 a1 _ s h; change execScrubPass a0 a1 s = _; unfold execScrubPass; exact run_low s _ h

theorem fenceStone : ∀ a0, Statement (.fenceStone a0) := by
  intro a0 _ s h; change execFenceStone a0 s = _; unfold execFenceStone; exact run_low s _ h

theorem remapStone : ∀ a0, Statement (.remapStone a0) := by
  intro a0 _ s h; change execRemapStone a0 s = _; unfold execRemapStone; exact run_low s _ h

theorem denseProduct : ∀ a0 a1 a2 a3, Statement (.denseProduct a0 a1 a2 a3) := by
  intro a0 a1 a2 a3 _ s h; change execDenseProduct a0 a1 a2 a3 s = _; unfold execDenseProduct; exact run_low s _ h

theorem sparseProduct : ∀ a0 a1 a2 a3, Statement (.sparseProduct a0 a1 a2 a3) := by
  intro a0 a1 a2 a3 _ s h; change execSparseProduct a0 a1 a2 a3 s = _; unfold execSparseProduct; exact run_low s _ h

theorem tileComplete : ∀ a0 a1 a2 a3, Statement (.tileComplete a0 a1 a2 a3) := by
  intro a0 a1 a2 a3 _ s h; change execTileComplete a0 a1 a2 a3 s = _; unfold execTileComplete; exact run_low s _ h

theorem compressActivations : ∀ a0 a1 a2, Statement (.compressActivations a0 a1 a2) := by
  intro a0 a1 a2 _ s h; change execCompressActivations a0 a1 a2 s = _; unfold execCompressActivations; exact run_low s _ h

theorem compressWeightsMask : ∀ a0 a1 a2, Statement (.compressWeightsMask a0 a1 a2) := by
  intro a0 a1 a2 _ s h; change execCompressWeightsMask a0 a1 a2 s = _; unfold execCompressWeightsMask; exact run_low s _ h

theorem compressWeightsMagnitude : ∀ a0 a1 a2, Statement (.compressWeightsMagnitude a0 a1 a2) := by
  intro a0 a1 a2 _ s h; change execCompressWeightsMagnitude a0 a1 a2 s = _; unfold execCompressWeightsMagnitude; exact run_low s _ h

theorem expand : ∀ a0 a1 a2, Statement (.expand a0 a1 a2) := by
  intro a0 a1 a2 _ s h; change execExpand a0 a1 a2 s = _; unfold execExpand; exact run_low s _ h

theorem transpose : ∀ a0 a1 a2, Statement (.transpose a0 a1 a2) := by
  intro a0 a1 a2 _ s h; change execTranspose a0 a1 a2 s = _; unfold execTranspose; exact run_low s _ h

theorem engineInject : ∀ a0, Statement (.engineInject a0) := by
  intro a0 _ s h; change execEngineInject a0 s = _; unfold execEngineInject; exact run_low s _ h

theorem configure : ∀ a0 a1 a2, Statement (.configure a0 a1 a2) := by
  intro a0 a1 a2 _ s h; change execConfigure a0 a1 a2 s = _; unfold execConfigure; exact run_low s _ h

theorem vectorRun : ∀ a0 a1 a2 a3 a4, Statement (.vectorRun a0 a1 a2 a3 a4) := by
  intro a0 a1 a2 a3 a4 _ s h; change execVectorRun a0 a1 a2 a3 a4 s = _; unfold execVectorRun; exact run_low s _ h

theorem vectorRunComplete : ∀ a0 a1, Statement (.vectorRunComplete a0 a1) := by
  intro a0 a1 _ s h; change execVectorRunComplete a0 a1 s = _; unfold execVectorRunComplete; exact run_low s _ h

theorem scalarSet : ∀ a0 a1 a2, Statement (.scalarSet a0 a1 a2) := by
  intro a0 a1 a2 _ s h; change execScalarSet a0 a1 a2 s = _; unfold execScalarSet; exact run_low s _ h

theorem scalarFunc : ∀ a0 a1 a2, Statement (.scalarFunc a0 a1 a2) := by
  intro a0 a1 a2 _ s h; change execScalarFunc a0 a1 a2 s = _; unfold execScalarFunc; exact run_low s _ h

theorem scalarStore : ∀ a0 a1 a2, Statement (.scalarStore a0 a1 a2) := by
  intro a0 a1 a2 _ s h; change execScalarStore a0 a1 a2 s = _; unfold execScalarStore; exact run_low s _ h

theorem scalarLoad : ∀ a0 a1 a2, Statement (.scalarLoad a0 a1 a2) := by
  intro a0 a1 a2 _ s h; change execScalarLoad a0 a1 a2 s = _; unfold execScalarLoad; exact run_low s _ h

theorem bufferRelease : ∀ a0 a1 a2, Statement (.bufferRelease a0 a1 a2) := by
  intro a0 a1 a2 _ s h; change execBufferRelease a0 a1 a2 s = _; unfold execBufferRelease; exact run_low s _ h

theorem poolCommit : ∀ a0, Statement (.poolCommit a0) := by
  intro a0 _ s h; change execPoolCommit a0 s = _; unfold execPoolCommit; exact run_low s _ h

theorem memoryLoad : ∀ a0 a1 a2, Statement (.memoryLoad a0 a1 a2) := by
  intro a0 a1 a2 _ s h; change execMemoryLoad a0 a1 a2 s = _; unfold execMemoryLoad; exact run_low s _ h

theorem memoryStore : ∀ a0 a1 a2, Statement (.memoryStore a0 a1 a2) := by
  intro a0 a1 a2 _ s h; change execMemoryStore a0 a1 a2 s = _; unfold execMemoryStore; exact run_low s _ h

theorem atomicRead : ∀ a0 a1 a2, Statement (.atomicRead a0 a1 a2) := by
  intro a0 a1 a2 _ s h; change execAtomicRead a0 a1 a2 s = _; unfold execAtomicRead; exact run_low s _ h

theorem atomicSwap : ∀ a0 a1 a2, Statement (.atomicSwap a0 a1 a2) := by
  intro a0 a1 a2 _ s h; change execAtomicSwap a0 a1 a2 s = _; unfold execAtomicSwap; exact run_low s _ h

theorem atomicCas : ∀ a0 a1 a2, Statement (.atomicCas a0 a1 a2) := by
  intro a0 a1 a2 _ s h; change execAtomicCas a0 a1 a2 s = _; unfold execAtomicCas; exact run_low s _ h

theorem atomicAdd : ∀ a0 a1 a2, Statement (.atomicAdd a0 a1 a2) := by
  intro a0 a1 a2 _ s h; change execAtomicAdd a0 a1 a2 s = _; unfold execAtomicAdd; exact run_low s _ h

theorem atomicAnd : ∀ a0 a1 a2, Statement (.atomicAnd a0 a1 a2) := by
  intro a0 a1 a2 _ s h; change execAtomicAnd a0 a1 a2 s = _; unfold execAtomicAnd; exact run_low s _ h

theorem atomicOr : ∀ a0 a1 a2, Statement (.atomicOr a0 a1 a2) := by
  intro a0 a1 a2 _ s h; change execAtomicOr a0 a1 a2 s = _; unfold execAtomicOr; exact run_low s _ h

theorem atomicXor : ∀ a0 a1 a2, Statement (.atomicXor a0 a1 a2) := by
  intro a0 a1 a2 _ s h; change execAtomicXor a0 a1 a2 s = _; unfold execAtomicXor; exact run_low s _ h

theorem atomicMaxS : ∀ a0 a1 a2, Statement (.atomicMaxS a0 a1 a2) := by
  intro a0 a1 a2 _ s h; change execAtomicMaxS a0 a1 a2 s = _; unfold execAtomicMaxS; exact run_low s _ h

theorem atomicMinS : ∀ a0 a1 a2, Statement (.atomicMinS a0 a1 a2) := by
  intro a0 a1 a2 _ s h; change execAtomicMinS a0 a1 a2 s = _; unfold execAtomicMinS; exact run_low s _ h

theorem atomicMaxU : ∀ a0 a1 a2, Statement (.atomicMaxU a0 a1 a2) := by
  intro a0 a1 a2 _ s h; change execAtomicMaxU a0 a1 a2 s = _; unfold execAtomicMaxU; exact run_low s _ h

theorem atomicMinU : ∀ a0 a1 a2, Statement (.atomicMinU a0 a1 a2) := by
  intro a0 a1 a2 _ s h; change execAtomicMinU a0 a1 a2 s = _; unfold execAtomicMinU; exact run_low s _ h

theorem memoryFence : ∀ a0 a1 a2, Statement (.memoryFence a0 a1 a2) := by
  intro a0 a1 a2 _ s h; change execMemoryFence a0 a1 a2 s = _; unfold execMemoryFence; exact run_low s _ h

theorem memoryRequestAtHome : ∀ a0 a1, Statement (.memoryRequestAtHome a0 a1) := by
  intro a0 a1 _ s h; change execMemoryRequestAtHome a0 a1 s = _; unfold execMemoryRequestAtHome; exact run_low s _ h

theorem lineRequestPerformed : ∀ a0 a1, Statement (.lineRequestPerformed a0 a1) := by
  intro a0 a1 _ s h; change execLineRequestPerformed a0 a1 s = _; unfold execLineRequestPerformed; exact run_low s _ h

theorem memoryResponse : ∀ a0, Statement (.memoryResponse a0) := by
  intro a0 _ s h; change execMemoryResponse a0 s = _; unfold execMemoryResponse; exact run_low s _ h

theorem attemptTimeoutExpiry : ∀ a0 a1 a2, Statement (.attemptTimeoutExpiry a0 a1 a2) := by
  intro a0 a1 a2 _ s h; change execAttemptTimeoutExpiry a0 a1 a2 s = _; unfold execAttemptTimeoutExpiry; exact run_low s _ h

theorem ledgerEntryExpiry : ∀ a0 a1 a2 a3, Statement (.ledgerEntryExpiry a0 a1 a2 a3) := by
  intro a0 a1 a2 a3 _ s h; change execLedgerEntryExpiry a0 a1 a2 a3 s = _; unfold execLedgerEntryExpiry; exact run_low s _ h

theorem windowSet : ∀ a0, Statement (.windowSet a0) := by
  intro a0 _ s h; change execWindowSet a0 s = _; unfold execWindowSet; exact run_low s _ h

theorem windowClear : ∀ a0, Statement (.windowClear a0) := by
  intro a0 _ s h; change execWindowClear a0 s = _; unfold execWindowClear; exact run_low s _ h

theorem groupCommit : ∀ a0 a1 a2, Statement (.groupCommit a0 a1 a2) := by
  intro a0 a1 a2 _ s h; change execGroupCommit a0 a1 a2 s = _; unfold execGroupCommit; exact run_low s _ h

theorem collBarrier : ∀ a0 a1 a2, Statement (.collBarrier a0 a1 a2) := by
  intro a0 a1 a2 _ s h; change execCollBarrier a0 a1 a2 s = _; unfold execCollBarrier; exact run_low s _ h

theorem collBroadcast : ∀ a0 a1 a2, Statement (.collBroadcast a0 a1 a2) := by
  intro a0 a1 a2 _ s h; change execCollBroadcast a0 a1 a2 s = _; unfold execCollBroadcast; exact run_low s _ h

theorem collReduce : ∀ a0 a1 a2, Statement (.collReduce a0 a1 a2) := by
  intro a0 a1 a2 _ s h; change execCollReduce a0 a1 a2 s = _; unfold execCollReduce; exact run_low s _ h

theorem collAllReduce : ∀ a0 a1 a2, Statement (.collAllReduce a0 a1 a2) := by
  intro a0 a1 a2 _ s h; change execCollAllReduce a0 a1 a2 s = _; unfold execCollAllReduce; exact run_low s _ h

theorem collReduceScatter : ∀ a0 a1 a2, Statement (.collReduceScatter a0 a1 a2) := by
  intro a0 a1 a2 _ s h; change execCollReduceScatter a0 a1 a2 s = _; unfold execCollReduceScatter; exact run_low s _ h

theorem collAllGather : ∀ a0 a1 a2, Statement (.collAllGather a0 a1 a2) := by
  intro a0 a1 a2 _ s h; change execCollAllGather a0 a1 a2 s = _; unfold execCollAllGather; exact run_low s _ h

theorem collMulticast : ∀ a0 a1 a2, Statement (.collMulticast a0 a1 a2) := by
  intro a0 a1 a2 _ s h; change execCollMulticast a0 a1 a2 s = _; unfold execCollMulticast; exact run_low s _ h

theorem collRetentionGrant : ∀ a0 a1, Statement (.collRetentionGrant a0 a1) := by
  intro a0 a1 _ s h; change execCollRetentionGrant a0 a1 s = _; unfold execCollRetentionGrant; exact run_low s _ h

theorem tileNotice : ∀ a0 a1 a2, Statement (.tileNotice a0 a1 a2) := by
  intro a0 a1 a2 _ s h; change execTileNotice a0 a1 a2 s = _; unfold execTileNotice; exact run_low s _ h

theorem partialMsg : ∀ a0, Statement (.partialMsg a0) := by
  intro a0 _ s h; change execPartialMsg a0 s = _; unfold execPartialMsg; exact run_low s _ h

theorem resultMsg : ∀ a0, Statement (.resultMsg a0) := by
  intro a0 _ s h; change execResultMsg a0 s = _; unfold execResultMsg; exact run_low s _ h

theorem pnak : ∀ a0 a1, Statement (.pnak a0 a1) := by
  intro a0 a1 _ s h; change execPnak a0 a1 s = _; unfold execPnak; exact run_low s _ h

theorem collNak : ∀ a0 a1, Statement (.collNak a0 a1) := by
  intro a0 a1 _ s h; change execCollNak a0 a1 s = _; unfold execCollNak; exact run_low s _ h

theorem doneMsg : ∀ a0, Statement (.doneMsg a0) := by
  intro a0 _ s h; change execDoneMsg a0 s = _; unfold execDoneMsg; exact run_low s _ h

theorem sealMsg : ∀ a0, Statement (.sealMsg a0) := by
  intro a0 _ s h; change execSealMsg a0 s = _; unfold execSealMsg; exact run_low s _ h

theorem abortReq : ∀ a0, Statement (.abortReq a0) := by
  intro a0 _ s h; change execAbortReq a0 s = _; unfold execAbortReq; exact run_low s _ h

theorem abort : ∀ a0, Statement (.abort a0) := by
  intro a0 _ s h; change execAbort a0 s = _; unfold execAbort; exact run_low s _ h

theorem backoff : ∀ a0, Statement (.backoff a0) := by
  intro a0 _ s h; change execBackoff a0 s = _; unfold execBackoff; exact run_low s _ h

theorem backoffRetry : ∀ a0 a1, Statement (.backoffRetry a0 a1) := by
  intro a0 a1 _ s h; change execBackoffRetry a0 a1 s = _; unfold execBackoffRetry; exact run_low s _ h

theorem leg : ∀ a0, Statement (.leg a0) := by
  intro a0 _ s h; change execLeg a0 s = _; unfold execLeg; exact run_low s _ h

theorem legAck : ∀ a0 a1 a2 a3 a4 a5, Statement (.legAck a0 a1 a2 a3 a4 a5) := by
  intro a0 a1 a2 a3 a4 a5 _ s h; change execLegAck a0 a1 a2 a3 a4 a5 s = _; unfold execLegAck; exact run_low s _ h

theorem collTimeoutExpiry : ∀ a0, Statement (.collTimeoutExpiry a0) := by
  intro a0 _ s h; change execCollTimeoutExpiry a0 s = _; unfold execCollTimeoutExpiry; exact run_low s _ h

theorem sealWaitTimeout : ∀ a0, Statement (.sealWaitTimeout a0) := by
  intro a0 _ s h; change execSealWaitTimeout a0 s = _; unfold execSealWaitTimeout; exact run_low s _ h

theorem collAbort : ∀ a0, Statement (.collAbort a0) := by
  intro a0 _ s h; change execCollAbort a0 s = _; unfold execCollAbort; exact run_low s _ h

theorem portTrainingRetry : ∀ a0, Statement (.portTrainingRetry a0) := by
  intro a0 _ s h; change execPortTrainingRetry a0 s = _; unfold execPortTrainingRetry; exact run_low s _ h

theorem trainingComplete : ∀ a0 a1, Statement (.trainingComplete a0 a1) := by
  intro a0 a1 _ s h; change execTrainingComplete a0 a1 s = _; unfold execTrainingComplete; exact run_low s _ h

theorem hello : ∀ a0 a1, Statement (.hello a0 a1) := by
  intro a0 a1 _ s h; change execHello a0 a1 s = _; unfold execHello; exact run_low s _ h

theorem echoFrame : ∀ a0 a1, Statement (.echoFrame a0 a1) := by
  intro a0 a1 _ s h; change execEchoFrame a0 a1 s = _; unfold execEchoFrame; exact run_low s _ h

theorem refusalNotice : ∀ a0, Statement (.refusalNotice a0) := by
  intro a0 _ s h; change execRefusalNotice a0 s = _; unfold execRefusalNotice; exact run_low s _ h

theorem linkLockLoss : ∀ a0, Statement (.linkLockLoss a0) := by
  intro a0 _ s h; change execLinkLockLoss a0 s = _; unfold execLinkLockLoss; exact run_low s _ h

theorem portRetrain : ∀ a0 a1, Statement (.portRetrain a0 a1) := by
  intro a0 a1 _ s h; change execPortRetrain a0 a1 s = _; unfold execPortRetrain; exact run_low s _ h

theorem portFence : ∀ a0 a1, Statement (.portFence a0 a1) := by
  intro a0 a1 _ s h; change execPortFence a0 a1 s = _; unfold execPortFence; exact run_low s _ h

theorem rekey : ∀ a0, Statement (.rekey a0) := by
  intro a0 _ s h; change execRekey a0 s = _; unfold execRekey; exact run_low s _ h

theorem rekeyExchange : ∀ a0 a1, Statement (.rekeyExchange a0 a1) := by
  intro a0 a1 _ s h; change execRekeyExchange a0 a1 s = _; unfold execRekeyExchange; exact run_low s _ h

theorem linkFrameReceived : ∀ a0 a1, Statement (.linkFrameReceived a0 a1) := by
  intro a0 a1 _ s h; change execLinkFrameReceived a0 a1 s = _; unfold execLinkFrameReceived; exact run_low s _ h

theorem controlBlock : ∀ a0 a1, Statement (.controlBlock a0 a1) := by
  intro a0 a1 _ s h; change execControlBlock a0 a1 s = _; unfold execControlBlock; exact run_low s _ h

theorem frameTransmit : ∀ a0 a1, Statement (.frameTransmit a0 a1) := by
  intro a0 a1 _ s h; change execFrameTransmit a0 a1 s = _; unfold execFrameTransmit; exact run_low s _ h

theorem packetRoute : ∀ a0 a1, Statement (.packetRoute a0 a1) := by
  intro a0 a1 _ s h; change execPacketRoute a0 a1 s = _; unfold execPacketRoute; exact run_low s _ h

theorem aqueductPacket : ∀ a0 a1, Statement (.aqueductPacket a0 a1) := by
  intro a0 a1 _ s h; change execAqueductPacket a0 a1 s = _; unfold execAqueductPacket; exact run_low s _ h

theorem aqSet : ∀ a0, Statement (.aqSet a0) := by
  intro a0 _ s h; change execAqSet a0 s = _; unfold execAqSet; exact run_low s _ h

theorem aqClear : ∀ a0, Statement (.aqClear a0) := by
  intro a0 _ s h; change execAqClear a0 s = _; unfold execAqClear; exact run_low s _ h

theorem tableInstall : ∀ a0, Statement (.tableInstall a0) := by
  intro a0 _ s h; change execTableInstall a0 s = _; unfold execTableInstall; exact run_low s _ h

theorem injectEpoch : ∀ a0, Statement (.injectEpoch a0) := by
  intro a0 _ s h; change execInjectEpoch a0 s = _; unfold execInjectEpoch; exact run_low s _ h

theorem tableRetire : ∀ a0, Statement (.tableRetire a0) := by
  intro a0 _ s h; change execTableRetire a0 s = _; unfold execTableRetire; exact run_low s _ h

theorem epochStepInstall : ∀ a0, Statement (.epochStepInstall a0) := by
  intro a0 _ s h; change execEpochStepInstall a0 s = _; unfold execEpochStepInstall; exact run_low s _ h

theorem epochStepFlip : ∀ a0, Statement (.epochStepFlip a0) := by
  intro a0 _ s h; change execEpochStepFlip a0 s = _; unfold execEpochStepFlip; exact run_low s _ h

theorem epochStepPoll : ∀ a0, Statement (.epochStepPoll a0) := by
  intro a0 _ s h; change execEpochStepPoll a0 s = _; unfold execEpochStepPoll; exact run_low s _ h

theorem epochStepRetire : ∀ a0, Statement (.epochStepRetire a0) := by
  intro a0 _ s h; change execEpochStepRetire a0 s = _; unfold execEpochStepRetire; exact run_low s _ h

theorem epochStepMember : ∀ a0 a1 a2, Statement (.epochStepMember a0 a1 a2) := by
  intro a0 a1 a2 _ s h; change execEpochStepMember a0 a1 a2 s = _; unfold execEpochStepMember; exact run_low s _ h

theorem epochStepAnswer : ∀ a0 a1 a2 a3 a4, Statement (.epochStepAnswer a0 a1 a2 a3 a4) := by
  intro a0 a1 a2 a3 a4 _ s h; change execEpochStepAnswer a0 a1 a2 a3 a4 s = _; unfold execEpochStepAnswer; exact run_low s _ h

theorem epochStepTimeout : Statement (.epochStepTimeout) := by
  intro _ s h; change execEpochStepTimeout s = _; unfold execEpochStepTimeout; exact run_low s _ h

theorem load : ∀ a0, Statement (.load a0) := by
  intro a0 _ s h; change execLoad a0 s = _; unfold execLoad; exact run_low s _ h

theorem loadComplete : ∀ a0, Statement (.loadComplete a0) := by
  intro a0 _ s h; change execLoadComplete a0 s = _; unfold execLoadComplete; exact run_low s _ h

theorem unload : ∀ a0 a1, Statement (.unload a0 a1) := by
  intro a0 a1 _ s h; change execUnload a0 a1 s = _; unfold execUnload; exact run_low s _ h

theorem unloadComplete : ∀ a0, Statement (.unloadComplete a0) := by
  intro a0 _ s h; change execUnloadComplete a0 s = _; unfold execUnloadComplete; exact run_low s _ h

theorem resumeContinue : ∀ a0 a1, Statement (.resumeContinue a0 a1) := by
  intro a0 a1 _ s h; change execResumeContinue a0 a1 s = _; unfold execResumeContinue; exact run_low s _ h

theorem resumeStepMark : ∀ a0 a1, Statement (.resumeStepMark a0 a1) := by
  intro a0 a1 _ s h; change execResumeStepMark a0 a1 s = _; unfold execResumeStepMark; exact run_low s _ h

theorem pondJobPrepare : ∀ a0 a1, Statement (.pondJobPrepare a0 a1) := by
  intro a0 a1 _ s h; change execPondJobPrepare a0 a1 s = _; unfold execPondJobPrepare; exact run_low s _ h

theorem pondJobCommit : ∀ a0, Statement (.pondJobCommit a0) := by
  intro a0 _ s h; change execPondJobCommit a0 s = _; unfold execPondJobCommit; exact run_low s _ h

theorem pondJobRun : ∀ a0, Statement (.pondJobRun a0) := by
  intro a0 _ s h; change execPondJobRun a0 s = _; unfold execPondJobRun; exact run_low s _ h

theorem pondJobAbort : ∀ a0, Statement (.pondJobAbort a0) := by
  intro a0 _ s h; change execPondJobAbort a0 s = _; unfold execPondJobAbort; exact run_low s _ h

theorem pondJobTeardown : ∀ a0, Statement (.pondJobTeardown a0) := by
  intro a0 _ s h; change execPondJobTeardown a0 s = _; unfold execPondJobTeardown; exact run_low s _ h

theorem jobPrepare : ∀ a0 a1 a2, Statement (.jobPrepare a0 a1 a2) := by
  intro a0 a1 a2 _ s h; change execJobPrepare a0 a1 a2 s = _; unfold execJobPrepare; exact run_low s _ h

theorem jobCommit : ∀ a0 a1, Statement (.jobCommit a0 a1) := by
  intro a0 a1 _ s h; change execJobCommit a0 a1 s = _; unfold execJobCommit; exact run_low s _ h

theorem jobRun : ∀ a0 a1, Statement (.jobRun a0 a1) := by
  intro a0 a1 _ s h; change execJobRun a0 a1 s = _; unfold execJobRun; exact run_low s _ h

theorem jobAbort : ∀ a0 a1, Statement (.jobAbort a0 a1) := by
  intro a0 a1 _ s h; change execJobAbort a0 a1 s = _; unfold execJobAbort; exact run_low s _ h

theorem jobTeardown : ∀ a0, Statement (.jobTeardown a0) := by
  intro a0 _ s h; change execJobTeardown a0 s = _; unfold execJobTeardown; exact run_low s _ h

theorem teardownComplete : Statement (.teardownComplete) := by
  intro _ s h; change execTeardownComplete s = _; unfold execTeardownComplete; exact run_low s _ h

theorem jobStepAnswer : ∀ a0, Statement (.jobStepAnswer a0) := by
  intro a0 _ s h; change execJobStepAnswer a0 s = _; unfold execJobStepAnswer; exact run_low s _ h

theorem jobChildWaitExpiry : Statement (.jobChildWaitExpiry) := by
  intro _ s h; change execJobChildWaitExpiry s = _; unfold execJobChildWaitExpiry; exact run_low s _ h

theorem jobStepTimeout : Statement (.jobStepTimeout) := by
  intro _ s h; change execJobStepTimeout s = _; unfold execJobStepTimeout; exact run_low s _ h

theorem sliceGrant : ∀ a0, Statement (.sliceGrant a0) := by
  intro a0 _ s h; change execSliceGrant a0 s = _; unfold execSliceGrant; exact run_low s _ h

theorem sliceExpiry : ∀ a0, Statement (.sliceExpiry a0) := by
  intro a0 _ s h; change execSliceExpiry a0 s = _; unfold execSliceExpiry; exact run_low s _ h

theorem sliceStopComplete : ∀ a0 a1, Statement (.sliceStopComplete a0 a1) := by
  intro a0 a1 _ s h; change execSliceStopComplete a0 a1 s = _; unfold execSliceStopComplete; exact run_low s _ h

theorem swapInStart : Statement (.swapInStart) := by
  intro _ s h; change execSwapInStart s = _; unfold execSwapInStart; exact run_low s _ h

theorem swapOutComplete : ∀ a0, Statement (.swapOutComplete a0) := by
  intro a0 _ s h; change execSwapOutComplete a0 s = _; unfold execSwapOutComplete; exact run_low s _ h

theorem swapInComplete : ∀ a0, Statement (.swapInComplete a0) := by
  intro a0 _ s h; change execSwapInComplete a0 s = _; unfold execSwapInComplete; exact run_low s _ h

theorem submitDoorbell : ∀ a0, Statement (.submitDoorbell a0) := by
  intro a0 _ s h; change execSubmitDoorbell a0 s = _; unfold execSubmitDoorbell; exact run_low s _ h

theorem ringNop : ∀ a0 a1, Statement (.ringNop a0 a1) := by
  intro a0 a1 _ s h; change execRingNop a0 a1 s = _; unfold execRingNop; exact run_low s _ h

theorem ringStep : ∀ a0 a1, Statement (.ringStep a0 a1) := by
  intro a0 a1 _ s h; change execRingStep a0 a1 s = _; unfold execRingStep; exact run_low s _ h

theorem ringPrefill : ∀ a0 a1, Statement (.ringPrefill a0 a1) := by
  intro a0 a1 _ s h; change execRingPrefill a0 a1 s = _; unfold execRingPrefill; exact run_low s _ h

theorem ringFlush : ∀ a0 a1, Statement (.ringFlush a0 a1) := by
  intro a0 a1 _ s h; change execRingFlush a0 a1 s = _; unfold execRingFlush; exact run_low s _ h

theorem ringCommand : ∀ a0 a1 a2 a3 a4 a5 a6, Statement (.ringCommand a0 a1 a2 a3 a4 a5 a6) := by
  intro a0 a1 a2 a3 a4 a5 a6 _ s h; change execRingCommand a0 a1 a2 a3 a4 a5 a6 s = _; unfold execRingCommand; exact run_low s _ h

theorem ringReadError : ∀ a0, Statement (.ringReadError a0) := by
  intro a0 _ s h; change execRingReadError a0 s = _; unfold execRingReadError; exact run_low s _ h

theorem ringEnable : ∀ a0 a1, Statement (.ringEnable a0 a1) := by
  intro a0 a1 _ s h; change execRingEnable a0 a1 s = _; unfold execRingEnable; exact run_low s _ h

theorem ringResume : ∀ a0 a1, Statement (.ringResume a0 a1) := by
  intro a0 a1 _ s h; change execRingResume a0 a1 s = _; unfold execRingResume; exact run_low s _ h

theorem resultRelease : ∀ a0 a1, Statement (.resultRelease a0 a1) := by
  intro a0 a1 _ s h; change execResultRelease a0 a1 s = _; unfold execResultRelease; exact run_low s _ h

theorem resultMailboxRead : ∀ a0 a1, Statement (.resultMailboxRead a0 a1) := by
  intro a0 a1 _ s h; change execResultMailboxRead a0 a1 s = _; unfold execResultMailboxRead; exact run_low s _ h

theorem dictWrite : ∀ a0 a1 a2, Statement (.dictWrite a0 a1 a2) := by
  intro a0 a1 a2 _ s h; change execDictWrite a0 a1 a2 s = _; unfold execDictWrite; exact run_low s _ h

theorem dictDescribe : ∀ a0 a1 a2, Statement (.dictDescribe a0 a1 a2) := by
  intro a0 a1 a2 _ s h; change execDictDescribe a0 a1 a2 s = _; unfold execDictDescribe; exact run_low s _ h

theorem dictNext : ∀ a0 a1 a2, Statement (.dictNext a0 a1 a2) := by
  intro a0 a1 a2 _ s h; change execDictNext a0 a1 a2 s = _; unfold execDictNext; exact run_low s _ h

theorem dictDoorbell : ∀ a0, Statement (.dictDoorbell a0) := by
  intro a0 _ s h; change execDictDoorbell a0 s = _; unfold execDictDoorbell; exact run_low s _ h

theorem mappedWrite : ∀ a0 a1 a2, Statement (.mappedWrite a0 a1 a2) := by
  intro a0 a1 a2 _ s h; change execMappedWrite a0 a1 a2 s = _; unfold execMappedWrite; exact run_low s _ h

theorem relayRequest : ∀ a0 a1 a2 a3, Statement (.relayRequest a0 a1 a2 a3) := by
  intro a0 a1 a2 a3 _ s h; change execRelayRequest a0 a1 a2 a3 s = _; unfold execRelayRequest; exact run_low s _ h

theorem relayResponse : ∀ a0 a1 a2 a3, Statement (.relayResponse a0 a1 a2 a3) := by
  intro a0 a1 a2 a3 _ s h; change execRelayResponse a0 a1 a2 a3 s = _; unfold execRelayResponse; exact run_low s _ h

theorem relayTimeoutExpiry : ∀ a0 a1, Statement (.relayTimeoutExpiry a0 a1) := by
  intro a0 a1 _ s h; change execRelayTimeoutExpiry a0 a1 s = _; unfold execRelayTimeoutExpiry; exact run_low s _ h

theorem deferredWriteComplete : ∀ a0 a1, Statement (.deferredWriteComplete a0 a1) := by
  intro a0 a1 _ s h; change execDeferredWriteComplete a0 a1 s = _; unfold execDeferredWriteComplete; exact run_low s _ h

theorem lastRefusalRead : ∀ a0, Statement (.lastRefusalRead a0) := by
  intro a0 _ s h; change execLastRefusalRead a0 s = _; unfold execLastRefusalRead; exact run_low s _ h

theorem depthMaxRead : ∀ a0 a1 a2, Statement (.depthMaxRead a0 a1 a2) := by
  intro a0 a1 a2 _ s h; change execDepthMaxRead a0 a1 a2 s = _; unfold execDepthMaxRead; exact run_low s _ h

theorem plcaFallback : Statement (.plcaFallback) := by
  intro _ s h; change execPlcaFallback s = _; unfold execPlcaFallback; exact run_low s _ h

theorem flitReceived : ∀ a0, Statement (.flitReceived a0) := by
  intro a0 _ s h; change execFlitReceived a0 s = _; unfold execFlitReceived; exact run_low s _ h

theorem umoraLockLoss : Statement (.umoraLockLoss) := by
  intro _ s h; change execUmoraLockLoss s = _; unfold execUmoraLockLoss; exact run_low s _ h

theorem linkRetrain : ∀ a0, Statement (.linkRetrain a0) := by
  intro a0 _ s h; change execLinkRetrain a0 s = _; unfold execLinkRetrain; exact run_low s _ h

theorem umoraDown : Statement (.umoraDown) := by
  intro _ s h; change execUmoraDown s = _; unfold execUmoraDown; exact run_low s _ h

theorem hostCompletion : ∀ a0 a1 a2 a3, Statement (.hostCompletion a0 a1 a2 a3) := by
  intro a0 a1 a2 a3 _ s h; change execHostCompletion a0 a1 a2 a3 s = _; unfold execHostCompletion; exact run_low s _ h

theorem timeBeacon : ∀ a0 a1, Statement (.timeBeacon a0 a1) := by
  intro a0 a1 _ s h; change execTimeBeacon a0 a1 s = _; unfold execTimeBeacon; exact run_low s _ h

theorem badMessage : ∀ a0, Statement (.badMessage a0) := by
  intro a0 _ s h; change execBadMessage a0 s = _; unfold execBadMessage; exact run_low s _ h

theorem holdoverExpiry : Statement (.holdoverExpiry) := by
  intro _ s h; change execHoldoverExpiry s = _; unfold execHoldoverExpiry; exact run_low s _ h

theorem faultReport : ∀ a0, Statement (.faultReport a0) := by
  intro a0 _ s h; change execFaultReport a0 s = _; unfold execFaultReport; exact run_low s _ h

theorem reportWireStuck : ∀ a0 a1 a2, Statement (.reportWireStuck a0 a1 a2) := by
  intro a0 a1 a2 _ s h; change execReportWireStuck a0 a1 a2 s = _; unfold execReportWireStuck; exact run_low s _ h

theorem faultAck : ∀ a0, Statement (.faultAck a0) := by
  intro a0 _ s h; change execFaultAck a0 s = _; unfold execFaultAck; exact run_low s _ h

theorem cAckHoldExpiry : Statement (.cAckHoldExpiry) := by
  intro _ s h; change execCAckHoldExpiry s = _; unfold execCAckHoldExpiry; exact run_low s _ h

theorem faultSummarySend : Statement (.faultSummarySend) := by
  intro _ s h; change execFaultSummarySend s = _; unfold execFaultSummarySend; exact run_low s _ h

theorem faultSummary : ∀ a0 a1, Statement (.faultSummary a0 a1) := by
  intro a0 a1 _ s h; change execFaultSummary a0 a1 s = _; unfold execFaultSummary; exact run_low s _ h

theorem summaryStale : ∀ a0, Statement (.summaryStale a0) := by
  intro a0 _ s h; change execSummaryStale a0 s = _; unfold execSummaryStale; exact run_low s _ h

theorem interruptSelect : ∀ a0, Statement (.interruptSelect a0) := by
  intro a0 _ s h; change execInterruptSelect a0 s = _; unfold execInterruptSelect; exact run_low s _ h

theorem interruptDelivery : ∀ a0, Statement (.interruptDelivery a0) := by
  intro a0 _ s h; change execInterruptDelivery a0 s = _; unfold execInterruptDelivery; exact run_low s _ h

theorem mgmtEoi : ∀ a0 a1, Statement (.mgmtEoi a0 a1) := by
  intro a0 a1 _ s h; change execMgmtEoi a0 a1 s = _; unfold execMgmtEoi; exact run_low s _ h

theorem hostEoi : ∀ a0, Statement (.hostEoi a0) := by
  intro a0 _ s h; change execHostEoi a0 s = _; unfold execHostEoi; exact run_low s _ h

theorem serve : ∀ a0 a1, Statement (.serve a0 a1) := by
  intro a0 a1 _ s h; change execServe a0 a1 s = _; unfold execServe; exact run_low s _ h

theorem pendingWrite : ∀ a0 a1, Statement (.pendingWrite a0 a1) := by
  intro a0 a1 _ s h; change execPendingWrite a0 a1 s = _; unfold execPendingWrite; exact run_low s _ h

theorem wakeTolerance : ∀ a0, Statement (.wakeTolerance a0) := by
  intro a0 _ s h; change execWakeTolerance a0 s = _; unfold execWakeTolerance; exact run_low s _ h

theorem powerStateEntry : Statement (.powerStateEntry) := by
  intro _ s h; change execPowerStateEntry s = _; unfold execPowerStateEntry; exact run_low s _ h

theorem powerEntryComplete : Statement (.powerEntryComplete) := by
  intro _ s h; change execPowerEntryComplete s = _; unfold execPowerEntryComplete; exact run_low s _ h

theorem wakeEvent : ∀ a0, Statement (.wakeEvent a0) := by
  intro a0 _ s h; change execWakeEvent a0 s = _; unfold execWakeEvent; exact run_low s _ h

theorem wakeComplete : Statement (.wakeComplete) := by
  intro _ s h; change execWakeComplete s = _; unfold execWakeComplete; exact run_low s _ h

theorem powerMeasurement : ∀ a0, Statement (.powerMeasurement a0) := by
  intro a0 _ s h; change execPowerMeasurement a0 s = _; unfold execPowerMeasurement; exact run_low s _ h

theorem temperatureReading : ∀ a0 a1, Statement (.temperatureReading a0 a1) := by
  intro a0 a1 _ s h; change execTemperatureReading a0 a1 s = _; unfold execTemperatureReading; exact run_low s _ h

theorem umoraTrainingComplete : ∀ a0 a1, Statement (.umoraTrainingComplete a0 a1) := by
  intro a0 a1 _ s h; change execUmoraTrainingComplete a0 a1 s = _; unfold execUmoraTrainingComplete; exact run_low s _ h

theorem tier1Scrub : ∀ a0 a1 a2, Statement (.tier1Scrub a0 a1 a2) := by
  intro a0 a1 a2 _ s h; change execTier1Scrub a0 a1 a2 s = _; unfold execTier1Scrub; exact run_low s _ h

theorem plcaStatusRestored : Statement (.plcaStatusRestored) := by
  intro _ s h; change execPlcaStatusRestored s = _; unfold execPlcaStatusRestored; exact run_low s _ h

end Sys2Proof.Laws.HeldInReset
end

