-- ==== Sys2Proof/Safety.lean ====
section
/-! DEFINITION. What counts as a well-kept state and a safe step, and the conditions on a state and on operands under which
a command completes, in the terms the statements use. -/

namespace Sys2Proof.Machine

/-! ### Canonical stores -/

/-- Tier 1 in its canonical form: addresses strictly rising. Unlisted bytes read as a free value, so no listed byte can
be redundant. -/
abbrev Memory.wf (s : State) : Prop := tsorted s.mem

/-- Stone SRAM in its canonical form: addresses strictly rising, and no listed byte equal to the zero that an unlisted
byte reads as (17 R547). -/
abbrev Sram.wf (s : State) : Prop := tsorted s.sram ∧ tclean (fun _ => 0) s.sram

/-- Dictionary values in their canonical form: no entry is listed at its default (14 R457). -/
abbrev Entries.wf (s : State) : Prop := tsorted s.ent ∧ tclean entDefault s.ent

/-- The three addressed stores of the part are in canonical form. -/
def Canonical (s : State) : Prop := Memory.wf s ∧ Sram.wf s ∧ Entries.wf s

/-- The command has an effect in the state: no fault and no refusal. -/
def Runs (c : Instr) (s : State) : Prop := ∃ t, exec c s = .next t

/-! ### Frames -/

/-- Every byte of tier 1 and of stone SRAM reads as before. -/
def SameMemory (s t : State) : Prop :=
  (∀ a, memByte t a = memByte s a) ∧ (∀ st off, sramByte t st off = sramByte s st off)

/-- Tier 1 reads as before, and so does every SRAM byte outside `n` bytes at an offset of a stone. -/
def SameMemoryBut (st off n : Nat) (s t : State) : Prop :=
  (∀ a, memByte t a = memByte s a) ∧
    (∀ st' o', sramKey st' o' < sramKey st off ∨ sramKey st off + n ≤ sramKey st' o' → sramByte t st' o' = sramByte s st' o')

/-- A stone without the products in its engines: registers, sync objects, scalars, configuration and mark. -/
def Stone.regs (x : Stone) : Stone := { x with dense := [], sparse := [] }

/-- Every stone but `st` holds what it held, its engines' products aside. -/
def OtherStones (st : Nat) (s t : State) : Prop := ∀ k, k ≠ st → (stoneOf t k).regs = (stoneOf s k).regs

/-- Every dictionary value but those of the listed entries is what it was. -/
def SameEntriesBut (l : List (Nat × Nat)) (s t : State) : Prop :=
  ∀ i j, i < 65536 → j < 256 → (i, j) ∉ l → getE t i j = getE s i j

/-! ### The issue of an instruction (05 R174, R175) -/

/-- The stone issues the instruction now: RESET_N is high, its sequencer can issue, its header passes 05 R172, and neither
the in-flight slots nor its ranges make it wait. -/
def issues (s : State) (st : Nat) (h : IHdr) (srcs dsts : List (Nat × Nat)) : Bool :=
  !s.resetLow && canIssue s st && headerOk h false && (issueWait (stoneOf s st) srcs dsts).isNone

/-- As `issues`, for a class of instruction that an open MEMORY FENCE holds back (11 R359). -/
def memIssues (s : State) (st : Nat) (h : IHdr) (srcs dsts : List (Nat × Nat)) : Bool :=
  issues s st h srcs dsts && !(stoneOf s st).memFence

/-- The stone has issued an instruction: it waits for nothing any more. -/
def issued (s : State) (st : Nat) : State := modStone s st (fun x => { x with stall := none })

/-- A stone after the completion of an instruction with its SIGNAL_EN: the object's VALUE rises by 1 (05 R172). -/
def withSignal (h : IHdr) (x : Stone) : Stone :=
  if h.signalEn then
    setSync x (h.signalObj % 4) { syncOf x (h.signalObj % 4) with val := (syncOf x (h.signalObj % 4)).val + 1 }
  else x

/-- The next instruction follows an instruction that left the stone as `x`, and its SIGNAL_EN is applied. -/
def goesOn (h : IHdr) (x : Stone) : Stone := withSignal h { x with pc := x.pc + 1, stall := none }

/-- The stone belongs to a RUNNING context, as one that issues outside an open region does (13 R420). -/
def steady (s : State) (st : Nat) : Bool :=
  match (stoneOf s st).owner with
  | some c => decide ((ctxOf s c).state = .running) && (ctxStones s c).contains st
  | none => false

/-- Only the stone `st` may differ; an instruction that a stone of a RUNNING context issues touches no product in flight and
nothing but stones. (In an open region the context may be another's to settle: 13 R420, R436.) -/
def StoneOnly (st : Nat) (s t : State) : Prop :=
  OtherStones st s t ∧ SameMemory s t ∧
    (steady s st = true → t = { s with stones := t.stones } ∧
      ∀ k, (stoneOf t k).dense = (stoneOf s k).dense ∧ (stoneOf t k).sparse = (stoneOf s k).sparse)

/-- The instruction completes, the stone becomes `x`, and nothing else changes. -/
def Advances (c : Instr) (s : State) (st : Nat) (x : Stone) : Prop :=
  ∃ t, exec c s = .next t ∧ (stoneOf t st).regs = x.regs ∧ StoneOnly st s t

/-- The context settles (13 R420, R421): where none of its stones can issue, a RUNNING context is BLOCKED and its time is
kept; otherwise it is as it was. -/
def Settled (c : Nat) (s t : State) : Prop :=
  if allBlocked t c then (ctxOf t c).state = .blocked ∧ (ctxOf t c).slice = false ∧ getE t (0x5100 + c) 0x08 = now s
  else ctxOf t c = ctxOf s c

/-- The instruction completes and the stone `x` issues no further: nothing else changes but that its context settles. -/
def Rests (c : Instr) (s : State) (st : Nat) (x : Stone) : Prop :=
  ∃ t, exec c s = .next t ∧ (stoneOf t st).regs = x.regs ∧ OtherStones st s t ∧ SameMemory s t ∧
    (steady s st = true → t = { s with stones := t.stones, ctxs := t.ctxs, ent := t.ent } ∧
      (∀ k, (stoneOf t k).dense = (stoneOf s k).dense ∧ (stoneOf t k).sparse = (stoneOf s k).sparse) ∧
      ∀ k, (stoneOf s st).owner = some k → Settled k s t)

/-! ### Dictionary requests (14 R471) -/

/-- The request is served here and now: replay, queueing, Dormant and steps 1 and 2 of 14 R471 let it through. -/
def served1 (idx sub : Nat) (q : Req) (s : State) : Bool :=
  let u := takeRequest s q
  !s.resetLow && !noServer s q && !forwards s q && (remembered s q).isNone && !serverBusy u q &&
    !(decide (u.mode = .dormant) && !dormantServes idx sub q.path) && (headCheck u q).isNone && !forwards u q

/-- A WRITE that passes steps 1 to 9 of 14 R471 for an entry, so that the entry's own rule decides. -/
def accepts (idx sub : Nat) (q : Req) (s : State) : Bool :=
  let u := takeRequest s q
  served1 idx sub q s &&
    (match findEntry idx sub with
     | some e => (writePathCheck u e idx sub q).isNone && (writeCheck u e q).isNone &&
        !(e.deferred && decide (idx ≠ 0x5030) && u.deferred.any (fun d => d.idx == idx && d.sub == sub && d.result.isNone))
     | none => false)

/-- A READ that passes steps 1 to 7 of 14 R471. -/
def acceptsRead (idx sub : Nat) (q : Req) (s : State) : Bool :=
  let u := takeRequest s q
  served1 idx sub q s &&
    (match findEntry idx sub with
     | some e => (readPathCheck u e q).isNone && decide (e.acc ≠ .wo) && (decide (q.typ = 0) || decide (q.typ = e.typ)) &&
        decide (q.length = 0)
     | none => false)

/-- The WRITE is done: `c` answers its request with code 0, and `t` is the state before the response leaves. -/
def Done (c : Instr) (idx sub : Nat) (q : Req) (s t : State) : Prop := exec c s = .next (respond t q idx sub 0 0 0)

/-- The WRITE goes on under 14 R470: its response waits for DEFERRED_WRITE_COMPLETE. -/
def Later (c : Instr) (idx sub : Nat) (q : Req) (s t : State) : Prop :=
  exec c s = .next { t with deferred := t.deferred ++ [{ idx := idx, sub := sub, q := q, result := none }] }

end Sys2Proof.Machine
end

