-- ==== Sys2Proof/Certificates/Slice0/Obligations.lean ====
section
/-! DEFINITION. The statements for the provers. -/

section
open Sys2Proof Sys2Proof.Machine

/-! ### The machine -/

/-- A command is taken from the front of the queue, and its effect is that of `exec` with the rest of the queue waiting. -/
def Obligations.StepRunsTheFrontCommand : Prop :=
  ∀ (c : Instr) (rest : List Instr) (s : State), s.pending = c :: rest → step s = exec c { s with pending := rest }

/-- With no command waiting the always-on clock ticks, the units that wait count, and the interrupt levels are sampled (the
model's choices, log entries 1 and 12); while RESET_N is low nothing moves. -/
def Obligations.IdleStep : Prop := ∀ s : State, s.pending = [] →
    (s.resetLow = true → step s = .next s) ∧
    (s.resetLow = false → ∃ t, step s = .next t ∧ t = samplePending (countWaits (tickClock s)))

/-- Every step takes exactly the front command off the queue. -/
def Obligations.StepConsumesOneCommand : Prop := ∀ (s t : State), step s = .next t → t.pending = s.pending.tail

/-- Every step keeps the three addressed stores in canonical form. -/
def Obligations.StepKeepsCanonical : Prop := ∀ (s t : State), Canonical s → step s = .next t → Canonical t

/-- What reset leaves: Dormant and Run, every dictionary value at its default, stone SRAM zero, no context loaded, no fault
recorded, no command waiting. The state after reset has its stores in canonical form, and so has any state with one more
command waiting. -/
def Obligations.ResetState : Prop :=
  (State.reset.mode = .dormant ∧ State.reset.power.state = 0 ∧ State.reset.pending = [] ∧
    (∀ c i j, getC State.reset c i j = entDefault (ekey c i j)) ∧ (∀ st off, sramByte State.reset st off = 0) ∧
    (∀ c, (ctxOf State.reset c).state = .empty) ∧ (∀ st, (stoneOf State.reset st).run = .off) ∧
    (∀ p, (portOf State.reset p).state = .down) ∧ State.reset.recC.valid = false ∧ State.reset.recU.valid = false ∧
    State.reset.recF.valid = false ∧ State.reset.fenced = [] ∧ State.reset.jobTag = 0) ∧
  (Canonical State.reset ∧ ∀ (s : State) (c : Instr), Canonical s → Canonical { s with pending := s.pending ++ [c] })

/-- No step changes a fused datum, but for the fused security version, which only rises. -/
def Obligations.StepKeepsFuses : Prop := ∀ (s t : State), step s = .next t →
    t.fuses = { s.fuses with fusedSecurityVersion := t.fuses.fusedSecurityVersion } ∧
      s.fuses.fusedSecurityVersion ≤ t.fuses.fusedSecurityVersion

/-- Every command has an effect in every state; only the failure of a unit that the part does not have faults. -/
def Obligations.EveryCommandRuns : Prop :=
  ∀ (c : Instr) (s : State), Runs c s ∨ ∃ u, c = .unitFailure u ∧ unitExists u = false ∧ exec c s = .fault .noSuchUnit

/-- While RESET_N is low, no command but the two of the reset pin and the failure of a missing unit changes anything. -/
def Obligations.HeldInReset : Prop := ∀ i : Instr, Sys2Proof.Laws.HeldInReset.Statement i

/-! ### The sequencer (05 R165, R172 to R178, 08 R270) -/

/-- The instructions that set registers of the sequencer: LOOP_SET, STEP_MARK, NP_BEGIN, NP_END, SET_VL and SET_REG. Each
completes at issue, the next instruction follows, SIGNAL_EN adds 1 to its sync object, and nothing else changes. An NP_BEGIN
whose REGION the image's bound table does not have is BAD_INSTRUCTION. The instructions that say where the sequencer goes on:
BRANCH takes TARGET where COND holds of the register; LOOP_BACK counts LC down and takes TARGET while it is not 0, and falls
through an LC of 0 that stays 0. A TARGET past the stone's instruction list is BAD_INSTRUCTION. The instructions after which a
stone issues no further: HALT, and YIELD on a stone that is not the lead stone and whose lead stone has completed no more
yields than it has. Their context settles. A region past its bound raises REGION_OVERRUN of class C with the stone, its
context and its instruction's address, and is counted; the region itself goes on. It says where each of these commands
completes with its own effect: halt, branch, loopSet, loopBack, yield, stepMark, npBegin, npEnd, setVl, setReg, regionOverrun.
-/
def Obligations.Sequencer : Prop :=
  (∀ (s : State) (st : Nat) (h : IHdr) (o : Operands), issues s st h [] [] = true →
    (onlyFields [(111, 108), (105, 102), (23, 0)] o = true →
      Advances (.loopSet st h o) s st (goesOn h (setLc (stoneOf s st) (fld 111 109 o)
        (if flag 108 o then (reg s st (fld 105 102 o)).setWidth 24 else BitVec.ofNat 24 (fld 23 0 o))))) ∧
    (onlyFields [] o = true →
      Advances (.stepMark st h o) s st (goesOn h { stoneOf s st with
        mark := some { pc := (stoneOf s st).pc + 1, lc := (stoneOf s st).lc, areg := (stoneOf s st).areg, vl := (stoneOf s st).vl } })) ∧
    (onlyFields [(47, 32)] o = true →
      (boundOk s st (fld 47 32 o) = true →
        Advances (.npBegin st h o) s st (goesOn h { stoneOf s st with np := some (fld 47 32 o) })) ∧
      (boundOk s st (fld 47 32 o) = false → exec (.npBegin st h o) s = .next (failStone s st 0x04))) ∧
    (onlyFields [] o = true → Advances (.npEnd st h o) s st (goesOn h { stoneOf s st with np := none })) ∧
    (onlyFields [(111, 108), (107, 107), (16, 0)] o = true → flag 107 o = false → fld 16 0 o ≤ 65536 →
      Advances (.setVl st h o) s st (goesOn h { stoneOf s st with vl := fld 16 0 o })) ∧
    (onlyFields [(111, 108), (107, 107), (16, 0)] o = true → flag 107 o = true → ∀ n, n = (reg s st (fld 111 108 o)).toNat →
      Advances (.setVl st h o) s st (goesOn h
        { setAreg (stoneOf s st) (fld 111 108 o) (BitVec.ofNat 32 (n - min n 65536)) with vl := min n 65536 })) ∧
    (onlyFields [(111, 108), (107, 106), (105, 102), (31, 0)] o = true →
      Advances (.setReg st h o) s st (goesOn h (setAreg (stoneOf s st) (fld 111 108 o)
        (if fld 107 106 o = 0 then BitVec.ofNat 32 (fld 31 0 o)
         else if fld 107 106 o = 1 then reg s st (fld 111 108 o) + BitVec.ofNat 32 (fld 31 0 o)
         else if fld 107 106 o = 2 then reg s st (fld 111 108 o) + reg s st (fld 105 102 o)
         else reg s st (fld 105 102 o) + BitVec.ofNat 32 (fld 31 0 o)))))) ∧
  (∀ (s : State) (st : Nat) (h : IHdr) (o : Operands) (x : Stone), issues s st h [] [] = true → x = { stoneOf s st with stall := none } →
    (onlyFields [(111, 109), (105, 102), (13, 0)] o = true → fld 111 109 o ≤ 4 → targetOk s st (fld 13 0 o) = true → ∀ v target, v = reg s st (fld 105 102 o) →
      target = (if fld 111 109 o = 0 ∨ (fld 111 109 o = 1 ∧ v = 0) ∨ (fld 111 109 o = 2 ∧ v ≠ 0) ∨ (fld 111 109 o = 3 ∧ v.toInt < 0) ∨
        (fld 111 109 o = 4 ∧ 0 ≤ v.toInt) then fld 13 0 o else x.pc + 1) →
      Advances (.branch st h o) s st (withSignal h { x with pc := target })) ∧
    (onlyFields [(111, 109), (105, 102), (13, 0)] o = true → targetOk s st (fld 13 0 o) = false →
      exec (.branch st h o) s = .next (failStone s st 0x04)) ∧
    (onlyFields [(111, 109), (13, 0)] o = true → targetOk s st (fld 13 0 o) = false →
      exec (.loopBack st h o) s = .next (failStone s st 0x04)) ∧
    (onlyFields [(111, 109), (13, 0)] o = true → targetOk s st (fld 13 0 o) = true → ∀ l, l = fld 111 109 o →
      (lcOf x l = 0 → Advances (.loopBack st h o) s st (withSignal h { x with pc := x.pc + 1 })) ∧
      (lcOf x l = 1 → Advances (.loopBack st h o) s st (withSignal h { setLc x l 0 with pc := x.pc + 1 })) ∧
      (lcOf x l ≠ 0 → lcOf x l ≠ 1 →
        Advances (.loopBack st h o) s st (withSignal h { setLc x l (lcOf x l - 1) with pc := fld 13 0 o })))) ∧
  (∀ (s : State) (st : Nat) (h : IHdr) (o : Operands), issues s st h [] [] = true → onlyFields [] o = true →
    Rests (.halt st h o) s st (withSignal h { stoneOf s st with run := .halted, pc := (stoneOf s st).pc + 1, stall := none }) ∧
    ∀ c l, (stoneOf s st).owner = some c → leadStone s c = some l → l ≠ st → (stoneFor s c l).yields ≤ (stoneOf s st).yields →
      Rests (.yield st h o) s st { stoneOf s st with run := .yielding, waitSig := sigOf h, stall := none }) ∧
  (∀ (s : State) (st b : Nat), s.resetLow = false → (stoneOf s st).np = some b → isFenced s st = false →
    ∃ t, exec (.regionOverrun st) s = .next t ∧
      t = raise (count s 0xA090 0x07) [mkFault 0 0x0F 0 st (stoneOf s st).owner (16 * (stoneOf s st).pc)])

/-! ### Sync objects, course DMA, SRAM and fenced stones (05 R169 to R197) -/

/-- The SYNC instructions on the stone's own objects: SET, ADD, READ, CLEAR, and a WAIT that is met or not. The operand is
IMM, or the register with FORM = 1. SIGNAL within the package reaches the object of its target stone once the instruction has
completed; to another package it leaves as a memory request of OP 2 that holds an in-flight slot until its response. A SIGNAL
that arrives adds its addend to the object of a stone that a context holds, modulo 2^32, and a WAIT that it meets ends; a
SIGNAL to a fenced stone is dropped, counted and recorded. A WAIT that has been pending too long, of whichever context, raises
the watchdog source and is counted. It says where each of these commands completes with its own effect: syncSet, syncAdd,
syncSignal, syncWait, syncRead, syncClear, signalDelivery, syncWatchdogExpiry. -/
def Obligations.SyncInstructions : Prop :=
  (∀ (s : State) (st : Nat) (h : IHdr) (o : Operands) (j : Nat) (v : BitVec 32) (x : Stone),
    memIssues s st h [] [] = true → onlyFields [(111, 79), (31, 0)] o = true → j = fld 111 110 o → x = stoneOf s st →
    v = (if flag 109 o then reg s st (fld 108 105 o) else BitVec.ofNat 32 (fld 31 0 o)) →
    Advances (.syncSet st h o) s st (goesOn h (setSync x j { syncOf x j with val := v })) ∧
    Advances (.syncAdd st h o) s st (goesOn h (setSync x j { syncOf x j with val := (syncOf x j).val + v })) ∧
    Advances (.syncRead st h o) s st (goesOn h (setAreg x (fld 108 105 o) (syncOf x j).val)) ∧
    Advances (.syncClear st h o) s st (goesOn h (setSync x j { syncOf x j with err := false })) ∧
    ((syncOf x j).err = false → 0 ≤ ((syncOf x j).val - v).toInt → Advances (.syncWait st h o) s st (goesOn h x)) ∧
    ((syncOf x j).err = false → ((syncOf x j).val - v).toInt < 0 →
      Rests (.syncWait st h o) s st { x with run := .waiting j v (now s), waitSig := sigOf h, stall := none })) ∧
  (∀ (s : State) (st : Nat) (h : IHdr) (o : Operands) (v : BitVec 32),
    memIssues s st h [] [] = true → onlyFields [(111, 79), (31, 0)] o = true →
    v = (if flag 109 o then reg s st (fld 108 105 o) else BitVec.ofNat 32 (fld 31 0 o)) →
    (fld 104 91 o = pkgId s → exec (.syncSignal st h o) s =
      .next (deliverSignal (completeNow (issued s st) st h) (fld 90 79 o) (fld 111 110 o) v.toNat)) ∧
    (fld 104 91 o ≠ pkgId s → requestWaits s 0 st 2 (fld 104 91 o) false 0 4 = false → exec (.syncSignal st h o) s =
      .next (issueRequest (takeSlot (issued s st) st 3 [] [] h) st 2 (fld 104 91 o) false (fld 111 110 o) 4 (toLE 4 v.toNat)
        none 0 (stoneOf s st).pc (sigOf h) (fld 90 79 o)))) ∧
  (∀ (s : State) (st obj n c : Nat) (x : Stone), s.resetLow = false → x = stoneOf s st →
    (isFenced s st = false → x.owner = some c →
      ∃ t, exec (.signalDelivery st obj n) s = .next t ∧ OtherStones st s t ∧ SameMemory s t ∧
        (stoneOf t st).regs = (releaseWait (setSync x (obj % 4)
          { syncOf x (obj % 4) with val := (syncOf x (obj % 4)).val + BitVec.ofNat 32 n }) (obj % 4)).regs) ∧
    (isFenced s st = true → exec (.signalDelivery st obj n) s =
      .next (raise (count s 0xA040 0x03) [mkFault 0 0x0A 0 st x.owner 0])) ∧
    ((∃ i v w, x.run = .waiting i v w ∨ ∃ p ∈ s.ctxs, (tget Stone.initial p.2.savedStones st).run = .waiting i v w) →
      getE s 0x5022 0x01 ≠ 0 →
      ∃ t, exec (.syncWatchdogExpiry st) s = .next t ∧ 12 ∈ t.holds ∧ t = { s with ent := t.ent, holds := t.holds } ∧
        SameEntriesBut [(0xA040, 0x04)] s t ∧ getE t 0xA040 0x04 = (getE s 0xA040 0x04 + 1) % 2 ^ 64))

/-- DMA POST puts the 32 bytes at the register's offset into its course's queue, and the next instruction follows. The stone's
oldest descriptor begins at once; of one that names no other package's memory nothing more happens than that its reads of host
memory go out. The descriptor that its course's rotation has come to, of one row within SRAM: the destination's bytes are the
source's, every other byte is as it was, the bytes are counted, and the signal that the descriptor asks for is given; the
stone's next descriptor begins. What the scrubber meets: nothing; a correctable word, recorded with class C; an uncorrectable
word, recorded with class U, whose granule is read again from HOME where it can be; and one in which an error was met before,
whose stone is fenced. FENCE_STONE fences the stone of its value, and leaves one that is fenced. REMAP_STONE moves a logical
stone of a SWAPPED or STOPPED context to a working stone that nothing uses, and is refused otherwise, with the code of the
first check that fails. It says where each of these commands completes with its own effect: dmaPost, dmaDescriptorComplete,
scrubPass, fenceStone, remapStone. -/
def Obligations.DmaScrubAndFences : Prop :=
  (∀ (s : State) (st : Nat) (h : IHdr) (o : Operands) (off : Nat) (m : Dma), off = (reg s st (fld 111 108 o)).toNat →
    issues s st h [(off, 32)] [] = true → onlyFields [(111, 108)] o = true → off % 32 = 0 → off + 32 ≤ 2 ^ 18 →
    badIn s st [(off, 32)] = none → (s.dmas.filter (fun d => d.stone == st)).length < 8 →
    (s.dmas.filter (fun d => d.stone / 64 == st / 64)).length < 64 →
    m = { stone := st, desc := BitVec.ofNat 256 (fromLE (sramRead s st off 32)), started := false, want := 0, got := [],
          moved := false, failed := false, waits := false, stage := none } →
      exec (.dmaPost st h o) s = .next (completeNow (startDma { issued s st with dmas := s.dmas ++ [m] } st) st h) ∧
      (crosses s m.desc = false → (∀ d ∈ s.dmas, d.stone = st → d.started = true) →
        ∃ t, exec (.dmaPost st h o) s = .next t ∧ (stoneOf t st).regs = (goesOn h (stoneOf s st)).regs ∧ OtherStones st s t ∧
          SameMemory s t ∧ t.dmas = s.dmas ++ [{ m with started := s.dmas.all (fun d => d.stone != st) }])) ∧
  (∀ (s : State) (course st : Nat) (out : List (BitVec 8)) (m : Dma), s.resetLow = false →
    dmaTurn s course = some st → oldestDma s st = some m → m.want = 0 → dmaOut s m = 0 → m.stage = none →
    dmaFormOk m.desc = true → dmaRows m.desc = 1 → dmaSrcSpace m.desc = 2 → dmaDstSpace m.desc = 2 →
    dmaSramOk s (dmaSrc m.desc) (dmaLen m.desc) = true → dmaSramOk s (dmaDst m.desc) (dmaLen m.desc) = true →
    badIn s (bits 29 18 (dmaSrc m.desc)) [(dmaSrc m.desc % 2 ^ 18, dmaLen m.desc)] = none →
    badIn s (bits 29 18 (dmaDst m.desc)) (edgeWords (dmaDst m.desc % 2 ^ 18, dmaLen m.desc)) = none →
      ∃ t u, exec (.dmaDescriptorComplete course st none out) s = .next (startDma t st) ∧
        ((∀ d ∈ t.dmas, d.stone ≠ st) → startDma t st = t) ∧
        (∀ i, i < dmaLen m.desc → sramByte t (bits 29 18 (dmaDst m.desc)) (dmaDst m.desc % 2 ^ 18 + i) =
          sramByte s (bits 29 18 (dmaSrc m.desc)) (dmaSrc m.desc % 2 ^ 18 + i)) ∧
        SameMemoryBut (bits 29 18 (dmaDst m.desc)) (dmaDst m.desc % 2 ^ 18) (dmaLen m.desc) s t ∧
        t.dmas = s.dmas.erase m ∧ getE u 0xA040 0x02 = (getE s 0xA040 0x02 + dmaLen m.desc) % 2 ^ 64 ∧
        t = (if dmaSigEn m.desc = true ∧ isFenced s (dmaSigStone m.desc) = false then
          settleStone (addSync u (dmaSigStone m.desc) (dmaSigObj m.desc) 1) (dmaSigStone m.desc) else u)) ∧
  (∀ (s u : State) (st off w : Nat), s.resetLow = false → isFenced s st = false → w = st * 2 ^ 15 + off / 8 →
    u = { s with wordErrs := (w :: s.wordErrs).dedup, badWords := (w, true) :: s.badWords.filter (fun b => b.1 != w) } →
    exec (.scrubPass st .clean) s = .next s ∧
    exec (.scrubPass st (.corrected off)) s = .next (raise s [mkFault 0 0x01 0 st (stoneOf s st).owner off]) ∧
    (w ∈ s.wordErrs → exec (.scrubPass st (.uncorrectable off)) s =
      .next (fenceStone (raise u [mkFault 1 0x02 0 st (stoneOf s st).owner off]) st)) ∧
    (w ∉ s.wordErrs → refillable u st (off / 1024) = none → exec (.scrubPass st (.uncorrectable off)) s =
      .next (raise u [mkFault 1 0x02 0 st (stoneOf s st).owner off])) ∧
    (w ∉ s.wordErrs → ∀ d kib, refillable u st (off / 1024) = some (d, kib) →
      ∃ v, v = refillGranule u st (off / 1024) d kib ∧ exec (.scrubPass st (.uncorrectable off)) s =
        .next (raise v [mkFault 1 0x02 0 st (stoneOf v st).owner off]))) ∧
  (∀ (s u : State) (q : Req) (c l b : Nat), u = takeRequest s q →
    (accepts 0x8032 0x01 q s = true → isFenced s (q.value % 4096) = true → Done (.fenceStone q) 0x8032 0x01 q s u) ∧
    (accepts 0x8032 0x01 q s = true → isFenced s (q.value % 4096) = false →
      Done (.fenceStone q) 0x8032 0x01 q s (fenceStone u (q.value % 4096))) ∧
    (accepts 0x5020 0x01 q s = true → c = q.value / 2 ^ 24 % 256 → l = q.value / 2 ^ 12 % 4096 → b = q.value % 4096 →
      ((ctxOf s c).state = .swapped ∨ (ctxOf s c).state = .stopped →
        ((ctxOf s c).phys.any (fun p => p.1 == l) = true → isFenced s b = false → (stonesInUse s c).contains b = false →
          Done (.remapStone q) 0x5020 0x01 q s (remap u c l b) ∧ physOf (remap u c l b) c l = b) ∧
        (isFenced s b = true ∨ (ctxOf s c).phys.any (fun p => p.1 == l) = false ∨ (stonesInUse s c).contains b = true →
          exec (.remapStone q) s = .next (refuse u q 0x5020 0x01 0x0302))) ∧
      ((ctxOf s c).state = .empty ∨ (ctxOf s c).state = .loading ∨ (ctxOf s c).state = .unloading →
        exec (.remapStone q) s = .next (refuse u q 0x5020 0x01 0x0101)) ∧
      ((ctxOf s c).state ∈ [CtxState.ready, .running, .blocked, .swappingIn, .swappingOut] →
        exec (.remapStone q) s = .next (refuse u q 0x5020 0x01 0x0601))))

/-! ### Pond memory (11) -/

/-- A LOAD or STORE that its stone issues, whose address and SRAM range are legal and whose sender has a slot, leaves as a
memory request of OP 0 or 1 and holds an in-flight slot over its SRAM range; only a STORE may go to a lake window. A LOAD of
an absent page of the KV cache reads +0 and is counted (which LOADs these are is the model's reading, log entry 132). Every
ATOMIC, by its AOP field, leaves as a memory request of OP 4 + AOP with its operands from SRAM; its old value returns to SRAM
unless NORET is set. A request to another package takes the lowest free slot and the sender's next SEQ, is kept until its
response, and enters the fabric as a packet of class 1 at the stone's wythe; its instruction holds an in-flight slot. MEMORY
FENCE: it completes at once where the stone has no request outstanding; otherwise it holds an in-flight slot and keeps the
stone's later MEMORY and SYNC instructions from issue. It says where each of these commands completes with its own effect:
memoryLoad, memoryStore, atomicRead, atomicSwap, atomicCas, atomicAdd, atomicAnd, atomicOr, atomicXor, atomicMaxS, atomicMinS,
atomicMaxU, atomicMinU, memoryFence. -/
def Obligations.MemoryInstructions : Prop :=
  (∀ (s : State) (st : Nat) (h : IHdr) (o : Operands) (n ram a : Nat),
    onlyFields [(111, 92)] o = true → fld 111 108 o % 2 = 0 → n = fld 103 92 o + 1 → ram = (reg s st (fld 107 104 o)).toNat →
    a = (reg s st (fld 111 108 o)).toNat + 2 ^ 32 * (reg s st (fld 111 108 o + 1)).toNat → addressOk a = true → ram + n ≤ 2 ^ 18 →
    (memIssues s st h [] [(ram, n)] = true → bit 63 a = false → readsAbsent (issued s st) ((stoneOf s st).owner.getD 0) a n = true →
      exec (.memoryLoad st h o) s = .next (completeNow (count (sramWrite (issued s st) st ram (List.replicate n 0)) 0xA030 0x0D) st h)) ∧
    (memIssues s st h [] [(ram, n)] = true → bit 63 a = false → readsAbsent (issued s st) ((stoneOf s st).owner.getD 0) a n = false →
      requestWaits s 0 st 0 (homeOf s a) false (addressOffset a) n = false →
      exec (.memoryLoad st h o) s = .next (issueRequest (takeSlot (issued s st) st 3 [] [(ram, n)] h) st 0 (homeOf s a) false
        (addressOffset a) n [] (some ram) n (stoneOf s st).pc (sigOf h) 0)) ∧
    (memIssues s st h [(ram, n)] [] = true → (bit 63 a = true → addressOffset a % 64 + n ≤ 64) →
      badIn s st [(ram, n)] = none → requestWaits s 0 st 1 (homeOf s a) (bit 63 a) (addressOffset a) n = false →
      exec (.memoryStore st h o) s = .next (issueRequest (takeSlot (issued s st) st 3 [(ram, n)] [] h) st 1 (homeOf s a) (bit 63 a)
        (addressOffset a) n (sramRead s st ram n) none 0 (stoneOf s st).pc (sigOf h) 0))) ∧
  (∀ (s : State) (st : Nat) (h : IHdr) (o : Operands) (p : Nat × Instr) (w opOff opLen resOff a : Nat) (dsts : List (Nat × Nat)),
    p ∈ [(0, Instr.atomicRead st h o), (1, .atomicSwap st h o), (2, .atomicCas st h o), (3, .atomicAdd st h o),
      (4, .atomicAnd st h o), (5, .atomicOr st h o), (6, .atomicXor st h o), (7, .atomicMaxS st h o), (8, .atomicMinS st h o),
      (9, .atomicMaxU st h o), (10, .atomicMinU st h o)] →
    onlyFields [(111, 92)] o = true → fld 111 108 o % 2 = 0 → fld 99 96 o = p.1 → (flag 94 o = false → flag 93 o = false) →
    w = (if flag 95 o then 8 else 4) → opOff = (reg s st (fld 107 104 o)).toNat →
    opLen = (if p.1 = 0 then 0 else if p.1 = 2 then 16 else 8) → resOff = (reg s st (fld 103 100 o)).toNat →
    a = (reg s st (fld 111 108 o)).toNat + 2 ^ 32 * (reg s st (fld 111 108 o + 1)).toNat →
    dsts = (if flag 92 o then [] else [(resOff, 8)]) →
    bit 63 a = flag 94 o → addressOk a = true → addressOffset a % w = 0 →
    (p.1 ≠ 0 → opOff % 8 = 0 ∧ opOff + opLen ≤ 2 ^ 18) → (flag 92 o = false → resOff % 8 = 0 ∧ resOff + 8 ≤ 2 ^ 18) →
    memIssues s st h [(opOff, opLen)] dsts = true →
    badIn s st [(opOff, opLen)] = none → requestWaits s 0 st (4 + p.1) (homeOf s a) (flag 94 o) (addressOffset a) w = false →
      exec p.2 s = .next (issueRequest (takeSlot (issued s st) st 3 [(opOff, opLen)] dsts h) st (4 + p.1) (homeOf s a) (flag 94 o)
        (addressOffset a) w (sramRead s st opOff opLen) (if flag 92 o then none else some resOff) 8 (stoneOf s st).pc (sigOf h) 0)) ∧
  (∀ (s : State) (st op dest off n width pc target slot : Nat) (lake : Bool) (bs : List (BitVec 8)) (dst sig : Option Nat)
    (x : Sender) (q : OutReq),
    x = senderOf s st → freeSlotOf 0 x = some slot → dest ≠ pkgId s → st < 4096 →
    q = { slot := slot, seq := x.nextSeq, op := op, dest := dest, lake := lake, offset := off, size := n,
          issueT := bits 27 12 (now s), attempt := 0, targetStone := target, payload := bs, sramDst := dst, width := width,
          pc := pc, signal := sig } →
    (∀ r ∈ x.reqs, r.slot ≠ slot) ∧ (∀ k, k < slot → ∃ r ∈ x.reqs, r.slot = k) ∧
    ∃ t, t = issueRequest s st op dest lake off n bs dst width pc sig target ∧
      senderOf t st = { x with nextSeq := (x.nextSeq + 1) % 2 ^ 32, reqs := x.reqs ++ [q] } ∧
      (s.mode = .running → getE s 0x2050 0x03 ≠ 0xFF → t.injQ = s.injQ ++
        [(st / 2048, mkPacket s dest 1 (if op = 2 then 0 else 3) target (reqField (reqOf s 0 st q)) bs)]) ∧
      SameMemory s t ∧ t.stones = s.stones) ∧
  (∀ (s : State) (st : Nat) (h : IHdr) (o : Operands) (x : Stone), memIssues s st h [] [] = true → onlyFields [] o = true →
    x = { stoneOf s st with stall := none } →
    ((senderOf s st).reqs = [] → (∀ i ∈ x.inflight, i.kind ≠ 30) →
      ∃ t, exec (.memoryFence st h o) s = .next t ∧ (stoneOf t st).regs = (withSignal h { x with pc := x.pc + 1 }).regs ∧
        OtherStones st s t ∧ SameMemory s t) ∧
    ((senderOf s st).reqs ≠ [] → ∃ t, exec (.memoryFence st h o) s = .next t ∧ t = { s with stones := t.stones } ∧
      (∀ k, k ≠ st → stoneOf t k = stoneOf s k) ∧ stoneOf t st = { x with
        pc := x.pc + 1, memFence := true,
        inflight := x.inflight ++ [{ pc := x.pc, kind := 30, srcs := [], dsts := [], signal := sigOf h }] }))

/-- A LOAD or a fresh STORE that its home's window table allows is queued line by line; one that it does not allow is answered
with status 1, counted, and its first of the job recorded with class C. The parts of a request cover its bytes: each lies
within one 64-byte line, and together they follow one another from its first byte to its last. A line of a STORE that is not
the request's last: its bytes are in memory, every other byte is as it was, and one part fewer is left; only the counters of
the bridge may move, for a stone of this package. An atomic of another package is performed once on its word: the new value is
that of its OP, modulo the width, every other byte of memory is as it was, and the ledger keeps the old value under the sender
and SEQ until the entry expires. It says where each of these commands completes with its own effect: memoryRequestAtHome,
lineRequestPerformed. -/
def Obligations.RequestAtHome : Prop :=
  (∀ (s : State) (r : MemReq) (ok : Bool), s.resetLow = false → r.lake = false → 1 ≤ r.size → r.size ≤ 4096 →
    (r.op = 0 ∨ (r.op = 1 ∧ tooOld s r = false)) →
    (∀ p, translate s r.jobTag r.offset r.size (if r.op = 0 then winRead else winWrite) = some p →
      ∃ t, exec (.memoryRequestAtHome r ok) s = .next t ∧ t.lineQ = s.lineQ ++ lineParts r p 66 0 ∧
        t.homeReqs = s.homeReqs ++ [{ req := r, left := (lineParts r p 66 0).length, data := [], bad := false }] ∧
        t = { s with lineQ := t.lineQ, homeReqs := t.homeReqs, hotLines := t.hotLines, holds := t.holds, ent := t.ent } ∧
        SameEntriesBut [(0xA070, 0x0B), (0xA070, 0x0C)] s t) ∧
    (translate s r.jobTag r.offset r.size (if r.op = 0 then winRead else winWrite) = none → ∀ u, u = count s 0xA070 0x06 →
      exec (.memoryRequestAtHome r ok) s = .next (answer (if s.windowFaultSeen then u
        else raise { u with windowFaultSeen := true } [mkFault 0 0x24 6 0 none r.offset]) r 1 false [] 0))) ∧
  (∀ (r : MemReq) (p : Nat), 1 ≤ r.size → r.size ≤ 4096 →
    (∀ q ∈ lineParts r p 66 0, q.req = r ∧ q.phys = p + q.at_ ∧ q.line = q.phys / 64 ∧ 1 ≤ q.len ∧ q.phys % 64 + q.len ≤ 64 ∧
      q.at_ + q.len ≤ r.size) ∧
    (∀ i, i < r.size → ∃ q ∈ lineParts r p 66 0, q.at_ ≤ i ∧ i < q.at_ + q.len) ∧
    ((lineParts r p 66 0).map (fun q => q.len)).sum = r.size) ∧
  (∀ (s : State) (line : Nat) (q : LineReq) (h : HomeReq), s.resetLow = false →
    s.lineQ.find? (fun x => x.line == line) = some q → s.homeReqs.find? (fun x => x.req == q.req) = some h →
    q.req.op = 1 → tooOld s q.req = false → 2 ≤ h.left → q.phys + q.len ≤ 2 ^ 39 → q.at_ + q.len ≤ q.req.payload.length →
      ∃ t, exec (.lineRequestPerformed line true) s = .next t ∧
        (∀ i, i < q.len → memByte t (q.phys + i) = q.req.payload.getD (q.at_ + i) 0) ∧
        (∀ a, a < q.phys ∨ q.phys + q.len ≤ a → memByte t a = memByte s a) ∧
        t = { s with lineQ := s.lineQ.erase q, homeReqs := t.homeReqs, mem := t.mem, hotLines := t.hotLines, ent := t.ent } ∧
        SameEntriesBut [(0xA010, 0x01), (0xA010, 0x02)] s t ∧ (q.req.srcPkg ≠ pkgId s → t.ent = s.ent) ∧
        { h with left := h.left - 1 } ∈ t.homeReqs) ∧
  (∀ (s : State) (line w old a b : Nat) (q : LineReq) (h : HomeReq) (r : MemReq), s.resetLow = false →
    s.lineQ.find? (fun x => x.line == line) = some q → s.homeReqs.find? (fun x => x.req == q.req) = some h → r = q.req →
    4 ≤ r.op → r.op ≤ 14 → r.srcPkg ≠ pkgId s → ledgerEntry s r = none → tooOld s r = false → s.ledger.length < 65536 →
    w = (if r.size = 8 then 8 else 4) → q.phys + w ≤ 2 ^ 39 → old = fromLE (memRead s q.phys w) →
    a = operandAt r 0 w → b = operandAt r 8 w →
      ∃ t new, exec (.lineRequestPerformed line true) s = .next t ∧ memRead t q.phys w = toLE w new ∧
        (∀ x, x < q.phys ∨ q.phys + w ≤ x → memByte t x = memByte s x) ∧
        (r.op = 4 → new = old) ∧ (r.op = 5 → new = a) ∧ (r.op = 6 → new = if old = a then b else old) ∧
        (r.op = 7 → new = (old + a) % 2 ^ (8 * w)) ∧ (r.op = 8 → new = old &&& a) ∧ (r.op = 9 → new = old ||| a) ∧
        (r.op = 10 → new = old ^^^ a) ∧ (r.op = 11 → new = if signed (8 * w) old < signed (8 * w) a then a else old) ∧
        (r.op = 12 → new = if signed (8 * w) a < signed (8 * w) old then a else old) ∧
        (r.op = 13 → new = max old a) ∧ (r.op = 14 → new = min old a) ∧
        t.ledger = s.ledger ++ [LedgerEnt.mk r.srcPkg r.unitKind r.unit r.seq old (now s + getE s 0x4060 0x01 * 1000)] ∧
        getE t 0xA070 0x03 = (getE s 0xA070 0x03 + 1) % 2 ^ 64)

/-- A response completes the outstanding request of its SLOT and SEQ; one that matches none is discarded and counted. An
expired attempt of a LOAD, an atomic or a SIGNAL is sent again up to three times and then completes with an error; a STORE is
never sent again and completes with status 4 at the fourth expiry. A ledger entry leaves at its expiry, and a request that
waited for one is taken by the procedure of 11 R365. WINDOW_SET places the staged entry at its index where every range
condition holds and the entry names the job's tag, and is refused with 0x0302 or 0x0502 otherwise; WINDOW_CLEAR makes an entry
invalid and changes no other bit of it. It says where each of these commands completes with its own effect: memoryResponse,
attemptTimeoutExpiry, ledgerEntryExpiry, windowSet, windowClear. -/
def Obligations.RequestEventsAndWindows : Prop :=
  (∀ (s : State), s.resetLow = false →
    (∀ (r : MemResp) (x : Sender), x = senderOf s (r.unitKind * 4096 + r.unit) →
      (x.reqs.find? (fun q => q.slot == r.slot && q.seq == r.seq) = none →
        exec (.memoryResponse r) s = .next (count s 0xA070 0x08)) ∧
      (∀ q, x.reqs.find? (fun q => q.slot == r.slot && q.seq == r.seq) = some q →
        exec (.memoryResponse r) s = .next (completeReq s r.unitKind r.unit q r.status (r.payload.take q.width)))) ∧
    (∀ (kind unit slot : Nat) (x : Sender) (q : OutReq), x = senderOf s (kind * 4096 + unit) →
      x.reqs.find? (fun q => q.slot == slot) = some q →
      (q.op = 1 → tget 0 x.expired slot < 3 → exec (.attemptTimeoutExpiry kind unit slot) s = .next (setSender s (kind * 4096 + unit)
        { x with expired := tput 0 x.expired slot (tget 0 x.expired slot + 1) })) ∧
      (q.op = 1 → 3 ≤ tget 0 x.expired slot → exec (.attemptTimeoutExpiry kind unit slot) s =
        .next (completeReq s kind unit q 4 [])) ∧
      (q.op ≠ 1 → q.attempt < 3 → ∀ q', q' = { q with attempt := q.attempt + 1 } →
        exec (.attemptTimeoutExpiry kind unit slot) s = .next (sendRequest (count (setSender s (kind * 4096 + unit)
          { x with reqs := mapWhere x.reqs (fun r => r.slot == slot) (fun _ => q') }) 0xA070 0x07)
          (if kind = 0 then unit / 2048 else if kind = 1 ∨ kind = 2 then q.offset / 4096 % 2 else 0) (reqOf s kind unit q') q.dest)) ∧
      (q.op ≠ 1 → 3 ≤ q.attempt → exec (.attemptTimeoutExpiry kind unit slot) s =
        .next (completeReq s kind unit q (if q.op = 0 then 5 else 4) []))) ∧
    (∀ (srcPkg kind unit seq : Nat) (e : LedgerEnt),
      s.ledger.find? (fun e => e.srcPkg == srcPkg && e.unitKind == kind && e.unit == unit && e.seq == seq) = some e →
      e.expiry ≤ now s → ∀ u, u = { s with ledger := s.ledger.erase e } →
      (s.ledgerWait = [] → exec (.ledgerEntryExpiry srcPkg kind unit seq) s = .next u) ∧
      (∀ r phys l, s.ledgerWait = (r, phys) :: l → exec (.ledgerEntryExpiry srcPkg kind unit seq) s =
        .next (exactlyOnce { u with ledgerWait := l } r phys true
          (fun v => if r.op = 2 then performSignal v r else queueRequest v r phys))))) ∧
  (∀ (s : State) (q : Req) (w : BitVec 128), w = BitVec.ofNat 128 (getE (takeRequest s q) 0x4050 0x01) →
    (accepts 0x4050 0x02 q s = true →
      (windowRangesOk (takeRequest s q) q.value w = true → winTag w = s.jobTag →
        ∃ t, Done (.windowSet q) 0x4050 0x02 q s t ∧ t = { takeRequest s q with windows := t.windows } ∧
          windowOf t q.value = w ∧ ∀ i, i ≠ q.value → windowOf t i = windowOf s i) ∧
      (windowRangesOk (takeRequest s q) q.value w = false →
        exec (.windowSet q) s = .next (refuse (takeRequest s q) q 0x4050 0x02 0x0302)) ∧
      (windowRangesOk (takeRequest s q) q.value w = true → winTag w ≠ s.jobTag →
        exec (.windowSet q) s = .next (refuse (takeRequest s q) q 0x4050 0x02 0x0502))) ∧
    (accepts 0x4050 0x03 q s = true →
      ∃ t, Done (.windowClear q) 0x4050 0x03 q s t ∧ t = { takeRequest s q with windows := t.windows } ∧
        winValid (windowOf t q.value) = false ∧
        (∀ k, k < 128 → k ≠ 51 → (windowOf t q.value).getLsbD k = (windowOf s q.value).getLsbD k) ∧
        ∀ i, i ≠ q.value → windowOf t i = windowOf s i))

/-! ### Reset, start-up, security (17 R540 to R549, 18) -/

/-- RESET_N falls: every volatile thing is as after reset and the tier-1 key is another one; the fused data, the straps and
the waiting commands stay. RESET_N rises: the straps are sampled, a challenge is drawn, and nothing else changes. Start-up in
Verified: the SRAM of stones and routers is zeroed, the stacks are trained, then tier 1 is zeroed; each sets its bit of
INIT_STATUS, and the first two their PLLs' bits. A stack that fails raises MEMORY_TRAINING of class F. Supplies, REFCLK and
PLLs: each loss is a fault of class F of the always-on unit with the DETAIL of its rule; a PLL that fails to lock is started
once more before it is one. It says where each of these commands completes with its own effect: resetAssert, resetRelease,
supplyRange, refclkLost, pllLockTimeout, pllLockLoss, initSramZeroed, stacksTrained, tier1Zeroed. -/
def Obligations.ResetPinAndStartUp : Prop :=
  ((∀ s : State, ∃ t, exec .resetAssert s = .next t ∧ t.resetLow = true ∧ t.mode = .dormant ∧ t.power = State.reset.power ∧
    t.fuses = s.fuses ∧ t.trayId = s.trayId ∧ t.pending = s.pending ∧ t.fenced = [] ∧ t.ctxs = [] ∧ t.stones = [] ∧ t.ports = [] ∧
    t.recC.valid = false ∧ t.recU.valid = false ∧ t.recF.valid = false ∧ t.sec.keyGen = s.sec.keyGen + 1 ∧
    (∀ c i j, getC t c i j = entDefault (ekey c i j)) ∧ (∀ st off, sramByte t st off = 0)) ∧
  (∀ (s : State) (n : Nat), s.resetLow = true → ∃ t, exec (.resetRelease n) s = .next t ∧ t.resetLow = false ∧ t.trayId = n % 8 ∧
    t.sec = { s.sec with challenge := t.sec.challenge } ∧
    t = { s with resetLow := t.resetLow, trayId := t.trayId, sec := t.sec, nonce := t.nonce })) ∧
  (∀ (s : State) (i : Nat), s.resetLow = false → s.mode = .verified → i = getE s 0x3010 0x02 →
    (bit 0 i = false → ∃ t, exec .initSramZeroed s = .next t ∧ (∀ st off, sramByte t st off = 0) ∧
      getE t 0x3010 0x02 = setBit i 0 ∧ getE t 0x3010 0x01 = getE s 0x3010 0x01 ||| 0x1E ∧
      SameEntriesBut [(0x3010, 1), (0x3010, 2)] s t ∧
      t = { s with sram := t.sram, badWords := t.badWords, routers := t.routers, power := t.power, ent := t.ent } ∧
      t.power = { s.power with pllTries := t.power.pllTries }) ∧
    (bit 1 i = false → ∃ t, exec (.stacksTrained none) s = .next t ∧ getE t 0x3010 0x02 = setBit i 1 ∧
      getE t 0x3010 0x01 = getE s 0x3010 0x01 ||| 0x1FE0 ∧ SameEntriesBut [(0x3010, 1), (0x3010, 2)] s t ∧
      t = { s with power := t.power, ent := t.ent } ∧ t.power = { s.power with pllTries := t.power.pllTries }) ∧
    (bit 1 i = false → ∀ n, n < 8 → exec (.stacksTrained (some n)) s = .next (raise s [mkFault 2 0x66 5 (16 * n) none 0])) ∧
    (bit 1 i = true → bit 2 i = false → ∃ t, exec .tier1Zeroed s = .next t ∧ getE t 0x3010 0x02 = setBit i 2 ∧
      SameEntriesBut [(0x3010, 2)] s t ∧ t = { s with mem := [], ent := t.ent })) ∧
  (∀ (s : State) (n : Nat), s.resetLow = false →
    exec (.supplyRange n) s = .next (raise s [mkFault 2 0x65 6 2 none (n % 256)]) ∧
    (s.power.refclkLost = false → exec .refclkLost s = .next (setTimeValid
      (raise { s with power := { s.power with refclkLost := true } } [mkFault 2 0x61 6 2 none 0]) false)) ∧
    (bit n (getE s 0x3010 0x01) = false → n < 14 → ∀ u, u = { s with
        power := { s.power with pllTries := tput 0 s.power.pllTries n (tget 0 s.power.pllTries n + 1) } } →
      exec (.pllLockTimeout n) s = .next (if tget 0 s.power.pllTries n = 0 then u
        else raise u [mkFault 2 0x60 6 2 none (getE s 0x3010 0x01)])) ∧
    (bit n (getE s 0x3010 0x01) = true → ∀ v, v = clrBit (getE s 0x3010 0x01) n →
      exec (.pllLockLoss n) s = .next (raise (setE s 0x3010 0x01 v) [mkFault 2 0x60 6 2 none v])))

/-- FIRMWARE_LOAD at a page boundary of host memory begins the read of the image and marks it, and its answer waits; it is
refused at another address, and once the test port is unlocked. The boot ROM's verdict on an image in Dormant: where every
check holds the part enters Verified with the image's digest, version and security version and a fresh tier-1 key; where one
fails, the status of the first that fails stands and the part stays in Dormant. It says where each of these commands completes
with its own effect: firmwareLoad, firmwareImageChecked. -/
def Obligations.Firmware : Prop :=
  (∀ (s u : State) (q : Req) (addr len : Nat), accepts 0x9010 0x05 q s = true → u = takeRequest s q → addr = bits 127 64 q.value →
    len = bits 63 32 q.value →
    (addr % 4096 = 0 → getE u 0x9030 0x03 ≠ 1 → Later (.firmwareLoad q) 0x9010 0x05 q s
      (readHost (setE { u with sec := { u.sec with fwLoading := some len } } 0x9010 0x04 1) addr len)) ∧
    (addr % 4096 ≠ 0 → exec (.firmwareLoad q) s = .next (refuse u q 0x9010 0x05 0x0302)) ∧
    (addr % 4096 = 0 → getE u 0x9030 0x03 = 1 → exec (.firmwareLoad q) s = .next (refuse u q 0x9010 0x05 0x0502))) ∧
  (∀ (s : State) (f : FwImage) (len : Nat), s.resetLow = false → s.mode = .dormant → s.sec.fwLoading = some len →
    (f.readOk = true → headerGood f len = true → s.fuses.revokedFwKeys.contains f.keyIndex = false →
      s.fuses.fusedSecurityVersion ≤ f.securityVersion → f.sigOk = true → f.keyIndex < 4 →
      ∃ t, exec (.firmwareImageChecked f) s = .next t ∧ t.mode = .verified ∧ getE t 0x9010 0x01 = f.version ∧
        getE t 0x9010 0x02 = f.digest ∧ getE t 0x9010 0x03 = f.securityVersion ∧ getE t 0x9010 0x04 = 2 ∧
        t.sec.fwLoading = none ∧ (s.sec.rngBad = false → t.sec.keyGen = s.sec.keyGen + 1)) ∧
    (∀ status code, (f.readOk = false → (status, code) = (3, 0x0302)) →
      (f.readOk = true → headerGood f len = false → (status, code) = (4, 0x0303)) →
      (f.readOk = true → headerGood f len = true → s.fuses.revokedFwKeys.contains f.keyIndex = true → (status, code) = (5, 0x0501)) →
      (f.readOk = true → headerGood f len = true → s.fuses.revokedFwKeys.contains f.keyIndex = false →
        f.securityVersion < s.fuses.fusedSecurityVersion → (status, code) = (6, 0x0501)) →
      (f.readOk = true → headerGood f len = true → s.fuses.revokedFwKeys.contains f.keyIndex = false →
        s.fuses.fusedSecurityVersion ≤ f.securityVersion → (status, code) = (7, 0x0501)) →
      f.readOk = false ∨ headerGood f len = false ∨ s.fuses.revokedFwKeys.contains f.keyIndex = true ∨
        f.securityVersion < s.fuses.fusedSecurityVersion ∨ f.sigOk = false →
      ∃ t, t = refuseFirmware { s with sec := { s.sec with fwLoading := none } } status code ∧
        exec (.firmwareImageChecked f) s = .next t))

/-- The dictionary writes of the security chapter: SECURITY_VERSION_COMMIT raises the fused version to that of the running
image; OWNER_KEY is stored and takes ENDORSEMENT away; ENDORSEMENT is stored where its signature verifies under the owner key
and refused otherwise; ATTEST_NONCE starts a quote; and TEST_UNLOCK is refused for reserved bits, and for a token that is not
this part's, with a fresh challenge and the attempt counted. The events of the security chapter: a quote completes with its
body and signature in QUOTE and is counted; the generator's health fault of class F; the end of the unlock's wipe, with SRAM
zero, tier 1 lost and the part in Dormant; and a test-port instruction, which acts as BYPASS on a locked port unless it is one
of the four standard ones. A firmware load or a quote that the wipe finds under way ends with the code that a write of it
would get. It says where each of these commands completes with its own effect: securityVersionCommit, rngHealth, ownerKey,
endorsement, attestNonce, quoteComplete, testUnlock, unlockWipeComplete, testPortInstruction. -/
def Obligations.Security : Prop :=
  (∀ (s u : State) (q : Req), u = takeRequest s q →
    (accepts 0x9010 0x06 q s = true → ∃ t, Done (.securityVersionCommit q) 0x9010 0x06 q s t ∧ t = { u with fuses := t.fuses } ∧
      t.fuses = { s.fuses with fusedSecurityVersion := max s.fuses.fusedSecurityVersion (getE u 0x9010 0x03) }) ∧
    (accepts 0x9040 0x01 q s = true → ∃ t, Done (.ownerKey q) 0x9040 0x01 q s t ∧ t = { u with ent := t.ent } ∧
      getE t 0x9040 0x01 = q.value ∧ getE t 0x9040 0x02 = 0 ∧ SameEntriesBut [(0x9040, 1), (0x9040, 2)] u t) ∧
    (accepts 0x9040 0x02 q s = true → ∃ t, Done (.endorsement true q) 0x9040 0x02 q s t ∧ t = { u with ent := t.ent } ∧
      getE t 0x9040 0x02 = q.value ∧ SameEntriesBut [(0x9040, 2)] u t) ∧
    (accepts 0x9040 0x02 q s = true → exec (.endorsement false q) s = .next (refuse u q 0x9040 0x02 0x0501)) ∧
    (accepts 0x9020 0x02 q s = true → Later (.attestNonce q) 0x9020 0x02 q s
      { u with sec := { u.sec with quoting := some (q.value + getE u 0x9020 0x01 * 2 ^ 256) } }) ∧
    (accepts 0x9030 0x02 q s = true → ∀ ok, bits 767 320 q.value = 0 →
      (tokenOk u q.value = true → ok = true → Later (.testUnlock ok q) 0x9030 0x02 q s (newChallenge (beginUnlock u))) ∧
      (tokenOk u q.value = false ∨ ok = false → exec (.testUnlock ok q) s = .next (refuse (newChallenge
        (raise (count u 0xA0E0 0x03) [mkFault 0 0x72 6 4 none 0])) q 0x9030 0x02 0x0501))) ∧
    (accepts 0x9030 0x02 q s = true → ∀ ok, bits 767 320 q.value ≠ 0 →
      exec (.testUnlock ok q) s = .next (refuse u q 0x9030 0x02 0x0302))) ∧
  (∀ s : State, s.resetLow = false →
    (∀ v body, s.sec.quoting = some v → body = fromLE (quoteBody s (v % 2 ^ 256) (v / 2 ^ 256)) →
      ∃ t, exec .quoteComplete s = .next t ∧ t.sec = { s.sec with quoting := none } ∧
        getE t 0x9020 0x03 = body + (Config.quoteSignature body).toNat * 2 ^ 5248 ∧
        getE t 0xA0E0 0x02 = (getE s 0xA0E0 0x02 + 1) % 2 ^ 64 ∧ SameEntriesBut [(0x9020, 3), (0xA0E0, 2)] s t ∧
        t = { s with ent := t.ent, sec := t.sec, deferred := t.deferred }) ∧
    exec .rngHealth s = .next (raise { s with sec := { s.sec with rngBad := true } } [mkFault 2 0x73 6 4 none 0]) ∧
    (s.sec.unlocking = true → ∀ u, u = { s with
        sram := [], mem := [], badWords := [], mode := .dormant,
        routers := s.routers.map (fun r => (r.1, { r.2 with shares := [], streaming := [], gathers := [] })),
        sec := { s.sec with unlocking := false, fwLoading := none, quoting := none, keyGen := s.sec.keyGen + 1 } } →
      exec .unlockWipeComplete s = .next (endDeferred (raise (setE (endDeferred (endDeferred u 0x9010 0x05 0x0502) 0x9020 0x02 0x0101)
        0x9030 0x03 1) [mkFault 1 0x71 6 4 none 0]) 0x9030 0x02 0)) ∧
    (∀ i, i = TapInstr.bypass ∨ i = .idcode ∨ i = .samplePreload ∨ i = .extest → ∃ t, exec (.testPortInstruction i) s = .next t ∧
      t.sec = { s.sec with tap := i } ∧ t = { s with sec := t.sec, out := t.out, umora := t.umora } ∧ t.out = s.out ++ [.tap i]) ∧
    (∀ n, getE s 0x9030 0x03 ≠ 1 → ∃ t, exec (.testPortInstruction (.other n)) s = .next t ∧
      t.sec = { s.sec with tap := .bypass } ∧ t.out = s.out ++ [.tap .bypass]) ∧
    (∀ n, getE s 0x9030 0x03 = 1 → ∃ t, exec (.testPortInstruction (.other n)) s = .next t ∧
      t.sec = { s.sec with tap := .other n } ∧ t.out = s.out ++ [.tap (.other n)]))

/-- Entry to a deeper power state and the wake from it: Idle at once, a deeper state through an entry that a wake event
remembers; Run again at the end of the wake, with the PLLs that start-up brought up. The limits of power and temperature: a
measurement gives the mean of the last readings and the energy, a reading gives the two temperatures, and 110 °C three
readings in a row trip the part; and the tier-1 scrub reports what it finds in its stack. It says where each of these commands
completes with its own effect: wakeTolerance, powerStateEntry, powerEntryComplete, wakeEvent, wakeComplete, powerMeasurement,
temperatureReading, tier1Scrub. -/
def Obligations.Power : Prop :=
  (∀ (s : State), s.resetLow = false →
    (∀ k, k = s.power.state + 1 → mayRest s = true → s.power.waking = false → s.power.entering = none → quiescent s = true →
      qualifies s k = true →
      (k = 1 → ∃ t, exec .powerStateEntry s = .next t ∧ t = { s with power := t.power } ∧ t.power.state = 1) ∧
      (2 ≤ k → k ≤ 4 → (k = 4 → stillAllowed s = true) →
        exec .powerStateEntry s = .next { s with power := { s.power with entering := some k } })) ∧
    (∀ k, s.power.entering = some k → s.power.wakePending = false → ∃ t, exec .powerEntryComplete s = .next t ∧
      t.power.state = k ∧ t.power.entering = none ∧ t = { s with power := t.power, ent := t.ent } ∧
      SameEntriesBut [(0x3010, 1)] s t ∧ (k < 3 → getE t 0x3010 0x01 = getE s 0x3010 0x01)) ∧
    (∀ w, s.power.entering = none → s.power.waking = false → 1 ≤ s.power.state → s.power.trip < 3 →
      ∃ t, exec (.wakeEvent w) s = .next t ∧ t.power.waking = true ∧ t = { s with power := t.power, ent := t.ent } ∧
        SameEntriesBut [(0xA0A0, 6)] s t ∧ getE t 0xA0A0 0x06 = (getE s 0xA0A0 0x06 + 1) % 2 ^ 64) ∧
    (∀ w, s.power.entering.isSome = true →
      exec (.wakeEvent w) s = .next { s with power := { s.power with wakePending := true } }) ∧
    (s.power.waking = true → ∃ t, exec .wakeComplete s = .next t ∧ t.power.state = 0 ∧ t.power.waking = false ∧
      (s.power.sramOff = false → t = { s with power := t.power, ent := t.ent } ∧ SameEntriesBut [(0x3010, 1)] s t ∧
        getE t 0x3010 0x01 = getE s 0x3010 0x01 ||| startedPlls s) ∧
      (s.power.sramOff = true → s.pools = [] → ∀ st off, sramByte t st off = 0)) ∧
    (∀ q, accepts 0x3000 0x02 q s = true → Done (.wakeTolerance q) 0x3000 0x02 q s
      (if getE s 0x3000 0x02 = q.value then takeRequest s q else wakeNow (setE (takeRequest s q) 0x3000 0x02 q.value)))) ∧
  (∀ s : State, s.resetLow = false →
    (∀ mw l mean, l = (mw :: s.power.samples).take 10 → mean = l.sum / l.length → ∃ u, (u = { s with
        ent := u.ent, power := nextDemand { s.power with samples := l, energy := (s.power.energy + mw) % 100000 } mean
          (getE s 0x3020 0x02 * 1000) }) ∧
      getE u 0x3020 0x01 = mean % 2 ^ 32 ∧
      getE u 0xA0A0 0x08 = (getE s 0xA0A0 0x08 + (s.power.energy + mw) / 100000) % 2 ^ 64 ∧
      SameEntriesBut [(0x3020, 1), (0xA0A0, 8)] s u ∧
      exec (.powerMeasurement mw) s = .next (if throttleLevel s = 0 ∧ 0 < throttleLevel u then
        raise u [mkFault 0 0x62 6 2 none mean] else u)) ∧
    (∀ a b, ∃ u, u = { s with
        ent := u.ent, power := nextThermal s.power a b (8 * ((getE s 0x3020 0x05 : Nat) : Int)) } ∧
      getE u 0x3020 0x03 = twos 16 a ∧ getE u 0x3020 0x04 = twos 16 b ∧ SameEntriesBut [(0x3020, 3), (0x3020, 4)] s u ∧
      (u.power.trip < 3 → (s.power.thermalDemand = 0 → u.power.thermalDemand = 0) →
        exec (.temperatureReading a b) s = .next u) ∧
      (s.power.trip < 3 → (880 ≤ a ∨ 880 ≤ b) → u.power.trip = s.power.trip + 1) ∧
      (a < 880 → b < 880 → s.power.trip < 3 → u.power.trip = 0)) ∧
    (∀ stack corr unc, (∀ a ∈ corr ++ unc, channelOf a / 16 ≠ stack) → exec (.tier1Scrub stack corr unc) s = .next s) ∧
    (∀ stack a, channelOf a / 16 = stack →
      exec (.tier1Scrub stack [a] []) s = .next (raise s [mkFault 0 0x20 5 (channelOf a) none a]) ∧
      exec (.tier1Scrub stack [] [a]) s = .next (raise s [mkFault 1 0x21 5 (channelOf a) none a])))

/-! ### The plumb and the interrupt controller (16) -/

/-- A fault of class C or U from a pair that is not dead, whose record is empty: the record holds it, the arrival is counted,
the other records and the device state are as they were. The same fault again only counts repeats, up to 255; another fault of
class C while its record is held sets OVERFLOW and arrives at class U, which keeps the record that it escalated from. A fault
of class F from a pair that is not dead puts the part into Faulted from every state but Dormant; in Dormant it stays there. -/
def Obligations.FaultArrival : Prop :=
  (∀ (s : State) (f : Fault16) (r : FaultRec), f.cls < 2 → s.deadPairs.contains (f.kind, f.unit) = false → recOf s f.cls = r →
    r.valid = false → ∃ t, t = raise s [f] ∧ (recOf t f.cls).valid = true ∧ (recOf t f.cls).cause = f.cause ∧
      (recOf t f.cls).kind = f.kind ∧ (recOf t f.cls).unit = f.unit ∧ (recOf t f.cls).ctx = f.ctx ∧
      (recOf t f.cls).detail = f.detail ∧ (recOf t f.cls).time = now s ∧ (recOf t f.cls).repeats = 0 ∧
      (recOf t f.cls).overflow = false ∧ (recOf t f.cls).escalated = false ∧ t.mode = s.mode ∧
      (∀ c, c < 3 → c ≠ f.cls → recOf t c = recOf s c) ∧ getE t 0xA0C0 (f.cls + 1) = (getE s 0xA0C0 (f.cls + 1) + 1) % 2 ^ 64 ∧
      t = { s with recC := t.recC, recU := t.recU, cAckDue := t.cAckDue, ent := t.ent, mem := t.mem }) ∧
  (∀ (s : State) (f : Fault16), s.deadPairs.contains (f.kind, f.unit) = false →
    (f.cls < 2 → (recOf s f.cls).valid = true → (recOf s f.cls).cause = f.cause → (recOf s f.cls).kind = f.kind →
      (recOf s f.cls).unit = f.unit → ∃ t, t = raise s [f] ∧
        recOf t f.cls = { recOf s f.cls with repeats := min 255 ((recOf s f.cls).repeats + 1) } ∧
        t = { s with recC := t.recC, recU := t.recU, ent := t.ent }) ∧
    (f.cls = 0 → s.recC.valid = true → s.recU.valid = false →
      ¬(s.recC.cause = f.cause ∧ s.recC.kind = f.kind ∧ s.recC.unit = f.unit) →
      ∃ t, t = raise s [f] ∧ t.recC = { s.recC with overflow := true } ∧ t.recU.valid = true ∧ t.recU.escalated = true ∧
        t.recU.cause = f.cause ∧ t.recU.fromCause = s.recC.cause ∧ t.recU.fromKind = s.recC.kind ∧
        t.recU.fromUnit = s.recC.unit ∧ t.recF = s.recF ∧ t.mode = s.mode ∧
        getE t 0xA0C0 0x04 = (getE s 0xA0C0 0x04 + 1) % 2 ^ 64)) ∧
  (∀ (s : State) (f : Fault16), f.cls = 2 → s.deadPairs.contains (f.kind, f.unit) = false →
    (s.mode ≠ .dormant → (raise s [f]).mode = .faulted) ∧ (s.mode = .dormant → (raise s [f]).mode = .dormant) ∧
    (raise s [f]).recF.valid = true)

/-- Reports, acknowledgements and summaries: a report is latched, once what it says has its effect (a failed processor, a
context that stops for parity, a lost accumulator); a stuck wire is recorded with class U and its pair ignored from then on;
FAULT_ACK empties the records of its bits; the hold of class C ends in one; and the keystone keeps the summaries of its pond.
It says where each of these commands completes with its own effect: faultReport, reportWireStuck, faultAck, cAckHoldExpiry,
faultSummarySend, faultSummary, summaryStale. -/
def Obligations.FaultCommands : Prop := ∀ s : State, s.resetLow = false →
    (∀ f : Fault16, exec (.faultReport [f]) s = .next (raise (loseAccumulator (stopParity (failProcessor s f) f) f) [f]) ∧
      (f.cause ≠ 0x49 → f.cause ≠ 0x0E → f.cause ≠ 0x15 → exec (.faultReport [f]) s = .next (raise s [f]))) ∧
    (∀ kind unit level, s.deadPairs.contains (kind, unit) = false → ∃ t, exec (.reportWireStuck kind unit level) s = .next t ∧
      (∃ u, u = raise s [mkFault 1 0x4D kind unit none (level % 2)] ∧ t = { u with deadPairs := u.deadPairs ++ [(kind, unit)] }) ∧
      exec (.reportWireStuck kind unit level) t = .next t) ∧
    (∀ q, accepts 0x8020 0x01 q s = true → ∃ t, Done (.faultAck q) 0x8020 0x01 q s t ∧
      t.recC = (if bit 0 q.value then FaultRec.empty else s.recC) ∧ t.recU = (if bit 1 q.value then FaultRec.empty else s.recU) ∧
      t.recF = (if bit 2 q.value then FaultRec.empty else s.recF) ∧ t.mode = s.mode ∧
      t = { takeRequest s q with recC := t.recC, recU := t.recU, recF := t.recF, cAckDue := t.cAckDue }) ∧
    (s.cAckDue = true → firmwareUp s = true → getE s 0x8000 0x02 = 1 →
      exec .cAckHoldExpiry s = .next { s with recC := FaultRec.empty, cAckDue := false }) ∧
    (firmwareUp s = true → ∀ v, v = b2n s.recC.valid + 2 * b2n s.recU.valid + 4 * b2n s.recF.valid +
        8 * b2n (decide (s.mode = .faulted)) →
      (isKeystone s = true → exec .faultSummarySend s = .next (setPondFault { s with lastSummary := v } (gridPos s) v)) ∧
      (isKeystone s = false → getE s 0x2010 0x01 ≠ 0xFF → s.keystoneSilent = false →
        exec .faultSummarySend s = .next (inject (emit { s with lastSummary := v } (.summary v)) 0
          (mkPacket s (64 * pondOf s + getE s 0x2010 0x01) 7 5 0 0 (toLE 1 v))))) ∧
    (∀ p v, p < 64 → firmwareUp s = true → isKeystone s = true → ∃ t, exec (.faultSummary p v) s = .next t ∧
      pondFaultOf t p = v % 16 ∧ (∀ i, i ≠ p → pondFaultOf t i = pondFaultOf s i) ∧ t = { s with pondFaults := t.pondFaults }) ∧
    (∀ p, p < 64 → firmwareUp s = true → isKeystone s = true → ∃ t, exec (.summaryStale p) s = .next t ∧ bit 7 (pondFaultOf t p) = true ∧
      (∀ i, i ≠ p → pondFaultOf t i = pondFaultOf s i) ∧ t = { s with pondFaults := t.pondFaults })

/-- Sampling sets PENDING of exactly the sources whose LEVEL is 1 and that are not in service; the others keep theirs. The
selection for a target takes the pending, unmasked source of the highest priority, and of the lowest number among equals,
where it is above the running priority: the source is in service, no longer pending, and on top of the stack. Delivery to a
processor or to the host; the end of an interrupt by the target at the top of its stack, or its count and EOI error; SERVE of
an event source; and a write of PENDING, which the levels set again. It says where each of these commands completes with its
own effect: interruptSelect, interruptDelivery, mgmtEoi, hostEoi, serve, pendingWrite. -/
def Obligations.Interrupts : Prop :=
  (∀ (s : State) (n : Nat), n < 512 →
    pendingOf (samplePending s) n = (pendingOf s n || (levelOn s n && !inService s n)) ∧
      samplePending s = { s with ent := (samplePending s).ent }) ∧
  (∀ (s u : State) (target n : Nat), s.resetLow = false → u = samplePending s → target < 3 → bestSource u target = some n →
    aboveRunning u target n = true →
      (n < 512 ∧ pendingOf u n = true ∧ maskOf u n = false ∧ inService u n = false ∧ goesTo u n = target ∧
        ∀ k, k < 512 → pendingOf u k = true → maskOf u k = false → inService u k = false → goesTo u k = target →
          priorityOf u k < priorityOf u n ∨ (priorityOf u k = priorityOf u n ∧ n ≤ k)) ∧
      ∃ t, exec (.interruptSelect target) s = .next t ∧ pendingOf t n = false ∧ inService t n = true ∧
        t.delivering = s.delivering ++ [(n, target)] ∧ stackOf t target = (priorityOf s n, n) :: stackOf s target ∧
        (∀ k, k ≠ target → stackOf t k = stackOf s k) ∧
        t = { s with ent := t.ent, served := t.served, delivering := t.delivering, irqStacks := t.irqStacks }) ∧
  (∀ s : State, s.resetLow = false →
    (∀ n t, s.delivering.find? (fun d => d.1 == n) = some (n, t) → t < 2 → maskOf s n = false →
      exec (.interruptDelivery n) s = .next (emit (count { s with delivering := s.delivering.erase (n, t) } 0xA0C0 0x05)
        (.mgmtInterrupt t n))) ∧
    (∀ n p, s.delivering.find? (fun d => d.1 == n) = some (n, 2) → maskOf s n = false →
      (stackOf s 2).find? (fun x => x.2 == n) = some (p, n) → exec (.interruptDelivery n) s = .next (emit
        (count { s with delivering := s.delivering.erase (n, 2) } 0xA0C0 0x05) (.hostMessage n p))) ∧
    (∀ t n p rest, t < 2 → stackOf s t = (p, n) :: rest → levelOn s n = false →
      ∃ u, exec (.mgmtEoi t n) s = .next u ∧ stackOf u t = rest ∧ inService u n = false ∧
        (∀ k, k ≠ n → inService u k = inService s k) ∧ u = { s with irqStacks := u.irqStacks, served := u.served }) ∧
    (∀ t n, t < 2 → isTop s t n = false →
      exec (.mgmtEoi t n) s = .next (raise (count s 0xA0C0 0x06) [mkFault 0 0x4E 6 t none 0])) ∧
    (∀ q, accepts 0xC012 0x04 q s = true →
      (isTop s 2 q.value = true → Done (.hostEoi q) 0xC012 0x04 q s (endInterrupt (takeRequest s q) 2 q.value)) ∧
      (isTop s 2 q.value = false → exec (.hostEoi q) s =
        .next (refuse (count (takeRequest s q) 0xA0C0 0x06) q 0xC012 0x04 0x0302))) ∧
    (∀ n q, accepts (0xC100 + n) 0x02 q s = true →
      ((n = 4 ∨ n = 9 ∨ n = 10 ∨ n = 12) → ∃ t, Done (.serve n q) (0xC100 + n) 0x02 q s t ∧ n ∉ t.holds ∧
        (∀ k, k ≠ n → (k ∈ t.holds ↔ k ∈ s.holds)) ∧ t = { takeRequest s q with holds := t.holds }) ∧
      (¬(n = 4 ∨ n = 9 ∨ n = 10 ∨ n = 12) → exec (.serve n q) s = .next (refuse (takeRequest s q) q (0xC100 + n) 0x02 0x0302))) ∧
    (∀ w q, w < 16 → accepts 0xC000 (0x11 + w) q s = true → ∃ t, Done (.pendingWrite w q) 0xC000 (0x11 + w) q s t ∧
      ∀ i, i < 32 → pendingOf t (32 * w + i) = (bit i q.value || (levelOn s (32 * w + i) && !inService s (32 * w + i)))))

/-! ### Umora Link and time (15 R479 to R498) -/

/-- Flits: one that comes in order with a good CRC is taken and acknowledged, and what its credits allow is sent; of an idle
one only the header is taken; one with a bad CRC or out of order is discarded, counted and answered with NAK, and its header
has no effect. A write to host memory waits in the queue of Umora Link while the link is down; with the link up, an empty
queue and the credits it takes, it is sent at once, in flits that enter the replay buffer. Umora Link's state: a lost lock or
LINK_RETRAIN makes it retrain with its flits held; training with 8 or 4 lanes brings it up; staying down is UMORA_DOWN, and
the DMA work that names the host and the fills from host memory fail; a completion's bytes go to the read of its tag. It says
where each of these commands completes with its own effect: flitReceived, umoraLockLoss, linkRetrain, umoraDown,
hostCompletion, umoraTrainingComplete. -/
def Obligations.UmoraLink : Prop :=
  (∀ (s : State) (f : Flit), s.resetLow = false → linkUp s = true →
    (f.crcOk = true → f.idle = false → f.seq = (s.umora.rxSeq + 1) % 1024 → f.nak = false →
      ∃ t, exec (.flitReceived f) s = .next (pumpUmora t) ∧ t.umora.rxSeq = f.seq ∧ t.umora.nakOut = false ∧
        t.umora.creditP = f.creditP % 4096 ∧ t.umora.creditN = f.creditN % 4096 ∧ t.umora.replay = afterFlit f.ackSeq s.umora.replay ∧
        t.out = s.out ++ [.flit ((s.umora.txSeq + 1023) % 1024) f.seq false s.umora.gotP s.umora.gotN] ∧
        t = { s with umora := t.umora, out := t.out } ∧
        (s.umora.queue = [] → (∀ p ∈ s.posts, p.ofYield = false) → pumpUmora t = t)) ∧
    (f.crcOk = true → f.idle = true → exec (.flitReceived f) s = .next (pumpUmora (takeHeader s f))) ∧
    (f.crcOk = false ∨ (f.idle = false ∧ f.seq ≠ (s.umora.rxSeq + 1) % 1024) →
      ∃ t, exec (.flitReceived f) s = .next t ∧ t.umora = { s.umora with nakOut := true } ∧
        t.out = s.out ++ [.flit ((s.umora.txSeq + 1023) % 1024) s.umora.rxSeq true s.umora.gotP s.umora.gotN] ∧ t = { s with umora := t.umora, out := t.out, ent := t.ent } ∧
        getE t 0xA0B0 0x01 = (getE s 0xA0B0 0x01 + 1) % 2 ^ 64 ∧ SameEntriesBut [(0xA0B0, 1)] s t)) ∧
  (∀ (s t : State) (a : Nat) (bs : List (BitVec 8)), bs.length ≤ 4096 → t = emit s (.hostWrite a bs) →
    (linkUp s = false → t.out = s.out ∧
      t.umora = { s.umora with queue := s.umora.queue ++ [{ serial := s.umora.serial, ctx := none, out := .hostWrite a bs }],
                               serial := s.umora.serial + 1 }) ∧
    (linkUp s = true → s.umora.queue = [] → canSend s.umora (.hostWrite a bs) = true →
      t.out = s.out ++ [.hostWrite a bs] ∧ t.umora.queue = [] ∧ t.umora.usedP = (s.umora.usedP + (bs.length + 79) / 64) % 4096 ∧
      t.umora.replay.length = s.umora.replay.length + (bs.length + 255) / 240) ∧
    t = { s with out := t.out, umora := t.umora }) ∧
  (∀ s : State, s.resetLow = false →
    (linkUp s = true → ∃ t, exec .umoraLockLoss s = .next t ∧ getE t 0xB010 0x01 = 1 ∧ t.umora.held = true ∧
      getE t 0xA0B0 0x03 = (getE s 0xA0B0 0x03 + 1) % 2 ^ 64 ∧ SameEntriesBut [(0xB010, 1), (0xA0B0, 3)] s t ∧
      t = { s with umora := t.umora, ent := t.ent }) ∧
    (∀ q, accepts 0xB010 0x03 q s = true → Done (.linkRetrain q) 0xB010 0x03 q s (retrainUmora (takeRequest s q))) ∧
    (∀ n, linkUp s = false → s.umora.held = false → ∃ t, exec (.umoraTrainingComplete 8 n) s = .next (pumpUmora t) ∧
      getE t 0xB010 0x01 = 2 ∧ getE t 0xB010 0x02 = n % 2 ^ 32 ∧ bit 13 (getE t 0x3010 0x01) = true ∧
      t.umora.downFault = false ∧ SameEntriesBut [(0xB010, 1), (0xB010, 2), (0x3010, 1)] s t ∧
      t = { s with umora := t.umora, ent := t.ent }) ∧
    (∀ n, linkUp s = false → s.umora.held = false → ∃ u, exec (.umoraTrainingComplete 4 n) s =
        .next (raise (pumpUmora u) [mkFault 0 0x42 6 6 none 0]) ∧ getE u 0xB010 0x01 = 3 ∧ getE u 0xB010 0x02 = n % 2 ^ 32 ∧
      u = { s with umora := u.umora, ent := u.ent }) ∧
    (linkUp s = false → s.umora.downFault = false → ∀ u gone, u = raise { failHostFills s with
          umora := { s.umora with downFault := true, reads := [], queue := s.umora.queue.filter (fun p => pktClass p.out != 1) } }
        [mkFault 1 0x43 6 6 none 0] → gone = u.dmas.filter (fun d => usesHost d.desc) →
      exec .umoraDown s = .next (forEach (forEach u gone dropDma) gone (fun t m => startDma (dmaError t m) m.stone))) ∧
    (∀ tag status last bs, s.umora.reads.any (fun r => r.tag == tag) = true →
      ∃ t, exec (.hostCompletion tag status last bs) s = .next (pumpUmora t) ∧ t = { s with umora := t.umora } ∧
        t.umora.comps = s.umora.comps ++ [{ tag := tag, status := status, bytes := bs }] ∧
        (last = true ∨ status ≠ 0 → t.umora.reads.any (fun r => r.tag == tag) = false) ∧
        (last = false → status = 0 → t.umora.reads = s.umora.reads)))

/-- Time: a beacon gives its offset and its count, steps TIMEBASE where it is far off before Configured, and TIME_VALID
follows it; a holdover that ends takes TIME_VALID away; an unknown message is counted. The tick of the always-on clock
advances TIMEBASE by 40 ns and the correction, the fraction kept exactly. It says where each of these commands completes with
its own effect: timeBeacon, badMessage, holdoverExpiry. -/
def Obligations.Time : Prop := ∀ s : State, s.resetLow = false →
    (∀ (b a : Nat) (off : Int), off = (b : Int) + ((getE s 0xB010 0x02 / 2 : Nat) : Int) - (a : Int) →
      ∃ u, exec (.timeBeacon b a) s = .next (setTimeValid u (decide (off.natAbs ≤ 500))) ∧ getE u 0xB000 0x03 = twos 32 off ∧
        getE u 0xA0B0 0x07 = (getE s 0xA0B0 0x07 + 1) % 2 ^ 64 ∧ u = { s with clock := u.clock, ent := u.ent, umora := u.umora } ∧
        u.umora = { s.umora with gotP := (s.umora.gotP + 1) % 4096 } ∧
        (stepsTime s off = true → u.clock.ns = ((s.clock.ns : Int) + off).toNat % 2 ^ 64 ∧
          getE u 0xA0B0 0x09 = (getE s 0xA0B0 0x09 + 1) % 2 ^ 64) ∧
        (stepsTime s off = false → u.clock.ns = s.clock.ns ∧ u.clock.slew = slewOf off ∧ u.clock.slewLeft = 25000)) ∧
    (exec .holdoverExpiry s = .next (setTimeValid s false)) ∧
    (∀ n, n ≠ 1 → n ≠ 2 → exec (.badMessage n) s = .next (count (hostTaken s true) 0xA0B0 0x08)) ∧
    (timeValid s = false → ∀ v, ∃ t, t = setTimeValid s v ∧ timeValid t = v ∧ t = { s with ent := t.ent }) ∧
    (-85899345 ≤ tickCorr s.clock ∧ tickCorr s.clock ≤ 85899345) ∧ (s.clock.ns < 2 ^ 63 → s.clock.frac < 2 ^ 32 →
      ((tickClock s).clock.ns : Int) * 2 ^ 32 + (tickClock s).clock.frac =
        (s.clock.ns : Int) * 2 ^ 32 + s.clock.frac + 40 * 2 ^ 32 + tickCorr s.clock)

/-! ### The object dictionary (14) -/

/-- An accepted write of an entry without a rule of its own replaces its value, the read-only bits of the entry aside, in the
slot that it names; no other entry of the slot changes, and the request is answered with code 0. Any accepted write has the
outcome of its entry's rule: done and answered, deferred, or refused with the rule's code. It says where each of these
commands completes with its own effect: dictWrite. -/
def Obligations.DictionaryWrites : Prop :=
  (∀ (s u : State) (idx sub c : Nat) (q : Req) (e : Entry), accepts idx sub q s = true → actionOf idx sub q = actStore idx sub q →
    findEntry idx sub = some e → u = takeRequest s q → c = viewCtx u idx sub q →
      ∃ t, Done (.dictWrite idx sub q) idx sub q s t ∧
        getC t c idx sub = mergeRo e.roBits (getC u c idx sub) q.value ∧ (e.roBits = 0 → getC t c idx sub = q.value) ∧
        (∀ k i j, ekey k i j ≠ ekey c idx sub → getC t k i j = getC u k i j) ∧ t = { u with ent := t.ent }) ∧
  (∀ (s : State) (idx sub : Nat) (q : Req), accepts idx sub q s = true →
    (∀ t, actionOf idx sub q (takeRequest s q) = .done t → Done (.dictWrite idx sub q) idx sub q s t) ∧
    (∀ t, actionOf idx sub q (takeRequest s q) = .later t → Later (.dictWrite idx sub q) idx sub q s t) ∧
    (∀ t c, actionOf idx sub q (takeRequest s q) = .refuse c t → exec (.dictWrite idx sub q) s = .next (refuse t q idx sub c)))

/-- The steps of R471 in their order: a WRITE is refused with the code of the first that fails. -/
def Obligations.WriteChecksInOrder : Prop :=
  ∀ (s u : State) (idx sub c : Nat) (q : Req), s.resetLow = false → noServer s q = false → forwards s q = false →
    remembered s q = none → u = takeRequest s q → serverBusy u q = false → (s.mode = .dormant → dormantServes idx sub q.path = true) →
    (q.version ≠ 1 ∨ q.resv ≠ 0 ∨ (q.position ≠ 0 ∧ q.relay = false) →
      exec (.dictWrite idx sub q) s = .next (refuse u q idx sub 0x0302)) ∧
    (headCheck u q = none → findEntry idx sub = none →
      exec (.dictWrite idx sub q) s = .next (refuse u q idx sub (if indexAssigned idx then 0x0204 else 0x0203))) ∧
    (∀ e, headCheck u q = none → findEntry idx sub = some e → forwards u q = false → wrongKeystone u q = false →
      (writePathCheck u e idx sub q = some c → exec (.dictWrite idx sub q) s = .next (refuse u q idx sub c)) ∧
      (writePathCheck u e idx sub q = none →
        (e.acc = .ro → exec (.dictWrite idx sub q) s = .next (refuse u q idx sub 0x0201)) ∧
        (e.acc ≠ .ro → q.typ ≠ e.typ → exec (.dictWrite idx sub q) s = .next (refuse u q idx sub 0x0301)) ∧
        (e.acc ≠ .ro → q.typ = e.typ → q.length ≠ e.size ∨ q.frameLen < q.length →
          exec (.dictWrite idx sub q) s = .next (refuse u q idx sub 0x0303)) ∧
        (e.acc ≠ .ro → q.typ = e.typ → q.length = e.size → q.length ≤ q.frameLen → s.mode ≠ .draining →
          bit s.mode.code e.states = false → exec (.dictWrite idx sub q) s = .next (refuse u q idx sub 0x0101)) ∧
        (e.acc ≠ .ro → q.typ = e.typ → q.length = e.size → q.length ≤ q.frameLen → s.mode ≠ .draining →
          bit s.mode.code e.states = true → valueOk e q.value = false →
          exec (.dictWrite idx sub q) s = .next (refuse u q idx sub 0x0302))))

/-- A refusal counts once at its code and once in all, is what LAST_REFUSAL shows with its index, sub-index and path, raises
DICT_REFUSAL for a mapped write alone, and gives a response without data that bears its code; one to the keystone is carried
by a packet of class 0. A request whose source and SEQ are those of a remembered response is answered with that response
marked REPLAYED, is counted, and has no other effect. A response on a frame path is kept in front of its source's memory, of
which the last eight are kept, and is found there again by its SEQ. It says where each of these commands completes with its
own effect: dictDescribe, dictNext. -/
def Obligations.RefusalsAndReplay : Prop :=
  (∀ (s : State) (q : Req) (idx sub code : Nat), q.path = 0 ∨ q.path = 2 ∨ q.path = 3 → code / 256 < 16 → code % 256 < 16 →
    codeSub code = code / 256 * 16 + code % 16 ∧
    ∃ t, t = refuse s q idx sub code ∧ getE t 0xA0F0 0x02 = (getE s 0xA0F0 0x02 + 1) % 2 ^ 64 ∧
      getE t 0xA0F1 (codeSub code) = (getE s 0xA0F1 (codeSub code) + 1) % 2 ^ 64 ∧
      getE t 0xA0F0 0x04 = lastRefusal code idx sub q.path ∧
      (q.path ≠ 3 → t.injQ = s.injQ ∧ SameEntriesBut [(0xA0F0, 2), (0xA0F0, 4), (0xA0F1, codeSub code)] s t) ∧
      SameEntriesBut [(0xA0F0, 2), (0xA0F0, 4), (0xA0F1, codeSub code), (0x2052, 1), (0x2052, 2), (0x2052, 3), (0x2052, 4)] s t ∧
      t.dictRefusal = (s.dictRefusal || decide (q.path = 2)) ∧
      t.out = s.out ++ (if q.path = 2 then [] else [.response q.path q.src q.seq code 0 0 false]) ∧
      t = { s with ent := t.ent, out := t.out, dictRefusal := t.dictRefusal, replay := t.replay, umora := t.umora, injQ := t.injQ }) ∧
  (∀ (s : State) (q : Req) (idx sub seq code len v : Nat), s.resetLow = false → noServer s q = false → forwards s q = false →
    remembered s q = some (seq, code, len, v) →
      ∃ t o u, u = count s 0xA0F0 0x06 ∧ o = Out.response q.path q.src q.seq code len v true ∧
        t = (if q.path = 3 then sendMgmt u q.fromPos o else emit u o) ∧ t.out = s.out ++ [o] ∧
        exec (.dictWrite idx sub q) s = .next t ∧ exec (.dictDescribe idx sub q) s = .next t ∧ exec (.dictNext idx sub q) s = .next t) ∧
  (∀ (s : State) (q : Req) (idx sub code len v : Nat), q.path = 0 ∨ q.path = 3 →
    ∃ t, t = respond s q idx sub code len v ∧ remembered t q = some (q.seq, code, len, v) ∧
      t.out = s.out ++ [.response q.path q.src q.seq code len v false] ∧
      (∀ r ∈ t.replay, r.resps.length ≤ 8 ∨ r ∈ s.replay) ∧ t.replay.length ≤ 16)

/-- DESCRIBE gives the attributes of an assigned entry, and NEXT the address of the next assigned entry or all ones; neither
changes anything but its answer. The reads with an effect: LAST_REFUSAL ends DICT_REFUSAL, DEPTH_MAX is cleared, and a posted
result mailbox is marked as read; each answers the value that stood before. It says where each of these commands completes
with its own effect: resultMailboxRead, lastRefusalRead, depthMaxRead. -/
def Obligations.DictionaryReads : Prop :=
  (∀ (s u : State) (idx sub : Nat) (q : Req) (e : Entry), served1 idx sub q s = true → u = takeRequest s q →
    wrongKeystone u q = false → q.typ = 0 → q.length = 0 → q.path ≠ 2 →
    (findEntry idx sub = some e → exec (.dictDescribe idx sub q) s = .next (respond u q idx sub 0 16 (describeOf u e idx sub))) ∧
    exec (.dictNext idx sub q) s = .next (respond u q idx sub 0 4 ((nextEntry idx sub).getD 0xFFFFFFFF))) ∧
  (∀ (s u : State) (q : Req), u = takeRequest s q →
    (acceptsRead 0xA0F0 0x04 q s = true → q.path ≠ 2 →
      exec (.lastRefusalRead q) s = .next (respond { u with dictRefusal := false } q 0xA0F0 0x04 0 8 (getE u 0xA0F0 0x04))) ∧
    (∀ p vc e, p < 32 → vc < 16 → acceptsRead (0xA100 + p) (0x41 + vc) q s = true → findEntry (0xA100 + p) (0x41 + vc) = some e →
      q.path ≠ 2 → exec (.depthMaxRead p vc q) s = .next (respond (setE u (0xA100 + p) (0x41 + vc) 0) q (0xA100 + p) (0x41 + vc) 0
        e.size (entryValue (0xA100 + p) (0x41 + vc) q u))) ∧
    (∀ m c, m < 128 → acceptsRead 0xB044 (m + 1) q s = true → c = viewCtx u 0xB044 (m + 1) q → q.path ≠ 2 →
      exec (.resultMailboxRead m q) s = .next (respond (markRead c m u) q 0xB044 (m + 1) 0 8 (mailboxWord (mailboxOf u (mbKey c m))))))

/-- The keystone relay: a request for another position of the pond goes out and is kept until it is answered, one for the
keystone itself is served there; a response returns its code and value, an expiry is NO_ANSWER and counted; a response that no
request waits for is discarded. Mapped writes: into the request part of a mailbox slot, byte for byte; into a place that no
entry has, into the part's own part of a slot, or of a wrong width or alignment, counted and discarded; in Dormant past the
slots, discarded; and to an entry, as a write of that entry on path 2. A doorbell of an idle slot queues it; one of a busy
slot is counted. The management port falls back to CSMA/CD and returns. It says where each of these commands completes with
its own effect: dictDoorbell, mappedWrite, relayRequest, relayResponse, relayTimeoutExpiry, deferredWriteComplete,
plcaFallback, plcaStatusRestored. -/
def Obligations.MappedWritesAndRelay : Prop :=
  (∀ s : State, s.resetLow = false →
    (∀ opc idx sub q v, v = { q with relay := true } → opc ≤ 3 → isKeystone s = true → q.path = 0 →
      q.position ≠ gridPos s → s.mode ≠ .dormant → firmwareUp s = true → s.mode ≠ .faulted →
      serverBusy (takeRequest s v) v = false → q.version = 1 → q.resv = 0 → (opc ≠ 3 → (findEntry idx sub).isSome = true) →
        ∃ t, exec (.relayRequest opc idx sub q) s = .next t ∧
          t.relays = s.relays ++ [{ pos := q.position, opcode := opc, idx := idx, sub := sub, q := v }] ∧
          t.out = s.out ++ [.relay q.position opc idx sub v] ∧
          t.injQ = s.injQ ++ [(0, mkPacket s (64 * pondOf s + q.position) 0 5 0 0 [])] ∧
          t = { takeRequest s v with relays := t.relays, out := t.out, umora := t.umora, injQ := t.injQ, ent := t.ent }) ∧
    (∀ idx sub q v, v = { q with relay := true } → q.position = gridPos s →
      exec (.relayRequest 1 idx sub q) s = exec (.dictWrite idx sub v) s ∧
      exec (.relayRequest 2 idx sub q) s = exec (.dictDescribe idx sub v) s ∧
      exec (.relayRequest 3 idx sub q) s = exec (.dictNext idx sub v) s) ∧
    (∀ pos seq code v r, findRelay s pos seq = some r → code ≠ 0 → exec (.relayResponse pos seq code v) s =
      .next (answerRelay { s with relays := s.relays.erase r } r code 0 0)) ∧
    (∀ pos seq v r, findRelay s pos seq = some r → exec (.relayResponse pos seq 0 v) s =
      .next (answerRelay { s with relays := s.relays.erase r } r 0 (answerLength r) v)) ∧
    (∀ pos seq code v, findRelay s pos seq = none → exec (.relayResponse pos seq code v) s = .next s) ∧
    (∀ pos seq r, findRelay s pos seq = some r → exec (.relayTimeoutExpiry pos seq) s = .next (answerRelay (noteRefusal
      (count { s with relays := s.relays.erase r } 0xA0F0 0x07) 0x0602 r.idx r.sub r.q.path) r 0x0602 0 0)) ∧
    (∀ idx sub d, s.deferred.find? (fun d => d.idx == idx && d.sub == sub && d.result.isSome) = some d →
      (d.result = some 0 → exec (.deferredWriteComplete idx sub) s =
        .next (respond { s with deferred := s.deferred.erase d } d.q idx sub 0 0 0)) ∧
      (∀ c, c ≠ 0 → d.result = some c → exec (.deferredWriteComplete idx sub) s =
        .next (refuse { s with deferred := s.deferred.erase d } d.q idx sub c)))) ∧
  (∀ s : State, s.resetLow = false →
    (∀ off w v, off < 0x4000 → off % 4096 + w ≤ 0x800 → slotAccessOk off w = true → ∃ t, exec (.mappedWrite off w v) s = .next t ∧
      (∀ i, i < w → tget 0 t.slotMem (off + i) = BitVec.ofNat 8 (v / 2 ^ (8 * i))) ∧
      (∀ a, a < off ∨ off + w ≤ a → tget 0 t.slotMem a = tget 0 s.slotMem a) ∧
      t = { hostTaken s true with slotMem := t.slotMem }) ∧
    (∀ off w v, off < 0x4000 → slotAccessOk off w = false ∨ (0x800 ≤ off % 4096 ∧ off % 4096 < 0xC10) ∨ 0xFF8 ≤ off % 4096 →
      exec (.mappedWrite off w v) s = .next (count (hostTaken s true) 0xA0F0 0x03)) ∧
    (∀ off w v, 0x4000 ≤ off → s.mode = .dormant → exec (.mappedWrite off w v) s = .next (hostTaken s true)) ∧
    (∀ off w v, 0x4000 ≤ off → s.mode ≠ .dormant → mappedEntry off = none →
      exec (.mappedWrite off w v) s = .next (count (hostTaken s true) 0xA0F0 0x03)) ∧
    (∀ off w v idx sub c e, 0x4000 ≤ off → s.mode ≠ .dormant → mappedEntry off = some (idx, sub, c) → findEntry idx sub = some e →
      (mappedAccessOk e off w = false → exec (.mappedWrite off w v) s = .next (count (hostTaken s true) 0xA0F0 0x03)) ∧
      (mappedAccessOk e off w = true →
        exec (.mappedWrite off w v) s = exec (.dictWrite idx sub (mappedReq e c v)) s)) ∧
    (∀ q n, accepts 0x1042 0x00 q s = true → n = q.value % 4 →
      ((slotOf (takeRequest s q) n).busy = false → ∃ t, Done (.dictDoorbell q) 0x1042 0x00 q s t ∧ t.dictQ = (takeRequest s q).dictQ ++ [n] ∧
        (slotOf t n).busy = true ∧ (slotOf t n).done = false ∧
        t = { takeRequest s q with dictQ := t.dictQ, mslots := t.mslots, slotMem := t.slotMem }) ∧
      ((slotOf (takeRequest s q) n).busy = true →
        Done (.dictDoorbell q) 0x1042 0x00 q s (count (takeRequest s q) 0xA0F0 0x03))) ∧
    (getE s 0x1040 0x03 ≠ 2 → exec .plcaFallback s = .next (count (setE s 0x1040 0x03 2) 0xA0F0 0x05)) ∧
    (getE s 0x1040 0x03 = 2 → exec .plcaStatusRestored s = .next (setE s 0x1040 0x03 1)))

/-! ### Rings and mailboxes (15 R487 to R493) -/

/-- The entries of a submission ring that a ring can take: NOP posts, STEP forms one step of the next generation, PREFILL with
RIDE opens a prompt, PREFILL without forms its steps, FLUSH with no prompt open posts; a STEP with MIX takes a chunk of the
oldest open prompt with it, and a FLUSH forms the chunks of every open prompt; a malformed entry is refused. All steps that a
prompt of `n` tokens forms, in chunks of at most `k`: one for each chunk, the last with the prompt's post, and generations
that follow one another; STEPS_FORMED and PREFILL_CHUNKS count them. The other commands of a ring: a COMMAND serves its
request on path 4, or is refused where it could not be read; a read error stops the ring with RING_READ of class U; the
doorbell moves the tail of an enabled ring; enabling resets the ring; RESUME restarts a halted one; and the release of a
posted mailbox frees it for the oldest post that waits. It says where each of these commands completes with its own effect:
submitDoorbell, ringNop, ringStep, ringPrefill, ringFlush, ringCommand, ringReadError, ringEnable, ringResume, resultRelease.
-/
def Obligations.Rings : Prop :=
  (∀ (s : State) (c : Nat) (e : RingEntry), s.resetLow = false → canTake s c = true →
    (entryFormOk e = true → e.ride = false → e.mix = false → exec (.ringNop c e) s = .next (postEntry (takeEntry s c) c e 0)) ∧
    (entryFormOk e = false → exec (.ringNop c e) s = .next (refuseEntry s c e)) ∧
    (stepsTaken s c = true →
      (entryFormOk e = true → e.ride = false → e.mix = false → 1 ≤ e.count → e.count ≤ 65535 → ∃ u d, exec (.ringStep c e) s =
          .next (finishYield u c) ∧ (ctxOf u c).gen = ((ctxOf s c).gen + 1) % 65536 ∧
        getE u 0xA090 0x08 = (getE s 0xA090 0x08 + 1) % 2 ^ 64 ∧
        d = stepDesc e.firstToken e.count (((ctxOf s c).gen + 1) % 65536) 0 0 0 (ringOf s c).head 0 0 ∧
        (ctxOf u c).steps = (ctxOf s c).steps ++ [{ desc := d, firstPos := e.firstPos, posts := (entryPost e).toList }] ∧
        (ringOf u c).head = ((ringOf s c).head + 1) % max 1 (getE s (0xB100 + c) 0x02) ∧
        u = { s with ctxs := u.ctxs, rings := u.rings, ent := u.ent }) ∧
      (entryFormOk e = true → e.ride = true → e.mix = false → 1 ≤ e.count → e.count + e.firstPos ≤ 2 ^ 24 →
        ∃ t, exec (.ringPrefill c e) s = .next t ∧ (ctxOf t c).prompts = (ctxOf s c).prompts ++ [newPrompt e (ringOf s c).head] ∧
          (ctxOf t c).steps = (ctxOf s c).steps ∧ t = { s with ctxs := t.ctxs, rings := t.rings, ent := t.ent }) ∧
      (entryFormOk e = true → e.ride = false → e.mix = false → 1 ≤ e.count → e.count + e.firstPos ≤ 2 ^ 24 →
        exec (.ringPrefill c e) s = .next (finishYield (allChunks c [] e.count (newPrompt e (ringOf s c).head) (takeEntry s c)) c)) ∧
      (entryFormOk e = true → e.ride = false → e.mix = false → (ctxOf s c).prompts = [] →
        ∃ u, exec (.ringFlush c e) s = .next (postEntry u c e 0) ∧ (ctxOf u c).prompts = [] ∧
          u = { s with ctxs := u.ctxs, rings := u.rings, ent := u.ent }) ∧
      (entryFormOk e = true → e.ride = false → e.mix = true → e.count ≤ 65535 → exec (.ringStep c e) s =
        .next (finishYield (formStep (takeEntry s c) c (ringOf s c).head e) c)) ∧
      (entryFormOk e = true → e.ride = false → e.mix = false → (ctxOf s c).prompts ≠ [] → exec (.ringFlush c e) s =
        .next (finishYield (flushPrompts c (entryPost e).toList (ctxOf s c).prompts
          (modCtx (takeEntry s c) c (fun x => { x with prompts := [] }))) c)) ∧
      (e.count = 0 → exec (.ringPrefill c e) s = .next (refuseEntry s c e)) ∧
      (e.ride = true → exec (.ringFlush c e) s = .next (refuseEntry s c e)) ∧
      (e.ride = true → exec (.ringStep c e) s = .next (refuseEntry s c e)))) ∧
  (∀ (s : State) (c f k : Nat) (p : Prompt), k = max 1 (getE s (0x5100 + c) 0x03) → p.left ≤ f → 1 ≤ p.left → ∃ t, t = allChunks c [] f p s ∧
    (ctxOf t c).steps.length = (ctxOf s c).steps.length + (p.left + k - 1) / k ∧
    (ctxOf t c).gen % 65536 = ((ctxOf s c).gen + (p.left + k - 1) / k) % 65536 ∧
    (ctxOf t c).steps.take (ctxOf s c).steps.length = (ctxOf s c).steps ∧
    (∀ x ∈ ((ctxOf t c).steps.drop (ctxOf s c).steps.length).dropLast, x.posts = []) ∧
    ((ctxOf t c).steps.getLast?.map (fun x => x.posts)) = some p.post.toList ∧
    (∀ n ∈ [8, 9], getE t 0xA090 n = (getE s 0xA090 n + (p.left + k - 1) / k) % 2 ^ 64) ∧
    SameEntriesBut [(0xA090, 8), (0xA090, 9)] s t ∧ t = { s with ctxs := t.ctxs, ent := t.ent }) ∧
  (∀ s : State, s.resetLow = false →
    (∀ c e opc idx sub q, canTake s c = true → s.mode ≠ .dormant → s.dictQ.length < 64 →
      (commandOk e = true → ∀ u, u = takeEntry s c → exec (.ringCommand c e opc idx sub true q) s =
        .next (serveOp opc idx sub { q with path := 4, slot := c } (setRing u c { ringOf u c with cmd := some e }))) ∧
      exec (.ringCommand c e opc idx sub false q) s = .next (refuseEntry s c e)) ∧
    (∀ c, canTake s c = true → exec (.ringReadError c) s =
      .next (raise (setE s (0xB100 + c) 0x05 3) [mkFault 1 0x44 6 6 (some c) 0])) ∧
    (∀ q u c, accepts 0xB040 0x00 q s = true → u = takeRequest s q → c = viewCtx u 0xB040 0x00 q →
      (getE u (0xB100 + c) 0x03 ≠ 0 → q.value < getE u (0xB100 + c) 0x02 →
        Done (.submitDoorbell q) 0xB040 0x00 q s (noteRunnable (setE u (0xB100 + c) 0x07 q.value) c)) ∧
      (getE u (0xB100 + c) 0x03 = 0 ∨ getE u (0xB100 + c) 0x02 ≤ q.value →
        exec (.submitDoorbell q) s = .next (refuse u q 0xB040 0x00 0x0302))) ∧
    (∀ c q u, c < 256 → accepts (0xB100 + c) 0x03 q s = true → u = takeRequest s q →
      (q.value = 0 → getE u (0xB100 + c) 0x03 = 1 → ∃ t, Done (.ringEnable c q) (0xB100 + c) 0x03 q s t ∧
        getE t (0xB100 + c) 0x03 = 0 ∧ getE t (0xB100 + c) 0x05 = 0 ∧ t = { u with ent := t.ent } ∧
        SameEntriesBut [(0xB100 + c, 3), (0xB100 + c, 5)] u t) ∧
      (q.value = 1 → getE u (0xB100 + c) 0x03 = 0 → s.posts = [] → ∃ t, Done (.ringEnable c q) (0xB100 + c) 0x03 q s t ∧
        getE t (0xB100 + c) 0x03 = 1 ∧ getE t (0xB100 + c) 0x05 = 1 ∧ getE t (0xB100 + c) 0x07 = 0 ∧ (ringOf t c).head = 0 ∧
        (∀ m, m < 128 → mailboxOf t (mbKey c m) = Mailbox.initial) ∧
        t = { u with ent := t.ent, rings := t.rings, mailboxes := t.mailboxes })) ∧
    (∀ c q u, c < 256 → accepts (0xB100 + c) 0x06 q s = true → u = takeRequest s q → getE u (0xB100 + c) 0x03 = 1 →
      2 ≤ getE u (0xB100 + c) 0x05 → Done (.ringResume c q) (0xB100 + c) 0x06 q s (setE u (0xB100 + c) 0x05 1)) ∧
    (∀ m q u c x, accepts 0xB045 (m + 1) q s = true → u = takeRequest s q → c = viewCtx u 0xB045 (m + 1) q →
      x = mailboxOf u (mbKey c m) →
      (x.posted = true → x.seq = q.value → Done (.resultRelease m q) 0xB045 (m + 1) q s
        (makePosts (setMailbox u (mbKey c m) { x with posted := false, readBefore := false }) c m)) ∧
      (x.posted = false ∨ x.seq ≠ q.value → exec (.resultRelease m q) s = .next (refuse u q 0xB045 (m + 1) 0x0302))))

/-! ### Identity, keystone, device states and jobs (01, 13 R416 to R433) -/

/-- The package id and the keystone: an id is stored as ASSIGNED and, where it changes, sends the ports that are neither DOWN
nor FENCED into training; the keystone position is stored and ends the silence; either write marks every byte of POND_FAULTS
stale where it makes the package the keystone. The keystone sends beacons to the other members of its pond (as the model reads
them, log entry 118); a package refuses and counts one of another package than its keystone, answers the first of a new
keystone with its fault summary and takes any other; a worker raises KEYSTONE_SILENT once. A failed unit of the part raises
the fault that the manual gives it; a mesh stop or course DMA fences its course of 64 stones, a cistern manager its bay of 256
and its router, and a management processor is out of use. It says where each of these commands completes with its own effect:
packageIdWrite, keystonePositionWrite, keystoneBeacon, pondBeacon, keystoneSilent, unitFailure. -/
def Obligations.KeystoneAndUnits : Prop :=
  (∀ s : State, s.resetLow = false →
    (∀ q u w v, accepts 0x1020 0x01 q s = true → u = takeRequest s q → w = setE u 0x1020 0x01 (2 ^ 15 + q.value % 2 ^ 14) →
      v = (if isKeystone u = false ∧ isKeystone w = true then markStale w else w) →
      (q.value % 2 ^ 14 = pkgId s → Done (.packageIdWrite q) 0x1020 0x01 q s v) ∧
      (q.value % 2 ^ 14 ≠ pkgId s → Done (.packageIdWrite q) 0x1020 0x01 q s (forEach v
        (List.range 32) (fun t p => match (portOf t p).state with | .down | .fenced => t | _ => beginRetrain t p))) ∧
      getE v 0x1020 0x01 = 2 ^ 15 + q.value % 2 ^ 14 ∧ SameEntriesBut [(0x1020, 1)] u v ∧
      v = { u with ent := v.ent, pondFaults := v.pondFaults }) ∧
    (∀ q u w v, accepts 0x2010 0x01 q s = true → u = takeRequest s q → w = setE { u with
        keystoneSilent := false, newKeystone := u.newKeystone || decide (getE u 0x2010 0x01 ≠ q.value) } 0x2010 0x01 q.value →
      v = (if isKeystone u = false ∧ isKeystone w = true then markStale w else w) →
      Done (.keystonePositionWrite q) 0x2010 0x01 q s v ∧ getE v 0x2010 0x01 = q.value ∧ SameEntriesBut [(0x2010, 1)] u v) ∧
    (∀ p, p < 64 → bit 7 (pondFaultOf (markStale s) p) = true) ∧
    (isKeystone s = true → firmwareUp s = true → ∃ t, exec .keystoneBeacon s = .next t ∧
      t.out = s.out ++ [.beacon (getE s 0x2010 0x02)] ∧
      t.injQ = s.injQ ++ (pondMembers s).map (fun p => (0, mkPacket s (64 * pondOf s + p) 0 5 0 0 [])) ∧
      t = { s with out := t.out, umora := t.umora, injQ := t.injQ, ent := t.ent }) ∧
    (∀ p, firmwareUp s = true → fromKeystone s p = false → exec (.pondBeacon p) s = .next (count s 0x8040 0x01)) ∧
    (∀ p, firmwareUp s = true → fromKeystone s p = true → s.newKeystone = true →
      exec (.pondBeacon p) s = .next (sendSummary { s with newKeystone := false })) ∧
    (∀ p, firmwareUp s = true → fromKeystone s p = true → s.newKeystone = false → exec (.pondBeacon p) s = .next s) ∧
    (firmwareUp s = true → getE s 0x2010 0x01 ≠ 0xFF → isKeystone s = false → s.keystoneSilent = false →
      exec .keystoneSilent s = .next (raise { s with keystoneSilent := true } [mkFault 1 0x40 6 0 none 0]))) ∧
  (∀ s : State, s.resetLow = false →
    (∀ c, c < 64 → exec (.unitFailure (.meshStop c)) s =
        .next (fenceMany (raise s [mkFault 1 0x1C 1 c none 0]) ((List.range 64).map (· + 64 * c))) ∧
      exec (.unitFailure (.courseDma c)) s = exec (.unitFailure (.meshStop c)) s) ∧
    (∀ b, b < 16 → exec (.unitFailure (.cisternManager b)) s = .next (fenceMany
        (fenceRouter (raise s [mkFault 1 0x1B 2 b none 0]) b) ((List.range 256).map (· + 256 * b))) ∧
      exec (.unitFailure (.ledger b)) s = .next (raise s [mkFault 2 0x1D 2 b none 0])) ∧
    (∀ w, w < 2 → exec (.unitFailure (.millrace w)) s = .next (raise s [mkFault 2 0x29 3 w none 0]) ∧
      exec (.unitFailure (.mortar w)) s = .next (raise s [mkFault 2 0x2A 3 w none 0]) ∧
      exec (.unitFailure (.switch w)) s = .next (raise s [mkFault 2 0x35 3 w none 0])) ∧
    (∀ n, n < 8 → exec (.unitFailure (.stack n)) s = .next (raise s [mkFault 2 0x28 5 (16 * n) none 0])) ∧
    (∀ n, n < 2 → s.mpFailed.contains n = false → exec (.unitFailure (.mgmtProcessor n)) s =
      .next (raise { s with mpFailed := s.mpFailed ++ [n] } [mkFault 2 0x49 6 n none 0])) ∧
    (∀ n, n < 2 → s.mpFailed.contains n = true → exec (.unitFailure (.mgmtProcessor n)) s = .next (raise s [mkFault 2 0x49 6 n none 0])) ∧
    exec (.unitFailure .bridge) s = .next (raise s [mkFault 2 0x48 6 5 none 0]) ∧
    exec (.unitFailure .alwaysOn) s = .next (raise s [mkFault 2 0x4A 6 2 none 0]) ∧
    exec (.unitFailure .plumb) s = .next (raise s [mkFault 2 0x4B 6 3 none 0]) ∧
    exec (.unitFailure .keyStore) s = .next (raise s [mkFault 2 0x4C 6 4 none 0]))

/-- STATE_REQUEST: Configured from Verified or Clean once the package has an id, a job tag, committed pools, a good generator,
its start-up done and its regions placed; Running from Ready, which makes the committed starts run; and nothing else. The
start record of a member goes through its states in order: a prepare that passes every check is PREPARED, its commit makes the
package Ready with group 255 committed, its run makes it Running, an abort drops it before that; an operation out of order is
answered 0x0101, and one that is repeated is answered OK and changes nothing. It says where each of these commands completes
with its own effect: stateRequestConfigured, stateRequestRunning. -/
def Obligations.StateRequestsAndStarts : Prop :=
  (∀ (s u : State) (q : Req), accepts 0x5000 0x02 q s = true → u = takeRequest s q → s.mode ≠ .draining →
    (q.value = 2 → s.mode = .verified ∨ s.mode = .clean →
      (bit 15 (getE u 0x1020 0x01) = true → getE u 0x5000 0x03 ≠ 0 → getE u 0x4040 0x02 ≠ 0 → s.sec.rngBad = false →
        (getE u 0x3010 0x02 = 7 → regionsPlaceable u = true → Done (.stateRequestConfigured q) 0x5000 0x02 q s (enterConfigured u)) ∧
        (getE u 0x3010 0x02 = 7 → regionsPlaceable u = false →
          exec (.stateRequestConfigured q) s = .next (refuse u q 0x5000 0x02 0x0406)) ∧
        (getE u 0x3010 0x02 ≠ 7 → exec (.stateRequestConfigured q) s = .next (refuse u q 0x5000 0x02 0x0601))) ∧
      (s.sec.rngBad = false → s.pools = [] → ∀ t, t = enterConfigured u → t.mode = .configured ∧ t.jobTag = getE u 0x5000 0x03 ∧
          t.senders = [] ∧ t.mem = [] ∧ t.sec.keyGen = s.sec.keyGen + 1) ∧
      (bit 15 (getE u 0x1020 0x01) = false ∨ getE u 0x5000 0x03 = 0 ∨ getE u 0x4040 0x02 = 0 ∨ s.sec.rngBad = true →
        exec (.stateRequestConfigured q) s = .next (refuse u q 0x5000 0x02 0x0101))) ∧
    (q.value = 4 → s.mode = .ready → ∃ t, Done (.stateRequestRunning q) 0x5000 0x02 q s t ∧ t.mode = .running ∧
      (∀ p ∈ t.starts, p.2 ≠ .committed) ∧ t = { u with mode := t.mode, starts := t.starts }) ∧
    (q.value = 4 → s.mode ≠ .ready → exec (.stateRequestRunning q) s = .next (refuse u q 0x5000 0x02 0x0101)) ∧
    (q.value = 2 → s.mode ≠ .verified → s.mode ≠ .clean →
      exec (.stateRequestConfigured q) s = .next (refuse u q 0x5000 0x02 0x0101))) ∧
  (∀ (s : State) (v id : Nat) (l : List Nat),
    (startOf s (recStart v) = .none → prepareCode s v l = 0 → ∃ t, takePrepare s v l = (t, 0) ∧ startOf t (recStart v) = .prepared ∧
      t.jobList = l ∧ t.mode = s.mode ∧ getE t 0x5000 0x05 = recStart v) ∧
    (startOf s (recStart v) = .none → prepareCode s v l ≠ 0 → takePrepare s v l = (s, prepareCode s v l)) ∧
    (startOf s id = .prepared → s.mode = .configured → ∃ t, takeCommit s id = (t, 0) ∧ startOf t id = .committed ∧ t.mode = .ready ∧
      getE t 0x5000 0x04 = s.jobList.length ∧ getE t 0x71FF 0x06 = 1) ∧
    (startOf s id = .committed → s.mode = .ready → ∃ t, takeRun s id = (t, 0) ∧ startOf t id = .running ∧ t.mode = .running) ∧
    (startOf s id = .prepared → ∃ t, takeAbort s id = (t, 0) ∧ startOf t id = .aborted ∧ t.jobList = [] ∧ t.mode = s.mode) ∧
    (startOf s id = .committed → s.mode = .ready → ∃ t, takeAbort s id = (t, 0) ∧ startOf t id = .aborted ∧ t.mode = .configured ∧
      getE t 0x5000 0x04 = 0 ∧ getE t 0x71FF 0x06 = 0) ∧
    (startOf s id = .none → takeCommit s id = (s, 0x0101) ∧ takeRun s id = (s, 0x0101) ∧
      takeAbort s id = (setStart s id .aborted, 0)) ∧
    (startOf s id = .running → takeCommit s id = (s, 0) ∧ takeRun s id = (s, 0) ∧ takeAbort s id = (s, 0x0101)) ∧
    (startOf s id = .aborted → takeCommit s id = (s, 0x0101) ∧ takeRun s id = (s, 0x0101) ∧ takeAbort s id = (s, 0)))

/-- The job operations at a package reached through JOB_DIRECT's own record: prepare, commit, run, abort and teardown are
answered with the code of the start record, or, for a teardown of a job, later at Clean. An operation of the keystone is
forwarded and, at a member with no member below it, answered up the tree; one of any other package is answered NOT_AUTHORISED
and counted. POND_JOB_STEP at a keystone that is no member and has members elsewhere: the step is in progress with its
operation sent over both trees, each message in a packet of class 0, and its members waiting; a keystone that is a member acts
itself and counts its own answer; at a package that is not keystone it is refused, and so is a second step. Answers at the
keystone: each waiting position counts once; the step ends as done when the last good answer comes, and as incomplete at the
timeout or with the first refusal's position and code. A member's children are waited for likewise, and its one answer goes up
with the last of them or at the end of its wait. It says where each of these commands completes with its own effect:
pondJobPrepare, pondJobCommit, pondJobRun, pondJobAbort, pondJobTeardown, jobPrepare, jobCommit, jobRun, jobAbort,
jobTeardown, jobStepAnswer, jobChildWaitExpiry, jobStepTimeout. -/
def Obligations.JobSteps : Prop :=
  (∀ (s t : State) (v id n : Nat) (l : List Nat), s.resetLow = false →
    (takePrepare s (getE s 0x5010 0x02) l = (t, n) → exec (.jobPrepare none v l) s = .next (emit t (.jobAnswer [(gridPos s, n)]))) ∧
    (takeCommit s (recStart (startOnly id)) = (t, n) → exec (.jobCommit none id) s = .next (emit t (.jobAnswer [(gridPos s, n)]))) ∧
    (takeRun s (recStart (startOnly id)) = (t, n) → exec (.jobRun none id) s = .next (emit t (.jobAnswer [(gridPos s, n)]))) ∧
    (takeAbort s (recStart (startOnly id)) = (t, n) → exec (.jobAbort none id) s = .next (emit t (.jobAnswer [(gridPos s, n)]))) ∧
    (s.mode = .configured ∨ s.mode = .ready ∨ s.mode = .running → exec (.jobTeardown none) s = .next (enterDraining s)) ∧
    (s.mode = .clean ∨ s.mode = .verified → exec (.jobTeardown none) s = .next (emit s (.jobAnswer [(gridPos s, 0)]))) ∧
    (∀ k, firmwareUp s = true → fromKeystone s k = false → ∀ u, u = sendMgmt (count s 0x8040 0x01) k (.jobAnswer [(gridPos s, 0x0502)]) →
      exec (.jobPrepare (some k) v l) s = .next u ∧ exec (.jobCommit (some k) id) s = .next u ∧ exec (.jobRun (some k) id) s = .next u ∧
      exec (.jobAbort (some k) id) s = .next u ∧ exec (.jobTeardown (some k)) s = .next u) ∧
    (∀ k m r, firmwareUp s = true → fromKeystone s k = true → s.mode ≠ .faulted → s.jobMember = none → s.jobSeen = none →
      m = (if s.jobMembers = 0 then 2 ^ 64 - 1 else s.jobMembers) → r = recStart (startOnly id) → bit (gridPos s) m = true →
      membersBelow s k m = [] → ∀ fwd, (fwd = fun op => forwardJob { s with jobSeen := some (op, r, false) } k m op r 0) →
      (takeCommit (fwd 2) r = (t, n) → exec (.jobCommit (some k) id) s = .next (answerUp t false [(gridPos s, n)])) ∧
      (takeRun (fwd 3) r = (t, n) → exec (.jobRun (some k) id) s = .next (answerUp t false [(gridPos s, n)])) ∧
      (takeAbort (fwd 4) r = (t, n) → exec (.jobAbort (some k) id) s = .next (answerUp t false [(gridPos s, n)]))) ∧
    (∀ k m u, firmwareUp s = true → fromKeystone s k = true → s.mode ≠ .faulted → s.jobMember = none → s.jobSeen = none →
      m = (if recMembers v = 0 then 2 ^ 64 - 1 else recMembers v) → bit (gridPos s) m = true → membersBelow s k m = [] →
      u = forwardJob { s with jobMembers := recMembers v, jobSeen := some (1, recStart v, false) } k m 1 (recStart v) v →
      takePrepare u v l = (t, n) → exec (.jobPrepare (some k) v l) s = .next (answerUp t false [(gridPos s, n)])) ∧
    (id < 2 ^ 32 → recStart (startOnly id) = id)) ∧
  (∀ (s u : State) (q : Req) (l : List Nat) (v : Nat) (p : Nat × Instr),
    p ∈ [(1, Instr.pondJobPrepare q l), (2, .pondJobCommit q), (3, .pondJobRun q), (4, .pondJobAbort q), (5, .pondJobTeardown q)] →
    q.value = p.1 → accepts 0x5010 0x01 q s = true → u = takeRequest s q → v = getE u 0x5010 0x02 →
    (isKeystone u = false → exec p.2 s = .next (refuse u q 0x5010 0x01 0x0502)) ∧
    (isKeystone u = true → getE u 0x5010 0x03 = 1 → exec p.2 s = .next (refuse u q 0x5010 0x01 0x0601)) ∧
    (isKeystone u = true → getE u 0x5010 0x03 ≠ 1 → s.mode ≠ .faulted → bit (gridPos u) (recMembers v) = false → recMembers v ≠ 0 →
      ∃ t x, Done p.2 0x5010 0x01 q s t ∧ t.jobStep = some x ∧ x.op = p.1 ∧ x.startId = recStart v ∧ x.answers = [] ∧
        (∀ i, i ∈ x.waiting ↔ i < 64 ∧ bit i (recMembers v) = true) ∧ getE t 0x5010 0x03 = 1 ∧ t.mode = s.mode ∧
        t = { u with ent := t.ent, jobStep := t.jobStep, out := t.out, umora := t.umora, injQ := t.injQ } ∧
        ∀ k r as bs, k = gridPos u → r = (if p.1 = 1 then v else 0) → as = (treeAKids k k).filter (wanted (treeAKids k) (recMembers v)) →
          bs = (treeBKids k k).filter (wanted (treeBKids k) (recMembers v)) →
          t.out = u.out ++ as.map (fun c => Out.jobOp false c p.1 (recStart v) r) ++ bs.map (fun c => Out.jobOp true c p.1 (recStart v) r) ∧
          t.injQ = u.injQ ++ as.map (fun c => (0, mkPacket u (64 * pondOf u + c) 0 5 0 0 [])) ++
            bs.map (fun c => (1, mkPacket u (64 * pondOf u + c) 0 5 0 0 []))) ∧
    (isKeystone u = true → getE u 0x5010 0x03 ≠ 1 → s.mode ≠ .faulted → bit (gridPos u) (recMembers v) = true → ∀ w,
      w = { forwardJob (setE (setE (setE (setE u 0x5010 0x03 1) 0x5010 0x04 0) 0x5010 0x05 0) 0x5010 0x06 0) (gridPos u) (recMembers v)
          p.1 (recStart v) (if p.1 = 1 then v else 0) with
        jobStep := some { op := p.1, startId := recStart v, waiting := (List.range 64).filter (fun i => bit i (recMembers v)), answers := [] } } →
      (∀ t n, ownPart w p.1 v (if p.1 = 1 then l else []) = (t, some n) → Done p.2 0x5010 0x01 q s (giveAnswers t [(gridPos u, n)])) ∧
      (∀ t, ownPart w p.1 v (if p.1 = 1 then l else []) = (t, none) → Done p.2 0x5010 0x01 q s t))) ∧
  (∀ (s : State) (x : JobStep) (p n : Nat), s.resetLow = false →
    (s.jobStep = some x → p ∈ x.waiting → x.waiting.length ≥ 2 → ∀ y, y = { x with
        waiting := x.waiting.erase p, answers := x.answers ++ [(p, n)] } →
      exec (.jobStepAnswer [(p, n)]) s = .next { s with jobStep := some y }) ∧
    (s.jobStep = some x → x.waiting = [p] → refusals x.answers = [] → ∃ t, exec (.jobStepAnswer [(p, n)]) s = .next t ∧
      t.jobStep = none ∧ getE t 0x5010 0x03 = (if n = 0 then 2 else 3) ∧ getE t 0x5010 0x04 = 0 ∧
      getE t 0x5010 0x05 = (if n = 0 then 0 else setBit 0 p) ∧ getE t 0x5010 0x06 = (if n = 0 then 0 else p % 64 * 2 ^ 16 + n) ∧
      t = { s with jobStep := none, ent := t.ent }) ∧
    (s.jobStep = some x → p ∉ x.waiting → x.waiting ≠ [] → exec (.jobStepAnswer [(p, n)]) s = .next s) ∧
    (s.jobStep = some x → x.waiting ≠ [] → ∃ t, exec .jobStepTimeout s = .next t ∧ t.jobStep = none ∧ getE t 0x5010 0x03 = 3 ∧
      getE t 0x5010 0x04 = posMask x.waiting ∧ t = { s with jobStep := none, ent := t.ent }) ∧
    (s.jobMember = some x → exec .jobChildWaitExpiry s = .next (answerUp { s with jobMember := none } false x.answers)) ∧
    (s.jobStep = none → s.jobMember = some x → x.waiting = [p] → exec (.jobStepAnswer [(p, n)]) s =
      .next (answerUp { s with jobMember := none } false (x.answers ++ [(p, n)]))))

/-- The end of a teardown: once the loader is idle and no region is open, the package is Clean, with no context, no window, no
memory of the job, no job tag and another tier-1 key. LOAD takes an EMPTY slot and begins the load, whose answer waits; the
load ends in a SWAPPED context, or at the first check that fails, with the slot EMPTY again and the check's code. UNLOAD
begins the unloading of a loaded context, whose end leaves the slot EMPTY. It says where each of these commands completes with
its own effect: load, loadComplete, unload, unloadComplete, teardownComplete. -/
def Obligations.LoadUnloadTeardown : Prop :=
  (∀ s : State, s.resetLow = false → s.mode = .draining → s.loading = none → (loadedCtxs s).all (regionsEnded s) = true →
    s.ctxs.all (fun p => p.2.state != .unloading || regionsEnded s p.1) = true → s.jobStep = none → s.jobMember = none →
    s.jobSeen.any (fun x => x.1 == 5 && x.2.2) = false →
      exec .teardownComplete s = .next (enterClean s) ∧ (enterClean s).mode = .clean ∧ (enterClean s).jobTag = 0 ∧
      (enterClean s).teardown = false ∧ (enterClean s).jobList = [] ∧ (enterClean s).starts = [] ∧
      getE (enterClean s) 0x5000 0x03 = 0 ∧ (∀ st off, sramByte (enterClean s) st off = 0) ∧
      (∀ i, winValid (windowOf (enterClean s) i) = false)) ∧
  (∀ s : State, s.resetLow = false →
    (∀ q u c v w, accepts 0x5030 0x01 q s = true → u = takeRequest s q → v = q.value → c = bits 31 24 v →
      w = modCtx { u with loading := some { slot := c, cls := bits 22 22 v, lengthKib := bits 63 32 v } } c
        (fun x => { x with state := .loading }) →
      (loadMode u = true → (ctxOf u c).state = .empty → s.loading = none → bits 21 0 v = 0 → bits 127 64 v % 4096 = 0 →
        Later (.load q) 0x5030 0x01 q s (if bit 23 v then readHost w (bits 127 64 v) (bits 63 32 v * 1024) else w)) ∧
      (loadMode u = false → exec (.load q) s = .next (refuse (loadRefused u c 1 0x0101 0) q 0x5030 0x01 0x0101)) ∧
      (loadMode u = true → (ctxOf u c).state ≠ .empty ∨ s.loading.isSome = true →
        exec (.load q) s = .next (refuse (loadRefused u c 2 0x0601 0) q 0x5030 0x01 0x0601)) ∧
      (loadMode u = true → (ctxOf u c).state = .empty → s.loading = none → bits 21 0 v ≠ 0 ∨ bits 127 64 v % 4096 ≠ 0 →
        exec (.load q) s = .next (refuse (loadRefused u c 3 0x0302 0) q 0x5030 0x01 0x0302))) ∧
    (∀ img l u, s.loading = some l → u = setCtx { s with loading := none } l.slot Ctx.initial →
      (∀ n code d, loadRefusal u l img = some (n, code, d) → ∃ t, exec (.loadComplete img) s = .next t ∧
        (ctxOf t l.slot).state = .empty ∧ t.loading = none ∧ t = endDeferred (loadRefused u l.slot n code d) 0x5030 0x01 code) ∧
      (∀ m, loadRefusal u l img = none → mapImage u img = some m → exec (.loadComplete img) s = .next (endDeferred
        (loadRecord (loadDone u l img m ((savePlace u (saveNeed m img)).getD 0)) l.slot 0 0 0) 0x5030 0x01 0))) ∧
    (∀ c q u, c < 256 → accepts (0x5100 + c) 0x06 q s = true → u = takeRequest s q →
      (isLoaded (ctxOf s c) = true → Done (.unload c q) (0x5100 + c) 0x06 q s (beginUnload u c) ∧
        (ctxOf (beginUnload u c) c).state = .unloading) ∧
      (isLoaded (ctxOf s c) = false → exec (.unload c q) s = .next (refuse u q (0x5100 + c) 0x06 0x0101))) ∧
    (∀ c, (ctxOf s c).state = .unloading → regionsEnded s c = true → exec (.unloadComplete c) s = .next (releaseCtx s c) ∧
      ctxOf (releaseCtx s c) c = Ctx.initial))

/-! ### Contexts (13 R420 to R441) -/

/-- RESUME of a STOPPED context: every stone goes on behind the instruction where it stopped, or restarts from its last step
mark; a context that is not STOPPED is refused. Slices: a grant makes a READY context RUNNING on its stones with its debt
paid, or is taken whole by a debt that exceeds the slice; an expiry makes the context READY; and the last stone that stops
adds the overrun to the debt. Swapping: the scheduler's choice comes in with its victims going out and its pinned objects
requested; a swap-out that is ready ends with the context SWAPPED, or STOPPED where it was stopped, and not resident; a swap-
in whose fills are done ends with it resident. It says where each of these commands completes with its own effect:
resumeContinue, resumeStepMark, sliceGrant, sliceExpiry, sliceStopComplete, swapInStart, swapOutComplete, swapInComplete. -/
def Obligations.Scheduling : Prop :=
  (∀ (s u : State) (c : Nat) (q : Req), c < 256 → accepts (0x5100 + c) 0x07 q s = true → u = takeRequest s q →
    ((ctxOf s c).state = .stopped → q.value = 0 → Done (.resumeContinue c q) (0x5100 + c) 0x07 q s
      (resumed (forEach u (ctxStones u c) (fun t st => modStoneFor t c st goOnStone)) c)) ∧
    ((ctxOf s c).state = .stopped → q.value = 1 → Done (.resumeStepMark c q) (0x5100 + c) 0x07 q s
      (resumed (forEach u (ctxStones u c) (fun t st => modStoneFor t c st (markStone (hasList u c st)))) c)) ∧
    ((ctxOf s c).state ≠ .stopped → exec (.resumeContinue c q) s = .next (refuse u q (0x5100 + c) 0x07 0x0101) ∧
      exec (.resumeStepMark c q) s = .next (refuse u q (0x5100 + c) 0x07 0x0101)) ∧
    (∀ x : Stone, x.run = .stopped → goOnStone x = { x with run := .running, pc := x.pc + 1, stall := none }) ∧
    (∀ (x : Stone) m, x.mark = some m → (markStone true x).run = .running ∧ (markStone true x).pc = m.pc ∧
      (markStone true x).lc = m.lc ∧ (markStone true x).areg = m.areg ∧ (markStone true x).vl = m.vl)) ∧
  (∀ (s : State) (c : Nat), s.resetLow = false →
    (s.mode = .running → s.power.state = 0 → s.power.entering = none → grantable s c = true →
      s.ctxs.any (fun p => p.1 != c && grantable s p.1 && shareStone s p.1 c && sliceBefore s p.1 c) = false →
      (sliceLength s c < getE s (0x5100 + c) 0x09 → ∃ t, exec (.sliceGrant c) s = .next t ∧
        (ctxOf t c).state = .ready ∧ (ctxOf t c).lastSliceEnd = now s ∧
        getE t (0x5100 + c) 0x09 = getE s (0x5100 + c) 0x09 - sliceLength s c ∧ t = { s with ctxs := t.ctxs, ent := t.ent }) ∧
      (getE s (0x5100 + c) 0x09 ≤ sliceLength s c → ∃ u, u = modCtx (forEach (setE s (0x5100 + c) 0x09 0) (ctxStones s c)
          (fun t st => takeStone t c st)) c (fun x => { x with state := .running, slice := true, sliceStart := now s }) ∧
        exec (.sliceGrant c) s = .next (settle (reissue u c) c))) ∧
    ((ctxOf s c).slice = true → ∃ t, exec (.sliceExpiry c) s = .next t ∧ (ctxOf t c).state = .ready ∧ (ctxOf t c).slice = false ∧
      (ctxOf t c).stopping = true ∧ SameMemory s t ∧ (∀ k, (stoneOf t k).regs = (stoneOf s k).regs)) ∧
    (∀ n, (ctxOf s c).stopping = true → regionsEnded s c = true → ∃ t, exec (.sliceStopComplete c n) s = .next t ∧
      (ctxOf t c).stopping = false ∧ getE t (0x5100 + c) 0x09 = (getE s (0x5100 + c) 0x09 + n) % 2 ^ 32 ∧
      getE t 0xA090 0x06 = (getE s 0xA090 0x06 + n) % 2 ^ 64 ∧ t = { s with ctxs := t.ctxs, ent := t.ent })) ∧
  (∀ s : State, s.resetLow = false →
    (∀ c vs, s.mode = .running → s.power.state = 0 → s.power.entering = none → swapChoice s = some (c, vs) →
      ∃ u, exec .swapInStart s = .next (forEach u (pinnedObjects u c) (fun t o => raiseFetch t c o.1 1 (nextOrd u))) ∧
        u = modCtx (forEach s vs beginSwapOut) c (fun x => { x with state := .swappingIn, runnableSince := none, resumed := false })) ∧
    (∀ c, (ctxOf s c).state = .swappingOut → swapOutReady s c = true → ∃ t, exec (.swapOutComplete c) s = .next t ∧
      ((ctxOf t c).state = .stopped ∨ (ctxOf t c).state = .swapped) ∧ (ctxOf t c).resident = false ∧ (ctxOf t c).stopping = false ∧
      (s.recC.valid = false ∨ s.windowFaultSeen = true →
        (ctxOf t c).state = (if (ctxOf s c).wasStopped then .stopped else .swapped))) ∧
    (∀ c, (ctxOf s c).state = .swappingIn → ((holders s).filter (fun k => k != c)).length < 8 →
      (holders s).all (fun k => k == c || !footprintsMeet s k c) = true → (s.fetchQ ++ s.fetchHeld).all (fun f => f.ctx != c) = true →
      s.fills.all (fun f => f.ctx != c) = true → ∃ u, (ctxOf u c).resident = true ∧ (ctxOf u c).swapInEnd = now s ∧
        (ctxOf u c).savedBytes = [] ∧
        ((ctxOf s c).wasStopped = true → exec (.swapInComplete c) s = .next u ∧ (ctxOf u c).state = .stopped) ∧
        ((ctxOf s c).wasStopped = false → exec (.swapInComplete c) s = .next (finishYield (makeReady u c) c))))

/-! ### Scoring, dispatch and the confluence (02, 03, 04) -/

/-- SUBMIT: a request that fits its layer waits at the lead router of its origin, whose token takes the payload from SRAM, its
generation is open from then on, and the instruction holds an in-flight slot; the routers that score the layer and hold no
share ask for it, which may send LOADs of the millraces and changes nothing else; in product-key mode the request is dealt to
a router at once; a request whose generation is retired or would be a 17th waits in the token buffer and holds its stone; a
request for a layer that is not ready is discarded with class U at its lead router, and its context stops there. The routers:
a free router that holds the share scores the waiting tokens, and nothing but their results and the clamps changes; at a pass
for a layer that is not ready the waiting requests are discarded; a share that has come is held; a token that every router of
its stage has scored goes on to its groups, or to its choice list. A placement block that has come is cached and given to the
tokens that wait for it; one that names no replica, or whose read failed, discards them. It says where each of these commands
completes with its own effect: submit, scoringPass, gateStreamComplete, partialScores, placementBlockRead. -/
def Obligations.Scoring : Prop :=
  (∀ (s : State) (st : Nat) (h : IHdr) (o : Operands) (req recOff hd n lead c : Nat) (k : TokKey),
    req = (reg s st (fld 111 108 o)).toNat → recOff = (reg s st (fld 107 104 o)).toNat → hd = sramNat s st req 16 →
    n = 33 * bits 41 32 hd → k = { ctx := bits 71 64 hd, layer := bits 79 72 hd, gen := bits 95 80 hd, tokenId := bits 127 96 hd } →
    onlyFields [(111, 104)] o = true → req % 16 = 0 → recOff % 16 = 0 → req + (16 + n) ≤ 2 ^ 18 → recOff + 16 ≤ 2 ^ 18 →
    issues s st h [(req, 16 + n)] [(recOff, 16)] = true → leadRouter s (bits 63 52 hd) = some lead → (stoneOf s st).owner = some c →
    (bits 41 32 hd = layerBlocks s k.ctx k.layer → bits 50 42 hd = 0 → bits 14 0 hd = 0 → layerStatus s k.ctx k.layer = 1 →
      badIn s st [(req, 16 + n)] = none →
      (s.toks.filter (fun t => t.lead == lead)).length < 16 → genReady s (bayOf (bits 63 52 hd)) k.ctx k.gen = true →
      ∃ u t x, exec (.submit st h o) s = .next t ∧ t.toks = s.toks ++ [x] ∧ x.key = k ∧ x.lead = lead ∧ x.origin = bits 63 52 hd ∧
        x.payload = sramRead s st (req + 16) n ∧ x.spec = bit 51 hd ∧ x.scored = [] ∧ x.parts = [] ∧ x.recOff = recOff ∧
        x.stepSlot = bits 31 15 hd ∧ x.blocks = bits 41 32 hd ∧ x.dealt = dealRouter s k lead (bits 31 15 hd) ∧
        (∃ g ∈ t.gens, g.bay = bayOf (bits 63 52 hd) ∧ g.ctx = k.ctx ∧ g.gen = k.gen) ∧ (∀ g ∈ s.gens, g ∈ t.gens) ∧
        (∀ i, i ≠ st → stoneOf t i = stoneOf s i) ∧
        stoneOf t st = { stoneOf s st with
          stall := none, pc := (stoneOf s st).pc + 1,
          inflight := (stoneOf s st).inflight ++ [{ pc := (stoneOf s st).pc, kind := 6, srcs := [(req, 16 + n)],
                                                    dsts := [(recOff, 16)], signal := sigOf h }] } ∧
        x.waits = false ∧ t = askStreams u k.ctx k.layer ∧ u = { s with stones := t.stones, toks := t.toks, gens := t.gens } ∧
        t = { u with routers := t.routers, senders := t.senders, injQ := t.injQ, stalledInj := t.stalledInj, ent := t.ent } ∧
        SameEntriesBut [(0x2052, getE s 0x2050 0x03 % 4 + 1)] s t) ∧
    (bits 41 32 hd = layerBlocks s k.ctx k.layer → bits 50 42 hd = 0 → bits 14 0 hd = 0 → layerStatus s k.ctx k.layer = 1 →
      badIn s st [(req, 16 + n)] = none →
      (s.toks.filter (fun t => t.lead == lead)).length < 16 → genReady s (bayOf (bits 63 52 hd)) k.ctx k.gen = false →
      ∃ u x, exec (.submit st h o) s = .next (stallOn u st .generation) ∧ u.toks = s.toks ++ [x] ∧ x.key = k ∧ x.waits = true ∧
        (stoneOf u st).pc = (stoneOf s st).pc + 1 ∧ u = { s with stones := u.stones, toks := u.toks }) ∧
    (layerStatus s k.ctx k.layer ≠ 1 → exec (.submit st h o) s =
      .next (raise (count (stopAt (issued s st) c st) 0xA020 0x04) [mkFault 1 0x12 2 lead (some c) (16 * (stoneOf s st).pc)]))) ∧
  (∀ s : State, s.resetLow = false →
    (∀ bay c n g sh t0, hasShare s bay c n = some sh → (routerOf s bay).fenced = false → layerStatus s c n = 1 → t0 ∈ s.toks →
      t0.key.ctx = c → t0.key.layer = n → t0.key.gen = g → waitsFor s bay t0 = true →
      ∃ t, exec (.scoringPass bay c n g .clean) s = .next t ∧ t = passTokens s bay c n g sh ∧
        t.toks.map (·.key) = s.toks.map (·.key) ∧ t = { s with toks := t.toks, ent := t.ent } ∧ SameEntriesBut [(0xA020, 2)] s t) ∧
    (∀ bay c n g r, layerStatus s c n ≠ 1 → exec (.scoringPass bay c n g r) s = .next (discardWaiting s bay c n g) ∧
      ((∀ x ∈ s.toks, x.key.ctx = c → x.key.layer = n → x.key.gen = g → x.waits = true) → exec (.scoringPass bay c n g r) s = .next s)) ∧
    (∀ bay c n e g ps keep, (routerOf s bay).fenced = false → gatherOf s bay c n = some g → g.failed = false → g.want = 0 →
      g.reads.all (fun x => isFar s x.2.1) = true → layerSet s c n 0x06 = 0 → layerSet s c n 0x0E = 0 →
      makeRoom s bay (shareBytes s c n) = some keep → ps = g.reads.map (fun x => (x.1, gotBytes g.got x.1 x.2.2)) →
      ∃ t, exec (.gateStreamComplete bay c n e) s = .next t ∧ t = { s with routers := t.routers } ∧
        (routerOf t bay).shares = keep ++
          [{ ctx := c, layer := n, img := spreadParts 0 (gateValues s c n + gateValues s c n / 32) ps, bias := [] }] ∧
        (c, n) ∉ (routerOf t bay).streaming ∧ gatherOf t bay c n = none ∧ ∀ b, b ≠ bay → routerOf t b = routerOf s b) ∧
    (∀ bay c n e g v dead, (routerOf s bay).fenced = false → gatherOf s bay c n = some g → g.failed = true →
      g.reads.all (fun x => isFar s x.2.1) = true →
      v = raise (setRouter s bay (endStream (routerOf s bay) c n)) [mkFault 1 0x11 2 bay (some c) 0] →
      dead = v.toks.filter (fun t => t.key.ctx == c && t.key.layer == n && waitsFor v bay t) →
      exec (.gateStreamComplete bay c n e) s = .next (forEach { v with toks := v.toks.filter (fun t => !dead.contains t) } dead
        (fun u t => discardRequest u bay t.stone t.pc t.recOff))) ∧
    (∀ (k : TokKey) (t : Tok), s.toks.find? (fun t => t.key == k) = some t → stageDone s t = true →
      (layerSet s k.ctx k.layer 0x01 = 2 → t.chosen = none → exec (.partialScores k) s = .next (askStreams { s with
        toks := mapWhere s.toks (· == t) (fun t => { t with chosen := some (t.gparts.map (·.id)) }) } k.ctx k.layer)) ∧
      (layerSet s k.ctx k.layer 0x01 ≠ 2 ∨ t.chosen.isSome → exec (.partialScores k) s = .next (formChoices s t))) ∧
    (∀ bay c n e status block u, s.blocksReading.contains (c, n, e, bay) = true → pondPos (blockAddr s c n e) ≠ gridPos s →
      managementOut s (tableTag c n e) = 0 → u = { s with blocksReading := s.blocksReading.filter (· != (c, n, e, bay)) } →
      (status = 0 → replicaCount block ≠ 0 → exec (.placementBlockRead bay c n e status block) s =
        .next (giveBlock (cacheBlock u bay c n e block) bay c n e true block)) ∧
      (status ≠ 0 → exec (.placementBlockRead bay c n e status block) s = .next (giveBlock u bay c n e false []))))

/-- The choice of the k best: they stand in the order of their scores with the lower id first among equals, there are k of
them or all, and none that was left out stands before one that was taken. -/
def Obligations.BestChoices : Prop := ∀ (k : Nat) (l : List Cand),
    (topK k l).length = min k l.length ∧ (topK k l).Pairwise (fun a b => candBefore b a = false) ∧ (topK k l).Sublist (topK l.length l) ∧
      (topK l.length l).Perm l ∧ topK k l = (topK l.length l).take k

/-- Claims and the admission: claims that arrive are held and acknowledged on class 4; an acknowledgement ends the wait for
its bundle; a package whose claims of a layer and generation have all gone joins the barrier of group 255; the ledgers decide
once it completes with status 0, and discard the claims, with a class U fault, once it has aborted. The first pass of an
admission and its slack pass: the choices keep their order; no replica runs more than CAPACITY of them, no more new choices
are spilled than slots are free, a speculative choice is never spilled, a new choice of a replica that is not available is
dropped, and no replica's slack pass takes more than SLACK; a carried choice whose replica is not available is neither charged
nor run. It says where each of these commands completes with its own effect: claimBundle, claimBundleAck,
admissionBarrierJoin, admission, admissionAbort. -/
def Obligations.Admission : Prop :=
  (∀ s : State, s.resetLow = false →
    (∀ src x cs t, (∀ y ∈ x :: cs, barrierEnded s y.choice.ctx y.choice.layer y.choice.gen (· != 0) = false) →
      t = takeClaims s (x :: cs) → exec (.claimBundle src (x :: cs)) s =
        .next (inject t (wytheOf x.rep.firstStone) (mkPacket t src 4 1 x.choice.originStone 0 [])) ∧
      t.claims = s.claims ++ x :: cs ∧ t = { s with claims := t.claims, fetchQ := t.fetchQ, fetchHeld := t.fetchHeld }) ∧
    (∀ c n g home, exec (.claimBundleAck c n g home) s =
      .next { s with bundles := s.bundles.erase { ctx := c, layer := n, gen := g, home := home } }) ∧
    (∀ c n g, claimsSent s c n g = true → groupE s c 255 6 = 1 →
      s.barriers.any (fun b => b.ctx == c && b.layer == n && b.gen == g && (b.joined || b.result.isSome)) = false →
      ∃ u co, exec (.admissionBarrierJoin c n g) s = .next (openColl u co) ∧ co.desc.cop = 7 ∧
        co.key = { ctx := c, group := 255, seq := 2 ^ 32 + n % 256 * 65536 + g % 65536 } ∧ co.n = (groupList s c 255).length ∧
        co.rank = groupE s c 255 7 ∧ u = { s with barriers := u.barriers } ∧
        { ctx := c, layer := n, gen := g, joined := true, result := none, fencedAt := [], ended := false } ∈ u.barriers) ∧
    (∀ c n g, (barrierOver s c n g 0 = true → exec (.admission c n g) s = .next (admitChoices s c n g)) ∧
      (barrierOver s c n g 0 = false → exec (.admission c n g) s = .next s)) ∧
    (∀ c n g code, (code = 0x0701 ∨ code = 0x0704) → barrierOver s c n g code = true →
      ∃ u, exec (.admissionAbort c n g code) s = .next (raise u [mkFault 1 0x14 2 0 (some c) code]) ∧
        (∀ x ∈ u.claims, isClaimOf c n g x = false) ∧ (∀ x, isClaimOf c n g x = false → (x ∈ u.claims ↔ x ∈ s.claims)) ∧
        (∀ x ∈ u.gens, x.ctx = c → x.gen = g → x.forced = true) ∧ u.admitted = s.admitted ∧ u.toks = s.toks)) ∧
  (∀ (fenced : List Nat) (cap slack free : Nat) (l r q : List Adm), r = admitPass fenced cap l [] free → q = slackPass slack r [] →
    r.map (fun x => (x.a, x.carried)) = l.map (fun x => (x.a, x.carried)) ∧
    (∀ k, (r.filter (fun x => x.out == 0 && repKey x.a.claim.choice == k)).length ≤ cap) ∧
    (r.filter (fun x => !x.carried && x.out == 1)).length ≤ free ∧
    (∀ x ∈ r, x.carried = false → (x.out = 0 ∨ x.out = 1 ∨ x.out = 4 ∨ x.out = 5 ∨ x.out = 6) ∧
      (x.a.claim.choice.spec = true → x.out ≠ 1 ∧ x.out ≠ 4) ∧ (x.out = 6 ↔ repAvailable fenced x.a.claim.rep = false)) ∧
    (∀ x ∈ r, x.carried = true → x.out = 0 ∨ x.out = 1 ∨ x.out = 7) ∧
    (∀ x ∈ r, x.carried = true → x.a.ran = false → (x.out = 7 ↔ (repAvailable fenced x.a.claim.rep = false ∨ x.a.claim.choice.status = 7))) ∧
    q.map (fun x => (x.a.claim, x.out)) = r.map (fun x => (x.a.claim, x.out)) ∧
    (∀ x ∈ q, x.a.part = (if x.out = 1 then x.a.part else 0) ∧ (x.out = 1 → x.a.part = 1 ∨ x.a.part = 2)) ∧
    (∀ k, (q.filter (fun x => x.out == 1 && x.a.part == 1 && repKey x.a.claim.choice == k)).length ≤ slack))

/-- What reaches a confluence or a ledger: verdicts, token copies, returns, miss notices, and a return that does not come in
time. A return that is not wanted is dropped and, once it has come whole, counted; its bytes go nowhere, and a rank that
waited for it waits no longer. It says where each of these commands completes with its own effect: verdictBundle, tokenCopy,
missNotice, returnPacket, returnTimeoutExpiry. -/
def Obligations.ConfluenceEvents : Prop := ∀ s : State, s.resetLow = false →
    (∀ src cs, exec (.verdictBundle src cs) s = .next (takeVerdicts s src cs)) ∧
    (∀ src v k c x r, k = ({ ctx := v.ctx, layer := v.layer, gen := v.gen, tokenId := v.tokenId } : TokKey) →
      s.confs.filter (fun f => f.key == k) = [c] → c.weights = none → c.done = false → c.added = 0 → x = rankOf c v.rank →
      x.verdict = none → v.status ≠ 7 → r ∈ ranksAt c src → r ≠ v.rank → (rankOf c r).verdict = none →
      exec (.verdictBundle src [v]) s =
        .next (freeGens (modConf s k (fun f => setRank f v.rank { x with verdict := some v.status })))) ∧
    (∀ src d pay, (d.resend = false ∨ d.alternate = false ∨ weightsPresent s d.ctx d.layer d.targetStone = true →
        exec (.tokenCopy src d pay) s = .next (acceptCopy s src d pay)) ∧
      (d.resend = true → d.alternate = true → weightsPresent s d.ctx d.layer d.targetStone = false →
        exec (.tokenCopy src d pay) s = .next (sendChoices s src 4 2 0 ((resentEntries s src d).map (·.claim.choice)))) ∧
      (d.resend = false → s.admitted.any (fun a => matchQueued d a || matchSpilled d a) = false →
        exec (.tokenCopy src d pay) s = .next (count s 0xA021 0x08)) ∧
      (d.resend = false → s.admitted.any (matchQueued d) = false → s.admitted.any (matchSpilled d) = true →
        exec (.tokenCopy src d pay) s = .next (placeCopy s none src d pay)) ∧
      (∀ bay b u, d.resend = false → copyBay s d = some bay → takeBuffer s bay 0 pay.length (fanCount d) (.copy src d pay) = (u, some b) →
        exec (.tokenCopy src d pay) s = .next (placeCopy u (some b) src d pay))) ∧
    (∀ h pay need x, need = cdiv (returnBytes s h) 8192 → x = ((confOf s (retKey h)).map (fun c =>
        if c.bay = bayOf h.originStone then rankOf c h.rank else Rank.initial)).getD Rank.initial →
      (returnUnwanted s h = true → rankOutstanding x = false →
        exec (.returnPacket h pay) s = .next (if need ≤ h.segment + 1 then count s 0xA021 0x08 else s)) ∧
      (returnUnwanted s h = true → rankOutstanding x = true → x.buf = none → x.segs = [] → need ≤ 1 →
        exec (.returnPacket h pay) s = .next (freeGens (count (modConf s (retKey h) (fun c => setRank c h.rank
          { x with segs := [(h.segment, [])], buf := none, lost := true })) 0xA021 0x08))) ∧
      (∀ c b, returnUnwanted s h = false → confOf s (retKey h) = some c → (rankOf c h.rank).buf = some b →
        exec (.returnPacket h pay) s = .next (placeReturn s b.toNat h pay)) ∧
      (∀ c b u, returnUnwanted s h = false → confOf s (retKey h) = some c → (rankOf c h.rank).buf = none →
        takeBuffer s c.bay 1 (returnBytes s h) 1 (.ret h pay) = (u, some b) →
        exec (.returnPacket h pay) s = .next (placeReturn u b h pay))) ∧
    (∀ k rank b, exec (.missNotice k rank b) s = .next (takeMiss s k rank)) ∧
    (∀ k rank b, ((confOf s k).any (fun c => isDelivered (rankOf c rank) && !(rankOf c rank).complete)) = false →
      exec (.missNotice k rank b) s = .next s) ∧
    (∀ k rank b c, confOf s k = some c → isDelivered (rankOf c rank) = true → (rankOf c rank).complete = false → c.alternates = [] →
      exec (.missNotice k rank b) s = .next (freeGens (exhaustRank s k rank))) ∧
    (∀ k rank c u, confOf s k = some c → rankOutstanding (rankOf c rank) = true → c.done = false → c.added ≤ c.choices.length →
      u = modConf s k (fun c => setRank c rank { rankOf c rank with closed := true }) →
      exec (.returnTimeoutExpiry k rank) s = .next (freeGens (advance (modConf
        (raise (count u 0xA021 0x09) [mkFault 1 0x15 2 c.bay (some k.ctx) k.tokenId]) k (fun c => { c with timedOut := true })) k)))

/-- RUN waits at its stone for a batch; a part of a run falls due, misses its deadline or takes its shadow; the carry run
falls due; a RUN completes with what the ledger stages for it; and RETURN sends the rows of a batch table. It says where each
of these commands completes with its own effect: ret, expertRun, runPartDue, missGraceExpiry, expertRunComplete,
carryWaitExpiry. -/
def Obligations.ExpertRuns : Prop := ∀ s : State,
    (∀ st h o stage slice table m c e len, stage = (reg s st (fld 103 100 o)).toNat → slice = (reg s st (fld 99 96 o)).toNat →
      table = (reg s st (fld 91 88 o)).toNat → m = fld 95 92 o + 1 → (stoneOf s st).owner = some c → e = ({
        pc := (stoneOf s st).pc, layer := fld 111 104 o, stage := stage, block0 := bits 31 16 slice, blocks := bits 15 0 slice,
        maxBatch := m, table := table, signal := sigOf h } : ERun) →
      len = m * rowStride (sliceBlocks s c e.layer e) → onlyFields [(111, 88)] o = true → stage % 64 = 0 → table % 16 = 0 →
      stage + len ≤ 2 ^ 18 → table + (16 + 16 * m) ≤ 2 ^ 18 → issues s st h [] [(stage, len), (table, 16 + 16 * m)] = true →
      exec (.expertRun st h o) s = .next (modStone (takeSlot (issued s st) st 6 [] [(stage, len), (table, 16 + 16 * m)] h) st
        (fun x => { x with eruns := x.eruns ++ [e] }))) ∧
    (∀ c n first r, s.resetLow = false → runOf s c n first = some r → r.due = false → r.ended = false → r.part = 0 →
      (untaken s r 0).any (·.arrived) = true → (runsOn s c n first).isEmpty = false → ∀ u b, b = !weightsPresent s c n first →
      u = modRun s c n first (fun _ => { r with due := true, missed := b }) →
      exec (.runPartDue c n first) s = .next (if b then count u 0xA030 0x04 else u)) ∧
    (∀ c n first r u, s.resetLow = false → runOf s c n first = some r → r.due = true → r.missed = true → r.graceOver = false →
      weightsPresent s c n first = false → u = modRun s c n first (fun r => { r with graceOver := true }) →
      (layerSet s c n 0x18 = 0 → exec (.missGraceExpiry c n first) s = .next u) ∧
      (layerSet s c n 0x18 = 1 → (replicaObj s c n first).any (fun p => p.2.shadow != 0xFFFF) = true →
        exec (.missGraceExpiry c n first) s = .next (count (modRun u c n first (fun r => { r with shadow := true })) 0xA030 0x06))) ∧
    (∀ c n first r, s.resetLow = false → runOf s c n first = some r → unfinished s r (fun p => decide (p < 2)) = false →
      (untaken s r 2).isEmpty = false →
      exec (.carryWaitExpiry c n first) s = .next (modRun s c n first (fun r => { advPart s r with carryDue := true }))) ∧
    (∀ st cycles t, s.resetLow = false → t = stageRun s st → t ≠ s →
      exec (.expertRunComplete st cycles) s = .next (countBy t 0xA030 0x05 cycles)) ∧
    (∀ st h o out table hd n c row, out = (reg s st (fld 111 108 o)).toNat → table = (reg s st (fld 107 104 o)).toNat →
      hd = sramNat s st table 16 → n = bits 15 8 hd → (stoneOf s st).owner = some c →
      row = layerSet s c (bits 55 48 hd) 0x03 * (if layerSet s c (bits 55 48 hd) 0x17 = 1 then 4 else 2) →
      onlyFields [(111, 104)] o = true → out + n * row ≤ 2 ^ 18 → table + (16 + 16 * n) ≤ 2 ^ 18 →
      issues s st h [(out, n * row), (table, 16 + 16 * n)] [] = true → badIn s st [(out, n * row), (table, 16 + 16 * n)] = none →
      exec (.ret st h o) s = .next (completeNow (forEach (issued s st)
        ((List.range n).map (fun i => (sramNat s st (table + 16 + 16 * i) 16, sramRead s st (out + i * row) row)))
        (fun t j => sendReturn t st c (layerSet s c (bits 55 48 hd) 0x17) (bit 5 hd) j.1 j.2)) st h))

/-- FETCH raises a request of class 3 or merges it into the queued one, holds its stone while the millrace has no room, and
completes at once for an object that has no window; FLUSH completes at once where the object has nothing to write back, and
otherwise when its granules have reached HOME; KV_COMMIT advances a watermark or raises KV_WATERMARK; RETIRE retires its
generation or waits; ACCEPT cancels the speculative tokens above its token id. The dictionary writes of these chapters:
retiring a generation, which is refused with 0x0601 while a committed token of it is incomplete; abandoning stranded ranks; a
placement update, which starts its store at the home of its table and is refused with 0x0601 while one of its expert has not
taken effect, and its end, once the home has answered; and the deadline policy. It says where each of these commands completes
with its own effect: fetch, flush, kvCommit, retire, accept, retireGeneration, abandonStranded, placementUpdate,
placementStoreComplete, deadlinePolicyWrite. -/
def Obligations.ExpertInstructionsAndWrites : Prop :=
  (∀ (s : State) (st : Nat) (h : IHdr) (o : Operands) (c : Nat) (u : State), issues s st h [] [] = true →
    (stoneOf s st).owner = some c → u = issued s st →
    (∀ n, onlyFields [(15, 0)] o = true → n = fld 15 0 o → n < objCount s c →
      ((objOf s c n).valid = true → (objOf s c n).mode ≠ 2 →
        (millraceQ s (wytheOf (objOf s c n).firstStone)).length < 1024 ∨ s.fetchQ.any (isFetchOf c n) = true →
        exec (.fetch st h o) s = .next (completeNow (raiseFetch u c n 3 (nextOrd u)) st h) ∧
        (raiseFetch u c n 3 (nextOrd u)).fetchQ.any (fun f => f.ctx == c && f.obj == n && decide (f.cls ≤ 3)) = true) ∧
      ((objOf s c n).valid = true → (objOf s c n).mode ≠ 2 →
        1024 ≤ (millraceQ s (wytheOf (objOf s c n).firstStone)).length → s.fetchQ.any (isFetchOf c n) = false →
        exec (.fetch st h o) s = .next (stallOn u st .fetchQueue)) ∧
      ((objOf s c n).valid = false ∨ (objOf s c n).mode = 2 → exec (.fetch st h o) s = .next (completeNow u st h)) ∧
      ((writeBack u c n).writebacks.contains (c, n) = false → exec (.flush st h o) s = .next (completeNow (writeBack u c n) st h)) ∧
      ((writeBack u c n).writebacks.contains (c, n) = true →
        exec (.flush st h o) s = .next (takeSlot (writeBack u c n) st 8 [(n, 0)] [] h))) ∧
    (∀ w i d, onlyFields [(111, 104)] o = true → w = bits 24 0 (reg s st (fld 111 108 o)).toNat →
      i = bits 15 0 (reg s st (fld 107 104 o)).toNat → i < getC s c 0x4020 0x02 → pondNat s (kvStreamAddr s c i) 16 = some d →
      kvValid d = true →
      (∀ t, kvAdvance u c i w = some t → exec (.kvCommit st h o) s = .next (completeNow t st h)) ∧
      (w < kvWatermark d ∨ 16777216 < w → exec (.kvCommit st h o) s =
        .next (completeNow (raise u [mkFault 1 0x16 0 st (some c) (16 * (stoneOf s st).pc)]) st h))) ∧
    (∀ g, onlyFields [(111, 108)] o = true → g = bits 15 0 (reg s st (fld 111 108 o)).toNat →
      (∀ t, retireGen u c g = some t → exec (.retire st h o) s = .next (completeNow t st h)) ∧
      (retireGen u c g = none → exec (.retire st h o) s = .next (stallOn u st .retireBusy))) ∧
    (∀ g a, onlyFields [(111, 104)] o = true → g = bits 15 0 (reg s st (fld 111 108 o)).toNat →
      a = (reg s st (fld 107 104 o)).toNat → ∃ t, exec (.accept st h o) s = .next (completeNow t st h) ∧ (c, g, a) ∈ t.cancels ∧
        t = { u with cancels := t.cancels } ∧ (∀ x, x ≠ (c, g, a) → (x ∈ t.cancels ↔ x ∈ s.cancels)) ∧
        ∀ k, k.ctx = c → k.gen = g → (a < k.tokenId → isCancelled t k true = true) ∧ isCancelled t k false = false)) ∧
  (∀ (s u : State) (q : Req), u = takeRequest s q →
    (accepts 0x6012 0x01 q s = true →
      (∀ t, retireGen u (bits 23 16 q.value) (bits 15 0 q.value) = some t → Done (.retireGeneration q) 0x6012 0x01 q s t) ∧
      (retireGen u (bits 23 16 q.value) (bits 15 0 q.value) = none →
        exec (.retireGeneration q) s = .next (refuse u q 0x6012 0x01 0x0601))) ∧
    (accepts 0x6012 0x02 q s = true →
      Done (.abandonStranded q) 0x6012 0x02 q s (abandonStranded u (bits 15 8 q.value) (bits 7 0 q.value))) ∧
    (∀ c n e b a w, accepts 0x6014 0x02 q s = true → c = bits 63 56 q.value → n = bits 55 48 q.value → e = bits 47 32 q.value →
      b = unpackBlock (toLE 64 (getE u 0x6014 0x01)) → a = blockAddr u c n e →
      w = { u with pupdates := u.pupdates.filter (fun v => !(v.ctx == c && v.layer == n && v.expert == e)) ++
        [{ ctx := c, layer := n, expert := e, gen := bits 31 16 q.value, block := b, old := heldBlock u c n e, answer := none,
           stored := false, effective := false }] } →
      (layerSet s c n 0x01 ≠ 0 → e < layerSet s c n 0x02 → blockOk b = true → blockInJob u b = true → staticOk u c n e b = true →
        u.pupdates.any (fun x => x.ctx == c && x.layer == n && x.expert == e && !x.effective) = false →
        Later (.placementUpdate q) 0x6014 0x02 q s
          (if isFar u a then unitRequests w 3 0 (storeReqs w (tableTag c n e) a (toLE 64 (getE u 0x6014 0x01))) else w)) ∧
      (layerSet s c n 0x01 ≠ 0 → e < layerSet s c n 0x02 → blockOk b = true → blockInJob u b = true → staticOk u c n e b = true →
        u.pupdates.any (fun x => x.ctx == c && x.layer == n && x.expert == e && !x.effective) = true →
        exec (.placementUpdate q) s = .next (refuse u q 0x6014 0x02 0x0601)) ∧
      (layerSet s c n 0x01 = 0 ∨ layerSet s c n 0x02 ≤ e ∨ blockOk b = false →
        exec (.placementUpdate q) s = .next (refuse u q 0x6014 0x02 0x0302))) ∧
    (∀ c n e x status own, s.resetLow = false →
      s.pupdates.find? (fun u => u.ctx == c && u.layer == n && u.expert == e && !u.stored) = some x →
      isFar s (blockAddr s c n e) = true →
      (x.answer = none → exec (.placementStoreComplete c n e own) s = .next s) ∧
      (x.answer = some 0 → s.confs = [] → exec (.placementStoreComplete c n e own) s = .next (endDeferred (setPlaced { s with
        pupdates := mapWhere s.pupdates (· == x) (fun u => { u with stored := true, gen := x.gen }) } c n e x.block) 0x6014 0x02 0)) ∧
      (x.answer = some 4 → exec (.placementStoreComplete c n e own) s =
        .next (endDeferred { s with pupdates := s.pupdates.erase x } 0x6014 0x02 0x0602)) ∧
      (x.answer = some status → status ≠ 0 → status ≠ 4 → exec (.placementStoreComplete c n e own) s =
        .next (endDeferred { s with pupdates := s.pupdates.erase x } 0x6014 0x02 0x0302))) ∧
    (∀ n c, n < 256 → accepts (0x6100 + n) 0x18 q s = true → c = viewCtx u (0x6100 + n) 0x18 q →
      ∃ t, Done (.deadlinePolicyWrite n q) (0x6100 + n) 0x18 q s t ∧ layerSet t c n 0x18 = q.value ∧ t = { u with ent := t.ent } ∧
        ∀ k i j, ekey k i j ≠ ekey c (0x6100 + n) 0x18 → getC t k i j = getC u k i j))

/-! ### Memory tiers and pools (04, 09) -/

/-- The millrace: the request it serves next leaves the queue, which a held one then enters; a window that is present is a
hit, and otherwise the earlier occupants are dealt with and the fill begins at the object's home. A fill whose second reads
are good leaves the window present, with a fault for each granule that failed once; one with a second bad read leaves its
object bad and strands the choices that wait for it. The end of a write-back, once every STORE of it is answered, ends the
FLUSH instructions that wait for it. PLACE_OBJECT is refused as read-only under static placement, as busy while the object is
in use, and otherwise replaces it. The paged KV cache: a write to a position below the watermark is discarded, counted and a
class U fault; one to a page that is there is stored in it, by STOREs where the page lies in another package; one that finds
its pool empty waits and blocks its stone. The watermark only rises. The pool's TAIL is set below its ENTRIES, and released
provisional pages go back. It says where each of these commands completes with its own effect: fillStart, fillComplete,
writebackComplete, placeObject, flushObject, kvWrite, setWatermark, releaseProvisional, kvPoolTail. -/
def Obligations.FillsAndKvCache : Prop :=
  (∀ s : State, s.resetLow = false →
    (∀ w f k u, nextFetch s w = some f → k = winKey f.ctx f.obj →
      u = count (feedFetch { s with fetchQ := s.fetchQ.erase f } w) 0xA030 0x01 →
      ((winOf u k).present = true → exec (.fillStart w f.ctx f.obj) s =
        .next (count (setWin u k { winOf u k with held := runHolds u f.ctx f.obj }) 0xA030 0x02)) ∧
      ((winOf u k).present = false → (occupants u f.ctx f.obj).filter (fun o => (winOf u (winKey o.1 o.2)).present) = [] →
        exec (.fillStart w f.ctx f.obj) s = .next (beginFill u w f.ctx f.obj))) ∧
    (∀ w c n f bytes bad d k bs t₀ u v, s.fills.find? (fun f => f.ctx == c && f.obj == n) = some f → d = objOf s c n →
      wytheOf d.firstStone = w → k = winKey c n → fillBytes s w f d bytes = some (some bs, t₀) →
      (winOf t₀ k).bad = false → bad.any (·.2) = false →
      u = forEach { t₀ with fills := t₀.fills.erase f } (bad.map (fun g => g.1 * 1024)) (fun x off =>
        raise x [mkFault 1 0x21 5 (homeChannel x d off) (some c) (d.home + off)]) →
      (winOf u k).bad = false → (ctxOf u c).state ≠ .swappingIn →
      v = forEach (fillWindow u d bs) (occupants (fillWindow u d bs) c n) (fun x o =>
        setWin x (winKey o.1 o.2) { winOf x (winKey o.1 o.2) with present := false }) →
      ∃ t, exec (.fillComplete w c n bad bytes) s = .next t ∧
        t = countBy (setWin v k { winOf v k with
          present := true, held := decide ((ctxOf v c).state ≠ .swappingOut) && runHolds v c n }) 0xA030 0x03 (d.sizeKib * 1024) ∧
        (winOf t k).present = true ∧ t.fills = u.fills) ∧
    (∀ w c n f bytes g d k bs t₀ u, s.fills.find? (fun f => f.ctx == c && f.obj == n) = some f → d = objOf s c n →
      wytheOf d.firstStone = w → k = winKey c n → fillBytes s w f d bytes = some (some bs, t₀) →
      u = raise { t₀ with fills := t₀.fills.erase f }
        [mkFault 1 0x21 5 (homeChannel { t₀ with fills := t₀.fills.erase f } d (g * 1024)) (some c) (d.home + g * 1024)] →
        exec (.fillComplete w c n [(g, true)] bytes) s = .next (strandChoices
          (setWin u k { winOf u k with bad := true, present := false, held := false })
          (fun a => a.claim.choice.ctx == c && a.claim.choice.layer == d.layer && a.claim.rep.firstStone == d.firstStone &&
            d.kind == 0))) ∧
    (∀ c n u, laneOut s (wytheOf (objOf s c n).firstStone) (winKey c n) 1 = 0 →
      u = forEach { s with writebacks := s.writebacks.filter (· != (c, n)) }
        (flushWaits { s with writebacks := s.writebacks.filter (· != (c, n)) } c n) (fun t p => completeSlot t p.1 p.2.pc 8 p.2.signal) →
      ((winOf u (winKey c n)).bad = false → exec (.writebackComplete c n) s = .next u) ∧
      ((winOf u (winKey c n)).bad = true → exec (.writebackComplete c n) s = .next (strandObject u c (objOf u c n)))) ∧
    (∀ q u c d old, u = takeRequest s q → accepts 0x4012 0x01 q s = true → c = viewCtx u 0x4012 0x01 q → d = unpackObj (getE u 0x4012 0x02) →
      old = objOf u c q.value →
        (getE u 0x4001 0x01 = 0 → exec (.placeObject q) s = .next (refuse u q 0x4012 0x01 0x0201)) ∧
        (getE u 0x4001 0x01 ≠ 0 → objCount u c ≤ q.value → exec (.placeObject q) s = .next (refuse u q 0x4012 0x01 0x0302)) ∧
        (getE u 0x4001 0x01 ≠ 0 → q.value < objCount u c →
          (old.valid = true ∧ old.mode = 0 ∧ (ctxOf u c).resident = true) ∨ (winOf u (winKey c q.value)).held = true ∨
            u.writebacks.contains (c, q.value) = true →
          exec (.placeObject q) s = .next (refuse u q 0x4012 0x01 0x0601)) ∧
        (∀ v x away, getE u 0x4001 0x01 ≠ 0 → q.value < objCount u c → (old.valid = false ∨ (old.mode = 0 ∧ (ctxOf u c).resident = false)) →
          (winOf u (winKey c q.value)).held = false → u.writebacks.contains (c, q.value) = false → d.valid = false → d.resv = 0 →
          away = (fun g : Nat × Nat => old.valid && (windowUse [(q.value, old)]).any (useMeets (g.1, g.2, 1))) →
          v = modCtx u c (fun x => { x with
            intact := x.intact.filter (fun g => !away g), savedPinned := x.savedPinned.filter (fun g => !away g) }) →
          x = memWrite v (getC v c 0x4010 0x01 + 32 * q.value) (toLE 32 (packObj d)) →
          Done (.placeObject q) 0x4012 0x01 q s (setWin x
            (winKey c q.value) { winOf x (winKey c q.value) with bad := false, present := false }))) ∧
    (∀ q u, u = takeRequest s q → accepts 0x4014 0x01 q s = true → getE u 0x4001 0x01 ≠ 0 → q.value < objCount u (viewCtx u 0x4014 0x01 q) →
      (objOf u (viewCtx u 0x4014 0x01 q) q.value).valid = true →
      Done (.flushObject q) 0x4014 0x01 q s (writeBack u (viewCtx u 0x4014 0x01 q) q.value))) ∧
  (∀ (s : State) (c d : Nat), s.resetLow = false →
    (∀ st i pos off bs, (stoneOf s st).owner = some c → pondNat s (kvStreamAddr s c i) 16 = some d →
      (pos < kvWatermark d → exec (.kvWrite st i pos off bs) s =
        .next (raise (count s 0xA030 0x0C) [mkFault 1 0x16 0 st (some c) (i * 2 ^ 32 + pos)])) ∧
      (∀ e a, kvWatermark d ≤ pos → pondNat s (kvEntryAddr d (pos / 64)) 8 = some e → kvState e ≠ 0 →
        a = kvPageAddr e + pos % 64 * 16 * kvPageKib d + off →
        (isFar s a = true → exec (.kvWrite st i pos off bs) s = .next (unitRequests s 3 0 (storeReqs s 0 a bs))) ∧
        (∀ t, isFar s a = false → pondWrite s a bs = some t →
          exec (.kvWrite st i pos off bs) s = .next (passPieces t (wytheOf st) a bs.length winWrite storePass))) ∧
      (∀ e, kvWatermark d ≤ pos → pondNat s (kvEntryAddr d (pos / 64)) 8 = some e → kvState e = 0 → kvTake s c d = none →
        exec (.kvWrite st i pos off bs) s = .next (stallOn { s with
          kvWaits := s.kvWaits ++ [{ ctx := c, stone := st, stream := i, pos := pos, off := off, bytes := bs }] } st .kvPool))) ∧
    (∀ q u i w, u = takeRequest s q → accepts 0x4026 0x01 q s = true → c = viewCtx u 0x4026 0x01 q → i = bits 15 0 q.value →
      w = bits 56 32 q.value → pondNat u (kvStreamAddr u c i) 16 = some d →
      (i < getC u c 0x4020 0x02 → kvValid d = true → (∀ t, kvAdvance u c i w = some t → Done (.setWatermark q) 0x4026 0x01 q s t) ∧
        (w < kvWatermark d ∨ 16777216 < w → exec (.setWatermark q) s = .next (refuse u q 0x4026 0x01 0x0302))) ∧
      (getC u c 0x4020 0x02 ≤ i ∨ kvValid d = false → exec (.setWatermark q) s = .next (refuse u q 0x4026 0x01 0x0302))) ∧
    (∀ q u r a, u = takeRequest s q → accepts 0x4023 0x00 q s = true → c = viewCtx u 0x4023 0x00 q →
      a = kvPoolAddr u c (bits 31 24 q.value) → pondNat u a 16 = some r →
      (u.kvWaits = [] → bits 23 0 q.value < kvEntries r →
        Done (.kvPoolTail q) 0x4023 0x00 q s (pondPut u a 16 (kvPoolWith r (kvHead r) (bits 23 0 q.value)))) ∧
      (kvEntries r ≤ bits 23 0 q.value → exec (.kvPoolTail q) s = .next (refuse u q 0x4023 0x00 0x0302))) ∧
    (∀ q u, u = takeRequest s q → accepts 0x4026 0x02 q s = true → c = viewCtx u 0x4026 0x02 q → q.value < getC u c 0x4020 0x02 →
      pondNat u (kvStreamAddr u c q.value) 16 = none → Done (.releaseProvisional q) 0x4026 0x02 q s u) ∧
    (∀ q u lo, u = takeRequest s q → accepts 0x4026 0x02 q s = true → c = viewCtx u 0x4026 0x02 q → q.value < getC u c 0x4020 0x02 →
      pondNat u (kvStreamAddr u c q.value) 16 = some d → kvValid d = true → lo = cdiv (kvWatermark d) 64 →
      Done (.releaseProvisional q) 0x4026 0x02 q s (kvRetry (forEach u ((List.range (262144 - lo)).map (· + lo)) (fun t p =>
        match pondNat t (kvEntryAddr d p) 8 with
        | some e => if kvState e = 1 then pondPut (kvGive t c d (kvPageAddr e)) (kvEntryAddr d p) 8 0 else t
        | none => t)) c)))

/-- A grant of a pool takes the buffer at the head of its free list for the owner, with one count for each reference, and the
list goes on at the NEXT of the buffer's link word; it changes nothing but that pool and the count of grants. Buffers go back:
a release with one reference of several left counts down; the last one puts a working buffer at the head of the free list,
under a link word with SELF and NEXT; a handle that is none in use is refused with class U and counted, and its context stops;
while 64 releases wait for a rebuild the stone is held. A rebuild's end threads the free buffers in ascending order and
applies the releases that waited; a waiting request is granted; and POOL_COMMIT takes 256 legal pools as staged. It says where
each of these commands completes with its own effect: cisternGrant, listRebuildComplete, bufferRelease, poolCommit. -/
def Obligations.Buffers : Prop :=
  (∀ (s t : State) (p owner refs h : Nat) (x y : Pool), x = poolOf s p → y = poolOf t p → grantFrom s p owner refs = (t, some h) →
    h = x.head ∧ x.rebuilding = false ∧ shareRule (freeCount s p x) x owner = true ∧ popOk s p x = true ∧
    y.head = sramNat s (handleStone h) (handleOff h) 4 ∧ (refs ≠ 0 → tget 0 y.counts h = refs) ∧ usedBy y owner = usedBy x owner + 1 ∧
    (∀ k, k ≠ h → tget 0 y.counts k = tget 0 x.counts k) ∧ (∀ k, k ≠ owner → usedBy y k = usedBy x k) ∧
    y.retired = x.retired ∧ y.sizeCode = x.sizeCode ∧ y.reserves = x.reserves ∧ (∀ k, k ≠ p → poolOf t k = poolOf s k) ∧
    t = { s with pools := t.pools, ent := t.ent } ∧ SameEntriesBut [(0xA060, 1)] s t ∧ SameMemory s t) ∧
  (∀ (s : State),
    (∀ st h o (v : BitVec 32) u x p, memIssues s st h [] [] = true → onlyFields [(111, 108)] o = true → v = reg s st (fld 111 108 o) →
      u = issued s st → p = handlePool v.toNat → x = poolOf s p →
      (releaseOk s v = true → x.rebuilding = false → exec (.bufferRelease st h o) s = .next (completeNow (dropRef u v.toNat) st h)) ∧
      (releaseOk s v = true → x.rebuilding = true → 64 ≤ x.relQueue.length →
        exec (.bufferRelease st h o) s = .next (stallOn u st .release)) ∧
      (releaseOk s v = true → x.rebuilding = true → x.relQueue.length < 64 →
        exec (.bufferRelease st h o) s = .next (completeNow (setPool u p { x with relQueue := x.relQueue ++ [v] }) st h)) ∧
      (∀ c, releaseOk s v = false → (stoneOf (raise (count u 0xA060 0x04) [mkFault 1 0x19 2 (p / 16) none v.toNat]) st).owner = some c →
        exec (.bufferRelease st h o) s =
          .next (stopAt (raise (count u 0xA060 0x04) [mkFault 1 0x19 2 (p / 16) none v.toNat]) c st))) ∧
    (∀ h p x t, p = handlePool h → x = poolOf s p → t = dropRef s h →
      (2 ≤ tget 0 x.counts h → t = setPool s p { x with counts := tput 0 x.counts h (tget 0 x.counts h - 1) }) ∧
      (tget 0 x.counts h = 1 → isFenced s (handleStone h) = false → x.retired.contains h = false → h < 2 ^ 32 → x.head < 2 ^ 32 →
        handleOff h + 8 ≤ 2 ^ 18 → (poolOf t p).head = h ∧ tget 0 (poolOf t p).counts h = 0 ∧
        sramNat t (handleStone h) (handleOff h) 8 = h * 2 ^ 32 + x.head ∧ SameMemoryBut (handleStone h) (handleOff h) 8 s t ∧
        t = { s with pools := t.pools, sram := t.sram, ent := t.ent })) ∧
    (∀ p x u, s.resetLow = false → x = poolOf s p → x.rebuilding = true →
      u = rebuildList (setPool s p { x with rebuilding := false, relQueue := [] }) p →
      exec (.listRebuildComplete p) s = .next (forEach u x.relQueue release)) ∧
    (∀ p q rest t h, s.resetLow = false → (poolOf s p).waiting = q :: rest →
      grantTry q.owner q.refs s (poolsFor s (p / 16) q.owner q.size) = (t, some h) → exec (.cisternGrant p false) s =
        .next (goOn (setPool t p { poolOf t p with waiting := (poolOf t p).waiting.erase q }) h q.op)) ∧
    (∀ p, s.resetLow = false → (poolOf s p).waiting = [] → ∀ b, exec (.cisternGrant p b) s = .next s) ∧
    (∀ q, accepts 0x4040 0x01 q s = true →
      (∀ t, poolCommit (takeRequest s q) = .ok t → Done (.poolCommit q) 0x4040 0x01 q s t ∧ getE t 0x4040 0x02 = 1) ∧
      (∀ c, poolCommit (takeRequest s q) = .error c → exec (.poolCommit q) s = .next (refuse (takeRequest s q) q 0x4040 0x01 c))))

/-! ### Engines, compressor and vector chain (06, 07, 08) -/

/-- DENSE_PRODUCT and SPARSE_PRODUCT, with a clean read, are issued to their engine: the stone holds a tile of the instruction
with the registers as they were and an in-flight slot over its operands and its output; SRAM is as it was. The end of an
engine's oldest tile, under the flips that the command brings and the one that an injection adds: where its comparisons agree
the output is written and the tile leaves; at the first disagreement it is counted, reported and computed again, at the second
its stone is fenced. The array's registers hold what its last block left. ENGINE_INJECT arms one or two disagreements on a
stone that is not fenced. It says where each of these commands completes with its own effect: denseProduct, sparseProduct,
tileComplete, engineInject. -/
def Obligations.EngineProducts : Prop :=
  (∀ (s : State) (st : Nat) (h : IHdr) (o : Operands) (r : List (BitVec 32)) (srcs : List (Nat × Nat)) (x : Stone) (q : Tile),
    r = pRegs s st o → srcs = [wRange false o r, aRange o r] ++ (if pAcc o then [oRange o r] else []) →
    x = stoneOf s st → q = { pc := x.pc, o := o, regs := r, recomputed := false, again := false, signal := sigOf h, soc := h.soc } →
    s.resetLow = false → canIssue s st = true → h.resv = 0 → onlyFields [(111, 52)] o = true → (h.soc = true ∨ pHandle o = 0) →
    (comboOk false o = true → prodOk false o r = true → issueWait x srcs [oRange o r] = none →
      badIn s st (srcs ++ edgeWords (oRange o r)) = none →
      ∃ t, exec (.denseProduct st h o .clean) s = .next t ∧ t = { s with stones := t.stones } ∧
        (∀ k, k ≠ st → stoneOf t k = stoneOf s k) ∧ stoneOf t st = { x with
          stall := none, pc := x.pc + 1, dense := x.dense ++ [q],
          inflight := x.inflight ++ [{ pc := x.pc, kind := 1, srcs := srcs, dsts := [oRange o r], signal := sigOf h }] }) ∧
    (∀ srcs', srcs' = [wRange true o r, aRange o r] ++ (if pAcc o then [oRange o r] else []) →
      comboOk true o = true → prodOk true o r = true → issueWait x srcs' [oRange o r] = none →
      badIn s st (srcs' ++ edgeWords (oRange o r)) = none →
      (sparseOk s st o r = true →
        ∃ t, exec (.sparseProduct st h o .clean) s = .next t ∧ t = { s with stones := t.stones } ∧
          (∀ k, k ≠ st → stoneOf t k = stoneOf s k) ∧ stoneOf t st = { x with
            stall := none, pc := x.pc + 1, sparse := x.sparse ++ [q],
            inflight := x.inflight ++ [{ pc := x.pc, kind := 1, srcs := srcs', dsts := [oRange o r], signal := sigOf h }] }) ∧
      (sparseOk s st o r = false →
        exec (.sparseProduct st h o .clean) s = .next (failStone (count (issued s st) 0xA054 1) st 0x0C)))) ∧
  (∀ (s : State) (st busy : Nat) (sp : Bool) (flipped us : List Upset) (p : Tile) (rest : List Tile) (x : List BlockRun × Nat) (u : State),
    s.resetLow = false → tilesOf (stoneOf s st) sp = p :: rest → p.again = false → us = tileUpsets (stoneOf s st) sp flipped →
    badIn s st (tileSrcs sp p) = none → x = runTile s st sp us p.o p.regs →
    u = setArray (injUsed (countBy s 0xA050 (if sp then 4 else 3) busy) st sp) st sp
      (arrayAfter s st us p.o p.regs x.1 (arrayOf s st sp)) →
    (tileAgrees us p.o x.1 = true →
      exec (.tileComplete st sp flipped busy) s = .next (finishTile (setTiles u st sp rest) st sp us p)) ∧
    (tileAgrees us p.o x.1 = false →
      (p.recomputed = true → exec (.tileComplete st sp flipped busy) s = .next (fenceStone u st)) ∧
      (p.recomputed = false → exec (.tileComplete st sp flipped busy) s =
        .next (setTiles (count (raise (count u 0xA050 5)
          [mkFault 0 0x06 0 st (stoneOf s st).owner (2 ^ 18 * b2n sp + 16 * p.pc)]) 0xA050 6) st sp (requeue p rest)))) ∧
    (∀ q, accepts 0xF050 0x01 q s = true →
      (isFenced s (q.value % 4096) = true → exec (.engineInject q) s = .next (refuse (takeRequest s q) q 0xF050 0x01 0x0302)) ∧
      (isFenced s (q.value % 4096) = false → ∃ t n, Done (.engineInject q) 0xF050 0x01 q s t ∧ n = (if bit 13 q.value then 2 else 1) ∧
        t = { takeRequest s q with stones := t.stones } ∧ (∀ k, k ≠ q.value % 4096 → stoneOf t k = stoneOf s k) ∧
        (bit 12 q.value = true → stoneOf t (q.value % 4096) = { stoneOf s (q.value % 4096) with
          injSparse := max (stoneOf s (q.value % 4096)).injSparse n }) ∧
        (bit 12 q.value = false → stoneOf t (q.value % 4096) = { stoneOf s (q.value % 4096) with
          injDense := max (stoneOf s (q.value % 4096)).injDense n }))))

/-- An output value of a product is the sum of its blocks in ascending K, rounded after each addition, from the accumulator or
from zero; a block whose weights or activations have exponent 0xFF adds zero, and negated weights negate a block's term. A
sparse row whose slots keep their order holds the value of each slot at the position it names, and zero elsewhere. While no
bit is flipped, the checksum row and column of every block, which adders of their own form from the operands, agree with the
sums of the data cells. Of every group of four weights exactly two are kept by magnitude: none that was left out is larger
than one that was kept. -/
def Obligations.BlockArithmetic : Prop :=
  ((∀ (acc : BitVec 32) (vs : List FR) (v : FR), sumBlocks acc (vs ++ [v]) =
    ((fadd (sumBlocks acc vs).1 v.1).1, (sumBlocks acc vs).2 + v.2 + (fadd (sumBlocks acc vs).1 v.1).2)) ∧
  (∀ w x : BlockV, w.2 = 0xFF ∨ x.2 = 0xFF → blockTerm w x = (0, 0)) ∧
  (∀ (w : List Int) (e : Nat) (x : BlockV), blockTerm (w.map (fun i => -i), e) x = dyNeg (blockTerm (w, e) x)) ∧
  (∀ (wfmt : Nat) (blk : List (BitVec 8)) (i : Nat), orderOk wfmt blk i = true →
    (∀ t, t < 16 → nth 0 (sparseRow wfmt blk i).1 (4 * (t / 2) + slotIdx wfmt blk t i) = slotVal wfmt blk t i) ∧
    (∀ k, k < 32 → (∀ t, t / 2 = k / 4 → slotIdx wfmt blk t i ≠ k % 4) → nth 0 (sparseRow wfmt blk i).1 k = 0) ∧
    (sparseRow wfmt blk i).1.length = 32) ∧
  (∀ (s : State) (st : Nat) (sp : Bool) (o : Operands) (r : List (BitVec 32)), pShape o ≤ 13 →
    tileAgrees [] o (runTile s st sp [] o r).1 = true)) ∧
  (∀ (vs : List (BitVec 32)) (g : Nat), g < 8 →
    ((List.range 4).filter (fun j => nth false (largestTwo vs) (4 * g + j))).length = 2 ∧
    ∀ i j, i < 4 → j < 4 → nth false (largestTwo vs) (4 * g + i) = true → nth false (largestTwo vs) (4 * g + j) = false →
      (nth 0 vs (4 * g + j)).toNat % 2 ^ 31 ≤ (nth 0 vs (4 * g + i)).toNat % 2 ^ 31)

/-- The compressor: an operation whose ranges are legal ends at issue with the state of its mode (the tile at DST), and
completes the instruction there unless its input stopped the context; ranges that are not legal stop the context with cause
0x05. An EXPAND of a DENSE tile copies its rows. It says where each of these commands completes with its own effect:
compressActivations, compressWeightsMask, compressWeightsMagnitude, expand, transpose. -/
def Obligations.CompressorRuns : Prop :=
  ∀ (s : State) (st : Nat) (h : IHdr) (o : Operands) (src dst aux hd : Nat) (u : State) (srcs : List (Nat × Nat)),
    src = (reg s st (fld 111 108 o)).toNat → dst = (reg s st (fld 107 104 o)).toNat → aux = (reg s st (fld 103 100 o)).toNat →
    hd = sramNat s st src 8 → u = issued s st → onlyFields [(111, 67)] o = true → compOk o = true →
    srcs = (src, compSrc o hd) :: (if cMode o = 1 then
      [(aux, 8 + s24Bytes (hWfmt (sramNat s st aux 8)) (hRows (sramNat s st aux 8)) (hKb (sramNat s st aux 8)))] else []) →
    issues s st h srcs [(dst, compDst o hd)] = true →
    (compRangesOk s st src dst aux o = true → badIn s st (srcs ++ edgeWords (dst, compDst o hd)) = none →
      (∀ t, cMode o = 0 → t = compressActs u st src dst o →
        exec (.compressActivations st h o) s = .next (if (stoneOf t st).run = .running then completeNow t st h else t)) ∧
      (∀ t, cMode o = 1 → t = compressMask u st src dst aux o →
        exec (.compressWeightsMask st h o) s = .next (if (stoneOf t st).run = .running then completeNow t st h else t)) ∧
      (∀ t, cMode o = 2 → t = compressWeights u st src dst o false (fun _ _ vs => largestTwo vs) →
        exec (.compressWeightsMagnitude st h o) s = .next (if (stoneOf t st).run = .running then completeNow t st h else t)) ∧
      (cMode o = 3 → hFormat hd = 0 → hKind hd = 1 → hRows hd = cRows o → hKb hd = cKb o → hPayload hd ≤ cRows o * a8Row (cKb o) →
        hd % 2 ^ 11 = 0 → exec (.expand st h o) s =
          .next (completeNow (sramWrite u st dst (sramRead s st (src + 8) (cRows o * a8Row (cKb o)))) st h)) ∧
      (∀ t, cMode o = 4 → t = transposeTile u st src dst o →
        exec (.transpose st h o) s = .next (if (stoneOf t st).run = .running then completeNow t st h else t))) ∧
    (compRangesOk s st src dst aux o = false →
      (cMode o = 0 → exec (.compressActivations st h o) s = .next (failStone u st 0x05)) ∧
      (cMode o = 1 → exec (.compressWeightsMask st h o) s = .next (failStone u st 0x05)) ∧
      (cMode o = 2 → exec (.compressWeightsMagnitude st h o) s = .next (failStone u st 0x05)) ∧
      (cMode o = 3 → exec (.expand st h o) s = .next (failStone u st 0x05)) ∧
      (cMode o = 4 → exec (.transpose st h o) s = .next (failStone u st 0x05)))

/-- The vector chain: CONFIGURE takes legal stage descriptors into a slot that no run uses; a run issues with the registers,
scalars and stages of its moment; the end of the oldest run writes its output and reductions, then adds its POST_INC, and
frees its slot. The scalar instructions: SCALAR_SET and SCALAR_LOAD write registers, SCALAR_FUNC writes the function's value
and counts its clamps and domain errors, SCALAR_STORE writes the eight registers to SRAM; each leaves every other register and
byte alone. It says where each of these commands completes with its own effect: configure, vectorRun, vectorRunComplete,
scalarSet, scalarFunc, scalarStore, scalarLoad. -/
def Obligations.VectorAndScalars : Prop :=
  (∀ (s : State) (st : Nat) (h : IHdr) (o : Operands) (x : Stone), x = stoneOf s st →
    (∀ off n slot cfg, off = (reg s st (fld 111 108 o)).toNat → n = fld 107 105 o + 1 → slot = fld 104 104 o →
      onlyFields [(111, 104)] o = true → issues s st h [(off, 8 * n)] [] = true → x.vruns.any (fun v => vSlot v.o == slot) = false →
      badIn s st [(off, 8 * n)] = none →
      off + 8 * n ≤ 2 ^ 18 → off % 8 = 0 → cfg = (List.range n).map (fun i => BitVec.ofNat 64 (sramNat s st (off + 8 * i) 8)) →
      (cfgOk cfg = true → Advances (.configure st h o) s st (goesOn h { x with cfg := tput [] x.cfg slot cfg })) ∧
      (cfgOk cfg = false → exec (.configure st h o) s = .next (failStone (issued s st) st 0x04))) ∧
    (∀ r cfg v, r = vRegs s st o → cfg = cfgOf x (vSlot o) → onlyFields [(111, 88)] o = true →
      issues s st h (vSrcRanges o r x.vl) (vDstRanges o r x.vl) = true → scalarBusy x (cfgReads cfg) = false →
      runOk cfg o r x.vl = true → badIn s st (vSrcRanges o r x.vl ++ (vDstRanges o r x.vl).flatMap edgeWords) = none → v = ({
        pc := x.pc, o := o, vl := x.vl, scalars := scalarsOf x, regs := r, cfg := cfg, signal := sigOf h } : VRun) →
      exec (.vectorRun st h o .clean true) s = .next (modStone
        (takeSlot (issued s st) st 2 (vSrcRanges o r x.vl) (vDstRanges o r x.vl) h) st (fun y => { y with vruns := y.vruns ++ [v] })) ∧
      exec (.vectorRun st h o .clean false) s = .next (failStone (issued s st) st 0x0E)) ∧
    (∀ busy v rest u, s.resetLow = false → x.vruns = v :: rest → v.cfg ≠ [] →
      u = finishRun (modStone s st (fun y => { y with vruns := rest })) st v →
      exec (.vectorRunComplete st busy) s =
        .next (completeSlot (countBy (countBy (count (postInc u st v.o v.vl) 0xA058 1) 0xA058 2 (cdiv v.vl 32)) 0xA058 3 busy) st v.pc 2 v.signal))) ∧
  (∀ (s : State) (st : Nat) (h : IHdr) (o : Operands) (x : Stone) (off : Nat), x = stoneOf s st →
    off = (reg s st (fld 111 108 o)).toNat →
    (onlyFields [(111, 109), (31, 0)] o = true → issues s st h [] [] = true →
      Advances (.scalarSet st h o) s st (goesOn h (setScalar x (fld 111 109 o) (BitVec.ofNat 32 (fld 31 0 o))))) ∧
    (∀ f v, onlyFields [(111, 94)] o = true → scalarFuncOk o = true → issues s st h [] [] = true →
      scalarBusy x (scalarArgs o) = false → f = evalFunc (fld 108 103 o) (tget 0 x.scalars (fld 102 100 o))
        (tget 0 x.scalars (fld 99 97 o)) (tget 0 x.scalars (fld 96 94 o)) →
      v = countBy (countBy (issued s st) 0xA058 4 f.1.2) 0xA058 6 f.2 → exec (.scalarFunc st h o) s =
        .next (completeNow (modStone v st (fun y => setScalar y (fld 111 109 o) f.1.1)) st h)) ∧
    (onlyFields [(111, 108)] o = true → issues s st h [(off, 32)] [] = true → off + 32 ≤ 2 ^ 18 → off % 8 = 0 →
      badIn s st [(off, 32)] = none → Advances (.scalarLoad st h o) s st (goesOn h ((List.range 8).foldl
        (fun y i => setScalar y i (BitVec.ofNat 32 (sramNat s st (off + 4 * i) 4))) x))) ∧
    (onlyFields [(111, 108)] o = true → issues s st h [] [(off, 32)] = true → off + 32 ≤ 2 ^ 18 → off % 8 = 0 →
      scalarBusy x (List.range 8) = false → ∃ t, exec (.scalarStore st h o) s = .next t ∧
        (∀ i, i < 8 → sramNat t st (off + 4 * i) 4 = (tget 0 x.scalars i).toNat) ∧ SameMemoryBut st off 32 s t ∧
        OtherStones st s t))

/-! ### Collectives and multicast (12) -/

/-- GROUP_COMMIT takes a group whose staged COUNT and RADIX are legal and whose members, read from tier 1, are distinct
package ids with this package among them: SELF_RANK is its place, NEXT_SEQ is 0 and COMMITTED 1; group 255 is read-only, a
group with an open collective is busy, and a list that cannot be read, or whose windows refuse it, is out of range. A POST of
each operation that its checks allow opens its collective, or its multicast, under the next number, and holds an in-flight
slot over its ranges; a descriptor that fails its checks stops the context with cause 0x05, and one with no room in its mortar
waits. It says where each of these commands completes with its own effect: groupCommit, collBarrier, collBroadcast,
collReduce, collAllReduce, collReduceScatter, collAllGather, collMulticast. -/
def Obligations.GroupsAndPosts : Prop :=
  (∀ (s u : State) (q : Req) (g c n : Nat), accepts (0x7100 + g) 5 q s = true → g < 256 → u = takeRequest s q →
    c = viewCtx u (0x7100 + g) 5 q → n = groupE u c g 2 →
    (g = 255 → exec (.groupCommit g q true) s = .next (refuse u q (0x7100 + g) 5 0x0201)) ∧
    (g ≠ 255 → u.colls.any (fun x => x.key.ctx == c && x.key.group == g) = true →
      exec (.groupCommit g q true) s = .next (refuse u q (0x7100 + g) 5 0x0601)) ∧
    (g ≠ 255 → u.colls.any (fun x => x.key.ctx == c && x.key.group == g) = false →
      (n = 0 ∨ 16384 < n ∨ groupE u c g 3 ∉ [2, 4, 8, 16] → ∀ ok,
        exec (.groupCommit g q ok) s = .next (refuse u q (0x7100 + g) 5 0x0302)) ∧
      (0 < n → n ≤ 16384 → groupE u c g 3 ∈ [2, 4, 8, 16] →
        exec (.groupCommit g q false) s = .next (refuse u q (0x7100 + g) 5 0x0302) ∧
        (readMembers u (groupE u c g 1) n = none → exec (.groupCommit g q true) s =
          .next (refuse (missPieces u (groupE u c g 1) (2 * n) winRead) q (0x7100 + g) 5 0x0302))) ∧
      (∀ l, 0 < n → n ≤ 16384 → groupE u c g 3 ∈ [2, 4, 8, 16] → readMembers u (groupE u c g 1) n = some l →
        (∀ x ∈ l, x < 2 ^ 14) → l.Nodup → pkgId u ∈ l →
        ∃ t, Done (.groupCommit g q true) (0x7100 + g) 5 q s t ∧ groupList t c g = l ∧ l[groupE t c g 7]? = some (pkgId u) ∧
          groupE t c g 8 = digest8 (l.flatMap (toLE 2)) ∧ groupE t c g 9 = 0 ∧ groupE t c g 6 = 1 ∧
          t = { u with ent := t.ent, groupLists := t.groupLists }))) ∧
  (∀ (s : State) (st : Nat) (h : IHdr) (o : Operands) (p : Nat × Instr) (off ctx n rank seq : Nat) (d : CollDesc) (soc : Bool)
    (srcs dsts : List (Nat × Nat)),
    p ∈ [(0, Instr.collBarrier st h o), (1, .collBroadcast st h o), (2, .collReduce st h o), (3, .collAllReduce st h o),
      (4, .collReduceScatter st h o), (5, .collAllGather st h o), (6, .collMulticast st h o)] →
    off = (reg s st (fld 111 108 o)).toNat → d = parseColl (sramNat s st off 32) → d.cop = p.1 → (stoneOf s st).owner = some ctx →
    n = (groupList s ctx d.group).length → rank = groupE s ctx d.group 7 → soc = flag 98 o →
    srcs = (off, 32) :: (if soc ∨ contributes d rank = false then []
        else rangeIn st d.srcSpace d.src d.tps (tileBytes d) (collBytes d)) ++ (if p.1 = 6 then [(d.dst % 2 ^ 18, 8 * d.root)] else []) →
    dsts = (d.record, 16) :: (if p.1 = 6 then []
        else rangeIn st d.dstSpace d.dst d.tps (tileBytes d) (resultBytes d n rank)) →
    issues s st h srcs dsts = true → onlyFields [(111, 98)] o = true → (soc = true → fld 107 100 o ≠ 0) →
    (off % 32 ≠ 0 ∨ 2 ^ 18 < off + 32 ∨ postOk s st ctx (fld 107 100 o) d = false →
      exec p.2 s = .next (failStone (issued s st) st 0x05)) ∧
    (off % 32 = 0 → off + 32 ≤ 2 ^ 18 → postOk s st ctx (fld 107 100 o) d = true →
      (64 ≤ mortarOpen s (wytheOf st) → exec p.2 s = .next (stallOn (issued s st) st .collectives)) ∧
      (mortarOpen s (wytheOf st) < 64 → badIn s st srcs = none → p.1 ≠ 6 → seq = getC s ctx (0x7100 + d.group) 9 →
        (s.colls.filter (fun c => c.key.ctx == ctx && c.key.group == d.group && c.desc.cop != 7)).length < 8 →
        ∃ u co, exec p.2 s = .next (openColl u co) ∧
          u = setC (takeSlot (issued s st) st 7 srcs dsts h) ctx (0x7100 + d.group) 9 ((seq + 1) % 2 ^ 32) ∧
          co.key = { ctx := ctx, group := d.group, seq := seq } ∧ co.desc = d ∧ co.stone = st ∧ co.n = n ∧ co.rank = rank ∧
          co.eager = flag 99 o ∧ co.socFeed = soc ∧ co.granted = false ∧ co.results = [] ∧ co.sentDone = false ∧
          co.root = (if 1 ≤ d.cop ∧ d.cop ≤ 3 then d.root else 0) ∧ co.retention = reservationOf d co.radix n co.root rank) ∧
      (mortarOpen s (wytheOf st) < 64 → badIn s st srcs = none → p.1 = 6 → retentionFree s < roundTiles d (collBytes d) →
        ∃ t m, exec p.2 s = .next t ∧ t.mcasts = s.mcasts ++ [m] ∧ m.ctx = ctx ∧ m.number = s.mcastNext ∧ m.desc = d ∧ m.stone = st ∧
          m.granted = false ∧ m.legs = readLegs s st d ∧ m.acks = [] ∧ t.mcastNext = (s.mcastNext + 1) % 2 ^ 32 ∧
          t = { s with stones := t.stones, mcasts := t.mcasts, mcastNext := t.mcastNext }) ∧
      (mortarOpen s (wytheOf st) < 64 → badIn s st srcs = none → p.1 = 6 → roundTiles d (collBytes d) ≤ retentionFree s →
        ∃ u m, exec p.2 s = .next (startMcast u ctx s.mcastNext soc) ∧ u.mcasts = s.mcasts ++ [m] ∧ m.ctx = ctx ∧
          m.number = s.mcastNext ∧ m.desc = d ∧ m.granted = true ∧ m.legs = readLegs s st d ∧
          u = { s with stones := u.stones, mcasts := u.mcasts, mcastNext := u.mcastNext })))

/-- The messages of a mortar: of an open collective that holds its retention, each has its own effect there, and a retained
chunk that cannot be read again ends it as corrupt; before the member's own post a class 5 packet is held where there is room,
and answered with BACKOFF where there is none; of an ended collective the root answers a late ABORT_REQ with SEAL and a late
DONE with ABORT, and any other class 5 packet is counted as stale. It says where each of these commands completes with its own
effect: partialMsg, resultMsg, pnak, collNak, doneMsg, sealMsg, abortReq, abort, backoff. -/
def Obligations.CollectiveMessages : Prop := ∀ (s : State) (m : CollMsg) (p : Nat × Instr), s.resetLow = false →
    p ∈ [(0, Instr.partialMsg m), (1, .resultMsg m), (2, .pnak m true), (3, .collNak m true), (4, .doneMsg m), (5, .sealMsg m),
      (6, .abortReq m), (7, .abort m), (8, .backoff m)] →
    (∀ co, collFor s m.key = some co → co.granted = true →
      (p.1 = 0 → exec p.2 s = .next (takePartial s co m)) ∧ (p.1 = 1 → exec p.2 s = .next (takeResult s co m)) ∧
      (p.1 = 2 → exec p.2 s = .next (partialAgain s co m.chunk (min 2 (m.attempt + 1)))) ∧
      (p.1 = 3 → co.rank = co.root → exec p.2 s = .next (sendAgain s co m.fromRank 1 m.chunk (min 2 (m.attempt + 1)))) ∧
      (p.1 = 4 → exec p.2 s = .next (pump (modColl s co.key (fun c => { c with
        childDone := if c.childDone.any (fun d => d.1 == m.fromRank) then c.childDone else c.childDone ++ [(m.fromRank, m.cover)] }))
        co.key)) ∧
      (p.1 = 5 → exec p.2 s = .next (completeColl (collDown s co 5 0 []) co 0 0 false).1) ∧
      (p.1 = 6 → co.rank = co.root → exec p.2 s = .next (finish (abortColl s co m.code m.codeRank))) ∧
      (p.1 = 7 → exec p.2 s = .next (finish (abortColl s co m.code m.codeRank))) ∧
      (p.1 = 8 → exec p.2 s = .next { s with backoffs := s.backoffs ++ [(co.key, m.chunk)] }) ∧
      (co.retained.any (fun r => r.1 == m.chunk) = true →
        exec (.pnak m false) s = .next (finish (requestAbort (retainFault s) co 0x0703)) ∧
        (co.rank = co.root → exec (.collNak m false) s = .next (finish (requestAbort (retainFault s) co 0x0703))))) ∧
    (collFor s m.key = none → endFor s m.key = none → p.1 ≠ 6 → p.1 ≠ 7 →
      (16 + m.payload.length ≤ retentionFree s →
        exec p.2 s = .next { s with heldMsgs := s.heldMsgs ++ [{ msg := p.1, m := m }] }) ∧
      (retentionFree s < 16 + m.payload.length →
        exec p.2 s = .next (sendLoose (count s 0xA080 9) m.key m.fromRank 8 m.chunk []))) ∧
    (∀ e, collFor s m.key = none → endFor s m.key = some e →
      (e.isRoot = true → p.1 = 6 → e.status = 0 → exec p.2 s = .next (sendLoose s m.key m.fromRank 5 0 [])) ∧
      (e.isRoot = true → p.1 = 4 → e.status ≠ 0 → exec p.2 s =
        .next (sendLoose s m.key m.fromRank 7 0 (abortData e.status e.codeRank))) ∧
      (p.1 ≠ 4 → p.1 ≠ 6 → p.1 ≠ 7 → exec p.2 s = .next (count s 0xA080 8)))

/-- What else happens to a collective or multicast: a waiting POST gets its retention whole; a tile notice with handle 0 is a
bad instruction; the retry after a BACKOFF; a leg chunk, written or dropped, is answered; a leg's answer is kept, and one with
code 2 sends the chunk again at most twice, and not at all where it cannot be read; a timeout asks for an abort first and
completes the member the next time; the wait for the seal ends UNDECIDED; and COLL_ABORT asks for an abort with its code. The
completion of a member: its collective is open no longer and is remembered, its status is counted, and a nonzero status alone
is a fault, of class C at its wythe. It says where each of these commands completes with its own effect: collRetentionGrant,
tileNotice, backoffRetry, leg, legAck, collTimeoutExpiry, sealWaitTimeout, collAbort. -/
def Obligations.CollectiveEvents : Prop :=
  (∀ s : State, s.resetLow = false →
    (∀ k cycles co, s.colls.find? (fun c => c.key == k && !c.granted) = some co → co.retention ≤ retentionFree s →
      exec (.collRetentionGrant k cycles) s =
        .next (startColl (modColl (countBy s 0xA080 0x0B cycles) k (fun c => { c with granted := true })) k)) ∧
    (∀ st tile, exec (.tileNotice st 0 tile) s = .next (raise (stopLate (count s 0xA080 0x0C) st)
      [mkFault 1 0x05 0 st (stoneOf s st).owner (16 * (stoneOf s st).pc)])) ∧
    (∀ st handle tile co, handle ≠ 0 → s.colls.find? (fun c => c.handle == handle) = some co → tile < collTiles co.desc →
      contributes co.desc co.rank = true → co.socFeed = true → co.tiles.any (fun t => t.1 == tile) = false → co.granted = true →
      exec (.tileNotice st handle tile) s = .next (pump (takeTile s co tile) co.key)) ∧
    (∀ k chunk co u, (k, chunk) ∈ s.backoffs → collAt s k = some co →
      u = partialAgain { s with backoffs := s.backoffs.erase (k, chunk) } co chunk 0 →
      exec (.backoffRetry k chunk) s = .next (if chunk = 0 ∧ co.sentDone = true then sendDone u co else u)) ∧
    (∀ (m : LegMsg), m.stone < 4096 →
      (∀ t, isFenced s m.stone = false → m.crcOk = true → m.offset % 8 = 0 → m.offset + m.payload.length ≤ 2 ^ 18 →
        t = sramWrite s m.stone m.offset m.payload → exec (.leg m) s = .next (inject t (wytheOf m.stone) (mkPacket t m.poster 5 4 0
          (mortarHeader 10 0 m.ctx m.number m.chunk m.leg 0 0 false 0) [0]))) ∧
      (isFenced s m.stone = true → s.fencedLegs.contains (m.poster, m.ctx, m.number, m.leg) = true → exec (.leg m) s =
        .next (inject s (wytheOf m.stone) (mkPacket s m.poster 5 4 0
          (mortarHeader 10 0 m.ctx m.number m.chunk m.leg 0 0 false 0) [1])))) ∧
    (∀ c n leg chunk a m, s.mcasts.find? (fun m => m.ctx == c && m.number % 2 ^ 24 == n % 2 ^ 24) = some m →
      (a ≠ 2 → m.acks.any (fun x => x.1 == leg && x.2.1 == chunk) = false → ∀ ok, exec (.legAck c n leg chunk a ok) s =
        .next (mcastDone (modMcast s m.ctx m.number (fun x => { x with acks := x.acks ++ [(leg, chunk, a)] })) m.ctx m.number)) ∧
      (2 ≤ (m.resends.filter (fun r => r.1 == leg && r.2.1 == chunk)).length → exec (.legAck c n leg chunk 2 true) s =
        .next (finish (completeMcast s m 0x0703 0))) ∧
      exec (.legAck c n leg chunk 2 false) s = .next (finish (completeMcast (retainFault s) m 0x0703 0))) ∧
    (∀ k co, collAt s k = some co →
      (co.sentDone = false → co.abortSent = false → exec (.collTimeoutExpiry k) s = .next (finish (requestAbort s co 0x0701))) ∧
      (co.sentDone = false → co.abortSent = true → exec (.collTimeoutExpiry k) s =
        .next (finish (completeColl s co 0x0701 0 false))) ∧
      (co.sentDone = true → exec (.collTimeoutExpiry k) s = .next s ∧
        exec (.sealWaitTimeout k) s = .next (finish (completeColl s co 0x0701 0 true)))) ∧
    (∀ q code, accepts 0x7012 1 q s = true → code = q.value % 2 ^ 16 →
      (code ≠ 0x0701 → code ≠ 0x0703 → code ≠ 0x0704 →
        exec (.collAbort q) s = .next (refuse (takeRequest s q) q 0x7012 1 0x0302)) ∧
      (∀ co, code = 0x0701 ∨ code = 0x0703 ∨ code = 0x0704 →
        collAt s { ctx := bits 63 56 q.value, group := bits 55 48 q.value, seq := bits 47 16 q.value } = some co →
        Done (.collAbort q) 0x7012 1 q s (finish (requestAbort (takeRequest s q) co code))))) ∧
  (∀ (s : State) (co : Coll) (status rank : Nat) (und : Bool), co.desc.cop ≠ 7 →
    ∃ t fs, completeColl s co status rank und = (t, fs) ∧ (∀ c ∈ t.colls, c.key ≠ co.key) ∧
      (∀ c, c.key ≠ co.key → (c ∈ t.colls ↔ c ∈ s.colls)) ∧
      (∃ e ∈ t.collEnds, e.key = co.key ∧ e.status = status ∧ e.codeRank = rank ∧ e.posted = true) ∧
      (status = 0 → fs = []) ∧ (status ≠ 0 → fs = [mkFault 0 0x38 3 (co.stone / 2048) (some co.key.ctx)
        (co.key.group * 2 ^ 32 + co.key.seq % 2 ^ 32)]) ∧
      (isFenced s co.stone = false → co.desc.record + 16 ≤ 2 ^ 18 → sramNat t co.stone co.desc.record 16 =
        collRecord co.key.seq co.key.group status rank co.results.length false und 0 % 2 ^ 128) ∧
      (∀ a, memByte t a = memByte s a))

/-- The fixed tree of a group: every virtual rank but 0 is a child of its parent and of no other rank, the parent's number is
lower, the members that a rank covers are itself and those that its children cover, the root covers the whole group, and ranks
and virtual ranks are renumberings of one another. -/
def Obligations.FixedTree : Prop :=
  ∀ (radix n v : Nat), radix = 2 ∨ radix = 4 ∨ radix = 8 ∨ radix = 16 → v < n → n ≤ 16384 →
    (∀ k ∈ treeKids radix n v, treeParent radix n k.1 = v ∧ v < k.1 ∧ k.1 < n ∧ topSize radix n k.1 = k.2) ∧
    (0 < v → treeParent radix n v < v ∧ ∃ z, (v, z) ∈ treeKids radix n (treeParent radix n v)) ∧
    coverOf radix n v = 1 + ((treeKids radix n v).map (fun k => coverOf radix n k.1)).sum ∧ coverOf radix n 0 = n ∧
    (∀ root, virtRank n root (realRank n root v) = v ∧ realRank n root (virtRank n root v) = v)

/-! ### The fabric (10) -/

/-- The wiring that every row and column port expects is mutual: the expected port of the expected peer expects this port. The
states of a port: DOWN trains again where the package may; trained ports authenticate; a HELLO from the wired peer with good
keys and the same flow control is echoed, one from another peer makes the port MISWIRED, one with bad keys REFUSED; the
measured round trip brings the port UP under new keys for its two directions with its replay begun; a rekey sends a fresh
ephemeral key and, once exchanged, changes the sending key at once and leaves the receiving key until the peer's first frame
under the new one; a lost lock makes an UP port retrain; and a fenced port stays fenced. It says where each of these commands
completes with its own effect: portTrainingRetry, trainingComplete, hello, echoFrame, refusalNotice, linkLockLoss,
portRetrain, portFence, rekey, rekeyExchange. -/
def Obligations.Ports : Prop :=
  (∀ pos p a b, pos < 64 → p < 32 → isGlobal p = false → a = expectedPos pos p → b = expectedPort pos p →
    a < 64 ∧ a ≠ pos ∧ b < 32 ∧ isGlobal b = false ∧ b / 16 = p / 16 ∧ expectedPos a b = pos ∧ expectedPort a b = p) ∧
  (∀ (s : State) (p : Nat) (x : Port), s.resetLow = false → x = portOf s p →
    (x.state = .down → portsAllowed s p = true → p < 32 → exec (.portTrainingRetry p) s =
      .next (setPort s p { x with state := .training, retraining := false, helloOk := false })) ∧
    (x.state = .training → exec (.trainingComplete p true) s =
        .next (emit (fresh (setPort s p { x with state := .authenticating, helloOk := false })) (.portHello p x.txSeq (pkgId s)
          (getE s 0x2020 0x01) s.fuses.identityCert (Config.randomDraw s.nonce).toNat)) ∧
      (x.retraining = false → exec (.trainingComplete p false) s = .next (setPort s p { x with state := .down, helloOk := false }))) ∧
    (∀ m u, x.state = .authenticating → s.sec.rngBad = false → s.sec.identityPresent = true →
      u = setPort s p { x with peer := some (m.peerPkg, m.peerPort) } →
      (helloKeysOk s m = false → exec (.hello p m) s = .next (failPort u p .refused)) ∧
      (helloKeysOk s m = true → wiredOk s p m.peerPkg m.peerPort = false → exec (.hello p m) s = .next (failPort u p .miswired)) ∧
      (helloKeysOk s m = true → wiredOk s p m.peerPkg m.peerPort = true → m.flowMode ≠ getE s 0x2020 0x01 →
        exec (.hello p m) s = .next (failPort u p .refused)) ∧
      (helloKeysOk s m = true → wiredOk s p m.peerPkg m.peerPort = true → m.flowMode = getE s 0x2020 0x01 →
        (isGlobal p = false ∨ onOff s = false) → exec (.hello p m) s =
          .next (emit (setPort s p { x with peer := some (m.peerPkg, m.peerPort), helloOk := true }) (.portEcho p x.txSeq)))) ∧
    (∀ rt, x.state = .authenticating → x.helloOk = true → splitOk s p rt (chosenSplit s p) = true → x.replay = [] →
      ∃ t, exec (.echoFrame p rt) s = .next t ∧ t = { s with ports := t.ports, nonce := s.nonce + 1 } ∧
        (∀ k, k ≠ p → portOf t k = portOf s k) ∧
        portOf t p = { x with
          state := .up, roundTrip := rt, split := chosenSplit s p, retraining := false, helloOk := false, keyPhase := false,
          txKey := linkKey s x true, rxPhase := false, rxKey := linkKey s x false, rxNext := none, rekeying := false,
          mgmtDue := false, frameCtr := 0, offOut := (portOf t p).offOut }) ∧
    (x.state = .authenticating → x.helloOk = true → x.retraining = false →
      exec (.refusalNotice p) s = .next (setPort s p { x with state := .down, helloOk := false })) ∧
    (x.state = .up → exec (.linkLockLoss p) s = .next (beginRetrain s p) ∧
      (portsAllowed s p = true → ∃ t, t = beginRetrain s p ∧ (portOf t p).state = .training ∧ (portOf t p).retraining = true ∧
        (portOf t p).replay = x.replay ∧ (portOf t p).outQ = x.outQ ∧
        getE t (0xA100 + p) 0x55 = (getE s (0xA100 + p) 0x55 + 1) % 2 ^ 64 ∧ SameEntriesBut [(0xA100 + p, 0x55)] s t)) ∧
    (x.state = .up → (x.rekeying = true → exec (.rekey p) s = .next s) ∧
      (x.rekeying = false → exec (.rekey p) s = .next (sendDue (emit (fresh (setPort s p { x with
        rekeying := true, mgmtDue := true })) (.portRekey p (Config.randomDraw s.nonce).toNat)) p)) ∧
      (∃ b, exec (.rekeyExchange p true) s = .next b ∧ (portOf b p).keyPhase = !x.keyPhase ∧ (portOf b p).frameCtr = 0 ∧
        (portOf b p).rekeying = false ∧ (portOf b p).state = .up ∧ (portOf b p).rxNext.isSome = true ∧
        (portOf b p).rxKey = x.rxKey) ∧
      exec (.rekeyExchange p false) s = .next (failPort s p .refused)) ∧
    (∀ q, p < 32 → accepts (0x2100 + p) 0x05 q s = true → Done (.portRetrain p q) (0x2100 + p) 0x05 q s (beginRetrain (takeRequest s q) p)) ∧
    (∀ q, p < 32 → accepts (0x2100 + p) 0x04 q s = true → Done (.portFence p q) (0x2100 + p) 0x04 q s (fencePort (takeRequest s q) p)) ∧
    (x.state = .fenced → beginRetrain s p = s ∧ fencePort s p = s))

/-- Frames of an UP port: one with good code, tag and the next SEQ is taken and acknowledged, its body held in the receive
buffer with one link more counted and, over a global link, PHASE 1; one that is not is answered with NAK and has no other
effect but the count of its codewords or of its tag. The first frame or block of the other KEY_PHASE brings the new receiving
key. A control block drops the acknowledged frames and takes the credits; with NAK the rest go again, in order; and the frame
that arbitration chose leaves with its SEQ and KEY_PHASE, is kept for replay and takes its credits, with a control block after
every 20 blocks; one that its buffer has spoilt is discarded; an idle slot takes a control block. It says where each of these
commands completes with its own effect: linkFrameReceived, controlBlock, frameTransmit. -/
def Obligations.LinkFrames : Prop :=
  ∀ (s : State) (p : Nat) (x : Port), s.resetLow = false → p < 32 → x = portOf s p → isUp s p = true →
    (∀ f k, f.fecUncorrected = 0 → f.tagOk = true → f.seq = x.rxSeq → f.body = .routed k → f.bufferOk = true →
      ∃ t q, exec (.linkFrameReceived p f) s = .next t ∧ (portOf t p).rxSeq = (f.seq + 1) % 4096 ∧ (portOf t p).rx = x.rx ++ [q] ∧
        q.inPort = p ∧ q.body = .routed { k with phase := if isGlobal p then 1 else k.phase, hops := k.hops + 1 } ∧
        (∀ i, i ≠ p → portOf t i = portOf s i) ∧
        t.out = s.out ++ [.control p ((List.range 16).map (fun v => tget 0 x.freed v)) (portOf t p).offOut (f.seq % 4096) false x.keyPhase] ∧
        t = { s with ports := t.ports, ent := t.ent, out := t.out }) ∧
    (∀ f u, u = countBy s (0xA100 + p) 0x51 f.fecCorrected →
      (f.fecUncorrected ≠ 0 → exec (.linkFrameReceived p f) s =
        .next (sendControl (countBy u (0xA100 + p) 0x52 f.fecUncorrected) p true)) ∧
      (f.fecUncorrected = 0 → f.tagOk = false → exec (.linkFrameReceived p f) s =
        .next (sendControl (count u (0xA100 + p) 0x53) p true)) ∧
      (f.fecUncorrected = 0 → f.tagOk = true → f.seq ≠ x.rxSeq → exec (.linkFrameReceived p f) s =
        .next (sendControl (takeKey u p f.keyPhase) p true)) ∧
      (∀ k, f.fecUncorrected = 0 → f.tagOk = true → f.seq = x.rxSeq → f.body = .routed k → f.bufferOk = false →
        ∃ v d, exec (.linkFrameReceived p f) s = .next (raise v [mkFault 1 0x33 4 p none d]) ∧ (portOf v p).rx = x.rx ∧
          getE v (0xA100 + p) 0x56 = (getE s (0xA100 + p) 0x56 + 1) % 2 ^ 64)) ∧
    (∀ k phase, x.rxNext = some k → phase ≠ x.rxPhase → ∀ t, t = takeKey s p phase →
      portOf t p = { x with rxPhase := phase, rxKey := k, rxNext := none }) ∧
    (∀ b, b.fecUncorrected = 0 → b.tagOk = true → b.nak = false → ∃ t, exec (.controlBlock p b) s = .next t ∧
      t = { s with ports := t.ports, ent := t.ent } ∧ SameEntriesBut [(0xA100 + p, 0x51), (0xA100 + p, 0x52)] s t ∧
      (∀ i, i ≠ p → portOf t i = portOf s i) ∧ (portOf t p).replay = afterAck b.ackSeq x.replay ∧ (portOf t p).offIn = b.offMask ∧
      ∀ v, v < 16 → tget 0 (portOf t p).returned v = nth 0 b.credits v % 4096) ∧
    (∀ b, b.fecUncorrected ≠ 0 ∨ b.tagOk = false → exec (.controlBlock p b) s =
      .next (countBy (countBy s (0xA100 + p) 0x51 b.fecCorrected) (0xA100 + p) 0x52 b.fecUncorrected)) ∧
    (∀ b again, b.fecUncorrected = 0 → b.tagOk = true → b.nak = true →
      again = (afterAck b.ackSeq x.replay).map (fun f => { f with resends := f.resends + 1 }) → x.frameCtr + again.length < 2 ^ 48 →
      (again.any (fun f => decide (8 < f.resends)) = false → ∃ t, exec (.controlBlock p b) s = .next t ∧ (portOf t p).replay = again ∧
        t.out.filterMap (fun o => match o with | .frame q _ v i k => some (q, v, i, k) | _ => none) =
          s.out.filterMap (fun o => match o with | .frame q _ v i k => some (q, v, i, k) | _ => none) ++
            again.map (fun f => (p, f.vc, f.seq, f.body)) ∧
        t = { s with ports := t.ports, ent := t.ent, out := t.out })) ∧
    (∀ q d rr aged v, x.mgmtDue = false → x.replay.length < 4095 →
      (x.replay.map (fun f => frameBytes f.body)).sum + frameBytes q.body ≤ 524288 →
      arbitrate s p = some (q, d, rr, aged) → v = outVc p q.body → v < 16 →
      (x.frameCtr + 1 < 2 ^ 48 → ∃ t l, exec (.frameTransmit p true) s = .next t ∧
        t.out = s.out ++ .frame p x.keyPhase v x.txSeq q.body :: l ∧ (∀ o ∈ l, ∃ a b c e g, o = .control p a b c e g) ∧
        l.length = (x.blocks + frameBytes q.body / 64) / 20 ∧
        (portOf t p).replay = x.replay ++ [{ seq := x.txSeq, resends := 0, vc := v, body := q.body }] ∧
        (portOf t p).txSeq = (x.txSeq + 1) % 4096 ∧ (portOf t p).outQ.length + 1 = x.outQ.length ∧
        tget 0 (portOf t p).used v = (tget 0 x.used v + frameCredits q.body) % 4096 ∧
        (∀ i, i ≠ v → tget 0 (portOf t p).used i = tget 0 x.used i) ∧ (∀ i, i ≠ p → portOf t i = portOf s i) ∧
        getE t (0xA100 + p) (v + 1) = (getE s (0xA100 + p) (v + 1) + 1) % 2 ^ 64 ∧ q ∈ x.outQ ∧ eligible s p q.body = true) ∧
      exec (.frameTransmit p false) s = .next (raise (count (setPort s p { x with outQ := x.outQ.erase q }) (0xA100 + p) 0x56)
        [mkFault 1 0x33 4 p none (detailOf q.body)])) ∧
    (∀ b, x.mgmtDue = false → arbitrate s p = none → exec (.frameTransmit p b) s = .next (sendControl s p false))

/-- A routed packet takes the departure that the tables and the rules of R323 to R328 give it: the head of an arrival point
leaves it, and is delivered, put on the bridge, queued at a port, or dropped with its cause; nothing that R325 does not allow,
that has crossed six links, or whose port is not in service goes on. A packet for a unit of a bay takes a FABRIC_RX buffer for
its delivery; one that its switch buffer has spoilt is discarded and reported. Aqueducts: AQ_SET places the staged entry at
its index where its fields, its port's share and its job tag are right, and is refused with the code of the first that is not;
AQ_CLEAR makes an entry invalid that has no packet here; a packet at an in-port goes on under its entry's outgoing id or ends
where the entry says, and waits while it would exceed the rate and burst of its entry. It says where each of these commands
completes with its own effect: packetRoute, aqueductPacket, aqSet, aqClear. -/
def Obligations.RoutingAndAqueducts : Prop :=
  (∀ (s : State) (w : Nat) (k : Packet) (came : Came) (d : Depart), d = decideRoute s w came k →
    (∀ q, d = .port q → departAllowed came k.phase (decide (k.dest / 64 ≠ pondOf s)) d = true ∧ k.hops < 6 ∧
      ((portOf s q).state = .up ∨ (portOf s q).retraining = true) ∧ routeOf s w came k = d) ∧
    (d = .bridge → departAllowed came k.phase (decide (k.dest / 64 ≠ pondOf s)) d = true ∧ k.hops < 6) ∧
    (d = .deliver → departAllowed came k.phase (decide (k.dest / 64 ≠ pondOf s)) d = true ∧ k.target < 7) ∧
    (k.cls ≠ 0 → epochLive s k.epoch = false → d = .drop 0) ∧
    (∀ item u, s.resetLow = false → came = .injected → s.injQ.find? (fun x => x.1 == w) = some (w, k) → s.switchDead.contains w = false →
      (d = .deliver → unitAsleep s k = false ∧ waitsBuffer s k = false) → u = { s with injQ := s.injQ.erase (w, k) } →
      item = ({ vc := 2 * k.cls + k.phase, inPort := 32 + w, losses := 0, body := .routed k } : QItem) →
      (d ≠ .deliver ∨ rxOwner k = none ∨ tagDrops s k = true → exec (.packetRoute (.injection w) true) s = .next (match d with
        | .port q => setPort u q { portOf u q with outQ := (portOf u q).outQ ++ [item] }
        | .bridge => { countBridge u w (32 + k.payload.length) with bridgeQ := u.bridgeQ ++ [(1 - w, item)] }
        | .deliver => deliverPacket u (32 + w) w k
        | .drop c => routeDrop u (32 + w) w c k)) ∧
      (∀ o t h v, d = .deliver → rxOwner k = some o → tagDrops s k = false →
        grantTry o 1 s (poolsFor s (bayOf k.targetStone) o 8192) = (t, some h) →
        v = sramWrite t (handleStone h) (handleOff h) k.payload → exec (.packetRoute (.injection w) true) s =
          .next (release (deliverPacket { v with injQ := v.injQ.erase (w, k) } (32 + w) w k) (BitVec.ofNat 32 h))) ∧
      exec (.packetRoute (.injection w) false) s = .next (spoilPacket u (32 + w) w k)) ∧
    (∀ u at_, (k.cls = 0 ∨ k.cls = 7 ∨ (k.jobTag = s.jobTag ∧ s.mode ≠ .draining)) → targetWythe k w = w → u = deliverPacket s at_ w k →
      u = { s with delivered := s.delivered ++ [k] }) ∧
    (∀ at_, 1 ≤ k.cls → k.cls ≤ 6 → k.jobTag ≠ s.jobTag → 32 ≤ at_ → s.tagDropSeen = true → deliverPacket s at_ w k = s)) ∧
  (∀ (s u : State) (q : Req) (e : BitVec 128), u = takeRequest s q → e = BitVec.ofNat 128 (getE u 0x2032 0x01) →
    (accepts 0x2032 0x02 q s = true →
      (∀ c, aqRefusal u q.value e = some c → exec (.aqSet q) s = .next (refuse u q 0x2032 0x02 c)) ∧
      (aqRefusal u q.value e = none → ∃ t, Done (.aqSet q) 0x2032 0x02 q s t ∧ t = { u with aqs := t.aqs } ∧ aqOf t q.value = e ∧
        ∀ k, k ≠ q.value → aqOf t k = aqOf s k)) ∧
    (accepts 0x2032 0x03 q s = true →
      (36 ≤ q.value / 256 → exec (.aqClear q) s = .next (refuse u q 0x2032 0x03 0x0302)) ∧
      (q.value / 256 < 36 → aqQueued u q.value = true → exec (.aqClear q) s = .next (refuse u q 0x2032 0x03 0x0601)) ∧
      (q.value / 256 < 36 → aqQueued u q.value = false → ∃ t, Done (.aqClear q) 0x2032 0x03 q s t ∧ t = { u with aqs := t.aqs } ∧
        aqValid (aqOf t q.value) = false ∧ ∀ k, k ≠ q.value → aqOf t k = aqOf s k)) ∧
    (∀ w a k x n v, s.resetLow = false → w < 2 → k = aqKey (32 + w) a.aqueduct → x = aqOf s k → s.switchDead.contains w = false →
      n = aqTaken s s.aqSent k (aqRate x) + 10 * bodyBytes (.aqueduct a) →
      v = { s with aqSent := tput (0, 0) s.aqSent k (n, now s), aqQ := tput [] s.aqQ k ((tget [] s.aqQ k).erase a) } →
      (aqValid x = false → exec (.aqueductPacket (32 + w) a) s = .next { s with aqQ := tput [] s.aqQ k ((tget [] s.aqQ k).erase a) }) ∧
      (aqValid x = true → 163840 < n → exec (.aqueductPacket (32 + w) a) s = .next s) ∧
      (aqValid x = true → n ≤ 163840 → aqOut x = 0x21 → exec (.aqueductPacket (32 + w) a) s = .next (aqDeliver v k (32 + w) x a)) ∧
      (aqValid x = true → n ≤ 163840 → aqOut x < 32 → (portOf s (aqOut x)).state = .up → exec (.aqueductPacket (32 + w) a) s =
        .next (setPort v (aqOut x) { portOf s (aqOut x) with outQ := (portOf s (aqOut x)).outQ ++ [{
          vc := 2 * a.cls + a.phase, inPort := 32 + w, losses := 0, body := .aqueduct { a with aqueduct := aqOutId x } }] }))) ∧
    (∀ v k at_ x a, aqTag x = s.jobTag → aqEnd x = 2 → v = aqDeliver s k at_ x a → aqAddr x + 8192 * a.seq + a.payload.length ≤ 2 ^ 39 →
      (∀ i, i < a.payload.length → memByte v (aqAddr x + 8192 * a.seq + i) = a.payload.getD i 0) ∧
      (∀ i, i < aqAddr x + 8192 * a.seq ∨ aqAddr x + 8192 * a.seq + a.payload.length ≤ i → memByte v i = memByte s i)))

/-- Routing tables and epochs: TABLE_INSTALL makes an epoch live with the staged tables where they are legal and a place is
free; INJECT_EPOCH selects a live epoch, under which the packets that waited are injected; TABLE_RETIRE removes one that is
neither injected nor held here; and each is refused otherwise. POND_EPOCH_STEP at the keystone: it acts as though its own
entry had been written, sends the operation to the other members of the pond and waits for their answers; the step ends as
done when every member has accepted, and with the silent or refusing members' mask otherwise or at the timeout. A member acts
for the recorded keystone alone, and answers, with NOT_AUTHORISED to any other. It says where each of these commands completes
with its own effect: tableInstall, injectEpoch, tableRetire, epochStepInstall, epochStepFlip, epochStepPoll, epochStepRetire,
epochStepMember, epochStepAnswer, epochStepTimeout. -/
def Obligations.EpochsAndTables : Prop :=
  (∀ (s u : State) (q : Req) (e t : Nat), u = takeRequest s q → e = q.value → t = getE u 0x2050 0x01 →
    (accepts 0x2050 0x02 q s = true →
      (4 ≤ e ∨ stagingOk u t = false → exec (.tableInstall q) s = .next (refuse u q 0x2050 0x02 0x0302)) ∧
      (e < 4 → stagingOk u t = true → tlook s.tables e = some t → Done (.tableInstall q) 0x2050 0x02 q s u) ∧
      (e < 4 → stagingOk u t = true → tlook s.tables e ≠ some t → 2 ≤ (s.tables.filter (fun x => x.1 != e)).length →
        exec (.tableInstall q) s = .next (refuse u q 0x2050 0x02 0x0601)) ∧
      (e < 4 → stagingOk u t = true → tlook s.tables e = none → (s.tables.filter (fun x => x.1 != e)).length < 2 →
        ∃ v, Done (.tableInstall q) 0x2050 0x02 q s v ∧ tlook v.tables e = some t ∧ getE v 0x2052 (e + 1) = 0 ∧
          (∀ i, i ≠ e → tlook v.tables i = tlook s.tables i) ∧ SameEntriesBut [(0x2052, e + 1)] u v ∧
          v = { u with ent := v.ent, tables := v.tables, dropsSeen := v.dropsSeen })) ∧
    (accepts 0x2050 0x03 q s = true →
      (epochLive s e = false → exec (.injectEpoch q) s = .next (refuse u q 0x2050 0x03 0x0302)) ∧
      (epochLive s e = true → s.stalledInj = [] → ∃ v, Done (.injectEpoch q) 0x2050 0x03 q s v ∧ getE v 0x2050 0x03 = e ∧
        SameEntriesBut [(0x2050, 3)] u v ∧ v = { u with ent := v.ent })) ∧
    (accepts 0x2050 0x04 q s = true →
      (epochLive s e = false → Done (.tableRetire q) 0x2050 0x04 q s u) ∧
      (epochLive s e = true → getE u 0x2050 0x03 = e → exec (.tableRetire q) s = .next (refuse u q 0x2050 0x04 0x0302)) ∧
      (epochLive s e = true → getE u 0x2050 0x03 ≠ e → epochHeld u e ≠ 0 →
        exec (.tableRetire q) s = .next (refuse u q 0x2050 0x04 0x0601)) ∧
      (epochLive s e = true → getE u 0x2050 0x03 ≠ e → epochHeld u e = 0 → ∃ v, Done (.tableRetire q) 0x2050 0x04 q s v ∧
        epochLive v e = false ∧ (∀ i, i ≠ e → tlook v.tables i = tlook s.tables i) ∧ v = { u with tables := v.tables }))) ∧
  (∀ (s u v : State) (q : Req) (own e code : Nat) (ms : List Nat) (p : Nat × Instr), u = takeRequest s q → own = gridPos u →
    p ∈ [(1, Instr.epochStepInstall q), (2, .epochStepFlip q), (3, .epochStepPoll q), (4, .epochStepRetire q)] →
    q.value / 256 = p.1 → e = q.value % 4 → epochOp p.1 e u = (v, code) →
    ms = (List.range 64).filter (fun k => bit k (getE v 0x2056 0x07) && decide (k ≠ own)) →
    (accepts 0x2056 0x01 q s = true →
      (isKeystone u = false → exec p.2 s = .next (refuse u q 0x2056 0x01 0x0502)) ∧
      (isKeystone u = true → getE u 0x2056 0x02 = 1 → exec p.2 s = .next (refuse u q 0x2056 0x01 0x0601)) ∧
      (isKeystone u = true → getE u 0x2056 0x02 ≠ 1 → ms ≠ [] → ∃ t x, Done p.2 0x2056 0x01 q s t ∧ t.epochStep = some x ∧
        x.op = p.1 ∧ x.epoch = e ∧ x.waiting = ms ∧ getE t 0x2056 0x02 = 1 ∧
        x.silent = (if epochAccepted p.1 e (code == 0) (getE v 0x2050 0x03) then [] else [own]) ∧
        t.out = v.out ++ ms.map (fun k => Out.epochOp k p.1 e) ∧
        t.injQ = v.injQ ++ ms.map (fun k => (0, mkPacket v (64 * pondOf v + k) 0 5 0 0 [])))) ∧
    (∀ fromPos op, s.resetLow = false → firmwareUp s = true →
      (fromKeystone s fromPos = false → exec (.epochStepMember fromPos op e) s =
        .next (sendMgmt (count s 0x8040 0x01) fromPos (.epochAnswer 0x0502 (getE s 0x2050 0x03) 0 0))) ∧
      (∀ t b, fromKeystone s fromPos = true → 1 ≤ op → op ≤ 4 → e < 4 → epochOp op e s = (t, b) →
        exec (.epochStepMember fromPos op e) s =
          .next (sendMgmt t fromPos (.epochAnswer b (getE t 0x2050 0x03) (getE t 0x2052 (e + 1)) (epochHeld t e))))) ∧
    (∀ x k a i m n, s.resetLow = false → s.epochStep = some x → k ∈ x.waiting → x.op ≠ 3 → ∀ y, y = { x with
        waiting := x.waiting.erase k, silent := if a then x.silent else x.silent ++ [k] } →
      (y.waiting ≠ [] → exec (.epochStepAnswer k a i m n) s = .next { s with epochStep := some y }) ∧
      (y.waiting = [] → exec (.epochStepAnswer k a i m n) s = .next (finishEpochStep s y))) ∧
    (∀ x, s.resetLow = false → s.epochStep = some x → ∃ t, exec .epochStepTimeout s = .next t ∧ t.epochStep = none ∧
      getE t 0x2056 0x02 = (if x.silent = [] ∧ x.waiting = [] then 2 else 3) ∧
      getE t 0x2056 0x03 = (x.silent ++ x.waiting).foldl setBit 0 ∧ t = { s with epochStep := none, ent := t.ent }))

/-! ### Whole rules -/

/-- R504 and R505: the plumb holds one first-source record for each class. A fault that arrives at a class whose record is not
VALID latches into it; one that repeats the record counts up to 255; any other sets OVERFLOW and escalates, C to U and U to F,
keeping its cause and unit and naming the record that it escalated from; at F it goes no further. -/
def Obligations.FirstSourceRecord : Prop :=
  (∀ (s t : State) (f : Fault16) (src : Option FaultRec) (e : Option (Fault16 × FaultRec)) (r : FaultRec), f.cls < 3 →
    r = recOf s f.cls → arrive s f src = (t, e) →
    (∀ c, c < 3 → c ≠ f.cls → recOf t c = recOf s c) ∧
    (r.valid = false → e = none ∧ (recOf t f.cls).valid = true ∧ (recOf t f.cls).overflow = false ∧
      (recOf t f.cls).repeats = 0 ∧ (recOf t f.cls).time = now s ∧ (recOf t f.cls).detail = f.detail ∧
      (recOf t f.cls).cause = f.cause ∧ (recOf t f.cls).kind = f.kind ∧ (recOf t f.cls).unit = f.unit ∧
      (recOf t f.cls).ctx = f.ctx ∧ (recOf t f.cls).escalated = src.isSome ∧
      (src = none → (recOf t f.cls).fromCause = 0 ∧ (recOf t f.cls).fromKind = 0 ∧ (recOf t f.cls).fromUnit = 0) ∧
      (∀ q, src = some q → (recOf t f.cls).fromCause = q.cause ∧ (recOf t f.cls).fromKind = q.kind ∧
        (recOf t f.cls).fromUnit = q.unit)) ∧
    (r.valid = true → r.cause = f.cause ∧ r.kind = f.kind ∧ r.unit = f.unit →
      e = none ∧ recOf t f.cls = { r with repeats := min 255 (r.repeats + 1) } ∧
      t = { s with recC := t.recC, recU := t.recU, recF := t.recF, ent := t.ent } ∧ SameEntriesBut [(0xA0C0, f.cls + 1)] s t) ∧
    (r.valid = true → ¬(r.cause = f.cause ∧ r.kind = f.kind ∧ r.unit = f.unit) → recOf t f.cls = { r with overflow := true } ∧
      (f.cls = 2 → e = none) ∧ (f.cls ≠ 2 → e = some ({ f with cls := f.cls + 1 }, r)))) ∧
  (∀ (s : State) (f : Fault16), s.deadPairs.contains (f.kind, f.unit) = false →
    latchAll s [f] = (match arrive s f none with
      | (t, none) => t
      | (t, some (g, r)) => (match arrive t g (some r) with
        | (u, none) => u
        | (u, some (h, q)) => (arrive u h (some q)).1)))

/-- R83: a choice that is speculative never enters the spill, never uses slack and is never carried. Choices that were sent
again after a remap or a miss stand outside the admission (R94, 04 R145). -/
def Obligations.SpeculativeNeverSpilled : Prop :=
  (∀ a ∈ State.reset.admitted, a.claim.choice.spec = true → a.resend = false → a.part = 0 ∧ a.slot = none) ∧
  ∀ (s t : State), (∀ a ∈ s.admitted, a.claim.choice.spec = true → a.resend = false → a.part = 0 ∧ a.slot = none) →
    step s = .next t → ∀ a ∈ t.admitted, a.claim.choice.spec = true → a.resend = false → a.part = 0 ∧ a.slot = none

/-- R20: the failure of a mesh stop or of a course DMA fences all 64 stones of the course, and that of a cistern manager the
expert router and all 256 stones of the bay. -/
def Obligations.CourseAndBayFenced : Prop := ∀ s : State, s.resetLow = false →
    (∀ c, c < 64 → ∀ u, u = FailedUnit.meshStop c ∨ u = FailedUnit.courseDma c →
      ∃ t, exec (.unitFailure u) s = .next t ∧ ∀ i, i < 64 → isFenced t (64 * c + i) = true) ∧
    (∀ b, b < 16 → ∃ t, exec (.unitFailure (.cisternManager b)) s = .next t ∧ (routerOf t b).fenced = true ∧
      ∀ i, i < 256 → isFenced t (256 * b + i) = true)

/-- R27: the keystone position is one byte, 0xFF at reset; 0 to 63 name a position of the own pond, 0xFF none, and any other
value is refused with 0x0302; it may be written in every state but Dormant (in Draining the checks of 14 R456 permit it too).
-/
def Obligations.KeystonePosition : Prop := getE State.reset 0x2010 0x01 = 0xFF ∧
  ∀ (s : State) (q : Req) (e : Entry), findEntry 0x2010 0x01 = some e → e.typ = 1 ∧ e.size = 1 ∧ e.acc = .rw ∧
    (s.mode = .dormant → accepts 0x2010 0x01 q s = false) ∧
    (s.mode ≠ .dormant → served1 0x2010 0x01 q s = true → writePathCheck (takeRequest s q) e 0x2010 0x01 q = none → q.typ = 1 →
      q.length = 1 → 1 ≤ q.frameLen → q.value < 256 →
      (q.value ≤ 63 ∨ q.value = 0xFF → ∃ t, Done (.keystonePositionWrite q) 0x2010 0x01 q s t ∧ getE t 0x2010 0x01 = q.value ∧
        (isKeystone t = true ↔ q.value = gridPos s) ∧ (q.value = 0xFF → isKeystone t = false)) ∧
      (63 < q.value → q.value ≠ 0xFF → ∃ t, exec (.keystonePositionWrite q) s = .next (refuse t q 0x2010 0x01 0x0302) ∧
        t = takeRequest s q))

/-- R498: a MESSAGE of Umora Link with a code other than 1 or 2 is discarded and counted in 0xA0B0.08. -/
def Obligations.BadMessageCounted : Prop := ∀ (s : State) (code : Nat), s.resetLow = false → code ≠ 1 → code ≠ 2 →
    ∃ t, exec (.badMessage code) s = .next t ∧ getE t 0xA0B0 0x08 = (getE s 0xA0B0 0x08 + 1) % 2 ^ 64 ∧
      SameEntriesBut [(0xA0B0, 8)] s t ∧ t = { s with ent := t.ent }

/-- The device states (13 R417, R419): a step leaves the state as it is or makes one of the transitions of the table; only
reset, or the wipe of a test-port unlock, leaves Faulted and leads back to Dormant. -/
def Obligations.DeviceStateTransitions : Prop := ∀ (s t : State), step s = .next t →
    (t.mode = s.mode ∨ t.mode = .dormant ∨ (s.mode ≠ .dormant ∧ t.mode = .faulted) ∨ (s.mode = .dormant ∧ t.mode = .verified) ∨
      ((s.mode = .verified ∨ s.mode = .clean) ∧ t.mode = .configured) ∨ (s.mode = .configured ∧ t.mode = .ready) ∨
      (s.mode = .ready ∧ (t.mode = .configured ∨ t.mode = .running)) ∨
      ((s.mode = .configured ∨ s.mode = .ready ∨ s.mode = .running) ∧ t.mode = .draining) ∨
      (s.mode = .draining ∧ t.mode = .clean)) ∧
    (s.mode ≠ .dormant → t.mode = .dormant → ∃ rest, s.pending = .resetAssert :: rest ∨ s.pending = .unlockWipeComplete :: rest)

end
end

