-- ==== Sys2Proof/Laws/Tbl.lean ====
section
/-! SUPPORT. The laws of sparse tables: a read after a write, and the canonical form that every operation keeps. -/

namespace Sys2Proof.Machine

variable {α : Type}

theorem tlook_tins_self (t : Tbl α) (k : Nat) (v : α) : tlook (tins t k v) k = some v := by
  induction t with
  | nil => simp [tins, tlook]
  | cons p t ih =>
    obtain ⟨a, w⟩ := p
    simp only [tins]
    split
    · simp [tlook]
    · split
      · simp [tlook]
      · rename_i h _
        simp [tlook, h, ih]

theorem tlook_tins_ne (t : Tbl α) {k j : Nat} (h : j ≠ k) (v : α) : tlook (tins t k v) j = tlook t j := by
  induction t with
  | nil => simp [tins, tlook, Ne.symm h]
  | cons p t ih =>
    obtain ⟨a, w⟩ := p
    simp only [tins]
    split
    · next e => subst e; simp [tlook, Ne.symm h]
    · split
      · simp [tlook, Ne.symm h]
      · simp [tlook, ih]

/-- Every key of the table is above `k`. -/
def tabove (k : Nat) (t : Tbl α) : Prop := ∀ p ∈ t, k < p.1

theorem tsorted_cons {a : Nat} {v : α} {t : Tbl α} : tsorted ((a, v) :: t) ↔ tabove a t ∧ tsorted t := by
  simp [tsorted, tabove, List.pairwise_cons]

theorem tlook_above {k : Nat} {t : Tbl α} (h : tabove k t) : tlook t k = none := by
  induction t with
  | nil => rfl
  | cons p t ih =>
    obtain ⟨a, w⟩ := p
    have ha : k < a := h (a, w) (by simp)
    simp only [tlook, if_neg (Nat.ne_of_gt ha)]
    exact ih (fun p hp => h p (by simp [hp]))

theorem tabove_tins {k a : Nat} {v : α} {t : Tbl α} (h : tabove a t) (hk : a < k) : tabove a (tins t k v) := by
  induction t with
  | nil => intro p hp; simp [tins] at hp; subst hp; exact hk
  | cons p t ih =>
    obtain ⟨b, w⟩ := p
    have hb : a < b := h (b, w) (by simp)
    have ht : tabove a t := fun p hp => h p (by simp [hp])
    simp only [tins]
    split
    · intro p hp
      rcases List.mem_cons.1 hp with rfl | hp
      · exact hk
      · exact ht p hp
    · split
      · intro p hp
        rcases List.mem_cons.1 hp with rfl | hp
        · exact hk
        · exact h p hp
      · intro p hp
        rcases List.mem_cons.1 hp with rfl | hp
        · exact hb
        · exact ih ht p hp

/-- An insertion keeps the keys rising. -/
theorem tsorted_tins {t : Tbl α} (h : tsorted t) (k : Nat) (v : α) : tsorted (tins t k v) := by
  induction t with
  | nil => simp [tins, tsorted]
  | cons p t ih =>
    obtain ⟨a, w⟩ := p
    obtain ⟨ha, ht⟩ := tsorted_cons.1 h
    simp only [tins]
    split
    · next e => subst e; exact tsorted_cons.2 ⟨ha, ht⟩
    · split
      · next hk =>
        refine tsorted_cons.2 ⟨?_, h⟩
        intro p hp
        rcases List.mem_cons.1 hp with rfl | hp
        · exact hk
        · exact Nat.lt_trans hk (ha p hp)
      · next hne hk =>
        exact tsorted_cons.2 ⟨tabove_tins ha (by omega), ih ht⟩

theorem mem_tdel {t : Tbl α} {k : Nat} {p : Nat × α} (h : p ∈ tdel t k) : p ∈ t := (List.mem_filter.1 h).1

/-- A removal keeps the keys rising. -/
theorem tsorted_tdel {t : Tbl α} (h : tsorted t) (k : Nat) : tsorted (tdel t k) := List.Pairwise.filter _ h

theorem mem_tins {t : Tbl α} {k : Nat} {v : α} {p : Nat × α} (h : p ∈ tins t k v) : p = (k, v) ∨ p ∈ t := by
  induction t with
  | nil => simp [tins] at h; exact .inl h
  | cons q t ih =>
    obtain ⟨a, w⟩ := q
    simp only [tins] at h
    split at h
    · rcases List.mem_cons.1 h with rfl | h
      · exact .inl rfl
      · exact .inr (List.mem_cons_of_mem _ h)
    · split at h
      · rcases List.mem_cons.1 h with rfl | h
        · exact .inl rfl
        · exact .inr h
      · rcases List.mem_cons.1 h with rfl | h
        · exact .inr List.mem_cons_self
        · exact (ih h).imp id (List.mem_cons_of_mem _)

theorem tlook_tdel_self (t : Tbl α) (k : Nat) : tlook (tdel t k) k = none := by
  induction t with
  | nil => rfl
  | cons p t ih =>
    obtain ⟨a, w⟩ := p
    by_cases e : a = k
    · subst e; simpa [tdel] using ih
    · simpa [tdel, e, tlook] using ih

theorem tlook_tdel_ne (t : Tbl α) {k j : Nat} (hj : j ≠ k) : tlook (tdel t k) j = tlook t j := by
  induction t with
  | nil => rfl
  | cons p t ih =>
    obtain ⟨a, w⟩ := p
    by_cases e : a = k
    · subst e; simpa [tdel, tlook, Ne.symm hj] using ih
    · have : tdel ((a, w) :: t) k = (a, w) :: tdel t k := by simp [tdel, e]
      rw [this]
      simp [tlook, ih]

variable [DecidableEq α]

/-- The written key reads as written. -/
theorem tget_tput_self (d : α) (t : Tbl α) (k : Nat) (v : α) : tget d (tput d t k v) k = v := by
  unfold tput
  split
  · next e => simp [tget, tlook_tdel_self, e]
  · simp [tget, tlook_tins_self]

/-- Every other key reads as before. -/
theorem tget_tput_ne (d d' : α) (t : Tbl α) {k j : Nat} (hj : j ≠ k) (v : α) :
    tget d (tput d' t k v) j = tget d t j := by
  unfold tput
  split
  · simp [tget, tlook_tdel_ne t hj]
  · simp [tget, tlook_tins_ne t hj]

/-- A write keeps the keys rising. -/
theorem tsorted_tput {d : α} {t : Tbl α} (h : tsorted t) (k : Nat) (v : α) : tsorted (tput d t k v) := by
  unfold tput
  split
  · exact tsorted_tdel h k
  · exact tsorted_tins h k v

/-- A write keeps unlisted what reads as its default. -/
theorem tclean_tput {d : Nat → α} {t : Tbl α} (h : tclean d t) (k : Nat) (v : α) : tclean d (tput (d k) t k v) := by
  unfold tput
  split
  · exact fun p hp => h p (mem_tdel hp)
  · next hv =>
    intro p hp
    rcases mem_tins hp with rfl | hp
    · exact hv
    · exact h p hp

omit [DecidableEq α]

theorem tsorted_filter {t : Tbl α} (h : tsorted t) (f : Nat × α → Bool) : tsorted (t.filter f) := List.Pairwise.filter f h

theorem tclean_filter {d : Nat → α} {t : Tbl α} (h : tclean d t) (f : Nat × α → Bool) : tclean d (t.filter f) :=
  fun p hp => h p (List.mem_filter.1 hp).1

end Sys2Proof.Machine
end

