-- ==== Sys2Proof/Laws/State.lean ====
section
/-! SUPPORT. The fields that each update of the state leaves as they are, and what the accessors read after a write. -/

namespace Sys2Proof.Machine

variable {s : State}

/-! ### setC -/

@[simp] theorem setC_pending {c i j v : Nat} : (setC s c i j v).pending = s.pending := rfl
@[simp] theorem setC_nonce {c i j v : Nat} : (setC s c i j v).nonce = s.nonce := rfl
@[simp] theorem setC_resetLow {c i j v : Nat} : (setC s c i j v).resetLow = s.resetLow := rfl
@[simp] theorem setC_trayId {c i j v : Nat} : (setC s c i j v).trayId = s.trayId := rfl
@[simp] theorem setC_fuses {c i j v : Nat} : (setC s c i j v).fuses = s.fuses := rfl
@[simp] theorem setC_mode {c i j v : Nat} : (setC s c i j v).mode = s.mode := rfl
@[simp] theorem setC_out {c i j v : Nat} : (setC s c i j v).out = s.out := rfl
@[simp] theorem setC_mem {c i j v : Nat} : (setC s c i j v).mem = s.mem := rfl
@[simp] theorem setC_sram {c i j v : Nat} : (setC s c i j v).sram = s.sram := rfl
@[simp] theorem setC_slotMem {c i j v : Nat} : (setC s c i j v).slotMem = s.slotMem := rfl
@[simp] theorem setC_fenced {c i j v : Nat} : (setC s c i j v).fenced = s.fenced := rfl
@[simp] theorem setC_badWords {c i j v : Nat} : (setC s c i j v).badWords = s.badWords := rfl
@[simp] theorem setC_wordErrs {c i j v : Nat} : (setC s c i j v).wordErrs = s.wordErrs := rfl
@[simp] theorem setC_recC {c i j v : Nat} : (setC s c i j v).recC = s.recC := rfl
@[simp] theorem setC_recU {c i j v : Nat} : (setC s c i j v).recU = s.recU := rfl
@[simp] theorem setC_recF {c i j v : Nat} : (setC s c i j v).recF = s.recF := rfl
@[simp] theorem setC_deadPairs {c i j v : Nat} : (setC s c i j v).deadPairs = s.deadPairs := rfl
@[simp] theorem setC_cAckDue {c i j v : Nat} : (setC s c i j v).cAckDue = s.cAckDue := rfl
@[simp] theorem setC_mpFailed {c i j v : Nat} : (setC s c i j v).mpFailed = s.mpFailed := rfl
@[simp] theorem setC_switchDead {c i j v : Nat} : (setC s c i j v).switchDead = s.switchDead := rfl
@[simp] theorem setC_pondFaults {c i j v : Nat} : (setC s c i j v).pondFaults = s.pondFaults := rfl
@[simp] theorem setC_lastSummary {c i j v : Nat} : (setC s c i j v).lastSummary = s.lastSummary := rfl
@[simp] theorem setC_holds {c i j v : Nat} : (setC s c i j v).holds = s.holds := rfl
@[simp] theorem setC_irqStacks {c i j v : Nat} : (setC s c i j v).irqStacks = s.irqStacks := rfl
@[simp] theorem setC_served {c i j v : Nat} : (setC s c i j v).served = s.served := rfl
@[simp] theorem setC_delivering {c i j v : Nat} : (setC s c i j v).delivering = s.delivering := rfl
@[simp] theorem setC_dictRefusal {c i j v : Nat} : (setC s c i j v).dictRefusal = s.dictRefusal := rfl
@[simp] theorem setC_replay {c i j v : Nat} : (setC s c i j v).replay = s.replay := rfl
@[simp] theorem setC_mslots {c i j v : Nat} : (setC s c i j v).mslots = s.mslots := rfl
@[simp] theorem setC_dictQ {c i j v : Nat} : (setC s c i j v).dictQ = s.dictQ := rfl
@[simp] theorem setC_deferred {c i j v : Nat} : (setC s c i j v).deferred = s.deferred := rfl
@[simp] theorem setC_relays {c i j v : Nat} : (setC s c i j v).relays = s.relays := rfl
@[simp] theorem setC_ports {c i j v : Nat} : (setC s c i j v).ports = s.ports := rfl
@[simp] theorem setC_injQ {c i j v : Nat} : (setC s c i j v).injQ = s.injQ := rfl
@[simp] theorem setC_stalledInj {c i j v : Nat} : (setC s c i j v).stalledInj = s.stalledInj := rfl
@[simp] theorem setC_bridgeQ {c i j v : Nat} : (setC s c i j v).bridgeQ = s.bridgeQ := rfl
@[simp] theorem setC_delivered {c i j v : Nat} : (setC s c i j v).delivered = s.delivered := rfl
@[simp] theorem setC_tables {c i j v : Nat} : (setC s c i j v).tables = s.tables := rfl
@[simp] theorem setC_aqs {c i j v : Nat} : (setC s c i j v).aqs = s.aqs := rfl
@[simp] theorem setC_aqQ {c i j v : Nat} : (setC s c i j v).aqQ = s.aqQ := rfl
@[simp] theorem setC_aqGot {c i j v : Nat} : (setC s c i j v).aqGot = s.aqGot := rfl
@[simp] theorem setC_aqBurst {c i j v : Nat} : (setC s c i j v).aqBurst = s.aqBurst := rfl
@[simp] theorem setC_aqSent {c i j v : Nat} : (setC s c i j v).aqSent = s.aqSent := rfl
@[simp] theorem setC_dropsSeen {c i j v : Nat} : (setC s c i j v).dropsSeen = s.dropsSeen := rfl
@[simp] theorem setC_tagDropSeen {c i j v : Nat} : (setC s c i j v).tagDropSeen = s.tagDropSeen := rfl
@[simp] theorem setC_epochStep {c i j v : Nat} : (setC s c i j v).epochStep = s.epochStep := rfl
@[simp] theorem setC_windows {c i j v : Nat} : (setC s c i j v).windows = s.windows := rfl
@[simp] theorem setC_windowFaultSeen {c i j v : Nat} : (setC s c i j v).windowFaultSeen = s.windowFaultSeen := rfl
@[simp] theorem setC_memErrors {c i j v : Nat} : (setC s c i j v).memErrors = s.memErrors := rfl
@[simp] theorem setC_senders {c i j v : Nat} : (setC s c i j v).senders = s.senders := rfl
@[simp] theorem setC_ledger {c i j v : Nat} : (setC s c i j v).ledger = s.ledger := rfl
@[simp] theorem setC_ledgerWait {c i j v : Nat} : (setC s c i j v).ledgerWait = s.ledgerWait := rfl
@[simp] theorem setC_lineQ {c i j v : Nat} : (setC s c i j v).lineQ = s.lineQ := rfl
@[simp] theorem setC_homeReqs {c i j v : Nat} : (setC s c i j v).homeReqs = s.homeReqs := rfl
@[simp] theorem setC_hotLines {c i j v : Nat} : (setC s c i j v).hotLines = s.hotLines := rfl
@[simp] theorem setC_groupLists {c i j v : Nat} : (setC s c i j v).groupLists = s.groupLists := rfl
@[simp] theorem setC_colls {c i j v : Nat} : (setC s c i j v).colls = s.colls := rfl
@[simp] theorem setC_collEnds {c i j v : Nat} : (setC s c i j v).collEnds = s.collEnds := rfl
@[simp] theorem setC_mcasts {c i j v : Nat} : (setC s c i j v).mcasts = s.mcasts := rfl
@[simp] theorem setC_mcastNext {c i j v : Nat} : (setC s c i j v).mcastNext = s.mcastNext := rfl
@[simp] theorem setC_heldMsgs {c i j v : Nat} : (setC s c i j v).heldMsgs = s.heldMsgs := rfl
@[simp] theorem setC_fencedLegs {c i j v : Nat} : (setC s c i j v).fencedLegs = s.fencedLegs := rfl
@[simp] theorem setC_backoffs {c i j v : Nat} : (setC s c i j v).backoffs = s.backoffs := rfl
@[simp] theorem setC_jobTag {c i j v : Nat} : (setC s c i j v).jobTag = s.jobTag := rfl
@[simp] theorem setC_starts {c i j v : Nat} : (setC s c i j v).starts = s.starts := rfl
@[simp] theorem setC_jobList {c i j v : Nat} : (setC s c i j v).jobList = s.jobList := rfl
@[simp] theorem setC_jobStep {c i j v : Nat} : (setC s c i j v).jobStep = s.jobStep := rfl
@[simp] theorem setC_jobMember {c i j v : Nat} : (setC s c i j v).jobMember = s.jobMember := rfl
@[simp] theorem setC_jobSeen {c i j v : Nat} : (setC s c i j v).jobSeen = s.jobSeen := rfl
@[simp] theorem setC_jobMembers {c i j v : Nat} : (setC s c i j v).jobMembers = s.jobMembers := rfl
@[simp] theorem setC_keystoneSilent {c i j v : Nat} : (setC s c i j v).keystoneSilent = s.keystoneSilent := rfl
@[simp] theorem setC_newKeystone {c i j v : Nat} : (setC s c i j v).newKeystone = s.newKeystone := rfl
@[simp] theorem setC_ctxs {c i j v : Nat} : (setC s c i j v).ctxs = s.ctxs := rfl
@[simp] theorem setC_loading {c i j v : Nat} : (setC s c i j v).loading = s.loading := rfl
@[simp] theorem setC_rings {c i j v : Nat} : (setC s c i j v).rings = s.rings := rfl
@[simp] theorem setC_mailboxes {c i j v : Nat} : (setC s c i j v).mailboxes = s.mailboxes := rfl
@[simp] theorem setC_posts {c i j v : Nat} : (setC s c i j v).posts = s.posts := rfl
@[simp] theorem setC_teardown {c i j v : Nat} : (setC s c i j v).teardown = s.teardown := rfl
@[simp] theorem setC_routers {c i j v : Nat} : (setC s c i j v).routers = s.routers := rfl
@[simp] theorem setC_toks {c i j v : Nat} : (setC s c i j v).toks = s.toks := rfl
@[simp] theorem setC_confs {c i j v : Nat} : (setC s c i j v).confs = s.confs := rfl
@[simp] theorem setC_gens {c i j v : Nat} : (setC s c i j v).gens = s.gens := rfl
@[simp] theorem setC_cancels {c i j v : Nat} : (setC s c i j v).cancels = s.cancels := rfl
@[simp] theorem setC_notIntact {c i j v : Nat} : (setC s c i j v).notIntact = s.notIntact := rfl
@[simp] theorem setC_bundles {c i j v : Nat} : (setC s c i j v).bundles = s.bundles := rfl
@[simp] theorem setC_barriers {c i j v : Nat} : (setC s c i j v).barriers = s.barriers := rfl
@[simp] theorem setC_claims {c i j v : Nat} : (setC s c i j v).claims = s.claims := rfl
@[simp] theorem setC_admitted {c i j v : Nat} : (setC s c i j v).admitted = s.admitted := rfl
@[simp] theorem setC_slots {c i j v : Nat} : (setC s c i j v).slots = s.slots := rfl
@[simp] theorem setC_runs {c i j v : Nat} : (setC s c i j v).runs = s.runs := rfl
@[simp] theorem setC_qTails {c i j v : Nat} : (setC s c i j v).qTails = s.qTails := rfl
@[simp] theorem setC_pupdates {c i j v : Nat} : (setC s c i j v).pupdates = s.pupdates := rfl
@[simp] theorem setC_blocksReading {c i j v : Nat} : (setC s c i j v).blocksReading = s.blocksReading := rfl
@[simp] theorem setC_fetchQ {c i j v : Nat} : (setC s c i j v).fetchQ = s.fetchQ := rfl
@[simp] theorem setC_fetchHeld {c i j v : Nat} : (setC s c i j v).fetchHeld = s.fetchHeld := rfl
@[simp] theorem setC_fills {c i j v : Nat} : (setC s c i j v).fills = s.fills := rfl
@[simp] theorem setC_wins {c i j v : Nat} : (setC s c i j v).wins = s.wins := rfl
@[simp] theorem setC_writebacks {c i j v : Nat} : (setC s c i j v).writebacks = s.writebacks := rfl
@[simp] theorem setC_kvWaits {c i j v : Nat} : (setC s c i j v).kvWaits = s.kvWaits := rfl
@[simp] theorem setC_stones {c i j v : Nat} : (setC s c i j v).stones = s.stones := rfl
@[simp] theorem setC_arrays {c i j v : Nat} : (setC s c i j v).arrays = s.arrays := rfl
@[simp] theorem setC_dmas {c i j v : Nat} : (setC s c i j v).dmas = s.dmas := rfl
@[simp] theorem setC_dmaLast {c i j v : Nat} : (setC s c i j v).dmaLast = s.dmaLast := rfl
@[simp] theorem setC_pools {c i j v : Nat} : (setC s c i j v).pools = s.pools := rfl
@[simp] theorem setC_umora {c i j v : Nat} : (setC s c i j v).umora = s.umora := rfl
@[simp] theorem setC_clock {c i j v : Nat} : (setC s c i j v).clock = s.clock := rfl
@[simp] theorem setC_power {c i j v : Nat} : (setC s c i j v).power = s.power := rfl
@[simp] theorem setC_sec {c i j v : Nat} : (setC s c i j v).sec = s.sec := rfl

/-! ### setE -/

@[simp] theorem setE_pending {i j v : Nat} : (setE s i j v).pending = s.pending := rfl
@[simp] theorem setE_nonce {i j v : Nat} : (setE s i j v).nonce = s.nonce := rfl
@[simp] theorem setE_resetLow {i j v : Nat} : (setE s i j v).resetLow = s.resetLow := rfl
@[simp] theorem setE_trayId {i j v : Nat} : (setE s i j v).trayId = s.trayId := rfl
@[simp] theorem setE_fuses {i j v : Nat} : (setE s i j v).fuses = s.fuses := rfl
@[simp] theorem setE_mode {i j v : Nat} : (setE s i j v).mode = s.mode := rfl
@[simp] theorem setE_out {i j v : Nat} : (setE s i j v).out = s.out := rfl
@[simp] theorem setE_mem {i j v : Nat} : (setE s i j v).mem = s.mem := rfl
@[simp] theorem setE_sram {i j v : Nat} : (setE s i j v).sram = s.sram := rfl
@[simp] theorem setE_slotMem {i j v : Nat} : (setE s i j v).slotMem = s.slotMem := rfl
@[simp] theorem setE_fenced {i j v : Nat} : (setE s i j v).fenced = s.fenced := rfl
@[simp] theorem setE_badWords {i j v : Nat} : (setE s i j v).badWords = s.badWords := rfl
@[simp] theorem setE_wordErrs {i j v : Nat} : (setE s i j v).wordErrs = s.wordErrs := rfl
@[simp] theorem setE_recC {i j v : Nat} : (setE s i j v).recC = s.recC := rfl
@[simp] theorem setE_recU {i j v : Nat} : (setE s i j v).recU = s.recU := rfl
@[simp] theorem setE_recF {i j v : Nat} : (setE s i j v).recF = s.recF := rfl
@[simp] theorem setE_deadPairs {i j v : Nat} : (setE s i j v).deadPairs = s.deadPairs := rfl
@[simp] theorem setE_cAckDue {i j v : Nat} : (setE s i j v).cAckDue = s.cAckDue := rfl
@[simp] theorem setE_mpFailed {i j v : Nat} : (setE s i j v).mpFailed = s.mpFailed := rfl
@[simp] theorem setE_switchDead {i j v : Nat} : (setE s i j v).switchDead = s.switchDead := rfl
@[simp] theorem setE_pondFaults {i j v : Nat} : (setE s i j v).pondFaults = s.pondFaults := rfl
@[simp] theorem setE_lastSummary {i j v : Nat} : (setE s i j v).lastSummary = s.lastSummary := rfl
@[simp] theorem setE_holds {i j v : Nat} : (setE s i j v).holds = s.holds := rfl
@[simp] theorem setE_irqStacks {i j v : Nat} : (setE s i j v).irqStacks = s.irqStacks := rfl
@[simp] theorem setE_served {i j v : Nat} : (setE s i j v).served = s.served := rfl
@[simp] theorem setE_delivering {i j v : Nat} : (setE s i j v).delivering = s.delivering := rfl
@[simp] theorem setE_dictRefusal {i j v : Nat} : (setE s i j v).dictRefusal = s.dictRefusal := rfl
@[simp] theorem setE_replay {i j v : Nat} : (setE s i j v).replay = s.replay := rfl
@[simp] theorem setE_mslots {i j v : Nat} : (setE s i j v).mslots = s.mslots := rfl
@[simp] theorem setE_dictQ {i j v : Nat} : (setE s i j v).dictQ = s.dictQ := rfl
@[simp] theorem setE_deferred {i j v : Nat} : (setE s i j v).deferred = s.deferred := rfl
@[simp] theorem setE_relays {i j v : Nat} : (setE s i j v).relays = s.relays := rfl
@[simp] theorem setE_ports {i j v : Nat} : (setE s i j v).ports = s.ports := rfl
@[simp] theorem setE_injQ {i j v : Nat} : (setE s i j v).injQ = s.injQ := rfl
@[simp] theorem setE_stalledInj {i j v : Nat} : (setE s i j v).stalledInj = s.stalledInj := rfl
@[simp] theorem setE_bridgeQ {i j v : Nat} : (setE s i j v).bridgeQ = s.bridgeQ := rfl
@[simp] theorem setE_delivered {i j v : Nat} : (setE s i j v).delivered = s.delivered := rfl
@[simp] theorem setE_tables {i j v : Nat} : (setE s i j v).tables = s.tables := rfl
@[simp] theorem setE_aqs {i j v : Nat} : (setE s i j v).aqs = s.aqs := rfl
@[simp] theorem setE_aqQ {i j v : Nat} : (setE s i j v).aqQ = s.aqQ := rfl
@[simp] theorem setE_aqGot {i j v : Nat} : (setE s i j v).aqGot = s.aqGot := rfl
@[simp] theorem setE_aqBurst {i j v : Nat} : (setE s i j v).aqBurst = s.aqBurst := rfl
@[simp] theorem setE_aqSent {i j v : Nat} : (setE s i j v).aqSent = s.aqSent := rfl
@[simp] theorem setE_dropsSeen {i j v : Nat} : (setE s i j v).dropsSeen = s.dropsSeen := rfl
@[simp] theorem setE_tagDropSeen {i j v : Nat} : (setE s i j v).tagDropSeen = s.tagDropSeen := rfl
@[simp] theorem setE_epochStep {i j v : Nat} : (setE s i j v).epochStep = s.epochStep := rfl
@[simp] theorem setE_windows {i j v : Nat} : (setE s i j v).windows = s.windows := rfl
@[simp] theorem setE_windowFaultSeen {i j v : Nat} : (setE s i j v).windowFaultSeen = s.windowFaultSeen := rfl
@[simp] theorem setE_memErrors {i j v : Nat} : (setE s i j v).memErrors = s.memErrors := rfl
@[simp] theorem setE_senders {i j v : Nat} : (setE s i j v).senders = s.senders := rfl
@[simp] theorem setE_ledger {i j v : Nat} : (setE s i j v).ledger = s.ledger := rfl
@[simp] theorem setE_ledgerWait {i j v : Nat} : (setE s i j v).ledgerWait = s.ledgerWait := rfl
@[simp] theorem setE_lineQ {i j v : Nat} : (setE s i j v).lineQ = s.lineQ := rfl
@[simp] theorem setE_homeReqs {i j v : Nat} : (setE s i j v).homeReqs = s.homeReqs := rfl
@[simp] theorem setE_hotLines {i j v : Nat} : (setE s i j v).hotLines = s.hotLines := rfl
@[simp] theorem setE_groupLists {i j v : Nat} : (setE s i j v).groupLists = s.groupLists := rfl
@[simp] theorem setE_colls {i j v : Nat} : (setE s i j v).colls = s.colls := rfl
@[simp] theorem setE_collEnds {i j v : Nat} : (setE s i j v).collEnds = s.collEnds := rfl
@[simp] theorem setE_mcasts {i j v : Nat} : (setE s i j v).mcasts = s.mcasts := rfl
@[simp] theorem setE_mcastNext {i j v : Nat} : (setE s i j v).mcastNext = s.mcastNext := rfl
@[simp] theorem setE_heldMsgs {i j v : Nat} : (setE s i j v).heldMsgs = s.heldMsgs := rfl
@[simp] theorem setE_fencedLegs {i j v : Nat} : (setE s i j v).fencedLegs = s.fencedLegs := rfl
@[simp] theorem setE_backoffs {i j v : Nat} : (setE s i j v).backoffs = s.backoffs := rfl
@[simp] theorem setE_jobTag {i j v : Nat} : (setE s i j v).jobTag = s.jobTag := rfl
@[simp] theorem setE_starts {i j v : Nat} : (setE s i j v).starts = s.starts := rfl
@[simp] theorem setE_jobList {i j v : Nat} : (setE s i j v).jobList = s.jobList := rfl
@[simp] theorem setE_jobStep {i j v : Nat} : (setE s i j v).jobStep = s.jobStep := rfl
@[simp] theorem setE_jobMember {i j v : Nat} : (setE s i j v).jobMember = s.jobMember := rfl
@[simp] theorem setE_jobSeen {i j v : Nat} : (setE s i j v).jobSeen = s.jobSeen := rfl
@[simp] theorem setE_jobMembers {i j v : Nat} : (setE s i j v).jobMembers = s.jobMembers := rfl
@[simp] theorem setE_keystoneSilent {i j v : Nat} : (setE s i j v).keystoneSilent = s.keystoneSilent := rfl
@[simp] theorem setE_newKeystone {i j v : Nat} : (setE s i j v).newKeystone = s.newKeystone := rfl
@[simp] theorem setE_ctxs {i j v : Nat} : (setE s i j v).ctxs = s.ctxs := rfl
@[simp] theorem setE_loading {i j v : Nat} : (setE s i j v).loading = s.loading := rfl
@[simp] theorem setE_rings {i j v : Nat} : (setE s i j v).rings = s.rings := rfl
@[simp] theorem setE_mailboxes {i j v : Nat} : (setE s i j v).mailboxes = s.mailboxes := rfl
@[simp] theorem setE_posts {i j v : Nat} : (setE s i j v).posts = s.posts := rfl
@[simp] theorem setE_teardown {i j v : Nat} : (setE s i j v).teardown = s.teardown := rfl
@[simp] theorem setE_routers {i j v : Nat} : (setE s i j v).routers = s.routers := rfl
@[simp] theorem setE_toks {i j v : Nat} : (setE s i j v).toks = s.toks := rfl
@[simp] theorem setE_confs {i j v : Nat} : (setE s i j v).confs = s.confs := rfl
@[simp] theorem setE_gens {i j v : Nat} : (setE s i j v).gens = s.gens := rfl
@[simp] theorem setE_cancels {i j v : Nat} : (setE s i j v).cancels = s.cancels := rfl
@[simp] theorem setE_notIntact {i j v : Nat} : (setE s i j v).notIntact = s.notIntact := rfl
@[simp] theorem setE_bundles {i j v : Nat} : (setE s i j v).bundles = s.bundles := rfl
@[simp] theorem setE_barriers {i j v : Nat} : (setE s i j v).barriers = s.barriers := rfl
@[simp] theorem setE_claims {i j v : Nat} : (setE s i j v).claims = s.claims := rfl
@[simp] theorem setE_admitted {i j v : Nat} : (setE s i j v).admitted = s.admitted := rfl
@[simp] theorem setE_slots {i j v : Nat} : (setE s i j v).slots = s.slots := rfl
@[simp] theorem setE_runs {i j v : Nat} : (setE s i j v).runs = s.runs := rfl
@[simp] theorem setE_qTails {i j v : Nat} : (setE s i j v).qTails = s.qTails := rfl
@[simp] theorem setE_pupdates {i j v : Nat} : (setE s i j v).pupdates = s.pupdates := rfl
@[simp] theorem setE_blocksReading {i j v : Nat} : (setE s i j v).blocksReading = s.blocksReading := rfl
@[simp] theorem setE_fetchQ {i j v : Nat} : (setE s i j v).fetchQ = s.fetchQ := rfl
@[simp] theorem setE_fetchHeld {i j v : Nat} : (setE s i j v).fetchHeld = s.fetchHeld := rfl
@[simp] theorem setE_fills {i j v : Nat} : (setE s i j v).fills = s.fills := rfl
@[simp] theorem setE_wins {i j v : Nat} : (setE s i j v).wins = s.wins := rfl
@[simp] theorem setE_writebacks {i j v : Nat} : (setE s i j v).writebacks = s.writebacks := rfl
@[simp] theorem setE_kvWaits {i j v : Nat} : (setE s i j v).kvWaits = s.kvWaits := rfl
@[simp] theorem setE_stones {i j v : Nat} : (setE s i j v).stones = s.stones := rfl
@[simp] theorem setE_arrays {i j v : Nat} : (setE s i j v).arrays = s.arrays := rfl
@[simp] theorem setE_dmas {i j v : Nat} : (setE s i j v).dmas = s.dmas := rfl
@[simp] theorem setE_dmaLast {i j v : Nat} : (setE s i j v).dmaLast = s.dmaLast := rfl
@[simp] theorem setE_pools {i j v : Nat} : (setE s i j v).pools = s.pools := rfl
@[simp] theorem setE_umora {i j v : Nat} : (setE s i j v).umora = s.umora := rfl
@[simp] theorem setE_clock {i j v : Nat} : (setE s i j v).clock = s.clock := rfl
@[simp] theorem setE_power {i j v : Nat} : (setE s i j v).power = s.power := rfl
@[simp] theorem setE_sec {i j v : Nat} : (setE s i j v).sec = s.sec := rfl

/-! ### countBy -/

@[simp] theorem countBy_pending {i j n : Nat} : (countBy s i j n).pending = s.pending := rfl
@[simp] theorem countBy_nonce {i j n : Nat} : (countBy s i j n).nonce = s.nonce := rfl
@[simp] theorem countBy_resetLow {i j n : Nat} : (countBy s i j n).resetLow = s.resetLow := rfl
@[simp] theorem countBy_trayId {i j n : Nat} : (countBy s i j n).trayId = s.trayId := rfl
@[simp] theorem countBy_fuses {i j n : Nat} : (countBy s i j n).fuses = s.fuses := rfl
@[simp] theorem countBy_mode {i j n : Nat} : (countBy s i j n).mode = s.mode := rfl
@[simp] theorem countBy_out {i j n : Nat} : (countBy s i j n).out = s.out := rfl
@[simp] theorem countBy_mem {i j n : Nat} : (countBy s i j n).mem = s.mem := rfl
@[simp] theorem countBy_sram {i j n : Nat} : (countBy s i j n).sram = s.sram := rfl
@[simp] theorem countBy_slotMem {i j n : Nat} : (countBy s i j n).slotMem = s.slotMem := rfl
@[simp] theorem countBy_fenced {i j n : Nat} : (countBy s i j n).fenced = s.fenced := rfl
@[simp] theorem countBy_badWords {i j n : Nat} : (countBy s i j n).badWords = s.badWords := rfl
@[simp] theorem countBy_wordErrs {i j n : Nat} : (countBy s i j n).wordErrs = s.wordErrs := rfl
@[simp] theorem countBy_recC {i j n : Nat} : (countBy s i j n).recC = s.recC := rfl
@[simp] theorem countBy_recU {i j n : Nat} : (countBy s i j n).recU = s.recU := rfl
@[simp] theorem countBy_recF {i j n : Nat} : (countBy s i j n).recF = s.recF := rfl
@[simp] theorem countBy_deadPairs {i j n : Nat} : (countBy s i j n).deadPairs = s.deadPairs := rfl
@[simp] theorem countBy_cAckDue {i j n : Nat} : (countBy s i j n).cAckDue = s.cAckDue := rfl
@[simp] theorem countBy_mpFailed {i j n : Nat} : (countBy s i j n).mpFailed = s.mpFailed := rfl
@[simp] theorem countBy_switchDead {i j n : Nat} : (countBy s i j n).switchDead = s.switchDead := rfl
@[simp] theorem countBy_pondFaults {i j n : Nat} : (countBy s i j n).pondFaults = s.pondFaults := rfl
@[simp] theorem countBy_lastSummary {i j n : Nat} : (countBy s i j n).lastSummary = s.lastSummary := rfl
@[simp] theorem countBy_holds {i j n : Nat} : (countBy s i j n).holds = s.holds := rfl
@[simp] theorem countBy_irqStacks {i j n : Nat} : (countBy s i j n).irqStacks = s.irqStacks := rfl
@[simp] theorem countBy_served {i j n : Nat} : (countBy s i j n).served = s.served := rfl
@[simp] theorem countBy_delivering {i j n : Nat} : (countBy s i j n).delivering = s.delivering := rfl
@[simp] theorem countBy_dictRefusal {i j n : Nat} : (countBy s i j n).dictRefusal = s.dictRefusal := rfl
@[simp] theorem countBy_replay {i j n : Nat} : (countBy s i j n).replay = s.replay := rfl
@[simp] theorem countBy_mslots {i j n : Nat} : (countBy s i j n).mslots = s.mslots := rfl
@[simp] theorem countBy_dictQ {i j n : Nat} : (countBy s i j n).dictQ = s.dictQ := rfl
@[simp] theorem countBy_deferred {i j n : Nat} : (countBy s i j n).deferred = s.deferred := rfl
@[simp] theorem countBy_relays {i j n : Nat} : (countBy s i j n).relays = s.relays := rfl
@[simp] theorem countBy_ports {i j n : Nat} : (countBy s i j n).ports = s.ports := rfl
@[simp] theorem countBy_injQ {i j n : Nat} : (countBy s i j n).injQ = s.injQ := rfl
@[simp] theorem countBy_stalledInj {i j n : Nat} : (countBy s i j n).stalledInj = s.stalledInj := rfl
@[simp] theorem countBy_bridgeQ {i j n : Nat} : (countBy s i j n).bridgeQ = s.bridgeQ := rfl
@[simp] theorem countBy_delivered {i j n : Nat} : (countBy s i j n).delivered = s.delivered := rfl
@[simp] theorem countBy_tables {i j n : Nat} : (countBy s i j n).tables = s.tables := rfl
@[simp] theorem countBy_aqs {i j n : Nat} : (countBy s i j n).aqs = s.aqs := rfl
@[simp] theorem countBy_aqQ {i j n : Nat} : (countBy s i j n).aqQ = s.aqQ := rfl
@[simp] theorem countBy_aqGot {i j n : Nat} : (countBy s i j n).aqGot = s.aqGot := rfl
@[simp] theorem countBy_aqBurst {i j n : Nat} : (countBy s i j n).aqBurst = s.aqBurst := rfl
@[simp] theorem countBy_aqSent {i j n : Nat} : (countBy s i j n).aqSent = s.aqSent := rfl
@[simp] theorem countBy_dropsSeen {i j n : Nat} : (countBy s i j n).dropsSeen = s.dropsSeen := rfl
@[simp] theorem countBy_tagDropSeen {i j n : Nat} : (countBy s i j n).tagDropSeen = s.tagDropSeen := rfl
@[simp] theorem countBy_epochStep {i j n : Nat} : (countBy s i j n).epochStep = s.epochStep := rfl
@[simp] theorem countBy_windows {i j n : Nat} : (countBy s i j n).windows = s.windows := rfl
@[simp] theorem countBy_windowFaultSeen {i j n : Nat} : (countBy s i j n).windowFaultSeen = s.windowFaultSeen := rfl
@[simp] theorem countBy_memErrors {i j n : Nat} : (countBy s i j n).memErrors = s.memErrors := rfl
@[simp] theorem countBy_senders {i j n : Nat} : (countBy s i j n).senders = s.senders := rfl
@[simp] theorem countBy_ledger {i j n : Nat} : (countBy s i j n).ledger = s.ledger := rfl
@[simp] theorem countBy_ledgerWait {i j n : Nat} : (countBy s i j n).ledgerWait = s.ledgerWait := rfl
@[simp] theorem countBy_lineQ {i j n : Nat} : (countBy s i j n).lineQ = s.lineQ := rfl
@[simp] theorem countBy_homeReqs {i j n : Nat} : (countBy s i j n).homeReqs = s.homeReqs := rfl
@[simp] theorem countBy_hotLines {i j n : Nat} : (countBy s i j n).hotLines = s.hotLines := rfl
@[simp] theorem countBy_groupLists {i j n : Nat} : (countBy s i j n).groupLists = s.groupLists := rfl
@[simp] theorem countBy_colls {i j n : Nat} : (countBy s i j n).colls = s.colls := rfl
@[simp] theorem countBy_collEnds {i j n : Nat} : (countBy s i j n).collEnds = s.collEnds := rfl
@[simp] theorem countBy_mcasts {i j n : Nat} : (countBy s i j n).mcasts = s.mcasts := rfl
@[simp] theorem countBy_mcastNext {i j n : Nat} : (countBy s i j n).mcastNext = s.mcastNext := rfl
@[simp] theorem countBy_heldMsgs {i j n : Nat} : (countBy s i j n).heldMsgs = s.heldMsgs := rfl
@[simp] theorem countBy_fencedLegs {i j n : Nat} : (countBy s i j n).fencedLegs = s.fencedLegs := rfl
@[simp] theorem countBy_backoffs {i j n : Nat} : (countBy s i j n).backoffs = s.backoffs := rfl
@[simp] theorem countBy_jobTag {i j n : Nat} : (countBy s i j n).jobTag = s.jobTag := rfl
@[simp] theorem countBy_starts {i j n : Nat} : (countBy s i j n).starts = s.starts := rfl
@[simp] theorem countBy_jobList {i j n : Nat} : (countBy s i j n).jobList = s.jobList := rfl
@[simp] theorem countBy_jobStep {i j n : Nat} : (countBy s i j n).jobStep = s.jobStep := rfl
@[simp] theorem countBy_jobMember {i j n : Nat} : (countBy s i j n).jobMember = s.jobMember := rfl
@[simp] theorem countBy_jobSeen {i j n : Nat} : (countBy s i j n).jobSeen = s.jobSeen := rfl
@[simp] theorem countBy_jobMembers {i j n : Nat} : (countBy s i j n).jobMembers = s.jobMembers := rfl
@[simp] theorem countBy_keystoneSilent {i j n : Nat} : (countBy s i j n).keystoneSilent = s.keystoneSilent := rfl
@[simp] theorem countBy_newKeystone {i j n : Nat} : (countBy s i j n).newKeystone = s.newKeystone := rfl
@[simp] theorem countBy_ctxs {i j n : Nat} : (countBy s i j n).ctxs = s.ctxs := rfl
@[simp] theorem countBy_loading {i j n : Nat} : (countBy s i j n).loading = s.loading := rfl
@[simp] theorem countBy_rings {i j n : Nat} : (countBy s i j n).rings = s.rings := rfl
@[simp] theorem countBy_mailboxes {i j n : Nat} : (countBy s i j n).mailboxes = s.mailboxes := rfl
@[simp] theorem countBy_posts {i j n : Nat} : (countBy s i j n).posts = s.posts := rfl
@[simp] theorem countBy_teardown {i j n : Nat} : (countBy s i j n).teardown = s.teardown := rfl
@[simp] theorem countBy_routers {i j n : Nat} : (countBy s i j n).routers = s.routers := rfl
@[simp] theorem countBy_toks {i j n : Nat} : (countBy s i j n).toks = s.toks := rfl
@[simp] theorem countBy_confs {i j n : Nat} : (countBy s i j n).confs = s.confs := rfl
@[simp] theorem countBy_gens {i j n : Nat} : (countBy s i j n).gens = s.gens := rfl
@[simp] theorem countBy_cancels {i j n : Nat} : (countBy s i j n).cancels = s.cancels := rfl
@[simp] theorem countBy_notIntact {i j n : Nat} : (countBy s i j n).notIntact = s.notIntact := rfl
@[simp] theorem countBy_bundles {i j n : Nat} : (countBy s i j n).bundles = s.bundles := rfl
@[simp] theorem countBy_barriers {i j n : Nat} : (countBy s i j n).barriers = s.barriers := rfl
@[simp] theorem countBy_claims {i j n : Nat} : (countBy s i j n).claims = s.claims := rfl
@[simp] theorem countBy_admitted {i j n : Nat} : (countBy s i j n).admitted = s.admitted := rfl
@[simp] theorem countBy_slots {i j n : Nat} : (countBy s i j n).slots = s.slots := rfl
@[simp] theorem countBy_runs {i j n : Nat} : (countBy s i j n).runs = s.runs := rfl
@[simp] theorem countBy_qTails {i j n : Nat} : (countBy s i j n).qTails = s.qTails := rfl
@[simp] theorem countBy_pupdates {i j n : Nat} : (countBy s i j n).pupdates = s.pupdates := rfl
@[simp] theorem countBy_blocksReading {i j n : Nat} : (countBy s i j n).blocksReading = s.blocksReading := rfl
@[simp] theorem countBy_fetchQ {i j n : Nat} : (countBy s i j n).fetchQ = s.fetchQ := rfl
@[simp] theorem countBy_fetchHeld {i j n : Nat} : (countBy s i j n).fetchHeld = s.fetchHeld := rfl
@[simp] theorem countBy_fills {i j n : Nat} : (countBy s i j n).fills = s.fills := rfl
@[simp] theorem countBy_wins {i j n : Nat} : (countBy s i j n).wins = s.wins := rfl
@[simp] theorem countBy_writebacks {i j n : Nat} : (countBy s i j n).writebacks = s.writebacks := rfl
@[simp] theorem countBy_kvWaits {i j n : Nat} : (countBy s i j n).kvWaits = s.kvWaits := rfl
@[simp] theorem countBy_stones {i j n : Nat} : (countBy s i j n).stones = s.stones := rfl
@[simp] theorem countBy_arrays {i j n : Nat} : (countBy s i j n).arrays = s.arrays := rfl
@[simp] theorem countBy_dmas {i j n : Nat} : (countBy s i j n).dmas = s.dmas := rfl
@[simp] theorem countBy_dmaLast {i j n : Nat} : (countBy s i j n).dmaLast = s.dmaLast := rfl
@[simp] theorem countBy_pools {i j n : Nat} : (countBy s i j n).pools = s.pools := rfl
@[simp] theorem countBy_umora {i j n : Nat} : (countBy s i j n).umora = s.umora := rfl
@[simp] theorem countBy_clock {i j n : Nat} : (countBy s i j n).clock = s.clock := rfl
@[simp] theorem countBy_power {i j n : Nat} : (countBy s i j n).power = s.power := rfl
@[simp] theorem countBy_sec {i j n : Nat} : (countBy s i j n).sec = s.sec := rfl

/-! ### count -/

@[simp] theorem count_pending {i j : Nat} : (count s i j).pending = s.pending := rfl
@[simp] theorem count_nonce {i j : Nat} : (count s i j).nonce = s.nonce := rfl
@[simp] theorem count_resetLow {i j : Nat} : (count s i j).resetLow = s.resetLow := rfl
@[simp] theorem count_trayId {i j : Nat} : (count s i j).trayId = s.trayId := rfl
@[simp] theorem count_fuses {i j : Nat} : (count s i j).fuses = s.fuses := rfl
@[simp] theorem count_mode {i j : Nat} : (count s i j).mode = s.mode := rfl
@[simp] theorem count_out {i j : Nat} : (count s i j).out = s.out := rfl
@[simp] theorem count_mem {i j : Nat} : (count s i j).mem = s.mem := rfl
@[simp] theorem count_sram {i j : Nat} : (count s i j).sram = s.sram := rfl
@[simp] theorem count_slotMem {i j : Nat} : (count s i j).slotMem = s.slotMem := rfl
@[simp] theorem count_fenced {i j : Nat} : (count s i j).fenced = s.fenced := rfl
@[simp] theorem count_badWords {i j : Nat} : (count s i j).badWords = s.badWords := rfl
@[simp] theorem count_wordErrs {i j : Nat} : (count s i j).wordErrs = s.wordErrs := rfl
@[simp] theorem count_recC {i j : Nat} : (count s i j).recC = s.recC := rfl
@[simp] theorem count_recU {i j : Nat} : (count s i j).recU = s.recU := rfl
@[simp] theorem count_recF {i j : Nat} : (count s i j).recF = s.recF := rfl
@[simp] theorem count_deadPairs {i j : Nat} : (count s i j).deadPairs = s.deadPairs := rfl
@[simp] theorem count_cAckDue {i j : Nat} : (count s i j).cAckDue = s.cAckDue := rfl
@[simp] theorem count_mpFailed {i j : Nat} : (count s i j).mpFailed = s.mpFailed := rfl
@[simp] theorem count_switchDead {i j : Nat} : (count s i j).switchDead = s.switchDead := rfl
@[simp] theorem count_pondFaults {i j : Nat} : (count s i j).pondFaults = s.pondFaults := rfl
@[simp] theorem count_lastSummary {i j : Nat} : (count s i j).lastSummary = s.lastSummary := rfl
@[simp] theorem count_holds {i j : Nat} : (count s i j).holds = s.holds := rfl
@[simp] theorem count_irqStacks {i j : Nat} : (count s i j).irqStacks = s.irqStacks := rfl
@[simp] theorem count_served {i j : Nat} : (count s i j).served = s.served := rfl
@[simp] theorem count_delivering {i j : Nat} : (count s i j).delivering = s.delivering := rfl
@[simp] theorem count_dictRefusal {i j : Nat} : (count s i j).dictRefusal = s.dictRefusal := rfl
@[simp] theorem count_replay {i j : Nat} : (count s i j).replay = s.replay := rfl
@[simp] theorem count_mslots {i j : Nat} : (count s i j).mslots = s.mslots := rfl
@[simp] theorem count_dictQ {i j : Nat} : (count s i j).dictQ = s.dictQ := rfl
@[simp] theorem count_deferred {i j : Nat} : (count s i j).deferred = s.deferred := rfl
@[simp] theorem count_relays {i j : Nat} : (count s i j).relays = s.relays := rfl
@[simp] theorem count_ports {i j : Nat} : (count s i j).ports = s.ports := rfl
@[simp] theorem count_injQ {i j : Nat} : (count s i j).injQ = s.injQ := rfl
@[simp] theorem count_stalledInj {i j : Nat} : (count s i j).stalledInj = s.stalledInj := rfl
@[simp] theorem count_bridgeQ {i j : Nat} : (count s i j).bridgeQ = s.bridgeQ := rfl
@[simp] theorem count_delivered {i j : Nat} : (count s i j).delivered = s.delivered := rfl
@[simp] theorem count_tables {i j : Nat} : (count s i j).tables = s.tables := rfl
@[simp] theorem count_aqs {i j : Nat} : (count s i j).aqs = s.aqs := rfl
@[simp] theorem count_aqQ {i j : Nat} : (count s i j).aqQ = s.aqQ := rfl
@[simp] theorem count_aqGot {i j : Nat} : (count s i j).aqGot = s.aqGot := rfl
@[simp] theorem count_aqBurst {i j : Nat} : (count s i j).aqBurst = s.aqBurst := rfl
@[simp] theorem count_aqSent {i j : Nat} : (count s i j).aqSent = s.aqSent := rfl
@[simp] theorem count_dropsSeen {i j : Nat} : (count s i j).dropsSeen = s.dropsSeen := rfl
@[simp] theorem count_tagDropSeen {i j : Nat} : (count s i j).tagDropSeen = s.tagDropSeen := rfl
@[simp] theorem count_epochStep {i j : Nat} : (count s i j).epochStep = s.epochStep := rfl
@[simp] theorem count_windows {i j : Nat} : (count s i j).windows = s.windows := rfl
@[simp] theorem count_windowFaultSeen {i j : Nat} : (count s i j).windowFaultSeen = s.windowFaultSeen := rfl
@[simp] theorem count_memErrors {i j : Nat} : (count s i j).memErrors = s.memErrors := rfl
@[simp] theorem count_senders {i j : Nat} : (count s i j).senders = s.senders := rfl
@[simp] theorem count_ledger {i j : Nat} : (count s i j).ledger = s.ledger := rfl
@[simp] theorem count_ledgerWait {i j : Nat} : (count s i j).ledgerWait = s.ledgerWait := rfl
@[simp] theorem count_lineQ {i j : Nat} : (count s i j).lineQ = s.lineQ := rfl
@[simp] theorem count_homeReqs {i j : Nat} : (count s i j).homeReqs = s.homeReqs := rfl
@[simp] theorem count_hotLines {i j : Nat} : (count s i j).hotLines = s.hotLines := rfl
@[simp] theorem count_groupLists {i j : Nat} : (count s i j).groupLists = s.groupLists := rfl
@[simp] theorem count_colls {i j : Nat} : (count s i j).colls = s.colls := rfl
@[simp] theorem count_collEnds {i j : Nat} : (count s i j).collEnds = s.collEnds := rfl
@[simp] theorem count_mcasts {i j : Nat} : (count s i j).mcasts = s.mcasts := rfl
@[simp] theorem count_mcastNext {i j : Nat} : (count s i j).mcastNext = s.mcastNext := rfl
@[simp] theorem count_heldMsgs {i j : Nat} : (count s i j).heldMsgs = s.heldMsgs := rfl
@[simp] theorem count_fencedLegs {i j : Nat} : (count s i j).fencedLegs = s.fencedLegs := rfl
@[simp] theorem count_backoffs {i j : Nat} : (count s i j).backoffs = s.backoffs := rfl
@[simp] theorem count_jobTag {i j : Nat} : (count s i j).jobTag = s.jobTag := rfl
@[simp] theorem count_starts {i j : Nat} : (count s i j).starts = s.starts := rfl
@[simp] theorem count_jobList {i j : Nat} : (count s i j).jobList = s.jobList := rfl
@[simp] theorem count_jobStep {i j : Nat} : (count s i j).jobStep = s.jobStep := rfl
@[simp] theorem count_jobMember {i j : Nat} : (count s i j).jobMember = s.jobMember := rfl
@[simp] theorem count_jobSeen {i j : Nat} : (count s i j).jobSeen = s.jobSeen := rfl
@[simp] theorem count_jobMembers {i j : Nat} : (count s i j).jobMembers = s.jobMembers := rfl
@[simp] theorem count_keystoneSilent {i j : Nat} : (count s i j).keystoneSilent = s.keystoneSilent := rfl
@[simp] theorem count_newKeystone {i j : Nat} : (count s i j).newKeystone = s.newKeystone := rfl
@[simp] theorem count_ctxs {i j : Nat} : (count s i j).ctxs = s.ctxs := rfl
@[simp] theorem count_loading {i j : Nat} : (count s i j).loading = s.loading := rfl
@[simp] theorem count_rings {i j : Nat} : (count s i j).rings = s.rings := rfl
@[simp] theorem count_mailboxes {i j : Nat} : (count s i j).mailboxes = s.mailboxes := rfl
@[simp] theorem count_posts {i j : Nat} : (count s i j).posts = s.posts := rfl
@[simp] theorem count_teardown {i j : Nat} : (count s i j).teardown = s.teardown := rfl
@[simp] theorem count_routers {i j : Nat} : (count s i j).routers = s.routers := rfl
@[simp] theorem count_toks {i j : Nat} : (count s i j).toks = s.toks := rfl
@[simp] theorem count_confs {i j : Nat} : (count s i j).confs = s.confs := rfl
@[simp] theorem count_gens {i j : Nat} : (count s i j).gens = s.gens := rfl
@[simp] theorem count_cancels {i j : Nat} : (count s i j).cancels = s.cancels := rfl
@[simp] theorem count_notIntact {i j : Nat} : (count s i j).notIntact = s.notIntact := rfl
@[simp] theorem count_bundles {i j : Nat} : (count s i j).bundles = s.bundles := rfl
@[simp] theorem count_barriers {i j : Nat} : (count s i j).barriers = s.barriers := rfl
@[simp] theorem count_claims {i j : Nat} : (count s i j).claims = s.claims := rfl
@[simp] theorem count_admitted {i j : Nat} : (count s i j).admitted = s.admitted := rfl
@[simp] theorem count_slots {i j : Nat} : (count s i j).slots = s.slots := rfl
@[simp] theorem count_runs {i j : Nat} : (count s i j).runs = s.runs := rfl
@[simp] theorem count_qTails {i j : Nat} : (count s i j).qTails = s.qTails := rfl
@[simp] theorem count_pupdates {i j : Nat} : (count s i j).pupdates = s.pupdates := rfl
@[simp] theorem count_blocksReading {i j : Nat} : (count s i j).blocksReading = s.blocksReading := rfl
@[simp] theorem count_fetchQ {i j : Nat} : (count s i j).fetchQ = s.fetchQ := rfl
@[simp] theorem count_fetchHeld {i j : Nat} : (count s i j).fetchHeld = s.fetchHeld := rfl
@[simp] theorem count_fills {i j : Nat} : (count s i j).fills = s.fills := rfl
@[simp] theorem count_wins {i j : Nat} : (count s i j).wins = s.wins := rfl
@[simp] theorem count_writebacks {i j : Nat} : (count s i j).writebacks = s.writebacks := rfl
@[simp] theorem count_kvWaits {i j : Nat} : (count s i j).kvWaits = s.kvWaits := rfl
@[simp] theorem count_stones {i j : Nat} : (count s i j).stones = s.stones := rfl
@[simp] theorem count_arrays {i j : Nat} : (count s i j).arrays = s.arrays := rfl
@[simp] theorem count_dmas {i j : Nat} : (count s i j).dmas = s.dmas := rfl
@[simp] theorem count_dmaLast {i j : Nat} : (count s i j).dmaLast = s.dmaLast := rfl
@[simp] theorem count_pools {i j : Nat} : (count s i j).pools = s.pools := rfl
@[simp] theorem count_umora {i j : Nat} : (count s i j).umora = s.umora := rfl
@[simp] theorem count_clock {i j : Nat} : (count s i j).clock = s.clock := rfl
@[simp] theorem count_power {i j : Nat} : (count s i j).power = s.power := rfl
@[simp] theorem count_sec {i j : Nat} : (count s i j).sec = s.sec := rfl

/-! ### emit -/

@[simp] theorem emit_pending {o : Out} : (emit s o).pending = s.pending := rfl
@[simp] theorem emit_nonce {o : Out} : (emit s o).nonce = s.nonce := rfl
@[simp] theorem emit_resetLow {o : Out} : (emit s o).resetLow = s.resetLow := rfl
@[simp] theorem emit_trayId {o : Out} : (emit s o).trayId = s.trayId := rfl
@[simp] theorem emit_fuses {o : Out} : (emit s o).fuses = s.fuses := rfl
@[simp] theorem emit_mode {o : Out} : (emit s o).mode = s.mode := rfl
@[simp] theorem emit_ent {o : Out} : (emit s o).ent = s.ent := rfl
@[simp] theorem emit_mem {o : Out} : (emit s o).mem = s.mem := rfl
@[simp] theorem emit_sram {o : Out} : (emit s o).sram = s.sram := rfl
@[simp] theorem emit_slotMem {o : Out} : (emit s o).slotMem = s.slotMem := rfl
@[simp] theorem emit_fenced {o : Out} : (emit s o).fenced = s.fenced := rfl
@[simp] theorem emit_badWords {o : Out} : (emit s o).badWords = s.badWords := rfl
@[simp] theorem emit_wordErrs {o : Out} : (emit s o).wordErrs = s.wordErrs := rfl
@[simp] theorem emit_recC {o : Out} : (emit s o).recC = s.recC := rfl
@[simp] theorem emit_recU {o : Out} : (emit s o).recU = s.recU := rfl
@[simp] theorem emit_recF {o : Out} : (emit s o).recF = s.recF := rfl
@[simp] theorem emit_deadPairs {o : Out} : (emit s o).deadPairs = s.deadPairs := rfl
@[simp] theorem emit_cAckDue {o : Out} : (emit s o).cAckDue = s.cAckDue := rfl
@[simp] theorem emit_mpFailed {o : Out} : (emit s o).mpFailed = s.mpFailed := rfl
@[simp] theorem emit_switchDead {o : Out} : (emit s o).switchDead = s.switchDead := rfl
@[simp] theorem emit_pondFaults {o : Out} : (emit s o).pondFaults = s.pondFaults := rfl
@[simp] theorem emit_lastSummary {o : Out} : (emit s o).lastSummary = s.lastSummary := rfl
@[simp] theorem emit_holds {o : Out} : (emit s o).holds = s.holds := rfl
@[simp] theorem emit_irqStacks {o : Out} : (emit s o).irqStacks = s.irqStacks := rfl
@[simp] theorem emit_served {o : Out} : (emit s o).served = s.served := rfl
@[simp] theorem emit_delivering {o : Out} : (emit s o).delivering = s.delivering := rfl
@[simp] theorem emit_dictRefusal {o : Out} : (emit s o).dictRefusal = s.dictRefusal := rfl
@[simp] theorem emit_replay {o : Out} : (emit s o).replay = s.replay := rfl
@[simp] theorem emit_mslots {o : Out} : (emit s o).mslots = s.mslots := rfl
@[simp] theorem emit_dictQ {o : Out} : (emit s o).dictQ = s.dictQ := rfl
@[simp] theorem emit_deferred {o : Out} : (emit s o).deferred = s.deferred := rfl
@[simp] theorem emit_relays {o : Out} : (emit s o).relays = s.relays := rfl
@[simp] theorem emit_ports {o : Out} : (emit s o).ports = s.ports := rfl
@[simp] theorem emit_injQ {o : Out} : (emit s o).injQ = s.injQ := rfl
@[simp] theorem emit_stalledInj {o : Out} : (emit s o).stalledInj = s.stalledInj := rfl
@[simp] theorem emit_bridgeQ {o : Out} : (emit s o).bridgeQ = s.bridgeQ := rfl
@[simp] theorem emit_delivered {o : Out} : (emit s o).delivered = s.delivered := rfl
@[simp] theorem emit_tables {o : Out} : (emit s o).tables = s.tables := rfl
@[simp] theorem emit_aqs {o : Out} : (emit s o).aqs = s.aqs := rfl
@[simp] theorem emit_aqQ {o : Out} : (emit s o).aqQ = s.aqQ := rfl
@[simp] theorem emit_aqGot {o : Out} : (emit s o).aqGot = s.aqGot := rfl
@[simp] theorem emit_aqBurst {o : Out} : (emit s o).aqBurst = s.aqBurst := rfl
@[simp] theorem emit_aqSent {o : Out} : (emit s o).aqSent = s.aqSent := rfl
@[simp] theorem emit_dropsSeen {o : Out} : (emit s o).dropsSeen = s.dropsSeen := rfl
@[simp] theorem emit_tagDropSeen {o : Out} : (emit s o).tagDropSeen = s.tagDropSeen := rfl
@[simp] theorem emit_epochStep {o : Out} : (emit s o).epochStep = s.epochStep := rfl
@[simp] theorem emit_windows {o : Out} : (emit s o).windows = s.windows := rfl
@[simp] theorem emit_windowFaultSeen {o : Out} : (emit s o).windowFaultSeen = s.windowFaultSeen := rfl
@[simp] theorem emit_memErrors {o : Out} : (emit s o).memErrors = s.memErrors := rfl
@[simp] theorem emit_senders {o : Out} : (emit s o).senders = s.senders := rfl
@[simp] theorem emit_ledger {o : Out} : (emit s o).ledger = s.ledger := rfl
@[simp] theorem emit_ledgerWait {o : Out} : (emit s o).ledgerWait = s.ledgerWait := rfl
@[simp] theorem emit_lineQ {o : Out} : (emit s o).lineQ = s.lineQ := rfl
@[simp] theorem emit_homeReqs {o : Out} : (emit s o).homeReqs = s.homeReqs := rfl
@[simp] theorem emit_hotLines {o : Out} : (emit s o).hotLines = s.hotLines := rfl
@[simp] theorem emit_groupLists {o : Out} : (emit s o).groupLists = s.groupLists := rfl
@[simp] theorem emit_colls {o : Out} : (emit s o).colls = s.colls := rfl
@[simp] theorem emit_collEnds {o : Out} : (emit s o).collEnds = s.collEnds := rfl
@[simp] theorem emit_mcasts {o : Out} : (emit s o).mcasts = s.mcasts := rfl
@[simp] theorem emit_mcastNext {o : Out} : (emit s o).mcastNext = s.mcastNext := rfl
@[simp] theorem emit_heldMsgs {o : Out} : (emit s o).heldMsgs = s.heldMsgs := rfl
@[simp] theorem emit_fencedLegs {o : Out} : (emit s o).fencedLegs = s.fencedLegs := rfl
@[simp] theorem emit_backoffs {o : Out} : (emit s o).backoffs = s.backoffs := rfl
@[simp] theorem emit_jobTag {o : Out} : (emit s o).jobTag = s.jobTag := rfl
@[simp] theorem emit_starts {o : Out} : (emit s o).starts = s.starts := rfl
@[simp] theorem emit_jobList {o : Out} : (emit s o).jobList = s.jobList := rfl
@[simp] theorem emit_jobStep {o : Out} : (emit s o).jobStep = s.jobStep := rfl
@[simp] theorem emit_jobMember {o : Out} : (emit s o).jobMember = s.jobMember := rfl
@[simp] theorem emit_jobSeen {o : Out} : (emit s o).jobSeen = s.jobSeen := rfl
@[simp] theorem emit_jobMembers {o : Out} : (emit s o).jobMembers = s.jobMembers := rfl
@[simp] theorem emit_keystoneSilent {o : Out} : (emit s o).keystoneSilent = s.keystoneSilent := rfl
@[simp] theorem emit_newKeystone {o : Out} : (emit s o).newKeystone = s.newKeystone := rfl
@[simp] theorem emit_ctxs {o : Out} : (emit s o).ctxs = s.ctxs := rfl
@[simp] theorem emit_loading {o : Out} : (emit s o).loading = s.loading := rfl
@[simp] theorem emit_rings {o : Out} : (emit s o).rings = s.rings := rfl
@[simp] theorem emit_mailboxes {o : Out} : (emit s o).mailboxes = s.mailboxes := rfl
@[simp] theorem emit_posts {o : Out} : (emit s o).posts = s.posts := rfl
@[simp] theorem emit_teardown {o : Out} : (emit s o).teardown = s.teardown := rfl
@[simp] theorem emit_routers {o : Out} : (emit s o).routers = s.routers := rfl
@[simp] theorem emit_toks {o : Out} : (emit s o).toks = s.toks := rfl
@[simp] theorem emit_confs {o : Out} : (emit s o).confs = s.confs := rfl
@[simp] theorem emit_gens {o : Out} : (emit s o).gens = s.gens := rfl
@[simp] theorem emit_cancels {o : Out} : (emit s o).cancels = s.cancels := rfl
@[simp] theorem emit_notIntact {o : Out} : (emit s o).notIntact = s.notIntact := rfl
@[simp] theorem emit_bundles {o : Out} : (emit s o).bundles = s.bundles := rfl
@[simp] theorem emit_barriers {o : Out} : (emit s o).barriers = s.barriers := rfl
@[simp] theorem emit_claims {o : Out} : (emit s o).claims = s.claims := rfl
@[simp] theorem emit_admitted {o : Out} : (emit s o).admitted = s.admitted := rfl
@[simp] theorem emit_slots {o : Out} : (emit s o).slots = s.slots := rfl
@[simp] theorem emit_runs {o : Out} : (emit s o).runs = s.runs := rfl
@[simp] theorem emit_qTails {o : Out} : (emit s o).qTails = s.qTails := rfl
@[simp] theorem emit_pupdates {o : Out} : (emit s o).pupdates = s.pupdates := rfl
@[simp] theorem emit_blocksReading {o : Out} : (emit s o).blocksReading = s.blocksReading := rfl
@[simp] theorem emit_fetchQ {o : Out} : (emit s o).fetchQ = s.fetchQ := rfl
@[simp] theorem emit_fetchHeld {o : Out} : (emit s o).fetchHeld = s.fetchHeld := rfl
@[simp] theorem emit_fills {o : Out} : (emit s o).fills = s.fills := rfl
@[simp] theorem emit_wins {o : Out} : (emit s o).wins = s.wins := rfl
@[simp] theorem emit_writebacks {o : Out} : (emit s o).writebacks = s.writebacks := rfl
@[simp] theorem emit_kvWaits {o : Out} : (emit s o).kvWaits = s.kvWaits := rfl
@[simp] theorem emit_stones {o : Out} : (emit s o).stones = s.stones := rfl
@[simp] theorem emit_arrays {o : Out} : (emit s o).arrays = s.arrays := rfl
@[simp] theorem emit_dmas {o : Out} : (emit s o).dmas = s.dmas := rfl
@[simp] theorem emit_dmaLast {o : Out} : (emit s o).dmaLast = s.dmaLast := rfl
@[simp] theorem emit_pools {o : Out} : (emit s o).pools = s.pools := rfl
@[simp] theorem emit_clock {o : Out} : (emit s o).clock = s.clock := rfl
@[simp] theorem emit_power {o : Out} : (emit s o).power = s.power := rfl
@[simp] theorem emit_sec {o : Out} : (emit s o).sec = s.sec := rfl

/-! ### fresh -/

@[simp] theorem fresh_pending : (fresh s).pending = s.pending := rfl
@[simp] theorem fresh_resetLow : (fresh s).resetLow = s.resetLow := rfl
@[simp] theorem fresh_trayId : (fresh s).trayId = s.trayId := rfl
@[simp] theorem fresh_fuses : (fresh s).fuses = s.fuses := rfl
@[simp] theorem fresh_mode : (fresh s).mode = s.mode := rfl
@[simp] theorem fresh_ent : (fresh s).ent = s.ent := rfl
@[simp] theorem fresh_out : (fresh s).out = s.out := rfl
@[simp] theorem fresh_mem : (fresh s).mem = s.mem := rfl
@[simp] theorem fresh_sram : (fresh s).sram = s.sram := rfl
@[simp] theorem fresh_slotMem : (fresh s).slotMem = s.slotMem := rfl
@[simp] theorem fresh_fenced : (fresh s).fenced = s.fenced := rfl
@[simp] theorem fresh_badWords : (fresh s).badWords = s.badWords := rfl
@[simp] theorem fresh_wordErrs : (fresh s).wordErrs = s.wordErrs := rfl
@[simp] theorem fresh_recC : (fresh s).recC = s.recC := rfl
@[simp] theorem fresh_recU : (fresh s).recU = s.recU := rfl
@[simp] theorem fresh_recF : (fresh s).recF = s.recF := rfl
@[simp] theorem fresh_deadPairs : (fresh s).deadPairs = s.deadPairs := rfl
@[simp] theorem fresh_cAckDue : (fresh s).cAckDue = s.cAckDue := rfl
@[simp] theorem fresh_mpFailed : (fresh s).mpFailed = s.mpFailed := rfl
@[simp] theorem fresh_switchDead : (fresh s).switchDead = s.switchDead := rfl
@[simp] theorem fresh_pondFaults : (fresh s).pondFaults = s.pondFaults := rfl
@[simp] theorem fresh_lastSummary : (fresh s).lastSummary = s.lastSummary := rfl
@[simp] theorem fresh_holds : (fresh s).holds = s.holds := rfl
@[simp] theorem fresh_irqStacks : (fresh s).irqStacks = s.irqStacks := rfl
@[simp] theorem fresh_served : (fresh s).served = s.served := rfl
@[simp] theorem fresh_delivering : (fresh s).delivering = s.delivering := rfl
@[simp] theorem fresh_dictRefusal : (fresh s).dictRefusal = s.dictRefusal := rfl
@[simp] theorem fresh_replay : (fresh s).replay = s.replay := rfl
@[simp] theorem fresh_mslots : (fresh s).mslots = s.mslots := rfl
@[simp] theorem fresh_dictQ : (fresh s).dictQ = s.dictQ := rfl
@[simp] theorem fresh_deferred : (fresh s).deferred = s.deferred := rfl
@[simp] theorem fresh_relays : (fresh s).relays = s.relays := rfl
@[simp] theorem fresh_ports : (fresh s).ports = s.ports := rfl
@[simp] theorem fresh_injQ : (fresh s).injQ = s.injQ := rfl
@[simp] theorem fresh_stalledInj : (fresh s).stalledInj = s.stalledInj := rfl
@[simp] theorem fresh_bridgeQ : (fresh s).bridgeQ = s.bridgeQ := rfl
@[simp] theorem fresh_delivered : (fresh s).delivered = s.delivered := rfl
@[simp] theorem fresh_tables : (fresh s).tables = s.tables := rfl
@[simp] theorem fresh_aqs : (fresh s).aqs = s.aqs := rfl
@[simp] theorem fresh_aqQ : (fresh s).aqQ = s.aqQ := rfl
@[simp] theorem fresh_aqGot : (fresh s).aqGot = s.aqGot := rfl
@[simp] theorem fresh_aqBurst : (fresh s).aqBurst = s.aqBurst := rfl
@[simp] theorem fresh_aqSent : (fresh s).aqSent = s.aqSent := rfl
@[simp] theorem fresh_dropsSeen : (fresh s).dropsSeen = s.dropsSeen := rfl
@[simp] theorem fresh_tagDropSeen : (fresh s).tagDropSeen = s.tagDropSeen := rfl
@[simp] theorem fresh_epochStep : (fresh s).epochStep = s.epochStep := rfl
@[simp] theorem fresh_windows : (fresh s).windows = s.windows := rfl
@[simp] theorem fresh_windowFaultSeen : (fresh s).windowFaultSeen = s.windowFaultSeen := rfl
@[simp] theorem fresh_memErrors : (fresh s).memErrors = s.memErrors := rfl
@[simp] theorem fresh_senders : (fresh s).senders = s.senders := rfl
@[simp] theorem fresh_ledger : (fresh s).ledger = s.ledger := rfl
@[simp] theorem fresh_ledgerWait : (fresh s).ledgerWait = s.ledgerWait := rfl
@[simp] theorem fresh_lineQ : (fresh s).lineQ = s.lineQ := rfl
@[simp] theorem fresh_homeReqs : (fresh s).homeReqs = s.homeReqs := rfl
@[simp] theorem fresh_hotLines : (fresh s).hotLines = s.hotLines := rfl
@[simp] theorem fresh_groupLists : (fresh s).groupLists = s.groupLists := rfl
@[simp] theorem fresh_colls : (fresh s).colls = s.colls := rfl
@[simp] theorem fresh_collEnds : (fresh s).collEnds = s.collEnds := rfl
@[simp] theorem fresh_mcasts : (fresh s).mcasts = s.mcasts := rfl
@[simp] theorem fresh_mcastNext : (fresh s).mcastNext = s.mcastNext := rfl
@[simp] theorem fresh_heldMsgs : (fresh s).heldMsgs = s.heldMsgs := rfl
@[simp] theorem fresh_fencedLegs : (fresh s).fencedLegs = s.fencedLegs := rfl
@[simp] theorem fresh_backoffs : (fresh s).backoffs = s.backoffs := rfl
@[simp] theorem fresh_jobTag : (fresh s).jobTag = s.jobTag := rfl
@[simp] theorem fresh_starts : (fresh s).starts = s.starts := rfl
@[simp] theorem fresh_jobList : (fresh s).jobList = s.jobList := rfl
@[simp] theorem fresh_jobStep : (fresh s).jobStep = s.jobStep := rfl
@[simp] theorem fresh_jobMember : (fresh s).jobMember = s.jobMember := rfl
@[simp] theorem fresh_jobSeen : (fresh s).jobSeen = s.jobSeen := rfl
@[simp] theorem fresh_jobMembers : (fresh s).jobMembers = s.jobMembers := rfl
@[simp] theorem fresh_keystoneSilent : (fresh s).keystoneSilent = s.keystoneSilent := rfl
@[simp] theorem fresh_newKeystone : (fresh s).newKeystone = s.newKeystone := rfl
@[simp] theorem fresh_ctxs : (fresh s).ctxs = s.ctxs := rfl
@[simp] theorem fresh_loading : (fresh s).loading = s.loading := rfl
@[simp] theorem fresh_rings : (fresh s).rings = s.rings := rfl
@[simp] theorem fresh_mailboxes : (fresh s).mailboxes = s.mailboxes := rfl
@[simp] theorem fresh_posts : (fresh s).posts = s.posts := rfl
@[simp] theorem fresh_teardown : (fresh s).teardown = s.teardown := rfl
@[simp] theorem fresh_routers : (fresh s).routers = s.routers := rfl
@[simp] theorem fresh_toks : (fresh s).toks = s.toks := rfl
@[simp] theorem fresh_confs : (fresh s).confs = s.confs := rfl
@[simp] theorem fresh_gens : (fresh s).gens = s.gens := rfl
@[simp] theorem fresh_cancels : (fresh s).cancels = s.cancels := rfl
@[simp] theorem fresh_notIntact : (fresh s).notIntact = s.notIntact := rfl
@[simp] theorem fresh_bundles : (fresh s).bundles = s.bundles := rfl
@[simp] theorem fresh_barriers : (fresh s).barriers = s.barriers := rfl
@[simp] theorem fresh_claims : (fresh s).claims = s.claims := rfl
@[simp] theorem fresh_admitted : (fresh s).admitted = s.admitted := rfl
@[simp] theorem fresh_slots : (fresh s).slots = s.slots := rfl
@[simp] theorem fresh_runs : (fresh s).runs = s.runs := rfl
@[simp] theorem fresh_qTails : (fresh s).qTails = s.qTails := rfl
@[simp] theorem fresh_pupdates : (fresh s).pupdates = s.pupdates := rfl
@[simp] theorem fresh_blocksReading : (fresh s).blocksReading = s.blocksReading := rfl
@[simp] theorem fresh_fetchQ : (fresh s).fetchQ = s.fetchQ := rfl
@[simp] theorem fresh_fetchHeld : (fresh s).fetchHeld = s.fetchHeld := rfl
@[simp] theorem fresh_fills : (fresh s).fills = s.fills := rfl
@[simp] theorem fresh_wins : (fresh s).wins = s.wins := rfl
@[simp] theorem fresh_writebacks : (fresh s).writebacks = s.writebacks := rfl
@[simp] theorem fresh_kvWaits : (fresh s).kvWaits = s.kvWaits := rfl
@[simp] theorem fresh_stones : (fresh s).stones = s.stones := rfl
@[simp] theorem fresh_arrays : (fresh s).arrays = s.arrays := rfl
@[simp] theorem fresh_dmas : (fresh s).dmas = s.dmas := rfl
@[simp] theorem fresh_dmaLast : (fresh s).dmaLast = s.dmaLast := rfl
@[simp] theorem fresh_pools : (fresh s).pools = s.pools := rfl
@[simp] theorem fresh_umora : (fresh s).umora = s.umora := rfl
@[simp] theorem fresh_clock : (fresh s).clock = s.clock := rfl
@[simp] theorem fresh_power : (fresh s).power = s.power := rfl
@[simp] theorem fresh_sec : (fresh s).sec = s.sec := rfl

/-! ### setStone -/

@[simp] theorem setStone_pending {k : Nat} {x : Stone} : (setStone s k x).pending = s.pending := rfl
@[simp] theorem setStone_nonce {k : Nat} {x : Stone} : (setStone s k x).nonce = s.nonce := rfl
@[simp] theorem setStone_resetLow {k : Nat} {x : Stone} : (setStone s k x).resetLow = s.resetLow := rfl
@[simp] theorem setStone_trayId {k : Nat} {x : Stone} : (setStone s k x).trayId = s.trayId := rfl
@[simp] theorem setStone_fuses {k : Nat} {x : Stone} : (setStone s k x).fuses = s.fuses := rfl
@[simp] theorem setStone_mode {k : Nat} {x : Stone} : (setStone s k x).mode = s.mode := rfl
@[simp] theorem setStone_ent {k : Nat} {x : Stone} : (setStone s k x).ent = s.ent := rfl
@[simp] theorem setStone_out {k : Nat} {x : Stone} : (setStone s k x).out = s.out := rfl
@[simp] theorem setStone_mem {k : Nat} {x : Stone} : (setStone s k x).mem = s.mem := rfl
@[simp] theorem setStone_sram {k : Nat} {x : Stone} : (setStone s k x).sram = s.sram := rfl
@[simp] theorem setStone_slotMem {k : Nat} {x : Stone} : (setStone s k x).slotMem = s.slotMem := rfl
@[simp] theorem setStone_fenced {k : Nat} {x : Stone} : (setStone s k x).fenced = s.fenced := rfl
@[simp] theorem setStone_badWords {k : Nat} {x : Stone} : (setStone s k x).badWords = s.badWords := rfl
@[simp] theorem setStone_wordErrs {k : Nat} {x : Stone} : (setStone s k x).wordErrs = s.wordErrs := rfl
@[simp] theorem setStone_recC {k : Nat} {x : Stone} : (setStone s k x).recC = s.recC := rfl
@[simp] theorem setStone_recU {k : Nat} {x : Stone} : (setStone s k x).recU = s.recU := rfl
@[simp] theorem setStone_recF {k : Nat} {x : Stone} : (setStone s k x).recF = s.recF := rfl
@[simp] theorem setStone_deadPairs {k : Nat} {x : Stone} : (setStone s k x).deadPairs = s.deadPairs := rfl
@[simp] theorem setStone_cAckDue {k : Nat} {x : Stone} : (setStone s k x).cAckDue = s.cAckDue := rfl
@[simp] theorem setStone_mpFailed {k : Nat} {x : Stone} : (setStone s k x).mpFailed = s.mpFailed := rfl
@[simp] theorem setStone_switchDead {k : Nat} {x : Stone} : (setStone s k x).switchDead = s.switchDead := rfl
@[simp] theorem setStone_pondFaults {k : Nat} {x : Stone} : (setStone s k x).pondFaults = s.pondFaults := rfl
@[simp] theorem setStone_lastSummary {k : Nat} {x : Stone} : (setStone s k x).lastSummary = s.lastSummary := rfl
@[simp] theorem setStone_holds {k : Nat} {x : Stone} : (setStone s k x).holds = s.holds := rfl
@[simp] theorem setStone_irqStacks {k : Nat} {x : Stone} : (setStone s k x).irqStacks = s.irqStacks := rfl
@[simp] theorem setStone_served {k : Nat} {x : Stone} : (setStone s k x).served = s.served := rfl
@[simp] theorem setStone_delivering {k : Nat} {x : Stone} : (setStone s k x).delivering = s.delivering := rfl
@[simp] theorem setStone_dictRefusal {k : Nat} {x : Stone} : (setStone s k x).dictRefusal = s.dictRefusal := rfl
@[simp] theorem setStone_replay {k : Nat} {x : Stone} : (setStone s k x).replay = s.replay := rfl
@[simp] theorem setStone_mslots {k : Nat} {x : Stone} : (setStone s k x).mslots = s.mslots := rfl
@[simp] theorem setStone_dictQ {k : Nat} {x : Stone} : (setStone s k x).dictQ = s.dictQ := rfl
@[simp] theorem setStone_deferred {k : Nat} {x : Stone} : (setStone s k x).deferred = s.deferred := rfl
@[simp] theorem setStone_relays {k : Nat} {x : Stone} : (setStone s k x).relays = s.relays := rfl
@[simp] theorem setStone_ports {k : Nat} {x : Stone} : (setStone s k x).ports = s.ports := rfl
@[simp] theorem setStone_injQ {k : Nat} {x : Stone} : (setStone s k x).injQ = s.injQ := rfl
@[simp] theorem setStone_stalledInj {k : Nat} {x : Stone} : (setStone s k x).stalledInj = s.stalledInj := rfl
@[simp] theorem setStone_bridgeQ {k : Nat} {x : Stone} : (setStone s k x).bridgeQ = s.bridgeQ := rfl
@[simp] theorem setStone_delivered {k : Nat} {x : Stone} : (setStone s k x).delivered = s.delivered := rfl
@[simp] theorem setStone_tables {k : Nat} {x : Stone} : (setStone s k x).tables = s.tables := rfl
@[simp] theorem setStone_aqs {k : Nat} {x : Stone} : (setStone s k x).aqs = s.aqs := rfl
@[simp] theorem setStone_aqQ {k : Nat} {x : Stone} : (setStone s k x).aqQ = s.aqQ := rfl
@[simp] theorem setStone_aqGot {k : Nat} {x : Stone} : (setStone s k x).aqGot = s.aqGot := rfl
@[simp] theorem setStone_aqBurst {k : Nat} {x : Stone} : (setStone s k x).aqBurst = s.aqBurst := rfl
@[simp] theorem setStone_aqSent {k : Nat} {x : Stone} : (setStone s k x).aqSent = s.aqSent := rfl
@[simp] theorem setStone_dropsSeen {k : Nat} {x : Stone} : (setStone s k x).dropsSeen = s.dropsSeen := rfl
@[simp] theorem setStone_tagDropSeen {k : Nat} {x : Stone} : (setStone s k x).tagDropSeen = s.tagDropSeen := rfl
@[simp] theorem setStone_epochStep {k : Nat} {x : Stone} : (setStone s k x).epochStep = s.epochStep := rfl
@[simp] theorem setStone_windows {k : Nat} {x : Stone} : (setStone s k x).windows = s.windows := rfl
@[simp] theorem setStone_windowFaultSeen {k : Nat} {x : Stone} : (setStone s k x).windowFaultSeen = s.windowFaultSeen := rfl
@[simp] theorem setStone_memErrors {k : Nat} {x : Stone} : (setStone s k x).memErrors = s.memErrors := rfl
@[simp] theorem setStone_senders {k : Nat} {x : Stone} : (setStone s k x).senders = s.senders := rfl
@[simp] theorem setStone_ledger {k : Nat} {x : Stone} : (setStone s k x).ledger = s.ledger := rfl
@[simp] theorem setStone_ledgerWait {k : Nat} {x : Stone} : (setStone s k x).ledgerWait = s.ledgerWait := rfl
@[simp] theorem setStone_lineQ {k : Nat} {x : Stone} : (setStone s k x).lineQ = s.lineQ := rfl
@[simp] theorem setStone_homeReqs {k : Nat} {x : Stone} : (setStone s k x).homeReqs = s.homeReqs := rfl
@[simp] theorem setStone_hotLines {k : Nat} {x : Stone} : (setStone s k x).hotLines = s.hotLines := rfl
@[simp] theorem setStone_groupLists {k : Nat} {x : Stone} : (setStone s k x).groupLists = s.groupLists := rfl
@[simp] theorem setStone_colls {k : Nat} {x : Stone} : (setStone s k x).colls = s.colls := rfl
@[simp] theorem setStone_collEnds {k : Nat} {x : Stone} : (setStone s k x).collEnds = s.collEnds := rfl
@[simp] theorem setStone_mcasts {k : Nat} {x : Stone} : (setStone s k x).mcasts = s.mcasts := rfl
@[simp] theorem setStone_mcastNext {k : Nat} {x : Stone} : (setStone s k x).mcastNext = s.mcastNext := rfl
@[simp] theorem setStone_heldMsgs {k : Nat} {x : Stone} : (setStone s k x).heldMsgs = s.heldMsgs := rfl
@[simp] theorem setStone_fencedLegs {k : Nat} {x : Stone} : (setStone s k x).fencedLegs = s.fencedLegs := rfl
@[simp] theorem setStone_backoffs {k : Nat} {x : Stone} : (setStone s k x).backoffs = s.backoffs := rfl
@[simp] theorem setStone_jobTag {k : Nat} {x : Stone} : (setStone s k x).jobTag = s.jobTag := rfl
@[simp] theorem setStone_starts {k : Nat} {x : Stone} : (setStone s k x).starts = s.starts := rfl
@[simp] theorem setStone_jobList {k : Nat} {x : Stone} : (setStone s k x).jobList = s.jobList := rfl
@[simp] theorem setStone_jobStep {k : Nat} {x : Stone} : (setStone s k x).jobStep = s.jobStep := rfl
@[simp] theorem setStone_jobMember {k : Nat} {x : Stone} : (setStone s k x).jobMember = s.jobMember := rfl
@[simp] theorem setStone_jobSeen {k : Nat} {x : Stone} : (setStone s k x).jobSeen = s.jobSeen := rfl
@[simp] theorem setStone_jobMembers {k : Nat} {x : Stone} : (setStone s k x).jobMembers = s.jobMembers := rfl
@[simp] theorem setStone_keystoneSilent {k : Nat} {x : Stone} : (setStone s k x).keystoneSilent = s.keystoneSilent := rfl
@[simp] theorem setStone_newKeystone {k : Nat} {x : Stone} : (setStone s k x).newKeystone = s.newKeystone := rfl
@[simp] theorem setStone_ctxs {k : Nat} {x : Stone} : (setStone s k x).ctxs = s.ctxs := rfl
@[simp] theorem setStone_loading {k : Nat} {x : Stone} : (setStone s k x).loading = s.loading := rfl
@[simp] theorem setStone_rings {k : Nat} {x : Stone} : (setStone s k x).rings = s.rings := rfl
@[simp] theorem setStone_mailboxes {k : Nat} {x : Stone} : (setStone s k x).mailboxes = s.mailboxes := rfl
@[simp] theorem setStone_posts {k : Nat} {x : Stone} : (setStone s k x).posts = s.posts := rfl
@[simp] theorem setStone_teardown {k : Nat} {x : Stone} : (setStone s k x).teardown = s.teardown := rfl
@[simp] theorem setStone_routers {k : Nat} {x : Stone} : (setStone s k x).routers = s.routers := rfl
@[simp] theorem setStone_toks {k : Nat} {x : Stone} : (setStone s k x).toks = s.toks := rfl
@[simp] theorem setStone_confs {k : Nat} {x : Stone} : (setStone s k x).confs = s.confs := rfl
@[simp] theorem setStone_gens {k : Nat} {x : Stone} : (setStone s k x).gens = s.gens := rfl
@[simp] theorem setStone_cancels {k : Nat} {x : Stone} : (setStone s k x).cancels = s.cancels := rfl
@[simp] theorem setStone_notIntact {k : Nat} {x : Stone} : (setStone s k x).notIntact = s.notIntact := rfl
@[simp] theorem setStone_bundles {k : Nat} {x : Stone} : (setStone s k x).bundles = s.bundles := rfl
@[simp] theorem setStone_barriers {k : Nat} {x : Stone} : (setStone s k x).barriers = s.barriers := rfl
@[simp] theorem setStone_claims {k : Nat} {x : Stone} : (setStone s k x).claims = s.claims := rfl
@[simp] theorem setStone_admitted {k : Nat} {x : Stone} : (setStone s k x).admitted = s.admitted := rfl
@[simp] theorem setStone_slots {k : Nat} {x : Stone} : (setStone s k x).slots = s.slots := rfl
@[simp] theorem setStone_runs {k : Nat} {x : Stone} : (setStone s k x).runs = s.runs := rfl
@[simp] theorem setStone_qTails {k : Nat} {x : Stone} : (setStone s k x).qTails = s.qTails := rfl
@[simp] theorem setStone_pupdates {k : Nat} {x : Stone} : (setStone s k x).pupdates = s.pupdates := rfl
@[simp] theorem setStone_blocksReading {k : Nat} {x : Stone} : (setStone s k x).blocksReading = s.blocksReading := rfl
@[simp] theorem setStone_fetchQ {k : Nat} {x : Stone} : (setStone s k x).fetchQ = s.fetchQ := rfl
@[simp] theorem setStone_fetchHeld {k : Nat} {x : Stone} : (setStone s k x).fetchHeld = s.fetchHeld := rfl
@[simp] theorem setStone_fills {k : Nat} {x : Stone} : (setStone s k x).fills = s.fills := rfl
@[simp] theorem setStone_wins {k : Nat} {x : Stone} : (setStone s k x).wins = s.wins := rfl
@[simp] theorem setStone_writebacks {k : Nat} {x : Stone} : (setStone s k x).writebacks = s.writebacks := rfl
@[simp] theorem setStone_kvWaits {k : Nat} {x : Stone} : (setStone s k x).kvWaits = s.kvWaits := rfl
@[simp] theorem setStone_arrays {k : Nat} {x : Stone} : (setStone s k x).arrays = s.arrays := rfl
@[simp] theorem setStone_dmas {k : Nat} {x : Stone} : (setStone s k x).dmas = s.dmas := rfl
@[simp] theorem setStone_dmaLast {k : Nat} {x : Stone} : (setStone s k x).dmaLast = s.dmaLast := rfl
@[simp] theorem setStone_pools {k : Nat} {x : Stone} : (setStone s k x).pools = s.pools := rfl
@[simp] theorem setStone_umora {k : Nat} {x : Stone} : (setStone s k x).umora = s.umora := rfl
@[simp] theorem setStone_clock {k : Nat} {x : Stone} : (setStone s k x).clock = s.clock := rfl
@[simp] theorem setStone_power {k : Nat} {x : Stone} : (setStone s k x).power = s.power := rfl
@[simp] theorem setStone_sec {k : Nat} {x : Stone} : (setStone s k x).sec = s.sec := rfl

/-! ### modStone -/

@[simp] theorem modStone_pending {k : Nat} {f : Stone → Stone} : (modStone s k f).pending = s.pending := rfl
@[simp] theorem modStone_nonce {k : Nat} {f : Stone → Stone} : (modStone s k f).nonce = s.nonce := rfl
@[simp] theorem modStone_resetLow {k : Nat} {f : Stone → Stone} : (modStone s k f).resetLow = s.resetLow := rfl
@[simp] theorem modStone_trayId {k : Nat} {f : Stone → Stone} : (modStone s k f).trayId = s.trayId := rfl
@[simp] theorem modStone_fuses {k : Nat} {f : Stone → Stone} : (modStone s k f).fuses = s.fuses := rfl
@[simp] theorem modStone_mode {k : Nat} {f : Stone → Stone} : (modStone s k f).mode = s.mode := rfl
@[simp] theorem modStone_ent {k : Nat} {f : Stone → Stone} : (modStone s k f).ent = s.ent := rfl
@[simp] theorem modStone_out {k : Nat} {f : Stone → Stone} : (modStone s k f).out = s.out := rfl
@[simp] theorem modStone_mem {k : Nat} {f : Stone → Stone} : (modStone s k f).mem = s.mem := rfl
@[simp] theorem modStone_sram {k : Nat} {f : Stone → Stone} : (modStone s k f).sram = s.sram := rfl
@[simp] theorem modStone_slotMem {k : Nat} {f : Stone → Stone} : (modStone s k f).slotMem = s.slotMem := rfl
@[simp] theorem modStone_fenced {k : Nat} {f : Stone → Stone} : (modStone s k f).fenced = s.fenced := rfl
@[simp] theorem modStone_badWords {k : Nat} {f : Stone → Stone} : (modStone s k f).badWords = s.badWords := rfl
@[simp] theorem modStone_wordErrs {k : Nat} {f : Stone → Stone} : (modStone s k f).wordErrs = s.wordErrs := rfl
@[simp] theorem modStone_recC {k : Nat} {f : Stone → Stone} : (modStone s k f).recC = s.recC := rfl
@[simp] theorem modStone_recU {k : Nat} {f : Stone → Stone} : (modStone s k f).recU = s.recU := rfl
@[simp] theorem modStone_recF {k : Nat} {f : Stone → Stone} : (modStone s k f).recF = s.recF := rfl
@[simp] theorem modStone_deadPairs {k : Nat} {f : Stone → Stone} : (modStone s k f).deadPairs = s.deadPairs := rfl
@[simp] theorem modStone_cAckDue {k : Nat} {f : Stone → Stone} : (modStone s k f).cAckDue = s.cAckDue := rfl
@[simp] theorem modStone_mpFailed {k : Nat} {f : Stone → Stone} : (modStone s k f).mpFailed = s.mpFailed := rfl
@[simp] theorem modStone_switchDead {k : Nat} {f : Stone → Stone} : (modStone s k f).switchDead = s.switchDead := rfl
@[simp] theorem modStone_pondFaults {k : Nat} {f : Stone → Stone} : (modStone s k f).pondFaults = s.pondFaults := rfl
@[simp] theorem modStone_lastSummary {k : Nat} {f : Stone → Stone} : (modStone s k f).lastSummary = s.lastSummary := rfl
@[simp] theorem modStone_holds {k : Nat} {f : Stone → Stone} : (modStone s k f).holds = s.holds := rfl
@[simp] theorem modStone_irqStacks {k : Nat} {f : Stone → Stone} : (modStone s k f).irqStacks = s.irqStacks := rfl
@[simp] theorem modStone_served {k : Nat} {f : Stone → Stone} : (modStone s k f).served = s.served := rfl
@[simp] theorem modStone_delivering {k : Nat} {f : Stone → Stone} : (modStone s k f).delivering = s.delivering := rfl
@[simp] theorem modStone_dictRefusal {k : Nat} {f : Stone → Stone} : (modStone s k f).dictRefusal = s.dictRefusal := rfl
@[simp] theorem modStone_replay {k : Nat} {f : Stone → Stone} : (modStone s k f).replay = s.replay := rfl
@[simp] theorem modStone_mslots {k : Nat} {f : Stone → Stone} : (modStone s k f).mslots = s.mslots := rfl
@[simp] theorem modStone_dictQ {k : Nat} {f : Stone → Stone} : (modStone s k f).dictQ = s.dictQ := rfl
@[simp] theorem modStone_deferred {k : Nat} {f : Stone → Stone} : (modStone s k f).deferred = s.deferred := rfl
@[simp] theorem modStone_relays {k : Nat} {f : Stone → Stone} : (modStone s k f).relays = s.relays := rfl
@[simp] theorem modStone_ports {k : Nat} {f : Stone → Stone} : (modStone s k f).ports = s.ports := rfl
@[simp] theorem modStone_injQ {k : Nat} {f : Stone → Stone} : (modStone s k f).injQ = s.injQ := rfl
@[simp] theorem modStone_stalledInj {k : Nat} {f : Stone → Stone} : (modStone s k f).stalledInj = s.stalledInj := rfl
@[simp] theorem modStone_bridgeQ {k : Nat} {f : Stone → Stone} : (modStone s k f).bridgeQ = s.bridgeQ := rfl
@[simp] theorem modStone_delivered {k : Nat} {f : Stone → Stone} : (modStone s k f).delivered = s.delivered := rfl
@[simp] theorem modStone_tables {k : Nat} {f : Stone → Stone} : (modStone s k f).tables = s.tables := rfl
@[simp] theorem modStone_aqs {k : Nat} {f : Stone → Stone} : (modStone s k f).aqs = s.aqs := rfl
@[simp] theorem modStone_aqQ {k : Nat} {f : Stone → Stone} : (modStone s k f).aqQ = s.aqQ := rfl
@[simp] theorem modStone_aqGot {k : Nat} {f : Stone → Stone} : (modStone s k f).aqGot = s.aqGot := rfl
@[simp] theorem modStone_aqBurst {k : Nat} {f : Stone → Stone} : (modStone s k f).aqBurst = s.aqBurst := rfl
@[simp] theorem modStone_aqSent {k : Nat} {f : Stone → Stone} : (modStone s k f).aqSent = s.aqSent := rfl
@[simp] theorem modStone_dropsSeen {k : Nat} {f : Stone → Stone} : (modStone s k f).dropsSeen = s.dropsSeen := rfl
@[simp] theorem modStone_tagDropSeen {k : Nat} {f : Stone → Stone} : (modStone s k f).tagDropSeen = s.tagDropSeen := rfl
@[simp] theorem modStone_epochStep {k : Nat} {f : Stone → Stone} : (modStone s k f).epochStep = s.epochStep := rfl
@[simp] theorem modStone_windows {k : Nat} {f : Stone → Stone} : (modStone s k f).windows = s.windows := rfl
@[simp] theorem modStone_windowFaultSeen {k : Nat} {f : Stone → Stone} : (modStone s k f).windowFaultSeen = s.windowFaultSeen := rfl
@[simp] theorem modStone_memErrors {k : Nat} {f : Stone → Stone} : (modStone s k f).memErrors = s.memErrors := rfl
@[simp] theorem modStone_senders {k : Nat} {f : Stone → Stone} : (modStone s k f).senders = s.senders := rfl
@[simp] theorem modStone_ledger {k : Nat} {f : Stone → Stone} : (modStone s k f).ledger = s.ledger := rfl
@[simp] theorem modStone_ledgerWait {k : Nat} {f : Stone → Stone} : (modStone s k f).ledgerWait = s.ledgerWait := rfl
@[simp] theorem modStone_lineQ {k : Nat} {f : Stone → Stone} : (modStone s k f).lineQ = s.lineQ := rfl
@[simp] theorem modStone_homeReqs {k : Nat} {f : Stone → Stone} : (modStone s k f).homeReqs = s.homeReqs := rfl
@[simp] theorem modStone_hotLines {k : Nat} {f : Stone → Stone} : (modStone s k f).hotLines = s.hotLines := rfl
@[simp] theorem modStone_groupLists {k : Nat} {f : Stone → Stone} : (modStone s k f).groupLists = s.groupLists := rfl
@[simp] theorem modStone_colls {k : Nat} {f : Stone → Stone} : (modStone s k f).colls = s.colls := rfl
@[simp] theorem modStone_collEnds {k : Nat} {f : Stone → Stone} : (modStone s k f).collEnds = s.collEnds := rfl
@[simp] theorem modStone_mcasts {k : Nat} {f : Stone → Stone} : (modStone s k f).mcasts = s.mcasts := rfl
@[simp] theorem modStone_mcastNext {k : Nat} {f : Stone → Stone} : (modStone s k f).mcastNext = s.mcastNext := rfl
@[simp] theorem modStone_heldMsgs {k : Nat} {f : Stone → Stone} : (modStone s k f).heldMsgs = s.heldMsgs := rfl
@[simp] theorem modStone_fencedLegs {k : Nat} {f : Stone → Stone} : (modStone s k f).fencedLegs = s.fencedLegs := rfl
@[simp] theorem modStone_backoffs {k : Nat} {f : Stone → Stone} : (modStone s k f).backoffs = s.backoffs := rfl
@[simp] theorem modStone_jobTag {k : Nat} {f : Stone → Stone} : (modStone s k f).jobTag = s.jobTag := rfl
@[simp] theorem modStone_starts {k : Nat} {f : Stone → Stone} : (modStone s k f).starts = s.starts := rfl
@[simp] theorem modStone_jobList {k : Nat} {f : Stone → Stone} : (modStone s k f).jobList = s.jobList := rfl
@[simp] theorem modStone_jobStep {k : Nat} {f : Stone → Stone} : (modStone s k f).jobStep = s.jobStep := rfl
@[simp] theorem modStone_jobMember {k : Nat} {f : Stone → Stone} : (modStone s k f).jobMember = s.jobMember := rfl
@[simp] theorem modStone_jobSeen {k : Nat} {f : Stone → Stone} : (modStone s k f).jobSeen = s.jobSeen := rfl
@[simp] theorem modStone_jobMembers {k : Nat} {f : Stone → Stone} : (modStone s k f).jobMembers = s.jobMembers := rfl
@[simp] theorem modStone_keystoneSilent {k : Nat} {f : Stone → Stone} : (modStone s k f).keystoneSilent = s.keystoneSilent := rfl
@[simp] theorem modStone_newKeystone {k : Nat} {f : Stone → Stone} : (modStone s k f).newKeystone = s.newKeystone := rfl
@[simp] theorem modStone_ctxs {k : Nat} {f : Stone → Stone} : (modStone s k f).ctxs = s.ctxs := rfl
@[simp] theorem modStone_loading {k : Nat} {f : Stone → Stone} : (modStone s k f).loading = s.loading := rfl
@[simp] theorem modStone_rings {k : Nat} {f : Stone → Stone} : (modStone s k f).rings = s.rings := rfl
@[simp] theorem modStone_mailboxes {k : Nat} {f : Stone → Stone} : (modStone s k f).mailboxes = s.mailboxes := rfl
@[simp] theorem modStone_posts {k : Nat} {f : Stone → Stone} : (modStone s k f).posts = s.posts := rfl
@[simp] theorem modStone_teardown {k : Nat} {f : Stone → Stone} : (modStone s k f).teardown = s.teardown := rfl
@[simp] theorem modStone_routers {k : Nat} {f : Stone → Stone} : (modStone s k f).routers = s.routers := rfl
@[simp] theorem modStone_toks {k : Nat} {f : Stone → Stone} : (modStone s k f).toks = s.toks := rfl
@[simp] theorem modStone_confs {k : Nat} {f : Stone → Stone} : (modStone s k f).confs = s.confs := rfl
@[simp] theorem modStone_gens {k : Nat} {f : Stone → Stone} : (modStone s k f).gens = s.gens := rfl
@[simp] theorem modStone_cancels {k : Nat} {f : Stone → Stone} : (modStone s k f).cancels = s.cancels := rfl
@[simp] theorem modStone_notIntact {k : Nat} {f : Stone → Stone} : (modStone s k f).notIntact = s.notIntact := rfl
@[simp] theorem modStone_bundles {k : Nat} {f : Stone → Stone} : (modStone s k f).bundles = s.bundles := rfl
@[simp] theorem modStone_barriers {k : Nat} {f : Stone → Stone} : (modStone s k f).barriers = s.barriers := rfl
@[simp] theorem modStone_claims {k : Nat} {f : Stone → Stone} : (modStone s k f).claims = s.claims := rfl
@[simp] theorem modStone_admitted {k : Nat} {f : Stone → Stone} : (modStone s k f).admitted = s.admitted := rfl
@[simp] theorem modStone_slots {k : Nat} {f : Stone → Stone} : (modStone s k f).slots = s.slots := rfl
@[simp] theorem modStone_runs {k : Nat} {f : Stone → Stone} : (modStone s k f).runs = s.runs := rfl
@[simp] theorem modStone_qTails {k : Nat} {f : Stone → Stone} : (modStone s k f).qTails = s.qTails := rfl
@[simp] theorem modStone_pupdates {k : Nat} {f : Stone → Stone} : (modStone s k f).pupdates = s.pupdates := rfl
@[simp] theorem modStone_blocksReading {k : Nat} {f : Stone → Stone} : (modStone s k f).blocksReading = s.blocksReading := rfl
@[simp] theorem modStone_fetchQ {k : Nat} {f : Stone → Stone} : (modStone s k f).fetchQ = s.fetchQ := rfl
@[simp] theorem modStone_fetchHeld {k : Nat} {f : Stone → Stone} : (modStone s k f).fetchHeld = s.fetchHeld := rfl
@[simp] theorem modStone_fills {k : Nat} {f : Stone → Stone} : (modStone s k f).fills = s.fills := rfl
@[simp] theorem modStone_wins {k : Nat} {f : Stone → Stone} : (modStone s k f).wins = s.wins := rfl
@[simp] theorem modStone_writebacks {k : Nat} {f : Stone → Stone} : (modStone s k f).writebacks = s.writebacks := rfl
@[simp] theorem modStone_kvWaits {k : Nat} {f : Stone → Stone} : (modStone s k f).kvWaits = s.kvWaits := rfl
@[simp] theorem modStone_arrays {k : Nat} {f : Stone → Stone} : (modStone s k f).arrays = s.arrays := rfl
@[simp] theorem modStone_dmas {k : Nat} {f : Stone → Stone} : (modStone s k f).dmas = s.dmas := rfl
@[simp] theorem modStone_dmaLast {k : Nat} {f : Stone → Stone} : (modStone s k f).dmaLast = s.dmaLast := rfl
@[simp] theorem modStone_pools {k : Nat} {f : Stone → Stone} : (modStone s k f).pools = s.pools := rfl
@[simp] theorem modStone_umora {k : Nat} {f : Stone → Stone} : (modStone s k f).umora = s.umora := rfl
@[simp] theorem modStone_clock {k : Nat} {f : Stone → Stone} : (modStone s k f).clock = s.clock := rfl
@[simp] theorem modStone_power {k : Nat} {f : Stone → Stone} : (modStone s k f).power = s.power := rfl
@[simp] theorem modStone_sec {k : Nat} {f : Stone → Stone} : (modStone s k f).sec = s.sec := rfl

/-! ### setCtx -/

@[simp] theorem setCtx_pending {k : Nat} {x : Ctx} : (setCtx s k x).pending = s.pending := rfl
@[simp] theorem setCtx_nonce {k : Nat} {x : Ctx} : (setCtx s k x).nonce = s.nonce := rfl
@[simp] theorem setCtx_resetLow {k : Nat} {x : Ctx} : (setCtx s k x).resetLow = s.resetLow := rfl
@[simp] theorem setCtx_trayId {k : Nat} {x : Ctx} : (setCtx s k x).trayId = s.trayId := rfl
@[simp] theorem setCtx_fuses {k : Nat} {x : Ctx} : (setCtx s k x).fuses = s.fuses := rfl
@[simp] theorem setCtx_mode {k : Nat} {x : Ctx} : (setCtx s k x).mode = s.mode := rfl
@[simp] theorem setCtx_ent {k : Nat} {x : Ctx} : (setCtx s k x).ent = s.ent := rfl
@[simp] theorem setCtx_out {k : Nat} {x : Ctx} : (setCtx s k x).out = s.out := rfl
@[simp] theorem setCtx_mem {k : Nat} {x : Ctx} : (setCtx s k x).mem = s.mem := rfl
@[simp] theorem setCtx_sram {k : Nat} {x : Ctx} : (setCtx s k x).sram = s.sram := rfl
@[simp] theorem setCtx_slotMem {k : Nat} {x : Ctx} : (setCtx s k x).slotMem = s.slotMem := rfl
@[simp] theorem setCtx_fenced {k : Nat} {x : Ctx} : (setCtx s k x).fenced = s.fenced := rfl
@[simp] theorem setCtx_badWords {k : Nat} {x : Ctx} : (setCtx s k x).badWords = s.badWords := rfl
@[simp] theorem setCtx_wordErrs {k : Nat} {x : Ctx} : (setCtx s k x).wordErrs = s.wordErrs := rfl
@[simp] theorem setCtx_recC {k : Nat} {x : Ctx} : (setCtx s k x).recC = s.recC := rfl
@[simp] theorem setCtx_recU {k : Nat} {x : Ctx} : (setCtx s k x).recU = s.recU := rfl
@[simp] theorem setCtx_recF {k : Nat} {x : Ctx} : (setCtx s k x).recF = s.recF := rfl
@[simp] theorem setCtx_deadPairs {k : Nat} {x : Ctx} : (setCtx s k x).deadPairs = s.deadPairs := rfl
@[simp] theorem setCtx_cAckDue {k : Nat} {x : Ctx} : (setCtx s k x).cAckDue = s.cAckDue := rfl
@[simp] theorem setCtx_mpFailed {k : Nat} {x : Ctx} : (setCtx s k x).mpFailed = s.mpFailed := rfl
@[simp] theorem setCtx_switchDead {k : Nat} {x : Ctx} : (setCtx s k x).switchDead = s.switchDead := rfl
@[simp] theorem setCtx_pondFaults {k : Nat} {x : Ctx} : (setCtx s k x).pondFaults = s.pondFaults := rfl
@[simp] theorem setCtx_lastSummary {k : Nat} {x : Ctx} : (setCtx s k x).lastSummary = s.lastSummary := rfl
@[simp] theorem setCtx_holds {k : Nat} {x : Ctx} : (setCtx s k x).holds = s.holds := rfl
@[simp] theorem setCtx_irqStacks {k : Nat} {x : Ctx} : (setCtx s k x).irqStacks = s.irqStacks := rfl
@[simp] theorem setCtx_served {k : Nat} {x : Ctx} : (setCtx s k x).served = s.served := rfl
@[simp] theorem setCtx_delivering {k : Nat} {x : Ctx} : (setCtx s k x).delivering = s.delivering := rfl
@[simp] theorem setCtx_dictRefusal {k : Nat} {x : Ctx} : (setCtx s k x).dictRefusal = s.dictRefusal := rfl
@[simp] theorem setCtx_replay {k : Nat} {x : Ctx} : (setCtx s k x).replay = s.replay := rfl
@[simp] theorem setCtx_mslots {k : Nat} {x : Ctx} : (setCtx s k x).mslots = s.mslots := rfl
@[simp] theorem setCtx_dictQ {k : Nat} {x : Ctx} : (setCtx s k x).dictQ = s.dictQ := rfl
@[simp] theorem setCtx_deferred {k : Nat} {x : Ctx} : (setCtx s k x).deferred = s.deferred := rfl
@[simp] theorem setCtx_relays {k : Nat} {x : Ctx} : (setCtx s k x).relays = s.relays := rfl
@[simp] theorem setCtx_ports {k : Nat} {x : Ctx} : (setCtx s k x).ports = s.ports := rfl
@[simp] theorem setCtx_injQ {k : Nat} {x : Ctx} : (setCtx s k x).injQ = s.injQ := rfl
@[simp] theorem setCtx_stalledInj {k : Nat} {x : Ctx} : (setCtx s k x).stalledInj = s.stalledInj := rfl
@[simp] theorem setCtx_bridgeQ {k : Nat} {x : Ctx} : (setCtx s k x).bridgeQ = s.bridgeQ := rfl
@[simp] theorem setCtx_delivered {k : Nat} {x : Ctx} : (setCtx s k x).delivered = s.delivered := rfl
@[simp] theorem setCtx_tables {k : Nat} {x : Ctx} : (setCtx s k x).tables = s.tables := rfl
@[simp] theorem setCtx_aqs {k : Nat} {x : Ctx} : (setCtx s k x).aqs = s.aqs := rfl
@[simp] theorem setCtx_aqQ {k : Nat} {x : Ctx} : (setCtx s k x).aqQ = s.aqQ := rfl
@[simp] theorem setCtx_aqGot {k : Nat} {x : Ctx} : (setCtx s k x).aqGot = s.aqGot := rfl
@[simp] theorem setCtx_aqBurst {k : Nat} {x : Ctx} : (setCtx s k x).aqBurst = s.aqBurst := rfl
@[simp] theorem setCtx_aqSent {k : Nat} {x : Ctx} : (setCtx s k x).aqSent = s.aqSent := rfl
@[simp] theorem setCtx_dropsSeen {k : Nat} {x : Ctx} : (setCtx s k x).dropsSeen = s.dropsSeen := rfl
@[simp] theorem setCtx_tagDropSeen {k : Nat} {x : Ctx} : (setCtx s k x).tagDropSeen = s.tagDropSeen := rfl
@[simp] theorem setCtx_epochStep {k : Nat} {x : Ctx} : (setCtx s k x).epochStep = s.epochStep := rfl
@[simp] theorem setCtx_windows {k : Nat} {x : Ctx} : (setCtx s k x).windows = s.windows := rfl
@[simp] theorem setCtx_windowFaultSeen {k : Nat} {x : Ctx} : (setCtx s k x).windowFaultSeen = s.windowFaultSeen := rfl
@[simp] theorem setCtx_memErrors {k : Nat} {x : Ctx} : (setCtx s k x).memErrors = s.memErrors := rfl
@[simp] theorem setCtx_senders {k : Nat} {x : Ctx} : (setCtx s k x).senders = s.senders := rfl
@[simp] theorem setCtx_ledger {k : Nat} {x : Ctx} : (setCtx s k x).ledger = s.ledger := rfl
@[simp] theorem setCtx_ledgerWait {k : Nat} {x : Ctx} : (setCtx s k x).ledgerWait = s.ledgerWait := rfl
@[simp] theorem setCtx_lineQ {k : Nat} {x : Ctx} : (setCtx s k x).lineQ = s.lineQ := rfl
@[simp] theorem setCtx_homeReqs {k : Nat} {x : Ctx} : (setCtx s k x).homeReqs = s.homeReqs := rfl
@[simp] theorem setCtx_hotLines {k : Nat} {x : Ctx} : (setCtx s k x).hotLines = s.hotLines := rfl
@[simp] theorem setCtx_groupLists {k : Nat} {x : Ctx} : (setCtx s k x).groupLists = s.groupLists := rfl
@[simp] theorem setCtx_colls {k : Nat} {x : Ctx} : (setCtx s k x).colls = s.colls := rfl
@[simp] theorem setCtx_collEnds {k : Nat} {x : Ctx} : (setCtx s k x).collEnds = s.collEnds := rfl
@[simp] theorem setCtx_mcasts {k : Nat} {x : Ctx} : (setCtx s k x).mcasts = s.mcasts := rfl
@[simp] theorem setCtx_mcastNext {k : Nat} {x : Ctx} : (setCtx s k x).mcastNext = s.mcastNext := rfl
@[simp] theorem setCtx_heldMsgs {k : Nat} {x : Ctx} : (setCtx s k x).heldMsgs = s.heldMsgs := rfl
@[simp] theorem setCtx_fencedLegs {k : Nat} {x : Ctx} : (setCtx s k x).fencedLegs = s.fencedLegs := rfl
@[simp] theorem setCtx_backoffs {k : Nat} {x : Ctx} : (setCtx s k x).backoffs = s.backoffs := rfl
@[simp] theorem setCtx_jobTag {k : Nat} {x : Ctx} : (setCtx s k x).jobTag = s.jobTag := rfl
@[simp] theorem setCtx_starts {k : Nat} {x : Ctx} : (setCtx s k x).starts = s.starts := rfl
@[simp] theorem setCtx_jobList {k : Nat} {x : Ctx} : (setCtx s k x).jobList = s.jobList := rfl
@[simp] theorem setCtx_jobStep {k : Nat} {x : Ctx} : (setCtx s k x).jobStep = s.jobStep := rfl
@[simp] theorem setCtx_jobMember {k : Nat} {x : Ctx} : (setCtx s k x).jobMember = s.jobMember := rfl
@[simp] theorem setCtx_jobSeen {k : Nat} {x : Ctx} : (setCtx s k x).jobSeen = s.jobSeen := rfl
@[simp] theorem setCtx_jobMembers {k : Nat} {x : Ctx} : (setCtx s k x).jobMembers = s.jobMembers := rfl
@[simp] theorem setCtx_keystoneSilent {k : Nat} {x : Ctx} : (setCtx s k x).keystoneSilent = s.keystoneSilent := rfl
@[simp] theorem setCtx_newKeystone {k : Nat} {x : Ctx} : (setCtx s k x).newKeystone = s.newKeystone := rfl
@[simp] theorem setCtx_loading {k : Nat} {x : Ctx} : (setCtx s k x).loading = s.loading := rfl
@[simp] theorem setCtx_rings {k : Nat} {x : Ctx} : (setCtx s k x).rings = s.rings := rfl
@[simp] theorem setCtx_mailboxes {k : Nat} {x : Ctx} : (setCtx s k x).mailboxes = s.mailboxes := rfl
@[simp] theorem setCtx_posts {k : Nat} {x : Ctx} : (setCtx s k x).posts = s.posts := rfl
@[simp] theorem setCtx_teardown {k : Nat} {x : Ctx} : (setCtx s k x).teardown = s.teardown := rfl
@[simp] theorem setCtx_routers {k : Nat} {x : Ctx} : (setCtx s k x).routers = s.routers := rfl
@[simp] theorem setCtx_toks {k : Nat} {x : Ctx} : (setCtx s k x).toks = s.toks := rfl
@[simp] theorem setCtx_confs {k : Nat} {x : Ctx} : (setCtx s k x).confs = s.confs := rfl
@[simp] theorem setCtx_gens {k : Nat} {x : Ctx} : (setCtx s k x).gens = s.gens := rfl
@[simp] theorem setCtx_cancels {k : Nat} {x : Ctx} : (setCtx s k x).cancels = s.cancels := rfl
@[simp] theorem setCtx_notIntact {k : Nat} {x : Ctx} : (setCtx s k x).notIntact = s.notIntact := rfl
@[simp] theorem setCtx_bundles {k : Nat} {x : Ctx} : (setCtx s k x).bundles = s.bundles := rfl
@[simp] theorem setCtx_barriers {k : Nat} {x : Ctx} : (setCtx s k x).barriers = s.barriers := rfl
@[simp] theorem setCtx_claims {k : Nat} {x : Ctx} : (setCtx s k x).claims = s.claims := rfl
@[simp] theorem setCtx_admitted {k : Nat} {x : Ctx} : (setCtx s k x).admitted = s.admitted := rfl
@[simp] theorem setCtx_slots {k : Nat} {x : Ctx} : (setCtx s k x).slots = s.slots := rfl
@[simp] theorem setCtx_runs {k : Nat} {x : Ctx} : (setCtx s k x).runs = s.runs := rfl
@[simp] theorem setCtx_qTails {k : Nat} {x : Ctx} : (setCtx s k x).qTails = s.qTails := rfl
@[simp] theorem setCtx_pupdates {k : Nat} {x : Ctx} : (setCtx s k x).pupdates = s.pupdates := rfl
@[simp] theorem setCtx_blocksReading {k : Nat} {x : Ctx} : (setCtx s k x).blocksReading = s.blocksReading := rfl
@[simp] theorem setCtx_fetchQ {k : Nat} {x : Ctx} : (setCtx s k x).fetchQ = s.fetchQ := rfl
@[simp] theorem setCtx_fetchHeld {k : Nat} {x : Ctx} : (setCtx s k x).fetchHeld = s.fetchHeld := rfl
@[simp] theorem setCtx_fills {k : Nat} {x : Ctx} : (setCtx s k x).fills = s.fills := rfl
@[simp] theorem setCtx_wins {k : Nat} {x : Ctx} : (setCtx s k x).wins = s.wins := rfl
@[simp] theorem setCtx_writebacks {k : Nat} {x : Ctx} : (setCtx s k x).writebacks = s.writebacks := rfl
@[simp] theorem setCtx_kvWaits {k : Nat} {x : Ctx} : (setCtx s k x).kvWaits = s.kvWaits := rfl
@[simp] theorem setCtx_stones {k : Nat} {x : Ctx} : (setCtx s k x).stones = s.stones := rfl
@[simp] theorem setCtx_arrays {k : Nat} {x : Ctx} : (setCtx s k x).arrays = s.arrays := rfl
@[simp] theorem setCtx_dmas {k : Nat} {x : Ctx} : (setCtx s k x).dmas = s.dmas := rfl
@[simp] theorem setCtx_dmaLast {k : Nat} {x : Ctx} : (setCtx s k x).dmaLast = s.dmaLast := rfl
@[simp] theorem setCtx_pools {k : Nat} {x : Ctx} : (setCtx s k x).pools = s.pools := rfl
@[simp] theorem setCtx_umora {k : Nat} {x : Ctx} : (setCtx s k x).umora = s.umora := rfl
@[simp] theorem setCtx_clock {k : Nat} {x : Ctx} : (setCtx s k x).clock = s.clock := rfl
@[simp] theorem setCtx_power {k : Nat} {x : Ctx} : (setCtx s k x).power = s.power := rfl
@[simp] theorem setCtx_sec {k : Nat} {x : Ctx} : (setCtx s k x).sec = s.sec := rfl

/-! ### modCtx -/

@[simp] theorem modCtx_pending {k : Nat} {f : Ctx → Ctx} : (modCtx s k f).pending = s.pending := rfl
@[simp] theorem modCtx_nonce {k : Nat} {f : Ctx → Ctx} : (modCtx s k f).nonce = s.nonce := rfl
@[simp] theorem modCtx_resetLow {k : Nat} {f : Ctx → Ctx} : (modCtx s k f).resetLow = s.resetLow := rfl
@[simp] theorem modCtx_trayId {k : Nat} {f : Ctx → Ctx} : (modCtx s k f).trayId = s.trayId := rfl
@[simp] theorem modCtx_fuses {k : Nat} {f : Ctx → Ctx} : (modCtx s k f).fuses = s.fuses := rfl
@[simp] theorem modCtx_mode {k : Nat} {f : Ctx → Ctx} : (modCtx s k f).mode = s.mode := rfl
@[simp] theorem modCtx_ent {k : Nat} {f : Ctx → Ctx} : (modCtx s k f).ent = s.ent := rfl
@[simp] theorem modCtx_out {k : Nat} {f : Ctx → Ctx} : (modCtx s k f).out = s.out := rfl
@[simp] theorem modCtx_mem {k : Nat} {f : Ctx → Ctx} : (modCtx s k f).mem = s.mem := rfl
@[simp] theorem modCtx_sram {k : Nat} {f : Ctx → Ctx} : (modCtx s k f).sram = s.sram := rfl
@[simp] theorem modCtx_slotMem {k : Nat} {f : Ctx → Ctx} : (modCtx s k f).slotMem = s.slotMem := rfl
@[simp] theorem modCtx_fenced {k : Nat} {f : Ctx → Ctx} : (modCtx s k f).fenced = s.fenced := rfl
@[simp] theorem modCtx_badWords {k : Nat} {f : Ctx → Ctx} : (modCtx s k f).badWords = s.badWords := rfl
@[simp] theorem modCtx_wordErrs {k : Nat} {f : Ctx → Ctx} : (modCtx s k f).wordErrs = s.wordErrs := rfl
@[simp] theorem modCtx_recC {k : Nat} {f : Ctx → Ctx} : (modCtx s k f).recC = s.recC := rfl
@[simp] theorem modCtx_recU {k : Nat} {f : Ctx → Ctx} : (modCtx s k f).recU = s.recU := rfl
@[simp] theorem modCtx_recF {k : Nat} {f : Ctx → Ctx} : (modCtx s k f).recF = s.recF := rfl
@[simp] theorem modCtx_deadPairs {k : Nat} {f : Ctx → Ctx} : (modCtx s k f).deadPairs = s.deadPairs := rfl
@[simp] theorem modCtx_cAckDue {k : Nat} {f : Ctx → Ctx} : (modCtx s k f).cAckDue = s.cAckDue := rfl
@[simp] theorem modCtx_mpFailed {k : Nat} {f : Ctx → Ctx} : (modCtx s k f).mpFailed = s.mpFailed := rfl
@[simp] theorem modCtx_switchDead {k : Nat} {f : Ctx → Ctx} : (modCtx s k f).switchDead = s.switchDead := rfl
@[simp] theorem modCtx_pondFaults {k : Nat} {f : Ctx → Ctx} : (modCtx s k f).pondFaults = s.pondFaults := rfl
@[simp] theorem modCtx_lastSummary {k : Nat} {f : Ctx → Ctx} : (modCtx s k f).lastSummary = s.lastSummary := rfl
@[simp] theorem modCtx_holds {k : Nat} {f : Ctx → Ctx} : (modCtx s k f).holds = s.holds := rfl
@[simp] theorem modCtx_irqStacks {k : Nat} {f : Ctx → Ctx} : (modCtx s k f).irqStacks = s.irqStacks := rfl
@[simp] theorem modCtx_served {k : Nat} {f : Ctx → Ctx} : (modCtx s k f).served = s.served := rfl
@[simp] theorem modCtx_delivering {k : Nat} {f : Ctx → Ctx} : (modCtx s k f).delivering = s.delivering := rfl
@[simp] theorem modCtx_dictRefusal {k : Nat} {f : Ctx → Ctx} : (modCtx s k f).dictRefusal = s.dictRefusal := rfl
@[simp] theorem modCtx_replay {k : Nat} {f : Ctx → Ctx} : (modCtx s k f).replay = s.replay := rfl
@[simp] theorem modCtx_mslots {k : Nat} {f : Ctx → Ctx} : (modCtx s k f).mslots = s.mslots := rfl
@[simp] theorem modCtx_dictQ {k : Nat} {f : Ctx → Ctx} : (modCtx s k f).dictQ = s.dictQ := rfl
@[simp] theorem modCtx_deferred {k : Nat} {f : Ctx → Ctx} : (modCtx s k f).deferred = s.deferred := rfl
@[simp] theorem modCtx_relays {k : Nat} {f : Ctx → Ctx} : (modCtx s k f).relays = s.relays := rfl
@[simp] theorem modCtx_ports {k : Nat} {f : Ctx → Ctx} : (modCtx s k f).ports = s.ports := rfl
@[simp] theorem modCtx_injQ {k : Nat} {f : Ctx → Ctx} : (modCtx s k f).injQ = s.injQ := rfl
@[simp] theorem modCtx_stalledInj {k : Nat} {f : Ctx → Ctx} : (modCtx s k f).stalledInj = s.stalledInj := rfl
@[simp] theorem modCtx_bridgeQ {k : Nat} {f : Ctx → Ctx} : (modCtx s k f).bridgeQ = s.bridgeQ := rfl
@[simp] theorem modCtx_delivered {k : Nat} {f : Ctx → Ctx} : (modCtx s k f).delivered = s.delivered := rfl
@[simp] theorem modCtx_tables {k : Nat} {f : Ctx → Ctx} : (modCtx s k f).tables = s.tables := rfl
@[simp] theorem modCtx_aqs {k : Nat} {f : Ctx → Ctx} : (modCtx s k f).aqs = s.aqs := rfl
@[simp] theorem modCtx_aqQ {k : Nat} {f : Ctx → Ctx} : (modCtx s k f).aqQ = s.aqQ := rfl
@[simp] theorem modCtx_aqGot {k : Nat} {f : Ctx → Ctx} : (modCtx s k f).aqGot = s.aqGot := rfl
@[simp] theorem modCtx_aqBurst {k : Nat} {f : Ctx → Ctx} : (modCtx s k f).aqBurst = s.aqBurst := rfl
@[simp] theorem modCtx_aqSent {k : Nat} {f : Ctx → Ctx} : (modCtx s k f).aqSent = s.aqSent := rfl
@[simp] theorem modCtx_dropsSeen {k : Nat} {f : Ctx → Ctx} : (modCtx s k f).dropsSeen = s.dropsSeen := rfl
@[simp] theorem modCtx_tagDropSeen {k : Nat} {f : Ctx → Ctx} : (modCtx s k f).tagDropSeen = s.tagDropSeen := rfl
@[simp] theorem modCtx_epochStep {k : Nat} {f : Ctx → Ctx} : (modCtx s k f).epochStep = s.epochStep := rfl
@[simp] theorem modCtx_windows {k : Nat} {f : Ctx → Ctx} : (modCtx s k f).windows = s.windows := rfl
@[simp] theorem modCtx_windowFaultSeen {k : Nat} {f : Ctx → Ctx} : (modCtx s k f).windowFaultSeen = s.windowFaultSeen := rfl
@[simp] theorem modCtx_memErrors {k : Nat} {f : Ctx → Ctx} : (modCtx s k f).memErrors = s.memErrors := rfl
@[simp] theorem modCtx_senders {k : Nat} {f : Ctx → Ctx} : (modCtx s k f).senders = s.senders := rfl
@[simp] theorem modCtx_ledger {k : Nat} {f : Ctx → Ctx} : (modCtx s k f).ledger = s.ledger := rfl
@[simp] theorem modCtx_ledgerWait {k : Nat} {f : Ctx → Ctx} : (modCtx s k f).ledgerWait = s.ledgerWait := rfl
@[simp] theorem modCtx_lineQ {k : Nat} {f : Ctx → Ctx} : (modCtx s k f).lineQ = s.lineQ := rfl
@[simp] theorem modCtx_homeReqs {k : Nat} {f : Ctx → Ctx} : (modCtx s k f).homeReqs = s.homeReqs := rfl
@[simp] theorem modCtx_hotLines {k : Nat} {f : Ctx → Ctx} : (modCtx s k f).hotLines = s.hotLines := rfl
@[simp] theorem modCtx_groupLists {k : Nat} {f : Ctx → Ctx} : (modCtx s k f).groupLists = s.groupLists := rfl
@[simp] theorem modCtx_colls {k : Nat} {f : Ctx → Ctx} : (modCtx s k f).colls = s.colls := rfl
@[simp] theorem modCtx_collEnds {k : Nat} {f : Ctx → Ctx} : (modCtx s k f).collEnds = s.collEnds := rfl
@[simp] theorem modCtx_mcasts {k : Nat} {f : Ctx → Ctx} : (modCtx s k f).mcasts = s.mcasts := rfl
@[simp] theorem modCtx_mcastNext {k : Nat} {f : Ctx → Ctx} : (modCtx s k f).mcastNext = s.mcastNext := rfl
@[simp] theorem modCtx_heldMsgs {k : Nat} {f : Ctx → Ctx} : (modCtx s k f).heldMsgs = s.heldMsgs := rfl
@[simp] theorem modCtx_fencedLegs {k : Nat} {f : Ctx → Ctx} : (modCtx s k f).fencedLegs = s.fencedLegs := rfl
@[simp] theorem modCtx_backoffs {k : Nat} {f : Ctx → Ctx} : (modCtx s k f).backoffs = s.backoffs := rfl
@[simp] theorem modCtx_jobTag {k : Nat} {f : Ctx → Ctx} : (modCtx s k f).jobTag = s.jobTag := rfl
@[simp] theorem modCtx_starts {k : Nat} {f : Ctx → Ctx} : (modCtx s k f).starts = s.starts := rfl
@[simp] theorem modCtx_jobList {k : Nat} {f : Ctx → Ctx} : (modCtx s k f).jobList = s.jobList := rfl
@[simp] theorem modCtx_jobStep {k : Nat} {f : Ctx → Ctx} : (modCtx s k f).jobStep = s.jobStep := rfl
@[simp] theorem modCtx_jobMember {k : Nat} {f : Ctx → Ctx} : (modCtx s k f).jobMember = s.jobMember := rfl
@[simp] theorem modCtx_jobSeen {k : Nat} {f : Ctx → Ctx} : (modCtx s k f).jobSeen = s.jobSeen := rfl
@[simp] theorem modCtx_jobMembers {k : Nat} {f : Ctx → Ctx} : (modCtx s k f).jobMembers = s.jobMembers := rfl
@[simp] theorem modCtx_keystoneSilent {k : Nat} {f : Ctx → Ctx} : (modCtx s k f).keystoneSilent = s.keystoneSilent := rfl
@[simp] theorem modCtx_newKeystone {k : Nat} {f : Ctx → Ctx} : (modCtx s k f).newKeystone = s.newKeystone := rfl
@[simp] theorem modCtx_loading {k : Nat} {f : Ctx → Ctx} : (modCtx s k f).loading = s.loading := rfl
@[simp] theorem modCtx_rings {k : Nat} {f : Ctx → Ctx} : (modCtx s k f).rings = s.rings := rfl
@[simp] theorem modCtx_mailboxes {k : Nat} {f : Ctx → Ctx} : (modCtx s k f).mailboxes = s.mailboxes := rfl
@[simp] theorem modCtx_posts {k : Nat} {f : Ctx → Ctx} : (modCtx s k f).posts = s.posts := rfl
@[simp] theorem modCtx_teardown {k : Nat} {f : Ctx → Ctx} : (modCtx s k f).teardown = s.teardown := rfl
@[simp] theorem modCtx_routers {k : Nat} {f : Ctx → Ctx} : (modCtx s k f).routers = s.routers := rfl
@[simp] theorem modCtx_toks {k : Nat} {f : Ctx → Ctx} : (modCtx s k f).toks = s.toks := rfl
@[simp] theorem modCtx_confs {k : Nat} {f : Ctx → Ctx} : (modCtx s k f).confs = s.confs := rfl
@[simp] theorem modCtx_gens {k : Nat} {f : Ctx → Ctx} : (modCtx s k f).gens = s.gens := rfl
@[simp] theorem modCtx_cancels {k : Nat} {f : Ctx → Ctx} : (modCtx s k f).cancels = s.cancels := rfl
@[simp] theorem modCtx_notIntact {k : Nat} {f : Ctx → Ctx} : (modCtx s k f).notIntact = s.notIntact := rfl
@[simp] theorem modCtx_bundles {k : Nat} {f : Ctx → Ctx} : (modCtx s k f).bundles = s.bundles := rfl
@[simp] theorem modCtx_barriers {k : Nat} {f : Ctx → Ctx} : (modCtx s k f).barriers = s.barriers := rfl
@[simp] theorem modCtx_claims {k : Nat} {f : Ctx → Ctx} : (modCtx s k f).claims = s.claims := rfl
@[simp] theorem modCtx_admitted {k : Nat} {f : Ctx → Ctx} : (modCtx s k f).admitted = s.admitted := rfl
@[simp] theorem modCtx_slots {k : Nat} {f : Ctx → Ctx} : (modCtx s k f).slots = s.slots := rfl
@[simp] theorem modCtx_runs {k : Nat} {f : Ctx → Ctx} : (modCtx s k f).runs = s.runs := rfl
@[simp] theorem modCtx_qTails {k : Nat} {f : Ctx → Ctx} : (modCtx s k f).qTails = s.qTails := rfl
@[simp] theorem modCtx_pupdates {k : Nat} {f : Ctx → Ctx} : (modCtx s k f).pupdates = s.pupdates := rfl
@[simp] theorem modCtx_blocksReading {k : Nat} {f : Ctx → Ctx} : (modCtx s k f).blocksReading = s.blocksReading := rfl
@[simp] theorem modCtx_fetchQ {k : Nat} {f : Ctx → Ctx} : (modCtx s k f).fetchQ = s.fetchQ := rfl
@[simp] theorem modCtx_fetchHeld {k : Nat} {f : Ctx → Ctx} : (modCtx s k f).fetchHeld = s.fetchHeld := rfl
@[simp] theorem modCtx_fills {k : Nat} {f : Ctx → Ctx} : (modCtx s k f).fills = s.fills := rfl
@[simp] theorem modCtx_wins {k : Nat} {f : Ctx → Ctx} : (modCtx s k f).wins = s.wins := rfl
@[simp] theorem modCtx_writebacks {k : Nat} {f : Ctx → Ctx} : (modCtx s k f).writebacks = s.writebacks := rfl
@[simp] theorem modCtx_kvWaits {k : Nat} {f : Ctx → Ctx} : (modCtx s k f).kvWaits = s.kvWaits := rfl
@[simp] theorem modCtx_stones {k : Nat} {f : Ctx → Ctx} : (modCtx s k f).stones = s.stones := rfl
@[simp] theorem modCtx_arrays {k : Nat} {f : Ctx → Ctx} : (modCtx s k f).arrays = s.arrays := rfl
@[simp] theorem modCtx_dmas {k : Nat} {f : Ctx → Ctx} : (modCtx s k f).dmas = s.dmas := rfl
@[simp] theorem modCtx_dmaLast {k : Nat} {f : Ctx → Ctx} : (modCtx s k f).dmaLast = s.dmaLast := rfl
@[simp] theorem modCtx_pools {k : Nat} {f : Ctx → Ctx} : (modCtx s k f).pools = s.pools := rfl
@[simp] theorem modCtx_umora {k : Nat} {f : Ctx → Ctx} : (modCtx s k f).umora = s.umora := rfl
@[simp] theorem modCtx_clock {k : Nat} {f : Ctx → Ctx} : (modCtx s k f).clock = s.clock := rfl
@[simp] theorem modCtx_power {k : Nat} {f : Ctx → Ctx} : (modCtx s k f).power = s.power := rfl
@[simp] theorem modCtx_sec {k : Nat} {f : Ctx → Ctx} : (modCtx s k f).sec = s.sec := rfl

/-! ### setPort -/

@[simp] theorem setPort_pending {k : Nat} {x : Port} : (setPort s k x).pending = s.pending := rfl
@[simp] theorem setPort_nonce {k : Nat} {x : Port} : (setPort s k x).nonce = s.nonce := rfl
@[simp] theorem setPort_resetLow {k : Nat} {x : Port} : (setPort s k x).resetLow = s.resetLow := rfl
@[simp] theorem setPort_trayId {k : Nat} {x : Port} : (setPort s k x).trayId = s.trayId := rfl
@[simp] theorem setPort_fuses {k : Nat} {x : Port} : (setPort s k x).fuses = s.fuses := rfl
@[simp] theorem setPort_mode {k : Nat} {x : Port} : (setPort s k x).mode = s.mode := rfl
@[simp] theorem setPort_ent {k : Nat} {x : Port} : (setPort s k x).ent = s.ent := rfl
@[simp] theorem setPort_out {k : Nat} {x : Port} : (setPort s k x).out = s.out := rfl
@[simp] theorem setPort_mem {k : Nat} {x : Port} : (setPort s k x).mem = s.mem := rfl
@[simp] theorem setPort_sram {k : Nat} {x : Port} : (setPort s k x).sram = s.sram := rfl
@[simp] theorem setPort_slotMem {k : Nat} {x : Port} : (setPort s k x).slotMem = s.slotMem := rfl
@[simp] theorem setPort_fenced {k : Nat} {x : Port} : (setPort s k x).fenced = s.fenced := rfl
@[simp] theorem setPort_badWords {k : Nat} {x : Port} : (setPort s k x).badWords = s.badWords := rfl
@[simp] theorem setPort_wordErrs {k : Nat} {x : Port} : (setPort s k x).wordErrs = s.wordErrs := rfl
@[simp] theorem setPort_recC {k : Nat} {x : Port} : (setPort s k x).recC = s.recC := rfl
@[simp] theorem setPort_recU {k : Nat} {x : Port} : (setPort s k x).recU = s.recU := rfl
@[simp] theorem setPort_recF {k : Nat} {x : Port} : (setPort s k x).recF = s.recF := rfl
@[simp] theorem setPort_deadPairs {k : Nat} {x : Port} : (setPort s k x).deadPairs = s.deadPairs := rfl
@[simp] theorem setPort_cAckDue {k : Nat} {x : Port} : (setPort s k x).cAckDue = s.cAckDue := rfl
@[simp] theorem setPort_mpFailed {k : Nat} {x : Port} : (setPort s k x).mpFailed = s.mpFailed := rfl
@[simp] theorem setPort_switchDead {k : Nat} {x : Port} : (setPort s k x).switchDead = s.switchDead := rfl
@[simp] theorem setPort_pondFaults {k : Nat} {x : Port} : (setPort s k x).pondFaults = s.pondFaults := rfl
@[simp] theorem setPort_lastSummary {k : Nat} {x : Port} : (setPort s k x).lastSummary = s.lastSummary := rfl
@[simp] theorem setPort_holds {k : Nat} {x : Port} : (setPort s k x).holds = s.holds := rfl
@[simp] theorem setPort_irqStacks {k : Nat} {x : Port} : (setPort s k x).irqStacks = s.irqStacks := rfl
@[simp] theorem setPort_served {k : Nat} {x : Port} : (setPort s k x).served = s.served := rfl
@[simp] theorem setPort_delivering {k : Nat} {x : Port} : (setPort s k x).delivering = s.delivering := rfl
@[simp] theorem setPort_dictRefusal {k : Nat} {x : Port} : (setPort s k x).dictRefusal = s.dictRefusal := rfl
@[simp] theorem setPort_replay {k : Nat} {x : Port} : (setPort s k x).replay = s.replay := rfl
@[simp] theorem setPort_mslots {k : Nat} {x : Port} : (setPort s k x).mslots = s.mslots := rfl
@[simp] theorem setPort_dictQ {k : Nat} {x : Port} : (setPort s k x).dictQ = s.dictQ := rfl
@[simp] theorem setPort_deferred {k : Nat} {x : Port} : (setPort s k x).deferred = s.deferred := rfl
@[simp] theorem setPort_relays {k : Nat} {x : Port} : (setPort s k x).relays = s.relays := rfl
@[simp] theorem setPort_injQ {k : Nat} {x : Port} : (setPort s k x).injQ = s.injQ := rfl
@[simp] theorem setPort_stalledInj {k : Nat} {x : Port} : (setPort s k x).stalledInj = s.stalledInj := rfl
@[simp] theorem setPort_bridgeQ {k : Nat} {x : Port} : (setPort s k x).bridgeQ = s.bridgeQ := rfl
@[simp] theorem setPort_delivered {k : Nat} {x : Port} : (setPort s k x).delivered = s.delivered := rfl
@[simp] theorem setPort_tables {k : Nat} {x : Port} : (setPort s k x).tables = s.tables := rfl
@[simp] theorem setPort_aqs {k : Nat} {x : Port} : (setPort s k x).aqs = s.aqs := rfl
@[simp] theorem setPort_aqQ {k : Nat} {x : Port} : (setPort s k x).aqQ = s.aqQ := rfl
@[simp] theorem setPort_aqGot {k : Nat} {x : Port} : (setPort s k x).aqGot = s.aqGot := rfl
@[simp] theorem setPort_aqBurst {k : Nat} {x : Port} : (setPort s k x).aqBurst = s.aqBurst := rfl
@[simp] theorem setPort_aqSent {k : Nat} {x : Port} : (setPort s k x).aqSent = s.aqSent := rfl
@[simp] theorem setPort_dropsSeen {k : Nat} {x : Port} : (setPort s k x).dropsSeen = s.dropsSeen := rfl
@[simp] theorem setPort_tagDropSeen {k : Nat} {x : Port} : (setPort s k x).tagDropSeen = s.tagDropSeen := rfl
@[simp] theorem setPort_epochStep {k : Nat} {x : Port} : (setPort s k x).epochStep = s.epochStep := rfl
@[simp] theorem setPort_windows {k : Nat} {x : Port} : (setPort s k x).windows = s.windows := rfl
@[simp] theorem setPort_windowFaultSeen {k : Nat} {x : Port} : (setPort s k x).windowFaultSeen = s.windowFaultSeen := rfl
@[simp] theorem setPort_memErrors {k : Nat} {x : Port} : (setPort s k x).memErrors = s.memErrors := rfl
@[simp] theorem setPort_senders {k : Nat} {x : Port} : (setPort s k x).senders = s.senders := rfl
@[simp] theorem setPort_ledger {k : Nat} {x : Port} : (setPort s k x).ledger = s.ledger := rfl
@[simp] theorem setPort_ledgerWait {k : Nat} {x : Port} : (setPort s k x).ledgerWait = s.ledgerWait := rfl
@[simp] theorem setPort_lineQ {k : Nat} {x : Port} : (setPort s k x).lineQ = s.lineQ := rfl
@[simp] theorem setPort_homeReqs {k : Nat} {x : Port} : (setPort s k x).homeReqs = s.homeReqs := rfl
@[simp] theorem setPort_hotLines {k : Nat} {x : Port} : (setPort s k x).hotLines = s.hotLines := rfl
@[simp] theorem setPort_groupLists {k : Nat} {x : Port} : (setPort s k x).groupLists = s.groupLists := rfl
@[simp] theorem setPort_colls {k : Nat} {x : Port} : (setPort s k x).colls = s.colls := rfl
@[simp] theorem setPort_collEnds {k : Nat} {x : Port} : (setPort s k x).collEnds = s.collEnds := rfl
@[simp] theorem setPort_mcasts {k : Nat} {x : Port} : (setPort s k x).mcasts = s.mcasts := rfl
@[simp] theorem setPort_mcastNext {k : Nat} {x : Port} : (setPort s k x).mcastNext = s.mcastNext := rfl
@[simp] theorem setPort_heldMsgs {k : Nat} {x : Port} : (setPort s k x).heldMsgs = s.heldMsgs := rfl
@[simp] theorem setPort_fencedLegs {k : Nat} {x : Port} : (setPort s k x).fencedLegs = s.fencedLegs := rfl
@[simp] theorem setPort_backoffs {k : Nat} {x : Port} : (setPort s k x).backoffs = s.backoffs := rfl
@[simp] theorem setPort_jobTag {k : Nat} {x : Port} : (setPort s k x).jobTag = s.jobTag := rfl
@[simp] theorem setPort_starts {k : Nat} {x : Port} : (setPort s k x).starts = s.starts := rfl
@[simp] theorem setPort_jobList {k : Nat} {x : Port} : (setPort s k x).jobList = s.jobList := rfl
@[simp] theorem setPort_jobStep {k : Nat} {x : Port} : (setPort s k x).jobStep = s.jobStep := rfl
@[simp] theorem setPort_jobMember {k : Nat} {x : Port} : (setPort s k x).jobMember = s.jobMember := rfl
@[simp] theorem setPort_jobSeen {k : Nat} {x : Port} : (setPort s k x).jobSeen = s.jobSeen := rfl
@[simp] theorem setPort_jobMembers {k : Nat} {x : Port} : (setPort s k x).jobMembers = s.jobMembers := rfl
@[simp] theorem setPort_keystoneSilent {k : Nat} {x : Port} : (setPort s k x).keystoneSilent = s.keystoneSilent := rfl
@[simp] theorem setPort_newKeystone {k : Nat} {x : Port} : (setPort s k x).newKeystone = s.newKeystone := rfl
@[simp] theorem setPort_ctxs {k : Nat} {x : Port} : (setPort s k x).ctxs = s.ctxs := rfl
@[simp] theorem setPort_loading {k : Nat} {x : Port} : (setPort s k x).loading = s.loading := rfl
@[simp] theorem setPort_rings {k : Nat} {x : Port} : (setPort s k x).rings = s.rings := rfl
@[simp] theorem setPort_mailboxes {k : Nat} {x : Port} : (setPort s k x).mailboxes = s.mailboxes := rfl
@[simp] theorem setPort_posts {k : Nat} {x : Port} : (setPort s k x).posts = s.posts := rfl
@[simp] theorem setPort_teardown {k : Nat} {x : Port} : (setPort s k x).teardown = s.teardown := rfl
@[simp] theorem setPort_routers {k : Nat} {x : Port} : (setPort s k x).routers = s.routers := rfl
@[simp] theorem setPort_toks {k : Nat} {x : Port} : (setPort s k x).toks = s.toks := rfl
@[simp] theorem setPort_confs {k : Nat} {x : Port} : (setPort s k x).confs = s.confs := rfl
@[simp] theorem setPort_gens {k : Nat} {x : Port} : (setPort s k x).gens = s.gens := rfl
@[simp] theorem setPort_cancels {k : Nat} {x : Port} : (setPort s k x).cancels = s.cancels := rfl
@[simp] theorem setPort_notIntact {k : Nat} {x : Port} : (setPort s k x).notIntact = s.notIntact := rfl
@[simp] theorem setPort_bundles {k : Nat} {x : Port} : (setPort s k x).bundles = s.bundles := rfl
@[simp] theorem setPort_barriers {k : Nat} {x : Port} : (setPort s k x).barriers = s.barriers := rfl
@[simp] theorem setPort_claims {k : Nat} {x : Port} : (setPort s k x).claims = s.claims := rfl
@[simp] theorem setPort_admitted {k : Nat} {x : Port} : (setPort s k x).admitted = s.admitted := rfl
@[simp] theorem setPort_slots {k : Nat} {x : Port} : (setPort s k x).slots = s.slots := rfl
@[simp] theorem setPort_runs {k : Nat} {x : Port} : (setPort s k x).runs = s.runs := rfl
@[simp] theorem setPort_qTails {k : Nat} {x : Port} : (setPort s k x).qTails = s.qTails := rfl
@[simp] theorem setPort_pupdates {k : Nat} {x : Port} : (setPort s k x).pupdates = s.pupdates := rfl
@[simp] theorem setPort_blocksReading {k : Nat} {x : Port} : (setPort s k x).blocksReading = s.blocksReading := rfl
@[simp] theorem setPort_fetchQ {k : Nat} {x : Port} : (setPort s k x).fetchQ = s.fetchQ := rfl
@[simp] theorem setPort_fetchHeld {k : Nat} {x : Port} : (setPort s k x).fetchHeld = s.fetchHeld := rfl
@[simp] theorem setPort_fills {k : Nat} {x : Port} : (setPort s k x).fills = s.fills := rfl
@[simp] theorem setPort_wins {k : Nat} {x : Port} : (setPort s k x).wins = s.wins := rfl
@[simp] theorem setPort_writebacks {k : Nat} {x : Port} : (setPort s k x).writebacks = s.writebacks := rfl
@[simp] theorem setPort_kvWaits {k : Nat} {x : Port} : (setPort s k x).kvWaits = s.kvWaits := rfl
@[simp] theorem setPort_stones {k : Nat} {x : Port} : (setPort s k x).stones = s.stones := rfl
@[simp] theorem setPort_arrays {k : Nat} {x : Port} : (setPort s k x).arrays = s.arrays := rfl
@[simp] theorem setPort_dmas {k : Nat} {x : Port} : (setPort s k x).dmas = s.dmas := rfl
@[simp] theorem setPort_dmaLast {k : Nat} {x : Port} : (setPort s k x).dmaLast = s.dmaLast := rfl
@[simp] theorem setPort_pools {k : Nat} {x : Port} : (setPort s k x).pools = s.pools := rfl
@[simp] theorem setPort_umora {k : Nat} {x : Port} : (setPort s k x).umora = s.umora := rfl
@[simp] theorem setPort_clock {k : Nat} {x : Port} : (setPort s k x).clock = s.clock := rfl
@[simp] theorem setPort_power {k : Nat} {x : Port} : (setPort s k x).power = s.power := rfl
@[simp] theorem setPort_sec {k : Nat} {x : Port} : (setPort s k x).sec = s.sec := rfl

/-! ### modPort -/

@[simp] theorem modPort_pending {k : Nat} {f : Port → Port} : (modPort s k f).pending = s.pending := rfl
@[simp] theorem modPort_nonce {k : Nat} {f : Port → Port} : (modPort s k f).nonce = s.nonce := rfl
@[simp] theorem modPort_resetLow {k : Nat} {f : Port → Port} : (modPort s k f).resetLow = s.resetLow := rfl
@[simp] theorem modPort_trayId {k : Nat} {f : Port → Port} : (modPort s k f).trayId = s.trayId := rfl
@[simp] theorem modPort_fuses {k : Nat} {f : Port → Port} : (modPort s k f).fuses = s.fuses := rfl
@[simp] theorem modPort_mode {k : Nat} {f : Port → Port} : (modPort s k f).mode = s.mode := rfl
@[simp] theorem modPort_ent {k : Nat} {f : Port → Port} : (modPort s k f).ent = s.ent := rfl
@[simp] theorem modPort_out {k : Nat} {f : Port → Port} : (modPort s k f).out = s.out := rfl
@[simp] theorem modPort_mem {k : Nat} {f : Port → Port} : (modPort s k f).mem = s.mem := rfl
@[simp] theorem modPort_sram {k : Nat} {f : Port → Port} : (modPort s k f).sram = s.sram := rfl
@[simp] theorem modPort_slotMem {k : Nat} {f : Port → Port} : (modPort s k f).slotMem = s.slotMem := rfl
@[simp] theorem modPort_fenced {k : Nat} {f : Port → Port} : (modPort s k f).fenced = s.fenced := rfl
@[simp] theorem modPort_badWords {k : Nat} {f : Port → Port} : (modPort s k f).badWords = s.badWords := rfl
@[simp] theorem modPort_wordErrs {k : Nat} {f : Port → Port} : (modPort s k f).wordErrs = s.wordErrs := rfl
@[simp] theorem modPort_recC {k : Nat} {f : Port → Port} : (modPort s k f).recC = s.recC := rfl
@[simp] theorem modPort_recU {k : Nat} {f : Port → Port} : (modPort s k f).recU = s.recU := rfl
@[simp] theorem modPort_recF {k : Nat} {f : Port → Port} : (modPort s k f).recF = s.recF := rfl
@[simp] theorem modPort_deadPairs {k : Nat} {f : Port → Port} : (modPort s k f).deadPairs = s.deadPairs := rfl
@[simp] theorem modPort_cAckDue {k : Nat} {f : Port → Port} : (modPort s k f).cAckDue = s.cAckDue := rfl
@[simp] theorem modPort_mpFailed {k : Nat} {f : Port → Port} : (modPort s k f).mpFailed = s.mpFailed := rfl
@[simp] theorem modPort_switchDead {k : Nat} {f : Port → Port} : (modPort s k f).switchDead = s.switchDead := rfl
@[simp] theorem modPort_pondFaults {k : Nat} {f : Port → Port} : (modPort s k f).pondFaults = s.pondFaults := rfl
@[simp] theorem modPort_lastSummary {k : Nat} {f : Port → Port} : (modPort s k f).lastSummary = s.lastSummary := rfl
@[simp] theorem modPort_holds {k : Nat} {f : Port → Port} : (modPort s k f).holds = s.holds := rfl
@[simp] theorem modPort_irqStacks {k : Nat} {f : Port → Port} : (modPort s k f).irqStacks = s.irqStacks := rfl
@[simp] theorem modPort_served {k : Nat} {f : Port → Port} : (modPort s k f).served = s.served := rfl
@[simp] theorem modPort_delivering {k : Nat} {f : Port → Port} : (modPort s k f).delivering = s.delivering := rfl
@[simp] theorem modPort_dictRefusal {k : Nat} {f : Port → Port} : (modPort s k f).dictRefusal = s.dictRefusal := rfl
@[simp] theorem modPort_replay {k : Nat} {f : Port → Port} : (modPort s k f).replay = s.replay := rfl
@[simp] theorem modPort_mslots {k : Nat} {f : Port → Port} : (modPort s k f).mslots = s.mslots := rfl
@[simp] theorem modPort_dictQ {k : Nat} {f : Port → Port} : (modPort s k f).dictQ = s.dictQ := rfl
@[simp] theorem modPort_deferred {k : Nat} {f : Port → Port} : (modPort s k f).deferred = s.deferred := rfl
@[simp] theorem modPort_relays {k : Nat} {f : Port → Port} : (modPort s k f).relays = s.relays := rfl
@[simp] theorem modPort_injQ {k : Nat} {f : Port → Port} : (modPort s k f).injQ = s.injQ := rfl
@[simp] theorem modPort_stalledInj {k : Nat} {f : Port → Port} : (modPort s k f).stalledInj = s.stalledInj := rfl
@[simp] theorem modPort_bridgeQ {k : Nat} {f : Port → Port} : (modPort s k f).bridgeQ = s.bridgeQ := rfl
@[simp] theorem modPort_delivered {k : Nat} {f : Port → Port} : (modPort s k f).delivered = s.delivered := rfl
@[simp] theorem modPort_tables {k : Nat} {f : Port → Port} : (modPort s k f).tables = s.tables := rfl
@[simp] theorem modPort_aqs {k : Nat} {f : Port → Port} : (modPort s k f).aqs = s.aqs := rfl
@[simp] theorem modPort_aqQ {k : Nat} {f : Port → Port} : (modPort s k f).aqQ = s.aqQ := rfl
@[simp] theorem modPort_aqGot {k : Nat} {f : Port → Port} : (modPort s k f).aqGot = s.aqGot := rfl
@[simp] theorem modPort_aqBurst {k : Nat} {f : Port → Port} : (modPort s k f).aqBurst = s.aqBurst := rfl
@[simp] theorem modPort_aqSent {k : Nat} {f : Port → Port} : (modPort s k f).aqSent = s.aqSent := rfl
@[simp] theorem modPort_dropsSeen {k : Nat} {f : Port → Port} : (modPort s k f).dropsSeen = s.dropsSeen := rfl
@[simp] theorem modPort_tagDropSeen {k : Nat} {f : Port → Port} : (modPort s k f).tagDropSeen = s.tagDropSeen := rfl
@[simp] theorem modPort_epochStep {k : Nat} {f : Port → Port} : (modPort s k f).epochStep = s.epochStep := rfl
@[simp] theorem modPort_windows {k : Nat} {f : Port → Port} : (modPort s k f).windows = s.windows := rfl
@[simp] theorem modPort_windowFaultSeen {k : Nat} {f : Port → Port} : (modPort s k f).windowFaultSeen = s.windowFaultSeen := rfl
@[simp] theorem modPort_memErrors {k : Nat} {f : Port → Port} : (modPort s k f).memErrors = s.memErrors := rfl
@[simp] theorem modPort_senders {k : Nat} {f : Port → Port} : (modPort s k f).senders = s.senders := rfl
@[simp] theorem modPort_ledger {k : Nat} {f : Port → Port} : (modPort s k f).ledger = s.ledger := rfl
@[simp] theorem modPort_ledgerWait {k : Nat} {f : Port → Port} : (modPort s k f).ledgerWait = s.ledgerWait := rfl
@[simp] theorem modPort_lineQ {k : Nat} {f : Port → Port} : (modPort s k f).lineQ = s.lineQ := rfl
@[simp] theorem modPort_homeReqs {k : Nat} {f : Port → Port} : (modPort s k f).homeReqs = s.homeReqs := rfl
@[simp] theorem modPort_hotLines {k : Nat} {f : Port → Port} : (modPort s k f).hotLines = s.hotLines := rfl
@[simp] theorem modPort_groupLists {k : Nat} {f : Port → Port} : (modPort s k f).groupLists = s.groupLists := rfl
@[simp] theorem modPort_colls {k : Nat} {f : Port → Port} : (modPort s k f).colls = s.colls := rfl
@[simp] theorem modPort_collEnds {k : Nat} {f : Port → Port} : (modPort s k f).collEnds = s.collEnds := rfl
@[simp] theorem modPort_mcasts {k : Nat} {f : Port → Port} : (modPort s k f).mcasts = s.mcasts := rfl
@[simp] theorem modPort_mcastNext {k : Nat} {f : Port → Port} : (modPort s k f).mcastNext = s.mcastNext := rfl
@[simp] theorem modPort_heldMsgs {k : Nat} {f : Port → Port} : (modPort s k f).heldMsgs = s.heldMsgs := rfl
@[simp] theorem modPort_fencedLegs {k : Nat} {f : Port → Port} : (modPort s k f).fencedLegs = s.fencedLegs := rfl
@[simp] theorem modPort_backoffs {k : Nat} {f : Port → Port} : (modPort s k f).backoffs = s.backoffs := rfl
@[simp] theorem modPort_jobTag {k : Nat} {f : Port → Port} : (modPort s k f).jobTag = s.jobTag := rfl
@[simp] theorem modPort_starts {k : Nat} {f : Port → Port} : (modPort s k f).starts = s.starts := rfl
@[simp] theorem modPort_jobList {k : Nat} {f : Port → Port} : (modPort s k f).jobList = s.jobList := rfl
@[simp] theorem modPort_jobStep {k : Nat} {f : Port → Port} : (modPort s k f).jobStep = s.jobStep := rfl
@[simp] theorem modPort_jobMember {k : Nat} {f : Port → Port} : (modPort s k f).jobMember = s.jobMember := rfl
@[simp] theorem modPort_jobSeen {k : Nat} {f : Port → Port} : (modPort s k f).jobSeen = s.jobSeen := rfl
@[simp] theorem modPort_jobMembers {k : Nat} {f : Port → Port} : (modPort s k f).jobMembers = s.jobMembers := rfl
@[simp] theorem modPort_keystoneSilent {k : Nat} {f : Port → Port} : (modPort s k f).keystoneSilent = s.keystoneSilent := rfl
@[simp] theorem modPort_newKeystone {k : Nat} {f : Port → Port} : (modPort s k f).newKeystone = s.newKeystone := rfl
@[simp] theorem modPort_ctxs {k : Nat} {f : Port → Port} : (modPort s k f).ctxs = s.ctxs := rfl
@[simp] theorem modPort_loading {k : Nat} {f : Port → Port} : (modPort s k f).loading = s.loading := rfl
@[simp] theorem modPort_rings {k : Nat} {f : Port → Port} : (modPort s k f).rings = s.rings := rfl
@[simp] theorem modPort_mailboxes {k : Nat} {f : Port → Port} : (modPort s k f).mailboxes = s.mailboxes := rfl
@[simp] theorem modPort_posts {k : Nat} {f : Port → Port} : (modPort s k f).posts = s.posts := rfl
@[simp] theorem modPort_teardown {k : Nat} {f : Port → Port} : (modPort s k f).teardown = s.teardown := rfl
@[simp] theorem modPort_routers {k : Nat} {f : Port → Port} : (modPort s k f).routers = s.routers := rfl
@[simp] theorem modPort_toks {k : Nat} {f : Port → Port} : (modPort s k f).toks = s.toks := rfl
@[simp] theorem modPort_confs {k : Nat} {f : Port → Port} : (modPort s k f).confs = s.confs := rfl
@[simp] theorem modPort_gens {k : Nat} {f : Port → Port} : (modPort s k f).gens = s.gens := rfl
@[simp] theorem modPort_cancels {k : Nat} {f : Port → Port} : (modPort s k f).cancels = s.cancels := rfl
@[simp] theorem modPort_notIntact {k : Nat} {f : Port → Port} : (modPort s k f).notIntact = s.notIntact := rfl
@[simp] theorem modPort_bundles {k : Nat} {f : Port → Port} : (modPort s k f).bundles = s.bundles := rfl
@[simp] theorem modPort_barriers {k : Nat} {f : Port → Port} : (modPort s k f).barriers = s.barriers := rfl
@[simp] theorem modPort_claims {k : Nat} {f : Port → Port} : (modPort s k f).claims = s.claims := rfl
@[simp] theorem modPort_admitted {k : Nat} {f : Port → Port} : (modPort s k f).admitted = s.admitted := rfl
@[simp] theorem modPort_slots {k : Nat} {f : Port → Port} : (modPort s k f).slots = s.slots := rfl
@[simp] theorem modPort_runs {k : Nat} {f : Port → Port} : (modPort s k f).runs = s.runs := rfl
@[simp] theorem modPort_qTails {k : Nat} {f : Port → Port} : (modPort s k f).qTails = s.qTails := rfl
@[simp] theorem modPort_pupdates {k : Nat} {f : Port → Port} : (modPort s k f).pupdates = s.pupdates := rfl
@[simp] theorem modPort_blocksReading {k : Nat} {f : Port → Port} : (modPort s k f).blocksReading = s.blocksReading := rfl
@[simp] theorem modPort_fetchQ {k : Nat} {f : Port → Port} : (modPort s k f).fetchQ = s.fetchQ := rfl
@[simp] theorem modPort_fetchHeld {k : Nat} {f : Port → Port} : (modPort s k f).fetchHeld = s.fetchHeld := rfl
@[simp] theorem modPort_fills {k : Nat} {f : Port → Port} : (modPort s k f).fills = s.fills := rfl
@[simp] theorem modPort_wins {k : Nat} {f : Port → Port} : (modPort s k f).wins = s.wins := rfl
@[simp] theorem modPort_writebacks {k : Nat} {f : Port → Port} : (modPort s k f).writebacks = s.writebacks := rfl
@[simp] theorem modPort_kvWaits {k : Nat} {f : Port → Port} : (modPort s k f).kvWaits = s.kvWaits := rfl
@[simp] theorem modPort_stones {k : Nat} {f : Port → Port} : (modPort s k f).stones = s.stones := rfl
@[simp] theorem modPort_arrays {k : Nat} {f : Port → Port} : (modPort s k f).arrays = s.arrays := rfl
@[simp] theorem modPort_dmas {k : Nat} {f : Port → Port} : (modPort s k f).dmas = s.dmas := rfl
@[simp] theorem modPort_dmaLast {k : Nat} {f : Port → Port} : (modPort s k f).dmaLast = s.dmaLast := rfl
@[simp] theorem modPort_pools {k : Nat} {f : Port → Port} : (modPort s k f).pools = s.pools := rfl
@[simp] theorem modPort_umora {k : Nat} {f : Port → Port} : (modPort s k f).umora = s.umora := rfl
@[simp] theorem modPort_clock {k : Nat} {f : Port → Port} : (modPort s k f).clock = s.clock := rfl
@[simp] theorem modPort_power {k : Nat} {f : Port → Port} : (modPort s k f).power = s.power := rfl
@[simp] theorem modPort_sec {k : Nat} {f : Port → Port} : (modPort s k f).sec = s.sec := rfl

/-! ### setPool -/

@[simp] theorem setPool_pending {k : Nat} {x : Pool} : (setPool s k x).pending = s.pending := rfl
@[simp] theorem setPool_nonce {k : Nat} {x : Pool} : (setPool s k x).nonce = s.nonce := rfl
@[simp] theorem setPool_resetLow {k : Nat} {x : Pool} : (setPool s k x).resetLow = s.resetLow := rfl
@[simp] theorem setPool_trayId {k : Nat} {x : Pool} : (setPool s k x).trayId = s.trayId := rfl
@[simp] theorem setPool_fuses {k : Nat} {x : Pool} : (setPool s k x).fuses = s.fuses := rfl
@[simp] theorem setPool_mode {k : Nat} {x : Pool} : (setPool s k x).mode = s.mode := rfl
@[simp] theorem setPool_ent {k : Nat} {x : Pool} : (setPool s k x).ent = s.ent := rfl
@[simp] theorem setPool_out {k : Nat} {x : Pool} : (setPool s k x).out = s.out := rfl
@[simp] theorem setPool_mem {k : Nat} {x : Pool} : (setPool s k x).mem = s.mem := rfl
@[simp] theorem setPool_sram {k : Nat} {x : Pool} : (setPool s k x).sram = s.sram := rfl
@[simp] theorem setPool_slotMem {k : Nat} {x : Pool} : (setPool s k x).slotMem = s.slotMem := rfl
@[simp] theorem setPool_fenced {k : Nat} {x : Pool} : (setPool s k x).fenced = s.fenced := rfl
@[simp] theorem setPool_badWords {k : Nat} {x : Pool} : (setPool s k x).badWords = s.badWords := rfl
@[simp] theorem setPool_wordErrs {k : Nat} {x : Pool} : (setPool s k x).wordErrs = s.wordErrs := rfl
@[simp] theorem setPool_recC {k : Nat} {x : Pool} : (setPool s k x).recC = s.recC := rfl
@[simp] theorem setPool_recU {k : Nat} {x : Pool} : (setPool s k x).recU = s.recU := rfl
@[simp] theorem setPool_recF {k : Nat} {x : Pool} : (setPool s k x).recF = s.recF := rfl
@[simp] theorem setPool_deadPairs {k : Nat} {x : Pool} : (setPool s k x).deadPairs = s.deadPairs := rfl
@[simp] theorem setPool_cAckDue {k : Nat} {x : Pool} : (setPool s k x).cAckDue = s.cAckDue := rfl
@[simp] theorem setPool_mpFailed {k : Nat} {x : Pool} : (setPool s k x).mpFailed = s.mpFailed := rfl
@[simp] theorem setPool_switchDead {k : Nat} {x : Pool} : (setPool s k x).switchDead = s.switchDead := rfl
@[simp] theorem setPool_pondFaults {k : Nat} {x : Pool} : (setPool s k x).pondFaults = s.pondFaults := rfl
@[simp] theorem setPool_lastSummary {k : Nat} {x : Pool} : (setPool s k x).lastSummary = s.lastSummary := rfl
@[simp] theorem setPool_holds {k : Nat} {x : Pool} : (setPool s k x).holds = s.holds := rfl
@[simp] theorem setPool_irqStacks {k : Nat} {x : Pool} : (setPool s k x).irqStacks = s.irqStacks := rfl
@[simp] theorem setPool_served {k : Nat} {x : Pool} : (setPool s k x).served = s.served := rfl
@[simp] theorem setPool_delivering {k : Nat} {x : Pool} : (setPool s k x).delivering = s.delivering := rfl
@[simp] theorem setPool_dictRefusal {k : Nat} {x : Pool} : (setPool s k x).dictRefusal = s.dictRefusal := rfl
@[simp] theorem setPool_replay {k : Nat} {x : Pool} : (setPool s k x).replay = s.replay := rfl
@[simp] theorem setPool_mslots {k : Nat} {x : Pool} : (setPool s k x).mslots = s.mslots := rfl
@[simp] theorem setPool_dictQ {k : Nat} {x : Pool} : (setPool s k x).dictQ = s.dictQ := rfl
@[simp] theorem setPool_deferred {k : Nat} {x : Pool} : (setPool s k x).deferred = s.deferred := rfl
@[simp] theorem setPool_relays {k : Nat} {x : Pool} : (setPool s k x).relays = s.relays := rfl
@[simp] theorem setPool_ports {k : Nat} {x : Pool} : (setPool s k x).ports = s.ports := rfl
@[simp] theorem setPool_injQ {k : Nat} {x : Pool} : (setPool s k x).injQ = s.injQ := rfl
@[simp] theorem setPool_stalledInj {k : Nat} {x : Pool} : (setPool s k x).stalledInj = s.stalledInj := rfl
@[simp] theorem setPool_bridgeQ {k : Nat} {x : Pool} : (setPool s k x).bridgeQ = s.bridgeQ := rfl
@[simp] theorem setPool_delivered {k : Nat} {x : Pool} : (setPool s k x).delivered = s.delivered := rfl
@[simp] theorem setPool_tables {k : Nat} {x : Pool} : (setPool s k x).tables = s.tables := rfl
@[simp] theorem setPool_aqs {k : Nat} {x : Pool} : (setPool s k x).aqs = s.aqs := rfl
@[simp] theorem setPool_aqQ {k : Nat} {x : Pool} : (setPool s k x).aqQ = s.aqQ := rfl
@[simp] theorem setPool_aqGot {k : Nat} {x : Pool} : (setPool s k x).aqGot = s.aqGot := rfl
@[simp] theorem setPool_aqBurst {k : Nat} {x : Pool} : (setPool s k x).aqBurst = s.aqBurst := rfl
@[simp] theorem setPool_aqSent {k : Nat} {x : Pool} : (setPool s k x).aqSent = s.aqSent := rfl
@[simp] theorem setPool_dropsSeen {k : Nat} {x : Pool} : (setPool s k x).dropsSeen = s.dropsSeen := rfl
@[simp] theorem setPool_tagDropSeen {k : Nat} {x : Pool} : (setPool s k x).tagDropSeen = s.tagDropSeen := rfl
@[simp] theorem setPool_epochStep {k : Nat} {x : Pool} : (setPool s k x).epochStep = s.epochStep := rfl
@[simp] theorem setPool_windows {k : Nat} {x : Pool} : (setPool s k x).windows = s.windows := rfl
@[simp] theorem setPool_windowFaultSeen {k : Nat} {x : Pool} : (setPool s k x).windowFaultSeen = s.windowFaultSeen := rfl
@[simp] theorem setPool_memErrors {k : Nat} {x : Pool} : (setPool s k x).memErrors = s.memErrors := rfl
@[simp] theorem setPool_senders {k : Nat} {x : Pool} : (setPool s k x).senders = s.senders := rfl
@[simp] theorem setPool_ledger {k : Nat} {x : Pool} : (setPool s k x).ledger = s.ledger := rfl
@[simp] theorem setPool_ledgerWait {k : Nat} {x : Pool} : (setPool s k x).ledgerWait = s.ledgerWait := rfl
@[simp] theorem setPool_lineQ {k : Nat} {x : Pool} : (setPool s k x).lineQ = s.lineQ := rfl
@[simp] theorem setPool_homeReqs {k : Nat} {x : Pool} : (setPool s k x).homeReqs = s.homeReqs := rfl
@[simp] theorem setPool_hotLines {k : Nat} {x : Pool} : (setPool s k x).hotLines = s.hotLines := rfl
@[simp] theorem setPool_groupLists {k : Nat} {x : Pool} : (setPool s k x).groupLists = s.groupLists := rfl
@[simp] theorem setPool_colls {k : Nat} {x : Pool} : (setPool s k x).colls = s.colls := rfl
@[simp] theorem setPool_collEnds {k : Nat} {x : Pool} : (setPool s k x).collEnds = s.collEnds := rfl
@[simp] theorem setPool_mcasts {k : Nat} {x : Pool} : (setPool s k x).mcasts = s.mcasts := rfl
@[simp] theorem setPool_mcastNext {k : Nat} {x : Pool} : (setPool s k x).mcastNext = s.mcastNext := rfl
@[simp] theorem setPool_heldMsgs {k : Nat} {x : Pool} : (setPool s k x).heldMsgs = s.heldMsgs := rfl
@[simp] theorem setPool_fencedLegs {k : Nat} {x : Pool} : (setPool s k x).fencedLegs = s.fencedLegs := rfl
@[simp] theorem setPool_backoffs {k : Nat} {x : Pool} : (setPool s k x).backoffs = s.backoffs := rfl
@[simp] theorem setPool_jobTag {k : Nat} {x : Pool} : (setPool s k x).jobTag = s.jobTag := rfl
@[simp] theorem setPool_starts {k : Nat} {x : Pool} : (setPool s k x).starts = s.starts := rfl
@[simp] theorem setPool_jobList {k : Nat} {x : Pool} : (setPool s k x).jobList = s.jobList := rfl
@[simp] theorem setPool_jobStep {k : Nat} {x : Pool} : (setPool s k x).jobStep = s.jobStep := rfl
@[simp] theorem setPool_jobMember {k : Nat} {x : Pool} : (setPool s k x).jobMember = s.jobMember := rfl
@[simp] theorem setPool_jobSeen {k : Nat} {x : Pool} : (setPool s k x).jobSeen = s.jobSeen := rfl
@[simp] theorem setPool_jobMembers {k : Nat} {x : Pool} : (setPool s k x).jobMembers = s.jobMembers := rfl
@[simp] theorem setPool_keystoneSilent {k : Nat} {x : Pool} : (setPool s k x).keystoneSilent = s.keystoneSilent := rfl
@[simp] theorem setPool_newKeystone {k : Nat} {x : Pool} : (setPool s k x).newKeystone = s.newKeystone := rfl
@[simp] theorem setPool_ctxs {k : Nat} {x : Pool} : (setPool s k x).ctxs = s.ctxs := rfl
@[simp] theorem setPool_loading {k : Nat} {x : Pool} : (setPool s k x).loading = s.loading := rfl
@[simp] theorem setPool_rings {k : Nat} {x : Pool} : (setPool s k x).rings = s.rings := rfl
@[simp] theorem setPool_mailboxes {k : Nat} {x : Pool} : (setPool s k x).mailboxes = s.mailboxes := rfl
@[simp] theorem setPool_posts {k : Nat} {x : Pool} : (setPool s k x).posts = s.posts := rfl
@[simp] theorem setPool_teardown {k : Nat} {x : Pool} : (setPool s k x).teardown = s.teardown := rfl
@[simp] theorem setPool_routers {k : Nat} {x : Pool} : (setPool s k x).routers = s.routers := rfl
@[simp] theorem setPool_toks {k : Nat} {x : Pool} : (setPool s k x).toks = s.toks := rfl
@[simp] theorem setPool_confs {k : Nat} {x : Pool} : (setPool s k x).confs = s.confs := rfl
@[simp] theorem setPool_gens {k : Nat} {x : Pool} : (setPool s k x).gens = s.gens := rfl
@[simp] theorem setPool_cancels {k : Nat} {x : Pool} : (setPool s k x).cancels = s.cancels := rfl
@[simp] theorem setPool_notIntact {k : Nat} {x : Pool} : (setPool s k x).notIntact = s.notIntact := rfl
@[simp] theorem setPool_bundles {k : Nat} {x : Pool} : (setPool s k x).bundles = s.bundles := rfl
@[simp] theorem setPool_barriers {k : Nat} {x : Pool} : (setPool s k x).barriers = s.barriers := rfl
@[simp] theorem setPool_claims {k : Nat} {x : Pool} : (setPool s k x).claims = s.claims := rfl
@[simp] theorem setPool_admitted {k : Nat} {x : Pool} : (setPool s k x).admitted = s.admitted := rfl
@[simp] theorem setPool_slots {k : Nat} {x : Pool} : (setPool s k x).slots = s.slots := rfl
@[simp] theorem setPool_runs {k : Nat} {x : Pool} : (setPool s k x).runs = s.runs := rfl
@[simp] theorem setPool_qTails {k : Nat} {x : Pool} : (setPool s k x).qTails = s.qTails := rfl
@[simp] theorem setPool_pupdates {k : Nat} {x : Pool} : (setPool s k x).pupdates = s.pupdates := rfl
@[simp] theorem setPool_blocksReading {k : Nat} {x : Pool} : (setPool s k x).blocksReading = s.blocksReading := rfl
@[simp] theorem setPool_fetchQ {k : Nat} {x : Pool} : (setPool s k x).fetchQ = s.fetchQ := rfl
@[simp] theorem setPool_fetchHeld {k : Nat} {x : Pool} : (setPool s k x).fetchHeld = s.fetchHeld := rfl
@[simp] theorem setPool_fills {k : Nat} {x : Pool} : (setPool s k x).fills = s.fills := rfl
@[simp] theorem setPool_wins {k : Nat} {x : Pool} : (setPool s k x).wins = s.wins := rfl
@[simp] theorem setPool_writebacks {k : Nat} {x : Pool} : (setPool s k x).writebacks = s.writebacks := rfl
@[simp] theorem setPool_kvWaits {k : Nat} {x : Pool} : (setPool s k x).kvWaits = s.kvWaits := rfl
@[simp] theorem setPool_stones {k : Nat} {x : Pool} : (setPool s k x).stones = s.stones := rfl
@[simp] theorem setPool_arrays {k : Nat} {x : Pool} : (setPool s k x).arrays = s.arrays := rfl
@[simp] theorem setPool_dmas {k : Nat} {x : Pool} : (setPool s k x).dmas = s.dmas := rfl
@[simp] theorem setPool_dmaLast {k : Nat} {x : Pool} : (setPool s k x).dmaLast = s.dmaLast := rfl
@[simp] theorem setPool_umora {k : Nat} {x : Pool} : (setPool s k x).umora = s.umora := rfl
@[simp] theorem setPool_clock {k : Nat} {x : Pool} : (setPool s k x).clock = s.clock := rfl
@[simp] theorem setPool_power {k : Nat} {x : Pool} : (setPool s k x).power = s.power := rfl
@[simp] theorem setPool_sec {k : Nat} {x : Pool} : (setPool s k x).sec = s.sec := rfl

/-! ### setRouter -/

@[simp] theorem setRouter_pending {k : Nat} {x : Router} : (setRouter s k x).pending = s.pending := rfl
@[simp] theorem setRouter_nonce {k : Nat} {x : Router} : (setRouter s k x).nonce = s.nonce := rfl
@[simp] theorem setRouter_resetLow {k : Nat} {x : Router} : (setRouter s k x).resetLow = s.resetLow := rfl
@[simp] theorem setRouter_trayId {k : Nat} {x : Router} : (setRouter s k x).trayId = s.trayId := rfl
@[simp] theorem setRouter_fuses {k : Nat} {x : Router} : (setRouter s k x).fuses = s.fuses := rfl
@[simp] theorem setRouter_mode {k : Nat} {x : Router} : (setRouter s k x).mode = s.mode := rfl
@[simp] theorem setRouter_ent {k : Nat} {x : Router} : (setRouter s k x).ent = s.ent := rfl
@[simp] theorem setRouter_out {k : Nat} {x : Router} : (setRouter s k x).out = s.out := rfl
@[simp] theorem setRouter_mem {k : Nat} {x : Router} : (setRouter s k x).mem = s.mem := rfl
@[simp] theorem setRouter_sram {k : Nat} {x : Router} : (setRouter s k x).sram = s.sram := rfl
@[simp] theorem setRouter_slotMem {k : Nat} {x : Router} : (setRouter s k x).slotMem = s.slotMem := rfl
@[simp] theorem setRouter_fenced {k : Nat} {x : Router} : (setRouter s k x).fenced = s.fenced := rfl
@[simp] theorem setRouter_badWords {k : Nat} {x : Router} : (setRouter s k x).badWords = s.badWords := rfl
@[simp] theorem setRouter_wordErrs {k : Nat} {x : Router} : (setRouter s k x).wordErrs = s.wordErrs := rfl
@[simp] theorem setRouter_recC {k : Nat} {x : Router} : (setRouter s k x).recC = s.recC := rfl
@[simp] theorem setRouter_recU {k : Nat} {x : Router} : (setRouter s k x).recU = s.recU := rfl
@[simp] theorem setRouter_recF {k : Nat} {x : Router} : (setRouter s k x).recF = s.recF := rfl
@[simp] theorem setRouter_deadPairs {k : Nat} {x : Router} : (setRouter s k x).deadPairs = s.deadPairs := rfl
@[simp] theorem setRouter_cAckDue {k : Nat} {x : Router} : (setRouter s k x).cAckDue = s.cAckDue := rfl
@[simp] theorem setRouter_mpFailed {k : Nat} {x : Router} : (setRouter s k x).mpFailed = s.mpFailed := rfl
@[simp] theorem setRouter_switchDead {k : Nat} {x : Router} : (setRouter s k x).switchDead = s.switchDead := rfl
@[simp] theorem setRouter_pondFaults {k : Nat} {x : Router} : (setRouter s k x).pondFaults = s.pondFaults := rfl
@[simp] theorem setRouter_lastSummary {k : Nat} {x : Router} : (setRouter s k x).lastSummary = s.lastSummary := rfl
@[simp] theorem setRouter_holds {k : Nat} {x : Router} : (setRouter s k x).holds = s.holds := rfl
@[simp] theorem setRouter_irqStacks {k : Nat} {x : Router} : (setRouter s k x).irqStacks = s.irqStacks := rfl
@[simp] theorem setRouter_served {k : Nat} {x : Router} : (setRouter s k x).served = s.served := rfl
@[simp] theorem setRouter_delivering {k : Nat} {x : Router} : (setRouter s k x).delivering = s.delivering := rfl
@[simp] theorem setRouter_dictRefusal {k : Nat} {x : Router} : (setRouter s k x).dictRefusal = s.dictRefusal := rfl
@[simp] theorem setRouter_replay {k : Nat} {x : Router} : (setRouter s k x).replay = s.replay := rfl
@[simp] theorem setRouter_mslots {k : Nat} {x : Router} : (setRouter s k x).mslots = s.mslots := rfl
@[simp] theorem setRouter_dictQ {k : Nat} {x : Router} : (setRouter s k x).dictQ = s.dictQ := rfl
@[simp] theorem setRouter_deferred {k : Nat} {x : Router} : (setRouter s k x).deferred = s.deferred := rfl
@[simp] theorem setRouter_relays {k : Nat} {x : Router} : (setRouter s k x).relays = s.relays := rfl
@[simp] theorem setRouter_ports {k : Nat} {x : Router} : (setRouter s k x).ports = s.ports := rfl
@[simp] theorem setRouter_injQ {k : Nat} {x : Router} : (setRouter s k x).injQ = s.injQ := rfl
@[simp] theorem setRouter_stalledInj {k : Nat} {x : Router} : (setRouter s k x).stalledInj = s.stalledInj := rfl
@[simp] theorem setRouter_bridgeQ {k : Nat} {x : Router} : (setRouter s k x).bridgeQ = s.bridgeQ := rfl
@[simp] theorem setRouter_delivered {k : Nat} {x : Router} : (setRouter s k x).delivered = s.delivered := rfl
@[simp] theorem setRouter_tables {k : Nat} {x : Router} : (setRouter s k x).tables = s.tables := rfl
@[simp] theorem setRouter_aqs {k : Nat} {x : Router} : (setRouter s k x).aqs = s.aqs := rfl
@[simp] theorem setRouter_aqQ {k : Nat} {x : Router} : (setRouter s k x).aqQ = s.aqQ := rfl
@[simp] theorem setRouter_aqGot {k : Nat} {x : Router} : (setRouter s k x).aqGot = s.aqGot := rfl
@[simp] theorem setRouter_aqBurst {k : Nat} {x : Router} : (setRouter s k x).aqBurst = s.aqBurst := rfl
@[simp] theorem setRouter_aqSent {k : Nat} {x : Router} : (setRouter s k x).aqSent = s.aqSent := rfl
@[simp] theorem setRouter_dropsSeen {k : Nat} {x : Router} : (setRouter s k x).dropsSeen = s.dropsSeen := rfl
@[simp] theorem setRouter_tagDropSeen {k : Nat} {x : Router} : (setRouter s k x).tagDropSeen = s.tagDropSeen := rfl
@[simp] theorem setRouter_epochStep {k : Nat} {x : Router} : (setRouter s k x).epochStep = s.epochStep := rfl
@[simp] theorem setRouter_windows {k : Nat} {x : Router} : (setRouter s k x).windows = s.windows := rfl
@[simp] theorem setRouter_windowFaultSeen {k : Nat} {x : Router} : (setRouter s k x).windowFaultSeen = s.windowFaultSeen := rfl
@[simp] theorem setRouter_memErrors {k : Nat} {x : Router} : (setRouter s k x).memErrors = s.memErrors := rfl
@[simp] theorem setRouter_senders {k : Nat} {x : Router} : (setRouter s k x).senders = s.senders := rfl
@[simp] theorem setRouter_ledger {k : Nat} {x : Router} : (setRouter s k x).ledger = s.ledger := rfl
@[simp] theorem setRouter_ledgerWait {k : Nat} {x : Router} : (setRouter s k x).ledgerWait = s.ledgerWait := rfl
@[simp] theorem setRouter_lineQ {k : Nat} {x : Router} : (setRouter s k x).lineQ = s.lineQ := rfl
@[simp] theorem setRouter_homeReqs {k : Nat} {x : Router} : (setRouter s k x).homeReqs = s.homeReqs := rfl
@[simp] theorem setRouter_hotLines {k : Nat} {x : Router} : (setRouter s k x).hotLines = s.hotLines := rfl
@[simp] theorem setRouter_groupLists {k : Nat} {x : Router} : (setRouter s k x).groupLists = s.groupLists := rfl
@[simp] theorem setRouter_colls {k : Nat} {x : Router} : (setRouter s k x).colls = s.colls := rfl
@[simp] theorem setRouter_collEnds {k : Nat} {x : Router} : (setRouter s k x).collEnds = s.collEnds := rfl
@[simp] theorem setRouter_mcasts {k : Nat} {x : Router} : (setRouter s k x).mcasts = s.mcasts := rfl
@[simp] theorem setRouter_mcastNext {k : Nat} {x : Router} : (setRouter s k x).mcastNext = s.mcastNext := rfl
@[simp] theorem setRouter_heldMsgs {k : Nat} {x : Router} : (setRouter s k x).heldMsgs = s.heldMsgs := rfl
@[simp] theorem setRouter_fencedLegs {k : Nat} {x : Router} : (setRouter s k x).fencedLegs = s.fencedLegs := rfl
@[simp] theorem setRouter_backoffs {k : Nat} {x : Router} : (setRouter s k x).backoffs = s.backoffs := rfl
@[simp] theorem setRouter_jobTag {k : Nat} {x : Router} : (setRouter s k x).jobTag = s.jobTag := rfl
@[simp] theorem setRouter_starts {k : Nat} {x : Router} : (setRouter s k x).starts = s.starts := rfl
@[simp] theorem setRouter_jobList {k : Nat} {x : Router} : (setRouter s k x).jobList = s.jobList := rfl
@[simp] theorem setRouter_jobStep {k : Nat} {x : Router} : (setRouter s k x).jobStep = s.jobStep := rfl
@[simp] theorem setRouter_jobMember {k : Nat} {x : Router} : (setRouter s k x).jobMember = s.jobMember := rfl
@[simp] theorem setRouter_jobSeen {k : Nat} {x : Router} : (setRouter s k x).jobSeen = s.jobSeen := rfl
@[simp] theorem setRouter_jobMembers {k : Nat} {x : Router} : (setRouter s k x).jobMembers = s.jobMembers := rfl
@[simp] theorem setRouter_keystoneSilent {k : Nat} {x : Router} : (setRouter s k x).keystoneSilent = s.keystoneSilent := rfl
@[simp] theorem setRouter_newKeystone {k : Nat} {x : Router} : (setRouter s k x).newKeystone = s.newKeystone := rfl
@[simp] theorem setRouter_ctxs {k : Nat} {x : Router} : (setRouter s k x).ctxs = s.ctxs := rfl
@[simp] theorem setRouter_loading {k : Nat} {x : Router} : (setRouter s k x).loading = s.loading := rfl
@[simp] theorem setRouter_rings {k : Nat} {x : Router} : (setRouter s k x).rings = s.rings := rfl
@[simp] theorem setRouter_mailboxes {k : Nat} {x : Router} : (setRouter s k x).mailboxes = s.mailboxes := rfl
@[simp] theorem setRouter_posts {k : Nat} {x : Router} : (setRouter s k x).posts = s.posts := rfl
@[simp] theorem setRouter_teardown {k : Nat} {x : Router} : (setRouter s k x).teardown = s.teardown := rfl
@[simp] theorem setRouter_toks {k : Nat} {x : Router} : (setRouter s k x).toks = s.toks := rfl
@[simp] theorem setRouter_confs {k : Nat} {x : Router} : (setRouter s k x).confs = s.confs := rfl
@[simp] theorem setRouter_gens {k : Nat} {x : Router} : (setRouter s k x).gens = s.gens := rfl
@[simp] theorem setRouter_cancels {k : Nat} {x : Router} : (setRouter s k x).cancels = s.cancels := rfl
@[simp] theorem setRouter_notIntact {k : Nat} {x : Router} : (setRouter s k x).notIntact = s.notIntact := rfl
@[simp] theorem setRouter_bundles {k : Nat} {x : Router} : (setRouter s k x).bundles = s.bundles := rfl
@[simp] theorem setRouter_barriers {k : Nat} {x : Router} : (setRouter s k x).barriers = s.barriers := rfl
@[simp] theorem setRouter_claims {k : Nat} {x : Router} : (setRouter s k x).claims = s.claims := rfl
@[simp] theorem setRouter_admitted {k : Nat} {x : Router} : (setRouter s k x).admitted = s.admitted := rfl
@[simp] theorem setRouter_slots {k : Nat} {x : Router} : (setRouter s k x).slots = s.slots := rfl
@[simp] theorem setRouter_runs {k : Nat} {x : Router} : (setRouter s k x).runs = s.runs := rfl
@[simp] theorem setRouter_qTails {k : Nat} {x : Router} : (setRouter s k x).qTails = s.qTails := rfl
@[simp] theorem setRouter_pupdates {k : Nat} {x : Router} : (setRouter s k x).pupdates = s.pupdates := rfl
@[simp] theorem setRouter_blocksReading {k : Nat} {x : Router} : (setRouter s k x).blocksReading = s.blocksReading := rfl
@[simp] theorem setRouter_fetchQ {k : Nat} {x : Router} : (setRouter s k x).fetchQ = s.fetchQ := rfl
@[simp] theorem setRouter_fetchHeld {k : Nat} {x : Router} : (setRouter s k x).fetchHeld = s.fetchHeld := rfl
@[simp] theorem setRouter_fills {k : Nat} {x : Router} : (setRouter s k x).fills = s.fills := rfl
@[simp] theorem setRouter_wins {k : Nat} {x : Router} : (setRouter s k x).wins = s.wins := rfl
@[simp] theorem setRouter_writebacks {k : Nat} {x : Router} : (setRouter s k x).writebacks = s.writebacks := rfl
@[simp] theorem setRouter_kvWaits {k : Nat} {x : Router} : (setRouter s k x).kvWaits = s.kvWaits := rfl
@[simp] theorem setRouter_stones {k : Nat} {x : Router} : (setRouter s k x).stones = s.stones := rfl
@[simp] theorem setRouter_arrays {k : Nat} {x : Router} : (setRouter s k x).arrays = s.arrays := rfl
@[simp] theorem setRouter_dmas {k : Nat} {x : Router} : (setRouter s k x).dmas = s.dmas := rfl
@[simp] theorem setRouter_dmaLast {k : Nat} {x : Router} : (setRouter s k x).dmaLast = s.dmaLast := rfl
@[simp] theorem setRouter_pools {k : Nat} {x : Router} : (setRouter s k x).pools = s.pools := rfl
@[simp] theorem setRouter_umora {k : Nat} {x : Router} : (setRouter s k x).umora = s.umora := rfl
@[simp] theorem setRouter_clock {k : Nat} {x : Router} : (setRouter s k x).clock = s.clock := rfl
@[simp] theorem setRouter_power {k : Nat} {x : Router} : (setRouter s k x).power = s.power := rfl
@[simp] theorem setRouter_sec {k : Nat} {x : Router} : (setRouter s k x).sec = s.sec := rfl

/-! ### setRing -/

@[simp] theorem setRing_pending {k : Nat} {x : Ring} : (setRing s k x).pending = s.pending := rfl
@[simp] theorem setRing_nonce {k : Nat} {x : Ring} : (setRing s k x).nonce = s.nonce := rfl
@[simp] theorem setRing_resetLow {k : Nat} {x : Ring} : (setRing s k x).resetLow = s.resetLow := rfl
@[simp] theorem setRing_trayId {k : Nat} {x : Ring} : (setRing s k x).trayId = s.trayId := rfl
@[simp] theorem setRing_fuses {k : Nat} {x : Ring} : (setRing s k x).fuses = s.fuses := rfl
@[simp] theorem setRing_mode {k : Nat} {x : Ring} : (setRing s k x).mode = s.mode := rfl
@[simp] theorem setRing_ent {k : Nat} {x : Ring} : (setRing s k x).ent = s.ent := rfl
@[simp] theorem setRing_out {k : Nat} {x : Ring} : (setRing s k x).out = s.out := rfl
@[simp] theorem setRing_mem {k : Nat} {x : Ring} : (setRing s k x).mem = s.mem := rfl
@[simp] theorem setRing_sram {k : Nat} {x : Ring} : (setRing s k x).sram = s.sram := rfl
@[simp] theorem setRing_slotMem {k : Nat} {x : Ring} : (setRing s k x).slotMem = s.slotMem := rfl
@[simp] theorem setRing_fenced {k : Nat} {x : Ring} : (setRing s k x).fenced = s.fenced := rfl
@[simp] theorem setRing_badWords {k : Nat} {x : Ring} : (setRing s k x).badWords = s.badWords := rfl
@[simp] theorem setRing_wordErrs {k : Nat} {x : Ring} : (setRing s k x).wordErrs = s.wordErrs := rfl
@[simp] theorem setRing_recC {k : Nat} {x : Ring} : (setRing s k x).recC = s.recC := rfl
@[simp] theorem setRing_recU {k : Nat} {x : Ring} : (setRing s k x).recU = s.recU := rfl
@[simp] theorem setRing_recF {k : Nat} {x : Ring} : (setRing s k x).recF = s.recF := rfl
@[simp] theorem setRing_deadPairs {k : Nat} {x : Ring} : (setRing s k x).deadPairs = s.deadPairs := rfl
@[simp] theorem setRing_cAckDue {k : Nat} {x : Ring} : (setRing s k x).cAckDue = s.cAckDue := rfl
@[simp] theorem setRing_mpFailed {k : Nat} {x : Ring} : (setRing s k x).mpFailed = s.mpFailed := rfl
@[simp] theorem setRing_switchDead {k : Nat} {x : Ring} : (setRing s k x).switchDead = s.switchDead := rfl
@[simp] theorem setRing_pondFaults {k : Nat} {x : Ring} : (setRing s k x).pondFaults = s.pondFaults := rfl
@[simp] theorem setRing_lastSummary {k : Nat} {x : Ring} : (setRing s k x).lastSummary = s.lastSummary := rfl
@[simp] theorem setRing_holds {k : Nat} {x : Ring} : (setRing s k x).holds = s.holds := rfl
@[simp] theorem setRing_irqStacks {k : Nat} {x : Ring} : (setRing s k x).irqStacks = s.irqStacks := rfl
@[simp] theorem setRing_served {k : Nat} {x : Ring} : (setRing s k x).served = s.served := rfl
@[simp] theorem setRing_delivering {k : Nat} {x : Ring} : (setRing s k x).delivering = s.delivering := rfl
@[simp] theorem setRing_dictRefusal {k : Nat} {x : Ring} : (setRing s k x).dictRefusal = s.dictRefusal := rfl
@[simp] theorem setRing_replay {k : Nat} {x : Ring} : (setRing s k x).replay = s.replay := rfl
@[simp] theorem setRing_mslots {k : Nat} {x : Ring} : (setRing s k x).mslots = s.mslots := rfl
@[simp] theorem setRing_dictQ {k : Nat} {x : Ring} : (setRing s k x).dictQ = s.dictQ := rfl
@[simp] theorem setRing_deferred {k : Nat} {x : Ring} : (setRing s k x).deferred = s.deferred := rfl
@[simp] theorem setRing_relays {k : Nat} {x : Ring} : (setRing s k x).relays = s.relays := rfl
@[simp] theorem setRing_ports {k : Nat} {x : Ring} : (setRing s k x).ports = s.ports := rfl
@[simp] theorem setRing_injQ {k : Nat} {x : Ring} : (setRing s k x).injQ = s.injQ := rfl
@[simp] theorem setRing_stalledInj {k : Nat} {x : Ring} : (setRing s k x).stalledInj = s.stalledInj := rfl
@[simp] theorem setRing_bridgeQ {k : Nat} {x : Ring} : (setRing s k x).bridgeQ = s.bridgeQ := rfl
@[simp] theorem setRing_delivered {k : Nat} {x : Ring} : (setRing s k x).delivered = s.delivered := rfl
@[simp] theorem setRing_tables {k : Nat} {x : Ring} : (setRing s k x).tables = s.tables := rfl
@[simp] theorem setRing_aqs {k : Nat} {x : Ring} : (setRing s k x).aqs = s.aqs := rfl
@[simp] theorem setRing_aqQ {k : Nat} {x : Ring} : (setRing s k x).aqQ = s.aqQ := rfl
@[simp] theorem setRing_aqGot {k : Nat} {x : Ring} : (setRing s k x).aqGot = s.aqGot := rfl
@[simp] theorem setRing_aqBurst {k : Nat} {x : Ring} : (setRing s k x).aqBurst = s.aqBurst := rfl
@[simp] theorem setRing_aqSent {k : Nat} {x : Ring} : (setRing s k x).aqSent = s.aqSent := rfl
@[simp] theorem setRing_dropsSeen {k : Nat} {x : Ring} : (setRing s k x).dropsSeen = s.dropsSeen := rfl
@[simp] theorem setRing_tagDropSeen {k : Nat} {x : Ring} : (setRing s k x).tagDropSeen = s.tagDropSeen := rfl
@[simp] theorem setRing_epochStep {k : Nat} {x : Ring} : (setRing s k x).epochStep = s.epochStep := rfl
@[simp] theorem setRing_windows {k : Nat} {x : Ring} : (setRing s k x).windows = s.windows := rfl
@[simp] theorem setRing_windowFaultSeen {k : Nat} {x : Ring} : (setRing s k x).windowFaultSeen = s.windowFaultSeen := rfl
@[simp] theorem setRing_memErrors {k : Nat} {x : Ring} : (setRing s k x).memErrors = s.memErrors := rfl
@[simp] theorem setRing_senders {k : Nat} {x : Ring} : (setRing s k x).senders = s.senders := rfl
@[simp] theorem setRing_ledger {k : Nat} {x : Ring} : (setRing s k x).ledger = s.ledger := rfl
@[simp] theorem setRing_ledgerWait {k : Nat} {x : Ring} : (setRing s k x).ledgerWait = s.ledgerWait := rfl
@[simp] theorem setRing_lineQ {k : Nat} {x : Ring} : (setRing s k x).lineQ = s.lineQ := rfl
@[simp] theorem setRing_homeReqs {k : Nat} {x : Ring} : (setRing s k x).homeReqs = s.homeReqs := rfl
@[simp] theorem setRing_hotLines {k : Nat} {x : Ring} : (setRing s k x).hotLines = s.hotLines := rfl
@[simp] theorem setRing_groupLists {k : Nat} {x : Ring} : (setRing s k x).groupLists = s.groupLists := rfl
@[simp] theorem setRing_colls {k : Nat} {x : Ring} : (setRing s k x).colls = s.colls := rfl
@[simp] theorem setRing_collEnds {k : Nat} {x : Ring} : (setRing s k x).collEnds = s.collEnds := rfl
@[simp] theorem setRing_mcasts {k : Nat} {x : Ring} : (setRing s k x).mcasts = s.mcasts := rfl
@[simp] theorem setRing_mcastNext {k : Nat} {x : Ring} : (setRing s k x).mcastNext = s.mcastNext := rfl
@[simp] theorem setRing_heldMsgs {k : Nat} {x : Ring} : (setRing s k x).heldMsgs = s.heldMsgs := rfl
@[simp] theorem setRing_fencedLegs {k : Nat} {x : Ring} : (setRing s k x).fencedLegs = s.fencedLegs := rfl
@[simp] theorem setRing_backoffs {k : Nat} {x : Ring} : (setRing s k x).backoffs = s.backoffs := rfl
@[simp] theorem setRing_jobTag {k : Nat} {x : Ring} : (setRing s k x).jobTag = s.jobTag := rfl
@[simp] theorem setRing_starts {k : Nat} {x : Ring} : (setRing s k x).starts = s.starts := rfl
@[simp] theorem setRing_jobList {k : Nat} {x : Ring} : (setRing s k x).jobList = s.jobList := rfl
@[simp] theorem setRing_jobStep {k : Nat} {x : Ring} : (setRing s k x).jobStep = s.jobStep := rfl
@[simp] theorem setRing_jobMember {k : Nat} {x : Ring} : (setRing s k x).jobMember = s.jobMember := rfl
@[simp] theorem setRing_jobSeen {k : Nat} {x : Ring} : (setRing s k x).jobSeen = s.jobSeen := rfl
@[simp] theorem setRing_jobMembers {k : Nat} {x : Ring} : (setRing s k x).jobMembers = s.jobMembers := rfl
@[simp] theorem setRing_keystoneSilent {k : Nat} {x : Ring} : (setRing s k x).keystoneSilent = s.keystoneSilent := rfl
@[simp] theorem setRing_newKeystone {k : Nat} {x : Ring} : (setRing s k x).newKeystone = s.newKeystone := rfl
@[simp] theorem setRing_ctxs {k : Nat} {x : Ring} : (setRing s k x).ctxs = s.ctxs := rfl
@[simp] theorem setRing_loading {k : Nat} {x : Ring} : (setRing s k x).loading = s.loading := rfl
@[simp] theorem setRing_mailboxes {k : Nat} {x : Ring} : (setRing s k x).mailboxes = s.mailboxes := rfl
@[simp] theorem setRing_posts {k : Nat} {x : Ring} : (setRing s k x).posts = s.posts := rfl
@[simp] theorem setRing_teardown {k : Nat} {x : Ring} : (setRing s k x).teardown = s.teardown := rfl
@[simp] theorem setRing_routers {k : Nat} {x : Ring} : (setRing s k x).routers = s.routers := rfl
@[simp] theorem setRing_toks {k : Nat} {x : Ring} : (setRing s k x).toks = s.toks := rfl
@[simp] theorem setRing_confs {k : Nat} {x : Ring} : (setRing s k x).confs = s.confs := rfl
@[simp] theorem setRing_gens {k : Nat} {x : Ring} : (setRing s k x).gens = s.gens := rfl
@[simp] theorem setRing_cancels {k : Nat} {x : Ring} : (setRing s k x).cancels = s.cancels := rfl
@[simp] theorem setRing_notIntact {k : Nat} {x : Ring} : (setRing s k x).notIntact = s.notIntact := rfl
@[simp] theorem setRing_bundles {k : Nat} {x : Ring} : (setRing s k x).bundles = s.bundles := rfl
@[simp] theorem setRing_barriers {k : Nat} {x : Ring} : (setRing s k x).barriers = s.barriers := rfl
@[simp] theorem setRing_claims {k : Nat} {x : Ring} : (setRing s k x).claims = s.claims := rfl
@[simp] theorem setRing_admitted {k : Nat} {x : Ring} : (setRing s k x).admitted = s.admitted := rfl
@[simp] theorem setRing_slots {k : Nat} {x : Ring} : (setRing s k x).slots = s.slots := rfl
@[simp] theorem setRing_runs {k : Nat} {x : Ring} : (setRing s k x).runs = s.runs := rfl
@[simp] theorem setRing_qTails {k : Nat} {x : Ring} : (setRing s k x).qTails = s.qTails := rfl
@[simp] theorem setRing_pupdates {k : Nat} {x : Ring} : (setRing s k x).pupdates = s.pupdates := rfl
@[simp] theorem setRing_blocksReading {k : Nat} {x : Ring} : (setRing s k x).blocksReading = s.blocksReading := rfl
@[simp] theorem setRing_fetchQ {k : Nat} {x : Ring} : (setRing s k x).fetchQ = s.fetchQ := rfl
@[simp] theorem setRing_fetchHeld {k : Nat} {x : Ring} : (setRing s k x).fetchHeld = s.fetchHeld := rfl
@[simp] theorem setRing_fills {k : Nat} {x : Ring} : (setRing s k x).fills = s.fills := rfl
@[simp] theorem setRing_wins {k : Nat} {x : Ring} : (setRing s k x).wins = s.wins := rfl
@[simp] theorem setRing_writebacks {k : Nat} {x : Ring} : (setRing s k x).writebacks = s.writebacks := rfl
@[simp] theorem setRing_kvWaits {k : Nat} {x : Ring} : (setRing s k x).kvWaits = s.kvWaits := rfl
@[simp] theorem setRing_stones {k : Nat} {x : Ring} : (setRing s k x).stones = s.stones := rfl
@[simp] theorem setRing_arrays {k : Nat} {x : Ring} : (setRing s k x).arrays = s.arrays := rfl
@[simp] theorem setRing_dmas {k : Nat} {x : Ring} : (setRing s k x).dmas = s.dmas := rfl
@[simp] theorem setRing_dmaLast {k : Nat} {x : Ring} : (setRing s k x).dmaLast = s.dmaLast := rfl
@[simp] theorem setRing_pools {k : Nat} {x : Ring} : (setRing s k x).pools = s.pools := rfl
@[simp] theorem setRing_umora {k : Nat} {x : Ring} : (setRing s k x).umora = s.umora := rfl
@[simp] theorem setRing_clock {k : Nat} {x : Ring} : (setRing s k x).clock = s.clock := rfl
@[simp] theorem setRing_power {k : Nat} {x : Ring} : (setRing s k x).power = s.power := rfl
@[simp] theorem setRing_sec {k : Nat} {x : Ring} : (setRing s k x).sec = s.sec := rfl

/-! ### setMailbox -/

@[simp] theorem setMailbox_pending {k : Nat} {x : Mailbox} : (setMailbox s k x).pending = s.pending := rfl
@[simp] theorem setMailbox_nonce {k : Nat} {x : Mailbox} : (setMailbox s k x).nonce = s.nonce := rfl
@[simp] theorem setMailbox_resetLow {k : Nat} {x : Mailbox} : (setMailbox s k x).resetLow = s.resetLow := rfl
@[simp] theorem setMailbox_trayId {k : Nat} {x : Mailbox} : (setMailbox s k x).trayId = s.trayId := rfl
@[simp] theorem setMailbox_fuses {k : Nat} {x : Mailbox} : (setMailbox s k x).fuses = s.fuses := rfl
@[simp] theorem setMailbox_mode {k : Nat} {x : Mailbox} : (setMailbox s k x).mode = s.mode := rfl
@[simp] theorem setMailbox_ent {k : Nat} {x : Mailbox} : (setMailbox s k x).ent = s.ent := rfl
@[simp] theorem setMailbox_out {k : Nat} {x : Mailbox} : (setMailbox s k x).out = s.out := rfl
@[simp] theorem setMailbox_mem {k : Nat} {x : Mailbox} : (setMailbox s k x).mem = s.mem := rfl
@[simp] theorem setMailbox_sram {k : Nat} {x : Mailbox} : (setMailbox s k x).sram = s.sram := rfl
@[simp] theorem setMailbox_slotMem {k : Nat} {x : Mailbox} : (setMailbox s k x).slotMem = s.slotMem := rfl
@[simp] theorem setMailbox_fenced {k : Nat} {x : Mailbox} : (setMailbox s k x).fenced = s.fenced := rfl
@[simp] theorem setMailbox_badWords {k : Nat} {x : Mailbox} : (setMailbox s k x).badWords = s.badWords := rfl
@[simp] theorem setMailbox_wordErrs {k : Nat} {x : Mailbox} : (setMailbox s k x).wordErrs = s.wordErrs := rfl
@[simp] theorem setMailbox_recC {k : Nat} {x : Mailbox} : (setMailbox s k x).recC = s.recC := rfl
@[simp] theorem setMailbox_recU {k : Nat} {x : Mailbox} : (setMailbox s k x).recU = s.recU := rfl
@[simp] theorem setMailbox_recF {k : Nat} {x : Mailbox} : (setMailbox s k x).recF = s.recF := rfl
@[simp] theorem setMailbox_deadPairs {k : Nat} {x : Mailbox} : (setMailbox s k x).deadPairs = s.deadPairs := rfl
@[simp] theorem setMailbox_cAckDue {k : Nat} {x : Mailbox} : (setMailbox s k x).cAckDue = s.cAckDue := rfl
@[simp] theorem setMailbox_mpFailed {k : Nat} {x : Mailbox} : (setMailbox s k x).mpFailed = s.mpFailed := rfl
@[simp] theorem setMailbox_switchDead {k : Nat} {x : Mailbox} : (setMailbox s k x).switchDead = s.switchDead := rfl
@[simp] theorem setMailbox_pondFaults {k : Nat} {x : Mailbox} : (setMailbox s k x).pondFaults = s.pondFaults := rfl
@[simp] theorem setMailbox_lastSummary {k : Nat} {x : Mailbox} : (setMailbox s k x).lastSummary = s.lastSummary := rfl
@[simp] theorem setMailbox_holds {k : Nat} {x : Mailbox} : (setMailbox s k x).holds = s.holds := rfl
@[simp] theorem setMailbox_irqStacks {k : Nat} {x : Mailbox} : (setMailbox s k x).irqStacks = s.irqStacks := rfl
@[simp] theorem setMailbox_served {k : Nat} {x : Mailbox} : (setMailbox s k x).served = s.served := rfl
@[simp] theorem setMailbox_delivering {k : Nat} {x : Mailbox} : (setMailbox s k x).delivering = s.delivering := rfl
@[simp] theorem setMailbox_dictRefusal {k : Nat} {x : Mailbox} : (setMailbox s k x).dictRefusal = s.dictRefusal := rfl
@[simp] theorem setMailbox_replay {k : Nat} {x : Mailbox} : (setMailbox s k x).replay = s.replay := rfl
@[simp] theorem setMailbox_mslots {k : Nat} {x : Mailbox} : (setMailbox s k x).mslots = s.mslots := rfl
@[simp] theorem setMailbox_dictQ {k : Nat} {x : Mailbox} : (setMailbox s k x).dictQ = s.dictQ := rfl
@[simp] theorem setMailbox_deferred {k : Nat} {x : Mailbox} : (setMailbox s k x).deferred = s.deferred := rfl
@[simp] theorem setMailbox_relays {k : Nat} {x : Mailbox} : (setMailbox s k x).relays = s.relays := rfl
@[simp] theorem setMailbox_ports {k : Nat} {x : Mailbox} : (setMailbox s k x).ports = s.ports := rfl
@[simp] theorem setMailbox_injQ {k : Nat} {x : Mailbox} : (setMailbox s k x).injQ = s.injQ := rfl
@[simp] theorem setMailbox_stalledInj {k : Nat} {x : Mailbox} : (setMailbox s k x).stalledInj = s.stalledInj := rfl
@[simp] theorem setMailbox_bridgeQ {k : Nat} {x : Mailbox} : (setMailbox s k x).bridgeQ = s.bridgeQ := rfl
@[simp] theorem setMailbox_delivered {k : Nat} {x : Mailbox} : (setMailbox s k x).delivered = s.delivered := rfl
@[simp] theorem setMailbox_tables {k : Nat} {x : Mailbox} : (setMailbox s k x).tables = s.tables := rfl
@[simp] theorem setMailbox_aqs {k : Nat} {x : Mailbox} : (setMailbox s k x).aqs = s.aqs := rfl
@[simp] theorem setMailbox_aqQ {k : Nat} {x : Mailbox} : (setMailbox s k x).aqQ = s.aqQ := rfl
@[simp] theorem setMailbox_aqGot {k : Nat} {x : Mailbox} : (setMailbox s k x).aqGot = s.aqGot := rfl
@[simp] theorem setMailbox_aqBurst {k : Nat} {x : Mailbox} : (setMailbox s k x).aqBurst = s.aqBurst := rfl
@[simp] theorem setMailbox_aqSent {k : Nat} {x : Mailbox} : (setMailbox s k x).aqSent = s.aqSent := rfl
@[simp] theorem setMailbox_dropsSeen {k : Nat} {x : Mailbox} : (setMailbox s k x).dropsSeen = s.dropsSeen := rfl
@[simp] theorem setMailbox_tagDropSeen {k : Nat} {x : Mailbox} : (setMailbox s k x).tagDropSeen = s.tagDropSeen := rfl
@[simp] theorem setMailbox_epochStep {k : Nat} {x : Mailbox} : (setMailbox s k x).epochStep = s.epochStep := rfl
@[simp] theorem setMailbox_windows {k : Nat} {x : Mailbox} : (setMailbox s k x).windows = s.windows := rfl
@[simp] theorem setMailbox_windowFaultSeen {k : Nat} {x : Mailbox} : (setMailbox s k x).windowFaultSeen = s.windowFaultSeen := rfl
@[simp] theorem setMailbox_memErrors {k : Nat} {x : Mailbox} : (setMailbox s k x).memErrors = s.memErrors := rfl
@[simp] theorem setMailbox_senders {k : Nat} {x : Mailbox} : (setMailbox s k x).senders = s.senders := rfl
@[simp] theorem setMailbox_ledger {k : Nat} {x : Mailbox} : (setMailbox s k x).ledger = s.ledger := rfl
@[simp] theorem setMailbox_ledgerWait {k : Nat} {x : Mailbox} : (setMailbox s k x).ledgerWait = s.ledgerWait := rfl
@[simp] theorem setMailbox_lineQ {k : Nat} {x : Mailbox} : (setMailbox s k x).lineQ = s.lineQ := rfl
@[simp] theorem setMailbox_homeReqs {k : Nat} {x : Mailbox} : (setMailbox s k x).homeReqs = s.homeReqs := rfl
@[simp] theorem setMailbox_hotLines {k : Nat} {x : Mailbox} : (setMailbox s k x).hotLines = s.hotLines := rfl
@[simp] theorem setMailbox_groupLists {k : Nat} {x : Mailbox} : (setMailbox s k x).groupLists = s.groupLists := rfl
@[simp] theorem setMailbox_colls {k : Nat} {x : Mailbox} : (setMailbox s k x).colls = s.colls := rfl
@[simp] theorem setMailbox_collEnds {k : Nat} {x : Mailbox} : (setMailbox s k x).collEnds = s.collEnds := rfl
@[simp] theorem setMailbox_mcasts {k : Nat} {x : Mailbox} : (setMailbox s k x).mcasts = s.mcasts := rfl
@[simp] theorem setMailbox_mcastNext {k : Nat} {x : Mailbox} : (setMailbox s k x).mcastNext = s.mcastNext := rfl
@[simp] theorem setMailbox_heldMsgs {k : Nat} {x : Mailbox} : (setMailbox s k x).heldMsgs = s.heldMsgs := rfl
@[simp] theorem setMailbox_fencedLegs {k : Nat} {x : Mailbox} : (setMailbox s k x).fencedLegs = s.fencedLegs := rfl
@[simp] theorem setMailbox_backoffs {k : Nat} {x : Mailbox} : (setMailbox s k x).backoffs = s.backoffs := rfl
@[simp] theorem setMailbox_jobTag {k : Nat} {x : Mailbox} : (setMailbox s k x).jobTag = s.jobTag := rfl
@[simp] theorem setMailbox_starts {k : Nat} {x : Mailbox} : (setMailbox s k x).starts = s.starts := rfl
@[simp] theorem setMailbox_jobList {k : Nat} {x : Mailbox} : (setMailbox s k x).jobList = s.jobList := rfl
@[simp] theorem setMailbox_jobStep {k : Nat} {x : Mailbox} : (setMailbox s k x).jobStep = s.jobStep := rfl
@[simp] theorem setMailbox_jobMember {k : Nat} {x : Mailbox} : (setMailbox s k x).jobMember = s.jobMember := rfl
@[simp] theorem setMailbox_jobSeen {k : Nat} {x : Mailbox} : (setMailbox s k x).jobSeen = s.jobSeen := rfl
@[simp] theorem setMailbox_jobMembers {k : Nat} {x : Mailbox} : (setMailbox s k x).jobMembers = s.jobMembers := rfl
@[simp] theorem setMailbox_keystoneSilent {k : Nat} {x : Mailbox} : (setMailbox s k x).keystoneSilent = s.keystoneSilent := rfl
@[simp] theorem setMailbox_newKeystone {k : Nat} {x : Mailbox} : (setMailbox s k x).newKeystone = s.newKeystone := rfl
@[simp] theorem setMailbox_ctxs {k : Nat} {x : Mailbox} : (setMailbox s k x).ctxs = s.ctxs := rfl
@[simp] theorem setMailbox_loading {k : Nat} {x : Mailbox} : (setMailbox s k x).loading = s.loading := rfl
@[simp] theorem setMailbox_rings {k : Nat} {x : Mailbox} : (setMailbox s k x).rings = s.rings := rfl
@[simp] theorem setMailbox_posts {k : Nat} {x : Mailbox} : (setMailbox s k x).posts = s.posts := rfl
@[simp] theorem setMailbox_teardown {k : Nat} {x : Mailbox} : (setMailbox s k x).teardown = s.teardown := rfl
@[simp] theorem setMailbox_routers {k : Nat} {x : Mailbox} : (setMailbox s k x).routers = s.routers := rfl
@[simp] theorem setMailbox_toks {k : Nat} {x : Mailbox} : (setMailbox s k x).toks = s.toks := rfl
@[simp] theorem setMailbox_confs {k : Nat} {x : Mailbox} : (setMailbox s k x).confs = s.confs := rfl
@[simp] theorem setMailbox_gens {k : Nat} {x : Mailbox} : (setMailbox s k x).gens = s.gens := rfl
@[simp] theorem setMailbox_cancels {k : Nat} {x : Mailbox} : (setMailbox s k x).cancels = s.cancels := rfl
@[simp] theorem setMailbox_notIntact {k : Nat} {x : Mailbox} : (setMailbox s k x).notIntact = s.notIntact := rfl
@[simp] theorem setMailbox_bundles {k : Nat} {x : Mailbox} : (setMailbox s k x).bundles = s.bundles := rfl
@[simp] theorem setMailbox_barriers {k : Nat} {x : Mailbox} : (setMailbox s k x).barriers = s.barriers := rfl
@[simp] theorem setMailbox_claims {k : Nat} {x : Mailbox} : (setMailbox s k x).claims = s.claims := rfl
@[simp] theorem setMailbox_admitted {k : Nat} {x : Mailbox} : (setMailbox s k x).admitted = s.admitted := rfl
@[simp] theorem setMailbox_slots {k : Nat} {x : Mailbox} : (setMailbox s k x).slots = s.slots := rfl
@[simp] theorem setMailbox_runs {k : Nat} {x : Mailbox} : (setMailbox s k x).runs = s.runs := rfl
@[simp] theorem setMailbox_qTails {k : Nat} {x : Mailbox} : (setMailbox s k x).qTails = s.qTails := rfl
@[simp] theorem setMailbox_pupdates {k : Nat} {x : Mailbox} : (setMailbox s k x).pupdates = s.pupdates := rfl
@[simp] theorem setMailbox_blocksReading {k : Nat} {x : Mailbox} : (setMailbox s k x).blocksReading = s.blocksReading := rfl
@[simp] theorem setMailbox_fetchQ {k : Nat} {x : Mailbox} : (setMailbox s k x).fetchQ = s.fetchQ := rfl
@[simp] theorem setMailbox_fetchHeld {k : Nat} {x : Mailbox} : (setMailbox s k x).fetchHeld = s.fetchHeld := rfl
@[simp] theorem setMailbox_fills {k : Nat} {x : Mailbox} : (setMailbox s k x).fills = s.fills := rfl
@[simp] theorem setMailbox_wins {k : Nat} {x : Mailbox} : (setMailbox s k x).wins = s.wins := rfl
@[simp] theorem setMailbox_writebacks {k : Nat} {x : Mailbox} : (setMailbox s k x).writebacks = s.writebacks := rfl
@[simp] theorem setMailbox_kvWaits {k : Nat} {x : Mailbox} : (setMailbox s k x).kvWaits = s.kvWaits := rfl
@[simp] theorem setMailbox_stones {k : Nat} {x : Mailbox} : (setMailbox s k x).stones = s.stones := rfl
@[simp] theorem setMailbox_arrays {k : Nat} {x : Mailbox} : (setMailbox s k x).arrays = s.arrays := rfl
@[simp] theorem setMailbox_dmas {k : Nat} {x : Mailbox} : (setMailbox s k x).dmas = s.dmas := rfl
@[simp] theorem setMailbox_dmaLast {k : Nat} {x : Mailbox} : (setMailbox s k x).dmaLast = s.dmaLast := rfl
@[simp] theorem setMailbox_pools {k : Nat} {x : Mailbox} : (setMailbox s k x).pools = s.pools := rfl
@[simp] theorem setMailbox_umora {k : Nat} {x : Mailbox} : (setMailbox s k x).umora = s.umora := rfl
@[simp] theorem setMailbox_clock {k : Nat} {x : Mailbox} : (setMailbox s k x).clock = s.clock := rfl
@[simp] theorem setMailbox_power {k : Nat} {x : Mailbox} : (setMailbox s k x).power = s.power := rfl
@[simp] theorem setMailbox_sec {k : Nat} {x : Mailbox} : (setMailbox s k x).sec = s.sec := rfl

/-! ### setSender -/

@[simp] theorem setSender_pending {k : Nat} {x : Sender} : (setSender s k x).pending = s.pending := rfl
@[simp] theorem setSender_nonce {k : Nat} {x : Sender} : (setSender s k x).nonce = s.nonce := rfl
@[simp] theorem setSender_resetLow {k : Nat} {x : Sender} : (setSender s k x).resetLow = s.resetLow := rfl
@[simp] theorem setSender_trayId {k : Nat} {x : Sender} : (setSender s k x).trayId = s.trayId := rfl
@[simp] theorem setSender_fuses {k : Nat} {x : Sender} : (setSender s k x).fuses = s.fuses := rfl
@[simp] theorem setSender_mode {k : Nat} {x : Sender} : (setSender s k x).mode = s.mode := rfl
@[simp] theorem setSender_ent {k : Nat} {x : Sender} : (setSender s k x).ent = s.ent := rfl
@[simp] theorem setSender_out {k : Nat} {x : Sender} : (setSender s k x).out = s.out := rfl
@[simp] theorem setSender_mem {k : Nat} {x : Sender} : (setSender s k x).mem = s.mem := rfl
@[simp] theorem setSender_sram {k : Nat} {x : Sender} : (setSender s k x).sram = s.sram := rfl
@[simp] theorem setSender_slotMem {k : Nat} {x : Sender} : (setSender s k x).slotMem = s.slotMem := rfl
@[simp] theorem setSender_fenced {k : Nat} {x : Sender} : (setSender s k x).fenced = s.fenced := rfl
@[simp] theorem setSender_badWords {k : Nat} {x : Sender} : (setSender s k x).badWords = s.badWords := rfl
@[simp] theorem setSender_wordErrs {k : Nat} {x : Sender} : (setSender s k x).wordErrs = s.wordErrs := rfl
@[simp] theorem setSender_recC {k : Nat} {x : Sender} : (setSender s k x).recC = s.recC := rfl
@[simp] theorem setSender_recU {k : Nat} {x : Sender} : (setSender s k x).recU = s.recU := rfl
@[simp] theorem setSender_recF {k : Nat} {x : Sender} : (setSender s k x).recF = s.recF := rfl
@[simp] theorem setSender_deadPairs {k : Nat} {x : Sender} : (setSender s k x).deadPairs = s.deadPairs := rfl
@[simp] theorem setSender_cAckDue {k : Nat} {x : Sender} : (setSender s k x).cAckDue = s.cAckDue := rfl
@[simp] theorem setSender_mpFailed {k : Nat} {x : Sender} : (setSender s k x).mpFailed = s.mpFailed := rfl
@[simp] theorem setSender_switchDead {k : Nat} {x : Sender} : (setSender s k x).switchDead = s.switchDead := rfl
@[simp] theorem setSender_pondFaults {k : Nat} {x : Sender} : (setSender s k x).pondFaults = s.pondFaults := rfl
@[simp] theorem setSender_lastSummary {k : Nat} {x : Sender} : (setSender s k x).lastSummary = s.lastSummary := rfl
@[simp] theorem setSender_holds {k : Nat} {x : Sender} : (setSender s k x).holds = s.holds := rfl
@[simp] theorem setSender_irqStacks {k : Nat} {x : Sender} : (setSender s k x).irqStacks = s.irqStacks := rfl
@[simp] theorem setSender_served {k : Nat} {x : Sender} : (setSender s k x).served = s.served := rfl
@[simp] theorem setSender_delivering {k : Nat} {x : Sender} : (setSender s k x).delivering = s.delivering := rfl
@[simp] theorem setSender_dictRefusal {k : Nat} {x : Sender} : (setSender s k x).dictRefusal = s.dictRefusal := rfl
@[simp] theorem setSender_replay {k : Nat} {x : Sender} : (setSender s k x).replay = s.replay := rfl
@[simp] theorem setSender_mslots {k : Nat} {x : Sender} : (setSender s k x).mslots = s.mslots := rfl
@[simp] theorem setSender_dictQ {k : Nat} {x : Sender} : (setSender s k x).dictQ = s.dictQ := rfl
@[simp] theorem setSender_deferred {k : Nat} {x : Sender} : (setSender s k x).deferred = s.deferred := rfl
@[simp] theorem setSender_relays {k : Nat} {x : Sender} : (setSender s k x).relays = s.relays := rfl
@[simp] theorem setSender_ports {k : Nat} {x : Sender} : (setSender s k x).ports = s.ports := rfl
@[simp] theorem setSender_injQ {k : Nat} {x : Sender} : (setSender s k x).injQ = s.injQ := rfl
@[simp] theorem setSender_stalledInj {k : Nat} {x : Sender} : (setSender s k x).stalledInj = s.stalledInj := rfl
@[simp] theorem setSender_bridgeQ {k : Nat} {x : Sender} : (setSender s k x).bridgeQ = s.bridgeQ := rfl
@[simp] theorem setSender_delivered {k : Nat} {x : Sender} : (setSender s k x).delivered = s.delivered := rfl
@[simp] theorem setSender_tables {k : Nat} {x : Sender} : (setSender s k x).tables = s.tables := rfl
@[simp] theorem setSender_aqs {k : Nat} {x : Sender} : (setSender s k x).aqs = s.aqs := rfl
@[simp] theorem setSender_aqQ {k : Nat} {x : Sender} : (setSender s k x).aqQ = s.aqQ := rfl
@[simp] theorem setSender_aqGot {k : Nat} {x : Sender} : (setSender s k x).aqGot = s.aqGot := rfl
@[simp] theorem setSender_aqBurst {k : Nat} {x : Sender} : (setSender s k x).aqBurst = s.aqBurst := rfl
@[simp] theorem setSender_aqSent {k : Nat} {x : Sender} : (setSender s k x).aqSent = s.aqSent := rfl
@[simp] theorem setSender_dropsSeen {k : Nat} {x : Sender} : (setSender s k x).dropsSeen = s.dropsSeen := rfl
@[simp] theorem setSender_tagDropSeen {k : Nat} {x : Sender} : (setSender s k x).tagDropSeen = s.tagDropSeen := rfl
@[simp] theorem setSender_epochStep {k : Nat} {x : Sender} : (setSender s k x).epochStep = s.epochStep := rfl
@[simp] theorem setSender_windows {k : Nat} {x : Sender} : (setSender s k x).windows = s.windows := rfl
@[simp] theorem setSender_windowFaultSeen {k : Nat} {x : Sender} : (setSender s k x).windowFaultSeen = s.windowFaultSeen := rfl
@[simp] theorem setSender_memErrors {k : Nat} {x : Sender} : (setSender s k x).memErrors = s.memErrors := rfl
@[simp] theorem setSender_ledger {k : Nat} {x : Sender} : (setSender s k x).ledger = s.ledger := rfl
@[simp] theorem setSender_ledgerWait {k : Nat} {x : Sender} : (setSender s k x).ledgerWait = s.ledgerWait := rfl
@[simp] theorem setSender_lineQ {k : Nat} {x : Sender} : (setSender s k x).lineQ = s.lineQ := rfl
@[simp] theorem setSender_homeReqs {k : Nat} {x : Sender} : (setSender s k x).homeReqs = s.homeReqs := rfl
@[simp] theorem setSender_hotLines {k : Nat} {x : Sender} : (setSender s k x).hotLines = s.hotLines := rfl
@[simp] theorem setSender_groupLists {k : Nat} {x : Sender} : (setSender s k x).groupLists = s.groupLists := rfl
@[simp] theorem setSender_colls {k : Nat} {x : Sender} : (setSender s k x).colls = s.colls := rfl
@[simp] theorem setSender_collEnds {k : Nat} {x : Sender} : (setSender s k x).collEnds = s.collEnds := rfl
@[simp] theorem setSender_mcasts {k : Nat} {x : Sender} : (setSender s k x).mcasts = s.mcasts := rfl
@[simp] theorem setSender_mcastNext {k : Nat} {x : Sender} : (setSender s k x).mcastNext = s.mcastNext := rfl
@[simp] theorem setSender_heldMsgs {k : Nat} {x : Sender} : (setSender s k x).heldMsgs = s.heldMsgs := rfl
@[simp] theorem setSender_fencedLegs {k : Nat} {x : Sender} : (setSender s k x).fencedLegs = s.fencedLegs := rfl
@[simp] theorem setSender_backoffs {k : Nat} {x : Sender} : (setSender s k x).backoffs = s.backoffs := rfl
@[simp] theorem setSender_jobTag {k : Nat} {x : Sender} : (setSender s k x).jobTag = s.jobTag := rfl
@[simp] theorem setSender_starts {k : Nat} {x : Sender} : (setSender s k x).starts = s.starts := rfl
@[simp] theorem setSender_jobList {k : Nat} {x : Sender} : (setSender s k x).jobList = s.jobList := rfl
@[simp] theorem setSender_jobStep {k : Nat} {x : Sender} : (setSender s k x).jobStep = s.jobStep := rfl
@[simp] theorem setSender_jobMember {k : Nat} {x : Sender} : (setSender s k x).jobMember = s.jobMember := rfl
@[simp] theorem setSender_jobSeen {k : Nat} {x : Sender} : (setSender s k x).jobSeen = s.jobSeen := rfl
@[simp] theorem setSender_jobMembers {k : Nat} {x : Sender} : (setSender s k x).jobMembers = s.jobMembers := rfl
@[simp] theorem setSender_keystoneSilent {k : Nat} {x : Sender} : (setSender s k x).keystoneSilent = s.keystoneSilent := rfl
@[simp] theorem setSender_newKeystone {k : Nat} {x : Sender} : (setSender s k x).newKeystone = s.newKeystone := rfl
@[simp] theorem setSender_ctxs {k : Nat} {x : Sender} : (setSender s k x).ctxs = s.ctxs := rfl
@[simp] theorem setSender_loading {k : Nat} {x : Sender} : (setSender s k x).loading = s.loading := rfl
@[simp] theorem setSender_rings {k : Nat} {x : Sender} : (setSender s k x).rings = s.rings := rfl
@[simp] theorem setSender_mailboxes {k : Nat} {x : Sender} : (setSender s k x).mailboxes = s.mailboxes := rfl
@[simp] theorem setSender_posts {k : Nat} {x : Sender} : (setSender s k x).posts = s.posts := rfl
@[simp] theorem setSender_teardown {k : Nat} {x : Sender} : (setSender s k x).teardown = s.teardown := rfl
@[simp] theorem setSender_routers {k : Nat} {x : Sender} : (setSender s k x).routers = s.routers := rfl
@[simp] theorem setSender_toks {k : Nat} {x : Sender} : (setSender s k x).toks = s.toks := rfl
@[simp] theorem setSender_confs {k : Nat} {x : Sender} : (setSender s k x).confs = s.confs := rfl
@[simp] theorem setSender_gens {k : Nat} {x : Sender} : (setSender s k x).gens = s.gens := rfl
@[simp] theorem setSender_cancels {k : Nat} {x : Sender} : (setSender s k x).cancels = s.cancels := rfl
@[simp] theorem setSender_notIntact {k : Nat} {x : Sender} : (setSender s k x).notIntact = s.notIntact := rfl
@[simp] theorem setSender_bundles {k : Nat} {x : Sender} : (setSender s k x).bundles = s.bundles := rfl
@[simp] theorem setSender_barriers {k : Nat} {x : Sender} : (setSender s k x).barriers = s.barriers := rfl
@[simp] theorem setSender_claims {k : Nat} {x : Sender} : (setSender s k x).claims = s.claims := rfl
@[simp] theorem setSender_admitted {k : Nat} {x : Sender} : (setSender s k x).admitted = s.admitted := rfl
@[simp] theorem setSender_slots {k : Nat} {x : Sender} : (setSender s k x).slots = s.slots := rfl
@[simp] theorem setSender_runs {k : Nat} {x : Sender} : (setSender s k x).runs = s.runs := rfl
@[simp] theorem setSender_qTails {k : Nat} {x : Sender} : (setSender s k x).qTails = s.qTails := rfl
@[simp] theorem setSender_pupdates {k : Nat} {x : Sender} : (setSender s k x).pupdates = s.pupdates := rfl
@[simp] theorem setSender_blocksReading {k : Nat} {x : Sender} : (setSender s k x).blocksReading = s.blocksReading := rfl
@[simp] theorem setSender_fetchQ {k : Nat} {x : Sender} : (setSender s k x).fetchQ = s.fetchQ := rfl
@[simp] theorem setSender_fetchHeld {k : Nat} {x : Sender} : (setSender s k x).fetchHeld = s.fetchHeld := rfl
@[simp] theorem setSender_fills {k : Nat} {x : Sender} : (setSender s k x).fills = s.fills := rfl
@[simp] theorem setSender_wins {k : Nat} {x : Sender} : (setSender s k x).wins = s.wins := rfl
@[simp] theorem setSender_writebacks {k : Nat} {x : Sender} : (setSender s k x).writebacks = s.writebacks := rfl
@[simp] theorem setSender_kvWaits {k : Nat} {x : Sender} : (setSender s k x).kvWaits = s.kvWaits := rfl
@[simp] theorem setSender_stones {k : Nat} {x : Sender} : (setSender s k x).stones = s.stones := rfl
@[simp] theorem setSender_arrays {k : Nat} {x : Sender} : (setSender s k x).arrays = s.arrays := rfl
@[simp] theorem setSender_dmas {k : Nat} {x : Sender} : (setSender s k x).dmas = s.dmas := rfl
@[simp] theorem setSender_dmaLast {k : Nat} {x : Sender} : (setSender s k x).dmaLast = s.dmaLast := rfl
@[simp] theorem setSender_pools {k : Nat} {x : Sender} : (setSender s k x).pools = s.pools := rfl
@[simp] theorem setSender_umora {k : Nat} {x : Sender} : (setSender s k x).umora = s.umora := rfl
@[simp] theorem setSender_clock {k : Nat} {x : Sender} : (setSender s k x).clock = s.clock := rfl
@[simp] theorem setSender_power {k : Nat} {x : Sender} : (setSender s k x).power = s.power := rfl
@[simp] theorem setSender_sec {k : Nat} {x : Sender} : (setSender s k x).sec = s.sec := rfl

/-! ### setWin -/

@[simp] theorem setWin_pending {k : Nat} {x : Win} : (setWin s k x).pending = s.pending := rfl
@[simp] theorem setWin_nonce {k : Nat} {x : Win} : (setWin s k x).nonce = s.nonce := rfl
@[simp] theorem setWin_resetLow {k : Nat} {x : Win} : (setWin s k x).resetLow = s.resetLow := rfl
@[simp] theorem setWin_trayId {k : Nat} {x : Win} : (setWin s k x).trayId = s.trayId := rfl
@[simp] theorem setWin_fuses {k : Nat} {x : Win} : (setWin s k x).fuses = s.fuses := rfl
@[simp] theorem setWin_mode {k : Nat} {x : Win} : (setWin s k x).mode = s.mode := rfl
@[simp] theorem setWin_ent {k : Nat} {x : Win} : (setWin s k x).ent = s.ent := rfl
@[simp] theorem setWin_out {k : Nat} {x : Win} : (setWin s k x).out = s.out := rfl
@[simp] theorem setWin_mem {k : Nat} {x : Win} : (setWin s k x).mem = s.mem := rfl
@[simp] theorem setWin_sram {k : Nat} {x : Win} : (setWin s k x).sram = s.sram := rfl
@[simp] theorem setWin_slotMem {k : Nat} {x : Win} : (setWin s k x).slotMem = s.slotMem := rfl
@[simp] theorem setWin_fenced {k : Nat} {x : Win} : (setWin s k x).fenced = s.fenced := rfl
@[simp] theorem setWin_badWords {k : Nat} {x : Win} : (setWin s k x).badWords = s.badWords := rfl
@[simp] theorem setWin_wordErrs {k : Nat} {x : Win} : (setWin s k x).wordErrs = s.wordErrs := rfl
@[simp] theorem setWin_recC {k : Nat} {x : Win} : (setWin s k x).recC = s.recC := rfl
@[simp] theorem setWin_recU {k : Nat} {x : Win} : (setWin s k x).recU = s.recU := rfl
@[simp] theorem setWin_recF {k : Nat} {x : Win} : (setWin s k x).recF = s.recF := rfl
@[simp] theorem setWin_deadPairs {k : Nat} {x : Win} : (setWin s k x).deadPairs = s.deadPairs := rfl
@[simp] theorem setWin_cAckDue {k : Nat} {x : Win} : (setWin s k x).cAckDue = s.cAckDue := rfl
@[simp] theorem setWin_mpFailed {k : Nat} {x : Win} : (setWin s k x).mpFailed = s.mpFailed := rfl
@[simp] theorem setWin_switchDead {k : Nat} {x : Win} : (setWin s k x).switchDead = s.switchDead := rfl
@[simp] theorem setWin_pondFaults {k : Nat} {x : Win} : (setWin s k x).pondFaults = s.pondFaults := rfl
@[simp] theorem setWin_lastSummary {k : Nat} {x : Win} : (setWin s k x).lastSummary = s.lastSummary := rfl
@[simp] theorem setWin_holds {k : Nat} {x : Win} : (setWin s k x).holds = s.holds := rfl
@[simp] theorem setWin_irqStacks {k : Nat} {x : Win} : (setWin s k x).irqStacks = s.irqStacks := rfl
@[simp] theorem setWin_served {k : Nat} {x : Win} : (setWin s k x).served = s.served := rfl
@[simp] theorem setWin_delivering {k : Nat} {x : Win} : (setWin s k x).delivering = s.delivering := rfl
@[simp] theorem setWin_dictRefusal {k : Nat} {x : Win} : (setWin s k x).dictRefusal = s.dictRefusal := rfl
@[simp] theorem setWin_replay {k : Nat} {x : Win} : (setWin s k x).replay = s.replay := rfl
@[simp] theorem setWin_mslots {k : Nat} {x : Win} : (setWin s k x).mslots = s.mslots := rfl
@[simp] theorem setWin_dictQ {k : Nat} {x : Win} : (setWin s k x).dictQ = s.dictQ := rfl
@[simp] theorem setWin_deferred {k : Nat} {x : Win} : (setWin s k x).deferred = s.deferred := rfl
@[simp] theorem setWin_relays {k : Nat} {x : Win} : (setWin s k x).relays = s.relays := rfl
@[simp] theorem setWin_ports {k : Nat} {x : Win} : (setWin s k x).ports = s.ports := rfl
@[simp] theorem setWin_injQ {k : Nat} {x : Win} : (setWin s k x).injQ = s.injQ := rfl
@[simp] theorem setWin_stalledInj {k : Nat} {x : Win} : (setWin s k x).stalledInj = s.stalledInj := rfl
@[simp] theorem setWin_bridgeQ {k : Nat} {x : Win} : (setWin s k x).bridgeQ = s.bridgeQ := rfl
@[simp] theorem setWin_delivered {k : Nat} {x : Win} : (setWin s k x).delivered = s.delivered := rfl
@[simp] theorem setWin_tables {k : Nat} {x : Win} : (setWin s k x).tables = s.tables := rfl
@[simp] theorem setWin_aqs {k : Nat} {x : Win} : (setWin s k x).aqs = s.aqs := rfl
@[simp] theorem setWin_aqQ {k : Nat} {x : Win} : (setWin s k x).aqQ = s.aqQ := rfl
@[simp] theorem setWin_aqGot {k : Nat} {x : Win} : (setWin s k x).aqGot = s.aqGot := rfl
@[simp] theorem setWin_aqBurst {k : Nat} {x : Win} : (setWin s k x).aqBurst = s.aqBurst := rfl
@[simp] theorem setWin_aqSent {k : Nat} {x : Win} : (setWin s k x).aqSent = s.aqSent := rfl
@[simp] theorem setWin_dropsSeen {k : Nat} {x : Win} : (setWin s k x).dropsSeen = s.dropsSeen := rfl
@[simp] theorem setWin_tagDropSeen {k : Nat} {x : Win} : (setWin s k x).tagDropSeen = s.tagDropSeen := rfl
@[simp] theorem setWin_epochStep {k : Nat} {x : Win} : (setWin s k x).epochStep = s.epochStep := rfl
@[simp] theorem setWin_windows {k : Nat} {x : Win} : (setWin s k x).windows = s.windows := rfl
@[simp] theorem setWin_windowFaultSeen {k : Nat} {x : Win} : (setWin s k x).windowFaultSeen = s.windowFaultSeen := rfl
@[simp] theorem setWin_memErrors {k : Nat} {x : Win} : (setWin s k x).memErrors = s.memErrors := rfl
@[simp] theorem setWin_senders {k : Nat} {x : Win} : (setWin s k x).senders = s.senders := rfl
@[simp] theorem setWin_ledger {k : Nat} {x : Win} : (setWin s k x).ledger = s.ledger := rfl
@[simp] theorem setWin_ledgerWait {k : Nat} {x : Win} : (setWin s k x).ledgerWait = s.ledgerWait := rfl
@[simp] theorem setWin_lineQ {k : Nat} {x : Win} : (setWin s k x).lineQ = s.lineQ := rfl
@[simp] theorem setWin_homeReqs {k : Nat} {x : Win} : (setWin s k x).homeReqs = s.homeReqs := rfl
@[simp] theorem setWin_hotLines {k : Nat} {x : Win} : (setWin s k x).hotLines = s.hotLines := rfl
@[simp] theorem setWin_groupLists {k : Nat} {x : Win} : (setWin s k x).groupLists = s.groupLists := rfl
@[simp] theorem setWin_colls {k : Nat} {x : Win} : (setWin s k x).colls = s.colls := rfl
@[simp] theorem setWin_collEnds {k : Nat} {x : Win} : (setWin s k x).collEnds = s.collEnds := rfl
@[simp] theorem setWin_mcasts {k : Nat} {x : Win} : (setWin s k x).mcasts = s.mcasts := rfl
@[simp] theorem setWin_mcastNext {k : Nat} {x : Win} : (setWin s k x).mcastNext = s.mcastNext := rfl
@[simp] theorem setWin_heldMsgs {k : Nat} {x : Win} : (setWin s k x).heldMsgs = s.heldMsgs := rfl
@[simp] theorem setWin_fencedLegs {k : Nat} {x : Win} : (setWin s k x).fencedLegs = s.fencedLegs := rfl
@[simp] theorem setWin_backoffs {k : Nat} {x : Win} : (setWin s k x).backoffs = s.backoffs := rfl
@[simp] theorem setWin_jobTag {k : Nat} {x : Win} : (setWin s k x).jobTag = s.jobTag := rfl
@[simp] theorem setWin_starts {k : Nat} {x : Win} : (setWin s k x).starts = s.starts := rfl
@[simp] theorem setWin_jobList {k : Nat} {x : Win} : (setWin s k x).jobList = s.jobList := rfl
@[simp] theorem setWin_jobStep {k : Nat} {x : Win} : (setWin s k x).jobStep = s.jobStep := rfl
@[simp] theorem setWin_jobMember {k : Nat} {x : Win} : (setWin s k x).jobMember = s.jobMember := rfl
@[simp] theorem setWin_jobSeen {k : Nat} {x : Win} : (setWin s k x).jobSeen = s.jobSeen := rfl
@[simp] theorem setWin_jobMembers {k : Nat} {x : Win} : (setWin s k x).jobMembers = s.jobMembers := rfl
@[simp] theorem setWin_keystoneSilent {k : Nat} {x : Win} : (setWin s k x).keystoneSilent = s.keystoneSilent := rfl
@[simp] theorem setWin_newKeystone {k : Nat} {x : Win} : (setWin s k x).newKeystone = s.newKeystone := rfl
@[simp] theorem setWin_ctxs {k : Nat} {x : Win} : (setWin s k x).ctxs = s.ctxs := rfl
@[simp] theorem setWin_loading {k : Nat} {x : Win} : (setWin s k x).loading = s.loading := rfl
@[simp] theorem setWin_rings {k : Nat} {x : Win} : (setWin s k x).rings = s.rings := rfl
@[simp] theorem setWin_mailboxes {k : Nat} {x : Win} : (setWin s k x).mailboxes = s.mailboxes := rfl
@[simp] theorem setWin_posts {k : Nat} {x : Win} : (setWin s k x).posts = s.posts := rfl
@[simp] theorem setWin_teardown {k : Nat} {x : Win} : (setWin s k x).teardown = s.teardown := rfl
@[simp] theorem setWin_routers {k : Nat} {x : Win} : (setWin s k x).routers = s.routers := rfl
@[simp] theorem setWin_toks {k : Nat} {x : Win} : (setWin s k x).toks = s.toks := rfl
@[simp] theorem setWin_confs {k : Nat} {x : Win} : (setWin s k x).confs = s.confs := rfl
@[simp] theorem setWin_gens {k : Nat} {x : Win} : (setWin s k x).gens = s.gens := rfl
@[simp] theorem setWin_cancels {k : Nat} {x : Win} : (setWin s k x).cancels = s.cancels := rfl
@[simp] theorem setWin_notIntact {k : Nat} {x : Win} : (setWin s k x).notIntact = s.notIntact := rfl
@[simp] theorem setWin_bundles {k : Nat} {x : Win} : (setWin s k x).bundles = s.bundles := rfl
@[simp] theorem setWin_barriers {k : Nat} {x : Win} : (setWin s k x).barriers = s.barriers := rfl
@[simp] theorem setWin_claims {k : Nat} {x : Win} : (setWin s k x).claims = s.claims := rfl
@[simp] theorem setWin_admitted {k : Nat} {x : Win} : (setWin s k x).admitted = s.admitted := rfl
@[simp] theorem setWin_slots {k : Nat} {x : Win} : (setWin s k x).slots = s.slots := rfl
@[simp] theorem setWin_runs {k : Nat} {x : Win} : (setWin s k x).runs = s.runs := rfl
@[simp] theorem setWin_qTails {k : Nat} {x : Win} : (setWin s k x).qTails = s.qTails := rfl
@[simp] theorem setWin_pupdates {k : Nat} {x : Win} : (setWin s k x).pupdates = s.pupdates := rfl
@[simp] theorem setWin_blocksReading {k : Nat} {x : Win} : (setWin s k x).blocksReading = s.blocksReading := rfl
@[simp] theorem setWin_fetchQ {k : Nat} {x : Win} : (setWin s k x).fetchQ = s.fetchQ := rfl
@[simp] theorem setWin_fetchHeld {k : Nat} {x : Win} : (setWin s k x).fetchHeld = s.fetchHeld := rfl
@[simp] theorem setWin_fills {k : Nat} {x : Win} : (setWin s k x).fills = s.fills := rfl
@[simp] theorem setWin_writebacks {k : Nat} {x : Win} : (setWin s k x).writebacks = s.writebacks := rfl
@[simp] theorem setWin_kvWaits {k : Nat} {x : Win} : (setWin s k x).kvWaits = s.kvWaits := rfl
@[simp] theorem setWin_stones {k : Nat} {x : Win} : (setWin s k x).stones = s.stones := rfl
@[simp] theorem setWin_arrays {k : Nat} {x : Win} : (setWin s k x).arrays = s.arrays := rfl
@[simp] theorem setWin_dmas {k : Nat} {x : Win} : (setWin s k x).dmas = s.dmas := rfl
@[simp] theorem setWin_dmaLast {k : Nat} {x : Win} : (setWin s k x).dmaLast = s.dmaLast := rfl
@[simp] theorem setWin_pools {k : Nat} {x : Win} : (setWin s k x).pools = s.pools := rfl
@[simp] theorem setWin_umora {k : Nat} {x : Win} : (setWin s k x).umora = s.umora := rfl
@[simp] theorem setWin_clock {k : Nat} {x : Win} : (setWin s k x).clock = s.clock := rfl
@[simp] theorem setWin_power {k : Nat} {x : Win} : (setWin s k x).power = s.power := rfl
@[simp] theorem setWin_sec {k : Nat} {x : Win} : (setWin s k x).sec = s.sec := rfl

/-! ### setSlot -/

@[simp] theorem setSlot_pending {k : Nat} {x : MSlot} : (setSlot s k x).pending = s.pending := rfl
@[simp] theorem setSlot_nonce {k : Nat} {x : MSlot} : (setSlot s k x).nonce = s.nonce := rfl
@[simp] theorem setSlot_resetLow {k : Nat} {x : MSlot} : (setSlot s k x).resetLow = s.resetLow := rfl
@[simp] theorem setSlot_trayId {k : Nat} {x : MSlot} : (setSlot s k x).trayId = s.trayId := rfl
@[simp] theorem setSlot_fuses {k : Nat} {x : MSlot} : (setSlot s k x).fuses = s.fuses := rfl
@[simp] theorem setSlot_mode {k : Nat} {x : MSlot} : (setSlot s k x).mode = s.mode := rfl
@[simp] theorem setSlot_ent {k : Nat} {x : MSlot} : (setSlot s k x).ent = s.ent := rfl
@[simp] theorem setSlot_out {k : Nat} {x : MSlot} : (setSlot s k x).out = s.out := rfl
@[simp] theorem setSlot_mem {k : Nat} {x : MSlot} : (setSlot s k x).mem = s.mem := rfl
@[simp] theorem setSlot_sram {k : Nat} {x : MSlot} : (setSlot s k x).sram = s.sram := rfl
@[simp] theorem setSlot_slotMem {k : Nat} {x : MSlot} : (setSlot s k x).slotMem = s.slotMem := rfl
@[simp] theorem setSlot_fenced {k : Nat} {x : MSlot} : (setSlot s k x).fenced = s.fenced := rfl
@[simp] theorem setSlot_badWords {k : Nat} {x : MSlot} : (setSlot s k x).badWords = s.badWords := rfl
@[simp] theorem setSlot_wordErrs {k : Nat} {x : MSlot} : (setSlot s k x).wordErrs = s.wordErrs := rfl
@[simp] theorem setSlot_recC {k : Nat} {x : MSlot} : (setSlot s k x).recC = s.recC := rfl
@[simp] theorem setSlot_recU {k : Nat} {x : MSlot} : (setSlot s k x).recU = s.recU := rfl
@[simp] theorem setSlot_recF {k : Nat} {x : MSlot} : (setSlot s k x).recF = s.recF := rfl
@[simp] theorem setSlot_deadPairs {k : Nat} {x : MSlot} : (setSlot s k x).deadPairs = s.deadPairs := rfl
@[simp] theorem setSlot_cAckDue {k : Nat} {x : MSlot} : (setSlot s k x).cAckDue = s.cAckDue := rfl
@[simp] theorem setSlot_mpFailed {k : Nat} {x : MSlot} : (setSlot s k x).mpFailed = s.mpFailed := rfl
@[simp] theorem setSlot_switchDead {k : Nat} {x : MSlot} : (setSlot s k x).switchDead = s.switchDead := rfl
@[simp] theorem setSlot_pondFaults {k : Nat} {x : MSlot} : (setSlot s k x).pondFaults = s.pondFaults := rfl
@[simp] theorem setSlot_lastSummary {k : Nat} {x : MSlot} : (setSlot s k x).lastSummary = s.lastSummary := rfl
@[simp] theorem setSlot_holds {k : Nat} {x : MSlot} : (setSlot s k x).holds = s.holds := rfl
@[simp] theorem setSlot_irqStacks {k : Nat} {x : MSlot} : (setSlot s k x).irqStacks = s.irqStacks := rfl
@[simp] theorem setSlot_served {k : Nat} {x : MSlot} : (setSlot s k x).served = s.served := rfl
@[simp] theorem setSlot_delivering {k : Nat} {x : MSlot} : (setSlot s k x).delivering = s.delivering := rfl
@[simp] theorem setSlot_dictRefusal {k : Nat} {x : MSlot} : (setSlot s k x).dictRefusal = s.dictRefusal := rfl
@[simp] theorem setSlot_replay {k : Nat} {x : MSlot} : (setSlot s k x).replay = s.replay := rfl
@[simp] theorem setSlot_dictQ {k : Nat} {x : MSlot} : (setSlot s k x).dictQ = s.dictQ := rfl
@[simp] theorem setSlot_deferred {k : Nat} {x : MSlot} : (setSlot s k x).deferred = s.deferred := rfl
@[simp] theorem setSlot_relays {k : Nat} {x : MSlot} : (setSlot s k x).relays = s.relays := rfl
@[simp] theorem setSlot_ports {k : Nat} {x : MSlot} : (setSlot s k x).ports = s.ports := rfl
@[simp] theorem setSlot_injQ {k : Nat} {x : MSlot} : (setSlot s k x).injQ = s.injQ := rfl
@[simp] theorem setSlot_stalledInj {k : Nat} {x : MSlot} : (setSlot s k x).stalledInj = s.stalledInj := rfl
@[simp] theorem setSlot_bridgeQ {k : Nat} {x : MSlot} : (setSlot s k x).bridgeQ = s.bridgeQ := rfl
@[simp] theorem setSlot_delivered {k : Nat} {x : MSlot} : (setSlot s k x).delivered = s.delivered := rfl
@[simp] theorem setSlot_tables {k : Nat} {x : MSlot} : (setSlot s k x).tables = s.tables := rfl
@[simp] theorem setSlot_aqs {k : Nat} {x : MSlot} : (setSlot s k x).aqs = s.aqs := rfl
@[simp] theorem setSlot_aqQ {k : Nat} {x : MSlot} : (setSlot s k x).aqQ = s.aqQ := rfl
@[simp] theorem setSlot_aqGot {k : Nat} {x : MSlot} : (setSlot s k x).aqGot = s.aqGot := rfl
@[simp] theorem setSlot_aqBurst {k : Nat} {x : MSlot} : (setSlot s k x).aqBurst = s.aqBurst := rfl
@[simp] theorem setSlot_aqSent {k : Nat} {x : MSlot} : (setSlot s k x).aqSent = s.aqSent := rfl
@[simp] theorem setSlot_dropsSeen {k : Nat} {x : MSlot} : (setSlot s k x).dropsSeen = s.dropsSeen := rfl
@[simp] theorem setSlot_tagDropSeen {k : Nat} {x : MSlot} : (setSlot s k x).tagDropSeen = s.tagDropSeen := rfl
@[simp] theorem setSlot_epochStep {k : Nat} {x : MSlot} : (setSlot s k x).epochStep = s.epochStep := rfl
@[simp] theorem setSlot_windows {k : Nat} {x : MSlot} : (setSlot s k x).windows = s.windows := rfl
@[simp] theorem setSlot_windowFaultSeen {k : Nat} {x : MSlot} : (setSlot s k x).windowFaultSeen = s.windowFaultSeen := rfl
@[simp] theorem setSlot_memErrors {k : Nat} {x : MSlot} : (setSlot s k x).memErrors = s.memErrors := rfl
@[simp] theorem setSlot_senders {k : Nat} {x : MSlot} : (setSlot s k x).senders = s.senders := rfl
@[simp] theorem setSlot_ledger {k : Nat} {x : MSlot} : (setSlot s k x).ledger = s.ledger := rfl
@[simp] theorem setSlot_ledgerWait {k : Nat} {x : MSlot} : (setSlot s k x).ledgerWait = s.ledgerWait := rfl
@[simp] theorem setSlot_lineQ {k : Nat} {x : MSlot} : (setSlot s k x).lineQ = s.lineQ := rfl
@[simp] theorem setSlot_homeReqs {k : Nat} {x : MSlot} : (setSlot s k x).homeReqs = s.homeReqs := rfl
@[simp] theorem setSlot_hotLines {k : Nat} {x : MSlot} : (setSlot s k x).hotLines = s.hotLines := rfl
@[simp] theorem setSlot_groupLists {k : Nat} {x : MSlot} : (setSlot s k x).groupLists = s.groupLists := rfl
@[simp] theorem setSlot_colls {k : Nat} {x : MSlot} : (setSlot s k x).colls = s.colls := rfl
@[simp] theorem setSlot_collEnds {k : Nat} {x : MSlot} : (setSlot s k x).collEnds = s.collEnds := rfl
@[simp] theorem setSlot_mcasts {k : Nat} {x : MSlot} : (setSlot s k x).mcasts = s.mcasts := rfl
@[simp] theorem setSlot_mcastNext {k : Nat} {x : MSlot} : (setSlot s k x).mcastNext = s.mcastNext := rfl
@[simp] theorem setSlot_heldMsgs {k : Nat} {x : MSlot} : (setSlot s k x).heldMsgs = s.heldMsgs := rfl
@[simp] theorem setSlot_fencedLegs {k : Nat} {x : MSlot} : (setSlot s k x).fencedLegs = s.fencedLegs := rfl
@[simp] theorem setSlot_backoffs {k : Nat} {x : MSlot} : (setSlot s k x).backoffs = s.backoffs := rfl
@[simp] theorem setSlot_jobTag {k : Nat} {x : MSlot} : (setSlot s k x).jobTag = s.jobTag := rfl
@[simp] theorem setSlot_starts {k : Nat} {x : MSlot} : (setSlot s k x).starts = s.starts := rfl
@[simp] theorem setSlot_jobList {k : Nat} {x : MSlot} : (setSlot s k x).jobList = s.jobList := rfl
@[simp] theorem setSlot_jobStep {k : Nat} {x : MSlot} : (setSlot s k x).jobStep = s.jobStep := rfl
@[simp] theorem setSlot_jobMember {k : Nat} {x : MSlot} : (setSlot s k x).jobMember = s.jobMember := rfl
@[simp] theorem setSlot_jobSeen {k : Nat} {x : MSlot} : (setSlot s k x).jobSeen = s.jobSeen := rfl
@[simp] theorem setSlot_jobMembers {k : Nat} {x : MSlot} : (setSlot s k x).jobMembers = s.jobMembers := rfl
@[simp] theorem setSlot_keystoneSilent {k : Nat} {x : MSlot} : (setSlot s k x).keystoneSilent = s.keystoneSilent := rfl
@[simp] theorem setSlot_newKeystone {k : Nat} {x : MSlot} : (setSlot s k x).newKeystone = s.newKeystone := rfl
@[simp] theorem setSlot_ctxs {k : Nat} {x : MSlot} : (setSlot s k x).ctxs = s.ctxs := rfl
@[simp] theorem setSlot_loading {k : Nat} {x : MSlot} : (setSlot s k x).loading = s.loading := rfl
@[simp] theorem setSlot_rings {k : Nat} {x : MSlot} : (setSlot s k x).rings = s.rings := rfl
@[simp] theorem setSlot_mailboxes {k : Nat} {x : MSlot} : (setSlot s k x).mailboxes = s.mailboxes := rfl
@[simp] theorem setSlot_posts {k : Nat} {x : MSlot} : (setSlot s k x).posts = s.posts := rfl
@[simp] theorem setSlot_teardown {k : Nat} {x : MSlot} : (setSlot s k x).teardown = s.teardown := rfl
@[simp] theorem setSlot_routers {k : Nat} {x : MSlot} : (setSlot s k x).routers = s.routers := rfl
@[simp] theorem setSlot_toks {k : Nat} {x : MSlot} : (setSlot s k x).toks = s.toks := rfl
@[simp] theorem setSlot_confs {k : Nat} {x : MSlot} : (setSlot s k x).confs = s.confs := rfl
@[simp] theorem setSlot_gens {k : Nat} {x : MSlot} : (setSlot s k x).gens = s.gens := rfl
@[simp] theorem setSlot_cancels {k : Nat} {x : MSlot} : (setSlot s k x).cancels = s.cancels := rfl
@[simp] theorem setSlot_notIntact {k : Nat} {x : MSlot} : (setSlot s k x).notIntact = s.notIntact := rfl
@[simp] theorem setSlot_bundles {k : Nat} {x : MSlot} : (setSlot s k x).bundles = s.bundles := rfl
@[simp] theorem setSlot_barriers {k : Nat} {x : MSlot} : (setSlot s k x).barriers = s.barriers := rfl
@[simp] theorem setSlot_claims {k : Nat} {x : MSlot} : (setSlot s k x).claims = s.claims := rfl
@[simp] theorem setSlot_admitted {k : Nat} {x : MSlot} : (setSlot s k x).admitted = s.admitted := rfl
@[simp] theorem setSlot_slots {k : Nat} {x : MSlot} : (setSlot s k x).slots = s.slots := rfl
@[simp] theorem setSlot_runs {k : Nat} {x : MSlot} : (setSlot s k x).runs = s.runs := rfl
@[simp] theorem setSlot_qTails {k : Nat} {x : MSlot} : (setSlot s k x).qTails = s.qTails := rfl
@[simp] theorem setSlot_pupdates {k : Nat} {x : MSlot} : (setSlot s k x).pupdates = s.pupdates := rfl
@[simp] theorem setSlot_blocksReading {k : Nat} {x : MSlot} : (setSlot s k x).blocksReading = s.blocksReading := rfl
@[simp] theorem setSlot_fetchQ {k : Nat} {x : MSlot} : (setSlot s k x).fetchQ = s.fetchQ := rfl
@[simp] theorem setSlot_fetchHeld {k : Nat} {x : MSlot} : (setSlot s k x).fetchHeld = s.fetchHeld := rfl
@[simp] theorem setSlot_fills {k : Nat} {x : MSlot} : (setSlot s k x).fills = s.fills := rfl
@[simp] theorem setSlot_wins {k : Nat} {x : MSlot} : (setSlot s k x).wins = s.wins := rfl
@[simp] theorem setSlot_writebacks {k : Nat} {x : MSlot} : (setSlot s k x).writebacks = s.writebacks := rfl
@[simp] theorem setSlot_kvWaits {k : Nat} {x : MSlot} : (setSlot s k x).kvWaits = s.kvWaits := rfl
@[simp] theorem setSlot_stones {k : Nat} {x : MSlot} : (setSlot s k x).stones = s.stones := rfl
@[simp] theorem setSlot_arrays {k : Nat} {x : MSlot} : (setSlot s k x).arrays = s.arrays := rfl
@[simp] theorem setSlot_dmas {k : Nat} {x : MSlot} : (setSlot s k x).dmas = s.dmas := rfl
@[simp] theorem setSlot_dmaLast {k : Nat} {x : MSlot} : (setSlot s k x).dmaLast = s.dmaLast := rfl
@[simp] theorem setSlot_pools {k : Nat} {x : MSlot} : (setSlot s k x).pools = s.pools := rfl
@[simp] theorem setSlot_umora {k : Nat} {x : MSlot} : (setSlot s k x).umora = s.umora := rfl
@[simp] theorem setSlot_clock {k : Nat} {x : MSlot} : (setSlot s k x).clock = s.clock := rfl
@[simp] theorem setSlot_power {k : Nat} {x : MSlot} : (setSlot s k x).power = s.power := rfl
@[simp] theorem setSlot_sec {k : Nat} {x : MSlot} : (setSlot s k x).sec = s.sec := rfl

/-! ### emitFor -/

@[simp] theorem emitFor_pending {c : Option Nat} {o : Out} : (emitFor s c o).pending = s.pending := rfl
@[simp] theorem emitFor_nonce {c : Option Nat} {o : Out} : (emitFor s c o).nonce = s.nonce := rfl
@[simp] theorem emitFor_resetLow {c : Option Nat} {o : Out} : (emitFor s c o).resetLow = s.resetLow := rfl
@[simp] theorem emitFor_trayId {c : Option Nat} {o : Out} : (emitFor s c o).trayId = s.trayId := rfl
@[simp] theorem emitFor_fuses {c : Option Nat} {o : Out} : (emitFor s c o).fuses = s.fuses := rfl
@[simp] theorem emitFor_mode {c : Option Nat} {o : Out} : (emitFor s c o).mode = s.mode := rfl
@[simp] theorem emitFor_ent {c : Option Nat} {o : Out} : (emitFor s c o).ent = s.ent := rfl
@[simp] theorem emitFor_mem {c : Option Nat} {o : Out} : (emitFor s c o).mem = s.mem := rfl
@[simp] theorem emitFor_sram {c : Option Nat} {o : Out} : (emitFor s c o).sram = s.sram := rfl
@[simp] theorem emitFor_slotMem {c : Option Nat} {o : Out} : (emitFor s c o).slotMem = s.slotMem := rfl
@[simp] theorem emitFor_fenced {c : Option Nat} {o : Out} : (emitFor s c o).fenced = s.fenced := rfl
@[simp] theorem emitFor_badWords {c : Option Nat} {o : Out} : (emitFor s c o).badWords = s.badWords := rfl
@[simp] theorem emitFor_wordErrs {c : Option Nat} {o : Out} : (emitFor s c o).wordErrs = s.wordErrs := rfl
@[simp] theorem emitFor_recC {c : Option Nat} {o : Out} : (emitFor s c o).recC = s.recC := rfl
@[simp] theorem emitFor_recU {c : Option Nat} {o : Out} : (emitFor s c o).recU = s.recU := rfl
@[simp] theorem emitFor_recF {c : Option Nat} {o : Out} : (emitFor s c o).recF = s.recF := rfl
@[simp] theorem emitFor_deadPairs {c : Option Nat} {o : Out} : (emitFor s c o).deadPairs = s.deadPairs := rfl
@[simp] theorem emitFor_cAckDue {c : Option Nat} {o : Out} : (emitFor s c o).cAckDue = s.cAckDue := rfl
@[simp] theorem emitFor_mpFailed {c : Option Nat} {o : Out} : (emitFor s c o).mpFailed = s.mpFailed := rfl
@[simp] theorem emitFor_switchDead {c : Option Nat} {o : Out} : (emitFor s c o).switchDead = s.switchDead := rfl
@[simp] theorem emitFor_pondFaults {c : Option Nat} {o : Out} : (emitFor s c o).pondFaults = s.pondFaults := rfl
@[simp] theorem emitFor_lastSummary {c : Option Nat} {o : Out} : (emitFor s c o).lastSummary = s.lastSummary := rfl
@[simp] theorem emitFor_holds {c : Option Nat} {o : Out} : (emitFor s c o).holds = s.holds := rfl
@[simp] theorem emitFor_irqStacks {c : Option Nat} {o : Out} : (emitFor s c o).irqStacks = s.irqStacks := rfl
@[simp] theorem emitFor_served {c : Option Nat} {o : Out} : (emitFor s c o).served = s.served := rfl
@[simp] theorem emitFor_delivering {c : Option Nat} {o : Out} : (emitFor s c o).delivering = s.delivering := rfl
@[simp] theorem emitFor_dictRefusal {c : Option Nat} {o : Out} : (emitFor s c o).dictRefusal = s.dictRefusal := rfl
@[simp] theorem emitFor_replay {c : Option Nat} {o : Out} : (emitFor s c o).replay = s.replay := rfl
@[simp] theorem emitFor_mslots {c : Option Nat} {o : Out} : (emitFor s c o).mslots = s.mslots := rfl
@[simp] theorem emitFor_dictQ {c : Option Nat} {o : Out} : (emitFor s c o).dictQ = s.dictQ := rfl
@[simp] theorem emitFor_deferred {c : Option Nat} {o : Out} : (emitFor s c o).deferred = s.deferred := rfl
@[simp] theorem emitFor_relays {c : Option Nat} {o : Out} : (emitFor s c o).relays = s.relays := rfl
@[simp] theorem emitFor_ports {c : Option Nat} {o : Out} : (emitFor s c o).ports = s.ports := rfl
@[simp] theorem emitFor_injQ {c : Option Nat} {o : Out} : (emitFor s c o).injQ = s.injQ := rfl
@[simp] theorem emitFor_stalledInj {c : Option Nat} {o : Out} : (emitFor s c o).stalledInj = s.stalledInj := rfl
@[simp] theorem emitFor_bridgeQ {c : Option Nat} {o : Out} : (emitFor s c o).bridgeQ = s.bridgeQ := rfl
@[simp] theorem emitFor_delivered {c : Option Nat} {o : Out} : (emitFor s c o).delivered = s.delivered := rfl
@[simp] theorem emitFor_tables {c : Option Nat} {o : Out} : (emitFor s c o).tables = s.tables := rfl
@[simp] theorem emitFor_aqs {c : Option Nat} {o : Out} : (emitFor s c o).aqs = s.aqs := rfl
@[simp] theorem emitFor_aqQ {c : Option Nat} {o : Out} : (emitFor s c o).aqQ = s.aqQ := rfl
@[simp] theorem emitFor_aqGot {c : Option Nat} {o : Out} : (emitFor s c o).aqGot = s.aqGot := rfl
@[simp] theorem emitFor_aqBurst {c : Option Nat} {o : Out} : (emitFor s c o).aqBurst = s.aqBurst := rfl
@[simp] theorem emitFor_aqSent {c : Option Nat} {o : Out} : (emitFor s c o).aqSent = s.aqSent := rfl
@[simp] theorem emitFor_dropsSeen {c : Option Nat} {o : Out} : (emitFor s c o).dropsSeen = s.dropsSeen := rfl
@[simp] theorem emitFor_tagDropSeen {c : Option Nat} {o : Out} : (emitFor s c o).tagDropSeen = s.tagDropSeen := rfl
@[simp] theorem emitFor_epochStep {c : Option Nat} {o : Out} : (emitFor s c o).epochStep = s.epochStep := rfl
@[simp] theorem emitFor_windows {c : Option Nat} {o : Out} : (emitFor s c o).windows = s.windows := rfl
@[simp] theorem emitFor_windowFaultSeen {c : Option Nat} {o : Out} : (emitFor s c o).windowFaultSeen = s.windowFaultSeen := rfl
@[simp] theorem emitFor_memErrors {c : Option Nat} {o : Out} : (emitFor s c o).memErrors = s.memErrors := rfl
@[simp] theorem emitFor_senders {c : Option Nat} {o : Out} : (emitFor s c o).senders = s.senders := rfl
@[simp] theorem emitFor_ledger {c : Option Nat} {o : Out} : (emitFor s c o).ledger = s.ledger := rfl
@[simp] theorem emitFor_ledgerWait {c : Option Nat} {o : Out} : (emitFor s c o).ledgerWait = s.ledgerWait := rfl
@[simp] theorem emitFor_lineQ {c : Option Nat} {o : Out} : (emitFor s c o).lineQ = s.lineQ := rfl
@[simp] theorem emitFor_homeReqs {c : Option Nat} {o : Out} : (emitFor s c o).homeReqs = s.homeReqs := rfl
@[simp] theorem emitFor_hotLines {c : Option Nat} {o : Out} : (emitFor s c o).hotLines = s.hotLines := rfl
@[simp] theorem emitFor_groupLists {c : Option Nat} {o : Out} : (emitFor s c o).groupLists = s.groupLists := rfl
@[simp] theorem emitFor_colls {c : Option Nat} {o : Out} : (emitFor s c o).colls = s.colls := rfl
@[simp] theorem emitFor_collEnds {c : Option Nat} {o : Out} : (emitFor s c o).collEnds = s.collEnds := rfl
@[simp] theorem emitFor_mcasts {c : Option Nat} {o : Out} : (emitFor s c o).mcasts = s.mcasts := rfl
@[simp] theorem emitFor_mcastNext {c : Option Nat} {o : Out} : (emitFor s c o).mcastNext = s.mcastNext := rfl
@[simp] theorem emitFor_heldMsgs {c : Option Nat} {o : Out} : (emitFor s c o).heldMsgs = s.heldMsgs := rfl
@[simp] theorem emitFor_fencedLegs {c : Option Nat} {o : Out} : (emitFor s c o).fencedLegs = s.fencedLegs := rfl
@[simp] theorem emitFor_backoffs {c : Option Nat} {o : Out} : (emitFor s c o).backoffs = s.backoffs := rfl
@[simp] theorem emitFor_jobTag {c : Option Nat} {o : Out} : (emitFor s c o).jobTag = s.jobTag := rfl
@[simp] theorem emitFor_starts {c : Option Nat} {o : Out} : (emitFor s c o).starts = s.starts := rfl
@[simp] theorem emitFor_jobList {c : Option Nat} {o : Out} : (emitFor s c o).jobList = s.jobList := rfl
@[simp] theorem emitFor_jobStep {c : Option Nat} {o : Out} : (emitFor s c o).jobStep = s.jobStep := rfl
@[simp] theorem emitFor_jobMember {c : Option Nat} {o : Out} : (emitFor s c o).jobMember = s.jobMember := rfl
@[simp] theorem emitFor_jobSeen {c : Option Nat} {o : Out} : (emitFor s c o).jobSeen = s.jobSeen := rfl
@[simp] theorem emitFor_jobMembers {c : Option Nat} {o : Out} : (emitFor s c o).jobMembers = s.jobMembers := rfl
@[simp] theorem emitFor_keystoneSilent {c : Option Nat} {o : Out} : (emitFor s c o).keystoneSilent = s.keystoneSilent := rfl
@[simp] theorem emitFor_newKeystone {c : Option Nat} {o : Out} : (emitFor s c o).newKeystone = s.newKeystone := rfl
@[simp] theorem emitFor_ctxs {c : Option Nat} {o : Out} : (emitFor s c o).ctxs = s.ctxs := rfl
@[simp] theorem emitFor_loading {c : Option Nat} {o : Out} : (emitFor s c o).loading = s.loading := rfl
@[simp] theorem emitFor_rings {c : Option Nat} {o : Out} : (emitFor s c o).rings = s.rings := rfl
@[simp] theorem emitFor_mailboxes {c : Option Nat} {o : Out} : (emitFor s c o).mailboxes = s.mailboxes := rfl
@[simp] theorem emitFor_posts {c : Option Nat} {o : Out} : (emitFor s c o).posts = s.posts := rfl
@[simp] theorem emitFor_teardown {c : Option Nat} {o : Out} : (emitFor s c o).teardown = s.teardown := rfl
@[simp] theorem emitFor_routers {c : Option Nat} {o : Out} : (emitFor s c o).routers = s.routers := rfl
@[simp] theorem emitFor_toks {c : Option Nat} {o : Out} : (emitFor s c o).toks = s.toks := rfl
@[simp] theorem emitFor_confs {c : Option Nat} {o : Out} : (emitFor s c o).confs = s.confs := rfl
@[simp] theorem emitFor_gens {c : Option Nat} {o : Out} : (emitFor s c o).gens = s.gens := rfl
@[simp] theorem emitFor_cancels {c : Option Nat} {o : Out} : (emitFor s c o).cancels = s.cancels := rfl
@[simp] theorem emitFor_notIntact {c : Option Nat} {o : Out} : (emitFor s c o).notIntact = s.notIntact := rfl
@[simp] theorem emitFor_bundles {c : Option Nat} {o : Out} : (emitFor s c o).bundles = s.bundles := rfl
@[simp] theorem emitFor_barriers {c : Option Nat} {o : Out} : (emitFor s c o).barriers = s.barriers := rfl
@[simp] theorem emitFor_claims {c : Option Nat} {o : Out} : (emitFor s c o).claims = s.claims := rfl
@[simp] theorem emitFor_admitted {c : Option Nat} {o : Out} : (emitFor s c o).admitted = s.admitted := rfl
@[simp] theorem emitFor_slots {c : Option Nat} {o : Out} : (emitFor s c o).slots = s.slots := rfl
@[simp] theorem emitFor_runs {c : Option Nat} {o : Out} : (emitFor s c o).runs = s.runs := rfl
@[simp] theorem emitFor_qTails {c : Option Nat} {o : Out} : (emitFor s c o).qTails = s.qTails := rfl
@[simp] theorem emitFor_pupdates {c : Option Nat} {o : Out} : (emitFor s c o).pupdates = s.pupdates := rfl
@[simp] theorem emitFor_blocksReading {c : Option Nat} {o : Out} : (emitFor s c o).blocksReading = s.blocksReading := rfl
@[simp] theorem emitFor_fetchQ {c : Option Nat} {o : Out} : (emitFor s c o).fetchQ = s.fetchQ := rfl
@[simp] theorem emitFor_fetchHeld {c : Option Nat} {o : Out} : (emitFor s c o).fetchHeld = s.fetchHeld := rfl
@[simp] theorem emitFor_fills {c : Option Nat} {o : Out} : (emitFor s c o).fills = s.fills := rfl
@[simp] theorem emitFor_wins {c : Option Nat} {o : Out} : (emitFor s c o).wins = s.wins := rfl
@[simp] theorem emitFor_writebacks {c : Option Nat} {o : Out} : (emitFor s c o).writebacks = s.writebacks := rfl
@[simp] theorem emitFor_kvWaits {c : Option Nat} {o : Out} : (emitFor s c o).kvWaits = s.kvWaits := rfl
@[simp] theorem emitFor_stones {c : Option Nat} {o : Out} : (emitFor s c o).stones = s.stones := rfl
@[simp] theorem emitFor_arrays {c : Option Nat} {o : Out} : (emitFor s c o).arrays = s.arrays := rfl
@[simp] theorem emitFor_dmas {c : Option Nat} {o : Out} : (emitFor s c o).dmas = s.dmas := rfl
@[simp] theorem emitFor_dmaLast {c : Option Nat} {o : Out} : (emitFor s c o).dmaLast = s.dmaLast := rfl
@[simp] theorem emitFor_pools {c : Option Nat} {o : Out} : (emitFor s c o).pools = s.pools := rfl
@[simp] theorem emitFor_clock {c : Option Nat} {o : Out} : (emitFor s c o).clock = s.clock := rfl
@[simp] theorem emitFor_power {c : Option Nat} {o : Out} : (emitFor s c o).power = s.power := rfl
@[simp] theorem emitFor_sec {c : Option Nat} {o : Out} : (emitFor s c o).sec = s.sec := rfl

/-! ### hostTaken -/

@[simp] theorem hostTaken_pending {p : Bool} : (hostTaken s p).pending = s.pending := rfl
@[simp] theorem hostTaken_nonce {p : Bool} : (hostTaken s p).nonce = s.nonce := rfl
@[simp] theorem hostTaken_resetLow {p : Bool} : (hostTaken s p).resetLow = s.resetLow := rfl
@[simp] theorem hostTaken_trayId {p : Bool} : (hostTaken s p).trayId = s.trayId := rfl
@[simp] theorem hostTaken_fuses {p : Bool} : (hostTaken s p).fuses = s.fuses := rfl
@[simp] theorem hostTaken_mode {p : Bool} : (hostTaken s p).mode = s.mode := rfl
@[simp] theorem hostTaken_ent {p : Bool} : (hostTaken s p).ent = s.ent := rfl
@[simp] theorem hostTaken_out {p : Bool} : (hostTaken s p).out = s.out := rfl
@[simp] theorem hostTaken_mem {p : Bool} : (hostTaken s p).mem = s.mem := rfl
@[simp] theorem hostTaken_sram {p : Bool} : (hostTaken s p).sram = s.sram := rfl
@[simp] theorem hostTaken_slotMem {p : Bool} : (hostTaken s p).slotMem = s.slotMem := rfl
@[simp] theorem hostTaken_fenced {p : Bool} : (hostTaken s p).fenced = s.fenced := rfl
@[simp] theorem hostTaken_badWords {p : Bool} : (hostTaken s p).badWords = s.badWords := rfl
@[simp] theorem hostTaken_wordErrs {p : Bool} : (hostTaken s p).wordErrs = s.wordErrs := rfl
@[simp] theorem hostTaken_recC {p : Bool} : (hostTaken s p).recC = s.recC := rfl
@[simp] theorem hostTaken_recU {p : Bool} : (hostTaken s p).recU = s.recU := rfl
@[simp] theorem hostTaken_recF {p : Bool} : (hostTaken s p).recF = s.recF := rfl
@[simp] theorem hostTaken_deadPairs {p : Bool} : (hostTaken s p).deadPairs = s.deadPairs := rfl
@[simp] theorem hostTaken_cAckDue {p : Bool} : (hostTaken s p).cAckDue = s.cAckDue := rfl
@[simp] theorem hostTaken_mpFailed {p : Bool} : (hostTaken s p).mpFailed = s.mpFailed := rfl
@[simp] theorem hostTaken_switchDead {p : Bool} : (hostTaken s p).switchDead = s.switchDead := rfl
@[simp] theorem hostTaken_pondFaults {p : Bool} : (hostTaken s p).pondFaults = s.pondFaults := rfl
@[simp] theorem hostTaken_lastSummary {p : Bool} : (hostTaken s p).lastSummary = s.lastSummary := rfl
@[simp] theorem hostTaken_holds {p : Bool} : (hostTaken s p).holds = s.holds := rfl
@[simp] theorem hostTaken_irqStacks {p : Bool} : (hostTaken s p).irqStacks = s.irqStacks := rfl
@[simp] theorem hostTaken_served {p : Bool} : (hostTaken s p).served = s.served := rfl
@[simp] theorem hostTaken_delivering {p : Bool} : (hostTaken s p).delivering = s.delivering := rfl
@[simp] theorem hostTaken_dictRefusal {p : Bool} : (hostTaken s p).dictRefusal = s.dictRefusal := rfl
@[simp] theorem hostTaken_replay {p : Bool} : (hostTaken s p).replay = s.replay := rfl
@[simp] theorem hostTaken_mslots {p : Bool} : (hostTaken s p).mslots = s.mslots := rfl
@[simp] theorem hostTaken_dictQ {p : Bool} : (hostTaken s p).dictQ = s.dictQ := rfl
@[simp] theorem hostTaken_deferred {p : Bool} : (hostTaken s p).deferred = s.deferred := rfl
@[simp] theorem hostTaken_relays {p : Bool} : (hostTaken s p).relays = s.relays := rfl
@[simp] theorem hostTaken_ports {p : Bool} : (hostTaken s p).ports = s.ports := rfl
@[simp] theorem hostTaken_injQ {p : Bool} : (hostTaken s p).injQ = s.injQ := rfl
@[simp] theorem hostTaken_stalledInj {p : Bool} : (hostTaken s p).stalledInj = s.stalledInj := rfl
@[simp] theorem hostTaken_bridgeQ {p : Bool} : (hostTaken s p).bridgeQ = s.bridgeQ := rfl
@[simp] theorem hostTaken_delivered {p : Bool} : (hostTaken s p).delivered = s.delivered := rfl
@[simp] theorem hostTaken_tables {p : Bool} : (hostTaken s p).tables = s.tables := rfl
@[simp] theorem hostTaken_aqs {p : Bool} : (hostTaken s p).aqs = s.aqs := rfl
@[simp] theorem hostTaken_aqQ {p : Bool} : (hostTaken s p).aqQ = s.aqQ := rfl
@[simp] theorem hostTaken_aqGot {p : Bool} : (hostTaken s p).aqGot = s.aqGot := rfl
@[simp] theorem hostTaken_aqBurst {p : Bool} : (hostTaken s p).aqBurst = s.aqBurst := rfl
@[simp] theorem hostTaken_aqSent {p : Bool} : (hostTaken s p).aqSent = s.aqSent := rfl
@[simp] theorem hostTaken_dropsSeen {p : Bool} : (hostTaken s p).dropsSeen = s.dropsSeen := rfl
@[simp] theorem hostTaken_tagDropSeen {p : Bool} : (hostTaken s p).tagDropSeen = s.tagDropSeen := rfl
@[simp] theorem hostTaken_epochStep {p : Bool} : (hostTaken s p).epochStep = s.epochStep := rfl
@[simp] theorem hostTaken_windows {p : Bool} : (hostTaken s p).windows = s.windows := rfl
@[simp] theorem hostTaken_windowFaultSeen {p : Bool} : (hostTaken s p).windowFaultSeen = s.windowFaultSeen := rfl
@[simp] theorem hostTaken_memErrors {p : Bool} : (hostTaken s p).memErrors = s.memErrors := rfl
@[simp] theorem hostTaken_senders {p : Bool} : (hostTaken s p).senders = s.senders := rfl
@[simp] theorem hostTaken_ledger {p : Bool} : (hostTaken s p).ledger = s.ledger := rfl
@[simp] theorem hostTaken_ledgerWait {p : Bool} : (hostTaken s p).ledgerWait = s.ledgerWait := rfl
@[simp] theorem hostTaken_lineQ {p : Bool} : (hostTaken s p).lineQ = s.lineQ := rfl
@[simp] theorem hostTaken_homeReqs {p : Bool} : (hostTaken s p).homeReqs = s.homeReqs := rfl
@[simp] theorem hostTaken_hotLines {p : Bool} : (hostTaken s p).hotLines = s.hotLines := rfl
@[simp] theorem hostTaken_groupLists {p : Bool} : (hostTaken s p).groupLists = s.groupLists := rfl
@[simp] theorem hostTaken_colls {p : Bool} : (hostTaken s p).colls = s.colls := rfl
@[simp] theorem hostTaken_collEnds {p : Bool} : (hostTaken s p).collEnds = s.collEnds := rfl
@[simp] theorem hostTaken_mcasts {p : Bool} : (hostTaken s p).mcasts = s.mcasts := rfl
@[simp] theorem hostTaken_mcastNext {p : Bool} : (hostTaken s p).mcastNext = s.mcastNext := rfl
@[simp] theorem hostTaken_heldMsgs {p : Bool} : (hostTaken s p).heldMsgs = s.heldMsgs := rfl
@[simp] theorem hostTaken_fencedLegs {p : Bool} : (hostTaken s p).fencedLegs = s.fencedLegs := rfl
@[simp] theorem hostTaken_backoffs {p : Bool} : (hostTaken s p).backoffs = s.backoffs := rfl
@[simp] theorem hostTaken_jobTag {p : Bool} : (hostTaken s p).jobTag = s.jobTag := rfl
@[simp] theorem hostTaken_starts {p : Bool} : (hostTaken s p).starts = s.starts := rfl
@[simp] theorem hostTaken_jobList {p : Bool} : (hostTaken s p).jobList = s.jobList := rfl
@[simp] theorem hostTaken_jobStep {p : Bool} : (hostTaken s p).jobStep = s.jobStep := rfl
@[simp] theorem hostTaken_jobMember {p : Bool} : (hostTaken s p).jobMember = s.jobMember := rfl
@[simp] theorem hostTaken_jobSeen {p : Bool} : (hostTaken s p).jobSeen = s.jobSeen := rfl
@[simp] theorem hostTaken_jobMembers {p : Bool} : (hostTaken s p).jobMembers = s.jobMembers := rfl
@[simp] theorem hostTaken_keystoneSilent {p : Bool} : (hostTaken s p).keystoneSilent = s.keystoneSilent := rfl
@[simp] theorem hostTaken_newKeystone {p : Bool} : (hostTaken s p).newKeystone = s.newKeystone := rfl
@[simp] theorem hostTaken_ctxs {p : Bool} : (hostTaken s p).ctxs = s.ctxs := rfl
@[simp] theorem hostTaken_loading {p : Bool} : (hostTaken s p).loading = s.loading := rfl
@[simp] theorem hostTaken_rings {p : Bool} : (hostTaken s p).rings = s.rings := rfl
@[simp] theorem hostTaken_mailboxes {p : Bool} : (hostTaken s p).mailboxes = s.mailboxes := rfl
@[simp] theorem hostTaken_posts {p : Bool} : (hostTaken s p).posts = s.posts := rfl
@[simp] theorem hostTaken_teardown {p : Bool} : (hostTaken s p).teardown = s.teardown := rfl
@[simp] theorem hostTaken_routers {p : Bool} : (hostTaken s p).routers = s.routers := rfl
@[simp] theorem hostTaken_toks {p : Bool} : (hostTaken s p).toks = s.toks := rfl
@[simp] theorem hostTaken_confs {p : Bool} : (hostTaken s p).confs = s.confs := rfl
@[simp] theorem hostTaken_gens {p : Bool} : (hostTaken s p).gens = s.gens := rfl
@[simp] theorem hostTaken_cancels {p : Bool} : (hostTaken s p).cancels = s.cancels := rfl
@[simp] theorem hostTaken_notIntact {p : Bool} : (hostTaken s p).notIntact = s.notIntact := rfl
@[simp] theorem hostTaken_bundles {p : Bool} : (hostTaken s p).bundles = s.bundles := rfl
@[simp] theorem hostTaken_barriers {p : Bool} : (hostTaken s p).barriers = s.barriers := rfl
@[simp] theorem hostTaken_claims {p : Bool} : (hostTaken s p).claims = s.claims := rfl
@[simp] theorem hostTaken_admitted {p : Bool} : (hostTaken s p).admitted = s.admitted := rfl
@[simp] theorem hostTaken_slots {p : Bool} : (hostTaken s p).slots = s.slots := rfl
@[simp] theorem hostTaken_runs {p : Bool} : (hostTaken s p).runs = s.runs := rfl
@[simp] theorem hostTaken_qTails {p : Bool} : (hostTaken s p).qTails = s.qTails := rfl
@[simp] theorem hostTaken_pupdates {p : Bool} : (hostTaken s p).pupdates = s.pupdates := rfl
@[simp] theorem hostTaken_blocksReading {p : Bool} : (hostTaken s p).blocksReading = s.blocksReading := rfl
@[simp] theorem hostTaken_fetchQ {p : Bool} : (hostTaken s p).fetchQ = s.fetchQ := rfl
@[simp] theorem hostTaken_fetchHeld {p : Bool} : (hostTaken s p).fetchHeld = s.fetchHeld := rfl
@[simp] theorem hostTaken_fills {p : Bool} : (hostTaken s p).fills = s.fills := rfl
@[simp] theorem hostTaken_wins {p : Bool} : (hostTaken s p).wins = s.wins := rfl
@[simp] theorem hostTaken_writebacks {p : Bool} : (hostTaken s p).writebacks = s.writebacks := rfl
@[simp] theorem hostTaken_kvWaits {p : Bool} : (hostTaken s p).kvWaits = s.kvWaits := rfl
@[simp] theorem hostTaken_stones {p : Bool} : (hostTaken s p).stones = s.stones := rfl
@[simp] theorem hostTaken_arrays {p : Bool} : (hostTaken s p).arrays = s.arrays := rfl
@[simp] theorem hostTaken_dmas {p : Bool} : (hostTaken s p).dmas = s.dmas := rfl
@[simp] theorem hostTaken_dmaLast {p : Bool} : (hostTaken s p).dmaLast = s.dmaLast := rfl
@[simp] theorem hostTaken_pools {p : Bool} : (hostTaken s p).pools = s.pools := rfl
@[simp] theorem hostTaken_clock {p : Bool} : (hostTaken s p).clock = s.clock := rfl
@[simp] theorem hostTaken_power {p : Bool} : (hostTaken s p).power = s.power := rfl
@[simp] theorem hostTaken_sec {p : Bool} : (hostTaken s p).sec = s.sec := rfl

/-! ### Reads after writes -/

theorem ekey_inj {c i j c' i' j' : Nat} (h : ekey c i j = ekey c' i' j') (hi : i < 65536) (hj : j < 256) (hi' : i' < 65536)
    (hj' : j' < 256) : c = c' ∧ i = i' ∧ j = j' := by
  unfold ekey at h
  omega

@[simp] theorem getC_setC_self (c i j v : Nat) : getC (setC s c i j v) c i j = v := tget_tput_self _ _ _ _

theorem getC_setC_ne {c i j c' i' j' : Nat} (h : ekey c' i' j' ≠ ekey c i j) (v : Nat) :
    getC (setC s c i j v) c' i' j' = getC s c' i' j' := tget_tput_ne _ _ _ h _

@[simp] theorem getE_setE_self (i j v : Nat) : getE (setE s i j v) i j = v := getC_setC_self 0 i j v

theorem getE_setE_ne {i j i' j' : Nat} (h : ekey 0 i' j' ≠ ekey 0 i j) (v : Nat) :
    getE (setE s i j v) i' j' = getE s i' j' := getC_setC_ne h v

theorem getE_countBy_self (i j n : Nat) : getE (countBy s i j n) i j = (getE s i j + n) % 2 ^ 64 := getE_setE_self i j _

theorem getE_count_self (i j : Nat) : getE (count s i j) i j = (getE s i j + 1) % 2 ^ 64 := getE_setE_self i j _

theorem getE_count_ne {i j i' j' : Nat} (h : ekey 0 i' j' ≠ ekey 0 i j) : getE (count s i j) i' j' = getE s i' j' :=
  getE_setE_ne h _

@[simp] theorem stoneOf_setStone_self (k : Nat) (x : Stone) : stoneOf (setStone s k x) k = x := tget_tput_self _ _ _ _

theorem stoneOf_setStone_ne {k j : Nat} (h : j ≠ k) (x : Stone) : stoneOf (setStone s k x) j = stoneOf s j := tget_tput_ne _ _ _ h _

@[simp] theorem ctxOf_setCtx_self (k : Nat) (x : Ctx) : ctxOf (setCtx s k x) k = x := tget_tput_self _ _ _ _

theorem ctxOf_setCtx_ne {k j : Nat} (h : j ≠ k) (x : Ctx) : ctxOf (setCtx s k x) j = ctxOf s j := tget_tput_ne _ _ _ h _

@[simp] theorem portOf_setPort_self (k : Nat) (x : Port) : portOf (setPort s k x) k = x := tget_tput_self _ _ _ _

theorem portOf_setPort_ne {k j : Nat} (h : j ≠ k) (x : Port) : portOf (setPort s k x) j = portOf s j := tget_tput_ne _ _ _ h _

@[simp] theorem poolOf_setPool_self (k : Nat) (x : Pool) : poolOf (setPool s k x) k = x := tget_tput_self _ _ _ _

theorem poolOf_setPool_ne {k j : Nat} (h : j ≠ k) (x : Pool) : poolOf (setPool s k x) j = poolOf s j := tget_tput_ne _ _ _ h _

@[simp] theorem routerOf_setRouter_self (k : Nat) (x : Router) : routerOf (setRouter s k x) k = x := tget_tput_self _ _ _ _

theorem routerOf_setRouter_ne {k j : Nat} (h : j ≠ k) (x : Router) : routerOf (setRouter s k x) j = routerOf s j := tget_tput_ne _ _ _ h _

@[simp] theorem ringOf_setRing_self (k : Nat) (x : Ring) : ringOf (setRing s k x) k = x := tget_tput_self _ _ _ _

theorem ringOf_setRing_ne {k j : Nat} (h : j ≠ k) (x : Ring) : ringOf (setRing s k x) j = ringOf s j := tget_tput_ne _ _ _ h _

@[simp] theorem mailboxOf_setMailbox_self (k : Nat) (x : Mailbox) : mailboxOf (setMailbox s k x) k = x := tget_tput_self _ _ _ _

theorem mailboxOf_setMailbox_ne {k j : Nat} (h : j ≠ k) (x : Mailbox) : mailboxOf (setMailbox s k x) j = mailboxOf s j := tget_tput_ne _ _ _ h _

@[simp] theorem senderOf_setSender_self (k : Nat) (x : Sender) : senderOf (setSender s k x) k = x := tget_tput_self _ _ _ _

theorem senderOf_setSender_ne {k j : Nat} (h : j ≠ k) (x : Sender) : senderOf (setSender s k x) j = senderOf s j := tget_tput_ne _ _ _ h _

@[simp] theorem winOf_setWin_self (k : Nat) (x : Win) : winOf (setWin s k x) k = x := tget_tput_self _ _ _ _

theorem winOf_setWin_ne {k j : Nat} (h : j ≠ k) (x : Win) : winOf (setWin s k x) j = winOf s j := tget_tput_ne _ _ _ h _

@[simp] theorem slotOf_setSlot_self (k : Nat) (x : MSlot) : slotOf (setSlot s k x) k = x := tget_tput_self _ _ _ _

theorem slotOf_setSlot_ne {k j : Nat} (h : j ≠ k) (x : MSlot) : slotOf (setSlot s k x) j = slotOf s j := tget_tput_ne _ _ _ h _

@[simp] theorem stoneOf_modStone_self (k : Nat) (f : Stone → Stone) : stoneOf (modStone s k f) k = f (stoneOf s k) :=
  tget_tput_self _ _ _ _

theorem stoneOf_modStone_ne {k j : Nat} (h : j ≠ k) (f : Stone → Stone) : stoneOf (modStone s k f) j = stoneOf s j :=
  tget_tput_ne _ _ _ h _

@[simp] theorem ctxOf_modCtx_self (k : Nat) (f : Ctx → Ctx) : ctxOf (modCtx s k f) k = f (ctxOf s k) := tget_tput_self _ _ _ _

theorem ctxOf_modCtx_ne {k j : Nat} (h : j ≠ k) (f : Ctx → Ctx) : ctxOf (modCtx s k f) j = ctxOf s j := tget_tput_ne _ _ _ h _

/-- A message that does not go over Umora Link leaves at once (15 R484). -/
theorem emit_local {o : Out} (h : hostPackets o = []) : emit s o = { s with out := s.out ++ [o] } := by
  unfold emit emitFor sendHost
  rw [h]

/-- Bytes written to tier 1 read back, and no other byte of the list is touched. -/
theorem tlook_memPut_below {m : List Host.Cell} {bs : List Byte} : ∀ {a x : Nat}, x < a → tlook (memPut m a bs) x = tlook m x := by
  induction bs generalizing m with
  | nil => intro a x _; rfl
  | cons b t ih =>
    intro a x h
    simp only [memPut]
    rw [ih (by omega), tlook_tins_ne m (by omega)]

theorem tlook_memPut_above {m : List Host.Cell} {bs : List Byte} : ∀ {a x : Nat}, a + bs.length ≤ x →
    tlook (memPut m a bs) x = tlook m x := by
  induction bs generalizing m with
  | nil => intro a x _; rfl
  | cons b t ih =>
    intro a x h
    simp only [List.length_cons] at h
    simp only [memPut]
    rw [ih (by omega), tlook_tins_ne m (by omega)]

theorem tlook_memPut_in {bs : List Byte} : ∀ {m : List Host.Cell} {a i : Nat} (h : i < bs.length),
    tlook (memPut m a bs) (a + i) = some bs[i] := by
  induction bs with
  | nil => intro m a i h; simp at h
  | cons b t ih =>
    intro m a i h
    simp only [memPut]
    cases i with
    | zero => rw [tlook_memPut_below (by omega)]; simp [tlook_tins_self]
    | succ i =>
      have : a + (i + 1) = (a + 1) + i := by omega
      rw [this, ih (by simpa using h)]
      simp

/-- A byte outside the bytes written reads as before (04 R121). -/
theorem memByte_memWrite_out {a x : Nat} {bs : List Byte} (h : x < a ∨ a + bs.length ≤ x) :
    memByte (memWrite s a bs) x = memByte s x := by
  unfold memWrite
  split
  · unfold memByte
    rcases h with h | h
    · rw [show (tlook (memPut s.mem a bs) x) = tlook s.mem x from tlook_memPut_below h]
    · rw [show (tlook (memPut s.mem a bs) x) = tlook s.mem x from tlook_memPut_above h]
  · rfl

/-- A byte written reads as written (04 R121). -/
theorem memByte_memWrite_in {a i : Nat} {bs : List Byte} (h : i < bs.length) (hm : a + bs.length ≤ 2 ^ 39) :
    memByte (memWrite s a bs) (a + i) = bs[i] := by
  unfold memWrite
  rw [if_pos hm]
  unfold memByte
  rw [show (tlook (memPut s.mem a bs) (a + i)) = some bs[i] from tlook_memPut_in h]

theorem tget_sramPut_out {bs : List Byte} : ∀ {m : List Host.Cell} {a x : Nat}, x < a ∨ a + bs.length ≤ x →
    tget 0 (sramPut m a bs) x = tget 0 m x := by
  induction bs with
  | nil => intro m a x _; rfl
  | cons b t ih =>
    intro m a x h
    simp only [List.length_cons] at h
    simp only [sramPut]
    rw [ih (by omega), tget_tput_ne _ _ _ (by omega)]

theorem tget_sramPut_in {bs : List Byte} : ∀ {m : List Host.Cell} {a i : Nat} (h : i < bs.length),
    tget 0 (sramPut m a bs) (a + i) = bs[i] := by
  induction bs with
  | nil => intro m a i h; simp at h
  | cons b t ih =>
    intro m a i h
    simp only [sramPut]
    cases i with
    | zero => rw [tget_sramPut_out (by omega)]; simp [tget_tput_self]
    | succ i =>
      have : a + (i + 1) = (a + 1) + i := by omega
      rw [this, ih (by simpa using h)]
      simp

end Sys2Proof.Machine
end

