-- ==== Sys2Proof/Laws/Dict.lean ====
section
/-! SUPPORT. What the dictionary server does with a request that it accepts (14 R471). -/

namespace Sys2Proof.Machine

/-- The front of the server lets a request through to its body. -/
theorem serveFront_of_served {opcode idx sub : Nat} {q : Req} {body : State → State} {s : State}
    (h : served1 idx sub q s = true) :
    s.resetLow = false ∧ serveFront opcode idx sub q none body s = body (takeRequest s q) := by
  simp only [served1, Bool.and_eq_true, Bool.not_eq_true', Option.isNone_iff_eq_none] at h
  obtain ⟨⟨⟨⟨⟨⟨⟨h0, h1⟩, h2⟩, h3⟩, h4⟩, h5⟩, h6⟩, h7⟩ := h
  refine ⟨h0, ?_⟩
  have h5' : ¬((takeRequest s q).mode = .dormant ∧ dormantServes idx sub q.path = false) := by
    intro ⟨a, b⟩
    simp [a, b] at h5
  unfold serveFront
  simp only [h1, h2, h3, h4, h6, h7, if_neg h5', Bool.false_eq_true, if_false]

/-- An accepted WRITE does what the entry's own rule does, and is answered. -/
theorem run_serveWrite {idx sub : Nat} {q : Req} {act : State → Act} {s : State} (h : accepts idx sub q s = true) :
    run s (serveWrite idx sub q act) = .next (match act (takeRequest s q) with
      | .done t => respond t q idx sub 0 0 0
      | .later t => { t with deferred := t.deferred ++ [{ idx := idx, sub := sub, q := q, result := none }] }
      | .refuse c t => refuse t q idx sub c) := by
  unfold accepts at h
  rw [Bool.and_eq_true] at h
  obtain ⟨hs, he⟩ := h
  cases hf : findEntry idx sub with
  | none => simp [hf] at he
  | some e =>
    simp only [hf, Bool.and_eq_true, Bool.not_eq_true', Option.isNone_iff_eq_none] at he
    obtain ⟨⟨h1, h2⟩, h3⟩ := he
    have hc : entryCheck idx sub = none := by simp [entryCheck, hf]
    have h0 := (serveFront_of_served (opcode := 1) (body := id) hs).1
    have h3' : ¬(e.deferred = true ∧ idx ≠ 0x5030 ∧
        (takeRequest s q).deferred.any (fun d => d.idx == idx && d.sub == sub && d.result.isNone) = true) := by
      intro ⟨a, b, c⟩
      rw [a, c, decide_eq_true b] at h3
      exact absurd h3 (by decide)
    unfold run
    rw [if_neg (by simp [h0])]
    unfold serveWrite
    rw [hc, (serveFront_of_served hs).2]
    simp only [hf]
    unfold writeBody
    simp only [h1, h2, if_neg h3']
    all_goals (cases act (takeRequest s q) <;> rfl)

theorem run_serveWrite_done {idx sub : Nat} {q : Req} {act : State → Act} {s t : State} (h : accepts idx sub q s = true)
    (ha : act (takeRequest s q) = .done t) : run s (serveWrite idx sub q act) = .next (respond t q idx sub 0 0 0) := by
  rw [run_serveWrite h, ha]

theorem run_serveWrite_later {idx sub : Nat} {q : Req} {act : State → Act} {s t : State} (h : accepts idx sub q s = true)
    (ha : act (takeRequest s q) = .later t) : run s (serveWrite idx sub q act) =
      .next { t with deferred := t.deferred ++ [{ idx := idx, sub := sub, q := q, result := none }] } := by
  rw [run_serveWrite h, ha]

theorem run_serveWrite_refuse {idx sub c : Nat} {q : Req} {act : State → Act} {s t : State} (h : accepts idx sub q s = true)
    (ha : act (takeRequest s q) = .refuse c t) : run s (serveWrite idx sub q act) = .next (refuse t q idx sub c) := by
  rw [run_serveWrite h, ha]

/-- An accepted READ gives the entry's value. -/
theorem run_serveRead {idx sub : Nat} {q : Req} {e : Entry} {value : State → Nat} {after : State → State} {s : State}
    (h : acceptsRead idx sub q s = true) (hf : findEntry idx sub = some e) :
    run s (serveRead idx sub q value after) =
      .next (giveData (after (takeRequest s q)) q idx sub e.size (value (takeRequest s q))) := by
  unfold acceptsRead at h
  rw [Bool.and_eq_true] at h
  obtain ⟨hs, he⟩ := h
  simp only [hf, Bool.and_eq_true, Bool.or_eq_true, Option.isNone_iff_eq_none, decide_eq_true_eq] at he
  obtain ⟨⟨⟨h1, h2⟩, h3⟩, h4⟩ := he
  have hc : entryCheck idx sub = none := by simp [entryCheck, hf]
  have h0 := (serveFront_of_served (opcode := 0) (body := id) hs).1
  have h3' : ¬(q.typ ≠ 0 ∧ q.typ ≠ e.typ) := by
    intro ⟨a, b⟩
    rcases h3 with h | h
    · exact a h
    · exact b h
  unfold run
  rw [if_neg (by simp [h0])]
  unfold serveRead
  rw [hc, (serveFront_of_served hs).2]
  simp only [hf]
  unfold readBody
  simp only [h1, if_neg h2, if_neg h3', h4, ne_eq, not_true_eq_false, if_false]

/-- Taking a request counts it and, on path 1, marks the mailbox slot busy: nothing else. -/
theorem getE_takeRequest {s : State} {q : Req} {i j : Nat} (h : ekey 0 i j ≠ ekey 0 0xA0F0 0x01) :
    getE (takeRequest s q) i j = getE s i j := by
  unfold takeRequest
  split
  · rfl
  · dsimp only
    split
    · exact getE_count_ne h
    · exact getE_count_ne h

theorem mode_takeRequest {s : State} {q : Req} : (takeRequest s q).mode = s.mode := by
  unfold takeRequest
  split
  · rfl
  · dsimp only
    split <;> rfl

/-- Taking a request touches a counter and, on path 1, the mailbox slot. -/
theorem takeRequest_only (s : State) (q : Req) : takeRequest s q =
    { s with ent := (takeRequest s q).ent, mslots := (takeRequest s q).mslots, dictQ := (takeRequest s q).dictQ } := by
  unfold takeRequest
  split
  · rfl
  · dsimp only
    split <;> rfl

theorem isFenced_takeRequest (s : State) (q : Req) (st : Nat) : isFenced (takeRequest s q) st = isFenced s st := by
  rw [takeRequest_only]; rfl

theorem ctxOf_takeRequest (s : State) (q : Req) (c : Nat) : ctxOf (takeRequest s q) c = ctxOf s c := by
  rw [takeRequest_only]; rfl

theorem stoneOf_takeRequest (s : State) (q : Req) (c : Nat) : stoneOf (takeRequest s q) c = stoneOf s c := by
  rw [takeRequest_only]; rfl

end Sys2Proof.Machine
end

