-- ==== Sys2Proof/Laws/Issue.lean ====
section
/-! SUPPORT. What the issue of an instruction and the settling of its context can do (05 R174, R175, 13 R420, R421). -/

namespace Sys2Proof.Machine

/-- Contexts, dictionary values and marks on products are all that may differ. -/
def Settles (s t : State) : Prop :=
  t = { s with stones := t.stones, ctxs := t.ctxs, ent := t.ent } ∧ ∀ k, (stoneOf t k).regs = (stoneOf s k).regs

theorem Settles.refl (s : State) : Settles s s := ⟨rfl, fun _ => rfl⟩

theorem Settles.trans {a b c : State} (h : Settles a b) (g : Settles b c) : Settles a c := by
  refine ⟨?_, fun k => (g.2 k).trans (h.2 k)⟩
  rw [g.1, h.1]

theorem settles_of {s t : State} (h : t = { s with ctxs := t.ctxs, ent := t.ent }) : Settles s t := by
  refine ⟨?_, fun k => ?_⟩
  · rw [h]
  · rw [h]; rfl

theorem settles_modCtx (s : State) (c : Nat) (f : Ctx → Ctx) : Settles s (modCtx s c f) := settles_of rfl
theorem settles_setC (s : State) (c i j v : Nat) : Settles s (setC s c i j v) := settles_of rfl
theorem settles_count (s : State) (i j : Nat) : Settles s (count s i j) := settles_of rfl
theorem settles_endSlice (s : State) (c : Nat) : Settles s (endSlice s c) := settles_of rfl

theorem regs_markAgain (x : Stone) : (markAgain x).regs = x.regs := by
  unfold markAgain
  split <;> rfl

theorem settles_modStoneFor (s : State) (c st : Nat) (f : Stone → Stone) (hf : ∀ x, (f x).regs = x.regs) :
    Settles s (modStoneFor s c st f) := by
  unfold modStoneFor setStoneFor
  split
  · rename_i h
    refine ⟨rfl, fun k => ?_⟩
    by_cases e : k = st
    · subst e; rw [stoneOf_setStone_self, hf]; simp [stoneFor, h]
    · rw [stoneOf_setStone_ne e]
  · exact settles_modCtx _ _ _

theorem settles_forEach {α : Type} {f : State → α → State} (hf : ∀ s a, Settles s (f s a)) (l : List α) (s : State) :
    Settles s (forEach s l f) := by
  unfold forEach
  induction l generalizing s with
  | nil => exact Settles.refl _
  | cons a l ih => exact (hf s a).trans (ih _)

theorem settles_discardProducts (s : State) (c : Nat) : Settles s (discardProducts s c) :=
  settles_forEach (fun s st => settles_modStoneFor s c st _ regs_markAgain) _ s

theorem settles_cutSlice (s : State) (c : Nat) : Settles s (cutSlice s c) :=
  ((settles_endSlice s c).trans (settles_discardProducts _ c)).trans (settles_modCtx _ c _)

theorem settles_preemptFor (s : State) (c : Nat) : Settles s (preemptFor s c) := by
  unfold preemptFor
  split
  · exact Settles.refl _
  · exact settles_forEach (fun s k => (settles_cutSlice s k).trans (settles_count _ _ _)) _ _

theorem settles_makeReady (s : State) (c : Nat) : Settles s (makeReady s c) :=
  (settles_modCtx s c (fun x => { x with state := .ready })).trans (settles_preemptFor _ c)

/-- Settling a context touches no register of a stone and no memory. -/
theorem settles_settle (s : State) (c : Nat) : Settles s (settle s c) := by
  unfold settle
  dsimp only
  split
  · split
    · exact (Settles.trans (settles_endSlice s c) (settles_of rfl))
    · exact Settles.refl _
  · split
    · exact Settles.refl _
    · exact settles_makeReady s c
  · exact Settles.refl _

theorem settles_settleStone (s : State) (st : Nat) : Settles s (settleStone s st) := by
  unfold settleStone
  split
  · exact settles_settle s _
  · exact Settles.refl _

theorem settles_stopCtx (s : State) (c : Nat) : Settles s (stopCtx s c) := by
  unfold stopCtx
  split
  all_goals first
    | exact Settles.trans (settles_endSlice s c) (settles_of rfl)

theorem Settles.memory {s t : State} (h : Settles s t) : SameMemory s t := by
  refine ⟨fun a => ?_, fun st o => ?_⟩ <;> rw [h.1] <;> rfl

/-- A RUNNING context one of whose stones can issue stays as it is. -/
theorem settleStone_steady {s : State} {st : Nat} (h : steady s st = true) (hf : isFenced s st = false)
    (hb : stoneBlocked (stoneOf s st) = false) : settleStone s st = s := by
  unfold steady at h
  unfold settleStone
  cases ho : (stoneOf s st).owner with
  | none => rfl
  | some c =>
    simp only [ho, Bool.and_eq_true, decide_eq_true_eq] at h
    have hn : allBlocked s c = false := by
      unfold allBlocked
      rw [List.all_eq_false]
      refine ⟨st, by simpa using h.2, ?_⟩
      simp [stoneFor, ho, hf, hb]
    simp only [settle, h.1, hn, Bool.false_eq_true, if_false]

/-- With RESET_N high a command has its effect. -/
theorem run_up {s : State} {f : State → State} (h : s.resetLow = false) : run s f = .next (f s) := by
  unfold run
  rw [if_neg (by rw [h]; exact Bool.false_ne_true)]

/-- What `issues` says: RESET_N is high, and issue goes on to the instruction's effect. -/
theorem run_issue {s : State} {st : Nat} {h : IHdr} {srcs dsts : List (Nat × Nat)} {ok : Bool} {k : State → State}
    (hi : issues s st h srcs dsts = true) (hok : ok = true) :
    run s (fun s => issue s st ok srcs dsts k) = .next (k (modStone s st (fun x => { x with stall := none }))) := by
  unfold issues at hi
  simp only [Bool.and_eq_true, Bool.not_eq_true', Option.isNone_iff_eq_none] at hi
  obtain ⟨⟨⟨h0, h1⟩, h2⟩, h3⟩ := hi
  simp [run, h0, issue, h1, hok, h3]

theorem headerOk_of_issues {s : State} {st : Nat} {h : IHdr} {srcs dsts : List (Nat × Nat)}
    (hi : issues s st h srcs dsts = true) : headerOk h false = true := by
  unfold issues at hi
  simp only [Bool.and_eq_true] at hi
  exact hi.1.2

/-- A stone that issues runs and is not fenced. -/
theorem running_of_issues {s : State} {st : Nat} {h : IHdr} {srcs dsts : List (Nat × Nat)}
    (hi : issues s st h srcs dsts = true) : (stoneOf s st).run = .running ∧ isFenced s st = false := by
  unfold issues canIssue at hi
  simp only [Bool.and_eq_true, Bool.not_eq_true', decide_eq_true_eq] at hi
  exact ⟨hi.1.1.2.1.1.1.1.1, hi.1.1.2.1.1.1.2⟩

theorem releaseWait_running {x : Stone} {j : Nat} (h : ∀ i v c, x.run ≠ .waiting i v c) : releaseWait x j = x := by
  unfold releaseWait
  split
  · rename_i i v c hr
    exact absurd hr (h i v c)
  · rfl

/-- The stone after an instruction that completes at issue. -/
theorem stoneOf_signalDone {u : State} {st : Nat} {h : IHdr} (hr : ∀ i v c, (stoneOf u st).run ≠ .waiting i v c) :
    stoneOf (signalDone u st (sigOf h)) st = withSignal h (stoneOf u st) := by
  unfold signalDone sigOf withSignal
  cases h.signalEn
  · rfl
  · simp only [if_true]
    unfold addSync modStone
    rw [stoneOf_setStone_self]
    unfold updateSync
    beta_reduce
    rw [releaseWait_running]
    · rfl
    · exact hr

theorem stoneOf_signalDone_ne {u : State} {st k : Nat} {o : Option Nat} (hk : k ≠ st) :
    stoneOf (signalDone u st o) k = stoneOf u k := by
  cases o with
  | none => rfl
  | some j => exact stoneOf_modStone_ne hk _

/-- Nothing but stones differs. -/
def OnlyStones (s t : State) : Prop := t = { s with stones := t.stones }

theorem OnlyStones.trans {a b c : State} (h : OnlyStones a b) (g : OnlyStones b c) : OnlyStones a c := by
  unfold OnlyStones at *
  rw [g, h]

theorem onlyStones_modStone (s : State) (st : Nat) (f : Stone → Stone) : OnlyStones s (modStone s st f) := rfl

theorem onlyStones_signalDone (u : State) (st : Nat) (o : Option Nat) : OnlyStones u (signalDone u st o) := by
  cases o <;> rfl

/-- The parts of a stone that SIGNAL_EN leaves alone. -/
theorem withSignal_keeps (h : IHdr) (x : Stone) : (withSignal h x).run = x.run ∧ (withSignal h x).stall = x.stall ∧
    (withSignal h x).owner = x.owner ∧ (withSignal h x).dense = x.dense ∧ (withSignal h x).sparse = x.sparse := by
  unfold withSignal
  split <;> exact ⟨rfl, rfl, rfl, rfl, rfl⟩

/-- A state that differs from another in one stone, whose registers are `x`; it then settles. -/
theorem advances_settleStone {c : Instr} {s u : State} {st : Nat} {x : Stone} (he : exec c s = .next (settleStone u st))
    (hu : u = { s with stones := u.stones }) (ho : ∀ k, k ≠ st → stoneOf u k = stoneOf s k) (hx : stoneOf u st = x)
    (hb : stoneBlocked x = false) (hw : x.owner = (stoneOf s st).owner)
    (hd : x.dense = (stoneOf s st).dense) (hp : x.sparse = (stoneOf s st).sparse) (hf : isFenced s st = false) :
    Advances c s st x := by
  have hset := settles_settleStone u st
  refine ⟨_, he, by rw [hset.2, hx], ⟨fun k hk => by rw [hset.2, ho k hk], ?_, fun hs => ?_⟩⟩
  · have hm : SameMemory s u := ⟨fun a => by rw [hu]; rfl, fun a b => by rw [hu]; rfl⟩
    exact ⟨fun a => (hset.memory.1 a).trans (hm.1 a), fun a b => (hset.memory.2 a b).trans (hm.2 a b)⟩
  · have hs' : steady u st = true := by
      unfold steady at hs ⊢
      rw [hx, hw]
      rw [hu]
      exact hs
    have hf' : isFenced u st = false := by rw [hu]; exact hf
    rw [settleStone_steady hs' hf' (by rw [hx]; exact hb)]
    refine ⟨hu, fun k => ?_⟩
    by_cases e : k = st
    · subst e; rw [hx]; exact ⟨hd, hp⟩
    · rw [ho k e]; exact ⟨rfl, rfl⟩

/-- An instruction that completes at issue and changed registers of its stone only. -/
theorem advances_completeNow {c : Instr} {s u : State} {st : Nat} {h : IHdr} {x : Stone}
    (he : exec c s = .next (completeNow u st h))
    (hu : u = { s with stones := u.stones }) (ho : ∀ k, k ≠ st → stoneOf u k = stoneOf s k) (hx : stoneOf u st = x)
    (hr : x.run = .running) (hst : x.stall = none) (hw : x.owner = (stoneOf s st).owner)
    (hd : x.dense = (stoneOf s st).dense) (hp : x.sparse = (stoneOf s st).sparse) (hf : isFenced s st = false) :
    Advances c s st (withSignal h { x with pc := x.pc + 1 }) := by
  have hn : stoneOf (nextPc u st) st = { x with pc := x.pc + 1 } := by
    unfold nextPc; rw [stoneOf_modStone_self, hx]
  have k := withSignal_keeps h { x with pc := x.pc + 1 }
  refine advances_settleStone he ?_ ?_ ?_ ?_ (k.2.2.1.trans hw) (k.2.2.2.1.trans hd) (k.2.2.2.2.trans hp) hf
  · exact (OnlyStones.trans hu (onlyStones_modStone _ _ _)).trans (onlyStones_signalDone _ _ _)
  · intro j hj
    rw [stoneOf_signalDone_ne hj]
    exact (stoneOf_modStone_ne hj _).trans (ho j hj)
  · rw [stoneOf_signalDone, hn]
    rw [hn]
    intro i v c
    rw [show ({ x with pc := x.pc + 1 } : Stone).run = .running from hr]
    exact StoneRun.noConfusion
  · unfold stoneBlocked
    rw [k.1, k.2.1]
    simp [hr, hst]

theorem stoneOf_modStone2_ne (s : State) (st : Nat) (f g : Stone → Stone) (k : Nat) (hk : k ≠ st) :
    stoneOf (modStone (modStone s st g) st f) k = stoneOf s k := by
  rw [stoneOf_modStone_ne hk, stoneOf_modStone_ne hk]

/-- Clearing the stall of the issue leaves the registers. -/
theorem reg_stall (s : State) (st r : Nat) : reg (modStone s st (fun x => { x with stall := none })) st r = reg s st r := by
  unfold reg; rw [stoneOf_modStone_self]; rfl

/-- An instruction that issues, changes registers of its stone and completes. -/
theorem advances_issue {c : Instr} {s : State} {st : Nat} {h : IHdr} {srcs dsts : List (Nat × Nat)} {ok : Bool}
    {k : State → State} (f : Stone → Stone) (hi : issues s st h srcs dsts = true)
    (he : exec c s = run s fun s => issue s st ok srcs dsts k) (hok : ok = true)
    (hk : k (modStone s st (fun x => { x with stall := none })) =
      completeNow (modStone (modStone s st (fun x => { x with stall := none })) st f) st h)
    (hr : ∀ x, (f x).run = x.run ∧ (f x).stall = x.stall ∧ (f x).owner = x.owner ∧ (f x).dense = x.dense ∧
      (f x).sparse = x.sparse ∧ (f x).pc = x.pc) :
    Advances c s st (withSignal h { f { stoneOf s st with stall := none } with pc := (stoneOf s st).pc + 1 }) := by
  have hrun := running_of_issues hi
  have := advances_completeNow (s := s) (st := st) (h := h) (x := f { stoneOf s st with stall := none })
    ((he.trans (run_issue hi hok)).trans (by rw [hk])) rfl (fun k hk => stoneOf_modStone2_ne _ _ _ _ _ hk)
    (by rw [stoneOf_modStone_self, stoneOf_modStone_self]) (by rw [(hr _).1]; exact hrun.1) (by rw [(hr _).2.1])
    (by rw [(hr _).2.2.1]) (by rw [(hr _).2.2.2.1]) (by rw [(hr _).2.2.2.2.1]) hrun.2
  rw [(hr _).2.2.2.2.2] at this
  exact this

/-- An instruction that issues, sets its stone's pc itself and completes. -/
theorem advances_jump {c : Instr} {s : State} {st : Nat} {h : IHdr} {srcs dsts : List (Nat × Nat)} {ok : Bool}
    {k : State → State} (f : Stone → Stone) (hi : issues s st h srcs dsts = true)
    (he : exec c s = run s fun s => issue s st ok srcs dsts k) (hok : ok = true)
    (hk : k (modStone s st (fun x => { x with stall := none })) =
      settleStone (signalDone (modStone (modStone s st (fun x => { x with stall := none })) st f) st (sigOf h)) st)
    (hr : ∀ x, (f x).run = x.run ∧ (f x).stall = x.stall ∧ (f x).owner = x.owner ∧ (f x).dense = x.dense ∧
      (f x).sparse = x.sparse) :
    Advances c s st (withSignal h (f { stoneOf s st with stall := none })) := by
  have hrun := running_of_issues hi
  have w := withSignal_keeps h (f { stoneOf s st with stall := none })
  have hx : stoneOf (modStone (modStone s st (fun x => { x with stall := none })) st f) st =
      f { stoneOf s st with stall := none } := by rw [stoneOf_modStone_self, stoneOf_modStone_self]
  refine advances_settleStone ((he.trans (run_issue hi hok)).trans (by rw [hk])) ?_ ?_ ?_ ?_
    (w.2.2.1.trans (by rw [(hr _).2.2.1])) (w.2.2.2.1.trans (by rw [(hr _).2.2.2.1]))
    (w.2.2.2.2.trans (by rw [(hr _).2.2.2.2])) hrun.2
  · exact ((onlyStones_modStone _ _ _).trans (onlyStones_modStone _ _ _)).trans (onlyStones_signalDone _ _ _)
  · intro j hj
    rw [stoneOf_signalDone_ne hj]
    exact stoneOf_modStone2_ne _ _ _ _ _ hj
  · rw [stoneOf_signalDone, hx]
    rw [hx, (hr _).1]
    intro i v c
    rw [show ({ stoneOf s st with stall := none } : Stone).run = .running from hrun.1]
    exact StoneRun.noConfusion
  · unfold stoneBlocked
    rw [w.1, w.2.1, (hr _).1, (hr _).2.1]
    simp [hrun.1]

theorem ctxOf_endSlice (u : State) (c : Nat) : ctxOf (endSlice u c) c = { ctxOf u c with
    slice := false, stopping := (ctxOf u c).stopping || (ctxOf u c).slice,
    lastSliceEnd := if (ctxOf u c).slice then now u else (ctxOf u c).lastSliceEnd } := ctxOf_modCtx_self _ _

/-- Whether a context's stones are blocked depends on its stones only. -/
theorem allBlocked_congr {u v : State} {c : Nat} (h1 : v.stones = u.stones) (h2 : v.fenced = u.fenced) (h3 : v.fuses = u.fuses)
    (h4 : (ctxOf v c).phys = (ctxOf u c).phys) (h5 : (ctxOf v c).savedStones = (ctxOf u c).savedStones) :
    allBlocked v c = allBlocked u c := by
  unfold allBlocked ctxStones isFenced stoneFor stoneOf
  rw [h1, h2, h3, h4, h5]

/-- A RUNNING context whose stones are all blocked becomes BLOCKED, and its time is kept. -/
theorem settle_blocked {u : State} {c : Nat} (hr : (ctxOf u c).state = .running) (hb : allBlocked u c = true) :
    settle u c = { u with ctxs := (settle u c).ctxs, ent := (settle u c).ent } ∧ Settled c u (settle u c) := by
  have hq : settle u c =
      setC (modCtx (endSlice u c) c (fun y => { y with state := .blocked, stopping := false })) 0 (0x5100 + c) 0x08 (now u) := by
    unfold settle
    dsimp only
    rw [hr]
    dsimp only
    rw [if_pos hb]
  obtain ⟨X, hX⟩ : ∃ X, X = modCtx (endSlice u c) c (fun y => { y with state := .blocked, stopping := false }) := ⟨_, rfl⟩
  have hf : X = { u with ctxs := X.ctxs } := by rw [hX]; rfl
  have hs : (ctxOf X c).state = .blocked ∧ (ctxOf X c).slice = false ∧ (ctxOf X c).phys = (ctxOf u c).phys ∧
      (ctxOf X c).savedStones = (ctxOf u c).savedStones := by
    rw [hX, ctxOf_modCtx_self, ctxOf_endSlice]
    exact ⟨rfl, rfl, rfl, rfl⟩
  rw [hq, ← hX]
  clear hq hX
  have hc : ∀ i j v, ctxOf (setC X 0 i j v) c = ctxOf X c := fun _ _ _ => rfl
  refine ⟨by rw [hf]; rfl, ?_⟩
  unfold Settled
  rw [if_pos]
  · rw [hc]
    exact ⟨hs.1, hs.2.1, getC_setC_self _ _ _ _⟩
  · rw [← hb]
    refine allBlocked_congr ?_ ?_ ?_ (by rw [hc]; exact hs.2.2.1) (by rw [hc]; exact hs.2.2.2) <;> rw [hf] <;> rfl

/-- A RUNNING context with a stone that can issue stays as it is. -/
theorem settle_runs {u : State} {c : Nat} (hr : (ctxOf u c).state = .running) (hb : allBlocked u c = false) : settle u c = u := by
  unfold settle
  dsimp only
  rw [hr]
  dsimp only
  rw [if_neg (by simp [hb])]

/-- A stone that issues no further: its context settles. -/
theorem rests_settleStone {c : Instr} {s u : State} {st : Nat} {x : Stone} (he : exec c s = .next (settleStone u st))
    (hu : u = { s with stones := u.stones }) (ho : ∀ k, k ≠ st → stoneOf u k = stoneOf s k) (hx : stoneOf u st = x)
    (hw : x.owner = (stoneOf s st).owner)
    (hd : x.dense = (stoneOf s st).dense) (hp : x.sparse = (stoneOf s st).sparse) : Rests c s st x := by
  have hset := settles_settleStone u st
  have hm : SameMemory s u := ⟨fun a => by rw [hu]; rfl, fun a b => by rw [hu]; rfl⟩
  refine ⟨_, he, by rw [hset.2, hx], fun k hk => by rw [hset.2, ho k hk],
    ⟨fun a => (hset.memory.1 a).trans (hm.1 a), fun a b => (hset.memory.2 a b).trans (hm.2 a b)⟩, fun hs => ?_⟩
  have hdp : ∀ k, (stoneOf u k).dense = (stoneOf s k).dense ∧ (stoneOf u k).sparse = (stoneOf s k).sparse := by
    intro k
    by_cases e : k = st
    · subst e; rw [hx]; exact ⟨hd, hp⟩
    · rw [ho k e]; exact ⟨rfl, rfl⟩
  unfold steady at hs
  cases hc : (stoneOf s st).owner with
  | none => rw [hc] at hs; exact absurd hs (by simp)
  | some c =>
    have hc' : (stoneOf u st).owner = some c := by rw [hx, hw, hc]
    simp only [hc, Bool.and_eq_true, decide_eq_true_eq] at hs
    have hr : (ctxOf u c).state = .running := by rw [hu]; exact hs.1
    have hq : settleStone u st = settle u c := by
      unfold settleStone
      rw [hc']
    rw [hq]
    have hnow : now u = now s := by rw [hu]; rfl
    have hctx : ctxOf u c = ctxOf s c := by rw [hu]; rfl
    cases hb : allBlocked u c with
    | true =>
      obtain ⟨g1, g2⟩ := settle_blocked hr hb
      refine ⟨by rw [g1, hu], fun k => ?_, fun k hk => ?_⟩
      · have : stoneOf (settle u c) k = stoneOf u k := by rw [g1]; rfl
        rw [this]
        exact hdp k
      · cases hk
        unfold Settled at g2 ⊢
        rw [← hnow, ← hctx]
        exact g2
    | false =>
      rw [settle_runs hr hb]
      refine ⟨by rw [hu], hdp, fun k hk => ?_⟩
      cases hk
      unfold Settled
      rw [if_neg (by simp [hb])]
      exact hctx

/-- An instruction that issues and after which its stone issues no further. -/
theorem rests_issue {c : Instr} {s : State} {st : Nat} {h : IHdr} {srcs dsts : List (Nat × Nat)} {ok : Bool}
    {k : State → State} (f : Stone → Stone) (hi : issues s st h srcs dsts = true)
    (he : exec c s = run s fun s => issue s st ok srcs dsts k) (hok : ok = true)
    (hk : k (modStone s st (fun x => { x with stall := none })) =
      settleStone (modStone (modStone s st (fun x => { x with stall := none })) st f) st)
    (hr : ∀ x, (f x).owner = x.owner ∧ (f x).dense = x.dense ∧ (f x).sparse = x.sparse) :
    Rests c s st (f { stoneOf s st with stall := none }) :=
  rests_settleStone ((he.trans (run_issue hi hok)).trans (by rw [hk]))
    ((onlyStones_modStone _ _ _).trans (onlyStones_modStone _ _ _)) (fun k hk => stoneOf_modStone2_ne _ _ _ _ _ hk)
    (by rw [stoneOf_modStone_self, stoneOf_modStone_self]) (by rw [(hr _).1]) (by rw [(hr _).2.1]) (by rw [(hr _).2.2])

/-- As `rests_issue`, where the instruction has completed, so that its SIGNAL_EN is applied. -/
theorem rests_signal {c : Instr} {s : State} {st : Nat} {h : IHdr} {srcs dsts : List (Nat × Nat)} {ok : Bool}
    {k : State → State} (f : Stone → Stone) (hi : issues s st h srcs dsts = true)
    (he : exec c s = run s fun s => issue s st ok srcs dsts k) (hok : ok = true)
    (hk : k (modStone s st (fun x => { x with stall := none })) =
      settleStone (signalDone (modStone (modStone s st (fun x => { x with stall := none })) st f) st (sigOf h)) st)
    (hw : ∀ x i v c, (f x).run ≠ .waiting i v c)
    (hr : ∀ x, (f x).owner = x.owner ∧ (f x).dense = x.dense ∧ (f x).sparse = x.sparse) :
    Rests c s st (withSignal h (f { stoneOf s st with stall := none })) := by
  have w := withSignal_keeps h (f { stoneOf s st with stall := none })
  have hx : stoneOf (modStone (modStone s st (fun x => { x with stall := none })) st f) st =
      f { stoneOf s st with stall := none } := by rw [stoneOf_modStone_self, stoneOf_modStone_self]
  refine rests_settleStone ((he.trans (run_issue hi hok)).trans (by rw [hk])) ?_ ?_ ?_
    (w.2.2.1.trans (by rw [(hr _).1])) (w.2.2.2.1.trans (by rw [(hr _).2.1])) (w.2.2.2.2.trans (by rw [(hr _).2.2]))
  · exact ((onlyStones_modStone _ _ _).trans (onlyStones_modStone _ _ _)).trans (onlyStones_signalDone _ _ _)
  · intro j hj
    rw [stoneOf_signalDone_ne hj]
    exact stoneOf_modStone2_ne _ _ _ _ _ hj
  · rw [stoneOf_signalDone, hx]
    rw [hx]
    exact hw _

/-- What `memIssues` says, for a MEMORY or SYNC instruction. -/
theorem run_memIssue {s : State} {st : Nat} {h : IHdr} {srcs dsts : List (Nat × Nat)} {ok : Bool} {k : State → State}
    (hi : memIssues s st h srcs dsts = true) (hok : ok = true) :
    run s (fun s => memIssue s st ok srcs dsts k) = .next (k (issued s st)) := by
  unfold memIssues at hi
  rw [Bool.and_eq_true, Bool.not_eq_true'] at hi
  unfold memIssue
  refine (run_issue hi.1 hok).trans ?_
  rw [stoneOf_modStone_self, if_neg (by simp [hi.2])]
  rfl

theorem issues_of_memIssues {s : State} {st : Nat} {h : IHdr} {srcs dsts : List (Nat × Nat)}
    (hi : memIssues s st h srcs dsts = true) : issues s st h srcs dsts = true := by
  unfold memIssues at hi
  rw [Bool.and_eq_true] at hi
  exact hi.1

/-- A MEMORY or SYNC instruction that issues, changes registers of its stone and completes. -/
theorem advances_memIssue {c : Instr} {s : State} {st : Nat} {h : IHdr} {srcs dsts : List (Nat × Nat)} {ok : Bool}
    {k : State → State} (f : Stone → Stone) (hi : memIssues s st h srcs dsts = true)
    (he : exec c s = run s fun s => memIssue s st ok srcs dsts k) (hok : ok = true)
    (hk : k (issued s st) = completeNow (modStone (issued s st) st f) st h)
    (hr : ∀ x, x.run = .running → (f x).run = .running ∧ (f x).stall = x.stall ∧ (f x).owner = x.owner ∧ (f x).dense = x.dense ∧
      (f x).sparse = x.sparse ∧ (f x).pc = x.pc) :
    Advances c s st (withSignal h { f { stoneOf s st with stall := none } with pc := (stoneOf s st).pc + 1 }) := by
  have hrun := running_of_issues (issues_of_memIssues hi)
  obtain ⟨h1, h2, h3, h4, h5, h6⟩ := hr { stoneOf s st with stall := none } hrun.1
  have := advances_completeNow (s := s) (st := st) (h := h) (x := f { stoneOf s st with stall := none })
    ((he.trans (run_memIssue hi hok)).trans (congrArg Host.Outcome.next hk)) rfl (fun k hk => stoneOf_modStone2_ne _ _ _ _ _ hk)
    ((stoneOf_modStone_self _ _).trans (congrArg f (stoneOf_modStone_self _ _))) h1 h2 h3 h4 h5 hrun.2
  rw [h6] at this
  exact this

theorem up_of_issues {s : State} {st : Nat} {h : IHdr} {srcs dsts : List (Nat × Nat)}
    (hi : issues s st h srcs dsts = true) : s.resetLow = false := by
  unfold issues at hi
  simp only [Bool.and_eq_true, Bool.not_eq_true'] at hi
  exact hi.1.1.1

/-- An instruction that issues goes on to its effect. -/
theorem issue_up {s : State} {st : Nat} {h : IHdr} {srcs dsts : List (Nat × Nat)} {ok : Bool} {k : State → State}
    (hi : issues s st h srcs dsts = true) (hok : ok = true) : issue s st ok srcs dsts k = k (issued s st) := by
  have := run_issue (k := k) hi hok
  rw [run_up (up_of_issues hi)] at this
  exact Host.Outcome.next.inj this

theorem memIssue_up {s : State} {st : Nat} {h : IHdr} {srcs dsts : List (Nat × Nat)} {ok : Bool} {k : State → State}
    (hi : memIssues s st h srcs dsts = true) (hok : ok = true) : memIssue s st ok srcs dsts k = k (issued s st) := by
  have := run_memIssue (k := k) hi hok
  rw [run_up (up_of_issues (issues_of_memIssues hi))] at this
  exact Host.Outcome.next.inj this

theorem pc_issued (s : State) (st : Nat) : (stoneOf (issued s st) st).pc = (stoneOf s st).pc := by
  unfold issued; rw [stoneOf_modStone_self]

end Sys2Proof.Machine
end

