-- ==== Sys2Proof/Laws/Keeps.lean ====
section
/-! SUPPORT. What every command keeps, whatever it does: the queue, the reset pin, the fused data (only the fused security
version moves, and never down), and the canonical form of tier 1, stone SRAM and the dictionary values. Here stand the
relation, its laws and the writers of the stores; the other files of this name have one lemma per operation. -/

namespace Sys2Proof.Machine

/-- The fuses hold what they held, but for a fused security version that may have risen (18 R560). -/
def FusesKept (a b : Fuses) : Prop :=
  a.fusedSecurityVersion ≤ b.fusedSecurityVersion ∧ { b with fusedSecurityVersion := a.fusedSecurityVersion } = a

theorem FusesKept.refl (a : Fuses) : FusesKept a a := ⟨Nat.le_refl _, rfl⟩

theorem FusesKept.trans {a b c : Fuses} (h : FusesKept a b) (g : FusesKept b c) : FusesKept a c := by
  refine ⟨Nat.le_trans h.1 g.1, ?_⟩
  have h2 := h.2
  have g2 := g.2
  cases a; cases b; cases c
  simp only [Fuses.mk.injEq] at h2 g2 ⊢
  simp_all

/-- What every command but the two of the reset pin keeps from `s` to `t`. -/
structure Keeps (s t : State) : Prop where
  pending : t.pending = s.pending
  resetLow : t.resetLow = s.resetLow
  trayId : t.trayId = s.trayId
  fuses : FusesKept s.fuses t.fuses
  canon : Canonical s → Canonical t

theorem Keeps.refl (s : State) : Keeps s s := ⟨rfl, rfl, rfl, FusesKept.refl _, id⟩

theorem Keeps.trans {a b c : State} (h : Keeps a b) (g : Keeps b c) : Keeps a c :=
  ⟨g.pending.trans h.pending, g.resetLow.trans h.resetLow, g.trayId.trans h.trayId, h.fuses.trans g.fuses, fun x => g.canon (h.canon x)⟩

/-- An update of any other field. -/
theorem keeps_of {s0 s t : State} (h : Keeps s0 s) (h1 : t.pending = s.pending) (h2 : t.resetLow = s.resetLow)
    (h3 : t.trayId = s.trayId) (h4 : t.fuses = s.fuses) (h5 : t.mem = s.mem) (h6 : t.sram = s.sram) (h7 : t.ent = s.ent) :
    Keeps s0 t :=
  h.trans ⟨h1, h2, h3, h4 ▸ FusesKept.refl _, fun c => by simpa only [Canonical, Memory.wf, Sram.wf, Entries.wf, h5, h6, h7] using c⟩

/-- `keeps_of` for a state written out as a record update. -/
theorem keeps_mk {s0 s : State}
    {nonce_ : Nat} {mode_ : Mode} {out_ : List Out} {slotMem_ : List Host.Cell} {fenced_ : List Nat}
    {badWords_ : List (Nat × Bool)} {wordErrs_ : List Nat} {recC_ : FaultRec} {recU_ : FaultRec} {recF_ : FaultRec}
    {deadPairs_ : List (Nat × Nat)} {cAckDue_ : Bool} {mpFailed_ : List Nat} {switchDead_ : List Nat}
    {pondFaults_ : Tbl Nat} {lastSummary_ : Nat} {holds_ : List Nat} {irqStacks_ : Tbl IrqStack}
    {served_ : List (Nat × Nat)} {delivering_ : List (Nat × Nat)} {dictRefusal_ : Bool} {replay_ : List ReplaySrc}
    {mslots_ : Tbl MSlot} {dictQ_ : List Nat} {deferred_ : List Deferred} {relays_ : List Relay} {ports_ : Tbl Port}
    {injQ_ : List (Nat × Packet)} {stalledInj_ : List (Nat × Packet)} {bridgeQ_ : List (Nat × QItem)}
    {delivered_ : List Packet} {tables_ : Tbl Nat} {aqs_ : Tbl (BitVec 128)} {aqQ_ : Tbl (List AqPacket)}
    {aqGot_ : Tbl (List AqPacket)} {aqBurst_ : Tbl (Nat × Nat)} {aqSent_ : Tbl (Nat × Nat)}
    {dropsSeen_ : List (Nat × Nat)} {tagDropSeen_ : Bool} {epochStep_ : Option EpochStep}
    {windows_ : Tbl (BitVec 128)} {windowFaultSeen_ : Bool} {memErrors_ : Tbl (Nat × Nat × Nat)}
    {senders_ : Tbl Sender} {ledger_ : List LedgerEnt} {ledgerWait_ : List (MemReq × Nat)} {lineQ_ : List LineReq}
    {homeReqs_ : List HomeReq} {hotLines_ : List Nat} {groupLists_ : Tbl (List Nat)} {colls_ : List Coll}
    {collEnds_ : List CollEnd} {mcasts_ : List Mcast} {mcastNext_ : Nat} {heldMsgs_ : List HeldMsg}
    {fencedLegs_ : List (Nat × Nat × Nat × Nat)} {backoffs_ : List (CollKey × Nat)} {jobTag_ : Nat}
    {starts_ : Tbl StartState} {jobList_ : List Nat} {jobStep_ : Option JobStep} {jobMember_ : Option JobStep}
    {jobSeen_ : Option (Nat × Nat × Bool)} {jobMembers_ : Nat} {keystoneSilent_ : Bool} {newKeystone_ : Bool}
    {ctxs_ : Tbl Ctx} {loading_ : Option Loading} {rings_ : Tbl Ring} {mailboxes_ : Tbl Mailbox} {posts_ : List Post}
    {teardown_ : Bool} {routers_ : Tbl Router} {toks_ : List Tok} {confs_ : List Conf} {gens_ : List Gen}
    {cancels_ : List (Nat × Nat × Nat)} {notIntact_ : List (Nat × Nat × Nat)} {bundles_ : List Bundle}
    {barriers_ : List Barrier} {claims_ : List Claim} {admitted_ : List Admitted} {slots_ : List Nat}
    {runs_ : List RunSt} {qTails_ : Tbl Nat} {pupdates_ : List PUpdate}
    {blocksReading_ : List (Nat × Nat × Nat × Nat)} {fetchQ_ : List Fetch} {fetchHeld_ : List Fetch}
    {fills_ : List Fill} {wins_ : Tbl Win} {writebacks_ : List (Nat × Nat)} {kvWaits_ : List KvWait}
    {stones_ : Tbl Stone} {arrays_ : Tbl ArrayRegs} {dmas_ : List Dma} {dmaLast_ : Tbl Nat} {pools_ : Tbl Pool}
    {umora_ : Umora} {clock_ : Clock} {power_ : Power} {sec_ : Security}
    (h : Keeps s0 s) :
    Keeps s0 (State.mk
      s.pending nonce_ s.resetLow s.trayId s.fuses mode_ s.ent out_ s.mem s.sram slotMem_ fenced_ badWords_ wordErrs_
      recC_ recU_ recF_ deadPairs_ cAckDue_ mpFailed_ switchDead_ pondFaults_ lastSummary_ holds_ irqStacks_ served_
      delivering_ dictRefusal_ replay_ mslots_ dictQ_ deferred_ relays_ ports_ injQ_ stalledInj_ bridgeQ_ delivered_
      tables_ aqs_ aqQ_ aqGot_ aqBurst_ aqSent_ dropsSeen_ tagDropSeen_ epochStep_ windows_ windowFaultSeen_
      memErrors_ senders_ ledger_ ledgerWait_ lineQ_ homeReqs_ hotLines_ groupLists_ colls_ collEnds_ mcasts_
      mcastNext_ heldMsgs_ fencedLegs_ backoffs_ jobTag_ starts_ jobList_ jobStep_ jobMember_ jobSeen_ jobMembers_
      keystoneSilent_ newKeystone_ ctxs_ loading_ rings_ mailboxes_ posts_ teardown_ routers_ toks_ confs_ gens_
      cancels_ notIntact_ bundles_ barriers_ claims_ admitted_ slots_ runs_ qTails_ pupdates_ blocksReading_ fetchQ_
      fetchHeld_ fills_ wins_ writebacks_ kvWaits_ stones_ arrays_ dmas_ dmaLast_ pools_ umora_ clock_ power_ sec_) :=
  keeps_of h rfl rfl rfl rfl rfl rfl rfl

theorem keeps_cut {s0 x v : State} {G : Prop} (e : x = v) (h1 : Keeps s0 v) (h2 : Keeps s0 x → G) : G := by
  subst e; exact h2 h1

theorem keeps_cutFun {s0 : State} {x v : State → State} {G : Prop} (e : x = v) (h1 : ∀ t, Keeps s0 t → Keeps s0 (v t))
    (h2 : (∀ t, Keeps s0 t → Keeps s0 (x t)) → G) : G := by
  subst e; exact h2 h1

theorem keeps_cutFun2 {α : Type} {s0 : State} {x v : State → α → State} {G : Prop} (e : x = v)
    (h1 : ∀ t a, Keeps s0 t → Keeps s0 (v t a)) (h2 : (∀ t a, Keeps s0 t → Keeps s0 (x t a)) → G) : G := by
  subst e; exact h2 h1

theorem keeps_cutFun3 {α : Type} {s0 : State} {x v : α → State → State} {G : Prop} (e : x = v)
    (h1 : ∀ a t, Keeps s0 t → Keeps s0 (v a t)) (h2 : (∀ a t, Keeps s0 t → Keeps s0 (x a t)) → G) : G := by
  subst e; exact h2 h1

theorem keeps_fst {α : Type} {s0 t : State} {p : State × α} {a : α} (e : p = (t, a)) (h : Keeps s0 p.1) : Keeps s0 t := by
  subst e; exact h

/-- The state inside an action. -/
def Act.state : Act → State
  | .done s => s
  | .later s => s
  | .refuse _ s => s

/-- The action keeps what a command keeps. -/
structure KeepsAct (s0 : State) (a : Act) : Prop where
  of : Keeps s0 a.state

theorem keeps_actDone {s0 s : State} (h : Keeps s0 s) : KeepsAct s0 (.done s) := ⟨h⟩
theorem keeps_actLater {s0 s : State} (h : Keeps s0 s) : KeepsAct s0 (.later s) := ⟨h⟩
theorem keeps_actRefuse {s0 s : State} {c : Nat} (h : Keeps s0 s) : KeepsAct s0 (.refuse c s) := ⟨h⟩

theorem keeps_iteFn {s0 s : State} {c : Prop} [Decidable c] {f g : State → Act} (hf : KeepsAct s0 (f s))
    (hg : KeepsAct s0 (g s)) : KeepsAct s0 ((if c then f else g) s) := by
  by_cases h : c
  · rw [if_pos h]; exact hf
  · rw [if_neg h]; exact hg

theorem keeps_of_done {s0 s : State} {a : Act} (e : a = .done s) (h : KeepsAct s0 a) : Keeps s0 s := by subst e; exact h.of
theorem keeps_of_later {s0 s : State} {a : Act} (e : a = .later s) (h : KeepsAct s0 a) : Keeps s0 s := by subst e; exact h.of
theorem keeps_of_refuse {s0 s : State} {a : Act} {c : Nat} (e : a = .refuse c s) (h : KeepsAct s0 a) : Keeps s0 s := by
  subst e; exact h.of

/-- A state that may not come is kept where it comes. -/
structure KeepsOpt (s0 : State) (o : Option State) : Prop where
  of : ∀ t, o = some t → Keeps s0 t

theorem keeps_some {s0 s : State} (h : Keeps s0 s) : KeepsOpt s0 (some s) := ⟨by
  intro t e; cases e; exact h⟩
theorem keeps_none {s0 : State} : KeepsOpt s0 none := ⟨by
  intro t e; cases e⟩
theorem keeps_of_some {s0 t : State} {o : Option State} (e : o = some t) (h : KeepsOpt s0 o) : Keeps s0 t := h.of t e
theorem keeps_cutOpt {s0 : State} {x v : Option State} {G : Prop} (e : x = v) (h1 : KeepsOpt s0 v) (h2 : KeepsOpt s0 x → G) :
    G := by
  subst e; exact h2 h1

theorem keeps_cutPair {α : Type} {s0 : State} {x v : State × α} {G : Prop} (e : x = v) (h1 : Keeps s0 v.1)
    (h2 : Keeps s0 x.1 → G) : G := by
  subst e; exact h2 h1

theorem keeps_getD {s0 s : State} {o : Option State} (h : KeepsOpt s0 o) (g : Keeps s0 s) : Keeps s0 (o.getD s) := by
  cases o with
  | none => exact g
  | some t => exact h.of t rfl
theorem keeps_map {α : Type} {s0 : State} {o : Option α} {f : α → State} (h : ∀ a, Keeps s0 (f a)) : KeepsOpt s0 (o.map f) := by
  cases o with
  | none => exact keeps_none
  | some a => exact keeps_some (h a)

theorem keeps_findSome {α : Type} {s0 : State} {f : α → Option State} (h : ∀ a, KeepsOpt s0 (f a)) (l : List α) :
    KeepsOpt s0 (l.findSome? f) := ⟨by
  intro t e
  obtain ⟨a, -, g⟩ := List.exists_of_findSome?_eq_some e
  exact (h a).of t g⟩

/-- The outcome keeps what a command keeps. -/
structure KeepsRes (s0 : State) (r : Res) : Prop where
  of : ∀ t, r = .next t → Keeps s0 t

theorem keeps_next {s0 s : State} (h : Keeps s0 s) : KeepsRes s0 (.next s) := ⟨by
  intro t e; cases e; exact h⟩
theorem keeps_fault {s0 : State} {r : Fault} : KeepsRes s0 (.fault r) := ⟨by
  intro t e; cases e⟩

theorem keeps_run {s0 s : State} {f : State → State} (h : Keeps s0 s) (hf : ∀ t, Keeps s0 t → Keeps s0 (f t)) :
    KeepsRes s0 (run s f) := by
  unfold run
  split
  · exact keeps_next h
  · exact keeps_next (hf s h)

theorem keeps_foldl {α : Type} {s0 : State} {f : State → α → State} (hf : ∀ t a, Keeps s0 t → Keeps s0 (f t a)) (l : List α) :
    ∀ {s : State}, Keeps s0 s → Keeps s0 (l.foldl f s) := by
  induction l with
  | nil => intro s h; exact h
  | cons a l ih => intro s h; exact ih (hf s a h)

theorem keeps_foldr {α : Type} {s0 : State} {f : α → State → State} (hf : ∀ a t, Keeps s0 t → Keeps s0 (f a t)) (l : List α)
    {s : State} (h : Keeps s0 s) : Keeps s0 (l.foldr f s) := by
  induction l with
  | nil => exact h
  | cons a l ih => exact hf a _ ih

theorem keeps_forEach {α : Type} {s0 s : State} {l : List α} {f : State → α → State} (h : Keeps s0 s)
    (hf : ∀ t a, Keeps s0 t → Keeps s0 (f t a)) : Keeps s0 (forEach s l f) := keeps_foldl hf l h

theorem keeps_foldlFst {α β : Type} {s0 : State} {f : State × β → α → State × β}
    (hf : ∀ p a, Keeps s0 p.1 → Keeps s0 (f p a).1) (l : List α) : ∀ {p : State × β}, Keeps s0 p.1 → Keeps s0 (l.foldl f p).1 := by
  induction l with
  | nil => intro p h; exact h
  | cons a l ih => intro p h; exact ih (hf p a h)

/-! ### The writers of the stores -/

theorem keeps_setC {s0 s : State} {c i j v : Nat} (h : Keeps s0 s) : Keeps s0 (setC s c i j v) :=
  h.trans ⟨rfl, rfl, rfl, FusesKept.refl _, fun k => ⟨k.1, k.2.1, tsorted_tput k.2.2.1 _ _, tclean_tput k.2.2.2 _ _⟩⟩

theorem keeps_entOf {s0 s t : State} (h : Keeps s0 s) (p : Nat × Nat → Bool) (h1 : t.pending = s.pending)
    (h2 : t.resetLow = s.resetLow) (h3 : t.trayId = s.trayId) (h4 : t.fuses = s.fuses) (h5 : t.mem = s.mem) (h6 : t.sram = s.sram)
    (h7 : t.ent = s.ent.filter p) : Keeps s0 t :=
  h.trans ⟨h1, h2, h3, h4 ▸ FusesKept.refl _, fun k => by
    refine ⟨?_, ?_, ?_⟩
    · simpa only [Memory.wf, h5] using k.1
    · simpa only [Sram.wf, h6] using k.2.1
    · simpa only [Entries.wf, h7] using ⟨tsorted_filter k.2.2.1 _, tclean_filter k.2.2.2 _⟩⟩

theorem tsorted_memPut (bs : List Byte) : ∀ {m : List Host.Cell} (a : Nat), tsorted m → tsorted (memPut m a bs) := by
  induction bs with
  | nil => intro m a h; exact h
  | cons b t ih => intro m a h; exact ih _ (tsorted_tins h a b)

theorem sorted_sramPut (bs : List Byte) : ∀ {m : List Host.Cell} (a : Nat), tsorted m ∧ tclean (fun _ => 0) m →
    tsorted (sramPut m a bs) ∧ tclean (fun _ => 0) (sramPut m a bs) := by
  induction bs with
  | nil => intro m a h; exact h
  | cons b t ih => intro m a h; exact ih _ ⟨tsorted_tput h.1 a b, tclean_tput (d := fun _ => 0) h.2 a b⟩

theorem keeps_memPut {s0 s t : State} (a : Nat) (bs : List Byte) (h : Keeps s0 s) (h1 : t.pending = s.pending)
    (h2 : t.resetLow = s.resetLow) (h3 : t.trayId = s.trayId) (h4 : t.fuses = s.fuses) (h5 : t.mem = memPut s.mem a bs)
    (h6 : t.sram = s.sram) (h7 : t.ent = s.ent) : Keeps s0 t :=
  h.trans ⟨h1, h2, h3, h4 ▸ FusesKept.refl _, fun k => by
    refine ⟨?_, ?_, ?_⟩
    · simpa only [Memory.wf, h5] using tsorted_memPut bs a k.1
    · simpa only [Sram.wf, h6] using k.2.1
    · simpa only [Entries.wf, h7] using k.2.2⟩

theorem keeps_sramPut {s0 s t : State} (a : Nat) (bs : List Byte) (h : Keeps s0 s) (h1 : t.pending = s.pending)
    (h2 : t.resetLow = s.resetLow) (h3 : t.trayId = s.trayId) (h4 : t.fuses = s.fuses) (h5 : t.mem = s.mem)
    (h6 : t.sram = sramPut s.sram a bs) (h7 : t.ent = s.ent) : Keeps s0 t :=
  h.trans ⟨h1, h2, h3, h4 ▸ FusesKept.refl _, fun k => by
    refine ⟨?_, ?_, ?_⟩
    · simpa only [Memory.wf, h5] using k.1
    · simpa only [Sram.wf, h6] using sorted_sramPut bs a k.2.1
    · simpa only [Entries.wf, h7] using k.2.2⟩

/-- Tier 1, stone SRAM, or both are emptied (13 R430, 17 R547, 18 R564). -/
theorem keeps_wipe {s0 s t : State} (h : Keeps s0 s) (h1 : t.pending = s.pending) (h2 : t.resetLow = s.resetLow)
    (h3 : t.trayId = s.trayId) (h4 : t.fuses = s.fuses) (h5 : t.mem = s.mem ∨ t.mem = []) (h6 : t.sram = s.sram ∨ t.sram = [])
    (h7 : t.ent = s.ent) : Keeps s0 t :=
  h.trans ⟨h1, h2, h3, h4 ▸ FusesKept.refl _, fun k => by
    refine ⟨?_, ?_, ?_⟩
    · rcases h5 with e | e
      · simpa only [Memory.wf, e] using k.1
      · simp [Memory.wf, e, tsorted]
    · rcases h6 with e | e
      · simpa only [Sram.wf, e] using k.2.1
      · simp [Sram.wf, e, tsorted, tclean]
    · simpa only [Entries.wf, h7] using k.2.2⟩

end Sys2Proof.Machine
end

