-- ==== Sys2Proof/Laws/KeepsOps.lean ====
section
/-! SUPPORT. One lemma per operation of shared operations: it keeps what every command keeps (Laws/Keeps.lean). -/

namespace Sys2Proof.Machine

/-! ### Machine/Ops.lean -/

theorem keeps_setE {s0 : State} {s : State} {idx sub v : Nat} (hs : Keeps s0 s) :
    Keeps s0 (setE s idx sub v) := by
  unfold setE
  repeat' first
    | with_reducible assumption
    | with_reducible apply keeps_setC

theorem keeps_countBy {s0 : State} {s : State} {idx sub n : Nat} (hs : Keeps s0 s) :
    Keeps s0 (countBy s idx sub n) := by
  unfold countBy
  repeat' first
    | with_reducible assumption
    | with_reducible apply keeps_setE

theorem keeps_count {s0 : State} {s : State} {idx sub : Nat} (hs : Keeps s0 s) :
    Keeps s0 (count s idx sub) := by
  unfold count
  repeat' first
    | with_reducible assumption
    | with_reducible apply keeps_countBy

theorem keeps_emitFor {s0 : State} {s : State} {ctx : Option Nat} {o : Out} (hs : Keeps s0 s) :
    Keeps s0 (emitFor s ctx o) := by
  unfold emitFor
  repeat' first
    | with_reducible assumption
    | ((try lift_lets -underBinder); intro x; clear_value (hx : x = _); refine keeps_cut (s0 := s0) hx ?_ ?_ <;> clear hx)
    | ((try lift_lets -underBinder); intro x; clear_value x)
    | (intro x; try beta_reduce)
    | (with_reducible apply keeps_mk; first | with_reducible assumption)

theorem keeps_emit {s0 : State} {s : State} {o : Out} (hs : Keeps s0 s) :
    Keeps s0 (emit s o) := by
  unfold emit
  repeat' first
    | with_reducible assumption
    | with_reducible apply keeps_emitFor

theorem keeps_hostTaken {s0 : State} {s : State} {posted : Bool} (hs : Keeps s0 s) :
    Keeps s0 (hostTaken s posted) := by
  unfold hostTaken
  repeat' first
    | with_reducible assumption
    | ((try lift_lets -underBinder); intro x; clear_value (hx : x = _); refine keeps_cut (s0 := s0) hx ?_ ?_ <;> clear hx)
    | ((try lift_lets -underBinder); intro x; clear_value x)
    | (intro x; try beta_reduce)
    | split
    | (with_reducible apply keeps_mk; first | with_reducible assumption)

theorem keeps_readHost {s0 : State} {s : State} {addr len : Nat} (hs : Keeps s0 s) :
    Keeps s0 (readHost s addr len) := by
  unfold readHost
  repeat' first
    | with_reducible assumption
    | with_reducible apply keeps_emit

theorem keeps_fresh {s0 : State} {s : State} (hs : Keeps s0 s) :
    Keeps s0 (fresh s) := by
  unfold fresh
  repeat' first
    | with_reducible assumption
    | ((try lift_lets -underBinder); intro x; clear_value (hx : x = _); refine keeps_cut (s0 := s0) hx ?_ ?_ <;> clear hx)
    | ((try lift_lets -underBinder); intro x; clear_value x)
    | (intro x; try beta_reduce)
    | (with_reducible apply keeps_mk; first | with_reducible assumption)

theorem keeps_memWrite {s0 s : State} {a : Nat} {bs : List Byte} (hs : Keeps s0 s) : Keeps s0 (memWrite s a bs) := by
  unfold memWrite
  split
  · exact keeps_memPut a bs hs rfl rfl rfl rfl rfl rfl rfl
  · exact hs

theorem keeps_setStone {s0 : State} {s : State} {st : Nat} {x : Stone} (hs : Keeps s0 s) :
    Keeps s0 (setStone s st x) := by
  unfold setStone
  repeat' first
    | with_reducible assumption
    | ((try lift_lets -underBinder); intro x; clear_value (hx : x = _); refine keeps_cut (s0 := s0) hx ?_ ?_ <;> clear hx)
    | ((try lift_lets -underBinder); intro x; clear_value x)
    | (intro x; try beta_reduce)
    | (with_reducible apply keeps_mk; first | with_reducible assumption)

theorem keeps_modStone {s0 : State} {s : State} {st : Nat} {f : Stone → Stone} (hs : Keeps s0 s) :
    Keeps s0 (modStone s st f) := by
  unfold modStone
  repeat' first
    | with_reducible assumption
    | with_reducible apply keeps_setStone

theorem keeps_setCtx {s0 : State} {s : State} {c : Nat} {x : Ctx} (hs : Keeps s0 s) :
    Keeps s0 (setCtx s c x) := by
  unfold setCtx
  repeat' first
    | with_reducible assumption
    | ((try lift_lets -underBinder); intro x; clear_value (hx : x = _); refine keeps_cut (s0 := s0) hx ?_ ?_ <;> clear hx)
    | ((try lift_lets -underBinder); intro x; clear_value x)
    | (intro x; try beta_reduce)
    | (with_reducible apply keeps_mk; first | with_reducible assumption)

theorem keeps_modCtx {s0 : State} {s : State} {c : Nat} {f : Ctx → Ctx} (hs : Keeps s0 s) :
    Keeps s0 (modCtx s c f) := by
  unfold modCtx
  repeat' first
    | with_reducible assumption
    | with_reducible apply keeps_setCtx

theorem keeps_setPort {s0 : State} {s : State} {p : Nat} {x : Port} (hs : Keeps s0 s) :
    Keeps s0 (setPort s p x) := by
  unfold setPort
  repeat' first
    | with_reducible assumption
    | ((try lift_lets -underBinder); intro x; clear_value (hx : x = _); refine keeps_cut (s0 := s0) hx ?_ ?_ <;> clear hx)
    | ((try lift_lets -underBinder); intro x; clear_value x)
    | (intro x; try beta_reduce)
    | (with_reducible apply keeps_mk; first | with_reducible assumption)

theorem keeps_modPort {s0 : State} {s : State} {p : Nat} {f : Port → Port} (hs : Keeps s0 s) :
    Keeps s0 (modPort s p f) := by
  unfold modPort
  repeat' first
    | with_reducible assumption
    | with_reducible apply keeps_setPort

theorem keeps_setPool {s0 : State} {s : State} {p : Nat} {x : Pool} (hs : Keeps s0 s) :
    Keeps s0 (setPool s p x) := by
  unfold setPool
  repeat' first
    | with_reducible assumption
    | ((try lift_lets -underBinder); intro x; clear_value (hx : x = _); refine keeps_cut (s0 := s0) hx ?_ ?_ <;> clear hx)
    | ((try lift_lets -underBinder); intro x; clear_value x)
    | (intro x; try beta_reduce)
    | (with_reducible apply keeps_mk; first | with_reducible assumption)

theorem keeps_setRouter {s0 : State} {s : State} {b : Nat} {x : Router} (hs : Keeps s0 s) :
    Keeps s0 (setRouter s b x) := by
  unfold setRouter
  repeat' first
    | with_reducible assumption
    | ((try lift_lets -underBinder); intro x; clear_value (hx : x = _); refine keeps_cut (s0 := s0) hx ?_ ?_ <;> clear hx)
    | ((try lift_lets -underBinder); intro x; clear_value x)
    | (intro x; try beta_reduce)
    | (with_reducible apply keeps_mk; first | with_reducible assumption)

theorem keeps_setRing {s0 : State} {s : State} {c : Nat} {x : Ring} (hs : Keeps s0 s) :
    Keeps s0 (setRing s c x) := by
  unfold setRing
  repeat' first
    | with_reducible assumption
    | ((try lift_lets -underBinder); intro x; clear_value (hx : x = _); refine keeps_cut (s0 := s0) hx ?_ ?_ <;> clear hx)
    | ((try lift_lets -underBinder); intro x; clear_value x)
    | (intro x; try beta_reduce)
    | (with_reducible apply keeps_mk; first | with_reducible assumption)

theorem keeps_setMailbox {s0 : State} {s : State} {k : Nat} {x : Mailbox} (hs : Keeps s0 s) :
    Keeps s0 (setMailbox s k x) := by
  unfold setMailbox
  repeat' first
    | with_reducible assumption
    | ((try lift_lets -underBinder); intro x; clear_value (hx : x = _); refine keeps_cut (s0 := s0) hx ?_ ?_ <;> clear hx)
    | ((try lift_lets -underBinder); intro x; clear_value x)
    | (intro x; try beta_reduce)
    | (with_reducible apply keeps_mk; first | with_reducible assumption)

theorem keeps_setSender {s0 : State} {s : State} {k : Nat} {x : Sender} (hs : Keeps s0 s) :
    Keeps s0 (setSender s k x) := by
  unfold setSender
  repeat' first
    | with_reducible assumption
    | ((try lift_lets -underBinder); intro x; clear_value (hx : x = _); refine keeps_cut (s0 := s0) hx ?_ ?_ <;> clear hx)
    | ((try lift_lets -underBinder); intro x; clear_value x)
    | (intro x; try beta_reduce)
    | (with_reducible apply keeps_mk; first | with_reducible assumption)

theorem keeps_setWin {s0 : State} {s : State} {k : Nat} {x : Win} (hs : Keeps s0 s) :
    Keeps s0 (setWin s k x) := by
  unfold setWin
  repeat' first
    | with_reducible assumption
    | ((try lift_lets -underBinder); intro x; clear_value (hx : x = _); refine keeps_cut (s0 := s0) hx ?_ ?_ <;> clear hx)
    | ((try lift_lets -underBinder); intro x; clear_value x)
    | (intro x; try beta_reduce)
    | (with_reducible apply keeps_mk; first | with_reducible assumption)

theorem keeps_setSlot {s0 : State} {s : State} {n : Nat} {x : MSlot} (hs : Keeps s0 s) :
    Keeps s0 (setSlot s n x) := by
  unfold setSlot
  repeat' first
    | with_reducible assumption
    | ((try lift_lets -underBinder); intro x; clear_value (hx : x = _); refine keeps_cut (s0 := s0) hx ?_ ?_ <;> clear hx)
    | ((try lift_lets -underBinder); intro x; clear_value x)
    | (intro x; try beta_reduce)
    | (with_reducible apply keeps_mk; first | with_reducible assumption)

theorem keeps_sramStore {s0 s : State} {st off : Nat} {bs : List Byte} (hs : Keeps s0 s) : Keeps s0 (sramStore s st off bs) :=
  keeps_sramPut (sramKey st (off + lostHead s st off)) ((bs.take (bs.length - lostTail s st off bs.length)).drop (lostHead s st off)) hs
    rfl rfl rfl rfl rfl rfl rfl

theorem keeps_sramWrite {s0 s : State} {st off : Nat} {bs : List Byte} (hs : Keeps s0 s) : Keeps s0 (sramWrite s st off bs) := by
  unfold sramWrite
  with_reducible apply keeps_setStone
  exact keeps_sramStore hs

theorem keeps_sramFill {s0 s : State} {st off : Nat} {bs : List Byte} (hs : Keeps s0 s) : Keeps s0 (sramFill s st off bs) := by
  unfold sramFill
  with_reducible apply keeps_setStone
  exact keeps_sramStore hs

theorem keeps_addSync {s0 : State} {s : State} {st j n : Nat} (hs : Keeps s0 s) :
    Keeps s0 (addSync s st j n) := by
  unfold addSync
  repeat' first
    | with_reducible assumption
    | (intro x; try beta_reduce)
    | with_reducible apply keeps_modStone

theorem keeps_signalDone {s0 : State} {s : State} {st : Nat} {sig : Option Nat} (hs : Keeps s0 s) :
    Keeps s0 (signalDone s st sig) := by
  unfold signalDone
  repeat' first
    | with_reducible assumption
    | with_reducible apply keeps_addSync
    | split

theorem keeps_setStoneFor {s0 : State} {s : State} {c st : Nat} {x : Stone} (hs : Keeps s0 s) :
    Keeps s0 (setStoneFor s c st x) := by
  unfold setStoneFor
  repeat' first
    | with_reducible assumption
    | ((try lift_lets -underBinder); intro x; clear_value (hx : x = _); refine keeps_cut (s0 := s0) hx ?_ ?_ <;> clear hx)
    | ((try lift_lets -underBinder); intro x; clear_value x)
    | (intro x; try beta_reduce)
    | with_reducible apply keeps_setStone
    | with_reducible apply keeps_modCtx
    | split

theorem keeps_modStoneFor {s0 : State} {s : State} {c st : Nat} {f : Stone → Stone} (hs : Keeps s0 s) :
    Keeps s0 (modStoneFor s c st f) := by
  unfold modStoneFor
  repeat' first
    | with_reducible assumption
    | with_reducible apply keeps_setStoneFor

theorem keeps_endSlice {s0 : State} {s : State} {c : Nat} (hs : Keeps s0 s) :
    Keeps s0 (endSlice s c) := by
  unfold endSlice
  repeat' first
    | with_reducible assumption
    | ((try lift_lets -underBinder); intro x; clear_value (hx : x = _); refine keeps_cut (s0 := s0) hx ?_ ?_ <;> clear hx)
    | ((try lift_lets -underBinder); intro x; clear_value x)
    | (intro x; try beta_reduce)
    | with_reducible apply keeps_modCtx

theorem keeps_discardProducts {s0 : State} {s : State} {c : Nat} (hs : Keeps s0 s) :
    Keeps s0 (discardProducts s c) := by
  unfold discardProducts
  repeat' first
    | with_reducible assumption
    | (intro x; try beta_reduce)
    | with_reducible apply keeps_modStoneFor
    | with_reducible apply keeps_forEach

theorem keeps_cutSlice {s0 : State} {s : State} {c : Nat} (hs : Keeps s0 s) :
    Keeps s0 (cutSlice s c) := by
  unfold cutSlice
  repeat' first
    | with_reducible assumption
    | ((try lift_lets -underBinder); intro x; clear_value (hx : x = _); refine keeps_cut (s0 := s0) hx ?_ ?_ <;> clear hx)
    | ((try lift_lets -underBinder); intro x; clear_value x)
    | (intro x; try beta_reduce)
    | with_reducible apply keeps_modCtx
    | with_reducible apply keeps_discardProducts
    | with_reducible apply keeps_endSlice

theorem keeps_preemptFor {s0 : State} {s : State} {c : Nat} (hs : Keeps s0 s) :
    Keeps s0 (preemptFor s c) := by
  unfold preemptFor
  repeat' first
    | with_reducible assumption
    | (intro x; try beta_reduce)
    | with_reducible apply keeps_count
    | with_reducible apply keeps_cutSlice
    | with_reducible apply keeps_forEach
    | split

theorem keeps_makeReady {s0 : State} {s : State} {c : Nat} (hs : Keeps s0 s) :
    Keeps s0 (makeReady s c) := by
  unfold makeReady
  repeat' first
    | with_reducible assumption
    | ((try lift_lets -underBinder); intro x; clear_value (hx : x = _); refine keeps_cut (s0 := s0) hx ?_ ?_ <;> clear hx)
    | ((try lift_lets -underBinder); intro x; clear_value x)
    | (intro x; try beta_reduce)
    | with_reducible apply keeps_preemptFor
    | with_reducible apply keeps_modCtx

theorem keeps_noteRunnable {s0 : State} {s : State} {c : Nat} (hs : Keeps s0 s) :
    Keeps s0 (noteRunnable s c) := by
  unfold noteRunnable
  repeat' first
    | with_reducible assumption
    | ((try lift_lets -underBinder); intro x; clear_value (hx : x = _); refine keeps_cut (s0 := s0) hx ?_ ?_ <;> clear hx)
    | ((try lift_lets -underBinder); intro x; clear_value x)
    | (intro x; try beta_reduce)
    | with_reducible apply keeps_modCtx
    | split

theorem keeps_settle {s0 : State} {s : State} {c : Nat} (hs : Keeps s0 s) :
    Keeps s0 (settle s c) := by
  unfold settle
  repeat' first
    | with_reducible assumption
    | ((try lift_lets -underBinder); intro x; clear_value (hx : x = _); refine keeps_cut (s0 := s0) hx ?_ ?_ <;> clear hx)
    | ((try lift_lets -underBinder); intro x; clear_value x)
    | (intro x; try beta_reduce)
    | with_reducible apply keeps_setC
    | with_reducible apply keeps_modCtx
    | with_reducible apply keeps_endSlice
    | with_reducible apply keeps_makeReady
    | split

theorem keeps_settleStone {s0 : State} {s : State} {st : Nat} (hs : Keeps s0 s) :
    Keeps s0 (settleStone s st) := by
  unfold settleStone
  repeat' first
    | with_reducible assumption
    | with_reducible apply keeps_settle
    | split

theorem keeps_stopCtx {s0 : State} {s : State} {c : Nat} (hs : Keeps s0 s) :
    Keeps s0 (stopCtx s c) := by
  unfold stopCtx
  repeat' first
    | with_reducible assumption
    | ((try lift_lets -underBinder); intro x; clear_value (hx : x = _); refine keeps_cut (s0 := s0) hx ?_ ?_ <;> clear hx)
    | ((try lift_lets -underBinder); intro x; clear_value x)
    | (intro x; try beta_reduce)
    | with_reducible apply keeps_setC
    | with_reducible apply keeps_modCtx
    | with_reducible apply keeps_endSlice
    | split

theorem keeps_stopAt {s0 : State} {s : State} {c st : Nat} (hs : Keeps s0 s) :
    Keeps s0 (stopAt s c st) := by
  unfold stopAt
  repeat' first
    | with_reducible assumption
    | ((try lift_lets -underBinder); intro x; clear_value (hx : x = _); refine keeps_cut (s0 := s0) hx ?_ ?_ <;> clear hx)
    | ((try lift_lets -underBinder); intro x; clear_value x)
    | (intro x; try beta_reduce)
    | with_reducible apply keeps_stopCtx
    | with_reducible apply keeps_modStone

theorem keeps_pondWrite {s0 : State} {s : State} {a : Nat} {bs : List Byte} (hs : Keeps s0 s) :
    KeepsOpt s0 (pondWrite s a bs) := by
  unfold pondWrite
  repeat' first
    | with_reducible assumption
    | (intro x; try beta_reduce)
    | with_reducible apply keeps_memWrite
    | with_reducible apply keeps_some
    | with_reducible apply keeps_none
    | with_reducible apply keeps_map
    | split

theorem keeps_inject {s0 : State} {s : State} {w : Nat} {p : Packet} (hs : Keeps s0 s) :
    Keeps s0 (inject s w p) := by
  unfold inject
  repeat' first
    | with_reducible assumption
    | ((try lift_lets -underBinder); intro x; clear_value (hx : x = _); refine keeps_cut (s0 := s0) hx ?_ ?_ <;> clear hx)
    | ((try lift_lets -underBinder); intro x; clear_value x)
    | (intro x; try beta_reduce)
    | with_reducible apply keeps_count
    | split
    | (with_reducible apply keeps_mk; with_reducible assumption)

theorem keeps_carryMgmt {s0 : State} {s : State} {w pos : Nat} (hs : Keeps s0 s) :
    Keeps s0 (carryMgmt s w pos) := by
  unfold carryMgmt
  repeat' first
    | with_reducible assumption
    | with_reducible apply keeps_inject

theorem keeps_sendMgmt {s0 : State} {s : State} {pos : Nat} {o : Out} (hs : Keeps s0 s) :
    Keeps s0 (sendMgmt s pos o) := by
  unfold sendMgmt
  repeat' first
    | with_reducible assumption
    | with_reducible apply keeps_carryMgmt
    | with_reducible apply keeps_emit

theorem keeps_countBridge {s0 : State} {s : State} {fromW n : Nat} (hs : Keeps s0 s) :
    Keeps s0 (countBridge s fromW n) := by
  unfold countBridge
  repeat' first
    | with_reducible assumption
    | with_reducible apply keeps_countBy

theorem keeps_passBytes {s0 : State} {s : State} {v w n : Nat} (hs : Keeps s0 s) :
    Keeps s0 (passBytes s v w n) := by
  unfold passBytes
  repeat' first
    | with_reducible assumption
    | with_reducible apply keeps_countBridge
    | split

theorem keeps_loadPass {s0 : State} {s : State} {w off n : Nat} (hs : Keeps s0 s) :
    Keeps s0 (loadPass s w off n) := by
  unfold loadPass
  repeat' first
    | with_reducible assumption
    | with_reducible apply keeps_passBytes

theorem keeps_storePass {s0 : State} {s : State} {w off n : Nat} (hs : Keeps s0 s) :
    Keeps s0 (storePass s w off n) := by
  unfold storePass
  repeat' first
    | with_reducible assumption
    | with_reducible apply keeps_passBytes

/-! ### Machine/Tree.lean -/

theorem keeps_putColl {s0 : State} {s : State} {co : Coll} (hs : Keeps s0 s) :
    Keeps s0 (putColl s co) := by
  unfold putColl
  repeat' first
    | with_reducible assumption
    | ((try lift_lets -underBinder); intro x; clear_value (hx : x = _); refine keeps_cut (s0 := s0) hx ?_ ?_ <;> clear hx)
    | ((try lift_lets -underBinder); intro x; clear_value x)
    | (intro x; try beta_reduce)
    | (with_reducible apply keeps_mk; first | with_reducible assumption)

theorem keeps_modColl {s0 : State} {s : State} {k : CollKey} {f : Coll → Coll} (hs : Keeps s0 s) :
    Keeps s0 (modColl s k f) := by
  unfold modColl
  repeat' first
    | with_reducible assumption
    | ((try lift_lets -underBinder); intro x; clear_value (hx : x = _); refine keeps_cut (s0 := s0) hx ?_ ?_ <;> clear hx)
    | ((try lift_lets -underBinder); intro x; clear_value x)
    | (intro x; try beta_reduce)
    | (with_reducible apply keeps_mk; first | with_reducible assumption)

theorem keeps_collSend {s0 : State} {s : State} {co : Coll} {rk msg chunk cover attempt : Nat} {data : List Byte} (hs : Keeps s0 s) :
    Keeps s0 (collSend s co rk msg chunk cover attempt data) := by
  unfold collSend
  repeat' first
    | with_reducible assumption
    | ((try lift_lets -underBinder); intro x; clear_value (hx : x = _); refine keeps_cut (s0 := s0) hx ?_ ?_ <;> clear hx)
    | ((try lift_lets -underBinder); intro x; clear_value x)
    | (intro x; try beta_reduce)
    | with_reducible apply keeps_modColl
    | with_reducible apply keeps_inject
    | split
    | (with_reducible apply keeps_mk; with_reducible assumption)

theorem keeps_collDown {s0 : State} {s : State} {co : Coll} {msg chunk : Nat} {data : List Byte} (hs : Keeps s0 s) :
    Keeps s0 (collDown s co msg chunk data) := by
  unfold collDown
  repeat' first
    | with_reducible assumption
    | (intro x; try beta_reduce)
    | with_reducible apply keeps_collSend
    | with_reducible apply keeps_forEach

/-! ### Machine/Plumb.lean -/

theorem keeps_setRec {s0 : State} {s : State} {cls : Nat} {r : FaultRec} (hs : Keeps s0 s) :
    Keeps s0 (setRec s cls r) := by
  unfold setRec
  repeat' first
    | with_reducible assumption
    | ((try lift_lets -underBinder); intro x; clear_value (hx : x = _); refine keeps_cut (s0 := s0) hx ?_ ?_ <;> clear hx)
    | ((try lift_lets -underBinder); intro x; clear_value x)
    | (intro x; try beta_reduce)
    | split
    | (with_reducible apply keeps_mk; first | with_reducible assumption)

theorem keeps_logCopy {s0 : State} {s : State} {cls : Nat} (hs : Keeps s0 s) :
    Keeps s0 (logCopy s cls) := by
  unfold logCopy
  repeat' first
    | with_reducible assumption
    | ((try lift_lets -underBinder); intro x; clear_value (hx : x = _); refine keeps_cut (s0 := s0) hx ?_ ?_ <;> clear hx)
    | ((try lift_lets -underBinder); intro x; clear_value x)
    | (intro x; try beta_reduce)
    | with_reducible apply keeps_setE
    | with_reducible apply keeps_memWrite
    | split

theorem keeps_arrive {s0 : State} {s : State} {f : Fault16} {src : Option FaultRec} (hs : Keeps s0 s) :
    Keeps s0 (arrive s f src).1 := by
  unfold arrive
  repeat' first
    | with_reducible assumption
    | ((try lift_lets -underBinder); intro x; clear_value (hx : x = _); refine keeps_cut (s0 := s0) hx ?_ ?_ <;> clear hx)
    | ((try lift_lets -underBinder); intro x; clear_value x)
    | (intro x; try beta_reduce)
    | with_reducible apply keeps_count
    | with_reducible apply keeps_setRec
    | with_reducible apply keeps_logCopy
    | split
    | refine keeps_fst ‹_ = (_, _)› ?_
    | (with_reducible apply keeps_mk; with_reducible assumption)

theorem keeps_arriveAll {s0 : State} {l : List (Fault16 × Option FaultRec)} : ∀ {s : State}, Keeps s0 s →
    Keeps s0 (arriveAll s l).1 := by
  induction l with
  | nil => intro s h; exact h
  | cons p l ih =>
    intro s h
    obtain ⟨f, src⟩ := p
    simp only [arriveAll]
    exact ih (keeps_arrive h)

theorem keeps_latchCycles {s0 : State} {n : Nat} : ∀ {s : State} {es : List (Fault16 × Option FaultRec)} {fs : List Fault16},
    Keeps s0 s → Keeps s0 (latchCycles n s es fs) := by
  induction n with
  | zero => intro s es fs h; exact h
  | succ n ih =>
    intro s es fs h
    simp only [latchCycles]
    exact ih (keeps_arriveAll h)

theorem keeps_latchAll {s0 s : State} {fs : List Fault16} (hs : Keeps s0 s) : Keeps s0 (latchAll s fs) := keeps_latchCycles hs

theorem keeps_collFinish {s0 : State} {s : State} {stone pc sigStone sigObj record : Nat} {doneSignal : Bool} {sig : Option Nat} {rec : Nat} (hs : Keeps s0 s) :
    Keeps s0 (collFinish s stone pc sigStone sigObj record doneSignal sig rec) := by
  unfold collFinish
  repeat' first
    | with_reducible assumption
    | ((try lift_lets -underBinder); intro x; clear_value (hx : x = _); refine keeps_cut (s0 := s0) hx ?_ ?_ <;> clear hx)
    | ((try lift_lets -underBinder); intro x; clear_value x)
    | (intro x; try beta_reduce)
    | with_reducible apply keeps_sramWrite
    | with_reducible apply keeps_modStone
    | with_reducible apply keeps_settleStone
    | with_reducible apply keeps_addSync
    | with_reducible apply keeps_signalDone
    | split

theorem keeps_completeColl {s0 : State} {s : State} {co : Coll} {status rank : Nat} {undecided : Bool} (hs : Keeps s0 s) :
    Keeps s0 (completeColl s co status rank undecided).1 := by
  unfold completeColl
  repeat' first
    | with_reducible assumption
    | ((try lift_lets -underBinder); intro x; clear_value (hx : x = _); refine keeps_cut (s0 := s0) hx ?_ ?_ <;> clear hx)
    | ((try lift_lets -underBinder); intro x; clear_value x)
    | (intro x; try beta_reduce)
    | with_reducible apply keeps_count
    | with_reducible apply keeps_collFinish
    | split
    | refine keeps_fst ‹_ = (_, _)› ?_
    | (with_reducible apply keeps_mk; with_reducible assumption)

theorem keeps_completeMcast {s0 : State} {s : State} {m : Mcast} {status rank : Nat} (hs : Keeps s0 s) :
    Keeps s0 (completeMcast s m status rank).1 := by
  unfold completeMcast
  repeat' first
    | with_reducible assumption
    | ((try lift_lets -underBinder); intro x; clear_value (hx : x = _); refine keeps_cut (s0 := s0) hx ?_ ?_ <;> clear hx)
    | ((try lift_lets -underBinder); intro x; clear_value x)
    | (intro x; try beta_reduce)
    | with_reducible apply keeps_count
    | with_reducible apply keeps_collFinish
    | split
    | refine keeps_fst ‹_ = (_, _)› ?_
    | (with_reducible apply keeps_mk; with_reducible assumption)

theorem keeps_abortColl {s0 : State} {s : State} {co : Coll} {code rank : Nat} (hs : Keeps s0 s) :
    Keeps s0 (abortColl s co code rank).1 := by
  unfold abortColl
  repeat' first
    | with_reducible assumption
    | with_reducible apply keeps_completeColl
    | with_reducible apply keeps_collDown

theorem keeps_requestAbort {s0 : State} {s : State} {co : Coll} {code : Nat} (hs : Keeps s0 s) :
    Keeps s0 (requestAbort s co code).1 := by
  unfold requestAbort
  repeat' first
    | with_reducible assumption
    | ((try lift_lets -underBinder); intro x; clear_value (hx : x = _); refine keeps_cut (s0 := s0) hx ?_ ?_ <;> clear hx)
    | ((try lift_lets -underBinder); intro x; clear_value x)
    | (intro x; try beta_reduce)
    | with_reducible apply keeps_abortColl
    | with_reducible apply keeps_modColl
    | with_reducible apply keeps_collSend
    | split
    | refine keeps_fst ‹_ = (_, _)› ?_

theorem keeps_endCollectives {s0 : State} {s : State} (hs : Keeps s0 s) :
    Keeps s0 (endCollectives s).1 := by
  unfold endCollectives
  repeat' first
    | with_reducible assumption
    | ((try lift_lets -underBinder); intro x; clear_value (hx : x = _); refine keeps_cut (s0 := s0) hx ?_ ?_ <;> clear hx)
    | ((try lift_lets -underBinder); intro x; clear_value x)
    | (intro x; try beta_reduce)
    | with_reducible apply keeps_requestAbort
    | with_reducible apply keeps_completeMcast
    | with_reducible apply keeps_foldl
    | with_reducible apply keeps_foldlFst

theorem keeps_stopSwitch {s0 : State} {s : State} {w : Nat} (hs : Keeps s0 s) :
    Keeps s0 (stopSwitch s w) := by
  unfold stopSwitch
  repeat' first
    | with_reducible assumption
    | ((try lift_lets -underBinder); intro x; clear_value (hx : x = _); refine keeps_cut (s0 := s0) hx ?_ ?_ <;> clear hx)
    | ((try lift_lets -underBinder); intro x; clear_value x)
    | (intro x; try beta_reduce)
    | with_reducible apply keeps_setPort
    | with_reducible apply keeps_count
    | with_reducible apply keeps_forEach
    | split
    | (with_reducible apply keeps_mk; with_reducible assumption)

theorem keeps_enterFaulted {s0 : State} {s : State} (hs : Keeps s0 s) :
    Keeps s0 (enterFaulted s) := by
  unfold enterFaulted
  repeat' first
    | with_reducible assumption
    | ((try lift_lets -underBinder); intro x; clear_value (hx : x = _); refine keeps_cut (s0 := s0) hx ?_ ?_ <;> clear hx)
    | ((try lift_lets -underBinder); intro x; clear_value x)
    | (intro x; try beta_reduce)
    | with_reducible apply keeps_setE
    | with_reducible apply keeps_stopCtx
    | with_reducible apply keeps_stopSwitch
    | with_reducible apply keeps_endCollectives
    | with_reducible apply keeps_latchAll
    | with_reducible apply keeps_forEach
    | split
    | refine keeps_fst ‹_ = (_, _)› ?_
    | (with_reducible apply keeps_mk; with_reducible assumption)

theorem keeps_raise {s0 : State} {s : State} {fs : List Fault16} (hs : Keeps s0 s) :
    Keeps s0 (raise s fs) := by
  unfold raise
  repeat' first
    | with_reducible assumption
    | ((try lift_lets -underBinder); intro x; clear_value (hx : x = _); refine keeps_cut (s0 := s0) hx ?_ ?_ <;> clear hx)
    | ((try lift_lets -underBinder); intro x; clear_value x)
    | (intro x; try beta_reduce)
    | with_reducible apply keeps_latchAll
    | with_reducible apply keeps_enterFaulted
    | split

theorem keeps_raise1 {s0 : State} {s : State} {cls cause kind unit : Nat} {ctx : Option Nat} {detail : Nat} (hs : Keeps s0 s) :
    Keeps s0 (raise1 s cls cause kind unit ctx detail) := by
  unfold raise1
  repeat' first
    | with_reducible assumption
    | with_reducible apply keeps_raise

theorem keeps_stoneFault {s0 : State} {s : State} {cls cause st detail : Nat} (hs : Keeps s0 s) :
    Keeps s0 (stoneFault s cls cause st detail) := by
  unfold stoneFault
  repeat' first
    | with_reducible assumption
    | with_reducible apply keeps_raise1

theorem keeps_stoneFaults {s0 : State} {s : State} {cls cause st detail n : Nat} (hs : Keeps s0 s) :
    Keeps s0 (stoneFaults s cls cause st detail n) := by
  unfold stoneFaults
  repeat' first
    | with_reducible assumption
    | (intro x; try beta_reduce)
    | with_reducible apply keeps_stoneFault
    | with_reducible apply keeps_forEach

theorem keeps_failStone {s0 : State} {s : State} {st cause : Nat} (hs : Keeps s0 s) :
    Keeps s0 (failStone s st cause) := by
  unfold failStone
  repeat' first
    | with_reducible assumption
    | ((try lift_lets -underBinder); intro x; clear_value (hx : x = _); refine keeps_cut (s0 := s0) hx ?_ ?_ <;> clear hx)
    | ((try lift_lets -underBinder); intro x; clear_value x)
    | (intro x; try beta_reduce)
    | with_reducible apply keeps_stopAt
    | with_reducible apply keeps_raise1
    | split

theorem keeps_errSync {s0 : State} {s : State} {st j : Nat} (hs : Keeps s0 s) :
    Keeps s0 (errSync s st j) := by
  unfold errSync
  repeat' first
    | with_reducible assumption
    | ((try lift_lets -underBinder); intro x; clear_value (hx : x = _); refine keeps_cut (s0 := s0) hx ?_ ?_ <;> clear hx)
    | ((try lift_lets -underBinder); intro x; clear_value x)
    | (intro x; try beta_reduce)
    | with_reducible apply keeps_setStone
    | with_reducible apply keeps_failStone
    | with_reducible apply keeps_run
    | split

theorem keeps_holdSource {s0 : State} {s : State} {n : Nat} (hs : Keeps s0 s) :
    Keeps s0 (holdSource s n) := by
  unfold holdSource
  repeat' first
    | with_reducible assumption
    | ((try lift_lets -underBinder); intro x; clear_value (hx : x = _); refine keeps_cut (s0 := s0) hx ?_ ?_ <;> clear hx)
    | ((try lift_lets -underBinder); intro x; clear_value x)
    | (intro x; try beta_reduce)
    | split
    | (with_reducible apply keeps_mk; first | with_reducible assumption)

/-! ### Machine/Operands.lean -/

theorem keeps_stallOn {s0 : State} {s : State} {st : Nat} {w : Stall} (hs : Keeps s0 s) :
    Keeps s0 (stallOn s st w) := by
  unfold stallOn
  repeat' first
    | with_reducible assumption
    | ((try lift_lets -underBinder); intro x; clear_value (hx : x = _); refine keeps_cut (s0 := s0) hx ?_ ?_ <;> clear hx)
    | ((try lift_lets -underBinder); intro x; clear_value x)
    | (intro x; try beta_reduce)
    | with_reducible apply keeps_settleStone
    | with_reducible apply keeps_modStone

theorem keeps_issue {s0 : State} {s : State} {st : Nat} {ok : Bool} {srcs dsts : List (Nat × Nat)} {k : State → State} (hs : Keeps s0 s) (hk : ∀ t, Keeps s0 t → Keeps s0 (k t)) :
    Keeps s0 (issue s st ok srcs dsts k) := by
  unfold issue
  repeat' first
    | with_reducible assumption
    | ((try lift_lets -underBinder); intro x; clear_value (hx : x = _); refine keeps_cut (s0 := s0) hx ?_ ?_ <;> clear hx)
    | ((try lift_lets -underBinder); intro x; clear_value x)
    | (intro x; try beta_reduce)
    | with_reducible apply hk
    | with_reducible apply keeps_failStone
    | with_reducible apply keeps_stallOn
    | with_reducible apply keeps_modStone
    | split

theorem keeps_nextPc {s0 : State} {s : State} {st : Nat} (hs : Keeps s0 s) :
    Keeps s0 (nextPc s st) := by
  unfold nextPc
  repeat' first
    | with_reducible assumption
    | ((try lift_lets -underBinder); intro x; clear_value (hx : x = _); refine keeps_cut (s0 := s0) hx ?_ ?_ <;> clear hx)
    | ((try lift_lets -underBinder); intro x; clear_value x)
    | (intro x; try beta_reduce)
    | with_reducible apply keeps_modStone

theorem keeps_completeNow {s0 : State} {s : State} {st : Nat} {h : IHdr} (hs : Keeps s0 s) :
    Keeps s0 (completeNow s st h) := by
  unfold completeNow
  repeat' first
    | with_reducible assumption
    | with_reducible apply keeps_settleStone
    | with_reducible apply keeps_signalDone
    | with_reducible apply keeps_nextPc

theorem keeps_takeSlot {s0 : State} {s : State} {st kind : Nat} {srcs dsts : List (Nat × Nat)} {h : IHdr} (hs : Keeps s0 s) :
    Keeps s0 (takeSlot s st kind srcs dsts h) := by
  unfold takeSlot
  repeat' first
    | with_reducible assumption
    | ((try lift_lets -underBinder); intro x; clear_value (hx : x = _); refine keeps_cut (s0 := s0) hx ?_ ?_ <;> clear hx)
    | ((try lift_lets -underBinder); intro x; clear_value x)
    | (intro x; try beta_reduce)
    | with_reducible apply keeps_modStone

theorem keeps_freeSlot {s0 : State} {s : State} {st pc kind : Nat} (hs : Keeps s0 s) :
    Keeps s0 (freeSlot s st pc kind) := by
  unfold freeSlot
  repeat' first
    | with_reducible assumption
    | ((try lift_lets -underBinder); intro x; clear_value (hx : x = _); refine keeps_cut (s0 := s0) hx ?_ ?_ <;> clear hx)
    | ((try lift_lets -underBinder); intro x; clear_value x)
    | (intro x; try beta_reduce)
    | with_reducible apply keeps_modStone

theorem keeps_freeSubmit {s0 : State} {s : State} {st pc recOff : Nat} (hs : Keeps s0 s) :
    Keeps s0 (freeSubmit s st pc recOff) := by
  unfold freeSubmit
  repeat' first
    | with_reducible assumption
    | ((try lift_lets -underBinder); intro x; clear_value (hx : x = _); refine keeps_cut (s0 := s0) hx ?_ ?_ <;> clear hx)
    | ((try lift_lets -underBinder); intro x; clear_value x)
    | (intro x; try beta_reduce)
    | with_reducible apply keeps_modStone

theorem keeps_completeSubmit {s0 : State} {s : State} {st pc recOff : Nat} {sig : Option Nat} (hs : Keeps s0 s) :
    Keeps s0 (completeSubmit s st pc recOff sig) := by
  unfold completeSubmit
  repeat' first
    | with_reducible assumption
    | with_reducible apply keeps_settleStone
    | with_reducible apply keeps_signalDone
    | with_reducible apply keeps_freeSubmit

theorem keeps_completeSlot {s0 : State} {s : State} {st pc kind : Nat} {sig : Option Nat} (hs : Keeps s0 s) :
    Keeps s0 (completeSlot s st pc kind sig) := by
  unfold completeSlot
  repeat' first
    | with_reducible assumption
    | with_reducible apply keeps_settleStone
    | with_reducible apply keeps_signalDone
    | with_reducible apply keeps_freeSlot

/-! ### Machine/Post.lean -/

theorem keeps_postResult {s0 : State} {s : State} {c m seq code : Nat} {notify ofYield : Bool} (hs : Keeps s0 s) :
    Keeps s0 (postResult s c m seq code notify ofYield) := by
  unfold postResult
  repeat' first
    | with_reducible assumption
    | ((try lift_lets -underBinder); intro x; clear_value (hx : x = _); refine keeps_cut (s0 := s0) hx ?_ ?_ <;> clear hx)
    | ((try lift_lets -underBinder); intro x; clear_value x)
    | (intro x; try beta_reduce)
    | with_reducible apply keeps_modCtx
    | with_reducible apply keeps_count
    | with_reducible apply keeps_setMailbox
    | split
    | (with_reducible apply keeps_mk; with_reducible assumption)

theorem keeps_endYield {s0 : State} {s : State} {c st : Nat} (hs : Keeps s0 s) :
    Keeps s0 (endYield s c st) := by
  unfold endYield
  repeat' first
    | with_reducible assumption
    | ((try lift_lets -underBinder); intro x; clear_value (hx : x = _); refine keeps_cut (s0 := s0) hx ?_ ?_ <;> clear hx)
    | ((try lift_lets -underBinder); intro x; clear_value x)
    | (intro x; try beta_reduce)
    | with_reducible apply keeps_modStoneFor

theorem keeps_finishYield {s0 : State} {s : State} {c : Nat} (hs : Keeps s0 s) :
    Keeps s0 (finishYield s c) := by
  unfold finishYield
  repeat' first
    | with_reducible assumption
    | ((try lift_lets -underBinder); intro x; clear_value (hx : x = _); refine keeps_cut (s0 := s0) hx ?_ ?_ <;> clear hx)
    | ((try lift_lets -underBinder); intro x; clear_value x)
    | (intro x; try beta_reduce)
    | with_reducible apply keeps_sramWrite
    | with_reducible apply keeps_setCtx
    | with_reducible apply keeps_endYield
    | with_reducible apply keeps_settle
    | with_reducible apply keeps_forEach
    | with_reducible apply keeps_run
    | split

theorem keeps_makePosts {s0 : State} {s : State} {c m : Nat} (hs : Keeps s0 s) :
    Keeps s0 (makePosts s c m) := by
  unfold makePosts
  repeat' first
    | with_reducible assumption
    | ((try lift_lets -underBinder); intro x; clear_value (hx : x = _); refine keeps_cut (s0 := s0) hx ?_ ?_ <;> clear hx)
    | ((try lift_lets -underBinder); intro x; clear_value x)
    | (intro x; try beta_reduce)
    | with_reducible apply keeps_count
    | with_reducible apply keeps_setMailbox
    | with_reducible apply keeps_modCtx
    | with_reducible apply keeps_finishYield
    | split
    | (with_reducible apply keeps_mk; with_reducible assumption)

theorem keeps_makeAllPosts {s0 : State} {s : State} {c : Nat} (hs : Keeps s0 s) :
    Keeps s0 (makeAllPosts s c) := by
  unfold makeAllPosts
  repeat' first
    | with_reducible assumption
    | (intro x; try beta_reduce)
    | with_reducible apply keeps_makePosts
    | with_reducible apply keeps_forEach

theorem keeps_pumpUmora {s0 : State} {s : State} (hs : Keeps s0 s) :
    Keeps s0 (pumpUmora s) := by
  unfold pumpUmora
  repeat' first
    | with_reducible assumption
    | ((try lift_lets -underBinder); intro x; clear_value (hx : x = _); refine keeps_cut (s0 := s0) hx ?_ ?_ <;> clear hx)
    | ((try lift_lets -underBinder); intro x; clear_value x)
    | (intro x; try beta_reduce)
    | with_reducible apply keeps_makeAllPosts
    | with_reducible apply keeps_forEach
    | split
    | (with_reducible apply keeps_mk; with_reducible assumption)

theorem keeps_postStep {s0 : State} {s : State} {c : Nat} (hs : Keeps s0 s) :
    Keeps s0 (postStep s c) := by
  unfold postStep
  repeat' first
    | with_reducible assumption
    | ((try lift_lets -underBinder); intro x; clear_value (hx : x = _); refine keeps_cut (s0 := s0) hx ?_ ?_ <;> clear hx)
    | ((try lift_lets -underBinder); intro x; clear_value x)
    | (intro x; try beta_reduce)
    | with_reducible apply keeps_modCtx
    | with_reducible apply keeps_postResult
    | with_reducible apply keeps_forEach
    | split

theorem keeps_clearMailboxes {s0 : State} {s : State} {c : Nat} (hs : Keeps s0 s) :
    Keeps s0 (clearMailboxes s c) := by
  unfold clearMailboxes
  repeat' first
    | with_reducible assumption
    | ((try lift_lets -underBinder); intro x; clear_value (hx : x = _); refine keeps_cut (s0 := s0) hx ?_ ?_ <;> clear hx)
    | ((try lift_lets -underBinder); intro x; clear_value x)
    | (intro x; try beta_reduce)
    | (with_reducible apply keeps_mk; first | with_reducible assumption)

/-! ### Machine/Control.lean -/

theorem keeps_execHalt {s0 : State} {st : Nat} {h : IHdr} {o : Operands} {s : State} (hs : Keeps s0 s) :
    KeepsRes s0 (execHalt st h o s) := by
  unfold execHalt
  repeat' first
    | with_reducible assumption
    | ((try lift_lets -underBinder); intro x; clear_value (hx : x = _); refine keeps_cut (s0 := s0) hx ?_ ?_ <;> clear hx)
    | ((try lift_lets -underBinder); intro x; clear_value x)
    | (intro x; try beta_reduce)
    | with_reducible apply keeps_issue
    | with_reducible apply keeps_settleStone
    | with_reducible apply keeps_signalDone
    | with_reducible apply keeps_modStone
    | with_reducible apply keeps_run

theorem keeps_execBranch {s0 : State} {st : Nat} {h : IHdr} {o : Operands} {s : State} (hs : Keeps s0 s) :
    KeepsRes s0 (execBranch st h o s) := by
  unfold execBranch
  repeat' first
    | with_reducible assumption
    | ((try lift_lets -underBinder); intro x; clear_value (hx : x = _); refine keeps_cut (s0 := s0) hx ?_ ?_ <;> clear hx)
    | ((try lift_lets -underBinder); intro x; clear_value x)
    | (intro x; try beta_reduce)
    | with_reducible apply keeps_issue
    | with_reducible apply keeps_modStone
    | with_reducible apply keeps_settleStone
    | with_reducible apply keeps_signalDone
    | with_reducible apply keeps_run

theorem keeps_execLoopSet {s0 : State} {st : Nat} {h : IHdr} {o : Operands} {s : State} (hs : Keeps s0 s) :
    KeepsRes s0 (execLoopSet st h o s) := by
  unfold execLoopSet
  repeat' first
    | with_reducible assumption
    | ((try lift_lets -underBinder); intro x; clear_value (hx : x = _); refine keeps_cut (s0 := s0) hx ?_ ?_ <;> clear hx)
    | ((try lift_lets -underBinder); intro x; clear_value x)
    | (intro x; try beta_reduce)
    | with_reducible apply keeps_issue
    | with_reducible apply keeps_completeNow
    | with_reducible apply keeps_modStone
    | with_reducible apply keeps_run

theorem keeps_execLoopBack {s0 : State} {st : Nat} {h : IHdr} {o : Operands} {s : State} (hs : Keeps s0 s) :
    KeepsRes s0 (execLoopBack st h o s) := by
  unfold execLoopBack
  repeat' first
    | with_reducible assumption
    | ((try lift_lets -underBinder); intro x; clear_value (hx : x = _); refine keeps_cut (s0 := s0) hx ?_ ?_ <;> clear hx)
    | ((try lift_lets -underBinder); intro x; clear_value x)
    | (intro x; try beta_reduce)
    | with_reducible apply keeps_issue
    | with_reducible apply keeps_modStone
    | with_reducible apply keeps_settleStone
    | with_reducible apply keeps_signalDone
    | with_reducible apply keeps_run

theorem keeps_execYield {s0 : State} {st : Nat} {h : IHdr} {o : Operands} {s : State} (hs : Keeps s0 s) :
    KeepsRes s0 (execYield st h o s) := by
  unfold execYield
  repeat' first
    | with_reducible assumption
    | ((try lift_lets -underBinder); intro x; clear_value (hx : x = _); refine keeps_cut (s0 := s0) hx ?_ ?_ <;> clear hx)
    | ((try lift_lets -underBinder); intro x; clear_value x)
    | (intro x; try beta_reduce)
    | with_reducible apply keeps_issue
    | with_reducible apply keeps_modStone
    | with_reducible apply keeps_settle
    | with_reducible apply keeps_finishYield
    | with_reducible apply keeps_postStep
    | with_reducible apply keeps_endYield
    | with_reducible apply keeps_run
    | split

theorem keeps_execStepMark {s0 : State} {st : Nat} {h : IHdr} {o : Operands} {s : State} (hs : Keeps s0 s) :
    KeepsRes s0 (execStepMark st h o s) := by
  unfold execStepMark
  repeat' first
    | with_reducible assumption
    | ((try lift_lets -underBinder); intro x; clear_value (hx : x = _); refine keeps_cut (s0 := s0) hx ?_ ?_ <;> clear hx)
    | ((try lift_lets -underBinder); intro x; clear_value x)
    | (intro x; try beta_reduce)
    | with_reducible apply keeps_issue
    | with_reducible apply keeps_completeNow
    | with_reducible apply keeps_modStone
    | with_reducible apply keeps_run

theorem keeps_execNpBegin {s0 : State} {st : Nat} {h : IHdr} {o : Operands} {s : State} (hs : Keeps s0 s) :
    KeepsRes s0 (execNpBegin st h o s) := by
  unfold execNpBegin
  repeat' first
    | with_reducible assumption
    | ((try lift_lets -underBinder); intro x; clear_value (hx : x = _); refine keeps_cut (s0 := s0) hx ?_ ?_ <;> clear hx)
    | ((try lift_lets -underBinder); intro x; clear_value x)
    | (intro x; try beta_reduce)
    | with_reducible apply keeps_issue
    | with_reducible apply keeps_completeNow
    | with_reducible apply keeps_modStone
    | with_reducible apply keeps_run

theorem keeps_execNpEnd {s0 : State} {st : Nat} {h : IHdr} {o : Operands} {s : State} (hs : Keeps s0 s) :
    KeepsRes s0 (execNpEnd st h o s) := by
  unfold execNpEnd
  repeat' first
    | with_reducible assumption
    | ((try lift_lets -underBinder); intro x; clear_value (hx : x = _); refine keeps_cut (s0 := s0) hx ?_ ?_ <;> clear hx)
    | ((try lift_lets -underBinder); intro x; clear_value x)
    | (intro x; try beta_reduce)
    | with_reducible apply keeps_issue
    | with_reducible apply keeps_completeNow
    | with_reducible apply keeps_modStone
    | with_reducible apply keeps_run

theorem keeps_execSetVl {s0 : State} {st : Nat} {h : IHdr} {o : Operands} {s : State} (hs : Keeps s0 s) :
    KeepsRes s0 (execSetVl st h o s) := by
  unfold execSetVl
  repeat' first
    | with_reducible assumption
    | ((try lift_lets -underBinder); intro x; clear_value (hx : x = _); refine keeps_cut (s0 := s0) hx ?_ ?_ <;> clear hx)
    | ((try lift_lets -underBinder); intro x; clear_value x)
    | (intro x; try beta_reduce)
    | with_reducible apply keeps_issue
    | with_reducible apply keeps_modStone
    | with_reducible apply keeps_completeNow
    | with_reducible apply keeps_run

theorem keeps_execSetReg {s0 : State} {st : Nat} {h : IHdr} {o : Operands} {s : State} (hs : Keeps s0 s) :
    KeepsRes s0 (execSetReg st h o s) := by
  unfold execSetReg
  repeat' first
    | with_reducible assumption
    | ((try lift_lets -underBinder); intro x; clear_value (hx : x = _); refine keeps_cut (s0 := s0) hx ?_ ?_ <;> clear hx)
    | ((try lift_lets -underBinder); intro x; clear_value x)
    | (intro x; try beta_reduce)
    | with_reducible apply keeps_issue
    | with_reducible apply keeps_completeNow
    | with_reducible apply keeps_modStone
    | with_reducible apply keeps_run

theorem keeps_execRegionOverrun {s0 : State} {st : Nat} {s : State} (hs : Keeps s0 s) :
    KeepsRes s0 (execRegionOverrun st s) := by
  unfold execRegionOverrun
  repeat' first
    | with_reducible assumption
    | (intro x; try beta_reduce)
    | with_reducible apply keeps_raise1
    | with_reducible apply keeps_count
    | with_reducible apply keeps_run
    | split

end Sys2Proof.Machine
end

