-- ==== Sys2Proof/Laws/KeepsUnits.lean ====
section
/-! SUPPORT. One lemma per operation of pools, the dictionary server, the course DMA, pond memory, the tiers and the stone: it keeps what every command keeps (Laws/Keeps.lean). -/

namespace Sys2Proof.Machine

/-! ### Machine/Pools.lean -/

theorem keeps_setPoolLevel {s0 : State} {s : State} {p : Nat} {x : Pool} (hs : Keeps s0 s) :
    Keeps s0 (setPoolLevel s p x) := by
  unfold setPoolLevel
  repeat' first
    | with_reducible assumption
    | ((try lift_lets -underBinder); intro x; clear_value (hx : x = _); refine keeps_cut (s0 := s0) hx ?_ ?_ <;> clear hx)
    | ((try lift_lets -underBinder); intro x; clear_value x)
    | (intro x; try beta_reduce)
    | with_reducible apply keeps_setPool

theorem keeps_putLink {s0 s : State} {h next : Nat} (hs : Keeps s0 s) : Keeps s0 (putLink s h next) := by
  unfold putLink
  exact keeps_sramPut (sramKey (handleStone h) (handleOff h)) (toLE 8 (linkWord h next)) hs rfl rfl rfl rfl rfl rfl rfl

theorem keeps_threadList {s0 : State} {l : List Nat} : ∀ {s : State}, Keeps s0 s → Keeps s0 (threadList s l) := by
  induction l with
  | nil => intro s h; exact h
  | cons a l ih =>
    intro s h
    cases l with
    | nil => exact keeps_putLink h
    | cons b t => exact ih (keeps_putLink h)

theorem keeps_rebuildList {s0 : State} {s : State} {p : Nat} (hs : Keeps s0 s) :
    Keeps s0 (rebuildList s p) := by
  unfold rebuildList
  repeat' first
    | with_reducible assumption
    | ((try lift_lets -underBinder); intro x; clear_value (hx : x = _); refine keeps_cut (s0 := s0) hx ?_ ?_ <;> clear hx)
    | ((try lift_lets -underBinder); intro x; clear_value x)
    | (intro x; try beta_reduce)
    | with_reducible apply keeps_setPoolLevel
    | with_reducible apply keeps_threadList

theorem keeps_popFailed {s0 : State} {s : State} {p : Nat} (hs : Keeps s0 s) :
    Keeps s0 (popFailed s p) := by
  unfold popFailed
  repeat' first
    | with_reducible assumption
    | ((try lift_lets -underBinder); intro x; clear_value (hx : x = _); refine keeps_cut (s0 := s0) hx ?_ ?_ <;> clear hx)
    | ((try lift_lets -underBinder); intro x; clear_value x)
    | (intro x; try beta_reduce)
    | with_reducible apply keeps_setPoolLevel
    | with_reducible apply keeps_raise1
    | with_reducible apply keeps_count

theorem keeps_grantFrom {s0 : State} {s : State} {p owner refs : Nat} (hs : Keeps s0 s) :
    Keeps s0 (grantFrom s p owner refs).1 := by
  unfold grantFrom
  repeat' first
    | with_reducible assumption
    | ((try lift_lets -underBinder); intro x; clear_value (hx : x = _); refine keeps_cut (s0 := s0) hx ?_ ?_ <;> clear hx)
    | ((try lift_lets -underBinder); intro x; clear_value x)
    | (intro x; try beta_reduce)
    | with_reducible apply keeps_popFailed
    | with_reducible apply keeps_count
    | with_reducible apply keeps_setPoolLevel
    | split

theorem keeps_grantTry {s0 : State} {owner refs : Nat} {l : List Nat} : ∀ {s : State}, Keeps s0 s →
    Keeps s0 (grantTry owner refs s l).1 := by
  induction l with
  | nil => intro s h; exact h
  | cons p l ih =>
    intro s h
    have hg : Keeps s0 (grantFrom s p owner refs).1 := keeps_grantFrom h
    simp only [grantTry]
    split
    · next e => exact keeps_fst e hg
    · next e => exact ih (keeps_fst e hg)

theorem keeps_takeBuffer {s0 : State} {s : State} {bay owner size refs : Nat} {op : WaitOp} (hs : Keeps s0 s) :
    Keeps s0 (takeBuffer s bay owner size refs op).1 := by
  unfold takeBuffer
  repeat' first
    | with_reducible assumption
    | ((try lift_lets -underBinder); intro x; clear_value (hx : x = _); refine keeps_cut (s0 := s0) hx ?_ ?_ <;> clear hx)
    | ((try lift_lets -underBinder); intro x; clear_value x)
    | (intro x; try beta_reduce)
    | with_reducible apply keeps_grantTry
    | with_reducible apply keeps_setPool
    | split
    | refine keeps_fst ‹_ = (_, _)› ?_

theorem keeps_testBay {s0 : State} {s : State} {bay : Nat} (hs : Keeps s0 s) :
    Keeps s0 (testBay s bay) := by
  unfold testBay
  repeat' first
    | with_reducible assumption
    | with_reducible apply keeps_setE
    | with_reducible apply keeps_raise1
    | split

theorem keeps_dropRef {s0 : State} {s : State} {h : Nat} (hs : Keeps s0 s) :
    Keeps s0 (dropRef s h) := by
  unfold dropRef
  repeat' first
    | with_reducible assumption
    | ((try lift_lets -underBinder); intro x; clear_value (hx : x = _); refine keeps_cut (s0 := s0) hx ?_ ?_ <;> clear hx)
    | ((try lift_lets -underBinder); intro x; clear_value x)
    | (intro x; try beta_reduce)
    | with_reducible apply keeps_setPool
    | with_reducible apply keeps_testBay
    | with_reducible apply keeps_count
    | with_reducible apply keeps_setPoolLevel
    | with_reducible apply keeps_putLink
    | split

theorem keeps_releaseBuffer {s0 : State} {s : State} {h : BitVec 32} (hs : Keeps s0 s) :
    Keeps s0 (releaseBuffer s h).1 := by
  unfold releaseBuffer
  repeat' first
    | with_reducible assumption
    | ((try lift_lets -underBinder); intro x; clear_value (hx : x = _); refine keeps_cut (s0 := s0) hx ?_ ?_ <;> clear hx)
    | ((try lift_lets -underBinder); intro x; clear_value x)
    | (intro x; try beta_reduce)
    | with_reducible apply keeps_raise1
    | with_reducible apply keeps_count
    | with_reducible apply keeps_setPool
    | with_reducible apply keeps_dropRef
    | split

theorem keeps_release {s0 : State} {s : State} {h : BitVec 32} (hs : Keeps s0 s) :
    Keeps s0 (release s h) := by
  unfold release
  repeat' first
    | with_reducible assumption
    | with_reducible apply keeps_releaseBuffer

theorem keeps_endRebuild {s0 : State} {s : State} {pool : Nat} (hs : Keeps s0 s) :
    Keeps s0 (endRebuild s pool) := by
  unfold endRebuild
  repeat' first
    | with_reducible assumption
    | ((try lift_lets -underBinder); intro x; clear_value (hx : x = _); refine keeps_cut (s0 := s0) hx ?_ ?_ <;> clear hx)
    | ((try lift_lets -underBinder); intro x; clear_value x)
    | (intro x; try beta_reduce)
    | with_reducible apply keeps_rebuildList
    | with_reducible apply keeps_setPool
    | with_reducible apply keeps_release
    | with_reducible apply keeps_forEach

theorem keeps_execListRebuildComplete {s0 : State} {pool : Nat} {s : State} (hs : Keeps s0 s) :
    KeepsRes s0 (execListRebuildComplete pool s) := by
  unfold execListRebuildComplete
  repeat' first
    | with_reducible assumption
    | (intro x; try beta_reduce)
    | with_reducible apply keeps_endRebuild
    | with_reducible apply keeps_run
    | split

theorem keeps_retireBuffers {s0 : State} {s : State} {st : Nat} {freeBefore : List (Nat × Nat)} (hs : Keeps s0 s) :
    Keeps s0 (retireBuffers s st freeBefore) := by
  unfold retireBuffers
  repeat' first
    | with_reducible assumption
    | ((try lift_lets -underBinder); intro x; clear_value (hx : x = _); refine keeps_cut (s0 := s0) hx ?_ ?_ <;> clear hx)
    | ((try lift_lets -underBinder); intro x; clear_value x)
    | (intro x; try beta_reduce)
    | with_reducible apply keeps_countBy
    | with_reducible apply keeps_count
    | with_reducible apply keeps_setPool
    | with_reducible apply keeps_setPoolLevel
    | with_reducible apply keeps_testBay
    | with_reducible apply keeps_forEach
    | split

theorem keeps_poolCommit {s0 s t : State} (hs : Keeps s0 s) (e : poolCommit s = .ok t) : Keeps s0 t := by
  simp only [poolCommit] at e
  split at e
  · cases e
  · split at e
    · cases e
      exact keeps_setE (keeps_forEach (keeps_of hs rfl rfl rfl rfl rfl rfl rfl) fun t p h => keeps_rebuildList h)
    · cases e

/-! ### Machine/Dict.lean -/

theorem keeps_noteRefusal {s0 : State} {s : State} {code idx sub path : Nat} (hs : Keeps s0 s) :
    Keeps s0 (noteRefusal s code idx sub path) := by
  unfold noteRefusal
  repeat' first
    | with_reducible assumption
    | ((try lift_lets -underBinder); intro x; clear_value (hx : x = _); refine keeps_cut (s0 := s0) hx ?_ ?_ <;> clear hx)
    | ((try lift_lets -underBinder); intro x; clear_value x)
    | (intro x; try beta_reduce)
    | with_reducible apply keeps_count
    | with_reducible apply keeps_setE
    | split
    | (with_reducible apply keeps_mk; with_reducible assumption)

theorem keeps_slotWrite {s0 : State} {s : State} {off : Nat} {bs : List Byte} (hs : Keeps s0 s) :
    Keeps s0 (slotWrite s off bs) := by
  unfold slotWrite
  repeat' first
    | with_reducible assumption
    | ((try lift_lets -underBinder); intro x; clear_value (hx : x = _); refine keeps_cut (s0 := s0) hx ?_ ?_ <;> clear hx)
    | ((try lift_lets -underBinder); intro x; clear_value x)
    | (intro x; try beta_reduce)
    | (with_reducible apply keeps_mk; first | with_reducible assumption)

theorem keeps_endRingCommand {s0 : State} {s : State} {c code : Nat} (hs : Keeps s0 s) :
    Keeps s0 (endRingCommand s c code) := by
  unfold endRingCommand
  repeat' first
    | with_reducible assumption
    | ((try lift_lets -underBinder); intro x; clear_value (hx : x = _); refine keeps_cut (s0 := s0) hx ?_ ?_ <;> clear hx)
    | ((try lift_lets -underBinder); intro x; clear_value x)
    | (intro x; try beta_reduce)
    | with_reducible apply keeps_setRing
    | with_reducible apply keeps_postResult
    | with_reducible apply keeps_setE
    | split
    | (with_reducible apply keeps_mk; with_reducible assumption)

theorem keeps_respond {s0 : State} {s : State} {q : Req} {idx sub code len value : Nat} (hs : Keeps s0 s) :
    Keeps s0 (respond s q idx sub code len value) := by
  unfold respond
  repeat' first
    | with_reducible assumption
    | ((try lift_lets -underBinder); intro x; clear_value (hx : x = _); refine keeps_cut (s0 := s0) hx ?_ ?_ <;> clear hx)
    | ((try lift_lets -underBinder); intro x; clear_value x)
    | (intro x; try beta_reduce)
    | with_reducible apply keeps_slotWrite
    | with_reducible apply keeps_holdSource
    | with_reducible apply keeps_setSlot
    | with_reducible apply keeps_hostTaken
    | with_reducible apply keeps_endRingCommand
    | with_reducible apply keeps_emit
    | with_reducible apply keeps_sendMgmt
    | split
    | (with_reducible apply keeps_mk; with_reducible assumption)

theorem keeps_refuse {s0 : State} {s : State} {q : Req} {idx sub code : Nat} (hs : Keeps s0 s) :
    Keeps s0 (refuse s q idx sub code) := by
  unfold refuse
  repeat' first
    | with_reducible assumption
    | with_reducible apply keeps_respond
    | with_reducible apply keeps_noteRefusal

theorem keeps_noteAuthority {s0 : State} {s : State} {q : Req} (hs : Keeps s0 s) :
    Keeps s0 (noteAuthority s q) := by
  unfold noteAuthority
  repeat' first
    | with_reducible assumption
    | with_reducible apply keeps_count
    | split

theorem keeps_sendRelay {s0 : State} {s : State} {opcode idx sub : Nat} {q : Req} (hs : Keeps s0 s) :
    Keeps s0 (sendRelay s opcode idx sub q) := by
  unfold sendRelay
  repeat' first
    | with_reducible assumption
    | ((try lift_lets -underBinder); intro x; clear_value (hx : x = _); refine keeps_cut (s0 := s0) hx ?_ ?_ <;> clear hx)
    | ((try lift_lets -underBinder); intro x; clear_value x)
    | (intro x; try beta_reduce)
    | with_reducible apply keeps_sendMgmt
    | split
    | (with_reducible apply keeps_mk; with_reducible assumption)

theorem keeps_takeRequest {s0 : State} {s : State} {q : Req} (hs : Keeps s0 s) :
    Keeps s0 (takeRequest s q) := by
  unfold takeRequest
  repeat' first
    | with_reducible assumption
    | ((try lift_lets -underBinder); intro x; clear_value (hx : x = _); refine keeps_cut (s0 := s0) hx ?_ ?_ <;> clear hx)
    | ((try lift_lets -underBinder); intro x; clear_value x)
    | (intro x; try beta_reduce)
    | with_reducible apply keeps_count
    | with_reducible apply keeps_setSlot
    | split
    | (with_reducible apply keeps_mk; with_reducible assumption)

theorem keeps_serveFront {s0 : State} {opcode idx sub : Nat} {q : Req} {step3 : Option Nat} {body : State → State} {s : State} (hbody : ∀ t, Keeps s0 t → Keeps s0 (body t)) (hs : Keeps s0 s) :
    Keeps s0 (serveFront opcode idx sub q step3 body s) := by
  unfold serveFront
  repeat' first
    | with_reducible assumption
    | ((try lift_lets -underBinder); intro x; clear_value (hx : x = _); refine keeps_cut (s0 := s0) hx ?_ ?_ <;> clear hx)
    | ((try lift_lets -underBinder); intro x; clear_value x)
    | (intro x; try beta_reduce)
    | with_reducible apply hbody
    | with_reducible apply keeps_count
    | with_reducible apply keeps_sendMgmt
    | with_reducible apply keeps_emit
    | with_reducible apply keeps_takeRequest
    | with_reducible apply keeps_refuse
    | with_reducible apply keeps_sendRelay
    | split

theorem keeps_writeBody {s0 : State} {e : Entry} {idx sub : Nat} {q : Req} {act : State → Act} {s : State} (hact : ∀ t, Keeps s0 t → KeepsAct s0 (act t)) (hs : Keeps s0 s) :
    Keeps s0 (writeBody e idx sub q act s) := by
  unfold writeBody
  repeat' first
    | with_reducible assumption
    | ((try lift_lets -underBinder); intro x; clear_value (hx : x = _); refine keeps_cut (s0 := s0) hx ?_ ?_ <;> clear hx)
    | ((try lift_lets -underBinder); intro x; clear_value x)
    | (intro x; try beta_reduce)
    | with_reducible apply hact
    | with_reducible apply keeps_refuse
    | with_reducible apply keeps_noteAuthority
    | with_reducible apply keeps_respond
    | split
    | refine keeps_of_done ‹_ = Act.done _› ?_
    | refine keeps_of_later ‹_ = Act.later _› ?_
    | refine keeps_of_refuse ‹_ = Act.refuse _ _› ?_
    | (with_reducible apply keeps_mk; first | with_reducible assumption | with_reducible apply keeps_refuse | with_reducible apply keeps_noteAuthority | with_reducible apply keeps_respond | refine keeps_of_done ‹_ = Act.done _› ?_ | refine keeps_of_later ‹_ = Act.later _› ?_)

theorem keeps_serveWrite {s0 : State} {idx sub : Nat} {q : Req} {act : State → Act} {s : State} (hact : ∀ t, Keeps s0 t → KeepsAct s0 (act t)) (hs : Keeps s0 s) :
    Keeps s0 (serveWrite idx sub q act s) := by
  unfold serveWrite
  repeat' first
    | with_reducible assumption
    | (intro x; try beta_reduce)
    | with_reducible apply hact
    | with_reducible apply keeps_serveFront
    | with_reducible apply keeps_writeBody
    | split

theorem keeps_giveData {s0 : State} {s : State} {q : Req} {idx sub len value : Nat} (hs : Keeps s0 s) :
    Keeps s0 (giveData s q idx sub len value) := by
  unfold giveData
  repeat' first
    | with_reducible assumption
    | with_reducible apply keeps_emit
    | with_reducible apply keeps_hostTaken
    | with_reducible apply keeps_respond
    | split

theorem keeps_readBody {s0 : State} {e : Entry} {idx sub : Nat} {q : Req} {value : State → Nat} {after : State → State} {s : State} (hafter : ∀ t, Keeps s0 t → Keeps s0 (after t)) (hs : Keeps s0 s) :
    Keeps s0 (readBody e idx sub q value after s) := by
  unfold readBody
  repeat' first
    | with_reducible assumption
    | with_reducible apply hafter
    | with_reducible apply keeps_refuse
    | with_reducible apply keeps_noteAuthority
    | with_reducible apply keeps_giveData
    | split

theorem keeps_serveRead {s0 : State} {idx sub : Nat} {q : Req} {value : State → Nat} {after : State → State} {s : State} (hafter : ∀ t, Keeps s0 t → Keeps s0 (after t)) (hs : Keeps s0 s) :
    Keeps s0 (serveRead idx sub q value after s) := by
  unfold serveRead
  repeat' first
    | with_reducible assumption
    | (intro x; try beta_reduce)
    | with_reducible apply hafter
    | with_reducible apply keeps_serveFront
    | with_reducible apply keeps_readBody
    | split

theorem keeps_serveDescribe {s0 : State} {idx sub : Nat} {q : Req} {s : State} (hs : Keeps s0 s) :
    Keeps s0 (serveDescribe idx sub q s) := by
  unfold serveDescribe
  repeat' first
    | with_reducible assumption
    | (intro x; try beta_reduce)
    | with_reducible apply keeps_serveFront
    | with_reducible apply keeps_refuse
    | with_reducible apply keeps_noteAuthority
    | with_reducible apply keeps_giveData
    | split

theorem keeps_serveNext {s0 : State} {idx sub : Nat} {q : Req} {s : State} (hs : Keeps s0 s) :
    Keeps s0 (serveNext idx sub q s) := by
  unfold serveNext
  repeat' first
    | with_reducible assumption
    | (intro x; try beta_reduce)
    | with_reducible apply keeps_serveFront
    | with_reducible apply keeps_refuse
    | with_reducible apply keeps_noteAuthority
    | with_reducible apply keeps_giveData
    | split

theorem keeps_actStore {s0 : State} {idx sub : Nat} {q : Req} {s : State} (hs : Keeps s0 s) :
    KeepsAct s0 (actStore idx sub q s) := by
  unfold actStore
  repeat' first
    | with_reducible assumption
    | ((try lift_lets -underBinder); intro x; clear_value (hx : x = _); refine keeps_cut (s0 := s0) hx ?_ ?_ <;> clear hx)
    | ((try lift_lets -underBinder); intro x; clear_value x)
    | (intro x; try beta_reduce)
    | with_reducible apply keeps_setC
    | with_reducible apply keeps_actDone

theorem keeps_endDeferred {s0 : State} {s : State} {idx sub code : Nat} (hs : Keeps s0 s) :
    Keeps s0 (endDeferred s idx sub code) := by
  unfold endDeferred
  repeat' first
    | with_reducible assumption
    | ((try lift_lets -underBinder); intro x; clear_value (hx : x = _); refine keeps_cut (s0 := s0) hx ?_ ?_ <;> clear hx)
    | ((try lift_lets -underBinder); intro x; clear_value x)
    | (intro x; try beta_reduce)
    | (with_reducible apply keeps_mk; first | with_reducible assumption)

/-! ### Machine/Dma.lean -/

theorem keeps_dropDma {s0 : State} {s : State} {m : Dma} (hs : Keeps s0 s) :
    Keeps s0 (dropDma s m) := by
  unfold dropDma
  repeat' first
    | with_reducible assumption
    | ((try lift_lets -underBinder); intro x; clear_value (hx : x = _); refine keeps_cut (s0 := s0) hx ?_ ?_ <;> clear hx)
    | ((try lift_lets -underBinder); intro x; clear_value x)
    | (intro x; try beta_reduce)
    | with_reducible apply keeps_release
    | split
    | (with_reducible apply keeps_mk; with_reducible assumption)

theorem keeps_stagePiece {s0 : State} {s : State} {m : Dma} {i : Nat} {row : List Byte} (hs : Keeps s0 s) :
    Keeps s0 (stagePiece s m i row) := by
  unfold stagePiece
  repeat' first
    | with_reducible assumption
    | with_reducible apply keeps_sramWrite
    | split

theorem keeps_dmaError {s0 : State} {s : State} {m : Dma} (hs : Keeps s0 s) :
    Keeps s0 (dmaError s m) := by
  unfold dmaError
  repeat' first
    | with_reducible assumption
    | ((try lift_lets -underBinder); intro x; clear_value (hx : x = _); refine keeps_cut (s0 := s0) hx ?_ ?_ <;> clear hx)
    | ((try lift_lets -underBinder); intro x; clear_value x)
    | (intro x; try beta_reduce)
    | with_reducible apply keeps_count
    | with_reducible apply keeps_errSync
    | with_reducible apply keeps_raise1
    | split

theorem keeps_modDma {s0 : State} {s : State} {m : Dma} {f : Dma → Dma} (hs : Keeps s0 s) :
    Keeps s0 (modDma s m f) := by
  unfold modDma
  repeat' first
    | with_reducible assumption
    | ((try lift_lets -underBinder); intro x; clear_value (hx : x = _); refine keeps_cut (s0 := s0) hx ?_ ?_ <;> clear hx)
    | ((try lift_lets -underBinder); intro x; clear_value x)
    | (intro x; try beta_reduce)
    | (with_reducible apply keeps_mk; first | with_reducible assumption)

theorem keeps_endDma {s0 : State} {s : State} {m : Dma} (hs : Keeps s0 s) :
    Keeps s0 (endDma s m) := by
  unfold endDma
  repeat' first
    | with_reducible assumption
    | ((try lift_lets -underBinder); intro x; clear_value (hx : x = _); refine keeps_cut (s0 := s0) hx ?_ ?_ <;> clear hx)
    | ((try lift_lets -underBinder); intro x; clear_value x)
    | (intro x; try beta_reduce)
    | with_reducible apply keeps_dropDma
    | with_reducible apply keeps_dmaError
    | with_reducible apply keeps_settleStone
    | with_reducible apply keeps_addSync
    | split

/-! ### Machine/Pond.lean -/

theorem keeps_pumpUnit {s0 : State} {kind unit n : Nat} : ∀ {s : State}, Keeps s0 s → Keeps s0 (pumpUnit kind unit n s) := by
  induction n with
  | zero => intro s h; exact h
  | succ n ih =>
    intro s h
    simp only [pumpUnit]
    split
    · split
      · exact h
      · exact ih (keeps_inject (keeps_setSender h))
    · exact h

theorem keeps_unitRequests {s0 : State} {s : State} {kind unit : Nat} {qs : List OutReq} (hs : Keeps s0 s) :
    Keeps s0 (unitRequests s kind unit qs) := by
  unfold unitRequests
  repeat' first
    | with_reducible assumption
    | ((try lift_lets -underBinder); intro x; clear_value (hx : x = _); refine keeps_cut (s0 := s0) hx ?_ ?_ <;> clear hx)
    | ((try lift_lets -underBinder); intro x; clear_value x)
    | (intro x; try beta_reduce)
    | with_reducible apply keeps_pumpUnit
    | with_reducible apply keeps_setSender

theorem keeps_windowMiss {s0 : State} {s : State} {off : Nat} (hs : Keeps s0 s) :
    Keeps s0 (windowMiss s off) := by
  unfold windowMiss
  repeat' first
    | with_reducible assumption
    | ((try lift_lets -underBinder); intro x; clear_value (hx : x = _); refine keeps_cut (s0 := s0) hx ?_ ?_ <;> clear hx)
    | ((try lift_lets -underBinder); intro x; clear_value x)
    | (intro x; try beta_reduce)
    | with_reducible apply keeps_count
    | with_reducible apply keeps_raise1
    | split
    | (with_reducible apply keeps_mk; with_reducible assumption)

theorem keeps_localMiss {s0 : State} {s : State} {a n : Nat} {right : BitVec 128 → Bool} (hs : Keeps s0 s) :
    Keeps s0 (localMiss s a n right) := by
  unfold localMiss
  repeat' first
    | with_reducible assumption
    | with_reducible apply keeps_windowMiss
    | split

theorem keeps_beginDma {s0 : State} {s : State} {m : Dma} {stage : Option (BitVec 32)} (hs : Keeps s0 s) :
    Keeps s0 (beginDma s m stage) := by
  unfold beginDma
  repeat' first
    | with_reducible assumption
    | ((try lift_lets -underBinder); intro x; clear_value (hx : x = _); refine keeps_cut (s0 := s0) hx ?_ ?_ <;> clear hx)
    | ((try lift_lets -underBinder); intro x; clear_value x)
    | (intro x; try beta_reduce)
    | with_reducible apply keeps_modDma
    | with_reducible apply keeps_unitRequests
    | with_reducible apply keeps_readHost
    | with_reducible apply keeps_forEach
    | split

theorem keeps_startDma {s0 : State} {s : State} {st : Nat} (hs : Keeps s0 s) :
    Keeps s0 (startDma s st) := by
  unfold startDma
  repeat' first
    | with_reducible assumption
    | ((try lift_lets -underBinder); intro x; clear_value (hx : x = _); refine keeps_cut (s0 := s0) hx ?_ ?_ <;> clear hx)
    | ((try lift_lets -underBinder); intro x; clear_value x)
    | (intro x; try beta_reduce)
    | with_reducible apply keeps_takeBuffer
    | with_reducible apply keeps_beginDma
    | with_reducible apply keeps_modDma
    | split
    | refine keeps_fst ‹_ = (_, _)› ?_

theorem keeps_stageDma {s0 : State} {s : State} {st h : Nat} (hs : Keeps s0 s) :
    Keeps s0 (stageDma s st h) := by
  unfold stageDma
  repeat' first
    | with_reducible assumption
    | with_reducible apply keeps_beginDma
    | with_reducible apply keeps_release
    | split

theorem keeps_dmaAnswered {s0 : State} {s : State} {course : Nat} {q : OutReq} {status : Nat} {data : List Byte} (hs : Keeps s0 s) :
    Keeps s0 (dmaAnswered s course q status data) := by
  unfold dmaAnswered
  repeat' first
    | with_reducible assumption
    | ((try lift_lets -underBinder); intro x; clear_value (hx : x = _); refine keeps_cut (s0 := s0) hx ?_ ?_ <;> clear hx)
    | ((try lift_lets -underBinder); intro x; clear_value x)
    | (intro x; try beta_reduce)
    | with_reducible apply keeps_setSender
    | with_reducible apply keeps_modDma
    | with_reducible apply keeps_startDma
    | with_reducible apply keeps_endDma
    | split

theorem keeps_storeRefused {s0 : State} {key a : Nat} {s : State} (hs : Keeps s0 s) :
    Keeps s0 (storeRefused s key a) := by
  unfold storeRefused
  repeat' first
    | with_reducible assumption
    | ((try lift_lets -underBinder); intro x; clear_value (hx : x = _); refine keeps_cut (s0 := s0) hx ?_ ?_ <;> clear hx)
    | ((try lift_lets -underBinder); intro x; clear_value x)
    | (intro x; try beta_reduce)
    | with_reducible apply keeps_raise1
    | with_reducible apply keeps_setWin
    | split
    | (with_reducible apply keeps_mk; with_reducible assumption)

theorem keeps_gatherAnswered {s0 : State} {lane : Nat} {q : OutReq} {status : Nat} {data : List Byte} {s : State} (hs : Keeps s0 s) :
    Keeps s0 (gatherAnswered s lane q status data) := by
  unfold gatherAnswered
  repeat' first
    | with_reducible assumption
    | ((try lift_lets -underBinder); intro x; clear_value (hx : x = _); refine keeps_cut (s0 := s0) hx ?_ ?_ <;> clear hx)
    | ((try lift_lets -underBinder); intro x; clear_value x)
    | (intro x; try beta_reduce)
    | with_reducible apply keeps_setSender
    | with_reducible apply keeps_setRouter
    | split
    | (with_reducible apply keeps_mk; with_reducible assumption)

theorem keeps_millraceAnswered {s0 : State} {s : State} {lane : Nat} {q : OutReq} {status : Nat} {data : List Byte} (hs : Keeps s0 s) :
    Keeps s0 (millraceAnswered s lane q status data) := by
  unfold millraceAnswered
  repeat' first
    | with_reducible assumption
    | ((try lift_lets -underBinder); intro x; clear_value (hx : x = _); refine keeps_cut (s0 := s0) hx ?_ ?_ <;> clear hx)
    | ((try lift_lets -underBinder); intro x; clear_value x)
    | (intro x; try beta_reduce)
    | with_reducible apply keeps_gatherAnswered
    | with_reducible apply keeps_storeRefused
    | with_reducible apply keeps_raise1
    | with_reducible apply keeps_setWin
    | split
    | (with_reducible apply keeps_mk; with_reducible assumption)

theorem keeps_managementAnswered {s0 : State} {s : State} {q : OutReq} {status : Nat} (hs : Keeps s0 s) :
    Keeps s0 (managementAnswered s q status) := by
  unfold managementAnswered
  repeat' first
    | with_reducible assumption
    | ((try lift_lets -underBinder); intro x; clear_value (hx : x = _); refine keeps_cut (s0 := s0) hx ?_ ?_ <;> clear hx)
    | ((try lift_lets -underBinder); intro x; clear_value x)
    | (intro x; try beta_reduce)
    | (with_reducible apply keeps_mk; first | with_reducible assumption)

theorem keeps_fenceDone {s0 : State} {s : State} {st : Nat} (hs : Keeps s0 s) :
    Keeps s0 (fenceDone s st) := by
  unfold fenceDone
  repeat' first
    | with_reducible assumption
    | ((try lift_lets -underBinder); intro x; clear_value (hx : x = _); refine keeps_cut (s0 := s0) hx ?_ ?_ <;> clear hx)
    | ((try lift_lets -underBinder); intro x; clear_value x)
    | (intro x; try beta_reduce)
    | with_reducible apply keeps_completeSlot
    | with_reducible apply keeps_modStone
    | split

theorem keeps_stopLate {s0 : State} {s : State} {st : Nat} (hs : Keeps s0 s) :
    Keeps s0 (stopLate s st) := by
  unfold stopLate
  repeat' first
    | with_reducible assumption
    | ((try lift_lets -underBinder); intro x; clear_value (hx : x = _); refine keeps_cut (s0 := s0) hx ?_ ?_ <;> clear hx)
    | ((try lift_lets -underBinder); intro x; clear_value x)
    | (intro x; try beta_reduce)
    | with_reducible apply keeps_stopCtx
    | with_reducible apply keeps_modStone
    | split

theorem keeps_freeRequest {s0 : State} {s : State} {st : Nat} {q : OutReq} (hs : Keeps s0 s) :
    Keeps s0 (freeRequest s st q) := by
  unfold freeRequest
  repeat' first
    | with_reducible assumption
    | ((try lift_lets -underBinder); intro x; clear_value x)
    | (intro x; try beta_reduce)
    | with_reducible apply keeps_modStone

theorem keeps_completeReq {s0 : State} {s : State} {kind unit : Nat} {q : OutReq} {status : Nat} {data : List Byte} (hs : Keeps s0 s) :
    Keeps s0 (completeReq s kind unit q status data) := by
  unfold completeReq
  repeat' first
    | with_reducible assumption
    | ((try lift_lets -underBinder); intro x; clear_value (hx : x = _); refine keeps_cut (s0 := s0) hx ?_ ?_ <;> clear hx)
    | ((try lift_lets -underBinder); intro x; clear_value x)
    | (intro x; try beta_reduce)
    | with_reducible apply keeps_setSender
    | with_reducible apply keeps_count
    | with_reducible apply keeps_pumpUnit
    | with_reducible apply keeps_dmaAnswered
    | with_reducible apply keeps_millraceAnswered
    | with_reducible apply keeps_managementAnswered
    | with_reducible apply keeps_freeRequest
    | with_reducible apply keeps_fenceDone
    | with_reducible apply keeps_raise1
    | with_reducible apply keeps_stopLate
    | with_reducible apply keeps_sramWrite
    | with_reducible apply keeps_settleStone
    | with_reducible apply keeps_signalDone
    | split
    | (with_reducible apply keeps_mk; with_reducible assumption)

theorem keeps_takeResponse {s0 : State} {s : State} {r : MemResp} (hs : Keeps s0 s) :
    Keeps s0 (takeResponse s r) := by
  unfold takeResponse
  repeat' first
    | with_reducible assumption
    | (intro x; try beta_reduce)
    | with_reducible apply keeps_count
    | with_reducible apply keeps_completeReq
    | split

theorem keeps_answer {s0 : State} {s : State} {r : MemReq} {status : Nat} {replayed : Bool} {data : List Byte} {wythe : Nat} (hs : Keeps s0 s) :
    Keeps s0 (answer s r status replayed data wythe) := by
  unfold answer
  repeat' first
    | with_reducible assumption
    | ((try lift_lets -underBinder); intro x; clear_value (hx : x = _); refine keeps_cut (s0 := s0) hx ?_ ?_ <;> clear hx)
    | ((try lift_lets -underBinder); intro x; clear_value x)
    | (intro x; try beta_reduce)
    | with_reducible apply keeps_count
    | with_reducible apply keeps_takeResponse
    | with_reducible apply keeps_inject
    | split

theorem keeps_ledgerAdd {s0 : State} {s : State} {r : MemReq} {old : Nat} (hs : Keeps s0 s) :
    Keeps s0 (ledgerAdd s r old) := by
  unfold ledgerAdd
  repeat' first
    | with_reducible assumption
    | ((try lift_lets -underBinder); intro x; clear_value (hx : x = _); refine keeps_cut (s0 := s0) hx ?_ ?_ <;> clear hx)
    | ((try lift_lets -underBinder); intro x; clear_value x)
    | (intro x; try beta_reduce)
    | (with_reducible apply keeps_mk; first | with_reducible assumption)

theorem keeps_deliverSignal {s0 : State} {s : State} {st obj n : Nat} (hs : Keeps s0 s) :
    Keeps s0 (deliverSignal s st obj n) := by
  unfold deliverSignal
  repeat' first
    | with_reducible assumption
    | ((try lift_lets -underBinder); intro x; clear_value (hx : x = _); refine keeps_cut (s0 := s0) hx ?_ ?_ <;> clear hx)
    | ((try lift_lets -underBinder); intro x; clear_value (hx : x = _); refine keeps_cutFun (s0 := s0) hx ?_ ?_ <;> clear hx)
    | ((try lift_lets -underBinder); intro x; clear_value (hx : x = _); refine keeps_cutFun2 (s0 := s0) hx ?_ ?_ <;> clear hx)
    | ((try lift_lets -underBinder); intro x; clear_value (hx : x = _); refine keeps_cutFun3 (s0 := s0) hx ?_ ?_ <;> clear hx)
    | ((try lift_lets -underBinder); intro x; clear_value x)
    | (intro x; try beta_reduce)
    | with_reducible apply keeps_raise1
    | with_reducible apply keeps_count
    | with_reducible apply keeps_settleStone
    | with_reducible apply keeps_addSync
    | with_reducible apply keeps_settle
    | with_reducible apply keeps_modStoneFor
    | with_reducible apply keeps_noteRunnable
    | with_reducible apply keeps_setCtx
    | (with_reducible apply_assumption; with_reducible assumption)
    | split

theorem keeps_windowFault {s0 : State} {s : State} {r : MemReq} (hs : Keeps s0 s) :
    Keeps s0 (windowFault s r) := by
  unfold windowFault
  repeat' first
    | with_reducible assumption
    | with_reducible apply keeps_answer
    | with_reducible apply keeps_windowMiss

theorem keeps_hotLine {s0 : State} {s : State} {line : Nat} (hs : Keeps s0 s) :
    Keeps s0 (hotLine s line) := by
  unfold hotLine
  repeat' first
    | with_reducible assumption
    | ((try lift_lets -underBinder); intro x; clear_value (hx : x = _); refine keeps_cut (s0 := s0) hx ?_ ?_ <;> clear hx)
    | ((try lift_lets -underBinder); intro x; clear_value x)
    | (intro x; try beta_reduce)
    | with_reducible apply keeps_holdSource
    | with_reducible apply keeps_setE
    | with_reducible apply keeps_count
    | split
    | (with_reducible apply keeps_mk; with_reducible assumption)

theorem keeps_queueRequest {s0 : State} {s : State} {r : MemReq} {phys : Nat} (hs : Keeps s0 s) :
    Keeps s0 (queueRequest s r phys) := by
  unfold queueRequest
  repeat' first
    | with_reducible assumption
    | ((try lift_lets -underBinder); intro x; clear_value (hx : x = _); refine keeps_cut (s0 := s0) hx ?_ ?_ <;> clear hx)
    | ((try lift_lets -underBinder); intro x; clear_value x)
    | (intro x; try beta_reduce)
    | with_reducible apply keeps_hotLine
    | with_reducible apply keeps_forEach
    | split
    | (with_reducible apply keeps_mk; with_reducible assumption)

theorem keeps_exactlyOnce {s0 : State} {s : State} {r : MemReq} {phys : Nat} {ledgerOk : Bool} {k : State → State} (hs : Keeps s0 s) (hk : ∀ t, Keeps s0 t → Keeps s0 (k t)) :
    Keeps s0 (exactlyOnce s r phys ledgerOk k) := by
  unfold exactlyOnce
  repeat' first
    | with_reducible assumption
    | ((try lift_lets -underBinder); intro x; clear_value (hx : x = _); refine keeps_cut (s0 := s0) hx ?_ ?_ <;> clear hx)
    | ((try lift_lets -underBinder); intro x; clear_value x)
    | (intro x; try beta_reduce)
    | with_reducible apply hk
    | with_reducible apply keeps_answer
    | with_reducible apply keeps_raise1
    | split
    | (with_reducible apply keeps_mk; with_reducible assumption)

theorem keeps_performSignal {s0 : State} {s : State} {r : MemReq} (hs : Keeps s0 s) :
    Keeps s0 (performSignal s r) := by
  unfold performSignal
  repeat' first
    | with_reducible assumption
    | ((try lift_lets -underBinder); intro x; clear_value (hx : x = _); refine keeps_cut (s0 := s0) hx ?_ ?_ <;> clear hx)
    | ((try lift_lets -underBinder); intro x; clear_value x)
    | (intro x; try beta_reduce)
    | with_reducible apply keeps_count
    | with_reducible apply keeps_ledgerAdd
    | with_reducible apply keeps_answer
    | with_reducible apply keeps_deliverSignal

theorem keeps_atHome {s0 : State} {s : State} {r : MemReq} {ledgerOk : Bool} (hs : Keeps s0 s) :
    Keeps s0 (atHome s r ledgerOk) := by
  unfold atHome
  repeat' first
    | with_reducible assumption
    | (intro x; try beta_reduce)
    | with_reducible apply keeps_exactlyOnce
    | with_reducible apply keeps_performSignal
    | with_reducible apply keeps_windowFault
    | with_reducible apply keeps_answer
    | with_reducible apply keeps_queueRequest
    | split

theorem keeps_finishHome {s0 : State} {s : State} {h : HomeReq} {wythe : Nat} (hs : Keeps s0 s) :
    Keeps s0 (finishHome s h wythe) := by
  unfold finishHome
  repeat' first
    | with_reducible assumption
    | ((try lift_lets -underBinder); intro x; clear_value (hx : x = _); refine keeps_cut (s0 := s0) hx ?_ ?_ <;> clear hx)
    | ((try lift_lets -underBinder); intro x; clear_value x)
    | (intro x; try beta_reduce)
    | with_reducible apply keeps_answer
    | split
    | (with_reducible apply keeps_mk; with_reducible assumption)

theorem keeps_tooLate {s0 : State} {s : State} {h : HomeReq} {wythe : Nat} (hs : Keeps s0 s) :
    Keeps s0 (tooLate s h wythe) := by
  unfold tooLate
  repeat' first
    | with_reducible assumption
    | ((try lift_lets -underBinder); intro x; clear_value (hx : x = _); refine keeps_cut (s0 := s0) hx ?_ ?_ <;> clear hx)
    | ((try lift_lets -underBinder); intro x; clear_value x)
    | (intro x; try beta_reduce)
    | with_reducible apply keeps_answer
    | (with_reducible apply keeps_mk; with_reducible assumption)

theorem keeps_performAtomic {s0 : State} {s : State} {r : MemReq} {phys : Nat} (hs : Keeps s0 s) :
    Keeps s0 (performAtomic s r phys) := by
  unfold performAtomic
  repeat' first
    | with_reducible assumption
    | ((try lift_lets -underBinder); intro x; clear_value (hx : x = _); refine keeps_cut (s0 := s0) hx ?_ ?_ <;> clear hx)
    | ((try lift_lets -underBinder); intro x; clear_value x)
    | (intro x; try beta_reduce)
    | with_reducible apply keeps_memWrite
    | with_reducible apply keeps_count
    | with_reducible apply keeps_ledgerAdd
    | with_reducible apply keeps_answer

theorem keeps_sendRequest {s0 : State} {s : State} {wythe : Nat} {r : MemReq} {dest : Nat} (hs : Keeps s0 s) :
    Keeps s0 (sendRequest s wythe r dest) := by
  unfold sendRequest
  repeat' first
    | with_reducible assumption
    | with_reducible apply keeps_atHome
    | with_reducible apply keeps_inject
    | split

theorem keeps_issueRequest {s0 : State} {s : State} {st op dest : Nat} {lake : Bool} {off n : Nat} {payload : List Byte} {dst : Option Nat} {width pc : Nat} {sig : Option Nat} {target : Nat} (hs : Keeps s0 s) :
    Keeps s0 (issueRequest s st op dest lake off n payload dst width pc sig target) := by
  unfold issueRequest
  repeat' first
    | with_reducible assumption
    | ((try lift_lets -underBinder); intro x; clear_value (hx : x = _); refine keeps_cut (s0 := s0) hx ?_ ?_ <;> clear hx)
    | ((try lift_lets -underBinder); intro x; clear_value x)
    | (intro x; try beta_reduce)
    | with_reducible apply keeps_setSender
    | with_reducible apply keeps_sendRequest
    | split

theorem keeps_memIssue {s0 : State} {s : State} {st : Nat} {ok : Bool} {srcs dsts : List (Nat × Nat)} {k : State → State} (hs : Keeps s0 s) (hk : ∀ t, Keeps s0 t → Keeps s0 (k t)) :
    Keeps s0 (memIssue s st ok srcs dsts k) := by
  unfold memIssue
  repeat' first
    | with_reducible assumption
    | (intro x; try beta_reduce)
    | with_reducible apply hk
    | with_reducible apply keeps_issue
    | with_reducible apply keeps_stallOn
    | split

theorem keeps_execMemoryLoad {s0 : State} {st : Nat} {h : IHdr} {o : Operands} {s : State} (hs : Keeps s0 s) :
    KeepsRes s0 (execMemoryLoad st h o s) := by
  unfold execMemoryLoad
  repeat' first
    | with_reducible assumption
    | ((try lift_lets -underBinder); intro x; clear_value (hx : x = _); refine keeps_cut (s0 := s0) hx ?_ ?_ <;> clear hx)
    | ((try lift_lets -underBinder); intro x; clear_value x)
    | (intro x; try beta_reduce)
    | with_reducible apply keeps_memIssue
    | with_reducible apply keeps_failStone
    | with_reducible apply keeps_completeNow
    | with_reducible apply keeps_count
    | with_reducible apply keeps_sramWrite
    | with_reducible apply keeps_stallOn
    | with_reducible apply keeps_issueRequest
    | with_reducible apply keeps_takeSlot
    | with_reducible apply keeps_run
    | split

theorem keeps_execMemoryFence {s0 : State} {st : Nat} {h : IHdr} {o : Operands} {s : State} (hs : Keeps s0 s) :
    KeepsRes s0 (execMemoryFence st h o s) := by
  unfold execMemoryFence
  repeat' first
    | with_reducible assumption
    | ((try lift_lets -underBinder); intro x; clear_value (hx : x = _); refine keeps_cut (s0 := s0) hx ?_ ?_ <;> clear hx)
    | ((try lift_lets -underBinder); intro x; clear_value x)
    | (intro x; try beta_reduce)
    | with_reducible apply keeps_memIssue
    | with_reducible apply keeps_takeSlot
    | with_reducible apply keeps_fenceDone
    | with_reducible apply keeps_modStone
    | with_reducible apply keeps_run

theorem keeps_execMemoryRequestAtHome {s0 : State} {r : MemReq} {ledgerOk : Bool} {s : State} (hs : Keeps s0 s) :
    KeepsRes s0 (execMemoryRequestAtHome r ledgerOk s) := by
  unfold execMemoryRequestAtHome
  repeat' first
    | with_reducible assumption
    | (intro x; try beta_reduce)
    | with_reducible apply keeps_atHome
    | with_reducible apply keeps_run

theorem keeps_linePass {s0 : State} {s : State} {q : LineReq} {n : Nat} {pass : State → Nat → Nat → Nat → State} (hs : Keeps s0 s) (hpass : ∀ t a b c, Keeps s0 t → Keeps s0 (pass t a b c)) :
    Keeps s0 (linePass s q n pass) := by
  unfold linePass
  repeat' first
    | with_reducible assumption
    | with_reducible apply hpass
    | split

theorem keeps_performLine {s0 : State} {s : State} {q : LineReq} {h : HomeReq} {readOk : Bool} (hs : Keeps s0 s) :
    Keeps s0 (performLine s q h readOk) := by
  unfold performLine
  repeat' first
    | with_reducible assumption
    | ((try lift_lets -underBinder); intro x; clear_value (hx : x = _); refine keeps_cut (s0 := s0) hx ?_ ?_ <;> clear hx)
    | ((try lift_lets -underBinder); intro x; clear_value x)
    | (intro x; try beta_reduce)
    | with_reducible apply keeps_linePass
    | with_reducible apply keeps_loadPass
    | with_reducible apply keeps_storePass
    | with_reducible apply keeps_memWrite
    | with_reducible apply keeps_finishHome
    | with_reducible apply keeps_count
    | with_reducible apply keeps_foldl
    | split
    | (with_reducible apply keeps_mk; with_reducible assumption)

theorem keeps_performAtomicLine {s0 : State} {s : State} {q : LineReq} {h : HomeReq} {readOk : Bool} (hs : Keeps s0 s) :
    Keeps s0 (performAtomicLine s q h readOk) := by
  unfold performAtomicLine
  repeat' first
    | with_reducible assumption
    | ((try lift_lets -underBinder); intro x; clear_value (hx : x = _); refine keeps_cut (s0 := s0) hx ?_ ?_ <;> clear hx)
    | ((try lift_lets -underBinder); intro x; clear_value x)
    | (intro x; try beta_reduce)
    | with_reducible apply keeps_exactlyOnce
    | with_reducible apply keeps_linePass
    | with_reducible apply keeps_storePass
    | with_reducible apply keeps_loadPass
    | with_reducible apply keeps_performAtomic
    | with_reducible apply keeps_answer
    | split
    | (with_reducible apply keeps_mk; with_reducible assumption)

theorem keeps_execLineRequestPerformed {s0 : State} {line : Nat} {readOk : Bool} {s : State} (hs : Keeps s0 s) :
    KeepsRes s0 (execLineRequestPerformed line readOk s) := by
  unfold execLineRequestPerformed
  repeat' first
    | with_reducible assumption
    | ((try lift_lets -underBinder); intro x; clear_value (hx : x = _); refine keeps_cut (s0 := s0) hx ?_ ?_ <;> clear hx)
    | ((try lift_lets -underBinder); intro x; clear_value x)
    | (intro x; try beta_reduce)
    | with_reducible apply keeps_raise1
    | with_reducible apply keeps_performAtomicLine
    | with_reducible apply keeps_tooLate
    | with_reducible apply keeps_performLine
    | with_reducible apply keeps_run
    | split
    | (with_reducible apply keeps_mk; with_reducible assumption)

theorem keeps_execMemoryResponse {s0 : State} {r : MemResp} {s : State} (hs : Keeps s0 s) :
    KeepsRes s0 (execMemoryResponse r s) := by
  unfold execMemoryResponse
  repeat' first
    | with_reducible assumption
    | (intro x; try beta_reduce)
    | with_reducible apply keeps_takeResponse
    | with_reducible apply keeps_run

theorem keeps_execAttemptTimeoutExpiry {s0 : State} {unitKind unit slot : Nat} {s : State} (hs : Keeps s0 s) :
    KeepsRes s0 (execAttemptTimeoutExpiry unitKind unit slot s) := by
  unfold execAttemptTimeoutExpiry
  repeat' first
    | with_reducible assumption
    | ((try lift_lets -underBinder); intro x; clear_value (hx : x = _); refine keeps_cut (s0 := s0) hx ?_ ?_ <;> clear hx)
    | ((try lift_lets -underBinder); intro x; clear_value x)
    | (intro x; try beta_reduce)
    | with_reducible apply keeps_completeReq
    | with_reducible apply keeps_setSender
    | with_reducible apply keeps_sendRequest
    | with_reducible apply keeps_count
    | with_reducible apply keeps_run
    | split

theorem keeps_execLedgerEntryExpiry {s0 : State} {srcPkg unitKind unit seq : Nat} {s : State} (hs : Keeps s0 s) :
    KeepsRes s0 (execLedgerEntryExpiry srcPkg unitKind unit seq s) := by
  unfold execLedgerEntryExpiry
  repeat' first
    | with_reducible assumption
    | ((try lift_lets -underBinder); intro x; clear_value (hx : x = _); refine keeps_cut (s0 := s0) hx ?_ ?_ <;> clear hx)
    | ((try lift_lets -underBinder); intro x; clear_value x)
    | (intro x; try beta_reduce)
    | with_reducible apply keeps_exactlyOnce
    | with_reducible apply keeps_performSignal
    | with_reducible apply keeps_queueRequest
    | with_reducible apply keeps_run
    | split
    | (with_reducible apply keeps_mk; with_reducible assumption)

/-! ### Machine/Tiers.lean -/

theorem keeps_raiseFetch {s0 : State} {s : State} {c obj cls ord : Nat} (hs : Keeps s0 s) :
    Keeps s0 (raiseFetch s c obj cls ord) := by
  unfold raiseFetch
  repeat' first
    | with_reducible assumption
    | ((try lift_lets -underBinder); intro x; clear_value (hx : x = _); refine keeps_cut (s0 := s0) hx ?_ ?_ <;> clear hx)
    | ((try lift_lets -underBinder); intro x; clear_value x)
    | (intro x; try beta_reduce)
    | split
    | (with_reducible apply keeps_mk; first | with_reducible assumption)

theorem keeps_feedFetch {s0 : State} {s : State} {w : Nat} (hs : Keeps s0 s) :
    Keeps s0 (feedFetch s w) := by
  unfold feedFetch
  repeat' first
    | with_reducible assumption
    | ((try lift_lets -underBinder); intro x; clear_value (hx : x = _); refine keeps_cut (s0 := s0) hx ?_ ?_ <;> clear hx)
    | ((try lift_lets -underBinder); intro x; clear_value x)
    | (intro x; try beta_reduce)
    | with_reducible apply keeps_raiseFetch
    | split
    | (with_reducible apply keeps_mk; with_reducible assumption)

theorem keeps_clearDirty {s0 : State} {s : State} {st g : Nat} (hs : Keeps s0 s) :
    Keeps s0 (clearDirty s st g) := by
  unfold clearDirty
  repeat' first
    | with_reducible assumption
    | ((try lift_lets -underBinder); intro x; clear_value (hx : x = _); refine keeps_cut (s0 := s0) hx ?_ ?_ <;> clear hx)
    | ((try lift_lets -underBinder); intro x; clear_value x)
    | (intro x; try beta_reduce)
    | with_reducible apply keeps_modStone

theorem keeps_laneRequests {s0 : State} {s : State} {w : Nat} {qs : List OutReq} (hs : Keeps s0 s) :
    Keeps s0 (laneRequests s w qs) := by
  unfold laneRequests
  repeat' first
    | with_reducible assumption
    | (intro x; try beta_reduce)
    | with_reducible apply keeps_unitRequests
    | with_reducible apply keeps_forEach

theorem keeps_passPieces {s0 : State} {s : State} {w a n : Nat} {right : BitVec 128 → Bool} {k : State → Nat → Nat → Nat → State} (hs : Keeps s0 s) (hk : ∀ t a b c, Keeps s0 t → Keeps s0 (k t a b c)) :
    Keeps s0 (passPieces s w a n right k) := by
  unfold passPieces
  repeat' first
    | with_reducible assumption
    | (intro x; try beta_reduce)
    | with_reducible apply hk
    | with_reducible apply keeps_forEach
    | split

theorem keeps_pondStore {s0 : State} {s : State} {a : Nat} {bs : List Byte} (hs : Keeps s0 s) :
    Keeps s0 (pondStore s a bs) := by
  unfold pondStore
  repeat' first
    | with_reducible assumption
    | with_reducible apply keeps_unitRequests
    | with_reducible apply keeps_pondWrite
    | with_reducible apply keeps_localMiss
    | split
    | refine keeps_of_some ‹_ = some _› ?_

theorem keeps_toHome {s0 : State} {s : State} {c obj : Nat} {d : ObjDesc} {off : Nat} {bs : List Byte} (hs : Keeps s0 s) :
    Keeps s0 (toHome s c obj d off bs) := by
  unfold toHome
  repeat' first
    | with_reducible assumption
    | ((try lift_lets -underBinder); intro x; clear_value (hx : x = _); refine keeps_cut (s0 := s0) hx ?_ ?_ <;> clear hx)
    | ((try lift_lets -underBinder); intro x; clear_value x)
    | (intro x; try beta_reduce)
    | with_reducible apply keeps_storeRefused
    | with_reducible apply keeps_emit
    | with_reducible apply keeps_laneRequests
    | with_reducible apply keeps_pondWrite
    | with_reducible apply keeps_passPieces
    | with_reducible apply keeps_storePass
    | with_reducible apply keeps_localMiss
    | split
    | refine keeps_of_some ‹_ = some _› ?_

theorem keeps_writeBack {s0 : State} {s : State} {c obj : Nat} (hs : Keeps s0 s) :
    Keeps s0 (writeBack s c obj) := by
  unfold writeBack
  repeat' first
    | with_reducible assumption
    | ((try lift_lets -underBinder); intro x; clear_value (hx : x = _); refine keeps_cut (s0 := s0) hx ?_ ?_ <;> clear hx)
    | ((try lift_lets -underBinder); intro x; clear_value x)
    | (intro x; try beta_reduce)
    | with_reducible apply keeps_countBy
    | with_reducible apply keeps_clearDirty
    | with_reducible apply keeps_toHome
    | with_reducible apply keeps_forEach
    | split
    | (with_reducible apply keeps_mk; with_reducible assumption)

theorem keeps_discardDirty {s0 : State} {s : State} {c obj : Nat} (hs : Keeps s0 s) :
    Keeps s0 (discardDirty s c obj) := by
  unfold discardDirty
  repeat' first
    | with_reducible assumption
    | (intro x; try beta_reduce)
    | with_reducible apply keeps_clearDirty
    | with_reducible apply keeps_forEach

theorem keeps_evictOccupant {s0 : State} {s : State} {o : Nat × Nat} (hs : Keeps s0 s) :
    Keeps s0 (evictOccupant s o) := by
  unfold evictOccupant
  repeat' first
    | with_reducible assumption
    | ((try lift_lets -underBinder); intro x; clear_value (hx : x = _); refine keeps_cut (s0 := s0) hx ?_ ?_ <;> clear hx)
    | ((try lift_lets -underBinder); intro x; clear_value x)
    | (intro x; try beta_reduce)
    | with_reducible apply keeps_writeBack
    | with_reducible apply keeps_discardDirty
    | with_reducible apply keeps_setWin
    | split

theorem keeps_beginFill {s0 : State} {s : State} {w c obj : Nat} (hs : Keeps s0 s) :
    Keeps s0 (beginFill s w c obj) := by
  unfold beginFill
  repeat' first
    | with_reducible assumption
    | ((try lift_lets -underBinder); intro x; clear_value (hx : x = _); refine keeps_cut (s0 := s0) hx ?_ ?_ <;> clear hx)
    | ((try lift_lets -underBinder); intro x; clear_value x)
    | (intro x; try beta_reduce)
    | with_reducible apply keeps_readHost
    | with_reducible apply keeps_laneRequests
    | split
    | (with_reducible apply keeps_mk; with_reducible assumption)

theorem keeps_execFillStart {s0 : State} {wythe ctx obj : Nat} {s : State} (hs : Keeps s0 s) :
    KeepsRes s0 (execFillStart wythe ctx obj s) := by
  unfold execFillStart
  repeat' first
    | with_reducible assumption
    | ((try lift_lets -underBinder); intro x; clear_value (hx : x = _); refine keeps_cut (s0 := s0) hx ?_ ?_ <;> clear hx)
    | ((try lift_lets -underBinder); intro x; clear_value x)
    | (intro x; try beta_reduce)
    | with_reducible apply keeps_feedFetch
    | with_reducible apply keeps_count
    | with_reducible apply keeps_setWin
    | with_reducible apply keeps_evictOccupant
    | with_reducible apply keeps_beginFill
    | with_reducible apply keeps_forEach
    | with_reducible apply keeps_run
    | split
    | (with_reducible apply keeps_mk; with_reducible assumption)

theorem keeps_placeObject {s0 : State} {c n : Nat} {rings : State → Nat → List (Nat × Nat × Nat)} {replicasOk : State → Nat → List (Nat × ObjDesc) → Bool} {s : State} (hs : Keeps s0 s) :
    KeepsAct s0 (placeObject c n rings replicasOk s) := by
  unfold placeObject
  repeat' first
    | with_reducible assumption
    | ((try lift_lets -underBinder); intro x; clear_value (hx : x = _); refine keeps_cut (s0 := s0) hx ?_ ?_ <;> clear hx)
    | ((try lift_lets -underBinder); intro x; clear_value x)
    | (intro x; try beta_reduce)
    | with_reducible apply keeps_refuse
    | with_reducible apply keeps_evictOccupant
    | with_reducible apply keeps_modCtx
    | with_reducible apply keeps_memWrite
    | with_reducible apply keeps_setWin
    | with_reducible apply keeps_actDone
    | with_reducible apply keeps_actRefuse
    | split

theorem keeps_flushObject {s0 : State} {c n : Nat} {s : State} (hs : Keeps s0 s) :
    KeepsAct s0 (flushObject c n s) := by
  unfold flushObject
  repeat' first
    | with_reducible assumption
    | with_reducible apply keeps_refuse
    | with_reducible apply keeps_writeBack
    | with_reducible apply keeps_actDone
    | with_reducible apply keeps_actRefuse
    | split

theorem keeps_actFlushObject {s0 : State} {q : Req} {s : State} (hs : Keeps s0 s) :
    KeepsAct s0 (actFlushObject q s) := by
  unfold actFlushObject
  repeat' first
    | with_reducible assumption
    | with_reducible apply keeps_flushObject

theorem keeps_execFlushObject {s0 : State} {q : Req} {s : State} (hs : Keeps s0 s) :
    KeepsRes s0 (execFlushObject q s) := by
  unfold execFlushObject
  repeat' first
    | with_reducible assumption
    | (intro x; try beta_reduce)
    | with_reducible apply keeps_serveWrite
    | with_reducible apply keeps_actFlushObject
    | with_reducible apply keeps_run

theorem keeps_pondPut {s0 : State} {s : State} {a n v : Nat} (hs : Keeps s0 s) :
    Keeps s0 (pondPut s a n v) := by
  unfold pondPut
  repeat' first
    | with_reducible assumption
    | with_reducible apply keeps_pondStore

theorem keeps_kvStore {s0 : State} {s : State} {st a : Nat} {bs : List Byte} (hs : Keeps s0 s) :
    Keeps s0 (kvStore s st a bs) := by
  unfold kvStore
  repeat' first
    | with_reducible assumption
    | ((try lift_lets -underBinder); intro x; clear_value (hx : x = _); refine keeps_cut (s0 := s0) hx ?_ ?_ <;> clear hx)
    | ((try lift_lets -underBinder); intro x; clear_value x)
    | (intro x; try beta_reduce)
    | with_reducible apply keeps_pondStore
    | with_reducible apply keeps_passPieces
    | with_reducible apply keeps_storePass
    | split

theorem keeps_kvTake {s0 s t : State} {c d n : Nat} (hs : Keeps s0 s) (e : kvTake s c d = some (t, n)) : Keeps s0 t := by
  simp only [kvTake] at e
  split at e
  · cases e
  · split at e
    · cases e
    · split at e
      · cases e
      · cases e
        exact keeps_pondPut hs

theorem keeps_kvPut {s0 : State} {s : State} {c st i pos off : Nat} {bs : List Byte} (hs : Keeps s0 s) :
    Keeps s0 (kvPut s c st i pos off bs).1 := by
  unfold kvPut
  repeat' first
    | with_reducible assumption
    | ((try lift_lets -underBinder); intro x; clear_value (hx : x = _); refine keeps_cut (s0 := s0) hx ?_ ?_ <;> clear hx)
    | ((try lift_lets -underBinder); intro x; clear_value x)
    | (intro x; try beta_reduce)
    | with_reducible apply keeps_raise1
    | with_reducible apply keeps_count
    | with_reducible apply keeps_kvStore
    | refine keeps_kvTake ?_ ‹kvTake _ _ _ = some _›
    | with_reducible apply keeps_pondPut
    | split

theorem keeps_execKvWrite {s0 : State} {st stream pos off : Nat} {bytes : List Byte} {s : State} (hs : Keeps s0 s) :
    KeepsRes s0 (execKvWrite st stream pos off bytes s) := by
  unfold execKvWrite
  repeat' first
    | with_reducible assumption
    | ((try lift_lets -underBinder); intro x; clear_value (hx : x = _); refine keeps_cut (s0 := s0) hx ?_ ?_ <;> clear hx)
    | ((try lift_lets -underBinder); intro x; clear_value x)
    | (intro x; try beta_reduce)
    | with_reducible apply keeps_kvPut
    | with_reducible apply keeps_stallOn
    | with_reducible apply keeps_run
    | split
    | refine keeps_fst ‹_ = (_, _)› ?_
    | (with_reducible apply keeps_mk; first | with_reducible assumption | with_reducible apply keeps_kvPut | with_reducible apply keeps_stallOn | refine keeps_fst ‹_ = (_, _)› ?_)

theorem keeps_kvRetry {s0 : State} {s : State} {c : Nat} (hs : Keeps s0 s) :
    Keeps s0 (kvRetry s c) := by
  unfold kvRetry
  repeat' first
    | with_reducible assumption
    | ((try lift_lets -underBinder); intro x; clear_value (hx : x = _); refine keeps_cut (s0 := s0) hx ?_ ?_ <;> clear hx)
    | ((try lift_lets -underBinder); intro x; clear_value x)
    | (intro x; try beta_reduce)
    | with_reducible apply keeps_kvPut
    | with_reducible apply keeps_settle
    | with_reducible apply keeps_modStoneFor
    | with_reducible apply keeps_forEach
    | split
    | refine keeps_fst ‹_ = (_, _)› ?_
    | (with_reducible apply keeps_mk; first | with_reducible assumption | with_reducible apply keeps_kvPut | with_reducible apply keeps_settle | with_reducible apply keeps_modStoneFor | refine keeps_fst ‹_ = (_, _)› ?_)

theorem keeps_actKvPoolTail {s0 : State} {q : Req} {s : State} (hs : Keeps s0 s) :
    KeepsAct s0 (actKvPoolTail q s) := by
  unfold actKvPoolTail
  repeat' first
    | with_reducible assumption
    | ((try lift_lets -underBinder); intro x; clear_value (hx : x = _); refine keeps_cut (s0 := s0) hx ?_ ?_ <;> clear hx)
    | ((try lift_lets -underBinder); intro x; clear_value x)
    | (intro x; try beta_reduce)
    | with_reducible apply keeps_refuse
    | with_reducible apply keeps_kvRetry
    | with_reducible apply keeps_pondPut
    | with_reducible apply keeps_actDone
    | with_reducible apply keeps_actRefuse
    | split

theorem keeps_execKvPoolTail {s0 : State} {q : Req} {s : State} (hs : Keeps s0 s) :
    KeepsRes s0 (execKvPoolTail q s) := by
  unfold execKvPoolTail
  repeat' first
    | with_reducible assumption
    | (intro x; try beta_reduce)
    | with_reducible apply keeps_serveWrite
    | with_reducible apply keeps_actKvPoolTail
    | with_reducible apply keeps_run

theorem keeps_kvAdvance {s0 : State} {s : State} {c i w : Nat} (hs : Keeps s0 s) :
    KeepsOpt s0 (kvAdvance s c i w) := by
  unfold kvAdvance
  repeat' first
    | with_reducible assumption
    | ((try lift_lets -underBinder); intro x; clear_value (hx : x = _); refine keeps_cut (s0 := s0) hx ?_ ?_ <;> clear hx)
    | ((try lift_lets -underBinder); intro x; clear_value x)
    | (intro x; try beta_reduce)
    | with_reducible apply keeps_pondPut
    | with_reducible apply keeps_forEach
    | with_reducible apply keeps_some
    | with_reducible apply keeps_none
    | with_reducible apply keeps_map
    | split

theorem keeps_actSetWatermark {s0 : State} {q : Req} {s : State} (hs : Keeps s0 s) :
    KeepsAct s0 (actSetWatermark q s) := by
  unfold actSetWatermark
  repeat' first
    | with_reducible assumption
    | ((try lift_lets -underBinder); intro x; clear_value (hx : x = _); refine keeps_cut (s0 := s0) hx ?_ ?_ <;> clear hx)
    | ((try lift_lets -underBinder); intro x; clear_value x)
    | (intro x; try beta_reduce)
    | with_reducible apply keeps_refuse
    | with_reducible apply keeps_kvAdvance
    | with_reducible apply keeps_actDone
    | with_reducible apply keeps_actRefuse
    | split
    | refine keeps_of_some ‹_ = some _› ?_

theorem keeps_execSetWatermark {s0 : State} {q : Req} {s : State} (hs : Keeps s0 s) :
    KeepsRes s0 (execSetWatermark q s) := by
  unfold execSetWatermark
  repeat' first
    | with_reducible assumption
    | (intro x; try beta_reduce)
    | with_reducible apply keeps_serveWrite
    | with_reducible apply keeps_actSetWatermark
    | with_reducible apply keeps_run

theorem keeps_kvGive {s0 : State} {s : State} {c stream page : Nat} (hs : Keeps s0 s) :
    Keeps s0 (kvGive s c stream page) := by
  unfold kvGive
  repeat' first
    | with_reducible assumption
    | ((try lift_lets -underBinder); intro x; clear_value (hx : x = _); refine keeps_cut (s0 := s0) hx ?_ ?_ <;> clear hx)
    | ((try lift_lets -underBinder); intro x; clear_value x)
    | (intro x; try beta_reduce)
    | with_reducible apply keeps_pondPut
    | split

theorem keeps_actReleaseProvisional {s0 : State} {q : Req} {s : State} (hs : Keeps s0 s) :
    KeepsAct s0 (actReleaseProvisional q s) := by
  unfold actReleaseProvisional
  repeat' first
    | with_reducible assumption
    | ((try lift_lets -underBinder); intro x; clear_value (hx : x = _); refine keeps_cut (s0 := s0) hx ?_ ?_ <;> clear hx)
    | ((try lift_lets -underBinder); intro x; clear_value x)
    | (intro x; try beta_reduce)
    | with_reducible apply keeps_refuse
    | with_reducible apply keeps_kvRetry
    | with_reducible apply keeps_pondPut
    | with_reducible apply keeps_kvGive
    | with_reducible apply keeps_forEach
    | with_reducible apply keeps_actDone
    | with_reducible apply keeps_actRefuse
    | split

theorem keeps_execReleaseProvisional {s0 : State} {q : Req} {s : State} (hs : Keeps s0 s) :
    KeepsRes s0 (execReleaseProvisional q s) := by
  unfold execReleaseProvisional
  repeat' first
    | with_reducible assumption
    | (intro x; try beta_reduce)
    | with_reducible apply keeps_serveWrite
    | with_reducible apply keeps_actReleaseProvisional
    | with_reducible apply keeps_run

/-! ### Machine/Sync.lean -/

theorem keeps_execSyncSet {s0 : State} {st : Nat} {h : IHdr} {o : Operands} {s : State} (hs : Keeps s0 s) :
    KeepsRes s0 (execSyncSet st h o s) := by
  unfold execSyncSet
  repeat' first
    | with_reducible assumption
    | ((try lift_lets -underBinder); intro x; clear_value (hx : x = _); refine keeps_cut (s0 := s0) hx ?_ ?_ <;> clear hx)
    | ((try lift_lets -underBinder); intro x; clear_value x)
    | (intro x; try beta_reduce)
    | with_reducible apply keeps_memIssue
    | with_reducible apply keeps_completeNow
    | with_reducible apply keeps_modStone
    | with_reducible apply keeps_run

theorem keeps_execSyncAdd {s0 : State} {st : Nat} {h : IHdr} {o : Operands} {s : State} (hs : Keeps s0 s) :
    KeepsRes s0 (execSyncAdd st h o s) := by
  unfold execSyncAdd
  repeat' first
    | with_reducible assumption
    | ((try lift_lets -underBinder); intro x; clear_value (hx : x = _); refine keeps_cut (s0 := s0) hx ?_ ?_ <;> clear hx)
    | ((try lift_lets -underBinder); intro x; clear_value x)
    | (intro x; try beta_reduce)
    | with_reducible apply keeps_memIssue
    | with_reducible apply keeps_completeNow
    | with_reducible apply keeps_modStone
    | with_reducible apply keeps_run

theorem keeps_execSyncSignal {s0 : State} {st : Nat} {h : IHdr} {o : Operands} {s : State} (hs : Keeps s0 s) :
    KeepsRes s0 (execSyncSignal st h o s) := by
  unfold execSyncSignal
  repeat' first
    | with_reducible assumption
    | ((try lift_lets -underBinder); intro x; clear_value (hx : x = _); refine keeps_cut (s0 := s0) hx ?_ ?_ <;> clear hx)
    | ((try lift_lets -underBinder); intro x; clear_value x)
    | (intro x; try beta_reduce)
    | with_reducible apply keeps_memIssue
    | with_reducible apply keeps_deliverSignal
    | with_reducible apply keeps_completeNow
    | with_reducible apply keeps_stallOn
    | with_reducible apply keeps_issueRequest
    | with_reducible apply keeps_takeSlot
    | with_reducible apply keeps_run
    | split

theorem keeps_execSyncWait {s0 : State} {st : Nat} {h : IHdr} {o : Operands} {s : State} (hs : Keeps s0 s) :
    KeepsRes s0 (execSyncWait st h o s) := by
  unfold execSyncWait
  repeat' first
    | with_reducible assumption
    | ((try lift_lets -underBinder); intro x; clear_value (hx : x = _); refine keeps_cut (s0 := s0) hx ?_ ?_ <;> clear hx)
    | ((try lift_lets -underBinder); intro x; clear_value x)
    | (intro x; try beta_reduce)
    | with_reducible apply keeps_memIssue
    | with_reducible apply keeps_failStone
    | with_reducible apply keeps_completeNow
    | with_reducible apply keeps_settleStone
    | with_reducible apply keeps_modStone
    | with_reducible apply keeps_run
    | split

theorem keeps_execSyncRead {s0 : State} {st : Nat} {h : IHdr} {o : Operands} {s : State} (hs : Keeps s0 s) :
    KeepsRes s0 (execSyncRead st h o s) := by
  unfold execSyncRead
  repeat' first
    | with_reducible assumption
    | (intro x; try beta_reduce)
    | with_reducible apply keeps_memIssue
    | with_reducible apply keeps_completeNow
    | with_reducible apply keeps_modStone
    | with_reducible apply keeps_run

theorem keeps_execSyncClear {s0 : State} {st : Nat} {h : IHdr} {o : Operands} {s : State} (hs : Keeps s0 s) :
    KeepsRes s0 (execSyncClear st h o s) := by
  unfold execSyncClear
  repeat' first
    | with_reducible assumption
    | ((try lift_lets -underBinder); intro x; clear_value (hx : x = _); refine keeps_cut (s0 := s0) hx ?_ ?_ <;> clear hx)
    | ((try lift_lets -underBinder); intro x; clear_value x)
    | (intro x; try beta_reduce)
    | with_reducible apply keeps_memIssue
    | with_reducible apply keeps_completeNow
    | with_reducible apply keeps_modStone
    | with_reducible apply keeps_run

theorem keeps_execSignalDelivery {s0 : State} {st obj addend : Nat} {s : State} (hs : Keeps s0 s) :
    KeepsRes s0 (execSignalDelivery st obj addend s) := by
  unfold execSignalDelivery
  repeat' first
    | with_reducible assumption
    | (intro x; try beta_reduce)
    | with_reducible apply keeps_deliverSignal
    | with_reducible apply keeps_run

theorem keeps_execSyncWatchdogExpiry {s0 : State} {st : Nat} {s : State} (hs : Keeps s0 s) :
    KeepsRes s0 (execSyncWatchdogExpiry st s) := by
  unfold execSyncWatchdogExpiry
  repeat' first
    | with_reducible assumption
    | ((try lift_lets -underBinder); intro x; clear_value (hx : x = _); refine keeps_cut (s0 := s0) hx ?_ ?_ <;> clear hx)
    | ((try lift_lets -underBinder); intro x; clear_value x)
    | (intro x; try beta_reduce)
    | with_reducible apply keeps_holdSource
    | with_reducible apply keeps_count
    | with_reducible apply keeps_run
    | split

end Sys2Proof.Machine
end

