-- ==== Sys2Proof/Laws/KeepsExperts.lean ====
section
/-! SUPPORT. One lemma per operation of scoring and dispatch: it keeps what every command keeps (Laws/Keeps.lean). -/

namespace Sys2Proof.Machine

/-! ### Machine/Router.lean -/

theorem keeps_beginStream {s0 : State} {b c n : Nat} {s : State} (hs : Keeps s0 s) :
    Keeps s0 (beginStream s b c n) := by
  unfold beginStream
  repeat' first
    | with_reducible assumption
    | ((try lift_lets -underBinder); intro x; clear_value (hx : x = _); refine keeps_cut (s0 := s0) hx ?_ ?_ <;> clear hx)
    | ((try lift_lets -underBinder); intro x; clear_value x)
    | (intro x; try beta_reduce)
    | with_reducible apply keeps_laneRequests
    | with_reducible apply keeps_setRouter
    | split
    | (with_reducible apply keeps_mk; with_reducible assumption)

theorem keeps_askStreams {s0 : State} {s : State} {c n : Nat} (hs : Keeps s0 s) :
    Keeps s0 (askStreams s c n) := by
  unfold askStreams
  repeat' first
    | with_reducible assumption
    | ((try lift_lets -underBinder); intro x; clear_value (hx : x = _); refine keeps_cut (s0 := s0) hx ?_ ?_ <;> clear hx)
    | ((try lift_lets -underBinder); intro x; clear_value x)
    | (intro x; try beta_reduce)
    | with_reducible apply keeps_beginStream
    | with_reducible apply keeps_setRouter
    | with_reducible apply keeps_forEach
    | split

theorem keeps_passTokens {s0 : State} {s : State} {b c n g : Nat} {sh : Share} (hs : Keeps s0 s) :
    Keeps s0 (passTokens s b c n g sh) := by
  unfold passTokens
  repeat' first
    | with_reducible assumption
    | ((try lift_lets -underBinder); intro x; clear_value (hx : x = _); refine keeps_cut (s0 := s0) hx ?_ ?_ <;> clear hx)
    | ((try lift_lets -underBinder); intro x; clear_value x)
    | (intro x; try beta_reduce)
    | with_reducible apply keeps_countBy
    | split
    | (with_reducible apply keeps_mk; with_reducible assumption)

theorem keeps_moveLookups {s0 : State} {s t : State} {b : Nat} (hs : Keeps s0 s) (ht : Keeps s0 t) :
    Keeps s0 (moveLookups s t b) := by
  unfold moveLookups
  repeat' first
    | with_reducible assumption
    | ((try lift_lets -underBinder); intro x; clear_value (hx : x = _); refine keeps_cut (s0 := s0) hx ?_ ?_ <;> clear hx)
    | ((try lift_lets -underBinder); intro x; clear_value x)
    | (intro x; try beta_reduce)
    | split
    | (with_reducible apply keeps_mk; first | with_reducible assumption)

theorem keeps_fenceRouter {s0 : State} {s : State} {b : Nat} (hs : Keeps s0 s) :
    Keeps s0 (fenceRouter s b) := by
  unfold fenceRouter
  repeat' first
    | with_reducible assumption
    | ((try lift_lets -underBinder); intro x; clear_value (hx : x = _); refine keeps_cut (s0 := s0) hx ?_ ?_ <;> clear hx)
    | ((try lift_lets -underBinder); intro x; clear_value x)
    | (intro x; try beta_reduce)
    | with_reducible apply keeps_moveLookups
    | with_reducible apply keeps_setRouter
    | with_reducible apply keeps_askStreams
    | with_reducible apply keeps_forEach
    | split
    | (with_reducible apply keeps_mk; with_reducible assumption)

/-! ### Machine/Confluence.lean -/

theorem keeps_sendChoices {s0 : State} {s : State} {dest cls target stone : Nat} {cs : List Choice} (hs : Keeps s0 s) :
    Keeps s0 (sendChoices s dest cls target stone cs) := by
  unfold sendChoices
  repeat' first
    | with_reducible assumption
    | (intro x; try beta_reduce)
    | with_reducible apply keeps_inject
    | with_reducible apply keeps_forEach

theorem keeps_windowAfter {s0 : State} {s : State} {c layer first : Nat} (hs : Keeps s0 s) :
    Keeps s0 (windowAfter s c layer first) := by
  unfold windowAfter
  repeat' first
    | with_reducible assumption
    | ((try lift_lets -underBinder); intro x; clear_value (hx : x = _); refine keeps_cut (s0 := s0) hx ?_ ?_ <;> clear hx)
    | ((try lift_lets -underBinder); intro x; clear_value x)
    | (intro x; try beta_reduce)
    | with_reducible apply keeps_setWin
    | split

theorem keeps_ensureRun {s0 : State} {s : State} {c layer gen first span : Nat} (hs : Keeps s0 s) :
    Keeps s0 (ensureRun s c layer gen first span) := by
  unfold ensureRun
  repeat' first
    | with_reducible assumption
    | ((try lift_lets -underBinder); intro x; clear_value (hx : x = _); refine keeps_cut (s0 := s0) hx ?_ ?_ <;> clear hx)
    | ((try lift_lets -underBinder); intro x; clear_value x)
    | (intro x; try beta_reduce)
    | split
    | (with_reducible apply keeps_mk; first | with_reducible assumption)

theorem keeps_pushEntry {s0 : State} {s : State} {a : Admitted} (hs : Keeps s0 s) :
    Keeps s0 (pushEntry s a) := by
  unfold pushEntry
  repeat' first
    | with_reducible assumption
    | ((try lift_lets -underBinder); intro x; clear_value (hx : x = _); refine keeps_cut (s0 := s0) hx ?_ ?_ <;> clear hx)
    | ((try lift_lets -underBinder); intro x; clear_value x)
    | (intro x; try beta_reduce)
    | with_reducible apply keeps_sramWrite
    | split
    | (with_reducible apply keeps_mk; with_reducible assumption)

theorem keeps_placeCopy {s0 : State} {s : State} {handle : Option Nat} {srcPkg : Nat} {d : TokenDesc} {payload : List Byte} (hs : Keeps s0 s) :
    Keeps s0 (placeCopy s handle srcPkg d payload) := by
  unfold placeCopy
  repeat' first
    | with_reducible assumption
    | ((try lift_lets -underBinder); intro x; clear_value (hx : x = _); refine keeps_cut (s0 := s0) hx ?_ ?_ <;> clear hx)
    | ((try lift_lets -underBinder); intro x; clear_value x)
    | (intro x; try beta_reduce)
    | with_reducible apply keeps_sramWrite
    | with_reducible apply keeps_pushEntry
    | with_reducible apply keeps_ensureRun
    | with_reducible apply keeps_memWrite
    | with_reducible apply keeps_storePass
    | with_reducible apply keeps_release
    | with_reducible apply keeps_forEach
    | split
    | (with_reducible apply keeps_mk; with_reducible assumption)

theorem keeps_acceptCopy {s0 : State} {s : State} {srcPkg : Nat} {d : TokenDesc} {payload : List Byte} (hs : Keeps s0 s) :
    Keeps s0 (acceptCopy s srcPkg d payload) := by
  unfold acceptCopy
  repeat' first
    | with_reducible assumption
    | with_reducible apply keeps_takeBuffer
    | with_reducible apply keeps_placeCopy
    | with_reducible apply keeps_count
    | split
    | refine keeps_fst ‹_ = (_, _)› ?_

theorem keeps_modConf {s0 : State} {s : State} {k : TokKey} {f : Conf → Conf} (hs : Keeps s0 s) :
    Keeps s0 (modConf s k f) := by
  unfold modConf
  repeat' first
    | with_reducible assumption
    | ((try lift_lets -underBinder); intro x; clear_value (hx : x = _); refine keeps_cut (s0 := s0) hx ?_ ?_ <;> clear hx)
    | ((try lift_lets -underBinder); intro x; clear_value x)
    | (intro x; try beta_reduce)
    | (with_reducible apply keeps_mk; first | with_reducible assumption)

theorem keeps_sendCopy {s0 : State} {s : State} {c : Conf} {dest fanout spill target : Nat} {resend alternate : Bool} (hs : Keeps s0 s) :
    Keeps s0 (sendCopy s c dest fanout spill target resend alternate) := by
  unfold sendCopy
  repeat' first
    | with_reducible assumption
    | ((try lift_lets -underBinder); intro x; clear_value (hx : x = _); refine keeps_cut (s0 := s0) hx ?_ ?_ <;> clear hx)
    | ((try lift_lets -underBinder); intro x; clear_value x)
    | (intro x; try beta_reduce)
    | with_reducible apply keeps_count
    | with_reducible apply keeps_fresh
    | with_reducible apply keeps_acceptCopy
    | with_reducible apply keeps_passBytes
    | with_reducible apply keeps_inject
    | with_reducible apply keeps_forEach
    | split

theorem keeps_finishToken {s0 : State} {s : State} {k : TokKey} {h : Nat} (hs : Keeps s0 s) :
    Keeps s0 (finishToken s k h) := by
  unfold finishToken
  repeat' first
    | with_reducible assumption
    | ((try lift_lets -underBinder); intro x; clear_value (hx : x = _); refine keeps_cut (s0 := s0) hx ?_ ?_ <;> clear hx)
    | ((try lift_lets -underBinder); intro x; clear_value x)
    | (intro x; try beta_reduce)
    | with_reducible apply keeps_release
    | with_reducible apply keeps_sramWrite
    | with_reducible apply keeps_setPool
    | with_reducible apply keeps_count
    | with_reducible apply keeps_completeSubmit
    | with_reducible apply keeps_modConf
    | split
    | (with_reducible apply keeps_mk; with_reducible assumption)

theorem keeps_endToken {s0 : State} {s : State} {k : TokKey} (hs : Keeps s0 s) :
    Keeps s0 (endToken s k) := by
  unfold endToken
  repeat' first
    | with_reducible assumption
    | ((try lift_lets -underBinder); intro x; clear_value (hx : x = _); refine keeps_cut (s0 := s0) hx ?_ ?_ <;> clear hx)
    | ((try lift_lets -underBinder); intro x; clear_value x)
    | (intro x; try beta_reduce)
    | with_reducible apply keeps_modConf
    | with_reducible apply keeps_takeBuffer
    | with_reducible apply keeps_finishToken
    | split
    | refine keeps_fst ‹_ = (_, _)› ?_

theorem keeps_dropBufs {s0 : State} {s : State} {k : TokKey} {which : Conf → Nat → Bool} (hs : Keeps s0 s) :
    Keeps s0 (dropBufs s k which) := by
  unfold dropBufs
  repeat' first
    | with_reducible assumption
    | ((try lift_lets -underBinder); intro x; clear_value (hx : x = _); refine keeps_cut (s0 := s0) hx ?_ ?_ <;> clear hx)
    | ((try lift_lets -underBinder); intro x; clear_value x)
    | (intro x; try beta_reduce)
    | with_reducible apply keeps_modConf
    | with_reducible apply keeps_release
    | with_reducible apply keeps_forEach
    | with_reducible apply keeps_foldl
    | split

theorem keeps_advance {s0 : State} {s : State} {k : TokKey} (hs : Keeps s0 s) :
    Keeps s0 (advance s k) := by
  unfold advance
  repeat' first
    | with_reducible assumption
    | ((try lift_lets -underBinder); intro x; clear_value (hx : x = _); refine keeps_cut (s0 := s0) hx ?_ ?_ <;> clear hx)
    | ((try lift_lets -underBinder); intro x; clear_value x)
    | (intro x; try beta_reduce)
    | with_reducible apply keeps_dropBufs
    | with_reducible apply keeps_modConf
    | with_reducible apply keeps_endToken
    | split

theorem keeps_openGen {s0 : State} {s : State} {bay c g : Nat} (hs : Keeps s0 s) :
    Keeps s0 (openGen s bay c g) := by
  unfold openGen
  repeat' first
    | with_reducible assumption
    | ((try lift_lets -underBinder); intro x; clear_value (hx : x = _); refine keeps_cut (s0 := s0) hx ?_ ?_ <;> clear hx)
    | ((try lift_lets -underBinder); intro x; clear_value x)
    | (intro x; try beta_reduce)
    | split
    | (with_reducible apply keeps_mk; first | with_reducible assumption)

theorem keeps_unhold {s0 : State} {s : State} {t : Tok} (hs : Keeps s0 s) :
    Keeps s0 (unhold s t) := by
  unfold unhold
  repeat' first
    | with_reducible assumption
    | ((try lift_lets -underBinder); intro x; clear_value (hx : x = _); refine keeps_cut (s0 := s0) hx ?_ ?_ <;> clear hx)
    | ((try lift_lets -underBinder); intro x; clear_value x)
    | (intro x; try beta_reduce)
    | with_reducible apply keeps_settle
    | with_reducible apply keeps_modStoneFor
    | split

theorem keeps_wakeTok {s0 : State} {s : State} {t : Tok} (hs : Keeps s0 s) :
    Keeps s0 (wakeTok s t) := by
  unfold wakeTok
  repeat' first
    | with_reducible assumption
    | ((try lift_lets -underBinder); intro x; clear_value (hx : x = _); refine keeps_cut (s0 := s0) hx ?_ ?_ <;> clear hx)
    | ((try lift_lets -underBinder); intro x; clear_value x)
    | (intro x; try beta_reduce)
    | with_reducible apply keeps_unhold
    | with_reducible apply keeps_askStreams
    | with_reducible apply keeps_openGen
    | split
    | (with_reducible apply keeps_mk; with_reducible assumption)

theorem keeps_wakeGens {s0 : State} {s : State} (hs : Keeps s0 s) :
    Keeps s0 (wakeGens s) := by
  unfold wakeGens
  repeat' first
    | with_reducible assumption
    | (intro x; try beta_reduce)
    | with_reducible apply keeps_wakeTok
    | with_reducible apply keeps_forEach

theorem keeps_clearGens {s0 : State} {s : State} (hs : Keeps s0 s) :
    Keeps s0 (clearGens s) := by
  unfold clearGens
  repeat' first
    | with_reducible assumption
    | ((try lift_lets -underBinder); intro x; clear_value (hx : x = _); refine keeps_cut (s0 := s0) hx ?_ ?_ <;> clear hx)
    | ((try lift_lets -underBinder); intro x; clear_value x)
    | (intro x; try beta_reduce)
    | (with_reducible apply keeps_mk; first | with_reducible assumption)

theorem keeps_freeGens {s0 : State} {s : State} (hs : Keeps s0 s) :
    Keeps s0 (freeGens s) := by
  unfold freeGens
  repeat' first
    | with_reducible assumption
    | (intro x; try beta_reduce)
    | with_reducible apply keeps_wakeGens
    | with_reducible apply keeps_clearGens
    | with_reducible apply keeps_release
    | with_reducible apply keeps_forEach

theorem keeps_strandRank {s0 : State} {s : State} {k : TokKey} {r : Nat} (hs : Keeps s0 s) :
    Keeps s0 (strandRank s k r) := by
  unfold strandRank
  repeat' first
    | with_reducible assumption
    | ((try lift_lets -underBinder); intro x; clear_value (hx : x = _); refine keeps_cut (s0 := s0) hx ?_ ?_ <;> clear hx)
    | ((try lift_lets -underBinder); intro x; clear_value x)
    | (intro x; try beta_reduce)
    | with_reducible apply keeps_modConf
    | with_reducible apply keeps_release
    | split

theorem keeps_copyFor {s0 : State} {s : State} {c : Conf} {pkg : Nat} (hs : Keeps s0 s) :
    Keeps s0 (copyFor s c pkg) := by
  unfold copyFor
  repeat' first
    | with_reducible assumption
    | ((try lift_lets -underBinder); intro x; clear_value (hx : x = _); refine keeps_cut (s0 := s0) hx ?_ ?_ <;> clear hx)
    | ((try lift_lets -underBinder); intro x; clear_value x)
    | (intro x; try beta_reduce)
    | with_reducible apply keeps_countBy
    | with_reducible apply keeps_sendCopy
    | split

theorem keeps_takeVerdicts {s0 : State} {s : State} {srcPkg : Nat} {cs : List Choice} (hs : Keeps s0 s) :
    Keeps s0 (takeVerdicts s srcPkg cs) := by
  unfold takeVerdicts
  repeat' first
    | with_reducible assumption
    | ((try lift_lets -underBinder); intro x; clear_value (hx : x = _); refine keeps_cut (s0 := s0) hx ?_ ?_ <;> clear hx)
    | ((try lift_lets -underBinder); intro x; clear_value x)
    | (intro x; try beta_reduce)
    | with_reducible apply keeps_strandRank
    | with_reducible apply keeps_modConf
    | with_reducible apply keeps_copyFor
    | with_reducible apply keeps_freeGens
    | with_reducible apply keeps_advance
    | with_reducible apply keeps_forEach
    | split

theorem keeps_giveVerdicts {s0 : State} {s : State} {cs : List Choice} (hs : Keeps s0 s) :
    Keeps s0 (giveVerdicts s cs) := by
  unfold giveVerdicts
  repeat' first
    | with_reducible assumption
    | ((try lift_lets -underBinder); intro x; clear_value (hx : x = _); refine keeps_cut (s0 := s0) hx ?_ ?_ <;> clear hx)
    | ((try lift_lets -underBinder); intro x; clear_value x)
    | (intro x; try beta_reduce)
    | with_reducible apply keeps_takeVerdicts
    | with_reducible apply keeps_sendChoices
    | with_reducible apply keeps_forEach
    | split

theorem keeps_countVerdict {s0 : State} {s : State} {st : Nat} (hs : Keeps s0 s) :
    Keeps s0 (countVerdict s st) := by
  unfold countVerdict
  repeat' first
    | with_reducible assumption
    | with_reducible apply keeps_count
    | split

theorem keeps_strandChoices {s0 : State} {s : State} {p : Admitted → Bool} (hs : Keeps s0 s) :
    Keeps s0 (strandChoices s p) := by
  unfold strandChoices
  repeat' first
    | with_reducible assumption
    | ((try lift_lets -underBinder); intro x; clear_value (hx : x = _); refine keeps_cut (s0 := s0) hx ?_ ?_ <;> clear hx)
    | ((try lift_lets -underBinder); intro x; clear_value x)
    | (intro x; try beta_reduce)
    | with_reducible apply keeps_release
    | with_reducible apply keeps_windowAfter
    | with_reducible apply keeps_giveVerdicts
    | with_reducible apply keeps_countVerdict
    | with_reducible apply keeps_forEach
    | split
    | (with_reducible apply keeps_mk; with_reducible assumption)

theorem keeps_resendRank {s0 : State} {s : State} {k : TokKey} {r : Nat} {rep : Replica} {alternate : Bool} (hs : Keeps s0 s) :
    Keeps s0 (resendRank s k r rep alternate) := by
  unfold resendRank
  repeat' first
    | with_reducible assumption
    | ((try lift_lets -underBinder); intro x; clear_value (hx : x = _); refine keeps_cut (s0 := s0) hx ?_ ?_ <;> clear hx)
    | ((try lift_lets -underBinder); intro x; clear_value x)
    | (intro x; try beta_reduce)
    | with_reducible apply keeps_modConf
    | with_reducible apply keeps_sendCopy
    | split

theorem keeps_resendStranded {s0 : State} {s : State} {c layer expert : Nat} {block : List Replica} (hs : Keeps s0 s) :
    Keeps s0 (resendStranded s c layer expert block) := by
  unfold resendStranded
  repeat' first
    | with_reducible assumption
    | (intro x; try beta_reduce)
    | with_reducible apply keeps_resendRank
    | with_reducible apply keeps_forEach
    | split

theorem keeps_dropRank {s0 : State} {s : State} {k : TokKey} {r : Nat} (hs : Keeps s0 s) :
    Keeps s0 (dropRank s k r) := by
  unfold dropRank
  repeat' first
    | with_reducible assumption
    | ((try lift_lets -underBinder); intro x; clear_value (hx : x = _); refine keeps_cut (s0 := s0) hx ?_ ?_ <;> clear hx)
    | ((try lift_lets -underBinder); intro x; clear_value x)
    | (intro x; try beta_reduce)
    | with_reducible apply keeps_advance
    | with_reducible apply keeps_modConf

theorem keeps_exhaustRank {s0 : State} {s : State} {k : TokKey} {r : Nat} (hs : Keeps s0 s) :
    Keeps s0 (exhaustRank s k r) := by
  unfold exhaustRank
  repeat' first
    | with_reducible assumption
    | ((try lift_lets -underBinder); intro x; clear_value (hx : x = _); refine keeps_cut (s0 := s0) hx ?_ ?_ <;> clear hx)
    | ((try lift_lets -underBinder); intro x; clear_value x)
    | (intro x; try beta_reduce)
    | with_reducible apply keeps_modConf
    | with_reducible apply keeps_advance
    | with_reducible apply keeps_count

theorem keeps_abandonStranded {s0 : State} {s : State} {c layer : Nat} (hs : Keeps s0 s) :
    Keeps s0 (abandonStranded s c layer) := by
  unfold abandonStranded
  repeat' first
    | with_reducible assumption
    | (intro x; try beta_reduce)
    | with_reducible apply keeps_freeGens
    | with_reducible apply keeps_dropRank
    | with_reducible apply keeps_forEach

theorem keeps_dropReturn {s0 : State} {s : State} {h : RetHdr} (hs : Keeps s0 s) :
    Keeps s0 (dropReturn s h) := by
  unfold dropReturn
  repeat' first
    | with_reducible assumption
    | ((try lift_lets -underBinder); intro x; clear_value (hx : x = _); refine keeps_cut (s0 := s0) hx ?_ ?_ <;> clear hx)
    | ((try lift_lets -underBinder); intro x; clear_value x)
    | (intro x; try beta_reduce)
    | with_reducible apply keeps_modConf
    | with_reducible apply keeps_release
    | with_reducible apply keeps_freeGens
    | with_reducible apply keeps_count
    | split

theorem keeps_placeReturn {s0 : State} {s : State} {handle : Nat} {h : RetHdr} {payload : List Byte} (hs : Keeps s0 s) :
    Keeps s0 (placeReturn s handle h payload) := by
  unfold placeReturn
  repeat' first
    | with_reducible assumption
    | ((try lift_lets -underBinder); intro x; clear_value (hx : x = _); refine keeps_cut (s0 := s0) hx ?_ ?_ <;> clear hx)
    | ((try lift_lets -underBinder); intro x; clear_value x)
    | (intro x; try beta_reduce)
    | with_reducible apply keeps_sramWrite
    | with_reducible apply keeps_modConf
    | with_reducible apply keeps_advance

theorem keeps_takeReturn {s0 : State} {s : State} {h : RetHdr} {payload : List Byte} (hs : Keeps s0 s) :
    Keeps s0 (takeReturn s h payload) := by
  unfold takeReturn
  repeat' first
    | with_reducible assumption
    | with_reducible apply keeps_dropReturn
    | with_reducible apply keeps_placeReturn
    | with_reducible apply keeps_takeBuffer
    | split
    | refine keeps_fst ‹_ = (_, _)› ?_

theorem keeps_grantReturn {s0 : State} {s : State} {handle : Nat} {h : RetHdr} {payload : List Byte} (hs : Keeps s0 s) :
    Keeps s0 (grantReturn s handle h payload) := by
  unfold grantReturn
  repeat' first
    | with_reducible assumption
    | (intro x; try beta_reduce)
    | with_reducible apply keeps_dropReturn
    | with_reducible apply keeps_release
    | with_reducible apply keeps_placeReturn
    | split

theorem keeps_retireGen {s0 : State} {s : State} {c g : Nat} (hs : Keeps s0 s) :
    KeepsOpt s0 (retireGen s c g) := by
  unfold retireGen
  repeat' first
    | with_reducible assumption
    | ((try lift_lets -underBinder); intro x; clear_value (hx : x = _); refine keeps_cut (s0 := s0) hx ?_ ?_ <;> clear hx)
    | ((try lift_lets -underBinder); intro x; clear_value x)
    | (intro x; try beta_reduce)
    | with_reducible apply keeps_unhold
    | with_reducible apply keeps_endToken
    | with_reducible apply keeps_dropBufs
    | with_reducible apply keeps_modConf
    | with_reducible apply keeps_freeGens
    | with_reducible apply keeps_forEach
    | with_reducible apply keeps_some
    | with_reducible apply keeps_none
    | with_reducible apply keeps_map
    | split
    | (with_reducible apply keeps_mk; with_reducible assumption)

theorem keeps_discardRequest {s0 : State} {s : State} {bay stone pc recOff : Nat} (hs : Keeps s0 s) :
    Keeps s0 (discardRequest s bay stone pc recOff) := by
  unfold discardRequest
  repeat' first
    | with_reducible assumption
    | ((try lift_lets -underBinder); intro x; clear_value (hx : x = _); refine keeps_cut (s0 := s0) hx ?_ ?_ <;> clear hx)
    | ((try lift_lets -underBinder); intro x; clear_value x)
    | (intro x; try beta_reduce)
    | with_reducible apply keeps_freeSubmit
    | with_reducible apply keeps_stopLate
    | with_reducible apply keeps_raise1
    | with_reducible apply keeps_count

theorem keeps_discardConf {s0 : State} {s : State} {k : TokKey} {bay : Nat} (hs : Keeps s0 s) :
    Keeps s0 (discardConf s k bay) := by
  unfold discardConf
  repeat' first
    | with_reducible assumption
    | ((try lift_lets -underBinder); intro x; clear_value (hx : x = _); refine keeps_cut (s0 := s0) hx ?_ ?_ <;> clear hx)
    | ((try lift_lets -underBinder); intro x; clear_value x)
    | (intro x; try beta_reduce)
    | with_reducible apply keeps_discardRequest
    | split
    | (with_reducible apply keeps_mk; with_reducible assumption)

/-! ### Machine/Ledger.lean -/

theorem keeps_takeEffect {s0 : State} {s : State} {c layer gen : Nat} (hs : Keeps s0 s) :
    Keeps s0 (takeEffect s c layer gen) := by
  unfold takeEffect
  repeat' first
    | with_reducible assumption
    | ((try lift_lets -underBinder); intro x; clear_value (hx : x = _); refine keeps_cut (s0 := s0) hx ?_ ?_ <;> clear hx)
    | ((try lift_lets -underBinder); intro x; clear_value x)
    | (intro x; try beta_reduce)
    | split
    | (with_reducible apply keeps_mk; first | with_reducible assumption)

theorem keeps_cacheBlock {s0 : State} {s : State} {bay c layer expert : Nat} {b : List Replica} (hs : Keeps s0 s) :
    Keeps s0 (cacheBlock s bay c layer expert b) := by
  unfold cacheBlock
  repeat' first
    | with_reducible assumption
    | ((try lift_lets -underBinder); intro x; clear_value (hx : x = _); refine keeps_cut (s0 := s0) hx ?_ ?_ <;> clear hx)
    | ((try lift_lets -underBinder); intro x; clear_value x)
    | (intro x; try beta_reduce)
    | with_reducible apply keeps_setRouter

theorem keeps_takeClaims {s0 : State} {s : State} {cs : List Claim} (hs : Keeps s0 s) :
    Keeps s0 (takeClaims s cs) := by
  unfold takeClaims
  repeat' first
    | with_reducible assumption
    | ((try lift_lets -underBinder); intro x; clear_value (hx : x = _); refine keeps_cut (s0 := s0) hx ?_ ?_ <;> clear hx)
    | ((try lift_lets -underBinder); intro x; clear_value x)
    | (intro x; try beta_reduce)
    | with_reducible apply keeps_raiseFetch
    | with_reducible apply keeps_forEach
    | split
    | (with_reducible apply keeps_mk; with_reducible assumption)

theorem keeps_sendClaims {s0 : State} {s : State} {k : TokKey} (hs : Keeps s0 s) :
    Keeps s0 (sendClaims s k) := by
  unfold sendClaims
  repeat' first
    | with_reducible assumption
    | ((try lift_lets -underBinder); intro x; clear_value (hx : x = _); refine keeps_cut (s0 := s0) hx ?_ ?_ <;> clear hx)
    | ((try lift_lets -underBinder); intro x; clear_value x)
    | (intro x; try beta_reduce)
    | with_reducible apply keeps_takeClaims
    | with_reducible apply keeps_sendChoices
    | with_reducible apply keeps_forEach
    | split
    | (with_reducible apply keeps_mk; with_reducible assumption)

theorem keeps_giveBlock {s0 : State} {s : State} {bay c layer expert : Nat} {ok : Bool} {b : List Replica} (hs : Keeps s0 s) :
    Keeps s0 (giveBlock s bay c layer expert ok b) := by
  unfold giveBlock
  repeat' first
    | with_reducible assumption
    | ((try lift_lets -underBinder); intro x; clear_value (hx : x = _); refine keeps_cut (s0 := s0) hx ?_ ?_ <;> clear hx)
    | ((try lift_lets -underBinder); intro x; clear_value x)
    | (intro x; try beta_reduce)
    | with_reducible apply keeps_discardConf
    | with_reducible apply keeps_modConf
    | with_reducible apply keeps_sendClaims
    | with_reducible apply keeps_forEach
    | with_reducible apply keeps_foldl
    | split

theorem keeps_lookBlocks {s0 : State} {s : State} {bay : Nat} {k : TokKey} (hs : Keeps s0 s) :
    Keeps s0 (lookBlocks s bay k) := by
  unfold lookBlocks
  repeat' first
    | with_reducible assumption
    | ((try lift_lets -underBinder); intro x; clear_value (hx : x = _); refine keeps_cut (s0 := s0) hx ?_ ?_ <;> clear hx)
    | ((try lift_lets -underBinder); intro x; clear_value x)
    | (intro x; try beta_reduce)
    | with_reducible apply keeps_takeEffect
    | with_reducible apply keeps_unitRequests
    | with_reducible apply keeps_giveBlock
    | with_reducible apply keeps_forEach
    | split
    | (with_reducible apply keeps_mk; with_reducible assumption)

theorem keeps_hotReport {s0 : State} {s : State} {c layer gen : Nat} {xs : List Adm} {cap : Nat} (hs : Keeps s0 s) :
    Keeps s0 (hotReport s c layer gen xs cap) := by
  unfold hotReport
  repeat' first
    | with_reducible assumption
    | ((try lift_lets -underBinder); intro x; clear_value (hx : x = _); refine keeps_cut (s0 := s0) hx ?_ ?_ <;> clear hx)
    | ((try lift_lets -underBinder); intro x; clear_value x)
    | (intro x; try beta_reduce)
    | with_reducible apply keeps_holdSource
    | with_reducible apply keeps_setE
    | with_reducible apply keeps_memWrite
    | with_reducible apply keeps_forEach
    | split

theorem keeps_endRun {s0 : State} {s : State} {st : Nat} {e : ERun} {hdr : Nat} {es : List Admitted} (hs : Keeps s0 s) :
    Keeps s0 (endRun s st e hdr es) := by
  unfold endRun
  repeat' first
    | with_reducible assumption
    | ((try lift_lets -underBinder); intro x; clear_value (hx : x = _); refine keeps_cut (s0 := s0) hx ?_ ?_ <;> clear hx)
    | ((try lift_lets -underBinder); intro x; clear_value x)
    | (intro x; try beta_reduce)
    | with_reducible apply keeps_sramWrite
    | with_reducible apply keeps_completeSlot
    | with_reducible apply keeps_modStone

theorem keeps_endOldRuns {s0 : State} {s : State} {c layer : Nat} (hs : Keeps s0 s) :
    Keeps s0 (endOldRuns s c layer) := by
  unfold endOldRuns
  repeat' first
    | with_reducible assumption
    | ((try lift_lets -underBinder); intro x; clear_value (hx : x = _); refine keeps_cut (s0 := s0) hx ?_ ?_ <;> clear hx)
    | ((try lift_lets -underBinder); intro x; clear_value x)
    | (intro x; try beta_reduce)
    | with_reducible apply keeps_endRun
    | with_reducible apply keeps_forEach
    | (with_reducible apply keeps_mk; with_reducible assumption)

theorem keeps_admitChoices {s0 : State} {s : State} {c layer gen : Nat} (hs : Keeps s0 s) :
    Keeps s0 (admitChoices s c layer gen) := by
  unfold admitChoices
  repeat' first
    | with_reducible assumption
    | ((try lift_lets -underBinder); intro x; clear_value (hx : x = _); refine keeps_cut (s0 := s0) hx ?_ ?_ <;> clear hx)
    | ((try lift_lets -underBinder); intro x; clear_value x)
    | (intro x; try beta_reduce)
    | with_reducible apply keeps_takeEffect
    | with_reducible apply keeps_endOldRuns
    | with_reducible apply keeps_windowAfter
    | with_reducible apply keeps_setWin
    | with_reducible apply keeps_raiseFetch
    | with_reducible apply keeps_hotReport
    | with_reducible apply keeps_giveVerdicts
    | with_reducible apply keeps_countVerdict
    | with_reducible apply keeps_strandChoices
    | with_reducible apply keeps_forEach
    | split
    | (with_reducible apply keeps_mk; with_reducible assumption)

theorem keeps_modRun {s0 : State} {s : State} {c layer first : Nat} {f : RunSt → RunSt} (hs : Keeps s0 s) :
    Keeps s0 (modRun s c layer first f) := by
  unfold modRun
  repeat' first
    | with_reducible assumption
    | ((try lift_lets -underBinder); intro x; clear_value (hx : x = _); refine keeps_cut (s0 := s0) hx ?_ ?_ <;> clear hx)
    | ((try lift_lets -underBinder); intro x; clear_value x)
    | (intro x; try beta_reduce)
    | (with_reducible apply keeps_mk; first | with_reducible assumption)

theorem keeps_consumeBatch {s0 : State} {s : State} {r : RunSt} (hs : Keeps s0 s) :
    Keeps s0 (consumeBatch s r) := by
  unfold consumeBatch
  repeat' first
    | with_reducible assumption
    | ((try lift_lets -underBinder); intro x; clear_value (hx : x = _); refine keeps_cut (s0 := s0) hx ?_ ?_ <;> clear hx)
    | ((try lift_lets -underBinder); intro x; clear_value x)
    | (intro x; try beta_reduce)
    | with_reducible apply keeps_release
    | with_reducible apply keeps_modRun
    | with_reducible apply keeps_forEach
    | split
    | (with_reducible apply keeps_mk; with_reducible assumption)

theorem keeps_stageOne {s0 : State} {s : State} {c st : Nat} {own : ERun} (hs : Keeps s0 s) :
    KeepsOpt s0 (stageOne s c st own) := by
  unfold stageOne
  repeat' first
    | with_reducible assumption
    | ((try lift_lets -underBinder); intro x; clear_value (hx : x = _); refine keeps_cut (s0 := s0) hx ?_ ?_ <;> clear hx)
    | ((try lift_lets -underBinder); intro x; clear_value x)
    | (intro x; try beta_reduce)
    | with_reducible apply keeps_loadPass
    | with_reducible apply keeps_passBytes
    | with_reducible apply keeps_modRun
    | with_reducible apply keeps_sramWrite
    | with_reducible apply keeps_endRun
    | with_reducible apply keeps_consumeBatch
    | with_reducible apply keeps_forEach
    | with_reducible apply keeps_some
    | with_reducible apply keeps_none
    | with_reducible apply keeps_map
    | split
    | (with_reducible apply keeps_mk; with_reducible assumption)

theorem keeps_stageRun {s0 : State} {s : State} {st : Nat} (hs : Keeps s0 s) : Keeps s0 (stageRun s st) := by
  unfold stageRun
  split
  · exact hs
  · exact keeps_getD (keeps_findSome (fun _ => keeps_stageOne hs) _) hs

theorem keeps_missPart {s0 : State} {s : State} {r : RunSt} (hs : Keeps s0 s) :
    Keeps s0 (missPart s r).1 := by
  unfold missPart
  repeat' first
    | with_reducible assumption
    | ((try lift_lets -underBinder); intro x; clear_value (hx : x = _); refine keeps_cut (s0 := s0) hx ?_ ?_ <;> clear hx)
    | ((try lift_lets -underBinder); intro x; clear_value x)
    | (intro x; try beta_reduce)
    | with_reducible apply keeps_release
    | with_reducible apply keeps_sendChoices
    | with_reducible apply keeps_forEach
    | split
    | refine keeps_fst ‹_ = (_, _)› ?_
    | (with_reducible apply keeps_mk; with_reducible assumption)

theorem keeps_tryAlternates {s0 : State} {k : TokKey} {r n : Nat} : ∀ {s : State}, Keeps s0 s →
    Keeps s0 (tryAlternates k r n s) := by
  induction n with
  | zero => intro s h; exact keeps_exhaustRank h
  | succ n ih =>
    intro s h
    unfold tryAlternates
    repeat' first
      | with_reducible assumption
      | ((try lift_lets -underBinder); intro x; clear_value (hx : x = _); refine keeps_cut (s0 := s0) hx ?_ ?_ <;> clear hx)
      | ((try lift_lets -underBinder); intro x; clear_value x)
      | (intro x; try beta_reduce)
      | with_reducible apply ih
      | with_reducible apply keeps_exhaustRank
      | with_reducible apply keeps_count
      | with_reducible apply keeps_modConf
      | with_reducible apply keeps_resendRank
      | with_reducible apply keeps_fresh
      | split
      | (with_reducible apply keeps_mk; with_reducible assumption)

theorem keeps_takeMiss {s0 : State} {s : State} {k : TokKey} {r : Nat} (hs : Keeps s0 s) :
    Keeps s0 (takeMiss s k r) := by
  unfold takeMiss
  repeat' first
    | with_reducible assumption
    | with_reducible apply keeps_freeGens
    | with_reducible apply keeps_tryAlternates
    | split

/-! ### Machine/Expert.lean -/

theorem keeps_discardWaiting {s0 : State} {s : State} {bay ctx layer gen : Nat} (hs : Keeps s0 s) :
    Keeps s0 (discardWaiting s bay ctx layer gen) := by
  unfold discardWaiting
  repeat' first
    | with_reducible assumption
    | ((try lift_lets -underBinder); intro x; clear_value (hx : x = _); refine keeps_cut (s0 := s0) hx ?_ ?_ <;> clear hx)
    | ((try lift_lets -underBinder); intro x; clear_value x)
    | (intro x; try beta_reduce)
    | with_reducible apply keeps_discardRequest
    | with_reducible apply keeps_forEach
    | (with_reducible apply keeps_mk; with_reducible assumption)

theorem keeps_execScoringPass {s0 : State} {bay ctx layer gen : Nat} {read : GateRead} {s : State} (hs : Keeps s0 s) :
    KeepsRes s0 (execScoringPass bay ctx layer gen read s) := by
  unfold execScoringPass
  repeat' first
    | with_reducible assumption
    | ((try lift_lets -underBinder); intro x; clear_value (hx : x = _); refine keeps_cut (s0 := s0) hx ?_ ?_ <;> clear hx)
    | ((try lift_lets -underBinder); intro x; clear_value x)
    | (intro x; try beta_reduce)
    | with_reducible apply keeps_beginStream
    | with_reducible apply keeps_discardWaiting
    | with_reducible apply keeps_passTokens
    | with_reducible apply keeps_raise1
    | with_reducible apply keeps_fenceRouter
    | with_reducible apply keeps_setRouter
    | with_reducible apply keeps_run
    | split
    | (with_reducible apply keeps_mk; with_reducible assumption)

theorem keeps_passStream {s0 : State} {b : Nat} {g : Gather} {s : State} (hs : Keeps s0 s) :
    Keeps s0 (passStream s b g) := by
  unfold passStream
  repeat' first
    | with_reducible assumption
    | ((try lift_lets -underBinder); intro x; clear_value (hx : x = _); refine keeps_cut (s0 := s0) hx ?_ ?_ <;> clear hx)
    | ((try lift_lets -underBinder); intro x; clear_value x)
    | (intro x; try beta_reduce)
    | with_reducible apply keeps_localMiss
    | with_reducible apply keeps_passPieces
    | with_reducible apply keeps_forEach
    | with_reducible apply keeps_loadPass
    | split
    | (with_reducible apply keeps_mk; with_reducible assumption)

theorem keeps_execGateStreamComplete {s0 : State} {bay ctx layer : Nat} {e : StreamEnd} {s : State} (hs : Keeps s0 s) :
    KeepsRes s0 (execGateStreamComplete bay ctx layer e s) := by
  unfold execGateStreamComplete
  repeat' first
    | with_reducible assumption
    | ((try lift_lets -underBinder); intro x; clear_value (hx : x = _); refine keeps_cut (s0 := s0) hx ?_ ?_ <;> clear hx)
    | ((try lift_lets -underBinder); intro x; clear_value x)
    | (intro x; try beta_reduce)
    | with_reducible apply keeps_passStream
    | with_reducible apply keeps_setRouter
    | with_reducible apply keeps_countBy
    | with_reducible apply keeps_raise1
    | with_reducible apply keeps_discardRequest
    | with_reducible apply keeps_forEach
    | with_reducible apply keeps_run
    | split
    | (with_reducible apply keeps_mk; with_reducible assumption)

theorem keeps_formChoices {s0 : State} {s : State} {t : Tok} (hs : Keeps s0 s) :
    Keeps s0 (formChoices s t) := by
  unfold formChoices
  repeat' first
    | with_reducible assumption
    | ((try lift_lets -underBinder); intro x; clear_value (hx : x = _); refine keeps_cut (s0 := s0) hx ?_ ?_ <;> clear hx)
    | ((try lift_lets -underBinder); intro x; clear_value x)
    | (intro x; try beta_reduce)
    | with_reducible apply keeps_countBy
    | with_reducible apply keeps_count
    | with_reducible apply keeps_lookBlocks
    | (with_reducible apply keeps_mk; with_reducible assumption)

theorem keeps_execPartialScores {s0 : State} {k : TokKey} {s : State} (hs : Keeps s0 s) :
    KeepsRes s0 (execPartialScores k s) := by
  unfold execPartialScores
  repeat' first
    | with_reducible assumption
    | ((try lift_lets -underBinder); intro x; clear_value (hx : x = _); refine keeps_cut (s0 := s0) hx ?_ ?_ <;> clear hx)
    | ((try lift_lets -underBinder); intro x; clear_value x)
    | (intro x; try beta_reduce)
    | with_reducible apply keeps_askStreams
    | with_reducible apply keeps_formChoices
    | with_reducible apply keeps_run
    | split
    | (with_reducible apply keeps_mk; with_reducible assumption)

theorem keeps_execPlacementBlockRead {s0 : State} {bay ctx layer expert status : Nat} {block : List Replica} {s : State} (hs : Keeps s0 s) :
    KeepsRes s0 (execPlacementBlockRead bay ctx layer expert status block s) := by
  unfold execPlacementBlockRead
  repeat' first
    | with_reducible assumption
    | ((try lift_lets -underBinder); intro x; clear_value (hx : x = _); refine keeps_cut (s0 := s0) hx ?_ ?_ <;> clear hx)
    | ((try lift_lets -underBinder); intro x; clear_value x)
    | (intro x; try beta_reduce)
    | with_reducible apply keeps_giveBlock
    | with_reducible apply keeps_cacheBlock
    | with_reducible apply keeps_localMiss
    | with_reducible apply keeps_run
    | split
    | (with_reducible apply keeps_mk; with_reducible assumption)

theorem keeps_execClaimBundle {s0 : State} {srcPkg : Nat} {cs : List Claim} {s : State} (hs : Keeps s0 s) :
    KeepsRes s0 (execClaimBundle srcPkg cs s) := by
  unfold execClaimBundle
  repeat' first
    | with_reducible assumption
    | ((try lift_lets -underBinder); intro x; clear_value (hx : x = _); refine keeps_cut (s0 := s0) hx ?_ ?_ <;> clear hx)
    | ((try lift_lets -underBinder); intro x; clear_value x)
    | (intro x; try beta_reduce)
    | with_reducible apply keeps_takeClaims
    | with_reducible apply keeps_inject
    | with_reducible apply keeps_run
    | split

theorem keeps_execClaimBundleAck {s0 : State} {ctx layer gen home : Nat} {s : State} (hs : Keeps s0 s) :
    KeepsRes s0 (execClaimBundleAck ctx layer gen home s) := by
  unfold execClaimBundleAck
  repeat' first
    | with_reducible assumption
    | ((try lift_lets -underBinder); intro x; clear_value (hx : x = _); refine keeps_cut (s0 := s0) hx ?_ ?_ <;> clear hx)
    | ((try lift_lets -underBinder); intro x; clear_value x)
    | (intro x; try beta_reduce)
    | with_reducible apply keeps_run
    | (with_reducible apply keeps_mk; first | with_reducible assumption)

theorem keeps_execAdmission {s0 : State} {ctx layer gen : Nat} {s : State} (hs : Keeps s0 s) :
    KeepsRes s0 (execAdmission ctx layer gen s) := by
  unfold execAdmission
  repeat' first
    | with_reducible assumption
    | (intro x; try beta_reduce)
    | with_reducible apply keeps_admitChoices
    | with_reducible apply keeps_run
    | split

theorem keeps_execAdmissionAbort {s0 : State} {ctx layer gen code : Nat} {s : State} (hs : Keeps s0 s) :
    KeepsRes s0 (execAdmissionAbort ctx layer gen code s) := by
  unfold execAdmissionAbort
  repeat' first
    | with_reducible assumption
    | ((try lift_lets -underBinder); intro x; clear_value (hx : x = _); refine keeps_cut (s0 := s0) hx ?_ ?_ <;> clear hx)
    | ((try lift_lets -underBinder); intro x; clear_value x)
    | (intro x; try beta_reduce)
    | with_reducible apply keeps_windowAfter
    | with_reducible apply keeps_raise1
    | with_reducible apply keeps_stopLate
    | with_reducible apply keeps_forEach
    | with_reducible apply keeps_run
    | split
    | (with_reducible apply keeps_mk; with_reducible assumption)

theorem keeps_execVerdictBundle {s0 : State} {srcPkg : Nat} {cs : List Choice} {s : State} (hs : Keeps s0 s) :
    KeepsRes s0 (execVerdictBundle srcPkg cs s) := by
  unfold execVerdictBundle
  repeat' first
    | with_reducible assumption
    | (intro x; try beta_reduce)
    | with_reducible apply keeps_takeVerdicts
    | with_reducible apply keeps_run

theorem keeps_execTokenCopy {s0 : State} {srcPkg : Nat} {d : TokenDesc} {payload : List Byte} {s : State} (hs : Keeps s0 s) :
    KeepsRes s0 (execTokenCopy srcPkg d payload s) := by
  unfold execTokenCopy
  repeat' first
    | with_reducible assumption
    | (intro x; try beta_reduce)
    | with_reducible apply keeps_sendChoices
    | with_reducible apply keeps_acceptCopy
    | with_reducible apply keeps_run
    | split

theorem keeps_goOn {s0 : State} {s : State} {h : Nat} {op : WaitOp} (hs : Keeps s0 s) :
    Keeps s0 (goOn s h op) := by
  unfold goOn
  repeat' first
    | with_reducible assumption
    | with_reducible apply keeps_placeCopy
    | with_reducible apply keeps_grantReturn
    | with_reducible apply keeps_freeGens
    | with_reducible apply keeps_finishToken
    | with_reducible apply keeps_stageDma
    | split

theorem keeps_grantOldest {s0 : State} {pool : Nat} {l : List BufReq} : ∀ {s : State}, Keeps s0 s →
    Keeps s0 (grantOldest pool s l) := by
  induction l with
  | nil => intro s h; exact h
  | cons q l ih =>
    intro s h
    have hg : Keeps s0 (grantTry q.owner q.refs s (poolsFor s (pool / 16) q.owner q.size)).1 := keeps_grantTry h
    simp only [grantOldest]
    split
    · next e => exact keeps_goOn (keeps_setPool (keeps_fst e hg))
    · next e => exact ih (keeps_fst e hg)

theorem keeps_execCisternGrant {s0 : State} {pool : Nat} {corrected : Bool} {s : State} (hs : Keeps s0 s) :
    KeepsRes s0 (execCisternGrant pool corrected s) := by
  unfold execCisternGrant
  repeat' first
    | with_reducible assumption
    | ((try lift_lets -underBinder); intro x; clear_value (hx : x = _); refine keeps_cut (s0 := s0) hx ?_ ?_ <;> clear hx)
    | ((try lift_lets -underBinder); intro x; clear_value x)
    | (intro x; try beta_reduce)
    | with_reducible apply keeps_raise1
    | with_reducible apply keeps_grantOldest
    | with_reducible apply keeps_run
    | split

theorem keeps_execExpertRun {s0 : State} {st : Nat} {h : IHdr} {o : Operands} {s : State} (hs : Keeps s0 s) :
    KeepsRes s0 (execExpertRun st h o s) := by
  unfold execExpertRun
  repeat' first
    | with_reducible assumption
    | ((try lift_lets -underBinder); intro x; clear_value (hx : x = _); refine keeps_cut (s0 := s0) hx ?_ ?_ <;> clear hx)
    | ((try lift_lets -underBinder); intro x; clear_value x)
    | (intro x; try beta_reduce)
    | with_reducible apply keeps_issue
    | with_reducible apply keeps_failStone
    | with_reducible apply keeps_modStone
    | with_reducible apply keeps_takeSlot
    | with_reducible apply keeps_run
    | split

theorem keeps_execRunPartDue {s0 : State} {ctx layer first : Nat} {s : State} (hs : Keeps s0 s) :
    KeepsRes s0 (execRunPartDue ctx layer first s) := by
  unfold execRunPartDue
  repeat' first
    | with_reducible assumption
    | ((try lift_lets -underBinder); intro x; clear_value (hx : x = _); refine keeps_cut (s0 := s0) hx ?_ ?_ <;> clear hx)
    | ((try lift_lets -underBinder); intro x; clear_value x)
    | (intro x; try beta_reduce)
    | with_reducible apply keeps_modRun
    | with_reducible apply keeps_count
    | with_reducible apply keeps_run
    | split

theorem keeps_execMissGraceExpiry {s0 : State} {ctx layer first : Nat} {s : State} (hs : Keeps s0 s) :
    KeepsRes s0 (execMissGraceExpiry ctx layer first s) := by
  unfold execMissGraceExpiry
  repeat' first
    | with_reducible assumption
    | ((try lift_lets -underBinder); intro x; clear_value (hx : x = _); refine keeps_cut (s0 := s0) hx ?_ ?_ <;> clear hx)
    | ((try lift_lets -underBinder); intro x; clear_value x)
    | (intro x; try beta_reduce)
    | with_reducible apply keeps_modRun
    | with_reducible apply keeps_count
    | with_reducible apply keeps_missPart
    | with_reducible apply keeps_takeMiss
    | with_reducible apply keeps_windowAfter
    | with_reducible apply keeps_forEach
    | with_reducible apply keeps_run
    | split

theorem keeps_execMissNotice {s0 : State} {k : TokKey} {rank : Nat} {_notResident : Bool} {s : State} (hs : Keeps s0 s) :
    KeepsRes s0 (execMissNotice k rank _notResident s) := by
  unfold execMissNotice
  repeat' first
    | with_reducible assumption
    | (intro x; try beta_reduce)
    | with_reducible apply keeps_takeMiss
    | with_reducible apply keeps_run

theorem keeps_execExpertRunComplete {s0 : State} {st cycles : Nat} {s : State} (hs : Keeps s0 s) :
    KeepsRes s0 (execExpertRunComplete st cycles s) := by
  unfold execExpertRunComplete
  repeat' first
    | with_reducible assumption
    | ((try lift_lets -underBinder); intro x; clear_value (hx : x = _); refine keeps_cut (s0 := s0) hx ?_ ?_ <;> clear hx)
    | ((try lift_lets -underBinder); intro x; clear_value x)
    | (intro x; try beta_reduce)
    | with_reducible apply keeps_stageRun
    | with_reducible apply keeps_countBy
    | with_reducible apply keeps_run
    | split

theorem keeps_execCarryWaitExpiry {s0 : State} {ctx layer first : Nat} {s : State} (hs : Keeps s0 s) :
    KeepsRes s0 (execCarryWaitExpiry ctx layer first s) := by
  unfold execCarryWaitExpiry
  repeat' first
    | with_reducible assumption
    | ((try lift_lets -underBinder); intro x; clear_value (hx : x = _); refine keeps_cut (s0 := s0) hx ?_ ?_ <;> clear hx)
    | ((try lift_lets -underBinder); intro x; clear_value x)
    | (intro x; try beta_reduce)
    | with_reducible apply keeps_modRun
    | with_reducible apply keeps_run
    | split

theorem keeps_sendReturn {s0 : State} {s : State} {st ctx fmt : Nat} {shadow : Bool} {e : Nat} {row : List Byte} (hs : Keeps s0 s) :
    Keeps s0 (sendReturn s st ctx fmt shadow e row) := by
  unfold sendReturn
  repeat' first
    | with_reducible assumption
    | ((try lift_lets -underBinder); intro x; clear_value (hx : x = _); refine keeps_cut (s0 := s0) hx ?_ ?_ <;> clear hx)
    | ((try lift_lets -underBinder); intro x; clear_value x)
    | (intro x; try beta_reduce)
    | with_reducible apply keeps_count
    | with_reducible apply keeps_takeReturn
    | with_reducible apply keeps_passBytes
    | with_reducible apply keeps_inject
    | with_reducible apply keeps_windowAfter
    | with_reducible apply keeps_forEach
    | split
    | (with_reducible apply keeps_mk; with_reducible assumption)

theorem keeps_execReturnPacket {s0 : State} {h : RetHdr} {payload : List Byte} {s : State} (hs : Keeps s0 s) :
    KeepsRes s0 (execReturnPacket h payload s) := by
  unfold execReturnPacket
  repeat' first
    | with_reducible assumption
    | (intro x; try beta_reduce)
    | with_reducible apply keeps_takeReturn
    | with_reducible apply keeps_run

theorem keeps_execReturnTimeoutExpiry {s0 : State} {k : TokKey} {rank : Nat} {s : State} (hs : Keeps s0 s) :
    KeepsRes s0 (execReturnTimeoutExpiry k rank s) := by
  unfold execReturnTimeoutExpiry
  repeat' first
    | with_reducible assumption
    | ((try lift_lets -underBinder); intro x; clear_value (hx : x = _); refine keeps_cut (s0 := s0) hx ?_ ?_ <;> clear hx)
    | ((try lift_lets -underBinder); intro x; clear_value x)
    | (intro x; try beta_reduce)
    | with_reducible apply keeps_modConf
    | with_reducible apply keeps_freeGens
    | with_reducible apply keeps_raise1
    | with_reducible apply keeps_count
    | with_reducible apply keeps_advance
    | with_reducible apply keeps_run
    | split

theorem keeps_execFetch {s0 : State} {st : Nat} {h : IHdr} {o : Operands} {s : State} (hs : Keeps s0 s) :
    KeepsRes s0 (execFetch st h o s) := by
  unfold execFetch
  repeat' first
    | with_reducible assumption
    | ((try lift_lets -underBinder); intro x; clear_value (hx : x = _); refine keeps_cut (s0 := s0) hx ?_ ?_ <;> clear hx)
    | ((try lift_lets -underBinder); intro x; clear_value x)
    | (intro x; try beta_reduce)
    | with_reducible apply keeps_issue
    | with_reducible apply keeps_failStone
    | with_reducible apply keeps_completeNow
    | with_reducible apply keeps_stallOn
    | with_reducible apply keeps_raiseFetch
    | with_reducible apply keeps_run
    | split

theorem keeps_execFlush {s0 : State} {st : Nat} {h : IHdr} {o : Operands} {s : State} (hs : Keeps s0 s) :
    KeepsRes s0 (execFlush st h o s) := by
  unfold execFlush
  repeat' first
    | with_reducible assumption
    | ((try lift_lets -underBinder); intro x; clear_value (hx : x = _); refine keeps_cut (s0 := s0) hx ?_ ?_ <;> clear hx)
    | ((try lift_lets -underBinder); intro x; clear_value x)
    | (intro x; try beta_reduce)
    | with_reducible apply keeps_issue
    | with_reducible apply keeps_failStone
    | with_reducible apply keeps_writeBack
    | with_reducible apply keeps_takeSlot
    | with_reducible apply keeps_completeNow
    | with_reducible apply keeps_run
    | split

theorem keeps_execKvCommit {s0 : State} {st : Nat} {h : IHdr} {o : Operands} {s : State} (hs : Keeps s0 s) :
    KeepsRes s0 (execKvCommit st h o s) := by
  unfold execKvCommit
  repeat' first
    | with_reducible assumption
    | ((try lift_lets -underBinder); intro x; clear_value (hx : x = _); refine keeps_cut (s0 := s0) hx ?_ ?_ <;> clear hx)
    | ((try lift_lets -underBinder); intro x; clear_value x)
    | (intro x; try beta_reduce)
    | with_reducible apply keeps_issue
    | with_reducible apply keeps_failStone
    | with_reducible apply keeps_kvAdvance
    | with_reducible apply keeps_completeNow
    | with_reducible apply keeps_raise1
    | with_reducible apply keeps_run
    | with_reducible apply keeps_getD
    | split
    | refine keeps_of_some ‹_ = some _› ?_

theorem keeps_execRetire {s0 : State} {st : Nat} {h : IHdr} {o : Operands} {s : State} (hs : Keeps s0 s) :
    KeepsRes s0 (execRetire st h o s) := by
  unfold execRetire
  repeat' first
    | with_reducible assumption
    | ((try lift_lets -underBinder); intro x; clear_value (hx : x = _); refine keeps_cut (s0 := s0) hx ?_ ?_ <;> clear hx)
    | ((try lift_lets -underBinder); intro x; clear_value x)
    | (intro x; try beta_reduce)
    | with_reducible apply keeps_issue
    | with_reducible apply keeps_retireGen
    | with_reducible apply keeps_completeNow
    | with_reducible apply keeps_stallOn
    | with_reducible apply keeps_run
    | with_reducible apply keeps_getD
    | split
    | refine keeps_of_some ‹_ = some _› ?_

theorem keeps_execAccept {s0 : State} {st : Nat} {h : IHdr} {o : Operands} {s : State} (hs : Keeps s0 s) :
    KeepsRes s0 (execAccept st h o s) := by
  unfold execAccept
  repeat' first
    | with_reducible assumption
    | ((try lift_lets -underBinder); intro x; clear_value (hx : x = _); refine keeps_cut (s0 := s0) hx ?_ ?_ <;> clear hx)
    | ((try lift_lets -underBinder); intro x; clear_value x)
    | (intro x; try beta_reduce)
    | with_reducible apply keeps_issue
    | with_reducible apply keeps_completeNow
    | with_reducible apply keeps_run
    | split
    | (with_reducible apply keeps_mk; with_reducible assumption)

theorem keeps_actRetireGeneration {s0 : State} {q : Req} {s : State} (hs : Keeps s0 s) :
    KeepsAct s0 (actRetireGeneration q s) := by
  unfold actRetireGeneration
  repeat' first
    | with_reducible assumption
    | with_reducible apply keeps_retireGen
    | with_reducible apply keeps_refuse
    | with_reducible apply keeps_actDone
    | with_reducible apply keeps_actRefuse
    | split
    | refine keeps_of_some ‹_ = some _› ?_

theorem keeps_execRetireGeneration {s0 : State} {q : Req} {s : State} (hs : Keeps s0 s) :
    KeepsRes s0 (execRetireGeneration q s) := by
  unfold execRetireGeneration
  repeat' first
    | with_reducible assumption
    | (intro x; try beta_reduce)
    | with_reducible apply keeps_serveWrite
    | with_reducible apply keeps_actRetireGeneration
    | with_reducible apply keeps_run

theorem keeps_actAbandonStranded {s0 : State} {q : Req} {s : State} (hs : Keeps s0 s) :
    KeepsAct s0 (actAbandonStranded q s) := by
  unfold actAbandonStranded
  repeat' first
    | with_reducible assumption
    | with_reducible apply keeps_abandonStranded
    | with_reducible apply keeps_actDone

theorem keeps_execAbandonStranded {s0 : State} {q : Req} {s : State} (hs : Keeps s0 s) :
    KeepsRes s0 (execAbandonStranded q s) := by
  unfold execAbandonStranded
  repeat' first
    | with_reducible assumption
    | (intro x; try beta_reduce)
    | with_reducible apply keeps_serveWrite
    | with_reducible apply keeps_actAbandonStranded
    | with_reducible apply keeps_run

theorem keeps_actPlacementUpdate {s0 : State} {q : Req} {s : State} (hs : Keeps s0 s) :
    KeepsAct s0 (actPlacementUpdate q s) := by
  unfold actPlacementUpdate
  repeat' first
    | with_reducible assumption
    | ((try lift_lets -underBinder); intro x; clear_value (hx : x = _); refine keeps_cut (s0 := s0) hx ?_ ?_ <;> clear hx)
    | ((try lift_lets -underBinder); intro x; clear_value x)
    | (intro x; try beta_reduce)
    | with_reducible apply keeps_refuse
    | with_reducible apply keeps_answer
    | with_reducible apply keeps_unitRequests
    | with_reducible apply keeps_actLater
    | with_reducible apply keeps_actRefuse
    | split
    | (with_reducible apply keeps_mk; with_reducible assumption)

theorem keeps_execPlacementUpdate {s0 : State} {q : Req} {s : State} (hs : Keeps s0 s) :
    KeepsRes s0 (execPlacementUpdate q s) := by
  unfold execPlacementUpdate
  repeat' first
    | with_reducible assumption
    | (intro x; try beta_reduce)
    | with_reducible apply keeps_serveWrite
    | with_reducible apply keeps_actPlacementUpdate
    | with_reducible apply keeps_run

theorem keeps_setPlaced {s0 : State} {s : State} {c layer expert : Nat} {b : List Replica} (hs : Keeps s0 s) :
    Keeps s0 (setPlaced s c layer expert b) := by
  unfold setPlaced
  repeat' first
    | with_reducible assumption
    | ((try lift_lets -underBinder); intro x; clear_value (hx : x = _); refine keeps_cut (s0 := s0) hx ?_ ?_ <;> clear hx)
    | ((try lift_lets -underBinder); intro x; clear_value x)
    | (intro x; try beta_reduce)
    | with_reducible apply keeps_modCtx

theorem keeps_storeStatus {s0 s t : State} {u : PUpdate} {a status n : Nat} {bs : List Byte} (hs : Keeps s0 s)
    (e : storeStatus s u a status bs = some (n, t)) : Keeps s0 t := by
  unfold storeStatus at e
  split at e
  · cases h : u.answer with
    | none => rw [h] at e; cases e
    | some x => rw [h] at e; cases e; exact hs
  · split at e
    · next w =>
      split at e
      · cases e; exact keeps_of_some w (keeps_pondWrite hs)
      · cases e; exact hs
    · cases e; exact keeps_localMiss hs

theorem keeps_execPlacementStoreComplete {s0 : State} {ctx layer expert status : Nat} {s : State} (hs : Keeps s0 s) :
    KeepsRes s0 (execPlacementStoreComplete ctx layer expert status s) := by
  unfold execPlacementStoreComplete
  repeat' first
    | with_reducible assumption
    | ((try lift_lets -underBinder); intro x; clear_value (hx : x = _); refine keeps_cut (s0 := s0) hx ?_ ?_ <;> clear hx)
    | ((try lift_lets -underBinder); intro x; clear_value x)
    | (intro x; try beta_reduce)
    | refine keeps_storeStatus ?_ ‹storeStatus _ _ _ _ _ = some _›
    | with_reducible apply keeps_endDeferred
    | with_reducible apply keeps_resendStranded
    | with_reducible apply keeps_setPlaced
    | with_reducible apply keeps_run
    | split
    | refine keeps_fst ‹_ = (_, _)› ?_
    | (with_reducible apply keeps_mk; first | with_reducible assumption | with_reducible apply keeps_endDeferred | with_reducible apply keeps_resendStranded | with_reducible apply keeps_setPlaced | refine keeps_fst ‹_ = (_, _)› ?_ | refine keeps_storeStatus ?_ ‹storeStatus _ _ _ _ _ = some _›)

theorem keeps_execDeadlinePolicyWrite {s0 : State} {layer : Nat} {q : Req} {s : State} (hs : Keeps s0 s) :
    KeepsRes s0 (execDeadlinePolicyWrite layer q s) := by
  unfold execDeadlinePolicyWrite
  repeat' first
    | with_reducible assumption
    | (intro x; try beta_reduce)
    | with_reducible apply keeps_serveWrite
    | with_reducible apply keeps_actStore
    | with_reducible apply keeps_run

theorem keeps_fillBytes {s0 s t : State} {w : Nat} {f : Fill} {d : ObjDesc} {bytes : List Byte} {o : Option (List Byte)}
    (hs : Keeps s0 s) (e : fillBytes s w f d bytes = some (o, t)) : Keeps s0 t := by
  unfold fillBytes at e
  dsimp only at e
  split at e
  · cases e; exact hs
  split at e
  · split at e
    · split at e
      · cases e
      · cases e; exact keeps_mk hs
    · split at e
      · cases e
      · cases e; exact hs
  · split at e
    · cases e; exact keeps_passPieces hs fun _ _ _ _ h => keeps_loadPass h
    · cases e; exact keeps_localMiss hs

theorem keeps_fillWindow {s0 : State} {s : State} {d : ObjDesc} {bs : List Byte} (hs : Keeps s0 s) :
    Keeps s0 (fillWindow s d bs) := by
  unfold fillWindow
  repeat' first
    | with_reducible assumption
    | (intro x; try beta_reduce)
    | with_reducible apply keeps_sramFill
    | with_reducible apply keeps_forEach
    | split

theorem keeps_fillWindowBut {s0 : State} {s : State} {d : ObjDesc} {skip : List (Nat × Nat)} {bs : List Byte} (hs : Keeps s0 s) :
    Keeps s0 (fillWindowBut s d skip bs) := by
  unfold fillWindowBut
  repeat' first
    | with_reducible assumption
    | (intro x; try beta_reduce)
    | with_reducible apply keeps_sramFill
    | with_reducible apply keeps_forEach
    | split

theorem keeps_homeFault {s0 : State} {s : State} {c : Nat} {d : ObjDesc} {off : Nat} (hs : Keeps s0 s) :
    Keeps s0 (homeFault s c d off) := by
  unfold homeFault
  repeat' first
    | with_reducible assumption
    | with_reducible apply keeps_raise1

theorem keeps_strandObject {s0 : State} {c : Nat} {d : ObjDesc} {s : State} (hs : Keeps s0 s) :
    Keeps s0 (strandObject s c d) := by
  unfold strandObject
  repeat' first
    | with_reducible assumption
    | ((try lift_lets -underBinder); intro x; clear_value (hx : x = _); refine keeps_cut (s0 := s0) hx ?_ ?_ <;> clear hx)
    | ((try lift_lets -underBinder); intro x; clear_value x)
    | (intro x; try beta_reduce)
    | with_reducible apply keeps_strandChoices
    | split
    | (with_reducible apply keeps_mk; with_reducible assumption)

theorem keeps_markBad {s0 : State} {s : State} {c obj : Nat} {d : ObjDesc} (hs : Keeps s0 s) :
    Keeps s0 (markBad s c obj d) := by
  unfold markBad
  repeat' first
    | with_reducible assumption
    | ((try lift_lets -underBinder); intro x; clear_value (hx : x = _); refine keeps_cut (s0 := s0) hx ?_ ?_ <;> clear hx)
    | ((try lift_lets -underBinder); intro x; clear_value x)
    | (intro x; try beta_reduce)
    | with_reducible apply keeps_strandObject
    | with_reducible apply keeps_setWin
    | with_reducible apply keeps_strandChoices

theorem keeps_execWritebackComplete {s0 : State} {ctx obj : Nat} {s : State} (hs : Keeps s0 s) :
    KeepsRes s0 (execWritebackComplete ctx obj s) := by
  unfold execWritebackComplete
  repeat' first
    | with_reducible assumption
    | ((try lift_lets -underBinder); intro x; clear_value (hx : x = _); refine keeps_cut (s0 := s0) hx ?_ ?_ <;> clear hx)
    | ((try lift_lets -underBinder); intro x; clear_value x)
    | (intro x; try beta_reduce)
    | with_reducible apply keeps_completeSlot
    | with_reducible apply keeps_forEach
    | with_reducible apply keeps_strandObject
    | with_reducible apply keeps_run
    | split
    | (with_reducible apply keeps_mk; with_reducible assumption)

theorem keeps_execFillComplete {s0 : State} {wythe ctx obj : Nat} {bad : List (Nat × Bool)} {bytes : List Byte} {s : State} (hs : Keeps s0 s) :
    KeepsRes s0 (execFillComplete wythe ctx obj bad bytes s) := by
  unfold execFillComplete
  repeat' first
    | with_reducible assumption
    | ((try lift_lets -underBinder); intro x; clear_value (hx : x = _); refine keeps_cut (s0 := s0) hx ?_ ?_ <;> clear hx)
    | ((try lift_lets -underBinder); intro x; clear_value x)
    | (intro x; try beta_reduce)
    | refine keeps_fillBytes ?_ ‹fillBytes _ _ _ _ _ = some _›
    | with_reducible apply keeps_homeFault
    | with_reducible apply keeps_markBad
    | with_reducible apply keeps_fillWindowBut
    | with_reducible apply keeps_fillWindow
    | with_reducible apply keeps_setWin
    | with_reducible apply keeps_countBy
    | with_reducible apply keeps_forEach
    | with_reducible apply keeps_run
    | split
    | refine keeps_fst ‹_ = (_, _)› ?_
    | (with_reducible apply keeps_mk; first | with_reducible assumption | with_reducible apply keeps_homeFault | with_reducible apply keeps_markBad | with_reducible apply keeps_fillWindowBut | with_reducible apply keeps_fillWindow | with_reducible apply keeps_setWin | with_reducible apply keeps_countBy | refine keeps_fst ‹_ = (_, _)› ?_ | refine keeps_fillBytes ?_ ‹fillBytes _ _ _ _ _ = some _›)

theorem keeps_actPlaceObject {s0 : State} {q : Req} {s : State} (hs : Keeps s0 s) :
    KeepsAct s0 (actPlaceObject q s) := by
  unfold actPlaceObject
  repeat' first
    | with_reducible assumption
    | with_reducible apply keeps_placeObject

theorem keeps_execPlaceObject {s0 : State} {q : Req} {s : State} (hs : Keeps s0 s) :
    KeepsRes s0 (execPlaceObject q s) := by
  unfold execPlaceObject
  repeat' first
    | with_reducible assumption
    | (intro x; try beta_reduce)
    | with_reducible apply keeps_serveWrite
    | with_reducible apply keeps_actPlaceObject
    | with_reducible apply keeps_run

theorem keeps_actPoolCommit {s0 : State} {s : State} (hs : Keeps s0 s) :
    KeepsAct s0 (actPoolCommit s) := by
  unfold actPoolCommit
  repeat' first
    | with_reducible assumption
    | refine keeps_poolCommit ?_ ‹poolCommit _ = _›
    | with_reducible apply keeps_refuse
    | with_reducible apply keeps_actDone
    | with_reducible apply keeps_actRefuse
    | split

theorem keeps_execPoolCommit {s0 : State} {q : Req} {s : State} (hs : Keeps s0 s) :
    KeepsRes s0 (execPoolCommit q s) := by
  unfold execPoolCommit
  repeat' first
    | with_reducible assumption
    | (intro x; try beta_reduce)
    | with_reducible apply keeps_serveWrite
    | with_reducible apply keeps_actPoolCommit
    | with_reducible apply keeps_run

end Sys2Proof.Machine
end

