-- ==== Sys2Proof/Laws/KeepsWork.lean ====
section
/-! SUPPORT. One lemma per operation of collectives, fences, memory instructions, engines, the compressor and the vector chain: it keeps what every command keeps (Laws/Keeps.lean). -/

namespace Sys2Proof.Machine

/-! ### Machine/Coll.lean -/

theorem keeps_missPieces {s0 : State} {s : State} {a n : Nat} {right : BitVec 128 → Bool} (hs : Keeps s0 s) :
    Keeps s0 (missPieces s a n right) := by
  unfold missPieces
  repeat' first
    | with_reducible assumption
    | (intro x; try beta_reduce)
    | with_reducible apply keeps_localMiss
    | with_reducible apply keeps_forEach

theorem keeps_readPass {s0 : State} {s : State} {w : Nat} {d : CollDesc} {i : Nat} (hs : Keeps s0 s) :
    Keeps s0 (readPass s w d i) := by
  unfold readPass
  repeat' first
    | with_reducible assumption
    | ((try lift_lets -underBinder); intro x; clear_value (hx : x = _); refine keeps_cut (s0 := s0) hx ?_ ?_ <;> clear hx)
    | ((try lift_lets -underBinder); intro x; clear_value x)
    | (intro x; try beta_reduce)
    | with_reducible apply keeps_passBytes
    | with_reducible apply keeps_missPieces
    | with_reducible apply keeps_passPieces
    | with_reducible apply keeps_loadPass
    | split

theorem keeps_writeTile {s0 : State} {s : State} {w : Nat} {d : CollDesc} {i : Nat} {bs : List Byte} (hs : Keeps s0 s) :
    Keeps s0 (writeTile s w d i bs) := by
  unfold writeTile
  repeat' first
    | with_reducible assumption
    | ((try lift_lets -underBinder); intro x; clear_value (hx : x = _); refine keeps_cut (s0 := s0) hx ?_ ?_ <;> clear hx)
    | ((try lift_lets -underBinder); intro x; clear_value x)
    | (intro x; try beta_reduce)
    | with_reducible apply keeps_passBytes
    | with_reducible apply keeps_sramWrite
    | with_reducible apply keeps_pondWrite
    | with_reducible apply keeps_missPieces
    | with_reducible apply keeps_passPieces
    | with_reducible apply keeps_storePass
    | with_reducible apply keeps_forEach
    | with_reducible apply keeps_getD
    | split

theorem keeps_noteSpecials {s0 : State} {s : State} {w ctx group seq n : Nat} (hs : Keeps s0 s) :
    Keeps s0 (noteSpecials s w ctx group seq n) := by
  unfold noteSpecials
  repeat' first
    | with_reducible assumption
    | (intro x; try beta_reduce)
    | with_reducible apply keeps_countBy
    | with_reducible apply keeps_raise1
    | with_reducible apply keeps_forEach
    | split

theorem keeps_finish {s0 : State} {r : State × List Fault16} (hr : Keeps s0 r.1) :
    Keeps s0 (finish r) := by
  unfold finish
  repeat' first
    | with_reducible assumption
    | with_reducible apply keeps_raise
    | split

theorem keeps_deliverChunk {s0 : State} {s : State} {co : Coll} {i : Nat} {bs : List Byte} (hs : Keeps s0 s) :
    Keeps s0 (deliverChunk s co i bs) := by
  unfold deliverChunk
  repeat' first
    | with_reducible assumption
    | ((try lift_lets -underBinder); intro x; clear_value (hx : x = _); refine keeps_cut (s0 := s0) hx ?_ ?_ <;> clear hx)
    | ((try lift_lets -underBinder); intro x; clear_value x)
    | (intro x; try beta_reduce)
    | with_reducible apply keeps_modColl
    | with_reducible apply keeps_writeTile
    | with_reducible apply keeps_settleStone
    | with_reducible apply keeps_addSync
    | split

theorem keeps_rootSend {s0 : State} {s : State} {co : Coll} {i : Nat} {bs : List Byte} (hs : Keeps s0 s) :
    Keeps s0 (rootSend s co i bs) := by
  unfold rootSend
  repeat' first
    | with_reducible assumption
    | ((try lift_lets -underBinder); intro x; clear_value (hx : x = _); refine keeps_cut (s0 := s0) hx ?_ ?_ <;> clear hx)
    | ((try lift_lets -underBinder); intro x; clear_value x)
    | (intro x; try beta_reduce)
    | with_reducible apply keeps_collDown
    | with_reducible apply keeps_modColl

theorem keeps_formChunk {s0 : State} {s : State} {co : Coll} {chunk : Nat} {bs : List Byte} {clamps : Nat} (hs : Keeps s0 s) :
    Keeps s0 (formChunk s co chunk bs clamps) := by
  unfold formChunk
  repeat' first
    | with_reducible assumption
    | ((try lift_lets -underBinder); intro x; clear_value (hx : x = _); refine keeps_cut (s0 := s0) hx ?_ ?_ <;> clear hx)
    | ((try lift_lets -underBinder); intro x; clear_value x)
    | (intro x; try beta_reduce)
    | with_reducible apply keeps_modColl
    | with_reducible apply keeps_countBy
    | with_reducible apply keeps_collSend
    | with_reducible apply keeps_deliverChunk
    | with_reducible apply keeps_rootSend
    | split

theorem keeps_advanceUp {s0 : State} {s : State} {k : CollKey} (hs : Keeps s0 s) :
    Keeps s0 (advanceUp s k) := by
  unfold advanceUp
  repeat' first
    | with_reducible assumption
    | (intro x; try beta_reduce)
    | with_reducible apply keeps_formChunk
    | with_reducible apply keeps_forEach
    | split

theorem keeps_rootOut {s0 : State} {s : State} {k : CollKey} (hs : Keeps s0 s) :
    Keeps s0 (rootOut s k) := by
  unfold rootOut
  repeat' first
    | with_reducible assumption
    | ((try lift_lets -underBinder); intro x; clear_value (hx : x = _); refine keeps_cut (s0 := s0) hx ?_ ?_ <;> clear hx)
    | ((try lift_lets -underBinder); intro x; clear_value x)
    | (intro x; try beta_reduce)
    | with_reducible apply keeps_rootSend
    | with_reducible apply keeps_deliverChunk
    | with_reducible apply keeps_forEach
    | split

theorem keeps_sendDone {s0 : State} {s : State} {co : Coll} (hs : Keeps s0 s) :
    Keeps s0 (sendDone s co) := by
  unfold sendDone
  repeat' first
    | with_reducible assumption
    | with_reducible apply keeps_collSend

theorem keeps_collProgress {s0 : State} {s : State} {k : CollKey} (hs : Keeps s0 s) :
    Keeps s0 (collProgress s k) := by
  unfold collProgress
  repeat' first
    | with_reducible assumption
    | ((try lift_lets -underBinder); intro x; clear_value (hx : x = _); refine keeps_cut (s0 := s0) hx ?_ ?_ <;> clear hx)
    | ((try lift_lets -underBinder); intro x; clear_value x)
    | (intro x; try beta_reduce)
    | with_reducible apply keeps_finish
    | with_reducible apply keeps_completeColl
    | with_reducible apply keeps_collDown
    | with_reducible apply keeps_sendDone
    | with_reducible apply keeps_modColl
    | split

theorem keeps_pump {s0 : State} {s : State} {k : CollKey} (hs : Keeps s0 s) :
    Keeps s0 (pump s k) := by
  unfold pump
  repeat' first
    | with_reducible assumption
    | with_reducible apply keeps_collProgress
    | with_reducible apply keeps_rootOut
    | with_reducible apply keeps_advanceUp

theorem keeps_takeTile {s0 : State} {s : State} {co : Coll} {i : Nat} (hs : Keeps s0 s) :
    Keeps s0 (takeTile s co i) := by
  unfold takeTile
  repeat' first
    | with_reducible assumption
    | ((try lift_lets -underBinder); intro x; clear_value (hx : x = _); refine keeps_cut (s0 := s0) hx ?_ ?_ <;> clear hx)
    | ((try lift_lets -underBinder); intro x; clear_value x)
    | (intro x; try beta_reduce)
    | with_reducible apply keeps_noteSpecials
    | with_reducible apply keeps_modColl
    | with_reducible apply keeps_readPass

theorem keeps_takePartial {s0 : State} {s : State} {co : Coll} {m : CollMsg} (hs : Keeps s0 s) :
    Keeps s0 (takePartial s co m) := by
  unfold takePartial
  repeat' first
    | with_reducible assumption
    | ((try lift_lets -underBinder); intro x; clear_value (hx : x = _); refine keeps_cut (s0 := s0) hx ?_ ?_ <;> clear hx)
    | ((try lift_lets -underBinder); intro x; clear_value x)
    | (intro x; try beta_reduce)
    | with_reducible apply keeps_modColl
    | with_reducible apply keeps_count
    | with_reducible apply keeps_finish
    | with_reducible apply keeps_requestAbort
    | with_reducible apply keeps_collSend
    | with_reducible apply keeps_pump
    | split

theorem keeps_takeResult {s0 : State} {s : State} {co : Coll} {m : CollMsg} (hs : Keeps s0 s) :
    Keeps s0 (takeResult s co m) := by
  unfold takeResult
  repeat' first
    | with_reducible assumption
    | ((try lift_lets -underBinder); intro x; clear_value (hx : x = _); refine keeps_cut (s0 := s0) hx ?_ ?_ <;> clear hx)
    | ((try lift_lets -underBinder); intro x; clear_value x)
    | (intro x; try beta_reduce)
    | with_reducible apply keeps_modColl
    | with_reducible apply keeps_count
    | with_reducible apply keeps_collSend
    | with_reducible apply keeps_finish
    | with_reducible apply keeps_requestAbort
    | with_reducible apply keeps_pump
    | with_reducible apply keeps_collDown
    | with_reducible apply keeps_deliverChunk
    | split

theorem keeps_sendAgain {s0 : State} {s : State} {co : Coll} {rk msg chunk n : Nat} (hs : Keeps s0 s) :
    Keeps s0 (sendAgain s co rk msg chunk n) := by
  unfold sendAgain
  repeat' first
    | with_reducible assumption
    | (intro x; try beta_reduce)
    | with_reducible apply keeps_collSend
    | with_reducible apply keeps_count
    | split

theorem keeps_partialAgain {s0 : State} {s : State} {co : Coll} {chunk n : Nat} (hs : Keeps s0 s) :
    Keeps s0 (partialAgain s co chunk n) := by
  unfold partialAgain
  repeat' first
    | with_reducible assumption
    | ((try lift_lets -underBinder); intro x; clear_value (hx : x = _); refine keeps_cut (s0 := s0) hx ?_ ?_ <;> clear hx)
    | ((try lift_lets -underBinder); intro x; clear_value x)
    | (intro x; try beta_reduce)
    | with_reducible apply keeps_sendAgain
    | split

theorem keeps_takeOpen {s0 : State} {s : State} {co : Coll} {msg : Nat} {m : CollMsg} (hs : Keeps s0 s) :
    Keeps s0 (takeOpen s co msg m) := by
  unfold takeOpen
  repeat' first
    | with_reducible assumption
    | ((try lift_lets -underBinder); intro x; clear_value (hx : x = _); refine keeps_cut (s0 := s0) hx ?_ ?_ <;> clear hx)
    | ((try lift_lets -underBinder); intro x; clear_value x)
    | (intro x; try beta_reduce)
    | with_reducible apply keeps_takePartial
    | with_reducible apply keeps_takeResult
    | with_reducible apply keeps_partialAgain
    | with_reducible apply keeps_sendAgain
    | with_reducible apply keeps_pump
    | with_reducible apply keeps_modColl
    | with_reducible apply keeps_finish
    | with_reducible apply keeps_completeColl
    | with_reducible apply keeps_collDown
    | with_reducible apply keeps_abortColl
    | split
    | refine keeps_fst ‹_ = (_, _)› ?_
    | (with_reducible apply keeps_mk; with_reducible assumption)

theorem keeps_sendLoose {s0 : State} {s : State} {k : CollKey} {rk msg chunk : Nat} {data : List Byte} (hs : Keeps s0 s) :
    Keeps s0 (sendLoose s k rk msg chunk data) := by
  unfold sendLoose
  repeat' first
    | with_reducible assumption
    | with_reducible apply keeps_inject
    | split

theorem keeps_takeEnded {s0 : State} {s : State} {e : CollEnd} {msg : Nat} {m : CollMsg} (hs : Keeps s0 s) :
    Keeps s0 (takeEnded s e msg m) := by
  unfold takeEnded
  repeat' first
    | with_reducible assumption
    | with_reducible apply keeps_sendLoose
    | with_reducible apply keeps_count
    | split

theorem keeps_holdMsg {s0 : State} {s : State} {msg : Nat} {m : CollMsg} (hs : Keeps s0 s) :
    Keeps s0 (holdMsg s msg m) := by
  unfold holdMsg
  repeat' first
    | with_reducible assumption
    | ((try lift_lets -underBinder); intro x; clear_value (hx : x = _); refine keeps_cut (s0 := s0) hx ?_ ?_ <;> clear hx)
    | ((try lift_lets -underBinder); intro x; clear_value x)
    | (intro x; try beta_reduce)
    | with_reducible apply keeps_sendLoose
    | with_reducible apply keeps_count
    | split
    | (with_reducible apply keeps_mk; with_reducible assumption)

theorem keeps_abortBarrier {s0 : State} {s : State} {m : CollMsg} (hs : Keeps s0 s) :
    Keeps s0 (abortBarrier s m) := by
  unfold abortBarrier
  repeat' first
    | with_reducible assumption
    | ((try lift_lets -underBinder); intro x; clear_value (hx : x = _); refine keeps_cut (s0 := s0) hx ?_ ?_ <;> clear hx)
    | ((try lift_lets -underBinder); intro x; clear_value x)
    | (intro x; try beta_reduce)
    | split
    | (with_reducible apply keeps_mk; first | with_reducible assumption)

theorem keeps_abortUnposted {s0 : State} {s : State} {msg : Nat} {m : CollMsg} (hs : Keeps s0 s) :
    Keeps s0 (abortUnposted s msg m) := by
  unfold abortUnposted
  repeat' first
    | with_reducible assumption
    | ((try lift_lets -underBinder); intro x; clear_value (hx : x = _); refine keeps_cut (s0 := s0) hx ?_ ?_ <;> clear hx)
    | ((try lift_lets -underBinder); intro x; clear_value x)
    | (intro x; try beta_reduce)
    | with_reducible apply keeps_sendLoose
    | with_reducible apply keeps_forEach
    | split
    | (with_reducible apply keeps_mk; with_reducible assumption)

theorem keeps_retainFault {s0 : State} {s : State} (hs : Keeps s0 s) :
    Keeps s0 (retainFault s) := by
  unfold retainFault
  repeat' first
    | with_reducible assumption
    | ((try lift_lets -underBinder); intro x; clear_value (hx : x = _); refine keeps_cut (s0 := s0) hx ?_ ?_ <;> clear hx)
    | ((try lift_lets -underBinder); intro x; clear_value x)
    | (intro x; try beta_reduce)
    | with_reducible apply keeps_raise1

theorem keeps_takeMsg {s0 : State} {s : State} {msg : Nat} {m : CollMsg} (hs : Keeps s0 s) :
    Keeps s0 (takeMsg s msg m) := by
  unfold takeMsg
  repeat' first
    | with_reducible assumption
    | with_reducible apply keeps_takeOpen
    | with_reducible apply keeps_holdMsg
    | with_reducible apply keeps_takeEnded
    | with_reducible apply keeps_abortBarrier
    | with_reducible apply keeps_abortUnposted
    | split

theorem keeps_execPartialMsg {s0 : State} {m : CollMsg} {s : State} (hs : Keeps s0 s) :
    KeepsRes s0 (execPartialMsg m s) := by
  unfold execPartialMsg
  repeat' first
    | with_reducible assumption
    | (intro x; try beta_reduce)
    | with_reducible apply keeps_takeMsg
    | with_reducible apply keeps_run

theorem keeps_execResultMsg {s0 : State} {m : CollMsg} {s : State} (hs : Keeps s0 s) :
    KeepsRes s0 (execResultMsg m s) := by
  unfold execResultMsg
  repeat' first
    | with_reducible assumption
    | (intro x; try beta_reduce)
    | with_reducible apply keeps_takeMsg
    | with_reducible apply keeps_run

theorem keeps_resendLost {s0 : State} {s : State} {msg : Nat} {m : CollMsg} (hs : Keeps s0 s) :
    Keeps s0 (resendLost s msg m) := by
  unfold resendLost
  repeat' first
    | with_reducible assumption
    | (intro x; try beta_reduce)
    | with_reducible apply keeps_takeMsg
    | with_reducible apply keeps_finish
    | with_reducible apply keeps_requestAbort
    | with_reducible apply keeps_retainFault
    | split

theorem keeps_execPnak {s0 : State} {m : CollMsg} {readOk : Bool} {s : State} (hs : Keeps s0 s) :
    KeepsRes s0 (execPnak m readOk s) := by
  unfold execPnak
  repeat' first
    | with_reducible assumption
    | (intro x; try beta_reduce)
    | with_reducible apply keeps_takeMsg
    | with_reducible apply keeps_resendLost
    | with_reducible apply keeps_run
    | split

theorem keeps_execCollNak {s0 : State} {m : CollMsg} {readOk : Bool} {s : State} (hs : Keeps s0 s) :
    KeepsRes s0 (execCollNak m readOk s) := by
  unfold execCollNak
  repeat' first
    | with_reducible assumption
    | (intro x; try beta_reduce)
    | with_reducible apply keeps_takeMsg
    | with_reducible apply keeps_resendLost
    | with_reducible apply keeps_run
    | split

theorem keeps_execDoneMsg {s0 : State} {m : CollMsg} {s : State} (hs : Keeps s0 s) :
    KeepsRes s0 (execDoneMsg m s) := by
  unfold execDoneMsg
  repeat' first
    | with_reducible assumption
    | (intro x; try beta_reduce)
    | with_reducible apply keeps_takeMsg
    | with_reducible apply keeps_run

theorem keeps_execSealMsg {s0 : State} {m : CollMsg} {s : State} (hs : Keeps s0 s) :
    KeepsRes s0 (execSealMsg m s) := by
  unfold execSealMsg
  repeat' first
    | with_reducible assumption
    | (intro x; try beta_reduce)
    | with_reducible apply keeps_takeMsg
    | with_reducible apply keeps_run

theorem keeps_execAbortReq {s0 : State} {m : CollMsg} {s : State} (hs : Keeps s0 s) :
    KeepsRes s0 (execAbortReq m s) := by
  unfold execAbortReq
  repeat' first
    | with_reducible assumption
    | (intro x; try beta_reduce)
    | with_reducible apply keeps_takeMsg
    | with_reducible apply keeps_run

theorem keeps_execAbort {s0 : State} {m : CollMsg} {s : State} (hs : Keeps s0 s) :
    KeepsRes s0 (execAbort m s) := by
  unfold execAbort
  repeat' first
    | with_reducible assumption
    | (intro x; try beta_reduce)
    | with_reducible apply keeps_takeMsg
    | with_reducible apply keeps_run

theorem keeps_execBackoff {s0 : State} {m : CollMsg} {s : State} (hs : Keeps s0 s) :
    KeepsRes s0 (execBackoff m s) := by
  unfold execBackoff
  repeat' first
    | with_reducible assumption
    | (intro x; try beta_reduce)
    | with_reducible apply keeps_takeMsg
    | with_reducible apply keeps_run

theorem keeps_execBackoffRetry {s0 : State} {k : CollKey} {chunk : Nat} {s : State} (hs : Keeps s0 s) :
    KeepsRes s0 (execBackoffRetry k chunk s) := by
  unfold execBackoffRetry
  repeat' first
    | with_reducible assumption
    | ((try lift_lets -underBinder); intro x; clear_value (hx : x = _); refine keeps_cut (s0 := s0) hx ?_ ?_ <;> clear hx)
    | ((try lift_lets -underBinder); intro x; clear_value x)
    | (intro x; try beta_reduce)
    | with_reducible apply keeps_partialAgain
    | with_reducible apply keeps_sendDone
    | with_reducible apply keeps_run
    | split
    | (with_reducible apply keeps_mk; with_reducible assumption)

theorem keeps_actGroupCommit {s0 : State} {g : Nat} {readOk : Bool} {q : Req} {s : State} (hs : Keeps s0 s) :
    KeepsAct s0 (actGroupCommit g readOk q s) := by
  unfold actGroupCommit
  repeat' first
    | with_reducible assumption
    | ((try lift_lets -underBinder); intro x; clear_value (hx : x = _); refine keeps_cut (s0 := s0) hx ?_ ?_ <;> clear hx)
    | ((try lift_lets -underBinder); intro x; clear_value x)
    | (intro x; try beta_reduce)
    | with_reducible apply keeps_refuse
    | with_reducible apply keeps_missPieces
    | with_reducible apply keeps_setC
    | with_reducible apply keeps_actDone
    | with_reducible apply keeps_actRefuse
    | split
    | (with_reducible apply keeps_mk; with_reducible assumption)

theorem keeps_execGroupCommit {s0 : State} {group : Nat} {q : Req} {readOk : Bool} {s : State} (hs : Keeps s0 s) :
    KeepsRes s0 (execGroupCommit group q readOk s) := by
  unfold execGroupCommit
  repeat' first
    | with_reducible assumption
    | (intro x; try beta_reduce)
    | with_reducible apply keeps_serveWrite
    | with_reducible apply keeps_actGroupCommit
    | with_reducible apply keeps_run

theorem keeps_startColl {s0 : State} {s : State} {k : CollKey} (hs : Keeps s0 s) :
    Keeps s0 (startColl s k) := by
  unfold startColl
  repeat' first
    | with_reducible assumption
    | ((try lift_lets -underBinder); intro x; clear_value (hx : x = _); refine keeps_cut (s0 := s0) hx ?_ ?_ <;> clear hx)
    | ((try lift_lets -underBinder); intro x; clear_value x)
    | (intro x; try beta_reduce)
    | with_reducible apply keeps_takeTile
    | with_reducible apply keeps_pump
    | with_reducible apply keeps_takeMsg
    | with_reducible apply keeps_forEach
    | split
    | (with_reducible apply keeps_mk; with_reducible assumption)

theorem keeps_openColl {s0 : State} {s : State} {co : Coll} (hs : Keeps s0 s) :
    Keeps s0 (openColl s co) := by
  unfold openColl
  repeat' first
    | with_reducible assumption
    | ((try lift_lets -underBinder); intro x; clear_value (hx : x = _); refine keeps_cut (s0 := s0) hx ?_ ?_ <;> clear hx)
    | ((try lift_lets -underBinder); intro x; clear_value x)
    | (intro x; try beta_reduce)
    | with_reducible apply keeps_collDown
    | with_reducible apply keeps_finish
    | with_reducible apply keeps_completeColl
    | with_reducible apply keeps_startColl
    | split
    | refine keeps_fst ‹_ = (_, _)› ?_
    | (with_reducible apply keeps_mk; with_reducible assumption)

theorem keeps_modMcast {s0 : State} {s : State} {ctx number : Nat} {f : Mcast → Mcast} (hs : Keeps s0 s) :
    Keeps s0 (modMcast s ctx number f) := by
  unfold modMcast
  repeat' first
    | with_reducible assumption
    | ((try lift_lets -underBinder); intro x; clear_value (hx : x = _); refine keeps_cut (s0 := s0) hx ?_ ?_ <;> clear hx)
    | ((try lift_lets -underBinder); intro x; clear_value x)
    | (intro x; try beta_reduce)
    | (with_reducible apply keeps_mk; first | with_reducible assumption)

theorem keeps_mcastDone {s0 : State} {s : State} {ctx number : Nat} (hs : Keeps s0 s) :
    Keeps s0 (mcastDone s ctx number) := by
  unfold mcastDone
  repeat' first
    | with_reducible assumption
    | with_reducible apply keeps_finish
    | with_reducible apply keeps_completeMcast
    | split

theorem keeps_writeLeg {s0 : State} {s : State} {poster ctx number leg st off : Nat} {crcOk : Bool} {bs : List Byte} (hs : Keeps s0 s) :
    Keeps s0 (writeLeg s poster ctx number leg st off crcOk bs).1 := by
  unfold writeLeg
  repeat' first
    | with_reducible assumption
    | ((try lift_lets -underBinder); intro x; clear_value (hx : x = _); refine keeps_cut (s0 := s0) hx ?_ ?_ <;> clear hx)
    | ((try lift_lets -underBinder); intro x; clear_value x)
    | (intro x; try beta_reduce)
    | with_reducible apply keeps_count
    | with_reducible apply keeps_sramWrite
    | split
    | refine keeps_fst ‹_ = (_, _)› ?_
    | (with_reducible apply keeps_mk; with_reducible assumption)

theorem keeps_sendLeg {s0 : State} {s : State} {m : Mcast} {i chunk attempt : Nat} {bs : List Byte} (hs : Keeps s0 s) :
    Keeps s0 (sendLeg s m i chunk attempt bs) := by
  unfold sendLeg
  repeat' first
    | with_reducible assumption
    | ((try lift_lets -underBinder); intro x; clear_value (hx : x = _); refine keeps_cut (s0 := s0) hx ?_ ?_ <;> clear hx)
    | ((try lift_lets -underBinder); intro x; clear_value x)
    | (intro x; try beta_reduce)
    | with_reducible apply keeps_writeLeg
    | with_reducible apply keeps_modMcast
    | with_reducible apply keeps_inject
    | split

theorem keeps_readMcast {s0 : State} {s : State} {ctx number i : Nat} (hs : Keeps s0 s) :
    Keeps s0 (readMcast s ctx number i) := by
  unfold readMcast
  repeat' first
    | with_reducible assumption
    | ((try lift_lets -underBinder); intro x; clear_value (hx : x = _); refine keeps_cut (s0 := s0) hx ?_ ?_ <;> clear hx)
    | ((try lift_lets -underBinder); intro x; clear_value x)
    | (intro x; try beta_reduce)
    | with_reducible apply keeps_modMcast
    | with_reducible apply keeps_readPass
    | split

theorem keeps_mcastLegs {s0 : State} {s : State} {ctx number i : Nat} (hs : Keeps s0 s) :
    Keeps s0 (mcastLegs s ctx number i) := by
  unfold mcastLegs
  repeat' first
    | with_reducible assumption
    | (intro x; try beta_reduce)
    | with_reducible apply keeps_mcastDone
    | with_reducible apply keeps_sendLeg
    | with_reducible apply keeps_forEach
    | split

theorem keeps_mcastTile {s0 : State} {s : State} {ctx number i : Nat} (hs : Keeps s0 s) :
    Keeps s0 (mcastTile s ctx number i) := by
  unfold mcastTile
  repeat' first
    | with_reducible assumption
    | with_reducible apply keeps_mcastLegs
    | with_reducible apply keeps_readMcast

theorem keeps_startMcast {s0 : State} {s : State} {ctx number : Nat} {soc : Bool} (hs : Keeps s0 s) :
    Keeps s0 (startMcast s ctx number soc) := by
  unfold startMcast
  repeat' first
    | with_reducible assumption
    | (intro x; try beta_reduce)
    | with_reducible apply keeps_mcastLegs
    | with_reducible apply keeps_mcastTile
    | with_reducible apply keeps_forEach
    | split

theorem keeps_execCollRetentionGrant {s0 : State} {k : CollKey} {cycles : Nat} {s : State} (hs : Keeps s0 s) :
    KeepsRes s0 (execCollRetentionGrant k cycles s) := by
  unfold execCollRetentionGrant
  repeat' first
    | with_reducible assumption
    | ((try lift_lets -underBinder); intro x; clear_value (hx : x = _); refine keeps_cut (s0 := s0) hx ?_ ?_ <;> clear hx)
    | ((try lift_lets -underBinder); intro x; clear_value x)
    | (intro x; try beta_reduce)
    | with_reducible apply keeps_startColl
    | with_reducible apply keeps_modColl
    | with_reducible apply keeps_countBy
    | with_reducible apply keeps_startMcast
    | with_reducible apply keeps_modMcast
    | with_reducible apply keeps_run
    | split

theorem keeps_takeNotice {s0 : State} {s : State} {st handle tile : Nat} (hs : Keeps s0 s) :
    Keeps s0 (takeNotice s st handle tile) := by
  unfold takeNotice
  repeat' first
    | with_reducible assumption
    | ((try lift_lets -underBinder); intro x; clear_value (hx : x = _); refine keeps_cut (s0 := s0) hx ?_ ?_ <;> clear hx)
    | ((try lift_lets -underBinder); intro x; clear_value (hx : x = _); refine keeps_cutFun (s0 := s0) hx ?_ ?_ <;> clear hx)
    | ((try lift_lets -underBinder); intro x; clear_value (hx : x = _); refine keeps_cutFun2 (s0 := s0) hx ?_ ?_ <;> clear hx)
    | ((try lift_lets -underBinder); intro x; clear_value (hx : x = _); refine keeps_cutFun3 (s0 := s0) hx ?_ ?_ <;> clear hx)
    | ((try lift_lets -underBinder); intro x; clear_value x)
    | (intro x; try beta_reduce)
    | with_reducible apply keeps_raise1
    | with_reducible apply keeps_stopLate
    | with_reducible apply keeps_count
    | with_reducible apply keeps_pump
    | with_reducible apply keeps_takeTile
    | with_reducible apply keeps_mcastTile
    | with_reducible apply keeps_readMcast
    | (with_reducible apply_assumption; with_reducible assumption)
    | split

theorem keeps_execTileNotice {s0 : State} {st handle tile : Nat} {s : State} (hs : Keeps s0 s) :
    KeepsRes s0 (execTileNotice st handle tile s) := by
  unfold execTileNotice
  repeat' first
    | with_reducible assumption
    | (intro x; try beta_reduce)
    | with_reducible apply keeps_takeNotice
    | with_reducible apply keeps_run

theorem keeps_execLeg {s0 : State} {m : LegMsg} {s : State} (hs : Keeps s0 s) :
    KeepsRes s0 (execLeg m s) := by
  unfold execLeg
  repeat' first
    | with_reducible assumption
    | ((try lift_lets -underBinder); intro x; clear_value (hx : x = _); refine keeps_cut (s0 := s0) hx ?_ ?_ <;> clear hx)
    | ((try lift_lets -underBinder); intro x; clear_value x)
    | (intro x; try beta_reduce)
    | with_reducible apply keeps_writeLeg
    | with_reducible apply keeps_inject
    | with_reducible apply keeps_run

theorem keeps_execLegAck {s0 : State} {ctx number leg chunk answer : Nat} {readOk : Bool} {s : State} (hs : Keeps s0 s) :
    KeepsRes s0 (execLegAck ctx number leg chunk answer readOk s) := by
  unfold execLegAck
  repeat' first
    | with_reducible assumption
    | ((try lift_lets -underBinder); intro x; clear_value (hx : x = _); refine keeps_cut (s0 := s0) hx ?_ ?_ <;> clear hx)
    | ((try lift_lets -underBinder); intro x; clear_value x)
    | (intro x; try beta_reduce)
    | with_reducible apply keeps_count
    | with_reducible apply keeps_answer
    | with_reducible apply keeps_finish
    | with_reducible apply keeps_completeMcast
    | with_reducible apply keeps_retainFault
    | with_reducible apply keeps_sendLeg
    | with_reducible apply keeps_modMcast
    | with_reducible apply keeps_mcastDone
    | with_reducible apply keeps_run
    | split

theorem keeps_execCollTimeoutExpiry {s0 : State} {k : CollKey} {s : State} (hs : Keeps s0 s) :
    KeepsRes s0 (execCollTimeoutExpiry k s) := by
  unfold execCollTimeoutExpiry
  repeat' first
    | with_reducible assumption
    | (intro x; try beta_reduce)
    | with_reducible apply keeps_finish
    | with_reducible apply keeps_completeColl
    | with_reducible apply keeps_requestAbort
    | with_reducible apply keeps_completeMcast
    | with_reducible apply keeps_run
    | split

theorem keeps_execSealWaitTimeout {s0 : State} {k : CollKey} {s : State} (hs : Keeps s0 s) :
    KeepsRes s0 (execSealWaitTimeout k s) := by
  unfold execSealWaitTimeout
  repeat' first
    | with_reducible assumption
    | (intro x; try beta_reduce)
    | with_reducible apply keeps_finish
    | with_reducible apply keeps_completeColl
    | with_reducible apply keeps_run
    | split

theorem keeps_actCollAbort {s0 : State} {q : Req} {s : State} (hs : Keeps s0 s) :
    KeepsAct s0 (actCollAbort q s) := by
  unfold actCollAbort
  repeat' first
    | with_reducible assumption
    | ((try lift_lets -underBinder); intro x; clear_value (hx : x = _); refine keeps_cut (s0 := s0) hx ?_ ?_ <;> clear hx)
    | ((try lift_lets -underBinder); intro x; clear_value x)
    | (intro x; try beta_reduce)
    | with_reducible apply keeps_refuse
    | with_reducible apply keeps_finish
    | with_reducible apply keeps_requestAbort
    | with_reducible apply keeps_actDone
    | with_reducible apply keeps_actRefuse
    | split

theorem keeps_execCollAbort {s0 : State} {q : Req} {s : State} (hs : Keeps s0 s) :
    KeepsRes s0 (execCollAbort q s) := by
  unfold execCollAbort
  repeat' first
    | with_reducible assumption
    | (intro x; try beta_reduce)
    | with_reducible apply keeps_serveWrite
    | with_reducible apply keeps_actCollAbort
    | with_reducible apply keeps_run

theorem keeps_execAdmissionBarrierJoin {s0 : State} {ctx layer gen : Nat} {s : State} (hs : Keeps s0 s) :
    KeepsRes s0 (execAdmissionBarrierJoin ctx layer gen s) := by
  unfold execAdmissionBarrierJoin
  repeat' first
    | with_reducible assumption
    | ((try lift_lets -underBinder); intro x; clear_value (hx : x = _); refine keeps_cut (s0 := s0) hx ?_ ?_ <;> clear hx)
    | ((try lift_lets -underBinder); intro x; clear_value x)
    | (intro x; try beta_reduce)
    | with_reducible apply keeps_openColl
    | with_reducible apply keeps_run
    | split
    | (with_reducible apply keeps_mk; with_reducible assumption)

/-! ### Machine/Fence.lean -/

theorem keeps_discardWork {s0 : State} {s : State} {st : Nat} (hs : Keeps s0 s) :
    Keeps s0 (discardWork s st) := by
  unfold discardWork
  repeat' first
    | with_reducible assumption
    | ((try lift_lets -underBinder); intro x; clear_value (hx : x = _); refine keeps_cut (s0 := s0) hx ?_ ?_ <;> clear hx)
    | ((try lift_lets -underBinder); intro x; clear_value x)
    | (intro x; try beta_reduce)
    | with_reducible apply keeps_modStone
    | with_reducible apply keeps_modStoneFor
    | with_reducible apply keeps_setSender
    | with_reducible apply keeps_dropDma
    | with_reducible apply keeps_dmaError
    | with_reducible apply keeps_forEach
    | (with_reducible apply keeps_mk; with_reducible assumption)

theorem keeps_fenceContext {s0 : State} {s : State} {st : Nat} (hs : Keeps s0 s) :
    Keeps s0 (fenceContext s st) := by
  unfold fenceContext
  repeat' first
    | with_reducible assumption
    | ((try lift_lets -underBinder); intro x; clear_value (hx : x = _); refine keeps_cut (s0 := s0) hx ?_ ?_ <;> clear hx)
    | ((try lift_lets -underBinder); intro x; clear_value x)
    | (intro x; try beta_reduce)
    | with_reducible apply keeps_settle
    | with_reducible apply keeps_stopCtx
    | with_reducible apply keeps_forEach
    | split
    | (with_reducible apply keeps_mk; with_reducible assumption)

theorem keeps_fenceStone {s0 : State} {s : State} {st : Nat} (hs : Keeps s0 s) :
    Keeps s0 (fenceStone s st) := by
  unfold fenceStone
  repeat' first
    | with_reducible assumption
    | ((try lift_lets -underBinder); intro x; clear_value (hx : x = _); refine keeps_cut (s0 := s0) hx ?_ ?_ <;> clear hx)
    | ((try lift_lets -underBinder); intro x; clear_value x)
    | (intro x; try beta_reduce)
    | with_reducible apply keeps_raise1
    | with_reducible apply keeps_fenceContext
    | with_reducible apply keeps_discardWork
    | with_reducible apply keeps_strandChoices
    | with_reducible apply keeps_finish
    | with_reducible apply keeps_requestAbort
    | with_reducible apply keeps_retireBuffers
    | with_reducible apply keeps_forEach
    | split
    | refine keeps_fst ‹_ = (_, _)› ?_
    | (with_reducible apply keeps_mk; with_reducible assumption)

theorem keeps_fenceMany {s0 : State} {s : State} {l : List Nat} (hs : Keeps s0 s) :
    Keeps s0 (fenceMany s l) := by
  unfold fenceMany
  repeat' first
    | with_reducible assumption
    | (intro x; try beta_reduce)
    | with_reducible apply keeps_fenceStone
    | with_reducible apply keeps_forEach

theorem keeps_actFenceStone {s0 : State} {q : Req} {s : State} (hs : Keeps s0 s) :
    KeepsAct s0 (actFenceStone q s) := by
  unfold actFenceStone
  repeat' first
    | with_reducible assumption
    | with_reducible apply keeps_fenceStone
    | with_reducible apply keeps_actDone

theorem keeps_execFenceStone {s0 : State} {q : Req} {s : State} (hs : Keeps s0 s) :
    KeepsRes s0 (execFenceStone q s) := by
  unfold execFenceStone
  repeat' first
    | with_reducible assumption
    | (intro x; try beta_reduce)
    | with_reducible apply keeps_serveWrite
    | with_reducible apply keeps_actFenceStone
    | with_reducible apply keeps_run

theorem keeps_loadStone {s0 : State} {s : State} {t : ImgStone} {st : Nat} (hs : Keeps s0 s) :
    Keeps s0 (loadStone s t st) := by
  unfold loadStone
  repeat' first
    | with_reducible assumption
    | (intro x; try beta_reduce)
    | with_reducible apply keeps_sramFill
    | with_reducible apply keeps_forEach

theorem keeps_moveWindows {s0 : State} {s : State} {c a b : Nat} (hs : Keeps s0 s) :
    Keeps s0 (moveWindows s c a b) := by
  unfold moveWindows
  repeat' first
    | with_reducible assumption
    | ((try lift_lets -underBinder); intro x; clear_value (hx : x = _); refine keeps_cut (s0 := s0) hx ?_ ?_ <;> clear hx)
    | ((try lift_lets -underBinder); intro x; clear_value x)
    | (intro x; try beta_reduce)
    | with_reducible apply keeps_memWrite
    | with_reducible apply keeps_fillWindow
    | with_reducible apply keeps_fresh
    | with_reducible apply keeps_forEach
    | split

theorem keeps_remap {s0 : State} {s : State} {c l b : Nat} (hs : Keeps s0 s) :
    Keeps s0 (remap s c l b) := by
  unfold remap
  repeat' first
    | with_reducible assumption
    | ((try lift_lets -underBinder); intro x; clear_value (hx : x = _); refine keeps_cut (s0 := s0) hx ?_ ?_ <;> clear hx)
    | ((try lift_lets -underBinder); intro x; clear_value x)
    | (intro x; try beta_reduce)
    | with_reducible apply keeps_setCtx
    | with_reducible apply keeps_modStone
    | with_reducible apply keeps_loadStone
    | with_reducible apply keeps_modCtx
    | with_reducible apply keeps_moveWindows
    | with_reducible apply keeps_run
    | with_reducible apply keeps_foldl
    | split

theorem keeps_actRemapStone {s0 : State} {q : Req} {s : State} (hs : Keeps s0 s) :
    KeepsAct s0 (actRemapStone q s) := by
  unfold actRemapStone
  repeat' first
    | with_reducible assumption
    | ((try lift_lets -underBinder); intro x; clear_value (hx : x = _); refine keeps_cut (s0 := s0) hx ?_ ?_ <;> clear hx)
    | ((try lift_lets -underBinder); intro x; clear_value x)
    | (intro x; try beta_reduce)
    | with_reducible apply keeps_refuse
    | with_reducible apply keeps_remap
    | with_reducible apply keeps_actDone
    | with_reducible apply keeps_actRefuse
    | split

theorem keeps_execRemapStone {s0 : State} {q : Req} {s : State} (hs : Keeps s0 s) :
    KeepsRes s0 (execRemapStone q s) := by
  unfold execRemapStone
  repeat' first
    | with_reducible assumption
    | (intro x; try beta_reduce)
    | with_reducible apply keeps_serveWrite
    | with_reducible apply keeps_actRemapStone
    | with_reducible apply keeps_run

theorem keeps_refillGranule {s0 : State} {s : State} {st g : Nat} {d : ObjDesc} {kib : Nat} (hs : Keeps s0 s) :
    Keeps s0 (refillGranule s st g d kib) := by
  unfold refillGranule
  repeat' first
    | with_reducible assumption
    | ((try lift_lets -underBinder); intro x; clear_value (hx : x = _); refine keeps_cut (s0 := s0) hx ?_ ?_ <;> clear hx)
    | ((try lift_lets -underBinder); intro x; clear_value x)
    | (intro x; try beta_reduce)
    | with_reducible apply keeps_sramFill
    | with_reducible apply keeps_fresh

theorem keeps_wordError {s0 : State} {s : State} {scrub : Bool} {st off : Nat} (hs : Keeps s0 s) :
    Keeps s0 (wordError s scrub st off).1 := by
  unfold wordError
  repeat' first
    | with_reducible assumption
    | ((try lift_lets -underBinder); intro x; clear_value (hx : x = _); refine keeps_cut (s0 := s0) hx ?_ ?_ <;> clear hx)
    | ((try lift_lets -underBinder); intro x; clear_value x)
    | (intro x; try beta_reduce)
    | with_reducible apply keeps_fenceStone
    | with_reducible apply keeps_stoneFault
    | with_reducible apply keeps_refillGranule
    | split
    | refine keeps_fst ‹_ = (_, _)› ?_
    | (with_reducible apply keeps_mk; with_reducible assumption)

theorem keeps_readError {s0 : State} {s : State} {st off : Nat} {k : State → State} (hs : Keeps s0 s)
    (hk : ∀ t, Keeps s0 t → Keeps s0 (k t)) : Keeps s0 (readError s st off k) := by
  have hw : Keeps s0 (wordError s false st off).1 := keeps_wordError hs
  unfold readError
  generalize wordError s false st off = x at hw ⊢
  dsimp only
  split
  · exact hk _ hw
  · split
    · exact hw
    · split
      · exact keeps_stopAt hw
      · exact hw

theorem keeps_readWords {s0 : State} {st : Nat} {l : List (Nat × Nat)} {k : State → State} (hk : ∀ t, Keeps s0 t → Keeps s0 (k t))
    {n : Nat} : ∀ {s : State}, Keeps s0 s → Keeps s0 (readWords n s st l k) := by
  induction n with
  | zero => intro s h; exact hk s h
  | succ n ih =>
    intro s h
    simp only [readWords]
    split
    · exact hk s h
    · exact keeps_readError h fun _ g => ih g

theorem keeps_readRanges {s0 : State} {s : State} {st : Nat} {srcs dsts : List (Nat × Nat)} {k : State → State} (hs : Keeps s0 s) (hk : ∀ t, Keeps s0 t → Keeps s0 (k t)) :
    Keeps s0 (readRanges s st srcs dsts k) := by
  unfold readRanges
  repeat' first
    | with_reducible assumption
    | with_reducible apply hk
    | with_reducible apply keeps_readWords

theorem keeps_readSram {s0 : State} {s : State} {st : Nat} {r : SramRead} {srcs dsts : List (Nat × Nat)} {k : State → State} (hs : Keeps s0 s) (hk : ∀ t, Keeps s0 t → Keeps s0 (k t)) :
    Keeps s0 (readSram s st r srcs dsts k) := by
  unfold readSram
  repeat' first
    | with_reducible assumption
    | (intro x; try beta_reduce)
    | with_reducible apply hk
    | with_reducible apply keeps_readRanges
    | with_reducible apply keeps_stoneFault
    | with_reducible apply keeps_readError
    | split

theorem keeps_unitRead {s0 : State} {st : Nat} {r : Nat × Nat} {n : Nat} : ∀ {s : State}, Keeps s0 s →
    Keeps s0 (unitRead n s st r).1 := by
  induction n with
  | zero => intro s h; exact h
  | succ n ih =>
    intro s h
    simp only [unitRead]
    split
    · exact h
    · split
      · exact ih (keeps_wordError h)
      · exact keeps_wordError h

theorem keeps_execScrubPass {s0 : State} {st : Nat} {r : SramRead} {s : State} (hs : Keeps s0 s) :
    KeepsRes s0 (execScrubPass st r s) := by
  unfold execScrubPass
  repeat' first
    | with_reducible assumption
    | (intro x; try beta_reduce)
    | with_reducible apply keeps_stoneFault
    | with_reducible apply keeps_wordError
    | with_reducible apply keeps_run
    | split

theorem keeps_execUnitFailure {s0 : State} {u : FailedUnit} {s : State} (hs : Keeps s0 s) :
    KeepsRes s0 (execUnitFailure u s) := by
  unfold execUnitFailure
  repeat' first
    | with_reducible assumption
    | ((try lift_lets -underBinder); intro x; clear_value (hx : x = _); refine keeps_cut (s0 := s0) hx ?_ ?_ <;> clear hx)
    | ((try lift_lets -underBinder); intro x; clear_value x)
    | (intro x; try beta_reduce)
    | with_reducible apply keeps_raise
    | with_reducible apply keeps_fenceMany
    | with_reducible apply keeps_fenceRouter
    | with_reducible apply keeps_run
    | with_reducible apply keeps_fault
    | split
    | (with_reducible apply keeps_mk; with_reducible assumption)

/-! ### Machine/CollPost.lean -/

theorem keeps_post {s0 : State} {want st : Nat} {h : IHdr} {o : Operands} {s : State} (hs : Keeps s0 s) :
    Keeps s0 (post want st h o s) := by
  unfold post
  repeat' first
    | with_reducible assumption
    | ((try lift_lets -underBinder); intro x; clear_value (hx : x = _); refine keeps_cut (s0 := s0) hx ?_ ?_ <;> clear hx)
    | ((try lift_lets -underBinder); intro x; clear_value x)
    | (intro x; try beta_reduce)
    | with_reducible apply keeps_issue
    | with_reducible apply keeps_failStone
    | with_reducible apply keeps_stallOn
    | with_reducible apply keeps_readRanges
    | with_reducible apply keeps_takeSlot
    | with_reducible apply keeps_startMcast
    | with_reducible apply keeps_setC
    | with_reducible apply keeps_openColl
    | split
    | (with_reducible apply keeps_mk; with_reducible assumption)

theorem keeps_execCollBarrier {s0 : State} {st : Nat} {h : IHdr} {o : Operands} {s : State} (hs : Keeps s0 s) :
    KeepsRes s0 (execCollBarrier st h o s) := by
  unfold execCollBarrier
  repeat' first
    | with_reducible assumption
    | with_reducible apply keeps_post
    | with_reducible apply keeps_run

theorem keeps_execCollBroadcast {s0 : State} {st : Nat} {h : IHdr} {o : Operands} {s : State} (hs : Keeps s0 s) :
    KeepsRes s0 (execCollBroadcast st h o s) := by
  unfold execCollBroadcast
  repeat' first
    | with_reducible assumption
    | with_reducible apply keeps_post
    | with_reducible apply keeps_run

theorem keeps_execCollReduce {s0 : State} {st : Nat} {h : IHdr} {o : Operands} {s : State} (hs : Keeps s0 s) :
    KeepsRes s0 (execCollReduce st h o s) := by
  unfold execCollReduce
  repeat' first
    | with_reducible assumption
    | with_reducible apply keeps_post
    | with_reducible apply keeps_run

theorem keeps_execCollAllReduce {s0 : State} {st : Nat} {h : IHdr} {o : Operands} {s : State} (hs : Keeps s0 s) :
    KeepsRes s0 (execCollAllReduce st h o s) := by
  unfold execCollAllReduce
  repeat' first
    | with_reducible assumption
    | with_reducible apply keeps_post
    | with_reducible apply keeps_run

theorem keeps_execCollReduceScatter {s0 : State} {st : Nat} {h : IHdr} {o : Operands} {s : State} (hs : Keeps s0 s) :
    KeepsRes s0 (execCollReduceScatter st h o s) := by
  unfold execCollReduceScatter
  repeat' first
    | with_reducible assumption
    | with_reducible apply keeps_post
    | with_reducible apply keeps_run

theorem keeps_execCollAllGather {s0 : State} {st : Nat} {h : IHdr} {o : Operands} {s : State} (hs : Keeps s0 s) :
    KeepsRes s0 (execCollAllGather st h o s) := by
  unfold execCollAllGather
  repeat' first
    | with_reducible assumption
    | with_reducible apply keeps_post
    | with_reducible apply keeps_run

theorem keeps_execCollMulticast {s0 : State} {st : Nat} {h : IHdr} {o : Operands} {s : State} (hs : Keeps s0 s) :
    KeepsRes s0 (execCollMulticast st h o s) := by
  unfold execCollMulticast
  repeat' first
    | with_reducible assumption
    | with_reducible apply keeps_post
    | with_reducible apply keeps_run

/-! ### Machine/CourseDma.lean -/

theorem keeps_execDmaPost {s0 : State} {st : Nat} {h : IHdr} {o : Operands} {s : State} (hs : Keeps s0 s) :
    KeepsRes s0 (execDmaPost st h o s) := by
  unfold execDmaPost
  repeat' first
    | with_reducible assumption
    | ((try lift_lets -underBinder); intro x; clear_value (hx : x = _); refine keeps_cut (s0 := s0) hx ?_ ?_ <;> clear hx)
    | ((try lift_lets -underBinder); intro x; clear_value x)
    | (intro x; try beta_reduce)
    | with_reducible apply keeps_issue
    | with_reducible apply keeps_failStone
    | with_reducible apply keeps_stallOn
    | with_reducible apply keeps_readRanges
    | with_reducible apply keeps_completeNow
    | with_reducible apply keeps_startDma
    | with_reducible apply keeps_run
    | split
    | (with_reducible apply keeps_mk; with_reducible assumption)

theorem keeps_dmaReadRow {s0 : State} {s : State} {m : Dma} {i : Nat} {outside : List Byte} (hs : Keeps s0 s) :
    Keeps s0 (dmaReadRow s m i outside).1 := by
  unfold dmaReadRow
  repeat' first
    | with_reducible assumption
    | ((try lift_lets -underBinder); intro x; clear_value (hx : x = _); refine keeps_cut (s0 := s0) hx ?_ ?_ <;> clear hx)
    | ((try lift_lets -underBinder); intro x; clear_value x)
    | (intro x; try beta_reduce)
    | with_reducible apply keeps_unitRead
    | with_reducible apply keeps_passBytes
    | with_reducible apply keeps_loadPass
    | with_reducible apply keeps_localMiss
    | split
    | refine keeps_fst ‹_ = (_, _)› ?_

theorem keeps_dmaWriteRow {s0 : State} {s : State} {m : Dma} {i : Nat} {bs : List Byte} (hs : Keeps s0 s) :
    KeepsOpt s0 (dmaWriteRow s m i bs) := by
  unfold dmaWriteRow
  repeat' first
    | with_reducible assumption
    | ((try lift_lets -underBinder); intro x; clear_value (hx : x = _); refine keeps_cut (s0 := s0) hx ?_ ?_ <;> clear hx)
    | ((try lift_lets -underBinder); intro x; clear_value x)
    | (intro x; try beta_reduce)
    | with_reducible apply keeps_passBytes
    | with_reducible apply keeps_sramWrite
    | with_reducible apply keeps_emitFor
    | with_reducible apply keeps_storePass
    | with_reducible apply keeps_memWrite
    | with_reducible apply keeps_unitRequests
    | with_reducible apply keeps_some
    | with_reducible apply keeps_none
    | with_reducible apply keeps_map
    | split

theorem keeps_dmaRun {s0 : State} {m : Dma} {stop : Option Nat} {k : Nat} : ∀ {i : Nat} {s : State} {ext : List Byte} {n : Nat},
    Keeps s0 s → Keeps s0 (dmaRun m stop k i s ext n).1 := by
  induction k with
  | zero => intro i s ext n h; exact h
  | succ k ih =>
    intro i s ext n h
    have hr : Keeps s0 (dmaReadRow s m i ext).1 := keeps_dmaReadRow h
    unfold dmaRun
    split
    · exact h
    split
    · next e => exact keeps_fst e hr
    · next e =>
      have ht := keeps_fst e hr
      split
      · dsimp only
        split
        · exact keeps_localMiss ht
        · exact ht
      · next g => exact ih (keeps_of_some g (keeps_dmaWriteRow (keeps_stagePiece ht)))

theorem keeps_execDmaDescriptorComplete {s0 : State} {course st : Nat} {stop : Option Nat} {outside : List Byte} {s : State}
    (hs : Keeps s0 s) : KeepsRes s0 (execDmaDescriptorComplete course st stop outside s) := by
  unfold execDmaDescriptorComplete
  refine keeps_run hs fun t ht => ?_
  split
  · exact ht
  split
  · exact ht
  · next m _ =>
    split
    · exact ht
    · have h1 : Keeps s0 { t with dmaLast := tput 63 t.dmaLast course (st % 64) } := keeps_mk ht
      generalize { t with dmaLast := tput 63 t.dmaLast course (st % 64) } = u at h1 ⊢
      dsimp only
      split
      · exact keeps_startDma (keeps_dmaError (keeps_dropDma h1))
      · have h2 : Keeps s0 (dmaRun m stop (dmaRows m.desc) 0 (fresh u) outside 0).1 := keeps_dmaRun (keeps_fresh h1)
        split
        · exact keeps_startDma (keeps_endDma (keeps_modDma (keeps_countBy h2)))
        · exact keeps_modDma (keeps_countBy h2)

/-! ### Machine/Memory.lean -/

theorem keeps_execMemoryStore {s0 : State} {st : Nat} {h : IHdr} {o : Operands} {s : State} (hs : Keeps s0 s) :
    KeepsRes s0 (execMemoryStore st h o s) := by
  unfold execMemoryStore
  repeat' first
    | with_reducible assumption
    | ((try lift_lets -underBinder); intro x; clear_value (hx : x = _); refine keeps_cut (s0 := s0) hx ?_ ?_ <;> clear hx)
    | ((try lift_lets -underBinder); intro x; clear_value x)
    | (intro x; try beta_reduce)
    | with_reducible apply keeps_memIssue
    | with_reducible apply keeps_failStone
    | with_reducible apply keeps_stallOn
    | with_reducible apply keeps_readRanges
    | with_reducible apply keeps_issueRequest
    | with_reducible apply keeps_takeSlot
    | with_reducible apply keeps_run
    | split

theorem keeps_atomic {s0 : State} {aop st : Nat} {h : IHdr} {o : Operands} {s : State} (hs : Keeps s0 s) :
    Keeps s0 (atomic aop st h o s) := by
  unfold atomic
  repeat' first
    | with_reducible assumption
    | ((try lift_lets -underBinder); intro x; clear_value (hx : x = _); refine keeps_cut (s0 := s0) hx ?_ ?_ <;> clear hx)
    | ((try lift_lets -underBinder); intro x; clear_value x)
    | (intro x; try beta_reduce)
    | with_reducible apply keeps_memIssue
    | with_reducible apply keeps_failStone
    | with_reducible apply keeps_stallOn
    | with_reducible apply keeps_readRanges
    | with_reducible apply keeps_issueRequest
    | with_reducible apply keeps_takeSlot
    | split

theorem keeps_execAtomicRead {s0 : State} {st : Nat} {h : IHdr} {o : Operands} {s : State} (hs : Keeps s0 s) :
    KeepsRes s0 (execAtomicRead st h o s) := by
  unfold execAtomicRead
  repeat' first
    | with_reducible assumption
    | with_reducible apply keeps_atomic
    | with_reducible apply keeps_run

theorem keeps_execAtomicSwap {s0 : State} {st : Nat} {h : IHdr} {o : Operands} {s : State} (hs : Keeps s0 s) :
    KeepsRes s0 (execAtomicSwap st h o s) := by
  unfold execAtomicSwap
  repeat' first
    | with_reducible assumption
    | with_reducible apply keeps_atomic
    | with_reducible apply keeps_run

theorem keeps_execAtomicCas {s0 : State} {st : Nat} {h : IHdr} {o : Operands} {s : State} (hs : Keeps s0 s) :
    KeepsRes s0 (execAtomicCas st h o s) := by
  unfold execAtomicCas
  repeat' first
    | with_reducible assumption
    | with_reducible apply keeps_atomic
    | with_reducible apply keeps_run

theorem keeps_execAtomicAdd {s0 : State} {st : Nat} {h : IHdr} {o : Operands} {s : State} (hs : Keeps s0 s) :
    KeepsRes s0 (execAtomicAdd st h o s) := by
  unfold execAtomicAdd
  repeat' first
    | with_reducible assumption
    | with_reducible apply keeps_atomic
    | with_reducible apply keeps_run

theorem keeps_execAtomicAnd {s0 : State} {st : Nat} {h : IHdr} {o : Operands} {s : State} (hs : Keeps s0 s) :
    KeepsRes s0 (execAtomicAnd st h o s) := by
  unfold execAtomicAnd
  repeat' first
    | with_reducible assumption
    | with_reducible apply keeps_atomic
    | with_reducible apply keeps_run

theorem keeps_execAtomicOr {s0 : State} {st : Nat} {h : IHdr} {o : Operands} {s : State} (hs : Keeps s0 s) :
    KeepsRes s0 (execAtomicOr st h o s) := by
  unfold execAtomicOr
  repeat' first
    | with_reducible assumption
    | with_reducible apply keeps_atomic
    | with_reducible apply keeps_run

theorem keeps_execAtomicXor {s0 : State} {st : Nat} {h : IHdr} {o : Operands} {s : State} (hs : Keeps s0 s) :
    KeepsRes s0 (execAtomicXor st h o s) := by
  unfold execAtomicXor
  repeat' first
    | with_reducible assumption
    | with_reducible apply keeps_atomic
    | with_reducible apply keeps_run

theorem keeps_execAtomicMaxS {s0 : State} {st : Nat} {h : IHdr} {o : Operands} {s : State} (hs : Keeps s0 s) :
    KeepsRes s0 (execAtomicMaxS st h o s) := by
  unfold execAtomicMaxS
  repeat' first
    | with_reducible assumption
    | with_reducible apply keeps_atomic
    | with_reducible apply keeps_run

theorem keeps_execAtomicMinS {s0 : State} {st : Nat} {h : IHdr} {o : Operands} {s : State} (hs : Keeps s0 s) :
    KeepsRes s0 (execAtomicMinS st h o s) := by
  unfold execAtomicMinS
  repeat' first
    | with_reducible assumption
    | with_reducible apply keeps_atomic
    | with_reducible apply keeps_run

theorem keeps_execAtomicMaxU {s0 : State} {st : Nat} {h : IHdr} {o : Operands} {s : State} (hs : Keeps s0 s) :
    KeepsRes s0 (execAtomicMaxU st h o s) := by
  unfold execAtomicMaxU
  repeat' first
    | with_reducible assumption
    | with_reducible apply keeps_atomic
    | with_reducible apply keeps_run

theorem keeps_execAtomicMinU {s0 : State} {st : Nat} {h : IHdr} {o : Operands} {s : State} (hs : Keeps s0 s) :
    KeepsRes s0 (execAtomicMinU st h o s) := by
  unfold execAtomicMinU
  repeat' first
    | with_reducible assumption
    | with_reducible apply keeps_atomic
    | with_reducible apply keeps_run

theorem keeps_execBufferRelease {s0 : State} {st : Nat} {h : IHdr} {o : Operands} {s : State} (hs : Keeps s0 s) :
    KeepsRes s0 (execBufferRelease st h o s) := by
  unfold execBufferRelease
  repeat' first
    | with_reducible assumption
    | ((try lift_lets -underBinder); intro x; clear_value (hx : x = _); refine keeps_cut (s0 := s0) hx ?_ ?_ <;> clear hx)
    | ((try lift_lets -underBinder); intro x; clear_value x)
    | (intro x; try beta_reduce)
    | with_reducible apply keeps_memIssue
    | with_reducible apply keeps_stallOn
    | with_reducible apply keeps_release
    | with_reducible apply keeps_releaseBuffer
    | with_reducible apply keeps_completeNow
    | with_reducible apply keeps_stopAt
    | with_reducible apply keeps_run
    | split
    | refine keeps_fst ‹_ = (_, _)› ?_

/-! ### Machine/Submit.lean -/

theorem keeps_execSubmit {s0 : State} {st : Nat} {h : IHdr} {o : Operands} {s : State} (hs : Keeps s0 s) :
    KeepsRes s0 (execSubmit st h o s) := by
  unfold execSubmit
  repeat' first
    | with_reducible assumption
    | ((try lift_lets -underBinder); intro x; clear_value (hx : x = _); refine keeps_cut (s0 := s0) hx ?_ ?_ <;> clear hx)
    | ((try lift_lets -underBinder); intro x; clear_value (hx : x = _); refine keeps_cutFun (s0 := s0) hx ?_ ?_ <;> clear hx)
    | ((try lift_lets -underBinder); intro x; clear_value (hx : x = _); refine keeps_cutFun2 (s0 := s0) hx ?_ ?_ <;> clear hx)
    | ((try lift_lets -underBinder); intro x; clear_value (hx : x = _); refine keeps_cutFun3 (s0 := s0) hx ?_ ?_ <;> clear hx)
    | ((try lift_lets -underBinder); intro x; clear_value x)
    | (intro x; try beta_reduce)
    | with_reducible apply keeps_issue
    | with_reducible apply keeps_failStone
    | with_reducible apply keeps_refuse
    | with_reducible apply keeps_stopAt
    | with_reducible apply keeps_raise1
    | with_reducible apply keeps_count
    | with_reducible apply keeps_stallOn
    | with_reducible apply keeps_readRanges
    | with_reducible apply keeps_takeSlot
    | with_reducible apply keeps_openGen
    | with_reducible apply keeps_askStreams
    | with_reducible apply keeps_run
    | (with_reducible apply_assumption; with_reducible assumption)
    | split
    | (with_reducible apply keeps_mk; with_reducible assumption)

theorem keeps_execRet {s0 : State} {st : Nat} {h : IHdr} {o : Operands} {s : State} (hs : Keeps s0 s) :
    KeepsRes s0 (execRet st h o s) := by
  unfold execRet
  repeat' first
    | with_reducible assumption
    | ((try lift_lets -underBinder); intro x; clear_value (hx : x = _); refine keeps_cut (s0 := s0) hx ?_ ?_ <;> clear hx)
    | ((try lift_lets -underBinder); intro x; clear_value x)
    | (intro x; try beta_reduce)
    | with_reducible apply keeps_issue
    | with_reducible apply keeps_failStone
    | with_reducible apply keeps_readRanges
    | with_reducible apply keeps_completeNow
    | with_reducible apply keeps_sendReturn
    | with_reducible apply keeps_forEach
    | with_reducible apply keeps_run
    | split

/-! ### Machine/Engine.lean -/

theorem keeps_issueProduct {s0 : State} {sparse : Bool} {st : Nat} {h : IHdr} {o : Operands} {rd : SramRead} {s : State} (hs : Keeps s0 s) :
    Keeps s0 (issueProduct sparse st h o rd s) := by
  unfold issueProduct
  repeat' first
    | with_reducible assumption
    | ((try lift_lets -underBinder); intro x; clear_value (hx : x = _); refine keeps_cut (s0 := s0) hx ?_ ?_ <;> clear hx)
    | ((try lift_lets -underBinder); intro x; clear_value x)
    | (intro x; try beta_reduce)
    | with_reducible apply keeps_issue
    | with_reducible apply keeps_failStone
    | with_reducible apply keeps_readSram
    | with_reducible apply keeps_count
    | with_reducible apply keeps_takeSlot
    | with_reducible apply keeps_modStone
    | split

theorem keeps_execDenseProduct {s0 : State} {st : Nat} {h : IHdr} {o : Operands} {r : SramRead} {s : State} (hs : Keeps s0 s) :
    KeepsRes s0 (execDenseProduct st h o r s) := by
  unfold execDenseProduct
  repeat' first
    | with_reducible assumption
    | with_reducible apply keeps_issueProduct
    | with_reducible apply keeps_run

theorem keeps_execSparseProduct {s0 : State} {st : Nat} {h : IHdr} {o : Operands} {r : SramRead} {s : State} (hs : Keeps s0 s) :
    KeepsRes s0 (execSparseProduct st h o r s) := by
  unfold execSparseProduct
  repeat' first
    | with_reducible assumption
    | with_reducible apply keeps_issueProduct
    | with_reducible apply keeps_run

theorem keeps_setTiles {s0 : State} {s : State} {st : Nat} {sparse : Bool} {l : List Tile} (hs : Keeps s0 s) :
    Keeps s0 (setTiles s st sparse l) := by
  unfold setTiles
  repeat' first
    | with_reducible assumption
    | ((try lift_lets -underBinder); intro x; clear_value (hx : x = _); refine keeps_cut (s0 := s0) hx ?_ ?_ <;> clear hx)
    | ((try lift_lets -underBinder); intro x; clear_value x)
    | (intro x; try beta_reduce)
    | with_reducible apply keeps_modStone

theorem keeps_injUsed {s0 : State} {s : State} {st : Nat} {sparse : Bool} (hs : Keeps s0 s) :
    Keeps s0 (injUsed s st sparse) := by
  unfold injUsed
  repeat' first
    | with_reducible assumption
    | ((try lift_lets -underBinder); intro x; clear_value (hx : x = _); refine keeps_cut (s0 := s0) hx ?_ ?_ <;> clear hx)
    | ((try lift_lets -underBinder); intro x; clear_value x)
    | (intro x; try beta_reduce)
    | with_reducible apply keeps_modStone

theorem keeps_noteFpSpecials {s0 : State} {s : State} {st pc n : Nat} (hs : Keeps s0 s) :
    Keeps s0 (noteFpSpecials s st pc n) := by
  unfold noteFpSpecials
  repeat' first
    | with_reducible assumption
    | with_reducible apply keeps_stoneFaults
    | with_reducible apply keeps_countBy
    | split

theorem keeps_setArray {s0 : State} {s : State} {st : Nat} {sparse : Bool} {x : ArrayRegs} (hs : Keeps s0 s) :
    Keeps s0 (setArray s st sparse x) := by
  unfold setArray
  repeat' first
    | with_reducible assumption
    | ((try lift_lets -underBinder); intro x; clear_value (hx : x = _); refine keeps_cut (s0 := s0) hx ?_ ?_ <;> clear hx)
    | ((try lift_lets -underBinder); intro x; clear_value x)
    | (intro x; try beta_reduce)
    | (with_reducible apply keeps_mk; first | with_reducible assumption)

theorem keeps_finishTile {s0 : State} {s : State} {st : Nat} {sparse : Bool} {us : List Upset} {t : Tile} (hs : Keeps s0 s) :
    Keeps s0 (finishTile s st sparse us t) := by
  unfold finishTile
  repeat' first
    | with_reducible assumption
    | ((try lift_lets -underBinder); intro x; clear_value (hx : x = _); refine keeps_cut (s0 := s0) hx ?_ ?_ <;> clear hx)
    | ((try lift_lets -underBinder); intro x; clear_value x)
    | (intro x; try beta_reduce)
    | with_reducible apply keeps_sramWrite
    | with_reducible apply keeps_noteFpSpecials
    | with_reducible apply keeps_countBy
    | with_reducible apply keeps_count
    | with_reducible apply keeps_completeSlot
    | with_reducible apply keeps_emit
    | split

theorem keeps_disagreeFault {s0 : State} {s : State} {st : Nat} {sparse : Bool} {t : Tile} (hs : Keeps s0 s) :
    Keeps s0 (disagreeFault s st sparse t) := by
  unfold disagreeFault
  repeat' first
    | with_reducible assumption
    | with_reducible apply keeps_stoneFault
    | with_reducible apply keeps_count

theorem keeps_endTile {s0 : State} {st : Nat} {sparse : Bool} {us : List Upset} {busy : Nat} {t : Tile} {rest : List Tile} {s : State} (hs : Keeps s0 s) :
    Keeps s0 (endTile st sparse us busy t rest s) := by
  unfold endTile
  repeat' first
    | with_reducible assumption
    | ((try lift_lets -underBinder); intro x; clear_value (hx : x = _); refine keeps_cut (s0 := s0) hx ?_ ?_ <;> clear hx)
    | ((try lift_lets -underBinder); intro x; clear_value x)
    | (intro x; try beta_reduce)
    | with_reducible apply keeps_setArray
    | with_reducible apply keeps_injUsed
    | with_reducible apply keeps_countBy
    | with_reducible apply keeps_finishTile
    | with_reducible apply keeps_setTiles
    | with_reducible apply keeps_fenceStone
    | with_reducible apply keeps_count
    | with_reducible apply keeps_disagreeFault
    | split

theorem keeps_execTileComplete {s0 : State} {st : Nat} {sparse : Bool} {upsets : List Upset} {busy : Nat} {s : State} (hs : Keeps s0 s) :
    KeepsRes s0 (execTileComplete st sparse upsets busy s) := by
  unfold execTileComplete
  repeat' first
    | with_reducible assumption
    | (intro x; try beta_reduce)
    | with_reducible apply keeps_readRanges
    | with_reducible apply keeps_endTile
    | with_reducible apply keeps_run
    | split

theorem keeps_actEngineInject {s0 : State} {q : Req} {s : State} (hs : Keeps s0 s) :
    KeepsAct s0 (actEngineInject q s) := by
  unfold actEngineInject
  repeat' first
    | with_reducible assumption
    | ((try lift_lets -underBinder); intro x; clear_value (hx : x = _); refine keeps_cut (s0 := s0) hx ?_ ?_ <;> clear hx)
    | ((try lift_lets -underBinder); intro x; clear_value x)
    | (intro x; try beta_reduce)
    | with_reducible apply keeps_refuse
    | with_reducible apply keeps_modStone
    | with_reducible apply keeps_actDone
    | with_reducible apply keeps_actRefuse
    | split

theorem keeps_execEngineInject {s0 : State} {q : Req} {s : State} (hs : Keeps s0 s) :
    KeepsRes s0 (execEngineInject q s) := by
  unfold execEngineInject
  repeat' first
    | with_reducible assumption
    | (intro x; try beta_reduce)
    | with_reducible apply keeps_serveWrite
    | with_reducible apply keeps_actEngineInject
    | with_reducible apply keeps_run

/-! ### Machine/Compressor.lean -/

theorem keeps_noteQuant {s0 : State} {s : State} {st : Nat} {l : List (List QBlock)} (hs : Keeps s0 s) :
    Keeps s0 (noteQuant s st l) := by
  unfold noteQuant
  repeat' first
    | with_reducible assumption
    | with_reducible apply keeps_noteFpSpecials
    | with_reducible apply keeps_countBy

theorem keeps_compFault {s0 : State} {s : State} {st sub : Nat} (hs : Keeps s0 s) :
    Keeps s0 (compFault s st sub) := by
  unfold compFault
  repeat' first
    | with_reducible assumption
    | with_reducible apply keeps_failStone
    | with_reducible apply keeps_count

theorem keeps_compressActs {s0 : State} {s : State} {st src dst : Nat} {o : Operands} (hs : Keeps s0 s) :
    Keeps s0 (compressActs s st src dst o) := by
  unfold compressActs
  repeat' first
    | with_reducible assumption
    | ((try lift_lets -underBinder); intro x; clear_value (hx : x = _); refine keeps_cut (s0 := s0) hx ?_ ?_ <;> clear hx)
    | ((try lift_lets -underBinder); intro x; clear_value x)
    | (intro x; try beta_reduce)
    | with_reducible apply keeps_noteQuant
    | with_reducible apply keeps_count
    | with_reducible apply keeps_sramWrite
    | with_reducible apply keeps_foldl
    | split

theorem keeps_compressWeights {s0 : State} {s : State} {st src dst : Nat} {o : Operands} {tpose : Bool} {kept : Nat → Nat → List (BitVec 32) → List Bool} (hs : Keeps s0 s) :
    Keeps s0 (compressWeights s st src dst o tpose kept) := by
  unfold compressWeights
  repeat' first
    | with_reducible assumption
    | ((try lift_lets -underBinder); intro x; clear_value (hx : x = _); refine keeps_cut (s0 := s0) hx ?_ ?_ <;> clear hx)
    | ((try lift_lets -underBinder); intro x; clear_value x)
    | (intro x; try beta_reduce)
    | with_reducible apply keeps_noteQuant
    | with_reducible apply keeps_sramWrite

theorem keeps_compressMask {s0 : State} {s : State} {st src dst aux : Nat} {o : Operands} (hs : Keeps s0 s) :
    Keeps s0 (compressMask s st src dst aux o) := by
  unfold compressMask
  repeat' first
    | with_reducible assumption
    | ((try lift_lets -underBinder); intro x; clear_value (hx : x = _); refine keeps_cut (s0 := s0) hx ?_ ?_ <;> clear hx)
    | ((try lift_lets -underBinder); intro x; clear_value x)
    | (intro x; try beta_reduce)
    | with_reducible apply keeps_compFault
    | with_reducible apply keeps_compressWeights
    | split

theorem keeps_expandTile {s0 : State} {s : State} {st src dst : Nat} {o : Operands} (hs : Keeps s0 s) :
    Keeps s0 (expandTile s st src dst o) := by
  unfold expandTile
  repeat' first
    | with_reducible assumption
    | ((try lift_lets -underBinder); intro x; clear_value (hx : x = _); refine keeps_cut (s0 := s0) hx ?_ ?_ <;> clear hx)
    | ((try lift_lets -underBinder); intro x; clear_value x)
    | (intro x; try beta_reduce)
    | with_reducible apply keeps_compFault
    | with_reducible apply keeps_sramWrite
    | with_reducible apply keeps_fresh
    | with_reducible apply keeps_count
    | split

theorem keeps_transposeTile {s0 : State} {s : State} {st src dst : Nat} {o : Operands} (hs : Keeps s0 s) :
    Keeps s0 (transposeTile s st src dst o) := by
  unfold transposeTile
  repeat' first
    | with_reducible assumption
    | ((try lift_lets -underBinder); intro x; clear_value (hx : x = _); refine keeps_cut (s0 := s0) hx ?_ ?_ <;> clear hx)
    | ((try lift_lets -underBinder); intro x; clear_value x)
    | (intro x; try beta_reduce)
    | with_reducible apply keeps_compFault
    | with_reducible apply keeps_noteQuant
    | with_reducible apply keeps_sramWrite
    | split

theorem keeps_compressor {s0 : State} {mode st : Nat} {h : IHdr} {o : Operands} {s : State} (hs : Keeps s0 s) :
    Keeps s0 (compressor mode st h o s) := by
  unfold compressor
  repeat' first
    | with_reducible assumption
    | ((try lift_lets -underBinder); intro x; clear_value (hx : x = _); refine keeps_cut (s0 := s0) hx ?_ ?_ <;> clear hx)
    | ((try lift_lets -underBinder); intro x; clear_value x)
    | (intro x; try beta_reduce)
    | with_reducible apply keeps_issue
    | with_reducible apply keeps_failStone
    | with_reducible apply keeps_readRanges
    | with_reducible apply keeps_compressActs
    | with_reducible apply keeps_compressMask
    | with_reducible apply keeps_compressWeights
    | with_reducible apply keeps_expandTile
    | with_reducible apply keeps_transposeTile
    | with_reducible apply keeps_completeNow
    | with_reducible apply keeps_run
    | split

theorem keeps_execCompressActivations {s0 : State} {st : Nat} {h : IHdr} {o : Operands} {s : State} (hs : Keeps s0 s) :
    KeepsRes s0 (execCompressActivations st h o s) := by
  unfold execCompressActivations
  repeat' first
    | with_reducible assumption
    | with_reducible apply keeps_compressor
    | with_reducible apply keeps_run

theorem keeps_execCompressWeightsMask {s0 : State} {st : Nat} {h : IHdr} {o : Operands} {s : State} (hs : Keeps s0 s) :
    KeepsRes s0 (execCompressWeightsMask st h o s) := by
  unfold execCompressWeightsMask
  repeat' first
    | with_reducible assumption
    | with_reducible apply keeps_compressor
    | with_reducible apply keeps_run

theorem keeps_execCompressWeightsMagnitude {s0 : State} {st : Nat} {h : IHdr} {o : Operands} {s : State} (hs : Keeps s0 s) :
    KeepsRes s0 (execCompressWeightsMagnitude st h o s) := by
  unfold execCompressWeightsMagnitude
  repeat' first
    | with_reducible assumption
    | with_reducible apply keeps_compressor
    | with_reducible apply keeps_run

theorem keeps_execExpand {s0 : State} {st : Nat} {h : IHdr} {o : Operands} {s : State} (hs : Keeps s0 s) :
    KeepsRes s0 (execExpand st h o s) := by
  unfold execExpand
  repeat' first
    | with_reducible assumption
    | with_reducible apply keeps_compressor
    | with_reducible apply keeps_run

theorem keeps_execTranspose {s0 : State} {st : Nat} {h : IHdr} {o : Operands} {s : State} (hs : Keeps s0 s) :
    KeepsRes s0 (execTranspose st h o s) := by
  unfold execTranspose
  repeat' first
    | with_reducible assumption
    | with_reducible apply keeps_compressor
    | with_reducible apply keeps_run

/-! ### Machine/Vector.lean -/

theorem keeps_afterScalars {s0 : State} {s : State} {st : Nat} {rs : List Nat} {k : State → State} (hs : Keeps s0 s) (hk : ∀ t, Keeps s0 t → Keeps s0 (k t)) :
    Keeps s0 (afterScalars s st rs k) := by
  unfold afterScalars
  repeat' first
    | with_reducible assumption
    | with_reducible apply hk
    | with_reducible apply keeps_stallOn
    | split

theorem keeps_spoilRun {s0 : State} {s : State} {st : Nat} {dsts : List (Nat × Nat)} {rs : List Nat} (hs : Keeps s0 s) :
    Keeps s0 (spoilRun s st dsts rs) := by
  unfold spoilRun
  repeat' first
    | with_reducible assumption
    | ((try lift_lets -underBinder); intro x; clear_value (hx : x = _); refine keeps_cut (s0 := s0) hx ?_ ?_ <;> clear hx)
    | ((try lift_lets -underBinder); intro x; clear_value x)
    | (intro x; try beta_reduce)
    | with_reducible apply keeps_fresh
    | with_reducible apply keeps_sramWrite
    | with_reducible apply keeps_modStone
    | with_reducible apply keeps_forEach

theorem keeps_finishRun {s0 : State} {s : State} {st : Nat} {v : VRun} (hs : Keeps s0 s) :
    Keeps s0 (finishRun s st v) := by
  unfold finishRun
  repeat' first
    | with_reducible assumption
    | ((try lift_lets -underBinder); intro x; clear_value (hx : x = _); refine keeps_cut (s0 := s0) hx ?_ ?_ <;> clear hx)
    | ((try lift_lets -underBinder); intro x; clear_value x)
    | (intro x; try beta_reduce)
    | with_reducible apply keeps_sramWrite
    | with_reducible apply keeps_modStone
    | with_reducible apply keeps_countBy
    | with_reducible apply keeps_stoneFaults
    | with_reducible apply keeps_forEach

theorem keeps_execConfigure {s0 : State} {st : Nat} {h : IHdr} {o : Operands} {s : State} (hs : Keeps s0 s) :
    KeepsRes s0 (execConfigure st h o s) := by
  unfold execConfigure
  repeat' first
    | with_reducible assumption
    | ((try lift_lets -underBinder); intro x; clear_value (hx : x = _); refine keeps_cut (s0 := s0) hx ?_ ?_ <;> clear hx)
    | ((try lift_lets -underBinder); intro x; clear_value x)
    | (intro x; try beta_reduce)
    | with_reducible apply keeps_issue
    | with_reducible apply keeps_stallOn
    | with_reducible apply keeps_failStone
    | with_reducible apply keeps_readRanges
    | with_reducible apply keeps_completeNow
    | with_reducible apply keeps_modStone
    | with_reducible apply keeps_run
    | split

theorem keeps_postInc {s0 : State} {s : State} {st : Nat} {o : Operands} {vl : Nat} (hs : Keeps s0 s) :
    Keeps s0 (postInc s st o vl) := by
  unfold postInc
  repeat' first
    | with_reducible assumption
    | (intro x; try beta_reduce)
    | with_reducible apply keeps_modStone
    | with_reducible apply keeps_foldl
    | split

theorem keeps_execVectorRun {s0 : State} {st : Nat} {h : IHdr} {o : Operands} {rd : SramRead} {parityOk : Bool} {s : State} (hs : Keeps s0 s) :
    KeepsRes s0 (execVectorRun st h o rd parityOk s) := by
  unfold execVectorRun
  repeat' first
    | with_reducible assumption
    | ((try lift_lets -underBinder); intro x; clear_value (hx : x = _); refine keeps_cut (s0 := s0) hx ?_ ?_ <;> clear hx)
    | ((try lift_lets -underBinder); intro x; clear_value x)
    | (intro x; try beta_reduce)
    | with_reducible apply keeps_issue
    | with_reducible apply keeps_afterScalars
    | with_reducible apply keeps_failStone
    | with_reducible apply keeps_readSram
    | with_reducible apply keeps_modStone
    | with_reducible apply keeps_takeSlot
    | with_reducible apply keeps_spoilRun
    | with_reducible apply keeps_run
    | split

theorem keeps_execVectorRunComplete {s0 : State} {st : Nat} {busy : Nat} {s : State} (hs : Keeps s0 s) :
    KeepsRes s0 (execVectorRunComplete st busy s) := by
  unfold execVectorRunComplete
  repeat' first
    | with_reducible assumption
    | ((try lift_lets -underBinder); intro x; clear_value (hx : x = _); refine keeps_cut (s0 := s0) hx ?_ ?_ <;> clear hx)
    | ((try lift_lets -underBinder); intro x; clear_value x)
    | (intro x; try beta_reduce)
    | with_reducible apply keeps_modStone
    | with_reducible apply keeps_spoilRun
    | with_reducible apply keeps_finishRun
    | with_reducible apply keeps_countBy
    | with_reducible apply keeps_count
    | with_reducible apply keeps_postInc
    | with_reducible apply keeps_completeSlot
    | with_reducible apply keeps_run
    | split

theorem keeps_execScalarSet {s0 : State} {st : Nat} {h : IHdr} {o : Operands} {s : State} (hs : Keeps s0 s) :
    KeepsRes s0 (execScalarSet st h o s) := by
  unfold execScalarSet
  repeat' first
    | with_reducible assumption
    | (intro x; try beta_reduce)
    | with_reducible apply keeps_issue
    | with_reducible apply keeps_completeNow
    | with_reducible apply keeps_modStone
    | with_reducible apply keeps_run

theorem keeps_execScalarFunc {s0 : State} {st : Nat} {h : IHdr} {o : Operands} {s : State} (hs : Keeps s0 s) :
    KeepsRes s0 (execScalarFunc st h o s) := by
  unfold execScalarFunc
  repeat' first
    | with_reducible assumption
    | ((try lift_lets -underBinder); intro x; clear_value (hx : x = _); refine keeps_cut (s0 := s0) hx ?_ ?_ <;> clear hx)
    | ((try lift_lets -underBinder); intro x; clear_value x)
    | (intro x; try beta_reduce)
    | with_reducible apply keeps_issue
    | with_reducible apply keeps_afterScalars
    | with_reducible apply keeps_countBy
    | with_reducible apply keeps_completeNow
    | with_reducible apply keeps_modStone
    | with_reducible apply keeps_run

theorem keeps_execScalarStore {s0 : State} {st : Nat} {h : IHdr} {o : Operands} {s : State} (hs : Keeps s0 s) :
    KeepsRes s0 (execScalarStore st h o s) := by
  unfold execScalarStore
  repeat' first
    | with_reducible assumption
    | ((try lift_lets -underBinder); intro x; clear_value (hx : x = _); refine keeps_cut (s0 := s0) hx ?_ ?_ <;> clear hx)
    | ((try lift_lets -underBinder); intro x; clear_value x)
    | (intro x; try beta_reduce)
    | with_reducible apply keeps_issue
    | with_reducible apply keeps_afterScalars
    | with_reducible apply keeps_failStone
    | with_reducible apply keeps_completeNow
    | with_reducible apply keeps_sramWrite
    | with_reducible apply keeps_run
    | split

theorem keeps_execScalarLoad {s0 : State} {st : Nat} {h : IHdr} {o : Operands} {s : State} (hs : Keeps s0 s) :
    KeepsRes s0 (execScalarLoad st h o s) := by
  unfold execScalarLoad
  repeat' first
    | with_reducible assumption
    | ((try lift_lets -underBinder); intro x; clear_value (hx : x = _); refine keeps_cut (s0 := s0) hx ?_ ?_ <;> clear hx)
    | ((try lift_lets -underBinder); intro x; clear_value x)
    | (intro x; try beta_reduce)
    | with_reducible apply keeps_issue
    | with_reducible apply keeps_failStone
    | with_reducible apply keeps_readRanges
    | with_reducible apply keeps_completeNow
    | with_reducible apply keeps_modStone
    | with_reducible apply keeps_run
    | with_reducible apply keeps_foldl
    | split

end Sys2Proof.Machine
end

