-- ==== Sys2Proof/Laws/KeepsFabric.lean ====
section
/-! SUPPORT. One lemma per operation of the fabric and the window table: it keeps what every command keeps (Laws/Keeps.lean). -/

namespace Sys2Proof.Machine

/-! ### Machine/Fabric.lean -/

theorem keeps_sendControl {s0 : State} {s : State} {p : Nat} {nak : Bool} (hs : Keeps s0 s) :
    Keeps s0 (sendControl s p nak) := by
  unfold sendControl
  repeat' first
    | with_reducible assumption
    | ((try lift_lets -underBinder); intro x; clear_value (hx : x = _); refine keeps_cut (s0 := s0) hx ?_ ?_ <;> clear hx)
    | ((try lift_lets -underBinder); intro x; clear_value x)
    | (intro x; try beta_reduce)
    | with_reducible apply keeps_emit

theorem keeps_putFrame {s0 : State} {s : State} {p : Nat} {f : Sent} (hs : Keeps s0 s) :
    Keeps s0 (putFrame s p f) := by
  unfold putFrame
  repeat' first
    | with_reducible assumption
    | ((try lift_lets -underBinder); intro x; clear_value (hx : x = _); refine keeps_cut (s0 := s0) hx ?_ ?_ <;> clear hx)
    | ((try lift_lets -underBinder); intro x; clear_value x)
    | (intro x; try beta_reduce)
    | with_reducible apply keeps_emit
    | with_reducible apply keeps_setPort
    | with_reducible apply keeps_sendControl
    | with_reducible apply keeps_forEach

theorem keeps_freeCredits {s0 : State} {s : State} {p : Nat} {q : QItem} (hs : Keeps s0 s) :
    Keeps s0 (freeCredits s p q) := by
  unfold freeCredits
  repeat' first
    | with_reducible assumption
    | ((try lift_lets -underBinder); intro x; clear_value (hx : x = _); refine keeps_cut (s0 := s0) hx ?_ ?_ <;> clear hx)
    | ((try lift_lets -underBinder); intro x; clear_value x)
    | (intro x; try beta_reduce)
    | with_reducible apply keeps_setPort
    | with_reducible apply keeps_sendControl
    | split

theorem keeps_portEnter {s0 : State} {s : State} {p : Nat} {st : PortState} (hs : Keeps s0 s) :
    Keeps s0 (portEnter s p st) := by
  unfold portEnter
  repeat' first
    | with_reducible assumption
    | ((try lift_lets -underBinder); intro x; clear_value (hx : x = _); refine keeps_cut (s0 := s0) hx ?_ ?_ <;> clear hx)
    | ((try lift_lets -underBinder); intro x; clear_value x)
    | (intro x; try beta_reduce)
    | with_reducible apply keeps_count
    | with_reducible apply keeps_setPort
    | split

theorem keeps_fencePort {s0 : State} {s : State} {p : Nat} (hs : Keeps s0 s) :
    Keeps s0 (fencePort s p) := by
  unfold fencePort
  repeat' first
    | with_reducible assumption
    | ((try lift_lets -underBinder); intro x; clear_value (hx : x = _); refine keeps_cut (s0 := s0) hx ?_ ?_ <;> clear hx)
    | ((try lift_lets -underBinder); intro x; clear_value x)
    | (intro x; try beta_reduce)
    | with_reducible apply keeps_portEnter
    | with_reducible apply keeps_setPort
    | with_reducible apply keeps_raise1
    | split

theorem keeps_failRetrain {s0 : State} {s : State} {p : Nat} (hs : Keeps s0 s) :
    Keeps s0 (failRetrain s p) := by
  unfold failRetrain
  repeat' first
    | with_reducible assumption
    | ((try lift_lets -underBinder); intro x; clear_value (hx : x = _); refine keeps_cut (s0 := s0) hx ?_ ?_ <;> clear hx)
    | ((try lift_lets -underBinder); intro x; clear_value x)
    | (intro x; try beta_reduce)
    | with_reducible apply keeps_setPort
    | with_reducible apply keeps_fencePort
    | split

theorem keeps_endAttempt {s0 : State} {s : State} {p : Nat} {st : PortState} (hs : Keeps s0 s) :
    Keeps s0 (endAttempt s p st) := by
  unfold endAttempt
  repeat' first
    | with_reducible assumption
    | ((try lift_lets -underBinder); intro x; clear_value (hx : x = _); refine keeps_cut (s0 := s0) hx ?_ ?_ <;> clear hx)
    | ((try lift_lets -underBinder); intro x; clear_value x)
    | (intro x; try beta_reduce)
    | with_reducible apply keeps_portEnter
    | with_reducible apply keeps_failRetrain
    | with_reducible apply keeps_setPort

theorem keeps_beginRetrain {s0 : State} {s : State} {p : Nat} (hs : Keeps s0 s) :
    Keeps s0 (beginRetrain s p) := by
  unfold beginRetrain
  repeat' first
    | with_reducible assumption
    | ((try lift_lets -underBinder); intro x; clear_value (hx : x = _); refine keeps_cut (s0 := s0) hx ?_ ?_ <;> clear hx)
    | ((try lift_lets -underBinder); intro x; clear_value x)
    | (intro x; try beta_reduce)
    | with_reducible apply keeps_portEnter
    | with_reducible apply keeps_setPort
    | split

theorem keeps_failPort {s0 : State} {s : State} {p : Nat} {st : PortState} (hs : Keeps s0 s) :
    Keeps s0 (failPort s p st) := by
  unfold failPort
  repeat' first
    | with_reducible assumption
    | ((try lift_lets -underBinder); intro x; clear_value (hx : x = _); refine keeps_cut (s0 := s0) hx ?_ ?_ <;> clear hx)
    | ((try lift_lets -underBinder); intro x; clear_value x)
    | (intro x; try beta_reduce)
    | with_reducible apply keeps_emit
    | with_reducible apply keeps_endAttempt
    | with_reducible apply keeps_raise1

theorem keeps_execPortTrainingRetry {s0 : State} {p : Nat} {s : State} (hs : Keeps s0 s) :
    KeepsRes s0 (execPortTrainingRetry p s) := by
  unfold execPortTrainingRetry
  repeat' first
    | with_reducible assumption
    | ((try lift_lets -underBinder); intro x; clear_value (hx : x = _); refine keeps_cut (s0 := s0) hx ?_ ?_ <;> clear hx)
    | ((try lift_lets -underBinder); intro x; clear_value x)
    | (intro x; try beta_reduce)
    | with_reducible apply keeps_setPort
    | with_reducible apply keeps_run
    | split

theorem keeps_sendHello {s0 : State} {s : State} {p : Nat} (hs : Keeps s0 s) :
    Keeps s0 (sendHello s p) := by
  unfold sendHello
  repeat' first
    | with_reducible assumption
    | with_reducible apply keeps_emit
    | with_reducible apply keeps_fresh

theorem keeps_execTrainingComplete {s0 : State} {p : Nat} {ok : Bool} {s : State} (hs : Keeps s0 s) :
    KeepsRes s0 (execTrainingComplete p ok s) := by
  unfold execTrainingComplete
  repeat' first
    | with_reducible assumption
    | ((try lift_lets -underBinder); intro x; clear_value (hx : x = _); refine keeps_cut (s0 := s0) hx ?_ ?_ <;> clear hx)
    | ((try lift_lets -underBinder); intro x; clear_value x)
    | (intro x; try beta_reduce)
    | with_reducible apply keeps_sendHello
    | with_reducible apply keeps_setPort
    | with_reducible apply keeps_endAttempt
    | with_reducible apply keeps_run
    | split

theorem keeps_execHello {s0 : State} {p : Nat} {m : Hello} {s : State} (hs : Keeps s0 s) :
    KeepsRes s0 (execHello p m s) := by
  unfold execHello
  repeat' first
    | with_reducible assumption
    | ((try lift_lets -underBinder); intro x; clear_value (hx : x = _); refine keeps_cut (s0 := s0) hx ?_ ?_ <;> clear hx)
    | ((try lift_lets -underBinder); intro x; clear_value x)
    | (intro x; try beta_reduce)
    | with_reducible apply keeps_setPort
    | with_reducible apply keeps_failPort
    | with_reducible apply keeps_emit
    | with_reducible apply keeps_run
    | split

theorem keeps_execEchoFrame {s0 : State} {p roundTrip : Nat} {s : State} (hs : Keeps s0 s) :
    KeepsRes s0 (execEchoFrame p roundTrip s) := by
  unfold execEchoFrame
  repeat' first
    | with_reducible assumption
    | ((try lift_lets -underBinder); intro x; clear_value (hx : x = _); refine keeps_cut (s0 := s0) hx ?_ ?_ <;> clear hx)
    | ((try lift_lets -underBinder); intro x; clear_value x)
    | (intro x; try beta_reduce)
    | with_reducible apply keeps_setPort
    | with_reducible apply keeps_failPort
    | with_reducible apply keeps_fresh
    | with_reducible apply keeps_putFrame
    | with_reducible apply keeps_forEach
    | with_reducible apply keeps_run
    | split

theorem keeps_execRefusalNotice {s0 : State} {p : Nat} {s : State} (hs : Keeps s0 s) :
    KeepsRes s0 (execRefusalNotice p s) := by
  unfold execRefusalNotice
  repeat' first
    | with_reducible assumption
    | ((try lift_lets -underBinder); intro x; clear_value (hx : x = _); refine keeps_cut (s0 := s0) hx ?_ ?_ <;> clear hx)
    | ((try lift_lets -underBinder); intro x; clear_value x)
    | (intro x; try beta_reduce)
    | with_reducible apply keeps_endAttempt
    | with_reducible apply keeps_run
    | split

theorem keeps_execLinkLockLoss {s0 : State} {p : Nat} {s : State} (hs : Keeps s0 s) :
    KeepsRes s0 (execLinkLockLoss p s) := by
  unfold execLinkLockLoss
  repeat' first
    | with_reducible assumption
    | (intro x; try beta_reduce)
    | with_reducible apply keeps_beginRetrain
    | with_reducible apply keeps_endAttempt
    | with_reducible apply keeps_run
    | split

theorem keeps_actPortRetrain {s0 : State} {p : Nat} {s : State} (hs : Keeps s0 s) :
    KeepsAct s0 (actPortRetrain p s) := by
  unfold actPortRetrain
  repeat' first
    | with_reducible assumption
    | with_reducible apply keeps_beginRetrain
    | with_reducible apply keeps_actDone

theorem keeps_execPortRetrain {s0 : State} {p : Nat} {q : Req} {s : State} (hs : Keeps s0 s) :
    KeepsRes s0 (execPortRetrain p q s) := by
  unfold execPortRetrain
  repeat' first
    | with_reducible assumption
    | (intro x; try beta_reduce)
    | with_reducible apply keeps_serveWrite
    | with_reducible apply keeps_actPortRetrain
    | with_reducible apply keeps_run

theorem keeps_actPortFence {s0 : State} {p : Nat} {s : State} (hs : Keeps s0 s) :
    KeepsAct s0 (actPortFence p s) := by
  unfold actPortFence
  repeat' first
    | with_reducible assumption
    | with_reducible apply keeps_fencePort
    | with_reducible apply keeps_actDone

theorem keeps_execPortFence {s0 : State} {p : Nat} {q : Req} {s : State} (hs : Keeps s0 s) :
    KeepsRes s0 (execPortFence p q s) := by
  unfold execPortFence
  repeat' first
    | with_reducible assumption
    | (intro x; try beta_reduce)
    | with_reducible apply keeps_serveWrite
    | with_reducible apply keeps_actPortFence
    | with_reducible apply keeps_run

theorem keeps_sendNew {s0 : State} {s : State} {p vc : Nat} {b : FrameBody} (hs : Keeps s0 s) :
    Keeps s0 (sendNew s p vc b) := by
  unfold sendNew
  repeat' first
    | with_reducible assumption
    | ((try lift_lets -underBinder); intro x; clear_value (hx : x = _); refine keeps_cut (s0 := s0) hx ?_ ?_ <;> clear hx)
    | ((try lift_lets -underBinder); intro x; clear_value x)
    | (intro x; try beta_reduce)
    | with_reducible apply keeps_putFrame
    | with_reducible apply keeps_setPort

theorem keeps_sendDue {s0 : State} {s : State} {p : Nat} (hs : Keeps s0 s) :
    Keeps s0 (sendDue s p) := by
  unfold sendDue
  repeat' first
    | with_reducible assumption
    | ((try lift_lets -underBinder); intro x; clear_value (hx : x = _); refine keeps_cut (s0 := s0) hx ?_ ?_ <;> clear hx)
    | ((try lift_lets -underBinder); intro x; clear_value x)
    | (intro x; try beta_reduce)
    | with_reducible apply keeps_sendNew
    | with_reducible apply keeps_setPort
    | split

theorem keeps_startRekey {s0 : State} {s : State} {p : Nat} (hs : Keeps s0 s) :
    Keeps s0 (startRekey s p) := by
  unfold startRekey
  repeat' first
    | with_reducible assumption
    | ((try lift_lets -underBinder); intro x; clear_value (hx : x = _); refine keeps_cut (s0 := s0) hx ?_ ?_ <;> clear hx)
    | ((try lift_lets -underBinder); intro x; clear_value x)
    | (intro x; try beta_reduce)
    | with_reducible apply keeps_emit
    | with_reducible apply keeps_fresh
    | with_reducible apply keeps_setPort
    | with_reducible apply keeps_sendDue
    | split

theorem keeps_rekeyAtLimit {s0 : State} {s : State} {p : Nat} (hs : Keeps s0 s) :
    Keeps s0 (rekeyAtLimit s p) := by
  unfold rekeyAtLimit
  repeat' first
    | with_reducible assumption
    | with_reducible apply keeps_startRekey
    | split

theorem keeps_execRekey {s0 : State} {p : Nat} {s : State} (hs : Keeps s0 s) :
    KeepsRes s0 (execRekey p s) := by
  unfold execRekey
  repeat' first
    | with_reducible assumption
    | (intro x; try beta_reduce)
    | with_reducible apply keeps_startRekey
    | with_reducible apply keeps_run
    | split

theorem keeps_execRekeyExchange {s0 : State} {p : Nat} {checksOk : Bool} {s : State} (hs : Keeps s0 s) :
    KeepsRes s0 (execRekeyExchange p checksOk s) := by
  unfold execRekeyExchange
  repeat' first
    | with_reducible assumption
    | ((try lift_lets -underBinder); intro x; clear_value (hx : x = _); refine keeps_cut (s0 := s0) hx ?_ ?_ <;> clear hx)
    | ((try lift_lets -underBinder); intro x; clear_value x)
    | (intro x; try beta_reduce)
    | with_reducible apply keeps_failPort
    | with_reducible apply keeps_startRekey
    | with_reducible apply keeps_fresh
    | with_reducible apply keeps_setPort
    | with_reducible apply keeps_run
    | split

theorem keeps_takeKey {s0 : State} {s : State} {p : Nat} {phase : Bool} (hs : Keeps s0 s) :
    Keeps s0 (takeKey s p phase) := by
  unfold takeKey
  repeat' first
    | with_reducible assumption
    | ((try lift_lets -underBinder); intro x; clear_value (hx : x = _); refine keeps_cut (s0 := s0) hx ?_ ?_ <;> clear hx)
    | ((try lift_lets -underBinder); intro x; clear_value x)
    | (intro x; try beta_reduce)
    | with_reducible apply keeps_setPort
    | split

theorem keeps_countIn {s0 s : State} {b : FrameBody} (hs : Keeps s0 s) : Keeps s0 (countIn s b) := by
  unfold countIn
  split
  · exact keeps_count hs
  · exact hs

theorem keeps_noteDepth {s0 : State} {s : State} {p v : Nat} (hs : Keeps s0 s) :
    Keeps s0 (noteDepth s p v) := by
  unfold noteDepth
  repeat' first
    | with_reducible assumption
    | ((try lift_lets -underBinder); intro x; clear_value (hx : x = _); refine keeps_cut (s0 := s0) hx ?_ ?_ <;> clear hx)
    | ((try lift_lets -underBinder); intro x; clear_value x)
    | (intro x; try beta_reduce)
    | with_reducible apply keeps_setE
    | split

theorem keeps_execLinkFrameReceived {s0 : State} {p : Nat} {f : LinkFrame} {s : State} (hs : Keeps s0 s) :
    KeepsRes s0 (execLinkFrameReceived p f s) := by
  unfold execLinkFrameReceived
  repeat' first
    | with_reducible assumption
    | ((try lift_lets -underBinder); intro x; clear_value (hx : x = _); refine keeps_cut (s0 := s0) hx ?_ ?_ <;> clear hx)
    | ((try lift_lets -underBinder); intro x; clear_value x)
    | (intro x; try beta_reduce)
    | with_reducible apply keeps_countBy
    | with_reducible apply keeps_sendControl
    | with_reducible apply keeps_count
    | with_reducible apply keeps_takeKey
    | with_reducible apply keeps_setPort
    | with_reducible apply keeps_countIn
    | with_reducible apply keeps_raise1
    | with_reducible apply keeps_freeCredits
    | with_reducible apply keeps_noteDepth
    | with_reducible apply keeps_run
    | split

theorem keeps_execControlBlock {s0 : State} {p : Nat} {b : CtrlBlock} {s : State} (hs : Keeps s0 s) :
    KeepsRes s0 (execControlBlock p b s) := by
  unfold execControlBlock
  repeat' first
    | with_reducible assumption
    | ((try lift_lets -underBinder); intro x; clear_value (hx : x = _); refine keeps_cut (s0 := s0) hx ?_ ?_ <;> clear hx)
    | ((try lift_lets -underBinder); intro x; clear_value x)
    | (intro x; try beta_reduce)
    | with_reducible apply keeps_countBy
    | with_reducible apply keeps_takeKey
    | with_reducible apply keeps_setPort
    | with_reducible apply keeps_beginRetrain
    | with_reducible apply keeps_rekeyAtLimit
    | with_reducible apply keeps_putFrame
    | with_reducible apply keeps_forEach
    | with_reducible apply keeps_run
    | with_reducible apply keeps_foldl
    | split

theorem keeps_execFrameTransmit {s0 : State} {p : Nat} {bufferOk : Bool} {s : State} (hs : Keeps s0 s) :
    KeepsRes s0 (execFrameTransmit p bufferOk s) := by
  unfold execFrameTransmit
  repeat' first
    | with_reducible assumption
    | ((try lift_lets -underBinder); intro x; clear_value (hx : x = _); refine keeps_cut (s0 := s0) hx ?_ ?_ <;> clear hx)
    | ((try lift_lets -underBinder); intro x; clear_value x)
    | (intro x; try beta_reduce)
    | with_reducible apply keeps_sendDue
    | with_reducible apply keeps_sendControl
    | with_reducible apply keeps_raise1
    | with_reducible apply keeps_count
    | with_reducible apply keeps_setPort
    | with_reducible apply keeps_countBy
    | with_reducible apply keeps_rekeyAtLimit
    | with_reducible apply keeps_sendNew
    | with_reducible apply keeps_run
    | split
    | (with_reducible apply keeps_mk; with_reducible assumption)

theorem keeps_routeDrop {s0 : State} {s : State} {came : Nat} {w cause : Nat} {p : Packet} (hs : Keeps s0 s) :
    Keeps s0 (routeDrop s came w cause p) := by
  unfold routeDrop
  repeat' first
    | with_reducible assumption
    | ((try lift_lets -underBinder); intro x; clear_value (hx : x = _); refine keeps_cut (s0 := s0) hx ?_ ?_ <;> clear hx)
    | ((try lift_lets -underBinder); intro x; clear_value x)
    | (intro x; try beta_reduce)
    | with_reducible apply keeps_count
    | with_reducible apply keeps_raise1
    | split
    | (with_reducible apply keeps_mk; with_reducible assumption)

theorem keeps_deliverPacket {s0 : State} {s : State} {came w : Nat} {p : Packet} (hs : Keeps s0 s) :
    Keeps s0 (deliverPacket s came w p) := by
  unfold deliverPacket
  repeat' first
    | with_reducible assumption
    | ((try lift_lets -underBinder); intro x; clear_value (hx : x = _); refine keeps_cut (s0 := s0) hx ?_ ?_ <;> clear hx)
    | ((try lift_lets -underBinder); intro x; clear_value x)
    | (intro x; try beta_reduce)
    | with_reducible apply keeps_count
    | with_reducible apply keeps_raise1
    | with_reducible apply keeps_countBridge
    | split
    | (with_reducible apply keeps_mk; with_reducible assumption)

theorem keeps_rxBuffer {s0 : State} {s : State} {p : Packet} {d : Depart} (hs : Keeps s0 s) :
    Keeps s0 (rxBuffer s p d).1 := by
  unfold rxBuffer
  repeat' first
    | with_reducible assumption
    | with_reducible apply keeps_grantTry
    | with_reducible apply keeps_sramWrite
    | split
    | refine keeps_fst ‹_ = (_, _)› ?_

theorem keeps_depart {s0 : State} {s : State} {w : Nat} {item : QItem} {came : Nat} {p : Packet} {d : Depart} (hs : Keeps s0 s) :
    Keeps s0 (depart s w item came p d) := by
  unfold depart
  repeat' first
    | with_reducible assumption
    | ((try lift_lets -underBinder); intro x; clear_value (hx : x = _); refine keeps_cut (s0 := s0) hx ?_ ?_ <;> clear hx)
    | ((try lift_lets -underBinder); intro x; clear_value x)
    | (intro x; try beta_reduce)
    | with_reducible apply keeps_routeDrop
    | with_reducible apply keeps_deliverPacket
    | with_reducible apply keeps_countBridge
    | with_reducible apply keeps_setPort
    | split
    | (with_reducible apply keeps_mk; with_reducible assumption)

theorem keeps_spoilPacket {s0 : State} {s : State} {came w : Nat} {p : Packet} (hs : Keeps s0 s) :
    Keeps s0 (spoilPacket s came w p) := by
  unfold spoilPacket
  repeat' first
    | with_reducible assumption
    | ((try lift_lets -underBinder); intro x; clear_value (hx : x = _); refine keeps_cut (s0 := s0) hx ?_ ?_ <;> clear hx)
    | ((try lift_lets -underBinder); intro x; clear_value x)
    | (intro x; try beta_reduce)
    | with_reducible apply keeps_count
    | with_reducible apply keeps_raise1
    | split

theorem mem_of_mem_bufferHeads {h : Head} {l : List Head} (m : h ∈ bufferHeads l) : h ∈ l := by
  induction l with
  | nil => exact m
  | cons a l ih =>
    simp only [bufferHeads, List.mem_cons, List.mem_filter] at m ⊢
    rcases m with m | m
    · exact .inl m
    · exact .inr (ih m.1)

theorem keeps_arrivals {s0 s t : State} {a : Arrival} {h : Head} (ht : Keeps s0 t) (m : h ∈ arrivals s a) :
    Keeps s0 (h.2.2.2.2 t) := by
  unfold arrivals at m
  split at m
  · simp only [List.mem_map] at m
    obtain ⟨x, -, rfl⟩ := m
    exact keeps_mk ht
  · simp only [List.mem_filterMap] at m
    obtain ⟨q, -, e⟩ := m
    split at e
    · cases e; exact keeps_freeCredits (keeps_setPort ht)
    · cases e
  · simp only [List.mem_filterMap] at m
    obtain ⟨q, -, e⟩ := m
    split at e
    · cases e; exact keeps_mk ht
    · cases e

theorem keeps_arrivalHead {s0 s t : State} {a : Arrival} {w : Nat} {i : QItem} {p : Packet} {c : Came} {f : State → State}
    (h : Keeps s0 t) (e : arrivalHead s a = some (w, i, p, c, f)) : Keeps s0 (f t) :=
  keeps_arrivals h (mem_of_mem_bufferHeads (List.mem_of_find?_eq_some e))

theorem keeps_execPacketRoute {s0 : State} {a : Arrival} {bufferOk : Bool} {s : State} (hs : Keeps s0 s) :
    KeepsRes s0 (execPacketRoute a bufferOk s) := by
  unfold execPacketRoute
  refine keeps_run hs fun t ht => ?_
  split
  · exact ht
  · next e =>
    split
    · exact ht
    · dsimp only
      split
      · exact keeps_spoilPacket (keeps_arrivalHead ht e)
      · split
        · next g => exact keeps_fst g (keeps_rxBuffer ht)
        · next g =>
          exact keeps_forEach (keeps_depart (keeps_arrivalHead (keeps_fst g (keeps_rxBuffer ht)) e)) fun _ _ h => keeps_release h

theorem keeps_actAqSet {s0 : State} {q : Req} {s : State} (hs : Keeps s0 s) :
    KeepsAct s0 (actAqSet q s) := by
  unfold actAqSet
  repeat' first
    | with_reducible assumption
    | ((try lift_lets -underBinder); intro x; clear_value (hx : x = _); refine keeps_cut (s0 := s0) hx ?_ ?_ <;> clear hx)
    | ((try lift_lets -underBinder); intro x; clear_value x)
    | (intro x; try beta_reduce)
    | with_reducible apply keeps_refuse
    | with_reducible apply keeps_actDone
    | with_reducible apply keeps_actRefuse
    | split
    | (with_reducible apply keeps_mk; with_reducible assumption)

theorem keeps_execAqSet {s0 : State} {q : Req} {s : State} (hs : Keeps s0 s) :
    KeepsRes s0 (execAqSet q s) := by
  unfold execAqSet
  repeat' first
    | with_reducible assumption
    | (intro x; try beta_reduce)
    | with_reducible apply keeps_serveWrite
    | with_reducible apply keeps_actAqSet
    | with_reducible apply keeps_run

theorem keeps_actAqClear {s0 : State} {q : Req} {s : State} (hs : Keeps s0 s) :
    KeepsAct s0 (actAqClear q s) := by
  unfold actAqClear
  repeat' first
    | with_reducible assumption
    | ((try lift_lets -underBinder); intro x; clear_value (hx : x = _); refine keeps_cut (s0 := s0) hx ?_ ?_ <;> clear hx)
    | ((try lift_lets -underBinder); intro x; clear_value x)
    | (intro x; try beta_reduce)
    | with_reducible apply keeps_refuse
    | with_reducible apply keeps_actDone
    | with_reducible apply keeps_actRefuse
    | split
    | (with_reducible apply keeps_mk; with_reducible assumption)

theorem keeps_execAqClear {s0 : State} {q : Req} {s : State} (hs : Keeps s0 s) :
    KeepsRes s0 (execAqClear q s) := by
  unfold execAqClear
  repeat' first
    | with_reducible assumption
    | (intro x; try beta_reduce)
    | with_reducible apply keeps_serveWrite
    | with_reducible apply keeps_actAqClear
    | with_reducible apply keeps_run

theorem keeps_actAqShare {s0 : State} {q : Req} {s : State} (hs : Keeps s0 s) :
    KeepsAct s0 (actAqShare q s) := by
  unfold actAqShare
  repeat' first
    | with_reducible assumption
    | (intro x; try beta_reduce)
    | with_reducible apply keeps_refuse
    | with_reducible apply keeps_setE
    | with_reducible apply keeps_actDone
    | with_reducible apply keeps_actRefuse
    | split

theorem keeps_aqDeliver {s0 : State} {s : State} {k inPort : Nat} {e : BitVec 128} {a : AqPacket} (hs : Keeps s0 s) :
    Keeps s0 (aqDeliver s k inPort e a) := by
  unfold aqDeliver
  repeat' first
    | with_reducible assumption
    | ((try lift_lets -underBinder); intro x; clear_value (hx : x = _); refine keeps_cut (s0 := s0) hx ?_ ?_ <;> clear hx)
    | ((try lift_lets -underBinder); intro x; clear_value x)
    | (intro x; try beta_reduce)
    | with_reducible apply keeps_count
    | with_reducible apply keeps_memWrite
    | split
    | (with_reducible apply keeps_mk; with_reducible assumption)

theorem keeps_execAqueductPacket {s0 : State} {inPort : Nat} {a : AqPacket} {s : State} (hs : Keeps s0 s) :
    KeepsRes s0 (execAqueductPacket inPort a s) := by
  unfold execAqueductPacket
  repeat' first
    | with_reducible assumption
    | ((try lift_lets -underBinder); intro x; clear_value (hx : x = _); refine keeps_cut (s0 := s0) hx ?_ ?_ <;> clear hx)
    | ((try lift_lets -underBinder); intro x; clear_value (hx : x = _); refine keeps_cutFun (s0 := s0) hx ?_ ?_ <;> clear hx)
    | ((try lift_lets -underBinder); intro x; clear_value (hx : x = _); refine keeps_cutFun2 (s0 := s0) hx ?_ ?_ <;> clear hx)
    | ((try lift_lets -underBinder); intro x; clear_value (hx : x = _); refine keeps_cutFun3 (s0 := s0) hx ?_ ?_ <;> clear hx)
    | ((try lift_lets -underBinder); intro x; clear_value x)
    | (intro x; try beta_reduce)
    | with_reducible apply keeps_freeCredits
    | with_reducible apply keeps_setPort
    | with_reducible apply keeps_count
    | with_reducible apply keeps_aqDeliver
    | with_reducible apply keeps_countBridge
    | with_reducible apply keeps_run
    | (with_reducible apply_assumption; with_reducible assumption)
    | split
    | (with_reducible apply keeps_mk; with_reducible assumption)

theorem keeps_actTableInstall {s0 : State} {e : Nat} {s : State} (hs : Keeps s0 s) :
    KeepsAct s0 (actTableInstall e s) := by
  unfold actTableInstall
  repeat' first
    | with_reducible assumption
    | ((try lift_lets -underBinder); intro x; clear_value (hx : x = _); refine keeps_cut (s0 := s0) hx ?_ ?_ <;> clear hx)
    | ((try lift_lets -underBinder); intro x; clear_value x)
    | (intro x; try beta_reduce)
    | with_reducible apply keeps_refuse
    | with_reducible apply keeps_setE
    | with_reducible apply keeps_actDone
    | with_reducible apply keeps_actRefuse
    | split
    | (with_reducible apply keeps_mk; with_reducible assumption)

theorem keeps_execTableInstall {s0 : State} {q : Req} {s : State} (hs : Keeps s0 s) :
    KeepsRes s0 (execTableInstall q s) := by
  unfold execTableInstall
  repeat' first
    | with_reducible assumption
    | (intro x; try beta_reduce)
    | with_reducible apply keeps_serveWrite
    | with_reducible apply keeps_actTableInstall
    | with_reducible apply keeps_run

theorem keeps_actInjectEpoch {s0 : State} {e : Nat} {s : State} (hs : Keeps s0 s) :
    KeepsAct s0 (actInjectEpoch e s) := by
  unfold actInjectEpoch
  repeat' first
    | with_reducible assumption
    | ((try lift_lets -underBinder); intro x; clear_value (hx : x = _); refine keeps_cut (s0 := s0) hx ?_ ?_ <;> clear hx)
    | ((try lift_lets -underBinder); intro x; clear_value x)
    | (intro x; try beta_reduce)
    | with_reducible apply keeps_refuse
    | with_reducible apply keeps_setE
    | with_reducible apply keeps_inject
    | with_reducible apply keeps_forEach
    | with_reducible apply keeps_actDone
    | with_reducible apply keeps_actRefuse
    | split
    | (with_reducible apply keeps_mk; with_reducible assumption)

theorem keeps_execInjectEpoch {s0 : State} {q : Req} {s : State} (hs : Keeps s0 s) :
    KeepsRes s0 (execInjectEpoch q s) := by
  unfold execInjectEpoch
  repeat' first
    | with_reducible assumption
    | (intro x; try beta_reduce)
    | with_reducible apply keeps_serveWrite
    | with_reducible apply keeps_actInjectEpoch
    | with_reducible apply keeps_run

theorem keeps_actTableRetire {s0 : State} {e : Nat} {s : State} (hs : Keeps s0 s) :
    KeepsAct s0 (actTableRetire e s) := by
  unfold actTableRetire
  repeat' first
    | with_reducible assumption
    | ((try lift_lets -underBinder); intro x; clear_value (hx : x = _); refine keeps_cut (s0 := s0) hx ?_ ?_ <;> clear hx)
    | ((try lift_lets -underBinder); intro x; clear_value x)
    | (intro x; try beta_reduce)
    | with_reducible apply keeps_refuse
    | with_reducible apply keeps_actDone
    | with_reducible apply keeps_actRefuse
    | split
    | (with_reducible apply keeps_mk; with_reducible assumption)

theorem keeps_execTableRetire {s0 : State} {q : Req} {s : State} (hs : Keeps s0 s) :
    KeepsRes s0 (execTableRetire q s) := by
  unfold execTableRetire
  repeat' first
    | with_reducible assumption
    | (intro x; try beta_reduce)
    | with_reducible apply keeps_serveWrite
    | with_reducible apply keeps_actTableRetire
    | with_reducible apply keeps_run

theorem keeps_epochOp {s0 s : State} {op e : Nat} (hs : Keeps s0 s) : Keeps s0 (epochOp op e s).1 := by
  have h : KeepsAct s0 (if op = 1 then actTableInstall e s else if op = 2 then actInjectEpoch e s
      else if op = 4 then actTableRetire e s else .done s) := by
    split
    · exact keeps_actTableInstall hs
    · split
      · exact keeps_actInjectEpoch hs
      · split
        · exact keeps_actTableRetire hs
        · exact keeps_actDone hs
  unfold epochOp
  dsimp only
  split
  · next g => exact keeps_of_done g h
  · next g => exact keeps_of_later g h
  · next g => exact keeps_of_refuse g h

theorem keeps_finishEpochStep {s0 : State} {s : State} {x : EpochStep} (hs : Keeps s0 s) :
    Keeps s0 (finishEpochStep s x) := by
  unfold finishEpochStep
  repeat' first
    | with_reducible assumption
    | ((try lift_lets -underBinder); intro x; clear_value (hx : x = _); refine keeps_cut (s0 := s0) hx ?_ ?_ <;> clear hx)
    | ((try lift_lets -underBinder); intro x; clear_value x)
    | (intro x; try beta_reduce)
    | with_reducible apply keeps_setE
    | with_reducible apply keeps_foldl
    | split
    | (with_reducible apply keeps_mk; with_reducible assumption)

theorem keeps_actEpochStep {s0 s : State} {q : Req} (hs : Keeps s0 s) : KeepsAct s0 (actEpochStep q s) := by
  have hp : Keeps s0 (epochOp (q.value / 256) (q.value % 4) s).1 := keeps_epochOp hs
  unfold actEpochStep
  dsimp only
  split
  · exact keeps_actRefuse hs
  split
  · exact keeps_actRefuse hs
  split
  · exact keeps_actRefuse hs
  have h1 : Keeps s0 (setE (setE (epochOp (q.value / 256) (q.value % 4) s).1 0x2056 0x02 1) 0x2056 0x03 0) :=
    keeps_setE (keeps_setE hp)
  refine keeps_actDone ?_
  split
  · refine keeps_finishEpochStep (keeps_forEach ?_ fun _ _ h => keeps_sendMgmt h)
    split
    · exact keeps_setE (keeps_setE h1)
    · exact h1
  · refine keeps_mk (keeps_forEach ?_ fun _ _ h => keeps_sendMgmt h)
    split
    · exact keeps_setE (keeps_setE h1)
    · exact h1

theorem keeps_epochStepRow {s0 : State} {op : Nat} {q : Req} {s : State} (hs : Keeps s0 s) :
    Keeps s0 (epochStepRow op q s) := by
  unfold epochStepRow
  repeat' first
    | with_reducible assumption
    | (intro x; try beta_reduce)
    | with_reducible apply keeps_serveWrite
    | with_reducible apply keeps_actEpochStep
    | split

theorem keeps_execEpochStepInstall {s0 : State} {q : Req} {s : State} (hs : Keeps s0 s) :
    KeepsRes s0 (execEpochStepInstall q s) := by
  unfold execEpochStepInstall
  repeat' first
    | with_reducible assumption
    | with_reducible apply keeps_epochStepRow
    | with_reducible apply keeps_run

theorem keeps_execEpochStepFlip {s0 : State} {q : Req} {s : State} (hs : Keeps s0 s) :
    KeepsRes s0 (execEpochStepFlip q s) := by
  unfold execEpochStepFlip
  repeat' first
    | with_reducible assumption
    | with_reducible apply keeps_epochStepRow
    | with_reducible apply keeps_run

theorem keeps_execEpochStepPoll {s0 : State} {q : Req} {s : State} (hs : Keeps s0 s) :
    KeepsRes s0 (execEpochStepPoll q s) := by
  unfold execEpochStepPoll
  repeat' first
    | with_reducible assumption
    | with_reducible apply keeps_epochStepRow
    | with_reducible apply keeps_run

theorem keeps_execEpochStepRetire {s0 : State} {q : Req} {s : State} (hs : Keeps s0 s) :
    KeepsRes s0 (execEpochStepRetire q s) := by
  unfold execEpochStepRetire
  repeat' first
    | with_reducible assumption
    | with_reducible apply keeps_epochStepRow
    | with_reducible apply keeps_run

theorem keeps_execEpochStepMember {s0 : State} {fromPos op epoch : Nat} {s : State} (hs : Keeps s0 s) :
    KeepsRes s0 (execEpochStepMember fromPos op epoch s) := by
  unfold execEpochStepMember
  repeat' first
    | with_reducible assumption
    | ((try lift_lets -underBinder); intro x; clear_value (hx : x = _); refine keeps_cut (s0 := s0) hx ?_ ?_ <;> clear hx)
    | ((try lift_lets -underBinder); intro x; clear_value x)
    | (intro x; try beta_reduce)
    | with_reducible apply keeps_sendMgmt
    | with_reducible apply keeps_count
    | with_reducible apply keeps_epochOp
    | with_reducible apply keeps_run
    | split

theorem keeps_execEpochStepAnswer {s0 : State} {pos : Nat} {accepted : Bool} {injecting epochIn epochHeld : Nat} {s : State} (hs : Keeps s0 s) :
    KeepsRes s0 (execEpochStepAnswer pos accepted injecting epochIn epochHeld s) := by
  unfold execEpochStepAnswer
  repeat' first
    | with_reducible assumption
    | ((try lift_lets -underBinder); intro x; clear_value (hx : x = _); refine keeps_cut (s0 := s0) hx ?_ ?_ <;> clear hx)
    | ((try lift_lets -underBinder); intro x; clear_value x)
    | (intro x; try beta_reduce)
    | with_reducible apply keeps_setE
    | with_reducible apply keeps_finishEpochStep
    | with_reducible apply keeps_run
    | split
    | (with_reducible apply keeps_mk; with_reducible assumption)

theorem keeps_execEpochStepTimeout {s0 : State} {s : State} (hs : Keeps s0 s) :
    KeepsRes s0 (execEpochStepTimeout s) := by
  unfold execEpochStepTimeout
  repeat' first
    | with_reducible assumption
    | ((try lift_lets -underBinder); intro x; clear_value (hx : x = _); refine keeps_cut (s0 := s0) hx ?_ ?_ <;> clear hx)
    | ((try lift_lets -underBinder); intro x; clear_value x)
    | (intro x; try beta_reduce)
    | with_reducible apply keeps_finishEpochStep
    | with_reducible apply keeps_run
    | split

/-! ### Machine/Window.lean -/

theorem keeps_actWindowSet {s0 : State} {q : Req} {s : State} (hs : Keeps s0 s) :
    KeepsAct s0 (actWindowSet q s) := by
  unfold actWindowSet
  repeat' first
    | with_reducible assumption
    | ((try lift_lets -underBinder); intro x; clear_value (hx : x = _); refine keeps_cut (s0 := s0) hx ?_ ?_ <;> clear hx)
    | ((try lift_lets -underBinder); intro x; clear_value x)
    | (intro x; try beta_reduce)
    | with_reducible apply keeps_refuse
    | with_reducible apply keeps_actDone
    | with_reducible apply keeps_actRefuse
    | split
    | (with_reducible apply keeps_mk; with_reducible assumption)

theorem keeps_execWindowSet {s0 : State} {q : Req} {s : State} (hs : Keeps s0 s) :
    KeepsRes s0 (execWindowSet q s) := by
  unfold execWindowSet
  repeat' first
    | with_reducible assumption
    | (intro x; try beta_reduce)
    | with_reducible apply keeps_serveWrite
    | with_reducible apply keeps_actWindowSet
    | with_reducible apply keeps_run

theorem keeps_actWindowClear {s0 : State} {q : Req} {s : State} (hs : Keeps s0 s) :
    KeepsAct s0 (actWindowClear q s) := by
  unfold actWindowClear
  repeat' first
    | with_reducible assumption
    | ((try lift_lets -underBinder); intro x; clear_value (hx : x = _); refine keeps_cut (s0 := s0) hx ?_ ?_ <;> clear hx)
    | ((try lift_lets -underBinder); intro x; clear_value x)
    | (intro x; try beta_reduce)
    | with_reducible apply keeps_actDone
    | (with_reducible apply keeps_mk; first | with_reducible assumption)

theorem keeps_execWindowClear {s0 : State} {q : Req} {s : State} (hs : Keeps s0 s) :
    KeepsRes s0 (execWindowClear q s) := by
  unfold execWindowClear
  repeat' first
    | with_reducible assumption
    | (intro x; try beta_reduce)
    | with_reducible apply keeps_serveWrite
    | with_reducible apply keeps_actWindowClear
    | with_reducible apply keeps_run

theorem keeps_clearWindows {s0 : State} {s : State} (hs : Keeps s0 s) :
    Keeps s0 (clearWindows s) := by
  unfold clearWindows
  repeat' first
    | with_reducible assumption
    | ((try lift_lets -underBinder); intro x; clear_value (hx : x = _); refine keeps_cut (s0 := s0) hx ?_ ?_ <;> clear hx)
    | ((try lift_lets -underBinder); intro x; clear_value x)
    | (intro x; try beta_reduce)
    | (with_reducible apply keeps_mk; first | with_reducible assumption)

end Sys2Proof.Machine
end

