-- ==== Sys2Proof/Laws/KeepsJobs.lean ====
section
/-! SUPPORT. One lemma per operation of the loader, contexts and jobs: it keeps what every command keeps (Laws/Keeps.lean). -/

namespace Sys2Proof.Machine

/-! ### Machine/Loader.lean -/

theorem keeps_loadRecord {s0 : State} {s : State} {slot n code detail : Nat} (hs : Keeps s0 s) :
    Keeps s0 (loadRecord s slot n code detail) := by
  unfold loadRecord
  repeat' first
    | with_reducible assumption
    | with_reducible apply keeps_setE

theorem keeps_loadRefused {s0 : State} {s : State} {slot n code detail : Nat} (hs : Keeps s0 s) :
    Keeps s0 (loadRefused s slot n code detail) := by
  unfold loadRefused
  repeat' first
    | with_reducible assumption
    | with_reducible apply keeps_count
    | with_reducible apply keeps_loadRecord

theorem keeps_actLoad {s0 : State} {q : Req} {s : State} (hs : Keeps s0 s) :
    KeepsAct s0 (actLoad q s) := by
  unfold actLoad
  repeat' first
    | with_reducible assumption
    | ((try lift_lets -underBinder); intro x; clear_value (hx : x = _); refine keeps_cut (s0 := s0) hx ?_ ?_ <;> clear hx)
    | ((try lift_lets -underBinder); intro x; clear_value x)
    | (intro x; try beta_reduce)
    | with_reducible apply keeps_refuse
    | with_reducible apply keeps_loadRefused
    | with_reducible apply keeps_modCtx
    | with_reducible apply keeps_readHost
    | with_reducible apply keeps_actLater
    | with_reducible apply keeps_actRefuse
    | split
    | (with_reducible apply keeps_mk; with_reducible assumption)

theorem keeps_execLoad {s0 : State} {q : Req} {s : State} (hs : Keeps s0 s) :
    KeepsRes s0 (execLoad q s) := by
  unfold execLoad
  repeat' first
    | with_reducible assumption
    | (intro x; try beta_reduce)
    | with_reducible apply keeps_serveWrite
    | with_reducible apply keeps_actLoad
    | with_reducible apply keeps_run

theorem keeps_clearLayers {s0 s : State} {c : Nat} (hs : Keeps s0 s) : Keeps s0 (clearLayers s c) := by
  unfold clearLayers
  exact keeps_entOf hs _ rfl rfl rfl rfl rfl rfl rfl

theorem keeps_applyLayers {s0 : State} {s : State} {c : Nat} {i : Image} (hs : Keeps s0 s) :
    Keeps s0 (applyLayers s c i) := by
  unfold applyLayers
  repeat' first
    | with_reducible assumption
    | (intro x; try beta_reduce)
    | with_reducible apply keeps_clearLayers
    | with_reducible apply keeps_setC
    | with_reducible apply keeps_forEach

theorem keeps_writeTables {s0 : State} {s : State} {c : Nat} {m : List (Nat × Nat)} {i : Image} (hs : Keeps s0 s) :
    Keeps s0 (writeTables s c m i) := by
  unfold writeTables
  repeat' first
    | with_reducible assumption
    | ((try lift_lets -underBinder); intro x; clear_value (hx : x = _); refine keeps_cut (s0 := s0) hx ?_ ?_ <;> clear hx)
    | ((try lift_lets -underBinder); intro x; clear_value x)
    | (intro x; try beta_reduce)
    | with_reducible apply keeps_pondPut
    | with_reducible apply keeps_memWrite
    | with_reducible apply keeps_forEach

theorem keeps_loadDone {s0 : State} {s : State} {l : Loading} {i : Image} {m : List (Nat × Nat)} {base : Nat} (hs : Keeps s0 s) :
    Keeps s0 (loadDone s l i m base) := by
  unfold loadDone
  repeat' first
    | with_reducible assumption
    | ((try lift_lets -underBinder); intro x; clear_value (hx : x = _); refine keeps_cut (s0 := s0) hx ?_ ?_ <;> clear hx)
    | ((try lift_lets -underBinder); intro x; clear_value x)
    | (intro x; try beta_reduce)
    | with_reducible apply keeps_setCtx
    | with_reducible apply keeps_applyLayers
    | with_reducible apply keeps_setC
    | with_reducible apply keeps_setE
    | with_reducible apply keeps_noteRunnable
    | with_reducible apply keeps_count
    | with_reducible apply keeps_writeTables

theorem keeps_execLoadComplete {s0 : State} {img : Image} {s : State} (hs : Keeps s0 s) :
    KeepsRes s0 (execLoadComplete img s) := by
  unfold execLoadComplete
  repeat' first
    | with_reducible assumption
    | ((try lift_lets -underBinder); intro x; clear_value (hx : x = _); refine keeps_cut (s0 := s0) hx ?_ ?_ <;> clear hx)
    | ((try lift_lets -underBinder); intro x; clear_value x)
    | (intro x; try beta_reduce)
    | with_reducible apply keeps_setCtx
    | with_reducible apply keeps_endDeferred
    | with_reducible apply keeps_loadRefused
    | with_reducible apply keeps_loadDone
    | with_reducible apply keeps_loadRecord
    | with_reducible apply keeps_run
    | split
    | (with_reducible apply keeps_mk; with_reducible assumption)

/-! ### Machine/Context.lean -/

theorem keeps_closeRing {s0 : State} {s : State} {c : Nat} (hs : Keeps s0 s) :
    Keeps s0 (closeRing s c) := by
  unfold closeRing
  repeat' first
    | with_reducible assumption
    | ((try lift_lets -underBinder); intro x; clear_value (hx : x = _); refine keeps_cut (s0 := s0) hx ?_ ?_ <;> clear hx)
    | ((try lift_lets -underBinder); intro x; clear_value x)
    | (intro x; try beta_reduce)
    | with_reducible apply keeps_clearMailboxes
    | with_reducible apply keeps_setE
    | (with_reducible apply keeps_mk; with_reducible assumption)

theorem keeps_beginUnload {s0 : State} {s : State} {c : Nat} (hs : Keeps s0 s) :
    Keeps s0 (beginUnload s c) := by
  unfold beginUnload
  repeat' first
    | with_reducible assumption
    | ((try lift_lets -underBinder); intro x; clear_value (hx : x = _); refine keeps_cut (s0 := s0) hx ?_ ?_ <;> clear hx)
    | ((try lift_lets -underBinder); intro x; clear_value x)
    | (intro x; try beta_reduce)
    | with_reducible apply keeps_modCtx
    | with_reducible apply keeps_closeRing
    | with_reducible apply keeps_endSlice

theorem keeps_actUnload {s0 : State} {c : Nat} {s : State} (hs : Keeps s0 s) :
    KeepsAct s0 (actUnload c s) := by
  unfold actUnload
  repeat' first
    | with_reducible assumption
    | with_reducible apply keeps_refuse
    | with_reducible apply keeps_beginUnload
    | with_reducible apply keeps_actDone
    | with_reducible apply keeps_actRefuse
    | split

theorem keeps_execUnload {s0 : State} {ctx : Nat} {q : Req} {s : State} (hs : Keeps s0 s) :
    KeepsRes s0 (execUnload ctx q s) := by
  unfold execUnload
  repeat' first
    | with_reducible assumption
    | (intro x; try beta_reduce)
    | with_reducible apply keeps_serveWrite
    | with_reducible apply keeps_actUnload
    | with_reducible apply keeps_run

theorem keeps_leaveWindows {s0 : State} {s : State} {c : Nat} (hs : Keeps s0 s) :
    Keeps s0 (leaveWindows s c) := by
  unfold leaveWindows
  repeat' first
    | with_reducible assumption
    | (intro x; try beta_reduce)
    | with_reducible apply keeps_writeBack
    | with_reducible apply keeps_discardDirty
    | with_reducible apply keeps_forEach
    | split

theorem keeps_dropCtxWork {s0 : State} {s : State} {c : Nat} (hs : Keeps s0 s) :
    Keeps s0 (dropCtxWork s c) := by
  unfold dropCtxWork
  repeat' first
    | with_reducible assumption
    | ((try lift_lets -underBinder); intro x; clear_value (hx : x = _); refine keeps_cut (s0 := s0) hx ?_ ?_ <;> clear hx)
    | ((try lift_lets -underBinder); intro x; clear_value x)
    | (intro x; try beta_reduce)
    | with_reducible apply keeps_modStone
    | with_reducible apply keeps_forEach
    | split
    | (with_reducible apply keeps_mk; with_reducible assumption)

theorem keeps_releaseCtx {s0 : State} {s : State} {c : Nat} (hs : Keeps s0 s) :
    Keeps s0 (releaseCtx s c) := by
  unfold releaseCtx
  repeat' first
    | with_reducible assumption
    | ((try lift_lets -underBinder); intro x; clear_value (hx : x = _); refine keeps_cut (s0 := s0) hx ?_ ?_ <;> clear hx)
    | ((try lift_lets -underBinder); intro x; clear_value x)
    | (intro x; try beta_reduce)
    | with_reducible apply keeps_leaveWindows
    | with_reducible apply keeps_release
    | with_reducible apply keeps_wakeGens
    | with_reducible apply keeps_setCtx
    | with_reducible apply keeps_dropCtxWork
    | with_reducible apply keeps_forEach
    | split

theorem keeps_execUnloadComplete {s0 : State} {ctx : Nat} {s : State} (hs : Keeps s0 s) :
    KeepsRes s0 (execUnloadComplete ctx s) := by
  unfold execUnloadComplete
  repeat' first
    | with_reducible assumption
    | (intro x; try beta_reduce)
    | with_reducible apply keeps_releaseCtx
    | with_reducible apply keeps_run
    | split

theorem keeps_resumed {s0 : State} {s : State} {c : Nat} (hs : Keeps s0 s) :
    Keeps s0 (resumed s c) := by
  unfold resumed
  repeat' first
    | with_reducible assumption
    | ((try lift_lets -underBinder); intro x; clear_value (hx : x = _); refine keeps_cut (s0 := s0) hx ?_ ?_ <;> clear hx)
    | ((try lift_lets -underBinder); intro x; clear_value x)
    | (intro x; try beta_reduce)
    | with_reducible apply keeps_modCtx
    | with_reducible apply keeps_makeReady
    | with_reducible apply keeps_noteRunnable
    | split

theorem keeps_actResume {s0 : State} {c : Nat} {q : Req} {s : State} (hs : Keeps s0 s) :
    KeepsAct s0 (actResume c q s) := by
  unfold actResume
  repeat' first
    | with_reducible assumption
    | (intro x; try beta_reduce)
    | with_reducible apply keeps_refuse
    | with_reducible apply keeps_resumed
    | with_reducible apply keeps_modStoneFor
    | with_reducible apply keeps_forEach
    | with_reducible apply keeps_actDone
    | with_reducible apply keeps_actRefuse
    | split

theorem keeps_execResumeContinue {s0 : State} {ctx : Nat} {q : Req} {s : State} (hs : Keeps s0 s) :
    KeepsRes s0 (execResumeContinue ctx q s) := by
  unfold execResumeContinue
  repeat' first
    | with_reducible assumption
    | (intro x; try beta_reduce)
    | with_reducible apply keeps_serveWrite
    | with_reducible apply keeps_actResume
    | with_reducible apply keeps_run

theorem keeps_execResumeStepMark {s0 : State} {ctx : Nat} {q : Req} {s : State} (hs : Keeps s0 s) :
    KeepsRes s0 (execResumeStepMark ctx q s) := by
  unfold execResumeStepMark
  repeat' first
    | with_reducible assumption
    | (intro x; try beta_reduce)
    | with_reducible apply keeps_serveWrite
    | with_reducible apply keeps_actResume
    | with_reducible apply keeps_run

theorem keeps_takeStone {s0 : State} {s : State} {c st : Nat} (hs : Keeps s0 s) :
    Keeps s0 (takeStone s c st) := by
  unfold takeStone
  repeat' first
    | with_reducible assumption
    | ((try lift_lets -underBinder); intro x; clear_value (hx : x = _); refine keeps_cut (s0 := s0) hx ?_ ?_ <;> clear hx)
    | ((try lift_lets -underBinder); intro x; clear_value x)
    | (intro x; try beta_reduce)
    | with_reducible apply keeps_modCtx
    | with_reducible apply keeps_setStone
    | split

theorem keeps_reissue {s0 : State} {s : State} {c : Nat} (hs : Keeps s0 s) :
    Keeps s0 (reissue s c) := by
  unfold reissue
  repeat' first
    | with_reducible assumption
    | ((try lift_lets -underBinder); intro x; clear_value (hx : x = _); refine keeps_cut (s0 := s0) hx ?_ ?_ <;> clear hx)
    | ((try lift_lets -underBinder); intro x; clear_value x)
    | (intro x; try beta_reduce)
    | with_reducible apply keeps_countBy
    | with_reducible apply keeps_setStone
    | with_reducible apply keeps_forEach

theorem keeps_execSliceGrant {s0 : State} {ctx : Nat} {s : State} (hs : Keeps s0 s) :
    KeepsRes s0 (execSliceGrant ctx s) := by
  unfold execSliceGrant
  repeat' first
    | with_reducible assumption
    | ((try lift_lets -underBinder); intro x; clear_value (hx : x = _); refine keeps_cut (s0 := s0) hx ?_ ?_ <;> clear hx)
    | ((try lift_lets -underBinder); intro x; clear_value x)
    | (intro x; try beta_reduce)
    | with_reducible apply keeps_setE
    | with_reducible apply keeps_modCtx
    | with_reducible apply keeps_takeStone
    | with_reducible apply keeps_settle
    | with_reducible apply keeps_reissue
    | with_reducible apply keeps_forEach
    | with_reducible apply keeps_run
    | split

theorem keeps_execSliceExpiry {s0 : State} {ctx : Nat} {s : State} (hs : Keeps s0 s) :
    KeepsRes s0 (execSliceExpiry ctx s) := by
  unfold execSliceExpiry
  repeat' first
    | with_reducible assumption
    | (intro x; try beta_reduce)
    | with_reducible apply keeps_cutSlice
    | with_reducible apply keeps_run
    | split

theorem keeps_execSliceStopComplete {s0 : State} {ctx : Nat} {overrunUs : Nat} {s : State} (hs : Keeps s0 s) :
    KeepsRes s0 (execSliceStopComplete ctx overrunUs s) := by
  unfold execSliceStopComplete
  repeat' first
    | with_reducible assumption
    | ((try lift_lets -underBinder); intro x; clear_value (hx : x = _); refine keeps_cut (s0 := s0) hx ?_ ?_ <;> clear hx)
    | ((try lift_lets -underBinder); intro x; clear_value x)
    | (intro x; try beta_reduce)
    | with_reducible apply keeps_modCtx
    | with_reducible apply keeps_countBy
    | with_reducible apply keeps_setE
    | with_reducible apply keeps_run
    | split

theorem keeps_beginSwapOut {s0 : State} {s : State} {c : Nat} (hs : Keeps s0 s) :
    Keeps s0 (beginSwapOut s c) := by
  unfold beginSwapOut
  repeat' first
    | with_reducible assumption
    | ((try lift_lets -underBinder); intro x; clear_value (hx : x = _); refine keeps_cut (s0 := s0) hx ?_ ?_ <;> clear hx)
    | ((try lift_lets -underBinder); intro x; clear_value x)
    | (intro x; try beta_reduce)
    | with_reducible apply keeps_discardProducts
    | with_reducible apply keeps_endSlice
    | with_reducible apply keeps_count
    | with_reducible apply keeps_modCtx
    | (with_reducible apply keeps_mk; with_reducible assumption)

theorem keeps_execSwapInStart {s0 : State} {s : State} (hs : Keeps s0 s) :
    KeepsRes s0 (execSwapInStart s) := by
  unfold execSwapInStart
  repeat' first
    | with_reducible assumption
    | ((try lift_lets -underBinder); intro x; clear_value (hx : x = _); refine keeps_cut (s0 := s0) hx ?_ ?_ <;> clear hx)
    | ((try lift_lets -underBinder); intro x; clear_value x)
    | (intro x; try beta_reduce)
    | with_reducible apply keeps_modCtx
    | with_reducible apply keeps_beginSwapOut
    | with_reducible apply keeps_resumed
    | with_reducible apply keeps_raiseFetch
    | with_reducible apply keeps_forEach
    | with_reducible apply keeps_run
    | split

theorem keeps_forgetShares {s0 : State} {s : State} {c : Nat} (hs : Keeps s0 s) :
    Keeps s0 (forgetShares s c) := by
  unfold forgetShares
  repeat' first
    | with_reducible assumption
    | ((try lift_lets -underBinder); intro x; clear_value (hx : x = _); refine keeps_cut (s0 := s0) hx ?_ ?_ <;> clear hx)
    | ((try lift_lets -underBinder); intro x; clear_value x)
    | (intro x; try beta_reduce)
    | with_reducible apply keeps_setRouter
    | with_reducible apply keeps_forEach

theorem keeps_swapOutWindows {s0 : State} {s : State} {c : Nat} (hs : Keeps s0 s) :
    Keeps s0 (swapOutWindows s c) := by
  unfold swapOutWindows
  repeat' first
    | with_reducible assumption
    | ((try lift_lets -underBinder); intro x; clear_value (hx : x = _); refine keeps_cut (s0 := s0) hx ?_ ?_ <;> clear hx)
    | ((try lift_lets -underBinder); intro x; clear_value x)
    | (intro x; try beta_reduce)
    | with_reducible apply keeps_evictOccupant
    | with_reducible apply keeps_setWin
    | with_reducible apply keeps_writeBack
    | with_reducible apply keeps_forEach
    | split

theorem keeps_saveStones {s0 : State} {s : State} {c : Nat} (hs : Keeps s0 s) :
    Keeps s0 (saveStones s c) := by
  unfold saveStones
  repeat' first
    | with_reducible assumption
    | ((try lift_lets -underBinder); intro x; clear_value (hx : x = _); refine keeps_cut (s0 := s0) hx ?_ ?_ <;> clear hx)
    | ((try lift_lets -underBinder); intro x; clear_value x)
    | (intro x; try beta_reduce)
    | with_reducible apply keeps_modCtx
    | with_reducible apply keeps_setStone
    | with_reducible apply keeps_forEach
    | split

theorem keeps_execSwapOutComplete {s0 : State} {ctx : Nat} {s : State} (hs : Keeps s0 s) :
    KeepsRes s0 (execSwapOutComplete ctx s) := by
  unfold execSwapOutComplete
  repeat' first
    | with_reducible assumption
    | ((try lift_lets -underBinder); intro x; clear_value (hx : x = _); refine keeps_cut (s0 := s0) hx ?_ ?_ <;> clear hx)
    | ((try lift_lets -underBinder); intro x; clear_value x)
    | (intro x; try beta_reduce)
    | with_reducible apply keeps_countBy
    | with_reducible apply keeps_swapOutWindows
    | with_reducible apply keeps_clearDirty
    | with_reducible apply keeps_forgetShares
    | with_reducible apply keeps_saveStones
    | with_reducible apply keeps_noteRunnable
    | with_reducible apply keeps_modCtx
    | with_reducible apply keeps_forEach
    | with_reducible apply keeps_run
    | split

theorem keeps_reloadSaved {s0 : State} {s : State} {c : Nat} {g : Nat × Nat} (hs : Keeps s0 s) :
    Keeps s0 (reloadSaved s c g) := by
  unfold reloadSaved
  repeat' first
    | with_reducible assumption
    | ((try lift_lets -underBinder); intro x; clear_value (hx : x = _); refine keeps_cut (s0 := s0) hx ?_ ?_ <;> clear hx)
    | ((try lift_lets -underBinder); intro x; clear_value x)
    | (intro x; try beta_reduce)
    | with_reducible apply keeps_sramFill

theorem keeps_restoreStone {s0 : State} {s : State} {c st : Nat} (hs : Keeps s0 s) :
    Keeps s0 (restoreStone s c st) := by
  unfold restoreStone
  repeat' first
    | with_reducible assumption
    | ((try lift_lets -underBinder); intro x; clear_value (hx : x = _); refine keeps_cut (s0 := s0) hx ?_ ?_ <;> clear hx)
    | ((try lift_lets -underBinder); intro x; clear_value x)
    | (intro x; try beta_reduce)
    | with_reducible apply keeps_modStoneFor
    | with_reducible apply keeps_takeStone
    | with_reducible apply keeps_run
    | split

theorem keeps_spoilIntact {s0 : State} {s : State} {c : Nat} (hs : Keeps s0 s) :
    Keeps s0 (spoilIntact s c) := by
  unfold spoilIntact
  repeat' first
    | with_reducible assumption
    | ((try lift_lets -underBinder); intro x; clear_value (hx : x = _); refine keeps_cut (s0 := s0) hx ?_ ?_ <;> clear hx)
    | ((try lift_lets -underBinder); intro x; clear_value x)
    | (intro x; try beta_reduce)
    | with_reducible apply keeps_setWin
    | with_reducible apply keeps_forEach
    | split
    | (with_reducible apply keeps_mk; with_reducible assumption)

theorem keeps_execSwapInComplete {s0 : State} {ctx : Nat} {s : State} (hs : Keeps s0 s) :
    KeepsRes s0 (execSwapInComplete ctx s) := by
  unfold execSwapInComplete
  repeat' first
    | with_reducible assumption
    | ((try lift_lets -underBinder); intro x; clear_value (hx : x = _); refine keeps_cut (s0 := s0) hx ?_ ?_ <;> clear hx)
    | ((try lift_lets -underBinder); intro x; clear_value x)
    | (intro x; try beta_reduce)
    | with_reducible apply keeps_reloadSaved
    | with_reducible apply keeps_restoreStone
    | with_reducible apply keeps_spoilIntact
    | with_reducible apply keeps_modCtx
    | with_reducible apply keeps_countBy
    | with_reducible apply keeps_count
    | with_reducible apply keeps_finishYield
    | with_reducible apply keeps_makeReady
    | with_reducible apply keeps_forEach
    | with_reducible apply keeps_run
    | split

/-! ### Machine/Jobs.lean -/

theorem keeps_newKey {s0 s : State} (hs : Keeps s0 s) : Keeps s0 (newKey s) := by
  unfold newKey
  split
  · exact hs
  · exact keeps_count (keeps_setE (keeps_wipe hs rfl rfl rfl rfl (.inr rfl) (.inl rfl) rfl))

theorem keeps_enterConfigured {s0 : State} {s : State} (hs : Keeps s0 s) :
    Keeps s0 (enterConfigured s) := by
  unfold enterConfigured
  repeat' first
    | with_reducible assumption
    | ((try lift_lets -underBinder); intro x; clear_value (hx : x = _); refine keeps_cut (s0 := s0) hx ?_ ?_ <;> clear hx)
    | ((try lift_lets -underBinder); intro x; clear_value x)
    | (intro x; try beta_reduce)
    | with_reducible apply keeps_newKey
    | with_reducible apply keeps_endRebuild
    | with_reducible apply keeps_forEach
    | (with_reducible apply keeps_mk; with_reducible assumption)

theorem keeps_startRunning {s0 : State} {s : State} (hs : Keeps s0 s) :
    Keeps s0 (startRunning s) := by
  unfold startRunning
  repeat' first
    | with_reducible assumption
    | ((try lift_lets -underBinder); intro x; clear_value (hx : x = _); refine keeps_cut (s0 := s0) hx ?_ ?_ <;> clear hx)
    | ((try lift_lets -underBinder); intro x; clear_value x)
    | (intro x; try beta_reduce)
    | split
    | (with_reducible apply keeps_mk; first | with_reducible assumption)

theorem keeps_actStateRequest {s0 : State} {q : Req} {s : State} (hs : Keeps s0 s) :
    KeepsAct s0 (actStateRequest q s) := by
  unfold actStateRequest
  repeat' first
    | with_reducible assumption
    | with_reducible apply keeps_refuse
    | with_reducible apply keeps_enterConfigured
    | with_reducible apply keeps_startRunning
    | with_reducible apply keeps_actDone
    | with_reducible apply keeps_actRefuse
    | split

theorem keeps_execStateRequestConfigured {s0 : State} {q : Req} {s : State} (hs : Keeps s0 s) :
    KeepsRes s0 (execStateRequestConfigured q s) := by
  unfold execStateRequestConfigured
  repeat' first
    | with_reducible assumption
    | (intro x; try beta_reduce)
    | with_reducible apply keeps_serveWrite
    | with_reducible apply keeps_actStateRequest
    | with_reducible apply keeps_run

theorem keeps_execStateRequestRunning {s0 : State} {q : Req} {s : State} (hs : Keeps s0 s) :
    KeepsRes s0 (execStateRequestRunning q s) := by
  unfold execStateRequestRunning
  repeat' first
    | with_reducible assumption
    | (intro x; try beta_reduce)
    | with_reducible apply keeps_serveWrite
    | with_reducible apply keeps_actStateRequest
    | with_reducible apply keeps_run

theorem keeps_setStart {s0 : State} {s : State} {id : Nat} {x : StartState} (hs : Keeps s0 s) :
    Keeps s0 (setStart s id x) := by
  unfold setStart
  repeat' first
    | with_reducible assumption
    | ((try lift_lets -underBinder); intro x; clear_value (hx : x = _); refine keeps_cut (s0 := s0) hx ?_ ?_ <;> clear hx)
    | ((try lift_lets -underBinder); intro x; clear_value x)
    | (intro x; try beta_reduce)
    | (with_reducible apply keeps_mk; first | with_reducible assumption)

theorem keeps_takePrepare {s0 : State} {s : State} {v : Nat} {l : List Nat} (hs : Keeps s0 s) :
    Keeps s0 (takePrepare s v l).1 := by
  unfold takePrepare
  repeat' first
    | with_reducible assumption
    | ((try lift_lets -underBinder); intro x; clear_value (hx : x = _); refine keeps_cut (s0 := s0) hx ?_ ?_ <;> clear hx)
    | ((try lift_lets -underBinder); intro x; clear_value x)
    | (intro x; try beta_reduce)
    | with_reducible apply keeps_setE
    | with_reducible apply keeps_setStart
    | split
    | refine keeps_fst ‹_ = (_, _)› ?_
    | (with_reducible apply keeps_mk; with_reducible assumption)

theorem keeps_commitGroup {s0 s : State} (hs : Keeps s0 s) : Keeps s0 (commitGroup s) := by
  unfold commitGroup
  dsimp only
  repeat' with_reducible apply keeps_setC
  exact keeps_entOf hs _ rfl rfl rfl rfl rfl rfl rfl

theorem keeps_takeCommit {s0 : State} {s : State} {id : Nat} (hs : Keeps s0 s) :
    Keeps s0 (takeCommit s id).1 := by
  unfold takeCommit
  repeat' first
    | with_reducible assumption
    | ((try lift_lets -underBinder); intro x; clear_value (hx : x = _); refine keeps_cut (s0 := s0) hx ?_ ?_ <;> clear hx)
    | ((try lift_lets -underBinder); intro x; clear_value x)
    | (intro x; try beta_reduce)
    | with_reducible apply keeps_setE
    | with_reducible apply keeps_setStart
    | with_reducible apply keeps_commitGroup
    | split
    | refine keeps_fst ‹_ = (_, _)› ?_
    | (with_reducible apply keeps_mk; with_reducible assumption)

theorem keeps_takeRun {s0 : State} {s : State} {id : Nat} (hs : Keeps s0 s) :
    Keeps s0 (takeRun s id).1 := by
  unfold takeRun
  repeat' first
    | with_reducible assumption
    | with_reducible apply keeps_startRunning
    | split

theorem keeps_takeAbort {s0 : State} {s : State} {id : Nat} (hs : Keeps s0 s) :
    Keeps s0 (takeAbort s id).1 := by
  unfold takeAbort
  repeat' first
    | with_reducible assumption
    | ((try lift_lets -underBinder); intro x; clear_value (hx : x = _); refine keeps_cut (s0 := s0) hx ?_ ?_ <;> clear hx)
    | ((try lift_lets -underBinder); intro x; clear_value x)
    | (intro x; try beta_reduce)
    | with_reducible apply keeps_setStart
    | with_reducible apply keeps_setE
    | split
    | refine keeps_fst ‹_ = (_, _)› ?_
    | (with_reducible apply keeps_mk; with_reducible assumption)

theorem keeps_enterDraining {s0 : State} {s : State} (hs : Keeps s0 s) :
    Keeps s0 (enterDraining s) := by
  unfold enterDraining
  repeat' first
    | with_reducible assumption
    | ((try lift_lets -underBinder); intro x; clear_value (hx : x = _); refine keeps_cut (s0 := s0) hx ?_ ?_ <;> clear hx)
    | ((try lift_lets -underBinder); intro x; clear_value x)
    | (intro x; try beta_reduce)
    | with_reducible apply keeps_discardProducts
    | with_reducible apply keeps_stopCtx
    | with_reducible apply keeps_finish
    | with_reducible apply keeps_endCollectives
    | with_reducible apply keeps_forEach
    | refine keeps_fst ‹_ = (_, _)› ?_
    | (with_reducible apply keeps_mk; with_reducible assumption)

theorem keeps_takeTeardown {s0 : State} {s : State} (hs : Keeps s0 s) :
    Keeps s0 (takeTeardown s).1 := by
  unfold takeTeardown
  repeat' first
    | with_reducible assumption
    | with_reducible apply keeps_enterDraining
    | split

theorem keeps_finishJobStep {s0 : State} {s : State} {x : JobStep} (hs : Keeps s0 s) :
    Keeps s0 (finishJobStep s x) := by
  unfold finishJobStep
  repeat' first
    | with_reducible assumption
    | ((try lift_lets -underBinder); intro x; clear_value (hx : x = _); refine keeps_cut (s0 := s0) hx ?_ ?_ <;> clear hx)
    | ((try lift_lets -underBinder); intro x; clear_value x)
    | (intro x; try beta_reduce)
    | with_reducible apply keeps_setE
    | split
    | (with_reducible apply keeps_mk; with_reducible assumption)

theorem keeps_answerUp {s0 : State} {s : State} {second : Bool} {answers : List (Nat × Nat)} (hs : Keeps s0 s) :
    Keeps s0 (answerUp s second answers) := by
  unfold answerUp
  repeat' first
    | with_reducible assumption
    | ((try lift_lets -underBinder); intro x; clear_value (hx : x = _); refine keeps_cut (s0 := s0) hx ?_ ?_ <;> clear hx)
    | ((try lift_lets -underBinder); intro x; clear_value x)
    | (intro x; try beta_reduce)
    | with_reducible apply keeps_emit
    | with_reducible apply keeps_carryMgmt
    | split

theorem keeps_giveAnswers {s0 : State} {s : State} {l : List (Nat × Nat)} (hs : Keeps s0 s) :
    Keeps s0 (giveAnswers s l) := by
  unfold giveAnswers
  repeat' first
    | with_reducible assumption
    | ((try lift_lets -underBinder); intro x; clear_value (hx : x = _); refine keeps_cut (s0 := s0) hx ?_ ?_ <;> clear hx)
    | ((try lift_lets -underBinder); intro x; clear_value x)
    | (intro x; try beta_reduce)
    | with_reducible apply keeps_finishJobStep
    | with_reducible apply keeps_answerUp
    | split
    | (with_reducible apply keeps_mk; with_reducible assumption)

theorem keeps_forwardJob {s0 : State} {s : State} {k members op startId rec : Nat} (hs : Keeps s0 s) :
    Keeps s0 (forwardJob s k members op startId rec) := by
  unfold forwardJob
  repeat' first
    | with_reducible assumption
    | ((try lift_lets -underBinder); intro x; clear_value (hx : x = _); refine keeps_cut (s0 := s0) hx ?_ ?_ <;> clear hx)
    | ((try lift_lets -underBinder); intro x; clear_value x)
    | (intro x; try beta_reduce)
    | with_reducible apply keeps_carryMgmt
    | with_reducible apply keeps_emit
    | with_reducible apply keeps_forEach

theorem keeps_ownPart {s0 : State} {s : State} {op v : Nat} {l : List Nat} (hs : Keeps s0 s) :
    Keeps s0 (ownPart s op v l).1 := by
  unfold ownPart
  repeat' first
    | with_reducible assumption
    | ((try lift_lets -underBinder); intro x; clear_value (hx : x = _); refine keeps_cut (s0 := s0) hx ?_ ?_ <;> clear hx)
    | ((try lift_lets -underBinder); intro x; clear_value x)
    | (intro x; try beta_reduce)
    | with_reducible apply keeps_takePrepare
    | with_reducible apply keeps_takeCommit
    | with_reducible apply keeps_takeRun
    | with_reducible apply keeps_takeAbort
    | with_reducible apply keeps_takeTeardown
    | split

theorem keeps_actPondJobStep {s0 : State} {q : Req} {l : List Nat} {s : State} (hs : Keeps s0 s) :
    KeepsAct s0 (actPondJobStep q l s) := by
  unfold actPondJobStep
  repeat' first
    | with_reducible assumption
    | ((try lift_lets -underBinder); intro x; clear_value (hx : x = _); refine keeps_cut (s0 := s0) hx ?_ ?_ <;> clear hx)
    | ((try lift_lets -underBinder); intro x; clear_value x)
    | (intro x; try beta_reduce)
    | with_reducible apply keeps_refuse
    | with_reducible apply keeps_setE
    | with_reducible apply keeps_forwardJob
    | with_reducible apply keeps_ownPart
    | with_reducible apply keeps_giveAnswers
    | with_reducible apply keeps_actDone
    | with_reducible apply keeps_actRefuse
    | split
    | refine keeps_fst ‹_ = (_, _)› ?_
    | (with_reducible apply keeps_mk; with_reducible assumption)

theorem keeps_execPondJobPrepare {s0 : State} {q : Req} {list : List Nat} {s : State} (hs : Keeps s0 s) :
    KeepsRes s0 (execPondJobPrepare q list s) := by
  unfold execPondJobPrepare
  repeat' first
    | with_reducible assumption
    | (intro x; try beta_reduce)
    | with_reducible apply keeps_serveWrite
    | with_reducible apply keeps_actPondJobStep
    | with_reducible apply keeps_run

theorem keeps_execPondJobCommit {s0 : State} {q : Req} {s : State} (hs : Keeps s0 s) :
    KeepsRes s0 (execPondJobCommit q s) := by
  unfold execPondJobCommit
  repeat' first
    | with_reducible assumption
    | (intro x; try beta_reduce)
    | with_reducible apply keeps_serveWrite
    | with_reducible apply keeps_actPondJobStep
    | with_reducible apply keeps_run

theorem keeps_execPondJobRun {s0 : State} {q : Req} {s : State} (hs : Keeps s0 s) :
    KeepsRes s0 (execPondJobRun q s) := by
  unfold execPondJobRun
  repeat' first
    | with_reducible assumption
    | (intro x; try beta_reduce)
    | with_reducible apply keeps_serveWrite
    | with_reducible apply keeps_actPondJobStep
    | with_reducible apply keeps_run

theorem keeps_execPondJobAbort {s0 : State} {q : Req} {s : State} (hs : Keeps s0 s) :
    KeepsRes s0 (execPondJobAbort q s) := by
  unfold execPondJobAbort
  repeat' first
    | with_reducible assumption
    | (intro x; try beta_reduce)
    | with_reducible apply keeps_serveWrite
    | with_reducible apply keeps_actPondJobStep
    | with_reducible apply keeps_run

theorem keeps_execPondJobTeardown {s0 : State} {q : Req} {s : State} (hs : Keeps s0 s) :
    KeepsRes s0 (execPondJobTeardown q s) := by
  unfold execPondJobTeardown
  repeat' first
    | with_reducible assumption
    | (intro x; try beta_reduce)
    | with_reducible apply keeps_serveWrite
    | with_reducible apply keeps_actPondJobStep
    | with_reducible apply keeps_run

theorem keeps_actJobDirect {s0 : State} {q : Req} {l : List Nat} {s : State} (hs : Keeps s0 s) :
    KeepsAct s0 (actJobDirect q l s) := by
  unfold actJobDirect
  repeat' first
    | with_reducible assumption
    | with_reducible apply keeps_refuse
    | with_reducible apply keeps_ownPart
    | with_reducible apply keeps_actDone
    | with_reducible apply keeps_actRefuse
    | split
    | refine keeps_fst ‹_ = (_, _)› ?_

theorem keeps_memberOp {s0 : State} {s : State} {fromPos : Option Nat} {op v : Nat} {l : List Nat} (hs : Keeps s0 s) :
    Keeps s0 (memberOp s fromPos op v l) := by
  unfold memberOp
  repeat' first
    | with_reducible assumption
    | ((try lift_lets -underBinder); intro x; clear_value (hx : x = _); refine keeps_cut (s0 := s0) hx ?_ ?_ <;> clear hx)
    | ((try lift_lets -underBinder); intro x; clear_value (hx : x = _); refine keeps_cutPair (s0 := s0) hx ?_ ?_ <;> clear hx)
    | ((try lift_lets -underBinder); intro x; clear_value x)
    | (intro x; try beta_reduce)
    | with_reducible apply keeps_ownPart
    | with_reducible apply keeps_emit
    | with_reducible apply keeps_sendMgmt
    | with_reducible apply keeps_count
    | with_reducible apply keeps_forwardJob
    | with_reducible apply keeps_answerUp
    | split
    | refine keeps_fst ‹_ = (_, _)› ?_
    | (with_reducible apply keeps_mk; with_reducible assumption)

theorem keeps_execJobPrepare {s0 : State} {fromPos : Option Nat} {staging : Nat} {list : List Nat} {s : State} (hs : Keeps s0 s) :
    KeepsRes s0 (execJobPrepare fromPos staging list s) := by
  unfold execJobPrepare
  repeat' first
    | with_reducible assumption
    | (intro x; try beta_reduce)
    | with_reducible apply keeps_memberOp
    | with_reducible apply keeps_run

theorem keeps_execJobCommit {s0 : State} {fromPos : Option Nat} {startId : Nat} {s : State} (hs : Keeps s0 s) :
    KeepsRes s0 (execJobCommit fromPos startId s) := by
  unfold execJobCommit
  repeat' first
    | with_reducible assumption
    | (intro x; try beta_reduce)
    | with_reducible apply keeps_memberOp
    | with_reducible apply keeps_run

theorem keeps_execJobRun {s0 : State} {fromPos : Option Nat} {startId : Nat} {s : State} (hs : Keeps s0 s) :
    KeepsRes s0 (execJobRun fromPos startId s) := by
  unfold execJobRun
  repeat' first
    | with_reducible assumption
    | (intro x; try beta_reduce)
    | with_reducible apply keeps_memberOp
    | with_reducible apply keeps_run

theorem keeps_execJobAbort {s0 : State} {fromPos : Option Nat} {startId : Nat} {s : State} (hs : Keeps s0 s) :
    KeepsRes s0 (execJobAbort fromPos startId s) := by
  unfold execJobAbort
  repeat' first
    | with_reducible assumption
    | (intro x; try beta_reduce)
    | with_reducible apply keeps_memberOp
    | with_reducible apply keeps_run

theorem keeps_execJobTeardown {s0 : State} {fromPos : Option Nat} {s : State} (hs : Keeps s0 s) :
    KeepsRes s0 (execJobTeardown fromPos s) := by
  unfold execJobTeardown
  repeat' first
    | with_reducible assumption
    | (intro x; try beta_reduce)
    | with_reducible apply keeps_memberOp
    | with_reducible apply keeps_run

theorem keeps_execJobStepAnswer {s0 : State} {answers : List (Nat × Nat)} {s : State} (hs : Keeps s0 s) :
    KeepsRes s0 (execJobStepAnswer answers s) := by
  unfold execJobStepAnswer
  repeat' first
    | with_reducible assumption
    | (intro x; try beta_reduce)
    | with_reducible apply keeps_giveAnswers
    | with_reducible apply keeps_run

theorem keeps_execJobChildWaitExpiry {s0 : State} {s : State} (hs : Keeps s0 s) :
    KeepsRes s0 (execJobChildWaitExpiry s) := by
  unfold execJobChildWaitExpiry
  repeat' first
    | with_reducible assumption
    | ((try lift_lets -underBinder); intro x; clear_value (hx : x = _); refine keeps_cut (s0 := s0) hx ?_ ?_ <;> clear hx)
    | ((try lift_lets -underBinder); intro x; clear_value x)
    | (intro x; try beta_reduce)
    | with_reducible apply keeps_answerUp
    | with_reducible apply keeps_run
    | split
    | (with_reducible apply keeps_mk; with_reducible assumption)

theorem keeps_execJobStepTimeout {s0 : State} {s : State} (hs : Keeps s0 s) :
    KeepsRes s0 (execJobStepTimeout s) := by
  unfold execJobStepTimeout
  repeat' first
    | with_reducible assumption
    | (intro x; try beta_reduce)
    | with_reducible apply keeps_finishJobStep
    | with_reducible apply keeps_run
    | split

theorem keeps_clearAqueducts {s0 : State} {s : State} (hs : Keeps s0 s) :
    Keeps s0 (clearAqueducts s) := by
  unfold clearAqueducts
  repeat' first
    | with_reducible assumption
    | ((try lift_lets -underBinder); intro x; clear_value (hx : x = _); refine keeps_cut (s0 := s0) hx ?_ ?_ <;> clear hx)
    | ((try lift_lets -underBinder); intro x; clear_value x)
    | (intro x; try beta_reduce)
    | with_reducible apply keeps_forEach
    | split
    | (with_reducible apply keeps_mk; first | with_reducible assumption)

theorem keeps_unloadAll {s0 : State} {s : State} (hs : Keeps s0 s) :
    Keeps s0 (unloadAll s) := by
  unfold unloadAll
  repeat' first
    | with_reducible assumption
    | (intro x; try beta_reduce)
    | with_reducible apply keeps_releaseCtx
    | with_reducible apply keeps_closeRing
    | with_reducible apply keeps_forEach

theorem keeps_enterClean {s0 s : State} (hs : Keeps s0 s) : Keeps s0 (enterClean s) := by
  have h : Keeps s0 (clearWindows (clearAqueducts (unloadAll s))) := keeps_clearWindows (keeps_clearAqueducts (keeps_unloadAll hs))
  unfold enterClean
  exact keeps_newKey (keeps_setE (keeps_setE (keeps_setE (keeps_setE
    (keeps_wipe h rfl rfl rfl rfl (.inl rfl) (.inr rfl) rfl)))))

theorem keeps_execTeardownComplete {s0 : State} {s : State} (hs : Keeps s0 s) :
    KeepsRes s0 (execTeardownComplete s) := by
  unfold execTeardownComplete
  repeat' first
    | with_reducible assumption
    | ((try lift_lets -underBinder); intro x; clear_value (hx : x = _); refine keeps_cut (s0 := s0) hx ?_ ?_ <;> clear hx)
    | ((try lift_lets -underBinder); intro x; clear_value x)
    | (intro x; try beta_reduce)
    | with_reducible apply keeps_giveAnswers
    | with_reducible apply keeps_enterClean
    | with_reducible apply keeps_answerUp
    | with_reducible apply keeps_run
    | split
    | (with_reducible apply keeps_mk; with_reducible assumption)

end Sys2Proof.Machine
end

