-- ==== Sys2Proof/Laws/KeepsPackage.lean ====
section
/-! SUPPORT. One lemma per operation of rings, links, interrupts, power, security, and the whole dictionary: it keeps what every command keeps (Laws/Keeps.lean). -/

namespace Sys2Proof.Machine

/-! ### Machine/Ring.lean -/

theorem keeps_actSubmitDoorbell {s0 : State} {q : Req} {s : State} (hs : Keeps s0 s) :
    KeepsAct s0 (actSubmitDoorbell q s) := by
  unfold actSubmitDoorbell
  repeat' first
    | with_reducible assumption
    | ((try lift_lets -underBinder); intro x; clear_value (hx : x = _); refine keeps_cut (s0 := s0) hx ?_ ?_ <;> clear hx)
    | ((try lift_lets -underBinder); intro x; clear_value x)
    | (intro x; try beta_reduce)
    | with_reducible apply keeps_refuse
    | with_reducible apply keeps_noteRunnable
    | with_reducible apply keeps_setE
    | with_reducible apply keeps_actDone
    | with_reducible apply keeps_actRefuse
    | split

theorem keeps_execSubmitDoorbell {s0 : State} {q : Req} {s : State} (hs : Keeps s0 s) :
    KeepsRes s0 (execSubmitDoorbell q s) := by
  unfold execSubmitDoorbell
  repeat' first
    | with_reducible assumption
    | (intro x; try beta_reduce)
    | with_reducible apply keeps_serveWrite
    | with_reducible apply keeps_actSubmitDoorbell
    | with_reducible apply keeps_run

theorem keeps_takeEntry {s0 : State} {s : State} {c : Nat} (hs : Keeps s0 s) :
    Keeps s0 (takeEntry s c) := by
  unfold takeEntry
  repeat' first
    | with_reducible assumption
    | ((try lift_lets -underBinder); intro x; clear_value (hx : x = _); refine keeps_cut (s0 := s0) hx ?_ ?_ <;> clear hx)
    | ((try lift_lets -underBinder); intro x; clear_value x)
    | (intro x; try beta_reduce)
    | with_reducible apply keeps_count
    | with_reducible apply keeps_setRing

theorem keeps_postEntry {s0 : State} {s : State} {c : Nat} {e : RingEntry} {code : Nat} (hs : Keeps s0 s) :
    Keeps s0 (postEntry s c e code) := by
  unfold postEntry
  repeat' first
    | with_reducible assumption
    | with_reducible apply keeps_post
    | with_reducible apply keeps_postResult
    | split

theorem keeps_refuseEntry {s0 : State} {s : State} {c : Nat} {e : RingEntry} (hs : Keeps s0 s) :
    Keeps s0 (refuseEntry s c e) := by
  unfold refuseEntry
  repeat' first
    | with_reducible assumption
    | ((try lift_lets -underBinder); intro x; clear_value (hx : x = _); refine keeps_cut (s0 := s0) hx ?_ ?_ <;> clear hx)
    | ((try lift_lets -underBinder); intro x; clear_value x)
    | (intro x; try beta_reduce)
    | with_reducible apply keeps_takeEntry
    | with_reducible apply keeps_noteRefusal
    | with_reducible apply keeps_postEntry
    | with_reducible apply keeps_setE
    | split
    | (with_reducible apply keeps_mk; with_reducible assumption)

theorem keeps_execRingNop {s0 : State} {ring : Nat} {e : RingEntry} {s : State} (hs : Keeps s0 s) :
    KeepsRes s0 (execRingNop ring e s) := by
  unfold execRingNop
  repeat' first
    | with_reducible assumption
    | (intro x; try beta_reduce)
    | with_reducible apply keeps_refuseEntry
    | with_reducible apply keeps_postEntry
    | with_reducible apply keeps_takeEntry
    | with_reducible apply keeps_run
    | split

theorem keeps_addStep {s0 : State} {s : State} {c first : Nat} {desc : Nat → BitVec 256} {posts : List (Nat × Nat × Bool)} (hs : Keeps s0 s) :
    Keeps s0 (addStep s c first desc posts) := by
  unfold addStep
  repeat' first
    | with_reducible assumption
    | ((try lift_lets -underBinder); intro x; clear_value (hx : x = _); refine keeps_cut (s0 := s0) hx ?_ ?_ <;> clear hx)
    | ((try lift_lets -underBinder); intro x; clear_value x)
    | (intro x; try beta_reduce)
    | with_reducible apply keeps_count
    | with_reducible apply keeps_modCtx

theorem keeps_chunkStep {s0 : State} {s : State} {c : Nat} {p : Prompt} {extra : List (Nat × Nat × Bool)} (hs : Keeps s0 s) :
    Keeps s0 (chunkStep s c p extra) := by
  unfold chunkStep
  repeat' first
    | with_reducible assumption
    | ((try lift_lets -underBinder); intro x; clear_value (hx : x = _); refine keeps_cut (s0 := s0) hx ?_ ?_ <;> clear hx)
    | ((try lift_lets -underBinder); intro x; clear_value x)
    | (intro x; try beta_reduce)
    | with_reducible apply keeps_addStep
    | with_reducible apply keeps_count

theorem keeps_allChunks {s0 : State} {c : Nat} {x : List (Nat × Nat × Bool)} {n : Nat} : ∀ {p : Prompt} {s : State}, Keeps s0 s →
    Keeps s0 (allChunks c x n p s) := by
  induction n with
  | zero => intro p s h; exact h
  | succ n ih =>
    intro p s h
    simp only [allChunks]
    split
    · exact keeps_chunkStep h
    · exact ih (keeps_chunkStep h)

theorem keeps_flushPrompts {s0 : State} {c : Nat} {x : List (Nat × Nat × Bool)} {l : List Prompt} : ∀ {s : State}, Keeps s0 s →
    Keeps s0 (flushPrompts c x l s) := by
  induction l with
  | nil => intro s h; exact h
  | cons p l ih =>
    intro s h
    cases l with
    | nil => exact keeps_allChunks h
    | cons q t => exact ih (keeps_allChunks h)

theorem keeps_formStep {s0 : State} {s : State} {c i : Nat} {e : RingEntry} (hs : Keeps s0 s) :
    Keeps s0 (formStep s c i e) := by
  unfold formStep
  repeat' first
    | with_reducible assumption
    | ((try lift_lets -underBinder); intro x; clear_value (hx : x = _); refine keeps_cut (s0 := s0) hx ?_ ?_ <;> clear hx)
    | ((try lift_lets -underBinder); intro x; clear_value x)
    | (intro x; try beta_reduce)
    | with_reducible apply keeps_modCtx
    | with_reducible apply keeps_addStep
    | with_reducible apply keeps_count
    | with_reducible apply keeps_postEntry
    | split

theorem keeps_execRingStep {s0 : State} {ring : Nat} {e : RingEntry} {s : State} (hs : Keeps s0 s) :
    KeepsRes s0 (execRingStep ring e s) := by
  unfold execRingStep
  repeat' first
    | with_reducible assumption
    | ((try lift_lets -underBinder); intro x; clear_value (hx : x = _); refine keeps_cut (s0 := s0) hx ?_ ?_ <;> clear hx)
    | ((try lift_lets -underBinder); intro x; clear_value x)
    | (intro x; try beta_reduce)
    | with_reducible apply keeps_count
    | with_reducible apply keeps_refuseEntry
    | with_reducible apply keeps_finishYield
    | with_reducible apply keeps_formStep
    | with_reducible apply keeps_takeEntry
    | with_reducible apply keeps_run
    | split

theorem keeps_execRingPrefill {s0 : State} {ring : Nat} {e : RingEntry} {s : State} (hs : Keeps s0 s) :
    KeepsRes s0 (execRingPrefill ring e s) := by
  unfold execRingPrefill
  repeat' first
    | with_reducible assumption
    | ((try lift_lets -underBinder); intro x; clear_value (hx : x = _); refine keeps_cut (s0 := s0) hx ?_ ?_ <;> clear hx)
    | ((try lift_lets -underBinder); intro x; clear_value x)
    | (intro x; try beta_reduce)
    | with_reducible apply keeps_count
    | with_reducible apply keeps_refuseEntry
    | with_reducible apply keeps_takeEntry
    | with_reducible apply keeps_modCtx
    | with_reducible apply keeps_finishYield
    | with_reducible apply keeps_allChunks
    | with_reducible apply keeps_run
    | split

theorem keeps_execRingFlush {s0 : State} {ring : Nat} {e : RingEntry} {s : State} (hs : Keeps s0 s) :
    KeepsRes s0 (execRingFlush ring e s) := by
  unfold execRingFlush
  repeat' first
    | with_reducible assumption
    | ((try lift_lets -underBinder); intro x; clear_value (hx : x = _); refine keeps_cut (s0 := s0) hx ?_ ?_ <;> clear hx)
    | ((try lift_lets -underBinder); intro x; clear_value x)
    | (intro x; try beta_reduce)
    | with_reducible apply keeps_refuseEntry
    | with_reducible apply keeps_modCtx
    | with_reducible apply keeps_takeEntry
    | with_reducible apply keeps_postEntry
    | with_reducible apply keeps_finishYield
    | with_reducible apply keeps_flushPrompts
    | with_reducible apply keeps_run
    | split

theorem keeps_execRingReadError {s0 : State} {ring : Nat} {s : State} (hs : Keeps s0 s) :
    KeepsRes s0 (execRingReadError ring s) := by
  unfold execRingReadError
  repeat' first
    | with_reducible assumption
    | (intro x; try beta_reduce)
    | with_reducible apply keeps_raise1
    | with_reducible apply keeps_setE
    | with_reducible apply keeps_run
    | split

theorem keeps_actRingEnable {s0 : State} {c : Nat} {q : Req} {s : State} (hs : Keeps s0 s) :
    KeepsAct s0 (actRingEnable c q s) := by
  unfold actRingEnable
  repeat' first
    | with_reducible assumption
    | ((try lift_lets -underBinder); intro x; clear_value (hx : x = _); refine keeps_cut (s0 := s0) hx ?_ ?_ <;> clear hx)
    | ((try lift_lets -underBinder); intro x; clear_value x)
    | (intro x; try beta_reduce)
    | with_reducible apply keeps_setE
    | with_reducible apply keeps_setRing
    | with_reducible apply keeps_makeAllPosts
    | with_reducible apply keeps_clearMailboxes
    | with_reducible apply keeps_actDone
    | split

theorem keeps_execRingEnable {s0 : State} {ctx : Nat} {q : Req} {s : State} (hs : Keeps s0 s) :
    KeepsRes s0 (execRingEnable ctx q s) := by
  unfold execRingEnable
  repeat' first
    | with_reducible assumption
    | (intro x; try beta_reduce)
    | with_reducible apply keeps_serveWrite
    | with_reducible apply keeps_actRingEnable
    | with_reducible apply keeps_run

theorem keeps_actRingResume {s0 : State} {c : Nat} {s : State} (hs : Keeps s0 s) :
    KeepsAct s0 (actRingResume c s) := by
  unfold actRingResume
  repeat' first
    | with_reducible assumption
    | with_reducible apply keeps_setE
    | with_reducible apply keeps_actDone
    | split

theorem keeps_execRingResume {s0 : State} {ctx : Nat} {q : Req} {s : State} (hs : Keeps s0 s) :
    KeepsRes s0 (execRingResume ctx q s) := by
  unfold execRingResume
  repeat' first
    | with_reducible assumption
    | (intro x; try beta_reduce)
    | with_reducible apply keeps_serveWrite
    | with_reducible apply keeps_actRingResume
    | with_reducible apply keeps_run

theorem keeps_actRingSet {s0 : State} {c sub : Nat} {q : Req} {s : State} (hs : Keeps s0 s) :
    KeepsAct s0 (actRingSet c sub q s) := by
  unfold actRingSet
  repeat' first
    | with_reducible assumption
    | with_reducible apply keeps_refuse
    | with_reducible apply keeps_setE
    | with_reducible apply keeps_actDone
    | with_reducible apply keeps_actRefuse
    | split

theorem keeps_actResultRelease {s0 : State} {m : Nat} {q : Req} {s : State} (hs : Keeps s0 s) :
    KeepsAct s0 (actResultRelease m q s) := by
  unfold actResultRelease
  repeat' first
    | with_reducible assumption
    | ((try lift_lets -underBinder); intro x; clear_value (hx : x = _); refine keeps_cut (s0 := s0) hx ?_ ?_ <;> clear hx)
    | ((try lift_lets -underBinder); intro x; clear_value x)
    | (intro x; try beta_reduce)
    | with_reducible apply keeps_makePosts
    | with_reducible apply keeps_setMailbox
    | with_reducible apply keeps_refuse
    | with_reducible apply keeps_actDone
    | with_reducible apply keeps_actRefuse
    | split

theorem keeps_execResultRelease {s0 : State} {mailbox : Nat} {q : Req} {s : State} (hs : Keeps s0 s) :
    KeepsRes s0 (execResultRelease mailbox q s) := by
  unfold execResultRelease
  repeat' first
    | with_reducible assumption
    | (intro x; try beta_reduce)
    | with_reducible apply keeps_serveWrite
    | with_reducible apply keeps_actResultRelease
    | with_reducible apply keeps_run

theorem keeps_markRead {s0 : State} {c m : Nat} {s : State} (hs : Keeps s0 s) :
    Keeps s0 (markRead c m s) := by
  unfold markRead
  repeat' first
    | with_reducible assumption
    | ((try lift_lets -underBinder); intro x; clear_value (hx : x = _); refine keeps_cut (s0 := s0) hx ?_ ?_ <;> clear hx)
    | ((try lift_lets -underBinder); intro x; clear_value x)
    | (intro x; try beta_reduce)
    | with_reducible apply keeps_setMailbox
    | split

theorem keeps_execResultMailboxRead {s0 : State} {mailbox : Nat} {q : Req} {s : State} (hs : Keeps s0 s) :
    KeepsRes s0 (execResultMailboxRead mailbox q s) := by
  unfold execResultMailboxRead
  repeat' first
    | with_reducible assumption
    | (intro x; try beta_reduce)
    | with_reducible apply keeps_serveRead
    | with_reducible apply keeps_markRead
    | with_reducible apply keeps_run

/-! ### Machine/Link.lean -/

theorem keeps_resendFlits {s0 : State} {s : State} (hs : Keeps s0 s) :
    Keeps s0 (resendFlits s) := by
  unfold resendFlits
  repeat' first
    | with_reducible assumption
    | ((try lift_lets -underBinder); intro x; clear_value (hx : x = _); refine keeps_cut (s0 := s0) hx ?_ ?_ <;> clear hx)
    | ((try lift_lets -underBinder); intro x; clear_value x)
    | (intro x; try beta_reduce)
    | with_reducible apply keeps_emit
    | with_reducible apply keeps_count
    | with_reducible apply keeps_forEach
    | (with_reducible apply keeps_mk; with_reducible assumption)

theorem keeps_retrainUmora {s0 : State} {s : State} (hs : Keeps s0 s) :
    Keeps s0 (retrainUmora s) := by
  unfold retrainUmora
  repeat' first
    | with_reducible assumption
    | ((try lift_lets -underBinder); intro x; clear_value (hx : x = _); refine keeps_cut (s0 := s0) hx ?_ ?_ <;> clear hx)
    | ((try lift_lets -underBinder); intro x; clear_value x)
    | (intro x; try beta_reduce)
    | with_reducible apply keeps_count
    | with_reducible apply keeps_setE
    | (with_reducible apply keeps_mk; with_reducible assumption)

theorem keeps_answerFlit {s0 : State} {s : State} {nak : Bool} (hs : Keeps s0 s) :
    Keeps s0 (answerFlit s nak) := by
  unfold answerFlit
  repeat' first
    | with_reducible assumption
    | ((try lift_lets -underBinder); intro x; clear_value (hx : x = _); refine keeps_cut (s0 := s0) hx ?_ ?_ <;> clear hx)
    | ((try lift_lets -underBinder); intro x; clear_value x)
    | (intro x; try beta_reduce)
    | with_reducible apply keeps_emit

theorem keeps_discardFlit {s0 : State} {s : State} (hs : Keeps s0 s) :
    Keeps s0 (discardFlit s) := by
  unfold discardFlit
  repeat' first
    | with_reducible assumption
    | ((try lift_lets -underBinder); intro x; clear_value (hx : x = _); refine keeps_cut (s0 := s0) hx ?_ ?_ <;> clear hx)
    | ((try lift_lets -underBinder); intro x; clear_value x)
    | (intro x; try beta_reduce)
    | with_reducible apply keeps_answerFlit
    | with_reducible apply keeps_count
    | (with_reducible apply keeps_mk; with_reducible assumption)

theorem keeps_takeHeader {s0 : State} {s : State} {f : Flit} (hs : Keeps s0 s) :
    Keeps s0 (takeHeader s f) := by
  unfold takeHeader
  repeat' first
    | with_reducible assumption
    | ((try lift_lets -underBinder); intro x; clear_value (hx : x = _); refine keeps_cut (s0 := s0) hx ?_ ?_ <;> clear hx)
    | ((try lift_lets -underBinder); intro x; clear_value x)
    | (intro x; try beta_reduce)
    | with_reducible apply keeps_resendFlits
    | with_reducible apply keeps_retrainUmora
    | split
    | (with_reducible apply keeps_mk; with_reducible assumption)

theorem keeps_execFlitReceived {s0 : State} {f : Flit} {s : State} (hs : Keeps s0 s) :
    KeepsRes s0 (execFlitReceived f s) := by
  unfold execFlitReceived
  repeat' first
    | with_reducible assumption
    | ((try lift_lets -underBinder); intro x; clear_value (hx : x = _); refine keeps_cut (s0 := s0) hx ?_ ?_ <;> clear hx)
    | ((try lift_lets -underBinder); intro x; clear_value x)
    | (intro x; try beta_reduce)
    | with_reducible apply keeps_discardFlit
    | with_reducible apply keeps_answerFlit
    | with_reducible apply keeps_pumpUmora
    | with_reducible apply keeps_takeHeader
    | with_reducible apply keeps_run
    | split
    | (with_reducible apply keeps_mk; with_reducible assumption)

theorem keeps_execUmoraLockLoss {s0 : State} {s : State} (hs : Keeps s0 s) :
    KeepsRes s0 (execUmoraLockLoss s) := by
  unfold execUmoraLockLoss
  repeat' first
    | with_reducible assumption
    | (intro x; try beta_reduce)
    | with_reducible apply keeps_retrainUmora
    | with_reducible apply keeps_run
    | split

theorem keeps_actLinkRetrain {s0 : State} {s : State} (hs : Keeps s0 s) :
    KeepsAct s0 (actLinkRetrain s) := by
  unfold actLinkRetrain
  repeat' first
    | with_reducible assumption
    | with_reducible apply keeps_retrainUmora
    | with_reducible apply keeps_actDone

theorem keeps_execLinkRetrain {s0 : State} {q : Req} {s : State} (hs : Keeps s0 s) :
    KeepsRes s0 (execLinkRetrain q s) := by
  unfold execLinkRetrain
  repeat' first
    | with_reducible assumption
    | (intro x; try beta_reduce)
    | with_reducible apply keeps_serveWrite
    | with_reducible apply keeps_actLinkRetrain
    | with_reducible apply keeps_run

theorem keeps_execUmoraTrainingComplete {s0 : State} {lanes : Nat} {roundTrip : Nat} {s : State} (hs : Keeps s0 s) :
    KeepsRes s0 (execUmoraTrainingComplete lanes roundTrip s) := by
  unfold execUmoraTrainingComplete
  repeat' first
    | with_reducible assumption
    | ((try lift_lets -underBinder); intro x; clear_value (hx : x = _); refine keeps_cut (s0 := s0) hx ?_ ?_ <;> clear hx)
    | ((try lift_lets -underBinder); intro x; clear_value x)
    | (intro x; try beta_reduce)
    | with_reducible apply keeps_setE
    | with_reducible apply keeps_resendFlits
    | with_reducible apply keeps_pumpUmora
    | with_reducible apply keeps_raise
    | with_reducible apply keeps_run
    | split
    | (with_reducible apply keeps_mk; with_reducible assumption)

theorem keeps_failHostFills {s0 : State} {s : State} (hs : Keeps s0 s) :
    Keeps s0 (failHostFills s) := by
  unfold failHostFills
  repeat' first
    | with_reducible assumption
    | ((try lift_lets -underBinder); intro x; clear_value (hx : x = _); refine keeps_cut (s0 := s0) hx ?_ ?_ <;> clear hx)
    | ((try lift_lets -underBinder); intro x; clear_value x)
    | (intro x; try beta_reduce)
    | split
    | (with_reducible apply keeps_mk; with_reducible assumption)

theorem keeps_execUmoraDown {s0 : State} {s : State} (hs : Keeps s0 s) :
    KeepsRes s0 (execUmoraDown s) := by
  unfold execUmoraDown
  repeat' first
    | with_reducible assumption
    | ((try lift_lets -underBinder); intro x; clear_value (hx : x = _); refine keeps_cut (s0 := s0) hx ?_ ?_ <;> clear hx)
    | ((try lift_lets -underBinder); intro x; clear_value x)
    | (intro x; try beta_reduce)
    | with_reducible apply keeps_failHostFills
    | with_reducible apply keeps_raise
    | with_reducible apply keeps_dropDma
    | with_reducible apply keeps_startDma
    | with_reducible apply keeps_dmaError
    | with_reducible apply keeps_forEach
    | with_reducible apply keeps_run
    | split
    | (with_reducible apply keeps_mk; with_reducible assumption)

theorem keeps_execHostCompletion {s0 : State} {tag status : Nat} {last : Bool} {bytes : List (BitVec 8)} {s : State} (hs : Keeps s0 s) :
    KeepsRes s0 (execHostCompletion tag status last bytes s) := by
  unfold execHostCompletion
  repeat' first
    | with_reducible assumption
    | ((try lift_lets -underBinder); intro x; clear_value (hx : x = _); refine keeps_cut (s0 := s0) hx ?_ ?_ <;> clear hx)
    | ((try lift_lets -underBinder); intro x; clear_value x)
    | (intro x; try beta_reduce)
    | with_reducible apply keeps_pumpUmora
    | with_reducible apply keeps_run
    | split
    | (with_reducible apply keeps_mk; with_reducible assumption)

theorem keeps_setTimeValid {s0 : State} {s : State} {v : Bool} (hs : Keeps s0 s) :
    Keeps s0 (setTimeValid s v) := by
  unfold setTimeValid
  repeat' first
    | with_reducible assumption
    | ((try lift_lets -underBinder); intro x; clear_value (hx : x = _); refine keeps_cut (s0 := s0) hx ?_ ?_ <;> clear hx)
    | ((try lift_lets -underBinder); intro x; clear_value x)
    | (intro x; try beta_reduce)
    | with_reducible apply keeps_setE
    | with_reducible apply keeps_raise1
    | split

theorem keeps_execTimeBeacon {s0 : State} {beaconTime arrivalTime : Nat} {s : State} (hs : Keeps s0 s) :
    KeepsRes s0 (execTimeBeacon beaconTime arrivalTime s) := by
  unfold execTimeBeacon
  repeat' first
    | with_reducible assumption
    | ((try lift_lets -underBinder); intro x; clear_value (hx : x = _); refine keeps_cut (s0 := s0) hx ?_ ?_ <;> clear hx)
    | ((try lift_lets -underBinder); intro x; clear_value x)
    | (intro x; try beta_reduce)
    | with_reducible apply keeps_hostTaken
    | with_reducible apply keeps_setE
    | with_reducible apply keeps_count
    | with_reducible apply keeps_setTimeValid
    | with_reducible apply keeps_run
    | split
    | (with_reducible apply keeps_mk; with_reducible assumption)

theorem keeps_execBadMessage {s0 : State} {code : Nat} {s : State} (hs : Keeps s0 s) :
    KeepsRes s0 (execBadMessage code s) := by
  unfold execBadMessage
  repeat' first
    | with_reducible assumption
    | (intro x; try beta_reduce)
    | with_reducible apply keeps_count
    | with_reducible apply keeps_hostTaken
    | with_reducible apply keeps_run
    | split

theorem keeps_execHoldoverExpiry {s0 : State} {s : State} (hs : Keeps s0 s) :
    KeepsRes s0 (execHoldoverExpiry s) := by
  unfold execHoldoverExpiry
  repeat' first
    | with_reducible assumption
    | (intro x; try beta_reduce)
    | with_reducible apply keeps_setTimeValid
    | with_reducible apply keeps_run

theorem keeps_tickClock {s0 : State} {s : State} (hs : Keeps s0 s) :
    Keeps s0 (tickClock s) := by
  unfold tickClock
  repeat' first
    | with_reducible assumption
    | ((try lift_lets -underBinder); intro x; clear_value (hx : x = _); refine keeps_cut (s0 := s0) hx ?_ ?_ <;> clear hx)
    | ((try lift_lets -underBinder); intro x; clear_value x)
    | (intro x; try beta_reduce)
    | with_reducible apply keeps_countBy
    | (with_reducible apply keeps_mk; with_reducible assumption)

/-! ### Machine/Irq.lean -/

theorem keeps_failProcessor {s0 : State} {s : State} {f : Fault16} (hs : Keeps s0 s) :
    Keeps s0 (failProcessor s f) := by
  unfold failProcessor
  repeat' first
    | with_reducible assumption
    | ((try lift_lets -underBinder); intro x; clear_value (hx : x = _); refine keeps_cut (s0 := s0) hx ?_ ?_ <;> clear hx)
    | ((try lift_lets -underBinder); intro x; clear_value x)
    | (intro x; try beta_reduce)
    | split
    | (with_reducible apply keeps_mk; first | with_reducible assumption)

theorem keeps_stopParity {s0 : State} {s : State} {f : Fault16} (hs : Keeps s0 s) :
    Keeps s0 (stopParity s f) := by
  unfold stopParity
  repeat' first
    | with_reducible assumption
    | with_reducible apply keeps_stopAt
    | split

theorem keeps_loseAccumulator {s0 : State} {s : State} {f : Fault16} (hs : Keeps s0 s) :
    Keeps s0 (loseAccumulator s f) := by
  unfold loseAccumulator
  repeat' first
    | with_reducible assumption
    | ((try lift_lets -underBinder); intro x; clear_value (hx : x = _); refine keeps_cut (s0 := s0) hx ?_ ?_ <;> clear hx)
    | ((try lift_lets -underBinder); intro x; clear_value x)
    | (intro x; try beta_reduce)
    | with_reducible apply keeps_endToken
    | with_reducible apply keeps_dropBufs
    | with_reducible apply keeps_modConf
    | with_reducible apply keeps_fresh
    | split

theorem keeps_execFaultReport {s0 : State} {fs : List Fault16} {s : State} (hs : Keeps s0 s) :
    KeepsRes s0 (execFaultReport fs s) := by
  unfold execFaultReport
  repeat' first
    | with_reducible assumption
    | ((try lift_lets -underBinder); intro x; clear_value (hx : x = _); refine keeps_cut (s0 := s0) hx ?_ ?_ <;> clear hx)
    | ((try lift_lets -underBinder); intro x; clear_value x)
    | (intro x; try beta_reduce)
    | with_reducible apply keeps_failProcessor
    | with_reducible apply keeps_stopParity
    | with_reducible apply keeps_loseAccumulator
    | with_reducible apply keeps_raise
    | with_reducible apply keeps_forEach
    | with_reducible apply keeps_run

theorem keeps_execReportWireStuck {s0 : State} {kind unit level : Nat} {s : State} (hs : Keeps s0 s) :
    KeepsRes s0 (execReportWireStuck kind unit level s) := by
  unfold execReportWireStuck
  repeat' first
    | with_reducible assumption
    | ((try lift_lets -underBinder); intro x; clear_value (hx : x = _); refine keeps_cut (s0 := s0) hx ?_ ?_ <;> clear hx)
    | ((try lift_lets -underBinder); intro x; clear_value x)
    | (intro x; try beta_reduce)
    | with_reducible apply keeps_raise1
    | with_reducible apply keeps_run
    | split
    | (with_reducible apply keeps_mk; with_reducible assumption)

theorem keeps_ackRecords {s0 : State} {s : State} {v : Nat} (hs : Keeps s0 s) :
    Keeps s0 (ackRecords s v) := by
  unfold ackRecords
  repeat' first
    | with_reducible assumption
    | ((try lift_lets -underBinder); intro x; clear_value (hx : x = _); refine keeps_cut (s0 := s0) hx ?_ ?_ <;> clear hx)
    | ((try lift_lets -underBinder); intro x; clear_value x)
    | (intro x; try beta_reduce)
    | split
    | (with_reducible apply keeps_mk; first | with_reducible assumption)

theorem keeps_actFaultAck {s0 : State} {q : Req} {s : State} (hs : Keeps s0 s) :
    KeepsAct s0 (actFaultAck q s) := by
  unfold actFaultAck
  repeat' first
    | with_reducible assumption
    | with_reducible apply keeps_ackRecords
    | with_reducible apply keeps_actDone

theorem keeps_execFaultAck {s0 : State} {q : Req} {s : State} (hs : Keeps s0 s) :
    KeepsRes s0 (execFaultAck q s) := by
  unfold execFaultAck
  repeat' first
    | with_reducible assumption
    | (intro x; try beta_reduce)
    | with_reducible apply keeps_serveWrite
    | with_reducible apply keeps_actFaultAck
    | with_reducible apply keeps_run

theorem keeps_execCAckHoldExpiry {s0 : State} {s : State} (hs : Keeps s0 s) :
    KeepsRes s0 (execCAckHoldExpiry s) := by
  unfold execCAckHoldExpiry
  repeat' first
    | with_reducible assumption
    | (intro x; try beta_reduce)
    | with_reducible apply keeps_ackRecords
    | with_reducible apply keeps_run
    | split

theorem keeps_setPondFault {s0 : State} {s : State} {p v : Nat} (hs : Keeps s0 s) :
    Keeps s0 (setPondFault s p v) := by
  unfold setPondFault
  repeat' first
    | with_reducible assumption
    | ((try lift_lets -underBinder); intro x; clear_value (hx : x = _); refine keeps_cut (s0 := s0) hx ?_ ?_ <;> clear hx)
    | ((try lift_lets -underBinder); intro x; clear_value x)
    | (intro x; try beta_reduce)
    | (with_reducible apply keeps_mk; first | with_reducible assumption)

theorem keeps_sendSummary {s0 : State} {s : State} (hs : Keeps s0 s) :
    Keeps s0 (sendSummary s) := by
  unfold sendSummary
  repeat' first
    | with_reducible assumption
    | ((try lift_lets -underBinder); intro x; clear_value (hx : x = _); refine keeps_cut (s0 := s0) hx ?_ ?_ <;> clear hx)
    | ((try lift_lets -underBinder); intro x; clear_value x)
    | (intro x; try beta_reduce)
    | with_reducible apply keeps_setPondFault
    | with_reducible apply keeps_inject
    | with_reducible apply keeps_emit
    | split
    | (with_reducible apply keeps_mk; with_reducible assumption)

theorem keeps_execFaultSummarySend {s0 : State} {s : State} (hs : Keeps s0 s) :
    KeepsRes s0 (execFaultSummarySend s) := by
  unfold execFaultSummarySend
  repeat' first
    | with_reducible assumption
    | (intro x; try beta_reduce)
    | with_reducible apply keeps_sendSummary
    | with_reducible apply keeps_run
    | split

theorem keeps_execFaultSummary {s0 : State} {fromPos byte : Nat} {s : State} (hs : Keeps s0 s) :
    KeepsRes s0 (execFaultSummary fromPos byte s) := by
  unfold execFaultSummary
  repeat' first
    | with_reducible assumption
    | (intro x; try beta_reduce)
    | with_reducible apply keeps_setPondFault
    | with_reducible apply keeps_run
    | split

theorem keeps_execSummaryStale {s0 : State} {pos : Nat} {s : State} (hs : Keeps s0 s) :
    KeepsRes s0 (execSummaryStale pos s) := by
  unfold execSummaryStale
  repeat' first
    | with_reducible assumption
    | (intro x; try beta_reduce)
    | with_reducible apply keeps_setPondFault
    | with_reducible apply keeps_run
    | split

theorem keeps_setPending {s0 : State} {s : State} {n : Nat} {v : Bool} (hs : Keeps s0 s) :
    Keeps s0 (setPending s n v) := by
  unfold setPending
  repeat' first
    | with_reducible assumption
    | ((try lift_lets -underBinder); intro x; clear_value (hx : x = _); refine keeps_cut (s0 := s0) hx ?_ ?_ <;> clear hx)
    | ((try lift_lets -underBinder); intro x; clear_value x)
    | (intro x; try beta_reduce)
    | with_reducible apply keeps_setE

theorem keeps_samplePending {s0 : State} {s : State} (hs : Keeps s0 s) :
    Keeps s0 (samplePending s) := by
  unfold samplePending
  repeat' first
    | with_reducible assumption
    | (intro x; try beta_reduce)
    | with_reducible apply keeps_setPending
    | with_reducible apply keeps_forEach
    | split

theorem keeps_execInterruptSelect {s0 : State} {target : Nat} {s : State} (hs : Keeps s0 s) :
    KeepsRes s0 (execInterruptSelect target s) := by
  unfold execInterruptSelect
  repeat' first
    | with_reducible assumption
    | ((try lift_lets -underBinder); intro x; clear_value (hx : x = _); refine keeps_cut (s0 := s0) hx ?_ ?_ <;> clear hx)
    | ((try lift_lets -underBinder); intro x; clear_value x)
    | (intro x; try beta_reduce)
    | with_reducible apply keeps_samplePending
    | with_reducible apply keeps_setPending
    | with_reducible apply keeps_run
    | split
    | (with_reducible apply keeps_mk; with_reducible assumption)

theorem keeps_execInterruptDelivery {s0 : State} {source : Nat} {s : State} (hs : Keeps s0 s) :
    KeepsRes s0 (execInterruptDelivery source s) := by
  unfold execInterruptDelivery
  repeat' first
    | with_reducible assumption
    | ((try lift_lets -underBinder); intro x; clear_value (hx : x = _); refine keeps_cut (s0 := s0) hx ?_ ?_ <;> clear hx)
    | ((try lift_lets -underBinder); intro x; clear_value x)
    | (intro x; try beta_reduce)
    | with_reducible apply keeps_count
    | with_reducible apply keeps_emit
    | with_reducible apply keeps_run
    | split
    | (with_reducible apply keeps_mk; with_reducible assumption)

theorem keeps_endInterrupt {s0 : State} {s : State} {t n : Nat} (hs : Keeps s0 s) :
    Keeps s0 (endInterrupt s t n) := by
  unfold endInterrupt
  repeat' first
    | with_reducible assumption
    | ((try lift_lets -underBinder); intro x; clear_value (hx : x = _); refine keeps_cut (s0 := s0) hx ?_ ?_ <;> clear hx)
    | ((try lift_lets -underBinder); intro x; clear_value x)
    | (intro x; try beta_reduce)
    | with_reducible apply keeps_setPending
    | split
    | (with_reducible apply keeps_mk; with_reducible assumption)

theorem keeps_execMgmtEoi {s0 : State} {target source : Nat} {s : State} (hs : Keeps s0 s) :
    KeepsRes s0 (execMgmtEoi target source s) := by
  unfold execMgmtEoi
  repeat' first
    | with_reducible assumption
    | (intro x; try beta_reduce)
    | with_reducible apply keeps_endInterrupt
    | with_reducible apply keeps_raise1
    | with_reducible apply keeps_count
    | with_reducible apply keeps_run
    | split

theorem keeps_actHostEoi {s0 : State} {q : Req} {s : State} (hs : Keeps s0 s) :
    KeepsAct s0 (actHostEoi q s) := by
  unfold actHostEoi
  repeat' first
    | with_reducible assumption
    | with_reducible apply keeps_endInterrupt
    | with_reducible apply keeps_refuse
    | with_reducible apply keeps_count
    | with_reducible apply keeps_actDone
    | with_reducible apply keeps_actRefuse
    | split

theorem keeps_execHostEoi {s0 : State} {q : Req} {s : State} (hs : Keeps s0 s) :
    KeepsRes s0 (execHostEoi q s) := by
  unfold execHostEoi
  repeat' first
    | with_reducible assumption
    | (intro x; try beta_reduce)
    | with_reducible apply keeps_serveWrite
    | with_reducible apply keeps_actHostEoi
    | with_reducible apply keeps_run

theorem keeps_actServe {s0 : State} {n : Nat} {s : State} (hs : Keeps s0 s) :
    KeepsAct s0 (actServe n s) := by
  unfold actServe
  repeat' first
    | with_reducible assumption
    | ((try lift_lets -underBinder); intro x; clear_value (hx : x = _); refine keeps_cut (s0 := s0) hx ?_ ?_ <;> clear hx)
    | ((try lift_lets -underBinder); intro x; clear_value x)
    | (intro x; try beta_reduce)
    | with_reducible apply keeps_refuse
    | with_reducible apply keeps_actDone
    | with_reducible apply keeps_actRefuse
    | split
    | (with_reducible apply keeps_mk; with_reducible assumption)

theorem keeps_execServe {s0 : State} {source : Nat} {q : Req} {s : State} (hs : Keeps s0 s) :
    KeepsRes s0 (execServe source q s) := by
  unfold execServe
  repeat' first
    | with_reducible assumption
    | (intro x; try beta_reduce)
    | with_reducible apply keeps_serveWrite
    | with_reducible apply keeps_actServe
    | with_reducible apply keeps_run

theorem keeps_actPending {s0 : State} {w : Nat} {q : Req} {s : State} (hs : Keeps s0 s) :
    KeepsAct s0 (actPending w q s) := by
  unfold actPending
  repeat' first
    | with_reducible assumption
    | with_reducible apply keeps_samplePending
    | with_reducible apply keeps_setE
    | with_reducible apply keeps_actDone

theorem keeps_execPendingWrite {s0 : State} {word : Nat} {q : Req} {s : State} (hs : Keeps s0 s) :
    KeepsRes s0 (execPendingWrite word q s) := by
  unfold execPendingWrite
  repeat' first
    | with_reducible assumption
    | (intro x; try beta_reduce)
    | with_reducible apply keeps_serveWrite
    | with_reducible apply keeps_actPending
    | with_reducible apply keeps_run

theorem keeps_actSourceConfig {s0 : State} {n : Nat} {q : Req} {s : State} (hs : Keeps s0 s) :
    KeepsAct s0 (actSourceConfig n q s) := by
  unfold actSourceConfig
  repeat' first
    | with_reducible assumption
    | with_reducible apply keeps_refuse
    | with_reducible apply keeps_setE
    | with_reducible apply keeps_actDone
    | with_reducible apply keeps_actRefuse
    | split

/-! ### Machine/Power.lean -/

theorem keeps_startWake {s0 : State} {s : State} (hs : Keeps s0 s) :
    Keeps s0 (startWake s) := by
  unfold startWake
  repeat' first
    | with_reducible assumption
    | ((try lift_lets -underBinder); intro x; clear_value (hx : x = _); refine keeps_cut (s0 := s0) hx ?_ ?_ <;> clear hx)
    | ((try lift_lets -underBinder); intro x; clear_value x)
    | (intro x; try beta_reduce)
    | with_reducible apply keeps_count
    | split
    | (with_reducible apply keeps_mk; with_reducible assumption)

theorem keeps_wakeNow {s0 : State} {s : State} (hs : Keeps s0 s) :
    Keeps s0 (wakeNow s) := by
  unfold wakeNow
  repeat' first
    | with_reducible assumption
    | ((try lift_lets -underBinder); intro x; clear_value (hx : x = _); refine keeps_cut (s0 := s0) hx ?_ ?_ <;> clear hx)
    | ((try lift_lets -underBinder); intro x; clear_value x)
    | (intro x; try beta_reduce)
    | with_reducible apply keeps_startWake
    | split
    | (with_reducible apply keeps_mk; with_reducible assumption)

theorem keeps_inPowerState {s0 : State} {s : State} {k : Nat} (hs : Keeps s0 s) :
    Keeps s0 (inPowerState s k) := by
  unfold inPowerState
  repeat' first
    | with_reducible assumption
    | ((try lift_lets -underBinder); intro x; clear_value (hx : x = _); refine keeps_cut (s0 := s0) hx ?_ ?_ <;> clear hx)
    | ((try lift_lets -underBinder); intro x; clear_value x)
    | (intro x; try beta_reduce)
    | with_reducible apply keeps_setE
    | split
    | (with_reducible apply keeps_mk; with_reducible assumption)

theorem keeps_execPowerStateEntry {s0 : State} {s : State} (hs : Keeps s0 s) :
    KeepsRes s0 (execPowerStateEntry s) := by
  unfold execPowerStateEntry
  repeat' first
    | with_reducible assumption
    | ((try lift_lets -underBinder); intro x; clear_value (hx : x = _); refine keeps_cut (s0 := s0) hx ?_ ?_ <;> clear hx)
    | ((try lift_lets -underBinder); intro x; clear_value x)
    | (intro x; try beta_reduce)
    | with_reducible apply keeps_inPowerState
    | with_reducible apply keeps_run
    | split
    | (with_reducible apply keeps_mk; with_reducible assumption)

theorem keeps_execPowerEntryComplete {s0 : State} {s : State} (hs : Keeps s0 s) :
    KeepsRes s0 (execPowerEntryComplete s) := by
  unfold execPowerEntryComplete
  repeat' first
    | with_reducible assumption
    | ((try lift_lets -underBinder); intro x; clear_value (hx : x = _); refine keeps_cut (s0 := s0) hx ?_ ?_ <;> clear hx)
    | ((try lift_lets -underBinder); intro x; clear_value x)
    | (intro x; try beta_reduce)
    | with_reducible apply keeps_inPowerState
    | with_reducible apply keeps_startWake
    | with_reducible apply keeps_run
    | split

theorem keeps_execWakeEvent {s0 : State} {c : WakeCause} {s : State} (hs : Keeps s0 s) :
    KeepsRes s0 (execWakeEvent c s) := by
  unfold execWakeEvent
  repeat' first
    | with_reducible assumption
    | (intro x; try beta_reduce)
    | with_reducible apply keeps_wakeNow
    | with_reducible apply keeps_run
    | split

theorem keeps_restoreStill {s0 s : State} (hs : Keeps s0 s) : Keeps s0 (restoreStill s) := by
  unfold restoreStill
  exact keeps_forEach (keeps_wipe hs rfl rfl rfl rfl (.inl rfl) (.inr rfl) rfl) fun _ _ h => keeps_endRebuild h

theorem keeps_lockPlls {s0 : State} {s : State} {mask : Nat} (hs : Keeps s0 s) :
    Keeps s0 (lockPlls s mask) := by
  unfold lockPlls
  repeat' first
    | with_reducible assumption
    | with_reducible apply keeps_setE
    | (with_reducible apply keeps_mk; with_reducible assumption)

theorem keeps_execWakeComplete {s0 : State} {s : State} (hs : Keeps s0 s) :
    KeepsRes s0 (execWakeComplete s) := by
  unfold execWakeComplete
  repeat' first
    | with_reducible assumption
    | ((try lift_lets -underBinder); intro x; clear_value (hx : x = _); refine keeps_cut (s0 := s0) hx ?_ ?_ <;> clear hx)
    | ((try lift_lets -underBinder); intro x; clear_value x)
    | (intro x; try beta_reduce)
    | with_reducible apply keeps_restoreStill
    | with_reducible apply keeps_lockPlls
    | with_reducible apply keeps_run
    | split
    | (with_reducible apply keeps_mk; with_reducible assumption)

theorem keeps_actWakeTolerance {s0 : State} {q : Req} {s : State} (hs : Keeps s0 s) :
    KeepsAct s0 (actWakeTolerance q s) := by
  unfold actWakeTolerance
  repeat' first
    | with_reducible assumption
    | split
    | with_reducible apply keeps_wakeNow
    | with_reducible apply keeps_setE
    | with_reducible apply keeps_actDone

theorem keeps_execWakeTolerance {s0 : State} {q : Req} {s : State} (hs : Keeps s0 s) :
    KeepsRes s0 (execWakeTolerance q s) := by
  unfold execWakeTolerance
  repeat' first
    | with_reducible assumption
    | (intro x; try beta_reduce)
    | with_reducible apply keeps_serveWrite
    | with_reducible apply keeps_actWakeTolerance
    | with_reducible apply keeps_run

theorem keeps_actPowerSetting {s0 : State} {sub : Nat} {q : Req} {s : State} (hs : Keeps s0 s) :
    KeepsAct s0 (actPowerSetting sub q s) := by
  unfold actPowerSetting
  repeat' first
    | with_reducible assumption
    | with_reducible apply keeps_wakeNow
    | with_reducible apply keeps_setE
    | with_reducible apply keeps_actDone
    | split

theorem keeps_execPowerMeasurement {s0 : State} {milliwatts : Nat} {s : State} (hs : Keeps s0 s) :
    KeepsRes s0 (execPowerMeasurement milliwatts s) := by
  unfold execPowerMeasurement
  repeat' first
    | with_reducible assumption
    | ((try lift_lets -underBinder); intro x; clear_value (hx : x = _); refine keeps_cut (s0 := s0) hx ?_ ?_ <;> clear hx)
    | ((try lift_lets -underBinder); intro x; clear_value x)
    | (intro x; try beta_reduce)
    | with_reducible apply keeps_setE
    | with_reducible apply keeps_countBy
    | with_reducible apply keeps_raise
    | with_reducible apply keeps_run
    | split
    | (with_reducible apply keeps_mk; with_reducible assumption)

theorem keeps_thermalTrip {s0 : State} {s : State} {a b : Int} (hs : Keeps s0 s) :
    Keeps s0 (thermalTrip s a b) := by
  unfold thermalTrip
  repeat' first
    | with_reducible assumption
    | ((try lift_lets -underBinder); intro x; clear_value (hx : x = _); refine keeps_cut (s0 := s0) hx ?_ ?_ <;> clear hx)
    | ((try lift_lets -underBinder); intro x; clear_value x)
    | (intro x; try beta_reduce)
    | with_reducible apply keeps_raise
    | with_reducible apply keeps_setE
    | (with_reducible apply keeps_mk; with_reducible assumption)

theorem keeps_execTemperatureReading {s0 : State} {a b : Int} {s : State} (hs : Keeps s0 s) :
    KeepsRes s0 (execTemperatureReading a b s) := by
  unfold execTemperatureReading
  refine keeps_run hs fun t ht => ?_
  have h1 : Keeps s0 (setE (setE t 0x3020 0x03 (twos 16 a)) 0x3020 0x04 (twos 16 b)) := keeps_setE (keeps_setE ht)
  dsimp only
  repeat' first
    | with_reducible assumption
    | with_reducible apply keeps_thermalTrip
    | with_reducible apply keeps_raise
    | split
    | (with_reducible apply keeps_mk; with_reducible assumption)

theorem keeps_execSupplyRange {s0 : State} {rail : Nat} {s : State} (hs : Keeps s0 s) :
    KeepsRes s0 (execSupplyRange rail s) := by
  unfold execSupplyRange
  repeat' first
    | with_reducible assumption
    | (intro x; try beta_reduce)
    | with_reducible apply keeps_raise
    | with_reducible apply keeps_run

theorem keeps_execRefclkLost {s0 : State} {s : State} (hs : Keeps s0 s) :
    KeepsRes s0 (execRefclkLost s) := by
  unfold execRefclkLost
  repeat' first
    | with_reducible assumption
    | ((try lift_lets -underBinder); intro x; clear_value (hx : x = _); refine keeps_cut (s0 := s0) hx ?_ ?_ <;> clear hx)
    | ((try lift_lets -underBinder); intro x; clear_value x)
    | (intro x; try beta_reduce)
    | with_reducible apply keeps_setTimeValid
    | with_reducible apply keeps_raise
    | with_reducible apply keeps_run
    | split
    | (with_reducible apply keeps_mk; with_reducible assumption)

theorem keeps_pllUnlock {s0 : State} {s : State} (hs : Keeps s0 s) :
    Keeps s0 (pllUnlock s) := by
  unfold pllUnlock
  repeat' first
    | with_reducible assumption
    | with_reducible apply keeps_raise

theorem keeps_execPllLockTimeout {s0 : State} {pll : Nat} {s : State} (hs : Keeps s0 s) :
    KeepsRes s0 (execPllLockTimeout pll s) := by
  unfold execPllLockTimeout
  repeat' first
    | with_reducible assumption
    | ((try lift_lets -underBinder); intro x; clear_value (hx : x = _); refine keeps_cut (s0 := s0) hx ?_ ?_ <;> clear hx)
    | ((try lift_lets -underBinder); intro x; clear_value x)
    | (intro x; try beta_reduce)
    | with_reducible apply keeps_pllUnlock
    | with_reducible apply keeps_run
    | split
    | (with_reducible apply keeps_mk; with_reducible assumption)

theorem keeps_execPllLockLoss {s0 : State} {pll : Nat} {s : State} (hs : Keeps s0 s) :
    KeepsRes s0 (execPllLockLoss pll s) := by
  unfold execPllLockLoss
  repeat' first
    | with_reducible assumption
    | (intro x; try beta_reduce)
    | with_reducible apply keeps_pllUnlock
    | with_reducible apply keeps_setE
    | with_reducible apply keeps_run
    | split

theorem keeps_setInit {s0 : State} {s : State} {b : Nat} (hs : Keeps s0 s) :
    Keeps s0 (setInit s b) := by
  unfold setInit
  repeat' first
    | with_reducible assumption
    | with_reducible apply keeps_setE

theorem keeps_execInitSramZeroed {s0 s : State} (hs : Keeps s0 s) : KeepsRes s0 (execInitSramZeroed s) := by
  unfold execInitSramZeroed
  refine keeps_run hs fun t ht => ?_
  split
  · exact ht
  · exact keeps_lockPlls (keeps_setInit (keeps_wipe ht rfl rfl rfl rfl (.inl rfl) (.inr rfl) rfl))

theorem keeps_execStacksTrained {s0 : State} {failed : Option Nat} {s : State} (hs : Keeps s0 s) :
    KeepsRes s0 (execStacksTrained failed s) := by
  unfold execStacksTrained
  repeat' first
    | with_reducible assumption
    | (intro x; try beta_reduce)
    | with_reducible apply keeps_raise1
    | with_reducible apply keeps_lockPlls
    | with_reducible apply keeps_setInit
    | with_reducible apply keeps_run
    | split

theorem keeps_execTier1Zeroed {s0 s : State} (hs : Keeps s0 s) : KeepsRes s0 (execTier1Zeroed s) := by
  unfold execTier1Zeroed
  refine keeps_run hs fun t ht => ?_
  split
  · exact ht
  · exact keeps_setInit (keeps_wipe ht rfl rfl rfl rfl (.inr rfl) (.inl rfl) rfl)

theorem keeps_execTier1Scrub {s0 : State} {stack : Nat} {corrected uncorrected : List Nat} {s : State} (hs : Keeps s0 s) :
    KeepsRes s0 (execTier1Scrub stack corrected uncorrected s) := by
  unfold execTier1Scrub
  repeat' first
    | with_reducible assumption
    | ((try lift_lets -underBinder); intro x; clear_value (hx : x = _); refine keeps_cut (s0 := s0) hx ?_ ?_ <;> clear hx)
    | ((try lift_lets -underBinder); intro x; clear_value x)
    | (intro x; try beta_reduce)
    | with_reducible apply keeps_raise1
    | with_reducible apply keeps_forEach
    | with_reducible apply keeps_run

/-! ### Machine/Waits.lean -/

theorem keeps_countWaits {s0 : State} {s : State} (hs : Keeps s0 s) :
    Keeps s0 (countWaits s) := by
  unfold countWaits
  repeat' first
    | with_reducible assumption
    | (intro x; try beta_reduce)
    | with_reducible apply keeps_fresh
    | with_reducible apply keeps_countBy
    | with_reducible apply keeps_forEach
    | split

/-! ### Machine/Security.lean -/

theorem keeps_newChallenge {s0 : State} {s : State} (hs : Keeps s0 s) :
    Keeps s0 (newChallenge s) := by
  unfold newChallenge
  repeat' first
    | with_reducible assumption
    | ((try lift_lets -underBinder); intro x; clear_value (hx : x = _); refine keeps_cut (s0 := s0) hx ?_ ?_ <;> clear hx)
    | ((try lift_lets -underBinder); intro x; clear_value x)
    | (intro x; try beta_reduce)
    | with_reducible apply keeps_fresh
    | (with_reducible apply keeps_mk; with_reducible assumption)

theorem keeps_actFirmwareLoad {s0 : State} {q : Req} {s : State} (hs : Keeps s0 s) :
    KeepsAct s0 (actFirmwareLoad q s) := by
  unfold actFirmwareLoad
  repeat' first
    | with_reducible assumption
    | ((try lift_lets -underBinder); intro x; clear_value (hx : x = _); refine keeps_cut (s0 := s0) hx ?_ ?_ <;> clear hx)
    | ((try lift_lets -underBinder); intro x; clear_value x)
    | (intro x; try beta_reduce)
    | with_reducible apply keeps_refuse
    | with_reducible apply keeps_readHost
    | with_reducible apply keeps_setE
    | with_reducible apply keeps_actLater
    | with_reducible apply keeps_actRefuse
    | split
    | (with_reducible apply keeps_mk; with_reducible assumption)

theorem keeps_execFirmwareLoad {s0 : State} {q : Req} {s : State} (hs : Keeps s0 s) :
    KeepsRes s0 (execFirmwareLoad q s) := by
  unfold execFirmwareLoad
  repeat' first
    | with_reducible assumption
    | (intro x; try beta_reduce)
    | with_reducible apply keeps_serveWrite
    | with_reducible apply keeps_actFirmwareLoad
    | with_reducible apply keeps_run

theorem keeps_refuseFirmware {s0 : State} {s : State} {status code : Nat} (hs : Keeps s0 s) :
    Keeps s0 (refuseFirmware s status code) := by
  unfold refuseFirmware
  repeat' first
    | with_reducible assumption
    | ((try lift_lets -underBinder); intro x; clear_value (hx : x = _); refine keeps_cut (s0 := s0) hx ?_ ?_ <;> clear hx)
    | ((try lift_lets -underBinder); intro x; clear_value x)
    | (intro x; try beta_reduce)
    | with_reducible apply keeps_count
    | with_reducible apply keeps_setE
    | with_reducible apply keeps_endDeferred
    | with_reducible apply keeps_raise1

theorem keeps_startFirmware {s0 : State} {s : State} {f : FwImage} (hs : Keeps s0 s) :
    Keeps s0 (startFirmware s f) := by
  unfold startFirmware
  repeat' first
    | with_reducible assumption
    | ((try lift_lets -underBinder); intro x; clear_value (hx : x = _); refine keeps_cut (s0 := s0) hx ?_ ?_ <;> clear hx)
    | ((try lift_lets -underBinder); intro x; clear_value x)
    | (intro x; try beta_reduce)
    | with_reducible apply keeps_setE
    | with_reducible apply keeps_endDeferred
    | with_reducible apply keeps_newKey
    | (with_reducible apply keeps_mk; with_reducible assumption)

theorem keeps_execFirmwareImageChecked {s0 : State} {f : FwImage} {s : State} (hs : Keeps s0 s) :
    KeepsRes s0 (execFirmwareImageChecked f s) := by
  unfold execFirmwareImageChecked
  repeat' first
    | with_reducible assumption
    | ((try lift_lets -underBinder); intro x; clear_value (hx : x = _); refine keeps_cut (s0 := s0) hx ?_ ?_ <;> clear hx)
    | ((try lift_lets -underBinder); intro x; clear_value x)
    | (intro x; try beta_reduce)
    | with_reducible apply keeps_refuseFirmware
    | with_reducible apply keeps_startFirmware
    | with_reducible apply keeps_run
    | split
    | (with_reducible apply keeps_mk; with_reducible assumption)

theorem keeps_actSecurityCommit {s0 s : State} (hs : Keeps s0 s) : KeepsAct s0 (actSecurityCommit s) :=
  keeps_actDone (hs.trans ⟨rfl, rfl, rfl, ⟨Nat.le_max_left _ _, rfl⟩, id⟩)

theorem keeps_execSecurityVersionCommit {s0 : State} {q : Req} {s : State} (hs : Keeps s0 s) :
    KeepsRes s0 (execSecurityVersionCommit q s) := by
  unfold execSecurityVersionCommit
  repeat' first
    | with_reducible assumption
    | (intro x; try beta_reduce)
    | with_reducible apply keeps_serveWrite
    | with_reducible apply keeps_actSecurityCommit
    | with_reducible apply keeps_run

theorem keeps_execRngHealth {s0 : State} {s : State} (hs : Keeps s0 s) :
    KeepsRes s0 (execRngHealth s) := by
  unfold execRngHealth
  repeat' first
    | with_reducible assumption
    | ((try lift_lets -underBinder); intro x; clear_value (hx : x = _); refine keeps_cut (s0 := s0) hx ?_ ?_ <;> clear hx)
    | ((try lift_lets -underBinder); intro x; clear_value x)
    | (intro x; try beta_reduce)
    | with_reducible apply keeps_raise1
    | with_reducible apply keeps_run
    | (with_reducible apply keeps_mk; with_reducible assumption)

theorem keeps_actOwnerKey {s0 : State} {q : Req} {s : State} (hs : Keeps s0 s) :
    KeepsAct s0 (actOwnerKey q s) := by
  unfold actOwnerKey
  repeat' first
    | with_reducible assumption
    | with_reducible apply keeps_setE
    | with_reducible apply keeps_actDone

theorem keeps_execOwnerKey {s0 : State} {q : Req} {s : State} (hs : Keeps s0 s) :
    KeepsRes s0 (execOwnerKey q s) := by
  unfold execOwnerKey
  repeat' first
    | with_reducible assumption
    | (intro x; try beta_reduce)
    | with_reducible apply keeps_serveWrite
    | with_reducible apply keeps_actOwnerKey
    | with_reducible apply keeps_run

theorem keeps_actEndorsement {s0 : State} {sigOk : Bool} {q : Req} {s : State} (hs : Keeps s0 s) :
    KeepsAct s0 (actEndorsement sigOk q s) := by
  unfold actEndorsement
  repeat' first
    | with_reducible assumption
    | with_reducible apply keeps_setE
    | with_reducible apply keeps_refuse
    | with_reducible apply keeps_actDone
    | with_reducible apply keeps_actRefuse
    | split

theorem keeps_execEndorsement {s0 : State} {sigOk : Bool} {q : Req} {s : State} (hs : Keeps s0 s) :
    KeepsRes s0 (execEndorsement sigOk q s) := by
  unfold execEndorsement
  repeat' first
    | with_reducible assumption
    | (intro x; try beta_reduce)
    | with_reducible apply keeps_serveWrite
    | with_reducible apply keeps_actEndorsement
    | with_reducible apply keeps_run

theorem keeps_actAttestNonce {s0 : State} {q : Req} {s : State} (hs : Keeps s0 s) :
    KeepsAct s0 (actAttestNonce q s) := by
  unfold actAttestNonce
  repeat' first
    | with_reducible assumption
    | ((try lift_lets -underBinder); intro x; clear_value (hx : x = _); refine keeps_cut (s0 := s0) hx ?_ ?_ <;> clear hx)
    | ((try lift_lets -underBinder); intro x; clear_value x)
    | (intro x; try beta_reduce)
    | with_reducible apply keeps_actLater
    | (with_reducible apply keeps_mk; first | with_reducible assumption)

theorem keeps_execAttestNonce {s0 : State} {q : Req} {s : State} (hs : Keeps s0 s) :
    KeepsRes s0 (execAttestNonce q s) := by
  unfold execAttestNonce
  repeat' first
    | with_reducible assumption
    | (intro x; try beta_reduce)
    | with_reducible apply keeps_serveWrite
    | with_reducible apply keeps_actAttestNonce
    | with_reducible apply keeps_run

theorem keeps_execQuoteComplete {s0 : State} {s : State} (hs : Keeps s0 s) :
    KeepsRes s0 (execQuoteComplete s) := by
  unfold execQuoteComplete
  repeat' first
    | with_reducible assumption
    | ((try lift_lets -underBinder); intro x; clear_value (hx : x = _); refine keeps_cut (s0 := s0) hx ?_ ?_ <;> clear hx)
    | ((try lift_lets -underBinder); intro x; clear_value x)
    | (intro x; try beta_reduce)
    | with_reducible apply keeps_setE
    | with_reducible apply keeps_endDeferred
    | with_reducible apply keeps_count
    | with_reducible apply keeps_run
    | split
    | (with_reducible apply keeps_mk; with_reducible assumption)

theorem keeps_beginUnlock {s0 : State} {s : State} (hs : Keeps s0 s) :
    Keeps s0 (beginUnlock s) := by
  unfold beginUnlock
  repeat' first
    | with_reducible assumption
    | ((try lift_lets -underBinder); intro x; clear_value (hx : x = _); refine keeps_cut (s0 := s0) hx ?_ ?_ <;> clear hx)
    | ((try lift_lets -underBinder); intro x; clear_value x)
    | (intro x; try beta_reduce)
    | with_reducible apply keeps_portEnter
    | with_reducible apply keeps_stopCtx
    | with_reducible apply keeps_endCollectives
    | with_reducible apply keeps_raise
    | with_reducible apply keeps_forEach
    | split
    | refine keeps_fst ‹_ = (_, _)› ?_
    | (with_reducible apply keeps_mk; with_reducible assumption)

theorem keeps_actTestUnlock {s0 : State} {sigOk : Bool} {q : Req} {s : State} (hs : Keeps s0 s) :
    KeepsAct s0 (actTestUnlock sigOk q s) := by
  unfold actTestUnlock
  repeat' first
    | with_reducible assumption
    | with_reducible apply keeps_refuse
    | with_reducible apply keeps_newChallenge
    | with_reducible apply keeps_raise1
    | with_reducible apply keeps_count
    | with_reducible apply keeps_beginUnlock
    | with_reducible apply keeps_actLater
    | with_reducible apply keeps_actRefuse
    | split

theorem keeps_execTestUnlock {s0 : State} {sigOk : Bool} {q : Req} {s : State} (hs : Keeps s0 s) :
    KeepsRes s0 (execTestUnlock sigOk q s) := by
  unfold execTestUnlock
  repeat' first
    | with_reducible assumption
    | (intro x; try beta_reduce)
    | with_reducible apply keeps_serveWrite
    | with_reducible apply keeps_actTestUnlock
    | with_reducible apply keeps_run

theorem keeps_execUnlockWipeComplete {s0 s : State} (hs : Keeps s0 s) : KeepsRes s0 (execUnlockWipeComplete s) := by
  unfold execUnlockWipeComplete
  refine keeps_run hs fun t ht => ?_
  split
  · exact ht
  · exact keeps_endDeferred (keeps_raise1 (keeps_setE (keeps_endDeferred (keeps_endDeferred
      (keeps_wipe ht rfl rfl rfl rfl (.inr rfl) (.inr rfl) rfl)))))

theorem keeps_execTestPortInstruction {s0 : State} {t : TapInstr} {s : State} (hs : Keeps s0 s) :
    KeepsRes s0 (execTestPortInstruction t s) := by
  unfold execTestPortInstruction
  repeat' first
    | with_reducible assumption
    | ((try lift_lets -underBinder); intro x; clear_value (hx : x = _); refine keeps_cut (s0 := s0) hx ?_ ?_ <;> clear hx)
    | ((try lift_lets -underBinder); intro x; clear_value x)
    | (intro x; try beta_reduce)
    | with_reducible apply keeps_emit
    | with_reducible apply keeps_run
    | split
    | (with_reducible apply keeps_mk; with_reducible assumption)

/-! ### Machine/Levels.lean -/

theorem keeps_markStale {s0 : State} {s : State} (hs : Keeps s0 s) :
    Keeps s0 (markStale s) := by
  unfold markStale
  repeat' first
    | with_reducible assumption
    | (intro x; try beta_reduce)
    | with_reducible apply keeps_setPondFault
    | with_reducible apply keeps_forEach

theorem keeps_afterRole {s0 : State} {was : Bool} {s : State} (hs : Keeps s0 s) :
    Keeps s0 (afterRole was s) := by
  unfold afterRole
  repeat' first
    | with_reducible assumption
    | with_reducible apply keeps_markStale
    | split

theorem keeps_actPackageId {s0 : State} {q : Req} {s : State} (hs : Keeps s0 s) :
    KeepsAct s0 (actPackageId q s) := by
  unfold actPackageId
  repeat' first
    | with_reducible assumption
    | ((try lift_lets -underBinder); intro x; clear_value (hx : x = _); refine keeps_cut (s0 := s0) hx ?_ ?_ <;> clear hx)
    | ((try lift_lets -underBinder); intro x; clear_value x)
    | (intro x; try beta_reduce)
    | with_reducible apply keeps_setE
    | with_reducible apply keeps_afterRole
    | with_reducible apply keeps_beginRetrain
    | with_reducible apply keeps_forEach
    | with_reducible apply keeps_actDone
    | split

theorem keeps_execPackageIdWrite {s0 : State} {q : Req} {s : State} (hs : Keeps s0 s) :
    KeepsRes s0 (execPackageIdWrite q s) := by
  unfold execPackageIdWrite
  repeat' first
    | with_reducible assumption
    | (intro x; try beta_reduce)
    | with_reducible apply keeps_serveWrite
    | with_reducible apply keeps_actPackageId
    | with_reducible apply keeps_run

theorem keeps_actKeystone {s0 : State} {q : Req} {s : State} (hs : Keeps s0 s) :
    KeepsAct s0 (actKeystone q s) := by
  unfold actKeystone
  repeat' first
    | with_reducible assumption
    | ((try lift_lets -underBinder); intro x; clear_value (hx : x = _); refine keeps_cut (s0 := s0) hx ?_ ?_ <;> clear hx)
    | ((try lift_lets -underBinder); intro x; clear_value x)
    | (intro x; try beta_reduce)
    | with_reducible apply keeps_setE
    | with_reducible apply keeps_afterRole
    | with_reducible apply keeps_actDone
    | (with_reducible apply keeps_mk; with_reducible assumption)

theorem keeps_execKeystonePositionWrite {s0 : State} {q : Req} {s : State} (hs : Keeps s0 s) :
    KeepsRes s0 (execKeystonePositionWrite q s) := by
  unfold execKeystonePositionWrite
  repeat' first
    | with_reducible assumption
    | (intro x; try beta_reduce)
    | with_reducible apply keeps_serveWrite
    | with_reducible apply keeps_actKeystone
    | with_reducible apply keeps_run

theorem keeps_execKeystoneBeacon {s0 : State} {s : State} (hs : Keeps s0 s) :
    KeepsRes s0 (execKeystoneBeacon s) := by
  unfold execKeystoneBeacon
  repeat' first
    | with_reducible assumption
    | (intro x; try beta_reduce)
    | with_reducible apply keeps_emit
    | with_reducible apply keeps_carryMgmt
    | with_reducible apply keeps_forEach
    | with_reducible apply keeps_run
    | split

theorem keeps_execPondBeacon {s0 : State} {fromPos : Nat} {s : State} (hs : Keeps s0 s) :
    KeepsRes s0 (execPondBeacon fromPos s) := by
  unfold execPondBeacon
  repeat' first
    | with_reducible assumption
    | ((try lift_lets -underBinder); intro x; clear_value (hx : x = _); refine keeps_cut (s0 := s0) hx ?_ ?_ <;> clear hx)
    | ((try lift_lets -underBinder); intro x; clear_value x)
    | (intro x; try beta_reduce)
    | with_reducible apply keeps_count
    | with_reducible apply keeps_sendSummary
    | with_reducible apply keeps_run
    | split
    | (with_reducible apply keeps_mk; with_reducible assumption)

theorem keeps_execKeystoneSilent {s0 : State} {s : State} (hs : Keeps s0 s) :
    KeepsRes s0 (execKeystoneSilent s) := by
  unfold execKeystoneSilent
  repeat' first
    | with_reducible assumption
    | ((try lift_lets -underBinder); intro x; clear_value (hx : x = _); refine keeps_cut (s0 := s0) hx ?_ ?_ <;> clear hx)
    | ((try lift_lets -underBinder); intro x; clear_value x)
    | (intro x; try beta_reduce)
    | with_reducible apply keeps_raise1
    | with_reducible apply keeps_run
    | split
    | (with_reducible apply keeps_mk; with_reducible assumption)

/-! ### Machine/Server.lean -/

theorem keeps_actHotRing {s0 : State} {q : Req} {s : State} (hs : Keeps s0 s) :
    KeepsAct s0 (actHotRing q s) := by
  unfold actHotRing
  repeat' first
    | with_reducible assumption
    | with_reducible apply keeps_setE
    | with_reducible apply keeps_refuse
    | with_reducible apply keeps_actDone
    | with_reducible apply keeps_actRefuse
    | split

theorem keeps_actFaultLog {s0 : State} {q : Req} {s : State} (hs : Keeps s0 s) :
    KeepsAct s0 (actFaultLog q s) := by
  unfold actFaultLog
  repeat' first
    | with_reducible assumption
    | with_reducible apply keeps_setE
    | with_reducible apply keeps_refuse
    | with_reducible apply keeps_actDone
    | with_reducible apply keeps_actRefuse
    | split

theorem keeps_actLakeWindow {s0 : State} {sub : Nat} {q : Req} {s : State} (hs : Keeps s0 s) :
    KeepsAct s0 (actLakeWindow sub q s) := by
  unfold actLakeWindow
  repeat' first
    | with_reducible assumption
    | ((try lift_lets -underBinder); intro x; clear_value (hx : x = _); refine keeps_cut (s0 := s0) hx ?_ ?_ <;> clear hx)
    | ((try lift_lets -underBinder); intro x; clear_value x)
    | (intro x; try beta_reduce)
    | with_reducible apply keeps_setE
    | with_reducible apply keeps_refuse
    | with_reducible apply keeps_actDone
    | with_reducible apply keeps_actRefuse
    | split

theorem keeps_actOwnRegion {s0 : State} {idx sub : Nat} {q : Req} {s : State} (hs : Keeps s0 s) :
    KeepsAct s0 (actOwnRegion idx sub q s) := by
  unfold actOwnRegion
  repeat' first
    | with_reducible assumption
    | ((try lift_lets -underBinder); intro x; clear_value (hx : x = _); refine keeps_cut (s0 := s0) hx ?_ ?_ <;> clear hx)
    | ((try lift_lets -underBinder); intro x; clear_value x)
    | (intro x; try beta_reduce)
    | with_reducible apply keeps_setE
    | with_reducible apply keeps_refuse
    | with_reducible apply keeps_actDone
    | with_reducible apply keeps_actRefuse
    | split

theorem keeps_actRetention {s0 : State} {sub : Nat} {q : Req} {s : State} (hs : Keeps s0 s) :
    KeepsAct s0 (actRetention sub q s) := by
  unfold actRetention
  repeat' first
    | with_reducible assumption
    | ((try lift_lets -underBinder); intro x; clear_value (hx : x = _); refine keeps_cut (s0 := s0) hx ?_ ?_ <;> clear hx)
    | ((try lift_lets -underBinder); intro x; clear_value x)
    | (intro x; try beta_reduce)
    | with_reducible apply keeps_setE
    | with_reducible apply keeps_refuse
    | with_reducible apply keeps_actDone
    | with_reducible apply keeps_actRefuse
    | split

theorem keeps_actClass {s0 : State} {c : Nat} {q : Req} {s : State} (hs : Keeps s0 s) :
    KeepsAct s0 (actClass c q s) := by
  unfold actClass
  repeat' first
    | with_reducible assumption
    | with_reducible apply keeps_setE
    | with_reducible apply keeps_refuse
    | with_reducible apply keeps_actDone
    | with_reducible apply keeps_actRefuse
    | split

theorem keeps_actGroupSet {s0 : State} {idx sub : Nat} {q : Req} {s : State} (hs : Keeps s0 s) :
    KeepsAct s0 (actGroupSet idx sub q s) := by
  unfold actGroupSet
  repeat' first
    | with_reducible assumption
    | with_reducible apply keeps_refuse
    | with_reducible apply keeps_actStore
    | with_reducible apply keeps_actRefuse
    | split

theorem keeps_actDictDoorbell {s0 : State} {q : Req} {s : State} (hs : Keeps s0 s) :
    KeepsAct s0 (actDictDoorbell q s) := by
  unfold actDictDoorbell
  repeat' first
    | with_reducible assumption
    | ((try lift_lets -underBinder); intro x; clear_value (hx : x = _); refine keeps_cut (s0 := s0) hx ?_ ?_ <;> clear hx)
    | ((try lift_lets -underBinder); intro x; clear_value x)
    | (intro x; try beta_reduce)
    | with_reducible apply keeps_count
    | with_reducible apply keeps_slotWrite
    | with_reducible apply keeps_setSlot
    | with_reducible apply keeps_actDone
    | split
    | (with_reducible apply keeps_mk; with_reducible assumption)

theorem keeps_actionLow {s0 : State} {idx sub : Nat} {q : Req} {s : State} (hs : Keeps s0 s) :
    KeepsAct s0 (actionLow idx sub q s) := by
  unfold actionLow
  repeat' first
    | with_reducible assumption
    | with_reducible apply keeps_actPackageId
    | with_reducible apply keeps_actDictDoorbell
    | with_reducible apply keeps_actKeystone
    | with_reducible apply keeps_actAqShare
    | with_reducible apply keeps_actAqSet
    | with_reducible apply keeps_actAqClear
    | with_reducible apply keeps_actTableInstall
    | with_reducible apply keeps_actInjectEpoch
    | with_reducible apply keeps_actTableRetire
    | with_reducible apply keeps_actEpochStep
    | with_reducible apply keeps_actPortFence
    | with_reducible apply keeps_actPortRetrain
    | with_reducible apply keeps_actWakeTolerance
    | with_reducible apply keeps_actPowerSetting
    | with_reducible apply keeps_actStore
    | with_reducible apply keeps_iteFn

theorem keeps_actionMid {s0 : State} {idx sub : Nat} {q : Req} {s : State} (hs : Keeps s0 s) :
    KeepsAct s0 (actionMid idx sub q s) := by
  unfold actionMid
  repeat' first
    | with_reducible assumption
    | with_reducible apply keeps_actPlaceObject
    | with_reducible apply keeps_actFlushObject
    | with_reducible apply keeps_actKvPoolTail
    | with_reducible apply keeps_actSetWatermark
    | with_reducible apply keeps_actReleaseProvisional
    | with_reducible apply keeps_actOwnRegion
    | with_reducible apply keeps_actPoolCommit
    | with_reducible apply keeps_actWindowSet
    | with_reducible apply keeps_actWindowClear
    | with_reducible apply keeps_actRetention
    | with_reducible apply keeps_actLakeWindow
    | with_reducible apply keeps_actStateRequest
    | with_reducible apply keeps_actPondJobStep
    | with_reducible apply keeps_actJobDirect
    | with_reducible apply keeps_actRemapStone
    | with_reducible apply keeps_actLoad
    | with_reducible apply keeps_actClass
    | with_reducible apply keeps_actUnload
    | with_reducible apply keeps_actResume
    | with_reducible apply keeps_actStore
    | with_reducible apply keeps_iteFn

theorem keeps_actionHigh {s0 : State} {idx sub : Nat} {q : Req} {s : State} (hs : Keeps s0 s) :
    KeepsAct s0 (actionHigh idx sub q s) := by
  unfold actionHigh
  repeat' first
    | with_reducible assumption
    | with_reducible apply keeps_actRetireGeneration
    | with_reducible apply keeps_actAbandonStranded
    | with_reducible apply keeps_actPlacementUpdate
    | with_reducible apply keeps_actOwnRegion
    | with_reducible apply keeps_actCollAbort
    | with_reducible apply keeps_actGroupCommit
    | with_reducible apply keeps_actGroupSet
    | with_reducible apply keeps_actFaultAck
    | with_reducible apply keeps_actFenceStone
    | with_reducible apply keeps_actFaultLog
    | with_reducible apply keeps_actFirmwareLoad
    | with_reducible apply keeps_actSecurityCommit
    | with_reducible apply keeps_actAttestNonce
    | with_reducible apply keeps_actTestUnlock
    | with_reducible apply keeps_actOwnerKey
    | with_reducible apply keeps_actEndorsement
    | with_reducible apply keeps_actHotRing
    | with_reducible apply keeps_actLinkRetrain
    | with_reducible apply keeps_actSubmitDoorbell
    | with_reducible apply keeps_actResultRelease
    | with_reducible apply keeps_actRingSet
    | with_reducible apply keeps_actRingEnable
    | with_reducible apply keeps_actRingResume
    | with_reducible apply keeps_actPending
    | with_reducible apply keeps_actHostEoi
    | with_reducible apply keeps_actSourceConfig
    | with_reducible apply keeps_actServe
    | with_reducible apply keeps_actEngineInject
    | with_reducible apply keeps_actStore
    | with_reducible apply keeps_fresh
    | with_reducible apply keeps_iteFn

theorem keeps_actionOf {s0 : State} {idx sub : Nat} {q : Req} {s : State} (hs : Keeps s0 s) :
    KeepsAct s0 (actionOf idx sub q s) := by
  unfold actionOf
  repeat' first
    | with_reducible assumption
    | with_reducible apply keeps_actionLow
    | with_reducible apply keeps_actionMid
    | with_reducible apply keeps_actionHigh
    | with_reducible apply keeps_iteFn

theorem keeps_afterRead {s0 : State} {idx sub : Nat} {q : Req} {s : State} (hs : Keeps s0 s) :
    Keeps s0 (afterRead idx sub q s) := by
  unfold afterRead
  repeat' first
    | with_reducible assumption
    | ((try lift_lets -underBinder); intro x; clear_value (hx : x = _); refine keeps_cut (s0 := s0) hx ?_ ?_ <;> clear hx)
    | ((try lift_lets -underBinder); intro x; clear_value x)
    | (intro x; try beta_reduce)
    | with_reducible apply keeps_setE
    | with_reducible apply keeps_markRead
    | split
    | (with_reducible apply keeps_mk; with_reducible assumption)

theorem keeps_execDictWrite {s0 : State} {idx sub : Nat} {q : Req} {s : State} (hs : Keeps s0 s) :
    KeepsRes s0 (execDictWrite idx sub q s) := by
  unfold execDictWrite
  repeat' first
    | with_reducible assumption
    | (intro x; try beta_reduce)
    | with_reducible apply keeps_serveWrite
    | with_reducible apply keeps_actionOf
    | with_reducible apply keeps_run

theorem keeps_execDictDescribe {s0 : State} {idx sub : Nat} {q : Req} {s : State} (hs : Keeps s0 s) :
    KeepsRes s0 (execDictDescribe idx sub q s) := by
  unfold execDictDescribe
  repeat' first
    | with_reducible assumption
    | with_reducible apply keeps_serveDescribe
    | with_reducible apply keeps_run

theorem keeps_execDictNext {s0 : State} {idx sub : Nat} {q : Req} {s : State} (hs : Keeps s0 s) :
    KeepsRes s0 (execDictNext idx sub q s) := by
  unfold execDictNext
  repeat' first
    | with_reducible assumption
    | with_reducible apply keeps_serveNext
    | with_reducible apply keeps_run

theorem keeps_serveAnyRead {s0 : State} {idx sub : Nat} {q : Req} {s : State} (hs : Keeps s0 s) :
    Keeps s0 (serveAnyRead idx sub q s) := by
  unfold serveAnyRead
  repeat' first
    | with_reducible assumption
    | with_reducible apply keeps_serveRead
    | with_reducible apply keeps_afterRead

theorem keeps_execLastRefusalRead {s0 : State} {q : Req} {s : State} (hs : Keeps s0 s) :
    KeepsRes s0 (execLastRefusalRead q s) := by
  unfold execLastRefusalRead
  repeat' first
    | with_reducible assumption
    | with_reducible apply keeps_serveAnyRead
    | with_reducible apply keeps_run

theorem keeps_execDepthMaxRead {s0 : State} {p vc : Nat} {q : Req} {s : State} (hs : Keeps s0 s) :
    KeepsRes s0 (execDepthMaxRead p vc q s) := by
  unfold execDepthMaxRead
  repeat' first
    | with_reducible assumption
    | with_reducible apply keeps_serveAnyRead
    | with_reducible apply keeps_run

theorem keeps_execDictDoorbell {s0 : State} {q : Req} {s : State} (hs : Keeps s0 s) :
    KeepsRes s0 (execDictDoorbell q s) := by
  unfold execDictDoorbell
  repeat' first
    | with_reducible assumption
    | (intro x; try beta_reduce)
    | with_reducible apply keeps_serveWrite
    | with_reducible apply keeps_actDictDoorbell
    | with_reducible apply keeps_run

theorem keeps_serveOp {s0 : State} {opcode idx sub : Nat} {q : Req} {s : State} (hs : Keeps s0 s) :
    Keeps s0 (serveOp opcode idx sub q s) := by
  unfold serveOp
  repeat' first
    | with_reducible assumption
    | (intro x; try beta_reduce)
    | with_reducible apply keeps_serveAnyRead
    | with_reducible apply keeps_serveWrite
    | with_reducible apply keeps_actionOf
    | with_reducible apply keeps_serveDescribe
    | with_reducible apply keeps_serveNext
    | with_reducible apply keeps_refuse
    | with_reducible apply keeps_takeRequest
    | split

theorem keeps_execRelayRequest {s0 : State} {opcode idx sub : Nat} {q : Req} {s : State} (hs : Keeps s0 s) :
    KeepsRes s0 (execRelayRequest opcode idx sub q s) := by
  unfold execRelayRequest
  repeat' first
    | with_reducible assumption
    | ((try lift_lets -underBinder); intro x; clear_value (hx : x = _); refine keeps_cut (s0 := s0) hx ?_ ?_ <;> clear hx)
    | ((try lift_lets -underBinder); intro x; clear_value x)
    | (intro x; try beta_reduce)
    | with_reducible apply keeps_serveOp
    | with_reducible apply keeps_run

theorem keeps_answerRelay {s0 : State} {s : State} {r : Relay} {code len value : Nat} (hs : Keeps s0 s) :
    Keeps s0 (answerRelay s r code len value) := by
  unfold answerRelay
  repeat' first
    | with_reducible assumption
    | with_reducible apply keeps_emit
    | with_reducible apply keeps_respond
    | split

theorem keeps_execRelayResponse {s0 : State} {pos seq code value : Nat} {s : State} (hs : Keeps s0 s) :
    KeepsRes s0 (execRelayResponse pos seq code value s) := by
  unfold execRelayResponse
  repeat' first
    | with_reducible assumption
    | ((try lift_lets -underBinder); intro x; clear_value (hx : x = _); refine keeps_cut (s0 := s0) hx ?_ ?_ <;> clear hx)
    | ((try lift_lets -underBinder); intro x; clear_value x)
    | (intro x; try beta_reduce)
    | with_reducible apply keeps_answerRelay
    | with_reducible apply keeps_run
    | split
    | (with_reducible apply keeps_mk; with_reducible assumption)

theorem keeps_execRelayTimeoutExpiry {s0 : State} {pos seq : Nat} {s : State} (hs : Keeps s0 s) :
    KeepsRes s0 (execRelayTimeoutExpiry pos seq s) := by
  unfold execRelayTimeoutExpiry
  repeat' first
    | with_reducible assumption
    | ((try lift_lets -underBinder); intro x; clear_value (hx : x = _); refine keeps_cut (s0 := s0) hx ?_ ?_ <;> clear hx)
    | ((try lift_lets -underBinder); intro x; clear_value x)
    | (intro x; try beta_reduce)
    | with_reducible apply keeps_count
    | with_reducible apply keeps_answerRelay
    | with_reducible apply keeps_noteRefusal
    | with_reducible apply keeps_run
    | split
    | (with_reducible apply keeps_mk; with_reducible assumption)

theorem keeps_execDeferredWriteComplete {s0 : State} {idx sub : Nat} {s : State} (hs : Keeps s0 s) :
    KeepsRes s0 (execDeferredWriteComplete idx sub s) := by
  unfold execDeferredWriteComplete
  repeat' first
    | with_reducible assumption
    | ((try lift_lets -underBinder); intro x; clear_value (hx : x = _); refine keeps_cut (s0 := s0) hx ?_ ?_ <;> clear hx)
    | ((try lift_lets -underBinder); intro x; clear_value x)
    | (intro x; try beta_reduce)
    | with_reducible apply keeps_respond
    | with_reducible apply keeps_refuse
    | with_reducible apply keeps_run
    | split
    | (with_reducible apply keeps_mk; with_reducible assumption)

theorem keeps_slotAreaWrite {s0 : State} {s : State} {offset width value : Nat} (hs : Keeps s0 s) :
    Keeps s0 (slotAreaWrite s offset width value) := by
  unfold slotAreaWrite
  repeat' first
    | with_reducible assumption
    | ((try lift_lets -underBinder); intro x; clear_value (hx : x = _); refine keeps_cut (s0 := s0) hx ?_ ?_ <;> clear hx)
    | ((try lift_lets -underBinder); intro x; clear_value x)
    | (intro x; try beta_reduce)
    | with_reducible apply keeps_hostTaken
    | with_reducible apply keeps_count
    | with_reducible apply keeps_slotWrite
    | split

theorem keeps_execMappedWrite {s0 : State} {offset width value : Nat} {s : State} (hs : Keeps s0 s) :
    KeepsRes s0 (execMappedWrite offset width value s) := by
  unfold execMappedWrite
  repeat' first
    | with_reducible assumption
    | (intro x; try beta_reduce)
    | with_reducible apply keeps_slotAreaWrite
    | with_reducible apply keeps_hostTaken
    | with_reducible apply keeps_count
    | with_reducible apply keeps_serveWrite
    | with_reducible apply keeps_actionOf
    | with_reducible apply keeps_run
    | split

theorem keeps_execRingCommand {s0 : State} {ring : Nat} {e : RingEntry} {opcode idx sub : Nat} {readOk : Bool} {q : Req} {s : State} (hs : Keeps s0 s) :
    KeepsRes s0 (execRingCommand ring e opcode idx sub readOk q s) := by
  unfold execRingCommand
  repeat' first
    | with_reducible assumption
    | ((try lift_lets -underBinder); intro x; clear_value (hx : x = _); refine keeps_cut (s0 := s0) hx ?_ ?_ <;> clear hx)
    | ((try lift_lets -underBinder); intro x; clear_value x)
    | (intro x; try beta_reduce)
    | with_reducible apply keeps_refuseEntry
    | with_reducible apply keeps_takeEntry
    | with_reducible apply keeps_setRing
    | with_reducible apply keeps_serveOp
    | with_reducible apply keeps_run
    | split

theorem keeps_execPlcaFallback {s0 : State} {s : State} (hs : Keeps s0 s) :
    KeepsRes s0 (execPlcaFallback s) := by
  unfold execPlcaFallback
  repeat' first
    | with_reducible assumption
    | (intro x; try beta_reduce)
    | with_reducible apply keeps_count
    | with_reducible apply keeps_setE
    | with_reducible apply keeps_run
    | split

theorem keeps_execPlcaStatusRestored {s0 : State} {s : State} (hs : Keeps s0 s) :
    KeepsRes s0 (execPlcaStatusRestored s) := by
  unfold execPlcaStatusRestored
  repeat' first
    | with_reducible assumption
    | (intro x; try beta_reduce)
    | with_reducible apply keeps_setE
    | with_reducible apply keeps_run
    | split

/-! ### Machine/Tick.lean -/

theorem keeps_tick {s0 : State} {s : State} (hs : Keeps s0 s) :
    KeepsRes s0 (tick s) := by
  unfold tick
  repeat' first
    | with_reducible assumption
    | (intro x; try beta_reduce)
    | with_reducible apply keeps_samplePending
    | with_reducible apply keeps_countWaits
    | with_reducible apply keeps_tickClock
    | with_reducible apply keeps_run

end Sys2Proof.Machine
end

