-- ==== Sys2Proof/Laws/Streams.lean ====
section
/-! SUPPORT. What the requests of a millrace and the streams of gate shares can do (02 R46, R587, 11 R349, R361). -/

namespace Sys2Proof.Machine

/-- Routers, senders, packets to be injected and one counter of the present epoch are all that may differ. -/
def Streams (s t : State) : Prop :=
  t = { s with routers := t.routers, senders := t.senders, injQ := t.injQ, stalledInj := t.stalledInj, ent := t.ent } ∧
    SameEntriesBut [(0x2052, getE s 0x2050 0x03 % 4 + 1)] s t

theorem Streams.refl (s : State) : Streams s s := ⟨rfl, fun _ _ _ _ _ => rfl⟩

theorem Streams.epoch {s t : State} (h : Streams s t) : getE t 0x2050 0x03 = getE s 0x2050 0x03 :=
  h.2 0x2050 0x03 (by decide) (by decide) (by simp)

theorem Streams.trans {a b c : State} (h : Streams a b) (g : Streams b c) : Streams a c := by
  refine ⟨?_, fun i j hi hj n => ?_⟩
  · rw [g.1, h.1]
  · rw [g.2 i j hi hj (by rw [h.epoch]; exact n), h.2 i j hi hj n]

theorem streams_of {s t : State} (h : t = { s with routers := t.routers, senders := t.senders, injQ := t.injQ, stalledInj := t.stalledInj })
    (e : t.ent = s.ent) : Streams s t := by
  refine ⟨by rw [h], fun i j _ _ _ => ?_⟩
  rw [h]; rfl

theorem streams_setRouter (s : State) (b : Nat) (r : Router) : Streams s (setRouter s b r) := streams_of rfl rfl
theorem streams_setSender (s : State) (k : Nat) (x : Sender) : Streams s (setSender s k x) := streams_of rfl rfl

theorem streams_inject (s : State) (w dest cls target stone field : Nat) (bs : List Byte) :
    Streams s (inject s w (mkPacket s dest cls target stone field bs)) := by
  unfold inject
  split
  · exact Streams.refl s
  · split
    · exact streams_of rfl rfl
    · refine ⟨rfl, fun i j hi hj n => ?_⟩
      simp only [List.mem_singleton, Prod.mk.injEq] at n
      refine getE_count_ne ?_
      simp only [ekey, mkPacket] at n ⊢
      omega

theorem streams_forEach {α : Type} {f : State → α → State} (hf : ∀ s a, Streams s (f s a)) (l : List α) (s : State) :
    Streams s (forEach s l f) := by
  unfold forEach
  induction l generalizing s with
  | nil => exact Streams.refl _
  | cons a l ih => exact (hf s a).trans (ih _)

theorem streams_pumpUnit (kind unit : Nat) (f : Nat) (s : State) : Streams s (pumpUnit kind unit f s) := by
  induction f generalizing s with
  | zero => exact Streams.refl s
  | succ f ih =>
    unfold pumpUnit
    dsimp only
    split
    · split
      · exact Streams.refl s
      · exact ((streams_setSender s _ _).trans (streams_inject _ _ _ _ _ _ _ _)).trans (ih _)
    · exact Streams.refl s

theorem streams_unitRequests (s : State) (kind unit : Nat) (qs : List OutReq) : Streams s (unitRequests s kind unit qs) :=
  (streams_setSender s _ _).trans (streams_pumpUnit _ _ _ _)

theorem streams_laneRequests (s : State) (w : Nat) (qs : List OutReq) : Streams s (laneRequests s w qs) :=
  streams_forEach (fun s _ => streams_unitRequests s _ _ _) _ s

theorem streams_beginStream (s : State) (b c n : Nat) : Streams s (beginStream s b c n) :=
  (streams_setRouter s b _).trans (streams_laneRequests _ _ _)

theorem streams_askStreams (s : State) (c n : Nat) : Streams s (askStreams s c n) :=
  streams_forEach (fun s b => by split; exacts [Streams.refl s, streams_beginStream s b c n]) _ s

end Sys2Proof.Machine
end

