-- ==== Sys2Proof/Tests/Slice0.lean ====
section
/-! SUPPORT. Tests of the model: small steps, ill-formed commands, and for each statement states and operands that meet its
hypotheses together, clause by clause. -/

set_option Elab.async false

namespace Sys2Proof.Tests

open Sys2Proof Sys2Proof.Machine

/-! ### Small states -/

/-- The part in a device state. -/
def inMode (m : Mode) : State := { State.reset with mode := m }

/-- A stone that context 0 runs. -/
def stone0 : Stone := { Stone.initial with owner := some 0, run := .running }

/-- Running, with context 0 on stone 0, which is as `x`. -/
def running (x : Stone) : State :=
  { inMode .running with
    ctxs := [(0, { Ctx.initial with state := .running, phys := [(0, 0)], resident := true, slice := true })]
    stones := [(0, x)] }

def r0 : State := running stone0

/-- A header without SIGNAL_EN. -/
def h0 : IHdr := { varying := false, soc := false, signalEn := false, signalObj := 0, resv := 0 }

/-- A dictionary request in mailbox slot 0. -/
def wr (typ length value : Nat) : Req :=
  { path := 1, src := 0, slot := 0, seq := 7, version := 1, position := 0, relay := false, resv := 0, typ := typ, length := length,
    frameLen := length, value := value, viaPath := 0, fromPos := 0 }

/-- Operands with values at the given low bits. -/
def ops (l : List (Nat × Nat)) : Operands := BitVec.ofNat 112 (l.foldl (fun a p => a + p.2 * 2 ^ p.1) 0)

/-- The outcome is a next state for which `p` holds. -/
def nextIs (r : Host.Outcome State Fault Refusal) (p : State → Bool) : Bool :=
  match r with
  | .next t => p t
  | _ => false

/-- A fault of a class with a cause at a stone. -/
def flt (cls cause : Nat) : Fault16 := { cls := cls, cause := cause, kind := 0, unit := 5, ctx := none, detail := 0 }

/-- An image of nothing but a lead stone. -/
def img0 : Image :=
  { partOk := true, lengthKib := 1, bytes := 0, byteCount := 0, stones := [], leadStone := 0, stepDescOffset := 0, layers := [],
    objects := [], regions := [], syncMax := 0, tiles := [], colls := [], rings := [], aqueducts := [] }

/-! ### The machine -/

theorem witness_front_command : { State.reset with pending := [.resetAssert, .refclkLost] }.pending = .resetAssert :: [.refclkLost] := rfl

theorem witness_idle : { State.reset with pending := [] }.pending = [] ∧ State.reset.resetLow = false ∧
    { State.reset with resetLow := true }.resetLow = true := by decide

theorem witness_step_answers : ∃ t, step State.reset = .next t := ⟨_, rfl⟩

theorem witness_every_command : unitExists (.stack 7) = true ∧ unitExists (.stack 8) = false := by decide

theorem witness_held_in_reset : { State.reset with resetLow := true }.resetLow = true ∧ Instr.refclkLost ≠ .resetAssert := by decide

theorem test_decode_has_no_bits : decodeTableWord 8 255 = none := rfl

theorem test_missing_unit_faults : exec (.unitFailure (.stack 8)) State.reset = .fault .noSuchUnit := rfl

/-! ### The sequencer, sync objects, DMA, fences -/

/-- R1 = 7, LC0 = 1, LC1 = 2. -/
def seqStone : Stone := { stone0 with areg := [(1, 7#32), (2, 70000#32)], lc := [(0, 1#24), (1, 2#24)] }
def rSeq : State := running seqStone

/-- Context 0 runs an image whose lead stone, which is stone 0, has `n` instructions; it bounds no region. -/
def rListed (n : Nat) : State := { rSeq with
  ctxs := [(0, { Ctx.initial with
    state := .running, phys := [(0, 0)], resident := true, slice := true
    image := some { img0 with
      stones := [{ stone := 0, expert := false, words := List.replicate n 0, granules := [], bytes := [] }] } })] }

theorem witness_sequencer : issues rSeq 0 h0 [] [] = true ∧
    onlyFields [(111, 108), (105, 102), (23, 0)] (ops [(109, 7), (0, 2 ^ 24 - 1)]) = true ∧ onlyFields [] (ops []) = true ∧
    (onlyFields [(47, 32)] (ops [(32, 65535)]) = true ∧ boundOk rSeq 0 65535 = true ∧ boundOk (rListed 1) 0 0 = false) ∧
    (onlyFields [(111, 108), (107, 107), (16, 0)] (ops [(0, 65536)]) = true ∧ flag 107 (ops [(0, 65536)]) = false ∧
      fld 16 0 (ops [(0, 65536)]) ≤ 65536) ∧
    (onlyFields [(111, 108), (107, 107), (16, 0)] (ops [(108, 2), (107, 1)]) = true ∧ flag 107 (ops [(108, 2), (107, 1)]) = true) ∧
    onlyFields [(111, 108), (107, 106), (105, 102), (31, 0)] (ops [(108, 15), (106, 3), (102, 1), (0, 2 ^ 32 - 1)]) = true := by decide +kernel

theorem witness_jumps : issues rSeq 0 h0 [] [] = true ∧
    (onlyFields [(111, 109), (105, 102), (13, 0)] (ops [(109, 4), (102, 1), (0, 16383)]) = true ∧
      fld 111 109 (ops [(109, 4), (102, 1), (0, 16383)]) ≤ 4 ∧ targetOk rSeq 0 16383 = true) ∧
    (onlyFields [(111, 109), (13, 0)] (ops [(109, 7)]) = true ∧ targetOk (rListed 1) 0 0 = true ∧ targetOk (rListed 1) 0 1 = false ∧
      issues (rListed 1) 0 h0 [] [] = true) ∧
    lcOf (stoneOf rSeq 0) 2 = 0 ∧ lcOf (stoneOf rSeq 0) 0 = 1 ∧ (lcOf (stoneOf rSeq 0) 1 ≠ 0 ∧ lcOf (stoneOf rSeq 0) 1 ≠ 1) := by
  decide +kernel

/-- Context 0 on stones 0, its lead stone, and 1. -/
def rTwo : State := { rSeq with
  ctxs := [(0, { Ctx.initial with
    state := .running, image := some img0, phys := [(0, 0), (1, 1)], resident := true, slice := true })]
  stones := [(0, stone0), (1, stone0)] }

theorem witness_rests : issues rTwo 1 h0 [] [] = true ∧ onlyFields [] (ops []) = true ∧ (stoneOf rTwo 1).owner = some 0 ∧
    leadStone rTwo 0 = some 0 ∧ 0 ≠ 1 ∧ (stoneFor rTwo 0 0).yields ≤ (stoneOf rTwo 1).yields := by decide +kernel

theorem witness_region : (running { stone0 with np := some 65535 }).resetLow = false ∧
    (stoneOf (running { stone0 with np := some 65535 }) 0).np = some 65535 ∧
    isFenced (running { stone0 with np := some 65535 }) 0 = false := by decide +kernel

theorem test_branch_not_taken : nextIs (exec (.branch 0 h0 (ops [(109, 1), (102, 1), (0, 9)])) rSeq)
    (fun t => (stoneOf t 0).pc == 1) = true := by decide +kernel

theorem test_branch_negative_taken : nextIs (exec (.branch 0 h0 (ops [(109, 3), (102, 1), (0, 9)]))
    (running { stone0 with areg := [(1, 0x80000000#32)] })) (fun t => (stoneOf t 0).pc == 9) = true := by decide +kernel

/-- 05 R174: a TARGET past the last of one instruction. -/
theorem test_branch_past_the_list_is_bad_instruction : nextIs (exec (.branch 0 h0 (ops [(0, 1)])) (rListed 1))
    (fun t => t.recU.cause == 0x04 && (stoneOf t 0).run == .stopped) = true := by decide +kernel

theorem test_loop_back_counts_to_zero : nextIs (exec (.loopBack 0 h0 (ops [(0, 3)])) rSeq)
    (fun t => (stoneOf t 0).pc == 1 && lcOf (stoneOf t 0) 0 == 0) = true := by decide +kernel

theorem test_set_vl_takes_at_most_65536 : nextIs (exec (.setVl 0 h0 (ops [(108, 2), (107, 1)])) rSeq)
    (fun t => (stoneOf t 0).vl == 65536 && (aregOf (stoneOf t 0) 2).toNat == 4464) = true := by decide +kernel

theorem test_reserved_operand_bit_is_bad_instruction : nextIs (exec (.halt 0 h0 (ops [(0, 1)])) rSeq)
    (fun t => t.recU.cause == 0x04 && (stoneOf t 0).run == .stopped) = true := by decide +kernel

theorem test_halt_blocks_its_context : nextIs (exec (.halt 0 h0 (ops [])) rSeq)
    (fun t => (ctxOf t 0).state == .blocked && (stoneOf t 0).run == .halted) = true := by decide +kernel

theorem witness_sync : memIssues rSeq 0 h0 [] [] = true ∧ onlyFields [(111, 79), (31, 0)] (ops [(110, 3), (109, 1), (105, 1)]) = true ∧
    (syncOf seqStone 3).err = false ∧ 0 ≤ ((syncOf seqStone 3).val - 0#32).toInt ∧ ((syncOf seqStone 3).val - 1#32).toInt < 0 := by
  decide +kernel

theorem witness_sync_signal : memIssues rSeq 0 h0 [] [] = true ∧ onlyFields [(111, 79), (31, 0)] (ops [(79, 5), (0, 1)]) = true ∧
    fld 104 91 (ops [(79, 5), (0, 1)]) = pkgId rSeq ∧ fld 104 91 (ops [(91, 9)]) ≠ pkgId rSeq ∧
    requestWaits rSeq 0 0 2 9 false 0 4 = false := by decide +kernel

/-- Stone 0 in a WAIT, with a watchdog of 1 ms. -/
def rWaits : State := setE (running { stone0 with run := .waiting 1 5#32 0 }) 0x5022 0x01 1

/-- A WAIT that is set aside with its context. -/
def rWaitsAside : State := { rWaits with
  stones := [], ctxs := [(0, { Ctx.initial with state := .blocked, savedStones := [(0, { stone0 with run := .waiting 1 5#32 0 })] })] }

theorem witness_signal_delivery : rSeq.resetLow = false ∧ (isFenced rSeq 0 = false ∧ (stoneOf rSeq 0).owner = some 0) ∧
    isFenced { rSeq with fenced := [0] } 0 = true ∧
    ((stoneOf rWaits 0).run = .waiting 1 5#32 0 ∧ getE rWaits 0x5022 0x01 ≠ 0) ∧
    (∃ p ∈ rWaitsAside.ctxs, (tget Stone.initial p.2.savedStones 0).run = .waiting 1 5#32 0) :=
  ⟨rfl, ⟨rfl, rfl⟩, by decide +kernel, by decide +kernel, ⟨_, List.mem_singleton.mpr rfl, rfl⟩⟩

theorem test_wait_ends_when_its_value_is_reached : nextIs (exec (.signalDelivery 0 1 5) rWaits)
    (fun t => (stoneOf t 0).run == .running && (stoneOf t 0).pc == 1) = true := by
  decide +kernel

/-- A descriptor that moves `n` bytes from one SRAM offset of stone 0 to another. -/
def copyDesc (src dst n : Nat) : BitVec 256 :=
  BitVec.ofNat 256 (src * 2 ^ 192 + dst * 2 ^ 128 + n * 2 ^ 104 + 2 ^ 92 + 2 * 2 ^ 27 + 2 * 2 ^ 25)
/-- A descriptor of stone 0 that no other package takes part in, begun. -/
def dma0 (d : BitVec 256) : Dma :=
  { stone := 0, desc := d, started := true, want := 0, got := [], moved := false, failed := false, waits := false, stage := none }
def rDma : State := { rSeq with dmas := [dma0 (copyDesc 2 64 3)], sram := [(2, 17#8), (4, 5#8)] }

theorem witness_dma_post : issues r0 0 h0 [((reg r0 0 (fld 111 108 (ops []))).toNat, 32)] [] = true ∧
    onlyFields [(111, 108)] (ops []) = true ∧ (reg r0 0 (fld 111 108 (ops []))).toNat % 32 = 0 ∧
    (reg r0 0 (fld 111 108 (ops []))).toNat + 32 ≤ 2 ^ 18 ∧ badIn r0 0 [(0, 32)] = none ∧ crosses r0 (copyDesc 2 64 3) = false ∧
    (r0.dmas.filter (fun d => d.stone == 0)).length < 8 ∧
    (r0.dmas.filter (fun d => d.stone / 64 == 0 / 64)).length < 64 := by decide +kernel

theorem witness_dma_moves : rDma.resetLow = false ∧
    dmaTurn rDma 0 = some 0 ∧ oldestDma rDma 0 = some (dma0 (copyDesc 2 64 3)) ∧ dmaOut rDma (dma0 (copyDesc 2 64 3)) = 0 ∧
    dmaFormOk (copyDesc 2 64 3) = true ∧ dmaRows (copyDesc 2 64 3) = 1 ∧ dmaSrcSpace (copyDesc 2 64 3) = 2 ∧
    dmaDstSpace (copyDesc 2 64 3) = 2 ∧ dmaSramOk rDma (dmaSrc (copyDesc 2 64 3)) (dmaLen (copyDesc 2 64 3)) = true ∧
    dmaSramOk rDma (dmaDst (copyDesc 2 64 3)) (dmaLen (copyDesc 2 64 3)) = true ∧ dmaSigEn (copyDesc 2 64 3) = false ∧
    badIn rDma 0 [(2, 3)] = none ∧ badIn rDma 0 (edgeWords (64, 3)) = none ∧
    dmaSigEn (copyDesc 2 64 3 ||| 0x20000000#256) = true ∧
    isFenced rDma (dmaSigStone (copyDesc 2 64 3 ||| 0x20000000#256)) = false := by decide +kernel

theorem test_dma_moves_a_row : nextIs (exec (.dmaDescriptorComplete 0 0 none []) rDma)
    (fun t => t.sram == [(2, 17#8), (4, 5#8), (64, 17#8), (66, 5#8)] && t.dmas.isEmpty) = true := by decide +kernel

theorem witness_scrub : r0.resetLow = false ∧ isFenced r0 0 = false ∧ 0 * 2 ^ 15 + 8 / 8 ∉ r0.wordErrs ∧
    0 * 2 ^ 15 + 8 / 8 ∈ { r0 with wordErrs := [1] }.wordErrs ∧ refillable r0 0 (8 / 1024) = none := by decide +kernel

/-- Context 0 STOPPED with logical stone 3 on stone 9. -/
def rStopped (x : CtxState) : State := { r0 with ctxs := [(0, { Ctx.initial with state := x, phys := [(3, 9)] })] }

theorem witness_fences_and_remap :
    (accepts 0x8032 0x01 (wr 2 2 9) { r0 with fenced := [9] } = true ∧ isFenced { r0 with fenced := [9] } (9 % 4096) = true) ∧
    (accepts 0x8032 0x01 (wr 2 2 4095) r0 = true ∧ isFenced r0 (4095 % 4096) = false) ∧
    (accepts 0x5020 0x01 (wr 3 4 (3 * 2 ^ 12 + 40)) (rStopped .stopped) = true ∧ (ctxOf (rStopped .stopped) 0).state = .stopped ∧
      (ctxOf (rStopped .stopped) 0).phys.any (fun p => p.1 == 3) = true ∧ isFenced (rStopped .stopped) 40 = false ∧
      (stonesInUse (rStopped .stopped) 0).contains 40 = false) ∧
    (accepts 0x5020 0x01 (wr 3 4 (3 * 2 ^ 12 + 40)) { rStopped .swapped with fenced := [40] } = true ∧
      isFenced { rStopped .swapped with fenced := [40] } 40 = true) ∧ (ctxOf (rStopped .swapped) 0).phys.any (fun p => p.1 == 0) = false ∧
    (stonesInUse (rStopped .stopped) 0).contains 9 = true ∧
    (accepts 0x5020 0x01 (wr 3 4 0) (rStopped .loading) = true ∧ (ctxOf (rStopped .loading) 0).state = .loading) ∧
    (accepts 0x5020 0x01 (wr 3 4 0) (rStopped .blocked) = true ∧ (ctxOf (rStopped .blocked) 0).state = .blocked) := by decide +kernel
/-! ### Pond memory -/

/-- R2 and R3 name offset 64 of position 9; R4 and R5 a word of the lake window of package 70; R6 is 16. -/
def rMem : State := running { stone0 with
  areg := [(2, 64#32), (3, 1152#32), (4, 128#32), (5, BitVec.ofNat 32 (2 ^ 31 + 70 * 2 ^ 10)), (6, 16#32)] }

theorem witness_load_store : onlyFields [(111, 92)] (ops [(108, 2), (104, 6), (92, 4095)]) = true ∧
    fld 111 108 (ops [(108, 2), (104, 6), (92, 4095)]) % 2 = 0 ∧ addressOk (64 + 2 ^ 32 * 1152) = true ∧ 16 + 4096 ≤ 2 ^ 18 ∧
    memIssues rMem 0 h0 [] [(16, 4096)] = true ∧ bit 63 (64 + 2 ^ 32 * 1152) = false ∧
    readsAbsent (issued rMem 0) 0 (64 + 2 ^ 32 * 1152) 4096 = false ∧ badIn rMem 0 [(16, 4096)] = none ∧
    requestWaits rMem 0 0 0 (homeOf rMem (64 + 2 ^ 32 * 1152)) false 64 4096 = false ∧
    (memIssues rMem 0 h0 [(16, 4096)] [] = true ∧ requestWaits rMem 0 0 1 (homeOf rMem (64 + 2 ^ 32 * 1152)) false 64 4096 = false) ∧
    (addressOk (128 + 2 ^ 32 * (2 ^ 31 + 70 * 2 ^ 10)) = true ∧ bit 63 (128 + 2 ^ 32 * (2 ^ 31 + 70 * 2 ^ 10)) = true ∧
      addressOffset (128 + 2 ^ 32 * (2 ^ 31 + 70 * 2 ^ 10)) % 64 + 64 ≤ 64 ∧ memIssues rMem 0 h0 [(16, 64)] [] = true ∧
      requestWaits rMem 0 0 1 70 true 128 64 = false) := by decide +kernel

theorem witness_atomic : onlyFields [(111, 92)] (ops [(108, 4), (104, 6), (100, 6), (96, 10), (95, 1), (94, 1), (93, 1)]) = true ∧
    fld 99 96 (ops [(108, 4), (104, 6), (100, 6), (96, 10), (95, 1), (94, 1), (93, 1)]) = 10 ∧
    bit 63 (128 + 2 ^ 32 * (2 ^ 31 + 70 * 2 ^ 10)) = flag 94 (ops [(94, 1)]) ∧
    addressOk (128 + 2 ^ 32 * (2 ^ 31 + 70 * 2 ^ 10)) = true ∧ addressOffset (128 + 2 ^ 32 * (2 ^ 31 + 70 * 2 ^ 10)) % 8 = 0 ∧
    memIssues rMem 0 h0 [(16, 8)] [(16, 8)] = true ∧ badIn rMem 0 [(16, 8)] = none ∧ requestWaits rMem 0 0 14 70 true 128 8 = false := by decide +kernel

theorem witness_request_leaves : freeSlotOf 0 (senderOf rMem 0) = some 0 ∧ 9 ≠ pkgId rMem ∧ rMem.mode = .running ∧
    getE (setE rMem 0x2050 0x03 0) 0x2050 0x03 ≠ 0xFF := by decide +kernel

/-- A request of stone 0 that is outstanding: op `op`, attempt `a`, SEQ 4, slot 2. -/
def out0 (op a : Nat) : OutReq :=
  { slot := 2, seq := 4, op := op, dest := 9, lake := false, offset := 64, size := 8, issueT := 0, attempt := a, targetStone := 0,
    payload := [], sramDst := some 16, width := 8, pc := 0, signal := none }

/-- The stone's instruction holds its slot while the request, with `k` expiries, is outstanding. -/
def rOut (op a k : Nat) : State := { running { stone0 with
    pc := 1, inflight := [{ pc := 0, kind := 3, srcs := [], dsts := [(16, 8)], signal := none }] } with
  senders := [(0, { nextSeq := 5, reqs := [out0 op a], expired := if k = 0 then [] else [(2, k)], waitQ := [] })] }

theorem witness_fence : memIssues rMem 0 h0 [] [] = true ∧ onlyFields [] (ops []) = true ∧
    ((senderOf rMem 0).reqs = [] ∧ ∀ i ∈ (stoneOf rMem 0).inflight, i.kind ≠ 30) ∧
    (memIssues (rOut 0 0 0) 0 h0 [] [] = true ∧ (senderOf (rOut 0 0 0) 0).reqs ≠ []) := by decide +kernel

/-- A request of package 9 for `n` bytes at offset `off`. -/
def req9 (op off n : Nat) (bs : List (BitVec 8)) : MemReq :=
  { srcPkg := 9, jobTag := 5, op := op, unitKind := 0, unit := 0, slot := 0, size := n, seq := 3, issueT := 0, attempt := 0,
    lake := false, offset := off, targetStone := 0, payload := bs }

/-- Window 0 of job 5: all of the first MiB, with every right, at MiB 2. -/
def win5 : BitVec 128 := BitVec.ofNat 128 (2 * 2 ^ 71 + 5 * 2 ^ 55 + 15 * 2 ^ 51)
def rHome : State := { r0 with jobTag := 5, windows := [(0, win5)] }

theorem witness_request_at_home : rHome.resetLow = false ∧ (req9 0 60 8 []).lake = false ∧ (req9 0 60 8 []).op = 0 ∧
    tooOld rHome (req9 1 60 8 []) = false ∧ (req9 1 60 4096 []).size ≤ 4096 ∧
    translate rHome 5 60 8 winRead = some (2 * 2 ^ 20 + 60) ∧ translate rHome 5 60 8 winWrite = some (2 * 2 ^ 20 + 60) ∧
    translate rHome 5 (2 ^ 20 - 7) 8 winRead = none := by decide +kernel

/-- The two parts of an 8-byte STORE at offset 60 are queued. -/
def st60 : MemReq := req9 1 60 8 [1#8, 2#8, 3#8, 4#8, 5#8, 6#8, 7#8, 8#8]
def part0 : LineReq := { line := 32768, phys := 2 * 2 ^ 20 + 60, len := 4, at_ := 0, req := st60 }
def rLine : State := { rHome with
  lineQ := [part0, { line := 32769, phys := 2 * 2 ^ 20 + 64, len := 4, at_ := 4, req := st60 }]
  homeReqs := [{ req := st60, left := 2, data := [], bad := false }] }

theorem witness_line_performed : rLine.lineQ.find? (fun x => x.line == 32768) = some part0 ∧
    rLine.homeReqs.find? (fun x => x.req == st60) = some { req := st60, left := 2, data := [], bad := false } ∧ st60.op = 1 ∧ tooOld rLine st60 = false ∧
    part0.phys + part0.len ≤ 2 ^ 39 ∧ part0.at_ + part0.len ≤ st60.payload.length := by decide +kernel

/-- An atomic of package 9 on the word at offset 64, whose value is 7. -/
def at64 (op n : Nat) : MemReq := req9 op 64 n [5#8, 0#8, 0#8, 0#8, 0#8, 0#8, 0#8, 0#8, 6#8, 0#8, 0#8, 0#8, 0#8, 0#8, 0#8, 0#8]
def rAtomic (op n : Nat) : State := { rHome with
  mem := (List.range 8).map (fun i => (2 * 2 ^ 20 + 64 + i, if i = 0 then 7#8 else 0#8))
  lineQ := [{ line := 32769, phys := 2 * 2 ^ 20 + 64, len := n, at_ := 0, req := at64 op n }]
  homeReqs := [{ req := at64 op n, left := 1, data := [], bad := false }] }

theorem witness_atomic_performed : ∀ op ∈ [4, 9, 14], (rAtomic op 8).lineQ.find? (fun x => x.line == 32769) =
      some { line := 32769, phys := 2 * 2 ^ 20 + 64, len := 8, at_ := 0, req := at64 op 8 } ∧
    (rAtomic op 8).homeReqs.find? (fun x => x.req == at64 op 8) = some { req := at64 op 8, left := 1, data := [], bad := false } ∧
    9 ≠ pkgId (rAtomic op 8) ∧ ledgerEntry (rAtomic op 8) (at64 op 8) = none ∧ tooOld (rAtomic op 8) (at64 op 8) = false ∧
    (rAtomic op 8).ledger.length < 65536 := by decide +kernel

theorem test_fetch_and_add : nextIs (exec (.lineRequestPerformed 32769 true) (rAtomic 7 4))
    (fun t => (memByte t (2 * 2 ^ 20 + 64)).toNat == 12 && (t.ledger.map (·.old)) == [7]) = true := by decide +kernel

theorem test_compare_and_swap_fails : nextIs (exec (.lineRequestPerformed 32769 true) (rAtomic 6 4))
    (fun t => (memByte t (2 * 2 ^ 20 + 64)).toNat == 7) = true := by decide +kernel

/-- A response to slot 2 with a SEQ. -/
def resp (seq st : Nat) : MemResp :=
  { srcPkg := 9, op := 0, unitKind := 0, unit := 0, slot := 2, seq := seq, attempt := 0, status := st, replayed := false,
    payload := [9#8] }

theorem witness_responses : (rOut 0 0 0).resetLow = false ∧
    (senderOf (rOut 0 0 0) (0 * 4096 + 0)).reqs.find? (fun q => q.slot == (resp 3 0).slot && q.seq == (resp 3 0).seq) = none ∧
    (senderOf (rOut 0 0 0) (0 * 4096 + 0)).reqs.find? (fun q => q.slot == (resp 4 0).slot && q.seq == (resp 4 0).seq) =
      some (out0 0 0) ∧
    (senderOf (rOut 1 0 2) 0).reqs.find? (fun q => q.slot == 2) = some (out0 1 0) ∧
    tget 0 (senderOf (rOut 1 0 2) 0).expired 2 < 3 ∧ 3 ≤ tget 0 (senderOf (rOut 1 0 3) 0).expired 2 ∧
    (out0 0 2).attempt < 3 ∧ 3 ≤ (out0 0 3).attempt := by decide +kernel

def led : LedgerEnt := { srcPkg := 9, unitKind := 0, unit := 0, seq := 3, old := 7, expiry := 0 }

theorem witness_ledger_expiry : { rHome with ledger := [led] }.ledger.find?
      (fun e => e.srcPkg == 9 && e.unitKind == 0 && e.unit == 0 && e.seq == 3) = some led ∧ led.expiry ≤ now rHome ∧
    { rHome with ledger := [led] }.ledgerWait = [] ∧
    { rHome with ledger := [led], ledgerWait := [(at64 7 4, 2 * 2 ^ 20 + 64)] }.ledgerWait = (at64 7 4, 2 * 2 ^ 20 + 64) :: [] := by
  decide +kernel

/-- The staged window entry is `w`. -/
def rStage (w : BitVec 128) : State := setE { inMode .running with jobTag := 5 } 0x4050 0x01 w.toNat

theorem witness_window : accepts 0x4050 0x02 (wr 1 1 0) (rStage win5) = true ∧
    (windowRangesOk (takeRequest (rStage win5) (wr 1 1 0)) 0 win5 = true ∧ winTag win5 = (rStage win5).jobTag) ∧
    windowRangesOk (takeRequest (rStage (win5 + 1)) (wr 1 1 0)) 0 (win5 + 1) = false ∧
    (windowRangesOk (takeRequest (rStage win5) (wr 1 1 0)) 0 win5 = true ∧ winTag win5 ≠ { rStage win5 with jobTag := 6 }.jobTag) ∧
    accepts 0x4050 0x03 (wr 1 1 0) (rStage win5) = true := by decide +kernel
/-! ### Reset, start-up, security, power -/

theorem witness_reset_pin : { r0 with resetLow := true }.resetLow = true ∧ (inMode .verified).resetLow = false ∧
    (inMode .verified).mode = .verified ∧ bit 0 (getE (inMode .verified) 0x3010 0x02) = false ∧
    bit 1 (getE (inMode .verified) 0x3010 0x02) = false ∧ 7 < 8 ∧
    (bit 1 (getE (setE (inMode .verified) 0x3010 0x02 3) 0x3010 0x02) = true ∧
      bit 2 (getE (setE (inMode .verified) 0x3010 0x02 3) 0x3010 0x02) = false) := by decide +kernel

theorem witness_clocks : r0.resetLow = false ∧ r0.power.refclkLost = false ∧ (bit 13 (getE r0 0x3010 0x01) = false ∧ 13 < 14) ∧
    bit 13 (getE (setE r0 0x3010 0x01 (2 ^ 13)) 0x3010 0x01) = true := by decide +kernel

theorem witness_firmware_load : accepts 0x9010 0x05 (wr 16 16 (4096 * 2 ^ 64 + 4096 * 2 ^ 32)) (inMode .dormant) = true ∧
    bits 127 64 (4096 * 2 ^ 64 + 4096 * 2 ^ 32) % 4096 = 0 ∧ getE (takeRequest (inMode .dormant) (wr 16 16 0)) 0x9030 0x03 ≠ 1 ∧
    (accepts 0x9010 0x05 (wr 16 16 (8 * 2 ^ 64)) (inMode .dormant) = true ∧ bits 127 64 (8 * 2 ^ 64) % 4096 ≠ 0) ∧
    (accepts 0x9010 0x05 (wr 16 16 0) (setE (inMode .dormant) 0x9030 0x03 1) = true ∧
      getE (takeRequest (setE (inMode .dormant) 0x9030 0x03 1) (wr 16 16 0)) 0x9030 0x03 = 1) := by decide +kernel

/-- The smallest good image. -/
def fw0 : FwImage :=
  { readOk := true, magic := 0x57465853, format := 1, partCode := 0x4096, version := 3, securityVersion := 0, keyIndex := 3, resv := 0,
    length := 4096, digest := 9, sigOk := true }

/-- Dormant, with the image being read. -/
def loadingFw : State := { inMode .dormant with sec := { Security.initial with fwLoading := some 4096 } }

theorem witness_firmware_checked : loadingFw.resetLow = false ∧ loadingFw.mode = .dormant ∧ loadingFw.sec.fwLoading = some 4096 ∧
    (fw0.readOk = true ∧ headerGood fw0 4096 = true ∧ loadingFw.fuses.revokedFwKeys.contains fw0.keyIndex = false ∧
      loadingFw.fuses.fusedSecurityVersion ≤ fw0.securityVersion ∧ fw0.sigOk = true ∧ fw0.keyIndex < 4) ∧
    { fw0 with readOk := false }.readOk = false ∧ headerGood { fw0 with length := 4032 } 4096 = false ∧
    { loadingFw with fuses := { Fuses.initial with revokedFwKeys := [3] } }.fuses.revokedFwKeys.contains fw0.keyIndex = true ∧
    fw0.securityVersion < { Fuses.initial with fusedSecurityVersion := 1 }.fusedSecurityVersion ∧
    { fw0 with sigOk := false }.sigOk = false := by decide +kernel

theorem test_good_firmware_enters_verified : nextIs (exec (.firmwareImageChecked fw0) loadingFw)
    (fun t => t.mode == .verified && getE t 0x9010 0x04 == 2) = true := by decide +kernel

theorem test_bad_signature_stays_dormant : nextIs (exec (.firmwareImageChecked { fw0 with sigOk := false }) loadingFw)
    (fun t => t.mode == .dormant && getE t 0x9010 0x04 == 7) = true := by decide +kernel

theorem witness_security_writes : accepts 0x9010 0x06 (wr 1 1 1) (inMode .verified) = true ∧
    accepts 0x9040 0x01 (wr 16 32 1) (inMode .verified) = true ∧ accepts 0x9040 0x02 (wr 16 64 1) (inMode .verified) = true ∧
    accepts 0x9020 0x02 (wr 16 32 1) (inMode .verified) = true ∧ accepts 0x9030 0x02 (wr 16 160 0) (inMode .verified) = true ∧
    bits 767 320 0 = 0 ∧ bits 767 320 (2 ^ 767) ≠ 0 := by decide +kernel

theorem witness_security_events : { inMode .verified with sec := { Security.initial with quoting := some 5 } }.sec.quoting = some 5 ∧
    { inMode .running with sec := { Security.initial with unlocking := true } }.sec.unlocking = true ∧
    getE (inMode .verified) 0x9030 0x03 ≠ 1 ∧ getE (setE (inMode .dormant) 0x9030 0x03 1) 0x9030 0x03 = 1 := by decide +kernel

/-- Clean, with a tolerance that every power state keeps; the rings' enables are listed, which makes the evaluation short. -/
def restful (k : Nat) : State := { inMode .clean with
  power := { Power.initial with state := k }
  ent := (ekey 0 0x3000 0x02, 100000000) :: (List.range 256).map (fun c => (ekey 0 (0xB100 + c) 0x03, 0)) }

theorem witness_power_entry : mayRest (restful 0) = true ∧ (restful 0).power.waking = false ∧ (restful 0).power.entering = none ∧
    quiescent (restful 0) = true ∧ qualifies (restful 0) 1 = true ∧ qualifies (restful 3) 4 = true ∧ stillAllowed (restful 3) = true := by
  decide +kernel

/-- A part whose power controller is as `p`. -/
def withPower (p : Power) : State := { inMode .clean with power := p }

theorem witness_power_wake :
    ((withPower { Power.initial with state := 2, entering := some 3 }).power.entering = some 3 ∧
      (withPower { Power.initial with state := 2, entering := some 3 }).power.wakePending = false) ∧
    ((withPower { Power.initial with state := 1, trip := 2 }).power.entering = none ∧
      (withPower { Power.initial with state := 1, trip := 2 }).power.waking = false ∧
      1 ≤ (withPower { Power.initial with state := 1, trip := 2 }).power.state ∧
      (withPower { Power.initial with state := 1, trip := 2 }).power.trip < 3) ∧
    ((withPower { Power.initial with state := 4, waking := true, sramOff := true }).power.waking = true ∧
      (withPower { Power.initial with state := 4, waking := true, sramOff := true }).pools = []) ∧
    accepts 0x3000 0x02 (wr 3 4 100) (inMode .running) = true := by decide +kernel

theorem witness_power_limits : (withPower { Power.initial with trip := 2 }).power.trip < 3 ∧ (880 : Int) ≤ 880 ∧ (879 : Int) < 880 ∧
    (nextThermal { Power.initial with trip := 2 } 879 879 (8 * ((getE r0 0x3020 0x05 : Nat) : Int))).trip < 3 ∧
    (∀ a ∈ [4096] ++ [], channelOf a / 16 ≠ 7) ∧ channelOf 0 / 16 = 0 := by decide +kernel

/-! ### The plumb and the interrupt controller -/

/-- A held record of cause 1 at stone 5. -/
def held : FaultRec := { FaultRec.empty with valid := true, cause := 1, unit := 5, repeats := 255 }

theorem witness_fault_arrival : r0.deadPairs.contains ((flt 1 1).kind, (flt 1 1).unit) = false ∧ (recOf r0 1).valid = false ∧
    (flt 1 1).cls < 2 ∧
    ((recOf { r0 with recC := held } 0).valid = true ∧ (recOf { r0 with recC := held } 0).cause = (flt 0 1).cause ∧
      (recOf { r0 with recC := held } 0).kind = (flt 0 1).kind ∧ (recOf { r0 with recC := held } 0).unit = (flt 0 1).unit) ∧
    ({ r0 with recC := held }.recC.valid = true ∧ { r0 with recC := held }.recU.valid = false ∧
      ¬(held.cause = (flt 0 2).cause ∧ held.kind = (flt 0 2).kind ∧ held.unit = (flt 0 2).unit)) ∧
    (flt 2 0x66).cls = 2 ∧ r0.mode ≠ .dormant ∧ (inMode .dormant).mode = .dormant := by decide +kernel

theorem test_second_source_escalates : nextIs (exec (.faultReport [flt 0 2]) { r0 with recC := held })
    (fun t => t.recC.overflow && t.recU.escalated && t.recU.cause == 2 && t.recU.fromCause == 1) = true := by decide +kernel

theorem test_repeats_saturate : nextIs (exec (.faultReport [flt 0 1]) { r0 with recC := held })
    (fun t => t.recC.repeats == 255 && !t.recU.valid) = true := by decide +kernel

/-- The keystone of its pond, or a worker. -/
def keystone : State := setE (setE (inMode .running) 0x1020 0x01 (2 ^ 15)) 0x2010 0x01 0
def worker : State := setE (inMode .running) 0x2010 0x01 63

theorem witness_fault_commands : r0.resetLow = false ∧ ((flt 1 1).cause ≠ 0x49 ∧ (flt 1 1).cause ≠ 0x0E) ∧
    r0.deadPairs.contains (2, 3) = false ∧ accepts 0x8020 0x01 (wr 1 1 7) { inMode .faulted with recF := held } = true ∧
    ({ setE r0 0x8000 0x02 1 with cAckDue := true, recC := held }.cAckDue = true ∧ firmwareUp (setE r0 0x8000 0x02 1) = true ∧
      getE (setE r0 0x8000 0x02 1) 0x8000 0x02 = 1) ∧
    (firmwareUp keystone = true ∧ isKeystone keystone = true ∧ 63 < 64) ∧
    (firmwareUp worker = true ∧ isKeystone worker = false ∧ getE worker 0x2010 0x01 ≠ 0xFF ∧ worker.keystoneSilent = false) := by decide +kernel

/-- Event source 4 is held and is the one source unmasked; the PENDING words are listed, which makes the evaluation short. -/
def irq0 : State := { inMode .running with
  holds := [4]
  ent := (ekey 0 0xC000 0x01, 2 ^ 32 - 17) :: (List.range 16).map (fun i => (ekey 0 0xC000 (0x11 + i), 0)) }

theorem witness_interrupt_selection : irq0.resetLow = false ∧ 0 < 3 ∧ bestSource (samplePending irq0) 0 = some 4 ∧
    aboveRunning (samplePending irq0) 0 4 = true ∧ 511 < 512 := by decide +kernel

theorem witness_interrupt_commands :
    ({ irq0 with delivering := [(4, 1)] }.delivering.find? (fun d => d.1 == 4) = some (4, 1) ∧ maskOf irq0 4 = false) ∧
    ({ setE irq0 0xB010 0x01 2 with delivering := [(4, 2)], irqStacks := [(2, [(1, 4)])] }.delivering.find? (fun d => d.1 == 4) =
      some (4, 2) ∧ linkUp (setE irq0 0xB010 0x01 2) = true ∧ (stackOf { irq0 with irqStacks := [(2, [(1, 4)])] } 2).find?
      (fun x => x.2 == 4) = some (1, 4)) ∧
    (stackOf { irq0 with irqStacks := [(1, [(1, 9)])] } 1 = [(1, 9)] ∧ levelOn { irq0 with irqStacks := [(1, [(1, 9)])] } 9 = false) ∧
    isTop irq0 1 4 = false ∧
    (accepts 0xC012 0x04 (wr 2 2 4) { irq0 with irqStacks := [(2, [(1, 4)])] } = true ∧
      isTop { irq0 with irqStacks := [(2, [(1, 4)])] } 2 4 = true) ∧
    (accepts 0xC012 0x04 (wr 2 2 4) irq0 = true ∧ isTop irq0 2 4 = false) ∧
    (accepts (0xC100 + 4) 0x02 (wr 1 1 1) irq0 = true ∧ accepts (0xC100 + 511) 0x02 (wr 1 1 1) irq0 = true) ∧
    accepts 0xC000 (0x11 + 15) (wr 3 4 1) irq0 = true := by decide +kernel

theorem test_select_takes_the_held_source : nextIs (exec (.interruptSelect 0) irq0) (fun t => t.delivering == [(4, 0)]) = true := by
  decide +kernel
/-! ### Umora Link, time, the dictionary -/

/-- Umora Link is up on 8 lanes. -/
def rUp : State := setE (inMode .running) 0xB010 0x01 2

/-- A flit with a SEQ. -/
def flit0 (seq : Nat) (ok : Bool) : Flit :=
  { seq := seq, ackSeq := 0, nak := false, idle := false, creditP := 4095, creditN := 5, crcOk := ok }

theorem witness_flits : rUp.resetLow = false ∧ linkUp rUp = true ∧
    ((flit0 0 true).crcOk = true ∧ (flit0 0 true).idle = false ∧ (flit0 0 true).seq = (rUp.umora.rxSeq + 1) % 1024 ∧
      (flit0 0 true).nak = false) ∧
    (flit0 0 false).crcOk = false ∧ (flit0 5 true).seq ≠ (rUp.umora.rxSeq + 1) % 1024 := by decide +kernel

theorem witness_host_packets : linkUp r0 = false ∧ [1#8, 2#8].length ≤ 4096 ∧ (linkUp rUp = true ∧ rUp.umora.queue = [] ∧
    canSend rUp.umora (.hostWrite 64 (List.replicate 4096 1#8)) = true) := by decide +kernel

/-- 15 R484: a write of two bytes takes one unit of 64 bytes with its header, and goes in one flit. -/
theorem test_host_write_goes_out : (fun t : State => t.umora.usedP == 1 && t.umora.replay.length == 1 && t.umora.queue.isEmpty)
    (emit rUp (.hostWrite 64 [1#8, 2#8])) = true := by decide +kernel

theorem witness_umora : linkUp rUp = true ∧ accepts 0xB010 0x03 (wr 1 1 1) rUp = true ∧
    (linkUp r0 = false ∧ r0.umora.held = false ∧ r0.umora.downFault = false ∧ r0.dmas = []) ∧
    ({ r0 with umora := { Umora.initial with reads := [{ tag := 3, addr := 0, len := 64 }] } }.umora.reads.any
      (fun r => r.tag == 3)) = true := by decide +kernel

theorem witness_time : r0.resetLow = false ∧ stepsTime (inMode .verified) 1001 = true ∧ stepsTime (inMode .verified) (-3) = false ∧
    timeValid r0 = false ∧ slewOf 100 * 25000 ≤ 50 * 2 ^ 32 ∧ 50 * 2 ^ 32 < (slewOf 100 + 1) * 25000 ∧ r0.clock.ns < 2 ^ 63 ∧ r0.clock.frac < 2 ^ 32 := by decide +kernel

theorem witness_dict_writes : accepts 0x5022 0x01 (wr 3 4 10000000) r0 = true ∧ accepts 0x8020 0x01 (wr 1 1 7) r0 = true ∧
    accepts 0x5000 0x02 (wr 1 1 4) r0 = true ∧ (findEntry 0x5022 0x01).isSome = true := by decide +kernel

theorem witness_dict_write_stores (q : Req) : actionOf 0x5022 0x01 q = actStore 0x5022 0x01 q := rfl

theorem witness_write_checks : r0.resetLow = false ∧ noServer r0 (wr 3 4 1) = false ∧ forwards r0 (wr 3 4 1) = false ∧
    remembered r0 (wr 3 4 1) = none ∧ serverBusy (takeRequest r0 (wr 3 4 1)) (wr 3 4 1) = false ∧ r0.mode ≠ .dormant ∧
    dormantServes 0x9010 0x05 1 = true ∧ { wr 3 4 1 with version := 2 }.version ≠ 1 ∧
    headCheck (takeRequest r0 (wr 3 4 1)) (wr 3 4 1) = none ∧ findEntry 0x5022 0x02 = none ∧ findEntry 0xFFFF 0x01 = none ∧
    wrongKeystone (takeRequest r0 (wr 3 4 1)) (wr 3 4 1) = false ∧
    (findEntry 0x9010 0x06).any (fun e => (writePathCheck r0 e 0x9010 0x06 { wr 1 1 1 with path := 0 }).isSome) = true ∧
    (findEntry 0x9010 0x06).any (fun e => (writePathCheck r0 e 0x9010 0x06 (wr 1 1 1)).isNone && decide (e.acc ≠ .ro) &&
      decide (e.typ = 1) && decide (e.size = 1) && !(bit r0.mode.code e.states) && bit (inMode .verified).mode.code e.states) = true ∧
    (findEntry 0x3000 0x01).any (fun e => decide (e.acc = .ro)) = true ∧ r0.mode ≠ .draining ∧
    (findEntry 0x5022 0x01).any (fun e => !(valueOk e 10000001) && bit r0.mode.code e.states) = true := by decide +kernel

/-- A request on a frame path whose response of SEQ 7 is remembered. -/
def rRemember : State := { r0 with replay := [{ path := 0, src := 1, resps := [(7, 0x0302, 0, 0)] }] }
def onPort (q : Req) : Req := { q with path := 0, src := 1 }

theorem witness_replay : (onPort (wr 3 4 1)).path = 0 ∧ 0x0703 / 256 < 16 ∧ 0x0703 % 256 < 16 ∧ noServer rRemember (onPort (wr 3 4 1)) = false ∧
    forwards rRemember (onPort (wr 3 4 1)) = false ∧ remembered rRemember (onPort (wr 3 4 1)) = some (7, 0x0302, 0, 0) := by
  decide +kernel

theorem witness_dict_reads : served1 0x5022 0x01 (wr 0 0 0) r0 = true ∧
    wrongKeystone (takeRequest r0 (wr 0 0 0)) (wr 0 0 0) = false ∧ acceptsRead 0xA0F0 0x04 (wr 0 0 0) r0 = true ∧
    acceptsRead (0xA100 + 31) (0x41 + 15) (wr 0 0 0) r0 = true ∧ (findEntry (0xA100 + 31) (0x41 + 15)).isSome = true ∧
    acceptsRead 0xB044 (127 + 1) (wr 0 0 0) r0 = true := by decide +kernel

/-- A request for position 9 that reaches the keystone. -/
def forPos9 : Req := { onPort (wr 3 4 1) with position := 9, relay := true }
def relay9 : Relay := { pos := 9, opcode := 1, idx := 0x5022, sub := 1, q := forPos9 }
def def0 (c : Nat) : Deferred := { idx := 0x9030, sub := 2, q := wr 16 160 0, result := some c }

theorem witness_relay : (isKeystone keystone = true ∧ forPos9.path = 0 ∧ forPos9.position ≠ gridPos keystone ∧ keystone.mode ≠ .dormant ∧
      firmwareUp keystone = true ∧ keystone.mode ≠ .faulted ∧ serverBusy (takeRequest keystone forPos9) forPos9 = false ∧
      forPos9.version = 1 ∧ forPos9.resv = 0 ∧ (3 ≠ 3 → (findEntry 0xFFFF 0x01).isSome = true)) ∧
    (wr 3 4 1).position = gridPos keystone ∧ findRelay { keystone with relays := [relay9] } 9 7 = some relay9 ∧
    findRelay keystone 9 7 = none ∧
    ({ r0 with deferred := [def0 0] }.deferred.find? (fun d => d.idx == 0x9030 && d.sub == 2 && d.result.isSome) = some (def0 0) ∧
      (def0 0).result = some 0) ∧
    ({ r0 with deferred := [def0 6] }.deferred.find? (fun d => d.idx == 0x9030 && d.sub == 2 && d.result.isSome) = some (def0 6) ∧
      (def0 6).result = some 6) := by decide +kernel

theorem witness_mapped_writes : (0x37F8 < 0x4000 ∧ 0x37F8 % 4096 + 8 ≤ 0x800 ∧ slotAccessOk 0x37F8 8 = true) ∧
    slotAccessOk 0x2001 4 = false ∧ (0x800 ≤ 0x3808 % 4096 ∧ 0x3808 % 4096 < 0xC10 ∧ slotAccessOk 0x3808 8 = true) ∧ 0xFF8 ≤ 0x3FF8 % 4096 ∧
    (inMode .dormant).mode = .dormant ∧ mappedEntry 0x4008 = none ∧ mappedEntry 0x10FFF = none ∧
    (mappedEntry 0x10000 = some (0xB040, 0, 0) ∧ (findEntry 0xB040 0).any (fun e => !(mappedAccessOk e 0x10000 2)) = true ∧
      (findEntry 0xB040 0).any (fun e => mappedAccessOk e 0x10000 4) = true) ∧
    (findEntry 0x1042 0).any (fun e => accepts 0x1042 0x00 (mappedReq e 0 3) r0 &&
      !(slotOf (takeRequest r0 (mappedReq e 0 3)) 3).busy) = true ∧
    getE r0 0x1040 0x03 ≠ 2 ∧ getE (setE r0 0x1040 0x03 2) 0x1040 0x03 = 2 := by decide +kernel
/-! ### Rings, the keystone, jobs, contexts -/

/-- Ring 0 is enabled and runs, with 4 entries and its tail at 2; context 0 is loaded. -/
def rRing (state : Nat) : State := { r0 with
  ent := [(ekey 0 0xB100 2, 4), (ekey 0 0xB100 3, 1), (ekey 0 0xB100 5, state), (ekey 0 0xB100 7, 2)] }

/-- A ring entry of `n` tokens. -/
def ent0 (ride : Bool) (n : Nat) : RingEntry :=
  { ride := ride, mix := false, post := true, notify := false, mailbox := 127, seq := 9, firstToken := 3, count := n, firstPos := 0,
    cmdAddr := 4096, rspAddr := 8192, resv := 0 }

theorem witness_ring_entries : (rRing 1).resetLow = false ∧ canTake (rRing 1) 0 = true ∧ entryFormOk (ent0 false 1) = true ∧
    entryFormOk { ent0 false 1 with resv := 1 } = false ∧ stepsTaken (rRing 1) 0 = true ∧ (ent0 false 65535).count ≤ 65535 ∧
    (ent0 true 16777216).count + (ent0 true 16777216).firstPos ≤ 2 ^ 24 ∧ (ctxOf (rRing 1) 0).prompts = [] ∧
    (ent0 false 0).count = 0 := by decide +kernel

theorem witness_chunks : 512 = max 1 (getE r0 (0x5100 + 0) 0x03) ∧ (newPrompt (ent0 false 513) 0).left ≤ 513 ∧
    1 ≤ (newPrompt (ent0 false 1) 0).left := by decide +kernel

theorem witness_ring_commands : (canTake (rRing 1) 0 = true ∧ (rRing 1).mode ≠ .dormant ∧ (rRing 1).dictQ.length < 64 ∧
      commandOk (ent0 false 1) = true) ∧
    (accepts 0xB040 0x00 { wr 3 4 3 with path := 2 } (rRing 1) = true ∧
      getE (takeRequest (rRing 1) (wr 3 4 3)) (0xB100 + 0) 0x03 ≠ 0 ∧ 3 < getE (takeRequest (rRing 1) (wr 3 4 3)) (0xB100 + 0) 0x02) ∧
    getE (takeRequest (rRing 1) (wr 3 4 3)) (0xB100 + 0) 0x02 ≤ 4 ∧
    (accepts (0xB100 + 0) 0x03 (wr 1 1 0) (rRing 1) = true ∧ getE (takeRequest (rRing 1) (wr 1 1 0)) (0xB100 + 0) 0x03 = 1) ∧
    (accepts (0xB100 + 255) 0x03 (wr 1 1 1) (rRing 1) = true ∧ getE (takeRequest (rRing 1) (wr 1 1 1)) (0xB100 + 255) 0x03 = 0 ∧
      (rRing 1).posts = []) ∧
    (accepts (0xB100 + 0) 0x06 (wr 1 1 1) (rRing 2) = true ∧ 2 ≤ getE (takeRequest (rRing 2) (wr 1 1 1)) (0xB100 + 0) 0x05) ∧
    accepts 0xB045 (127 + 1) (wr 3 4 9) { r0 with
      mailboxes := [(127, { posted := true, readBefore := false, notify := false, code := 0, seq := 9 })] } = true := by decide +kernel

theorem witness_keystone : (accepts 0x1020 0x01 (wr 2 2 9) (setE (setE (inMode .verified) 0x2010 0x01 0) 0x1020 0x01 (2 ^ 15)) = true ∧
      isKeystone (setE (setE (inMode .verified) 0x2010 0x01 0) 0x1020 0x01 (2 ^ 15)) = true ∧ 9 % 2 ^ 14 ≠ 0) ∧
    (accepts 0x2010 0x01 (wr 1 1 63) keystone = true ∧ 63 ≠ gridPos keystone) ∧
    (isKeystone keystone = true ∧ firmwareUp keystone = true) ∧ fromKeystone worker 5 = false ∧
    (fromKeystone worker 63 = true ∧ { worker with newKeystone := true }.newKeystone = true) ∧
    (getE worker 0x2010 0x01 ≠ 0xFF ∧ isKeystone worker = false ∧ worker.keystoneSilent = false) ∧
    r0.mpFailed.contains 1 = false := by decide +kernel

/-- A part that may enter Configured. -/
def rVerified : State := setE (setE (setE (setE (inMode .verified) 0x1020 0x01 (2 ^ 15)) 0x5000 0x03 5) 0x4040 0x02 1) 0x3010 0x02 7

/-- The save pool of 1 MiB lies in the retention region. -/
def rUnplaceable : State := setE (setE rVerified 0x4030 0x01 (retainBase rVerified)) 0x4030 0x02 1

theorem witness_state_requests : (accepts 0x5000 0x02 (wr 1 1 2) rVerified = true ∧ rVerified.mode ≠ .draining ∧
      bit 15 (getE (takeRequest rVerified (wr 1 1 2)) 0x1020 0x01) = true ∧ getE (takeRequest rVerified (wr 1 1 2)) 0x5000 0x03 ≠ 0 ∧
      getE (takeRequest rVerified (wr 1 1 2)) 0x4040 0x02 ≠ 0 ∧ rVerified.sec.rngBad = false ∧
      getE (takeRequest rVerified (wr 1 1 2)) 0x3010 0x02 = 7 ∧ regionsPlaceable (takeRequest rVerified (wr 1 1 2)) = true ∧
      rVerified.pools = []) ∧ getE (takeRequest (setE rVerified 0x3010 0x02 3) (wr 1 1 2)) 0x3010 0x02 ≠ 7 ∧
    regionsPlaceable (takeRequest rUnplaceable (wr 1 1 2)) = false ∧
    (accepts 0x5000 0x02 (wr 1 1 2) (inMode .clean) = true ∧ bit 15 (getE (takeRequest (inMode .clean) (wr 1 1 2)) 0x1020 0x01) = false) ∧
    accepts 0x5000 0x02 (wr 1 1 4) (inMode .ready) = true ∧ accepts 0x5000 0x02 (wr 1 1 4) (inMode .configured) = true ∧
    accepts 0x5000 0x02 (wr 1 1 2) (inMode .running) = true := by decide +kernel

/-- A start record of this one package under tag 5, whose list is at 0; its digest is that of the list. -/
def rec5 (tag : Nat) : Nat := 77 * 2 ^ 224 + tag * 2 ^ 208 + 2 ^ 193 + digest8 (toLE 2 0) * 2 ^ 65 + 2
def withStart (m : Mode) (x : StartState) : State := { setE (inMode m) 0x5000 0x03 5 with starts := [(77, x)] }

theorem witness_prepare : startOf (setE (inMode .configured) 0x5000 0x03 5) (recStart (rec5 5)) = .none ∧
    prepareCode (setE (inMode .configured) 0x5000 0x03 5) (rec5 5) [0] = 0 ∧
    prepareCode (setE (inMode .configured) 0x5000 0x03 5) (rec5 6) [0] ≠ 0 := by decide +kernel

theorem witness_starts : startOf (withStart .configured .prepared) 77 = .prepared ∧ (withStart .configured .prepared).mode = .configured ∧
    (startOf (withStart .ready .committed) 77 = .committed ∧ (withStart .ready .committed).mode = .ready) ∧
    startOf (withStart .configured .aborted) 78 = .none ∧ startOf (withStart .running .running) 77 = .running ∧
    startOf (withStart .configured .aborted) 77 = .aborted := by decide +kernel

theorem witness_job_operations : r0.resetLow = false ∧ takeCommit (withStart .configured .aborted) 77 = (withStart .configured .aborted, 0x0101) ∧
    (inMode .ready).mode = .ready ∧ (inMode .clean).mode = .clean ∧ firmwareUp worker = true ∧ fromKeystone worker 5 = false ∧
    2 ^ 32 - 1 < 2 ^ 32 ∧ recStart (startOnly 77) = 77 := by
  refine ⟨rfl, rfl, ?_⟩
  decide +kernel

/-- A keystone whose staged record names member 9 alone. -/
def rPond : State := setE keystone 0x5010 0x02 (77 * 2 ^ 224 + 2 ^ 9 * 2)

theorem witness_pond_job : (accepts 0x5010 0x01 (wr 1 1 5) r0 = true ∧ isKeystone (takeRequest r0 (wr 1 1 5)) = false) ∧
    (accepts 0x5010 0x01 (wr 1 1 1) rPond = true ∧ isKeystone (takeRequest rPond (wr 1 1 1)) = true ∧
      getE (takeRequest rPond (wr 1 1 1)) 0x5010 0x03 ≠ 1 ∧ rPond.mode ≠ .faulted ∧
      bit (gridPos rPond) (recMembers (getE rPond 0x5010 0x02)) = false ∧ recMembers (getE rPond 0x5010 0x02) ≠ 0) ∧
    getE (takeRequest (setE rPond 0x5010 0x03 1) (wr 1 1 1)) 0x5010 0x03 = 1 := by decide +kernel

/-- A worker under keystone 63, in a job of its own position alone, and a keystone whose record names itself. -/
def rMember : State := { worker with mode := .configured, jobMembers := 1 }
def rOwnPart : State := setE keystone 0x5010 0x02 (77 * 2 ^ 224 + 2)

theorem witness_member_operations : firmwareUp rMember = true ∧ fromKeystone rMember 63 = true ∧ rMember.mode ≠ .faulted ∧
    rMember.jobMember = none ∧ rMember.jobSeen = none ∧ bit (gridPos rMember) 1 = true ∧ membersBelow rMember 63 1 = [] ∧
    recMembers (77 * 2 ^ 224 + 2) = 1 ∧ (accepts 0x5010 0x01 (wr 1 1 2) rOwnPart = true ∧
      isKeystone (takeRequest rOwnPart (wr 1 1 2)) = true ∧ getE (takeRequest rOwnPart (wr 1 1 2)) 0x5010 0x03 ≠ 1 ∧
      bit (gridPos (takeRequest rOwnPart (wr 1 1 2))) (recMembers (getE (takeRequest rOwnPart (wr 1 1 2)) 0x5010 0x02)) = true) := by
  decide +kernel

def jobStep0 (l : List Nat) : JobStep := { op := 1, startId := 77, waiting := l, answers := [] }

theorem witness_job_answers : 63 ∈ (jobStep0 [9, 63]).waiting ∧ (jobStep0 [9, 63]).waiting.length ≥ 2 ∧ (jobStep0 [9]).waiting = [9] ∧
    refusals (jobStep0 [9]).answers = [] ∧ 5 ∉ (jobStep0 [9]).waiting ∧ (jobStep0 [9]).waiting ≠ [] ∧
    { r0 with jobMember := some (jobStep0 [9]) }.jobMember = some (jobStep0 [9]) ∧ r0.jobStep = none := by decide +kernel

/-- Draining, with context 0 stopped. -/
def rDrain : State := { inMode .draining with ctxs := [(0, { Ctx.initial with state := .stopped })] }

theorem witness_teardown : rDrain.mode = .draining ∧ rDrain.loading = none ∧ (loadedCtxs rDrain).all (regionsEnded rDrain) = true ∧
    rDrain.ctxs.all (fun p => p.2.state != .unloading || regionsEnded rDrain p.1) = true ∧ rDrain.jobStep = none ∧
    rDrain.jobMember = none ∧ rDrain.jobSeen.any (fun x => x.1 == 5 && x.2.2) = false := by decide +kernel

theorem witness_load : (accepts 0x5030 0x01 (wr 16 16 (2 ^ 32 + 255 * 2 ^ 24)) r0 = true ∧ loadMode (takeRequest r0 (wr 16 16 0)) = true ∧
      (ctxOf (takeRequest r0 (wr 16 16 0)) 255).state = .empty ∧ r0.loading = none) ∧
    (accepts 0x5030 0x01 (wr 16 16 0) (inMode .verified) = true ∧ loadMode (inMode .verified) = false) ∧
    (ctxOf (takeRequest r0 (wr 16 16 0)) 0).state ≠ .empty ∧
    (loadRefusal (setCtx { inMode .ready with loading := none } 0 Ctx.initial) { slot := 0, cls := 0, lengthKib := 1 }
      { img0 with partOk := false } = some (3, 0x0302, 0)) ∧
    (accepts (0x5100 + 0) 0x06 (wr 1 1 1) r0 = true ∧ isLoaded (ctxOf r0 0) = true) ∧
    (accepts (0x5100 + 255) 0x06 (wr 1 1 1) r0 = true ∧ isLoaded (ctxOf r0 255) = false) ∧
    ((ctxOf (rStopped .unloading) 0).state = .unloading ∧ regionsEnded (rStopped .unloading) 0 = true) := by decide +kernel

/-- Context 0 is READY on stone 0, with a debt. -/
def rReady (debt : Nat) : State := { setE (inMode .running) 0x5100 0x09 debt with
  ctxs := [(0, { Ctx.initial with state := .ready, phys := [(0, 0)], resident := true })]
  stones := [(0, stone0)] }

theorem witness_resume : (accepts (0x5100 + 0) 0x07 (wr 1 1 0) (rStopped .stopped) = true ∧ (ctxOf (rStopped .stopped) 0).state = .stopped) ∧
    accepts (0x5100 + 0) 0x07 (wr 1 1 1) (rStopped .stopped) = true ∧
    (accepts (0x5100 + 255) 0x07 (wr 1 1 1) (rStopped .stopped) = true ∧ (ctxOf (rStopped .stopped) 255).state ≠ .stopped) ∧
    { stone0 with run := .stopped }.run = .stopped := by decide +kernel

theorem witness_slices : ((rReady 0).mode = .running ∧ (rReady 0).power.state = 0 ∧ (rReady 0).power.entering = none ∧
      grantable (rReady 0) 0 = true ∧
      (rReady 0).ctxs.any (fun p => p.1 != 0 && grantable (rReady 0) p.1 && shareStone (rReady 0) p.1 0 && sliceBefore (rReady 0) p.1 0) = false ∧
      getE (rReady 0) (0x5100 + 0) 0x09 ≤ sliceLength (rReady 0) 0) ∧
    (grantable (rReady 1000000000) 0 = true ∧ sliceLength (rReady 1000000000) 0 < getE (rReady 1000000000) (0x5100 + 0) 0x09) ∧
    (ctxOf r0 0).slice = true ∧
    ((ctxOf { r0 with ctxs := [(0, { Ctx.initial with stopping := true, phys := [(0, 0)] })] } 0).stopping = true ∧
      regionsEnded { r0 with ctxs := [(0, { Ctx.initial with stopping := true, phys := [(0, 0)] })] } 0 = true) := by decide +kernel

theorem witness_swapping : (swapChoice { inMode .running with
      ctxs := [(0, { Ctx.initial with state := .swapped, phys := [(0, 0)], resumed := true, savedStones := [(0, stone0)] })] } = some (0, [])) ∧
    ((ctxOf (rStopped .swappingOut) 0).state = .swappingOut ∧ swapOutReady (rStopped .swappingOut) 0 = true) ∧
    ((ctxOf (rStopped .swappingIn) 0).state = .swappingIn ∧ ((holders (rStopped .swappingIn)).filter (fun k => k != 0)).length < 8 ∧
      (holders (rStopped .swappingIn)).all (fun k => k == 0 || !footprintsMeet (rStopped .swappingIn) k 0) = true ∧
      (rStopped .swappingIn).fetchQ.all (fun f => f.ctx != 0) = true ∧ (rStopped .swappingIn).fills.all (fun f => f.1 != 0) = true) := by
  decide +kernel

theorem test_expiry_ends_the_slice : nextIs (exec (.sliceExpiry 0) r0) (fun t => (ctxOf t 0).state == .ready && !(ctxOf t 0).slice) = true := by
  decide +kernel
/-! ### Scoring, dispatch, memory tiers -/

/-- Settings of layer 0 of context 0: `kind` with 4 experts, D = 64 and k = 2; product-key sides of 16. -/
def lay (kind policy : Nat) : List (Nat × Nat) :=
  [(1, kind), (2, if kind = 3 then 256 else 4), (3, 64), (4, 2), (5, 0), (6, 0), (7, 2), (8, 2), (9, 2), (10, 64), (11, 16), (12, 65535),
    (13, 2 ^ 41), (14, 0), (16, 16), (17, 0), (18, 0), (19, 1), (20, 0), (21, 0), (22, 150), (23, 0), (24, policy), (25, 0), (26, 1),
    (27, 0)].map (fun p => (ekey 0 0x6100 p.1, p.2))

/-- R2 = 128; the request at offset 0 has 2 blocks, for token 0 of generation 0 of layer 0. -/
def rScore (kind : Nat) : State := { running { stone0 with areg := [(2, 128#32)] } with ent := lay kind 0, sram := [(4, 2#8)] }

theorem witness_submit : (reg (rScore 1) 0 (fld 111 108 (ops [(108, 1), (104, 2)]))).toNat = 0 ∧
    (reg (rScore 1) 0 (fld 107 104 (ops [(108, 1), (104, 2)]))).toNat = 128 ∧ sramNat (rScore 1) 0 0 16 = 2 * 2 ^ 32 ∧
    onlyFields [(111, 104)] (ops [(108, 1), (104, 2)]) = true ∧ issues (rScore 1) 0 h0 [(0, 16 + 66)] [(128, 16)] = true ∧
    leadRouter (rScore 1) 0 = some 0 ∧ (stoneOf (rScore 1) 0).owner = some 0 ∧ layerBlocks (rScore 1) 0 0 = 2 ∧
    layerStatus (rScore 1) 0 0 = 1 ∧ badIn (rScore 1) 0 [(0, 16 + 66)] = none ∧ genReady (rScore 1) (bayOf 0) 0 0 = true ∧
    (issues (rScore 0) 0 h0 [(0, 16 + 66)] [(128, 16)] = true ∧ layerStatus (rScore 0) 0 0 ≠ 1) := by decide +kernel

/-- As rScore, with generation 0 retired at bay 0. -/
def rRetired : State := { rScore 1 with gens := [{ bay := 0, ctx := 0, gen := 0, retired := true, forced := false }] }

theorem witness_submit_waits : issues rRetired 0 h0 [(0, 16 + 66)] [(128, 16)] = true ∧ leadRouter rRetired 0 = some 0 ∧
    layerStatus rRetired 0 0 = 1 ∧ badIn rRetired 0 [(0, 16 + 66)] = none ∧ genReady rRetired (bayOf 0) 0 0 = false := by decide +kernel

/-- 03 R115: a request for a retired generation waits in the token buffer and its stone is held. -/
theorem test_submit_waits : nextIs (exec (.submit 0 h0 (ops [(108, 1), (104, 2)])) rRetired) (fun t =>
    t.toks.map (·.waits) == [true] && !canIssue t 0 && (ctxOf t 0).state == .blocked) = true := by decide +kernel

/-- 03 R115, 13 R421: the generation becomes free, and the request and its context go on. -/
theorem test_generation_wakes : nextIs (exec (.submit 0 h0 (ops [(108, 1), (104, 2)])) rRetired) (fun t =>
    (freeGens t).toks.map (·.waits) == [false] && (freeGens t).gens.map (·.retired) == [false] &&
      (ctxOf (freeGens t) 0).state == .ready) = true := by decide +kernel

theorem witness_submit_kinds : layerStatus (rScore 2) 0 0 = 1 ∧ layerStatus (rScore 3) 0 0 = 1 := by decide +kernel

def key0 : TokKey := { ctx := 0, layer := 0, gen := 0, tokenId := 5 }

/-- A token that the routers in `done` have scored. -/
def tok0 (done : List Nat) (chosen : Option (List Nat)) : Tok :=
  { key := key0, lead := 0, origin := 0, stone := 0, recOff := 128, pc := 0, spec := false, stepSlot := 0,
    payload := List.replicate 66 (0x7F#8), blocks := 2, position := none, dealt := none, scored := done, scored2 := [], gparts := [], chosen := chosen, parts := [], signal := none,
    waits := false }

def share0 : Share := { ctx := 0, layer := 0, img := List.replicate 264 (1#8), bias := [] }
def router0 (shares : List Share) (streaming : List (Nat × Nat)) : Router := { Router.initial with shares := shares, streaming := streaming }
def rPass (kind : Nat) (done : List Nat) (chosen : Option (List Nat)) : State :=
  { rScore kind with routers := [(0, router0 [share0] [])], toks := [tok0 done chosen] }

theorem witness_scoring_pass : hasShare (rPass 1 [] none) 0 0 0 = some share0 ∧ (routerOf (rPass 1 [] none) 0).fenced = false ∧
    layerStatus (rPass 1 [] none) 0 0 = 1 ∧ layerStatus (rPass 0 [] none) 0 0 ≠ 1 ∧ tok0 [] none ∈ (rPass 1 [] none).toks ∧ waitsFor (rPass 1 [] none) 0 (tok0 [] none) = true := by
  decide +kernel

def gather0 (failed : Bool) : Gather :=
  { ctx := 0, layer := 0, reads := streamReads (rScore 1) 0 0 0, tag := gatherTag 0 0, want := 0, got := [], again := [], failed := failed }
def rStream (failed : Bool) : State :=
  { rScore 1 with routers := [(0, { router0 [] [(0, 0)] with gathers := [gather0 failed] })] }

theorem witness_gate_stream : (routerOf (rStream false) 0).fenced = false ∧ gatherOf (rStream false) 0 0 0 = some (gather0 false) ∧
    (gather0 false).reads.all (fun x => isFar (rStream false) x.2.1) = true ∧ (gather0 false).reads ≠ [] ∧
    gatherOf (rStream true) 0 0 0 = some (gather0 true) ∧ (routerOf (rStream true) 0).fenced = false ∧
    layerSet (rStream false) 0 0 0x06 = 0 ∧ layerSet (rStream false) 0 0 0x0E = 0 ∧
    makeRoom (rStream false) 0 (shareBytes (rStream false) 0 0) = some [] := by decide +kernel

/-- A LOAD of a gate stream whose read is uncorrectable goes out once more, and the second one fails the stream (02 R587). -/
theorem test_gate_read_again : (senderOf (beginStream (rScore 1) 0 0 0) (senderKey 2 0)).reqs.head?.map (fun q =>
      let a := millraceAnswered (beginStream (rScore 1) 0 0 0) 0 q 3 []
      let b := millraceAnswered a 0 q 3 []
      ((senderOf a (senderKey 2 0)).waitQ.length, (gatherOf a 0 0 0).map (·.failed), (gatherOf b 0 0 0).map (·.failed))) =
    some (1, some false, some true) := by decide +kernel

theorem witness_partial_scores :
    ((rPass 2 (List.range 16) none).toks.find? (fun t => t.key == key0) = some (tok0 (List.range 16) none) ∧
      stageDone (rPass 2 (List.range 16) none) (tok0 (List.range 16) none) = true ∧ layerSet (rPass 2 (List.range 16) none) 0 0 0x01 = 2) ∧
    ((rPass 1 (List.range 16) none).toks.find? (fun t => t.key == key0) = some (tok0 (List.range 16) none) ∧
      stageDone (rPass 1 (List.range 16) none) (tok0 (List.range 16) none) = true ∧ layerSet (rPass 1 (List.range 16) none) 0 0 0x01 ≠ 2) := by
  decide +kernel

def rep9 : Replica := { pkg := 9, firstStone := 4, span := 0, valid := true, resv := 0 }

theorem witness_placement_block_read : { rScore 1 with
      ent := (ekey 0 0x6100 20, 2 ^ 41) :: lay 1 0, blocksReading := [(0, 0, 3, 0)] }.blocksReading.contains (0, 0, 3, 0) = true ∧
    pondPos (blockAddr { rScore 1 with ent := (ekey 0 0x6100 20, 2 ^ 41) :: lay 1 0 } 0 0 3) ≠ gridPos (rScore 1) ∧
    replicaCount [rep9] ≠ 0 ∧ managementOut (rScore 1) (tableTag 0 0 3) = 0 := by decide +kernel

def choice0 (spec : Bool) (status : Nat) : Choice :=
  { tokenId := 5, gen := 0, layer := 0, ctx := 0, originPkg := 9, originStone := 7, spec := spec, rank := 1, replica := 0, expert := 3,
    status := status }
def rep0 : Replica := { pkg := 0, firstStone := 0, span := 0, valid := true, resv := 0 }
def claim0 (spec : Bool) : Claim := { choice := choice0 spec 0, rep := rep0 }
def barrier0 (r : Option Nat) : Barrier := { ctx := 0, layer := 0, gen := 0, joined := r.isSome, result := r, fencedAt := [], ended := false }
/-- Context 0 in group 255, of packages 0 and 9. -/
def rClaims : State := { rScore 1 with
  ent := lay 1 0 ++ [(ekey 0 0x71FF 3, 2), (ekey 0 0x71FF 6, 1), (ekey 0 0x71FF 7, 0)], groupLists := [(groupKey 0 255, [0, 9])] }

theorem witness_admission : claimsSent rClaims 0 0 0 = true ∧ groupE rClaims 0 255 6 = 1 ∧
    rClaims.barriers.any (fun b => b.ctx == 0 && b.layer == 0 && b.gen == 0 && (b.joined || b.result.isSome)) = false ∧
    barrierOver { rClaims with barriers := [barrier0 (some 0)] } 0 0 0 0 = true ∧ barrierOver rClaims 0 0 0 0 = false ∧
    barrierOver { rClaims with barriers := [barrier0 (some 0x0704)] } 0 0 0 0x0704 = true ∧
    barrierEnded rClaims 0 0 0 (· != 0) = false ∧
    barrierEnded { rClaims with
      barriers := [{ barrier0 (some 0x0704) with ended := true }]
      collEnds := [{ key := barrierKey 0 0 0, status := 0x0704, codeRank := 0, posted := true, isRoot := false }] } 0 0 0 (· != 0) = true ∧
    (admitPass [] 16 [] [] 0 = [] ∧ slackPass 0 [] [] = []) := by decide +kernel

def adm (spec : Bool) : Adm := { a := newAdmitted (claim0 spec), carried := false, out := 0 }

theorem test_admission_order : (slackPass 1 (admitPass [] 1 [adm false, adm false, adm true, adm false, adm false] [] 2) []).map
    (fun x => (verdictOf x, x.a.part)) = [(1, 0), (2, 1), (5, 0), (3, 2), (4, 0)] := by decide +kernel

def desc0 (resend alternate : Bool) : TokenDesc :=
  { tokenId := 5, gen := 0, layer := 0, ctx := 0, fanout := 1, spillMask := 0, position := 0, spec := false, resend := resend,
    alternate := alternate, targetStone := 4, originStone := 0 }
def rank0 (x : Option Nat) : Rank := { Rank.initial with verdict := x, buf := some 0#32 }
def conf0 (ranks : List (Nat × Rank)) : Conf :=
  { key := key0, bay := 0, origin := 0, stone := 0, recOff := 128, pc := 0, spec := false, signal := none, stepSlot := 0, blocks := 2,
    position := none, payload := [], choices := [{ weight := 0x3F800000#32, expert := 3, rank := 1, replica := 0 }], alternates := [], pendingClaims := [],
    ranks := ranks, weights := none, added := 0, acc := [], varying := false, timedOut := false, done := false }
def gen0 : Gen := { bay := 0, ctx := 0, gen := 0, retired := false, forced := false }
def ret0 (rank : Nat) : RetHdr :=
  { tokenId := 5, gen := 0, layer := 0, ctx := 0, originStone := 0, rank := rank, spec := false, path := 0, segment := 0, format := 0 }
/-- Token 5 waits at bay 0 for its rank 1. -/
def rConf : State := { rScore 1 with
  ent := lay 1 0 ++ [(ekey 0 0x4010 1, 0), (ekey 0 0x4010 2, 0)], confs := [conf0 [(1, rank0 (some 1))]], gens := [gen0] }

/-- The generation of token 5 is retired before the return of its rank 1. -/
def rGone : State := { rConf with confs := [conf0 [(1, { rank0 (some 1) with buf := none })]], gens := [{ gen0 with retired := true }] }

/-- Both choices of token 5 are claimed at package 9, and no verdict has come. -/
def confOpen : Conf := { conf0 [(1, { Rank.initial with rep := some rep9 }), (2, { Rank.initial with rep := some rep9 })] with
  choices := [{ weight := 0x3F800000#32, expert := 3, rank := 1, replica := 0 }, { weight := 0#32, expert := 2, rank := 2, replica := 0 }] }
def rVerdicts : State := { rConf with confs := [confOpen] }
/-- A spilled choice waits for its copy, and the descriptor of that copy. -/
def rSpilled : State := { rConf with admitted := [newAdmitted { choice := choice0 false 2, rep := rep0 }] }
def spillDesc : TokenDesc := { desc0 false false with fanout := 0, spillMask := 1 }

theorem test_return_of_a_retired_generation :
    (match exec (.returnPacket (ret0 1) []) rGone with
      | .next t => t.gens.isEmpty && t.confs.isEmpty && getE t 0xA021 8 == 1
      | _ => false) = true := by decide +kernel

theorem witness_confluence_events : rConf.resetLow = false ∧ (desc0 true false).alternate = false ∧
    weightsPresent rConf 0 0 4 = false ∧ (desc0 true true).alternate = true ∧
    rConf.admitted.any (fun a => matchQueued (desc0 false false) a || matchSpilled (desc0 false false) a) = false ∧
    (rSpilled.admitted.any (matchQueued spillDesc) = false ∧ rSpilled.admitted.any (matchSpilled spillDesc) = true) ∧
    (rVerdicts.confs.filter (fun f => f.key == key0) = [confOpen] ∧ confOpen.weights = none ∧ (rankOf confOpen 1).verdict = none ∧
      2 ∈ ranksAt confOpen 9 ∧ (rankOf confOpen 2).verdict = none) ∧
    (isDelivered (rankOf (conf0 [(1, rank0 (some 1))]) 1) = true ∧ (rankOf (conf0 [(1, rank0 (some 1))]) 1).complete = false ∧
      (confOf rVerdicts key0).any (fun c => isDelivered (rankOf c 1) && !(rankOf c 1).complete) = false) ∧
    (returnUnwanted rConf (ret0 2) = true ∧ rankOutstanding (rankOf (conf0 [(1, rank0 (some 1))]) 2) = false) ∧
    (returnUnwanted rGone (ret0 1) = true ∧ rankOutstanding (rankOf (conf0 [(1, { rank0 (some 1) with buf := none })]) 1) = true ∧
      cdiv (returnBytes rGone (ret0 1)) 8192 ≤ 1) ∧ (returnUnwanted rConf (ret0 1) = false ∧ confOf rConf (retKey (ret0 1)) =
      some (conf0 [(1, rank0 (some 1))]) ∧ (rankOf (conf0 [(1, rank0 (some 1))]) 1).buf = some 0#32) ∧
    (rankOutstanding (rankOf (conf0 [(1, rank0 (some 1))]) 1) = true ∧ (conf0 []).done = false ∧ (conf0 []).added ≤ (conf0 []).choices.length) := by
  decide +kernel

theorem witness_expert_run : (reg (rScore 1) 0 (fld 103 100 (ops [(100, 1)]))).toNat = 0 ∧ (stoneOf (rScore 1) 0).owner = some 0 ∧
    onlyFields [(111, 88)] (ops [(100, 1), (96, 1), (88, 2)]) = true ∧
    issues (rScore 1) 0 h0 [] [(0, 1 * rowStride 2), (256, 16 + 16 * 1)] = true ∧
    sliceBlocks (rScore 1) 0 0 { pc := 0, layer := 0, stage := 0, block0 := 0, blocks := 0, maxBatch := 1, table := 128, signal := none } = 2 := by
  decide +kernel

def run0 (part : Nat) (due missed : Bool) : RunSt :=
  { ctx := 0, layer := 0, first := 0, span := 0, gen := 0, part := part, due := due, missed := missed, graceOver := false, shadow := false,
    carryDue := false, ended := false, batch := [], bPart := 0, bShadow := false, bFin := false, staged := [] }
def erun0 : ERun := { pc := 0, layer := 0, stage := 0, block0 := 0, blocks := 2, maxBatch := 1, table := 128, signal := none }
def admitted0 (part : Nat) (arrived : Bool) : Admitted :=
  { newAdmitted { choice := choice0 false 1, rep := rep0 } with part := part, arrived := arrived }

/-- The byte cells of a value of `n` bytes. -/
def cells (a n v : Nat) : List Host.Cell := (List.range n).map (fun i => (a + i, BitVec.ofNat 8 (v / 256 ^ i)))

/-- A weight object of `kib` KiB of expert 3 of layer 0 at stone 0, whose home is package position 0. -/
def obj0 (mode shadow : Nat) : ObjDesc :=
  { home := 2 ^ 19, sizeKib := 1, firstStone := 0, span := 0, sramKib := 4, expert := 3, layer := 0, shadow := shadow, kind := 0, mode := mode,
    tier := 1, dirtyTrack := false, valid := true, software := 0, resv := 0 }

/-- Replica 0 of expert 3 has a run with one choice; its object is 0. -/
def rRun (policy part : Nat) (due missed : Bool) (shadow : Nat) : State := { running { stone0 with eruns := [erun0] } with
  ent := [(ekey 0 0x4010 1, 4096), (ekey 0 0x4010 2, 1)] ++ lay 1 policy, runs := [run0 part due missed], admitted := [admitted0 part true]
  mem := cells 4096 32 (packObj (obj0 1 shadow)) }

theorem witness_run_part_due : runOf (rRun 0 0 false false 1) 0 0 0 = some (run0 0 false false) ∧
    (untaken (rRun 0 0 false false 1) (run0 0 false false) 0).any (·.arrived) = true ∧
    (runsOn (rRun 0 0 false false 1) 0 0 0).isEmpty = false ∧ weightsPresent (rRun 0 0 false false 1) 0 0 0 = false := by
  decide +kernel

theorem witness_grace_and_carry : runOf (rRun 0 0 true true 1) 0 0 0 = some (run0 0 true true) ∧
    weightsPresent (rRun 0 0 true true 1) 0 0 0 = false ∧ layerSet (rRun 0 0 true true 1) 0 0 0x18 = 0 ∧
    (layerSet (rRun 1 0 true true 1) 0 0 0x18 = 1 ∧ (replicaObj (rRun 1 0 true true 1) 0 0 0).any (fun p => p.2.shadow != 0xFFFF) = true) ∧
    (unfinished (rRun 0 2 false false 1) (run0 2 false false) (fun p => decide (p < 2)) = false ∧
      (untaken (rRun 0 2 false false 1) (run0 2 false false) 2).isEmpty = false) := by decide +kernel

/-- A replica without choices under an admission: its RUN completes with COUNT 0 and END. -/
theorem test_run_without_choices :
    (match exec (.expertRunComplete 0 0) { rRun 0 0 false false 1 with admitted := [] } with
      | .next t => (stoneOf t 0).eruns.isEmpty && sramNat t 0 128 16 == batchHeader 0 0 (rowStride 2) 0 2 false true
      | _ => false) = true := by decide +kernel

theorem witness_return : issues (rScore 1) 0 h0 [(0, 0), (128, 16)] [] = true ∧ badIn (rScore 1) 0 [(0, 0), (128, 16)] = none ∧ sramNat (rScore 1) 0 128 16 = 0 ∧
    onlyFields [(111, 104)] (ops [(108, 1), (104, 2)]) = true ∧ (stoneOf (rScore 1) 0).owner = some 0 := by decide +kernel

/-- The window of the first MiB, as it stands, of job 5. -/
def win0 : BitVec 128 := BitVec.ofNat 128 (5 * 2 ^ 55 + 15 * 2 ^ 51)

/-- R1 is the watermark `w` of stream 0, whose descriptor stands at offset 2^13 with watermark 64 and page table at 2^14. -/
def kvDesc : Nat := (2 ^ 14) * 2 ^ 83 + 64 * 2 ^ 58 + 1 * 2 ^ 47 + 1
def rKv (w pageState : Nat) : State := { running { stone0 with areg := [(1, BitVec.ofNat 32 w)] } with
  jobTag := 5, windows := [(0, win0)]
  ent := [(ekey 0 0x4010 1, 4096), (ekey 0 0x4010 2, 2), (ekey 0 0x4020 1, 2 ^ 13), (ekey 0 0x4020 2, 1), (ekey 0 0x4022 1, 2 ^ 15)]
  mem := cells 4096 32 (packObj (obj0 1 1)) ++ cells (4096 + 32) 32 (packObj { obj0 1 1 with kind := 1, dirtyTrack := true }) ++
    cells (2 ^ 13) 16 kvDesc ++ cells (2 ^ 14 + 8) 8 (kvEntry pageState (2 ^ 16)) ++ cells (2 ^ 15) 16 (2 ^ 16 * 2 ^ 83 + 4 * 2 ^ 59) }

/-- The millrace of wythe A holds 1,024 requests. -/
def rFull : State := { rKv 65 2 with fetchQ := List.replicate 1024 { ctx := 0, obj := 0, cls := 3, age := 0 } }
/-- Object 1 is spilled: it has no window. -/
def rSpillObj : State := { rKv 65 2 with
  mem := cells 4096 32 (packObj (obj0 1 1)) ++ cells (4096 + 32) 32 (packObj { obj0 1 1 with kind := 1, mode := 2 }) }

theorem witness_expert_instructions : issues (rKv 65 2) 0 h0 [] [] = true ∧ (stoneOf (rKv 65 2) 0).owner = some 0 ∧
    (onlyFields [(15, 0)] (ops [(0, 1)]) = true ∧ 1 < objCount (rKv 65 2) 0 ∧
      (objOf (rKv 65 2) 0 1).valid = true ∧ (objOf (rKv 65 2) 0 1).mode ≠ 2 ∧
      (millraceQ (rKv 65 2) (wytheOf (objOf (rKv 65 2) 0 1).firstStone)).length < 1024) ∧
    (1024 ≤ (millraceQ rFull (wytheOf (objOf rFull 0 1).firstStone)).length ∧ rFull.fetchQ.any (isFetchOf 0 1) = false) ∧
    (1 < objCount rSpillObj 0 ∧ (objOf rSpillObj 0 1).mode = 2) ∧
    (writeBack (rKv 65 2) 0 1).writebacks.contains (0, 1) = false ∧
    (writeBack { rKv 65 2 with writebacks := [(0, 1)] } 0 1).writebacks.contains (0, 1) = true ∧
    (onlyFields [(111, 104)] (ops [(108, 1), (104, 2)]) = true ∧ 0 < getC (rKv 65 2) 0 0x4020 0x02 ∧
      pondNat (rKv 65 2) (kvStreamAddr (rKv 65 2) 0 0) 16 = some kvDesc ∧ kvValid kvDesc = true ∧
      (kvAdvance (rKv 64 2) 0 0 64).isSome = true ∧ 63 < kvWatermark kvDesc ∧ 16777216 < 2 ^ 25 - 1) ∧
    (onlyFields [(111, 108)] (ops [(108, 1)]) = true ∧ (retireGen r0 0 0).isSome = true ∧ retireGen rConf 0 0 = none) := by decide +kernel

/-- An update of the block of expert 3 that takes effect at generation 8; `x` is the home's answer. -/
def update0 (x : Option Nat) : PUpdate :=
  { ctx := 0, layer := 0, expert := 3, gen := 8, block := [rep9], old := [], answer := x, stored := false, effective := false }

/-- A layer of 4 experts whose block of expert 3 is staged; `j` updates are under way for it. -/
def rBlock (j : Nat) (pos : Nat) : State := { running stone0 with
  ent := [(ekey 0 0x4001 1, 1), (ekey 0 0x4010 1, 4096), (ekey 0 0x4010 2, 0), (ekey 0 0x6014 1, 2 ^ 2 + 4 * 2 ^ 6)] ++
    (ekey 0 0x6100 20, pos * 2 ^ 39) :: lay 1 0
  pupdates := List.replicate j (update0 none) }

theorem witness_expert_writes : (accepts 0x6012 0x01 (wr 3 4 0) r0 = true ∧ (retireGen (takeRequest r0 (wr 3 4 0)) 0 0).isSome = true) ∧
    (accepts 0x6012 0x01 (wr 3 4 0) rConf = true ∧ retireGen (takeRequest rConf (wr 3 4 0)) 0 0 = none) ∧
    accepts 0x6012 0x02 (wr 2 2 0) r0 = true ∧
    (accepts 0x6014 0x02 (wr 4 8 (3 * 2 ^ 32 + 8 * 2 ^ 16)) (rBlock 0 0) = true ∧ layerSet (rBlock 0 0) 0 0 0x01 ≠ 0 ∧
      3 < layerSet (rBlock 0 0) 0 0 0x02 ∧ blockOk (unpackBlock (toLE 64 (getE (rBlock 0 0) 0x6014 0x01))) = true ∧
      blockInJob (rBlock 0 0) (unpackBlock (toLE 64 (getE (rBlock 0 0) 0x6014 0x01))) = true ∧
      staticOk (rBlock 0 0) 0 0 3 (unpackBlock (toLE 64 (getE (rBlock 0 0) 0x6014 0x01))) = true ∧ (rBlock 0 0).pupdates = [] ∧
      isFar (rBlock 0 0) (blockAddr (rBlock 0 0) 0 0 3) = false ∧ isFar (rBlock 0 4) (blockAddr (rBlock 0 4) 0 0 3) = true ∧
      (rBlock 1 0).pupdates.any (fun x => x.ctx == 0 && x.layer == 0 && x.expert == 3 && !x.effective) = true) ∧
    layerSet (rBlock 0 0) 0 0 0x02 ≤ 4 := by decide +kernel

theorem witness_placement_store : (rBlock 1 4).pupdates.find? (fun u => u.ctx == 0 && u.layer == 0 && u.expert == 3 && !u.stored) =
      some (update0 none) ∧ isFar (rBlock 1 4) (blockAddr (rBlock 1 4) 0 0 3) = true ∧ (rBlock 1 4).confs = [] ∧
    (∀ x ∈ [some 0, some 4, some 2], { rBlock 0 4 with pupdates := [update0 x] }.pupdates.find?
      (fun u => u.ctx == 0 && u.layer == 0 && u.expert == 3 && !u.stored) = some (update0 x)) ∧
    accepts (0x6100 + 255) 0x18 (wr 1 1 2) (inMode .configured) = true := by decide +kernel

/-- A fetch of object 0 is queued; its window is present or not. -/
def rFetch (present : Bool) (fills : List Fill) : State := { rKv 64 2 with
  fetchQ := [{ ctx := 0, obj := 0, cls := 3, age := 0 }], wins := if present then [(0, { Win.initial with present := true })] else []
  fills := fills }

/-- The fill of object 0, whose home lies in this package. -/
def fill0 : Fill := { ctx := 0, obj := 0, want := 0, got := [], failed := false }

/-- 04 R139: a granule whose second read is good is counted as one class U fault, and the window is present. -/
theorem test_fill_with_a_second_read : nextIs (exec (.fillComplete 0 0 0 [(0, false)] []) (rFetch false [fill0]))
    (fun t => (winOf t (winKey 0 0)).present && t.recU.cause == 0x21 && t.fills.isEmpty) = true := by decide +kernel

theorem witness_fills : nextFetch (rFetch true []) 0 = some { ctx := 0, obj := 0, cls := 3, age := 0 } ∧
    (winOf (rFetch true []) (winKey 0 0)).present = true ∧
    (nextFetch (rFetch false []) 0 = some { ctx := 0, obj := 0, cls := 3, age := 0 } ∧ (winOf (rFetch false []) (winKey 0 0)).present = false ∧
      (occupants (rFetch false []) 0 0).filter (fun o => (winOf (rFetch false []) (winKey o.1 o.2)).present) = []) ∧
    ((rFetch false [fill0]).fills.find? (fun f => f.ctx == 0 && f.obj == 0) = some fill0 ∧
      wytheOf (objOf (rFetch false []) 0 0).firstStone = 0 ∧ (winOf (rFetch false []) (winKey 0 0)).bad = false ∧
      (fillBytes (rFetch false [fill0]) 0 fill0 (objOf (rFetch false []) 0 0) []).map (fun x => x.1.map (·.length)) = some (some 1024) ∧
      (ctxOf (rFetch false []) 0).state ≠ .swappingIn) ∧
    laneOut (rFetch false []) 0 (winKey 0 0) 1 = 0 ∧ (winOf (rFetch false []) (winKey 0 0)).bad = false ∧
    (winOf (setWin (rFetch false []) (winKey 0 0) { Win.initial with bad := true }) (winKey 0 0)).bad = true := by decide +kernel

/-- Software placement is on; descriptor 0 is in use or not, and what is staged is no descriptor. -/
def rPlace (software used : Nat) : State := { rKv 64 2 with
  ent := [(ekey 0 0x4001 1, software), (ekey 0 0x4012 2, 0)] ++ (rKv 64 2).ent
  mem := cells 4096 32 (used * packObj (obj0 1 1)) ++ cells (4096 + 32) 32 (packObj (obj0 1 1)) }

theorem witness_placement_writes : (accepts 0x4012 0x01 (wr 2 2 0) (rPlace 0 0) = true ∧ getE (rPlace 0 0) 0x4001 0x01 = 0) ∧
    (accepts 0x4012 0x01 (wr 2 2 2) (rPlace 1 0) = true ∧ getE (takeRequest (rPlace 1 0) (wr 2 2 2)) 0x4001 0x01 ≠ 0 ∧
      objCount (takeRequest (rPlace 1 0) (wr 2 2 2)) 0 ≤ 2) ∧
    (accepts 0x4012 0x01 (wr 2 2 0) (rPlace 1 0) = true ∧ 0 < objCount (takeRequest (rPlace 1 0) (wr 2 2 0)) 0 ∧
      (objOf (takeRequest (rPlace 1 0) (wr 2 2 0)) 0 0).valid = false ∧ (winOf (rPlace 1 0) (winKey 0 0)).held = false ∧
      (rPlace 1 0).writebacks = [] ∧ (unpackObj 0).valid = false ∧ (unpackObj 0).resv = 0) ∧
    (accepts 0x4012 0x01 (wr 2 2 0) (rPlace 1 1) = true ∧
      (winOf { rPlace 1 1 with wins := [(0, { Win.initial with held := true })] } (winKey 0 0)).held = true) ∧
    (accepts 0x4014 0x01 (wr 2 2 1) (rPlace 1 0) = true ∧ (objOf (takeRequest (rPlace 1 0) (wr 2 2 1)) 0 1).valid = true) := by decide +kernel

theorem witness_kv_cache : (stoneOf (rKv 64 2) 0).owner = some 0 ∧ pondNat (rKv 64 2) (kvStreamAddr (rKv 64 2) 0 0) 16 = some kvDesc ∧
    63 < kvWatermark kvDesc ∧ kvWatermark kvDesc ≤ 64 ∧
    (pondNat (rKv 64 2) (kvEntryAddr kvDesc (64 / 64)) 8 = some (kvEntry 2 (2 ^ 16)) ∧ kvState (kvEntry 2 (2 ^ 16)) ≠ 0 ∧
      isFar (rKv 64 2) (kvPageAddr (kvEntry 2 (2 ^ 16)) + 0) = false ∧ isFar (rKv 64 2) (kvPageAddr (kvEntry 2 (2 ^ 39 + 2 ^ 16))) = true ∧
      (pondWrite (rKv 64 2) (kvPageAddr (kvEntry 2 (2 ^ 16)) + 0) [1#8]).isSome = true) ∧
    (pondNat (rKv 64 0) (kvEntryAddr kvDesc (64 / 64)) 8 = some (kvEntry 0 (2 ^ 16)) ∧ kvState (kvEntry 0 (2 ^ 16)) = 0 ∧
      kvTake (rKv 64 0) 0 kvDesc = none) := by decide +kernel

theorem witness_kv_writes : (accepts 0x4026 0x01 (wr 4 8 (64 * 2 ^ 32)) (rKv 64 2) = true ∧ 0 < getC (rKv 64 2) 0 0x4020 0x02 ∧
      (kvAdvance (takeRequest (rKv 64 2) (wr 4 8 (64 * 2 ^ 32))) 0 0 64).isSome = true) ∧
    getC (rKv 64 2) 0 0x4020 0x02 ≤ 1 ∧
    (accepts 0x4023 0x00 (wr 3 4 3) (rKv 64 2) = true ∧
      pondNat (takeRequest (rKv 64 2) (wr 3 4 3)) (kvPoolAddr (rKv 64 2) 0 0) 16 = some (2 ^ 16 * 2 ^ 83 + 4 * 2 ^ 59) ∧
      (rKv 64 2).kvWaits = [] ∧ 3 < kvEntries (2 ^ 16 * 2 ^ 83 + 4 * 2 ^ 59) ∧ kvEntries (2 ^ 16 * 2 ^ 83 + 4 * 2 ^ 59) ≤ 4 ∧
      kvValid kvDesc = true ∧ kvValid (kvDesc - 1) = false) ∧
    (accepts 0x4026 0x02 (wr 2 2 0) (rKv 64 2) = true ∧ pondNat (takeRequest (rKv 64 2) (wr 2 2 0)) (kvStreamAddr (rKv 64 2) 0 0) 16 = some kvDesc) ∧
    (accepts 0x4026 0x02 (wr 2 2 0) { rKv 64 2 with windows := [] } = true ∧ pondNat { rKv 64 2 with windows := [] } (kvStreamAddr (rKv 64 2) 0 0) 16 = none) := by
  decide +kernel
/-! ### Pools, engines, compressor, vector chain -/

/-- Pool 0: four buffers of 256 bytes on stone 2 that every owner may use, of which the first heads the free list. -/
def pool0 (counts : List (Nat × Nat)) (rebuilding : Bool) : Pool :=
  { Pool.initial with
    sizeCode := 0, owners := 2047, firstStone := 2, stones := 1, sramKib := 0, kibPerStone := 1, counts := counts, used := [(0, 1)],
    head := 8192, rebuilding := rebuilding }
/-- R1 = 8200, the third buffer; the first one's link word names the second. -/
def rPool (counts : List (Nat × Nat)) (rebuilding : Bool) : State := { running { stone0 with areg := [(1, 8200#32)] } with
  pools := [(0, pool0 counts rebuilding)], sram := [(524288, 0x04#8), (524289, 0x20#8), (524293, 0x20#8)] }

theorem witness_grant : (grantFrom (rPool [] false) 0 1 2).2 = some 8192 ∧ (poolOf (grantFrom (rPool [] false) 0 1 2).1 0).head = 8196 := by
  decide +kernel

theorem witness_release : memIssues (rPool [(8200, 2)] false) 0 h0 [] [] = true ∧ onlyFields [(111, 108)] (ops [(108, 1)]) = true ∧
    releaseOk (rPool [(8200, 2)] false) 8200#32 = true ∧ releaseOk (rPool [(8200, 1)] true) 8200#32 = true ∧
    (poolOf (rPool [(8200, 1)] true) 0).rebuilding = true ∧ releaseOk (rPool [] false) 8200#32 = false ∧
    2 ≤ tget 0 (poolOf (rPool [(8200, 2)] false) 0).counts 8200 ∧ tget 0 (poolOf (rPool [(8200, 1)] false) 0).counts 8200 = 1 ∧
    isFenced (rPool [(8200, 1)] false) (handleStone 8200) = false ∧ (poolOf (rPool [(8200, 1)] false) 0).retired.contains 8200 = false ∧
    (poolOf (rPool [(8200, 1)] false) 0).head < 2 ^ 32 ∧ handleOff 8200 + 8 ≤ 2 ^ 18 := by decide +kernel

/-- A copy waits for a buffer of pool 0. -/
def waiting0 : BufReq := { owner := 1, size := 256, refs := 2, op := .copy 9 (desc0 false false) [] }

/-- Sixty-four releases wait for the rebuild of pool 0. -/
def rFullQueue : State := { rPool [(8200, 1)] true with pools := [(0, { pool0 [(8200, 1)] true with relQueue := List.replicate 64 8200#32 })] }

theorem witness_release_held : memIssues rFullQueue 0 h0 [] [] = true ∧ releaseOk rFullQueue 8200#32 = true ∧
    64 ≤ (poolOf rFullQueue 0).relQueue.length ∧ (poolOf (rPool [(8200, 1)] true) 0).relQueue.length < 64 := by decide +kernel

/-- A queued choice waits for its copy, and rank 1 for its return, where pool 0 has buffers. -/
def rBuffers : State := { rPool [] false with
  ent := lay 1 0, admitted := [newAdmitted { choice := choice0 false 1, rep := rep0 }], gens := [gen0]
  confs := [conf0 [(1, { rank0 (some 1) with buf := none })]] }

theorem witness_copies_and_returns_take_buffers : copyBay rBuffers (desc0 false false) = some 0 ∧
    (takeBuffer rBuffers 0 0 66 (fanCount (desc0 false false)) (.copy 9 (desc0 false false) [])).2 = some 8192 ∧
    returnUnwanted rBuffers (ret0 1) = false ∧ (takeBuffer rBuffers 0 1 (returnBytes rBuffers (ret0 1)) 1 (.ret (ret0 1) [])).2 = some 8192 := by
  decide +kernel

theorem witness_waiting_grant : (poolOf { rPool [] false with pools := [(0, { pool0 [] false with waiting := [waiting0] })] } 0).waiting =
      waiting0 :: [] ∧
    (grantTry 1 2 { rPool [] false with pools := [(0, { pool0 [] false with waiting := [waiting0] })] }
      (poolsFor { rPool [] false with pools := [(0, { pool0 [] false with waiting := [waiting0] })] } 0 1 256)).2 = some 8192 := by
  decide +kernel

/-- A part in state Clean, all of whose stones are fenced, stages no pool. -/
def rNoPools : State := { inMode .clean with
  fenced := List.range 4096
  ent := (List.range 256).flatMap (fun p => (ekey 0 (0x4100 + p) 1, 255) :: []) }

theorem witness_pool_commit : accepts 0x4040 0x01 (wr 1 1 1) (inMode .clean) = true := by decide +kernel

/-- R2 = 4096, R3 = 8192. -/
def rEngine : State := { running { stone0 with areg := [(2, 4096#32), (3, 8192#32)] } with
  sram := (List.range 8).flatMap (fun j => [(8 * (34 + 4 * j), 0xFF#8), (8 * (34 + 4 * j) + 1, 0xFF#8)]) }

/-- A product of 1-bit weights and one of 2-bit sparse weights, with one block of K. -/
def denseOps : Operands := ops [(108, 1), (104, 2), (100, 3), (96, 4), (83, 6)]
def sparseOps : Operands := ops [(108, 1), (104, 2), (100, 3), (96, 4), (83, 12), (79, 1)]

theorem witness_products : rEngine.resetLow = false ∧ canIssue rEngine 0 = true ∧ h0.resv = 0 ∧
    badIn rEngine 0 ([wRange false denseOps (pRegs rEngine 0 denseOps), aRange denseOps (pRegs rEngine 0 denseOps)] ++
      edgeWords (oRange denseOps (pRegs rEngine 0 denseOps))) = none ∧
    (onlyFields [(111, 52)] denseOps = true ∧ pHandle denseOps = 0 ∧ comboOk false denseOps = true ∧
      prodOk false denseOps (pRegs rEngine 0 denseOps) = true ∧
      issueWait (stoneOf rEngine 0) [wRange false denseOps (pRegs rEngine 0 denseOps), aRange denseOps (pRegs rEngine 0 denseOps)]
        [oRange denseOps (pRegs rEngine 0 denseOps)] = none) := by decide +kernel

theorem witness_sparse_product : comboOk true sparseOps = true ∧ prodOk true sparseOps (pRegs rEngine 0 sparseOps) = true ∧
    pHandle sparseOps = 0 ∧ onlyFields [(111, 52)] sparseOps = true ∧
    issueWait (stoneOf rEngine 0) [wRange true sparseOps (pRegs rEngine 0 sparseOps), aRange sparseOps (pRegs rEngine 0 sparseOps)]
      [oRange sparseOps (pRegs rEngine 0 sparseOps)] = none ∧
    sparseOk rEngine 0 sparseOps (pRegs rEngine 0 sparseOps) = true ∧
    sparseOk { rEngine with sram := [] } 0 sparseOps (pRegs { rEngine with sram := [] } 0 sparseOps) = false := by decide +kernel

/-- A tile of the dense product above. -/
def tile0 (recomputed : Bool) : Tile :=
  { pc := 0, o := denseOps, regs := [0#32, 4096#32, 8192#32, 0#32], recomputed := recomputed, again := false, signal := none, soc := false }
def rTile (recomputed : Bool) : State := running { stone0 with
  dense := [tile0 recomputed], inflight := [{ pc := 0, kind := 1, srcs := [], dsts := [(8192, 256)], signal := none }] }

theorem witness_tile : tilesOf (stoneOf (rTile false) 0) false = tile0 false :: [] ∧ (tile0 true).again = false ∧
    badIn (rTile false) 0 (tileSrcs false (tile0 false)) = none ∧ (tile0 true).recomputed = true ∧
    tileAgrees (tileUpsets (stoneOf (rTile false) 0) false []) denseOps (runTile (rTile false) 0 false [] denseOps (tile0 false).regs).1 = true ∧
    tileAgrees [.cell 0 0 0 0 0] denseOps (runTile (rTile false) 0 false [.cell 0 0 0 0 0] denseOps (tile0 false).regs).1 = false ∧
    (accepts 0xF050 0x01 (wr 3 4 (3 * 2 ^ 12 + 4095)) { r0 with fenced := [4095] } = true ∧
      isFenced { r0 with fenced := [4095] } 4095 = true) ∧
    (accepts 0xF050 0x01 (wr 3 4 (3 * 2 ^ 12 + 4095)) r0 = true ∧ isFenced r0 4095 = false) := by decide +kernel

theorem witness_blocks : (0 : Nat) < 8 ∧ nth false (largestTwo (List.replicate 32 1#32)) 0 = true ∧
    nth false (largestTwo (List.replicate 32 1#32)) 3 = false ∧ pShape denseOps ≤ 13 ∧
    orderOk 1 (sramRead rEngine 0 0 576) 0 = true := by decide +kernel

/-- Operands of the compressor in a mode: SRC R1 = 0, DST R2 = 4096, AUX R3 = 8192; 64 rows of one block of BF16 or FP32. -/
def compOps (mode wfmt rows : Nat) : Operands := ops [(108, 1), (104, 2), (100, 3), (97, mode), (87, rows - 1), (74, wfmt)]
/-- A DENSE tile of one A8 row of zeros, and an S24 tile of 64 rows of 2-bit weights whose indices are 0 and 1. -/
def rDense : State := { rEngine with sram := [(1, 0x28#8), (7, 0x20#8)] }

theorem witness_compressor : onlyFields [(111, 67)] (compOps 0 0 1) = true ∧ compOk (compOps 0 0 1) = true ∧
    compRangesOk rEngine 0 0 4096 8192 (compOps 0 0 1) = true ∧
    issues rEngine 0 h0 [(0, compSrc (compOps 0 0 1) 0)] [(4096, compDst (compOps 0 0 1) 0)] = true ∧
    badIn rEngine 0 ([(0, compSrc (compOps 0 0 1) 0)] ++ edgeWords (4096, compDst (compOps 0 0 1) 0)) = none ∧
    (stoneOf (compressActs (issued rEngine 0) 0 0 4096 (compOps 0 0 1)) 0).run = .running ∧
    compRangesOk rEngine 0 0 0 8192 (compOps 0 0 1) = false ∧ compRangesOk rEngine 0 0 (2 ^ 18) 8192 (compOps 0 0 1) = false := by
  decide +kernel

theorem witness_compressor_modes : (compOk (compOps 1 1 64) = true ∧ cMode (compOps 1 1 64) = 1) ∧ (compOk (compOps 2 9 64) = true ∧
      compRangesOk r0 0 0 32768 0 (compOps 2 9 64) = true) ∧ (compOk (compOps 3 0 1) = true ∧ cMode (compOps 3 0 1) = 3) ∧
    (compOk (compOps 4 0 64) = true ∧ cMode (compOps 4 0 64) = 4) := by decide +kernel

theorem witness_expand : hFormat (sramNat rDense 0 0 8) = 0 ∧ hKind (sramNat rDense 0 0 8) = 1 ∧ hRows (sramNat rDense 0 0 8) = 1 ∧
    hKb (sramNat rDense 0 0 8) = 1 ∧ hPayload (sramNat rDense 0 0 8) ≤ cRows (compOps 3 0 1) * a8Row (cKb (compOps 3 0 1)) ∧
    sramNat rDense 0 0 8 % 2 ^ 11 = 0 ∧ compRangesOk rDense 0 0 4096 8192 (compOps 3 0 1) = true ∧
    issues rDense 0 h0 [(0, compSrc (compOps 3 0 1) (sramNat rDense 0 0 8))] [(4096, compDst (compOps 3 0 1) 0)] = true := by decide +kernel

/-- A stage that adds an immediate of 1 to stream A. -/
def addOne : BitVec 64 := 0x045000003F800000#64
/-- R1 = 0, where that stage's descriptor stands; VL = 2, R3 = 64, scalar 0 = 2. -/
def rVector : State := { running { stone0 with areg := [(3, 64#32)], vl := 2, scalars := [(0, 0x40000000#32)] } with
  sram := [(2, 0x80#8), (3, 0x3F#8), (6, 0x50#8), (7, 0x04#8)] }
def rRunVector : State := { rVector with stones := [(0, { stoneOf rVector 0 with cfg := [(0, [addOne])] })] }
def runOps : Operands := ops [(108, 1), (104, 1), (100, 3), (96, 1), (92, 3)]

theorem witness_configure : onlyFields [(111, 104)] (ops [(108, 1)]) = true ∧ issues rVector 0 h0 [(0, 8)] [] = true ∧
    (stoneOf rVector 0).vruns.any (fun v => vSlot v.o == 0) = false ∧ badIn rVector 0 [(0, 8)] = none ∧
    cfgOk [BitVec.ofNat 64 (sramNat rVector 0 0 8)] = true ∧ cfgOk [BitVec.ofNat 64 (sramNat r0 0 0 8)] = true ∧
    cfgOk [BitVec.ofNat 64 (2 ^ 63)] = false := by decide +kernel

theorem witness_vector_run : onlyFields [(111, 88)] runOps = true ∧
    issues rRunVector 0 h0 (vSrcRanges runOps (vRegs rRunVector 0 runOps) 2) (vDstRanges runOps (vRegs rRunVector 0 runOps) 2) = true ∧
    scalarBusy (stoneOf rRunVector 0) (cfgReads [addOne]) = false ∧ runOk [addOne] runOps (vRegs rRunVector 0 runOps) 2 = true ∧
    badIn rRunVector 0 (vSrcRanges runOps (vRegs rRunVector 0 runOps) 2 ++
      (vDstRanges runOps (vRegs rRunVector 0 runOps) 2).flatMap edgeWords) = none := by
  decide +kernel

def vrun0 : VRun :=
  { pc := 0, o := runOps, vl := 2, scalars := [], regs := [0#32, 0#32, 64#32, 0#32], cfg := [addOne], signal := none }
def rVrun : State := { rRunVector with stones := [(0, { stoneOf rRunVector 0 with
  vruns := [vrun0], inflight := [{ pc := 0, kind := 2, srcs := [], dsts := [(64, 8)], signal := none }] })] }

theorem witness_vector_run_complete : (stoneOf rVrun 0).vruns = vrun0 :: [] ∧ vrun0.cfg ≠ [] := by decide +kernel

theorem test_vector_add : nextIs (exec (.vectorRunComplete 0 5) rVrun) (fun t => sramNat t 0 64 4 == 0x40000000) = true := by decide +kernel

theorem witness_scalars : (onlyFields [(111, 109), (31, 0)] (ops [(109, 7), (0, 2 ^ 32 - 1)]) = true ∧ issues rVector 0 h0 [] [] = true) ∧
    (onlyFields [(111, 94)] (ops [(109, 7), (103, 0x1A)]) = true ∧ scalarFuncOk (ops [(109, 7), (103, 0x1A)]) = true ∧
      scalarBusy (stoneOf rVector 0) (scalarArgs (ops [(109, 7), (103, 0x1A)])) = false) ∧
    (onlyFields [(111, 108)] (ops [(108, 3)]) = true ∧ issues rVector 0 h0 [(64, 32)] [] = true ∧ badIn rVector 0 [(64, 32)] = none ∧ 64 + 32 ≤ 2 ^ 18 ∧ 64 % 8 = 0) ∧
    (issues rVector 0 h0 [] [(64, 32)] = true ∧ scalarBusy (stoneOf rVector 0) (List.range 8) = false) := by decide +kernel

theorem test_scalar_sqrt : nextIs (exec (.scalarFunc 0 h0 (ops [(109, 7), (103, 0x1A), (100, 1)]))
    { rVector with stones := [(0, { stoneOf rVector 0 with scalars := [(1, 0x40800000#32)] })] })
    (fun t => tget 0 (stoneOf t 0).scalars 7 == 0x40000000#32) = true := by decide +kernel
/-! ### Collectives -/

/-- Group 3 of context 0 has packages 0 and 9, staged at offset 4096; `committed` tells whether it stands. -/
def rGroup (m : Mode) (committed : Nat) : State := { running stone0 with
  mode := m, jobTag := 5, windows := [(0, BitVec.ofNat 128 (5 * 2 ^ 55 + 15 * 2 ^ 51))]
  ent := [(ekey 0 0x7000 1, 1), (ekey 0 0x7103 1, 4096), (ekey 0 0x7103 2, 2), (ekey 0 0x7103 3, 2), (ekey 0 0x7103 6, committed),
    (ekey 0 0x7103 7, 0), (ekey 0 0x7103 8, 0), (ekey 0 0x7103 9, 7)]
  mem := (List.range 4).map (fun i => (4096 + i, if i = 2 then 9#8 else 0#8))
  groupLists := if committed = 1 then [(groupKey 0 3, [0, 9])] else [] }

theorem witness_group_commit : accepts (0x7100 + 3) 5 (wr 1 1 1) (rGroup .configured 0) = true ∧
    groupE (takeRequest (rGroup .configured 0) (wr 1 1 1)) 0 3 2 = 2 ∧ (rGroup .configured 0).colls = [] ∧
    groupE (takeRequest (rGroup .configured 0) (wr 1 1 1)) 0 3 3 ∈ [2, 4, 8, 16] ∧
    readMembers (takeRequest (rGroup .configured 0) (wr 1 1 1)) 4096 2 = some [0, 9] ∧ [0, 9].Nodup ∧ pkgId (rGroup .configured 0) ∈ [0, 9] ∧
    readMembers (takeRequest { rGroup .configured 0 with windows := [] } (wr 1 1 1)) 4096 2 = none ∧
    (accepts (0x7100 + 255) 5 (wr 1 1 1) { rGroup .configured 0 with ent := [] } = true) := by decide +kernel

/-- A descriptor of a collective of group 3. -/
def cdesc (cop dtype dst root : Nat) : Nat :=
  dst * 2 ^ 128 + (if cop = 0 then 0 else 64 * 2 ^ 104) + cop * 2 ^ 100 + dtype * 2 ^ 98 + 3 * 2 ^ 88 + root * 2 ^ 74 + 2 * 2 ^ 68 +
    2 * 2 ^ 66 + 8192 * 2 ^ 14

/-- The descriptor stands at offset 0 of stone 0, whose R1 is 0. -/
def rColl (cop dst root : Nat) : State := { rGroup .running 1 with
  sram := ((List.range 32).map (fun i => (i, BitVec.ofNat 8 (cdesc cop 0 dst root / 256 ^ i)))).filter (fun c => c.2 != 0#8)
  stones := [(0, stone0)] }

theorem witness_posts : ∀ x ∈ [(0, 0, 0), (1, 32768, 1), (2, 32768, 0), (3, 32768, 1), (5, 32768, 0)],
    (parseColl (sramNat (rColl x.1 x.2.1 x.2.2) 0 0 32)).cop = x.1 ∧
    postOk (rColl x.1 x.2.1 x.2.2) 0 0 0 (parseColl (sramNat (rColl x.1 x.2.1 x.2.2) 0 0 32)) = true ∧
    mortarOpen (rColl x.1 x.2.1 x.2.2) (wytheOf 0) < 64 := by decide +kernel

theorem witness_barrier_issues : issues (rColl 0 0 0) 0 h0 [(0, 32)] [(8192, 16)] = true ∧
    badIn (rColl 0 0 0) 0 [(0, 32)] = none ∧ onlyFields [(111, 98)] (ops [(108, 1)]) = true ∧ flag 98 (ops [(108, 1)]) = false ∧
    (stoneOf (rColl 0 0 0) 0).owner = some 0 := by decide +kernel

theorem witness_multicast : (parseColl (sramNat (rColl 6 65536 2) 0 0 32)).cop = 6 ∧
    postOk (rColl 6 65536 2) 0 0 0 (parseColl (sramNat (rColl 6 65536 2) 0 0 32)) = true ∧
    roundTiles (parseColl (sramNat (rColl 6 65536 2) 0 0 32)) (collBytes (parseColl (sramNat (rColl 6 65536 2) 0 0 32))) ≤
      retentionFree (rColl 6 65536 2) := by decide +kernel

theorem witness_post_refused : postOk (rColl 1 32768 2) 0 0 0 (parseColl (sramNat (rColl 1 32768 2) 0 0 32)) = false ∧
    issues (rColl 1 32768 2) 0 h0 [(0, 32)] [(8192, 16), (32768, 256)] = true := by decide +kernel

def ck : CollKey := { ctx := 0, group := 3, seq := 7 }
/-- The collective `cop` of group 3, open here. -/
def coll0 (cop : Nat) : Coll :=
  { mkColl (rColl cop 32768 0) 0 0 (parseColl (cdesc cop 0 32768 0)) 7 7 0 0 none false false with granted := true }
def rOpen (c : Coll) : State := { rColl c.desc.cop 32768 0 with colls := [c] }
def msg0 (n : Nat) : CollMsg :=
  { key := ck, chunk := 0, fromRank := 1, cover := 1, attempt := 0, digest := none, crcOk := true, code := 0x0703, codeRank := 1,
    payload := List.replicate n (0#8) }

theorem witness_messages : (rOpen (coll0 0)).resetLow = false ∧ collFor (rOpen (coll0 0)) (msg0 0).key = some (coll0 0) ∧
    (coll0 0).granted = true ∧ (coll0 0).rank = (coll0 0).root ∧
    (collFor (rColl 0 0 0) (msg0 0).key = none ∧ endFor (rColl 0 0 0) (msg0 0).key = none ∧
      16 + (msg0 0).payload.length ≤ retentionFree (rColl 0 0 0)) ∧
    retentionFree { rColl 0 0 0 with ent := [(ekey 0 0x7000 1, 0)] } < 16 + (msg0 0).payload.length := by decide +kernel

def end0 (status : Nat) : CollEnd := { key := ck, status := status, codeRank := 1, posted := true, isRoot := true }

theorem witness_late_messages : collFor { rColl 0 0 0 with collEnds := [end0 0] } (msg0 0).key = none ∧
    endFor { rColl 0 0 0 with collEnds := [end0 0] } (msg0 0).key = some (end0 0) ∧ (end0 0x0703).status ≠ 0 ∧ (end0 0).isRoot = true := by
  decide +kernel

theorem witness_coll_events : (rOpen { coll0 0 with granted := false }).colls.find? (fun c => c.key == ck && !c.granted) =
      some { coll0 0 with granted := false } ∧
    (coll0 0).retention ≤ retentionFree (rOpen { coll0 0 with granted := false }) ∧
    ((rOpen { coll0 2 with handle := 4, socFeed := true }).colls.find? (fun c => c.handle == 4) =
        some { coll0 2 with handle := 4, socFeed := true } ∧ 0 < collTiles (coll0 2).desc ∧ contributes (coll0 2).desc (coll0 2).rank = true ∧
      (coll0 2).tiles.any (fun t => t.1 == 0) = false) ∧
    ((ck, 0) ∈ { rOpen (coll0 2) with backoffs := [(ck, 0)] }.backoffs ∧
      collAt { rOpen (coll0 2) with backoffs := [(ck, 0)] } ck = some (coll0 2)) ∧
    collAt { rOpen { coll0 2 with sentDone := true } with backoffs := [(ck, 0)] } ck = some { coll0 2 with sentDone := true } ∧
    ((coll0 0).sentDone = false ∧ (coll0 0).abortSent = false ∧ { coll0 0 with abortSent := true }.abortSent = true) := by decide +kernel

def leg0 (stone : Nat) : LegMsg :=
  { poster := 9, ctx := 0, number := 0, leg := 0, chunk := 0, stone := stone, offset := 2 ^ 18 - 8, crcOk := true,
    payload := List.replicate 8 (1#8) }
def mcast0 (resends : List (Nat × Nat × Nat)) : Mcast :=
  { ctx := 0, number := 0, desc := parseColl (cdesc 6 0 65536 2), stone := 0, pc := 0, signal := none, retention := 256, granted := true,
    legs := [0#64, 0#64], handle := 0, socFeed := false, tiles := [], acks := [], resends := resends }

theorem witness_legs : (leg0 4095).stone < 4096 ∧ isFenced r0 4095 = false ∧ (leg0 0).offset % 8 = 0 ∧
    (leg0 0).offset + (leg0 0).payload.length ≤ 2 ^ 18 ∧
    (isFenced { r0 with fenced := [1], fencedLegs := [(9, 0, 0, 0)] } (leg0 1).stone = true ∧
      { r0 with fenced := [1], fencedLegs := [(9, 0, 0, 0)] }.fencedLegs.contains (9, 0, 0, 0) = true) ∧
    ({ r0 with mcasts := [mcast0 []] }.mcasts.find? (fun m => m.ctx == 0 && m.number % 2 ^ 24 == 0 % 2 ^ 24) = some (mcast0 []) ∧
      (mcast0 []).acks.any (fun x => x.1 == 0 && x.2.1 == 0) = false) ∧
    2 ≤ ((mcast0 [(0, 0, 0), (0, 0, 1)]).resends.filter (fun r => r.1 == 0 && r.2.1 == 0)).length := by decide +kernel

theorem witness_coll_abort : accepts 0x7012 1 (wr 4 8 (3 * 2 ^ 48 + 7 * 2 ^ 16 + 0x0703)) (rOpen (coll0 0)) = true ∧
    collAt (rOpen (coll0 0)) ck = some (coll0 0) ∧ (3 * 2 ^ 48 + 7 * 2 ^ 16 + 0x0702) % 2 ^ 16 ≠ 0x0703 ∧
    (coll0 0).desc.cop ≠ 7 ∧ isFenced (rOpen (coll0 0)) (coll0 0).stone = false ∧ (coll0 0).desc.record + 16 ≤ 2 ^ 18 := by decide +kernel

theorem witness_tree : (2 : Nat) = 2 ∧ 2 < 3 ∧ 3 ≤ 16384 ∧ (treeKids 2 3 0).map (·.1) = [2, 1] := by decide +kernel

/-! ### The fabric -/

def port0 (x : PortState) : Port := { Port.initial with state := x }
/-- Position 0 of pond 0, whose id is assigned, with port 0, which expects port 0 of position 1. -/
def rPort (x : Port) : State := { inMode .running with ent := [(ekey 0 0x1020 1, 2 ^ 15), (ekey 0 0x2020 1, 0), (ekey 0 0x9040 1, 0)], ports := [(0, x)] }

theorem witness_wiring : (63 : Nat) < 64 ∧ 29 < 32 ∧ isGlobal 29 = false ∧ expectedPos 63 29 = 55 := by decide +kernel

def hello0 (pkg : Nat) (good : Bool) (mode : Nat) : Hello :=
  { peerPkg := pkg, peerPort := 0, flowMode := mode, certOk := good, sigOk := true, endorsed := false }

theorem witness_port_states : (portsAllowed (rPort (port0 .down)) 0 = true ∧ (portOf (rPort (port0 .down)) 0).state = .down) ∧
    (portOf (rPort (port0 .training)) 0).state = .training ∧
    ((rPort (port0 .authenticating)).sec.rngBad = false ∧ (rPort (port0 .authenticating)).sec.identityPresent = true ∧
      helloKeysOk (rPort (port0 .authenticating)) (hello0 1 false 0) = false ∧
      helloKeysOk (rPort (port0 .authenticating)) (hello0 1 true 0) = true ∧ wiredOk (rPort (port0 .authenticating)) 0 2 0 = false ∧
      wiredOk (rPort (port0 .authenticating)) 0 1 0 = true ∧ (hello0 1 true 0).flowMode = getE (rPort (port0 .authenticating)) 0x2020 0x01 ∧
      (hello0 1 true 1).flowMode ≠ getE (rPort (port0 .authenticating)) 0x2020 0x01 ∧ isGlobal 0 = false) ∧
    splitOk (rPort { port0 .authenticating with helloOk := true }) 0 500
      (chosenSplit (rPort { port0 .authenticating with helloOk := true }) 0) = true := by decide +kernel

theorem witness_port_writes : accepts (0x2100 + 31) 0x05 (wr 1 1 1) (rPort (port0 .up)) = true ∧
    accepts (0x2100 + 31) 0x04 (wr 1 1 1) (rPort (port0 .up)) = true ∧ (portOf (rPort (port0 .up)) 0).state = .up ∧
    (portOf (rPort (port0 .fenced)) 0).state = .fenced := by decide +kernel

def packet0 (dest epoch hops : Nat) : Packet :=
  { dest := dest, src := 9, jobTag := 0, cls := 3, phase := 0, epoch := epoch, target := 5, targetStone := 0, length := 2, hops := hops,
    classField := 0, payload := [1#8, 2#8] }
def frame0 (seq : Nat) (fec tag : Bool) : LinkFrame :=
  { keyPhase := false, vc := 6, seq := seq, fecCorrected := 0, fecUncorrected := if fec then 0 else 2, tagOk := tag, bufferOk := true, body := .routed (packet0 0 0 5) }
def item0 : QItem := { vc := 6, inPort := 32, losses := 0, body := .routed (packet0 1 0 0) }
/-- Port 0 is UP, next SEQ 4095; a packet waits for it, and one sent frame is not acknowledged. -/
def up0 (resends : Nat) : Port :=
  { port0 .up with rxSeq := 4095, txSeq := 1, replay := [{ seq := 0, resends := resends, vc := 6, body := .routed (packet0 1 0 0) }],
                   outQ := [item0], returned := [(6, 32)] }
/-- The weights of arbitration stand listed. -/
def rLinkUp (resends : Nat) : State := { rPort (up0 resends) with
  ent := (rPort (up0 resends)).ent ++ (List.range 8).map (fun i => (ekey 0 0x2024 (i + 1), 1)) ++
    (List.range 16).map (fun v => (ekey 0 0x2100 (0x10 + v), 40)) }
def block0 (ack : Nat) (nak : Bool) : CtrlBlock :=
  { keyPhase := false, fecCorrected := 0, fecUncorrected := 0, credits := List.replicate 16 40, offMask := 0, ackSeq := ack, nak := nak, tagOk := true }

theorem witness_frames : isUp (rLinkUp 0) 0 = true ∧ (frame0 4095 true true).seq = (up0 0).rxSeq ∧ (frame0 0 true true).seq ≠ (up0 0).rxSeq ∧
    (frame0 0 false true).fecUncorrected ≠ 0 ∧ (frame0 0 true false).tagOk = false ∧ (block0 0 false).tagOk = true ∧
    { block0 0 false with fecUncorrected := 1 }.fecUncorrected ≠ 0 ∧ (up0 0).mgmtDue = false ∧ (up0 0).frameCtr + 1 < 2 ^ 48 ∧
    { up0 0 with rxNext := some 5 }.rxNext = some 5 ∧ (frame0 0 true true).keyPhase = (up0 0).rxPhase ∧
    arbitrate (rPort (port0 .up)) 0 = none ∧
    ((afterAck 4095 (up0 0).replay).map (fun f => { f with resends := f.resends + 1 })).any (fun f => decide (8 < f.resends)) = false ∧
    (up0 0).replay.length < 4095 ∧ ((up0 0).replay.map (fun f => frameBytes f.body)).sum + frameBytes item0.body ≤ 524288 ∧
    ((arbitrate (rLinkUp 0) 0).map (fun x => x.1)) = some item0 ∧ outVc 0 item0.body = 6 := by decide +kernel

/-- Routing tables for position 0 of pond 0: position 1 over port 0, the others nowhere. -/
def table0 : Nat := (List.range 640).foldl
  (fun a i => a + (if i = 0 ∨ i = 320 then 0x21 else if i = 1 then 0 else 0x3F) * 256 ^ i) 0
def rRoute (dest : Nat) : State := { rLinkUp 0 with tables := [(0, table0)], injQ := [(0, packet0 dest 0 0)] }

/-- A packet of class 5 for the first stone, which takes a buffer of an 8 KiB pool there. -/
def busPacket : Packet := { packet0 0 0 0 with cls := 5, target := 0 }
def rRx : State := { rRoute 0 with
  injQ := [(0, busPacket)]
  pools := [(0, { pool0 [] false with sizeCode := 5, kibPerStone := 32 })], sram := [(524288, 0x80#8), (524289, 0x20#8), (524293, 0x20#8)] }

theorem witness_routing : decideRoute (rRoute 1) 0 .injected (packet0 1 0 0) = .port 0 ∧
    decideRoute (rRoute 0) 0 .injected (packet0 0 0 0) = .deliver ∧ decideRoute (rRoute 2) 0 .injected (packet0 2 0 0) = .drop 1 ∧
    epochLive (rRoute 1) 1 = false ∧ (rRoute 1).injQ.find? (fun x => x.1 == 0) = some (0, packet0 1 0 0) ∧
    (rRoute 1).switchDead.contains 0 = false ∧ unitAsleep (rRoute 0) (packet0 0 0 0) = false ∧ waitsBuffer (rRoute 0) (packet0 0 0 0) = false ∧
    rxOwner (packet0 0 0 0) = none ∧ (rxOwner (busPacket) = some 8 ∧ tagDrops rRx busPacket = false ∧ waitsBuffer rRx busPacket = false ∧
      decideRoute rRx 0 .injected busPacket = .deliver ∧ (grantTry 8 1 rRx (poolsFor rRx 0 8 8192)).2 = some 8192) ∧
    (packet0 0 0 0).jobTag = (rRoute 0).jobTag ∧ (rRoute 0).mode ≠ .draining ∧ targetWythe (packet0 0 0 0) 0 = 0 := by decide +kernel

/-- An aqueduct entry: out-port, END, address, and valid or not. -/
def aq0 (out fin addr valid : Nat) : BitVec 128 :=
  BitVec.ofNat 128 (out * 2 ^ 122 + 7 * 2 ^ 114 + 100 * 2 ^ 88 + 5 * 2 ^ 85 + fin * 2 ^ 83 + valid * 2 ^ 82 + addr * 2 ^ 43)
def aqp : AqPacket := { aqueduct := 3, cls := 5, phase := 0, last := true, seq := 1, payload := [1#8, 2#8] }
/-- The entry is staged, and stands for id 3 of in-port 32. -/
def rAq (e : BitVec 128) (queued : List AqPacket) : State := { rLinkUp 0 with
  ent := (ekey 0 0x2030 1, 80) :: (ekey 0 0x2032 1, e.toNat) :: (rLinkUp 0).ent, aqs := [(aqKey 32 3, e)]
  aqQ := if queued.isEmpty then [] else [(aqKey 32 3, queued)] }

/-- The burst of the entry is used up. -/
def rBurst : State := { rAq (aq0 0 0 0 1) [aqp] with aqSent := [(aqKey 32 3, (163840, now (rAq (aq0 0 0 0 1) [])))] }

theorem witness_aqueducts : (accepts 0x2032 0x02 (wr 2 2 (aqKey 32 3)) (rAq (aq0 0 0 0 1) []) = true ∧
      aqRefusal (takeRequest (rAq (aq0 0 0 0 1) []) (wr 2 2 (aqKey 32 3))) (aqKey 32 3) (aq0 0 0 0 1) = none) ∧
    aqRefusal (rAq (aq0 0 0 1 1) []) (aqKey 32 3) (aq0 0 0 1 1) = some 0x0302 ∧
    (accepts 0x2032 0x03 (wr 2 2 (36 * 256)) (rAq 0 []) = true) ∧
    aqQueued (rAq (aq0 0 0 0 1) [aqp]) (aqKey 32 3) = true ∧ aqQueued (rAq (aq0 0 0 0 1) []) (aqKey 32 3) = false ∧
    163840 < aqTaken rBurst rBurst.aqSent (aqKey 32 3) (aqRate (aq0 0 0 0 1)) + 10 * bodyBytes (.aqueduct aqp) ∧
    aqTaken (rAq (aq0 0 0 0 1) []) (rAq (aq0 0 0 0 1) []).aqSent (aqKey 32 3) (aqRate (aq0 0 0 0 1)) + 10 * bodyBytes (.aqueduct aqp) ≤ 163840 ∧
    aqValid (aq0 0 0 0 0) = false ∧ (aqValid (aq0 0x21 2 8192 1) = true ∧ aqOut (aq0 0x21 2 8192 1) = 0x21) ∧
    (aqValid (aq0 0 0 0 1) = true ∧ aqOut (aq0 0 0 0 1) < 32 ∧ (portOf (rAq (aq0 0 0 0 1) [aqp]) 0).state = .up) ∧
    (aqTag (aq0 0x21 2 8192 1) = (rAq 0 []).jobTag ∧ aqEnd (aq0 0x21 2 8192 1) = 2 ∧
      aqAddr (aq0 0x21 2 8192 1) + 8192 * aqp.seq + aqp.payload.length ≤ 2 ^ 39) := by decide +kernel

/-- The table is staged; the epochs in `live` are live. -/
def rEpoch (live : List Nat) (inject : Nat) : State := { rLinkUp 0 with
  ent := [(ekey 0 0x2010 1, 0), (ekey 0 0x2050 1, table0), (ekey 0 0x2050 3, inject)] ++
    (List.range 8).map (fun i => (ekey 0 0x2052 (i + 1), 0)) ++ [(ekey 0 0x2056 2, 0), (ekey 0 0x2056 7, 2 ^ 63)] ++ (rLinkUp 0).ent
  tables := live.map (fun e => (e, table0)), ports := [] }

theorem witness_tables : (accepts 0x2050 0x02 (wr 1 1 3) (rEpoch [] 255) = true ∧ stagingOk (rEpoch [] 255) table0 = true ∧
      tlook (rEpoch [] 255).tables 3 = none) ∧ stagingOk (rEpoch [] 255) 0 = false ∧ tlook (rEpoch [3] 255).tables 3 = some table0 ∧
    (tlook (rEpoch [0, 1] 255).tables 3 ≠ some table0 ∧ 2 ≤ ((rEpoch [0, 1] 255).tables.filter (fun x => x.1 != 3)).length) ∧
    (accepts 0x2050 0x03 (wr 1 1 3) (rEpoch [3] 255) = true ∧ epochLive (rEpoch [3] 255) 3 = true ∧ epochLive (rEpoch [0] 255) 3 = false ∧
      (rEpoch [3] 255).stalledInj = []) ∧
    (accepts 0x2050 0x04 (wr 1 1 3) (rEpoch [3] 3) = true ∧ getE (takeRequest (rEpoch [3] 3) (wr 1 1 3)) 0x2050 0x03 = 3 ∧
      getE (takeRequest (rEpoch [3] 0) (wr 1 1 3)) 0x2050 0x03 ≠ 3 ∧ epochHeld (rEpoch [3] 0) 3 = 0 ∧
      epochHeld { rEpoch [3] 0 with injQ := [(0, packet0 1 3 0)] } 3 ≠ 0) := by decide +kernel

theorem witness_epoch_steps : (accepts 0x2056 0x01 (wr 2 2 (1 * 256 + 3)) (rEpoch [] 255) = true ∧
      isKeystone (takeRequest (rEpoch [] 255) (wr 2 2 (1 * 256 + 3))) = true ∧
      getE (takeRequest (rEpoch [] 255) (wr 2 2 (1 * 256 + 3))) 0x2056 0x02 ≠ 1 ∧
      (List.range 64).filter (fun k => bit k (getE (rEpoch [] 255) 0x2056 0x07) && decide (k ≠ 0)) = [63]) ∧
    isKeystone (setE (rEpoch [] 255) 0x2010 1 5) = false ∧
    (firmwareUp (rEpoch [] 255) = true ∧ fromKeystone (rEpoch [] 255) 5 = false ∧ fromKeystone (rEpoch [] 255) 0 = true ∧
      (epochOp 1 3 (rEpoch [] 255)).2 = 0) := by decide +kernel

def estep (l : List Nat) : EpochStep := { op := 1, epoch := 3, waiting := l, silent := [] }

theorem witness_epoch_answers : { rEpoch [] 255 with epochStep := some (estep [63]) }.epochStep = some (estep [63]) ∧ 63 ∈ (estep [63]).waiting ∧
    (estep [63]).op ≠ 3 ∧ ((estep [9, 63]).waiting.erase 63 ≠ []) ∧ (estep [63]).waiting.erase 63 = [] := by decide +kernel
/-! ### Ill-formed commands -/

def q1 : Req := wr 1 1 1

theorem ill_requests : [{ q1 with path := 5 }, { q1 with seq := 65536 }, { q1 with version := 16 }, { q1 with position := 64 },
    { q1 with resv := 2 ^ 40 }, { q1 with typ := 32 }, { q1 with length := 2048 }, { q1 with length := 1025 },
    { q1 with value := 2 ^ 8192 }, { q1 with viaPath := 5 }, { q1 with fromPos := 64 }].all (fun q => !q.wf) = true ∧ q1.wf = true := by
  decide +kernel

theorem ill_headers : [{ h0 with signalObj := 4 }, { h0 with resv := 8 }].all (fun h => !h.wf) = true ∧ h0.wf = true := by decide

theorem ill_tokens : [{ key0 with ctx := 256 }, { key0 with layer := 256 }, { key0 with gen := 65536 },
    { key0 with tokenId := 2 ^ 32 }].all (fun k => !k.wf) = true ∧ key0.wf = true := by decide

def ch0 : Choice := choice0 false 0

theorem ill_choices : [{ ch0 with tokenId := 2 ^ 32 }, { ch0 with gen := 65536 }, { ch0 with layer := 256 }, { ch0 with ctx := 256 },
    { ch0 with originPkg := 16384 }, { ch0 with originStone := 4096 }, { ch0 with rank := 0 }, { ch0 with rank := 17 },
    { ch0 with replica := 16 }, { ch0 with expert := 65536 }, { ch0 with status := 8 }].all (fun c => !c.wf) = true ∧ ch0.wf = true := by
  decide

theorem ill_replicas : [{ rep0 with pkg := 16384 }, { rep0 with firstStone := 4096 }, { rep0 with span := 8 },
    { rep0 with resv := 4 }].all (fun r => !r.wf) = true ∧ rep0.wf = true ∧ { claim0 false with choice := { ch0 with rank := 0 } }.wf = false ∧
    { claim0 false with rep := { rep0 with span := 8 } }.wf = false := by decide

def td0 : TokenDesc := desc0 false false

theorem ill_descriptors : [{ td0 with tokenId := 2 ^ 32 }, { td0 with gen := 65536 }, { td0 with layer := 256 }, { td0 with ctx := 256 },
    { td0 with fanout := 65536 }, { td0 with spillMask := 65536 }, { td0 with position := 2 ^ 24 },
    { td0 with targetStone := 4096 }].all (fun d => !d.wf) = true ∧ td0.wf = true := by decide

theorem ill_returns : [{ ret0 1 with tokenId := 2 ^ 32 }, { ret0 1 with gen := 65536 }, { ret0 1 with layer := 256 }, { ret0 1 with ctx := 256 },
    { ret0 1 with originStone := 4096 }, ret0 0, ret0 17, { ret0 1 with path := 4 }, { ret0 1 with segment := 8 },
    { ret0 1 with format := 2 }].all (fun r => !r.wf) = true ∧ (ret0 16).wf = true := by decide

def pk0 : Packet := packet0 0 0 0

theorem ill_packets : [{ pk0 with dest := 16384 }, { pk0 with src := 16384 }, { pk0 with jobTag := 65536 }, { pk0 with cls := 8 },
    { pk0 with phase := 2 }, { pk0 with epoch := 4 }, { pk0 with target := 16 }, { pk0 with targetStone := 4096 },
    { pk0 with length := 8193 }, { pk0 with hops := 8 }, { pk0 with length := 3 }].all (fun p => !p.wf) = true ∧ pk0.wf = true := by decide

theorem ill_aqueduct_packets : [{ aqp with aqueduct := 256 }, { aqp with cls := 4 }, { aqp with cls := 7 }, { aqp with phase := 2 },
    { aqp with seq := 65536 }, { aqp with payload := [] }, { aqp with payload := List.replicate 8193 0 }].all (fun p => !p.wf) = true ∧
    aqp.wf = true := by decide +kernel

def fr0 : LinkFrame := frame0 0 true true

theorem ill_frames : [{ fr0 with vc := 16 }, { fr0 with seq := 4096 }, { fr0 with body := .routed { pk0 with cls := 8 } },
    { fr0 with body := .aqueduct { aqp with cls := 4 } }].all (fun f => !f.wf) = true ∧ fr0.wf = true ∧
    [{ block0 0 false with credits := [] }, { block0 0 false with credits := List.replicate 16 4096 },
      { block0 0 false with offMask := 65536 }, block0 4096 false].all (fun b => !b.wf) = true ∧ (block0 0 false).wf = true := by decide

theorem ill_arrivals : [Arrival.injection 2, .port 32, .bridge 2].all (fun a => !a.wf) = true ∧
    [hello0 16384 true 0, { hello0 1 true 0 with peerPort := 32 }, hello0 1 true 2].all (fun m => !m.wf) = true := by decide

def mr0 : MemReq := req9 0 60 8 []

theorem ill_memory_requests : [{ mr0 with srcPkg := 16384 }, { mr0 with jobTag := 65536 }, { mr0 with op := 16 }, { mr0 with unitKind := 4 },
    { mr0 with unit := 4096 }, { mr0 with slot := 256 }, { mr0 with size := 0 }, { mr0 with size := 4097 }, { mr0 with seq := 2 ^ 32 },
    { mr0 with issueT := 65536 }, { mr0 with attempt := 4 }, { mr0 with offset := 2 ^ 39 },
    { mr0 with targetStone := 4096 }].all (fun r => !r.wf) = true ∧ mr0.wf = true := by decide

theorem ill_memory_responses : [{ resp 4 0 with srcPkg := 16384 }, { resp 4 0 with op := 16 }, { resp 4 0 with unitKind := 4 },
    { resp 4 0 with unit := 4096 }, { resp 4 0 with slot := 256 }, resp (2 ^ 32) 0, { resp 4 0 with attempt := 4 },
    resp 4 16].all (fun r => !r.wf) = true ∧ (resp 4 0).wf = true := by decide

def m1 : CollMsg := msg0 0

theorem ill_messages : [{ m1 with key := { ck with ctx := 256 } }, { m1 with key := { ck with group := 256 } },
    { m1 with key := { ck with seq := 2 ^ 24 } }, { m1 with chunk := 2 ^ 17 }, { m1 with fromRank := 16384 }, { m1 with cover := 0 },
    { m1 with cover := 16385 }, { m1 with attempt := 3 }].all (fun m => !m.wf) = true ∧ m1.wf = true ∧
    [{ leg0 1 with poster := 16384 }, { leg0 1 with ctx := 256 }, { leg0 1 with number := 2 ^ 24 }, { leg0 1 with leg := 16384 },
      { leg0 1 with chunk := 2 ^ 17 }, leg0 4096, { leg0 1 with offset := 2 ^ 18 }].all (fun m => !m.wf) = true ∧ (leg0 1).wf = true := by
  decide

def e1 : RingEntry := ent0 false 1
def flit1 : Flit := flit0 0 true

theorem ill_link_records : [{ e1 with mailbox := 128 }, { e1 with seq := 2 ^ 32 }, { e1 with firstToken := 2 ^ 32 },
    { e1 with count := 2 ^ 25 }, { e1 with firstPos := 2 ^ 24 }, { e1 with cmdAddr := 2 ^ 64 },
    { e1 with rspAddr := 2 ^ 64 }].all (fun e => !e.wf) = true ∧ e1.wf = true ∧
    [{ flit1 with seq := 1024 }, { flit1 with ackSeq := 1024 }, { flit1 with creditP := 4096 },
      { flit1 with creditN := 4096 }].all (fun f => !f.wf) = true ∧ flit1.wf = true := by decide

theorem ill_firmware : [{ fw0 with magic := 2 ^ 32 }, { fw0 with format := 65536 }, { fw0 with partCode := 65536 },
    { fw0 with version := 2 ^ 32 }, { fw0 with securityVersion := 256 }, { fw0 with keyIndex := 256 }, { fw0 with length := 2 ^ 32 },
    { fw0 with digest := 2 ^ 512 }].all (fun f => !f.wf) = true ∧ fw0.wf = true := by decide +kernel

theorem ill_faults : [flt 3 1, flt 1 256, { flt 1 1 with kind := 7 }, { flt 1 1 with unit := 4096 }, { flt 1 1 with ctx := some 256 },
    { flt 1 1 with detail := 2 ^ 64 }].all (fun f => !f.wf) = true ∧ (flt 2 255).wf = true ∧
    [FailedUnit.meshStop 64, .courseDma 64, .cisternManager 16, .ledger 16, .millrace 2, .mortar 2, .stack 8, .mgmtProcessor 2,
      .switch 2].all (fun u => !u.wf) = true ∧ [SramRead.corrected (2 ^ 18), .uncorrectable (2 ^ 18)].all (fun r => !r.wf) = true := by
  decide

def ist0 : ImgStone := { stone := 0, expert := false, words := [], granules := [], bytes := [] }
def lay0 : ImgLayer := { layer := 0, settings := [], runVarying := false, blocks := [] }

theorem ill_images : [{ ist0 with stone := 4096 }, { ist0 with granules := [256] }, { ist0 with bytes := [(2 ^ 18, 0)] },
    { ist0 with words := List.replicate 16385 0 }].all (fun t => !t.wf) = true ∧ ist0.wf = true ∧
    [{ img0 with stones := [{ ist0 with stone := 4096 }] }, { img0 with leadStone := 4096 }, { img0 with stepDescOffset := 2 ^ 18 },
      { img0 with layers := [{ lay0 with layer := 256 }] }, { img0 with layers := [{ lay0 with blocks := [(65536, [])] }] },
      { img0 with layers := [{ lay0 with blocks := [(0, [{ rep0 with span := 8 }])] }] }].all (fun i => !i.wf) = true ∧
    img0.wf = true := by decide +kernel

def o0 : Operands := ops []

theorem ill_commands : [Instr.resetRelease 8, .supplyRange 0, .supplyRange 13, .pllLockTimeout 14, .pllLockLoss 14, .stacksTrained (some 8),
    .pondBeacon 64, .submit 4096 h0 o0, .halt 0 { h0 with resv := 8 } o0, .scoringPass 16 0 0 0 .clean, .scoringPass 0 0 0 65536 .clean,
    .gateStreamComplete 0 256 0 .ok, .placementBlockRead 0 0 256 0 0 [], .placementBlockRead 0 0 0 65536 0 [],
    .placementBlockRead 0 0 0 0 16 [], .claimBundle 16384 [], .claimBundleAck 0 0 0 16384, .admissionAbort 0 0 0 65536,
    .verdictBundle 0 [{ ch0 with status := 8 }], .cisternGrant 256 false, .runPartDue 0 0 4096, .missNotice key0 0 false,
    .returnTimeoutExpiry key0 17, .deadlinePolicyWrite 256 q1, .fillStart 2 0 0, .writebackComplete 0 65536, .kvWrite 0 65536 0 0 [],
    .kvWrite 0 0 (2 ^ 24) 0 [], .kvWrite 0 0 0 (2 ^ 18) [], .dmaDescriptorComplete 64 0 none [], .signalDelivery 0 4 0,
    .signalDelivery 0 0 (2 ^ 32), .lineRequestPerformed (2 ^ 33) true, .attemptTimeoutExpiry 4 0 0, .groupCommit 256 q1 true,
    .backoffRetry ck (2 ^ 17), .legAck 0 (2 ^ 24) 0 0 0 true, .legAck 0 0 0 0 3 true, .portTrainingRetry 32, .aqueductPacket 36 aqp,
    .fenceStone { q1 with typ := 32 }].all (fun i => !i.wf) = true ∧ (Instr.halt 4095 h0 o0).wf = true := by decide +kernel

/-! ### Whole rules -/

theorem witness_first_source : (flt 1 1).cls < 3 ∧ (recOf r0 1).valid = false ∧
    ((recOf { r0 with recU := held } 1).valid = true ∧ (held.cause = (flt 1 1).cause ∧ held.kind = 0 ∧ held.unit = 5) ∧
      ¬(held.cause = (flt 1 2).cause)) ∧ r0.deadPairs.contains (0, 5) = false := by decide +kernel

theorem witness_speculative : (∀ a ∈ [admitted0 0 true], a.claim.choice.spec = true → a.resend = false → a.part = 0 ∧ a.slot = none) ∧
    ∃ t, step { r0 with admitted := [admitted0 0 true] } = .next t := ⟨by decide, _, rfl⟩

theorem witness_keystone_position : (inMode .dormant).mode = .dormant ∧ (served1 0x2010 0x01 (wr 1 1 63) (inMode .verified) = true ∧
      (findEntry 0x2010 0x01).any (fun e => writePathCheck (takeRequest (inMode .verified) (wr 1 1 63)) e 0x2010 0x01 (wr 1 1 63) == none) = true) ∧
    (wr 1 1 64).value < 256 ∧ 63 < (wr 1 1 64).value := by decide +kernel

theorem witness_bad_message : r0.resetLow = false ∧ 0 ≠ 1 ∧ 3 ≠ 2 := by decide

theorem witness_transitions : ∃ t, step { inMode .verified with pending := [.resetAssert] } = .next t ∧ t.mode = .dormant := ⟨_, rfl, rfl⟩


end Sys2Proof.Tests
end

section
/-! PROOFS. The keystone position (01 R27, R28). -/

-- As in the tests: proofs elaborated side by side exhaust memory in the joined text.
set_option Elab.async false

namespace Sys2Proof.Machine

/-! ### The row of the keystone position in the entry table (01 R27, 14 R454 to R456) -/

/-- The row that 01 R27 gives: one byte, read and written, 0 to 63 or 0xFF, in every state but Dormant. -/
def keystoneRow : Entry := { er 0x2010 1 0x1 1 1 1 .rw 255 with ok := [(0, 63), (255, 255)] }

theorem findEntry_keystone : findEntry 0x2010 0x01 = some keystoneRow := by decide +kernel

theorem valueOk_keystoneRow {v : Nat} (h : v < 256) : valueOk keystoneRow v = true ↔ v ≤ 63 ∨ v = 0xFF := by
  simp [valueOk, keystoneRow, er]
  omega

/-- The states of the row are all but Dormant; in Draining bit 5 permits the write at once (14 R456). -/
theorem stateCheck_keystoneRow {s : State} (h : s.mode ≠ .dormant) : stateCheck s keystoneRow.states = none := by
  unfold stateCheck
  cases hm : s.mode with
  | dormant => exact absurd hm h
  | verified | configured | ready | running | draining | clean | faulted => rfl

/-- Of the checks of a WRITE of the right form outside Dormant, the range check alone is left (14 R471 steps 5 to 9). -/
theorem writeCheck_keystoneRow {s : State} {q : Req} (hm : s.mode ≠ .dormant) (ht : q.typ = 1) (hl : q.length = 1)
    (hf : 1 ≤ q.frameLen) : writeCheck s keystoneRow q = if valueOk keystoneRow q.value then none else some 0x0302 := by
  unfold writeCheck
  rw [if_neg (by decide), if_neg (by rw [ht]; decide),
    if_neg (by change ¬(q.length ≠ 1 ∨ q.frameLen < q.length); omega), stateCheck_keystoneRow hm]

/-! ### Requests that are refused -/

/-- In Dormant the boot ROM does not serve the keystone position (14 R468). -/
theorem accepts_keystone_dormant {s : State} {q : Req} (hm : s.mode = .dormant) : accepts 0x2010 0x01 q s = false := by
  have hd : dormantServes 0x2010 0x01 q.path = false := by simp [dormantServes]
  simp [accepts, served1, mode_takeRequest, hm, hd]

/-- A WRITE that a check of 14 R471 steps 5 to 9 refuses is answered with the check's code. -/
theorem run_serveWrite_of_writeCheck {idx sub c : Nat} {q : Req} {act : State → Act} {s : State} {e : Entry}
    (hs : served1 idx sub q s = true) (he : findEntry idx sub = some e)
    (hp : writePathCheck (takeRequest s q) e idx sub q = none) (hc : writeCheck (takeRequest s q) e q = some c) :
    run s (serveWrite idx sub q act) = .next (refuse (takeRequest s q) q idx sub c) := by
  have hx : entryCheck idx sub = none := by simp [entryCheck, he]
  rw [run_up (serveFront_of_served (opcode := 1) (body := id) hs).1, serveWrite, hx, (serveFront_of_served hs).2]
  simp only [he, writeBody, hp, hc]

/-! ### Requests that are accepted -/

/-- The entry holds what was written (R27), whether or not the package has become keystone. -/
theorem getE_afterRole (b : Bool) (s : State) (i j : Nat) : getE (afterRole b s) i j = getE s i j := by
  have hp : ∀ (l : List Nat) (t : State),
      getE (forEach t l (fun t p => setPondFault t p (setBit (pondFaultOf t p) 7))) i j = getE t i j := by
    intro l
    induction l with
    | nil => exact fun _ => rfl
    | cons p l ih => exact fun t => ih (setPondFault t p _)
  unfold afterRole
  split
  · exact hp _ s
  · rfl

/-- The state that a write of the keystone position leaves before its response: the new value, and the own position as it was. -/
theorem actKeystone_done (q : Req) (s : State) : ∃ t, actKeystone q s = .done t ∧ getE t 0x2010 0x01 = q.value ∧
    gridPos t = gridPos s := by
  refine ⟨_, rfl, ?_, ?_⟩
  · rw [getE_afterRole, getE_setE_self]
  · unfold gridPos pkgId
    rw [getE_afterRole, getE_setE_ne (by decide)]
    rfl

theorem gridPos_takeRequest (s : State) (q : Req) : gridPos (takeRequest s q) = gridPos s := by
  unfold gridPos pkgId
  rw [getE_takeRequest (by decide)]

/-- A grid position is below 64, so 0xFF names no package (R27). -/
theorem isKeystone_of_none {s : State} (h : getE s 0x2010 0x01 = 0xFF) : isKeystone s = false := by
  unfold isKeystone gridPos
  rw [h]
  exact decide_eq_false (by omega)

theorem exec_keystonePositionWrite (q : Req) (s : State) :
    exec (.keystonePositionWrite q) s = run s (serveWrite 0x2010 0x01 q (actKeystone q)) := rfl

/-- Settles O58: the checks of 14 R471 leave the range of the value alone, which `valueOk_keystoneRow` decides; an accepted
write does `actKeystone`. -/
theorem keystonePosition : Obligations.KeystonePosition := by
  unfold Obligations.KeystonePosition
  refine ⟨by decide +kernel, fun s q e he => ?_⟩
  obtain rfl : keystoneRow = e := Option.some.inj (findEntry_keystone.symm.trans he)
  refine ⟨rfl, rfl, rfl, accepts_keystone_dormant, fun hm hs hp ht hl hf hv => ?_⟩
  have hcheck := writeCheck_keystoneRow (s := takeRequest s q) (by rwa [mode_takeRequest]) ht hl hf
  refine ⟨fun hok => ?_, fun hlow hnot => ?_⟩
  · rw [if_pos ((valueOk_keystoneRow hv).2 hok)] at hcheck
    have hacc : accepts 0x2010 0x01 q s = true := by
      simp [accepts, hs, findEntry_keystone, hp, hcheck, show keystoneRow.deferred = false from rfl]
    obtain ⟨t, hact, hval, hpos⟩ := actKeystone_done q (takeRequest s q)
    refine ⟨t, (exec_keystonePositionWrite q s).trans (run_serveWrite_done hacc hact), hval, ?_,
      fun hnone => isKeystone_of_none (hval.trans hnone)⟩
    rw [isKeystone, decide_eq_true_iff, hval, hpos, gridPos_takeRequest]
  · rw [if_neg (by rw [valueOk_keystoneRow hv]; omega)] at hcheck
    exact ⟨_, (exec_keystonePositionWrite q s).trans (run_serveWrite_of_writeCheck hs findEntry_keystone hp hcheck), rfl⟩

end Sys2Proof.Machine
end

section
/-! PROOFS. What is fenced stays fenced (05 R193, 01 R20): the operations that a fence is made of, one lemma for each. -/

-- As in the tests: proofs elaborated side by side exhaust memory in the joined text.
set_option Elab.async false

namespace Sys2Proof.Machine

/-! ### The fences of a state -/

/-- The stones that are fenced, those that the factory fenced, and the routers that are fenced. -/
def fences (s : State) : List Nat × List Nat × (Nat → Bool) :=
  (s.fenced, s.fuses.factoryFenced, fun b => (routerOf s b).fenced)

theorem isFenced_of_fences {s t : State} (h : fences t = fences s) (st : Nat) : isFenced t st = isFenced s st := by
  obtain ⟨hf, hx⟩ := Prod.mk.inj h
  unfold isFenced
  rw [hf, (Prod.mk.inj hx).1]

theorem routerFenced_of_fences {s t : State} (h : fences t = fences s) (b : Nat) :
    (routerOf t b).fenced = (routerOf s b).fenced :=
  congrFun (Prod.mk.inj (Prod.mk.inj h).2).2 b

/-- An update of other fields, after operations that leave the fences as they are. -/
theorem fences_update {u s t : State} (h : fences s = fences u) (hf : t.fenced = s.fenced := by rfl)
    (hx : t.fuses = s.fuses := by rfl) (hr : t.routers = s.routers := by rfl) : fences t = fences u := by
  rw [← h]
  unfold fences routerOf
  rw [hf, hx, hr]

theorem fences_ite {c : Prop} [Decidable c] {s t u : State} (ht : fences t = fences s) (hu : fences u = fences s) :
    fences (if c then t else u) = fences s := by
  split
  · exact ht
  · exact hu

theorem fences_forEach {α : Type} {f : State → α → State} (hf : ∀ t a, fences (f t a) = fences t) (l : List α) (s : State) :
    fences (forEach s l f) = fences s := by
  unfold forEach
  induction l generalizing s with
  | nil => rfl
  | cons a l ih => exact (ih (f s a)).trans (hf s a)

theorem fences_foldlFst {α β : Type} {f : State × β → α → State × β} (hf : ∀ p a, fences (f p a).1 = fences p.1)
    (l : List α) (p : State × β) : fences (l.foldl f p).1 = fences p.1 := by
  induction l generalizing p with
  | nil => rfl
  | cons a l ih => exact (ih (f p a)).trans (hf p a)

/-- A write of a router that leaves its own fence as it is. -/
theorem fences_setRouter {s : State} {b : Nat} {x : Router} (h : x.fenced = (routerOf s b).fenced) :
    fences (setRouter s b x) = fences s := by
  have hr : ∀ k, (routerOf (setRouter s b x) k).fenced = (routerOf s k).fenced := by
    intro k
    by_cases e : k = b
    · rw [e, routerOf_setRouter_self, h]
    · rw [routerOf_setRouter_ne e]
  exact congrArg (fun f => (s.fenced, s.fuses.factoryFenced, f)) (funext hr)

/-- A change of every router that leaves their fences as they are. -/
theorem fences_mapRouters {s t : State} {f : Nat × Router → Nat × Router} (hr : t.routers = s.routers.map f)
    (hk : ∀ p, (f p).1 = p.1 ∧ (f p).2.fenced = p.2.fenced) (hf : t.fenced = s.fenced := by rfl)
    (hx : t.fuses = s.fuses := by rfl) : fences t = fences s := by
  have hb : ∀ b, (tget Router.initial (s.routers.map f) b).fenced = (tget Router.initial s.routers b).fenced := by
    intro b
    unfold tget
    induction s.routers with
    | nil => rfl
    | cons p l ih =>
      obtain ⟨hkey, hfence⟩ := hk p
      simp only [List.map_cons, tlook, hkey]
      by_cases e : p.1 = b
      · simp only [if_pos e, hfence]
      · simpa only [if_neg e] using ih
  unfold fences routerOf
  rw [hf, hx, hr]
  exact congrArg (fun g => (s.fenced, s.fuses.factoryFenced, g)) (funext hb)

/-! ### Memories and queues -/

theorem fences_setE (s : State) (i j v : Nat) : fences (setE s i j v) = fences s := fences_update rfl

theorem fences_count (s : State) (i j : Nat) : fences (count s i j) = fences s := fences_update rfl

theorem fences_countBy (s : State) (i j n : Nat) : fences (countBy s i j n) = fences s := fences_update rfl

theorem fences_modStone (s : State) (st : Nat) (f : Stone → Stone) : fences (modStone s st f) = fences s := fences_update rfl

theorem fences_setSender (s : State) (k : Nat) (x : Sender) : fences (setSender s k x) = fences s := fences_update rfl

theorem fences_setPool (s : State) (p : Nat) (x : Pool) : fences (setPool s p x) = fences s := fences_update rfl

theorem fences_setPoolLevel (s : State) (p : Nat) (x : Pool) : fences (setPoolLevel s p x) = fences s := fences_setPool s p _

theorem fences_modConf (s : State) (k : TokKey) (f : Conf → Conf) : fences (modConf s k f) = fences s := fences_update rfl

theorem fences_memWrite (s : State) (a : Nat) (bs : List Byte) : fences (memWrite s a bs) = fences s :=
  fences_ite (fences_update rfl) rfl

/-- Stated over any bytes, so that no check of it computes the bytes that an operation writes. -/
theorem fences_setSram (s : State) (m : List Host.Cell) (b : List (Nat × Bool)) :
    fences { s with sram := m, badWords := b } = fences s := fences_update rfl

theorem fences_sramStore (s : State) (st off : Nat) (bs : List Byte) : fences (sramStore s st off bs) = fences s :=
  fences_setSram s _ _

theorem fences_putLink (s : State) (h next : Nat) : fences (putLink s h next) = fences s := fences_setSram s _ s.badWords

theorem fences_setStone (s : State) (st : Nat) (x : Stone) : fences (setStone s st x) = fences s := fences_update rfl

theorem fences_sramWrite (s : State) (st off : Nat) (bs : List Byte) : fences (sramWrite s st off bs) = fences s :=
  (fences_setStone _ _ _).trans (fences_sramStore s st off bs)

theorem fences_inject (s : State) (w : Nat) (p : Packet) : fences (inject s w p) = fences s :=
  fences_ite rfl (fences_ite (fences_update rfl) (fences_update rfl))

theorem fences_setStoneFor (s : State) (c st : Nat) (x : Stone) : fences (setStoneFor s c st x) = fences s :=
  fences_ite (fences_update rfl) (fences_update rfl)

theorem fences_modStoneFor (s : State) (c st : Nat) (f : Stone → Stone) : fences (modStoneFor s c st f) = fences s :=
  fences_setStoneFor s c st _

theorem fences_passBytes (s : State) (v w n : Nat) : fences (passBytes s v w n) = fences s :=
  fences_ite rfl (fences_countBy s _ _ _)

/-! ### Contexts (13 R420, R422, R436) -/

/-- Stopping or settling a context touches stones, contexts and dictionary values only. -/
theorem fences_of_settles {s t : State} (h : Settles s t) : fences t = fences s := by
  rw [h.1]
  exact fences_update rfl

theorem fences_stopCtx (s : State) (c : Nat) : fences (stopCtx s c) = fences s := fences_of_settles (settles_stopCtx s c)

theorem fences_settle (s : State) (c : Nat) : fences (settle s c) = fences s := fences_of_settles (settles_settle s c)

theorem fences_settleStone (s : State) (st : Nat) : fences (settleStone s st) = fences s :=
  fences_of_settles (settles_settleStone s st)

theorem fences_signalDone (s : State) (st : Nat) (sig : Option Nat) : fences (signalDone s st sig) = fences s := by
  cases sig with
  | none => rfl
  | some j => exact fences_modStone s st _

/-! ### The plumb (16 R502 to R512) -/

theorem fences_setRec (s : State) (cls : Nat) (r : FaultRec) : fences (setRec s cls r) = fences s :=
  fences_ite (fences_update rfl) (fences_ite (fences_update rfl) (fences_update rfl))

theorem fences_logCopy (s : State) (cls : Nat) : fences (logCopy s cls) = fences s :=
  fences_ite rfl ((fences_setE _ _ _ _).trans (fences_memWrite s _ _))

theorem fences_arrive (s : State) (f : Fault16) (src : Option FaultRec) : fences (arrive s f src).1 = fences s := by
  have hrec : ∀ r, fences (setRec (count s 0xA0C0 (f.cls + 1)) f.cls r) = fences s :=
    fun r => (fences_setRec _ _ r).trans (fences_count s _ _)
  unfold arrive
  dsimp only
  split
  · exact (fences_logCopy _ _).trans (fences_ite (fences_update (hrec _)) (hrec _))
  · split
    · exact hrec _
    · split
      · exact hrec _
      · exact (fences_count _ _ _).trans (hrec _)

theorem fences_arriveAll (l : List (Fault16 × Option FaultRec)) (s : State) : fences (arriveAll s l).1 = fences s := by
  induction l generalizing s with
  | nil => rfl
  | cons p l ih => exact (ih _).trans (fences_arrive s p.1 p.2)

theorem fences_latchCycles (n : Nat) (s : State) (es : List (Fault16 × Option FaultRec)) (fs : List Fault16) :
    fences (latchCycles n s es fs) = fences s := by
  induction n generalizing s es fs with
  | zero => rfl
  | succ n ih => exact (ih _ _ _).trans (fences_arriveAll _ s)

theorem fences_latchAll (s : State) (fs : List Fault16) : fences (latchAll s fs) = fences s := fences_latchCycles _ s _ _

/-! ### The end of collectives and multicasts (12 R402 to R411) -/

theorem fences_collFinish (s : State) (stone pc sigStone sigObj record : Nat) (doneSignal : Bool) (sig : Option Nat)
    (rec : Nat) : fences (collFinish s stone pc sigStone sigObj record doneSignal sig rec) = fences s := by
  unfold collFinish
  extract_lets written ended signalled
  have hw : fences written = fences s := fences_ite rfl (fences_sramWrite s _ _ _)
  have he : fences ended = fences s := (fences_modStone _ _ _).trans hw
  have hs : fences signalled = fences s := fences_ite ((fences_settleStone _ _).trans ((fences_modStone _ _ _).trans he)) he
  exact (fences_settleStone _ _).trans ((fences_signalDone _ _ _).trans hs)

theorem fences_completeMcast (s : State) (m : Mcast) (status rank : Nat) : fences (completeMcast s m status rank).1 = fences s :=
  (fences_collFinish _ _ _ _ _ _ _ _ _).trans ((fences_count _ _ _).trans (fences_update rfl))

theorem fences_completeColl (s : State) (co : Coll) (status rank : Nat) (undecided : Bool) :
    fences (completeColl s co status rank undecided).1 = fences s := by
  unfold completeColl
  extract_lets e ended counted bs finished
  have hc : fences counted = fences s := (fences_count ended _ _).trans (fences_update rfl)
  exact fences_ite (fences_update hc) ((fences_collFinish _ _ _ _ _ _ _ _ _).trans hc)

theorem fences_modColl (s : State) (k : CollKey) (f : Coll → Coll) : fences (modColl s k f) = fences s := fences_update rfl

theorem fences_collSend (s : State) (co : Coll) (rk msg chunk cover attempt : Nat) (data : List Byte) :
    fences (collSend s co rk msg chunk cover attempt data) = fences s := by
  unfold collSend
  extract_lets greeted cls dig hd pay up noted p
  have hn : fences noted = fences s := fences_ite (fences_modColl s _ _) rfl
  exact fences_ite (fences_update hn) ((fences_inject _ _ _).trans hn)

theorem fences_abortColl (s : State) (co : Coll) (code rank : Nat) : fences (abortColl s co code rank).1 = fences s :=
  (fences_completeColl _ _ _ _ _).trans (fences_forEach (fun t _ => fences_collSend t _ _ _ _ _ _ _) _ s)

theorem fences_requestAbort (s : State) (co : Coll) (code : Nat) : fences (requestAbort s co code).1 = fences s := by
  unfold requestAbort
  dsimp only
  split
  · exact fences_abortColl s co code _
  · exact (fences_modColl _ _ _).trans (fences_collSend s _ _ _ _ _ _ _)

theorem fences_endCollectives (s : State) : fences (endCollectives s).1 = fences s := by
  unfold endCollectives
  dsimp only
  refine (fences_foldlFst (fun p m => ?_) _ _).trans (fences_foldlFst (fun p co => ?_) _ (s, []))
  · exact fences_completeMcast p.1 m _ _
  · exact fences_requestAbort p.1 co _

/-! ### Faults (13 R419, 16 R509) -/

theorem fences_stopSwitch (s : State) (w : Nat) : fences (stopSwitch s w) = fences s := by
  refine (fences_forEach (fun t p => ?_) _ _).trans (fences_update rfl)
  split
  · rfl
  · exact fences_update (fences_ite (fences_count t _ _) rfl)

theorem fences_enterFaulted (s : State) : fences (enterFaulted s) = fences s := by
  unfold enterFaulted
  extract_lets faulted zeroed stopped down
  have hz : fences zeroed = fences s := (fences_setE faulted _ _ _).trans (fences_update rfl)
  have hs : fences stopped = fences s := (fences_forEach fences_stopCtx _ _).trans hz
  have hd : fences down = fences s := fences_ite ((fences_stopSwitch _ _).trans hs) hs
  exact fences_ite rfl ((fences_latchAll _ _).trans ((fences_endCollectives _).trans hd))

theorem fences_raise (s : State) (fs : List Fault16) : fences (raise s fs) = fences s :=
  fences_ite ((fences_enterFaulted _).trans (fences_latchAll s fs)) (fences_latchAll s fs)

theorem fences_raise1 (s : State) (cls cause kind unit : Nat) (ctx : Option Nat) (detail : Nat) :
    fences (raise1 s cls cause kind unit ctx detail) = fences s := fences_raise s _

theorem fences_finish (r : State × List Fault16) : fences (finish r) = fences r.1 := fences_ite rfl (fences_raise _ _)

theorem fences_failStone (s : State) (st cause : Nat) : fences (failStone s st cause) = fences s := by
  unfold failStone
  refine (fences_raise1 _ _ _ _ _ _ _).trans ?_
  split
  · exact (fences_stopCtx _ _).trans (fences_modStone s _ _)
  · rfl

theorem fences_errSync (s : State) (st j : Nat) : fences (errSync s st j) = fences s := by
  have hx := fences_setStone s st
  unfold errSync
  dsimp only
  split
  · exact fences_ite ((fences_failStone _ _ _).trans (hx _)) (hx _)
  · exact hx _

/-! ### Buffers (09 R285 to R291) -/

theorem fences_testBay (s : State) (bay : Nat) : fences (testBay s bay) = fences s :=
  fences_ite rfl ((fences_setE _ _ _ _).trans (fences_raise1 s _ _ _ _ _ _))

theorem fences_dropRef (s : State) (h : Nat) : fences (dropRef s h) = fences s := by
  unfold dropRef
  extract_lets p x c o y
  refine fences_ite (fences_setPool s _ _) (fences_ite ?_ (fences_ite (fences_setPoolLevel s _ _) ?_))
  · exact (fences_testBay _ _).trans ((fences_count _ _ _).trans (fences_setPoolLevel s _ _))
  · exact (fences_count _ _ _).trans ((fences_setPoolLevel _ _ _).trans (fences_putLink s _ _))

theorem fences_release (s : State) (h : BitVec 32) : fences (release s h) = fences s := by
  unfold release releaseBuffer
  split
  · dsimp only
    exact (fences_raise1 _ _ _ _ _ _ _).trans (fences_count s _ _)
  · dsimp only
    split
    · dsimp only
      exact fences_setPool s _ _
    · dsimp only
      exact fences_dropRef s _

theorem fences_releases (s : State) (hs : List (BitVec 32)) : fences (forEach s hs release) = fences s :=
  fences_forEach fences_release hs s

theorem fences_popFailed (s : State) (p : Nat) : fences (popFailed s p) = fences s :=
  (fences_raise1 _ _ _ _ _ _ _).trans ((fences_count _ _ _).trans ((fences_count _ _ _).trans (fences_setPoolLevel s _ _)))

theorem fences_grantFrom (s : State) (p owner refs : Nat) : fences (grantFrom s p owner refs).1 = fences s := by
  unfold grantFrom
  dsimp only
  split
  · rfl
  · split
    · dsimp only
      exact fences_popFailed s p
    · dsimp only
      exact (fences_count _ _ _).trans (fences_setPoolLevel s _ _)

theorem fences_grantTry (owner refs : Nat) (ps : List Nat) (s : State) : fences (grantTry owner refs s ps).1 = fences s := by
  induction ps generalizing s with
  | nil => rfl
  | cons p ps ih =>
    have hg := fences_grantFrom s p owner refs
    unfold grantTry
    split
    · next t h e => rwa [e] at hg
    · next t e => rw [e] at hg; exact (ih t).trans hg

theorem fences_takeBuffer (s : State) (bay owner size refs : Nat) (op : WaitOp) :
    fences (takeBuffer s bay owner size refs op).1 = fences s := by
  have hg := fences_grantTry owner refs (poolsFor s bay owner size) s
  unfold takeBuffer
  dsimp only
  split
  · next t h e => rwa [e] at hg
  · next t e => rw [e] at hg; exact (fences_setPool _ _ _).trans hg

theorem fences_retireBuffers (s : State) (st : Nat) (free : List (Nat × Nat)) : fences (retireBuffers s st free) = fences s := by
  unfold retireBuffers
  extract_lets counted rebuilt levelled
  have hr : fences rebuilt = fences s :=
    (fences_forEach (fun t p => (fences_count _ _ _).trans (fences_setPool t p _)) _ _).trans (fences_countBy s _ _ _)
  have hl : fences levelled = fences s := (fences_forEach (fun t p => fences_setPoolLevel t p _) _ _).trans hr
  exact fences_ite hl ((fences_testBay _ _).trans hl)

/-! ### The work of a fenced stone (05 R193, R195) -/

theorem fences_dropDma (s : State) (m : Dma) : fences (dropDma s m) = fences s := by
  unfold dropDma
  dsimp only
  split
  · exact (fences_release _ _).trans (fences_update rfl)
  · exact fences_update rfl

theorem fences_dmaError (s : State) (m : Dma) : fences (dmaError s m) = fences s :=
  (fences_raise1 _ _ _ _ _ _ _).trans (fences_ite ((fences_errSync _ _ _).trans (fences_count s _ _)) (fences_count s _ _))

theorem fences_discardWork (s : State) (st : Nat) : fences (discardWork s st) = fences s := by
  unfold discardWork
  extract_lets ds dropped k x unsent c forgotten freed
  have hd : fences dropped = fences s :=
    (fences_forEach (fun t c => fences_modStoneFor t c st dropWork) _ _).trans (fences_modStone s _ _)
  have hf : fences forgotten = fences s := (fences_setSender _ _ _).trans ((fences_setSender _ _ _).trans hd)
  have hw : fences freed = fences s := fences_update hf
  exact (fences_forEach fences_dmaError _ _).trans ((fences_forEach fences_dropDma _ _).trans hw)

theorem fences_fenceContext (s : State) (st : Nat) : fences (fenceContext s st) = fences s :=
  fences_forEach (fun t c => fences_ite (fences_settle t c) (fences_update (fences_stopCtx t c))) _ s

/-! ### Streams of gate shares (02 R46) -/

theorem fences_pumpUnit (kind unit f : Nat) (s : State) : fences (pumpUnit kind unit f s) = fences s := by
  induction f generalizing s with
  | zero => rfl
  | succ f ih =>
    unfold pumpUnit
    dsimp only
    split
    · exact fences_ite rfl ((ih _).trans ((fences_inject _ _ _).trans (fences_setSender s _ _)))
    · rfl

theorem fences_unitRequests (s : State) (kind unit : Nat) (qs : List OutReq) : fences (unitRequests s kind unit qs) = fences s :=
  (fences_pumpUnit _ _ _ _).trans (fences_setSender s _ _)

theorem fences_laneRequests (s : State) (w : Nat) (qs : List OutReq) : fences (laneRequests s w qs) = fences s :=
  fences_forEach (fun t l => fences_unitRequests t 2 (4 * w + l) _) _ s

theorem fences_beginStream (s : State) (b c n : Nat) : fences (beginStream s b c n) = fences s :=
  (fences_laneRequests _ _ _).trans (fences_setRouter rfl)

theorem fences_askStreams (s : State) (c n : Nat) : fences (askStreams s c n) = fences s :=
  fences_forEach (fun t b => fences_ite rfl (fences_beginStream t b c n)) _ s

/-! ### Generations (03 R113) -/

theorem fences_unhold (s : State) (t : Tok) : fences (unhold s t) = fences s :=
  fences_ite ((fences_settle _ _).trans (fences_modStoneFor s _ _ _)) rfl

theorem fences_openGen (s : State) (bay c g : Nat) : fences (openGen s bay c g) = fences s := by
  unfold openGen
  split
  · rfl
  · exact fences_update rfl

theorem fences_wakeTok (s : State) (t : Tok) : fences (wakeTok s t) = fences s := by
  refine fences_ite ((fences_unhold _ _).trans ((fences_askStreams _ _ _).trans ((fences_openGen _ _ _ _).trans ?_))) rfl
  exact fences_update rfl

theorem fences_clearGens (s : State) : fences (clearGens s) = fences s := by
  unfold clearGens
  dsimp only
  exact fences_mapRouters rfl (fun _ => ⟨rfl, rfl⟩)

theorem fences_freeGens (s : State) : fences (freeGens s) = fences s :=
  (fences_forEach fences_wakeTok _ _).trans ((fences_releases _ _).trans (fences_clearGens s))

/-! ### Copies and confluences (03 R80 to R96) -/

theorem fences_pushEntry (s : State) (a : Admitted) : fences (pushEntry s a) = fences s := by
  have hq : ∀ q, fences { s with qTails := q } = fences s := fun q => fences_update rfl
  unfold pushEntry
  dsimp only
  split
  · exact fences_ite (hq _) ((fences_sramWrite _ _ _ _).trans (hq _))
  · exact hq _

theorem fences_ensureRun (s : State) (c layer gen first span : Nat) : fences (ensureRun s c layer gen first span) = fences s := by
  unfold ensureRun
  split
  · exact fences_update rfl
  · exact fences_ite (fences_update rfl) rfl

theorem fences_placeCopy (s : State) (handle : Option Nat) (srcPkg : Nat) (d : TokenDesc) (payload : List Byte) :
    fences (placeCopy s handle srcPkg d payload) = fences s := by
  unfold placeCopy
  extract_lets stored buf es resent qs spilled queued placed
  have hs : fences stored = fences s := by
    unfold stored
    split
    · exact fences_sramWrite s _ _ _
    · rfl
  have hr : fences resent = fences s := (fences_forEach fences_pushEntry _ _).trans (fences_update hs)
  have hspill : fences spilled = fences s := by
    refine (fences_forEach (fun t a => ?_) _ _).trans hs
    split
    · exact (fences_memWrite _ _ _).trans ((fences_memWrite _ _ _).trans (fences_passBytes t _ _ _))
    · rfl
  have hp : fences placed = fences s :=
    fences_update ((fences_forEach (fun t a => fences_pushEntry t _) qs spilled).trans hspill)
  clear_value resent placed es buf
  refine fences_ite ?_ ?_
  · split
    · exact (fences_ensureRun _ _ _ _ _ _).trans hr
    · exact hr
  · split
    · exact (fences_forEach (fun t _ => fences_release t _) _ _).trans hp
    · exact hp

theorem fences_acceptCopy (s : State) (srcPkg : Nat) (d : TokenDesc) (payload : List Byte) :
    fences (acceptCopy s srcPkg d payload) = fences s := by
  unfold acceptCopy
  split
  · next bay _ =>
    have hb := fences_takeBuffer s bay 0 payload.length (fanCount d) (.copy srcPkg d payload)
    split
    · next t h e => rw [e] at hb; exact (fences_placeCopy t _ _ _ _).trans hb
    · next t e => rwa [e] at hb
  · exact fences_ite (fences_placeCopy s _ _ _ _) (fences_count s _ _)

theorem fences_sendCopy (s : State) (c : Conf) (dest fanout spill target : Nat) (resend alternate : Bool) :
    fences (sendCopy s c dest fanout spill target resend alternate) = fences s := by
  have hc : fences (count (fresh s) 0xA021 0x0B) = fences s := (fences_count _ _ _).trans (fences_update rfl)
  unfold sendCopy
  dsimp only
  refine fences_ite ?_ ?_
  · exact (fences_acceptCopy _ _ _ _).trans ((fences_passBytes _ _ _ _).trans hc)
  · exact (fences_forEach (fun t _ => fences_inject t _ _) _ _).trans hc

theorem fences_copyFor (s : State) (c : Conf) (pkg : Nat) : fences (copyFor s c pkg) = fences s := by
  unfold copyFor
  dsimp only
  split
  · rfl
  · exact (fences_countBy _ _ _ _).trans (fences_sendCopy s _ _ _ _ _ _ _)

theorem fences_dropBufs (s : State) (k : TokKey) (which : Conf → Nat → Bool) : fences (dropBufs s k which) = fences s := by
  unfold dropBufs
  split
  · rfl
  · exact (fences_releases _ _).trans (fences_modConf s _ _)

theorem fences_completeSubmit (s : State) (st pc recOff : Nat) (sig : Option Nat) :
    fences (completeSubmit s st pc recOff sig) = fences s :=
  (fences_settleStone _ _).trans ((fences_signalDone _ _ _).trans (fences_modStone s _ _))

theorem fences_finishToken (s : State) (k : TokKey) (h : Nat) : fences (finishToken s k h) = fences s := by
  unfold finishToken
  split
  · exact fences_release s _
  · next c _ =>
    extract_lets output x held recorded counted noted
    have hh : fences held = fences s := (fences_setPool _ _ _).trans (fences_sramWrite s _ _ _)
    have hr : fences recorded = fences s := fences_ite hh ((fences_sramWrite _ _ _ _).trans hh)
    have hc : fences counted = fences s := fences_ite ((fences_count _ _ _).trans hr) hr
    have hn : fences noted = fences s := fences_ite (fences_update hc) hc
    exact (fences_completeSubmit _ _ _ _ _).trans ((fences_modConf _ _ _).trans hn)

theorem fences_endToken (s : State) (k : TokKey) : fences (endToken s k) = fences s := by
  unfold endToken
  split
  · rfl
  · next c _ =>
    refine fences_ite rfl ?_
    dsimp only
    split
    · next t h e =>
      have hb := congrArg (fun p => fences p.1) e
      exact (fences_finishToken t k h).trans (hb.symm.trans ((fences_takeBuffer _ _ _ _ _ _).trans (fences_modConf s _ _)))
    · next t e =>
      have hb := congrArg (fun p => fences p.1) e
      exact hb.symm.trans ((fences_takeBuffer _ _ _ _ _ _).trans (fences_modConf s _ _))

theorem fences_advance (s : State) (k : TokKey) : fences (advance s k) = fences s := by
  have hd : ∀ f w, fences (dropBufs (modConf s k f) k w) = fences s := fun f w => (fences_dropBufs _ _ w).trans (fences_modConf s _ f)
  unfold advance
  split
  · rfl
  · exact fences_ite rfl (fences_ite ((fences_endToken _ _).trans (hd _ _)) (hd _ _))

theorem fences_strandRank (s : State) (k : TokKey) (r : Nat) : fences (strandRank s k r) = fences s := by
  unfold strandRank
  split
  · rfl
  · refine fences_ite rfl ?_
    dsimp only
    split
    · exact (fences_release _ _).trans (fences_modConf s _ _)
    · exact fences_modConf s _ _

theorem fences_takeVerdicts (s : State) (srcPkg : Nat) (cs : List Choice) : fences (takeVerdicts s srcPkg cs) = fences s := by
  unfold takeVerdicts
  dsimp only
  refine (fences_freeGens _).trans ((fences_forEach fences_advance _ _).trans ((fences_forEach (fun t k => ?_) _ _).trans
    (fences_forEach (fun t c => fences_ite (fences_strandRank t _ _) (fences_modConf t _ _)) _ s)))
  split
  · exact fences_ite (fences_copyFor t _ _) rfl
  · rfl

theorem fences_sendChoices (s : State) (dest cls target stone : Nat) (cs : List Choice) :
    fences (sendChoices s dest cls target stone cs) = fences s :=
  fences_forEach (fun t _ => fences_inject t _ _) _ s

theorem fences_giveVerdicts (s : State) (cs : List Choice) : fences (giveVerdicts s cs) = fences s :=
  fences_forEach (fun t p => fences_ite (fences_takeVerdicts t p _) (fences_sendChoices t _ _ _ _ _)) _ s

theorem fences_countVerdict (s : State) (st : Nat) : fences (countVerdict s st) = fences s := by
  unfold countVerdict
  split
  case h_3 => exact (fences_count _ _ _).trans (fences_count s _ _)
  case h_8 => rfl
  all_goals exact fences_count s _ _

theorem fences_windowAfter (s : State) (c layer first : Nat) : fences (windowAfter s c layer first) = fences s := by
  unfold windowAfter
  split
  · exact fences_update rfl
  · rfl

theorem fences_strandChoices (s : State) (p : Admitted → Bool) : fences (strandChoices s p) = fences s := by
  unfold strandChoices
  dsimp only
  refine (fences_giveVerdicts _ _).trans ((fences_forEach (fun t _ => fences_countVerdict t _) _ _).trans
    ((fences_forEach (fun t _ => fences_windowAfter t _ _ _) _ _).trans (fences_update (fences_releases s _))))

/-! ### The fence of a stone and of a router (05 R193, 01 R20) -/

/-- A fence adds its stone to the fenced ones, and what it discards leaves the fences as they are. -/
theorem fences_fenceStone {s : State} {st : Nat} (h : isFenced s st = false) :
    fences (fenceStone s st) = fences { s with fenced := s.fenced ++ [st] } := by
  unfold fenceStone
  rw [if_neg (by simp [h])]
  extract_lets free d o marked raised dropped stranded aborted
  have hd : fences dropped = fences marked :=
    (fences_fenceContext _ _).trans ((fences_discardWork _ _).trans (fences_raise1 _ _ _ _ _ _ _))
  have hs : fences stranded = fences marked := (fences_strandChoices _ _).trans hd
  have ha : fences aborted = fences marked :=
    (fences_forEach (fun t co => (fences_finish _).trans (fences_requestAbort t co _)) _ _).trans hs
  exact (fences_retireBuffers _ _ _).trans ha

theorem isFenced_fenceStone (s : State) (st k : Nat) : isFenced (fenceStone s st) k = true ↔ k = st ∨ isFenced s k = true := by
  cases h : isFenced s st with
  | true =>
    rw [fenceStone, if_pos h]
    exact ⟨.inr, fun hk => hk.elim (fun e => e ▸ h) id⟩
  | false =>
    rw [isFenced_of_fences (fences_fenceStone h)]
    simp only [isFenced, List.contains_append, List.contains_cons, List.contains_nil, Bool.or_eq_true, beq_iff_eq]
    tauto

theorem routerFenced_fenceStone (s : State) (st b : Nat) : (routerOf (fenceStone s st) b).fenced = (routerOf s b).fenced := by
  cases h : isFenced s st with
  | true => rw [fenceStone, if_pos h]
  | false => exact routerFenced_of_fences (fences_fenceStone h) b

/-- The stones of a list are fenced one after another, and those that were fenced stay so. -/
theorem isFenced_fenceMany (l : List Nat) (s : State) (k : Nat) :
    isFenced (fenceMany s l) k = true ↔ k ∈ l ∨ isFenced s k = true := by
  unfold fenceMany forEach
  induction l generalizing s with
  | nil => simp
  | cons a l ih =>
    rw [List.foldl_cons, ih, isFenced_fenceStone, List.mem_cons]
    tauto

theorem routerFenced_fenceMany (l : List Nat) (s : State) (b : Nat) :
    (routerOf (fenceMany s l) b).fenced = (routerOf s b).fenced := by
  unfold fenceMany forEach
  induction l generalizing s with
  | nil => rfl
  | cons a l ih => exact (ih _).trans (routerFenced_fenceStone s a b)

/-- The router is fenced, and the shares that the others drop leave their fences as they are. -/
theorem routerFenced_fenceRouter (s : State) (b : Nat) : (routerOf (fenceRouter s b) b).fenced = true := by
  unfold fenceRouter
  split
  · assumption
  · extract_lets initial moved dealt redealt kept
    have hm : (routerOf moved b).fenced = true :=
      congrArg Router.fenced (routerOf_setRouter_self (s := s) b { Router.initial with fenced := true, streams := (routerOf s b).streams })
    have hk : fences kept = fences moved := fences_update (fences_mapRouters (t := redealt) rfl (fun _ => ⟨rfl, rfl⟩))
    refine (routerFenced_of_fences ((fences_forEach (fun u (p : Nat × Nat) => ?_) _ kept).trans hk) b).trans hm
    exact fences_askStreams u p.1 p.2

/-! ### A failed unit (01 R20) -/

/-- The failure of a mesh stop or a course DMA is reported and fences its course. -/
theorem exec_unitFailure_course {c : Nat} {u : FailedUnit} {s : State} (h0 : s.resetLow = false) (hc : c < 64)
    (hu : u = .meshStop c ∨ u = .courseDma c) :
    exec (.unitFailure u) s = .next (fenceMany (raise s [unitFault u]) ((List.range 64).map (· + 64 * c))) := by
  change execUnitFailure u s = _
  rcases hu with rfl | rfl <;> rw [execUnitFailure, if_neg (by simp [unitExists, hc]), run_up h0]

/-- The failure of a cistern manager is reported and fences its bay's router and then the bay. -/
theorem exec_unitFailure_bay {b : Nat} {s : State} (h0 : s.resetLow = false) (hb : b < 16) :
    exec (.unitFailure (.cisternManager b)) s =
      .next (fenceMany (fenceRouter (raise s [unitFault (.cisternManager b)]) b) ((List.range 256).map (· + 256 * b))) := by
  change execUnitFailure (.cisternManager b) s = _
  rw [execUnitFailure, if_neg (by simp [unitExists, hb]), run_up h0]

/-- All stones of a group of `n` that begins at stone `n * c`. -/
theorem isFenced_fenceGroup {n i : Nat} (s : State) (c : Nat) (h : i < n) :
    isFenced (fenceMany s ((List.range n).map (· + n * c))) (n * c + i) = true :=
  (isFenced_fenceMany _ _ _).2 (.inl (List.mem_map.2 ⟨i, List.mem_range.2 h, Nat.add_comm _ _⟩))

/-- Settles O57: a course is 64 stones and a bay 256, which `fenceMany` fences one after another; the fence of a bay's router
outlasts those of its stones. -/
theorem courseAndBayFenced : Obligations.CourseAndBayFenced := by
  unfold Obligations.CourseAndBayFenced
  refine fun s h0 => ⟨fun c hc u hu => ?_, fun b hb => ?_⟩
  · exact ⟨_, exec_unitFailure_course h0 hc hu, fun i => isFenced_fenceGroup _ c⟩
  · refine ⟨_, exec_unitFailure_bay h0 hb, ?_, fun i => isFenced_fenceGroup _ b⟩
    rw [routerFenced_fenceMany, routerFenced_fenceRouter]

end Sys2Proof.Machine
end

section
/-! PROOFS. The ledger of admitted choices under the operations that leave it as it is (03 R83): one equation per operation, in
the order of the model, about the state that it answers (inside an action, or beside a value). Here: memories, the plumb, the
dictionary, DMA, pond memory and the tiers. -/

-- As in the tests: proofs elaborated side by side exhaust memory in the joined text.
set_option Elab.async false

namespace Sys2Proof.Machine

/-! ### Control flow -/

/-- A state that came out of an operation beside a value. -/
theorem admitted_of_prod_eq {α : Type} {p : State × α} {t : State} {a : α} {l : List Admitted} (e : p = (t, a))
    (h : p.1.admitted = l) : t.admitted = l := by
  subst e
  exact h

@[simp] theorem admitted_ite {c : Prop} [Decidable c] {s t : State} :
    (if c then s else t).admitted = if c then s.admitted else t.admitted := apply_ite _ _ _ _

@[simp] theorem fst_ite_state {α : Type} {c : Prop} [Decidable c] {p q : State × α} :
    (if c then p else q).1 = if c then p.1 else q.1 := apply_ite _ _ _ _

@[simp] theorem actState_ite {c : Prop} [Decidable c] {a b : Act} : (if c then a else b).state = if c then a.state else b.state :=
  apply_ite _ _ _ _

@[simp] theorem actState_done (s : State) : (Act.done s).state = s := rfl
@[simp] theorem actState_later (s : State) : (Act.later s).state = s := rfl
@[simp] theorem actState_refuse (c : Nat) (s : State) : (Act.refuse c s).state = s := rfl

@[simp] theorem forEach_admitted {α : Type} {f : State → α → State} {l : List α} {s : State}
    (hf : ∀ t a, (f t a).admitted = t.admitted) : (forEach s l f).admitted = s.admitted := by
  unfold forEach
  induction l generalizing s with
  | nil => rfl
  | cons a l ih => exact ih.trans (hf s a)

theorem foldlFst_admitted {α β : Type} {f : State × β → α → State × β} (hf : ∀ p a, (f p a).1.admitted = p.1.admitted)
    (l : List α) (p : State × β) : (l.foldl f p).1.admitted = p.1.admitted := by
  induction l generalizing p with
  | nil => rfl
  | cons a l ih => exact (ih (f p a)).trans (hf p a)

/-! ### Machine/Ops.lean -/

@[simp] theorem readHost_admitted (s : State) (addr len : Nat) : (readHost s addr len).admitted = s.admitted := by simp [readHost]
@[simp] theorem memWrite_admitted (s : State) (a : Nat) (bs : List Byte) : (memWrite s a bs).admitted = s.admitted := by
  simp [memWrite]
@[simp] theorem sramStore_admitted (s : State) (st off : Nat) (bs : List Byte) :
    (sramStore s st off bs).admitted = s.admitted := by simp [sramStore]
@[simp] theorem sramWrite_admitted (s : State) (st off : Nat) (bs : List Byte) :
    (sramWrite s st off bs).admitted = s.admitted := by simp [sramWrite]
@[simp] theorem sramFill_admitted (s : State) (st off : Nat) (bs : List Byte) : (sramFill s st off bs).admitted = s.admitted := by
  simp [sramFill]
@[simp] theorem addSync_admitted (s : State) (st j n : Nat) : (addSync s st j n).admitted = s.admitted := by simp [addSync]

@[simp] theorem signalDone_admitted (s : State) (st : Nat) (sig : Option Nat) : (signalDone s st sig).admitted = s.admitted := by
  unfold signalDone
  split <;> simp

@[simp] theorem setStoneFor_admitted (s : State) (c st : Nat) (x : Stone) : (setStoneFor s c st x).admitted = s.admitted := by
  simp [setStoneFor]
@[simp] theorem modStoneFor_admitted (s : State) (c st : Nat) (f : Stone → Stone) :
    (modStoneFor s c st f).admitted = s.admitted := by simp [modStoneFor]
@[simp] theorem endSlice_admitted (s : State) (c : Nat) : (endSlice s c).admitted = s.admitted := by simp [endSlice]
@[simp] theorem discardProducts_admitted (s : State) (c : Nat) : (discardProducts s c).admitted = s.admitted := by
  simp [discardProducts]
@[simp] theorem cutSlice_admitted (s : State) (c : Nat) : (cutSlice s c).admitted = s.admitted := by simp [cutSlice]
@[simp] theorem preemptFor_admitted (s : State) (c : Nat) : (preemptFor s c).admitted = s.admitted := by simp [preemptFor]
@[simp] theorem makeReady_admitted (s : State) (c : Nat) : (makeReady s c).admitted = s.admitted := by simp [makeReady]
@[simp] theorem noteRunnable_admitted (s : State) (c : Nat) : (noteRunnable s c).admitted = s.admitted := by simp [noteRunnable]

@[simp] theorem settle_admitted (s : State) (c : Nat) : (settle s c).admitted = s.admitted := by
  unfold settle
  dsimp only
  split <;> simp

@[simp] theorem settleStone_admitted (s : State) (st : Nat) : (settleStone s st).admitted = s.admitted := by
  unfold settleStone
  split <;> simp

@[simp] theorem stopCtx_admitted (s : State) (c : Nat) : (stopCtx s c).admitted = s.admitted := by
  unfold stopCtx
  split <;> simp

@[simp] theorem stopAt_admitted (s : State) (c st : Nat) : (stopAt s c st).admitted = s.admitted := by simp [stopAt]

theorem pondWrite_admitted {s t : State} {a : Nat} {bs : List Byte} (e : pondWrite s a bs = some t) : t.admitted = s.admitted := by
  unfold pondWrite at e
  split at e
  · cases e
  · split at e
    · obtain ⟨p, -, rfl⟩ := Option.map_eq_some_iff.1 e
      exact memWrite_admitted s p bs
    · cases e; rfl

@[simp] theorem pondWrite_getD_admitted (s : State) (a : Nat) (bs : List Byte) :
    ((pondWrite s a bs).getD s).admitted = s.admitted := by
  cases e : pondWrite s a bs with
  | none => rfl
  | some t => exact pondWrite_admitted e

@[simp] theorem inject_admitted (s : State) (w : Nat) (p : Packet) : (inject s w p).admitted = s.admitted := by simp [inject]
@[simp] theorem carryMgmt_admitted (s : State) (w pos : Nat) : (carryMgmt s w pos).admitted = s.admitted := by simp [carryMgmt]
@[simp] theorem sendMgmt_admitted (s : State) (pos : Nat) (o : Out) : (sendMgmt s pos o).admitted = s.admitted := by
  simp [sendMgmt]
@[simp] theorem countBridge_admitted (s : State) (fromW n : Nat) : (countBridge s fromW n).admitted = s.admitted := by
  simp [countBridge]
@[simp] theorem passBytes_admitted (s : State) (v w n : Nat) : (passBytes s v w n).admitted = s.admitted := by simp [passBytes]
@[simp] theorem loadPass_admitted (s : State) (w off n : Nat) : (loadPass s w off n).admitted = s.admitted := by simp [loadPass]
@[simp] theorem storePass_admitted (s : State) (w off n : Nat) : (storePass s w off n).admitted = s.admitted := by
  simp [storePass]

/-! ### Machine/Tree.lean -/

@[simp] theorem modColl_admitted (s : State) (k : CollKey) (f : Coll → Coll) : (modColl s k f).admitted = s.admitted := by
  simp [modColl]
@[simp] theorem collSend_admitted (s : State) (co : Coll) (rk msg chunk cover attempt : Nat) (data : List Byte) :
    (collSend s co rk msg chunk cover attempt data).admitted = s.admitted := by simp [collSend]
@[simp] theorem collDown_admitted (s : State) (co : Coll) (msg chunk : Nat) (data : List Byte) :
    (collDown s co msg chunk data).admitted = s.admitted := by simp [collDown]

/-! ### Machine/Plumb.lean -/

@[simp] theorem setRec_admitted (s : State) (cls : Nat) (r : FaultRec) : (setRec s cls r).admitted = s.admitted := by
  simp [setRec]
@[simp] theorem logCopy_admitted (s : State) (cls : Nat) : (logCopy s cls).admitted = s.admitted := by simp [logCopy]
@[simp] theorem arrive_admitted (s : State) (f : Fault16) (src : Option FaultRec) : (arrive s f src).1.admitted = s.admitted := by
  simp [arrive]

@[simp] theorem arriveAll_admitted (s : State) (l : List (Fault16 × Option FaultRec)) :
    (arriveAll s l).1.admitted = s.admitted := by
  induction l generalizing s with
  | nil => rfl
  | cons p l ih => exact (ih _).trans (arrive_admitted s p.1 p.2)

@[simp] theorem latchCycles_admitted (n : Nat) (s : State) (es : List (Fault16 × Option FaultRec)) (fs : List Fault16) :
    (latchCycles n s es fs).admitted = s.admitted := by
  induction n generalizing s es fs with
  | zero => rfl
  | succ n ih => exact (ih _ _ _).trans (arriveAll_admitted s _)

@[simp] theorem latchAll_admitted (s : State) (fs : List Fault16) : (latchAll s fs).admitted = s.admitted := by simp [latchAll]

@[simp] theorem collFinish_admitted (s : State) (stone pc sigStone sigObj record : Nat) (doneSignal : Bool) (sig : Option Nat)
    (rec : Nat) :
    (collFinish s stone pc sigStone sigObj record doneSignal sig rec).admitted = s.admitted := by simp [collFinish]

@[simp] theorem completeColl_admitted (s : State) (co : Coll) (status rank : Nat) (undecided : Bool) :
    (completeColl s co status rank undecided).1.admitted = s.admitted := by simp [completeColl]
@[simp] theorem completeMcast_admitted (s : State) (m : Mcast) (status rank : Nat) :
    (completeMcast s m status rank).1.admitted = s.admitted := by simp [completeMcast]
@[simp] theorem abortColl_admitted (s : State) (co : Coll) (code rank : Nat) :
    (abortColl s co code rank).1.admitted = s.admitted := by simp [abortColl]
@[simp] theorem requestAbort_admitted (s : State) (co : Coll) (code : Nat) :
    (requestAbort s co code).1.admitted = s.admitted := by simp [requestAbort]

@[simp] theorem endCollectives_admitted (s : State) : (endCollectives s).1.admitted = s.admitted := by
  unfold endCollectives
  refine (foldlFst_admitted (fun p m => ?_) _ _).trans (foldlFst_admitted (fun p co => ?_) _ _)
  · exact completeMcast_admitted p.1 m _ _
  · exact requestAbort_admitted p.1 co _

@[simp] theorem stopSwitch_admitted (s : State) (w : Nat) : (stopSwitch s w).admitted = s.admitted := by
  unfold stopSwitch
  exact forEach_admitted fun t p => by split <;> simp

@[simp] theorem enterFaulted_admitted (s : State) : (enterFaulted s).admitted = s.admitted := by
  unfold enterFaulted
  dsimp only
  (repeat' split) <;> simp

@[simp] theorem raise_admitted (s : State) (fs : List Fault16) : (raise s fs).admitted = s.admitted := by simp [raise]
@[simp] theorem raise1_admitted (s : State) (cls cause kind unit : Nat) (ctx : Option Nat) (detail : Nat) :
    (raise1 s cls cause kind unit ctx detail).admitted = s.admitted := by simp [raise1]
@[simp] theorem stoneFault_admitted (s : State) (cls cause st detail : Nat) :
    (stoneFault s cls cause st detail).admitted = s.admitted := by simp [stoneFault]
@[simp] theorem stoneFaults_admitted (s : State) (cls cause st detail n : Nat) :
    (stoneFaults s cls cause st detail n).admitted = s.admitted := by simp [stoneFaults]

@[simp] theorem failStone_admitted (s : State) (st cause : Nat) : (failStone s st cause).admitted = s.admitted := by
  unfold failStone
  dsimp only
  split <;> simp

@[simp] theorem errSync_admitted (s : State) (st j : Nat) : (errSync s st j).admitted = s.admitted := by
  unfold errSync
  dsimp only
  split <;> simp

@[simp] theorem holdSource_admitted (s : State) (n : Nat) : (holdSource s n).admitted = s.admitted := by simp [holdSource]

/-! ### Machine/Operands.lean -/

@[simp] theorem stallOn_admitted (s : State) (st : Nat) (w : Stall) : (stallOn s st w).admitted = s.admitted := by simp [stallOn]
@[simp] theorem nextPc_admitted (s : State) (st : Nat) : (nextPc s st).admitted = s.admitted := by simp [nextPc]
@[simp] theorem completeNow_admitted (s : State) (st : Nat) (h : IHdr) : (completeNow s st h).admitted = s.admitted := by
  simp [completeNow]
@[simp] theorem takeSlot_admitted (s : State) (st kind : Nat) (srcs dsts : List (Nat × Nat)) (h : IHdr) :
    (takeSlot s st kind srcs dsts h).admitted = s.admitted := by simp [takeSlot]
@[simp] theorem freeSlot_admitted (s : State) (st pc kind : Nat) : (freeSlot s st pc kind).admitted = s.admitted := by
  simp [freeSlot]
@[simp] theorem freeSubmit_admitted (s : State) (st pc recOff : Nat) : (freeSubmit s st pc recOff).admitted = s.admitted := by
  simp [freeSubmit]
@[simp] theorem completeSubmit_admitted (s : State) (st pc recOff : Nat) (sig : Option Nat) :
    (completeSubmit s st pc recOff sig).admitted = s.admitted := by simp [completeSubmit]
@[simp] theorem completeSlot_admitted (s : State) (st pc kind : Nat) (sig : Option Nat) :
    (completeSlot s st pc kind sig).admitted = s.admitted := by simp [completeSlot]

/-! ### Machine/Pools.lean -/

@[simp] theorem setPoolLevel_admitted (s : State) (p : Nat) (x : Pool) : (setPoolLevel s p x).admitted = s.admitted := by
  simp [setPoolLevel]

/-- Stated over any bytes, so that no check of it computes the bytes that an operation writes. -/
theorem setSram_admitted (s : State) (m : List Host.Cell) : ({ s with sram := m } : State).admitted = s.admitted := rfl

@[simp] theorem putLink_admitted (s : State) (h next : Nat) : (putLink s h next).admitted = s.admitted := setSram_admitted s _

@[simp] theorem threadList_admitted (s : State) (l : List Nat) : (threadList s l).admitted = s.admitted := by
  induction l generalizing s with
  | nil => rfl
  | cons h l ih =>
    cases l with
    | nil => exact putLink_admitted s h _
    | cons g l => exact (ih _).trans (putLink_admitted s h g)

@[simp] theorem rebuildList_admitted (s : State) (p : Nat) : (rebuildList s p).admitted = s.admitted := by simp [rebuildList]
@[simp] theorem popFailed_admitted (s : State) (p : Nat) : (popFailed s p).admitted = s.admitted := by simp [popFailed]
@[simp] theorem grantFrom_admitted (s : State) (p owner refs : Nat) : (grantFrom s p owner refs).1.admitted = s.admitted := by
  simp [grantFrom]

@[simp] theorem grantTry_admitted (owner refs : Nat) (s : State) (ps : List Nat) :
    (grantTry owner refs s ps).1.admitted = s.admitted := by
  induction ps generalizing s with
  | nil => rfl
  | cons p ps ih =>
    have hg := grantFrom_admitted s p owner refs
    unfold grantTry
    split
    · next t h e => rwa [e] at hg
    · next t e => rw [e] at hg; exact (ih t).trans hg

@[simp] theorem takeBuffer_admitted (s : State) (bay owner size refs : Nat) (op : WaitOp) :
    (takeBuffer s bay owner size refs op).1.admitted = s.admitted := by
  unfold takeBuffer
  dsimp only
  split
  · next t h e => simp [admitted_of_prod_eq e rfl]
  · next t e => simp [admitted_of_prod_eq e rfl]

@[simp] theorem testBay_admitted (s : State) (bay : Nat) : (testBay s bay).admitted = s.admitted := by simp [testBay]

@[simp] theorem dropRef_admitted (s : State) (h : Nat) : (dropRef s h).admitted = s.admitted := by
  unfold dropRef
  dsimp only
  split
  · rw [setPool_admitted]
  · split
    · rw [testBay_admitted, count_admitted, setPoolLevel_admitted]
    · split
      · rw [setPoolLevel_admitted]
      · rw [count_admitted, setPoolLevel_admitted, putLink_admitted]

@[simp] theorem releaseBuffer_admitted (s : State) (h : BitVec 32) : (releaseBuffer s h).1.admitted = s.admitted := by
  simp [releaseBuffer]
@[simp] theorem release_admitted (s : State) (h : BitVec 32) : (release s h).admitted = s.admitted := by simp [release]
@[simp] theorem endRebuild_admitted (s : State) (pool : Nat) : (endRebuild s pool).admitted = s.admitted := by simp [endRebuild]

@[simp] theorem retireBuffers_admitted (s : State) (st : Nat) (freeBefore : List (Nat × Nat)) :
    (retireBuffers s st freeBefore).admitted = s.admitted := by
  unfold retireBuffers
  extract_lets counted rebuilt levelled
  have hr : rebuilt.admitted = s.admitted := (forEach_admitted fun t p => by simp).trans (by simp [counted])
  have hl : levelled.admitted = s.admitted := (forEach_admitted fun t p => by simp).trans hr
  clear_value levelled
  simp [hl]

theorem poolCommit_admitted {s t : State} (e : poolCommit s = .ok t) : t.admitted = s.admitted := by
  unfold poolCommit at e
  dsimp only at e
  split at e
  · cases e
  · split at e
    · cases e; simp
    · cases e

/-! ### Machine/Post.lean -/

@[simp] theorem postResult_admitted (s : State) (c m seq code : Nat) (notify ofYield : Bool) :
    (postResult s c m seq code notify ofYield).admitted = s.admitted := by simp [postResult]
@[simp] theorem endYield_admitted (s : State) (c st : Nat) : (endYield s c st).admitted = s.admitted := by simp [endYield]

@[simp] theorem finishYield_admitted (s : State) (c : Nat) : (finishYield s c).admitted = s.admitted := by
  unfold finishYield
  dsimp only
  split <;> simp

@[simp] theorem makePosts_admitted (s : State) (c m : Nat) : (makePosts s c m).admitted = s.admitted := by
  unfold makePosts
  split <;> simp

@[simp] theorem makeAllPosts_admitted (s : State) (c : Nat) : (makeAllPosts s c).admitted = s.admitted := by simp [makeAllPosts]
@[simp] theorem pumpUmora_admitted (s : State) : (pumpUmora s).admitted = s.admitted := by simp [pumpUmora]

@[simp] theorem postStep_admitted (s : State) (c : Nat) : (postStep s c).admitted = s.admitted := by
  unfold postStep
  split <;> simp

@[simp] theorem clearMailboxes_admitted (s : State) (c : Nat) : (clearMailboxes s c).admitted = s.admitted := by
  simp [clearMailboxes]

/-! ### Machine/Dict.lean -/

@[simp] theorem noteRefusal_admitted (s : State) (code idx sub path : Nat) :
    (noteRefusal s code idx sub path).admitted = s.admitted := by
  unfold noteRefusal
  extract_lets counted noted
  have hn : noted.admitted = s.admitted := by rw [setE_admitted, count_admitted, count_admitted]
  clear_value noted
  simp [hn]

@[simp] theorem slotWrite_admitted (s : State) (off : Nat) (bs : List Byte) : (slotWrite s off bs).admitted = s.admitted := by
  simp [slotWrite]

@[simp] theorem endRingCommand_admitted (s : State) (c code : Nat) : (endRingCommand s c code).admitted = s.admitted := by
  unfold endRingCommand
  dsimp only
  split <;> simp

@[simp] theorem respond_admitted (s : State) (q : Req) (idx sub code len value : Nat) :
    (respond s q idx sub code len value).admitted = s.admitted := by
  unfold respond
  extract_lets bytes first second replayed o
  have hs : second.admitted = s.admitted := by rw [slotWrite_admitted, slotWrite_admitted]
  have hr : replayed.admitted = s.admitted := rfl
  clear_value bytes second replayed o
  split
  · rw [holdSource_admitted, setSlot_admitted, hs]
  · split
    · exact hostTaken_admitted
    · split
      · split <;> simp
      · simp [hr]

@[simp] theorem refuse_admitted (s : State) (q : Req) (idx sub code : Nat) : (refuse s q idx sub code).admitted = s.admitted := by
  simp [refuse]
@[simp] theorem noteAuthority_admitted (s : State) (q : Req) : (noteAuthority s q).admitted = s.admitted := by
  simp [noteAuthority]
@[simp] theorem sendRelay_admitted (s : State) (opcode idx sub : Nat) (q : Req) :
    (sendRelay s opcode idx sub q).admitted = s.admitted := by simp [sendRelay]
@[simp] theorem takeRequest_admitted (s : State) (q : Req) : (takeRequest s q).admitted = s.admitted := by simp [takeRequest]
@[simp] theorem giveData_admitted (s : State) (q : Req) (idx sub len value : Nat) :
    (giveData s q idx sub len value).admitted = s.admitted := by simp [giveData]
@[simp] theorem actStore_admitted (idx sub : Nat) (q : Req) (s : State) : (actStore idx sub q s).state.admitted = s.admitted := by
  simp [actStore]
@[simp] theorem endDeferred_admitted (s : State) (idx sub code : Nat) : (endDeferred s idx sub code).admitted = s.admitted := by
  simp [endDeferred]

/-! ### Machine/Dma.lean -/

@[simp] theorem dropDma_admitted (s : State) (m : Dma) : (dropDma s m).admitted = s.admitted := by
  unfold dropDma
  dsimp only
  split <;> simp

@[simp] theorem stagePiece_admitted (s : State) (m : Dma) (i : Nat) (row : List Byte) :
    (stagePiece s m i row).admitted = s.admitted := by
  unfold stagePiece
  split <;> simp

@[simp] theorem dmaError_admitted (s : State) (m : Dma) : (dmaError s m).admitted = s.admitted := by simp [dmaError]
@[simp] theorem modDma_admitted (s : State) (m : Dma) (f : Dma → Dma) : (modDma s m f).admitted = s.admitted := by simp [modDma]
@[simp] theorem endDma_admitted (s : State) (m : Dma) : (endDma s m).admitted = s.admitted := by simp [endDma]

/-! ### Machine/Pond.lean -/

@[simp] theorem pumpUnit_admitted (kind unit f : Nat) (s : State) : (pumpUnit kind unit f s).admitted = s.admitted := by
  induction f generalizing s with
  | zero => rfl
  | succ f ih =>
    unfold pumpUnit
    dsimp only
    split
    · simp [ih]
    · rfl

@[simp] theorem unitRequests_admitted (s : State) (kind unit : Nat) (qs : List OutReq) :
    (unitRequests s kind unit qs).admitted = s.admitted := by simp [unitRequests]

@[simp] theorem windowMiss_admitted (s : State) (off : Nat) : (windowMiss s off).admitted = s.admitted := by
  unfold windowMiss
  dsimp only
  split <;> simp

@[simp] theorem localMiss_admitted (s : State) (a n : Nat) (right : BitVec 128 → Bool) :
    (localMiss s a n right).admitted = s.admitted := by simp [localMiss]
@[simp] theorem beginDma_admitted (s : State) (m : Dma) (stage : Option (BitVec 32)) :
    (beginDma s m stage).admitted = s.admitted := by simp [beginDma]

@[simp] theorem startDma_admitted (s : State) (st : Nat) : (startDma s st).admitted = s.admitted := by
  unfold startDma
  split
  · rfl
  · split
    · rfl
    · split
      · split
        · next t h e => simp [admitted_of_prod_eq e rfl]
        · next t e => simp [admitted_of_prod_eq e rfl]
      · simp

@[simp] theorem stageDma_admitted (s : State) (st h : Nat) : (stageDma s st h).admitted = s.admitted := by
  unfold stageDma
  split <;> simp

@[simp] theorem dmaAnswered_admitted (s : State) (course : Nat) (q : OutReq) (status : Nat) (data : List Byte) :
    (dmaAnswered s course q status data).admitted = s.admitted := by
  unfold dmaAnswered
  split <;> simp

@[simp] theorem storeRefused_admitted (s : State) (key a : Nat) : (storeRefused s key a).admitted = s.admitted := by
  simp [storeRefused]
@[simp] theorem gatherAnswered_admitted (s : State) (lane : Nat) (q : OutReq) (status : Nat) (data : List Byte) :
    (gatherAnswered s lane q status data).admitted = s.admitted := by simp [gatherAnswered]
@[simp] theorem millraceAnswered_admitted (s : State) (lane : Nat) (q : OutReq) (status : Nat) (data : List Byte) :
    (millraceAnswered s lane q status data).admitted = s.admitted := by simp [millraceAnswered]
@[simp] theorem managementAnswered_admitted (s : State) (q : OutReq) (status : Nat) :
    (managementAnswered s q status).admitted = s.admitted := by simp [managementAnswered]

@[simp] theorem fenceDone_admitted (s : State) (st : Nat) : (fenceDone s st).admitted = s.admitted := by
  unfold fenceDone
  dsimp only
  (repeat' split) <;> simp

@[simp] theorem stopLate_admitted (s : State) (st : Nat) : (stopLate s st).admitted = s.admitted := by
  unfold stopLate
  split <;> simp

@[simp] theorem freeRequest_admitted (s : State) (st : Nat) (q : OutReq) : (freeRequest s st q).admitted = s.admitted := by
  simp [freeRequest]

@[simp] theorem completeReq_admitted (s : State) (kind unit : Nat) (q : OutReq) (status : Nat) (data : List Byte) :
    (completeReq s kind unit q status data).admitted = s.admitted := by
  unfold completeReq
  dsimp only
  (repeat' split) <;> simp

@[simp] theorem takeResponse_admitted (s : State) (r : MemResp) : (takeResponse s r).admitted = s.admitted := by
  unfold takeResponse
  split <;> simp

@[simp] theorem answer_admitted (s : State) (r : MemReq) (status : Nat) (replayed : Bool) (data : List Byte) (wythe : Nat) :
    (answer s r status replayed data wythe).admitted = s.admitted := by simp [answer]
@[simp] theorem ledgerAdd_admitted (s : State) (r : MemReq) (old : Nat) : (ledgerAdd s r old).admitted = s.admitted := by
  simp [ledgerAdd]

@[simp] theorem deliverSignal_admitted (s : State) (st obj n : Nat) : (deliverSignal s st obj n).admitted = s.admitted := by
  unfold deliverSignal
  dsimp only
  (repeat' split) <;> simp

@[simp] theorem windowFault_admitted (s : State) (r : MemReq) : (windowFault s r).admitted = s.admitted := by simp [windowFault]
@[simp] theorem hotLine_admitted (s : State) (line : Nat) : (hotLine s line).admitted = s.admitted := by simp [hotLine]
@[simp] theorem queueRequest_admitted (s : State) (r : MemReq) (phys : Nat) : (queueRequest s r phys).admitted = s.admitted := by
  simp [queueRequest]

@[simp] theorem exactlyOnce_admitted (s : State) (r : MemReq) (phys : Nat) (ledgerOk : Bool) (k : State → State)
    (hk : (k s).admitted = s.admitted) : (exactlyOnce s r phys ledgerOk k).admitted = s.admitted := by
  unfold exactlyOnce
  split
  · simp
  · split <;> simp [hk]

@[simp] theorem performSignal_admitted (s : State) (r : MemReq) : (performSignal s r).admitted = s.admitted := by
  simp [performSignal]

@[simp] theorem atHome_admitted (s : State) (r : MemReq) (ledgerOk : Bool) : (atHome s r ledgerOk).admitted = s.admitted := by
  unfold atHome
  (repeat' split) <;> simp

@[simp] theorem finishHome_admitted (s : State) (h : HomeReq) (wythe : Nat) : (finishHome s h wythe).admitted = s.admitted := by
  simp [finishHome]
@[simp] theorem tooLate_admitted (s : State) (h : HomeReq) (wythe : Nat) : (tooLate s h wythe).admitted = s.admitted := by
  simp [tooLate]
@[simp] theorem performAtomic_admitted (s : State) (r : MemReq) (phys : Nat) :
    (performAtomic s r phys).admitted = s.admitted := by simp [performAtomic]
@[simp] theorem sendRequest_admitted (s : State) (wythe : Nat) (r : MemReq) (dest : Nat) :
    (sendRequest s wythe r dest).admitted = s.admitted := by simp [sendRequest]

@[simp] theorem issueRequest_admitted (s : State) (st op dest : Nat) (lake : Bool) (off n : Nat) (payload : List Byte)
    (dst : Option Nat) (width pc : Nat) (sig : Option Nat) (target : Nat) :
    (issueRequest s st op dest lake off n payload dst width pc sig target).admitted = s.admitted := by
  unfold issueRequest
  dsimp only
  split <;> simp

@[simp] theorem linePass_admitted (s : State) (q : LineReq) (n : Nat) (pass : State → Nat → Nat → Nat → State)
    (hp : ∀ t w a n, (pass t w a n).admitted = t.admitted) : (linePass s q n pass).admitted = s.admitted := by
  simp [linePass, hp]

@[simp] theorem performLine_admitted (s : State) (q : LineReq) (h : HomeReq) (readOk : Bool) :
    (performLine s q h readOk).admitted = s.admitted := by
  unfold performLine
  split <;> simp

@[simp] theorem performAtomicLine_admitted (s : State) (q : LineReq) (h : HomeReq) (readOk : Bool) :
    (performAtomicLine s q h readOk).admitted = s.admitted := by simp [performAtomicLine]

/-! ### Machine/Tiers.lean -/

@[simp] theorem raiseFetch_admitted (s : State) (c obj cls ord : Nat) : (raiseFetch s c obj cls ord).admitted = s.admitted := by
  simp [raiseFetch]

@[simp] theorem feedFetch_admitted (s : State) (w : Nat) : (feedFetch s w).admitted = s.admitted := by
  unfold feedFetch
  split <;> simp

@[simp] theorem clearDirty_admitted (s : State) (st g : Nat) : (clearDirty s st g).admitted = s.admitted := by simp [clearDirty]
@[simp] theorem laneRequests_admitted (s : State) (w : Nat) (qs : List OutReq) : (laneRequests s w qs).admitted = s.admitted := by
  simp [laneRequests]

@[simp] theorem passPieces_admitted (s : State) (w a n : Nat) (right : BitVec 128 → Bool)
    (k : State → Nat → Nat → Nat → State) (hk : ∀ t w a n, (k t w a n).admitted = t.admitted) :
    (passPieces s w a n right k).admitted = s.admitted := by
  unfold passPieces
  exact forEach_admitted fun t p => by split <;> simp [hk]

@[simp] theorem pondStore_admitted (s : State) (a : Nat) (bs : List Byte) : (pondStore s a bs).admitted = s.admitted := by
  unfold pondStore
  split
  · simp
  · split
    · next t e => exact pondWrite_admitted e
    · simp

@[simp] theorem toHome_admitted (s : State) (c obj : Nat) (d : ObjDesc) (off : Nat) (bs : List Byte) :
    (toHome s c obj d off bs).admitted = s.admitted := by
  unfold toHome
  dsimp only
  split_ifs
  · simp
  · simp
  · split
    · next t e => simp [pondWrite_admitted e]
    · simp

@[simp] theorem writeBack_admitted (s : State) (c obj : Nat) : (writeBack s c obj).admitted = s.admitted := by simp [writeBack]
@[simp] theorem discardDirty_admitted (s : State) (c obj : Nat) : (discardDirty s c obj).admitted = s.admitted := by
  simp [discardDirty]
@[simp] theorem evictOccupant_admitted (s : State) (o : Nat × Nat) : (evictOccupant s o).admitted = s.admitted := by
  simp [evictOccupant]
@[simp] theorem beginFill_admitted (s : State) (w c obj : Nat) : (beginFill s w c obj).admitted = s.admitted := by
  simp [beginFill]

@[simp] theorem placeObject_admitted (c n : Nat) (rings : State → Nat → List (Nat × Nat × Nat))
    (replicasOk : State → Nat → List (Nat × ObjDesc) → Bool) (s : State) :
    (placeObject c n rings replicasOk s).state.admitted = s.admitted := by simp [placeObject]

@[simp] theorem flushObject_admitted (c n : Nat) (s : State) : (flushObject c n s).state.admitted = s.admitted := by
  simp [flushObject]
@[simp] theorem actFlushObject_admitted (q : Req) (s : State) : (actFlushObject q s).state.admitted = s.admitted := by
  simp [actFlushObject]
@[simp] theorem pondPut_admitted (s : State) (a n v : Nat) : (pondPut s a n v).admitted = s.admitted := by simp [pondPut]
@[simp] theorem kvStore_admitted (s : State) (st a : Nat) (bs : List Byte) : (kvStore s st a bs).admitted = s.admitted := by
  simp [kvStore]

theorem kvTake_admitted {s : State} {c stream : Nat} {p : State × Nat} (e : kvTake s c stream = some p) :
    p.1.admitted = s.admitted := by
  unfold kvTake at e
  dsimp only at e
  split at e
  · cases e
  · split at e
    · cases e
    · split at e
      · cases e
      · cases e; simp

@[simp] theorem kvPut_admitted (s : State) (c st i pos off : Nat) (bs : List Byte) :
    (kvPut s c st i pos off bs).1.admitted = s.admitted := by
  unfold kvPut
  split
  · rfl
  · split
    · simp
    · dsimp only
      split
      · rfl
      · split
        · simp
        · split
          · rfl
          · next t page e =>
            rw [kvStore_admitted, pondPut_admitted]
            exact kvTake_admitted e

@[simp] theorem kvRetry_admitted (s : State) (c : Nat) : (kvRetry s c).admitted = s.admitted := by
  unfold kvRetry
  refine forEach_admitted fun t w => ?_
  split
  · next u e => simp [admitted_of_prod_eq e rfl]
  · rfl

@[simp] theorem actKvPoolTail_admitted (q : Req) (s : State) : (actKvPoolTail q s).state.admitted = s.admitted := by
  unfold actKvPoolTail
  dsimp only
  split <;> simp

theorem kvAdvance_admitted {s t : State} {c i w : Nat} (e : kvAdvance s c i w = some t) : t.admitted = s.admitted := by
  unfold kvAdvance at e
  split at e
  · cases e; rfl
  · split at e
    · cases e
    · cases e
      exact (pondPut_admitted _ _ _ _).trans (forEach_admitted fun t p => by split <;> simp)

@[simp] theorem actSetWatermark_admitted (q : Req) (s : State) : (actSetWatermark q s).state.admitted = s.admitted := by
  unfold actSetWatermark
  dsimp only
  split
  · rfl
  · split
    · next t e => exact kvAdvance_admitted e
    · rfl

@[simp] theorem kvGive_admitted (s : State) (c stream page : Nat) : (kvGive s c stream page).admitted = s.admitted := by
  unfold kvGive
  dsimp only
  split <;> simp

@[simp] theorem actReleaseProvisional_admitted (q : Req) (s : State) : (actReleaseProvisional q s).state.admitted = s.admitted := by
  unfold actReleaseProvisional
  dsimp only
  split
  · rfl
  · split
    · rfl
    · exact (kvRetry_admitted _ _).trans (forEach_admitted fun t p => by split <;> simp)

end Sys2Proof.Machine
end

section
/-! PROOFS. The ledger of admitted choices under routers, confluences, runs, collectives and fences that leave it as it is. -/

-- As in the tests: proofs elaborated side by side exhaust memory in the joined text.
set_option Elab.async false

namespace Sys2Proof.Machine

/-! ### Machine/Router.lean -/

@[simp] theorem beginStream_admitted (s : State) (b c n : Nat) : (beginStream s b c n).admitted = s.admitted := by
  simp [beginStream]
@[simp] theorem askStreams_admitted (s : State) (c n : Nat) : (askStreams s c n).admitted = s.admitted := by simp [askStreams]
@[simp] theorem passTokens_admitted (s : State) (b c n g : Nat) (sh : Share) :
    (passTokens s b c n g sh).admitted = s.admitted := by simp [passTokens]
@[simp] theorem moveLookups_admitted (s t : State) (b : Nat) : (moveLookups s t b).admitted = t.admitted := by simp [moveLookups]
@[simp] theorem fenceRouter_admitted (s : State) (b : Nat) : (fenceRouter s b).admitted = s.admitted := by simp [fenceRouter]

/-! ### Machine/Confluence.lean -/

@[simp] theorem sendChoices_admitted (s : State) (dest cls target stone : Nat) (cs : List Choice) :
    (sendChoices s dest cls target stone cs).admitted = s.admitted := by simp [sendChoices]

@[simp] theorem windowAfter_admitted (s : State) (c layer first : Nat) : (windowAfter s c layer first).admitted = s.admitted := by
  unfold windowAfter
  split <;> simp

@[simp] theorem ensureRun_admitted (s : State) (c layer gen first span : Nat) :
    (ensureRun s c layer gen first span).admitted = s.admitted := by
  unfold ensureRun
  split <;> simp

@[simp] theorem pushEntry_admitted (s : State) (a : Admitted) : (pushEntry s a).admitted = s.admitted := by
  unfold pushEntry
  dsimp only
  split <;> simp

@[simp] theorem modConf_admitted (s : State) (k : TokKey) (f : Conf → Conf) : (modConf s k f).admitted = s.admitted := by
  simp [modConf]

@[simp] theorem finishToken_admitted (s : State) (k : TokKey) (h : Nat) : (finishToken s k h).admitted = s.admitted := by
  unfold finishToken
  split <;> simp

@[simp] theorem endToken_admitted (s : State) (k : TokKey) : (endToken s k).admitted = s.admitted := by
  unfold endToken
  split
  · rfl
  · split
    · rfl
    · dsimp only
      split
      · next t h e => simp [admitted_of_prod_eq e rfl]
      · next t e => simp [admitted_of_prod_eq e rfl]

@[simp] theorem dropBufs_admitted (s : State) (k : TokKey) (which : Conf → Nat → Bool) :
    (dropBufs s k which).admitted = s.admitted := by
  unfold dropBufs
  split <;> simp

@[simp] theorem advance_admitted (s : State) (k : TokKey) : (advance s k).admitted = s.admitted := by
  unfold advance
  split <;> simp

@[simp] theorem openGen_admitted (s : State) (bay c g : Nat) : (openGen s bay c g).admitted = s.admitted := by
  unfold openGen
  split <;> simp

@[simp] theorem unhold_admitted (s : State) (t : Tok) : (unhold s t).admitted = s.admitted := by simp [unhold]
@[simp] theorem wakeTok_admitted (s : State) (t : Tok) : (wakeTok s t).admitted = s.admitted := by simp [wakeTok]
@[simp] theorem wakeGens_admitted (s : State) : (wakeGens s).admitted = s.admitted := by simp [wakeGens]
@[simp] theorem clearGens_admitted (s : State) : (clearGens s).admitted = s.admitted := by simp [clearGens]
@[simp] theorem freeGens_admitted (s : State) : (freeGens s).admitted = s.admitted := by simp [freeGens]

@[simp] theorem strandRank_admitted (s : State) (k : TokKey) (r : Nat) : (strandRank s k r).admitted = s.admitted := by
  unfold strandRank
  dsimp only
  (repeat' split) <;> simp

@[simp] theorem countVerdict_admitted (s : State) (st : Nat) : (countVerdict s st).admitted = s.admitted := by
  unfold countVerdict
  split <;> simp

@[simp] theorem dropRank_admitted (s : State) (k : TokKey) (r : Nat) : (dropRank s k r).admitted = s.admitted := by
  simp [dropRank]
@[simp] theorem exhaustRank_admitted (s : State) (k : TokKey) (r : Nat) : (exhaustRank s k r).admitted = s.admitted := by
  simp [exhaustRank]
@[simp] theorem abandonStranded_admitted (s : State) (c layer : Nat) : (abandonStranded s c layer).admitted = s.admitted := by
  simp [abandonStranded]

@[simp] theorem dropReturn_admitted (s : State) (h : RetHdr) : (dropReturn s h).admitted = s.admitted := by
  unfold dropReturn
  dsimp only
  (repeat' split) <;> simp

@[simp] theorem placeReturn_admitted (s : State) (handle : Nat) (h : RetHdr) (payload : List Byte) :
    (placeReturn s handle h payload).admitted = s.admitted := by simp [placeReturn]

@[simp] theorem takeReturn_admitted (s : State) (h : RetHdr) (payload : List Byte) :
    (takeReturn s h payload).admitted = s.admitted := by
  unfold takeReturn
  split
  · simp
  · split
    · rfl
    · split
      · simp
      · split
        · next t b e => simp [admitted_of_prod_eq e rfl]
        · next t e => simp [admitted_of_prod_eq e rfl]

@[simp] theorem grantReturn_admitted (s : State) (handle : Nat) (h : RetHdr) (payload : List Byte) :
    (grantReturn s handle h payload).admitted = s.admitted := by
  unfold grantReturn
  split
  · simp
  · split <;> simp

theorem retireGen_admitted {s t : State} {c g : Nat} (e : retireGen s c g = some t) : t.admitted = s.admitted := by
  unfold retireGen at e
  dsimp only at e
  split at e
  · cases e; rfl
  · split at e
    · cases e
    · cases e; simp

@[simp] theorem discardRequest_admitted (s : State) (bay stone pc recOff : Nat) :
    (discardRequest s bay stone pc recOff).admitted = s.admitted := by simp [discardRequest]

@[simp] theorem discardConf_admitted (s : State) (k : TokKey) (bay : Nat) : (discardConf s k bay).admitted = s.admitted := by
  unfold discardConf
  split <;> simp

/-! ### Machine/Ledger.lean -/

@[simp] theorem takeEffect_admitted (s : State) (c layer gen : Nat) : (takeEffect s c layer gen).admitted = s.admitted := by
  simp [takeEffect]
@[simp] theorem cacheBlock_admitted (s : State) (bay c layer expert : Nat) (b : List Replica) :
    (cacheBlock s bay c layer expert b).admitted = s.admitted := by simp [cacheBlock]

@[simp] theorem takeClaims_admitted (s : State) (cs : List Claim) : (takeClaims s cs).admitted = s.admitted := by
  unfold takeClaims
  refine forEach_admitted fun t x => ?_
  dsimp only
  split
  · split <;> simp
  · rfl

@[simp] theorem sendClaims_admitted (s : State) (k : TokKey) : (sendClaims s k).admitted = s.admitted := by
  unfold sendClaims
  split <;> simp

@[simp] theorem giveBlock_admitted (s : State) (bay c layer expert : Nat) (ok : Bool) (b : List Replica) :
    (giveBlock s bay c layer expert ok b).admitted = s.admitted := by
  unfold giveBlock
  refine forEach_admitted fun t p => ?_
  dsimp only
  split
  · simp
  · split
    · split <;> simp
    · simp

@[simp] theorem lookBlocks_admitted (s : State) (bay : Nat) (k : TokKey) : (lookBlocks s bay k).admitted = s.admitted := by
  unfold lookBlocks
  dsimp only
  split
  · simp
  · exact (forEach_admitted fun t e => by split <;> simp).trans (by simp)

@[simp] theorem hotReport_admitted (s : State) (c layer gen : Nat) (xs : List Adm) (cap : Nat) :
    (hotReport s c layer gen xs cap).admitted = s.admitted := by simp [hotReport]
@[simp] theorem endRun_admitted (s : State) (st : Nat) (e : ERun) (hdr : Nat) (es : List Admitted) :
    (endRun s st e hdr es).admitted = s.admitted := by simp [endRun]
@[simp] theorem endOldRuns_admitted (s : State) (c layer : Nat) : (endOldRuns s c layer).admitted = s.admitted := by
  simp [endOldRuns]
@[simp] theorem modRun_admitted (s : State) (c layer first : Nat) (f : RunSt → RunSt) :
    (modRun s c layer first f).admitted = s.admitted := by simp [modRun]

/-! ### Machine/Expert.lean -/

@[simp] theorem discardWaiting_admitted (s : State) (bay ctx layer gen : Nat) :
    (discardWaiting s bay ctx layer gen).admitted = s.admitted := by simp [discardWaiting]

@[simp] theorem passStream_admitted (s : State) (b : Nat) (g : Gather) : (passStream s b g).admitted = s.admitted := by
  unfold passStream
  dsimp only
  (repeat' split) <;> simp

@[simp] theorem formChoices_admitted (s : State) (t : Tok) : (formChoices s t).admitted = s.admitted := by simp [formChoices]

@[simp] theorem actRetireGeneration_admitted (q : Req) (s : State) : (actRetireGeneration q s).state.admitted = s.admitted := by
  unfold actRetireGeneration
  split
  · next t e => exact retireGen_admitted e
  · rfl

@[simp] theorem actAbandonStranded_admitted (q : Req) (s : State) : (actAbandonStranded q s).state.admitted = s.admitted := by
  simp [actAbandonStranded]
@[simp] theorem actPlacementUpdate_admitted (q : Req) (s : State) : (actPlacementUpdate q s).state.admitted = s.admitted := by
  simp [actPlacementUpdate]
@[simp] theorem setPlaced_admitted (s : State) (c layer expert : Nat) (b : List Replica) :
    (setPlaced s c layer expert b).admitted = s.admitted := by simp [setPlaced]

theorem storeStatus_admitted {s : State} {u : PUpdate} {a status : Nat} {bs : List Byte} {r : Nat × State}
    (e : storeStatus s u a status bs = some r) : r.2.admitted = s.admitted := by
  unfold storeStatus at e
  split at e
  · obtain ⟨st, -, rfl⟩ := Option.map_eq_some_iff.1 e
    rfl
  · split at e
    · next t ht =>
      cases e
      split
      · exact pondWrite_admitted ht
      · rfl
    · cases e; simp

theorem fillBytes_admitted {s : State} {w : Nat} {f : Fill} {d : ObjDesc} {bytes : List Byte} {r : Option (List Byte) × State}
    (e : fillBytes s w f d bytes = some r) : r.2.admitted = s.admitted := by
  unfold fillBytes at e
  dsimp only at e
  split at e
  · cases e; rfl
  · split at e
    · split at e <;> split at e <;> cases e <;> rfl
    · split at e <;> cases e <;> simp

@[simp] theorem fillWindow_admitted (s : State) (d : ObjDesc) (bs : List Byte) : (fillWindow s d bs).admitted = s.admitted := by
  simp [fillWindow]
@[simp] theorem fillWindowBut_admitted (s : State) (d : ObjDesc) (skip : List (Nat × Nat)) (bs : List Byte) :
    (fillWindowBut s d skip bs).admitted = s.admitted := by simp [fillWindowBut]
@[simp] theorem homeFault_admitted (s : State) (c : Nat) (d : ObjDesc) (off : Nat) :
    (homeFault s c d off).admitted = s.admitted := by simp [homeFault]
@[simp] theorem actPlaceObject_admitted (q : Req) (s : State) : (actPlaceObject q s).state.admitted = s.admitted := by
  simp [actPlaceObject]

@[simp] theorem actPoolCommit_admitted (s : State) : (actPoolCommit s).state.admitted = s.admitted := by
  unfold actPoolCommit
  split
  · next t e => exact poolCommit_admitted e
  · rfl

/-! ### Machine/Coll.lean -/

@[simp] theorem missPieces_admitted (s : State) (a n : Nat) (right : BitVec 128 → Bool) :
    (missPieces s a n right).admitted = s.admitted := by simp [missPieces]
@[simp] theorem readPass_admitted (s : State) (w : Nat) (d : CollDesc) (i : Nat) : (readPass s w d i).admitted = s.admitted := by
  simp [readPass]

@[simp] theorem writeTile_admitted (s : State) (w : Nat) (d : CollDesc) (i : Nat) (bs : List Byte) :
    (writeTile s w d i bs).admitted = s.admitted := by
  unfold writeTile
  split <;> simp

@[simp] theorem noteSpecials_admitted (s : State) (w ctx group seq n : Nat) :
    (noteSpecials s w ctx group seq n).admitted = s.admitted := by simp [noteSpecials]

@[simp] theorem finish_admitted (r : State × List Fault16) : (finish r).admitted = r.1.admitted := by
  unfold finish
  split <;> simp

@[simp] theorem deliverChunk_admitted (s : State) (co : Coll) (i : Nat) (bs : List Byte) :
    (deliverChunk s co i bs).admitted = s.admitted := by simp [deliverChunk]
@[simp] theorem rootSend_admitted (s : State) (co : Coll) (i : Nat) (bs : List Byte) :
    (rootSend s co i bs).admitted = s.admitted := by simp [rootSend]

@[simp] theorem formChunk_admitted (s : State) (co : Coll) (chunk : Nat) (bs : List Byte) (clamps : Nat) :
    (formChunk s co chunk bs clamps).admitted = s.admitted := by
  unfold formChunk
  split <;> simp

@[simp] theorem advanceUp_admitted (s : State) (k : CollKey) : (advanceUp s k).admitted = s.admitted := by
  unfold advanceUp
  split
  · rfl
  · refine forEach_admitted fun t chunk => ?_
    split
    · rfl
    · split
      · rfl
      · split <;> simp

@[simp] theorem rootOut_admitted (s : State) (k : CollKey) : (rootOut s k).admitted = s.admitted := by
  unfold rootOut
  split <;> simp

@[simp] theorem sendDone_admitted (s : State) (co : Coll) : (sendDone s co).admitted = s.admitted := by simp [sendDone]

@[simp] theorem collProgress_admitted (s : State) (k : CollKey) : (collProgress s k).admitted = s.admitted := by
  unfold collProgress
  split <;> simp

@[simp] theorem pump_admitted (s : State) (k : CollKey) : (pump s k).admitted = s.admitted := by simp [pump]
@[simp] theorem takeTile_admitted (s : State) (co : Coll) (i : Nat) : (takeTile s co i).admitted = s.admitted := by
  simp [takeTile]
@[simp] theorem takePartial_admitted (s : State) (co : Coll) (m : CollMsg) : (takePartial s co m).admitted = s.admitted := by
  simp [takePartial]
@[simp] theorem takeResult_admitted (s : State) (co : Coll) (m : CollMsg) : (takeResult s co m).admitted = s.admitted := by
  simp [takeResult]

@[simp] theorem sendAgain_admitted (s : State) (co : Coll) (rk msg chunk n : Nat) :
    (sendAgain s co rk msg chunk n).admitted = s.admitted := by
  unfold sendAgain
  split <;> simp

@[simp] theorem partialAgain_admitted (s : State) (co : Coll) (chunk n : Nat) :
    (partialAgain s co chunk n).admitted = s.admitted := by simp [partialAgain]

@[simp] theorem takeOpen_admitted (s : State) (co : Coll) (msg : Nat) (m : CollMsg) :
    (takeOpen s co msg m).admitted = s.admitted := by
  unfold takeOpen
  split <;> simp

@[simp] theorem sendLoose_admitted (s : State) (k : CollKey) (rk msg chunk : Nat) (data : List Byte) :
    (sendLoose s k rk msg chunk data).admitted = s.admitted := by
  unfold sendLoose
  split <;> simp

@[simp] theorem takeEnded_admitted (s : State) (e : CollEnd) (msg : Nat) (m : CollMsg) :
    (takeEnded s e msg m).admitted = s.admitted := by simp [takeEnded]
@[simp] theorem holdMsg_admitted (s : State) (msg : Nat) (m : CollMsg) : (holdMsg s msg m).admitted = s.admitted := by
  simp [holdMsg]
@[simp] theorem abortBarrier_admitted (s : State) (m : CollMsg) : (abortBarrier s m).admitted = s.admitted := by
  simp [abortBarrier]
@[simp] theorem abortUnposted_admitted (s : State) (msg : Nat) (m : CollMsg) : (abortUnposted s msg m).admitted = s.admitted := by
  simp [abortUnposted]
@[simp] theorem retainFault_admitted (s : State) : (retainFault s).admitted = s.admitted := by simp [retainFault]

@[simp] theorem takeMsg_admitted (s : State) (msg : Nat) (m : CollMsg) : (takeMsg s msg m).admitted = s.admitted := by
  unfold takeMsg
  split <;> split <;> simp

@[simp] theorem resendLost_admitted (s : State) (msg : Nat) (m : CollMsg) : (resendLost s msg m).admitted = s.admitted := by
  unfold resendLost
  split <;> simp

@[simp] theorem actGroupCommit_admitted (g : Nat) (readOk : Bool) (q : Req) (s : State) :
    (actGroupCommit g readOk q s).state.admitted = s.admitted := by
  unfold actGroupCommit
  extract_lets c n radix
  split
  · rfl
  · split
    · rfl
    · split
      · rfl
      · split
        · simp
        · split
          · rfl
          · extract_lets ranked digested committed
            have h : committed.admitted = s.admitted := by rw [setC_admitted, setC_admitted, setC_admitted, setC_admitted]
            clear_value committed
            exact h

@[simp] theorem startColl_admitted (s : State) (k : CollKey) : (startColl s k).admitted = s.admitted := by
  unfold startColl
  split <;> simp

@[simp] theorem openColl_admitted (s : State) (co : Coll) : (openColl s co).admitted = s.admitted := by
  unfold openColl
  split <;> simp

@[simp] theorem modMcast_admitted (s : State) (ctx number : Nat) (f : Mcast → Mcast) :
    (modMcast s ctx number f).admitted = s.admitted := by simp [modMcast]

@[simp] theorem mcastDone_admitted (s : State) (ctx number : Nat) : (mcastDone s ctx number).admitted = s.admitted := by
  unfold mcastDone
  split <;> simp

@[simp] theorem writeLeg_admitted (s : State) (poster ctx number leg st off : Nat) (crcOk : Bool) (bs : List Byte) :
    (writeLeg s poster ctx number leg st off crcOk bs).1.admitted = s.admitted := by simp [writeLeg]

@[simp] theorem sendLeg_admitted (s : State) (m : Mcast) (i chunk attempt : Nat) (bs : List Byte) :
    (sendLeg s m i chunk attempt bs).admitted = s.admitted := by
  unfold sendLeg
  split <;> simp

@[simp] theorem readMcast_admitted (s : State) (ctx number i : Nat) : (readMcast s ctx number i).admitted = s.admitted := by
  unfold readMcast
  split <;> simp

@[simp] theorem mcastLegs_admitted (s : State) (ctx number i : Nat) : (mcastLegs s ctx number i).admitted = s.admitted := by
  unfold mcastLegs
  (repeat' split) <;> simp

@[simp] theorem mcastTile_admitted (s : State) (ctx number i : Nat) : (mcastTile s ctx number i).admitted = s.admitted := by
  simp [mcastTile]

@[simp] theorem startMcast_admitted (s : State) (ctx number : Nat) (soc : Bool) :
    (startMcast s ctx number soc).admitted = s.admitted := by
  unfold startMcast
  split <;> simp

@[simp] theorem takeNotice_admitted (s : State) (st handle tile : Nat) : (takeNotice s st handle tile).admitted = s.admitted := by
  unfold takeNotice
  dsimp only
  (repeat' split) <;> simp

@[simp] theorem actCollAbort_admitted (q : Req) (s : State) : (actCollAbort q s).state.admitted = s.admitted := by
  unfold actCollAbort
  split <;> simp

/-! ### Machine/Fence.lean -/

@[simp] theorem discardWork_admitted (s : State) (st : Nat) : (discardWork s st).admitted = s.admitted := by simp [discardWork]
@[simp] theorem fenceContext_admitted (s : State) (st : Nat) : (fenceContext s st).admitted = s.admitted := by simp [fenceContext]
@[simp] theorem loadStone_admitted (s : State) (t : ImgStone) (st : Nat) : (loadStone s t st).admitted = s.admitted := by
  simp [loadStone]
@[simp] theorem moveWindows_admitted (s : State) (c a b : Nat) : (moveWindows s c a b).admitted = s.admitted := by
  simp [moveWindows]

@[simp] theorem remap_admitted (s : State) (c l b : Nat) : (remap s c l b).admitted = s.admitted := by
  unfold remap
  dsimp only
  (repeat' split) <;> simp

@[simp] theorem actRemapStone_admitted (q : Req) (s : State) : (actRemapStone q s).state.admitted = s.admitted := by
  unfold actRemapStone
  dsimp only
  split <;> simp

@[simp] theorem refillGranule_admitted (s : State) (st g : Nat) (d : ObjDesc) (kib : Nat) :
    (refillGranule s st g d kib).admitted = s.admitted := by simp [refillGranule]

end Sys2Proof.Machine
end

section
/-! PROOFS. The ledger of admitted choices under engines, the fabric, jobs and the units of the package. -/

-- As in the tests: proofs elaborated side by side exhaust memory in the joined text.
set_option Elab.async false

namespace Sys2Proof.Machine

/-! ### Machine/Engine.lean -/

@[simp] theorem setTiles_admitted (s : State) (st : Nat) (sparse : Bool) (l : List Tile) :
    (setTiles s st sparse l).admitted = s.admitted := by simp [setTiles]
@[simp] theorem injUsed_admitted (s : State) (st : Nat) (sparse : Bool) : (injUsed s st sparse).admitted = s.admitted := by
  simp [injUsed]
@[simp] theorem noteFpSpecials_admitted (s : State) (st pc n : Nat) : (noteFpSpecials s st pc n).admitted = s.admitted := by
  simp [noteFpSpecials]
@[simp] theorem setArray_admitted (s : State) (st : Nat) (sparse : Bool) (x : ArrayRegs) :
    (setArray s st sparse x).admitted = s.admitted := by simp [setArray]
@[simp] theorem finishTile_admitted (s : State) (st : Nat) (sparse : Bool) (us : List Upset) (t : Tile) :
    (finishTile s st sparse us t).admitted = s.admitted := by simp [finishTile]
@[simp] theorem disagreeFault_admitted (s : State) (st : Nat) (sparse : Bool) (t : Tile) :
    (disagreeFault s st sparse t).admitted = s.admitted := by simp [disagreeFault]
@[simp] theorem actEngineInject_admitted (q : Req) (s : State) : (actEngineInject q s).state.admitted = s.admitted := by
  simp [actEngineInject]

/-! ### Machine/Compressor.lean -/

@[simp] theorem noteQuant_admitted (s : State) (st : Nat) (l : List (List QBlock)) :
    (noteQuant s st l).admitted = s.admitted := by simp [noteQuant]
@[simp] theorem compFault_admitted (s : State) (st sub : Nat) : (compFault s st sub).admitted = s.admitted := by simp [compFault]
@[simp] theorem compressActs_admitted (s : State) (st src dst : Nat) (o : Operands) :
    (compressActs s st src dst o).admitted = s.admitted := by simp [compressActs]

@[simp] theorem compressWeights_admitted (s : State) (st src dst : Nat) (o : Operands) (tpose : Bool)
    (kept : Nat → Nat → List (BitVec 32) → List Bool) :
    (compressWeights s st src dst o tpose kept).admitted = s.admitted := by simp [compressWeights]

@[simp] theorem compressMask_admitted (s : State) (st src dst aux : Nat) (o : Operands) :
    (compressMask s st src dst aux o).admitted = s.admitted := by simp [compressMask]

@[simp] theorem expandTile_admitted (s : State) (st src dst : Nat) (o : Operands) :
    (expandTile s st src dst o).admitted = s.admitted := by
  unfold expandTile
  dsimp only
  (repeat' split) <;> simp

@[simp] theorem transposeTile_admitted (s : State) (st src dst : Nat) (o : Operands) :
    (transposeTile s st src dst o).admitted = s.admitted := by simp [transposeTile]

/-! ### Machine/Fabric.lean -/

@[simp] theorem sendControl_admitted (s : State) (p : Nat) (nak : Bool) : (sendControl s p nak).admitted = s.admitted := by
  simp [sendControl]
@[simp] theorem putFrame_admitted (s : State) (p : Nat) (f : Sent) : (putFrame s p f).admitted = s.admitted := by simp [putFrame]
@[simp] theorem freeCredits_admitted (s : State) (p : Nat) (q : QItem) : (freeCredits s p q).admitted = s.admitted := by
  simp [freeCredits]
@[simp] theorem portEnter_admitted (s : State) (p : Nat) (st : PortState) : (portEnter s p st).admitted = s.admitted := by
  simp [portEnter]
@[simp] theorem fencePort_admitted (s : State) (p : Nat) : (fencePort s p).admitted = s.admitted := by simp [fencePort]
@[simp] theorem failRetrain_admitted (s : State) (p : Nat) : (failRetrain s p).admitted = s.admitted := by simp [failRetrain]
@[simp] theorem endAttempt_admitted (s : State) (p : Nat) (st : PortState) : (endAttempt s p st).admitted = s.admitted := by
  simp [endAttempt]
@[simp] theorem beginRetrain_admitted (s : State) (p : Nat) : (beginRetrain s p).admitted = s.admitted := by simp [beginRetrain]
@[simp] theorem failPort_admitted (s : State) (p : Nat) (st : PortState) : (failPort s p st).admitted = s.admitted := by
  simp [failPort]
@[simp] theorem sendHello_admitted (s : State) (p : Nat) : (sendHello s p).admitted = s.admitted := by simp [sendHello]
@[simp] theorem actPortRetrain_admitted (p : Nat) (s : State) : (actPortRetrain p s).state.admitted = s.admitted := by
  simp [actPortRetrain]
@[simp] theorem actPortFence_admitted (p : Nat) (s : State) : (actPortFence p s).state.admitted = s.admitted := by
  simp [actPortFence]
@[simp] theorem sendNew_admitted (s : State) (p vc : Nat) (b : FrameBody) : (sendNew s p vc b).admitted = s.admitted := by
  simp [sendNew]
@[simp] theorem sendDue_admitted (s : State) (p : Nat) : (sendDue s p).admitted = s.admitted := by simp [sendDue]
@[simp] theorem startRekey_admitted (s : State) (p : Nat) : (startRekey s p).admitted = s.admitted := by simp [startRekey]
@[simp] theorem rekeyAtLimit_admitted (s : State) (p : Nat) : (rekeyAtLimit s p).admitted = s.admitted := by simp [rekeyAtLimit]

@[simp] theorem takeKey_admitted (s : State) (p : Nat) (phase : Bool) : (takeKey s p phase).admitted = s.admitted := by
  unfold takeKey
  dsimp only
  split <;> simp

@[simp] theorem countIn_admitted (s : State) (x0 : FrameBody) : (countIn s x0).admitted = s.admitted := by
  unfold countIn
  split <;> simp

@[simp] theorem noteDepth_admitted (s : State) (p v : Nat) : (noteDepth s p v).admitted = s.admitted := by simp [noteDepth]

@[simp] theorem routeDrop_admitted (s : State) (came w cause : Nat) (p : Packet) :
    (routeDrop s came w cause p).admitted = s.admitted := by
  unfold routeDrop
  split <;> simp

@[simp] theorem deliverPacket_admitted (s : State) (came w : Nat) (p : Packet) :
    (deliverPacket s came w p).admitted = s.admitted := by simp [deliverPacket]

@[simp] theorem rxBuffer_admitted (s : State) (p : Packet) (d : Depart) : (rxBuffer s p d).1.admitted = s.admitted := by
  unfold rxBuffer
  split
  · rfl
  · split
    · next t h e => simp [admitted_of_prod_eq e rfl]
    · next t e => simp [admitted_of_prod_eq e rfl]

@[simp] theorem depart_admitted (s : State) (w : Nat) (item : QItem) (came : Nat) (p : Packet) (d : Depart) :
    (depart s w item came p d).admitted = s.admitted := by
  unfold depart
  split <;> simp

@[simp] theorem spoilPacket_admitted (s : State) (came w : Nat) (p : Packet) :
    (spoilPacket s came w p).admitted = s.admitted := by simp [spoilPacket]

@[simp] theorem actAqSet_admitted (q : Req) (s : State) : (actAqSet q s).state.admitted = s.admitted := by
  unfold actAqSet
  dsimp only
  split <;> simp

@[simp] theorem actAqClear_admitted (q : Req) (s : State) : (actAqClear q s).state.admitted = s.admitted := by simp [actAqClear]
@[simp] theorem actAqShare_admitted (q : Req) (s : State) : (actAqShare q s).state.admitted = s.admitted := by simp [actAqShare]
@[simp] theorem aqDeliver_admitted (s : State) (k inPort : Nat) (e : BitVec 128) (a : AqPacket) :
    (aqDeliver s k inPort e a).admitted = s.admitted := by simp [aqDeliver]
@[simp] theorem actTableInstall_admitted (e : Nat) (s : State) : (actTableInstall e s).state.admitted = s.admitted := by
  simp [actTableInstall]
@[simp] theorem actInjectEpoch_admitted (e : Nat) (s : State) : (actInjectEpoch e s).state.admitted = s.admitted := by
  simp [actInjectEpoch]
@[simp] theorem actTableRetire_admitted (e : Nat) (s : State) : (actTableRetire e s).state.admitted = s.admitted := by
  simp [actTableRetire]

@[simp] theorem epochOp_admitted (op e : Nat) (s : State) : (epochOp op e s).1.admitted = s.admitted := by
  have ha : (if op = 1 then actTableInstall e s else if op = 2 then actInjectEpoch e s
    else if op = 4 then actTableRetire e s else .done s).state.admitted = s.admitted := by simp
  unfold epochOp
  dsimp only
  split <;> next t he => rwa [he] at ha

@[simp] theorem finishEpochStep_admitted (s : State) (x : EpochStep) : (finishEpochStep s x).admitted = s.admitted := by
  simp [finishEpochStep]
@[simp] theorem actEpochStep_admitted (q : Req) (s : State) : (actEpochStep q s).state.admitted = s.admitted := by
  simp [actEpochStep]

/-! ### Machine/Vector.lean -/

@[simp] theorem spoilRun_admitted (s : State) (st : Nat) (dsts : List (Nat × Nat)) (rs : List Nat) :
    (spoilRun s st dsts rs).admitted = s.admitted := by simp [spoilRun]
@[simp] theorem finishRun_admitted (s : State) (st : Nat) (v : VRun) : (finishRun s st v).admitted = s.admitted := by
  simp [finishRun]
@[simp] theorem postInc_admitted (s : State) (st : Nat) (o : Operands) (vl : Nat) :
    (postInc s st o vl).admitted = s.admitted := by simp [postInc]

/-! ### Machine/Loader.lean -/

@[simp] theorem loadRecord_admitted (s : State) (slot n code detail : Nat) :
    (loadRecord s slot n code detail).admitted = s.admitted := by simp [loadRecord]
@[simp] theorem loadRefused_admitted (s : State) (slot n code detail : Nat) :
    (loadRefused s slot n code detail).admitted = s.admitted := by simp [loadRefused]
@[simp] theorem actLoad_admitted (q : Req) (s : State) : (actLoad q s).state.admitted = s.admitted := by simp [actLoad]
@[simp] theorem clearLayers_admitted (s : State) (c : Nat) : (clearLayers s c).admitted = s.admitted := by simp [clearLayers]

@[simp] theorem applyLayers_admitted (s : State) (c : Nat) (i : Image) : (applyLayers s c i).admitted = s.admitted := by
  unfold applyLayers
  rw [forEach_admitted fun _ _ => forEach_admitted fun _ _ => setC_admitted, clearLayers_admitted]

@[simp] theorem writeTables_admitted (s : State) (c : Nat) (m : List (Nat × Nat)) (i : Image) :
    (writeTables s c m i).admitted = s.admitted := by simp [writeTables]
@[simp] theorem loadDone_admitted (s : State) (l : Loading) (i : Image) (m : List (Nat × Nat)) (base : Nat) :
    (loadDone s l i m base).admitted = s.admitted := by simp [loadDone]

/-! ### Machine/Context.lean -/

@[simp] theorem closeRing_admitted (s : State) (c : Nat) : (closeRing s c).admitted = s.admitted := by simp [closeRing]
@[simp] theorem beginUnload_admitted (s : State) (c : Nat) : (beginUnload s c).admitted = s.admitted := by simp [beginUnload]

@[simp] theorem actUnload_admitted (c : Nat) (s : State) : (actUnload c s).state.admitted = s.admitted := by
  unfold actUnload
  split <;> simp

@[simp] theorem leaveWindows_admitted (s : State) (c : Nat) : (leaveWindows s c).admitted = s.admitted := by simp [leaveWindows]
@[simp] theorem resumed_admitted (s : State) (c : Nat) : (resumed s c).admitted = s.admitted := by simp [resumed]
@[simp] theorem actResume_admitted (c : Nat) (q : Req) (s : State) : (actResume c q s).state.admitted = s.admitted := by
  simp [actResume]

@[simp] theorem takeStone_admitted (s : State) (c st : Nat) : (takeStone s c st).admitted = s.admitted := by
  unfold takeStone
  dsimp only
  (repeat' split) <;> simp

@[simp] theorem reissue_admitted (s : State) (c : Nat) : (reissue s c).admitted = s.admitted := by
  unfold reissue
  exact forEach_admitted fun t st => by simp

@[simp] theorem beginSwapOut_admitted (s : State) (c : Nat) : (beginSwapOut s c).admitted = s.admitted := by simp [beginSwapOut]

@[simp] theorem forgetShares_admitted (s : State) (c : Nat) : (forgetShares s c).admitted = s.admitted := by
  unfold forgetShares
  exact forEach_admitted fun t b => by simp

@[simp] theorem swapOutWindows_admitted (s : State) (c : Nat) : (swapOutWindows s c).admitted = s.admitted := by
  simp [swapOutWindows]
@[simp] theorem saveStones_admitted (s : State) (c : Nat) : (saveStones s c).admitted = s.admitted := by simp [saveStones]
@[simp] theorem reloadSaved_admitted (s : State) (c : Nat) (g : Nat × Nat) : (reloadSaved s c g).admitted = s.admitted := by
  simp [reloadSaved]
@[simp] theorem restoreStone_admitted (s : State) (c st : Nat) : (restoreStone s c st).admitted = s.admitted := by
  simp [restoreStone]
@[simp] theorem spoilIntact_admitted (s : State) (c : Nat) : (spoilIntact s c).admitted = s.admitted := by simp [spoilIntact]

/-! ### Machine/CourseDma.lean -/

theorem dmaWriteRow_admitted {s t : State} {m : Dma} {i : Nat} {bs : List Byte} (e : dmaWriteRow s m i bs = some t) :
    t.admitted = s.admitted := by
  unfold dmaWriteRow at e
  dsimp only at e
  split at e
  · split at e <;> cases e
    simp
  · split at e
    · cases e; rfl
    · split at e
      · cases e
      · split at e
        · obtain ⟨p, -, rfl⟩ := Option.map_eq_some_iff.1 e
          simp
        · cases e; simp

/-! ### Machine/Window.lean -/

@[simp] theorem actWindowSet_admitted (q : Req) (s : State) : (actWindowSet q s).state.admitted = s.admitted := by
  simp [actWindowSet]
@[simp] theorem actWindowClear_admitted (q : Req) (s : State) : (actWindowClear q s).state.admitted = s.admitted := by
  simp [actWindowClear]
@[simp] theorem clearWindows_admitted (s : State) : (clearWindows s).admitted = s.admitted := by simp [clearWindows]

/-! ### Machine/Jobs.lean -/

@[simp] theorem newKey_admitted (s : State) : (newKey s).admitted = s.admitted := by simp [newKey]
@[simp] theorem enterConfigured_admitted (s : State) : (enterConfigured s).admitted = s.admitted := by simp [enterConfigured]
@[simp] theorem startRunning_admitted (s : State) : (startRunning s).admitted = s.admitted := by simp [startRunning]

@[simp] theorem actStateRequest_admitted (q : Req) (s : State) : (actStateRequest q s).state.admitted = s.admitted := by
  unfold actStateRequest
  (repeat' split) <;> simp

@[simp] theorem setStart_admitted (s : State) (id : Nat) (x : StartState) : (setStart s id x).admitted = s.admitted := by
  simp [setStart]

@[simp] theorem takePrepare_admitted (s : State) (v : Nat) (l : List Nat) : (takePrepare s v l).1.admitted = s.admitted := by
  unfold takePrepare
  split <;> simp

@[simp] theorem commitGroup_admitted (s : State) : (commitGroup s).admitted = s.admitted := by simp [commitGroup]

@[simp] theorem takeCommit_admitted (s : State) (id : Nat) : (takeCommit s id).1.admitted = s.admitted := by
  unfold takeCommit
  split <;> simp

@[simp] theorem takeRun_admitted (s : State) (id : Nat) : (takeRun s id).1.admitted = s.admitted := by
  unfold takeRun
  split <;> simp

@[simp] theorem takeAbort_admitted (s : State) (id : Nat) : (takeAbort s id).1.admitted = s.admitted := by
  unfold takeAbort
  split <;> simp

@[simp] theorem enterDraining_admitted (s : State) : (enterDraining s).admitted = s.admitted := by simp [enterDraining]

@[simp] theorem takeTeardown_admitted (s : State) : (takeTeardown s).1.admitted = s.admitted := by
  unfold takeTeardown
  split <;> simp

@[simp] theorem finishJobStep_admitted (s : State) (x : JobStep) : (finishJobStep s x).admitted = s.admitted := by
  simp [finishJobStep]
@[simp] theorem answerUp_admitted (s : State) (second : Bool) (answers : List (Nat × Nat)) :
    (answerUp s second answers).admitted = s.admitted := by simp [answerUp]

@[simp] theorem giveAnswers_admitted (s : State) (l : List (Nat × Nat)) : (giveAnswers s l).admitted = s.admitted := by
  unfold giveAnswers
  dsimp only
  (repeat' split) <;> simp

@[simp] theorem forwardJob_admitted (s : State) (k members op startId rec : Nat) :
    (forwardJob s k members op startId rec).admitted = s.admitted := by simp [forwardJob]

@[simp] theorem ownPart_admitted (s : State) (op v : Nat) (l : List Nat) : (ownPart s op v l).1.admitted = s.admitted := by
  unfold ownPart
  split <;> simp

@[simp] theorem actPondJobStep_admitted (q : Req) (l : List Nat) (s : State) :
    (actPondJobStep q l s).state.admitted = s.admitted := by
  unfold actPondJobStep
  extract_lets op v m marked forwarded stepped
  have h : stepped.admitted = s.admitted := by simp [stepped, forwarded, marked]
  clear_value stepped
  split_ifs
  · rfl
  · rfl
  · rfl
  · rfl
  · split <;> next e => simp [admitted_of_prod_eq e rfl, h]
  · simp [h]

@[simp] theorem actJobDirect_admitted (q : Req) (l : List Nat) (s : State) : (actJobDirect q l s).state.admitted = s.admitted := by
  unfold actJobDirect
  split
  · rfl
  · split <;> next e => simp [admitted_of_prod_eq e rfl]

@[simp] theorem memberOp_admitted (s : State) (fromPos : Option Nat) (op v : Nat) (l : List Nat) :
    (memberOp s fromPos op v l).admitted = s.admitted := by
  unfold memberOp
  split
  · split <;> next e => simp [admitted_of_prod_eq e rfl]
  · extract_lets noted m seen marked again kids sent r own
    have hn : sent.admitted = s.admitted := by simp [sent, marked, noted]
    have hr : r.1.admitted = s.admitted := by simp [r, hn]
    clear_value r
    split
    · rfl
    · split
      · simp
      · split
        · simp [← hr]
        · simp [← hr]

@[simp] theorem clearAqueducts_admitted (s : State) : (clearAqueducts s).admitted = s.admitted := by simp [clearAqueducts]

/-! ### Machine/Irq.lean -/

@[simp] theorem failProcessor_admitted (s : State) (f : Fault16) : (failProcessor s f).admitted = s.admitted := by
  simp [failProcessor]

@[simp] theorem stopParity_admitted (s : State) (f : Fault16) : (stopParity s f).admitted = s.admitted := by
  unfold stopParity
  (repeat' split) <;> simp

@[simp] theorem loseAccumulator_admitted (s : State) (f : Fault16) : (loseAccumulator s f).admitted = s.admitted := by
  unfold loseAccumulator
  dsimp only
  (repeat' split) <;> simp

@[simp] theorem ackRecords_admitted (s : State) (v : Nat) : (ackRecords s v).admitted = s.admitted := by simp [ackRecords]
@[simp] theorem actFaultAck_admitted (q : Req) (s : State) : (actFaultAck q s).state.admitted = s.admitted := by
  simp [actFaultAck]
@[simp] theorem setPondFault_admitted (s : State) (p v : Nat) : (setPondFault s p v).admitted = s.admitted := by
  simp [setPondFault]
@[simp] theorem sendSummary_admitted (s : State) : (sendSummary s).admitted = s.admitted := by simp [sendSummary]
@[simp] theorem setPending_admitted (s : State) (n : Nat) (v : Bool) : (setPending s n v).admitted = s.admitted := by
  simp [setPending]
@[simp] theorem samplePending_admitted (s : State) : (samplePending s).admitted = s.admitted := by simp [samplePending]
@[simp] theorem endInterrupt_admitted (s : State) (t n : Nat) : (endInterrupt s t n).admitted = s.admitted := by
  simp [endInterrupt]
@[simp] theorem actHostEoi_admitted (q : Req) (s : State) : (actHostEoi q s).state.admitted = s.admitted := by simp [actHostEoi]
@[simp] theorem actServe_admitted (n : Nat) (s : State) : (actServe n s).state.admitted = s.admitted := by simp [actServe]
@[simp] theorem actPending_admitted (w : Nat) (q : Req) (s : State) : (actPending w q s).state.admitted = s.admitted := by
  simp [actPending]
@[simp] theorem actSourceConfig_admitted (n : Nat) (q : Req) (s : State) :
    (actSourceConfig n q s).state.admitted = s.admitted := by simp [actSourceConfig]

/-! ### Machine/Levels.lean -/

@[simp] theorem markStale_admitted (s : State) : (markStale s).admitted = s.admitted := by simp [markStale]
@[simp] theorem afterRole_admitted (was : Bool) (s : State) : (afterRole was s).admitted = s.admitted := by simp [afterRole]

@[simp] theorem actPackageId_admitted (q : Req) (s : State) : (actPackageId q s).state.admitted = s.admitted := by
  unfold actPackageId
  extract_lets old new was tagged roled
  have h : roled.admitted = s.admitted := by simp [roled, tagged]
  clear_value roled
  rw [actState_done, ← h]
  split
  · rfl
  · exact forEach_admitted fun t p => by split <;> simp

@[simp] theorem actKeystone_admitted (q : Req) (s : State) : (actKeystone q s).state.admitted = s.admitted := by
  simp [actKeystone]

/-! ### Machine/Link.lean -/

@[simp] theorem resendFlits_admitted (s : State) : (resendFlits s).admitted = s.admitted := by
  unfold resendFlits
  exact forEach_admitted fun t x => by simp

@[simp] theorem retrainUmora_admitted (s : State) : (retrainUmora s).admitted = s.admitted := by simp [retrainUmora]
@[simp] theorem answerFlit_admitted (s : State) (nak : Bool) : (answerFlit s nak).admitted = s.admitted := by simp [answerFlit]
@[simp] theorem discardFlit_admitted (s : State) : (discardFlit s).admitted = s.admitted := by simp [discardFlit]
@[simp] theorem takeHeader_admitted (s : State) (f : Flit) : (takeHeader s f).admitted = s.admitted := by simp [takeHeader]
@[simp] theorem actLinkRetrain_admitted (s : State) : (actLinkRetrain s).state.admitted = s.admitted := by simp [actLinkRetrain]
@[simp] theorem failHostFills_admitted (s : State) : (failHostFills s).admitted = s.admitted := by simp [failHostFills]
@[simp] theorem setTimeValid_admitted (s : State) (v : Bool) : (setTimeValid s v).admitted = s.admitted := by simp [setTimeValid]
@[simp] theorem tickClock_admitted (s : State) : (tickClock s).admitted = s.admitted := by simp [tickClock]

/-! ### Machine/Power.lean -/

@[simp] theorem startWake_admitted (s : State) : (startWake s).admitted = s.admitted := by simp [startWake]
@[simp] theorem wakeNow_admitted (s : State) : (wakeNow s).admitted = s.admitted := by simp [wakeNow]
@[simp] theorem inPowerState_admitted (s : State) (k : Nat) : (inPowerState s k).admitted = s.admitted := by simp [inPowerState]
@[simp] theorem restoreStill_admitted (s : State) : (restoreStill s).admitted = s.admitted := by simp [restoreStill]
@[simp] theorem lockPlls_admitted (s : State) (mask : Nat) : (lockPlls s mask).admitted = s.admitted := by simp [lockPlls]
@[simp] theorem actWakeTolerance_admitted (q : Req) (s : State) : (actWakeTolerance q s).state.admitted = s.admitted := by
  simp [actWakeTolerance]
@[simp] theorem actPowerSetting_admitted (sub : Nat) (q : Req) (s : State) :
    (actPowerSetting sub q s).state.admitted = s.admitted := by simp [actPowerSetting]
@[simp] theorem thermalTrip_admitted (s : State) (a b : ℤ) : (thermalTrip s a b).admitted = s.admitted := by simp [thermalTrip]
@[simp] theorem pllUnlock_admitted (s : State) : (pllUnlock s).admitted = s.admitted := by simp [pllUnlock]
@[simp] theorem setInit_admitted (s : State) (b : Nat) : (setInit s b).admitted = s.admitted := by simp [setInit]

/-! ### Machine/Ring.lean -/

@[simp] theorem actSubmitDoorbell_admitted (q : Req) (s : State) : (actSubmitDoorbell q s).state.admitted = s.admitted := by
  simp [actSubmitDoorbell]
@[simp] theorem takeEntry_admitted (s : State) (c : Nat) : (takeEntry s c).admitted = s.admitted := by simp [takeEntry]
@[simp] theorem postEntry_admitted (s : State) (c : Nat) (e : RingEntry) (code : Nat) :
    (postEntry s c e code).admitted = s.admitted := by simp [postEntry]
@[simp] theorem refuseEntry_admitted (s : State) (c : Nat) (e : RingEntry) : (refuseEntry s c e).admitted = s.admitted := by
  simp [refuseEntry]
@[simp] theorem addStep_admitted (s : State) (c first : Nat) (desc : Nat → BitVec 256) (posts : List (Nat × Nat × Bool)) :
    (addStep s c first desc posts).admitted = s.admitted := by simp [addStep]
@[simp] theorem chunkStep_admitted (s : State) (c : Nat) (p : Prompt) (extra : List (Nat × Nat × Bool)) :
    (chunkStep s c p extra).admitted = s.admitted := by simp [chunkStep]

@[simp] theorem allChunks_admitted (c : Nat) (extra : List (Nat × Nat × Bool)) (f : Nat) (p : Prompt) (s : State) :
    (allChunks c extra f p s).admitted = s.admitted := by
  induction f generalizing p s with
  | zero => rfl
  | succ f ih =>
    unfold allChunks
    simp [ih]

@[simp] theorem flushPrompts_admitted (c : Nat) (extra : List (Nat × Nat × Bool)) (ps : List Prompt) (s : State) :
    (flushPrompts c extra ps s).admitted = s.admitted := by
  induction ps generalizing s with
  | nil => rfl
  | cons p ps ih =>
    cases ps with
    | nil => exact allChunks_admitted c extra _ p s
    | cons r ps => exact (ih _).trans (allChunks_admitted c [] _ p s)

@[simp] theorem formStep_admitted (s : State) (c i : Nat) (e : RingEntry) : (formStep s c i e).admitted = s.admitted := by
  unfold formStep
  dsimp only
  split <;> simp

@[simp] theorem actRingEnable_admitted (c : Nat) (q : Req) (s : State) : (actRingEnable c q s).state.admitted = s.admitted := by
  simp [actRingEnable]
@[simp] theorem actRingResume_admitted (c : Nat) (s : State) : (actRingResume c s).state.admitted = s.admitted := by
  simp [actRingResume]
@[simp] theorem actRingSet_admitted (c sub : Nat) (q : Req) (s : State) : (actRingSet c sub q s).state.admitted = s.admitted := by
  simp [actRingSet]
@[simp] theorem actResultRelease_admitted (m : Nat) (q : Req) (s : State) :
    (actResultRelease m q s).state.admitted = s.admitted := by simp [actResultRelease]
@[simp] theorem markRead_admitted (c m : Nat) (s : State) : (markRead c m s).admitted = s.admitted := by simp [markRead]

/-! ### Machine/Security.lean -/

@[simp] theorem newChallenge_admitted (s : State) : (newChallenge s).admitted = s.admitted := by simp [newChallenge]
@[simp] theorem actFirmwareLoad_admitted (q : Req) (s : State) : (actFirmwareLoad q s).state.admitted = s.admitted := by
  simp [actFirmwareLoad]
@[simp] theorem refuseFirmware_admitted (s : State) (status code : Nat) :
    (refuseFirmware s status code).admitted = s.admitted := by simp [refuseFirmware]
@[simp] theorem startFirmware_admitted (s : State) (f : FwImage) : (startFirmware s f).admitted = s.admitted := by
  simp [startFirmware]
@[simp] theorem actSecurityCommit_admitted (s : State) : (actSecurityCommit s).state.admitted = s.admitted := by
  simp [actSecurityCommit]
@[simp] theorem actOwnerKey_admitted (q : Req) (s : State) : (actOwnerKey q s).state.admitted = s.admitted := by
  simp [actOwnerKey]
@[simp] theorem actEndorsement_admitted (sigOk : Bool) (q : Req) (s : State) :
    (actEndorsement sigOk q s).state.admitted = s.admitted := by simp [actEndorsement]
@[simp] theorem actAttestNonce_admitted (q : Req) (s : State) : (actAttestNonce q s).state.admitted = s.admitted := by
  simp [actAttestNonce]
@[simp] theorem beginUnlock_admitted (s : State) : (beginUnlock s).admitted = s.admitted := by simp [beginUnlock]
@[simp] theorem actTestUnlock_admitted (sigOk : Bool) (q : Req) (s : State) :
    (actTestUnlock sigOk q s).state.admitted = s.admitted := by simp [actTestUnlock]

/-! ### Machine/Server.lean -/

@[simp] theorem actHotRing_admitted (q : Req) (s : State) : (actHotRing q s).state.admitted = s.admitted := by simp [actHotRing]
@[simp] theorem actFaultLog_admitted (q : Req) (s : State) : (actFaultLog q s).state.admitted = s.admitted := by
  simp [actFaultLog]
@[simp] theorem actLakeWindow_admitted (sub : Nat) (q : Req) (s : State) :
    (actLakeWindow sub q s).state.admitted = s.admitted := by simp [actLakeWindow]
@[simp] theorem actOwnRegion_admitted (idx sub : Nat) (q : Req) (s : State) :
    (actOwnRegion idx sub q s).state.admitted = s.admitted := by simp [actOwnRegion]
@[simp] theorem actRetention_admitted (sub : Nat) (q : Req) (s : State) : (actRetention sub q s).state.admitted = s.admitted := by
  simp [actRetention]
@[simp] theorem actClass_admitted (c : Nat) (q : Req) (s : State) : (actClass c q s).state.admitted = s.admitted := by
  simp [actClass]
@[simp] theorem actGroupSet_admitted (idx sub : Nat) (q : Req) (s : State) :
    (actGroupSet idx sub q s).state.admitted = s.admitted := by simp [actGroupSet]
@[simp] theorem actDictDoorbell_admitted (q : Req) (s : State) : (actDictDoorbell q s).state.admitted = s.admitted := by
  simp [actDictDoorbell]

theorem iteAct_admitted {c : Prop} [Decidable c] {f g : State → Act} {s : State} (hf : (f s).state.admitted = s.admitted)
    (hg : (g s).state.admitted = s.admitted) : ((if c then f else g) s).state.admitted = s.admitted := by
  split
  · exact hf
  · exact hg

@[simp] theorem actionLow_admitted (idx sub : Nat) (q : Req) (s : State) : (actionLow idx sub q s).state.admitted = s.admitted := by
  unfold actionLow
  repeat refine iteAct_admitted (by simp) ?_
  simp

@[simp] theorem actionMid_admitted (idx sub : Nat) (q : Req) (s : State) : (actionMid idx sub q s).state.admitted = s.admitted := by
  unfold actionMid
  repeat refine iteAct_admitted (by simp) ?_
  simp

@[simp] theorem afterRead_admitted (idx sub : Nat) (q : Req) (s : State) : (afterRead idx sub q s).admitted = s.admitted := by
  simp [afterRead]
@[simp] theorem answerRelay_admitted (s : State) (r : Relay) (code len value : Nat) :
    (answerRelay s r code len value).admitted = s.admitted := by simp [answerRelay]
@[simp] theorem slotAreaWrite_admitted (s : State) (offset width value : Nat) :
    (slotAreaWrite s offset width value).admitted = s.admitted := by simp [slotAreaWrite]

/-! ### Machine/Waits.lean -/

@[simp] theorem countWaits_admitted (s : State) : (countWaits s).admitted = s.admitted := by
  unfold countWaits
  split
  · rfl
  · exact forEach_admitted fun t k => by simp

end Sys2Proof.Machine
end

section
/-! PROOFS. No speculative choice is spilled (03 R83): the invariant, and the operations that write the ledger or
may reach one that does. -/

-- As in the tests: proofs elaborated side by side exhaust memory in the joined text.
set_option Elab.async false

namespace Sys2Proof.Machine

/-! ### The invariant on the ledger (03 R83) -/

/-- R83 for one choice of the ledger: a speculative one that was not sent again is in the main run and has no spill slot. -/
def Unspilled (a : Admitted) : Prop := a.claim.choice.spec = true → a.resend = false → a.part = 0 ∧ a.slot = none

/-- R83 for the ledger. -/
def AllUnspilled (l : List Admitted) : Prop := ∀ a ∈ l, Unspilled a

/-- Resent choices stand outside the admission (03 R94). -/
theorem unspilled_of_resend {a : Admitted} (h : a.resend = true) : Unspilled a :=
  fun _ hr => absurd (h.symm.trans hr) (by decide)

theorem unspilled_of_committed {a : Admitted} (h : a.claim.choice.spec = false) : Unspilled a :=
  fun hs => absurd (h.symm.trans hs) (by decide)

/-- Parts 1 and 2 hold committed and resent choices only. -/
theorem Unspilled.committed {a : Admitted} (h : Unspilled a) (hp : a.part ≠ 0) (hr : a.resend = false) :
    a.claim.choice.spec = false := by
  by_contra hs
  exact hp (h (Bool.not_eq_false _ ▸ hs) hr).1

/-- A choice keeps to R83 while it is the same choice in the same part and takes no slot. -/
theorem Unspilled.of_same {a b : Admitted} (h : Unspilled a) (hs : b.claim.choice.spec = a.claim.choice.spec)
    (hr : b.resend = a.resend) (hp : b.part = a.part) (hn : b.slot = a.slot ∨ b.slot = none) : Unspilled b := by
  intro hspec hresend
  obtain ⟨hpart, hslot⟩ := h (hs ▸ hspec) (hr ▸ hresend)
  exact ⟨hp.trans hpart, hn.elim (·.trans hslot) id⟩

theorem allUnspilled_append {l m : List Admitted} (hl : AllUnspilled l) (hm : AllUnspilled m) : AllUnspilled (l ++ m) :=
  List.forall_mem_append.2 ⟨hl, hm⟩

theorem AllUnspilled.filter {l : List Admitted} (h : AllUnspilled l) (p : Admitted → Bool) : AllUnspilled (l.filter p) :=
  fun a ha => h a (List.mem_filter.1 ha).1

theorem AllUnspilled.map {l : List Admitted} (h : AllUnspilled l) {f : Admitted → Admitted}
    (hf : ∀ a, Unspilled a → Unspilled (f a)) : AllUnspilled (l.map f) :=
  List.forall_mem_map.2 fun a ha => hf a (h a ha)

theorem forEach_unspilled {α : Type} {f : State → α → State} {l : List α} {s : State} (h : AllUnspilled s.admitted)
    (hf : ∀ t a, AllUnspilled t.admitted → AllUnspilled (f t a).admitted) : AllUnspilled (forEach s l f).admitted := by
  unfold forEach
  induction l generalizing s with
  | nil => exact h
  | cons a l ih => exact ih (hf s a h)

theorem allUnspilled_of_eq {s t : State} (h : AllUnspilled s.admitted) (e : t.admitted = s.admitted) : AllUnspilled t.admitted :=
  e ▸ h

/-! ### Issue and the dictionary server: what they do before and after the part that they are given -/

theorem issue_unspilled {s : State} {st : Nat} {ok : Bool} {srcs dsts : List (Nat × Nat)} {k : State → State}
    (h : AllUnspilled s.admitted) (hk : ∀ t, AllUnspilled t.admitted → AllUnspilled (k t).admitted) :
    AllUnspilled (issue s st ok srcs dsts k).admitted := by
  unfold issue
  split
  · exact h
  · split
    · simpa using h
    · split
      · simpa using h
      · exact hk _ h

theorem serveFront_unspilled {opcode idx sub : Nat} {q : Req} {step3 : Option Nat} {body : State → State} {s : State}
    (h : AllUnspilled s.admitted) (hb : ∀ t, AllUnspilled t.admitted → AllUnspilled (body t).admitted) :
    AllUnspilled (serveFront opcode idx sub q step3 body s).admitted := by
  have hq : AllUnspilled (takeRequest s q).admitted := by simpa using h
  unfold serveFront
  split
  · exact h
  · split
    · simpa using h
    · dsimp only
      split
      · simpa using hq
      · split
        · simpa using hq
        · split
          · simpa using hq
          · split
            · simpa using hq
            · split
              · simpa using hq
              · exact hb _ hq

theorem writeBody_unspilled {e : Entry} {idx sub : Nat} {q : Req} {act : State → Act} {s : State}
    (h : AllUnspilled s.admitted) (hact : ∀ t, AllUnspilled t.admitted → AllUnspilled (act t).state.admitted) :
    AllUnspilled (writeBody e idx sub q act s).admitted := by
  have ha := hact s h
  unfold writeBody
  split
  · simpa using h
  · split
    · simpa using h
    · split
      · simpa using h
      · split <;> next t e => simpa [e] using ha

@[simp] theorem serveWrite_unspilled {idx sub : Nat} {q : Req} {act : State → Act} {s : State} (h : AllUnspilled s.admitted)
    (hact : ∀ t, AllUnspilled t.admitted → AllUnspilled (act t).state.admitted) :
    AllUnspilled (serveWrite idx sub q act s).admitted := by
  refine serveFront_unspilled h fun t ht => ?_
  split
  · exact writeBody_unspilled ht hact
  · exact ht

@[simp] theorem serveRead_unspilled {idx sub : Nat} {q : Req} {value : State → Nat} {after : State → State} {s : State}
    (h : AllUnspilled s.admitted) (ha : ∀ t, (after t).admitted = t.admitted) :
    AllUnspilled (serveRead idx sub q value after s).admitted := by
  refine serveFront_unspilled h fun t ht => ?_
  split
  · unfold readBody
    split <;> simpa [ha] using ht
  · exact ht

@[simp] theorem serveAnyRead_unspilled {idx sub : Nat} {q : Req} {s : State} (h : AllUnspilled s.admitted) :
    AllUnspilled (serveAnyRead idx sub q s).admitted := serveRead_unspilled h (afterRead_admitted idx sub q)

@[simp] theorem serveDescribe_unspilled {idx sub : Nat} {q : Req} {s : State} (h : AllUnspilled s.admitted) :
    AllUnspilled (serveDescribe idx sub q s).admitted := by
  refine serveFront_unspilled h fun t ht => ?_
  split
  · exact ht
  · split <;> simpa using ht

@[simp] theorem serveNext_unspilled {idx sub : Nat} {q : Req} {s : State} (h : AllUnspilled s.admitted) :
    AllUnspilled (serveNext idx sub q s).admitted :=
  serveFront_unspilled h fun t ht => by simpa using ht

theorem memIssue_unspilled {s : State} {st : Nat} {ok : Bool} {srcs dsts : List (Nat × Nat)} {k : State → State}
    (h : AllUnspilled s.admitted) (hk : ∀ t, AllUnspilled t.admitted → AllUnspilled (k t).admitted) :
    AllUnspilled (memIssue s st ok srcs dsts k).admitted := by
  refine issue_unspilled h fun t ht => ?_
  split
  · simpa using ht
  · exact hk t ht

/-! ### Copies, verdicts and stranded choices (03 R84 to R98) -/

theorem resend_of_mem_resentEntries {s : State} {srcPkg : Nat} {d : TokenDesc} {a : Admitted}
    (h : a ∈ resentEntries s srcPkg d) : a.resend = true := by
  obtain ⟨r, -, rfl⟩ := List.mem_map.1 h
  rfl

/-- A copy only marks choices of the ledger as arrived, or adds resent ones (R94, R98). -/
theorem placeCopy_unspilled {s : State} {handle : Option Nat} {srcPkg : Nat} {d : TokenDesc} {payload : List Byte}
    (h : AllUnspilled s.admitted) : AllUnspilled (placeCopy s handle srcPkg d payload).admitted := by
  unfold placeCopy
  extract_lets stored buf es resent qs spilled queued placed
  have hs : stored.admitted = s.admitted := by
    unfold stored
    split <;> simp
  have hr : AllUnspilled resent.admitted := by
    refine allUnspilled_of_eq (s := { stored with admitted := stored.admitted ++ es }) ?_ (forEach_admitted fun t a => by simp)
    refine allUnspilled_append (hs ▸ h) (List.forall_mem_map.2 fun a ha => ?_)
    have hresend : a.resend = true := resend_of_mem_resentEntries ha
    exact unspilled_of_resend hresend
  have hq : queued.admitted = s.admitted :=
    (forEach_admitted fun t a => by simp).trans ((forEach_admitted fun t a => by split <;> simp).trans hs)
  have hp : AllUnspilled placed.admitted := by
    refine (hq ▸ h : AllUnspilled queued.admitted).map fun a ha => ?_
    split
    · exact ha.of_same rfl rfl rfl (.inl rfl)
    · split
      · exact ha.of_same rfl rfl rfl (.inl rfl)
      · exact ha
  clear_value resent placed es buf
  split
  · split
    · simpa using hr
    · exact hr
  · split
    · simpa using hp
    · exact hp

theorem acceptCopy_unspilled {s : State} {srcPkg : Nat} {d : TokenDesc} {payload : List Byte} (h : AllUnspilled s.admitted) :
    AllUnspilled (acceptCopy s srcPkg d payload).admitted := by
  unfold acceptCopy
  split
  · split
    · next t b e => exact placeCopy_unspilled (allUnspilled_of_eq h (by simp [admitted_of_prod_eq e rfl]))
    · next t e => exact allUnspilled_of_eq h (by simp [admitted_of_prod_eq e rfl])
  · split
    · exact placeCopy_unspilled h
    · simpa using h

theorem sendCopy_unspilled {s : State} {c : Conf} {dest fanout spill target : Nat} {resend alternate : Bool}
    (h : AllUnspilled s.admitted) : AllUnspilled (sendCopy s c dest fanout spill target resend alternate).admitted := by
  unfold sendCopy
  dsimp only
  split
  · exact acceptCopy_unspilled (by simpa using h)
  · simpa using h

theorem copyFor_unspilled {s : State} {c : Conf} {pkg : Nat} (h : AllUnspilled s.admitted) :
    AllUnspilled (copyFor s c pkg).admitted := by
  unfold copyFor
  dsimp only
  split
  · exact h
  · rw [countBy_admitted]
    exact sendCopy_unspilled h

theorem takeVerdicts_unspilled {s : State} {srcPkg : Nat} {cs : List Choice} (h : AllUnspilled s.admitted) :
    AllUnspilled (takeVerdicts s srcPkg cs).admitted := by
  unfold takeVerdicts
  extract_lets keyOf allIn due noted copied
  have hn : AllUnspilled noted.admitted := allUnspilled_of_eq h (forEach_admitted fun t c => by simp)
  have hc : AllUnspilled copied.admitted := by
    refine forEach_unspilled hn fun t k ht => ?_
    split
    · split
      · exact copyFor_unspilled ht
      · exact ht
    · exact ht
  simpa using hc

theorem giveVerdicts_unspilled {s : State} {cs : List Choice} (h : AllUnspilled s.admitted) :
    AllUnspilled (giveVerdicts s cs).admitted := by
  refine forEach_unspilled h fun t p ht => ?_
  dsimp only
  split
  · exact takeVerdicts_unspilled ht
  · simpa using ht

/-- A stranded choice leaves the ledger, or stays in its part without its slot (R82, R93). -/
theorem strandChoices_unspilled {s : State} {p : Admitted → Bool} (h : AllUnspilled s.admitted) :
    AllUnspilled (strandChoices s p).admitted := by
  unfold strandChoices
  extract_lets hit ls released stranded windowed cs
  have hr : released.admitted = s.admitted := forEach_admitted fun t b => by simp
  have hs : AllUnspilled stranded.admitted := by
    refine ((hr ▸ h : AllUnspilled released.admitted).filter _).map fun a ha => ?_
    split
    · exact ha.of_same rfl rfl rfl (.inr rfl)
    · exact ha
  have hw : AllUnspilled windowed.admitted := allUnspilled_of_eq hs (forEach_admitted fun t a => by simp)
  exact giveVerdicts_unspilled (allUnspilled_of_eq hw (forEach_admitted fun t c => by simp))

theorem resendRank_unspilled {s : State} {k : TokKey} {r : Nat} {rep : Replica} {alternate : Bool} (h : AllUnspilled s.admitted) :
    AllUnspilled (resendRank s k r rep alternate).admitted := by
  unfold resendRank
  split
  · exact h
  · exact sendCopy_unspilled (by simpa using h)

theorem resendStranded_unspilled {s : State} {c layer expert : Nat} {block : List Replica} (h : AllUnspilled s.admitted) :
    AllUnspilled (resendStranded s c layer expert block).admitted := by
  refine forEach_unspilled h fun t f ht => forEach_unspilled ht fun u p hu => ?_
  split
  · split
    · exact resendRank_unspilled hu
    · exact hu
  · exact hu

/-! ### Admission (03 R79 to R84) -/

/-- What the first pass makes of a choice: it keeps the ledger entry, and spills no new speculative choice (R81, R83). -/
def PassedFrom (x y : Adm) : Prop :=
  x.a = y.a ∧ x.carried = y.carried ∧ (y.carried = false → y.a.claim.choice.spec = true → x.out ≠ 1)

theorem passedFrom_out {y : Adm} {n : Nat} (h : y.carried = true ∨ y.a.claim.choice.spec = false ∨ n ≠ 1) :
    PassedFrom { y with out := n } y := by
  refine ⟨rfl, rfl, fun hc hs => ?_⟩
  rcases h with h | h | h
  · exact absurd (h.symm.trans hc) (by decide)
  · exact absurd (h.symm.trans hs) (by decide)
  · exact h

/-- The first pass decides about the choice at its head, and goes on with the counters that are left. -/
theorem admitPass_cons (fenced : List Nat) (cap : Nat) (y : Adm) (l : List Adm) (used : Tbl Nat) (free : Nat) :
    ∃ n used' free', admitPass fenced cap (y :: l) used free = { y with out := n } :: admitPass fenced cap l used' free' ∧
      (y.carried = true ∨ y.a.claim.choice.spec = false ∨ n ≠ 1) := by
  rw [admitPass]
  split
  · next hc => split_ifs <;> exact ⟨_, _, _, rfl, .inl hc⟩
  · split
    · exact ⟨_, _, _, rfl, .inr (.inr (by decide))⟩
    · split
      · exact ⟨_, _, _, rfl, .inr (.inr (by decide))⟩
      · split
        · exact ⟨_, _, _, rfl, .inr (.inr (by decide))⟩
        · next hs => split_ifs <;> exact ⟨_, _, _, rfl, .inr (.inl (Bool.not_eq_true _ ▸ hs))⟩

theorem exists_of_mem_admitPass {fenced : List Nat} {cap : Nat} {l : List Adm} {used : Tbl Nat} {free : Nat} {x : Adm}
    (hx : x ∈ admitPass fenced cap l used free) : ∃ y ∈ l, PassedFrom x y := by
  induction l generalizing used free with
  | nil => cases hx
  | cons y l ih =>
    obtain ⟨n, used', free', e, hn⟩ := admitPass_cons fenced cap y l used free
    rw [e] at hx
    rcases List.mem_cons.1 hx with rfl | hx
    · exact ⟨y, List.mem_cons_self, passedFrom_out hn⟩
    · obtain ⟨z, hz, hp⟩ := ih hx
      exact ⟨z, List.mem_cons_of_mem y hz, hp⟩

/-- The second pass sets the part of the run, main run for all that did not spill, and nothing else (R81). -/
def SlackFrom (x y : Adm) : Prop :=
  x.carried = y.carried ∧ x.out = y.out ∧ x.a = { y.a with part := x.a.part } ∧ (x.out ≠ 1 → x.a.part = 0)

theorem slackPass_cons (slack : Nat) (y : Adm) (l : List Adm) (left : Tbl Nat) :
    ∃ n left', slackPass slack (y :: l) left = { y with a := { y.a with part := n } } :: slackPass slack l left' ∧
      (y.out ≠ 1 → n = 0) := by
  rw [slackPass]
  split
  · next ho =>
    dsimp only
    split <;> exact ⟨_, _, rfl, fun h => absurd ho h⟩
  · exact ⟨_, _, rfl, fun _ => rfl⟩

theorem exists_of_mem_slackPass {slack : Nat} {l : List Adm} {left : Tbl Nat} {x : Adm} (hx : x ∈ slackPass slack l left) :
    ∃ y ∈ l, SlackFrom x y := by
  induction l generalizing left with
  | nil => cases hx
  | cons y l ih =>
    obtain ⟨n, left', e, hn⟩ := slackPass_cons slack y l left
    rw [e] at hx
    rcases List.mem_cons.1 hx with rfl | hx
    · exact ⟨y, List.mem_cons_self, rfl, rfl, rfl, hn⟩
    · obtain ⟨z, hz, hp⟩ := ih hx
      exact ⟨z, List.mem_cons_of_mem y hz, hp⟩

/-- A choice after both passes: its claim is the one that came in; carried, it is a choice carried before; new and
speculative, it is in the main run, if in any. -/
theorem of_mem_bothPasses {fenced : List Nat} {cap slack free : Nat} {olds : List Admitted} {cs : List Claim} {x : Adm}
    (hx : x ∈ slackPass slack (admitPass fenced cap (olds.map (fun a => { a := a, carried := true, out := 0 }) ++
      cs.map (fun c => { a := newAdmitted c, carried := false, out := 0 })) [] free) []) :
    (x.carried = true → ∃ a ∈ olds, x.a = { a with part := x.a.part }) ∧
      (x.carried = false → x.a.claim.choice.spec = true → x.out ≠ 1 ∧ x.a.part = 0) := by
  obtain ⟨y, hy, hxc, hxo, hxa, hpart⟩ := exists_of_mem_slackPass hx
  obtain ⟨z, hz, hya, hyc, hspill⟩ := exists_of_mem_admitPass hy
  have hclaim : x.a.claim = z.a.claim := by rw [hxa, hya]
  refine ⟨fun hc => ?_, fun hc hs => ?_⟩
  · rcases List.mem_append.1 hz with hz | hz
    · obtain ⟨a, ha, rfl⟩ := List.mem_map.1 hz
      rw [hya] at hxa
      exact ⟨a, ha, hxa⟩
    · obtain ⟨c, -, rfl⟩ := List.mem_map.1 hz
      exact Bool.noConfusion (hyc.symm.trans (hxc.symm.trans hc) : false = true)
  · have ho : x.out ≠ 1 := hxo ▸ hspill (hyc.symm.trans (hxc.symm.trans hc)) (hclaim ▸ hs)
    exact ⟨ho, hpart ho⟩

theorem joinRun_unspilled {s : State} {gen : Nat} {a : Admitted} (h : Unspilled a) : Unspilled (joinRun s gen a) := by
  unfold joinRun
  dsimp only
  split
  · next hj => exact unspilled_of_resend hj.1
  · exact h

/-- An admission: the choices carried into it are committed, and a new speculative one is admitted to the main run or not at
all (R81 to R83). -/
theorem admitChoices_unspilled {s : State} {c layer gen : Nat} (h : AllUnspilled s.admitted) :
    AllUnspilled (admitChoices s c layer gen).admitted := by
  unfold admitChoices
  extract_lets ord fs effective ended mine isOld olds cs com spc cap l0 l news spilled sl news' strands keepOld keepNew reps
    admittedS fetched reported vs verdicts
  have he : AllUnspilled ended.admitted := by simpa [ended, effective] using h
  have hold : AllUnspilled keepOld := by
    refine List.forall_mem_map.2 fun x hx => unspilled_of_committed ?_
    obtain ⟨hxl, hx⟩ := List.mem_filter.1 hx
    simp only [Bool.and_eq_true] at hx
    obtain ⟨⟨hcarried, -⟩, -⟩ := hx
    obtain ⟨a, ha, hxa⟩ := (of_mem_bothPasses hxl).1 hcarried
    obtain ⟨hae, ha⟩ := List.mem_filter.1 ha
    simp only [isOld, Bool.and_eq_true, beq_iff_eq, Bool.not_eq_true'] at ha
    obtain ⟨⟨-, hpart⟩, hresend⟩ := ha
    rw [hxa]
    exact (he a hae).committed (by omega) hresend
  have hnew : AllUnspilled keepNew := by
    refine List.forall_mem_map.2 fun x hx => ?_
    obtain ⟨y, hy, rfl⟩ := List.mem_map.1 (List.mem_filter.1 hx).1
    obtain ⟨hyl, hy⟩ := List.mem_filter.1 hy
    intro hs _
    obtain ⟨ho, hp⟩ := (of_mem_bothPasses hyl).2 (by simpa using hy) hs
    exact ⟨hp, if_neg ho⟩
  have ha : AllUnspilled admittedS.admitted := by
    refine allUnspilled_append (allUnspilled_append ((he.filter _).map fun a ha => ?_) hold) hnew
    split
    · exact joinRun_unspilled ha
    · exact ha
  have hf : AllUnspilled fetched.admitted := by
    refine allUnspilled_of_eq ha (forEach_admitted fun t p => ?_)
    extract_lets windowed ys
    split
    · split
      · simp [windowed]
      · simp [windowed]
    · simp [windowed]
  have hv : AllUnspilled verdicts.admitted :=
    giveVerdicts_unspilled (allUnspilled_of_eq hf ((forEach_admitted fun t v => by simp).trans (by simp [reported])))
  exact strandChoices_unspilled hv

/-! ### Runs and their parts (03 R88, R102; 04 R140 to R145) -/

theorem consumeBatch_unspilled {s : State} {r : RunSt} (h : AllUnspilled s.admitted) :
    AllUnspilled (consumeBatch s r).admitted := by
  unfold consumeBatch
  extract_lets es released emptied
  have hr : released.admitted = s.admitted := forEach_admitted fun t b => by simp
  have he : AllUnspilled emptied.admitted := by
    refine (hr ▸ h : AllUnspilled released.admitted).map fun a ha => ?_
    split
    · exact ha.of_same rfl rfl rfl (.inr rfl)
    · exact ha
  simpa using he

theorem stageOne_unspilled {s t : State} {c st : Nat} {own : ERun} (h : AllUnspilled s.admitted)
    (e : stageOne s c st own = some t) : AllUnspilled t.admitted := by
  unfold stageOne at e
  extract_lets rs at e
  split at e
  · cases e
  · extract_lets d n rows passed staged taken stored ended at e
    cases e
    have hs : staged.admitted = s.admitted :=
      (modRun_admitted ..).trans (forEach_admitted fun t a => by split <;> simp)
    have ht : AllUnspilled taken.admitted := by
      refine (hs ▸ h : AllUnspilled staged.admitted).map fun a ha => ?_
      split
      · exact ha.of_same rfl rfl rfl (.inl rfl)
      · exact ha
    have he : AllUnspilled ended.admitted := allUnspilled_of_eq ht (by simp [ended, stored])
    split
    · exact consumeBatch_unspilled he
    · exact he

theorem stageRun_unspilled {s : State} {st : Nat} (h : AllUnspilled s.admitted) : AllUnspilled (stageRun s st).admitted := by
  unfold stageRun
  split
  · exact h
  · next c _ =>
    cases e : (stoneOf s st).eruns.findSome? (stageOne s c st) with
    | none => exact h
    | some t =>
      obtain ⟨own, -, hown⟩ := List.exists_of_findSome?_eq_some e
      exact stageOne_unspilled h hown

theorem missPart_unspilled {s : State} {r : RunSt} (h : AllUnspilled s.admitted) : AllUnspilled (missPart s r).1.admitted := by
  unfold missPart
  extract_lets es released missed cs far
  have hr : released.admitted = s.admitted := forEach_admitted fun t b => by simp
  have hm : AllUnspilled missed.admitted := by
    refine ((hr ▸ h : AllUnspilled released.admitted).filter _).map fun a ha => ?_
    split
    · exact ha.of_same rfl rfl rfl (.inr rfl)
    · exact ha
  exact allUnspilled_of_eq hm (forEach_admitted fun t p => by simp)

theorem tryAlternates_unspilled {k : TokKey} {r : Nat} (f : Nat) {s : State} (h : AllUnspilled s.admitted) :
    AllUnspilled (tryAlternates k r f s).admitted := by
  induction f generalizing s with
  | zero => simpa [tryAlternates] using h
  | succ f ih =>
    unfold tryAlternates
    split
    · exact h
    · split
      · simpa using h
      · extract_lets tried bay b
        have ht : AllUnspilled tried.admitted := allUnspilled_of_eq h (modConf_admitted ..)
        split
        · exact ih ht
        · split
          · exact ih ht
          · split
            · exact ih ht
            · exact resendRank_unspilled ht

theorem takeMiss_unspilled {s : State} {k : TokKey} {r : Nat} (h : AllUnspilled s.admitted) :
    AllUnspilled (takeMiss s k r).admitted := by
  unfold takeMiss
  split
  · exact h
  · split
    · simpa using tryAlternates_unspilled 16 h
    · exact h

/-! ### Cistern grants, returns and bad windows (09 R284, 03 R103 to R112, 04 R150) -/

theorem goOn_unspilled {s : State} {b : Nat} {op : WaitOp} (h : AllUnspilled s.admitted) : AllUnspilled (goOn s b op).admitted := by
  cases op with
  | copy p d bs => exact placeCopy_unspilled h
  | ret r bs => simpa [goOn] using h
  | output n k => simpa [goOn] using h
  | dma st => simpa [goOn] using h

theorem grantOldest_unspilled {pool : Nat} {s : State} {l : List BufReq} (h : AllUnspilled s.admitted) :
    AllUnspilled (grantOldest pool s l).admitted := by
  induction l generalizing s with
  | nil => exact h
  | cons q l ih =>
    unfold grantOldest
    split
    · next u b e => exact goOn_unspilled (allUnspilled_of_eq h (by simp [admitted_of_prod_eq e rfl]))
    · next u e => exact ih (allUnspilled_of_eq h (by simp [admitted_of_prod_eq e rfl]))

theorem sendReturn_unspilled {s : State} {st ctx fmt : Nat} {shadow : Bool} {e : Nat} {row : List Byte}
    (h : AllUnspilled s.admitted) : AllUnspilled (sendReturn s st ctx fmt shadow e row).admitted := by
  unfold sendReturn
  extract_lets dest counted sent isIt firsts finished
  have hs : sent.admitted = s.admitted := (forEach_admitted fun t p => by simp).trans (by simp [counted])
  have hf : AllUnspilled finished.admitted := by
    refine AllUnspilled.filter ((hs ▸ h : AllUnspilled sent.admitted).map fun a ha => ?_) _
    split
    · exact ha.of_same rfl rfl rfl (.inl rfl)
    · exact ha
  exact allUnspilled_of_eq hf (forEach_admitted fun t f => by simp)

theorem strandObject_unspilled {s : State} {c : Nat} {d : ObjDesc} (h : AllUnspilled s.admitted) :
    AllUnspilled (strandObject s c d).admitted := strandChoices_unspilled h

theorem markBad_unspilled {s : State} {c obj : Nat} {d : ObjDesc} (h : AllUnspilled s.admitted) :
    AllUnspilled (markBad s c obj d).admitted := strandObject_unspilled h

/-! ### Fences and reads of stone SRAM (05 R190 to R195) -/

theorem fenceStone_unspilled {s : State} {st : Nat} (h : AllUnspilled s.admitted) : AllUnspilled (fenceStone s st).admitted := by
  unfold fenceStone
  split
  · exact h
  · extract_lets free d o marked raised dropped stranded aborted
    have hs : AllUnspilled stranded.admitted := strandChoices_unspilled (allUnspilled_of_eq h (by simp [dropped, raised, marked]))
    have ha : AllUnspilled aborted.admitted := allUnspilled_of_eq hs (forEach_admitted fun t co => by simp)
    simpa using ha

theorem fenceMany_unspilled {s : State} {l : List Nat} (h : AllUnspilled s.admitted) : AllUnspilled (fenceMany s l).admitted :=
  forEach_unspilled h fun _ _ => fenceStone_unspilled

theorem wordError_unspilled {s : State} {scrub : Bool} {st off : Nat} (h : AllUnspilled s.admitted) :
    AllUnspilled (wordError s scrub st off).1.admitted := by
  unfold wordError
  extract_lets w again noted
  have hn : AllUnspilled noted.admitted := h
  clear_value noted
  split
  · exact fenceStone_unspilled (by simpa using hn)
  · split <;> simpa using hn

section
variable {k : State → State} (hk : ∀ t, AllUnspilled t.admitted → AllUnspilled (k t).admitted)
include hk

theorem readError_unspilled {s : State} {st off : Nat} (h : AllUnspilled s.admitted) :
    AllUnspilled (readError s st off k).admitted := by
  have hw := wordError_unspilled (scrub := false) (st := st) (off := off) h
  unfold readError
  dsimp only
  split
  · exact hk _ hw
  · split
    · exact hw
    · split
      · simpa using hw
      · exact hw

theorem readWords_unspilled (n : Nat) {s : State} {st : Nat} {l : List (Nat × Nat)} (h : AllUnspilled s.admitted) :
    AllUnspilled (readWords n s st l k).admitted := by
  induction n generalizing s with
  | zero => exact hk s h
  | succ n ih =>
    unfold readWords
    split
    · exact hk s h
    · exact readError_unspilled (fun _ => ih) h

theorem readRanges_unspilled {s : State} {st : Nat} {srcs dsts : List (Nat × Nat)} (h : AllUnspilled s.admitted) :
    AllUnspilled (readRanges s st srcs dsts k).admitted := readWords_unspilled hk _ h

theorem readSram_unspilled {s : State} {st : Nat} {r : SramRead} {srcs dsts : List (Nat × Nat)} (h : AllUnspilled s.admitted) :
    AllUnspilled (readSram s st r srcs dsts k).admitted := by
  cases r with
  | clean => exact readRanges_unspilled hk h
  | corrected off => exact readRanges_unspilled hk (by simpa using h)
  | uncorrectable off => exact readError_unspilled (fun _ => readRanges_unspilled hk) h

end

theorem unitRead_unspilled (n : Nat) {s : State} {st : Nat} {r : Nat × Nat} (h : AllUnspilled s.admitted) :
    AllUnspilled (unitRead n s st r).1.admitted := by
  induction n generalizing s with
  | zero => exact h
  | succ n ih =>
    unfold unitRead
    split
    · exact h
    · next off _ =>
      have hw := wordError_unspilled (scrub := false) (st := st) (off := off) h
      dsimp only
      split
      · exact ih hw
      · exact hw

/-! ### Instructions that several commands share -/

theorem post_unspilled {want st : Nat} {hd : IHdr} {o : Operands} {s : State} (h : AllUnspilled s.admitted) :
    AllUnspilled (post want st hd o s).admitted := by
  unfold post
  extract_lets off d handle eager soc ctx n rank srcs dsts
  split
  · exact h
  · refine issue_unspilled h fun t ht => ?_
    split
    · simpa using ht
    · split
      · simpa using ht
      · refine readRanges_unspilled (fun u hu => ?_) ht
        dsimp only
        split
        · simpa using hu
        · split <;> simpa using hu

theorem issueProduct_unspilled {sparse : Bool} {st : Nat} {hd : IHdr} {o : Operands} {rd : SramRead} {s : State}
    (h : AllUnspilled s.admitted) : AllUnspilled (issueProduct sparse st hd o rd s).admitted := by
  refine issue_unspilled h fun t ht => ?_
  split
  · simpa using ht
  · refine readSram_unspilled (fun u hu => ?_) ht
    split <;> simpa using hu

theorem endTile_unspilled {st : Nat} {sparse : Bool} {us : List Upset} {busy : Nat} {t : Tile} {rest : List Tile} {s : State}
    (h : AllUnspilled s.admitted) : AllUnspilled (endTile st sparse us busy t rest s).admitted := by
  unfold endTile
  extract_lets x counted
  have hc : AllUnspilled counted.admitted := allUnspilled_of_eq h (by simp [counted])
  clear_value counted
  split
  · simpa using hc
  · split
    · exact fenceStone_unspilled hc
    · simpa using hc

theorem compressor_unspilled {mode st : Nat} {hd : IHdr} {o : Operands} {s : State} (h : AllUnspilled s.admitted) :
    AllUnspilled (compressor mode st hd o s).admitted := by
  unfold compressor
  extract_lets src dst aux hd mh srcs
  split
  · exact h
  · refine issue_unspilled h fun t ht => ?_
    split
    · simpa using ht
    · refine readRanges_unspilled (fun u hu => ?_) ht
      extract_lets done
      have hd : done.admitted = u.admitted := by
        unfold done
        split <;> simp
      clear_value done
      simpa [hd] using hu

theorem epochStepRow_unspilled {op : Nat} {q : Req} {s : State} (h : AllUnspilled s.admitted) :
    AllUnspilled (epochStepRow op q s).admitted := by
  unfold epochStepRow
  split
  · exact h
  · simp [h]

theorem afterScalars_unspilled {s : State} {st : Nat} {rs : List Nat} {k : State → State} (h : AllUnspilled s.admitted)
    (hk : AllUnspilled (k s).admitted) : AllUnspilled (afterScalars s st rs k).admitted := by
  unfold afterScalars
  split
  · simpa using h
  · exact hk

theorem atomic_unspilled {aop st : Nat} {hd : IHdr} {o : Operands} {s : State} (h : AllUnspilled s.admitted) :
    AllUnspilled (atomic aop st hd o s).admitted := by
  unfold atomic
  extract_lets r w lake opOff resOff opLen noret a dsts
  refine memIssue_unspilled h fun t ht => ?_
  split
  · simpa using ht
  · split
    · simpa using ht
    · exact readRanges_unspilled (fun u hu => by simpa using hu) ht

/-! ### Contexts that leave (13 R430, R436) -/

theorem dropCtxWork_unspilled {s : State} {c : Nat} (h : AllUnspilled s.admitted) : AllUnspilled (dropCtxWork s c).admitted :=
  allUnspilled_of_eq (t := dropCtxWork s c) (h.filter (fun a => a.claim.choice.ctx != c)) (forEach_admitted fun t st => by simp)

theorem releaseCtx_unspilled {s : State} {c : Nat} (h : AllUnspilled s.admitted) : AllUnspilled (releaseCtx s c).admitted := by
  unfold releaseCtx
  extract_lets left released
  have hl : released.admitted = s.admitted := by simp [released, left]
  simpa using dropCtxWork_unspilled (hl ▸ h : AllUnspilled released.admitted)

theorem unloadAll_unspilled {s : State} (h : AllUnspilled s.admitted) : AllUnspilled (unloadAll s).admitted :=
  forEach_unspilled h fun t c ht => releaseCtx_unspilled (by simpa using ht)

theorem enterClean_unspilled {s : State} (h : AllUnspilled s.admitted) : AllUnspilled (enterClean s).admitted := by
  unfold enterClean
  extract_lets unloaded cleared emptied zeroed
  have hc : AllUnspilled cleared.admitted := by simpa [cleared] using unloadAll_unspilled h
  have he : AllUnspilled emptied.admitted := hc
  clear_value emptied
  simpa [zeroed] using he

/-! ### The course DMA (05 R181 to R183) -/

theorem dmaReadRow_unspilled {s : State} {m : Dma} {i : Nat} {outside : List Byte} (h : AllUnspilled s.admitted) :
    AllUnspilled (dmaReadRow s m i outside).1.admitted := by
  unfold dmaReadRow
  extract_lets a n w st
  split
  · split
    · exact h
    · have hu := unitRead_unspilled s.badWords.length (st := st) (r := (a % 2 ^ 18, n)) h
      split <;> next e =>
        rw [e] at hu
        simpa using hu
  · split
    · exact h
    · split
      · exact h
      · split
        · split <;> simpa using h
        · exact h

theorem dmaRun_unspilled {m : Dma} {stop : Option Nat} (k : Nat) {i n : Nat} {s : State} {ext : List Byte}
    (h : AllUnspilled s.admitted) : AllUnspilled (dmaRun m stop k i s ext n).1.admitted := by
  induction k generalizing i s ext n with
  | zero => exact h
  | succ k ih =>
    have hr := dmaReadRow_unspilled (m := m) (i := i) (outside := ext) h
    unfold dmaRun
    split
    · exact h
    · split
      · next t e => rwa [e] at hr
      · next t row rest e =>
        rw [e] at hr
        split
        · split
          · simpa using hr
          · exact hr
        · next u hu => exact ih (allUnspilled_of_eq hr (by simp [dmaWriteRow_admitted hu]))

/-! ### Writes of dictionary entries (14 R471) -/

theorem iteAct_unspilled {c : Prop} [Decidable c] {f g : State → Act} {s : State} (hf : AllUnspilled (f s).state.admitted)
    (hg : AllUnspilled (g s).state.admitted) : AllUnspilled ((if c then f else g) s).state.admitted := by
  split
  · exact hf
  · exact hg

@[simp] theorem actFenceStone_unspilled {q : Req} {s : State} (h : AllUnspilled s.admitted) :
    AllUnspilled (actFenceStone q s).state.admitted := fenceStone_unspilled h

theorem actionHigh_unspilled {idx sub : Nat} {q : Req} {s : State} (h : AllUnspilled s.admitted) :
    AllUnspilled (actionHigh idx sub q s).state.admitted := by
  unfold actionHigh
  repeat refine iteAct_unspilled (by simp [h]) ?_
  simpa using h

@[simp] theorem actionOf_unspilled {idx sub : Nat} {q : Req} {s : State} (h : AllUnspilled s.admitted) :
    AllUnspilled (actionOf idx sub q s).state.admitted := by
  unfold actionOf
  exact iteAct_unspilled (by simpa using h) (iteAct_unspilled (by simpa using h) (actionHigh_unspilled h))

theorem serveOp_unspilled {opcode idx sub : Nat} {q : Req} {s : State} (h : AllUnspilled s.admitted) :
    AllUnspilled (serveOp opcode idx sub q s).admitted := by
  unfold serveOp
  split
  · exact serveAnyRead_unspilled h
  · split
    · exact serveWrite_unspilled h fun _ => actionOf_unspilled
    · split
      · exact serveDescribe_unspilled h
      · split
        · exact serveNext_unspilled h
        · simpa using h

/-! ### Packets that a switch takes (10 R324) -/

/-- What a packet leaves behind when it goes is queues and credits. -/
theorem take_admitted_of_mem_arrivals {u t : State} {a : Arrival} {g : Head} (h : g ∈ arrivals u a) :
    (g.2.2.2.2 t).admitted = t.admitted := by
  cases a with
  | injection w =>
    obtain ⟨x, -, rfl⟩ := List.mem_map.1 h
    rfl
  | port p =>
    obtain ⟨x, -, e⟩ := List.mem_filterMap.1 h
    split at e <;> cases e
    simp
  | bridge w =>
    obtain ⟨x, -, e⟩ := List.mem_filterMap.1 h
    split at e <;> cases e
    rfl

theorem take_admitted_of_arrivalHead {u t : State} {a : Arrival} {g : Head} (h : arrivalHead u a = some g) :
    (g.2.2.2.2 t).admitted = t.admitted :=
  take_admitted_of_mem_arrivals (mem_of_mem_bufferHeads (List.mem_of_find?_eq_some h))

end Sys2Proof.Machine
end

section
/-! PROOFS. No command spills a speculative choice: the commands of stones, routers, memory and collectives. -/

-- As in the tests: proofs elaborated side by side exhaust memory in the joined text.
set_option Elab.async false

namespace Sys2Proof.Machine

/-! ### Outcomes -/

/-- The state that an outcome leads to, if any, keeps to R83. -/
def NextUnspilled (r : Res) : Prop := ∀ t, r = .next t → AllUnspilled t.admitted

theorem nextUnspilled_next {s : State} (h : AllUnspilled s.admitted) : NextUnspilled (.next s) := by
  intro t e
  cases e
  exact h

theorem nextUnspilled_run {s : State} {f : State → State} (h : AllUnspilled s.admitted) (hf : AllUnspilled (f s).admitted) :
    NextUnspilled (run s f) := by
  unfold run
  split
  · exact nextUnspilled_next h
  · exact nextUnspilled_next hf

section
variable {s : State} (hs : AllUnspilled s.admitted)
include hs

/-! ### Machine/Pools.lean -/

@[simp] theorem execListRebuildComplete_unspilled (pool : Nat) : NextUnspilled (execListRebuildComplete pool s) :=
  nextUnspilled_run hs (by simp [hs])

/-! ### Machine/Pond.lean -/

@[simp] theorem execMemoryLoad_unspilled (st : Nat) (h : IHdr) (o : Operands) : NextUnspilled (execMemoryLoad st h o s) :=
  nextUnspilled_run hs (issue_unspilled hs fun t ht => by simp [ht])
@[simp] theorem execMemoryFence_unspilled (st : Nat) (h : IHdr) (o : Operands) : NextUnspilled (execMemoryFence st h o s) :=
  nextUnspilled_run hs (issue_unspilled hs fun t ht => by simp [ht])
@[simp] theorem execMemoryRequestAtHome_unspilled (r : MemReq) (ledgerOk : Bool) :
    NextUnspilled (execMemoryRequestAtHome r ledgerOk s) := nextUnspilled_run hs (by simp [hs])
@[simp] theorem execLineRequestPerformed_unspilled (line : Nat) (readOk : Bool) :
    NextUnspilled (execLineRequestPerformed line readOk s) := nextUnspilled_run hs (by dsimp only; (repeat' split) <;> simp [hs])
@[simp] theorem execMemoryResponse_unspilled (r : MemResp) : NextUnspilled (execMemoryResponse r s) :=
  nextUnspilled_run hs (by simp [hs])
@[simp] theorem execAttemptTimeoutExpiry_unspilled (unitKind unit slot : Nat) :
    NextUnspilled (execAttemptTimeoutExpiry unitKind unit slot s) := nextUnspilled_run hs (by dsimp only; split <;> simp [hs])

@[simp] theorem execLedgerEntryExpiry_unspilled (srcPkg unitKind unit seq : Nat) :
    NextUnspilled (execLedgerEntryExpiry srcPkg unitKind unit seq s) :=
  nextUnspilled_run hs (by dsimp only; (repeat' split) <;> simp [hs])

/-! ### Machine/Tiers.lean -/

@[simp] theorem execFillStart_unspilled (wythe ctx obj : Nat) : NextUnspilled (execFillStart wythe ctx obj s) :=
  nextUnspilled_run hs (by split <;> simp [hs])
@[simp] theorem execFlushObject_unspilled (q : Req) : NextUnspilled (execFlushObject q s) := nextUnspilled_run hs (by simp [hs])

@[simp] theorem execKvWrite_unspilled (st stream pos off : Nat) (bytes : List Byte) :
    NextUnspilled (execKvWrite st stream pos off bytes s) := by
  refine nextUnspilled_run hs ?_
  split
  · exact hs
  · split <;> next e => exact allUnspilled_of_eq hs (by simp [admitted_of_prod_eq e rfl])

@[simp] theorem execKvPoolTail_unspilled (q : Req) : NextUnspilled (execKvPoolTail q s) := nextUnspilled_run hs (by simp [hs])
@[simp] theorem execSetWatermark_unspilled (q : Req) : NextUnspilled (execSetWatermark q s) := nextUnspilled_run hs (by simp [hs])
@[simp] theorem execReleaseProvisional_unspilled (q : Req) : NextUnspilled (execReleaseProvisional q s) :=
  nextUnspilled_run hs (by simp [hs])

/-! ### Machine/Expert.lean -/

@[simp] theorem execScoringPass_unspilled (bay ctx layer gen : Nat) (read : GateRead) :
    NextUnspilled (execScoringPass bay ctx layer gen read s) := nextUnspilled_run hs (by (repeat' split) <;> simp [hs])
@[simp] theorem execGateStreamComplete_unspilled (bay ctx layer : Nat) (e : StreamEnd) :
    NextUnspilled (execGateStreamComplete bay ctx layer e s) := nextUnspilled_run hs (by (repeat' split) <;> simp [hs])
@[simp] theorem execPartialScores_unspilled (k : TokKey) : NextUnspilled (execPartialScores k s) :=
  nextUnspilled_run hs (by split <;> simp [hs])

@[simp] theorem execPlacementBlockRead_unspilled (bay ctx layer expert status : Nat) (block : List Replica) :
    NextUnspilled (execPlacementBlockRead bay ctx layer expert status block s) :=
  nextUnspilled_run hs (by dsimp only; (repeat' split) <;> simp [hs])

@[simp] theorem execClaimBundle_unspilled (srcPkg : Nat) (cs : List Claim) : NextUnspilled (execClaimBundle srcPkg cs s) :=
  nextUnspilled_run hs (by split <;> simp [hs])
@[simp] theorem execClaimBundleAck_unspilled (ctx layer gen home : Nat) :
    NextUnspilled (execClaimBundleAck ctx layer gen home s) := nextUnspilled_run hs (by simp [hs])

@[simp] theorem execAdmission_unspilled (ctx layer gen : Nat) : NextUnspilled (execAdmission ctx layer gen s) := by
  refine nextUnspilled_run hs ?_
  split
  · exact admitChoices_unspilled hs
  · exact hs

@[simp] theorem execAdmissionAbort_unspilled (ctx layer gen code : Nat) :
    NextUnspilled (execAdmissionAbort ctx layer gen code s) := nextUnspilled_run hs (by simp [hs])
@[simp] theorem execVerdictBundle_unspilled (srcPkg : Nat) (cs : List Choice) : NextUnspilled (execVerdictBundle srcPkg cs s) :=
  nextUnspilled_run hs (takeVerdicts_unspilled hs)

@[simp] theorem execTokenCopy_unspilled (srcPkg : Nat) (d : TokenDesc) (payload : List Byte) :
    NextUnspilled (execTokenCopy srcPkg d payload s) := by
  refine nextUnspilled_run hs ?_
  split
  · simpa using hs
  · exact acceptCopy_unspilled hs

@[simp] theorem execCisternGrant_unspilled (pool : Nat) (corrected : Bool) : NextUnspilled (execCisternGrant pool corrected s) :=
  nextUnspilled_run hs (grantOldest_unspilled (by simpa using hs))

@[simp] theorem execExpertRun_unspilled (st : Nat) (h : IHdr) (o : Operands) : NextUnspilled (execExpertRun st h o s) :=
  nextUnspilled_run hs (issue_unspilled hs fun t ht => by simp [ht])
@[simp] theorem execRunPartDue_unspilled (ctx layer first : Nat) : NextUnspilled (execRunPartDue ctx layer first s) :=
  nextUnspilled_run hs (by split <;> simp [hs])

@[simp] theorem execMissGraceExpiry_unspilled (ctx layer first : Nat) : NextUnspilled (execMissGraceExpiry ctx layer first s) := by
  refine nextUnspilled_run hs ?_
  split
  · exact hs
  · next r _ =>
    split
    · exact hs
    · extract_lets graced
      have hg : AllUnspilled graced.admitted := allUnspilled_of_eq hs (modRun_admitted ..)
      split
      · split
        · simpa using hg
        · exact hg
      · have hm := missPart_unspilled (r := r) hg
        dsimp only
        rw [windowAfter_admitted]
        exact forEach_unspilled (allUnspilled_of_eq hm (modRun_admitted ..)) fun _ _ => takeMiss_unspilled
      · exact hg

@[simp] theorem execMissNotice_unspilled (k : TokKey) (rank : Nat) (_notResident : Bool) :
    NextUnspilled (execMissNotice k rank _notResident s) := nextUnspilled_run hs (takeMiss_unspilled hs)

@[simp] theorem execExpertRunComplete_unspilled (st cycles : Nat) : NextUnspilled (execExpertRunComplete st cycles s) := by
  refine nextUnspilled_run hs ?_
  dsimp only
  split
  · exact hs
  · simpa using stageRun_unspilled hs

@[simp] theorem execCarryWaitExpiry_unspilled (ctx layer first : Nat) : NextUnspilled (execCarryWaitExpiry ctx layer first s) :=
  nextUnspilled_run hs (by split <;> simp [hs])
@[simp] theorem execReturnPacket_unspilled (h : RetHdr) (payload : List Byte) : NextUnspilled (execReturnPacket h payload s) :=
  nextUnspilled_run hs (by simp [hs])
@[simp] theorem execReturnTimeoutExpiry_unspilled (k : TokKey) (rank : Nat) : NextUnspilled (execReturnTimeoutExpiry k rank s) :=
  nextUnspilled_run hs (by split <;> simp [hs])
@[simp] theorem execFetch_unspilled (st : Nat) (h : IHdr) (o : Operands) : NextUnspilled (execFetch st h o s) :=
  nextUnspilled_run hs (issue_unspilled hs fun t ht => by simp [ht])
@[simp] theorem execFlush_unspilled (st : Nat) (h : IHdr) (o : Operands) : NextUnspilled (execFlush st h o s) :=
  nextUnspilled_run hs (issue_unspilled hs fun t ht => by simp [ht])

@[simp] theorem execKvCommit_unspilled (st : Nat) (h : IHdr) (o : Operands) : NextUnspilled (execKvCommit st h o s) := by
  refine nextUnspilled_run hs (issue_unspilled hs fun t ht => ?_)
  dsimp only
  split
  · simpa using ht
  · split
    · next u e => exact allUnspilled_of_eq ht (by simp [kvAdvance_admitted e])
    · simpa using ht

@[simp] theorem execRetire_unspilled (st : Nat) (h : IHdr) (o : Operands) : NextUnspilled (execRetire st h o s) := by
  refine nextUnspilled_run hs (issue_unspilled hs fun t ht => ?_)
  dsimp only
  split
  · next u e => exact allUnspilled_of_eq ht (by simp [retireGen_admitted e])
  · simpa using ht

@[simp] theorem execAccept_unspilled (st : Nat) (h : IHdr) (o : Operands) : NextUnspilled (execAccept st h o s) :=
  nextUnspilled_run hs (issue_unspilled hs fun t ht => by simp [ht])
@[simp] theorem execRetireGeneration_unspilled (q : Req) : NextUnspilled (execRetireGeneration q s) :=
  nextUnspilled_run hs (by simp [hs])
@[simp] theorem execAbandonStranded_unspilled (q : Req) : NextUnspilled (execAbandonStranded q s) :=
  nextUnspilled_run hs (by simp [hs])
@[simp] theorem execPlacementUpdate_unspilled (q : Req) : NextUnspilled (execPlacementUpdate q s) :=
  nextUnspilled_run hs (by simp [hs])

@[simp] theorem execPlacementStoreComplete_unspilled (ctx layer expert status : Nat) :
    NextUnspilled (execPlacementStoreComplete ctx layer expert status s) := by
  refine nextUnspilled_run hs ?_
  split
  · exact hs
  · dsimp only
    split
    · exact hs
    · next t e =>
      rw [endDeferred_admitted]
      exact resendStranded_unspilled (allUnspilled_of_eq hs (by simpa using storeStatus_admitted e))
    · next t e => exact allUnspilled_of_eq hs (by simpa using storeStatus_admitted e)
    · next t e => exact allUnspilled_of_eq hs (by simpa using storeStatus_admitted e)

@[simp] theorem execDeadlinePolicyWrite_unspilled (layer : Nat) (q : Req) : NextUnspilled (execDeadlinePolicyWrite layer q s) :=
  nextUnspilled_run hs (by simp [hs])

@[simp] theorem execWritebackComplete_unspilled (ctx obj : Nat) : NextUnspilled (execWritebackComplete ctx obj s) := by
  refine nextUnspilled_run hs ?_
  split
  · exact hs
  · extract_lets left flushed
    have hf : AllUnspilled flushed.admitted := allUnspilled_of_eq hs (forEach_admitted fun t p => by simp)
    split
    · exact strandObject_unspilled hf
    · exact hf

@[simp] theorem execFillComplete_unspilled (wythe ctx obj : Nat) (bad : List (Nat × Bool)) (bytes : List Byte) :
    NextUnspilled (execFillComplete wythe ctx obj bad bytes s) := by
  refine nextUnspilled_run hs ?_
  split
  · exact hs
  · extract_lets d k
    split
    · exact hs
    · split
      · exact hs
      · next bs t e =>
        extract_lets ended places faulted
        have hf : AllUnspilled faulted.admitted :=
          allUnspilled_of_eq hs ((forEach_admitted fun u off => by simp).trans (fillBytes_admitted e))
        clear_value faulted
        split
        · exact markBad_unspilled hf
        · split
          · exact markBad_unspilled hf
          · refine allUnspilled_of_eq hf ((countBy_admitted ..).trans ((setWin_admitted ..).trans ?_))
            exact (forEach_admitted fun u o => setWin_admitted ..).trans (by simp)

@[simp] theorem execPlaceObject_unspilled (q : Req) : NextUnspilled (execPlaceObject q s) := nextUnspilled_run hs (by simp [hs])
@[simp] theorem execPoolCommit_unspilled (q : Req) : NextUnspilled (execPoolCommit q s) := nextUnspilled_run hs (by simp [hs])

/-! ### Machine/Coll.lean -/

@[simp] theorem execPartialMsg_unspilled (m : CollMsg) : NextUnspilled (execPartialMsg m s) := nextUnspilled_run hs (by simp [hs])
@[simp] theorem execResultMsg_unspilled (m : CollMsg) : NextUnspilled (execResultMsg m s) := nextUnspilled_run hs (by simp [hs])
@[simp] theorem execPnak_unspilled (m : CollMsg) (readOk : Bool) : NextUnspilled (execPnak m readOk s) :=
  nextUnspilled_run hs (by simp [hs])
@[simp] theorem execCollNak_unspilled (m : CollMsg) (readOk : Bool) : NextUnspilled (execCollNak m readOk s) :=
  nextUnspilled_run hs (by simp [hs])
@[simp] theorem execDoneMsg_unspilled (m : CollMsg) : NextUnspilled (execDoneMsg m s) := nextUnspilled_run hs (by simp [hs])
@[simp] theorem execSealMsg_unspilled (m : CollMsg) : NextUnspilled (execSealMsg m s) := nextUnspilled_run hs (by simp [hs])
@[simp] theorem execAbortReq_unspilled (m : CollMsg) : NextUnspilled (execAbortReq m s) := nextUnspilled_run hs (by simp [hs])
@[simp] theorem execAbort_unspilled (m : CollMsg) : NextUnspilled (execAbort m s) := nextUnspilled_run hs (by simp [hs])
@[simp] theorem execBackoff_unspilled (m : CollMsg) : NextUnspilled (execBackoff m s) := nextUnspilled_run hs (by simp [hs])
@[simp] theorem execBackoffRetry_unspilled (k : CollKey) (chunk : Nat) : NextUnspilled (execBackoffRetry k chunk s) :=
  nextUnspilled_run hs (by dsimp only; (repeat' split) <;> simp [hs])
@[simp] theorem execGroupCommit_unspilled (group : Nat) (q : Req) (readOk : Bool) :
    NextUnspilled (execGroupCommit group q readOk s) := nextUnspilled_run hs (by simp [hs])
@[simp] theorem execCollRetentionGrant_unspilled (k : CollKey) (cycles : Nat) :
    NextUnspilled (execCollRetentionGrant k cycles s) := nextUnspilled_run hs (by split <;> split <;> simp [hs])
@[simp] theorem execTileNotice_unspilled (st handle tile : Nat) : NextUnspilled (execTileNotice st handle tile s) :=
  nextUnspilled_run hs (by simp [hs])
@[simp] theorem execLeg_unspilled (m : LegMsg) : NextUnspilled (execLeg m s) := nextUnspilled_run hs (by simp [hs])
@[simp] theorem execLegAck_unspilled (ctx number leg chunk answer : Nat) (readOk : Bool) :
    NextUnspilled (execLegAck ctx number leg chunk answer readOk s) := nextUnspilled_run hs (by (repeat' split) <;> simp [hs])
@[simp] theorem execCollTimeoutExpiry_unspilled (k : CollKey) : NextUnspilled (execCollTimeoutExpiry k s) :=
  nextUnspilled_run hs (by split <;> split <;> simp [hs])
@[simp] theorem execSealWaitTimeout_unspilled (k : CollKey) : NextUnspilled (execSealWaitTimeout k s) :=
  nextUnspilled_run hs (by split <;> simp [hs])
@[simp] theorem execCollAbort_unspilled (q : Req) : NextUnspilled (execCollAbort q s) := nextUnspilled_run hs (by simp [hs])
@[simp] theorem execAdmissionBarrierJoin_unspilled (ctx layer gen : Nat) :
    NextUnspilled (execAdmissionBarrierJoin ctx layer gen s) := nextUnspilled_run hs (by simp [hs])

/-! ### Machine/Sync.lean -/

@[simp] theorem execSyncSet_unspilled (st : Nat) (h : IHdr) (o : Operands) : NextUnspilled (execSyncSet st h o s) :=
  nextUnspilled_run hs (issue_unspilled hs fun t ht => by simp [ht])
@[simp] theorem execSyncAdd_unspilled (st : Nat) (h : IHdr) (o : Operands) : NextUnspilled (execSyncAdd st h o s) :=
  nextUnspilled_run hs (issue_unspilled hs fun t ht => by simp [ht])
@[simp] theorem execSyncSignal_unspilled (st : Nat) (h : IHdr) (o : Operands) : NextUnspilled (execSyncSignal st h o s) :=
  nextUnspilled_run hs (issue_unspilled hs fun t ht => by simp [ht])
@[simp] theorem execSyncWait_unspilled (st : Nat) (h : IHdr) (o : Operands) : NextUnspilled (execSyncWait st h o s) :=
  nextUnspilled_run hs (issue_unspilled hs fun t ht => by simp [ht])
@[simp] theorem execSyncRead_unspilled (st : Nat) (h : IHdr) (o : Operands) : NextUnspilled (execSyncRead st h o s) :=
  nextUnspilled_run hs (issue_unspilled hs fun t ht => by simp [ht])
@[simp] theorem execSyncClear_unspilled (st : Nat) (h : IHdr) (o : Operands) : NextUnspilled (execSyncClear st h o s) :=
  nextUnspilled_run hs (issue_unspilled hs fun t ht => by simp [ht])
@[simp] theorem execSignalDelivery_unspilled (st obj addend : Nat) : NextUnspilled (execSignalDelivery st obj addend s) :=
  nextUnspilled_run hs (by simp [hs])
@[simp] theorem execSyncWatchdogExpiry_unspilled (st : Nat) : NextUnspilled (execSyncWatchdogExpiry st s) :=
  nextUnspilled_run hs (by simp [hs])

/-! ### Machine/Fence.lean -/

@[simp] theorem execFenceStone_unspilled (q : Req) : NextUnspilled (execFenceStone q s) :=
  nextUnspilled_run hs (serveWrite_unspilled hs fun _ => actFenceStone_unspilled)

@[simp] theorem execRemapStone_unspilled (q : Req) : NextUnspilled (execRemapStone q s) := nextUnspilled_run hs (by simp [hs])

@[simp] theorem execScrubPass_unspilled (st : Nat) (r : SramRead) : NextUnspilled (execScrubPass st r s) := by
  refine nextUnspilled_run hs ?_
  split
  · exact hs
  · split
    · exact hs
    · simpa using hs
    · exact wordError_unspilled hs

@[simp] theorem execUnitFailure_unspilled (u : FailedUnit) : NextUnspilled (execUnitFailure u s) := by
  unfold execUnitFailure
  split
  · exact fun t e => by cases e
  · refine nextUnspilled_run hs ?_
    extract_lets noted raised
    have hr : AllUnspilled raised.admitted := allUnspilled_of_eq hs (by
      unfold raised noted
      rw [raise_admitted]
      split <;> rfl)
    clear_value raised
    split
    · exact fenceMany_unspilled hr
    · exact fenceMany_unspilled hr
    · exact fenceMany_unspilled (by simpa using hr)
    · exact hr

/-! ### Machine/CollPost.lean -/

@[simp] theorem execCollBarrier_unspilled (st : Nat) (h : IHdr) (o : Operands) : NextUnspilled (execCollBarrier st h o s) :=
  nextUnspilled_run hs (post_unspilled hs)
@[simp] theorem execCollBroadcast_unspilled (st : Nat) (h : IHdr) (o : Operands) : NextUnspilled (execCollBroadcast st h o s) :=
  nextUnspilled_run hs (post_unspilled hs)
@[simp] theorem execCollReduce_unspilled (st : Nat) (h : IHdr) (o : Operands) : NextUnspilled (execCollReduce st h o s) :=
  nextUnspilled_run hs (post_unspilled hs)
@[simp] theorem execCollAllReduce_unspilled (st : Nat) (h : IHdr) (o : Operands) : NextUnspilled (execCollAllReduce st h o s) :=
  nextUnspilled_run hs (post_unspilled hs)
@[simp] theorem execCollReduceScatter_unspilled (st : Nat) (h : IHdr) (o : Operands) :
    NextUnspilled (execCollReduceScatter st h o s) := nextUnspilled_run hs (post_unspilled hs)
@[simp] theorem execCollAllGather_unspilled (st : Nat) (h : IHdr) (o : Operands) : NextUnspilled (execCollAllGather st h o s) :=
  nextUnspilled_run hs (post_unspilled hs)
@[simp] theorem execCollMulticast_unspilled (st : Nat) (h : IHdr) (o : Operands) : NextUnspilled (execCollMulticast st h o s) :=
  nextUnspilled_run hs (post_unspilled hs)

/-! ### Machine/Engine.lean -/

@[simp] theorem execDenseProduct_unspilled (st : Nat) (h : IHdr) (o : Operands) (r : SramRead) :
    NextUnspilled (execDenseProduct st h o r s) := nextUnspilled_run hs (issueProduct_unspilled hs)
@[simp] theorem execSparseProduct_unspilled (st : Nat) (h : IHdr) (o : Operands) (r : SramRead) :
    NextUnspilled (execSparseProduct st h o r s) := nextUnspilled_run hs (issueProduct_unspilled hs)

@[simp] theorem execTileComplete_unspilled (st : Nat) (sparse : Bool) (upsets : List Upset) (busy : Nat) :
    NextUnspilled (execTileComplete st sparse upsets busy s) := by
  refine nextUnspilled_run hs ?_
  split
  · exact hs
  · split
    · exact hs
    · exact readRanges_unspilled (fun _ => endTile_unspilled) hs

@[simp] theorem execEngineInject_unspilled (q : Req) : NextUnspilled (execEngineInject q s) := nextUnspilled_run hs (by simp [hs])

/-! ### Machine/Compressor.lean -/

@[simp] theorem execCompressActivations_unspilled (st : Nat) (h : IHdr) (o : Operands) :
    NextUnspilled (execCompressActivations st h o s) := nextUnspilled_run hs (compressor_unspilled hs)
@[simp] theorem execCompressWeightsMask_unspilled (st : Nat) (h : IHdr) (o : Operands) :
    NextUnspilled (execCompressWeightsMask st h o s) := nextUnspilled_run hs (compressor_unspilled hs)
@[simp] theorem execCompressWeightsMagnitude_unspilled (st : Nat) (h : IHdr) (o : Operands) :
    NextUnspilled (execCompressWeightsMagnitude st h o s) := nextUnspilled_run hs (compressor_unspilled hs)
@[simp] theorem execExpand_unspilled (st : Nat) (h : IHdr) (o : Operands) : NextUnspilled (execExpand st h o s) :=
  nextUnspilled_run hs (compressor_unspilled hs)
@[simp] theorem execTranspose_unspilled (st : Nat) (h : IHdr) (o : Operands) : NextUnspilled (execTranspose st h o s) :=
  nextUnspilled_run hs (compressor_unspilled hs)

/-! ### Machine/Fabric.lean -/

@[simp] theorem execPortTrainingRetry_unspilled (p : Nat) : NextUnspilled (execPortTrainingRetry p s) :=
  nextUnspilled_run hs (by simp [hs])
@[simp] theorem execTrainingComplete_unspilled (p : Nat) (ok : Bool) : NextUnspilled (execTrainingComplete p ok s) :=
  nextUnspilled_run hs (by simp [hs])
@[simp] theorem execHello_unspilled (p : Nat) (m : Hello) : NextUnspilled (execHello p m s) := nextUnspilled_run hs (by simp [hs])
@[simp] theorem execEchoFrame_unspilled (p roundTrip : Nat) : NextUnspilled (execEchoFrame p roundTrip s) :=
  nextUnspilled_run hs (by simp [hs])
@[simp] theorem execRefusalNotice_unspilled (p : Nat) : NextUnspilled (execRefusalNotice p s) :=
  nextUnspilled_run hs (by simp [hs])
@[simp] theorem execLinkLockLoss_unspilled (p : Nat) : NextUnspilled (execLinkLockLoss p s) :=
  nextUnspilled_run hs (by split <;> simp [hs])
@[simp] theorem execPortRetrain_unspilled (p : Nat) (q : Req) : NextUnspilled (execPortRetrain p q s) :=
  nextUnspilled_run hs (by simp [hs])
@[simp] theorem execPortFence_unspilled (p : Nat) (q : Req) : NextUnspilled (execPortFence p q s) :=
  nextUnspilled_run hs (by simp [hs])
@[simp] theorem execRekey_unspilled (p : Nat) : NextUnspilled (execRekey p s) := nextUnspilled_run hs (by simp [hs])
@[simp] theorem execRekeyExchange_unspilled (p : Nat) (checksOk : Bool) : NextUnspilled (execRekeyExchange p checksOk s) :=
  nextUnspilled_run hs (by simp [hs])
@[simp] theorem execLinkFrameReceived_unspilled (p : Nat) (f : LinkFrame) : NextUnspilled (execLinkFrameReceived p f s) :=
  nextUnspilled_run hs (by (repeat' split) <;> simp [hs])
@[simp] theorem execControlBlock_unspilled (p : Nat) (b : CtrlBlock) : NextUnspilled (execControlBlock p b s) :=
  nextUnspilled_run hs (by simp [hs])
@[simp] theorem execFrameTransmit_unspilled (p : Nat) (bufferOk : Bool) : NextUnspilled (execFrameTransmit p bufferOk s) :=
  nextUnspilled_run hs (by dsimp only; (repeat' split) <;> simp [hs])

@[simp] theorem execPacketRoute_unspilled (a : Arrival) (bufferOk : Bool) : NextUnspilled (execPacketRoute a bufferOk s) := by
  refine nextUnspilled_run hs ?_
  split
  · exact hs
  · next w item p came take e =>
    have ht : ∀ t, (take t).admitted = t.admitted := fun t => take_admitted_of_arrivalHead e
    split
    · exact hs
    · dsimp only
      split
      · exact allUnspilled_of_eq hs (by simp [ht])
      · split
        · next t e => exact allUnspilled_of_eq hs (by simp [admitted_of_prod_eq e rfl])
        · next t b e => exact allUnspilled_of_eq hs (by simp [ht, admitted_of_prod_eq e rfl])

@[simp] theorem execAqSet_unspilled (q : Req) : NextUnspilled (execAqSet q s) := nextUnspilled_run hs (by simp [hs])
@[simp] theorem execAqClear_unspilled (q : Req) : NextUnspilled (execAqClear q s) := nextUnspilled_run hs (by simp [hs])
@[simp] theorem execAqueductPacket_unspilled (inPort : Nat) (a : AqPacket) : NextUnspilled (execAqueductPacket inPort a s) :=
  nextUnspilled_run hs (by simp [hs])
@[simp] theorem execTableInstall_unspilled (q : Req) : NextUnspilled (execTableInstall q s) := nextUnspilled_run hs (by simp [hs])
@[simp] theorem execInjectEpoch_unspilled (q : Req) : NextUnspilled (execInjectEpoch q s) := nextUnspilled_run hs (by simp [hs])
@[simp] theorem execTableRetire_unspilled (q : Req) : NextUnspilled (execTableRetire q s) := nextUnspilled_run hs (by simp [hs])
@[simp] theorem execEpochStepInstall_unspilled (q : Req) : NextUnspilled (execEpochStepInstall q s) :=
  nextUnspilled_run hs (epochStepRow_unspilled hs)
@[simp] theorem execEpochStepFlip_unspilled (q : Req) : NextUnspilled (execEpochStepFlip q s) :=
  nextUnspilled_run hs (epochStepRow_unspilled hs)
@[simp] theorem execEpochStepPoll_unspilled (q : Req) : NextUnspilled (execEpochStepPoll q s) :=
  nextUnspilled_run hs (epochStepRow_unspilled hs)
@[simp] theorem execEpochStepRetire_unspilled (q : Req) : NextUnspilled (execEpochStepRetire q s) :=
  nextUnspilled_run hs (epochStepRow_unspilled hs)
@[simp] theorem execEpochStepMember_unspilled (fromPos op epoch : Nat) : NextUnspilled (execEpochStepMember fromPos op epoch s) :=
  nextUnspilled_run hs (by simp [hs])

@[simp] theorem execEpochStepAnswer_unspilled (pos : Nat) (accepted : Bool) (injecting epochIn epochHeld : Nat) :
    NextUnspilled (execEpochStepAnswer pos accepted injecting epochIn epochHeld s) :=
  nextUnspilled_run hs (by split <;> simp [hs])

@[simp] theorem execEpochStepTimeout_unspilled : NextUnspilled (execEpochStepTimeout s) :=
  nextUnspilled_run hs (by split <;> simp [hs])

/-! ### Machine/Vector.lean -/

@[simp] theorem execConfigure_unspilled (st : Nat) (h : IHdr) (o : Operands) : NextUnspilled (execConfigure st h o s) := by
  refine nextUnspilled_run hs (issue_unspilled hs fun t ht => ?_)
  split
  · simpa using ht
  · split
    · simpa using ht
    · refine readRanges_unspilled (fun u hu => ?_) ht
      dsimp only
      split <;> simpa using hu

@[simp] theorem execVectorRun_unspilled (st : Nat) (h : IHdr) (o : Operands) (rd : SramRead) (parityOk : Bool) :
    NextUnspilled (execVectorRun st h o rd parityOk s) := by
  refine nextUnspilled_run hs (issue_unspilled hs fun t ht => afterScalars_unspilled ht ?_)
  split
  · simpa using ht
  · split
    · simpa using ht
    · extract_lets v taken
      have hv : AllUnspilled taken.admitted := readSram_unspilled (fun u hu => by simpa using hu) ht
      clear_value taken
      split
      · simpa using hv
      · exact hv

@[simp] theorem execVectorRunComplete_unspilled (st busy : Nat) : NextUnspilled (execVectorRunComplete st busy s) :=
  nextUnspilled_run hs (by split <;> simp [hs])
@[simp] theorem execScalarSet_unspilled (st : Nat) (h : IHdr) (o : Operands) : NextUnspilled (execScalarSet st h o s) :=
  nextUnspilled_run hs (issue_unspilled hs fun t ht => by simp [ht])

@[simp] theorem execScalarFunc_unspilled (st : Nat) (h : IHdr) (o : Operands) : NextUnspilled (execScalarFunc st h o s) :=
  nextUnspilled_run hs (issue_unspilled hs fun t ht => afterScalars_unspilled ht (by simpa using ht))

@[simp] theorem execScalarStore_unspilled (st : Nat) (h : IHdr) (o : Operands) : NextUnspilled (execScalarStore st h o s) :=
  nextUnspilled_run hs (issue_unspilled hs fun t ht => afterScalars_unspilled ht (by simpa using ht))

@[simp] theorem execScalarLoad_unspilled (st : Nat) (h : IHdr) (o : Operands) : NextUnspilled (execScalarLoad st h o s) := by
  refine nextUnspilled_run hs (issue_unspilled hs fun t ht => ?_)
  split
  · simpa using ht
  · exact readRanges_unspilled (fun u hu => by simpa using hu) ht

end

end Sys2Proof.Machine
end

section
/-! PROOFS. No command spills a speculative choice: the commands of contexts, jobs and the units of the package. -/

-- As in the tests: proofs elaborated side by side exhaust memory in the joined text.
set_option Elab.async false

namespace Sys2Proof.Machine

section
variable {s : State} (hs : AllUnspilled s.admitted)
include hs

/-! ### Machine/Loader.lean -/

@[simp] theorem execLoad_unspilled (q : Req) : NextUnspilled (execLoad q s) := nextUnspilled_run hs (by simp [hs])
@[simp] theorem execLoadComplete_unspilled (img : Image) : NextUnspilled (execLoadComplete img s) :=
  nextUnspilled_run hs (by dsimp only; (repeat' split) <;> simp [hs])

/-! ### Machine/Context.lean -/

@[simp] theorem execUnload_unspilled (ctx : Nat) (q : Req) : NextUnspilled (execUnload ctx q s) :=
  nextUnspilled_run hs (by simp [hs])

@[simp] theorem execUnloadComplete_unspilled (ctx : Nat) : NextUnspilled (execUnloadComplete ctx s) := by
  refine nextUnspilled_run hs ?_
  split
  · exact releaseCtx_unspilled hs
  · exact hs

@[simp] theorem execResumeContinue_unspilled (ctx : Nat) (q : Req) : NextUnspilled (execResumeContinue ctx q s) :=
  nextUnspilled_run hs (by simp [hs])
@[simp] theorem execResumeStepMark_unspilled (ctx : Nat) (q : Req) : NextUnspilled (execResumeStepMark ctx q s) :=
  nextUnspilled_run hs (by simp [hs])
@[simp] theorem execSliceGrant_unspilled (ctx : Nat) : NextUnspilled (execSliceGrant ctx s) := nextUnspilled_run hs (by simp [hs])
@[simp] theorem execSliceExpiry_unspilled (ctx : Nat) : NextUnspilled (execSliceExpiry ctx s) :=
  nextUnspilled_run hs (by simp [hs])
@[simp] theorem execSliceStopComplete_unspilled (ctx overrunUs : Nat) : NextUnspilled (execSliceStopComplete ctx overrunUs s) :=
  nextUnspilled_run hs (by simp [hs])
@[simp] theorem execSwapInStart_unspilled : NextUnspilled (execSwapInStart s) :=
  nextUnspilled_run hs (by (repeat' split) <;> simp [hs])
@[simp] theorem execSwapOutComplete_unspilled (ctx : Nat) : NextUnspilled (execSwapOutComplete ctx s) :=
  nextUnspilled_run hs (by simp [hs])
@[simp] theorem execSwapInComplete_unspilled (ctx : Nat) : NextUnspilled (execSwapInComplete ctx s) :=
  nextUnspilled_run hs (by simp [hs])

/-! ### Machine/Control.lean -/

@[simp] theorem execHalt_unspilled (st : Nat) (h : IHdr) (o : Operands) : NextUnspilled (execHalt st h o s) :=
  nextUnspilled_run hs (issue_unspilled hs fun t ht => by simp [ht])
@[simp] theorem execBranch_unspilled (st : Nat) (h : IHdr) (o : Operands) : NextUnspilled (execBranch st h o s) :=
  nextUnspilled_run hs (issue_unspilled hs fun t ht => by simp [ht])
@[simp] theorem execLoopSet_unspilled (st : Nat) (h : IHdr) (o : Operands) : NextUnspilled (execLoopSet st h o s) :=
  nextUnspilled_run hs (issue_unspilled hs fun t ht => by simp [ht])
@[simp] theorem execLoopBack_unspilled (st : Nat) (h : IHdr) (o : Operands) : NextUnspilled (execLoopBack st h o s) :=
  nextUnspilled_run hs (issue_unspilled hs fun t ht => by simp [ht])

@[simp] theorem execYield_unspilled (st : Nat) (h : IHdr) (o : Operands) : NextUnspilled (execYield st h o s) := by
  refine nextUnspilled_run hs (issue_unspilled hs fun t ht => ?_)
  dsimp only
  split
  · exact ht
  · split
    · simpa using ht
    · split <;> split <;> simpa using ht

@[simp] theorem execStepMark_unspilled (st : Nat) (h : IHdr) (o : Operands) : NextUnspilled (execStepMark st h o s) :=
  nextUnspilled_run hs (issue_unspilled hs fun t ht => by simp [ht])
@[simp] theorem execNpBegin_unspilled (st : Nat) (h : IHdr) (o : Operands) : NextUnspilled (execNpBegin st h o s) :=
  nextUnspilled_run hs (issue_unspilled hs fun t ht => by simp [ht])
@[simp] theorem execNpEnd_unspilled (st : Nat) (h : IHdr) (o : Operands) : NextUnspilled (execNpEnd st h o s) :=
  nextUnspilled_run hs (issue_unspilled hs fun t ht => by simp [ht])
@[simp] theorem execSetVl_unspilled (st : Nat) (h : IHdr) (o : Operands) : NextUnspilled (execSetVl st h o s) :=
  nextUnspilled_run hs (issue_unspilled hs fun t ht => by simp [ht])
@[simp] theorem execSetReg_unspilled (st : Nat) (h : IHdr) (o : Operands) : NextUnspilled (execSetReg st h o s) :=
  nextUnspilled_run hs (issue_unspilled hs fun t ht => by simp [ht])
@[simp] theorem execRegionOverrun_unspilled (st : Nat) : NextUnspilled (execRegionOverrun st s) :=
  nextUnspilled_run hs (by simp [hs])

/-! ### Machine/CourseDma.lean -/

@[simp] theorem execDmaPost_unspilled (st : Nat) (h : IHdr) (o : Operands) : NextUnspilled (execDmaPost st h o s) := by
  refine nextUnspilled_run hs (issue_unspilled hs fun t ht => ?_)
  split
  · simpa using ht
  · split
    · simpa using ht
    · exact readRanges_unspilled (fun u hu => by simpa using hu) ht

@[simp] theorem execDmaDescriptorComplete_unspilled (course st : Nat) (stop : Option Nat) (outside : List Byte) :
    NextUnspilled (execDmaDescriptorComplete course st stop outside s) := by
  refine nextUnspilled_run hs ?_
  split
  · exact hs
  · split
    · exact hs
    · next m _ =>
      split
      · exact hs
      · extract_lets served
        have hv : AllUnspilled served.admitted := hs
        clear_value served
        split
        · simpa using hv
        · have hr := dmaRun_unspilled (m := m) (stop := stop) (dmaRows m.desc) (i := 0) (n := 0) (ext := outside)
            (s := fresh served) (by simpa using hv)
          dsimp only
          split <;> simpa using hr

/-! ### Machine/Window.lean -/

@[simp] theorem execWindowSet_unspilled (q : Req) : NextUnspilled (execWindowSet q s) := nextUnspilled_run hs (by simp [hs])
@[simp] theorem execWindowClear_unspilled (q : Req) : NextUnspilled (execWindowClear q s) := nextUnspilled_run hs (by simp [hs])

/-! ### Machine/Jobs.lean -/

@[simp] theorem execStateRequestConfigured_unspilled (q : Req) : NextUnspilled (execStateRequestConfigured q s) :=
  nextUnspilled_run hs (by simp [hs])
@[simp] theorem execStateRequestRunning_unspilled (q : Req) : NextUnspilled (execStateRequestRunning q s) :=
  nextUnspilled_run hs (by simp [hs])
@[simp] theorem execPondJobPrepare_unspilled (q : Req) (list : List Nat) : NextUnspilled (execPondJobPrepare q list s) :=
  nextUnspilled_run hs (by simp [hs])
@[simp] theorem execPondJobCommit_unspilled (q : Req) : NextUnspilled (execPondJobCommit q s) :=
  nextUnspilled_run hs (by simp [hs])
@[simp] theorem execPondJobRun_unspilled (q : Req) : NextUnspilled (execPondJobRun q s) := nextUnspilled_run hs (by simp [hs])
@[simp] theorem execPondJobAbort_unspilled (q : Req) : NextUnspilled (execPondJobAbort q s) := nextUnspilled_run hs (by simp [hs])
@[simp] theorem execPondJobTeardown_unspilled (q : Req) : NextUnspilled (execPondJobTeardown q s) :=
  nextUnspilled_run hs (by simp [hs])
@[simp] theorem execJobPrepare_unspilled (fromPos : Option Nat) (staging : Nat) (list : List Nat) :
    NextUnspilled (execJobPrepare fromPos staging list s) := nextUnspilled_run hs (by simp [hs])
@[simp] theorem execJobCommit_unspilled (fromPos : Option Nat) (startId : Nat) :
    NextUnspilled (execJobCommit fromPos startId s) := nextUnspilled_run hs (by simp [hs])
@[simp] theorem execJobRun_unspilled (fromPos : Option Nat) (startId : Nat) : NextUnspilled (execJobRun fromPos startId s) :=
  nextUnspilled_run hs (by simp [hs])
@[simp] theorem execJobAbort_unspilled (fromPos : Option Nat) (startId : Nat) : NextUnspilled (execJobAbort fromPos startId s) :=
  nextUnspilled_run hs (by simp [hs])
@[simp] theorem execJobTeardown_unspilled (fromPos : Option Nat) : NextUnspilled (execJobTeardown fromPos s) :=
  nextUnspilled_run hs (by simp [hs])
@[simp] theorem execJobStepAnswer_unspilled (answers : List (Nat × Nat)) : NextUnspilled (execJobStepAnswer answers s) :=
  nextUnspilled_run hs (by simp [hs])
@[simp] theorem execJobChildWaitExpiry_unspilled : NextUnspilled (execJobChildWaitExpiry s) :=
  nextUnspilled_run hs (by split <;> simp [hs])
@[simp] theorem execJobStepTimeout_unspilled : NextUnspilled (execJobStepTimeout s) :=
  nextUnspilled_run hs (by split <;> simp [hs])

@[simp] theorem execTeardownComplete_unspilled : NextUnspilled (execTeardownComplete s) := by
  refine nextUnspilled_run hs ?_
  split
  · extract_lets answered
    have ha : AllUnspilled answered.admitted := by simpa [answered] using enterClean_unspilled hs
    clear_value answered
    split
    · simpa using ha
    · exact ha
  · exact hs

/-! ### Machine/Irq.lean -/

@[simp] theorem execFaultReport_unspilled (fs : List Fault16) : NextUnspilled (execFaultReport fs s) :=
  nextUnspilled_run hs (by simp [hs])
@[simp] theorem execReportWireStuck_unspilled (kind unit level : Nat) : NextUnspilled (execReportWireStuck kind unit level s) :=
  nextUnspilled_run hs (by simp [hs])
@[simp] theorem execFaultAck_unspilled (q : Req) : NextUnspilled (execFaultAck q s) := nextUnspilled_run hs (by simp [hs])
@[simp] theorem execCAckHoldExpiry_unspilled : NextUnspilled (execCAckHoldExpiry s) := nextUnspilled_run hs (by simp [hs])
@[simp] theorem execFaultSummarySend_unspilled : NextUnspilled (execFaultSummarySend s) := nextUnspilled_run hs (by simp [hs])
@[simp] theorem execFaultSummary_unspilled (fromPos byte : Nat) : NextUnspilled (execFaultSummary fromPos byte s) :=
  nextUnspilled_run hs (by simp [hs])
@[simp] theorem execSummaryStale_unspilled (pos : Nat) : NextUnspilled (execSummaryStale pos s) :=
  nextUnspilled_run hs (by simp [hs])
@[simp] theorem execInterruptSelect_unspilled (target : Nat) : NextUnspilled (execInterruptSelect target s) :=
  nextUnspilled_run hs (by dsimp only; split <;> simp [hs])
@[simp] theorem execInterruptDelivery_unspilled (source : Nat) : NextUnspilled (execInterruptDelivery source s) :=
  nextUnspilled_run hs (by split <;> simp [hs])
@[simp] theorem execMgmtEoi_unspilled (target source : Nat) : NextUnspilled (execMgmtEoi target source s) :=
  nextUnspilled_run hs (by simp [hs])
@[simp] theorem execHostEoi_unspilled (q : Req) : NextUnspilled (execHostEoi q s) := nextUnspilled_run hs (by simp [hs])
@[simp] theorem execServe_unspilled (source : Nat) (q : Req) : NextUnspilled (execServe source q s) :=
  nextUnspilled_run hs (by simp [hs])
@[simp] theorem execPendingWrite_unspilled (word : Nat) (q : Req) : NextUnspilled (execPendingWrite word q s) :=
  nextUnspilled_run hs (by simp [hs])

/-! ### Machine/Levels.lean -/

@[simp] theorem execPackageIdWrite_unspilled (q : Req) : NextUnspilled (execPackageIdWrite q s) :=
  nextUnspilled_run hs (by simp [hs])
@[simp] theorem execKeystonePositionWrite_unspilled (q : Req) : NextUnspilled (execKeystonePositionWrite q s) :=
  nextUnspilled_run hs (by simp [hs])
@[simp] theorem execKeystoneBeacon_unspilled : NextUnspilled (execKeystoneBeacon s) := nextUnspilled_run hs (by simp [hs])
@[simp] theorem execPondBeacon_unspilled (fromPos : Nat) : NextUnspilled (execPondBeacon fromPos s) :=
  nextUnspilled_run hs (by simp [hs])
@[simp] theorem execKeystoneSilent_unspilled : NextUnspilled (execKeystoneSilent s) := nextUnspilled_run hs (by simp [hs])

/-! ### Machine/Link.lean -/

@[simp] theorem execFlitReceived_unspilled (f : Flit) : NextUnspilled (execFlitReceived f s) :=
  nextUnspilled_run hs (by simp [hs])
@[simp] theorem execUmoraLockLoss_unspilled : NextUnspilled (execUmoraLockLoss s) := nextUnspilled_run hs (by simp [hs])
@[simp] theorem execLinkRetrain_unspilled (q : Req) : NextUnspilled (execLinkRetrain q s) := nextUnspilled_run hs (by simp [hs])

@[simp] theorem execUmoraTrainingComplete_unspilled (lanes roundTrip : Nat) :
    NextUnspilled (execUmoraTrainingComplete lanes roundTrip s) :=
  nextUnspilled_run hs (by dsimp only; (repeat' split) <;> simp [hs])

@[simp] theorem execUmoraDown_unspilled : NextUnspilled (execUmoraDown s) := nextUnspilled_run hs (by simp [hs])
@[simp] theorem execHostCompletion_unspilled (tag status : Nat) (last : Bool) (bytes : List (BitVec 8)) :
    NextUnspilled (execHostCompletion tag status last bytes s) := nextUnspilled_run hs (by simp [hs])
@[simp] theorem execTimeBeacon_unspilled (beaconTime arrivalTime : Nat) :
    NextUnspilled (execTimeBeacon beaconTime arrivalTime s) := nextUnspilled_run hs (by simp [hs])
@[simp] theorem execBadMessage_unspilled (code : Nat) : NextUnspilled (execBadMessage code s) :=
  nextUnspilled_run hs (by simp [hs])
@[simp] theorem execHoldoverExpiry_unspilled : NextUnspilled (execHoldoverExpiry s) := nextUnspilled_run hs (by simp [hs])

/-! ### Machine/Memory.lean -/

@[simp] theorem execMemoryStore_unspilled (st : Nat) (h : IHdr) (o : Operands) : NextUnspilled (execMemoryStore st h o s) := by
  refine nextUnspilled_run hs (memIssue_unspilled hs fun t ht => ?_)
  split
  · simpa using ht
  · split
    · simpa using ht
    · exact readRanges_unspilled (fun u hu => by simpa using hu) ht

@[simp] theorem execAtomicRead_unspilled (st : Nat) (h : IHdr) (o : Operands) : NextUnspilled (execAtomicRead st h o s) :=
  nextUnspilled_run hs (atomic_unspilled hs)
@[simp] theorem execAtomicSwap_unspilled (st : Nat) (h : IHdr) (o : Operands) : NextUnspilled (execAtomicSwap st h o s) :=
  nextUnspilled_run hs (atomic_unspilled hs)
@[simp] theorem execAtomicCas_unspilled (st : Nat) (h : IHdr) (o : Operands) : NextUnspilled (execAtomicCas st h o s) :=
  nextUnspilled_run hs (atomic_unspilled hs)
@[simp] theorem execAtomicAdd_unspilled (st : Nat) (h : IHdr) (o : Operands) : NextUnspilled (execAtomicAdd st h o s) :=
  nextUnspilled_run hs (atomic_unspilled hs)
@[simp] theorem execAtomicAnd_unspilled (st : Nat) (h : IHdr) (o : Operands) : NextUnspilled (execAtomicAnd st h o s) :=
  nextUnspilled_run hs (atomic_unspilled hs)
@[simp] theorem execAtomicOr_unspilled (st : Nat) (h : IHdr) (o : Operands) : NextUnspilled (execAtomicOr st h o s) :=
  nextUnspilled_run hs (atomic_unspilled hs)
@[simp] theorem execAtomicXor_unspilled (st : Nat) (h : IHdr) (o : Operands) : NextUnspilled (execAtomicXor st h o s) :=
  nextUnspilled_run hs (atomic_unspilled hs)
@[simp] theorem execAtomicMaxS_unspilled (st : Nat) (h : IHdr) (o : Operands) : NextUnspilled (execAtomicMaxS st h o s) :=
  nextUnspilled_run hs (atomic_unspilled hs)
@[simp] theorem execAtomicMinS_unspilled (st : Nat) (h : IHdr) (o : Operands) : NextUnspilled (execAtomicMinS st h o s) :=
  nextUnspilled_run hs (atomic_unspilled hs)
@[simp] theorem execAtomicMaxU_unspilled (st : Nat) (h : IHdr) (o : Operands) : NextUnspilled (execAtomicMaxU st h o s) :=
  nextUnspilled_run hs (atomic_unspilled hs)
@[simp] theorem execAtomicMinU_unspilled (st : Nat) (h : IHdr) (o : Operands) : NextUnspilled (execAtomicMinU st h o s) :=
  nextUnspilled_run hs (atomic_unspilled hs)

@[simp] theorem execBufferRelease_unspilled (st : Nat) (h : IHdr) (o : Operands) : NextUnspilled (execBufferRelease st h o s) := by
  refine nextUnspilled_run hs (memIssue_unspilled hs fun t ht => ?_)
  dsimp only
  split
  · simpa using ht
  · split
    · simpa using ht
    · split <;> simpa using ht

/-! ### Machine/Power.lean -/

@[simp] theorem execPowerStateEntry_unspilled : NextUnspilled (execPowerStateEntry s) := nextUnspilled_run hs (by simp [hs])
@[simp] theorem execPowerEntryComplete_unspilled : NextUnspilled (execPowerEntryComplete s) :=
  nextUnspilled_run hs (by split <;> simp [hs])
@[simp] theorem execWakeEvent_unspilled (c : WakeCause) : NextUnspilled (execWakeEvent c s) :=
  nextUnspilled_run hs (by split <;> simp [hs])
@[simp] theorem execWakeComplete_unspilled : NextUnspilled (execWakeComplete s) := nextUnspilled_run hs (by simp [hs])
@[simp] theorem execWakeTolerance_unspilled (q : Req) : NextUnspilled (execWakeTolerance q s) :=
  nextUnspilled_run hs (by simp [hs])
@[simp] theorem execPowerMeasurement_unspilled (milliwatts : Nat) : NextUnspilled (execPowerMeasurement milliwatts s) :=
  nextUnspilled_run hs (by simp [hs])
@[simp] theorem execTemperatureReading_unspilled (a b : ℤ) : NextUnspilled (execTemperatureReading a b s) :=
  nextUnspilled_run hs (by dsimp only; (repeat' split) <;> simp [hs])
@[simp] theorem execSupplyRange_unspilled (rail : Nat) : NextUnspilled (execSupplyRange rail s) :=
  nextUnspilled_run hs (by simp [hs])
@[simp] theorem execRefclkLost_unspilled : NextUnspilled (execRefclkLost s) := nextUnspilled_run hs (by simp [hs])
@[simp] theorem execPllLockTimeout_unspilled (pll : Nat) : NextUnspilled (execPllLockTimeout pll s) :=
  nextUnspilled_run hs (by simp [hs])
@[simp] theorem execPllLockLoss_unspilled (pll : Nat) : NextUnspilled (execPllLockLoss pll s) :=
  nextUnspilled_run hs (by simp [hs])
@[simp] theorem execInitSramZeroed_unspilled : NextUnspilled (execInitSramZeroed s) := nextUnspilled_run hs (by simp [hs])
@[simp] theorem execStacksTrained_unspilled (failed : Option Nat) : NextUnspilled (execStacksTrained failed s) :=
  nextUnspilled_run hs (by (repeat' split) <;> simp [hs])
@[simp] theorem execTier1Zeroed_unspilled : NextUnspilled (execTier1Zeroed s) := nextUnspilled_run hs (by simp [hs])
@[simp] theorem execTier1Scrub_unspilled (stack : Nat) (corrected uncorrected : List Nat) :
    NextUnspilled (execTier1Scrub stack corrected uncorrected s) := nextUnspilled_run hs (by simp [hs])

/-! ### Machine/Ring.lean -/

@[simp] theorem execSubmitDoorbell_unspilled (q : Req) : NextUnspilled (execSubmitDoorbell q s) :=
  nextUnspilled_run hs (by simp [hs])
@[simp] theorem execRingNop_unspilled (ring : Nat) (e : RingEntry) : NextUnspilled (execRingNop ring e s) :=
  nextUnspilled_run hs (by simp [hs])
@[simp] theorem execRingStep_unspilled (ring : Nat) (e : RingEntry) : NextUnspilled (execRingStep ring e s) :=
  nextUnspilled_run hs (by simp [hs])
@[simp] theorem execRingPrefill_unspilled (ring : Nat) (e : RingEntry) : NextUnspilled (execRingPrefill ring e s) :=
  nextUnspilled_run hs (by simp [hs])
@[simp] theorem execRingFlush_unspilled (ring : Nat) (e : RingEntry) : NextUnspilled (execRingFlush ring e s) :=
  nextUnspilled_run hs (by simp [hs])
@[simp] theorem execRingReadError_unspilled (ring : Nat) : NextUnspilled (execRingReadError ring s) :=
  nextUnspilled_run hs (by simp [hs])
@[simp] theorem execRingEnable_unspilled (ctx : Nat) (q : Req) : NextUnspilled (execRingEnable ctx q s) :=
  nextUnspilled_run hs (by simp [hs])
@[simp] theorem execRingResume_unspilled (ctx : Nat) (q : Req) : NextUnspilled (execRingResume ctx q s) :=
  nextUnspilled_run hs (by simp [hs])
@[simp] theorem execResultRelease_unspilled (mailbox : Nat) (q : Req) : NextUnspilled (execResultRelease mailbox q s) :=
  nextUnspilled_run hs (by simp [hs])
@[simp] theorem execResultMailboxRead_unspilled (mailbox : Nat) (q : Req) : NextUnspilled (execResultMailboxRead mailbox q s) :=
  nextUnspilled_run hs (by simp [hs])

/-! ### Machine/Security.lean -/

omit hs in
@[simp] theorem execResetAssert_unspilled : NextUnspilled (execResetAssert s) :=
  nextUnspilled_next (List.forall_mem_nil _)

@[simp] theorem execResetRelease_unspilled (trayId : Nat) : NextUnspilled (execResetRelease trayId s) :=
  nextUnspilled_next (by simpa using hs)

@[simp] theorem execFirmwareLoad_unspilled (q : Req) : NextUnspilled (execFirmwareLoad q s) := nextUnspilled_run hs (by simp [hs])
@[simp] theorem execFirmwareImageChecked_unspilled (f : FwImage) : NextUnspilled (execFirmwareImageChecked f s) :=
  nextUnspilled_run hs (by (repeat' split) <;> simp [hs])
@[simp] theorem execSecurityVersionCommit_unspilled (q : Req) : NextUnspilled (execSecurityVersionCommit q s) :=
  nextUnspilled_run hs (by simp [hs])
@[simp] theorem execRngHealth_unspilled : NextUnspilled (execRngHealth s) := nextUnspilled_run hs (by simp [hs])
@[simp] theorem execOwnerKey_unspilled (q : Req) : NextUnspilled (execOwnerKey q s) := nextUnspilled_run hs (by simp [hs])
@[simp] theorem execEndorsement_unspilled (sigOk : Bool) (q : Req) : NextUnspilled (execEndorsement sigOk q s) :=
  nextUnspilled_run hs (by simp [hs])
@[simp] theorem execAttestNonce_unspilled (q : Req) : NextUnspilled (execAttestNonce q s) := nextUnspilled_run hs (by simp [hs])

/-- Stated over any value, so that no check of it computes a quote. -/
theorem storeQuote_unspilled (x : Security) (v : Nat) :
    AllUnspilled (endDeferred (count (setE { s with sec := x } 0x9020 0x03 v) 0xA0E0 0x02) 0x9020 0x02 0).admitted := by
  rw [endDeferred_admitted, count_admitted, setE_admitted]
  exact hs

@[simp] theorem execQuoteComplete_unspilled : NextUnspilled (execQuoteComplete s) := by
  refine nextUnspilled_run hs ?_
  split
  · exact hs
  · exact storeQuote_unspilled hs _ _

@[simp] theorem execTestUnlock_unspilled (sigOk : Bool) (q : Req) : NextUnspilled (execTestUnlock sigOk q s) :=
  nextUnspilled_run hs (by simp [hs])
@[simp] theorem execUnlockWipeComplete_unspilled : NextUnspilled (execUnlockWipeComplete s) := nextUnspilled_run hs (by simp [hs])
@[simp] theorem execTestPortInstruction_unspilled (t : TapInstr) : NextUnspilled (execTestPortInstruction t s) :=
  nextUnspilled_run hs (by simp [hs])

/-! ### Machine/Server.lean -/

@[simp] theorem execDictWrite_unspilled (idx sub : Nat) (q : Req) : NextUnspilled (execDictWrite idx sub q s) :=
  nextUnspilled_run hs (serveWrite_unspilled hs fun _ => actionOf_unspilled)

@[simp] theorem execDictDescribe_unspilled (idx sub : Nat) (q : Req) : NextUnspilled (execDictDescribe idx sub q s) :=
  nextUnspilled_run hs (by simp [hs])
@[simp] theorem execDictNext_unspilled (idx sub : Nat) (q : Req) : NextUnspilled (execDictNext idx sub q s) :=
  nextUnspilled_run hs (by simp [hs])
@[simp] theorem execLastRefusalRead_unspilled (q : Req) : NextUnspilled (execLastRefusalRead q s) :=
  nextUnspilled_run hs (by simp [hs])
@[simp] theorem execDepthMaxRead_unspilled (p vc : Nat) (q : Req) : NextUnspilled (execDepthMaxRead p vc q s) :=
  nextUnspilled_run hs (by simp [hs])
@[simp] theorem execDictDoorbell_unspilled (q : Req) : NextUnspilled (execDictDoorbell q s) := nextUnspilled_run hs (by simp [hs])
@[simp] theorem execRelayRequest_unspilled (opcode idx sub : Nat) (q : Req) :
    NextUnspilled (execRelayRequest opcode idx sub q s) := nextUnspilled_run hs (serveOp_unspilled hs)
@[simp] theorem execRelayResponse_unspilled (pos seq code value : Nat) : NextUnspilled (execRelayResponse pos seq code value s) :=
  nextUnspilled_run hs (by split <;> simp [hs])
@[simp] theorem execRelayTimeoutExpiry_unspilled (pos seq : Nat) : NextUnspilled (execRelayTimeoutExpiry pos seq s) :=
  nextUnspilled_run hs (by split <;> simp [hs])
@[simp] theorem execDeferredWriteComplete_unspilled (idx sub : Nat) : NextUnspilled (execDeferredWriteComplete idx sub s) :=
  nextUnspilled_run hs (by (repeat' split) <;> simp [hs])

@[simp] theorem execMappedWrite_unspilled (offset width value : Nat) : NextUnspilled (execMappedWrite offset width value s) := by
  refine nextUnspilled_run hs ?_
  split
  · simpa using hs
  · split
    · simpa using hs
    · split
      · simpa using hs
      · split
        · exact hs
        · split
          · simpa using hs
          · exact serveWrite_unspilled hs fun _ => actionOf_unspilled

@[simp] theorem execRingCommand_unspilled (ring : Nat) (e : RingEntry) (opcode idx sub : Nat) (readOk : Bool) (q : Req) :
    NextUnspilled (execRingCommand ring e opcode idx sub readOk q s) := by
  refine nextUnspilled_run hs ?_
  split
  · exact hs
  · split
    · simpa using hs
    · exact serveOp_unspilled (by simpa using hs)

@[simp] theorem execPlcaFallback_unspilled : NextUnspilled (execPlcaFallback s) := nextUnspilled_run hs (by simp [hs])
@[simp] theorem execPlcaStatusRestored_unspilled : NextUnspilled (execPlcaStatusRestored s) := nextUnspilled_run hs (by simp [hs])

/-! ### Machine/Submit.lean -/

@[simp] theorem execSubmit_unspilled (st : Nat) (h : IHdr) (o : Operands) : NextUnspilled (execSubmit st h o s) := by
  refine nextUnspilled_run hs (issue_unspilled hs fun t ht => ?_)
  extract_lets k origin bay refuse
  have hrefuse : ∀ b, AllUnspilled (refuse b t).admitted := fun b =>
    allUnspilled_of_eq ht (by
      unfold refuse
      dsimp only
      split <;> simp)
  split
  · simpa using ht
  · split
    · exact hrefuse _
    · split
      · exact hrefuse _
      · split
        · simpa using ht
        · refine readRanges_unspilled (fun u hu => ?_) ht
          dsimp only
          split <;> simpa using hu

@[simp] theorem execRet_unspilled (st : Nat) (h : IHdr) (o : Operands) : NextUnspilled (execRet st h o s) := by
  refine nextUnspilled_run hs ?_
  extract_lets out table hd n ctx layer fmt row
  refine issue_unspilled hs fun t ht => ?_
  split
  · simpa using ht
  · refine readRanges_unspilled (fun u hu => ?_) ht
    rw [completeNow_admitted]
    exact forEach_unspilled hu fun _ _ => sendReturn_unspilled

end

end Sys2Proof.Machine
end

section
/-! PROOFS. No step spills a speculative choice (03 R83). -/

-- As in the tests: proofs elaborated side by side exhaust memory in the joined text.
set_option Elab.async false

namespace Sys2Proof.Machine

theorem tick_unspilled {s : State} (hs : AllUnspilled s.admitted) : NextUnspilled (tick s) :=
  nextUnspilled_run hs (by simpa using hs)

/-- Each command by its own lemma. -/
theorem exec_unspilled {s : State} (hs : AllUnspilled s.admitted) (i : Instr) : NextUnspilled (exec i s) := by
  cases i <;> simp [exec, hs]

/-- A step is a tick or a command, which finds the ledger as the step does. -/
theorem step_unspilled {s : State} (hs : AllUnspilled s.admitted) : NextUnspilled (step s) := by
  unfold step
  split
  · exact tick_unspilled hs
  · next i rest _ => exact exec_unspilled (s := { s with pending := rest }) hs i

/-- Settles O56: an admission lets a new speculative choice into the main run alone, or refuses it, and carries committed
choices only (`admitChoices_unspilled`); every other operation keeps a choice's part and gives out no slot. -/
theorem speculativeNeverSpilled : Obligations.SpeculativeNeverSpilled := by
  unfold Obligations.SpeculativeNeverSpilled
  exact ⟨List.forall_mem_nil _, fun _ t hs e => step_unspilled hs t e⟩

end Sys2Proof.Machine
end

section
/-! PROOFS. The first-source record (16 R504 to R506): the three ways in which a fault arrives, and the management cycles that
one fault takes. -/

-- As in the tests: proofs elaborated side by side exhaust memory in the joined text.
set_option Elab.async false

namespace Sys2Proof.Machine

variable {s t : State} {f g : Fault16} {src : Option FaultRec} {r : FaultRec}

/-! ### The three records (16 R504) -/

@[simp] theorem recOf_setRec_self (s : State) (cls : Nat) (r : FaultRec) : recOf (setRec s cls r) cls = r := by
  unfold recOf setRec
  split
  · rfl
  · split <;> rfl

theorem recOf_setRec_ne {c cls : Nat} (hc : c < 3) (hcls : cls < 3) (h : c ≠ cls) (r : FaultRec) :
    recOf (setRec s cls r) c = recOf s c := by
  interval_cases cls
  · simp [recOf, setRec, h]
  · simp [recOf, setRec, h]
  · obtain rfl | rfl : c = 0 ∨ c = 1 := by omega
    · rfl
    · rfl

/-- What the records are after a write rests on what they were alone. -/
theorem recOf_setRec_congr (h : ∀ c, recOf t c = recOf s c) (cls : Nat) (r : FaultRec) (c : Nat) :
    recOf (setRec t cls r) c = recOf (setRec s cls r) c := by
  have hC : t.recC = s.recC := h 0
  have hU : t.recU = s.recU := h 1
  have hF : t.recF = s.recF := h 2
  unfold recOf setRec
  split_ifs <;> simp [hC, hU, hF]

theorem setRec_eq (s : State) (cls : Nat) (r : FaultRec) :
    setRec s cls r =
      { s with recC := (setRec s cls r).recC, recU := (setRec s cls r).recU, recF := (setRec s cls r).recF } := by
  unfold setRec
  split
  · rfl
  · split <;> rfl

theorem getE_setRec (s : State) (cls : Nat) (r : FaultRec) (i j : Nat) : getE (setRec s cls r) i j = getE s i j := by
  rw [setRec_eq]
  rfl

theorem recOf_count (s : State) (i j c : Nat) : recOf (count s i j) c = recOf s c := rfl

theorem recOf_memWrite (s : State) (a : Nat) (bs : List Byte) (c : Nat) : recOf (memWrite s a bs) c = recOf s c := by
  unfold memWrite
  split <;> rfl

/-- The copy of a record into the fault log leaves the records as they are (16 R512). -/
theorem recOf_logCopy (s : State) (cls c : Nat) : recOf (logCopy s cls) c = recOf s c := by
  unfold logCopy
  dsimp only
  split
  · rfl
  · exact recOf_memWrite s _ _ c

theorem sameEntriesBut_count (s : State) {i j : Nat} (hi : i < 65536) (hj : j < 256) :
    SameEntriesBut [(i, j)] s (count s i j) := by
  intro i' j' hi' hj' hne
  refine getE_count_ne fun he => hne ?_
  obtain ⟨-, rfl, rfl⟩ := ekey_inj he hi' hj' hi hj
  exact List.mem_singleton_self _

/-! ### The arrival of one fault (16 R504, R505): the three cases of `arrive` -/

/-- A fault latches into a record that is not VALID. -/
theorem arrive_of_empty (src : Option FaultRec) (hv : (recOf s f.cls).valid = false) :
    ∃ t, arrive s f src = (t, none) ∧ ∀ c, recOf t c = recOf (setRec s f.cls (newRec s f src)) c := by
  unfold arrive
  refine ⟨_, if_pos hv, fun c => ?_⟩
  rw [recOf_logCopy, ← recOf_setRec_congr (recOf_count s 0xA0C0 (f.cls + 1))]
  split <;> rfl

/-- A fault with the cause and the unit of the record repeats it. -/
theorem arrive_of_same (src : Option FaultRec) (hr : recOf s f.cls = r) (hv : r.valid = true)
    (h : r.cause = f.cause ∧ r.kind = f.kind ∧ r.unit = f.unit) :
    arrive s f src =
      (setRec (count s 0xA0C0 (f.cls + 1)) f.cls { r with repeats := min 255 (r.repeats + 1) }, none) := by
  subst hr
  simp [arrive, recOf_count, hv, h]

/-- Any other fault sets OVERFLOW and, below class F, escalates. -/
theorem arrive_of_other (src : Option FaultRec) (hr : recOf s f.cls = r) (hv : r.valid = true)
    (h : ¬(r.cause = f.cause ∧ r.kind = f.kind ∧ r.unit = f.unit)) :
    ∃ t, arrive s f src = (t, if 2 ≤ f.cls then none else some ({ f with cls := f.cls + 1 }, r)) ∧
      ∀ c, recOf t c = recOf (setRec s f.cls { r with overflow := true }) c := by
  have hset := recOf_setRec_congr (recOf_count s 0xA0C0 (f.cls + 1)) f.cls { r with overflow := true }
  have hv' : ¬r.valid = false := by simp [hv]
  simp only [arrive, recOf_count, hr, if_neg hv', if_neg h]
  split
  · exact ⟨_, rfl, hset⟩
  · exact ⟨_, rfl, hset⟩

/-- An arrival writes the record of its own class alone. -/
theorem recOf_arrive (s : State) (f : Fault16) (src : Option FaultRec) :
    ∃ r, ∀ c, recOf (arrive s f src).1 c = recOf (setRec s f.cls r) c := by
  cases hv : (recOf s f.cls).valid with
  | false =>
    obtain ⟨t, he, ht⟩ := arrive_of_empty src hv
    rw [he]
    exact ⟨_, ht⟩
  | true =>
    by_cases h : (recOf s f.cls).cause = f.cause ∧ (recOf s f.cls).kind = f.kind ∧ (recOf s f.cls).unit = f.unit
    · rw [arrive_of_same src rfl hv h]
      exact ⟨_, recOf_setRec_congr (recOf_count s _ _) _ _⟩
    · obtain ⟨t, he, ht⟩ := arrive_of_other src rfl hv h
      rw [he]
      exact ⟨_, ht⟩

/-! ### The management cycles of one fault (16 R506) -/

theorem latchCycles_quiet (n : Nat) (s : State) : latchCycles n s [] [] = s := by
  induction n with
  | zero => rfl
  | succ n ih => exact ih

theorem latchCycles_report (n : Nat) (s : State) (f : Fault16) :
    latchCycles (n + 1) s [] [f] = latchCycles n (arriveAll s [(f, none)]).1 (arriveAll s [(f, none)]).2 [] := rfl

theorem latchCycles_escalation (n : Nat) (s : State) (f : Fault16) (r : FaultRec) :
    latchCycles (n + 1) s [(f, some r)] [] =
      latchCycles n (arriveAll s [(f, some r)]).1 (arriveAll s [(f, some r)]).2 [] := rfl

theorem arriveAll_ends (h : arrive s f src = (t, none)) : arriveAll s [(f, src)] = (t, []) := by
  simp [arriveAll, h]

theorem arriveAll_escalates (h : arrive s f src = (t, some (g, r))) : arriveAll s [(f, src)] = (t, [(g, some r)]) := by
  simp [arriveAll, h]

theorem arriveAll_fst (s : State) (f : Fault16) (src : Option FaultRec) :
    (arriveAll s [(f, src)]).1 = (arrive s f src).1 := rfl

/-- A single fault whose pair the plumb does not ignore takes three cycles: its own and two for escalations. -/
theorem latchAll_singleton (h : s.deadPairs.contains (f.kind, f.unit) = false) :
    latchAll s [f] = latchCycles 3 s [] [f] := by
  simp only [latchAll, List.filter_cons, h, Bool.not_false, if_true, List.filter_nil]
  rfl

/-- Settles O55: `arrive` has three cases (`arrive_of_empty`, `arrive_of_same`, `arrive_of_other`), and each escalation of a
fault is the only arrival of the next cycle. -/
theorem firstSourceRecord : Obligations.FirstSourceRecord := by
  unfold Obligations.FirstSourceRecord
  refine ⟨fun s t f src e r hcls hr he => ?_, fun s f hdead => ?_⟩
  · obtain ⟨rfl, rfl⟩ : (arrive s f src).1 = t ∧ (arrive s f src).2 = e := Prod.mk.inj he
    refine ⟨fun c hc hne => ?_, fun hv => ?_, fun hv hsame => ?_, fun hv hother => ?_⟩
    · obtain ⟨r', ht⟩ := recOf_arrive s f src
      rw [ht, recOf_setRec_ne hc hcls hne]
    · obtain ⟨t, ha, ht⟩ := arrive_of_empty src (hr ▸ hv)
      have hnew : recOf t f.cls = newRec s f src := (ht _).trans (recOf_setRec_self s _ _)
      rw [ha]
      dsimp only
      rw [hnew]
      refine ⟨rfl, rfl, rfl, rfl, rfl, rfl, rfl, rfl, rfl, rfl, rfl, ?_, ?_⟩
      · rintro rfl
        exact ⟨rfl, rfl, rfl⟩
      · rintro q rfl
        exact ⟨rfl, rfl, rfl⟩
    · rw [arrive_of_same src hr.symm hv hsame]
      refine ⟨rfl, recOf_setRec_self _ _ _, ?_, fun i j hi hj hne => ?_⟩
      · dsimp only
        rw [setRec_eq]
        rfl
      · rw [getE_setRec]
        exact sameEntriesBut_count s (by decide) (by omega) i j hi hj hne
    · obtain ⟨t, ha, ht⟩ := arrive_of_other src hr.symm hv hother
      rw [ha]
      refine ⟨(ht _).trans (recOf_setRec_self s _ _), fun h2 => if_pos h2.ge, fun h2 => if_neg (by omega)⟩
  · rw [latchAll_singleton hdead, latchCycles_report]
    rcases h1 : arrive s f none with ⟨t, _ | ⟨g, r⟩⟩
    · simp only [arriveAll_ends h1, latchCycles_quiet]
    · simp only [arriveAll_escalates h1, latchCycles_escalation]
      rcases h2 : arrive t g (some r) with ⟨u, _ | ⟨h, q⟩⟩
      · simp only [arriveAll_ends h2, latchCycles_quiet]
      · simp only [arriveAll_escalates h2, latchCycles_escalation]
        exact arriveAll_fst u h (some q)

end Sys2Proof.Machine
end

section
/-! PROOFS. What holds of the machine as a whole: a step takes one command, keeps the stores canonical and the fuses burnt, and
every command runs. -/

-- As in the tests: proofs elaborated side by side exhaust memory in the joined text.
set_option Elab.async false

namespace Sys2Proof.Machine

/-! ### Commands -/

/-- Every command but the two of the reset pin keeps what `Keeps` names, each by its own lemma. -/
theorem keeps_exec {s0 s : State} (hs : Keeps s0 s) (c : Instr) (h1 : c ≠ .resetAssert) (h2 : ∀ n, c ≠ .resetRelease n) :
    KeepsRes s0 (exec c s) := by
  cases c with
  | resetAssert => exact absurd rfl h1
  | resetRelease n => exact absurd rfl (h2 n)
  | supplyRange _ => exact keeps_execSupplyRange hs
  | refclkLost => exact keeps_execRefclkLost hs
  | pllLockTimeout _ => exact keeps_execPllLockTimeout hs
  | pllLockLoss _ => exact keeps_execPllLockLoss hs
  | firmwareLoad _ => exact keeps_execFirmwareLoad hs
  | firmwareImageChecked _ => exact keeps_execFirmwareImageChecked hs
  | securityVersionCommit _ => exact keeps_execSecurityVersionCommit hs
  | initSramZeroed => exact keeps_execInitSramZeroed hs
  | stacksTrained _ => exact keeps_execStacksTrained hs
  | tier1Zeroed => exact keeps_execTier1Zeroed hs
  | rngHealth => exact keeps_execRngHealth hs
  | ownerKey _ => exact keeps_execOwnerKey hs
  | endorsement _ _ => exact keeps_execEndorsement hs
  | attestNonce _ => exact keeps_execAttestNonce hs
  | quoteComplete => exact keeps_execQuoteComplete hs
  | testUnlock _ _ => exact keeps_execTestUnlock hs
  | unlockWipeComplete => exact keeps_execUnlockWipeComplete hs
  | testPortInstruction _ => exact keeps_execTestPortInstruction hs
  | stateRequestConfigured _ => exact keeps_execStateRequestConfigured hs
  | stateRequestRunning _ => exact keeps_execStateRequestRunning hs
  | packageIdWrite _ => exact keeps_execPackageIdWrite hs
  | keystonePositionWrite _ => exact keeps_execKeystonePositionWrite hs
  | keystoneBeacon => exact keeps_execKeystoneBeacon hs
  | pondBeacon _ => exact keeps_execPondBeacon hs
  | keystoneSilent => exact keeps_execKeystoneSilent hs
  | unitFailure _ => exact keeps_execUnitFailure hs
  | submit _ _ _ => exact keeps_execSubmit hs
  | scoringPass _ _ _ _ _ => exact keeps_execScoringPass hs
  | gateStreamComplete _ _ _ _ => exact keeps_execGateStreamComplete hs
  | partialScores _ => exact keeps_execPartialScores hs
  | placementBlockRead _ _ _ _ _ _ => exact keeps_execPlacementBlockRead hs
  | claimBundle _ _ => exact keeps_execClaimBundle hs
  | claimBundleAck _ _ _ _ => exact keeps_execClaimBundleAck hs
  | admissionBarrierJoin _ _ _ => exact keeps_execAdmissionBarrierJoin hs
  | admission _ _ _ => exact keeps_execAdmission hs
  | admissionAbort _ _ _ _ => exact keeps_execAdmissionAbort hs
  | verdictBundle _ _ => exact keeps_execVerdictBundle hs
  | tokenCopy _ _ _ => exact keeps_execTokenCopy hs
  | cisternGrant _ _ => exact keeps_execCisternGrant hs
  | listRebuildComplete _ => exact keeps_execListRebuildComplete hs
  | expertRun _ _ _ => exact keeps_execExpertRun hs
  | runPartDue _ _ _ => exact keeps_execRunPartDue hs
  | missGraceExpiry _ _ _ => exact keeps_execMissGraceExpiry hs
  | missNotice _ _ r => exact keeps_execMissNotice (_notResident := r) hs
  | expertRunComplete _ _ => exact keeps_execExpertRunComplete hs
  | carryWaitExpiry _ _ _ => exact keeps_execCarryWaitExpiry hs
  | ret _ _ _ => exact keeps_execRet hs
  | returnPacket _ _ => exact keeps_execReturnPacket hs
  | returnTimeoutExpiry _ _ => exact keeps_execReturnTimeoutExpiry hs
  | fetch _ _ _ => exact keeps_execFetch hs
  | flush _ _ _ => exact keeps_execFlush hs
  | kvCommit _ _ _ => exact keeps_execKvCommit hs
  | retire _ _ _ => exact keeps_execRetire hs
  | accept _ _ _ => exact keeps_execAccept hs
  | retireGeneration _ => exact keeps_execRetireGeneration hs
  | abandonStranded _ => exact keeps_execAbandonStranded hs
  | placementUpdate _ => exact keeps_execPlacementUpdate hs
  | placementStoreComplete _ _ _ _ => exact keeps_execPlacementStoreComplete hs
  | deadlinePolicyWrite _ _ => exact keeps_execDeadlinePolicyWrite hs
  | fillStart _ _ _ => exact keeps_execFillStart hs
  | fillComplete _ _ _ _ _ => exact keeps_execFillComplete hs
  | writebackComplete _ _ => exact keeps_execWritebackComplete hs
  | placeObject _ => exact keeps_execPlaceObject hs
  | flushObject _ => exact keeps_execFlushObject hs
  | kvWrite _ _ _ _ _ => exact keeps_execKvWrite hs
  | setWatermark _ => exact keeps_execSetWatermark hs
  | releaseProvisional _ => exact keeps_execReleaseProvisional hs
  | kvPoolTail _ => exact keeps_execKvPoolTail hs
  | halt _ _ _ => exact keeps_execHalt hs
  | branch _ _ _ => exact keeps_execBranch hs
  | loopSet _ _ _ => exact keeps_execLoopSet hs
  | loopBack _ _ _ => exact keeps_execLoopBack hs
  | yield _ _ _ => exact keeps_execYield hs
  | stepMark _ _ _ => exact keeps_execStepMark hs
  | npBegin _ _ _ => exact keeps_execNpBegin hs
  | npEnd _ _ _ => exact keeps_execNpEnd hs
  | setVl _ _ _ => exact keeps_execSetVl hs
  | setReg _ _ _ => exact keeps_execSetReg hs
  | regionOverrun _ => exact keeps_execRegionOverrun hs
  | dmaPost _ _ _ => exact keeps_execDmaPost hs
  | dmaDescriptorComplete _ _ _ _ => exact keeps_execDmaDescriptorComplete hs
  | syncSet _ _ _ => exact keeps_execSyncSet hs
  | syncAdd _ _ _ => exact keeps_execSyncAdd hs
  | syncSignal _ _ _ => exact keeps_execSyncSignal hs
  | syncWait _ _ _ => exact keeps_execSyncWait hs
  | syncRead _ _ _ => exact keeps_execSyncRead hs
  | syncClear _ _ _ => exact keeps_execSyncClear hs
  | signalDelivery _ _ _ => exact keeps_execSignalDelivery hs
  | syncWatchdogExpiry _ => exact keeps_execSyncWatchdogExpiry hs
  | scrubPass _ _ => exact keeps_execScrubPass hs
  | fenceStone _ => exact keeps_execFenceStone hs
  | remapStone _ => exact keeps_execRemapStone hs
  | denseProduct _ _ _ _ => exact keeps_execDenseProduct hs
  | sparseProduct _ _ _ _ => exact keeps_execSparseProduct hs
  | tileComplete _ _ _ _ => exact keeps_execTileComplete hs
  | compressActivations _ _ _ => exact keeps_execCompressActivations hs
  | compressWeightsMask _ _ _ => exact keeps_execCompressWeightsMask hs
  | compressWeightsMagnitude _ _ _ => exact keeps_execCompressWeightsMagnitude hs
  | expand _ _ _ => exact keeps_execExpand hs
  | transpose _ _ _ => exact keeps_execTranspose hs
  | engineInject _ => exact keeps_execEngineInject hs
  | configure _ _ _ => exact keeps_execConfigure hs
  | vectorRun _ _ _ _ _ => exact keeps_execVectorRun hs
  | vectorRunComplete _ _ => exact keeps_execVectorRunComplete hs
  | scalarSet _ _ _ => exact keeps_execScalarSet hs
  | scalarFunc _ _ _ => exact keeps_execScalarFunc hs
  | scalarStore _ _ _ => exact keeps_execScalarStore hs
  | scalarLoad _ _ _ => exact keeps_execScalarLoad hs
  | bufferRelease _ _ _ => exact keeps_execBufferRelease hs
  | poolCommit _ => exact keeps_execPoolCommit hs
  | memoryLoad _ _ _ => exact keeps_execMemoryLoad hs
  | memoryStore _ _ _ => exact keeps_execMemoryStore hs
  | atomicRead _ _ _ => exact keeps_execAtomicRead hs
  | atomicSwap _ _ _ => exact keeps_execAtomicSwap hs
  | atomicCas _ _ _ => exact keeps_execAtomicCas hs
  | atomicAdd _ _ _ => exact keeps_execAtomicAdd hs
  | atomicAnd _ _ _ => exact keeps_execAtomicAnd hs
  | atomicOr _ _ _ => exact keeps_execAtomicOr hs
  | atomicXor _ _ _ => exact keeps_execAtomicXor hs
  | atomicMaxS _ _ _ => exact keeps_execAtomicMaxS hs
  | atomicMinS _ _ _ => exact keeps_execAtomicMinS hs
  | atomicMaxU _ _ _ => exact keeps_execAtomicMaxU hs
  | atomicMinU _ _ _ => exact keeps_execAtomicMinU hs
  | memoryFence _ _ _ => exact keeps_execMemoryFence hs
  | memoryRequestAtHome _ _ => exact keeps_execMemoryRequestAtHome hs
  | lineRequestPerformed _ _ => exact keeps_execLineRequestPerformed hs
  | memoryResponse _ => exact keeps_execMemoryResponse hs
  | attemptTimeoutExpiry _ _ _ => exact keeps_execAttemptTimeoutExpiry hs
  | ledgerEntryExpiry _ _ _ _ => exact keeps_execLedgerEntryExpiry hs
  | windowSet _ => exact keeps_execWindowSet hs
  | windowClear _ => exact keeps_execWindowClear hs
  | groupCommit _ _ _ => exact keeps_execGroupCommit hs
  | collBarrier _ _ _ => exact keeps_execCollBarrier hs
  | collBroadcast _ _ _ => exact keeps_execCollBroadcast hs
  | collReduce _ _ _ => exact keeps_execCollReduce hs
  | collAllReduce _ _ _ => exact keeps_execCollAllReduce hs
  | collReduceScatter _ _ _ => exact keeps_execCollReduceScatter hs
  | collAllGather _ _ _ => exact keeps_execCollAllGather hs
  | collMulticast _ _ _ => exact keeps_execCollMulticast hs
  | collRetentionGrant _ _ => exact keeps_execCollRetentionGrant hs
  | tileNotice _ _ _ => exact keeps_execTileNotice hs
  | partialMsg _ => exact keeps_execPartialMsg hs
  | resultMsg _ => exact keeps_execResultMsg hs
  | pnak _ _ => exact keeps_execPnak hs
  | collNak _ _ => exact keeps_execCollNak hs
  | doneMsg _ => exact keeps_execDoneMsg hs
  | sealMsg _ => exact keeps_execSealMsg hs
  | abortReq _ => exact keeps_execAbortReq hs
  | abort _ => exact keeps_execAbort hs
  | backoff _ => exact keeps_execBackoff hs
  | backoffRetry _ _ => exact keeps_execBackoffRetry hs
  | leg _ => exact keeps_execLeg hs
  | legAck _ _ _ _ _ _ => exact keeps_execLegAck hs
  | collTimeoutExpiry _ => exact keeps_execCollTimeoutExpiry hs
  | sealWaitTimeout _ => exact keeps_execSealWaitTimeout hs
  | collAbort _ => exact keeps_execCollAbort hs
  | portTrainingRetry _ => exact keeps_execPortTrainingRetry hs
  | trainingComplete _ _ => exact keeps_execTrainingComplete hs
  | hello _ _ => exact keeps_execHello hs
  | echoFrame _ _ => exact keeps_execEchoFrame hs
  | refusalNotice _ => exact keeps_execRefusalNotice hs
  | linkLockLoss _ => exact keeps_execLinkLockLoss hs
  | portRetrain _ _ => exact keeps_execPortRetrain hs
  | portFence _ _ => exact keeps_execPortFence hs
  | rekey _ => exact keeps_execRekey hs
  | rekeyExchange _ _ => exact keeps_execRekeyExchange hs
  | linkFrameReceived _ _ => exact keeps_execLinkFrameReceived hs
  | controlBlock _ _ => exact keeps_execControlBlock hs
  | frameTransmit _ _ => exact keeps_execFrameTransmit hs
  | packetRoute _ _ => exact keeps_execPacketRoute hs
  | aqueductPacket _ _ => exact keeps_execAqueductPacket hs
  | aqSet _ => exact keeps_execAqSet hs
  | aqClear _ => exact keeps_execAqClear hs
  | tableInstall _ => exact keeps_execTableInstall hs
  | injectEpoch _ => exact keeps_execInjectEpoch hs
  | tableRetire _ => exact keeps_execTableRetire hs
  | epochStepInstall _ => exact keeps_execEpochStepInstall hs
  | epochStepFlip _ => exact keeps_execEpochStepFlip hs
  | epochStepPoll _ => exact keeps_execEpochStepPoll hs
  | epochStepRetire _ => exact keeps_execEpochStepRetire hs
  | epochStepMember _ _ _ => exact keeps_execEpochStepMember hs
  | epochStepAnswer _ _ _ _ _ => exact keeps_execEpochStepAnswer hs
  | epochStepTimeout => exact keeps_execEpochStepTimeout hs
  | load _ => exact keeps_execLoad hs
  | loadComplete _ => exact keeps_execLoadComplete hs
  | unload _ _ => exact keeps_execUnload hs
  | unloadComplete _ => exact keeps_execUnloadComplete hs
  | resumeContinue _ _ => exact keeps_execResumeContinue hs
  | resumeStepMark _ _ => exact keeps_execResumeStepMark hs
  | pondJobPrepare _ _ => exact keeps_execPondJobPrepare hs
  | pondJobCommit _ => exact keeps_execPondJobCommit hs
  | pondJobRun _ => exact keeps_execPondJobRun hs
  | pondJobAbort _ => exact keeps_execPondJobAbort hs
  | pondJobTeardown _ => exact keeps_execPondJobTeardown hs
  | jobPrepare _ _ _ => exact keeps_execJobPrepare hs
  | jobCommit _ _ => exact keeps_execJobCommit hs
  | jobRun _ _ => exact keeps_execJobRun hs
  | jobAbort _ _ => exact keeps_execJobAbort hs
  | jobTeardown _ => exact keeps_execJobTeardown hs
  | teardownComplete => exact keeps_execTeardownComplete hs
  | jobStepAnswer _ => exact keeps_execJobStepAnswer hs
  | jobChildWaitExpiry => exact keeps_execJobChildWaitExpiry hs
  | jobStepTimeout => exact keeps_execJobStepTimeout hs
  | sliceGrant _ => exact keeps_execSliceGrant hs
  | sliceExpiry _ => exact keeps_execSliceExpiry hs
  | sliceStopComplete _ _ => exact keeps_execSliceStopComplete hs
  | swapInStart => exact keeps_execSwapInStart hs
  | swapOutComplete _ => exact keeps_execSwapOutComplete hs
  | swapInComplete _ => exact keeps_execSwapInComplete hs
  | submitDoorbell _ => exact keeps_execSubmitDoorbell hs
  | ringNop _ _ => exact keeps_execRingNop hs
  | ringStep _ _ => exact keeps_execRingStep hs
  | ringPrefill _ _ => exact keeps_execRingPrefill hs
  | ringFlush _ _ => exact keeps_execRingFlush hs
  | ringCommand _ _ _ _ _ _ _ => exact keeps_execRingCommand hs
  | ringReadError _ => exact keeps_execRingReadError hs
  | ringEnable _ _ => exact keeps_execRingEnable hs
  | ringResume _ _ => exact keeps_execRingResume hs
  | resultRelease _ _ => exact keeps_execResultRelease hs
  | resultMailboxRead _ _ => exact keeps_execResultMailboxRead hs
  | dictWrite _ _ _ => exact keeps_execDictWrite hs
  | dictDescribe _ _ _ => exact keeps_execDictDescribe hs
  | dictNext _ _ _ => exact keeps_execDictNext hs
  | dictDoorbell _ => exact keeps_execDictDoorbell hs
  | mappedWrite _ _ _ => exact keeps_execMappedWrite hs
  | relayRequest _ _ _ _ => exact keeps_execRelayRequest hs
  | relayResponse _ _ _ _ => exact keeps_execRelayResponse hs
  | relayTimeoutExpiry _ _ => exact keeps_execRelayTimeoutExpiry hs
  | deferredWriteComplete _ _ => exact keeps_execDeferredWriteComplete hs
  | lastRefusalRead _ => exact keeps_execLastRefusalRead hs
  | depthMaxRead _ _ _ => exact keeps_execDepthMaxRead hs
  | plcaFallback => exact keeps_execPlcaFallback hs
  | flitReceived _ => exact keeps_execFlitReceived hs
  | umoraLockLoss => exact keeps_execUmoraLockLoss hs
  | linkRetrain _ => exact keeps_execLinkRetrain hs
  | umoraDown => exact keeps_execUmoraDown hs
  | hostCompletion _ _ _ _ => exact keeps_execHostCompletion hs
  | timeBeacon _ _ => exact keeps_execTimeBeacon hs
  | badMessage _ => exact keeps_execBadMessage hs
  | holdoverExpiry => exact keeps_execHoldoverExpiry hs
  | faultReport _ => exact keeps_execFaultReport hs
  | reportWireStuck _ _ _ => exact keeps_execReportWireStuck hs
  | faultAck _ => exact keeps_execFaultAck hs
  | cAckHoldExpiry => exact keeps_execCAckHoldExpiry hs
  | faultSummarySend => exact keeps_execFaultSummarySend hs
  | faultSummary _ _ => exact keeps_execFaultSummary hs
  | summaryStale _ => exact keeps_execSummaryStale hs
  | interruptSelect n => exact keeps_execInterruptSelect (target := n) hs
  | interruptDelivery _ => exact keeps_execInterruptDelivery hs
  | mgmtEoi _ _ => exact keeps_execMgmtEoi hs
  | hostEoi _ => exact keeps_execHostEoi hs
  | serve _ _ => exact keeps_execServe hs
  | pendingWrite _ _ => exact keeps_execPendingWrite hs
  | wakeTolerance _ => exact keeps_execWakeTolerance hs
  | powerStateEntry => exact keeps_execPowerStateEntry hs
  | powerEntryComplete => exact keeps_execPowerEntryComplete hs
  | wakeEvent _ => exact keeps_execWakeEvent hs
  | wakeComplete => exact keeps_execWakeComplete hs
  | powerMeasurement _ => exact keeps_execPowerMeasurement hs
  | temperatureReading _ _ => exact keeps_execTemperatureReading hs
  | umoraTrainingComplete _ _ => exact keeps_execUmoraTrainingComplete hs
  | tier1Scrub _ _ _ => exact keeps_execTier1Scrub hs
  | plcaStatusRestored => exact keeps_execPlcaStatusRestored hs

/-- What a step keeps, the reset pin moving or not. -/
structure StepKeeps (s t : State) : Prop where
  pending : t.pending = s.pending
  fuses : FusesKept s.fuses t.fuses
  canon : Canonical s → Canonical t

theorem FusesKept.eq {a b : Fuses} (h : FusesKept a b) :
    b = { a with fusedSecurityVersion := b.fusedSecurityVersion } ∧ a.fusedSecurityVersion ≤ b.fusedSecurityVersion := by
  obtain ⟨hle, hsame⟩ := h
  exact ⟨by rw [← hsame], hle⟩

theorem Keeps.stepKeeps {s t : State} (h : Keeps s t) : StepKeeps s t := ⟨h.pending, h.fuses, h.canon⟩

theorem canonical_of_empty {s : State} (hm : s.mem = []) (hr : s.sram = []) (he : s.ent = []) : Canonical s := by
  simp [Canonical, Memory.wf, Sram.wf, Entries.wf, hm, hr, he, tsorted, tclean]

/-- RESET_N falling empties the stores and keeps fuses and queue (17 R546). -/
theorem stepKeeps_execResetAssert {s t : State} (e : execResetAssert s = .next t) : StepKeeps s t := by
  cases e
  exact ⟨rfl, .refl _, fun _ => canonical_of_empty rfl rfl rfl⟩

theorem stepKeeps_execResetRelease {n : Nat} {s t : State} (e : execResetRelease n s = .next t) : StepKeeps s t := by
  unfold execResetRelease at e
  split at e <;> cases e
  · exact ⟨rfl, .refl _, id⟩
  · exact ⟨rfl, .refl _, id⟩

theorem stepKeeps_exec {c : Instr} {s t : State} (e : exec c s = .next t) : StepKeeps s t := by
  by_cases h1 : c = .resetAssert
  · subst h1
    exact stepKeeps_execResetAssert e
  · by_cases h2 : ∃ n, c = .resetRelease n
    · obtain ⟨n, rfl⟩ := h2
      exact stepKeeps_execResetRelease e
    · exact ((keeps_exec (.refl s) c h1 (not_exists.1 h2)).of t e).stepKeeps

/-! ### Steps -/

theorem step_of_nil {s : State} (h : s.pending = []) : step s = tick s := by rw [step, h]

theorem step_of_cons {c : Instr} {rest : List Instr} {s : State} (h : s.pending = c :: rest) :
    step s = exec c { s with pending := rest } := by rw [step, h]

/-- A step keeps what a tick or a command keeps of the state with the rest of the queue. -/
theorem stepKeeps_step {s t : State} (e : step s = .next t) : StepKeeps { s with pending := s.pending.tail } t := by
  cases h : s.pending with
  | nil =>
    rw [step_of_nil h] at e
    have k := ((keeps_tick (.refl s)).of t e).stepKeeps
    exact ⟨k.pending.trans h, k.fuses, k.canon⟩
  | cons c rest => exact stepKeeps_exec ((step_of_cons h).symm.trans e)

/-- Settles O1: the definition of `step` on a queue that is not empty. -/
theorem stepRunsTheFrontCommand : Obligations.StepRunsTheFrontCommand := by
  unfold Obligations.StepRunsTheFrontCommand
  exact fun _ _ _ => step_of_cons

/-- Settles O2: the definition of `step` on the empty queue, and of the tick. -/
theorem idleStep : Obligations.IdleStep := by
  unfold Obligations.IdleStep
  intro s h
  rw [step_of_nil h]
  exact ⟨fun hl => by simp [tick, run, hl], fun hl => ⟨_, by simp [tick, run, hl], rfl⟩⟩

/-- Settles O3: no command writes the queue (`Keeps.pending`), from which the step takes the front. -/
theorem stepConsumesOneCommand : Obligations.StepConsumesOneCommand := by
  unfold Obligations.StepConsumesOneCommand
  exact fun _ _ e => (stepKeeps_step e).pending

/-- Settles O4: every writer of the three stores keeps their canonical form (`Keeps.canon`), and reset empties them. -/
theorem stepKeepsCanonical : Obligations.StepKeepsCanonical := by
  unfold Obligations.StepKeepsCanonical
  exact fun _ _ h e => (stepKeeps_step e).canon h

/-- Settles O6: SECURITY_VERSION_COMMIT alone writes a fuse, and takes the larger version (`FusesKept`). -/
theorem stepKeepsFuses : Obligations.StepKeepsFuses := by
  unfold Obligations.StepKeepsFuses
  exact fun _ _ e => (stepKeeps_step e).fuses.eq

theorem getC_of_empty {s : State} (h : s.ent = []) (c i j : Nat) : getC s c i j = entDefault (ekey c i j) := by
  simp [getC, h, tget, tlook]

theorem sramByte_of_empty {s : State} (h : s.sram = []) (st off : Nat) : sramByte s st off = 0 := by
  simp [sramByte, h, tget, tlook]

/-- Settles O5: the fields of the state after reset, whose stores are empty. -/
theorem resetState : Obligations.ResetState := by
  unfold Obligations.ResetState
  refine ⟨⟨rfl, rfl, rfl, getC_of_empty rfl, sramByte_of_empty rfl, fun _ => rfl, fun _ => rfl, fun _ => rfl, rfl, rfl, rfl, rfl, rfl⟩,
    canonical_of_empty rfl rfl rfl, fun _ _ h => h⟩

/-! ### Every command runs, and none while RESET_N is low -/

/-- The failure of a unit faults where the part does not have the unit, and runs otherwise. -/
theorem runs_unitFailure {u : FailedUnit} (h : unitExists u = true) (s : State) : Runs (.unitFailure u) s :=
  ⟨_, by change execUnitFailure u s = _; rw [execUnitFailure, if_neg (by simp [h])]; rfl⟩

theorem exec_unitFailure_missing {u : FailedUnit} (h : unitExists u = false) (s : State) :
    exec (.unitFailure u) s = .fault .noSuchUnit := if_pos h

/-- Every other command answers a next state by its definition: `run`, or a reset of the pin. -/
theorem runs_of_ne_unitFailure {c : Instr} (h : ∀ u, c ≠ .unitFailure u) (s : State) : Runs c s := by
  cases c
  case unitFailure u => exact absurd rfl (h u)
  all_goals exact ⟨_, rfl⟩

/-- Settles O7: `exec` faults in one arm alone, for a unit that the part does not have. -/
theorem everyCommandRuns : Obligations.EveryCommandRuns := by
  unfold Obligations.EveryCommandRuns
  intro c s
  by_cases h : ∃ u, c = .unitFailure u
  · obtain ⟨u, rfl⟩ := h
    cases hu : unitExists u with
    | true => exact .inl (runs_unitFailure hu s)
    | false => exact .inr ⟨u, rfl, hu, exec_unitFailure_missing hu s⟩
  · exact .inl (runs_of_ne_unitFailure (not_exists.1 h) s)

end Sys2Proof.Machine

namespace Sys2Proof.Laws.HeldInReset

/-- Settles O8: each command by its own lemma. -/
theorem heldInReset : Obligations.HeldInReset := by
  unfold Obligations.HeldInReset
  intro i
  cases i with
  | resetAssert => exact resetAssert
  | resetRelease a => exact resetRelease a
  | supplyRange a => exact supplyRange a
  | refclkLost => exact refclkLost
  | pllLockTimeout a => exact pllLockTimeout a
  | pllLockLoss a => exact pllLockLoss a
  | firmwareLoad a => exact firmwareLoad a
  | firmwareImageChecked a => exact firmwareImageChecked a
  | securityVersionCommit a => exact securityVersionCommit a
  | initSramZeroed => exact initSramZeroed
  | stacksTrained a => exact stacksTrained a
  | tier1Zeroed => exact tier1Zeroed
  | rngHealth => exact rngHealth
  | ownerKey a => exact ownerKey a
  | endorsement a b => exact endorsement a b
  | attestNonce a => exact attestNonce a
  | quoteComplete => exact quoteComplete
  | testUnlock a b => exact testUnlock a b
  | unlockWipeComplete => exact unlockWipeComplete
  | testPortInstruction a => exact testPortInstruction a
  | stateRequestConfigured a => exact stateRequestConfigured a
  | stateRequestRunning a => exact stateRequestRunning a
  | packageIdWrite a => exact packageIdWrite a
  | keystonePositionWrite a => exact keystonePositionWrite a
  | keystoneBeacon => exact keystoneBeacon
  | pondBeacon a => exact pondBeacon a
  | keystoneSilent => exact keystoneSilent
  | unitFailure a => exact unitFailure a
  | submit a b c => exact submit a b c
  | scoringPass a b c d e => exact scoringPass a b c d e
  | gateStreamComplete a b c d => exact gateStreamComplete a b c d
  | partialScores a => exact partialScores a
  | placementBlockRead a b c d e f => exact placementBlockRead a b c d e f
  | claimBundle a b => exact claimBundle a b
  | claimBundleAck a b c d => exact claimBundleAck a b c d
  | admissionBarrierJoin a b c => exact admissionBarrierJoin a b c
  | admission a b c => exact admission a b c
  | admissionAbort a b c d => exact admissionAbort a b c d
  | verdictBundle a b => exact verdictBundle a b
  | tokenCopy a b c => exact tokenCopy a b c
  | cisternGrant a b => exact cisternGrant a b
  | listRebuildComplete a => exact listRebuildComplete a
  | expertRun a b c => exact expertRun a b c
  | runPartDue a b c => exact runPartDue a b c
  | missGraceExpiry a b c => exact missGraceExpiry a b c
  | missNotice a b c => exact missNotice a b c
  | expertRunComplete a b => exact expertRunComplete a b
  | carryWaitExpiry a b c => exact carryWaitExpiry a b c
  | ret a b c => exact ret a b c
  | returnPacket a b => exact returnPacket a b
  | returnTimeoutExpiry a b => exact returnTimeoutExpiry a b
  | fetch a b c => exact fetch a b c
  | flush a b c => exact flush a b c
  | kvCommit a b c => exact kvCommit a b c
  | retire a b c => exact retire a b c
  | accept a b c => exact accept a b c
  | retireGeneration a => exact retireGeneration a
  | abandonStranded a => exact abandonStranded a
  | placementUpdate a => exact placementUpdate a
  | placementStoreComplete a b c d => exact placementStoreComplete a b c d
  | deadlinePolicyWrite a b => exact deadlinePolicyWrite a b
  | fillStart a b c => exact fillStart a b c
  | fillComplete a b c d e => exact fillComplete a b c d e
  | writebackComplete a b => exact writebackComplete a b
  | placeObject a => exact placeObject a
  | flushObject a => exact flushObject a
  | kvWrite a b c d e => exact kvWrite a b c d e
  | setWatermark a => exact setWatermark a
  | releaseProvisional a => exact releaseProvisional a
  | kvPoolTail a => exact kvPoolTail a
  | halt a b c => exact halt a b c
  | branch a b c => exact branch a b c
  | loopSet a b c => exact loopSet a b c
  | loopBack a b c => exact loopBack a b c
  | yield a b c => exact yield a b c
  | stepMark a b c => exact stepMark a b c
  | npBegin a b c => exact npBegin a b c
  | npEnd a b c => exact npEnd a b c
  | setVl a b c => exact setVl a b c
  | setReg a b c => exact setReg a b c
  | regionOverrun a => exact regionOverrun a
  | dmaPost a b c => exact dmaPost a b c
  | dmaDescriptorComplete a b c d => exact dmaDescriptorComplete a b c d
  | syncSet a b c => exact syncSet a b c
  | syncAdd a b c => exact syncAdd a b c
  | syncSignal a b c => exact syncSignal a b c
  | syncWait a b c => exact syncWait a b c
  | syncRead a b c => exact syncRead a b c
  | syncClear a b c => exact syncClear a b c
  | signalDelivery a b c => exact signalDelivery a b c
  | syncWatchdogExpiry a => exact syncWatchdogExpiry a
  | scrubPass a b => exact scrubPass a b
  | fenceStone a => exact fenceStone a
  | remapStone a => exact remapStone a
  | denseProduct a b c d => exact denseProduct a b c d
  | sparseProduct a b c d => exact sparseProduct a b c d
  | tileComplete a b c d => exact tileComplete a b c d
  | compressActivations a b c => exact compressActivations a b c
  | compressWeightsMask a b c => exact compressWeightsMask a b c
  | compressWeightsMagnitude a b c => exact compressWeightsMagnitude a b c
  | expand a b c => exact expand a b c
  | transpose a b c => exact transpose a b c
  | engineInject a => exact engineInject a
  | configure a b c => exact configure a b c
  | vectorRun a b c d e => exact vectorRun a b c d e
  | vectorRunComplete a b => exact vectorRunComplete a b
  | scalarSet a b c => exact scalarSet a b c
  | scalarFunc a b c => exact scalarFunc a b c
  | scalarStore a b c => exact scalarStore a b c
  | scalarLoad a b c => exact scalarLoad a b c
  | bufferRelease a b c => exact bufferRelease a b c
  | poolCommit a => exact poolCommit a
  | memoryLoad a b c => exact memoryLoad a b c
  | memoryStore a b c => exact memoryStore a b c
  | atomicRead a b c => exact atomicRead a b c
  | atomicSwap a b c => exact atomicSwap a b c
  | atomicCas a b c => exact atomicCas a b c
  | atomicAdd a b c => exact atomicAdd a b c
  | atomicAnd a b c => exact atomicAnd a b c
  | atomicOr a b c => exact atomicOr a b c
  | atomicXor a b c => exact atomicXor a b c
  | atomicMaxS a b c => exact atomicMaxS a b c
  | atomicMinS a b c => exact atomicMinS a b c
  | atomicMaxU a b c => exact atomicMaxU a b c
  | atomicMinU a b c => exact atomicMinU a b c
  | memoryFence a b c => exact memoryFence a b c
  | memoryRequestAtHome a b => exact memoryRequestAtHome a b
  | lineRequestPerformed a b => exact lineRequestPerformed a b
  | memoryResponse a => exact memoryResponse a
  | attemptTimeoutExpiry a b c => exact attemptTimeoutExpiry a b c
  | ledgerEntryExpiry a b c d => exact ledgerEntryExpiry a b c d
  | windowSet a => exact windowSet a
  | windowClear a => exact windowClear a
  | groupCommit a b c => exact groupCommit a b c
  | collBarrier a b c => exact collBarrier a b c
  | collBroadcast a b c => exact collBroadcast a b c
  | collReduce a b c => exact collReduce a b c
  | collAllReduce a b c => exact collAllReduce a b c
  | collReduceScatter a b c => exact collReduceScatter a b c
  | collAllGather a b c => exact collAllGather a b c
  | collMulticast a b c => exact collMulticast a b c
  | collRetentionGrant a b => exact collRetentionGrant a b
  | tileNotice a b c => exact tileNotice a b c
  | partialMsg a => exact partialMsg a
  | resultMsg a => exact resultMsg a
  | pnak a b => exact pnak a b
  | collNak a b => exact collNak a b
  | doneMsg a => exact doneMsg a
  | sealMsg a => exact sealMsg a
  | abortReq a => exact abortReq a
  | abort a => exact abort a
  | backoff a => exact backoff a
  | backoffRetry a b => exact backoffRetry a b
  | leg a => exact leg a
  | legAck a b c d e f => exact legAck a b c d e f
  | collTimeoutExpiry a => exact collTimeoutExpiry a
  | sealWaitTimeout a => exact sealWaitTimeout a
  | collAbort a => exact collAbort a
  | portTrainingRetry a => exact portTrainingRetry a
  | trainingComplete a b => exact trainingComplete a b
  | hello a b => exact hello a b
  | echoFrame a b => exact echoFrame a b
  | refusalNotice a => exact refusalNotice a
  | linkLockLoss a => exact linkLockLoss a
  | portRetrain a b => exact portRetrain a b
  | portFence a b => exact portFence a b
  | rekey a => exact rekey a
  | rekeyExchange a b => exact rekeyExchange a b
  | linkFrameReceived a b => exact linkFrameReceived a b
  | controlBlock a b => exact controlBlock a b
  | frameTransmit a b => exact frameTransmit a b
  | packetRoute a b => exact packetRoute a b
  | aqueductPacket a b => exact aqueductPacket a b
  | aqSet a => exact aqSet a
  | aqClear a => exact aqClear a
  | tableInstall a => exact tableInstall a
  | injectEpoch a => exact injectEpoch a
  | tableRetire a => exact tableRetire a
  | epochStepInstall a => exact epochStepInstall a
  | epochStepFlip a => exact epochStepFlip a
  | epochStepPoll a => exact epochStepPoll a
  | epochStepRetire a => exact epochStepRetire a
  | epochStepMember a b c => exact epochStepMember a b c
  | epochStepAnswer a b c d e => exact epochStepAnswer a b c d e
  | epochStepTimeout => exact epochStepTimeout
  | load a => exact load a
  | loadComplete a => exact loadComplete a
  | unload a b => exact unload a b
  | unloadComplete a => exact unloadComplete a
  | resumeContinue a b => exact resumeContinue a b
  | resumeStepMark a b => exact resumeStepMark a b
  | pondJobPrepare a b => exact pondJobPrepare a b
  | pondJobCommit a => exact pondJobCommit a
  | pondJobRun a => exact pondJobRun a
  | pondJobAbort a => exact pondJobAbort a
  | pondJobTeardown a => exact pondJobTeardown a
  | jobPrepare a b c => exact jobPrepare a b c
  | jobCommit a b => exact jobCommit a b
  | jobRun a b => exact jobRun a b
  | jobAbort a b => exact jobAbort a b
  | jobTeardown a => exact jobTeardown a
  | teardownComplete => exact teardownComplete
  | jobStepAnswer a => exact jobStepAnswer a
  | jobChildWaitExpiry => exact jobChildWaitExpiry
  | jobStepTimeout => exact jobStepTimeout
  | sliceGrant a => exact sliceGrant a
  | sliceExpiry a => exact sliceExpiry a
  | sliceStopComplete a b => exact sliceStopComplete a b
  | swapInStart => exact swapInStart
  | swapOutComplete a => exact swapOutComplete a
  | swapInComplete a => exact swapInComplete a
  | submitDoorbell a => exact submitDoorbell a
  | ringNop a b => exact ringNop a b
  | ringStep a b => exact ringStep a b
  | ringPrefill a b => exact ringPrefill a b
  | ringFlush a b => exact ringFlush a b
  | ringCommand a b c d e f g => exact ringCommand a b c d e f g
  | ringReadError a => exact ringReadError a
  | ringEnable a b => exact ringEnable a b
  | ringResume a b => exact ringResume a b
  | resultRelease a b => exact resultRelease a b
  | resultMailboxRead a b => exact resultMailboxRead a b
  | dictWrite a b c => exact dictWrite a b c
  | dictDescribe a b c => exact dictDescribe a b c
  | dictNext a b c => exact dictNext a b c
  | dictDoorbell a => exact dictDoorbell a
  | mappedWrite a b c => exact mappedWrite a b c
  | relayRequest a b c d => exact relayRequest a b c d
  | relayResponse a b c d => exact relayResponse a b c d
  | relayTimeoutExpiry a b => exact relayTimeoutExpiry a b
  | deferredWriteComplete a b => exact deferredWriteComplete a b
  | lastRefusalRead a => exact lastRefusalRead a
  | depthMaxRead a b c => exact depthMaxRead a b c
  | plcaFallback => exact plcaFallback
  | flitReceived a => exact flitReceived a
  | umoraLockLoss => exact umoraLockLoss
  | linkRetrain a => exact linkRetrain a
  | umoraDown => exact umoraDown
  | hostCompletion a b c d => exact hostCompletion a b c d
  | timeBeacon a b => exact timeBeacon a b
  | badMessage a => exact badMessage a
  | holdoverExpiry => exact holdoverExpiry
  | faultReport a => exact faultReport a
  | reportWireStuck a b c => exact reportWireStuck a b c
  | faultAck a => exact faultAck a
  | cAckHoldExpiry => exact cAckHoldExpiry
  | faultSummarySend => exact faultSummarySend
  | faultSummary a b => exact faultSummary a b
  | summaryStale a => exact summaryStale a
  | interruptSelect a => exact interruptSelect a
  | interruptDelivery a => exact interruptDelivery a
  | mgmtEoi a b => exact mgmtEoi a b
  | hostEoi a => exact hostEoi a
  | serve a b => exact serve a b
  | pendingWrite a b => exact pendingWrite a b
  | wakeTolerance a => exact wakeTolerance a
  | powerStateEntry => exact powerStateEntry
  | powerEntryComplete => exact powerEntryComplete
  | wakeEvent a => exact wakeEvent a
  | wakeComplete => exact wakeComplete
  | powerMeasurement a => exact powerMeasurement a
  | temperatureReading a b => exact temperatureReading a b
  | umoraTrainingComplete a b => exact umoraTrainingComplete a b
  | tier1Scrub a b c => exact tier1Scrub a b c
  | plcaStatusRestored => exact plcaStatusRestored

end Sys2Proof.Laws.HeldInReset
end


section
/-! PROOFS. The sequencer (05 R165, R172 to R178, 08 R270): registers, jumps, rests and the overrun of a region. -/

-- As in the tests: proofs elaborated side by side exhaust memory in the joined text.
set_option Elab.async false

namespace Sys2Proof.Machine

section
variable {s : State} {st : Nat} {h : IHdr} {o : Operands}

/-! ### Issue -/

/-- An instruction that its stone could issue and that fails a check of 05 R174 is BAD_INSTRUCTION. -/
theorem run_issue_bad {srcs dsts : List (Nat × Nat)} {ok : Bool} {k : State → State} (hi : issues s st h srcs dsts = true)
    (hok : ok = false) : run s (fun s => issue s st ok srcs dsts k) = .next (failStone s st 0x04) := by
  have hc : canIssue s st = true := by
    simp only [issues, Bool.and_eq_true] at hi
    exact hi.1.1.2
  rw [run_up (up_of_issues hi), issue, if_neg (by simp [hc]), if_pos hok]

/-! ### Registers (05 R177, 08 R270) -/

theorem advances_loopSet (hi : issues s st h [] [] = true) (ho : onlyFields [(111, 108), (105, 102), (23, 0)] o = true) :
    Advances (.loopSet st h o) s st (goesOn h (setLc (stoneOf s st) (fld 111 109 o)
      (if flag 108 o then (reg s st (fld 105 102 o)).setWidth 24 else BitVec.ofNat 24 (fld 23 0 o)))) :=
  advances_issue (fun x => setLc x (fld 111 109 o)
      (if flag 108 o then (reg s st (fld 105 102 o)).setWidth 24 else BitVec.ofNat 24 (fld 23 0 o)))
    hi rfl (by simp [headerOk_of_issues hi, ho]) (by simp only [reg_stall]) fun _ => ⟨rfl, rfl, rfl, rfl, rfl, rfl⟩

theorem advances_stepMark (hi : issues s st h [] [] = true) (ho : onlyFields [] o = true) :
    Advances (.stepMark st h o) s st (goesOn h { stoneOf s st with
      mark := some { pc := (stoneOf s st).pc + 1, lc := (stoneOf s st).lc, areg := (stoneOf s st).areg, vl := (stoneOf s st).vl } }) :=
  advances_issue (fun x => { x with mark := some { pc := x.pc + 1, lc := x.lc, areg := x.areg, vl := x.vl } })
    hi rfl (by simp [headerOk_of_issues hi, ho]) rfl fun _ => ⟨rfl, rfl, rfl, rfl, rfl, rfl⟩

theorem advances_npBegin (hi : issues s st h [] [] = true) (ho : onlyFields [(47, 32)] o = true)
    (hb : boundOk s st (fld 47 32 o) = true) :
    Advances (.npBegin st h o) s st (goesOn h { stoneOf s st with np := some (fld 47 32 o) }) :=
  advances_issue (fun x => { x with np := some (fld 47 32 o) })
    hi rfl (by simp [headerOk_of_issues hi, ho, hb]) rfl fun _ => ⟨rfl, rfl, rfl, rfl, rfl, rfl⟩

theorem exec_npBegin_bad (hi : issues s st h [] [] = true) (hb : boundOk s st (fld 47 32 o) = false) :
    exec (.npBegin st h o) s = .next (failStone s st 0x04) := run_issue_bad hi (by simp [hb])

theorem advances_npEnd (hi : issues s st h [] [] = true) (ho : onlyFields [] o = true) :
    Advances (.npEnd st h o) s st (goesOn h { stoneOf s st with np := none }) :=
  advances_issue (fun x => { x with np := none })
    hi rfl (by simp [headerOk_of_issues hi, ho]) rfl fun _ => ⟨rfl, rfl, rfl, rfl, rfl, rfl⟩

theorem advances_setVl_imm (hi : issues s st h [] [] = true) (ho : onlyFields [(111, 108), (107, 107), (16, 0)] o = true)
    (hf : flag 107 o = false) (hl : fld 16 0 o ≤ 65536) :
    Advances (.setVl st h o) s st (goesOn h { stoneOf s st with vl := fld 16 0 o }) :=
  advances_issue (fun x => { x with vl := fld 16 0 o })
    hi rfl (by simp [headerOk_of_issues hi, ho, hl]) (by simp [hf]) fun _ => ⟨rfl, rfl, rfl, rfl, rfl, rfl⟩

theorem advances_setVl_reg (hi : issues s st h [] [] = true) (ho : onlyFields [(111, 108), (107, 107), (16, 0)] o = true)
    (hf : flag 107 o = true) {n : Nat} (hn : n = (reg s st (fld 111 108 o)).toNat) :
    Advances (.setVl st h o) s st (goesOn h
      { setAreg (stoneOf s st) (fld 111 108 o) (BitVec.ofNat 32 (n - min n 65536)) with vl := min n 65536 }) :=
  advances_issue (fun x => { setAreg x (fld 111 108 o) (BitVec.ofNat 32 (n - min n 65536)) with vl := min n 65536 })
    hi rfl (by simp [headerOk_of_issues hi, ho, hf]) (by simp [hf, hn, reg_stall]) fun _ => ⟨rfl, rfl, rfl, rfl, rfl, rfl⟩

theorem advances_setReg (hi : issues s st h [] [] = true)
    (ho : onlyFields [(111, 108), (107, 106), (105, 102), (31, 0)] o = true) :
    Advances (.setReg st h o) s st (goesOn h (setAreg (stoneOf s st) (fld 111 108 o)
      (setRegValue (fld 107 106 o) (reg s st (fld 111 108 o)) (reg s st (fld 105 102 o)) (BitVec.ofNat 32 (fld 31 0 o))))) :=
  advances_issue (fun x => setAreg x (fld 111 108 o)
      (setRegValue (fld 107 106 o) (reg s st (fld 111 108 o)) (reg s st (fld 105 102 o)) (BitVec.ofNat 32 (fld 31 0 o))))
    hi rfl (by simp [headerOk_of_issues hi, ho]) (by simp only [reg_stall]) fun _ => ⟨rfl, rfl, rfl, rfl, rfl, rfl⟩

/-! ### Jumps (05 R178) -/

/-- COND of a BRANCH, each value in the words of R178. -/
theorem branchTaken_iff {cond : Nat} {v : BitVec 32} (h : cond ≤ 4) : branchTaken cond v = true ↔
    cond = 0 ∨ (cond = 1 ∧ v = 0) ∨ (cond = 2 ∧ v ≠ 0) ∨ (cond = 3 ∧ v.toInt < 0) ∨ (cond = 4 ∧ 0 ≤ v.toInt) := by
  interval_cases cond <;> simp [branchTaken, BitVec.msb_eq_toInt]

theorem advances_branch (hi : issues s st h [] [] = true) (ho : onlyFields [(111, 109), (105, 102), (13, 0)] o = true)
    (hc : fld 111 109 o ≤ 4) (ht : targetOk s st (fld 13 0 o) = true) :
    Advances (.branch st h o) s st (withSignal h { stoneOf s st with
      stall := none
      pc := if branchTaken (fld 111 109 o) (reg s st (fld 105 102 o)) then fld 13 0 o else (stoneOf s st).pc + 1 }) :=
  advances_jump (fun x => { x with pc := if branchTaken (fld 111 109 o) (reg s st (fld 105 102 o)) then fld 13 0 o else x.pc + 1 })
    hi rfl (by simp [headerOk_of_issues hi, ho, hc, ht]) (by simp only [reg_stall]) fun _ => ⟨rfl, rfl, rfl, rfl, rfl⟩

theorem exec_branch_bad (hi : issues s st h [] [] = true) (ht : targetOk s st (fld 13 0 o) = false) :
    exec (.branch st h o) s = .next (failStone s st 0x04) := run_issue_bad hi (by simp [ht])

theorem exec_loopBack_bad (hi : issues s st h [] [] = true) (ht : targetOk s st (fld 13 0 o) = false) :
    exec (.loopBack st h o) s = .next (failStone s st 0x04) := run_issue_bad hi (by simp [ht])

/-- What LOOP_BACK does to its stone. -/
def loopedBack (l target : Nat) (v : BitVec 24) (x : Stone) : Stone :=
  if v = 0 then { x with pc := x.pc + 1 } else { setLc x l (v - 1) with pc := if v - 1 = 0 then x.pc + 1 else target }

theorem loopedBack_keeps (l target : Nat) (v : BitVec 24) (x : Stone) : (loopedBack l target v x).run = x.run ∧
    (loopedBack l target v x).stall = x.stall ∧ (loopedBack l target v x).owner = x.owner ∧
    (loopedBack l target v x).dense = x.dense ∧ (loopedBack l target v x).sparse = x.sparse := by
  unfold loopedBack
  split <;> exact ⟨rfl, rfl, rfl, rfl, rfl⟩

theorem advances_loopBack (hi : issues s st h [] [] = true) (ho : onlyFields [(111, 109), (13, 0)] o = true)
    (ht : targetOk s st (fld 13 0 o) = true) :
    Advances (.loopBack st h o) s st (withSignal h (loopedBack (fld 111 109 o) (fld 13 0 o)
      (lcOf (stoneOf s st) (fld 111 109 o)) { stoneOf s st with stall := none })) :=
  advances_jump (loopedBack (fld 111 109 o) (fld 13 0 o) (lcOf (stoneOf s st) (fld 111 109 o)))
    hi rfl (by simp [headerOk_of_issues hi, ho, ht]) (by simp only [stoneOf_modStone_self]; rfl) (loopedBack_keeps _ _ _)

/-! ### Rests (05 R178) -/

theorem rests_halt (hi : issues s st h [] [] = true) (ho : onlyFields [] o = true) :
    Rests (.halt st h o) s st
      (withSignal h { stoneOf s st with run := .halted, pc := (stoneOf s st).pc + 1, stall := none }) :=
  rests_signal (fun x => { x with run := .halted, pc := x.pc + 1 }) hi rfl (by simp [headerOk_of_issues hi, ho]) rfl
    (fun _ _ _ _ e => by cases e) fun _ => ⟨rfl, rfl, rfl⟩

/-- A yield whose lead stone has completed no more yields than it has waits for the lead stone's. -/
theorem rests_yield (hi : issues s st h [] [] = true) (ho : onlyFields [] o = true) {c l : Nat}
    (hc : (stoneOf s st).owner = some c) (hl : leadStone s c = some l) (hne : l ≠ st)
    (hy : (stoneFor s c l).yields ≤ (stoneOf s st).yields) :
    Rests (.yield st h o) s st { stoneOf s st with run := .yielding, waitSig := sigOf h, stall := none } := by
  refine rests_issue (fun x => { x with run := .yielding, waitSig := sigOf h }) hi rfl
    (by simp [headerOk_of_issues hi, ho]) ?_ fun _ => ⟨rfl, rfl, rfl⟩
  have hl' : ∀ f g, leadStone (modStone (modStone s st f) st g) c = some l := fun _ _ => hl
  have hf : ∀ f g, stoneFor (modStone (modStone s st f) st g) c l = stoneFor s c l := fun f g => by
    unfold stoneFor
    rw [stoneOf_modStone2_ne _ _ _ _ _ hne]
    rfl
  simp only [settleStone, stoneOf_modStone_self, hc, hl', hf, Option.some.injEq, if_neg hne, decide_eq_true_eq,
    if_neg (Nat.not_lt.2 hy)]

/-! ### The overrun of a region (13 R424) -/

theorem exec_regionOverrun {b : Nat} (h0 : s.resetLow = false) (hn : (stoneOf s st).np = some b) (hf : isFenced s st = false) :
    exec (.regionOverrun st) s =
      .next (raise (count s 0xA090 0x07) [mkFault 0 0x0F 0 st (stoneOf s st).owner (16 * (stoneOf s st).pc)]) := by
  refine (run_up h0).trans (congrArg _ (if_pos ⟨by rw [hn]; rfl, hf⟩))

end

/-- Settles O9: each instruction issues and changes its own stone alone (`advances_issue`, `advances_jump`, `rests_issue`). -/
theorem sequencer : Obligations.Sequencer := by
  unfold Obligations.Sequencer
  refine ⟨fun s st h o hi => ⟨advances_loopSet hi, advances_stepMark hi,
      fun ho => ⟨advances_npBegin hi ho, exec_npBegin_bad hi⟩, advances_npEnd hi, advances_setVl_imm hi,
      fun ho hf n hn => advances_setVl_reg hi ho hf hn, advances_setReg hi⟩,
    fun s st h o x hi hx => ⟨fun ho hc ht v target hv htgt => ?_, fun _ => exec_branch_bad hi, fun _ => exec_loopBack_bad hi,
      fun ho ht l hl => ?_⟩,
    fun s st h o hi ho => ⟨rests_halt hi ho, fun c l hc hl hne hy => rests_yield hi ho hc hl hne hy⟩,
    fun s st b h0 hn hf => ⟨_, exec_regionOverrun h0 hn hf, rfl⟩⟩
  · have ha := advances_branch hi ho hc ht
    simp only [branchTaken_iff hc] at ha
    subst hx hv htgt
    exact ha
  · have ha := advances_loopBack hi ho ht
    subst hx hl
    have hlc : lcOf { stoneOf s st with stall := none } (fld 111 109 o) = lcOf (stoneOf s st) (fld 111 109 o) := rfl
    rw [hlc]
    refine ⟨fun h0 => ?_, fun h1 => ?_, fun h0 h1 => ?_⟩
    · rwa [loopedBack, if_pos h0] at ha
    · rwa [loopedBack, if_neg (by rw [h1]; decide), h1] at ha
    · rwa [loopedBack, if_neg h0, if_neg (by rwa [sub_eq_zero])] at ha

end Sys2Proof.Machine
end

section
/-! PROOFS. Sync objects (05 R184 to R190): the SYNC instructions, the delivery of a SIGNAL, and the watchdog. -/

-- As in the tests: proofs elaborated side by side exhaust memory in the joined text.
set_option Elab.async false

namespace Sys2Proof.Machine

section
variable {s : State} {st : Nat} {h : IHdr} {o : Operands}

/-- A command that runs, with RESET_N high. -/
theorem exec_up {c : Instr} {f : State → State} {t : State} (he : exec c s = run s f) (h0 : s.resetLow = false) (ht : f s = t) :
    exec c s = .next t := by
  rw [he, run_up h0, ht]

/-! ### A stone that runs -/

/-- No WAIT of a running stone is met by an update of its sync objects. -/
theorem updateSync_running {x : Stone} (hr : x.run = .running) (j : Nat) (f : BitVec 32 → BitVec 32) :
    updateSync x j f = setSync x j { syncOf x j with val := f (syncOf x j).val } :=
  releaseWait_running fun _ _ _ e => by
    rw [show (setSync x j _).run = x.run from rfl, hr] at e
    cases e

theorem modStone_congr {f g : Stone → Stone} (e : f (stoneOf s st) = g (stoneOf s st)) : modStone s st f = modStone s st g := by
  unfold modStone
  rw [e]

theorem stoneOf_issued (s : State) (st : Nat) : stoneOf (issued s st) st = { stoneOf s st with stall := none } :=
  stoneOf_modStone_self _ _

theorem stoneOf_issued_ne {k : Nat} (hk : k ≠ st) : stoneOf (issued s st) k = stoneOf s k := stoneOf_modStone_ne hk _

theorem reg_issued (s : State) (st r : Nat) : reg (issued s st) st r = reg s st r := reg_stall s st r

theorem syncValue_issued (s : State) (st : Nat) (o : Operands) : syncValue (issued s st) st o = syncValue s st o := by
  unfold syncValue
  rw [reg_issued]

theorem running_issued {srcs dsts : List (Nat × Nat)} (hi : issues s st h srcs dsts = true) :
    (stoneOf (issued s st) st).run = .running := by
  rw [stoneOf_issued]
  exact (running_of_issues hi).1

/-! ### The SYNC instructions on the stone's own objects (05 R185 to R187) -/

theorem syncOk_of_memIssues {srcs dsts : List (Nat × Nat)} (hi : memIssues s st h srcs dsts = true)
    (ho : onlyFields [(111, 79), (31, 0)] o = true) : syncOk h o = true := by
  simp [syncOk, headerOk_of_issues (issues_of_memIssues hi), ho]

/-- An instruction that updates a sync object of its own stone. -/
theorem advances_updateSync {c : Instr} {j : Nat} {f : BitVec 32 → BitVec 32} {ok : Bool} {k : State → State}
    (hi : memIssues s st h [] [] = true) (he : exec c s = run s fun s => memIssue s st ok [] [] k) (hok : ok = true)
    (hk : k (issued s st) = completeNow (modStone (issued s st) st (fun x => updateSync x j f)) st h) :
    Advances c s st (goesOn h (setSync (stoneOf s st) j { syncOf (stoneOf s st) j with val := f (syncOf (stoneOf s st) j).val })) :=
  advances_memIssue (fun x => setSync x j { syncOf x j with val := f (syncOf x j).val }) hi he hok
    (hk.trans (congrArg (completeNow · st h) (modStone_congr (updateSync_running (running_issued (issues_of_memIssues hi)) j f))))
    fun _ hr => ⟨hr, rfl, rfl, rfl, rfl, rfl⟩

theorem advances_syncSet (hi : memIssues s st h [] [] = true) (ho : onlyFields [(111, 79), (31, 0)] o = true) :
    Advances (.syncSet st h o) s st (goesOn h (setSync (stoneOf s st) (fld 111 110 o)
      { syncOf (stoneOf s st) (fld 111 110 o) with val := syncValue s st o })) :=
  advances_updateSync (f := fun _ => syncValue s st o) hi rfl (syncOk_of_memIssues hi ho) (by simp only [syncValue_issued])

theorem advances_syncAdd (hi : memIssues s st h [] [] = true) (ho : onlyFields [(111, 79), (31, 0)] o = true) :
    Advances (.syncAdd st h o) s st (goesOn h (setSync (stoneOf s st) (fld 111 110 o)
      { syncOf (stoneOf s st) (fld 111 110 o) with val := (syncOf (stoneOf s st) (fld 111 110 o)).val + syncValue s st o })) :=
  advances_updateSync (f := (· + syncValue s st o)) hi rfl (syncOk_of_memIssues hi ho) (by simp only [syncValue_issued])

theorem advances_syncRead (hi : memIssues s st h [] [] = true) (ho : onlyFields [(111, 79), (31, 0)] o = true) :
    Advances (.syncRead st h o) s st (goesOn h (setAreg (stoneOf s st) (fld 108 105 o)
      (syncOf (stoneOf s st) (fld 111 110 o)).val)) :=
  advances_memIssue (fun x => setAreg x (fld 108 105 o) (syncOf x (fld 111 110 o)).val) hi rfl (syncOk_of_memIssues hi ho) rfl
    fun _ hr => ⟨hr, rfl, rfl, rfl, rfl, rfl⟩

theorem advances_syncClear (hi : memIssues s st h [] [] = true) (ho : onlyFields [(111, 79), (31, 0)] o = true) :
    Advances (.syncClear st h o) s st (goesOn h (setSync (stoneOf s st) (fld 111 110 o)
      { syncOf (stoneOf s st) (fld 111 110 o) with err := false })) :=
  advances_memIssue (fun x => setSync x (fld 111 110 o) { syncOf x (fld 111 110 o) with err := false }) hi rfl
    (syncOk_of_memIssues hi ho) rfl fun _ hr => ⟨hr, rfl, rfl, rfl, rfl, rfl⟩

theorem syncOf_issued (s : State) (st j : Nat) : syncOf (stoneOf (issued s st) st) j = syncOf (stoneOf s st) j := by
  rw [stoneOf_issued]
  rfl

/-- What an issued WAIT without ERROR does (05 R187). -/
theorem exec_syncWait (hi : memIssues s st h [] [] = true) (ho : onlyFields [(111, 79), (31, 0)] o = true)
    (he : (syncOf (stoneOf s st) (fld 111 110 o)).err = false) : exec (.syncWait st h o) s =
      .next (if waitMet (syncOf (stoneOf s st) (fld 111 110 o)).val (syncValue s st o) then completeNow (issued s st) st h
        else settleStone (modStone (issued s st) st (fun x =>
          { x with run := .waiting (fld 111 110 o) (syncValue s st o) (now s), waitSig := sigOf h })) st) := by
  refine (run_memIssue hi (syncOk_of_memIssues hi ho)).trans (congrArg _ ?_)
  simp only [syncOf_issued, syncValue_issued, he, Bool.false_eq_true, if_false]
  rfl

theorem advances_syncWait_met (hi : memIssues s st h [] [] = true) (ho : onlyFields [(111, 79), (31, 0)] o = true)
    (he : (syncOf (stoneOf s st) (fld 111 110 o)).err = false)
    (hm : waitMet (syncOf (stoneOf s st) (fld 111 110 o)).val (syncValue s st o) = true) :
    Advances (.syncWait st h o) s st (goesOn h (stoneOf s st)) := by
  have hrun := running_of_issues (issues_of_memIssues hi)
  have hx := exec_syncWait hi ho he
  rw [if_pos hm] at hx
  exact advances_completeNow hx rfl (fun _ hk => stoneOf_issued_ne hk) (stoneOf_issued s st) hrun.1 rfl rfl rfl rfl hrun.2

theorem rests_syncWait (hi : memIssues s st h [] [] = true) (ho : onlyFields [(111, 79), (31, 0)] o = true)
    (he : (syncOf (stoneOf s st) (fld 111 110 o)).err = false)
    (hm : waitMet (syncOf (stoneOf s st) (fld 111 110 o)).val (syncValue s st o) = false) :
    Rests (.syncWait st h o) s st { stoneOf s st with
      run := .waiting (fld 111 110 o) (syncValue s st o) (now s), waitSig := sigOf h, stall := none } := by
  have hx := exec_syncWait hi ho he
  rw [if_neg (by simp [hm])] at hx
  refine rests_settleStone hx rfl (fun k hk => stoneOf_modStone2_ne _ _ _ _ _ hk) ?_ rfl rfl rfl
  rw [stoneOf_modStone_self, stoneOf_issued]

/-! ### SIGNAL (05 R186, R189) -/

theorem exec_syncSignal_own (hi : memIssues s st h [] [] = true) (ho : onlyFields [(111, 79), (31, 0)] o = true)
    (hd : fld 104 91 o = pkgId s) : exec (.syncSignal st h o) s =
      .next (deliverSignal (completeNow (issued s st) st h) (fld 90 79 o) (fld 111 110 o) (syncValue s st o).toNat) := by
  refine (run_memIssue hi (syncOk_of_memIssues hi ho)).trans (congrArg _ ?_)
  simp only [syncValue_issued]
  exact if_pos hd

theorem exec_syncSignal_far (hi : memIssues s st h [] [] = true) (ho : onlyFields [(111, 79), (31, 0)] o = true)
    (hd : fld 104 91 o ≠ pkgId s) (hw : requestWaits s 0 st 2 (fld 104 91 o) false 0 4 = false) :
    exec (.syncSignal st h o) s = .next (issueRequest (takeSlot (issued s st) st 3 [] [] h) st 2 (fld 104 91 o) false
      (fld 111 110 o) 4 (toLE 4 (syncValue s st o).toNat) none 0 (stoneOf s st).pc (sigOf h) (fld 90 79 o)) := by
  refine (run_memIssue hi (syncOk_of_memIssues hi ho)).trans (congrArg _ ?_)
  have hw' : requestWaits (issued s st) 0 st 2 (fld 104 91 o) false 0 4 = false := hw
  have hd' : fld 104 91 o ≠ pkgId (issued s st) := hd
  simp only [syncValue_issued, if_neg hd', hw', Bool.false_eq_true, if_false, pc_issued]

/-! ### The delivery of a SIGNAL, and the watchdog (05 R189, R190) -/

theorem sameMemory_modStone (s : State) (st : Nat) (f : Stone → Stone) : SameMemory s (modStone s st f) :=
  ⟨fun _ => rfl, fun _ _ => rfl⟩

theorem SameMemory.trans {a b c : State} (hab : SameMemory a b) (hbc : SameMemory b c) : SameMemory a c :=
  ⟨fun x => (hbc.1 x).trans (hab.1 x), fun k i => (hbc.2 k i).trans (hab.2 k i)⟩

/-- A SIGNAL to a stone that a context holds updates its object, which may meet the WAIT of its stone. -/
theorem exec_signalDelivery_held {obj n c : Nat} (h0 : s.resetLow = false) (hf : isFenced s st = false)
    (hc : (stoneOf s st).owner = some c) : exec (.signalDelivery st obj n) s =
      .next (settleStone (modStone s st fun x => updateSync x (obj % 4) (· + BitVec.ofNat 32 n)) st) := by
  refine exec_up (f := fun s => deliverSignal s st (obj % 4) n) rfl h0 ?_
  simp only [deliverSignal, hf, hc, Bool.false_eq_true, if_false]
  rfl

theorem exec_signalDelivery_fenced {obj n : Nat} (h0 : s.resetLow = false) (hf : isFenced s st = true) :
    exec (.signalDelivery st obj n) s =
      .next (raise (count s 0xA040 0x03) [mkFault 0 0x0A 0 st (stoneOf s st).owner 0]) := by
  refine exec_up (f := fun s => deliverSignal s st (obj % 4) n) rfl h0 ?_
  simp only [deliverSignal, hf, if_true]
  rfl

/-- The stone waits for a sync object. -/
def waitsForSync (x : Stone) : Bool := match x.run with | .waiting _ _ _ => true | _ => false

theorem waitsForSync_of {x : Stone} {i v w : _} (hx : x.run = .waiting i v w) : waitsForSync x = true := by
  simp [waitsForSync, hx]

theorem exec_syncWatchdogExpiry (h0 : s.resetLow = false) (hg : getE s 0x5022 0x01 ≠ 0)
    (hw : waitsForSync (stoneOf s st) = true ∨ ∃ p ∈ s.ctxs, waitsForSync (tget Stone.initial p.2.savedStones st) = true) :
    exec (.syncWatchdogExpiry st) s = .next (holdSource (count s 0xA040 0x04) 12) := by
  refine (run_up h0).trans (congrArg _ (if_pos ⟨hg, ?_⟩))
  rw [Bool.or_eq_true, List.any_eq_true]
  exact hw

theorem mem_holdSource (s : State) (n : Nat) : n ∈ (holdSource s n).holds := by
  simp only [holdSource]
  split
  · exact List.contains_iff_mem.1 ‹_›
  · simp

end

/-- Settles O10: SYNC instructions change their own stone (`advances_updateSync`); a SIGNAL goes to its object or leaves as a
request; a delivery updates one object, after which the stone's context settles. -/
theorem syncInstructions : Obligations.SyncInstructions := by
  unfold Obligations.SyncInstructions
  refine ⟨fun s st h o j v x hi ho hj hx hv => ?_, fun s st h o v hi ho hv => ?_, fun s st obj n c x h0 hx => ⟨fun hf hc => ?_, fun hf => ?_,
    fun hw hg => ?_⟩⟩
  · obtain rfl : v = syncValue s st o := hv
    subst hj hx
    refine ⟨advances_syncSet hi ho, advances_syncAdd hi ho, advances_syncRead hi ho, advances_syncClear hi ho, fun he hm => ?_,
      fun he hm => ?_⟩
    · exact advances_syncWait_met hi ho he (decide_eq_true hm)
    · exact rests_syncWait hi ho he (decide_eq_false (not_le.2 hm))
  · obtain rfl : v = syncValue s st o := hv
    exact ⟨exec_syncSignal_own hi ho, exec_syncSignal_far hi ho⟩
  · subst hx
    have hs := settles_settleStone (modStone s st fun x => updateSync x (obj % 4) (· + BitVec.ofNat 32 n)) st
    refine ⟨_, exec_signalDelivery_held h0 hf hc, fun k hk => ?_, (sameMemory_modStone _ _ _).trans hs.memory, ?_⟩
    · rw [hs.2, stoneOf_modStone_ne hk]
    · rw [hs.2, stoneOf_modStone_self]
      rfl
  · subst hx
    exact exec_signalDelivery_fenced h0 hf
  · subst hx
    refine ⟨_, exec_syncWatchdogExpiry h0 hg ?_, mem_holdSource _ _, rfl, sameEntriesBut_count s (by decide) (by decide),
      getE_count_self 0xA040 0x04⟩
    obtain ⟨i, v, w, hw | ⟨p, hp, hw⟩⟩ := hw
    · exact .inl (waitsForSync_of hw)
    · exact .inr ⟨p, hp, waitsForSync_of hw⟩

end Sys2Proof.Machine
end

section
/-! PROOFS. The MEMORY instructions of a stone (11 R349 to R361): LOAD, STORE, the atomics, FENCE, and the requests that they
make. -/

-- As in the tests: proofs elaborated side by side exhaust memory in the joined text.
set_option Elab.async false

namespace Sys2Proof.Machine

section
variable {s : State} {st : Nat} {h : IHdr} {o : Operands}

/-! ### Reads of SRAM without error (05 R169) -/

theorem readWords_clean {l : List (Nat × Nat)} {k : State → State} (hb : badIn s st l = none) (n : Nat) :
    readWords n s st l k = k s := by
  cases n with
  | zero => rfl
  | succ n => simp only [readWords, hb]

theorem readRanges_clean {srcs dsts : List (Nat × Nat)} {k : State → State} (hb : badIn s st (srcs ++ dsts.flatMap edgeWords) = none) :
    readRanges s st srcs dsts k = k s := readWords_clean hb _

theorem readRanges_srcs_clean {srcs : List (Nat × Nat)} {k : State → State} (hb : badIn s st srcs = none) :
    readRanges s st srcs [] k = k s := readRanges_clean (by simpa using hb)

/-! ### What the issue of an instruction leaves alone -/

@[simp] theorem requestWaits_issued (s : State) (i kind unit op dest : Nat) (lake : Bool) (off n : Nat) :
    requestWaits (issued s i) kind unit op dest lake off n = requestWaits s kind unit op dest lake off n := rfl
@[simp] theorem homeOf_issued (s : State) (st a : Nat) : homeOf (issued s st) a = homeOf s a := rfl
@[simp] theorem badIn_issued (s : State) (i st : Nat) (l : List (Nat × Nat)) : badIn (issued s i) st l = badIn s st l := rfl
@[simp] theorem sramRead_issued (s : State) (i st off n : Nat) : sramRead (issued s i) st off n = sramRead s st off n := rfl

/-! ### LOAD and STORE (11 R353) -/

theorem inSram_iff {off n : Nat} : inSram off n = true ↔ off + n ≤ 2 ^ 18 := decide_eq_true_iff

theorem memOk_of_memIssues {srcs dsts : List (Nat × Nat)} (hi : memIssues s st h srcs dsts = true)
    (ho : onlyFields [(111, 92)] o = true) (hr : fld 111 108 o % 2 = 0) :
    (headerOk h false && onlyFields [(111, 92)] o && decide (fld 111 108 o % 2 = 0)) = true := by
  simp [headerOk_of_issues (issues_of_memIssues hi), ho, hr]

/-- What a LOAD does whose address and SRAM range are legal. -/
theorem exec_memoryLoad {n ram a : Nat} (ho : onlyFields [(111, 92)] o = true) (hr : fld 111 108 o % 2 = 0)
    (hn : n = fld 103 92 o + 1) (hm : ram = (reg s st (fld 107 104 o)).toNat) (ha : a = pairAddr s st (fld 111 108 o))
    (hok : addressOk a = true) (hs : ram + n ≤ 2 ^ 18) (hi : memIssues s st h [] [(ram, n)] = true) (hl : bit 63 a = false) :
    exec (.memoryLoad st h o) s = .next (
      if readsAbsent (issued s st) ((stoneOf s st).owner.getD 0) a n then
        completeNow (count (sramWrite (issued s st) st ram (List.replicate n 0)) 0xA030 0x0D) st h
      else if requestWaits s 0 st 0 (homeOf s a) false (addressOffset a) n then stallOn (issued s st) st .request
      else issueRequest (takeSlot (issued s st) st 3 [] [(ram, n)] h) st 0 (homeOf s a) false (addressOffset a) n [] (some ram) n
        (stoneOf s st).pc (sigOf h) 0) := by
  subst hn hm ha
  refine (run_memIssue hi (memOk_of_memIssues hi ho hr)).trans (congrArg _ ?_)
  have howner : (stoneOf (issued s st) st).owner = (stoneOf s st).owner := by rw [stoneOf_issued]
  simp only [hl, hok, inSram_iff.2 hs, Bool.not_true, Bool.or_false, Bool.false_eq_true, if_false, howner, pc_issued]
  rfl

theorem exec_memoryStore {n ram a : Nat} (ho : onlyFields [(111, 92)] o = true) (hr : fld 111 108 o % 2 = 0)
    (hn : n = fld 103 92 o + 1) (hm : ram = (reg s st (fld 107 104 o)).toNat) (ha : a = pairAddr s st (fld 111 108 o))
    (hok : addressOk a = true) (hs : ram + n ≤ 2 ^ 18) (hi : memIssues s st h [(ram, n)] [] = true)
    (hl : bit 63 a = true → addressOffset a % 64 + n ≤ 64) (hb : badIn s st [(ram, n)] = none)
    (hw : requestWaits s 0 st 1 (homeOf s a) (bit 63 a) (addressOffset a) n = false) :
    exec (.memoryStore st h o) s = .next (issueRequest (takeSlot (issued s st) st 3 [(ram, n)] [] h) st 1 (homeOf s a) (bit 63 a)
      (addressOffset a) n (sramRead s st ram n) none 0 (stoneOf s st).pc (sigOf h) 0) := by
  subst hn hm ha
  refine (run_memIssue hi (memOk_of_memIssues hi ho hr)).trans (congrArg _ ?_)
  have hlake : (bit 63 (pairAddr s st (fld 111 108 o)) && (decide (fld 103 92 o + 1 > 64) ||
      decide (addressOffset (pairAddr s st (fld 111 108 o)) % 64 + (fld 103 92 o + 1) > 64))) = false := by
    rw [Bool.and_eq_false_imp]
    intro hb
    have := hl hb
    simp only [Bool.or_eq_false_iff, decide_eq_false_iff_not]
    omega
  simp only [hok, inSram_iff.2 hs, hlake, Bool.not_true, Bool.or_false, Bool.false_eq_true, if_false]
  rw [requestWaits_issued, homeOf_issued, hw, if_neg Bool.false_ne_true, readRanges_srcs_clean ((badIn_issued ..).trans hb), pc_issued,
    homeOf_issued, sramRead_issued]

/-! ### Atomics (11 R353 to R357) -/

theorem atomic_issues {aop w opOff opLen resOff a : Nat} {dsts : List (Nat × Nat)}
    (ho : onlyFields [(111, 92)] o = true) (hr : fld 111 108 o % 2 = 0) (hop : fld 99 96 o = aop)
    (hla : flag 94 o = false → flag 93 o = false) (hw : w = if flag 95 o then 8 else 4)
    (hoff : opOff = (reg s st (fld 107 104 o)).toNat) (hlen : opLen = if aop = 0 then 0 else if aop = 2 then 16 else 8)
    (hres : resOff = (reg s st (fld 103 100 o)).toNat) (ha : a = pairAddr s st (fld 111 108 o))
    (hd : dsts = if flag 92 o then [] else [(resOff, 8)]) (hl : bit 63 a = flag 94 o) (hok : addressOk a = true)
    (hal : addressOffset a % w = 0) (hsrc : aop ≠ 0 → opOff % 8 = 0 ∧ opOff + opLen ≤ 2 ^ 18)
    (hdst : flag 92 o = false → resOff % 8 = 0 ∧ resOff + 8 ≤ 2 ^ 18) (hi : memIssues s st h [(opOff, opLen)] dsts = true)
    (hb : badIn s st [(opOff, opLen)] = none)
    (hwait : requestWaits s 0 st (4 + aop) (homeOf s a) (flag 94 o) (addressOffset a) w = false) :
    atomic aop st h o s = issueRequest (takeSlot (issued s st) st 3 [(opOff, opLen)] dsts h) st (4 + aop) (homeOf s a) (flag 94 o)
      (addressOffset a) w (sramRead s st opOff opLen) (if flag 92 o then none else some resOff) 8 (stoneOf s st).pc (sigOf h) 0 := by
  have hform : (headerOk h false && onlyFields [(111, 92)] o && decide (fld 111 108 o % 2 = 0) && decide (fld 99 96 o = aop) &&
      (flag 94 o || !flag 93 o)) = true := by
    simp only [headerOk_of_issues (issues_of_memIssues hi), ho, hr, hop, decide_true, Bool.and_self, Bool.true_and, Bool.or_eq_true,
      Bool.not_eq_true']
    exact (Bool.eq_false_or_eq_true _).imp id hla
  have hsrc' : (decide (aop ≠ 0) && (decide (opOff % 8 ≠ 0) || !inSram opOff opLen)) = false := by
    simp only [Bool.and_eq_false_imp, decide_eq_true_eq, Bool.or_eq_false_iff, decide_eq_false_iff_not, not_not, Bool.not_eq_false']
    exact fun h0 => ⟨(hsrc h0).1, inSram_iff.2 (hsrc h0).2⟩
  have hdst' : (!flag 92 o && (decide (resOff % 8 ≠ 0) || !inSram resOff 8)) = false := by
    simp only [Bool.and_eq_false_imp, Bool.not_eq_true', Bool.or_eq_false_iff, decide_eq_false_iff_not, not_not, Bool.not_eq_false']
    exact fun h0 => ⟨(hdst h0).1, inSram_iff.2 (hdst h0).2⟩
  unfold atomic
  simp only [← hw, ← hoff, ← hlen, ← hres, ← ha, ← hd]
  rw [memIssue_up hi hform]
  simp only [hl, hok, hal, hsrc', hdst', beq_self_eq_true, Bool.not_true, Bool.or_false, ne_eq, not_true_eq_false, decide_false,
    Bool.false_eq_true, if_false]
  rw [requestWaits_issued, homeOf_issued, hwait, if_neg Bool.false_ne_true, readRanges_srcs_clean ((badIn_issued ..).trans hb),
    pc_issued, homeOf_issued, sramRead_issued]

/-- The commands of the eleven atomics, by their AOP field. -/
theorem exec_atomic {p : Nat × Instr} (hp : p ∈ [(0, Instr.atomicRead st h o), (1, .atomicSwap st h o), (2, .atomicCas st h o),
    (3, .atomicAdd st h o), (4, .atomicAnd st h o), (5, .atomicOr st h o), (6, .atomicXor st h o), (7, .atomicMaxS st h o),
    (8, .atomicMinS st h o), (9, .atomicMaxU st h o), (10, .atomicMinU st h o)]) :
    exec p.2 s = run s (atomic p.1 st h o) := by
  simp only [List.mem_cons, List.not_mem_nil, or_false] at hp
  rcases hp with rfl | rfl | rfl | rfl | rfl | rfl | rfl | rfl | rfl | rfl | rfl <;> rfl

/-! ### The request of a stone (11 R349, R350, R361) -/

/-- The lowest free slot is no request's, and every lower one is taken. -/
theorem freeSlotOf_some {kind slot : Nat} {x : Sender} (hf : freeSlotOf kind x = some slot) :
    (∀ r ∈ x.reqs, r.slot ≠ slot) ∧ ∀ k, k < slot → ∃ r ∈ x.reqs, r.slot = k := by
  obtain ⟨hfree, hlt, hlow⟩ := List.find?_range_eq_some.1 hf
  refine ⟨fun r hr => by simpa using List.all_eq_true.1 hfree r hr, fun k hk => ?_⟩
  have := hlow k hk
  simpa using this

theorem senderOf_inject (s : State) (w : Nat) (p : Packet) (k : Nat) : senderOf (inject s w p) k = senderOf s k := by
  unfold inject
  split
  · rfl
  · split <;> rfl

theorem sameMemory_inject (s : State) (w : Nat) (p : Packet) : SameMemory s (inject s w p) := by
  unfold inject
  split
  · exact ⟨fun _ => rfl, fun _ _ => rfl⟩
  · split <;> exact ⟨fun _ => rfl, fun _ _ => rfl⟩

theorem stones_inject (s : State) (w : Nat) (p : Packet) : (inject s w p).stones = s.stones := by
  unfold inject
  split
  · rfl
  · split <;> rfl

/-- While the part runs and an epoch is selected, every packet is injected (10 R323, 13 R419). -/
theorem injQ_inject (hm : s.mode = .running) (he : getE s 0x2050 0x03 ≠ 0xFF) (w : Nat) (p : Packet) :
    (inject s w p).injQ = s.injQ ++ [(w, p)] := by
  unfold inject
  rw [if_neg (by simp [hm]), if_neg (by simp [he])]

theorem issueRequest_eq {op dest off n width pc target slot : Nat} {lake : Bool} {bs : List (BitVec 8)} {dst sig : Option Nat}
    {x : Sender} {q : OutReq} (hx : x = senderOf s st) (hf : freeSlotOf 0 x = some slot) (hd : dest ≠ pkgId s)
    (hq : q = {
      slot := slot, seq := x.nextSeq, op := op, dest := dest, lake := lake, offset := off, size := n,
      issueT := bits 27 12 (now s), attempt := 0, targetStone := target, payload := bs, sramDst := dst, width := width,
      pc := pc, signal := sig }) :
    issueRequest s st op dest lake off n bs dst width pc sig target =
      inject (setSender s st { x with nextSeq := (x.nextSeq + 1) % 2 ^ 32, reqs := x.reqs ++ [q] }) (st / 2048)
        (mkPacket s dest 1 (if op = 2 then 0 else 3) target (reqField (reqOf s 0 st q)) bs) := by
  have hk : senderKey 0 st = st := by simp [senderKey]
  subst hx hq
  simp only [issueRequest, hk, hf]
  exact if_neg hd

/-! ### FENCE (11 R359) -/

theorem otherStones_modStone (s : State) (st : Nat) (f : Stone → Stone) : OtherStones st s (modStone s st f) :=
  fun _ hk => congrArg Stone.regs (stoneOf_modStone_ne hk f)

theorem OtherStones.trans {a b c : State} (hab : OtherStones st a b) (hbc : OtherStones st b c) : OtherStones st a c :=
  fun k hk => (hbc k hk).trans (hab k hk)

theorem otherStones_completeSlot (s : State) (st pc kind : Nat) (sig : Option Nat) : OtherStones st s (completeSlot s st pc kind sig) :=
  fun k hk => ((settles_settleStone _ st).2 k).trans (congrArg Stone.regs ((stoneOf_signalDone_ne hk).trans (stoneOf_modStone_ne hk _)))

theorem sameMemory_completeSlot (s : State) (st pc kind : Nat) (sig : Option Nat) : SameMemory s (completeSlot s st pc kind sig) := by
  refine SameMemory.trans ?_ (settles_settleStone _ st).memory
  rw [onlyStones_signalDone (freeSlot s st pc kind) st sig]
  exact ⟨fun _ => rfl, fun _ _ => rfl⟩

/-- The stone behind the completion of work in flight with its SIGNAL_EN. -/
theorem regs_completeSlot {pc kind : Nat} {x : Stone} (hx : stoneOf s st = x) (hr : x.run = .running) :
    (stoneOf (completeSlot s st pc kind (sigOf h)) st).regs =
      (withSignal h { x with inflight := x.inflight.eraseP (fun i => i.pc == pc && i.kind == kind) }).regs := by
  have hf : stoneOf (freeSlot s st pc kind) st = { x with inflight := x.inflight.eraseP (fun i => i.pc == pc && i.kind == kind) } := by
    rw [freeSlot, stoneOf_modStone_self, hx]
  unfold completeSlot
  rw [(settles_settleStone _ st).2, stoneOf_signalDone, hf]
  rw [hf]
  intro i v c e
  exact absurd (hr.symm.trans e) (by simp)

/-- The in-flight slot of a FENCE that its stone issues, and the stone that holds it. -/
def fenceSlot (h : IHdr) (x : Stone) : InFl := { pc := x.pc, kind := 30, srcs := [], dsts := [], signal := sigOf h }

def fencing (h : IHdr) (x : Stone) : Stone := { x with inflight := x.inflight ++ [fenceSlot h x], pc := x.pc + 1, memFence := true }

/-- The state in which a FENCE waits for the stone's requests. -/
def fenceOpen (s : State) (st : Nat) (h : IHdr) : State :=
  modStone (takeSlot (issued s st) st 30 [] [] h) st (fun x => { x with memFence := true })

theorem stoneOf_fenceOpen (s : State) (st : Nat) (h : IHdr) :
    stoneOf (fenceOpen s st h) st = fencing h { stoneOf s st with stall := none } := by
  rw [fenceOpen, stoneOf_modStone_self, takeSlot, stoneOf_modStone_self, stoneOf_issued]
  rfl

theorem senders_fenceOpen (s : State) (st : Nat) (h : IHdr) : (fenceOpen s st h).senders = s.senders := by
  simp [fenceOpen, takeSlot, issued]

theorem senderOf_fenceOpen (s : State) (st : Nat) (h : IHdr) :
    senderOf (fenceOpen s st h) (senderKey 0 st) = senderOf s st := by
  simp [senderOf, senders_fenceOpen, senderKey]

theorem onlyStones_fenceOpen (s : State) (st : Nat) (h : IHdr) : OnlyStones s (fenceOpen s st h) :=
  ((onlyStones_modStone _ _ _).trans (onlyStones_modStone _ _ _)).trans (onlyStones_modStone _ _ _)

theorem OnlyStones.sameMemory {s t : State} (ho : OnlyStones s t) : SameMemory s t := by
  rw [ho]
  exact ⟨fun _ => rfl, fun _ _ => rfl⟩

theorem stoneOf_fenceOpen_ne {k : Nat} (hk : k ≠ st) : stoneOf (fenceOpen s st h) k = stoneOf s k :=
  (stoneOf_modStone_ne hk _).trans ((stoneOf_modStone_ne hk _).trans (stoneOf_issued_ne hk))

theorem exec_memoryFence (hi : memIssues s st h [] [] = true) (ho : onlyFields [] o = true) :
    exec (.memoryFence st h o) s = .next (fenceDone (fenceOpen s st h) st) :=
  run_memIssue hi (by simp [headerOk_of_issues (issues_of_memIssues hi), ho])

theorem fenceDone_open (hq : (senderOf s st).reqs ≠ []) : fenceDone (fenceOpen s st h) st = fenceOpen s st h := by
  refine if_neg fun hc => hq ?_
  rw [senderOf_fenceOpen] at hc
  exact List.isEmpty_iff.1 hc.2

theorem fenceDone_closed (hq : (senderOf s st).reqs = []) (hk : ∀ i ∈ (stoneOf s st).inflight, i.kind ≠ 30) :
    fenceDone (fenceOpen s st h) st =
      completeSlot (modStone (fenceOpen s st h) st (fun y => { y with memFence := false })) st (stoneOf s st).pc 30 (sigOf h) := by
  have hfind : (stoneOf (fenceOpen s st h) st).inflight.find? (fun i => i.kind == 30) =
      some (fenceSlot h { stoneOf s st with stall := none }) := by
    rw [stoneOf_fenceOpen]
    simp only [fencing, List.find?_append]
    rw [List.find?_eq_none.2 (fun i hi => by simpa using hk i hi)]
    rfl
  unfold fenceDone
  simp only [senderOf_fenceOpen, hq, hfind]
  exact if_pos ⟨by rw [stoneOf_fenceOpen]; rfl, rfl⟩

/-- A FENCE that closes at once leaves the stone as any instruction that completes at issue. -/
theorem regs_fenceDone_closed (hi : memIssues s st h [] [] = true) (hq : (senderOf s st).reqs = [])
    (hk : ∀ i ∈ (stoneOf s st).inflight, i.kind ≠ 30) :
    (stoneOf (fenceDone (fenceOpen s st h) st) st).regs =
      (withSignal h { stoneOf s st with stall := none, pc := (stoneOf s st).pc + 1 }).regs := by
  have hopen : (stoneOf s st).memFence = false := by simpa using (Bool.and_eq_true_iff.1 hi).2
  rw [fenceDone_closed hq hk, regs_completeSlot (stoneOf_modStone_self _ _)]
  · rw [stoneOf_fenceOpen]
    simp only [fencing]
    rw [List.eraseP_append_right _ (fun i hi => by simp [hk i hi])]
    simp [fenceSlot, ← hopen]
  · rw [stoneOf_fenceOpen]
    exact (running_of_issues (issues_of_memIssues hi)).1

end

/-- Settles O12: each instruction issues and makes its request (`issueRequest_eq`), and a FENCE waits while its stone has one. -/
theorem memoryInstructions : Obligations.MemoryInstructions := by
  unfold Obligations.MemoryInstructions
  refine ⟨fun s st h o n ram a ho hr hn hm ha hok hs => ⟨fun hi hl hab => ?_, fun hi hl hab hw => ?_, fun hi hl hb hw => ?_⟩,
    fun s st h o p w opOff opLen resOff a dsts hp ho hr hop hla hw hoff hlen hres ha hd hl hok hal hsrc hdst hi hb hwait => ?_,
    fun s st op dest off n width pc target slot lake bs dst sig x q hx hf hd hst hq => ?_,
    fun s st h o x hi ho hx => ⟨fun hq hk => ?_, fun hq => ?_⟩⟩
  · rw [exec_memoryLoad ho hr hn hm ha hok hs hi hl, if_pos hab]
  · rw [exec_memoryLoad ho hr hn hm ha hok hs hi hl, if_neg (by simp [hab]), if_neg (by simp [hw])]
  · exact exec_memoryStore ho hr hn hm ha hok hs hi hl hb hw
  · exact exec_up (exec_atomic hp) (up_of_issues (issues_of_memIssues hi))
      (atomic_issues ho hr hop hla hw hoff hlen hres ha hd hl hok hal hsrc hdst hi hb hwait)
  · obtain ⟨hfree, hlow⟩ := freeSlotOf_some hf
    refine ⟨hfree, hlow, _, rfl, ?_⟩
    rw [issueRequest_eq hx hf hd hq]
    refine ⟨?_, fun hm he => ?_, sameMemory_inject _ _ _, stones_inject _ _ _⟩
    · rw [senderOf_inject, senderOf_setSender_self]
    · rw [injQ_inject (by exact hm) (by exact he), setSender_injQ]
  · subst hx
    have hc := fenceDone_closed (h := h) hq hk
    refine ⟨_, exec_memoryFence hi ho, regs_fenceDone_closed hi hq hk, ?_, ?_⟩
    · rw [hc]
      refine OtherStones.trans (fun k hk => ?_) (otherStones_completeSlot _ _ _ _ _)
      rw [stoneOf_modStone_ne hk, stoneOf_fenceOpen_ne hk]
    · rw [hc]
      exact ((onlyStones_fenceOpen s st h).sameMemory.trans (sameMemory_modStone _ _ _)).trans (sameMemory_completeSlot _ _ _ _ _)
  · subst hx
    refine ⟨_, exec_memoryFence hi ho, ?_⟩
    rw [fenceDone_open hq]
    exact ⟨onlyStones_fenceOpen s st h, fun k hk => stoneOf_fenceOpen_ne hk, stoneOf_fenceOpen s st h⟩

end Sys2Proof.Machine
end

section
/-! PROOFS. What operations leave alone: dictionary values but for some entries, and tier 1 but for the bytes written. -/

-- As in the tests: proofs elaborated side by side exhaust memory in the joined text.
set_option Elab.async false

namespace Sys2Proof.Machine

section
variable {s t u : State} {l m : List (Nat × Nat)} {i j : Nat}

/-! ### Dictionary values -/

theorem getC_of_ent (h : t.ent = s.ent) (c i j : Nat) : getC t c i j = getC s c i j := by
  unfold getC
  rw [h]

theorem getE_of_ent (h : t.ent = s.ent) (i j : Nat) : getE t i j = getE s i j := getC_of_ent h 0 i j

theorem SameEntriesBut.refl (l : List (Nat × Nat)) (s : State) : SameEntriesBut l s s := fun _ _ _ _ _ => rfl

theorem SameEntriesBut.trans (h : SameEntriesBut l s t) (g : SameEntriesBut l t u) : SameEntriesBut l s u :=
  fun i j hi hj hn => (g i j hi hj hn).trans (h i j hi hj hn)

theorem SameEntriesBut.mono (h : SameEntriesBut l s t) (hl : l ⊆ m) : SameEntriesBut m s t :=
  fun i j hi hj hn => h i j hi hj fun hm => hn (hl hm)

theorem sameEntriesBut_of_ent (l : List (Nat × Nat)) (h : t.ent = s.ent) : SameEntriesBut l s t :=
  fun i j _ _ _ => getE_of_ent h i j

/-- What an operation does to the dictionary rests on the dictionary values alone. -/
theorem SameEntriesBut.congr {s' t' : State} (h : SameEntriesBut l s t) (hs : s'.ent = s.ent) (ht : t'.ent = t.ent) :
    SameEntriesBut l s' t' :=
  ((sameEntriesBut_of_ent l hs.symm).trans h).trans (sameEntriesBut_of_ent l ht)

theorem ekey_ne {c i' j' : Nat} (hi' : i' < 65536) (hj' : j' < 256) (hi : i < 65536) (hj : j < 256) (h : (i', j') ≠ (i, j)) :
    ekey 0 i' j' ≠ ekey c i j := by
  intro e
  obtain ⟨-, rfl, rfl⟩ := ekey_inj e hi' hj' hi hj
  exact h rfl

theorem sameEntriesBut_setE (s : State) (hi : i < 65536) (hj : j < 256) (v : Nat) : SameEntriesBut [(i, j)] s (setE s i j v) :=
  fun _ _ hi' hj' hn => getE_setE_ne (ekey_ne hi' hj' hi hj fun e => hn (List.mem_singleton.2 e)) v

theorem sameEntriesBut_countBy (s : State) (hi : i < 65536) (hj : j < 256) (n : Nat) : SameEntriesBut [(i, j)] s (countBy s i j n) :=
  sameEntriesBut_setE s hi hj _

theorem getE_countBy_ne {i' j' : Nat} (h : ekey 0 i' j' ≠ ekey 0 i j) (n : Nat) : getE (countBy s i j n) i' j' = getE s i' j' :=
  getE_setE_ne h _

/-! ### Injection (10 R323, R331): queues of packets, and the counter of an epoch -/

theorem inject_only (s : State) (w : Nat) (p : Packet) : inject s w p =
    { s with injQ := (inject s w p).injQ, stalledInj := (inject s w p).stalledInj, ent := (inject s w p).ent } := by
  unfold inject
  split
  · rfl
  · split <;> rfl

theorem getE_inject (s : State) (w : Nat) (p : Packet) {i j : Nat} (h : ekey 0 i j ≠ ekey 0 0x2052 (p.epoch + 1)) :
    getE (inject s w p) i j = getE s i j := by
  unfold inject
  split
  · rfl
  · split
    · rfl
    · exact getE_count_ne h

/-- A packet of the part's own counts one of the four epochs. -/
theorem getE_inject_mkPacket (s u : State) (w dest cls target stone field : Nat) (bs : List Byte) {i j : Nat} (hi : i < 65536)
    (hj : j < 256) (h : i ≠ 0x2052) : getE (inject s w (mkPacket u dest cls target stone field bs)) i j = getE s i j := by
  refine getE_inject s w _ fun e => h (ekey_inj e hi hj (by decide) ?_).2.1
  simp only [mkPacket]
  omega

/-! ### The bridge between the wythes (01 R24) -/

theorem passBytes_only (s : State) (v w n : Nat) : passBytes s v w n = { s with ent := (passBytes s v w n).ent } := by
  unfold passBytes
  split <;> rfl

theorem sameEntriesBut_passBytes (s : State) (v w n : Nat) : SameEntriesBut [(0xA010, 1), (0xA010, 2)] s (passBytes s v w n) := by
  unfold passBytes
  split
  · exact .refl _ _
  · have hv : v % 2 = 0 ∨ v % 2 = 1 := by omega
    rcases hv with hv | hv <;> simp only [countBridge, hv] <;>
      exact (sameEntriesBut_countBy s (by decide) (by decide) n).mono (by simp)

/-! ### Bytes of tier 1 -/

theorem length_toLE (n v : Nat) : (toLE n v).length = n := by
  induction n generalizing v with
  | zero => rfl
  | succ n ih => simp [toLE, ih]

theorem length_memRead (s : State) (a n : Nat) : (memRead s a n).length = n := by simp [memRead]

/-- What was written reads back (04 R121). -/
theorem memRead_memWrite {a : Nat} {bs : List Byte} (h : a + bs.length ≤ 2 ^ 39) : memRead (memWrite s a bs) a bs.length = bs := by
  refine List.ext_getElem (by simp [memRead]) fun i h1 h2 => ?_
  simp only [memRead, List.getElem_map, List.getElem_range]
  exact memByte_memWrite_in h2 h

theorem memByte_of_mem (hm : t.mem = s.mem) (hk : t.sec = s.sec) (a : Nat) : memByte t a = memByte s a := by
  unfold memByte
  rw [hm, hk]

theorem memRead_congr (h : ∀ a, memByte t a = memByte s a) (a n : Nat) : memRead t a n = memRead s a n := by
  simp only [memRead, h]

theorem ent_memWrite (s : State) (a : Nat) (bs : List Byte) : (memWrite s a bs).ent = s.ent := by
  unfold memWrite
  split <;> rfl

theorem memWrite_only (s : State) (a : Nat) (bs : List Byte) : memWrite s a bs = { s with mem := (memWrite s a bs).mem } := by
  unfold memWrite
  split <;> rfl

end

end Sys2Proof.Machine
end

section
/-! PROOFS. Memory requests at their home (11 R344 to R372): the window table, the lines of a request, stores and atomics. -/

-- As in the tests: proofs elaborated side by side exhaust memory in the joined text.
set_option Elab.async false

namespace Sys2Proof.Machine

section
variable {s : State} {r : MemReq} {p : Nat}

/-! ### A request at its home (11 R344, R371) -/

/-- A LOAD or STORE, not to a lake, of a legal size, rests on the window table. -/
theorem homeCheck_some (hl : r.lake = false) (h1 : 1 ≤ r.size) (h2 : r.size ≤ 4096) (ho : r.op = 0 ∨ r.op = 1)
    (hp : translate s r.jobTag r.offset r.size (if r.op = 0 then winRead else winWrite) = some p) : homeCheck s r = .ok p := by
  have hs : ¬(r.size = 0 ∨ r.size > 4096) := by omega
  rcases ho with ho | ho <;> simp only [ho, if_true, if_false, one_ne_zero] at hp <;> simp [homeCheck, ho, hl, hs, hp]

theorem homeCheck_none (hl : r.lake = false) (h1 : 1 ≤ r.size) (h2 : r.size ≤ 4096) (ho : r.op = 0 ∨ r.op = 1)
    (hp : translate s r.jobTag r.offset r.size (if r.op = 0 then winRead else winWrite) = none) : homeCheck s r = .error 1 := by
  have hs : ¬(r.size = 0 ∨ r.size > 4096) := by omega
  rcases ho with ho | ho <;> simp only [ho, if_true, if_false, one_ne_zero] at hp <;> simp [homeCheck, ho, hl, hs, hp]

theorem hotLine_only (s : State) (a : Nat) : hotLine s a =
    { s with hotLines := (hotLine s a).hotLines, holds := (hotLine s a).holds, ent := (hotLine s a).ent } := by
  unfold hotLine
  split <;> rfl

theorem sameEntriesBut_hotLine (s : State) (a : Nat) : SameEntriesBut [(0xA070, 0x0B), (0xA070, 0x0C)] s (hotLine s a) := by
  unfold hotLine
  split
  · have h1 := sameEntriesBut_countBy { s with hotLines := s.hotLines ++ [a] } (i := 0xA070) (j := 0x0B) (by decide) (by decide) 1
    have h2 := sameEntriesBut_setE (count { s with hotLines := s.hotLines ++ [a] } 0xA070 0x0B) (i := 0xA070) (j := 0x0C)
      (by decide) (by decide) (a * 64)
    exact ((h1.mono (by simp)).trans (h2.mono (by simp))).congr rfl rfl
  · exact .refl _ _

/-- The lines whose queues a request lengthens may become hot: the detector's source, counter and address. -/
theorem forEach_hotLine_only (l : List Nat) (s : State) : ∃ t, forEach s l hotLine = t ∧
    t = { s with hotLines := t.hotLines, holds := t.holds, ent := t.ent } ∧ SameEntriesBut [(0xA070, 0x0B), (0xA070, 0x0C)] s t := by
  induction l generalizing s with
  | nil => exact ⟨s, rfl, rfl, .refl _ _⟩
  | cons a l ih =>
    obtain ⟨t, ht, hf, he⟩ := ih (hotLine s a)
    exact ⟨t, ht, hf.trans (by rw [hotLine_only s a]), (sameEntriesBut_hotLine s a).trans he⟩

theorem queueRequest_lines (hop : ¬4 ≤ r.op) : ∃ t, queueRequest s r p = t ∧ t.lineQ = s.lineQ ++ lineParts r p 66 0 ∧
    t.homeReqs = s.homeReqs ++ [{ req := r, left := (lineParts r p 66 0).length, data := [], bad := false }] ∧
    t = { s with lineQ := t.lineQ, homeReqs := t.homeReqs, hotLines := t.hotLines, holds := t.holds, ent := t.ent } ∧
    SameEntriesBut [(0xA070, 0x0B), (0xA070, 0x0C)] s t := by
  obtain ⟨t, ht, hf, he⟩ := forEach_hotLine_only ((lineParts r p 66 0).map (·.line)).dedup
    { s with lineQ := s.lineQ ++ lineParts r p 66 0,
             homeReqs := s.homeReqs ++ [{ req := r, left := (lineParts r p 66 0).length, data := [], bad := false }] }
  refine ⟨t, ?_, ?_, ?_, ?_, he.congr rfl rfl⟩
  · unfold queueRequest
    rw [if_neg hop]
    exact ht
  · rw [hf]
  · rw [hf]
  · rw [hf]

theorem exec_memoryRequestAtHome_queued {ok : Bool} (h0 : s.resetLow = false) (hl : r.lake = false) (h1 : 1 ≤ r.size)
    (h2 : r.size ≤ 4096) (ho : r.op = 0 ∨ (r.op = 1 ∧ tooOld s r = false))
    (hp : translate s r.jobTag r.offset r.size (if r.op = 0 then winRead else winWrite) = some p) :
    exec (.memoryRequestAtHome r ok) s = .next (queueRequest s r p) := by
  have hop : r.op = 0 ∨ r.op = 1 := ho.imp id And.left
  refine exec_up (f := fun s => atHome s r ok) rfl h0 ?_
  simp only [atHome, homeCheck_some hl h1 h2 hop hp]
  rw [if_neg (by omega), if_neg (by omega), if_neg]
  rintro ⟨h1, hold⟩
  rcases ho with ho | ho
  · omega
  · simp [ho.2] at hold

theorem exec_memoryRequestAtHome_refused {ok : Bool} (h0 : s.resetLow = false) (hl : r.lake = false) (h1 : 1 ≤ r.size)
    (h2 : r.size ≤ 4096) (hop : r.op = 0 ∨ r.op = 1)
    (hp : translate s r.jobTag r.offset r.size (if r.op = 0 then winRead else winWrite) = none) :
    exec (.memoryRequestAtHome r ok) s = .next (answer (if s.windowFaultSeen then count s 0xA070 0x06
      else raise { count s 0xA070 0x06 with windowFaultSeen := true } [mkFault 0 0x24 6 0 none r.offset]) r 1 false [] 0) := by
  refine exec_up (f := fun s => atHome s r ok) rfl h0 ?_
  simp only [atHome, homeCheck_none hl h1 h2 hop hp]
  rw [if_neg (by omega)]
  rfl

/-! ### The lines of a request (11 R371) -/

/-- The part that begins `done` bytes into a request ends at the request's end or at a line's. -/
def partLen (r : MemReq) (p done : Nat) : Nat := min (r.size - done) (64 - (p + done) % 64)

theorem lineParts_succ {f done : Nat} (h : done < r.size) : lineParts r p (f + 1) done =
    { line := (p + done) / 64, phys := p + done, len := partLen r p done, at_ := done, req := r } ::
      lineParts r p f (done + partLen r p done) := by
  rw [lineParts, if_neg (by omega)]
  rfl

theorem lineParts_end {done : Nat} (h : r.size ≤ done) (f : Nat) : lineParts r p f done = [] := by
  cases f with
  | zero => rfl
  | succ f => rw [lineParts, if_pos h]

/-- It takes the rest of the request, or ends at a multiple of 64. -/
theorem partLen_cases {done : Nat} (h : done < r.size) :
    partLen r p done = r.size - done ∨ (partLen r p done ≤ r.size - done ∧ (p + done) % 64 + partLen r p done = 64) := by
  unfold partLen
  omega

/-- Each part lies within one line and within the request. -/
theorem of_mem_lineParts {q : LineReq} {f done : Nat} (h : q ∈ lineParts r p f done) : q.req = r ∧ q.phys = p + q.at_ ∧
    q.line = q.phys / 64 ∧ 1 ≤ q.len ∧ q.phys % 64 + q.len ≤ 64 ∧ q.at_ + q.len ≤ r.size := by
  induction f generalizing done with
  | zero => cases h
  | succ f ih =>
    by_cases hd : done < r.size
    · rw [lineParts_succ hd] at h
      rcases List.mem_cons.1 h with rfl | h
      · refine ⟨rfl, rfl, rfl, ?_, ?_, ?_⟩ <;> simp only [partLen] <;> omega
      · exact ih h
    · rw [lineParts_end (by omega)] at h
      cases h

/-- Lines enough for the bytes that are left, counted from the line in which they begin. -/
theorem lineParts_cover {f done : Nat} (hf : done < r.size → (p + done) % 64 + (r.size - done) ≤ 64 * f) :
    (∀ i, done ≤ i → i < r.size → ∃ q ∈ lineParts r p f done, q.at_ ≤ i ∧ i < q.at_ + q.len) ∧
      ((lineParts r p f done).map (fun q => q.len)).sum = r.size - done := by
  induction f generalizing done with
  | zero => exact ⟨fun i _ _ => by omega, by simp [lineParts]; omega⟩
  | succ f ih =>
    by_cases hd : done < r.size
    · have hn : done + partLen r p done < r.size →
          (p + (done + partLen r p done)) % 64 + (r.size - (done + partLen r p done)) ≤ 64 * f := by
        intro hlt
        have := hf hd
        rcases partLen_cases (p := p) hd with hl | ⟨hle, hl⟩ <;> omega
      obtain ⟨hc, hsum⟩ := ih hn
      rw [lineParts_succ hd]
      refine ⟨fun i h1 h2 => ?_, ?_⟩
      · by_cases hi : i < done + partLen r p done
        · exact ⟨_, List.mem_cons_self, h1, hi⟩
        · obtain ⟨q, hq, hat⟩ := hc i (by omega) h2
          exact ⟨q, List.mem_cons_of_mem _ hq, hat⟩
      · rw [List.map_cons, List.sum_cons, hsum]
        simp only [partLen]
        omega
    · rw [lineParts_end (by omega)]
      exact ⟨fun i _ _ => by omega, by simp; omega⟩

/-! ### A line is performed (11 R363, R371) -/

/-- The state in which the oldest request of a line has left its queue. -/
def unqueued (s : State) (line : Nat) (q : LineReq) : State :=
  { s with lineQ := s.lineQ.erase q
           hotLines := if lineDepth { s with lineQ := s.lineQ.erase q } line = 0 then s.hotLines.filter (· != line) else s.hotLines }

theorem tooOld_unqueued (s : State) (line : Nat) (q : LineReq) (r : MemReq) : tooOld (unqueued s line q) r = tooOld s r := rfl

/-- A line whose read meets no error. -/
theorem exec_lineRequestPerformed {line : Nat} {q : LineReq} {h : HomeReq} (h0 : s.resetLow = false)
    (hq : s.lineQ.find? (fun x => x.line == line) = some q) (hh : s.homeReqs.find? (fun x => x.req == q.req) = some h) :
    exec (.lineRequestPerformed line true) s = .next (
      if 4 ≤ q.req.op then performAtomicLine (unqueued s line q) q h true
      else if q.req.op = 1 ∧ tooOld s q.req then tooLate (unqueued s line q) h (channelWythe q.phys)
      else performLine (unqueued s line q) q h true) := by
  have hu : (if lineDepth { s with lineQ := s.lineQ.erase q } line = 0 then
      { s with lineQ := s.lineQ.erase q, hotLines := s.hotLines.filter (· != line) } else { s with lineQ := s.lineQ.erase q }) =
      unqueued s line q := by
    unfold unqueued
    split <;> rfl
  have hh' : (unqueued s line q).homeReqs.find? (fun x => x.req == q.req) = some h := hh
  change execLineRequestPerformed line true s = _
  rw [execLineRequestPerformed, run_up h0]
  simp only [hq, hu, hh', if_true, tooOld_unqueued]

theorem storePass_only (s : State) (w off n : Nat) : storePass s w off n = { s with ent := (storePass s w off n).ent } :=
  passBytes_only _ _ _ _

theorem linePass_storePass_only (s : State) (q : LineReq) (n : Nat) :
    linePass s q n storePass = { s with ent := (linePass s q n storePass).ent } := by
  unfold linePass
  split
  · exact storePass_only _ _ _ _
  · rfl

theorem sameEntriesBut_linePass_storePass (s : State) (q : LineReq) (n : Nat) :
    SameEntriesBut [(0xA010, 1), (0xA010, 2)] s (linePass s q n storePass) := by
  unfold linePass
  split
  · exact sameEntriesBut_passBytes _ _ _ _
  · exact .refl _ _

theorem linePass_foreign {q : LineReq} (hf : q.req.srcPkg ≠ pkgId s) (n : Nat) (pass : State → Nat → Nat → Nat → State) :
    linePass s q n pass = s := if_neg fun h => hf h.1

theorem mem_mapWhere {α : Type} {l : List α} {pr : α → Bool} {f : α → α} {a : α} (h : a ∈ l) (hp : pr a = true) :
    f a ∈ mapWhere l pr f :=
  List.mem_map.2 ⟨a, h, by rw [if_pos hp]⟩

/-- The bytes of a STORE's line reach memory, and its request has one part fewer to come. -/
theorem performLine_store {q : LineReq} {h : HomeReq} (hop : q.req.op = 1) (hleft : 2 ≤ h.left) : performLine s q h true =
    { memWrite (linePass s q q.len storePass) q.phys ((q.req.payload.drop q.at_).take q.len) with
      homeReqs := mapWhere s.homeReqs (· == h) (fun _ => { h with left := h.left - 1 }) } := by
  have hn : h.left - 1 ≠ 0 := by omega
  have hh : (memWrite (linePass s q q.len storePass) q.phys ((q.req.payload.drop q.at_).take q.len)).homeReqs = s.homeReqs := by
    rw [memWrite_only, linePass_storePass_only]
  simp [performLine, hop, hn, hh]

/-! ### An atomic is performed (11 R353, R364, R365) -/

theorem exactlyOnce_fresh {ok : Bool} {k : State → State} (hok : ok = true) (hl : ledgerEntry s r = none)
    (hold : tooOld s r = false) (hn : s.ledger.length < 65536) : exactlyOnce s r p ok k = k s := by
  have hlen : ¬(s.ledger.filter (isLive s)).length ≥ 65536 := by
    have := List.length_filter_le (isLive s) s.ledger
    omega
  simp only [exactlyOnce, hok, hl, hold, Bool.true_eq_false, Bool.false_eq_true, if_false, hlen]

theorem performAtomicLine_foreign {q : LineReq} {h : HomeReq} (hl : ledgerEntry s q.req = none) (hold : tooOld s q.req = false)
    (hn : s.ledger.length < 65536) (hf : q.req.srcPkg ≠ pkgId s) :
    performAtomicLine s q h true = performAtomic { s with homeReqs := s.homeReqs.erase h } q.req q.phys := by
  refine (exactlyOnce_fresh (s := { s with homeReqs := s.homeReqs.erase h }) rfl hl hold hn).trans ?_
  rw [linePass_foreign (s := { s with homeReqs := s.homeReqs.erase h }) hf,
    linePass_foreign (s := { s with homeReqs := s.homeReqs.erase h }) hf, if_pos rfl]

theorem answer_foreign {status w : Nat} {data : List Byte} (hf : r.srcPkg ≠ pkgId s) (hs : status ≠ 4) :
    answer s r status false data w = inject s w (mkPacket s r.srcPkg 2 (if r.unitKind = 3 then 5 else 0) r.unit
      (respField { srcPkg := pkgId s, op := r.op, unitKind := r.unitKind, unit := r.unit, slot := r.slot, seq := r.seq,
                   attempt := r.attempt, status := status, replayed := false, payload := data }) data) := by
  simp only [answer, Bool.false_eq_true, if_false, hs, hf]

/-- The word of a performed atomic. -/
def atomicWord (s : State) (r : MemReq) (p : Nat) : Nat :=
  atomicNew r.op (atomicWidth r) (fromLE (memRead s p (atomicWidth r))) (operandAt r 0 (atomicWidth r)) (operandAt r 8 (atomicWidth r))

theorem performAtomic_foreign (hf : r.srcPkg ≠ pkgId s) : ∃ t, performAtomic s r p = t ∧
    t.mem = (memWrite s p (toLE (atomicWidth r) (atomicWord s r p))).mem ∧ t.sec = s.sec ∧
    t.ledger = s.ledger ++ [LedgerEnt.mk r.srcPkg r.unitKind r.unit r.seq (fromLE (memRead s p (atomicWidth r)))
      (now s + getE s 0x4060 0x01 * 1000)] ∧
    getE t 0xA070 0x03 = (getE s 0xA070 0x03 + 1) % 2 ^ 64 := by
  let w := memWrite s p (toLE (atomicWidth r) (atomicWord s r p))
  let u := count (ledgerAdd w r (fromLE (memRead s p (atomicWidth r)))) 0xA070 0x03
  have hw : w = { s with mem := w.mem } := memWrite_only _ _ _
  have hue : getE u 0xA070 0x03 = (getE w 0xA070 0x03 + 1) % 2 ^ 64 := getE_count_self _ _
  have hwe : ∀ i j, getE w i j = getE s i j := getE_of_ent (ent_memWrite _ _ _)
  have hfu : r.srcPkg ≠ pkgId u := by
    rw [show pkgId u = pkgId w from congrArg (· % 2 ^ 14) (getE_count_ne (by decide)), show pkgId w = pkgId s by unfold pkgId; rw [hwe]]
    exact hf
  have ha : performAtomic s r p = answer u r 0 false (toLE 8 (fromLE (memRead s p (atomicWidth r)))) (channelWythe p) := rfl
  rw [answer_foreign hfu (by decide)] at ha
  refine ⟨_, ha, ?_, ?_, ?_, ?_⟩
  · rw [inject_only]
    rfl
  · rw [inject_only]
    show u.sec = s.sec
    rw [show u.sec = w.sec from rfl, hw]
  · rw [inject_only]
    show w.ledger ++ [LedgerEnt.mk _ _ _ _ _ (now w + getE w 0x4060 0x01 * 1000)] = _
    rw [hwe, hw]
    rfl
  · rw [getE_inject_mkPacket _ _ _ _ _ _ _ _ _ (by decide) (by decide) (by decide), hue, hwe]

end

/-- Settles O13: the checks of a request (`homeCheck_some`), its lines (`lineParts_cover`), and what one line of a STORE
(`performLine_store`) or an atomic (`performAtomic_foreign`) writes. -/
theorem requestAtHome : Obligations.RequestAtHome := by
  unfold Obligations.RequestAtHome
  refine ⟨fun s r ok h0 hl h1 h2 ho => ⟨fun p hp => ?_, fun hp u hu => ?_⟩, fun r p h1 h2 => ?_,
    fun s line q h h0 hq hh hop hold hleft hlen hpay => ?_,
    fun s line w old a b q h r h0 hq hh hr h4 h14 hf hl hold hn hw hlen hov ha hb => ?_⟩
  · obtain ⟨t, ht, hrest⟩ := queueRequest_lines (s := s) (r := r) (p := p) (by omega)
    exact ⟨t, (exec_memoryRequestAtHome_queued h0 hl h1 h2 ho hp).trans (congrArg _ ht), hrest⟩
  · subst hu
    exact exec_memoryRequestAtHome_refused h0 hl h1 h2 (ho.imp id And.left) hp
  · obtain ⟨hcover, hsum⟩ := lineParts_cover (r := r) (p := p) (f := 66) (done := 0) (by omega)
    exact ⟨fun q hq => of_mem_lineParts hq, fun i hi => hcover i (Nat.zero_le _) hi, hsum⟩
  · have he := exec_lineRequestPerformed h0 hq hh
    rw [if_neg (by omega), if_neg (by simp [hold]), performLine_store hop hleft] at he
    have hbytes : ((q.req.payload.drop q.at_).take q.len).length = q.len := by simp; omega
    have hpass := linePass_storePass_only (unqueued s line q) q q.len
    refine ⟨_, he, fun i hi => ?_, fun a ha => ?_, ?_, ?_, fun hf => ?_, ?_⟩
    · refine (memByte_memWrite_in (by omega) (by omega)).trans ?_
      rw [List.getElem_take, List.getElem_drop, List.getD_eq_getElem?_getD, List.getElem?_eq_getElem (by omega)]
      rfl
    · refine (memByte_memWrite_out (by omega)).trans ?_
      rw [hpass]
      rfl
    · rw [memWrite_only, hpass]
      rfl
    · exact ((sameEntriesBut_linePass_storePass (unqueued s line q) q q.len).congr rfl (ent_memWrite _ _ _)).congr rfl rfl
    · refine (ent_memWrite _ _ _).trans ?_
      rw [linePass_foreign (by exact hf)]
      rfl
    · exact mem_mapWhere (List.mem_of_find?_eq_some hh) (beq_self_eq_true h)
  · subst hr
    have hwidth : atomicWidth q.req = w := hw.symm
    have he := exec_lineRequestPerformed h0 hq hh
    have hperf := performAtomicLine_foreign (s := unqueued s line q) (q := q) (h := h) hl hold hn hf
    rw [if_pos h4, hperf] at he
    generalize hu : ({ unqueued s line q with homeReqs := (unqueued s line q).homeReqs.erase h } : State) = u at he
    obtain ⟨hum, hus, hul, hue, hun⟩ : u.mem = s.mem ∧ u.sec = s.sec ∧ u.ledger = s.ledger ∧ u.ent = s.ent ∧ now u = now s := by
      subst hu
      exact ⟨rfl, rfl, rfl, rfl, rfl⟩
    have hmem : ∀ x, memByte u x = memByte s x := memByte_of_mem hum hus
    have hfu : q.req.srcPkg ≠ pkgId u := by
      unfold pkgId
      rwa [getE_of_ent hue]
    have hovu : fromLE (memRead u q.phys (atomicWidth q.req)) = old := by rw [memRead_congr hmem, hwidth, hov]
    obtain ⟨t, ht, hm, hs, hled, hcount⟩ := performAtomic_foreign (s := u) (r := q.req) (p := q.phys) hfu
    have hbyte := memByte_of_mem (s := memWrite u q.phys (toLE w (atomicWord u q.req q.phys))) (t := t) (by rw [hm, hwidth])
      (by rw [hs, memWrite_only])
    have hword : atomicWord u q.req q.phys = atomicNew q.req.op w old a b := by
      unfold atomicWord
      rw [hovu, hwidth, ha, hb]
    refine ⟨t, atomicNew q.req.op w old a b, he.trans (congrArg _ ht), ?_, fun x hx => ?_, ?_, ?_, ?_, ?_, ?_, ?_, ?_, ?_, ?_, ?_, ?_,
      ?_, hcount.trans (by rw [getE_of_ent hue])⟩
    · rw [memRead_congr hbyte, hword]
      have := memRead_memWrite (s := u) (a := q.phys) (bs := toLE w (atomicNew q.req.op w old a b)) (by rw [length_toLE]; exact hlen)
      rwa [length_toLE] at this
    · rw [hbyte, memByte_memWrite_out (by rw [length_toLE]; exact hx), hmem]
    on_goal 12 => rw [hled, hul, hovu, hun, getE_of_ent hue]
    all_goals
      intro hop
      rw [hop]
      rfl

end Sys2Proof.Machine
end

section
/-! PROOFS. Responses, timeouts and ledger expiry (11 R351, R352, R362 to R367), and the window table (11 R343, R346). -/

-- As in the tests: proofs elaborated side by side exhaust memory in the joined text.
set_option Elab.async false

namespace Sys2Proof.Machine

section
variable {s : State}

/-! ### Responses at their sender (11 R351) -/

theorem exec_memoryResponse {r : MemResp} (h0 : s.resetLow = false) : exec (.memoryResponse r) s = .next (takeResponse s r) :=
  exec_up (f := fun s => takeResponse s r) rfl h0 rfl

theorem takeResponse_none {r : MemResp} (hq : (senderOf s (r.unitKind * 4096 + r.unit)).reqs.find?
    (fun q => q.slot == r.slot && q.seq == r.seq) = none) : takeResponse s r = count s 0xA070 0x08 := by
  simp only [takeResponse, senderKey, hq]

theorem takeResponse_some {r : MemResp} {q : OutReq} (hq : (senderOf s (r.unitKind * 4096 + r.unit)).reqs.find?
    (fun q => q.slot == r.slot && q.seq == r.seq) = some q) :
    takeResponse s r = completeReq s r.unitKind r.unit q r.status (r.payload.take q.width) := by
  simp only [takeResponse, senderKey, hq]

/-! ### ATTEMPT_TIMEOUT (11 R362) -/

section
variable {kind unit slot : Nat} {q : OutReq} (h0 : s.resetLow = false)
  (hq : (senderOf s (kind * 4096 + unit)).reqs.find? (fun q => q.slot == slot) = some q)
include h0 hq

/-- A STORE is never sent again: its expiries are counted up to the fourth. -/
theorem exec_attemptTimeoutExpiry_store (hop : q.op = 1) : exec (.attemptTimeoutExpiry kind unit slot) s = .next (
    if 4 ≤ tget 0 (senderOf s (kind * 4096 + unit)).expired slot + 1 then completeReq s kind unit q 4 []
    else setSender s (kind * 4096 + unit) { senderOf s (kind * 4096 + unit) with
      expired := tput 0 (senderOf s (kind * 4096 + unit)).expired slot
        (tget 0 (senderOf s (kind * 4096 + unit)).expired slot + 1) }) := by
  change execAttemptTimeoutExpiry kind unit slot s = _
  rw [execAttemptTimeoutExpiry, run_up h0]
  simp only [senderKey, hq, hop, if_true, ge_iff_le]

/-- Any other request is sent again three times. -/
theorem exec_attemptTimeoutExpiry_again (hop : q.op ≠ 1) (ha : q.attempt < 3) {q' : OutReq}
    (hq' : q' = { q with attempt := q.attempt + 1 }) : exec (.attemptTimeoutExpiry kind unit slot) s =
      .next (sendRequest (count (setSender s (kind * 4096 + unit)
        { senderOf s (kind * 4096 + unit) with
          reqs := mapWhere (senderOf s (kind * 4096 + unit)).reqs (fun r => r.slot == slot) (fun _ => q') }) 0xA070 0x07)
        (if kind = 0 then unit / 2048 else if kind = 1 ∨ kind = 2 then q.offset / 4096 % 2 else 0) (reqOf s kind unit q') q.dest) := by
  subst hq'
  change execAttemptTimeoutExpiry kind unit slot s = _
  rw [execAttemptTimeoutExpiry, run_up h0]
  simp only [senderKey, hq, hop, ha, if_true, if_false]
  rfl

theorem exec_attemptTimeoutExpiry_over (hop : q.op ≠ 1) (ha : 3 ≤ q.attempt) : exec (.attemptTimeoutExpiry kind unit slot) s =
    .next (completeReq s kind unit q (if q.op = 0 then 5 else 4) []) := by
  change execAttemptTimeoutExpiry kind unit slot s = _
  rw [execAttemptTimeoutExpiry, run_up h0]
  simp only [senderKey, hq, hop, Nat.not_lt.2 ha, if_false]

end

/-! ### The ledger (11 R364, R367) -/

section
variable {srcPkg kind unit seq : Nat} {e : LedgerEnt} (h0 : s.resetLow = false)
  (he : s.ledger.find? (fun e => e.srcPkg == srcPkg && e.unitKind == kind && e.unit == unit && e.seq == seq) = some e)
  (hx : e.expiry ≤ now s)
include h0 he hx

theorem exec_ledgerEntryExpiry_alone (hl : s.ledgerWait = []) :
    exec (.ledgerEntryExpiry srcPkg kind unit seq) s = .next { s with ledger := s.ledger.erase e } := by
  change execLedgerEntryExpiry srcPkg kind unit seq s = _
  rw [execLedgerEntryExpiry, run_up h0]
  simp only [he, Nat.not_lt.2 hx, if_false, hl]

theorem exec_ledgerEntryExpiry_waited {r : MemReq} {phys : Nat} {l : List (MemReq × Nat)} (hl : s.ledgerWait = (r, phys) :: l) :
    exec (.ledgerEntryExpiry srcPkg kind unit seq) s =
      .next (exactlyOnce { s with ledger := s.ledger.erase e, ledgerWait := l } r phys true
        (fun v => if r.op = 2 then performSignal v r else queueRequest v r phys)) := by
  change execLedgerEntryExpiry srcPkg kind unit seq s = _
  rw [execLedgerEntryExpiry, run_up h0]
  simp only [he, Nat.not_lt.2 hx, if_false, hl]

end

/-! ### The window table (11 R343, R346) -/

theorem windows_takeRequest (s : State) (q : Req) : (takeRequest s q).windows = s.windows := by rw [takeRequest_only]

theorem jobTag_takeRequest (s : State) (q : Req) : (takeRequest s q).jobTag = s.jobTag := by rw [takeRequest_only]

theorem windowOf_takeRequest (s : State) (q : Req) (i : Nat) : windowOf (takeRequest s q) i = windowOf s i := by
  unfold windowOf
  rw [windows_takeRequest]

/-- The state with entry `i` of its window table written. -/
def setWindow (s : State) (i : Nat) (w : BitVec 128) : State := { s with windows := tput 0 s.windows i w }

theorem windowOf_setWindow_self (s : State) (i : Nat) (w : BitVec 128) : windowOf (setWindow s i w) i = w := tget_tput_self _ _ _ _

theorem windowOf_setWindow_ne {i j : Nat} (h : j ≠ i) (w : BitVec 128) : windowOf (setWindow s i w) j = windowOf s j :=
  tget_tput_ne _ _ _ h _

/-- Taking away a power of 2 whose bit is set clears that bit alone. -/
theorem testBit_sub_two_pow {n i : Nat} (h : n.testBit i = true) (k : Nat) :
    (n - 2 ^ i).testBit k = (n.testBit k && decide (k ≠ i)) := by
  induction i generalizing n k with
  | zero =>
    have hodd : n % 2 = 1 := by simpa [Nat.testBit_zero] using h
    cases k with
    | zero => simp [Nat.testBit_zero]; omega
    | succ k => simp only [Nat.testBit_succ, Nat.pow_zero, show (n - 1) / 2 = n / 2 by omega]; simp
  | succ i ih =>
    have hp : 2 ^ (i + 1) = 2 * 2 ^ i := Nat.pow_succ'
    have hle : 2 ^ (i + 1) ≤ n := Nat.ge_two_pow_of_testBit h
    rw [hp] at hle ⊢
    cases k with
    | zero => simp [Nat.testBit_zero]; omega
    | succ k =>
      rw [Nat.testBit_succ, show (n - 2 * 2 ^ i) / 2 = n / 2 - 2 ^ i by omega, ih (by simpa [Nat.testBit_succ] using h),
        Nat.testBit_succ]
      simp

theorem testBit_clrBit (n i k : Nat) : (clrBit n i).testBit k = (n.testBit k && decide (k ≠ i)) := by
  unfold clrBit
  split
  · next h => exact testBit_sub_two_pow h k
  · next h =>
    by_cases hk : k = i
    · subst hk
      simp [h]
    · simp [hk]

theorem toNat_winInvalid (w : BitVec 128) : (winInvalid w).toNat = clrBit w.toNat 51 := by
  have : clrBit w.toNat 51 ≤ w.toNat := by
    unfold clrBit
    split <;> omega
  have := w.isLt
  simp only [winInvalid, BitVec.toNat_ofNat]
  exact Nat.mod_eq_of_lt (by omega)

theorem winValid_winInvalid (w : BitVec 128) : winValid (winInvalid w) = false := by
  simp [winValid, bit, toNat_winInvalid, testBit_clrBit]

theorem getLsbD_winInvalid (w : BitVec 128) {k : Nat} (hk : k ≠ 51) : (winInvalid w).getLsbD k = w.getLsbD k := by
  simp [BitVec.getLsbD, toNat_winInvalid, testBit_clrBit, hk]

end

/-- Settles O14: the cases of a response and of an expired attempt, the ledger's queue, and the checks of WINDOW_SET. -/
theorem requestEventsAndWindows : Obligations.RequestEventsAndWindows := by
  unfold Obligations.RequestEventsAndWindows
  refine ⟨fun s h0 => ⟨fun r x hx => ?_, fun kind unit slot x q hx hq => ?_, fun srcPkg kind unit seq e he hexp u hu => ?_⟩,
    fun s q w hw => ⟨fun ha => ⟨fun hr ht => ?_, fun hr => ?_, fun hr ht => ?_⟩, fun ha => ?_⟩⟩
  · subst hx
    exact ⟨fun hq => (exec_memoryResponse h0).trans (congrArg _ (takeResponse_none hq)),
      fun q hq => (exec_memoryResponse h0).trans (congrArg _ (takeResponse_some hq))⟩
  · subst hx
    refine ⟨fun hop h3 => ?_, fun hop h3 => ?_, fun hop ha q' hq' => exec_attemptTimeoutExpiry_again h0 hq hop ha hq',
      exec_attemptTimeoutExpiry_over h0 hq⟩
    · rw [exec_attemptTimeoutExpiry_store h0 hq hop, if_neg (by omega)]
    · rw [exec_attemptTimeoutExpiry_store h0 hq hop, if_pos (by omega)]
  · subst hu
    exact ⟨exec_ledgerEntryExpiry_alone h0 he hexp, fun r phys l hl => exec_ledgerEntryExpiry_waited h0 he hexp hl⟩
  · subst hw
    refine ⟨setWindow (takeRequest s q) q.value _, ?_, rfl, windowOf_setWindow_self _ _ _, fun i hi => ?_⟩
    · refine run_serveWrite_done ha ?_
      rw [actWindowSet, if_neg (by simp [hr]), if_neg (by rw [jobTag_takeRequest]; exact not_not.2 ht)]
      rfl
    · rw [windowOf_setWindow_ne hi, windowOf_takeRequest]
  · subst hw
    exact run_serveWrite_refuse ha (if_pos hr)
  · subst hw
    refine run_serveWrite_refuse ha ?_
    rw [actWindowSet, if_neg (by simp [hr]), if_pos (by rwa [jobTag_takeRequest])]
  · refine ⟨setWindow (takeRequest s q) q.value (winInvalid (windowOf (takeRequest s q) q.value)), run_serveWrite_done ha rfl, rfl,
      ?_, fun k _ hk => ?_, fun i hi => ?_⟩
    · rw [windowOf_setWindow_self, winValid_winInvalid]
    · rw [windowOf_setWindow_self, windowOf_takeRequest, getLsbD_winInvalid _ hk]
    · rw [windowOf_setWindow_ne hi, windowOf_takeRequest]

end Sys2Proof.Machine
end

section
/-! PROOFS. The fixed tree (12 R388, R389; O50). -/

-- As in the tests: proofs elaborated side by side exhaust memory in the joined text.
set_option Elab.async false

namespace Sys2Proof.Machine

/-! ### The node sizes -/

section Sizes

variable {radix : Nat}

/-- The radices that a group may have (12 R378): powers of 2, so that a node's parts are of one size. -/
theorem min_radix_dvd (hr : radix = 2 ∨ radix = 4 ∨ radix = 8 ∨ radix = 16) (e : Nat) :
    min radix (2 ^ e) ∣ 2 ^ e ∧ (0 < e → 1 < min radix (2 ^ e)) := by
  have hpow : ∃ r, 0 < r ∧ radix = 2 ^ r := by
    rcases hr with h | h | h | h
    · exact ⟨1, by omega, h⟩
    · exact ⟨2, by omega, h⟩
    · exact ⟨3, by omega, h⟩
    · exact ⟨4, by omega, h⟩
  obtain ⟨r, hr0, rfl⟩ := hpow
  rcases Nat.le_total r e with h | h
  · rw [Nat.min_eq_left (Nat.pow_le_pow_right (by omega) h)]
    exact ⟨Nat.pow_dvd_pow 2 h, fun _ => Nat.one_lt_two_pow (by omega)⟩
  · rw [Nat.min_eq_right (Nat.pow_le_pow_right (by omega) h)]
    exact ⟨dvd_rfl, fun he => Nat.one_lt_two_pow (by omega)⟩

/-- The parts of a node are of size 2 to a lower power. -/
theorem part_eq_two_pow (hr : radix = 2 ∨ radix = 4 ∨ radix = 8 ∨ radix = 16) {e : Nat} (he : 0 < e) :
    ∃ e', e' < e ∧ 2 ^ e / min radix (2 ^ e) = 2 ^ e' := by
  obtain ⟨hdvd, hlt⟩ := min_radix_dvd hr e
  obtain ⟨e', hle, he'⟩ := (Nat.dvd_prime_pow Nat.prime_two).1 (Nat.div_dvd_of_dvd hdvd)
  refine ⟨e', lt_of_le_of_ne hle ?_, he'⟩
  rintro rfl
  have : 2 ^ e' / min radix (2 ^ e') < 2 ^ e' := Nat.div_lt_self (by positivity) (hlt he)
  omega

/-- `q` parts of size `z` make up the node of size `2 ^ e`. -/
theorem radix_mul_part (hr : radix = 2 ∨ radix = 4 ∨ radix = 8 ∨ radix = 16) (e : Nat) :
    min radix (2 ^ e) * (2 ^ e / min radix (2 ^ e)) = 2 ^ e := Nat.mul_div_cancel' (min_radix_dvd hr e).1

theorem sizesFrom_cons (f : Nat) {e : Nat} (he : 0 < e) :
    sizesFrom radix (f + 1) (2 ^ e) = 2 ^ e :: sizesFrom radix f (2 ^ e / min radix (2 ^ e)) := by
  have : ¬ 2 ^ e ≤ 1 := by
    have := Nat.one_lt_two_pow (n := e) (by omega)
    omega
  rw [sizesFrom, if_neg this]

theorem sizesFrom_one (f : Nat) : sizesFrom radix (f + 1) 1 = [1] := by
  rw [sizesFrom, if_pos (le_refl 1)]

theorem head_of_sizesFrom (f s : Nat) : ∃ r, sizesFrom radix (f + 1) s = s :: r := ⟨_, rfl⟩

/-- Every size divides the first. -/
theorem dvd_of_mem_sizesFrom (hr : radix = 2 ∨ radix = 4 ∨ radix = 8 ∨ radix = 16) :
    ∀ (f e : Nat), e < f → ∀ z ∈ sizesFrom radix f (2 ^ e), z ∣ 2 ^ e := by
  intro f
  induction f with
  | zero => intro e he; omega
  | succ f ih =>
    intro e he z hz
    rcases Nat.eq_zero_or_pos e with rfl | hpos
    · rw [Nat.pow_zero, sizesFrom_one, List.mem_singleton] at hz
      simp [hz]
    · obtain ⟨e', hlt, he'⟩ := part_eq_two_pow hr hpos
      rw [sizesFrom_cons f hpos, he', List.mem_cons] at hz
      rcases hz with rfl | hz
      · exact dvd_rfl
      · exact (ih e' (by omega) z hz).trans (Nat.pow_dvd_pow 2 hlt.le)

/-- The sizes are a chain: about each size above 1 stand multiples of it before, then its part, then divisors of the part. -/
theorem split_sizesFrom (hr : radix = 2 ∨ radix = 4 ∨ radix = 8 ∨ radix = 16) :
    ∀ (f e : Nat), e < f → ∀ s ∈ sizesFrom radix f (2 ^ e), 1 < s →
      ∃ A B, sizesFrom radix f (2 ^ e) = A ++ s :: s / min radix s :: B ∧ (∀ a ∈ A, s ∣ a) ∧
        (∀ b ∈ B, b ∣ s / min radix s) ∧ min radix s * (s / min radix s) = s := by
  intro f
  induction f with
  | zero => intro e he; omega
  | succ f ih =>
    intro e he s hs h1
    rcases Nat.eq_zero_or_pos e with rfl | hpos
    · rw [Nat.pow_zero, sizesFrom_one, List.mem_singleton] at hs
      omega
    · obtain ⟨e', hlt, he'⟩ := part_eq_two_pow hr hpos
      have hdvd := dvd_of_mem_sizesFrom hr f e' (by omega)
      rw [sizesFrom_cons f hpos, List.mem_cons] at hs
      rcases hs with rfl | hs
      · obtain ⟨B, hB⟩ := head_of_sizesFrom (radix := radix) (f - 1) (2 ^ e')
        rw [Nat.sub_add_cancel (by omega)] at hB
        refine ⟨[], B, by rw [sizesFrom_cons f hpos, he', hB]; rfl, by simp, ?_, radix_mul_part hr e⟩
        intro b hb
        rw [he']
        exact hdvd b (by rw [hB]; exact List.mem_cons_of_mem _ hb)
      · rw [he'] at hs
        obtain ⟨A, B, hAB, hA, hB, hmul⟩ := ih e' (by omega) s hs h1
        refine ⟨2 ^ e :: A, B, by rw [sizesFrom_cons f hpos, he', hAB]; rfl, ?_, hB, hmul⟩
        rintro a (_ | ⟨_, ha⟩)
        · exact (hdvd s hs).trans (Nat.pow_dvd_pow 2 hlt.le)
        · exact hA a ha

end Sizes

/-! ### A group's tree -/

section Group

variable {radix n v : Nat}

theorem le_two_pow_log2Up (n : Nat) : n ≤ 2 ^ log2Up n := by
  unfold log2Up
  split
  · simpa
  · have := Nat.lt_log2_self (n := n - 1)
    omega

theorem log2Up_lt (hn : n ≤ 16384) : log2Up n < 16 := by
  unfold log2Up
  split
  · omega
  · have : Nat.log2 (n - 1) < 14 := (Nat.log2_lt (by omega)).2 (by omega)
    omega

/-- Children of the node of size `s` whose first member is `v`, within a group of `n` or not. -/
def nodeKids (radix v s : Nat) : List (Nat × Nat) :=
  ((List.range (min radix s)).drop 1).map (fun j => (v + j * (s / min radix s), s / min radix s))

theorem treeKids_eq : treeKids radix n v =
    (((treeSizes radix n).filter (fun s => decide (1 < s) && v % s == 0)).flatMap (nodeKids radix v)).filter
      (fun p => decide (p.1 < n)) := rfl

theorem mem_nodeKids {s : Nat} {k : Nat × Nat} : k ∈ nodeKids radix v s ↔
    ∃ j, 0 < j ∧ j < min radix s ∧ k = (v + j * (s / min radix s), s / min radix s) := by
  have hmem : ∀ q j, j ∈ (List.range q).drop 1 ↔ 0 < j ∧ j < q := by
    intro q j
    cases q with
    | zero => simp
    | succ q =>
      simp only [List.range_succ_eq_map, List.drop_succ_cons, List.drop_zero, List.mem_map, List.mem_range]
      constructor
      · rintro ⟨a, ha, rfl⟩
        omega
      · intro h
        exact ⟨j - 1, by omega, by omega⟩
  simp only [nodeKids, List.mem_map, hmem]
  constructor
  · rintro ⟨j, ⟨h0, hq⟩, rfl⟩
    exact ⟨j, h0, hq, rfl⟩
  · rintro ⟨j, h0, hq, rfl⟩
    exact ⟨j, ⟨h0, hq⟩, rfl⟩

theorem mem_treeKids {k : Nat × Nat} : k ∈ treeKids radix n v ↔
    ∃ s ∈ treeSizes radix n, 1 < s ∧ s ∣ v ∧ k ∈ nodeKids radix v s ∧ k.1 < n := by
  simp only [treeKids_eq, List.mem_filter, List.mem_flatMap, Bool.and_eq_true, decide_eq_true_eq, beq_iff_eq,
    Nat.dvd_iff_mod_eq_zero]
  constructor
  · rintro ⟨⟨s, ⟨hs, h1, hd⟩, hk⟩, hn⟩
    exact ⟨s, hs, h1, hd, hk, hn⟩
  · rintro ⟨s, hs, h1, hd, hk, hn⟩
    exact ⟨⟨s, ⟨hs, h1, hd⟩, hk⟩, hn⟩

/-- Of a chain of sizes: the first that divides `k` and the last that does not stand side by side. -/
theorem find_getLast_of_split {A B : List Nat} {s z k : Nat} (hA : ∀ a ∈ A, s ∣ a) (hB : ∀ b ∈ B, b ∣ z) (hz : z ∣ k)
    (hs : ¬ s ∣ k) :
    (A ++ s :: z :: B).find? (fun t => k % t == 0) = some z ∧
      ((A ++ s :: z :: B).filter (fun t => k % t != 0)).getLast? = some s := by
  have hA' : ∀ a ∈ A, ¬ k % a = 0 := fun a ha h => hs ((hA a ha).trans (Nat.dvd_of_mod_eq_zero h))
  have hs' : ¬ k % s = 0 := fun h => hs (Nat.dvd_of_mod_eq_zero h)
  have hz' : k % z = 0 := Nat.mod_eq_zero_of_dvd hz
  have hB' : ∀ b ∈ B, k % b = 0 := fun b hb => Nat.mod_eq_zero_of_dvd ((hB b hb).trans hz)
  constructor
  · rw [List.find?_append, List.find?_eq_none.2 (by simpa using hA')]
    simp [hs', hz']
  · have hnil : B.filter (fun t => k % t != 0) = [] := List.filter_eq_nil_iff.2 (by simpa using hB')
    simp [hs', hz', hnil]

/-- A child lies above its parent by less than the parent's node, and is the first member of a node of the child's size. -/
theorem kid_dvd {s j : Nat} (hmul : min radix s * (s / min radix s) = s) (hd : s ∣ v) (h0 : 0 < j) (hj : j < min radix s)
    (h1 : 1 < s) :
    s / min radix s ∣ v + j * (s / min radix s) ∧ 0 < j * (s / min radix s) ∧ (v + j * (s / min radix s)) % s = j * (s / min radix s) := by
  generalize hq : min radix s = q at *
  generalize s / q = z at *
  have hz : 0 < z := Nat.pos_of_ne_zero (by rintro rfl; simp at hmul; omega)
  have hlt : j * z < s := by
    rw [← hmul]
    exact Nat.mul_lt_mul_of_pos_right hj hz
  refine ⟨Nat.dvd_add ((Dvd.intro_left q hmul).trans hd) (Nat.dvd_mul_left z j), Nat.mul_pos h0 hz, ?_⟩
  rw [Nat.add_mod, Nat.mod_eq_zero_of_dvd hd, Nat.zero_add, Nat.mod_mod, Nat.mod_eq_of_lt hlt]

section Legal

variable (hr : radix = 2 ∨ radix = 4 ∨ radix = 8 ∨ radix = 16) (hn : n ≤ 16384)
include hr hn

theorem split_treeSizes {s : Nat} (hs : s ∈ treeSizes radix n) (h1 : 1 < s) :
    ∃ A B, treeSizes radix n = A ++ s :: s / min radix s :: B ∧ (∀ a ∈ A, s ∣ a) ∧
      (∀ b ∈ B, b ∣ s / min radix s) ∧ min radix s * (s / min radix s) = s :=
  split_sizesFrom hr 16 _ (log2Up_lt hn) s hs h1

/-- What the tree says of a child: it is its parent's alone, and its own node is that of the child. -/
theorem treeParent_of_mem {k : Nat × Nat} (hk : k ∈ treeKids radix n v) :
    treeParent radix n k.1 = v ∧ v < k.1 ∧ k.1 < n ∧ topSize radix n k.1 = k.2 := by
  obtain ⟨s, hs, h1, hd, hk, hlt⟩ := mem_treeKids.1 hk
  obtain ⟨j, h0, hj, rfl⟩ := mem_nodeKids.1 hk
  obtain ⟨A, B, hAB, hA, hB, hmul⟩ := split_treeSizes hr hn hs h1
  obtain ⟨hz, hpos, hmod⟩ := kid_dvd hmul hd h0 hj h1
  have hns : ¬ s ∣ v + j * (s / min radix s) := fun h => by
    rw [Nat.mod_eq_zero_of_dvd h] at hmod
    omega
  obtain ⟨hf, hl⟩ := find_getLast_of_split hA hB hz hns
  rw [← hAB] at hf hl
  refine ⟨?_, by show v < v + _; omega, hlt, by rw [topSize, hf, Option.getD_some]⟩
  rw [treeParent, hl]
  simp only [hmod]
  omega

/-- The last size that does not divide `v`, below which every size divides it. -/
theorem exists_split (h0 : 0 < v) (hv : v < n) : ∃ s, s ∈ treeSizes radix n ∧ 1 < s ∧ ¬ s ∣ v ∧ s / min radix s ∣ v := by
  have key : ∀ f e, e < f → ¬ 2 ^ e ∣ v →
      ∃ s, s ∈ sizesFrom radix f (2 ^ e) ∧ 1 < s ∧ ¬ s ∣ v ∧ s / min radix s ∣ v := by
    intro f
    induction f with
    | zero => intro e he; omega
    | succ f ih =>
      intro e he hd
      have hpos : 0 < e := Nat.pos_of_ne_zero (by rintro rfl; simp at hd)
      by_cases hp : 2 ^ e / min radix (2 ^ e) ∣ v
      · exact ⟨2 ^ e, by rw [sizesFrom_cons f hpos]; exact List.mem_cons_self, Nat.one_lt_two_pow (by omega), hd, hp⟩
      · obtain ⟨e', hlt, he'⟩ := part_eq_two_pow hr hpos
        obtain ⟨s, hs, h1, hns, hz⟩ := ih e' (by omega) (he' ▸ hp)
        exact ⟨s, by rw [sizesFrom_cons f hpos, he']; exact List.mem_cons_of_mem _ hs, h1, hns, hz⟩
  refine key 16 (log2Up n) (log2Up_lt hn) (fun h => ?_)
  have := Nat.le_of_dvd h0 h
  have := le_two_pow_log2Up n
  omega

theorem mem_treeKids_parent (h0 : 0 < v) (hv : v < n) :
    treeParent radix n v < v ∧ ∃ z, (v, z) ∈ treeKids radix n (treeParent radix n v) := by
  obtain ⟨s, hs, h1, hns, hz⟩ := exists_split hr hn h0 hv
  obtain ⟨A, B, hAB, hA, hB, hmul⟩ := split_treeSizes hr hn hs h1
  obtain ⟨-, hl⟩ := find_getLast_of_split hA hB hz hns
  rw [← hAB] at hl
  have hpar : treeParent radix n v = v - v % s := by rw [treeParent, hl]
  have hpos : 0 < v % s := Nat.pos_of_ne_zero (fun h => hns (Nat.dvd_of_mod_eq_zero h))
  have hle := Nat.mod_le v s
  have hlt := Nat.mod_lt v (show 0 < s by omega)
  refine ⟨by omega, s / min radix s, mem_treeKids.2 ⟨s, hs, h1, hpar ▸ Nat.dvd_sub_mod v, mem_nodeKids.2 ?_, hv⟩⟩
  obtain ⟨j, hj⟩ : s / min radix s ∣ v % s := (Nat.dvd_mod_iff (Dvd.intro_left _ hmul)).2 hz
  rw [Nat.mul_comm] at hj
  refine ⟨j, Nat.pos_of_ne_zero (by rintro rfl; omega), ?_, ?_⟩
  · rw [hj] at hlt
    exact Nat.lt_of_mul_lt_mul_right (hlt.trans_eq hmul.symm)
  · rw [hpar, ← hj, Nat.sub_add_cancel hle]

end Legal

/-! ### What a virtual rank covers -/

/-- `q` parts of size `z`, of which `m` members are there. -/
theorem sum_parts (z m q : Nat) : ((List.range q).map (fun j => min z (m - j * z))).sum = min (q * z) m := by
  induction q with
  | zero => simp
  | succ q ih =>
    rw [List.range_succ, List.map_append, List.sum_append, ih]
    simp only [List.map_cons, List.map_nil, List.sum_cons, List.sum_nil, Nat.succ_mul]
    omega

/-- Members that the child `k` covers. -/
def covers (n : Nat) (k : Nat × Nat) : Nat := min k.2 (n - k.1)

theorem sum_nodeKids {s : Nat} (hq : 0 < min radix s) (hmul : min radix s * (s / min radix s) = s) :
    min (s / min radix s) (n - v) + ((nodeKids radix v s).map (covers n)).sum = min s (n - v) := by
  have h := sum_parts (s / min radix s) (n - v) (min radix s)
  rw [hmul] at h
  rw [← h, nodeKids, List.map_map]
  obtain ⟨q, hq'⟩ : ∃ q, min radix s = q + 1 := ⟨min radix s - 1, by omega⟩
  simp [hq', List.range_succ_eq_map, covers, Function.comp_def, Nat.sub_sub]

/-- The nodes that `v` computes, from size `2 ^ e` down, cover the largest of them: the parts telescope. -/
theorem sum_sizesFrom (hr : radix = 2 ∨ radix = 4 ∨ radix = 8 ∨ radix = 16) (hv : v < n) : ∀ (f e : Nat), e < f →
    1 + ((((sizesFrom radix f (2 ^ e)).filter (fun s => decide (1 < s) && v % s == 0)).flatMap (nodeKids radix v)).map
      (covers n)).sum = min (((sizesFrom radix f (2 ^ e)).find? (fun s => v % s == 0)).getD 1) (n - v) := by
  intro f
  induction f with
  | zero => intro e he; omega
  | succ f ih =>
    intro e he
    rcases Nat.eq_zero_or_pos e with rfl | hpos
    · rw [Nat.pow_zero, sizesFrom_one]
      simp [Nat.mod_one]
      omega
    · obtain ⟨e', hlt, he'⟩ := part_eq_two_pow hr hpos
      have h1 := Nat.one_lt_two_pow (n := e) (by omega)
      have ih := ih e' (by omega)
      rw [sizesFrom_cons f hpos]
      by_cases hd : v % 2 ^ e = 0
      · obtain ⟨r, hr'⟩ := head_of_sizesFrom (radix := radix) (f - 1) (2 ^ e')
        rw [Nat.sub_add_cancel (by omega)] at hr'
        have hd' : v % 2 ^ e' = 0 := Nat.mod_eq_zero_of_dvd ((Nat.pow_dvd_pow 2 hlt.le).trans (Nat.dvd_of_mod_eq_zero hd))
        have hfind : ((sizesFrom radix f (2 ^ e')).find? (fun s => v % s == 0)).getD 1 = 2 ^ e' := by simp [hr', hd']
        have hnode := sum_nodeKids (n := n) (v := v) (by have := (min_radix_dvd hr e).2 hpos; omega) (radix_mul_part hr e)
        rw [hfind, ← he'] at ih
        simp only [h1, hd, decide_true, beq_self_eq_true, Bool.and_self, List.filter_cons_of_pos, List.flatMap_cons,
          List.map_append, List.sum_append, List.find?_cons_of_pos, Option.getD_some]
        omega
      · rw [he']
        simpa [hd] using ih

/-- A child past the group's last member covers nothing. -/
theorem sum_filter_covers (l : List (Nat × Nat)) :
    ((l.filter (fun p => decide (p.1 < n))).map (covers n)).sum = (l.map (covers n)).sum := by
  induction l with
  | nil => rfl
  | cons k l ih =>
    by_cases hk : k.1 < n
    · simp [hk, ih]
    · have : covers n k = 0 := by
        unfold covers
        omega
      simp [hk, ih, this]

theorem coverOf_eq_sum (hr : radix = 2 ∨ radix = 4 ∨ radix = 8 ∨ radix = 16) (hv : v < n) (hn : n ≤ 16384) :
    coverOf radix n v = 1 + ((treeKids radix n v).map (fun k => coverOf radix n k.1)).sum := by
  have hkids : (treeKids radix n v).map (fun k => coverOf radix n k.1) = (treeKids radix n v).map (covers n) :=
    List.map_congr_left (fun k hk => by
      obtain ⟨-, -, -, htop⟩ := treeParent_of_mem hr hn hk
      rw [coverOf, htop, covers])
  rw [hkids, treeKids_eq, sum_filter_covers]
  exact (sum_sizesFrom hr hv 16 _ (log2Up_lt hn)).symm

theorem coverOf_zero (radix n : Nat) : coverOf radix n 0 = n := by
  have : topSize radix n 0 = 2 ^ log2Up n := by simp [topSize, treeSizes, sizesFrom]
  rw [coverOf, this]
  have := le_two_pow_log2Up n
  omega

end Group

/-! ### Ranks and virtual ranks -/

theorem add_sub_mod_mod {n v a : Nat} (hv : v < n) (ha : a < n) : ((v + a) % n + (n - a)) % n = v := by
  rw [Nat.mod_add_mod, show v + a + (n - a) = v + n by omega, Nat.add_mod_right, Nat.mod_eq_of_lt hv]

theorem virtRank_realRank {n v : Nat} (root : Nat) (hv : v < n) : virtRank n root (realRank n root v) = v := by
  have ha := Nat.mod_lt root (show 0 < n by omega)
  rw [virtRank, realRank, ← Nat.add_mod_mod, Nat.add_sub_assoc ha.le]
  exact add_sub_mod_mod hv ha

theorem realRank_virtRank {n v : Nat} (root : Nat) (hv : v < n) : realRank n root (virtRank n root v) = v := by
  have ha := Nat.mod_lt root (show 0 < n by omega)
  rw [virtRank, realRank, ← Nat.add_mod_mod, Nat.mod_add_mod, Nat.sub_add_cancel (by omega), Nat.add_mod_right, Nat.mod_eq_of_lt hv]

/-- Settles O50: the sizes are a chain of divisors, so a child's own node stands right below its parent's, and the parts of the
nodes that a member computes telescope. -/
theorem fixedTree : Obligations.FixedTree := by
  intro radix n v hr hv hn
  exact ⟨fun k hk => treeParent_of_mem hr hn hk, fun h0 => mem_treeKids_parent hr hn h0 hv, coverOf_eq_sum hr hv hn,
    coverOf_zero radix n, fun root => ⟨virtRank_realRank root hv, realRank_virtRank root hv⟩⟩

end Sys2Proof.Machine
end

section
/-! PROOFS. The choice of the k best (02 R52; O36). -/

-- As in the tests: proofs elaborated side by side exhaust memory in the joined text.
set_option Elab.async false

namespace Sys2Proof.Machine

/-! ### Dyadic numbers as rationals -/

/-- The rational number that a dyadic one is. -/
def dyQ (a : Dy) : ℚ := a.1 * 2 ^ a.2

theorem two_pow_toNat_mul {i j : Int} (h : i ≤ j) : ((2 : ℚ) ^ (j - i).toNat) * 2 ^ i = 2 ^ j := by
  rw [← zpow_natCast, ← zpow_add₀ two_ne_zero, Int.toNat_of_nonneg (by omega), Int.sub_add_cancel]

theorem dyQ_dyAdd (a b : Dy) : dyQ (dyAdd a b) = dyQ a + dyQ b := by
  unfold dyAdd dyQ
  split
  · next h =>
    push_cast
    rw [add_mul, mul_assoc, two_pow_toNat_mul h]
  · next h =>
    push_cast
    rw [add_mul, mul_assoc, two_pow_toNat_mul (by omega)]

theorem dyQ_dyNeg (a : Dy) : dyQ (dyNeg a) = - dyQ a := by
  simp [dyQ, dyNeg]

theorem dyQ_neg_iff (a : Dy) : dyQ a < 0 ↔ a.1 < 0 := by
  have : (0 : ℚ) < 2 ^ a.2 := by positivity
  rw [dyQ, mul_neg_iff]
  simp [this, not_lt.2 this.le]

theorem dyLt_iff (a b : Dy) : dyLt a b = true ↔ dyQ a < dyQ b := by
  rw [dyLt, decide_eq_true_eq, ← dyQ_neg_iff, dyQ_dyAdd, dyQ_dyNeg]
  constructor <;> intro h <;> linarith

/-! ### The order of the candidates -/

/-- The number that a candidate is ranked by. -/
def candScore (a : Cand) : ℚ := dyQ (fpVal a.rank) + dyQ (fpVal a.rank2)

theorem candBefore_iff (a b : Cand) :
    candBefore a b = true ↔ candScore b < candScore a ∨ (candScore b ≤ candScore a ∧ a.id < b.id) := by
  simp only [candBefore, Bool.or_eq_true, Bool.and_eq_true, Bool.not_eq_true', decide_eq_true_eq, ← Bool.not_eq_true, dyLt_iff,
    dyQ_dyAdd, not_lt]
  rfl

theorem candBefore_asymm {a b : Cand} (h : candBefore a b = true) : candBefore b a = false := by
  rw [← Bool.not_eq_true, candBefore_iff]
  rcases (candBefore_iff a b).1 h with h | ⟨h, hid⟩
  · rintro (h' | ⟨h', -⟩) <;> linarith
  · rintro (h' | ⟨-, h'⟩)
    · linarith
    · omega

theorem candBefore_trans {a b c : Cand} (hab : candBefore a b = true) (hbc : candBefore b c = true) : candBefore a c = true := by
  rw [candBefore_iff] at *
  rcases hab with hab | ⟨hab, hi⟩ <;> rcases hbc with hbc | ⟨hbc, hj⟩
  · exact .inl (hbc.trans hab)
  · exact .inl (lt_of_le_of_lt hbc hab)
  · exact .inl (lt_of_lt_of_le hbc hab)
  · exact .inr ⟨hbc.trans hab, hi.trans hj⟩

/-! ### Insertion -/

theorem candInsert_perm (c : Cand) : ∀ l, (candInsert c l).Perm (c :: l)
  | [] => .refl _
  | a :: t => by
    rw [candInsert]
    split
    · exact .refl _
    · exact ((candInsert_perm c t).cons a).trans (.swap c a t)

/-- A list in the order of the candidates. -/
def InOrder (l : List Cand) : Prop := l.Pairwise (fun a b => candBefore b a = false)

theorem inOrder_candInsert (c : Cand) : ∀ l, InOrder l → InOrder (candInsert c l)
  | [], _ => List.pairwise_singleton _ _
  | a :: t, h => by
    obtain ⟨ha, ht⟩ := List.pairwise_cons.1 h
    rw [candInsert]
    split
    · next hca =>
      refine List.pairwise_cons.2 ⟨fun b hb => ?_, h⟩
      rcases List.mem_cons.1 hb with rfl | hb
      · exact candBefore_asymm hca
      · rw [← Bool.not_eq_true]
        intro hbc
        exact absurd (candBefore_trans hbc hca) (by simp [ha b hb])
    · next hca =>
      refine List.pairwise_cons.2 ⟨fun b hb => ?_, inOrder_candInsert c t ht⟩
      rcases List.mem_cons.1 ((candInsert_perm c t).subset hb) with rfl | hb
      · simpa using hca
      · exact ha b hb

/-- What comes behind the first `k` never comes back among them. -/
theorem take_candInsert_take (c : Cand) : ∀ (k : Nat) (l : List Cand),
    (candInsert c (l.take k)).take k = (candInsert c l).take k
  | 0, _ => by simp
  | _ + 1, [] => by simp
  | k + 1, a :: t => by
    simp only [List.take_succ_cons, candInsert]
    split
    · cases k with
      | zero => simp
      | succ k => simp [List.take_take]
    · simp [take_candInsert_take c k t]

/-! ### The k best -/

/-- All candidates in their order. -/
def ranked (l : List Cand) : List Cand := l.foldl (fun acc c => candInsert c acc) []

theorem foldl_perm : ∀ (l acc : List Cand), (l.foldl (fun acc c => candInsert c acc) acc).Perm (l ++ acc)
  | [], _ => .refl _
  | c :: l, acc => (foldl_perm l (candInsert c acc)).trans
      (((candInsert_perm c acc).append_left l).trans List.perm_middle)

theorem ranked_perm (l : List Cand) : (ranked l).Perm l := by
  simpa [ranked] using foldl_perm l []

theorem inOrder_foldl : ∀ (l acc : List Cand), InOrder acc → InOrder (l.foldl (fun acc c => candInsert c acc) acc)
  | [], _, h => h
  | c :: l, acc, h => inOrder_foldl l _ (inOrder_candInsert c acc h)

theorem topK_foldl (k : Nat) : ∀ (l acc : List Cand), l.foldl (fun acc c => (candInsert c acc).take k) (acc.take k) =
    (l.foldl (fun acc c => candInsert c acc) acc).take k
  | [], _ => rfl
  | c :: l, acc => by
    rw [List.foldl_cons, List.foldl_cons, take_candInsert_take, topK_foldl k l]

/-- The k best are the first k of all in their order. -/
theorem topK_eq (k : Nat) (l : List Cand) : topK k l = (ranked l).take k := by
  simpa [topK, ranked] using topK_foldl k l []

theorem topK_length (l : List Cand) : topK l.length l = ranked l := by
  rw [topK_eq, List.take_of_length_le (ranked_perm l).length_eq.le]

/-- Settles O36: taking k at each insertion is taking k of the whole order. -/
theorem bestChoices : Obligations.BestChoices := by
  intro k l
  rw [topK_length, topK_eq]
  exact ⟨by rw [List.length_take, (ranked_perm l).length_eq], (inOrder_foldl l [] .nil).sublist (List.take_sublist _ _),
    List.take_sublist _ _, ranked_perm l, rfl⟩

end Sys2Proof.Machine
end

section
/-! PROOFS. The arithmetic of a block (06 R210, R221, 07 R231, R234, R246; O44). -/

-- As in the tests: proofs elaborated side by side exhaust memory in the joined text.
set_option Elab.async false

namespace Sys2Proof.Machine

/-! ### Lists by place -/

section Lists

variable {α β : Type}

theorem nth_of_lt (d : α) {l : List α} {i : Nat} (h : i < l.length) : nth d l i = l[i] := by
  simp [nth, h]

theorem nth_map_range (d : α) {n i : Nat} (f : Nat → α) (h : i < n) : nth d ((List.range n).map f) i = f i := by
  simp [nth, h]

theorem nth_mem (d : α) {l : List α} {i : Nat} (h : i < l.length) : nth d l i ∈ l := by
  rw [nth_of_lt d h]
  exact List.getElem_mem h

theorem map_range_nth (d : α) (l : List α) (f : α → β) : (List.range l.length).map (fun i => f (nth d l i)) = l.map f := by
  refine List.ext_getElem (by simp) (fun i h _ => ?_)
  have hi : i < l.length := by simpa using h
  simp [nth_of_lt d hi]

end Lists

/-! ### Blocks in ascending K, zero blocks and negated weights -/

theorem sumBlocks_append (acc : BitVec 32) (vs : List FR) (v : FR) : sumBlocks acc (vs ++ [v]) =
    ((fadd (sumBlocks acc vs).1 v.1).1, (sumBlocks acc vs).2 + v.2 + (fadd (sumBlocks acc vs).1 v.1).2) := by
  simp [sumBlocks, List.foldl_append]

theorem blockTerm_of_zero {w x : BlockV} (h : w.2 = 0xFF ∨ x.2 = 0xFF) : blockTerm w x = (0, 0) := if_pos h

theorem dot_neg (a b : List Int) : dot (a.map (fun i => -i)) b = - dot a b := by
  induction a generalizing b with
  | nil => simp [dot]
  | cons i a ih =>
    cases b with
    | nil => simp [dot]
    | cons j b =>
      have := ih b
      simp only [dot, List.map_cons, List.zipWith_cons_cons, List.sum_cons] at this ⊢
      rw [this]
      ring

theorem blockTerm_neg (w : List Int) (e : Nat) (x : BlockV) : blockTerm (w.map (fun i => -i), e) x = dyNeg (blockTerm (w, e) x) := by
  simp only [blockTerm, termOf, dot_neg]
  split <;> simp [dyNeg]

/-! ### Sparse rows -/

theorem slotIdx_lt (wfmt : Nat) (blk : List (BitVec 8)) (t i : Nat) : slotIdx wfmt blk t i < 4 := by
  unfold slotIdx planeBit b2n
  dsimp only
  split <;> split <;> omega

section Sparse

variable {wfmt : Nat} {blk : List (BitVec 8)} {i : Nat}

theorem slots_lt (h : orderOk wfmt blk i = true) {j : Nat} (hj : j < 8) :
    slotIdx wfmt blk (2 * j) i < slotIdx wfmt blk (2 * j + 1) i := by
  simpa using List.all_eq_true.1 h j (List.mem_range.2 hj)

theorem nth_sparseRow {k : Nat} (hk : k < 32) : nth 0 (sparseRow wfmt blk i).1 k =
    if slotIdx wfmt blk (2 * (k / 4)) i = k % 4 then slotVal wfmt blk (2 * (k / 4)) i
    else if slotIdx wfmt blk (2 * (k / 4) + 1) i = k % 4 then slotVal wfmt blk (2 * (k / 4) + 1) i else 0 :=
  nth_map_range 0 _ hk

/-- A slot's value stands at the place that it names: the slot before it names a lower one. -/
theorem nth_sparseRow_slot (h : orderOk wfmt blk i = true) {t : Nat} (ht : t < 16) :
    nth 0 (sparseRow wfmt blk i).1 (4 * (t / 2) + slotIdx wfmt blk t i) = slotVal wfmt blk t i := by
  have hlt := slotIdx_lt wfmt blk t i
  have hdiv : (4 * (t / 2) + slotIdx wfmt blk t i) / 4 = t / 2 := by omega
  have hmod : (4 * (t / 2) + slotIdx wfmt blk t i) % 4 = slotIdx wfmt blk t i := by omega
  rw [nth_sparseRow (by omega), hdiv, hmod]
  rcases Nat.mod_two_eq_zero_or_one t with h2 | h2
  · rw [show 2 * (t / 2) = t by omega, if_pos rfl]
  · have := slots_lt h (show t / 2 < 8 by omega)
    rw [show 2 * (t / 2) + 1 = t by omega] at this ⊢
    rw [if_neg (by omega), if_pos rfl]

theorem nth_sparseRow_none {k : Nat} (hk : k < 32) (h : ∀ t, t / 2 = k / 4 → slotIdx wfmt blk t i ≠ k % 4) :
    nth 0 (sparseRow wfmt blk i).1 k = 0 := by
  rw [nth_sparseRow hk, if_neg (h _ (by omega)), if_neg (h _ (by omega))]

end Sparse

/-! ### The checksums (06 R221) -/

theorem dot_comm (a b : List Int) : dot a b = dot b a := by
  rw [dot, dot, List.zipWith_comm_of_comm (fun x y => Int.mul_comm x y)]

theorem dot_add : ∀ {a b : List Int}, a.length = b.length → ∀ y, dot (List.zipWith (· + ·) a b) y = dot a y + dot b y
  | [], [], _, y => by simp [dot]
  | i :: a, j :: b, h, [] => by simp [dot]
  | i :: a, j :: b, h, k :: y => by
    have ih := dot_add (a := a) (b := b) (by simpa using h) y
    simp only [dot, List.zipWith_cons_cons, List.sum_cons] at ih ⊢
    rw [ih]
    ring

theorem dot_zeros (n : Nat) (y : List Int) : dot (List.replicate n 0) y = 0 := by
  induction n generalizing y with
  | zero => simp [dot]
  | succ n ih =>
    cases y with
    | nil => simp [dot]
    | cons k y => simpa [dot, List.replicate_succ] using ih y

/-- Vectors of 32 values. -/
def Blocks32 (l : List (List Int)) : Prop := ∀ r ∈ l, r.length = 32

theorem dot_foldl (y : List Int) : ∀ (l : List (List Int)) (acc : List Int), Blocks32 l → acc.length = 32 →
    dot (l.foldl (List.zipWith (· + ·)) acc) y = dot acc y + (l.map (fun r => dot r y)).sum
  | [], acc, _, _ => by simp
  | r :: l, acc, hl, hacc => by
    obtain ⟨hr, hl⟩ := List.forall_mem_cons.1 hl
    rw [List.foldl_cons, dot_foldl y l _ hl (by simp [hacc, hr]), dot_add (by rw [hacc, hr]), List.map_cons, List.sum_cons]
    ring

/-- The checksum of vectors is the sum of their products. -/
theorem dot_vecSum {l : List (List Int)} (h : Blocks32 l) (y : List Int) : dot (vecSum l) y = (l.map (fun r => dot r y)).sum := by
  rw [vecSum, dot_foldl y l _ h (by simp), dot_zeros, zero_add]

/-- A pass whose vectors all hold 32 values, of `m` weight rows and `n` tokens. -/
structure PassOk (m n : Nat) (x : Pass) : Prop where
  rows : x.1.length = m
  toks : x.2.length = n
  row32 : Blocks32 x.1
  tok32 : Blocks32 x.2

theorem mem_rowSegs {m i : Nat} {seg : List Nat} (hs : seg ∈ rowSegs m) (hi : i ∈ seg) : i < m := by
  simp only [rowSegs, List.mem_map, List.mem_range] at hs
  obtain ⟨h, hh, rfl⟩ := hs
  obtain ⟨j, hj, rfl⟩ := List.mem_map.1 hi
  rw [List.mem_range] at hj
  omega

theorem mem_colSegs {n w t : Nat} {seg : List Nat} (hw : w ≤ n) (hs : seg ∈ colSegs n w) (ht : t ∈ seg) : t < n := by
  simp only [colSegs, List.mem_map, List.mem_range] at hs
  obtain ⟨g, hg, rfl⟩ := hs
  obtain ⟨j, hj, rfl⟩ := List.mem_map.1 ht
  rw [List.mem_range] at hj
  have hpos : 0 < n / w := Nat.div_pos hw (by omega)
  have : w * (g + 1) ≤ w * (n / w) := Nat.mul_le_mul_left w (by omega)
  have := Nat.mul_div_le n w
  rw [Nat.mul_succ] at *
  omega

theorem blocks32_map_nth {l : List (List Int)} (hl : Blocks32 l) {seg : List Nat} (hs : ∀ i ∈ seg, i < l.length) :
    Blocks32 (seg.map (fun i => nth [] l i)) := by
  intro r hr
  obtain ⟨i, hi, rfl⟩ := List.mem_map.1 hr
  exact hl _ (nth_mem [] (hs i hi))

section PassChecks

variable {m n w k p : Nat} {x : Pass}

theorem nth_dataSums (hx : PassOk m n x) {i t : Nat} (hi : i < m) (ht : t < n) :
    nth 0 (nth [] (dataSums [] k p x) i) t = dot (nth [] x.1 i) (nth [] x.2 t) := by
  rw [dataSums, nth_map_range _ _ (by rwa [hx.rows]), nth_map_range _ _ (by rwa [hx.toks])]
  rfl

theorem checkRowOf_eq (hx : PassOk m n x) : checkRowOf [] k p x = (rowSegs m).map (fun seg =>
    (List.range n).map (fun t => (seg.map (fun i => nth 0 (nth [] (dataSums [] k p x) i) t)).sum)) := by
  have hsegs : checkRowOf [] k p x = (rowSegs m).map (fun seg =>
      (List.range n).map (fun t => dot (vecSum (seg.map (fun i => nth [] x.1 i))) (nth [] x.2 t))) := by
    rw [← map_range_nth [] (rowSegs m), ← hx.rows, ← hx.toks]
    rfl
  rw [hsegs]
  refine List.map_congr_left (fun seg hseg => List.map_congr_left (fun t ht => ?_))
  have hi : ∀ i ∈ seg, i < m := fun i hi => mem_rowSegs hseg hi
  rw [dot_vecSum (blocks32_map_nth hx.row32 (by rwa [hx.rows])), List.map_map]
  exact congrArg List.sum (List.map_congr_left (fun i h => (nth_dataSums hx (hi i h) (List.mem_range.1 ht)).symm))

theorem checkColOf_eq (hx : PassOk m n x) (hw : w ≤ n) : checkColOf [] k p w x = (List.range m).map (fun i =>
    (colSegs n w).map (fun seg => (seg.map (nth 0 (nth [] (dataSums [] k p x) i))).sum)) := by
  have hsegs : checkColOf [] k p w x = (List.range m).map (fun i => (colSegs n w).map (fun seg =>
      dot (nth [] x.1 i) (vecSum (seg.map (fun t => nth [] x.2 t))))) := by
    simp only [checkColOf, hx.rows, hx.toks]
    refine List.map_congr_left (fun i _ => ?_)
    exact (map_range_nth [] _ (fun v => dot (nth [] x.1 i) v)).trans (List.map_map ..)
  rw [hsegs]
  refine List.map_congr_left (fun i hi => List.map_congr_left (fun seg hseg => ?_))
  have ht : ∀ t ∈ seg, t < n := fun t ht => mem_colSegs hw hseg ht
  rw [dot_comm, dot_vecSum (blocks32_map_nth hx.tok32 (by rwa [hx.toks])), List.map_map]
  refine congrArg List.sum (List.map_congr_left (fun t h => ?_))
  rw [nth_dataSums hx (List.mem_range.1 hi) (ht t h), dot_comm]
  rfl

/-- Without a flip the comparisons of a pass agree. -/
theorem sumsAgree_of_passOk (hx : PassOk m n x) (hm : 0 < m) (hw : w ≤ n) :
    sumsAgree w (dataSums [] k p x) (checkRowOf [] k p x) (checkColOf [] k p w x) = true := by
  have hrows : (dataSums [] k p x).length = m := by simp [dataSums, hx.rows]
  have htoks : (nth [] (dataSums [] k p x) 0).length = n := by
    rw [dataSums, nth_map_range _ _ (by rwa [hx.rows])]
    simp [hx.toks]
  simp only [sumsAgree, hrows, htoks, Bool.and_eq_true, decide_eq_true_eq]
  exact ⟨checkRowOf_eq hx, checkColOf_eq hx hw⟩

end PassChecks

/-! ### The passes of a block -/

/-- `n` blocks of 32 values. -/
def Block32 (n : Nat) (l : List BlockV) : Prop := l.length = n ∧ ∀ b ∈ l, b.1.length = 32

/-- The operands of a block, all of 32 values, for `m` rows and `n` tokens. -/
structure OpsOk (m n : Nat) (o : BlockOps) : Prop where
  a : Block32 m o.a
  b : Block32 m o.b
  c : Block32 n o.c
  d : Block32 n o.d

section Passes

variable {m n : Nat}

theorem blocks32_zipWith {α β : Type} {f : α → β → List Int} {l : List α} {r : List β}
    (h : ∀ a ∈ l, ∀ b ∈ r, (f a b).length = 32) : Blocks32 (List.zipWith f l r) := by
  intro v hv
  rw [List.zipWith_eq_zipWith_take_min] at hv
  obtain ⟨i, hi, rfl⟩ := List.mem_iff_getElem.1 hv
  rw [List.getElem_zipWith]
  exact h _ (List.mem_of_mem_take (List.getElem_mem _)) _ (List.mem_of_mem_take (List.getElem_mem _))

theorem Block32.zeroAs {l r : List BlockV} (hl : Block32 n l) (hr : Block32 n r) : Block32 n (List.zipWith zeroAs l r) := by
  refine ⟨by simp [hl.1, hr.1], fun v hv => ?_⟩
  obtain ⟨i, hi, rfl⟩ := List.mem_iff_getElem.1 hv
  rw [List.getElem_zipWith, Machine.zeroAs]
  have : i < l.length := by
    rw [List.length_zipWith] at hi
    omega
  split <;> simp [hl.2 _ (List.getElem_mem this)]

theorem OpsOk.gauss {o : BlockOps} (h : OpsOk m n o) : OpsOk m n (gaussOps o) :=
  have ha := h.a.zeroAs h.b
  have hc := h.c.zeroAs h.d
  ⟨ha, h.b.zeroAs ha, hc, h.d.zeroAs hc⟩

theorem passOk_vals {l r : List BlockV} (hl : Block32 m l) (hr : Block32 n r) : PassOk m n (l.map (·.1), r.map (·.1)) := by
  refine ⟨by simp [hl.1], by simp [hr.1], ?_, ?_⟩
  · simpa [Blocks32] using fun a b h => hl.2 (a, b) h
  · simpa [Blocks32] using fun a b h => hr.2 (a, b) h

/-- Two blocks of 32 values, element by element. -/
theorem passOk_left {f : Int → Int → Int} {l r c : List BlockV} (hl : Block32 m l) (hr : Block32 m r) (hc : Block32 n c) :
    PassOk m n (List.zipWith (fun a b => List.zipWith f a.1 b.1) l r, c.map (·.1)) := by
  obtain ⟨-, htoks, -, htok⟩ := passOk_vals hl hc
  exact ⟨by simp [hl.1, hr.1], htoks, blocks32_zipWith (fun a ha b hb => by simp [hl.2 a ha, hr.2 b hb]), htok⟩

theorem passOk_right {f : Int → Int → Int} {a l r : List BlockV} (ha : Block32 m a) (hl : Block32 n l) (hr : Block32 n r) :
    PassOk m n (a.map (·.1), List.zipWith (fun a b => List.zipWith f a.1 b.1) l r) := by
  obtain ⟨hrows, -, hrow, -⟩ := passOk_vals ha hl
  exact ⟨hrows, by simp [hl.1, hr.1], hrow, blocks32_zipWith (fun a ha b hb => by simp [hl.2 a ha, hr.2 b hb])⟩

theorem passOk_bytePasses {x y : Pass} (hx : PassOk m n x) (hy : y ∈ bytePasses x) : PassOk m n y := by
  have h32 : ∀ f : Int → Int, Blocks32 (x.2.map (fun l => l.map f)) := by
    intro f r hr
    obtain ⟨l, hl, rfl⟩ := List.mem_map.1 hr
    simp [hx.tok32 l hl]
  simp only [bytePasses, List.mem_cons, List.not_mem_nil, or_false] at hy
  rcases hy with rfl | rfl
  · exact ⟨hx.rows, by simp [hx.toks], hx.row32, h32 _⟩
  · exact ⟨hx.rows, by simp [hx.toks], hx.row32, h32 _⟩

/-- The passes of a real product, of a complex one, and of a Gauss-form one. -/
theorem passOk_of_mem {o : BlockOps} (h : OpsOk m n o) (cplx : Nat) (bf16 : Bool) {x : Pass} (hx : x ∈ passesOf cplx bf16 o) :
    PassOk m n x := by
  have base : ∀ y ∈ passesOf cplx false o, PassOk m n y := by
    intro y hy
    unfold passesOf at hy
    split at hy
    · simp only [Bool.false_eq_true, if_false, List.mem_singleton] at hy
      exact hy ▸ passOk_vals h.a h.c
    · simp only [Bool.false_eq_true, if_false, List.mem_cons, List.not_mem_nil, or_false] at hy
      rcases hy with rfl | rfl | rfl | rfl
      · exact passOk_vals h.a h.c
      · exact passOk_vals h.b h.d
      · exact passOk_vals h.a h.d
      · exact passOk_vals h.b h.c
    · have g := h.gauss
      simp only [Bool.false_eq_true, if_false, List.mem_cons, List.not_mem_nil, or_false] at hy
      rcases hy with rfl | rfl | rfl
      · exact passOk_left g.a g.b g.c
      · exact passOk_right g.a g.c g.d
      · exact passOk_right g.b g.c g.d
  cases bf16 with
  | false => exact base x hx
  | true =>
    obtain ⟨y, hy, hxy⟩ := List.mem_flatMap.1 (show x ∈ (passesOf cplx false o).flatMap bytePasses from hx)
    exact passOk_bytePasses (base y hy) hxy

end Passes

/-! ### The operands of a product -/

section Operands

variable (s : State) (st : Nat) (sp : Bool) (o : Operands) (r : List (BitVec 32))

theorem length_chunksOf {α : Type} {n : Nat} (hn : 0 < n) : ∀ (k : Nat) (l : List α), l.length = n * k → (chunksOf n k l).length = k
  | 0, _, _ => rfl
  | k + 1, l, h => by
    have hne : l.isEmpty = false := by
      cases l with
      | nil => simp at h; omega
      | cons => rfl
    rw [chunksOf, hne]
    simp only [Bool.false_eq_true, if_false, List.length_cons]
    rw [length_chunksOf hn k (l.drop n) (by rw [List.length_drop, h, Nat.mul_succ]; omega)]

theorem length_alignBlock (p : Nat) (low : Int) (l : List (Option Dy)) : (alignBlock p low l).1.length = l.length := by
  simp only [alignBlock, clean]
  split <;> simp

@[simp] theorem length_sramRead (off n : Nat) : (sramRead s st off n).length = n := by simp [sramRead]

theorem length_flatMap_pair {α : Type} (f g : α → Int) (l : List α) : (l.flatMap (fun b => [f b, g b])).length = 2 * l.length := by
  induction l with
  | nil => rfl
  | cons a l ih => simp only [List.flatMap_cons, List.length_append, ih, List.length_cons, List.length_nil]; omega

theorem length_actBlock (afmt row scale k : Nat) : (actBlock s st afmt row scale k).1.1.length = 32 := by
  unfold actBlock
  split
  · simp
  · simp only [length_flatMap_pair, length_sramRead]
  · simp [length_alignBlock]
  · simp [length_alignBlock]
  · simp [length_alignBlock, length_chunksOf]

theorem length_row (b : List (BitVec 8)) (wfmt i : Nat) : (if sp then sparseRow wfmt b i else denseRow wfmt b i).1.length = 32 := by
  split <;> simp [sparseRow, denseRow]

variable {o} (hshape : pShape o ≤ 13)
include hshape

/-- The shapes of 06 R217. -/
theorem shape_sizes : 0 < pM o ∧ pM o ≤ 64 * max 1 (pM o / 64) ∧
    groupTokens (pShape o) (pN o) (decide (pAfmt o = 1)) ≤ pN o := by
  have hcase : ∀ k ≤ 13, 0 < (shapeMN k).1 ∧ (shapeMN k).1 ≤ 64 * max 1 ((shapeMN k).1 / 64) ∧
      ∀ b : Bool, groupTokens k ((shapeMN k).2 * (if b then 2 else 1)) b ≤ (shapeMN k).2 * (if b then 2 else 1) := by
    decide
  obtain ⟨hpos, hle, hw⟩ := hcase _ hshape
  refine ⟨hpos, hle, ?_⟩
  have := hw (decide (pAfmt o = 1))
  simpa [pN] using this

theorem wRows_row {base : Nat} {l : List BlockV} (hl : l ∈ wRows s st sp o base) : l.length = pKb o ∧ ∀ b ∈ l, b.1.length = 32 := by
  obtain ⟨-, hle, -⟩ := shape_sizes hshape
  simp only [wRows, List.mem_map, List.mem_range] at hl
  obtain ⟨i, hi, rfl⟩ := hl
  rw [nth_map_range _ _ (by omega)]
  refine ⟨by simp, fun b hb => ?_⟩
  obtain ⟨c, -, rfl⟩ := List.mem_map.1 hb
  exact length_row sp _ _ _

omit hshape in
theorem aRows_row {part : Nat} {l : List BlockV} (hl : l ∈ (aRows s st o r part).1) : l.length = pKb o ∧ ∀ b ∈ l, b.1.length = 32 := by
  simp only [aRows, List.mem_map, List.mem_range, exists_exists_and_eq_and] at hl
  obtain ⟨t, -, rfl⟩ := hl
  refine ⟨by simp, fun b hb => ?_⟩
  simp only [List.mem_map, List.mem_range, exists_exists_and_eq_and] at hb
  obtain ⟨k, -, rfl⟩ := hb
  exact length_actBlock s st _ _ _ _

omit hshape in
/-- Block `k` of every row. -/
theorem block32_col {l : List (List BlockV)} {kb k n : Nat} (hn : l.length = n) (hk : k < kb)
    (h : ∀ v ∈ l, v.length = kb ∧ ∀ b ∈ v, b.1.length = 32) : Block32 n (l.map (fun b => nth ([], 0xFF) b k)) := by
  refine ⟨by simp [hn], fun b hb => ?_⟩
  obtain ⟨v, hv, rfl⟩ := List.mem_map.1 hb
  obtain ⟨hlen, h32⟩ := h v hv
  exact h32 _ (nth_mem _ (by omega))

theorem opsOk_of_mem {b : BlockOps} (hb : b ∈ (blocksOf s st sp o r).1) : OpsOk (pM o) (pN o) b := by
  obtain ⟨k, hk, rfl⟩ := List.mem_map.1 hb
  rw [List.mem_range] at hk
  refine ⟨block32_col (by simp [wRows]) hk (fun v hv => wRows_row s st sp hshape hv), ?_,
    block32_col (by simp [aRows]) hk (fun v hv => aRows_row s st r hv), ?_⟩
  · dsimp only
    split
    · exact block32_col (by simp [wRows]) hk (fun v hv => wRows_row s st sp hshape hv)
    · exact block32_col (by simp [wRows]) hk (fun v hv => wRows_row s st sp hshape hv)
  · dsimp only
    split
    · exact block32_col (by simp [aRows]) hk (fun v hv => aRows_row s st r hv)
    · exact block32_col (by simp [aRows]) hk (fun v hv => aRows_row s st r hv)

/-- The comparisons of one block. -/
theorem runBlock_agrees {b : BlockOps} (hb : OpsOk (pM o) (pN o) b) (k : Nat) {p : Nat} (hp : p < (runBlock [] o k b).sums.length) :
    sumsAgree (groupTokens (pShape o) (pN o) (decide (pAfmt o = 1))) (nth [] (runBlock [] o k b).sums p)
      (nth [] (runBlock [] o k b).checkRow p) (nth [] (runBlock [] o k b).checkCol p) = true := by
  obtain ⟨hpos, -, hw⟩ := shape_sizes hshape
  have hlt : p < (passesOf (pCplx o) (decide (pAfmt o = 4)) b).length := by simpa [runBlock] using hp
  simp only [runBlock]
  rw [nth_map_range _ _ hlt, nth_map_range _ _ hlt, nth_map_range _ _ hlt]
  exact sumsAgree_of_passOk (passOk_of_mem hb _ _ (nth_mem _ hlt)) hpos hw

/-- While no bit is flipped, every comparison of a tile agrees. -/
theorem tileAgrees_runTile : tileAgrees [] o (runTile s st sp [] o r).1 = true := by
  simp only [tileAgrees, Bool.and_eq_true, List.all_eq_true, List.mem_range]
  refine ⟨fun b hb p hp => ?_, fun k _ c _ => rfl⟩
  simp only [runTile, List.mem_map, List.mem_range] at hb
  obtain ⟨k, hk, rfl⟩ := hb
  exact runBlock_agrees hshape (opsOk_of_mem s st sp r hshape (nth_mem _ hk)) k hp

end Operands

/-! ### The two largest of four (07 R246) -/

section Largest

/-- Among four, `i` stands before `j`: it is larger, or as large and lower. -/
def largerOf (mag : Nat → Nat) (i j : Nat) : Bool := decide (mag j < mag i) || (decide (mag i = mag j) && decide (i < j))

theorem largerOf_iff {mag : Nat → Nat} {i j : Nat} : largerOf mag i j = true ↔ mag j < mag i ∨ (mag i = mag j ∧ i < j) := by
  simp [largerOf]

/-- Those of four that fewer than two stand before, by a relation given as a table of its pairs. -/
def keptOf (b : Nat → Nat → Bool) (j : Nat) : Bool :=
  decide (((List.range 4).filter (fun i => i != j && b i j)).length < 2)

/-- The relation of four in which, of places `i < j`, the first stands before the second where the bit of the pair says so. -/
def pairsOf (b01 b02 b03 b12 b13 b23 : Bool) (i j : Nat) : Bool :=
  match i, j with
  | 0, 1 => b01 | 0, 2 => b02 | 0, 3 => b03 | 1, 2 => b12 | 1, 3 => b13 | 2, 3 => b23
  | 1, 0 => !b01 | 2, 0 => !b02 | 3, 0 => !b03 | 2, 1 => !b12 | 3, 1 => !b13 | 3, 2 => !b23
  | _, _ => false

/-- The relation is transitive on four. -/
def chains (b : Nat → Nat → Bool) : Bool :=
  (List.range 4).all (fun i => (List.range 4).all (fun j => (List.range 4).all (fun k => !(b i j && b j k) || b i k)))

theorem chains_iff {b : Nat → Nat → Bool} :
    chains b = true ↔ ∀ i < 4, ∀ j < 4, ∀ k < 4, b i j = true → b j k = true → b i k = true := by
  simp only [chains, List.all_eq_true, List.mem_range]
  refine forall₂_congr (fun i _ => forall₂_congr (fun j _ => forall₂_congr (fun k _ => ?_)))
  cases b i j <;> cases b j k <;> simp

/-- Two of four are kept, and they stand before the others. -/
def twoLead (b : Nat → Nat → Bool) : Bool := ((List.range 4).filter (keptOf b)).length == 2 &&
  (List.range 4).all (fun i => (List.range 4).all (fun j => !(keptOf b i && !keptOf b j) || b i j))

theorem twoLead_iff {b : Nat → Nat → Bool} : twoLead b = true ↔ ((List.range 4).filter (keptOf b)).length = 2 ∧
    ∀ i < 4, ∀ j < 4, keptOf b i = true → keptOf b j = false → b i j = true := by
  simp only [twoLead, Bool.and_eq_true, beq_iff_eq, List.all_eq_true, List.mem_range]
  refine and_congr Iff.rfl (forall₂_congr (fun i _ => forall₂_congr (fun j _ => ?_)))
  cases keptOf b i <;> cases keptOf b j <;> simp

/-- In a linear order of four, two have fewer than two before them, and these stand before the others. -/
theorem twoLead_of_chains : ∀ b01 b02 b03 b12 b13 b23 : Bool,
    chains (pairsOf b01 b02 b03 b12 b13 b23) = true → twoLead (pairsOf b01 b02 b03 b12 b13 b23) = true := by
  decide

variable {mag : Nat → Nat}

theorem largerOf_trans {i j k : Nat} (hij : largerOf mag i j = true) (hjk : largerOf mag j k = true) : largerOf mag i k = true := by
  rw [largerOf_iff] at *
  omega

theorem largerOf_flip {i j : Nat} (h : i ≠ j) : largerOf mag j i = !largerOf mag i j := by
  rw [Bool.eq_iff_iff, Bool.not_eq_true', ← Bool.not_eq_true, largerOf_iff, largerOf_iff]
  omega

theorem largerOf_self (i : Nat) : largerOf mag i i = false := by
  rw [← Bool.not_eq_true, largerOf_iff]
  omega

/-- The order by magnitude is one of these tables. -/
theorem largerOf_eq_pairsOf {i j : Nat} (hi : i < 4) (hj : j < 4) : largerOf mag i j =
    pairsOf (largerOf mag 0 1) (largerOf mag 0 2) (largerOf mag 0 3) (largerOf mag 1 2) (largerOf mag 1 3) (largerOf mag 2 3) i j := by
  interval_cases i <;> interval_cases j <;> simp [pairsOf, largerOf_self] <;> exact largerOf_flip (by decide)

theorem keptOf_congr {b c : Nat → Nat → Bool} (h : ∀ i < 4, ∀ j < 4, b i j = c i j) {j : Nat} (hj : j < 4) : keptOf b j = keptOf c j := by
  unfold keptOf
  rw [List.filter_congr (fun i hi => by rw [h i (List.mem_range.1 hi) j hj])]

/-- Of four, two are kept by magnitude, and they are the larger ones. -/
theorem keptOf_largerOf (mag : Nat → Nat) : ((List.range 4).filter (keptOf (largerOf mag))).length = 2 ∧
    ∀ i < 4, ∀ j < 4, keptOf (largerOf mag) i = true → keptOf (largerOf mag) j = false → mag j ≤ mag i := by
  have heq := fun i hi j hj => (largerOf_eq_pairsOf (mag := mag) (i := i) (j := j) hi hj)
  obtain ⟨hlen, hbefore⟩ := twoLead_iff.1 (twoLead_of_chains _ _ _ _ _ _ (chains_iff.2 (fun i hi j hj k hk hij hjk => by
    rw [← heq i hi j hj] at hij
    rw [← heq j hj k hk] at hjk
    rw [← heq i hi k hk]
    exact largerOf_trans hij hjk)))
  refine ⟨?_, fun i hi j hj hki hkj => ?_⟩
  · rw [List.filter_congr (fun j hj => keptOf_congr heq (List.mem_range.1 hj)), hlen]
  · rw [keptOf_congr heq hi] at hki
    rw [keptOf_congr heq hj] at hkj
    have := hbefore i hi j hj hki hkj
    rw [← heq i hi j hj, largerOf_iff] at this
    omega

/-- The magnitude of place `j` of group `g`. -/
def magOf (vs : List (BitVec 32)) (g j : Nat) : Nat := (nth 0 vs (4 * g + j)).toNat % 2 ^ 31

theorem nth_largestTwo (vs : List (BitVec 32)) {g j : Nat} (hg : g < 8) (hj : j < 4) :
    nth false (largestTwo vs) (4 * g + j) = keptOf (largerOf (magOf vs g)) j := by
  rw [largestTwo, nth_map_range _ _ (by omega)]
  have hdiv : (4 * g + j) / 4 * 4 = 4 * g := by omega
  have hcmp : ∀ i, (decide (4 * g + i < 4 * g + j)) = decide (i < j) := fun i => by simp
  have hne : ∀ i, (4 * g + i != 4 * g + j) = (i != j) := fun i => by simp [bne]
  simp only [hdiv, keptOf, largerOf, magOf, hcmp, hne]
  rfl

end Largest

/-- Settles O44: sums by induction on the blocks, a row by its slots' order, the checksums by the sum rule of the product, and the
two largest by the linear order of four magnitudes. -/
theorem blockArithmetic : Obligations.BlockArithmetic := by
  refine ⟨⟨sumBlocks_append, fun w x h => blockTerm_of_zero h, blockTerm_neg, fun wfmt blk i h =>
    ⟨fun t ht => nth_sparseRow_slot h ht, fun k hk hnone => nth_sparseRow_none hk hnone, by simp [sparseRow]⟩,
    fun s st sp o r hshape => tileAgrees_runTile s st sp r hshape⟩, fun vs g hg => ?_⟩
  obtain ⟨hlen, hlarger⟩ := keptOf_largerOf (magOf vs g)
  refine ⟨?_, fun i j hi hj hki hkj => ?_⟩
  · rw [List.filter_congr (fun j hj => nth_largestTwo vs hg (List.mem_range.1 hj)), hlen]
  · rw [nth_largestTwo vs hg hi] at hki
    rw [nth_largestTwo vs hg hj] at hkj
    exact hlarger i hi j hj hki hkj

end Sys2Proof.Machine
end

section
/-! PROOFS. The reset pin, start-up, and firmware (17 R540 to R549, 18 R553 to R565; O15, O16). -/

-- As in the tests: proofs elaborated side by side exhaust memory in the joined text.
set_option Elab.async false

namespace Sys2Proof.Machine

variable {s t : State}

/-! ### Dictionary values behind writes -/

theorem getE_setE (s : State) (i j v i' j' : Nat) :
    getE (setE s i j v) i' j' = if ekey 0 i' j' = ekey 0 i j then v else getE s i' j' := by
  split
  · next h =>
    unfold getE setE getC setC
    dsimp only
    rw [h]
    exact tget_tput_self _ _ _ _
  · next h => exact getE_setE_ne h v

theorem sameEntriesBut_of_setE {l : List (Nat × Nat)} {i j : Nat} (h : SameEntriesBut l s t) (v : Nat) (hi : i < 65536) (hj : j < 256)
    (hl : (i, j) ∈ l) : SameEntriesBut l s (setE t i j v) :=
  h.trans ((sameEntriesBut_setE t hi hj v).mono (by simpa using hl))

/-! ### The PLLs and the bits of start-up -/

theorem getE_lockPlls (s : State) (mask i j : Nat) : getE (lockPlls s mask) i j =
    if ekey 0 i j = ekey 0 0x3010 1 then getE s 0x3010 1 ||| mask else getE s i j := getE_setE _ _ _ _ _ _

theorem getE_setInit (s : State) (b i j : Nat) : getE (setInit s b) i j =
    if ekey 0 i j = ekey 0 0x3010 2 then setBit (getE s 0x3010 2) b else getE s i j := getE_setE _ _ _ _ _ _

theorem sameEntriesBut_setInit (s : State) (b : Nat) : SameEntriesBut [(0x3010, 2)] s (setInit s b) :=
  sameEntriesBut_setE _ (by decide) (by decide) _

theorem sameEntriesBut_lockPlls (s : State) (mask : Nat) : SameEntriesBut [(0x3010, 1)] s (lockPlls s mask) :=
  (sameEntriesBut_setE _ (by decide) (by decide) _).congr rfl rfl

theorem sameEntriesBut_start (s : State) (b mask : Nat) :
    SameEntriesBut [(0x3010, 1), (0x3010, 2)] s (lockPlls (setInit s b) mask) :=
  ((sameEntriesBut_setInit s b).mono (by simp)).trans ((sameEntriesBut_lockPlls _ mask).mono (by simp))

theorem getE_start (s : State) (b mask : Nat) : getE (lockPlls (setInit s b) mask) 0x3010 2 = setBit (getE s 0x3010 2) b ∧
    getE (lockPlls (setInit s b) mask) 0x3010 1 = getE s 0x3010 1 ||| mask := by
  simp [getE_lockPlls, getE_setInit, ekey]

/-! ### Each event of start-up -/

theorem exec_resetAssert (s : State) : exec .resetAssert s = execResetAssert s := rfl

theorem exec_initSramZeroed (h0 : s.resetLow = false) (hv : s.mode = .verified) (hi : bit 0 (getE s 0x3010 2) = false) :
    exec .initSramZeroed s = .next (lockPlls (setInit { s with
      sram := [], badWords := []
      routers := s.routers.map (fun r => (r.1, { r.2 with shares := [], streaming := [], gathers := [] })) } 0) 0x1E) := by
  change execInitSramZeroed s = _
  rw [execInitSramZeroed, run_up h0, if_neg (by simp [hv, hi])]

theorem exec_stacksTrained (h0 : s.resetLow = false) (hv : s.mode = .verified) (hi : bit 1 (getE s 0x3010 2) = false) :
    exec (.stacksTrained none) s = .next (lockPlls (setInit s 1) 0x1FE0) := by
  change execStacksTrained none s = _
  rw [execStacksTrained, run_up h0, if_neg (by simp [hv, hi])]

theorem exec_stacksTrained_failed (h0 : s.resetLow = false) (hv : s.mode = .verified) (hi : bit 1 (getE s 0x3010 2) = false) {n : Nat}
    (hn : n < 8) : exec (.stacksTrained (some n)) s = .next (raise s [mkFault 2 0x66 5 (16 * n) none 0]) := by
  change execStacksTrained (some n) s = _
  rw [execStacksTrained, run_up h0, if_neg (by simp [hv, hi])]
  simp only [Nat.mod_eq_of_lt hn]
  rfl

theorem exec_tier1Zeroed (h0 : s.resetLow = false) (hv : s.mode = .verified) (h1 : bit 1 (getE s 0x3010 2) = true)
    (h2 : bit 2 (getE s 0x3010 2) = false) : exec .tier1Zeroed s = .next (setInit { s with mem := [] } 2) := by
  change execTier1Zeroed s = _
  rw [execTier1Zeroed, run_up h0, if_neg (by simp [hv, h1, h2])]

theorem exec_refclkLost (h0 : s.resetLow = false) (h : s.power.refclkLost = false) : exec .refclkLost s = .next (setTimeValid
    (raise { s with power := { s.power with refclkLost := true } } [mkFault 2 0x61 6 2 none 0]) false) := by
  change execRefclkLost s = _
  rw [execRefclkLost, run_up h0, if_neg (by simp [h])]
  rfl

theorem exec_pllLockTimeout (h0 : s.resetLow = false) {n : Nat} (hb : bit n (getE s 0x3010 0x01) = false) (hn : n < 14) {u : State}
    (hu : u = { s with power := { s.power with pllTries := tput 0 s.power.pllTries n (tget 0 s.power.pllTries n + 1) } }) :
    exec (.pllLockTimeout n) s = .next (if tget 0 s.power.pllTries n = 0 then u
      else raise u [mkFault 2 0x60 6 2 none (getE s 0x3010 0x01)]) := by
  subst hu
  change execPllLockTimeout n s = _
  rw [execPllLockTimeout, run_up h0, if_neg (by simp [hb]; omega)]
  rfl

theorem exec_pllLockLoss (h0 : s.resetLow = false) {n : Nat} (hb : bit n (getE s 0x3010 0x01) = true) :
    exec (.pllLockLoss n) s = .next (raise (setE s 0x3010 0x01 (clrBit (getE s 0x3010 0x01) n))
      [mkFault 2 0x60 6 2 none (clrBit (getE s 0x3010 0x01) n)]) := by
  change execPllLockLoss n s = _
  rw [execPllLockLoss, run_up h0, if_neg (by simp [hb]), pllUnlock, getE_setE_self]
  rfl

/-- Settles O15: each event by its equation; the bits of start-up by the writes of INIT_STATUS and PLL_STATUS. -/
theorem resetPinAndStartUp : Obligations.ResetPinAndStartUp := by
  refine ⟨⟨fun s => ⟨_, exec_resetAssert s, ?_⟩, fun s n hlow => ?_⟩, fun s i h0 hv hi => ?_, fun s n h0 => ?_⟩
  · exact ⟨rfl, rfl, rfl, rfl, rfl, rfl, rfl, rfl, rfl, rfl, rfl, rfl, rfl, rfl, getC_of_empty rfl, sramByte_of_empty rfl⟩
  · refine ⟨newChallenge { s with resetLow := false, trayId := n % 8 }, ?_, rfl, rfl, rfl, rfl⟩
    change execResetRelease n s = _
    rw [execResetRelease, if_pos hlow]
  · subst hi
    refine ⟨fun hb => ⟨_, exec_initSramZeroed h0 hv hb, sramByte_of_empty rfl, (getE_start _ _ _).1, (getE_start _ _ _).2,
      (sameEntriesBut_start _ _ _).congr rfl rfl, rfl, rfl⟩, fun hb => ⟨_, exec_stacksTrained h0 hv hb, (getE_start _ _ _).1,
      (getE_start _ _ _).2, sameEntriesBut_start _ _ _, rfl, rfl⟩, fun hb n hn => exec_stacksTrained_failed h0 hv hb hn,
      fun h1 h2 => ⟨_, exec_tier1Zeroed h0 hv h1 h2, ?_, (sameEntriesBut_setInit _ _).congr rfl rfl, rfl⟩⟩
    rw [getE_setInit, if_pos rfl]
    rfl
  · refine ⟨exec_up (f := fun s => raise s [aonFault 2 0x65 (n % 256)]) rfl h0 rfl, exec_refclkLost h0,
      fun hb hn u hu => exec_pllLockTimeout h0 hb hn hu, fun hb v hv => ?_⟩
    subst hv
    exact exec_pllLockLoss h0 hb

/-! ### Firmware -/

theorem exec_firmwareLoad_later {q : Req} {u : State} (h : accepts 0x9010 0x05 q s = true) (hu : u = takeRequest s q)
    (ha : bits 127 64 q.value % 4096 = 0) (hp : getE u 0x9030 0x03 ≠ 1) : Later (.firmwareLoad q) 0x9010 0x05 q s
      (readHost (setE { u with sec := { u.sec with fwLoading := some (bits 63 32 q.value) } } 0x9010 0x04 1) (bits 127 64 q.value)
        (bits 63 32 q.value)) := by
  subst hu
  exact run_serveWrite_later h (by simp only [actFirmwareLoad, ha, hp, ne_eq, not_true, if_false])

theorem exec_firmwareLoad_refuse {q : Req} {u : State} {c : Nat} (h : accepts 0x9010 0x05 q s = true) (hu : u = takeRequest s q)
    (hc : actFirmwareLoad q u = .refuse c u) : exec (.firmwareLoad q) s = .next (refuse u q 0x9010 0x05 c) := by
  subst hu
  exact run_serveWrite_refuse h hc

/-- The checks of an image in their order (18 R559): the verdict is none where all hold. -/
theorem firmwareVerdict_none {f : FwImage} {n : Nat} (hr : f.readOk = true) (hh : headerGood f n = true)
    (hk : s.fuses.revokedFwKeys.contains f.keyIndex = false) (hv : s.fuses.fusedSecurityVersion ≤ f.securityVersion)
    (hs : f.sigOk = true) (hi : f.keyIndex < 4) : firmwareVerdict s f n = none := by
  rw [firmwareVerdict, if_neg (by simp [hr]), if_neg (by simp [hh]), if_neg (by simp only [hk]; decide), if_neg (by omega),
    if_neg (by simp only [hs]; simp; omega)]

/-- The first check that fails gives the status and the code. -/
theorem firmwareVerdict_some {f : FwImage} {n : Nat} {p : Nat × Nat} (hr : f.readOk = false → p = (3, 0x0302))
    (hh : f.readOk = true → headerGood f n = false → p = (4, 0x0303))
    (hk : f.readOk = true → headerGood f n = true → s.fuses.revokedFwKeys.contains f.keyIndex = true → p = (5, 0x0501))
    (hv : f.readOk = true → headerGood f n = true → s.fuses.revokedFwKeys.contains f.keyIndex = false →
      f.securityVersion < s.fuses.fusedSecurityVersion → p = (6, 0x0501))
    (hs : f.readOk = true → headerGood f n = true → s.fuses.revokedFwKeys.contains f.keyIndex = false →
      s.fuses.fusedSecurityVersion ≤ f.securityVersion → p = (7, 0x0501))
    (hbad : f.readOk = false ∨ headerGood f n = false ∨ s.fuses.revokedFwKeys.contains f.keyIndex = true ∨
      f.securityVersion < s.fuses.fusedSecurityVersion ∨ f.sigOk = false) : firmwareVerdict s f n = some p := by
  unfold firmwareVerdict
  rcases Bool.eq_false_or_eq_true f.readOk with h1 | h1
  swap
  · rw [if_pos h1, hr h1]
  rw [if_neg (by simp [h1])]
  rcases Bool.eq_false_or_eq_true (headerGood f n) with h2 | h2
  swap
  · rw [if_pos h2, hh h1 h2]
  rw [if_neg (by simp [h2])]
  rcases Bool.eq_false_or_eq_true (s.fuses.revokedFwKeys.contains f.keyIndex) with h3 | h3
  · rw [if_pos h3, hk h1 h2 h3]
  rw [if_neg (by simp only [h3]; decide)]
  by_cases h4 : f.securityVersion < s.fuses.fusedSecurityVersion
  · rw [if_pos h4, hv h1 h2 h3 h4]
  rw [if_neg h4]
  have h5 : f.sigOk = false := by
    rcases hbad with h | h | h | h | h
    · simp [h1] at h
    · simp [h2] at h
    · exact absurd (h3.symm.trans h) (by decide)
    · exact absurd h h4
    · exact h
  rw [if_pos (.inl h5), hs h1 h2 h3 (by omega)]

/-- The state behind the reading of an image. -/
def imageRead (s : State) : State := { s with sec := { s.sec with fwLoading := none } }

theorem exec_firmwareImageChecked (h0 : s.resetLow = false) (hd : s.mode = .dormant) {f : FwImage} {len : Nat}
    (hl : s.sec.fwLoading = some len) :
    (∀ p, firmwareVerdict s f len = some p → exec (.firmwareImageChecked f) s = .next (refuseFirmware (imageRead s) p.1 p.2)) ∧
    (firmwareVerdict s f len = none → exec (.firmwareImageChecked f) s = .next (startFirmware (imageRead s) f)) := by
  change (∀ p, _ → execFirmwareImageChecked f s = _) ∧ (_ → execFirmwareImageChecked f s = _)
  rw [execFirmwareImageChecked, run_up h0]
  split
  · next n _ hn =>
    obtain rfl : n = len := Option.some.inj (hn.symm.trans hl)
    exact ⟨fun p hp => by rw [hp]; rfl, fun hp => by rw [hp]; rfl⟩
  · next hne => exact absurd hl (hne len hd)

theorem getE_newKey (s : State) {i j : Nat} (h1 : ekey 0 i j ≠ ekey 0 0x8060 2) (h2 : ekey 0 i j ≠ ekey 0 0xA0E0 4) :
    getE (newKey s) i j = getE s i j := by
  unfold newKey
  split
  · rfl
  · rw [getE_count_ne h2, getE_setE_ne h1]
    exact getE_of_ent rfl i j

theorem getE_endDeferred (s : State) (idx sub code i j : Nat) : getE (endDeferred s idx sub code) i j = getE s i j := rfl

theorem newKey_only (s : State) : newKey s = { s with mem := (newKey s).mem, sec := (newKey s).sec, ent := (newKey s).ent } := by
  unfold newKey
  split <;> rfl

/-- The image runs (18 R559): Verified under its versions and digest, with a fresh tier-1 key. -/
theorem startFirmware_spec (s : State) (f : FwImage) : (startFirmware s f).mode = .verified ∧
    getE (startFirmware s f) 0x9010 0x01 = f.version ∧ getE (startFirmware s f) 0x9010 0x02 = f.digest ∧
    getE (startFirmware s f) 0x9010 0x03 = f.securityVersion ∧ getE (startFirmware s f) 0x9010 0x04 = 2 ∧
    (startFirmware s f).sec.fwLoading = s.sec.fwLoading ∧ (s.sec.rngBad = false → (startFirmware s f).sec.keyGen = s.sec.keyGen + 1) := by
  have hent : ∀ i j, ekey 0 i j ≠ ekey 0 0x8060 2 → ekey 0 i j ≠ ekey 0 0xA0E0 4 → getE (startFirmware s f) i j = getE (setE (setE (setE
      (setE s 0x9010 0x02 f.digest) 0x9010 0x01 f.version) 0x9010 0x03 f.securityVersion) 0x9010 0x04 2) i j := fun i j h1 h2 => by
    rw [startFirmware, getE_endDeferred, getE_newKey _ h1 h2]
    rfl
  refine ⟨?_, ?_, ?_, ?_, ?_, ?_, fun h => ?_⟩
  · unfold startFirmware
    dsimp only [endDeferred]
    rw [newKey_only]
  · rw [hent _ _ (by decide) (by decide)]
    simp [getE_setE, ekey]
  · rw [hent _ _ (by decide) (by decide)]
    simp [getE_setE, ekey]
  · rw [hent _ _ (by decide) (by decide)]
    simp [getE_setE, ekey]
  · rw [hent _ _ (by decide) (by decide)]
    simp
  · unfold startFirmware newKey
    dsimp only [endDeferred]
    split <;> rfl
  · unfold startFirmware newKey
    dsimp only [endDeferred]
    rw [if_neg (by simp [h])]
    rfl

/-- Settles O16: the answers of FIRMWARE_LOAD by its rule, and the verdict by its checks in their order. -/
theorem firmware : Obligations.Firmware := by
  refine ⟨?_, fun s f len h0 hd hl => ⟨fun hr hh hk hv hs hi => ?_, fun status code hr hh hk hv hs hbad => ?_⟩⟩
  · intro s u q addr len h hu haddr hlen
    subst haddr hlen
    refine ⟨fun ha hp => exec_firmwareLoad_later h hu ha hp, fun ha => exec_firmwareLoad_refuse h hu ?_,
      fun ha hp => exec_firmwareLoad_refuse h hu ?_⟩
    · rw [actFirmwareLoad, if_pos ha]
    · rw [actFirmwareLoad, if_neg (by simp [ha]), if_pos hp]
  · obtain ⟨hmode, h1, h2, h3, h4, hfw, hgen⟩ := startFirmware_spec (imageRead s) f
    exact ⟨_, (exec_firmwareImageChecked h0 hd hl).2 (firmwareVerdict_none hr hh hk hv hs hi), hmode, h1, h2, h3, h4, hfw, hgen⟩
  · exact ⟨_, rfl, (exec_firmwareImageChecked h0 hd hl).1 (status, code) (firmwareVerdict_some hr hh hk hv hs hbad)⟩

end Sys2Proof.Machine
end

section
/-! PROOFS. Security and power (17 R531 to R544, 18 R556 to R573; O17, O18). -/

-- As in the tests: proofs elaborated side by side exhaust memory in the joined text.
set_option Elab.async false

namespace Sys2Proof.Machine

variable {s : State}

/-! ### What the writes of entries and the end of a deferred write leave alone -/

theorem endDeferred_only (s : State) (idx sub code : Nat) :
    endDeferred s idx sub code = { s with deferred := (endDeferred s idx sub code).deferred } := rfl

theorem setE_only (s : State) (i j v : Nat) : setE s i j v = { s with ent := (setE s i j v).ent } := rfl

theorem countBy_only (s : State) (i j n : Nat) : countBy s i j n = { s with ent := (countBy s i j n).ent } := rfl

theorem count_only (s : State) (i j : Nat) : count s i j = { s with ent := (count s i j).ent } := rfl

/-! ### The dictionary writes of the security chapter -/

section Writes

variable {q : Req}

theorem done_of_act {c : Instr} {idx sub : Nat} {act : State → Act} {t : State} (hc : exec c s = run s (serveWrite idx sub q act))
    (h : accepts idx sub q s = true) (ha : act (takeRequest s q) = .done t) : Done c idx sub q s t :=
  hc.trans (run_serveWrite_done h ha)

theorem later_of_act {c : Instr} {idx sub : Nat} {act : State → Act} {t : State} (hc : exec c s = run s (serveWrite idx sub q act))
    (h : accepts idx sub q s = true) (ha : act (takeRequest s q) = .later t) : Later c idx sub q s t :=
  hc.trans (run_serveWrite_later h ha)

theorem refused_of_act {c : Instr} {idx sub code : Nat} {act : State → Act} {t : State}
    (hc : exec c s = run s (serveWrite idx sub q act)) (h : accepts idx sub q s = true)
    (ha : act (takeRequest s q) = .refuse code t) : exec c s = .next (refuse t q idx sub code) :=
  hc.trans (run_serveWrite_refuse h ha)

theorem fuses_takeRequest (s : State) (q : Req) : (takeRequest s q).fuses = s.fuses := by rw [takeRequest_only]

theorem done_securityVersionCommit (h : accepts 0x9010 0x06 q s = true) : Done (.securityVersionCommit q) 0x9010 0x06 q s
    { takeRequest s q with fuses := { s.fuses with
        fusedSecurityVersion := max s.fuses.fusedSecurityVersion (getE (takeRequest s q) 0x9010 0x03) } } :=
  done_of_act rfl h (by rw [actSecurityCommit, fuses_takeRequest])

theorem sameEntriesBut_ownerKey (u : State) (v : Nat) :
    SameEntriesBut [(0x9040, 1), (0x9040, 2)] u (setE (setE u 0x9040 0x01 v) 0x9040 0x02 0) :=
  sameEntriesBut_of_setE (sameEntriesBut_of_setE (.refl _ _) v (by decide) (by decide) (by simp)) 0 (by decide) (by decide) (by simp)

theorem testUnlock_act (ok : Bool) (u : State) :
    (bits 767 320 q.value ≠ 0 → actTestUnlock ok q u = .refuse 0x0302 u) ∧
    (bits 767 320 q.value = 0 → tokenOk u q.value = false ∨ ok = false →
      actTestUnlock ok q u = .refuse 0x0501 (newChallenge (raise (count u 0xA0E0 0x03) [mkFault 0 0x72 6 4 none 0]))) ∧
    (bits 767 320 q.value = 0 → tokenOk u q.value = true → ok = true → actTestUnlock ok q u = .later (newChallenge (beginUnlock u))) := by
  refine ⟨fun h => if_pos h, fun h ht => ?_, fun h ht hok => ?_⟩
  · rw [actTestUnlock, if_neg (by simp [h]), if_pos ht]
    rfl
  · rw [actTestUnlock, if_neg (by simp [h]), if_neg (by simp [ht, hok])]

end Writes

/-! ### The events of the security chapter -/

theorem exec_quoteComplete (h0 : s.resetLow = false) {v body x : Nat} (hv : s.sec.quoting = some v)
    (hb : body = fromLE (quoteBody s (v % 2 ^ 256) (v / 2 ^ 256))) (hx : x = body + (Config.quoteSignature body).toNat * 2 ^ 5248) :
    exec .quoteComplete s = .next (endDeferred (count (setE { s with sec := { s.sec with quoting := none } } 0x9020 0x03 x)
      0xA0E0 0x02) 0x9020 0x02 0) := by
  have hbits : 8 * 656 = 5248 := rfl
  change execQuoteComplete s = _
  rw [execQuoteComplete, run_up h0, hx, hb, hbits]
  split
  · next hn => simp [hn] at hv
  · next w hw =>
    obtain rfl : w = v := Option.some.inj (hw.symm.trans hv)
    rfl

theorem quoteComplete_spec (h0 : s.resetLow = false) {v body : Nat} (hv : s.sec.quoting = some v)
    (hb : body = fromLE (quoteBody s (v % 2 ^ 256) (v / 2 ^ 256))) : ∃ t, exec .quoteComplete s = .next t ∧
      t.sec = { s.sec with quoting := none } ∧
      getE t 0x9020 0x03 = body + (Config.quoteSignature body).toNat * 2 ^ 5248 ∧
      getE t 0xA0E0 0x02 = (getE s 0xA0E0 0x02 + 1) % 2 ^ 64 ∧ SameEntriesBut [(0x9020, 3), (0xA0E0, 2)] s t ∧
      t = { s with ent := t.ent, sec := t.sec, deferred := t.deferred } := by
  generalize hx : body + (Config.quoteSignature body).toNat * 2 ^ 5248 = x
  refine ⟨_, exec_quoteComplete h0 hv hb hx.symm, rfl, ?_, ?_, ?_, by rw [endDeferred_only, count_only, setE_only]⟩
  · rw [getE_endDeferred, getE_count_ne (by decide), getE_setE_self]
  · rw [getE_endDeferred, getE_count_self, getE_setE_ne (by decide)]
    rfl
  · have hset : SameEntriesBut [(0x9020, 3)] s (setE { s with sec := { s.sec with quoting := none } } 0x9020 0x03 x) :=
      (sameEntriesBut_setE s (by decide) (by decide) x).congr rfl rfl
    refine SameEntriesBut.trans ((hset.mono (by simp)).trans ((sameEntriesBut_count _ (by decide) (by decide)).mono ?_))
      (sameEntriesBut_of_ent _ rfl)
    simp

theorem exec_unlockWipeComplete (h0 : s.resetLow = false) (hu : s.sec.unlocking = true) {u : State} (hw : u = { s with
      sram := [], mem := [], badWords := [], mode := .dormant,
      routers := s.routers.map (fun r => (r.1, { r.2 with shares := [], streaming := [], gathers := [] })),
      sec := { s.sec with unlocking := false, fwLoading := none, quoting := none, keyGen := s.sec.keyGen + 1 } }) :
    exec .unlockWipeComplete s = .next (endDeferred (raise (setE (endDeferred (endDeferred u 0x9010 0x05 0x0502) 0x9020 0x02 0x0101)
      0x9030 0x03 1) [mkFault 1 0x71 6 4 none 0]) 0x9030 0x02 0) := by
  subst hw
  change execUnlockWipeComplete s = _
  rw [execUnlockWipeComplete, run_up h0, if_neg (by simp [hu])]
  rfl

theorem emit_tap (u : State) (i : TapInstr) : emit u (.tap i) = { u with out := u.out ++ [.tap i] } := emit_local rfl

/-- The instruction that the test port comes to hold: BYPASS for any but the four standard ones while it is locked. -/
def tapHeld (s : State) : TapInstr → TapInstr
  | .other c => if getE s 0x9030 0x03 = 1 then .other c else .bypass
  | i => i

theorem exec_testPortInstruction (h0 : s.resetLow = false) {i j : TapInstr} (hj : tapHeld s i = j) :
    exec (.testPortInstruction i) s = .next { s with sec := { s.sec with tap := j }, out := s.out ++ [.tap j] } := by
  subst hj
  have htap := emit_tap { s with sec := { s.sec with tap := tapHeld s i } } (tapHeld s i)
  change execTestPortInstruction i s = _
  rw [execTestPortInstruction, run_up h0]
  cases i <;> exact congrArg Host.Outcome.next htap

/-- Settles O17: each write by its rule, each event by its equation. -/
theorem security : Obligations.Security := by
  refine ⟨fun s u q hu => ?_, fun s h0 => ?_⟩
  · subst hu
    refine ⟨fun h => ⟨_, done_securityVersionCommit h, rfl, rfl⟩,
      fun h => ⟨_, done_of_act rfl h rfl, rfl, ?_, getE_setE_self _ _ _, sameEntriesBut_ownerKey _ _⟩,
      fun h => ⟨_, done_of_act rfl h rfl, rfl, getE_setE_self _ _ _, sameEntriesBut_setE _ (by decide) (by decide) _⟩,
      fun h => refused_of_act rfl h rfl, fun h => later_of_act rfl h rfl, fun h ok hz => ?_, fun h ok hz => ?_⟩
    · rw [getE_setE_ne (by decide), getE_setE_self]
    · obtain ⟨-, hbad, hgood⟩ := testUnlock_act (q := q) ok (takeRequest s q)
      exact ⟨fun ht hok => later_of_act rfl h (hgood hz ht hok), fun ht => refused_of_act rfl h (hbad hz ht)⟩
    · exact refused_of_act rfl h ((testUnlock_act ok (takeRequest s q)).1 hz)
  · refine ⟨fun v body hv hb => quoteComplete_spec h0 hv hb,
      exec_up (f := fun s => raise1 { s with sec := { s.sec with rngBad := true } } 2 0x73 6 4 none 0) rfl h0 rfl,
      fun hu u hw => exec_unlockWipeComplete h0 hu hw, fun i hi => ?_, fun n hn => ?_, fun n hn => ?_⟩
    · refine ⟨_, exec_testPortInstruction h0 rfl, ?_, ?_, ?_⟩ <;> rcases hi with rfl | rfl | rfl | rfl <;> rfl
    · exact ⟨_, exec_testPortInstruction h0 (if_neg hn), rfl, rfl⟩
    · exact ⟨_, exec_testPortInstruction h0 (if_pos hn), rfl, rfl⟩

/-! ### Power states -/

theorem inPowerState_shallow {k : Nat} (hk : k < 3) : inPowerState s k =
    { s with power := { s.power with state := k, entering := none, sramOff := s.power.sramOff || decide (k = 4) } } := by
  rw [inPowerState, if_neg (by omega)]

theorem inPowerState_only (s : State) (k : Nat) :
    inPowerState s k = { s with power := (inPowerState s k).power, ent := (inPowerState s k).ent } := by
  unfold inPowerState
  dsimp only
  split <;> rfl

theorem power_inPowerState (s : State) (k : Nat) : (inPowerState s k).power =
    { s.power with state := k, entering := none, sramOff := s.power.sramOff || decide (k = 4) } := by
  unfold inPowerState
  dsimp only
  split <;> rfl

theorem sameEntriesBut_inPowerState (s : State) (k : Nat) : SameEntriesBut [(0x3010, 1)] s (inPowerState s k) := by
  unfold inPowerState
  dsimp only
  split
  · exact (sameEntriesBut_setE s (by decide) (by decide) _).congr rfl rfl
  · exact sameEntriesBut_of_ent _ rfl

theorem exec_powerStateEntry (h0 : s.resetLow = false) (hr : mayRest s = true) (hw : s.power.waking = false)
    (he : s.power.entering = none) (hq : quiescent s = true) (hf : qualifies s (s.power.state + 1) = true)
    (hk : s.power.state + 1 ≤ 4) (h4 : s.power.state + 1 = 4 → stillAllowed s = true) :
    exec .powerStateEntry s = .next (if s.power.state + 1 = 1 then inPowerState s 1
      else { s with power := { s.power with entering := some (s.power.state + 1) } }) := by
  change execPowerStateEntry s = _
  rw [execPowerStateEntry, run_up h0]
  dsimp only
  rw [if_neg]
  simp only [hr, hw, he, hq, hf, Option.isSome_none]
  rintro (h | h | h | h | h | h | ⟨h, h'⟩)
  · cases h
  · cases h
  · cases h
  · omega
  · cases h
  · cases h
  · simp [h4 h] at h'

theorem exec_powerEntryComplete (h0 : s.resetLow = false) {k : Nat} (he : s.power.entering = some k)
    (hp : s.power.wakePending = false) : exec .powerEntryComplete s = .next (inPowerState s k) := by
  change execPowerEntryComplete s = _
  rw [execPowerEntryComplete, run_up h0, he]
  dsimp only
  rw [power_inPowerState, hp]
  simp

theorem exec_wakeEvent (h0 : s.resetLow = false) (w : WakeCause) : exec (.wakeEvent w) s = .next (wakeNow s) := by
  cases w <;> exact exec_up (f := wakeNow) (by rfl) h0 rfl

theorem wakeNow_starts (he : s.power.entering = none) (hw : s.power.waking = false) (hs : 1 ≤ s.power.state) (ht : s.power.trip < 3) :
    wakeNow s = count { s with power := { s.power with waking := true, wakePending := false } } 0xA0A0 0x06 := by
  rw [wakeNow, if_neg (by simp [he]), if_neg (by omega), startWake, if_neg (by simp [hw])]

theorem wakeNow_remembered (he : s.power.entering.isSome = true) :
    wakeNow s = { s with power := { s.power with wakePending := true } } := if_pos he

theorem exec_wakeEvent_starts (h0 : s.resetLow = false) (w : WakeCause) (he : s.power.entering = none) (hw : s.power.waking = false)
    (hs : 1 ≤ s.power.state) (ht : s.power.trip < 3) : exec (.wakeEvent w) s =
      .next (count { s with power := { s.power with waking := true, wakePending := false } } 0xA0A0 0x06) := by
  rw [exec_wakeEvent h0 w, wakeNow_starts he hw hs ht]

/-- The state that a wake ends in, from the state whose SRAM is supplied again. -/
def wokenUp (s : State) (mask : Nat) : State :=
  { lockPlls s mask with power := { (lockPlls s mask).power with state := 0, waking := false, wakePending := false } }

theorem exec_wakeComplete (h0 : s.resetLow = false) (hw : s.power.waking = true) {u : State}
    (hu : u = if s.power.sramOff then restoreStill s else s) : exec .wakeComplete s = .next (wokenUp u (startedPlls u)) := by
  subst hu
  change execWakeComplete s = _
  rw [execWakeComplete, run_up h0, if_neg (by simp [hw])]
  rfl

theorem sram_restoreStill (hp : s.pools = []) : (restoreStill s).sram = [] := by
  unfold restoreStill
  simp [hp, forEach]

theorem sameEntriesBut_wokenUp (s : State) (mask : Nat) : SameEntriesBut [(0x3010, 1)] s (wokenUp s mask) :=
  (sameEntriesBut_lockPlls s mask).trans (sameEntriesBut_of_ent _ rfl)

theorem getE_wokenUp (s : State) (mask : Nat) : getE (wokenUp s mask) 0x3010 1 = getE s 0x3010 1 ||| mask :=
  (getE_of_ent (s := lockPlls s mask) rfl _ _).trans (by rw [getE_lockPlls, if_pos rfl])

/-! ### Power and thermal limits -/

theorem length_take_cons_pos (x : Nat) (l : List Nat) : 1 ≤ ((x :: l).take 10).length := by
  simp

/-- The state behind a measurement of 10 µs. -/
def measured (s : State) (mw mean : Nat) : State :=
  { setE (countBy s 0xA0A0 0x08 ((s.power.energy + mw) / 100000)) 0x3020 0x01 (mean % 2 ^ 32) with
    power := nextDemand { s.power with samples := (mw :: s.power.samples).take 10, energy := (s.power.energy + mw) % 100000 } mean
      (getE s 0x3020 0x02 * 1000) }

theorem measured_spec (s : State) (mw mean : Nat) : measured s mw mean = { s with
      ent := (measured s mw mean).ent, power := nextDemand { s.power with samples := (mw :: s.power.samples).take 10, energy := (s.power.energy + mw) % 100000 } mean
        (getE s 0x3020 0x02 * 1000) } ∧
    getE (measured s mw mean) 0x3020 0x01 = mean % 2 ^ 32 ∧
    getE (measured s mw mean) 0xA0A0 0x08 = (getE s 0xA0A0 0x08 + (s.power.energy + mw) / 100000) % 2 ^ 64 ∧
    SameEntriesBut [(0x3020, 1), (0xA0A0, 8)] s (measured s mw mean) := by
  have hent : ∀ i j, getE (measured s mw mean) i j =
      getE (setE (countBy s 0xA0A0 0x08 ((s.power.energy + mw) / 100000)) 0x3020 0x01 (mean % 2 ^ 32)) i j :=
    fun i j => getE_of_ent rfl i j
  refine ⟨rfl, ?_, ?_, ?_⟩
  · rw [hent, getE_setE_self]
  · rw [hent, getE_setE_ne (by decide), getE_countBy_self]
  · exact SameEntriesBut.trans (sameEntriesBut_of_setE ((sameEntriesBut_countBy s (by decide) (by decide) _).mono (by simp)) _ (by decide)
      (by decide) (by simp)) (sameEntriesBut_of_ent _ rfl)

theorem exec_powerMeasurement (h0 : s.resetLow = false) {mw mean : Nat} {l : List Nat} (hl : l = (mw :: s.power.samples).take 10)
    (hm : mean = l.sum / l.length) : exec (.powerMeasurement mw) s = .next (if throttleLevel s = 0 ∧ 0 < throttleLevel (measured s mw mean)
      then raise (measured s mw mean) [mkFault 0 0x62 6 2 none mean] else measured s mw mean) := by
  have hlen : max 1 l.length = l.length := Nat.max_eq_right (hl ▸ length_take_cons_pos mw _)
  have hlimit : getE (setE (countBy s 0xA0A0 0x08 ((s.power.energy + mw) / 100000)) 0x3020 0x01 (mean % 2 ^ 32)) 0x3020 0x02 =
      getE s 0x3020 0x02 := by
    rw [getE_setE_ne (by decide), getE_countBy_ne (by decide)]
  change execPowerMeasurement mw s = _
  rw [execPowerMeasurement, run_up h0]
  dsimp only
  rw [← hl, hlen, ← hm, hlimit, hl]
  rfl

/-- The state behind a reading of the sensors. -/
def sensed (s : State) (a b : Int) : State :=
  { setE (setE s 0x3020 0x03 (twos 16 a)) 0x3020 0x04 (twos 16 b) with
    power := nextThermal s.power a b (8 * ((getE s 0x3020 0x05 : Nat) : Int)) }

theorem sensed_spec (s : State) (a b : Int) : sensed s a b = { s with
      ent := (sensed s a b).ent, power := nextThermal s.power a b (8 * ((getE s 0x3020 0x05 : Nat) : Int)) } ∧
    getE (sensed s a b) 0x3020 0x03 = twos 16 a ∧ getE (sensed s a b) 0x3020 0x04 = twos 16 b ∧
    SameEntriesBut [(0x3020, 3), (0x3020, 4)] s (sensed s a b) := by
  have hent : ∀ i j, getE (sensed s a b) i j = getE (setE (setE s 0x3020 0x03 (twos 16 a)) 0x3020 0x04 (twos 16 b)) i j :=
    fun i j => getE_of_ent rfl i j
  refine ⟨rfl, ?_, ?_, ?_⟩
  · rw [hent, getE_setE_ne (by decide), getE_setE_self]
  · rw [hent, getE_setE_self]
  · exact SameEntriesBut.trans (sameEntriesBut_of_setE ((sameEntriesBut_setE s (by decide) (by decide) _).mono (by simp)) _ (by decide)
      (by decide) (by simp)) (sameEntriesBut_of_ent _ rfl)

theorem trip_nextThermal (x : Power) (a b limit : Int) : (nextThermal x a b limit).trip =
    if 3 ≤ x.trip then x.trip else if 880 ≤ a ∨ 880 ≤ b then x.trip + 1 else 0 := by
  rw [nextThermal]
  dsimp only
  split
  · split <;> rfl
  · split
    · split <;> rfl
    · rfl

/-- A first throttling by temperature is reported (17 R544). -/
def throttled (s t : State) (a b : Int) : State :=
  if s.power.thermalDemand = 0 ∧ 0 < t.power.thermalDemand then raise t [aonFault 0 0x63 (tempDetail a b)] else t

/-- The third reading in a row at 110 °C trips the part (17 R544). -/
def overheat (s t : State) (a b : Int) : State := if s.power.trip < 3 ∧ t.power.trip = 3 then thermalTrip t a b else t

theorem exec_temperatureReading (h0 : s.resetLow = false) {a b : Int} (ht : (sensed s a b).power.trip < 3)
    (hd : s.power.thermalDemand = 0 → (sensed s a b).power.thermalDemand = 0) :
    exec (.temperatureReading a b) s = .next (sensed s a b) := by
  have hlimit : getE (setE (setE s 0x3020 0x03 (twos 16 a)) 0x3020 0x04 (twos 16 b)) 0x3020 0x05 = getE s 0x3020 0x05 := by
    rw [getE_setE_ne (by decide), getE_setE_ne (by decide)]
  have hread : exec (.temperatureReading a b) s = .next (overheat s (throttled s (sensed s a b) a b) a b) := by
    change execTemperatureReading a b s = _
    rw [execTemperatureReading, run_up h0]
    dsimp only
    rw [hlimit]
    rfl
  rw [hread, throttled, if_neg (fun h => by have := hd h.1; omega), overheat, if_neg (by omega)]

/-! ### The tier-1 scrub -/

theorem exec_tier1Scrub (h0 : s.resetLow = false) (stack : Nat) (corr unc : List Nat) : exec (.tier1Scrub stack corr unc) s = .next
    (forEach (forEach s (corr.filter (fun a => channelOf a / 16 == stack)) (fun t a => raise t [mkFault 0 0x20 5 (channelOf a) none a]))
      (unc.filter (fun a => channelOf a / 16 == stack)) (fun t a => raise t [mkFault 1 0x21 5 (channelOf a) none a])) := by
  change execTier1Scrub stack corr unc s = _
  rw [execTier1Scrub, run_up h0]
  rfl

theorem filter_otherStack {l : List Nat} {stack : Nat} (h : ∀ a ∈ l, channelOf a / 16 ≠ stack) :
    l.filter (fun a => channelOf a / 16 == stack) = [] := by
  simpa using h

/-- Settles O18: the power states by the guards of their entries, the limits by the state behind each reading. -/
theorem power : Obligations.Power := by
  refine ⟨fun s h0 => ⟨fun k hk hr hw he hq hf => ?_, fun k he hp => ?_, fun w he hw hs ht => ?_, fun w he => ?_, fun hw => ?_,
    fun q h => ?_⟩, fun s h0 => ⟨fun mw l mean hl hm => ?_, fun a b => ?_, fun stack corr unc hne => ?_, fun stack a ha => ?_⟩⟩
  · subst hk
    refine ⟨fun h1 => ⟨_, exec_powerStateEntry h0 hr hw he hq hf (by omega) (by omega), ?_, ?_⟩, fun h2 hle h4 => ?_⟩
    · rw [if_pos h1, inPowerState_shallow (by omega)]
    · rw [if_pos h1, power_inPowerState]
    · rw [exec_powerStateEntry h0 hr hw he hq hf hle h4, if_neg (by omega)]
  · refine ⟨_, exec_powerEntryComplete h0 he hp, ?_, ?_, inPowerState_only s k, sameEntriesBut_inPowerState s k, fun hk => ?_⟩
    · rw [power_inPowerState]
    · rw [power_inPowerState]
    · rw [inPowerState_shallow hk]
      rfl
  · refine ⟨_, exec_wakeEvent_starts h0 w he hw hs ht, rfl, rfl,
      (sameEntriesBut_count s (by decide) (by decide)).congr rfl rfl, ?_⟩
    rw [getE_count_self]
    rfl
  · rw [exec_wakeEvent h0 w, wakeNow_remembered he]
  · refine ⟨_, exec_wakeComplete h0 hw rfl, rfl, rfl, fun hoff => ?_, fun hoff hp => sramByte_of_empty ?_⟩
    · rw [if_neg (by simp [hoff])]
      exact ⟨rfl, sameEntriesBut_wokenUp _ _, getE_wokenUp _ _⟩
    · rw [if_pos hoff]
      exact sram_restoreStill hp
  · have hkey : getE (takeRequest s q) 0x3000 0x02 = getE s 0x3000 0x02 := getE_takeRequest (by decide)
    exact done_of_act rfl h (by rw [actWakeTolerance, hkey])
  · obtain ⟨honly, h1, h8, hent⟩ := measured_spec s mw mean
    subst hl
    exact ⟨measured s mw mean, honly, h1, h8, hent, exec_powerMeasurement h0 rfl hm⟩
  · obtain ⟨honly, h3, h4, hent⟩ := sensed_spec s a b
    refine ⟨sensed s a b, honly, h3, h4, hent, fun ht hd => exec_temperatureReading h0 ht hd, fun ht hhot => ?_, fun ha hb ht => ?_⟩
    · rw [honly]
      dsimp only
      rw [trip_nextThermal, if_neg (by omega), if_pos hhot]
    · rw [honly]
      dsimp only
      rw [trip_nextThermal, if_neg (by omega), if_neg (by omega)]
  · rw [exec_tier1Scrub h0, filter_otherStack (fun a ha => hne a (List.mem_append_left _ ha)),
      filter_otherStack (fun a ha => hne a (List.mem_append_right _ ha))]
    rfl
  · constructor
    · rw [exec_tier1Scrub h0]
      simp [ha, forEach]
    · rw [exec_tier1Scrub h0]
      simp [ha, forEach]

end Sys2Proof.Machine
end

section
/-! PROOFS. Fault reports, acknowledgements and fault summaries (16 R502, R506, R511, R513 to R515). -/

-- As in the tests: proofs elaborated side by side exhaust memory in the joined text.
set_option Elab.async false

namespace Sys2Proof.Machine

variable {s t : State} {q : Req} {f : Fault16}

/-- A command outside reset has the effect of its function. -/
theorem exec_next {c : Instr} {f : State → State} (he : exec c s = run s f) (h0 : s.resetLow = false) :
    exec c s = .next (f s) :=
  exec_up he h0 rfl

theorem forEach_singleton {α : Type} (s : State) (a : α) (g : State → α → State) : forEach s [a] g = g s a := rfl

/-! ### Reports -/

theorem failProcessor_of_cause (h : f.cause ≠ 0x49) : failProcessor s f = s := if_neg fun hc => h hc.1

theorem stopParity_of_cause (h : f.cause ≠ 0x0E) : stopParity s f = s := if_neg fun hc => h hc.1

theorem loseAccumulator_of_cause (h : f.cause ≠ 0x15) : loseAccumulator s f = s := if_neg fun hc => h hc.1

theorem exec_faultReport (h0 : s.resetLow = false) :
    exec (.faultReport [f]) s = .next (raise (loseAccumulator (stopParity (failProcessor s f) f) f) [f]) := by
  rw [exec_next (c := .faultReport [f]) (f := fun s =>
    raise (forEach (forEach (forEach s [f] failProcessor) [f] stopParity) [f] loseAccumulator) [f]) rfl h0]
  simp only [forEach_singleton]

theorem exec_reportWireStuck (s : State) (kind unit level : Nat) :
    exec (.reportWireStuck kind unit level) s = execReportWireStuck kind unit level s := rfl

/-- A wire whose pair the plumb ignores changes nothing. -/
theorem exec_reportWireStuck_dead {kind unit : Nat} (level : Nat) (h : t.deadPairs.contains (kind, unit) = true) :
    exec (.reportWireStuck kind unit level) t = .next t := by
  cases h0 : t.resetLow with
  | true => exact congrArg Host.Outcome.next (if_pos h0)
  | false =>
    rw [exec_reportWireStuck, execReportWireStuck, run_up h0]
    exact congrArg Host.Outcome.next (if_pos h)

theorem exec_reportWireStuck_live {kind unit level : Nat} (h0 : s.resetLow = false)
    (h : s.deadPairs.contains (kind, unit) = false) :
    exec (.reportWireStuck kind unit level) s =
      .next { raise1 s 1 0x4D kind unit none (level % 2) with
        deadPairs := (raise1 s 1 0x4D kind unit none (level % 2)).deadPairs ++ [(kind, unit)] } := by
  rw [exec_reportWireStuck, execReportWireStuck, run_up h0]
  exact congrArg Host.Outcome.next (if_neg (Bool.eq_false_iff.mp h))

/-! ### Acknowledgement (16 R511) -/

theorem recC_ackRecords (s : State) (v : Nat) : (ackRecords s v).recC = if bit 0 v then FaultRec.empty else s.recC := by
  unfold ackRecords
  split_ifs <;> rfl

theorem recU_ackRecords (s : State) (v : Nat) : (ackRecords s v).recU = if bit 1 v then FaultRec.empty else s.recU := by
  unfold ackRecords
  split_ifs <;> rfl

theorem recF_ackRecords (s : State) (v : Nat) : (ackRecords s v).recF = if bit 2 v then FaultRec.empty else s.recF := by
  unfold ackRecords
  split_ifs <;> rfl

/-- An acknowledgement writes the three records and the hold of class C. -/
theorem ackRecords_only (s : State) (v : Nat) :
    ackRecords s v = { s with
      recC := (ackRecords s v).recC, recU := (ackRecords s v).recU, recF := (ackRecords s v).recF,
      cAckDue := (ackRecords s v).cAckDue } := by
  unfold ackRecords
  split_ifs <;> rfl

theorem exec_faultAck (h : accepts 0x8020 0x01 q s = true) :
    Done (.faultAck q) 0x8020 0x01 q s (ackRecords (takeRequest s q) q.value) :=
  done_of_act rfl h rfl

/-! ### Summaries of the pond (16 R513 to R515) -/

theorem pondFaultOf_setPondFault (s : State) (p v : Nat) : pondFaultOf (setPondFault s p v) p = v :=
  tget_tput_self _ _ _ _

theorem pondFaultOf_setPondFault_ne {i p : Nat} (h : i ≠ p) (s : State) (v : Nat) :
    pondFaultOf (setPondFault s p v) i = pondFaultOf s i :=
  tget_tput_ne _ _ _ h _

theorem bit_setBit (n i : Nat) : bit i (setBit n i) = true := by
  simp [bit, setBit, Nat.testBit_or]

theorem exec_faultSummary {p v : Nat} (h0 : s.resetLow = false) (hp : p < 64) (hf : firmwareUp s = true)
    (hk : isKeystone s = true) : exec (.faultSummary p v) s = .next (setPondFault s p (v % 16)) :=
  Eq.trans (exec_next rfl h0) (congrArg Host.Outcome.next (if_pos ⟨hf, hk, hp⟩))

theorem exec_summaryStale {p : Nat} (h0 : s.resetLow = false) (hp : p < 64) (hf : firmwareUp s = true)
    (hk : isKeystone s = true) : exec (.summaryStale p) s = .next (setPondFault s p (setBit (pondFaultOf s p) 7)) :=
  Eq.trans (exec_next rfl h0) (congrArg Host.Outcome.next (if_pos ⟨hf, hk, hp⟩))

theorem exec_faultSummarySend (h0 : s.resetLow = false) (hf : firmwareUp s = true) :
    exec .faultSummarySend s = .next (sendSummary s) :=
  Eq.trans (exec_next rfl h0) (congrArg Host.Outcome.next (if_pos hf))

theorem sendSummary_of_keystone (h : isKeystone s = true) :
    sendSummary s = setPondFault { s with lastSummary := summaryByte s } (gridPos s) (summaryByte s) :=
  if_pos h

theorem sendSummary_of_worker (h : isKeystone s = false) (hid : getE s 0x2010 0x01 ≠ 0xFF)
    (hs : s.keystoneSilent = false) :
    sendSummary s = inject (emit { s with lastSummary := summaryByte s } (.summary (summaryByte s))) 0
      (mkPacket s (64 * pondOf s + getE s 0x2010 0x01) 7 5 0 0 (toLE 1 (summaryByte s))) := by
  have h1 : ¬isKeystone { s with lastSummary := summaryByte s } = true := Bool.eq_false_iff.mp h
  have h2 : ¬(getE { s with lastSummary := summaryByte s } 0x2010 0x01 = 0xFF ∨ s.keystoneSilent = true) := by
    rintro (hc | hc)
    · exact hid hc
    · simp [hs] at hc
  exact (if_neg h1).trans (if_neg h2)

/-- Settles O20: the equation of each command, and what the records and the summaries hold after it. -/
theorem faultCommands : Obligations.FaultCommands := by
  unfold Obligations.FaultCommands
  intro s h0
  refine ⟨fun f => ⟨exec_faultReport h0, fun h1 h2 h3 => ?_⟩, fun kind unit level hdead => ?_, fun q ha => ?_,
    fun hdue hf hpol => ?_, fun hf v hv => ?_, fun p v hp hf hk => ?_, fun p hp hf hk => ?_⟩
  · rw [exec_faultReport h0, failProcessor_of_cause h1, stopParity_of_cause h2, loseAccumulator_of_cause h3]
  · exact ⟨_, exec_reportWireStuck_live h0 hdead, ⟨_, rfl, rfl⟩, exec_reportWireStuck_dead level (by simp)⟩
  · refine ⟨_, exec_faultAck ha, ?_, ?_, ?_, ?_, ackRecords_only _ _⟩
    · rw [recC_ackRecords, takeRequest_only]
    · rw [recU_ackRecords, takeRequest_only]
    · rw [recF_ackRecords, takeRequest_only]
    · rw [ackRecords_only]
      exact mode_takeRequest
  · exact Eq.trans (exec_next rfl h0) (congrArg Host.Outcome.next (if_pos ⟨hdue, hf, hpol⟩))
  · obtain rfl : v = summaryByte s := hv
    rw [exec_faultSummarySend h0 hf]
    exact ⟨fun hk => congrArg _ (sendSummary_of_keystone hk), fun hk hid hs => congrArg _ (sendSummary_of_worker hk hid hs)⟩
  · exact ⟨_, exec_faultSummary h0 hp hf hk, pondFaultOf_setPondFault s p _,
      fun i hi => pondFaultOf_setPondFault_ne hi s _, rfl⟩
  · refine ⟨_, exec_summaryStale h0 hp hf hk, ?_, fun i hi => pondFaultOf_setPondFault_ne hi s _, rfl⟩
    rw [pondFaultOf_setPondFault]
    exact bit_setBit _ _

end Sys2Proof.Machine
end

section
/-! PROOFS. The interrupt controller: sampling, selection, delivery and end of interrupts (16 R517 to R526). -/

-- As in the tests: proofs elaborated side by side exhaust memory in the joined text.
set_option Elab.async false

namespace Sys2Proof.Machine

variable {s t u : State} {q : Req} {n k : Nat}

/-! ### What the levels rest on (16 R518) -/

/-- The entries that the levels are read from. -/
def levelEntries : List (Nat × Nat) := [(0x2010, 0x01), (0x1020, 0x01), (0x2056, 0x07), (0xB010, 0x01), (0xB000, 0x02)]

theorem isKeystone_congr (h1 : getE t 0x2010 0x01 = getE s 0x2010 0x01) (h2 : getE t 0x1020 0x01 = getE s 0x1020 0x01) :
    isKeystone t = isKeystone s := by
  unfold isKeystone gridPos pkgId
  rw [h1, h2]

/-- The levels do not rest on the mailbox slots, on what waits for a server, or on the controller's own state. -/
theorem levelOn_congr
    (h : t = { s with
      ent := t.ent, mslots := t.mslots, dictQ := t.dictQ, served := t.served, delivering := t.delivering,
      irqStacks := t.irqStacks })
    (he : ∀ p ∈ levelEntries, getE t p.1 p.2 = getE s p.1 p.2) (n : Nat) : levelOn t n = levelOn s n := by
  have hk : isKeystone t = isKeystone s := isKeystone_congr (he (0x2010, 0x01) (by decide)) (he (0x1020, 0x01) (by decide))
  have hm : getE t 0x2056 0x07 = getE s 0x2056 0x07 := he (0x2056, 0x07) (by decide)
  have hl : linkUp t = linkUp s := congrArg (fun v => decide (2 ≤ v)) (he (0xB010, 0x01) (by decide))
  have hv : timeValid t = timeValid s := congrArg (bit 0) (he (0xB000, 0x02) (by decide))
  unfold levelOn
  rw [hk, hm, hl, hv, h]
  rfl

/-! ### PENDING (16 R520) -/

theorem pending_ekey_ne {a b : Nat} (ha : a < 65536) (hb : b < 256) (h : a ≠ 0xC000) (hn : n < 512) :
    ekey 0 a b ≠ ekey 0 0xC000 (0x11 + n / 32) :=
  ekey_ne ha hb (by decide) (by omega) fun e => h (Prod.mk.inj e).1

theorem getE_setPending {a b : Nat} (ha : a < 65536) (hb : b < 256) (h : a ≠ 0xC000) (hn : n < 512) (v : Bool) :
    getE (setPending s n v) a b = getE s a b :=
  getE_setE_ne (pending_ekey_ne ha hb h hn) _

theorem pendingOf_setPending (hn : n < 512) (hk : k < 512) (v : Bool) :
    pendingOf (setPending s n v) k = if k = n then v else pendingOf s k := by
  unfold pendingOf setPending
  by_cases hw : k / 32 = n / 32
  · rw [hw, getE_setE, if_pos rfl]
    have hbit : k % 32 = n % 32 ↔ k = n := by omega
    cases v with
    | false => simp [bit, testBit_clrBit, ← hbit, Bool.and_comm]
    | true => simp [bit, setBit, Nat.testBit_or, Nat.testBit_two_pow, ← hbit, eq_comm, Bool.or_comm]
  · have hne : k ≠ n := fun e => hw (by rw [e])
    rw [if_neg hne, getE_setE_ne]
    exact ekey_ne (by decide) (by omega) (by decide) (by omega) fun e => hw (by injection e with _ e; omega)

/-- What sampling up to a source keeps, and the words of PENDING that it leaves. -/
def SampledTo (s t : State) (m : Nat) : Prop :=
  t = { s with ent := t.ent } ∧ (∀ a b, a < 65536 → b < 256 → a ≠ 0xC000 → getE t a b = getE s a b) ∧
    ∀ n, n < 512 → pendingOf t n = (pendingOf s n || (decide (n < m) && levelOn s n && !inService s n))

/-- One more source is sampled. -/
theorem SampledTo.step {m : Nat} (h : SampledTo s t m) (hm : m < 512) :
    SampledTo s (if levelOn s m && !inService s m && !pendingOf s m then setPending t m true else t) (m + 1) := by
  obtain ⟨hf, he, hp⟩ := h
  split
  · next hc =>
    refine ⟨?_, fun a b ha hb h => (getE_setPending ha hb h hm true).trans (he a b ha hb h), fun n hn => ?_⟩
    · unfold setPending
      rw [setE_only, hf]
    · rw [pendingOf_setPending hm hn, hp n hn]
      rcases Nat.lt_trichotomy n m with hlt | rfl | hgt
      · simp [hlt.ne, hlt, Nat.lt_succ_of_lt hlt]
      · simp only [Bool.and_eq_true] at hc
        simp [hc.1.1, hc.1.2]
      · simp [hgt.ne', Nat.not_lt.2 hgt.le, Nat.not_lt.2 (Nat.succ_le_of_lt hgt)]
  · next hc =>
    refine ⟨hf, he, fun n hn => ?_⟩
    rw [hp n hn]
    rcases Nat.lt_trichotomy n m with hlt | rfl | hgt
    · simp [hlt, Nat.lt_succ_of_lt hlt]
    · simp only [lt_irrefl, decide_false, Bool.false_and, Bool.or_false, Nat.lt_succ_self, decide_true, Bool.true_and]
      grind
    · simp [Nat.not_lt.2 hgt.le, Nat.not_lt.2 (Nat.succ_le_of_lt hgt)]

theorem sampledTo_forEach (s : State) {m : Nat} (hm : m ≤ 512) :
    SampledTo s (forEach s (List.range m)
      (fun t n => if levelOn s n && !inService s n && !pendingOf s n then setPending t n true else t)) m := by
  induction m with
  | zero => exact ⟨rfl, fun _ _ _ _ _ => rfl, fun n _ => by simp [forEach]⟩
  | succ m ih =>
    rw [List.range_succ]
    unfold forEach at *
    rw [List.foldl_append]
    exact (ih (by omega)).step (by omega)

theorem sampledTo_samplePending (s : State) : SampledTo s (samplePending s) 512 := sampledTo_forEach s le_rfl

theorem samplePending_only (s : State) : samplePending s = { s with ent := (samplePending s).ent } :=
  (sampledTo_samplePending s).1

theorem getE_samplePending {a b : Nat} (ha : a < 65536) (hb : b < 256) (h : a ≠ 0xC000) :
    getE (samplePending s) a b = getE s a b :=
  (sampledTo_samplePending s).2.1 a b ha hb h

theorem pendingOf_samplePending (hn : n < 512) :
    pendingOf (samplePending s) n = (pendingOf s n || (levelOn s n && !inService s n)) := by
  rw [(sampledTo_samplePending s).2.2 n hn]
  simp [hn]

/-! ### The selection (16 R520, R521) -/

theorem minBy_spec {α : Type} (key : α → Nat) {l : List α} {a : α} (h : minBy key l = some a) :
    a ∈ l ∧ ∀ b ∈ l, key a ≤ key b := by
  induction l generalizing a with
  | nil => cases h
  | cons x xs ih =>
    unfold minBy at h
    split at h
    · next hn =>
      obtain rfl : x = a := by injection h
      have hxs : xs = [] := by
        cases xs with
        | nil => rfl
        | cons y ys =>
          unfold minBy at hn
          split at hn
          · cases hn
          · split at hn <;> cases hn
      simp [hxs]
    · next b hb =>
      obtain ⟨hmem, hmin⟩ := ih hb
      split at h
      · next hlt =>
        obtain rfl : b = a := by injection h
        exact ⟨List.mem_cons_of_mem _ hmem, by simpa using ⟨hlt.le, hmin⟩⟩
      · next hge =>
        obtain rfl : x = a := by injection h
        exact ⟨List.mem_cons_self, by simpa using fun y hy => (Nat.not_lt.1 hge).trans (hmin y hy)⟩

theorem priorityOf_lt (s : State) (n : Nat) : priorityOf s n < 16 := Nat.mod_lt _ (by decide)

/-- The source that the controller considers (16 R521). -/
theorem bestSource_spec {target : Nat} (h : bestSource u target = some n) :
    n < 512 ∧ pendingOf u n = true ∧ maskOf u n = false ∧ inService u n = false ∧ goesTo u n = target ∧
      ∀ k, k < 512 → pendingOf u k = true → maskOf u k = false → inService u k = false → goesTo u k = target →
        priorityOf u k < priorityOf u n ∨ (priorityOf u k = priorityOf u n ∧ n ≤ k) := by
  obtain ⟨hmem, hmin⟩ := minBy_spec _ h
  simp only [List.mem_filter, List.mem_range, Bool.and_eq_true, Bool.not_eq_true', beq_iff_eq] at hmem hmin
  obtain ⟨hn, ⟨⟨hp, hm⟩, hs⟩, hg⟩ := hmem
  refine ⟨hn, hp, hm, hs, hg, fun k hk hp' hm' hs' hg' => ?_⟩
  have hle := hmin k ⟨hk, ⟨⟨hp', hm'⟩, hs'⟩, hg'⟩
  have h1 := priorityOf_lt u n
  have h2 := priorityOf_lt u k
  omega

/-- The state after the controller has selected a source for a target. -/
def selected (s : State) (target n : Nat) : State :=
  { setPending s n false with
    served := (setPending s n false).served ++ [(n, target)]
    delivering := (setPending s n false).delivering ++ [(n, target)]
    irqStacks := tput [] (setPending s n false).irqStacks target
      ((priorityOf (setPending s n false) n, n) :: stackOf (setPending s n false) target) }

theorem pendingOf_selected (s : State) (target n k : Nat) :
    pendingOf (selected s target n) k = pendingOf (setPending s n false) k :=
  congrArg (bit (k % 32)) (getE_of_ent rfl _ _)

theorem exec_interruptSelect_selects {target : Nat} (h0 : s.resetLow = false) (ht : target < 3)
    (hb : bestSource (samplePending s) target = some n) (ha : aboveRunning (samplePending s) target n = true) :
    exec (.interruptSelect target) s = .next (selected (samplePending s) target n) := by
  have he : exec (.interruptSelect target) s = execInterruptSelect target s := rfl
  rw [he, execInterruptSelect, run_up h0]
  dsimp only
  rw [hb]
  exact congrArg Host.Outcome.next (if_neg (by simp [ha]; omega))

theorem delivering_selected (s : State) (target n : Nat) :
    (selected s target n).delivering = s.delivering ++ [(n, target)] := rfl

theorem delivering_samplePending (s : State) : (samplePending s).delivering = s.delivering := by
  rw [samplePending_only]

theorem stackOf_samplePending (s : State) (k : Nat) : stackOf (samplePending s) k = stackOf s k := by
  unfold stackOf
  rw [samplePending_only]

theorem stackOf_selected_self (s : State) (target : Nat) (hn : n < 512) :
    stackOf (selected s target n) target = (priorityOf s n, n) :: stackOf s target := by
  have hp : priorityOf (setPending s n false) n = priorityOf s n :=
    congrArg (· % 16) (getE_setPending (by omega) (by decide) (by omega) hn false)
  rw [← hp]
  unfold stackOf selected
  dsimp only
  rw [tget_tput_self]
  rfl

theorem stackOf_selected_ne {target : Nat} (s : State) (n : Nat) (h : k ≠ target) :
    stackOf (selected s target n) k = stackOf s k := by
  unfold stackOf selected
  dsimp only
  rw [tget_tput_ne _ _ _ h]
  rfl

theorem inService_selected (s : State) (target n : Nat) : inService (selected s target n) n = true := by
  simp [selected, inService]

theorem priorityOf_samplePending (s : State) (hn : n < 512) : priorityOf (samplePending s) n = priorityOf s n :=
  congrArg (· % 16) (getE_samplePending (by omega) (by decide) (by omega))

/-- A selection writes PENDING and what the controller has in service and on its way. -/
theorem selected_only (s : State) (target n : Nat) :
    selected s target n = { s with
      ent := (selected s target n).ent, served := (selected s target n).served,
      delivering := (selected s target n).delivering, irqStacks := (selected s target n).irqStacks } := rfl

/-! ### The end of an interrupt (16 R523) -/

theorem setPending_only (s : State) (n : Nat) (v : Bool) : setPending s n v = { s with ent := (setPending s n v).ent } :=
  setE_only s _ _ _

theorem isTop_cons {p : Nat} {rest : List (Nat × Nat)} {target : Nat} (h : stackOf s target = (p, n) :: rest) :
    isTop s target n = true := by
  simp [isTop, h]

theorem endInterrupt_quiet {target : Nat} (h : levelOn s n = false) :
    endInterrupt s target n = { s with
      irqStacks := tput [] s.irqStacks target (stackOf s target).tail
      served := s.served.filter (fun p => p.1 != n) } := by
  have hl : levelOn { s with
      irqStacks := tput [] s.irqStacks target (stackOf s target).tail
      served := s.served.filter (fun p => p.1 != n) } n = levelOn s n :=
    levelOn_congr rfl (fun _ _ => rfl) n
  refine if_neg ?_
  rw [hl, h]
  decide

theorem any_filter_fst_ne (l : List (Nat × Nat)) (h : k ≠ n) :
    (l.filter (fun p => p.1 != n)).any (fun p => p.1 == k) = l.any (fun p => p.1 == k) := by
  rw [List.any_filter]
  congr 1
  funext p
  by_cases hp : p.1 = k <;> simp [hp, h]

theorem exec_mgmtEoi_top {target : Nat} (h0 : s.resetLow = false) (ht : target < 2) (h : isTop s target n = true) :
    exec (.mgmtEoi target n) s = .next (endInterrupt s target n) := by
  have he : exec (.mgmtEoi target n) s = execMgmtEoi target n s := rfl
  rw [he, execMgmtEoi, run_up h0]
  exact congrArg Host.Outcome.next (if_pos ⟨ht, h⟩)

theorem exec_mgmtEoi_other {target : Nat} (h0 : s.resetLow = false) (ht : target < 2) (h : isTop s target n = false) :
    exec (.mgmtEoi target n) s = .next (raise (count s 0xA0C0 0x06) [mkFault 0 0x4E 6 target none 0]) := by
  have he : exec (.mgmtEoi target n) s = execMgmtEoi target n s := rfl
  rw [he, execMgmtEoi, run_up h0]
  rw [if_neg (by simp [h]), Nat.mod_eq_of_lt ht]
  rfl

theorem isTop_takeRequest (s : State) (q : Req) (target v : Nat) : isTop (takeRequest s q) target v = isTop s target v := by
  rw [takeRequest_only]
  rfl

theorem exec_hostEoi_top (ha : accepts 0xC012 0x04 q s = true) (h : isTop s 2 q.value = true) :
    Done (.hostEoi q) 0xC012 0x04 q s (endInterrupt (takeRequest s q) 2 q.value) :=
  done_of_act rfl ha (if_pos ((isTop_takeRequest s q _ _).trans h))

theorem exec_hostEoi_other (ha : accepts 0xC012 0x04 q s = true) (h : isTop s 2 q.value = false) :
    exec (.hostEoi q) s = .next (refuse (count (takeRequest s q) 0xA0C0 0x06) q 0xC012 0x04 0x0302) :=
  refused_of_act rfl ha (if_neg (by rw [isTop_takeRequest, h]; decide))

/-! ### Delivery (16 R522) -/

theorem maskOf_delivered (l : List (Nat × Nat)) (n : Nat) :
    maskOf (count { s with delivering := l } 0xA0C0 0x05) n = maskOf s n := by
  unfold maskOf
  refine congrArg (bit (n % 32)) ?_
  exact getE_count_ne (s := { s with delivering := l }) (fun e => by simp [ekey] at e; omega)

/-- An interrupt that is on its way and not masked is counted and leaves. -/
theorem exec_interruptDelivery (h0 : s.resetLow = false) {target : Nat}
    (hd : s.delivering.find? (fun d => d.1 == n) = some (n, target)) (hm : maskOf s n = false) :
    exec (.interruptDelivery n) s = .next (if target = 2
      then emit (count { s with delivering := s.delivering.erase (n, target) } 0xA0C0 0x05)
        (.hostMessage n (((stackOf s target).find? (fun x => x.2 == n)).map (·.1) |>.getD 0))
      else emit (count { s with delivering := s.delivering.erase (n, target) } 0xA0C0 0x05) (.mgmtInterrupt target n)) := by
  have he : exec (.interruptDelivery n) s = execInterruptDelivery n s := rfl
  rw [he, execInterruptDelivery, run_up h0]
  dsimp only
  rw [hd]
  dsimp only
  rw [maskOf_delivered, hm]
  rfl

/-! ### SERVE and a write of PENDING (16 R519, R525) -/

theorem isEvent_iff : isEvent n = true ↔ n = 4 ∨ n = 9 ∨ n = 10 ∨ n = 12 := by
  simp [isEvent, or_assoc]

theorem exec_serve_event (ha : accepts (0xC100 + n) 0x02 q s = true) (h : isEvent n = true) :
    Done (.serve n q) (0xC100 + n) 0x02 q s
      { takeRequest s q with holds := (takeRequest s q).holds.filter (fun h => h != n) } :=
  done_of_act rfl ha (if_pos h)

theorem exec_serve_level (ha : accepts (0xC100 + n) 0x02 q s = true) (h : ¬isEvent n = true) :
    exec (.serve n q) s = .next (refuse (takeRequest s q) q (0xC100 + n) 0x02 0x0302) :=
  refused_of_act rfl ha (if_neg h)

theorem holds_takeRequest (s : State) (q : Req) : (takeRequest s q).holds = s.holds := by
  rw [takeRequest_only]

theorem exec_pendingWrite {w : Nat} (ha : accepts 0xC000 (0x11 + w) q s = true) :
    Done (.pendingWrite w q) 0xC000 (0x11 + w) q s (samplePending (setE (takeRequest s q) 0xC000 (0x11 + w) q.value)) :=
  done_of_act rfl ha rfl

/-- A request that is taken moves no level. -/
theorem levelOn_pendingWrite (s : State) (q : Req) (w n : Nat) :
    levelOn (setE (takeRequest s q) 0xC000 (0x11 + w) q.value) n = levelOn s n := by
  refine levelOn_congr ?_ (fun p hp => ?_) n
  · rw [setE_only, takeRequest_only]
  · simp only [levelEntries, List.mem_cons, List.not_mem_nil, or_false] at hp
    rcases hp with rfl | rfl | rfl | rfl | rfl <;>
      rw [getE_setE_ne (by simp [ekey]; omega), getE_takeRequest (by decide)]

theorem inService_pendingWrite (s : State) (q : Req) (i j v n : Nat) :
    inService (setE (takeRequest s q) i j v) n = inService s n := by
  rw [setE_only, takeRequest_only]
  rfl

/-- Settles O21: sampling is followed source by source (`SampledTo`), the selection is the least of its keys (`minBy_spec`),
and each of the other commands has its equation. -/
theorem interrupts : Obligations.Interrupts := by
  unfold Obligations.Interrupts
  refine ⟨fun s n hn => ⟨pendingOf_samplePending hn, samplePending_only s⟩, fun s u target n h0 hu ht hb ha => ?_,
    fun s h0 => ⟨fun n t hd ht hm => ?_, fun n p hd hm hp => ?_, fun t n p rest ht hst hl => ?_, fun t n ht htop => ?_,
      fun q ha => ⟨exec_hostEoi_top ha, exec_hostEoi_other ha⟩, fun n q ha => ⟨fun hn => ?_, fun hn => ?_⟩,
      fun w q hw ha => ⟨_, exec_pendingWrite ha, fun i hi => ?_⟩⟩⟩
  · have hspec := bestSource_spec hb
    rw [hu] at hb ha
    have hn : n < 512 := hspec.1
    refine ⟨hspec, _, exec_interruptSelect_selects h0 ht hb ha, ?_, inService_selected _ _ _, ?_, ?_, fun k hk => ?_, ?_⟩
    · rw [pendingOf_selected, pendingOf_setPending hn hn, if_pos rfl]
    · rw [delivering_selected, delivering_samplePending]
    · rw [stackOf_selected_self _ _ hn, priorityOf_samplePending s hn, stackOf_samplePending]
    · rw [stackOf_selected_ne _ _ hk, stackOf_samplePending]
    · rw [selected_only, samplePending_only]
  · rw [exec_interruptDelivery h0 hd hm, if_neg (by omega)]
  · rw [exec_interruptDelivery h0 hd hm, if_pos rfl, hp]
    rfl
  · refine ⟨_, (exec_mgmtEoi_top h0 ht (isTop_cons hst)).trans (congrArg Host.Outcome.next (endInterrupt_quiet hl)),
      ?_, ?_, fun k hk => any_filter_fst_ne _ hk, rfl⟩
    · refine (tget_tput_self _ _ _ _).trans ?_
      rw [hst]
      rfl
    · simp [inService]
  · exact exec_mgmtEoi_other h0 ht htop
  · refine ⟨_, exec_serve_event ha (isEvent_iff.2 hn), ?_, fun k hk => ?_, rfl⟩
    · simp
    · simp [hk, holds_takeRequest]
  · exact exec_serve_level ha (mt isEvent_iff.1 hn)
  · have hlt : 32 * w + i < 512 := by omega
    rw [pendingOf_samplePending hlt, levelOn_pendingWrite, inService_pendingWrite, pendingOf]
    have hw' : (32 * w + i) / 32 = w := by omega
    have hi' : (32 * w + i) % 32 = i := by omega
    rw [hw', hi', getE_setE, if_pos rfl]

end Sys2Proof.Machine
end

section
/-! PROOFS. Time: beacons, TIME_VALID, holdover and the tick of the always-on clock (15 R494 to R498). -/

-- As in the tests: proofs elaborated side by side exhaust memory in the joined text.
set_option Elab.async false

namespace Sys2Proof.Machine

variable {s t u : State}

/-! ### TIME_VALID (15 R496) -/

theorem setTimeValid_of_invalid (h : timeValid s = false) (v : Bool) :
    setTimeValid s v = setE s 0xB000 0x02 (getE s 0xB000 0x02 / 2 * 2 + b2n v) :=
  if_neg (by simp [h])

theorem timeValid_setTimeValid (h : timeValid s = false) (v : Bool) : timeValid (setTimeValid s v) = v := by
  rw [setTimeValid_of_invalid h, timeValid, getE_setE_self]
  cases v <;> simp [bit, b2n, Nat.testBit_zero]

theorem exec_holdoverExpiry (h0 : s.resetLow = false) : exec .holdoverExpiry s = .next (setTimeValid s false) :=
  exec_next (f := fun s => setTimeValid s false) rfl h0

theorem exec_badMessage {n : Nat} (h0 : s.resetLow = false) (h1 : n ≠ 1) (h2 : n ≠ 2) :
    exec (.badMessage n) s = .next (count (hostTaken s true) 0xA0B0 0x08) := by
  have he : exec (.badMessage n) s = execBadMessage n s := rfl
  rw [he, execBadMessage, run_up h0, if_neg (by omega)]

/-! ### A beacon (15 R495, R496) -/

/-- The offset of a beacon. -/
def beaconOffset (s : State) (b a : Nat) : Int := (b : Int) + ((getE s 0xB010 0x02 / 2 : Nat) : Int) - (a : Int)

/-- The beacon is counted and its offset stored. -/
def beaconSeen (s : State) (off : Int) : State :=
  let t := setE (count (hostTaken s true) 0xA0B0 0x07) 0xB000 0x03 (twos 32 off)
  setE t 0xB000 0x02 (setBit (getE t 0xB000 0x02) 1)

/-- TIMEBASE steps by the offset of a beacon. -/
def beaconSteps (s : State) (off : Int) : State :=
  count { s with clock := { s.clock with ns := ((s.clock.ns : Int) + off).toNat % 2 ^ 64, slew := 0, slewLeft := 0 } } 0xA0B0 0x09

/-- The offset of a beacon is to be removed within the next millisecond. -/
def beaconSlews (s : State) (off : Int) : State := { s with clock := { s.clock with slew := slewOf off, slewLeft := 25000 } }

/-- The estimated frequency error after a beacon. -/
def beaconFreq (s : State) (offs : List Int) : State :=
  { s with clock := { s.clock with freq := Config.frequencyError offs, offsets := offs, lastBeacon := some s.clock.ns } }

/-- The state after a beacon, before TIME_VALID takes its value. -/
def beaconTaken (s : State) (off : Int) : State :=
  let t := beaconSeen s off
  beaconFreq (if stepsTime t off then beaconSteps t off else beaconSlews t off) ((off :: t.clock.offsets).take 16)

theorem beaconSeen_only (s : State) (off : Int) :
    beaconSeen s off = { s with
      ent := (beaconSeen s off).ent, umora := { s.umora with gotP := (s.umora.gotP + 1) % 4096 } } := by
  unfold beaconSeen
  dsimp only
  rw [setE_only, setE_only, count_only]
  rfl

theorem clock_beaconSeen (s : State) (off : Int) : (beaconSeen s off).clock = s.clock := by
  rw [beaconSeen_only]

theorem stepsTime_beaconSeen (s : State) (off : Int) : stepsTime (beaconSeen s off) off = stepsTime s off := by
  rw [beaconSeen_only]
  rfl

theorem exec_timeBeacon (h0 : s.resetLow = false) (b a : Nat) :
    exec (.timeBeacon b a) s = .next (setTimeValid (beaconTaken s (beaconOffset s b a))
      (decide ((beaconOffset s b a).natAbs ≤ 500))) := by
  have he : exec (.timeBeacon b a) s = execTimeBeacon b a s := rfl
  rw [he, execTimeBeacon, run_up h0]
  unfold beaconTaken beaconFreq
  rfl

theorem getE_beaconSeen (s : State) (off : Int) :
    getE (beaconSeen s off) 0xB000 0x03 = twos 32 off ∧
      getE (beaconSeen s off) 0xA0B0 0x07 = (getE s 0xA0B0 0x07 + 1) % 2 ^ 64 ∧
      getE (beaconSeen s off) 0xA0B0 0x09 = getE s 0xA0B0 0x09 := by
  have hu : ∀ i j, getE (hostTaken s true) i j = getE s i j := fun i j => getE_of_ent rfl i j
  simp only [beaconSeen, count, countBy, getE_setE, hu]
  exact ⟨rfl, rfl, rfl⟩

/-- A beacon that steps TIMEBASE (15 R496). -/
theorem beaconTaken_of_steps {off : Int} (h : stepsTime s off = true) :
    beaconTaken s off = beaconFreq (beaconSteps (beaconSeen s off) off) ((off :: s.clock.offsets).take 16) := by
  rw [beaconTaken, stepsTime_beaconSeen, if_pos h, clock_beaconSeen]

/-- A beacon whose offset is removed bit by bit (15 R495). -/
theorem beaconTaken_of_slews {off : Int} (h : stepsTime s off = false) :
    beaconTaken s off = beaconFreq (beaconSlews (beaconSeen s off) off) ((off :: s.clock.offsets).take 16) := by
  rw [beaconTaken, stepsTime_beaconSeen, if_neg (by simp [h]), clock_beaconSeen]

theorem getE_beaconFreq (s : State) (offs : List Int) (i j : Nat) : getE (beaconFreq s offs) i j = getE s i j :=
  getE_of_ent rfl i j

theorem getE_beaconSlews (s : State) (off : Int) (i j : Nat) : getE (beaconSlews s off) i j = getE s i j :=
  getE_of_ent rfl i j

theorem getE_beaconSteps (s : State) (off : Int) (i j : Nat) :
    getE (beaconSteps s off) i j = if ekey 0 i j = ekey 0 0xA0B0 0x09 then (getE s 0xA0B0 0x09 + 1) % 2 ^ 64 else getE s i j :=
  getE_setE _ _ _ _ i j

theorem umora_beaconFreq_steps (s : State) (off : Int) (l : List Int) :
    (beaconFreq (beaconSteps s off) l).umora = s.umora := rfl

theorem umora_beaconFreq_slews (s : State) (off : Int) (l : List Int) :
    (beaconFreq (beaconSlews s off) l).umora = s.umora := rfl

theorem beaconFreq_steps_only (s : State) (off : Int) (l : List Int) : beaconFreq (beaconSteps s off) l =
    { s with clock := (beaconFreq (beaconSteps s off) l).clock, ent := (beaconFreq (beaconSteps s off) l).ent } := rfl

theorem beaconFreq_slews_only (s : State) (off : Int) (l : List Int) : beaconFreq (beaconSlews s off) l =
    { s with clock := (beaconFreq (beaconSlews s off) l).clock, ent := (beaconFreq (beaconSlews s off) l).ent } := rfl

theorem umora_beaconSeen (s : State) (off : Int) :
    (beaconSeen s off).umora = { s.umora with gotP := (s.umora.gotP + 1) % 4096 } := by
  rw [beaconSeen_only]

/-- A beacon moves the clock, entries, and the credits of Umora Link. -/
theorem beaconTaken_only (s : State) (off : Int) :
    beaconTaken s off = { s with
      clock := (beaconTaken s off).clock, ent := (beaconTaken s off).ent, umora := (beaconTaken s off).umora } := by
  cases h : stepsTime s off with
  | true => rw [beaconTaken_of_steps h, beaconFreq_steps_only, beaconSeen_only]
  | false => rw [beaconTaken_of_slews h, beaconFreq_slews_only, beaconSeen_only]

theorem umora_beaconTaken (s : State) (off : Int) :
    (beaconTaken s off).umora = { s.umora with gotP := (s.umora.gotP + 1) % 4096 } := by
  cases h : stepsTime s off with
  | true => rw [beaconTaken_of_steps h, umora_beaconFreq_steps, umora_beaconSeen]
  | false => rw [beaconTaken_of_slews h, umora_beaconFreq_slews, umora_beaconSeen]

theorem getE_beaconTaken (s : State) (off : Int) :
    getE (beaconTaken s off) 0xB000 0x03 = twos 32 off ∧
      getE (beaconTaken s off) 0xA0B0 0x07 = (getE s 0xA0B0 0x07 + 1) % 2 ^ 64 := by
  obtain ⟨h3, h7, -⟩ := getE_beaconSeen s off
  cases h : stepsTime s off with
  | true =>
    rw [beaconTaken_of_steps h, getE_beaconFreq, getE_beaconFreq, getE_beaconSteps, getE_beaconSteps,
      if_neg (by decide), if_neg (by decide)]
    exact ⟨h3, h7⟩
  | false =>
    rw [beaconTaken_of_slews h, getE_beaconFreq, getE_beaconFreq, getE_beaconSlews, getE_beaconSlews]
    exact ⟨h3, h7⟩

/-! ### The tick (15 R494) -/

theorem tickCorr_bounds (k : Clock) : -85899345 ≤ tickCorr k ∧ tickCorr k ≤ 85899345 := by
  unfold tickCorr boundCorr
  omega

/-- Time after a tick, in units of 2^-32 ns, is what it was, 40 ns and the correction. -/
theorem tick_time {ns frac : Nat} {c : Int} (hc : -85899345 ≤ c ∧ c ≤ 85899345) (hns : ns < 2 ^ 63) (hf : frac < 2 ^ 32) :
    (((ns + (((frac : Int) + 40 * 2 ^ 32 + c) / 2 ^ 32).toNat) % 2 ^ 64 : Nat) : Int) * 2 ^ 32 +
      ((((frac : Int) + 40 * 2 ^ 32 + c) % 2 ^ 32).toNat : Int) = (ns : Int) * 2 ^ 32 + frac + 40 * 2 ^ 32 + c := by
  omega

/-- Settles O23: the state after a beacon (`beaconTaken`), and the arithmetic of a tick (`tick_time`). -/
theorem time : Obligations.Time := by
  unfold Obligations.Time
  intro s h0
  refine ⟨fun b a off hoff => ⟨beaconTaken s off, ?_, (getE_beaconTaken s off).1, (getE_beaconTaken s off).2,
    beaconTaken_only s off, umora_beaconTaken s off, fun h => ?_, fun h => ?_⟩, exec_holdoverExpiry h0,
    fun n => exec_badMessage h0, fun h v => ⟨_, rfl, timeValid_setTimeValid h v, ?_⟩, tickCorr_bounds _, fun hns hf => ?_⟩
  · obtain rfl : off = beaconOffset s b a := hoff
    exact exec_timeBeacon h0 b a
  · rw [beaconTaken_of_steps h]
    refine ⟨rfl, ?_⟩
    rw [getE_beaconFreq, getE_beaconSteps, if_pos rfl, (getE_beaconSeen s off).2.2]
  · rw [beaconTaken_of_slews h]
    exact ⟨rfl, rfl, rfl⟩
  · rw [setTimeValid_of_invalid h, setE_only]
  · exact tick_time (tickCorr_bounds s.clock) hns hf

end Sys2Proof.Machine
end

section
/-! PROOFS. The dictionary server: writes, the order of the checks, and reads (14 R454 to R458, R471, R474 to R478). -/

-- As in the tests: proofs elaborated side by side exhaust memory in the joined text.
set_option Elab.async false

namespace Sys2Proof.Machine

variable {s t u : State} {q : Req} {idx sub c : Nat} {e : Entry}

/-! ### A write of an entry without a rule of its own (14 R454) -/

theorem mergeRo_zero (old new : Nat) : mergeRo 0 old new = new := by simp [mergeRo]

theorem actStore_of_entry (hf : findEntry idx sub = some e) :
    actStore idx sub q u = .done (setC u (viewCtx u idx sub q) idx sub
      (mergeRo e.roBits (getC u (viewCtx u idx sub q) idx sub) q.value)) := by
  simp [actStore, hf]

theorem exec_dictWrite (idx sub : Nat) (q : Req) (s : State) :
    exec (.dictWrite idx sub q) s = run s (serveWrite idx sub q (actionOf idx sub q)) := rfl

/-- Settles O24: an accepted write has the outcome of its rule (`run_serveWrite_done` and its companions). -/
theorem dictionaryWrites : Obligations.DictionaryWrites := by
  unfold Obligations.DictionaryWrites
  refine ⟨fun s u idx sub c q e ha hact hf hu hc => ?_, fun s idx sub q ha =>
    ⟨fun t => done_of_act rfl ha, fun t => later_of_act rfl ha, fun t c => refused_of_act rfl ha⟩⟩
  refine ⟨setC u c idx sub (mergeRo e.roBits (getC u c idx sub) q.value), done_of_act rfl ha ?_, getC_setC_self _ _ _ _,
    fun h0 => ?_, fun k i j h => getC_setC_ne h _, rfl⟩
  · rw [hact, ← hu, hc]
    exact actStore_of_entry hf
  · rw [getC_setC_self, h0, mergeRo_zero]

/-! ### The checks in their order (14 R471) -/

/-- The request comes to the checks of 14 R471: no replay, no full queue, no Dormant stands before them. -/
structure Reaches (idx sub : Nat) (q : Req) (s : State) : Prop where
  server : noServer s q = false
  here : forwards s q = false
  fresh : remembered s q = none
  idle : serverBusy (takeRequest s q) q = false
  served : s.mode = .dormant → dormantServes idx sub q.path = true

theorem Reaches.front {opcode : Nat} {step3 : Option Nat} {body : State → State} (h : Reaches idx sub q s) :
    serveFront opcode idx sub q step3 body s =
      (match headCheck (takeRequest s q) q with
      | some c => refuse (takeRequest s q) q idx sub c
      | none => match step3 with
        | some c => refuse (takeRequest s q) q idx sub c
        | none => if forwards (takeRequest s q) q then sendRelay (takeRequest s q) opcode idx sub q
          else body (takeRequest s q)) := by
  obtain ⟨h1, h2, h3, h4, h5⟩ := h
  have h6 : ¬((takeRequest s q).mode = .dormant ∧ dormantServes idx sub q.path = false) := by
    rintro ⟨hm, hd⟩
    rw [mode_takeRequest] at hm
    simp [h5 hm] at hd
  unfold serveFront
  simp only [h1, h2, h3, h4, if_neg h6, Bool.false_eq_true, if_false] <;> rfl

theorem Reaches.head {opcode : Nat} {step3 : Option Nat} {body : State → State} (h : Reaches idx sub q s)
    (hc : headCheck (takeRequest s q) q = some c) :
    serveFront opcode idx sub q step3 body s = refuse (takeRequest s q) q idx sub c := by
  rw [h.front, hc]

theorem Reaches.step3 {opcode : Nat} {body : State → State} (h : Reaches idx sub q s)
    (hn : headCheck (takeRequest s q) q = none) :
    serveFront opcode idx sub q (some c) body s = refuse (takeRequest s q) q idx sub c := by
  rw [h.front, hn]

theorem Reaches.body {opcode : Nat} {body : State → State} (h : Reaches idx sub q s)
    (hn : headCheck (takeRequest s q) q = none) (hf : forwards (takeRequest s q) q = false) :
    serveFront opcode idx sub q none body s = body (takeRequest s q) := by
  rw [h.front, hn]
  simp [hf]

/-- A WRITE of an assigned entry comes to step 4. -/
theorem Reaches.write {act : State → Act} (h : Reaches idx sub q s) (hn : headCheck (takeRequest s q) q = none)
    (he : findEntry idx sub = some e) (hf : forwards (takeRequest s q) q = false) :
    serveWrite idx sub q act s = writeBody e idx sub q act (takeRequest s q) := by
  have hc : entryCheck idx sub = none := by simp [entryCheck, he]
  rw [serveWrite, hc, h.body hn hf]
  simp [he]

theorem headCheck_of_header (h : q.version ≠ 1 ∨ q.resv ≠ 0 ∨ (q.position ≠ 0 ∧ q.relay = false)) :
    headCheck u q = some 0x0302 := if_pos h

theorem entryCheck_of_none (h : findEntry idx sub = none) :
    entryCheck idx sub = some (if indexAssigned idx then 0x0204 else 0x0203) := by
  simp [entryCheck, h]

theorem writeBody_of_path {act : State → Act} (hw : wrongKeystone u q = false) (h : writePathCheck u e idx sub q = some c) :
    writeBody e idx sub q act u = refuse u q idx sub c := by
  simp [writeBody, h, noteAuthority, hw]

theorem writeBody_of_check {act : State → Act} (h4 : writePathCheck u e idx sub q = none) (h : writeCheck u e q = some c) :
    writeBody e idx sub q act u = refuse u q idx sub c := by
  simp [writeBody, h4, h]

theorem writeCheck_of_ro (h : e.acc = .ro) : writeCheck u e q = some 0x0201 := if_pos h

theorem writeCheck_of_type (h5 : e.acc ≠ .ro) (h : q.typ ≠ e.typ) : writeCheck u e q = some 0x0301 := by
  rw [writeCheck, if_neg h5, if_pos h]

theorem writeCheck_of_length (h5 : e.acc ≠ .ro) (h6 : q.typ = e.typ) (h : q.length ≠ e.size ∨ q.frameLen < q.length) :
    writeCheck u e q = some 0x0303 := by
  rw [writeCheck, if_neg h5, if_neg (not_not.2 h6), if_pos h]

/-- A WRITE that passes steps 5 to 7 comes to the state and the value. -/
theorem writeCheck_of_form (h5 : e.acc ≠ .ro) (h6 : q.typ = e.typ) (h7 : q.length = e.size) (h7' : q.length ≤ q.frameLen) :
    writeCheck u e q = (match stateCheck u e.states with
      | some c => some c
      | none => if valueOk e q.value then none else some 0x0302) := by
  rw [writeCheck, if_neg h5, if_neg (not_not.2 h6), if_neg (by omega)] <;> rfl

theorem stateCheck_of_not_draining (h : u.mode ≠ .draining) (states : Nat) :
    stateCheck u states = if bit u.mode.code states then none else some 0x0101 := if_neg h

/-- Settles O25: the front of the server (`Reaches`) and the steps of a WRITE, each with the code of its failure. -/
theorem writeChecksInOrder : Obligations.WriteChecksInOrder := by
  unfold Obligations.WriteChecksInOrder
  intro s u idx sub c q h0 h1 h2 h3 hu h4 h5
  rw [hu] at h4
  have hr : Reaches idx sub q s := ⟨h1, h2, h3, h4, h5⟩
  have hmode : u.mode = s.mode := hu ▸ mode_takeRequest
  have hexec : exec (.dictWrite idx sub q) s = .next (serveWrite idx sub q (actionOf idx sub q) s) := by
    rw [exec_dictWrite, run_up h0]
  rw [hexec]
  refine ⟨fun h => ?_, fun hn he => ?_, fun e hn he hf hw => ?_⟩
  · rw [hu]
    exact congrArg _ (hr.head (headCheck_of_header h))
  · rw [hu] at hn ⊢
    rw [serveWrite, entryCheck_of_none he]
    exact congrArg _ (hr.step3 hn)
  · rw [hu] at hn hf
    rw [hr.write hn he hf, ← hu]
    refine ⟨fun h => congrArg _ (writeBody_of_path hw h), fun h4 => ?_⟩
    have code {c : Nat} (h : writeCheck u e q = some c) :
        (.next (writeBody e idx sub q (actionOf idx sub q) u) : Res) = .next (refuse u q idx sub c) :=
      congrArg _ (writeBody_of_check h4 h)
    refine ⟨fun h => code (writeCheck_of_ro h), fun h5 h => code (writeCheck_of_type h5 h),
      fun h5 h6 h => code (writeCheck_of_length h5 h6 h), fun h5 h6 h7 h7' hd h => code ?_, fun h5 h6 h7 h7' hd hs h => code ?_⟩
    · rw [writeCheck_of_form h5 h6 h7 h7', stateCheck_of_not_draining (hmode ▸ hd), hmode, h]
      rfl
    · rw [writeCheck_of_form h5 h6 h7 h7', stateCheck_of_not_draining (hmode ▸ hd), hmode, hs]
      simp [h]

/-! ### Reads (14 R454, R474, R475) -/

theorem reaches_of_served1 (h : served1 idx sub q s = true) :
    s.resetLow = false ∧ ∀ opcode body, serveFront opcode idx sub q none body s = body (takeRequest s q) :=
  ⟨(serveFront_of_served (opcode := 0) (body := id) h).1, fun _ _ => (serveFront_of_served h).2⟩

theorem giveData_of_path (h : q.path ≠ 2) (s : State) (idx sub len v : Nat) :
    giveData s q idx sub len v = respond s q idx sub 0 len v := if_neg h

theorem readPathCheck_of_path (hw : wrongKeystone u q = false) (hp : q.path ≠ 2) : readPathCheck u e q = none :=
  if_neg (by simp [hw, hp])

theorem exec_dictDescribe_of (h : served1 idx sub q s = true) (hw : wrongKeystone (takeRequest s q) q = false) (ht : q.typ = 0)
    (hl : q.length = 0) (hp : q.path ≠ 2) (he : findEntry idx sub = some e) : exec (.dictDescribe idx sub q) s =
      .next (respond (takeRequest s q) q idx sub 0 16 (describeOf (takeRequest s q) e idx sub)) := by
  have hx : exec (.dictDescribe idx sub q) s = run s (serveDescribe idx sub q) := rfl
  have hc : entryCheck idx sub = none := by simp [entryCheck, he]
  obtain ⟨h0, hfront⟩ := reaches_of_served1 h
  rw [hx, run_up h0, serveDescribe, hc, hfront, he]
  simp only [readPathCheck_of_path hw hp, ht, hl, giveData_of_path hp, ne_eq, not_true_eq_false, false_and, if_false]

theorem exec_dictNext_of (h : served1 idx sub q s = true) (hw : wrongKeystone (takeRequest s q) q = false) (ht : q.typ = 0)
    (hl : q.length = 0) (hp : q.path ≠ 2) : exec (.dictNext idx sub q) s =
      .next (respond (takeRequest s q) q idx sub 0 4 ((nextEntry idx sub).getD 0xFFFFFFFF)) := by
  have hx : exec (.dictNext idx sub q) s = run s (serveNext idx sub q) := rfl
  obtain ⟨h0, hfront⟩ := reaches_of_served1 h
  rw [hx, run_up h0, serveNext, hfront]
  simp only [hp, hw, ht, hl, giveData_of_path hp, ne_eq, not_true_eq_false, false_and, if_false, or_self, Bool.false_eq_true]

/-! ### The reads with an effect (14 R478, 10 R337, 15 R492) -/

/-- LAST_REFUSAL is an entry of 8 bytes of its own slot. -/
theorem findEntry_lastRefusal : (findEntry 0xA0F0 0x04).map (fun e => (e.size, e.view)) = some (8, false) := by decide +kernel

/-- The result mailboxes are entries of 8 bytes. -/
theorem findEntry_mailbox : ∀ m, m < 128 → (findEntry 0xB044 (m + 1)).map (·.size) = some 8 := by decide +kernel

theorem entryValue_lastRefusal (q : Req) (u : State) : entryValue 0xA0F0 0x04 q u = getE u 0xA0F0 0x04 := by
  have hv : viewCtx u 0xA0F0 0x04 q = 0 := by
    unfold viewCtx
    cases he : findEntry 0xA0F0 0x04 with
    | none => rfl
    | some e =>
      have hview := findEntry_lastRefusal
      rw [he] at hview
      simp at hview
      simp [hview.2]
  simp [entryValue, fixedDefault, viewLow, viewHigh, inRange, hv, getE]

theorem entryValue_mailbox (m : Nat) (q : Req) (u : State) :
    entryValue 0xB044 (m + 1) q u = mailboxWord (mailboxOf u (mbKey (viewCtx u 0xB044 (m + 1) q) m)) := by
  simp [entryValue, fixedDefault, viewLow, viewHigh, inRange]

theorem viewCtx_takeRequest (s : State) (q : Req) (m : Nat) :
    viewCtx (takeRequest s q) 0xB044 (m + 1) q = viewCtx s 0xB044 (m + 1) q := by
  simp [viewCtx, getE_takeRequest (s := s) (q := q) (i := 0xB002) (j := 0x00) (by decide)]

theorem exec_lastRefusalRead (h : acceptsRead 0xA0F0 0x04 q s = true) (hp : q.path ≠ 2) : exec (.lastRefusalRead q) s =
    .next (respond { takeRequest s q with dictRefusal := false } q 0xA0F0 0x04 0 8 (getE (takeRequest s q) 0xA0F0 0x04)) := by
  obtain ⟨e, he, hsize⟩ := Option.map_eq_some_iff.1 findEntry_lastRefusal
  have hx : exec (.lastRefusalRead q) s =
    run s (serveRead 0xA0F0 0x04 q (entryValue 0xA0F0 0x04 q) (afterRead 0xA0F0 0x04 q)) := rfl
  have hs : e.size = 8 := (Prod.mk.inj hsize).1
  have ha : afterRead 0xA0F0 0x04 q (takeRequest s q) = { takeRequest s q with dictRefusal := false } := if_pos ⟨rfl, rfl⟩
  rw [hx, run_serveRead h he, giveData_of_path hp, entryValue_lastRefusal, hs, ha]

theorem exec_depthMaxRead {p vc : Nat} (hp : p < 32) (hv : vc < 16) (h : acceptsRead (0xA100 + p) (0x41 + vc) q s = true)
    (he : findEntry (0xA100 + p) (0x41 + vc) = some e) (hq : q.path ≠ 2) : exec (.depthMaxRead p vc q) s =
      .next (respond (setE (takeRequest s q) (0xA100 + p) (0x41 + vc) 0) q (0xA100 + p) (0x41 + vc) 0 e.size
        (entryValue (0xA100 + p) (0x41 + vc) q (takeRequest s q))) := by
  have hx : exec (.depthMaxRead p vc q) s = run s (serveRead (0xA100 + p) (0x41 + vc) q
    (entryValue (0xA100 + p) (0x41 + vc) q) (afterRead (0xA100 + p) (0x41 + vc) q)) := rfl
  have ha : afterRead (0xA100 + p) (0x41 + vc) q (takeRequest s q) = setE (takeRequest s q) (0xA100 + p) (0x41 + vc) 0 := by
    rw [afterRead, if_neg (by omega), if_pos]
    simp [inRange]
    omega
  rw [hx, run_serveRead h he, giveData_of_path hq, ha]

theorem exec_resultMailboxRead {m : Nat} (hm : m < 128) (h : acceptsRead 0xB044 (m + 1) q s = true) (hq : q.path ≠ 2) :
    exec (.resultMailboxRead m q) s =
      .next (respond (markRead (viewCtx (takeRequest s q) 0xB044 (m + 1) q) m (takeRequest s q)) q 0xB044 (m + 1) 0 8
        (mailboxWord (mailboxOf (takeRequest s q) (mbKey (viewCtx (takeRequest s q) 0xB044 (m + 1) q) m)))) := by
  obtain ⟨e, he, hsize⟩ := Option.map_eq_some_iff.1 (findEntry_mailbox m hm)
  have hx : exec (.resultMailboxRead m q) s = execResultMailboxRead m q s := rfl
  have h0 : s.resetLow = false := by
    simp only [acceptsRead, served1, Bool.and_eq_true, Bool.not_eq_true'] at h
    exact h.1.1.1.1.1.1.1.1
  have hread := run_serveRead (value := entryValue 0xB044 (m + 1) q) (after := markRead (viewCtx s 0xB044 (m + 1) q) m) h he
  rw [run_up h0] at hread
  rw [hx, execResultMailboxRead, run_up h0]
  rw [hread, giveData_of_path hq, entryValue_mailbox, hsize, viewCtx_takeRequest]

/-- Settles O27: DESCRIBE and NEXT behind the front of the server, and the reads with an effect by `run_serveRead`. -/
theorem dictionaryReads : Obligations.DictionaryReads := by
  unfold Obligations.DictionaryReads
  refine ⟨fun s u idx sub q e h hu hw ht hl hp => ?_, fun s u q hu => ⟨fun h hp => ?_, fun p vc e hp hv h he hq => ?_,
    fun m c hm h hc hq => ?_⟩⟩
  · rw [hu] at hw ⊢
    exact ⟨exec_dictDescribe_of h hw ht hl hp, exec_dictNext_of h hw ht hl hp⟩
  · rw [hu]
    exact exec_lastRefusalRead h hp
  · rw [hu]
    exact exec_depthMaxRead hp hv h he hq
  · rw [hc, hu]
    exact exec_resultMailboxRead hm h hq

/-! ### Responses on the frame paths and the replay memory (14 R461) -/

/-- A message of the management plane is a packet of class 0, which waits for no epoch (10 R331). -/
theorem carryMgmt_eq (s : State) (w pos : Nat) : carryMgmt s w pos =
    { count s 0x2052 ((mkPacket s (64 * pondOf s + pos) 0 5 0 0 []).epoch + 1) with
      injQ := s.injQ ++ [(w, mkPacket s (64 * pondOf s + pos) 0 5 0 0 [])] } := by
  unfold carryMgmt inject
  rw [if_neg (by simp [mkPacket]), if_neg (by simp [mkPacket])]

theorem carryMgmt_only (s : State) (w pos : Nat) : carryMgmt s w pos =
    { s with ent := (carryMgmt s w pos).ent, injQ := (carryMgmt s w pos).injQ } := by
  rw [carryMgmt_eq]
  rfl

theorem getE_carryMgmt (s : State) (w pos : Nat) {i j : Nat} (hi : i < 65536) (hj : j < 256) (h : i ≠ 0x2052) :
    getE (carryMgmt s w pos) i j = getE s i j :=
  getE_inject_mkPacket s s w _ 0 5 0 0 [] hi hj h

theorem sameEntriesBut_carryMgmt (s : State) (w pos : Nat) :
    SameEntriesBut [(0x2052, 1), (0x2052, 2), (0x2052, 3), (0x2052, 4)] s (carryMgmt s w pos) := by
  rw [carryMgmt_eq]
  have h4 : (mkPacket s (64 * pondOf s + pos) 0 5 0 0 []).epoch < 4 := Nat.mod_lt _ (by decide)
  refine ((sameEntriesBut_countBy s (by decide) (by omega) 1).mono ?_).congr rfl rfl
  generalize (mkPacket s (64 * pondOf s + pos) 0 5 0 0 []).epoch = n at h4
  interval_cases n <;> simp

theorem emit_response {path : Nat} (h : path ≠ 2) (s : State) (src seq code n v : Nat) (r : Bool) :
    emit s (.response path src seq code n v r) = { s with out := s.out ++ [.response path src seq code n v r] } :=
  emit_local (if_neg h)

/-- The response of a frame path, before it leaves: it is remembered. -/
def rememberResponse (s : State) (q : Req) (code len v : Nat) : State :=
  { s with replay := remember s.replay q.path (replaySource q) (q.seq, code, len, v) }

/-- A response leaves for its source. -/
def sendResponse (s : State) (q : Req) (o : Out) : State := if q.path = 3 then sendMgmt s q.fromPos o else emit s o

theorem respond_of_frame (h : q.path = 0 ∨ q.path = 3) (s : State) (idx sub code len v : Nat) :
    respond s q idx sub code len v =
      sendResponse (rememberResponse s q code len v) q (.response q.path q.src q.seq code len v false) := by
  unfold respond
  rw [if_neg (by omega), if_neg (by omega), if_neg (by omega)]
  rfl

theorem respond_of_mapped (h : q.path = 2) (s : State) (idx sub code len v : Nat) :
    respond s q idx sub code len v = hostTaken s true := by
  unfold respond
  rw [if_neg (by omega), if_pos h]

/-- A response that leaves is shown, and one to the keystone is carried by a packet of class 0. -/
theorem sendResponse_eq (h : q.path ≠ 2) (s : State) (code len v : Nat) (r : Bool) :
    sendResponse s q (.response q.path q.src q.seq code len v r) =
      (if q.path = 3
        then carryMgmt { s with out := s.out ++ [.response q.path q.src q.seq code len v r] } 0 q.fromPos
        else { s with out := s.out ++ [.response q.path q.src q.seq code len v r] }) := by
  rw [sendResponse, sendMgmt, emit_response h]

theorem sendResponse_only (h : q.path ≠ 2) (s : State) (code len v : Nat) (r : Bool) :
    sendResponse s q (.response q.path q.src q.seq code len v r) =
      { s with
        out := s.out ++ [.response q.path q.src q.seq code len v r],
        ent := (sendResponse s q (.response q.path q.src q.seq code len v r)).ent,
        injQ := (sendResponse s q (.response q.path q.src q.seq code len v r)).injQ } := by
  rw [sendResponse_eq h]
  split
  · rw [carryMgmt_only]
  · rfl

theorem replay_sendResponse (h : q.path ≠ 2) (s : State) (code len v : Nat) (r : Bool) :
    (sendResponse s q (.response q.path q.src q.seq code len v r)).replay = s.replay := by
  rw [sendResponse_only h]

theorem out_sendResponse (h : q.path ≠ 2) (s : State) (code len v : Nat) (r : Bool) :
    (sendResponse s q (.response q.path q.src q.seq code len v r)).out =
      s.out ++ [.response q.path q.src q.seq code len v r] := by
  rw [sendResponse_only h]

/-- The response just remembered is found by its SEQ. -/
theorem remembered_of_replay (h : q.path = 0 ∨ q.path = 3) {code len v : Nat}
    (ht : t.replay = remember s.replay q.path (replaySource q) (q.seq, code, len, v)) :
    remembered t q = some (q.seq, code, len, v) := by
  simp [remembered, h, ht, remember]

theorem mem_remember {l : List ReplaySrc} {path src : Nat} {r : Nat × Nat × Nat × Nat} {x : ReplaySrc}
    (h : x ∈ remember l path src r) : x.resps.length ≤ 8 ∨ x ∈ l := by
  rcases List.mem_cons.1 (List.mem_of_mem_take h) with rfl | hx
  · left
    simp
  · exact .inr (List.mem_filter.1 hx).1

theorem length_remember (l : List ReplaySrc) (path src : Nat) (r : Nat × Nat × Nat × Nat) :
    (remember l path src r).length ≤ 16 := List.length_take_le _ _

/-! ### Replays (14 R461) -/

theorem seq_of_remembered {r : Nat × Nat × Nat × Nat} (h : remembered s q = some r) : r.1 = q.seq := by
  unfold remembered at h
  split at h
  · obtain ⟨l, -, hl⟩ := Option.bind_eq_some_iff.1 h
    have hb := List.find?_some hl
    exact beq_iff_eq.1 hb
  · cases h

theorem serveFront_of_remembered {opcode seq code len v : Nat} {step3 : Option Nat} {body : State → State}
    (h1 : noServer s q = false) (h2 : forwards s q = false) (h3 : remembered s q = some (seq, code, len, v)) :
    serveFront opcode idx sub q step3 body s =
      sendResponse (count s 0xA0F0 0x06) q (.response q.path q.src q.seq code len v true) := by
  obtain rfl : seq = q.seq := seq_of_remembered h3
  unfold serveFront
  simp only [h1, h2, h3, Bool.false_eq_true, if_false]
  rfl

theorem path_of_remembered {r : Nat × Nat × Nat × Nat} (h : remembered s q = some r) : q.path ≠ 2 := by
  unfold remembered at h
  split at h
  · omega
  · cases h

/-! ### The accounting of a refusal (14 R473, R478) -/

/-- The counters and LAST_REFUSAL after a refusal. -/
def refusalCounted (s : State) (code idx sub path : Nat) : State :=
  setE (count (count s 0xA0F1 (codeSub code)) 0xA0F0 0x02) 0xA0F0 0x04 (lastRefusal code idx sub path)

theorem noteRefusal_eq (s : State) (code idx sub path : Nat) : noteRefusal s code idx sub path =
    if path = 2 then { refusalCounted s code idx sub path with dictRefusal := true }
    else refusalCounted s code idx sub path := rfl

theorem refusalCounted_only (s : State) (code idx sub path : Nat) :
    refusalCounted s code idx sub path = { s with ent := (refusalCounted s code idx sub path).ent } := by
  unfold refusalCounted
  rw [setE_only, count_only, count_only]

theorem noteRefusal_only (s : State) (code idx sub path : Nat) : noteRefusal s code idx sub path =
    { s with ent := (noteRefusal s code idx sub path).ent, dictRefusal := s.dictRefusal || decide (path = 2) } := by
  rw [noteRefusal_eq]
  split
  · next h =>
    rw [refusalCounted_only, h]
    simp
  · next h =>
    rw [refusalCounted_only]
    simp [h]

theorem ent_noteRefusal (s : State) (code idx sub path : Nat) :
    (noteRefusal s code idx sub path).ent = (refusalCounted s code idx sub path).ent := by
  rw [noteRefusal_eq]
  split <;> rfl

/-- The entries after the accounting of a refusal. -/
theorem getE_noteRefusal (s : State) (code idx sub path i j : Nat) :
    getE (noteRefusal s code idx sub path) i j =
      if ekey 0 i j = ekey 0 0xA0F0 0x04 then lastRefusal code idx sub path
      else if ekey 0 i j = ekey 0 0xA0F0 0x02 then (getE (count s 0xA0F1 (codeSub code)) 0xA0F0 0x02 + 1) % 2 ^ 64
      else if ekey 0 i j = ekey 0 0xA0F1 (codeSub code) then (getE s 0xA0F1 (codeSub code) + 1) % 2 ^ 64
      else getE s i j := by
  rw [getE_of_ent (ent_noteRefusal s code idx sub path), refusalCounted, getE_setE]
  congr 1
  rw [count, countBy, getE_setE]
  congr 1
  rw [count, countBy, getE_setE]

theorem codeSub_lt (code : Nat) : codeSub code < 256 := by
  unfold codeSub
  omega

theorem sameEntriesBut_noteRefusal (s : State) (code idx sub path : Nat) :
    SameEntriesBut [(0xA0F0, 2), (0xA0F0, 4), (0xA0F1, codeSub code)] s (noteRefusal s code idx sub path) := by
  intro i j hi hj hne
  simp only [List.mem_cons, List.not_mem_nil, or_false, not_or] at hne
  obtain ⟨h2, h4, h1⟩ := hne
  rw [getE_noteRefusal, if_neg (ekey_ne hi hj (by decide) (by decide) h4), if_neg (ekey_ne hi hj (by decide) (by decide) h2),
    if_neg (ekey_ne hi hj (by decide) (codeSub_lt code) h1)]

theorem getE_noteRefusal_total (s : State) (code idx sub path : Nat) :
    getE (noteRefusal s code idx sub path) 0xA0F0 0x02 = (getE s 0xA0F0 0x02 + 1) % 2 ^ 64 := by
  rw [getE_noteRefusal, if_neg (by decide), if_pos rfl,
    getE_count_ne (ekey_ne (by decide) (by decide) (by decide) (codeSub_lt code) fun e => by cases (Prod.mk.inj e).1)]

theorem getE_noteRefusal_code (s : State) (code idx sub path : Nat) :
    getE (noteRefusal s code idx sub path) 0xA0F1 (codeSub code) = (getE s 0xA0F1 (codeSub code) + 1) % 2 ^ 64 := by
  have h (j : Nat) (hj : j < 256) : ekey 0 0xA0F1 (codeSub code) ≠ ekey 0 0xA0F0 j :=
    ekey_ne (by decide) (codeSub_lt code) (by decide) hj fun e => by cases (Prod.mk.inj e).1
  rw [getE_noteRefusal, if_neg (h 4 (by decide)), if_neg (h 2 (by decide)), if_pos rfl]

theorem getE_noteRefusal_last (s : State) (code idx sub path : Nat) :
    getE (noteRefusal s code idx sub path) 0xA0F0 0x04 = lastRefusal code idx sub path := by
  rw [getE_noteRefusal, if_pos rfl]

/-- What a response leaves of the accounting before it: entries but for the packets of an epoch. -/
theorem sameEntriesBut_respond (h : q.path = 0 ∨ q.path = 2 ∨ q.path = 3) (s : State) (idx sub code len v : Nat) :
    SameEntriesBut [(0x2052, 1), (0x2052, 2), (0x2052, 3), (0x2052, 4)] s (respond s q idx sub code len v) ∧
      (q.path ≠ 3 → (respond s q idx sub code len v).ent = s.ent ∧ (respond s q idx sub code len v).injQ = s.injQ) := by
  rcases h with h | h | h
  · rw [respond_of_frame (.inl h), sendResponse_eq (by omega), if_neg (by omega)]
    exact ⟨sameEntriesBut_of_ent _ rfl, fun _ => ⟨rfl, rfl⟩⟩
  · rw [respond_of_mapped h]
    exact ⟨sameEntriesBut_of_ent _ rfl, fun _ => ⟨rfl, rfl⟩⟩
  · rw [respond_of_frame (.inr h), sendResponse_eq (by omega), if_pos h]
    exact ⟨(sameEntriesBut_carryMgmt _ 0 _).congr rfl rfl, fun hne => absurd h hne⟩

/-- A response on path 0, 2 or 3 writes what is sent, the replay memory, the credits of Umora Link and a packet. -/
theorem respond_only (h : q.path = 0 ∨ q.path = 2 ∨ q.path = 3) (s : State) (idx sub code len v : Nat) :
    respond s q idx sub code len v = { s with
      out := s.out ++ (if q.path = 2 then [] else [.response q.path q.src q.seq code len v false]),
      ent := (respond s q idx sub code len v).ent, replay := (respond s q idx sub code len v).replay,
      umora := (respond s q idx sub code len v).umora, injQ := (respond s q idx sub code len v).injQ } := by
  by_cases h2 : q.path = 2
  · rw [respond_of_mapped h2, if_pos h2, List.append_nil]
    rfl
  · rw [respond_of_frame (by omega), if_neg h2, sendResponse_only h2]
    rfl

theorem refuse_only (h : q.path = 0 ∨ q.path = 2 ∨ q.path = 3) (s : State) (idx sub code : Nat) :
    refuse s q idx sub code = { s with
      ent := (refuse s q idx sub code).ent, out := (refuse s q idx sub code).out,
      dictRefusal := (refuse s q idx sub code).dictRefusal, replay := (refuse s q idx sub code).replay,
      umora := (refuse s q idx sub code).umora, injQ := (refuse s q idx sub code).injQ } := by
  unfold refuse
  rw [respond_only h, noteRefusal_only]

theorem out_refuse (h : q.path = 0 ∨ q.path = 2 ∨ q.path = 3) (s : State) (idx sub code : Nat) :
    (refuse s q idx sub code).out =
      s.out ++ (if q.path = 2 then [] else [.response q.path q.src q.seq code 0 0 false]) := by
  unfold refuse
  rw [respond_only h, noteRefusal_only]

theorem dictRefusal_refuse (h : q.path = 0 ∨ q.path = 2 ∨ q.path = 3) (s : State) (idx sub code : Nat) :
    (refuse s q idx sub code).dictRefusal = (s.dictRefusal || decide (q.path = 2)) := by
  unfold refuse
  rw [respond_only h, noteRefusal_only]

theorem sameEntriesBut_refuse (h : q.path = 0 ∨ q.path = 2 ∨ q.path = 3) (s : State) (idx sub code : Nat) :
    SameEntriesBut [(0xA0F0, 2), (0xA0F0, 4), (0xA0F1, codeSub code), (0x2052, 1), (0x2052, 2), (0x2052, 3), (0x2052, 4)] s
      (refuse s q idx sub code) :=
  ((sameEntriesBut_noteRefusal s code idx sub q.path).mono (by simp)).trans
    ((sameEntriesBut_respond h _ idx sub code 0 0).1.mono (by simp))

/-- An entry outside the epochs reads after a refusal as after its accounting. -/
theorem getE_refuse (h : q.path = 0 ∨ q.path = 2 ∨ q.path = 3) (s : State) (idx sub code : Nat) {i j : Nat} (hi : i < 65536)
    (hj : j < 256) (hne : i ≠ 0x2052) : getE (refuse s q idx sub code) i j = getE (noteRefusal s code idx sub q.path) i j :=
  (sameEntriesBut_respond h _ idx sub code 0 0).1 i j hi hj (by simp [hne])

/-- Settles O26: the accounting of a refusal (`getE_noteRefusal`), the response that leaves (`sendResponse`), and the replay
of a remembered one (`serveFront_of_remembered`). -/
theorem refusalsAndReplay : Obligations.RefusalsAndReplay := by
  unfold Obligations.RefusalsAndReplay
  refine ⟨fun s q idx sub code hp h1 h2 => ⟨by unfold codeSub; omega, _, rfl, ?_, ?_, ?_, fun h3 => ?_,
      sameEntriesBut_refuse hp s idx sub code, dictRefusal_refuse hp s idx sub code, out_refuse hp s idx sub code,
      refuse_only hp s idx sub code⟩,
    fun s q idx sub seq code len v h0 h1 h2 h3 => ?_, fun s q idx sub code len v hp => ⟨_, rfl, ?_, ?_, ?_, ?_⟩⟩
  · rw [getE_refuse hp s idx sub code (by decide) (by decide) (by decide), getE_noteRefusal_total]
  · rw [getE_refuse hp s idx sub code (by decide) (codeSub_lt code) (by decide), getE_noteRefusal_code]
  · rw [getE_refuse hp s idx sub code (by decide) (by decide) (by decide), getE_noteRefusal_last]
  · obtain ⟨he, hinj⟩ := (sameEntriesBut_respond hp (noteRefusal s code idx sub q.path) idx sub code 0 0).2 h3
    refine ⟨hinj.trans ?_, (sameEntriesBut_noteRefusal s code idx sub q.path).trans (sameEntriesBut_of_ent _ he)⟩
    rw [noteRefusal_only]
  · have hp := path_of_remembered h3
    refine ⟨_, _, _, rfl, rfl, rfl, out_sendResponse hp (count s 0xA0F0 0x06) code len v true, ?_, ?_, ?_⟩
    · rw [exec_dictWrite, run_up h0, serveWrite, serveFront_of_remembered h1 h2 h3]
      rfl
    · have hx : exec (.dictDescribe idx sub q) s = run s (serveDescribe idx sub q) := rfl
      rw [hx, run_up h0, serveDescribe, serveFront_of_remembered h1 h2 h3]
      rfl
    · have hx : exec (.dictNext idx sub q) s = run s (serveNext idx sub q) := rfl
      rw [hx, run_up h0, serveNext, serveFront_of_remembered h1 h2 h3]
      rfl
  · rw [respond_of_frame hp]
    exact remembered_of_replay (s := s) hp (replay_sendResponse (by omega) _ code len v false)
  · rw [respond_of_frame hp]
    exact out_sendResponse (by omega) (rememberResponse s q code len v) code len v false
  · rw [respond_of_frame hp, replay_sendResponse (by omega)]
    exact fun r => mem_remember
  · rw [respond_of_frame hp, replay_sendResponse (by omega)]
    exact length_remember _ _ _ _

end Sys2Proof.Machine
end

section
/-! PROOFS. The keystone relay, mapped accesses, mailbox slots and the management port (14 R459 to R470). -/

-- As in the tests: proofs elaborated side by side exhaust memory in the joined text.
set_option Elab.async false

namespace Sys2Proof.Machine

variable {s t u : State} {q : Req} {idx sub : Nat} {e : Entry}

/-! ### The relay goes out (14 R466) -/

theorem isKeystone_takeRequest (s : State) (q : Req) : isKeystone (takeRequest s q) = isKeystone s :=
  isKeystone_congr (getE_takeRequest (by decide)) (getE_takeRequest (by decide))

theorem gridPos_congr (h : getE t 0x1020 0x01 = getE s 0x1020 0x01) : gridPos t = gridPos s := by
  unfold gridPos pkgId
  rw [h]

theorem forwards_congr (h1 : getE t 0x2010 0x01 = getE s 0x2010 0x01) (h2 : getE t 0x1020 0x01 = getE s 0x1020 0x01) (q : Req) :
    forwards t q = forwards s q := by
  unfold forwards
  rw [isKeystone_congr h1 h2, gridPos_congr h2]

theorem forwards_takeRequest (s : State) (q v : Req) : forwards (takeRequest s q) v = forwards s v :=
  forwards_congr (getE_takeRequest (by decide)) (getE_takeRequest (by decide)) v

/-- A packet of class 0 names no job: it rests on the package's id and the epoch alone (10 R323). -/
theorem mkPacket_congr (h1 : getE t 0x1020 0x01 = getE s 0x1020 0x01) (h2 : getE t 0x2050 0x03 = getE s 0x2050 0x03)
    (dest target stone field : Nat) (bs : List Byte) : mkPacket t dest 0 target stone field bs = mkPacket s dest 0 target stone field bs := by
  simp only [mkPacket, pkgId, h1, h2, true_or, if_true]

theorem injQ_carryMgmt (h1 : getE t 0x1020 0x01 = getE s 0x1020 0x01) (h2 : getE t 0x2050 0x03 = getE s 0x2050 0x03)
    (h3 : t.injQ = s.injQ) (w pos : Nat) :
    (carryMgmt t w pos).injQ = s.injQ ++ [(w, mkPacket s (64 * pondOf s + pos) 0 5 0 0 [])] := by
  have hp : pondOf t = pondOf s := by
    unfold pondOf pkgId
    rw [h1]
  rw [carryMgmt_eq, mkPacket_congr h1 h2, hp, h3]

theorem sendMgmt_local {o : Out} (h : hostPackets o = []) (s : State) (pos : Nat) :
    sendMgmt s pos o = carryMgmt { s with out := s.out ++ [o] } 0 pos := by
  rw [sendMgmt, emit_local h]

/-- The relay of a request that waits from now on. -/
def relayOf (opc idx sub : Nat) (q : Req) : Relay := { pos := q.position, opcode := opc, idx := idx, sub := sub, q := q }

theorem sendRelay_eq (h : u.mode ≠ .faulted) (opc idx sub : Nat) (q : Req) : sendRelay u opc idx sub q =
    carryMgmt { u with relays := u.relays ++ [relayOf opc idx sub q], out := u.out ++ [.relay q.position opc idx sub q] } 0
      q.position := by
  rw [sendRelay, if_neg h, sendMgmt_local rfl]
  rfl

/-- What every operation of the keystone does with a request for another position. -/
theorem serveFront_forwards {opc : Nat} {step3 : Option Nat} {body : State → State} {v : Req} (hr : v.relay = true)
    (hp : v.path = 0) (hk : isKeystone s = true) (hpos : v.position ≠ gridPos s) (hd : s.mode ≠ .dormant)
    (hf : firmwareUp s = true) (hb : serverBusy (takeRequest s v) v = false) (hver : v.version = 1) (hres : v.resv = 0)
    (h3 : step3 = none) :
    serveFront opc idx sub v step3 body s = sendRelay (takeRequest s v) opc idx sub v := by
  have hfw : forwards s v = true := by simp [forwards, hr, hp, hk, hpos]
  have hno : noServer s v = false := by simp [noServer, hd, hf]
  have hdorm : ¬((takeRequest s v).mode = .dormant ∧ dormantServes idx sub v.path = false) := by
    rw [mode_takeRequest]
    exact fun h => hd h.1
  have hhead : headCheck (takeRequest s v) v = none := by
    simp [headCheck, hver, hres, hr, isKeystone_takeRequest, hk]
  unfold serveFront
  simp only [hno, hfw, hb, hhead, h3, if_neg hdorm, forwards_takeRequest, Bool.false_eq_true, if_false, if_true]

theorem serveOp_read (idx sub : Nat) (q : Req) (s : State) : serveOp 0 idx sub q s = serveAnyRead idx sub q s := if_pos rfl

theorem serveOp_write (idx sub : Nat) (q : Req) (s : State) :
    serveOp 1 idx sub q s = serveWrite idx sub q (actionOf idx sub q) s := by
  rw [serveOp, if_neg (by decide), if_pos rfl]

theorem serveOp_describe (idx sub : Nat) (q : Req) (s : State) : serveOp 2 idx sub q s = serveDescribe idx sub q s := by
  rw [serveOp, if_neg (by decide), if_neg (by decide), if_pos rfl]

theorem serveOp_next (idx sub : Nat) (q : Req) (s : State) : serveOp 3 idx sub q s = serveNext idx sub q s := by
  rw [serveOp, if_neg (by decide), if_neg (by decide), if_neg (by decide), if_pos rfl]

theorem serveOp_forwards {opc : Nat} {v : Req} (hopc : opc ≤ 3) (he : opc ≠ 3 → (findEntry idx sub).isSome = true)
    (h : ∀ step3 body, step3 = none → serveFront opc idx sub v step3 body s = u) : serveOp opc idx sub v s = u := by
  have hc (h3 : opc ≠ 3) : entryCheck idx sub = none := by
    obtain ⟨e, he⟩ := Option.isSome_iff_exists.1 (he h3)
    simp [entryCheck, he]
  interval_cases opc
  · rw [serveOp_read, serveAnyRead, serveRead]
    exact h _ _ (hc (by decide))
  · rw [serveOp_write, serveWrite]
    exact h _ _ (hc (by decide))
  · rw [serveOp_describe, serveDescribe]
    exact h _ _ (hc (by decide))
  · rw [serveOp_next, serveNext]
    exact h _ _ rfl

theorem exec_relayRequest (opc idx sub : Nat) (q : Req) (s : State) :
    exec (.relayRequest opc idx sub q) s = run s (serveOp opc idx sub { q with relay := true }) := rfl

/-! ### Its answer (14 R466) -/

theorem exec_relayResponse (h0 : s.resetLow = false) {pos seq : Nat} {r : Relay} (h : findRelay s pos seq = some r)
    (code v : Nat) : exec (.relayResponse pos seq code v) s = .next (answerRelay { s with relays := s.relays.erase r } r code
      (if code = 0 then answerLength r else 0) (if code = 0 then v else 0)) := by
  have hx : exec (.relayResponse pos seq code v) s = execRelayResponse pos seq code v s := rfl
  rw [hx, execRelayResponse, run_up h0, h]

theorem exec_relayResponse_late (h0 : s.resetLow = false) {pos seq : Nat} (h : findRelay s pos seq = none) (code v : Nat) :
    exec (.relayResponse pos seq code v) s = .next s := by
  have hx : exec (.relayResponse pos seq code v) s = execRelayResponse pos seq code v s := rfl
  rw [hx, execRelayResponse, run_up h0, h]

theorem exec_relayTimeoutExpiry (h0 : s.resetLow = false) {pos seq : Nat} {r : Relay} (h : findRelay s pos seq = some r) :
    exec (.relayTimeoutExpiry pos seq) s = .next (answerRelay (noteRefusal
      (count { s with relays := s.relays.erase r } 0xA0F0 0x07) 0x0602 r.idx r.sub r.q.path) r 0x0602 0 0) := by
  have hx : exec (.relayTimeoutExpiry pos seq) s = execRelayTimeoutExpiry pos seq s := rfl
  rw [hx, execRelayTimeoutExpiry, run_up h0, h]

theorem exec_deferredWriteComplete (h0 : s.resetLow = false) {d : Deferred}
    (h : s.deferred.find? (fun d => d.idx == idx && d.sub == sub && d.result.isSome) = some d) :
    (d.result = some 0 → exec (.deferredWriteComplete idx sub) s =
      .next (respond { s with deferred := s.deferred.erase d } d.q idx sub 0 0 0)) ∧
    (∀ c, c ≠ 0 → d.result = some c → exec (.deferredWriteComplete idx sub) s =
      .next (refuse { s with deferred := s.deferred.erase d } d.q idx sub c)) := by
  have hx : exec (.deferredWriteComplete idx sub) s = execDeferredWriteComplete idx sub s := rfl
  rw [hx, execDeferredWriteComplete, run_up h0, h]
  dsimp only
  refine ⟨fun hr => ?_, fun c hc hr => ?_⟩ <;> rw [hr]
  · rfl
  cases c with
  | zero => exact absurd rfl hc
  | succ c => rfl

/-! ### Mapped writes (14 R462 to R464) -/

theorem toLE_getElem (w v : Nat) {i : Nat} (h : i < (toLE w v).length) : (toLE w v)[i] = BitVec.ofNat 8 (v / 2 ^ (8 * i)) := by
  induction w generalizing v i with
  | zero => simp [toLE] at h
  | succ w ih =>
    cases i with
    | zero => simp [toLE]
    | succ i =>
      simp only [toLE, List.getElem_cons_succ]
      rw [ih]
      congr 1
      rw [Nat.div_div_eq_div_mul, show 8 * (i + 1) = 8 + 8 * i by ring, pow_add, show 2 ^ 8 = 256 from rfl]

theorem exec_mappedWrite (off w v : Nat) (s : State) : exec (.mappedWrite off w v) s = execMappedWrite off w v s := rfl

theorem exec_mappedWrite_slot (h0 : s.resetLow = false) {off : Nat} (h : off < 0x4000) (w v : Nat) :
    exec (.mappedWrite off w v) s = .next (slotAreaWrite s off w v) := by
  rw [exec_mappedWrite, execMappedWrite, run_up h0, if_pos h]

theorem slotAreaWrite_request {off w : Nat} (ho : off % 4096 + w ≤ 0x800) (ha : slotAccessOk off w = true) (v : Nat) :
    slotAreaWrite s off w v = slotWrite (hostTaken s true) off (toLE w v) := by
  refine if_neg ?_
  have hw : 0 < w := by
    simp only [slotAccessOk, Bool.and_eq_true, Bool.or_eq_true, beq_iff_eq] at ha
    omega
  rw [ha]
  simp
  omega

theorem slotAreaWrite_own {off w : Nat}
    (h : slotAccessOk off w = false ∨ (0x800 ≤ off % 4096 ∧ off % 4096 < 0xC10) ∨ 0xFF8 ≤ off % 4096) (v : Nat) :
    slotAreaWrite s off w v = count (hostTaken s true) 0xA0F0 0x03 := if_pos h

theorem exec_mappedWrite_dormant (h0 : s.resetLow = false) {off : Nat} (h : 0x4000 ≤ off) (hm : s.mode = .dormant) (w v : Nat) :
    exec (.mappedWrite off w v) s = .next (hostTaken s true) := by
  rw [exec_mappedWrite, execMappedWrite, run_up h0, if_neg (by omega), if_pos hm]

theorem exec_mappedWrite_none (h0 : s.resetLow = false) {off : Nat} (h : 0x4000 ≤ off) (hm : s.mode ≠ .dormant)
    (he : mappedEntry off = none) (w v : Nat) :
    exec (.mappedWrite off w v) s = .next (count (hostTaken s true) 0xA0F0 0x03) := by
  rw [exec_mappedWrite, execMappedWrite, run_up h0, if_neg (by omega), if_neg hm, he]

theorem exec_mappedWrite_entry (h0 : s.resetLow = false) {off w c : Nat} (h : 0x4000 ≤ off) (hm : s.mode ≠ .dormant)
    (he : mappedEntry off = some (idx, sub, c)) (hf : findEntry idx sub = some e) (v : Nat) :
    exec (.mappedWrite off w v) s = .next (if mappedAccessOk e off w = false then count (hostTaken s true) 0xA0F0 0x03
      else serveWrite idx sub (mappedReq e c v) (actionOf idx sub (mappedReq e c v)) s) := by
  rw [exec_mappedWrite, execMappedWrite, run_up h0, if_neg (by omega), if_neg hm, he]
  dsimp only
  rw [hf]

/-! ### The doorbell of a mailbox slot (14 R462) -/

/-- A slot whose request has been queued: DONE is cleared and the slot is busy. -/
def slotQueued (u : State) (n : Nat) : State :=
  let a := 4096 * n + 0xFF8
  let s := slotWrite (setSlot u n { slotOf u n with busy := true, done := false }) a
    (toLE 8 (clrBit (fromLE ((List.range 8).map (fun i => tget 0 u.slotMem (a + i)))) 0))
  { s with dictQ := s.dictQ ++ [n] }

theorem actDictDoorbell_busy (h : (slotOf u (q.value % 4)).busy = true) :
    actDictDoorbell q u = .done (count u 0xA0F0 0x03) := if_pos h

theorem actDictDoorbell_idle (h : (slotOf u (q.value % 4)).busy = false) :
    actDictDoorbell q u = .done (slotQueued u (q.value % 4)) := if_neg (by simp [h])

theorem slotOf_slotQueued (u : State) (n : Nat) :
    slotOf (slotQueued u n) n = { slotOf u n with busy := true, done := false } :=
  tget_tput_self MSlot.initial u.mslots n { slotOf u n with busy := true, done := false }

theorem slotQueued_only (u : State) (n : Nat) : slotQueued u n = { u with
    dictQ := u.dictQ ++ [n], mslots := (slotQueued u n).mslots, slotMem := (slotQueued u n).slotMem } := rfl

theorem dictQ_slotQueued (u : State) (n : Nat) : (slotQueued u n).dictQ = u.dictQ ++ [n] := rfl

/-! ### Statement -/

/-- Settles O28: the relay by `serveFront_forwards` and the equations of its answer, the mapped accesses case by case, and
the doorbell of a slot. -/
theorem mappedWritesAndRelay : Obligations.MappedWritesAndRelay := by
  unfold Obligations.MappedWritesAndRelay
  refine ⟨fun s h0 => ⟨fun opc idx sub q v hv hopc hk hp hpos hd hf hfault hb hver hres he => ?_, fun idx sub q v hv hpos => ?_,
      fun pos seq code v r h hc => ?_, fun pos seq v r h => ?_, fun pos seq code v h => exec_relayResponse_late h0 h code v,
      fun pos seq r h => exec_relayTimeoutExpiry h0 h, fun idx sub d h => exec_deferredWriteComplete h0 h⟩,
    fun s h0 => ⟨fun off w v ho hw ha => ⟨slotWrite (hostTaken s true) off (toLE w v), ?_, fun i hi => ?_, fun a hout => ?_, rfl⟩, fun off w v ho h => ?_,
      fun off w v ho hm => exec_mappedWrite_dormant h0 ho hm w v, fun off w v ho hm he => exec_mappedWrite_none h0 ho hm he w v,
      fun off w v idx sub c e ho hm he hf => ⟨fun ha => ?_, fun ha => ?_⟩,
      fun q n ha hn => ⟨fun hi => ?_, fun hb => ?_⟩, fun hp => ?_, fun hp => ?_⟩⟩
  · have hserve : serveOp opc idx sub v s = sendRelay (takeRequest s v) opc idx sub v := by
      refine serveOp_forwards hopc he fun step3 body h3 => ?_
      exact serveFront_forwards (by rw [hv]) (by rw [hv]; exact hp) hk (by rw [hv]; exact hpos) hd hf hb (by rw [hv]; exact hver)
        (by rw [hv]; exact hres) h3
    have hq : v.position = q.position := by rw [hv]
    have hm : (takeRequest s v).mode ≠ .faulted := by
      rw [mode_takeRequest]
      exact hfault
    have hr : (takeRequest s v).relays = s.relays := by rw [takeRequest_only]
    have hout : (takeRequest s v).out = s.out := by rw [takeRequest_only]
    have hinj : (takeRequest s v).injQ = s.injQ := by rw [takeRequest_only]
    refine ⟨sendRelay (takeRequest s v) opc idx sub v, ?_, ?_, ?_, ?_, ?_⟩
    · rw [exec_relayRequest, run_up h0, ← hv, hserve]
    · rw [sendRelay_eq hm, carryMgmt_only, hr, ← hq]
      rfl
    · rw [sendRelay_eq hm, carryMgmt_only, hout, ← hq]
    · rw [sendRelay_eq hm, ← hq]
      refine injQ_carryMgmt ?_ ?_ hinj 0 _
      · exact getE_takeRequest (s := s) (q := v) (by decide)
      · exact getE_takeRequest (s := s) (q := v) (by decide)
    · rw [sendRelay_eq hm, carryMgmt_only]
  · rw [hv, exec_relayRequest, exec_relayRequest, exec_relayRequest]
    refine ⟨?_, ?_, ?_⟩
    · exact congrArg (run s) (funext fun s => serveOp_write _ _ _ s)
    · exact congrArg (run s) (funext fun s => serveOp_describe _ _ _ s)
    · exact congrArg (run s) (funext fun s => serveOp_next _ _ _ s)
  · rw [exec_relayResponse h0 h, if_neg hc, if_neg hc]
  · rw [exec_relayResponse h0 h, if_pos rfl, if_pos rfl]
  · rw [exec_mappedWrite_slot h0 ho, slotAreaWrite_request hw ha]
  · have hlen : i < (toLE w v).length := by rwa [length_toLE]
    exact (tget_sramPut_in hlen).trans (toLE_getElem w v hlen)
  · exact tget_sramPut_out (by rwa [length_toLE])
  · rw [exec_mappedWrite_slot h0 ho, slotAreaWrite_own h]
  · rw [exec_mappedWrite_entry h0 ho hm he hf, if_pos ha]
  · rw [exec_mappedWrite_entry h0 ho hm he hf, if_neg (by simp [ha]), exec_dictWrite, run_up h0]
  · rw [hn] at hi ⊢
    refine ⟨slotQueued (takeRequest s q) (q.value % 4), done_of_act rfl ha (actDictDoorbell_idle hi),
      dictQ_slotQueued _ _, ?_, ?_, slotQueued_only _ _⟩ <;> rw [slotOf_slotQueued]
  · rw [hn] at hb
    exact done_of_act rfl ha (actDictDoorbell_busy hb)
  · have hx : exec .plcaFallback s = execPlcaFallback s := rfl
    rw [hx, execPlcaFallback, run_up h0, if_neg hp]
  · have hx : exec .plcaStatusRestored s = execPlcaStatusRestored s := rfl
    rw [hx, execPlcaStatusRestored, run_up h0, if_pos hp]

end Sys2Proof.Machine
end

section
/-! PROOFS. Package id, keystone and beacons, failed units, state requests and the start record (01 R14 to R33; 13 R417 to
R427; 16 R509, R514). -/

-- As in the tests: proofs elaborated side by side exhaust memory in the joined text.
set_option Elab.async false

namespace Sys2Proof.Machine

variable {s t u w : State} {q : Req}

/-! ### POND_FAULTS of a new keystone (16 R514) -/

/-- One stale mark stays under further marks. -/
theorem bit7_markStale_forEach (l : List Nat) (s : State) {p : Nat} (h : p ∈ l ∨ bit 7 (pondFaultOf s p) = true) :
    bit 7 (pondFaultOf (forEach s l (fun t p => setPondFault t p (setBit (pondFaultOf t p) 7))) p) = true := by
  induction l generalizing s with
  | nil => exact h.resolve_left List.not_mem_nil
  | cons a l ih =>
    refine ih (setPondFault s a (setBit (pondFaultOf s a) 7)) ?_
    by_cases hp : p = a
    · right
      rw [hp, pondFaultOf_setPondFault]
      exact bit_setBit _ _
    · rw [pondFaultOf_setPondFault_ne hp]
      simpa [hp] using h

theorem markStale_only (s : State) : markStale s = { s with pondFaults := (markStale s).pondFaults } := by
  unfold markStale forEach
  generalize List.range 64 = l
  induction l generalizing s with
  | nil => rfl
  | cons a l ih =>
    simp only [List.foldl_cons]
    rw [ih]
    rfl

theorem bit7_markStale (s : State) {p : Nat} (h : p < 64) : bit 7 (pondFaultOf (markStale s) p) = true :=
  bit7_markStale_forEach _ s (.inl (List.mem_range.2 h))

/-! ### The package id and the keystone (01 R14 to R16, R27, R28) -/

/-- The state of a package after a write that may have made it the keystone. -/
theorem afterRole_eq (u w : State) :
    afterRole (isKeystone u) w = if isKeystone u = false ∧ isKeystone w = true then markStale w else w := rfl

theorem afterRole_only (b : Bool) (w : State) : afterRole b w = { w with pondFaults := (afterRole b w).pondFaults } := by
  unfold afterRole
  split
  · exact markStale_only w
  · rfl

/-- The stored package id. -/
def idStored (u : State) (v : Nat) : State := setE u 0x1020 0x01 (2 ^ 15 + v % 2 ^ 14)

/-- The stored keystone position, which ends the silence. -/
def keystoneStored (u : State) (v : Nat) : State :=
  setE { u with keystoneSilent := false, newKeystone := u.newKeystone || decide (getE u 0x2010 0x01 ≠ v) } 0x2010 0x01 v

theorem actPackageId_same (h : q.value % 2 ^ 14 = pkgId u) :
    actPackageId q u = .done (afterRole (isKeystone u) (idStored u q.value)) :=
  congrArg Act.done (if_pos h.symm)

theorem actPackageId_new (h : q.value % 2 ^ 14 ≠ pkgId u) :
    actPackageId q u = .done (forEach (afterRole (isKeystone u) (idStored u q.value)) (List.range 32)
      (fun t p => match (portOf t p).state with | .down | .fenced => t | _ => beginRetrain t p)) :=
  congrArg Act.done (if_neg h.symm)

theorem actKeystone_eq (q : Req) (u : State) :
    actKeystone q u = .done (afterRole (isKeystone u) (keystoneStored u q.value)) := rfl

theorem pkgId_takeRequest (s : State) (q : Req) : pkgId (takeRequest s q) = pkgId s :=
  congrArg (· % 2 ^ 14) (getE_takeRequest (by decide))

/-! ### Beacons (01 R30 to R32) -/

/-- Packets of class 0 to a list of positions. -/
theorem carryMgmt_forEach (l : List Nat) (t : State) (h1 : getE t 0x1020 0x01 = getE s 0x1020 0x01)
    (h2 : getE t 0x2050 0x03 = getE s 0x2050 0x03) (w : Nat) :
    (forEach t l (fun t p => carryMgmt t w p)).injQ =
      t.injQ ++ l.map (fun p => (w, mkPacket s (64 * pondOf s + p) 0 5 0 0 [])) := by
  induction l generalizing t with
  | nil => simp [forEach]
  | cons p l ih =>
    have step : forEach t (p :: l) (fun t p => carryMgmt t w p) = forEach (carryMgmt t w p) l (fun t p => carryMgmt t w p) := rfl
    have hinj := injQ_carryMgmt (s := { s with injQ := t.injQ }) h1 h2 rfl w p
    rw [step, ih (carryMgmt t w p) ((getE_carryMgmt t w p (by decide) (by decide) (by decide)).trans h1)
      ((getE_carryMgmt t w p (by decide) (by decide) (by decide)).trans h2), hinj, List.append_assoc]
    rfl

theorem forEach_carryMgmt_only (l : List Nat) (t : State) (w : Nat) : forEach t l (fun t p => carryMgmt t w p) =
    { t with ent := (forEach t l (fun t p => carryMgmt t w p)).ent,
             injQ := (forEach t l (fun t p => carryMgmt t w p)).injQ } := by
  induction l generalizing t with
  | nil => rfl
  | cons p l ih =>
    have step : forEach t (p :: l) (fun t p => carryMgmt t w p) = forEach (carryMgmt t w p) l (fun t p => carryMgmt t w p) := rfl
    rw [step, ih, carryMgmt_only]

theorem exec_keystoneBeacon (h0 : s.resetLow = false) (hk : isKeystone s = true) (hf : firmwareUp s = true) :
    exec .keystoneBeacon s = .next (forEach { s with out := s.out ++ [.beacon (getE s 0x2010 0x02)] } (pondMembers s)
      (fun t p => carryMgmt t 0 p)) := by
  have hx : exec .keystoneBeacon s = execKeystoneBeacon s := rfl
  have he : emit s (.beacon (getE s 0x2010 0x02)) = { s with out := s.out ++ [.beacon (getE s 0x2010 0x02)] } := emit_local rfl
  rw [hx, execKeystoneBeacon, run_up h0, if_pos ⟨hk, hf⟩, he]

theorem exec_pondBeacon (h0 : s.resetLow = false) (hf : firmwareUp s = true) (p : Nat) :
    exec (.pondBeacon p) s = .next (if fromKeystone s p = false then count s 0x8040 0x01
      else if s.newKeystone then sendSummary { s with newKeystone := false } else s) := by
  have hx : exec (.pondBeacon p) s = execPondBeacon p s := rfl
  rw [hx, execPondBeacon, run_up h0, if_neg (by simp [hf])]

theorem exec_keystoneSilent (h0 : s.resetLow = false) (hf : firmwareUp s = true) (hp : getE s 0x2010 0x01 ≠ 0xFF)
    (hk : isKeystone s = false) (hs : s.keystoneSilent = false) :
    exec .keystoneSilent s = .next (raise { s with keystoneSilent := true } [mkFault 1 0x40 6 0 none 0]) := by
  have hx : exec .keystoneSilent s = execKeystoneSilent s := rfl
  rw [hx, execKeystoneSilent, run_up h0, if_neg (by simp [hf, hp, hk, hs])]
  rfl

/-! ### Failed units (16 R509) -/

/-- The failure of a unit without fences: its fault. -/
theorem exec_unitFailure (h0 : s.resetLow = false) {u : FailedUnit} (hu : unitExists u = true) :
    exec (.unitFailure u) s = .next (
      let s := match u with
        | .mgmtProcessor n => { s with mpFailed := if s.mpFailed.contains n then s.mpFailed else s.mpFailed ++ [n] }
        | _ => s
      let s := raise s [unitFault u]
      match u with
      | .meshStop c | .courseDma c => fenceMany s ((List.range 64).map (· + 64 * c))
      | .cisternManager b => fenceMany (fenceRouter s b) ((List.range 256).map (· + 256 * b))
      | _ => s) := by
  have hx : exec (.unitFailure u) s = execUnitFailure u s := rfl
  rw [hx, execUnitFailure, if_neg (by simp [hu]), run_up h0] <;> cases u <;> rfl

theorem exec_unitFailure_mgmtProcessor (h0 : s.resetLow = false) {n : Nat} (hn : n < 2) :
    exec (.unitFailure (.mgmtProcessor n)) s = .next (raise
      { s with mpFailed := if s.mpFailed.contains n then s.mpFailed else s.mpFailed ++ [n] } [mkFault 2 0x49 6 n none 0]) := by
  rw [exec_unitFailure h0 (by simp [unitExists, hn])]
  rfl

/-- Settles O30: the writes of id and keystone go through `afterRole`, a beacon sends one packet to each member
(`carryMgmt_forEach`), and each unit's failure has its equation. -/
theorem keystoneAndUnits : Obligations.KeystoneAndUnits := by
  unfold Obligations.KeystoneAndUnits
  refine ⟨fun s h0 => ⟨fun q u w v ha hu hw hv => ?_, fun q u w v ha hu hw hv => ?_, fun p hp => bit7_markStale s hp,
    fun hk hf => ?_, fun p hf hp => ?_, fun p hf hp hn => ?_, fun p hf hp hn => ?_, exec_keystoneSilent h0⟩,
    fun s h0 => ⟨fun c hc => ⟨?_, ?_⟩, fun b hb => ⟨?_, ?_⟩, fun w hw => ⟨?_, ?_, ?_⟩, fun n hn => ?_, fun n hn hm => ?_,
      fun n hn hm => ?_, ?_, ?_, ?_, ?_⟩⟩
  · have hw' : w = idStored u q.value := hw
    have hv' : v = afterRole (isKeystone u) (idStored u q.value) := by rw [hv, afterRole_eq, hw']
    have hid : pkgId u = pkgId s := by rw [hu, pkgId_takeRequest]
    refine ⟨fun h => ?_, fun h => ?_, ?_, fun i j hi hj hne => ?_, ?_⟩
    · rw [hv']
      exact done_of_act rfl ha (by rw [← hu]; exact actPackageId_same (h.trans hid.symm))
    · rw [hv']
      refine done_of_act rfl ha ?_
      rw [← hu]
      exact actPackageId_new fun e => h (e.trans hid)
    · rw [hv', getE_afterRole, idStored, getE_setE_self]
    · rw [hv', getE_afterRole]
      exact sameEntriesBut_setE u (by decide) (by decide) _ i j hi hj hne
    · rw [hv', afterRole_only, idStored, setE_only]
  · have hv' : v = afterRole (isKeystone u) (keystoneStored u q.value) := by rw [hv, afterRole_eq, hw]; rfl
    refine ⟨?_, ?_, fun i j hi hj hne => ?_⟩
    · rw [hv']
      exact done_of_act rfl ha (by rw [← hu]; exact actKeystone_eq q u)
    · rw [hv', getE_afterRole, keystoneStored, getE_setE_self]
    · rw [hv', getE_afterRole]
      exact ((sameEntriesBut_setE _ (by decide) (by decide) q.value).congr (s' := u) rfl rfl) i j hi hj hne
  · refine ⟨_, exec_keystoneBeacon h0 hk hf, ?_, ?_, ?_⟩
    · rw [forEach_carryMgmt_only]
    · exact carryMgmt_forEach (s := s) _ { s with out := s.out ++ [.beacon (getE s 0x2010 0x02)] } (getE_of_ent rfl _ _)
        (getE_of_ent rfl _ _) 0
    · rw [forEach_carryMgmt_only]
  · rw [exec_pondBeacon h0 hf, if_pos hp]
  · rw [exec_pondBeacon h0 hf, if_neg (by simp [hp]), if_pos hn]
  · rw [exec_pondBeacon h0 hf, if_neg (by simp [hp]), if_neg (by simp [hn])]
  · rw [exec_unitFailure h0 (by simp [unitExists, hc])]
    rfl
  · rw [exec_unitFailure h0 (by simp [unitExists, hc]), exec_unitFailure h0 (by simp [unitExists, hc])]
    rfl
  · rw [exec_unitFailure h0 (by simp [unitExists, hb])]
    rfl
  · rw [exec_unitFailure h0 (by simp [unitExists, hb])]
    rfl
  · rw [exec_unitFailure h0 (by simp [unitExists, hw])]
    rfl
  · rw [exec_unitFailure h0 (by simp [unitExists, hw])]
    rfl
  · rw [exec_unitFailure h0 (by simp [unitExists, hw])]
    rfl
  · rw [exec_unitFailure h0 (by simp [unitExists, hn])]
    rfl
  · rw [exec_unitFailure_mgmtProcessor h0 hn, hm]
    rfl
  · rw [exec_unitFailure_mgmtProcessor h0 hn, hm]
    rfl
  · rw [exec_unitFailure h0 rfl]
    rfl
  · rw [exec_unitFailure h0 rfl]
    rfl
  · rw [exec_unitFailure h0 rfl]
    rfl
  · rw [exec_unitFailure h0 rfl]
    rfl

end Sys2Proof.Machine
end

section
/-! PROOFS. State requests and the start record (13 R417, R418, R425 to R427). -/

-- As in the tests: proofs elaborated side by side exhaust memory in the joined text.
set_option Elab.async false

namespace Sys2Proof.Machine

variable {s t u : State} {q : Req} {id v : Nat}

/-! ### STATE_REQUEST (13 R417, R418) -/

/-- A request to enter Configured from Verified or Clean. -/
theorem actStateRequest_configured (hd : u.mode ≠ .draining) (hq : q.value = 2) (hm : u.mode = .verified ∨ u.mode = .clean) :
    actStateRequest q u = (match configRefusal u with
      | some c => .refuse c u
      | none => .done (enterConfigured u)) := by
  rw [actStateRequest, if_neg hd, if_pos ⟨hq, hm⟩] <;> rfl

theorem actStateRequest_accepted (hd : u.mode ≠ .draining) (hq : q.value = 2) (hm : u.mode = .verified ∨ u.mode = .clean)
    (hc : configRefusal u = none) : actStateRequest q u = .done (enterConfigured u) := by
  rw [actStateRequest_configured hd hq hm, hc]

theorem actStateRequest_refused (hd : u.mode ≠ .draining) (hq : q.value = 2) (hm : u.mode = .verified ∨ u.mode = .clean)
    {c : Nat} (hc : configRefusal u = some c) : actStateRequest q u = .refuse c u := by
  rw [actStateRequest_configured hd hq hm, hc]

theorem actStateRequest_running (hq : q.value = 4) (hm : u.mode = .ready) : actStateRequest q u = .done (startRunning u) := by
  rw [actStateRequest, if_neg (by simp [hm]), if_neg (by omega), if_pos ⟨hq, hm⟩]

/-- Every other request is refused with STATE_FORBIDS. -/
theorem actStateRequest_other (hd : u.mode ≠ .draining) (h2 : ¬(q.value = 2 ∧ (u.mode = .verified ∨ u.mode = .clean)))
    (h4 : ¬(q.value = 4 ∧ u.mode = .ready)) : actStateRequest q u = .refuse 0x0101 u := by
  rw [actStateRequest, if_neg hd, if_neg h2, if_neg h4]

/-- The package lacks an id, a job tag, committed pools or a good generator (13 R418). -/
def lacksBasis (u : State) : Prop :=
  bit 15 (getE u 0x1020 0x01) = false ∨ getE u 0x5000 0x03 = 0 ∨ getE u 0x4040 0x02 = 0 ∨ u.sec.rngBad = true

theorem configRefusal_of_basis (h : lacksBasis u) : configRefusal u = some 0x0101 := if_pos h

theorem configRefusal_of_init (h : ¬lacksBasis u) (hi : getE u 0x3010 0x02 ≠ 7) : configRefusal u = some 0x0601 :=
  Eq.trans (if_neg h) (if_pos hi)

theorem configRefusal_of_regions (h : ¬lacksBasis u) (hi : getE u 0x3010 0x02 = 7) (hr : regionsPlaceable u = false) :
    configRefusal u = some 0x0406 :=
  Eq.trans (if_neg h) (Eq.trans (if_neg (not_not.2 hi)) (if_pos hr))

theorem configRefusal_of_ready (h : ¬lacksBasis u) (hi : getE u 0x3010 0x02 = 7) (hr : regionsPlaceable u = true) :
    configRefusal u = none :=
  Eq.trans (if_neg h) (Eq.trans (if_neg (not_not.2 hi)) (if_neg (by simp [hr])))

/-- Entry to Configured with no pool that rebuilds: the state is Configured with the job's tag and a new tier-1 key. -/
theorem enterConfigured_of_pools (hp : u.pools = []) : enterConfigured u = newKey { u with
    mode := .configured, senders := [], jobTag := getE u 0x5000 0x03, tagDropSeen := false, windowFaultSeen := false } := by
  have hpools : (newKey { u with
      mode := .configured, senders := [], jobTag := getE u 0x5000 0x03, tagDropSeen := false,
      windowFaultSeen := false }).pools = [] := by
    rw [newKey_only]
    exact hp
  unfold enterConfigured
  dsimp only
  rw [hpools]
  rfl

theorem mem_newKey (h : s.sec.rngBad = false) : (newKey s).mem = [] := by
  rw [newKey, if_neg (by simp [h])]
  rfl

theorem keyGen_newKey (h : s.sec.rngBad = false) : (newKey s).sec.keyGen = s.sec.keyGen + 1 := by
  rw [newKey, if_neg (by simp [h])]
  rfl

theorem starts_startRunning (u : State) : ∀ p ∈ (startRunning u).starts, p.2 ≠ .committed := by
  intro p hp
  obtain ⟨x, -, rfl⟩ := List.mem_map.1 hp
  split
  · exact fun h => by cases h
  · assumption

/-! ### The start record (13 R425 to R427) -/

theorem startOf_setStart (s : State) (id : Nat) (x : StartState) : startOf (setStart s id x) id = x :=
  tget_tput_self _ _ _ _

theorem startOf_of_starts (h : t.starts = s.starts) (id : Nat) : startOf t id = startOf s id := by
  unfold startOf
  rw [h]

theorem startOf_startRunning (h : startOf s id = .committed) : startOf (startRunning s) id = .running := by
  have key : ∀ l : Tbl StartState, tget StartState.none l id = .committed →
      tget StartState.none (l.map (fun p => if p.2 = .committed then (p.1, .running) else p)) id = .running := by
    intro l
    induction l with
    | nil => exact fun h => by cases h
    | cons p l ih =>
      obtain ⟨k, x⟩ := p
      intro h
      by_cases hk : k = id
      · have hx : x = .committed := by simpa [tget, tlook, hk] using h
        simp [tget, tlook, hk, hx]
      · have hrest : tget StartState.none l id = .committed := by simpa [tget, tlook, hk] using h
        have := ih hrest
        by_cases hx : x = .committed <;> simpa [tget, tlook, hk, hx] using this
  exact key s.starts h

theorem takePrepare_none (h : startOf s (recStart v) = .none) (l : List Nat) :
    takePrepare s v l = if prepareCode s v l = 0
      then (setE { setStart s (recStart v) .prepared with jobList := l } 0x5000 0x05 (recStart v), 0)
      else (s, prepareCode s v l) := by
  unfold takePrepare
  rw [h]

theorem takeCommit_prepared (h : startOf s id = .prepared) (hm : s.mode = .configured) : takeCommit s id =
    (setE { setStart (commitGroup s) id .committed with mode := .ready } 0x5000 0x04 s.jobList.length, 0) := by
  unfold takeCommit
  rw [h]
  exact if_pos hm

theorem takeRun_committed (h : startOf s id = .committed) (hm : s.mode = .ready) : takeRun s id = (startRunning s, 0) := by
  unfold takeRun
  rw [h]
  exact if_pos hm

theorem takeAbort_prepared (h : startOf s id = .prepared) :
    takeAbort s id = ({ setStart s id .aborted with jobList := [] }, 0) := by
  unfold takeAbort
  rw [h]

theorem takeAbort_committed (h : startOf s id = .committed) (hm : s.mode = .ready) : takeAbort s id =
    (setE (setE { setStart s id .aborted with jobList := [], mode := .configured } 0x71FF 0x06 0) 0x5000 0x04 0, 0) := by
  unfold takeAbort
  rw [h]
  exact if_pos hm

/-- Group 255 is committed (12 R378). -/
theorem getE_commitGroup (s : State) : getE (commitGroup s) 0x71FF 0x06 = 1 := getC_setC_self _ _ _ _

/-- The record of an operation that finds no start record, a running one or an aborted one (13 R426). -/
theorem start_of_none (h : startOf s id = .none) :
    takeCommit s id = (s, 0x0101) ∧ takeRun s id = (s, 0x0101) ∧ takeAbort s id = (setStart s id .aborted, 0) := by
  unfold takeCommit takeRun takeAbort
  rw [h]
  exact ⟨rfl, rfl, rfl⟩

theorem start_of_running (h : startOf s id = .running) :
    takeCommit s id = (s, 0) ∧ takeRun s id = (s, 0) ∧ takeAbort s id = (s, 0x0101) := by
  unfold takeCommit takeRun takeAbort
  rw [h]
  exact ⟨rfl, rfl, rfl⟩

theorem start_of_aborted (h : startOf s id = .aborted) :
    takeCommit s id = (s, 0x0101) ∧ takeRun s id = (s, 0x0101) ∧ takeAbort s id = (s, 0) := by
  unfold takeCommit takeRun takeAbort
  rw [h]
  exact ⟨rfl, rfl, rfl⟩

/-- Settles O31: the refusals of a state request in their order, entry to Configured, and the start record state by state. -/
theorem stateRequestsAndStarts : Obligations.StateRequestsAndStarts := by
  unfold Obligations.StateRequestsAndStarts
  refine ⟨fun s u q ha hu hd => ?_, fun s v id l => ⟨fun h hc => ?_, fun h hc => ?_, fun h hm => ?_, fun h hm => ?_, fun h => ?_,
    fun h hm => ?_, start_of_none, start_of_running, start_of_aborted⟩⟩
  · have hmode : u.mode = s.mode := by rw [hu, mode_takeRequest]
    have hsec : u.sec = s.sec := by rw [hu, takeRequest_only]
    have hpools : u.pools = s.pools := by rw [hu, takeRequest_only]
    have hdu : u.mode ≠ .draining := hmode ▸ hd
    have conf {a : Act} (h : actStateRequest q u = a) : actStateRequest q (takeRequest s q) = a := by rw [← hu, h]
    refine ⟨fun hq hm => ?_, fun hq hm => ?_, fun hq hm => ?_, fun hq hv hc => ?_⟩
    · rw [← hmode] at hm
      rw [← hsec]
      have basis (h1 : bit 15 (getE u 0x1020 0x01) = true) (h2 : getE u 0x5000 0x03 ≠ 0) (h3 : getE u 0x4040 0x02 ≠ 0)
          (h4 : u.sec.rngBad = false) : ¬lacksBasis u := by
        simp [lacksBasis, h1, h2, h3, h4]
      refine ⟨fun h1 h2 h3 h4 => ⟨fun hi hr => ?_, fun hi hr => ?_, fun hi => ?_⟩, fun h4 hp t ht => ?_, fun h => ?_⟩
      · exact done_of_act rfl ha
          (conf (actStateRequest_accepted hdu hq hm (configRefusal_of_ready (basis h1 h2 h3 h4) hi hr)))
      · rw [hu]
        exact refused_of_act rfl ha
          (hu ▸ actStateRequest_refused hdu hq hm (configRefusal_of_regions (basis h1 h2 h3 h4) hi hr))
      · rw [hu]
        exact refused_of_act rfl ha
          (hu ▸ actStateRequest_refused hdu hq hm (configRefusal_of_init (basis h1 h2 h3 h4) hi))
      · rw [ht, enterConfigured_of_pools (hpools.trans hp)]
        exact ⟨by rw [newKey_only], by rw [newKey_only], by rw [newKey_only], mem_newKey h4, keyGen_newKey h4⟩
      · rw [hu]
        exact refused_of_act rfl ha (hu ▸ actStateRequest_refused hdu hq hm (configRefusal_of_basis h))
    · exact ⟨startRunning u, done_of_act rfl ha (conf (actStateRequest_running hq (hmode.trans hm))), rfl,
        starts_startRunning u, rfl⟩
    · rw [hu]
      exact refused_of_act rfl ha (hu ▸ actStateRequest_other hdu (by omega) (by simp [hmode, hm]))
    · rw [hu]
      exact refused_of_act rfl ha (hu ▸ actStateRequest_other hdu (by simp [hmode, hv, hc]) (by omega))
  · refine ⟨_, (takePrepare_none h l).trans (if_pos hc), ?_, rfl, rfl, getE_setE_self _ _ _⟩
    exact startOf_setStart s (recStart v) .prepared
  · exact (takePrepare_none h l).trans (if_neg hc)
  · refine ⟨_, takeCommit_prepared h hm, startOf_setStart (commitGroup s) id .committed, rfl, getE_setE_self _ _ _, ?_⟩
    rw [getE_setE_ne (by decide)]
    exact getE_commitGroup s
  · exact ⟨_, takeRun_committed h hm, startOf_startRunning h, rfl⟩
  · exact ⟨_, takeAbort_prepared h, startOf_setStart s id .aborted, rfl, rfl⟩
  · refine ⟨_, takeAbort_committed h hm, startOf_setStart s id .aborted, rfl, getE_setE_self _ _ _, ?_⟩
    rw [getE_setE_ne (by decide), getE_setE_self]

end Sys2Proof.Machine
end

section
/-! PROOFS. The keystone's job step, its members, and their answers (13 R425 to R430). -/

-- As in the tests: proofs elaborated side by side exhaust memory in the joined text.
set_option Elab.async false

namespace Sys2Proof.Machine

variable {s t u : State} {q : Req} {v id n op k m : Nat} {l : List Nat} {l' : List (Nat × Nat)}

/-! ### Operations that are forwarded (13 R425) -/

/-- One message, in a packet of class 0, to each position of a list. -/
def sendEach (s : State) (w : Nat) (f : Nat → Out) (l : List Nat) : State :=
  forEach s l (fun t c => carryMgmt (emit t (f c)) w c)

theorem sendEach_cons (s : State) (w : Nat) (f : Nat → Out) (c : Nat) (l : List Nat) :
    sendEach s w f (c :: l) = sendEach (carryMgmt (emit s (f c)) w c) w f l := rfl

section
variable {w : Nat} {f : Nat → Out} (hf : ∀ c, hostPackets (f c) = [])
include hf

theorem sendEach_only (l : List Nat) (s : State) : sendEach s w f l =
    { s with out := s.out ++ l.map f, injQ := (sendEach s w f l).injQ, ent := (sendEach s w f l).ent } := by
  induction l generalizing s with
  | nil => simp [sendEach, forEach]
  | cons c l ih =>
    rw [sendEach_cons, ih, carryMgmt_only, emit_local (hf c)]
    simp

theorem sameEntriesBut_sendEach (l : List Nat) (s : State) :
    SameEntriesBut [(0x2052, 1), (0x2052, 2), (0x2052, 3), (0x2052, 4)] s (sendEach s w f l) := by
  induction l generalizing s with
  | nil => exact .refl _ _
  | cons c l ih =>
    rw [sendEach_cons]
    refine SameEntriesBut.trans ?_ (ih _)
    refine (sameEntriesBut_carryMgmt (emit s (f c)) w c).congr ?_ rfl
    rw [emit_local (hf c)]

theorem injQ_sendEach (l : List Nat) (h1 : getE t 0x1020 0x01 = getE s 0x1020 0x01)
    (h2 : getE t 0x2050 0x03 = getE s 0x2050 0x03) : (sendEach t w f l).injQ =
      t.injQ ++ l.map (fun c => (w, mkPacket s (64 * pondOf s + c) 0 5 0 0 [])) := by
  induction l generalizing t with
  | nil => simp [sendEach, forEach]
  | cons c l ih =>
    have hent : (emit t (f c)).ent = t.ent := by rw [emit_local (hf c)]
    have hinj : (emit t (f c)).injQ = t.injQ := by rw [emit_local (hf c)]
    have e1 := (getE_of_ent hent 0x1020 0x01).trans h1
    have e2 := (getE_of_ent hent 0x2050 0x03).trans h2
    have hone := injQ_carryMgmt (s := { s with injQ := t.injQ }) e1 e2 hinj w c
    rw [sendEach_cons, ih ((getE_carryMgmt _ w c (by decide) (by decide) (by decide)).trans e1)
      ((getE_carryMgmt _ w c (by decide) (by decide) (by decide)).trans e2), hone, List.append_assoc]
    rfl

end

/-- The messages of an operation over tree A and over tree B. -/
def jobOpA (op id rec c : Nat) : Out := .jobOp false c op id rec
def jobOpB (op id rec c : Nat) : Out := .jobOp true c op id rec

/-- The children of a position in a tree that lie on the way to a member. -/
def wantedKids (kids : Nat → Nat → List Nat) (s : State) (k m : Nat) : List Nat :=
  (kids k (gridPos s)).filter (wanted (kids k) m)

theorem forwardJob_eq (s : State) (k m op id rec : Nat) : forwardJob s k m op id rec =
    sendEach (sendEach s 0 (jobOpA op id rec) (wantedKids treeAKids s k m)) 1 (jobOpB op id rec) (wantedKids treeBKids s k m) := rfl

theorem sameEntriesBut_forwardJob (s : State) (k m op id rec : Nat) :
    SameEntriesBut [(0x2052, 1), (0x2052, 2), (0x2052, 3), (0x2052, 4)] s (forwardJob s k m op id rec) :=
  (sameEntriesBut_sendEach (fun _ => rfl) _ s).trans (sameEntriesBut_sendEach (fun _ => rfl) _ _)

theorem getE_forwardJob (s : State) (k m op id rec : Nat) {i j : Nat} (hi : i < 65536) (hj : j < 256) (h : i ≠ 0x2052) :
    getE (forwardJob s k m op id rec) i j = getE s i j :=
  sameEntriesBut_forwardJob s k m op id rec i j hi hj (by simp [h])

theorem gridPos_forwardJob (s : State) (k m op id rec : Nat) : gridPos (forwardJob s k m op id rec) = gridPos s :=
  gridPos_congr (getE_forwardJob s k m op id rec (by decide) (by decide) (by decide))

theorem forwardJob_only (s : State) (k m op id rec : Nat) : forwardJob s k m op id rec = { s with
    out := s.out ++ (wantedKids treeAKids s k m).map (jobOpA op id rec) ++ (wantedKids treeBKids s k m).map (jobOpB op id rec),
    injQ := (forwardJob s k m op id rec).injQ, ent := (forwardJob s k m op id rec).ent } := by
  rw [forwardJob_eq, sendEach_only (fun _ => rfl), sendEach_only (fun _ => rfl)]

theorem injQ_forwardJob (s : State) (k m op id rec : Nat) : (forwardJob s k m op id rec).injQ =
    s.injQ ++ (wantedKids treeAKids s k m).map (fun c => (0, mkPacket s (64 * pondOf s + c) 0 5 0 0 [])) ++
      (wantedKids treeBKids s k m).map (fun c => (1, mkPacket s (64 * pondOf s + c) 0 5 0 0 [])) := by
  have hA := sameEntriesBut_sendEach (w := 0) (f := jobOpA op id rec) (fun _ => rfl) (wantedKids treeAKids s k m) s
  rw [forwardJob_eq, injQ_sendEach (s := s) (fun _ => rfl) _ (hA _ _ (by decide) (by decide) (by decide))
    (hA _ _ (by decide) (by decide) (by decide)), injQ_sendEach (s := s) (fun _ => rfl) _ rfl rfl]

/-! ### Operations at this package alone (13 R429) -/

theorem memberOp_direct_some (op v : Nat) {c : Nat}
    (h : ownPart s op (if op = 1 then getE s 0x5010 0x02 else v) l = (t, some c)) :
    memberOp s none op v l = emit t (.jobAnswer [(gridPos s, c)]) := by
  unfold memberOp
  simp only [h]

theorem memberOp_direct_none (op v : Nat) (h : ownPart s op (if op = 1 then getE s 0x5010 0x02 else v) l = (t, none)) :
    memberOp s none op v l = t := by
  unfold memberOp
  simp only [h]

theorem ownPart_prepare (h : takePrepare s v l = (t, n)) : ownPart s 1 v l = (t, some n) := by
  simp [ownPart, h]

theorem ownPart_commit (h : takeCommit s (recStart v) = (t, n)) : ownPart s 2 v l = (t, some n) := by
  simp [ownPart, h]

theorem ownPart_run (h : takeRun s (recStart v) = (t, n)) : ownPart s 3 v l = (t, some n) := by
  simp [ownPart, h]

theorem ownPart_abort (h : takeAbort s (recStart v) = (t, n)) : ownPart s 4 v l = (t, some n) := by
  simp [ownPart, h]

theorem takeTeardown_of_job (h : s.mode = .configured ∨ s.mode = .ready ∨ s.mode = .running) :
    takeTeardown s = (enterDraining s, none) := by
  unfold takeTeardown
  rcases h with h | h | h <;> rw [h]

theorem takeTeardown_of_clean (h : s.mode = .clean ∨ s.mode = .verified) : takeTeardown s = (s, some 0) := by
  unfold takeTeardown
  rcases h with h | h <;> rw [h]

theorem recStart_startOnly (h : id < 2 ^ 32) : recStart (startOnly id) = id := by
  unfold recStart startOnly bits
  rw [Nat.mod_eq_of_lt h]
  omega

/-! ### Operations of the keystone at a member (13 R425, 01 R30) -/

theorem memberOp_foreign (hf : firmwareUp s = true) (hk : fromKeystone s k = false) (op v : Nat) (l : List Nat) :
    memberOp s (some k) op v l = sendMgmt (count s 0x8040 0x01) k (.jobAnswer [(gridPos s, 0x0502)]) := by
  simp [memberOp, hf, hk]

/-- The state of a member that takes an operation for the first time, before it acts. -/
def memberTakes (s : State) (k m op v : Nat) : State :=
  forwardJob { s with jobSeen := some (op, recStart v, false) } k m op (recStart v) (if op = 1 then v else 0)

theorem gridPos_memberTakes (s : State) (k m op v : Nat) : gridPos (memberTakes s k m op v) = gridPos s :=
  (gridPos_forwardJob _ k m op _ _).trans (gridPos_congr (getE_of_ent rfl _ _))

/-- A member with no member below it acts on a new operation and answers up the tree. -/
theorem memberOp_leaf (hf : firmwareUp s = true) (hk : fromKeystone s k = true) (hm : s.mode ≠ .faulted) (hj : s.jobMember = none)
    (hs : s.jobSeen = none) (hop : op ≠ 1) (hmm : m = if s.jobMembers = 0 then 2 ^ 64 - 1 else s.jobMembers)
    (hb : bit (gridPos s) m = true) (hbelow : membersBelow s k m = [])
    (h : ownPart (memberTakes s k m op v) op v l = (t, some n)) :
    memberOp s (some k) op v l = answerUp t false [(gridPos s, n)] := by
  have hpos := gridPos_memberTakes s k m op v
  unfold memberTakes at h hpos
  simp only [if_neg hop, hj] at h hpos
  have hbelow' : membersBelow { s with jobSeen := some (op, recStart v, false) } k m = [] := hbelow
  simp only [hj] at hbelow'
  unfold memberOp
  simp only [hf, hk, hj, hs, hop, ← hmm, if_false, Option.any_none, Bool.false_eq_true, Bool.true_eq_false, false_or, if_neg hm,
    hpos, hb, if_true, h, hbelow', List.map_cons, List.map_nil, List.isEmpty_nil, Bool.or_self]

/-- A prepare brings the member list that later operations use. -/
theorem memberOp_leaf_prepare (hf : firmwareUp s = true) (hk : fromKeystone s k = true) (hm : s.mode ≠ .faulted)
    (hj : s.jobMember = none) (hs : s.jobSeen = none) (hmm : m = if recMembers v = 0 then 2 ^ 64 - 1 else recMembers v)
    (hb : bit (gridPos s) m = true) (hbelow : membersBelow s k m = [])
    (h : ownPart (memberTakes { s with jobMembers := recMembers v } k m 1 v) 1 v l = (t, some n)) :
    memberOp s (some k) 1 v l = answerUp t false [(gridPos s, n)] := by
  have hpos : gridPos (memberTakes { s with jobMembers := recMembers v } k m 1 v) = gridPos s :=
    (gridPos_memberTakes _ k m 1 v).trans (gridPos_congr (getE_of_ent rfl _ _))
  unfold memberTakes at h hpos
  simp only [if_true, hj] at h hpos
  have hbelow' : membersBelow { s with jobMembers := recMembers v, jobSeen := some (1, recStart v, false) } k m = [] := hbelow
  simp only [hj] at hbelow'
  unfold memberOp
  simp only [hf, hk, hj, hs, ← hmm, if_false, Option.any_none, Bool.false_eq_true, Bool.true_eq_false, false_or, if_neg hm,
    hpos, hb, if_true, h, hbelow', List.map_cons, List.map_nil, List.isEmpty_nil, Bool.or_self]

/-! ### The keystone's step (13 R425, R428) -/

/-- POND_JOB_STATUS and the results of a step are stored. -/
def stepResult (s : State) (status waiting refused first : Nat) : State :=
  setE (setE (setE (setE s 0x5010 0x03 status) 0x5010 0x04 waiting) 0x5010 0x05 refused) 0x5010 0x06 first

theorem stepResult_only (s : State) (a b c d : Nat) : stepResult s a b c d = { s with ent := (stepResult s a b c d).ent } := rfl

theorem getE_stepResult_ne (s : State) (a b c d : Nat) {i j : Nat} (hi : i < 65536) (hj : j < 256) (h : i ≠ 0x5010) :
    getE (stepResult s a b c d) i j = getE s i j := by
  have hne (j' : Nat) (hj' : j' < 256) : ekey 0 i j ≠ ekey 0 0x5010 j' :=
    ekey_ne hi hj (by decide) hj' fun e => h (Prod.mk.inj e).1
  unfold stepResult
  rw [getE_setE_ne (hne 6 (by decide)), getE_setE_ne (hne 5 (by decide)), getE_setE_ne (hne 4 (by decide)),
    getE_setE_ne (hne 3 (by decide))]

theorem getE_stepResult (s : State) (a b c d : Nat) :
    getE (stepResult s a b c d) 0x5010 0x03 = a ∧ getE (stepResult s a b c d) 0x5010 0x04 = b ∧
      getE (stepResult s a b c d) 0x5010 0x05 = c ∧ getE (stepResult s a b c d) 0x5010 0x06 = d := by
  unfold stepResult
  refine ⟨?_, ?_, ?_, getE_setE_self _ _ _⟩
  · rw [getE_setE_ne (by decide), getE_setE_ne (by decide), getE_setE_ne (by decide), getE_setE_self]
  · rw [getE_setE_ne (by decide), getE_setE_ne (by decide), getE_setE_self]
  · rw [getE_setE_ne (by decide), getE_setE_self]

/-- The step is in progress: POND_JOB_STATUS 1, and its results at zero. -/
def stepOpened (u : State) : State := stepResult u 1 0 0 0

theorem stepOpened_only (u : State) : stepOpened u = { u with ent := (stepOpened u).ent } := stepResult_only u 1 0 0 0

theorem getE_stepOpened (u : State) {i j : Nat} (hi : i < 65536) (hj : j < 256) (h : i ≠ 0x5010) :
    getE (stepOpened u) i j = getE u i j := getE_stepResult_ne u 1 0 0 0 hi hj h

/-- The step of a keystone that waits for its members. -/
def withStep (s : State) (x : JobStep) : State := { s with jobStep := some x }

theorem ent_withStep (s : State) (x : JobStep) : (withStep s x).ent = s.ent := rfl

/-- A step before its first answer. -/
def stepOf (op v : Nat) : JobStep :=
  { op := op, startId := recStart v, waiting := (List.range 64).filter (fun p => bit p (recMembers v)), answers := [] }

/-- The keystone's step with its operation on the way. -/
def stepSent (u : State) (op v : Nat) : State :=
  withStep (forwardJob (stepOpened u) (gridPos (stepOpened u)) (recMembers v) op (recStart v) (if op = 1 then v else 0)) (stepOf op v)

theorem gridPos_stepOpened (u : State) : gridPos (stepOpened u) = gridPos u :=
  gridPos_congr (getE_stepOpened u (by decide) (by decide) (by decide))

theorem ent_stepSent (u : State) (op v : Nat) : (stepSent u op v).ent =
    (forwardJob (stepOpened u) (gridPos (stepOpened u)) (recMembers v) op (recStart v) (if op = 1 then v else 0)).ent := by
  rw [stepSent, ent_withStep]

/-- An entry outside the step's own and the epochs' reads as before the step. -/
theorem getE_stepSent (u : State) (op v : Nat) {i j : Nat} (hi : i < 65536) (hj : j < 256) (h : i ≠ 0x2052) :
    getE (stepSent u op v) i j = getE (stepOpened u) i j :=
  (getE_of_ent (ent_stepSent u op v) i j).trans (getE_forwardJob _ _ _ _ _ _ hi hj h)

theorem gridPos_stepSent (u : State) (op v : Nat) : gridPos (stepSent u op v) = gridPos u :=
  (gridPos_congr (getE_stepSent u op v (by decide) (by decide) (by decide))).trans (gridPos_stepOpened u)

theorem stepSent_eq (u : State) (op v : Nat) : stepSent u op v =
    withStep (forwardJob (stepOpened u) (gridPos u) (recMembers v) op (recStart v) (if op = 1 then v else 0)) (stepOf op v) := by
  rw [stepSent, gridPos_stepOpened]

/-- A write of POND_JOB_STEP starts a step (13 R425). -/
structure Opens (u : State) (q : Req) : Prop where
  keystone : isKeystone u = true
  idle : getE u 0x5010 0x03 ≠ 1
  op : 1 ≤ q.value ∧ q.value ≤ 5
  mode : u.mode ≠ .faulted

theorem Opens.act_member (h : Opens u q) (hv : v = getE u 0x5010 0x02) (hb : bit (gridPos u) (recMembers v) = true)
    (ho : ownPart (stepSent u q.value v) q.value v l = (t, some n)) :
    actPondJobStep q l u = .done (giveAnswers t [(gridPos u, n)]) := by
  obtain ⟨hk, hs, hq, hm⟩ := h
  have hpos := gridPos_stepSent u q.value v
  rw [actPondJobStep, if_neg (by simp [hk]), if_neg hs, if_neg (by omega), if_neg hm, ← hv, ← hpos]
  refine Eq.trans (if_pos ((congrArg (fun p => bit p (recMembers v)) hpos).trans hb)) ?_
  change (match ownPart (stepSent u q.value v) q.value v l with | (t, some c) => _ | (t, none) => _) = _
  rw [ho]
  rfl

theorem Opens.act_later (h : Opens u q) (hv : v = getE u 0x5010 0x02) (hb : bit (gridPos u) (recMembers v) = true)
    (ho : ownPart (stepSent u q.value v) q.value v l = (t, none)) : actPondJobStep q l u = .done t := by
  obtain ⟨hk, hs, hq, hm⟩ := h
  have hpos := gridPos_stepSent u q.value v
  rw [actPondJobStep, if_neg (by simp [hk]), if_neg hs, if_neg (by omega), if_neg hm, ← hv]
  refine Eq.trans (if_pos ((congrArg (fun p => bit p (recMembers v)) hpos).trans hb)) ?_
  change (match ownPart (stepSent u q.value v) q.value v l with | (t, some c) => _ | (t, none) => _) = _
  rw [ho]

theorem Opens.act_elsewhere (h : Opens u q) (hv : v = getE u 0x5010 0x02) (hb : bit (gridPos u) (recMembers v) = false) :
    actPondJobStep q l u = .done (giveAnswers (stepSent u q.value v) []) := by
  obtain ⟨hk, hs, hq, hm⟩ := h
  have hpos := gridPos_stepSent u q.value v
  rw [actPondJobStep, if_neg (by simp [hk]), if_neg hs, if_neg (by omega), if_neg hm, ← hv]
  exact if_neg (Bool.eq_false_iff.1 ((congrArg (fun p => bit p (recMembers v)) hpos).trans hb))

theorem actPondJobStep_worker (h : isKeystone u = false) : actPondJobStep q l u = .refuse 0x0502 u := if_pos h

theorem actPondJobStep_busy (h : isKeystone u = true) (hs : getE u 0x5010 0x03 = 1) : actPondJobStep q l u = .refuse 0x0601 u := by
  rw [actPondJobStep, if_neg (by simp [h]), if_pos hs]

/-! ### Answers (13 R425, R428) -/

theorem takeAnswers_nil (x : JobStep) : takeAnswers x [] = x := rfl

theorem takeAnswers_waiting {x : JobStep} {p n : Nat} (h : p ∈ x.waiting) :
    takeAnswers x [(p, n)] = { x with waiting := x.waiting.erase p, answers := x.answers ++ [(p, n)] } :=
  if_pos (List.contains_iff_mem.2 h)

theorem takeAnswers_other {x : JobStep} {p n : Nat} (h : p ∉ x.waiting) : takeAnswers x [(p, n)] = x :=
  if_neg (mt List.contains_iff_mem.1 h)

theorem giveAnswers_open {x : JobStep} (h : s.jobStep = some x) (hw : (takeAnswers x l').waiting ≠ []) :
    giveAnswers s l' = withStep s (takeAnswers x l') := by
  unfold giveAnswers
  simp only [h]
  exact if_neg (by simpa using hw)

theorem giveAnswers_ends {x : JobStep} (h : s.jobStep = some x) (hw : (takeAnswers x l').waiting = []) :
    giveAnswers s l' = finishJobStep s (takeAnswers x l') := by
  unfold giveAnswers
  simp only [h, hw]
  rfl

theorem giveAnswers_member {x : JobStep} (h0 : s.jobStep = none) (h : s.jobMember = some x)
    (hw : (takeAnswers x l').waiting = []) :
    giveAnswers s l' = answerUp { s with jobMember := none } false (takeAnswers x l').answers := by
  unfold giveAnswers
  simp only [h0, h, hw]
  rfl

/-- The first refusal of a step: its position and code. -/
def firstRefusal (x : JobStep) : Nat :=
  match minBy (·.1) (refusals x.answers) with
  | some p => p.1 % 64 * 2 ^ 16 + p.2
  | none => 0

theorem finishJobStep_eq (s : State) (x : JobStep) : finishJobStep s x =
    stepResult { s with jobStep := none } (if x.waiting.isEmpty ∧ (refusals x.answers).isEmpty then 2 else 3) (posMask x.waiting)
      (posMask ((refusals x.answers).map (·.1))) (firstRefusal x) := rfl

theorem jobStep_finishJobStep (s : State) (x : JobStep) : (finishJobStep s x).jobStep = none := by
  rw [finishJobStep_eq, stepResult_only]

theorem finishJobStep_only (s : State) (x : JobStep) :
    finishJobStep s x = { s with jobStep := none, ent := (finishJobStep s x).ent } := by
  rw [finishJobStep_eq, stepResult_only]

/-- A good answer is no refusal. -/
theorem refusals_append_singleton {l : List (Nat × Nat)} (h : refusals l = []) (p n : Nat) :
    refusals (l ++ [(p, n)]) = if n = 0 then [] else [(p, n)] := by
  unfold refusals at *
  rw [List.filter_append, h]
  split
  · next hn => simp [hn]
  · next hn => simp [hn]

/-! ### The write of POND_JOB_STEP -/

/-- The five writes of POND_JOB_STEP; only a prepare brings a list. -/
theorem exec_pondJob {q : Req} {l : List Nat} {p : Nat × Instr} (s : State)
    (hp : p ∈ [(1, Instr.pondJobPrepare q l), (2, .pondJobCommit q), (3, .pondJobRun q), (4, .pondJobAbort q),
      (5, .pondJobTeardown q)]) :
    exec p.2 s = run s (serveWrite 0x5010 0x01 q (actPondJobStep q (if p.1 = 1 then l else []))) ∧ 1 ≤ p.1 ∧ p.1 ≤ 5 := by
  simp only [List.mem_cons, List.not_mem_nil, or_false] at hp
  rcases hp with rfl | rfl | rfl | rfl | rfl <;> exact ⟨rfl, Nat.le_of_ble_eq_true rfl, Nat.le_of_ble_eq_true rfl⟩

/-- Members elsewhere: the step waits for at least one. -/
theorem waiting_ne_nil (h : recMembers v ≠ 0) : (List.range 64).filter (fun i => bit i (recMembers v)) ≠ [] := by
  obtain ⟨i, hi⟩ := Nat.exists_testBit_of_ne_zero h
  have hlt : recMembers v < 2 ^ 64 := Nat.mod_lt _ (by decide)
  have hi64 : i < 64 := by
    by_contra hge
    have := Nat.testBit_lt_two_pow (i := i) (lt_of_lt_of_le hlt (Nat.pow_le_pow_right (by decide) (by omega)))
    simp [this] at hi
  intro hnil
  have : i ∈ (List.range 64).filter (fun i => bit i (recMembers v)) := by simp [hi64, bit, hi]
  rw [hnil] at this
  cases this

theorem getE_step_status (u : State) (op v : Nat) : getE (stepSent u op v) 0x5010 0x03 = 1 := by
  rw [getE_stepSent u op v (by decide) (by decide) (by decide)]
  exact (getE_stepResult u 1 0 0 0).1

theorem jobStep_stepSent (u : State) (op v : Nat) : (stepSent u op v).jobStep = some (stepOf op v) := by
  rw [stepSent]
  rfl

/-- What a keystone with members elsewhere alone has done once its step is in progress. -/
theorem stepSent_only (u : State) (op v : Nat) : stepSent u op v = { u with
    ent := (stepSent u op v).ent, jobStep := (stepSent u op v).jobStep, out := (stepSent u op v).out,
    umora := (stepSent u op v).umora, injQ := (stepSent u op v).injQ } := by
  rw [stepSent, forwardJob_only, stepOpened_only]
  rfl

theorem umora_stepSent (u : State) (op v : Nat) : (stepSent u op v).umora = u.umora := by
  rw [stepSent, forwardJob_only, stepOpened_only]
  rfl

theorem out_stepSent (u : State) (op v : Nat) : (stepSent u op v).out = u.out ++
    (wantedKids treeAKids u (gridPos u) (recMembers v)).map (jobOpA op (recStart v) (if op = 1 then v else 0)) ++
    (wantedKids treeBKids u (gridPos u) (recMembers v)).map (jobOpB op (recStart v) (if op = 1 then v else 0)) := by
  rw [stepSent_eq, forwardJob_only, wantedKids, wantedKids, gridPos_stepOpened]
  rfl

theorem injQ_stepSent (u : State) (op v : Nat) : (stepSent u op v).injQ = u.injQ ++
    (wantedKids treeAKids u (gridPos u) (recMembers v)).map (fun c => (0, mkPacket u (64 * pondOf u + c) 0 5 0 0 [])) ++
    (wantedKids treeBKids u (gridPos u) (recMembers v)).map (fun c => (1, mkPacket u (64 * pondOf u + c) 0 5 0 0 [])) := by
  have hpk (c : Nat) : mkPacket (stepOpened u) (64 * pondOf (stepOpened u) + c) 0 5 0 0 [] =
      mkPacket u (64 * pondOf u + c) 0 5 0 0 [] := by
    have hid : getE (stepOpened u) 0x1020 0x01 = getE u 0x1020 0x01 := getE_stepOpened u (by decide) (by decide) (by decide)
    have hp : pondOf (stepOpened u) = pondOf u := by
      unfold pondOf pkgId
      rw [hid]
    rw [mkPacket_congr hid (getE_stepOpened u (by decide) (by decide) (by decide)), hp]
  have hinj : (stepSent u op v).injQ =
      (forwardJob (stepOpened u) (gridPos u) (recMembers v) op (recStart v) (if op = 1 then v else 0)).injQ := by
    rw [stepSent_eq]
    rfl
  rw [hinj, injQ_forwardJob]
  simp only [hpk, wantedKids, gridPos_stepOpened]
  rfl

/-! ### Statement -/

theorem exec_jobPrepare (f : Option Nat) (v : Nat) (l : List Nat) (h0 : s.resetLow = false) :
    exec (.jobPrepare f v l) s = .next (memberOp s f 1 v l) := exec_next (f := fun s => memberOp s f 1 v l) rfl h0

theorem exec_jobCommit (f : Option Nat) (id : Nat) (h0 : s.resetLow = false) :
    exec (.jobCommit f id) s = .next (memberOp s f 2 (startOnly id) []) :=
  exec_next (f := fun s => memberOp s f 2 (startOnly id) []) rfl h0

theorem exec_jobRun (f : Option Nat) (id : Nat) (h0 : s.resetLow = false) :
    exec (.jobRun f id) s = .next (memberOp s f 3 (startOnly id) []) :=
  exec_next (f := fun s => memberOp s f 3 (startOnly id) []) rfl h0

theorem exec_jobAbort (f : Option Nat) (id : Nat) (h0 : s.resetLow = false) :
    exec (.jobAbort f id) s = .next (memberOp s f 4 (startOnly id) []) :=
  exec_next (f := fun s => memberOp s f 4 (startOnly id) []) rfl h0

theorem exec_jobTeardown (f : Option Nat) (h0 : s.resetLow = false) :
    exec (.jobTeardown f) s = .next (memberOp s f 5 0 []) := exec_next (f := fun s => memberOp s f 5 0 []) rfl h0

theorem exec_jobStepAnswer (l : List (Nat × Nat)) (h0 : s.resetLow = false) :
    exec (.jobStepAnswer l) s = .next (giveAnswers s l) := exec_next (f := fun s => giveAnswers s l) rfl h0

theorem exec_jobChildWaitExpiry {x : JobStep} (h0 : s.resetLow = false) (h : s.jobMember = some x) :
    exec .jobChildWaitExpiry s = .next (answerUp { s with jobMember := none } false x.answers) := by
  have hx : exec .jobChildWaitExpiry s = execJobChildWaitExpiry s := rfl
  rw [hx, execJobChildWaitExpiry, run_up h0]
  simp only [h]

theorem exec_jobStepTimeout {x : JobStep} (h0 : s.resetLow = false) (h : s.jobStep = some x) :
    exec .jobStepTimeout s = .next (finishJobStep s x) := by
  have hx : exec .jobStepTimeout s = execJobStepTimeout s := rfl
  rw [hx, execJobStepTimeout, run_up h0]
  simp only [h]

/-- The first part of O32: the operations at a package and at a member. -/
theorem jobSteps_member (h0 : s.resetLow = false) {k m r : Nat} (hf : firmwareUp s = true) (hk : fromKeystone s k = true)
    (hm : s.mode ≠ .faulted) (hj : s.jobMember = none) (hs : s.jobSeen = none)
    (hmm : m = if s.jobMembers = 0 then 2 ^ 64 - 1 else s.jobMembers) (hr : r = recStart (startOnly id))
    (hb : bit (gridPos s) m = true) (hbelow : membersBelow s k m = []) (fwd : Nat → State)
    (hfwd : fwd = fun op => forwardJob { s with jobSeen := some (op, r, false) } k m op r 0) :
    (takeCommit (fwd 2) r = (t, n) → exec (.jobCommit (some k) id) s = .next (answerUp t false [(gridPos s, n)])) ∧
    (takeRun (fwd 3) r = (t, n) → exec (.jobRun (some k) id) s = .next (answerUp t false [(gridPos s, n)])) ∧
    (takeAbort (fwd 4) r = (t, n) → exec (.jobAbort (some k) id) s = .next (answerUp t false [(gridPos s, n)])) := by
  have takes (op : Nat) (hop : op ≠ 1) : memberTakes s k m op (startOnly id) = fwd op := by
    rw [memberTakes, if_neg hop, hfwd, hr]
  refine ⟨fun h => ?_, fun h => ?_, fun h => ?_⟩
  · rw [exec_jobCommit _ _ h0]
    rw [hr] at h
    refine congrArg _ (memberOp_leaf hf hk hm hj hs (by decide) hmm hb hbelow (ownPart_commit ?_))
    rw [takes 2 (by decide), h]
  · rw [exec_jobRun _ _ h0]
    rw [hr] at h
    refine congrArg _ (memberOp_leaf hf hk hm hj hs (by decide) hmm hb hbelow (ownPart_run ?_))
    rw [takes 3 (by decide), h]
  · rw [exec_jobAbort _ _ h0]
    rw [hr] at h
    refine congrArg _ (memberOp_leaf hf hk hm hj hs (by decide) hmm hb hbelow (ownPart_abort ?_))
    rw [takes 4 (by decide), h]

/-- What a step at a keystone with members elsewhere holds and has sent (13 R425). -/
theorem jobSteps_sent (u : State) (op v : Nat) :
    ∃ x, (stepSent u op v).jobStep = some x ∧ x.op = op ∧ x.startId = recStart v ∧ x.answers = [] ∧
      (∀ i, i ∈ x.waiting ↔ i < 64 ∧ bit i (recMembers v) = true) ∧ getE (stepSent u op v) 0x5010 0x03 = 1 ∧
      (stepSent u op v).mode = u.mode ∧
      stepSent u op v = { u with
        ent := (stepSent u op v).ent, jobStep := (stepSent u op v).jobStep, out := (stepSent u op v).out,
        umora := (stepSent u op v).umora, injQ := (stepSent u op v).injQ } ∧
      ∀ k r as bs, k = gridPos u → r = (if op = 1 then v else 0) →
        as = (treeAKids k k).filter (wanted (treeAKids k) (recMembers v)) →
        bs = (treeBKids k k).filter (wanted (treeBKids k) (recMembers v)) →
        (stepSent u op v).out = u.out ++ as.map (fun c => Out.jobOp false c op (recStart v) r) ++
          bs.map (fun c => Out.jobOp true c op (recStart v) r) ∧
        (stepSent u op v).injQ = u.injQ ++ as.map (fun c => (0, mkPacket u (64 * pondOf u + c) 0 5 0 0 [])) ++
          bs.map (fun c => (1, mkPacket u (64 * pondOf u + c) 0 5 0 0 [])) := by
  refine ⟨stepOf op v, jobStep_stepSent u op v, rfl, rfl, rfl, fun i => ?_, getE_step_status u op v, ?_, stepSent_only u op v, ?_⟩
  · simp [stepOf]
  · rw [stepSent_only]
  · rintro k r as bs rfl rfl rfl rfl
    exact ⟨out_stepSent u op v, injQ_stepSent u op v⟩

/-- Settles O32: the operations at a package (`memberOp`), the keystone's step (`stepSent`) and the answers it takes
(`takeAnswers`, `finishJobStep`). -/
theorem jobSteps : Obligations.JobSteps := by
  unfold Obligations.JobSteps
  refine ⟨fun s t v id n l h0 => ⟨fun h => ?_, fun h => ?_, fun h => ?_, fun h => ?_, fun h => ?_, fun h => ?_,
      fun k hf hk u hu => ?_, fun k m r hf hk hm hj hs hmm hr hb hbelow fwd hfwd =>
        jobSteps_member h0 hf hk hm hj hs hmm hr hb hbelow fwd hfwd,
      fun k m u hf hk hm hj hs hmm hb hbelow hu h => ?_, recStart_startOnly⟩,
    fun s u q l v p hp hq ha hu hv => ?_, fun s x p n h0 => ⟨fun h hp hlen y hy => ?_, fun h hw hr => ?_, fun h hp hw => ?_,
      fun h hw => ?_, fun h => exec_jobChildWaitExpiry h0 h, fun hs h hw => ?_⟩⟩
  · rw [exec_jobPrepare _ _ _ h0]
    exact congrArg _ (memberOp_direct_some 1 v (ownPart_prepare h))
  · rw [exec_jobCommit _ _ h0]
    exact congrArg _ (memberOp_direct_some 2 _ (ownPart_commit h))
  · rw [exec_jobRun _ _ h0]
    exact congrArg _ (memberOp_direct_some 3 _ (ownPart_run h))
  · rw [exec_jobAbort _ _ h0]
    exact congrArg _ (memberOp_direct_some 4 _ (ownPart_abort h))
  · rw [exec_jobTeardown _ h0]
    exact congrArg _ (memberOp_direct_none 5 0 (takeTeardown_of_job h))
  · rw [exec_jobTeardown _ h0]
    exact congrArg _ (memberOp_direct_some 5 0 (takeTeardown_of_clean h))
  · rw [hu, exec_jobPrepare _ _ _ h0, exec_jobCommit _ _ h0, exec_jobRun _ _ h0, exec_jobAbort _ _ h0, exec_jobTeardown _ h0]
    refine ⟨?_, ?_, ?_, ?_, ?_⟩ <;> exact congrArg _ (memberOp_foreign hf hk _ _ _)
  · rw [exec_jobPrepare _ _ _ h0]
    refine congrArg _ (memberOp_leaf_prepare hf hk hm hj hs hmm hb hbelow (ownPart_prepare ?_))
    rw [hu] at h
    rw [memberTakes, if_pos rfl, h]
  · obtain ⟨hx, h1, h5⟩ := exec_pondJob s hp
    have hmode : u.mode = s.mode := by rw [hu, mode_takeRequest]
    have done {w : State} (h : actPondJobStep q (if p.1 = 1 then l else []) u = .done w) : Done p.2 0x5010 0x01 q s w :=
      done_of_act hx ha (by rw [← hu, h])
    have opens (hk : isKeystone u = true) (hs : getE u 0x5010 0x03 ≠ 1) (hm : s.mode ≠ .faulted) : Opens u q :=
      ⟨hk, hs, by omega, hmode ▸ hm⟩
    refine ⟨fun hk => ?_, fun hk hs => ?_, fun hk hs hm hb hne => ?_, fun hk hs hm hb w hw => ⟨fun t n ho => ?_, fun t ho => ?_⟩⟩
    · rw [hu]
      exact refused_of_act hx ha (hu ▸ actPondJobStep_worker hk)
    · rw [hu]
      exact refused_of_act hx ha (hu ▸ actPondJobStep_busy hk hs)
    · obtain ⟨x, hstep, hrest⟩ := jobSteps_sent u p.1 v
      refine ⟨stepSent u p.1 v, x, done ?_, hstep, ?_⟩
      · have hopen : giveAnswers (stepSent u p.1 v) [] = stepSent u p.1 v := by
          rw [giveAnswers_open (l' := []) (jobStep_stepSent u p.1 v) (waiting_ne_nil hne), takeAnswers_nil, stepSent]
          rfl
        rw [(opens hk hs hm).act_elsewhere hv hb, hq, hopen]
      · rw [← hmode]
        exact hrest
    · have hw' : w = stepSent u q.value v := by rw [hw, hq, stepSent_eq]; rfl
      rw [hw', hq] at ho
      exact done ((opens hk hs hm).act_member hv hb (by rw [hq]; exact ho))
    · have hw' : w = stepSent u q.value v := by rw [hw, hq, stepSent_eq]; rfl
      rw [hw', hq] at ho
      exact done ((opens hk hs hm).act_later hv hb (by rw [hq]; exact ho))
  · rw [exec_jobStepAnswer _ h0, giveAnswers_open h, takeAnswers_waiting hp, hy]
    · rfl
    · rw [takeAnswers_waiting hp]
      intro hnil
      have hl := List.length_erase_of_mem hp
      rw [show x.waiting.erase p = [] from hnil] at hl
      simp at hl
      omega
  · have hp : p ∈ x.waiting := by simp [hw]
    have he : x.waiting.erase p = [] := by simp [hw]
    have hend : (takeAnswers x [(p, n)]).waiting = [] := by rw [takeAnswers_waiting hp]; exact he
    rw [exec_jobStepAnswer _ h0, giveAnswers_ends h hend, takeAnswers_waiting hp]
    refine ⟨_, rfl, jobStep_finishJobStep _ _, ?_, ?_, ?_, ?_, finishJobStep_only _ _⟩
    all_goals rw [finishJobStep_eq]
    · rw [(getE_stepResult _ _ _ _ _).1]
      simp only [he, refusals_append_singleton hr]
      split_ifs <;> simp_all
    · rw [(getE_stepResult _ _ _ _ _).2.1]
      simp only [he]
      rfl
    · rw [(getE_stepResult _ _ _ _ _).2.2.1]
      simp only [refusals_append_singleton hr]
      split_ifs <;> rfl
    · rw [(getE_stepResult _ _ _ _ _).2.2.2]
      simp only [firstRefusal, refusals_append_singleton hr]
      split_ifs <;> rfl
  · have hother : takeAnswers x [(p, n)] = x := takeAnswers_other hp
    rw [exec_jobStepAnswer _ h0, giveAnswers_open h (by rw [hother]; exact hw), hother, withStep, ← h]
  · refine ⟨_, exec_jobStepTimeout h0 h, jobStep_finishJobStep s x, ?_, ?_, finishJobStep_only s x⟩
    · rw [finishJobStep_eq, (getE_stepResult _ _ _ _ _).1, if_neg]
      rintro ⟨hw', -⟩
      exact hw (List.isEmpty_iff.1 hw')
    · rw [finishJobStep_eq, (getE_stepResult _ _ _ _ _).2.1]
  · have hp : p ∈ x.waiting := by simp [hw]
    have hend : (takeAnswers x [(p, n)]).waiting = [] := by rw [takeAnswers_waiting hp]; simp [hw]
    rw [exec_jobStepAnswer _ h0, giveAnswers_member hs h hend, takeAnswers_waiting hp]

end Sys2Proof.Machine
end

section
/-! PROOFS. Submission rings, prompts and result mailboxes (15 R487 to R492; 13 R442, R443). -/

-- As in the tests: proofs elaborated side by side exhaust memory in the joined text.
set_option Elab.async false

namespace Sys2Proof.Machine

variable {s t u : State} {q : Req} {c f : Nat} {e : RingEntry} {p : Prompt} {extra : List (Nat × Nat × Bool)}

/-! ### Entries that a ring takes (15 R488, R489) -/

theorem exec_ringNop (h0 : s.resetLow = false) (hc : canTake s c = true) : exec (.ringNop c e) s =
    .next (if entryFormOk e = false ∨ e.ride ∨ e.mix then refuseEntry s c e else postEntry (takeEntry s c) c e 0) := by
  have hx : exec (.ringNop c e) s = execRingNop c e s := rfl
  rw [hx, execRingNop, run_up h0, if_neg (by simp [hc])]

theorem exec_ringStep (h0 : s.resetLow = false) (hc : canTake s c = true) (hs : stepsTaken s c = true) :
    exec (.ringStep c e) s =
      .next (if entryFormOk e = false ∨ e.ride ∨ 65535 < e.count ∨ (e.count = 0 ∧ e.mix = false) then refuseEntry s c e
        else finishYield (formStep (takeEntry s c) c (ringOf s c).head e) c) := by
  have hx : exec (.ringStep c e) s = execRingStep c e s := rfl
  rw [hx, execRingStep, run_up h0, if_neg (by simp [hc, hs])]

theorem exec_ringPrefill (h0 : s.resetLow = false) (hc : canTake s c = true) (hs : stepsTaken s c = true) :
    exec (.ringPrefill c e) s =
      .next (if entryFormOk e = false ∨ e.mix ∨ e.count = 0 ∨ 2 ^ 24 < e.count + e.firstPos then refuseEntry s c e
        else if e.ride then
          modCtx (takeEntry s c) c (fun x => { x with prompts := x.prompts ++ [newPrompt e (ringOf s c).head] })
        else finishYield (allChunks c [] (newPrompt e (ringOf s c).head).left (newPrompt e (ringOf s c).head) (takeEntry s c)) c) := by
  have hx : exec (.ringPrefill c e) s = execRingPrefill c e s := rfl
  rw [hx, execRingPrefill, run_up h0, if_neg (by simp [hc, hs])]

theorem modCtx_only (s : State) (c : Nat) (g : Ctx → Ctx) : modCtx s c g = { s with ctxs := (modCtx s c g).ctxs } := rfl

/-- The entry that ends the open prompts leaves none open. -/
def flushTaken (s : State) (c : Nat) : State := modCtx (takeEntry s c) c (fun x => { x with prompts := [] })

theorem exec_ringFlush (h0 : s.resetLow = false) (hc : canTake s c = true) (hs : stepsTaken s c = true) :
    exec (.ringFlush c e) s =
      .next (if entryFormOk e = false ∨ e.ride ∨ e.mix then refuseEntry s c e
        else if (ctxOf s c).prompts.isEmpty then postEntry (flushTaken s c) c e 0
        else finishYield (flushPrompts c (entryPost e).toList (ctxOf s c).prompts (flushTaken s c)) c) := by
  have hx : exec (.ringFlush c e) s = execRingFlush c e s := rfl
  rw [hx, execRingFlush, run_up h0, if_neg (by simp [hc, hs])]
  rfl

theorem takeEntry_only (s : State) (c : Nat) :
    takeEntry s c = { s with rings := (takeEntry s c).rings, ent := (takeEntry s c).ent } := rfl

theorem ctxOf_takeEntry (s : State) (c k : Nat) : ctxOf (takeEntry s c) k = ctxOf s k := by
  rw [takeEntry_only]
  rfl

theorem head_takeEntry (s : State) (c : Nat) :
    (ringOf (takeEntry s c) c).head = ((ringOf s c).head + 1) % max 1 (getE s (0xB100 + c) 0x02) :=
  congrArg Ring.head (ringOf_setRing_self c _)

theorem getE_takeEntry {i j : Nat} (h : ekey 0 i j ≠ ekey 0 0xA0B0 0x04) (s : State) (c : Nat) :
    getE (takeEntry s c) i j = getE s i j :=
  (getE_count_ne h).trans (getE_of_ent rfl i j)

/-! ### The step that an entry forms (13 R442, R443) -/

theorem formStep_plain (hm : e.mix = false) (hc : 1 ≤ e.count) (s : State) (c i : Nat) : formStep s c i e =
    addStep s c e.firstPos (fun g => stepDesc e.firstToken e.count g 0 0 0 i 0 0) (entryPost e).toList := by
  unfold formStep
  simp only [hm]
  exact if_neg (by omega)

theorem addStep_only (s : State) (c first : Nat) (desc : Nat → BitVec 256) (posts : List (Nat × Nat × Bool)) :
    addStep s c first desc posts =
      { s with ctxs := (addStep s c first desc posts).ctxs, ent := (addStep s c first desc posts).ent } := rfl

theorem ctxOf_addStep (s : State) (c first : Nat) (desc : Nat → BitVec 256) (posts : List (Nat × Nat × Bool)) :
    ctxOf (addStep s c first desc posts) c = { ctxOf s c with
      gen := ((ctxOf s c).gen + 1) % 65536,
      steps := (ctxOf s c).steps ++
        [{ desc := desc (((ctxOf s c).gen + 1) % 65536), firstPos := first, posts := posts }] } :=
  ctxOf_modCtx_self (s := s) c fun x => { x with
    gen := ((ctxOf s c).gen + 1) % 65536,
    steps := x.steps ++ [{ desc := desc (((ctxOf s c).gen + 1) % 65536), firstPos := first, posts := posts }] }

theorem ringOf_addStep (s : State) (c first : Nat) (desc : Nat → BitVec 256) (posts : List (Nat × Nat × Bool)) (k : Nat) :
    ringOf (addStep s c first desc posts) k = ringOf s k := rfl

theorem getE_addStep_self (s : State) (c first : Nat) (desc : Nat → BitVec 256) (posts : List (Nat × Nat × Bool)) :
    getE (addStep s c first desc posts) 0xA090 0x08 = (getE s 0xA090 0x08 + 1) % 2 ^ 64 :=
  getE_countBy_self (s := modCtx s c _) 0xA090 0x08 1

theorem getE_addStep_ne {i j : Nat} (h : ekey 0 i j ≠ ekey 0 0xA090 0x08) (s : State) (c first : Nat) (desc : Nat → BitVec 256)
    (posts : List (Nat × Nat × Bool)) : getE (addStep s c first desc posts) i j = getE s i j :=
  (getE_count_ne h).trans (getE_of_ent rfl i j)

/-! ### The chunks of a prompt (13 R442) -/

/-- The tokens of a chunk of a context. -/
def chunkLimit (s : State) (c : Nat) : Nat := max 1 (getE s (0x5100 + c) 0x03)

/-- How many chunks of at most `k` tokens a prompt of `n` tokens takes. -/
def chunkCount (n k : Nat) : Nat := (n + k - 1) / k

theorem chunkCount_of_le {n k : Nat} (h1 : 1 ≤ n) (h : n ≤ k) : chunkCount n k = 1 := by
  unfold chunkCount
  exact Nat.div_eq_of_lt_le (by omega) (by omega)

theorem chunkCount_of_gt {n k : Nat} (hk : 1 ≤ k) (h : k < n) : chunkCount n k = chunkCount (n - k) k + 1 := by
  unfold chunkCount
  rw [show n + k - 1 = (n - k + k - 1) + k by omega, Nat.add_div_right _ (by omega)]

theorem chunkStep_only (s : State) (c : Nat) (p : Prompt) (extra : List (Nat × Nat × Bool)) :
    chunkStep s c p extra =
      { s with ctxs := (chunkStep s c p extra).ctxs, ent := (chunkStep s c p extra).ent } := rfl

/-- A chunk's step stands behind the others, under the next generation. -/
theorem ctxOf_chunkStep (s : State) (c : Nat) (p : Prompt) (extra : List (Nat × Nat × Bool)) :
    ∃ d, (ctxOf (chunkStep s c p extra) c).steps = (ctxOf s c).steps ++
        [{ desc := d, firstPos := 0, posts := promptPost p (chunkSize s c p) ++ extra }] ∧
      (ctxOf (chunkStep s c p extra) c).gen = ((ctxOf s c).gen + 1) % 65536 := by
  have h := ctxOf_addStep (count s 0xA090 0x09) c 0
    (fun g => stepDesc 0 0 g p.first (chunkSize s c p) p.pos 0 p.entry p.chunk) (promptPost p (chunkSize s c p) ++ extra)
  exact ⟨_, congrArg Ctx.steps h, congrArg Ctx.gen h⟩

theorem getE_chunkStep (s : State) (c : Nat) (p : Prompt) (extra : List (Nat × Nat × Bool)) :
    (∀ n ∈ [8, 9], getE (chunkStep s c p extra) 0xA090 n = (getE s 0xA090 n + 1) % 2 ^ 64) ∧
      ∀ i j, ekey 0 i j ≠ ekey 0 0xA090 8 → ekey 0 i j ≠ ekey 0 0xA090 9 → getE (chunkStep s c p extra) i j = getE s i j := by
  refine ⟨fun n hn => ?_, fun i j h8 h9 => (getE_addStep_ne h8 _ c 0 _ _).trans (getE_count_ne h9)⟩
  simp only [List.mem_cons, List.not_mem_nil, or_false] at hn
  rcases hn with rfl | rfl
  · refine (getE_addStep_self _ c 0 _ _).trans ?_
    rw [getE_count_ne (by decide)]
  · have h98 : ekey 0 0xA090 9 ≠ ekey 0 0xA090 8 := by decide
    unfold chunkStep
    dsimp only
    rw [getE_addStep_ne h98]
    exact getE_countBy_self (s := s) 0xA090 9 1

theorem chunkLimit_chunkStep (s : State) (c : Nat) (p : Prompt) (extra : List (Nat × Nat × Bool)) :
    chunkLimit (chunkStep s c p extra) c = chunkLimit s c := by
  unfold chunkLimit
  rw [(getE_chunkStep s c p extra).2 _ _ (by simp only [ekey]; omega) (by simp only [ekey]; omega)]

/-- What the chunks of a prompt leave: `n` more steps, the last with the posts `ps`. -/
structure Chunked (s t : State) (c n : Nat) (ps : List (Nat × Nat × Bool)) : Prop where
  steps : ∃ l x, (ctxOf t c).steps = (ctxOf s c).steps ++ (l ++ [x]) ∧ l.length + 1 = n ∧ (∀ y ∈ l, y.posts = []) ∧ x.posts = ps
  gen : (ctxOf t c).gen % 65536 = ((ctxOf s c).gen + n) % 65536
  counted : ∀ m ∈ [8, 9], getE t 0xA090 m = (getE s 0xA090 m + n) % 2 ^ 64
  other : SameEntriesBut [(0xA090, 8), (0xA090, 9)] s t
  only : t = { s with ctxs := t.ctxs, ent := t.ent }

theorem sameEntriesBut_chunkStep (s : State) (c : Nat) (p : Prompt) (extra : List (Nat × Nat × Bool)) :
    SameEntriesBut [(0xA090, 8), (0xA090, 9)] s (chunkStep s c p extra) := by
  intro i j hi hj hne
  simp only [List.mem_cons, List.not_mem_nil, or_false, not_or] at hne
  exact (getE_chunkStep s c p extra).2 i j (ekey_ne hi hj (by decide) (by decide) hne.1) (ekey_ne hi hj (by decide) (by decide) hne.2)

/-- The last chunk. -/
theorem chunked_last (h : p.left ≤ chunkLimit s c) : Chunked s (chunkStep s c p []) c 1 p.post.toList := by
  have hsize : chunkSize s c p = p.left := min_eq_left h
  obtain ⟨d, hsteps, hgen⟩ := ctxOf_chunkStep s c p []
  refine ⟨⟨[], _, hsteps, rfl, by simp, ?_⟩, ?_, (getE_chunkStep s c p []).1, sameEntriesBut_chunkStep s c p [],
    chunkStep_only s c p []⟩
  · simp [promptPost, hsize]
  · rw [hgen, Nat.mod_mod]

/-- A chunk before others. -/
theorem chunked_cons {n : Nat} {ps : List (Nat × Nat × Bool)} (h : chunkLimit s c < p.left)
    (ht : Chunked (chunkStep s c p []) t c n ps) : Chunked s t c (n + 1) ps := by
  have hsize : chunkSize s c p = chunkLimit s c := min_eq_right h.le
  obtain ⟨d, hsteps, hgen⟩ := ctxOf_chunkStep s c p []
  obtain ⟨⟨l, x, hl, hlen, hall, hx⟩, hg, hcount, hother, honly⟩ := ht
  refine ⟨⟨_ :: l, x, by rw [hl, hsteps, List.append_assoc]; rfl, by simpa using hlen, ?_, hx⟩, ?_, fun m hm => ?_,
    (sameEntriesBut_chunkStep s c p []).trans hother, by rw [honly, chunkStep_only]⟩
  · rintro y (_ | ⟨_, hy⟩)
    · simp only [promptPost, hsize, List.append_nil]
      exact if_neg (by omega)
    · exact hall y hy
  · rw [hg, hgen]
    omega
  · rw [hcount m hm, (getE_chunkStep s c p []).1 m hm]
    omega

theorem left_promptNext (p : Prompt) (n : Nat) : (promptNext p n).left = p.left - n ∧ (promptNext p n).post = p.post := ⟨rfl, rfl⟩

/-- All chunks of a prompt, each in a step of its own (13 R442). -/
theorem chunked_allChunks (hf : p.left ≤ f) (h1 : 1 ≤ p.left) :
    Chunked s (allChunks c [] f p s) c (chunkCount p.left (chunkLimit s c)) p.post.toList := by
  induction f generalizing p s with
  | zero => omega
  | succ f ih =>
    have hk : 1 ≤ chunkLimit s c := le_max_left _ _
    unfold allChunks
    dsimp only
    split
    · next hle =>
      have hle' : p.left ≤ chunkLimit s c := hle.trans (min_le_right _ _)
      rw [chunkCount_of_le h1 hle']
      exact chunked_last hle'
    · next hgt =>
      have hsize : chunkSize s c p = chunkLimit s c ∧ chunkLimit s c < p.left := by
        unfold chunkSize at hgt ⊢
        unfold chunkLimit
        omega
      have hih := ih (s := chunkStep s c p []) (p := promptNext p (chunkSize s c p))
        (by rw [(left_promptNext _ _).1]; omega) (by rw [(left_promptNext _ _).1]; omega)
      rw [(left_promptNext _ _).1, (left_promptNext _ _).2, chunkLimit_chunkStep, hsize.1] at hih
      rw [hsize.1, chunkCount_of_gt hk hsize.2]
      exact chunked_cons hsize.2 hih

/-! ### The other commands of a ring (15 R487, R490, R492) -/

theorem exec_ringCommand (h0 : s.resetLow = false) (hc : canTake s c = true) (hm : s.mode ≠ .dormant) (hq : s.dictQ.length < 64)
    (opc idx sub : Nat) (ok : Bool) (q : Req) : exec (.ringCommand c e opc idx sub ok q) s =
      .next (if commandOk e = false ∨ ok = false then refuseEntry s c e
        else serveOp opc idx sub { q with path := 4, slot := c }
          (setRing (takeEntry s c) c { ringOf (takeEntry s c) c with cmd := some e })) := by
  have hx : exec (.ringCommand c e opc idx sub ok q) s = execRingCommand c e opc idx sub ok q s := rfl
  rw [hx, execRingCommand, run_up h0, if_neg]
  simp only [hc, hm, Bool.true_eq_false, false_or]
  omega

theorem exec_ringReadError (h0 : s.resetLow = false) (hc : canTake s c = true) : exec (.ringReadError c) s =
    .next (raise (setE s (0xB100 + c) 0x05 3) [mkFault 1 0x44 6 6 (some c) 0]) := by
  have hx : exec (.ringReadError c) s = execRingReadError c s := rfl
  rw [hx, execRingReadError, run_up h0, if_neg (by simp [hc])]
  rfl

theorem actSubmitDoorbell_moves (hc : c = viewCtx u 0xB040 0x00 q) (he : getE u (0xB100 + c) 0x03 ≠ 0)
    (hv : q.value < getE u (0xB100 + c) 0x02) :
    actSubmitDoorbell q u = .done (noteRunnable (setE u (0xB100 + c) 0x07 q.value) c) := by
  rw [actSubmitDoorbell, ← hc, if_neg (by omega)]

theorem actSubmitDoorbell_refused (hc : c = viewCtx u 0xB040 0x00 q)
    (h : getE u (0xB100 + c) 0x03 = 0 ∨ getE u (0xB100 + c) 0x02 ≤ q.value) : actSubmitDoorbell q u = .refuse 0x0302 u := by
  rw [actSubmitDoorbell, ← hc, if_pos h]

theorem ring_ekey_ne {j j' : Nat} (h : j ≠ j') : ekey 0 (0xB100 + c) j ≠ ekey 0 (0xB100 + c) j' := by
  unfold ekey
  omega

/-- A ring that is switched off. -/
def ringOff (u : State) (c : Nat) : State := setE (setE u (0xB100 + c) 0x03 0) (0xB100 + c) 0x05 0

theorem ringOff_only (u : State) (c : Nat) : ringOff u c = { u with ent := (ringOff u c).ent } := rfl

theorem getE_ringOff (u : State) (c : Nat) :
    getE (ringOff u c) (0xB100 + c) 0x03 = 0 ∧ getE (ringOff u c) (0xB100 + c) 0x05 = 0 := by
  unfold ringOff
  rw [getE_setE_self, getE_setE_ne (ring_ekey_ne (by decide)), getE_setE_self]
  exact ⟨rfl, rfl⟩

theorem sameEntriesBut_ringOff (u : State) (hc : c < 256) :
    SameEntriesBut [(0xB100 + c, 3), (0xB100 + c, 5)] u (ringOff u c) := by
  unfold ringOff
  exact ((sameEntriesBut_setE u (by omega) (by decide) 0).mono (by simp)).trans
    ((sameEntriesBut_setE _ (by omega) (by decide) 0).mono (by simp))

/-- A ring that is switched on: its head at entry 0, its tail too, and its state Running. -/
def ringOn (u : State) (c : Nat) : State :=
  setE (setE (setE (setRing u c { ringOf u c with head := 0 }) (0xB100 + c) 0x07 0) (0xB100 + c) 0x05 1) (0xB100 + c) 0x03 1

/-- The state differs in entries, rings and mailboxes alone. -/
def OnlyRings (u t : State) : Prop := ∃ e r m, t = { u with ent := e, rings := r, mailboxes := m }

theorem OnlyRings.setE (h : OnlyRings u t) (i j v : Nat) : OnlyRings u (Machine.setE t i j v) := by
  obtain ⟨e, r, m, rfl⟩ := h
  exact ⟨_, _, _, rfl⟩

theorem OnlyRings.clear (h : OnlyRings u t) (c : Nat) : OnlyRings u (clearMailboxes t c) := by
  obtain ⟨e, r, m, rfl⟩ := h
  exact ⟨_, _, _, rfl⟩

theorem OnlyRings.eq (h : OnlyRings u t) : t = { u with ent := t.ent, rings := t.rings, mailboxes := t.mailboxes } := by
  obtain ⟨e, r, m, rfl⟩ := h
  rfl

theorem onlyRings_setRing (u : State) (c : Nat) (x : Ring) : OnlyRings u (setRing u c x) := ⟨_, _, _, rfl⟩

theorem onlyRings_ringOn (u : State) (c : Nat) : OnlyRings u (clearMailboxes (ringOn u c) c) :=
  ((((onlyRings_setRing u c _).setE _ _ _).setE _ _ _).setE _ _ _).clear c

theorem getE_ringOn (u : State) (c : Nat) :
    getE (ringOn u c) (0xB100 + c) 0x03 = 1 ∧ getE (ringOn u c) (0xB100 + c) 0x05 = 1 ∧
      getE (ringOn u c) (0xB100 + c) 0x07 = 0 := by
  unfold ringOn
  refine ⟨getE_setE_self _ _ _, ?_, ?_⟩
  · rw [getE_setE_ne (ring_ekey_ne (by decide)), getE_setE_self]
  · rw [getE_setE_ne (ring_ekey_ne (by decide)), getE_setE_ne (ring_ekey_ne (by decide)), getE_setE_self]

theorem getE_clearMailboxes (s : State) (c i j : Nat) : getE (clearMailboxes s c) i j = getE s i j := getE_of_ent rfl i j

theorem ringOf_clearMailboxes (s : State) (c k : Nat) : ringOf (clearMailboxes s c) k = ringOf s k := rfl

theorem head_ringOn (u : State) (c : Nat) : (ringOf (ringOn u c) c).head = 0 :=
  congrArg Ring.head (ringOf_setRing_self (s := u) c { ringOf u c with head := 0 })

theorem actRingEnable_off (hv : q.value = 0) (he : getE u (0xB100 + c) 0x03 = 1) :
    actRingEnable c q u = .done (ringOff u c) := by
  rw [actRingEnable, if_neg (by omega), if_pos hv]
  rfl

theorem makeAllPosts_of_none (h : s.posts = []) (c : Nat) : makeAllPosts s c = s := by
  unfold makeAllPosts
  rw [h]
  rfl

theorem actRingEnable_on (hv : q.value = 1) (he : getE u (0xB100 + c) 0x03 = 0) (hp : u.posts = []) :
    actRingEnable c q u = .done (clearMailboxes (ringOn u c) c) := by
  rw [actRingEnable, if_neg (by omega), if_neg (by omega)]
  exact congrArg Act.done (makeAllPosts_of_none (s := clearMailboxes (ringOn u c) c) hp c)

theorem actRingResume_on (he : getE u (0xB100 + c) 0x03 = 1) (hr : 2 ≤ getE u (0xB100 + c) 0x05) :
    actRingResume c u = .done (setE u (0xB100 + c) 0x05 1) := by
  rw [actRingResume, if_pos ⟨he, hr⟩]

theorem tlook_filter_ne {α : Type} (t : Tbl α) {keep : Nat → Bool} {k : Nat} (h : keep k = false) :
    tlook (t.filter (fun p => keep p.1)) k = none := by
  induction t with
  | nil => rfl
  | cons p t ih =>
    obtain ⟨a, v⟩ := p
    by_cases ha : keep a = true
    · have hne : a ≠ k := fun e => by simp [e, h] at ha
      simp [ha, tlook, hne, ih]
    · simpa [ha] using ih

/-- The mailboxes of a slot that are cleared read as free. -/
theorem mailboxOf_clearMailboxes (s : State) {m : Nat} (hm : m < 128) :
    mailboxOf (clearMailboxes s c) (mbKey c m) = Mailbox.initial := by
  have hk : ((mbKey c m) / 128 != c) = false := by
    unfold mbKey
    simp
    omega
  have hnone : tlook (s.mailboxes.filter (fun p => p.1 / 128 != c)) (mbKey c m) = none :=
    tlook_filter_ne s.mailboxes (keep := fun k => k / 128 != c) hk
  unfold mailboxOf clearMailboxes tget
  rw [hnone]

theorem actResultRelease_posted {m : Nat} (hc : c = viewCtx u 0xB045 (m + 1) q) (hp : (mailboxOf u (mbKey c m)).posted = true)
    (hs : (mailboxOf u (mbKey c m)).seq = q.value) : actResultRelease m q u =
      .done (makePosts (setMailbox u (mbKey c m) { mailboxOf u (mbKey c m) with posted := false, readBefore := false }) c m) := by
  rw [actResultRelease, ← hc, if_pos ⟨hp, hs⟩]

theorem actResultRelease_refused {m : Nat} (hc : c = viewCtx u 0xB045 (m + 1) q)
    (h : (mailboxOf u (mbKey c m)).posted = false ∨ (mailboxOf u (mbKey c m)).seq ≠ q.value) :
    actResultRelease m q u = .refuse 0x0302 u := by
  rw [actResultRelease, ← hc, if_neg]
  rintro ⟨hp, hs⟩
  simp [hp, hs] at h

/-- Settles O29: each entry by the equation of its command, the chunks of a prompt by induction on the fuel (`Chunked`), and
the other commands by the rule of their entry. -/
theorem rings : Obligations.Rings := by
  unfold Obligations.Rings
  refine ⟨fun s c e h0 hc => ⟨fun hf hr hm => ?_, fun hf => ?_, fun hs => ⟨fun hf hr hm h1 h2 => ?_, fun hf hr hm h1 h2 => ?_,
      fun hf hr hm h1 h2 => ?_, fun hf hr hm hp => ?_, fun hf hr hm h2 => ?_, fun hf hr hm hp => ?_, fun hn => ?_, fun hr => ?_,
      fun hr => ?_⟩⟩,
    fun s c f k p hk hf h1 => ?_,
    fun s h0 => ⟨fun c e opc idx sub q hc hm hq => ⟨fun hok u hu => ?_, ?_⟩, fun c hc => exec_ringReadError h0 hc,
      fun q u c ha hu hc => ⟨fun he hv => ?_, fun h => ?_⟩, fun c q u hc ha hu => ⟨fun hv he => ?_, fun hv he hp => ?_⟩,
      fun c q u hc ha hu he hr => ?_, fun m q u c x ha hu hc hx => ⟨fun hp hseq => ?_, fun h => ?_⟩⟩⟩
  · rw [exec_ringNop h0 hc, if_neg (by simp [hf, hr, hm])]
  · rw [exec_ringNop h0 hc, if_pos (.inl hf)]
  · refine ⟨addStep (takeEntry s c) c e.firstPos (fun g => stepDesc e.firstToken e.count g 0 0 0 (ringOf s c).head 0 0)
      (entryPost e).toList, _, ?_, ?_, ?_, rfl, ?_, ?_, ?_⟩
    · rw [exec_ringStep h0 hc hs, if_neg (by simp [hf, hr]; omega), formStep_plain hm h1]
    · rw [ctxOf_addStep, ctxOf_takeEntry]
    · rw [getE_addStep_self, getE_takeEntry (by decide)]
    · rw [ctxOf_addStep, ctxOf_takeEntry]
    · rw [ringOf_addStep, head_takeEntry]
    · rw [addStep_only, takeEntry_only]
  · refine ⟨modCtx (takeEntry s c) c (fun x => { x with prompts := x.prompts ++ [newPrompt e (ringOf s c).head] }), ?_, ?_, ?_, ?_⟩
    · rw [exec_ringPrefill h0 hc hs, if_neg (by simp [hf, hm]; omega), if_pos hr]
    · rw [ctxOf_modCtx_self, ctxOf_takeEntry]
    · rw [ctxOf_modCtx_self, ctxOf_takeEntry]
    · rw [modCtx_only, takeEntry_only]
  · rw [exec_ringPrefill h0 hc hs, if_neg (by simp [hf, hm]; omega), if_neg (by simp [hr])]
    rfl
  · refine ⟨flushTaken s c, ?_, ?_, by rw [flushTaken, modCtx_only, takeEntry_only]⟩
    · rw [exec_ringFlush h0 hc hs, if_neg (by simp [hf, hr, hm]), if_pos (by simp [hp])]
    · rw [flushTaken, ctxOf_modCtx_self]
  · rw [exec_ringStep h0 hc hs, if_neg (by simp [hf, hr, hm]; omega)]
  · rw [exec_ringFlush h0 hc hs, if_neg (by simp [hf, hr, hm]), if_neg (by simpa using hp)]
    rfl
  · rw [exec_ringPrefill h0 hc hs, if_pos (by simp [hn])]
  · rw [exec_ringFlush h0 hc hs, if_pos (by simp [hr])]
  · rw [exec_ringStep h0 hc hs, if_pos (by simp [hr])]
  · have hlim : chunkLimit s c = k := hk.symm
    obtain ⟨⟨l, x, hl, hlen, hall, hx⟩, hg, hcount, hother, honly⟩ := chunked_allChunks (s := s) (c := c) hf h1
    rw [hlim] at hlen hg hcount
    refine ⟨_, rfl, ?_, hg, ?_, ?_, ?_, hcount, hother, honly⟩
    · rw [hl]
      simp only [List.length_append, List.length_singleton]
      exact congrArg _ hlen
    · rw [hl, List.take_left]
    · rw [hl, List.drop_left, List.dropLast_concat]
      exact hall
    · rw [hl]
      simp [hx]
  · rw [exec_ringCommand h0 hc hm hq, if_neg (by simp [hok]), hu]
  · rw [exec_ringCommand h0 hc hm hq, if_pos (.inr rfl)]
  · exact done_of_act rfl ha (by rw [← hu]; exact actSubmitDoorbell_moves hc he hv)
  · rw [hu]
    exact refused_of_act rfl ha (hu ▸ actSubmitDoorbell_refused hc h)
  · exact ⟨ringOff u c, done_of_act rfl ha (by rw [← hu]; exact actRingEnable_off hv he), (getE_ringOff u c).1,
      (getE_ringOff u c).2, ringOff_only u c, sameEntriesBut_ringOff u hc⟩
  · have hp' : u.posts = [] := by rw [hu, takeRequest_only]; exact hp
    obtain ⟨h3, h5, h7⟩ := getE_ringOn u c
    refine ⟨clearMailboxes (ringOn u c) c, done_of_act rfl ha (by rw [← hu]; exact actRingEnable_on hv he hp'),
      (getE_clearMailboxes _ _ _ _).trans h3, (getE_clearMailboxes _ _ _ _).trans h5, (getE_clearMailboxes _ _ _ _).trans h7,
      (congrArg Ring.head (ringOf_clearMailboxes _ c c)).trans (head_ringOn u c), fun m hm => mailboxOf_clearMailboxes _ hm,
      (onlyRings_ringOn u c).eq⟩
  · exact done_of_act rfl ha (by rw [← hu]; exact actRingResume_on he hr)
  · rw [hx] at hp hseq ⊢
    exact done_of_act rfl ha (by rw [← hu]; exact actResultRelease_posted hc hp hseq)
  · rw [hx] at h
    rw [hu]
    exact refused_of_act rfl ha (hu ▸ actResultRelease_refused hc h)

end Sys2Proof.Machine
end

section
/-! PROOFS. Ports of the fabric: their wiring and their states (10 R297 to R301, R305). -/

-- As in the tests: proofs elaborated side by side exhaust memory in the joined text.
set_option Elab.async false

namespace Sys2Proof.Machine

variable {s t u : State} {p k : Nat} {x y : Port}

/-! ### Wiring (10 R297) -/

theorem slotNames_spec {own j : Nat} (ho : own < 8) (hj : j < 7) :
    slotNames own j < 8 ∧ slotNames own j ≠ own ∧ slotFor (slotNames own j) own < 7 ∧
      slotNames (slotNames own j) (slotFor (slotNames own j) own) = own := by
  unfold slotNames slotFor
  split_ifs <;> omega

theorem slotFor_slotNames (own j : Nat) : slotFor own (slotNames own j) = j := by
  unfold slotNames slotFor
  split_ifs <;> omega

theorem not_isGlobal_iff : isGlobal p = false ↔ p % 16 < 14 := by
  unfold isGlobal portKind
  split_ifs <;> simp <;> omega

/-- A row port and the port that it expects. -/
theorem expected_row {pos : Nat} (hp : p % 16 < 7) :
    expectedPos pos p = 8 * (pos / 8) + slotNames (pos % 8) (p % 16) ∧
      expectedPort pos p = 16 * (p / 16) + slotFor (slotNames (pos % 8) (p % 16)) (pos % 8) := by
  obtain ⟨h1, -, -, -⟩ := slotNames_spec (Nat.mod_lt pos (by decide : 8 > 0)) hp
  have he : expectedPos pos p = 8 * (pos / 8) + slotNames (pos % 8) (p % 16) := if_pos hp
  refine ⟨he, (if_pos hp).trans ?_⟩
  rw [he, show (8 * (pos / 8) + slotNames (pos % 8) (p % 16)) % 8 = slotNames (pos % 8) (p % 16) by omega]

/-- A column port and the port that it expects. -/
theorem expected_column {pos : Nat} (h7 : 7 ≤ p % 16) (hp : p % 16 < 14) :
    expectedPos pos p = 8 * slotNames (pos / 8) (p % 16 - 7) + pos % 8 ∧
      expectedPort pos p = 16 * (p / 16) + 7 + slotFor (slotNames (pos / 8) (p % 16 - 7)) (pos / 8) := by
  have he : expectedPos pos p = 8 * slotNames (pos / 8) (p % 16 - 7) + pos % 8 := if_neg (by omega)
  refine ⟨he, (if_neg (by omega)).trans ?_⟩
  rw [he, show (8 * slotNames (pos / 8) (p % 16 - 7) + pos % 8) / 8 = slotNames (pos / 8) (p % 16 - 7) by omega]

theorem wiring_mutual {pos a b : Nat} (hpos : pos < 64) (hp : p < 32) (hg : isGlobal p = false) (ha : a = expectedPos pos p)
    (hb : b = expectedPort pos p) :
    a < 64 ∧ a ≠ pos ∧ b < 32 ∧ isGlobal b = false ∧ b / 16 = p / 16 ∧ expectedPos a b = pos ∧ expectedPort a b = p := by
  have h14 : p % 16 < 14 := not_isGlobal_iff.1 hg
  by_cases h7 : p % 16 < 7
  · have hc : pos % 8 < 8 := Nat.mod_lt _ (by decide)
    obtain ⟨h1, h2, h3, h4⟩ := slotNames_spec hc h7
    have h5 := slotFor_slotNames (pos % 8) (p % 16)
    obtain ⟨hpa, hpb⟩ := expected_row (pos := pos) h7
    rw [hpa] at ha
    rw [hpb] at hb
    have ha64 : a < 64 := by omega
    have hb7 : b % 16 < 7 := by omega
    obtain ⟨hqa, hqb⟩ := expected_row (pos := a) hb7
    have e1 : a % 8 = slotNames (pos % 8) (p % 16) := by omega
    have e2 : b % 16 = slotFor (slotNames (pos % 8) (p % 16)) (pos % 8) := by omega
    rw [e1, e2, h4] at hqa hqb
    rw [h5] at hqb
    exact ⟨ha64, by omega, by omega, not_isGlobal_iff.2 (by omega), by omega, by omega, by omega⟩
  · have hc : pos / 8 < 8 := by omega
    have hj : p % 16 - 7 < 7 := by omega
    obtain ⟨h1, h2, h3, h4⟩ := slotNames_spec hc hj
    have h5 := slotFor_slotNames (pos / 8) (p % 16 - 7)
    obtain ⟨hpa, hpb⟩ := expected_column (pos := pos) (by omega) h14
    rw [hpa] at ha
    rw [hpb] at hb
    have ha64 : a < 64 := by omega
    have hb7 : 7 ≤ b % 16 ∧ b % 16 < 14 := by omega
    obtain ⟨hqa, hqb⟩ := expected_column (pos := a) hb7.1 hb7.2
    have e1 : a / 8 = slotNames (pos / 8) (p % 16 - 7) := by omega
    have e2 : b % 16 - 7 = slotFor (slotNames (pos / 8) (p % 16 - 7)) (pos / 8) := by omega
    rw [e1, e2, h4] at hqa hqb
    rw [h5] at hqb
    exact ⟨ha64, by omega, by omega, not_isGlobal_iff.2 (by omega), by omega, by omega, by omega⟩

/-! ### Writing a port twice -/

theorem tins_tins {α : Type} (t : Tbl α) (k : Nat) (v w : α) : tins (tins t k v) k w = tins t k w := by
  induction t with
  | nil => simp [tins]
  | cons e t ih =>
    obtain ⟨a, z⟩ := e
    by_cases h1 : a = k
    · simp [tins, h1]
    · by_cases h2 : k < a
      · simp [tins, h1, h2]
      · simp [tins, h1, h2, ih]

theorem tdel_tins {α : Type} (t : Tbl α) (k : Nat) (v : α) : tdel (tins t k v) k = tdel t k := by
  induction t with
  | nil => simp [tins, tdel]
  | cons e t ih =>
    obtain ⟨a, z⟩ := e
    unfold tdel at ih ⊢
    by_cases h1 : a = k
    · simp [tins, h1]
    · by_cases h2 : k < a
      · simp [tins, h1, h2]
      · simp [tins, h1, h2, ih]

theorem tdel_tdel {α : Type} (t : Tbl α) (k : Nat) : tdel (tdel t k) k = tdel t k := by
  simp [tdel, List.filter_filter]

/-- The second of two writes of a key counts, unless the first has removed the key and the second lists it again. -/
theorem tput_tput {α : Type} [DecidableEq α] {d v w : α} (h : v = d → w = d) (t : Tbl α) (k : Nat) :
    tput d (tput d t k v) k w = tput d t k w := by
  unfold tput
  by_cases hv : v = d
  · rw [if_pos hv, if_pos (h hv), if_pos (h hv), tdel_tdel]
  · rw [if_neg hv]
    split
    · exact tdel_tins t k v
    · exact tins_tins t k v w

theorem setPort_setPort (h : x = Port.initial → y = Port.initial) (s : State) (p : Nat) :
    setPort (setPort s p x) p y = setPort s p y := by
  unfold setPort
  dsimp only
  rw [tput_tput h]

/-! ### Control blocks and frames on the link (10 R302, R303) -/

/-- The control block that the port puts on the link. -/
def controlOf (x : Port) (p : Nat) (nak : Bool) : Out :=
  .control p ((List.range 16).map (fun v => tget 0 x.freed v)) x.offOut ((x.rxSeq + 4095) % 4096) nak x.keyPhase

theorem sendControl_eq (s : State) (p : Nat) (nak : Bool) : sendControl s p nak = emit s (controlOf (portOf s p) p nak) := rfl

theorem forEach_sendControl (l : List Nat) (s : State) : forEach s l (fun t _ => sendControl t p false) =
    { s with out := s.out ++ List.replicate l.length (controlOf (portOf s p) p false) } := by
  induction l generalizing s with
  | nil => simp [forEach]
  | cons a l ih =>
    refine (ih (sendControl s p false)).trans ?_
    rw [sendControl_eq, emit_local (o := controlOf (portOf s p) p false) rfl, List.length_cons, List.replicate_succ]
    simp [portOf]

theorem putFrame_eq (s : State) (p : Nat) (f : Sent) : putFrame s p f =
    { setPort s p { portOf s p with blocks := ((portOf s p).blocks + frameBytes f.body / 64) % 20 } with
      out := s.out ++ .frame p (portOf s p).keyPhase f.vc f.seq f.body ::
        List.replicate (((portOf s p).blocks + frameBytes f.body / 64) / 20) (controlOf (portOf s p) p false) } := by
  unfold putFrame
  dsimp only
  rw [forEach_sendControl, List.length_range]
  have h : ∀ o x, portOf (emit (setPort s p x) o) p = x := fun o x => portOf_setPort_self p x
  rw [h, emit_local rfl]
  simp [controlOf, setPort]

theorem portOf_putFrame (s : State) (p : Nat) (f : Sent) : portOf (putFrame s p f) p =
    { portOf s p with blocks := ((portOf s p).blocks + frameBytes f.body / 64) % 20 } := by
  rw [putFrame_eq]
  exact portOf_setPort_self p _

theorem portOf_putFrame_ne (h : k ≠ p) (s : State) (f : Sent) : portOf (putFrame s p f) k = portOf s k := by
  rw [putFrame_eq]
  exact portOf_setPort_ne h _

/-! ### The states of a port (10 R299, R300, R305) -/

theorem isUp_of_state (h : (portOf s p).state = .up) : isUp s p = true := decide_eq_true h

theorem portEnter_of_not_up (h : (portOf s p).state ≠ .up) (st : PortState) :
    portEnter s p st = setPort s p { portOf s p with state := st } := by
  have hu : isUp s p = false := decide_eq_false h
  simp [portEnter, hu]

theorem portEnter_of_up (h : (portOf s p).state = .up) {st : PortState} (hst : st ≠ .up) :
    portEnter s p st = setPort (count s (0xA100 + p) 0x55) p { portOf s p with state := st } :=
  congrArg (fun v => setPort v p { portOf v p with state := st }) (if_pos ⟨isUp_of_state h, hst⟩)

/-- An attempt that is no retrain ends. -/
theorem endAttempt_of_first (h : (portOf s p).state ≠ .up) (hr : (portOf s p).retraining = false) (st : PortState) :
    endAttempt s p st = setPort s p { portOf s p with state := st, helloOk := false } := by
  have hw : ∀ y : Port, { y with state := st } = Port.initial → { y with state := st, helloOk := false } = Port.initial := by
    intro y hy
    have : ({ y with state := st } : Port).helloOk = false := congrArg Port.helloOk hy
    rw [← hy]
    exact congrArg (fun b => { y with state := st, helloOk := b }) this.symm
  unfold endAttempt
  dsimp only
  rw [portEnter_of_not_up h, portOf_setPort_self, setPort_setPort (hw _)]
  unfold failRetrain
  dsimp only
  rw [portOf_setPort_self, if_pos hr]

theorem exec_trainingComplete (h0 : s.resetLow = false) (hx : x = portOf s p) (hst : x.state = .training) :
    exec (.trainingComplete p true) s = .next (emit (fresh (setPort s p { x with state := .authenticating, helloOk := false }))
        (.portHello p x.txSeq (pkgId s) (getE s 0x2020 0x01) s.fuses.identityCert (Config.randomDraw s.nonce).toNat)) ∧
      (x.retraining = false → exec (.trainingComplete p false) s =
        .next (setPort s p { x with state := .down, helloOk := false })) := by
  subst hx
  have he : ∀ ok, exec (.trainingComplete p ok) s = execTrainingComplete p ok s := fun _ => rfl
  refine ⟨?_, fun hr => ?_⟩
  · rw [he, execTrainingComplete, run_up h0, if_neg (not_not.2 hst), if_pos rfl]
    unfold sendHello
    rw [portOf_setPort_self]
    rfl
  · rw [he, execTrainingComplete, run_up h0, if_neg (not_not.2 hst), if_neg (by simp),
      endAttempt_of_first (by rw [hst]; decide) hr]

theorem exec_hello {m : Hello} (h0 : s.resetLow = false) (hx : x = portOf s p) (hst : x.state = .authenticating)
    (hb : s.sec.rngBad = false) (hi : s.sec.identityPresent = true)
    (hu : u = setPort s p { x with peer := some (m.peerPkg, m.peerPort) }) :
    exec (.hello p m) s = .next (if helloKeysOk s m = false then failPort u p .refused
      else if wiredOk s p m.peerPkg m.peerPort = false then failPort u p .miswired
      else if m.flowMode ≠ getE s 0x2020 0x01 ∨ (isGlobal p ∧ onOff s) then failPort u p .refused
      else emit (setPort s p { x with peer := some (m.peerPkg, m.peerPort), helloOk := true }) (.portEcho p x.txSeq)) := by
  subst hx hu
  have he : exec (.hello p m) s = execHello p m s := rfl
  have hc : ¬((portOf s p).state ≠ .authenticating ∨ s.sec.rngBad = true ∨ s.sec.identityPresent = false) := by
    simp [hst, hb, hi]
  rw [he, execHello, run_up h0, if_neg hc]
  have hp : ∀ z : Port, z.peer = some (m.peerPkg, m.peerPort) → z ≠ Port.initial := by
    intro z hz h
    rw [h] at hz
    exact absurd hz (by simp [Port.initial])
  dsimp only
  rw [portOf_setPort_self, setPort_setPort (fun h => absurd h (hp _ rfl))]
  rfl

theorem chosenSplit_setPort (s : State) (k p : Nat) (x : Port) : chosenSplit (setPort s k x) p = chosenSplit s p := rfl

theorem splitOk_setPort (s : State) (k p rt : Nat) (x : Port) (l : List Nat) : splitOk (setPort s k x) p rt l = splitOk s p rt l :=
  rfl

theorem linkKey_setPort (s : State) (k : Nat) (x y : Port) (b : Bool) : linkKey (setPort s k y) x b = linkKey s x b := rfl

theorem portOf_fresh (s : State) (p : Nat) : portOf (fresh s) p = portOf s p := rfl

/-- The port as it enters UP. -/
def upPort (s : State) (p rt : Nat) (x : Port) : Port :=
  { x with
    state := .up, roundTrip := rt, split := chosenSplit s p, retraining := false, helloOk := false, keyPhase := false,
    txKey := linkKey s x true, rxPhase := false, rxKey := linkKey s x false, rxNext := none, rekeying := false,
    mgmtDue := false, frameCtr := x.replay.length }

/-- The state in which the port has entered UP. -/
def upState (s : State) (p rt : Nat) (x : Port) : State :=
  let u := setPort s p { x with roundTrip := rt }
  fresh (setPort u p { upPort s p rt x with offOut := offMaskNext u (upPort s p rt x) })

theorem upState_only (s : State) (p rt : Nat) (x : Port) :
    upState s p rt x = { s with ports := (upState s p rt x).ports, nonce := s.nonce + 1 } := by
  unfold upState
  rfl

theorem portOf_upState (s : State) (p rt : Nat) (x : Port) : portOf (upState s p rt x) p =
    { upPort s p rt x with offOut := offMaskNext (setPort s p { x with roundTrip := rt }) (upPort s p rt x) } := by
  unfold upState
  dsimp only
  rw [portOf_fresh]
  exact portOf_setPort_self p _

theorem portOf_upState_ne (h : k ≠ p) (s : State) (rt : Nat) (x : Port) : portOf (upState s p rt x) k = portOf s k := by
  unfold upState
  dsimp only
  rw [portOf_fresh]
  exact (portOf_setPort_ne h _).trans (portOf_setPort_ne h _)

theorem execEchoFrame_eq {rt : Nat} (h0 : s.resetLow = false) (hst : (portOf s p).state = .authenticating)
    (hh : (portOf s p).helloOk = true) (hs : splitOk s p rt (chosenSplit s p) = true) :
    exec (.echoFrame p rt) s = .next (forEach (upState s p rt (portOf s p)) (portOf s p).replay (fun t f => putFrame t p f)) := by
  have he : exec (.echoFrame p rt) s = execEchoFrame p rt s := rfl
  have hc : ¬((portOf s p).state ≠ .authenticating ∨ (portOf s p).helloOk = false) := by simp [hst, hh]
  rw [he, execEchoFrame, run_up h0]
  dsimp only
  rw [if_neg hc, chosenSplit_setPort, splitOk_setPort, if_neg (by simp [hs])]
  rfl

theorem exec_echoFrame {rt : Nat} (h0 : s.resetLow = false) (hx : x = portOf s p) (hst : x.state = .authenticating)
    (hh : x.helloOk = true) (hs : splitOk s p rt (chosenSplit s p) = true) (hr : x.replay = []) :
    ∃ t, exec (.echoFrame p rt) s = .next t ∧ t = { s with ports := t.ports, nonce := s.nonce + 1 } ∧
      (∀ k, k ≠ p → portOf t k = portOf s k) ∧
      portOf t p = { x with
        state := .up, roundTrip := rt, split := chosenSplit s p, retraining := false, helloOk := false, keyPhase := false,
        txKey := linkKey s x true, rxPhase := false, rxKey := linkKey s x false, rxNext := none, rekeying := false,
        mgmtDue := false, frameCtr := 0, offOut := (portOf t p).offOut } := by
  subst hx
  have he := execEchoFrame_eq h0 hst hh hs
  rw [hr] at he
  refine ⟨upState s p rt (portOf s p), he, upState_only _ _ _ _, fun k hk => portOf_upState_ne hk _ _ _, ?_⟩
  rw [portOf_upState, upPort, hr]
  rfl

/-! ### Retraining and fencing (10 R305) -/

theorem fenced_stays (h : (portOf s p).state = .fenced) : beginRetrain s p = s ∧ fencePort s p = s :=
  ⟨if_pos (.inl h), if_pos h⟩

theorem sameEntriesBut_portCount (s : State) (p j : Nat) (hj : j < 256) : SameEntriesBut [(0xA100 + p, j)] s (count s (0xA100 + p) j) := by
  intro i' j' _ hj' hm
  refine getE_countBy_ne (fun h => hm ?_) 1
  unfold ekey at h
  have h1 : i' = 0xA100 + p := by omega
  have h2 : j' = j := by omega
  simp [h1, h2]

theorem exec_linkLockLoss (h0 : s.resetLow = false) (hst : (portOf s p).state = .up) :
    exec (.linkLockLoss p) s = .next (beginRetrain s p) := by
  have he : exec (.linkLockLoss p) s = execLinkLockLoss p s := rfl
  rw [he, execLinkLockLoss, run_up h0, hst]

theorem beginRetrain_of_up (hx : x = portOf s p) (hst : x.state = .up) (ha : portsAllowed s p = true) :
    ∃ t, t = beginRetrain s p ∧ (portOf t p).state = .training ∧ (portOf t p).retraining = true ∧
      (portOf t p).replay = x.replay ∧ (portOf t p).outQ = x.outQ ∧
      getE t (0xA100 + p) 0x55 = (getE s (0xA100 + p) 0x55 + 1) % 2 ^ 64 ∧ SameEntriesBut [(0xA100 + p, 0x55)] s t := by
  subst hx
  have hc : ¬((portOf s p).state = .fenced ∨ portsAllowed s p = false) := by simp [hst, ha]
  refine ⟨_, rfl, ?_⟩
  rw [beginRetrain, if_neg hc, portEnter_of_up hst (by decide)]
  dsimp only
  simp only [portOf_setPort_self]
  exact ⟨trivial, trivial, trivial, trivial, getE_countBy_self _ _ 1, sameEntriesBut_portCount s p 0x55 (by decide)⟩

/-! ### Rekeying (10 R301, 18 R555) -/

/-- The port's receiving key, its sending phase and its state are as they were. -/
def SameKeys (p : Nat) (s t : State) : Prop :=
  (portOf t p).state = (portOf s p).state ∧ (portOf t p).keyPhase = (portOf s p).keyPhase ∧ (portOf t p).rxKey = (portOf s p).rxKey

theorem SameKeys.trans (h1 : SameKeys p s t) (h2 : SameKeys p t u) : SameKeys p s u := by
  obtain ⟨a1, a2, a3⟩ := h1
  obtain ⟨b1, b2, b3⟩ := h2
  exact ⟨b1.trans a1, b2.trans a2, b3.trans a3⟩

theorem sameKeys_setPort (h1 : x.state = (portOf s p).state) (h2 : x.keyPhase = (portOf s p).keyPhase)
    (h3 : x.rxKey = (portOf s p).rxKey) : SameKeys p s (setPort s p x) := by
  unfold SameKeys
  rw [portOf_setPort_self]
  exact ⟨h1, h2, h3⟩

theorem sameKeys_putFrame (s : State) (p : Nat) (f : Sent) : SameKeys p s (putFrame s p f) := by
  unfold SameKeys
  rw [portOf_putFrame]
  exact ⟨rfl, rfl, rfl⟩

/-- The port with a frame more that waits for its acknowledgement. -/
def keepFrame (x : Port) (f : Sent) : Port :=
  { x with replay := x.replay ++ [f], txSeq := (x.txSeq + 1) % 4096, frameCtr := x.frameCtr + 1 }

/-- The new frame of a port. -/
def newFrame (x : Port) (vc : Nat) (b : FrameBody) : Sent := { seq := x.txSeq, resends := 0, vc := vc, body := b }

theorem sendNew_eq (s : State) (p vc : Nat) (b : FrameBody) : sendNew s p vc b =
    putFrame (setPort s p (keepFrame (portOf s p) (newFrame (portOf s p) vc b))) p (newFrame (portOf s p) vc b) := by
  unfold sendNew keepFrame newFrame
  rfl

theorem sameKeys_sendNew (s : State) (p vc : Nat) (b : FrameBody) : SameKeys p s (sendNew s p vc b) := by
  have h1 : SameKeys p s (setPort s p (keepFrame (portOf s p) (newFrame (portOf s p) vc b))) := sameKeys_setPort rfl rfl rfl
  exact sendNew_eq s p vc b ▸ h1.trans (sameKeys_putFrame _ p (newFrame (portOf s p) vc b))

theorem sameKeys_sendDue (s : State) (p : Nat) : SameKeys p s (sendDue s p) := by
  unfold sendDue
  dsimp only
  split
  · have h1 : SameKeys p s (setPort s p { portOf s p with mgmtDue := false }) := sameKeys_setPort rfl rfl rfl
    exact h1.trans (sameKeys_sendNew _ _ _ _)
  · exact ⟨rfl, rfl, rfl⟩

theorem sameKeys_rfl (h : t.ports = s.ports) : SameKeys p s t := by
  unfold SameKeys portOf
  rw [h]
  exact ⟨rfl, rfl, rfl⟩

/-- The port asks for a rekey: a fresh ephemeral key, and a link-management frame that is due. -/
def askRekey (s : State) (p : Nat) : State :=
  emit (fresh (setPort s p { portOf s p with rekeying := true, mgmtDue := true })) (.portRekey p (Config.randomDraw s.nonce).toNat)

theorem startRekey_of_none (h : (portOf s p).rekeying = false) : startRekey s p = sendDue (askRekey s p) p :=
  if_neg (by simp [h])

theorem sameKeys_startRekey (s : State) (p : Nat) : SameKeys p s (startRekey s p) := by
  cases h : (portOf s p).rekeying with
  | true => rw [startRekey, if_pos h]; exact ⟨rfl, rfl, rfl⟩
  | false =>
    rw [startRekey_of_none h]
    have h1 : SameKeys p s (setPort s p { portOf s p with rekeying := true, mgmtDue := true }) := sameKeys_setPort rfl rfl rfl
    exact (h1.trans (sameKeys_rfl rfl)).trans (sameKeys_sendDue _ p)

theorem exec_rekey (h0 : s.resetLow = false) (hx : x = portOf s p) (hst : x.state = .up) :
    (x.rekeying = true → exec (.rekey p) s = .next s) ∧
      (x.rekeying = false → exec (.rekey p) s = .next (sendDue (emit (fresh (setPort s p { x with
        rekeying := true, mgmtDue := true })) (.portRekey p (Config.randomDraw s.nonce).toNat)) p)) := by
  subst hx
  have he : exec (.rekey p) s = .next (startRekey s p) := by
    have hx : exec (.rekey p) s = execRekey p s := rfl
    rw [hx, execRekey, run_up h0, if_pos (isUp_of_state hst)]
  refine ⟨fun h => ?_, fun h => ?_⟩
  · rw [he, startRekey, if_pos h]
  · rw [he, startRekey_of_none h, askRekey]

theorem exec_rekeyExchange (h0 : s.resetLow = false) (hx : x = portOf s p) (hst : x.state = .up) :
    (∃ b, exec (.rekeyExchange p true) s = .next b ∧ (portOf b p).keyPhase = !x.keyPhase ∧ (portOf b p).frameCtr = 0 ∧
        (portOf b p).rekeying = false ∧ (portOf b p).state = .up ∧ (portOf b p).rxNext.isSome = true ∧
        (portOf b p).rxKey = x.rxKey) ∧
      exec (.rekeyExchange p false) s = .next (failPort s p .refused) := by
  subst hx
  have he : ∀ b, exec (.rekeyExchange p b) s = execRekeyExchange p b s := fun _ => rfl
  obtain ⟨k1, k2, k3⟩ := sameKeys_startRekey s p
  refine ⟨?_, ?_⟩
  · rw [he, execRekeyExchange, run_up h0, if_neg (not_not.2 hst), if_neg (by decide)]
    refine ⟨_, rfl, ?_⟩
    have hp : ∀ (v : State) (z : Port), portOf (fresh (setPort v p z)) p = z := fun v z => portOf_setPort_self p z
    dsimp only
    rw [hp]
    exact ⟨congrArg (!·) k2, rfl, rfl, k1.trans hst, rfl, k3⟩
  · rw [he, execRekeyExchange, run_up h0, if_neg (not_not.2 hst), if_pos rfl]

/-- Settles O51: the wiring by arithmetic on rows and columns, and each event by the port that it writes. -/
theorem ports : Obligations.Ports := by
  refine ⟨fun pos p a b hpos hp hg ha hb => wiring_mutual hpos hp hg ha hb, fun s p x h0 hx => ⟨?_, ?_, ?_, ?_, ?_, ?_, ?_, ?_, ?_, ?_⟩⟩
  · subst hx
    intro hd ha hp
    have he : exec (.portTrainingRetry p) s = execPortTrainingRetry p s := rfl
    rw [he, execPortTrainingRetry, run_up h0, if_pos ⟨hd, ha, hp⟩]
  · exact fun hst => exec_trainingComplete h0 hx hst
  · intro m u hst hb hi hu
    rw [exec_hello h0 hx hst hb hi hu]
    refine ⟨fun h => ?_, fun h1 h2 => ?_, fun h1 h2 h3 => ?_, fun h1 h2 h3 h4 => ?_⟩
    · rw [if_pos h]
    · rw [if_neg (by simp [h1]), if_pos h2]
    · rw [if_neg (by simp [h1]), if_neg (by simp [h2]), if_pos (.inl h3)]
    · rw [if_neg (by simp [h1]), if_neg (by simp [h2]), if_neg]
      rintro (h | ⟨h5, h6⟩)
      · exact h h3
      · rcases h4 with h4 | h4 <;> simp [h4] at h5 h6
  · exact fun rt hst hh hs hr => exec_echoFrame h0 hx hst hh hs hr
  · subst hx
    intro hst hh hr
    have he : exec (.refusalNotice p) s = execRefusalNotice p s := rfl
    rw [he, execRefusalNotice, run_up h0]
    dsimp only
    rw [if_pos ⟨hst, hh⟩, endAttempt_of_first (by rw [hst]; decide) hr]
  · exact fun hst => ⟨exec_linkLockLoss h0 (hx ▸ hst), beginRetrain_of_up hx hst⟩
  · intro hst
    obtain ⟨h1, h2⟩ := exec_rekey h0 hx hst
    obtain ⟨h3, h4⟩ := exec_rekeyExchange h0 hx hst
    exact ⟨h1, h2, h3, h4⟩
  · exact fun q _ ha => done_of_act rfl ha rfl
  · exact fun q _ ha => done_of_act rfl ha rfl
  · exact fun h => fenced_stays (hx ▸ h)

end Sys2Proof.Machine
end

section
/-! PROOFS. Frames, control blocks and transmission of a port (10 R301 to R304, R313 to R315, R327). -/

-- As in the tests: proofs elaborated side by side exhaust memory in the joined text.
set_option Elab.async false

namespace Sys2Proof.Machine

variable {s t u v : State} {p k : Nat} {x y : Port}

/-! ### What traffic of a port changes -/

/-- Only ports, dictionary values and outputs differ. -/
def OnlyPorts (s t : State) : Prop := ∃ ps e o, t = { s with ports := ps, ent := e, out := o }

namespace OnlyPorts

theorem eq (h : OnlyPorts s t) : t = { s with ports := t.ports, ent := t.ent, out := t.out } := by
  obtain ⟨_, _, _, rfl⟩ := h
  rfl

theorem silent (h : OnlyPorts s t) (ho : t.out = s.out) : t = { s with ports := t.ports, ent := t.ent } := by
  have h := h.eq
  rw [ho] at h
  exact h

protected theorem refl (s : State) : OnlyPorts s s := ⟨_, _, _, rfl⟩

theorem trans (h1 : OnlyPorts s t) (h2 : OnlyPorts t u) : OnlyPorts s u := by
  obtain ⟨_, _, _, rfl⟩ := h1
  obtain ⟨ps, e, o, rfl⟩ := h2
  exact ⟨ps, e, o, rfl⟩

theorem setPort (h : OnlyPorts s t) (q : Nat) (y : Port) : OnlyPorts s (Machine.setPort t q y) := h.trans ⟨_, _, _, rfl⟩

theorem setE (h : OnlyPorts s t) (i j n : Nat) : OnlyPorts s (Machine.setE t i j n) := h.trans ⟨_, _, _, rfl⟩

theorem countBy (h : OnlyPorts s t) (i j n : Nat) : OnlyPorts s (Machine.countBy t i j n) := h.setE _ _ _

theorem sendControl (h : OnlyPorts s t) (q : Nat) (b : Bool) : OnlyPorts s (Machine.sendControl t q b) :=
  h.trans ⟨_, _, _, (sendControl_eq t q b).trans (emit_local rfl)⟩

theorem putFrame (h : OnlyPorts s t) (q : Nat) (f : Sent) : OnlyPorts s (Machine.putFrame t q f) :=
  h.trans ⟨_, _, _, putFrame_eq t q f⟩

theorem takeKey (h : OnlyPorts s t) (q : Nat) (b : Bool) : OnlyPorts s (Machine.takeKey t q b) := by
  refine h.trans ?_
  unfold Machine.takeKey
  dsimp only
  split
  · split
    · exact .refl t
    · exact (OnlyPorts.refl t).setPort _ _
  · exact .refl t

theorem noteDepth (h : OnlyPorts s t) (q n : Nat) : OnlyPorts s (Machine.noteDepth t q n) := by
  unfold Machine.noteDepth
  dsimp only
  split
  · exact h.setE _ _ _
  · exact h

theorem countIn (h : OnlyPorts s t) : ∀ b, OnlyPorts s (Machine.countIn t b)
  | .routed _ => h.countBy _ _ _
  | .aqueduct _ | .management | .reserved => h

end OnlyPorts

/-! ### Keys (10 R301) -/

/-- The ports apart from their keys. -/
theorem takeKey_ports (s : State) (p : Nat) (b : Bool) :
    (∃ a c n, portOf (takeKey s p b) p = { portOf s p with rxPhase := a, rxKey := c, rxNext := n }) ∧
      (∀ i, i ≠ p → portOf (takeKey s p b) i = portOf s i) ∧ (takeKey s p b).ent = s.ent ∧ (takeKey s p b).out = s.out := by
  unfold takeKey
  dsimp only
  split
  · split
    · exact ⟨⟨_, _, _, rfl⟩, fun _ _ => rfl, rfl, rfl⟩
    · exact ⟨⟨_, _, _, portOf_setPort_self p _⟩, fun i hi => portOf_setPort_ne hi _, rfl, rfl⟩
  · exact ⟨⟨_, _, _, rfl⟩, fun _ _ => rfl, rfl, rfl⟩

theorem portOf_takeKey {n : BitVec 288} {phase : Bool} (hx : x = portOf s p) (hn : x.rxNext = some n) (hp : phase ≠ x.rxPhase) :
    portOf (takeKey s p phase) p = { x with rxPhase := phase, rxKey := n, rxNext := none } := by
  subst hx
  unfold takeKey
  dsimp only
  rw [hn]
  dsimp only
  rw [if_neg hp]
  exact portOf_setPort_self p _

/-! ### Reception (10 R304, R327) -/

/-- A frame whose code and tag are good and whose SEQ is next, taken: its key and its SEQ. -/
def tookFrame (s : State) (p : Nat) (f : LinkFrame) : State :=
  let u := takeKey (countBy s (0xA100 + p) 0x51 f.fecCorrected) p f.keyPhase
  setPort u p { portOf u p with rxSeq := (f.seq + 1) % 4096 }

theorem tookFrame_ports (s : State) (p : Nat) (f : LinkFrame) :
    (∃ a c n, portOf (tookFrame s p f) p = { portOf s p with rxPhase := a, rxKey := c, rxNext := n, rxSeq := (f.seq + 1) % 4096 }) ∧
      (∀ i, i ≠ p → portOf (tookFrame s p f) i = portOf s i) ∧
      (tookFrame s p f).ent = (countBy s (0xA100 + p) 0x51 f.fecCorrected).ent ∧ (tookFrame s p f).out = s.out ∧
      OnlyPorts s (tookFrame s p f) := by
  obtain ⟨⟨a, c, n, h1⟩, h2, h3, h4⟩ := takeKey_ports (countBy s (0xA100 + p) 0x51 f.fecCorrected) p f.keyPhase
  refine ⟨⟨a, c, n, ?_⟩, fun i hi => (portOf_setPort_ne hi _).trans (h2 i hi), h3, h4,
    (((OnlyPorts.refl s).countBy _ _ _).takeKey _ _).setPort _ _⟩
  refine (portOf_setPort_self p _).trans ?_
  rw [h1]
  rfl

/-- The frame as the receive buffer holds it. -/
def bufferItem (p : Nat) (b : FrameBody) : QItem := { vc := bodyVc b, inPort := p, losses := 0, body := b }

/-- The port with one more packet in its receive buffer. -/
def holdPacket (s : State) (x : Port) (q : QItem) : Port :=
  { x with rx := x.rx ++ [q], offOut := offMaskNext s { x with rx := x.rx ++ [q] } }

theorem controlOf_holdPacket (s : State) (x : Port) (q : QItem) (p : Nat) (b : Bool) : controlOf (holdPacket s x q) p b =
    .control p ((List.range 16).map (fun v => tget 0 x.freed v)) (holdPacket s x q).offOut ((x.rxSeq + 4095) % 4096) b x.keyPhase :=
  rfl

theorem exec_linkFrame_routed {f : LinkFrame} {k : Packet} (h0 : s.resetLow = false) (hup : isUp s p = true)
    (h1 : f.fecUncorrected = 0) (h2 : f.tagOk = true) (h3 : f.seq = (portOf s p).rxSeq) (hb : f.body = .routed k) :
    exec (.linkFrameReceived p f) s = .next (
      let b := received (isGlobal p) (.routed k)
      let u := countIn (tookFrame s p f) b
      if f.bufferOk = false then
        raise (freeCredits (count u (0xA100 + p) 0x56) p (bufferItem p b)) [mkFault 1 0x33 4 p none (detailOf b)]
      else
        sendControl (noteDepth (setPort u p (holdPacket u (portOf u p) (bufferItem p b))) p (bufferItem p b).vc) p false) := by
  have he : exec (.linkFrameReceived p f) s = execLinkFrameReceived p f s := rfl
  have h3' : ¬(f.seq ≠ (portOf (countBy s (0xA100 + p) 0x51 f.fecCorrected) p).rxSeq) := not_not.2 h3
  rw [he, execLinkFrameReceived, run_up h0, if_neg (by simp [hup])]
  dsimp only
  rw [if_neg (not_not.2 h1), if_neg (by simp [h2]), if_neg h3', hb]
  rfl

theorem exec_linkFrame_bad {f : LinkFrame} (h0 : s.resetLow = false) (hup : isUp s p = true)
    (hu : u = countBy s (0xA100 + p) 0x51 f.fecCorrected) :
    (f.fecUncorrected ≠ 0 → exec (.linkFrameReceived p f) s =
      .next (sendControl (countBy u (0xA100 + p) 0x52 f.fecUncorrected) p true)) ∧
    (f.fecUncorrected = 0 → f.tagOk = false → exec (.linkFrameReceived p f) s =
      .next (sendControl (count u (0xA100 + p) 0x53) p true)) ∧
    (f.fecUncorrected = 0 → f.tagOk = true → f.seq ≠ (portOf s p).rxSeq → exec (.linkFrameReceived p f) s =
      .next (sendControl (takeKey u p f.keyPhase) p true)) := by
  subst hu
  have he : exec (.linkFrameReceived p f) s = execLinkFrameReceived p f s := rfl
  rw [he, execLinkFrameReceived, run_up h0, if_neg (by simp [hup])]
  dsimp only
  refine ⟨fun h => ?_, fun h1 h2 => ?_, fun h1 h2 h3 => ?_⟩
  · rw [if_pos h]
  · rw [if_neg (not_not.2 h1), if_pos h2]
  · have h3' : f.seq ≠ (portOf (countBy s (0xA100 + p) 0x51 f.fecCorrected) p).rxSeq := h3
    rw [if_neg (not_not.2 h1), if_neg (by simp [h2]), if_pos h3']

theorem noteDepth_ports (s : State) (p n : Nat) : (noteDepth s p n).ports = s.ports ∧ (noteDepth s p n).out = s.out := by
  unfold noteDepth
  dsimp only
  split <;> exact ⟨rfl, rfl⟩

theorem portOf_of_ports (h : t.ports = s.ports) (i : Nat) : portOf t i = portOf s i := congrArg (tget Port.initial · i) h

theorem sendControl_ports (s : State) (p : Nat) (b : Bool) :
    (sendControl s p b).ports = s.ports ∧ (sendControl s p b).ent = s.ent ∧
      (sendControl s p b).out = s.out ++ [controlOf (portOf s p) p b] := by
  rw [sendControl_eq, emit_local (o := controlOf (portOf s p) p b) rfl]
  exact ⟨rfl, rfl, rfl⟩

theorem exec_linkFrame_taken {f : LinkFrame} {k : Packet} (h0 : s.resetLow = false) (hup : isUp s p = true) (hx : x = portOf s p)
    (h1 : f.fecUncorrected = 0) (h2 : f.tagOk = true) (h3 : f.seq = x.rxSeq) (hb : f.body = .routed k) (h4 : f.bufferOk = true) :
    ∃ t q, exec (.linkFrameReceived p f) s = .next t ∧ (portOf t p).rxSeq = (f.seq + 1) % 4096 ∧ (portOf t p).rx = x.rx ++ [q] ∧
      q.inPort = p ∧ q.body = .routed { k with phase := if isGlobal p then 1 else k.phase, hops := k.hops + 1 } ∧
      (∀ i, i ≠ p → portOf t i = portOf s i) ∧
      t.out = s.out ++ [.control p ((List.range 16).map (fun v => tget 0 x.freed v)) (portOf t p).offOut (f.seq % 4096) false x.keyPhase] ∧
      t = { s with ports := t.ports, ent := t.ent, out := t.out } := by
  subst hx
  have he := exec_linkFrame_routed h0 hup h1 h2 h3 hb
  dsimp only at he
  rw [if_neg (by simp [h4])] at he
  obtain ⟨⟨a, c, n, hp⟩, hne, -, ho, hf⟩ := tookFrame_ports s p f
  let b := received (isGlobal p) (.routed k)
  let w := countIn (tookFrame s p f) b
  let z := setPort w p (holdPacket w (portOf w p) (bufferItem p b))
  obtain ⟨d1, d2⟩ := noteDepth_ports z p (bufferItem p b).vc
  obtain ⟨c1, c2, c3⟩ := sendControl_ports (noteDepth z p (bufferItem p b).vc) p false
  have hz : ∀ i, portOf (sendControl (noteDepth z p (bufferItem p b).vc) p false) i = portOf z i := portOf_of_ports (c1.trans d1)
  have hzp : portOf z p = holdPacket w (portOf w p) (bufferItem p b) := portOf_setPort_self p _
  have hwp : portOf w p = portOf (tookFrame s p f) p := rfl
  refine ⟨_, bufferItem p b, he, ?_, ?_, rfl, rfl, fun i hi => ?_, ?_, ?_⟩
  · rw [hz, hzp, hwp, hp]
    rfl
  · rw [hz, hzp, hwp, hp]
    rfl
  · exact (hz i).trans ((portOf_setPort_ne hi _).trans (hne i hi))
  · refine c3.trans ?_
    rw [d2, hz, portOf_of_ports d1, hzp]
    have hr : ((f.seq + 1) % 4096 + 4095) % 4096 = f.seq % 4096 := by omega
    have ho' : z.out = s.out := ho
    rw [ho', controlOf_holdPacket, hwp, hp]
    dsimp only
    rw [hr]
  · exact ((((hf.countIn b).setPort _ _).noteDepth _ _).sendControl _ _).eq

theorem freeCredits_spec (s : State) (p : Nat) (q : QItem) :
    (portOf (freeCredits s p q) p).rx = (portOf s p).rx ∧ (freeCredits s p q).ent = s.ent := by
  unfold freeCredits
  dsimp only
  split
  · obtain ⟨h1, h2, -⟩ := sendControl_ports (setPort s p { portOf s p with
      freed := tput 0 (portOf s p).freed q.vc ((tget 0 (portOf s p).freed q.vc + frameCredits q.body) % 4096),
      offOut := offMaskNext s { portOf s p with
        freed := tput 0 (portOf s p).freed q.vc ((tget 0 (portOf s p).freed q.vc + frameCredits q.body) % 4096) } }) p false
    refine ⟨?_, h2⟩
    rw [portOf_of_ports h1, portOf_setPort_self]
  · rw [portOf_setPort_self]
    exact ⟨rfl, rfl⟩

theorem portCount_ne {j : Nat} (hp : p < 32) (hj : j < 256) (s : State) {i' j' n : Nat} (h : (0xA100 + p, j) ≠ (i', j'))
    (hi' : i' < 65536) (hj' : j' < 256) : getE (countBy s i' j' n) (0xA100 + p) j = getE s (0xA100 + p) j :=
  getE_countBy_ne (ekey_ne (by omega) hj hi' hj' h) n

theorem exec_linkFrame_spoilt {f : LinkFrame} {k : Packet} (h0 : s.resetLow = false) (hp : p < 32) (hup : isUp s p = true)
    (hx : x = portOf s p) (h1 : f.fecUncorrected = 0) (h2 : f.tagOk = true) (h3 : f.seq = x.rxSeq) (hb : f.body = .routed k)
    (h4 : f.bufferOk = false) :
    ∃ v d, exec (.linkFrameReceived p f) s = .next (raise v [mkFault 1 0x33 4 p none d]) ∧ (portOf v p).rx = x.rx ∧
      getE v (0xA100 + p) 0x56 = (getE s (0xA100 + p) 0x56 + 1) % 2 ^ 64 := by
  subst hx
  have he := exec_linkFrame_routed h0 hup h1 h2 h3 hb
  dsimp only at he
  rw [if_pos h4] at he
  obtain ⟨⟨a, c, n, hpo⟩, -, hent, -, -⟩ := tookFrame_ports s p f
  let w := countIn (tookFrame s p f) (received (isGlobal p) (.routed k))
  obtain ⟨f1, f2⟩ := freeCredits_spec (count w (0xA100 + p) 0x56) p (bufferItem p (received (isGlobal p) (.routed k)))
  refine ⟨_, _, he, f1.trans ?_, ?_⟩
  · have hw : portOf (count w (0xA100 + p) 0x56) p = portOf (tookFrame s p f) p := rfl
    rw [hw, hpo]
  · have hw : getE w (0xA100 + p) 0x56 = getE s (0xA100 + p) 0x56 :=
      (portCount_ne hp (by decide) (tookFrame s p f) (i' := 0x2052) (j' := k.epoch % 4 + 1) (n := 1)
        (fun h => by injection h; omega) (by decide) (by omega)).trans
        ((getE_of_ent hent _ _).trans (portCount_ne hp (by decide) s (by simp) (by omega) (by decide)))
    refine (getE_of_ent f2 _ _).trans ((getE_countBy_self _ _ 1).trans ?_)
    rw [hw]

/-! ### Control blocks (10 R303 to R305) -/

theorem tget_foldl_tput (g : Nat → Nat) (l : List Nat) (t : Tbl Nat) (n : Nat) :
    tget 0 (l.foldl (fun t v => tput 0 t v (g v)) t) n = if n ∈ l then g n else tget 0 t n := by
  induction l generalizing t with
  | nil => rfl
  | cons a l ih =>
    rw [List.foldl_cons, ih]
    by_cases ha : n = a
    · subst ha
      simp [tget_tput_self]
    · simp [tget_tput_ne 0 0 t ha, ha]

/-- A good control block, taken: the codewords counted, its key, and what it says of the frames and of the credits. -/
def tookBlock (s : State) (p : Nat) (b : CtrlBlock) : State :=
  let u := takeKey (countBy (countBy s (0xA100 + p) 0x51 b.fecCorrected) (0xA100 + p) 0x52 b.fecUncorrected) p b.keyPhase
  setPort u p { portOf u p with
    returned := (List.range 16).foldl (fun t v => tput 0 t v (nth 0 b.credits v % 4096)) (portOf u p).returned,
    offIn := b.offMask, replay := afterAck b.ackSeq (portOf u p).replay }

theorem tookBlock_ports (s : State) (p : Nat) (b : CtrlBlock) :
    (∃ a c n, portOf (tookBlock s p b) p = { portOf s p with
      rxPhase := a, rxKey := c, rxNext := n, offIn := b.offMask, replay := afterAck b.ackSeq (portOf s p).replay,
      returned := (List.range 16).foldl (fun t v => tput 0 t v (nth 0 b.credits v % 4096)) (portOf s p).returned }) ∧
    (∀ i, i ≠ p → portOf (tookBlock s p b) i = portOf s i) ∧
    (tookBlock s p b).ent = (countBy (countBy s (0xA100 + p) 0x51 b.fecCorrected) (0xA100 + p) 0x52 b.fecUncorrected).ent ∧
    (tookBlock s p b).out = s.out ∧ OnlyPorts s (tookBlock s p b) := by
  obtain ⟨⟨a, c, n, h1⟩, h2, h3, h4⟩ :=
    takeKey_ports (countBy (countBy s (0xA100 + p) 0x51 b.fecCorrected) (0xA100 + p) 0x52 b.fecUncorrected) p b.keyPhase
  refine ⟨⟨a, c, n, ?_⟩, fun i hi => (portOf_setPort_ne hi _).trans (h2 i hi), h3, h4,
    ((((OnlyPorts.refl s).countBy _ _ _).countBy _ _ _).takeKey _ _).setPort _ _⟩
  refine (portOf_setPort_self p _).trans ?_
  rw [h1]
  rfl

theorem exec_controlBlock {b : CtrlBlock} (h0 : s.resetLow = false) (hup : isUp s p = true) (h1 : b.fecUncorrected = 0)
    (h2 : b.tagOk = true) : exec (.controlBlock p b) s = .next (
      let w := tookBlock s p b
      let again := (portOf w p).replay.map (fun f => { f with resends := f.resends + 1 })
      if b.nak = false then w
      else if again.any (fun f => decide (8 < f.resends)) then beginRetrain w p
      else rekeyAtLimit (forEach (countBy (setPort w p { portOf w p with
        replay := again, frameCtr := (portOf w p).frameCtr + again.length }) (0xA100 + p) 0x54 again.length) again (fun t f => putFrame t p f)) p) := by
  have he : exec (.controlBlock p b) s = execControlBlock p b s := rfl
  rw [he, execControlBlock, run_up h0, if_neg (by simp [hup])]
  dsimp only
  rw [if_neg (by simp [h1, h2]), tookBlock]
  dsimp only
  rw [portOf_setPort_self]

theorem exec_controlBlock_ack {b : CtrlBlock} (h0 : s.resetLow = false) (hp : p < 32) (hup : isUp s p = true)
    (hx : x = portOf s p) (h1 : b.fecUncorrected = 0) (h2 : b.tagOk = true) (h3 : b.nak = false) :
    ∃ t, exec (.controlBlock p b) s = .next t ∧
      t = { s with ports := t.ports, ent := t.ent } ∧ SameEntriesBut [(0xA100 + p, 0x51), (0xA100 + p, 0x52)] s t ∧
      (∀ i, i ≠ p → portOf t i = portOf s i) ∧ (portOf t p).replay = afterAck b.ackSeq x.replay ∧ (portOf t p).offIn = b.offMask ∧
      ∀ v, v < 16 → tget 0 (portOf t p).returned v = nth 0 b.credits v % 4096 := by
  subst hx
  have he := exec_controlBlock h0 hup h1 h2
  dsimp only at he
  rw [if_pos h3] at he
  obtain ⟨⟨a, c, n, hpo⟩, hne, hent, ho, hf⟩ := tookBlock_ports s p b
  refine ⟨_, he, hf.silent ho, ?_, hne, ?_, ?_, fun v hv => ?_⟩
  · have hs : SameEntriesBut [(0xA100 + p, 0x51), (0xA100 + p, 0x52)] s
        (countBy (countBy s (0xA100 + p) 0x51 b.fecCorrected) (0xA100 + p) 0x52 b.fecUncorrected) :=
      ((sameEntriesBut_countBy s (by omega) (by decide) _).mono (by simp)).trans
        ((sameEntriesBut_countBy _ (by omega) (by decide) _).mono (by simp))
    exact fun i j hi hj hm => (getE_of_ent hent i j).trans (hs i j hi hj hm)
  · rw [hpo]
  · rw [hpo]
  · rw [hpo]
    refine (tget_foldl_tput (fun v => nth 0 b.credits v % 4096) _ _ _).trans (if_pos (List.mem_range.2 hv))

theorem exec_controlBlock_bad {b : CtrlBlock} (h0 : s.resetLow = false) (hup : isUp s p = true)
    (h : b.fecUncorrected ≠ 0 ∨ b.tagOk = false) : exec (.controlBlock p b) s =
      .next (countBy (countBy s (0xA100 + p) 0x51 b.fecCorrected) (0xA100 + p) 0x52 b.fecUncorrected) := by
  have he : exec (.controlBlock p b) s = execControlBlock p b s := rfl
  rw [he, execControlBlock, run_up h0, if_neg (by simp [hup])]
  dsimp only
  rw [if_pos h]

/-- The frame that an output is: its port, its channel, its SEQ and its body. -/
def frameOf : Out → Option (Nat × Nat × Nat × FrameBody)
  | .frame q _ v i k => some (q, v, i, k)
  | _ => none

theorem frameOf_controls (n : Nat) (x : Port) (p : Nat) (b : Bool) : (List.replicate n (controlOf x p b)).filterMap frameOf = [] := by
  rw [List.filterMap_replicate_of_none]
  rfl

theorem rekeyAtLimit_below (h : (portOf s p).frameCtr < 2 ^ 48) : rekeyAtLimit s p = s := if_neg (by omega)

/-- Frames go out in their order. -/
theorem forEach_putFrame (l : List Sent) (s : State) : ∃ t, t = forEach s l (fun t f => putFrame t p f) ∧ OnlyPorts s t ∧
    (portOf t p).replay = (portOf s p).replay ∧ (portOf t p).frameCtr = (portOf s p).frameCtr ∧
    t.out.filterMap frameOf = s.out.filterMap frameOf ++ l.map (fun f => (p, f.vc, f.seq, f.body)) := by
  induction l generalizing s with
  | nil => exact ⟨s, rfl, .refl s, rfl, rfl, by simp⟩
  | cons f l ih =>
    obtain ⟨t, ht, hf, hr, hc, ho⟩ := ih (putFrame s p f)
    rw [portOf_putFrame] at hr hc
    refine ⟨t, ht, ((OnlyPorts.refl s).putFrame p f).trans hf, hr, hc, ?_⟩
    rw [ho, putFrame_eq, List.filterMap_append, List.filterMap_cons_some (f := frameOf) (b := (p, f.vc, f.seq, f.body)) rfl, frameOf_controls]
    simp

theorem exec_controlBlock_nak {b : CtrlBlock} {again : List Sent} (h0 : s.resetLow = false) (hup : isUp s p = true)
    (hx : x = portOf s p) (h1 : b.fecUncorrected = 0) (h2 : b.tagOk = true) (h3 : b.nak = true)
    (ha : again = (afterAck b.ackSeq x.replay).map (fun f => { f with resends := f.resends + 1 }))
    (hc : x.frameCtr + again.length < 2 ^ 48) (hr : again.any (fun f => decide (8 < f.resends)) = false) :
    ∃ t, exec (.controlBlock p b) s = .next t ∧ (portOf t p).replay = again ∧
      t.out.filterMap frameOf = s.out.filterMap frameOf ++ again.map (fun f => (p, f.vc, f.seq, f.body)) ∧
      t = { s with ports := t.ports, ent := t.ent, out := t.out } := by
  subst hx
  have he := exec_controlBlock h0 hup h1 h2
  obtain ⟨⟨a, c, n, hpo⟩, -, -, ho, hf⟩ := tookBlock_ports s p b
  have hre : (portOf (tookBlock s p b) p).replay = afterAck b.ackSeq (portOf s p).replay := by rw [hpo]
  have hfr : (portOf (tookBlock s p b) p).frameCtr = (portOf s p).frameCtr := by rw [hpo]
  dsimp only at he
  rw [if_neg (by simp [h3]), hre, hfr, ← ha, if_neg (by simp [hr])] at he
  let w := countBy (setPort (tookBlock s p b) p { portOf (tookBlock s p b) p with
    replay := again, frameCtr := (portOf s p).frameCtr + again.length }) (0xA100 + p) 0x54 again.length
  have hw : portOf w p = { portOf (tookBlock s p b) p with
    replay := again, frameCtr := (portOf s p).frameCtr + again.length } := portOf_setPort_self p _
  obtain ⟨t, ht, tf, tr, tc, tout⟩ := forEach_putFrame (p := p) again w
  rw [hw] at tr tc
  have he' : exec (.controlBlock p b) s = .next (rekeyAtLimit t p) := ht ▸ he
  rw [rekeyAtLimit_below (by rw [tc]; exact hc)] at he'
  refine ⟨t, he', tr, ?_, ((hf.setPort _ _).countBy _ _ _ |>.trans tf).eq⟩
  rw [tout]
  exact congrArg (fun o => List.filterMap frameOf o ++ _) ho

/-! ### Arbitration (10 R313, R314) -/

theorem mem_headsOf_foldl (l acc : List QItem) {q : QItem}
    (h : q ∈ l.foldl (fun l q => if l.any (fun h => h.inPort == q.inPort && h.vc == q.vc) then l else l ++ [q]) acc) :
    q ∈ acc ∨ q ∈ l := by
  induction l generalizing acc with
  | nil => exact .inl h
  | cons a l ih =>
    rcases ih _ h with h | h
    · dsimp only at h
      split at h
      · exact .inl h
      · rcases List.mem_append.1 h with h | h
        · exact .inl h
        · exact .inr (List.mem_singleton.1 h ▸ List.mem_cons_self)
    · exact .inr (List.mem_cons_of_mem _ h)

theorem mem_headsOf {q : QItem} (h : q ∈ headsOf x) : q ∈ x.outQ :=
  (mem_headsOf_foldl x.outQ [] h).resolve_left List.not_mem_nil

/-- The heads that may go. -/
def eligibleHeads (s : State) (p : Nat) : List QItem := (headsOf (portOf s p)).filter (fun q => eligible s p q.body)

theorem mem_eligibleHeads {q : QItem} (h : q ∈ eligibleHeads s p) : q ∈ (portOf s p).outQ ∧ eligible s p q.body = true := by
  obtain ⟨h1, h2⟩ := List.mem_filter.1 h
  exact ⟨mem_headsOf h1, h2⟩

/-- The winner is the head of an input channel that may go: an aqueduct's, the oldest, or the round robin's. -/
theorem arbitrate_mem {q : QItem} {d : Tbl Nat} {rr : Nat} {aged : Bool} (h : arbitrate s p = some (q, d, rr, aged)) :
    q ∈ eligibleHeads s p := by
  unfold arbitrate at h
  dsimp only at h
  split at h
  case h_1 q' hq =>
    cases h
    exact List.mem_of_find?_eq_some hq
  case h_2 =>
    split at h
    case h_1 q' hq =>
      cases h
      exact (List.mem_filter.1 (minBy_spec _ hq).1).1
    case h_2 =>
      split at h
      · cases h
      · split at h
        · obtain ⟨q', hq, he⟩ := Option.map_eq_some_iff.1 h
          cases he
          exact List.mem_of_find?_eq_some hq
        · cases h

/-! ### Transmission (10 R302, R304, R327) -/

/-- A head that has lost once more. -/
def loseOnce (hs : List QItem) (h : QItem) : QItem := if hs.contains h then { h with losses := h.losses + 1 } else h

/-- The port without the frame that it sends. -/
def servedPort (hs : List QItem) (x : Port) (q : QItem) (v : Nat) (d : Tbl Nat) (rr : Nat) : Port :=
  { x with
    outQ := (x.outQ.erase q).map (loseOnce hs),
    used := tput 0 x.used v ((tget 0 x.used v + frameCredits q.body) % 4096), deficit := d, rrNext := rr }

/-- What a port counts of a frame that it sends. -/
def sentCounts (s : State) (p v : Nat) (b : FrameBody) (aged : Bool) : State :=
  let u := countBy (count s (0xA100 + p) (v + 1)) (0xA100 + p) (0x11 + v) (bodyBytes b)
  if aged then count u (0xA100 + p) 0x58 else u

theorem sentCounts_spec (s : State) (b : FrameBody) (aged : Bool) {n : Nat} (hp : p < 32) (hn : n < 16) :
    (sentCounts s p n b aged).ports = s.ports ∧ (sentCounts s p n b aged).out = s.out ∧
      getE (sentCounts s p n b aged) (0xA100 + p) (n + 1) = (getE s (0xA100 + p) (n + 1) + 1) % 2 ^ 64 := by
  have h : getE (countBy (count s (0xA100 + p) (n + 1)) (0xA100 + p) (0x11 + n) (bodyBytes b)) (0xA100 + p) (n + 1) =
      (getE s (0xA100 + p) (n + 1) + 1) % 2 ^ 64 :=
    (portCount_ne hp (by omega) _ (fun h => by injection h; omega) (by omega) (by omega)).trans (getE_countBy_self _ _ 1)
  unfold sentCounts
  dsimp only
  split
  · exact ⟨rfl, rfl, (portCount_ne hp (by omega) _ (fun h => by injection h; omega) (by omega) (by omega)).trans h⟩
  · exact ⟨rfl, rfl, h⟩

theorem sendDue_of_none (h : (portOf s p).mgmtDue = false) : sendDue s p = s := by
  unfold sendDue
  dsimp only
  rw [h]
  rfl

theorem exec_frameTransmit {q : QItem} {d : Tbl Nat} {rr : Nat} {aged : Bool} (h0 : s.resetLow = false) (hup : isUp s p = true)
    (hm : (portOf s p).mgmtDue = false) (h : arbitrate s p = some (q, d, rr, aged)) (hf : replayFits (portOf s p) q.body = true) :
    (∃ l, exec (.frameTransmit p true) s = .next (rekeyAtLimit (sendNew (sentCounts (setPort { s with aqBurst := l } p
        (servedPort (eligibleHeads s p) (portOf s p) q (outVc p q.body) d rr)) p (outVc p q.body) q.body aged)
          p (outVc p q.body) q.body) p)) ∧
      exec (.frameTransmit p false) s = .next (raise (count (setPort s p { portOf s p with outQ := (portOf s p).outQ.erase q })
        (0xA100 + p) 0x56) [mkFault 1 0x33 4 p none (detailOf q.body)]) := by
  have he : ∀ b, exec (.frameTransmit p b) s = execFrameTransmit p b s := fun _ => rfl
  have hg : (arbitrate s p).filter (fun r => replayFits (portOf s p) r.1.body) = some (q, d, rr, aged) := by
    rw [h, Option.filter_some, if_pos hf]
  refine ⟨?_, ?_⟩
  · rw [he, execFrameTransmit, run_up h0, if_neg (by simp [hup]), sendDue_of_none hm]
    dsimp only
    rw [hg]
    dsimp only
    rw [if_neg (by decide)]
    have hb : ({ s with aqBurst := s.aqBurst } : State) = s := rfl
    unfold sentCounts servedPort loseOnce eligibleHeads
    cases aqEntryOf s p q with
    | none =>
      refine ⟨s.aqBurst, ?_⟩
      rw [hb]
    | some e =>
      refine ⟨tput (0, 0) s.aqBurst e.1 (aqTaken s s.aqBurst e.1 (aqRate e.2) + 10 * bodyBytes q.body, now s), ?_⟩
      dsimp only
  · rw [he, execFrameTransmit, run_up h0, if_neg (by simp [hup]), sendDue_of_none hm]
    dsimp only
    rw [hg]
    dsimp only
    rw [if_pos rfl, raise1]

theorem exec_frameTransmit_idle {b : Bool} (h0 : s.resetLow = false) (hup : isUp s p = true)
    (hm : (portOf s p).mgmtDue = false) (h : arbitrate s p = none) :
    exec (.frameTransmit p b) s = .next (sendControl s p false) := by
  have he : exec (.frameTransmit p b) s = execFrameTransmit p b s := rfl
  rw [he, execFrameTransmit, run_up h0, if_neg (by simp [hup]), sendDue_of_none hm]
  dsimp only
  rw [h]
  rfl

theorem exec_frameTransmit_sent {q : QItem} {d : Tbl Nat} {rr n : Nat} {aged : Bool} (h0 : s.resetLow = false) (hp : p < 32)
    (hup : isUp s p = true) (hx : x = portOf s p) (hm : x.mgmtDue = false) (hf : replayFits x q.body = true)
    (h : arbitrate s p = some (q, d, rr, aged)) (hn : n = outVc p q.body) (hn16 : n < 16) (hc : x.frameCtr + 1 < 2 ^ 48) :
    ∃ t l, exec (.frameTransmit p true) s = .next t ∧
      t.out = s.out ++ .frame p x.keyPhase n x.txSeq q.body :: l ∧ (∀ o ∈ l, ∃ a b c e g, o = .control p a b c e g) ∧
      l.length = (x.blocks + frameBytes q.body / 64) / 20 ∧
      (portOf t p).replay = x.replay ++ [{ seq := x.txSeq, resends := 0, vc := n, body := q.body }] ∧
      (portOf t p).txSeq = (x.txSeq + 1) % 4096 ∧ (portOf t p).outQ.length + 1 = x.outQ.length ∧
      tget 0 (portOf t p).used n = (tget 0 x.used n + frameCredits q.body) % 4096 ∧
      (∀ i, i ≠ n → tget 0 (portOf t p).used i = tget 0 x.used i) ∧ (∀ i, i ≠ p → portOf t i = portOf s i) ∧
      getE t (0xA100 + p) (n + 1) = (getE s (0xA100 + p) (n + 1) + 1) % 2 ^ 64 ∧ q ∈ x.outQ ∧ eligible s p q.body = true := by
  subst hx hn
  obtain ⟨⟨l, he⟩, -⟩ := exec_frameTransmit h0 hup hm h hf
  obtain ⟨hq, hel⟩ := mem_eligibleHeads (arbitrate_mem h)
  let y := servedPort (eligibleHeads s p) (portOf s p) q (outVc p q.body) d rr
  let w := setPort { s with aqBurst := l } p y
  let u := sentCounts w p (outVc p q.body) q.body aged
  let f := newFrame (portOf s p) (outVc p q.body) q.body
  let z := setPort u p (keepFrame y f)
  obtain ⟨c1, c2, c3⟩ := sentCounts_spec w q.body aged hp hn16
  have hu : portOf u p = y := (portOf_of_ports c1 p).trans (portOf_setPort_self p y)
  have hs : sendNew u p (outVc p q.body) q.body = putFrame z p f := by
    rw [sendNew_eq, hu]
    rfl
  have hz : portOf z p = keepFrame y f := portOf_setPort_self p _
  have ht : portOf (putFrame z p f) p = { keepFrame y f with
      blocks := ((keepFrame y f).blocks + frameBytes f.body / 64) % 20 } := by rw [portOf_putFrame, hz]
  have he' : exec (.frameTransmit p true) s = .next (rekeyAtLimit (putFrame z p f) p) := hs ▸ he
  rw [rekeyAtLimit_below (by rw [ht]; exact hc)] at he'
  have hout : (putFrame z p f).out = s.out ++ .frame p (portOf s p).keyPhase (outVc p q.body) (portOf s p).txSeq q.body ::
      List.replicate (((portOf s p).blocks + frameBytes q.body / 64) / 20) (controlOf (keepFrame y f) p false) := by
    rw [putFrame_eq, hz]
    exact congrArg (· ++ _) c2
  refine ⟨_, _, he', hout, fun o ho => ?_, List.length_replicate, ?_, ?_, ?_, ?_, fun i hi => ?_, fun i hi => ?_, ?_, hq, hel⟩
  · rw [List.eq_of_mem_replicate ho]
    exact ⟨_, _, _, _, _, rfl⟩
  · rw [ht]
    rfl
  · rw [ht]
    rfl
  · have hl : (((portOf s p).outQ.erase q).map (loseOnce (eligibleHeads s p))).length + 1 = (portOf s p).outQ.length := by
      rw [List.length_map, List.length_erase_add_one hq]
    rw [ht]
    exact hl
  · rw [ht]
    exact tget_tput_self 0 _ _ _
  · rw [ht]
    exact tget_tput_ne 0 0 _ hi _
  · rw [portOf_putFrame_ne hi]
    exact (portOf_setPort_ne hi _).trans ((portOf_of_ports c1 i).trans (portOf_setPort_ne hi _))
  · rw [putFrame_eq]
    exact c3

/-- Settles O52: each event by the port that it leaves, the frames and control blocks by the outputs that they add. -/
theorem linkFrames : Obligations.LinkFrames := by
  intro s p x h0 hp hx hup
  refine ⟨fun f k h1 h2 h3 hb h4 => exec_linkFrame_taken h0 hup hx h1 h2 h3 hb h4, fun f u hu => ?_,
    fun k phase hn hph t ht => ht ▸ portOf_takeKey hx hn hph, fun b h1 h2 h3 => exec_controlBlock_ack h0 hp hup hx h1 h2 h3,
    fun b h => exec_controlBlock_bad h0 hup h, fun b again h1 h2 h3 ha hc hr => exec_controlBlock_nak h0 hup hx h1 h2 h3 ha hc hr,
    fun q d rr aged v hm hl hb ha hv hv16 => ?_, fun b hm ha => exec_frameTransmit_idle h0 hup (hx ▸ hm) ha⟩
  · obtain ⟨h1, h2, h3⟩ := exec_linkFrame_bad (f := f) h0 hup hu
    exact ⟨h1, h2, fun e1 e2 e3 => h3 e1 e2 (hx ▸ e3), fun k e1 e2 e3 hb h4 => exec_linkFrame_spoilt h0 hp hup hx e1 e2 e3 hb h4⟩
  · have hf : replayFits x q.body = true := by simp [replayFits, hl, hb]
    refine ⟨fun hc => exec_frameTransmit_sent h0 hp hup hx hm hf ha hv hv16 hc, ?_⟩
    subst hx
    exact (exec_frameTransmit h0 hup hm ha hf).2

end Sys2Proof.Machine
end

section
/-! PROOFS. Routing tables, epochs and the epoch step of a pond (10 R329 to R338). -/

-- As in the tests: proofs elaborated side by side exhaust memory in the joined text.
set_option Elab.async false

namespace Sys2Proof.Machine

variable {s t u v : State} {q : Req} {e n op own code : Nat} {ms : List Nat} {c : Instr}

/-! ### TABLE_INSTALL, INJECT_EPOCH and TABLE_RETIRE (10 R329 to R333) -/

theorem tables_takeRequest (s : State) (q : Req) : (takeRequest s q).tables = s.tables := by rw [takeRequest_only]

theorem stalledInj_takeRequest (s : State) (q : Req) : (takeRequest s q).stalledInj = s.stalledInj := by rw [takeRequest_only]

theorem epochLive_takeRequest (s : State) (q : Req) (e : Nat) : epochLive (takeRequest s q) e = epochLive s e :=
  congrArg (fun t => (tlook t e).isSome) (tables_takeRequest s q)

theorem actTableInstall_illegal (h : 4 ≤ e ∨ stagingOk u (getE u 0x2050 0x01) = false) :
    actTableInstall e u = .refuse 0x0302 u := if_pos h

theorem actTableInstall_same (h1 : e < 4) (h2 : stagingOk u (getE u 0x2050 0x01) = true)
    (h3 : tlook u.tables e = some (getE u 0x2050 0x01)) : actTableInstall e u = .done u := by
  unfold actTableInstall
  dsimp only
  rw [if_neg (by simp [h2]; omega), if_pos h3]

theorem actTableInstall_full (h1 : e < 4) (h2 : stagingOk u (getE u 0x2050 0x01) = true)
    (h3 : tlook u.tables e ≠ some (getE u 0x2050 0x01)) (h4 : 2 ≤ (u.tables.filter (fun x => x.1 != e)).length) :
    actTableInstall e u = .refuse 0x0601 u := by
  unfold actTableInstall
  dsimp only
  rw [if_neg (by simp [h2]; omega), if_neg h3, if_pos (.inl h4)]

/-- The epoch is live with the staged tables, none of its packets counted yet and no drop of it reported. -/
def epochInstalled (u : State) (e : Nat) : State :=
  { setE u 0x2052 (e + 1) 0 with
    tables := tins u.tables e (getE u 0x2050 0x01), dropsSeen := u.dropsSeen.filter (fun d => d.1 != e) }

theorem actTableInstall_new (h1 : e < 4) (h2 : stagingOk u (getE u 0x2050 0x01) = true) (h3 : tlook u.tables e = none)
    (h4 : (u.tables.filter (fun x => x.1 != e)).length < 2) : actTableInstall e u = .done (epochInstalled u e) := by
  have hl : epochLive u e = false := by simp [epochLive, h3]
  unfold actTableInstall
  dsimp only
  rw [if_neg (by simp [h2]; omega), if_neg (by simp [h3]), if_neg (by simp [hl]; omega)]
  rfl

theorem epochInstalled_spec (h : e < 4) : tlook (epochInstalled u e).tables e = some (getE u 0x2050 0x01) ∧
    getE (epochInstalled u e) 0x2052 (e + 1) = 0 ∧ (∀ i, i ≠ e → tlook (epochInstalled u e).tables i = tlook u.tables i) ∧
    SameEntriesBut [(0x2052, e + 1)] u (epochInstalled u e) ∧
    epochInstalled u e =
      { u with ent := (epochInstalled u e).ent, tables := (epochInstalled u e).tables, dropsSeen := (epochInstalled u e).dropsSeen } :=
  ⟨tlook_tins_self _ _ _, getE_setE_self (s := u) _ _ _, fun _ hi => tlook_tins_ne _ hi _,
    (sameEntriesBut_setE u (by decide) (by omega) 0).congr rfl rfl, rfl⟩

theorem tableInstall_cases (hu : u = takeRequest s q) (he : e = q.value) (ht : n = getE u 0x2050 0x01)
    (ha : accepts 0x2050 0x02 q s = true) :
    (4 ≤ e ∨ stagingOk u n = false → exec (.tableInstall q) s = .next (refuse u q 0x2050 0x02 0x0302)) ∧
      (e < 4 → stagingOk u n = true → tlook s.tables e = some n → Done (.tableInstall q) 0x2050 0x02 q s u) ∧
      (e < 4 → stagingOk u n = true → tlook s.tables e ≠ some n → 2 ≤ (s.tables.filter (fun x => x.1 != e)).length →
        exec (.tableInstall q) s = .next (refuse u q 0x2050 0x02 0x0601)) ∧
      (e < 4 → stagingOk u n = true → tlook s.tables e = none → (s.tables.filter (fun x => x.1 != e)).length < 2 →
        ∃ v, Done (.tableInstall q) 0x2050 0x02 q s v ∧ tlook v.tables e = some n ∧ getE v 0x2052 (e + 1) = 0 ∧
          (∀ i, i ≠ e → tlook v.tables i = tlook s.tables i) ∧ SameEntriesBut [(0x2052, e + 1)] u v ∧
          v = { u with ent := v.ent, tables := v.tables, dropsSeen := v.dropsSeen }) := by
  have hT : s.tables = u.tables := by rw [hu, tables_takeRequest]
  subst he ht
  rw [hT]
  refine ⟨fun h => ?_, fun h1 h2 h3 => ?_, fun h1 h2 h3 h4 => ?_, fun h1 h2 h3 h4 => ?_⟩
  · exact refused_of_act rfl ha (hu ▸ actTableInstall_illegal h)
  · exact done_of_act rfl ha (hu ▸ actTableInstall_same h1 h2 h3)
  · exact refused_of_act rfl ha (hu ▸ actTableInstall_full h1 h2 h3 h4)
  · exact ⟨epochInstalled u q.value, done_of_act rfl ha (hu ▸ actTableInstall_new h1 h2 h3 h4), epochInstalled_spec h1⟩

theorem injectEpoch_cases (hu : u = takeRequest s q) (he : e = q.value) (ha : accepts 0x2050 0x03 q s = true) :
    (epochLive s e = false → exec (.injectEpoch q) s = .next (refuse u q 0x2050 0x03 0x0302)) ∧
      (epochLive s e = true → s.stalledInj = [] → ∃ v, Done (.injectEpoch q) 0x2050 0x03 q s v ∧ getE v 0x2050 0x03 = e ∧
        SameEntriesBut [(0x2050, 3)] u v ∧ v = { u with ent := v.ent }) := by
  have hl : epochLive s e = epochLive u e := by rw [hu, epochLive_takeRequest]
  subst he
  rw [hl]
  refine ⟨fun h => refused_of_act rfl ha (hu ▸ if_pos h), fun h hs => ?_⟩
  have hs' : u.stalledInj = [] := by rw [hu, stalledInj_takeRequest, hs]
  have hact : actInjectEpoch q.value u = .done (setE u 0x2050 0x03 q.value) := by
    have hw : (setE u 0x2050 0x03 q.value).stalledInj = [] := hs'
    have hsame : ({ setE u 0x2050 0x03 q.value with stalledInj := [] } : State) = setE u 0x2050 0x03 q.value := by rw [← hw]
    unfold actInjectEpoch
    dsimp only
    rw [if_neg (by simp [h]), hsame, hw]
    rfl
  exact ⟨_, done_of_act rfl ha (hu ▸ hact), getE_setE_self _ _ _, sameEntriesBut_setE u (by decide) (by decide) _, setE_only u _ _ _⟩

theorem tableRetire_cases (hu : u = takeRequest s q) (he : e = q.value) (ha : accepts 0x2050 0x04 q s = true) :
    (epochLive s e = false → Done (.tableRetire q) 0x2050 0x04 q s u) ∧
      (epochLive s e = true → getE u 0x2050 0x03 = e → exec (.tableRetire q) s = .next (refuse u q 0x2050 0x04 0x0302)) ∧
      (epochLive s e = true → getE u 0x2050 0x03 ≠ e → epochHeld u e ≠ 0 →
        exec (.tableRetire q) s = .next (refuse u q 0x2050 0x04 0x0601)) ∧
      (epochLive s e = true → getE u 0x2050 0x03 ≠ e → epochHeld u e = 0 → ∃ v, Done (.tableRetire q) 0x2050 0x04 q s v ∧
        epochLive v e = false ∧ (∀ i, i ≠ e → tlook v.tables i = tlook s.tables i) ∧ v = { u with tables := v.tables }) := by
  have hl : epochLive s e = epochLive u e := by rw [hu, epochLive_takeRequest]
  have hT : s.tables = u.tables := by rw [hu, tables_takeRequest]
  subst he
  rw [hl, hT]
  refine ⟨fun h => done_of_act rfl ha (hu ▸ if_pos h), fun h1 h2 => ?_, fun h1 h2 h3 => ?_, fun h1 h2 h3 => ?_⟩
  · refine refused_of_act rfl ha (hu ▸ ?_)
    rw [actTableRetire, if_neg (by simp [h1]), if_pos h2]
  · refine refused_of_act rfl ha (hu ▸ ?_)
    rw [actTableRetire, if_neg (by simp [h1]), if_neg h2, if_pos h3]
  · refine ⟨{ u with tables := tdel u.tables q.value }, done_of_act rfl ha (hu ▸ ?_), ?_, fun i hi => tlook_tdel_ne _ hi, rfl⟩
    · rw [actTableRetire, if_neg (by simp [h1]), if_neg h2, if_neg (not_not.2 h3)]
    · simp [epochLive, tlook_tdel_self]

/-! ### The epoch step at the keystone (10 R335 to R338) -/

/-- The step is in progress; a poll begins with this package's own counts. -/
def epochStepBegun (v : State) (op e : Nat) : State :=
  let w := setE (setE v 0x2056 0x02 1) 0x2056 0x03 0
  if op = 3 then setE (setE w 0x2056 0x04 (getE w 0x2052 (e + 1))) 0x2056 0x05 (epochHeld w e) else w

theorem epochStepBegun_spec (v : State) (op e : Nat) :
    getE (epochStepBegun v op e) 0x2056 0x02 = 1 ∧ (epochStepBegun v op e).out = v.out ∧ (epochStepBegun v op e).injQ = v.injQ ∧
      ∀ i j, ekey 0 i j ≠ ekey 0 0x2056 2 → ekey 0 i j ≠ ekey 0 0x2056 3 → ekey 0 i j ≠ ekey 0 0x2056 4 →
        ekey 0 i j ≠ ekey 0 0x2056 5 → getE (epochStepBegun v op e) i j = getE v i j := by
  have h2 : getE (setE (setE v 0x2056 0x02 1) 0x2056 0x03 0) 0x2056 0x02 = 1 := by
    rw [getE_setE_ne (by decide), getE_setE_self]
  have hij : ∀ i j, ekey 0 i j ≠ ekey 0 0x2056 2 → ekey 0 i j ≠ ekey 0 0x2056 3 →
      getE (setE (setE v 0x2056 0x02 1) 0x2056 0x03 0) i j = getE v i j := fun i j ha hb => by
    rw [getE_setE_ne hb, getE_setE_ne ha]
  unfold epochStepBegun
  dsimp only
  split
  · refine ⟨?_, rfl, rfl, fun i j ha hb hc hd => ?_⟩
    · rw [getE_setE_ne (by decide), getE_setE_ne (by decide), h2]
    · rw [getE_setE_ne hd, getE_setE_ne hc, hij i j ha hb]
  · exact ⟨h2, rfl, rfl, fun i j ha hb _ _ => hij i j ha hb⟩

/-- The message that asks a member for the operation. -/
def epochAsk (op e k : Nat) : Out := .epochOp k op e

/-- The step with its messages on their way. -/
def epochStepSent (v : State) (op e : Nat) (ms : List Nat) : State := sendEach (epochStepBegun v op e) 0 (epochAsk op e) ms

/-- The record of a step. -/
def epochStepRecord (v : State) (op e own code : Nat) (ms : List Nat) : EpochStep :=
  { op := op, epoch := e, waiting := ms,
    silent := if epochAccepted op e (code == 0) (getE (epochStepSent v op e ms) 0x2050 0x03) then [] else [own] }

theorem getE_epochStepSent (v : State) (op e : Nat) (ms : List Nat) {i j : Nat} (hi : i < 65536) (hj : j < 256) (h : i ≠ 0x2052) :
    getE (epochStepSent v op e ms) i j = getE (epochStepBegun v op e) i j :=
  sameEntriesBut_sendEach (fun _ => rfl) ms _ i j hi hj (by simp [h])

theorem actEpochStep_foreign (h : isKeystone u = false) : actEpochStep q u = .refuse 0x0502 u := if_pos h

theorem actEpochStep_busy (h : isKeystone u = true) (h2 : getE u 0x2056 0x02 = 1) : actEpochStep q u = .refuse 0x0601 u := by
  rw [actEpochStep, if_neg (by simp [h]), if_pos h2]

theorem actEpochStep_begins (hk : isKeystone u = true) (hb : getE u 0x2056 0x02 ≠ 1) (h1 : 1 ≤ q.value / 256)
    (h4 : q.value / 256 ≤ 4) (ho : epochOp (q.value / 256) (q.value % 4) u = (v, code))
    (hms : ms = (List.range 64).filter (fun k => bit k (getE v 0x2056 0x07) && decide (k ≠ gridPos u))) (hne : ms ≠ []) :
    actEpochStep q u = .done { epochStepSent v (q.value / 256) (q.value % 4) ms with
      epochStep := some (epochStepRecord v (q.value / 256) (q.value % 4) (gridPos u) code ms) } := by
  unfold actEpochStep
  dsimp only
  rw [if_neg (by simp [hk]), if_neg hb, if_neg (by omega), ho]
  dsimp only
  rw [← hms, if_neg (by simpa using hne)]
  rfl

theorem exec_epochStep {p : Nat × Instr}
    (hp : p ∈ [(1, Instr.epochStepInstall q), (2, .epochStepFlip q), (3, .epochStepPoll q), (4, .epochStepRetire q)])
    (hq : q.value / 256 = p.1) : 1 ≤ p.1 ∧ p.1 ≤ 4 ∧ exec p.2 s = run s (serveWrite 0x2056 0x01 q (actEpochStep q)) := by
  have hrow : ∀ n, q.value / 256 = n → epochStepRow n q = serveWrite 0x2056 0x01 q (actEpochStep q) := fun n h => by
    funext w
    exact if_neg (by omega)
  simp only [List.mem_cons, List.not_mem_nil, or_false] at hp
  rcases hp with rfl | rfl | rfl | rfl
  · exact ⟨Nat.le_of_ble_eq_true rfl, Nat.le_of_ble_eq_true rfl, congrArg (run s) (hrow 1 hq)⟩
  · exact ⟨Nat.le_of_ble_eq_true rfl, Nat.le_of_ble_eq_true rfl, congrArg (run s) (hrow 2 hq)⟩
  · exact ⟨Nat.le_of_ble_eq_true rfl, Nat.le_of_ble_eq_true rfl, congrArg (run s) (hrow 3 hq)⟩
  · exact ⟨Nat.le_of_ble_eq_true rfl, Nat.le_of_ble_eq_true rfl, congrArg (run s) (hrow 4 hq)⟩

theorem epochStep_cases {p : Nat × Instr} (hu : u = takeRequest s q) (hown : own = gridPos u)
    (hp : p ∈ [(1, Instr.epochStepInstall q), (2, .epochStepFlip q), (3, .epochStepPoll q), (4, .epochStepRetire q)])
    (hq : q.value / 256 = p.1) (he : e = q.value % 4) (ho : epochOp p.1 e u = (v, code))
    (hms : ms = (List.range 64).filter (fun k => bit k (getE v 0x2056 0x07) && decide (k ≠ own)))
    (ha : accepts 0x2056 0x01 q s = true) :
    (isKeystone u = false → exec p.2 s = .next (refuse u q 0x2056 0x01 0x0502)) ∧
      (isKeystone u = true → getE u 0x2056 0x02 = 1 → exec p.2 s = .next (refuse u q 0x2056 0x01 0x0601)) ∧
      (isKeystone u = true → getE u 0x2056 0x02 ≠ 1 → ms ≠ [] → ∃ t x, Done p.2 0x2056 0x01 q s t ∧ t.epochStep = some x ∧
        x.op = p.1 ∧ x.epoch = e ∧ x.waiting = ms ∧ getE t 0x2056 0x02 = 1 ∧
        x.silent = (if epochAccepted p.1 e (code == 0) (getE v 0x2050 0x03) then [] else [own]) ∧
        t.out = v.out ++ ms.map (fun k => Out.epochOp k p.1 e) ∧
        t.injQ = v.injQ ++ ms.map (fun k => (0, mkPacket v (64 * pondOf v + k) 0 5 0 0 []))) := by
  obtain ⟨h1, h4, hc⟩ := exec_epochStep (s := s) hp hq
  refine ⟨fun h => refused_of_act hc ha (hu ▸ actEpochStep_foreign h), fun h h2 => refused_of_act hc ha (hu ▸ actEpochStep_busy h h2),
    fun hk hb hne => ?_⟩
  subst he hown hu
  rw [← hq] at ho h1 h4 ⊢
  obtain ⟨b2, bo, bi, bn⟩ := epochStepBegun_spec v (q.value / 256) (q.value % 4)
  have hE : ∀ i j, i < 65536 → j < 256 → i ≠ 0x2052 → i ≠ 0x2056 →
      getE (epochStepSent v (q.value / 256) (q.value % 4) ms) i j = getE v i j := fun i j hi hj h5 h6 =>
    (getE_epochStepSent v _ _ ms hi hj h5).trans (bn i j (ekey_ne hi hj (by decide) (by decide) (by simp [h6]))
      (ekey_ne hi hj (by decide) (by decide) (by simp [h6])) (ekey_ne hi hj (by decide) (by decide) (by simp [h6]))
      (ekey_ne hi hj (by decide) (by decide) (by simp [h6])))
  refine ⟨_, _, done_of_act hc ha (actEpochStep_begins hk hb h1 h4 ho hms hne), rfl, rfl, rfl, rfl, ?_, ?_, ?_, ?_⟩
  · exact (getE_epochStepSent v _ _ ms (by decide) (by decide) (by decide)).trans b2
  · rw [← hE 0x2050 0x03 (by decide) (by decide) (by decide) (by decide)]
    rfl
  · have hout : (epochStepSent v (q.value / 256) (q.value % 4) ms).out = (epochStepBegun v (q.value / 256) (q.value % 4)).out ++
        ms.map (epochAsk (q.value / 256) (q.value % 4)) := by rw [epochStepSent, sendEach_only (fun _ => rfl)]
    exact hout.trans (congrArg (· ++ _) bo)
  · have hinj := injQ_sendEach (w := 0) (f := epochAsk (q.value / 256) (q.value % 4)) (s := v) (fun _ => rfl) ms
      (bn 0x1020 0x01 (by decide) (by decide) (by decide) (by decide)) (bn 0x2050 0x03 (by decide) (by decide) (by decide) (by decide))
    exact hinj.trans (congrArg (· ++ _) bi)

/-! ### The epoch step at a member, and its answers (10 R336, R337) -/

theorem exec_epochStepMember {k : Nat} (h0 : s.resetLow = false) (hf : firmwareUp s = true) :
    (fromKeystone s k = false → exec (.epochStepMember k op e) s =
        .next (sendMgmt (count s 0x8040 0x01) k (.epochAnswer 0x0502 (getE s 0x2050 0x03) 0 0))) ∧
      (fromKeystone s k = true → 1 ≤ op → op ≤ 4 → e < 4 → epochOp op e s = (t, n) →
        exec (.epochStepMember k op e) s =
          .next (sendMgmt t k (.epochAnswer n (getE t 0x2050 0x03) (getE t 0x2052 (e + 1)) (epochHeld t e)))) := by
  have he : exec (.epochStepMember k op e) s = execEpochStepMember k op e s := rfl
  refine ⟨fun h => ?_, fun h h1 h4 h5 ho => ?_⟩
  · rw [he, execEpochStepMember, run_up h0, if_neg (by simp [hf]), if_pos h]
  · rw [he, execEpochStepMember, run_up h0, if_neg (by simp [hf]), if_neg (by simp [h])]
    dsimp only
    rw [Nat.mod_eq_of_lt h5, if_neg (by omega), ho]

/-- The step once a member has answered. -/
def answeredStep (x : EpochStep) (k : Nat) (a : Bool) : EpochStep :=
  { x with waiting := x.waiting.erase k, silent := if a then x.silent else x.silent ++ [k] }

theorem exec_epochStepAnswer {x : EpochStep} {k i m n : Nat} {a : Bool} (h0 : s.resetLow = false) (hx : s.epochStep = some x)
    (hk : k ∈ x.waiting) (h3 : x.op ≠ 3) : exec (.epochStepAnswer k a i m n) s = .next
      (if (answeredStep x k a).waiting.isEmpty then finishEpochStep s (answeredStep x k a)
        else { s with epochStep := some (answeredStep x k a) }) := by
  have he : exec (.epochStepAnswer k a i m n) s = execEpochStepAnswer k a i m n s := rfl
  have hacc : epochAccepted x.op x.epoch a i = a := by simp [epochAccepted, h3]
  rw [he, execEpochStepAnswer, run_up h0, hx]
  dsimp only
  rw [if_neg (by simp [hk]), if_neg h3, hacc]
  rfl

theorem finishEpochStep_spec (s : State) (x : EpochStep) : (finishEpochStep s x).epochStep = none ∧
    getE (finishEpochStep s x) 0x2056 0x02 = (if x.silent.isEmpty then 2 else 3) ∧
    getE (finishEpochStep s x) 0x2056 0x03 = x.silent.foldl setBit 0 ∧
    finishEpochStep s x = { s with epochStep := none, ent := (finishEpochStep s x).ent } := by
  refine ⟨rfl, ?_, getE_setE_self _ _ _, rfl⟩
  unfold finishEpochStep
  dsimp only
  rw [getE_setE_ne (by decide), getE_setE_self]

theorem exec_epochStepTimeout {x : EpochStep} (h0 : s.resetLow = false) (hx : s.epochStep = some x) :
    exec .epochStepTimeout s = .next (finishEpochStep s { x with silent := x.silent ++ x.waiting }) := by
  have he : exec .epochStepTimeout s = execEpochStepTimeout s := rfl
  rw [he, execEpochStepTimeout, run_up h0, hx]

/-- Settles O54: the three table entries by their acts, the step of a pond by what it sends and by what its answers end. -/
theorem epochsAndTables : Obligations.EpochsAndTables := by
  refine ⟨fun s u q e t hu he ht => ⟨tableInstall_cases hu he ht, injectEpoch_cases hu he, tableRetire_cases hu he⟩,
    fun s u v q own e code ms p hu hown hp hq he ho hms => ⟨epochStep_cases hu hown hp hq he ho hms, fun k op h0 hf => ?_, ?_, ?_⟩⟩
  · obtain ⟨h1, -⟩ := exec_epochStepMember (k := k) (op := op) (e := e) (t := s) (n := 0) h0 hf
    exact ⟨h1, fun t b hk h1 h4 h5 ho => (exec_epochStepMember h0 hf).2 hk h1 h4 h5 ho⟩
  · intro x k a i m n h0 hx hk h3 y hy
    have hy' : y = answeredStep x k a := hy
    rw [exec_epochStepAnswer h0 hx hk h3, ← hy']
    exact ⟨fun h => by rw [if_neg (by simpa using h)], fun h => by rw [if_pos (by simp [h])]⟩
  · intro x h0 hx
    obtain ⟨h1, h2, h3, h4⟩ := finishEpochStep_spec s { x with silent := x.silent ++ x.waiting }
    refine ⟨_, exec_epochStepTimeout h0 hx, h1, h2.trans ?_, h3, h4⟩
    simp

end Sys2Proof.Machine
end

section
/-! PROOFS. Routing of packets and aqueducts (10 R307, R308, R319 to R328, 09 R284). -/

-- As in the tests: proofs elaborated side by side exhaust memory in the joined text.
set_option Elab.async false

namespace Sys2Proof.Machine

variable {s t u v : State} {q : Req} {w : Nat} {k : Packet} {came : Came} {d : Depart}

/-! ### The departure of a packet (10 R323 to R328) -/

theorem portInService_iff (s : State) (p : Nat) :
    portInService s p = true → (portOf s p).state = .up ∨ (portOf s p).retraining = true := by
  unfold portInService
  cases (portOf s p).state with
  | up => exact fun _ => .inl rfl
  | training | authenticating => exact .inr
  | down | miswired | refused | fenced => exact fun h => absurd h Bool.false_ne_true

/-- A packet that departs, but for a drop, departs as its route says, where R325 allows it. -/
theorem decideRoute_of_route (hd : decideRoute s w came k = d) (hn : ∀ c, d ≠ .drop c) : routeOf s w came k = d ∧
    departAllowed came k.phase (decide (k.dest / 64 ≠ pondOf s)) d = true ∧
      (∀ p, d = .port p → k.hops < 6 ∧ portInService s p = true) ∧ (d = .bridge → k.hops < 6) ∧ (d = .deliver → k.target < 7) := by
  subst hd
  unfold decideRoute at hn ⊢
  dsimp only at hn ⊢
  generalize routeOf s w came k = r at hn ⊢
  cases r with
  | drop c => exact absurd rfl (hn c)
  | deliver =>
    dsimp only at hn ⊢
    split at hn
    · exact absurd rfl (hn 2)
    · rename_i ha
      split at hn
      · exact absurd rfl (hn 4)
      · rename_i ht
        rw [if_neg ha, if_neg ht]
        simp only [Bool.not_eq_false] at ha
        exact ⟨rfl, ha, nofun, nofun, fun _ => by omega⟩
  | bridge =>
    dsimp only at hn ⊢
    split at hn
    · exact absurd rfl (hn 2)
    · rename_i ha
      split at hn
      · exact absurd rfl (hn 3)
      · rename_i ht
        rw [if_neg ha, if_neg ht]
        simp only [Bool.not_eq_false] at ha
        exact ⟨rfl, ha, nofun, fun _ => by omega, nofun⟩
  | port p =>
    dsimp only at hn ⊢
    split at hn
    · exact absurd rfl (hn 2)
    · rename_i ha
      split at hn
      · exact absurd rfl (hn 3)
      · rename_i ht
        split at hn
        · rename_i hs
          rw [if_neg ha, if_neg ht, if_pos hs]
          simp only [Bool.not_eq_false] at ha
          refine ⟨rfl, ha, fun p' hp => ?_, nofun, nofun⟩
          cases hp
          exact ⟨by omega, hs⟩
        · exact absurd rfl (hn 6)

theorem decideRoute_dead (hc : k.cls ≠ 0) (hl : epochLive s k.epoch = false) : decideRoute s w came k = .drop 0 := by
  have hr : routeOf s w came k = .drop 0 := by
    rw [routeOf, if_neg (fun h => hc h.1), if_pos hl]
  unfold decideRoute
  rw [hr]

/-! ### The packet at an injection point (10 R324) -/

/-- The packet as its switch holds it. -/
def injItem (w : Nat) (k : Packet) : QItem := { vc := 2 * k.cls + k.phase, inPort := 32 + w, losses := 0, body := .routed k }

/-- The injection queue without the packet. -/
def injTake (w : Nat) (k : Packet) (s : State) : State := { s with injQ := s.injQ.erase (w, k) }

theorem arrivalHead_injection (hq : s.injQ.find? (fun x => x.1 == w) = some (w, k))
    (hd : decideRoute s w .injected k = .deliver → unitAsleep s k = false ∧ waitsBuffer s k = false) :
    arrivalHead s (.injection w) = some (w, injItem w k, k, .injected, injTake w k) := by
  obtain ⟨l, hl⟩ : ∃ l, s.injQ.filter (fun x => x.1 == w) = (w, k) :: l := by
    rw [← List.head?_filter] at hq
    exact List.head?_eq_some_iff.1 hq
  have hw : headWaits s (w, injItem w k, k, .injected, injTake w k) = false := by
    by_cases h : decideRoute s w .injected k = .deliver
    · obtain ⟨h1, h2⟩ := hd h
      simp [headWaits, h, h1, h2]
    · simp [headWaits, h]
  unfold arrivalHead arrivals
  dsimp only
  rw [hl, List.map_cons, bufferHeads]
  have hw' : (!headWaits s (w, injItem w k, k, .injected, injTake w k)) = true := congrArg (!·) hw
  exact List.find?_cons_of_pos hw'

section
variable (h0 : s.resetLow = false) (hq : s.injQ.find? (fun x => x.1 == w) = some (w, k)) (hs : s.switchDead.contains w = false)
  (hd : decideRoute s w .injected k = .deliver → unitAsleep s k = false ∧ waitsBuffer s k = false)
include h0 hq hs hd

theorem exec_packetRoute_spoilt : exec (.packetRoute (.injection w) false) s = .next (spoilPacket (injTake w k s) (32 + w) w k) := by
  have he : exec (.packetRoute (.injection w) false) s = execPacketRoute (.injection w) false s := rfl
  rw [he, execPacketRoute, run_up h0, arrivalHead_injection hq hd]
  dsimp only
  rw [if_neg (Bool.eq_false_iff.1 hs), if_pos rfl]
  rfl

theorem exec_packetRoute_departs {hs' : List Nat} (hr : rxBuffer s k (decideRoute s w .injected k) = (t, some hs')) :
    exec (.packetRoute (.injection w) true) s = .next (forEach
      (depart (injTake w k t) w (injItem w k) (32 + w) k (decideRoute s w .injected k)) hs' (fun t h => release t (BitVec.ofNat 32 h))) := by
  have he : exec (.packetRoute (.injection w) true) s = execPacketRoute (.injection w) true s := rfl
  rw [he, execPacketRoute, run_up h0, arrivalHead_injection hq hd]
  dsimp only
  rw [if_neg (Bool.eq_false_iff.1 hs), if_neg (by decide), hr]
  dsimp only
  generalize decideRoute s w .injected k = d
  cases d <;> rfl

end

theorem rxBuffer_none (h : d ≠ .deliver ∨ rxOwner k = none ∨ tagDrops s k = true) : rxBuffer s k d = (s, some []) := by
  have ho : (if d = .deliver ∧ tagDrops s k = false then rxOwner k else none) = none := by
    split
    · rename_i hc
      obtain ⟨h1, h2⟩ := hc
      rcases h with h | h | h
      · exact absurd h1 h
      · exact h
      · rw [h] at h2
        exact absurd h2 (by decide)
    · rfl
  unfold rxBuffer
  rw [ho]

theorem rxBuffer_some {o h : Nat} (ho : rxOwner k = some o) (ht : tagDrops s k = false)
    (hg : grantTry o 1 s (poolsFor s (bayOf k.targetStone) o 8192) = (t, some h)) :
    rxBuffer s k .deliver = (sramWrite t (handleStone h) (handleOff h) k.payload, some [h]) := by
  unfold rxBuffer
  rw [if_pos ⟨rfl, ht⟩, ho]
  dsimp only
  rw [hg]

/-! ### Delivery (10 R308) -/

theorem tagDrops_of_class (h : k.cls = 0 ∨ k.cls = 7 ∨ (k.jobTag = s.jobTag ∧ s.mode ≠ .draining)) : tagDrops s k = false := by
  rcases h with h | h | ⟨h1, h2⟩
  · simp [tagDrops, h]
  · simp [tagDrops, h]
  · simp [tagDrops, h1, h2]

theorem deliverPacket_taken {c : Nat} (h : k.cls = 0 ∨ k.cls = 7 ∨ (k.jobTag = s.jobTag ∧ s.mode ≠ .draining))
    (hw : targetWythe k w = w) : deliverPacket s c w k = { s with delivered := s.delivered ++ [k] } := by
  rw [deliverPacket, if_neg (by simp [tagDrops_of_class h]), if_pos hw]

theorem deliverPacket_foreign {c : Nat} (h1 : 1 ≤ k.cls) (h6 : k.cls ≤ 6) (ht : k.jobTag ≠ s.jobTag) (hc : 32 ≤ c)
    (hs : s.tagDropSeen = true) : deliverPacket s c w k = s := by
  have hd : tagDrops s k = true := by simp [tagDrops, h1, h6, ht]
  have hn : ¬c < 32 := by omega
  unfold deliverPacket
  dsimp only
  rw [if_pos hd, if_neg hn, if_pos hs]

/-! ### Aqueducts (10 R319 to R321) -/

theorem aqs_takeRequest (s : State) (q : Req) : (takeRequest s q).aqs = s.aqs := by rw [takeRequest_only]

theorem aqSet_cases {e : BitVec 128} (hu : u = takeRequest s q) (he : e = BitVec.ofNat 128 (getE u 0x2032 0x01))
    (ha : accepts 0x2032 0x02 q s = true) :
    (∀ c, aqRefusal u q.value e = some c → exec (.aqSet q) s = .next (refuse u q 0x2032 0x02 c)) ∧
      (aqRefusal u q.value e = none → ∃ t, Done (.aqSet q) 0x2032 0x02 q s t ∧ t = { u with aqs := t.aqs } ∧ aqOf t q.value = e ∧
        ∀ k, k ≠ q.value → aqOf t k = aqOf s k) := by
  have hA : s.aqs = u.aqs := by rw [hu, aqs_takeRequest]
  refine ⟨fun c h => refused_of_act rfl ha (hu ▸ ?_), fun h => ⟨{ u with aqs := tput 0 u.aqs q.value e },
    done_of_act rfl ha (hu ▸ ?_), rfl, tget_tput_self 0 _ _ _, fun k hk => ?_⟩⟩
  · unfold actAqSet
    dsimp only
    rw [← he, h]
  · unfold actAqSet
    dsimp only
    rw [← he, h]
  · unfold aqOf
    rw [hA]
    exact tget_tput_ne 0 0 _ hk _

/-- Taking bit 82 away from an entry that has it. -/
theorem bit82_sub (e : BitVec 128) (h : aqValid e = true) : aqValid (e - BitVec.ofNat 128 (2 ^ 82)) = false := by
  have hb : e.toNat.testBit 82 = true := h
  have hle : 2 ^ 82 ≤ e.toNat := Nat.ge_two_pow_of_testBit hb
  have hlt := e.isLt
  have ht : (e - BitVec.ofNat 128 (2 ^ 82)).toNat = e.toNat - 2 ^ 82 := by
    rw [BitVec.toNat_sub, BitVec.toNat_ofNat]
    omega
  have hs : e.toNat = 2 ^ 82 + (e.toNat - 2 ^ 82) := by omega
  have hx : (2 ^ 82 + (e.toNat - 2 ^ 82)).testBit 82 = !(e.toNat - 2 ^ 82).testBit 82 := Nat.testBit_two_pow_add_eq _ 82
  unfold aqValid bit
  rw [ht]
  rw [← hs, hb] at hx
  simpa using hx.symm

theorem aqClear_cases (hu : u = takeRequest s q) (ha : accepts 0x2032 0x03 q s = true) :
    (36 ≤ q.value / 256 → exec (.aqClear q) s = .next (refuse u q 0x2032 0x03 0x0302)) ∧
      (q.value / 256 < 36 → aqQueued u q.value = true → exec (.aqClear q) s = .next (refuse u q 0x2032 0x03 0x0601)) ∧
      (q.value / 256 < 36 → aqQueued u q.value = false → ∃ t, Done (.aqClear q) 0x2032 0x03 q s t ∧ t = { u with aqs := t.aqs } ∧
        aqValid (aqOf t q.value) = false ∧ ∀ k, k ≠ q.value → aqOf t k = aqOf s k) := by
  have hA : s.aqs = u.aqs := by rw [hu, aqs_takeRequest]
  refine ⟨fun h => refused_of_act rfl ha (hu ▸ if_pos h), fun h1 h2 => refused_of_act rfl ha (hu ▸ ?_), fun h1 h2 => ?_⟩
  · rw [actAqClear, if_neg (by omega), if_pos h2]
  · let e := aqOf u q.value
    let x := if aqValid e then e - BitVec.ofNat 128 (2 ^ 82) else e
    refine ⟨{ u with aqs := tput 0 u.aqs q.value x }, done_of_act rfl ha (hu ▸ ?_), rfl, ?_, fun k hk => ?_⟩
    · rw [actAqClear, if_neg (by omega), if_neg (by simp [h2])]
    · have hx : aqOf { u with aqs := tput 0 u.aqs q.value x } q.value = x := tget_tput_self 0 _ _ _
      have hv : aqValid x = false := by
        by_cases hv : aqValid e = true
        · rw [show x = e - BitVec.ofNat 128 (2 ^ 82) from if_pos hv]
          exact bit82_sub e hv
        · rw [show x = e from if_neg hv]
          simpa using hv
      rw [hx]
      exact hv
    · unfold aqOf
      rw [hA]
      exact tget_tput_ne 0 0 _ hk _

/-- Tenths of a byte that an entry's burst would hold with one packet more. -/
def aqCharge (s : State) (k : Nat) (a : AqPacket) : Nat := aqTaken s s.aqSent k (aqRate (aqOf s k)) + 10 * bodyBytes (.aqueduct a)

/-- The packets that wait at the injection point of an entry, without one. -/
def aqUnqueued (s : State) (k : Nat) (a : AqPacket) : State := { s with aqQ := tput [] s.aqQ k ((tget [] s.aqQ k).erase a) }

/-- The packet leaves the injection point and counts in its entry's burst. -/
def aqCharged (s : State) (k : Nat) (a : AqPacket) : State :=
  { s with aqSent := tput (0, 0) s.aqSent k (aqCharge s k a, now s), aqQ := tput [] s.aqQ k ((tget [] s.aqQ k).erase a) }

theorem exec_aqueductPacket {a : AqPacket} (h0 : s.resetLow = false) (hw : w < 2) (hs : s.switchDead.contains w = false) :
    (aqValid (aqOf s (aqKey (32 + w) a.aqueduct)) = false →
      exec (.aqueductPacket (32 + w) a) s = .next (aqUnqueued s (aqKey (32 + w) a.aqueduct) a)) ∧
    (aqValid (aqOf s (aqKey (32 + w) a.aqueduct)) = true → 163840 < aqCharge s (aqKey (32 + w) a.aqueduct) a →
      exec (.aqueductPacket (32 + w) a) s = .next s) ∧
    (aqValid (aqOf s (aqKey (32 + w) a.aqueduct)) = true → aqCharge s (aqKey (32 + w) a.aqueduct) a ≤ 163840 →
      aqOut (aqOf s (aqKey (32 + w) a.aqueduct)) = 0x21 → exec (.aqueductPacket (32 + w) a) s =
        .next (aqDeliver (aqCharged s (aqKey (32 + w) a.aqueduct) a) (aqKey (32 + w) a.aqueduct) (32 + w)
          (aqOf s (aqKey (32 + w) a.aqueduct)) a)) ∧
    (∀ o, aqValid (aqOf s (aqKey (32 + w) a.aqueduct)) = true → aqCharge s (aqKey (32 + w) a.aqueduct) a ≤ 163840 →
      o = aqOut (aqOf s (aqKey (32 + w) a.aqueduct)) → o < 32 → (portOf s o).state = .up → exec (.aqueductPacket (32 + w) a) s =
        .next (setPort (aqCharged s (aqKey (32 + w) a.aqueduct) a) o { portOf s o with
          outQ := (portOf s o).outQ ++ [{
            vc := 2 * a.cls + a.phase, inPort := 32 + w, losses := 0,
            body := .aqueduct { a with aqueduct := aqOutId (aqOf s (aqKey (32 + w) a.aqueduct)) } }] })) := by
  have he : exec (.aqueductPacket (32 + w) a) s = execAqueductPacket (32 + w) a s := rfl
  have hin : inWythe (32 + w) = w := by
    unfold inWythe
    rw [if_neg (by omega)]
    omega
  have h32 : ¬32 + w < 32 := by omega
  have h34 : 32 + w < 34 := by omega
  have h36 : ¬36 ≤ 32 + w := by omega
  have hd : (decide (32 ≤ 32 + w) && decide (32 + w < 34)) = true := by
    rw [decide_eq_true h34, decide_eq_true (Nat.le_add_right 32 w)]
    rfl
  rw [he, execAqueductPacket, run_up h0]
  unfold aqCharge
  simp only [hin, if_neg h32, if_pos h34, hd, hs, h36, Bool.true_eq_false, Bool.false_eq_true, false_or, true_and]
  refine ⟨fun hv => ?_, fun hv hn => ?_, fun hv hn ho => ?_, fun o hv hn ho h5 hu => ?_⟩
  · simp only [hv, Bool.false_eq_true, false_and, reduceIte]
    rfl
  · rw [if_pos ⟨hv, hn⟩]
  · simp only [hv, true_and, if_neg (Nat.not_lt.2 hn), reduceIte, Bool.true_eq_false, ho]
    rfl
  · have hps : ∀ x : State, x.ports = s.ports → portInService x o = true := by
      intro x hx
      unfold portInService
      rw [portOf_of_ports hx, hu]
    simp only [hv, true_and, if_neg (Nat.not_lt.2 hn), reduceIte, Bool.true_eq_false, ← ho, if_neg (show ¬o = 0x21 by omega),
      if_neg (show ¬o = 0x20 by omega)]
    refine congrArg Host.Outcome.next ((if_pos (hps _ ?_)).trans ?_) <;> rfl

theorem memByte_aqDeliver {a : AqPacket} {x : BitVec 128} {k c : Nat} (ht : aqTag x = s.jobTag) (he : aqEnd x = 2)
    (hm : aqAddr x + 8192 * a.seq + a.payload.length ≤ 2 ^ 39) :
    (∀ i, i < a.payload.length → memByte (aqDeliver s k c x a) (aqAddr x + 8192 * a.seq + i) = a.payload.getD i 0) ∧
      (∀ i, i < aqAddr x + 8192 * a.seq ∨ aqAddr x + 8192 * a.seq + a.payload.length ≤ i →
        memByte (aqDeliver s k c x a) i = memByte s i) := by
  have hd : aqDeliver s k c x a = memWrite s (aqAddr x + 8192 * a.seq) a.payload := by
    rw [aqDeliver, if_neg (not_not.2 ht), if_pos he]
  rw [hd]
  refine ⟨fun i hi => ?_, fun i hi => memByte_memWrite_out hi⟩
  rw [memByte_memWrite_in hi hm]
  simp [List.getD, hi]

/-- Settles O53: a departure by the branches of its decision, a packet at an injection point by its head, an aqueduct packet by
its entry. -/
theorem routingAndAqueducts : Obligations.RoutingAndAqueducts := by
  refine ⟨fun s w k came d hd => ⟨fun q hq => ?_, fun hq => ?_, fun hq => ?_, fun hc hl => ?_, ?_, ?_, ?_⟩, ?_⟩
  · obtain ⟨h1, h2, h3, -, -⟩ := decideRoute_of_route hd.symm (fun c h => by rw [hq] at h; cases h)
    obtain ⟨h4, h5⟩ := h3 q hq
    exact ⟨h2, h4, portInService_iff s q h5, h1⟩
  · obtain ⟨-, h2, -, h4, -⟩ := decideRoute_of_route hd.symm (fun c h => by rw [hq] at h; cases h)
    exact ⟨h2, h4 hq⟩
  · obtain ⟨-, h2, -, -, h5⟩ := decideRoute_of_route hd.symm (fun c h => by rw [hq] at h; cases h)
    exact ⟨h2, h5 hq⟩
  · exact hd.trans (decideRoute_dead hc hl)
  · intro item u h0 hc hq hs hw hu hi
    subst hc
    rw [hd] at hw
    have hu' : u = injTake w k s := hu
    have hi' : item = injItem w k := hi
    refine ⟨fun h => ?_, fun o t h v hdel ho ht hg hv => ?_, ?_⟩
    · rw [hd] at h
      rw [exec_packetRoute_departs h0 hq hs hw (rxBuffer_none h), ← hd, hu', hi']
      cases d <;> rfl
    · have hr := rxBuffer_some ho ht hg
      rw [← hdel, hd] at hr
      rw [exec_packetRoute_departs h0 hq hs hw hr, ← hd, hdel, hv]
      rfl
    · rw [exec_packetRoute_spoilt h0 hq hs hw, hu']
  · exact fun u c h hw hu => hu ▸ deliverPacket_taken h hw
  · exact fun c h1 h6 ht hc hs => deliverPacket_foreign h1 h6 ht hc hs
  · refine fun s u q e hu he => ⟨aqSet_cases hu he, aqClear_cases hu, ?_, ?_⟩
    · intro w a k x n v h0 hw hk hx hs hn hv
      subst hk hx hn hv
      obtain ⟨h1, h2, h3, h4⟩ := exec_aqueductPacket (a := a) h0 hw hs
      exact ⟨h1, h2, h3, fun hv hn ho hu => h4 _ hv hn rfl ho hu⟩
    · intro v k c x a ht he hv hm
      subst hv
      exact memByte_aqDeliver ht he hm

end Sys2Proof.Machine
end

section
/-! PROOFS. Buffer pools: grants, releases, the rebuild of a list and the commit (09 R282 to R290, R294). -/

-- As in the tests: proofs elaborated side by side exhaust memory in the joined text.
set_option Elab.async false

namespace Sys2Proof.Machine

variable {s t u : State} {p owner refs h st : Nat} {x y : Pool} {hd : IHdr} {o : Operands} {v : BitVec 32}

/-! ### Pools and their levels -/

/-- The pool with its level formed again. -/
def leveled (s : State) (p : Nat) (x : Pool) : Pool := { x with level := levelOf x.level (liveCount s p x) (freeCount s p x) }

theorem setPoolLevel_eq (s : State) (p : Nat) (x : Pool) : setPoolLevel s p x = setPool s p (leveled s p x) := rfl

theorem sameMemory_count_setPool (s : State) (p i j : Nat) (x : Pool) : SameMemory s (count (setPool s p x) i j) :=
  ⟨fun _ => rfl, fun _ _ => rfl⟩

/-! ### A grant (09 R282, R285, R289) -/

/-- The pool with its head granted. -/
def grantedPool (s : State) (x : Pool) (owner refs : Nat) : Pool :=
  { x with
    head := sramNat s (handleStone x.head) (handleOff x.head) 4, counts := tput 0 x.counts x.head refs,
    holders := tput 0 x.holders x.head owner, used := tput 0 x.used owner (usedBy x owner + 1) }

theorem grantFrom_eq (s : State) (p owner refs : Nat) : grantFrom s p owner refs =
    if mayGrant s p owner = false then (s, none)
    else if popOk s p (poolOf s p) = false then (popFailed s p, none)
    else (count (setPool s p (leveled s p (grantedPool s (poolOf s p) owner refs))) 0xA060 0x01, some (poolOf s p).head) := by
  unfold grantFrom leveled grantedPool
  rfl

/-- A grant says that the pool may grant and that its pop is sound, and what it leaves. -/
theorem grantFrom_some (hg : grantFrom s p owner refs = (t, some h)) : mayGrant s p owner = true ∧ popOk s p (poolOf s p) = true ∧
    h = (poolOf s p).head ∧ t = count (setPool s p (leveled s p (grantedPool s (poolOf s p) owner refs))) 0xA060 0x01 := by
  rw [grantFrom_eq] at hg
  by_cases h1 : mayGrant s p owner = false
  · rw [if_pos h1] at hg
    exact absurd (congrArg Prod.snd hg) (Option.some_ne_none h).symm
  · by_cases h2 : popOk s p (poolOf s p) = false
    · rw [if_neg h1, if_pos h2] at hg
      exact absurd (congrArg Prod.snd hg) (Option.some_ne_none h).symm
    · rw [if_neg h1, if_neg h2, Prod.mk.injEq, Option.some.injEq] at hg
      exact ⟨by simpa using h1, by simpa using h2, hg.2.symm, hg.1.symm⟩

theorem grant_effect (hx : x = poolOf s p) (hy : y = poolOf t p) (hg : grantFrom s p owner refs = (t, some h)) :
    h = x.head ∧ x.rebuilding = false ∧ shareRule (freeCount s p x) x owner = true ∧ popOk s p x = true ∧
      y.head = sramNat s (handleStone h) (handleOff h) 4 ∧ (refs ≠ 0 → tget 0 y.counts h = refs) ∧ usedBy y owner = usedBy x owner + 1 ∧
      (∀ k, k ≠ h → tget 0 y.counts k = tget 0 x.counts k) ∧ (∀ k, k ≠ owner → usedBy y k = usedBy x k) ∧
      y.retired = x.retired ∧ y.sizeCode = x.sizeCode ∧ y.reserves = x.reserves ∧ (∀ k, k ≠ p → poolOf t k = poolOf s k) ∧
      t = { s with pools := t.pools, ent := t.ent } ∧ SameEntriesBut [(0xA060, 1)] s t ∧ SameMemory s t := by
  obtain ⟨hm, hp, rfl, rfl⟩ := grantFrom_some hg
  have hy' : y = leveled s p (grantedPool s (poolOf s p) owner refs) := hy.trans (poolOf_setPool_self p _)
  subst hx hy'
  unfold mayGrant at hm
  simp only [Bool.and_eq_true, Bool.not_eq_true'] at hm
  obtain ⟨⟨hr, -⟩, hs⟩ := hm
  have hcounts : (leveled s p (grantedPool s (poolOf s p) owner refs)).counts = tput 0 (poolOf s p).counts (poolOf s p).head refs := rfl
  have hused : (leveled s p (grantedPool s (poolOf s p) owner refs)).used =
      tput 0 (poolOf s p).used owner (usedBy (poolOf s p) owner + 1) := rfl
  unfold usedBy at hused ⊢
  rw [hcounts, hused]
  exact ⟨rfl, hr, hs, hp, rfl, fun _ => tget_tput_self 0 _ _ _, tget_tput_self 0 _ _ _, fun k hk => tget_tput_ne 0 0 _ hk _,
    fun k hk => tget_tput_ne 0 0 _ hk _, rfl, rfl, rfl, fun k hk => poolOf_setPool_ne hk _, rfl,
    (sameEntriesBut_countBy _ (by decide) (by decide) 1).congr rfl rfl, sameMemory_count_setPool s p _ _ _⟩

/-! ### BUFFER_RELEASE (09 R288 to R290) -/

theorem releaseBuffer_bad (hr : releaseOk s v = false) :
    releaseBuffer s v = (raise (count s 0xA060 0x04) [mkFault 1 0x19 2 (handlePool v.toNat / 16) none v.toNat], false) := if_pos hr

theorem releaseBuffer_good (hr : releaseOk s v = true) (hb : (poolOf s (handlePool v.toNat)).rebuilding = false) :
    releaseBuffer s v = (dropRef s v.toNat, true) := by
  unfold releaseBuffer
  dsimp only
  rw [if_neg (by simp [hr]), if_neg (by simp [hb])]

theorem releaseBuffer_waits (hx : x = poolOf s (handlePool v.toNat)) (hr : releaseOk s v = true) (hb : x.rebuilding = true) :
    releaseBuffer s v = (setPool s (handlePool v.toNat) { x with relQueue := x.relQueue ++ [v] }, true) := by
  subst hx
  unfold releaseBuffer
  dsimp only
  rw [if_neg (by simp [hr]), if_pos hb]

theorem exec_bufferRelease (hi : memIssues s st hd [] [] = true) (ho : onlyFields [(111, 108)] o = true)
    (hv : v = reg s st (fld 111 108 o)) (hu : u = issued s st) (hx : x = poolOf s (handlePool v.toNat)) :
    (x.rebuilding = true → 64 ≤ x.relQueue.length → releaseOk s v = true →
      exec (.bufferRelease st hd o) s = .next (stallOn u st .release)) ∧
    (¬(x.rebuilding = true ∧ 64 ≤ x.relQueue.length ∧ releaseOk s v = true) →
      (∀ t, releaseBuffer u v = (t, true) → exec (.bufferRelease st hd o) s = .next (completeNow t st hd)) ∧
      ∀ t c, releaseBuffer u v = (t, false) → (stoneOf t st).owner = some c →
        exec (.bufferRelease st hd o) s = .next (stopAt t c st)) := by
  have he : exec (.bufferRelease st hd o) s = execBufferRelease st hd o s := rfl
  have hok : (headerOk hd false && onlyFields [(111, 108)] o) = true := by simp [headerOk_of_issues (issues_of_memIssues hi), ho]
  have hxu : poolOf (issued s st) (handlePool v.toNat) = x := hx.symm
  have hru : releaseOk (issued s st) v = releaseOk s v := rfl
  subst hu
  rw [he, execBufferRelease, run_memIssue hi hok]
  dsimp only
  rw [reg_issued, ← hv, hxu, hru]
  refine ⟨fun h1 h2 h3 => by rw [if_pos ⟨h1, h2, h3⟩], fun hn => ?_⟩
  rw [if_neg hn]
  refine ⟨fun t ht => ?_, fun t c ht hc => ?_⟩
  · rw [ht]
    rfl
  · rw [ht]
    dsimp only
    rw [if_neg (by decide), hc]

theorem bufferRelease_cases (hi : memIssues s st hd [] [] = true) (ho : onlyFields [(111, 108)] o = true)
    (hv : v = reg s st (fld 111 108 o)) (hu : u = issued s st) (hp : p = handlePool v.toNat) (hx : x = poolOf s p) :
    (releaseOk s v = true → x.rebuilding = false → exec (.bufferRelease st hd o) s = .next (completeNow (dropRef u v.toNat) st hd)) ∧
      (releaseOk s v = true → x.rebuilding = true → 64 ≤ x.relQueue.length →
        exec (.bufferRelease st hd o) s = .next (stallOn u st .release)) ∧
      (releaseOk s v = true → x.rebuilding = true → x.relQueue.length < 64 →
        exec (.bufferRelease st hd o) s = .next (completeNow (setPool u p { x with relQueue := x.relQueue ++ [v] }) st hd)) ∧
      (∀ c, releaseOk s v = false → (stoneOf (raise (count u 0xA060 0x04) [mkFault 1 0x19 2 (p / 16) none v.toNat]) st).owner = some c →
        exec (.bufferRelease st hd o) s =
          .next (stopAt (raise (count u 0xA060 0x04) [mkFault 1 0x19 2 (p / 16) none v.toNat]) c st)) := by
  subst hp
  obtain ⟨hfull, hgo⟩ := exec_bufferRelease hi ho hv hu hx
  have hxu : x = poolOf u (handlePool v.toNat) := by rw [hx, hu]; rfl
  have hru : releaseOk u v = releaseOk s v := by rw [hu]; rfl
  refine ⟨fun hr hb => ?_, fun hr hb hq => hfull hb hq hr, fun hr hb hq => ?_, fun c hr hc => ?_⟩
  · exact (hgo (by simp [hb])).1 _ (releaseBuffer_good (hru.trans hr) (hxu ▸ hb))
  · exact (hgo (by simp; omega)).1 _ (releaseBuffer_waits hxu (hru.trans hr) hb)
  · exact (hgo (by simp [hr])).2 _ c (releaseBuffer_bad (hru.trans hr)) hc

/-! ### The last reference (09 R285, R289) -/

theorem dropRef_many (hp : p = handlePool h) (hx : x = poolOf s p) (hc : 2 ≤ tget 0 x.counts h) :
    dropRef s h = setPool s p { x with counts := tput 0 x.counts h (tget 0 x.counts h - 1) } := by
  subst hp hx
  exact if_pos (show tget 0 (poolOf s (handlePool h)).counts h - 1 ≠ 0 by omega)

/-- The pool with a buffer back. -/
def returnedPool (x : Pool) (h : Nat) : Pool :=
  { x with
    counts := tput 0 x.counts h 0, holders := tput 0 x.holders h 0, outCtx := tput 0 x.outCtx h 0,
    used := tput 0 x.used (tget 0 x.holders h) (usedBy x (tget 0 x.holders h) - 1) }

theorem dropRef_last (hp : p = handlePool h) (hx : x = poolOf s p) (hc : tget 0 x.counts h = 1)
    (hf : isFenced s (handleStone h) = false) (hr : x.retired.contains h = false) : dropRef s h =
      count (setPoolLevel (putLink s h x.head) p { returnedPool x h with head := h }) 0xA060 0x02 := by
  subst hp hx
  have hz : ¬(tget 0 (poolOf s (handlePool h)).counts h - 1 ≠ 0) := by omega
  unfold dropRef
  dsimp only
  rw [if_neg hz, if_neg (by simp [hf]), if_neg (Bool.eq_false_iff.1 hr)]
  rfl

theorem fromLE_toLE (n v : Nat) (hv : v < 256 ^ n) : fromLE (toLE n v) = v := by
  induction n generalizing v with
  | zero => simp only [Nat.pow_zero] at hv; simp only [toLE, fromLE]; omega
  | succ n ih =>
    rw [Nat.pow_succ] at hv
    rw [toLE, fromLE, ih _ (by omega), BitVec.toNat_ofNat]
    omega

theorem sramRead_sramPut {off : Nat} {bs : List Byte} (hs : t.sram = sramPut s.sram (sramKey st off) bs) :
    sramRead t st off bs.length = bs := by
  unfold sramRead
  refine List.ext_getElem (by simp) fun i h1 h2 => ?_
  have hk : sramKey st (off + i) = sramKey st off + i := by unfold sramKey; omega
  rw [List.getElem_map, List.getElem_range]
  unfold sramByte
  rw [hs, hk, tget_sramPut_in h2]

/-- The bytes of SRAM once a link word stands in a buffer. -/
def linkedSram (s : State) (h n : Nat) : List Host.Cell :=
  sramPut s.sram (sramKey (handleStone h) (handleOff h)) (toLE 8 (linkWord h n))

theorem putLink_only (s : State) (h n : Nat) : putLink s h n = { s with sram := linkedSram s h n } := rfl

theorem setPool_only (s : State) (p : Nat) (x : Pool) : setPool s p x = { s with pools := (setPool s p x).pools } := rfl

theorem sramNat_linkedSram {n : Nat} (hs : t.sram = linkedSram s h n) (hh : h < 2 ^ 32) (hn : n < 2 ^ 32) :
    sramNat t (handleStone h) (handleOff h) 8 = linkWord h n := by
  have hread := sramRead_sramPut hs
  have hw : linkWord h n < 256 ^ 8 := by
    unfold linkWord
    omega
  rw [length_toLE] at hread
  unfold sramNat
  rw [hread, fromLE_toLE 8 _ hw]

theorem sramByte_linkedSram {n st' off : Nat} (hs : t.sram = linkedSram s h n)
    (ho : sramKey st' off < sramKey (handleStone h) (handleOff h) ∨ sramKey (handleStone h) (handleOff h) + 8 ≤ sramKey st' off) :
    sramByte t st' off = sramByte s st' off := by
  unfold sramByte
  rw [hs, linkedSram, tget_sramPut_out]
  rw [length_toLE]
  exact ho

theorem dropRef_linked (hp : p = handlePool h) (hx : x = poolOf s p) (hc : tget 0 x.counts h = 1)
    (hf : isFenced s (handleStone h) = false) (hr : x.retired.contains h = false) : ∃ ps e,
      dropRef s h = { s with pools := ps, sram := linkedSram s h x.head, ent := e } := by
  rw [dropRef_last hp hx hc hf hr, setPoolLevel_eq, count_only, setPool_only, putLink_only]
  exact ⟨_, _, rfl⟩

theorem poolOf_dropRef (hp : p = handlePool h) (hx : x = poolOf s p) (hc : tget 0 x.counts h = 1)
    (hf : isFenced s (handleStone h) = false) (hr : x.retired.contains h = false) :
    (poolOf (dropRef s h) p).head = h ∧ (poolOf (dropRef s h) p).counts = tput 0 x.counts h 0 := by
  have hcount : ∀ u : State, poolOf (count u 0xA060 0x02) p = poolOf u p := fun _ => rfl
  rw [dropRef_last hp hx hc hf hr, setPoolLevel_eq, hcount, poolOf_setPool_self]
  exact ⟨rfl, rfl⟩

theorem dropRef_last_effect (hp : p = handlePool h) (hx : x = poolOf s p) (ht : t = dropRef s h) (hc : tget 0 x.counts h = 1)
    (hf : isFenced s (handleStone h) = false) (hr : x.retired.contains h = false) (hh : h < 2 ^ 32) (hhd : x.head < 2 ^ 32) :
    (poolOf t p).head = h ∧ tget 0 (poolOf t p).counts h = 0 ∧
      sramNat t (handleStone h) (handleOff h) 8 = h * 2 ^ 32 + x.head ∧ SameMemoryBut (handleStone h) (handleOff h) 8 s t ∧
      t = { s with pools := t.pools, sram := t.sram, ent := t.ent } := by
  obtain ⟨hhead, hcounts⟩ := poolOf_dropRef hp hx hc hf hr
  obtain ⟨ps, e, he⟩ := dropRef_linked hp hx hc hf hr
  subst ht
  refine ⟨hhead, hcounts ▸ tget_tput_self 0 _ _ _, ?_⟩
  rw [he]
  exact ⟨sramNat_linkedSram rfl hh hhd, ⟨fun _ => rfl, fun _ _ ho => sramByte_linkedSram rfl ho⟩, rfl⟩

/-! ### Rebuilds, waiting requests and the commit (09 R284, R287, R294) -/

theorem exec_listRebuildComplete (h0 : s.resetLow = false) (hb : (poolOf s p).rebuilding = true) :
    exec (.listRebuildComplete p) s = .next (endRebuild s p) := by
  have he : exec (.listRebuildComplete p) s = execListRebuildComplete p s := rfl
  rw [he, execListRebuildComplete, run_up h0, if_pos hb]

theorem exec_cisternGrant (h0 : s.resetLow = false) : exec (.cisternGrant p false) s = .next (grantOldest p s (poolOf s p).waiting) := by
  have he : exec (.cisternGrant p false) s = execCisternGrant p false s := rfl
  rw [he, execCisternGrant, run_up h0]
  rfl

theorem exec_cisternGrant_idle (h0 : s.resetLow = false) (hw : (poolOf s p).waiting = []) (b : Bool) :
    exec (.cisternGrant p b) s = .next s := by
  have he : exec (.cisternGrant p b) s = execCisternGrant p b s := rfl
  rw [he, execCisternGrant, run_up h0]
  dsimp only
  rw [hw, List.any_nil, Bool.and_false, if_neg (by decide)]
  rfl

theorem poolCommit_ok (h : poolCommit s = .ok t) : getE t 0x4040 0x02 = 1 := by
  unfold poolCommit at h
  dsimp only at h
  split at h
  · cases h
  · split at h
    · cases h
      exact getE_setE_self _ _ _
    · cases h

/-- Settles O42: a grant by its pool, a release by its checks and its last reference, a rebuild and a commit by their acts. -/
theorem buffers : Obligations.Buffers := by
  refine ⟨fun s t p owner refs h x y hx hy hg => grant_effect hx hy hg, fun s => ⟨?_, ?_, ?_, ?_, ?_, ?_⟩⟩
  · exact fun st h o v u x p hi ho hv hu hp hx => bufferRelease_cases hi ho hv hu hp hx
  · exact fun h p x t hp hx ht => ⟨fun hc => ht.trans (dropRef_many hp hx hc),
      fun hc hf hr hh hhd _ => dropRef_last_effect hp hx ht hc hf hr hh hhd⟩
  · intro p x u h0 hx hb hu
    subst hx hu
    exact exec_listRebuildComplete h0 hb
  · intro p q rest t h h0 hw hg
    rw [exec_cisternGrant h0, hw, grantOldest, hg]
  · exact fun p h0 hw b => exec_cisternGrant_idle h0 hw b
  · intro q ha
    refine ⟨fun t ht => ⟨done_of_act rfl ha ?_, poolCommit_ok ht⟩, fun c hc => refused_of_act rfl ha ?_⟩
    · rw [actPoolCommit, ht]
    · rw [actPoolCommit, hc]

end Sys2Proof.Machine
end

section
/-! PROOFS. Products at their engine: issue, the end of a tile and injection (06 R206 to R209, R222 to R228, 07 R229, R231). -/

-- As in the tests: proofs elaborated side by side exhaust memory in the joined text.
set_option Elab.async false

namespace Sys2Proof.Machine

variable {s t u : State} {st : Nat} {h : IHdr} {o : Operands} {r : List (BitVec 32)} {sp : Bool} {q : Req}

/-! ### Issue (06 R206 to R208) -/

/-- The tile of a product that its stone issues. -/
def issuedTile (x : Stone) (h : IHdr) (o : Operands) (r : List (BitVec 32)) : Tile :=
  { pc := x.pc, o := o, regs := r, recomputed := false, again := false, signal := sigOf h, soc := h.soc }

/-- The stone with a tile at an engine. -/
def withTile (sp : Bool) (q : Tile) (x : Stone) : Stone := if sp then { x with sparse := x.sparse ++ [q] } else { x with dense := x.dense ++ [q] }

/-- The stone with an in-flight slot taken. -/
def withSlot (kind : Nat) (srcs dsts : List (Nat × Nat)) (h : IHdr) (x : Stone) : Stone :=
  { x with inflight := x.inflight ++ [{ pc := x.pc, kind := kind, srcs := srcs, dsts := dsts, signal := sigOf h }], pc := x.pc + 1 }

/-- The state in which a product stands at its engine. -/
def productIssued (s : State) (st : Nat) (sp : Bool) (srcs dsts : List (Nat × Nat)) (h : IHdr) (q : Tile) : State :=
  modStone (modStone (issued s st) st (withSlot 1 srcs dsts h)) st (withTile sp q)

theorem stoneOf_productIssued (s : State) (st : Nat) (sp : Bool) (srcs dsts : List (Nat × Nat)) (h : IHdr) (q : Tile) :
    stoneOf (productIssued s st sp srcs dsts h q) st = withTile sp q (withSlot 1 srcs dsts h { stoneOf s st with stall := none }) := by
  unfold productIssued
  rw [stoneOf_modStone_self, stoneOf_modStone_self, stoneOf_issued]

theorem stoneOf_productIssued_ne {k : Nat} (hk : k ≠ st) (s : State) (sp : Bool) (srcs dsts : List (Nat × Nat)) (h : IHdr) (q : Tile) :
    stoneOf (productIssued s st sp srcs dsts h q) k = stoneOf s k := by
  unfold productIssued
  rw [stoneOf_modStone_ne hk, stoneOf_modStone_ne hk, stoneOf_issued_ne hk]

theorem productIssued_only (s : State) (st : Nat) (sp : Bool) (srcs dsts : List (Nat × Nat)) (h : IHdr) (q : Tile) :
    productIssued s st sp srcs dsts h q = { s with stones := (productIssued s st sp srcs dsts h q).stones } :=
  ((onlyStones_modStone _ _ _).trans (onlyStones_modStone _ _ _)).trans (onlyStones_modStone _ _ _)

/-- What the issue of a product goes on to. -/
def productEffect (sp : Bool) (st : Nat) (h : IHdr) (o : Operands) (r : List (BitVec 32)) (srcs : List (Nat × Nat)) (s : State) : State :=
  if prodOk sp o r = false then failStone s st 0x05
  else readSram s st .clean srcs [oRange o r] fun s =>
    if sp ∧ sparseOk s st o r = false then failStone (count s 0xA054 1) st 0x0C
    else modStone (takeSlot s st 1 srcs [oRange o r] h) st (withTile sp (issuedTile (stoneOf s st) h o r))

/-- A product whose operands are legal and whose reads are clean. -/
theorem run_issueProduct {srcs : List (Nat × Nat)} (hr : r = pRegs s st o)
    (hs : srcs = [wRange sp o r, aRange o r] ++ (if pAcc o then [oRange o r] else [])) (h0 : s.resetLow = false)
    (hi : canIssue s st = true) (hv : h.resv = 0) (ho : onlyFields [(111, 52)] o = true) (hh : h.soc = true ∨ pHandle o = 0)
    (hc : comboOk sp o = true) (hp : prodOk sp o r = true) (hw : issueWait (stoneOf s st) srcs [oRange o r] = none)
    (hb : badIn s st (srcs ++ edgeWords (oRange o r)) = none) :
    run s (issueProduct sp st h o .clean) = .next (if sp = true ∧ sparseOk s st o r = false
      then failStone (count (issued s st) 0xA054 1) st 0x0C
      else productIssued s st sp srcs [oRange o r] h (issuedTile (stoneOf s st) h o r)) := by
  have hiss : issues s st { h with soc := false } srcs [oRange o r] = true := by
    simp [issues, h0, hi, headerOk, hv, hw]
  have hok : (headerOk h true && onlyFields [(111, 52)] o && comboOk sp o && (h.soc || decide (pHandle o = 0))) = true := by
    rcases hh with hh | hh <;> simp [headerOk, hv, ho, hc, hh]
  have hb' : badIn (issued s st) st (srcs ++ [oRange o r].flatMap edgeWords) = none := by simpa using hb
  have hpc : (stoneOf (issued s st) st).pc = (stoneOf s st).pc := pc_issued s st
  have hq : ∀ q, modStone (takeSlot (issued s st) st 1 srcs [oRange o r] h) st (withTile sp q) =
      productIssued s st sp srcs [oRange o r] h q := fun _ => rfl
  have he : issueProduct sp st h o .clean s = issue s st
      (headerOk h true && onlyFields [(111, 52)] o && comboOk sp o && (h.soc || decide (pHandle o = 0))) srcs [oRange o r]
      (productEffect sp st h o r srcs) := by
    subst hr hs
    unfold issueProduct productEffect issuedTile withTile
    rfl
  rw [run_up h0, he]
  refine (congrArg Host.Outcome.next (issue_up hiss hok)).trans ?_
  · refine congrArg Host.Outcome.next ((if_neg (by simp [hp])).trans ((readRanges_clean hb').trans ?_))
    have htile : issuedTile (stoneOf (issued s st) st) h o r = issuedTile (stoneOf s st) h o r := by
      unfold issuedTile
      rw [hpc]
    have hso : sparseOk (issued s st) st o r = sparseOk s st o r := rfl
    rw [htile, hso, hq]

/-! ### The end of a tile (06 R222, R223) -/

theorem exec_tileComplete {busy : Nat} {flipped us : List Upset} {p : Tile} {rest : List Tile} {x : List BlockRun × Nat}
    (h0 : s.resetLow = false) (ht : tilesOf (stoneOf s st) sp = p :: rest) (ha : p.again = false)
    (hus : us = tileUpsets (stoneOf s st) sp flipped) (hb : badIn s st (tileSrcs sp p) = none)
    (hx : x = runTile s st sp us p.o p.regs)
    (hu : u = setArray (injUsed (countBy s 0xA050 (if sp then 4 else 3) busy) st sp) st sp
      (arrayAfter s st us p.o p.regs x.1 (arrayOf s st sp))) :
    exec (.tileComplete st sp flipped busy) s = .next (if tileAgrees us p.o x.1 then finishTile (setTiles u st sp rest) st sp us p
      else if p.recomputed then fenceStone u st
      else setTiles (count (disagreeFault u st sp p) 0xA050 6) st sp (requeue p rest)) := by
  have he : exec (.tileComplete st sp flipped busy) s = execTileComplete st sp flipped busy s := rfl
  subst hus hx hu
  rw [he, execTileComplete, run_up h0, ht]
  dsimp only
  rw [if_neg (by simp [ha]), readRanges_srcs_clean hb]
  rfl

theorem owner_injUsed (s : State) (st : Nat) (sp : Bool) : (stoneOf (injUsed s st sp) st).owner = (stoneOf s st).owner := by
  unfold injUsed
  rw [stoneOf_modStone_self]
  cases sp <;> split <;> rfl

theorem disagreeFault_eq {p : Tile} (ho : (stoneOf u st).owner = (stoneOf s st).owner) : disagreeFault u st sp p =
    raise (count u 0xA050 5) [mkFault 0 0x06 0 st (stoneOf s st).owner (2 ^ 18 * b2n sp + 16 * p.pc)] := by
  have hc : (stoneOf (count u 0xA050 5) st).owner = (stoneOf s st).owner := ho
  unfold disagreeFault stoneFault raise1
  rw [hc]

/-! ### ENGINE_INJECT (06 R228) -/

/-- The stone with `n` disagreements armed on an engine. -/
def armed (sp : Bool) (n : Nat) (x : Stone) : Stone :=
  if sp then { x with injSparse := max x.injSparse n } else { x with injDense := max x.injDense n }

theorem actEngineInject_done (hf : isFenced u (q.value % 4096) = false) : actEngineInject q u =
    .done (modStone u (q.value % 4096) (armed (bit 12 q.value) (if bit 13 q.value then 2 else 1))) := by
  unfold actEngineInject
  dsimp only
  rw [if_neg (by simp [hf])]
  rfl

theorem engineInject_done (ha : accepts 0xF050 0x01 q s = true) (hf : isFenced s (q.value % 4096) = false) :
    ∃ t n, Done (.engineInject q) 0xF050 0x01 q s t ∧ n = (if bit 13 q.value then 2 else 1) ∧
        t = { takeRequest s q with stones := t.stones } ∧ (∀ k, k ≠ q.value % 4096 → stoneOf t k = stoneOf s k) ∧
        (bit 12 q.value = true → stoneOf t (q.value % 4096) = { stoneOf s (q.value % 4096) with
          injSparse := max (stoneOf s (q.value % 4096)).injSparse n }) ∧
        (bit 12 q.value = false → stoneOf t (q.value % 4096) = { stoneOf s (q.value % 4096) with
          injDense := max (stoneOf s (q.value % 4096)).injDense n }) := by
  have hf' : isFenced (takeRequest s q) (q.value % 4096) = false := by rw [isFenced_takeRequest, hf]
  refine ⟨_, _, done_of_act rfl ha (actEngineInject_done hf'), rfl, onlyStones_modStone _ _ _, fun k hk => ?_, fun hb => ?_, fun hb => ?_⟩
  · rw [stoneOf_modStone_ne hk, stoneOf_takeRequest]
  · rw [stoneOf_modStone_self, stoneOf_takeRequest, hb]
    rfl
  · rw [stoneOf_modStone_self, stoneOf_takeRequest, hb]
    rfl

/-- Settles O43: the issue through its checks, the end of a tile by its comparisons, the injection by its stone. -/
theorem engineProducts : Obligations.EngineProducts := by
  refine ⟨fun s st h o r srcs x q hr hs hx hq h0 hi hv ho hh => ⟨fun hc hp hw hb => ?_, fun srcs' hs' hc hp hw hb => ⟨fun hk => ?_, fun hk => ?_⟩⟩,
    fun s st busy sp flipped us p rest x u h0 ht ha hus hb hx hu => ⟨fun hg => ?_, fun hg => ⟨fun hr => ?_, fun hr => ?_⟩, fun q hq => ⟨fun hf => ?_, fun hf => engineInject_done hq hf⟩⟩⟩
  · subst hx hq
    have he := run_issueProduct hr hs h0 hi hv ho hh hc hp hw hb
    rw [if_neg (by simp)] at he
    exact ⟨_, he, productIssued_only _ _ _ _ _ _ _, fun k hk => stoneOf_productIssued_ne hk _ _ _ _ _ _, stoneOf_productIssued _ _ _ _ _ _ _⟩
  · subst hx hq
    have he := run_issueProduct hr hs' h0 hi hv ho hh hc hp hw hb
    rw [if_neg (by simp [hk])] at he
    exact ⟨_, he, productIssued_only _ _ _ _ _ _ _, fun k hk => stoneOf_productIssued_ne hk _ _ _ _ _ _, stoneOf_productIssued _ _ _ _ _ _ _⟩
  · subst hx
    exact (run_issueProduct hr hs' h0 hi hv ho hh hc hp hw hb).trans (congrArg _ (if_pos ⟨rfl, hk⟩))
  · rw [exec_tileComplete h0 ht ha hus hb hx hu, if_pos hg]
  · rw [exec_tileComplete h0 ht ha hus hb hx hu, if_neg (by simp [hg]), if_pos hr]
  · have ho : (stoneOf u st).owner = (stoneOf s st).owner := by
      rw [hu]
      exact owner_injUsed _ _ _
    rw [exec_tileComplete h0 ht ha hus hb hx hu, if_neg (by simp [hg]), if_neg (by simp [hr]), disagreeFault_eq ho]
  · have hf' : isFenced (takeRequest s q) (q.value % 4096) = true := by rw [isFenced_takeRequest, hf]
    exact refused_of_act rfl hq (if_pos hf')

end Sys2Proof.Machine
end

section
/-! PROOFS. The compressor (07 R243 to R250). -/

-- As in the tests: proofs elaborated side by side exhaust memory in the joined text.
set_option Elab.async false

namespace Sys2Proof.Machine

variable {s t u : State} {st src dst aux hd mode : Nat} {h : IHdr} {o : Operands} {srcs : List (Nat × Nat)}

/-- What a mode leaves, the tile at `dst`. -/
def modeTile (mode : Nat) (s : State) (st src dst aux : Nat) (o : Operands) : State :=
  match mode with
  | 0 => compressActs s st src dst o
  | 1 => compressMask s st src dst aux o
  | 2 => compressWeights s st src dst o false (fun _ _ vs => largestTwo vs)
  | 3 => expandTile s st src dst o
  | _ => transposeTile s st src dst o

/-- The end of a mode: the instruction completes unless its input has stopped the context. -/
def modeEnd (t : State) (st : Nat) (h : IHdr) : State := if (stoneOf t st).run = .running then completeNow t st h else t

/-- What a compressor instruction goes on to, once issued. -/
def compressorEffect (mode st : Nat) (h : IHdr) (o : Operands) (src dst aux : Nat) (srcs dsts : List (Nat × Nat)) (s : State) : State :=
  if compRangesOk s st src dst aux o = false then failStone s st 0x05
  else readRanges s st srcs dsts fun s => modeEnd (modeTile mode s st src dst aux o) st h

section
variable (hs : src = (reg s st (fld 111 108 o)).toNat) (hd' : dst = (reg s st (fld 107 104 o)).toNat)
  (ha : aux = (reg s st (fld 103 100 o)).toNat) (hh : hd = sramNat s st src 8) (ho : onlyFields [(111, 67)] o = true)
  (hc : compOk o = true)
  (hr : srcs = (src, compSrc o hd) :: (if cMode o = 1 then
    [(aux, 8 + s24Bytes (hWfmt (sramNat s st aux 8)) (hRows (sramNat s st aux 8)) (hKb (sramNat s st aux 8)))] else []))
  (hi : issues s st h srcs [(dst, compDst o hd)] = true)
include hs hd' ha hh ho hc hr hi

theorem run_compressor (hm : cMode o = mode) :
    run s (compressor mode st h o) = .next (compressorEffect mode st h o src dst aux srcs [(dst, compDst o hd)] (issued s st)) := by
  have hok : (headerOk h false && onlyFields [(111, 67)] o && compOk o) = true := by simp [headerOk_of_issues hi, ho, hc]
  have he : compressor mode st h o s = issue s st (headerOk h false && onlyFields [(111, 67)] o && compOk o) srcs
      [(dst, compDst o hd)] (compressorEffect mode st h o src dst aux srcs [(dst, compDst o hd)]) := by
    subst hs hd' ha hh
    rw [hm] at hr
    subst hr
    exact if_neg (fun hn => hn.2 hm)
  rw [run_up (up_of_issues hi), he, issue_up hi hok]

theorem run_compressor_ends (hm : cMode o = mode) (hk : compRangesOk s st src dst aux o = true)
    (hb : badIn s st (srcs ++ edgeWords (dst, compDst o hd)) = none) :
    run s (compressor mode st h o) = .next (modeEnd (modeTile mode (issued s st) st src dst aux o) st h) := by
  have hk' : compRangesOk (issued s st) st src dst aux o = true := hk
  have hb' : badIn (issued s st) st (srcs ++ [(dst, compDst o hd)].flatMap edgeWords) = none := by simpa using hb
  rw [run_compressor hs hd' ha hh ho hc hr hi hm, compressorEffect, if_neg (by simp [hk']), readRanges_clean hb']

theorem run_compressor_illegal (hm : cMode o = mode) (hk : compRangesOk s st src dst aux o = false) :
    run s (compressor mode st h o) = .next (failStone (issued s st) st 0x05) :=
  (run_compressor hs hd' ha hh ho hc hr hi hm).trans (congrArg _ (if_pos hk))

end

/-- An EXPAND of a DENSE tile copies its rows (07 R248). -/
theorem expandTile_dense (hh : hd = sramNat s st src 8) (h0 : hFormat hd = 0) (h1 : hKind hd = 1) (h2 : hRows hd = cRows o)
    (h3 : hKb hd = cKb o) (h4 : hPayload hd ≤ cRows o * a8Row (cKb o)) (h5 : hd % 2 ^ 11 = 0) :
    expandTile (issued s st) st src dst o = sramWrite (issued s st) st dst (sramRead s st (src + 8) (cRows o * a8Row (cKb o))) := by
  have hu : sramNat (issued s st) st src 8 = hd := hh.symm
  unfold expandTile
  dsimp only
  rw [hu, if_neg (by simp [h0, h1, h2, h3, h4]; omega), if_pos h0, sramRead_issued]

theorem run_sramWrite (s : State) (st off : Nat) (bs : List Byte) : (stoneOf (sramWrite s st off bs) st).run = (stoneOf s st).run := by
  unfold sramWrite
  rw [stoneOf_setStone_self]

/-- Settles O45: every mode through the issue of the instruction. -/
theorem compressorRuns : Obligations.CompressorRuns := by
  intro s st h o src dst aux hd u srcs hs hd' ha hh hu ho hc hr hi
  subst hu
  have hend := fun mode => run_compressor_ends (mode := mode) hs hd' ha hh ho hc hr hi
  have hbad := fun mode => run_compressor_illegal (mode := mode) hs hd' ha hh ho hc hr hi
  refine ⟨fun hk hb => ⟨fun t hm ht => ?_, fun t hm ht => ?_, fun t hm ht => ?_, fun hm h0 h1 h2 h3 h4 h5 => ?_, fun t hm ht => ?_⟩,
    fun hk => ⟨fun hm => hbad 0 hm hk, fun hm => hbad 1 hm hk, fun hm => hbad 2 hm hk, fun hm => hbad 3 hm hk, fun hm => hbad 4 hm hk⟩⟩
  · exact ht ▸ hend 0 hm hk hb
  · exact ht ▸ hend 1 hm hk hb
  · exact ht ▸ hend 2 hm hk hb
  · have hrun : (stoneOf (sramWrite (issued s st) st dst (sramRead s st (src + 8) (cRows o * a8Row (cKb o)))) st).run = .running := by
      rw [run_sramWrite, stoneOf_issued]
      exact (running_of_issues hi).1
    have hx : modeTile 3 (issued s st) st src dst aux o = expandTile (issued s st) st src dst o := rfl
    refine (hend 3 hm hk hb).trans ?_
    rw [hx, expandTile_dense hh h0 h1 h2 h3 h4 h5, modeEnd, if_pos hrun]
  · exact ht ▸ hend 4 hm hk hb

end Sys2Proof.Machine
end

section
/-! PROOFS. Umora Link: flits, packets and the states of the link (15 R479 to R485). -/

-- As in the tests: proofs elaborated side by side exhaust memory in the joined text.
set_option Elab.async false

namespace Sys2Proof.Machine

variable {s t u : State} {f : Flit} {x : Umora} {n : Nat}

/-! ### Flits (15 R480, R481) -/

/-- The idle flit with which the part answers. -/
def answerOf (x : Umora) (nak : Bool) : Out := .flit ((x.txSeq + 1023) % 1024) x.rxSeq nak x.gotP x.gotN

theorem answerFlit_eq (s : State) (nak : Bool) : answerFlit s nak = { s with out := s.out ++ [answerOf s.umora nak] } := by
  have h : answerFlit s nak = emit s (answerOf s.umora nak) := rfl
  rw [h, emit_local rfl]

theorem linkUp_congr (h : t.ent = s.ent) : linkUp t = linkUp s := by
  unfold linkUp
  rw [getE_of_ent h]

/-- Nothing waits for the link: the queue is empty, and no post waits for a yield. -/
theorem pumpUmora_idle (hq : s.umora.queue = []) (hp : ∀ p ∈ s.posts, p.ofYield = false) : pumpUmora s = s := by
  have hf : s.posts.filter (·.ofYield) = [] := List.filter_eq_nil_iff.2 fun p hm => by simp [hp p hm]
  have hs : sendQueue s.umora = (s.umora, []) := by
    unfold sendQueue
    rw [hq, drain, ← hq]
  unfold pumpUmora
  rw [hs]
  split
  · rfl
  · simp [hf, forEach]

/-- A numbered flit is accepted. -/
def acceptFlit (x : Umora) (f : Flit) : Umora := { x with rxSeq := f.seq % 1024, nakOut := false }

/-- What the header of a flit without NAK leaves. -/
def headerTaken (x : Umora) (f : Flit) : Umora :=
  { x with replay := afterFlit f.ackSeq x.replay, creditP := f.creditP % 4096, creditN := f.creditN % 4096 }

theorem takeHeader_ack (s : State) (h : f.nak = false) : takeHeader s f = { s with umora := headerTaken s.umora f } :=
  if_neg (by simp [h])

theorem execFlitReceived_good (h0 : s.resetLow = false) (hl : linkUp s = true) (hc : f.crcOk = true) (hi : f.idle = false)
    (hs : f.seq = (s.umora.rxSeq + 1) % 1024) : exec (.flitReceived f) s =
      .next (pumpUmora (takeHeader (answerFlit { s with umora := acceptFlit s.umora f } false) f)) := by
  have he : exec (.flitReceived f) s = execFlitReceived f s := rfl
  rw [he, execFlitReceived, run_up h0, if_neg (by simp [hl]), if_neg (by simp [hc, hs])]
  dsimp only
  rw [if_neg (by simp [hi])]
  rfl

theorem execFlitReceived_idle (h0 : s.resetLow = false) (hl : linkUp s = true) (hc : f.crcOk = true) (hi : f.idle = true) :
    exec (.flitReceived f) s = .next (pumpUmora (takeHeader s f)) := by
  have he : exec (.flitReceived f) s = execFlitReceived f s := rfl
  rw [he, execFlitReceived, run_up h0, if_neg (by simp [hl]), if_neg (by simp [hc, hi])]
  dsimp only
  rw [if_pos hi]

theorem execFlitReceived_bad (h0 : s.resetLow = false) (hl : linkUp s = true)
    (h : f.crcOk = false ∨ (f.idle = false ∧ f.seq ≠ (s.umora.rxSeq + 1) % 1024)) :
    exec (.flitReceived f) s = .next (discardFlit s) := by
  have he : exec (.flitReceived f) s = execFlitReceived f s := rfl
  rw [he, execFlitReceived, run_up h0, if_neg (by simp [hl]), if_pos h]

theorem flit_accepted (h0 : s.resetLow = false) (hl : linkUp s = true) (hc : f.crcOk = true) (hi : f.idle = false)
    (hs : f.seq = (s.umora.rxSeq + 1) % 1024) (hn : f.nak = false) :
    ∃ t, exec (.flitReceived f) s = .next (pumpUmora t) ∧ t.umora.rxSeq = f.seq ∧ t.umora.nakOut = false ∧
      t.umora.creditP = f.creditP % 4096 ∧ t.umora.creditN = f.creditN % 4096 ∧ t.umora.replay = afterFlit f.ackSeq s.umora.replay ∧
      t.out = s.out ++ [.flit ((s.umora.txSeq + 1023) % 1024) f.seq false s.umora.gotP s.umora.gotN] ∧
      t = { s with umora := t.umora, out := t.out } ∧
      (s.umora.queue = [] → (∀ p ∈ s.posts, p.ofYield = false) → pumpUmora t = t) := by
  have hm : f.seq % 1024 = f.seq := by omega
  have he := execFlitReceived_good h0 hl hc hi hs
  rw [takeHeader_ack _ hn, answerFlit_eq] at he
  have ha : answerOf (acceptFlit s.umora f) false = .flit ((s.umora.txSeq + 1023) % 1024) f.seq false s.umora.gotP s.umora.gotN := by
    unfold answerOf acceptFlit
    rw [hm]
  exact ⟨_, he, hm, rfl, rfl, rfl, rfl, congrArg (fun o => s.out ++ [o]) ha, rfl, fun hq hp => pumpUmora_idle hq hp⟩

theorem discardFlit_spec (s : State) : (discardFlit s).umora = { s.umora with nakOut := true } ∧
    (discardFlit s).out = s.out ++ [.flit ((s.umora.txSeq + 1023) % 1024) s.umora.rxSeq true s.umora.gotP s.umora.gotN] ∧
    discardFlit s = { s with umora := (discardFlit s).umora, out := (discardFlit s).out, ent := (discardFlit s).ent } ∧
    getE (discardFlit s) 0xA0B0 0x01 = (getE s 0xA0B0 0x01 + 1) % 2 ^ 64 ∧ SameEntriesBut [(0xA0B0, 1)] s (discardFlit s) := by
  unfold discardFlit
  rw [answerFlit_eq]
  exact ⟨rfl, rfl, rfl, getE_countBy_self (s := s) 0xA0B0 0x01 1,
    (sameEntriesBut_countBy s (by decide) (by decide) 1).congr rfl rfl⟩

/-! ### Packets to host memory (15 R484, R485) -/

theorem hostPackets_write {a : Nat} {bs : List Byte} (h : bs.length ≤ 4096) : hostPackets (.hostWrite a bs) = [.hostWrite a bs] := by
  have hc : max 1 (cdiv bs.length 4096) = 1 := by
    unfold cdiv
    omega
  unfold hostPackets
  dsimp only
  rw [hc]
  simp [List.take_of_length_le h]

/-- The link with a packet more in its queue. -/
def queued (x : Umora) (o : Out) : Umora :=
  { x with queue := x.queue ++ [{ serial := x.serial, ctx := none, out := o }], serial := x.serial + 1 }

theorem emit_hostWrite {a : Nat} {bs : List Byte} (h : bs.length ≤ 4096) : emit s (.hostWrite a bs) =
    { s with out := s.out ++ (if linkUp s then sendQueue (queued s.umora (.hostWrite a bs)) else (queued s.umora (.hostWrite a bs), [])).2,
             umora := (if linkUp s then sendQueue (queued s.umora (.hostWrite a bs)) else (queued s.umora (.hostWrite a bs), [])).1 } := by
  have hs : sendHost (linkUp s) none (.hostWrite a bs) s.umora =
      if linkUp s then sendQueue (queued s.umora (.hostWrite a bs)) else (queued s.umora (.hostWrite a bs), []) := by
    unfold sendHost
    rw [hostPackets_write h]
    rfl
  rw [← hs]
  rfl

theorem addFlits_spec (n : Nat) (x : Umora) : (addFlits n x).replay.length = x.replay.length + n ∧ (addFlits n x).usedP = x.usedP ∧
    (addFlits n x).queue = x.queue := by
  induction n generalizing x with
  | zero => exact ⟨rfl, rfl, rfl⟩
  | succ n ih =>
    obtain ⟨h1, h2, h3⟩ := ih { x with txSeq := (x.txSeq + 1) % 1024, replay := x.replay ++ [(x.txSeq, 0)] }
    refine ⟨h1.trans ?_, h2, h3⟩
    rw [List.length_append, List.length_singleton]
    omega

/-- The link with a posted packet sent. -/
def postedSent (x : Umora) (o : Out) : Umora :=
  { addFlits (flitsOf o) x with usedP := ((addFlits (flitsOf o) x).usedP + unitsOf o) % 4096 }

theorem sendQueue_single {a : Nat} {bs : List Byte} (hq : x.queue = []) (hc : canSend x (.hostWrite a bs) = true) :
    sendQueue (queued x (.hostWrite a bs)) = (postedSent { x with queue := [], serial := x.serial + 1 } (.hostWrite a bs),
      [.hostWrite a bs]) := by
  have hc' : canSend { x with queue := [], serial := x.serial + 1 } (.hostWrite a bs) = true := hc
  unfold sendQueue queued
  rw [hq, List.nil_append, drain, if_neg (by simp [hc'])]
  rfl

theorem emit_hostWrite_cases {a : Nat} {bs : List Byte} (hb : bs.length ≤ 4096) (ht : t = emit s (.hostWrite a bs)) :
    (linkUp s = false → t.out = s.out ∧
      t.umora = { s.umora with queue := s.umora.queue ++ [{ serial := s.umora.serial, ctx := none, out := .hostWrite a bs }],
                               serial := s.umora.serial + 1 }) ∧
    (linkUp s = true → s.umora.queue = [] → canSend s.umora (.hostWrite a bs) = true →
      t.out = s.out ++ [.hostWrite a bs] ∧ t.umora.queue = [] ∧ t.umora.usedP = (s.umora.usedP + (bs.length + 79) / 64) % 4096 ∧
      t.umora.replay.length = s.umora.replay.length + (bs.length + 255) / 240) ∧
    t = { s with out := t.out, umora := t.umora } := by
  rw [emit_hostWrite hb] at ht
  refine ⟨fun hl => ?_, fun hl hq hc => ?_, by rw [ht]⟩
  · rw [if_neg (by simp [hl])] at ht
    rw [ht]
    exact ⟨List.append_nil _, rfl⟩
  · rw [if_pos hl, sendQueue_single hq hc] at ht
    obtain ⟨h1, h2, h3⟩ := addFlits_spec (flitsOf (.hostWrite a bs)) { s.umora with queue := [], serial := s.umora.serial + 1 }
    have hfl : flitsOf (.hostWrite a bs) = (bs.length + 255) / 240 := by
      unfold flitsOf pktBytes cdiv
      dsimp only
      omega
    have hun : unitsOf (.hostWrite a bs) = (bs.length + 79) / 64 := by
      unfold unitsOf pktBytes cdiv
      dsimp only
      omega
    rw [ht, ← hfl, ← hun]
    refine ⟨rfl, h3, ?_, h1⟩
    exact congrArg (fun m => (m + unitsOf (.hostWrite a bs)) % 4096) h2

/-! ### The states of the link (15 R482, R483, R485) -/

theorem retrainUmora_spec (s : State) : getE (retrainUmora s) 0xB010 0x01 = 1 ∧ (retrainUmora s).umora.held = true ∧
    getE (retrainUmora s) 0xA0B0 0x03 = (getE s 0xA0B0 0x03 + 1) % 2 ^ 64 ∧ SameEntriesBut [(0xB010, 1), (0xA0B0, 3)] s (retrainUmora s) ∧
    retrainUmora s = { s with umora := (retrainUmora s).umora, ent := (retrainUmora s).ent } := by
  let w := setE { s with umora := { s.umora with held := true } } 0xB010 0x01 1
  have h1 : getE w 0xB010 0x01 = 1 := getE_setE_self _ _ _
  have h2 : getE w 0xA0B0 0x03 = getE s 0xA0B0 0x03 :=
    getE_setE_ne (s := { s with umora := { s.umora with held := true } }) (by decide) 1
  have hw : SameEntriesBut [(0xB010, 1)] s w := (sameEntriesBut_setE s (by decide) (by decide) 1).congr rfl rfl
  refine ⟨(getE_count_ne (s := w) (by decide)).trans h1, rfl, ?_, (hw.mono (by simp)).trans
    ((sameEntriesBut_countBy w (by decide) (by decide) 1).mono (by simp)), rfl⟩
  exact (getE_countBy_self (s := w) 0xA0B0 0x03 1).trans (by rw [h2])

/-- The link as a training of `lanes` lanes leaves it. -/
def trainedUp (s : State) (lanes n : Nat) : State :=
  let v := setE (setE s 0xB010 0x01 (if lanes = 8 then 2 else 3)) 0xB010 0x02 (n % 2 ^ 32)
  let w := setE v 0x3010 0x01 (setBit (getE v 0x3010 0x01) 13)
  { w with umora := { w.umora with held := false, downFault := false } }

theorem trainedUp_only (s : State) (lanes n : Nat) :
    trainedUp s lanes n = { s with umora := (trainedUp s lanes n).umora, ent := (trainedUp s lanes n).ent } := by
  unfold trainedUp
  rfl

theorem trainedUp_spec (s : State) (lanes n : Nat) : getE (trainedUp s lanes n) 0xB010 0x01 = (if lanes = 8 then 2 else 3) ∧
    getE (trainedUp s lanes n) 0xB010 0x02 = n % 2 ^ 32 ∧ bit 13 (getE (trainedUp s lanes n) 0x3010 0x01) = true ∧
    (trainedUp s lanes n).umora.downFault = false ∧
    SameEntriesBut [(0xB010, 1), (0xB010, 2), (0x3010, 1)] s (trainedUp s lanes n) := by
  let a := setE s 0xB010 0x01 (if lanes = 8 then 2 else 3)
  let v := setE a 0xB010 0x02 (n % 2 ^ 32)
  let w := setE v 0x3010 0x01 (setBit (getE v 0x3010 0x01) 13)
  have hent : (trainedUp s lanes n).ent = w.ent := rfl
  have hE := fun i j => getE_of_ent hent i j
  have h3 : getE w 0x3010 0x01 = setBit (getE v 0x3010 0x01) 13 := getE_setE_self _ _ _
  have ha : SameEntriesBut [(0xB010, 1), (0xB010, 2), (0x3010, 1)] s a := (sameEntriesBut_setE s (by decide) (by decide) _).mono (by simp)
  have hv : SameEntriesBut [(0xB010, 1), (0xB010, 2), (0x3010, 1)] a v := (sameEntriesBut_setE a (by decide) (by decide) _).mono (by simp)
  have hw : SameEntriesBut [(0xB010, 1), (0xB010, 2), (0x3010, 1)] v w := (sameEntriesBut_setE v (by decide) (by decide) _).mono (by simp)
  refine ⟨(hE _ _).trans ?_, (hE _ _).trans ?_, ?_, rfl, fun i j hi hj hm => (hE i j).trans (((ha.trans hv).trans hw) i j hi hj hm)⟩
  · exact (getE_setE_ne (s := v) (by decide) _).trans ((getE_setE_ne (s := a) (by decide) _).trans (getE_setE_self _ _ _))
  · exact (getE_setE_ne (s := v) (by decide) _).trans (getE_setE_self _ _ _)
  · rw [hE, h3, bit_setBit]

theorem exec_umoraTrainingComplete {lanes : Nat} (h0 : s.resetLow = false) (hl : linkUp s = false) (hh : s.umora.held = false)
    (hn : lanes = 8 ∨ lanes = 4) : exec (.umoraTrainingComplete lanes n) s =
      .next (if lanes = 4 then raise (pumpUmora (trainedUp s lanes n)) [mkFault 0 0x42 6 6 none 0] else pumpUmora (trainedUp s lanes n)) := by
  have he : exec (.umoraTrainingComplete lanes n) s = execUmoraTrainingComplete lanes n s := rfl
  have hheld : ∀ i j v i' j' v' i'' j'' v'', ¬((setE (setE (setE s i j v) i' j' v') i'' j'' v'').umora.held = true) := by
    intro i j v i' j' v' i'' j'' v'' h
    exact absurd (hh.symm.trans h) (by decide)
  rw [he, execUmoraTrainingComplete, run_up h0, if_neg (by simp [hl]), if_neg (by omega)]
  dsimp only
  rw [if_neg (hheld _ _ _ _ _ _ _ _ _)]
  rfl

theorem exec_umoraDown (h0 : s.resetLow = false) (hl : linkUp s = false) (hd : s.umora.downFault = false)
    (hu : u = raise { failHostFills s with
          umora := { s.umora with downFault := true, reads := [], queue := s.umora.queue.filter (fun p => pktClass p.out != 1) } }
        [mkFault 1 0x43 6 6 none 0]) :
    exec .umoraDown s = .next (forEach (forEach u (u.dmas.filter (fun d => usesHost d.desc)) dropDma)
      (u.dmas.filter (fun d => usesHost d.desc)) (fun t m => startDma (dmaError t m) m.stone)) := by
  have he : exec .umoraDown s = execUmoraDown s := rfl
  rw [he, execUmoraDown, run_up h0, if_neg (by simp [hl, hd]), hu]
  rfl

/-- The link with a completion more, its read ended with its last packet or an error. -/
def completed (x : Umora) (tag status : Nat) (last : Bool) (bs : List Byte) : Umora :=
  { x with
    reads := if last ∨ status ≠ 0 then x.reads.filter (fun r => r.tag != tag) else x.reads
    comps := x.comps ++ [{ tag := tag, status := status, bytes := bs }] }

theorem exec_hostCompletion {tag status : Nat} {last : Bool} {bs : List Byte} (h0 : s.resetLow = false)
    (h : s.umora.reads.any (fun r => r.tag == tag) = true) :
    exec (.hostCompletion tag status last bs) s = .next (pumpUmora { s with umora := completed s.umora tag status last bs }) := by
  have he : exec (.hostCompletion tag status last bs) s = execHostCompletion tag status last bs s := rfl
  rw [he, execHostCompletion, run_up h0, if_pos h]
  rfl

/-- Settles O22: a flit by its header and its answer, a packet by the queue, and the states of the link by what they write. -/
theorem umoraLink : Obligations.UmoraLink := by
  refine ⟨fun s f h0 hl => ⟨fun hc hi hs hn => flit_accepted h0 hl hc hi hs hn, fun hc hi => execFlitReceived_idle h0 hl hc hi, fun h => ?_⟩,
    fun s t a bs hb ht => emit_hostWrite_cases hb ht, fun s h0 => ⟨fun hl => ?_, fun q ha => done_of_act rfl ha rfl, fun n hl hh => ?_,
    fun n hl hh => ?_, fun hl hd u gone hu hg => ?_, fun tag status last bs h => ?_⟩⟩
  · exact ⟨_, execFlitReceived_bad h0 hl h, discardFlit_spec s⟩
  · have he : exec .umoraLockLoss s = .next (retrainUmora s) := by
      have hx : exec .umoraLockLoss s = execUmoraLockLoss s := rfl
      rw [hx, execUmoraLockLoss, run_up h0, if_pos hl]
    exact ⟨_, he, retrainUmora_spec s⟩
  · obtain ⟨h1, h2, h3, h4, h5⟩ := trainedUp_spec s 8 n
    exact ⟨trainedUp s 8 n, (exec_umoraTrainingComplete h0 hl hh (.inl rfl)).trans (congrArg _ (if_neg (by decide))), h1, h2, h3, h4, h5, trainedUp_only s 8 n⟩
  · obtain ⟨h1, h2, -, -, -⟩ := trainedUp_spec s 4 n
    exact ⟨trainedUp s 4 n, (exec_umoraTrainingComplete h0 hl hh (.inr rfl)).trans (congrArg _ (if_pos rfl)), h1, h2, trainedUp_only s 4 n⟩
  · rw [hg]
    exact exec_umoraDown h0 hl hd hu
  · refine ⟨_, exec_hostCompletion h0 h, rfl, rfl, fun hl => ?_, fun hl hs => ?_⟩
    · have hr : (completed s.umora tag status last bs).reads = s.umora.reads.filter (fun r => r.tag != tag) := if_pos hl
      have hf : (s.umora.reads.filter (fun r => r.tag != tag)).any (fun r => r.tag == tag) = false := by
        rw [List.any_eq_false]
        intro r hm
        have := (List.mem_filter.1 hm).2
        simpa using this
      exact (congrArg (List.any · (fun r => r.tag == tag)) hr).trans hf
    · exact if_neg (by simp [hl, hs])

end Sys2Proof.Machine
end

section
/-! PROOFS. Course DMA, scrubbing, fencing and remapping (05 R168 to R171, R179 to R183, R193 to R197). -/

-- As in the tests: proofs elaborated side by side exhaust memory in the joined text.
set_option Elab.async false

namespace Sys2Proof.Machine

variable {s t u : State} {st c l b off n : Nat} {h : IHdr} {o : Operands} {m : Dma} {q : Req}

/-! ### What requests for other packages and for host memory change -/

/-- Requests, packets and messages are all that may differ, and what counts them. -/
def OnlyNet (s t : State) : Prop :=
  ∃ a b c d e f, t = { s with senders := a, injQ := b, stalledInj := c, ent := d, out := e, umora := f }

namespace OnlyNet

protected theorem refl (s : State) : OnlyNet s s := ⟨_, _, _, _, _, _, rfl⟩

theorem trans (h1 : OnlyNet s t) (h2 : OnlyNet t u) : OnlyNet s u := by
  obtain ⟨_, _, _, _, _, _, rfl⟩ := h1
  obtain ⟨a, b, c, d, e, f, rfl⟩ := h2
  exact ⟨a, b, c, d, e, f, rfl⟩

theorem emit (s : State) (o : Out) : OnlyNet s (Machine.emit s o) := ⟨_, _, _, _, _, _, rfl⟩

theorem setSender (s : State) (k : Nat) (x : Sender) : OnlyNet s (Machine.setSender s k x) := ⟨_, _, _, _, _, _, rfl⟩

theorem inject (s : State) (w : Nat) (p : Packet) : OnlyNet s (Machine.inject s w p) := ⟨_, _, _, _, _, _, inject_only s w p⟩

theorem pumpUnit (kind unit n : Nat) (s : State) : OnlyNet s (Machine.pumpUnit kind unit n s) := by
  induction n generalizing s with
  | zero => exact .refl s
  | succ n ih =>
    unfold Machine.pumpUnit
    dsimp only
    split
    · split
      · exact .refl s
      · exact ((OnlyNet.setSender s _ _).trans (.inject _ _ _)).trans (ih _)
    · exact .refl s

theorem unitRequests (s : State) (kind unit : Nat) (qs : List OutReq) : OnlyNet s (Machine.unitRequests s kind unit qs) :=
  (OnlyNet.setSender s _ _).trans (.pumpUnit kind unit _ _)

theorem forEach {α : Type} {g : State → α → State} (hg : ∀ t a, OnlyNet t (g t a)) (l : List α) (s : State) :
    OnlyNet s (Machine.forEach s l g) := by
  induction l generalizing s with
  | nil => exact .refl s
  | cons a l ih => exact (hg s a).trans (ih _)

theorem sameMemory (h : OnlyNet s t) : SameMemory s t := by
  obtain ⟨_, _, _, _, _, _, rfl⟩ := h
  exact ⟨fun _ => rfl, fun _ _ => rfl⟩

theorem stoneOf_eq (h : OnlyNet s t) (k : Nat) : stoneOf t k = stoneOf s k := by
  obtain ⟨_, _, _, _, _, _, rfl⟩ := h
  rfl

theorem dmas_eq (h : OnlyNet s t) : t.dmas = s.dmas := by
  obtain ⟨_, _, _, _, _, _, rfl⟩ := h
  rfl

end OnlyNet

/-! ### A descriptor begins (05 R181) -/

theorem startDma_none (hd : ∀ d ∈ s.dmas, d.stone ≠ st) : startDma s st = s := by
  have ho : oldestDma s st = none := List.find?_eq_none.2 fun d hm => by simpa using hd d hm
  unfold startDma
  rw [ho]

theorem startDma_begun (ho : oldestDma s st = some m) (hs : m.started = true) : startDma s st = s := by
  unfold startDma
  rw [ho]
  simp [hs]

/-- No row of a descriptor that stays in the package reads another package's memory. -/
theorem far_of_crosses (hc : crosses s m.desc = false) : (if dmaFormOk m.desc = true ∧ dmaSrcSpace m.desc = 0 then
    ((List.range (dmaRows m.desc)).map (fun i => (i * dmaLen m.desc, dmaSrc m.desc + i * dmaSrcStride m.desc))).filter
      (fun r => isFar s r.2) else []) = [] := by
  split
  · rename_i hf
    obtain ⟨hform, hsp⟩ := hf
    unfold crosses at hc
    rw [hform, Bool.true_and, List.any_eq_false] at hc
    refine List.filter_eq_nil_iff.2 fun r hr => ?_
    obtain ⟨i, hi, rfl⟩ := List.mem_map.1 hr
    have := hc i hi
    simp only [farRow, hsp, decide_true, Bool.true_and, Bool.or_eq_true, not_or] at this
    exact this.1
  · rfl

/-- The descriptor as its course DMA begins it. -/
def begun (m : Dma) : Dma := { m with started := true, want := 0, waits := false, stage := none }

theorem beginDma_local (hc : crosses s m.desc = false) : OnlyNet (modDma s m begun) (beginDma s m none) := by
  unfold beginDma
  dsimp only
  rw [far_of_crosses hc]
  split
  · exact (OnlyNet.unitRequests _ _ _ _).trans (.forEach (fun t r => .emit t _) _ _)
  · exact .unitRequests _ _ _ _

theorem modDma_append {l : List Dma} (hl : s.dmas = l ++ [m]) (hm : m ∉ l) (f : Dma → Dma) :
    (modDma s m f).dmas = l ++ [f m] := by
  have hi : (l ++ [m]).findIdx (· == m) = l.length := by
    rw [List.findIdx_append, if_neg]
    · simp
    · rw [List.findIdx_lt_length]
      simpa using hm
  unfold modDma
  rw [hl, hi]
  simp

/-- The oldest descriptor of a stone begins where it stays in the package: what it starts are its requests. -/
theorem startDma_local {l : List Dma} (hl : s.dmas = l ++ [m]) (hm : m.stone = st) (hs : m.started = false) (hw : m.waits = false)
    (hc : crosses s m.desc = false) (ho : ∀ d ∈ l, d.stone = st → d.started = true) :
    ∃ v, OnlyNet v (startDma s st) ∧ v.dmas = l ++ [if l.all (fun d => d.stone != st) then begun m else m] ∧
      v = { s with dmas := v.dmas } := by
  by_cases ha : l.all (fun d => d.stone != st) = true
  · have hnone : l.find? (fun d => d.stone == st) = none := List.find?_eq_none.2 fun d hd => by
      simpa using List.all_eq_true.1 ha d hd
    have hold : oldestDma s st = some m := by
      unfold oldestDma
      rw [hl, List.find?_append, hnone]
      simp [hm]
    have hmem : m ∉ l := fun h => by simpa [hm] using List.all_eq_true.1 ha m h
    refine ⟨modDma s m begun, ?_, ?_, rfl⟩
    · unfold startDma
      rw [hold]
      dsimp only
      rw [if_neg (by simp [hs, hw]), if_neg (by simp [hc])]
      exact beginDma_local hc
    · rw [if_pos ha, modDma_append hl hmem]
  · obtain ⟨d, hd, hds⟩ : ∃ d, l.find? (fun d => d.stone == st) = some d ∧ d.started = true := by
      cases hf : l.find? (fun d => d.stone == st) with
      | none =>
        refine absurd ?_ ha
        rw [List.all_eq_true]
        intro d hd
        simpa using List.find?_eq_none.1 hf d hd
      | some d => exact ⟨d, rfl, ho d (List.mem_of_find?_eq_some hf) (by simpa using List.find?_some hf)⟩
    have hold : oldestDma s st = some d := by
      unfold oldestDma
      rw [hl, List.find?_append, hd]
      rfl
    refine ⟨s, ?_, by rw [if_neg ha, hl], rfl⟩
    rw [startDma_begun hold hds]
    exact .refl s

/-! ### DMA POST (05 R180, R181) -/

/-- What a completion leaves of a stone that runs, of the others, of memory and of the descriptors. -/
theorem completeNow_spec (hx : stoneOf u st = { stoneOf s st with stall := none }) (hr : (stoneOf s st).run = .running) :
    (stoneOf (completeNow u st h) st).regs = (goesOn h (stoneOf s st)).regs ∧ OtherStones st u (completeNow u st h) ∧
      SameMemory u (completeNow u st h) ∧ (completeNow u st h).dmas = u.dmas := by
  let v := signalDone (nextPc u st) st (sigOf h)
  have hset : Settles v (completeNow u st h) := settles_settleStone v st
  have hv : OnlyStones u v := (onlyStones_modStone _ _ _).trans (onlyStones_signalDone _ _ _)
  have hn : stoneOf (nextPc u st) st = { stoneOf s st with pc := (stoneOf s st).pc + 1, stall := none } := by
    unfold nextPc
    rw [stoneOf_modStone_self, hx]
  have hsig : stoneOf v st = goesOn h (stoneOf s st) := by
    refine (stoneOf_signalDone (by rw [hn, hr]; exact fun _ _ _ => StoneRun.noConfusion)).trans ?_
    rw [hn]
    rfl
  obtain ⟨hframe, hregs⟩ := hset
  refine ⟨by rw [hregs, hsig], fun k hk => ?_, hv.sameMemory.trans (Settles.memory ⟨hframe, hregs⟩), ?_⟩
  · rw [hregs, stoneOf_signalDone_ne hk]
    exact congrArg Stone.regs (stoneOf_modStone_ne hk _)
  · have h1 : (completeNow u st h).dmas = v.dmas := by rw [hframe]
    rw [h1, hv]

theorem exec_dmaPost (hoff : off = (reg s st (fld 111 108 o)).toNat) (hi : issues s st h [(off, 32)] [] = true)
    (ho : onlyFields [(111, 108)] o = true) (ha : off % 32 = 0) (hr : off + 32 ≤ 2 ^ 18) (hb : badIn s st [(off, 32)] = none)
    (h8 : (s.dmas.filter (fun d => d.stone == st)).length < 8) (h64 : (s.dmas.filter (fun d => d.stone / 64 == st / 64)).length < 64)
    (hm : m = { stone := st, desc := BitVec.ofNat 256 (fromLE (sramRead s st off 32)), started := false, want := 0, got := [],
                moved := false, failed := false, waits := false, stage := none }) :
    exec (.dmaPost st h o) s = .next (completeNow (startDma { issued s st with dmas := s.dmas ++ [m] } st) st h) := by
  have he : exec (.dmaPost st h o) s = execDmaPost st h o s := rfl
  have hok : (headerOk h false && onlyFields [(111, 108)] o) = true := by simp [headerOk_of_issues hi, ho]
  have hb' : badIn (issued s st) st [(off, 32)] = none := hb
  have h8' : ¬((issued s st).dmas.filter (fun d => d.stone == st)).length ≥ 8 := Nat.not_le.2 h8
  have h64' : ¬((issued s st).dmas.filter (fun d => courseOf d.stone == courseOf st)).length ≥ 64 := Nat.not_le.2 h64
  rw [he, execDmaPost, run_up (up_of_issues hi)]
  dsimp only
  rw [← hoff, issue_up hi hok, if_neg (by simp [ha, inSram_iff.2 hr]), if_neg (not_or.2 ⟨h8', h64'⟩), readRanges_srcs_clean hb', hm]
  rfl

theorem dmaPost_local (hi : issues s st h [(off, 32)] [] = true)
    (he : exec (.dmaPost st h o) s = .next (completeNow (startDma { issued s st with dmas := s.dmas ++ [m] } st) st h))
    (hm : m.stone = st) (hs : m.started = false) (hw : m.waits = false) (hwant : m.want = 0) (hstage : m.stage = none)
    (hc : crosses s m.desc = false) (ho : ∀ d ∈ s.dmas, d.stone = st → d.started = true) :
    ∃ t, exec (.dmaPost st h o) s = .next t ∧ (stoneOf t st).regs = (goesOn h (stoneOf s st)).regs ∧ OtherStones st s t ∧
      SameMemory s t ∧ t.dmas = s.dmas ++ [{ m with started := s.dmas.all (fun d => d.stone != st) }] := by
  have hcross : crosses { issued s st with dmas := s.dmas ++ [m] } m.desc = false := hc
  obtain ⟨v, hnet, hd, hv⟩ := startDma_local (s := { issued s st with dmas := s.dmas ++ [m] }) rfl hm hs hw hcross ho
  have hstone : ∀ k, stoneOf (startDma { issued s st with dmas := s.dmas ++ [m] } st) k = stoneOf (issued s st) k := by
    intro k
    rw [hnet.stoneOf_eq, hv]
    rfl
  obtain ⟨h1, h2, h3, h4⟩ := completeNow_spec (u := startDma { issued s st with dmas := s.dmas ++ [m] } st) (h := h)
    ((hstone st).trans (stoneOf_issued s st)) (running_of_issues hi).1
  have hmem : SameMemory s v := by
    rw [hv]
    exact sameMemory_modStone s st (fun x => { x with stall := none })
  refine ⟨_, he, h1, fun k hk => (h2 k hk).trans ?_, (hmem.trans hnet.sameMemory).trans h3, ?_⟩
  · rw [hstone, stoneOf_issued_ne hk]
  · rw [h4, hnet.dmas_eq, hd]
    obtain ⟨stone, desc, started, want, got, moved, failed, waits, stage⟩ := m
    dsimp only at hs hw hwant hstage
    subst hs hw hwant hstage
    unfold begun
    cases s.dmas.all (fun d => d.stone != st) <;> rfl

/-! ### Scrubbing and fencing (05 R170, R171, R193) -/

/-- The scrubber's note of an uncorrectable word. -/
def scrubbed (s : State) (w : Nat) : State :=
  { s with wordErrs := (w :: s.wordErrs).dedup, badWords := (w, true) :: s.badWords.filter (fun b => b.1 != w) }

theorem exec_scrubPass (h0 : s.resetLow = false) (hf : isFenced s st = false) :
    exec (.scrubPass st .clean) s = .next s ∧
      exec (.scrubPass st (.corrected off)) s = .next (raise s [mkFault 0 0x01 0 st (stoneOf s st).owner off]) ∧
      exec (.scrubPass st (.uncorrectable off)) s = .next (wordError s true st off).1 := by
  have he : ∀ r, exec (.scrubPass st r) s = execScrubPass st r s := fun _ => rfl
  refine ⟨?_, ?_, ?_⟩
  · rw [he, execScrubPass, run_up h0, if_neg (by simp [hf])]
  · rw [he, execScrubPass, run_up h0, if_neg (by simp [hf])]
    rfl
  · rw [he, execScrubPass, run_up h0, if_neg (by simp [hf])]

theorem stoneFault_eq (s : State) (cls cause st d : Nat) :
    stoneFault s cls cause st d = raise s [mkFault cls cause 0 st (stoneOf s st).owner d] := by
  unfold stoneFault raise1
  rfl

theorem stoneFault_scrubbed (s : State) (w cls cause st d : Nat) :
    stoneFault (scrubbed s w) cls cause st d = raise (scrubbed s w) [mkFault cls cause 0 st (stoneOf s st).owner d] :=
  stoneFault_eq (scrubbed s w) cls cause st d

theorem wordError_again {w : Nat} (hw : w = wordOf st off) (h : w ∈ s.wordErrs) :
    (wordError s true st off).1 = fenceStone (raise (scrubbed s w) [mkFault 1 0x02 0 st (stoneOf s st).owner off]) st := by
  have hc : (s.wordErrs.contains w && (true || !s.badWords.contains (w, true))) = true := by simpa using h
  subst hw
  have he : wordError s true st off =
      (fenceStone (stoneFault (scrubbed s (wordOf st off)) 1 0x02 st off) st, false) := by
    unfold wordError
    exact if_pos hc
  rw [he, stoneFault_scrubbed]

theorem wordError_first {w : Nat} (hw : w = wordOf st off) (h : w ∉ s.wordErrs) :
    (refillable (scrubbed s w) st (off / 1024) = none →
      (wordError s true st off).1 = raise (scrubbed s w) [mkFault 1 0x02 0 st (stoneOf s st).owner off]) ∧
    ∀ d kib, refillable (scrubbed s w) st (off / 1024) = some (d, kib) → (wordError s true st off).1 =
      raise (refillGranule (scrubbed s w) st (off / 1024) d kib)
        [mkFault 1 0x02 0 st (stoneOf (refillGranule (scrubbed s w) st (off / 1024) d kib) st).owner off] := by
  have hc : ¬((s.wordErrs.contains w && (true || !s.badWords.contains (w, true))) = true) := by simp [h]
  subst hw
  have he : wordError s true st off = match refillable (scrubbed s (wordOf st off)) st (off / 1024) with
      | some (d, kib) => (stoneFault (refillGranule (scrubbed s (wordOf st off)) st (off / 1024) d kib) 1 0x02 st off, true)
      | none => (stoneFault (scrubbed s (wordOf st off)) 1 0x02 st off, false) := by
    unfold wordError
    exact if_neg hc
  refine ⟨fun hr => ?_, fun d kib hr => ?_⟩
  · rw [he, hr, ← stoneFault_scrubbed]
  · rw [he, hr, ← stoneFault_eq]

/-! ### Remapping (05 R196) -/

theorem ctxs_forEach {α : Type} {g : State → α → State} (hg : ∀ t a, (g t a).ctxs = t.ctxs) (l : List α) (s : State) :
    (forEach s l g).ctxs = s.ctxs := by
  induction l generalizing s with
  | nil => rfl
  | cons a l ih => exact (ih (g s a)).trans (hg s a)

theorem ctxs_sramFill (s : State) (st off : Nat) (bs : List Byte) : (sramFill s st off bs).ctxs = s.ctxs := rfl

theorem ctxs_fillWindow (s : State) (d : ObjDesc) (bs : List Byte) : (fillWindow s d bs).ctxs = s.ctxs :=
  ctxs_forEach (fun t i => by split <;> rfl) _ s

theorem ctxs_loadStone (s : State) (i : ImgStone) (st : Nat) : (loadStone s i st).ctxs = s.ctxs :=
  (ctxs_sramFill _ _ _ _).trans (ctxs_forEach (fun t _ => ctxs_sramFill t _ _ _) _ s)

theorem ctxs_memWrite (s : State) (a : Nat) (bs : List Byte) : (memWrite s a bs).ctxs = s.ctxs := by rw [memWrite_only]

theorem ctxs_moveWindows (s : State) (c a b : Nat) : (moveWindows s c a b).ctxs = s.ctxs := by
  refine ctxs_forEach (fun t w => ?_) _ s
  dsimp only
  split
  · exact (ctxs_fillWindow _ _ _).trans (ctxs_memWrite _ _ _)
  · exact ctxs_memWrite _ _ _

theorem ctxOf_of_ctxs (h : t.ctxs = s.ctxs) (c : Nat) : ctxOf t c = ctxOf s c := congrArg (tget Ctx.initial · c) h

/-- The context's stones once one of them has moved. -/
def moved (x : Ctx) (l b : Nat) : List (Nat × Nat) := x.phys.filter (fun p => p.1 != l) ++ [(l, b)]

theorem phys_remap (s : State) (c l b : Nat) : (ctxOf (remap s c l b) c).phys = moved (ctxOf s c) l b := by
  unfold remap
  dsimp only
  rw [ctxOf_of_ctxs (ctxs_moveWindows _ _ _ _)]
  split
  · split
    · rw [ctxOf_of_ctxs (ctxs_loadStone _ _ _)]
      split <;> exact congrArg Ctx.phys (ctxOf_setCtx_self (s := s) c _)
    · split <;> exact congrArg Ctx.phys (ctxOf_setCtx_self (s := s) c _)
  · unfold modCtx
    rw [ctxOf_setCtx_self, ctxOf_setCtx_self]
    rfl

theorem physOf_remap (s : State) (c l b : Nat) : physOf (remap s c l b) c l = b := by
  have hf : (moved (ctxOf s c) l b).find? (fun p => p.1 == l) = some (l, b) := by
    unfold moved
    rw [List.find?_append, List.find?_eq_none.2]
    · simp
    · intro p hp
      simpa using (List.mem_filter.1 hp).2
  unfold physOf
  rw [phys_remap, hf]

theorem stonesInUse_takeRequest (s : State) (q : Req) (c : Nat) : stonesInUse (takeRequest s q) c = stonesInUse s c := by
  rw [takeRequest_only]
  rfl

theorem actRemapStone_cases (hc : c = bits 31 24 q.value) (hl : l = bits 23 12 q.value) (hb : b = bits 11 0 q.value) :
    (((ctxOf s c).state = .swapped ∨ (ctxOf s c).state = .stopped) → actRemapStone q s =
      if !((ctxOf s c).phys.any (fun p => p.1 == l)) ∨ isFenced s b ∨ (stonesInUse s c).contains b then .refuse 0x0302 s
      else .done (remap s c l b)) ∧
    ((ctxOf s c).state = .empty ∨ (ctxOf s c).state = .loading ∨ (ctxOf s c).state = .unloading →
      actRemapStone q s = .refuse 0x0101 s) ∧
    ((ctxOf s c).state ∈ [CtxState.ready, .running, .blocked, .swappingIn, .swappingOut] → actRemapStone q s = .refuse 0x0601 s) := by
  subst hc hl hb
  unfold actRemapStone
  dsimp only
  refine ⟨fun h => ?_, fun h => ?_, fun h => ?_⟩
  · rcases h with h | h <;> rw [h]
  · rcases h with h | h | h <;> rw [h]
  · simp only [List.mem_cons, List.not_mem_nil, or_false] at h
    rcases h with h | h | h | h | h <;> rw [h]

theorem bits_remap (v : Nat) : bits 31 24 v = v / 2 ^ 24 % 256 ∧ bits 23 12 v = v / 2 ^ 12 % 4096 ∧ bits 11 0 v = v % 4096 := by
  unfold bits
  simp only [Nat.shiftRight_eq_div_pow]
  exact ⟨rfl, rfl, by simp⟩

theorem remapStone_cases (hu : u = takeRequest s q) (ha : accepts 0x5020 0x01 q s = true) (hc : c = q.value / 2 ^ 24 % 256)
    (hl : l = q.value / 2 ^ 12 % 4096) (hb : b = q.value % 4096) :
    ((ctxOf s c).state = .swapped ∨ (ctxOf s c).state = .stopped →
      ((ctxOf s c).phys.any (fun p => p.1 == l) = true → isFenced s b = false → (stonesInUse s c).contains b = false →
        Done (.remapStone q) 0x5020 0x01 q s (remap u c l b) ∧ physOf (remap u c l b) c l = b) ∧
      (isFenced s b = true ∨ (ctxOf s c).phys.any (fun p => p.1 == l) = false ∨ (stonesInUse s c).contains b = true →
        exec (.remapStone q) s = .next (refuse u q 0x5020 0x01 0x0302))) ∧
    ((ctxOf s c).state = .empty ∨ (ctxOf s c).state = .loading ∨ (ctxOf s c).state = .unloading →
      exec (.remapStone q) s = .next (refuse u q 0x5020 0x01 0x0101)) ∧
    ((ctxOf s c).state ∈ [CtxState.ready, .running, .blocked, .swappingIn, .swappingOut] →
      exec (.remapStone q) s = .next (refuse u q 0x5020 0x01 0x0601)) := by
  subst hu
  obtain ⟨b1, b2, b3⟩ := bits_remap q.value
  obtain ⟨h1, h2, h3⟩ := actRemapStone_cases (s := takeRequest s q) (hc.trans b1.symm) (hl.trans b2.symm) (hb.trans b3.symm)
  rw [ctxOf_takeRequest, isFenced_takeRequest, stonesInUse_takeRequest] at h1
  rw [ctxOf_takeRequest] at h2 h3
  refine ⟨fun hs => ⟨fun hp hf hn => ⟨done_of_act rfl ha ?_, physOf_remap _ _ _ _⟩, fun hr => refused_of_act rfl ha ?_⟩,
    fun hs => refused_of_act rfl ha (h2 hs), fun hs => refused_of_act rfl ha (h3 hs)⟩
  · exact (h1 hs).trans (if_neg (by rw [hp, hf, hn]; decide))
  · refine (h1 hs).trans (if_pos ?_)
    rcases hr with hr | hr | hr
    · exact .inr (.inl hr)
    · exact .inl (by rw [hr]; rfl)
    · exact .inr (.inr hr)

/-! ### A write of SRAM whose edge words are good (05 R168) -/

theorem not_isBad_of_range {w : Nat} {l : List (Nat × Nat)} (hb : badIn s st l = none) {r : Nat × Nat} (hr : r ∈ l) (h0 : 0 < r.2)
    (h1 : wordOf st r.1 ≤ w) (h2 : w ≤ wordOf st (r.1 + r.2 - 1)) (h3 : r.1 + r.2 ≤ 2 ^ 18) : isBad s w = false := by
  unfold badIn at hb
  rw [Option.map_eq_none_iff, List.find?_eq_none] at hb
  unfold isBad
  rw [List.any_eq_false]
  intro e he hw
  have hew : e.1 = w := by simpa using hw
  refine hb e he (List.any_eq_true.2 ⟨r, hr, ?_⟩)
  simp only [Bool.and_eq_true, decide_eq_true_eq]
  rw [hew]
  exact ⟨⟨⟨h0, h1⟩, h2⟩, h3⟩

theorem lost_of_clean (hb : badIn s st (edgeWords (off, n)) = none) (hn : 0 < n) (hf : off + n ≤ 2 ^ 18) :
    lostHead s st off = 0 ∧ lostTail s st off n = 0 := by
  have hmem : edgeWords (off, n) = (if off % 8 = 0 then [] else [(off, 1)]) ++ (if (off + n) % 8 = 0 then [] else [(off + n - 1, 1)]) :=
    if_neg (by simp; omega)
  rw [hmem] at hb
  unfold lostHead lostTail
  refine ⟨if_neg fun ⟨h1, h2⟩ => ?_, if_neg fun ⟨h1, h2⟩ => ?_⟩
  · rw [not_isBad_of_range hb (r := (off, 1)) (by simp [h1]) (by simp) (by simp) (by simp) (by simp; omega)] at h2
    exact absurd h2 (by decide)
  · rw [not_isBad_of_range hb (r := (off + n - 1, 1)) (by simp [h1]) (by simp) (by unfold wordOf; dsimp only; omega)
      (by unfold wordOf; dsimp only; omega) (by dsimp only; omega)] at h2
    exact absurd h2 (by decide)

theorem sram_sramWrite {bs : List Byte} (hb : badIn s st (edgeWords (off, bs.length)) = none) (hn : 0 < bs.length)
    (hf : off + bs.length ≤ 2 ^ 18) : (sramWrite s st off bs).sram = sramPut s.sram (sramKey st off) bs := by
  obtain ⟨h1, h2⟩ := lost_of_clean hb hn hf
  have hs : (sramWrite s st off bs).sram = (sramStore s st off bs).sram := rfl
  rw [hs]
  unfold sramStore
  rw [h1, h2]
  simp

theorem sramByte_sramWrite_in {bs : List Byte} {i : Nat} (hb : badIn s st (edgeWords (off, bs.length)) = none)
    (hf : off + bs.length ≤ 2 ^ 18) (hi : i < bs.length) : sramByte (sramWrite s st off bs) st (off + i) = bs[i] := by
  have hk : sramKey st (off + i) = sramKey st off + i := by unfold sramKey; omega
  unfold sramByte
  rw [sram_sramWrite hb (by omega) hf, hk, tget_sramPut_in hi]

theorem sameMemoryBut_sramWrite {bs : List Byte} (hb : badIn s st (edgeWords (off, bs.length)) = none) (hn : 0 < bs.length)
    (hf : off + bs.length ≤ 2 ^ 18) : SameMemoryBut st off bs.length s (sramWrite s st off bs) := by
  refine ⟨fun a => rfl, fun st' o' ho => ?_⟩
  unfold sramByte
  rw [sram_sramWrite hb hn hf, tget_sramPut_out ho]

/-! ### A row within SRAM (05 R179, R183) -/

theorem getE_passBytes (s : State) (v w n : Nat) {i j : Nat} (hi : i < 65536) (hj : j < 256) (h : i ≠ 0xA010) :
    getE (passBytes s v w n) i j = getE s i j := by
  unfold passBytes
  split
  · rfl
  · exact getE_countBy_ne (ekey_ne hi hj (by decide) (by omega) (by simp [h])) n

/-- The stone and the offset that an SRAM address names. -/
def sramStone (a : Nat) : Nat := bits 29 18 a

/-- The state with the descriptor's one row moved. -/
def movedRow (s : State) (m : Dma) : State :=
  let v := passBytes s (wytheOf (sramStone (dmaSrc m.desc))) (wytheOf m.stone) (dmaLen m.desc)
  passBytes (sramWrite v (sramStone (dmaDst m.desc)) (dmaDst m.desc % 2 ^ 18)
      (sramRead v (sramStone (dmaSrc m.desc)) (dmaSrc m.desc % 2 ^ 18) (dmaLen m.desc)))
    (wytheOf m.stone) (wytheOf (sramStone (dmaDst m.desc))) (dmaLen m.desc)

theorem unitRead_clean {r : Nat × Nat} (hb : badIn s st [r] = none) (n : Nat) : unitRead n s st r = (s, true) := by
  cases n with
  | zero => simp [unitRead, hb]
  | succ n => simp only [unitRead, hb]

theorem dmaRun_one {out : List Byte} (hsp : dmaSrcSpace m.desc = 2) (hdp : dmaDstSpace m.desc = 2) (hst : m.stage = none)
    (hs : dmaSramOk s (dmaSrc m.desc) (dmaLen m.desc) = true) (hd : dmaSramOk s (dmaDst m.desc) (dmaLen m.desc) = true)
    (hb : badIn s (sramStone (dmaSrc m.desc)) [(dmaSrc m.desc % 2 ^ 18, dmaLen m.desc)] = none) :
    dmaRun m none 1 0 s out 0 = (movedRow s m, true, dmaLen m.desc) := by
  have hread : dmaReadRow s m 0 out = (passBytes s (wytheOf (sramStone (dmaSrc m.desc))) (wytheOf m.stone) (dmaLen m.desc),
      some (sramRead (passBytes s (wytheOf (sramStone (dmaSrc m.desc))) (wytheOf m.stone) (dmaLen m.desc))
        (sramStone (dmaSrc m.desc)) (dmaSrc m.desc % 2 ^ 18) (dmaLen m.desc), out)) := by
    unfold dmaReadRow
    simp only [Nat.zero_mul, Nat.add_zero]
    rw [if_pos hsp, if_neg (by simp [hs])]
    unfold sramStone at hb ⊢
    rw [unitRead_clean hb]
    dsimp only
    rw [passBytes_only s]
    rfl
  have hwrite : ∀ (v : State) (bs : List Byte), bs.length = dmaLen m.desc → dmaSramOk v (dmaDst m.desc) (dmaLen m.desc) = true →
      dmaWriteRow v m 0 bs = some (passBytes (sramWrite v (sramStone (dmaDst m.desc)) (dmaDst m.desc % 2 ^ 18) bs) (wytheOf m.stone)
        (wytheOf (sramStone (dmaDst m.desc))) (dmaLen m.desc)) := by
    intro v bs hl hv
    unfold dmaWriteRow
    simp only [Nat.zero_mul, Nat.add_zero]
    rw [if_pos hdp, hl, if_pos hv]
    rfl
  have hstage : ∀ (v : State) (bs : List Byte), stagePiece v m 0 bs = v := by
    intro v bs
    unfold stagePiece
    rw [hst]
  have hok : dmaSramOk (passBytes s (wytheOf (sramStone (dmaSrc m.desc))) (wytheOf m.stone) (dmaLen m.desc)) (dmaDst m.desc)
      (dmaLen m.desc) = true := by
    rw [passBytes_only]
    exact hd
  unfold dmaRun
  rw [if_neg (by simp), hread]
  dsimp only
  rw [hstage, hwrite _ _ (length_sramRead _ _ _ _) hok]
  unfold dmaRun
  rw [Nat.zero_add]
  rfl

theorem sramWrite_only (s : State) (st off : Nat) (bs : List Byte) : ∃ a b c,
    sramWrite s st off bs = { s with stones := a, sram := b, badWords := c } := ⟨_, _, _, rfl⟩

theorem movedRow_only (s : State) (m : Dma) : ∃ a b c e, movedRow s m = { s with stones := a, sram := b, badWords := c, ent := e } := by
  unfold movedRow
  dsimp only
  rw [passBytes_only s]
  obtain ⟨a, b, c, h⟩ := sramWrite_only { s with ent := (passBytes s (wytheOf (sramStone (dmaSrc m.desc))) (wytheOf m.stone) (dmaLen m.desc)).ent }
    (sramStone (dmaDst m.desc)) (dmaDst m.desc % 2 ^ 18)
    (sramRead { s with ent := (passBytes s (wytheOf (sramStone (dmaSrc m.desc))) (wytheOf m.stone) (dmaLen m.desc)).ent }
      (sramStone (dmaSrc m.desc)) (dmaSrc m.desc % 2 ^ 18) (dmaLen m.desc))
  rw [h, passBytes_only]
  exact ⟨a, b, c, _, rfl⟩

theorem inSram_of_dmaSramOk {a : Nat} (h : dmaSramOk s a n = true) : a % 2 ^ 18 + n ≤ 2 ^ 18 := by
  unfold dmaSramOk at h
  simp only [Bool.and_eq_true] at h
  exact inSram_iff.1 h.1.2

theorem movedRow_memory (hd : dmaSramOk s (dmaDst m.desc) (dmaLen m.desc) = true) (hl : 0 < dmaLen m.desc)
    (hb : badIn s (sramStone (dmaDst m.desc)) (edgeWords (dmaDst m.desc % 2 ^ 18, dmaLen m.desc)) = none) :
    (∀ i, i < dmaLen m.desc → sramByte (movedRow s m) (sramStone (dmaDst m.desc)) (dmaDst m.desc % 2 ^ 18 + i) =
        sramByte s (sramStone (dmaSrc m.desc)) (dmaSrc m.desc % 2 ^ 18 + i)) ∧
      SameMemoryBut (sramStone (dmaDst m.desc)) (dmaDst m.desc % 2 ^ 18) (dmaLen m.desc) s (movedRow s m) ∧
      getE (movedRow s m) 0xA040 0x02 = getE s 0xA040 0x02 := by
  let v := passBytes s (wytheOf (sramStone (dmaSrc m.desc))) (wytheOf m.stone) (dmaLen m.desc)
  let row := sramRead v (sramStone (dmaSrc m.desc)) (dmaSrc m.desc % 2 ^ 18) (dmaLen m.desc)
  let w := sramWrite v (sramStone (dmaDst m.desc)) (dmaDst m.desc % 2 ^ 18) row
  have hlen : row.length = dmaLen m.desc := length_sramRead _ _ _ _
  have hv : v = { s with ent := v.ent } := passBytes_only _ _ _ _
  have hbv : badIn v (sramStone (dmaDst m.desc)) (edgeWords (dmaDst m.desc % 2 ^ 18, row.length)) = none := by
    rw [hlen, hv]
    exact hb
  have hfit : dmaDst m.desc % 2 ^ 18 + row.length ≤ 2 ^ 18 := by
    rw [hlen]
    exact inSram_of_dmaSramOk hd
  have hmove : movedRow s m = { w with ent := (movedRow s m).ent } := passBytes_only _ _ _ _
  have hsram : ∀ a b, sramByte (movedRow s m) a b = sramByte w a b := by
    intro a b
    rw [hmove]
    rfl
  have hsv : ∀ a b, sramByte v a b = sramByte s a b := by
    intro a b
    rw [hv]
    rfl
  refine ⟨fun i hi => ?_, ?_, ?_⟩
  · have hrow : ∀ h, row[i]'h = sramByte v (sramStone (dmaSrc m.desc)) (dmaSrc m.desc % 2 ^ 18 + i) := fun h => by
      simp [row, sramRead]
    rw [hsram, sramByte_sramWrite_in hbv hfit (by rw [hlen]; exact hi), hrow, hsv]
  · have hw := sameMemoryBut_sramWrite hbv (by rw [hlen]; exact hl) hfit
    rw [hlen] at hw
    refine ⟨fun a => ?_, fun st' o' ho => ?_⟩
    · rw [hmove]
      refine (hw.1 a).trans ?_
      rw [hv]
      rfl
    · rw [hsram, hw.2 st' o' ho, hsv]
  · exact (getE_passBytes w _ _ _ (by decide) (by decide) (by decide)).trans
      (getE_passBytes s _ _ _ (by decide) (by decide) (by decide))

/-! ### The end of a descriptor (05 R181, R183) -/

/-- The descriptor with its row moved. -/
def served (m : Dma) : Dma := { m with moved := true, failed := false, want := 0 }

/-- The oldest descriptor of a stone, in the list of all. -/
theorem oldestDma_split (ho : oldestDma s st = some m) : m.stone = st ∧ ∃ a b, s.dmas = a ++ m :: b ∧ ∀ d ∈ a, d.stone ≠ st := by
  unfold oldestDma at ho
  obtain ⟨h1, a, b, h2, h3⟩ := List.find?_eq_some_iff_append.1 ho
  exact ⟨by simpa using h1, a, b, h2, fun d hd => by simpa using h3 d hd⟩

theorem dmas_modDma_erase (ho : oldestDma s st = some m) :
    ((modDma s m (fun _ => served m)).dmas).erase (served m) = s.dmas.erase m := by
  obtain ⟨hst, a, b, hl, ha⟩ := oldestDma_split ho
  have hma : m ∉ a := fun h => ha m h hst
  have hsa : served m ∉ a := fun h => ha _ h hst
  have hi : (a ++ m :: b).findIdx (· == m) = a.length := by
    rw [List.findIdx_append, if_neg]
    · simp [List.findIdx_cons]
    · rw [List.findIdx_lt_length]
      simpa using hma
  have hd : (modDma s m (fun _ => served m)).dmas = a ++ served m :: b := by
    unfold modDma
    rw [hl, hi]
    simp
  rw [hd, hl, List.erase_append_right _ hsa, List.erase_append_right _ hma, List.erase_cons_head, List.erase_cons_head]

theorem dropDma_unstaged (h : m.stage = none) : ∃ ps, dropDma s m = { s with dmas := s.dmas.erase m, pools := ps } := by
  unfold dropDma
  rw [h]
  exact ⟨_, rfl⟩

/-- The state in which a descriptor whose one row lies in SRAM has left its course DMA. -/
def dmaLeft (s : State) (m : Dma) : State :=
  dropDma (modDma (countBy (movedRow (fresh s) m) 0xA040 0x02 (dmaLen m.desc)) m (fun _ => served m)) (served m)

theorem dmaLeft_spec (ho : oldestDma s st = some m) (hst : m.stage = none) (hl : 0 < dmaLen m.desc)
    (hd : dmaSramOk s (dmaDst m.desc) (dmaLen m.desc) = true)
    (hb : badIn s (sramStone (dmaDst m.desc)) (edgeWords (dmaDst m.desc % 2 ^ 18, dmaLen m.desc)) = none) :
    (∀ i, i < dmaLen m.desc → sramByte (dmaLeft s m) (sramStone (dmaDst m.desc)) (dmaDst m.desc % 2 ^ 18 + i) =
        sramByte s (sramStone (dmaSrc m.desc)) (dmaSrc m.desc % 2 ^ 18 + i)) ∧
      SameMemoryBut (sramStone (dmaDst m.desc)) (dmaDst m.desc % 2 ^ 18) (dmaLen m.desc) s (dmaLeft s m) ∧
      (dmaLeft s m).dmas = s.dmas.erase m ∧ getE (dmaLeft s m) 0xA040 0x02 = (getE s 0xA040 0x02 + dmaLen m.desc) % 2 ^ 64 ∧
      ∀ k, isFenced (dmaLeft s m) k = isFenced s k := by
  let w := countBy (movedRow (fresh s) m) 0xA040 0x02 (dmaLen m.desc)
  obtain ⟨a, b, c, e, hR⟩ := movedRow_only (fresh s) m
  obtain ⟨h1, h2, h3⟩ := movedRow_memory (s := fresh s) hd hl hb
  obtain ⟨ps, hdrop⟩ := dropDma_unstaged (s := modDma w m (fun _ => served m)) (m := served m) hst
  have hdw : w.dmas = s.dmas := by
    have : w.dmas = (movedRow (fresh s) m).dmas := rfl
    rw [this, hR]
    rfl
  have how : oldestDma w st = some m := by
    unfold oldestDma
    rw [hdw]
    exact ho
  have hu : dmaLeft s m = { w with dmas := s.dmas.erase m, pools := ps } := by
    have he : (modDma w m (fun _ => served m)).dmas.erase (served m) = s.dmas.erase m := (dmas_modDma_erase how).trans (by rw [hdw])
    refine Eq.trans hdrop ?_
    rw [he]
    rfl
  rw [hu]
  refine ⟨fun i hi => h1 i hi, ⟨fun x => h2.1 x, fun st' o' h => h2.2 st' o' h⟩, rfl, ?_, fun k => ?_⟩
  · refine Eq.trans (getE_countBy_self (s := movedRow (fresh s) m) 0xA040 0x02 _) ?_
    rw [h3]
    rfl
  · have hk : isFenced { w with dmas := s.dmas.erase m, pools := ps } k = isFenced (movedRow (fresh s) m) k := rfl
    rw [hk, hR]
    rfl

/-- The signal that a descriptor asks for. -/
def dmaSignal (u : State) (m : Dma) : State :=
  if dmaSigEn m.desc = true ∧ isFenced u (dmaSigStone m.desc) = false then
    settleStone (addSync u (dmaSigStone m.desc) (dmaSigObj m.desc) 1) (dmaSigStone m.desc)
  else u

theorem dmaSignal_spec (u : State) (m : Dma) : SameMemory u (dmaSignal u m) ∧ (dmaSignal u m).dmas = u.dmas := by
  unfold dmaSignal
  split
  · have hset := settles_settleStone (addSync u (dmaSigStone m.desc) (dmaSigObj m.desc) 1) (dmaSigStone m.desc)
    have hadd : OnlyStones u (addSync u (dmaSigStone m.desc) (dmaSigObj m.desc) 1) := onlyStones_modStone _ _ _
    refine ⟨hadd.sameMemory.trans hset.memory, ?_⟩
    obtain ⟨hframe, -⟩ := hset
    rw [hframe, hadd]
  · exact ⟨⟨fun _ => rfl, fun _ _ => rfl⟩, rfl⟩

theorem exec_dmaDescriptorComplete {course : Nat} {out : List Byte} (h0 : s.resetLow = false) (ht : dmaTurn s course = some st)
    (ho : oldestDma s st = some m) (hw : m.want = 0) (hout : dmaOut s m = 0) (hst : m.stage = none) (hf : dmaFormOk m.desc = true)
    (hr : dmaRows m.desc = 1) (hsp : dmaSrcSpace m.desc = 2) (hdp : dmaDstSpace m.desc = 2)
    (hs : dmaSramOk s (dmaSrc m.desc) (dmaLen m.desc) = true) (hd : dmaSramOk s (dmaDst m.desc) (dmaLen m.desc) = true)
    (hb : badIn s (sramStone (dmaSrc m.desc)) [(dmaSrc m.desc % 2 ^ 18, dmaLen m.desc)] = none) :
    exec (.dmaDescriptorComplete course st none out) s = .next (startDma (dmaSignal
      (dmaLeft { s with dmaLast := tput 63 s.dmaLast course (st % 64) } m) m) st) := by
  let v : State := { s with dmaLast := tput 63 s.dmaLast course (st % 64) }
  have he : exec (.dmaDescriptorComplete course st none out) s = execDmaDescriptorComplete course st none out s := rfl
  have hh : usesHost m.desc = false := by simp [usesHost, hsp, hdp]
  have hrun : dmaRun m none 1 0 (fresh v) out 0 = (movedRow (fresh v) m, true, dmaLen m.desc) :=
    dmaRun_one (s := fresh v) hsp hdp hst hs hd hb
  have hout' : dmaOut (movedRow (fresh v) m) m = 0 := by
    obtain ⟨a, b, c, e, hR⟩ := movedRow_only (fresh v) m
    rw [hR]
    exact hout
  have hend : ∀ D, endDma D (served m) = dmaSignal (dropDma D (served m)) m := fun D => rfl
  rw [he, execDmaDescriptorComplete, run_up h0, if_neg (not_not.2 ht), ho]
  dsimp only
  rw [if_neg (not_not.2 hw), if_neg (by simp [hf, hh]), hr]
  have hrun' : dmaRun m none 1 0 (fresh { s with dmaLast := tput 63 s.dmaLast course (st % 64) }) out 0 =
      (movedRow (fresh v) m, true, dmaLen m.desc) := hrun
  rw [hrun']
  dsimp only
  rw [hout', if_pos rfl]
  exact congrArg (fun D => Host.Outcome.next (startDma D st)) (hend _)

/-- Settles O11: descriptors by what their course DMA does with them, the scrubber by the word that it meets, a remap by the state of
its context. -/
theorem dmaScrubAndFences : Obligations.DmaScrubAndFences := by
  refine ⟨?_, ?_, ?_, ?_⟩
  · intro s st h o off m hoff hi ho ha hr hb h8 h64 hm
    have he := exec_dmaPost hoff hi ho ha hr hb h8 h64 hm
    exact ⟨he, fun hc hd => dmaPost_local hi he (by rw [hm]) (by rw [hm]) (by rw [hm]) (by rw [hm]) (by rw [hm]) hc hd⟩
  · intro s course st out m h0 ht ho hw hout hst hf hr hsp hdp hs hd hb hb2
    let v : State := { s with dmaLast := tput 63 s.dmaLast course (st % 64) }
    have hl : 0 < dmaLen m.desc := by
      unfold dmaFormOk at hf
      simp only [Bool.and_eq_true, decide_eq_true_eq] at hf
      exact Nat.pos_of_ne_zero hf.1.1.1.1
    obtain ⟨h1, h2, h3, h4, h5⟩ := dmaLeft_spec (s := v) ho hst hl hd hb2
    obtain ⟨g1, g2⟩ := dmaSignal_spec (dmaLeft v m) m
    refine ⟨dmaSignal (dmaLeft v m) m, dmaLeft v m, exec_dmaDescriptorComplete h0 ht ho hw hout hst hf hr hsp hdp hs hd hb,
      fun hn => startDma_none hn, fun i hi => (g1.2 _ _).trans (h1 i hi), ⟨fun a => (g1.1 a).trans (h2.1 a),
        fun st' o' hk => (g1.2 st' o').trans (h2.2 st' o' hk)⟩, g2.trans h3, h4, ?_⟩
    have h5' : isFenced (dmaLeft v m) (dmaSigStone m.desc) = isFenced s (dmaSigStone m.desc) := h5 _
    unfold dmaSignal
    rw [h5']
  · intro s u st off w h0 hf hw hu
    obtain ⟨h1, h2, h3⟩ := exec_scrubPass (off := off) h0 hf
    have hu' : u = scrubbed s w := hu
    rw [hu']
    refine ⟨h1, h2, fun h => h3.trans (congrArg _ (wordError_again hw h)), fun h hr => h3.trans (congrArg _ ((wordError_first hw h).1 hr)),
      fun h d kib hr => ⟨_, rfl, h3.trans (congrArg _ ((wordError_first hw h).2 d kib hr))⟩⟩
  · intro s u q c l b hu
    refine ⟨fun ha hf => done_of_act rfl ha ?_, fun ha _ => done_of_act rfl ha (by rw [← hu]; rfl),
      fun ha hc hl hb => remapStone_cases hu ha hc hl hb⟩
    have hf' : isFenced (takeRequest s q) (q.value % 4096) = true := by rw [isFenced_takeRequest, hf]
    rw [actFenceStone, fenceStone, if_pos hf', hu]

end Sys2Proof.Machine
end

section
/-! PROOFS. A fault at the plumb (16 R502 to R509, 13 R419): what an arrival changes, and the state that the part is in. -/

-- As in the tests: proofs elaborated side by side exhaust memory in the joined text.
set_option Elab.async false

namespace Sys2Proof.Machine

variable {s t : State} {f : Fault16} {src : Option FaultRec}

/-! ### The device state and the class F record under the operations that leave them -/

theorem forEach_mode {α : Type} {f : State → α → State} (hf : ∀ t a, (f t a).mode = t.mode) (l : List α) (s : State) :
    (forEach s l f).mode = s.mode := by
  unfold forEach
  induction l generalizing s with
  | nil => rfl
  | cons a l ih => exact (ih _).trans (hf s a)

theorem forEach_recF {α : Type} {f : State → α → State} (hf : ∀ t a, (f t a).recF = t.recF) (l : List α) (s : State) :
    (forEach s l f).recF = s.recF := by
  unfold forEach
  induction l generalizing s with
  | nil => rfl
  | cons a l ih => exact (ih _).trans (hf s a)

theorem foldlFst_mode {α β : Type} {f : State × β → α → State × β} (hf : ∀ p a, (f p a).1.mode = p.1.mode)
    (l : List α) (p : State × β) : (l.foldl f p).1.mode = p.1.mode := by
  induction l generalizing p with
  | nil => rfl
  | cons a l ih => exact (ih _).trans (hf p a)

theorem foldlFst_recF {α β : Type} {f : State × β → α → State × β} (hf : ∀ p a, (f p a).1.recF = p.1.recF)
    (l : List α) (p : State × β) : (l.foldl f p).1.recF = p.1.recF := by
  induction l generalizing p with
  | nil => rfl
  | cons a l ih => exact (ih _).trans (hf p a)

@[simp] theorem mode_ite {c : Prop} [Decidable c] {s t : State} : (if c then s else t).mode = if c then s.mode else t.mode :=
  apply_ite _ _ _ _

@[simp] theorem recF_ite {c : Prop} [Decidable c] {s t : State} : (if c then s else t).recF = if c then s.recF else t.recF :=
  apply_ite _ _ _ _

theorem mode_of_settles (h : Settles s t) : t.mode = s.mode := by rw [h.1]

theorem recF_of_settles (h : Settles s t) : t.recF = s.recF := by rw [h.1]

@[simp] theorem stopCtx_mode (s : State) (c : Nat) : (stopCtx s c).mode = s.mode := mode_of_settles (settles_stopCtx s c)
@[simp] theorem stopCtx_recF (s : State) (c : Nat) : (stopCtx s c).recF = s.recF := recF_of_settles (settles_stopCtx s c)

@[simp] theorem settleStone_mode (s : State) (st : Nat) : (settleStone s st).mode = s.mode :=
  mode_of_settles (settles_settleStone s st)
@[simp] theorem settleStone_recF (s : State) (st : Nat) : (settleStone s st).recF = s.recF :=
  recF_of_settles (settles_settleStone s st)

@[simp] theorem memWrite_mode (s : State) (a : Nat) (bs : List Byte) : (memWrite s a bs).mode = s.mode := by simp [memWrite]
@[simp] theorem sramStore_mode (s : State) (st off : Nat) (bs : List Byte) : (sramStore s st off bs).mode = s.mode := rfl
@[simp] theorem sramStore_recF (s : State) (st off : Nat) (bs : List Byte) : (sramStore s st off bs).recF = s.recF := rfl
@[simp] theorem sramWrite_mode (s : State) (st off : Nat) (bs : List Byte) : (sramWrite s st off bs).mode = s.mode := by
  simp [sramWrite]
@[simp] theorem sramWrite_recF (s : State) (st off : Nat) (bs : List Byte) : (sramWrite s st off bs).recF = s.recF := by
  simp [sramWrite]
@[simp] theorem addSync_mode (s : State) (st j n : Nat) : (addSync s st j n).mode = s.mode := by simp [addSync]
@[simp] theorem addSync_recF (s : State) (st j n : Nat) : (addSync s st j n).recF = s.recF := by simp [addSync]

@[simp] theorem signalDone_mode (s : State) (st : Nat) (sig : Option Nat) : (signalDone s st sig).mode = s.mode := by
  unfold signalDone
  split
  · exact addSync_mode s st _ _
  · rfl

@[simp] theorem signalDone_recF (s : State) (st : Nat) (sig : Option Nat) : (signalDone s st sig).recF = s.recF := by
  unfold signalDone
  split
  · exact addSync_recF s st _ _
  · rfl

@[simp] theorem inject_mode (s : State) (w : Nat) (p : Packet) : (inject s w p).mode = s.mode := by simp [inject]
@[simp] theorem inject_recF (s : State) (w : Nat) (p : Packet) : (inject s w p).recF = s.recF := by simp [inject]
@[simp] theorem modColl_mode (s : State) (k : CollKey) (f : Coll → Coll) : (modColl s k f).mode = s.mode := rfl
@[simp] theorem modColl_recF (s : State) (k : CollKey) (f : Coll → Coll) : (modColl s k f).recF = s.recF := rfl

@[simp] theorem collSend_mode (s : State) (co : Coll) (rk msg chunk cover attempt : Nat) (data : List Byte) :
    (collSend s co rk msg chunk cover attempt data).mode = s.mode := by simp [collSend]
@[simp] theorem collSend_recF (s : State) (co : Coll) (rk msg chunk cover attempt : Nat) (data : List Byte) :
    (collSend s co rk msg chunk cover attempt data).recF = s.recF := by simp [collSend]

@[simp] theorem collDown_mode (s : State) (co : Coll) (msg chunk : Nat) (data : List Byte) :
    (collDown s co msg chunk data).mode = s.mode := forEach_mode (fun t _ => collSend_mode t _ _ _ _ _ _ _) _ s
@[simp] theorem collDown_recF (s : State) (co : Coll) (msg chunk : Nat) (data : List Byte) :
    (collDown s co msg chunk data).recF = s.recF := forEach_recF (fun t _ => collSend_recF t _ _ _ _ _ _ _) _ s

@[simp] theorem collFinish_mode (s : State) (stone pc sigStone sigObj record : Nat) (doneSignal : Bool) (sig : Option Nat)
    (rec : Nat) : (collFinish s stone pc sigStone sigObj record doneSignal sig rec).mode = s.mode := by simp [collFinish]
@[simp] theorem collFinish_recF (s : State) (stone pc sigStone sigObj record : Nat) (doneSignal : Bool) (sig : Option Nat)
    (rec : Nat) : (collFinish s stone pc sigStone sigObj record doneSignal sig rec).recF = s.recF := by simp [collFinish]

@[simp] theorem completeColl_mode (s : State) (co : Coll) (status rank : Nat) (undecided : Bool) :
    (completeColl s co status rank undecided).1.mode = s.mode := by simp [completeColl]
@[simp] theorem completeColl_recF (s : State) (co : Coll) (status rank : Nat) (undecided : Bool) :
    (completeColl s co status rank undecided).1.recF = s.recF := by simp [completeColl]
@[simp] theorem completeMcast_mode (s : State) (m : Mcast) (status rank : Nat) :
    (completeMcast s m status rank).1.mode = s.mode := by simp [completeMcast]
@[simp] theorem completeMcast_recF (s : State) (m : Mcast) (status rank : Nat) :
    (completeMcast s m status rank).1.recF = s.recF := by simp [completeMcast]
@[simp] theorem abortColl_mode (s : State) (co : Coll) (code rank : Nat) : (abortColl s co code rank).1.mode = s.mode := by
  simp [abortColl]
@[simp] theorem abortColl_recF (s : State) (co : Coll) (code rank : Nat) : (abortColl s co code rank).1.recF = s.recF := by
  simp [abortColl]
@[simp] theorem requestAbort_mode (s : State) (co : Coll) (code : Nat) : (requestAbort s co code).1.mode = s.mode := by
  simp [requestAbort]
@[simp] theorem requestAbort_recF (s : State) (co : Coll) (code : Nat) : (requestAbort s co code).1.recF = s.recF := by
  simp [requestAbort]

@[simp] theorem endCollectives_mode (s : State) : (endCollectives s).1.mode = s.mode := by
  unfold endCollectives
  refine (foldlFst_mode (fun p m => ?_) _ _).trans (foldlFst_mode (fun p co => ?_) _ _)
  · exact completeMcast_mode p.1 m _ _
  · exact requestAbort_mode p.1 co _

@[simp] theorem endCollectives_recF (s : State) : (endCollectives s).1.recF = s.recF := by
  unfold endCollectives
  refine (foldlFst_recF (fun p m => ?_) _ _).trans (foldlFst_recF (fun p co => ?_) _ _)
  · exact completeMcast_recF p.1 m _ _
  · exact requestAbort_recF p.1 co _

@[simp] theorem stopSwitch_mode (s : State) (w : Nat) : (stopSwitch s w).mode = s.mode :=
  forEach_mode (fun t p => by split <;> simp) _ _
@[simp] theorem stopSwitch_recF (s : State) (w : Nat) : (stopSwitch s w).recF = s.recF :=
  forEach_recF (fun t p => by split <;> simp) _ _

/-! ### An arrival leaves the device state, and a VALID record of class F stays one (16 R504, R505) -/

@[simp] theorem setRec_mode (s : State) (cls : Nat) (r : FaultRec) : (setRec s cls r).mode = s.mode := by simp [setRec]
@[simp] theorem logCopy_mode (s : State) (cls : Nat) : (logCopy s cls).mode = s.mode := by simp [logCopy]
@[simp] theorem arrive_mode (s : State) (f : Fault16) (src : Option FaultRec) : (arrive s f src).1.mode = s.mode := by
  simp [arrive]

@[simp] theorem arriveAll_mode (s : State) (l : List (Fault16 × Option FaultRec)) : (arriveAll s l).1.mode = s.mode := by
  induction l generalizing s with
  | nil => rfl
  | cons p l ih => exact (ih _).trans (arrive_mode s p.1 p.2)

@[simp] theorem latchCycles_mode (n : Nat) (s : State) (es : List (Fault16 × Option FaultRec)) (fs : List Fault16) :
    (latchCycles n s es fs).mode = s.mode := by
  induction n generalizing s es fs with
  | zero => rfl
  | succ n ih => exact (ih _ _ _).trans (arriveAll_mode s _)

@[simp] theorem latchAll_mode (s : State) (fs : List Fault16) : (latchAll s fs).mode = s.mode := latchCycles_mode _ s _ _

theorem recF_setRec_valid {cls : Nat} {r : FaultRec} (hs : s.recF.valid = true) (hr : r.valid = true) :
    (setRec s cls r).recF.valid = true := by
  unfold setRec
  split
  · exact hs
  · split
    · exact hs
    · exact hr

theorem recF_arrive_valid (hs : s.recF.valid = true) : (arrive s f src).1.recF.valid = true := by
  cases hv : (recOf s f.cls).valid with
  | false =>
    obtain ⟨t, he, ht⟩ := arrive_of_empty src hv
    rw [he]
    exact (congrArg FaultRec.valid (ht 2)).trans (recF_setRec_valid hs rfl)
  | true =>
    by_cases h : (recOf s f.cls).cause = f.cause ∧ (recOf s f.cls).kind = f.kind ∧ (recOf s f.cls).unit = f.unit
    · rw [arrive_of_same src rfl hv h]
      exact recF_setRec_valid (s := count s _ _) hs hv
    · obtain ⟨t, he, ht⟩ := arrive_of_other src rfl hv h
      rw [he]
      exact (congrArg FaultRec.valid (ht 2)).trans (recF_setRec_valid hs hv)

theorem recF_arriveAll_valid {l : List (Fault16 × Option FaultRec)} (hs : s.recF.valid = true) :
    (arriveAll s l).1.recF.valid = true := by
  induction l generalizing s with
  | nil => exact hs
  | cons p l ih => exact ih (recF_arrive_valid hs)

theorem recF_latchCycles_valid {n : Nat} {es : List (Fault16 × Option FaultRec)} {fs : List Fault16}
    (hs : s.recF.valid = true) : (latchCycles n s es fs).recF.valid = true := by
  induction n generalizing s es fs with
  | zero => exact hs
  | succ n ih => exact ih (recF_arriveAll_valid hs)

/-! ### The entry to Faulted (13 R419) -/

theorem enterFaulted_of_faulted (h : s.mode = .dormant ∨ s.mode = .faulted) : enterFaulted s = s := if_pos h

theorem enterFaulted_mode (h : s.mode ≠ .dormant) : (enterFaulted s).mode = .faulted := by
  by_cases hf : s.mode = .faulted
  · rw [enterFaulted_of_faulted (.inr hf), hf]
  · unfold enterFaulted
    rw [if_neg (by simp [h, hf])]
    extract_lets faulted zeroed stopped down
    have hs : stopped.mode = .faulted := forEach_mode stopCtx_mode _ zeroed
    have hd : down.mode = .faulted := by
      unfold down
      split
      · exact (stopSwitch_mode _ _).trans hs
      · exact hs
    exact (latchAll_mode _ _).trans ((endCollectives_mode down).trans hd)

theorem enterFaulted_recF_valid (h : s.recF.valid = true) : (enterFaulted s).recF.valid = true := by
  unfold enterFaulted
  extract_lets faulted zeroed stopped down
  split
  · exact h
  · have hs : stopped.recF = s.recF := forEach_recF stopCtx_recF _ zeroed
    have hd : down.recF = s.recF := by
      unfold down
      split
      · exact (stopSwitch_recF _ _).trans hs
      · exact hs
    have he : (endCollectives down).1.recF.valid = true := by rw [endCollectives_recF, hd, h]
    exact recF_latchCycles_valid he

/-! ### The state that an arrival leaves, by its three cases -/

/-- A fault latched into its record, a copy of it in the fault log. -/
def latched (s : State) (f : Fault16) (src : Option FaultRec) : State :=
  let held := setRec (count s 0xA0C0 (f.cls + 1)) f.cls (newRec s f src)
  logCopy (if f.cls = 0 then { held with cAckDue := true } else held) f.cls

/-- A fault of another pair or cause than its record, which overflows; below class F its escalation is counted. -/
def overflowed (s : State) (f : Fault16) : State :=
  let held := setRec (count s 0xA0C0 (f.cls + 1)) f.cls { recOf s f.cls with overflow := true }
  if f.cls ≥ 2 then held else count held 0xA0C0 0x04

theorem arrive_latched (src : Option FaultRec) (hv : (recOf s f.cls).valid = false) : arrive s f src = (latched s f src, none) := by
  unfold arrive
  exact if_pos hv

theorem arrive_overflowed (src : Option FaultRec) (hv : (recOf s f.cls).valid = true)
    (h : ¬((recOf s f.cls).cause = f.cause ∧ (recOf s f.cls).kind = f.kind ∧ (recOf s f.cls).unit = f.unit)) (h2 : f.cls < 2) :
    arrive s f src = (overflowed s f, some ({ f with cls := f.cls + 1 }, recOf s f.cls)) := by
  have hv' : ¬(recOf s f.cls).valid = false := by simp [hv]
  have h2' : ¬f.cls ≥ 2 := by omega
  simp only [arrive, overflowed, recOf_count, if_neg hv', if_neg h, if_neg h2']

theorem logCopy_only (s : State) (cls : Nat) :
    logCopy s cls = { s with mem := (logCopy s cls).mem, ent := (logCopy s cls).ent } := by
  unfold logCopy
  dsimp only
  split
  · rfl
  · rw [memWrite_only, setE_only]

theorem sameEntriesBut_logCopy (s : State) (cls : Nat) : SameEntriesBut [(0x8060, 2)] s (logCopy s cls) := by
  unfold logCopy
  dsimp only
  split
  · exact SameEntriesBut.refl _ s
  · refine fun i j hi hj hn => (sameEntriesBut_setE _ (by decide) (by decide) _ i j hi hj hn).trans (getE_of_ent ?_ i j)
    rw [memWrite_only]

/-- A record of class C or U is no field of class F. -/
theorem setRec_low (s : State) {cls : Nat} (h : cls < 2) (r : FaultRec) :
    setRec s cls r = { s with recC := (setRec s cls r).recC, recU := (setRec s cls r).recU } := by
  interval_cases cls <;> rfl

theorem latched_only (s : State) (f : Fault16) (src : Option FaultRec) (h : f.cls < 2) :
    latched s f src = { s with recC := (latched s f src).recC, recU := (latched s f src).recU,
                               cAckDue := (latched s f src).cAckDue, ent := (latched s f src).ent,
                               mem := (latched s f src).mem } := by
  unfold latched
  extract_lets held
  obtain ⟨rc, ru, hh⟩ : ∃ rc ru, held = { s with recC := rc, recU := ru, ent := held.ent } := by
    refine ⟨held.recC, held.recU, (setRec_low _ h _).trans ?_⟩
    unfold held
    rw [setRec_low _ h]
    rfl
  split
  · rw [logCopy_only, hh]
  · rw [logCopy_only, hh]

theorem latched_recOf (s : State) (f : Fault16) (src : Option FaultRec) (c : Nat) :
    recOf (latched s f src) c = recOf (setRec s f.cls (newRec s f src)) c := by
  unfold latched
  dsimp only
  rw [recOf_logCopy, ← recOf_setRec_congr (recOf_count s 0xA0C0 (f.cls + 1))]
  split <;> rfl

/-- What the counters of the plumb show after a latch, a repeat or an overflow. -/
theorem getE_latched (s : State) (f : Fault16) (src : Option FaultRec) {j : Nat} (hj : j < 256) :
    getE (latched s f src) 0xA0C0 j = getE (count s 0xA0C0 (f.cls + 1)) 0xA0C0 j := by
  unfold latched
  extract_lets held
  rw [sameEntriesBut_logCopy _ _ _ _ (by decide) hj (by simp)]
  have hh : held.ent = (count s 0xA0C0 (f.cls + 1)).ent := by
    unfold held
    rw [setRec_eq]
  split
  · exact getE_of_ent hh _ _
  · exact getE_of_ent hh _ _

theorem getE_overflowed (s : State) {f : Fault16} (h : f.cls < 2) (j : Nat) :
    getE (overflowed s f) 0xA0C0 j = getE (count (count s 0xA0C0 (f.cls + 1)) 0xA0C0 0x04) 0xA0C0 j := by
  have hn : ¬f.cls ≥ 2 := by omega
  have hh : ∀ r, (count (setRec (count s 0xA0C0 (f.cls + 1)) f.cls r) 0xA0C0 0x04).ent =
      (count (count s 0xA0C0 (f.cls + 1)) 0xA0C0 0x04).ent := by
    intro r
    rw [setRec_eq]
    rfl
  unfold overflowed
  dsimp only
  rw [if_neg hn]
  exact getE_of_ent (hh _) _ _

/-! ### One fault (16 R504) -/

/-- A fault that the management cycles do not count at class F leaves the part's state. -/
theorem raise_of_latchAll {fs : List Fault16} (h : latchAll s fs = t) (hF : getE t 0xA0C0 3 = getE s 0xA0C0 3) : raise s fs = t := by
  unfold raise
  rw [h]
  exact if_neg (not_not.2 hF)

theorem latchAll_ends (hd : s.deadPairs.contains (f.kind, f.unit) = false) (h : arrive s f none = (t, none)) :
    latchAll s [f] = t := by
  rw [latchAll_singleton hd, latchCycles_report, arriveAll_ends h, latchCycles_quiet]

theorem latchAll_escalates {u : State} {g : Fault16} {r : FaultRec} (hd : s.deadPairs.contains (f.kind, f.unit) = false)
    (h : arrive s f none = (t, some (g, r))) (hg : arrive t g (some r) = (u, none)) : latchAll s [f] = u := by
  rw [latchAll_singleton hd, latchCycles_report, arriveAll_escalates h, latchCycles_escalation, arriveAll_ends hg, latchCycles_quiet]

theorem getE_count_plumb (s : State) {i j : Nat} (h : i ≠ j) (hi : i < 256) (hj : j < 256) :
    getE (count s 0xA0C0 i) 0xA0C0 j = getE s 0xA0C0 j :=
  getE_count_ne (ekey_ne (by decide) hj (by decide) hi fun e => h (congrArg Prod.snd e).symm)

/-- An empty record of class C or U takes the fault. -/
theorem raise_latched (h2 : f.cls < 2) (hd : s.deadPairs.contains (f.kind, f.unit) = false)
    (hv : (recOf s f.cls).valid = false) : raise s [f] = latched s f none := by
  refine raise_of_latchAll (latchAll_ends hd (arrive_latched none hv)) ?_
  rw [getE_latched s f none (by decide), getE_count_plumb s (by omega) (by omega) (by decide)]

/-- The same fault again. -/
theorem raise_repeated (h2 : f.cls < 2) (hd : s.deadPairs.contains (f.kind, f.unit) = false)
    (hv : (recOf s f.cls).valid = true)
    (h : (recOf s f.cls).cause = f.cause ∧ (recOf s f.cls).kind = f.kind ∧ (recOf s f.cls).unit = f.unit) :
    raise s [f] = setRec (count s 0xA0C0 (f.cls + 1)) f.cls
      { recOf s f.cls with repeats := min 255 ((recOf s f.cls).repeats + 1) } := by
  refine raise_of_latchAll (latchAll_ends hd (arrive_of_same none rfl hv h)) ?_
  rw [getE_setRec, getE_count_plumb s (by omega) (by omega) (by decide)]

/-- Another fault of class C while its record is held: it arrives at class U. -/
theorem raise_escalated (h0 : f.cls = 0) (hd : s.deadPairs.contains (f.kind, f.unit) = false)
    (hv : (recOf s f.cls).valid = true) (hu : s.recU.valid = false)
    (h : ¬((recOf s f.cls).cause = f.cause ∧ (recOf s f.cls).kind = f.kind ∧ (recOf s f.cls).unit = f.unit)) :
    raise s [f] = latched (overflowed s f) { f with cls := f.cls + 1 } (some (recOf s f.cls)) := by
  have h2 : f.cls < 2 := by omega
  have hvU : (recOf (overflowed s f) (f.cls + 1)).valid = false := by
    simp [overflowed, h0, recOf, setRec, hu]
  refine raise_of_latchAll (latchAll_escalates hd (arrive_overflowed none hv h h2) (arrive_latched _ hvU)) ?_
  rw [getE_latched _ _ _ (by decide), getE_count_plumb _ (by dsimp only; omega) (by dsimp only; omega) (by decide),
    getE_overflowed s h2, getE_count_plumb _ (by decide) (by decide) (by decide),
    getE_count_plumb _ (by omega) (by omega) (by decide)]

/-! ### A fault of class F (13 R419) -/

/-- It is counted, and its record is VALID from then on. -/
theorem latchAll_classF (h2 : f.cls = 2) (hd : s.deadPairs.contains (f.kind, f.unit) = false) :
    getE (latchAll s [f]) 0xA0C0 3 = (getE s 0xA0C0 3 + 1) % 2 ^ 64 ∧ (latchAll s [f]).recF.valid = true := by
  have hc : getE (count s 0xA0C0 (f.cls + 1)) 0xA0C0 3 = (getE s 0xA0C0 3 + 1) % 2 ^ 64 := by
    rw [h2]
    exact getE_countBy_self _ _ _
  cases hv : (recOf s f.cls).valid with
  | false =>
    rw [latchAll_ends hd (arrive_latched none hv), getE_latched s f none (by decide)]
    refine ⟨hc, ?_⟩
    have hr := latched_recOf s f none 2
    rw [h2, ← h2, recOf_setRec_self] at hr
    rw [h2] at hr
    exact congrArg FaultRec.valid hr
  | true =>
    by_cases h : (recOf s f.cls).cause = f.cause ∧ (recOf s f.cls).kind = f.kind ∧ (recOf s f.cls).unit = f.unit
    · rw [latchAll_ends hd (arrive_of_same none rfl hv h), getE_setRec]
      refine ⟨hc, ?_⟩
      rw [h2] at hv ⊢
      exact hv
    · have ha : arrive s f none =
          (setRec (count s 0xA0C0 (f.cls + 1)) f.cls { recOf s f.cls with overflow := true }, none) := by
        have hv' : ¬(recOf s f.cls).valid = false := by simp [hv]
        have h2' : f.cls ≥ 2 := h2.ge
        simp only [arrive, recOf_count, if_neg hv', if_neg h, if_pos h2']
      rw [latchAll_ends hd ha, getE_setRec]
      refine ⟨hc, ?_⟩
      rw [h2] at hv ⊢
      exact hv

theorem raise_classF (h2 : f.cls = 2) (hd : s.deadPairs.contains (f.kind, f.unit) = false) :
    raise s [f] = enterFaulted (latchAll s [f]) := by
  refine if_pos ?_
  rw [(latchAll_classF h2 hd).1]
  omega

/-- Settles O19: a fault is latched, repeats its record or overflows it, and one of class F makes the part enter Faulted. -/
theorem faultArrival : Obligations.FaultArrival := by
  unfold Obligations.FaultArrival
  refine ⟨?_, ?_, ?_⟩
  · rintro s f r h2 hd rfl hv
    have hr := latched_recOf s f none
    have hself : recOf (latched s f none) f.cls = newRec s f none := (hr _).trans (recOf_setRec_self s _ _)
    refine ⟨latched s f none, (raise_latched h2 hd hv).symm, ?_⟩
    rw [hself]
    refine ⟨rfl, rfl, rfl, rfl, rfl, rfl, rfl, rfl, rfl, rfl, ?_, fun c hc hn => ?_, ?_, latched_only s f none h2⟩
    · rw [latched_only s f none h2]
    · rw [hr, recOf_setRec_ne hc (by omega) hn]
    · rw [getE_latched s f none (by omega)]
      exact getE_countBy_self _ _ _
  · refine fun s f hd => ⟨fun h2 hv hc hk hu => ?_, fun h0 hv hu hn => ?_⟩
    · refine ⟨_, (raise_repeated h2 hd hv ⟨hc, hk, hu⟩).symm, recOf_setRec_self _ _ _, ?_⟩
      rw [setRec_low _ h2]
      rfl
    · have hrec : recOf s f.cls = s.recC := by rw [h0]; rfl
      have hr := latched_recOf (overflowed s f) { f with cls := f.cls + 1 } (some (recOf s f.cls))
      have hC : recOf (latched (overflowed s f) { f with cls := f.cls + 1 } (some (recOf s f.cls))) 0 =
          { s.recC with overflow := true } := by
        rw [hr, recOf_setRec_ne (by decide) (by simp [h0]) (by simp [h0])]
        simp [overflowed, h0, recOf, setRec]
      have hU : recOf (latched (overflowed s f) { f with cls := f.cls + 1 } (some (recOf s f.cls))) 1 =
          newRec (overflowed s f) { f with cls := f.cls + 1 } (some s.recC) := by
        rw [hr, hrec, h0]
        exact recOf_setRec_self _ 1 _
      have hF : recOf (latched (overflowed s f) { f with cls := f.cls + 1 } (some (recOf s f.cls))) 2 = s.recF := by
        rw [hr, recOf_setRec_ne (by decide) (by simp [h0]) (by simp [h0])]
        simp [overflowed, h0, recOf, setRec]
      refine ⟨_, (raise_escalated h0 hd (by rwa [hrec]) hu (by rwa [hrec])).symm, hC, ?_⟩
      have hU' : (latched (overflowed s f) { f with cls := f.cls + 1 } (some (recOf s f.cls))).recU = _ := hU
      rw [hU']
      refine ⟨rfl, rfl, rfl, rfl, rfl, rfl, hF, ?_, ?_⟩
      · rw [latched_only _ _ _ (by dsimp only; omega)]
        simp [overflowed, h0]
      · rw [getE_latched _ _ _ (by decide), getE_count_plumb _ (by dsimp only; omega) (by dsimp only; omega) (by decide),
          getE_overflowed s (by omega)]
        refine (getE_countBy_self _ _ _).trans ?_
        rw [getE_count_plumb s (by omega) (by omega) (by decide)]
  · refine fun s f h2 hd => ?_
    rw [raise_classF h2 hd]
    have hm : (latchAll s [f]).mode = s.mode := latchAll_mode s _
    refine ⟨fun h => enterFaulted_mode (by rwa [hm]), fun h => ?_, enterFaulted_recF_valid (latchAll_classF h2 hd).2⟩
    rw [enterFaulted_of_faulted (.inl (hm.trans h)), hm, h]

end Sys2Proof.Machine
end

section
/-! PROOFS. The messages of a mortar (12 R385 to R404), and a completion record that lands in a broken word. -/

-- As in the tests: proofs elaborated side by side exhaust memory in the joined text.
set_option Elab.async false

namespace Sys2Proof.Machine

variable {s t : State} {m : CollMsg} {co : Coll} {p : Nat × Instr}

/-! ### The messages (12 R385, R399) -/

/-- The messages of a mortar, by MSG. -/
def mortarMsgs (m : CollMsg) : List (Nat × Instr) :=
  [(0, .partialMsg m), (1, .resultMsg m), (2, .pnak m true), (3, .collNak m true), (4, .doneMsg m), (5, .sealMsg m),
    (6, .abortReq m), (7, .abort m), (8, .backoff m)]

theorem exec_mortarMsg (h0 : s.resetLow = false) (hp : p ∈ mortarMsgs m) : exec p.2 s = .next (takeMsg s p.1 m) := by
  have he : exec p.2 s = run s fun s => takeMsg s p.1 m := by
    simp only [mortarMsgs, List.mem_cons, List.not_mem_nil, or_false] at hp
    rcases hp with rfl | rfl | rfl | rfl | rfl | rfl | rfl | rfl | rfl <;> rfl
  rw [he, run_up h0]

theorem exec_pnak_lost (h0 : s.resetLow = false) : exec (.pnak m false) s = .next (resendLost s 2 m) := by
  have he : exec (.pnak m false) s = run s fun s => resendLost s 2 m := rfl
  rw [he, run_up h0]

theorem exec_collNak_lost (h0 : s.resetLow = false) : exec (.collNak m false) s = .next (resendLost s 3 m) := by
  have he : exec (.collNak m false) s = run s fun s => resendLost s 3 m := rfl
  rw [he, run_up h0]

theorem takeMsg_of_open {msg : Nat} (hc : collFor s m.key = some co) (hg : co.granted = true) :
    takeMsg s msg m = takeOpen s co msg m := by
  simp [takeMsg, hc, hg]

theorem takeMsg_of_none {msg : Nat} (hc : collFor s m.key = none) (he : endFor s m.key = none) (h6 : msg ≠ 6) (h7 : msg ≠ 7) :
    takeMsg s msg m = holdMsg s msg m := by
  simp [takeMsg, hc, he, h6, h7]

theorem takeMsg_of_ended {msg : Nat} {e : CollEnd} (hc : collFor s m.key = none) (he : endFor s m.key = some e) :
    takeMsg s msg m = takeEnded s e msg m := by
  simp [takeMsg, hc, he]

theorem resendLost_of_open {msg : Nat} (hc : collFor s m.key = some co) (hr : co.retained.any (fun r => r.1 == m.chunk) = true)
    (hm : msg = 2 ∨ co.rank = co.root) : resendLost s msg m = finish (requestAbort (retainFault s) co 0x0703) := by
  simp [resendLost, hc, hr, hm]

/-- A completion with status 0 raises nothing. -/
theorem finish_completeColl (rank : Nat) (u : Bool) : finish (completeColl s co 0 rank u) = (completeColl s co 0 rank u).1 := rfl

/-- Settles O48: every message goes through `takeMsg`, which asks first whether the collective is open, then whether it has
ended. -/
theorem collectiveMessages : Obligations.CollectiveMessages := by
  unfold Obligations.CollectiveMessages
  refine fun s m p h0 hp => ⟨fun co hc hg => ?_, fun hc he h6 h7 => ?_, fun e hc he => ?_⟩
  · have hopen : ∀ msg, p.1 = msg → exec p.2 s = .next (takeOpen s co msg m) := by
      rintro msg rfl
      rw [exec_mortarMsg h0 hp, takeMsg_of_open hc hg]
    refine ⟨hopen 0, hopen 1, hopen 2, fun h hr => ?_, hopen 4, fun h => ?_, fun h hr => ?_, hopen 7, hopen 8, fun hk => ?_⟩
    · exact (hopen 3 h).trans (congrArg _ (if_pos hr))
    · rw [hopen 5 h, ← finish_completeColl]
      rfl
    · exact (hopen 6 h).trans (congrArg _ (if_pos hr))
    · rw [exec_pnak_lost h0, exec_collNak_lost h0, resendLost_of_open hc hk (.inl rfl)]
      exact ⟨rfl, fun hr => by rw [resendLost_of_open hc hk (.inr hr)]⟩
  · rw [exec_mortarMsg h0 hp, takeMsg_of_none hc he h6 h7]
    refine ⟨fun h => congrArg _ (if_pos h), fun h => congrArg _ (if_neg (Nat.not_le.2 h))⟩
  · rw [exec_mortarMsg h0 hp, takeMsg_of_ended hc he]
    refine ⟨fun hr h6 hs => ?_, fun hr h4 hs => ?_, fun h4 h6 h7 => ?_⟩
    · exact congrArg _ (if_pos ⟨hr, h6, hs⟩)
    · refine congrArg _ ((if_neg ?_).trans (if_pos ⟨hr, h4, hs⟩))
      rintro ⟨-, h6, -⟩
      omega
    · unfold takeEnded
      rw [if_neg (fun h => h6 h.2.1), if_neg (fun h => h4 h.2.1), if_neg (by omega)]

/-! ### A completion record across a broken word (05 R170, 12 R408) -/

/-- After reset, SRAM word 0 of stone 0 holds an uncorrectable error. -/
def brokenWord : State := { State.reset with badWords := [(0, true)] }

/-- A collective of stone 0 with one result, whose RECORD is at offset 1: the record begins in word 0. -/
def recordAtOne : Coll := { mkColl State.reset 0 0 (parseColl (2 ^ 14)) 0 0 0 1 none false false with results := [0] }

/-- The bytes 1 to 7 of the broken word are lost with the write of a part of it, and CHUNKS of the record stands there. -/
theorem record_lost : sramNat (completeColl brokenWord recordAtOne 0 0 false).1 0 1 16 ≠ collRecord 0 0 0 0 1 false false 0 := by
  decide

/-- Refutes O49: a completion record that does not begin on a word and begins in a word with an uncorrectable error is not
in SRAM after the completion. -/
theorem not_collectiveEvents : ¬ Obligations.CollectiveEvents := by
  unfold Obligations.CollectiveEvents
  rintro ⟨-, h⟩
  obtain ⟨t, fs, he, -, -, -, -, -, hrec, -⟩ := h brokenWord recordAtOne 0 0 false (by decide)
  have ht : (completeColl brokenWord recordAtOne 0 0 false).1 = t := congrArg Prod.fst he
  subst ht
  exact record_lost (hrec (by decide) (by decide))

end Sys2Proof.Machine
end

section
/-! PROOFS. GROUP_COMMIT (12 R377) and the POST of every operation (12 R380 to R386). -/

-- As in the tests: proofs elaborated side by side exhaust memory in the joined text.
set_option Elab.async false

namespace Sys2Proof.Machine

variable {s u : State} {q : Req} {g st : Nat} {h : IHdr} {o : Operands} {l : List Nat}

/-! ### GROUP_COMMIT (12 R377) -/

/-- The staged COUNT and RADIX of a group are legal. -/
def GroupShapeOk (u : State) (c g : Nat) : Prop := 0 < groupE u c g 2 ∧ groupE u c g 2 ≤ 16384 ∧ groupE u c g 3 ∈ [2, 4, 8, 16]

/-- The group has an open collective. -/
def groupOpen (u : State) (c g : Nat) : Bool := u.colls.any (fun x => x.key.ctx == c && x.key.group == g)

/-- The entries of a group as committed with a member list: SELF_RANK, the list's digest, NEXT_SEQ and COMMITTED. -/
def groupEntries (u : State) (c g : Nat) (l : List Nat) : State :=
  let ranked := setC u c (0x7100 + g) 7 (l.findIdx (· == pkgId u))
  let digested := setC ranked c (0x7100 + g) 8 (digest8 (l.flatMap (toLE 2)))
  setC (setC digested c (0x7100 + g) 9 0) c (0x7100 + g) 6 1

/-- A group as committed with a member list. -/
def committedGroup (u : State) (c g : Nat) (l : List Nat) : State :=
  { groupEntries u c g l with groupLists := tins (groupEntries u c g l).groupLists (groupKey c g) l }

theorem actGroupCommit_readOnly (q : Req) (u : State) : actGroupCommit 255 true q u = .refuse 0x0201 u := rfl

theorem actGroupCommit_busy {c : Nat} (hg : g ≠ 255) (hc : c = viewCtx u (0x7100 + g) 5 q) (hb : groupOpen u c g = true) :
    actGroupCommit g true q u = .refuse 0x0601 u := by
  subst hc
  unfold actGroupCommit
  rw [if_neg hg]
  exact if_pos hb

theorem actGroupCommit_shape {c : Nat} {ok : Bool} (hg : g ≠ 255) (hc : c = viewCtx u (0x7100 + g) 5 q)
    (hb : groupOpen u c g = false) (hs : ¬GroupShapeOk u c g) : actGroupCommit g ok q u = .refuse 0x0302 u := by
  subst hc
  unfold groupOpen at hb
  unfold actGroupCommit
  dsimp only
  rw [if_neg hg, if_neg (Bool.eq_false_iff.1 hb)]
  refine if_pos (Decidable.byContradiction fun hn => hs ?_)
  simp only [Bool.not_eq_true', not_or, Bool.not_eq_false, List.contains_iff_mem] at hn
  obtain ⟨h1, h2, h3⟩ := hn
  exact ⟨by omega, by omega, h3⟩

/-- With a legal shape the list decides. -/
theorem actGroupCommit_list {c : Nat} {ok : Bool} (hg : g ≠ 255) (hc : c = viewCtx u (0x7100 + g) 5 q)
    (hb : groupOpen u c g = false) (hs : GroupShapeOk u c g) : actGroupCommit g ok q u =
      match (if ok then readMembers u (groupE u c g 1) (groupE u c g 2) else none) with
      | none => .refuse 0x0302 (if ok then missPieces u (groupE u c g 1) (2 * groupE u c g 2) winRead else u)
      | some l => if l.any (fun x => decide (2 ^ 14 ≤ x)) ∨ l.dedup.length ≠ l.length ∨ !l.contains (pkgId u) then .refuse 0x0302 u
          else .done (committedGroup u c g l) := by
  subst hc
  unfold groupOpen at hb
  obtain ⟨h1, h2, h3⟩ := hs
  unfold actGroupCommit
  dsimp only
  rw [if_neg hg, if_neg (Bool.eq_false_iff.1 hb), if_neg (by simp only [List.contains_iff_mem.2 h3]; simp; omega)]
  rfl

theorem actGroupCommit_unread {c : Nat} (hg : g ≠ 255) (hc : c = viewCtx u (0x7100 + g) 5 q) (hb : groupOpen u c g = false)
    (hs : GroupShapeOk u c g) : actGroupCommit g false q u = .refuse 0x0302 u := actGroupCommit_list hg hc hb hs

theorem actGroupCommit_missed {c : Nat} (hg : g ≠ 255) (hc : c = viewCtx u (0x7100 + g) 5 q) (hb : groupOpen u c g = false)
    (hs : GroupShapeOk u c g) (hr : readMembers u (groupE u c g 1) (groupE u c g 2) = none) :
    actGroupCommit g true q u = .refuse 0x0302 (missPieces u (groupE u c g 1) (2 * groupE u c g 2) winRead) := by
  rw [actGroupCommit_list hg hc hb hs, if_pos rfl, hr]
  rfl

theorem actGroupCommit_taken {c : Nat} (hg : g ≠ 255) (hc : c = viewCtx u (0x7100 + g) 5 q) (hb : groupOpen u c g = false)
    (hs : GroupShapeOk u c g) (hr : readMembers u (groupE u c g 1) (groupE u c g 2) = some l) (hl : ∀ x ∈ l, x < 2 ^ 14)
    (hn : l.Nodup) (hm : pkgId u ∈ l) : actGroupCommit g true q u = .done (committedGroup u c g l) := by
  have hbig : l.any (fun x => decide (2 ^ 14 ≤ x)) = false :=
    List.any_eq_false.2 fun x hx => by simpa using hl x hx
  rw [actGroupCommit_list hg hc hb hs, if_pos rfl, hr]
  refine if_neg ?_
  rw [hbig, hn.dedup, List.contains_iff_mem.2 hm]
  simp

/-! What a committed group shows. -/

theorem setC_only_of {t : State} (ht : t = { u with ent := t.ent }) (c i j v : Nat) :
    setC t c i j v = { u with ent := (setC t c i j v).ent } :=
  congrArg (fun x : State => { x with ent := (setC t c i j v).ent }) ht

theorem groupEntries_only (u : State) (c g : Nat) (l : List Nat) :
    groupEntries u c g l = { u with ent := (groupEntries u c g l).ent } :=
  setC_only_of (setC_only_of (setC_only_of (setC_only_of rfl _ _ _ _) _ _ _ _) _ _ _ _) _ _ _ _

theorem committedGroup_only (u : State) (c g : Nat) (l : List Nat) : committedGroup u c g l =
    { u with ent := (committedGroup u c g l).ent, groupLists := (committedGroup u c g l).groupLists } :=
  congrArg (fun x : State => { x with groupLists := (committedGroup u c g l).groupLists }) (groupEntries_only u c g l)

theorem groupList_committedGroup (u : State) (c g : Nat) (l : List Nat) : groupList (committedGroup u c g l) c g = l := by
  have hl : (committedGroup u c g l).groupLists = tins (groupEntries u c g l).groupLists (groupKey c g) l := rfl
  unfold groupList tget
  rw [hl, tlook_tins_self]

/-- An entry of a group that the commit wrote, behind a later write of another. -/
theorem getC_group_ne (t : State) (c v : Nat) (hg : g < 255) {i j : Nat} (hi : i < 256) (hj : j < 256) (hn : i ≠ j) :
    getC (setC t c (0x7100 + g) j v) c (0x7100 + g) i = getC t c (0x7100 + g) i :=
  getC_setC_ne (fun he => hn (ekey_inj he (by omega) hi (by omega) hj).2.2) v

theorem getC_groupEntries (u : State) (c : Nat) (l : List Nat) (hg : g < 255) :
    getC (groupEntries u c g l) c (0x7100 + g) 7 = l.findIdx (· == pkgId u) ∧
    getC (groupEntries u c g l) c (0x7100 + g) 8 = digest8 (l.flatMap (toLE 2)) ∧
    getC (groupEntries u c g l) c (0x7100 + g) 9 = 0 ∧ getC (groupEntries u c g l) c (0x7100 + g) 6 = 1 := by
  unfold groupEntries
  dsimp only
  refine ⟨?_, ?_, ?_, ?_⟩
  · rw [getC_group_ne _ _ _ hg (by decide) (by decide) (by decide), getC_group_ne _ _ _ hg (by decide) (by decide) (by decide),
      getC_group_ne _ _ _ hg (by decide) (by decide) (by decide), getC_setC_self]
  · rw [getC_group_ne _ _ _ hg (by decide) (by decide) (by decide), getC_group_ne _ _ _ hg (by decide) (by decide) (by decide),
      getC_setC_self]
  · rw [getC_group_ne _ _ _ hg (by decide) (by decide) (by decide), getC_setC_self]
  · exact getC_setC_self _ _ _ _

theorem groupE_committedGroup (u : State) {c : Nat} (l : List Nat) (hg : g < 255) (j : Nat) :
    groupE (committedGroup u c g l) c g j = getC (groupEntries u c g l) c (0x7100 + g) j := by
  have hc : groupCtx c g = c := if_neg (by omega)
  unfold groupE
  rw [hc]
  have he : (committedGroup u c g l).ent = (groupEntries u c g l).ent := rfl
  exact getC_of_ent he c (0x7100 + g) j

/-! ### POST: the checks and the choice of the mortar (12 R380 to R385) -/

/-- The POST instructions, by the COP that each names. -/
def postInstrs (st : Nat) (h : IHdr) (o : Operands) : List (Nat × Instr) :=
  [(0, .collBarrier st h o), (1, .collBroadcast st h o), (2, .collReduce st h o), (3, .collAllReduce st h o),
    (4, .collReduceScatter st h o), (5, .collAllGather st h o), (6, .collMulticast st h o)]

theorem exec_post {p : Nat × Instr} (hp : p ∈ postInstrs st h o) : exec p.2 s = run s (post p.1 st h o) := by
  simp only [postInstrs, List.mem_cons, List.not_mem_nil, or_false] at hp
  rcases hp with rfl | rfl | rfl | rfl | rfl | rfl | rfl <;> rfl

/-- What a POST reads and writes of SRAM. -/
def postSrcs (s : State) (st off ctx : Nat) (soc : Bool) (d : CollDesc) : List (Nat × Nat) :=
  (off, 32) :: (if soc ∨ contributes d (groupE s ctx d.group 7) = false then []
      else rangeIn st d.srcSpace d.src d.tps (tileBytes d) (collBytes d)) ++
    (if d.cop = 6 then [(d.dst % 2 ^ 18, 8 * d.root)] else [])

def postDsts (s : State) (st ctx : Nat) (d : CollDesc) : List (Nat × Nat) :=
  (d.record, 16) :: (if d.cop = 6 then []
    else rangeIn st d.dstSpace d.dst d.tps (tileBytes d)
      (resultBytes d (groupList s ctx d.group).length (groupE s ctx d.group 7)))

/-- The multicast that a POST opens in a state. -/
def postedMcast (s : State) (st ctx handle : Nat) (h : IHdr) (soc : Bool) (d : CollDesc) : Mcast :=
  { ctx := ctx, number := s.mcastNext, desc := d, stone := st, pc := (stoneOf s st).pc, signal := sigOf h,
    retention := roundTiles d (collBytes d), granted := decide (roundTiles d (collBytes d) ≤ retentionFree s),
    legs := readLegs s st d, handle := handle, socFeed := soc, tiles := [], acks := [], resends := [] }

/-- A multicast opened, its instruction in an in-flight slot. -/
def withMcast (s : State) (st : Nat) (srcs dsts : List (Nat × Nat)) (h : IHdr) (m : Mcast) : State :=
  { takeSlot s st 7 srcs dsts h with mcasts := s.mcasts ++ [m], mcastNext := (s.mcastNext + 1) % 2 ^ 32 }

/-- The open collectives of a group, the admission barrier aside. -/
def groupColls (s : State) (ctx g : Nat) : List Coll :=
  s.colls.filter (fun c => c.key.ctx == ctx && c.key.group == g && c.desc.cop != 7)

/-- A POST takes its group's next number. -/
def withSeq (s : State) (st ctx : Nat) (srcs dsts : List (Nat × Nat)) (h : IHdr) (d : CollDesc) : State :=
  setC (takeSlot s st 7 srcs dsts h) ctx (0x7100 + d.group) 9 ((getC s ctx (0x7100 + d.group) 9 + 1) % 2 ^ 32)

/-- A POST whose reads were clean. -/
def postOpens (s : State) (st ctx handle : Nat) (srcs dsts : List (Nat × Nat)) (h : IHdr) (eager soc : Bool) (d : CollDesc) : State :=
  if d.cop = 6 then
    if decide (roundTiles d (collBytes d) ≤ retentionFree s) then
      startMcast (withMcast s st srcs dsts h (postedMcast s st ctx handle h soc d)) ctx s.mcastNext soc
    else withMcast s st srcs dsts h (postedMcast s st ctx handle h soc d)
  else if (groupColls s ctx d.group).length ≥ 8 then stallOn s st .collectives
  else openColl (withSeq s st ctx srcs dsts h d) (mkColl (withSeq s st ctx srcs dsts h d) ctx st d
    (getC s ctx (0x7100 + d.group) 9) (getC s ctx (0x7100 + d.group) 9) (stoneOf s st).pc handle (sigOf h) eager soc)

/-- A POST that has issued. -/
def postIssued (s : State) (st off ctx handle : Nat) (srcs dsts : List (Nat × Nat)) (h : IHdr) (eager soc : Bool) (d : CollDesc) :
    State :=
  if off % 32 ≠ 0 ∨ inSram off 32 = false ∨ postOk s st ctx handle d = false then failStone s st 0x05
  else if mortarOpen s (wytheOf st) ≥ 64 then stallOn s st .collectives
  else readRanges s st srcs [] fun s => postOpens s st ctx handle srcs dsts h eager soc d

variable {want off ctx : Nat} {d : CollDesc} {srcs dsts : List (Nat × Nat)}

theorem post_issued (hoff : off = (reg s st (fld 111 108 o)).toNat) (hd : d = parseColl (sramNat s st off 32)) (hcop : d.cop = want)
    (hown : (stoneOf s st).owner = some ctx) (hsrcs : srcs = postSrcs s st off ctx (flag 98 o) d)
    (hdsts : dsts = postDsts s st ctx d) (hi : issues s st h srcs dsts = true) (ho : onlyFields [(111, 98)] o = true)
    (hsoc : flag 98 o = true → fld 107 100 o ≠ 0) :
    post want st h o s = postIssued (issued s st) st off ctx (fld 107 100 o) srcs dsts h (flag 99 o) (flag 98 o) d := by
  have hok : (headerOk h false && onlyFields [(111, 98)] o && !(flag 98 o && decide (fld 107 100 o = 0))) = true := by
    rw [headerOk_of_issues hi, ho]
    cases hf : flag 98 o with
    | false => rfl
    | true => simp [hsoc hf]
  subst hsrcs hdsts hd hoff
  have hw : ¬((parseColl (sramNat s st (reg s st (fld 111 108 o)).toNat 32)).cop ≤ 6 ∧
      (parseColl (sramNat s st (reg s st (fld 111 108 o)).toNat 32)).cop ≠ want) := fun hn => hn.2 hcop
  unfold post
  dsimp only
  rw [if_neg hw, hown]
  refine (issue_up hi hok).trans ?_
  unfold postIssued
  congr 3

theorem postOk_issued (s : State) (st ctx handle : Nat) (d : CollDesc) : postOk (issued s st) st ctx handle d = postOk s st ctx handle d :=
  rfl

variable {handle : Nat} {eager soc : Bool}

theorem postIssued_refused (hb : off % 32 ≠ 0 ∨ 2 ^ 18 < off + 32 ∨ postOk s st ctx handle d = false) :
    postIssued (issued s st) st off ctx handle srcs dsts h eager soc d = failStone (issued s st) st 0x05 := by
  have hr : inSram off 32 = false ↔ 2 ^ 18 < off + 32 := by
    simp [inSram]
    omega
  refine if_pos ?_
  rwa [hr, postOk_issued]

/-- A POST that its checks allow. -/
theorem postIssued_ok (h32 : off % 32 = 0) (hf : off + 32 ≤ 2 ^ 18) (hk : postOk s st ctx handle d = true) :
    postIssued (issued s st) st off ctx handle srcs dsts h eager soc d =
      if mortarOpen s (wytheOf st) ≥ 64 then stallOn (issued s st) st .collectives
      else readRanges (issued s st) st srcs [] fun s => postOpens s st ctx handle srcs dsts h eager soc d := by
  refine if_neg ?_
  rw [postOk_issued, hk, inSram, decide_eq_true hf]
  simp [h32]

theorem postIssued_opens (h32 : off % 32 = 0) (hf : off + 32 ≤ 2 ^ 18) (hk : postOk s st ctx handle d = true)
    (hm : mortarOpen s (wytheOf st) < 64) (hb : badIn s st srcs = none) :
    postIssued (issued s st) st off ctx handle srcs dsts h eager soc d =
      postOpens (issued s st) st ctx handle srcs dsts h eager soc d := by
  rw [postIssued_ok h32 hf hk, if_neg (Nat.not_le.2 hm)]
  exact readRanges_srcs_clean hb

theorem withMcast_only (s : State) (st : Nat) (srcs dsts : List (Nat × Nat)) (h : IHdr) (m : Mcast) :
    withMcast (issued s st) st srcs dsts h m =
      { s with stones := (withMcast (issued s st) st srcs dsts h m).stones, mcasts := s.mcasts ++ [m],
               mcastNext := (s.mcastNext + 1) % 2 ^ 32 } := by
  unfold withMcast takeSlot issued modStone setStone
  rfl

/-- The numbering of a group's collectives leaves its other entries. -/
theorem groupE_withSeq (hg : d.group < 256) (j : Nat) (hj : j < 256) (hn : j ≠ 9) :
    groupE (withSeq (issued s st) st ctx srcs dsts h d) ctx d.group j = groupE s ctx d.group j :=
  getC_setC_ne (fun he => hn (ekey_inj he (by omega) hj (by omega) (by decide)).2.2) _

/-- Settles O47: a commit is refused by its first check that fails, and a POST opens what its descriptor names once its
checks, its mortar and its reads allow. -/
theorem groupsAndPosts : Obligations.GroupsAndPosts := by
  unfold Obligations.GroupsAndPosts
  refine ⟨?_, ?_⟩
  · rintro s u q g c n ha hg rfl hc rfl
    refine ⟨fun h => ?_, fun hg' hb => refused_of_act rfl ha (actGroupCommit_busy hg' hc hb), fun hg' hb => ⟨fun hs ok => ?_, ?_, ?_⟩⟩
    · subst h
      exact refused_of_act rfl ha (actGroupCommit_readOnly q _)
    · refine refused_of_act rfl ha (actGroupCommit_shape hg' hc hb fun hk => ?_)
      obtain ⟨h1, h2, h3⟩ := hk
      rcases hs with h | h | h
      · omega
      · omega
      · exact h h3
    · intro h1 h2 h3
      exact ⟨refused_of_act rfl ha (actGroupCommit_unread hg' hc hb ⟨h1, h2, h3⟩),
        fun hr => refused_of_act rfl ha (actGroupCommit_missed hg' hc hb ⟨h1, h2, h3⟩ hr)⟩
    · intro l h1 h2 h3 hr hl hn hm
      have hg2 : g < 255 := by omega
      obtain ⟨h7, h8, h9, h6⟩ := getC_groupEntries (takeRequest s q) c l hg2
      refine ⟨_, done_of_act rfl ha (actGroupCommit_taken hg' hc hb ⟨h1, h2, h3⟩ hr hl hn hm), groupList_committedGroup _ _ _ _, ?_,
        ?_, ?_, ?_, committedGroup_only _ _ _ _⟩
      · rw [groupE_committedGroup _ _ hg2, h7]
        have hi : l.findIdx (· == pkgId (takeRequest s q)) < l.length := List.findIdx_lt_length_of_exists ⟨_, hm, by simp⟩
        rw [List.getElem?_eq_getElem hi]
        exact congrArg some (eq_of_beq (List.findIdx_getElem (w := hi)))
      · rw [groupE_committedGroup _ _ hg2, h8]
      · rw [groupE_committedGroup _ _ hg2, h9]
      · rw [groupE_committedGroup _ _ hg2, h6]
  · rintro s st h o p off ctx n rank seq d soc srcs dsts hp hoff hd hcop hown rfl rfl rfl hsrcs hdsts hi ho hsoc
    rw [← hcop] at hsrcs hdsts
    rw [exec_post hp, run_up (up_of_issues hi), post_issued hoff hd hcop hown hsrcs hdsts hi ho hsoc]
    refine ⟨fun hb => congrArg _ (postIssued_refused hb), fun h32 hf hk => ⟨fun hm => ?_, ?_, ?_, ?_⟩⟩
    · rw [postIssued_ok h32 hf hk, if_pos hm]
    · intro hm hb h6 hseq hlen
      subst hseq
      have hc6 : ¬d.cop = 6 := by rwa [hcop]
      have hgrp : d.group < 256 := by
        rw [hd]
        exact Nat.mod_lt _ (by decide)
      have hl : ¬(groupColls (issued s st) ctx d.group).length ≥ 8 := Nat.not_le.2 hlen
      rw [postIssued_opens h32 hf hk hm hb]
      unfold postOpens
      rw [if_neg hc6, if_neg hl]
      refine ⟨_, _, rfl, rfl, rfl, rfl, rfl, rfl, ?_, rfl, rfl, rfl, rfl, rfl, rfl, ?_⟩
      · exact groupE_withSeq hgrp 7 (by decide) (by decide)
      · exact congrArg (reservationOf d _ _ _) (groupE_withSeq hgrp 7 (by decide) (by decide))
    · intro hm hb h6 hfree
      have hc6 : d.cop = 6 := by rw [hcop, h6]
      have hfit : ¬decide (roundTiles d (collBytes d) ≤ retentionFree (issued s st)) = true := fun hd =>
        Nat.not_le.2 hfree (of_decide_eq_true hd)
      rw [postIssued_opens h32 hf hk hm hb]
      unfold postOpens
      rw [if_pos hc6, if_neg hfit]
      exact ⟨_, _, rfl, rfl, rfl, rfl, rfl, rfl, decide_eq_false (Nat.not_le.2 hfree), rfl, rfl, rfl, withMcast_only _ _ _ _ _ _⟩
    · intro hm hb h6 hfree
      have hc6 : d.cop = 6 := by rw [hcop, h6]
      have hfit : decide (roundTiles d (collBytes d) ≤ retentionFree (issued s st)) = true := decide_eq_true hfree
      rw [postIssued_opens h32 hf hk hm hb]
      unfold postOpens
      rw [if_pos hc6, if_pos hfit]
      exact ⟨_, _, rfl, rfl, rfl, rfl, rfl, decide_eq_true hfree, rfl, withMcast_only _ _ _ _ _ _⟩

end Sys2Proof.Machine
end

section
/-! PROOFS. The instructions of the EXPERT class that ask the tiers (04 R137, R151, R159; 03 R105 to R108), and the dictionary writes
of the dispatch chapters (03 R73, R94, R110; 05 R176). -/

-- As in the tests: proofs elaborated side by side exhaust memory in the joined text.
set_option Elab.async false

namespace Sys2Proof.Machine

variable {s t u : State} {st c n g a w i d : Nat} {h : IHdr} {o : Operands} {q : Req}

/-- An instruction of the EXPERT class that its stone issues goes on in the issued state. -/
theorem run_expert {fs : List (Nat × Nat)} {k : State → State} (hi : issues s st h [] [] = true) (ho : onlyFields fs o = true) :
    run s (fun s => issue s st (expertOk h fs o) [] [] k) = .next (k (issued s st)) :=
  run_issue hi (by rw [expertOk, headerOk_of_issues hi, ho]; rfl)

theorem owner_issued (s : State) (st : Nat) : (stoneOf (issued s st) st).owner = (stoneOf s st).owner := by
  rw [issued, stoneOf_modStone_self]

/-! ### FETCH and FLUSH (04 R137, R151) -/

/-- The object of a FETCH has a window. -/
def HasWindow (s : State) (c n : Nat) : Prop := (objOf s c n).valid = true ∧ (objOf s c n).mode ≠ 2

/-- FETCH of an object of its context. -/
theorem exec_fetch (hi : issues s st h [] [] = true) (hown : (stoneOf s st).owner = some c) (ho : onlyFields [(15, 0)] o = true)
    (hn : fld 15 0 o < objCount s c) : exec (.fetch st h o) s =
      .next (if (objOf s c (fld 15 0 o)).valid = false ∨ (objOf s c (fld 15 0 o)).mode = 2 then completeNow (issued s st) st h
        else if (millraceQ s (wytheOf (objOf s c (fld 15 0 o)).firstStone)).length ≥ 1024 ∧
            ¬ s.fetchQ.any (isFetchOf c (fld 15 0 o)) then stallOn (issued s st) st .fetchQueue
        else completeNow (raiseFetch (issued s st) c (fld 15 0 o) 3 (nextOrd (issued s st))) st h) := by
  have he : exec (.fetch st h o) s = execFetch st h o s := rfl
  rw [he, execFetch, run_expert hi ho]
  dsimp only
  rw [owner_issued, hown]
  exact congrArg _ (if_neg (Nat.not_le.2 hn))

/-- A request is in the queue once it is raised: as one of its own, or merged into the queued one, whose class does not rise. -/
theorem raiseFetch_queued (hroom : (millraceQ s (wytheOf (objOf s c n).firstStone)).length < 1024 ∨ s.fetchQ.any (isFetchOf c n) = true)
    (cls ord : Nat) :
    (raiseFetch s c n cls ord).fetchQ.any (fun f => f.ctx == c && f.obj == n && decide (f.cls ≤ cls)) = true := by
  unfold raiseFetch
  dsimp only
  split
  · next hq =>
    obtain ⟨f, hf, hfc⟩ := List.any_eq_true.1 hq
    refine List.any_eq_true.2 ⟨_, List.mem_map.2 ⟨f, hf, if_pos hfc⟩, ?_⟩
    simp only [isFetchOf] at hfc
    simp only [hfc, Nat.min_le_right, decide_true, Bool.and_self]
  · next hq =>
    rw [if_pos (hroom.resolve_right hq)]
    simp

theorem exec_flush (hi : issues s st h [] [] = true) (hown : (stoneOf s st).owner = some c) (ho : onlyFields [(15, 0)] o = true)
    (hn : fld 15 0 o < objCount s c) : exec (.flush st h o) s =
      .next (if (writeBack (issued s st) c (fld 15 0 o)).writebacks.contains (c, fld 15 0 o)
        then takeSlot (writeBack (issued s st) c (fld 15 0 o)) st 8 [(fld 15 0 o, 0)] [] h
        else completeNow (writeBack (issued s st) c (fld 15 0 o)) st h) := by
  have he : exec (.flush st h o) s = execFlush st h o s := rfl
  rw [he, execFlush, run_expert hi ho]
  dsimp only
  rw [owner_issued, hown]
  exact congrArg _ (if_neg (Nat.not_le.2 hn))

/-! ### KV_COMMIT, RETIRE and ACCEPT (04 R159; 03 R105, R108) -/

theorem regFld_issued (s : State) (st hi lo : Nat) (o : Operands) :
    regFld (issued s st) st hi lo o = (reg s st (fld hi lo o)).toNat := congrArg BitVec.toNat (reg_issued s st _)

/-- KV_COMMIT on a stream that the context has. -/
theorem exec_kvCommit (hi : issues s st h [] [] = true) (hown : (stoneOf s st).owner = some c)
    (ho : onlyFields [(111, 104)] o = true) (hw : w = bits 24 0 (reg s st (fld 111 108 o)).toNat)
    (hix : i = bits 15 0 (reg s st (fld 107 104 o)).toNat) (hlt : i < getC s c 0x4020 0x02)
    (hd : pondNat s (kvStreamAddr s c i) 16 = some d) (hv : kvValid d = true) :
    exec (.kvCommit st h o) s = .next (match kvAdvance (issued s st) c i w with
      | some t => completeNow t st h
      | none => completeNow (raise1 (issued s st) 1 0x16 0 st (some c) (instrAddr (issued s st) st)) st h) := by
  have he : exec (.kvCommit st h o) s = execKvCommit st h o s := rfl
  rw [he, execKvCommit, run_expert hi ho]
  dsimp only
  rw [owner_issued, hown, regFld_issued, regFld_issued, ← hw, ← hix]
  refine congrArg _ (if_neg ?_)
  rintro (hge | hbad)
  · exact Nat.not_le.2 hlt hge
  · have hp : pondNat (issued s st) (kvStreamAddr (issued s st) c i) 16 = some d := hd
    rw [Option.getD_some, hp] at hbad
    simp [hv] at hbad

theorem kvAdvance_refused (hd : pondNat s (kvStreamAddr s c i) 16 = some d) (hw : w < kvWatermark d ∨ 16777216 < w) :
    kvAdvance s c i w = none := by
  unfold kvAdvance
  rw [hd]
  exact if_pos hw

theorem exec_retire (hi : issues s st h [] [] = true) (hown : (stoneOf s st).owner = some c)
    (ho : onlyFields [(111, 108)] o = true) (hg : g = bits 15 0 (reg s st (fld 111 108 o)).toNat) :
    exec (.retire st h o) s = .next (match retireGen (issued s st) c g with
      | some t => completeNow t st h
      | none => stallOn (issued s st) st .retireBusy) := by
  have he : exec (.retire st h o) s = execRetire st h o s := rfl
  rw [he, execRetire, run_expert hi ho]
  dsimp only
  rw [owner_issued, hown, regFld_issued, ← hg]
  rfl

/-- The tokens of a generation above a token id are cancelled, once. -/
def withCancel (s : State) (c g a : Nat) : State :=
  { s with cancels := if s.cancels.contains (c, g, a) then s.cancels else s.cancels ++ [(c, g, a)] }

theorem exec_accept (hi : issues s st h [] [] = true) (hown : (stoneOf s st).owner = some c)
    (ho : onlyFields [(111, 104)] o = true) (hg : g = bits 15 0 (reg s st (fld 111 108 o)).toNat)
    (ha : a = (reg s st (fld 107 104 o)).toNat) :
    exec (.accept st h o) s = .next (completeNow (withCancel (issued s st) c g a) st h) := by
  have he : exec (.accept st h o) s = execAccept st h o s := rfl
  rw [he, execAccept, run_expert hi ho]
  dsimp only
  rw [owner_issued, hown, regFld_issued, regFld_issued, ← hg, ← ha]
  rfl

theorem mem_withCancel (s : State) (c g a : Nat) (x : Nat × Nat × Nat) :
    x ∈ (withCancel s c g a).cancels ↔ x ∈ s.cancels ∨ x = (c, g, a) := by
  have hc : (withCancel s c g a).cancels = if s.cancels.contains (c, g, a) then s.cancels else s.cancels ++ [(c, g, a)] := rfl
  rw [hc]
  split
  · next hm =>
    refine ⟨.inl, fun hx => hx.elim id ?_⟩
    rintro rfl
    exact List.contains_iff_mem.1 hm
  · simp

theorem isCancelled_of_mem {k : TokKey} (hm : (k.ctx, k.gen, a) ∈ s.cancels) (ha : a < k.tokenId) : isCancelled s k true = true := by
  unfold isCancelled
  rw [Bool.true_and]
  exact List.any_eq_true.2 ⟨_, hm, by simp [ha]⟩

/-! ### Dictionary writes (03 R73, R94, R110) -/

variable {b : List Replica} {e : Nat}

/-- A placement update under way: its entry in the list of updates. -/
def withUpdate (u : State) (c n e g : Nat) (b : List Replica) : State :=
  { u with pupdates := u.pupdates.filter (fun v => !(v.ctx == c && v.layer == n && v.expert == e)) ++
    [{ ctx := c, layer := n, expert := e, gen := g, block := b, old := heldBlock u c n e, answer := none,
       stored := false, effective := false }] }

/-- What a placement update names: its context, layer and expert, and the staged block. -/
structure Names (u : State) (q : Req) (c n e : Nat) (b : List Replica) : Prop where
  ctx : c = bits 63 56 q.value
  layer : n = bits 55 48 q.value
  expert : e = bits 47 32 q.value
  block : b = unpackBlock (toLE 64 (getE u 0x6014 0x01))

/-- An update of its expert is under way. -/
def updating (u : State) (c n e : Nat) : Bool :=
  u.pupdates.any (fun x => x.ctx == c && x.layer == n && x.expert == e && !x.effective)

/-- The block and its layer allow a placement update. -/
structure UpdateOk (u : State) (c n e : Nat) (b : List Replica) : Prop where
  scored : layerSet u c n 0x01 ≠ 0
  known : e < layerSet u c n 0x02
  block : blockOk b = true
  job : blockInJob u b = true
  static : staticOk u c n e b = true

theorem actPlacementUpdate_ok (hq : Names u q c n e b) (hk : UpdateOk u c n e b) : actPlacementUpdate q u =
    if updating u c n e then .refuse 0x0601 u
    else .later (if isFar (withUpdate u c n e (bits 31 16 q.value) b) (blockAddr u c n e)
      then unitRequests (withUpdate u c n e (bits 31 16 q.value) b) 3 0 (storeReqs (withUpdate u c n e (bits 31 16 q.value) b)
        (tableTag c n e) (blockAddr u c n e) (toLE 64 (getE u 0x6014 0x01)))
      else withUpdate u c n e (bits 31 16 q.value) b) := by
  obtain ⟨rfl, rfl, rfl, rfl⟩ := hq
  obtain ⟨h1, h2, h3, h4, h5⟩ := hk
  unfold actPlacementUpdate updating withUpdate
  refine (if_neg ?_).trans ?_
  · simp [h1, h2, h3, h4, h5]
  · rfl

theorem actPlacementUpdate_bad (hq : Names u q c n e b) (hk : layerSet u c n 0x01 = 0 ∨ layerSet u c n 0x02 ≤ e ∨ blockOk b = false) :
    actPlacementUpdate q u = .refuse 0x0302 u := by
  obtain ⟨rfl, rfl, rfl, rfl⟩ := hq
  refine if_pos ?_
  rcases hk with hk | hk | hk
  · exact .inl hk
  · exact .inr (.inl hk)
  · exact .inr (.inr (.inl hk))

/-- The settings of a layer are no counter of the request's server. -/
theorem layerSet_takeRequest (s : State) (q : Req) (c : Nat) {n j : Nat} (hn : n < 256) (hj : j < 256) :
    layerSet (takeRequest s q) c n j = layerSet s c n j := by
  have hk : ekey c (0x6100 + n) j ≠ ekey 0 0xA0F0 1 := fun he => by
    have hi := (ekey_inj he (by omega) hj (by decide) (by decide)).2.1
    omega
  have hcount : getC (count s 0xA0F0 1) c (0x6100 + n) j = getC s c (0x6100 + n) j := getC_setC_ne hk _
  unfold layerSet takeRequest
  split
  · rfl
  · dsimp only
    split
    · exact hcount
    · exact hcount

/-- The row has no read-only bits, or assigns no setting of a layer. -/
def plainLayer (r : Entry) : Bool := r.roBits == 0 || decide (r.idx + r.idxN ≤ 0x6100) || decide (0x6200 ≤ r.idx)

/-- The two rows that have read-only bits lie at other indices than the settings of the layers. -/
theorem plainLayer_entryRows : entryRows.all plainLayer = true := by
  unfold entryRows
  simp only [List.all_append, Bool.and_eq_true]
  refine ⟨⟨⟨⟨⟨⟨⟨⟨⟨⟨?_, ?_⟩, ?_⟩, ?_⟩, ?_⟩, ?_⟩, ?_⟩, ?_⟩, ?_⟩, ?_⟩, ?_⟩ <;> decide

theorem roBits_of_layer {j : Nat} {r : Entry} (hn : n < 256) (hf : findEntry (0x6100 + n) j = some r) : r.roBits = 0 := by
  unfold findEntry at hf
  have hr := List.all_eq_true.1 plainLayer_entryRows r (List.mem_of_find?_eq_some hf)
  have hcov := List.find?_some hf
  simp only [Entry.covers, Bool.and_eq_true, decide_eq_true_eq] at hcov
  simp only [plainLayer, Bool.or_eq_true, beq_iff_eq, decide_eq_true_eq] at hr
  omega

/-! ### The end of a placement store (03 R73) -/

/-- The oldest update of an expert whose store is out. -/
def storing (s : State) (c n e : Nat) : Option PUpdate :=
  s.pupdates.find? (fun u => u.ctx == c && u.layer == n && u.expert == e && !u.stored)

/-- How an update ends, by what its table's home answered. -/
def storeEnded (s : State) (c n e : Nat) (x : PUpdate) : Nat → State
  | 0 => endDeferred (resendStranded (setPlaced { s with pupdates := mapWhere s.pupdates (· == x) (fun u =>
      { u with stored := true, gen := if claimsBegun s c n x.gen then (x.gen + 1) % 65536 else x.gen }) } c n e x.block)
      c n e x.block) 0x6014 0x02 0
  | 4 => endDeferred { s with pupdates := s.pupdates.erase x } 0x6014 0x02 0x0602
  | _ => endDeferred { s with pupdates := s.pupdates.erase x } 0x6014 0x02 0x0302

theorem storeEnded_refused (s : State) (c n e : Nat) (x : PUpdate) {v : Nat} (h0 : v ≠ 0) (h4 : v ≠ 4) :
    storeEnded s c n e x v = endDeferred { s with pupdates := s.pupdates.erase x } 0x6014 0x02 0x0302 := by
  unfold storeEnded
  split
  · exact absurd rfl h0
  · exact absurd rfl h4
  · rfl

theorem exec_placementStore {x : PUpdate} (own : Nat) (h0 : s.resetLow = false) (hx : storing s c n e = some x)
    (hfar : isFar s (blockAddr s c n e) = true) :
    exec (.placementStoreComplete c n e own) s = .next ((x.answer.map (storeEnded s c n e x)).getD s) := by
  have he : exec (.placementStoreComplete c n e own) s = execPlacementStoreComplete c n e own s := rfl
  unfold storing at hx
  have hs : ∀ bs, storeStatus s x (blockAddr s c n e) own bs = x.answer.map (fun st => (st, s)) := fun bs => if_pos hfar
  rw [he, execPlacementStoreComplete, run_up h0, hx]
  dsimp only
  rw [hs]
  rcases x.answer with _ | _ | _ | _ | _ | _ | _ <;> rfl

theorem resendStranded_of_no_tokens (hc : s.confs = []) : resendStranded s c n e b = s := by
  unfold resendStranded
  rw [hc]
  rfl

theorem claimsBegun_of_no_tokens (hc : s.confs = []) : claimsBegun s c n g = false := by
  unfold claimsBegun
  rw [hc]
  rfl

/-- Settles O40: each instruction issues and goes on by the branches of its own operation; each write has the outcome of its
rule. -/
theorem expertInstructionsAndWrites : Obligations.ExpertInstructionsAndWrites := by
  unfold Obligations.ExpertInstructionsAndWrites
  refine ⟨?_, ?_⟩
  · rintro s st h o c u hi hown rfl
    refine ⟨?_, ?_, fun g ho hg => ?_, fun g a ho hg ha => ?_⟩
    · rintro n ho rfl hn
      rw [exec_fetch hi hown ho hn, exec_flush hi hown ho hn]
      refine ⟨fun hv hm hroom => ⟨congrArg _ ((if_neg ?_).trans (if_neg ?_)), raiseFetch_queued (s := issued s st) hroom 3 _⟩, fun hv hm hfull hnot => ?_,
        fun hno => congrArg _ (if_pos hno), fun hw => congrArg _ (if_neg (Bool.eq_false_iff.1 hw)), fun hw => congrArg _ (if_pos hw)⟩
      · simp [hv, hm]
      · rintro ⟨hlen, hq⟩
        exact hroom.elim (Nat.not_lt.2 hlen) hq
      · refine congrArg _ ((if_neg ?_).trans (if_pos ⟨hfull, Bool.eq_false_iff.1 hnot⟩))
        simp [hv, hm]
    · intro w i d ho hw hix hlt hd hv
      rw [exec_kvCommit hi hown ho hw hix hlt hd hv]
      refine ⟨fun t ht => by rw [ht], fun hbad => ?_⟩
      rw [kvAdvance_refused (s := issued s st) hd hbad]
      dsimp only
      rw [instrAddr, pc_issued]
      rfl
    · rw [exec_retire hi hown ho hg]
      exact ⟨fun t ht => by rw [ht], fun hn => by rw [hn]⟩
    · have hmem : (c, g, a) ∈ (withCancel (issued s st) c g a).cancels := (mem_withCancel _ _ _ _ _).2 (.inr rfl)
      refine ⟨_, exec_accept hi hown ho hg ha, hmem, rfl, fun x hx => ?_, ?_⟩
      · rw [mem_withCancel, or_iff_left hx]
        rfl
      · rintro k rfl rfl
        exact ⟨isCancelled_of_mem hmem, rfl⟩
  · rintro s u q rfl
    refine ⟨fun ha => ?_, fun ha => done_of_act rfl ha rfl, ?_, ?_, ?_⟩
    · have hact : ∀ r, retireGen (takeRequest s q) (bits 23 16 q.value) (bits 15 0 q.value) = r →
          actRetireGeneration q (takeRequest s q) = match r with
            | some t => .done t
            | none => .refuse 0x0601 (takeRequest s q) := by
        rintro r rfl
        rfl
      exact ⟨fun t ht => done_of_act rfl ha (hact _ ht), fun hn => refused_of_act rfl ha (hact _ hn)⟩
    · rintro c n e b a w ha hc hn he hb rfl rfl
      have hq : Names (takeRequest s q) q c n e b := ⟨hc, hn, he, hb⟩
      have hn2 : n < 256 := by
        rw [hn]
        exact Nat.mod_lt _ (by decide)
      rw [← layerSet_takeRequest s q c hn2 (by decide : 1 < 256), ← layerSet_takeRequest s q c hn2 (by decide : 2 < 256)]
      refine ⟨fun h1 h2 h3 h4 h5 hu => ?_, fun h1 h2 h3 h4 h5 hu => ?_, fun hbad => refused_of_act rfl ha (actPlacementUpdate_bad hq hbad)⟩
      · exact later_of_act rfl ha ((actPlacementUpdate_ok hq ⟨h1, h2, h3, h4, h5⟩).trans (if_neg (Bool.eq_false_iff.1 hu)))
      · exact refused_of_act rfl ha ((actPlacementUpdate_ok hq ⟨h1, h2, h3, h4, h5⟩).trans (if_pos hu))
    · intro c n e x status own h0 hx hfar
      rw [exec_placementStore own h0 hx hfar]
      refine ⟨fun ha => by rw [ha]; rfl, fun ha hc => ?_, fun ha => by rw [ha]; rfl, fun ha hz h4 => ?_⟩
      · rw [ha, Option.map_some, Option.getD_some]
        unfold storeEnded
        rw [claimsBegun_of_no_tokens hc, resendStranded_of_no_tokens]
        · rfl
        · exact hc
      · rw [ha, Option.map_some, Option.getD_some, storeEnded_refused _ _ _ _ _ hz h4]
    · rintro n c hn ha rfl
      have hact : actStore (0x6100 + n) 0x18 q (takeRequest s q) = .done (setC (takeRequest s q)
          (viewCtx (takeRequest s q) (0x6100 + n) 0x18 q) (0x6100 + n) 0x18 q.value) := by
        cases hf : findEntry (0x6100 + n) 0x18 with
        | none => simp [actStore, hf, mergeRo_zero]
        | some r => rw [actStore_of_entry hf, roBits_of_layer hn hf, mergeRo_zero]
      exact ⟨_, done_of_act rfl ha hact, getC_setC_self _ _ _ _, rfl, fun k i j hk => getC_setC_ne hk _⟩

end Sys2Proof.Machine
end

section
/-! PROOFS. RUN, the parts of a run, and RETURN (03 R96 to R104, 04 R153 to R158). -/

-- As in the tests: proofs elaborated side by side exhaust memory in the joined text.
set_option Elab.async false

namespace Sys2Proof.Machine

variable {s : State} {st c n first : Nat} {h : IHdr} {o : Operands} {r : RunSt}

/-! ### RUN and RETURN -/

theorem sramNat_issued (s : State) (st k a len : Nat) : sramNat (issued s st) k a len = sramNat s k a len := rfl


theorem exec_expertRun {stage table m len : Nat} {e : ERun} (hown : (stoneOf s st).owner = some c)
    (hstage : stage = (reg s st (fld 103 100 o)).toNat) (htable : table = (reg s st (fld 91 88 o)).toNat) (hm : m = fld 95 92 o + 1)
    (he : e = ({
        pc := (stoneOf s st).pc, layer := fld 111 104 o, stage := stage, block0 := bits 31 16 (reg s st (fld 99 96 o)).toNat, blocks := bits 15 0 (reg s st (fld 99 96 o)).toNat,
        maxBatch := m, table := table, signal := sigOf h } : ERun))
    (hlen : len = m * rowStride (sliceBlocks s c e.layer e)) (ho : onlyFields [(111, 88)] o = true) (h64 : stage % 64 = 0)
    (h16 : table % 16 = 0) (hs : stage + len ≤ 2 ^ 18) (ht : table + (16 + 16 * m) ≤ 2 ^ 18)
    (hi : issues s st h [] [(stage, len), (table, 16 + 16 * m)] = true) :
    exec (.expertRun st h o) s = .next (modStone (takeSlot (issued s st) st 6 [] [(stage, len), (table, 16 + 16 * m)] h) st
      (fun x => { x with eruns := x.eruns ++ [e] })) := by
  have hx : exec (.expertRun st h o) s = execExpertRun st h o s := rfl
  have hok : expertOk h [(111, 88)] o = true := by rw [expertOk, headerOk_of_issues hi, ho]; rfl
  subst hlen he hm htable hstage
  rw [hx, execExpertRun, run_up (up_of_issues hi)]
  dsimp only
  rw [hown]
  refine congrArg _ ((issue_up hi hok).trans (if_neg ?_))
  rintro (hb | hb | hb | hb)
  · exact hb h64
  · exact hb h16
  · exact absurd (decide_eq_true hs) (Bool.eq_false_iff.1 hb)
  · exact absurd (decide_eq_true ht) (Bool.eq_false_iff.1 hb)

theorem exec_ret {out table hd m row : Nat} (hout : out = (reg s st (fld 111 108 o)).toNat)
    (htable : table = (reg s st (fld 107 104 o)).toNat) (hhd : hd = sramNat s st table 16) (hm : m = bits 15 8 hd)
    (hown : (stoneOf s st).owner = some c)
    (hrow : row = layerSet s c (bits 55 48 hd) 0x03 * (if layerSet s c (bits 55 48 hd) 0x17 = 1 then 4 else 2))
    (ho : onlyFields [(111, 104)] o = true) (hs : out + m * row ≤ 2 ^ 18) (ht : table + (16 + 16 * m) ≤ 2 ^ 18)
    (hi : issues s st h [(out, m * row), (table, 16 + 16 * m)] [] = true)
    (hb : badIn s st [(out, m * row), (table, 16 + 16 * m)] = none) :
    exec (.ret st h o) s = .next (completeNow (forEach (issued s st)
      ((List.range m).map (fun i => (sramNat s st (table + 16 + 16 * i) 16, sramRead s st (out + i * row) row)))
      (fun t j => sendReturn t st c (layerSet s c (bits 55 48 hd) 0x17) (bit 5 hd) j.1 j.2)) st h) := by
  have hx : exec (.ret st h o) s = execRet st h o s := rfl
  have hok : expertOk h [(111, 104)] o = true := by rw [expertOk, headerOk_of_issues hi, ho]; rfl
  rw [hx, execRet, run_up (up_of_issues hi)]
  unfold regFld
  dsimp only
  rw [hown, ← hout, ← htable, ← hhd, ← hm, Option.getD_some, ← hrow, issue_up hi hok]
  have hin : ∀ {a k : Nat}, a + k ≤ 2 ^ 18 → ¬inSram a k = false := fun hk hf =>
    absurd (decide_eq_true hk) (Bool.eq_false_iff.1 hf)
  rw [if_neg (not_or.2 ⟨hin hs, hin ht⟩), readRanges_srcs_clean (s := issued s st) hb]
  simp only [sramNat_issued, sramRead_issued]

/-! ### The parts of a run (03 R98, R99; 04 R153 to R156) -/

/-- A part with a choice that the run has not taken is not over. -/
theorem advPart_of_untaken (hu : (untaken s r r.part).isEmpty = false) : advPart s r = r := by
  unfold advPart
  simp [hu]

theorem exec_runPartDue (h0 : s.resetLow = false) (hr : runOf s c n first = some r) (hd : r.due = false) (he : r.ended = false)
    (hp : r.part = 0) (hu : (untaken s r 0).any (·.arrived) = true) (ha : (runsOn s c n first).isEmpty = false) :
    exec (.runPartDue c n first) s = .next (if !weightsPresent s c n first
      then count (modRun s c n first (fun _ => { r with due := true, missed := !weightsPresent s c n first })) 0xA030 0x04
      else modRun s c n first (fun _ => { r with due := true, missed := !weightsPresent s c n first })) := by
  have hx : exec (.runPartDue c n first) s = execRunPartDue c n first s := rfl
  have hne : (untaken s r r.part).isEmpty = false := by
    rw [hp]
    cases hl : untaken s r 0 with
    | nil => simp [hl] at hu
    | cons a l => rfl
  rw [hx, execRunPartDue, run_up h0, hr]
  dsimp only
  rw [advPart_of_untaken hne]
  refine congrArg _ (if_neg ?_)
  simp [hd, he, hp, ha, hu]

/-- The grace of a missed part is over: what its layer's policy does. -/
theorem exec_missGrace (h0 : s.resetLow = false) (hr : runOf s c n first = some r) (hd : r.due = true) (hm : r.missed = true)
    (hg : r.graceOver = false) (hw : weightsPresent s c n first = false) :
    (layerSet s c n 0x18 = 0 → exec (.missGraceExpiry c n first) s = .next (modRun s c n first (fun r => { r with graceOver := true }))) ∧
    (layerSet s c n 0x18 = 1 → (replicaObj s c n first).any (fun p => p.2.shadow != 0xFFFF) = true →
      exec (.missGraceExpiry c n first) s = .next (count (modRun (modRun s c n first (fun r => { r with graceOver := true }))
        c n first (fun r => { r with shadow := true })) 0xA030 0x06)) := by
  have hx : exec (.missGraceExpiry c n first) s = execMissGraceExpiry c n first s := rfl
  have hn : ¬(r.due = false ∨ r.missed = false ∨ r.graceOver = true ∨ weightsPresent s c n first = true) := by simp [hd, hm, hg, hw]
  have hl : layerSet (modRun s c n first (fun r => { r with graceOver := true })) c n 0x18 = layerSet s c n 0x18 := rfl
  rw [hx, execMissGraceExpiry, run_up h0, hr]
  dsimp only
  rw [if_neg hn, hl]
  refine ⟨fun h18 => by rw [h18]; rfl, fun h18 hsh => ?_⟩
  rw [h18]
  exact congrArg _ (if_pos hsh)

/-- Settles O39: RUN and RETURN issue under their own checks; the events of a run act on its state. -/
theorem expertRuns : Obligations.ExpertRuns := by
  unfold Obligations.ExpertRuns
  refine fun s => ⟨?_, ?_, ?_, ?_, ?_, ?_⟩
  · rintro st h o stage slice table m c e len hstage rfl htable hm hown he hlen ho h64 h16 hs ht hi
    exact exec_expertRun hown hstage htable hm he hlen ho h64 h16 hs ht hi
  · rintro c n first r h0 hr hd he hp hu ha u b rfl rfl
    exact exec_runPartDue h0 hr hd he hp hu ha
  · rintro c n first r u h0 hr hd hm hg hw rfl
    exact exec_missGrace h0 hr hd hm hg hw
  · intro c n first r h0 hr hun hne
    have hx : exec (.carryWaitExpiry c n first) s = execCarryWaitExpiry c n first s := rfl
    rw [hx, execCarryWaitExpiry, run_up h0, hr]
    exact congrArg _ (if_neg (by rw [hun, hne]; decide))
  · rintro st cycles t h0 rfl hne
    have hx : exec (.expertRunComplete st cycles) s = execExpertRunComplete st cycles s := rfl
    rw [hx, execExpertRunComplete, run_up h0]
    exact congrArg _ (if_neg hne)
  · intro st h o out table hd n c row hout htable hhd hn hown hrow ho hs ht hi hb
    exact exec_ret hout htable hhd hn hown hrow ho hs ht hi hb

end Sys2Proof.Machine
end

section
/-! PROOFS. What reaches a confluence or a ledger (03 R84 to R92, R98 to R104; 04 R155): verdicts, token copies, returns and miss
notices. -/

-- As in the tests: proofs elaborated side by side exhaust memory in the joined text.
set_option Elab.async false

namespace Sys2Proof.Machine

variable {s t u : State} {k : TokKey} {c : Conf} {v : Choice} {x : Rank} {r : Nat}

/-! ### Tables of tokens -/

theorem mapWhere_congr {α : Type} {l : List α} {p : α → Bool} {f g : α → α} (h : ∀ a ∈ l, p a = true → f a = g a) :
    mapWhere l p f = mapWhere l p g := by
  refine List.map_congr_left fun a ha => ?_
  by_cases hp : p a = true
  · rw [if_pos hp, if_pos hp, h a ha hp]
  · rw [if_neg hp, if_neg hp]

theorem mapWhere_id {α : Type} {l : List α} {p : α → Bool} {f : α → α} (h : ∀ a ∈ l, p a = true → f a = a) : mapWhere l p f = l :=
  (mapWhere_congr h).trans (by simp [mapWhere])

/-- The one row of a filter, behind a change that keeps the row in it. -/
theorem filter_mapWhere_singleton {α : Type} {l : List α} {p : α → Bool} {f : α → α} {a : α} (h : l.filter p = [a])
    (hf : p (f a) = true) : (mapWhere l p f).filter p = [f a] := by
  induction l with
  | nil => simp at h
  | cons b l ih =>
    have hcons : mapWhere (b :: l) p f = (if p b then f b else b) :: mapWhere l p f := rfl
    rw [hcons]
    cases hb : p b with
    | false =>
      rw [List.filter_cons_of_neg (by simp [hb])] at h
      rw [if_neg Bool.false_ne_true, List.filter_cons_of_neg (by simp [hb]), ih h]
    | true =>
      rw [List.filter_cons_of_pos hb] at h
      obtain ⟨rfl, hl⟩ := List.cons.inj h
      have hnone : mapWhere l p f = l := mapWhere_id fun y hy hp => absurd (List.mem_filter.2 ⟨hy, hp⟩) (by simp [hl])
      rw [if_pos rfl, List.filter_cons_of_pos hf, hnone, hl]

theorem forEach_fixed {α : Type} {l : List α} {f : State → α → State} (h : ∀ a ∈ l, f s a = s) : forEach s l f = s := by
  unfold forEach
  induction l with
  | nil => rfl
  | cons a l ih =>
    rw [List.foldl_cons, h a List.mem_cons_self]
    exact ih fun b hb => h b (List.mem_cons_of_mem _ hb)

/-- The package has one token of the key. -/
def Only (s : State) (k : TokKey) (c : Conf) : Prop := s.confs.filter (fun f => f.key == k) = [c]

theorem Only.mem (h : Only s k c) {d : Conf} (hd : d ∈ s.confs) (hk : (d.key == k) = true) : d = c :=
  List.mem_singleton.1 (h ▸ List.mem_filter.2 ⟨hd, hk⟩)

theorem Only.key (h : Only s k c) : c.key = k := by
  have hm : c ∈ s.confs.filter (fun f => f.key == k) := by
    rw [show s.confs.filter (fun f => f.key == k) = [c] from h]
    exact List.mem_singleton_self c
  exact eq_of_beq (List.mem_filter.1 hm).2

theorem Only.conf (h : Only s k c) : confOf s k = some c := by
  unfold confOf
  rw [← List.head?_filter, h]
  rfl

theorem Only.modConf {f : Conf → Conf} (h : Only s k c) (hf : (f c).key = k) : Only (modConf s k f) k (f c) :=
  filter_mapWhere_singleton h (by simp [hf])

theorem modConf_congr {f g : Conf → Conf} (h : Only s k c) (hfg : f c = g c) : modConf s k f = modConf s k g := by
  unfold Machine.modConf
  rw [mapWhere_congr fun d hd hk => by rw [h.mem hd hk, hfg]]

theorem modConf_self {f : Conf → Conf} (h : Only s k c) (hf : f c = c) : modConf s k f = s := by
  unfold Machine.modConf
  rw [mapWhere_id fun d hd hk => by rw [h.mem hd hk, hf]]

theorem rankOf_setRank_ne {m : Nat} (h : m ≠ r) : rankOf (setRank c r x) m = rankOf c m := tget_tput_ne _ _ _ h _

/-! ### A verdict that leaves others out (03 R88) -/

/-- A rank whose verdict is out: its package's copy does not go, and the token's weights wait. -/
theorem formWeights_waits {w : Nat} (hr : r ∈ rankNums c) (hv : (rankOf c r).verdict = none) : formWeights w c = c :=
  if_pos (.inr (List.any_eq_true.2 ⟨r, hr, by simp [hv]⟩))

/-- Without a rank to add nothing is dropped: ranks are numbered from 1. -/
theorem dropBufs_none {f : Conf → Nat → Bool} (h : Only s k c) (hf : ∀ m, 0 < m → f c m = false) : dropBufs s k f = s := by
  have hrs : (rankNums c).filter (fun m => (rankOf c m).buf.isSome && f c m) = [] := by
    refine List.filter_eq_nil_iff.2 fun m hm => ?_
    obtain ⟨i, -, rfl⟩ := List.mem_map.1 hm
    simp [hf (i + 1) (Nat.succ_pos i)]
  unfold dropBufs
  rw [h.conf]
  dsimp only
  rw [hrs]
  exact modConf_self h rfl

theorem advance_waits (h : Only s k c) (hw : c.weights = none) (hd : c.done = false) (ha : c.added = 0) (hr : r ∈ rankNums c)
    (hv : (rankOf c r).verdict = none) : advance s k = s := by
  unfold advance
  rw [h.conf]
  dsimp only
  rw [if_neg (by simp [hd, ha]), formWeights_waits hr hv, hw, if_neg (by decide : ¬(none : Option (List (BitVec 32))).isSome = true), hw]
  have hs : modConf s k (fun _ => c) = s := modConf_self h rfl
  have hf : ∀ m, 0 < m → decide (m ≤ c.added) = false := fun m hm => by simp [ha]; omega
  rw [if_neg (by simp), hs, dropBufs_none h hf]

/-- The key of a choice. -/
def choiceKey (v : Choice) : TokKey := { ctx := v.ctx, layer := v.layer, gen := v.gen, tokenId := v.tokenId }

theorem takeVerdicts_waits {src : Nat} (h : Only s (choiceKey v) c) (hw : c.weights = none) (hd : c.done = false) (ha : c.added = 0)
    (hx : x = rankOf c v.rank) (hxv : x.verdict = none) (h7 : v.status ≠ 7) (hr : r ∈ ranksAt c src) (hne : r ≠ v.rank)
    (hv : (rankOf c r).verdict = none) : takeVerdicts s src [v] =
      freeGens (modConf s (choiceKey v) (fun f => setRank f v.rank { x with verdict := some v.status })) := by
  subst hx
  have hmod : modConf s (choiceKey v) (fun f => if (rankOf f v.rank).verdict.isNone
      then setRank f v.rank { rankOf f v.rank with verdict := some v.status } else f) =
      modConf s (choiceKey v) (fun f => setRank f v.rank { rankOf c v.rank with verdict := some v.status }) :=
    modConf_congr h (if_pos (by rw [hxv]; rfl))
  have hO : Only (modConf s (choiceKey v) (fun f => setRank f v.rank { rankOf c v.rank with verdict := some v.status }))
      (choiceKey v) (setRank c v.rank { rankOf c v.rank with verdict := some v.status }) := h.modConf h.key
  have hrank : rankOf (setRank c v.rank { rankOf c v.rank with verdict := some v.status }) r = rankOf c r := rankOf_setRank_ne hne
  have hnums : r ∈ rankNums c := (List.mem_filter.1 hr).1
  have hat : r ∈ ranksAt (setRank c v.rank { rankOf c v.rank with verdict := some v.status }) src :=
    List.mem_filter.2 ⟨hnums, by rw [hrank]; exact (List.mem_filter.1 hr).2⟩
  have hall : (ranksAt (setRank c v.rank { rankOf c v.rank with verdict := some v.status }) src).all (fun m =>
      (rankOf (setRank c v.rank { rankOf c v.rank with verdict := some v.status }) m).verdict.isSome) = false :=
    List.all_eq_false.2 ⟨r, hat, by rw [hrank, hv]; decide⟩
  have hadv := advance_waits hO hw hd ha hnums (by rw [hrank, hv])
  have hkeys : ([v].map choiceKey).dedup = [choiceKey v] := rfl
  unfold takeVerdicts
  change freeGens (forEach (forEach (forEach s [v] (fun t c => if c.status = 7 then strandRank t (choiceKey c) c.rank
    else modConf t (choiceKey c) (fun f => if (rankOf f c.rank).verdict.isNone
      then setRank f c.rank { rankOf f c.rank with verdict := some c.status } else f)))
    ((([v].map choiceKey).dedup).filter _) _) (([v].map choiceKey).dedup) advance) = _
  rw [forEach_singleton, if_neg h7, hkeys, hmod]
  refine congrArg freeGens ((congrArg (fun t => forEach t [choiceKey v] advance) (forEach_fixed fun m hm => ?_)).trans hadv)
  obtain rfl : m = choiceKey v := List.mem_singleton.1 (List.mem_filter.1 hm).1
  rw [hO.conf]
  exact if_neg (Bool.eq_false_iff.1 hall)

/-! ### Token copies (03 R90, 04 R155) -/

variable {d : TokenDesc} {src : Nat} {pay : List Byte}

theorem exec_tokenCopy (h0 : s.resetLow = false) : exec (.tokenCopy src d pay) s =
    .next (if d.resend && d.alternate && !weightsPresent s d.ctx d.layer d.targetStone
      then sendChoices s src 4 2 0 ((resentEntries s src d).map (·.claim.choice)) else acceptCopy s src d pay) := by
  have he : exec (.tokenCopy src d pay) s = execTokenCopy src d pay s := rfl
  rw [he, execTokenCopy, run_up h0]

theorem exec_tokenCopy_fresh (h0 : s.resetLow = false) (hd : d.resend = false) :
    exec (.tokenCopy src d pay) s = .next (acceptCopy s src d pay) := by
  rw [exec_tokenCopy h0, hd]
  rfl

/-- A copy that no queued choice waits for has no bay to go to. -/
theorem copyBay_none (hd : d.resend = false) (hq : s.admitted.any (matchQueued d) = false) : copyBay s d = none := by
  have hnil : s.admitted.filter (matchQueued d) = [] :=
    List.filter_eq_nil_iff.2 fun a ha => List.any_eq_false.1 hq a ha
  unfold copyBay
  rw [if_neg (by simp [hd]), hnil]
  rfl

theorem acceptCopy_none (hb : copyBay s d = none) : acceptCopy s src d pay =
    if s.admitted.any (matchSpilled d) then placeCopy s none src d pay else count s 0xA021 0x08 := by
  unfold acceptCopy
  rw [hb]

theorem acceptCopy_buffered {bay b : Nat} (hb : copyBay s d = some bay)
    (ht : takeBuffer s bay 0 pay.length (fanCount d) (.copy src d pay) = (u, some b)) :
    acceptCopy s src d pay = placeCopy u (some b) src d pay := by
  unfold acceptCopy
  rw [hb]
  dsimp only
  rw [ht]

/-! ### Returns (03 R98 to R104) -/

variable {h : RetHdr}

/-- The rank that a return is for, where the token is at the lead router of its origin. -/
def retRank (s : State) (h : RetHdr) : Rank :=
  ((confOf s (retKey h)).map (fun c => if c.bay = bayOf h.originStone then rankOf c h.rank else Rank.initial)).getD Rank.initial

theorem exec_returnPacket (h0 : s.resetLow = false) : exec (.returnPacket h pay) s = .next (takeReturn s h pay) := by
  have he : exec (.returnPacket h pay) s = execReturnPacket h pay s := rfl
  rw [he, execReturnPacket, run_up h0]

theorem dropReturn_settled (hx : rankOutstanding (retRank s h) = false) :
    dropReturn s h = if cdiv (returnBytes s h) 8192 ≤ h.segment + 1 then count s 0xA021 0x08 else s := by
  unfold retRank at hx
  unfold dropReturn
  dsimp only
  rw [if_neg (Bool.eq_false_iff.1 hx)]

/-- The only segment of a return that its rank waited for. -/
theorem dropReturn_last (hx : rankOutstanding (retRank s h) = true) (hbuf : (retRank s h).buf = none)
    (hsegs : (retRank s h).segs = []) (hn : cdiv (returnBytes s h) 8192 ≤ 1) : dropReturn s h =
      freeGens (count (modConf s (retKey h) (fun c => setRank c h.rank
        { retRank s h with segs := [(h.segment, [])], buf := none, lost := true })) 0xA021 0x08) := by
  unfold retRank at hx hbuf hsegs ⊢
  unfold dropReturn
  dsimp only
  rw [if_pos hx, hbuf, hsegs]
  exact if_pos (decide_eq_true hn) |>.trans (by simp [hn])

theorem takeReturn_wanted (hw : returnUnwanted s h = false) (hc : confOf s (retKey h) = some c) : takeReturn s h pay =
    match (rankOf c h.rank).buf with
    | some b => placeReturn s b.toNat h pay
    | none => match takeBuffer s c.bay 1 (returnBytes s h) 1 (.ret h pay) with
      | (s, some b) => placeReturn s b h pay
      | (s, none) => s := by
  unfold takeReturn
  rw [if_neg (Bool.eq_false_iff.1 hw), hc] <;> rfl

theorem takeReturn_placed {b : BitVec 32} (hw : returnUnwanted s h = false) (hc : confOf s (retKey h) = some c)
    (hb : (rankOf c h.rank).buf = some b) : takeReturn s h pay = placeReturn s b.toNat h pay := by
  rw [takeReturn_wanted hw hc, hb]

theorem takeReturn_buffered {b : Nat} (hw : returnUnwanted s h = false) (hc : confOf s (retKey h) = some c)
    (hb : (rankOf c h.rank).buf = none) (ht : takeBuffer s c.bay 1 (returnBytes s h) 1 (.ret h pay) = (u, some b)) :
    takeReturn s h pay = placeReturn u b h pay := by
  rw [takeReturn_wanted hw hc, hb]
  dsimp only
  rw [ht]

/-! ### Miss notices and the wait for a return (04 R155, 03 R103) -/

theorem exec_missNotice (h0 : s.resetLow = false) (b : Bool) : exec (.missNotice k r b) s = .next (takeMiss s k r) := by
  have he : exec (.missNotice k r b) s = execMissNotice k r b s := rfl
  rw [he, execMissNotice, run_up h0]

theorem takeMiss_ignored (hn : ((confOf s k).any (fun c => isDelivered (rankOf c r) && !(rankOf c r).complete)) = false) :
    takeMiss s k r = s := by
  unfold takeMiss
  cases hc : confOf s k with
  | none => rfl
  | some c =>
    rw [hc] at hn
    exact if_neg (Bool.eq_false_iff.1 hn)

theorem takeMiss_exhausted (hc : confOf s k = some c) (hd : isDelivered (rankOf c r) = true) (hn : (rankOf c r).complete = false)
    (ha : c.alternates = []) : takeMiss s k r = freeGens (exhaustRank s k r) := by
  have ht : tryAlternates k r 16 s = exhaustRank s k r := by
    unfold tryAlternates
    rw [hc]
    dsimp only
    rw [ha]
  unfold takeMiss
  rw [hc]
  exact (if_pos (by rw [hd, hn]; rfl)).trans (congrArg freeGens ht)

theorem exec_returnTimeout (h0 : s.resetLow = false) (hc : confOf s k = some c) (ho : rankOutstanding (rankOf c r) = true)
    (hd : c.done = false) (ha : c.added ≤ c.choices.length)
    (hu : u = modConf s k (fun c => setRank c r { rankOf c r with closed := true })) :
    exec (.returnTimeoutExpiry k r) s = .next (freeGens (advance (modConf
      (raise (count u 0xA021 0x09) [mkFault 1 0x15 2 c.bay (some k.ctx) k.tokenId]) k (fun c => { c with timedOut := true })) k)) := by
  have he : exec (.returnTimeoutExpiry k r) s = execReturnTimeoutExpiry k r s := rfl
  subst hu
  rw [he, execReturnTimeoutExpiry, run_up h0, hc]
  dsimp only
  rw [if_neg (by simp [ho]), if_neg (by simp [hd, ha])]
  rfl

/-- Settles O38: each arrival has its cases; a verdict that is not its token's last changes its rank alone. -/
theorem confluenceEvents : Obligations.ConfluenceEvents := by
  unfold Obligations.ConfluenceEvents
  refine fun s h0 => ⟨fun src cs => ?_, ?_, fun src d pay => ⟨fun hor => ?_, fun hr ha hw => ?_, fun hd hn => ?_, fun hd hq hs => ?_,
    fun bay b u hd hb ht => ?_⟩, ?_, fun k r b => exec_missNotice h0 b, fun k r b hn => ?_, fun k r b c hc hd hn ha => ?_,
    fun k r c u hc ho hd ha hu => exec_returnTimeout h0 hc ho hd ha hu⟩
  · have he : exec (.verdictBundle src cs) s = execVerdictBundle src cs s := rfl
    rw [he, execVerdictBundle, run_up h0]
  · rintro src v k c x r rfl hO hw hd ha hx hxv h7 hr hne hv
    have he : exec (.verdictBundle src [v]) s = execVerdictBundle src [v] s := rfl
    rw [he, execVerdictBundle, run_up h0]
    exact congrArg _ (takeVerdicts_waits hO hw hd ha hx hxv h7 hr hne hv)
  · rw [exec_tokenCopy h0, if_neg]
    rcases hor with h | h | h <;> simp [h]
  · rw [exec_tokenCopy h0, hr, ha, hw]
    rfl
  · have hq : s.admitted.any (matchQueued d) = false := by
      simp only [List.any_eq_false, Bool.or_eq_true, not_or] at hn ⊢
      exact fun a ha => (hn a ha).1
    have hs : s.admitted.any (matchSpilled d) = false := by
      simp only [List.any_eq_false, Bool.or_eq_true, not_or] at hn ⊢
      exact fun a ha => (hn a ha).2
    rw [exec_tokenCopy_fresh h0 hd, acceptCopy_none (copyBay_none hd hq), if_neg (Bool.eq_false_iff.1 hs)]
  · rw [exec_tokenCopy_fresh h0 hd, acceptCopy_none (copyBay_none hd hq), if_pos hs]
  · rw [exec_tokenCopy_fresh h0 hd, acceptCopy_buffered hb ht]
  · rintro h pay need x rfl rfl
    rw [exec_returnPacket h0]
    refine ⟨fun hu ho => ?_, fun hu ho hb hs hn => ?_, fun c b hw hc hb => ?_, fun c b u hw hc hb ht => ?_⟩
    · exact congrArg _ ((if_pos hu).trans (dropReturn_settled ho))
    · exact congrArg _ ((if_pos hu).trans (dropReturn_last ho hb hs hn))
    · rw [takeReturn_placed hw hc hb]
    · rw [takeReturn_buffered hw hc hb ht]
  · rw [exec_missNotice h0, takeMiss_ignored hn]
  · rw [exec_missNotice h0, takeMiss_exhausted hc hd hn ha]

end Sys2Proof.Machine
end

section
/-! PROOFS. Claims, the admission barrier and the two passes of an admission (03 R76 to R83). -/

-- As in the tests: proofs elaborated side by side exhaust memory in the joined text.
set_option Elab.async false

namespace Sys2Proof.Machine

variable {s t : State} {c n g : Nat} {x : Claim} {cs : List Claim}

/-! ### Claims (03 R76, R77) -/

/-- Claims add to the ledger's list, and requests of the millraces. -/
def OnlyClaims (s t : State) (l : List Claim) : Prop :=
  ∃ q h, t = { s with claims := s.claims ++ l, fetchQ := q, fetchHeld := h }

theorem raiseFetch_only (s : State) (c obj cls ord : Nat) : ∃ q h, raiseFetch s c obj cls ord = { s with fetchQ := q, fetchHeld := h } := by
  unfold raiseFetch
  dsimp only
  split
  · exact ⟨_, _, rfl⟩
  · split
    · exact ⟨_, _, rfl⟩
    · exact ⟨_, _, rfl⟩

/-- One claim, as `takeClaims` takes it. -/
def takeClaim (ord : Nat) (t : State) (x : Claim) : State :=
  let c := x.choice
  let first := !(t.claims.any (fun y => isClaimOf c.ctx c.layer c.gen y && y.rep == x.rep))
  let t := { t with claims := t.claims ++ [x] }
  if first ∧ layerSet t c.ctx c.layer 0x1B = 1 then
    match replicaObj t c.ctx c.layer x.rep.firstStone with
    | some (n, _) => raiseFetch t c.ctx n (if c.spec then 2 else 1) ord
    | none => t
  else t

theorem takeClaim_only (ord : Nat) (t : State) (x : Claim) : OnlyClaims t (takeClaim ord t x) [x] := by
  unfold takeClaim
  dsimp only
  split
  · split
    · next m _ _ =>
      obtain ⟨q, h, he⟩ := raiseFetch_only { t with claims := t.claims ++ [x] } x.choice.ctx m (if x.choice.spec then 2 else 1) ord
      exact ⟨q, h, he⟩
    · exact ⟨_, _, rfl⟩
  · exact ⟨_, _, rfl⟩

theorem forEach_takeClaim_only (ord : Nat) (l : List Claim) (s : State) : OnlyClaims s (forEach s l (takeClaim ord)) l := by
  unfold forEach
  induction l generalizing s with
  | nil => exact ⟨s.fetchQ, s.fetchHeld, by rw [List.append_nil, List.foldl_nil]⟩
  | cons x l ih =>
    obtain ⟨q, h, he⟩ := takeClaim_only ord s x
    obtain ⟨q', h', he'⟩ := ih (takeClaim ord s x)
    refine ⟨q', h', ?_⟩
    rw [List.foldl_cons, he', he]
    simp

theorem takeClaims_only (hl : ∀ y ∈ cs, barrierEnded s y.choice.ctx y.choice.layer y.choice.gen (· != 0) = false) :
    OnlyClaims s (takeClaims s cs) cs := by
  have hall : cs.filter (fun x => !barrierEnded s x.choice.ctx x.choice.layer x.choice.gen (· != 0)) = cs :=
    List.filter_eq_self.2 fun y hy => by rw [hl y hy]; rfl
  have he : takeClaims s cs = forEach s (cs.filter (fun x => !barrierEnded s x.choice.ctx x.choice.layer x.choice.gen (· != 0)))
      (takeClaim (nextOrd s)) := rfl
  rw [he, hall]
  exact forEach_takeClaim_only _ cs s

/-! ### The barrier (03 R77, R78) -/

/-- The barriers of a use of a generation. -/
def barrierOf (c n g : Nat) (b : Barrier) : Bool := b.ctx == c && b.layer == n && b.gen == g

/-- The package's place in the barriers once it has joined. -/
def withBarrier (s : State) (c n g : Nat) : State :=
  { s with barriers := s.barriers.filter (fun x => !(x.ctx == c && x.layer == n && x.gen == g)) ++
    [{ ctx := c, layer := n, gen := g, joined := true, result := none, fencedAt := [], ended := false }] }

/-- The collective of a barrier at this member. -/
def barrierColl (s : State) (c n g : Nat) : Coll :=
  mkColl s c 0 { parseColl 0 with cop := 7, group := 255 } (barrierKey c n g).seq
    ((barrierKey c n g).seq % 2 ^ 24 + c % 256 * 2 ^ 24) 0 0 none false false

theorem exec_barrierJoin (h0 : s.resetLow = false) (hs : claimsSent s c n g = true) (hg : groupE s c 255 6 = 1)
    (hb : s.barriers.any (fun b => b.ctx == c && b.layer == n && b.gen == g && (b.joined || b.result.isSome)) = false) :
    exec (.admissionBarrierJoin c n g) s = .next (openColl (withBarrier s c n g) (barrierColl s c n g)) := by
  have he : exec (.admissionBarrierJoin c n g) s = execAdmissionBarrierJoin c n g s := rfl
  have hnone : ∀ b ∈ s.barriers, barrierOf c n g b = true → b.joined = false ∧ b.result = none := fun b hm hk => by
    have hor : ¬(barrierOf c n g b && (b.joined || b.result.isSome)) = true := List.any_eq_false.1 hb b hm
    rw [hk] at hor
    simpa using hor
  have hopen : s.barriers.any (fun b => b.ctx == c && b.layer == n && b.gen == g && !b.ended && (b.joined || b.result.isSome)) = false := by
    refine List.any_eq_false.2 fun b hm hk => ?_
    simp only [Bool.and_eq_true] at hk
    obtain ⟨⟨hk, -⟩, hj⟩ := hk
    obtain ⟨h1, h2⟩ := hnone b hm (by simpa [barrierOf] using hk)
    rw [h1, h2] at hj
    exact absurd hj (by decide)
  have hended : barrierEnded s c n g (fun _ => true) = false := by
    have hany : s.barriers.any (fun b => b.ctx == c && b.layer == n && b.gen == g && b.ended && b.result.any (fun _ => true)) = false := by
      refine List.any_eq_false.2 fun b hm hk => ?_
      simp only [Bool.and_eq_true] at hk
      obtain ⟨⟨hk, -⟩, hj⟩ := hk
      rw [(hnone b hm (by simpa [barrierOf] using hk)).2] at hj
      exact absurd hj (by decide)
    unfold barrierEnded
    rw [hany]
    rfl
  rw [he, execAdmissionBarrierJoin, run_up h0, if_neg (by rw [hs, hg, hopen, hended]; decide)]
  rfl

/-! ### The ledgers decide (03 R78) -/

theorem exec_admission (h0 : s.resetLow = false) :
    exec (.admission c n g) s = .next (if barrierOver s c n g 0 then admitChoices s c n g else s) := by
  have he : exec (.admission c n g) s = execAdmission c n g s := rfl
  rw [he, execAdmission, run_up h0]

/-- What the ledgers, the generations and the waiting tokens hold. -/
def SameLedgers (s t : State) : Prop := t.claims = s.claims ∧ t.gens = s.gens ∧ t.toks = s.toks ∧ t.admitted = s.admitted

theorem SameLedgers.refl (s : State) : SameLedgers s s := ⟨rfl, rfl, rfl, rfl⟩

theorem SameLedgers.trans {u : State} (h : SameLedgers s t) (k : SameLedgers t u) : SameLedgers s u := by
  obtain ⟨h1, h2, h3, h4⟩ := h
  obtain ⟨k1, k2, k3, k4⟩ := k
  exact ⟨k1.trans h1, k2.trans h2, k3.trans h3, k4.trans h4⟩

theorem SameLedgers.forEach {α : Type} {f : State → α → State} (hf : ∀ t a, SameLedgers t (f t a)) (l : List α) (s : State) :
    SameLedgers s (Machine.forEach s l f) := by
  unfold Machine.forEach
  induction l generalizing s with
  | nil => exact .refl s
  | cons a l ih => exact (hf s a).trans (ih _)

theorem SameLedgers.of_settles (h : Settles s t) : SameLedgers s t := by
  rw [h.1]
  exact ⟨rfl, rfl, rfl, rfl⟩

theorem sameLedgers_stopLate (s : State) (st : Nat) : SameLedgers s (stopLate s st) := by
  unfold stopLate
  split
  · exact SameLedgers.trans (t := modStone s st _) ⟨rfl, rfl, rfl, rfl⟩ (.of_settles (settles_stopCtx _ _))
  · exact .refl s

theorem sameLedgers_windowAfter (s : State) (c layer first : Nat) : SameLedgers s (windowAfter s c layer first) := by
  unfold windowAfter
  split
  · exact ⟨rfl, rfl, rfl, rfl⟩
  · exact .refl s

/-- The claims of an aborted admission are gone, its barrier is over, and its generation is forced to retire. -/
def withoutClaims (s : State) (c n g : Nat) : State :=
  { s with
    claims := s.claims.filter (fun x => !isClaimOf c n g x),
    bundles := s.bundles.filter (fun b => !(b.ctx == c && b.layer == n && b.gen == g)),
    barriers := mapWhere s.barriers (fun b => b.ctx == c && b.layer == n && b.gen == g) (fun b => { b with ended := true }),
    gens := mapWhere s.gens (fun x => x.ctx == c && x.gen == g) (fun x => { x with forced := true }) }

theorem exec_admissionAbort {code : Nat} (h0 : s.resetLow = false) (hc : code = 0x0701 ∨ code = 0x0704)
    (hb : barrierOver s c n g code = true) :
    ∃ u, exec (.admissionAbort c n g code) s = .next (raise u [mkFault 1 0x14 2 0 (some c) code]) ∧
      SameLedgers (withoutClaims s c n g) u := by
  have he : exec (.admissionAbort c n g code) s = execAdmissionAbort c n g code s := rfl
  have hn : ¬(barrierOver s c n g code = false ∨ (code ≠ 0x0701 ∧ code ≠ 0x0704)) := by
    rw [hb]
    rcases hc with rfl | rfl <;> decide
  rw [he, execAdmissionAbort, run_up h0, if_neg hn]
  refine ⟨_, rfl, ?_⟩
  exact (SameLedgers.forEach (fun t (x : Claim) => sameLedgers_windowAfter t c n x.rep.firstStone) _ (withoutClaims s c n g)).trans
    (.forEach sameLedgers_stopLate _ _)

theorem forced_of_mem {l : List Gen} {y : Gen} (hy : y ∈ mapWhere l (fun x => x.ctx == c && x.gen == g) (fun x => { x with forced := true }))
    (hc : y.ctx = c) (hg : y.gen = g) : y.forced = true := by
  obtain ⟨z, -, rfl⟩ := List.mem_map.1 hy
  split
  · rfl
  · next h =>
    rw [if_neg h] at hc hg
    exact absurd (by simp [hc, hg]) h

/-! ### The first pass (03 R80, R81) -/

variable {fenced : List Nat} {cap slack free : Nat} {used left : Tbl Nat} {l : List Adm} {y : Adm}

/-- The replica of a choice in an admission. -/
def admKey (y : Adm) : Nat := repKey y.a.claim.choice

/-- What the first pass may decide about the choice at its head. -/
structure Decided (fenced : List Nat) (cap : Nat) (used : Tbl Nat) (free : Nat) (y : Adm) (m : Nat) : Prop where
  carried : y.carried = true → m = 0 ∨ m = 1 ∨ m = 7
  idle : y.carried = true → y.a.ran = false → (m = 7 ↔ repAvailable fenced y.a.claim.rep = false ∨ y.a.claim.choice.status = 7)
  fresh : y.carried = false → m = 0 ∨ m = 1 ∨ m = 4 ∨ m = 5 ∨ m = 6
  spec : y.carried = false → y.a.claim.choice.spec = true → m ≠ 1 ∧ m ≠ 4
  dropped : y.carried = false → (m = 6 ↔ repAvailable fenced y.a.claim.rep = false)
  room : m = 0 → tget 0 used (admKey y) < cap
  slot : y.carried = false → m = 1 → 0 < free

/-- The first pass decides about its head, and goes on with what is left of the replica's capacity and of the slots. -/
theorem admitPass_step (fenced : List Nat) (cap : Nat) (y : Adm) (l : List Adm) (used : Tbl Nat) (free : Nat) :
    ∃ m, Decided fenced cap used free y m ∧ admitPass fenced cap (y :: l) used free = { y with out := m } ::
      admitPass fenced cap l (if m = 0 then tput 0 used (admKey y) (tget 0 used (admKey y) + 1) else used)
        (if y.carried = false ∧ m = 1 then free - 1 else free) := by
  rw [admitPass]
  cases hc : y.carried with
  | true =>
    rw [if_pos rfl]
    split
    · next h =>
      refine ⟨7, ⟨by simp, fun _ _ => ?_, by simp [hc], by simp [hc], by simp [hc], by simp, by simp⟩, by simp⟩
      simp only [Bool.and_eq_true, Bool.or_eq_true, Bool.not_eq_true', beq_iff_eq] at h
      exact ⟨fun _ => h.1, fun _ => rfl⟩
    · next h =>
      have hidle : y.a.ran = false → ¬(repAvailable fenced y.a.claim.rep = false ∨ y.a.claim.choice.status = 7) := fun hr hn => by
        refine h ?_
        rw [hr]
        rcases hn with hn | hn <;> simp [hn]
      split
      · next hu =>
        exact ⟨0, ⟨by simp, fun _ hr => iff_of_false (by decide) (hidle hr), by simp [hc], by simp [hc], by simp [hc],
          fun _ => hu, by simp⟩, by simp [admKey]⟩
      · exact ⟨1, ⟨by simp, fun _ hr => iff_of_false (by decide) (hidle hr), by simp [hc], by simp [hc], by simp [hc],
          by simp, by simp [hc]⟩, by simp⟩
  | false =>
    rw [if_neg Bool.false_ne_true]
    cases ha : repAvailable fenced y.a.claim.rep with
    | false => exact ⟨6, ⟨by simp [hc], by simp [hc], by simp, by simp, by simp [ha], by simp, by simp⟩, by simp⟩
    | true =>
      rw [if_neg (by decide)]
      split
      · next hu => exact ⟨0, ⟨by simp [hc], by simp [hc], by simp, by simp, by simp [ha], fun _ => hu, by simp⟩, by simp [admKey]⟩
      · split
        · exact ⟨5, ⟨by simp [hc], by simp [hc], by simp, by simp, by simp [ha], by simp, by simp⟩, by simp⟩
        · next hs =>
          split
          · next hf =>
            exact ⟨1, ⟨by simp [hc], by simp [hc], by simp, fun _ h => absurd h hs, by simp [ha], by simp, fun _ _ => hf⟩, by simp⟩
          · exact ⟨4, ⟨by simp [hc], by simp [hc], by simp, fun _ h => absurd h hs, by simp [ha], by simp, by simp⟩, by simp⟩

/-- Every choice that the first pass answers was decided about as its head. -/
theorem decided_of_mem {x : Adm} (hx : x ∈ admitPass fenced cap l used free) :
    ∃ used free, Decided fenced cap used free x x.out := by
  induction l generalizing used free with
  | nil => cases hx
  | cons y l ih =>
    obtain ⟨m, hm, he⟩ := admitPass_step fenced cap y l used free
    rw [he] at hx
    rcases List.mem_cons.1 hx with rfl | hx
    · obtain ⟨h1, h2, h3, h4, h5, h6, h7⟩ := hm
      exact ⟨used, free, h1, h2, h3, h4, h5, h6, h7⟩
    · exact ih hx

theorem admitPass_choices (l : List Adm) (used : Tbl Nat) (free : Nat) :
    (admitPass fenced cap l used free).map (fun x => (x.a, x.carried)) = l.map (fun x => (x.a, x.carried)) := by
  induction l generalizing used free with
  | nil => rfl
  | cons y l ih =>
    obtain ⟨m, -, he⟩ := admitPass_step fenced cap y l used free
    rw [he, List.map_cons, ih, List.map_cons]

/-- No replica runs more than what is left of its capacity. -/
theorem admitPass_capacity (k : Nat) (l : List Adm) (used : Tbl Nat) (free : Nat) :
    ((admitPass fenced cap l used free).filter (fun x => x.out == 0 && admKey x == k)).length ≤ cap - tget 0 used k := by
  induction l generalizing used free with
  | nil => exact Nat.zero_le _
  | cons y l ih =>
    obtain ⟨m, hm, he⟩ := admitPass_step fenced cap y l used free
    have hroom := hm.room
    rw [he]
    by_cases hk : m = 0 ∧ admKey y = k
    · obtain ⟨rfl, rfl⟩ := hk
      have hrest := ih (tput 0 used (admKey y) (tget 0 used (admKey y) + 1)) (if y.carried = false ∧ 0 = 1 then free - 1 else free)
      rw [tget_tput_self] at hrest
      have hlt := hroom rfl
      rw [List.filter_cons_of_pos (by simp [admKey]), List.length_cons, if_pos rfl]
      omega
    · have hhead : ¬(m == 0 && admKey { y with out := m } == k) = true := by
        simpa [admKey] using hk
      rw [List.filter_cons_of_neg (p := fun x : Adm => x.out == 0 && admKey x == k) hhead]
      refine (ih _ _).trans (le_of_eq ?_)
      split
      · next h0 => rw [tget_tput_ne _ _ _ (fun h => hk ⟨h0, h.symm⟩)]
      · rfl

/-- No more new choices spill than slots are free. -/
theorem admitPass_slots (l : List Adm) (used : Tbl Nat) (free : Nat) :
    ((admitPass fenced cap l used free).filter (fun x => !x.carried && x.out == 1)).length ≤ free := by
  induction l generalizing used free with
  | nil => exact Nat.zero_le _
  | cons y l ih =>
    obtain ⟨m, hm, he⟩ := admitPass_step fenced cap y l used free
    have hslot := hm.slot
    rw [he]
    by_cases hk : y.carried = false ∧ m = 1
    · obtain ⟨hc, rfl⟩ := hk
      have hrest := ih (if 1 = 0 then tput 0 used (admKey y) (tget 0 used (admKey y) + 1) else used) (free - 1)
      have hpos := hslot hc rfl
      rw [List.filter_cons_of_pos (by simp [hc]), List.length_cons, if_pos (⟨hc, rfl⟩ : y.carried = false ∧ 1 = 1), if_neg (by decide)]
      rw [if_neg (by decide)] at hrest
      omega
    · rw [List.filter_cons_of_neg (by simpa using hk), if_neg hk]
      exact ih _ _

/-! ### The slack pass (03 R81) -/

/-- The slack that a replica has left. -/
def slackLeft (slack : Nat) (left : Tbl Nat) (k : Nat) : Nat := (tlook left k).getD slack

/-- The slack pass decides about the part of its head, and goes on with what is left of the replica's slack. -/
theorem slackPass_step (slack : Nat) (y : Adm) (l : List Adm) (left : Tbl Nat) :
    ∃ m, (m = if y.out = 1 then (if 0 < slackLeft slack left (admKey y) then 1 else 2) else 0) ∧
      slackPass slack (y :: l) left = { y with a := { y.a with part := m } } ::
        slackPass slack l (if y.out = 1 then tins left (admKey y) (slackLeft slack left (admKey y) - 1) else left) := by
  refine ⟨_, rfl, ?_⟩
  rw [slackPass]
  split
  · dsimp only
    split
    · next h =>
      have hpos : 0 < slackLeft slack left (admKey y) := h
      rw [if_pos hpos]
      rfl
    · next h =>
      have hpos : ¬0 < slackLeft slack left (admKey y) := h
      have h0 : slackLeft slack left (admKey y) - 1 = 0 := by
        omega
      rw [if_neg hpos, h0]
      rfl
  · rfl

theorem slackPass_choices (l : List Adm) (left : Tbl Nat) :
    (slackPass slack l left).map (fun x => (x.a.claim, x.out)) = l.map (fun x => (x.a.claim, x.out)) := by
  induction l generalizing left with
  | nil => rfl
  | cons y l ih =>
    obtain ⟨m, -, he⟩ := slackPass_step slack y l left
    rw [he, List.map_cons, ih, List.map_cons]

theorem slackPass_parts {x : Adm} (hx : x ∈ slackPass slack l left) :
    x.a.part = (if x.out = 1 then x.a.part else 0) ∧ (x.out = 1 → x.a.part = 1 ∨ x.a.part = 2) := by
  induction l generalizing left with
  | nil => cases hx
  | cons y l ih =>
    obtain ⟨m, hm, he⟩ := slackPass_step slack y l left
    rw [he] at hx
    rcases List.mem_cons.1 hx with rfl | hx
    · dsimp only
      split
      · next h1 =>
        rw [if_pos h1] at hm
        refine ⟨rfl, fun _ => ?_⟩
        split at hm
        · exact .inl hm
        · exact .inr hm
      · next h1 =>
        rw [if_neg h1] at hm
        exact ⟨hm, fun h => absurd h h1⟩
    · exact ih hx

/-- No replica's slack pass takes more than what is left of its slack. -/
theorem slackPass_slack (k : Nat) (l : List Adm) (left : Tbl Nat) :
    ((slackPass slack l left).filter (fun x => x.out == 1 && x.a.part == 1 && admKey x == k)).length ≤ slackLeft slack left k := by
  induction l generalizing left with
  | nil => exact Nat.zero_le _
  | cons y l ih =>
    obtain ⟨m, hm, he⟩ := slackPass_step slack y l left
    rw [he]
    by_cases hk : y.out = 1 ∧ admKey y = k
    · obtain ⟨h1, rfl⟩ := hk
      have hrest := ih (tins left (admKey y) (slackLeft slack left (admKey y) - 1))
      have hself : slackLeft slack (tins left (admKey y) (slackLeft slack left (admKey y) - 1)) (admKey y) =
          slackLeft slack left (admKey y) - 1 := by
        rw [slackLeft, tlook_tins_self]
        rfl
      rw [hself] at hrest
      rw [if_pos h1] at hm ⊢
      by_cases h0 : 0 < slackLeft slack left (admKey y)
      · rw [if_pos h0] at hm
        rw [List.filter_cons_of_pos (by simp [h1, hm, admKey]), List.length_cons]
        omega
      · rw [if_neg h0] at hm
        rw [List.filter_cons_of_neg (by simp [hm])]
        omega
    · have hhead : ¬(y.out == 1 && m == 1 && admKey { y with a := { y.a with part := m } } == k) = true := by
        simp only [Bool.and_eq_true, beq_iff_eq, admKey]
        exact fun h => hk ⟨h.1.1, h.2⟩
      rw [List.filter_cons_of_neg (p := fun x : Adm => x.out == 1 && x.a.part == 1 && admKey x == k) hhead]
      refine (ih _).trans (le_of_eq ?_)
      split
      · next h1 => rw [slackLeft, tlook_tins_ne _ (fun h => hk ⟨h1, h.symm⟩), slackLeft]
      · rfl

/-- Settles O37: claims add to the ledger, the barrier lets it decide, and both passes are followed choice by choice. -/
theorem admission : Obligations.Admission := by
  unfold Obligations.Admission
  refine ⟨fun s h0 => ⟨?_, fun c n g home => ?_, fun c n g hs hg hb => ?_, fun c n g => ?_, fun c n g code hc hb => ?_⟩, ?_⟩
  · rintro src x cs t hl rfl
    have he : exec (.claimBundle src (x :: cs)) s = execClaimBundle src (x :: cs) s := rfl
    obtain ⟨q, h, ht⟩ := takeClaims_only hl
    rw [he, execClaimBundle, run_up h0]
    refine ⟨rfl, ?_, ?_⟩
    · rw [ht]
    · rw [ht]
  · have he : exec (.claimBundleAck c n g home) s = execClaimBundleAck c n g home s := rfl
    rw [he, execClaimBundleAck, run_up h0]
  · exact ⟨_, _, exec_barrierJoin h0 hs hg hb, rfl, rfl, rfl, rfl, rfl, List.mem_append_right _ (List.mem_singleton_self _)⟩
  · rw [exec_admission h0]
    exact ⟨fun h => by rw [if_pos h], fun h => by rw [if_neg (Bool.eq_false_iff.1 h)]⟩
  · obtain ⟨u, he, hclaims, hgens, htoks, hadm⟩ := exec_admissionAbort h0 hc hb
    refine ⟨u, he, fun x hx => ?_, fun x hx => ?_, fun x hx hc hg => ?_, hadm, htoks⟩
    · rw [hclaims] at hx
      simpa using (List.mem_filter.1 hx).2
    · rw [hclaims]
      exact List.mem_filter.trans (and_iff_left (by simp [hx]))
    · rw [hgens] at hx
      exact forced_of_mem hx hc hg
  · rintro fenced cap slack free l r q rfl rfl
    refine ⟨admitPass_choices l _ _, fun k => admitPass_capacity k l [] free, admitPass_slots l _ _, fun x hx hc => ?_, fun x hx hc => ?_,
      fun x hx hc hr => ?_, slackPass_choices _ _, fun x hx => slackPass_parts hx, fun k => slackPass_slack k _ []⟩
    · obtain ⟨u, f, hd⟩ := decided_of_mem hx
      exact ⟨hd.fresh hc, hd.spec hc, hd.dropped hc⟩
    · obtain ⟨u, f, hd⟩ := decided_of_mem hx
      exact hd.carried hc
    · obtain ⟨u, f, hd⟩ := decided_of_mem hx
      exact hd.idle hc hr

end Sys2Proof.Machine
end

section
/-! PROOFS. What the raising of faults may change (16 R502 to R509, 13 R419), as a frame: contexts stop, collectives and multicasts end,
and the switch of a wythe may stop. -/

-- As in the tests: proofs elaborated side by side exhaust memory in the joined text.
set_option Elab.async false

namespace Sys2Proof.Machine

variable {s t u : State}

/-- All that faults and their consequences may change. -/
def OnlyFaults (s t : State) : Prop :=
  t = { s with
    recC := t.recC, recU := t.recU, recF := t.recF, cAckDue := t.cAckDue, mem := t.mem, ent := t.ent, mode := t.mode,
    teardown := t.teardown, ctxs := t.ctxs, stones := t.stones, switchDead := t.switchDead, ports := t.ports, sram := t.sram,
    badWords := t.badWords, colls := t.colls, collEnds := t.collEnds, mcasts := t.mcasts, barriers := t.barriers, aqQ := t.aqQ,
    injQ := t.injQ, stalledInj := t.stalledInj, windowFaultSeen := t.windowFaultSeen }

namespace OnlyFaults

protected theorem refl (s : State) : OnlyFaults s s := rfl

theorem trans (h : OnlyFaults s t) (g : OnlyFaults t u) : OnlyFaults s u := by
  unfold OnlyFaults at h g ⊢
  rw [g, h]

theorem of_settles (h : Settles s t) : OnlyFaults s t := by
  unfold OnlyFaults
  rw [h.1]

theorem forEach {α : Type} {f : State → α → State} (hf : ∀ t a, OnlyFaults t (f t a)) (l : List α) (s : State) :
    OnlyFaults s (Machine.forEach s l f) := by
  unfold Machine.forEach
  induction l generalizing s with
  | nil => exact .refl s
  | cons a l ih => exact (hf s a).trans (ih _)

theorem foldlFst {α β : Type} {f : State × β → α → State × β} (hf : ∀ p a, OnlyFaults p.1 (f p a).1) (l : List α) (p : State × β) :
    OnlyFaults p.1 (l.foldl f p).1 := by
  induction l generalizing p with
  | nil => exact .refl _
  | cons a l ih => exact (hf p a).trans (ih _)

theorem ite {c : Prop} [Decidable c] (ht : OnlyFaults s t) (hu : OnlyFaults s u) : OnlyFaults s (if c then t else u) := by
  split
  · exact ht
  · exact hu

theorem memWrite (s : State) (a : Nat) (bs : List Byte) : OnlyFaults s (Machine.memWrite s a bs) := ite rfl rfl

theorem sramWrite (s : State) (st off : Nat) (bs : List Byte) : OnlyFaults s (Machine.sramWrite s st off bs) := rfl

theorem inject (s : State) (w : Nat) (p : Packet) : OnlyFaults s (Machine.inject s w p) := ite rfl (ite rfl rfl)

theorem settleStone (s : State) (st : Nat) : OnlyFaults s (Machine.settleStone s st) := of_settles (settles_settleStone s st)

theorem stopCtx (s : State) (c : Nat) : OnlyFaults s (Machine.stopCtx s c) := of_settles (settles_stopCtx s c)

theorem signalDone (s : State) (st : Nat) (sig : Option Nat) : OnlyFaults s (Machine.signalDone s st sig) := by
  unfold Machine.signalDone
  split
  · exact (rfl : OnlyFaults s (modStone s st _))
  · exact .refl s

/-! ### The plumb -/

theorem setRec (s : State) (cls : Nat) (r : FaultRec) : OnlyFaults s (Machine.setRec s cls r) := ite rfl (ite rfl rfl)

theorem count (s : State) (i j : Nat) : OnlyFaults s (Machine.count s i j) := rfl

theorem logCopy (s : State) (cls : Nat) : OnlyFaults s (Machine.logCopy s cls) := by
  unfold Machine.logCopy
  exact ite rfl ((memWrite s _ _).trans rfl)

theorem arrive (s : State) (f : Fault16) (src : Option FaultRec) : OnlyFaults s (Machine.arrive s f src).1 := by
  have hrec : ∀ r, OnlyFaults s (Machine.setRec (Machine.count s 0xA0C0 (f.cls + 1)) f.cls r) :=
    fun r => (count s _ _).trans (setRec _ _ r)
  have hack : ∀ t, OnlyFaults t { t with cAckDue := true } := fun _ => rfl
  unfold Machine.arrive
  dsimp only
  split
  · exact (ite ((hrec _).trans (hack _)) (hrec _)).trans (logCopy _ _)
  · split
    · exact hrec _
    · split
      · exact hrec _
      · exact (hrec _).trans (count _ _ _)

theorem arriveAll (l : List (Fault16 × Option FaultRec)) (s : State) : OnlyFaults s (Machine.arriveAll s l).1 := by
  induction l generalizing s with
  | nil => exact .refl s
  | cons p l ih => exact (arrive s p.1 p.2).trans (ih _)

theorem latchCycles (n : Nat) (s : State) (es : List (Fault16 × Option FaultRec)) (fs : List Fault16) :
    OnlyFaults s (Machine.latchCycles n s es fs) := by
  induction n generalizing s es fs with
  | zero => exact .refl s
  | succ n ih => exact (arriveAll _ s).trans (ih _ _ _)

theorem latchAll (s : State) (fs : List Fault16) : OnlyFaults s (Machine.latchAll s fs) := latchCycles _ s _ _

/-! ### The end of collectives and multicasts -/

theorem collFinish (s : State) (stone pc sigStone sigObj record : Nat) (doneSignal : Bool) (sig : Option Nat) (rec : Nat) :
    OnlyFaults s (Machine.collFinish s stone pc sigStone sigObj record doneSignal sig rec) := by
  unfold Machine.collFinish
  extract_lets written ended signalled
  have he : OnlyFaults s ended := (ite (.refl s) (sramWrite s _ _ _) : OnlyFaults s written).trans rfl
  have hs : OnlyFaults s signalled :=
    ite ((he.trans (rfl : OnlyFaults ended (addSync ended _ _ _))).trans (settleStone _ _)) he
  exact (hs.trans (signalDone _ _ _)).trans (settleStone _ _)

theorem completeMcast (s : State) (m : Mcast) (status rank : Nat) : OnlyFaults s (Machine.completeMcast s m status rank).1 :=
  OnlyFaults.trans (t := Machine.count { s with
    mcasts := s.mcasts.filter (fun x => !(x.ctx == m.ctx && x.number == m.number)) } 0xA080 (collCounter status)) rfl
    (collFinish _ _ _ _ _ _ _ _ _)

theorem completeColl (s : State) (co : Coll) (status rank : Nat) (undecided : Bool) :
    OnlyFaults s (Machine.completeColl s co status rank undecided).1 := by
  unfold Machine.completeColl
  extract_lets e ended counted bs finished
  have hc : OnlyFaults s counted := OnlyFaults.trans (t := ended) rfl (count ended _ _)
  exact ite (hc.trans rfl) (hc.trans (collFinish _ _ _ _ _ _ _ _ _))

theorem collSend (s : State) (co : Coll) (rk msg chunk cover attempt : Nat) (data : List Byte) :
    OnlyFaults s (Machine.collSend s co rk msg chunk cover attempt data) := by
  unfold Machine.collSend
  extract_lets greeted cls dig hd pay up noted p
  have hn : OnlyFaults s noted := ite rfl (.refl s)
  exact ite (hn.trans rfl) (hn.trans (inject _ _ _))

theorem abortColl (s : State) (co : Coll) (code rank : Nat) : OnlyFaults s (Machine.abortColl s co code rank).1 :=
  (forEach (fun t _ => collSend t _ _ _ _ _ _ _) _ s).trans (completeColl _ _ _ _ _)

theorem requestAbort (s : State) (co : Coll) (code : Nat) : OnlyFaults s (Machine.requestAbort s co code).1 := by
  unfold Machine.requestAbort
  dsimp only
  split
  · exact abortColl s co code _
  · exact (collSend s _ _ _ _ _ _ _).trans rfl

theorem endCollectives (s : State) : OnlyFaults s (Machine.endCollectives s).1 := by
  unfold Machine.endCollectives
  dsimp only
  refine (foldlFst (fun p co => ?_) _ (s, [])).trans (foldlFst (fun p m => ?_) _ _)
  · exact requestAbort p.1 co _
  · exact completeMcast p.1 m _ _

/-! ### The entry to Faulted -/

theorem stopSwitch (s : State) (w : Nat) : OnlyFaults s (Machine.stopSwitch s w) := by
  refine OnlyFaults.trans (t := { s with switchDead := s.switchDead ++ [w] }) rfl (forEach (fun t p => ?_) _ _)
  split
  · exact .refl t
  · exact OnlyFaults.trans (ite (count t _ _) (.refl t)) rfl

theorem enterFaulted (s : State) : OnlyFaults s (Machine.enterFaulted s) := by
  unfold Machine.enterFaulted
  extract_lets faulted zeroed stopped down
  have hs : OnlyFaults s stopped := OnlyFaults.trans (t := zeroed) rfl (forEach stopCtx _ _)
  have hd : OnlyFaults s down := ite (hs.trans (stopSwitch _ _)) hs
  exact ite (.refl s) ((hd.trans (endCollectives _)).trans (latchAll _ _))

theorem raise (s : State) (fs : List Fault16) : OnlyFaults s (Machine.raise s fs) :=
  ite ((latchAll s fs).trans (enterFaulted _)) (latchAll s fs)

theorem finish {p : State × List Fault16} (h : OnlyFaults s p.1) : OnlyFaults s (Machine.finish p) :=
  ite h (h.trans (raise _ _))

/-- A miss of the own window table is counted, and its first of the job is a fault (11 R352). -/
theorem windowMiss (s : State) (off : Nat) : OnlyFaults s (Machine.windowMiss s off) :=
  ite (count s _ _) (OnlyFaults.trans (t := { Machine.count s 0xA070 0x06 with windowFaultSeen := true }) rfl (raise _ _))

theorem localMiss (s : State) (a n : Nat) (right : BitVec 128 → Bool) : OnlyFaults s (Machine.localMiss s a n right) :=
  ite (windowMiss s _) (.refl s)

/-! ### What it leaves -/

theorem kvWaits_eq (h : OnlyFaults s t) : t.kvWaits = s.kvWaits := by rw [h]

theorem fills_eq (h : OnlyFaults s t) : t.fills = s.fills := by rw [h]

end OnlyFaults

end Sys2Proof.Machine
end

section
/-! PROOFS. The millrace (04 R134 to R140, R151), placement entries (04 R132, R149) and the paged KV cache (04 R153 to R163). -/

-- As in the tests: proofs elaborated side by side exhaust memory in the joined text.
set_option Elab.async false

namespace Sys2Proof.Machine

variable {s t u v : State} {w c n k d i pos off st : Nat} {f : Fetch} {q : Req} {bs bytes : List Byte}

/-! ### The request that a millrace serves (04 R134, R137) -/

/-- The millrace's queues once its next request is taken. -/
def fetchTaken (s : State) (w : Nat) (f : Fetch) : State :=
  count (feedFetch { s with fetchQ := s.fetchQ.erase f } w) 0xA030 0x01

theorem exec_fillStart (h0 : s.resetLow = false) (hf : nextFetch s w = some f) : exec (.fillStart w f.ctx f.obj) s =
    .next (if (winOf (fetchTaken s w f) (winKey f.ctx f.obj)).present
      then count (setWin (fetchTaken s w f) (winKey f.ctx f.obj)
        { winOf (fetchTaken s w f) (winKey f.ctx f.obj) with held := runHolds (fetchTaken s w f) f.ctx f.obj }) 0xA030 0x02
      else beginFill (forEach (fetchTaken s w f) ((occupants (fetchTaken s w f) f.ctx f.obj).filter
        (fun o => (winOf (fetchTaken s w f) (winKey o.1 o.2)).present)) evictOccupant) w f.ctx f.obj) := by
  have he : exec (.fillStart w f.ctx f.obj) s = execFillStart w f.ctx f.obj s := rfl
  rw [he, execFillStart, run_up h0, hf]
  dsimp only
  rw [if_neg (by simp)]
  rfl

/-! ### The end of a fill (04 R136, R138 to R140) -/

/-- The fill of an object that is under way. -/
def fillOf (s : State) (c n : Nat) : Option Fill := s.fills.find? (fun f => f.ctx == c && f.obj == n)

/-- The faults of the granules whose read was uncorrectable. -/
def fillFaults (s : State) (c : Nat) (d : ObjDesc) (l : List Nat) : State :=
  forEach s l (fun x off => raise x [mkFault 1 0x21 5 (homeChannel x d off) (some c) (d.home + off)])

theorem fillFaults_one (s : State) (c : Nat) (d : ObjDesc) (off : Nat) : fillFaults s c d [off] =
    raise s [mkFault 1 0x21 5 (homeChannel s d off) (some c) (d.home + off)] := by
  unfold fillFaults
  rw [forEach_singleton]

/-- A window that is filled takes the place of the windows that it meets. -/
def placed (s : State) (c n : Nat) : State :=
  forEach s (occupants s c n) (fun x o => setWin x (winKey o.1 o.2) { winOf x (winKey o.1 o.2) with present := false })

/-- A window that is present, held while a run of the object's replica needs it. -/
def filled (v : State) (c n kib : Nat) : State :=
  countBy (setWin v (winKey c n) { winOf v (winKey c n) with
    present := true, held := decide ((ctxOf v c).state ≠ .swappingOut) && runHolds v c n }) 0xA030 0x03 (kib * 1024)

/-- A fill whose bytes are here, after the faults of its granules. -/
def fillEnds (t : State) (c n : Nat) (d : ObjDesc) (failed : Bool) (bs : List Byte) : State :=
  if failed ∨ (winOf t (winKey c n)).bad then markBad t c n d
  else filled (placed (if (ctxOf t c).state = .swappingIn then fillWindowBut t d (ctxOf t c).intact bs else fillWindow t d bs) c n)
    c n d.sizeKib

theorem exec_fillComplete {bad : List (Nat × Bool)} {x : Fill} (h0 : s.resetLow = false) (hx : fillOf s c n = some x)
    (hw : wytheOf (objOf s c n).firstStone = w) (hb : fillBytes s w x (objOf s c n) bytes = some (some bs, t))
    (hne : ((winOf t (winKey c n)).bad && bad.isEmpty) = false) : exec (.fillComplete w c n bad bytes) s =
      .next (fillEnds (fillFaults { t with fills := t.fills.erase x } c (objOf s c n) (bad.map (fun g => g.1 * 1024)))
        c n (objOf s c n) (bad.any (·.2)) bs) := by
  have he : exec (.fillComplete w c n bad bytes) s = execFillComplete w c n bad bytes s := rfl
  have hnone : (((some bs).isNone || (winOf { t with fills := t.fills.erase x } (winKey c n)).bad) && bad.isEmpty) = false := hne
  unfold fillOf at hx
  rw [he, execFillComplete, run_up h0, hx]
  dsimp only
  rw [if_neg (not_not.2 hw), hb]
  dsimp only
  rw [if_neg (Bool.eq_false_iff.1 hnone), List.append_nil]
  rfl

theorem fillEnds_good {d : ObjDesc} (hb : (winOf t (winKey c n)).bad = false) (hs : (ctxOf t c).state ≠ .swappingIn) :
    fillEnds t c n d false bs = filled (placed (fillWindow t d bs) c n) c n d.sizeKib := by
  unfold fillEnds
  rw [if_neg (by simp [hb]), if_neg hs]

theorem fillEnds_bad {d : ObjDesc} : fillEnds t c n d true bs = markBad t c n d := if_pos (.inl rfl)

theorem fills_fillWindow (s : State) (d : ObjDesc) (bs : List Byte) : (fillWindow s d bs).fills = s.fills := by
  unfold fillWindow forEach
  generalize List.range (winStones d) = l
  induction l generalizing s with
  | nil => rfl
  | cons a l ih =>
    refine (ih _).trans ?_
    dsimp only
    split <;> rfl

theorem fills_placed (s : State) (c n : Nat) : (placed s c n).fills = s.fills := by
  unfold placed forEach
  generalize occupants s c n = l
  induction l generalizing s with
  | nil => rfl
  | cons a l ih => exact (ih _).trans rfl

theorem present_filled (v : State) (c n kib : Nat) : (winOf (filled v c n kib) (winKey c n)).present = true := by
  have h := winOf_setWin_self (s := v) (winKey c n) { winOf v (winKey c n) with
    present := true, held := decide ((ctxOf v c).state ≠ .swappingOut) && runHolds v c n }
  exact congrArg Win.present h

/-! ### The end of a write-back (04 R151) -/

/-- The FLUSH instructions of an object complete. -/
def flushed (s : State) (c n : Nat) : State :=
  forEach { s with writebacks := s.writebacks.filter (· != (c, n)) }
    (flushWaits { s with writebacks := s.writebacks.filter (· != (c, n)) } c n) (fun t p => completeSlot t p.1 p.2.pc 8 p.2.signal)

theorem exec_writebackComplete (h0 : s.resetLow = false) (hl : laneOut s (wytheOf (objOf s c n).firstStone) (winKey c n) 1 = 0) :
    exec (.writebackComplete c n) s = .next (if (winOf (flushed s c n) (winKey c n)).bad
      then strandObject (flushed s c n) c (objOf (flushed s c n) c n) else flushed s c n) := by
  have he : exec (.writebackComplete c n) s = execWritebackComplete c n s := rfl
  rw [he, execWritebackComplete, run_up h0, if_neg (not_not.2 hl)]
  rfl

/-! ### PLACE_OBJECT and FLUSH_OBJECT (04 R131, R132, R149) -/

theorem actPlaceObject_static (h : getE u 0x4001 0x01 = 0) : actPlaceObject q u = .refuse 0x0201 u := by
  unfold actPlaceObject placeObject
  dsimp only
  rw [if_pos h]

theorem actPlaceObject_unknown (h : getE u 0x4001 0x01 ≠ 0) (hc : c = viewCtx u 0x4012 0x01 q) (hn : objCount u c ≤ q.value) :
    actPlaceObject q u = .refuse 0x0302 u := by
  subst hc
  unfold actPlaceObject placeObject
  dsimp only
  rw [if_neg h, if_pos hn]

theorem actPlaceObject_busy {old : ObjDesc} (h : getE u 0x4001 0x01 ≠ 0) (hc : c = viewCtx u 0x4012 0x01 q) (hn : q.value < objCount u c)
    (ho : old = objOf u c q.value) (hb : (old.valid = true ∧ old.mode = 0 ∧ (ctxOf u c).resident = true) ∨
      (winOf u (winKey c q.value)).held = true ∨ u.writebacks.contains (c, q.value) = true) :
    actPlaceObject q u = .refuse 0x0601 u := by
  subst hc ho
  unfold actPlaceObject placeObject
  dsimp only
  rw [if_neg h, if_neg (Nat.not_le.2 hn), if_pos]
  rcases hb with hb | hb | hb
  · exact .inl hb
  · exact .inr (.inr (.inl hb))
  · exact .inr (.inr (.inr hb))

/-- The granules of a replaced object are no longer as the context left them. -/
def forgetWindow (u : State) (c n : Nat) (old : ObjDesc) : State :=
  modCtx u c (fun x => { x with
    intact := x.intact.filter (fun g => !(old.valid && (windowUse [(n, old)]).any (useMeets (g.1, g.2, 1)))),
    savedPinned := x.savedPinned.filter (fun g => !(old.valid && (windowUse [(n, old)]).any (useMeets (g.1, g.2, 1)))) })

/-- A descriptor is written, and its window holds no fill. -/
def withObject (v : State) (c n : Nat) (d : ObjDesc) : State :=
  let x := memWrite v (getC v c 0x4010 0x01 + 32 * n) (toLE 32 (packObj d))
  setWin x (winKey c n) { winOf x (winKey c n) with bad := false, present := false }

/-- The removal of an object: its new descriptor is not VALID. -/
theorem actPlaceObject_removes {old d : ObjDesc} (h : getE u 0x4001 0x01 ≠ 0) (hc : c = viewCtx u 0x4012 0x01 q)
    (hn : q.value < objCount u c) (ho : old = objOf u c q.value) (hd : d = unpackObj (getE u 0x4012 0x02))
    (hidle : old.valid = false ∨ (old.mode = 0 ∧ (ctxOf u c).resident = false)) (hheld : (winOf u (winKey c q.value)).held = false)
    (hwb : u.writebacks.contains (c, q.value) = false) (hv : d.valid = false) (hr : d.resv = 0) :
    actPlaceObject q u = .done (withObject (forgetWindow u c q.value old) c q.value d) := by
  subst hc ho hd
  have hbusy : ¬(((objOf u (viewCtx u 0x4012 0x01 q) q.value).valid = true ∧ (objOf u (viewCtx u 0x4012 0x01 q) q.value).mode = 0 ∧
        (ctxOf u (viewCtx u 0x4012 0x01 q)).resident = true) ∨
      ((objOf u (viewCtx u 0x4012 0x01 q) q.value).valid = true ∧ (objOf u (viewCtx u 0x4012 0x01 q) q.value).mode = 1 ∧
        ((u.fetchQ ++ u.fetchHeld).any (isFetchOf (viewCtx u 0x4012 0x01 q) q.value) ||
          u.fills.any (fun f => f.ctx == viewCtx u 0x4012 0x01 q && f.obj == q.value)) = true) ∨
      (winOf u (winKey (viewCtx u 0x4012 0x01 q) q.value)).held = true ∨
        u.writebacks.contains (viewCtx u 0x4012 0x01 q, q.value) = true) := by
    rw [hheld, hwb]
    rcases hidle with hi | ⟨hm, hi⟩
    · simp [hi]
    · simp [hm, hi]
  have hstay : ¬((objOf u (viewCtx u 0x4012 0x01 q) q.value).valid = true ∧ (objOf u (viewCtx u 0x4012 0x01 q) q.value).mode = 1 ∧
      (winOf u (winKey (viewCtx u 0x4012 0x01 q) q.value)).present = true) := by
    rcases hidle with hi | ⟨hm, hi⟩
    · simp [hi]
    · simp [hm]
  unfold actPlaceObject placeObject
  dsimp only
  rw [if_neg h, if_neg (Nat.not_le.2 hn), if_neg hbusy, if_neg (by simp [hv]), if_neg (not_not.2 hr), if_neg (by simp [hv]), if_neg hstay]
  rfl

theorem actFlushObject_flushes (h : getE u 0x4001 0x01 ≠ 0) (hn : q.value < objCount u (viewCtx u 0x4014 0x01 q))
    (hv : (objOf u (viewCtx u 0x4014 0x01 q) q.value).valid = true) :
    actFlushObject q u = .done (writeBack u (viewCtx u 0x4014 0x01 q) q.value) := by
  unfold actFlushObject flushObject
  rw [if_neg h, if_neg (by simp [hv]; omega)]

/-! ### KV_WRITE (04 R154, R155) -/

theorem exec_kvWrite (h0 : s.resetLow = false) (hown : (stoneOf s st).owner = some c) : exec (.kvWrite st i pos off bs) s =
    .next (match kvPut s c st i pos off bs with
      | (t, true) => t
      | (t, false) => stallOn { t with kvWaits := t.kvWaits ++
          [{ ctx := c, stone := st, stream := i, pos := pos, off := off, bytes := bs }] } st .kvPool) := by
  have he : exec (.kvWrite st i pos off bs) s = execKvWrite st i pos off bs s := rfl
  rw [he, execKvWrite, run_up h0, hown] <;> rfl

theorem kvPut_below (hd : pondNat s (kvStreamAddr s c i) 16 = some d) (hp : pos < kvWatermark d) : kvPut s c st i pos off bs =
    (raise (count s 0xA030 0x0C) [mkFault 1 0x16 0 st (some c) (i * 2 ^ 32 + pos)], true) := by
  unfold kvPut
  rw [hd]
  exact if_pos hp

theorem kvPut_page {e : Nat} (hd : pondNat s (kvStreamAddr s c i) 16 = some d) (hp : kvWatermark d ≤ pos)
    (he : pondNat s (kvEntryAddr d (pos / 64)) 8 = some e) (hs : kvState e ≠ 0) : kvPut s c st i pos off bs =
      (kvStore s st (kvPageAddr e + pos % 64 * 16 * kvPageKib d + off) bs, true) := by
  unfold kvPut
  rw [hd]
  dsimp only
  rw [if_neg (Nat.not_lt.2 hp), he]
  exact if_pos hs

theorem kvPut_empty {e : Nat} (hd : pondNat s (kvStreamAddr s c i) 16 = some d) (hp : kvWatermark d ≤ pos)
    (he : pondNat s (kvEntryAddr d (pos / 64)) 8 = some e) (hs : kvState e = 0) (ht : kvTake s c d = none) :
    kvPut s c st i pos off bs = (s, false) := by
  unfold kvPut
  rw [hd]
  dsimp only
  rw [if_neg (Nat.not_lt.2 hp), he]
  dsimp only
  rw [if_neg (not_not.2 hs), ht]

theorem kvStore_far {a : Nat} (hf : isFar s a = true) : kvStore s st a bs = unitRequests s 3 0 (storeReqs s 0 a bs) := by
  unfold kvStore pondStore
  rw [if_pos hf, if_pos hf]

theorem kvStore_near {a : Nat} (hf : isFar s a = false) (ht : pondWrite s a bs = some t) :
    kvStore s st a bs = passPieces t (wytheOf st) a bs.length winWrite storePass := by
  unfold kvStore pondStore
  rw [if_neg (Bool.eq_false_iff.1 hf), if_neg (Bool.eq_false_iff.1 hf), ht]

/-! ### The watermark, the pool's TAIL and the provisional pages (04 R156, R159, R163) -/

theorem kvStreamOk_of_valid (hi : i < getC u c 0x4020 0x02) (hd : pondNat u (kvStreamAddr u c i) 16 = some d) (hv : kvValid d = true) :
    kvStreamOk u c i = true := by
  simp [kvStreamOk, hi, hd, hv]

theorem kvStreamOk_of_bad (hd : pondNat u (kvStreamAddr u c i) 16 = some d) (hb : getC u c 0x4020 0x02 ≤ i ∨ kvValid d = false) :
    kvStreamOk u c i = false := by
  rcases hb with hb | hb
  · simp [kvStreamOk, hb]
  · simp [kvStreamOk, hd, hb]

theorem actSetWatermark_ok (hc : c = viewCtx u 0x4026 0x01 q) (hk : kvStreamOk u c (bits 15 0 q.value) = true) :
    actSetWatermark q u = match kvAdvance u c (bits 15 0 q.value) (bits 56 32 q.value) with
      | some t => .done t
      | none => .refuse 0x0302 u := by
  subst hc
  unfold actSetWatermark
  dsimp only
  rw [if_neg (by simp [hk])] <;> rfl

theorem actSetWatermark_bad (hc : c = viewCtx u 0x4026 0x01 q) (hk : kvStreamOk u c (bits 15 0 q.value) = false) :
    actSetWatermark q u = .refuse 0x0302 u := by
  subst hc
  exact if_pos hk

/-- A store in pond memory starts no KV write that waits. -/
theorem kvWaits_pondPut (s : State) (a m x : Nat) : (pondPut s a m x).kvWaits = s.kvWaits := by
  unfold pondPut pondStore
  split
  · obtain ⟨_, _, _, _, _, _, h⟩ := OnlyNet.unitRequests s 3 0 (storeReqs s 0 a (toLE m x))
    rw [h]
  · split
    · next t ht =>
      unfold pondWrite at ht
      split at ht
      · cases ht
      · split at ht
        · obtain ⟨p, -, rfl⟩ := Option.map_eq_some_iff.1 ht
          rw [memWrite_only]
        · cases ht
          rfl
    · exact (OnlyFaults.localMiss s a _ _).kvWaits_eq

theorem kvRetry_none (h : s.kvWaits = []) : kvRetry s c = s := by
  unfold kvRetry
  rw [h]
  rfl

theorem actKvPoolTail_ok {r a : Nat} (hc : c = viewCtx u 0x4023 0x00 q) (ha : a = kvPoolAddr u c (bits 31 24 q.value))
    (hr : pondNat u a 16 = some r) : actKvPoolTail q u = if bits 23 0 q.value ≥ kvEntries r then .refuse 0x0302 u
      else .done (kvRetry (pondPut u a 16 (kvPoolWith r (kvHead r) (bits 23 0 q.value))) c) := by
  subst hc ha
  unfold actKvPoolTail
  dsimp only
  rw [hr]

theorem kvStreamOk_of_none (hi : i < getC u c 0x4020 0x02) (hd : pondNat u (kvStreamAddr u c i) 16 = none) :
    kvStreamOk u c i = true := by
  simp [kvStreamOk, hi, hd]

/-- The provisional pages of a stream go back to its pool. -/
def pagesGiven (s : State) (c d : Nat) : State :=
  forEach s ((List.range (262144 - cdiv (kvWatermark d) 64)).map (· + cdiv (kvWatermark d) 64)) (fun t p =>
    match pondNat t (kvEntryAddr d p) 8 with
    | some e => if kvState e = 1 then pondPut (kvGive t c d (kvPageAddr e)) (kvEntryAddr d p) 8 0 else t
    | none => t)

theorem actRelease_ok (hc : c = viewCtx u 0x4026 0x02 q) (hk : kvStreamOk u c q.value = true) : actReleaseProvisional q u =
    match pondNat u (kvStreamAddr u c q.value) 16 with
    | none => .done u
    | some d => .done (kvRetry (pagesGiven u c d) c) := by
  subst hc
  unfold actReleaseProvisional
  dsimp only
  rw [if_neg (by simp [hk])] <;> rfl

/-- Settles O41: every command of the tiers has its cases, each an equation of the model's operation. -/
theorem fillsAndKvCache : Obligations.FillsAndKvCache := by
  unfold Obligations.FillsAndKvCache
  refine ⟨fun s h0 => ⟨?_, ?_, ?_, ?_, ?_, ?_⟩, fun s c d h0 => ⟨?_, ?_, ?_, ?_, ?_⟩⟩
  · rintro w f k u hf rfl rfl
    rw [exec_fillStart h0 hf]
    refine ⟨fun hp => congrArg _ (if_pos hp), fun hp ho => congrArg _ ((if_neg (Bool.eq_false_iff.1 hp)).trans ?_)⟩
    unfold fetchTaken
    rw [ho]
    rfl
  · rintro w c n f bytes bad d k bs t₀ u v hf rfl hw rfl hb hbad hany rfl hub hsw rfl
    refine ⟨_, exec_fillComplete h0 hf hw hb (by rw [hbad]; rfl), ?_⟩
    rw [hany]
    have hends := fillEnds_good (d := objOf s c n) (bs := bs) hub hsw
    exact ⟨hends, (congrArg (fun t => (winOf t (winKey c n)).present) hends).trans (present_filled _ c n _),
      (congrArg State.fills hends).trans ((fills_placed _ c n).trans (fills_fillWindow _ _ _))⟩
  · rintro w c n f bytes g d k bs t₀ u hf rfl hw rfl hb rfl
    have hany : [(g, true)].any (fun g => g.2) = true := rfl
    have hoff : [(g, true)].map (fun g => g.1 * 1024) = [g * 1024] := rfl
    rw [exec_fillComplete h0 hf hw hb (Bool.and_false _), hany, hoff, fillEnds_bad, fillFaults_one]
    rfl
  · rintro c n u hl rfl
    rw [exec_writebackComplete h0 hl]
    exact ⟨fun hb => congrArg _ (if_neg (Bool.eq_false_iff.1 hb)), fun hb => congrArg _ (if_pos hb)⟩
  · rintro q u c d old rfl ha hc hd ho
    refine ⟨fun h => refused_of_act rfl ha (actPlaceObject_static h), fun h hn => refused_of_act rfl ha (actPlaceObject_unknown h hc hn),
      fun h hn hb => refused_of_act rfl ha (actPlaceObject_busy h hc hn ho hb), ?_⟩
    rintro v x away h hn hidle hheld hwb hv hr rfl rfl rfl
    exact done_of_act rfl ha (actPlaceObject_removes h hc hn ho hd hidle hheld hwb hv hr)
  · rintro q u rfl ha h hn hv
    exact done_of_act rfl ha (actFlushObject_flushes h hn hv)
  · intro st i pos off bs hown hd
    rw [exec_kvWrite h0 hown]
    refine ⟨fun hp => by rw [kvPut_below hd hp], ?_, fun e hp he hs ht => by rw [kvPut_empty hd hp he hs ht]⟩
    rintro e a hp he hs rfl
    rw [kvPut_page hd hp he hs]
    exact ⟨fun hf => congrArg _ (kvStore_far hf), fun t hf ht => congrArg _ (kvStore_near hf ht)⟩
  · rintro q u i w rfl ha hc rfl rfl hd
    refine ⟨fun hi hv => ?_, fun hb => refused_of_act rfl ha (actSetWatermark_bad hc (kvStreamOk_of_bad hd hb))⟩
    have hk := actSetWatermark_ok hc (kvStreamOk_of_valid hi hd hv)
    refine ⟨fun t ht => done_of_act rfl ha (hk.trans (by rw [ht])), fun hw => refused_of_act rfl ha (hk.trans ?_)⟩
    rw [kvAdvance_refused hd hw]
  · rintro q u r a rfl ha hc haddr hr
    have hk := actKvPoolTail_ok hc haddr hr
    refine ⟨fun hw hlt => done_of_act rfl ha ?_, fun hge => refused_of_act rfl ha (hk.trans (if_pos hge))⟩
    rw [hk, if_neg (Nat.not_le.2 hlt), kvRetry_none]
    rw [kvWaits_pondPut, hw]
  · rintro q u rfl ha hc hi hd
    refine done_of_act rfl ha ?_
    rw [actRelease_ok hc (kvStreamOk_of_none hi hd), hd]
  · rintro q u lo rfl ha hc hi hd hv rfl
    refine done_of_act rfl ha ?_
    rw [actRelease_ok hc (kvStreamOk_of_valid hi hd hv), hd]
    unfold pagesGiven
    rfl

end Sys2Proof.Machine
end

section
/-! PROOFS. SUBMIT and the routers (02 R36 to R63, 03 R101, R115), and the placement blocks (03 R71 to R73). -/

-- As in the tests: proofs elaborated side by side exhaust memory in the joined text.
set_option Elab.async false

namespace Sys2Proof.Machine

variable {s t u v : State} {st req recOff hd lead c n bay g : Nat} {h : IHdr} {o : Operands} {k : TokKey}

/-! ### SUBMIT: the checks (03 R101, 02 R36, R49) -/

/-- The token of a request, as its router's buffer takes it. -/
def submitTok (s : State) (st req recOff hd lead : Nat) (h : IHdr) (k : TokKey) (ready : Bool) : Tok :=
  { key := k, lead := lead, origin := bits 63 52 hd, stone := st, recOff := recOff, pc := (stoneOf s st).pc,
    spec := bit 51 hd, stepSlot := bits 31 15 hd, payload := sramRead s st (req + 16) (33 * bits 41 32 hd),
    blocks := bits 41 32 hd, position := stepPosition s k.ctx k.tokenId,
    dealt := dealRouter s k lead (bits 31 15 hd), scored := [],
    scored2 := [], gparts := [], chosen := none, parts := [], signal := sigOf h, waits := !ready }

/-- The instruction of a request that the router's buffer takes. -/
def submitSlot (s : State) (st req recOff hd : Nat) (h : IHdr) : State :=
  takeSlot s st 6 [(req, 16 + 33 * bits 41 32 hd)] [(recOff, 16)] h

/-- A request whose reads were clean. -/
def submitTake (s : State) (st req recOff hd lead : Nat) (h : IHdr) (k : TokKey) : State :=
  let ready := genReady s (bayOf (bits 63 52 hd)) k.ctx k.gen
  let opened := if ready then openGen (submitSlot s st req recOff hd h) (bayOf (bits 63 52 hd)) k.ctx k.gen
    else submitSlot s st req recOff hd h
  let taken := { opened with toks := opened.toks ++ [submitTok s st req recOff hd lead h k ready] }
  if ready then askStreams taken k.ctx k.layer else stallOn taken st .generation

/-- A request that its router refuses: its context stops (02 R49, R63). -/
def submitRefused (s : State) (st bay : Nat) : State :=
  let stopped := match (stoneOf s st).owner with
    | some c => stopAt s c st
    | none => s
  raise1 (count stopped 0xA020 0x04) 1 0x12 2 bay (stoneOf stopped st).owner (instrAddr stopped st)

/-- What a SUBMIT names, and that it issues with its ranges in order. -/
structure Submits (s : State) (st req recOff hd lead : Nat) (h : IHdr) (o : Operands) (k : TokKey) : Prop where
  reqReg : req = (reg s st (fld 111 108 o)).toNat
  outReg : recOff = (reg s st (fld 107 104 o)).toNat
  headAt : hd = sramNat s st req 16
  keyAt : k = { ctx := bits 71 64 hd, layer := bits 79 72 hd, gen := bits 95 80 hd, tokenId := bits 127 96 hd }
  fields : onlyFields [(111, 104)] o = true
  reqAligned : req % 16 = 0
  outAligned : recOff % 16 = 0
  reqIn : req + (16 + 33 * bits 41 32 hd) ≤ 2 ^ 18
  outIn : recOff + 16 ≤ 2 ^ 18
  issuable : issues s st h [(req, 16 + 33 * bits 41 32 hd)] [(recOff, 16)] = true
  leads : leadRouter s (bits 63 52 hd) = some lead

/-- The request fits its layer, which is ready. -/
def submitFits (s : State) (hd : Nat) (k : TokKey) : Prop :=
  bits 41 32 hd = layerBlocks s k.ctx k.layer ∧ bits 50 42 hd = 0 ∧ bits 14 0 hd = 0 ∧ layerStatus s k.ctx k.layer = 1

theorem exec_submit (hs : Submits s st req recOff hd lead h o k) : exec (.submit st h o) s = .next (
    if bits 41 32 hd ≠ layerBlocks s k.ctx k.layer ∨ bits 50 42 hd ≠ 0 ∨ bits 14 0 hd ≠ 0 ∨ layerStatus s k.ctx k.layer ≠ 1 then
      submitRefused (issued s st) st lead
    else if (s.toks.filter (fun t => t.lead == lead)).length ≥ 16 then stallOn (issued s st) st .tokenBuffer
    else readRanges (issued s st) st [(req, 16 + 33 * bits 41 32 hd)] [] fun s => submitTake s st req recOff hd lead h k) := by
  obtain ⟨hreq, hout, hhd, hk, ho, hra, hoa, hri, hoi, hi, hl⟩ := hs
  have hx : exec (.submit st h o) s = execSubmit st h o s := rfl
  have hok : expertOk h [(111, 104)] o = true := by rw [expertOk, headerOk_of_issues hi, ho]; rfl
  have hin : ∀ {a m : Nat}, a + m ≤ 2 ^ 18 → ¬inSram a m = false := fun hm hf =>
    absurd (decide_eq_true hm) (Bool.eq_false_iff.1 hf)
  have hl' : leadRouter (issued s st) (bits 63 52 hd) = some lead := hl
  subst hk
  rw [hx, execSubmit, run_up (up_of_issues hi)]
  unfold regFld
  dsimp only
  rw [← hreq, ← hout, ← hhd, issue_up hi hok, if_neg (by simp [hra, hoa, hin hri, hin hoi]), hl']
  rfl

theorem exec_submit_taken (hs : Submits s st req recOff hd lead h o k) (hf : submitFits s hd k)
    (hb : badIn s st [(req, 16 + 33 * bits 41 32 hd)] = none) (hr : (s.toks.filter (fun t => t.lead == lead)).length < 16) :
    exec (.submit st h o) s = .next (submitTake (issued s st) st req recOff hd lead h k) := by
  obtain ⟨h1, h2, h3, h4⟩ := hf
  rw [exec_submit hs, if_neg (by simp [h1, h2, h3, h4]), if_neg (Nat.not_le.2 hr), readRanges_srcs_clean (s := issued s st) hb]

/-! ### SUBMIT: its effects -/

/-- A generation that is open, or is opened, is in the list, and the others stay. -/
theorem openGen_only (s : State) (bay c g : Nat) : ∃ l, openGen s bay c g = { s with gens := l } ∧ (∀ x ∈ s.gens, x ∈ l) ∧
    ∃ x ∈ l, x.bay = bay ∧ x.ctx = c ∧ x.gen = g := by
  unfold openGen
  split
  · next x hx =>
    have hk := List.find?_some hx
    simp only [Bool.and_eq_true, beq_iff_eq] at hk
    exact ⟨s.gens, rfl, fun _ hm => hm, x, List.mem_of_find?_eq_some hx, hk.1.1, hk.1.2, hk.2⟩
  · exact ⟨_, rfl, fun _ hm => List.mem_append_left _ hm, _, List.mem_append_right _ (List.mem_singleton_self _), rfl, rfl, rfl⟩

theorem stoneOf_submitSlot (s : State) : stoneOf (submitSlot (issued s st) st req recOff hd h) st = { stoneOf s st with
    stall := none, pc := (stoneOf s st).pc + 1,
    inflight := (stoneOf s st).inflight ++ [{ pc := (stoneOf s st).pc, kind := 6, srcs := [(req, 16 + 33 * bits 41 32 hd)],
                                              dsts := [(recOff, 16)], signal := sigOf h }] } := by
  unfold submitSlot takeSlot
  rw [stoneOf_modStone_self, issued, stoneOf_modStone_self]

theorem stoneOf_submitSlot_ne (s : State) {i : Nat} (hi : i ≠ st) :
    stoneOf (submitSlot (issued s st) st req recOff hd h) i = stoneOf s i := by
  unfold submitSlot takeSlot
  rw [stoneOf_modStone_ne hi, issued, stoneOf_modStone_ne hi]

theorem submitSlot_only (s : State) : submitSlot (issued s st) st req recOff hd h =
    { s with stones := (submitSlot (issued s st) st req recOff hd h).stones } := rfl

/-- The request's token in the buffer, with its generation open. -/
def submitReady (s : State) (st req recOff hd lead : Nat) (h : IHdr) (k : TokKey) : State :=
  { openGen (submitSlot s st req recOff hd h) (bayOf (bits 63 52 hd)) k.ctx k.gen with
    toks := s.toks ++ [submitTok s st req recOff hd lead h k true] }

/-- The request's token in the buffer, where it waits for its generation. -/
def submitWaits (s : State) (st req recOff hd lead : Nat) (h : IHdr) (k : TokKey) : State :=
  { submitSlot s st req recOff hd h with toks := s.toks ++ [submitTok s st req recOff hd lead h k false] }

theorem submitTake_ready (hg : genReady s (bayOf (bits 63 52 hd)) k.ctx k.gen = true) :
    submitTake s st req recOff hd lead h k = askStreams (submitReady s st req recOff hd lead h k) k.ctx k.layer := by
  obtain ⟨l, hl, -⟩ := openGen_only (submitSlot s st req recOff hd h) (bayOf (bits 63 52 hd)) k.ctx k.gen
  unfold submitTake submitReady
  dsimp only
  rw [hg, if_pos rfl, if_pos rfl, hl]
  rfl

theorem submitTake_waits (hg : genReady s (bayOf (bits 63 52 hd)) k.ctx k.gen = false) :
    submitTake s st req recOff hd lead h k = stallOn (submitWaits s st req recOff hd lead h k) st .generation := by
  unfold submitTake submitWaits
  dsimp only
  rw [hg, if_neg Bool.false_ne_true, if_neg Bool.false_ne_true]
  rfl

theorem submitWaits_only (s : State) : submitWaits (issued s st) st req recOff hd lead h k =
    { s with stones := (submitSlot (issued s st) st req recOff hd h).stones,
             toks := s.toks ++ [submitTok (issued s st) st req recOff hd lead h k false] } := by
  unfold submitWaits
  rw [submitSlot_only]
  rfl

theorem submitReady_only (s : State) : ∃ l, submitReady (issued s st) st req recOff hd lead h k =
      { s with stones := (submitSlot (issued s st) st req recOff hd h).stones,
               toks := s.toks ++ [submitTok (issued s st) st req recOff hd lead h k true], gens := l } ∧
    (∀ x ∈ s.gens, x ∈ l) ∧ ∃ x ∈ l, x.bay = bayOf (bits 63 52 hd) ∧ x.ctx = k.ctx ∧ x.gen = k.gen := by
  obtain ⟨l, hl, hold, hnew⟩ := openGen_only (submitSlot (issued s st) st req recOff hd h) (bayOf (bits 63 52 hd)) k.ctx k.gen
  refine ⟨l, ?_, hold, hnew⟩
  unfold submitReady
  rw [hl, submitSlot_only]
  rfl

/-- What the requests for shares leave of a state with the request's token in it. -/
theorem streams_after {m : Tbl Stone} {ks : List Tok} {l : List Gen} (hu : u = { s with stones := m, toks := ks, gens := l })
    (ht : Streams u t) : t.stones = m ∧ t.toks = ks ∧ t.gens = l ∧ u = { s with stones := t.stones, toks := t.toks, gens := t.gens } ∧
      SameEntriesBut [(0x2052, getE s 0x2050 0x03 % 4 + 1)] s t := by
  obtain ⟨hstep, hent⟩ := ht
  have h1 : t.stones = m := by rw [hstep, hu]
  have h2 : t.toks = ks := by rw [hstep, hu]
  have h3 : t.gens = l := by rw [hstep, hu]
  have hsame : ∀ i j, getE u i j = getE s i j := getE_of_ent (by rw [hu])
  refine ⟨h1, h2, h3, by rw [h1, h2, h3, hu], fun i j hi hj hn => ?_⟩
  rw [hent i j hi hj (by rwa [hsame]), hsame]

theorem stones_stopCtx (s : State) (c : Nat) : (stopCtx s c).stones = s.stones := by
  unfold stopCtx
  split <;> rfl

theorem stoneOf_stopAt (s : State) (c st : Nat) :
    stoneOf (stopAt s c st) st = { stoneOf s st with run := .stopped, np := none } := by
  have hst : (stopAt s c st).stones = (modStone s st (fun x => { x with run := .stopped, np := none })).stones := stones_stopCtx _ c
  exact (congrArg (tget Stone.initial · st) hst).trans (stoneOf_modStone_self _ _)

theorem submitRefused_owned (hown : (stoneOf s st).owner = some c) : submitRefused (issued s st) st bay =
    raise (count (stopAt (issued s st) c st) 0xA020 0x04) [mkFault 1 0x12 2 bay (some c) (16 * (stoneOf s st).pc)] := by
  have hst : stoneOf (stopAt (issued s st) c st) st = { stoneOf (issued s st) st with run := .stopped, np := none } :=
    stoneOf_stopAt _ c st
  have hi : stoneOf (issued s st) st = { stoneOf s st with stall := none } := stoneOf_modStone_self _ _
  unfold submitRefused instrAddr
  rw [show (stoneOf (issued s st) st).owner = some c by rw [hi]; exact hown]
  dsimp only
  rw [hst, hi, ← hown]
  rfl

/-! ### The routers (02 R41 to R49) -/

theorem scoreToken_key (s : State) (b : Nat) (sh : Share) (t : Tok) : (scoreToken s b sh t).1.key = t.key := by
  unfold scoreToken
  dsimp only
  split
  · rfl
  · split <;> rfl
  · rfl

theorem passTokens_keys (s : State) (b c n g : Nat) (sh : Share) : (passTokens s b c n g sh).toks.map (·.key) = s.toks.map (·.key) := by
  unfold passTokens countBy setE setC
  dsimp only
  rw [List.map_map]
  refine List.map_congr_left fun t _ => ?_
  dsimp only [Function.comp]
  split
  · next p hp =>
    have hk : p.1 = t := of_decide_eq_true (List.find?_some (p := fun p : Tok × Tok × Nat => decide (p.1 = t)) hp)
    obtain ⟨w, -, rfl⟩ := List.mem_map.1 (List.mem_of_find?_eq_some hp)
    rw [scoreToken_key]
    exact congrArg Tok.key hk
  · rfl

theorem passTokens_only (s : State) (b c n g : Nat) (sh : Share) : passTokens s b c n g sh =
    { s with toks := (passTokens s b c n g sh).toks, ent := (passTokens s b c n g sh).ent } := rfl

theorem sameEntriesBut_passTokens (s : State) (b c n g : Nat) (sh : Share) : SameEntriesBut [(0xA020, 2)] s (passTokens s b c n g sh) :=
  sameEntriesBut_countBy _ (by decide) (by decide) _

theorem exec_scoringPass_clean {sh : Share} {t0 : Tok} (h0 : s.resetLow = false) (hs : hasShare s bay c n = some sh)
    (hf : (routerOf s bay).fenced = false) (hl : layerStatus s c n = 1) (ht : t0 ∈ s.toks) (hc : t0.key.ctx = c)
    (hn : t0.key.layer = n) (hg : t0.key.gen = g) (hw : waitsFor s bay t0 = true) :
    exec (.scoringPass bay c n g .clean) s = .next (passTokens s bay c n g sh) := by
  have he : exec (.scoringPass bay c n g .clean) s = execScoringPass bay c n g .clean s := rfl
  have hany : s.toks.any (fun t => t.key.ctx == c && t.key.layer == n && t.key.gen == g && waitsFor s bay t) = true :=
    List.any_eq_true.2 ⟨t0, ht, by simp [hc, hn, hg, hw]⟩
  rw [he, execScoringPass, run_up h0, if_neg (not_not.2 hl), hs]
  dsimp only
  rw [if_neg (by simp [hf, hany])]

theorem exec_scoringPass_off {r : GateRead} (h0 : s.resetLow = false) (hl : layerStatus s c n ≠ 1) :
    exec (.scoringPass bay c n g r) s = .next (discardWaiting s bay c n g) := by
  have he : exec (.scoringPass bay c n g r) s = execScoringPass bay c n g r s := rfl
  rw [he, execScoringPass, run_up h0, if_pos hl]

theorem discardWaiting_none (hw : ∀ x ∈ s.toks, x.key.ctx = c → x.key.layer = n → x.key.gen = g → x.waits = true) :
    discardWaiting s bay c n g = s := by
  have hnil : s.toks.filter (fun t => t.key.ctx == c && t.key.layer == n && t.key.gen == g && !t.waits) = [] := by
    refine List.filter_eq_nil_iff.2 fun x hx hk => ?_
    simp only [Bool.and_eq_true, beq_iff_eq, Bool.not_eq_true'] at hk
    obtain ⟨⟨⟨hc, hn⟩, hg⟩, hz⟩ := hk
    exact absurd (hw x hx hc hn hg) (Bool.eq_false_iff.1 hz)
  have hall : s.toks.filter (fun t => !([] : List Tok).contains t) = s.toks := List.filter_eq_self.2 fun _ _ => rfl
  unfold discardWaiting
  dsimp only
  rw [hnil, hall]
  rfl

/-! ### A share that has come (02 R44) -/

/-- All reads of a share were of other packages' memory. -/
theorem here_of_far {x : Gather} (hr : x.reads.all (fun r => isFar s r.2.1) = true) :
    x.reads.filter (fun r => !isFar s r.2.1) = [] ∧ x.reads.filter (fun r => isFar s r.2.1) = x.reads := by
  rw [List.all_eq_true] at hr
  exact ⟨List.filter_eq_nil_iff.2 fun r hm => by simp [hr r hm], List.filter_eq_self.2 hr⟩

theorem localParts_far {x : Gather} (hr : x.reads.all (fun r => isFar s r.2.1) = true) : localParts s x = some [] := by
  unfold localParts
  rw [(here_of_far hr).1]
  rfl

theorem streamParts_far {x : Gather} {e : StreamEnd} (hr : x.reads.all (fun r => isFar s r.2.1) = true) (hf : x.failed = false)
    (hw : x.want = 0) : streamParts s x e = some (some (x.reads.map (fun r => (r.1, gotBytes x.got r.1 r.2.2)))) := by
  unfold streamParts
  dsimp only
  rw [(here_of_far hr).1, (here_of_far hr).2, localParts_far hr, if_neg (by simp [hf]), if_neg (not_not.2 hw)]
  rfl

theorem streamParts_failed {x : Gather} {e : StreamEnd} (hf : x.failed = true) : streamParts s x e = some none := by
  unfold streamParts
  dsimp only
  rw [if_pos (by simp [hf])]

theorem passStream_far {x : Gather} (hr : x.reads.all (fun r => isFar s r.2.1) = true) : passStream s bay x = s := by
  unfold passStream
  dsimp only
  rw [localParts_far hr, (here_of_far hr).1]
  rfl

/-- A share of a layer of INT8 rows without a bias, in its router's hands. -/
def withShare (s : State) (bay c n : Nat) (keep : List Share) (ps : List (Nat × List Byte)) : State :=
  setRouter s bay { endStream (routerOf s bay) c n with
    shares := keep ++ [{ ctx := c, layer := n, img := spreadParts 0 (gateValues s c n + gateValues s c n / 32) ps, bias := [] }] }

theorem exec_gateStream {x : Gather} {e : StreamEnd} {keep : List Share} {ps : List (Nat × List Byte)} (h0 : s.resetLow = false)
    (hfen : (routerOf s bay).fenced = false) (hg : gatherOf s bay c n = some x) (hf : x.failed = false) (hw : x.want = 0)
    (hr : x.reads.all (fun r => isFar s r.2.1) = true) (hfmt : layerSet s c n 0x06 = 0) (hbias : layerSet s c n 0x0E = 0)
    (hm : makeRoom s bay (shareBytes s c n) = some keep) (hps : ps = x.reads.map (fun r => (r.1, gotBytes x.got r.1 r.2.2))) :
    exec (.gateStreamComplete bay c n e) s = .next (withShare s bay c n keep ps) := by
  have he : exec (.gateStreamComplete bay c n e) s = execGateStreamComplete bay c n e s := rfl
  subst hps
  rw [he, execGateStreamComplete, run_up h0, if_neg (by simp [hfen]), hg]
  dsimp only
  rw [streamParts_far hr hf hw]
  dsimp only
  rw [hm]
  dsimp only
  rw [passStream_far hr, hfmt, hbias]
  rfl

theorem exec_gateStream_failed {x : Gather} {e : StreamEnd} (h0 : s.resetLow = false) (hfen : (routerOf s bay).fenced = false)
    (hg : gatherOf s bay c n = some x) (hf : x.failed = true) (hr : x.reads.all (fun r => isFar s r.2.1) = true)
    (hv : v = raise (setRouter s bay (endStream (routerOf s bay) c n)) [mkFault 1 0x11 2 bay (some c) 0]) :
    exec (.gateStreamComplete bay c n e) s = .next (forEach { v with toks := v.toks.filter (fun t =>
        !(v.toks.filter (fun t => t.key.ctx == c && t.key.layer == n && waitsFor v bay t)).contains t) }
      (v.toks.filter (fun t => t.key.ctx == c && t.key.layer == n && waitsFor v bay t))
      (fun u t => discardRequest u bay t.stone t.pc t.recOff)) := by
  have he : exec (.gateStreamComplete bay c n e) s = execGateStreamComplete bay c n e s := rfl
  rw [he, execGateStreamComplete, run_up h0, if_neg (by simp [hfen]), hg]
  dsimp only
  rw [streamParts_failed hf]
  dsimp only
  rw [passStream_far hr, ite_self]
  unfold raise1
  rw [← hv]

/-! ### Tokens of a stage, and placement blocks (02 R47, 03 R72) -/

theorem exec_partialScores {x : Tok} (h0 : s.resetLow = false) (hx : s.toks.find? (fun t => t.key == k) = some x)
    (hd : stageDone s x = true) : exec (.partialScores k) s = .next (if layerSet s k.ctx k.layer 0x01 = 2 ∧ x.chosen = none
      then askStreams { s with toks := mapWhere s.toks (· == x) (fun t => { t with chosen := some (t.gparts.map (·.id)) }) } k.ctx k.layer
      else formChoices s x) := by
  have he : exec (.partialScores k) s = execPartialScores k s := rfl
  rw [he, execPartialScores, run_up h0, hx]
  dsimp only
  rw [if_neg (by simp [hd])]

/-- A block read from another package's memory. -/
theorem exec_placementBlock {e status : Nat} {block : List Replica} (h0 : s.resetLow = false)
    (hr : s.blocksReading.contains (c, n, e, bay) = true) (hfar : pondPos (blockAddr s c n e) ≠ gridPos s)
    (hm : managementOut s (tableTag c n e) = 0)
    (hu : u = { s with blocksReading := s.blocksReading.filter (· != (c, n, e, bay)) }) :
    exec (.placementBlockRead bay c n e status block) s = .next (if status ≠ 0 then giveBlock u bay c n e false []
      else giveBlock (if replicaCount block = 0 then u else cacheBlock u bay c n e block) bay c n e true block) := by
  have he : exec (.placementBlockRead bay c n e status block) s = execPlacementBlockRead bay c n e status block s := rfl
  have hown : ((decide (pondPos (blockAddr u c n e) = gridPos u)) && pondAddrOk (blockAddr u c n e)) = false := by
    have hn : ¬pondPos (blockAddr u c n e) = gridPos u := by
      rw [hu]
      exact hfar
    rw [decide_eq_false hn, Bool.false_and]
  rw [he, execPlacementBlockRead, run_up h0, if_neg (by rw [hr, hm]; decide), ← hu]
  dsimp only
  rw [hown]
  by_cases hz : status = 0
  · rw [if_neg (not_not.2 hz), if_neg (not_not.2 hz)]
    rfl
  · rw [if_pos hz, if_pos hz]
    rfl

/-- Settles O35: SUBMIT has three outcomes behind its checks, and each router event has the cases of its own rule. -/
theorem scoring : Obligations.Scoring := by
  unfold Obligations.Scoring
  refine ⟨?_, fun s h0 => ⟨?_, fun bay c n g r hl => ⟨exec_scoringPass_off h0 hl, fun hw => ?_⟩, ?_, ?_, fun k t hx hd => ⟨fun h2 hc => ?_, fun hno => ?_⟩,
    ?_⟩⟩
  · rintro s st h o req recOff hd n lead c k hreq hout hhd rfl hk ho hra hoa hri hoi hi hl hown
    have hs : Submits s st req recOff hd lead h o k := ⟨hreq, hout, hhd, hk, ho, hra, hoa, hri, hoi, hi, hl⟩
    refine ⟨fun h1 h2 h3 h4 hb hr hg => ?_, fun h1 h2 h3 h4 hb hr hg => ?_, fun h4 => ?_⟩
    · obtain ⟨l, hl, hold, hnew⟩ := submitReady_only (st := st) (req := req) (recOff := recOff) (hd := hd) (lead := lead) (h := h) (k := k) s
      have hx : exec (.submit st h o) s = .next (askStreams (submitReady (issued s st) st req recOff hd lead h k) k.ctx k.layer) := by
        rw [exec_submit_taken hs ⟨h1, h2, h3, h4⟩ hb hr, submitTake_ready (s := issued s st) hg]
      have hst := streams_askStreams (submitReady (issued s st) st req recOff hd lead h k) k.ctx k.layer
      obtain ⟨hstones, htoks, hgens, hu, hent⟩ := streams_after hl hst
      refine ⟨_, _, submitTok (issued s st) st req recOff hd lead h k true, hx, htoks, rfl, rfl, rfl, rfl, rfl, rfl, rfl, rfl, rfl, rfl, rfl,
        ?_, ?_, fun i hi => ?_, ?_, rfl, rfl, hu, hst.1, hent⟩
      · rw [hgens]
        exact hnew
      · rw [hgens]
        exact hold
      · exact (congrArg (tget Stone.initial · i) hstones).trans (stoneOf_submitSlot_ne s hi)
      · exact (congrArg (tget Stone.initial · st) hstones).trans (stoneOf_submitSlot s)
    · refine ⟨submitWaits (issued s st) st req recOff hd lead h k, submitTok (issued s st) st req recOff hd lead h k false, ?_, ?_, rfl, rfl,
        ?_, ?_⟩
      · rw [exec_submit_taken hs ⟨h1, h2, h3, h4⟩ hb hr, submitTake_waits (s := issued s st) hg]
      · rw [submitWaits_only]
      · rw [submitWaits_only]
        exact congrArg Stone.pc (stoneOf_submitSlot s)
      · rw [submitWaits_only]
    · rw [exec_submit hs, if_pos (.inr (.inr (.inr h4))), submitRefused_owned hown]
  · intro bay c n g sh t0 hsh hf hl ht hc hn hg hw
    exact ⟨_, exec_scoringPass_clean h0 hsh hf hl ht hc hn hg hw, rfl, passTokens_keys _ _ _ _ _ _, passTokens_only _ _ _ _ _ _,
      sameEntriesBut_passTokens _ _ _ _ _ _⟩
  · rw [exec_scoringPass_off h0 hl, discardWaiting_none hw]
  · intro bay c n e g ps keep hfen hg hf hw hr hfmt hb hm hps
    refine ⟨_, exec_gateStream h0 hfen hg hf hw hr hfmt hb hm hps, rfl, ?_⟩
    have hself : routerOf (withShare s bay c n keep ps) bay = _ := routerOf_setRouter_self _ _
    rw [gatherOf, hself]
    refine ⟨rfl, ?_, ?_, fun b hb => routerOf_setRouter_ne hb _⟩
    · simp [endStream]
    · simp only [endStream, List.find?_eq_none, List.mem_filter, Bool.not_eq_true', and_imp]
      exact fun x _ hx hk => absurd hk (Bool.eq_false_iff.1 hx)
  · rintro bay c n e g v dead hfen hg hf hr hv rfl
    exact exec_gateStream_failed h0 hfen hg hf hr hv
  · rw [exec_partialScores h0 hx hd, if_pos ⟨h2, hc⟩]
  · rw [exec_partialScores h0 hx hd, if_neg]
    rintro ⟨h2, hc⟩
    rcases hno with hno | hno
    · exact hno h2
    · rw [hc] at hno
      exact absurd hno (by decide)
  · intro bay c n e status block u hr hfar hm hu
    rw [exec_placementBlock h0 hr hfar hm hu]
    refine ⟨fun hz hc => ?_, fun hz => congrArg _ (if_pos hz)⟩
    rw [if_neg (not_not.2 hz), if_neg hc]

end Sys2Proof.Machine
end

section
/-! PROOFS. Scheduling (13 R420, R440; 16 R505): a write-back that is refused while a fault of class U is recorded. -/

-- As in the tests: proofs elaborated side by side exhaust memory in the joined text.
set_option Elab.async false

namespace Sys2Proof.Machine

/-- A pinned window of one KiB at granule 4 of stone 0, with DIRTY_TRACK, whose HOME is in tier 1 of this package. -/
def trackedObject : ObjDesc :=
  { home := 2 ^ 19, sizeKib := 1, firstStone := 0, span := 0, sramKib := 4, expert := 0, layer := 0, shadow := 0, kind := 0, mode := 0,
    tier := 1, dirtyTrack := true, valid := true, software := 0, resv := 0 }

/-- Context 0 is swapped out with a dirty granule to write back; no window of the job holds its HOME, and another unit's fault of
class U stands in its record. -/
def evictedUnderFault : State := { State.reset with
  mode := .running
  ctxs := [(0, { Ctx.initial with state := .swappingOut, phys := [(0, 0)], resident := true })]
  stones := [(0, { Stone.initial with owner := some 0, dirty := [4] })]
  recU := { FaultRec.empty with valid := true, cause := 1 }
  ent := [(ekey 0 0x4010 1, 4096), (ekey 0 0x4010 2, 1)]
  mem := (List.range 32).map (fun i => (4096 + i, BitVec.ofNat 8 (packObj trackedObject / 256 ^ i))) }

/-- The state that a context has after a command. -/
def ctxStateAfter (c : Nat) : Res → Option CtxState
  | .next t => some (ctxOf t c).state
  | _ => none

/-- The refused write-back is a second fault of class U, which escalates to class F; Faulted stops every context, and the one that
is being swapped out ends STOPPED. -/
theorem evicted_stopped : ctxStateAfter 0 (exec (.swapOutComplete 0) evictedUnderFault) = some .stopped := by decide +kernel

/-- Refutes O34: the end of a swap-out may itself stop the context. Its write-back meets no window and is a fault of class U; with
one of another unit recorded it escalates to class F, and Faulted stops the context, although RECORD_C is empty. -/
theorem not_scheduling : ¬ Obligations.Scheduling := by
  unfold Obligations.Scheduling
  rintro ⟨-, -, h⟩
  obtain ⟨t, he, -, -, -, hstate⟩ := (h evictedUnderFault rfl).2.1 0 rfl (by decide +kernel)
  have hafter := evicted_stopped
  rw [he] at hafter
  exact absurd ((Option.some.inj hafter).symm.trans (hstate (.inl rfl))) (by decide +kernel)

end Sys2Proof.Machine
end

section
/-! PROOFS. Loading, unloading and the end of a teardown (13 R420, R423, R430). -/

-- As in the tests: proofs elaborated side by side exhaust memory in the joined text.
set_option Elab.async false

namespace Sys2Proof.Machine

variable {s t u : State} {c k : Nat} {q : Req}

/-! ### The job messages under way, which the release of a context leaves alone -/

/-- The job step of the keystone, the member's wait for its children, and the operation that was heard last. -/
def jobs (s : State) : Option JobStep × Option JobStep × Option (Nat × Nat × Bool) := (s.jobStep, s.jobMember, s.jobSeen)

theorem jobs_of_faults (h : OnlyFaults s t) : jobs t = jobs s := by
  unfold OnlyFaults at h
  rw [h]
  rfl

theorem jobs_of_settles (h : Settles s t) : jobs t = jobs s := by
  rw [h.1]
  rfl

theorem jobs_of_streams (h : Streams s t) : jobs t = jobs s := by
  rw [h.1]
  rfl

theorem jobs_forEach {α : Type} {f : State → α → State} (hf : ∀ t a, jobs (f t a) = jobs t) (l : List α) (s : State) :
    jobs (forEach s l f) = jobs s := by
  unfold forEach
  induction l generalizing s with
  | nil => rfl
  | cons a l ih => exact (ih _).trans (hf s a)

@[simp] theorem jobs_setC (s : State) (c i j v : Nat) : jobs (setC s c i j v) = jobs s := rfl
@[simp] theorem jobs_setE (s : State) (i j v : Nat) : jobs (setE s i j v) = jobs s := rfl
@[simp] theorem jobs_countBy (s : State) (i j n : Nat) : jobs (countBy s i j n) = jobs s := rfl
@[simp] theorem jobs_count (s : State) (i j : Nat) : jobs (count s i j) = jobs s := rfl
@[simp] theorem jobs_modStone (s : State) (st : Nat) (f : Stone → Stone) : jobs (modStone s st f) = jobs s := rfl
@[simp] theorem jobs_clearDirty (s : State) (st g : Nat) : jobs (clearDirty s st g) = jobs s := rfl
@[simp] theorem jobs_setCtx (s : State) (c : Nat) (x : Ctx) : jobs (setCtx s c x) = jobs s := rfl
@[simp] theorem jobs_setWin (s : State) (k : Nat) (x : Win) : jobs (setWin s k x) = jobs s := rfl
@[simp] theorem jobs_setPool (s : State) (p : Nat) (x : Pool) : jobs (setPool s p x) = jobs s := rfl
@[simp] theorem jobs_setPoolLevel (s : State) (p : Nat) (x : Pool) : jobs (setPoolLevel s p x) = jobs s := rfl
@[simp] theorem jobs_putLink (s : State) (h n : Nat) : jobs (putLink s h n) = jobs s := by
  unfold jobs putLink
  rfl
@[simp] theorem jobs_clearWindows (s : State) : jobs (clearWindows s) = jobs s := rfl

@[simp] theorem jobs_raise1 (s : State) (cls cause kind unit : Nat) (c : Option Nat) (d : Nat) :
    jobs (raise1 s cls cause kind unit c d) = jobs s := jobs_of_faults (.raise s _)

theorem jobs_storePass (s : State) (w off n : Nat) : jobs (storePass s w off n) = jobs s := by
  unfold storePass passBytes
  split <;> rfl

theorem jobs_passPieces (s : State) (w a n : Nat) : jobs (passPieces s w a n winWrite storePass) = jobs s := by
  refine jobs_forEach (fun t p => ?_) _ s
  split
  · exact jobs_storePass t w _ _
  · rfl

theorem jobs_pondWrite {a : Nat} {bs : List Byte} (h : pondWrite s a bs = some t) : jobs t = jobs s := by
  unfold pondWrite at h
  split at h
  · cases h
  · split at h
    · obtain ⟨p, -, rfl⟩ := Option.map_eq_some_iff.1 h
      rw [memWrite_only]
      rfl
    · cases h
      rfl

theorem jobs_toHome (s : State) (c obj : Nat) (d : ObjDesc) (off : Nat) (bs : List Byte) : jobs (toHome s c obj d off bs) = jobs s := by
  unfold toHome
  dsimp only
  split
  · rfl
  · split
    · exact jobs_of_streams (streams_laneRequests s _ _)
    · split
      · rename_i t ht
        exact (jobs_passPieces t _ _ _).trans (jobs_pondWrite ht)
      · rw [storeRefused, jobs_raise1, jobs_setWin]
        exact jobs_of_faults (.localMiss s _ _ _)

theorem jobs_writeBack (s : State) (c obj : Nat) : jobs (writeBack s c obj) = jobs s := by
  unfold writeBack
  extract_lets d gs written
  split
  · rfl
  · have hw : jobs written = jobs s := jobs_forEach (fun t g => by simp [jobs_toHome]) gs s
    rw [← hw]
    rfl

theorem jobs_discardDirty (s : State) (c obj : Nat) : jobs (discardDirty s c obj) = jobs s := by
  unfold discardDirty
  exact jobs_forEach (fun t (g : Nat × Nat × Nat) => jobs_clearDirty t g.1 g.2.1) _ s

theorem jobs_leaveWindows (s : State) (c : Nat) : jobs (leaveWindows s c) = jobs s := by
  refine jobs_forEach (fun t o => ?_) _ s
  split
  · split
    · exact jobs_writeBack t c o.1
    · exact jobs_discardDirty t c o.1
  · rfl

@[simp] theorem jobs_testBay (s : State) (bay : Nat) : jobs (testBay s bay) = jobs s := by
  unfold testBay
  split
  · rfl
  · simp

theorem jobs_dropRef (s : State) (h : Nat) : jobs (dropRef s h) = jobs s := by
  unfold dropRef
  dsimp only
  split
  · simp
  · split
    · simp
    · split
      · exact jobs_setPoolLevel s _ _
      · rw [jobs_count, jobs_setPoolLevel, jobs_putLink]

theorem jobs_release (s : State) (h : BitVec 32) : jobs (release s h) = jobs s := by
  unfold release releaseBuffer
  dsimp only
  split
  · simp
  · split
    · simp
    · exact jobs_dropRef s _

theorem jobs_dropCtxWork (s : State) (c : Nat) : jobs (dropCtxWork s c) = jobs s := by
  unfold dropCtxWork
  extract_lets mine tags freed keepShare dropWaits dropped
  exact jobs_forEach (fun t st => jobs_modStone t st _) mine dropped

theorem openGen_gens (s : State) (bay c g : Nat) : ∃ l, openGen s bay c g = { s with gens := l } :=
  (openGen_only s bay c g).imp fun _ h => h.1

theorem jobs_unhold (s : State) (t : Tok) : jobs (unhold s t) = jobs s := by
  unfold unhold
  split
  · refine (jobs_of_settles (settles_settle _ _)).trans ?_
    unfold modStoneFor setStoneFor
    split <;> rfl
  · rfl

theorem jobs_wakeTok (s : State) (t : Tok) : jobs (wakeTok s t) = jobs s := by
  unfold wakeTok
  dsimp only
  split
  · refine (jobs_unhold _ t).trans ((jobs_of_streams (streams_askStreams _ _ _)).trans ?_)
    obtain ⟨l, hl⟩ := openGen_gens { s with toks := mapWhere s.toks (· == t) (fun x => { x with waits := false }) }
      (bayOf t.origin) t.key.ctx t.key.gen
    rw [hl]
    rfl
  · rfl

theorem jobs_releaseCtx (s : State) (c : Nat) : jobs (releaseCtx s c) = jobs s := by
  unfold releaseCtx
  extract_lets left released
  have hleft : jobs left = jobs s := by
    unfold left
    split
    · exact jobs_leaveWindows s c
    · rfl
  calc jobs (wakeGens (setCtx (dropCtxWork released c) c Ctx.initial))
    _ = jobs (setCtx (dropCtxWork released c) c Ctx.initial) := jobs_forEach jobs_wakeTok _ _
    _ = jobs (dropCtxWork released c) := jobs_setCtx _ c _
    _ = jobs released := jobs_dropCtxWork released c
    _ = jobs left := jobs_forEach jobs_release _ left
    _ = jobs s := hleft

theorem jobs_clearAqueducts (s : State) : jobs (clearAqueducts s) = jobs s := by
  unfold clearAqueducts
  exact jobs_forEach (fun t p => by rfl) s.aqs s

theorem jobs_newKey (s : State) : jobs (newKey s) = jobs s := by
  unfold newKey
  split <;> rfl

theorem jobs_enterClean (s : State) : jobs (enterClean s) = jobs s := by
  have hunload : jobs (unloadAll s) = jobs s := jobs_forEach (fun t c => jobs_releaseCtx (closeRing t c) c) _ s
  unfold enterClean
  extract_lets unloaded cleared emptied zeroed
  have hempty : jobs emptied = jobs cleared := rfl
  rw [jobs_newKey, jobs_setE, jobs_setE, jobs_setE, jobs_setE, hempty, jobs_clearWindows, jobs_clearAqueducts]
  exact hunload

/-! ### A released context is not listed, and nothing that wakes lists it again -/

/-- The slot has no entry: it reads as EMPTY. -/
def Unlisted (c : Nat) (s : State) : Prop := ∀ p ∈ s.ctxs, p.1 ≠ c

theorem Unlisted.of_ctxs (h : Unlisted c s) (hc : t.ctxs = s.ctxs) : Unlisted c t := by
  unfold Unlisted
  rw [hc]
  exact h

theorem Unlisted.setCtx (h : Unlisted c s) (hk : k ≠ c) (x : Ctx) : Unlisted c (setCtx s k x) := by
  intro p hp
  unfold Machine.setCtx tput at hp
  dsimp only at hp
  split at hp
  · exact h p (mem_tdel hp)
  · rcases mem_tins hp with e | hp
    · exact e ▸ hk
    · exact h p hp

theorem Unlisted.modCtx (h : Unlisted c s) (hk : k ≠ c) (f : Ctx → Ctx) : Unlisted c (modCtx s k f) := h.setCtx hk _

theorem Unlisted.forEach {α : Type} {f : State → α → State} {l : List α} (hf : ∀ t, ∀ a ∈ l, Unlisted c t → Unlisted c (f t a))
    (h : Unlisted c s) : Unlisted c (forEach s l f) := by
  unfold Machine.forEach
  induction l generalizing s with
  | nil => exact h
  | cons a l ih => exact ih (fun t b hb => hf t b (List.mem_cons_of_mem a hb)) (hf s a List.mem_cons_self h)

theorem Unlisted.modStoneFor (h : Unlisted c s) (hk : k ≠ c) (st : Nat) (f : Stone → Stone) : Unlisted c (modStoneFor s k st f) := by
  unfold Machine.modStoneFor setStoneFor
  split
  · exact h
  · exact h.modCtx hk _

theorem Unlisted.cutSlice (h : Unlisted c s) (hk : k ≠ c) : Unlisted c (cutSlice s k) :=
  Unlisted.modCtx (s := discardProducts (endSlice s k) k)
    (Unlisted.forEach (fun _ st _ ht => ht.modStoneFor hk st _) (h.modCtx hk _ : Unlisted c (endSlice s k))) hk _

theorem Unlisted.preemptFor (h : Unlisted c s) : Unlisted c (preemptFor s k) := by
  unfold Machine.preemptFor
  split
  · exact h
  · refine Unlisted.forEach (fun t j hj ht => ht.cutSlice ?_) h
    obtain ⟨p, hp, rfl⟩ := List.mem_map.1 hj
    exact h p (List.mem_filter.1 hp).1

theorem Unlisted.settle (h : Unlisted c s) (hk : k ≠ c) : Unlisted c (settle s k) := by
  unfold Machine.settle
  dsimp only
  split
  · split
    · have he : Unlisted c (endSlice s k) := h.modCtx hk _
      exact (he.modCtx hk fun y => { y with state := .blocked, stopping := false }).of_ctxs rfl
    · exact h
  · split
    · exact h
    · exact (h.modCtx hk _).preemptFor
  · exact h

theorem Unlisted.wakeTok {x : Tok} (h : Unlisted c s) (hx : x.key.ctx ≠ c) : Unlisted c (wakeTok s x) := by
  unfold Machine.wakeTok
  extract_lets b woken
  split
  · unfold unhold
    rw [if_pos (by simp_all)]
    refine ((h.of_ctxs ?_).modStoneFor hx _ _).settle hx
    rw [(streams_askStreams _ _ _).1]
    obtain ⟨l, hl⟩ := openGen_gens woken b x.key.ctx x.key.gen
    rw [hl]
  · exact h

theorem toks_forEach_modStone (s : State) (l : List Nat) (f : Stone → Stone) : (forEach s l fun t st => modStone t st f).toks = s.toks := by
  unfold Machine.forEach
  induction l generalizing s with
  | nil => rfl
  | cons a l ih => exact ih _

theorem toks_dropCtxWork {x : Tok} (h : x ∈ (dropCtxWork s c).toks) : x.key.ctx ≠ c := by
  unfold dropCtxWork at h
  extract_lets mine tags freed keepShare dropWaits dropped at h
  rw [toks_forEach_modStone] at h
  simpa using (List.mem_filter.1 h).2

theorem unlisted_releaseCtx (s : State) (c : Nat) : Unlisted c (releaseCtx s c) := by
  unfold releaseCtx
  extract_lets left released
  refine Unlisted.forEach (fun t x hx ht => ht.wakeTok (toks_dropCtxWork hx)) (fun p hp => ?_)
  unfold Machine.setCtx tput at hp
  rw [if_pos rfl] at hp
  simpa [tdel] using (List.mem_filter.1 hp).2

theorem ctxOf_unlisted (h : Unlisted c s) : ctxOf s c = Ctx.initial := by
  have hnone : ∀ l : Tbl Ctx, (∀ p ∈ l, p.1 ≠ c) → tlook l c = none := by
    intro l hl
    induction l with
    | nil => rfl
    | cons p l ih =>
      rw [tlook, if_neg (hl p List.mem_cons_self), ih fun a ha => hl a (List.mem_cons_of_mem p ha)]
  unfold ctxOf tget
  rw [hnone s.ctxs h]

/-! ### The end of a teardown -/

theorem windowOf_clearWindows (s : State) (i : Nat) : winValid (windowOf (clearWindows s) i) = false := by
  have hmap : ∀ l : Tbl (BitVec 128), winValid (tget 0 (l.map fun x => (x.1, winInvalid x.2)) i) = false := by
    intro l
    induction l with
    | nil => exact (by decide : winValid 0 = false)
    | cons p l ih =>
      by_cases hp : p.1 = i
      · rw [List.map_cons, tget, tlook, if_pos hp]
        exact winValid_winInvalid p.2
      · rw [List.map_cons, tget, tlook, if_neg hp]
        exact ih
  exact hmap s.windows

theorem exec_teardownComplete (h0 : s.resetLow = false) (hm : s.mode = .draining) (hl : s.loading = none)
    (hr : (loadedCtxs s).all (regionsEnded s) = true) (hu : s.ctxs.all (fun p => p.2.state != .unloading || regionsEnded s p.1) = true)
    (hs : s.jobStep = none) (hj : s.jobMember = none) (hn : s.jobSeen.any (fun x => x.1 == 5 && x.2.2) = false) :
    exec .teardownComplete s = .next (enterClean s) := by
  have hkeep : (enterClean s).jobStep = s.jobStep ∧ (enterClean s).jobMember = s.jobMember ∧ (enterClean s).jobSeen = s.jobSeen := by
    simpa [jobs] using jobs_enterClean s
  obtain ⟨hstep, hmember, hseen⟩ := hkeep
  have hgive : giveAnswers (enterClean s) [(gridPos s, 0)] = enterClean s := by
    unfold giveAnswers
    rw [hstep, hs]
    dsimp only
    rw [hmember, hj]
  have he : exec .teardownComplete s = execTeardownComplete s := rfl
  rw [he, execTeardownComplete, run_up h0, if_pos ⟨hm, hl, hr, hu⟩]
  dsimp only
  rw [hgive, hseen, if_neg (Bool.eq_false_iff.1 hn)]

/-- What Clean leaves. -/
theorem enterClean_clean (s : State) : (enterClean s).mode = .clean ∧ (enterClean s).jobTag = 0 ∧ (enterClean s).teardown = false ∧
    (enterClean s).jobList = [] ∧ (enterClean s).starts = [] ∧ (enterClean s).sram = [] ∧
    (enterClean s).windows = (clearWindows (clearAqueducts (unloadAll s))).windows ∧ getE (enterClean s) 0x5000 0x03 = 0 := by
  unfold enterClean newKey
  extract_lets unloaded cleared emptied zeroed
  have hz : getE (setE zeroed 0x3000 0x02 0) 0x5000 0x03 = 0 := by
    rw [getE_setE_ne (by decide), getE_setE_ne (by decide), getE_setE_ne (by decide), getE_setE_self]
  split
  · exact ⟨rfl, rfl, rfl, rfl, rfl, rfl, rfl, hz⟩
  · refine ⟨rfl, rfl, rfl, rfl, rfl, rfl, rfl, ?_⟩
    rw [getE_count_ne (by decide), getE_setE_ne (by decide)]
    exact hz

/-! ### LOAD and UNLOAD -/

theorem actLoad_begins (hm : loadMode u = true) (he : (ctxOf u (bits 31 24 q.value)).state = .empty) (hl : u.loading = none)
    (h0 : bits 21 0 q.value = 0) (ha : bits 127 64 q.value % 4096 = 0) : actLoad q u = .later (
      let w := modCtx { u with loading := some { slot := bits 31 24 q.value, cls := bits 22 22 q.value, lengthKib := bits 63 32 q.value } }
        (bits 31 24 q.value) (fun x => { x with state := .loading })
      if bit 23 q.value then readHost w (bits 127 64 q.value) (bits 63 32 q.value * 1024) else w) := by
  unfold actLoad
  dsimp only
  rw [if_neg (by simp [hm]), if_neg (by simp [he, hl]), if_neg (by simp [h0, ha])]

theorem actLoad_mode (hm : loadMode u = false) :
    actLoad q u = .refuse 0x0101 (loadRefused u (bits 31 24 q.value) 1 0x0101 0) := if_pos hm

theorem actLoad_busy (hm : loadMode u = true) (hb : (ctxOf u (bits 31 24 q.value)).state ≠ .empty ∨ u.loading.isSome = true) :
    actLoad q u = .refuse 0x0601 (loadRefused u (bits 31 24 q.value) 2 0x0601 0) := by
  unfold actLoad
  dsimp only
  rw [if_neg (by simp [hm]), if_pos hb]

theorem actLoad_malformed (hm : loadMode u = true) (he : (ctxOf u (bits 31 24 q.value)).state = .empty) (hl : u.loading = none)
    (hb : bits 21 0 q.value ≠ 0 ∨ bits 127 64 q.value % 4096 ≠ 0) :
    actLoad q u = .refuse 0x0302 (loadRefused u (bits 31 24 q.value) 3 0x0302 0) := by
  unfold actLoad
  dsimp only
  rw [if_neg (by simp [hm]), if_neg (by simp [he, hl]), if_pos hb]

theorem actUnload_loaded (h : isLoaded (ctxOf s c) = true) : actUnload c s = .done (beginUnload s c) := by
  unfold actUnload
  unfold isLoaded at h
  cases hx : (ctxOf s c).state <;> simp_all

theorem actUnload_refused (h : isLoaded (ctxOf s c) = false) : actUnload c s = .refuse 0x0101 s := by
  unfold actUnload
  unfold isLoaded at h
  cases hx : (ctxOf s c).state <;> simp_all

/-- Settles O33: a teardown leaves the job messages alone, and a released context is listed no more. -/
theorem loadUnloadTeardown : Obligations.LoadUnloadTeardown := by
  unfold Obligations.LoadUnloadTeardown
  refine ⟨fun s h0 hm hl hr hu hs hj hn => ?_, fun s h0 => ⟨?_, ?_, ?_, ?_⟩⟩
  · obtain ⟨hmode, htag, htear, hjobs, hstarts, hsram, hwin, hreq⟩ := enterClean_clean s
    refine ⟨exec_teardownComplete h0 hm hl hr hu hs hj hn, hmode, htag, htear, hjobs, hstarts, hreq, fun st off => ?_, fun i => ?_⟩
    · unfold sramByte
      rw [hsram]
      rfl
    · unfold windowOf
      rw [hwin]
      exact windowOf_clearWindows _ i
  · rintro q u c v w ha rfl rfl rfl rfl
    have hload : (takeRequest s q).loading = s.loading := by rw [takeRequest_only]
    rw [← hload]
    refine ⟨fun hm he hl h0 h1 => later_of_act rfl ha (actLoad_begins hm he hl h0 h1),
      fun hm => refused_of_act rfl ha (actLoad_mode hm),
      fun hm hb => refused_of_act rfl ha (actLoad_busy hm hb), ?_⟩
    intro hm he hl hb
    exact refused_of_act rfl ha (actLoad_malformed hm he hl hb)
  · rintro img l u hl rfl
    have he : exec (.loadComplete img) s = execLoadComplete img s := rfl
    rw [he, execLoadComplete, run_up h0, hl]
    dsimp only
    refine ⟨fun n code d hr => ?_, fun m hr hm => ?_⟩
    · rw [hr]
      exact ⟨_, rfl, congrArg Ctx.state (ctxOf_setCtx_self (s := { s with loading := none }) l.slot Ctx.initial), rfl, rfl⟩
    · rw [hr]
      dsimp only
      rw [hm]
  · rintro c q u hc ha rfl
    rw [← ctxOf_takeRequest s q c]
    exact ⟨fun h => ⟨done_of_act rfl ha (actUnload_loaded h), congrArg Ctx.state (ctxOf_modCtx_self _ _)⟩,
      fun h => refused_of_act rfl ha (actUnload_refused h)⟩
  · intro c hs hr
    refine ⟨?_, ctxOf_unlisted (unlisted_releaseCtx s c)⟩
    have he : exec (.unloadComplete c) s = execUnloadComplete c s := rfl
    rw [he, execUnloadComplete, run_up h0, if_pos ⟨hs, hr⟩]

end Sys2Proof.Machine
end

section
/-! PROOFS. Operations that leave the device state alone (13 R417): none of them raises a fault. -/

-- As in the tests: proofs elaborated side by side exhaust memory in the joined text.
set_option Elab.async false

namespace Sys2Proof.Machine

variable {s : State}

theorem mode_of_streams {t : State} (h : Streams s t) : t.mode = s.mode := by rw [h.1]

@[simp] theorem readHost_mode {addr len : Nat} : (readHost s addr len).mode = s.mode := by simp [readHost]
@[simp] theorem sramFill_mode {st off : Nat} {bs : List Byte} : (sramFill s st off bs).mode = s.mode := by simp [sramFill]
@[simp] theorem setStoneFor_mode {c st : Nat} {x : Stone} : (setStoneFor s c st x).mode = s.mode := by simp [setStoneFor]
@[simp] theorem modStoneFor_mode {c st : Nat} {f : Stone → Stone} : (modStoneFor s c st f).mode = s.mode := by simp [modStoneFor]
@[simp] theorem endSlice_mode {c : Nat} : (endSlice s c).mode = s.mode := by simp [endSlice]

@[simp] theorem discardProducts_mode {c : Nat} : (discardProducts s c).mode = s.mode := by
  unfold discardProducts
  exact forEach_mode (fun t a => by simp) _ s

@[simp] theorem cutSlice_mode {c : Nat} : (cutSlice s c).mode = s.mode := by simp [cutSlice]

@[simp] theorem preemptFor_mode {c : Nat} : (preemptFor s c).mode = s.mode := mode_of_settles (settles_preemptFor s c)

@[simp] theorem makeReady_mode {c : Nat} : (makeReady s c).mode = s.mode := by simp [makeReady]
@[simp] theorem noteRunnable_mode {c : Nat} : (noteRunnable s c).mode = s.mode := by simp [noteRunnable]

@[simp] theorem settle_mode {c : Nat} : (settle s c).mode = s.mode := by
  unfold settle
  dsimp only
  split <;> simp

@[simp] theorem stopAt_mode {c st : Nat} : (stopAt s c st).mode = s.mode := by simp [stopAt]
@[simp] theorem carryMgmt_mode {w pos : Nat} : (carryMgmt s w pos).mode = s.mode := by simp [carryMgmt]
@[simp] theorem sendMgmt_mode {pos : Nat} {o : Out} : (sendMgmt s pos o).mode = s.mode := by simp [sendMgmt]
@[simp] theorem countBridge_mode {fromW n : Nat} : (countBridge s fromW n).mode = s.mode := by simp [countBridge]
@[simp] theorem passBytes_mode {v w n : Nat} : (passBytes s v w n).mode = s.mode := by simp [passBytes]
@[simp] theorem loadPass_mode {w off n : Nat} : (loadPass s w off n).mode = s.mode := by simp [loadPass]
@[simp] theorem storePass_mode {w off n : Nat} : (storePass s w off n).mode = s.mode := by simp [storePass]
@[simp] theorem putColl_mode {co : Coll} : (putColl s co).mode = s.mode := by simp [putColl]
@[simp] theorem holdSource_mode {n : Nat} : (holdSource s n).mode = s.mode := by simp [holdSource]
@[simp] theorem stallOn_mode {st : Nat} {w : Stall} : (stallOn s st w).mode = s.mode := by simp [stallOn]
@[simp] theorem nextPc_mode {st : Nat} : (nextPc s st).mode = s.mode := by simp [nextPc]
@[simp] theorem completeNow_mode {st : Nat} {h : IHdr} : (completeNow s st h).mode = s.mode := by simp [completeNow]

@[simp] theorem takeSlot_mode {st kind : Nat} {srcs dsts : List (Nat × Nat)} {h : IHdr} :
    (takeSlot s st kind srcs dsts h).mode = s.mode := by
  simp [takeSlot]

@[simp] theorem freeSlot_mode {st pc kind : Nat} : (freeSlot s st pc kind).mode = s.mode := by simp [freeSlot]
@[simp] theorem freeSubmit_mode {st pc recOff : Nat} : (freeSubmit s st pc recOff).mode = s.mode := by simp [freeSubmit]

@[simp] theorem completeSubmit_mode {st pc recOff : Nat} {sig : Option Nat} : (completeSubmit s st pc recOff sig).mode = s.mode := by
  simp [completeSubmit]

@[simp] theorem completeSlot_mode {st pc kind : Nat} {sig : Option Nat} : (completeSlot s st pc kind sig).mode = s.mode := by
  simp [completeSlot]

@[simp] theorem postResult_mode {c m seq code : Nat} {notify ofYield : Bool} :
    (postResult s c m seq code notify ofYield).mode = s.mode := by
  simp [postResult]

@[simp] theorem endYield_mode {c st : Nat} : (endYield s c st).mode = s.mode := by simp [endYield]

@[simp] theorem finishYield_mode {c : Nat} : (finishYield s c).mode = s.mode := by
  unfold finishYield
  dsimp only
  split
  · split
    · simp [forEach_mode]
    · rfl
  · rfl

@[simp] theorem makePosts_mode {c m : Nat} : (makePosts s c m).mode = s.mode := by
  unfold makePosts
  dsimp only
  split <;> simp

@[simp] theorem makeAllPosts_mode {c : Nat} : (makeAllPosts s c).mode = s.mode := by
  unfold makeAllPosts
  exact forEach_mode (fun t a => by simp) _ s

@[simp] theorem pumpUmora_mode : (pumpUmora s).mode = s.mode := by
  unfold pumpUmora
  split
  · rfl
  · exact forEach_mode (fun t c => by simp) _ _

@[simp] theorem postStep_mode {c : Nat} : (postStep s c).mode = s.mode := by
  unfold postStep
  split
  · rfl
  · exact forEach_mode (fun t p => by simp) _ _

@[simp] theorem clearMailboxes_mode {c : Nat} : (clearMailboxes s c).mode = s.mode := by simp [clearMailboxes]
@[simp] theorem setPoolLevel_mode {p : Nat} {x : Pool} : (setPoolLevel s p x).mode = s.mode := by simp [setPoolLevel]

@[simp] theorem putLink_mode {h next : Nat} : (putLink s h next).mode = s.mode := by
  unfold putLink
  rfl

@[simp] theorem threadList_mode {l : List Nat} : (threadList s l).mode = s.mode := by
  induction s, l using threadList.induct <;> simp_all [threadList]

@[simp] theorem rebuildList_mode {p : Nat} : (rebuildList s p).mode = s.mode := by simp [rebuildList]

theorem dictRefusal_mode {b : Bool} : ({ s with dictRefusal := b } : State).mode = s.mode := rfl

@[simp] theorem noteRefusal_mode {code idx sub path : Nat} : (noteRefusal s code idx sub path).mode = s.mode := by
  unfold noteRefusal
  dsimp only
  rw [mode_ite, dictRefusal_mode, ite_self, setE_mode, count_mode, count_mode]

@[simp] theorem slotWrite_mode {off : Nat} {bs : List Byte} : (slotWrite s off bs).mode = s.mode := by simp [slotWrite]
@[simp] theorem noteAuthority_mode {q : Req} : (noteAuthority s q).mode = s.mode := by simp [noteAuthority]
@[simp] theorem sendRelay_mode {opcode idx sub : Nat} {q : Req} : (sendRelay s opcode idx sub q).mode = s.mode := by simp [sendRelay]
@[simp] theorem takeRequest_mode {q : Req} : (takeRequest s q).mode = s.mode := by simp [takeRequest]
@[simp] theorem endDeferred_mode {idx sub code : Nat} : (endDeferred s idx sub code).mode = s.mode := by simp [endDeferred]

@[simp] theorem stagePiece_mode {m : Dma} {i : Nat} {row : List Byte} : (stagePiece s m i row).mode = s.mode := by
  unfold stagePiece
  split <;> simp

@[simp] theorem modDma_mode {m : Dma} {f : Dma → Dma} : (modDma s m f).mode = s.mode := by simp [modDma]

@[simp] theorem pumpUnit_mode {kind unit n : Nat} :
    (pumpUnit kind unit n s).mode = s.mode := mode_of_streams (streams_pumpUnit kind unit n s)

@[simp] theorem unitRequests_mode {kind unit : Nat} {qs : List OutReq} :
    (unitRequests s kind unit qs).mode = s.mode := mode_of_streams (streams_unitRequests s kind unit qs)

@[simp] theorem beginDma_mode {m : Dma} {stage : Option (BitVec 32)} : (beginDma s m stage).mode = s.mode := by
  unfold beginDma
  simp [forEach_mode]

@[simp] theorem gatherAnswered_mode {lane : Nat} {q : OutReq} {status : Nat} {data : List Byte} :
    (gatherAnswered s lane q status data).mode = s.mode := by
  simp [gatherAnswered]

@[simp] theorem fenceDone_mode {st : Nat} : (fenceDone s st).mode = s.mode := by
  unfold fenceDone
  dsimp only
  split
  · split <;> simp
  · simp

@[simp] theorem stopLate_mode {st : Nat} : (stopLate s st).mode = s.mode := by
  unfold stopLate
  split <;> simp

@[simp] theorem freeRequest_mode {st : Nat} {q : OutReq} : (freeRequest s st q).mode = s.mode := by simp [freeRequest]
@[simp] theorem ledgerAdd_mode {r : MemReq} {old : Nat} : (ledgerAdd s r old).mode = s.mode := by simp [ledgerAdd]
@[simp] theorem hotLine_mode {line : Nat} : (hotLine s line).mode = s.mode := by simp [hotLine]

@[simp] theorem queueRequest_mode {r : MemReq} {phys : Nat} : (queueRequest s r phys).mode = s.mode := by
  unfold queueRequest
  exact forEach_mode (fun t l => hotLine_mode) _ _

@[simp] theorem raiseFetch_mode {c obj cls ord : Nat} : (raiseFetch s c obj cls ord).mode = s.mode := by simp [raiseFetch]

@[simp] theorem feedFetch_mode {w : Nat} : (feedFetch s w).mode = s.mode := by
  unfold feedFetch
  split <;> simp

@[simp] theorem clearDirty_mode {st g : Nat} : (clearDirty s st g).mode = s.mode := by simp [clearDirty]

@[simp] theorem laneRequests_mode {w : Nat} {qs : List OutReq} :
    (laneRequests s w qs).mode = s.mode := mode_of_streams (streams_laneRequests s w qs)

@[simp] theorem discardDirty_mode {c obj : Nat} : (discardDirty s c obj).mode = s.mode := by
  unfold discardDirty
  exact forEach_mode (fun t a => by simp) _ s

@[simp] theorem beginFill_mode {w c obj : Nat} : (beginFill s w c obj).mode = s.mode := by simp [beginFill]

@[simp] theorem beginStream_mode {b c n : Nat} : (beginStream s b c n).mode = s.mode := mode_of_streams (streams_beginStream s b c n)

@[simp] theorem askStreams_mode {c n : Nat} : (askStreams s c n).mode = s.mode := mode_of_streams (streams_askStreams s c n)

@[simp] theorem passTokens_mode {b c n g : Nat} {sh : Share} : (passTokens s b c n g sh).mode = s.mode := by simp [passTokens]

@[simp] theorem moveLookups_mode {t : State} {b : Nat} : (moveLookups s t b).mode = t.mode := rfl

@[simp] theorem fenceRouter_mode {b : Nat} : (fenceRouter s b).mode = s.mode := by
  unfold fenceRouter
  simp [forEach_mode]

@[simp] theorem sendChoices_mode {dest cls target stone : Nat} {cs : List Choice} :
    (sendChoices s dest cls target stone cs).mode = s.mode := by
  unfold sendChoices
  exact forEach_mode (fun t a => by simp) _ s

@[simp] theorem windowAfter_mode {c layer first : Nat} : (windowAfter s c layer first).mode = s.mode := by
  unfold windowAfter
  split <;> simp

@[simp] theorem ensureRun_mode {c layer gen first span : Nat} : (ensureRun s c layer gen first span).mode = s.mode := by
  unfold ensureRun
  split <;> simp

@[simp] theorem pushEntry_mode {a : Admitted} : (pushEntry s a).mode = s.mode := by
  unfold pushEntry
  dsimp only
  split <;> simp

@[simp] theorem modConf_mode {k : TokKey} {f : Conf → Conf} : (modConf s k f).mode = s.mode := by simp [modConf]

@[simp] theorem openGen_mode {bay c g : Nat} : (openGen s bay c g).mode = s.mode := by
  unfold openGen
  split <;> simp

@[simp] theorem unhold_mode {t : Tok} : (unhold s t).mode = s.mode := by simp [unhold]
@[simp] theorem wakeTok_mode {t : Tok} : (wakeTok s t).mode = s.mode := by simp [wakeTok]

@[simp] theorem wakeGens_mode : (wakeGens s).mode = s.mode := by
  unfold wakeGens
  exact forEach_mode (fun t a => by simp) _ s

@[simp] theorem clearGens_mode : (clearGens s).mode = s.mode := by simp [clearGens]

@[simp] theorem countVerdict_mode {st : Nat} : (countVerdict s st).mode = s.mode := by
  unfold countVerdict
  split <;> simp

@[simp] theorem takeEffect_mode {c layer gen : Nat} : (takeEffect s c layer gen).mode = s.mode := by simp [takeEffect]

@[simp] theorem cacheBlock_mode {bay c layer expert : Nat} {b : List Replica} : (cacheBlock s bay c layer expert b).mode = s.mode := by
  simp [cacheBlock]

@[simp] theorem takeClaims_mode {cs : List Claim} : (takeClaims s cs).mode = s.mode := by
  refine forEach_mode (fun t x => ?_) _ s
  dsimp only
  split
  · split <;> simp
  · rfl

@[simp] theorem sendClaims_mode {k : TokKey} : (sendClaims s k).mode = s.mode := by
  unfold sendClaims
  split
  · rfl
  · exact forEach_mode (fun t p => by simp) _ s

@[simp] theorem hotReport_mode {c layer gen : Nat} {xs : List Adm} {cap : Nat} : (hotReport s c layer gen xs cap).mode = s.mode := by
  unfold hotReport
  simp [forEach_mode]

@[simp] theorem endRun_mode {st : Nat} {e : ERun} {hdr : Nat} {es : List Admitted} : (endRun s st e hdr es).mode = s.mode := by
  simp [endRun]

@[simp] theorem endOldRuns_mode {c layer : Nat} : (endOldRuns s c layer).mode = s.mode := by
  unfold endOldRuns
  simp [forEach_mode]

@[simp] theorem modRun_mode {c layer first : Nat} {f : RunSt → RunSt} : (modRun s c layer first f).mode = s.mode := by simp [modRun]

@[simp] theorem setPlaced_mode {c layer expert : Nat} {b : List Replica} : (setPlaced s c layer expert b).mode = s.mode := by
  simp [setPlaced]

@[simp] theorem fillWindow_mode {d : ObjDesc} {bs : List Byte} : (fillWindow s d bs).mode = s.mode := by
  unfold fillWindow
  exact forEach_mode (fun t a => by simp) _ s

@[simp] theorem fillWindowBut_mode {d : ObjDesc} {skip : List (Nat × Nat)} {bs : List Byte} :
    (fillWindowBut s d skip bs).mode = s.mode := by
  unfold fillWindowBut
  exact forEach_mode (fun t a => by simp) _ s

@[simp] theorem rootSend_mode {co : Coll} {i : Nat} {bs : List Byte} : (rootSend s co i bs).mode = s.mode := by simp [rootSend]
@[simp] theorem sendDone_mode {co : Coll} : (sendDone s co).mode = s.mode := by simp [sendDone]

@[simp] theorem sendAgain_mode {co : Coll} {rk msg chunk n : Nat} : (sendAgain s co rk msg chunk n).mode = s.mode := by
  unfold sendAgain
  split <;> simp

@[simp] theorem partialAgain_mode {co : Coll} {chunk n : Nat} : (partialAgain s co chunk n).mode = s.mode := by simp [partialAgain]

@[simp] theorem sendLoose_mode {k : CollKey} {rk msg chunk : Nat} {data : List Byte} : (sendLoose s k rk msg chunk data).mode = s.mode := by
  unfold sendLoose
  split <;> simp

@[simp] theorem takeEnded_mode {e : CollEnd} {msg : Nat} {m : CollMsg} : (takeEnded s e msg m).mode = s.mode := by simp [takeEnded]
@[simp] theorem holdMsg_mode {msg : Nat} {m : CollMsg} : (holdMsg s msg m).mode = s.mode := by simp [holdMsg]
@[simp] theorem abortBarrier_mode {m : CollMsg} : (abortBarrier s m).mode = s.mode := by simp [abortBarrier]

@[simp] theorem abortUnposted_mode {msg : Nat} {m : CollMsg} : (abortUnposted s msg m).mode = s.mode := by
  unfold abortUnposted
  simp [forEach_mode]

@[simp] theorem modMcast_mode {ctx number : Nat} {f : Mcast → Mcast} : (modMcast s ctx number f).mode = s.mode := by simp [modMcast]

@[simp] theorem writeLeg_mode {poster ctx number leg st off : Nat} {crcOk : Bool} {bs : List Byte} :
    (writeLeg s poster ctx number leg st off crcOk bs).1.mode = s.mode := by
  simp [writeLeg]

@[simp] theorem sendLeg_mode {m : Mcast} {i chunk attempt : Nat} {bs : List Byte} : (sendLeg s m i chunk attempt bs).mode = s.mode := by
  unfold sendLeg
  split <;> simp

@[simp] theorem fenceContext_mode {st : Nat} : (fenceContext s st).mode = s.mode := by
  unfold fenceContext
  exact forEach_mode (fun t a => by simp) _ s

@[simp] theorem loadStone_mode {t : ImgStone} {st : Nat} : (loadStone s t st).mode = s.mode := by
  unfold loadStone
  exact forEach_mode (fun t a => by simp) _ s

@[simp] theorem moveWindows_mode {c a b : Nat} : (moveWindows s c a b).mode = s.mode := by
  unfold moveWindows
  exact forEach_mode (fun t a => by simp) _ s

@[simp] theorem remap_mode {c l b : Nat} : (remap s c l b).mode = s.mode := by
  unfold remap
  dsimp only
  split
  · split <;> simp
  · simp

@[simp] theorem refillGranule_mode {st g : Nat} {d : ObjDesc} {kib : Nat} : (refillGranule s st g d kib).mode = s.mode := by
  simp [refillGranule]

@[simp] theorem setTiles_mode {st : Nat} {sparse : Bool} {l : List Tile} : (setTiles s st sparse l).mode = s.mode := by simp [setTiles]
@[simp] theorem injUsed_mode {st : Nat} {sparse : Bool} : (injUsed s st sparse).mode = s.mode := by simp [injUsed]
@[simp] theorem setArray_mode {st : Nat} {sparse : Bool} {x : ArrayRegs} : (setArray s st sparse x).mode = s.mode := by simp [setArray]

@[simp] theorem spoilRun_mode {st : Nat} {dsts : List (Nat × Nat)} {rs : List Nat} : (spoilRun s st dsts rs).mode = s.mode := by
  unfold spoilRun
  simp [forEach_mode]

@[simp] theorem postInc_mode {st : Nat} {o : Operands} {vl : Nat} : (postInc s st o vl).mode = s.mode := by simp [postInc]
@[simp] theorem sendControl_mode {p : Nat} {nak : Bool} : (sendControl s p nak).mode = s.mode := by simp [sendControl]

@[simp] theorem putFrame_mode {p : Nat} {f : Sent} : (putFrame s p f).mode = s.mode := by
  unfold putFrame
  simp [forEach_mode]

@[simp] theorem freeCredits_mode {p : Nat} {q : QItem} : (freeCredits s p q).mode = s.mode := by simp [freeCredits]
@[simp] theorem portEnter_mode {p : Nat} {st : PortState} : (portEnter s p st).mode = s.mode := by simp [portEnter]
@[simp] theorem beginRetrain_mode {p : Nat} : (beginRetrain s p).mode = s.mode := by simp [beginRetrain]
@[simp] theorem sendHello_mode {p : Nat} : (sendHello s p).mode = s.mode := by simp [sendHello]
@[simp] theorem sendNew_mode {p vc : Nat} {b : FrameBody} : (sendNew s p vc b).mode = s.mode := by simp [sendNew]
@[simp] theorem sendDue_mode {p : Nat} : (sendDue s p).mode = s.mode := by simp [sendDue]
@[simp] theorem startRekey_mode {p : Nat} : (startRekey s p).mode = s.mode := by simp [startRekey]
@[simp] theorem rekeyAtLimit_mode {p : Nat} : (rekeyAtLimit s p).mode = s.mode := by simp [rekeyAtLimit]

@[simp] theorem takeKey_mode {p : Nat} {phase : Bool} : (takeKey s p phase).mode = s.mode := by
  unfold takeKey
  dsimp only
  split <;> simp

@[simp] theorem countIn_mode {b : FrameBody} : (countIn s b).mode = s.mode := by
  unfold countIn
  split <;> simp

@[simp] theorem noteDepth_mode {p v : Nat} : (noteDepth s p v).mode = s.mode := by simp [noteDepth]

@[simp] theorem aqDeliver_mode {k inPort : Nat} {e : BitVec 128} {a : AqPacket} : (aqDeliver s k inPort e a).mode = s.mode := by
  simp [aqDeliver]

@[simp] theorem finishEpochStep_mode {x : EpochStep} : (finishEpochStep s x).mode = s.mode := by simp [finishEpochStep]
@[simp] theorem clearWindows_mode : (clearWindows s).mode = s.mode := by simp [clearWindows]
@[simp] theorem loadRecord_mode {slot n code detail : Nat} : (loadRecord s slot n code detail).mode = s.mode := by simp [loadRecord]
@[simp] theorem loadRefused_mode {slot n code detail : Nat} : (loadRefused s slot n code detail).mode = s.mode := by simp [loadRefused]
@[simp] theorem clearLayers_mode {c : Nat} : (clearLayers s c).mode = s.mode := by simp [clearLayers]

@[simp] theorem applyLayers_mode {c : Nat} {i : Image} : (applyLayers s c i).mode = s.mode :=
  forEach_mode (s := clearLayers s c) (fun t _ => forEach_mode (fun _ _ => setC_mode) _ t) _

@[simp] theorem closeRing_mode {c : Nat} : (closeRing s c).mode = s.mode := by simp [closeRing]
@[simp] theorem beginUnload_mode {c : Nat} : (beginUnload s c).mode = s.mode := by simp [beginUnload]

@[simp] theorem dropCtxWork_mode {c : Nat} : (dropCtxWork s c).mode = s.mode := by
  unfold dropCtxWork
  extract_lets mine tags freed keepShare dropWaits dropped
  exact forEach_mode (fun t st => modStone_mode) mine dropped

@[simp] theorem resumed_mode {c : Nat} : (resumed s c).mode = s.mode := by simp [resumed]

@[simp] theorem takeStone_mode {c st : Nat} : (takeStone s c st).mode = s.mode := by
  unfold takeStone
  dsimp only
  split
  · simp
  · split <;> simp

@[simp] theorem reissue_mode {c : Nat} : (reissue s c).mode = s.mode := by
  unfold reissue
  exact forEach_mode (fun t a => by simp) _ s

@[simp] theorem beginSwapOut_mode {c : Nat} : (beginSwapOut s c).mode = s.mode := by simp [beginSwapOut]

@[simp] theorem forgetShares_mode {c : Nat} : (forgetShares s c).mode = s.mode := by
  unfold forgetShares
  exact forEach_mode (fun t a => by simp) _ s

@[simp] theorem saveStones_mode {c : Nat} : (saveStones s c).mode = s.mode := by
  unfold saveStones
  exact forEach_mode (fun t a => by simp) _ s

@[simp] theorem reloadSaved_mode {c : Nat} {g : Nat × Nat} : (reloadSaved s c g).mode = s.mode := by simp [reloadSaved]
@[simp] theorem restoreStone_mode {c st : Nat} : (restoreStone s c st).mode = s.mode := by simp [restoreStone]

@[simp] theorem spoilIntact_mode {c : Nat} : (spoilIntact s c).mode = s.mode := by
  unfold spoilIntact
  simp [forEach_mode]

@[simp] theorem newKey_mode : (newKey s).mode = s.mode := by simp [newKey]
@[simp] theorem setStart_mode {id : Nat} {x : StartState} : (setStart s id x).mode = s.mode := by simp [setStart]

@[simp] theorem takePrepare_mode {v : Nat} {l : List Nat} : (takePrepare s v l).1.mode = s.mode := by
  unfold takePrepare
  split <;> simp

@[simp] theorem commitGroup_mode : (commitGroup s).mode = s.mode := by simp [commitGroup]
@[simp] theorem finishJobStep_mode {x : JobStep} : (finishJobStep s x).mode = s.mode := by simp [finishJobStep]
@[simp] theorem answerUp_mode {second : Bool} {answers : List (Nat × Nat)} : (answerUp s second answers).mode = s.mode := by simp [answerUp]

@[simp] theorem giveAnswers_mode {l : List (Nat × Nat)} : (giveAnswers s l).mode = s.mode := by
  unfold giveAnswers
  dsimp only
  split
  · simp
  · split <;> simp

@[simp] theorem forwardJob_mode {k members op startId rec : Nat} : (forwardJob s k members op startId rec).mode = s.mode := by
  unfold forwardJob
  simp [forEach_mode]

@[simp] theorem clearAqueducts_mode : (clearAqueducts s).mode = s.mode := by
  unfold clearAqueducts
  exact forEach_mode (fun t a => by simp) _ s

@[simp] theorem takeEntry_mode {c : Nat} : (takeEntry s c).mode = s.mode := by simp [takeEntry]

@[simp] theorem addStep_mode {c first : Nat} {desc : Nat → BitVec 256} {posts : List (Nat × Nat × Bool)} :
    (addStep s c first desc posts).mode = s.mode := by
  simp [addStep]

@[simp] theorem markRead_mode {c m : Nat} : (markRead c m s).mode = s.mode := by simp [markRead]

@[simp] theorem resendFlits_mode : (resendFlits s).mode = s.mode := by
  unfold resendFlits
  exact forEach_mode (fun t a => by simp) _ s

@[simp] theorem retrainUmora_mode : (retrainUmora s).mode = s.mode := by simp [retrainUmora]
@[simp] theorem answerFlit_mode {nak : Bool} : (answerFlit s nak).mode = s.mode := by simp [answerFlit]
@[simp] theorem discardFlit_mode : (discardFlit s).mode = s.mode := by simp [discardFlit]
@[simp] theorem takeHeader_mode {f : Flit} : (takeHeader s f).mode = s.mode := by simp [takeHeader]
@[simp] theorem failHostFills_mode : (failHostFills s).mode = s.mode := by simp [failHostFills]
@[simp] theorem tickClock_mode : (tickClock s).mode = s.mode := by simp [tickClock]
@[simp] theorem failProcessor_mode {f : Fault16} : (failProcessor s f).mode = s.mode := by simp [failProcessor]

@[simp] theorem stopParity_mode {f : Fault16} : (stopParity s f).mode = s.mode := by
  unfold stopParity
  split
  · split <;> simp
  · rfl

@[simp] theorem ackRecords_mode {v : Nat} : (ackRecords s v).mode = s.mode := by simp [ackRecords]
@[simp] theorem setPondFault_mode {p v : Nat} : (setPondFault s p v).mode = s.mode := by simp [setPondFault]
@[simp] theorem sendSummary_mode : (sendSummary s).mode = s.mode := by simp [sendSummary]
@[simp] theorem setPending_mode {n : Nat} {v : Bool} : (setPending s n v).mode = s.mode := by simp [setPending]

@[simp] theorem samplePending_mode : (samplePending s).mode = s.mode := by
  unfold samplePending
  exact forEach_mode (fun t a => by simp) _ s

@[simp] theorem endInterrupt_mode {t n : Nat} : (endInterrupt s t n).mode = s.mode := by simp [endInterrupt]
@[simp] theorem startWake_mode : (startWake s).mode = s.mode := by simp [startWake]
@[simp] theorem wakeNow_mode : (wakeNow s).mode = s.mode := by simp [wakeNow]
@[simp] theorem inPowerState_mode {k : Nat} : (inPowerState s k).mode = s.mode := by simp [inPowerState]
@[simp] theorem lockPlls_mode {mask : Nat} : (lockPlls s mask).mode = s.mode := by simp [lockPlls]
@[simp] theorem setInit_mode {b : Nat} : (setInit s b).mode = s.mode := by simp [setInit]

@[simp] theorem countWaits_mode : (countWaits s).mode = s.mode := by
  unfold countWaits
  split
  · rfl
  · exact (forEach_mode (fun t k => countBy_mode) _ _).trans fresh_mode

@[simp] theorem newChallenge_mode : (newChallenge s).mode = s.mode := by simp [newChallenge]

@[simp] theorem markStale_mode : (markStale s).mode = s.mode := by
  unfold markStale
  exact forEach_mode (fun t a => by simp) _ s

@[simp] theorem afterRole_mode {was : Bool} : (afterRole was s).mode = s.mode := by simp [afterRole]
@[simp] theorem afterRead_mode {idx sub : Nat} {q : Req} : (afterRead idx sub q s).mode = s.mode := by simp [afterRead]

@[simp] theorem slotAreaWrite_mode {offset width value : Nat} : (slotAreaWrite s offset width value).mode = s.mode := by
  simp [slotAreaWrite]

end Sys2Proof.Machine
end

section
/-! PROOFS. Operations that move the device state by a fault at most, and to Faulted alone (13 R417, R419): faults at the plumb, issue
of an instruction, the sequencer and the buffers. -/

-- As in the tests: proofs elaborated side by side exhaust memory in the joined text.
set_option Elab.async false

namespace Sys2Proof.Machine

variable {μ : Mode} {s : State}

/-- The device state is as it was, or the part has left a state other than Dormant for Faulted (13 R419). -/
def Stays (m x : Mode) : Prop := x = m ∨ (m ≠ .dormant ∧ x = .faulted)

@[simp] theorem stays_self : Stays μ μ := .inl rfl

theorem Stays.trans {x y : Mode} (h : Stays μ x) (g : Stays x y) : Stays μ y := by
  rcases h with rfl | ⟨hd, rfl⟩
  · exact g
  · rcases g with rfl | ⟨-, rfl⟩ <;> exact .inr ⟨hd, rfl⟩

@[simp] theorem stays_ite {c : Prop} [Decidable c] {x y : Mode} :
    Stays μ (if c then x else y) ↔ if c then Stays μ x else Stays μ y := by split <;> rfl

theorem stays_forEach {α : Type} {f : State → α → State} {l : List α} (hm : Stays μ s.mode)
    (hf : ∀ t a, Stays t.mode (f t a).mode) : Stays μ (forEach s l f).mode := by
  unfold forEach
  induction l generalizing s with
  | nil => exact hm
  | cons a l ih => exact ih (hm.trans (hf s a))

/-- The device state after a command, where it has a next state. -/
def ResStays (μ : Mode) : Res → Prop
  | .next t => Stays μ t.mode
  | _ => True

@[simp] theorem resStays_next : ResStays μ (.next s) ↔ Stays μ s.mode := .rfl

@[simp] theorem resStays_run {f : State → State} (hm : Stays μ s.mode) (hf : Stays μ (f s).mode) : ResStays μ (run s f) := by
  unfold run
  simp [hm, hf]

theorem pondWrite_mode {a : Nat} {bs : List Byte} {t : State} (e : pondWrite s a bs = some t) : t.mode = s.mode := by
  unfold pondWrite at e
  split at e
  · cases e
  · split at e
    · obtain ⟨p, -, rfl⟩ := Option.map_eq_some_iff.1 e
      exact memWrite_mode s p bs
    · cases e
      rfl

@[simp] theorem enterFaulted_stays (hm : Stays μ s.mode) : Stays μ (enterFaulted s).mode := by
  by_cases hd : s.mode = .dormant
  · rw [enterFaulted_of_faulted (.inl hd)]
    exact hm
  · exact hm.trans (.inr ⟨hd, enterFaulted_mode hd⟩)

@[simp] theorem raise_stays {fs : List Fault16} (hm : Stays μ s.mode) : Stays μ (raise s fs).mode := by simp [raise, hm]

@[simp] theorem raise1_stays {cls cause kind unit : Nat} {ctx : Option Nat} {detail : Nat} (hm : Stays μ s.mode) :
    Stays μ (raise1 s cls cause kind unit ctx detail).mode := by
  simp [raise1, hm]

@[simp] theorem stoneFault_stays {cls cause st detail : Nat} (hm : Stays μ s.mode) : Stays μ (stoneFault s cls cause st detail).mode := by
  simp [stoneFault, hm]

@[simp] theorem stoneFaults_stays {cls cause st detail n : Nat} (hm : Stays μ s.mode) :
    Stays μ (stoneFaults s cls cause st detail n).mode := by
  unfold stoneFaults
  exact stays_forEach hm fun t _ => by simp

@[simp] theorem failStone_stays {st cause : Nat} (hm : Stays μ s.mode) : Stays μ (failStone s st cause).mode := by
  unfold failStone
  dsimp only
  refine raise1_stays ?_
  split <;> simp [hm]

@[simp] theorem errSync_stays {st j : Nat} (hm : Stays μ s.mode) : Stays μ (errSync s st j).mode := by
  unfold errSync
  dsimp only
  split
  · split <;> simp -implicitDefEqProofs [hm]
  · simp [hm]

@[simp] theorem issue_stays {st : Nat} {ok : Bool} {srcs dsts : List (Nat × Nat)} {k : State → State}
    (hm : Stays μ s.mode) (hk : ∀ t, Stays t.mode (k t).mode) :
    Stays μ (issue s st ok srcs dsts k).mode := by
  unfold issue
  split
  · exact hm
  · split
    · exact failStone_stays hm
    · split
      · simp [hm]
      · exact hm.trans (hk (modStone s st _))

theorem execHalt_stays {st : Nat} {h : IHdr} {o : Operands} (hm : Stays μ s.mode) : ResStays μ (execHalt st h o s) := by simp [execHalt, hm]

theorem execBranch_stays {st : Nat} {h : IHdr} {o : Operands} (hm : Stays μ s.mode) : ResStays μ (execBranch st h o s) := by
  simp [execBranch, hm]

theorem execLoopSet_stays {st : Nat} {h : IHdr} {o : Operands} (hm : Stays μ s.mode) : ResStays μ (execLoopSet st h o s) := by
  simp [execLoopSet, hm]

theorem execLoopBack_stays {st : Nat} {h : IHdr} {o : Operands} (hm : Stays μ s.mode) : ResStays μ (execLoopBack st h o s) := by
  simp [execLoopBack, hm]

theorem execYield_stays {st : Nat} {h : IHdr} {o : Operands} (hm : Stays μ s.mode) : ResStays μ (execYield st h o s) := by
  unfold execYield
  refine resStays_run hm (issue_stays hm fun t => ?_)
  dsimp only
  split <;> simp

theorem execStepMark_stays {st : Nat} {h : IHdr} {o : Operands} (hm : Stays μ s.mode) : ResStays μ (execStepMark st h o s) := by
  simp [execStepMark, hm]

theorem execNpBegin_stays {st : Nat} {h : IHdr} {o : Operands} (hm : Stays μ s.mode) : ResStays μ (execNpBegin st h o s) := by
  simp [execNpBegin, hm]

theorem execNpEnd_stays {st : Nat} {h : IHdr} {o : Operands} (hm : Stays μ s.mode) : ResStays μ (execNpEnd st h o s) := by
  simp [execNpEnd, hm]

theorem execSetVl_stays {st : Nat} {h : IHdr} {o : Operands} (hm : Stays μ s.mode) : ResStays μ (execSetVl st h o s) := by
  simp [execSetVl, hm]

theorem execSetReg_stays {st : Nat} {h : IHdr} {o : Operands} (hm : Stays μ s.mode) : ResStays μ (execSetReg st h o s) := by
  simp [execSetReg, hm]

theorem execRegionOverrun_stays {st : Nat} (hm : Stays μ s.mode) : ResStays μ (execRegionOverrun st s) := by
  simp -implicitDefEqProofs [execRegionOverrun, hm]

@[simp] theorem popFailed_stays {p : Nat} (hm : Stays μ s.mode) : Stays μ (popFailed s p).mode := by simp [popFailed, hm]

@[simp] theorem grantFrom_stays {p owner refs : Nat} (hm : Stays μ s.mode) : Stays μ (grantFrom s p owner refs).1.mode := by
  simp [grantFrom, hm]

@[simp] theorem grantTry_stays {owner refs : Nat} {l : List Nat} (hm : Stays μ s.mode) : Stays μ (grantTry owner refs s l).1.mode := by
  induction l generalizing s with
  | nil => exact hm
  | cons p l ih =>
    have hg := grantFrom_stays (s := s) (p := p) (owner := owner) (refs := refs) hm
    unfold grantTry
    split
    · simp_all
    · exact ih (by simp_all)

@[simp] theorem takeBuffer_stays {bay owner size refs : Nat} {op : WaitOp} (hm : Stays μ s.mode) :
    Stays μ (takeBuffer s bay owner size refs op).1.mode := by
  have hg := grantTry_stays (owner := owner) (refs := refs) (l := poolsFor s bay owner size) hm
  unfold takeBuffer
  dsimp only
  split <;> simp_all

@[simp] theorem testBay_stays {bay : Nat} (hm : Stays μ s.mode) : Stays μ (testBay s bay).mode := by simp [testBay, hm]

@[simp] theorem dropRef_stays {h : Nat} (hm : Stays μ s.mode) : Stays μ (dropRef s h).mode := by simp -implicitDefEqProofs [dropRef, hm]

@[simp] theorem releaseBuffer_stays {h : BitVec 32} (hm : Stays μ s.mode) : Stays μ (releaseBuffer s h).1.mode := by
  simp -implicitDefEqProofs [releaseBuffer, hm]

@[simp] theorem release_stays {h : BitVec 32} (hm : Stays μ s.mode) : Stays μ (release s h).mode := by simp [release, hm]

@[simp] theorem endRebuild_stays {pool : Nat} (hm : Stays μ s.mode) : Stays μ (endRebuild s pool).mode := by
  unfold endRebuild
  simp [stays_forEach, hm]

theorem execListRebuildComplete_stays {pool : Nat} (hm : Stays μ s.mode) : ResStays μ (execListRebuildComplete pool s) := by
  simp [execListRebuildComplete, hm]

@[simp] theorem retireBuffers_stays {st : Nat} {freeBefore : List (Nat × Nat)} (hm : Stays μ s.mode) :
    Stays μ (retireBuffers s st freeBefore).mode := by
  unfold retireBuffers
  simp -implicitDefEqProofs [stays_forEach, hm]

end Sys2Proof.Machine
end

section
/-! PROOFS. Operations that move the device state by a fault at most, and to Faulted alone (13 R417, R419): the service of dictionary
requests, and the starts and ends of DMA descriptors. -/

-- As in the tests: proofs elaborated side by side exhaust memory in the joined text.
set_option Elab.async false

namespace Sys2Proof.Machine

variable {μ : Mode} {s : State}

theorem poolCommit_mode {t : State} (e : poolCommit s = .ok t) : t.mode = s.mode := by
  unfold poolCommit at e
  extract_lets ps us legal apart u at e
  split at e
  · cases e
  · split at e
    · cases e
      rw [setE_mode]
      exact forEach_mode (fun t p => rebuildList_mode) _ u
    · cases e

@[simp] theorem endRingCommand_mode {c code : Nat} : (endRingCommand s c code).mode = s.mode := by
  unfold endRingCommand
  dsimp only
  split <;> simp

@[simp] theorem respond_mode {q : Req} {idx sub code len value : Nat} : (respond s q idx sub code len value).mode = s.mode := by
  unfold respond
  split
  · simp -implicitDefEqProofs
  · split
    · simp -implicitDefEqProofs
    · split
      · split <;> simp -implicitDefEqProofs
      · simp -implicitDefEqProofs

@[simp] theorem refuse_mode {q : Req} {idx sub code : Nat} : (refuse s q idx sub code).mode = s.mode := by
  simp -implicitDefEqProofs [refuse]

theorem serveFront_mode {opcode idx sub : Nat} {q : Req} {step3 : Option Nat} {body : State → State} :
    (serveFront opcode idx sub q step3 body s).mode = s.mode ∨
      ∃ t, t.mode = s.mode ∧ (serveFront opcode idx sub q step3 body s).mode = (body t).mode := by
  unfold serveFront
  extract_lets counted taken
  have ht : taken.mode = s.mode := takeRequest_mode
  split
  · exact .inl rfl
  · split
    · exact .inl (by dsimp only; split <;> simp [counted])
    · split
      · exact .inl (refuse_mode.trans ht)
      · split
        · exact .inl (refuse_mode.trans ht)
        · split
          · exact .inl (refuse_mode.trans ht)
          · split
            · exact .inl (refuse_mode.trans ht)
            · split
              · exact .inl (by simp [ht])
              · exact .inr ⟨taken, ht, rfl⟩

theorem writeBody_mode {e : Entry} {idx sub : Nat} {q : Req} {act : State → Act} :
    (writeBody e idx sub q act s).mode = s.mode ∨ (writeBody e idx sub q act s).mode = (act s).state.mode := by
  unfold writeBody
  split
  · exact .inl (by simp)
  · split
    · exact .inl refuse_mode
    · split
      · exact .inl refuse_mode
      · refine .inr ?_
        split <;> simp_all

theorem serveWrite_mode {idx sub : Nat} {q : Req} {act : State → Act} :
    (serveWrite idx sub q act s).mode = s.mode ∨ ∃ t, t.mode = s.mode ∧ (serveWrite idx sub q act s).mode = (act t).state.mode := by
  unfold serveWrite
  rcases serveFront_mode (s := s) with h | ⟨t, ht, h⟩
  · exact .inl h
  · rw [h]
    split
    · rcases writeBody_mode (s := t) with hb | hb
      · exact .inl (hb.trans ht)
      · exact .inr ⟨t, ht, hb⟩
    · exact .inl ht

@[simp] theorem giveData_mode {q : Req} {idx sub len value : Nat} : (giveData s q idx sub len value).mode = s.mode := by
  simp -implicitDefEqProofs [giveData]

theorem readBody_mode {e : Entry} {idx sub : Nat} {q : Req} {value : State → Nat} {after : State → State} :
    (readBody e idx sub q value after s).mode = s.mode ∨ (readBody e idx sub q value after s).mode = (after s).mode := by
  unfold readBody
  split
  · exact .inl (by simp)
  · split
    · exact .inl refuse_mode
    · split
      · exact .inl refuse_mode
      · split
        · exact .inl refuse_mode
        · exact .inr giveData_mode

theorem serveRead_mode {idx sub : Nat} {q : Req} {value : State → Nat} {after : State → State} (ha : ∀ t, (after t).mode = t.mode) :
    (serveRead idx sub q value after s).mode = s.mode := by
  unfold serveRead
  rcases serveFront_mode (s := s) with h | ⟨t, ht, h⟩
  · exact h
  · rw [h]
    split
    · rcases readBody_mode (s := t) with hb | hb
      · exact hb.trans ht
      · exact hb.trans ((ha t).trans ht)
    · exact ht

@[simp] theorem serveDescribe_mode {idx sub : Nat} {q : Req} : (serveDescribe idx sub q s).mode = s.mode := by
  rcases serveFront_mode (s := s) with h | ⟨t, ht, h⟩
  · exact h
  · refine h.trans ?_
    split
    · exact ht
    · split
      · simp [ht]
      · simp [ht]

@[simp] theorem serveNext_mode {idx sub : Nat} {q : Req} : (serveNext idx sub q s).mode = s.mode := by
  rcases serveFront_mode (s := s) with h | ⟨t, ht, h⟩
  · exact h
  · exact h.trans (by simp [ht])

@[simp] theorem serveWrite_stays {idx sub : Nat} {q : Req} {act : State → Act}
    (hm : Stays μ s.mode) (ha : ∀ t, Stays t.mode (act t).state.mode) :
    Stays μ (serveWrite idx sub q act s).mode := by
  rcases serveWrite_mode (s := s) with h | ⟨t, ht, h⟩
  · exact h ▸ hm
  · rw [← ht] at hm
    exact h ▸ hm.trans (ha t)

@[simp] theorem actStore_stays {idx sub : Nat} {q : Req} (hm : Stays μ s.mode) : Stays μ (actStore idx sub q s).state.mode := by
  simp [actStore, hm]

@[simp] theorem dropDma_stays {m : Dma} (hm : Stays μ s.mode) : Stays μ (dropDma s m).mode := by
  unfold dropDma
  dsimp only
  split
  · exact release_stays hm
  · exact hm

@[simp] theorem dmaError_stays {m : Dma} (hm : Stays μ s.mode) : Stays μ (dmaError s m).mode := by
  unfold dmaError
  exact raise1_stays (by simp -implicitDefEqProofs [hm])

@[simp] theorem endDma_stays {m : Dma} (hm : Stays μ s.mode) : Stays μ (endDma s m).mode := by
  unfold endDma
  have hd : Stays μ (dropDma s m).mode := dropDma_stays hm
  simp -implicitDefEqProofs [hd]

@[simp] theorem windowMiss_stays {off : Nat} (hm : Stays μ s.mode) : Stays μ (windowMiss s off).mode := by
  simp -implicitDefEqProofs [windowMiss, hm]

@[simp] theorem localMiss_stays {a n : Nat} {right : BitVec 128 → Bool} (hm : Stays μ s.mode) : Stays μ (localMiss s a n right).mode := by
  simp [localMiss, hm]

@[simp] theorem startDma_stays {st : Nat} (hm : Stays μ s.mode) : Stays μ (startDma s st).mode := by
  unfold startDma
  split
  · exact hm
  · rename_i d hd
    have hb := takeBuffer_stays (bay := bayOf st) (owner := 2) (size := 4096) (refs := 1) (op := .dma st) hm
    split
    · exact hm
    · split
      · split <;> simp_all
      · simp [hm]

@[simp] theorem stageDma_stays {st h : Nat} (hm : Stays μ s.mode) : Stays μ (stageDma s st h).mode := by
  unfold stageDma
  split <;> simp [hm]

@[simp] theorem dmaAnswered_stays {course : Nat} {q : OutReq} {status : Nat} {data : List Byte} (hm : Stays μ s.mode) :
    Stays μ (dmaAnswered s course q status data).mode := by
  unfold dmaAnswered
  split
  · exact hm
  · extract_lets k x dropped waited n taken
    have ht : Stays μ taken.mode := hm
    split
    · exact startDma_stays (endDma_stays ht)
    · exact ht

@[simp] theorem storeRefused_stays {key a : Nat} (hm : Stays μ s.mode) : Stays μ (storeRefused s key a).mode := by
  simp -implicitDefEqProofs [storeRefused, hm]

end Sys2Proof.Machine
end

section
/-! PROOFS. Operations that move the device state by a fault at most, and to Faulted alone (13 R417, R419): memory requests, at their
sender and at their home. -/

-- As in the tests: proofs elaborated side by side exhaust memory in the joined text.
set_option Elab.async false

namespace Sys2Proof.Machine

variable {μ : Mode} {s : State}

@[simp] theorem millraceAnswered_stays {lane : Nat} {q : OutReq} {status : Nat} {data : List Byte} (hm : Stays μ s.mode) :
    Stays μ (millraceAnswered s lane q status data).mode := by
  simp [millraceAnswered, hm]

@[simp] theorem managementAnswered_stays {q : OutReq} {status : Nat} (hm : Stays μ s.mode) :
    Stays μ (managementAnswered s q status).mode := by
  simp [managementAnswered, hm]

@[simp] theorem completeReq_stays {kind unit : Nat} {q : OutReq} {status : Nat} {data : List Byte} (hm : Stays μ s.mode) :
    Stays μ (completeReq s kind unit q status data).mode := by
  unfold completeReq
  extract_lets k x freed counted given owner noted written
  have hc : Stays μ counted.mode := by
    unfold counted
    split <;> exact hm
  have hw : Stays μ written.mode := by
    unfold written
    split <;> simpa using hc
  split
  · simp [hc]
  · split
    · simp [hc]
    · split
      · simp [hc]
      · split
        · exact hc
        · split
          · simp +zetaDelta -implicitDefEqProofs [hm]
          · simp [hw]

@[simp] theorem takeResponse_stays {r : MemResp} (hm : Stays μ s.mode) : Stays μ (takeResponse s r).mode := by
  unfold takeResponse
  split <;> simp [hm]

@[simp] theorem answer_stays {r : MemReq} {status : Nat} {replayed : Bool} {data : List Byte} {wythe : Nat} (hm : Stays μ s.mode) :
    Stays μ (answer s r status replayed data wythe).mode := by
  simp [answer, hm]

@[simp] theorem deliverSignal_stays {st obj n : Nat} (hm : Stays μ s.mode) : Stays μ (deliverSignal s st obj n).mode := by
  have hdrop : Stays μ (raise1 (count s 0xA040 0x03) 0 0x0A 0 st (stoneOf s st).owner 0).mode := raise1_stays hm
  unfold deliverSignal
  dsimp only
  split
  · exact hdrop
  · split
    · simp [hm]
    · split
      · split <;> simp [hm]
      · exact hdrop

@[simp] theorem windowFault_stays {r : MemReq} (hm : Stays μ s.mode) : Stays μ (windowFault s r).mode := by simp [windowFault, hm]

@[simp] theorem exactlyOnce_stays {r : MemReq} {phys : Nat} {ledgerOk : Bool} {k : State → State}
    (hm : Stays μ s.mode) (hk : Stays μ (k s).mode) :
    Stays μ (exactlyOnce s r phys ledgerOk k).mode := by
  unfold exactlyOnce
  split
  · exact answer_stays (raise1_stays hm)
  · split
    · exact answer_stays hm
    · split
      · exact answer_stays hm
      · split
        · exact hm
        · exact hk

@[simp] theorem performSignal_stays {r : MemReq} (hm : Stays μ s.mode) : Stays μ (performSignal s r).mode := by simp [performSignal, hm]

@[simp] theorem atHome_stays {r : MemReq} {ledgerOk : Bool} (hm : Stays μ s.mode) : Stays μ (atHome s r ledgerOk).mode := by
  unfold atHome
  split
  · simp [hm]
  · split <;> simp [hm]

@[simp] theorem finishHome_stays {h : HomeReq} {wythe : Nat} (hm : Stays μ s.mode) : Stays μ (finishHome s h wythe).mode := by
  simp [finishHome, hm]

@[simp] theorem tooLate_stays {h : HomeReq} {wythe : Nat} (hm : Stays μ s.mode) : Stays μ (tooLate s h wythe).mode := by simp [tooLate, hm]

@[simp] theorem performAtomic_stays {r : MemReq} {phys : Nat} (hm : Stays μ s.mode) : Stays μ (performAtomic s r phys).mode := by
  simp [performAtomic, hm]

@[simp] theorem sendRequest_stays {wythe : Nat} {r : MemReq} {dest : Nat} (hm : Stays μ s.mode) :
    Stays μ (sendRequest s wythe r dest).mode := by
  simp [sendRequest, hm]

@[simp] theorem issueRequest_stays {st op dest : Nat} {lake : Bool} {off n : Nat} {payload : List Byte} {dst : Option Nat}
    {width pc : Nat} {sig : Option Nat} {target : Nat} (hm : Stays μ s.mode) :
    Stays μ (issueRequest s st op dest lake off n payload dst width pc sig target).mode := by
  unfold issueRequest
  dsimp only
  split <;> simp -implicitDefEqProofs [hm]

@[simp] theorem memIssue_stays {st : Nat} {ok : Bool} {srcs dsts : List (Nat × Nat)} {k : State → State}
    (hm : Stays μ s.mode) (hk : ∀ t, Stays t.mode (k t).mode) :
    Stays μ (memIssue s st ok srcs dsts k).mode := by
  unfold memIssue
  refine issue_stays hm fun t => ?_
  split
  · simp
  · exact hk t

theorem execMemoryLoad_stays {st : Nat} {h : IHdr} {o : Operands} (hm : Stays μ s.mode) : ResStays μ (execMemoryLoad st h o s) := by
  unfold execMemoryLoad
  refine resStays_run hm (memIssue_stays hm fun t => ?_)
  simp

theorem execMemoryFence_stays {st : Nat} {h : IHdr} {o : Operands} (hm : Stays μ s.mode) : ResStays μ (execMemoryFence st h o s) := by
  simp [execMemoryFence, hm]

theorem execMemoryRequestAtHome_stays {r : MemReq} {ledgerOk : Bool} (hm : Stays μ s.mode) :
    ResStays μ (execMemoryRequestAtHome r ledgerOk s) := by
  simp [execMemoryRequestAtHome, hm]

@[simp] theorem linePass_mode {q : LineReq} {n : Nat}
    {pass : State → Nat → Nat → Nat → State} (hp : ∀ t a b c, (pass t a b c).mode = t.mode) :
    (linePass s q n pass).mode = s.mode := by
  unfold linePass
  split
  · exact hp _ _ _ _
  · rfl

@[simp] theorem performLine_stays {q : LineReq} {h : HomeReq} {readOk : Bool} (hm : Stays μ s.mode) :
    Stays μ (performLine s q h readOk).mode := by
  unfold performLine
  split <;> simp -implicitDefEqProofs [hm]

@[simp] theorem performAtomicLine_stays {q : LineReq} {h : HomeReq} {readOk : Bool} (hm : Stays μ s.mode) :
    Stays μ (performAtomicLine s q h readOk).mode := by
  unfold performAtomicLine
  refine exactlyOnce_stays hm ?_
  dsimp only
  split
  · exact performAtomic_stays (by simpa using hm)
  · exact answer_stays (by simpa using hm)

theorem execLineRequestPerformed_stays {line : Nat} {readOk : Bool} (hm : Stays μ s.mode) :
    ResStays μ (execLineRequestPerformed line readOk s) := by
  unfold execLineRequestPerformed
  refine resStays_run hm ?_
  dsimp only
  split
  · simp [hm]
  · split <;> simp [hm]

theorem execMemoryResponse_stays {r : MemResp} (hm : Stays μ s.mode) : ResStays μ (execMemoryResponse r s) := by
  simp [execMemoryResponse, hm]

theorem execAttemptTimeoutExpiry_stays {unitKind unit slot : Nat} (hm : Stays μ s.mode) :
    ResStays μ (execAttemptTimeoutExpiry unitKind unit slot s) := by
  unfold execAttemptTimeoutExpiry
  refine resStays_run hm ?_
  dsimp only
  split
  · exact hm
  · simp -implicitDefEqProofs [hm]

theorem execLedgerEntryExpiry_stays {srcPkg unitKind unit seq : Nat} (hm : Stays μ s.mode) :
    ResStays μ (execLedgerEntryExpiry srcPkg unitKind unit seq s) := by
  unfold execLedgerEntryExpiry
  refine resStays_run hm ?_
  dsimp only
  split
  · simp [hm]
  · split
    · simp [hm]
    · split <;> simp [hm]

end Sys2Proof.Machine
end

section
/-! PROOFS. Operations that move the device state by a fault at most, and to Faulted alone (13 R417, R419): the windows of the
millrace, the paged KV cache and the sync objects. -/

-- As in the tests: proofs elaborated side by side exhaust memory in the joined text.
set_option Elab.async false

namespace Sys2Proof.Machine

variable {μ : Mode} {s : State}

@[simp] theorem passPieces_mode {w a n : Nat} {right : BitVec 128 → Bool}
    {k : State → Nat → Nat → Nat → State} (hk : ∀ t a b c, (k t a b c).mode = t.mode) :
    (passPieces s w a n right k).mode = s.mode := by
  refine forEach_mode (fun t p => ?_) _ s
  split
  · exact hk _ _ _ _
  · rfl

@[simp] theorem pondStore_stays {a : Nat} {bs : List Byte} (hm : Stays μ s.mode) : Stays μ (pondStore s a bs).mode := by
  unfold pondStore
  split
  · simp [hm]
  · split
    · exact pondWrite_mode ‹_› ▸ hm
    · exact localMiss_stays hm

@[simp] theorem toHome_stays {c obj : Nat} {d : ObjDesc} {off : Nat} {bs : List Byte} (hm : Stays μ s.mode) :
    Stays μ (toHome s c obj d off bs).mode := by
  unfold toHome
  dsimp only
  split
  · exact hm
  · split
    · simp [hm]
    · split
      · rename_i t ht
        rw [passPieces_mode fun _ _ _ _ => storePass_mode, pondWrite_mode ht]
        exact hm
      · exact storeRefused_stays (localMiss_stays hm)

@[simp] theorem writeBack_stays {c obj : Nat} (hm : Stays μ s.mode) : Stays μ (writeBack s c obj).mode := by
  unfold writeBack
  extract_lets d gs written
  split
  · exact hm
  · exact (stays_forEach hm fun t g => by simp : Stays μ written.mode)

@[simp] theorem evictOccupant_stays {o : Nat × Nat} (hm : Stays μ s.mode) : Stays μ (evictOccupant s o).mode := by simp [evictOccupant, hm]

theorem execFillStart_stays {wythe ctx obj : Nat} (hm : Stays μ s.mode) : ResStays μ (execFillStart wythe ctx obj s) := by
  unfold execFillStart
  refine resStays_run hm ?_
  split
  · exact hm
  · dsimp only
    split
    · exact hm
    · split
      · simpa using hm
      · rw [beginFill_mode]
        exact stays_forEach (by simpa using hm) fun t o => by simp

@[simp] theorem placeObject_stays {c n : Nat} {rings : State → Nat → List (Nat × Nat × Nat)}
    {replicasOk : State → Nat → List (Nat × ObjDesc) → Bool} (hm : Stays μ s.mode) :
    Stays μ (placeObject c n rings replicasOk s).state.mode := by
  simp [placeObject, hm]

@[simp] theorem flushObject_stays {c n : Nat} (hm : Stays μ s.mode) : Stays μ (flushObject c n s).state.mode := by simp [flushObject, hm]

@[simp] theorem actFlushObject_stays {q : Req} (hm : Stays μ s.mode) : Stays μ (actFlushObject q s).state.mode := by
  simp [actFlushObject, hm]

theorem execFlushObject_stays {q : Req} (hm : Stays μ s.mode) : ResStays μ (execFlushObject q s) := by
  unfold execFlushObject
  refine resStays_run hm ?_
  simp [hm]

@[simp] theorem pondPut_stays {a n v : Nat} (hm : Stays μ s.mode) : Stays μ (pondPut s a n v).mode := by simp [pondPut, hm]

@[simp] theorem kvStore_stays {st a : Nat} {bs : List Byte} (hm : Stays μ s.mode) : Stays μ (kvStore s st a bs).mode := by
  simp [kvStore, hm]

theorem kvTake_stays {t : State} {c d n : Nat} (hm : Stays μ s.mode) (e : kvTake s c d = some (t, n)) : Stays μ t.mode := by
  unfold kvTake at e
  dsimp only at e
  split at e
  · cases e
  · split at e
    · cases e
    · split at e
      · cases e
      · cases e
        exact pondPut_stays hm

@[simp] theorem kvPut_stays {c st i pos off : Nat} {bs : List Byte} (hm : Stays μ s.mode) : Stays μ (kvPut s c st i pos off bs).1.mode := by
  unfold kvPut
  split
  · exact hm
  · rename_i d _
    by_cases hp : pos < kvWatermark d
    · rw [if_pos hp]
      dsimp only
      exact raise1_stays hm
    · rw [if_neg hp]
      dsimp only
      split
      · exact hm
      · split
        · exact kvStore_stays hm
        · split
          · exact hm
          · exact kvStore_stays (pondPut_stays (kvTake_stays hm ‹_›))

theorem execKvWrite_stays {st stream pos off : Nat} {bytes : List Byte} (hm : Stays μ s.mode) :
    ResStays μ (execKvWrite st stream pos off bytes s) := by
  unfold execKvWrite
  refine resStays_run hm ?_
  split
  · exact hm
  · rename_i c hc
    have hp := kvPut_stays (c := c) (st := st) (i := stream) (pos := pos) (off := off) (bs := bytes) hm
    split <;> simp_all

@[simp] theorem kvRetry_stays {c : Nat} (hm : Stays μ s.mode) : Stays μ (kvRetry s c).mode := by
  unfold kvRetry
  refine stays_forEach hm fun t w => ?_
  have hp := kvPut_stays (c := c) (st := w.stone) (i := w.stream) (pos := w.pos) (off := w.off) (bs := w.bytes)
    (stays_self (μ := t.mode))
  split
  · simp_all
  · exact stays_self

@[simp] theorem actKvPoolTail_stays {q : Req} (hm : Stays μ s.mode) : Stays μ (actKvPoolTail q s).state.mode := by
  unfold actKvPoolTail
  dsimp only
  split <;> simp [hm]

theorem execKvPoolTail_stays {q : Req} (hm : Stays μ s.mode) : ResStays μ (execKvPoolTail q s) := by
  unfold execKvPoolTail
  refine resStays_run hm ?_
  simp [hm]

theorem kvAdvance_stays {t : State} {c i w : Nat} (hm : Stays μ s.mode) (e : kvAdvance s c i w = some t) : Stays μ t.mode := by
  unfold kvAdvance at e
  split at e
  · cases e
    exact hm
  · split at e
    · cases e
    · cases e
      refine pondPut_stays (stays_forEach hm fun t p => ?_)
      split <;> simp

@[simp] theorem actSetWatermark_stays {q : Req} (hm : Stays μ s.mode) : Stays μ (actSetWatermark q s).state.mode := by
  unfold actSetWatermark
  dsimp only
  split
  · exact hm
  · split
    · exact kvAdvance_stays hm ‹_›
    · exact hm

theorem execSetWatermark_stays {q : Req} (hm : Stays μ s.mode) : ResStays μ (execSetWatermark q s) := by
  unfold execSetWatermark
  refine resStays_run hm ?_
  simp [hm]

@[simp] theorem kvGive_stays {c stream page : Nat} (hm : Stays μ s.mode) : Stays μ (kvGive s c stream page).mode := by
  unfold kvGive
  dsimp only
  split <;> simp [hm]

@[simp] theorem actReleaseProvisional_stays {q : Req} (hm : Stays μ s.mode) : Stays μ (actReleaseProvisional q s).state.mode := by
  unfold actReleaseProvisional
  dsimp only
  split
  · exact hm
  · split
    · exact hm
    · refine kvRetry_stays (stays_forEach hm fun t p => ?_)
      split <;> simp

theorem execReleaseProvisional_stays {q : Req} (hm : Stays μ s.mode) : ResStays μ (execReleaseProvisional q s) := by
  unfold execReleaseProvisional
  refine resStays_run hm ?_
  simp [hm]

theorem execSyncSet_stays {st : Nat} {h : IHdr} {o : Operands} (hm : Stays μ s.mode) : ResStays μ (execSyncSet st h o s) := by
  simp [execSyncSet, hm]

theorem execSyncAdd_stays {st : Nat} {h : IHdr} {o : Operands} (hm : Stays μ s.mode) : ResStays μ (execSyncAdd st h o s) := by
  simp [execSyncAdd, hm]

theorem execSyncSignal_stays {st : Nat} {h : IHdr} {o : Operands} (hm : Stays μ s.mode) : ResStays μ (execSyncSignal st h o s) := by
  unfold execSyncSignal
  refine resStays_run hm (memIssue_stays hm fun t => ?_)
  simp

theorem execSyncWait_stays {st : Nat} {h : IHdr} {o : Operands} (hm : Stays μ s.mode) : ResStays μ (execSyncWait st h o s) := by
  unfold execSyncWait
  refine resStays_run hm (memIssue_stays hm fun t => ?_)
  simp

theorem execSyncRead_stays {st : Nat} {h : IHdr} {o : Operands} (hm : Stays μ s.mode) : ResStays μ (execSyncRead st h o s) := by
  simp [execSyncRead, hm]

theorem execSyncClear_stays {st : Nat} {h : IHdr} {o : Operands} (hm : Stays μ s.mode) : ResStays μ (execSyncClear st h o s) := by
  simp [execSyncClear, hm]

theorem execSignalDelivery_stays {st obj addend : Nat} (hm : Stays μ s.mode) : ResStays μ (execSignalDelivery st obj addend s) := by
  simp [execSignalDelivery, hm]

theorem execSyncWatchdogExpiry_stays {st : Nat} (hm : Stays μ s.mode) : ResStays μ (execSyncWatchdogExpiry st s) := by
  simp [execSyncWatchdogExpiry, hm]

end Sys2Proof.Machine
end

section
/-! PROOFS. Operations that move the device state by a fault at most, and to Faulted alone (13 R417, R419): the steps of a token
through its confluence and the ledgers. -/

-- As in the tests: proofs elaborated side by side exhaust memory in the joined text.
set_option Elab.async false

namespace Sys2Proof.Machine

variable {μ : Mode} {s : State}

@[simp] theorem placeCopy_stays {handle : Option Nat} {srcPkg : Nat} {d : TokenDesc} {payload : List Byte} (hm : Stays μ s.mode) :
    Stays μ (placeCopy s handle srcPkg d payload).mode := by
  unfold placeCopy
  extract_lets written buf es resent qs spilled queued taken
  have hw : Stays μ written.mode := by
    unfold written
    split
    · simpa using hm
    · exact hm
  have hr : Stays μ resent.mode := stays_forEach hw fun t a => by simp
  have hs : Stays μ spilled.mode := stays_forEach hw fun t a => by split <;> simp
  have ht : Stays μ taken.mode := stays_forEach (s := spilled) hs fun t a => by simp
  clear_value resent taken es buf
  split
  · split
    · simpa using hr
    · exact hr
  · split
    · exact stays_forEach ht fun t _ => by simp
    · exact ht

@[simp] theorem acceptCopy_stays {srcPkg : Nat} {d : TokenDesc} {payload : List Byte} (hm : Stays μ s.mode) :
    Stays μ (acceptCopy s srcPkg d payload).mode := by
  unfold acceptCopy
  split
  · rename_i bay _
    have hb := takeBuffer_stays (bay := bay) (owner := 0) (size := payload.length) (refs := fanCount d)
      (op := .copy srcPkg d payload) hm
    split <;> simp_all
  · split
    · exact placeCopy_stays hm
    · exact hm

@[simp] theorem sendCopy_stays {c : Conf} {dest fanout spill target : Nat} {resend alternate : Bool} (hm : Stays μ s.mode) :
    Stays μ (sendCopy s c dest fanout spill target resend alternate).mode := by
  unfold sendCopy
  simp -implicitDefEqProofs [stays_forEach, hm]

@[simp] theorem finishToken_stays {k : TokKey} {h : Nat} (hm : Stays μ s.mode) : Stays μ (finishToken s k h).mode := by
  unfold finishToken
  split <;> simp [hm]

@[simp] theorem endToken_stays {k : TokKey} (hm : Stays μ s.mode) : Stays μ (endToken s k).mode := by
  unfold endToken
  split
  · exact hm
  · rename_i c _
    split
    · exact hm
    · extract_lets d ended
      have hb := takeBuffer_stays (s := ended) (bay := c.bay) (owner := 1) (size := 4 * d) (refs := 1) (op := .output c.bay k) hm
      split <;> simp_all

@[simp] theorem dropBufs_stays {k : TokKey} {which : Conf → Nat → Bool} (hm : Stays μ s.mode) : Stays μ (dropBufs s k which).mode := by
  unfold dropBufs
  split
  · exact hm
  · exact stays_forEach hm fun t b => by simp

@[simp] theorem advance_stays {k : TokKey} (hm : Stays μ s.mode) : Stays μ (advance s k).mode := by
  unfold advance
  split <;> simp [hm]

@[simp] theorem freeGens_stays (hm : Stays μ s.mode) : Stays μ (freeGens s).mode := by
  unfold freeGens
  simp [stays_forEach, hm]

@[simp] theorem strandRank_stays {k : TokKey} {r : Nat} (hm : Stays μ s.mode) : Stays μ (strandRank s k r).mode := by
  unfold strandRank
  split
  · exact hm
  · dsimp only
    split
    · exact hm
    · split
      · exact release_stays hm
      · exact hm

@[simp] theorem copyFor_stays {c : Conf} {pkg : Nat} (hm : Stays μ s.mode) : Stays μ (copyFor s c pkg).mode := by
  unfold copyFor
  dsimp only
  split <;> simp [hm]

@[simp] theorem takeVerdicts_stays {srcPkg : Nat} {cs : List Choice} (hm : Stays μ s.mode) : Stays μ (takeVerdicts s srcPkg cs).mode := by
  unfold takeVerdicts
  extract_lets keyOf allIn due noted sent
  have hn : Stays μ noted.mode := stays_forEach hm fun t c => by split <;> simp
  have hs : Stays μ sent.mode := stays_forEach hn fun t k => by
    split
    · split <;> simp
    · exact stays_self
  exact freeGens_stays (stays_forEach hs fun t k => by simp)

@[simp] theorem giveVerdicts_stays {cs : List Choice} (hm : Stays μ s.mode) : Stays μ (giveVerdicts s cs).mode := by
  unfold giveVerdicts
  exact stays_forEach hm fun t a => by simp

@[simp] theorem strandChoices_stays {p : Admitted → Bool} (hm : Stays μ s.mode) : Stays μ (strandChoices s p).mode := by
  unfold strandChoices
  extract_lets hit ls freed kept moved cs
  have hf : Stays μ freed.mode := stays_forEach hm fun t b => by simp
  have hv : Stays μ moved.mode := stays_forEach (s := kept) hf fun t a => by simp
  exact giveVerdicts_stays (stays_forEach hv fun t c => by simp)

@[simp] theorem resendRank_stays {k : TokKey} {r : Nat} {rep : Replica} {alternate : Bool} (hm : Stays μ s.mode) :
    Stays μ (resendRank s k r rep alternate).mode := by
  unfold resendRank
  split <;> simp [hm]

@[simp] theorem resendStranded_stays {c layer expert : Nat} {block : List Replica} (hm : Stays μ s.mode) :
    Stays μ (resendStranded s c layer expert block).mode := by
  unfold resendStranded
  refine stays_forEach hm fun t f => stays_forEach stays_self fun u p => ?_
  split
  · split <;> simp
  · exact stays_self

@[simp] theorem dropRank_stays {k : TokKey} {r : Nat} (hm : Stays μ s.mode) : Stays μ (dropRank s k r).mode := by simp [dropRank, hm]

@[simp] theorem exhaustRank_stays {k : TokKey} {r : Nat} (hm : Stays μ s.mode) : Stays μ (exhaustRank s k r).mode := by
  simp [exhaustRank, hm]

@[simp] theorem abandonStranded_stays {c layer : Nat} (hm : Stays μ s.mode) : Stays μ (abandonStranded s c layer).mode := by
  unfold abandonStranded
  exact freeGens_stays (stays_forEach hm fun t f => stays_forEach stays_self fun u r => by simp)

@[simp] theorem dropReturn_stays {h : RetHdr} (hm : Stays μ s.mode) : Stays μ (dropReturn s h).mode := by
  unfold dropReturn
  extract_lets k need x segs all noted freed
  have hf : Stays μ freed.mode := by
    unfold freed
    split
    · exact release_stays hm
    · exact hm
  split
  · split
    · exact freeGens_stays hf
    · exact hf
  · split <;> simp [hm]

@[simp] theorem placeReturn_stays {handle : Nat} {h : RetHdr} {payload : List Byte} (hm : Stays μ s.mode) :
    Stays μ (placeReturn s handle h payload).mode := by
  simp [placeReturn, hm]

@[simp] theorem takeReturn_stays {h : RetHdr} {payload : List Byte} (hm : Stays μ s.mode) : Stays μ (takeReturn s h payload).mode := by
  unfold takeReturn
  split
  · exact dropReturn_stays hm
  · split
    · exact hm
    · rename_i c _
      split
      · exact placeReturn_stays hm
      · have hb := takeBuffer_stays (bay := c.bay) (owner := 1) (size := returnBytes s h) (refs := 1) (op := .ret h payload) hm
        split <;> simp_all

@[simp] theorem grantReturn_stays {handle : Nat} {h : RetHdr} {payload : List Byte} (hm : Stays μ s.mode) :
    Stays μ (grantReturn s handle h payload).mode := by
  unfold grantReturn
  split
  · simp [hm]
  · split <;> simp [hm]

theorem retireGen_stays {t : State} {c g : Nat} (hm : Stays μ s.mode) (e : retireGen s c g = some t) : Stays μ t.mode := by
  unfold retireGen at e
  dsimp only at e
  split at e
  · cases e
    exact hm
  · split at e
    · cases e
    · cases e
      refine freeGens_stays (?_ : Stays μ _)
      dsimp only
      split
      · exact stays_forEach (stays_forEach hm fun t u => by simp) fun t k => by simp
      · exact hm

@[simp] theorem discardRequest_stays {bay stone pc recOff : Nat} (hm : Stays μ s.mode) :
    Stays μ (discardRequest s bay stone pc recOff).mode := by
  simp [discardRequest, hm]

@[simp] theorem discardConf_stays {k : TokKey} {bay : Nat} (hm : Stays μ s.mode) : Stays μ (discardConf s k bay).mode := by
  unfold discardConf
  split <;> simp [hm]

@[simp] theorem giveBlock_stays {bay c layer expert : Nat} {ok : Bool} {b : List Replica} (hm : Stays μ s.mode) :
    Stays μ (giveBlock s bay c layer expert ok b).mode := by
  unfold giveBlock
  refine stays_forEach hm fun t p => ?_
  dsimp only
  split
  · simp
  · split
    · split <;> simp
    · simp

@[simp] theorem lookBlocks_stays {bay : Nat} {k : TokKey} (hm : Stays μ s.mode) : Stays μ (lookBlocks s bay k).mode := by
  unfold lookBlocks
  extract_lets taken
  have ht : taken.mode = s.mode := takeEffect_mode
  split
  · exact ht ▸ hm
  · refine stays_forEach (by simpa [ht] using hm) fun t e => ?_
    split <;> simp

@[simp] theorem admitChoices_stays {c layer gen : Nat} (hm : Stays μ s.mode) : Stays μ (admitChoices s c layer gen).mode := by
  unfold admitChoices
  extract_lets ord fs effected ended mine isOld olds cs com spc cap l0 l news spilled sl news' strands keepOld keepNew reps admitted
    fetched reported vs
  have ha : Stays μ admitted.mode := by simpa [admitted, ended, effected] using hm
  have hf : Stays μ fetched.mode := stays_forEach ha fun t p => by
    dsimp only
    split
    · split
      · split <;> simp
      · simp
    · simp
  have hr : Stays μ reported.mode := by simpa [reported] using hf
  exact strandChoices_stays (giveVerdicts_stays (stays_forEach hr fun t v => by simp))

@[simp] theorem consumeBatch_stays {r : RunSt} (hm : Stays μ s.mode) : Stays μ (consumeBatch s r).mode := by
  unfold consumeBatch
  exact stays_forEach hm fun t a => by simp

theorem stageOne_stays {t : State} {c st : Nat} {own : ERun} (hm : Stays μ s.mode) (e : stageOne s c st own = some t) : Stays μ t.mode := by
  unfold stageOne at e
  extract_lets rs at e
  split at e
  · cases e
  · rename_i q _
    extract_lets d n rows passed noted marked written finished at e
    have hp : Stays μ passed.mode := stays_forEach hm fun t a => by split <;> simp
    have hn : Stays μ noted.mode := by simpa [noted] using hp
    have hf : Stays μ finished.mode := by simpa [finished, written, marked] using hn
    cases e
    split
    · exact consumeBatch_stays hf
    · exact hf

@[simp] theorem stageRun_stays {st : Nat} (hm : Stays μ s.mode) : Stays μ (stageRun s st).mode := by
  unfold stageRun
  split
  · exact hm
  · rename_i c _
    cases hf : (stoneOf s st).eruns.findSome? (stageOne s c st) with
    | none => exact hm
    | some t =>
      obtain ⟨own, -, ho⟩ := List.exists_of_findSome?_eq_some hf
      exact stageOne_stays hm ho

@[simp] theorem missPart_stays {r : RunSt} (hm : Stays μ s.mode) : Stays μ (missPart s r).1.mode := by
  unfold missPart
  extract_lets es freed kept cs far
  have hf : Stays μ freed.mode := stays_forEach hm fun t b => by simp
  exact stays_forEach (s := kept) hf fun t p => by simp

@[simp] theorem tryAlternates_stays {k : TokKey} {r n : Nat} (hm : Stays μ s.mode) : Stays μ (tryAlternates k r n s).mode := by
  induction n generalizing s with
  | zero => exact exhaustRank_stays hm
  | succ n ih =>
    unfold tryAlternates
    split
    · exact hm
    · rename_i c _
      split
      · exact exhaustRank_stays hm
      · rename_i e rest _
        have hc : Stays μ (modConf s k fun c => { c with alternates := rest }).mode := by simpa using hm
        dsimp only
        split
        · exact ih hc
        · split
          · exact ih hc
          · split
            · exact ih hc
            · exact resendRank_stays hc

@[simp] theorem takeMiss_stays {k : TokKey} {r : Nat} (hm : Stays μ s.mode) : Stays μ (takeMiss s k r).mode := by
  unfold takeMiss
  split <;> simp [hm]

end Sys2Proof.Machine
end

section
/-! PROOFS. Operations that move the device state by a fault at most, and to Faulted alone (13 R417, R419): the commands of scoring
and of dispatch. -/

-- As in the tests: proofs elaborated side by side exhaust memory in the joined text.
set_option Elab.async false

namespace Sys2Proof.Machine

variable {μ : Mode} {s : State}

@[simp] theorem discardWaiting_stays {bay ctx layer gen : Nat} (hm : Stays μ s.mode) :
    Stays μ (discardWaiting s bay ctx layer gen).mode := by
  unfold discardWaiting
  exact stays_forEach hm fun t a => by simp

theorem execScoringPass_stays {bay ctx layer gen : Nat} {read : GateRead} (hm : Stays μ s.mode) :
    ResStays μ (execScoringPass bay ctx layer gen read s) := by
  unfold execScoringPass
  refine resStays_run hm ?_
  split
  · simp [hm]
  · split
    · simp [hm]
    · split <;> simp [hm]

@[simp] theorem passStream_stays {b : Nat} {g : Gather} (hm : Stays μ s.mode) : Stays μ (passStream s b g).mode := by
  unfold passStream
  extract_lets here
  split
  · exact stays_forEach hm fun t x => by simp
  · split
    · exact localMiss_stays hm
    · exact hm

theorem execGateStreamComplete_stays {bay ctx layer : Nat} {e : StreamEnd} (hm : Stays μ s.mode) :
    ResStays μ (execGateStreamComplete bay ctx layer e s) := by
  unfold execGateStreamComplete
  refine resStays_run hm ?_
  split
  · exact hm
  · split
    · exact hm
    · rename_i g _
      have hp : Stays μ (passStream s bay g).mode := passStream_stays hm
      split
      · exact hm
      · split
        · exact hm
        · extract_lets fmt nv v b a passed routed
          split
          · simp +zetaDelta [hp]
          · exact stays_forEach (by simp +zetaDelta [hp]) fun t _ => by simp
      · extract_lets passed routed raised dead
        have hpass : Stays μ passed.mode := by unfold passed; split <;> assumption
        have hr : Stays μ raised.mode := raise1_stays (by simpa [routed] using hpass)
        refine stays_forEach ?_ fun u t => by simp
        dsimp only
        exact hr

@[simp] theorem formChoices_stays {t : Tok} (hm : Stays μ s.mode) : Stays μ (formChoices s t).mode := by simp [formChoices, hm]

theorem execPartialScores_stays {k : TokKey} (hm : Stays μ s.mode) : ResStays μ (execPartialScores k s) := by
  unfold execPartialScores
  refine resStays_run hm ?_
  split <;> simp [hm]

theorem execPlacementBlockRead_stays {bay ctx layer expert status : Nat} {block : List Replica} (hm : Stays μ s.mode) :
    ResStays μ (execPlacementBlockRead bay ctx layer expert status block s) := by
  unfold execPlacementBlockRead
  refine resStays_run hm ?_
  dsimp only
  split
  · simp [hm]
  · split <;> simp [hm]

theorem execClaimBundle_stays {srcPkg : Nat} {cs : List Claim} (hm : Stays μ s.mode) : ResStays μ (execClaimBundle srcPkg cs s) := by
  unfold execClaimBundle
  refine resStays_run hm ?_
  split <;> simp [hm]

theorem execClaimBundleAck_stays {ctx layer gen home : Nat} (hm : Stays μ s.mode) :
    ResStays μ (execClaimBundleAck ctx layer gen home s) := by
  simp [execClaimBundleAck, hm]

theorem execAdmission_stays {ctx layer gen : Nat} (hm : Stays μ s.mode) : ResStays μ (execAdmission ctx layer gen s) := by
  simp [execAdmission, hm]

theorem execAdmissionAbort_stays {ctx layer gen code : Nat} (hm : Stays μ s.mode) :
    ResStays μ (execAdmissionAbort ctx layer gen code s) := by
  unfold execAdmissionAbort
  refine resStays_run hm ?_
  split
  · exact hm
  · extract_lets stones lost cleared freed
    have hf : Stays μ freed.mode := stays_forEach (s := cleared) hm fun t x => by simp
    exact raise1_stays (stays_forEach hf fun t st => by simp)

theorem execVerdictBundle_stays {srcPkg : Nat} {cs : List Choice} (hm : Stays μ s.mode) : ResStays μ (execVerdictBundle srcPkg cs s) := by
  simp [execVerdictBundle, hm]

theorem execTokenCopy_stays {srcPkg : Nat} {d : TokenDesc} {payload : List Byte} (hm : Stays μ s.mode) :
    ResStays μ (execTokenCopy srcPkg d payload s) := by
  simp [execTokenCopy, hm]

@[simp] theorem goOn_stays {h : Nat} {op : WaitOp} (hm : Stays μ s.mode) : Stays μ (goOn s h op).mode := by
  unfold goOn
  split <;> simp [hm]

@[simp] theorem grantOldest_stays {pool : Nat} {l : List BufReq} (hm : Stays μ s.mode) : Stays μ (grantOldest pool s l).mode := by
  induction l generalizing s with
  | nil => exact hm
  | cons q l ih =>
    have hg := grantTry_stays (owner := q.owner) (refs := q.refs) (l := poolsFor s (pool / 16) q.owner q.size) hm
    unfold grantOldest
    split
    · rename_i ht
      rw [ht] at hg
      exact goOn_stays (by simpa using hg)
    · rename_i ht
      rw [ht] at hg
      exact ih hg

theorem execCisternGrant_stays {pool : Nat} {corrected : Bool} (hm : Stays μ s.mode) : ResStays μ (execCisternGrant pool corrected s) := by
  unfold execCisternGrant
  refine resStays_run hm ?_
  simp [hm]

theorem execExpertRun_stays {st : Nat} {h : IHdr} {o : Operands} (hm : Stays μ s.mode) : ResStays μ (execExpertRun st h o s) := by
  unfold execExpertRun
  refine resStays_run hm (issue_stays hm fun t => ?_)
  simp

theorem execRunPartDue_stays {ctx layer first : Nat} (hm : Stays μ s.mode) : ResStays μ (execRunPartDue ctx layer first s) := by
  unfold execRunPartDue
  refine resStays_run hm ?_
  split <;> simp [hm]

theorem execMissGraceExpiry_stays {ctx layer first : Nat} (hm : Stays μ s.mode) : ResStays μ (execMissGraceExpiry ctx layer first s) := by
  unfold execMissGraceExpiry
  refine resStays_run hm ?_
  split
  · exact hm
  · split
    · exact hm
    · extract_lets waived
      have ho : Stays μ waived.mode := by simpa [waived] using hm
      split
      · split <;> simp [ho]
      · dsimp only
        simp only [windowAfter_mode]
        exact stays_forEach (by simp [ho]) fun t c => by simp
      · exact ho

theorem execMissNotice_stays {k : TokKey} {rank : Nat} {_notResident : Bool} (hm : Stays μ s.mode) :
    ResStays μ (execMissNotice k rank _notResident s) := by
  simp [execMissNotice, hm]

theorem execExpertRunComplete_stays {st cycles : Nat} (hm : Stays μ s.mode) : ResStays μ (execExpertRunComplete st cycles s) := by
  simp [execExpertRunComplete, hm]

theorem execCarryWaitExpiry_stays {ctx layer first : Nat} (hm : Stays μ s.mode) : ResStays μ (execCarryWaitExpiry ctx layer first s) := by
  unfold execCarryWaitExpiry
  refine resStays_run hm ?_
  split <;> simp [hm]

@[simp] theorem sendReturn_stays {st ctx fmt : Nat} {shadow : Bool} {e : Nat} {row : List Byte} (hm : Stays μ s.mode) :
    Stays μ (sendReturn s st ctx fmt shadow e row).mode := by
  unfold sendReturn
  extract_lets dest counted sent isIt firsts marked
  have hc : Stays μ counted.mode := by simpa [counted] using hm
  have hs : Stays μ sent.mode := stays_forEach hc fun t p => by
    dsimp only
    split <;> simp
  exact stays_forEach (s := marked) hs fun t f => by simp

theorem execReturnPacket_stays {h : RetHdr} {payload : List Byte} (hm : Stays μ s.mode) : ResStays μ (execReturnPacket h payload s) := by
  simp [execReturnPacket, hm]

theorem execReturnTimeoutExpiry_stays {k : TokKey} {rank : Nat} (hm : Stays μ s.mode) : ResStays μ (execReturnTimeoutExpiry k rank s) := by
  unfold execReturnTimeoutExpiry
  refine resStays_run hm ?_
  split
  · exact hm
  · split
    · exact hm
    · dsimp only
      split
      · exact freeGens_stays (by simpa using hm)
      · refine freeGens_stays (advance_stays ?_)
        simpa -implicitDefEqProofs using raise1_stays (by simpa using hm)

theorem execFetch_stays {st : Nat} {h : IHdr} {o : Operands} (hm : Stays μ s.mode) : ResStays μ (execFetch st h o s) := by
  unfold execFetch
  refine resStays_run hm (issue_stays hm fun t => ?_)
  simp

theorem execFlush_stays {st : Nat} {h : IHdr} {o : Operands} (hm : Stays μ s.mode) : ResStays μ (execFlush st h o s) := by
  unfold execFlush
  refine resStays_run hm (issue_stays hm fun t => ?_)
  simp

theorem execKvCommit_stays {st : Nat} {h : IHdr} {o : Operands} (hm : Stays μ s.mode) : ResStays μ (execKvCommit st h o s) := by
  unfold execKvCommit
  refine resStays_run hm (issue_stays hm fun t => ?_)
  dsimp only
  split
  · simp
  · split
    · simpa using kvAdvance_stays stays_self ‹_›
    · simp -implicitDefEqProofs

theorem execRetire_stays {st : Nat} {h : IHdr} {o : Operands} (hm : Stays μ s.mode) : ResStays μ (execRetire st h o s) := by
  unfold execRetire
  refine resStays_run hm (issue_stays hm fun t => ?_)
  dsimp only
  split
  · simpa using retireGen_stays stays_self ‹_›
  · simp

theorem execAccept_stays {st : Nat} {h : IHdr} {o : Operands} (hm : Stays μ s.mode) : ResStays μ (execAccept st h o s) := by
  simp [execAccept, hm]

@[simp] theorem actRetireGeneration_stays {q : Req} (hm : Stays μ s.mode) : Stays μ (actRetireGeneration q s).state.mode := by
  unfold actRetireGeneration
  split
  · exact retireGen_stays hm ‹_›
  · exact hm

theorem execRetireGeneration_stays {q : Req} (hm : Stays μ s.mode) : ResStays μ (execRetireGeneration q s) := by
  unfold execRetireGeneration
  refine resStays_run hm ?_
  simp [hm]

@[simp] theorem actAbandonStranded_stays {q : Req} (hm : Stays μ s.mode) : Stays μ (actAbandonStranded q s).state.mode := by
  simp [actAbandonStranded, hm]

theorem execAbandonStranded_stays {q : Req} (hm : Stays μ s.mode) : ResStays μ (execAbandonStranded q s) := by
  unfold execAbandonStranded
  refine resStays_run hm ?_
  simp [hm]

@[simp] theorem actPlacementUpdate_stays {q : Req} (hm : Stays μ s.mode) : Stays μ (actPlacementUpdate q s).state.mode := by
  simp [actPlacementUpdate, hm]

theorem execPlacementUpdate_stays {q : Req} (hm : Stays μ s.mode) : ResStays μ (execPlacementUpdate q s) := by
  unfold execPlacementUpdate
  refine resStays_run hm ?_
  simp [hm]

theorem storeStatus_stays {t : State} {u : PUpdate} {a status n : Nat} {bs : List Byte} (hm : Stays μ s.mode)
    (e : storeStatus s u a status bs = some (n, t)) :
    Stays μ t.mode := by
  unfold storeStatus at e
  split at e
  · obtain ⟨st, -, he⟩ := Option.map_eq_some_iff.1 e
    cases he
    exact hm
  · split at e
    · rename_i v hv
      have he := Option.some.inj e
      split at he
      · cases he
        exact pondWrite_mode hv ▸ hm
      · cases he
        exact hm
    · cases e
      exact localMiss_stays hm

theorem execPlacementStoreComplete_stays {ctx layer expert status : Nat} (hm : Stays μ s.mode) :
    ResStays μ (execPlacementStoreComplete ctx layer expert status s) := by
  unfold execPlacementStoreComplete
  refine resStays_run hm ?_
  split
  · exact hm
  · dsimp only
    split
    · exact hm
    · rename_i t hs
      have ht : Stays μ t.mode := storeStatus_stays hm hs
      simp -implicitDefEqProofs [ht]
    · simpa using storeStatus_stays hm ‹_›
    · simpa using storeStatus_stays hm ‹_›

theorem execDeadlinePolicyWrite_stays {layer : Nat} {q : Req} (hm : Stays μ s.mode) : ResStays μ (execDeadlinePolicyWrite layer q s) := by
  unfold execDeadlinePolicyWrite
  refine resStays_run hm ?_
  simp [hm]

theorem fillBytes_stays {t : State} {w : Nat} {f : Fill} {d : ObjDesc} {bytes : List Byte} {o : Option (List Byte)}
    (hm : Stays μ s.mode) (e : fillBytes s w f d bytes = some (o, t)) :
    Stays μ t.mode := by
  unfold fillBytes at e
  dsimp only at e
  split at e
  · cases e
    exact hm
  · split at e
    · split at e
      · split at e <;> cases e
        exact hm
      · split at e <;> cases e
        exact hm
    · split at e
      · cases e
        simpa using hm
      · cases e
        exact localMiss_stays hm

@[simp] theorem homeFault_stays {c : Nat} {d : ObjDesc} {off : Nat} (hm : Stays μ s.mode) : Stays μ (homeFault s c d off).mode := by
  simp [homeFault, hm]

@[simp] theorem strandObject_stays {c : Nat} {d : ObjDesc} (hm : Stays μ s.mode) : Stays μ (strandObject s c d).mode := by
  simp [strandObject, hm]

@[simp] theorem markBad_stays {c obj : Nat} {d : ObjDesc} (hm : Stays μ s.mode) : Stays μ (markBad s c obj d).mode := by
  simp -implicitDefEqProofs [markBad, hm]

theorem execWritebackComplete_stays {ctx obj : Nat} (hm : Stays μ s.mode) : ResStays μ (execWritebackComplete ctx obj s) := by
  unfold execWritebackComplete
  refine resStays_run hm ?_
  simp [stays_forEach, hm]

theorem execFillComplete_stays {wythe ctx obj : Nat} {bad : List (Nat × Bool)} {bytes : List Byte} (hm : Stays μ s.mode) :
    ResStays μ (execFillComplete wythe ctx obj bad bytes s) := by
  unfold execFillComplete
  refine resStays_run hm ?_
  split
  · exact hm
  · rename_i f _
    extract_lets d k
    split
    · exact hm
    · split
      · exact hm
      · rename_i bs t hfill
        have ht : Stays μ t.mode := fillBytes_stays hm hfill
        extract_lets taken places faulted
        have hf : Stays μ faulted.mode := stays_forEach (s := taken) ht fun u off => by simp
        split
        · exact markBad_stays hf
        · split
          · exact markBad_stays hf
          · extract_lets filled cleared shown
            have hc : Stays μ cleared.mode := stays_forEach (by unfold filled; split <;> simpa using hf) fun u o => by simp
            simpa +zetaDelta using hc

@[simp] theorem actPlaceObject_stays {q : Req} (hm : Stays μ s.mode) : Stays μ (actPlaceObject q s).state.mode := by
  simp [actPlaceObject, hm]

theorem execPlaceObject_stays {q : Req} (hm : Stays μ s.mode) : ResStays μ (execPlaceObject q s) := by
  unfold execPlaceObject
  refine resStays_run hm ?_
  simp [hm]

@[simp] theorem actPoolCommit_stays (hm : Stays μ s.mode) : Stays μ (actPoolCommit s).state.mode := by
  unfold actPoolCommit
  split
  · exact poolCommit_mode ‹_› ▸ hm
  · exact hm

theorem execPoolCommit_stays {q : Req} (hm : Stays μ s.mode) : ResStays μ (execPoolCommit q s) := by
  unfold execPoolCommit
  refine resStays_run hm ?_
  simp [hm]

@[simp] theorem missPieces_stays {a n : Nat} {right : BitVec 128 → Bool} (hm : Stays μ s.mode) : Stays μ (missPieces s a n right).mode := by
  unfold missPieces
  exact stays_forEach hm fun t a => by simp

@[simp] theorem readPass_stays {w : Nat} {d : CollDesc} {i : Nat} (hm : Stays μ s.mode) : Stays μ (readPass s w d i).mode := by
  simp [readPass, hm]

@[simp] theorem writeTile_stays {w : Nat} {d : CollDesc} {i : Nat} {bs : List Byte} (hm : Stays μ s.mode) :
    Stays μ (writeTile s w d i bs).mode := by
  unfold writeTile
  dsimp only
  split
  · split <;> simp [hm]
  · refine missPieces_stays ?_
    rw [passPieces_mode fun _ _ _ _ => storePass_mode]
    refine stays_forEach hm fun t p => ?_
    cases hw : pondWrite t p.1 ((bs.drop (p.1 - (d.dst + i * tileBytes d))).take p.2) with
    | none => exact stays_self
    | some u => simp [pondWrite_mode hw]

end Sys2Proof.Machine
end

section
/-! PROOFS. Operations that move the device state by a fault at most, and to Faulted alone (13 R417, R419): collectives and multicasts. -/

-- As in the tests: proofs elaborated side by side exhaust memory in the joined text.
set_option Elab.async false

namespace Sys2Proof.Machine

variable {μ : Mode} {s : State}

@[simp] theorem noteSpecials_stays {w ctx group seq n : Nat} (hm : Stays μ s.mode) : Stays μ (noteSpecials s w ctx group seq n).mode := by
  unfold noteSpecials
  simp -implicitDefEqProofs [stays_forEach, hm]

@[simp] theorem finish_stays {r : State × List Fault16} (hm : Stays μ r.1.mode) : Stays μ (finish r).mode := by
  unfold finish
  split
  · exact hm
  · exact raise_stays hm

@[simp] theorem deliverChunk_stays {co : Coll} {i : Nat} {bs : List Byte} (hm : Stays μ s.mode) :
    Stays μ (deliverChunk s co i bs).mode := by
  simp [deliverChunk, hm]

@[simp] theorem formChunk_stays {co : Coll} {chunk : Nat} {bs : List Byte} {clamps : Nat} (hm : Stays μ s.mode) :
    Stays μ (formChunk s co chunk bs clamps).mode := by
  unfold formChunk
  split <;> simp -implicitDefEqProofs [hm]

@[simp] theorem advanceUp_stays {k : CollKey} (hm : Stays μ s.mode) : Stays μ (advanceUp s k).mode := by
  unfold advanceUp
  split
  · exact hm
  · refine stays_forEach hm fun t chunk => ?_
    split
    · exact stays_self
    · split
      · exact stays_self
      · split <;> simp

@[simp] theorem rootOut_stays {k : CollKey} (hm : Stays μ s.mode) : Stays μ (rootOut s k).mode := by
  unfold rootOut
  split
  · exact hm
  · split
    · exact hm
    · split
      · exact stays_forEach hm fun t x => by simp
      · split
        · exact stays_forEach hm fun t x => by simp
        · exact hm

@[simp] theorem collProgress_stays {k : CollKey} (hm : Stays μ s.mode) : Stays μ (collProgress s k).mode := by
  unfold collProgress
  split <;> simp [hm]

@[simp] theorem pump_stays {k : CollKey} (hm : Stays μ s.mode) : Stays μ (pump s k).mode := by
  unfold pump
  exact collProgress_stays (rootOut_stays (advanceUp_stays hm))

@[simp] theorem takeTile_stays {co : Coll} {i : Nat} (hm : Stays μ s.mode) : Stays μ (takeTile s co i).mode := by
  simp -implicitDefEqProofs [takeTile, hm]

@[simp] theorem takePartial_stays {co : Coll} {m : CollMsg} (hm : Stays μ s.mode) : Stays μ (takePartial s co m).mode := by
  simp -implicitDefEqProofs [takePartial, hm]

@[simp] theorem takeResult_stays {co : Coll} {m : CollMsg} (hm : Stays μ s.mode) : Stays μ (takeResult s co m).mode := by
  simp [takeResult, hm]

@[simp] theorem takeOpen_stays {co : Coll} {msg : Nat} {m : CollMsg} (hm : Stays μ s.mode) : Stays μ (takeOpen s co msg m).mode := by
  unfold takeOpen
  split <;> simp -implicitDefEqProofs [hm]

@[simp] theorem retainFault_stays (hm : Stays μ s.mode) : Stays μ (retainFault s).mode := by simp [retainFault, hm]

@[simp] theorem takeMsg_stays {msg : Nat} {m : CollMsg} (hm : Stays μ s.mode) : Stays μ (takeMsg s msg m).mode := by
  unfold takeMsg
  split
  · simp [hm]
  · split <;> simp [hm]

theorem execPartialMsg_stays {m : CollMsg} (hm : Stays μ s.mode) : ResStays μ (execPartialMsg m s) := by simp [execPartialMsg, hm]

theorem execResultMsg_stays {m : CollMsg} (hm : Stays μ s.mode) : ResStays μ (execResultMsg m s) := by simp [execResultMsg, hm]

@[simp] theorem resendLost_stays {msg : Nat} {m : CollMsg} (hm : Stays μ s.mode) : Stays μ (resendLost s msg m).mode := by
  unfold resendLost
  split <;> simp [hm]

theorem execPnak_stays {m : CollMsg} {readOk : Bool} (hm : Stays μ s.mode) : ResStays μ (execPnak m readOk s) := by simp [execPnak, hm]

theorem execCollNak_stays {m : CollMsg} {readOk : Bool} (hm : Stays μ s.mode) : ResStays μ (execCollNak m readOk s) := by
  simp [execCollNak, hm]

theorem execDoneMsg_stays {m : CollMsg} (hm : Stays μ s.mode) : ResStays μ (execDoneMsg m s) := by simp [execDoneMsg, hm]

theorem execSealMsg_stays {m : CollMsg} (hm : Stays μ s.mode) : ResStays μ (execSealMsg m s) := by simp [execSealMsg, hm]

theorem execAbortReq_stays {m : CollMsg} (hm : Stays μ s.mode) : ResStays μ (execAbortReq m s) := by simp [execAbortReq, hm]

theorem execAbort_stays {m : CollMsg} (hm : Stays μ s.mode) : ResStays μ (execAbort m s) := by simp [execAbort, hm]

theorem execBackoff_stays {m : CollMsg} (hm : Stays μ s.mode) : ResStays μ (execBackoff m s) := by simp [execBackoff, hm]

theorem execBackoffRetry_stays {k : CollKey} {chunk : Nat} (hm : Stays μ s.mode) : ResStays μ (execBackoffRetry k chunk s) := by
  unfold execBackoffRetry
  refine resStays_run hm ?_
  dsimp only
  split
  · simp [hm]
  · split <;> simp [hm]

@[simp] theorem actGroupCommit_stays {g : Nat} {readOk : Bool} {q : Req} (hm : Stays μ s.mode) :
    Stays μ (actGroupCommit g readOk q s).state.mode := by
  unfold actGroupCommit
  extract_lets c n radix
  split
  · exact hm
  · split
    · exact hm
    · split
      · exact hm
      · split
        · simp only [actState_refuse]
          split
          · exact missPieces_stays hm
          · exact hm
        · split
          · exact hm
          · simpa -implicitDefEqProofs using hm

theorem execGroupCommit_stays {group : Nat} {q : Req} {readOk : Bool} (hm : Stays μ s.mode) :
    ResStays μ (execGroupCommit group q readOk s) := by
  unfold execGroupCommit
  refine resStays_run hm ?_
  simp [hm]

@[simp] theorem startColl_stays {k : CollKey} (hm : Stays μ s.mode) : Stays μ (startColl s k).mode := by
  unfold startColl
  split
  · exact hm
  · rename_i co _
    extract_lets fed hs kept
    have hf : Stays μ fed.mode := by
      unfold fed
      split
      · exact stays_forEach hm fun t i => by simp
      · exact hm
    exact pump_stays (stays_forEach (s := kept) hf fun t h => by simp)

@[simp] theorem openColl_stays {co : Coll} (hm : Stays μ s.mode) : Stays μ (openColl s co).mode := by
  unfold openColl
  split <;> simp [hm]

@[simp] theorem mcastDone_stays {ctx number : Nat} (hm : Stays μ s.mode) : Stays μ (mcastDone s ctx number).mode := by
  unfold mcastDone
  split <;> simp [hm]

@[simp] theorem readMcast_stays {ctx number i : Nat} (hm : Stays μ s.mode) : Stays μ (readMcast s ctx number i).mode := by
  unfold readMcast
  split <;> simp [hm]

@[simp] theorem mcastLegs_stays {ctx number i : Nat} (hm : Stays μ s.mode) : Stays μ (mcastLegs s ctx number i).mode := by
  unfold mcastLegs
  split
  · exact hm
  · split
    · exact hm
    · exact mcastDone_stays (stays_forEach hm fun t j => by simp)

@[simp] theorem mcastTile_stays {ctx number i : Nat} (hm : Stays μ s.mode) : Stays μ (mcastTile s ctx number i).mode := by
  simp [mcastTile, hm]

@[simp] theorem startMcast_stays {ctx number : Nat} {soc : Bool} (hm : Stays μ s.mode) : Stays μ (startMcast s ctx number soc).mode := by
  unfold startMcast
  split
  · exact hm
  · split
    · exact stays_forEach hm fun t i => by simp
    · exact stays_forEach hm fun t i => by simp

theorem execCollRetentionGrant_stays {k : CollKey} {cycles : Nat} (hm : Stays μ s.mode) :
    ResStays μ (execCollRetentionGrant k cycles s) := by
  unfold execCollRetentionGrant
  refine resStays_run hm ?_
  split
  · simp -implicitDefEqProofs [hm]
  · split <;> simp -implicitDefEqProofs [hm]

@[simp] theorem takeNotice_stays {st handle tile : Nat} (hm : Stays μ s.mode) : Stays μ (takeNotice s st handle tile).mode := by
  unfold takeNotice
  extract_lets bad
  have hb : Stays μ (bad s).mode := raise1_stays (by simpa using hm)
  split
  · exact hb
  · split
    · split
      · exact hb
      · split
        · exact hm
        · split <;> simp [hm]
    · split
      · split
        · exact hb
        · split
          · exact hm
          · split <;> simp [hm]
      · exact hb

theorem execTileNotice_stays {st handle tile : Nat} (hm : Stays μ s.mode) : ResStays μ (execTileNotice st handle tile s) := by
  simp [execTileNotice, hm]

theorem execLeg_stays {m : LegMsg} (hm : Stays μ s.mode) : ResStays μ (execLeg m s) := by simp [execLeg, hm]

theorem execLegAck_stays {ctx number leg chunk answer : Nat} {readOk : Bool} (hm : Stays μ s.mode) :
    ResStays μ (execLegAck ctx number leg chunk answer readOk s) := by
  unfold execLegAck
  refine resStays_run hm ?_
  split
  · exact hm
  · split
    · dsimp only
      split
      · refine finish_stays ?_
        rw [completeMcast_mode]
        split
        · exact hm
        · exact retainFault_stays hm
      · split <;> simp [hm]
    · split
      · exact hm
      · exact mcastDone_stays hm

theorem execCollTimeoutExpiry_stays {k : CollKey} (hm : Stays μ s.mode) : ResStays μ (execCollTimeoutExpiry k s) := by
  unfold execCollTimeoutExpiry
  refine resStays_run hm ?_
  split
  · simp [hm]
  · split <;> simp [hm]

theorem execSealWaitTimeout_stays {k : CollKey} (hm : Stays μ s.mode) : ResStays μ (execSealWaitTimeout k s) := by
  unfold execSealWaitTimeout
  refine resStays_run hm ?_
  split <;> simp [hm]

@[simp] theorem actCollAbort_stays {q : Req} (hm : Stays μ s.mode) : Stays μ (actCollAbort q s).state.mode := by
  unfold actCollAbort
  split <;> simp [hm]

theorem execCollAbort_stays {q : Req} (hm : Stays μ s.mode) : ResStays μ (execCollAbort q s) := by
  unfold execCollAbort
  refine resStays_run hm ?_
  simp [hm]

theorem execAdmissionBarrierJoin_stays {ctx layer gen : Nat} (hm : Stays μ s.mode) :
    ResStays μ (execAdmissionBarrierJoin ctx layer gen s) := by
  simp [execAdmissionBarrierJoin, hm]

end Sys2Proof.Machine
end

section
/-! PROOFS. Operations that move the device state by a fault at most, and to Faulted alone (13 R417, R419): fenced stones, reads of
SRAM, the posts of collectives, course DMA, and the instructions that read SRAM. -/

-- As in the tests: proofs elaborated side by side exhaust memory in the joined text.
set_option Elab.async false

namespace Sys2Proof.Machine

variable {μ : Mode} {s : State}

@[simp] theorem discardWork_stays {st : Nat} (hm : Stays μ s.mode) : Stays μ (discardWork s st).mode := by
  unfold discardWork
  dsimp only
  refine stays_forEach (stays_forEach ?_ fun t a => by simp) fun t a => by simp
  simp -implicitDefEqProofs [forEach_mode, hm]

@[simp] theorem fenceStone_stays {st : Nat} (hm : Stays μ s.mode) : Stays μ (fenceStone s st).mode := by
  unfold fenceStone
  split
  · exact hm
  · extract_lets free d o u v w x y
    have hv : Stays μ v.mode := raise1_stays hm
    have hw : Stays μ w.mode := by
      unfold w
      rw [fenceContext_mode]
      exact discardWork_stays hv
    exact retireBuffers_stays (stays_forEach (strandChoices_stays hw) fun t a => finish_stays (by simp))

@[simp] theorem fenceMany_stays {l : List Nat} (hm : Stays μ s.mode) : Stays μ (fenceMany s l).mode := by
  unfold fenceMany
  exact stays_forEach hm fun t a => by simp

@[simp] theorem actFenceStone_stays {q : Req} (hm : Stays μ s.mode) : Stays μ (actFenceStone q s).state.mode := by simp [actFenceStone, hm]

theorem execFenceStone_stays {q : Req} (hm : Stays μ s.mode) : ResStays μ (execFenceStone q s) := by
  unfold execFenceStone
  refine resStays_run hm ?_
  simp [hm]

@[simp] theorem actRemapStone_stays {q : Req} (hm : Stays μ s.mode) : Stays μ (actRemapStone q s).state.mode := by
  unfold actRemapStone
  dsimp only
  split <;> simp [hm]

theorem execRemapStone_stays {q : Req} (hm : Stays μ s.mode) : ResStays μ (execRemapStone q s) := by
  unfold execRemapStone
  refine resStays_run hm ?_
  simp [hm]

@[simp] theorem wordError_stays {scrub : Bool} {st off : Nat} (hm : Stays μ s.mode) : Stays μ (wordError s scrub st off).1.mode := by
  unfold wordError
  dsimp only
  split
  · simp [hm]
  · split <;> simp [hm]

@[simp] theorem readError_stays {st off : Nat} {k : State → State} (hm : Stays μ s.mode) (hk : ∀ t, Stays t.mode (k t).mode) :
    Stays μ (readError s st off k).mode := by
  have hg := wordError_stays (s := s) (scrub := false) (st := st) (off := off) hm
  unfold readError
  dsimp only
  split
  · exact hg.trans (hk _)
  · split
    · exact hg
    · split <;> simp [hg]

@[simp] theorem readWords_stays {st : Nat} {l : List (Nat × Nat)} {k : State → State} {n : Nat}
    (hm : Stays μ s.mode) (hk : ∀ t, Stays t.mode (k t).mode) :
    Stays μ (readWords n s st l k).mode := by
  induction n generalizing s μ with
  | zero => exact hm.trans (hk s)
  | succ n ih =>
    unfold readWords
    split
    · exact hm.trans (hk s)
    · exact readError_stays hm fun t => ih stays_self

@[simp] theorem readRanges_stays {st : Nat} {srcs dsts : List (Nat × Nat)} {k : State → State}
    (hm : Stays μ s.mode) (hk : ∀ t, Stays t.mode (k t).mode) :
    Stays μ (readRanges s st srcs dsts k).mode := by
  unfold readRanges
  exact readWords_stays hm hk

@[simp] theorem readSram_stays {st : Nat} {r : SramRead} {srcs dsts : List (Nat × Nat)} {k : State → State}
    (hm : Stays μ s.mode) (hk : ∀ t, Stays t.mode (k t).mode) :
    Stays μ (readSram s st r srcs dsts k).mode := by
  unfold readSram
  split
  · exact readRanges_stays hm hk
  · exact readRanges_stays (stoneFault_stays hm) hk
  · exact readError_stays hm fun t => readRanges_stays stays_self hk

@[simp] theorem unitRead_stays {st : Nat} {r : Nat × Nat} {n : Nat} (hm : Stays μ s.mode) : Stays μ (unitRead n s st r).1.mode := by
  induction n generalizing s with
  | zero => exact hm
  | succ n ih =>
    unfold unitRead
    split
    · exact hm
    · dsimp only
      split
      · exact ih (wordError_stays hm)
      · exact wordError_stays hm

theorem execScrubPass_stays {st : Nat} {r : SramRead} (hm : Stays μ s.mode) : ResStays μ (execScrubPass st r s) := by
  unfold execScrubPass
  refine resStays_run hm ?_
  split
  · simp [hm]
  · split <;> simp [hm]

theorem execUnitFailure_stays {u : FailedUnit} (hm : Stays μ s.mode) : ResStays μ (execUnitFailure u s) := by
  unfold execUnitFailure
  split
  · trivial
  · refine resStays_run hm ?_
    dsimp only
    cases u <;> simp [hm]

@[simp] theorem post_stays {want st : Nat} {h : IHdr} {o : Operands} (hm : Stays μ s.mode) : Stays μ (post want st h o s).mode := by
  unfold post
  dsimp only
  split
  · exact hm
  · refine issue_stays hm fun t => ?_
    split
    · simp
    · split
      · simp
      · refine readRanges_stays stays_self fun t => ?_
        split
        · split <;> simp
        · split <;> simp

theorem execCollBarrier_stays {st : Nat} {h : IHdr} {o : Operands} (hm : Stays μ s.mode) : ResStays μ (execCollBarrier st h o s) := by
  simp [execCollBarrier, hm]

theorem execCollBroadcast_stays {st : Nat} {h : IHdr} {o : Operands} (hm : Stays μ s.mode) : ResStays μ (execCollBroadcast st h o s) := by
  simp [execCollBroadcast, hm]

theorem execCollReduce_stays {st : Nat} {h : IHdr} {o : Operands} (hm : Stays μ s.mode) : ResStays μ (execCollReduce st h o s) := by
  simp [execCollReduce, hm]

theorem execCollAllReduce_stays {st : Nat} {h : IHdr} {o : Operands} (hm : Stays μ s.mode) : ResStays μ (execCollAllReduce st h o s) := by
  simp [execCollAllReduce, hm]

theorem execCollReduceScatter_stays {st : Nat} {h : IHdr} {o : Operands} (hm : Stays μ s.mode) :
    ResStays μ (execCollReduceScatter st h o s) := by
  simp [execCollReduceScatter, hm]

theorem execCollAllGather_stays {st : Nat} {h : IHdr} {o : Operands} (hm : Stays μ s.mode) : ResStays μ (execCollAllGather st h o s) := by
  simp [execCollAllGather, hm]

theorem execCollMulticast_stays {st : Nat} {h : IHdr} {o : Operands} (hm : Stays μ s.mode) : ResStays μ (execCollMulticast st h o s) := by
  simp [execCollMulticast, hm]

theorem execDmaPost_stays {st : Nat} {h : IHdr} {o : Operands} (hm : Stays μ s.mode) : ResStays μ (execDmaPost st h o s) := by
  unfold execDmaPost
  refine resStays_run hm (issue_stays hm fun t => ?_)
  simp

@[simp] theorem dmaReadRow_stays {m : Dma} {i : Nat} {outside : List Byte} (hm : Stays μ s.mode) :
    Stays μ (dmaReadRow s m i outside).1.mode := by
  unfold dmaReadRow
  dsimp only
  split
  · split
    · exact hm
    · have hg := unitRead_stays (n := s.badWords.length) (st := bits 29 18 (dmaSrc m.desc + i * dmaSrcStride m.desc))
        (r := ((dmaSrc m.desc + i * dmaSrcStride m.desc) % 2 ^ 18, dmaLen m.desc)) hm
      split <;> rename_i ht <;> rw [ht] at hg <;> simpa using hg
  · split
    · exact hm
    · split
      · exact hm
      · split
        · split <;> simp [hm]
        · exact hm

theorem dmaWriteRow_mode {t : State} {d : Dma} {i : Nat} {bs : List Byte} (e : dmaWriteRow s d i bs = some t) : t.mode = s.mode := by
  unfold dmaWriteRow at e
  dsimp only at e
  split at e
  · split at e <;> simp at e
    simp [← e]
  · split at e
    · simp at e
      simp [← e]
    · split at e
      · simp at e
      · split at e
        · obtain ⟨p, -, rfl⟩ := Option.map_eq_some_iff.mp e
          simp
        · simp at e
          simp [← e]

@[simp] theorem dmaRun_stays {d : Dma} {stop : Option Nat} {k i : Nat} {ext : List Byte} {n : Nat} (hm : Stays μ s.mode) :
    Stays μ (dmaRun d stop k i s ext n).1.mode := by
  induction k generalizing i s ext n with
  | zero => exact hm
  | succ k ih =>
    unfold dmaRun
    split
    · exact hm
    · have hg := dmaReadRow_stays (m := d) (i := i) (outside := ext) hm
      split <;> rename_i ht <;> rw [ht] at hg
      · exact hg
      · split
        · dsimp only
          split <;> simp_all
        · rename_i hw
          exact ih (by simpa [dmaWriteRow_mode hw] using hg)

theorem execDmaDescriptorComplete_stays {course st : Nat} {stop : Option Nat} {outside : List Byte} (hm : Stays μ s.mode) :
    ResStays μ (execDmaDescriptorComplete course st stop outside s) := by
  unfold execDmaDescriptorComplete
  refine resStays_run hm ?_
  split
  · exact hm
  · split
    · exact hm
    · rename_i m _
      split
      · exact hm
      · extract_lets u
        have hu : Stays μ u.mode := hm
        clear_value u
        split
        · exact startDma_stays (dmaError_stays (dropDma_stays hu))
        · have hg := dmaRun_stays (s := fresh u) (d := m) (stop := stop)
            (k := dmaRows m.desc) (i := 0) (ext := outside) (n := 0) (by simpa using hu)
          split
          rename_i hr
          rw [hr] at hg
          dsimp only at hg ⊢
          split <;> simp [hg]

theorem execMemoryStore_stays {st : Nat} {h : IHdr} {o : Operands} (hm : Stays μ s.mode) : ResStays μ (execMemoryStore st h o s) := by
  unfold execMemoryStore
  refine resStays_run hm (memIssue_stays hm fun t => ?_)
  simp

@[simp] theorem atomic_stays {aop st : Nat} {h : IHdr} {o : Operands} (hm : Stays μ s.mode) : Stays μ (atomic aop st h o s).mode := by
  unfold atomic
  extract_lets r w lake opOff resOff opLen noret a dsts
  clear_value w opLen noret dsts
  refine memIssue_stays hm fun t => ?_
  split
  · simp
  · split
    · simp
    · exact readRanges_stays stays_self fun t => by simp

theorem execAtomicRead_stays {st : Nat} {h : IHdr} {o : Operands} (hm : Stays μ s.mode) : ResStays μ (execAtomicRead st h o s) := by
  simp [execAtomicRead, hm]

theorem execAtomicSwap_stays {st : Nat} {h : IHdr} {o : Operands} (hm : Stays μ s.mode) : ResStays μ (execAtomicSwap st h o s) := by
  simp [execAtomicSwap, hm]

theorem execAtomicCas_stays {st : Nat} {h : IHdr} {o : Operands} (hm : Stays μ s.mode) : ResStays μ (execAtomicCas st h o s) := by
  simp [execAtomicCas, hm]

theorem execAtomicAdd_stays {st : Nat} {h : IHdr} {o : Operands} (hm : Stays μ s.mode) : ResStays μ (execAtomicAdd st h o s) := by
  simp [execAtomicAdd, hm]

theorem execAtomicAnd_stays {st : Nat} {h : IHdr} {o : Operands} (hm : Stays μ s.mode) : ResStays μ (execAtomicAnd st h o s) := by
  simp [execAtomicAnd, hm]

theorem execAtomicOr_stays {st : Nat} {h : IHdr} {o : Operands} (hm : Stays μ s.mode) : ResStays μ (execAtomicOr st h o s) := by
  simp [execAtomicOr, hm]

theorem execAtomicXor_stays {st : Nat} {h : IHdr} {o : Operands} (hm : Stays μ s.mode) : ResStays μ (execAtomicXor st h o s) := by
  simp [execAtomicXor, hm]

theorem execAtomicMaxS_stays {st : Nat} {h : IHdr} {o : Operands} (hm : Stays μ s.mode) : ResStays μ (execAtomicMaxS st h o s) := by
  simp [execAtomicMaxS, hm]

theorem execAtomicMinS_stays {st : Nat} {h : IHdr} {o : Operands} (hm : Stays μ s.mode) : ResStays μ (execAtomicMinS st h o s) := by
  simp [execAtomicMinS, hm]

theorem execAtomicMaxU_stays {st : Nat} {h : IHdr} {o : Operands} (hm : Stays μ s.mode) : ResStays μ (execAtomicMaxU st h o s) := by
  simp [execAtomicMaxU, hm]

theorem execAtomicMinU_stays {st : Nat} {h : IHdr} {o : Operands} (hm : Stays μ s.mode) : ResStays μ (execAtomicMinU st h o s) := by
  simp [execAtomicMinU, hm]

theorem execBufferRelease_stays {st : Nat} {h : IHdr} {o : Operands} (hm : Stays μ s.mode) : ResStays μ (execBufferRelease st h o s) := by
  unfold execBufferRelease
  refine resStays_run hm (memIssue_stays hm fun t => ?_)
  dsimp only
  split
  · simp
  · split
    · simp
    · split <;> simp

theorem execSubmit_stays {st : Nat} {h : IHdr} {o : Operands} (hm : Stays μ s.mode) : ResStays μ (execSubmit st h o s) := by
  unfold execSubmit
  refine resStays_run hm ?_
  extract_lets req recOff hd n k origin bay refuse
  have hr : ∀ t b, Stays t.mode (refuse b t).mode := fun t b => raise1_stays (by rw [count_mode]; split <;> simp)
  clear_value refuse
  refine issue_stays hm fun t => ?_
  split
  · simp
  · split
    · exact hr _ _
    · split
      · exact hr _ _
      · split
        · simp
        · refine readRanges_stays stays_self fun t => ?_
          dsimp only
          split <;> simp -implicitDefEqProofs

theorem execRet_stays {st : Nat} {h : IHdr} {o : Operands} (hm : Stays μ s.mode) : ResStays μ (execRet st h o s) := by
  unfold execRet
  refine resStays_run hm ?_
  extract_lets out table hd n ctx layer fmt row
  clear_value row
  refine issue_stays hm fun t => ?_
  split
  · simp
  · exact readRanges_stays stays_self fun t => by simp [stays_forEach]

end Sys2Proof.Machine
end

section
/-! PROOFS. Operations that move the device state by a fault at most, and to Faulted alone (13 R417, R419): engines, the compressor,
the vector chain and the states of ports. -/

-- As in the tests: proofs elaborated side by side exhaust memory in the joined text.
set_option Elab.async false

namespace Sys2Proof.Machine

variable {μ : Mode} {s : State}

@[simp] theorem issueProduct_stays {sparse : Bool} {st : Nat} {h : IHdr} {o : Operands} {rd : SramRead} (hm : Stays μ s.mode) :
    Stays μ (issueProduct sparse st h o rd s).mode := by
  unfold issueProduct
  refine issue_stays hm fun t => ?_
  split
  · simp
  · refine readSram_stays stays_self fun t => ?_
    split
    · exact failStone_stays (by simp)
    · simp -implicitDefEqProofs

theorem execDenseProduct_stays {st : Nat} {h : IHdr} {o : Operands} {r : SramRead} (hm : Stays μ s.mode) :
    ResStays μ (execDenseProduct st h o r s) := by
  simp [execDenseProduct, hm]

theorem execSparseProduct_stays {st : Nat} {h : IHdr} {o : Operands} {r : SramRead} (hm : Stays μ s.mode) :
    ResStays μ (execSparseProduct st h o r s) := by
  simp [execSparseProduct, hm]

@[simp] theorem noteFpSpecials_stays {st pc n : Nat} (hm : Stays μ s.mode) : Stays μ (noteFpSpecials s st pc n).mode := by
  simp -implicitDefEqProofs [noteFpSpecials, hm]

@[simp] theorem finishTile_stays {st : Nat} {sparse : Bool} {us : List Upset} {t : Tile} (hm : Stays μ s.mode) :
    Stays μ (finishTile s st sparse us t).mode := by
  simp [finishTile, hm]

@[simp] theorem disagreeFault_stays {st : Nat} {sparse : Bool} {t : Tile} (hm : Stays μ s.mode) :
    Stays μ (disagreeFault s st sparse t).mode := by
  simp -implicitDefEqProofs [disagreeFault, hm]

@[simp] theorem endTile_stays {st : Nat} {sparse : Bool} {us : List Upset} {busy : Nat} {t : Tile} {rest : List Tile}
    (hm : Stays μ s.mode) :
    Stays μ (endTile st sparse us busy t rest s).mode := by
  simp [endTile, hm]

theorem execTileComplete_stays {st : Nat} {sparse : Bool} {upsets : List Upset} {busy : Nat} (hm : Stays μ s.mode) :
    ResStays μ (execTileComplete st sparse upsets busy s) := by
  unfold execTileComplete
  refine resStays_run hm ?_
  split <;> simp [hm]

@[simp] theorem actEngineInject_stays {q : Req} (hm : Stays μ s.mode) : Stays μ (actEngineInject q s).state.mode := by
  simp [actEngineInject, hm]

theorem execEngineInject_stays {q : Req} (hm : Stays μ s.mode) : ResStays μ (execEngineInject q s) := by
  unfold execEngineInject
  refine resStays_run hm ?_
  simp [hm]

@[simp] theorem noteQuant_stays {st : Nat} {l : List (List QBlock)} (hm : Stays μ s.mode) : Stays μ (noteQuant s st l).mode := by
  simp -implicitDefEqProofs [noteQuant, hm]

@[simp] theorem compFault_stays {st sub : Nat} (hm : Stays μ s.mode) : Stays μ (compFault s st sub).mode := by
  simp -implicitDefEqProofs [compFault, hm]

@[simp] theorem compressActs_stays {st src dst : Nat} {o : Operands} (hm : Stays μ s.mode) :
    Stays μ (compressActs s st src dst o).mode := by
  simp [compressActs, hm]

@[simp] theorem compressWeights_stays {st src dst : Nat} {o : Operands} {tpose : Bool}
    {kept : Nat → Nat → List (BitVec 32) → List Bool} (hm : Stays μ s.mode) :
    Stays μ (compressWeights s st src dst o tpose kept).mode := by
  simp [compressWeights, hm]

@[simp] theorem compressMask_stays {st src dst aux : Nat} {o : Operands} (hm : Stays μ s.mode) :
    Stays μ (compressMask s st src dst aux o).mode := by
  simp [compressMask, hm]

@[simp] theorem expandTile_stays {st src dst : Nat} {o : Operands} (hm : Stays μ s.mode) : Stays μ (expandTile s st src dst o).mode := by
  unfold expandTile
  dsimp only
  split
  · simp [hm]
  · split
    · simp [hm]
    · split
      · exact compFault_stays (by simpa using hm)
      · split <;> simp [hm]

@[simp] theorem transposeTile_stays {st src dst : Nat} {o : Operands} (hm : Stays μ s.mode) :
    Stays μ (transposeTile s st src dst o).mode := by
  simp [transposeTile, hm]

@[simp] theorem compressor_stays {mode st : Nat} {h : IHdr} {o : Operands} (hm : Stays μ s.mode) :
    Stays μ (compressor mode st h o s).mode := by
  unfold compressor
  extract_lets src dst aux hd mh srcs
  clear_value srcs
  split
  · exact hm
  · refine issue_stays hm fun t => ?_
    split
    · simp
    · refine readRanges_stays stays_self fun u => ?_
      extract_lets v
      have hv : Stays u.mode v.mode := by
        unfold v
        split <;> simp
      split <;> simp [hv]

theorem execCompressActivations_stays {st : Nat} {h : IHdr} {o : Operands} (hm : Stays μ s.mode) :
    ResStays μ (execCompressActivations st h o s) := by
  simp [execCompressActivations, hm]

theorem execCompressWeightsMask_stays {st : Nat} {h : IHdr} {o : Operands} (hm : Stays μ s.mode) :
    ResStays μ (execCompressWeightsMask st h o s) := by
  simp [execCompressWeightsMask, hm]

theorem execCompressWeightsMagnitude_stays {st : Nat} {h : IHdr} {o : Operands} (hm : Stays μ s.mode) :
    ResStays μ (execCompressWeightsMagnitude st h o s) := by
  simp [execCompressWeightsMagnitude, hm]

theorem execExpand_stays {st : Nat} {h : IHdr} {o : Operands} (hm : Stays μ s.mode) : ResStays μ (execExpand st h o s) := by
  simp [execExpand, hm]

theorem execTranspose_stays {st : Nat} {h : IHdr} {o : Operands} (hm : Stays μ s.mode) : ResStays μ (execTranspose st h o s) := by
  simp [execTranspose, hm]

@[simp] theorem afterScalars_stays {st : Nat} {rs : List Nat} {k : State → State} (hm : Stays μ s.mode) (hk : Stays μ (k s).mode) :
    Stays μ (afterScalars s st rs k).mode := by
  unfold afterScalars
  split
  · simp [hm]
  · exact hk

@[simp] theorem finishRun_stays {st : Nat} {v : VRun} (hm : Stays μ s.mode) : Stays μ (finishRun s st v).mode := by
  unfold finishRun
  simp -implicitDefEqProofs [stays_forEach, hm]

theorem execConfigure_stays {st : Nat} {h : IHdr} {o : Operands} (hm : Stays μ s.mode) : ResStays μ (execConfigure st h o s) := by
  unfold execConfigure
  refine resStays_run hm (issue_stays hm fun t => ?_)
  simp

theorem execVectorRun_stays {st : Nat} {h : IHdr} {o : Operands} {rd : SramRead} {parityOk : Bool} (hm : Stays μ s.mode) :
    ResStays μ (execVectorRun st h o rd parityOk s) := by
  unfold execVectorRun
  refine resStays_run hm (issue_stays hm fun t => ?_)
  simp

theorem execVectorRunComplete_stays {st : Nat} {busy : Nat} (hm : Stays μ s.mode) : ResStays μ (execVectorRunComplete st busy s) := by
  unfold execVectorRunComplete
  refine resStays_run hm ?_
  split <;> simp -implicitDefEqProofs [hm]

theorem execScalarSet_stays {st : Nat} {h : IHdr} {o : Operands} (hm : Stays μ s.mode) : ResStays μ (execScalarSet st h o s) := by
  simp [execScalarSet, hm]

theorem execScalarFunc_stays {st : Nat} {h : IHdr} {o : Operands} (hm : Stays μ s.mode) : ResStays μ (execScalarFunc st h o s) := by
  unfold execScalarFunc
  refine resStays_run hm (issue_stays hm fun t => ?_)
  simp

theorem execScalarStore_stays {st : Nat} {h : IHdr} {o : Operands} (hm : Stays μ s.mode) : ResStays μ (execScalarStore st h o s) := by
  unfold execScalarStore
  refine resStays_run hm (issue_stays hm fun t => ?_)
  simp

theorem execScalarLoad_stays {st : Nat} {h : IHdr} {o : Operands} (hm : Stays μ s.mode) : ResStays μ (execScalarLoad st h o s) := by
  unfold execScalarLoad
  refine resStays_run hm (issue_stays hm fun t => ?_)
  simp

@[simp] theorem fencePort_stays {p : Nat} (hm : Stays μ s.mode) : Stays μ (fencePort s p).mode := by simp [fencePort, hm]

@[simp] theorem failRetrain_stays {p : Nat} (hm : Stays μ s.mode) : Stays μ (failRetrain s p).mode := by
  simp -implicitDefEqProofs [failRetrain, hm]

@[simp] theorem endAttempt_stays {p : Nat} {st : PortState} (hm : Stays μ s.mode) : Stays μ (endAttempt s p st).mode := by
  simp [endAttempt, hm]

@[simp] theorem failPort_stays {p : Nat} {st : PortState} (hm : Stays μ s.mode) : Stays μ (failPort s p st).mode := by
  simp -implicitDefEqProofs [failPort, hm]

theorem execPortTrainingRetry_stays {p : Nat} (hm : Stays μ s.mode) : ResStays μ (execPortTrainingRetry p s) := by
  simp [execPortTrainingRetry, hm]

theorem execTrainingComplete_stays {p : Nat} {ok : Bool} (hm : Stays μ s.mode) : ResStays μ (execTrainingComplete p ok s) := by
  simp [execTrainingComplete, hm]

theorem execHello_stays {p : Nat} {m : Hello} (hm : Stays μ s.mode) : ResStays μ (execHello p m s) := by
  simp -implicitDefEqProofs [execHello, hm]

theorem execEchoFrame_stays {p roundTrip : Nat} (hm : Stays μ s.mode) : ResStays μ (execEchoFrame p roundTrip s) := by
  unfold execEchoFrame
  refine resStays_run hm ?_
  simp -implicitDefEqProofs [stays_forEach, hm]

theorem execRefusalNotice_stays {p : Nat} (hm : Stays μ s.mode) : ResStays μ (execRefusalNotice p s) := by simp [execRefusalNotice, hm]

theorem execLinkLockLoss_stays {p : Nat} (hm : Stays μ s.mode) : ResStays μ (execLinkLockLoss p s) := by
  unfold execLinkLockLoss
  refine resStays_run hm ?_
  split <;> simp [hm]

@[simp] theorem actPortRetrain_stays {p : Nat} (hm : Stays μ s.mode) : Stays μ (actPortRetrain p s).state.mode := by
  simp [actPortRetrain, hm]

theorem execPortRetrain_stays {p : Nat} {q : Req} (hm : Stays μ s.mode) : ResStays μ (execPortRetrain p q s) := by
  unfold execPortRetrain
  refine resStays_run hm ?_
  simp [hm]

@[simp] theorem actPortFence_stays {p : Nat} (hm : Stays μ s.mode) : Stays μ (actPortFence p s).state.mode := by simp [actPortFence, hm]

theorem execPortFence_stays {p : Nat} {q : Req} (hm : Stays μ s.mode) : ResStays μ (execPortFence p q s) := by
  unfold execPortFence
  refine resStays_run hm ?_
  simp [hm]

theorem execRekey_stays {p : Nat} (hm : Stays μ s.mode) : ResStays μ (execRekey p s) := by simp [execRekey, hm]

theorem execRekeyExchange_stays {p : Nat} {checksOk : Bool} (hm : Stays μ s.mode) : ResStays μ (execRekeyExchange p checksOk s) := by
  simp [execRekeyExchange, hm]

end Sys2Proof.Machine
end

section
/-! PROOFS. Operations that move the device state by a fault at most, and to Faulted alone (13 R417, R419): link frames, routing,
epochs, windows, loads and swaps. -/

-- As in the tests: proofs elaborated side by side exhaust memory in the joined text.
set_option Elab.async false

namespace Sys2Proof.Machine

variable {μ : Mode} {s : State}

theorem execLinkFrameReceived_stays {p : Nat} {f : LinkFrame} (hm : Stays μ s.mode) : ResStays μ (execLinkFrameReceived p f s) := by
  unfold execLinkFrameReceived
  refine resStays_run hm ?_
  split
  · exact hm
  · dsimp only
    split
    · simpa using hm
    · split
      · simpa using hm
      · split
        · simpa using hm
        · split
          · simpa using hm
          · simpa using hm
          · split
            · exact raise1_stays (by simpa using hm)
            · simpa using hm

theorem execControlBlock_stays {p : Nat} {b : CtrlBlock} (hm : Stays μ s.mode) : ResStays μ (execControlBlock p b s) := by
  unfold execControlBlock
  refine resStays_run hm ?_
  simp [stays_forEach, hm]

theorem execFrameTransmit_stays {p : Nat} {bufferOk : Bool} (hm : Stays μ s.mode) : ResStays μ (execFrameTransmit p bufferOk s) := by
  unfold execFrameTransmit
  refine resStays_run hm ?_
  split
  · exact hm
  · dsimp only
    split
    · simpa using hm
    · split
      · simp [hm]
      · rw [rekeyAtLimit_mode, sendNew_mode]
        split <;> split <;> simpa using hm

@[simp] theorem routeDrop_stays {came : Nat} {w cause : Nat} {p : Packet} (hm : Stays μ s.mode) :
    Stays μ (routeDrop s came w cause p).mode := by
  unfold routeDrop
  split <;> simp [hm]

@[simp] theorem deliverPacket_stays {came w : Nat} {p : Packet} (hm : Stays μ s.mode) : Stays μ (deliverPacket s came w p).mode := by
  simp [deliverPacket, hm]

@[simp] theorem rxBuffer_stays {p : Packet} {d : Depart} (hm : Stays μ s.mode) : Stays μ (rxBuffer s p d).1.mode := by
  unfold rxBuffer
  split
  · exact hm
  · rename_i o _
    have hg := grantTry_stays (owner := o) (refs := 1) (l := poolsFor s (bayOf p.targetStone) o 8192) hm
    split <;> rename_i hr <;> rw [hr] at hg <;> simpa using hg

@[simp] theorem depart_stays {w : Nat} {item : QItem} {came : Nat} {p : Packet} {d : Depart} (hm : Stays μ s.mode) :
    Stays μ (depart s w item came p d).mode := by
  unfold depart
  split <;> simp [hm]

@[simp] theorem spoilPacket_stays {came w : Nat} {p : Packet} (hm : Stays μ s.mode) : Stays μ (spoilPacket s came w p).mode := by
  simp [spoilPacket, hm]

theorem arrivals_mode {t : State} {a : Arrival} {h : Head} (hh : h ∈ arrivals s a) : (h.2.2.2.2 t).mode = t.mode := by
  unfold arrivals at hh
  split at hh
  · obtain ⟨x, -, rfl⟩ := List.mem_map.mp hh
    rfl
  · obtain ⟨q, -, e⟩ := List.mem_filterMap.mp hh
    split at e
    · obtain rfl := Option.some.inj e
      simp
    · cases e
  · obtain ⟨q, -, e⟩ := List.mem_filterMap.mp hh
    split at e
    · obtain rfl := Option.some.inj e
      rfl
    · cases e

theorem arrivalHead_mode {t : State} {a : Arrival} {w : Nat} {i : QItem} {p : Packet} {c : Came} {f : State → State}
    (e : arrivalHead s a = some (w, i, p, c, f)) :
    (f t).mode = t.mode :=
  arrivals_mode (mem_of_mem_bufferHeads (List.mem_of_find?_eq_some e))

theorem execPacketRoute_stays {a : Arrival} {bufferOk : Bool} (hm : Stays μ s.mode) : ResStays μ (execPacketRoute a bufferOk s) := by
  unfold execPacketRoute
  refine resStays_run hm ?_
  split
  · exact hm
  · rename_i w item p came take ha
    split
    · exact hm
    · dsimp only
      split
      · exact spoilPacket_stays (by rw [arrivalHead_mode ha]; exact hm)
      · have hg := rxBuffer_stays (p := p) (d := decideRoute s w came p) hm
        split <;> rename_i hr <;> rw [hr] at hg
        · exact hg
        · exact stays_forEach (depart_stays (by rw [arrivalHead_mode ha]; exact hg)) fun t h => release_stays stays_self

@[simp] theorem actAqSet_stays {q : Req} (hm : Stays μ s.mode) : Stays μ (actAqSet q s).state.mode := by
  unfold actAqSet
  dsimp only
  split <;> simp [hm]

theorem execAqSet_stays {q : Req} (hm : Stays μ s.mode) : ResStays μ (execAqSet q s) := by
  unfold execAqSet
  refine resStays_run hm ?_
  simp [hm]

@[simp] theorem actAqClear_stays {q : Req} (hm : Stays μ s.mode) : Stays μ (actAqClear q s).state.mode := by simp [actAqClear, hm]

theorem execAqClear_stays {q : Req} (hm : Stays μ s.mode) : ResStays μ (execAqClear q s) := by
  unfold execAqClear
  refine resStays_run hm ?_
  simp [hm]

@[simp] theorem actAqShare_stays {q : Req} (hm : Stays μ s.mode) : Stays μ (actAqShare q s).state.mode := by simp [actAqShare, hm]

theorem execAqueductPacket_stays {inPort : Nat} {a : AqPacket} (hm : Stays μ s.mode) : ResStays μ (execAqueductPacket inPort a s) := by
  simp [execAqueductPacket, hm]

@[simp] theorem actTableInstall_stays {e : Nat} (hm : Stays μ s.mode) : Stays μ (actTableInstall e s).state.mode := by
  simp [actTableInstall, hm]

theorem execTableInstall_stays {q : Req} (hm : Stays μ s.mode) : ResStays μ (execTableInstall q s) := by
  unfold execTableInstall
  refine resStays_run hm ?_
  simp [hm]

@[simp] theorem actInjectEpoch_stays {e : Nat} (hm : Stays μ s.mode) : Stays μ (actInjectEpoch e s).state.mode := by
  unfold actInjectEpoch
  simp [stays_forEach, hm]

theorem execInjectEpoch_stays {q : Req} (hm : Stays μ s.mode) : ResStays μ (execInjectEpoch q s) := by
  unfold execInjectEpoch
  refine resStays_run hm ?_
  simp [hm]

@[simp] theorem actTableRetire_stays {e : Nat} (hm : Stays μ s.mode) : Stays μ (actTableRetire e s).state.mode := by
  simp [actTableRetire, hm]

theorem execTableRetire_stays {q : Req} (hm : Stays μ s.mode) : ResStays μ (execTableRetire q s) := by
  unfold execTableRetire
  refine resStays_run hm ?_
  simp [hm]

@[simp] theorem epochOp_stays {op e : Nat} (hm : Stays μ s.mode) : Stays μ (epochOp op e s).1.mode := by
  have ha : Stays μ (if op = 1 then actTableInstall e s else if op = 2 then actInjectEpoch e s
      else if op = 4 then actTableRetire e s else .done s).state.mode := by
    split
    · exact actTableInstall_stays hm
    · split
      · exact actInjectEpoch_stays hm
      · split
        · exact actTableRetire_stays hm
        · exact hm
  unfold epochOp
  dsimp only
  split <;> simp_all

@[simp] theorem actEpochStep_stays {q : Req} (hm : Stays μ s.mode) : Stays μ (actEpochStep q s).state.mode := by
  unfold actEpochStep
  simp [stays_forEach, hm]

@[simp] theorem epochStepRow_stays {op : Nat} {q : Req} (hm : Stays μ s.mode) : Stays μ (epochStepRow op q s).mode := by
  simp [epochStepRow, hm]

theorem execEpochStepInstall_stays {q : Req} (hm : Stays μ s.mode) : ResStays μ (execEpochStepInstall q s) := by
  simp [execEpochStepInstall, hm]

theorem execEpochStepFlip_stays {q : Req} (hm : Stays μ s.mode) : ResStays μ (execEpochStepFlip q s) := by simp [execEpochStepFlip, hm]

theorem execEpochStepPoll_stays {q : Req} (hm : Stays μ s.mode) : ResStays μ (execEpochStepPoll q s) := by simp [execEpochStepPoll, hm]

theorem execEpochStepRetire_stays {q : Req} (hm : Stays μ s.mode) : ResStays μ (execEpochStepRetire q s) := by
  simp [execEpochStepRetire, hm]

theorem execEpochStepMember_stays {fromPos op epoch : Nat} (hm : Stays μ s.mode) : ResStays μ (execEpochStepMember fromPos op epoch s) := by
  simp [execEpochStepMember, hm]

theorem execEpochStepAnswer_stays {pos : Nat} {accepted : Bool} {injecting epochIn epochHeld : Nat} (hm : Stays μ s.mode) :
    ResStays μ (execEpochStepAnswer pos accepted injecting epochIn epochHeld s) := by
  unfold execEpochStepAnswer
  refine resStays_run hm ?_
  split <;> simp [hm]

theorem execEpochStepTimeout_stays (hm : Stays μ s.mode) : ResStays μ (execEpochStepTimeout s) := by
  unfold execEpochStepTimeout
  refine resStays_run hm ?_
  split <;> simp [hm]

@[simp] theorem actWindowSet_stays {q : Req} (hm : Stays μ s.mode) : Stays μ (actWindowSet q s).state.mode := by simp [actWindowSet, hm]

theorem execWindowSet_stays {q : Req} (hm : Stays μ s.mode) : ResStays μ (execWindowSet q s) := by
  unfold execWindowSet
  refine resStays_run hm ?_
  simp [hm]

@[simp] theorem actWindowClear_stays {q : Req} (hm : Stays μ s.mode) : Stays μ (actWindowClear q s).state.mode := by
  simp [actWindowClear, hm]

theorem execWindowClear_stays {q : Req} (hm : Stays μ s.mode) : ResStays μ (execWindowClear q s) := by
  unfold execWindowClear
  refine resStays_run hm ?_
  simp [hm]

@[simp] theorem actLoad_stays {q : Req} (hm : Stays μ s.mode) : Stays μ (actLoad q s).state.mode := by simp [actLoad, hm]

theorem execLoad_stays {q : Req} (hm : Stays μ s.mode) : ResStays μ (execLoad q s) := by
  unfold execLoad
  refine resStays_run hm ?_
  simp [hm]

@[simp] theorem writeTables_stays {c : Nat} {m : List (Nat × Nat)} {i : Image} (hm : Stays μ s.mode) :
    Stays μ (writeTables s c m i).mode := by
  unfold writeTables
  refine stays_forEach (stays_forEach hm fun t l => stays_forEach stays_self fun u b => by simp) fun t o => by simp

@[simp] theorem loadDone_stays {l : Loading} {i : Image} {m : List (Nat × Nat)} {base : Nat} (hm : Stays μ s.mode) :
    Stays μ (loadDone s l i m base).mode := by
  simp [loadDone, hm]

theorem execLoadComplete_stays {img : Image} (hm : Stays μ s.mode) : ResStays μ (execLoadComplete img s) := by
  unfold execLoadComplete
  refine resStays_run hm ?_
  split
  · exact hm
  · extract_lets u
    have hu : Stays μ u.mode := by simpa [u] using hm
    clear_value u
    split
    · simp [hu]
    · split
      · exact hu
      · dsimp only
        rw [endDeferred_mode, loadRecord_mode]
        exact loadDone_stays hu

@[simp] theorem actUnload_stays {c : Nat} (hm : Stays μ s.mode) : Stays μ (actUnload c s).state.mode := by
  unfold actUnload
  split <;> simp [hm]

theorem execUnload_stays {ctx : Nat} {q : Req} (hm : Stays μ s.mode) : ResStays μ (execUnload ctx q s) := by
  unfold execUnload
  refine resStays_run hm ?_
  simp [hm]

@[simp] theorem leaveWindows_stays {c : Nat} (hm : Stays μ s.mode) : Stays μ (leaveWindows s c).mode := by
  unfold leaveWindows
  exact stays_forEach hm fun t a => by simp

@[simp] theorem releaseCtx_stays {c : Nat} (hm : Stays μ s.mode) : Stays μ (releaseCtx s c).mode := by
  unfold releaseCtx
  simp [stays_forEach, hm]

theorem execUnloadComplete_stays {ctx : Nat} (hm : Stays μ s.mode) : ResStays μ (execUnloadComplete ctx s) := by
  simp [execUnloadComplete, hm]

@[simp] theorem actResume_stays {c : Nat} {q : Req} (hm : Stays μ s.mode) : Stays μ (actResume c q s).state.mode := by
  unfold actResume
  simp [stays_forEach, hm]

theorem execResumeContinue_stays {ctx : Nat} {q : Req} (hm : Stays μ s.mode) : ResStays μ (execResumeContinue ctx q s) := by
  unfold execResumeContinue
  refine resStays_run hm ?_
  simp [hm]

theorem execResumeStepMark_stays {ctx : Nat} {q : Req} (hm : Stays μ s.mode) : ResStays μ (execResumeStepMark ctx q s) := by
  unfold execResumeStepMark
  refine resStays_run hm ?_
  simp [hm]

theorem execSliceGrant_stays {ctx : Nat} (hm : Stays μ s.mode) : ResStays μ (execSliceGrant ctx s) := by
  unfold execSliceGrant
  refine resStays_run hm ?_
  simp -implicitDefEqProofs [stays_forEach, hm]

theorem execSliceExpiry_stays {ctx : Nat} (hm : Stays μ s.mode) : ResStays μ (execSliceExpiry ctx s) := by simp [execSliceExpiry, hm]

theorem execSliceStopComplete_stays {ctx : Nat} {overrunUs : Nat} (hm : Stays μ s.mode) :
    ResStays μ (execSliceStopComplete ctx overrunUs s) := by
  simp [execSliceStopComplete, hm]

theorem execSwapInStart_stays (hm : Stays μ s.mode) : ResStays μ (execSwapInStart s) := by
  unfold execSwapInStart
  refine resStays_run hm ?_
  split
  · exact hm
  · split
    · exact hm
    · dsimp only
      refine stays_forEach ?_ fun t o => by simp
      rw [modCtx_mode]
      exact stays_forEach hm fun t v => by simp

@[simp] theorem swapOutWindows_stays {c : Nat} (hm : Stays μ s.mode) : Stays μ (swapOutWindows s c).mode := by
  unfold swapOutWindows
  exact stays_forEach hm fun t a => by simp

theorem execSwapOutComplete_stays {ctx : Nat} (hm : Stays μ s.mode) : ResStays μ (execSwapOutComplete ctx s) := by
  unfold execSwapOutComplete
  refine resStays_run hm ?_
  simp -implicitDefEqProofs [stays_forEach, hm]

theorem execSwapInComplete_stays {ctx : Nat} (hm : Stays μ s.mode) : ResStays μ (execSwapInComplete ctx s) := by
  unfold execSwapInComplete
  refine resStays_run hm ?_
  simp [stays_forEach, hm]

end Sys2Proof.Machine
end

section
/-! PROOFS. Operations that move the device state by a fault at most, and to Faulted alone (13 R417, R419): job answers, rings, Umora
Link, time, and the reports of faults. -/

-- As in the tests: proofs elaborated side by side exhaust memory in the joined text.
set_option Elab.async false

namespace Sys2Proof.Machine

variable {μ : Mode} {s : State}

theorem execJobStepAnswer_stays {answers : List (Nat × Nat)} (hm : Stays μ s.mode) : ResStays μ (execJobStepAnswer answers s) := by
  simp [execJobStepAnswer, hm]

theorem execJobChildWaitExpiry_stays (hm : Stays μ s.mode) : ResStays μ (execJobChildWaitExpiry s) := by
  unfold execJobChildWaitExpiry
  refine resStays_run hm ?_
  split <;> simp [hm]

theorem execJobStepTimeout_stays (hm : Stays μ s.mode) : ResStays μ (execJobStepTimeout s) := by
  unfold execJobStepTimeout
  refine resStays_run hm ?_
  split <;> simp [hm]

@[simp] theorem unloadAll_stays (hm : Stays μ s.mode) : Stays μ (unloadAll s).mode := by
  unfold unloadAll
  exact stays_forEach hm fun t a => by simp

@[simp] theorem actSubmitDoorbell_stays {q : Req} (hm : Stays μ s.mode) : Stays μ (actSubmitDoorbell q s).state.mode := by
  simp [actSubmitDoorbell, hm]

theorem execSubmitDoorbell_stays {q : Req} (hm : Stays μ s.mode) : ResStays μ (execSubmitDoorbell q s) := by
  unfold execSubmitDoorbell
  refine resStays_run hm ?_
  simp [hm]

@[simp] theorem postEntry_stays {c : Nat} {e : RingEntry} {code : Nat} (hm : Stays μ s.mode) : Stays μ (postEntry s c e code).mode := by
  simp [postEntry, hm]

@[simp] theorem refuseEntry_stays {c : Nat} {e : RingEntry} (hm : Stays μ s.mode) : Stays μ (refuseEntry s c e).mode := by
  simp [refuseEntry, hm]

theorem execRingNop_stays {ring : Nat} {e : RingEntry} (hm : Stays μ s.mode) : ResStays μ (execRingNop ring e s) := by
  simp [execRingNop, hm]

@[simp] theorem chunkStep_stays {c : Nat} {p : Prompt} {extra : List (Nat × Nat × Bool)} (hm : Stays μ s.mode) :
    Stays μ (chunkStep s c p extra).mode := by
  simp [chunkStep, hm]

@[simp] theorem allChunks_stays {c : Nat} {x : List (Nat × Nat × Bool)} {n : Nat} {p : Prompt} (hm : Stays μ s.mode) :
    Stays μ (allChunks c x n p s).mode := by
  induction n generalizing p s μ with
  | zero => exact hm
  | succ n ih =>
    unfold allChunks
    dsimp only
    split
    · exact chunkStep_stays hm
    · exact ih (chunkStep_stays hm)

@[simp] theorem flushPrompts_stays {c : Nat} {x : List (Nat × Nat × Bool)} {l : List Prompt} (hm : Stays μ s.mode) :
    Stays μ (flushPrompts c x l s).mode := by
  induction l generalizing s with
  | nil => exact hm
  | cons p l ih =>
    cases l with
    | nil => exact allChunks_stays hm
    | cons q l => exact ih (allChunks_stays hm)

@[simp] theorem formStep_stays {c i : Nat} {e : RingEntry} (hm : Stays μ s.mode) : Stays μ (formStep s c i e).mode := by
  unfold formStep
  dsimp only
  split <;> simp [hm]

theorem execRingStep_stays {ring : Nat} {e : RingEntry} (hm : Stays μ s.mode) : ResStays μ (execRingStep ring e s) := by
  simp [execRingStep, hm]

theorem execRingPrefill_stays {ring : Nat} {e : RingEntry} (hm : Stays μ s.mode) : ResStays μ (execRingPrefill ring e s) := by
  simp [execRingPrefill, hm]

theorem execRingFlush_stays {ring : Nat} {e : RingEntry} (hm : Stays μ s.mode) : ResStays μ (execRingFlush ring e s) := by
  simp [execRingFlush, hm]

theorem execRingReadError_stays {ring : Nat} (hm : Stays μ s.mode) : ResStays μ (execRingReadError ring s) := by
  simp -implicitDefEqProofs [execRingReadError, hm]

@[simp] theorem actRingEnable_stays {c : Nat} {q : Req} (hm : Stays μ s.mode) : Stays μ (actRingEnable c q s).state.mode := by
  simp [actRingEnable, hm]

theorem execRingEnable_stays {ctx : Nat} {q : Req} (hm : Stays μ s.mode) : ResStays μ (execRingEnable ctx q s) := by
  unfold execRingEnable
  refine resStays_run hm ?_
  simp [hm]

@[simp] theorem actRingResume_stays {c : Nat} (hm : Stays μ s.mode) : Stays μ (actRingResume c s).state.mode := by simp [actRingResume, hm]

theorem execRingResume_stays {ctx : Nat} {q : Req} (hm : Stays μ s.mode) : ResStays μ (execRingResume ctx q s) := by
  unfold execRingResume
  refine resStays_run hm ?_
  simp [hm]

@[simp] theorem actRingSet_stays {c sub : Nat} {q : Req} (hm : Stays μ s.mode) : Stays μ (actRingSet c sub q s).state.mode := by
  simp [actRingSet, hm]

@[simp] theorem actResultRelease_stays {m : Nat} {q : Req} (hm : Stays μ s.mode) : Stays μ (actResultRelease m q s).state.mode := by
  simp [actResultRelease, hm]

theorem execResultRelease_stays {mailbox : Nat} {q : Req} (hm : Stays μ s.mode) : ResStays μ (execResultRelease mailbox q s) := by
  unfold execResultRelease
  refine resStays_run hm ?_
  simp [hm]

theorem execResultMailboxRead_stays {mailbox : Nat} {q : Req} (hm : Stays μ s.mode) : ResStays μ (execResultMailboxRead mailbox q s) := by
  unfold execResultMailboxRead
  refine resStays_run hm ?_
  rw [serveRead_mode fun t => by simp]
  exact hm

theorem execFlitReceived_stays {f : Flit} (hm : Stays μ s.mode) : ResStays μ (execFlitReceived f s) := by simp [execFlitReceived, hm]

theorem execUmoraLockLoss_stays (hm : Stays μ s.mode) : ResStays μ (execUmoraLockLoss s) := by simp [execUmoraLockLoss, hm]

@[simp] theorem actLinkRetrain_stays (hm : Stays μ s.mode) : Stays μ (actLinkRetrain s).state.mode := by simp [actLinkRetrain, hm]

theorem execLinkRetrain_stays {q : Req} (hm : Stays μ s.mode) : ResStays μ (execLinkRetrain q s) := by
  unfold execLinkRetrain
  refine resStays_run hm ?_
  simp [hm]

theorem execUmoraTrainingComplete_stays {lanes : Nat} {roundTrip : Nat} (hm : Stays μ s.mode) :
    ResStays μ (execUmoraTrainingComplete lanes roundTrip s) := by
  simp -implicitDefEqProofs [execUmoraTrainingComplete, hm]

theorem execUmoraDown_stays (hm : Stays μ s.mode) : ResStays μ (execUmoraDown s) := by
  unfold execUmoraDown
  refine resStays_run hm ?_
  split
  · exact hm
  · extract_lets v w u gone
    have hv : Stays μ v.mode := by simpa [v] using hm
    have hu : Stays μ u.mode := raise_stays hv
    exact stays_forEach (stays_forEach hu fun t d => by simp) fun t d => startDma_stays (by simp)

theorem execHostCompletion_stays {tag status : Nat} {last : Bool} {bytes : List (BitVec 8)} (hm : Stays μ s.mode) :
    ResStays μ (execHostCompletion tag status last bytes s) := by
  simp [execHostCompletion, hm]

@[simp] theorem setTimeValid_stays {v : Bool} (hm : Stays μ s.mode) : Stays μ (setTimeValid s v).mode := by
  simp -implicitDefEqProofs [setTimeValid, hm]

theorem execTimeBeacon_stays {beaconTime arrivalTime : Nat} (hm : Stays μ s.mode) :
    ResStays μ (execTimeBeacon beaconTime arrivalTime s) := by
  simp [execTimeBeacon, hm]

theorem execBadMessage_stays {code : Nat} (hm : Stays μ s.mode) : ResStays μ (execBadMessage code s) := by simp [execBadMessage, hm]

theorem execHoldoverExpiry_stays (hm : Stays μ s.mode) : ResStays μ (execHoldoverExpiry s) := by simp [execHoldoverExpiry, hm]

@[simp] theorem loseAccumulator_stays {f : Fault16} (hm : Stays μ s.mode) : Stays μ (loseAccumulator s f).mode := by
  unfold loseAccumulator
  split
  · split <;> simp [hm]
  · simp [hm]

theorem execFaultReport_stays {fs : List Fault16} (hm : Stays μ s.mode) : ResStays μ (execFaultReport fs s) := by
  unfold execFaultReport
  refine resStays_run hm (raise_stays (stays_forEach (stays_forEach (stays_forEach hm ?_) ?_) ?_))
  · exact fun t f => by simp
  · exact fun t f => by simp
  · exact fun t f => by simp

theorem execReportWireStuck_stays {kind unit level : Nat} (hm : Stays μ s.mode) : ResStays μ (execReportWireStuck kind unit level s) := by
  simp [execReportWireStuck, hm]

@[simp] theorem actFaultAck_stays {q : Req} (hm : Stays μ s.mode) : Stays μ (actFaultAck q s).state.mode := by simp [actFaultAck, hm]

theorem execFaultAck_stays {q : Req} (hm : Stays μ s.mode) : ResStays μ (execFaultAck q s) := by
  unfold execFaultAck
  refine resStays_run hm ?_
  simp [hm]

theorem execCAckHoldExpiry_stays (hm : Stays μ s.mode) : ResStays μ (execCAckHoldExpiry s) := by simp [execCAckHoldExpiry, hm]

theorem execFaultSummarySend_stays (hm : Stays μ s.mode) : ResStays μ (execFaultSummarySend s) := by simp [execFaultSummarySend, hm]

theorem execFaultSummary_stays {fromPos byte : Nat} (hm : Stays μ s.mode) : ResStays μ (execFaultSummary fromPos byte s) := by
  simp [execFaultSummary, hm]

theorem execSummaryStale_stays {pos : Nat} (hm : Stays μ s.mode) : ResStays μ (execSummaryStale pos s) := by simp [execSummaryStale, hm]

end Sys2Proof.Machine
end

section
/-! PROOFS. Operations that move the device state by a fault at most, and to Faulted alone (13 R417, R419): interrupts, power,
start-up, security, the actions of dictionary writes, and the tick of the clock. -/

-- As in the tests: proofs elaborated side by side exhaust memory in the joined text.
set_option Elab.async false

namespace Sys2Proof.Machine

variable {μ : Mode} {s : State}

theorem execInterruptSelect_stays {target : Nat} (hm : Stays μ s.mode) : ResStays μ (execInterruptSelect target s) := by
  unfold execInterruptSelect
  refine resStays_run hm ?_
  dsimp only
  split <;> simp [hm]

theorem execInterruptDelivery_stays {source : Nat} (hm : Stays μ s.mode) : ResStays μ (execInterruptDelivery source s) := by
  unfold execInterruptDelivery
  refine resStays_run hm ?_
  split <;> simp [hm]

theorem execMgmtEoi_stays {target source : Nat} (hm : Stays μ s.mode) : ResStays μ (execMgmtEoi target source s) := by
  simp -implicitDefEqProofs [execMgmtEoi, hm]

@[simp] theorem actHostEoi_stays {q : Req} (hm : Stays μ s.mode) : Stays μ (actHostEoi q s).state.mode := by simp [actHostEoi, hm]

theorem execHostEoi_stays {q : Req} (hm : Stays μ s.mode) : ResStays μ (execHostEoi q s) := by
  unfold execHostEoi
  refine resStays_run hm ?_
  simp [hm]

@[simp] theorem actServe_stays {n : Nat} (hm : Stays μ s.mode) : Stays μ (actServe n s).state.mode := by simp [actServe, hm]

theorem execServe_stays {source : Nat} {q : Req} (hm : Stays μ s.mode) : ResStays μ (execServe source q s) := by
  unfold execServe
  refine resStays_run hm ?_
  simp [hm]

@[simp] theorem actPending_stays {w : Nat} {q : Req} (hm : Stays μ s.mode) : Stays μ (actPending w q s).state.mode := by
  simp [actPending, hm]

theorem execPendingWrite_stays {word : Nat} {q : Req} (hm : Stays μ s.mode) : ResStays μ (execPendingWrite word q s) := by
  unfold execPendingWrite
  refine resStays_run hm ?_
  simp [hm]

@[simp] theorem actSourceConfig_stays {n : Nat} {q : Req} (hm : Stays μ s.mode) : Stays μ (actSourceConfig n q s).state.mode := by
  simp [actSourceConfig, hm]

theorem execPowerStateEntry_stays (hm : Stays μ s.mode) : ResStays μ (execPowerStateEntry s) := by simp [execPowerStateEntry, hm]

theorem execPowerEntryComplete_stays (hm : Stays μ s.mode) : ResStays μ (execPowerEntryComplete s) := by
  unfold execPowerEntryComplete
  refine resStays_run hm ?_
  split <;> simp [hm]

theorem execWakeEvent_stays {c : WakeCause} (hm : Stays μ s.mode) : ResStays μ (execWakeEvent c s) := by
  unfold execWakeEvent
  refine resStays_run hm ?_
  split <;> simp [hm]

@[simp] theorem restoreStill_stays (hm : Stays μ s.mode) : Stays μ (restoreStill s).mode := by
  unfold restoreStill
  exact stays_forEach hm fun t a => by simp

theorem execWakeComplete_stays (hm : Stays μ s.mode) : ResStays μ (execWakeComplete s) := by simp [execWakeComplete, hm]

@[simp] theorem actWakeTolerance_stays {q : Req} (hm : Stays μ s.mode) : Stays μ (actWakeTolerance q s).state.mode := by
  simp [actWakeTolerance, hm]

theorem execWakeTolerance_stays {q : Req} (hm : Stays μ s.mode) : ResStays μ (execWakeTolerance q s) := by
  unfold execWakeTolerance
  refine resStays_run hm ?_
  simp [hm]

@[simp] theorem actPowerSetting_stays {sub : Nat} {q : Req} (hm : Stays μ s.mode) : Stays μ (actPowerSetting sub q s).state.mode := by
  simp [actPowerSetting, hm]

theorem execPowerMeasurement_stays {milliwatts : Nat} (hm : Stays μ s.mode) : ResStays μ (execPowerMeasurement milliwatts s) := by
  simp [execPowerMeasurement, hm]

@[simp] theorem thermalTrip_stays {a b : Int} (hm : Stays μ s.mode) : Stays μ (thermalTrip s a b).mode := by simp [thermalTrip, hm]

theorem execTemperatureReading_stays {a b : Int} (hm : Stays μ s.mode) : ResStays μ (execTemperatureReading a b s) := by
  unfold execTemperatureReading
  refine resStays_run hm ?_
  simp -implicitDefEqProofs [hm]

theorem execSupplyRange_stays {rail : Nat} (hm : Stays μ s.mode) : ResStays μ (execSupplyRange rail s) := by simp [execSupplyRange, hm]

theorem execRefclkLost_stays (hm : Stays μ s.mode) : ResStays μ (execRefclkLost s) := by
  unfold execRefclkLost
  refine resStays_run hm ?_
  simp [hm]

@[simp] theorem pllUnlock_stays (hm : Stays μ s.mode) : Stays μ (pllUnlock s).mode := by simp [pllUnlock, hm]

theorem execPllLockTimeout_stays {pll : Nat} (hm : Stays μ s.mode) : ResStays μ (execPllLockTimeout pll s) := by
  simp [execPllLockTimeout, hm]

theorem execPllLockLoss_stays {pll : Nat} (hm : Stays μ s.mode) : ResStays μ (execPllLockLoss pll s) := by
  simp -implicitDefEqProofs [execPllLockLoss, hm]

theorem execInitSramZeroed_stays (hm : Stays μ s.mode) : ResStays μ (execInitSramZeroed s) := by simp [execInitSramZeroed, hm]

theorem execStacksTrained_stays {failed : Option Nat} (hm : Stays μ s.mode) : ResStays μ (execStacksTrained failed s) := by
  unfold execStacksTrained
  refine resStays_run hm ?_
  split
  · simp [hm]
  · split <;> simp [hm]

theorem execTier1Zeroed_stays (hm : Stays μ s.mode) : ResStays μ (execTier1Zeroed s) := by simp [execTier1Zeroed, hm]

theorem execTier1Scrub_stays {stack : Nat} {corrected uncorrected : List Nat} (hm : Stays μ s.mode) :
    ResStays μ (execTier1Scrub stack corrected uncorrected s) := by
  unfold execTier1Scrub
  exact resStays_run hm (stays_forEach (stays_forEach hm fun t a => raise1_stays stays_self) fun t a => raise1_stays stays_self)

@[simp] theorem actFirmwareLoad_stays {q : Req} (hm : Stays μ s.mode) : Stays μ (actFirmwareLoad q s).state.mode := by
  simp [actFirmwareLoad, hm]

theorem execFirmwareLoad_stays {q : Req} (hm : Stays μ s.mode) : ResStays μ (execFirmwareLoad q s) := by
  unfold execFirmwareLoad
  refine resStays_run hm ?_
  simp [hm]

@[simp] theorem refuseFirmware_stays {status code : Nat} (hm : Stays μ s.mode) : Stays μ (refuseFirmware s status code).mode := by
  simp -implicitDefEqProofs [refuseFirmware, hm]

@[simp] theorem actSecurityCommit_stays (hm : Stays μ s.mode) : Stays μ (actSecurityCommit s).state.mode := by simp [actSecurityCommit, hm]

theorem execSecurityVersionCommit_stays {q : Req} (hm : Stays μ s.mode) : ResStays μ (execSecurityVersionCommit q s) := by
  unfold execSecurityVersionCommit
  refine resStays_run hm ?_
  simp [hm]

theorem execRngHealth_stays (hm : Stays μ s.mode) : ResStays μ (execRngHealth s) := by simp [execRngHealth, hm]

@[simp] theorem actOwnerKey_stays {q : Req} (hm : Stays μ s.mode) : Stays μ (actOwnerKey q s).state.mode := by simp [actOwnerKey, hm]

theorem execOwnerKey_stays {q : Req} (hm : Stays μ s.mode) : ResStays μ (execOwnerKey q s) := by
  unfold execOwnerKey
  refine resStays_run hm ?_
  simp [hm]

@[simp] theorem actEndorsement_stays {sigOk : Bool} {q : Req} (hm : Stays μ s.mode) : Stays μ (actEndorsement sigOk q s).state.mode := by
  simp [actEndorsement, hm]

theorem execEndorsement_stays {sigOk : Bool} {q : Req} (hm : Stays μ s.mode) : ResStays μ (execEndorsement sigOk q s) := by
  unfold execEndorsement
  refine resStays_run hm ?_
  simp [hm]

@[simp] theorem actAttestNonce_stays {q : Req} (hm : Stays μ s.mode) : Stays μ (actAttestNonce q s).state.mode := by
  simp [actAttestNonce, hm]

theorem execAttestNonce_stays {q : Req} (hm : Stays μ s.mode) : ResStays μ (execAttestNonce q s) := by
  unfold execAttestNonce
  refine resStays_run hm ?_
  simp [hm]

theorem execQuoteComplete_stays (hm : Stays μ s.mode) : ResStays μ (execQuoteComplete s) := by
  unfold execQuoteComplete
  refine resStays_run hm ?_
  split
  · exact hm
  · simp -implicitDefEqProofs [hm]

@[simp] theorem beginUnlock_stays (hm : Stays μ s.mode) : Stays μ (beginUnlock s).mode := by
  unfold beginUnlock
  extract_lets u v
  have hu : Stays μ u.mode := stays_forEach hm fun t p => by split <;> simp
  have hv : Stays μ v.mode := stays_forEach hu fun t c => by simp
  have hg : Stays μ (endCollectives v).1.mode := by simpa using hv
  dsimp only
  exact raise_stays hg

@[simp] theorem actTestUnlock_stays {sigOk : Bool} {q : Req} (hm : Stays μ s.mode) : Stays μ (actTestUnlock sigOk q s).state.mode := by
  simp -implicitDefEqProofs [actTestUnlock, hm]

theorem execTestUnlock_stays {sigOk : Bool} {q : Req} (hm : Stays μ s.mode) : ResStays μ (execTestUnlock sigOk q s) := by
  unfold execTestUnlock
  refine resStays_run hm ?_
  simp [hm]

theorem execTestPortInstruction_stays {t : TapInstr} (hm : Stays μ s.mode) : ResStays μ (execTestPortInstruction t s) := by
  simp -implicitDefEqProofs [execTestPortInstruction, hm]

@[simp] theorem actPackageId_stays {q : Req} (hm : Stays μ s.mode) : Stays μ (actPackageId q s).state.mode := by
  unfold actPackageId
  extract_lets old new was u v
  have hv : Stays μ v.mode := by simpa [v, u] using hm
  rw [actState_done]
  split
  · exact hv
  · refine stays_forEach hv fun t p => ?_
    split <;> simp

theorem execPackageIdWrite_stays {q : Req} (hm : Stays μ s.mode) : ResStays μ (execPackageIdWrite q s) := by
  unfold execPackageIdWrite
  refine resStays_run hm ?_
  simp [hm]

@[simp] theorem actKeystone_stays {q : Req} (hm : Stays μ s.mode) : Stays μ (actKeystone q s).state.mode := by simp [actKeystone, hm]

theorem execKeystonePositionWrite_stays {q : Req} (hm : Stays μ s.mode) : ResStays μ (execKeystonePositionWrite q s) := by
  unfold execKeystonePositionWrite
  refine resStays_run hm ?_
  simp [hm]

theorem execKeystoneBeacon_stays (hm : Stays μ s.mode) : ResStays μ (execKeystoneBeacon s) := by
  unfold execKeystoneBeacon
  refine resStays_run hm ?_
  simp -implicitDefEqProofs [stays_forEach, hm]

theorem execPondBeacon_stays {fromPos : Nat} (hm : Stays μ s.mode) : ResStays μ (execPondBeacon fromPos s) := by simp [execPondBeacon, hm]

theorem execKeystoneSilent_stays (hm : Stays μ s.mode) : ResStays μ (execKeystoneSilent s) := by simp [execKeystoneSilent, hm]

@[simp] theorem actHotRing_stays {q : Req} (hm : Stays μ s.mode) : Stays μ (actHotRing q s).state.mode := by simp [actHotRing, hm]

@[simp] theorem actFaultLog_stays {q : Req} (hm : Stays μ s.mode) : Stays μ (actFaultLog q s).state.mode := by simp [actFaultLog, hm]

@[simp] theorem actLakeWindow_stays {sub : Nat} {q : Req} (hm : Stays μ s.mode) : Stays μ (actLakeWindow sub q s).state.mode := by
  simp [actLakeWindow, hm]

@[simp] theorem actOwnRegion_stays {idx sub : Nat} {q : Req} (hm : Stays μ s.mode) : Stays μ (actOwnRegion idx sub q s).state.mode := by
  simp [actOwnRegion, hm]

@[simp] theorem actRetention_stays {sub : Nat} {q : Req} (hm : Stays μ s.mode) : Stays μ (actRetention sub q s).state.mode := by
  simp [actRetention, hm]

@[simp] theorem actClass_stays {c : Nat} {q : Req} (hm : Stays μ s.mode) : Stays μ (actClass c q s).state.mode := by simp [actClass, hm]

@[simp] theorem actGroupSet_stays {idx sub : Nat} {q : Req} (hm : Stays μ s.mode) : Stays μ (actGroupSet idx sub q s).state.mode := by
  simp [actGroupSet, hm]

@[simp] theorem actDictDoorbell_stays {q : Req} (hm : Stays μ s.mode) : Stays μ (actDictDoorbell q s).state.mode := by
  simp [actDictDoorbell, hm]

theorem act_ite_stays {c : Prop} [Decidable c] {f g : State → Act} (hf : Stays μ (f s).state.mode) (hg : Stays μ (g s).state.mode) :
    Stays μ ((if c then f else g) s).state.mode := by
  split <;> assumption

@[simp] theorem actionLow_stays {idx sub : Nat} {q : Req} (hm : Stays μ s.mode) : Stays μ (actionLow idx sub q s).state.mode := by
  unfold actionLow
  refine act_ite_stays (actPackageId_stays hm) ?_
  refine act_ite_stays (actDictDoorbell_stays hm) ?_
  refine act_ite_stays (actKeystone_stays hm) ?_
  refine act_ite_stays (actAqShare_stays hm) ?_
  refine act_ite_stays (actAqSet_stays hm) ?_
  refine act_ite_stays (actAqClear_stays hm) ?_
  refine act_ite_stays (actTableInstall_stays hm) ?_
  refine act_ite_stays (actInjectEpoch_stays hm) ?_
  refine act_ite_stays (actTableRetire_stays hm) ?_
  refine act_ite_stays (actEpochStep_stays hm) ?_
  refine act_ite_stays (actPortFence_stays hm) ?_
  refine act_ite_stays (actPortRetrain_stays hm) ?_
  refine act_ite_stays (actWakeTolerance_stays hm) ?_
  refine act_ite_stays (actPowerSetting_stays hm) ?_
  exact actStore_stays hm

@[simp] theorem actionHigh_stays {idx sub : Nat} {q : Req} (hm : Stays μ s.mode) : Stays μ (actionHigh idx sub q s).state.mode := by
  unfold actionHigh
  refine act_ite_stays (actRetireGeneration_stays hm) ?_
  refine act_ite_stays (actAbandonStranded_stays hm) ?_
  refine act_ite_stays (actPlacementUpdate_stays hm) ?_
  refine act_ite_stays (actOwnRegion_stays hm) ?_
  refine act_ite_stays (actCollAbort_stays hm) ?_
  refine act_ite_stays (actGroupCommit_stays hm) ?_
  refine act_ite_stays (actGroupSet_stays hm) ?_
  refine act_ite_stays (actFaultAck_stays hm) ?_
  refine act_ite_stays (actFenceStone_stays hm) ?_
  refine act_ite_stays (actFaultLog_stays hm) ?_
  refine act_ite_stays (actFirmwareLoad_stays hm) ?_
  refine act_ite_stays (actSecurityCommit_stays hm) ?_
  refine act_ite_stays (actAttestNonce_stays hm) ?_
  refine act_ite_stays (actTestUnlock_stays (by simpa using hm)) ?_
  refine act_ite_stays (actOwnerKey_stays hm) ?_
  refine act_ite_stays (actEndorsement_stays (by simpa using hm)) ?_
  refine act_ite_stays (actHotRing_stays hm) ?_
  refine act_ite_stays (actLinkRetrain_stays hm) ?_
  refine act_ite_stays (actSubmitDoorbell_stays hm) ?_
  refine act_ite_stays (actResultRelease_stays hm) ?_
  refine act_ite_stays (actRingSet_stays hm) ?_
  refine act_ite_stays (actRingEnable_stays hm) ?_
  refine act_ite_stays (actRingResume_stays hm) ?_
  refine act_ite_stays (actPending_stays hm) ?_
  refine act_ite_stays (actHostEoi_stays hm) ?_
  refine act_ite_stays (actSourceConfig_stays hm) ?_
  refine act_ite_stays (actServe_stays hm) ?_
  refine act_ite_stays (actEngineInject_stays hm) ?_
  exact actStore_stays hm

theorem execDictDescribe_stays {idx sub : Nat} {q : Req} (hm : Stays μ s.mode) : ResStays μ (execDictDescribe idx sub q s) := by
  simp [execDictDescribe, hm]

theorem execDictNext_stays {idx sub : Nat} {q : Req} (hm : Stays μ s.mode) : ResStays μ (execDictNext idx sub q s) := by
  simp [execDictNext, hm]

@[simp] theorem serveAnyRead_stays {idx sub : Nat} {q : Req} (hm : Stays μ s.mode) : Stays μ (serveAnyRead idx sub q s).mode := by
  unfold serveAnyRead
  rw [serveRead_mode fun t => afterRead_mode]
  exact hm

theorem execLastRefusalRead_stays {q : Req} (hm : Stays μ s.mode) : ResStays μ (execLastRefusalRead q s) := by
  simp [execLastRefusalRead, hm]

theorem execDepthMaxRead_stays {p vc : Nat} {q : Req} (hm : Stays μ s.mode) : ResStays μ (execDepthMaxRead p vc q s) := by
  simp [execDepthMaxRead, hm]

theorem execDictDoorbell_stays {q : Req} (hm : Stays μ s.mode) : ResStays μ (execDictDoorbell q s) := by
  unfold execDictDoorbell
  refine resStays_run hm ?_
  simp [hm]

@[simp] theorem answerRelay_stays {r : Relay} {code len value : Nat} (hm : Stays μ s.mode) :
    Stays μ (answerRelay s r code len value).mode := by
  simp [answerRelay, hm]

theorem execRelayResponse_stays {pos seq code value : Nat} (hm : Stays μ s.mode) : ResStays μ (execRelayResponse pos seq code value s) := by
  unfold execRelayResponse
  refine resStays_run hm ?_
  split <;> simp [hm]

theorem execRelayTimeoutExpiry_stays {pos seq : Nat} (hm : Stays μ s.mode) : ResStays μ (execRelayTimeoutExpiry pos seq s) := by
  unfold execRelayTimeoutExpiry
  refine resStays_run hm ?_
  split <;> simp [hm]

theorem execDeferredWriteComplete_stays {idx sub : Nat} (hm : Stays μ s.mode) : ResStays μ (execDeferredWriteComplete idx sub s) := by
  unfold execDeferredWriteComplete
  refine resStays_run hm ?_
  split
  · simp [hm]
  · split <;> simp [hm]

theorem execPlcaFallback_stays (hm : Stays μ s.mode) : ResStays μ (execPlcaFallback s) := by simp [execPlcaFallback, hm]

theorem execPlcaStatusRestored_stays (hm : Stays μ s.mode) : ResStays μ (execPlcaStatusRestored s) := by simp [execPlcaStatusRestored, hm]

theorem tick_stays (hm : Stays μ s.mode) : ResStays μ (tick s) := by simp [tick, hm]

end Sys2Proof.Machine
end

section
/-! PROOFS. The transitions of the device state table (13 R417, R419). -/

-- As in the tests: proofs elaborated side by side exhaust memory in the joined text.
set_option Elab.async false

namespace Sys2Proof.Machine

variable {μ : Mode} {s : State}

/-- A row of the device state table but the two that lead to Dormant, or none (13 R417). -/
def Moves (m x : Mode) : Prop :=
  Stays m x ∨ (m = .dormant ∧ x = .verified) ∨ ((m = .verified ∨ m = .clean) ∧ x = .configured) ∨ (m = .configured ∧ x = .ready) ∨
    (m = .ready ∧ (x = .configured ∨ x = .running)) ∨ ((m = .configured ∨ m = .ready ∨ m = .running) ∧ x = .draining) ∨
    (m = .draining ∧ x = .clean)

@[simp] theorem moves_self : Moves μ μ := .inl stays_self

theorem Moves.stays {x y : Mode} (h : Moves μ x) (hd : μ ≠ .dormant) (g : Stays x y) : Moves μ y := by
  rcases g with rfl | ⟨-, rfl⟩
  · exact h
  · exact .inl (.inr ⟨hd, rfl⟩)

/-- A move of the table out of Faulted or into Dormant is none. -/
theorem Moves.not_dormant {x : Mode} (h : Moves μ x) (hd : μ ≠ .dormant) : x ≠ .dormant := by
  rintro rfl
  simp [Moves, Stays] at h
  exact hd h.symm

/-- The table's rows for a command that has a next state. -/
def ResMoves (μ : Mode) : Res → Prop
  | .next t => Moves μ t.mode
  | _ => True

theorem ResStays.moves {r : Res} (h : ResStays μ r) : ResMoves μ r := by
  cases r with
  | next t => exact .inl h
  | _ => trivial

theorem resMoves_run {f : State → State} (hf : Moves s.mode (f s).mode) : ResMoves s.mode (run s f) := by
  unfold run
  split
  · exact moves_self
  · exact hf

theorem serveWrite_moves {idx sub : Nat} {q : Req} {act : State → Act} (ha : ∀ t, Moves t.mode (act t).state.mode) :
    Moves s.mode (serveWrite idx sub q act s).mode := by
  rcases serveWrite_mode (s := s) (idx := idx) (sub := sub) (q := q) (act := act) with h | ⟨t, ht, h⟩
  · rw [h]
    exact moves_self
  · rw [h, ← ht]
    exact ha t

theorem enterConfigured_stays : Stays .configured (enterConfigured s).mode := by
  unfold enterConfigured
  extract_lets u
  have hu : Stays .configured u.mode := by simp [u]
  exact stays_forEach hu fun t p => by simp

theorem actStateRequest_moves (q : Req) : Moves s.mode (actStateRequest q s).state.mode := by
  unfold actStateRequest
  split
  · exact moves_self
  · split
    · rename_i h
      split
      · exact moves_self
      · have hd : s.mode ≠ .dormant := by rcases h.2 with h | h <;> simp [h]
        exact Moves.stays (.inr (.inr (.inl ⟨h.2, rfl⟩))) hd enterConfigured_stays
    · split
      · rename_i h
        exact .inr (.inr (.inr (.inr (.inl ⟨h.2, .inr rfl⟩))))
      · exact moves_self

theorem takeCommit_moves (id : Nat) : Moves s.mode (takeCommit s id).1.mode := by
  unfold takeCommit
  split
  · split
    · rename_i h
      exact .inr (.inr (.inr (.inl ⟨h, by simp⟩)))
    · exact moves_self
  all_goals exact moves_self

theorem takeRun_moves (id : Nat) : Moves s.mode (takeRun s id).1.mode := by
  unfold takeRun
  split
  · split
    · rename_i h
      exact .inr (.inr (.inr (.inr (.inl ⟨h, .inr rfl⟩))))
    · exact moves_self
  all_goals exact moves_self

theorem takeAbort_moves (id : Nat) : Moves s.mode (takeAbort s id).1.mode := by
  unfold takeAbort
  split
  · simp
  · simp
  · split
    · rename_i h
      exact .inr (.inr (.inr (.inr (.inl ⟨h, .inl (by simp)⟩))))
    · exact moves_self
  all_goals exact moves_self

theorem enterDraining_stays : Stays .draining (enterDraining s).mode := by
  unfold enterDraining
  extract_lets cs u v
  have hu : Stays .draining u.mode := stays_forEach stays_self fun t c => by simp
  exact finish_stays (by simpa using hu)

theorem takeTeardown_moves : Moves s.mode (takeTeardown s).1.mode := by
  unfold takeTeardown
  split
  case _ h => exact Moves.stays (.inr (.inr (.inr (.inr (.inr (.inl ⟨.inl h, rfl⟩)))))) (by simp [h]) enterDraining_stays
  case _ h => exact Moves.stays (.inr (.inr (.inr (.inr (.inr (.inl ⟨.inr (.inl h), rfl⟩)))))) (by simp [h]) enterDraining_stays
  case _ h => exact Moves.stays (.inr (.inr (.inr (.inr (.inr (.inl ⟨.inr (.inr h), rfl⟩)))))) (by simp [h]) enterDraining_stays
  all_goals exact moves_self

theorem ownPart_moves (op v : Nat) (l : List Nat) : Moves s.mode (ownPart s op v l).1.mode := by
  unfold ownPart
  split
  · simp
  · exact takeCommit_moves _
  · exact takeRun_moves _
  · exact takeAbort_moves _
  · exact takeTeardown_moves

theorem actPondJobStep_moves (q : Req) (l : List Nat) : Moves s.mode (actPondJobStep q l s).state.mode := by
  unfold actPondJobStep
  extract_lets op v m u w x
  split
  · exact moves_self
  · split
    · exact moves_self
    · split
      · exact moves_self
      · split
        · exact moves_self
        · have hx : x.mode = s.mode := by simp [x, w, u]
          split
          · have hg := ownPart_moves (s := x) op v l
            rw [hx] at hg
            split <;> rename_i hr <;> rw [hr] at hg
            · simpa using hg
            · exact hg
          · simp [hx]

theorem actJobDirect_moves (q : Req) (l : List Nat) : Moves s.mode (actJobDirect q l s).state.mode := by
  unfold actJobDirect
  split
  · exact moves_self
  · have hg := ownPart_moves (s := s) q.value (getE s 0x5010 0x02) l
    split <;> rename_i hr <;> rw [hr] at hg <;> exact hg

theorem memberOp_moves (fromPos : Option Nat) (op v : Nat) (l : List Nat) : Moves s.mode (memberOp s fromPos op v l).mode := by
  unfold memberOp
  split
  · have hg := ownPart_moves (s := s) op (if op = 1 then getE s 0x5010 0x02 else v) l
    split <;> rename_i hr <;> rw [hr] at hg
    · simpa using hg
    · exact hg
  · rename_i k
    split
    · exact moves_self
    · split
      · simp
      · extract_lets u m seen w again kids x r own
        have hu : u.mode = s.mode := by
          unfold u
          split <;> rfl
        have hx : x.mode = s.mode := by
          unfold x
          split <;> simp [w, hu]
        have hr : Moves s.mode r.1.mode := by
          unfold r
          split
          · rw [← hx]
            exact ownPart_moves op v l
          · simp [hx]
        clear_value r
        split
        · dsimp only
          split
          · simpa using hr
          · exact hr
        · split <;> exact hr

theorem enterClean_mode : (enterClean s).mode = .clean := by simp [enterClean]

theorem execTeardownComplete_moves : ResMoves s.mode (execTeardownComplete s) := by
  unfold execTeardownComplete
  refine resMoves_run ?_
  split
  · rename_i h
    have hc : (giveAnswers (enterClean s) [(gridPos s, 0)]).mode = .clean := by rw [giveAnswers_mode, enterClean_mode]
    refine .inr (.inr (.inr (.inr (.inr (.inr ⟨h.1, ?_⟩)))))
    dsimp only
    split
    · rw [answerUp_mode]
      exact hc
    · exact hc
  · exact moves_self

theorem startFirmware_mode {f : FwImage} : (startFirmware s f).mode = .verified := by simp [startFirmware]

theorem execFirmwareImageChecked_moves {f : FwImage} : ResMoves s.mode (execFirmwareImageChecked f s) := by
  unfold execFirmwareImageChecked
  refine resMoves_run ?_
  split
  · rename_i hd _
    dsimp only
    split
    · exact .inl (refuseFirmware_stays stays_self)
    · exact .inr (.inl ⟨hd, startFirmware_mode⟩)
  · exact moves_self

theorem act_ite_moves {c : Prop} [Decidable c] {f g : State → Act} (hf : Moves μ (f s).state.mode) (hg : Moves μ (g s).state.mode) :
    Moves μ ((if c then f else g) s).state.mode := by
  split <;> assumption

theorem actionMid_moves (idx sub : Nat) (q : Req) : Moves s.mode (actionMid idx sub q s).state.mode := by
  unfold actionMid
  refine act_ite_moves (.inl (actPlaceObject_stays stays_self)) ?_
  refine act_ite_moves (.inl (actFlushObject_stays stays_self)) ?_
  refine act_ite_moves (.inl (actKvPoolTail_stays stays_self)) ?_
  refine act_ite_moves (.inl (actSetWatermark_stays stays_self)) ?_
  refine act_ite_moves (.inl (actReleaseProvisional_stays stays_self)) ?_
  refine act_ite_moves (.inl (actOwnRegion_stays stays_self)) ?_
  refine act_ite_moves (.inl (actPoolCommit_stays stays_self)) ?_
  refine act_ite_moves (.inl (actWindowSet_stays stays_self)) ?_
  refine act_ite_moves (.inl (actWindowClear_stays stays_self)) ?_
  refine act_ite_moves (.inl (actRetention_stays stays_self)) ?_
  refine act_ite_moves (.inl (actLakeWindow_stays stays_self)) ?_
  refine act_ite_moves (actStateRequest_moves q) ?_
  refine act_ite_moves (actPondJobStep_moves q _) ?_
  refine act_ite_moves (actJobDirect_moves q _) ?_
  refine act_ite_moves (.inl (actRemapStone_stays stays_self)) ?_
  refine act_ite_moves (.inl (actLoad_stays stays_self)) ?_
  refine act_ite_moves (.inl (actClass_stays stays_self)) ?_
  refine act_ite_moves (.inl (actUnload_stays stays_self)) ?_
  refine act_ite_moves (.inl (actResume_stays stays_self)) ?_
  exact .inl (actStore_stays stays_self)

theorem actionOf_moves (idx sub : Nat) (q : Req) : Moves s.mode (actionOf idx sub q s).state.mode := by
  unfold actionOf
  refine act_ite_moves (.inl (actionLow_stays stays_self)) (act_ite_moves (actionMid_moves idx sub q) (.inl (actionHigh_stays stays_self)))

theorem serveOp_moves (opcode idx sub : Nat) (q : Req) : Moves s.mode (serveOp opcode idx sub q s).mode := by
  unfold serveOp
  split
  · exact .inl (serveAnyRead_stays stays_self)
  · split
    · exact serveWrite_moves fun t => actionOf_moves idx sub q
    · split
      · simp
      · split
        · simp
        · split <;> simp

theorem execMappedWrite_moves {offset width value : Nat} : ResMoves s.mode (execMappedWrite offset width value s) := by
  unfold execMappedWrite
  refine resMoves_run ?_
  split
  · simp
  · split
    · simp
    · split
      · simp
      · split
        · exact moves_self
        · split
          · simp
          · exact serveWrite_moves fun t => actionOf_moves _ _ _

theorem execRingCommand_moves {ring : Nat} {e : RingEntry} {opcode idx sub : Nat} {readOk : Bool} {q : Req} :
    ResMoves s.mode (execRingCommand ring e opcode idx sub readOk q s) := by
  unfold execRingCommand
  refine resMoves_run ?_
  split
  · exact moves_self
  · split
    · exact .inl (refuseEntry_stays stays_self)
    · extract_lets u v w
      have hw : w.mode = s.mode := by simp [w, u]
      rw [← hw]
      exact serveOp_moves _ _ _ _

theorem execResetRelease_moves {n : Nat} : ResMoves s.mode (execResetRelease n s) := by
  unfold execResetRelease
  change Moves s.mode (State.mode _)
  split <;> simp


/-- Every command but the reset pin's and the end of the unlock's wipe moves by the rows of the table. -/
theorem exec_moves (c : Instr) (h1 : c ≠ .resetAssert) (h2 : c ≠ .unlockWipeComplete) : ResMoves s.mode (exec c s) := by
  cases c with
  | resetAssert => exact absurd rfl h1
  | unlockWipeComplete => exact absurd rfl h2
  | resetRelease n => exact execResetRelease_moves
  | missNotice _ _ r => exact (execMissNotice_stays (_notResident := r) stays_self).moves
  | interruptSelect n => exact (execInterruptSelect_stays (target := n) stays_self).moves
  | supplyRange _ => exact (execSupplyRange_stays stays_self).moves
  | refclkLost => exact (execRefclkLost_stays stays_self).moves
  | pllLockTimeout _ => exact (execPllLockTimeout_stays stays_self).moves
  | pllLockLoss _ => exact (execPllLockLoss_stays stays_self).moves
  | firmwareLoad _ => exact (execFirmwareLoad_stays stays_self).moves
  | firmwareImageChecked _ => exact execFirmwareImageChecked_moves
  | securityVersionCommit _ => exact (execSecurityVersionCommit_stays stays_self).moves
  | initSramZeroed => exact (execInitSramZeroed_stays stays_self).moves
  | stacksTrained _ => exact (execStacksTrained_stays stays_self).moves
  | tier1Zeroed => exact (execTier1Zeroed_stays stays_self).moves
  | rngHealth => exact (execRngHealth_stays stays_self).moves
  | ownerKey _ => exact (execOwnerKey_stays stays_self).moves
  | endorsement _ _ => exact (execEndorsement_stays stays_self).moves
  | attestNonce _ => exact (execAttestNonce_stays stays_self).moves
  | quoteComplete => exact (execQuoteComplete_stays stays_self).moves
  | testUnlock _ _ => exact (execTestUnlock_stays stays_self).moves
  | testPortInstruction _ => exact (execTestPortInstruction_stays stays_self).moves
  | stateRequestConfigured _ => exact resMoves_run (serveWrite_moves fun t => actStateRequest_moves _)
  | stateRequestRunning _ => exact resMoves_run (serveWrite_moves fun t => actStateRequest_moves _)
  | packageIdWrite _ => exact (execPackageIdWrite_stays stays_self).moves
  | keystonePositionWrite _ => exact (execKeystonePositionWrite_stays stays_self).moves
  | keystoneBeacon => exact (execKeystoneBeacon_stays stays_self).moves
  | pondBeacon _ => exact (execPondBeacon_stays stays_self).moves
  | keystoneSilent => exact (execKeystoneSilent_stays stays_self).moves
  | unitFailure _ => exact (execUnitFailure_stays stays_self).moves
  | submit _ _ _ => exact (execSubmit_stays stays_self).moves
  | scoringPass _ _ _ _ _ => exact (execScoringPass_stays stays_self).moves
  | gateStreamComplete _ _ _ _ => exact (execGateStreamComplete_stays stays_self).moves
  | partialScores _ => exact (execPartialScores_stays stays_self).moves
  | placementBlockRead _ _ _ _ _ _ => exact (execPlacementBlockRead_stays stays_self).moves
  | claimBundle _ _ => exact (execClaimBundle_stays stays_self).moves
  | claimBundleAck _ _ _ _ => exact (execClaimBundleAck_stays stays_self).moves
  | admissionBarrierJoin _ _ _ => exact (execAdmissionBarrierJoin_stays stays_self).moves
  | admission _ _ _ => exact (execAdmission_stays stays_self).moves
  | admissionAbort _ _ _ _ => exact (execAdmissionAbort_stays stays_self).moves
  | verdictBundle _ _ => exact (execVerdictBundle_stays stays_self).moves
  | tokenCopy _ _ _ => exact (execTokenCopy_stays stays_self).moves
  | cisternGrant _ _ => exact (execCisternGrant_stays stays_self).moves
  | listRebuildComplete _ => exact (execListRebuildComplete_stays stays_self).moves
  | expertRun _ _ _ => exact (execExpertRun_stays stays_self).moves
  | runPartDue _ _ _ => exact (execRunPartDue_stays stays_self).moves
  | missGraceExpiry _ _ _ => exact (execMissGraceExpiry_stays stays_self).moves
  | expertRunComplete _ _ => exact (execExpertRunComplete_stays stays_self).moves
  | carryWaitExpiry _ _ _ => exact (execCarryWaitExpiry_stays stays_self).moves
  | ret _ _ _ => exact (execRet_stays stays_self).moves
  | returnPacket _ _ => exact (execReturnPacket_stays stays_self).moves
  | returnTimeoutExpiry _ _ => exact (execReturnTimeoutExpiry_stays stays_self).moves
  | fetch _ _ _ => exact (execFetch_stays stays_self).moves
  | flush _ _ _ => exact (execFlush_stays stays_self).moves
  | kvCommit _ _ _ => exact (execKvCommit_stays stays_self).moves
  | retire _ _ _ => exact (execRetire_stays stays_self).moves
  | accept _ _ _ => exact (execAccept_stays stays_self).moves
  | retireGeneration _ => exact (execRetireGeneration_stays stays_self).moves
  | abandonStranded _ => exact (execAbandonStranded_stays stays_self).moves
  | placementUpdate _ => exact (execPlacementUpdate_stays stays_self).moves
  | placementStoreComplete _ _ _ _ => exact (execPlacementStoreComplete_stays stays_self).moves
  | deadlinePolicyWrite _ _ => exact (execDeadlinePolicyWrite_stays stays_self).moves
  | fillStart _ _ _ => exact (execFillStart_stays stays_self).moves
  | fillComplete _ _ _ _ _ => exact (execFillComplete_stays stays_self).moves
  | writebackComplete _ _ => exact (execWritebackComplete_stays stays_self).moves
  | placeObject _ => exact (execPlaceObject_stays stays_self).moves
  | flushObject _ => exact (execFlushObject_stays stays_self).moves
  | kvWrite _ _ _ _ _ => exact (execKvWrite_stays stays_self).moves
  | setWatermark _ => exact (execSetWatermark_stays stays_self).moves
  | releaseProvisional _ => exact (execReleaseProvisional_stays stays_self).moves
  | kvPoolTail _ => exact (execKvPoolTail_stays stays_self).moves
  | halt _ _ _ => exact (execHalt_stays stays_self).moves
  | branch _ _ _ => exact (execBranch_stays stays_self).moves
  | loopSet _ _ _ => exact (execLoopSet_stays stays_self).moves
  | loopBack _ _ _ => exact (execLoopBack_stays stays_self).moves
  | yield _ _ _ => exact (execYield_stays stays_self).moves
  | stepMark _ _ _ => exact (execStepMark_stays stays_self).moves
  | npBegin _ _ _ => exact (execNpBegin_stays stays_self).moves
  | npEnd _ _ _ => exact (execNpEnd_stays stays_self).moves
  | setVl _ _ _ => exact (execSetVl_stays stays_self).moves
  | setReg _ _ _ => exact (execSetReg_stays stays_self).moves
  | regionOverrun _ => exact (execRegionOverrun_stays stays_self).moves
  | dmaPost _ _ _ => exact (execDmaPost_stays stays_self).moves
  | dmaDescriptorComplete _ _ _ _ => exact (execDmaDescriptorComplete_stays stays_self).moves
  | syncSet _ _ _ => exact (execSyncSet_stays stays_self).moves
  | syncAdd _ _ _ => exact (execSyncAdd_stays stays_self).moves
  | syncSignal _ _ _ => exact (execSyncSignal_stays stays_self).moves
  | syncWait _ _ _ => exact (execSyncWait_stays stays_self).moves
  | syncRead _ _ _ => exact (execSyncRead_stays stays_self).moves
  | syncClear _ _ _ => exact (execSyncClear_stays stays_self).moves
  | signalDelivery _ _ _ => exact (execSignalDelivery_stays stays_self).moves
  | syncWatchdogExpiry _ => exact (execSyncWatchdogExpiry_stays stays_self).moves
  | scrubPass _ _ => exact (execScrubPass_stays stays_self).moves
  | fenceStone _ => exact (execFenceStone_stays stays_self).moves
  | remapStone _ => exact (execRemapStone_stays stays_self).moves
  | denseProduct _ _ _ _ => exact (execDenseProduct_stays stays_self).moves
  | sparseProduct _ _ _ _ => exact (execSparseProduct_stays stays_self).moves
  | tileComplete _ _ _ _ => exact (execTileComplete_stays stays_self).moves
  | compressActivations _ _ _ => exact (execCompressActivations_stays stays_self).moves
  | compressWeightsMask _ _ _ => exact (execCompressWeightsMask_stays stays_self).moves
  | compressWeightsMagnitude _ _ _ => exact (execCompressWeightsMagnitude_stays stays_self).moves
  | expand _ _ _ => exact (execExpand_stays stays_self).moves
  | transpose _ _ _ => exact (execTranspose_stays stays_self).moves
  | engineInject _ => exact (execEngineInject_stays stays_self).moves
  | configure _ _ _ => exact (execConfigure_stays stays_self).moves
  | vectorRun _ _ _ _ _ => exact (execVectorRun_stays stays_self).moves
  | vectorRunComplete _ _ => exact (execVectorRunComplete_stays stays_self).moves
  | scalarSet _ _ _ => exact (execScalarSet_stays stays_self).moves
  | scalarFunc _ _ _ => exact (execScalarFunc_stays stays_self).moves
  | scalarStore _ _ _ => exact (execScalarStore_stays stays_self).moves
  | scalarLoad _ _ _ => exact (execScalarLoad_stays stays_self).moves
  | bufferRelease _ _ _ => exact (execBufferRelease_stays stays_self).moves
  | poolCommit _ => exact (execPoolCommit_stays stays_self).moves
  | memoryLoad _ _ _ => exact (execMemoryLoad_stays stays_self).moves
  | memoryStore _ _ _ => exact (execMemoryStore_stays stays_self).moves
  | atomicRead _ _ _ => exact (execAtomicRead_stays stays_self).moves
  | atomicSwap _ _ _ => exact (execAtomicSwap_stays stays_self).moves
  | atomicCas _ _ _ => exact (execAtomicCas_stays stays_self).moves
  | atomicAdd _ _ _ => exact (execAtomicAdd_stays stays_self).moves
  | atomicAnd _ _ _ => exact (execAtomicAnd_stays stays_self).moves
  | atomicOr _ _ _ => exact (execAtomicOr_stays stays_self).moves
  | atomicXor _ _ _ => exact (execAtomicXor_stays stays_self).moves
  | atomicMaxS _ _ _ => exact (execAtomicMaxS_stays stays_self).moves
  | atomicMinS _ _ _ => exact (execAtomicMinS_stays stays_self).moves
  | atomicMaxU _ _ _ => exact (execAtomicMaxU_stays stays_self).moves
  | atomicMinU _ _ _ => exact (execAtomicMinU_stays stays_self).moves
  | memoryFence _ _ _ => exact (execMemoryFence_stays stays_self).moves
  | memoryRequestAtHome _ _ => exact (execMemoryRequestAtHome_stays stays_self).moves
  | lineRequestPerformed _ _ => exact (execLineRequestPerformed_stays stays_self).moves
  | memoryResponse _ => exact (execMemoryResponse_stays stays_self).moves
  | attemptTimeoutExpiry _ _ _ => exact (execAttemptTimeoutExpiry_stays stays_self).moves
  | ledgerEntryExpiry _ _ _ _ => exact (execLedgerEntryExpiry_stays stays_self).moves
  | windowSet _ => exact (execWindowSet_stays stays_self).moves
  | windowClear _ => exact (execWindowClear_stays stays_self).moves
  | groupCommit _ _ _ => exact (execGroupCommit_stays stays_self).moves
  | collBarrier _ _ _ => exact (execCollBarrier_stays stays_self).moves
  | collBroadcast _ _ _ => exact (execCollBroadcast_stays stays_self).moves
  | collReduce _ _ _ => exact (execCollReduce_stays stays_self).moves
  | collAllReduce _ _ _ => exact (execCollAllReduce_stays stays_self).moves
  | collReduceScatter _ _ _ => exact (execCollReduceScatter_stays stays_self).moves
  | collAllGather _ _ _ => exact (execCollAllGather_stays stays_self).moves
  | collMulticast _ _ _ => exact (execCollMulticast_stays stays_self).moves
  | collRetentionGrant _ _ => exact (execCollRetentionGrant_stays stays_self).moves
  | tileNotice _ _ _ => exact (execTileNotice_stays stays_self).moves
  | partialMsg _ => exact (execPartialMsg_stays stays_self).moves
  | resultMsg _ => exact (execResultMsg_stays stays_self).moves
  | pnak _ _ => exact (execPnak_stays stays_self).moves
  | collNak _ _ => exact (execCollNak_stays stays_self).moves
  | doneMsg _ => exact (execDoneMsg_stays stays_self).moves
  | sealMsg _ => exact (execSealMsg_stays stays_self).moves
  | abortReq _ => exact (execAbortReq_stays stays_self).moves
  | abort _ => exact (execAbort_stays stays_self).moves
  | backoff _ => exact (execBackoff_stays stays_self).moves
  | backoffRetry _ _ => exact (execBackoffRetry_stays stays_self).moves
  | leg _ => exact (execLeg_stays stays_self).moves
  | legAck _ _ _ _ _ _ => exact (execLegAck_stays stays_self).moves
  | collTimeoutExpiry _ => exact (execCollTimeoutExpiry_stays stays_self).moves
  | sealWaitTimeout _ => exact (execSealWaitTimeout_stays stays_self).moves
  | collAbort _ => exact (execCollAbort_stays stays_self).moves
  | portTrainingRetry _ => exact (execPortTrainingRetry_stays stays_self).moves
  | trainingComplete _ _ => exact (execTrainingComplete_stays stays_self).moves
  | hello _ _ => exact (execHello_stays stays_self).moves
  | echoFrame _ _ => exact (execEchoFrame_stays stays_self).moves
  | refusalNotice _ => exact (execRefusalNotice_stays stays_self).moves
  | linkLockLoss _ => exact (execLinkLockLoss_stays stays_self).moves
  | portRetrain _ _ => exact (execPortRetrain_stays stays_self).moves
  | portFence _ _ => exact (execPortFence_stays stays_self).moves
  | rekey _ => exact (execRekey_stays stays_self).moves
  | rekeyExchange _ _ => exact (execRekeyExchange_stays stays_self).moves
  | linkFrameReceived _ _ => exact (execLinkFrameReceived_stays stays_self).moves
  | controlBlock _ _ => exact (execControlBlock_stays stays_self).moves
  | frameTransmit _ _ => exact (execFrameTransmit_stays stays_self).moves
  | packetRoute _ _ => exact (execPacketRoute_stays stays_self).moves
  | aqueductPacket _ _ => exact (execAqueductPacket_stays stays_self).moves
  | aqSet _ => exact (execAqSet_stays stays_self).moves
  | aqClear _ => exact (execAqClear_stays stays_self).moves
  | tableInstall _ => exact (execTableInstall_stays stays_self).moves
  | injectEpoch _ => exact (execInjectEpoch_stays stays_self).moves
  | tableRetire _ => exact (execTableRetire_stays stays_self).moves
  | epochStepInstall _ => exact (execEpochStepInstall_stays stays_self).moves
  | epochStepFlip _ => exact (execEpochStepFlip_stays stays_self).moves
  | epochStepPoll _ => exact (execEpochStepPoll_stays stays_self).moves
  | epochStepRetire _ => exact (execEpochStepRetire_stays stays_self).moves
  | epochStepMember _ _ _ => exact (execEpochStepMember_stays stays_self).moves
  | epochStepAnswer _ _ _ _ _ => exact (execEpochStepAnswer_stays stays_self).moves
  | epochStepTimeout => exact (execEpochStepTimeout_stays stays_self).moves
  | load _ => exact (execLoad_stays stays_self).moves
  | loadComplete _ => exact (execLoadComplete_stays stays_self).moves
  | unload _ _ => exact (execUnload_stays stays_self).moves
  | unloadComplete _ => exact (execUnloadComplete_stays stays_self).moves
  | resumeContinue _ _ => exact (execResumeContinue_stays stays_self).moves
  | resumeStepMark _ _ => exact (execResumeStepMark_stays stays_self).moves
  | pondJobPrepare _ _ => exact resMoves_run (serveWrite_moves fun t => actPondJobStep_moves _ _)
  | pondJobCommit _ => exact resMoves_run (serveWrite_moves fun t => actPondJobStep_moves _ _)
  | pondJobRun _ => exact resMoves_run (serveWrite_moves fun t => actPondJobStep_moves _ _)
  | pondJobAbort _ => exact resMoves_run (serveWrite_moves fun t => actPondJobStep_moves _ _)
  | pondJobTeardown _ => exact resMoves_run (serveWrite_moves fun t => actPondJobStep_moves _ _)
  | jobPrepare _ _ _ => exact resMoves_run (f := fun s => memberOp s _ _ _ _) (memberOp_moves _ _ _ _)
  | jobCommit _ _ => exact resMoves_run (f := fun s => memberOp s _ _ _ _) (memberOp_moves _ _ _ _)
  | jobRun _ _ => exact resMoves_run (f := fun s => memberOp s _ _ _ _) (memberOp_moves _ _ _ _)
  | jobAbort _ _ => exact resMoves_run (f := fun s => memberOp s _ _ _ _) (memberOp_moves _ _ _ _)
  | jobTeardown _ => exact resMoves_run (f := fun s => memberOp s _ _ _ _) (memberOp_moves _ _ _ _)
  | teardownComplete => exact execTeardownComplete_moves
  | jobStepAnswer _ => exact (execJobStepAnswer_stays stays_self).moves
  | jobChildWaitExpiry => exact (execJobChildWaitExpiry_stays stays_self).moves
  | jobStepTimeout => exact (execJobStepTimeout_stays stays_self).moves
  | sliceGrant _ => exact (execSliceGrant_stays stays_self).moves
  | sliceExpiry _ => exact (execSliceExpiry_stays stays_self).moves
  | sliceStopComplete _ _ => exact (execSliceStopComplete_stays stays_self).moves
  | swapInStart => exact (execSwapInStart_stays stays_self).moves
  | swapOutComplete _ => exact (execSwapOutComplete_stays stays_self).moves
  | swapInComplete _ => exact (execSwapInComplete_stays stays_self).moves
  | submitDoorbell _ => exact (execSubmitDoorbell_stays stays_self).moves
  | ringNop _ _ => exact (execRingNop_stays stays_self).moves
  | ringStep _ _ => exact (execRingStep_stays stays_self).moves
  | ringPrefill _ _ => exact (execRingPrefill_stays stays_self).moves
  | ringFlush _ _ => exact (execRingFlush_stays stays_self).moves
  | ringCommand _ _ _ _ _ _ _ => exact execRingCommand_moves
  | ringReadError _ => exact (execRingReadError_stays stays_self).moves
  | ringEnable _ _ => exact (execRingEnable_stays stays_self).moves
  | ringResume _ _ => exact (execRingResume_stays stays_self).moves
  | resultRelease _ _ => exact (execResultRelease_stays stays_self).moves
  | resultMailboxRead _ _ => exact (execResultMailboxRead_stays stays_self).moves
  | dictWrite _ _ _ => exact resMoves_run (serveWrite_moves fun t => actionOf_moves _ _ _)
  | dictDescribe _ _ _ => exact (execDictDescribe_stays stays_self).moves
  | dictNext _ _ _ => exact (execDictNext_stays stays_self).moves
  | dictDoorbell _ => exact (execDictDoorbell_stays stays_self).moves
  | mappedWrite _ _ _ => exact execMappedWrite_moves
  | relayRequest _ _ _ _ => exact resMoves_run (serveOp_moves _ _ _ _)
  | relayResponse _ _ _ _ => exact (execRelayResponse_stays stays_self).moves
  | relayTimeoutExpiry _ _ => exact (execRelayTimeoutExpiry_stays stays_self).moves
  | deferredWriteComplete _ _ => exact (execDeferredWriteComplete_stays stays_self).moves
  | lastRefusalRead _ => exact (execLastRefusalRead_stays stays_self).moves
  | depthMaxRead _ _ _ => exact (execDepthMaxRead_stays stays_self).moves
  | plcaFallback => exact (execPlcaFallback_stays stays_self).moves
  | flitReceived _ => exact (execFlitReceived_stays stays_self).moves
  | umoraLockLoss => exact (execUmoraLockLoss_stays stays_self).moves
  | linkRetrain _ => exact (execLinkRetrain_stays stays_self).moves
  | umoraDown => exact (execUmoraDown_stays stays_self).moves
  | hostCompletion _ _ _ _ => exact (execHostCompletion_stays stays_self).moves
  | timeBeacon _ _ => exact (execTimeBeacon_stays stays_self).moves
  | badMessage _ => exact (execBadMessage_stays stays_self).moves
  | holdoverExpiry => exact (execHoldoverExpiry_stays stays_self).moves
  | faultReport _ => exact (execFaultReport_stays stays_self).moves
  | reportWireStuck _ _ _ => exact (execReportWireStuck_stays stays_self).moves
  | faultAck _ => exact (execFaultAck_stays stays_self).moves
  | cAckHoldExpiry => exact (execCAckHoldExpiry_stays stays_self).moves
  | faultSummarySend => exact (execFaultSummarySend_stays stays_self).moves
  | faultSummary _ _ => exact (execFaultSummary_stays stays_self).moves
  | summaryStale _ => exact (execSummaryStale_stays stays_self).moves
  | interruptDelivery _ => exact (execInterruptDelivery_stays stays_self).moves
  | mgmtEoi _ _ => exact (execMgmtEoi_stays stays_self).moves
  | hostEoi _ => exact (execHostEoi_stays stays_self).moves
  | serve _ _ => exact (execServe_stays stays_self).moves
  | pendingWrite _ _ => exact (execPendingWrite_stays stays_self).moves
  | wakeTolerance _ => exact (execWakeTolerance_stays stays_self).moves
  | powerStateEntry => exact (execPowerStateEntry_stays stays_self).moves
  | powerEntryComplete => exact (execPowerEntryComplete_stays stays_self).moves
  | wakeEvent _ => exact (execWakeEvent_stays stays_self).moves
  | wakeComplete => exact (execWakeComplete_stays stays_self).moves
  | powerMeasurement _ => exact (execPowerMeasurement_stays stays_self).moves
  | temperatureReading _ _ => exact (execTemperatureReading_stays stays_self).moves
  | umoraTrainingComplete _ _ => exact (execUmoraTrainingComplete_stays stays_self).moves
  | tier1Scrub _ _ _ => exact (execTier1Scrub_stays stays_self).moves
  | plcaStatusRestored => exact (execPlcaStatusRestored_stays stays_self).moves

theorem Stays.eq_dormant {x : Mode} (h : Stays .dormant x) : x = .dormant := h.resolve_right fun g => g.1 rfl

/-- The state after the end of the unlock's wipe is Dormant or as it was. -/
theorem execUnlockWipeComplete_mode {t : State} (h : execUnlockWipeComplete s = .next t) : t.mode = s.mode ∨ t.mode = .dormant := by
  unfold execUnlockWipeComplete run at h
  split at h
  · obtain rfl := Host.Outcome.next.inj h
    exact .inl rfl
  · obtain rfl := Host.Outcome.next.inj h
    dsimp only
    split
    · exact .inl rfl
    · refine .inr (Stays.eq_dormant ?_)
      rw [endDeferred_mode]
      exact raise1_stays (by simp)

theorem step_moves {t : State} (h : step s = .next t) (h1 : ∀ rest, s.pending ≠ .resetAssert :: rest)
    (h2 : ∀ rest, s.pending ≠ .unlockWipeComplete :: rest) : Moves s.mode t.mode := by
  have hr : ResMoves s.mode (step s) := by
    unfold step
    split
    · exact (tick_stays stays_self).moves
    · rename_i c rest hp
      exact exec_moves (s := { s with pending := rest }) c (by rintro rfl; exact h1 rest hp) (by rintro rfl; exact h2 rest hp)
  rw [h] at hr
  exact hr

/-- Settles O60: every operation of the model leaves the device state alone or takes the part to Faulted, but for the few that make
a row of the table; the reset pin's fall and the end of the unlock's wipe lead to Dormant. -/
theorem deviceStateTransitions : Obligations.DeviceStateTransitions := by
  unfold Obligations.DeviceStateTransitions
  intro s t h
  by_cases h1 : ∃ rest, s.pending = .resetAssert :: rest
  · obtain ⟨rest, hp⟩ := h1
    have ht : t.mode = .dormant := by
      simp only [step, hp] at h
      obtain rfl := Host.Outcome.next.inj h
      rfl
    exact ⟨.inr (.inl ht), fun _ _ => ⟨rest, .inl hp⟩⟩
  by_cases h2 : ∃ rest, s.pending = .unlockWipeComplete :: rest
  · obtain ⟨rest, hp⟩ := h2
    have ht : t.mode = s.mode ∨ t.mode = .dormant := by
      simp only [step, hp] at h
      exact execUnlockWipeComplete_mode (s := { s with pending := rest }) h
    exact ⟨ht.imp_right .inl, fun _ _ => ⟨rest, .inr hp⟩⟩
  have hm := step_moves h (fun rest hp => h1 ⟨rest, hp⟩) (fun rest hp => h2 ⟨rest, hp⟩)
  refine ⟨?_, fun hd ht => absurd ht (hm.not_dormant hd)⟩
  rcases hm with (hm | hm) | hm
  · exact .inl hm
  · exact .inr (.inr (.inl hm))
  · exact .inr (.inr (.inr hm))

end Sys2Proof.Machine
end
